-- ==== Sys2Proof/Word.lean ====
section
/-! DEFINITION. Word types of the T1 and the association list that holds sparse state.
Widths: registers are 32 bits unless their table marks them 64 (R6); device addresses are 48 bits (R4);
the word under the word code is 128 bits (R397); a fabric payload is 256 bits (R210). -/

namespace Sys2Proof

abbrev Byte := BitVec 8
/-- A register value. A 32-bit register (R6) keeps its upper half zero. -/
abbrev Reg := BitVec 64
/-- A 128-bit word: a bundle (R68), a flit payload (R237), a memory word (R77). -/
abbrev Word := BitVec 128
/-- A 256-bit neighbour-fabric payload (R210). -/
abbrev Payload := BitVec 256

/-- Sparse state by key: a unit that is not listed is in its reset state. -/
abbrev Assoc (κ α : Type) := List (κ × α)

def Assoc.find? {κ α : Type} [DecidableEq κ] : Assoc κ α → κ → Option α
  | [], _ => none
  | (k, v) :: rest, q => if k = q then some v else Assoc.find? rest q

/-- The value at a key, or the reset value `d` of an unlisted one. -/
def Assoc.get {κ α : Type} [DecidableEq κ] (d : α) (m : Assoc κ α) (k : κ) : α :=
  (Assoc.find? m k).getD d

def Assoc.erase {κ α : Type} [DecidableEq κ] (m : Assoc κ α) (k : κ) : Assoc κ α :=
  m.filter (fun p => decide (p.1 ≠ k))

def Assoc.set {κ α : Type} [DecidableEq κ] (m : Assoc κ α) (k : κ) (v : α) : Assoc κ α :=
  (k, v) :: Assoc.erase m k

end Sys2Proof
end

