-- ==== Sys2Proof/RegNames.lean ====
section
/-! DEFINITION. The names of every register the spec gives the T1, block by block (R22, R66, R67, R107, R135,
R156, R184, R208, R232-R234, R267-R269, R290, R291, R309, R317, R335-R338, R362, R363, R394-R396, R422-R424,
R449, R473). Registers with an index carry it as an argument of `RegId`. -/

namespace Sys2Proof

/-- DEV registers (R26). -/
inductive DevReg
  | id | part | stepping | geometry | clkSel | clkStatus
  deriving DecidableEq, Repr

/-- HOST registers without an index (R335). -/
inductive HostReg
  | version | bar4Base | pool | link | mboxDoorbell | mboxStatus
  deriving DecidableEq, Repr

/-- EVT registers without an index (R337), and EVT_RING_HEAD of BAR2 page 128 (R336). -/
inductive EvtReg
  | ringBase | ringCfg | ringTail | status | merged | ringHead
  deriving DecidableEq, Repr

/-- TIME and HSYNC registers (R290). -/
inductive TimeReg
  | now | ns | peerCtrl | peerFeed | peerWait | holdLast | holdCount
  | hsyncSignal | hsyncSel | hsyncLookup | hsyncValue | hsyncBind | hsyncFree
  deriving DecidableEq, Repr

/-- STITCH registers (R66). -/
inductive StitchReg
  | period | status | ctrl | replay | number | commitSeq | lastVoid | ctx | voidCount
  | modeSel | modeArg | modeTarget | modeCmd | modeState
  deriving DecidableEq, Repr

/-- PWR registers (R394). -/
inductive PwrReg
  | status | fault | cap | moduleW | vinMain | vinIo | vinAux | governed | eMain | eIo | eAux
  deriving DecidableEq, Repr

/-- REL registers without an index (R422). -/
inductive RelReg
  | status | darnSel | ce | ue | chk | sig | transient | permanent | darns | discrepancy
  | faultRec0 | faultRec1 | faultRec2 | faultCount | ledger
  deriving DecidableEq, Repr

/-- Registers of one HBM stack (R309). -/
inductive HbmReg
  | status | pcMap | pcFail | ilN | scrub | ce | ue | ueLast | merge
  deriving DecidableEq, Repr

/-- Registers of one optical site without an index (R362). -/
inductive OptReg
  | status | peer | peerSerial | version | caps | self
  | txFlits | rxFlits | resend | fecCorr | ue | retrain | exportLate | importFault
  deriving DecidableEq, Repr

/-- TWIN registers (R363). -/
inductive TwinReg
  | cfg | status | version | caps | ckptLast | ckptOpen | ckptBytes | captures | hold | hbMiss
  deriving DecidableEq, Repr

/-- BOOT registers without an index (R449). -/
inductive BootReg
  | status | time | reset | resetCause | store | session | bg
  deriving DecidableEq, Repr

/-- SEC registers (R473). -/
inductive SecReg
  | status | svnTf | svnMf | svnPat | svnWgt | lmsUsed | lmsReserved | debug | diagAddr | diagCtrl
  | diagData0 | diagData1 | diagData2 | diagData3 | ide
  deriving DecidableEq, Repr

/-- Panel common registers without a second index (R269, R395). -/
inductive PanelReg
  | meshHoles | pwrStatus | wake | feed | eFabric | eIo
  deriving DecidableEq, Repr

/-- Bay registers without an index (R67, R135, R156, R234, R291, R396, R423). -/
inductive BayReg
  | stitchLen | stitchHem | vote | modeActive | modeStaged | numdefActive | numdefStaged | periodStaged
  | arithFlags | arithCus
  | sparseFault | sparseFaultCount | flitDense | flitBitmap | flitPresent | zeroDropped | retireLast | retireMax
  | fabSample | fabTelSize | fabTelBase | fabTelHead | fabTelTail | fabTelDrop | fabResidue | fabSeamMax
  | timeNow | timeErr | timeSlip | syncResidue
  | pwrStatus | pwrBudget | pwrVmin | pwrVminTs | govCfg | govHeld | govBallast | govCapped | pwrBoost | pwrStretch
  | relCe | relUe | relUeLast | roll | scrubPass
  deriving DecidableEq, Repr

/-- CU registers without an index (R107, R208, R232, R268, R424). -/
inductive CuReg
  | status | lanePc | flags | chkTol | chkCount | chkLast | srSeed | spConflict
  | steMacCyc | steScanCyc | steStageWait | sig | sigExpect | winMiss
  | linkCfg | linkStatus | linkStall
  | msgOutOk | msgOutNospace | msgOutNowindow | msgOutDisabled | msgBusy | msgRetry | msgInNack | msgDiscard
  | steerCfg | steerStatus | steerFaultLast | steerFlits | steerDropped
  deriving DecidableEq, Repr

/-- MU registers without an index (R184, R208, R233). -/
inductive MuReg
  | status | slicePwr | conflict | conflictLast | narrowWait | starve | hazard | hazardLast | winMiss | discard
  | fabStatus
  | dspStatus | dspFaultLast | dspAccept | dspLater | dspDrop | dspDefer | dspDeferOvf | dspSkip | dspExit
  | dspOrphan | dspNan
  deriving DecidableEq, Repr

/-- Router registers (R267). -/
inductive RtrReg
  | status | flits | hold | ue
  deriving DecidableEq, Repr

/-- Queue-pair registers of one BAR2 page (R336). -/
inductive QpReg
  | cfg | inBase | outBase | inTail | inHead | outTail | outHead | status
  deriving DecidableEq, Repr

/-- DMA-channel registers of one BAR2 page (R336). -/
inductive DmaReg
  | ringBase | ringCfg | tail | head | status | ctrl
  deriving DecidableEq, Repr

/-- Claim-controller registers (R338), in the core's local space. -/
inductive ClaimReg
  | id | done | status | record | payload0 | payload1 | payload2 | payload3
  deriving DecidableEq, Repr

/-- One register of the T1. `b` bay, `p` panel, `u` CU (4 x cluster + index), `c` cluster (x + 512 y),
`s` stack, `t` site, `q` queue pair, `d` channel or descriptor, `w` word. -/
inductive RegId
  | dev (r : DevReg) | ver (i w : Nat)
  | host (r : HostReg) | dmaRes (d : Nat) | mboxReq (w : Nat) | mboxRsp (w : Nat)
  | msixTable (w : Nat) | msixPba (w : Nat)
  | evt (r : EvtReg) | evtSrc (n : Nat)
  | time (r : TimeReg) | waitCfg (n : Nat) | waitState (n : Nat)
  | stitch (r : StitchReg) | seqMask (i : Nat) | voterMask (i : Nat)
  | pwr (r : PwrReg)
  | rel (r : RelReg) | relAvail (i : Nat) | relDarnRow (i : Nat)
  | hbm (s : Nat) (r : HbmReg)
  | opt (t : Nat) (r : OptReg) | optExport (t d w : Nat) | optImport (t d w : Nat)
  | twin (r : TwinReg)
  | boot (r : BootReg) | bootInv (i : Nat)
  | sec (r : SecReg)
  | panel (p : Nat) (r : PanelReg) | panelRoute (p w : Nat) | phaseFail (p b : Nat) | therm (p b : Nat) | eBay (p b : Nat)
  | bay (b : Nat) (r : BayReg) | launchTarget (b e : Nat) | launchAction (b e : Nat) | launchState (b e : Nat)
  | probe (b i : Nat)
  | cu (u : Nat) (r : CuReg) | vconst (u k : Nat) | desc (u d w : Nat) | dmaDesc (u d w : Nat) | sync (u k : Nat)
  | route (u e : Nat) | cuWin (u d w : Nat) | chan (u k w : Nat) | ring (u k : Nat)
  | mu (c : Nat) (r : MuReg) | vwin (c i : Nat) | muWin (c d w : Nat) | agDesc (c d w : Nat) | dspDesc (c d w : Nat)
  | rtr (c : Nat) (r : RtrReg)
  | qp (q : Nat) (r : QpReg) | dma (d : Nat) (r : DmaReg)
  | claim (k : Nat) (r : ClaimReg)
  deriving DecidableEq, Repr

end Sys2Proof
end

