-- ==== Sys2Proof/Operand.lean ====
section
/-! DEFINITION. The operands a command may carry: accesses, mesh packets, Casrik flits, images, signed objects.
The table of commands gives no operand fields, so their shape is this model's (log entry 1); what each
means is the spec's, cited at each type. -/

namespace Sys2Proof

/-- Who makes a register access (R9, R24, R450, R474). -/
inductive Path
  | host            -- host through BAR0
  | bar2            -- host through BAR2
  | offStream (bar2 : Bool)   -- host through BAR0 or BAR2, by a TLP that is not on the IDE stream (R472)
  | lane (u : Nat)  -- a CU's DMA engine through region 0xF
  | trusted         -- root-of-trust core
  | management      -- master management core or a panel controller
  deriving DecidableEq, Repr

/-- Which part of a register an access names (R7): a 32-bit register or half, or a whole 64-bit register. -/
inductive Part
  | low | high | whole
  deriving DecidableEq, Repr

/-- The two operand sides of the STE (R81). -/
inductive Side
  | a | b
  deriving DecidableEq, Repr

/-- A tensor slot (R91). -/
structure TensorOp where
  descA : Nat
  descB : Nat
  descD : Nat
  tile : Nat
  last : Bool
  overflow : Bool
  round : Nat
  satFinite : Bool
  reuseB : Bool
  sregA : Nat
  sregB : Nat
  pred : Bool
  deriving DecidableEq, Repr

/-- A vector slot (R101). -/
structure VecOp where
  alu : Nat
  fma : Nat
  sfu : Nat
  pack : Nat
  descX : Nat
  descY : Nat
  descD : Nat
  width : Bool
  round : Nat
  overflow : Bool
  constPair : Nat
  satFinite : Bool
  pred : Bool
  deriving DecidableEq, Repr

/-- One request presented to a scratchpad bank (R79): requester 0-6 in the scheduled order, 7-9 for DMA,
message delivery and remote write; `word` is the scratchpad word, of which a write stores `bytes` bytes from byte `off` on (R78). -/
structure SpReq where
  requester : Nat
  word : Nat
  off : Nat
  bytes : Nat
  write : Bool
  data : Word
  deriving DecidableEq, Repr

/-- One access to a slice (R158, R160, R162, R163): port 0-7, words `first` to `first + count - 1` of the slice (one row). On a CU port
`dma` marks a DMA access and `unit` numbers the others: 0, 1 stage loaders A and B, 2, 3 vector X and Y, 4 vector write, 5 STE drain. -/
structure MuReq where
  slice : Nat
  port : Nat
  unit : Nat
  first : Nat
  count : Nat
  write : Bool
  dma : Bool
  data : List Word
  deriving DecidableEq, Repr

/-- Who sent a mesh packet: a cluster, or an external endpoint by its event source number and router (R177, R235, R331). -/
inductive Sender
  | cluster (c : Nat)
  | outside (source r : Nat)
  deriving DecidableEq, Repr

/-- A request or posted write on the mesh (R239-R241). `unit` is src_unit of R241. -/
structure MeshPacket where
  cls : Nat            -- 0 request, 2 posted
  type : Nat           -- R239
  ctx : Nat
  stitchLo : Nat
  tag : Nat
  len : Nat            -- 16-byte units
  src : Sender
  unit : Nat
  addr : Nat           -- device address
  data : List Word
  deriving DecidableEq, Repr

/-- A response on the mesh (R242). -/
structure MeshResponse where
  type : Nat
  ctx : Nat
  stitchLo : Nat
  tag : Nat
  dst : Nat            -- destination router
  dstExt : Bool        -- its external port
  unit : Nat
  status : Nat
  data : List Word
  deriving DecidableEq, Repr

/-- A multicast write (R243). -/
structure Multicast where
  ctx : Nat
  stitchLo : Nat
  src : Nat            -- source router
  srcExt : Bool        -- from its external port: the load path
  x0 : Nat
  x1 : Nat
  y0 : Nat
  y1 : Nat
  offset : Nat         -- field of bits [63:49]
  bayMask : BitVec 192
  data : List Word
  deriving DecidableEq, Repr

/-- One part of a message (R241, R258): `unit` is the offset of its first data flit, in 16-byte units. -/
structure MsgPart where
  src : Nat            -- sending CU
  chan : Nat
  dst : Nat            -- receiving CU
  ring : Nat
  ctx : Nat
  stitchLo : Nat
  units : Nat          -- length of the whole message
  part : Nat
  data : List Word
  deriving DecidableEq, Repr

/-- A Casrik flit (R341, R342). `bad` marks an uncorrectable word or reserved type found on receipt (R344). -/
structure CasrikFlit where
  type : Nat
  seq : Nat
  ack : Nat
  nak : Bool
  cr0 : Nat
  cr1 : Nat
  cr2 : Nat
  spec : BitVec 64
  payload : List Word
  deriving DecidableEq, Repr

/-- What a receiving site's decoders find (R340, R344, R400): whether a word of the flit is uncorrectable, the words that were
corrected, and the FEC codewords corrected since the last flit. -/
structure FlitCheck where
  bad : Bool
  corrected : List Nat
  fec : Nat
  deriving DecidableEq, Repr

/-- What an optical site's training found (R345). -/
structure SiteTrain where
  restored : Bool       -- every wavelength passed the FEC test as tuned from the crease record (step 1)
  wavelengths : BitVec 8
  peerSerial : Reg
  peerSite : Nat
  peerIndex : Nat
  maxMajor : Nat
  minMajor : Nat
  caps : BitVec 32
  deriving DecidableEq, Repr

/-- The manifest of a signed object, its 8,192 bytes with byte 0 lowest (R453), and its payload. `ecdsaOk` and `hssOk` say whether the two
signatures verify under their standards (R454, log entry 1). -/
structure Manifest where
  bytes : BitVec 65536
  ecdsaOk : Bool
  hssOk : Bool
  payload : List Byte
  deriving DecidableEq, Repr, Inhabited

/-- The use an image declares for an optical site (R348, R437). -/
structure SiteUse where
  site : Nat
  twin : Bool
  peerIndex : Nat
  peerSite : Nat
  minWl : Nat
  deriving DecidableEq, Repr

/-- A queue pair an image declares (R318, R336). -/
structure QpDecl where
  q : Nat
  inBase : Nat
  outBase : Nat
  inSizeLog2 : Nat
  outSizeLog2 : Nat
  inEntryLog2 : Nat
  outEntryLog2 : Nat
  deriving DecidableEq, Repr

/-- A binding of a host-class identifier to a core-class counter (R283). -/
structure Binding where
  vid : Nat
  out : Bool
  cu : Nat
  counter : Nat
  deriving DecidableEq, Repr

/-- A weight set an image loads (R452, R456). -/
structure WeightSet where
  manifest : Manifest
  base : Nat
  length : Nat
  deriving DecidableEq, Repr

/-- A pattern image and what it declares (R57, R437). `regWords` are the image-loaded registers,
`loads` the contents the load path writes (R176, R305). `footprint` names on-wafer stores, by 12 x cluster + part: parts 0 to 7 the
slices, 8 to 11 the scratchpads (R57, R181). -/
structure Image where
  manifest : Manifest
  maxMajor : Nat
  minMajor : Nat
  caps : BitVec 32
  bays : List Nat
  required : List Nat
  period : Nat
  numdef : BitVec 32
  grades : List (Nat × Nat)
  panelFrac : List Nat
  bayFrac : List Nat
  reloadNs : Nat
  powerW : Nat
  minCapacity : Nat
  pcieWidth : Nat
  pcieRate : Nat
  sites : List SiteUse
  partition : Nat
  peerFeed : BitVec 64
  pages : List Nat
  importPages : List Nat
  queueCtl : Nat
  qps : List QpDecl
  hostIds : List Nat
  binds : List Binding
  lanes : List (Nat × List Word)
  regWords : List (RegId × Reg)
  loads : List (Nat × List Byte)
  footprint : List Nat
  traffic : List (Nat × Nat)
  weights : List WeightSet
  deriving DecidableEq, Repr

/-- A memory TLP to BAR4 (R312), on the IDE stream or off it, which differ while a stream is active (R472). -/
inductive Tlp
  | read | write | readOff | writeOff
  deriving DecidableEq, Repr

def Tlp.isWrite : Tlp → Bool
  | .write => true
  | .writeOff => true
  | _ => false

def Tlp.off : Tlp → Bool
  | .readOff => true
  | .writeOff => true
  | _ => false

/-- How the completion of a DMA read comes (R315): with good data; in UR, CA or poisoned; as a malformed TLP; with an ECRC error. -/
inductive Completion
  | good | failed | malformed | ecrcError
  | offStream       -- good, but not on the IDE stream (R472)
  deriving DecidableEq, Repr

/-- What a receiver of the neighbour fabric finds as it checks a payload (R211): how many of its two codewords it corrected, and, when a
codeword is uncorrectable or the parity of the pair tag fails, the payload and the tag as it delivers them. -/
structure LinkCheck where
  corrected : Nat
  bad : Option (Payload × Nat)
  deriving DecidableEq, Repr

/-- Where command 0x0010 finds the image (R326, R456): external memory, or a UFS directory entry. -/
inductive ImageSource
  | memory (i : Image)
  | ufs (entry : Nat)
  deriving DecidableEq, Repr

/-- A signed or vendor-defined request inside the secure session (R466); its body is the manifest's payload. -/
structure SignedRequest where
  manifest : Manifest
  deriving DecidableEq, Repr

/-- What IDE_KM programs (R472): the identifier of the selective stream and its AES-256-GCM keys, sent and received, for the three
sub-streams. -/
structure IdeKeys where
  stream : Nat
  keys : List (BitVec 256)
  deriving DecidableEq, Repr

/-- What an FW_UPDATE names (R466): class 0 or 1, and the firmware version word of its manifest. -/
structure FwObject where
  manifest : Manifest
  version : BitVec 32
  deriving DecidableEq, Repr

/-- The body of a record-log record (R427). -/
structure LogRecord where
  type : Nat
  seq : Nat
  body : BitVec 128
  deriving DecidableEq, Repr

/-- What a panel controller's measurement brings every 10 µs (R390, R392): module input powers in W averaged over 100 µs and
energies in µJ since the last measurement, of the module inputs and of the panel's fabric feed and I/O; input voltages in mV and
currents in 0.1 A. -/
structure PowerSample where
  mainW : Nat
  ioW : Nat
  auxW : Nat
  fabW : Nat
  mainUj : Nat
  ioUj : Nat
  auxUj : Nat
  panelFabUj : Nat
  panelIoUj : Nat
  mv : List Nat          -- VIN_MAIN, VIN_IO, VIN_AUX
  current : List Nat
  deriving DecidableEq, Repr

end Sys2Proof
end

