-- ==== Sys2Proof/Syntax.lean ====
section
/-! DEFINITION. The commands of the T1: one constructor per row of spec/opcode_table.json, in its order.
The first operand `t` of every command is when it happens: for a row of a bay's clock domain the bay cycle within the
stitch, for every other row the time master's ns within the stitch (log entries 1 and 2). `b` bay, `p` panel,
`u` CU (4 x cluster + index), `c` cluster (x + 512 y), `r` scalar register or router, `st` stack. -/

namespace Sys2Proof

inductive Instr
  /-- POWER_ON_RESET (R439). -/
  | powerOnReset (t : Nat)
  /-- AUX_GOOD (R365). -/
  | auxGood (t : Nat)
  /-- BOOT (R431). -/
  | boot (t : Nat) (lat : List Nat)
  /-- MAIN_ENABLE (R365). -/
  | mainEnable (t : Nat)
  /-- MAIN_ENABLE_TIMEOUT (R366). -/
  | mainEnableTimeout (t : Nat)
  /-- VIN_MAIN_IN_RANGE (R365). -/
  | vinMainInRange (t : Nat)
  /-- BAY_CORE_RAIL_UP (R365). -/
  | bayCoreRailUp (t : Nat) (p : Nat) (tests : List (Nat × Nat × Bool))
  /-- BIST (R413). -/
  | bist (t : Nat) (b : Nat) (bad : List (Nat × Nat))
  /-- HBM_TRAINING (R306). -/
  | hbmTraining (t : Nat) (st : Nat) (restored : Bool) (failed : BitVec 64) (temp : Nat)
  /-- SITE_TRAINING (R345). -/
  | siteTraining (t : Nat) (site : Nat) (r : SiteTrain)
  /-- PCIE_TRAINING (R433). -/
  | pcieTraining (t : Nat) (width : Nat) (rate : Nat)
  /-- INVENTORY_READY (R431). -/
  | inventoryReady (t : Nat) (ms : Nat)
  /-- PWR_FAIL_N (R367). -/
  | pwrFailN (t : Nat) (dur : Nat)
  /-- SUPPLY_OUT_OF_RANGE (R368). -/
  | supplyOutOfRange (t : Nat) (mask : BitVec 4) (mv : Nat) (durNs : Nat)
  /-- DEVICE_RESET (R439). -/
  | deviceReset (t : Nat) (value : Reg)
  /-- MANAGEMENT_WATCHDOG (R443). -/
  | managementWatchdog (t : Nat)
  /-- MBOX_COMPUTE_RESET (R439). -/
  | mboxComputeReset (t : Nat) (arg : BitVec 32)
  /-- MBOX_BAY_RESET (R442). -/
  | mboxBayReset (t : Nat) (arg : BitVec 32)
  /-- COMPUTE_RESET (R440). -/
  | computeReset (t : Nat)
  /-- BAY_RESET (R440). -/
  | bayReset (t : Nat) (b : Nat)
  /-- PCIE_PERST (R439). -/
  | pciePerst (t : Nat)
  /-- PCIE_LINK_RETRAIN (R311). -/
  | pcieLinkRetrain (t : Nat) (width : Nat) (rate : Nat)
  /-- PCIE_POISONED_TLP (R315). -/
  | pciePoisonedTlp (t : Nat)
  /-- RECOVERY_PORT_ENABLE (R480). -/
  | recoveryPortEnable (t : Nat)
  /-- EEPROM_READ (R479). -/
  | eepromRead (t : Nat) (addr : Nat)
  /-- REGISTER_WRITE (R9). -/
  | registerWrite (t : Nat) (path : Path) (id : RegId) (part : Part) (v : Reg)
  /-- REGISTER_READ_CLEAR (R9). -/
  | registerReadClear (t : Nat) (path : Path) (id : RegId) (part : Part)
  /-- REGISTER_64_LOW_READ (R7). -/
  | register64LowRead (t : Nat) (path : Path) (id : RegId)
  /-- CONTROL_SPACE_ACCESS (R24). -/
  | controlSpaceAccess (t : Nat) (path : Path) (offset : Nat) (size : Nat) (write : Bool) (v : Reg)
  /-- BAR4_ACCESS (R313). -/
  | bar4Access (t : Nat) (offset : Nat) (kind : Tlp) (len : Nat) (data : List Byte)
  /-- TIME_MESSAGE_SEND (R272). -/
  | timeMessageSend (t : Nat)
  /-- TIME_MESSAGE_RECEIVE (R272). -/
  | timeMessageReceive (t : Nat) (b : Nat) (m : Nat)
  /-- BOUNDARY_MESSAGE (R273). -/
  | boundaryMessage (t : Nat)
  /-- STITCH_START (R273). -/
  | stitchStart (t : Nat) (b : Nat) (m : Nat)
  /-- WORK_WINDOW_END (R36). -/
  | workWindowEnd (t : Nat) (b : Nat) (bad : List Nat)
  /-- ARITH_FLAG_SUMMARY (R135). -/
  | arithFlagSummary (t : Nat) (b : Nat)
  /-- ROLL_CALL (R406). -/
  | rollCall (t : Nat) (b : Nat) (silentCus : List Nat) (silentMus : List Nat)
  /-- ROLL_CALL_COMPARE (R407). -/
  | rollCallCompare (t : Nat) (b : Nat)
  /-- SCRUB_WINDOW (R402). -/
  | scrubWindow (t : Nat) (b : Nat)
  /-- TRIM_APPLY (R445). -/
  | trimApply (t : Nat) (b : Nat) (mv : Int)
  /-- SEQ_MASK_BROADCAST (R56). -/
  | seqMaskBroadcast (t : Nat)
  /-- FABRIC_SAMPLE (R228). -/
  | fabricSample (t : Nat) (b : Nat)
  /-- TELEMETRY_RECORD_WRITE (R231). -/
  | telemetryRecordWrite (t : Nat) (b : Nat)
  /-- VOTE_FREEZE (R45). -/
  | voteFreeze (t : Nat) (v : Nat)
  /-- COMMIT_SAMPLING (R48). -/
  | commitSampling (t : Nat)
  /-- COMMIT_APPLY (R49). -/
  | commitApply (t : Nat)
  /-- COMMIT_PHASE_END (R47). -/
  | commitPhaseEnd (t : Nat)
  /-- DONE_TOKEN_ARRIVAL (R276). -/
  | doneTokenArrival (t : Nat) (peer : Nat) (site : Nat) (stitch : Nat) (result : Nat) (seq : Reg)
  /-- PEER_TIMEOUT (R277). -/
  | peerTimeout (t : Nat)
  /-- CTX_SWITCH (R58). -/
  | ctxSwitch (t : Nat) (target : Nat)
  /-- RESUME (R43). -/
  | resume (t : Nat)
  /-- MODE_CANCEL (R65). -/
  | modeCancel (t : Nat)
  /-- VOID_CURRENT (R37). -/
  | voidCurrent (t : Nat)
  /-- MODE_STAGE (R62). -/
  | modeStage (t : Nat)
  /-- STAGE_ACK (R61). -/
  | stageAck (t : Nat) (b : Nat) (cls : Nat)
  /-- BAY_WAKE_START (R375). -/
  | bayWakeStart (t : Nat) (b : Nat)
  /-- WAKE_COMPLETE (R374). -/
  | wakeComplete (t : Nat) (b : Nat)
  /-- MBOX_READ_INVENTORY (R435). -/
  | mboxReadInventory (t : Nat)
  /-- MBOX_LOAD_IMAGE (R437). -/
  | mboxLoadImage (t : Nat) (k : Nat) (img : ImageSource)
  /-- MBOX_END_RESIDENCY (R288). -/
  | mboxEndResidency (t : Nat) (k : Nat)
  /-- MBOX_START_SESSION (R438). -/
  | mboxStartSession (t : Nat) (feeds : List (Nat × BitVec 64))
  /-- MBOX_END_SESSION (R438). -/
  | mboxEndSession (t : Nat)
  /-- MBOX_SET_CAP (R389). -/
  | mboxSetCap (t : Nat) (w : Nat)
  /-- MBOX_TWIN_ATTACH (R361). -/
  | mboxTwinAttach (t : Nat) (primary : Bool) (peerDigests : List (BitVec 384)) (maxMajor : Nat) (minMajor : Nat) (caps : BitVec 32)
  /-- MBOX_TWIN_DETACH (R361). -/
  | mboxTwinDetach (t : Nat)
  /-- MAILBOX_RESPONSE (R326). -/
  | mailboxResponse (t : Nat)
  /-- SESSION_END_SCRUB_DONE (R308). -/
  | sessionEndScrubDone (t : Nat)
  /-- BACKGROUND_FRAME (R448). -/
  | backgroundFrame (t : Nat) (b : Nat) (bad : List Nat) (silentCus : List Nat) (silentMus : List Nat)
  /-- BUNDLE_ISSUE (R69). -/
  | bundleIssue (t : Nat) (u : Nat)
  /-- NOP (R70). -/
  | nop (t : Nat) (u : Nat)
  /-- HOLD (R70). -/
  | hold (t : Nat) (u : Nat) (n : Nat)
  /-- HOLD_EXPIRY (R70). -/
  | holdExpiry (t : Nat) (u : Nat)
  /-- LOOP (R71). -/
  | loop (t : Nat) (u : Nat) (count : Nat)
  /-- ENDLOOP (R71). -/
  | endloop (t : Nat) (u : Nat)
  /-- SETI (R70). -/
  | seti (t : Nat) (u : Nat) (r : Nat) (imm : BitVec 12)
  /-- ADDI (R70). -/
  | addi (t : Nat) (u : Nat) (r : Nat) (imm : BitVec 12)
  /-- PRED (R70). -/
  | pred (t : Nat) (u : Nat) (r : Nat) (imm : BitVec 11)
  /-- PREDON (R70). -/
  | predon (t : Nat) (u : Nat)
  /-- EXIT (R70). -/
  | exit (t : Nat) (u : Nat) (r : Nat) (imm : BitVec 11)
  /-- BRACE (R387). -/
  | brace (t : Nat) (u : Nat) (level : Nat)
  /-- BRACE_ARM (R387). -/
  | braceArm (t : Nat) (b : Nat)
  /-- LAUNCH (R74). -/
  | launch (t : Nat) (u : Nat) (r : Nat)
  /-- LAUNCH_RELEASE (R70). -/
  | launchRelease (t : Nat) (u : Nat)
  /-- END (R32). -/
  | endMark (t : Nat) (u : Nat)
  /-- STITCH_END_MARKER_RETIRE (R32). -/
  | stitchEndMarkerRetire (t : Nat) (u : Nat)
  /-- LANE_STORE_REWRITE (R76). -/
  | laneStoreRewrite (t : Nat) (u : Nat)
  /-- MM (R91). -/
  | mm (t : Nat) (u : Nat) (op : TensorOp)
  /-- MMA (R91). -/
  | mma (t : Nat) (u : Nat) (op : TensorOp)
  /-- DRAIN (R95). -/
  | drain (t : Nat) (u : Nat) (op : TensorOp)
  /-- STAGE_LOAD (R82). -/
  | stageLoad (t : Nat) (u : Nat) (side : Side)
  /-- STE_OUTPUT_ISSUE (R84). -/
  | steOutputIssue (t : Nat) (u : Nat)
  /-- ACCUMULATE (R85). -/
  | accumulate (t : Nat) (u : Nat)
  /-- CHECKSUM_COMPARE (R97). -/
  | checksumCompare (t : Nat) (u : Nat)
  /-- VECTOR_PASS (R101). -/
  | vectorPass (t : Nat) (u : Nat) (op : VecOp)
  /-- VECTOR_RESULT_WRITE (R100). -/
  | vectorResultWrite (t : Nat) (u : Nat)
  /-- DMA (R105). -/
  | dma (t : Nat) (u : Nat) (d : Nat) (ss : Nat) (sd : Nat) (pred : Bool)
  /-- DMA_TRANSFER_START (R104). -/
  | dmaTransferStart (t : Nat) (u : Nat)
  /-- DMA_TRANSFER_COMPLETE (R104). -/
  | dmaTransferComplete (t : Nat) (u : Nat)
  /-- SEND (R258). -/
  | send (t : Nat) (u : Nat) (ch : Nat) (r : Nat) (len : Nat) (pred : Bool)
  /-- SIG (R105). -/
  | sig (t : Nat) (u : Nat) (k : Nat) (n : Nat) (pred : Bool)
  /-- WAIT (R105). -/
  | wait (t : Nat) (u : Nat) (k : Nat) (n : Nat) (pred : Bool)
  /-- WAITGE (R105). -/
  | waitge (t : Nat) (u : Nat) (k : Nat) (n : Nat) (pred : Bool)
  /-- WAIT_SATISFIED (R106). -/
  | waitSatisfied (t : Nat) (u : Nat)
  /-- SCRATCHPAD_ARBITRATION (R79). -/
  | scratchpadArbitration (t : Nat) (u : Nat) (reqs : List SpReq)
  /-- SCRATCHPAD_PROMOTION (R79). -/
  | scratchpadPromotion (t : Nat) (u : Nat) (bank : Nat)
  /-- CU_SR_SEED_WRITE (R107). -/
  | cuSrSeedWrite (t : Nat) (u : Nat) (v : BitVec 32)
  /-- ROUTE (R212). -/
  | route (t : Nat) (u : Nat) (e : Nat)
  /-- SPIN (R213). -/
  | spin (t : Nat) (u : Nat) (link : Nat) (d : Nat) (r : Nat)
  /-- AGSTART (R167). -/
  | agstart (t : Nat) (u : Nat) (g : Nat) (d : Nat) (r : Nat)
  /-- TAG (R218). -/
  | tag (t : Nat) (u : Nat) (target : Nat) (r : Nat)
  /-- SPIN_WRITE (R213). -/
  | spinWrite (t : Nat) (u : Nat) (link : Nat)
  /-- LINK_PAYLOAD_TRANSFER (R215). -/
  | linkPayloadTransfer (t : Nat) (u : Nat) (src : Nat) (check : LinkCheck)
  /-- SEAM_PAYLOAD_EXIT (R223). -/
  | seamPayloadExit (t : Nat) (u : Nat) (link : Nat)
  /-- SEAM_CREDIT_RETURN (R222). -/
  | seamCreditReturn (t : Nat) (u : Nat) (link : Nat)
  /-- FABRIC_PORT_TRANSFER (R217). -/
  | fabricPortTransfer (t : Nat) (c : Nat) (port : Nat) (inbound : Bool)
  /-- TELEMETRY_RING_CONFIG (R234). -/
  | telemetryRingConfig (t : Nat) (b : Nat) (size : Bool) (part : Part) (v : Reg)
  /-- SLICE_ARBITRATION (R163). -/
  | sliceArbitration (t : Nat) (c : Nat) (slice : Nat) (reqs : List MuReq)
  /-- NARROW_STARVATION (R165). -/
  | narrowStarvation (t : Nat) (c : Nat) (port : Nat) (slice : Nat) (bank : Nat)
  /-- CU_PORT_DMA_PROMOTION (R162). -/
  | cuPortDmaPromotion (t : Nat) (u : Nat)
  /-- AG_STREAM_START (R217). -/
  | agStreamStart (t : Nat) (c : Nat) (g : Nat)
  /-- AG_ACCESS (R169). -/
  | agAccess (t : Nat) (c : Nat) (g : Nat)
  /-- INDEX_FETCH (R170). -/
  | indexFetch (t : Nat) (c : Nat) (g : Nat)
  /-- AG_STREAM_COMPLETE (R171). -/
  | agStreamComplete (t : Nat) (c : Nat) (g : Nat)
  /-- REMOTE_ACCESS (R178). -/
  | remoteAccess (t : Nat) (pkt : MeshPacket)
  /-- TOKEN_PAYLOAD_ENTER (R187). -/
  | tokenPayloadEnter (t : Nat) (u : Nat) (link : Nat)
  /-- STEER_CYCLE (R188). -/
  | steerCycle (t : Nat) (u : Nat)
  /-- STEER_PAIR_TIMEOUT (R188). -/
  | steerPairTimeout (t : Nat) (u : Nat)
  /-- DISPATCH_PASS_START (R192). -/
  | dispatchPassStart (t : Nat) (c : Nat) (g : Nat)
  /-- TOKEN_RANK (R196). -/
  | tokenRank (t : Nat) (c : Nat)
  /-- TOKEN_RESOLVE (R198). -/
  | tokenResolve (t : Nat) (c : Nat)
  /-- TOKEN_PAYLOAD_EMIT (R203). -/
  | tokenPayloadEmit (t : Nat) (c : Nat)
  /-- PASS_END_FILL (R204). -/
  | passEndFill (t : Nat) (c : Nat)
  /-- DISPATCH_PASS_COMPLETE (R205). -/
  | dispatchPassComplete (t : Nat) (c : Nat)
  /-- MESH_INJECT (R249). -/
  | meshInject (t : Nat) (c : Nat)
  /-- ROUTER_FORWARD (R245). -/
  | routerForward (t : Nat) (r : Nat) (out : Nat) (bad : Nat)
  /-- MULTICAST_REPLICATE (R252). -/
  | multicastReplicate (t : Nat) (r : Nat) (mc : Multicast)
  /-- MULTICAST_ACK_COMBINE (R252). -/
  | multicastAckCombine (t : Nat) (r : Nat) (entry : Nat) (status : Nat)
  /-- MESH_RESPONSE_RECEIVE (R254). -/
  | meshResponseReceive (t : Nat) (resp : MeshResponse)
  /-- MESSAGE_SEND_INJECT (R258). -/
  | messageSendInject (t : Nat) (u : Nat) (ch : Nat)
  /-- MESSAGE_ARRIVAL (R261). -/
  | messageArrival (t : Nat) (part : MsgPart)
  /-- MESSAGE_PART_ARRIVAL (R261). -/
  | messagePartArrival (t : Nat) (part : MsgPart)
  /-- MESSAGE_RESPONSE (R258). -/
  | messageResponse (t : Nat) (u : Nat) (ch : Nat) (status : Nat)
  /-- MESSAGE_RETRY (R258). -/
  | messageRetry (t : Nat) (u : Nat) (ch : Nat)
  /-- RING_RELEASE (R263). -/
  | ringRelease (t : Nat) (u : Nat) (k : Nat)
  /-- LAUNCH_ENTRY_ARM (R278). -/
  | launchEntryArm (t : Nat) (b : Nat) (e : Nat) (action : BitVec 32)
  /-- LAUNCH_ENTRY_DISARM (R278). -/
  | launchEntryDisarm (t : Nat) (b : Nat) (e : Nat) (action : BitVec 32)
  /-- LAUNCH_ENTRY_FIRE (R278). -/
  | launchEntryFire (t : Nat) (b : Nat) (e : Nat)
  /-- HSYNC_SIGNAL (R285). -/
  | hsyncSignal (t : Nat) (v : BitVec 32)
  /-- HOST_WAIT_ARM (R286). -/
  | hostWaitArm (t : Nat) (n : Nat) (v : Reg)
  /-- HOST_WAIT_SATISFIED (R286). -/
  | hostWaitSatisfied (t : Nat) (n : Nat)
  /-- TIME_NOW_READ (R290). -/
  | timeNowRead (t : Nat)
  /-- HBM_READ (R296). -/
  | hbmRead (t : Nat) (addr : Nat)
  /-- HBM_WRITE (R303). -/
  | hbmWrite (t : Nat) (addr : Nat) (data : List Byte)
  /-- HBM_RECALIBRATION (R307). -/
  | hbmRecalibration (t : Nat) (st : Nat) (pc : Nat) (ok : Bool) (temp : Nat)
  /-- HBM_PATROL (R404). -/
  | hbmPatrol (t : Nat) (st : Nat) (pc : Nat)
  /-- QP_IN_TAIL (R320). -/
  | qpInTail (t : Nat) (q : Nat) (v : BitVec 32)
  /-- QP_OUT_HEAD (R322). -/
  | qpOutHead (t : Nat) (q : Nat) (v : BitVec 32)
  /-- DMA_TAIL (R324). -/
  | dmaTail (t : Nat) (d : Nat) (v : BitVec 32)
  /-- DMA_RESTART (R324). -/
  | dmaRestart (t : Nat) (d : Nat)
  /-- DMA_DESCRIPTOR_START (R324). -/
  | dmaDescriptorStart (t : Nat) (d : Nat) (words : List (BitVec 32))
  /-- DMA_BUFFER_READ (R325). -/
  | dmaBufferRead (t : Nat) (d : Nat)
  /-- DMA_HOST_READ_TIMEOUT (R315). -/
  | dmaHostReadTimeout (t : Nat) (d : Nat)
  /-- DMA_DESCRIPTOR_COMPLETE (R324). -/
  | dmaDescriptorComplete (t : Nat) (d : Nat)
  /-- HOST_DMA_RES_WRITE (R335). -/
  | hostDmaResWrite (t : Nat) (d : Nat) (v : BitVec 32)
  /-- HOST_VERSION_WRITE (R316). -/
  | hostVersionWrite (t : Nat) (v : BitVec 32)
  /-- EVENT_REPORT (R328). -/
  | eventReport (t : Nat)
  /-- EVENT_RECORD_WRITE (R330). -/
  | eventRecordWrite (t : Nat)
  /-- EVT_RING_HEAD_WRITE (R330). -/
  | evtRingHeadWrite (t : Nat) (v : BitVec 32)
  /-- EVT_RING_ENABLE (R337). -/
  | evtRingEnable (t : Nat) (v : BitVec 32)
  /-- CLAIM_ID_READ (R333). -/
  | claimIdRead (t : Nat) (k : Nat)
  /-- CLAIM_DONE_WRITE (R334). -/
  | claimDoneWrite (t : Nat) (k : Nat) (src : Nat)
  /-- CASRIK_FLIT_SEND (R341). -/
  | casrikFlitSend (t : Nat) (site : Nat)
  /-- CASRIK_FLIT_RECEIVE (R344). -/
  | casrikFlitReceive (t : Nat) (site : Nat) (f : CasrikFlit) (wl : Nat) (check : FlitCheck)
  /-- WAVELENGTH_DROP (R346). -/
  | wavelengthDrop (t : Nat) (site : Nat) (w : Nat)
  /-- WAVELENGTH_REJOIN (R346). -/
  | wavelengthRejoin (t : Nat) (site : Nat) (w : Nat)
  /-- SITE_DOWN (R347). -/
  | siteDown (t : Nat) (site : Nat)
  /-- EXPORT_START (R354). -/
  | exportStart (t : Nat) (site : Nat) (d : Nat)
  /-- CHECKPOINT_STREAM (R358). -/
  | checkpointStream (t : Nat)
  /-- HEARTBEAT_SEND (R359). -/
  | heartbeatSend (t : Nat)
  /-- HEARTBEAT_INTERVAL (R359). -/
  | heartbeatInterval (t : Nat) (linePulse : Bool)
  /-- TWIN_FATAL_IN (R359). -/
  | twinFatalIn (t : Nat)
  /-- TWIN_TAKEOVER (R360). -/
  | twinTakeover (t : Nat)
  /-- REGULATOR_PHASE_FAIL (R377). -/
  | regulatorPhaseFail (t : Nat) (b : Nat) (phase : Nat) (short : Bool)
  /-- BAY_RAIL_SHORT (R379). -/
  | bayRailShort (t : Nat) (b : Nat) (amps : Nat)
  /-- FABRIC_RAIL_SHORT (R380). -/
  | fabricRailShort (t : Nat) (p : Nat) (amps : Nat)
  /-- DROOP_BOOST (R382). -/
  | droopBoost (t : Nat) (b : Nat)
  /-- CLOCK_STRETCH (R382). -/
  | clockStretch (t : Nat) (b : Nat)
  /-- VMIN_SAMPLE (R383). -/
  | vminSample (t : Nat) (b : Nat) (mv : Nat)
  /-- VMIN_READ (R383). -/
  | vminRead (t : Nat) (path : Path) (b : Nat)
  /-- GOVERNOR_RISE_TICK (R385). -/
  | governorRiseTick (t : Nat) (b : Nat)
  /-- GOVERNOR_FALL_TICK (R385). -/
  | governorFallTick (t : Nat) (b : Nat)
  /-- PANEL_BUDGET_UPDATE (R390). -/
  | panelBudgetUpdate (t : Nat) (p : Nat) (m : PowerSample)
  /-- BAY_BUDGET_COMPARE (R391). -/
  | bayBudgetCompare (t : Nat) (b : Nat) (drawW : Nat) (uj : Nat)
  /-- THERMAL_SAMPLE (R393). -/
  | thermalSample (t : Nat) (b : Nat) (temps : List Nat)
  /-- DARN_UPDATE_COMPLETE (R416). -/
  | darnUpdateComplete (t : Nat)
  /-- RECORD_COMMIT (R427). -/
  | recordCommit (t : Nat) (crcOk : Bool)
  /-- LOG_COMPACTION (R428). -/
  | logCompaction (t : Nat)
  /-- GET_VERSION (R463). -/
  | getVersion (t : Nat)
  /-- GET_CAPABILITIES (R463). -/
  | getCapabilities (t : Nat)
  /-- NEGOTIATE_ALGORITHMS (R463). -/
  | negotiateAlgorithms (t : Nat)
  /-- GET_DIGESTS (R463). -/
  | getDigests (t : Nat)
  /-- GET_CERTIFICATE (R460). -/
  | getCertificate (t : Nat)
  /-- CHALLENGE (R463). -/
  | challenge (t : Nat)
  /-- GET_MEASUREMENTS (R464). -/
  | getMeasurements (t : Nat) (index : Nat)
  /-- KEY_EXCHANGE (R463). -/
  | keyExchange (t : Nat)
  /-- FINISH (R463). -/
  | finish (t : Nat)
  /-- HEARTBEAT (R463). -/
  | heartbeat (t : Nat)
  /-- KEY_UPDATE (R463). -/
  | keyUpdate (t : Nat)
  /-- END_SESSION (R468). -/
  | endSession (t : Nat)
  /-- OWNER_SET (R466). -/
  | ownerSet (t : Nat) (req : SignedRequest)
  /-- OWNER_REVOKE (R466). -/
  | ownerRevoke (t : Nat) (req : SignedRequest)
  /-- DEBUG_AUTH (R467). -/
  | debugAuth (t : Nat) (req : SignedRequest)
  /-- DEBUG_REVOKE (R468). -/
  | debugRevoke (t : Nat) (req : SignedRequest)
  /-- FW_UPDATE (R466). -/
  | fwUpdate (t : Nat) (req : SignedRequest) (fw : FwObject)
  /-- IDE_KM (R472). -/
  | ideKm (t : Nat) (keys : IdeKeys)
  /-- DIAG_GO (R467). -/
  | diagGo (t : Nat) (path : Path) (v : Reg)
  /-- DIAG_READ_COMPLETE (R467). -/
  | diagReadComplete (t : Nat)
  /-- DMA_READ_COMPLETION (R325). -/
  | dmaReadCompletion (t : Nat) (d : Nat) (got : Completion) (data : List Byte)
  /-- VECTOR_ISSUE (R100). -/
  | vectorIssue (t : Nat) (u : Nat)
  /-- UNCORRECTABLE_INTERNAL_ERROR (R315). -/
  | uncorrectableInternalError (t : Nat)
  /-- PCIE_LINK_DOWN (R331). -/
  | pcieLinkDown (t : Nat)
  /-- RECOVERY_PORT_DISABLE (R480). -/
  | recoveryPortDisable (t : Nat)
  /-- CLOCK_STRETCH_END (R382). -/
  | clockStretchEnd (t : Nat) (b : Nat)
  /-- SECURE_SESSION_LOSS (R468). -/
  | secureSessionLoss (t : Nat)
  deriving DecidableEq, Repr

end Sys2Proof
end

