-- ==== Sys2Proof/WellFormed.lean ====
section
/-! DEFINITION. Which commands the T1 can meet: every operand names a unit, register, channel or entry that exists and fits its field
(R13-R15, R22, R23, R91, R105, R239-R243, R318, R341). The meanings are total beyond it; statements about the spec's machine say
`Instr.wellFormed` where a name out of range would have no meaning. -/

namespace Sys2Proof

/-- R13: 192 bays in the logical grid. -/
def bayOk (b : Nat) : Bool := decide (b < 192)
def panelOk (p : Nat) : Bool := decide (p < 48)
/-- R14: 512 by 432 clusters. -/
def clusterOk (c : Nat) : Bool := decide (c < 512 * 432)
def cuOk (u : Nat) : Bool := clusterOk (u / 4)
def stackOk (st : Nat) : Bool := decide (st < 24)
def siteOk (x : Nat) : Bool := decide (x < 96)
def ctxOk (k : Nat) : Bool := decide (k < 4)
/-- R48: voters are the bays, the HBM controllers and the optical sites. -/
def voterOk (v : Nat) : Bool := decide (v < 312)
def addrOk (a : Nat) : Bool := decide (a < 2 ^ 48)

/-- R9, R332, R336: the paths a register access may come by. -/
def Path.ok : Path → Bool
  | .lane u => cuOk u
  | _ => true

/-- The register exists (the tables of the register rules). -/
def RegId.ok : RegId → Bool
  | .dev _ => true
  | .ver i w => decide (i < 8 ∧ w < 8)
  | .host _ => true
  | .dmaRes d => decide (d < 64)
  | .mboxReq w => decide (w < 64)
  | .mboxRsp w => decide (w < 64)
  | .msixTable w => decide (w < 256)
  | .msixPba w => decide (w < 2)
  | .evt _ => true
  | .evtSrc n => decide (n < 4096)
  | .time _ => true
  | .waitCfg n => decide (n < 32)
  | .waitState n => decide (n < 32)
  | .stitch _ => true
  | .seqMask i => decide (i < 64)
  | .voterMask i => decide (i < 10)
  | .pwr _ => true
  | .rel _ => true
  | .relAvail i => decide (i < 6)
  | .relDarnRow i => decide (i < 36)
  | .hbm s _ => stackOk s
  | .opt t _ => siteOk t
  | .optExport t d w => siteOk t && decide (d < 16 ∧ w < 8)
  | .optImport t d w => siteOk t && decide (d < 16 ∧ w < 2)
  | .twin _ => true
  | .boot _ => true
  | .bootInv i => decide (i < 36)
  | .sec _ => true
  | .panel p _ => panelOk p
  | .panelRoute p w => panelOk p && decide (w < 12)
  | .phaseFail p b => panelOk p && decide (b < 4)
  | .therm p b => panelOk p && decide (b < 4)
  | .eBay p b => panelOk p && decide (b < 4)
  | .bay b _ => bayOk b
  | .launchTarget b e => bayOk b && decide (e < 8)
  | .launchAction b e => bayOk b && decide (e < 8)
  | .launchState b e => bayOk b && decide (e < 8)
  | .probe b i => bayOk b && decide (i < 16)
  | .cu u _ => cuOk u
  | .vconst u k => cuOk u && decide (k < 8)
  | .desc u d w => cuOk u && decide (d < 16 ∧ w < 4)
  | .dmaDesc u d w => cuOk u && decide (d < 8 ∧ w < 4)
  | .sync u k => cuOk u && decide (k < 32)
  | .route u e => cuOk u && decide (e < 16)
  | .cuWin u d w => cuOk u && decide (d < 16 ∧ w < 4)
  | .chan u k w => cuOk u && decide (k < 8 ∧ w < 2)
  | .ring u k => cuOk u && decide (k < 8)
  | .mu c _ => clusterOk c
  | .vwin c i => clusterOk c && decide (i < 16)
  | .muWin c d w => clusterOk c && decide (d < 16 ∧ w < 4)
  | .agDesc c d w => clusterOk c && decide (d < 16 ∧ w < 8)
  | .dspDesc c d w => clusterOk c && decide (d < 4 ∧ w < 8)
  | .rtr c _ => clusterOk c
  | .qp q _ => decide (q < 64)
  | .dma d _ => decide (d < 64)
  | .claim k _ => decide (k < 2)

/-- R77-R79: a part of a word is written by DMA and message delivery alone. -/
def SpReq.ok (r : SpReq) : Bool :=
  decide (r.requester < 10 ∧ r.word < 1024 ∧ 1 ≤ r.bytes ∧ r.off + r.bytes ≤ 16 ∧ (r.bytes = 16 ∨ (r.write = true ∧ (r.requester = 7 ∨ r.requester = 8))))

/-- R157, R158: the words of an access lie in one row of four. -/
def MuReq.ok (r : MuReq) : Bool :=
  decide (r.slice < 8 ∧ r.port < 8 ∧ r.unit < 6 ∧ 1 ≤ r.count ∧ r.first % 4 + r.count ≤ 4 ∧ r.first < 1536 ∧ (r.write = true → r.data.length = r.count))

/-- R91. -/
def TensorOp.ok (o : TensorOp) : Bool :=
  decide (o.descA < 16 ∧ o.descB < 16 ∧ o.descD < 16 ∧ o.tile < 2 ∧ o.round < 4 ∧ o.sregA < 16 ∧ o.sregB < 16)

/-- R101; reserved operations are refused at load. -/
def VecOp.ok (o : VecOp) : Bool :=
  decide (o.alu < 10 ∧ o.fma < 4 ∧ o.sfu < 4 ∧ o.pack < 4 ∧ o.descX < 16 ∧ o.descY < 16 ∧ o.descD < 16 ∧ o.round < 4 ∧ o.constPair < 4)

/-- R331: event sources are 12 bits. -/
def Sender.ok : Sender → Bool
  | .cluster c => clusterOk c
  | .outside n r => decide (n < 4096) && clusterOk r

/-- R239-R241. -/
def MeshPacket.ok (k : MeshPacket) : Bool :=
  k.src.ok && ctxOk k.ctx && addrOk k.addr && decide ((k.cls = 0 ∧ k.type < 3 ∨ k.cls = 2 ∧ k.type < 2) ∧ 1 ≤ k.len ∧ k.len ≤ 16 ∧ k.unit < 10 ∧ k.tag < 32)

/-- R242. -/
def MeshResponse.ok (k : MeshResponse) : Bool := clusterOk k.dst && ctxOk k.ctx && decide (k.type < 4 ∧ k.unit < 10 ∧ k.status < 7 ∧ k.tag < 32)

/-- R243. -/
def Multicast.ok (k : Multicast) : Bool :=
  clusterOk k.src && ctxOk k.ctx && decide (k.x0 < 32 ∧ k.x1 < 32 ∧ k.y0 < 64 ∧ k.y1 < 64 ∧ k.offset < 18432)

/-- R258, R261. -/
def MsgPart.ok (k : MsgPart) : Bool :=
  cuOk k.src && cuOk k.dst && ctxOk k.ctx && decide (k.chan < 8 ∧ k.ring < 8 ∧ 1 ≤ k.units ∧ k.units ≤ 64 ∧ k.part < 64)

/-- R341, R342. -/
def CasrikFlit.ok (f : CasrikFlit) : Bool :=
  decide (f.type < 16 ∧ f.seq < 4096 ∧ f.ack < 4096 ∧ f.cr0 < 256 ∧ f.cr1 < 256 ∧ f.cr2 < 256 ∧ f.payload.length ≤ 15)

/-- R436: the places an image may name. -/
def Image.ok (i : Image) : Bool :=
  i.bays.all bayOk && i.required.all bayOk && i.lanes.all (fun e => cuOk e.1) && i.regWords.all (fun e => e.1.ok) &&
    i.sites.all (fun x => siteOk x.site) && i.qps.all (fun x => decide (x.q < 64))

/-- R430: the directory has 4,096 entries. -/
def ImageSource.ok : ImageSource → Bool
  | .memory i => i.ok
  | .ufs e => decide (e < 4096)

/-- Every operand of a command is in its range. -/
def Instr.wellFormed : Instr → Bool
  | .powerOnReset _ => true
  | .auxGood _ => true
  | .boot _ _ => true
  | .mainEnable _ => true
  | .mainEnableTimeout _ => true
  | .vinMainInRange _ => true
  | .bayCoreRailUp _ p tests => panelOk p && tests.all (fun e => decide (e.1 < 4))
  | .bist _ b bad => bayOk b && bad.all (fun e => decide (e.1 < 36 ∧ e.2 ≤ 32))
  | .hbmTraining _ st _ _ _ => stackOk st
  | .siteTraining _ site r => siteOk site && decide (r.peerSite < 96)
  | .pcieTraining _ width rate => decide (width ≤ 16 ∧ 1 ≤ rate ∧ rate ≤ 7)
  | .inventoryReady _ _ => true
  | .pwrFailN _ _ => true
  | .supplyOutOfRange _ _ _ _ => true
  | .deviceReset _ _ => true
  | .managementWatchdog _ => true
  | .mboxComputeReset _ _ => true
  | .mboxBayReset _ _ => true
  | .computeReset _ => true
  | .bayReset _ b => bayOk b
  | .pciePerst _ => true
  | .pcieLinkRetrain _ width rate => decide (width ≤ 16 ∧ 1 ≤ rate ∧ rate ≤ 7)
  | .pciePoisonedTlp _ => true
  | .recoveryPortEnable _ => true
  | .eepromRead _ _ => true
  | .registerWrite _ path id _ _ => path.ok && id.ok
  | .registerReadClear _ path id _ => path.ok && id.ok
  | .register64LowRead _ path id => path.ok && id.ok
  | .controlSpaceAccess _ path offset _ _ _ => path.ok && decide (offset < 2 ^ 26)
  | .bar4Access _ offset _ _ _ => addrOk offset
  | .timeMessageSend _ => true
  | .timeMessageReceive _ b _ => bayOk b
  | .boundaryMessage _ => true
  | .stitchStart _ b _ => bayOk b
  | .workWindowEnd _ b bad => bayOk b && bad.all cuOk
  | .arithFlagSummary _ b => bayOk b
  | .rollCall _ b silentCus silentMus => bayOk b && silentCus.all cuOk && silentMus.all clusterOk
  | .rollCallCompare _ b => bayOk b
  | .scrubWindow _ b => bayOk b
  | .trimApply _ b _ => bayOk b
  | .seqMaskBroadcast _ => true
  | .fabricSample _ b => bayOk b
  | .telemetryRecordWrite _ b => bayOk b
  | .voteFreeze _ v => voterOk v
  | .commitSampling _ => true
  | .commitApply _ => true
  | .commitPhaseEnd _ => true
  | .doneTokenArrival _ _ site _ _ _ => siteOk site
  | .peerTimeout _ => true
  | .ctxSwitch _ target => ctxOk target
  | .resume _ => true
  | .modeCancel _ => true
  | .voidCurrent _ => true
  | .modeStage _ => true
  | .stageAck _ b cls => bayOk b && decide (1 ≤ cls ∧ cls ≤ 4)
  | .bayWakeStart _ b => bayOk b
  | .wakeComplete _ b => bayOk b
  | .mboxReadInventory _ => true
  | .mboxLoadImage _ k img => ctxOk k && img.ok
  | .mboxEndResidency _ k => ctxOk k
  | .mboxStartSession _ feeds => feeds.all (fun e => siteOk e.1)
  | .mboxEndSession _ => true
  | .mboxSetCap _ w => decide (w < 2 ^ 32)
  | .mboxTwinAttach _ _ _ maxMajor minMajor _ => decide (maxMajor < 2 ^ 16 ∧ minMajor < 2 ^ 16)
  | .mboxTwinDetach _ => true
  | .mailboxResponse _ => true
  | .sessionEndScrubDone _ => true
  | .backgroundFrame _ b bad silentCus silentMus => bayOk b && bad.all cuOk && silentCus.all cuOk && silentMus.all clusterOk
  | .bundleIssue _ u => cuOk u
  | .nop _ u => cuOk u
  | .hold _ u n => cuOk u && decide (1 ≤ n ∧ n < 65536)
  | .holdExpiry _ u => cuOk u
  | .loop _ u count => cuOk u && decide (1 ≤ count ∧ count < 4096)
  | .endloop _ u => cuOk u
  | .seti _ u r _ => cuOk u && decide (r < 16)
  | .addi _ u r _ => cuOk u && decide (r < 16)
  | .pred _ u r _ => cuOk u && decide (r < 16)
  | .predon _ u => cuOk u
  | .exit _ u r _ => cuOk u && decide (r < 16)
  | .brace _ u level => cuOk u && decide (level < 9)
  | .braceArm _ b => bayOk b
  | .launch _ u r => cuOk u && decide (r < 16)
  | .launchRelease _ u => cuOk u
  | .endMark _ u => cuOk u
  | .stitchEndMarkerRetire _ u => cuOk u
  | .laneStoreRewrite _ u => cuOk u
  | .mm _ u op => cuOk u && op.ok
  | .mma _ u op => cuOk u && op.ok
  | .drain _ u op => cuOk u && op.ok
  | .stageLoad _ u _ => cuOk u
  | .steOutputIssue _ u => cuOk u
  | .accumulate _ u => cuOk u
  | .checksumCompare _ u => cuOk u
  | .vectorPass _ u op => cuOk u && op.ok
  | .vectorResultWrite _ u => cuOk u
  | .dma _ u d ss sd _ => cuOk u && decide (d < 8 ∧ ss < 16 ∧ sd < 16)
  | .dmaTransferStart _ u => cuOk u
  | .dmaTransferComplete _ u => cuOk u
  | .send _ u ch r len _ => cuOk u && decide (ch < 8 ∧ r < 16 ∧ len < 64)
  | .sig _ u k n _ => cuOk u && decide (k < 32 ∧ 1 ≤ n ∧ n < 1024)
  | .wait _ u k n _ => cuOk u && decide (k < 32 ∧ 1 ≤ n ∧ n < 1024)
  | .waitge _ u k n _ => cuOk u && decide (k < 32 ∧ 1 ≤ n ∧ n < 1024)
  | .waitSatisfied _ u => cuOk u
  | .scratchpadArbitration _ u reqs => cuOk u && reqs.all SpReq.ok
  | .scratchpadPromotion _ u bank => cuOk u && decide (bank < 4)
  | .cuSrSeedWrite _ u _ => cuOk u
  | .route _ u e => cuOk u && decide (e < 16)
  | .spin _ u link d r => cuOk u && decide (link < 4 ∧ d < 16 ∧ r < 16)
  | .agstart _ u g d r => cuOk u && decide (g < 4 ∧ d < 16 ∧ r < 16)
  | .tag _ u target r => cuOk u && decide (target < 3 ∧ r < 16)
  | .spinWrite _ u link => cuOk u && decide (link < 4)
  | .linkPayloadTransfer _ u src check => cuOk u && decide (src < 8) && check.bad.all (fun e => decide (e.2 < 16))
  | .seamPayloadExit _ u link => cuOk u && decide (link < 4)
  | .seamCreditReturn _ u link => cuOk u && decide (link < 4)
  | .fabricPortTransfer _ c port _ => clusterOk c && decide (port < 2)
  | .telemetryRingConfig _ b _ _ _ => bayOk b
  | .sliceArbitration _ c slice reqs => clusterOk c && decide (slice < 8) && reqs.all MuReq.ok
  | .narrowStarvation _ c port slice bank => clusterOk c && decide (port < 8 ∧ slice < 8 ∧ bank < 4)
  | .cuPortDmaPromotion _ u => cuOk u
  | .agStreamStart _ c g => clusterOk c && decide (g < 4)
  | .agAccess _ c g => clusterOk c && decide (g < 4)
  | .indexFetch _ c g => clusterOk c && decide (g < 4)
  | .agStreamComplete _ c g => clusterOk c && decide (g < 4)
  | .remoteAccess _ pkt => pkt.ok
  | .tokenPayloadEnter _ u link => cuOk u && decide (link < 6)
  | .steerCycle _ u => cuOk u
  | .steerPairTimeout _ u => cuOk u
  | .dispatchPassStart _ c g => clusterOk c && decide (g < 4)
  | .tokenRank _ c => clusterOk c
  | .tokenResolve _ c => clusterOk c
  | .tokenPayloadEmit _ c => clusterOk c
  | .passEndFill _ c => clusterOk c
  | .dispatchPassComplete _ c => clusterOk c
  | .meshInject _ c => clusterOk c
  | .routerForward _ r out bad => clusterOk r && decide (out < 6 ∧ bad < 4)
  | .multicastReplicate _ r mc => clusterOk r && mc.ok
  | .multicastAckCombine _ r entry status => clusterOk r && decide (entry < 8 ∧ status < 7)
  | .meshResponseReceive _ resp => resp.ok
  | .messageSendInject _ u ch => cuOk u && decide (ch < 8)
  | .messageArrival _ part => part.ok
  | .messagePartArrival _ part => part.ok
  | .messageResponse _ u ch status => cuOk u && decide (ch < 8 ∧ status < 7)
  | .messageRetry _ u ch => cuOk u && decide (ch < 8)
  | .ringRelease _ u k => cuOk u && decide (k < 8)
  | .launchEntryArm _ b e _ => bayOk b && decide (e < 8)
  | .launchEntryDisarm _ b e _ => bayOk b && decide (e < 8)
  | .launchEntryFire _ b e => bayOk b && decide (e < 8)
  | .hsyncSignal _ _ => true
  | .hostWaitArm _ n _ => decide (n < 32)
  | .hostWaitSatisfied _ n => decide (n < 32)
  | .timeNowRead _ => true
  | .hbmRead _ addr => addrOk addr
  | .hbmWrite _ addr _ => addrOk addr
  | .hbmRecalibration _ st pc _ _ => stackOk st && decide (pc < 64)
  | .hbmPatrol _ st pc => stackOk st && decide (pc < 64)
  | .qpInTail _ q _ => decide (q < 64)
  | .qpOutHead _ q _ => decide (q < 64)
  | .dmaTail _ d _ => decide (d < 64)
  | .dmaRestart _ d => decide (d < 64)
  | .dmaDescriptorStart _ d words => decide (d < 64 ∧ words.length = 8)
  | .dmaBufferRead _ d => decide (d < 64)
  | .dmaHostReadTimeout _ d => decide (d < 64)
  | .dmaDescriptorComplete _ d => decide (d < 64)
  | .hostDmaResWrite _ d _ => decide (d < 64)
  | .hostVersionWrite _ _ => true
  | .eventReport _ => true
  | .eventRecordWrite _ => true
  | .evtRingHeadWrite _ _ => true
  | .evtRingEnable _ _ => true
  | .claimIdRead _ k => decide (k < 2)
  | .claimDoneWrite _ k src => decide (k < 2 ∧ src < 4096)
  | .casrikFlitSend _ site => siteOk site
  | .casrikFlitReceive _ site f wl _ => siteOk site && f.ok && decide (wl < 8)
  | .wavelengthDrop _ site w => siteOk site && decide (w < 8)
  | .wavelengthRejoin _ site w => siteOk site && decide (w < 8)
  | .siteDown _ site => siteOk site
  | .exportStart _ site d => siteOk site && decide (d < 16)
  | .checkpointStream _ => true
  | .heartbeatSend _ => true
  | .heartbeatInterval _ _ => true
  | .twinFatalIn _ => true
  | .twinTakeover _ => true
  | .regulatorPhaseFail _ b phase _ => bayOk b && decide (phase < 16)
  | .bayRailShort _ b _ => bayOk b
  | .fabricRailShort _ p _ => panelOk p
  | .droopBoost _ b => bayOk b
  | .clockStretch _ b => bayOk b
  | .vminSample _ b mv => bayOk b && decide (mv < 4096)
  | .vminRead _ path b => path.ok && bayOk b
  | .governorRiseTick _ b => bayOk b
  | .governorFallTick _ b => bayOk b
  | .panelBudgetUpdate _ p m => panelOk p && decide (m.mv.length = 3 ∧ m.current.length = 3)
  | .bayBudgetCompare _ b _ _ => bayOk b
  | .thermalSample _ b _ => bayOk b
  | .darnUpdateComplete _ => true
  | .recordCommit _ _ => true
  | .logCompaction _ => true
  | .getVersion _ => true
  | .getCapabilities _ => true
  | .negotiateAlgorithms _ => true
  | .getDigests _ => true
  | .getCertificate _ => true
  | .challenge _ => true
  | .getMeasurements _ index => decide (index < 256)
  | .keyExchange _ => true
  | .finish _ => true
  | .heartbeat _ => true
  | .keyUpdate _ => true
  | .endSession _ => true
  | .ownerSet _ _ => true
  | .ownerRevoke _ _ => true
  | .debugAuth _ _ => true
  | .debugRevoke _ _ => true
  | .fwUpdate _ _ _ => true
  | .ideKm _ _ => true
  | .diagGo _ path _ => path.ok
  | .diagReadComplete _ => true
  | .dmaReadCompletion _ d _ _ => decide (d < 64)
  | .vectorIssue _ u => cuOk u
  | .uncorrectableInternalError _ => true
  | .pcieLinkDown _ => true
  | .recoveryPortDisable _ => true
  | .clockStretchEnd _ b => bayOk b
  | .secureSessionLoss _ => true

end Sys2Proof
end

