-- ==== Sys2Proof/Decode.lean ====
section
/-! DEFINITION. The command that a word spells. The command table of this block gives its rows no bits, so no word spells one
(log entry 1). -/

namespace Sys2Proof

/-- The command whose `nbits` table bits are `w`: the table spells none. -/
def decodeTableWord (_nbits _w : Nat) : Option Instr := none

end Sys2Proof
end

