-- ==== Sys2Proof/Machine/Bits.lean ====
section
/-! DEFINITION. Bit fields, sign extension, saturation, byte order. Byte order is little-endian everywhere
(00_scope.md, Notation). -/

namespace Sys2Proof.Machine

/-- Bits [hi:lo] of a natural number. -/
def field (n hi lo : Nat) : Nat := (n >>> lo) % 2 ^ (hi + 1 - lo)

/-- Bit `i` of a natural number. -/
def bitOf (n i : Nat) : Bool := n.testBit i

def b2n (b : Bool) : Nat := if b then 1 else 0

/-- Two's complement value of the low `w` bits. -/
def signed (w n : Nat) : Int :=
  let m := n % 2 ^ w
  if m < 2 ^ (w - 1) then (m : Int) else (m : Int) - 2 ^ w

/-- The low `w` bits of an integer. -/
def lowBits (w : Nat) (i : Int) : Nat := (i % (2 ^ w : Int)).toNat

def ceilDiv (a b : Nat) : Nat := (a + b - 1) / b

/-- R139: round up to a multiple of 16. -/
def round16 (x : Nat) : Nat := (x + 15) / 16 * 16

/-- Saturating addition at a maximum. -/
def satAdd (mx a b : Nat) : Nat := min mx (a + b)

/-- A register field placed at bit `lo`. -/
def fld (v lo : Nat) : Reg := BitVec.ofNat 64 (v <<< lo)

def fldB (b : Bool) (lo : Nat) : Reg := fld (b2n b) lo

def regOf (n : Nat) : Reg := BitVec.ofNat 64 n

/-- Little-endian value of bytes. -/
def leNat : List Byte → Nat
  | [] => 0
  | b :: bs => b.toNat + 256 * leNat bs

/-- `n` little-endian bytes of a value. -/
def leBytes : Nat → Nat → List Byte
  | 0, _ => []
  | n + 1, v => BitVec.ofNat 8 v :: leBytes n (v / 256)

/-- The bytes of a list of 16-byte words, lowest first. -/
def wordsBytes (ws : List Word) : List Byte := ws.flatMap (fun w => leBytes 16 w.toNat)

/-- Cut bytes into 16-byte words, the last one filled with zeros. -/
def bytesWords : Nat → List Byte → List Word
  | 0, _ => []
  | n + 1, bs => BitVec.ofNat 128 (leNat (bs.take 16)) :: bytesWords n (bs.drop 16)

/-- Number of 1 bits in the low `w` bits. -/
def popcount : Nat → Nat → Nat
  | 0, _ => 0
  | w + 1, n => n % 2 + popcount w (n / 2)

/-- The first index in `p, p+1, ..., n-1, 0, ..., p-1` that requests (R27). -/
def rrPick (n p : Nat) (req : Nat → Bool) : Option Nat :=
  (((List.range n).map (fun i => (p + i) % n)).find? req)

/-- R27: the pointer after a grant. -/
def rrNext (n : Nat) : Option Nat → Nat → Nat
  | some g, _ => (g + 1) % n
  | none, p => p

/-- Put back an element of a list at an index. -/
def listSet {α : Type} (l : List α) (i : Nat) (v : α) : List α := l.set i v

/-- Add to a saturating 32-bit count held in a register (the RC counters). -/
def satReg (r : Reg) (n : Nat) : Reg := regOf (satAdd 0xFFFFFFFF r.toNat n)

/-- Add to the saturating count in bits [hi:lo] of a register, the other bits kept. -/
def satField (r : Reg) (hi lo n : Nat) : Reg :=
  let old := field r.toNat hi lo
  regOf (r.toNat - (old <<< lo) + ((satAdd (2 ^ (hi + 1 - lo) - 1) old n) <<< lo))

end Sys2Proof.Machine
end

