-- ==== Sys2Proof/Machine/Digest.lean ====
section
/-! DEFINITION. SHA-384 and HMAC-SHA-384, the tree digest of a payload, and the fields of a manifest (R453-R455, R460, R466). The spec
names the two functions; what they compute is FIPS 180-4 and RFC 2104 (PRESUMED, log entry 8). -/

namespace Sys2Proof.Machine

/-! ### SHA-384 -/

/-- The round constants of SHA-512 and SHA-384, twenty at a time. -/
def shaK0 : List Nat :=
  [0x428A2F98D728AE22, 0x7137449123EF65CD, 0xB5C0FBCFEC4D3B2F, 0xE9B5DBA58189DBBC, 0x3956C25BF348B538,
   0x59F111F1B605D019, 0x923F82A4AF194F9B, 0xAB1C5ED5DA6D8118, 0xD807AA98A3030242, 0x12835B0145706FBE,
   0x243185BE4EE4B28C, 0x550C7DC3D5FFB4E2, 0x72BE5D74F27B896F, 0x80DEB1FE3B1696B1, 0x9BDC06A725C71235,
   0xC19BF174CF692694, 0xE49B69C19EF14AD2, 0xEFBE4786384F25E3, 0x0FC19DC68B8CD5B5, 0x240CA1CC77AC9C65]

def shaK1 : List Nat :=
  [0x2DE92C6F592B0275, 0x4A7484AA6EA6E483, 0x5CB0A9DCBD41FBD4, 0x76F988DA831153B5, 0x983E5152EE66DFAB,
   0xA831C66D2DB43210, 0xB00327C898FB213F, 0xBF597FC7BEEF0EE4, 0xC6E00BF33DA88FC2, 0xD5A79147930AA725,
   0x06CA6351E003826F, 0x142929670A0E6E70, 0x27B70A8546D22FFC, 0x2E1B21385C26C926, 0x4D2C6DFC5AC42AED,
   0x53380D139D95B3DF, 0x650A73548BAF63DE, 0x766A0ABB3C77B2A8, 0x81C2C92E47EDAEE6, 0x92722C851482353B]

def shaK2 : List Nat :=
  [0xA2BFE8A14CF10364, 0xA81A664BBC423001, 0xC24B8B70D0F89791, 0xC76C51A30654BE30, 0xD192E819D6EF5218,
   0xD69906245565A910, 0xF40E35855771202A, 0x106AA07032BBD1B8, 0x19A4C116B8D2D0C8, 0x1E376C085141AB53,
   0x2748774CDF8EEB99, 0x34B0BCB5E19B48A8, 0x391C0CB3C5C95A63, 0x4ED8AA4AE3418ACB, 0x5B9CCA4F7763E373,
   0x682E6FF3D6B2B8A3, 0x748F82EE5DEFB2FC, 0x78A5636F43172F60, 0x84C87814A1F0AB72, 0x8CC702081A6439EC]

def shaK3 : List Nat :=
  [0x90BEFFFA23631E28, 0xA4506CEBDE82BDE9, 0xBEF9A3F7B2C67915, 0xC67178F2E372532B, 0xCA273ECEEA26619C,
   0xD186B8C721C0C207, 0xEADA7DD6CDE0EB1E, 0xF57D4F7FEE6ED178, 0x06F067AA72176FBA, 0x0A637DC5A2C898A6,
   0x113F9804BEF90DAE, 0x1B710B35131C471B, 0x28DB77F523047D84, 0x32CAAB7B40C72493, 0x3C9EBE0A15C9BEBC,
   0x431D67C49C100D4C, 0x4CC5D4BECB3E42B6, 0x597F299CFC657E2A, 0x5FCB6FAB3AD6FAEC, 0x6C44198C4A475817]

/-- The initial value of SHA-384. -/
def shaIV : List Nat :=
  [0xCBBB9D5DC1059ED8, 0x629A292A367CD507, 0x9159015A3070DD17, 0x152FECD8F70E5939, 0x67332667FFC00B31,
   0x8EB44A8768581511, 0xDB0C2E0D64F98FA7, 0x47B5481DBEFA4FA4]

/-- Rotation to the right in 64 bits. -/
def rotr64 (x n : Nat) : Nat := x >>> n ||| (x <<< (64 - n)) % 2 ^ 64

/-- The eight working words. -/
structure ShaState where
  a : Nat
  b : Nat
  c : Nat
  d : Nat
  e : Nat
  f : Nat
  g : Nat
  h : Nat
  deriving DecidableEq, Repr

def shaStart : ShaState :=
  let v (i : Nat) : Nat := shaIV.getD i 0
  ⟨v 0, v 1, v 2, v 3, v 4, v 5, v 6, v 7⟩

/-- One round; `kw` is the round's constant plus its word of the schedule. -/
def shaRound (s : ShaState) (kw : Nat) : ShaState :=
  let t1 := s.h + (rotr64 s.e 14 ^^^ rotr64 s.e 18 ^^^ rotr64 s.e 41) + ((s.e &&& s.f) ^^^ ((2 ^ 64 - 1 - s.e) &&& s.g)) + kw
  let t2 := (rotr64 s.a 28 ^^^ rotr64 s.a 34 ^^^ rotr64 s.a 39) + ((s.a &&& s.b) ^^^ (s.a &&& s.c) ^^^ (s.b &&& s.c))
  ⟨(t1 + t2) % 2 ^ 64, s.a, s.b, s.c, (s.d + t1) % 2 ^ 64, s.e, s.f, s.g⟩

/-- `n` words more of the message schedule, the newest first. -/
def shaExtend : Nat → List Nat → List Nat
  | 0, ws => ws
  | n + 1, ws =>
    let w (i : Nat) : Nat := ws.getD (i - 1) 0
    let s0 := rotr64 (w 15) 1 ^^^ rotr64 (w 15) 8 ^^^ (w 15) >>> 7
    let s1 := rotr64 (w 2) 19 ^^^ rotr64 (w 2) 61 ^^^ (w 2) >>> 6
    shaExtend n ((s1 + w 7 + s0 + w 16) % 2 ^ 64 :: ws)

/-- The hash after the block whose 16 words are `m`. -/
def shaBlock (x : ShaState) (m : List Nat) : ShaState :=
  let ws := (shaExtend 64 m.reverse).reverse
  let r := (List.zipWith (· + ·) (shaK0 ++ shaK1 ++ shaK2 ++ shaK3) ws).foldl shaRound x
  let add (p q : Nat) : Nat := (p + q) % 2 ^ 64
  ⟨add x.a r.a, add x.b r.b, add x.c r.c, add x.d r.d, add x.e r.e, add x.f r.f, add x.g r.g, add x.h r.h⟩

/-- The last `n` blocks of a padded message `x`, a big-endian number. -/
def shaBlocks (x : Nat) : Nat → ShaState → ShaState
  | 0, h => h
  | n + 1, h => shaBlocks x n (shaBlock h ((List.range 16).map (fun i => x >>> (1024 * n + 64 * (15 - i)) % 2 ^ 64)))

/-- Big-endian value of bytes. -/
def beNat (bs : List Byte) : Nat := bs.foldl (fun a b => 256 * a + b.toNat) 0

/-- SHA-384 of a message: a digest, held with byte 0 lowest. -/
def sha384 (bs : List Byte) : BitVec 384 :=
  let n := bs.length
  let blocks := ceilDiv (n + 17) 128
  let fill := 8 * (128 * blocks - n)
  let h := shaBlocks (beNat bs <<< fill + 2 ^ (fill - 1) + 8 * n) blocks shaStart
  BitVec.ofNat 384 (leNat ((leBytes 48 (h.a * 2 ^ 320 + h.b * 2 ^ 256 + h.c * 2 ^ 192 + h.d * 2 ^ 128 + h.e * 2 ^ 64 + h.f)).reverse))

/-- The bytes of a SHA-384 digest. -/
def digestBytes (d : BitVec 384) : List Byte := leBytes 48 d.toNat

/-- HMAC-SHA-384 with a key of 384 bits. -/
def hmac384 (key : BitVec 384) (msg : List Byte) : BitVec 384 :=
  let pad (v : Byte) : List Byte := (digestBytes key ++ List.replicate 80 0).map (fun b => b ^^^ v)
  sha384 (pad 0x5C ++ digestBytes (sha384 (pad 0x36 ++ msg)))

/-! ### The tree digest (R455) -/

/-- R455: a payload in chunks of `c` bytes, the last one shorter; an empty one has one empty chunk. -/
def payloadChunks (c : Nat) : Nat → List Byte → List (List Byte)
  | 0, p => [p]
  | n + 1, p => if p.length ≤ c then [p] else p.take c :: payloadChunks c n (p.drop c)

/-- R455: SHA-384 over the leaves, the digests of the 64 KiB chunks, and the length. -/
def treeDigest (p : List Byte) : BitVec 384 :=
  sha384 ((payloadChunks 65536 p.length p).flatMap (fun c => digestBytes (sha384 c)) ++ leBytes 8 p.length)

/-- The manifest of a payload, with neither keys nor signatures in it and both of them good. -/
def manifestOf (cls slot flags svn : Nat) (payload : List Byte) : Manifest :=
  { bytes := BitVec.ofNat 65536 (0x54314D46 + 1 * 2 ^ 32 + cls * 2 ^ 64 + slot * 2 ^ 72 + flags * 2 ^ 80 + svn * 2 ^ 96
      + payload.length * 2 ^ 128 + (treeDigest payload).toNat * 2 ^ 192)
    ecdsaOk := true, hssOk := true, payload := payload }

end Sys2Proof.Machine

namespace Sys2Proof

open Sys2Proof.Machine

/-! ### The fields of a manifest (R453) -/

/-- `n` bytes of the manifest from byte `lo` on, as a little-endian number. -/
def Manifest.at (m : Manifest) (lo n : Nat) : Nat := m.bytes.toNat >>> (8 * lo) % 2 ^ (8 * n)

def Manifest.magic (m : Manifest) : Nat := m.at 0 4
def Manifest.major (m : Manifest) : Nat := m.at 4 2
def Manifest.minor (m : Manifest) : Nat := m.at 6 2
def Manifest.cls (m : Manifest) : Nat := m.at 8 1
def Manifest.keySlot (m : Manifest) : Nat := m.at 9 1
def Manifest.advance (m : Manifest) : Bool := bitOf (m.at 10 1) 0
def Manifest.svn (m : Manifest) : Nat := m.at 12 4
def Manifest.length (m : Manifest) : Nat := m.at 16 8
def Manifest.digest (m : Manifest) : BitVec 384 := BitVec.ofNat 384 (m.at 24 48)

/-- The two public keys, ECDSA and HSS, as they stand in bytes 72 to 228. -/
def Manifest.keys (m : Manifest) : List Byte := leBytes 157 (m.at 72 157)

/-- The signed header, bytes 0 to 511. -/
def Manifest.header (m : Manifest) : BitVec 4096 := BitVec.ofNat 4096 (m.at 0 512)

def Manifest.ecdsaSignature (m : Manifest) : List Byte := leBytes 96 (m.at 512 96)
def Manifest.hssSignature (m : Manifest) : List Byte := leBytes 4472 (m.at 1024 4472)

/-! ### The body of a signed request (R466)

The spec names what a body holds and gives it no layout (DESIGN CHOICE, log entry 76). -/

/-- `n` bytes of the body from byte `lo` on. -/
def SignedRequest.at (r : SignedRequest) (lo n : Nat) : Nat := leNat ((r.manifest.payload.drop lo).take n)

def SignedRequest.serial (r : SignedRequest) : Reg := BitVec.ofNat 64 (r.at 0 8)
def SignedRequest.nonce (r : SignedRequest) : BitVec 256 := BitVec.ofNat 256 (r.at 8 32)
def SignedRequest.slot (r : SignedRequest) : Nat := r.at 40 1
def SignedRequest.digest (r : SignedRequest) : BitVec 384 := BitVec.ofNat 384 (r.at 41 48)

end Sys2Proof
end

