-- ==== Sys2Proof/Config.lean ====
section
/-! DEFINITION. What the spec leaves open: free values. Each is a constant without a body, so nothing can be proved of
the value it gives; a statement that holds of the model holds whatever they are (log entries 3 and 8). -/

namespace Sys2Proof.Config

/-- Data of a code word that can no longer be decoded (R399, R401), a free value per use: the argument is `State.free`. -/
opaque freeWord : Nat → Word

/-- A register or result word the spec gives no value, per use. -/
opaque freeReg : Nat → Reg

/-- How far the SFU's FP32 result lies, in units in the last place, from the correctly rounded value of the function
(R102 bounds the error and says each T1 returns the same result for the same input): function code, FP32 input. -/
opaque sfuOffset : Nat → BitVec 32 → Nat

/-- The basting latency that the loop-back of a device reset measures (R271): use, endpoint by clock domain. -/
opaque loopBack : Nat → Nat → Nat

/-- The responder's random number of the secure session (R463), one per use. -/
opaque nonce : Nat → BitVec 256

/-- How long a step of the boot takes, in ns (R431 gives bounds alone): use, step. -/
opaque bootNs : Nat → Nat → Nat

/-- How long it takes to blow so many bits of a security version, in ns (R458 gives no time). -/
opaque svnRaiseNs : Nat → Nat

/-- The P-384 signature over a digest with the key derived from a secret (R460, R463). -/
opaque signature : BitVec 384 → BitVec 384 → List Byte

/-- The P-384 public key derived from a secret (R460). -/
opaque publicKey : BitVec 384 → List Byte

/-- The HSS signature over a digest with the key of a seed and identifier, at an index (R461, R465). -/
opaque hssSignature : BitVec 256 → BitVec 128 → Nat → BitVec 384 → List Byte

/-- What the HMAC of the unique device secret is taken of for the DeviceID key (R460 does not say). -/
opaque deviceLabel : List Byte

/-- The certificates of the Melermic root CA and the device CA (R460). -/
opaque caCertificates : List Byte

/-- The Alias certificate but for its signature, by the Alias public key (R460). -/
opaque aliasBody : List Byte → List Byte

/-- The bytes of a standard SPDM response whose contents the spec leaves to SPDM 1.3 (R463), by response code. -/
opaque spdmBody : Nat → List Byte

/-- What an SPDM request carries beyond its header (R463): request code, bytes exchanged on the connection so far. -/
opaque requestTail : Nat → Nat → List Byte

/-- Frequency of the PCIe clock domain in MHz, by HOST_LINK rate code (R19: set by the negotiated link rate, no value given). -/
opaque pcieMhz : Nat → Nat

/-- Serial number of an HBM stack, which its crease record names (R306 gives no value). -/
opaque stackSerial : Nat → Reg

/-- Day of manufacture in the identity EEPROM: year, month, day (R479 gives the place and no value). -/
opaque madeOn : Nat → Byte

end Sys2Proof.Config
end

