-- ==== Sys2Proof/Machine/Numbers.lean ====
section
/-! DEFINITION. Number formats and arithmetic (04_number_formats.md, R109-R133). A value is held exactly, computed
exactly, and rounded explicitly. -/

namespace Sys2Proof.Machine

/-- An exact value: a NaN, an infinity, or (-1)^neg * mag * 2^exp. -/
inductive Num
  | nan
  | inf (neg : Bool)
  | fin (neg : Bool) (mag : Nat) (exp : Int)
  deriving DecidableEq, Repr

/-- Sticky flags one operation sets (R134), in the order of CU_FLAGS: overflow 1, underflow 2, inexact 4, invalid 8. -/
abbrev FlagSet := BitVec 4

def flOverflow : FlagSet := 1
def flUnderflow : FlagSet := 2
def flInexact : FlagSet := 4
def flInvalid : FlagSet := 8

/-- A binary floating-point format (R110). `special` 0: infinities and NaNs; 1: E4M3 (one NaN, no infinity);
2: every pattern finite. -/
structure Fmt where
  width : Nat
  ebits : Nat
  mbits : Nat
  bias : Nat
  special : Nat
  deriving DecidableEq, Repr

def fp32 : Fmt := ⟨32, 8, 23, 127, 0⟩
def bf16 : Fmt := ⟨16, 8, 7, 127, 0⟩
def fp16 : Fmt := ⟨16, 5, 10, 15, 0⟩
def e4m3 : Fmt := ⟨8, 4, 3, 7, 1⟩
def e5m2 : Fmt := ⟨8, 5, 2, 15, 0⟩
def e3m2 : Fmt := ⟨6, 3, 2, 3, 2⟩
def e2m3 : Fmt := ⟨6, 2, 3, 1, 2⟩
def e2m1 : Fmt := ⟨4, 2, 1, 1, 2⟩

/-- R109: the format of a floating element type code; none for the integer types and the reserved codes. -/
def fmtOf : Nat → Option Fmt
  | 0 => some fp32
  | 1 => some bf16
  | 2 => some fp16
  | 3 => some e4m3
  | 4 => some e5m2
  | 5 => some e3m2
  | 6 => some e2m3
  | 7 => some e2m1
  | _ => none

/-- R109: the width of an element type in bits. -/
def widthOf : Nat → Nat
  | 0 => 32 | 1 => 16 | 2 => 16 | 3 => 8 | 4 => 8 | 5 => 6 | 6 => 6 | 7 => 4 | 8 => 8 | 9 => 4 | 10 => 32
  | _ => 8

def isIntType (t : Nat) : Bool := t == 8 || t == 9 || t == 10

/-- R111: the exponent of the implicit factor of a scaled integer element. -/
def implicitExp : Nat → Int
  | 8 => -6
  | 9 => -2
  | _ => 0

/-- R110: the value of a bit pattern. -/
def Fmt.decode (f : Fmt) (bits : Nat) : Num :=
  let s := bits.testBit (f.width - 1)
  let e := field bits (f.mbits + f.ebits - 1) f.mbits
  let m := bits % 2 ^ f.mbits
  let top := 2 ^ f.ebits - 1
  if f.special = 0 ∧ e = top then (if m = 0 then .inf s else .nan)
  else if f.special = 1 ∧ e = top ∧ m = 2 ^ f.mbits - 1 then .nan
  else if e = 0 then .fin s m (1 - (f.bias : Int) - f.mbits)
  else .fin s (2 ^ f.mbits + m) ((e : Int) - f.bias - f.mbits)

/-- The value of an element code of type `t`; `scaled` applies the implicit integer factor (R111). -/
def elemVal (t : Nat) (scaled : Bool) (bits : Nat) : Num :=
  match fmtOf t with
  | some f => f.decode bits
  | none =>
    let i := signed (widthOf t) bits
    .fin (decide (i < 0)) i.natAbs (if scaled then implicitExp t else 0)

/-- ⌊log2⌋ of a positive number. -/
def ilog2 (n : Nat) : Nat := Nat.log2 n

/-- `num / den * 2^exp` in units of `2^q`: quotient, and the remainder over a denominator. -/
def inUnits (num den : Nat) (exp q : Int) : Nat × Nat × Nat :=
  let sh := exp - q
  let n := if 0 ≤ sh then num * 2 ^ sh.toNat else num
  let d := if 0 ≤ sh then den else den * 2 ^ (-sh).toNat
  (n / d, n % d, d)

/-- ⌊log2 (num / den * 2^exp)⌋ of a positive value. -/
def floorLog2 (num den : Nat) (exp : Int) : Int :=
  let g := (ilog2 num : Int) - ilog2 den
  let le := if 0 ≤ g then decide (den * 2 ^ g.toNat ≤ num) else decide (den ≤ num * 2 ^ (-g).toNat)
  (if le then g else g - 1) + exp

/-- Rounding modes: 1 nearest-even, 2 toward zero, 3 stochastic (R91). The stochastic mode carries the state of its
generator after the step (R130). -/
def roundUp (mode : Nat) (lfsr : Nat) (q r d : Nat) : Bool :=
  if r = 0 then false
  else if mode = 2 then false
  else if mode = 3 then decide (65536 ≤ r * 65536 / d + lfsr)
  else decide (d < 2 * r) || (decide (2 * r = d) && q % 2 == 1)

/-- Largest finite magnitude of a format: significand and exponent. -/
def Fmt.maxFin (f : Fmt) : Nat × Int :=
  let e : Nat := 2 ^ f.ebits - 1 - (if f.special = 0 then 1 else 0)
  let m : Nat := 2 ^ (f.mbits + 1) - 1 - (if f.special = 1 then 1 else 0)
  (m, (e : Int) - f.bias - f.mbits)

/-- `a * 2^ea ≤ b * 2^eb`. -/
def leExp (a : Nat) (ea : Int) (b : Nat) (eb : Int) : Bool :=
  if ea ≤ eb then decide (a ≤ b * 2 ^ (eb - ea).toNat) else decide (a * 2 ^ (ea - eb).toNat ≤ b)

/-- Bit pattern of `mag * 2^exp`, which the format holds exactly. -/
def Fmt.pack (f : Fmt) (neg : Bool) (mag : Nat) (exp : Int) : Nat :=
  let s := if neg then 2 ^ (f.width - 1) else 0
  if mag = 0 then s
  else
    let l := (ilog2 mag : Int) + exp
    let emin := 1 - (f.bias : Int)
    let q := max l emin - f.mbits
    let n := (inUnits mag 1 exp q).1
    if n < 2 ^ f.mbits then s + n
    else s + ((l + f.bias).toNat <<< f.mbits) + (n - 2 ^ f.mbits)

/-- R129: the canonical NaN. A format without one has none; +0 stands there (R127). -/
def Fmt.canonNaN (f : Fmt) : Nat :=
  if f.special = 0 then ((2 ^ f.ebits - 1) <<< f.mbits) + 2 ^ (f.mbits - 1)
  else if f.special = 1 then 0x7F
  else 0

def Fmt.infBits (f : Fmt) (neg : Bool) : Nat :=
  (if neg then 2 ^ (f.width - 1) else 0) + ((2 ^ f.ebits - 1) <<< f.mbits)

def Fmt.maxBits (f : Fmt) (neg : Bool) : Nat := f.pack neg f.maxFin.1 f.maxFin.2

/-- How a conversion treats a value outside the destination (R127, R131). -/
structure ConvMode where
  mode : Nat        -- 1 nearest-even, 2 toward zero, 3 stochastic
  lfsr : Nat        -- generator state after its step, for mode 3
  sat : Bool        -- E4M3 saturates
  wrap : Bool       -- integer destinations keep the low bits (overflow = 0)
  clampAll : Bool   -- scaled write-back: every out-of-range value saturates (R131)
  deriving DecidableEq, Repr

/-- Nearest-even, no saturation. -/
def rne : ConvMode := ⟨1, 0, false, false, false⟩

/-- R127, R128: convert `num / den * 2^exp` to a floating format: bit pattern and flags. -/
def Fmt.conv (f : Fmt) (c : ConvMode) (neg : Bool) (num den : Nat) (exp : Int) : Nat × FlagSet :=
  if num = 0 then (f.pack neg 0 0, 0)
  else
    let l := floorLog2 num den exp
    let emin := 1 - (f.bias : Int)
    let q := max l emin - f.mbits
    let (n, r, d) := inUnits num den exp q
    let n' := if roundUp c.mode c.lfsr n r d then n + 1 else n
    let inex : FlagSet := if r = 0 then 0 else flInexact
    if leExp n' q f.maxFin.1 f.maxFin.2 then
      (f.pack neg n' q, inex ||| (if r ≠ 0 ∧ l < emin then flUnderflow else 0))
    else if c.clampAll || c.mode = 2 || f.special = 2 || (f.special = 1 && c.sat) then
      (f.maxBits neg, flOverflow ||| flInexact)
    else if f.special = 1 then (f.canonNaN, flOverflow ||| flInexact)
    else (f.infBits neg, flOverflow ||| flInexact)

/-- R127: the infinite input. -/
def Fmt.convInf (f : Fmt) (c : ConvMode) (neg : Bool) : Nat × FlagSet :=
  if c.clampAll || f.special = 2 || (f.special = 1 && c.sat) then (f.maxBits neg, flOverflow ||| flInexact)
  else if f.special = 1 then (f.canonNaN, flOverflow ||| flInexact)
  else (f.infBits neg, 0)

/-- R127: the NaN input. -/
def Fmt.convNaN (f : Fmt) : Nat × FlagSet :=
  if f.special = 2 then (0, flInvalid) else (f.canonNaN, 0)

/-- R127, R128: conversion to a `w`-bit integer. -/
def convInt (w : Nat) (c : ConvMode) (neg : Bool) (num den : Nat) (exp : Int) : Nat × FlagSet :=
  let (n, r, d) := inUnits num den exp 0
  let n' := if roundUp c.mode c.lfsr n r d then n + 1 else n
  let i : Int := if neg then -(n' : Int) else n'
  let lo : Int := -(2 ^ (w - 1) : Int)
  let hi : Int := 2 ^ (w - 1) - 1
  let inex : FlagSet := if r = 0 then 0 else flInexact
  if lo ≤ i ∧ i ≤ hi then (lowBits w i, inex)
  else if c.wrap && !c.clampAll then (lowBits w i, flOverflow ||| flInexact)
  else (lowBits w (if neg then lo else hi), flOverflow ||| flInexact)

/-- Convert a value divided by `dnum * 2^dexp` to element type `t` (division by 1 when unscaled). -/
def convElem (t : Nat) (c : ConvMode) (v : Num) (dnum : Nat) (dexp : Int) : Nat × FlagSet :=
  match fmtOf t, v with
  | some f, .nan => f.convNaN
  | some f, .inf s => f.convInf c s
  | some f, .fin s m e => f.conv c s m dnum (e - dexp)
  | none, .nan => (0, flInvalid)
  | none, .inf s =>
    (lowBits (widthOf t) (if s then -(2 ^ (widthOf t - 1) : Int) else 2 ^ (widthOf t - 1) - 1), flOverflow ||| flInexact)
  | none, .fin s m e => convInt (widthOf t) c s m dnum (e - dexp)

/-- Round an exact value to a working format, nearest-even: the stage results of R132 and the accumulator of R119. -/
def roundTo (f : Fmt) (v : Num) : Num × FlagSet :=
  match v with
  | .nan => (.nan, 0)
  | .inf s => (.inf s, 0)
  | .fin s m e => let (b, fl) := f.conv rne s m 1 e; (f.decode b, fl)

/-- Bits of a value the format holds exactly, NaN canonical. -/
def bitsOf (f : Fmt) : Num → Nat
  | .nan => f.canonNaN
  | .inf s => f.infBits s
  | .fin s m e => f.pack s m e

/-- R119: round to the tree format, a 28-bit significand without range limits that matter. -/
def roundTree : Num → Num × FlagSet
  | .fin s m e =>
    if m = 0 then (.fin s 0 0, 0)
    else
      let l := ilog2 m
      if l < 28 then (.fin s m e, 0)
      else
        let (n, r, d) := inUnits m 1 0 ((l : Int) - 27)
        ((.fin s (if roundUp 1 0 n r d then n + 1 else n) (e + (l : Int) - 27)), if r = 0 then 0 else flInexact)
  | v => (v, 0)

/-- Exact sum; a zero sum of opposite signs is +0 (nearest-even). -/
def addExact : Num → Num → Num
  | .fin s m e, .fin t n g =>
    let q := min e g
    let a : Int := (if s then -1 else 1) * (m * 2 ^ (e - q).toNat : Nat)
    let b : Int := (if t then -1 else 1) * (n * 2 ^ (g - q).toNat : Nat)
    let c := a + b
    if c = 0 then .fin (if m = 0 ∧ n = 0 then s && t else false) 0 0
    else .fin (decide (c < 0)) c.natAbs q
  | .nan, _ => .nan
  | _, .nan => .nan
  | .inf s, .inf t => if s = t then .inf s else .nan
  | .inf s, .fin _ _ _ => .inf s
  | .fin _ _ _, .inf t => .inf t

/-- R121, R129: invalid is set when a sum creates a NaN. -/
def addFlags : Num → Num → FlagSet
  | .inf s, .inf t => if s = t then 0 else flInvalid
  | _, _ => 0

/-- R119: one tree addition. -/
def treeAdd (x y : Num) : Num × FlagSet :=
  let (r, f) := roundTree (addExact x y)
  (r, f ||| addFlags x y)

/-- R118: a matched product, exact; a zero factor makes a zero whatever the other is. -/
def product : Num → Num → Num
  | .fin s m e, .fin t n g => if m = 0 ∨ n = 0 then .fin (s != t) 0 0 else .fin (s != t) (m * n) (e + g)
  | .fin s 0 _, .inf t => .fin (s != t) 0 0
  | .inf s, .fin t 0 _ => .fin (s != t) 0 0
  | .fin s 0 _, .nan => .fin s 0 0
  | .nan, .fin t 0 _ => .fin t 0 0
  | .nan, _ => .nan
  | _, .nan => .nan
  | .inf s, .inf t => .inf (s != t)
  | .inf s, .fin t _ _ => .inf (s != t)
  | .fin s _ _, .inf t => .inf (s != t)

/-- The scale of a scale byte (R113); `none` type is 1. -/
def scaleVal (scaleType x : Nat) : Num :=
  if scaleType = 1 then (if x = 0xFF then .nan else .fin false 1 ((x : Int) - 127))
  else if scaleType = 2 then (if x % 128 = 0x7F ∨ 128 ≤ x then .nan else e4m3.decode x)
  else .fin false 1 0

/-- Scale multiplication (R119 step 3, R121): a NaN scale gives NaN. -/
def scaleMul (scale v : Num) : Num × FlagSet :=
  match scale, v with
  | .nan, _ => (.nan, 0)
  | _, .nan => (.nan, 0)
  | .inf _, _ => (.nan, 0)
  | .fin _ k _, .inf s => if k = 0 then (.fin s 0 0, 0) else (.inf s, 0)
  | .fin _ k g, .fin s m e => roundTree (.fin s (m * k) (e + g))

/-- Exact product of the two scales. -/
def scaleProd : Num → Num → Num
  | .fin _ m e, .fin _ n g => .fin false (m * n) (e + g)
  | _, _ => .nan

/-- R119 step 2: the fixed binary tree over a list whose length is a power of two; fuel bounds its depth. -/
def treeSum : Nat → List (Num) → FlagSet → Num × FlagSet
  | 0, l, fl => (l.headD (.fin false 0 0), fl)
  | _, [], fl => (.fin false 0 0, fl)
  | _, [x], fl => (x, fl)
  | n + 1, l, fl =>
    let rec pairs : List Num → List Num × FlagSet
      | x :: y :: rest =>
        let (r, f) := treeAdd x y
        let (rs, g) := pairs rest
        (r :: rs, f ||| g)
      | rest => (rest, 0)
    let (l', f) := pairs l
    treeSum n l' (fl ||| f)

/-- R119 step 5: add a group sum into an FP32 accumulator. -/
def accAdd (acc g : Num) : Num × FlagSet :=
  let (r, f) := roundTo fp32 (addExact acc g)
  (r, f ||| addFlags acc g)

/-- R130: one step of the Galois generator. -/
def lfsrStep (st : BitVec 16) : BitVec 16 :=
  if st.getLsbD 0 then (st >>> 1) ^^^ 0xB400#16 else st >>> 1

/-- R131: ⌊log2 amax⌋ − emax clamped, as an E8M0 byte. -/
def emaxOf : Nat → Int
  | 3 => 8 | 4 => 15 | 5 => 4 | 6 => 2 | 7 => 2 | _ => 0

/-- Largest magnitude of an element type, implicit factor included: significand and exponent. -/
def elemMax (t : Nat) : Nat × Int :=
  match fmtOf t with
  | some f => f.maxFin
  | none => (2 ^ (widthOf t - 1) - 1, implicitExp t)

def e8m0Scale (t : Nat) (amax : Nat × Int) : Nat :=
  if amax.1 = 0 then 0
  else
    let e := (ilog2 amax.1 : Int) + amax.2 - emaxOf t
    (max (-127) (min 127 e) + 127).toNat

/-- R131: the smallest UE4M3 value not below amax / largest element, capped at 448. -/
def ue4m3Scale (t : Nat) (amax : Nat × Int) : Nat :=
  if amax.1 = 0 then 0
  else
    let mx := elemMax t
    ((List.range 0x7F).find? (fun x =>
      match e4m3.decode x with
      | .fin _ m e => leExp amax.1 amax.2 (m * mx.1) (e + mx.2)
      | _ => false)).getD 0x7E

/-- Magnitude comparison of finite values, for amax. -/
def maxMag (a b : Nat × Int) : Nat × Int := if leExp a.1 a.2 b.1 b.2 then b else a

/-- R131: amax of a block of exact values. -/
def amaxOf (t : Nat) (vs : List Num) : Nat × Int :=
  let fins := vs.foldl (fun acc v => match v with | .fin _ m e => maxMag acc (m, e) | _ => acc) (0, 0)
  if fins.1 = 0 && vs.any (fun v => match v with | .inf _ => true | _ => false) then elemMax t else fins

def isNaN : Num → Bool
  | .nan => true
  | _ => false

def isZero : Num → Bool
  | .fin _ 0 _ => true
  | _ => false

def isFinite : Num → Bool
  | .fin _ _ _ => true
  | _ => false

/-- `x < y` on values that are not NaN. -/
def numLt : Num → Num → Bool
  | .nan, _ => false
  | _, .nan => false
  | .inf s, .inf t => s && !t
  | .inf s, .fin _ _ _ => s
  | .fin _ _ _, .inf t => !t
  | .fin s m e, .fin t n g =>
    let q := min e g
    let a : Int := (if s then -1 else 1) * (m * 2 ^ (e - q).toNat : Nat)
    let b : Int := (if t then -1 else 1) * (n * 2 ^ (g - q).toNat : Nat)
    decide (a < b)

def numEq (x y : Num) : Bool := !isNaN x && !isNaN y && !numLt x y && !numLt y x

/-- The sign of a value; a NaN has none to show. -/
def numSign : Num → Bool
  | .nan => false
  | .inf s => s
  | .fin s _ _ => s

/-- The sign bit of an element code. -/
def codeSign (t code : Nat) : Bool := bitOf code (widthOf t - 1)

/-- R118: the product of two elements with these sign bits: a zero factor gives a zero of the exclusive OR of the signs, even
when the other is a NaN, whose sign its encoding holds. -/
def signedProduct (sx sy : Bool) (x y : Num) : Num := if isZero x || isZero y then .fin (sx != sy) 0 0 else product x y

def numNeg : Num → Num
  | .nan => .nan
  | .inf s => .inf (!s)
  | .fin s m e => .fin (!s) m e

def numAbs : Num → Num
  | .nan => .nan
  | .inf _ => .inf false
  | .fin _ m e => .fin false m e

def posZero : Num := .fin false 0 0
def negZero : Num := .fin true 0 0
def numOne : Num := .fin false 1 0

/-- A finite value as an exact integer multiple of `2^q`. -/
def toInt (q : Int) : Num → Int
  | .fin s m e => (if s then -1 else 1) * (m * 2 ^ (e - q).toNat : Nat)
  | _ => 0

end Sys2Proof.Machine
end

