-- ==== Sys2Proof/Machine/Sparse.lean ====
section
/-! DEFINITION. Operand descriptors, line layouts, masks, skip maps and flits (R81-R95, R112-R115, R136-R151). A line is
held decoded: the present positions with their element codes, in ascending order. -/

namespace Sys2Proof.Machine

/-- An operand descriptor (R93). -/
structure Desc where
  source : Nat
  encoding : Nat
  etype : Nat
  scaleType : Nat
  blockSize : Nat
  share : Nat
  skipMap : Bool
  nmN : Nat
  nmM : Nat
  base : Nat
  kLen : Nat
  count : Nat
  pitch : Nat
  scaleOff : Nat
  skipOff : Nat
  deriving DecidableEq, Repr

/-- R93: the fields of the four words. -/
def Desc.ofWords (w0 w1 w2 w3 : Nat) : Desc :=
  { source := field w0 31 28
    encoding := field w0 27 24
    etype := field w0 23 20
    scaleType := field w0 19 18
    blockSize := 8 <<< field w0 17 15
    share := field w0 14 13
    skipMap := bitOf w0 12
    nmN := field w0 11 8
    nmM := 4 <<< field w0 7 6
    base := w1 % 2 ^ 32
    kLen := field w2 31 20
    count := field w2 19 16
    pitch := field w2 15 0
    scaleOff := field w3 31 16
    skipOff := field w3 15 0 }

/-- One line: present positions and element codes. -/
abbrev Line := List (Nat × Nat)

/-- An operand after staging (R81, R82). -/
structure Staged where
  desc : Desc
  lines : List Line
  scales : List Nat      -- scale bytes in index order (R114)
  skip : List Nat        -- map byte of each line group (R144); empty without a map
  deriving DecidableEq, Repr

/-- Element `i` of a packed stream starting at byte `b` (R112). -/
def elemAt (rd : Nat → Nat) (w b i : Nat) : Nat :=
  let bit := i * w
  let lo := b + bit / 8
  (((rd lo + 256 * rd (lo + 1) + 65536 * rd (lo + 2) + 16777216 * rd (lo + 3) + 4294967296 * rd (lo + 4)) >>> (bit % 8))
    % 2 ^ w)

def rd16 (rd : Nat → Nat) (a : Nat) : Nat := rd a + 256 * rd (a + 1)
def rd32 (rd : Nat → Nat) (a : Nat) : Nat := rd16 rd a + 65536 * rd16 rd (a + 2)

/-- R144: is the super-block of line `l`, segment `g` marked empty? -/
def skipped (skip : List Nat) (l g : Nat) : Bool := bitOf (skip.getD (l / 8) 0) g

/-- Positions of line `l` that lie in segments not marked empty. -/
def keptPositions (d : Desc) (skip : List Nat) (l : Nat) : List Nat :=
  (List.range d.kLen).filter (fun k => !skipped skip l (k / 512))

/-- Malformed kinds of R146 are `Except.error kind`; success gives the line and its size in bytes. -/
abbrev LineRead := Except Nat (Line × Nat)

/-- R139. -/
def readDense (rd : Nat → Nat) (d : Desc) (skip : List Nat) (l b : Nat) : LineRead :=
  let w := widthOf d.etype
  let ps := keptPositions d skip l
  .ok (ps.zipIdx.map (fun (k, i) => (k, elemAt rd w b i)), round16 (ceilDiv (ps.length * w) 8))

/-- R140, R146 kinds 0x1 and 0x2: blocks of segments marked empty are left out. A line that breaks both is of kind 0x2 (DESIGN CHOICE,
log entry 59). -/
def readBm256 (rd : Nat → Nat) (d : Desc) (skip : List Nat) (l b : Nat) : LineRead :=
  let w := widthOf d.etype
  let blocks := (List.range (ceilDiv d.kLen 256)).filter (fun k => !skipped skip l (k / 2))
  let bit (j i : Nat) : Bool := bitOf (rd (b + 32 * j + i / 8)) (i % 8)
  let pos := blocks.zipIdx.flatMap (fun (blk, j) =>
    ((List.range 256).filter (fun i => bit j i)).map (fun i => 256 * blk + i))
  if pos.any (fun k => d.kLen ≤ k) then .error 2
  else
    let vb := 32 * blocks.length
    let size := vb + round16 (ceilDiv (pos.length * w) 8)
    if d.pitch ≠ 0 ∧ 16 * d.pitch < vb + ceilDiv (pos.length * w) 8 then .error 1
    else .ok (pos.zipIdx.map (fun (k, i) => (k, elemAt rd w (b + vb) i)), size)

def ascending : List Nat → Bool
  | x :: y :: rest => decide (x < y) && ascending (y :: rest)
  | _ => true

/-- R141, kind 0x3. -/
def readNm (rd : Nat → Nat) (d : Desc) (skip : List Nat) (l b : Nat) : LineRead :=
  let w := widthOf d.etype
  let groups := (List.range (d.kLen / d.nmM)).filter (fun g => !skipped skip l (g * d.nmM / 512))
  let n := groups.length * d.nmN
  let nib (j : Nat) : Nat := elemAt rd 4 b j
  let bad := (List.range groups.length).any (fun g =>
    let ns := (List.range d.nmN).map (fun j => nib (g * d.nmN + j))
    !ascending ns || ns.any (fun x => d.nmM ≤ x))
  if bad then .error 3
  else
    let vb := round16 (ceilDiv n 2)
    let pos := groups.zipIdx.flatMap (fun (g, i) => (List.range d.nmN).map (fun j => g * d.nmM + nib (i * d.nmN + j)))
    .ok (pos.zipIdx.map (fun (k, i) => (k, elemAt rd w (b + vb) i)), vb + round16 (ceilDiv (n * w) 8))

/-- R142, kind 0x4. -/
def readIndexList (rd : Nat → Nat) (d : Desc) (b : Nat) : LineRead :=
  let w := widthOf d.etype
  let c := rd16 rd b
  let vb := round16 (2 + 2 * c)
  if d.kLen < c ∨ (d.pitch ≠ 0 ∧ 16 * d.pitch < vb + ceilDiv (c * w) 8) then .error 4
  else
    let pos := (List.range c).map (fun j => rd16 rd (b + 2 + 2 * j))
    if !ascending pos || pos.any (fun k => d.kLen ≤ k) then .error 4
    else .ok (pos.zipIdx.map (fun (k, i) => (k, elemAt rd w (b + vb) i)), vb + round16 (ceilDiv (c * w) 8))

/-- R143, kind 0x4. -/
def readDelta (rd : Nat → Nat) (d : Desc) (b : Nat) : LineRead :=
  let hdr := rd32 rd b
  let c := hdr % 65536
  if hdr / 65536 ≠ 0 ∨ d.kLen < c ∨ (d.pitch ≠ 0 ∧ 16 * d.pitch < 4 + 4 * c) then .error 4
  else
    let ents := (List.range c).map (fun j => rd32 rd (b + 4 + 4 * j))
    let pos := ents.map (· % 65536)
    if !ascending pos || pos.any (fun k => d.kLen ≤ k) then .error 4
    else .ok (ents.map (fun e => (e % 65536, (e / 65536) % 2 ^ widthOf d.etype)), round16 (4 + 4 * c))

def readLine (rd : Nat → Nat) (d : Desc) (skip : List Nat) (l b : Nat) : LineRead :=
  match d.encoding with
  | 0 => readDense rd d skip l b
  | 1 => readBm256 rd d skip l b
  | 2 => readNm rd d skip l b
  | 3 => readIndexList rd d b
  | _ => readDelta rd d b

/-- Do lines of this encoding have a size that depends on their data (R146)? -/
def dataSized (enc : Nat) : Bool := enc == 1 || enc == 3 || enc == 4

/-- The bytes of line `l` as its masks, index list or count give them (R139-R145), a line whose count is beyond k_len taken
as the word that holds the count; no line goes beyond a pitch that is not zero. -/
def lineBytes (rd : Nat → Nat) (d : Desc) (skip : List Nat) (l b : Nat) : Nat :=
  let w := widthOf d.etype
  let size := match d.encoding with
    | 0 => round16 (ceilDiv ((keptPositions d skip l).length * w) 8)
    | 1 =>
      let vb := 32 * ((List.range (ceilDiv d.kLen 256)).filter (fun k => !skipped skip l (k / 2))).length
      vb + round16 (ceilDiv (((List.range vb).foldl (fun a i => a + popcount 8 (rd (b + i))) 0) * w) 8)
    | 2 =>
      let n := ((List.range (d.kLen / d.nmM)).filter (fun g => !skipped skip l (g * d.nmM / 512))).length * d.nmN
      round16 (ceilDiv n 2) + round16 (ceilDiv (n * w) 8)
    | 3 =>
      let c := rd16 rd b
      if d.kLen < c then 16 else round16 (2 + 2 * c) + round16 (ceilDiv (c * w) 8)
    | _ =>
      let c := rd16 rd b
      if d.kLen < c then 16 else round16 (4 + 4 * c)
  if d.pitch = 0 then size else min size (16 * d.pitch)

/-- Where the line after line `l` starts. -/
def nextLine (rd : Nat → Nat) (d : Desc) (skip : List Nat) (l b : Nat) : Nat :=
  b + if d.pitch = 0 then lineBytes rd d skip l b else 16 * d.pitch

/-- R146: does a malformed line hide where the later lines start? -/
def losesRest (d : Desc) : Bool := d.pitch == 0 && dataSized d.encoding

/-- The lines of an operand in order, from byte `b` of line `l`, and the malformed ones: kind and first byte (R146). -/
def readLines (rd : Nat → Nat) (d : Desc) (skip : List Nat) : Nat → Nat → Nat → List Line × List (Nat × Nat)
  | 0, _, _ => ([], [])
  | n + 1, l, b =>
    match readLine rd d skip l b with
    | .ok (line, _) =>
      let (ls, ks) := readLines rd d skip n (l + 1) (nextLine rd d skip l b)
      (line :: ls, ks)
    | .error k =>
      if losesRest d then (List.replicate (n + 1) [], [(k, b)])
      else
        let (ls, ks) := readLines rd d skip n (l + 1) (nextLine rd d skip l b)
        ([] :: ls, (k, b) :: ks)

/-- The 16-byte words of bytes `[b, b + n)`; `b` is a multiple of 16. -/
def wordsIn (b n : Nat) : List Nat := (List.range (ceilDiv n 16)).map (b / 16 + ·)

/-- The words that the lines take, in order, as far as the words at hand (`known`) tell: after a line that is not yet all at
hand, where the next one starts is open. -/
def lineWords (known : Nat → Bool) (rd : Nat → Nat) (d : Desc) (skip : List Nat) : Nat → Nat → Nat → List Nat
  | 0, _, _ => []
  | n + 1, l, b =>
    let ws := wordsIn b (lineBytes rd d skip l b)
    let rest := lineWords known rd d skip n (l + 1) (nextLine rd d skip l b)
    if !ws.all known then ws
    else match readLine rd d skip l b with
      | .ok _ => ws ++ rest
      | .error _ => if losesRest d then ws else ws ++ rest

/-- R144, kind 0x7: a map bit for a line group or segment the operand does not have. -/
def skipBad (d : Desc) (bytes : List Nat) : Bool :=
  bytes.zipIdx.any (fun (x, h) =>
    if d.count / 8 < h then x ≠ 0 else decide (2 ^ ceilDiv d.kLen 512 ≤ x))

/-- R114: the number of scale bytes. -/
def scaleCount (d : Desc) (nlines : Nat) : Nat :=
  if d.scaleType = 0 then 0
  else match d.share with
    | 0 => nlines * ceilDiv d.kLen d.blockSize
    | 1 => ceilDiv nlines d.blockSize
    | 2 => ceilDiv nlines 16 * ceilDiv d.kLen 16
    | _ => ceilDiv nlines 32 * ceilDiv d.kLen 32

/-- R114: the index of the scale that applies to line `l`, position `k`. -/
def scaleIndex (d : Desc) (l k : Nat) : Nat :=
  match d.share with
  | 0 => l * ceilDiv d.kLen d.blockSize + k / d.blockSize
  | 1 => l / d.blockSize
  | 2 => l / 16 * ceilDiv d.kLen 16 + k / 16
  | _ => l / 32 * ceilDiv d.kLen 32 + k / 32

/-- R144: the bytes of the block-skip map; none without a map. -/
def mapBytes (rd : Nat → Nat) (d : Desc) : List Nat :=
  if d.skipMap then (List.range 16).map (fun i => rd (d.base + 16 * d.skipOff + i)) else []

/-- Stage a whole operand from memory (R82, R146): what is staged, and the malformed lines or map: kind and first byte. -/
def stageOperand (rd : Nat → Nat) (d : Desc) : Staged × List (Nat × Nat) :=
  let n := d.count + 1
  let skip := mapBytes rd d
  let scales := (List.range (scaleCount d n)).map (fun i => rd (d.base + 16 * d.scaleOff + i))
  if d.skipMap && skipBad d skip then (⟨d, List.replicate n [], scales, skip⟩, [(7, d.base + 16 * d.skipOff)])
  else
    let (ls, ks) := readLines rd d skip n 0 d.base
    (⟨d, ls, scales, skip⟩, ks)

/-- R82: the words an operand takes of its source, in the order they are read, as far as the words at hand tell: the
block-skip map, the lines, the scales. A malformed map leaves no line to read (R146). -/
def operandWords (known : Nat → Bool) (rd : Nat → Nat) (d : Desc) : List Nat :=
  let n := d.count + 1
  let m := if d.skipMap then [d.base / 16 + d.skipOff] else []
  let skip := mapBytes rd d
  let scales := wordsIn (d.base + 16 * d.scaleOff) (scaleCount d n)
  if !m.all known then m
  else if d.skipMap && skipBad d skip then m
  else
    let ls := lineWords known rd d skip n 0 d.base
    if ls.all known then m ++ ls ++ scales else m ++ ls

/-- Byte `a` of a source of which these words have been read. -/
def byteIn (ws : Assoc Nat Word) (a : Nat) : Nat := field (ws.get 0 (a / 16)).toNat (8 * (a % 16) + 7) (8 * (a % 16))

/-- The next word the loader reads, if any is left. -/
def nextWord (ws : Assoc Nat Word) (d : Desc) : Option Nat :=
  let known (w : Nat) : Bool := (ws.find? w).isSome
  (operandWords known (byteIn ws) d).find? (fun w => !known w)

/-- R145: the worst-case size of an operand in bytes, from its descriptor. -/
def worstSize (d : Desc) : Nat :=
  let w := widthOf d.etype
  let lmax := match d.encoding with
    | 0 => round16 (ceilDiv (d.kLen * w) 8)
    | 1 => 32 * ceilDiv d.kLen 256 + round16 (ceilDiv (d.kLen * w) 8)
    | 2 => round16 (ceilDiv (d.kLen * d.nmN) (2 * d.nmM)) + round16 (ceilDiv (d.kLen * d.nmN * w) (8 * d.nmM))
    | 3 => round16 (2 + 2 * d.kLen) + round16 (ceilDiv (d.kLen * w) 8)
    | _ => round16 (4 + 4 * d.kLen)
  let s := if d.pitch ≠ 0 then 16 * d.pitch else lmax
  d.count * s + min s lmax + round16 (scaleCount d (d.count + 1)) + (if d.skipMap then 16 else 0)

/-- The scale byte of an element, or the identity code of type none. -/
def Staged.scaleAt (s : Staged) (l k : Nat) : Num :=
  if s.desc.scaleType = 0 then numOne
  else scaleVal s.desc.scaleType (s.scales.getD (scaleIndex s.desc l k) 0)

/-- R113, R118: the element value before its scale; a UE4M3 scale of zero makes it a zero of its own sign, and a NaN
scale leaves it to the scale multiplication. -/
def Staged.valAt (s : Staged) (l k code : Nat) : Num :=
  let v := elemVal s.desc.etype (s.desc.scaleType ≠ 0) code
  if s.desc.scaleType = 2 && isZero (s.scaleAt l k) then
    match v with
    | .fin n _ _ => .fin n 0 0
    | .inf n => .fin n 0 0
    | .nan => .fin (bitOf code (widthOf s.desc.etype - 1)) 0 0
  else v

/-- The scaled value of an element, exact: what a vector pass converts (R130, R113). -/
def Staged.scaledVal (s : Staged) (l k code : Nat) : Num :=
  match s.scaleAt l k, s.valAt l k code with
  | .nan, _ => .nan
  | .inf _, _ => .nan
  | _, .nan => .nan
  | _, .inf n => .inf n
  | .fin _ m e, .fin n a b => .fin n (a * m) (b + e)

/-- R80: MAC lanes by the wider element type. -/
def macLanes (ta tb : Nat) : Nat :=
  let w := max (widthOf ta) (widthOf tb)
  if 16 ≤ w then 32 else if 6 ≤ w then 64 else 128

/-- R117: integer class, INT8 or INT4 without a scale. -/
def intClass (d : Desc) : Bool := isIntType d.etype && d.scaleType == 0

/-- R117: a legal STE pair. -/
def legalPair (a b : Desc) : Bool :=
  let ok (d : Desc) : Bool := decide (1 ≤ d.etype ∧ d.etype ≤ 9)
  ok a && ok b && (intClass a == intClass b)

/-- R119 step 1: the partition width. -/
def partitionWidth (a b : Desc) : Nat :=
  let one (d : Desc) : Nat :=
    if d.scaleType = 0 then 32
    else if d.share = 0 ∧ d.blockSize < 32 then d.blockSize
    else if d.share = 2 then 16
    else 32
  min (one a) (one b)

/-- R85: does either operand carry K-direction scales? -/
def kScaled (a b : Desc) : Bool :=
  (decide (a.scaleType ≠ 0) && a.share != 1) || (decide (b.scaleType ≠ 0) && b.share != 1)

/-- R148: the flits of one BM256 line, as (mask, values, window length). -/
def bitmapFlits (cap n : Nat) (line : Line) : Nat → Nat → List (Nat × List Nat × Nat)
  | 0, _ => []
  | fuel + 1, p =>
    if n ≤ p then []
    else
      let win := min 32 (n - p)
      let inWin := line.filter (fun (k, _) => p ≤ k && k < p + win)
      if inWin.length < cap then
        (inWin.foldl (fun m (k, _) => m + 2 ^ (k - p)) 0, inWin.map Prod.snd, win) :: bitmapFlits cap n line fuel (p + win)
      else
        let sel := inWin.take cap
        let e := (sel.map Prod.fst).foldl max 0
        (sel.foldl (fun m (k, _) => m + 2 ^ (k - p)) 0, sel.map Prod.snd, e + 1 - p)
          :: bitmapFlits cap n line fuel (e + 1)

def flitCap (t : Nat) : Nat := if widthOf t = 16 then 14 else 28

/-- R147: the payload of a bitmap flit. -/
def bitmapPayload (t mask : Nat) (vals : List Nat) : Payload :=
  let w := widthOf t
  BitVec.ofNat 256 (mask + vals.zipIdx.foldl (fun acc (v, j) => acc + v * 2 ^ (w * j + 32)) 0)

/-- R147, R148: the payloads of a dense line: the packed stream of R112, 256 bits to a flit. -/
def densePayloads (t : Nat) (vals : List Nat) : List Payload :=
  let x := vals.zipIdx.foldl (fun acc (v, j) => acc + v * 2 ^ (widthOf t * j)) 0
  (List.range (ceilDiv (vals.length * widthOf t) 256)).map (fun i => BitVec.ofNat 256 (x / 2 ^ (256 * i)))

/-- R148, R146 kind 0x5: read a bitmap flit at position `p` of a line of `n`: entries, next position, malformed. -/
def readBitmapFlit (t n p : Nat) (pay : Payload) : Line × Nat × Bool :=
  let w := widthOf t
  let x := pay.toNat
  let mask := x % 2 ^ 32
  let cap := flitCap t
  let left := n - p
  let c := popcount 32 mask
  let win := min 32 left
  if cap < c ∨ 2 ^ left ≤ mask then ([], p + win, true)
  else
    let ps := (List.range 32).filter (fun i => bitOf mask i)
    let line := ps.zipIdx.map (fun (i, j) => (p + i, field x (w * j + 32 + w - 1) (w * j + 32)))
    if c = cap then (line, p + (ps.foldl max 0) + 1, false) else (line, p + win, false)

/-- R147: read a dense flit at position `p` of a line of `n`. The packed stream of R112 runs on from flit to flit: `carry`
holds the bits of an element that the flit before began. Result: entries, next position, bits carried on. -/
def readDenseFlit (t n p carry : Nat) (pay : Payload) : Line × Nat × Nat :=
  let w := widthOf t
  let held := 256 * ceilDiv (p * w) 256 - p * w
  let x := carry + pay.toNat * 2 ^ held
  let c := min ((256 + held) / w) (n - p)
  ((List.range c).map (fun i => (p + i, field x (w * i + w - 1) (w * i))), p + c, if n ≤ p + c then 0 else x / 2 ^ (w * c))

/-- Bytes of a packed stream of element codes (R112), padded to 16 bytes. -/
def packElems (w : Nat) (vals : List Nat) : List Byte :=
  leBytes (round16 (ceilDiv (vals.length * w) 8)) (vals.zipIdx.foldl (fun acc (v, j) => acc + v * 2 ^ (w * j)) 0)

/-- R140: the bytes of a BM256 line, or kind 0x6 when the pitch is too small for it. -/
def writeBm256 (d : Desc) (line : Line) : Except Nat (List Byte) :=
  let w := widthOf d.etype
  let blocks := ceilDiv d.kLen 256
  let mask := line.foldl (fun m (k, _) => m + 2 ^ k) 0
  let bytes := leBytes (32 * blocks) mask ++ packElems w (line.map Prod.snd)
  if d.pitch ≠ 0 ∧ 16 * d.pitch < 32 * blocks + ceilDiv (line.length * w) 8 then .error 6 else .ok bytes

end Sys2Proof.Machine
end

