-- ==== Sys2Proof/Machine/StateCu.lean ====
section
/-! DEFINITION. The state of one compute unit beside its registers (03_compute_unit.md, 07, 08, 09). A CU that is not
listed is in `Cu.reset`. -/

namespace Sys2Proof.Machine

/-- A slot that starts work in a queue (R91, R101, R105, R212). -/
inductive SlotJob
  | tensor (drain clear : Bool) (op : TensorOp)
  | vector (op : VecOp)
  | dma (d ss sd : Nat)
  | spin (link d r : Nat)
  | agstart (g d r : Nat)
  deriving DecidableEq, Repr

/-- Why the sequencer does not issue (R69-R74, R105). `inBundle`: the bundle at `next` has not issued and issues on
release (R73: its slots issue together); otherwise the stall came from a single-slot command. -/
inductive Stall
  | none
  | engine                                   -- R73: the bundle at `next` waits for a queue
  | slot (j : SlotJob)                       -- R73: a single-slot command waits for its queue
  | hold (upto : Nat)                        -- R70: first cycle that may issue
  | launch (value : Nat) (inBundle : Bool)   -- R74
  | wait (k n : Nat) (ge : Bool) (inBundle : Bool)   -- R105
  deriving DecidableEq, Repr

/-- The scalar sequencer (R69-R76). -/
structure Seq where
  next : Nat                 -- bundle to issue
  last : Nat                 -- bundle last issued (CU_LANE_PC)
  sregs : List (BitVec 32)   -- s0-s15
  loops : List (Nat × Nat)   -- innermost first: first body bundle, iterations left
  pred : Bool
  ready : Nat                -- first cycle in which the next bundle may issue (R69)
  stall : Stall
  ended : Bool               -- the stitch-end marker has issued
  retired : Bool             -- it has retired (R32)
  overrun : Bool             -- halted at W (R36)
  stopped : Bool             -- a fetch found an uncorrectable word (R76)
  sig : BitVec 32            -- running stitch signature (R405)
  deriving DecidableEq, Repr

/-- A payload with its pair tag (R186, R210). -/
structure Flit where
  data : Payload
  tag : Nat
  deriving DecidableEq, Repr

/-- How far a stage loader has come with one operand (R82). -/
structure Loading where
  moved : Nat              -- transfers, or flits of a link source
  words : Assoc Nat Word   -- memory source: words read so far, by their number in the source
  lines : List Line        -- link source: lines complete so far
  cur : Line               -- link source: the line in progress
  pos : Nat                -- link source: its next position
  carry : Nat              -- link source: bits of an element begun in the last dense flit (R147)
  bad : Bool               -- a flit of that line was malformed
  ready : Nat              -- cycle from which the operand is staged
  deriving DecidableEq, Repr

def Loading.start : Loading := ⟨0, [], [], [], 0, 0, false, 0⟩

/-- A tensor instruction in the STE queue or running; bases include the scalar offsets (R91). -/
structure SteJob where
  drain : Bool
  op : TensorOp
  clear : Bool           -- MM
  a : Desc
  b : Desc
  d : Desc
  stA : Option Staged
  stB : Option Staged
  ldA : Loading
  ldB : Loading
  no : Nat               -- issue number in the CU
  deriving DecidableEq, Repr

/-- The match unit at work on one output (R84). -/
structure SteRun where
  job : SteJob
  i : Nat
  j : Nat
  seg : Nat              -- next segment to scan
  backlog : Nat
  scanned : Nat
  matched : Nat
  cycles : Nat
  deriving DecidableEq, Repr

/-- A result on its way to its accumulator entry (R85). -/
structure SteResult where
  tile : Nat
  i : Nat
  j : Nat
  isInt : Bool
  sums : List Num        -- group sums in ascending g (R119)
  total : Int            -- integer sum (R124)
  sat : Bool
  flags : FlagSet
  due : Nat
  lastOf : Bool          -- the instruction's last output
  job : SteJob
  deriving DecidableEq, Repr

/-- One accumulator or checksum entry (R89, R120, R124). -/
structure Acc where
  num : Num
  int : BitVec 64
  sat : Bool             -- overflow bit of the last instruction that accumulated onto it
  reach : Nat            -- cycle its last contribution reached it (R86)
  deriving DecidableEq, Repr

def Acc.clear : Acc := ⟨.fin true 0 0, 0, false, 0⟩

/-- A comparison under way (R97): the cycle it ends, the shape and the cells it compares, and the instruction that last
started on the tile when the closing acted. -/
structure Closing where
  due : Nat
  isInt : Bool
  m : Nat
  n : Nat
  cells : Assoc Nat Acc
  no : Nat
  deriving DecidableEq, Repr

/-- An accumulator tile (R89). Cells: entry (i, j) at 16 i + j, checksum row j at 256 + j, checksum column i at 272 + i.
`before`: cells as they were before a later instruction reached them, while a closing instruction's results are in flight. -/
structure Tile where
  isInt : Bool
  isOpen : Bool
  used : Bool            -- an MM has named it, so that it counts as closed once it closes
  m : Nat
  n : Nat
  cells : Assoc Nat Acc
  before : Assoc Nat Acc
  closings : List Closing
  closeLast : Nat        -- cycle the last result reached the tile
  lastNo : Nat           -- issue number of the instruction that last started on it
  deriving DecidableEq, Repr

def Tile.reset : Tile := ⟨false, false, false, 0, 0, [], [], [], 0, 0⟩

/-- The sparse tensor engine. `outq` holds flits of a DRAIN to a link with the link. -/
structure Ste where
  queue : List SteJob
  run : Option SteRun
  lastB : Option Staged
  results : List SteResult
  tile0 : Tile
  tile1 : Tile
  lfsr : BitVec 16
  lfsr0 : BitVec 16      -- at cycle 0 (R42)
  outq : List (Nat × Flit)
  loadA : Nat            -- 1 + the cycle in which the loader of A last moved (R82, R149); 0: not since cycle 0
  loadB : Nat
  deriving DecidableEq, Repr

/-- A vector pass. `c0`, `c1` are the constants as it starts to issue (R101). -/
structure VecJob where
  op : VecOp
  x : Desc
  y : Desc
  d : Desc
  no : Nat
  deriving DecidableEq, Repr

/-- A vector pass at work (R100). -/
structure VecRun where
  job : VecJob
  pos : Nat              -- elements issued
  c0 : Num
  c1 : Num
  xbuf : Loading         -- link inputs
  ybuf : Loading
  deriving DecidableEq, Repr

/-- A group of elements in the pipeline (R100). -/
structure VecGroup where
  job : VecJob
  first : Nat            -- index of its first element
  vals : List Num
  due : Nat
  final : Bool
  deriving DecidableEq, Repr

/-- The writer behind the pack stage: the line being assembled and the reduction in progress. -/
structure VecOut where
  line : Nat
  vals : List Num        -- scaled destination: values of the line so far
  codes : List (Nat × Bool)   -- unscaled destination: converted elements of the line so far, and whether each is kept
  addr : Nat             -- start of the line
  acc : Option Num       -- reduction
  flits : Nat            -- link destination: flits of the line that have been formed
  deriving DecidableEq, Repr

def VecOut.start : VecOut := ⟨0, [], [], 0, none, 0⟩

structure Vec where
  queue : List VecJob
  run : Option VecRun
  groups : List VecGroup
  out : VecOut
  lfsr : BitVec 16
  lfsr0 : BitVec 16
  outq : List (Nat × Flit)
  deriving DecidableEq, Repr

/-- A DMA transfer (R103, R104). `todo`: requests not yet injected; `open_`: tag, place of read data, endpoint. -/
structure Xfer where
  src : Nat
  dst : Nat
  units : Nat
  counter : Nat
  signal : Bool
  todo : List MeshPacket
  slots : List (Nat × Nat × Nat)   -- tag, device address of the data, destination endpoint
  err : Bool
  moved : Bool                     -- every byte of a local transfer has moved
  ready : Nat                      -- cycle from which the part that moves locally is over
  deriving DecidableEq, Repr

structure Dma where
  queue : List Xfer
  active : List Xfer
  deriving DecidableEq, Repr

/-- The changes of a counter of the active bank in one cycle (R106): the cycle from which they are seen, the value before
them, their sum. -/
structure SyncChange where
  counter : Nat
  from_ : Nat
  old : Nat
  sum : Int
  deriving DecidableEq, Repr

/-- Core-class counters (R106, R280, R281). Keys are 32 x context + counter. -/
structure Sync where
  banks : Assoc Nat Nat
  recent : List SyncChange          -- not yet seen, oldest first
  snap : Assoc Nat Nat              -- active bank at cycle 0
  deriving DecidableEq, Repr

/-- A setting that changes from a given cycle on (R212). -/
structure Switched where
  old : Nat
  new : Nat
  since : Nat
  deriving DecidableEq, Repr

def Switched.at (s : Switched) (t : Nat) : Nat := if s.since ≤ t then s.new else s.old
def Switched.zero : Switched := ⟨0, 0, 0⟩

/-- The steering unit (R187-R190). `local_`: the place of each link at the local output. -/
structure Steer where
  toks : List (BitVec 64)
  dats : List (Nat × Flit)
  sent : Nat
  tWait : Nat
  dWait : Nat
  faulted : Bool
  places : Assoc Nat Flit
  deriving DecidableEq, Repr

/-- A SPIN in its link's queue (R213). -/
structure SpinJob where
  desc : Desc
  line : Nat
  part : Nat
  deriving DecidableEq, Repr

/-- The CU's end of the neighbour fabric. Per link 0-3: inbound queue with the cycle from which each payload is in it,
the cycle of the last departures and their number, seam buffer with the earliest exit cycle of each
payload, SPIN queue; per outbound link: credits spent, seam credits returning, with the cycle they count from, and 1 + the
cycle of the last departure (R149; 0: none since cycle 0). `ptr`: the arbiters of R216, producers of link l at l, consumers of link l
at 4 + l. `hurt`: inbound links whose head has been found to be in error (R211). `stallAt`: 1 + the last cycle that CU_LINK_STALL has
counted. -/
structure Fab where
  entry : Switched
  tag : Switched
  inq : Assoc Nat (List (Flit × Nat))
  popped : Assoc Nat (Nat × Nat)
  seam : Assoc Nat (List (Flit × Nat))
  spins : Assoc Nat (List SpinJob)
  spent : Assoc Nat Nat
  returning : Assoc Nat (List Nat)
  sentAt : Assoc Nat Nat
  ptr : Assoc Nat Nat
  hurt : List Nat
  stallAt : Nat
  deriving DecidableEq, Repr

/-- A SEND on its channel (R258). -/
structure SendJob where
  units : Nat
  body : Nat             -- scratchpad byte
  seq : Nat
  deriving DecidableEq, Repr

structure Chan where
  queue : List SendJob   -- the head may be in flight
  count : Nat            -- SENDs queued since cycle 0 (R259)
  flying : Bool
  injected : Nat         -- units of the head injected so far
  retries : Nat
  retryAt : Option Nat   -- ns at which the message is sent again
  deriving DecidableEq, Repr

def Chan.reset : Chan := ⟨[], 0, false, 0, 0, none⟩

/-- A receive ring (R262): bytes in units of 16; `held` oldest first: length, pad. -/
structure Ring where
  wp : Nat
  held : List (Nat × Bool)
  deriving DecidableEq, Repr

def Ring.reset : Ring := ⟨0, []⟩

/-- A receive tracker (R261). -/
structure Tracker where
  src : Nat
  chan : Nat
  ring : Nat
  status : Nat           -- 0 placed; 3, 4, 5 the NACK
  offset : Nat           -- place in the ring, in units
  units : Nat
  got : List Nat         -- offsets of the parts that have arrived
  left : Nat             -- units still to come
  unheld : Bool          -- of a message that found all 16 trackers busy: none of the 16
  deriving DecidableEq, Repr

structure Msg where
  chans : Assoc Nat Chan
  rings : Assoc Nat Ring
  trackers : List Tracker
  out : List MsgPart     -- parts read, waiting for injection
  deriving DecidableEq, Repr

/-- The scratchpad arbiters (R79): pointers per bank; per bank and unscheduled requester (0 DMA engine, 1 message delivery,
2 remote write) the cycles its request has waited and that request; the words on their way to a requester with the cycle each
returns; the cycle in which a bank is still taken by a read-modify-write (R78). -/
structure SpArb where
  ptrS : Assoc Nat Nat
  ptrU : Assoc Nat Nat
  waits : Assoc (Nat × Nat) (Nat × SpReq)
  out : Assoc Nat (List (Word × Nat))
  taken : Assoc Nat Nat
  deriving DecidableEq, Repr

structure Cu where
  seq : Seq
  ste : Ste
  vec : Vec
  dma : Dma
  sync : Sync
  steer : Steer
  fab : Fab
  msg : Msg
  sp : SpArb
  issues : Nat           -- issue numbers given so far
  seeded : Bool          -- CU_SR_SEED was written and waits for cycle 0
  deriving DecidableEq, Repr

/-- R69: the sequencer as a work window starts. -/
def Seq.start : Seq :=
  ⟨0, 0, List.replicate 16 0, [], true, 0, .none, false, false, false, false, 0xFFFFFFFF⟩

def Ste.reset : Ste := ⟨[], none, none, [], Tile.reset, Tile.reset, 1, 1, [], 0, 0⟩
def Vec.reset : Vec := ⟨[], none, [], VecOut.start, 1, 1, []⟩
def Dma.reset : Dma := ⟨[], []⟩
def Sync.reset : Sync := ⟨[], [], []⟩
def Steer.reset : Steer := ⟨[], [], 0, 0, 0, false, []⟩
def Fab.reset : Fab := ⟨.zero, .zero, [], [], [], [], [], [], [], [], [], 0⟩
def Msg.reset : Msg := ⟨[], [], [], []⟩
def SpArb.reset : SpArb := ⟨[], [], [], [], []⟩

/-- A CU after a reset of its bay (R108). -/
def Cu.reset : Cu :=
  ⟨Seq.start, Ste.reset, Vec.reset, Dma.reset, Sync.reset, Steer.reset, Fab.reset, Msg.reset, SpArb.reset, 0, false⟩

end Sys2Proof.Machine
end

