-- ==== Sys2Proof/Machine/StateMu.lean ====
section
/-! DEFINITION. The state of one memory unit and one router beside their registers (06_memory_unit.md, 07, 08, 09). -/

namespace Sys2Proof.Machine

/-- A queued AGSTART (R167). -/
structure AgStart where
  cu : Nat               -- CU index in the cluster
  d : Nat
  offset : Nat           -- scalar value, in 16-byte units
  at_ : Nat              -- cycle it was made in
  deriving DecidableEq, Repr

/-- An address-generator descriptor (R168). -/
structure AgDesc where
  op : Nat
  port : Nat
  wide : Bool
  signal : Bool
  sigCu : Nat
  sigCounter : Nat
  base : Nat
  counts : List Nat      -- iterations of dimensions 0-4
  strides : List Int     -- 16-byte units
  idxSrc : Nat
  idxBase : Nat
  deriving DecidableEq, Repr

/-- A running stream (R169-R172). `at_`: iteration numbers of dimensions 0-4. -/
structure AgRun where
  desc : AgDesc
  cu : Nat
  base : Nat
  iter : List Nat
  started : Bool         -- holds its port (R217)
  done : Bool            -- last access issued
  faulted : Bool
  idx : List Nat         -- indices ready for addressing
  incoming : List (Nat × List Nat)   -- index words on their way: cycle usable, indices
  fetched : Nat          -- index words fetched
  moved : Nat            -- accesses issued
  stamp : Nat            -- 1 + the cycle of the last access or index fetch (R169, R170)
  half : Option Word     -- narrow word waiting for its partner, or taken from a payload (R217)
  lastDue : Nat          -- cycle the last read data is at the port
  deriving DecidableEq, Repr

/-- A generator: its start queue and stream; the pointer of R27 over CU indices (R167), the cycle of the last start and the pointer
as that cycle found it. -/
structure Gen where
  queue : List AgStart
  run : Option AgRun
  ptr : Nat
  at_ : Option Nat
  base : Nat
  deriving DecidableEq, Repr

def Gen.reset : Gen := ⟨[], none, 0, none, 0⟩

/-- A fabric port (R217, R218): each payload with the cycle from which it is in its FIFO. `took`, `gave`: 1 + the last cycle in which
payloads left, or entered, and who took or gave them. -/
structure FabPort where
  outq : List (Flit × Nat)
  inq : List (Flit × Nat)
  tag : Switched
  takers : Nat           -- pointers of R27
  givers : Nat
  took : Nat × List Nat
  gave : Nat × List Nat
  deriving DecidableEq, Repr

def FabPort.reset : FabPort := ⟨[], [], .zero, 0, 0, (0, []), (0, [])⟩

/-- What a port presents (R161): the access it has chosen and that is not granted yet, the cycle it chose or last presented it, and
whether it has presented it in that cycle. -/
structure PortShow where
  at_ : Nat
  req : Option MuReq
  tried : Bool
  deriving DecidableEq, Repr

/-- Arbiters of the crossbar (R161-R166). Pointer keys: 10 x slice + (0 wide scheduled, 1 wide unscheduled, 2-5 narrow
scheduled of bank 0-3, 6-9 narrow unscheduled), 80 + CU port for its scheduled requesters. `refused`: per port, refusals of the
narrow access it presents. `dmaWait`: per CU port, cycles its DMA request has waited, the last of them, the request (R162). `out`:
read data on its way to a port, with the cycle it is there. -/
structure MuArb where
  ptr : Assoc Nat Nat
  refused : Assoc Nat Nat
  dmaWait : Assoc Nat (Nat × Nat × MuReq)
  shown : Assoc Nat PortShow
  out : Assoc Nat (List (List Word × Nat))
  deriving DecidableEq, Repr

def MuArb.reset : MuArb := ⟨[], [], [], [], []⟩

/-- Where the dispatch pass stands with its current token. -/
inductive DspPhase
  | idle
  | rows        -- collecting the rows of a token record
  | ranked      -- the list is ready; choices remain
  | filling     -- pass end, unused positions (R204)
  | draining    -- waiting for acknowledgements (R205)
  deriving DecidableEq, Repr

/-- One entry of a defer list (R199): header row and payload rows. -/
structure DeferEntry where
  cand : Nat
  rank : Nat
  slot : Nat
  age : Nat
  score : Nat            -- FP32 bits
  payload : List (List Word)
  deriving DecidableEq, Repr

/-- A pass that has issued its last access and flit, or has faulted, and waits for acknowledgements (R192, R205, R207). -/
structure DspPass where
  id : Nat
  gen : Nat
  unacked : Nat
  dead : Bool            -- faulted: it completes no more
  deriving DecidableEq, Repr

/-- The dispatch stage (R192-R205). `serial`: the number of the running or last pass, counted from cycle 0; `unacked`: packets of the
running pass without an acknowledgement. -/
structure Dsp where
  phase : DspPhase
  gen : Nat
  rows : List (List Word)        -- rows of the current token
  slot : Nat
  ranked : List Nat
  scores : List Nat              -- FP32 bits of candidate i
  payload : List (List Word)
  tokens : Nat
  used : Assoc Nat Nat           -- R197
  recPtr : Assoc Nat Nat         -- records written since cycle 0, per descriptor
  idxPtr : Assoc Nat Nat         -- indices written since cycle 0, per descriptor
  idxBuf : List Nat
  tokPay : List (BitVec 64)
  emitDue : Bool                 -- a token's last choice is resolved (R203)
  deferNew : Assoc Nat Nat       -- entries of the new list, per area
  deferDone : List Nat           -- areas whose committed list has been processed in this stitch
  fillCand : Nat
  fillPos : Nat
  outPkts : List Multicast
  unacked : Nat
  serial : Nat
  closing : List DspPass
  waiting : List Nat             -- generators whose stream waits for the stage
  ptr : Nat                      -- R27 over generators
  faulted : Bool
  deriving DecidableEq, Repr

def Dsp.reset : Dsp :=
  ⟨.idle, 0, [], 0, [], [], [], 0, [], [], [], [], [], false, [], [], 0, 0, [], 0, 0, [], [], 0, false⟩

/-- The stage at cycle 0 and after a void: the last pass's count and descriptor stay to be read (R208). -/
def Dsp.restart (x : Dsp) : Dsp := { Dsp.reset with gen := x.gen, tokens := x.tokens }

/-- Router entry that names pass `n` of the source's dispatch stage as the one an acknowledgement is for. -/
def passEntry (n : Nat) : Nat := 256 + n

/-- What a packet carries as it crosses the mesh. `ack` answers a message to channel `chan` of CU `cu`; a multicast copy
names the router and combine entry its ack goes to (entry 255: an external source, `passEntry n`: pass n of the source's
dispatch stage). -/
inductive Packet
  | request (p : MeshPacket)
  | response (r : MeshResponse)
  | message (m : MsgPart)
  | ack (cu chan status ctx stitchLo : Nat)
  | multicast (m : Multicast) (up entry : Nat)
  | mcAck (dest entry status ctx stitchLo : Nat)
  deriving DecidableEq, Repr

structure Mu where
  gens : Assoc Nat Gen
  ports : Assoc Nat FabPort
  arb : MuArb
  dsp : Dsp
  startPtr : Nat                 -- R217: R27 pointer over the generators whose streams became ready together
  sel : List Nat                 -- words of versioned windows whose selector bit is 1 (R175), ascending
  wr : List Nat                  -- words whose written bit is 1
  dirty : List Nat               -- words whose dirty bit is 1 (R356)
  replies : List Packet          -- answers waiting for injection (R249)
  injPtr : Nat                   -- R249
  deriving DecidableEq, Repr

def Mu.reset : Mu := ⟨[], [], MuArb.reset, Dsp.reset, 0, [], [], [], [], 0⟩

/-- A packet in an input buffer: route fields of its header (R241, R244), its flits that have arrived and left. A multicast that has
been replicated (R252) has the router and combine entry its copies answer to, and by branch the flits that have left; it has
left when every branch has. -/
structure Moving where
  pkt : Packet
  dstX : Nat
  dstY : Nat
  ext : Bool
  order : Bool
  west : Bool
  north : Bool
  got : Nat
  sent : Nat
  bad : Bool             -- discarded by R238: the rest of its flits are dropped as they arrive
  hurt : Bool            -- a body flit of it has an uncorrectable codeword
  mark : Option (Nat × Nat)
  tree : Assoc Nat Nat
  deriving DecidableEq, Repr

/-- An open combine entry (R252): branches outstanding and the largest status so far. -/
structure Combine where
  up : Nat               -- router and entry the combined ack goes to
  upEntry : Nat
  branches : Nat
  status : Nat
  mc : Multicast
  deriving DecidableEq, Repr

/-- A router (R235-R252): packets at its input ports in order of arrival, by 8 x port + 2 x class +
VC; arbiter pointers by 4 x output + class; combine entries by number; packets ejected to the cluster. `stamp`: the ns of the last
flit sent by output 0-5, of the last one injected (6), and of the last addition to RTR_HOLD (7). `waits`: packets of the external endpoint that have not
started (R238). -/
structure Rtr where
  inq : Assoc Nat (List Moving)
  ptr : Assoc Nat Nat
  combine : Assoc Nat Combine
  ejected : List Packet
  stamp : Assoc Nat Nat
  waits : List Packet
  deriving DecidableEq, Repr

def Rtr.reset : Rtr := ⟨[], [], [], [], [], []⟩

end Sys2Proof.Machine
end

