-- ==== Sys2Proof/Machine/StateBay.lean ====
section
/-! DEFINITION. The state of a bay and of a panel beside their registers (02, 08, 10, 14, 15, 16). -/

namespace Sys2Proof.Machine

/-- R372. -/
inductive BayPower
  | off | powering | active | dormant | waking | dark
  deriving DecidableEq, Repr

/-- The ramp governor of a bay (R384-R388). `braces`: BRACEs whose 4 µs has not elapsed: cycle they arm from, level. -/
structure Governor where
  level : Nat
  capMax : Nat
  thermMax : Nat
  sinceRise : Nat
  heldSinceRise : Nat
  issued128 : Nat
  armed : Bool
  braceLevel : Nat
  braces : List (Nat × Nat)
  entryAt : Option Nat   -- cycle from which a late entry arming counts (R388)
  lastRiseTick : Nat     -- upCycles of the last 32-cycle tick
  lastFallTick : Nat     -- and of the last 128-cycle tick
  issuedCycle : Nat      -- STE issue cycles counted in `countCycle`
  countCycle : Nat
  deriving DecidableEq, Repr

def Governor.reset : Governor := ⟨1, 8, 8, 0, 0, 0, false, 0, [], none, 0, 0, 0, 0⟩

/-- A launch entry (R278): state 0 idle, 1 armed, 2 fired, 3 fired late. -/
structure LaunchEntry where
  target : Nat           -- target it is armed with
  armed : Bool
  armedAt : Nat          -- cycle in which it is first tested
  late : Bool            -- its target had passed as it was armed
  state : Nat
  again : Option Nat     -- to be armed again for the replay (R279): its context, or 4 for the next stitch of any kind
  firedAt : Option Nat   -- cycle in which it fired in this stitch
  deriving DecidableEq, Repr

def LaunchEntry.reset : LaunchEntry := ⟨0, false, 0, false, 0, none, none⟩

/-- A bay's vote for the stitch in progress (R37-R39, R45). -/
structure Vote where
  cause : Nat            -- first cause of this stitch; 0 clean
  causeAt : Option Nat   -- cycle in which it arose (R39); none for one charged from the stitch before
  late : Nat             -- first cause detected after the freeze, charged to the next stitch (R38)
  lateAt : Nat           -- cycle in which that arose
  frozen : Bool
  missing : Bool
  lastClean : Bool
  lastCause : Nat
  lateLanes : Nat
  deriving DecidableEq, Repr

def Vote.reset : Vote := ⟨0, none, 0, 0, false, false, false, 0, 0⟩

/-- What a bay holds of staged mode changes (R61): class -> value; and the acknowledgements it has set. -/
structure BayModes where
  grade : Nat
  capFrac : Nat
  stGrade : Option Nat
  stCapFrac : Option Nat
  stNumdef : Option (BitVec 32)
  stPeriod : Option Nat
  stAt : Nat               -- master ns total at which a grade was staged, from which the rail slews (R371)
  wakeAt : Nat             -- grade at which the PLL of a waking bay locks (R374)
  acks : List Nat
  fixedAcks : List Nat     -- acknowledgements as the vote freeze found them (R61)
  nextGrade : Option Nat   -- applied at the last commit, in force from the next cycle 0 (R64)
  nextCap : Option Nat
  nextNumdef : Option (BitVec 32)
  deriving DecidableEq, Repr

def BayModes.reset : BayModes := ⟨0, 0, none, none, none, none, 0, 0, [], [], none, none, none⟩

/-- Queue-depth samples of the stitch (R228, R230): timestamp, depth and fullness of each probe. -/
structure Sample where
  ts : Nat
  depths : List Nat
  full : Nat
  deriving DecidableEq, Repr

/-- The scrub of a slice that has been powered off (R402): next row, whether it takes part in the passes, whether it has wrapped since
the last one. -/
structure SliceScrub where
  row : Nat
  counts : Bool
  wrapped : Bool
  deriving DecidableEq, Repr

/-- Work of the bay's hem (R402, R407, R445) and its telemetry. -/
structure Hem where
  samples : List Sample
  telAt : Option Nat      -- cycle in which the last record was written or dropped (R231)
  sampleCfg : Nat         -- BAY_FAB_SAMPLE and the probes as cycle 0 found them (R228)
  probes : List Nat
  tile : Option (List Nat)   -- hem check tile in flight: the STEs of the bay whose tile fails (R99)
  overran : Bool
  scrubbed : Bool         -- the scrub window of this stitch has run
  sliceRow : Nat          -- next row, word of the scrub walk
  spWord : Nat
  laneWord : Nat
  calPhase : Nat
  calSensor : Nat
  calSeam : Nat
  wrapped : List Nat      -- kinds of store that have wrapped since the last pass was counted (R402)
  trim : Option Nat       -- regulator phase calibrated in this hem, whose new trim has not taken effect (R445)
  setpoints : Assoc Nat Int   -- trim of each regulator phase, in mV
  silentCus : List Nat    -- CUs and clusters that did not answer the last roll call (R406)
  silentMus : List Nat
  called : Bool           -- the roll call of this hem has been taken
  compared : Bool         -- and compared
  firstCe : Option (Nat × Nat × Nat)   -- L, store, address of the first corrected word of the stitch
  ceStitch : Nat
  slices : Assoc Nat SliceScrub   -- by 8 x cluster + slice, the slices that have been powered off; the others stand at `sliceRow`
  rolled : Bool           -- a roll call has been taken since the last reset of the bay (R424)
  deriving DecidableEq, Repr

def Hem.reset : Hem := ⟨[], none, 0, [], none, false, false, 0, 0, 0, 0, 0, 0, [], none, [], [], [], false, false, none, 0, [], false⟩

structure Bay where
  power : BayPower
  cycle : Nat
  upCycles : Nat
  bist : Bool             -- BIST of this power-up has completed
  cap : Nat × Nat × Nat × Nat   -- C, H, K, W of the stitch
  vote : Vote
  modes : BayModes
  gov : Governor
  entries : Assoc Nat LaunchEntry
  hem : Hem
  stretching : Bool
  activeAt : Nat          -- master ns total at which it last became active (R388)
  wakeStart : Option Nat  -- master ns total at which its wake started
  doomed : Bool           -- the change that wakes it has been withdrawn, so that it returns to dormant at the next cycle 0 (R376)
  inStitch : Bool         -- cycle 0 of the stitch has begun in this bay
  windowOver : Bool       -- cycle W has been handled
  ran : Bool              -- it took part in the stitch before and has not begun the one in progress (R274)
  errNs : Int             -- phase error at the last time message
  locked : Bool           -- R274
  pllTrim : Int           -- trim of the PLL in ps per 1,000 ns (R272)
  latency : Nat           -- R271
  throttled : Bool
  vminTs : Nat            -- timestamp of the lowest rail voltage recorded (R383)
  vminOld : Nat           -- and as the cycle of the last sample found it (R10)
  vminNow : Nat           -- timestamp of the last sample
  outForwards : List (Nat × Nat × Nat)   -- context, identifier, amount (R284, R279)
  retireAt : Nat          -- cycle of the latest marker retirement of this stitch (R156)
  ctxs : List Nat         -- contexts whose contents have been loaded here (R58); the one whose image it holds first
  winsHeld : Option (List (RegId × Reg))   -- window descriptors still in force after a load, until the first work window (R177)
  deriving DecidableEq, Repr

def Bay.reset : Bay :=
  { power := .off, cycle := 0, upCycles := 0, bist := false, cap := (0, 0, 0, 0), vote := Vote.reset, modes := BayModes.reset,
    gov := Governor.reset, entries := [], hem := Hem.reset, stretching := false, activeAt := 0, wakeStart := none, doomed := false,
    inStitch := false, windowOver := false, ran := false, errNs := 0, locked := false, pllTrim := 0, latency := 0, throttled := false, vminTs := 0, vminOld := 0, vminNow := 0, outForwards := [],
    retireAt := 0, ctxs := [], winsHeld := none }

structure Panel where
  fabricOn : Bool
  fabricOpen : Bool       -- fabric feed latched open (R381)
  feedsOpen : List Nat    -- bays of the panel (0-3) whose feeds are latched open (R381)
  tripped : List Nat      -- bays whose feeds are open by a thermal trip (R393)
  wakes : List Nat        -- bays waiting for the wake reserve
  waking : Option Nat
  frac : Nat              -- cap fraction (R390)
  nextFrac : Option Nat
  budgetW : Nat
  fw : Option (BitVec 32) -- version word of the management firmware its controller runs (R434)
  firstCe : Option Nat    -- L of the first corrected word of the stitch on its mesh links (R331)
  ceStitch : Nat
  deriving DecidableEq, Repr

def Panel.reset : Panel := ⟨false, false, [], [], [], none, 21, none, 0, none, none, 0⟩

end Sys2Proof.Machine
end

