-- ==== Sys2Proof/Machine/StateStitch.lean ====
section
/-! DEFINITION. Time, the stitch, its contexts and synchronisation objects (02, 10). -/

namespace Sys2Proof.Machine

/-- The time master (R270-R277). -/
structure Clk where
  running : Bool
  nsTotal : Nat           -- ns since it started
  ns : Nat                -- ns since the stitch in progress began, or since the last one ended
  nsLatch : Nat           -- TIME_NS as last latched
  lastMessage : Nat       -- position of the last time message
  boundarySent : Bool
  timedOut : Bool         -- R277: the wait has run out and tokens are still missing
  tokenNo : Nat           -- number in the session of the stitch in progress among those that send tokens (R350)
  deriving DecidableEq, Repr

inductive StitchKind
  | none | work | idle | reload
  deriving DecidableEq, Repr

inductive CommitPhase
  | before | sampled | applied | ended
  deriving DecidableEq, Repr

inductive Decision
  | commit (apply : List Nat)
  | void
  | idleClean
  deriving DecidableEq, Repr

/-- A staged mode change (R60-R65). `table` holds the bytes its argument names. -/
structure StagedMode where
  arg : Nat
  target : Nat
  table : List Byte
  wakes : List Nat        -- bays it wakes from dormant
  deriving DecidableEq, Repr

/-- State and reason of a class (STITCH_MODE_STATE). -/
structure ModeReport where
  state : Nat
  reason : Nat
  deriving DecidableEq, Repr

structure Stitch where
  session : Bool
  kind : StitchKind
  phase : CommitPhase
  number : Nat
  begun : Bool            -- a stitch has run since the last reset, so the next one is numbered one above
  commitSeq : Nat
  active : Nat
  bank : Nat              -- context whose bank of core-class counters is active (R280)
  switchPending : Bool
  ctxNext : Nat
  reloadTo : Option Nat   -- reload stitch in progress or next, and its target
  streak : Nat
  lastResult : Nat
  hostVoid : Bool
  supplyVoid : Bool
  replay : Bool           -- the stitch replays a voided one
  noToken : Bool          -- an idle stitch under R277
  len : Nat               -- its length in ns (R59)
  period : Nat            -- active period (R33)
  nextPeriod : Option Nat
  excluded : List Nat     -- bays returned by bay reset in the session (R442)
  lastReplayed : Bool     -- the last work stitch of the active context voided, so its next one replays it
  reloaded : Bool         -- the generators' seeds have been reloaded since its last work stitch (R58)
  decision : Option Decision
  exits : BitVec 2048
  admits : List (Nat × Nat)        -- slots that the consumed entries admit, with their pairs, once the mask is broadcast (R55)
  voterMask : BitVec 312
  maskNext : Option (BitVec 2048)  -- the pending sequence mask, once it has been broadcast (R55)
  votes : Assoc Nat (Nat × Nat)    -- frozen vote lines: code of R45, cause
  modes : Assoc Nat StagedMode
  lower : List Nat                 -- bays whose grade the firmware is to lower (R377)
  reports : Assoc Nat ModeReport
  deriving DecidableEq, Repr

/-- A resident context (R57). -/
structure Ctx where
  image : Image
  mask : BitVec 2048
  halted : Bool
  failed : Bool
  modified : List Nat     -- weight sets whose modified bit is 1 (R456)
  order : Nat             -- rises with each residency (R464)
  voided : Bool           -- not active, and its last work stitch voided (R58, R279)
  deriving DecidableEq, Repr

/-- A physical host-class counter (R282): the context and identifier mapped to it, its value, its binding. -/
structure HCounter where
  ctx : Nat
  vid : Nat
  value : Nat
  bind : Option Binding
  deriving DecidableEq, Repr

/-- Host-class counters, by physical number, and their in-forwards (R282-R288); `sampled` of them had arrived at the last
sampling. -/
structure HSync where
  phys : Assoc Nat HCounter
  inForwards : List (Nat × Nat × Nat × Nat)   -- context, CU, counter, amount
  sampled : Nat
  deriving DecidableEq, Repr

def Clk.reset : Clk := ⟨false, 0, 0, 0, 0, false, false, 0⟩

def Stitch.reset : Stitch :=
  { session := false, kind := .none, phase := .before, number := 0, begun := false, commitSeq := 0, active := 0, bank := 0,
    switchPending := false, ctxNext := 0, reloadTo := none, streak := 0, lastResult := 0, hostVoid := false, supplyVoid := false, replay := false,
    noToken := false, len := 0, period := 0, nextPeriod := none, excluded := [], lastReplayed := false, reloaded := false, decision := none,
    exits := 0, admits := [], voterMask := 0, maskNext := none, votes := [], modes := [], lower := [], reports := [] }

def HSync.reset : HSync := ⟨[], [], 0⟩

end Sys2Proof.Machine
end

