-- ==== Sys2Proof/Machine/StateHost.lean ====
section
/-! DEFINITION. The host port, events, claims, external memory, optical sites and twins (11, 12, 13). -/

namespace Sys2Proof.Machine

/-- A report to the event doorbell (R326-R331). -/
structure Report where
  source : Nat
  kind : Nat
  w0 : Nat
  w1 : Nat
  w2 : Nat
  w3 : Nat
  ts : Nat
  deriving DecidableEq, Repr

/-- The event doorbell (R327-R330): reports on the basting lines in order, the pending latch and count of each source,
the arbiter pointers. -/
structure Evt where
  inflight : List Report
  pending : Assoc Nat (Report × Nat)
  ptr : Nat
  wptr : Nat
  head : Nat
  tail : Nat
  seq : Nat
  headWas : Nat           -- the head before the writes of the ns `headAt` - 1 (R330)
  headAt : Nat
  deriving DecidableEq, Repr

/-- A claim controller (R332-R334): pending sources with their last report and number of reports, the nesting stack (top
first), what the last claim latched, the fault that froze it (source completed, source on top; none once claimed), the
pointer of each priority level. -/
structure Claims where
  pend : List Nat
  recs : Assoc Nat (Report × Nat)
  stack : List Nat
  last : Option (Report × Nat)
  frozen : Bool
  fault : Option (Nat × Nat)
  ptr : Assoc Nat Nat
  deriving DecidableEq, Repr

/-- A DMA channel (R323-R325). -/
structure HDma where
  running : Bool
  halted : Bool
  done : Nat                    -- DMA_HEAD
  words : List (BitVec 32)      -- descriptor in progress
  buffers : List (Nat × Nat)    -- staging buffers held, oldest first: offset in the transfer, bytes
  next : Nat                    -- next byte of the transfer to read
  deriving DecidableEq, Repr

def HDma.reset : HDma := ⟨false, false, 0, [], [], 0⟩

/-- A queue pair beside its registers (R318-R322). `at_`: 1 + the ns of the last doorbell. -/
structure Qp where
  inLatched : Nat               -- input tail and output head latched at the last sampling (R320, R322)
  outLatched : Nat
  inBefore : Nat                -- input tail and output head before the doorbells of the ns `at_`
  outBefore : Nat
  at_ : Nat
  deriving DecidableEq, Repr

def Qp.reset : Qp := ⟨0, 0, 0, 0, 0⟩

/-- A host access that completes after the commit phase: one through BAR4 (R48), or a write of a BAR2 register that follows it (R314). -/
inductive Held
  | bar4 (offset : Nat) (write : Bool) (len : Nat) (data : List Byte)
  | bar2 (id : RegId) (part : Part) (v : Reg)
  deriving DecidableEq, Repr

/-- An error that the port has reported through AER (R315): Poisoned TLP, non-fatal; malformed TLP; ECRC error; unexpected completion; a
read of host memory that ended in UR, CA, a poisoned completion or none; Uncorrectable Internal Error, fatal. -/
inductive Aer
  | poisoned | malformed | ecrc | unexpected | completion | internal
  deriving DecidableEq, Repr

/-- The mailbox (R326) and the port. -/
structure HostSt where
  mbox : Option (Nat × Nat × List (BitVec 32))   -- response being prepared: status, sequence, words
  msix : List Nat                                -- vectors sent, newest first
  linkUp : Bool
  linkWidth : Nat
  linkRate : Nat
  dma : Assoc Nat HDma
  qps : Assoc Nat Qp
  lowWrites : List (RegId × Reg)                 -- high halves written, waiting for the low half (R7)
  latches : List (RegId × Reg)                   -- high halves latched by a read of the low half (R7)
  peerOffer : Nat
  aer : List Aer                                 -- errors reported to the host by PCIe, newest first (R315)
  poolPtr : Nat                                  -- R27 over channels waiting for unreserved buffers
  held : List Held                               -- accesses that wait, in order (R48, R314, R357)
  answer : List Byte                             -- data of the last register or BAR4 read that completed
  bar4Log2 : Nat                                 -- BAR4 is 2 to this many bytes, 32 to 41 (R310, R312)
  d3hot : Bool                                   -- reported power state: D3hot, else D0 (R310)
  retrains : Nat                                 -- retrains of the port's link in the session (R331)
  urs : Nat                                      -- Unsupported Requests answered to TLPs off the IDE stream (R472)
  deriving DecidableEq, Repr

/-- A versioned page (R302) and its granules (R303): selector bits, written bits, dirty bits of the twin. -/
structure VPage where
  base : Nat
  ctx : Nat
  sel : List Nat
  wr : List Nat
  dirty : List Nat
  imp : Option Nat              -- import descriptor's site, for an import page (R353)
  deriving DecidableEq, Repr

/-- External memory (R293-R308). -/
structure Hbm where
  pages : List VPage
  marked : List Nat             -- 2 MiB granules written in the session (R308)
  scrubbing : Bool
  ending : Bool                 -- a scrub in progress is a session-end scrub (R449)
  voids : Assoc Nat Nat         -- first cause per stack this stitch
  late : Assoc Nat Nat
  trained : List Nat
  restored : List Nat
  mapped : List Nat             -- pseudo-channels mapped in, ascending (R297)
  failed : List Nat             -- failed in the session (R299)
  recals : Assoc Nat Nat        -- consecutive failed recalibrations
  temps : Assoc Nat Nat
  patrol : Assoc Nat Nat        -- next stripe, by 64 x stack + pseudo-channel
  firstCe : Assoc Nat (Nat × Nat)
  ceStitch : Assoc Nat Nat
  deriving DecidableEq, Repr

/-- An export in progress (R354). -/
structure Export where
  desc : Nat
  next : Nat                       -- next word to send
  commit : Nat
  asked : Nat                      -- words asked for
  slots : List (Nat × Nat × Nat)   -- mesh reads in flight: number, first word, words
  got : Assoc Nat Word             -- words that have come and wait for their flit
  deriving DecidableEq, Repr

/-- An optical site (R339-R347). -/
structure Site where
  up : Bool
  training : Bool
  train : Nat                   -- 0 untrained, 1 crease, 2 full
  bootTrain : Nat               -- the same, of the first training of the boot (R449)
  wl : BitVec 8
  txSeq : Nat
  rxSeq : Nat
  ackd : Nat
  nakDue : Bool
  resend : List CasrikFlit
  outq : List CasrikFlit
  credits : List Nat            -- of the three virtual channels
  owed : List Nat               -- credits to return with the next flit (R343)
  exports : List Export
  begun : List Nat              -- export descriptors started in the stitch (R354)
  feed : Option (BitVec 64)     -- the feed set the peer has sent (R349)
  tokens : List Nat             -- commit sequences of the done tokens received in the session, oldest first (R350)
  void : Nat
  late : Nat
  retrains : Nat
  sent : Nat                    -- flits sent since the site came up (R341)
  wire : Option (Nat × List (BitVec 152))   -- the flit last sent: its wavelength and its codewords (R341)
  hello : List CasrikFlit       -- the MGMT flits of the last training: identity and version offer (R345)
  discard : Bool                -- flits are discarded until a resend arrives (R344)
  firstCe : Option Nat          -- wavelength of the first corrected word of the stitch (R331)
  ceStitch : Nat
  deriving DecidableEq, Repr

def Site.reset : Site :=
  { up := false, training := false, train := 0, bootTrain := 0, wl := 0, txSeq := 0, rxSeq := 0, ackd := 0, nakDue := false, resend := [],
    outq := [], credits := [0, 0, 0], owed := [0, 0, 0], exports := [], begun := [], feed := none, tokens := [], void := 0,
    late := 0, retrains := 0, sent := 0, wire := none, hello := [], discard := false, firstCe := none, ceStitch := 0 }

/-- Twin pairing (R355-R361). `state` is the role: 0 unpaired, 2 primary, 3 standby, 4 FENCED. -/
structure Twin where
  state : Nat
  openSeq : Option Nat          -- commit sequence of the checkpoint being streamed or received
  taken : Nat                   -- commit sequence of the last checkpoint taken
  frozen : List Nat             -- device addresses of granules and MU words still to stream
  captured : List (Nat × List Word)   -- captured copies waiting for a site (R357)
  holding : List Nat            -- capture queues that hold a write, by HBM stack, or 24 + cluster (R357)
  publish : Bool                -- a takeover's queue pointers are published with its reload stitch (R360)
  mask : BitVec 2048            -- sequence mask recorded with the checkpoint
  sentA : Nat                   -- flits of the checkpoint on site_a and site_b
  sentB : Nat
  endA : Option Nat             -- flit counts of the TWIN_MARK ends received
  endB : Option Nat
  started : Bool                -- TWIN_MARK start has gone
  bytes : Nat
  misses : Nat
  lineSeen : Bool               -- pulse on TWIN_HB_IN in this interval
  mgmtSeen : Bool               -- MGMT heartbeat in this interval
  lineOut : Option Nat          -- TWIN_HB_OUT: master ns total at which its last pulse of 1 µs began; none while it is held low (R478)
  fatalOut : Bool               -- the fatal line is driven
  detach : Bool                 -- detach after the current checkpoint
  attached : Bool               -- the first checkpoint has applied; until then TWIN_STATUS.state reads 1
  deriving DecidableEq, Repr

def Evt.reset : Evt := ⟨[], [], 0, 0, 0, 0, 0, 0, 0⟩
def Claims.reset : Claims := ⟨[], [], [], none, false, none, []⟩
def HostSt.reset : HostSt := ⟨none, [], false, 0, 0, [], [], [], [], 0, [], 0, [], [], 41, false, 0, 0⟩
def Hbm.reset : Hbm := ⟨[], [], false, false, [], [], [], [], [], [], [], [], [], [], []⟩
def Twin.reset : Twin := ⟨0, none, 0, [], [], [], false, 0, 0, 0, none, none, false, 0, 0, false, false, none, false, false, false⟩

end Sys2Proof.Machine
end

