-- ==== Sys2Proof/Machine/StateDev.lean ====
section
/-! DEFINITION. Supplies, darn map, configuration store, root of trust and the recovery port (14-18). -/

namespace Sys2Proof.Machine

/-- R10: what hardware did to a register with bits that software clears, in the cycle `at_`: the value before that cycle's updates,
and what the updates make of it with those bits clear. -/
structure HwSet where
  at_ : Nat × Nat
  old : Reg
  fresh : Reg
  deriving DecidableEq, Repr

/-- Supplies and the sequencer (R364-R369, R477-R480) and the boot it starts (R431). `seq` is PWR_STATUS.seq. -/
structure Supply where
  auxIn : Bool
  ioIn : Bool
  j1In : Bool                -- VIN_MAIN is in range at J1, at J2 (R476)
  j2In : Bool
  auxGood : Bool
  mainEnable : Bool
  inter : Bool
  pwrFail : Bool
  seq : Nat
  seqAt : Nat                -- master ns total at which that step of the sequence began
  bootStep : Nat             -- last step begun, 8 from the end of step 6 on (`step8At`); 0 before boot
  step8At : Nat              -- master ns total at which steps 8 and 9 begin
  step9At : Nat
  bootFailed : Bool
  tfCopy : Nat               -- firmware copies in use: 0 A, 1 B
  mfCopy : Nat
  inventory : Bool           -- the start-up inventory has been written
  rcvEn : Bool               -- RCV_EN is high
  rcvActs : Bool             -- RCV_EN has been high since VIN_IO was absent: the recovery port acts until VIN_IO comes, and holds the ROM (R480)
  eepromOut : Nat            -- byte last read (R479)
  cap : Option Nat           -- module cap below the variant's (R389)
  capNext : Option Nat       -- in force from the next clean commit
  computeDue : Option Nat    -- argument of a compute reset that waits (R441)
  bayDue : List Nat          -- bay resets that wait
  latency : Assoc Nat Nat    -- R271: of the panel controllers, HBM controllers and sites, by clock domain 192-359
  deriving DecidableEq, Repr

/-- R476: VIN_MAIN counts as in range only while it is at both connectors. -/
def Supply.mainIn (x : Supply) : Bool := x.j1In && x.j2In

/-- A detection kept for classification (R408, R409): voter, L, void cause, the cluster it is charged to, and its kind: 0 storage or
transfer, 1 arithmetic, 2 control, 3 dead unit. -/
structure Detection where
  bay : Nat
  loc : Nat
  cause : Nat
  cluster : Nat
  kind : Nat
  deriving DecidableEq, Repr

/-- Error detection and repair (R397-R421). `fuse`, `ledger`, `found`, `runtime`: physical clusters marked bad
by the fuse map, the ledger, the last BIST and in the session, as bay, ly, pc; together they are the darn map (R414). -/
structure Rel where
  fuse : List (Nat × Nat × Nat)
  ledger : List (Nat × Nat × Nat)
  found : List (Nat × Nat × Nat)
  runtime : List (Nat × Nat × Nat)
  unavailable : List Nat
  detections : List Detection          -- of the stitch in progress
  lateDet : List Detection             -- made after their voter's freeze, charged to the next stitch (R38)
  kept : List Detection                -- of the voided run, for the replay (R409)
  frame : List Detection               -- of the last background frame of each bay (R448)
  updating : Option (Nat × Nat × Nat)  -- darn update in progress
  queue : List Nat                     -- clusters that wait for an update (R416)
  darned : List Nat                    -- logical clusters darned in the session (R411)
  badLanes : List Nat                  -- CUs whose lane store must be rewritten (R76)
  discrepancies : Nat                  -- found at this boot (R435)
  mapped : List Nat                    -- bays whose darn map a BIST has built since power-on (R422)
  spares : List (Nat × Nat)            -- bay rows whose spare cluster is out of retention (R416)
  paths : List (Nat × Nat × Nat)       -- bay rows with skip paths, selectors and bypass set: bay, ly, column (R221, R236, R416)
  deriving DecidableEq, Repr

/-- A copy of a firmware object in the store: what its manifest says, and what the checks of R454 find of it. -/
structure FwCopy where
  version : BitVec 32
  manifest : Manifest
  deriving DecidableEq, Repr, Inhabited

/-- An entry of the UFS directory (R430): identifier, class, logical unit, start block, length in bytes, SHA-384 digest of the
manifest. -/
structure DirEntry where
  id : Nat
  cls : Nat                  -- 2 pattern image, 3 weight set (R452)
  lu : Nat
  block : Nat
  length : Nat
  digest : BitVec 384
  deriving DecidableEq, Repr

/-- The UFS device (R430): whether it can be read, the directory of logical unit 0, at most 4,096 entries, the images by start block in
logical unit 0 and the weight sets in logical unit 1. -/
structure Ufs where
  readable : Bool
  dir : List DirEntry
  images : Assoc Nat Image
  weights : Assoc Nat WeightSet
  deriving DecidableEq, Repr

/-- A stack's record of a crease file (R306, R429): version, stack serial number, whether its CRC is good, the pseudo-channels mapped
out. -/
structure StackRecord where
  version : Nat
  serial : Reg
  crcOk : Bool
  out : List Nat
  deriving DecidableEq, Repr

/-- A site's record (R345, R429): version, serial number of the peer it was made for, whether its CRC is good. -/
structure SiteRecord where
  version : Nat
  peer : Reg
  crcOk : Bool
  deriving DecidableEq, Repr

/-- A crease file (R429): layout version, generation, module serial number, records. -/
structure Crease where
  version : Nat
  generation : Nat
  serial : Reg
  stackRecs : Assoc Nat StackRecord
  sites : Assoc Nat SiteRecord
  deriving DecidableEq, Repr

def Crease.blank : Crease := ⟨1, 0, 0, [], []⟩

/-- A store header (R426): whether its CRC is good, its generation, its layout offer (R316). -/
structure StoreHeader where
  crcOk : Bool
  generation : Nat
  maxMajor : Nat
  minMajor : Nat
  minor : Nat
  caps : Nat
  deriving DecidableEq, Repr

/-- The configuration store (R425-R430). -/
structure Store where
  copyA : FwCopy
  copyB : FwCopy
  mgmtA : FwCopy
  mgmtB : FwCopy
  headers : List StoreHeader
  nextTf : Nat               -- copies selected for the next boot by type-4 records (0 A, 1 B)
  nextMf : Nat
  log : List (Nat × LogRecord)         -- records that have not been erased, with their place, oldest first
  head : Nat                 -- places written so far; 2,048 records a sector
  oldest : Nat               -- oldest written sector
  erases : Nat
  seq : Nat
  crease : Assoc Nat Crease            -- crease-file copies 0 and 1; a copy not listed is erased
  creaseUse : Nat                      -- the copy that the live crease pointer names
  creaseNow : Crease                   -- the crease file the trusted firmware works with
  twinCfg : Option Reg                 -- the stored value of TWIN_CFG (R363)
  autostart : Option Nat               -- directory entry of the live autostart record (R427)
  ufs : Ufs
  queue : List LogRecord               -- records waiting to be written
  deriving DecidableEq, Repr

/-- The root-of-trust core's one-time store (R460, R461): the DeviceID certificate, with the public key of the device LMS key as an
extension, and that key's seed and identifier. -/
structure OneTime where
  deviceCert : List Byte
  lmsPublic : BitVec 480
  lmsSeed : BitVec 256
  lmsId : BitVec 128
  deriving DecidableEq, Repr

/-- Fuses (R26, R457-R459, R479). -/
structure Fuses where
  part : Nat
  major : Nat
  minor : Nat
  svnTf : Nat
  svnMf : Nat
  svnPat : Nat
  svnWgt : Nat
  owner : Assoc Nat (BitVec 384)       -- key digests by slot
  revoked : List Nat
  serial : Reg
  romDigest : BitVec 384
  raising : List (Nat × Nat × Nat)     -- raises of a security version (R458): class, version before, master ns total at its end
  secret : BitVec 384                  -- unique device secret (R460)
  once : OneTime
  deriving DecidableEq, Repr

/-- SPDM responder, debug grant, diagnostic path, IDE stream and the LMS key (R461-R472). -/
structure Spdm where
  stage : Nat                -- connection: 0 none, 1 version, 2 capabilities, 3 algorithms
  session : Nat              -- secure session: 0 none, 1 keys exchanged, 2 established
  nonce : BitVec 256         -- responder random number of KEY_EXCHANGE_RSP
  epoch : Nat                -- KEY_UPDATEs of the session
  beat : Nat                 -- master ns of the last HEARTBEAT
  answer : List Byte         -- body of the last response
  said : List Byte           -- the messages of the connection so far, requests and responses
  transcript : Option (BitVec 384)   -- hash the last signed response covered (R465)
  tokens : List (BitVec 4096)        -- signed headers of the requests that the session has taken (R466)
  locked : Bool              -- the readout of the unique device secret is locked (R460)
  deviceId : BitVec 384      -- secrets of the DeviceID key and of the Alias key, the CDI (R460)
  cdi : BitVec 384
  lmsUsed : Nat
  lmsReserved : Nat
  grant : Bool               -- scope 1 is granted
  grantSlot : Nat
  ide : Option IdeKeys       -- the selective stream (R472)
  diag : Option Nat          -- address of a diagnostic read in progress
  wafer : Bool               -- SEC_STATUS.wafer_clean (R470)
  deriving DecidableEq, Repr

end Sys2Proof.Machine
end

