-- ==== Sys2Proof/Machine/State.lean ====
section
/-! DEFINITION. The T1 as one machine: its state, its state after power-on reset, and the names of faults and refusals. -/

namespace Sys2Proof.Machine

/-- No command of the spec ends the machine in a fault: the spec gives every one an effect. The one constructor is raised
by nobody and is there so that the type is a named one (safe). -/
inductive Fault
  /-- Raised by nobody (safe). -/
  | none_
  deriving DecidableEq, Repr

/-- Why a command has no meaning. -/
inductive Refusal
  /-- The command's arm has no meaning yet; raised by Dispatch.lean alone (safe: the machine stops). -/
  | notModelled (mnemonic : String)
  deriving DecidableEq, Repr

/-- The state of the T1. Sparse maps list only what differs from reset: bays by bay number, panels by panel, CUs by
4 x cluster + index, MUs and routers by cluster x + 512 y, contexts 0-3, sites 0-95, claim controllers 0 (root of trust)
and 1 (management). Registers that the machine only shows from other state are computed where they are read
(Machine/RegView.lean); `regs` holds the rest. -/
structure State where
  /-- Commands waiting, first in first out. -/
  pending : List Instr
  /-- The model's own counter behind free values (log entry 3). -/
  free : Nat
  /-- Device memory, by device address, canonical (R4, R77, R157, R294). -/
  mem : List Host.Cell
  /-- Stored error patterns by word address / 16: symbol, xor mask (R397). -/
  errs : Assoc Nat (List (Nat × Byte))
  /-- What the T1 has written to host memory, canonical. -/
  hostMem : List Host.Cell
  regs : Assoc RegId Reg
  /-- The last cycle in which hardware updated a register that software clears (R10). -/
  hw : Assoc RegId HwSet
  clk : Clk
  stitch : Stitch
  ctxs : Assoc Nat Ctx
  hsync : HSync
  bays : Assoc Nat Bay
  panels : Assoc Nat Panel
  cus : Assoc Nat Cu
  mus : Assoc Nat Mu
  rtrs : Assoc Nat Rtr
  host : HostSt
  evt : Evt
  claims : Assoc Nat Claims
  hbm : Hbm
  sites : Assoc Nat Site
  twin : Twin
  sup : Supply
  rel : Rel
  store : Store
  fuses : Fuses
  spdm : Spdm
  deriving DecidableEq, Repr

def Supply.reset : Supply :=
  { auxIn := true, ioIn := false, j1In := false, j2In := false, auxGood := false, mainEnable := false, inter := false, pwrFail := false,
    seq := 0, seqAt := 0, bootStep := 0, step8At := 0, step9At := 0, bootFailed := false, tfCopy := 0, mfCopy := 0, inventory := false, rcvEn := false,
    rcvActs := false, eepromOut := 0, cap := none, capNext := none, computeDue := none, bayDue := [], latency := [] }

def Rel.reset : Rel := ⟨[], [], [], [], [], [], [], [], [], none, [], [], [], 0, [], [], []⟩

/-- A firmware copy that passes every check, and an empty place (log entry 6). -/
def fwGood (cls : Nat) : FwCopy := ⟨1, manifestOf cls 0 0 0 []⟩
def fwEmpty : FwCopy := ⟨0, ⟨0, false, false, []⟩⟩

/-- The digest of a pair of public keys whose bytes are zero (log entry 6). -/
def blankKeys : BitVec 384 := sha384 (List.replicate 157 0)

/-- One valid copy A of each firmware object; copies B and the UFS device empty (log entry 6). -/
def Store.reset : Store :=
  { copyA := fwGood 0, copyB := fwEmpty, mgmtA := fwGood 1, mgmtB := fwEmpty, headers := [⟨true, 0, 1, 1, 0, 0⟩], nextTf := 0,
    nextMf := 0, log := [], head := 0, oldest := 0, erases := 0, seq := 0, crease := [], creaseUse := 0, creaseNow := Crease.blank, twinCfg := none, autostart := none,
    ufs := ⟨true, [], [], []⟩, queue := [] }

/-- An MLM-T1-48S of mask set 1 (log entry 6). -/
def Fuses.reset : Fuses :=
  { part := 1, major := 1, minor := 0, svnTf := 0, svnMf := 0, svnPat := 0, svnWgt := 0,
    owner := [(0, blankKeys), (1, blankKeys), (2, blankKeys), (3, blankKeys)], revoked := [], serial := 1, romDigest := 0
    raising := [], secret := 0, once := ⟨[], 0, 0, 0⟩ }

def Spdm.reset : Spdm :=
  { stage := 0, session := 0, nonce := 0, epoch := 0, beat := 0, answer := [], said := [], transcript := none, tokens := [],
    locked := false, deviceId := 0, cdi := 0, lmsUsed := 0, lmsReserved := 0, grant := false, grantSlot := 0, ide := none, diag := none, wafer := true }

/-- The machine right after power-on reset: VIN_AUX in range and nothing else powered (R365, R439). -/
def State.reset : State :=
  { pending := [], free := 0, mem := [], errs := [], hostMem := [], regs := [], hw := [], clk := Clk.reset, stitch := Stitch.reset,
    ctxs := [], hsync := HSync.reset, bays := [], panels := [], cus := [], mus := [], rtrs := [], host := HostSt.reset,
    evt := Evt.reset, claims := [], hbm := Hbm.reset, sites := [], twin := Twin.reset, sup := Supply.reset, rel := Rel.reset,
    store := Store.reset, fuses := Fuses.reset, spdm := Spdm.reset }

end Sys2Proof.Machine
end

