-- ==== Sys2Proof/Machine/RegInfo.lean ====
section
/-! DEFINITION. Width, access and reset value of every register (R6, R9 and the tables the arms cite). A field mask names
the bits of one access class; bits in no mask read their value and ignore writes (RO, reserved). -/

namespace Sys2Proof.Machine

/-- Access classes of R9, as masks of bits. `wo` bits act when written and are not stored. -/
structure RegAcc where
  rw : Reg
  rwl : Reg
  w1c : Reg
  w1s : Reg
  rc : Reg
  deriving DecidableEq, Repr

def accRo : RegAcc := ⟨0, 0, 0, 0, 0⟩
def accRw (m : Reg) : RegAcc := ⟨m, 0, 0, 0, 0⟩
def accRc (m : Reg) : RegAcc := ⟨0, 0, 0, 0, m⟩
def accW1c (m : Reg) : RegAcc := ⟨0, 0, m, 0, 0⟩
def all32 : Reg := 0xFFFFFFFF
def all64 : Reg := 0xFFFFFFFFFFFFFFFF
def bit31 : Reg := 0x80000000

/-- Access of each register, from the tables of R26, R66, R67, R107, R135, R156, R184, R208, R232-R234, R267-R269, R290,
R291, R309, R317, R335-R338, R362, R363, R394-R396, R422-R424, R449, R473. -/
def regAcc : RegId → RegAcc
  | .dev .clkSel => accRw 0x1FF
  | .dev _ => accRo
  | .ver _ _ => accRo
  | .host .version => accRw all32
  | .host .bar4Base => accRw 0x0000FFFF00000000
  | .host .mboxStatus => accW1c 0x60000000
  | .host _ => accRo
  | .dmaRes _ => accRw 0xFFF
  | .mboxReq _ => accRw all32
  | .mboxRsp _ => accRo
  | .msixTable _ => accRw all32
  | .msixPba _ => accRo
  | .evt .ringBase => accRw all64
  | .evt .ringCfg => accRw 0x8000001F
  | .evt .status => accW1c bit31
  | .evt .merged => accRc all32
  | .evt .ringHead => accRw all32
  | .evt .ringTail => accRo
  | .evtSrc _ => ⟨bit31, 0x3F000000, 0, 0, 0⟩
  | .time .peerCtrl => accRw 0xFFF
  | .time .holdCount => accRc all32
  | .time .hsyncSel => accRw 0x3FFFF
  | .time _ => accRo
  | .waitCfg _ => ⟨0xFFFFFFFF6003FFFF, 0, 0, bit31, 0⟩
  | .waitState _ => accRo
  | .stitch .replay => accRw 0xF
  | .stitch .voidCount => accRc all32
  | .stitch .modeSel => accRw 0xF
  | .stitch .modeArg => accRw all64
  | .stitch .modeTarget => accRw all64
  | .stitch _ => accRo
  | .seqMask _ => accRo
  | .voterMask _ => accRo
  | .pwr .fault => accW1c 0x10F
  | .pwr _ => accRo
  | .rel .darnSel => accRw 0xFF
  | .rel .ce => accRc all32
  | .rel .ue => accRc all32
  | .rel .chk => accRc all32
  | .rel .sig => accRc all32
  | .rel .transient => accRc all32
  | .rel .permanent => accRc all32
  | .rel .darns => accRc all32
  | .rel .discrepancy => accRc all32
  | .rel _ => accRo
  | .relAvail _ => accRo
  | .relDarnRow _ => accRo
  | .hbm _ .ce => accRc all32
  | .hbm _ .ue => accRc all32
  | .hbm _ .merge => accRc all32
  | .hbm _ .ueLast => accRc 0x8000000000000000
  | .hbm _ _ => accRo
  | .opt _ .txFlits => accRc all32
  | .opt _ .rxFlits => accRc all32
  | .opt _ .resend => accRc all32
  | .opt _ .fecCorr => accRc all32
  | .opt _ .ue => accRc all32
  | .opt _ .retrain => accRc all32
  | .opt _ .exportLate => accRc all32
  | .opt _ .importFault => accRc all32
  | .opt _ _ => accRo
  | .optExport _ _ _ => accRo
  | .optImport _ _ _ => accRo
  | .twin .cfg => ⟨0, 0x7F7FFF, 0, 0, 0⟩
  | .twin .captures => accRc all32
  | .twin .hold => accRc all32
  | .twin .hbMiss => accRc all32
  | .twin _ => accRo
  | .boot _ => accRo
  | .bootInv _ => accRo
  | .sec .diagAddr => accRw 0x0000FFFFFFFFFFF0
  | .sec .diagCtrl => ⟨0, 0, 0, 1, 0⟩
  | .sec _ => accRo
  | .panel _ .wake => accRc 0xFFFF
  | .panel _ _ => accRo
  | .panelRoute _ _ => accRo
  | .phaseFail _ _ => accRo
  | .therm _ _ => accRo
  | .eBay _ _ => accRo
  | .bay _ .arithFlags => accW1c 0xFF
  | .bay _ .sparseFault => accRc bit31
  | .bay _ .sparseFaultCount => accRc all32
  | .bay _ .flitDense => accRc all32
  | .bay _ .flitBitmap => accRc all32
  | .bay _ .flitPresent => accRc all32
  | .bay _ .zeroDropped => accRc all32
  | .bay _ .retireMax => accRc 0xFFFFFF
  | .bay _ .fabSample => accRw 0x8000001F
  | .bay _ .fabTelSize => accRw 0x1F
  | .bay _ .fabTelBase => accRw 0x0000FFFFFFFFF000
  | .bay _ .fabTelTail => accRw all32
  | .bay _ .fabTelDrop => accRc all32
  | .bay _ .fabResidue => accRc all32
  | .bay _ .fabSeamMax => accRc 0x7F
  | .bay _ .timeSlip => accRc all32
  | .bay _ .syncResidue => accRc all32
  | .bay _ .pwrVmin => accRc 0x80000FFF
  | .bay _ .govHeld => accRc all32
  | .bay _ .govBallast => accRc all32
  | .bay _ .govCapped => accRc all32
  | .bay _ .pwrBoost => accRc all32
  | .bay _ .pwrStretch => accRc all32
  | .bay _ .relCe => accRc all32
  | .bay _ .relUe => accRc all32
  | .bay _ .relUeLast => accRc 0x8000000000000000
  | .bay _ .scrubPass => accRc all32
  | .bay _ _ => accRo
  | .launchTarget _ _ => accRw all64
  | .launchAction _ _ => accRw all32
  | .launchState _ _ => accRo
  | .probe _ _ => accRw all32
  | .cu _ .flags => accW1c 0xFF
  | .cu _ .chkTol => accRw 0xFFFF
  | .cu _ .chkCount => accRc all32
  | .cu _ .chkLast => accRc bit31
  | .cu _ .srSeed => accRw all32
  | .cu _ .spConflict => accRc all32
  | .cu _ .steMacCyc => accRc all32
  | .cu _ .steScanCyc => accRc all32
  | .cu _ .steStageWait => accRc all32
  | .cu _ .winMiss => accRc all32
  | .cu _ .linkStall => accRc all32
  | .cu _ .msgOutOk => accRc all32
  | .cu _ .msgOutNospace => accRc all32
  | .cu _ .msgOutNowindow => accRc all32
  | .cu _ .msgOutDisabled => accRc all32
  | .cu _ .msgBusy => accRc all32
  | .cu _ .msgRetry => accRc all32
  | .cu _ .msgInNack => accRc all32
  | .cu _ .msgDiscard => accRc all32
  | .cu _ .steerFaultLast => accRc bit31
  | .cu _ .steerFlits => accRc all32
  | .cu _ .steerDropped => accRc all32
  | .cu _ _ => accRo
  | .vconst _ _ => accRo
  | .desc _ _ _ => accRo
  | .dmaDesc _ _ _ => accRo
  | .sync _ _ => accRo
  | .route _ _ => accRo
  | .cuWin _ _ _ => accRo
  | .chan _ _ _ => accRo
  | .ring _ _ => accRo
  | .mu _ .conflict => accRc all32
  | .mu _ .conflictLast => accRc bit31
  | .mu _ .narrowWait => accRc all32
  | .mu _ .starve => accRc all32
  | .mu _ .hazard => accRc all32
  | .mu _ .hazardLast => accRc bit31
  | .mu _ .winMiss => accRc all32
  | .mu _ .discard => accRc all32
  | .mu _ .dspFaultLast => accRc bit31
  | .mu _ .dspAccept => accRc all32
  | .mu _ .dspLater => accRc all32
  | .mu _ .dspDrop => accRc all32
  | .mu _ .dspDefer => accRc all32
  | .mu _ .dspDeferOvf => accRc all32
  | .mu _ .dspSkip => accRc all32
  | .mu _ .dspExit => accRc all32
  | .mu _ .dspOrphan => accRc all32
  | .mu _ .dspNan => accRc all32
  | .mu _ _ => accRo
  | .vwin _ _ => accRo
  | .muWin _ _ _ => accRo
  | .agDesc _ _ _ => accRo
  | .dspDesc _ _ _ => accRo
  | .rtr _ .flits => accRc all32
  | .rtr _ .hold => accRc all32
  | .rtr _ .ue => accRc all32
  | .rtr _ .status => accRo
  | .qp _ .cfg => accRw 0x10000000
  | .qp _ .inTail => accRw all32
  | .qp _ .outHead => accRw all32
  | .qp _ _ => accRo
  | .dma _ .ringBase => accRw all64
  | .dma _ .ringCfg => accRw 0x8000001F
  | .dma _ .tail => accRw all32
  | .dma _ _ => accRo
  | .claim _ _ => accRo

/-- R6: the registers marked (64). -/
def isReg64 : RegId → Bool
  | .host .bar4Base => true
  | .evt .ringBase => true
  | .time .now => true
  | .time .ns => true
  | .time .peerFeed => true
  | .time .peerWait => true
  | .waitCfg _ => true
  | .stitch .number => true
  | .stitch .commitSeq => true
  | .stitch .modeArg => true
  | .stitch .modeTarget => true
  | .pwr .eMain => true
  | .pwr .eIo => true
  | .pwr .eAux => true
  | .rel .faultRec2 => true
  | .hbm _ .pcMap => true
  | .hbm _ .pcFail => true
  | .hbm _ .ueLast => true
  | .opt _ .peerSerial => true
  | .twin .ckptLast => true
  | .twin .ckptOpen => true
  | .twin .ckptBytes => true
  | .sec .svnTf => true
  | .sec .svnMf => true
  | .sec .svnPat => true
  | .sec .svnWgt => true
  | .sec .lmsUsed => true
  | .sec .lmsReserved => true
  | .sec .diagAddr => true
  | .panel _ .meshHoles => true
  | .panel _ .eFabric => true
  | .panel _ .eIo => true
  | .eBay _ _ => true
  | .bay _ .fabTelBase => true
  | .bay _ .timeNow => true
  | .bay _ .pwrVminTs => true
  | .bay _ .relUeLast => true
  | .launchTarget _ _ => true
  | .qp _ .inBase => true
  | .qp _ .outBase => true
  | .dma _ .ringBase => true
  | _ => false

/-- R337: claim and prio of an event source at power-on. -/
def evtSrcReset (n : Nat) : Reg :=
  match n with
  | 361 => 0x9F000000
  | 367 => 0x9E000000
  | 368 => 0x9D000000
  | 362 => 0xAF000000
  | 364 => 0xAE000000
  | 365 => 0xAD000000
  | 366 => 0xAC000000
  | _ => 0x80000000

/-- The value after power-on reset (R9) of the registers that do not reset to zero. -/
def regReset : RegId → Reg
  | .dev .id => 0x7F1A0001
  | .dev .geometry => regOf ((192 <<< 20) + (432 <<< 10) + 512)
  | .dmaRes _ => 16
  | .msixTable w => if w % 4 = 3 then 1 else 0
  | .evtSrc n => evtSrcReset n
  | .time .peerCtrl => 1000
  | .stitch .replay => 3
  | .twin .cfg => regOf ((95 <<< 16) + (94 <<< 8) + 64)
  | .panelRoute _ _ => 0x80808080
  | .bay _ .fabSample => 8
  | .bay _ .pwrVmin => 0xFFF
  | .cu _ .chkTol => 0x40
  | .cu _ .srSeed => 0x00010001
  | .cu _ .linkCfg => 0x42108
  | .cu _ .steerCfg => 16
  | .mu _ .slicePwr => 0xFF
  | .claim _ .id => 4095
  | _ => 0

/-- The bits of a register that an image loads (R94, R103, R107, R168, R177, R184, R193, R208, R232, R268, R363, R395, R405, R424);
none of a register that no image loads. -/
def imageMask : RegId → Reg
  | .desc _ _ _ => all32
  | .dmaDesc _ _ _ => all32
  | .agDesc _ _ _ => all32
  | .dspDesc _ _ _ => all32
  | .vconst _ _ => all32
  | .route _ _ => all32
  | .cuWin _ _ w => match w with | 0 => 0xFE03FFFF | 1 => 0x3FFF | _ => 0x01FF01FF
  | .muWin _ _ w => match w with | 0 => 0xFE03FFFF | 1 => 0x3FFF | _ => 0x01FF01FF
  | .vwin _ _ => 0xE703FFFF
  | .chan _ _ w => if w = 0 then 0xFFFFFFF0 else 0xFFF003FF
  | .ring _ _ => 0xFFFF03FF
  | .cu _ .chkTol => 0xFFFF
  | .cu _ .srSeed => all32
  | .cu _ .sigExpect => all32
  | .cu _ .linkCfg => 0xFFFFF
  | .cu _ .steerCfg => 0xFF
  | .mu _ .slicePwr => 0xFF
  | .bay _ .govCfg => 0xF
  | .bay _ .fabSample => 0x8000001F
  | .probe _ _ => all32
  | .optExport _ _ w => match w with | 0 => 0x8FFFFFFF | 1 => all32 | 2 => 0xFFFF | 3 => 0xFFFFFF | 4 => 0xFFFFFFF | _ => 0
  | .optImport _ _ w => if w = 0 then 0x8000FFFF else 0x7FFFFFFF
  | _ => 0

end Sys2Proof.Machine
end

