-- ==== Sys2Proof/Machine/WordCode.lean ====
section
/-! DEFINITION. The word code: RS(19,16) over GF(2^8) (R159, R397). -/

namespace Sys2Proof.Machine

/-- Multiplication by α, modulo x^8 + x^4 + x^3 + x^2 + 1. -/
def gfTwice (a : Byte) : Byte := if a.getLsbD 7 then (a <<< 1) ^^^ 0x1D else a <<< 1

/-- Multiplication by α^k. -/
def gfPow (a : Byte) : Nat → Byte
  | 0 => a
  | k + 1 => gfTwice (gfPow a k)

/-- The three check symbols c0, c1, c2 as the division by g(x) leaves them. -/
structure Checks where
  c0 : Byte
  c1 : Byte
  c2 : Byte
  deriving DecidableEq, Repr

/-- One data symbol more of the division by g(x) = (x + 1)(x + α)(x + α^2) = x^3 + 7x^2 + 14x + 8, where 7 = 1 + α + α^2 and
14 = α + α^2 + α^3. -/
def Checks.take (r : Checks) (d : Byte) : Checks :=
  let f := d ^^^ r.c0
  ⟨r.c1 ^^^ (f ^^^ gfPow f 1 ^^^ gfPow f 2), r.c2 ^^^ (gfPow f 1 ^^^ gfPow f 2 ^^^ gfPow f 3), gfPow f 3⟩

/-- Data symbol d_i. -/
def symbolOf (w : Word) (i : Nat) : Byte := BitVec.ofNat 8 (w.toNat / 2 ^ (8 * i))

def checksOf (w : Word) : Checks := (List.range 16).foldl (fun r i => r.take (symbolOf w i)) ⟨0, 0, 0⟩

/-- The codeword of a word: data in bits [127:0], c0 in [135:128], c1 in [143:136], c2 in [151:144]. -/
def codeword (w : Word) : BitVec 152 :=
  let r := checksOf w
  BitVec.ofNat 152 (w.toNat + r.c0.toNat * 2 ^ 128 + r.c1.toNat * 2 ^ 136 + r.c2.toNat * 2 ^ 144)

/-- The codeword polynomial at α^k: zero for k = 0, 1, 2 where it is divisible by g(x). -/
def syndrome (x : BitVec 152) (k : Nat) : Byte :=
  (List.range 19).foldl (fun a i => gfPow a k ^^^ BitVec.ofNat 8 (x.toNat / 2 ^ (8 * i))) 0

end Sys2Proof.Machine
end

