-- ==== Sys2Proof/Machine/Memory.lean ====
section
/-! DEFINITION. Memory as a canonical list of cells: addresses strictly rising, no entry zero. An unlisted address reads
zero (R182 for on-wafer storage; log entry 4 for external memory). -/

namespace Sys2Proof.Machine

/-- The form every memory of the model keeps. -/
abbrev Memory.wf (m : List Host.Cell) : Prop :=
  m.Pairwise (fun a b => a.1 < b.1) ∧ ∀ c ∈ m, c.2 ≠ 0

/-- One byte. -/
def memRead : List Host.Cell → Nat → Byte
  | [], _ => 0
  | (k, v) :: rest, a => if k = a then v else memRead rest a

/-- Store one byte; storing what an unlisted address reads as removes the entry. -/
def memWrite : List Host.Cell → Nat → Byte → List Host.Cell
  | [], a, v => if v = 0 then [] else [(a, v)]
  | (k, w) :: rest, a, v =>
    if a < k then (if v = 0 then (k, w) :: rest else (a, v) :: (k, w) :: rest)
    else if a = k then (if v = 0 then rest else (a, v) :: rest)
    else (k, w) :: memWrite rest a v

/-- Bytes at `a`, `a + 1`, ... -/
def memReads (m : List Host.Cell) (a : Nat) : Nat → List Byte
  | 0 => []
  | n + 1 => memRead m a :: memReads m (a + 1) n

def memWrites (m : List Host.Cell) (a : Nat) : List Byte → List Host.Cell
  | [] => m
  | v :: vs => memWrites (memWrite m a v) (a + 1) vs

/-- The cells outside `[lo, lo + n)`. -/
def memDrop (m : List Host.Cell) (lo n : Nat) : List Host.Cell :=
  m.filter (fun c => !(decide (lo ≤ c.1 ∧ c.1 < lo + n)))

end Sys2Proof.Machine
end

