-- ==== Sys2Proof/Machine/Ops.lean ====
section
/-! DEFINITION. The named operations over the machine's state that the commands share: units, registers, time, events,
votes, stored words. -/

namespace Sys2Proof.Machine

/-! ### Units -/

def State.bay (s : State) (b : Nat) : Bay := s.bays.get Bay.reset b
def State.panel (s : State) (p : Nat) : Panel := s.panels.get Panel.reset p
def State.cu (s : State) (u : Nat) : Cu := s.cus.get Cu.reset u
def State.mu (s : State) (c : Nat) : Mu := s.mus.get Mu.reset c
def State.rtr (s : State) (c : Nat) : Rtr := s.rtrs.get Rtr.reset c
def State.site (s : State) (t : Nat) : Site := s.sites.get Site.reset t
def State.ctx? (s : State) (k : Nat) : Option Ctx := s.ctxs.find? k
def State.claim (s : State) (k : Nat) : Claims := s.claims.get Claims.reset k

def State.setBay (s : State) (b : Nat) (v : Bay) : State := { s with bays := s.bays.set b v }
def State.setPanel (s : State) (p : Nat) (v : Panel) : State := { s with panels := s.panels.set p v }
def State.setCu (s : State) (u : Nat) (v : Cu) : State := { s with cus := s.cus.set u v }
def State.setMu (s : State) (c : Nat) (v : Mu) : State := { s with mus := s.mus.set c v }
def State.setRtr (s : State) (c : Nat) (v : Rtr) : State := { s with rtrs := s.rtrs.set c v }
def State.setSite (s : State) (t : Nat) (v : Site) : State := { s with sites := s.sites.set t v }
def State.setCtx (s : State) (k : Nat) (v : Ctx) : State := { s with ctxs := s.ctxs.set k v }
def State.setClaim (s : State) (k : Nat) (v : Claims) : State := { s with claims := s.claims.set k v }

def State.modBay (s : State) (b : Nat) (f : Bay → Bay) : State := s.setBay b (f (s.bay b))
def State.modPanel (s : State) (p : Nat) (f : Panel → Panel) : State := s.setPanel p (f (s.panel p))
def State.modCu (s : State) (u : Nat) (f : Cu → Cu) : State := s.setCu u (f (s.cu u))
def State.modMu (s : State) (c : Nat) (f : Mu → Mu) : State := s.setMu c (f (s.mu c))
def State.modRtr (s : State) (c : Nat) (f : Rtr → Rtr) : State := s.setRtr c (f (s.rtr c))
def State.modSite (s : State) (t : Nat) (f : Site → Site) : State := s.setSite t (f (s.site t))
def State.modStitch (s : State) (f : Stitch → Stitch) : State := { s with stitch := f s.stitch }
def State.modClk (s : State) (f : Clk → Clk) : State := { s with clk := f s.clk }

/-! ### Places (R4, R12-R15) -/

def clX (c : Nat) : Nat := c % 512
def clY (c : Nat) : Nat := c / 512
def clusterAt (x y : Nat) : Nat := x + 512 * y

/-- R15. -/
def panelOf (c : Nat) : Nat := clY c / 72 * 8 + clX c / 64

/-- R15: the bay of a cluster. -/
def bayOf (c : Nat) : Nat := panelOf c * 4 + clY c % 72 / 36 * 2 + clX c % 64 / 32

def bayOfCu (u : Nat) : Nat := bayOf (u / 4)
def lxOf (c : Nat) : Nat := clX c % 32
def lyOf (c : Nat) : Nat := clY c % 36

/-- The cluster at bay-local position (lx, ly) of bay `b`. -/
def clusterIn (b lx ly : Nat) : Nat :=
  let p := b / 4
  clusterAt (p % 8 * 64 + b % 2 * 32 + lx) (p / 8 * 72 + b % 4 / 2 * 36 + ly)

/-- Does a cluster number name a cluster of the logical grid (R14)? -/
def isCluster (c : Nat) : Bool := decide (c < 512 * 432)

/-- Clusters of a bay, in raster order. -/
def clustersOf (b : Nat) : List Nat := (List.range 36).flatMap (fun ly => (List.range 32).map (fun lx => clusterIn b lx ly))

/-- CUs that are listed and lie in bay `b`. -/
def State.busyCus (s : State) (b : Nat) : List Nat := (s.cus.map Prod.fst).filter (fun u => bayOfCu u == b)
def State.busyMus (s : State) (b : Nat) : List Nat := (s.mus.map Prod.fst).filter (fun c => bayOf c == b)

/-- R331: location word of a CU, and of an MU or router. -/
def locCu (u : Nat) : Nat := clX (u / 4) + clY (u / 4) * 2 ^ 9 + u % 4 * 2 ^ 18
def locMu (c : Nat) : Nat := clX c + clY c * 2 ^ 9 + 2 ^ 20

/-- R4: the device address of a cluster offset. -/
def devAddr (c off : Nat) : Nat := 8 * 2 ^ 44 + clX c * 2 ^ 35 + clY c * 2 ^ 26 + off

/-- Device address of byte `o` of a scratchpad (R5) and of a lane store. -/
def spAddr (u o : Nat) : Nat := devAddr (u / 4) (0x30000 + u % 4 * 0x4000 + o)
def laneAddr (u o : Nat) : Nat := devAddr (u / 4) (0x1000000 + u % 4 * 0x2000 + o)

/-! ### Registers -/

/-- The stored value of a register; `RegView` adds those that are computed. -/
def State.reg (s : State) (r : RegId) : Reg := s.regs.get (regReset r) r
def State.regN (s : State) (r : RegId) : Nat := (s.reg r).toNat
def State.setReg (s : State) (r : RegId) (v : Reg) : State := { s with regs := s.regs.set r v }
def State.modReg (s : State) (r : RegId) (f : Reg → Reg) : State := s.setReg r (f (s.reg r))

/-- The bay whose window or units hold a register (R25, R108, R184, R208, R291); the router's are the panel's (R267). -/
def regBay : RegId → Option Nat
  | .bay b _ => some b
  | .launchTarget b _ => some b
  | .launchAction b _ => some b
  | .launchState b _ => some b
  | .probe b _ => some b
  | .cu u _ => some (bayOfCu u)
  | .vconst u _ => some (bayOfCu u)
  | .desc u _ _ => some (bayOfCu u)
  | .dmaDesc u _ _ => some (bayOfCu u)
  | .sync u _ => some (bayOfCu u)
  | .route u _ => some (bayOfCu u)
  | .cuWin u _ _ => some (bayOfCu u)
  | .chan u _ _ => some (bayOfCu u)
  | .ring u _ => some (bayOfCu u)
  | .mu c _ => some (bayOf c)
  | .vwin c _ => some (bayOf c)
  | .muWin c _ _ => some (bayOf c)
  | .agDesc c _ _ => some (bayOf c)
  | .dspDesc c _ _ => some (bayOf c)
  | _ => none

/-- The registers of a bay's window and of its units. -/
def inBay (b : Nat) (r : RegId) : Bool := regBay r == some b

/-- The number of the stitch that bay `b` runs: one that has not begun the stitch in progress runs out the one before (R273). -/
def State.bayStitch (s : State) (b : Nat) : Nat := s.stitch.number - (if (s.bay b).ran then 1 else 0)

/-- Cycle `c` of bay `b`, told from every other. -/
def State.cycleOf (s : State) (b c : Nat) : Nat × Nat :=
  if (s.bay b).inStitch ∨ (s.bay b).ran then (s.bayStitch b, c) else (2 ^ 40 + s.clk.nsTotal, c)

/-- The cycle a register is in as hardware updates it: of its bay's clock, or else the time master's ns (log entry 42). -/
def State.hwCycle (s : State) (r : RegId) : Nat × Nat :=
  match regBay r with
  | some b => s.cycleOf b (s.bay b).cycle
  | none => (s.clk.nsTotal, 0)

/-- The bits of a register that software clears, cleared; BAY_PWR_VMIN is cleared to its highest voltage (R383). -/
def softClear (r : RegId) (v : Reg) : Reg :=
  match r with
  | .bay _ .pwrVmin => 0xFFF
  | r => v &&& ~~~((regAcc r).rc ||| (regAcc r).w1c)

/-- A hardware update of a register with bits that software clears (R10). -/
def State.hwSet (s : State) (r : RegId) (f : Reg → Reg) : State :=
  let first : HwSet := ⟨s.hwCycle r, s.reg r, softClear r (s.reg r)⟩
  let e := match s.hw.find? r with
    | some e => if e.at_ = s.hwCycle r then e else first
    | none => first
  { s.modReg r f with hw := s.hw.set r { e with fresh := f e.fresh } }

/-- Add to a saturating 32-bit counter (RC registers). -/
def State.count (s : State) (r : RegId) (n : Nat) : State := s.hwSet r (fun v => satReg v n)

/-- Add to such a counter what the cycles before the one that a unit stands in have counted. -/
def State.tally (s : State) (r : RegId) (n : Nat) : State := s.modReg r (fun v => satReg v n)

/-- Set a LAST record when its valid bit is clear; while it is set, later ones are only counted. -/
def State.record (s : State) (r : RegId) (validBit : Nat) (v : Nat) : State :=
  if (s.regN r).testBit validBit then s else s.hwSet r (fun _ => regOf (v + 2 ^ validBit))

/-- Forget the registers that satisfy `p`: they take their reset values (R25, R108), and no update of before shows in them (R10). -/
def State.dropRegs (s : State) (p : RegId → Bool) : State :=
  { s with regs := s.regs.filter (fun e => !p e.1), hw := List.filter (fun e => !p e.1) s.hw }

/-! ### Clock grades (R370) -/

/-- Bay clock of a grade code in MHz; 0 for dormant and for the reserved codes. -/
def gradeMHz : Nat → Nat
  | 1 => 400 | 2 => 500 | 3 => 600 | 4 => 700 | 5 => 800 | 6 => 900 | 7 => 1000 | 8 => 1050 | 9 => 1100 | 10 => 1150
  | _ => 0

def gradeMv : Nat → Nat
  | 4 => 590 | 5 => 625 | 6 => 660 | 7 => 700 | 8 => 750 | 9 => 800 | 10 => 850
  | _ => 550

/-- The bay's clock in MHz. -/
def State.mhz (s : State) (b : Nat) : Nat := gradeMHz (s.bay b).modes.grade

/-! ### Phases and the governor's limit (R370, R377, R385) -/

/-- R370: full current of a grade in A. -/
def gradeAmps : Nat → Nat
  | 1 => 50 | 2 => 60 | 3 => 71 | 4 => 85 | 5 => 101 | 6 => 118 | 7 => 137 | 8 => 147 | 9 => 158 | 10 => 169
  | _ => 0

def State.phasesFailed (s : State) (b : Nat) : Nat :=
  let r := s.regN (.phaseFail (b / 4) (b % 4))
  popcount 16 (r % 65536 ||| r / 65536)

/-- R377: the bay current limit in A. -/
def State.bayLimit (s : State) (b : Nat) : Nat := 12 * (16 - s.phasesFailed b)

/-- R377: the governor's limit from failed phases at the active grade. -/
def State.phaseMax (s : State) (b : Nat) : Nat :=
  let a := gradeAmps (s.bay b).modes.grade
  if a = 0 then 8 else min 8 (8 * s.bayLimit b / a)

/-- R385. -/
def State.lmax (s : State) (b : Nat) : Nat := min (min (s.bay b).gov.capMax (s.bay b).gov.thermMax) (s.phaseMax b)

/-! ### Time (R270-R274) -/

/-- `d` cycles of bay `b` pass, the one it stands in first. Counts what runs per cycle: cycles since power-up (R385), stretched
cycles (R382), capped cycles (R391), ballast cycles (R386). -/
def State.bayCycles (s : State) (b d : Nat) : State :=
  if d = 0 then s
  else
    let y := s.bay b
    let g := y.gov
    let now := if g.countCycle = y.cycle then g.issuedCycle else 0
    let ballast := if g.level ≤ 1 then 0 else if (g.level - 1) * 4608 ≤ 8 * now then d - 1 else d
    let s1 := s.setBay b { y with
      cycle := y.cycle + d
      upCycles := y.upCycles + d
      gov := { g with sinceRise := g.sinceRise + d } }
    let s2 := if ballast = 0 then s1 else s1.tally (.bay b .govBallast) ballast
    let s3 := if y.stretching then s2.tally (.bay b .pwrStretch) d else s2
    if s.lmax b < 8 then s3.tally (.bay b .govCapped) d else s3

/-- Bring a bay's cycle counter to `t`; it never runs back, and in a stitch it holds at C - 1 (R273). -/
def State.bayTime (s : State) (b t : Nat) : State :=
  let y := s.bay b
  s.bayCycles b ((if y.cap.1 = 0 ∨ !(y.inStitch || y.ran) then t else min t (y.cap.1 - 1)) - y.cycle)

/-- Bring the time master's ns to `t`; it never runs back. -/
def State.masterTime (s : State) (t : Nat) : State :=
  if s.clk.running then
    let d := t - s.clk.ns
    s.modClk (fun k => { k with ns := k.ns + d, nsTotal := k.nsTotal + d })
  else s

/-- R270: the time master's timestamp. -/
def State.masterTs (s : State) : Nat :=
  let low := if s.stitch.session then min s.clk.ns 0xFFFFFF else s.clk.ns % 2 ^ 24
  s.stitch.number % 2 ^ 40 * 2 ^ 24 + low

/-- R270: a bay's timestamp: the stitch it runs and its cycle there. While no session runs it is the master's, as is that of a bay that
runs no stitch of the session (the latter is a DESIGN CHOICE, log entry 71). -/
def State.bayTs (s : State) (b : Nat) : Nat :=
  if (s.bay b).inStitch ∨ (s.bay b).ran then s.bayStitch b % 2 ^ 40 * 2 ^ 24 + (s.bay b).cycle % 2 ^ 24 else s.masterTs

def State.stitchLo (s : State) (bits : Nat) : Nat := s.stitch.number % 2 ^ bits

/-- R40: is a packet whose header holds these stitch bits discarded where it arrives: one of another stitch, or of the one in
progress once its void has been applied? -/
def State.stale (s : State) (lo : Nat) : Bool :=
  lo != s.stitchLo 2 || ((s.stitch.phase == .applied || s.stitch.phase == .ended) && s.stitch.decision == some .void)

/-! ### Events (R326-R331) -/

def State.report (s : State) (r : Report) : State :=
  { s with evt := { s.evt with inflight := s.evt.inflight ++ [r] } }

/-- Raise an event of a bay; its timestamp is the bay's. -/
def State.raiseBay (s : State) (b kind w0 w1 w2 w3 : Nat) : State :=
  s.report ⟨b, kind, w0 % 2 ^ 32, w1 % 2 ^ 32, w2 % 2 ^ 32, w3 % 2 ^ 32, s.bayTs b⟩

/-- Raise an event of any other source. -/
def State.raise (s : State) (src kind w0 w1 w2 w3 : Nat) : State :=
  s.report ⟨src, kind, w0 % 2 ^ 32, w1 % 2 ^ 32, w2 % 2 ^ 32, w3 % 2 ^ 32, s.masterTs⟩

/-! ### Votes (R37-R39, R45) -/

/-- R37-R39: a void-class detection. The first cause stands, the lowest code of those of one cycle; after the freeze it is
charged to the next stitch. -/
def Vote.void (v : Vote) (at_ cause : Nat) : Vote :=
  if v.frozen then
    if v.late = 0 then { v with late := cause, lateAt := at_ }
    else if v.lateAt = at_ then { v with late := min v.late cause }
    else v
  else if v.cause = 0 then { v with cause := cause, causeAt := some at_ }
  else if v.causeAt = some at_ then { v with cause := min v.cause cause }
  else v

def State.voteVoid (s : State) (b cause : Nat) : State :=
  s.modBay b (fun y => { y with vote := y.vote.void y.cycle cause })

/-- The void of an HBM controller (R37). -/
def State.voidStack (s : State) (st cause : Nat) : State :=
  let h := s.hbm
  if (s.stitch.votes.find? (192 + st)).isSome then
    { s with hbm := { h with late := if h.late.get 0 st = 0 then h.late.set st cause else h.late } }
  else { s with hbm := { h with voids := if h.voids.get 0 st = 0 then h.voids.set st cause else h.voids } }

/-- The void of an optical site (R37). -/
def State.voidSite (s : State) (t cause : Nat) : State :=
  if (s.stitch.votes.find? (216 + t)).isSome then
    s.modSite t (fun x => { x with late := if x.late = 0 then cause else x.late })
  else s.modSite t (fun x => { x with void := if x.void = 0 then cause else x.void })

/-- R38, R409: a classifiable detection, charged to voter `b`'s stitch in progress or, after its freeze, to the next. -/
def State.detect (s : State) (b loc cause cluster kind : Nat) : State :=
  if (s.stitch.votes.find? b).isSome then { s with rel := { s.rel with lateDet := s.rel.lateDet ++ [⟨b, loc, cause, cluster, kind⟩] } }
  else { s with rel := { s.rel with detections := s.rel.detections ++ [⟨b, loc, cause, cluster, kind⟩] } }

/-- R5: an address fault. `who` is the requester's location word; `lane` is the bay of the lane that made the access. -/
def State.addrFault (s : State) (src addr who cause : Nat) (lane : Option Nat) : State :=
  let s1 := if src < 192 then s.raiseBay src 0x20 addr (addr / 2 ^ 32) who cause
    else s.raise src 0x20 addr (addr / 2 ^ 32) who cause
  match lane with
  | some b => s1.voteVoid b 6
  | none => s1

/-! ### Stored words under the word code (R397-R401) -/

def State.takeFree (s : State) : State := { s with free := s.free + 1 }

/-- Data bits with an error pattern applied. -/
def applyErrs (w : Word) (pat : List (Nat × Byte)) : Word :=
  pat.foldl (fun x (i, m) => if i < 16 then x ^^^ (BitVec.ofNat 128 (m.toNat * 2 ^ (8 * i))) else x) w

/-- What a decoder delivers (R398, R401): 0 good, 1 corrected, 2 uncorrectable. -/
structure Decoded where
  data : Word
  verdict : Nat
  deriving DecidableEq, Repr

/-- R398: one bad symbol is corrected, two are detected; of three or more the spec makes no claim, and what the decoder
does with them is a free value. -/
def decodeWord (free : Nat) (w : Word) (pat : List (Nat × Byte)) : Decoded :=
  match pat with
  | [] => ⟨w, 0⟩
  | [_] => ⟨w, 1⟩
  | [_, _] => ⟨applyErrs w pat, 2⟩
  | _ =>
    match (Config.freeReg free).toNat % 3 with
    | 0 => ⟨applyErrs w pat, 0⟩
    | 1 => ⟨applyErrs w pat, 2⟩
    | _ => ⟨Config.freeWord free, 1⟩

/-- The 16-byte word stored at a device address that is a multiple of 16. -/
def State.word (s : State) (a : Nat) : Word := BitVec.ofNat 128 (leNat (memReads s.mem a 16))

def State.decodeAt (s : State) (a : Nat) : Decoded := decodeWord s.free (s.word a) (s.errs.get [] (a / 16))

/-- The codeword that lies at a device address: that of the word, with the errors it has taken (R159, R397). -/
def State.codewordAt (s : State) (a : Nat) : BitVec 152 :=
  (s.errs.get [] (a / 16)).foldl (fun x (i, m) => x ^^^ BitVec.ofNat 152 (m.toNat * 2 ^ (8 * i))) (codeword (s.word a))

/-- Store a whole word: a fresh codeword. -/
def State.putWord (s : State) (a : Nat) (w : Word) : State :=
  { s with mem := memWrites s.mem a (leBytes 16 w.toNat), errs := s.errs.erase (a / 16) }

/-- Store bytes into host memory. -/
def State.putHost (s : State) (a : Nat) (bs : List Byte) : State := { s with hostMem := memWrites s.hostMem a bs }

/-- Stores of R331: 0 MU slice, 1 scratchpad, 2 lane store. -/
def State.correctedWord (s : State) (b loc store off : Nat) : State :=
  let s1 := (s.count (.bay b .relCe) 1).count (.rel .ce) 1
  s1.modBay b (fun y => { y with hem := { y.hem with
    firstCe := if y.hem.firstCe.isSome then y.hem.firstCe else some (loc, store, off)
    ceStitch := y.hem.ceStitch + 1 } })

/-- R401: an uncorrectable word of a bay's store is counted, recorded, reported, and voids the stitch. -/
def State.uncorrectableWord (s : State) (b loc store cu c off : Nat) : State :=
  let s1 := (s.count (.bay b .relUe) 1).count (.rel .ue) 1
  let s2 := s1.record (.bay b .relUeLast) 63
    (store * 2 ^ 60 + cu * 2 ^ 58 + lxOf c * 2 ^ 53 + lyOf c * 2 ^ 47 + s.stitchLo 16 * 2 ^ 31 + off)
  let s3 := s2.raiseBay b 0x26 loc store off 0
  (s3.voteVoid b 2).detect b loc 2 c 0

/-- `x` in an ascending list without repeats. -/
def insertSorted (x : Nat) : List Nat → List Nat
  | [] => [x]
  | y :: ys => if x < y then x :: y :: ys else if x = y then y :: ys else y :: insertSorted x ys

/-- R76, R401: the lane of CU `u` is to be rewritten. -/
def State.laneLost (s : State) (u : Nat) : State := { s with rel := { s.rel with badLanes := insertSorted u s.rel.badLanes } }

/-- Read a word of a bay's store with the consequences of R400 and R401. `keep` leaves an uncorrectable word as it is
(the committed copy of a versioned window). `store` 2 is a lane store. -/
def State.readStore (s : State) (a b loc store cu c off : Nat) (keep : Bool) : Decoded × State :=
  let d := s.decodeAt a
  let s0 := if 2 < (s.errs.get [] (a / 16)).length then s.takeFree else s
  if d.verdict = 0 then (d, s0)
  else if d.verdict = 1 then (d, s0.correctedWord b loc store off)
  else
    let s1 := s0.uncorrectableWord b loc store cu c off
    let s2 := if store = 2 then s1.laneLost (4 * c + cu) else s1
    (d, if keep then s2 else s2.putWord a 0)

/-! ### Scratchpad, lane store, MU slices -/

/-- Word `w` of a scratchpad (R77). -/
def State.readSp (s : State) (u w : Nat) : Word × State :=
  let (d, s1) := s.readStore (spAddr u (16 * w)) (bayOfCu u) (locCu u) 1 (u % 4) (u / 4) w false
  (d.data, s1)

def State.writeSp (s : State) (u w : Nat) (v : Word) : State := s.putWord (spAddr u (16 * w)) v

/-- Where a slice word's copies lie (R174): `none` when no access may name it (R172, R181). -/
inductive MuPlace
  | bad (cause : Nat)              -- cause of R331's address-fault payload
  | plain (w : Nat)
  | versioned (w copy0 copy1 : Nat)
  deriving DecidableEq, Repr

structure VWin where
  en : Bool
  ctx : Nat
  slice : Nat
  rows : Nat
  base : Nat
  deriving DecidableEq, Repr

/-- R184: MU_VWIN. -/
def State.vwinOf (s : State) (c i : Nat) : VWin :=
  let r := s.regN (.vwin c i)
  ⟨bitOf r 31, field r 30 29, field r 26 24, field r 17 9, field r 8 0⟩

def State.vwinAt (s : State) (c slice row : Nat) : Option VWin :=
  ((List.range 16).map (s.vwinOf c)).find? (fun v => v.en && v.slice == slice && decide (v.base ≤ row ∧ row < v.base + v.rows))

/-- Word offset `w` within the 192 KiB of slices of cluster `c`. -/
def State.muPlace (s : State) (c w : Nat) : MuPlace :=
  if 12288 ≤ w then .bad 0
  else
    let slice := w / 1536
    let row := w % 1536 / 4
    if !bitOf (s.regN (.mu c .slicePwr)) slice then .bad 3
    else match s.vwinAt c slice row with
      | none => .plain w
      | some v =>
        if v.base + v.rows / 2 ≤ row then .bad 4
        else .versioned w w (w + 4 * (v.rows / 2))

/-- R175: the word that a read of place `p` returns. -/
def State.muReadAddr (s : State) (c : Nat) : MuPlace → Nat
  | .bad _ => 0
  | .plain w => devAddr c (16 * w)
  | .versioned w c0 c1 => devAddr c (16 * (if (s.mu c).sel.contains w then c1 else c0))

/-- R175: the word that a write of place `p` goes to. -/
def State.muWriteAddr (s : State) (c : Nat) : MuPlace → Nat
  | .bad _ => 0
  | .plain w => devAddr c (16 * w)
  | .versioned w c0 c1 => devAddr c (16 * (if (s.mu c).sel.contains w then c0 else c1))

def isVersioned : MuPlace → Bool
  | .versioned _ _ _ => true
  | _ => false

/-- Read a slice word whose place is good (R159, R175). -/
def State.readMu (s : State) (c w : Nat) : Word × State :=
  match s.muPlace c w with
  | .bad _ => (0, s)
  | p =>
    let (d, s1) := s.readStore (s.muReadAddr c p) (bayOf c) (locMu c) 0 0 c w (isVersioned p)
    (d.data, s1)

/-- R357: the committed copy of the frozen item `key`, the device address of a granule or word, joins the stream. -/
def State.capture (s : State) (key : Nat) (copy : List Word) : State :=
  ({ s with twin := { s.twin with
    frozen := s.twin.frozen.filter (· ≠ key)
    captured := s.twin.captured ++ [(key, copy)] } }).count (.twin .captures) 1

/-- R357: a write waits for its capture queue, number `owner`; it is counted once. -/
def State.holdWrite (s : State) (owner : Nat) : State :=
  if s.twin.holding.contains owner then s
  else ({ s with twin := { s.twin with holding := owner :: s.twin.holding } }).count (.twin .hold) 1

/-- Captured words of cluster `c` that wait. -/
def State.muCaptured (s : State) (c : Nat) : Nat := (s.twin.captured.filter (fun e => e.1 / 2 ^ 26 == devAddr c 0 / 2 ^ 26)).length

/-- R357: the step to `s'` holds when its writes find the capture queue of cluster `c`, 16 words, full. -/
def State.muHold (s : State) (c : Nat) (s' : State) : State :=
  if 16 < s'.muCaptured c ∧ s.muCaptured c < s'.muCaptured c then s.holdWrite (24 + c) else s'

/-- R357: a frozen word of a versioned window joins the stream with copy `sel` before it is written. -/
def State.muCapture (s : State) (c w : Nat) (p : MuPlace) : State :=
  let key := devAddr c (16 * w)
  if isVersioned p && s.twin.frozen.contains key then
    (s.readStore (s.muReadAddr c p) (bayOf c) (locMu c) 0 0 c w true).2.capture key
      [(s.readStore (s.muReadAddr c p) (bayOf c) (locMu c) 0 0 c w true).1.data]
  else s

/-- Write a slice word whose place is good; a word of a versioned window goes to its shadow and sets `wr` (R175). -/
def State.writeMu (s : State) (c w : Nat) (v : Word) : State :=
  match s.muPlace c w with
  | .bad _ => s
  | p =>
    let s1 := (s.muCapture c w p).putWord (s.muWriteAddr c p) v
    if isVersioned p then s1.modMu c (fun m => { m with wr := insertSorted w m.wr }) else s1

/-- R176: the load path writes copy `sel` and leaves `wr`; a frozen word is captured first (R357). A word that no access may name is an address fault of the control island's
(R5, R174; log entry 49). -/
def State.loadMu (s : State) (c w : Nat) (v : Word) : State :=
  match s.muPlace c w with
  | .bad k => s.addrFault (bayOf c) (devAddr c (16 * w)) 0xFFFFFFFF k none
  | p => (s.muCapture c w p).putWord (s.muReadAddr c p) v

/-- Read `n` words in ascending order. -/
def State.readMany (s : State) (rd : State → Nat → Word × State) (w : Nat) : Nat → List Word × State
  | 0 => ([], s)
  | n + 1 =>
    let (d, s1) := rd s w
    let (ds, s2) := s1.readMany rd (w + 1) n
    (d :: ds, s2)

def State.writeMany (s : State) (wr : State → Nat → Word → State) (w : Nat) : List Word → State
  | [] => s
  | d :: ds => (wr s w d).writeMany wr (w + 1) ds

/-- R161: does unit `unit` of a port (6 for DMA) stall, because the access it presents has been refused? -/
def State.portHeld (s : State) (c port unit : Nat) : Bool :=
  match (s.mu c).arb.shown.find? port with
  | some ⟨_, some r, true⟩ => decide (4 ≤ port) || (if r.dma then 6 else r.unit) == unit
  | _ => false

/-! ### Core-class counters (R106, R280, R281) -/

def syncKey (ctx k : Nat) : Nat := 32 * ctx + k

/-- The value a WAIT sees at `t`: a change counts from three cycles after it is made (R106). -/
def Sync.visible (y : Sync) (ctx k t : Nat) : Nat :=
  match y.recent.find? (fun c => c.counter == k && decide (t < c.from_)) with
  | some c => c.old
  | none => y.banks.get 0 (syncKey ctx k)

/-- The changes of counter `k` made in cycle `t`: its value before them and their sum. -/
def Sync.made (y : Sync) (ctx k t : Nat) : Nat × Int :=
  match y.recent.find? (fun c => c.counter == k && c.from_ == t + 3) with
  | some c => (c.old, c.sum)
  | none => (y.banks.get 0 (syncKey ctx k), 0)

/-- R106: change counter `k` by `n` in cycle `t`. The changes of one cycle are summed, and the sum saturates. -/
def Sync.change (y : Sync) (ctx k t : Nat) (n : Int) : Sync :=
  let (old, sum) := y.made ctx k t
  { y with
    banks := y.banks.set (syncKey ctx k) (min 0xFFFF (old + (sum + n)).toNat)
    recent := y.recent.filter (fun c => decide (t < c.from_) && !(c.counter == k && c.from_ == t + 3)) ++ [⟨k, t + 3, old, sum + n⟩] }

/-- R106: a WAIT that becomes satisfied in cycle `t` takes `n`, summed with the other changes of the cycle: the counter, and what is
seen of it, are `n` less at once (log entry 9). -/
def Sync.take (y : Sync) (ctx k t n : Nat) : Sync :=
  let (old, sum) := y.made ctx k t
  { y with
    banks := y.banks.set (syncKey ctx k) (min 0xFFFF (old + (sum - n)).toNat)
    recent := y.recent.map (fun c => if c.counter ≠ k then c
      else if c.from_ = t + 3 then { c with old := c.old - n, sum := c.old + c.sum - n - (c.old - n : Nat) } else { c with old := c.old - n }) }

/-- The active context (R57). -/
def State.active (s : State) : Nat := s.stitch.active

/-- The context whose bank of core-class counters is active (R280). -/
def State.bank (s : State) : Nat := s.stitch.bank

/-- Identifiers bound to a core-class counter of the active context (R283). -/
def State.bound (s : State) (ctx u k : Nat) (out : Bool) : List Nat :=
  (s.hsync.phys.filterMap (fun (_, h) => match h.bind with
    | some bd => if h.ctx == ctx && bd.out == out && bd.cu == u && bd.counter == k then some h.vid else none
    | none => none))

/-- The physical counter that a context's identifier is mapped to (R282). -/
def State.physOf (s : State) (ctx vid : Nat) : Option (Nat × HCounter) :=
  List.find? (fun e => e.2.ctx == ctx && e.2.vid == vid) s.hsync.phys

def State.setPhys (s : State) (p : Nat) (h : HCounter) : State :=
  { s with hsync := { s.hsync with phys := s.hsync.phys.set p h } }

/-- R283: an addition to a host-class counter saturates with an event. -/
def State.physBump (s : State) (p : Nat) (h : HCounter) (n : Nat) : State :=
  let s1 := s.setPhys p { h with value := satAdd 0xFFFFFFFF h.value n }
  if 0xFFFFFFFF < h.value + n then s1.raise 363 0x16 h.ctx h.vid 0 0 else s1

/-- R284: additions to the host-class counters that a context's identifiers name. -/
def State.physBumps (s : State) (ctx n : Nat) : List Nat → State
  | [] => s
  | v :: vs =>
    (match s.physOf ctx v with
    | some (p, h) => s.physBump p h n
    | none => s).physBumps ctx n vs

/-- Has the outcome of the stitch that bay `b` is in been applied, and was it clean? None before COMMIT_APPLY. A bay that runs out the
last cycles of the stitch before has that one's. -/
def State.settled (s : State) (b : Nat) : Option Bool :=
  if !(s.bay b).inStitch then some (s.stitch.lastResult != 2)
  else match s.stitch.phase, s.stitch.decision with
    | .applied, some d => some (d != .void)
    | .ended, some d => some (d != .void)
    | _, _ => none

/-- R279, R284: additions of a stitch to host-class counters collect beside bay `b` until its outcome is applied; later ones take
effect at once when it was clean, and are discarded when it was void. While no session runs they take effect at once. -/
def State.addOut (s : State) (b ctx n : Nat) (vids : List Nat) : State :=
  match s.stitch.session, s.settled b with
  | true, none => s.modBay b (fun y => { y with outForwards := y.outForwards ++ vids.map (fun v => (ctx, v, n)) })
  | true, some false => s
  | _, _ => s.physBumps ctx n vids

/-- R283, R284: an increment of an out-bound counter is forwarded. -/
def State.forwardOut (s : State) (u k n : Nat) : State :=
  match s.bound s.bank u k true with
  | [] => s
  | vids => s.addOut (bayOfCu u) s.bank n vids

/-- R106: would counter `k` exceed 0xFFFF by the changes made in cycle `t` so far? -/
def Sync.exceeds (y : Sync) (k t : Nat) : Bool :=
  match y.recent.find? (fun c => c.counter == k && c.from_ == t + 3) with
  | some c => decide (0xFFFF < c.old + c.sum)
  | none => false

/-- sync-counter-overflow of counter `k` in the cycle its bay is in. -/
def State.overflowReport (s : State) (u k : Nat) : Report :=
  let b := bayOfCu u
  ⟨b, 0x16, locCu u % 2 ^ 32, k % 2 ^ 32, 0, 0, s.bayTs b⟩

/-- R106: the event speaks of the sum of a cycle's changes. It is raised with the change that carries the sum beyond 0xFFFF, and taken
back by one of the same cycle that brings it within (log entry 9). `s1` is the machine with the change made. -/
def State.overflowAfter (s s1 : State) (u k : Nat) : State :=
  let t := (s.bay (bayOfCu u)).cycle
  let was := (s.cu u).sync.exceeds k t
  let is := (s1.cu u).sync.exceeds k t
  if is && !was then s1.report (s1.overflowReport u k)
  else if was && !is then { s1 with evt := { s1.evt with inflight := s1.evt.inflight.filter (· ≠ s1.overflowReport u k) } }
  else s1

/-- Change counter `k` of the active bank (R106). -/
def State.changeSync (s : State) (u k : Nat) (n : Int) : State :=
  s.overflowAfter (s.modCu u (fun cu => { cu with sync := cu.sync.change s.bank k (s.bay (bayOfCu u)).cycle n })) u k

/-- Add `n` to counter `k` of the active bank; an out-bound counter forwards it (R284). -/
def State.addSync (s : State) (u k n : Nat) : State := (s.changeSync u k n).forwardOut u k n

/-- R106: what a satisfied WAIT takes. -/
def State.subSync (s : State) (u k n : Nat) : State :=
  s.overflowAfter (s.modCu u (fun cu => { cu with sync := cu.sync.take s.bank k (s.bay (bayOfCu u)).cycle n })) u k

/-! ### Flags (R134) -/

/-- Set sticky flags of the STE (bits 3-0) or the vector pipeline (bits 7-4). -/
def State.stick (s : State) (u : Nat) (vec : Bool) (f : FlagSet) : State :=
  if f = 0 then s
  else s.hwSet (.cu u .flags) (fun r => r ||| regOf (f.toNat * (if vec then 16 else 1)))

end Sys2Proof.Machine
end

