-- ==== Sys2Proof/Machine/Operands.lean ====
section
/-! DEFINITION. Operand forms: scalar registers, operand, DMA, address-generator and window descriptors as the registers
hold them; the bytes an operand descriptor names. -/

namespace Sys2Proof.Machine

/-! ### Scalar registers (R70) -/

/-- s0 reads zero. -/
def Seq.sreg (q : Seq) (r : Nat) : BitVec 32 := if r = 0 then 0 else q.sregs.getD r 0

/-- s0 ignores writes. -/
def Seq.setSreg (q : Seq) (r : Nat) (v : BitVec 32) : Seq := if r = 0 then q else { q with sregs := q.sregs.set r v }

def State.sregN (s : State) (u r : Nat) : Nat := ((s.cu u).seq.sreg r).toNat

/-! ### Descriptors -/

/-- Operand descriptor `d` of CU `u`, its base increased by 16 x `off` (R91, R93). -/
def State.descOf (s : State) (u d off : Nat) : Desc :=
  let x := Desc.ofWords (s.regN (.desc u d 0)) (s.regN (.desc u d 1)) (s.regN (.desc u d 2)) (s.regN (.desc u d 3))
  { x with base := x.base + 16 * off }

/-- R168. -/
def agDescOf (w : Nat → Nat) : AgDesc :=
  { op := field (w 0) 31 28
    port := field (w 0) 27 26
    wide := bitOf (w 0) 25
    signal := bitOf (w 0) 24
    sigCu := field (w 0) 23 22
    sigCounter := field (w 0) 21 17
    base := field (w 1) 17 0
    counts := (List.range 5).map (fun j => field (w (2 + j)) 31 20 + 1)
    strides := (List.range 5).map (fun j => signed 20 (field (w (2 + j)) 19 0))
    idxSrc := field (w 7) 31 30
    idxBase := field (w 7) 17 0 }

def State.agDesc (s : State) (c d : Nat) : AgDesc := agDescOf (fun w => s.regN (.agDesc c d w))

/-- A remote-access window (R177). -/
structure Win where
  isOpen : Bool
  rd : Bool
  wr : Bool
  any : Bool
  external : Bool
  ctx : Nat
  base : Nat
  bytes : Nat
  x0 : Nat
  x1 : Nat
  y0 : Nat
  y1 : Nat
  deriving DecidableEq, Repr

def winOf (w : Nat → Nat) : Win :=
  { isOpen := bitOf (w 0) 31, rd := bitOf (w 0) 30, wr := bitOf (w 0) 29, any := bitOf (w 0) 28
    external := bitOf (w 0) 27, ctx := field (w 0) 26 25, base := field (w 0) 17 0, bytes := 16 * field (w 1) 13 0
    x0 := field (w 2) 8 0, x1 := field (w 2) 24 16, y0 := field (w 3) 8 0, y1 := field (w 3) 24 16 }

/-- A window-descriptor word in force: those loaded count from cycle 0 of the first work window (R177). -/
def State.winWord (s : State) (b : Nat) (id : RegId) : Nat :=
  match (s.bay b).winsHeld with
  | some l => ((l.find? (fun e => decide (e.1 = id))).map (fun e => e.2.toNat)).getD 0
  | none => s.regN id

def State.muWins (s : State) (c : Nat) : List Win :=
  (List.range 16).map (fun d => winOf (fun w => s.winWord (bayOf c) (.muWin c d w)))

def State.cuWins (s : State) (u : Nat) : List Win :=
  (List.range 16).map (fun d => winOf (fun w => s.winWord (bayOfCu u) (.cuWin u d w)))

/-- R178: does a window let the access in? -/
def Win.admits (v : Win) (ctx : Nat) (write : Bool) (lo len : Nat) (who : Sender) : Bool :=
  v.isOpen && v.ctx == ctx && (if write then v.wr else v.rd) && decide (v.base ≤ lo ∧ lo + len ≤ v.base + v.bytes)
  && (match who with
    | .cluster c => v.any || decide (v.x0 ≤ clX c ∧ clX c ≤ v.x1 ∧ v.y0 ≤ clY c ∧ clY c ≤ v.y1)
    | .outside _ _ => v.external)

/-! ### The bytes an operand names -/

/-- Word `w` of the source of a descriptor: scratchpad, or the slices of the cluster (R93). -/
def State.readSource (s : State) (u src w : Nat) : Word × State :=
  if src = 0 then s.readSp u w else s.readMu (u / 4) w

/-- The cause of the address fault of an access to word `w` of a source (R94, R172, R174, R181, R331); none when the word is
inside it and accessible. -/
def State.sourceBad (s : State) (u src w : Nat) : Option Nat :=
  if src = 0 then (if w < 1024 then none else some 0)
  else match s.muPlace (u / 4) w with
    | .bad c => some c
    | _ => none

/-- Is every word of the range inside the source and accessible? -/
def State.rangeOk (s : State) (u src lo n : Nat) : Bool := (List.range n).all (fun i => (s.sourceBad u src (lo + i)).isNone)

/-- Cause of the address fault of a range, for the first bad word. -/
def State.rangeCause (s : State) (u src lo n : Nat) : Nat :=
  ((List.range n).findSome? (fun i => s.sourceBad u src (lo + i))).getD 0

/-- Device address of byte `o` of a source. -/
def sourceAddr (u src o : Nat) : Nat := if src = 0 then spAddr u o else devAddr (u / 4) o

/-- The address fault of the lane of CU `u` at byte `o` of a source (R5, R94). -/
def State.sourceFault (s : State) (u src o cause : Nat) : State :=
  s.addrFault (bayOfCu u) (sourceAddr u src o) (locCu u) cause (some (bayOfCu u))

/-- Word `w` of an operand as its reader takes it, zero where the access faults (R5), and the state after the read's
consequences (R400, R401). -/
def State.readOperandWord (s : State) (u src w : Nat) : Word × State :=
  if (s.sourceBad u src w).isSome then (0, s) else s.readSource u src w

/-- Words of an operand, in order. -/
def State.readOperandWords (s : State) (u src : Nat) : List Nat → State
  | [] => s
  | w :: ws => (s.readOperandWord u src w).2.readOperandWords u src ws

/-- R94: the address fault of an operand that goes beyond its source, at the first word that does. -/
def State.operandFault (s : State) (u src : Nat) (ws : List Nat) : State :=
  match ws.findSome? (fun w => (s.sourceBad u src w).map (fun c => (w, c))) with
  | some (w, c) => s.sourceFault u src (16 * w) c
  | none => s

/-- Byte `a` of an operand's source as the memory stands. -/
def State.operandByte (s : State) (u src a : Nat) : Nat :=
  field (s.readOperandWord u src (a / 16)).1.toNat (8 * (a % 16) + 7) (8 * (a % 16))

/-- A whole operand from its source as the memory stands: what it holds and its malformed lines. A word beyond the source
reads zero (R5). -/
def State.operandOf (s : State) (u : Nat) (d : Desc) : Staged × List (Nat × Nat) := stageOperand (s.operandByte u d.source) d

/-- R146, R156: a malformed line or flit is an address fault of its own, recorded and counted. `side`: 0 A, 1 B,
2 destination, 3 vector input. `addr`: device address of the line's first byte, 0 for a flit, which has none (DESIGN CHOICE, log entry
59). -/
def State.malformed (s : State) (u side kind addr : Nat) : State :=
  let b := bayOfCu u
  let c := u / 4
  let s1 := (s.count (.bay b .sparseFaultCount) 1).record (.bay b .sparseFault) 31
    (kind * 2 ^ 27 + lyOf c * 2 ^ 21 + lxOf c * 2 ^ 16 + u % 4 * 2 ^ 14 + side * 2 ^ 12 + s.stitchLo 12)
  s1.addrFault b addr (locCu u) (5 + kind * 16) (some b)

/-- The malformed lines of an operand in source `src`: kind and first byte. -/
def State.malformedAll (s : State) (u side src : Nat) : List (Nat × Nat) → State
  | [] => s
  | k :: ks => (s.malformed u side k.1 (sourceAddr u src k.2)).malformedAll u side src ks

/-- What reading a whole operand does beside giving its elements: the reads' consequences, the address fault of a word
beyond the source (R94), the malformed lines of side `side` (R146). -/
def State.touchOperand (s : State) (u side : Nat) (d : Desc) : State :=
  let ws := operandWords (fun _ => true) (s.operandByte u d.source) d
  ((s.readOperandWords u d.source ws).operandFault u d.source ws).malformedAll u side d.source (s.operandOf u d).2

/-! ### The active image's numeric defaults (R133) -/

def State.numdef (s : State) (b : Nat) : Nat := s.regN (.bay b .numdefActive)

/-- R91, R126: the rounding mode a round field selects: 1 nearest-even, 2 toward zero, 3 stochastic. -/
def State.roundMode (s : State) (b round : Nat) : Nat := if round = 0 then s.numdef b % 4 + 1 else round

def State.e4m3Sat (s : State) (b : Nat) (bit : Bool) : Bool := bit || bitOf (s.numdef b) 8

end Sys2Proof.Machine
end

