-- ==== Sys2Proof/Machine/Ports.lean ====
section
/-! DEFINITION. The scratchpad banks and the slices of a memory unit (R77-R79, R158-R166). -/

namespace Sys2Proof.Machine

/-! ### Scratchpad banks (R79) -/

def State.modSp (s : State) (u : Nat) (f : SpArb → SpArb) : State := s.modCu u (fun cu => { cu with sp := f cu.sp })

/-- Read data on its way to requester `k`, due at `due`; data of earlier cycles has arrived. -/
def SpArb.send (x : SpArb) (k now due : Nat) (d : Word) : SpArb :=
  { x with out := x.out.set k ((x.out.get [] k).filter (fun e => decide (now ≤ e.2)) ++ [(d, due)]) }

/-- R78: bytes `off` to `off + n - 1` of a word replaced by those of `new`. -/
def mergeWord (old new : Word) (off n : Nat) : Word :=
  let o := leBytes 16 old.toNat
  let w := leBytes 16 new.toNat
  BitVec.ofNat 128 (leNat ((List.range 16).map (fun i => if off ≤ i ∧ i < off + n then w.getD i 0 else o.getD i 0)))

/-- A granted access; a read returns 2 cycles later (R77). A write of a part of a word reads it, writes it back and holds its bank in
the next cycle too (R78). A word beyond the scratchpad is an address fault, and a read of one returns zeros (R5). -/
def State.spGrant (s : State) (u : Nat) (r : SpReq) : State :=
  let b := bayOfCu u
  let t := (s.bay b).cycle
  if 1024 ≤ r.word then
    let s1 := s.addrFault b (spAddr u (16 * r.word)) (locCu u) 0 (if r.requester < 8 then some b else none)
    if r.write then s1 else s1.modSp u (fun x => x.send r.requester t (t + 2) 0)
  else if r.write then
    if r.off = 0 ∧ 16 ≤ r.bytes then s.writeSp u r.word r.data
    else
      let (d, s1) := s.readSp u r.word
      (s1.writeSp u r.word (mergeWord d r.data r.off r.bytes)).modSp u (fun x => { x with taken := x.taken.set (r.word % 4) (t + 1) })
  else
    let (d, s1) := s.readSp u r.word
    s1.modSp u (fun x => x.send r.requester t (t + 2) d)

/-- Cycles the unscheduled request of index `i` has waited at a bank. -/
def SpArb.waited (x : SpArb) (bank i : Nat) : Nat :=
  match x.waits.find? (bank, i) with
  | some (n, _) => n
  | none => 0

/-- An unscheduled request of index `i` is granted: its pointer moves and its wait ends. -/
def State.spUnscheduled (s : State) (u bank i : Nat) (r : SpReq) : State :=
  (s.modSp u (fun x => { x with ptrU := x.ptrU.set bank ((i + 1) % 3), waits := x.waits.erase (bank, i) })).spGrant u r

/-- A promotion is counted (R79). -/
def State.spPromoted (s : State) (u : Nat) : State := s.hwSet (.cu u .spConflict) (fun r => satField r 31 16 1)

/-- R79: the losers of a conflict are counted and the event raised. -/
def State.spConflict (s : State) (u n : Nat) : State :=
  let s1 := s.hwSet (.cu u .spConflict) (fun r => satField r 15 0 n)
  s1.raiseBay (bayOfCu u) 0x11 (s1.regN (.cu u .spConflict)) (locCu u) 0 0

/-- The unscheduled requests that were not granted have waited a cycle more. -/
def SpArb.wait (x : SpArb) (bank : Nat) (granted : Option Nat) : List SpReq → SpArb
  | [] => x
  | r :: rs =>
    let i := r.requester - 7
    let y := if granted = some r.requester then x
      else { x with waits := x.waits.set (bank, i) (x.waited bank i + 1, r) }
    y.wait bank granted rs

/-- R78: is the bank in the second cycle of a read-modify-write? -/
def State.spTaken (s : State) (u bank : Nat) : Bool := (s.cu u).sp.taken.find? bank == some (s.bay (bayOfCu u)).cycle

/-- One bank in one cycle (R78, R79). -/
def State.spBank (s : State) (u bank : Nat) (reqs : List SpReq) : State :=
  let here := reqs.filter (fun r => r.word % 4 == bank)
  let sched := here.filter (fun r => decide (r.requester < 7))
  let un := here.filter (fun r => decide (7 ≤ r.requester))
  let x := (s.cu u).sp
  let reqU (i : Nat) : Bool := un.any (fun r => r.requester == 7 + i)
  let promoted := rrPick 3 (x.ptrU.get 0 bank) (fun i => reqU i && decide (16 ≤ x.waited bank i))
  let winS := rrPick 7 (x.ptrS.get 0 bank) (fun i => sched.any (fun r => r.requester == i))
  let winU := rrPick 3 (x.ptrU.get 0 bank) reqU
  let granted : Option Nat := if s.spTaken u bank then none else match promoted, winS, winU with
    | some i, _, _ => some (7 + i)
    | none, some i, _ => some i
    | none, none, some i => some (7 + i)
    | none, none, none => none
  let s1 := s.modSp u (fun y => y.wait bank granted un)
  let s2 := match granted with
    | none => s1
    | some g =>
      match here.find? (fun r => r.requester == g) with
      | none => s1
      | some r =>
        if g < 7 then (s1.modSp u (fun y => { y with ptrS := y.ptrS.set bank ((g + 1) % 7) })).spGrant u r
        else
          let s' := s1.spUnscheduled u bank (g - 7) r
          if promoted.isSome ∧ sched ≠ [] then s'.spPromoted u else s'
  if 1 < sched.length then s2.spConflict u (sched.length - 1) else s2

/-- Does the bay run its units' clocks? -/
def State.bayRuns (s : State) (b : Nat) : Bool := (s.bay b).power == .active

def execScratchpadArbitration (t u : Nat) (reqs : List SpReq) (s0 : State) : Host.Outcome State Fault Refusal :=
  let s := s0.bayTime (bayOfCu u) t
  .next (if s.bayRuns (bayOfCu u) then (List.range 4).foldl (fun x bank => x.spBank u bank reqs) s else s)

/-- SCRATCHPAD_PROMOTION: the unscheduled request that has waited 16 cycles at the bank takes it (R79). -/
def State.spPromote (s : State) (u bank : Nat) : State :=
  let x := (s.cu u).sp
  match (if s.spTaken u bank then none else rrPick 3 (x.ptrU.get 0 bank) (fun i => decide (16 ≤ x.waited bank i))) with
  | none => s
  | some i =>
    match x.waits.find? (bank, i) with
    | none => s
    | some (_, r) => (s.spUnscheduled u bank i r).spPromoted u

def execScratchpadPromotion (t u bank : Nat) (s0 : State) : Host.Outcome State Fault Refusal :=
  let s := s0.bayTime (bayOfCu u) t
  .next (if s.bayRuns (bayOfCu u) then s.spPromote u bank else s)

/-! ### Slices (R158-R166) -/

def State.modArb (s : State) (c : Nat) (f : MuArb → MuArb) : State := s.modMu c (fun m => { m with arb := f m.arb })

/-- R158: a narrow access names one word. -/
def reqNarrow (r : MuReq) : Bool := r.count == 1

/-- R163: ports 0-5 and 7, DMA on a CU port apart. -/
def reqScheduled (r : MuReq) : Bool := r.port != 6 && !r.dma

def reqRow (r : MuReq) : Nat := r.first / 4

/-- Who made the access of a port: location word, and the bay that votes when it is the lane's (R5, R172). -/
def portOwner (c port : Nat) : Nat × Option Nat :=
  if port < 4 then (locCu (4 * c + port), some (bayOf c)) else (locMu c, if port = 6 then none else some (bayOf c))

/-- Read data on its way to a port, due at `due`; data of earlier cycles has arrived. -/
def MuArb.send (a : MuArb) (port now due : Nat) (ds : List Word) : MuArb :=
  { a with out := a.out.set port ((a.out.get [] port).filter (fun e => decide (now ≤ e.2)) ++ [(ds, due)]) }

/-- A granted access; a read returns 4 cycles later (R161), zeros where it is an address fault (R5). -/
def State.muGrant (s : State) (c slice : Nat) (r : MuReq) : State :=
  let w := 1536 * slice + r.first
  let t := (s.bay (bayOf c)).cycle
  let bad := (List.range r.count).findSome? (fun i => match s.muPlace c (w + i) with | .bad k => some k | _ => none)
  match bad with
  | some k =>
    let s1 := s.addrFault (bayOf c) (devAddr c (16 * w)) (portOwner c r.port).1 k (portOwner c r.port).2
    if r.write then s1 else s1.modArb c (fun a => a.send r.port t (t + 4) (List.replicate r.count 0))
  | none =>
    if r.write then s.writeMany (fun s' i d => s'.writeMu c i d) w (r.data.take r.count)
    else
      let (ds, s1) := s.readMany (fun s' i => s'.readMu c i) w r.count
      s1.modArb c (fun a => a.send r.port t (t + 4) ds)

/-- R164: a bank conflict: the losers are counted, the first unread conflict recorded, the event raised. -/
def State.muConflict (s : State) (c slice g n lowest : Nat) (wide : Bool) (bank : Nat) : State :=
  let b := bayOf c
  let s1 := (s.count (.mu c .conflict) n).record (.mu c .conflictLast) 31
    (g * 2 ^ 28 + lowest * 2 ^ 25 + slice * 2 ^ 22 + b2n wide * 2 ^ 21 + (if wide then 0 else bank) * 2 ^ 19 + s.stitchLo 16)
  s1.raiseBay b 0x22 (s1.regN (.mu c .conflictLast)) (locMu c) 0 0

/-- R165: a narrow access of a port is refused; the fifth refusal raises narrow-starvation. -/
def State.muRefuse (s : State) (c slice port bank : Nat) : State :=
  let n := (s.mu c).arb.refused.get 0 port + 1
  let s1 := (s.count (.mu c .narrowWait) 1).modArb c (fun a => { a with refused := a.refused.set port n })
  if n = 5 then
    (s1.count (.mu c .starve) 1).raiseBay (bayOf c) 0x23 (port + slice * 2 ^ 3 + bank * 2 ^ 6) (locMu c) 0 0
  else s1

/-- The word of a same-row hazard in the layout of MU_HAZARD_LAST, without its valid bit (R184). -/
def hazardWord (slice : Nat) (w n : MuReq) : Nat :=
  b2n (!w.write) * 2 ^ 30 + (1536 * slice + 4 * reqRow w) * 2 ^ 16 + b2n (w.write && n.write) * 2 ^ 15 + (1536 * slice + n.first)

/-- R166: a same-row hazard between a granted wide access and a displaced narrow one. The event names this hazard's words as MU_HAZARD_LAST
reports them, also while that register keeps an earlier one (DESIGN CHOICE, log entry 63). -/
def State.muHazard (s : State) (c slice : Nat) (w n : MuReq) : State :=
  if reqRow w = reqRow n ∧ (w.write = true ∨ n.write = true) then
    ((s.count (.mu c .hazard) 1).record (.mu c .hazardLast) 31 (hazardWord slice w n)).raiseBay (bayOf c) 0x24
      (hazardWord slice w n + 2 ^ 31) (locMu c) 0 0
  else s
/-- Displace narrow requests by a granted wide access. -/
def State.muDisplace (s : State) (c slice : Nat) (w : MuReq) : List MuReq → State
  | [] => s
  | n :: ns => ((s.muHazard c slice w n).muRefuse c slice n.port (n.first % 4)).muDisplace c slice w ns

/-- Requests of a class, arbitrated by R27 under pointer `key`: the one granted. -/
def State.muPick (s : State) (c key : Nat) (rs : List MuReq) : Option MuReq :=
  match rrPick 8 ((s.mu c).arb.ptr.get 0 key) (fun p => rs.any (fun r => r.port == p)) with
  | none => none
  | some p => rs.find? (fun r => r.port == p)

def lowestPort (g : Nat) (rs : List MuReq) : Nat := ((List.range 8).find? (fun p => p != g && rs.any (fun r => r.port == p))).getD 0

/-- Grant among requests of one width and place: scheduled first (R163), with the conflict of R164. `key` is the scheduled
pointer, `keyU` the unscheduled one. -/
def State.muArbitrate (s : State) (c slice key keyU : Nat) (wide : Bool) (bank : Nat) (rs : List MuReq) : Option MuReq × State :=
  let sc := rs.filter reqScheduled
  let (g, k) := if sc ≠ [] then (s.muPick c key sc, key) else (s.muPick c keyU rs, keyU)
  match g with
  | none => (none, s)
  | some r =>
    let s1 := s.modArb c (fun a => { a with ptr := a.ptr.set k ((r.port + 1) % 8), refused := a.refused.erase r.port
                                            dmaWait := if r.dma then a.dmaWait.erase r.port else a.dmaWait
                                            shown := a.shown.set r.port ⟨(s.bay (bayOf c)).cycle, none, true⟩ })
    let s2 := if 1 < sc.length then s1.muConflict c slice r.port (sc.length - 1) (lowestPort r.port sc) wide bank else s1
    (some r, s2)

/-- R162: the access port `p` chooses among those that ask for it: a DMA request that has waited 16 cycles, else a scheduled one by
R27, else DMA. -/
def MuArb.choose (a : MuArb) (p : Nat) (mine : List MuReq) : Option MuReq :=
  let dma := mine.find? (fun r => r.dma)
  let sch := (rrPick 6 (a.ptr.get 0 (80 + p)) (fun i => mine.any (fun r => !r.dma && r.unit == i))).bind
    (fun i => mine.find? (fun r => !r.dma && r.unit == i))
  let waited := match a.dmaWait.find? p with | some (n, _) => n | none => 0
  match dma, sch with
  | some d, some x => some (if 16 ≤ waited then d else x)
  | some d, none => some d
  | none, x => x

/-- A DMA request that port `p` does not present has waited a cycle more, once in each cycle (R162). -/
def MuArb.waitDma (a : MuArb) (p t : Nat) (mine : List MuReq) (got : Option MuReq) : MuArb :=
  match mine.find? (fun r => r.dma) with
  | none => a
  | some d =>
    let (n, last) := match a.dmaWait.find? p with | some (n, k, _) => (n, some k) | none => (0, none)
    if got = some d ∨ last = some t then a else { a with dmaWait := a.dmaWait.set p (n + 1, t, d) }

/-- R161: port `p` in cycle `t`. One whose access was refused presents the same again; another that has presented none in this cycle
chooses one. -/
def MuArb.present (a : MuArb) (p t : Nat) (reqs : List MuReq) : MuArb :=
  let mine := reqs.filter (fun r => r.port == p)
  match a.shown.find? p with
  | some ⟨_, some r, _⟩ => a.waitDma p t mine (some r)
  | x =>
    if x.any (fun e => e.at_ == t) then a
    else
      let g := a.choose p mine
      let a1 := a.waitDma p t mine g
      match g with
      | none => a1
      | some r => { a1 with
          shown := a1.shown.set p ⟨t, some r, false⟩
          ptr := if p < 4 ∧ !r.dma then a1.ptr.set (80 + p) ((r.unit + 1) % 6) else a1.ptr }

/-- The accesses that the ports present to a slice in cycle `t`. -/
def MuArb.at_ (a : MuArb) (slice t : Nat) : List MuReq :=
  (List.range 8).filterMap (fun p => match a.shown.find? p with
    | some ⟨k, some r, tried⟩ => if r.slice = slice ∧ !(tried ∧ k = t) then some r else none
    | _ => none)

/-- Those that were not granted have been presented in cycle `t`. -/
def MuArb.tried (a : MuArb) (t : Nat) (rs : List MuReq) : MuArb :=
  rs.foldl (fun a r => if (a.shown.find? r.port).any (fun e => e.req == some r) then { a with shown := a.shown.set r.port ⟨t, some r, true⟩ }
    else a) a

/-- Narrow requests of one bank. -/
def State.muBank (s : State) (c slice bank : Nat) (narrow : List MuReq) : State :=
  let nb := narrow.filter (fun r => r.first % 4 == bank)
  let (g, s1) := s.muArbitrate c slice (10 * slice + 2 + bank) (10 * slice + 6 + bank) false bank nb
  let s2 := (nb.filter (fun r => g != some r)).foldl (fun x r => x.muRefuse c slice r.port bank) s1
  match g with
  | some r => s2.muGrant c slice r
  | none => s2

/-- R163: one slice in one cycle. `reqs` are the requests of the cycle at every port, whatever slice they name. -/
def State.muSlice (s : State) (c slice : Nat) (reqs : List MuReq) : State :=
  let t := (s.bay (bayOf c)).cycle
  let sp := s.modArb c (fun a => (List.range 8).foldl (fun a p => a.present p t reqs) a)
  let shown := (sp.mu c).arb.at_ slice t
  let s0 := sp.modArb c (fun a => a.tried t shown)
  let wide := shown.filter (fun r => !reqNarrow r)
  let narrow := shown.filter reqNarrow
  let (g, s1) := s0.muArbitrate c slice (10 * slice) (10 * slice + 1) true 0 wide
  match g with
  | some w => (s1.muDisplace c slice w narrow).muGrant c slice w
  | none => (List.range 4).foldl (fun x bank => x.muBank c slice bank narrow) s1

def execSliceArbitration (t c slice : Nat) (reqs : List MuReq) (s0 : State) : Host.Outcome State Fault Refusal :=
  let s := s0.bayTime (bayOf c) t
  .next (if s.bayRuns (bayOf c) then s.muHold c (s.muSlice c slice reqs) else s)

/-- NARROW_STARVATION: the fifth refusal of a port's narrow access (R165). -/
def execNarrowStarvation (t c port slice bank : Nat) (s0 : State) : Host.Outcome State Fault Refusal :=
  let s := s0.bayTime (bayOf c) t
  .next (if s.bayRuns (bayOf c) && (s.mu c).arb.refused.get 0 port == 4 then s.muRefuse c slice port bank else s)

/-- CU_PORT_DMA_PROMOTION: the DMA request that has waited 16 cycles takes its CU port and is presented to its slice (R162); a port
that holds a refused access presents that first (R161). -/
def State.promoteDma (s : State) (c port : Nat) : State :=
  match (s.mu c).arb.dmaWait.find? port with
  | some (n, _, r) => if 16 ≤ n then s.muSlice c r.slice [r] else s
  | none => s

def execCuPortDmaPromotion (t u : Nat) (s0 : State) : Host.Outcome State Fault Refusal :=
  let s := s0.bayTime (bayOfCu u) t
  .next (if s.bayRuns (bayOfCu u) then s.muHold (u / 4) (s.promoteDma (u / 4) (u % 4)) else s)

end Sys2Proof.Machine
end

