-- ==== Sys2Proof/Machine/Flags.lean ====
section
/-! DEFINITION. The bay summary of the sticky arithmetic flags (R134, R135). -/

namespace Sys2Proof.Machine

/-- The OR of CU_FLAGS over a bay's CUs, CUs with any flag, CUs with an invalid flag. -/
def State.flagSummary (s : State) (b : Nat) : Nat × Nat × Nat :=
  let fs := (s.busyCus b).map (fun u => s.regN (.cu u .flags) % 256)
  (fs.foldl (· ||| ·) 0, (fs.filter (· ≠ 0)).length, (fs.filter (fun f => bitOf f 3 || bitOf f 7)).length)

/-- R133: the enable bits of the numeric-defaults word over the eight flags. -/
def flagEnables (numdef : Nat) : Nat := field numdef 7 4 * 17

/-- R135: the summary of one hem. -/
def State.summarise (s : State) (b : Nat) : State :=
  let (f, any_, inv) := s.flagSummary b
  let old := s.regN (.bay b .arithFlags)
  let new := old ||| f
  let cus := regOf (any_ + inv * 2 ^ 16)
  let s1 := (s.hwSet (.bay b .arithFlags) (fun r => r ||| regOf f)).setReg (.bay b .arithCus) cus
  if (new &&& (255 - old % 256)) &&& flagEnables (s.numdef b) ≠ 0 then s1.raiseBay b 0x12 new cus.toNat 0 0 else s1

end Sys2Proof.Machine
end

