-- ==== Sys2Proof/Machine/Issue.lean ====
section
/-! DEFINITION. What the slots of a bundle start: tensor, vector, move and link slots (R91, R101, R105, R212), as the
operations that both BUNDLE_ISSUE and the single-slot commands call. -/

namespace Sys2Proof.Machine

/-! ### Tensor slot -/

/-- R73: room in the STE queue. -/
def Cu.steRoom (cu : Cu) : Bool := decide (cu.ste.queue.length < 2)

/-- Queue an MM (`clear`), MMA or DRAIN (R91). The scalar offsets are taken as the bundle issues. -/
def State.issueTensor (s : State) (u : Nat) (drain clear : Bool) (op : TensorOp) : State :=
  let offA := s.sregN u op.sregA
  let offB := s.sregN u op.sregB
  let job : SteJob :=
    { drain := drain, op := op, clear := clear, a := s.descOf u op.descA offA, b := s.descOf u op.descB offB
      d := s.descOf u op.descD offB, stA := none, stB := none, ldA := Loading.start, ldB := Loading.start
      no := (s.cu u).issues }
  s.modCu u (fun cu => { cu with issues := cu.issues + 1, ste := { cu.ste with queue := cu.ste.queue ++ [job] } })

/-! ### Vector slot -/

def Cu.vecRoom (cu : Cu) : Bool := decide (cu.vec.queue.length < 2)

def State.issueVector (s : State) (u : Nat) (op : VecOp) : State :=
  let job : VecJob :=
    { op := op, x := s.descOf u op.descX 0, y := s.descOf u op.descY 0, d := s.descOf u op.descD 0, no := (s.cu u).issues }
  s.modCu u (fun cu => { cu with issues := cu.issues + 1, vec := { cu.vec with queue := cu.vec.queue ++ [job] } })

/-! ### Move slot -/

def Cu.dmaRoom (cu : Cu) : Bool := decide (cu.dma.queue.length < 8)

/-- R103, R105: queue DMA descriptor `d` with its scalar offsets. -/
def State.issueDma (s : State) (u d ss sd : Nat) : State :=
  let w (i : Nat) : Nat := s.regN (.dmaDesc u d i)
  let x : Xfer :=
    { src := (w 0 + field (w 1) 15 0 * 2 ^ 32 + 16 * s.sregN u ss) % 2 ^ 48
      dst := (field (w 1) 31 16 + w 2 * 2 ^ 16 + 16 * s.sregN u sd) % 2 ^ 48
      units := field (w 3) 31 12, counter := field (w 3) 11 7, signal := bitOf (w 3) 6
      todo := [], slots := [], err := false, moved := false, ready := 0 }
  s.modCu u (fun cu => { cu with dma := { cu.dma with queue := cu.dma.queue ++ [x] } })

def Cu.chan (cu : Cu) (k : Nat) : Chan := cu.msg.chans.get Chan.reset k
def Cu.setChan (cu : Cu) (k : Nat) (v : Chan) : Cu := { cu with msg := { cu.msg with chans := cu.msg.chans.set k v } }

/-- R257, R258: queue a SEND, or refuse it when the channel's queue of four is full. -/
def State.issueSend (s : State) (u ch r len : Nat) : State :=
  let w1 := s.regN (.chan u ch 1)
  let c := (s.cu u).chan ch
  if 4 ≤ c.queue.length then
    let s1 := s.count (.cu u .msgBusy) 1
    if bitOf w1 25 then s1.addSync u (field w1 24 20) 1 else s1
  else
    let job : SendJob := ⟨len + 1, 16 * field w1 9 0 + 16 * s.sregN u r, (c.count + 1) % 65536⟩
    s.modCu u (fun cu => cu.setChan ch { c with queue := c.queue ++ [job], count := c.count + 1 })

/-- R105: is WAIT or WAITGE satisfied at the CU's cycle? -/
def State.waitOk (s : State) (u k n : Nat) : Bool :=
  decide (n ≤ (s.cu u).sync.visible s.bank k (s.bay (bayOfCu u)).cycle)

/-- The effect of a satisfied WAIT (subtract) or WAITGE (none). -/
def State.waitTake (s : State) (u k n : Nat) (ge : Bool) : State := if ge then s else s.subSync u k n

/-! ### Link slot -/

/-- R212: route entry `e` is active from the next cycle. -/
def State.issueRoute (s : State) (u e : Nat) : State :=
  let t := (s.bay (bayOfCu u)).cycle
  s.modCu u (fun cu => { cu with fab := { cu.fab with entry := ⟨cu.fab.entry.at t, e, t + 1⟩ } })

def Cu.spinRoom (cu : Cu) (link : Nat) : Bool := decide ((cu.fab.spins.get [] link).length < 2)

def State.issueSpin (s : State) (u link d r : Nat) : State :=
  let job : SpinJob := ⟨s.descOf u d (s.sregN u r), 0, 0⟩
  s.modCu u (fun cu => { cu with fab := { cu.fab with spins := cu.fab.spins.set link (cu.fab.spins.get [] link ++ [job]) } })

def Mu.gen (m : Mu) (g : Nat) : Gen := m.gens.get Gen.reset g
def Mu.setGen (m : Mu) (g : Nat) (v : Gen) : Mu := { m with gens := m.gens.set g v }
def Mu.port (m : Mu) (p : Nat) : FabPort := m.ports.get FabPort.reset p
def Mu.setPort (m : Mu) (p : Nat) (v : FabPort) : Mu := { m with ports := m.ports.set p v }

/-- R167: room in a generator's start queue. -/
def State.agRoom (s : State) (u g : Nat) : Bool := decide ((((s.mu (u / 4)).gen g).queue).length < 2)

/-- R167: a start enters the queue; those of one cycle stand in the order R27 gives over CU indices. One that finds the queue full
stalls, and displaces none that entered before it in that cycle (DESIGN CHOICE, log entry 50). -/
def Gen.enter (x : Gen) (a : AgStart) : Gen :=
  let same := decide (x.at_ = some a.at_)
  let base := if same then x.base else x.ptr
  let turn (cu : Nat) : Nat := (cu + 4 - base % 4) % 4
  let far := if same then max (turn (x.ptr + 3)) (turn a.cu) else turn a.cu
  let before (b : AgStart) : Bool := decide (b.at_ ≠ a.at_ ∨ turn b.cu ≤ turn a.cu)
  { x with
    queue := x.queue.takeWhile before ++ a :: x.queue.dropWhile before
    ptr := (base + far + 1) % 4, at_ := some a.at_, base := base }

def State.issueAgstart (s : State) (u g d r : Nat) : State :=
  let st : AgStart := ⟨u % 4, d, s.sregN u r, (s.bay (bayOfCu u)).cycle⟩
  s.modMu (u / 4) (fun m => m.setGen g ((m.gen g).enter st))

/-- Has the queue that a slot names room (R73, R167, R213)? -/
def State.slotRoom (s : State) (u : Nat) : SlotJob → Bool
  | .tensor _ _ _ => (s.cu u).steRoom
  | .vector _ => (s.cu u).vecRoom
  | .dma _ _ _ => (s.cu u).dmaRoom
  | .spin link _ _ => (s.cu u).spinRoom link
  | .agstart g _ _ => s.agRoom u g

/-- Start the work of a slot. -/
def State.issueSlot (s : State) (u : Nat) : SlotJob → State
  | .tensor drain clear op => s.issueTensor u drain clear op
  | .vector op => s.issueVector u op
  | .dma d ss sd => s.issueDma u d ss sd
  | .spin link d r => s.issueSpin u link d r
  | .agstart g d r => s.issueAgstart u g d r

/-- R212, R218: target 0 this CU, 1 and 2 fabric ports 0 and 1. -/
def State.issueTag (s : State) (u target r : Nat) : State :=
  let t := (s.bay (bayOfCu u)).cycle
  let v := s.sregN u r % 16
  if target = 0 then s.modCu u (fun cu => { cu with fab := { cu.fab with tag := ⟨cu.fab.tag.at t, v, t + 1⟩ } })
  else s.modMu (u / 4) (fun m =>
    m.setPort (target - 1) { m.port (target - 1) with tag := ⟨(m.port (target - 1)).tag.at t, v, t + 1⟩ })

end Sys2Proof.Machine
end

