-- ==== Sys2Proof/Machine/Lane.lean ====
section
/-! DEFINITION. The scalar sequencer: bundles, the control slot, stalls, the stitch-end marker (R31, R32, R68-R76, R105,
R212, R405). A command of this family is not due, and leaves the machine as it is but for the time, when its lane is not in
the condition it names (log entry 2). -/

namespace Sys2Proof.Machine

def State.modSeq (s : State) (u : Nat) (f : Seq → Seq) : State := s.modCu u (fun cu => { cu with seq := f cu.seq })

/-- Is the bay in the bay set of the active image, so that its lanes run (R32)? -/
def State.hasLanes (s : State) (b : Nat) : Bool :=
  match s.ctx? s.active with
  | some c => c.image.bays.contains b
  | none => false

/-- May the lane of CU `u` act: a work stitch, cycle 0 begun, cycle W not reached, the lane neither ended nor halted? -/
def State.laneRuns (s : State) (u : Nat) : Bool :=
  let y := s.bay (bayOfCu u)
  let q := (s.cu u).seq
  s.stitch.session && s.stitch.kind == .work && y.inStitch && !y.windowOver && s.hasLanes (bayOfCu u) && !q.ended && !q.stopped && !q.overrun

/-- The lane runs and no stall holds it. -/
def State.laneFree (s : State) (u : Nat) : Bool := s.laneRuns u && decide ((s.cu u).seq.stall = .none)

/-! ### Control slot (R70, R71) -/

/-- After this bundle, nothing issues for `n` cycles. R70 gives n from 1 on and no check refuses 0, which holds nothing
(DESIGN CHOICE, log entry 33). -/
def State.ctlHold (s : State) (u n : Nat) : State :=
  let t := (s.bay (bayOfCu u)).cycle
  if n = 0 then s else s.modSeq u (fun q => { q with ready := t + n + 1, stall := .hold (t + n + 1) })

def State.ctlLoop (s : State) (u count : Nat) : State :=
  s.modSeq u (fun q => { q with loops := (q.next, count) :: q.loops })

/-- R70, R71. A LOOP count of 0, below the range of R70, runs the body once (DESIGN CHOICE, log entry 33). -/
def Seq.endloop (q : Seq) : Seq :=
  match q.loops with
  | [] => q
  | (start, n) :: rest => if 1 < n then { q with next := start, loops := (start, n - 1) :: rest } else { q with loops := rest }

def State.ctlEndloop (s : State) (u : Nat) : State := s.modSeq u Seq.endloop

def State.ctlSeti (s : State) (u r : Nat) (imm : BitVec 12) : State :=
  s.modSeq u (fun q => q.setSreg r (imm.zeroExtend 32))

def State.ctlAddi (s : State) (u r : Nat) (imm : BitVec 12) : State :=
  s.modSeq u (fun q => q.setSreg r (q.sreg r + imm.signExtend 32))

/-- The slot PRED and EXIT name (R70). -/
def State.slotOf (s : State) (u r : Nat) (imm : BitVec 11) : Nat := (s.sregN u r + imm.toNat) % 2048

/-- The active sequence mask (R55). -/
def State.seqMask (s : State) : BitVec 2048 := match s.ctx? s.active with | some c => c.mask | none => 0

def State.ctlPred (s : State) (u r : Nat) (imm : BitVec 11) : State :=
  s.modSeq u (fun q => { q with pred := s.seqMask.getLsbD (s.slotOf u r imm) })

def State.ctlPredon (s : State) (u : Nat) : State := s.modSeq u (fun q => { q with pred := true })

def State.addExit (s : State) (slot : Nat) : State :=
  s.modStitch (fun x => { x with exits := x.exits ||| (1#2048 <<< slot) })

def State.ctlExit (s : State) (u r : Nat) (imm : BitVec 11) : State := s.addExit (s.slotOf u r imm)

/-- R387: a BRACE of level 1-8 arms the bay 4 µs later; level 0 disarms it at once and cancels the waiting ones. -/
def State.ctlBrace (s : State) (u level : Nat) : State :=
  let b := bayOfCu u
  let y := s.bay b
  let from_ := y.cycle + ceilDiv (4000 * s.mhz b) 1000
  s.setBay b { y with gov :=
    if level = 0 then { y.gov with armed := false, braceLevel := 0, braces := [] }
    else { y.gov with braces := y.gov.braces ++ [(from_, level)] } }

/-- R74: a LAUNCH whose value has passed does not wait; its bay raises launch-late. -/
def State.launchLate (s : State) (u v : Nat) : State := s.raiseBay (bayOfCu u) 9 0 (locCu u) v 0

/-- R70: LAUNCH as a single command. -/
def State.ctlLaunch (s : State) (u r : Nat) : State :=
  let v := s.sregN u r
  let t := (s.bay (bayOfCu u)).cycle
  if v < t then s.launchLate u v
  else if v = t then s
  else s.modSeq u (fun q => { q with stall := .launch v false })

/-- R32: the stitch-end marker issues. -/
def State.ctlEnd (s : State) (u : Nat) : State := s.modSeq u (fun q => { q with ended := true })

/-! ### Bundles (R68, R69) -/

/-- R405: one step of reflected CRC-32C over a byte. -/
def crcByte (r : BitVec 32) (x : Nat) : BitVec 32 :=
  (List.range 8).foldl (fun a _ => if a.getLsbD 0 then (a >>> 1) ^^^ 0x82F63B78#32 else a >>> 1) (r ^^^ BitVec.ofNat 32 (x % 256))

/-- R405: fold bundle number and loop depth, two bytes little-endian. -/
def foldSig (r : BitVec 32) (pc depth : Nat) : BitVec 32 :=
  let v := pc % 512 + 512 * depth
  crcByte (crcByte r (v % 256)) (v / 256)

/-- R91. -/
def tensorOpOf (x : Nat) : TensorOp :=
  { descA := field x 27 24, descB := field x 23 20, descD := field x 19 16, tile := field x 15 15, last := bitOf x 14
    overflow := bitOf x 13, round := field x 12 11, satFinite := bitOf x 10, reuseB := bitOf x 9, sregA := field x 8 5
    sregB := field x 4 1, pred := bitOf x 0 }

/-- R101. -/
def vecOpOf (x : Nat) : VecOp :=
  { alu := field x 31 28, fma := field x 27 26, sfu := field x 25 24, pack := field x 23 20, descX := field x 19 16
    descY := field x 15 12, descD := field x 11 8, width := bitOf x 7, round := field x 6 5, overflow := bitOf x 4
    constPair := field x 3 2, satFinite := bitOf x 1, pred := bitOf x 0 }

/-- Does a predicated slot with pred bit `bit` act (R72)? -/
def State.slotOn (s : State) (u : Nat) (bit : Bool) : Bool := !bit || (s.cu u).seq.pred

/-- What keeps a bundle from issuing (R70, R73, R105). -/
inductive Block
  | go
  | full
  | wait (k n : Nat) (ge : Bool)
  | launch (v : Nat)
  deriving DecidableEq, Repr

/-- Is the target of some acting slot of the bundle full (R73, R167, R213)? -/
def State.bundleFull (s : State) (u x : Nat) : Bool :=
  let cu := s.cu u
  let ten := field x 103 72
  let vec := field x 71 40
  let mov := field x 39 20
  let lnk := field x 19 0
  (field ten 31 28 ≠ 0 && s.slotOn u (bitOf ten 0) && !cu.steRoom)
  || (vec ≠ 0 && s.slotOn u (bitOf vec 0) && !cu.vecRoom)
  || (field mov 19 16 == 1 && s.slotOn u (bitOf mov 0) && !cu.dmaRoom)
  || (field lnk 19 16 == 2 && !cu.spinRoom (field lnk 15 14))
  || (field lnk 19 16 == 3 && !s.agRoom u (field lnk 15 14))

def State.bundleBlock (s : State) (u x : Nat) (skipWait skipLaunch : Bool) : Block :=
  let mov := field x 39 20
  let op := field mov 19 16
  let t := (s.bay (bayOfCu u)).cycle
  let v := s.sregN u (field x 119 116)
  if s.bundleFull u x then .full
  else if !skipWait && (op == 4 || op == 5) && s.slotOn u (bitOf mov 0) && !s.waitOk u (field mov 15 11) (field mov 10 1) then
    .wait (field mov 15 11) (field mov 10 1) (op == 5)
  else if !skipLaunch && field x 127 120 == 0x0A && decide (t < v) then .launch v
  else .go

def State.issueTensorSlot (s : State) (u x : Nat) : State :=
  let op := tensorOpOf x
  if !s.slotOn u op.pred then s
  else match field x 31 28 with
    | 1 => s.issueTensor u false true op
    | 2 => s.issueTensor u false false op
    | 3 => s.issueTensor u true false op
    | _ => s

def State.issueVectorSlot (s : State) (u x : Nat) : State :=
  let op := vecOpOf x
  if x = 0 ∨ s.slotOn u op.pred = false then s else s.issueVector u op

def State.issueMoveSlot (s : State) (u x : Nat) : State :=
  if !s.slotOn u (bitOf x 0) then s
  else match field x 19 16 with
    | 1 => s.issueDma u (field x 15 13) (field x 12 9) (field x 8 5)
    | 2 => s.issueSend u (field x 15 13) (field x 12 9) (field x 8 3)
    | 3 => s.addSync u (field x 15 11) (field x 10 1)
    | 4 => s.waitTake u (field x 15 11) (field x 10 1) false
    | _ => s

def State.issueLinkSlot (s : State) (u x : Nat) : State :=
  match field x 19 16 with
  | 1 => s.issueRoute u (field x 15 12)
  | 2 => s.issueSpin u (field x 15 14) (field x 13 10) (field x 9 6)
  | 3 => s.issueAgstart u (field x 15 14) (field x 13 10) (field x 9 6)
  | 4 => s.issueTag u (field x 15 14) (field x 13 10)
  | _ => s

def State.issueControl (s : State) (u x : Nat) : State :=
  let r := field x 119 116
  let imm := BitVec.ofNat 12 (field x 115 104)
  let im11 := BitVec.ofNat 11 (field x 114 104)
  match field x 127 120 with
  | 0x01 => s.ctlHold u (field x 119 104)
  | 0x02 => s.ctlLoop u (field x 119 108)
  | 0x03 => s.ctlEndloop u
  | 0x04 => s.ctlSeti u r imm
  | 0x05 => s.ctlAddi u r imm
  | 0x06 => s.ctlPred u r im11
  | 0x07 => s.ctlPredon u
  | 0x08 => s.ctlExit u r im11
  | 0x09 => s.ctlBrace u (field x 111 104)
  | 0x0F => s.ctlEnd u
  | _ => s

/-- All slots of the bundle issue (R69): the predicate and scalars are those before its control slot acts. -/
def State.issueBundle (s : State) (u x : Nat) (launched : Bool) : State :=
  let t := (s.bay (bayOfCu u)).cycle
  let s0 := s.modSeq u (fun q => { q with
    sig := foldSig q.sig q.next q.loops.length, last := q.next, next := q.next + 1, ready := t + 1, stall := .none })
  let s1 := s0.issueTensorSlot u (field x 103 72)
  let s2 := s1.issueVectorSlot u (field x 71 40)
  let s3 := s2.issueMoveSlot u (field x 39 20)
  let s4 := s3.issueLinkSlot u (field x 19 0)
  let v := s.sregN u (field x 119 116)
  let s5 := if field x 127 120 == 0x0A && !launched && decide (v < t) then s4.launchLate u v else s4
  s5.issueControl u x

/-- Fetch the bundle at `next` and issue it, or stall (R69, R73, R74, R76, R105). -/
def State.fetchIssue (s : State) (u : Nat) (skipWait skipLaunch : Bool) : State :=
  let b := bayOfCu u
  let pc := (s.cu u).seq.next
  let (d, s1) := s.readStore (laneAddr u (16 * pc)) b (locCu u) 2 (u % 4) (u / 4) pc false
  if d.verdict = 2 then
    s1.modSeq u (fun q => { q with stopped := true, last := pc })
  else
    let x := d.data.toNat
    match s1.bundleBlock u x skipWait skipLaunch with
    | .go => s1.issueBundle u x skipLaunch
    | .full => s1.modSeq u (fun q => { q with stall := .engine, last := pc })
    | .wait k n ge => s1.modSeq u (fun q => { q with stall := .wait k n ge true, last := pc })
    | .launch v => s1.modSeq u (fun q => { q with stall := .launch v true, last := pc })

/-- R73: a single-slot command that waits for room issues when its queue has some. -/
def State.slotRetry (s : State) (u : Nat) (j : SlotJob) : State :=
  if s.slotRoom u j then (s.modSeq u (fun q => { q with stall := .none })).issueSlot u j else s

/-- BUNDLE_ISSUE: the next bundle, or the slot that waits for room in its queue. -/
def opBundleIssue (t u : Nat) (s0 : State) : State :=
  let s := s0.bayTime (bayOfCu u) t
  let q := (s.cu u).seq
  if !s.laneRuns u || decide ((s.bay (bayOfCu u)).cycle < q.ready) then s
  else match q.stall with
    | .slot j => s.slotRetry u j
    | .none => s.fetchIssue u false false
    | .engine => s.fetchIssue u false false
    | _ => s

def execBundleIssue (t u : Nat) (s : State) : Host.Outcome State Fault Refusal := .next (opBundleIssue t u s)

/-- A single-slot command of a free lane, at its time. -/
def State.onLane (s0 : State) (t u : Nat) (f : State → State) : State :=
  let s := s0.bayTime (bayOfCu u) t
  if s.laneFree u then f s else s

/-- R72: a predicated slot that needs no room. -/
def State.slotIf (s : State) (u : Nat) (pred : Bool) (f : State → State) : State := if s.slotOn u pred then f s else s

/-- R72, R73: a predicated slot that starts work, or waits for room in its queue. -/
def State.slotAct (s : State) (u : Nat) (pred : Bool) (j : SlotJob) : State :=
  s.slotIf u pred (fun x => if x.slotRoom u j then x.issueSlot u j else x.modSeq u (fun q => { q with stall := .slot j }))

def execNop (t u : Nat) (s : State) : Host.Outcome State Fault Refusal := .next (s.onLane t u id)
def execHold (t u n : Nat) (s : State) : Host.Outcome State Fault Refusal := .next (s.onLane t u (fun x => x.ctlHold u n))

/-- R70: the held cycles have passed. -/
def State.holdExpiry (s : State) (u : Nat) : State :=
  match (s.cu u).seq.stall with
  | .hold upto => if upto ≤ (s.bay (bayOfCu u)).cycle then s.modSeq u (fun q => { q with stall := .none }) else s
  | _ => s

def execHoldExpiry (t u : Nat) (s : State) : Host.Outcome State Fault Refusal :=
  .next ((s.bayTime (bayOfCu u) t).holdExpiry u)
def execLoop (t u count : Nat) (s : State) : Host.Outcome State Fault Refusal :=
  .next (s.onLane t u (fun x => x.ctlLoop u count))
def execEndloop (t u : Nat) (s : State) : Host.Outcome State Fault Refusal := .next (s.onLane t u (fun x => x.ctlEndloop u))
def execSeti (t u r : Nat) (imm : BitVec 12) (s : State) : Host.Outcome State Fault Refusal :=
  .next (s.onLane t u (fun x => x.ctlSeti u r imm))
def execAddi (t u r : Nat) (imm : BitVec 12) (s : State) : Host.Outcome State Fault Refusal :=
  .next (s.onLane t u (fun x => x.ctlAddi u r imm))
def execPred (t u r : Nat) (imm : BitVec 11) (s : State) : Host.Outcome State Fault Refusal :=
  .next (s.onLane t u (fun x => x.ctlPred u r imm))
def execPredon (t u : Nat) (s : State) : Host.Outcome State Fault Refusal := .next (s.onLane t u (fun x => x.ctlPredon u))
def execExit (t u r : Nat) (imm : BitVec 11) (s : State) : Host.Outcome State Fault Refusal :=
  .next (s.onLane t u (fun x => x.ctlExit u r imm))
def execBrace (t u level : Nat) (s : State) : Host.Outcome State Fault Refusal :=
  .next (s.onLane t u (fun x => x.ctlBrace u level))
def execLaunch (t u r : Nat) (s : State) : Host.Outcome State Fault Refusal := .next (s.onLane t u (fun x => x.ctlLaunch u r))

/-- R387: BRACEs whose 4 µs has passed arm the bay at the highest level among them; the entry arming of R388. -/
def State.braceArm (s : State) (b : Nat) : State :=
  let y := s.bay b
  let entry := match y.gov.entryAt with
    | some c => if c ≤ y.cycle then [(c, s.regN (.bay b .govCfg) % 16)] else []
    | none => []
  let due := y.gov.braces.filter (fun (c, _) => decide (c ≤ y.cycle)) ++ entry
  let lvl := due.foldl (fun a (_, l) => max a l) (if y.gov.armed then y.gov.braceLevel else 0)
  if due = [] then s
  else s.setBay b { y with gov := { y.gov with
    braces := y.gov.braces.filter (fun (c, _) => !decide (c ≤ y.cycle))
    entryAt := if entry = [] then y.gov.entryAt else none
    armed := decide (y.gov.level < lvl), braceLevel := if y.gov.level < lvl then lvl else 0 } }

def execBraceArm (t b : Nat) (s : State) : Host.Outcome State Fault Refusal := .next ((s.bayTime b t).braceArm b)

/-- R70: the bay cycle counter has reached the LAUNCH value. -/
def State.launchRelease (s : State) (u : Nat) : State :=
  match (s.cu u).seq.stall with
  | .launch v inB =>
    if s.laneRuns u && decide (v ≤ (s.bay (bayOfCu u)).cycle) then
      let s1 := s.modSeq u (fun q => { q with stall := .none })
      if inB then s1.fetchIssue u false true else s1
    else s
  | _ => s

def execLaunchRelease (t u : Nat) (s : State) : Host.Outcome State Fault Refusal :=
  .next ((s.bayTime (bayOfCu u) t).launchRelease u)

def execEndMark (t u : Nat) (s : State) : Host.Outcome State Fault Refusal := .next (s.onLane t u (fun x => x.ctlEnd u))

/-! ### The stitch-end marker retires (R32, R75, R171, R191, R220) -/

def Ste.idle (x : Ste) : Bool :=
  x.queue.isEmpty && x.run.isNone && x.results.isEmpty && x.tile0.closings.isEmpty && x.tile1.closings.isEmpty && x.outq.isEmpty

def Vec.idle (x : Vec) : Bool := x.queue.isEmpty && x.run.isNone && x.groups.isEmpty && x.outq.isEmpty

def Dma.idle (x : Dma) : Bool := x.queue.isEmpty && x.active.isEmpty

def Msg.sendsIdle (x : Msg) : Bool := x.chans.all (fun (_, c) => c.queue.isEmpty)

def Steer.idle (x : Steer) : Bool := x.toks.isEmpty && x.dats.isEmpty && x.sent == 0

def Fab.spinsIdle (x : Fab) : Bool := x.spins.all (fun (_, l) => l.isEmpty)

/-- R171: no stream this CU started is queued or running. -/
def State.streamsIdle (s : State) (u : Nat) : Bool :=
  (s.mu (u / 4)).gens.all (fun (_, g) =>
    g.queue.all (fun a => a.cu != u % 4) && (match g.run with | some r => r.cu != u % 4 | none => true))

def State.workDone (s : State) (u : Nat) : Bool :=
  let cu := s.cu u
  cu.ste.idle && cu.vec.idle && cu.dma.idle && cu.msg.sendsIdle && cu.steer.idle && cu.fab.spinsIdle && s.streamsIdle u

/-- The marker retires; the CU is idle until the next work window. BAY_RETIRE_LAST is taken at cycle W (R156). -/
def State.markerRetire (s : State) (u : Nat) : State :=
  let q := (s.cu u).seq
  let y := s.bay (bayOfCu u)
  if s.stitch.kind == .work && y.inStitch && !y.windowOver && q.ended && !q.retired && s.workDone u then
    (s.modSeq u (fun q => { q with retired := true })).modBay (bayOfCu u) (fun y => { y with retireAt := y.cycle })
  else s

def execStitchEndMarkerRetire (t u : Nat) (s : State) : Host.Outcome State Fault Refusal :=
  .next ((s.bayTime (bayOfCu u) t).markerRetire u)

/-! ### Rewriting a damaged lane store (R76) -/

/-- The lane of CU `u` in an image. -/
def laneIn (i : Image) (u : Nat) : List Word := ((i.lanes.find? (fun p => p.1 == u)).map Prod.snd).getD []

/-- Write a lane from bundle 0 on (R68). -/
def State.writeLane (s : State) (u : Nat) (ws : List Word) : State :=
  s.writeMany (fun s' w d => s'.putWord (laneAddr u (16 * w)) d) 0 ws

def State.laneRewrite (s : State) (u : Nat) : State :=
  if s.rel.badLanes.contains u then
    match s.ctx? s.active with
    | none => s
    | some c =>
      let s1 := s.writeLane u (laneIn c.image u)
      { s1 with rel := { s1.rel with badLanes := s1.rel.badLanes.filter (· ≠ u) } }
  else s

def execLaneStoreRewrite (t u : Nat) (s : State) : Host.Outcome State Fault Refusal :=
  .next ((s.masterTime t).laneRewrite u)

/-! ### Single-slot commands of the other slots -/

def execMm (t u : Nat) (op : TensorOp) (s : State) : Host.Outcome State Fault Refusal :=
  .next (s.onLane t u (fun x => x.slotAct u op.pred (.tensor false true op)))
def execMma (t u : Nat) (op : TensorOp) (s : State) : Host.Outcome State Fault Refusal :=
  .next (s.onLane t u (fun x => x.slotAct u op.pred (.tensor false false op)))
def execVectorPass (t u : Nat) (op : VecOp) (s : State) : Host.Outcome State Fault Refusal :=
  .next (s.onLane t u (fun x => x.slotAct u op.pred (.vector op)))
def execDma (t u d ss sd : Nat) (pred : Bool) (s : State) : Host.Outcome State Fault Refusal :=
  .next (s.onLane t u (fun x => x.slotAct u pred (.dma d ss sd)))
def execSend (t u ch r len : Nat) (pred : Bool) (s : State) : Host.Outcome State Fault Refusal :=
  .next (s.onLane t u (fun x => x.slotIf u pred (fun y => y.issueSend u ch r len)))
def execSig (t u k n : Nat) (pred : Bool) (s : State) : Host.Outcome State Fault Refusal :=
  .next (s.onLane t u (fun x => x.slotIf u pred (fun y => y.addSync u k n)))

/-- R105: WAIT and WAITGE as single commands. -/
def State.waitSlot (s : State) (u k n : Nat) (ge : Bool) : State :=
  if s.waitOk u k n then s.waitTake u k n ge else s.modSeq u (fun q => { q with stall := .wait k n ge false })

def execWait (t u k n : Nat) (pred : Bool) (s : State) : Host.Outcome State Fault Refusal :=
  .next (s.onLane t u (fun x => x.slotIf u pred (fun y => y.waitSlot u k n false)))
def execWaitge (t u k n : Nat) (pred : Bool) (s : State) : Host.Outcome State Fault Refusal :=
  .next (s.onLane t u (fun x => x.slotIf u pred (fun y => y.waitSlot u k n true)))

/-- R106: the stalled WAIT or WAITGE finds its counter at or above n. A waiting bundle issues with it. -/
def State.waitSatisfied (s : State) (u : Nat) : State :=
  match (s.cu u).seq.stall with
  | .wait k n ge inB =>
    if s.laneRuns u && s.waitOk u k n then
      let s1 := s.modSeq u (fun q => { q with stall := .none })
      if inB then s1.fetchIssue u false false else s1.waitTake u k n ge
    else s
  | _ => s

def execWaitSatisfied (t u : Nat) (s : State) : Host.Outcome State Fault Refusal :=
  .next ((s.bayTime (bayOfCu u) t).waitSatisfied u)

def execRoute (t u e : Nat) (s : State) : Host.Outcome State Fault Refusal := .next (s.onLane t u (fun x => x.issueRoute u e))
def execSpin (t u link d r : Nat) (s : State) : Host.Outcome State Fault Refusal :=
  .next (s.onLane t u (fun x => x.slotAct u false (.spin link d r)))
def execAgstart (t u g d r : Nat) (s : State) : Host.Outcome State Fault Refusal :=
  .next (s.onLane t u (fun x => x.slotAct u false (.agstart g d r)))
def execTag (t u target r : Nat) (s : State) : Host.Outcome State Fault Refusal :=
  .next (s.onLane t u (fun x => x.issueTag u target r))

end Sys2Proof.Machine
end

