-- ==== Sys2Proof/Machine/FabricOps.lean ====
section
/-! DEFINITION. Links, credits and the movement of one payload (R189, R209-R223). -/

namespace Sys2Proof.Machine

/-- The CU at a position of the wafer CU grid (R14). -/
def cuAt (col row : Nat) : Nat := 4 * clusterAt (col / 2) (row / 2) + row % 2 * 2 + col % 2

def cuCol (u : Nat) : Nat := 2 * clX (u / 4) + u % 2
def cuRow (u : Nat) : Nat := 2 * clY (u / 4) + u % 4 / 2

/-- R209: the CU at the far end of a link; edge links connect to nothing. -/
def neighbour (u link : Nat) : Option Nat :=
  let c := cuCol u
  let r := cuRow u
  match link with
  | 0 => if r = 0 then none else some (cuAt c (r - 1))
  | 1 => if 1023 ≤ c then none else some (cuAt (c + 1) r)
  | 2 => if 863 ≤ r then none else some (cuAt c (r + 1))
  | _ => if c = 0 then none else some (cuAt (c - 1) r)

/-- The link of the far CU that faces back. -/
def facing (link : Nat) : Nat := (link + 2) % 4

/-- R222: does the link cross a bay boundary? -/
def isSeam (u link : Nat) : Bool :=
  match neighbour u link with
  | some v => bayOfCu u != bayOfCu v
  | none => false

/-- R15, R222: the seam crossings of bay `b`: 64 links on its north and south sides, 72 on its east and west sides, where a bay lies
beyond. -/
def seamCount (b : Nat) : Nat :=
  let x := b / 4 % 8 * 2 + b % 2
  let y := b / 4 / 8 * 2 + b % 4 / 2
  64 * ((if 0 < y then 1 else 0) + (if y < 11 then 1 else 0)) + 72 * ((if 0 < x then 1 else 0) + (if x < 15 then 1 else 0))

/-- R224: does a seam to a CU of bay `b` deliver payloads and return credits: is the bay active, and of the bay set? -/
def State.farBay (s : State) (b : Nat) : Bool :=
  (s.bay b).power == .active && (match s.ctx? s.active with | some c => c.image.bays.contains b | none => false)

/-- Is link `l` of CU `u` a seam whose far bay delivers nothing (R224)? -/
def State.seamShut (s : State) (u l : Nat) : Bool :=
  match neighbour u l with
  | some v => isSeam u l && !s.farBay (bayOfCu v)
  | none => false

/-- R219: entries of an inbound queue; a seam buffer has 64. -/
def State.depth (s : State) (u link : Nat) : Nat :=
  if isSeam u link then 64
  else
    let r := s.regN (.cu u .linkCfg)
    match link with
    | 0 => field r 4 0
    | 1 => field r 9 5
    | 2 => field r 14 10
    | _ => field r 19 15

/-- Payloads that have arrived in a queue by cycle `t`. -/
def arrived (t : Nat) (l : List (Flit × Nat)) : Nat := (l.filter (fun e => decide (e.2 ≤ t))).length

def Fab.q (f : Fab) (link : Nat) : List (Flit × Nat) := f.inq.get [] link
def Fab.seamQ (f : Fab) (link : Nat) : List (Flit × Nat) := f.seam.get [] link

/-- R222: payloads in a seam buffer, the one at its head included. -/
def Fab.seamHeld (f : Fab) (link : Nat) : Nat := (f.seamQ link).length + (f.q link).length

/-- The largest occupancy of a seam buffer in bay `b` (R234). -/
def State.seamLevel (s : State) (b : Nat) : Nat :=
  (s.busyCus b).foldl (fun a u => (List.range 4).foldl (fun x l => if isSeam u l then max x ((s.cu u).fab.seamHeld l) else x) a) 0

/-- R149, R219, R222: may CU `u` send on outbound link `l` at its cycle? A link carries one payload per cycle. -/
def State.credit (s : State) (u l : Nat) : Bool :=
  let t := (s.bay (bayOfCu u)).cycle
  if (s.cu u).fab.sentAt.get 0 l = t + 1 then false
  else match neighbour u l with
  | none => false
  | some v =>
    let cap := s.depth v (facing l)
    if isSeam u l then
      decide ((s.cu u).fab.spent.get 0 l < cap)
    else
      let f := (s.cu v).fab
      let (c, n) := f.popped.get (0, 0) (facing l)
      let held := if c = (s.bay (bayOfCu u)).cycle then n else 0
      decide ((f.q (facing l)).length + held < cap)

/-- R223: the earliest cycle in which a payload sent in cycle `t` at `fs` MHz can leave the seam, at `fr` MHz. -/
def seamExitAt (t fs fr : Nat) : Nat := Int.toNat (2 - ((4 * fs : Int) - t * 1000) * fr / (1000 * fs))

/-- R222: the sender cycle from which the credit of a payload that leaves in cycle `t` at `fr` MHz may be used. -/
def creditAt (t fr fs : Nat) : Nat := ceilDiv ((t * 1000 + 16 * fr) * fs) (1000 * fr) + 3

/-- R211, R223, R224: send a payload on outbound link `l`; a seam that is shut delivers nothing. -/
def State.sendLink (s : State) (u l : Nat) (x : Flit) : State :=
  match neighbour u l with
  | none => s
  | some v =>
    let b := bayOfCu u
    let t := (s.bay b).cycle
    if isSeam u l then
      let fs := max 1 (s.mhz b)
      let fr := max 1 (s.mhz (bayOfCu v))
      let exit := seamExitAt t fs fr
      let s1 := s.modCu u (fun cu => { cu with fab := { cu.fab with
        spent := cu.fab.spent.set l (cu.fab.spent.get 0 l + 1), sentAt := cu.fab.sentAt.set l (t + 1) } })
      if s.seamShut u l then s1
      else
        let s2 := s1.modCu v (fun cu => { cu with fab := { cu.fab with
          seam := cu.fab.seam.set (facing l) (cu.fab.seamQ (facing l) ++ [(x, exit)]) } })
        s2.hwSet (.bay (bayOfCu v) .fabSeamMax) (fun m => regOf (max m.toNat ((s2.cu v).fab.seamHeld (facing l))))
    else
      (s.modCu u (fun cu => { cu with fab := { cu.fab with sentAt := cu.fab.sentAt.set l (t + 1) } })).modCu v (fun cu => { cu with fab := { cu.fab with
        inq := cu.fab.inq.set (facing l) (cu.fab.q (facing l) ++ [(x, t + 1)]) } })

/-! ### The active route entry (R214) -/

def State.routeWord (s : State) (u : Nat) : Nat :=
  s.regN (.route u ((s.cu u).fab.entry.at (s.bay (bayOfCu u)).cycle))

/-- Source of outbound link `l`. -/
def srcOf (e l : Nat) : Nat := field e (15 + 4 * l) (12 + 4 * l)

/-- Sink of inbound link `l`. -/
def sinkOf (e l : Nat) : Nat := field e (3 * l + 2) (3 * l)

/-- tok_mu. -/
def tokMuOf (e : Nat) : Nat := field e 31 30

/-- Outbound links whose source has code `code`. -/
def outsOf (e code : Nat) : List Nat := (List.range 4).filter (fun l => srcOf e l == code)

def State.creditAll (s : State) (u : Nat) (ls : List Nat) : Bool := ls.all (fun l => s.credit u l)

def State.sendAll (s : State) (u : Nat) (x : Flit) : List Nat → State
  | [] => s
  | l :: ls => (s.sendLink u l x).sendAll u x ls

/-! ### Inbound queues -/

/-- The payload at the head of inbound link `l`, once it is in the queue (R211); one leaves per cycle (R149), none of a seam that is shut
(R224). -/
def State.headOf (s : State) (u l : Nat) : Option Flit :=
  let t := (s.bay (bayOfCu u)).cycle
  let (c, n) := (s.cu u).fab.popped.get (0, 0) l
  match (s.cu u).fab.q l with
  | (x, from_) :: _ => if from_ ≤ t ∧ ¬(c = t ∧ 0 < n) ∧ s.seamShut u l = false then some x else none
  | [] => none

/-- The head payload leaves: its credit is the sender's again from the next cycle, or starts back over the seam (R219, R222). -/
def State.popLink (s : State) (u l : Nat) : State :=
  let t := (s.bay (bayOfCu u)).cycle
  let s1 := s.modCu u (fun cu =>
    let (c, n) := cu.fab.popped.get (0, 0) l
    { cu with fab := { cu.fab with
      inq := cu.fab.inq.set l ((cu.fab.q l).drop 1)
      popped := cu.fab.popped.set l (t, (if c = t then n else 0) + 1)
      hurt := cu.fab.hurt.filter (· ≠ l) } })
  match neighbour u l with
  | some v =>
    if isSeam u l then
      let back := creditAt t (max 1 (s.mhz (bayOfCu u))) (max 1 (s.mhz (bayOfCu v)))
      s1.modCu v (fun cu => { cu with fab := { cu.fab with
        returning := cu.fab.returning.set (facing l) (cu.fab.returning.get [] (facing l) ++ [back]) } })
    else s1
  | none => s1

/-! ### Local consumers of a link (R216) -/

/-- R83: does job `i` of the queue use the B half of the instruction before it? -/
def Ste.reuses (x : Ste) (i : Nat) : Bool :=
  match x.queue[i]? with
  | none => false
  | some j => j.op.reuseB && (decide (0 < i && !(match x.queue[i - 1]? with | some p => p.drain | none => true)) || x.run.isSome
      || x.lastB.isSome)

/-- Halves of a side's stage that the jobs before job `i` of the queue hold (R82, R83): a DRAIN holds none, and reuse_b none
of its own. -/
def Ste.halves (x : Ste) (side : Side) (i : Nat) : Nat :=
  ((List.range i).filter (fun k =>
    match x.queue[k]?, side with
    | some j, .a => !j.drain
    | some j, .b => !j.drain && !x.reuses k
    | none, _ => false)).length

/-- The job whose operand the loader of a side fills next: its index. -/
def Ste.toStage (x : Ste) (side : Side) : Option Nat :=
  let busy := if x.run.isSome then 1 else 0
  (List.range x.queue.length).find? (fun i =>
    match x.queue[i]? with
    | none => false
    | some j => !j.drain && decide (busy + x.halves side i < 2) &&
        (match side with | .a => j.stA.isNone | .b => j.stB.isNone && !x.reuses i))

def isLinkSrc (src : Nat) : Bool := decide (2 ≤ src ∧ src ≤ 5)

/-- Has a link input the first `n` elements of its stream? Those of a bitmap line can be used when the whole line is there, since a later
flit of it may yet be malformed (R146, R148). -/
def Loading.has (l : Loading) (d : Desc) (n : Nat) : Bool :=
  decide (n ≤ l.lines.length * d.kLen + (if d.encoding = 1 then 0 else l.pos))

/-- R100: elements per cycle. -/
def VecJob.lanes (j : VecJob) : Nat := if j.op.width then 16 else 8

/-- Elements of the pass (R100). -/
def VecJob.elements (j : VecJob) : Nat := j.x.kLen * (j.x.count + 1)

def VecJob.usesY (j : VecJob) : Bool := j.op.descY != 15

/-- Does consumer `k` of the CU (R216: 0 loader A, 1 loader B, 2 vector X, 3 vector Y, 4 SPIN) want a payload of link `l`? -/
def Cu.wants (cu : Cu) (l k : Nat) : Bool :=
  let loader (side : Side) : Bool :=
    match cu.ste.toStage side with
    | none => false
    | some i =>
      match cu.ste.queue[i]? with
      | none => false
      | some j => (match side with | .a => j.a.source | .b => j.b.source) == l + 2
  let vec (y : Bool) : Bool :=
    match cu.vec.run with
    | none => false
    | some r =>
      let need := r.pos + min r.job.lanes (r.job.elements - r.pos)
      if y then r.job.usesY && r.job.y.source == l + 2 && !r.ybuf.has r.job.y need
      else r.job.x.source == l + 2 && !r.xbuf.has r.job.x need
  match k with
  | 0 => loader .a
  | 1 => loader .b
  | 2 => vec false
  | 3 => vec true
  | _ => !(cu.fab.spins.get [] l).isEmpty

/-- R215, R216: local consumer `k`, when R27 gives it the link, takes the payload of link `l`: the link's sink 1, moving it to
every outbound link that forwards it in the same cycle, or the steering unit's place when the sink is 3. -/
def State.takeLocal (s : State) (u l k : Nat) : Option (Flit × State) :=
  let e := s.routeWord u
  let cu := s.cu u
  let turn := rrPick 5 (cu.fab.ptr.get 0 (4 + l)) (fun i => i == k || cu.wants l i)
  let s0 := s.modCu u (fun cu => { cu with fab := { cu.fab with ptr := cu.fab.ptr.set (4 + l) ((k + 1) % 5) } })
  if turn ≠ some k then none
  else if sinkOf e l = 1 then
    match s.headOf u l with
    | none => none
    | some x =>
      let outs := outsOf e (l + 1)
      if s.creditAll u outs then some (x, (s0.popLink u l).sendAll u x outs) else none
  else if sinkOf e l = 3 then
    match cu.steer.places.find? l with
    | none => none
    | some x => some (x, s0.modCu u (fun cu => { cu with steer := { cu.steer with places := cu.steer.places.erase l } }))
  else none

/-- R219, R232: a cycle in which local producers or consumers of the CU hold counts once. -/
def State.linkStall (s : State) (u : Nat) : State :=
  let t := (s.bay (bayOfCu u)).cycle
  if (s.cu u).fab.stallAt = t + 1 then s
  else (s.count (.cu u .linkStall) 1).modCu u (fun cu => { cu with fab := { cu.fab with stallAt := t + 1 } })

/-- R211: one with an uncorrectable codeword or a bad tag parity stands there as it was received, `x`, and the receiving bay votes void. -/
def State.linkBad (s : State) (u l : Nat) (x : Flit) : State :=
  (s.modCu u (fun cu => { cu with fab := { cu.fab with
    inq := cu.fab.inq.set l (match cu.fab.q l with | (_, t) :: rest => (x, t) :: rest | [] => []) } })).uncorrectableWord
    (bayOfCu u) (locCu u) 3 (u % 4) (u / 4) 0

/-- R211, R400: the check of the payload at the head of inbound link `l`, once: corrected codewords count as words of store 3. -/
def State.linkChecked (s : State) (u l : Nat) (c : LinkCheck) : State :=
  if (s.cu u).fab.hurt.contains l ∨ (c.corrected = 0 ∧ c.bad = none) then s
  else
    let s1 := (List.range (min 2 c.corrected)).foldl (fun x _ => x.correctedWord (bayOfCu u) (locCu u) 3 0)
      (s.modCu u (fun cu => { cu with fab := { cu.fab with hurt := l :: cu.fab.hurt } }))
    match c.bad with
    | some (x, tag) => s1.linkBad u l ⟨x, tag⟩
    | none => s1

end Sys2Proof.Machine
end

