-- ==== Sys2Proof/Machine/WriteBack.lean ====
section
/-! DEFINITION. Converting results and writing them through a destination descriptor (R95, R125-R131, R138-R151). Shared by
DRAIN and by the vector pipeline's pack stage. -/

namespace Sys2Proof.Machine

/-- What a conversion of one instruction needs (R91, R101). -/
structure PackCfg where
  mode : Nat
  wrap : Bool
  sat : Bool
  deriving DecidableEq, Repr

/-- Elements of a line after conversion. -/
structure PackOut where
  codes : List Nat
  present : List Bool     -- kept by a BM256 destination (R150)
  scales : List Nat
  flags : FlagSet
  lfsr : BitVec 16
  deriving DecidableEq, Repr

/-- Convert one value (R126-R130). Every element a DRAIN or a pass writes is a conversion and steps the generator in stochastic
mode: the +0 that fills a DRAIN's line, and a write of the accumulator's own type, too (DESIGN CHOICE, log entry 35). -/
def packOne (t : Nat) (c : PackCfg) (l : BitVec 16) (v : Num) (dnum : Nat) (dexp : Int) (clamp : Bool) :
    Nat × FlagSet × BitVec 16 :=
  let l' := if c.mode = 3 then lfsrStep l else l
  let (code, f) := convElem t ⟨c.mode, l'.toNat, c.sat, c.wrap, clamp⟩ v dnum dexp
  (code, f, l')

/-- Is the element code a zero (R150)? -/
def zeroCode (t code : Nat) : Bool := isZero (elemVal t false code)

/-- Unscaled elements in order. A NaN is kept, whatever it converts to (R132). -/
def packPlain (t : Nat) (c : PackCfg) : BitVec 16 → List Num → PackOut
  | l, [] => ⟨[], [], [], 0, l⟩
  | l, v :: vs =>
    let (code, f, l') := packOne t c l v 1 0 false
    let r := packPlain t c l' vs
    { r with codes := code :: r.codes, present := (isNaN v || !zeroCode t code) :: r.present, flags := f ||| r.flags }

/-- Steps the generator takes for elements whose value R131 fixes. -/
def stepTimes : Nat → BitVec 16 → BitVec 16
  | 0, l => l
  | n + 1, l => stepTimes n (lfsrStep l)

/-- R131: one block of a scaled write-back. -/
def packBlock (t scaleType : Nat) (c : PackCfg) (l : BitVec 16) (vs : List Num) : PackOut :=
  let fixed (byte : Nat) (keep : Bool) : PackOut :=
    ⟨vs.map (fun _ => 0), vs.map (fun _ => keep), [byte], 0, if c.mode = 3 then stepTimes vs.length l else l⟩
  if vs.any isNaN then fixed (if scaleType = 1 then 0xFF else 0x7F) true
  else
    let amax := amaxOf t vs
    let byte := if scaleType = 1 then e8m0Scale t amax else ue4m3Scale t amax
    match scaleVal scaleType byte with
    | .fin _ m e =>
      if m = 0 then fixed byte false
      else
        let go := vs.foldl (fun (acc : PackOut) v =>
          let (code, f, l') := packOne t { c with wrap := false } acc.lfsr v m (e + implicitExp t) true
          { acc with
            codes := acc.codes ++ [code], present := acc.present ++ [!zeroCode t code]
            flags := acc.flags ||| f, lfsr := l' }) ⟨[], [], [byte], 0, l⟩
        go
    | _ => fixed byte false

/-- R131: a line of a scaled destination, block by block; `fuel` bounds the number of blocks. -/
def packScaled (t scaleType bsize : Nat) (c : PackCfg) : Nat → BitVec 16 → List Num → PackOut
  | 0, l, _ => ⟨[], [], [], 0, l⟩
  | n + 1, l, vs =>
    if vs.isEmpty then ⟨[], [], [], 0, l⟩
    else
      let a := packBlock t scaleType c l (vs.take bsize)
      let r := packScaled t scaleType bsize c n a.lfsr (vs.drop bsize)
      ⟨a.codes ++ r.codes, a.present ++ r.present, a.scales ++ r.scales, a.flags ||| r.flags, r.lfsr⟩

/-- Convert the values of one destination line. -/
def packLine (d : Desc) (c : PackCfg) (l : BitVec 16) (vs : List Num) : PackOut :=
  if d.scaleType = 0 then packPlain d.etype c l vs
  else packScaled d.etype d.scaleType (max 1 d.blockSize) c vs.length l vs

/-- The present positions of a converted line. -/
def PackOut.line (p : PackOut) : Line :=
  (p.codes.zip p.present).zipIdx.filterMap (fun ((code, keep), k) => if keep then some (k, code) else none)

/-- Flits of a line for a link destination (R147, R148). -/
def lineFlits (d : Desc) (p : PackOut) : List Payload :=
  if d.encoding = 1 then
    (bitmapFlits (flitCap d.etype) p.codes.length p.line (p.codes.length + 1) 0).map
      (fun (m, vs, _) => bitmapPayload d.etype m vs)
  else densePayloads d.etype p.codes

/-- Write bytes at byte `o` of a memory destination, a word at a time (R158). -/
def State.writeDest (s : State) (u src o : Nat) (bs : List Byte) : State :=
  s.writeMany (fun s' w d => if src = 0 then s'.writeSp u w d else s'.writeMu (u / 4) w d) (o / 16)
    (bytesWords (ceilDiv bs.length 16) bs)

/-- R5, R94: write if every word is accessible, else an address fault of the lane. -/
def State.writeDestChecked (s : State) (u src o : Nat) (bs : List Byte) : State :=
  let n := ceilDiv bs.length 16
  if s.rangeOk u src (o / 16) n then s.writeDest u src o bs
  else s.sourceFault u src o (s.rangeCause u src (o / 16) n)

/-- Count what a line's flits carry (R156). -/
def State.countFlits (s : State) (b : Nat) (d : Desc) (p : PackOut) (n : Nat) : State :=
  if d.encoding = 1 then (s.count (.bay b .flitBitmap) n).count (.bay b .flitPresent) p.line.length
  else s.count (.bay b .flitDense) n

/-- R150, R156: elements marked absent. -/
def State.countDropped (s : State) (b : Nat) (d : Desc) (p : PackOut) : State :=
  if d.encoding = 1 then s.count (.bay b .zeroDropped) (p.codes.length - p.line.length) else s

/-- Write line `l` of a destination at byte `at_`, with its scale bytes; the state, the flits for a link destination, and
where the next line starts. A malformed line leaves its scale bytes written (DESIGN CHOICE, log entry 59). -/
def State.writeLine (s : State) (u : Nat) (d : Desc) (l at_ : Nat) (p : PackOut) : State × List Payload × Nat :=
  let b := bayOfCu u
  let s0 := s.countDropped b d p
  if 2 ≤ d.source ∧ d.source ≤ 5 then
    let fs := lineFlits d p
    (s0.countFlits b d p fs.length, fs, at_)
  else
    let nl := ceilDiv d.kLen (max 1 d.blockSize)
    let s1 := if d.scaleType = 0 then s0
      else
        let at0 := d.base + 16 * d.scaleOff
        (p.scales.zipIdx).foldl (fun s' (x, i) =>
          let o := at0 + l * nl + i
          let w := o / 16
          let old := (s'.readSource u d.source w).1.toNat
          let bit := 8 * (o % 16)
          let new := old - (field old (bit + 7) bit) * 2 ^ bit + x * 2 ^ bit
          s'.writeDestChecked u d.source (16 * w) (leBytes 16 new)) s0
    if d.encoding = 1 then
      match writeBm256 d p.line with
      | .ok bs => (s1.writeDestChecked u d.source at_ bs, [], if d.pitch ≠ 0 then at_ + 16 * d.pitch else at_ + bs.length)
      | .error k => (s1.malformed u 2 k (sourceAddr u d.source at_), [], at_ + 16 * d.pitch)
    else
      let bs := packElems (widthOf d.etype) p.codes
      (s1.writeDestChecked u d.source at_ bs, [], if d.pitch ≠ 0 then at_ + 16 * d.pitch else at_ + bs.length)

/-- The flits carry the CU's tag (R218). -/
def State.cuTag (s : State) (u : Nat) : Nat := (s.cu u).fab.tag.at (s.bay (bayOfCu u)).cycle

end Sys2Proof.Machine
end

