-- ==== Sys2Proof/Machine/Tensor.lean ====
section
/-! DEFINITION. The sparse tensor engine: staging, match unit, summation, accumulator tiles, checksum comparison, DRAIN
(R80-R98, R117-R124, R384). -/

namespace Sys2Proof.Machine

def State.modSte (s : State) (u : Nat) (f : Ste → Ste) : State := s.modCu u (fun cu => { cu with ste := f cu.ste })

def Ste.tile (x : Ste) (k : Nat) : Tile := if k = 0 then x.tile0 else x.tile1
def Ste.setTile (x : Ste) (k : Nat) (v : Tile) : Ste := if k = 0 then { x with tile0 := v } else { x with tile1 := v }
def Tile.cell (x : Tile) (k : Nat) : Acc := x.cells.get Acc.clear k

/-- Do the engines of the CU work: a work stitch between cycle 0 and cycle W (R36)? -/
def State.engineRuns (s : State) (u : Nat) : Bool :=
  let y := s.bay (bayOfCu u)
  s.stitch.session && s.stitch.kind == .work && y.inStitch && !y.windowOver

/-! ### Staging (R81-R83) -/

def Ste.setJob (x : Ste) (i : Nat) (j : SteJob) : Ste := { x with queue := x.queue.set i j }

def SteJob.desc (j : SteJob) : Side → Desc
  | .a => j.a
  | .b => j.b

def SteJob.load (j : SteJob) : Side → Loading
  | .a => j.ldA
  | .b => j.ldB

def SteJob.setLoad (j : SteJob) (side : Side) (l : Loading) : SteJob :=
  match side with
  | .a => { j with ldA := l }
  | .b => { j with ldB := l }

def SteJob.setStaged (j : SteJob) (side : Side) (st : Staged) : SteJob :=
  match side with
  | .a => { j with stA := some st }
  | .b => { j with stB := some st }

def sideCode : Side → Nat
  | .a => 0
  | .b => 1

/-- One flit of a link operand (R147-R149), and whether it was malformed. -/
def Loading.flit (l : Loading) (d : Desc) (x : Payload) : Loading × Bool :=
  let (ent, pos, carry, bad) : Line × Nat × Nat × Bool :=
    if d.encoding = 1 then let (e, p, z) := readBitmapFlit d.etype d.kLen l.pos x; (e, p, 0, z)
    else let (e, p, c) := readDenseFlit d.etype d.kLen l.pos l.carry x; (e, p, c, false)
  let lost := l.bad || bad
  let l1 := { l with moved := l.moved + 1, carry := carry }
  (if d.kLen ≤ pos then { l1 with lines := l.lines ++ [if lost then [] else l.cur ++ ent], cur := [], pos := 0, bad := false }
   else { l1 with cur := l.cur ++ ent, pos := pos, bad := lost }, bad)

/-- Has the loader of a side moved in cycle `t` already? It moves 64 bytes, or one flit, per cycle (R82, R149). -/
def Ste.loaded (x : Ste) (side : Side) (t : Nat) : Bool :=
  match side with
  | .a => x.loadA == t + 1
  | .b => x.loadB == t + 1

def Ste.setLoaded (x : Ste) (side : Side) (t : Nat) : Ste :=
  match side with
  | .a => { x with loadA := t + 1 }
  | .b => { x with loadB := t + 1 }

/-- R82: read up to `n` further words of an operand, in order, each as its source stands now: their numbers, the words at
hand, and the state after. -/
def State.loadWords (s : State) (u : Nat) (d : Desc) : Nat → Assoc Nat Word → List Nat × Assoc Nat Word × State
  | 0, ws => ([], ws, s)
  | n + 1, ws =>
    match nextWord ws d with
    | none => ([], ws, s)
    | some w =>
      let (x, s1) := s.readOperandWord u d.source w
      let (got, ws', s2) := s1.loadWords u d n (ws.set w x)
      (w :: got, ws', s2)

/-- R147-R149: the loader of a side takes one flit for job `i`, its operand in a link. -/
def State.loadFlit (s : State) (u : Nat) (side : Side) (i : Nat) (j : SteJob) : State :=
  let d := j.desc side
  let t := (s.bay (bayOfCu u)).cycle
  match s.takeLocal u (d.source - 2) (sideCode side) with
  | none => s.linkStall u
  | some (fl, s1) =>
    let (l, bad) := (j.load side).flit d fl.data
    let s2 := if bad then s1.malformed u (sideCode side) 5 0 else s1
    let j1 := j.setLoad side { l with ready := t }
    s2.modSte u (fun y => (y.setLoaded side t).setJob i
      (if d.count < l.lines.length then j1.setStaged side ⟨d, l.lines, [], []⟩ else j1))

/-- R82: the loader of a side reads the next 64 bytes for job `i`, its operand in memory. With the last of them the operand is
decoded; it is staged when they have come back. -/
def State.loadTransfer (s : State) (u : Nat) (side : Side) (i : Nat) (j : SteJob) : State :=
  let d := j.desc side
  let t := (s.bay (bayOfCu u)).cycle
  let (got, ws, s1) := s.loadWords u d 4 (j.load side).words
  let s2 := s1.operandFault u d.source got
  let l := { j.load side with moved := (j.load side).moved + 1, words := ws }
  if (nextWord ws d).isSome then s2.modSte u (fun y => (y.setLoaded side t).setJob i (j.setLoad side l))
  else
    let (st, ks) := stageOperand (byteIn ws) d
    (s2.malformedAll u (sideCode side) d.source ks).modSte u (fun y => (y.setLoaded side t).setJob i
      ((j.setLoad side { l with words := [], ready := t + if d.source = 0 then 2 else 4 }).setStaged side st))

/-- R82: one transfer of the loader of a side. -/
def State.stageLoad (s : State) (u : Nat) (side : Side) : State :=
  let x := (s.cu u).ste
  if x.loaded side (s.bay (bayOfCu u)).cycle then s
  else match x.toStage side with
    | none => s
    | some i =>
      match x.queue[i]? with
      | none => s
      | some j => if isLinkSrc (j.desc side).source then s.loadFlit u side i j else s.loadTransfer u side i j

/-- R162: a loader's number at the CU port. -/
def sideUnit : Side → Nat
  | .a => 0
  | .b => 1

def execStageLoad (t u : Nat) (side : Side) (s0 : State) : Host.Outcome State Fault Refusal :=
  let s := s0.bayTime (bayOfCu u) t
  .next (if s.engineRuns u && !s.portHeld (u / 4) (u % 4) (sideUnit side) then s.stageLoad u side else s)

/-! ### Summation (R84, R87, R119) -/

def kSpan (a b : Staged) : Nat := min a.desc.kLen b.desc.kLen

/-- Segments the match unit scans for output (i, j) (R84). -/
def scanSegs (a b : Staged) (i j : Nat) : List Nat :=
  (List.range (ceilDiv (kSpan a b) 512)).filter (fun g => !skipped a.skip i g && !skipped b.skip j g)

/-- Codes of the present positions of a line. -/
def lookupLine (l : Line) (k : Nat) : Option Nat := (l.find? (fun p => p.1 == k)).map Prod.snd

/-- Matched pairs of one segment. -/
def matchedIn (a b : Staged) (i j g : Nat) : Nat :=
  let la := a.lines.getD i []
  let lb := b.lines.getD j []
  (la.filter (fun (k, _) => decide (512 * g ≤ k ∧ k < 512 * g + 512 ∧ k < kSpan a b) && (lookupLine lb k).isSome)).length

/-- The leaves of a group: products of matched pairs, +0 elsewhere (R118, R119). -/
def leaves (a b : Staged) (i j g : Nat) : List Num :=
  let la := a.lines.getD i []
  let lb := b.lines.getD j []
  (List.range 32).map (fun x =>
    let k := 32 * g + x
    if kSpan a b ≤ k then posZero
    else match lookupLine la k, lookupLine lb k with
      | some ca, some cb =>
        signedProduct (codeSign a.desc.etype ca) (codeSign b.desc.etype cb) (a.valAt i k ca) (b.valAt j k cb)
      | _, _ => posZero)

/-- Split a list into pieces of `p`; `n` bounds their number. -/
def chunks {α : Type} (p : Nat) : Nat → List α → List (List α)
  | 0, _ => []
  | n + 1, l => if l.isEmpty then [] else l.take p :: chunks p n (l.drop p)

/-- The sum of one group under scales `sc k` at its subtree roots (R119 steps 2-4). -/
def groupSum (p span g : Nat) (scaled : Bool) (sc : Nat → Num) (lv : List Num) : Num × FlagSet :=
  let subs := (chunks p 32 lv).zipIdx.map (fun (x, i) =>
    let (r, f) := treeSum 6 x 0
    let k := 32 * g + p * i
    if !scaled || span ≤ k then (r, f)
    else
      let (r2, f2) := scaleMul (sc k) r
      (r2, f ||| f2))
  treeSum 6 (subs.map Prod.fst) (subs.foldl (fun a x => a ||| x.2) 0)

/-- Group sums of output (i, j), ascending; a group in a skipped segment contributes nothing (R123). -/
def outputSums (a b : Staged) (i j : Nat) : List Num × FlagSet :=
  let p := partitionWidth a.desc b.desc
  let span := kSpan a b
  let scaled := a.desc.scaleType ≠ 0 || b.desc.scaleType ≠ 0
  let gs := (List.range (ceilDiv span 32)).filter (fun g => !skipped a.skip i (g / 16) && !skipped b.skip j (g / 16))
  let rs := gs.map (fun g => groupSum p span g scaled (fun k => scaleProd (a.scaleAt i k) (b.scaleAt j k)) (leaves a b i j g))
  (rs.map Prod.fst, rs.foldl (fun f x => f ||| x.2) 0)

/-- Integer sum of output (i, j) (R88, R124). -/
def outputInt (a b : Staged) (i j : Nat) : Int :=
  let la := a.lines.getD i []
  let lb := b.lines.getD j []
  la.foldl (fun acc (k, ca) =>
    if kSpan a b ≤ k then acc
    else match lookupLine lb k with
      | some cb => acc + signed (widthOf a.desc.etype) ca * signed (widthOf b.desc.etype) cb
      | none => acc) 0

/-! ### Checksum arrays (before R96) -/

/-- e^T A or B e at position `k`: FP32 additions in ascending line order. -/
def checkEntry (x : Staged) (k : Nat) : Option Num :=
  let vs := x.lines.zipIdx.filterMap (fun (l, i) => (lookupLine l k).map (fun c => x.scaledVal i k c))
  match vs with
  | [] => none
  | v :: rest => some (rest.foldl (fun a y => (roundTo fp32 (addExact a y)).1) (roundTo fp32 v).1)

/-- Group sums of a check entry: vector of `x`, line `j` of `y`. -/
def checkSums (x y : Staged) (p j : Nat) : List Num :=
  let span := kSpan x y
  let ly := y.lines.getD j []
  (List.range (ceilDiv span 32)).map (fun g =>
    let lv := (List.range 32).map (fun i =>
      let k := 32 * g + i
      if span ≤ k then posZero
      else match lookupLine ly k with
        | none => posZero
        | some c => match checkEntry x k with
          | none => posZero
          | some e => (roundTree (signedProduct (numSign e) (codeSign y.desc.etype c) e (y.valAt j k c))).1)
    (groupSum p span g (y.desc.scaleType ≠ 0) (fun k => y.scaleAt j k) lv).1)

def checkInt (x y : Staged) (j : Nat) : Int :=
  (y.lines.getD j []).foldl (fun acc (k, c) =>
    if kSpan x y ≤ k then acc
    else acc + signed (widthOf y.desc.etype) c *
      (x.lines.foldl (fun a l => match lookupLine l k with | some e => a + signed (widthOf x.desc.etype) e | none => a) 0)) 0

def Acc.addNums (c : Acc) (ns : List Num) : Acc := { c with num := ns.foldl (fun a g => (accAdd a g).1) c.num }
def Acc.addInt (c : Acc) (i : Int) : Acc := { c with int := c.int + BitVec.ofInt 64 i }

def Tile.modCell (x : Tile) (k : Nat) (f : Acc → Acc) : Tile := { x with cells := x.cells.set k (f (x.cell k)) }

/-- The check entries an m x n instruction accumulates onto. -/
def checkCells (m n : Nat) : List Nat := (List.range n).map (256 + ·) ++ (List.range m).map (272 + ·)

/-- Keep cells as they are for the comparison of an instruction whose results are still in flight. -/
def Tile.keep (x : Tile) (ks : List Nat) : Tile :=
  { x with before := ks.foldl (fun m k => if (m.find? k).isSome then m else m.set k (x.cell k)) x.before }

/-- The tile without what a later instruction has accumulated. -/
def Tile.restored (x : Tile) : Tile := { x with cells := x.before.foldl (fun m (k, c) => m.set k c) x.cells }

/-- R89, R97: the tile closes, its comparison due at `due`. -/
def Tile.close (x : Tile) (due no : Nat) : Tile := { x with closings := x.closings ++ [⟨due, x.isInt, x.m, x.n, x.cells, no⟩] }

/-- The instruction's check arrays reach the tile (R96). -/
def Tile.addChecks (x : Tile) (a b : Staged) : Tile :=
  let p := partitionWidth a.desc b.desc
  let x1 := (List.range b.lines.length).foldl (fun t j =>
    t.modCell (256 + j) (fun c => if x.isInt then c.addInt (checkInt a b j) else c.addNums (checkSums a b p j))) x
  (List.range a.lines.length).foldl (fun t i =>
    t.modCell (272 + i) (fun c => if x.isInt then c.addInt (checkInt b a i) else c.addNums (checkSums b a p i))) x1

/-! ### The match unit (R84-R86, R384) -/

/-- R384: index of a CU in its bay. -/
def cuIndexInBay (u : Nat) : Nat := (lyOf (u / 4) * 32 + lxOf (u / 4)) * 4 + u % 4

/-- R384: may the STE begin an issue cycle now? -/
def State.govAllows (s : State) (u : Nat) : Bool :=
  let y := s.bay (bayOfCu u)
  decide ((y.cycle + cuIndexInBay u) % 8 < y.gov.level)

def State.govRefuse (s : State) (u : Nat) : State :=
  let b := bayOfCu u
  (s.modBay b (fun y => { y with gov := { y.gov with heldSinceRise := y.gov.heldSinceRise + 1 } })).count (.bay b .govHeld) 1

def State.govIssue (s : State) (u : Nat) : State :=
  s.modBay (bayOfCu u) (fun y =>
    let n := if y.gov.countCycle = y.cycle then y.gov.issuedCycle + 1 else 1
    { y with gov := { y.gov with issued128 := y.gov.issued128 + 1, issuedCycle := n, countCycle := y.cycle } })

/-- R90: has an earlier-issued vector read of tile `k` not completed? -/
def Vec.reads (v : Vec) (k no : Nat) : Bool :=
  let r (j : VecJob) : Bool := j.x.source == 6 + k && decide (j.no < no)
  v.queue.any r || (match v.run with | some q => r q.job | none => false) || v.groups.any (fun g => r g.job)

/-- Are both operands of the head instruction completely staged before cycle `t` (R82, R83)? -/
def Ste.staged (x : Ste) (j : SteJob) (t : Nat) : Bool :=
  j.stA.isSome && decide (j.ldA.ready < t) && (x.reuses 0 || (j.stB.isSome && decide (j.ldB.ready < t)))

/-- Take the head instruction into the match unit when it may start (R82, R83, R90): flits of an earlier DRAIN that their link
has not taken hold it (R151). With reuse_b the columns and the K span are those of the staged B, whatever desc_b says, and an
MM waits for the results that are on their way to its tile (DESIGN CHOICE, log entries 31 and 32). An MMA gives a tile that no MM has
named its own class (DESIGN CHOICE, log entry 61). -/
def Cu.steStart (cu : Cu) (t : Nat) : Option Cu :=
  let x := cu.ste
  match x.queue with
  | [] => none
  | j :: rest =>
    let stB := if x.reuses 0 then x.lastB else j.stB
    match j.drain, j.stA, stB with
    | false, some a, some b =>
      if x.outq.isEmpty && x.staged j t && !cu.vec.reads j.op.tile j.no
          && (!j.clear || !x.results.any (fun r => r.tile == j.op.tile)) then
        let tl := x.tile j.op.tile
        let m := a.desc.count + 1
        let n := b.desc.count + 1
        let tl' : Tile :=
          if j.clear then { Tile.reset with
            isInt := intClass a.desc, isOpen := true, used := true, m := m, n := n, closings := tl.closings, lastNo := j.no }
          else { tl with isInt := if tl.used then tl.isInt else intClass a.desc, isOpen := true, used := true, m := max tl.m m, n := max tl.n n, lastNo := j.no }
        let job := { j with stB := some b }
        some { cu with ste := { x.setTile j.op.tile tl' with
          queue := rest, run := some ⟨job, 0, 0, 0, 0, 0, 0, 0⟩, lastB := some b } }
      else none
    | _, _, _ => none

/-- R86: may output (i, j) of tile `k` begin at `t`? -/
def Ste.entryFree (x : Ste) (k i j t : Nat) : Bool :=
  (x.results.all (fun r => !(r.tile == k && r.i == i && r.j == j) || decide (r.due < t)))
  && decide (((x.tile k).cell (16 * i + j)).reach < t || ((x.tile k).cell (16 * i + j)).reach = 0)

/-- One cycle of R84 on the running output. -/
def SteRun.cycle (r : SteRun) (a b : Staged) : SteRun :=
  let L := macLanes a.desc.etype b.desc.etype
  let segs := scanSegs a b r.i r.j
  match segs[r.seg]? with
  | some g =>
    if L ≤ r.backlog then { r with backlog := r.backlog - L, cycles := r.cycles + 1 }
    else
      let m := matchedIn a b r.i r.j g
      { r with backlog := r.backlog + m - min (r.backlog + m) L, seg := r.seg + 1, scanned := r.scanned + 1,
               matched := r.matched + m, cycles := r.cycles + 1 }
  | none => { r with backlog := r.backlog - min r.backlog L, cycles := r.cycles + 1 }

/-- Has the output issued its last pair? -/
def SteRun.finished (r : SteRun) (a b : Staged) : Bool :=
  decide ((scanSegs a b r.i r.j).length ≤ r.seg) && r.backlog == 0

/-- The result of a finished output (R85); a tile-share scale counts as one along K (DESIGN CHOICE, log entry 61). -/
def SteRun.result (r : SteRun) (a b : Staged) (t : Nat) : SteResult :=
  let int := intClass a.desc
  let (ns, f) := if int then ([], 0) else outputSums a b r.i r.j
  let last := r.i == a.desc.count && r.j == b.desc.count
  { tile := r.job.op.tile, i := r.i, j := r.j, isInt := int, sums := ns
    total := if int then outputInt a b r.i r.j else 0, sat := r.job.op.overflow, flags := f
    due := t + if kScaled a.desc b.desc then 28 else 24, lastOf := last, job := r.job }

/-- After output (i, j): the next in row-major order, or none. -/
def SteRun.advance (r : SteRun) (n m : Nat) : Option SteRun :=
  let nxt (i j : Nat) : SteRun := ⟨r.job, i, j, 0, 0, 0, 0, 0⟩
  if r.j + 1 < n then some (nxt r.i (r.j + 1))
  else if r.i + 1 < m then some (nxt (r.i + 1) 0)
  else none

/-- One issue cycle of the running instruction. -/
def State.steIssue (s : State) (u : Nat) : State :=
  let x := (s.cu u).ste
  let t := (s.bay (bayOfCu u)).cycle
  match x.run with
  | none => s
  | some r =>
    match r.job.stA, r.job.stB with
    | some a, some b =>
      if r.cycles = 0 && !x.entryFree r.job.op.tile r.i r.j t then s
      else if !s.govAllows u then s.govRefuse u
      else
        let r' := r.cycle a b
        let s1 := s.govIssue u
        if r'.finished a b then
          let L := macLanes a.desc.etype b.desc.etype
          let ctr : RegId := if r'.scanned < ceilDiv r'.matched L then .cu u .steMacCyc else .cu u .steScanCyc
          let s2 := s1.count ctr r'.cycles
          s2.modSte u (fun y => { y with
            run := r'.advance (b.desc.count + 1) (a.desc.count + 1), results := y.results ++ [r'.result a b t] })
        else s1.modSte u (fun y => { y with run := some r' })
    | _, _ => s

/-- STE_OUTPUT_ISSUE: the head instruction starts if none runs, then one cycle is spent on its current output. A head
instruction whose operands are not completely staged counts the cycle as a wait for staging (R107). -/
def State.steOutputIssue (s : State) (u : Nat) : State :=
  let cu := s.cu u
  match cu.ste.run with
  | some _ => s.steIssue u
  | none =>
    match cu.steStart (s.bay (bayOfCu u)).cycle with
    | some cu' => (s.setCu u cu').steIssue u
    | none =>
      match cu.ste.queue with
      | j :: _ => if !j.drain && !cu.ste.staged j (s.bay (bayOfCu u)).cycle then s.count (.cu u .steStageWait) 1 else s
      | [] => s

def execSteOutputIssue (t u : Nat) (s0 : State) : Host.Outcome State Fault Refusal :=
  let s := s0.bayTime (bayOfCu u) t
  .next (if s.engineRuns u then s.steOutputIssue u else s)

/-! ### Accumulation (R85, R88, R120, R124) -/

def accNums (c : Num) : List Num → Num × FlagSet
  | [] => (c, 0)
  | g :: gs =>
    let (r, f) := accAdd c g
    let (r', f') := accNums r gs
    (r', f ||| f')

/-- The tile as a result lands: while an earlier instruction that closes it has results in flight, the cells this one reaches
are kept for that comparison. -/
def Ste.landing (x : Ste) (r : SteResult) : Tile :=
  let tl := x.tile r.tile
  if x.results.any (fun q => q.tile == r.tile && q.job.op.last && decide (q.job.no < r.job.no)) then
    tl.keep ((16 * r.i + r.j) :: if r.lastOf then checkCells (r.i + 1) (r.j + 1) else [])
  else tl

/-- Land one result in its entry. With the last one of an instruction its check arrays arrive (R96), and the tile closes when
the instruction says last (R89): what that comparison sees is the tile without what later instructions have accumulated. -/
def State.land (s : State) (u : Nat) (r : SteResult) : State :=
  let tl := (s.cu u).ste.landing r
  let c := tl.cell (16 * r.i + r.j)
  let (n, f) := accNums c.num r.sums
  let c' : Acc := if r.isInt then { c with int := c.int + BitVec.ofInt 64 r.total, sat := r.sat, reach := r.due }
    else { c with num := n, reach := r.due }
  let tl1 := { tl with cells := tl.cells.set (16 * r.i + r.j) c' }
  let tl2 := if r.lastOf then
      match r.job.stA, r.job.stB with
      | some a, some b =>
        let z := { tl1.addChecks a b with closeLast := r.due }
        if r.job.op.last then
          { z with before := [], closings := ((tl1.restored.addChecks a b).close (r.due + 8) r.job.no).closings }
        else z
      | _, _ => tl1
    else tl1
  (s.modSte u (fun y => y.setTile r.tile tl2)).stick u false (r.flags ||| f)

def State.accumulate (s : State) (u : Nat) : State :=
  let t := (s.bay (bayOfCu u)).cycle
  match (s.cu u).ste.results.find? (fun r => decide (r.due ≤ t)) with
  | none => s
  | some r => (s.modSte u (fun y => { y with results := y.results.erase r })).land u r

/-! ### DRAIN (R89, R90, R95) -/

/-- R124: the INT32 value a reader sees, and whether the exact value lies outside. -/
def Acc.read32 (c : Acc) : Int × Bool :=
  let v := c.int.toInt
  let out := decide (v < -2147483648 ∨ 2147483647 < v)
  (if c.sat then max (-2147483648) (min 2147483647 v) else signed 32 (lowBits 32 v), out)

/-- The value a DRAIN or a vector read takes from an entry. -/
def Tile.value (x : Tile) (k : Nat) : Num × FlagSet :=
  if x.isInt then
    let (v, out) := (x.cell k).read32
    (.fin (decide (v < 0)) v.natAbs 0, if out then flOverflow else 0)
  else ((x.cell k).num, 0)

/-- The lines a DRAIN writes: position j of line i takes entry (i, j) below min(n, k_len), +0 elsewhere. -/
def drainLines (x : Tile) (d : Desc) : List (List Num × FlagSet) :=
  (List.range (min x.m (d.count + 1))).map (fun i =>
    let vs := (List.range d.kLen).map (fun j => if j < min x.n d.kLen then x.value (16 * i + j) else (posZero, 0))
    (vs.map Prod.fst, vs.foldl (fun f v => f ||| v.2) 0))

/-- Write the lines in order. -/
def State.drainWrite (s : State) (u : Nat) (d : Desc) (c : PackCfg) : List (List Num × FlagSet) → Nat → Nat → State
  | [], _, _ => s
  | (vs, f0) :: rest, l, at_ =>
    let p := packLine d c (s.cu u).ste.lfsr vs
    let s1 := (s.modSte u (fun y => { y with lfsr := p.lfsr })).stick u false (f0 ||| p.flags)
    let (s2, fl, nxt) := s1.writeLine u d l at_ p
    let tag := s2.cuTag u
    let s3 := s2.modSte u (fun y => { y with outq := y.outq ++ fl.map (fun z => (d.source - 2, ⟨z, tag⟩)) })
    s3.drainWrite u d c rest (l + 1) nxt

/-- The head DRAIN acts once every earlier instruction is done and its tile is closed; an open tile closes first. Flits of an
earlier DRAIN that their link has not taken hold it (R151). -/
def State.steAdvance (s : State) (u : Nat) : State :=
  let x := (s.cu u).ste
  match x.queue with
  | j :: rest =>
    if !j.drain || x.run.isSome || !x.outq.isEmpty || x.results.any (fun r => r.tile == j.op.tile) then s
    else
      let tl := x.tile j.op.tile
      if !tl.closings.isEmpty then s
      else if tl.isOpen then s.modSte u (fun y => y.setTile j.op.tile (tl.close (tl.closeLast + 8) tl.lastNo))
      else
        let b := bayOfCu u
        let c : PackCfg := ⟨s.roundMode b j.op.round, !j.op.overflow, s.e4m3Sat b j.op.satFinite⟩
        (s.modSte u (fun y => { y with queue := rest })).drainWrite u j.d c (drainLines tl j.d) 0 j.d.base
  | [] => s

/-- R161, R357: a drain whose access a port refused, or whose writes find a capture queue full, waits. -/
def State.drainAdvance (s : State) (u : Nat) : State := if s.portHeld (u / 4) (u % 4) 5 then s else s.muHold (u / 4) (s.steAdvance u)

def execAccumulate (t u : Nat) (s0 : State) : Host.Outcome State Fault Refusal :=
  let s := s0.bayTime (bayOfCu u) t
  .next (if s.engineRuns u then (s.accumulate u).drainAdvance u else s)

def execDrain (t u : Nat) (op : TensorOp) (s : State) : Host.Outcome State Fault Refusal :=
  .next (s.onLane t u (fun x => 
    let y := x.slotAct u op.pred (.tensor true false op)
    if x.slotOn u op.pred && (x.cu u).steRoom then y.drainAdvance u else y))

/-! ### Checksum comparison (R97, R98) -/

/-- Exceeds `|S - R|` the tolerance `tol * ulp(M)`? -/
def beyondTol (tol : Nat) (S R : Num) (M : Nat × Int) : Bool :=
  match addExact S (numNeg R) with
  | .fin _ m e =>
    let ulp : Int := if M.1 = 0 then -149 else max ((ilog2 M.1 : Int) + M.2) (-126) - 23
    !leExp m e tol ulp
  | _ => false

/-- Verdict of one comparison: 0 equal, 1 skipped, 2 mismatch. `ks` are the cells summed, `r` the check cell. -/
def Tile.compare (x : Tile) (tol : Nat) (ks : List Nat) (r : Nat) : Nat :=
  if x.isInt then
    let S := ks.foldl (fun a k => a + ((x.cell k).int.toNat % 2 ^ 32)) 0 % 2 ^ 32
    if S = (x.cell r).int.toNat % 2 ^ 32 then 0 else 2
  else
    let vs := ks.map (fun k => (x.cell k).num)
    let S := match vs with
      | [] => negZero
      | v :: rest => rest.foldl (fun a y => (roundTo fp32 (addExact a y)).1) v
    let R := (x.cell r).num
    if !isFinite S || !isFinite R then 1
    else
      let mag (v : Num) : Nat × Int := match v with | .fin _ m e => (m, e) | _ => (0, 0)
      let M := vs.foldl (fun a v => maxMag a (mag v)) (mag R)
      if beyondTol tol S R M then 2 else 0

/-- R98: a mismatch is recorded, counted, raised, and voids. -/
def State.chkMismatch (s : State) (u tile index : Nat) (row hem : Bool) : State :=
  let b := bayOfCu u
  let w := 2 ^ 31 + b2n row * 2 ^ 30 + b2n hem * 2 ^ 29 + tile * 2 ^ 28 + index * 2 ^ 24 + s.stitchLo 16
  let s1 := (s.hwSet (.cu u .chkLast) (fun _ => regOf w)).hwSet (.cu u .chkCount) (fun r => satField r 15 0 1)
  let s2 := (s1.count (.rel .chk) 1).raiseBay b 0x10 w (locCu u) 0 0
  (s2.voteVoid b 3).detect b (locCu u) 3 (u / 4) 1

/-- Apply the verdicts in order. -/
def State.chkVerdicts (s : State) (u tile : Nat) (row : Bool) : List Nat → Nat → State
  | [], _ => s
  | v :: vs, i =>
    let s1 := if v = 1 then s.hwSet (.cu u .chkCount) (fun r => satField r 31 16 1)
      else if v = 2 then s.chkMismatch u tile i row false else s
    s1.chkVerdicts u tile row vs (i + 1)

/-- The cells a closing compares, as a tile. -/
def Closing.tile (c : Closing) : Tile := { Tile.reset with isInt := c.isInt, m := c.m, n := c.n, cells := c.cells }

/-- Verdicts of the checksum row of a comparison, ascending. -/
def Closing.rows (c : Closing) (tol : Nat) : List Nat :=
  (List.range c.n).map (fun j => c.tile.compare tol ((List.range c.m).map (fun i => 16 * i + j)) (256 + j))

/-- Verdicts of its checksum column. -/
def Closing.cols (c : Closing) (tol : Nat) : List Nat :=
  (List.range c.m).map (fun i => c.tile.compare tol ((List.range c.n).map (fun j => 16 * i + j)) (272 + i))

/-- The comparison has ended: the tile is closed, unless a later instruction has started on it since (R90). -/
def Tile.afterClosing (x : Tile) (c : Closing) : Tile :=
  { x with closings := x.closings.erase c, isOpen := x.isOpen && x.lastNo != c.no }

/-- R97: the comparison of a closing tile. -/
def State.compareTile (s : State) (u k : Nat) (c : Closing) : State :=
  let tol := s.regN (.cu u .chkTol) % 65536
  let s1 := (s.chkVerdicts u k false (c.rows tol) 0).chkVerdicts u k true (c.cols tol) 0
  s1.modSte u (fun y => y.setTile k ((y.tile k).afterClosing c))

/-- The comparison of a tile that ends by cycle `t`. -/
def Tile.dueClosing (x : Tile) (t : Nat) : Option Closing := x.closings.find? (fun c => decide (c.due ≤ t))

def State.checksumCompare (s : State) (u : Nat) : State :=
  let t := (s.bay (bayOfCu u)).cycle
  let x := (s.cu u).ste
  let s1 := match x.tile0.dueClosing t, x.tile1.dueClosing t with
    | some c, _ => s.compareTile u 0 c
    | none, some c => s.compareTile u 1 c
    | none, none => s
  s1.drainAdvance u

def execChecksumCompare (t u : Nat) (s0 : State) : Host.Outcome State Fault Refusal :=
  let s := s0.bayTime (bayOfCu u) t
  .next (if s.engineRuns u then s.checksumCompare u else s)

end Sys2Proof.Machine
end

