-- ==== Sys2Proof/Machine/AddrGen.lean ====
section
/-! DEFINITION. Address generators of a memory unit: AG_STREAM_START, AG_ACCESS, INDEX_FETCH, AG_STREAM_COMPLETE (R167-R172,
R217). -/

namespace Sys2Proof.Machine

def State.modRun (s : State) (c g : Nat) (f : AgRun → AgRun) : State :=
  s.modMu c (fun m => m.setGen g { m.gen g with run := (m.gen g).run.map f })

def AgDesc.indirect (d : AgDesc) : Bool := d.op == 3 || d.op == 4
def AgDesc.reads (d : AgDesc) : Bool := d.op == 1 || d.op == 3

/-- Fabric ports a stream uses: its data port, and the port of its index stream (R170). -/
def AgDesc.ports (d : AgDesc) : List Nat :=
  (if d.port < 2 then [d.port] else []) ++ (if d.indirect && d.idxSrc ≠ 0 then [d.idxSrc - 1] else [])

/-- Do the fabric ports of a stream meet a list of ports? -/
def AgDesc.meets (d : AgDesc) (ps : List Nat) : Bool := d.ports.any (fun p => ps.contains p)

/-- The fabric ports of the dispatch passes that have not completed (R205, R217). -/
def State.dspPorts (s : State) (c : Nat) : List Nat :=
  let x := (s.mu c).dsp
  let gens := (if x.phase = .idle then [] else [x.gen]) ++ (x.closing.filter (fun p => !p.dead)).map (fun p => p.gen)
  gens.map (fun g => b2n (bitOf (s.regN (.dspDesc c g 0)) 27))

/-- R217: is generator `g`'s stream free to start: no other stream and no pass uses a port of it, and no stream that became
ready before it (in one cycle, by R27) waits for such a port? -/
def State.portFree (s : State) (c g : Nat) (r : AgRun) : Bool :=
  let m := s.mu c
  let others := (List.range 4).filterMap (fun h => if h = g then none else (m.gen h).run.map (fun q => (h, q)))
  let turn (h : Nat) : Nat := (h + 4 - m.startPtr) % 4
  !r.desc.meets (s.dspPorts c)
  && others.all (fun (h, q) =>
    !q.desc.meets r.desc.ports
    || (!q.started && decide (q.lastDue > r.lastDue ∨ (q.lastDue = r.lastDue ∧ turn g < turn h))))

/-- A stream takes its port. -/
def State.agBegin (s : State) (c g : Nat) : State :=
  match ((s.mu c).gen g).run with
  | some r =>
    if !r.started && r.desc.port ≠ 2 && s.portFree c g r then
      (s.modRun c g (fun r => { r with started := true })).modMu c (fun m =>
        { m with startPtr := (g + 1) % 4 })
    else s
  | none => s

/-- The head of a generator's start queue becomes its stream; `lastDue` holds when it became ready. -/
def State.agReady (s : State) (c g : Nat) : State :=
  let m := s.mu c
  let x := m.gen g
  match x.run, x.queue with
  | none, a :: rest =>
    let d := s.agDesc c a.d
    let r : AgRun :=
      { desc := d, cu := a.cu, base := d.base + 16 * a.offset, iter := [0, 0, 0, 0, 0], started := false, done := false
        faulted := false, idx := [], incoming := [], fetched := 0, moved := 0, stamp := 0, half := none, lastDue := (s.bay (bayOf c)).cycle }
    let s1 := s.modMu c (fun m => m.setGen g { m.gen g with queue := rest, run := some r })
    if d.port = 2 then s1.modMu c (fun m => { m with dsp := { m.dsp with waiting := m.dsp.waiting ++ [g] } }) else s1
  | _, _ => s

/-- Every generator with a start in its queue and no stream has its next stream ready, whichever is named (R167). -/
def State.agReadyAll (s : State) (c : Nat) : State := (List.range 4).foldl (fun x g => x.agReady c g) s

/-- Do the units of a cluster work (R36)? -/
def State.muWorks (s : State) (c : Nat) : Bool := s.engineRuns (4 * c)

def execAgStreamStart (t c g : Nat) (s0 : State) : Host.Outcome State Fault Refusal :=
  let s := s0.bayTime (bayOf c) t
  .next (if s.muWorks c then (s.agReadyAll c).agBegin c g else s)

/-- R172: the stream stops; the bay votes void. A lone word that waits for its pair is dropped (DESIGN CHOICE, log entry 79). -/
def State.agFault (s : State) (c g : Nat) (r : AgRun) (addr : Int) (cause : Nat) : State :=
  (s.addrFault (bayOf c) (devAddr c (lowBits 26 addr)) (locCu (4 * c + r.cu)) cause (some (bayOf c))).modRun c g
    (fun r => { r with done := true, faulted := true })

/-- R169: the byte offset of the next access; `x1` is the iteration of dimension 1 or the index. -/
def AgRun.address (r : AgRun) (x1 : Nat) : Int :=
  let i (k : Nat) : Int := if k = 1 then x1 else (r.iter.getD k 0 : Nat)
  (r.base : Int) + 16 * ((List.range 5).foldl (fun a k => a + r.desc.strides.getD k 0 * i k) 0)

/-- R169: step the iteration numbers, dimension 0 innermost; none after the last. -/
def stepIter : List Nat → List Nat → Option (List Nat)
  | [], _ => none
  | i :: is, counts =>
    if i + 1 < counts.headD 1 then some ((i + 1) :: is)
    else (stepIter is (counts.drop 1)).map (fun l => 0 :: l)

/-- R170: indices the stream needs. -/
def AgRun.needed (r : AgRun) : Nat := (r.desc.counts.drop 1).foldl (fun a n => a * n) 1

/-- R172: cause of the fault of an access, if any. -/
def State.agBad (s : State) (c : Nat) (d : AgDesc) (a : Int) : Option Nat :=
  if a < 0 ∨ 0x30000 ≤ a then some 0
  else
    let o := a.toNat
    if d.wide ∧ o % 64 ≠ 0 then some 1
    else (List.range (if d.wide then 4 else 1)).findSome? (fun i =>
      match s.muPlace c (o / 16 + i) with | .bad k => some k | _ => none)

def payload2 (lo hi : Word) : Payload := BitVec.ofNat 256 (lo.toNat + hi.toNat * 2 ^ 128)

def payloadLow (x : Payload) : Word := BitVec.ofNat 128 x.toNat
def payloadHigh (x : Payload) : Word := BitVec.ofNat 128 (x.toNat / 2 ^ 128)

/-- Room for `n` payloads in a port's outbound FIFO (R217). -/
def State.portRoom (s : State) (c p n : Nat) : Bool := decide (((s.mu c).port p).outq.length + n ≤ 8)

def State.portPush (s : State) (c p from_ : Nat) (xs : List Payload) : State :=
  s.modMu c (fun m => m.setPort p { m.port p with outq := (m.port p).outq ++ xs.map (fun x => (⟨x, 0⟩, from_)) })

/-- The first payload of a port's inbound FIFO that is in it (R217). -/
def State.portHead (s : State) (c p : Nat) : Option Payload :=
  match ((s.mu c).port p).inq with
  | (x, from_) :: _ => if from_ ≤ (s.bay (bayOf c)).cycle then some x.data else none
  | [] => none

def State.portPop (s : State) (c p n : Nat) : State :=
  s.modMu c (fun m => m.setPort p { m.port p with inq := (m.port p).inq.drop n })

/-- Has the stream used its port in cycle `t`? -/
def AgRun.busyAt (r : AgRun) (t : Nat) : Bool := r.stamp == t + 1

/-- The access is issued in cycle `t`: the stream moves to its next one. -/
def AgRun.next (r : AgRun) (t : Nat) : AgRun :=
  let idx := if r.desc.indirect && r.iter.headD 0 + 1 = r.desc.counts.headD 1 then r.idx.drop 1 else r.idx
  match stepIter r.iter r.desc.counts with
  | some i => { r with iter := i, idx := idx, moved := r.moved + 1, stamp := t + 1 }
  | none => { r with idx := idx, moved := r.moved + 1, stamp := t + 1, done := true }

/-- A read access (R169, R217). The dispatch port hands the row to the stage. -/
def State.agRead (s : State) (c g : Nat) (r : AgRun) (o : Nat) : State :=
  let t := (s.bay (bayOf c)).cycle
  let p := r.desc.port
  let n := if r.desc.wide then 4 else 1
  let go : List Word × State := s.readMany (fun s' i => s'.readMu c i) (o / 16) n
  let (ws, s1) := go
  let r' := { r.next t with lastDue := t + 4 }
  if p = 2 then
    (s1.modRun c g (fun _ => r')).modMu c (fun m => { m with dsp := { m.dsp with rows := m.dsp.rows ++ [ws] } })
  else if r.desc.wide then
    match ws with
    | [w0, w1, w2, w3] => (s1.modRun c g (fun _ => r')).portPush c p (t + 4) [payload2 w0 w1, payload2 w2 w3]
    | _ => s1
  else
    let w := ws.headD 0
    match r.half with
    | some h => (s1.modRun c g (fun _ => { r' with half := none })).portPush c p (t + 4) [payload2 h w]
    | none =>
      if r'.done then (s1.modRun c g (fun _ => r')).portPush c p (t + 4) [payload2 w 0]
      else s1.modRun c g (fun _ => { r' with half := some w })

/-- A write access (R169, R217). -/
def State.agWrite (s : State) (c g : Nat) (r : AgRun) (o : Nat) : State :=
  let p := r.desc.port
  let t := (s.bay (bayOf c)).cycle
  if r.desc.wide then
    match ((s.mu c).port p).inq with
    | (x, f0) :: (y, f1) :: _ =>
      if f0 ≤ t ∧ f1 ≤ t then
        let ws := [payloadLow x.data, payloadHigh x.data, payloadLow y.data, payloadHigh y.data]
        ((s.writeMany (fun s' i d => s'.writeMu c i d) (o / 16) ws).portPop c p 2).modRun c g (fun r => r.next t)
      else s
    | _ => s
  else
    match r.half with
    | some h => (s.writeMu c (o / 16) h).modRun c g (fun r => { r.next t with half := none })
    | none =>
      match s.portHead c p with
      | some x => ((s.writeMu c (o / 16) (payloadLow x)).portPop c p 1).modRun c g
          (fun r => { r.next t with half := some (payloadHigh x) })
      | none => s

/-- R170: a fetched word may be used from the cycle after its data returns. -/
def AgRun.arrive (r : AgRun) (t : Nat) : AgRun :=
  { r with idx := r.idx ++ (r.incoming.filter (fun (c, _) => decide (c ≤ t))).flatMap Prod.snd
           incoming := r.incoming.filter (fun (c, _) => decide (t < c)) }

/-- R170: is an index word still to be fetched, with a buffer word free for it? -/
def AgRun.wantsIndex (r : AgRun) : Bool :=
  r.started && !r.done && r.desc.indirect && r.desc.idxSrc == 0 && decide (r.fetched < ceilDiv r.needed 8)
  && decide (ceilDiv r.idx.length 8 + r.incoming.length < 2)

/-- R170: take a payload of indices from a fabric port. -/
def State.agIndexPayload (s : State) (c g : Nat) (r : AgRun) : AgRun × State :=
  if r.desc.indirect && r.desc.idxSrc ≠ 0 && r.idx.isEmpty then
    match s.portHead c (r.desc.idxSrc - 1) with
    | some x =>
      let r' := { r with idx := (List.range 16).map (fun j => field x.toNat (16 * j + 15) (16 * j)) }
      (r', (s.portPop c (r.desc.idxSrc - 1) 1).modRun c g (fun _ => r'))
    | none => (r, s)
  else (r, s)

/-- Rows of a token record (R194) by the pass's descriptor. -/
def State.tokenRows (s : State) (c g : Nat) : Nat :=
  let w0 := s.regN (.dspDesc c g 0)
  let e := field w0 17 8 + 1
  1 + ceilDiv (e * (if bitOf w0 30 then 32 else 16)) 512 + field w0 7 4

/-- Does flow control at the port let a read go on (R169, R192, R217)? -/
def State.agRoomAt (s : State) (c g : Nat) (r : AgRun) : Bool :=
  if r.desc.port = 2 then
    let x := (s.mu c).dsp
    x.gen == g && decide (x.phase = .rows) && decide (x.rows.length < s.tokenRows c g)
  else if r.desc.wide then s.portRoom c r.desc.port 2
  else r.half.isSome || s.portRoom c r.desc.port 1

/-- AG_ACCESS: one access in a bay cycle, and none in the cycle of an index fetch (R169, R170). -/
def State.agAccess (s : State) (c g : Nat) : State :=
  let t := (s.bay (bayOf c)).cycle
  match ((s.mu c).gen g).run with
  | none => s
  | some r0 =>
    let r1 := r0.arrive t
    if !r1.started || r1.done || r1.wantsIndex || r1.busyAt t then s
    else
      let (r, s1) := (s.modRun c g (fun _ => r1)).agIndexPayload c g r1
      if r.desc.indirect && r.idx.isEmpty then s1
      else
        let x1 := if r.desc.indirect then r.idx.headD 0 else r.iter.getD 1 0
        let a := r.address x1
        match s1.agBad c r.desc a with
        | some k => s1.agFault c g r a k
        | none =>
          if r.desc.reads then (if s1.agRoomAt c g r then s1.agRead c g r a.toNat else s1)
          else s1.agWrite c g r a.toNat

/-- R160, R161: has the crossbar port of generator `g`'s stream refused its access? -/
def State.agHeld (s : State) (c g : Nat) : Bool :=
  match ((s.mu c).gen g).run with
  | some r => s.portHeld c (if r.desc.port = 2 then 7 else 4 + r.desc.port) 0
  | none => false

def execAgAccess (t c g : Nat) (s0 : State) : Host.Outcome State Fault Refusal :=
  let s := s0.bayTime (bayOf c) t
  .next (if s.muWorks c && !s.agHeld c g then s.muHold c (s.agAccess c g) else s)

/-- INDEX_FETCH (R170): data back at t + 4, usable from t + 5. -/
def State.indexFetch (s : State) (c g : Nat) : State :=
  let t := (s.bay (bayOf c)).cycle
  match ((s.mu c).gen g).run with
  | none => s
  | some r0 =>
    let r := r0.arrive t
    if !r.wantsIndex || r.busyAt t then s
    else
      let o := r.desc.idxBase + 16 * r.fetched
      match s.agBad c { r.desc with wide := false } (o : Int) with
      | some k => (s.modRun c g (fun _ => r)).agFault c g r (o : Int) k
      | none =>
        let (w, s1) := s.readMu c (o / 16)
        let left := r.needed - 8 * r.fetched
        let is := (List.range (min 8 left)).map (fun j => field w.toNat (16 * j + 15) (16 * j))
        s1.modRun c g (fun _ => { r with incoming := r.incoming ++ [(t + 5, is)], fetched := r.fetched + 1, stamp := t + 1 })

def execIndexFetch (t c g : Nat) (s0 : State) : Host.Outcome State Fault Refusal :=
  let s := s0.bayTime (bayOf c) t
  .next (if s.muWorks c && !s.agHeld c g then s.indexFetch c g else s)

/-- R171: the stream is complete. -/
def State.agFinish (s : State) (c g : Nat) (r : AgRun) : State :=
  let s1 := s.modMu c (fun m => m.setGen g { m.gen g with run := none })
  if r.desc.signal && !r.faulted then s1.addSync (4 * c + r.desc.sigCu) r.desc.sigCounter 1 else s1

/-- AG_STREAM_COMPLETE; the stream of a dispatch pass completes by R205. -/
def State.agComplete (s : State) (c g : Nat) : State :=
  match ((s.mu c).gen g).run with
  | none => s
  | some r =>
    if r.done && r.desc.port ≠ 2 && (r.faulted || !r.desc.reads || decide (r.lastDue ≤ (s.bay (bayOf c)).cycle)) then s.agFinish c g r
    else s

def execAgStreamComplete (t c g : Nat) (s0 : State) : Host.Outcome State Fault Refusal :=
  let s := s0.bayTime (bayOf c) t
  .next (if s.muWorks c then s.agComplete c g else s)

end Sys2Proof.Machine
end

