-- ==== Sys2Proof/Machine/Fabric.lean ====
section
/-! DEFINITION. The neighbour fabric and the steering unit: SPIN_WRITE, LINK_PAYLOAD_TRANSFER, SEAM_*, FABRIC_PORT_TRANSFER,
TOKEN_PAYLOAD_ENTER, STEER_* (R185-R190, R211-R224). -/

namespace Sys2Proof.Machine

def State.modFab (s : State) (u : Nat) (f : Fab → Fab) : State := s.modCu u (fun cu => { cu with fab := f cu.fab })
def State.modSteer (s : State) (u : Nat) (f : Steer → Steer) : State := s.modCu u (fun cu => { cu with steer := f cu.steer })

/-! ### SPIN (R213) -/

/-- One payload of a SPIN goes to its scratchpad bytes. -/
def State.spinStore (s : State) (u : Nat) (j : SpinJob) (x : Payload) : State :=
  let line := round16 (ceilDiv (j.desc.kLen * widthOf j.desc.etype) 8)
  let o := j.desc.base + j.line * (if j.desc.pitch ≠ 0 then 16 * j.desc.pitch else line) + 32 * j.part
  let n := if 32 * j.part + 16 < line then 2 else 1
  let w := o / 16
  let b := bayOfCu u
  if 1024 < w + n then s.addrFault b (spAddr u o) (locCu u) 0 (some b)
  else
    let s1 := s.writeSp u w (payloadLow x)
    if n = 2 then s1.writeSp u (w + 1) (payloadHigh x) else s1

/-- The SPIN after a payload; none when it has written its last one. -/
def SpinJob.next (j : SpinJob) : Option SpinJob :=
  let line := round16 (ceilDiv (j.desc.kLen * widthOf j.desc.etype) 8)
  if j.part + 1 < ceilDiv line 32 then some { j with part := j.part + 1 }
  else if j.line < j.desc.count then some { j with line := j.line + 1, part := 0 }
  else none

def State.spinWrite (s : State) (u link : Nat) : State :=
  match (s.cu u).fab.spins.get [] link with
  | [] => s
  | j :: rest =>
    match s.takeLocal u link 4 with
    | none => s.linkStall u
    | some (x, s1) =>
      let q := match j.next with | some k => k :: rest | none => rest
      (s1.spinStore u j x.data).modFab u (fun f => { f with spins := f.spins.set link q })

def execSpinWrite (t u link : Nat) (s0 : State) : Host.Outcome State Fault Refusal :=
  let s := s0.bayTime (bayOfCu u) t
  .next (if s.engineRuns u then s.spinWrite u link else s)

/-! ### The steering unit (R185-R190) -/

def tokValid (x : BitVec 64) : Bool := x.getLsbD 63
def tokRoute (x : BitVec 64) : Nat := field x.toNat 62 58
def tokFlits (x : BitVec 64) : Nat := field x.toNat 57 51 + 1
/-- R186. -/
def tokTag (x : BitVec 64) : Nat := field x.toNat 19 16
/-- R185: a valid token whose reserved field is not zero. -/
def tokBad (x : BitVec 64) : Bool := tokValid x && field x.toNat 35 27 != 0

/-- The tokens of a payload. -/
def payloadToks (x : Payload) : List (BitVec 64) := (List.range 4).map (fun i => BitVec.ofNat 64 (x.toNat / 2 ^ (64 * i)))

/-- R190: a steering fault of kind `k` with the tags it records. -/
def State.steerFault (s : State) (u k : Nat) (tok dat : Option Nat) : State :=
  let b := bayOfCu u
  let s1 := s.record (.cu u .steerFaultLast) 31
    (k * 2 ^ 28 + b2n tok.isSome * 2 ^ 27 + tok.getD 0 * 2 ^ 23 + b2n dat.isSome * 2 ^ 22 + dat.getD 0 * 2 ^ 18 + s.stitchLo 16)
  let s2 := s1.modSteer u (fun x => { x with faulted := true })
  (s2.raiseBay b 0x13 (s2.regN (.cu u .steerFaultLast)) (locCu u) 0 0).voteVoid b 5

def Steer.datTag (x : Steer) : Option Nat := x.dats.head?.map (fun (_, f) => f.tag)

/-- R187: has the token FIFO room for every valid token of the payload? -/
def Steer.tokRoom (x : Steer) (p : Payload) : Bool :=
  !x.faulted && decide (x.toks.length + ((payloadToks p).filter tokValid).length ≤ 4)

/-- R187, R190: a token payload enters. -/
def State.tokEnter (s : State) (u : Nat) (p : Payload) : State :=
  let ts := (payloadToks p).filter tokValid
  let s1 := s.modSteer u (fun x => { x with toks := x.toks ++ ts })
  match ts.find? tokBad with
  | some k => s1.steerFault u 4 (some (tokTag k)) (s.cu u).steer.datTag
  | none => s1

/-- R189: does every output of the route accept the flit that entered on link `l`? -/
def State.routeReady (s : State) (u route l : Nat) : Bool :=
  let e := s.routeWord u
  (List.range 4).all (fun o => !bitOf route o || (srcOf e o == 6 && s.credit u o))
  && (!bitOf route 4 || ((s.cu u).steer.places.find? l).isNone)

/-- R189: send the flit to every output of its route. -/
def State.routeSend (s : State) (u route l : Nat) (x : Flit) : State :=
  if route = 0 then s.count (.cu u .steerDropped) 1
  else
    let s1 := s.sendAll u x ((List.range 4).filter (fun o => bitOf route o))
    let s2 := if bitOf route 4 then s1.modSteer u (fun y => { y with places := y.places.set l x }) else s1
    s2.count (.cu u .steerFlits) 1

/-- STEER_CYCLE (R188). -/
def State.steerCycle (s : State) (u : Nat) : State :=
  let x := (s.cu u).steer
  let limit := s.regN (.cu u .steerCfg) % 256
  if x.faulted then s
  else match x.toks, x.dats with
    | [], [] => s
    | tk :: _, [] =>
      let s1 := s.modSteer u (fun y => { y with tWait := x.tWait + 1 })
      if limit < x.tWait + 1 then s1.steerFault u 2 (some (tokTag tk)) none else s1
    | [], (_, d) :: _ =>
      let s1 := s.modSteer u (fun y => { y with dWait := x.dWait + 1 })
      if limit < x.dWait + 1 then s1.steerFault u 3 none (some d.tag) else s1
    | tk :: ts, (l, d) :: ds =>
      if d.tag ≠ tokTag tk then s.steerFault u 1 (some (tokTag tk)) (some d.tag)
      else
        let s1 := s.modSteer u (fun y => { y with tWait := 0, dWait := 0 })
        if s1.routeReady u (tokRoute tk) l then
          let done := decide (tokFlits tk ≤ x.sent + 1)
          (s1.routeSend u (tokRoute tk) l d).modSteer u (fun y =>
            { y with dats := ds, toks := if done then ts else tk :: ts, sent := if done then 0 else x.sent + 1 })
        else s1

def execSteerCycle (t u : Nat) (s0 : State) : Host.Outcome State Fault Refusal :=
  let s := s0.bayTime (bayOfCu u) t
  .next (if s.engineRuns u then s.steerCycle u else s)

/-- STEER_PAIR_TIMEOUT: the head has waited the limit and finds no partner in the next cycle either (R188, R190). -/
def State.steerTimeout (s : State) (u : Nat) : State :=
  let x := (s.cu u).steer
  let limit := s.regN (.cu u .steerCfg) % 256
  let due := match x.toks, x.dats with
    | _ :: _, [] => decide (limit ≤ x.tWait)
    | [], _ :: _ => decide (limit ≤ x.dWait)
    | _, _ => false
  if due then s.steerCycle u else s

def execSteerPairTimeout (t u : Nat) (s0 : State) : Host.Outcome State Fault Refusal :=
  let s := s0.bayTime (bayOfCu u) t
  .next (if s.engineRuns u then s.steerTimeout u else s)

/-! ### Fabric ports (R217) -/

/-- What CU `u` takes from fabric port `p`: its outbound links and whether its token input names the port. -/
def State.takesFrom (s : State) (u p : Nat) : List Nat × Bool :=
  let e := s.routeWord u
  (outsOf e (7 + p), tokMuOf e == p + 1)

/-- The payload at the head of a port's outbound FIFO, with the port's tag (R218). -/
def State.portOut (s : State) (c p : Nat) : Option Flit :=
  let q := (s.mu c).port p
  let t := (s.bay (bayOf c)).cycle
  match q.outq with
  | (x, from_) :: _ => if from_ ≤ t then some ⟨x.data, q.tag.at t⟩ else none
  | [] => none

/-- Can taker `u` accept the head payload of port `p` on all its destinations (R215)? -/
def State.canTake (s : State) (u p : Nat) : Bool :=
  let (ls, tok) := s.takesFrom u p
  match s.portOut (u / 4) p with
  | none => false
  | some x => (!ls.isEmpty || tok) && s.creditAll u ls && (!tok || (s.cu u).steer.tokRoom x.data)

/-- Who has taken, or given, in cycle `t`. -/
def movedIn (m : Nat × List Nat) (t : Nat) : List Nat := if m.1 = t + 1 then m.2 else []

def State.takePort (s : State) (u p : Nat) : State :=
  let (ls, tok) := s.takesFrom u p
  match s.portOut (u / 4) p with
  | none => s
  | some x =>
    let t := (s.bay (bayOfCu u)).cycle
    let s1 := s.modMu (u / 4) (fun m => m.setPort p { m.port p with
      outq := (m.port p).outq.drop 1, takers := (u % 4 + 1) % 4, took := (t + 1, (u % 4) :: movedIn (m.port p).took t) })
    let s2 := s1.sendAll u x ls
    if tok then s2.tokEnter u x.data else s2

/-- The taker whose turn it is: at most two in one cycle, by R27 over their CU index, a CU taking one payload. -/
def State.taker (s : State) (c p : Nat) : Option Nat :=
  let q := (s.mu c).port p
  let busy := movedIn q.took (s.bay (bayOf c)).cycle
  if 2 ≤ busy.length then none else rrPick 4 q.takers (fun i => !busy.contains i && s.canTake (4 * c + i) p)

def State.takers (s : State) (c p : Nat) : Nat → State
  | 0 => s
  | n + 1 => match s.taker c p with | some i => (s.takePort (4 * c + i) p).takers c p n | none => s

/-- CU `u` takes from port `p`, if the turn is its. -/
def State.takeTurn (s : State) (u p : Nat) : State := if s.taker (u / 4) p = some (u % 4) then s.takePort u p else s

/-- Can the head payload of inbound link `l` of CU `u` move into fabric port `p` and out of the links that forward it? -/
def State.canGive (s : State) (u l p : Nat) : Bool :=
  let e := s.routeWord u
  sinkOf e l == 4 + p && (s.headOf u l).isSome && s.creditAll u (outsOf e (l + 1))
  && decide (((s.mu (u / 4)).port p).inq.length < 8)

def State.givePort (s : State) (u l p : Nat) : State :=
  let t := (s.bay (bayOfCu u)).cycle
  match s.headOf u l with
  | none => s
  | some x =>
    let s1 := (s.popLink u l).sendAll u x (outsOf (s.routeWord u) (l + 1))
    s1.modMu (u / 4) (fun m => m.setPort p { m.port p with
      inq := (m.port p).inq ++ [(x, t + 1)], givers := (4 * (u % 4) + l + 1) % 16
      gave := (t + 1, (4 * (u % 4) + l) :: movedIn (m.port p).gave t) })

/-- The giver whose turn it is: at most two in one cycle, by R27 over 4 x CU index + link. -/
def State.giver (s : State) (c p : Nat) : Option Nat :=
  let q := (s.mu c).port p
  let busy := movedIn q.gave (s.bay (bayOf c)).cycle
  if 2 ≤ busy.length then none else rrPick 16 q.givers (fun i => !busy.contains i && s.canGive (4 * c + i / 4) (i % 4) p)

def State.givers (s : State) (c p : Nat) : Nat → State
  | 0 => s
  | n + 1 => match s.giver c p with | some i => (s.givePort (4 * c + i / 4) (i % 4) p).givers c p n | none => s

/-- Inbound link `l` of CU `u` gives to port `p`, if the turn is its. -/
def State.giveTurn (s : State) (u l p : Nat) : State := if s.giver (u / 4) p = some (4 * (u % 4) + l) then s.givePort u l p else s

def execFabricPortTransfer (t c port : Nat) (inbound : Bool) (s0 : State) : Host.Outcome State Fault Refusal :=
  let s := s0.bayTime (bayOf c) t
  .next (if s.muWorks c then (if inbound then s.givers c port 2 else s.takers c port 2) else s)

/-! ### Payload transfers (R215, R216) -/

/-- The head payload of inbound link `l` moves to all its destinations, or stays. A payload for local consumers is moved by
the consumer that takes it. -/
def State.linkMove (s : State) (u l : Nat) : State :=
  let e := s.routeWord u
  let outs := outsOf e (l + 1)
  match s.headOf u l with
  | none => s
  | some x =>
    match sinkOf e l with
    | 0 => if outs ≠ [] ∧ s.creditAll u outs then (s.popLink u l).sendAll u x outs else s
    | 2 => if (s.cu u).steer.tokRoom x.data then (s.popLink u l).tokEnter u x.data else s
    | 3 =>
      if !(s.cu u).steer.faulted && decide ((s.cu u).steer.dats.length < 8) then
        (s.popLink u l).modSteer u (fun y => { y with dats := y.dats ++ [(l, x)] })
      else s
    | 4 => s.giveTurn u l 0
    | 5 => s.giveTurn u l 1
    | _ => s

/-- R216: does producer 0 (vector write) or 1 (STE drain) hold a payload for link `l`? -/
def Cu.produces (cu : Cu) (l k : Nat) : Bool :=
  match (if k = 0 then cu.vec.outq else cu.ste.outq) with
  | (l', _) :: _ => l' == l
  | [] => false

/-- A local producer sends its next payload, when R27 grants it the link (R216). -/
def State.produce (s : State) (u k : Nat) : State :=
  let cu := s.cu u
  match (if k = 0 then cu.vec.outq else cu.ste.outq) with
  | [] => s
  | (l, x) :: rest =>
    if rrPick 2 (cu.fab.ptr.get 0 l) (fun i => cu.produces l i) = some k && srcOf (s.routeWord u) l == 5 && s.credit u l then
      let s1 := s.modCu u (fun y => { y with
        vec := if k = 0 then { y.vec with outq := rest } else y.vec
        ste := if k = 0 then y.ste else { y.ste with outq := rest }
        fab := { y.fab with ptr := y.fab.ptr.set l ((k + 1) % 2) } })
      s1.sendLink u l x
    else s.linkStall u

/-- LINK_PAYLOAD_TRANSFER: source 0-3 an inbound link, 4 and 5 the outbound FIFO of fabric port 0 and 1, 6 and 7 the vector
write and the STE drain. `check`: what the receiver finds of the head payload (R211); whoever takes a bad one, by this command or
another, takes it as it was received. -/
def State.linkTransfer (s : State) (u src : Nat) (check : LinkCheck) : State :=
  match src with
  | 4 => s.takeTurn u 0
  | 5 => s.takeTurn u 1
  | 6 => s.produce u 0
  | 7 => s.produce u 1
  | l =>
    match s.headOf u l with
    | none => s
    | some _ => (s.linkChecked u l check).linkMove u l

def execLinkPayloadTransfer (t u src : Nat) (check : LinkCheck) (s0 : State) : Host.Outcome State Fault Refusal :=
  let s := s0.bayTime (bayOfCu u) t
  .next (if s.engineRuns u then s.linkTransfer u src check else s)

/-- TOKEN_PAYLOAD_ENTER: from inbound link 0-3 whose sink is the token FIFO, or from fabric port `link - 4` (R187). -/
def execTokenPayloadEnter (t u link : Nat) (s0 : State) : Host.Outcome State Fault Refusal :=
  let s := s0.bayTime (bayOfCu u) t
  .next (if !s.engineRuns u then s
    else if link < 4 then (if sinkOf (s.routeWord u) link = 2 then s.linkMove u link else s)
    else if (s.takesFrom u (link - 4)).2 then s.takeTurn u (link - 4) else s)

/-! ### Seams (R222-R224) -/

/-- A payload has crossed and stands at the head of the CU's link, where it is still one of the seam buffer's 64 until it is taken
(R222). A seam that is shut delivers nothing (R224). -/
def State.seamExit (s : State) (u link : Nat) : State :=
  let t := (s.bay (bayOfCu u)).cycle
  match (s.cu u).fab.seamQ link with
  | (x, exit) :: rest =>
    if exit ≤ t ∧ (s.cu u).fab.q link = [] ∧ s.seamShut u link = false then
      s.modFab u (fun f => { f with seam := f.seam.set link rest, inq := f.inq.set link [(x, t)] })
    else s
  | [] => s

def execSeamPayloadExit (t u link : Nat) (s0 : State) : Host.Outcome State Fault Refusal :=
  let s := s0.bayTime (bayOfCu u) t
  .next (if s.engineRuns u then s.seamExit u link else s)

/-- The credit of a payload that has left the seam buffer is the sender's again (R222); a seam that is shut returns none (R224). -/
def State.seamCredit (s : State) (u link : Nat) : State :=
  match (s.cu u).fab.returning.get [] link with
  | k :: rest =>
    if k ≤ (s.bay (bayOfCu u)).cycle ∧ s.seamShut u link = false then
      s.modFab u (fun f => { f with returning := f.returning.set link rest, spent := f.spent.set link (f.spent.get 0 link - 1) })
    else s
  | [] => s

def execSeamCreditReturn (t u link : Nat) (s0 : State) : Host.Outcome State Fault Refusal :=
  let s := s0.bayTime (bayOfCu u) t
  .next (if s.engineRuns u then s.seamCredit u link else s)

end Sys2Proof.Machine
end

