-- ==== Sys2Proof/Machine/Hbm.lean ====
section
/-! DEFINITION. External memory: interleave, stored words, versioned pages (R292-R305). External memory occupies region 0x0 of
the device address space; a page's second copy lies 64 KiB above the first. -/

namespace Sys2Proof.Machine

def State.modHbm (s : State) (f : Hbm → Hbm) : State := { s with hbm := f s.hbm }

/-- R294: stripes of a pseudo-channel. -/
def stripesPerPc : Nat := 1766022

/-- R295: usable capacity in bytes. -/
def State.capacity (s : State) : Nat := stripesPerPc * 512 * s.hbm.mapped.length

/-- Where the interleave puts an address (R297). `q` is 24 x (2c + p) + s. -/
structure HbmPlace where
  q : Nat
  stripe : Nat
  attach : Nat
  deriving DecidableEq, Repr

def HbmPlace.stack (p : HbmPlace) : Nat := p.q % 24
def HbmPlace.pc (p : HbmPlace) : Nat := p.q / 24

def State.hbmPlace (s : State) (x : Nat) : HbmPlace :=
  let big := max 1 s.hbm.mapped.length
  let n := x / 512
  let r := n / big
  let slot := (n % big + 397 * r) % big
  ⟨s.hbm.mapped.getD slot 0, r, n / 24 % 64⟩

/-- R18, R19: the panel of a stack. -/
def stackPanel (st : Nat) : Nat :=
  if st < 8 then st
  else if st < 16 then 40 + (st - 8)
  else if st < 20 then 8 * (st - 15)
  else 15 + 8 * (st - 20)

/-- R292: the router of an attachment, as a cluster number. -/
def attachRouter (st a : Nat) : Nat :=
  let px := stackPanel st % 8
  let py := stackPanel st / 8
  if st < 8 then clusterAt (64 * px + a) 0
  else if st < 16 then clusterAt (64 * px + a) 431
  else if st < 20 then clusterAt 0 (72 * py + 4 + a)
  else clusterAt 511 (72 * py + 4 + a)

def State.hbmRouter (s : State) (x : Nat) : Nat :=
  let p := s.hbmPlace x
  attachRouter p.stack p.attach

/-- The versioned page that holds an address in either half (R302). -/
def State.pageOf (s : State) (x : Nat) : Option VPage :=
  s.hbm.pages.find? (fun p => decide (p.base ≤ x ∧ x < p.base + 0x20000))

def State.setPage (s : State) (p : VPage) : State :=
  s.modHbm (fun h => { h with pages := h.pages.map (fun q => if q.base = p.base then p else q) })

/-- R5, R302: cause of the address fault of an external address, if it is one. -/
def State.hbmBad (s : State) (x : Nat) : Option Nat :=
  if s.capacity ≤ x then some 0
  else match s.pageOf x with
    | some p => if p.base + 0x10000 ≤ x then some 4 else none
    | none => none

/-- R352: a write to an import page from elsewhere than the import path is an address fault too. -/
def State.hbmWriteBad (s : State) (x : Nat) : Option Nat :=
  match s.hbmBad x with
  | some k => some k
  | none => match s.pageOf x with
    | some p => if p.imp.isSome then some 0 else none
    | none => none

/-- R303: granule of an address in its page. -/
def granuleOf (p : VPage) (x : Nat) : Nat := (x - p.base) / 256

/-- R303, R352: where a read of address `x` finds its data; an import page shows half STITCH_COMMIT_SEQ mod 2. -/
def State.hbmReadAt (s : State) (x : Nat) : Nat :=
  match s.pageOf x with
  | some p =>
    if p.imp.isSome then (if s.stitch.commitSeq % 2 = 1 then x + 0x10000 else x)
    else if p.sel.contains (granuleOf p x) then x + 0x10000 else x
  | none => x

/-- R303: where a write to `x` puts its data. -/
def State.hbmShadowAt (s : State) (x : Nat) : Nat :=
  match s.pageOf x with
  | some p => if p.sel.contains (granuleOf p x) then x else x + 0x10000
  | none => x

/-- R299: has the pseudo-channel of a stored address failed? -/
def State.hbmFailed (s : State) (x : Nat) : Bool := s.hbm.failed.contains (s.hbmPlace x).q

/-- R296, R400: a corrected word of external memory. -/
def State.hbmCorrected (s : State) (x : Nat) : State :=
  let p := s.hbmPlace x
  let s1 := (s.count (.hbm p.stack .ce) 1).count (.rel .ce) 1
  s1.modHbm (fun h => { h with
    firstCe := if (h.firstCe.find? p.stack).isSome then h.firstCe else h.firstCe.set p.stack (p.pc, x)
    ceStitch := h.ceStitch.set p.stack (h.ceStitch.get 0 p.stack + 1) })

/-- R296: an uncorrectable word of external memory. -/
def State.hbmUncorrectable (s : State) (x : Nat) : State :=
  let p := s.hbmPlace x
  let st := p.stack
  let s1 := ((s.count (.hbm st .ue) 1).count (.rel .ue) 1).record (.hbm st .ueLast) 63
    (p.pc * 2 ^ 57 + s.stitchLo 16 * 2 ^ 41 + x % 2 ^ 41 / 16 * 16)
  let s2 := s1.raise (240 + st) 0x26 p.pc 5 x (x / 2 ^ 32)
  (s2.voidStack st 2).detect (192 + st) p.pc 2 0 0

/-- Read the 16-byte word stored at `a`: its data, whether it is good, and the state after. -/
def State.hbmWord (s : State) (a : Nat) : Word × Bool × State :=
  if s.hbmFailed a then (0, false, s)
  else
    let d := s.decodeAt a
    let s0 := if 2 < (s.errs.get [] (a / 16)).length then s.takeFree else s
    if d.verdict = 0 then (d.data, true, s0)
    else if d.verdict = 1 then (d.data, true, s0.hbmCorrected a)
    else (d.data, false, s0.hbmUncorrectable a)

/-- Read `n` words from address `x`, a multiple of 16 (R296, R303): their data and whether all were good. -/
def State.hbmReadWords (s : State) (x : Nat) : Nat → List Word × Bool × State
  | 0 => ([], true, s)
  | n + 1 =>
    let (w, ok, s1) := s.hbmWord (s.hbmReadAt x)
    let (ws, ok', s2) := s1.hbmReadWords (x + 16) n
    (w :: ws, ok && ok', s2)

/-- R308: mark the 2 MiB granule of a write in a session. -/
def State.hbmMark (s : State) (x : Nat) : State :=
  if s.stitch.session then s.modHbm (fun h => { h with marked := insertSorted (x / 0x200000) h.marked }) else s

/-- R456: a write to the range of a resident weight set sets its modified bit. -/
def weightsHit (c : Ctx) (x : Nat) : Ctx :=
  { c with modified := (List.range c.image.weights.length).foldl (fun l i => match c.image.weights[i]? with
      | some w => if w.base ≤ x ∧ x < w.base + w.length then insertSorted i l else l
      | none => l) c.modified }

def State.hbmModified (s : State) (x : Nat) : State := { s with ctxs := s.ctxs.map (fun (k, c) => (k, weightsHit c x)) }

/-- The address that names what is stored at `a`: a page's second copy has none of its own (R302). -/
def State.hbmNamed (s : State) (a : Nat) : Nat :=
  match s.pageOf a with
  | some p => if p.base + 0x10000 ≤ a then a - 0x10000 else a
  | none => a

/-- A word is stored, and its granule of 2 MiB marked. -/
def State.hbmStore (s : State) (a : Nat) (w : Word) : State := if s.hbmFailed a then s else (s.putWord a w).hbmMark a

/-- A write, stored at `a`. -/
def State.hbmPut (s : State) (a : Nat) (w : Word) : State :=
  if s.hbmFailed a then s else (s.hbmStore a w).hbmModified (s.hbmNamed a)

/-- A merge copy, which writes nothing new (R303). -/
def State.hbmMerge (s : State) (a : Nat) : List Word → State
  | [] => s
  | w :: ws => (s.hbmStore a w).hbmMerge (a + 16) ws

/-- Words from stored address `a` on. -/
def State.hbmPuts (s : State) (a : Nat) : List Word → State
  | [] => s
  | w :: ws => (s.hbmPut a w).hbmPuts (a + 16) ws

/-- R357: a frozen granule of versioned state that has not been streamed joins the stream with the words of copy sel, before it is
written. -/
def State.hbmCapture (s : State) (x : Nat) : State :=
  match s.pageOf x with
  | none => s
  | some p =>
    let a := p.base + 256 * granuleOf p x
    if p.imp.isNone && s.twin.frozen.contains a then (s.hbmReadWords a 16).2.2.capture a (s.hbmReadWords a 16).1 else s

/-- R303, R357: the first write of a stitch to a granule copies it, unless it writes the whole granule; the capture takes the words that
the merge copy reads. -/
def State.hbmTouch (s : State) (x : Nat) (whole : Bool) : State :=
  match s.pageOf x with
  | none => s
  | some p =>
    let g := granuleOf p x
    if p.wr.contains g then s.hbmCapture x
    else
      let a := p.base + 256 * g
      let frozen := s.twin.frozen.contains a
      let (ws, s1) : List Word × State := if whole && !frozen then ([], s) else ((s.hbmReadWords a 16).1, (s.hbmReadWords a 16).2.2)
      let s2 := (if frozen then s1.capture a ws else s1).setPage { p with wr := insertSorted g p.wr }
      if whole then s2 else (s2.hbmMerge (s.hbmShadowAt a) ws).count (.hbm (s.hbmPlace a).stack .merge) 1

/-- Captured granules of a stack that wait. -/
def State.hbmCaptured (s : State) (st : Nat) : Nat :=
  (s.twin.captured.filter (fun e => e.1 / 2 ^ 44 == 0 && (s.hbmPlace e.1).stack == st)).length

/-- R357: does the step to `s'` find a controller's capture queue, 64 granules, full? The stack. -/
def State.hbmFull (s s' : State) : Option Nat :=
  if s.twin.captured.length = s'.twin.captured.length then none
  else (List.range 24).find? (fun st => decide (64 < s'.hbmCaptured st ∧ s.hbmCaptured st < s'.hbmCaptured st))

/-- R357: a step whose writes find a queue full holds. -/
def State.hbmHold (s : State) (s' : State) : State := match s.hbmFull s' with | some st => s.holdWrite st | none => s'

/-- Replace bytes `[lo, lo + data.length)` of a word. -/
def spliceWord (w : Word) (lo : Nat) (data : List Byte) : Word :=
  let bs := leBytes 16 w.toNat
  BitVec.ofNat 128 (leNat (bs.take lo ++ data ++ bs.drop (lo + data.length)))

/-- Write the bytes that fall into the word at `x - x % 16` (a partial word is read first, R296). -/
def State.hbmWordWrite (s : State) (target : State → Nat → Nat) (x : Nat) (data : List Byte) : State :=
  let a := target s (x - x % 16)
  if data.length = 16 then s.hbmPut a (BitVec.ofNat 128 (leNat data))
  else
    let (w, _, s1) := s.hbmWord a
    s1.hbmPut a (spliceWord w (x % 16) data)

/-- Write bytes from `x` on, word by word; `n` bounds the number of words. -/
def State.hbmBytes (s : State) (target : State → Nat → Nat) (x : Nat) (data : List Byte) : Nat → State
  | 0 => s
  | n + 1 =>
    match data with
    | [] => s
    | _ =>
      let k := 16 - x % 16
      (s.hbmWordWrite target x (data.take k)).hbmBytes target (x + k) (data.drop k) n

/-- The granule touches of a write of `len` bytes at `x`. -/
def State.hbmTouches (s : State) (x len : Nat) : State :=
  let first := x / 256
  let last := (x + len - 1) / 256
  (List.range (last + 1 - first)).foldl (fun s' i =>
    let a := 256 * (first + i)
    s'.hbmTouch (max x a) (decide (x ≤ a ∧ a + 256 ≤ x + len))) s

/-- R303, R305: a write of the stitch; a versioned page takes it in its shadow. -/
def State.hbmWrite (s : State) (x : Nat) (data : List Byte) : State :=
  if data = [] then s else (s.hbmTouches x data.length).hbmBytes State.hbmShadowAt x data (data.length + 1)

/-- Where the load path writes: copy sel of a versioned page, half 0 of an import page (R305, R352). -/
def State.hbmLoadAt (s : State) (x : Nat) : Nat :=
  match s.pageOf x with
  | some p => if p.imp.isSome then x else s.hbmReadAt x
  | none => x

/-- R305: the load path, and the host while no session runs, write copy sel; a frozen granule is captured first (R357). -/
def State.hbmLoad (s : State) (x : Nat) (data : List Byte) : State :=
  ((List.range ((x + data.length - 1) / 256 + 1 - x / 256)).foldl (fun y i => y.hbmCapture (256 * (x / 256 + i))) s).hbmBytes
    State.hbmLoadAt x data (data.length + 1)

/-- Lengths of the runs of at most `n` bytes from `x` on that lie in one half of a 128 KiB page; `k` bounds their number. -/
def halfRuns (x n : Nat) : Nat → List (Nat × Nat)
  | 0 => []
  | k + 1 =>
    let m := min n (65536 - x % 65536)
    if n = 0 then [] else (x, m) :: halfRuns (x + m) (n - m) k

/-- Are all bytes of a range good to read, or to write? Cause of the first bad one. -/
def State.hbmRangeBad (s : State) (x len : Nat) (write : Bool) : Option Nat :=
  let bad (a : Nat) : Option Nat := if write then s.hbmWriteBad a else s.hbmBad a
  match bad x with
  | some k => some k
  | none => if len = 0 then none else bad (x + len - 1)

/-- The image's contents for external memory, each half of a page by itself: what names the upper half of a page, or an address beyond
the usable capacity, is an address fault and is not written (R5, R302; log entry 49). -/
def State.hbmContents (s : State) (x : Nat) (data : List Byte) : State :=
  (halfRuns x data.length (data.length + 1)).foldl (fun y r => match y.hbmRangeBad r.1 r.2 false with
    | some k => y.addrFault (240 + (y.hbmPlace r.1).stack) r.1 0xFFFFFFFF k none
    | none => y.hbmLoad r.1 ((data.drop (r.1 - x)).take r.2)) s

end Sys2Proof.Machine
end

