-- ==== Sys2Proof/Machine/Routes.lean ====
section
/-! DEFINITION. Packets, routes and router buffers of the mesh (R235-R249), and remote accesses to the storage of a cluster
(R177-R180). -/

namespace Sys2Proof.Machine

/-! ### Addresses -/

def addrCluster (a : Nat) : Nat := clusterAt (field a 43 35) (field a 34 26)
def addrOffset (a : Nat) : Nat := a % 2 ^ 26

/-- R246: the panels whose fabric rail is off. -/
def State.holes (s : State) : List Nat := (List.range 48).filter (fun p => !(s.panel p).fabricOn)

/-- R241, R292: the router of the control-island attachment of panel 16, or of panel 24 when panel 16 is a hole. -/
def State.controlRouter (s : State) : Nat := clusterAt 0 (if (s.panel 16).fabricOn then 215 else 216)

/-- R241, R297: the router a device address belongs to, and whether it is its external port. -/
def State.meshDest (s : State) (a : Nat) : Option (Nat × Bool) :=
  if a / 2 ^ 44 = 0 then (if a < s.capacity then some (s.hbmRouter a, true) else none)
  else if a / 2 ^ 44 = 8 ∧ field a 34 26 < 432 then some (addrCluster a, false)
  else if a / 2 ^ 44 = 15 then some (s.controlRouter, true)
  else none

/-! ### Packets (R239, R240) -/

def pktClass : Packet → Nat
  | .request p => if p.cls = 2 then 2 else 0
  | .message _ => 0
  | .response _ => 1
  | .ack _ _ _ _ _ => 1
  | .mcAck _ _ _ _ _ => 1
  | .multicast _ _ _ => 2

def pktFlits : Packet → Nat
  | .request p => 2 + p.data.length
  | .message m => 2 + m.data.length
  | .response r => 1 + r.data.length
  | .ack _ _ _ _ _ => 1
  | .mcAck _ _ _ _ _ => 1
  | .multicast m _ _ => 2 + m.data.length

/-- Destination router of a unicast packet, and whether its external port. -/
def State.pktDest (s : State) : Packet → Option (Nat × Bool)
  | .request p => s.meshDest p.addr
  | .message m => some (m.dst / 4, false)
  | .response r => some (r.dst, r.dstExt)
  | .ack cu _ _ _ _ => some (cu / 4, false)
  | .mcAck d e _ _ _ => some (d, e == 255)
  | .multicast m _ _ => some (m.src, m.srcExt)

/-- R269: the route entry of a panel for a destination panel. -/
def State.routeEntry (s : State) (p d : Nat) : Nat :=
  s.regN (.panelRoute p (d / 4)) / 2 ^ (8 * (d % 4)) % 256

/-- R246. -/
def State.reachable (s : State) (src dst : Nat) : Bool := bitOf (s.routeEntry (panelOf src) (panelOf dst)) 7

/-- R244: a packet at router `src` with its route to `dst`. -/
def State.routed (s : State) (src dst : Nat) (ext : Bool) (p : Packet) : Moving :=
  let e := s.routeEntry (panelOf src) (panelOf dst)
  let dx := (clX dst + 512 - clX src) % 512
  let dy := (clY dst + 432 - clY src) % 432
  { pkt := p, dstX := clX dst, dstY := clY dst, ext := ext, order := bitOf e 6
    west := match field e 5 4 with | 1 => false | 2 => true | _ => decide (256 < dx)
    north := match field e 3 2 with | 1 => false | 2 => true | _ => decide (216 < dy)
    got := 1, sent := 0, bad := false, hurt := false, mark := none, tree := [] }

/-- The response to a request, to the port it came from (R242). A posted write has none. -/
def responseTo (p : MeshPacket) (status : Nat) (data : List Word) : Option MeshResponse :=
  let (r, x) := match p.src with | .cluster c => (c, false) | .outside _ r => (r, true)
  if p.cls = 2 then none
  else some { type := if p.type = 0 then 0 else 1, ctx := p.ctx, stitchLo := p.stitchLo, tag := p.tag, dst := r, dstExt := x, unit := p.unit, status := status, data := data }

/-! ### Buffers (R238) -/

def bufKey (port cls vc : Nat) : Nat := 8 * port + 2 * cls + vc

def Rtr.buf (r : Rtr) (k : Nat) : List Moving := r.inq.get [] k

/-- Flits of a buffer. -/
def flitsIn (l : List Moving) : Nat := l.foldl (fun a m => a + (m.got - m.sent)) 0

def complete (m : Moving) : Bool := decide (pktFlits m.pkt ≤ m.got)

/-- Is the VC in front of a buffer free: no packet still arriving in it? -/
def vcFree (l : List Moving) : Bool := match l.getLast? with | some m => complete m | none => true

def State.setBuf (s : State) (r k : Nat) (l : List Moving) : State := s.modRtr r (fun x => { x with inq := x.inq.set k l })

/-- A packet's first flit enters a buffer. -/
def State.enterBuf (s : State) (r k : Nat) (m : Moving) : State := s.setBuf r k ((s.rtr r).buf k ++ [m])

/-- One more flit of the packet that is arriving, `hurt` if one of its body flits has been received uncorrectable; flits of a
discarded packet are dropped as they arrive. -/
def State.moreBuf (s : State) (r k : Nat) (hurt : Bool) : State :=
  let l := (s.rtr r).buf k
  match l.getLast? with
  | none => s
  | some m =>
    let m1 := { m with got := m.got + 1, sent := if m.bad then m.sent + 1 else m.sent, hurt := m.hurt || hurt }
    s.setBuf r k (if m.bad && complete m1 then l.dropLast else l.dropLast ++ [m1])

/-- Do the routers of a panel run (R235)? -/
def State.routerRuns (s : State) (r : Nat) : Bool := (s.panel (panelOf r)).fabricOn

/-- R249: an answer waits at a cluster's mesh interface. -/
def State.reply (s : State) (c : Nat) (p : Packet) : State := s.modMu c (fun m => { m with replies := m.replies ++ [p] })

/-- One flit of a class enters at port 5, where its buffer has a place: of the packet in progress, else of the first that waits (R238). -/
def State.extFlit (s : State) (r cls : Nat) : State :=
  let k := bufKey 5 cls 0
  let l := (s.rtr r).buf k
  if 8 ≤ flitsIn l then s
  else if !vcFree l then s.moreBuf r k false
  else
    let ws := (s.rtr r).waits
    match ws.find? (fun p => pktClass p == cls) with
    | none => s
    | some p =>
      let s1 := s.modRtr r (fun x => { x with waits := ws.erase p })
      match s1.pktDest p with
      | none => s1
      | some (d, x) => if s1.reachable r d then s1.enterBuf r k (s1.routed r d x p) else s1

/-- The external endpoint's flits enter as far as the credits go (log entry 11). -/
def State.extFlits (s : State) (r : Nat) : Nat → State
  | 0 => s
  | n + 1 => (((s.extFlit r 1).extFlit r 2).extFlit r 0).extFlits r n

/-- An external endpoint has a packet for its router. -/
def State.enterExternal (s : State) (r : Nat) (p : Packet) : State :=
  (s.modRtr r (fun x => { x with waits := x.waits ++ [p] })).extFlits r 8

/-- Has the router done the work of stamp `k` in this fabric cycle, of 1 ns (R235)? -/
def State.stamped (s : State) (r k : Nat) : Bool := Assoc.find? (s.rtr r).stamp k == some s.clk.nsTotal

def State.stamp (s : State) (r k : Nat) : State := s.modRtr r (fun x => { x with stamp := x.stamp.set k s.clk.nsTotal })

/-- Take the first packet that satisfies `f` from what a router has ejected. -/
def State.takeEjected (s : State) (r : Nat) (f : Packet → Bool) : Option Packet × State :=
  let l := (s.rtr r).ejected
  match l.find? f with
  | none => (none, s)
  | some p => (some p, s.modRtr r (fun x => { x with ejected := l.takeWhile (fun q => !f q) ++ (l.dropWhile (fun q => !f q)).drop 1 }))

/-! ### Remote access to storage (R177-R180) -/

/-- R331: location word of a sender. -/
def senderL (who : Sender) (unit : Nat) : Nat :=
  match who with
  | .cluster c => if unit < 8 then locCu (4 * c + unit % 4) else locMu c
  | .outside n _ => 0x80000000 + n

/-- What an offset of a cluster holds (R5). -/
inductive Storage
  | slices (w : Nat)
  | scratchpad (i w : Nat)
  | lane (i w : Nat)
  | regs (o : Nat)
  | unlisted
  deriving DecidableEq, Repr

def storageAt (off : Nat) : Storage :=
  if off < 0x30000 then .slices (off / 16)
  else if off < 0x40000 then .scratchpad ((off - 0x30000) / 0x4000) ((off - 0x30000) % 0x4000 / 16)
  else if 0x1000000 ≤ off ∧ off < 0x1008000 then .lane ((off - 0x1000000) / 0x2000) ((off - 0x1000000) % 0x2000 / 16)
  else if 0x2000000 ≤ off then .regs (off - 0x2000000)
  else .unlisted

/-- The load path writes words at a cluster offset (R176, R180). -/
def State.pathWords (s : State) (c off : Nat) (ws : List Word) : State :=
  match storageAt off with
  | .slices w => s.writeMany (fun x i d => x.loadMu c i d) w ws
  | .scratchpad i w => s.writeMany (fun x j d => x.writeSp (4 * c + i) j d) w ws
  | .lane i w => s.writeMany (fun x j d => x.putWord (laneAddr (4 * c + i) (16 * j)) d) w ws
  | _ => s

/-- Do the registers of a bay's units hold their counts? A dormant bay keeps them (R373). -/
def countsHeld : BayPower → Bool
  | .active => true
  | .dormant => true
  | .waking => true
  | _ => false

/-- R179: a window miss, counted at the owner, with its event. `owner`: location word and counter. -/
def State.windowMiss (s : State) (b : Nat) (owner : Nat) (counter : RegId) (off ctx : Nat) (who : Sender) (unit : Nat) : State :=
  (if countsHeld (s.bay b).power then s.count counter 1 else s).raiseBay b 0x25 off (senderL who unit) owner ctx

/-- Answer of a remote access: status of R242, data, state. -/
abbrev Answer := Nat × List Word × State

/-- R178: words `w` to `w + n - 1` of the slices of cluster `c`. -/
def State.remoteSlices (s : State) (c w n off ctx : Nat) (write : Bool) (who : Sender) (unit : Nat) (data : List Word) : Answer :=
  let b := bayOf c
  let zeros : List Word := if write then [] else List.replicate n 0
  if (s.muWins c).any (fun v => v.admits ctx write off (16 * n) who) then
    match (List.range n).findSome? (fun i => match s.muPlace c (w + i) with | .bad k => some k | _ => none) with
    | some k => (1, zeros, s.addrFault b (devAddr c off) (senderL who unit) k none)
    | none =>
      if write then (0, [], s.writeMany (fun s' i d => s'.writeMu c i d) w data)
      else
        let bad := (List.range n).any (fun i => (s.decodeAt (s.muReadAddr c (s.muPlace c (w + i)))).verdict == 2)
        let (ds, s1) := s.readMany (fun s' i => s'.readMu c i) w n
        (if bad then 6 else 0, ds, s1)
  else (1, zeros, s.windowMiss b (locMu c) (.mu c .winMiss) off ctx who unit)

/-- R178: words of a scratchpad. -/
def State.remoteScratchpad (s : State) (u w n off ctx : Nat) (write : Bool) (who : Sender) (unit : Nat) (data : List Word) : Answer :=
  let b := bayOfCu u
  let zeros : List Word := if write then [] else List.replicate n 0
  if (s.cuWins u).any (fun v => v.admits ctx write (16 * w) (16 * n) who) && decide (w + n ≤ 1024) then
    if write then (0, [], s.writeMany (fun s' i d => s'.writeSp u i d) w data)
    else
      let bad := (List.range n).any (fun i => (s.decodeAt (spAddr u (16 * (w + i)))).verdict == 2)
      let (ds, s1) := s.readMany (fun s' i => s'.readSp u i) w n
      (if bad then 6 else 0, ds, s1)
  else (1, zeros, s.windowMiss b (locCu u) (.cu u .winMiss) off ctx who unit)

/-- R450: does the master management core or a panel controller send? -/
def fromManagement : Sender → Bool
  | .outside n _ => n == 362 || decide (192 ≤ n ∧ n < 240)
  | .cluster _ => false

/-- The stores of R450 that a management request may not name: slices, scratchpads, lane stores. -/
def isStore : Storage → Bool
  | .slices _ => true
  | .scratchpad _ _ => true
  | .lane _ _ => true
  | _ => false

/-- R178, R179, R247, R450: an access to the storage of a cluster. A dark or dormant bay's storage lies in no window. A lane store has
no window either: only the load path writes it. -/
def State.remoteStorage (s : State) (c off n ctx : Nat) (write : Bool) (who : Sender) (unit : Nat) (data : List Word) : Answer :=
  let b := bayOf c
  let zeros : List Word := if write then [] else List.replicate n 0
  let miss (owner : Nat) (k : RegId) : Answer := (1, zeros, s.windowMiss b owner k off ctx who unit)
  if fromManagement who && isStore (storageAt off) then (1, zeros, s.addrFault b (devAddr c off) (senderL who unit) 0 none)
  else match storageAt off with
  | .slices w => if (s.bay b).power == .active then s.remoteSlices c w n off ctx write who unit data else miss (locMu c) (.mu c .winMiss)
  | .scratchpad i w =>
    let u := 4 * c + i
    if (s.bay b).power == .active then s.remoteScratchpad u w n off ctx write who unit data else miss (locCu u) (.cu u .winMiss)
  | .lane i _ => miss (locCu (4 * c + i)) (.cu (4 * c + i) .winMiss)
  | _ => (1, zeros, s.addrFault b (devAddr c off) (senderL who unit) 0 none)

/-- R40: a delivery of another stitch is discarded and counted at the MU, or at the CU whose scratchpad it names. -/
def State.staleCount (s : State) (c off : Nat) : State :=
  match storageAt off with
  | .scratchpad i _ => s.count (.cu (4 * c + i) .msgDiscard) 1
  | .lane i _ => s.count (.cu (4 * c + i) .msgDiscard) 1
  | _ => s.count (.mu c .discard) 1

end Sys2Proof.Machine
end

