-- ==== Sys2Proof/Machine/Sites.lean ====
section
/-! DEFINITION. The optical sites as endpoints of the mesh: attachments, reads of running exports, posted writes of imports (R339,
R353, R354). -/

namespace Sys2Proof.Machine

/-- R339: the router of attachment `a` of site `t`. -/
def siteRouter (t a : Nat) : Nat := clusterAt (64 * (t / 2 % 8) + 32 * (t % 2) + 8 + a) (72 * (t / 2 / 8) + 35)

/-- The site and attachment of a router, if it has one. -/
def siteAt (r : Nat) : Option (Nat × Nat) :=
  let x := clX r
  let y := clY r
  if y % 72 = 35 ∧ 8 ≤ x % 32 ∧ x % 32 < 24 then some (2 * (8 * (y / 72) + x / 64) + x % 64 / 32, x % 32 - 8) else none

def siteSender (t a : Nat) : Sender := .outside (264 + t) (siteRouter t a)

/-! ### Exports (R354) -/

/-- Source address and length, in words, of an export descriptor (R362). -/
def State.exportAddr (s : State) (t d : Nat) : Nat := s.regN (.optExport t d 1) + field (s.regN (.optExport t d 2)) 15 0 * 2 ^ 32
def State.exportLen (s : State) (t d : Nat) : Nat := field (s.regN (.optExport t d 3)) 23 0

def State.modExport (s : State) (t d : Nat) (f : Export → Export) : State :=
  s.modSite t (fun x => { x with exports := x.exports.map (fun e => if e.desc = d then f e else e) })

/-- A number that no read of the site in flight has: 32 tags on each of 16 attachments. -/
def Site.freeSlot (x : Site) : Option Nat :=
  (List.range 512).find? (fun i => x.exports.all (fun e => e.slots.all (fun q => decide (q.1 ≠ i))))

/-- Words `i` to `i + ws.length - 1` of an export have come. -/
def Export.put (e : Export) (i : Nat) (ws : List Word) : Export :=
  { e with got := (List.range ws.length).foldl (fun m j => m.set (i + j) (ws.getD j 0)) e.got }

/-- `n` words that no read brings: they come as zero. -/
def State.exportLost (s : State) (t d n : Nat) : State :=
  s.modExport t d (fun y => { y.put y.asked (List.replicate n 0) with asked := y.asked + n })

/-- The router that a source address of regions 0x0, 0x1 and 0x8 belongs to. -/
def State.exportRouter (s : State) (a : Nat) : Option Nat :=
  if a / 2 ^ 44 = 15 then none else (s.meshDest a).map Prod.fst

/-- Mesh read number `i`, of `n` words from address `a`, goes out from the attachment that its number names (DESIGN CHOICE, log entry
68). Words at an address that is none of the regions above, or that no route leads to, come as zero. -/
def State.exportRead (s : State) (t d i a n : Nat) : State :=
  let who := siteSender t (i % 16)
  let r := siteRouter t (i % 16)
  match s.exportRouter a with
  | none => (s.addrFault (264 + t) a (senderL who 9) 0 none).exportLost t d n
  | some q =>
    if s.reachable r q then
      (s.modExport t d (fun y => { y with slots := y.slots ++ [(i, y.asked, n)], asked := y.asked + n })).enterExternal r
        (.request { cls := 0, type := 0, ctx := s.active, stitchLo := s.stitchLo 2, tag := i / 16, len := n, src := who, unit := 9, addr := a, data := [] })
    else s.exportLost t d n

/-- One mesh read more of the export of descriptor `d`, if it may have one more in flight. -/
def State.exportAsk1 (s : State) (t d : Nat) : State :=
  match (s.site t).exports.find? (fun e => decide (e.desc = d)), (s.site t).freeSlot with
  | some e, some i =>
    if 64 ≤ e.slots.length ∨ s.exportLen t d ≤ e.asked then s
    else
      let a := s.exportAddr t d + 16 * e.asked
      s.exportRead t d i a (min (s.exportLen t d - e.asked) (16 - a / 16 % 16))
  | _, _ => s

/-- Up to `n` reads more. -/
def State.exportAsk (s : State) (t d : Nat) : Nat → State
  | 0 => s
  | n + 1 => (s.exportAsk1 t d).exportAsk t d n

/-- The site's exports ask on, the first to begin first: a number that has come free may be any one's. -/
def State.exportsAsk (s : State) (t : Nat) : State :=
  (s.site t).exports.foldl (fun x e => x.exportAsk t e.desc 64) s

/-- Read data has come to attachment `a`; data of another stitch is discarded (R40). -/
def State.exportAnswer (s : State) (t a : Nat) (p : MeshResponse) : State :=
  let i := 16 * p.tag + a
  if s.stale p.stitchLo ∨ p.type ≠ 0 then s
  else match (s.site t).exports.find? (fun e => e.slots.any (fun q => decide (q.1 = i))) with
    | none => s
    | some e =>
      let (first, n) := ((e.slots.find? (fun q => decide (q.1 = i))).map Prod.snd).getD (0, 0)
      (s.modExport t e.desc (fun y => { y.put first ((List.range n).map (fun j => p.data.getD j 0)) with
        slots := y.slots.filter (fun q => decide (q.1 ≠ i)) })).exportsAsk t

/-- A response ends at the external port of router `r`: a site takes the data of its reads. -/
def State.endpointAnswer (s : State) (r : Nat) (p : MeshResponse) : State :=
  match siteAt r with
  | some (t, a) => s.exportAnswer t a p
  | none => s

/-! ### Imports (R353) -/

/-- The device address at which word `u` for descriptor `d` lands, in half `half`. -/
def State.importAddr (s : State) (t d u half : Nat) : Nat :=
  field (s.regN (.optImport t d 1)) 30 0 * 2 ^ 17 + u / 4096 * 131072 + half * 65536 + u % 4096 * 16

/-- Does word `u` land in a page of descriptor `d`? -/
def State.importHas (s : State) (t d u : Nat) : Bool :=
  bitOf (s.regN (.optImport t d 0)) 31 && decide (u < 4096 * field (s.regN (.optImport t d 0)) 15 0)

def State.importFault (s : State) (t a : Nat) : State :=
  ((s.count (.opt t .importFault) 1).addrFault (264 + t) a (senderL (siteSender t 0) 9) 0 none).voidSite t 6

/-- A posted write of one granule's words leaves by the attachment that the granule's number names (DESIGN CHOICE, log entry 68). -/
def State.importPost (s : State) (t a : Nat) (ws : List Word) : State :=
  let k := a / 256 % 16
  s.enterExternal (siteRouter t k) (.request
    { cls := 2, type := 0, ctx := s.active, stitchLo := s.stitchLo 2, tag := 0, len := ws.length, src := siteSender t k, unit := 9, addr := a, data := ws })

/-- The words of an IMPORT flit from offset `u` on, granule by granule; `k` bounds their number. -/
def State.importWords (s : State) (t d u half : Nat) (ws : List Word) : Nat → State
  | 0 => s
  | k + 1 =>
    if ws = [] then s
    else
      let a := s.importAddr t d u half
      let n := min ws.length (16 - a / 16 % 16)
      let s1 := if s.importHas t d u then s.importPost t a (ws.take n)
        else (List.range n).foldl (fun x i => x.importFault t (a + 16 * i)) s
      s1.importWords t d (u + n) half (ws.drop n) k

end Sys2Proof.Machine
end

