-- ==== Sys2Proof/Machine/Stage.lean ====
section
/-! DEFINITION. The dispatch stage: DISPATCH_PASS_START, TOKEN_RANK, TOKEN_RESOLVE, TOKEN_PAYLOAD_EMIT, PASS_END_FILL,
DISPATCH_PASS_COMPLETE (R192-R207). -/

namespace Sys2Proof.Machine

def State.modDsp (s : State) (c : Nat) (f : Dsp → Dsp) : State := s.modMu c (fun m => { m with dsp := f m.dsp })

/-- A dispatch descriptor (R193). -/
structure DspDesc where
  en : Bool
  fp32 : Bool
  haltEn : Bool
  fillEmpty : Bool
  tokPort : Nat
  k : Nat
  d : Nat
  cand : Nat
  pRows : Nat
  haltIdx : Nat
  tableBase : Nat
  regionBase : Nat
  steerFlits : Nat
  recordBase : Nat
  indexBase : Nat
  counterBase : Nat
  maxAge : Nat
  deferCap : Nat
  deferBase : Nat
  usedBase : Nat
  zeroIdx : Nat
  deriving DecidableEq, Repr

def State.dspDesc (s : State) (c g : Nat) : DspDesc :=
  let w (i : Nat) : Nat := s.regN (.dspDesc c g i)
  { en := bitOf (w 0) 31, fp32 := bitOf (w 0) 30, haltEn := bitOf (w 0) 29, fillEmpty := bitOf (w 0) 28
    tokPort := field (w 0) 27 27, k := field (w 0) 26 23, d := field (w 0) 22 18, cand := field (w 0) 17 8 + 1
    pRows := field (w 0) 7 4, haltIdx := field (w 1) 31 22, tableBase := field (w 1) 17 0, regionBase := field (w 2) 17 0
    steerFlits := field (w 3) 24 18, recordBase := field (w 3) 17 0, indexBase := field (w 4) 17 0
    counterBase := field (w 5) 17 0, maxAge := field (w 6) 29 26, deferCap := field (w 6) 25 18, deferBase := field (w 6) 17 0
    usedBase := field (w 7) 25 16, zeroIdx := field (w 7) 15 0 }

/-- The running pass leaves the stage with its acknowledgements outstanding. -/
def Dsp.retire (x : Dsp) (dead : Bool) : List DspPass :=
  if x.phase = .idle ∨ (dead = true ∧ x.unacked = 0) then x.closing else x.closing ++ [⟨x.serial, x.gen, x.unacked, dead⟩]

/-- R192: has the stage no pass, or one that has issued its last access and its last flit? -/
def Dsp.free (x : Dsp) : Bool := x.phase == .idle || (x.phase == .draining && x.tokPay.isEmpty && x.outPkts.isEmpty)

/-- Has the router taken every flit of the stage's last packet? -/
def State.stageSent (s : State) (c : Nat) : Bool := vcFree ((s.rtr c).buf (bufKey 4 2 0))

/-- R207: the first fault of the stage stops the pass, which then counts as complete and signals nothing. -/
def State.dspFault (s : State) (c kind cand : Nat) : State :=
  let b := bayOf c
  let g := (s.mu c).dsp.gen
  let s1 := s.record (.mu c .dspFaultLast) 31 (kind * 2 ^ 28 + g * 2 ^ 26 + cand * 2 ^ 16 + s.stitchLo 16)
  let s2 := (s1.raiseBay b 0x14 (s1.regN (.mu c .dspFaultLast)) (locMu c) 0 0).voteVoid b 6
  (s2.modDsp c (fun x => { x with
    phase := .idle, rows := [], ranked := [], tokPay := [], idxBuf := [], outPkts := [], closing := x.retire true, unacked := 0
    faulted := true })).modMu c (fun m => m.setGen g { m.gen g with run := none })

/-- A word the stage reads from the slices. -/
def State.stageRead (s : State) (c o : Nat) : Word × State := s.readMu c (o / 16)

/-- R207 kind 0x4: a write of the stage that R172 would fault. -/
def State.stageWrite (s : State) (c o : Nat) (v : Word) : State :=
  match s.muPlace c (o / 16) with
  | .bad _ => s.dspFault c 4 0
  | _ => s.writeMu c (o / 16) v

/-- Does the pass go on? -/
def State.passLive (s : State) (c : Nat) : Bool := !decide ((s.mu c).dsp.phase = .idle)

/-! ### Expert and region tables (R195) -/

structure Expert where
  delivery : Nat
  expert : Nat
  quota : Nat
  inboxFirst : Nat
  route : Nat
  region : Nat
  retIndex : Nat
  deriving DecidableEq, Repr

structure Region where
  bayMask : Nat
  x0 : Nat
  x1 : Nat
  y0 : Nat
  y1 : Nat
  inboxBase : Nat
  action : Nat
  deriving DecidableEq, Repr

/-- The entry of candidate `i`; none when a reserved bit is set. -/
def State.expertOf (s : State) (c : Nat) (d : DspDesc) (i : Nat) : Option Expert × State :=
  let (w, s1) := s.stageRead c (d.tableBase + 16 * i)
  let x := w.toNat
  let bad := field x 29 28 ≠ 0 ∨ field x 15 12 ≠ 0 ∨ field x 51 45 ≠ 0 ∨ x / 2 ^ 80 ≠ 0
  (if bad then none
   else some ⟨field x 31 30, field x 27 16, field x 11 0, field x 63 52, field x 44 40, field x 39 32, field x 79 64⟩, s1)

/-- Region entry `r`; none when it is reserved or lies beyond the slices. -/
def State.regionOf (s : State) (c : Nat) (d : DspDesc) (r : Nat) : Option Region × State :=
  let o := d.regionBase + 64 * r
  if 0x30000 ≤ o then (none, s)
  else
    let (ws, s1) := s.readMany (fun s' i => s'.readMu c i) (o / 16) 4
    let x := leNat (wordsBytes ws)
    let bad := field x 223 214 ≠ 0 ∨ field x 255 242 ≠ 0 ∨ x / 2 ^ 258 ≠ 0 ∨ field x 257 256 = 3
    (if bad then none
     else some ⟨x % 2 ^ 192, field x 196 192, field x 201 197, field x 207 202, field x 213 208, field x 241 224,
       field x 257 256⟩, s1)

/-! ### What a choice writes (R200, R201) -/

def bf16Up (x : Nat) : Nat := x % 65536 * 65536

/-- R200: one record at the next record position. -/
def State.dspRecord (s : State) (c : Nat) (d : DspDesc) (outcome rank slot expert score depth fill : Nat) : State :=
  let g := (s.mu c).dsp.gen
  let n := (s.mu c).dsp.recPtr.get 0 g
  let w := (expert * 2 ^ 20 + outcome * 2 ^ 14 + rank * 2 ^ 11 + slot) + score * 2 ^ 32 + (depth * 2 ^ 16 + fill) * 2 ^ 64
  (s.stageWrite c (d.recordBase + 16 * n) (BitVec.ofNat 128 w)).modDsp c (fun x => { x with recPtr := x.recPtr.set g (n + 1) })

/-- The buffered indices go out as one word. Those of a descriptor's later passes in the stitch go on behind the last word of the pass
before, from index_base at cycle 0 (DESIGN CHOICE, log entry 80). -/
def State.idxFlush (s : State) (c : Nat) (d : DspDesc) : State :=
  let x := (s.mu c).dsp
  if x.idxBuf = [] then s
  else
    let n := x.idxPtr.get 0 x.gen
    let w := x.idxBuf.zipIdx.foldl (fun a (v, i) => a + v % 65536 * 2 ^ (16 * i)) 0
    (s.stageWrite c (d.indexBase + 16 * n) (BitVec.ofNat 128 w)).modDsp c
      (fun y => { y with idxBuf := [], idxPtr := y.idxPtr.set y.gen (n + 1) })

/-- R200: the choice's index. -/
def State.dspIndex (s : State) (c : Nat) (d : DspDesc) (v : Nat) : State :=
  let s1 := s.modDsp c (fun x => { x with idxBuf := x.idxBuf ++ [v] })
  if 8 ≤ (s1.mu c).dsp.idxBuf.length then s1.idxFlush c d else s1

/-- Record and index of a choice that is not accepted. -/
def State.dspPlain (s : State) (c : Nat) (d : DspDesc) (outcome rank slot expert score depth : Nat) : State :=
  (s.dspRecord c d outcome rank slot expert score depth 0).dspIndex c d d.zeroIdx

/-- R201: add one to counter `which` of candidate `i`. -/
def State.dspCounter (s : State) (c : Nat) (d : DspDesc) (i which : Nat) : State :=
  let o := d.counterBase + 16 * i
  let (w, s1) := s.stageRead c o
  let old := field w.toNat (32 * which + 31) (32 * which)
  if old = 0xFFFFFFFF then s1 else s1.stageWrite c o (w + BitVec.ofNat 128 (2 ^ (32 * which)))

/-! ### Delivery (R202, R203) -/

/-- A header row (R202). -/
def headerRow (age expert rank slot score stitchLo fill cand c : Nat) (valid : Bool) : List Word :=
  let h0 := age * 2 ^ 28 + expert * 2 ^ 16 + b2n valid * 2 ^ 14 + rank * 2 ^ 11 + slot
  let h2 := stitchLo * 2 ^ 16 + fill
  let h3 := cand * 2 ^ 22 + clY c * 2 ^ 9 + clX c
  [BitVec.ofNat 128 (h0 + score * 2 ^ 32 + h2 * 2 ^ 64 + h3 * 2 ^ 96), 0, 0, 0]

/-- Packets of at most four rows from byte `o` on. -/
def rowPackets (c ctx lo : Nat) (r : Region) (o : Nat) : Nat → List (List Word) → List Multicast
  | 0, _ => []
  | n + 1, rows =>
    if rows.isEmpty then []
    else
      { ctx := ctx, stitchLo := lo, src := c, srcExt := false, x0 := r.x0, x1 := r.x1, y0 := r.y0, y1 := r.y1, offset := o / 16
        bayMask := BitVec.ofNat 192 r.bayMask, data := (rows.take 4).flatten }
        :: rowPackets c ctx lo r (o + 256) n (rows.drop 4)

/-- Inbox rows of position `pos` go to the stage's packets. -/
def State.dspMesh (s : State) (c : Nat) (d : DspDesc) (e : Expert) (r : Region) (fill : Nat) (rows : List (List Word)) : State :=
  let o := r.inboxBase + 64 * (1 + d.pRows) * (e.inboxFirst + fill)
  s.modDsp c (fun x => { x with outPkts := x.outPkts ++ rowPackets c s.active (s.stitchLo 2) r o rows.length rows })

/-- R203: the token of an accepted choice. -/
def State.dspToken (s : State) (c : Nat) (d : DspDesc) (e : Expert) (rank slot score : Nat) : State :=
  let weight := bitsOf bf16 (roundTo bf16 (fp32.decode score)).1
  let w := 2 ^ 63 + e.route * 2 ^ 58 + d.steerFlits * 2 ^ 51 + rank * 2 ^ 48 + e.expert * 2 ^ 36 + slot * 2 ^ 16 + weight
  s.modDsp c (fun x => { x with tokPay := x.tokPay ++ [BitVec.ofNat 64 w] })

def DspDesc.usedAt (d : DspDesc) (i : Nat) : Nat := (d.usedBase + i) % 1024

def State.usedOf (s : State) (c : Nat) (d : DspDesc) (i : Nat) : Nat := (s.mu c).dsp.used.get 0 (d.usedAt i)

/-- accept() of R198: the candidate's place, delivery, record, index and counter. `which` is 0 for a first choice, 1 for a
NEXT_CHOICE. -/
def State.dspAccept (s : State) (c : Nat) (d : DspDesc) (e : Expert) (i rank slot score depth which : Nat)
    (payload : List (List Word)) : State :=
  let fill := s.usedOf c d i
  let s1 := s.modDsp c (fun x => { x with used := x.used.set (d.usedAt i) (fill + 1) })
  let hdr := headerRow 0 e.expert rank slot score (s.stitchLo 16) fill i c true
  let s2 :=
    if bitOf e.delivery 0 then
      match s1.regionOf c d e.region with
      | (some r, s') => s'.dspMesh c d e r fill (hdr :: payload)
      | (none, s') => s'.dspFault c 3 i
    else s1
  if !s2.passLive c then s2
  else
    let s3 := if bitOf e.delivery 1 then s2.dspToken c d e rank slot score else s2
    let s4 := s3.count (.mu c (if which = 0 then .dspAccept else .dspLater)) 1
    ((s4.dspRecord c d 0 rank slot e.expert score depth fill).dspIndex c d (e.retIndex + fill)).dspCounter c d i which

/-! ### The defer list (R199) -/

/-- Write entry `n` of the new list. -/
def State.deferWrite (s : State) (c : Nat) (d : DspDesc) (n : Nat) (hdr : List Word) (payload : List (List Word)) : State :=
  let o := d.deferBase + 64 * (1 + n * (1 + d.pRows))
  let ws := hdr ++ payload.flatten
  s.writeMany (fun s' w v => s'.stageWrite c (16 * w) v) (o / 16) ws

def State.deferCount (s : State) (c : Nat) (d : DspDesc) : Nat := (s.mu c).dsp.deferNew.get 0 d.deferBase

/-- Put a choice on the new list with an age. -/
def State.deferPut (s : State) (c : Nat) (d : DspDesc) (e : Expert) (i rank slot score age : Nat) (payload : List (List Word)) : State :=
  let n := s.deferCount c d
  let hdr := headerRow age e.expert rank slot score (s.stitchLo 16) 0 i c true
  let s1 := (s.deferWrite c d n hdr payload).modDsp c (fun x => { x with deferNew := x.deferNew.set d.deferBase (n + 1) })
  (s1.dspCounter c d i 3).count (.mu c .dspDefer) 1

/-- One committed entry is tried. Its orphan is recorded SKIPPED with expert 0 and score 0; accepted, it counts as a first choice, with its
rank as depth (DESIGN CHOICE, log entry 80). -/
def State.deferEntry (s : State) (c : Nat) (d : DspDesc) (n : Nat) : State :=
  let o := d.deferBase + 64 * (1 + n * (1 + d.pRows))
  let (ws, s1) := s.readMany (fun s' i => s'.readMu c i) (o / 16) (4 * (1 + d.pRows))
  let h := (ws.headD 0).toNat
  let age := field h 31 28
  let rank := field h 13 11
  let slot := field h 10 0
  let score := field h 63 32
  let i := field h 127 118
  let payload := chunks 4 (d.pRows + 1) (ws.drop 4)
  if !s1.seqMask.getLsbD slot then (s1.count (.mu c .dspOrphan) 1).dspPlain c d 3 rank slot 0 0 0
  else match s1.expertOf c d i with
    | (none, s2) => s2.dspFault c 3 i
    | (some e, s2) =>
      if s2.usedOf c d i < e.quota then s2.dspAccept c d e i rank slot score rank 0 payload
      else
        let s3 := s2.dspCounter c d i 2
        if age < d.maxAge then
          if s3.deferCount c d < d.deferCap then
            (s3.deferPut c d e i rank slot score (age + 1) payload).dspPlain c d 2 rank slot e.expert score rank
          else ((s3.count (.mu c .dspDeferOvf) 1).count (.mu c .dspDrop) 1).dspPlain c d 1 rank slot e.expert score rank
        else (s3.count (.mu c .dspDrop) 1).dspPlain c d 1 rank slot e.expert score rank

/-- The area's committed entries in order, then UNFILLED records up to defer_cap. Each that is not accepted writes the index zero_idx
(DESIGN CHOICE, log entry 80). -/
def State.deferAll (s : State) (c : Nat) (d : DspDesc) (cnt n : Nat) : Nat → State
  | 0 => s
  | m + 1 =>
    if !s.passLive c then s
    else (if n < cnt then s.deferEntry c d n else s.dspPlain c d 5 0 0 0 0 0).deferAll c d cnt (n + 1) m

def State.deferRun (s : State) (c : Nat) (d : DspDesc) : State :=
  if d.deferCap = 0 ∨ (s.mu c).dsp.deferDone.contains d.deferBase then s
  else
    let (w, s1) := s.stageRead c d.deferBase
    let cnt := min d.deferCap (field w.toNat 15 0)
    (s1.modDsp c (fun x => { x with deferDone := x.deferDone ++ [d.deferBase] })).deferAll c d cnt 0 d.deferCap

/-! ### Passes -/

/-- Does the dispatch stage run? It stalls while its port presents a refused access again (R161). -/
def State.stageRuns (s : State) (c : Nat) : Bool := s.muWorks c && !s.portHeld c 7 0

/-- DISPATCH_PASS_START (R192): the stage takes another pass and R27 gives generator `g` the turn among those that wait. -/
def State.passStart (s : State) (c g : Nat) : State :=
  let x := (s.mu c).dsp
  match ((s.mu c).gen g).run with
  | none => s
  | some r =>
    if r.desc.port = 2 ∧ !r.started ∧ x.free ∧ s.stageSent c ∧ rrPick 4 x.ptr (fun i => x.waiting.contains i) = some g then
      let s1 := s.modMu c (fun m => m.setGen g { m.gen g with run := some { r with started := true } })
      let s2 := s1.modDsp c (fun y => { y with
        phase := .rows, gen := g, rows := [], tokens := 0, tokPay := [], idxBuf := [], outPkts := [], closing := y.retire false
        unacked := 0, serial := y.serial + 1
        waiting := y.waiting.filter (· ≠ g), ptr := (g + 1) % 4, faulted := false })
      let d := s2.dspDesc c g
      if !d.en then s2.dspFault c 3 0 else s2.deferRun c d
    else s

def execDispatchPassStart (t c g : Nat) (s0 : State) : Host.Outcome State Fault Refusal :=
  let s := s0.bayTime (bayOf c) t
  .next (if s.stageRuns c then s.muHold c (s.passStart c g) else s)

/-- End of the token stream: the last index word and the list's count, then filling or waiting for acknowledgements. -/
def State.passEnd (s : State) (c : Nat) (d : DspDesc) : State :=
  let s1 := s.idxFlush c d
  let s2 := if s1.passLive c ∧ d.deferCap ≠ 0 then
      s1.stageWrite c d.deferBase (BitVec.ofNat 128 (s1.deferCount c d)) else s1
  if s2.passLive c then
    s2.modDsp c (fun x => { x with phase := if d.fillEmpty then .filling else .draining, fillCand := 0 })
  else s2

/-! ### Ranking (R196) -/

/-- R196: insert candidate `i` before the first entry it is strictly greater than; later equal scores rank lower. -/
def rankInsert (sc : Nat → Num) (d i : Nat) (l : List Nat) : List Nat :=
  let above := l.takeWhile (fun j => !numLt (sc j) (sc i))
  (above ++ i :: l.drop above.length).take d

def rankAll (sc : Nat → Num) (d : Nat) : List Nat → List Nat → List Nat
  | l, [] => l
  | l, i :: is => rankAll sc d (if isNaN (sc i) then l else rankInsert sc d i l) is

/-- FP32 bits of candidate `i`'s score. -/
def scoreBits (d : DspDesc) (rows : List (List Word)) (i : Nat) : Nat :=
  let w := if d.fp32 then 32 else 16
  let row := rows.getD (1 + i * w / 512) []
  let x := leNat (wordsBytes row)
  let bit := i * w % 512
  if d.fp32 then field x (bit + 31) bit else bf16Up (field x (bit + 15) bit)

/-- TOKEN_RANK: the record of the next token is complete. A stream that has ended closes the pass, or faults inside a record
(R207). -/
def State.tokenRank (s : State) (c : Nat) : State :=
  let x := (s.mu c).dsp
  let d := s.dspDesc c x.gen
  let need := s.tokenRows c x.gen
  let ended := match ((s.mu c).gen x.gen).run with | some r => r.done | none => true
  if x.phase ≠ .rows ∨ x.tokPay ≠ [] then s
  else if x.rows.length < need then
    (if ended then (if x.rows = [] then s.passEnd c d else s.dspFault c 1 0) else s)
  else
    let h := ((x.rows.headD []).headD 0).toNat
    if field h 31 11 ≠ 0 then s.dspFault c 2 0
    else
      let bits := (List.range d.cand).map (scoreBits d x.rows)
      let sc (i : Nat) : Num := fp32.decode (bits.getD i 0)
      let nans := ((List.range d.cand).filter (fun i => isNaN (sc i))).length
      (s.count (.mu c .dspNan) nans).modDsp c (fun y => { y with
        phase := .ranked, slot := field h 10 0, ranked := rankAll sc d.d [] (List.range d.cand), scores := bits
        payload := x.rows.drop (need - d.pRows) })

def execTokenRank (t c : Nat) (s0 : State) : Host.Outcome State Fault Refusal :=
  let s := s0.bayTime (bayOf c) t
  .next (if s.stageRuns c then s.muHold c (s.tokenRank c) else s)

/-! ### Resolving choices (R198) -/

/-- NEXT_CHOICE: probe the rest of the list from depth `nxt`; the depth after it. -/
def State.nextChoice (s : State) (c : Nat) (d : DspDesc) (x : Dsp) (j : Nat) (e0 : Expert) (i0 : Nat) : Nat → Nat → State × Nat
  | _, 0 => (s, 0)
  | nxt, fuel + 1 =>
    let score (i : Nat) : Nat := x.scores.getD i 0
    match x.ranked[nxt]? with
    | none => ((s.count (.mu c .dspDrop) 1).dspPlain c d 1 j x.slot e0.expert (score i0) j, nxt)
    | some i =>
      match s.expertOf c d i with
      | (none, s1) => (s1.dspFault c 3 i, nxt)
      | (some e, s1) =>
        if s1.usedOf c d i < e.quota then (s1.dspAccept c d e i j x.slot (score i) nxt 1 x.payload, nxt + 1)
        else (s1.dspCounter c d i 2).nextChoice c d x j e0 i0 (nxt + 1) fuel

/-- Choice `j`; the answer holds the next depth to probe. -/
def State.choice (s : State) (c : Nat) (d : DspDesc) (x : Dsp) (j nxt : Nat) : State × Nat :=
  match x.ranked[j]? with
  | none => (s.dspPlain c d 5 j x.slot 0 0 0, nxt)
  | some i =>
    let score := x.scores.getD i 0
    match s.expertOf c d i with
    | (none, s1) => (s1.dspFault c 3 i, nxt)
    | (some e, s1) =>
      if s1.usedOf c d i < e.quota then (s1.dspAccept c d e i j x.slot score j 0 x.payload, nxt)
      else
        let s2 := s1.dspCounter c d i 2
        match s2.regionOf c d e.region with
        | (none, s3) => (s3.dspFault c 3 i, nxt)
        | (some r, s3) =>
          match r.action with
          | 0 => ((s3.count (.mu c .dspDrop) 1).dspPlain c d 1 j x.slot e.expert score j, nxt)
          | 2 =>
            if s3.deferCount c d < d.deferCap then
              ((s3.deferPut c d e i j x.slot score 1 x.payload).dspPlain c d 2 j x.slot e.expert score j, nxt)
            else
              (((s3.count (.mu c .dspDeferOvf) 1).count (.mu c .dspDrop) 1).dspPlain c d 1 j x.slot e.expert score j, nxt)
          | _ => s3.nextChoice c d x j e i nxt (x.ranked.length + 1)

/-- Choices `j` to k - 1 in order. -/
def State.choices (s : State) (c : Nat) (d : DspDesc) (x : Dsp) (j nxt : Nat) : Nat → State
  | 0 => s
  | n + 1 =>
    if !s.passLive c then s
    else
      let (s1, nxt') := s.choice c d x j nxt
      s1.choices c d x (j + 1) nxt' n

/-- record_all of R198. -/
def State.recordAll (s : State) (c : Nat) (d : DspDesc) (outcome slot j : Nat) : Nat → State
  | 0 => s
  | n + 1 => if s.passLive c then (s.dspPlain c d outcome j slot 0 0 0).recordAll c d outcome slot (j + 1) n else s

def State.tokenResolve (s : State) (c : Nat) : State :=
  let x := (s.mu c).dsp
  let d := s.dspDesc c x.gen
  if x.phase ≠ .ranked then s
  else
    let s1 :=
      if !s.seqMask.getLsbD x.slot then (s.count (.mu c .dspSkip) 1).recordAll c d 3 x.slot 0 d.k
      else if d.haltEn && x.ranked.head? == some d.haltIdx then
        ((s.addExit x.slot).count (.mu c .dspExit) 1).recordAll c d 4 x.slot 0 d.k
      else s.choices c d x 0 d.k d.k
    if s1.passLive c then
      s1.modDsp c (fun y => { y with phase := .rows, rows := [], ranked := [], tokens := min 0xFFFF (y.tokens + 1) })
    else s1

def execTokenResolve (t c : Nat) (s0 : State) : Host.Outcome State Fault Refusal :=
  let s := s0.bayTime (bayOf c) t
  .next (if s.stageRuns c then s.muHold c (s.tokenResolve c) else s)

/-! ### Tokens, filling, completion (R203-R205) -/

/-- TOKEN_PAYLOAD_EMIT: up to four tokens enter the outbound FIFO of tok_port, when no stream uses that port (R217). -/
def State.tokenEmit (s : State) (c : Nat) : State :=
  let x := (s.mu c).dsp
  let d := s.dspDesc c x.gen
  let busy := (List.range 4).any (fun g => match ((s.mu c).gen g).run with
    | some r => r.started && r.desc.meets [d.tokPort]
    | none => false)
  if x.tokPay = [] ∨ busy ∨ !s.portRoom c d.tokPort 1 then s
  else
    let p := (x.tokPay.take 4).zipIdx.foldl (fun a (v, i) => a + v.toNat * 2 ^ (64 * i)) 0
    (s.portPush c d.tokPort (s.bay (bayOf c)).cycle [BitVec.ofNat 256 p]).modDsp c (fun y => { y with tokPay := y.tokPay.drop 4 })

def execTokenPayloadEmit (t c : Nat) (s0 : State) : Host.Outcome State Fault Refusal :=
  let s := s0.bayTime (bayOf c) t
  .next (if s.muWorks c then s.tokenEmit c else s)

/-- R204: the empty positions of candidate `i`. -/
def State.fillPositions (s : State) (c : Nat) (d : DspDesc) (e : Expert) (r : Region) (i : Nat) : Nat → Nat → State
  | _, 0 => s
  | pos, n + 1 =>
    let hdr := headerRow 0 e.expert 0 0 0 (s.stitchLo 16) pos i c false
    (s.dspMesh c d e r pos [hdr]).fillPositions c d e r i (pos + 1) n

/-- PASS_END_FILL: the next candidate. -/
def State.passFill (s : State) (c : Nat) : State :=
  let x := (s.mu c).dsp
  let d := s.dspDesc c x.gen
  if x.phase ≠ .filling then s
  else
    let i := x.fillCand
    let s1 := match s.expertOf c d i with
      | (none, s') => s'.dspFault c 3 i
      | (some e, s') =>
        if !bitOf e.delivery 0 then s'
        else match s'.regionOf c d e.region with
          | (none, s2) => s2.dspFault c 3 i
          | (some r, s2) =>
            let from_ := s2.usedOf c d i
            s2.fillPositions c d e r i from_ (e.quota - from_)
    if s1.passLive c then
      s1.modDsp c (fun y => { y with fillCand := i + 1, phase := if d.cand ≤ i + 1 then .draining else .filling })
    else s1

def execPassEndFill (t c : Nat) (s0 : State) : Host.Outcome State Fault Refusal :=
  let s := s0.bayTime (bayOf c) t
  .next (if s.stageRuns c then s.muHold c (s.passFill c) else s)

/-- The stream of generator `g`'s pass ends as R171 lays down. -/
def State.passSignal (s : State) (c g : Nat) : State :=
  match ((s.mu c).gen g).run with
  | some r => s.agFinish c g r
  | none => s

/-- An earlier pass whose packets are all acknowledged completes. -/
def State.closingComplete (s : State) (c : Nat) : State :=
  let x := (s.mu c).dsp
  match x.closing.find? (fun p => p.unacked == 0) with
  | none => s
  | some p =>
    let s1 := s.modDsp c (fun y => { y with closing := y.closing.filter (fun q => q.id != p.id) })
    if p.dead then s1 else s1.passSignal c p.gen

/-- DISPATCH_PASS_COMPLETE (R205), earlier passes first; a pass whose stream faulted ends without its signal. -/
def State.passComplete (s : State) (c : Nat) : State :=
  let x := (s.mu c).dsp
  if x.closing.any (fun p => p.unacked == 0) then s.closingComplete c
  else match ((s.mu c).gen x.gen).run with
  | none => s
  | some r =>
    if x.phase ≠ .idle ∧ r.faulted then
      (s.modDsp c (fun y => { y with phase := .idle, tokPay := [], outPkts := [], closing := y.retire true, unacked := 0 })).agFinish c x.gen r
    else if x.phase = .draining ∧ x.tokPay = [] ∧ x.outPkts = [] ∧ x.unacked = 0 then
      (s.modDsp c (fun y => { y with phase := .idle })).agFinish c x.gen r
    else s

def execDispatchPassComplete (t c : Nat) (s0 : State) : Host.Outcome State Fault Refusal :=
  let s := s0.bayTime (bayOf c) t
  .next (if s.stageRuns c then s.muHold c (s.passComplete c) else s)

end Sys2Proof.Machine
end

