-- ==== Sys2Proof/Machine/DmaEngine.lean ====
section
/-! DEFINITION. DMA engines of the CUs: DMA_TRANSFER_START, DMA_TRANSFER_COMPLETE, requests, slots and responses (R103, R104,
R253-R255). -/

namespace Sys2Proof.Machine

def State.modDma (s : State) (u : Nat) (f : Dma → Dma) : State := s.modCu u (fun cu => { cu with dma := f cu.dma })

/-- Own scratchpad or own slices: source code of R93 and word. -/
def localPlace (u a : Nat) : Option (Nat × Nat) :=
  if a / 2 ^ 26 ≠ devAddr (u / 4) 0 / 2 ^ 26 then none
  else match storageAt (addrOffset a) with
    | .slices w => some (1, w)
    | .scratchpad i w => if i = u % 4 then some (0, w) else none
    | _ => none

/-- A transfer in pieces, source, destination and units of each: none crosses a 16 KiB boundary on either side, so that each of its
sides lies wholly in one place. -/
def cutPlaces (a b units : Nat) : Nat → List (Nat × Nat × Nat)
  | 0 => []
  | n + 1 =>
    if units = 0 then []
    else
      let k := min units (min (1024 - a % 0x4000 / 16) (1024 - b % 0x4000 / 16))
      (a, b, k) :: cutPlaces (a + 16 * k) (b + 16 * k) (units - k) n

/-- R5, R103: cause of the address fault of a side of a piece, if any. -/
def State.sideBad (s : State) (u a units : Nat) : Option Nat :=
  if a % 16 ≠ 0 then some 1
  else match localPlace u a with
    | some (k, w) => if s.rangeOk u k w units then none else some (s.rangeCause u k w units)
    | none =>
      let last := a + 16 * units - 16
      if (s.meshDest a).isNone || (s.meshDest last).isNone then some 0 else none

def State.writeLocal (s : State) (u kind w : Nat) (v : Word) : State :=
  if kind = 0 then s.writeSp u w v else s.writeMu (u / 4) w v

/-- Move `n` words from a local place to another, in ascending order; when the rows get their turns at the ports is not shown here
(DESIGN CHOICE, log entry 50). -/
def State.moveLocal (s : State) (u sk sw dk dw : Nat) : Nat → State
  | 0 => s
  | n + 1 =>
    let (v, s1) := s.readSource u sk sw
    (s1.writeLocal u dk dw v).moveLocal u sk (sw + 1) dk (dw + 1) n

/-- R240: cut `units` from device address `a` at 256-byte boundaries: address and units of each piece. -/
def cut256 (a units : Nat) : Nat → List (Nat × Nat)
  | 0 => []
  | n + 1 =>
    if units = 0 then []
    else
      let k := min units (16 - a % 256 / 16)
      (a, k) :: cut256 (a + 16 * k) (units - k) n

def State.dmaPacket (s : State) (u type a len : Nat) (data : List Word) : MeshPacket :=
  { cls := 0, type := type, ctx := s.active, stitchLo := s.stitchLo 2, tag := 0, len := len, src := .cluster (u / 4)
    unit := u % 4, addr := a, data := data }

/-- R5: the address fault of the first piece that has one: address and cause. -/
def State.piecesBad (s : State) (u : Nat) (ps : List (Nat × Nat × Nat)) : Option (Nat × Nat) :=
  ps.findSome? (fun (a, b, n) => match s.sideBad u a n, s.sideBad u b n with
    | some k, _ => some (a, k)
    | none, some k => some (b, k)
    | none, none => none)

/-- R104: a piece between the CU's own scratchpad and slices. -/
def State.pieceMove (s : State) (u : Nat) (p : Nat × Nat × Nat) : State :=
  match localPlace u p.1, localPlace u p.2.1 with
  | some (sk, sw), some (dk, dw) => s.moveLocal u sk sw dk dw p.2.2
  | _, _ => s

/-- R104: the mesh requests of a piece one side of which is not local: writes from a local source, else reads. -/
def State.pieceRequests (s : State) (u : Nat) (p : Nat × Nat × Nat) : List MeshPacket :=
  match localPlace u p.1, localPlace u p.2.1 with
  | some _, some _ => []
  | some _, none => (cut256 p.2.1 p.2.2 p.2.2).map (fun (a, n) => s.dmaPacket u 1 a n [])
  | none, _ => (cut256 p.1 p.2.2 p.2.2).map (fun (a, n) => s.dmaPacket u 0 a n [])

/-- Units of the pieces that move locally. -/
def State.localUnits (s : State) (u : Nat) (ps : List (Nat × Nat × Nat)) : Nat :=
  ps.foldl (fun n p => if (s.pieceRequests u p).isEmpty then n + p.2.2 else n) 0

/-- DMA_TRANSFER_START (R104): the next queued transfer, when fewer than 4 are active. One that meets an address fault moves no word,
and the fault reports the start of the side and piece that has it (DESIGN CHOICE, log entry 62). -/
def State.dmaStart (s : State) (u : Nat) : State :=
  let d := (s.cu u).dma
  match d.queue with
  | [] => s
  | x :: rest =>
    if 4 ≤ d.active.length then s
    else
      let put (s' : State) (y : Xfer) : State := s'.modDma u (fun d' => { d' with queue := rest, active := d'.active ++ [y] })
      let ps := cutPlaces x.src x.dst x.units (x.units / 512 + 4)
      match s.piecesBad u ps with
      | some (a, k) => put (s.addrFault (bayOfCu u) a (locCu u) k (some (bayOfCu u))) { x with err := true, moved := true }
      | none =>
        let ready := (s.bay (bayOfCu u)).cycle + ceilDiv (s.localUnits u ps) 4
        put (ps.foldl (fun s' p => s'.pieceMove u p) s) { x with todo := ps.flatMap (s.pieceRequests u), moved := true, ready := ready }

def execDmaTransferStart (t u : Nat) (s0 : State) : Host.Outcome State Fault Refusal :=
  let s := s0.bayTime (bayOfCu u) t
  .next (if s.engineRuns u && !s.portHeld (u / 4) (u % 4) 6 then s.muHold (u / 4) (s.dmaStart u) else s)

/-- A local part moves at up to 64 bytes a cycle (R104). -/
def finished (t : Nat) (x : Xfer) : Bool := x.moved && decide (x.ready ≤ t) && x.todo.isEmpty && x.slots.isEmpty

/-- DMA_TRANSFER_COMPLETE (R104, R254). -/
def State.dmaComplete (s : State) (u : Nat) : State :=
  let a := (s.cu u).dma.active
  let isOver := finished (s.bay (bayOfCu u)).cycle
  match a.find? isOver with
  | none => s
  | some x =>
    let s1 := s.modDma u (fun d => { d with
      active := a.takeWhile (fun y => !isOver y) ++ (a.dropWhile (fun y => !isOver y)).drop 1 })
    if x.signal && !x.err then s1.addSync u x.counter 1 else s1

def execDmaTransferComplete (t u : Nat) (s0 : State) : Host.Outcome State Fault Refusal :=
  let s := s0.bayTime (bayOfCu u) t
  .next (if s.engineRuns u then s.dmaComplete u else s)

/-! ### Requests (R253) -/

/-- Slots in use by the engine: tags, and the requests to an endpoint. -/
def Dma.tags (d : Dma) : List Nat := d.active.flatMap (fun x => x.slots.map (fun t => t.1))
def Dma.toward (d : Dma) (e : Nat) : Nat := (d.active.flatMap (fun x => x.slots.filter (fun t => t.2.2 == e))).length

/-- R253: number of a destination endpoint. -/
def State.endpoint (s : State) (a : Nat) : Nat :=
  match s.meshDest a with
  | some (r, x) => 2 * r + b2n x
  | none => 0

/-- The active transfer whose next request finds a slot: its index, tag and packet. None while the CU port holds a refused DMA access
(R161). -/
def State.dmaNext (s : State) (u : Nat) : Option (Nat × Nat × MeshPacket) :=
  let d := (s.cu u).dma
  if s.portHeld (u / 4) (u % 4) 6 then none
  else match (List.range 32).find? (fun t => !d.tags.contains t) with
  | none => none
  | some tag =>
    (List.range d.active.length).findSome? (fun i =>
      match (d.active[i]?).bind (fun x => x.todo.head?) with
      | some p => if d.toward (s.endpoint p.addr) < 16 then some (i, tag, p) else none
      | none => none)

/-- The request leaves: it takes its slot; the data of a write from a local source is read now. -/
def State.dmaTake (s : State) (u i tag : Nat) (p : MeshPacket) : MeshPacket × State :=
  match (s.cu u).dma.active[i]? with
  | none => (p, s)
  | some x =>
    let slotAddr := if p.type = 0 then x.dst + (p.addr - x.src) else 0
    let s1 := s.modDma u (fun d => { d with
      active := d.active.set i { x with todo := x.todo.drop 1, slots := x.slots ++ [(tag, slotAddr, s.endpoint p.addr)] } })
    if p.type = 1 ∧ p.data = [] then
      match localPlace u (x.src + (p.addr - x.dst)) with
      | some (k, w) =>
        let (ds, s2) := s1.readMany (fun s' j => s'.readSource u k j) w p.len
        ({ p with tag := tag, data := ds }, s2)
      | none => ({ p with tag := tag }, s1)
    else ({ p with tag := tag }, s1)

/-! ### Responses (R254) -/

/-- Read data goes to its place: local storage, or further write requests when both sides are remote. -/
def State.dmaData (s : State) (u i dst : Nat) (data : List Word) : State :=
  match localPlace u dst with
  | some (k, w) => s.writeMany (fun s' j v => s'.writeLocal u k j v) w data
  | none =>
    let ps := (cut256 dst data.length data.length).map (fun (a, n) => s.dmaPacket u 1 a n ((data.drop ((a - dst) / 16)).take n))
    s.modDma u (fun d => { d with active := d.active.modify i (fun x => { x with todo := x.todo ++ ps }) })

/-- A response for the DMA engine of CU `u`. -/
def State.dmaResponse (s : State) (u : Nat) (r : MeshResponse) : State :=
  let d := (s.cu u).dma
  match (List.range d.active.length).find? (fun i => match d.active[i]? with
      | some x => x.slots.any (fun t => t.1 == r.tag)
      | none => false) with
  | none => s
  | some i =>
    match d.active[i]? with
    | none => s
    | some x =>
      let at_ := match x.slots.find? (fun t => t.1 == r.tag) with | some t => t.2.1 | none => 0
      let s1 := s.modDma u (fun d => { d with
        active := d.active.set i { x with slots := x.slots.filter (fun t => t.1 != r.tag), err := x.err || r.status != 0 } })
      let s2 := if r.status = 0 then s1 else s1.voteVoid (bayOfCu u) 6
      if r.type = 0 then s2.dmaData u i at_ r.data else s2

end Sys2Proof.Machine
end

