-- ==== Sys2Proof/Machine/Messages.lean ====
section
/-! DEFINITION. Message channels: MESSAGE_SEND_INJECT, MESSAGE_ARRIVAL, MESSAGE_PART_ARRIVAL, MESSAGE_RESPONSE, MESSAGE_RETRY,
RING_RELEASE (R256-R266). -/

namespace Sys2Proof.Machine

def State.modMsg (s : State) (u : Nat) (f : Msg → Msg) : State := s.modCu u (fun cu => { cu with msg := f cu.msg })
def State.modChan (s : State) (u ch : Nat) (f : Chan → Chan) : State := s.modCu u (fun cu => cu.setChan ch (f (cu.chan ch)))

/-! ### Sending (R258, R259) -/

/-- R259: the header of a message, or of a pad. -/
def msgHeader (units kind seq col row cu ch : Nat) : Word :=
  BitVec.ofNat 128 (units + kind * 2 ^ 10 + seq * 2 ^ 16 + (col + row * 2 ^ 9 + cu * 2 ^ 18 + ch * 2 ^ 20) * 2 ^ 32)

/-- Unit `k` of a message: its header, or a unit of the body. A body that runs past the scratchpad's end goes on at its start (DESIGN
CHOICE, log entry 48). -/
def State.msgUnit (s : State) (u ch : Nat) (j : SendJob) (k : Nat) : Word × State :=
  if k = 0 then (msgHeader j.units 0 j.seq (clX (u / 4)) (clY (u / 4)) (u % 4) ch, s)
  else s.readSp u ((j.body / 16 + k - 1) % 1024)

/-- R256: destination CU and ring of a channel. -/
def State.chanDest (s : State) (u ch : Nat) : Nat × Nat :=
  let w := s.regN (.chan u ch 0)
  (4 * clusterAt (field w 12 4) (field w 21 13) + field w 23 22, field w 26 24)

/-- MESSAGE_SEND_INJECT: the next part of the message at the head of the channel's queue is read and waits for injection. -/
def State.messageInject (s : State) (u ch : Nat) : State :=
  let c := (s.cu u).chan ch
  match c.queue with
  | [] => s
  | j :: _ =>
    if j.units ≤ c.injected ∨ c.retryAt.isSome then s
    else
      let n := min 16 (j.units - c.injected)
      let (ds, s1) := s.readMany (fun s' k => s'.msgUnit u ch j k) c.injected n
      let (dst, ring) := s.chanDest u ch
      let p : MsgPart :=
        { src := u, chan := ch, dst := dst, ring := ring, ctx := s.active, stitchLo := s.stitchLo 2, units := j.units
          part := c.injected, data := ds }
      (s1.modChan u ch (fun c => { c with flying := true, injected := c.injected + n })).modMsg u (fun m => { m with out := m.out ++ [p] })

def execMessageSendInject (t u ch : Nat) (s0 : State) : Host.Outcome State Fault Refusal :=
  let s := s0.masterTime t
  .next (if s.engineRuns u then s.messageInject u ch else s)

/-- R258: the message in flight has its final answer: it leaves the queue. -/
def State.sendDone (s : State) (u ch : Nat) : State :=
  s.modChan u ch (fun c => { c with queue := c.queue.drop 1, flying := false, injected := 0, retries := 0, retryAt := none })

/-- R258: an ack, a NACK, or an answer that counts as a final NACK (1, 2 and 6 of R242). -/
def State.messageAnswer (s : State) (u ch status : Nat) : State :=
  let c := (s.cu u).chan ch
  let w0 := s.regN (.chan u ch 0)
  let w1 := s.regN (.chan u ch 1)
  let nack (s' : State) : State := (if bitOf w1 25 then s'.addSync u (field w1 24 20) 1 else s').sendDone u ch
  if !c.flying || c.retryAt.isSome then s
  else match status with
    | 0 =>
      let s1 := s.count (.cu u .msgOutOk) 1
      (if bitOf w1 31 then s1.addSync u (field w1 30 26) 1 else s1).sendDone u ch
    | 3 =>
      if field w0 30 27 = 15 ∨ c.retries < field w0 30 27 then
        s.modChan u ch (fun c => { c with retryAt := some (s.clk.ns + 32) })
      else nack (s.count (.cu u .msgOutNospace) 1)
    | 4 => nack (s.count (.cu u .msgOutNowindow) 1)
    | 5 => nack (s.count (.cu u .msgOutDisabled) 1)
    | _ => nack s

/-- MESSAGE_RESPONSE: an answer of another stitch is discarded and counted (R40, R255). -/
def State.messageResponse (s : State) (u ch status : Nat) : State :=
  match s.takeEjected (u / 4) (fun p => match p with | .ack c k st _ _ => c == u && k == ch && st == status | _ => false) with
  | (some (.ack _ _ _ _ lo), s1) => if s.stale lo then s1.count (.cu u .msgDiscard) 1 else s1.messageAnswer u ch status
  | _ => s.messageAnswer u ch status

def execMessageResponse (t u ch status : Nat) (s0 : State) : Host.Outcome State Fault Refusal :=
  let s := s0.masterTime t
  .next (if s.engineRuns u then s.messageResponse u ch status else s)

/-- MESSAGE_RETRY: the whole message goes again. -/
def State.messageRetry (s : State) (u ch : Nat) : State :=
  match ((s.cu u).chan ch).retryAt with
  | some at_ =>
    if at_ ≤ s.clk.ns then
      (s.modChan u ch (fun c => { c with retryAt := none, injected := 0, retries := c.retries + 1 })).count (.cu u .msgRetry) 1
    else s
  | none => s

def execMessageRetry (t u ch : Nat) (s0 : State) : Host.Outcome State Fault Refusal :=
  let s := s0.masterTime t
  .next (if s.engineRuns u then s.messageRetry u ch else s)

/-! ### Receiving (R260-R262) -/

/-- A receive ring's configuration (R268): enabled, size in units, sig, sig and rel counters, base. -/
structure RingCfg where
  en : Bool
  units : Nat
  sig : Bool
  sigCounter : Nat
  relCounter : Nat
  base : Nat
  deriving DecidableEq, Repr

def State.ringCfg (s : State) (u k : Nat) : RingCfg :=
  let w := s.regN (.ring u k)
  ⟨bitOf w 31, 2 ^ field w 30 27 / 16, bitOf w 26, field w 25 21, field w 20 16, field w 9 0⟩

def Msg.ring (m : Msg) (k : Nat) : Ring := m.rings.get Ring.reset k

def heldUnits (r : Ring) : Nat := r.held.foldl (fun a (n, _) => a + n) 0

/-- R262: where a message of `n` units goes in a ring of `z`: its offset, the length of the pad before it, the ring after. -/
def placeIn (r : Ring) (z n : Nat) : Option (Nat × Nat × Ring) :=
  let u := heldUnits r
  let wp := r.wp
  if z - u < n then none
  else
    let rp := (wp + z - u) % z
    if u = 0 ∨ rp < wp then
      let tail := z - wp
      if n ≤ tail then some (wp, 0, ⟨(wp + n) % z, r.held ++ [(n, false)]⟩)
      else if n ≤ rp then some (0, tail, ⟨n % z, r.held ++ [(tail, true), (n, false)]⟩)
      else none
    else if n ≤ rp - wp then some (wp, 0, ⟨(wp + n) % z, r.held ++ [(n, false)]⟩)
    else none

/-- R262: place a message; a pad writes its header alone. -/
def State.place (s : State) (u k n : Nat) : Option (Nat × State) :=
  let c := s.ringCfg u k
  match placeIn ((s.cu u).msg.ring k) c.units n with
  | none => none
  | some (o, pad, r) =>
    let wp := ((s.cu u).msg.ring k).wp
    let s1 := s.modMsg u (fun m => { m with rings := m.rings.set k r })
    some (o, if pad = 0 then s1 else s1.writeSp u (c.base + wp) (msgHeader pad 1 0 0 0 0 0))

/-- The answer to a message's sender. -/
def State.messageReply (s : State) (p : MsgPart) (status : Nat) : State :=
  let s1 := if status = 0 then s else s.count (.cu p.dst .msgInNack) 1
  s1.reply (p.dst / 4) (.ack p.src p.chan status p.ctx p.stitchLo)

def Msg.tracker (m : Msg) (src chan : Nat) : Option Tracker := m.trackers.find? (fun t => t.src == src && t.chan == chan)

/-- A part of a message that has a tracker is written or discarded; after the last one the ring signals and the answer goes. -/
def State.messagePart (s : State) (p : MsgPart) : State :=
  let u := p.dst
  match (s.cu u).msg.tracker p.src p.chan with
  | none => s
  | some t =>
    if t.got.contains p.part then s
    else
      let c := s.ringCfg u t.ring
      let s1 := if t.status = 0 then s.writeMany (fun s' w v => s'.writeSp u w v) (c.base + t.offset + p.part) p.data else s
      let left := t.left - p.data.length
      let others (m : Msg) : List Tracker := m.trackers.filter (fun x => !(x.src == p.src && x.chan == p.chan))
      if left = 0 then
        let s2 := s1.modMsg u (fun m => { m with trackers := others m })
        let s3 := if t.status = 0 ∧ c.sig = true then s2.addSync u c.sigCounter 1 else s2
        s3.messageReply p t.status
      else s1.modMsg u (fun m => { m with trackers := others m ++ [{ t with got := t.got ++ [p.part], left := left }] })

/-- R261: the first part decides the message, which then holds its tracker until its last part has arrived. With every tracker busy it
takes none, and its parts are counted without one (DEDUCED, log entry 52). -/
def State.messageFirst (s : State) (p : MsgPart) : State :=
  let u := p.dst
  let c := s.ringCfg u p.ring
  let full := decide (16 ≤ ((s.cu u).msg.trackers.filter (fun t => !t.unheld)).length)
  let track (s' : State) (status offset : Nat) : State :=
    (s'.modMsg u (fun m => { m with trackers := m.trackers ++ [⟨p.src, p.chan, p.ring, status, offset, p.units, [], p.units, full⟩] })).messagePart p
  if !c.en || p.ctx != s.active then track s 5 0
  else if !(s.cuWins u).any (fun w => w.admits p.ctx true (16 * c.base) (16 * c.units) (.cluster (p.src / 4))) then
    track (s.windowMiss (bayOfCu u) (locCu u) (.cu u .winMiss) (16 * c.base) p.ctx (.cluster (p.src / 4)) (4 + p.src % 4)) 4 0
  else if full then track s 3 0
  else match s.place u p.ring p.units with
    | none => track s 3 0
    | some (o, s1) => track s1 0 o

/-- The ejected packet this arrival is, if the mesh of the model brought it. -/
def State.takePart (s : State) (p : MsgPart) : State :=
  (s.takeEjected (p.dst / 4) (fun q => q == .message p)).2

/-- Checks before a part reaches the ring: a dark or dormant bay's router answers NOWINDOW (R247), a part of another stitch
is discarded (R40). -/
def State.messageCheck (s : State) (p : MsgPart) (f : State → State) : State :=
  let s1 := s.takePart p
  let b := bayOfCu p.dst
  if (s.bay b).power ≠ .active then
    (s1.windowMiss b (locCu p.dst) (.cu p.dst .winMiss) (16 * (s.ringCfg p.dst p.ring).base) p.ctx (.cluster (p.src / 4)) (4 + p.src % 4)).reply
      (p.dst / 4) (.ack p.src p.chan 4 p.ctx p.stitchLo)
  else if s.stale p.stitchLo then s1.count (.cu p.dst .msgDiscard) 1
  else f s1

def State.messageArrival (s : State) (p : MsgPart) : State :=
  if ((s.cu p.dst).msg.tracker p.src p.chan).isSome then s else s.messageCheck p (fun x => x.messageFirst p)

def execMessageArrival (t : Nat) (part : MsgPart) (s0 : State) : Host.Outcome State Fault Refusal :=
  let s := s0.masterTime t
  .next (if s.routerRuns (part.dst / 4) then s.messageArrival part else s)

def State.messagePartArrival (s : State) (p : MsgPart) : State :=
  if ((s.cu p.dst).msg.tracker p.src p.chan).isSome then s.messageCheck p (fun x => x.messagePart p) else s.takePart p

def execMessagePartArrival (t : Nat) (part : MsgPart) (s0 : State) : Host.Outcome State Fault Refusal :=
  let s := s0.masterTime t
  .next (if s.routerRuns (part.dst / 4) then s.messagePartArrival part else s)

/-! ### Release (R263) -/

/-- The ring without its oldest message and the pads before it. -/
def Ring.release (r : Ring) : Ring :=
  let rest := (r.held.dropWhile (fun e => e.2)).drop 1
  { wp := if rest = [] then 0 else r.wp, held := rest }

/-- R263: the ring looks at its counter itself; what it subtracts is seen by WAIT and WAITGE as R106 lays down. -/
def State.ringRelease (s : State) (u k : Nat) : State :=
  let c := s.ringCfg u k
  let r := (s.cu u).msg.ring k
  if c.en ∧ r.held ≠ [] ∧ 0 < (s.cu u).sync.banks.get 0 (syncKey s.bank c.relCounter) then
    (s.modMsg u (fun m => { m with rings := m.rings.set k r.release })).changeSync u c.relCounter (-1)
  else s

def execRingRelease (t u k : Nat) (s0 : State) : Host.Outcome State Fault Refusal :=
  let s := s0.bayTime (bayOfCu u) t
  .next (if s.engineRuns u then s.ringRelease u k else s)

end Sys2Proof.Machine
end

