-- ==== Sys2Proof/Machine/Mesh.lean ====
section
/-! DEFINITION. Routers: MESH_INJECT, ROUTER_FORWARD, MULTICAST_REPLICATE, MULTICAST_ACK_COMBINE, MESH_RESPONSE_RECEIVE
(R235-R255). -/

namespace Sys2Proof.Machine

/-! ### Multicast acknowledgements (R252) -/

/-- A packet of pass `n` is acknowledged. -/
def Dsp.ack (x : Dsp) (n : Nat) : Dsp :=
  if n = x.serial ∧ x.phase ≠ .idle then { x with unacked := x.unacked - 1 }
  else
    let l := x.closing.map (fun p => if p.id = n then { p with unacked := p.unacked - 1 } else p)
    { x with closing := l.filter (fun p => !(p.dead && p.unacked == 0)) }

/-- The oldest pass with a packet to be acknowledged. -/
def Dsp.oldest (x : Dsp) : Nat := match x.closing.find? (fun p => decide (0 < p.unacked)) with | some p => p.id | none => x.serial

/-- R205, R251, R252: the one ack of a multicast reaches its source. -/
def State.sourceAck (s : State) (r entry status : Nat) : State :=
  if entry ≤ 255 then s
  else
    let s1 := s.modDsp r (fun x => x.ack (entry - 256))
    if status = 0 then s1 else s1.voteVoid (bayOf r) 6

/-- Router `r` sends an ack to router `dest`, or to the source at its own local port. -/
def State.ackSend (s : State) (r dest entry status ctx lo : Nat) : State :=
  if dest = r ∧ 255 ≤ entry then s.sourceAck r entry status else s.reply r (.mcAck dest entry status ctx lo)

/-- A branch of combine entry `e` has acknowledged. -/
def State.branchAck (s : State) (r e status : Nat) : State :=
  match (s.rtr r).combine.find? e with
  | none => s
  | some c =>
    let st := max c.status status
    if c.branches ≤ 1 then
      (s.modRtr r (fun x => { x with combine := x.combine.erase e })).ackSend r c.up c.upEntry st c.mc.ctx c.mc.stitchLo
    else s.modRtr r (fun x => { x with combine := x.combine.set e { c with branches := c.branches - 1, status := st } })

/-- MULTICAST_ACK_COMBINE: an ack of another stitch is discarded and counted (R255). -/
def State.ackCombine (s : State) (r entry status : Nat) : State :=
  let go (x : State) : State := if 255 ≤ entry then x.sourceAck r entry status else x.branchAck r entry status
  match s.takeEjected r (fun p => match p with | .mcAck d e st _ _ => d == r && e == entry && st == status | _ => false) with
  | (some (.mcAck _ _ _ _ lo), s1) => if s.stale lo then s1.count (.mu r .discard) 1 else go s1
  | _ => go s

def execMulticastAckCombine (t r entry status : Nat) (s0 : State) : Host.Outcome State Fault Refusal :=
  let s := s0.masterTime t
  .next (if s.routerRuns r then s.ackCombine r entry status else s)

/-! ### Injection (R249) -/

/-- R251: the clusters a multicast names. -/
def mcTarget (m : Multicast) (c : Nat) : Bool :=
  m.bayMask.getLsbD (bayOf c) && decide (m.x0 ≤ lxOf c ∧ lxOf c ≤ m.x1 ∧ m.y0 ≤ lyOf c ∧ lyOf c ≤ m.y1)

/-- Does column `x` hold a target? -/
def mcColumn (m : Multicast) (x : Nat) : Bool :=
  decide (m.x0 ≤ x % 32 ∧ x % 32 ≤ m.x1 ∧ m.y0 ≤ m.y1 ∧ m.y0 < 36) && (List.range 12).any (fun k => m.bayMask.getLsbD (bayOf (clusterAt x (36 * k))))

/-- R252: columns at distance `d + 1` or more from the source on one side, east up to 256, west up to 255. -/
def mcOnward (m : Multicast) (west : Bool) (d : Nat) : Bool :=
  (List.range 512).any (fun x =>
    let e := (x + 512 - clX m.src) % 512
    if west then decide (256 < e ∧ d < 512 - e) && mcColumn m x else decide (e ≤ 256 ∧ d < e) && mcColumn m x)

/-- Rows of column `x` beyond distance `d` south, or north. -/
def mcOnwardY (m : Multicast) (x : Nat) (north : Bool) (d : Nat) : Bool :=
  (List.range 432).any (fun y =>
    let e := (y + 432 - clY m.src) % 432
    if north then decide (216 < e ∧ d < 432 - e) && mcTarget m (clusterAt x y)
    else decide (e ≤ 216 ∧ d < e) && mcTarget m (clusterAt x y))

/-- The branches of a multicast at router `r` that came in on port `inPort`: ports 0-3, and 4 the local port. -/
def mcBranches (m : Multicast) (r inPort : Nat) : List Nat :=
  let dx := (clX r + 512 - clX m.src) % 512
  let dy := (clY r + 432 - clY m.src) % 432
  let xPhase := inPort == 1 || inPort == 3 || decide (4 ≤ inPort)
  let turn := xPhase && mcColumn m (clX r)
  let east := (decide (4 ≤ inPort) || inPort == 3) && mcOnward m false dx
  let west := (decide (4 ≤ inPort) || inPort == 1) && mcOnward m true ((512 - dx) % 512)
  let south := (turn || inPort == 0) && mcOnwardY m (clX r) false dy
  let north := (turn || inPort == 2) && mcOnwardY m (clX r) true ((432 - dy) % 432)
  let here := (turn || inPort == 0 || inPort == 2) && mcTarget m r
  (if north then [0] else []) ++ (if east then [1] else []) ++ (if south then [2] else []) ++ (if west then [3] else [])
    ++ (if here then [4] else [])

/-- Would the tree cross a hole (R251)? -/
def State.mcHole (s : State) (m : Multicast) : Bool :=
  let hs := s.holes
  let hole (c : Nat) : Bool := hs.contains (panelOf c)
  !hs.isEmpty &&
    ((List.range 512).any (fun x =>
      let e := (x + 512 - clX m.src) % 512
      let onX := if e ≤ 256 then decide (e = 0) || mcOnward m false (e - 1) else mcOnward m true (511 - e)
      onX && (hole (clusterAt x (clY m.src)) || (mcColumn m x && (List.range 432).any (fun y =>
        let f := (y + 432 - clY m.src) % 432
        (if f ≤ 216 then decide (f = 0) || mcOnwardY m x false (f - 1) else mcOnwardY m x true (431 - f)) && hole (clusterAt x y))))))

/-- R251: a multicast that is not injected. A range that holds no cluster of a bay, past its 36 rows, counts as empty (DEDUCED, log
entry 51). -/
def State.mcRefused (s : State) (m : Multicast) : Bool :=
  decide (18432 ≤ m.offset ∨ m.x1 < m.x0 ∨ m.y1 < m.y0 ∨ 36 ≤ m.y0 ∨ m.bayMask = 0) || s.mcHole m

/-- What requester `i` of R249 has to inject. -/
inductive Offer
  | dma (slot tag : Nat) (p : MeshPacket)
  | message (p : MsgPart)
  | multicast (m : Multicast)
  deriving DecidableEq, Repr

def State.offer (s : State) (c i : Nat) : Option Offer :=
  if i < 4 then (s.dmaNext (4 * c + i)).map (fun (k, t, p) => .dma k t p)
  else if i < 8 then ((s.cu (4 * c + (i - 4))).msg.out.head?).map .message
  else ((s.mu c).dsp.outPkts.head?).map .multicast

/-- R247: an answer made at the source. -/
def State.unreachableDma (s : State) (u : Nat) (p : MeshPacket) : State :=
  s.dmaResponse u { type := if p.type = 0 then 0 else 1, ctx := p.ctx, stitchLo := p.stitchLo, tag := p.tag, dst := u / 4, dstExt := false, unit := u % 4, status := 2, data := [] }

def State.inject1 (s : State) (c dst : Nat) (ext : Bool) (p : Packet) : State :=
  (s.enterBuf c (bufKey 4 (pktClass p) 0) (s.routed c dst ext p)).stamp c 6

/-- May a packet of a class start at the local port? -/
def State.mayStart (s : State) (c cls : Nat) : Bool :=
  let l := (s.rtr c).buf (bufKey 4 cls 0)
  vcFree l && decide (flitsIn l < 8)

def State.injectOffer (s : State) (c i : Nat) : Offer → State
  | .dma k tag p =>
    let u := 4 * c + i
    let (q, s1) := s.dmaTake u k tag p
    match s.meshDest q.addr with
    | some (r, x) => if s.reachable c r then s1.inject1 c r x (.request q) else s1.unreachableDma u q
    | none => s1.unreachableDma u q
  | .message p =>
    let u := p.src
    let s1 := s.modMsg u (fun m => { m with out := m.out.drop 1 })
    if s.reachable c (p.dst / 4) then s1.inject1 c (p.dst / 4) false (.message p)
    else (s1.modMsg u (fun m => { m with out := m.out.filter (fun q => q.chan != p.chan) })).messageAnswer u p.chan 2
  | .multicast m =>
    let e := passEntry (s.mu c).dsp.serial
    let s1 := s.modDsp c (fun x => { x with outPkts := x.outPkts.drop 1, unacked := x.unacked + 1 })
    if s.mcRefused m then s1.sourceAck c e 2
    else s1.inject1 c c false (.multicast m c e)

def offerClass : Offer → Nat
  | .multicast _ => 2
  | _ => 0

/-- The first answer starts; one that no route leads to any more is dropped (R246). -/
def State.injectReply (s : State) (c : Nat) (p : Packet) (rest : List Packet) : State :=
  let s1 := s.modMu c (fun m => { m with replies := rest })
  match s.pktDest p with
  | some (d, x) => if s.reachable c d then s1.inject1 c d x p else s1
  | none => s1

/-- R27 chooses among the other packets that may start. -/
def State.injectNew (s : State) (c : Nat) : State :=
  let ready (i : Nat) : Bool := match s.offer c i with | some o => s.mayStart c (offerClass o) | none => false
  match rrPick 9 (s.mu c).injPtr ready with
  | none => s
  | some i =>
    match s.offer c i with
    | none => s
    | some o => (s.modMu c (fun m => { m with injPtr := (i + 1) % 9 })).injectOffer c i o

/-- A packet in progress that has a credit goes on; else an answer that may start does; else another packet. No class waits on another
(R239). -/
def State.injectFlit (s : State) (c : Nat) : State :=
  let buf (cls : Nat) : List Moving := (s.rtr c).buf (bufKey 4 cls 0)
  match [1, 2, 0].find? (fun cls => !vcFree (buf cls) && decide (flitsIn (buf cls) < 8)) with
  | some cls => (s.moreBuf c (bufKey 4 cls 0) false).stamp c 6
  | none =>
    match (s.mu c).replies with
    | p :: rest => if s.mayStart c (pktClass p) then s.injectReply c p rest else s.injectNew c
    | [] => s.injectNew c

/-- MESH_INJECT (R249): at most one flit in a fabric cycle. -/
def State.meshInject (s : State) (c : Nat) : State := if s.stamped c 6 then s else s.injectFlit c

def execMeshInject (t c : Nat) (s0 : State) : Host.Outcome State Fault Refusal :=
  let s := s0.masterTime t
  .next (if s.routerRuns c then s.meshInject c else s)

/-! ### Forwarding (R245, R248) -/

/-- The router a link leads to (R236). -/
def nextRouter (r out : Nat) : Nat :=
  let x := clX r
  let y := clY r
  match out with
  | 0 => clusterAt x ((y + 431) % 432)
  | 1 => clusterAt ((x + 1) % 512) y
  | 2 => clusterAt x ((y + 1) % 432)
  | _ => clusterAt ((x + 511) % 512) y

/-- R236: is the link the closing link of its ring? -/
def closing (r out : Nat) : Bool :=
  match out with
  | 0 => clY r == 0
  | 1 => clX r == 511
  | 2 => clY r == 431
  | _ => clX r == 0

/-- R245. -/
def outputOf (r : Nat) (m : Moving) : Nat :=
  let ex := if m.ext then 5 else 4
  let ew := if m.west then 3 else 1
  let ns := if m.north then 0 else 2
  if m.order then (if clY r ≠ m.dstY then ns else if clX r ≠ m.dstX then ew else ex)
  else if clX r ≠ m.dstX then ew else if clY r ≠ m.dstY then ns else ex

/-- R245: the VC of a packet beyond output `out`. -/
def vcAfter (r inPort vc out : Nat) : Nat :=
  if closing r out then 1 else if 4 ≤ inPort ∨ inPort % 2 ≠ out % 2 then 0 else vc

def isMulticast (m : Moving) : Bool := match m.pkt with | .multicast _ _ _ => true | _ => false

/-- The flits of a packet that have left router `r` by output `out`; none where it does not go that way. A multicast goes the ways of
its tree, once it has been replicated. -/
def Moving.sentBy (m : Moving) (r out : Nat) : Option Nat :=
  if isMulticast m then (if m.mark.isSome then Assoc.find? m.tree out else none)
  else if outputOf r m = out then some m.sent else none

/-- One more flit has left by `out`. -/
def Moving.advance (m : Moving) (out : Nat) : Moving :=
  if isMulticast m then
    let tree := m.tree.map (fun (o, n) => if o = out then (o, n + 1) else (o, n))
    { m with tree := tree, sent := tree.foldl (fun a e => min a e.2) (pktFlits m.pkt) }
  else { m with sent := m.sent + 1 }

/-- The packet as its head enters the next router: a multicast's copy answers where the router has said. -/
def Moving.onward (m : Moving) : Moving :=
  let pkt : Packet := match m.pkt, m.mark with | .multicast mc _ _, some (up, e) => .multicast mc up e | p, _ => p
  { m with pkt := pkt, got := 1, sent := 0, mark := none, tree := [] }

/-- The outputs by which a part of the packet has left, and a part is still to leave. -/
def Moving.legs (m : Moving) (r : Nat) : List Nat :=
  (List.range 6).filter (fun o => match m.sentBy r o with | some n => decide (0 < n ∧ n < pktFlits m.pkt) | none => false)

/-- The buffer a packet from requester `i` (2 x port + VC) goes to. -/
def landing (r cls i out : Nat) : Nat × Nat := (nextRouter r out, bufKey ((out + 2) % 4) cls (vcAfter r (i / 2) (i % 2) out))

/-- Has requester `i` of class `cls` a flit for output `out`, and may it send it? A multicast's copy lands in its target with its last flit,
which waits while the mesh port presents an access again that it was refused (R161). -/
def State.mayForward (s : State) (r cls out i : Nat) : Bool :=
  match (s.rtr r).buf (bufKey (i / 2) cls (i % 2)) with
  | [] => false
  | m :: _ =>
    match m.sentBy r out with
    | none => false
    | some n =>
      let held := (List.range 12).any (fun j => j != i && match (s.rtr r).buf (bufKey (j / 2) cls (j % 2)) with
        | k :: _ => !k.bad && (k.legs r).contains out
        | [] => false)
      !m.bad && decide (n < m.got) &&
        (if 4 ≤ out then !(held && n == 0) && !(out == 4 && isMulticast m && decide (pktFlits m.pkt ≤ n + 1) && s.portHeld r 6 0)
         else
           let (q, k) := landing r cls i out
           let l := (s.rtr q).buf k
           decide (flitsIn l < 8) && (decide (0 < n) || vcFree l))

/-- Does the head flit of requester `i` wait for output `out`? -/
def State.headWaits (s : State) (r cls out i : Nat) : Bool :=
  match (s.rtr r).buf (bufKey (i / 2) cls (i % 2)) with
  | m :: _ => !m.bad && decide (0 < m.got) && m.sentBy r out == some 0
  | [] => false

/-- A packet whose flits stop in the middle is dropped where its head, or the heads of its copies, have come to (log entry 11). -/
def State.dropChain (s : State) (r k : Nat) : Nat → State
  | 0 => s
  | n + 1 =>
    let l := (s.rtr r).buf k
    match l.getLast? with
    | none => s
    | some m =>
      ((m.legs r).filter (· < 4)).foldl (fun x o =>
        let (q, k') := landing r (k % 8 / 2) (2 * (k / 8) + k % 2) o
        x.dropChain q k' n) (s.setBuf r k l.dropLast)

/-- R238: the packet at the head of a buffer is discarded. -/
def State.discardPacket (s : State) (r cls i : Nat) (m : Moving) : State :=
  let k := bufKey (i / 2) cls (i % 2)
  let l := (s.rtr r).buf k
  let s1 := s.setBuf r k (if complete m then l.drop 1 else { m with bad := true, sent := m.got } :: l.drop 1)
  let s2 := ((m.legs r).filter (· < 4)).foldl (fun x o => x.dropChain (landing r cls i o).1 (landing r cls i o).2 1024) s1
  (((s2.count (.rtr r .ue) 1).count (.rel .ue) 1).raise (192 + panelOf r) 0x26 (locMu r) 4 0 0).detect (bayOf r) (locMu r) 2 r 0

/-! ### Ejection (R249, R251, R252) -/

/-- R238: the destination checks the flits again: its bay, or the controller, votes void. -/
def State.bodyBad (s : State) (r out : Nat) (m : Moving) : State :=
  match out == 5, m.pkt with
  | true, .request p => if p.addr / 2 ^ 44 = 0 then s.voidStack (s.hbmPlace p.addr).stack 2 else s
  | true, _ => match siteAt r with | some (t, _) => s.voidSite t 2 | none => s
  | false, _ => s.voteVoid (bayOf r) 2

/-- R408, R422: a body flit that router `r` receives uncorrectable is counted and is a detection of its cluster. -/
def State.bodyDetect (s : State) (r : Nat) (m : Moving) : State :=
  if m.hurt then s else (s.count (.rel .ue) 1).detect (bayOf r) (locMu r) 2 r 0

/-- R400, R331: a corrected codeword on a mesh link of the panel of router `r`. -/
def State.linkCorrected (s : State) (r : Nat) : State :=
  (s.count (.rel .ce) 1).modPanel (panelOf r) (fun p => { p with
    firstCe := if p.firstCe.isSome then p.firstCe else some (locMu r), ceStitch := p.ceStitch + 1 })

/-- R243: the cluster offset an offset field names. -/
def mcOffset (v : Nat) : Nat := if v < 16384 then 16 * v else 0x1000000 + 16 * (v - 16384)

/-- A target lands the data as a remote write, or as the load path's, which no window bounds (R180); the status of its ack. In a dark or
dormant bay neither lands (R180, R247). A copy of another stitch is discarded (R40). -/
def State.mcDeliver (s : State) (r : Nat) (m : Multicast) : Option Nat × State :=
  let off := mcOffset m.offset
  if (s.bay (bayOf r)).power == .active && s.stale m.stitchLo then (none, s.staleCount r off)
  else if m.srcExt && (s.bay (bayOf r)).power == .active then (some 0, s.pathWords r off m.data)
  else
    let (who, unit) := if m.srcExt then (Sender.outside 360 m.src, 9) else (.cluster m.src, 8)
    let (st, _, s1) := s.remoteStorage r off m.data.length m.ctx true who unit m.data
    (some st, s1)

/-- The whole of a multicast's copy is at target `r`. -/
def State.mcLand (s : State) (r : Nat) (mc : Multicast) (up entry : Nat) : State :=
  match s.mcDeliver r mc with
  | (none, s1) => s1
  | (some st, s1) => if up = r ∧ entry < 8 then s1.branchAck r entry st else s1.ackSend r up entry st mc.ctx mc.stitchLo

/-- R5, R24: the control island answers a mesh access to control space, none of which is 32 or 64 bits wide: an address fault, which
the panel of the attachment reports (DESIGN CHOICE, log entry 49). -/
def State.controlAnswer (s : State) (r : Nat) (p : MeshPacket) : State :=
  let write := decide (p.cls = 2 ∨ p.type = 1)
  let s1 := s.addrFault (192 + panelOf r) p.addr (senderL p.src p.unit) 1 none
  match responseTo p 1 (if write then [] else List.replicate p.len 0) with
  | some q => s1.enterExternal r (.response q)
  | none => s1

/-- The last flit of a packet has left by the local port (4) or the external port (5), where an answer ends with its endpoint. -/
def State.eject (s : State) (r out : Nat) (m : Moving) : State :=
  let s1 := if m.hurt then s.bodyBad r out m else s
  let keep (x : State) : State := x.modRtr r (fun y => { y with ejected := y.ejected ++ [m.pkt] })
  match m.pkt with
  | .multicast mc _ _ => match m.mark with | some (up, e) => s1.mcLand r mc up e | none => s1
  | .request p => if out = 5 ∧ p.addr / 2 ^ 44 = 15 then s1.controlAnswer r p else keep s1
  | .response p => if out = 5 then s1.endpointAnswer r p else keep s1
  | _ => if out = 5 then s1 else keep s1

/-! ### Forwarding -/

/-- One flit leaves requester `i`'s buffer by output `out`. -/
def State.moveFlit (s : State) (r cls out i : Nat) (m : Moving) : State :=
  let k := bufKey (i / 2) cls (i % 2)
  let rest := ((s.rtr r).buf k).drop 1
  let n := (m.sentBy r out).getD 0
  let last := decide (pktFlits m.pkt ≤ n + 1)
  let m1 := m.advance out
  let s1 := (s.setBuf r k (if pktFlits m.pkt ≤ m1.sent then rest else m1 :: rest)).count (.rtr r .flits) 1
  let s2 := (s1.modRtr r (fun x => { x with ptr := x.ptr.set (4 * out + cls) ((i + 1) % 12) })).stamp r out
  if 4 ≤ out then (if last then s2.eject r out m else s2)
  else
    let (q, k') := landing r cls i out
    if n = 0 then s2.enterBuf q k' m.onward else s2.moreBuf q k' m.hurt

/-- The requester granted output `out`: its class and number. -/
def State.routerPick (s : State) (r out : Nat) : Option (Nat × Nat) :=
  [1, 2, 0].findSome? (fun cls => (rrPick 12 ((s.rtr r).ptr.get 0 (4 * out + cls)) (s.mayForward r cls out)).map (fun i => (cls, i)))

/-- RTR_HOLD counts the fabric cycles in which some head flit waits (R267). -/
def State.routerHold (s : State) (r out : Nat) (g : Option (Nat × Nat)) : State :=
  let waits := [0, 1, 2].any (fun cls => (List.range 12).any (fun i => s.headWaits r cls out i && g != some (cls, i)))
  if waits && !s.stamped r 7 then (s.count (.rtr r .hold) 1).stamp r 7 else s

/-- ROUTER_FORWARD (R245, R248): at most one flit of an output in a fabric cycle, and at the external port one flit of each class enters
where there is a place. `bad`: 1 the flit's header codeword is uncorrectable
or its sideband parity fails; 2 a body codeword is uncorrectable; 3 a codeword was corrected. -/
def State.routerForward (s : State) (r out bad : Nat) : State :=
  let g := if s.stamped r out then none else s.routerPick r out
  let s1 := s.routerHold r out g
  match g with
  | none => if s.stamped r out then s1 else s1.extFlits r 1
  | some (cls, i) =>
    match (s.rtr r).buf (bufKey (i / 2) cls (i % 2)) with
    | [] => s1
    | m :: _ =>
      (if bad = 1 then s1.discardPacket r cls i m
       else if bad = 2 then (s1.bodyDetect r m).moveFlit r cls out i { m with hurt := true }
       else (if bad = 3 then s1.linkCorrected r else s1).moveFlit r cls out i m).extFlits r 1

def execRouterForward (t r out bad : Nat) (s0 : State) : Host.Outcome State Fault Refusal :=
  let s := s0.masterTime t
  .next (if s.routerRuns r then s.muHold r (s.routerForward r out bad) else s)

/-! ### Multicast (R251, R252) -/

/-- The multicast at the head of a buffer, not yet replicated. -/
def State.mcHead (s : State) (r i : Nat) (mc : Multicast) : Bool :=
  match (s.rtr r).buf (bufKey (i / 2) 2 (i % 2)) with
  | w :: _ => !w.bad && w.mark.isNone && (match w.pkt with | .multicast m _ _ => m == mc | _ => false)
  | [] => false

/-- R252: the branches of the multicast at the head of requester `i`'s buffer. With more than one it takes a combine entry, and waits
where none is free; its flits then leave branch by branch (R248). -/
def State.mcOpen (s : State) (r i : Nat) (mc : Multicast) : State :=
  let k := bufKey (i / 2) 2 (i % 2)
  if !s.mcHead r i mc then s
  else match (s.rtr r).buf k with
    | [] => s
    | w :: rest =>
      let bs := mcBranches mc r (i / 2)
      let (up, entry) := match w.pkt with | .multicast _ u e => (u, e) | _ => (r, 255)
      let put (x : State) (mark : Nat × Nat) : State := x.setBuf r k ({ w with mark := some mark, tree := bs.map (fun o => (o, 0)) } :: rest)
      if bs.length ≤ 1 then put s (up, entry)
      else match (List.range 8).find? (fun e => ((s.rtr r).combine.find? e).isNone) with
        | none => s
        | some e => put (s.modRtr r (fun x => { x with combine := x.combine.set e ⟨up, entry, bs.length, 0, mc⟩ })) (r, e)

/-- MULTICAST_REPLICATE: the multicast at the head of a buffer of router `r`; one of the load path that router `r` does not hold enters
at the external port of the control island's attachment (R251, R292). -/
def State.multicastReplicate (s : State) (r : Nat) (mc : Multicast) : State :=
  match (List.range 12).find? (fun i => s.mcHead r i mc) with
  | some i => s.mcOpen r i mc
  | none =>
    if r = mc.src ∧ mc.srcExt = true ∧ r = s.controlRouter ∧ !(s.rtr r).waits.contains (.multicast mc r 255) ∧ !s.mcRefused mc then (s.enterExternal r (.multicast mc r 255)).mcOpen r 10 mc else s

def execMulticastReplicate (t r : Nat) (mc : Multicast) (s0 : State) : Host.Outcome State Fault Refusal :=
  let s := s0.masterTime t
  .next (if s.routerRuns r then s.multicastReplicate r mc else s)

/-! ### Responses (R254) -/

/-- The multicast ack that a response is, if the router has ejected it: its entry and state; with none, the oldest pass's. -/
def State.takeMcAck (s : State) (r : MeshResponse) : Nat × State :=
  match s.takeEjected r.dst (fun p => match p with
      | .mcAck d e st _ lo => d == r.dst && decide (255 ≤ e) && st == r.status && lo == r.stitchLo
      | _ => false) with
  | (some (.mcAck _ e _ _ _), s1) => (e, s1)
  | _ => (passEntry (s.mu r.dst).dsp.oldest, s)

/-- Does read data wait, because the CU port presents a refused DMA access again (R161)? -/
def State.dataHeld (s : State) (r : MeshResponse) : Bool :=
  !r.dstExt && decide (r.unit < 4) && r.type == 0 && s.portHeld r.dst r.unit 6

/-- MESH_RESPONSE_RECEIVE: a response of another stitch is discarded and counted (R40, R255). One for an external port ends there. -/
def State.responseReceive (s : State) (r : MeshResponse) : State :=
  let s1 := (s.takeEjected r.dst (fun p => p == .response r)).2
  let u := 4 * r.dst + r.unit % 4
  if s.dataHeld r then s
  else if r.dstExt then s1.endpointAnswer r.dst r
  else if (s.bay (bayOf r.dst)).power ≠ .active then s1
  else if r.unit < 4 then
    (if s.stale r.stitchLo then s1.count (.cu u .msgDiscard) 1 else s1.dmaResponse u r)
  else if r.unit = 8 ∧ r.type = 3 then
    let (e, s2) := s1.takeMcAck r
    (if s.stale r.stitchLo then s2.count (.mu r.dst .discard) 1 else s2.sourceAck r.dst e r.status)
  else s1

def execMeshResponseReceive (t : Nat) (resp : MeshResponse) (s0 : State) : Host.Outcome State Fault Refusal :=
  let s := s0.masterTime t
  .next (if s.routerRuns resp.dst then s.muHold resp.dst (s.responseReceive resp) else s)

end Sys2Proof.Machine
end

