-- ==== Sys2Proof/Machine/Inventory.lean ====
section
/-! DEFINITION. What the T1 knows of its parts: caps, the darn map, holes, available bays, and the start-up inventory made of them
(R14-R18, R246, R389, R414, R415, R435, R436). -/

namespace Sys2Proof.Machine

/-- R1, R389: the variant's cap in W. -/
def State.variantCap (s : State) : Nat := match s.fuses.part with | 0 => 30000 | 1 => 23500 | _ => 16000

def State.moduleCap (s : State) : Nat := s.sup.cap.getD s.variantCap

def Rel.marks (r : Rel) : List (Nat × Nat × Nat) := r.fuse ++ r.ledger ++ r.found ++ r.runtime

/-- Bad physical columns of a bay row, ascending. -/
def State.badCols (s : State) (b ly : Nat) : List Nat :=
  (s.rel.marks.filter (fun m => m.1 == b && m.2.1 == ly)).foldl (fun l m => insertSorted m.2.2 l) []

/-- R414: a row with two bad clusters. -/
def State.rowLost (s : State) (b : Nat) : Bool := (List.range 36).any (fun ly => decide (2 ≤ (s.badCols b ly).length))

def ledgerMax : Nat := 16384

/-- Ledger entries, those on their way included. -/
def State.ledgerUsed (s : State) : Nat := s.rel.ledger.length + (s.store.queue.filter (fun r => r.type == 1)).length

/-- Ordered panel pairs the tables mark unreachable, both panels standing. -/
def State.unreachablePairs (s : State) : Nat :=
  let hs := s.holes
  (List.range 2304).foldl (fun n i =>
    if hs.contains (i / 48) || hs.contains (i % 48) || bitOf (s.routeEntry (i / 48) (i % 48)) 7 then n else n + 1) 0

/-- A bay that has been tested and found usable (R414, R435). -/
def State.bayAvailable (s : State) (b : Nat) : Bool :=
  (s.bay b).bist && (s.bay b).power != .dark && !s.rel.unavailable.contains b

def State.availableBays (s : State) : Nat := ((List.range 192).filter s.bayAvailable).length

def State.sitesUp (s : State) : Nat := ((List.range 96).filter (fun t => (s.site t).up)).length

/-! ### The inventory (R435) -/

/-- State of a bay in words 1-12. -/
def State.bayCode (s : State) (b : Nat) : Nat :=
  let p := s.panel (b / 4)
  if s.bayAvailable b then 0
  else if !p.fabricOn then 3
  else if p.feedsOpen.contains (b % 4) || p.tripped.contains (b % 4) then 2
  else 1

/-- Pseudo-channels of stack `st` in the interleave. -/
def State.pcsIn (s : State) (st : Nat) : Nat := (s.hbm.mapped.filter (fun q => q % 24 == st)).length

/-- The bits `i` of 32 that satisfy `f`. -/
def bits32 (f : Nat → Bool) : Nat := (List.range 32).foldl (fun a i => if f i then a + 2 ^ i else a) 0

/-- R18: does the control island reach the mesh? -/
def State.islandReaches (s : State) : Bool := (s.panel 16).fabricOn || (s.panel 24).fabricOn

/-- Bay rows with a bad column in the darn map, as far as BIST has built it. -/
def State.badRows (s : State) : Nat :=
  (s.rel.mapped.flatMap (fun b => (List.range 36).filter (fun ly => !(s.badCols b ly).isEmpty))).length

def State.fwOf (s : State) (tf : Bool) : FwCopy :=
  if tf then (if s.sup.tfCopy = 0 then s.store.copyA else s.store.copyB)
  else if s.sup.mfCopy = 0 then s.store.mgmtA else s.store.mgmtB

def State.inventoryWord (s : State) (i : Nat) : Nat :=
  if i = 0 then s.fuses.part % 4 + s.availableBays * 2 ^ 8 + (192 - s.availableBays) * 2 ^ 16
  else if i ≤ 12 then (List.range 16).foldl (fun a j => a + s.bayCode (16 * (i - 1) + j) * 4 ^ j) 0
  else if i = 13 then
    s.hbm.mapped.length + ((List.range 24).filter (fun st => s.pcsIn st == 0)).length * 2 ^ 16
  else if i ≤ 19 then (List.range 4).foldl (fun a j => a + s.pcsIn (4 * (i - 14) + j) * 256 ^ j) 0
  else if i ≤ 22 then bits32 (fun j => (s.site (32 * (i - 20) + j)).up)
  else if i ≤ 25 then bits32 (fun j => (s.site (32 * (i - 23) + j)).up && (s.site (32 * (i - 23) + j)).wl != 0xFF)
  else match i with
    | 26 => s.host.linkWidth % 256 + s.host.linkRate % 16 * 2 ^ 8 + s.moduleCap % 65536 * 2 ^ 16
    | 27 => bits32 (fun j => !(s.panel j).fabricOn)
    | 28 => bits32 (fun j => decide (j < 16) && !(s.panel (32 + j)).fabricOn)
    | 29 => s.unreachablePairs % 4096 + b2n s.islandReaches * 2 ^ 12
    | 30 => s.badRows + s.ledgerUsed * 2 ^ 16
    | 31 => s.sup.tfCopy + s.sup.mfCopy * 4
    | 32 => (s.fwOf true).version.toNat
    | 33 => (s.fwOf false).version.toNat
    | 34 => s.regN (.boot .time)
    | 35 => s.rel.discrepancies % 65536 +
        ((List.range 48).foldl (fun a p => a + (s.panel p).tripped.length) 0) * 2 ^ 16
    | _ => 0

def State.writeInventory (s : State) : State :=
  (List.range 36).foldl (fun x i => x.setReg (.bootInv i) (regOf (s.inventoryWord i))) s

/-- The inventory is written and inventory-ready raised. -/
def State.announce (s : State) : State :=
  (s.writeInventory).raise 366 0x70 s.availableBays s.hbm.mapped.length s.sitesUp 0

end Sys2Proof.Machine
end

