-- ==== Sys2Proof/Machine/Faults.lean ====
section
/-! DEFINITION. What follows a fault that repair cannot mend: failed contexts, the fault record, the rewritten inventory (R420,
R422, R436). -/

namespace Sys2Proof.Machine

/-- R436: the inventory is rewritten and inventory-ready raised again, once it has first been raised. -/
def State.inventoryAgain (s : State) : State :=
  if s.sup.inventory then s.announce else s

/-- A flit waits at a site to be sent. -/
def State.queueFlit (s : State) (t type : Nat) (spec : BitVec 64) (payload : List Word) : State :=
  s.modSite t (fun x => { x with outq := x.outq ++ [⟨type, 0, 0, false, 0, 0, 0, spec, payload⟩] })

/-- The twin sites of TWIN_CFG (R355, R363). -/
def State.siteA (s : State) : Nat := field (s.regN (.twin .cfg)) 14 8
def State.siteB (s : State) : Nat := field (s.regN (.twin .cfg)) 22 16

/-- R359: the fatal notice: the line, held, and a MGMT flit on each twin site. -/
def State.sendFatal (s : State) : State :=
  ({ s with twin := { s.twin with fatalOut := true } }.queueFlit s.siteA 1 4 []).queueFlit s.siteB 1 4 []

/-- The fatal notice of a paired primary. -/
def State.fatalNotice (s : State) : State := if s.twin.state = 2 then s.sendFatal else s

/-- R422: reasons 1-7 with the place of the fault. -/
structure FaultPlace where
  reason : Nat
  bay : Nat
  ly : Nat
  unit : Nat
  deriving DecidableEq, Repr

/-- R43, R420: a context halts. -/
def State.haltCtx (s : State) (k : Nat) (failed : Bool) : State :=
  match s.ctx? k with
  | none => s
  | some c =>
    let s1 := s.setCtx k { c with halted := true, failed := c.failed || failed }
    s1.raise 363 2 (s1.regN (.stitch .lastVoid)) k 0 0

/-- A loss that R246 or R420 says voids the current stitch, whatever the voters say: the time master's own void, as for a
commanded one (log entry 16). One that has already voided is left. -/
def State.lossVoid (s : State) : State :=
  if s.stitch.session ∧ s.stitch.decision ≠ some .void then s.modStitch (fun k => { k with hostVoid := true }) else s

/-- R420: context `k` fails; one that has failed stays as it is. -/
def State.failCtx (s : State) (k : Nat) (f : FaultPlace) : State :=
  match s.ctx? k with
  | none => s
  | some c =>
    if c.failed then s else
    let s1 := s.lossVoid.haltCtx k true
    let s2 := s1.setReg (.rel .faultRec0) (regOf (f.reason * 2 ^ 28 + k * 2 ^ 26 + f.bay * 2 ^ 18 + f.ly * 2 ^ 12 + f.unit))
    let s3 := s2.setReg (.rel .faultRec1) (regOf (s.stitch.number % 2 ^ 32))
    let s4 := s3.setReg (.rel .faultRec2) (regOf s.stitch.commitSeq)
    let s5 := s4.setReg (.rel .faultCount) (regOf ((s4.regN (.rel .faultCount) + 1) % 2 ^ 32))
    s5.fatalNotice

/-- Every resident context that satisfies `p` fails, in order of number. -/
def State.failCtxs (s : State) (p : Ctx → Bool) (f : FaultPlace) : State :=
  (List.range 4).foldl (fun x k => match x.ctx? k with
    | some c => if p c then x.failCtx k f else x
    | none => x) s

/-- R419: contexts whose image declares the bay required. -/
def requires (b : Nat) (c : Ctx) : Bool := c.image.required.contains b

/-- A record for the record log waits to be written (R427). -/
def State.logRecord (s : State) (type : Nat) (body : BitVec 128) : State :=
  { s with store := { s.store with queue := s.store.queue ++ [⟨type, s.store.seq + s.store.queue.length + 1, body⟩] } }

/-! ### The crease file (R306, R345, R429) -/

/-- Is a stored file of a layout the trusted firmware accepts, and this module's? -/
def Crease.usable (x : Crease) (serial : Reg) : Bool := x.version == 1 && x.serial == serial

/-- After a reset the trusted firmware works with the copy that the live pointer names. -/
def Store.boot (x : Store) (serial : Reg) : Store :=
  { x with
    queue := []
    creaseNow := match x.crease.find? x.creaseUse with
      | some c => if c.usable serial then c else Crease.blank
      | none => Crease.blank }

/-- The record of a stack, if it can be used (R306). -/
def State.stackRecord (s : State) (st : Nat) : Option StackRecord :=
  (s.store.creaseNow.stackRecs.find? st).filter (fun r => r.crcOk && r.version == 1 && r.serial == Config.stackSerial st)

/-- The record of a site, if it can be used with peer serial `peer` (R345). -/
def State.siteRecord (s : State) (t : Nat) (peer : Reg) : Option SiteRecord :=
  (s.store.creaseNow.sites.find? t).filter (fun r => r.crcOk && r.version == 1 && r.peer == peer)

/-- The whole file is written into the copy not in use; a crease pointer, copy and generation, waits to be committed (log entry 17). -/
def State.writeCrease (s : State) (f : Crease → Crease) : State :=
  let x := f s.store.creaseNow
  let new : Crease := { x with version := 1, generation := x.generation + 1, serial := s.fuses.serial }
  let copy := 1 - s.store.creaseUse
  ({ s with store := { s.store with creaseNow := new, crease := s.store.crease.set copy new } }).logRecord 3
    (BitVec.ofNat 128 (copy + new.generation % 2 ^ 32 * 2 ^ 32))

def State.writeStack (s : State) (st : Nat) (out : List Nat) : State :=
  s.writeCrease (fun x => { x with stackRecs := x.stackRecs.set st ⟨1, Config.stackSerial st, true, out⟩ })

def State.writeSite (s : State) (t : Nat) (peer : Reg) : State :=
  s.writeCrease (fun x => { x with sites := x.sites.set t ⟨1, peer, true⟩ })

end Sys2Proof.Machine
end

