-- ==== Sys2Proof/Machine/HbmRows.lean ====
section
/-! DEFINITION. The HBM controllers' commands: HBM_READ, HBM_WRITE, HBM_RECALIBRATION, HBM_PATROL, and what HBM_TRAINING does (R292-R309,
R404, R450). -/

namespace Sys2Proof.Machine

/-- R352: a site's import path writes the half of an import page that its address names. -/
def State.importWrites (s : State) (x : Nat) (write : Bool) (who : Sender) : Bool :=
  write && decide (x < s.capacity) && (match who with | .outside n _ => decide (264 ≤ n ∧ n < 360) | .cluster _ => false)
    && (match s.pageOf x with | some p => p.imp.isSome | none => false)

/-- An access of external memory by packet: status of R242, data, state (R5, R296, R303, R450). -/
def State.remoteExternal (s : State) (x n : Nat) (write : Bool) (who : Sender) (unit : Nat) (data : List Word) : Answer :=
  let src := 240 + (s.hbmPlace x).stack
  if fromManagement who then (1, if write then [] else List.replicate n 0, s.addrFault src x (senderL who unit) 0 none)
  else if s.importWrites x write who then (0, [], s.hbmPuts x data)
  else match s.hbmRangeBad x (16 * n) write with
  | some k => (1, if write then [] else List.replicate n 0, s.addrFault src x (senderL who unit) k none)
  | none =>
    if write then (0, [], s.hbmWrite x (wordsBytes data))
    else
      let (ds, ok, s1) := s.hbmReadWords x n
      (if ok then 0 else 6, ds, s1)


/-- The request for address `a` that router `r` has ejected to its external port. -/
def State.takeRequest (s : State) (r a : Nat) (write : Bool) : Option MeshPacket × State :=
  match s.takeEjected r (fun p => match p with
      | .request q => q.addr == a && (if write then q.cls == 2 || q.type == 1 else q.cls != 2 && q.type == 0)
      | _ => false) with
  | (some (.request q), s1) => (some q, s1)
  | (_, _) => (none, s)

/-- A controller answers a request that reached its attachment. -/
def State.serveExternal (s : State) (r : Nat) (p : MeshPacket) : State :=
  let write := p.cls = 2 ∨ p.type = 1
  let (st, ds, s1) := s.remoteExternal p.addr (if write then p.data.length else p.len) (decide write) p.src p.unit p.data
  match responseTo p st ds with
  | some q => s1.enterExternal r (.response q)
  | none => s1

/-- HBM_READ: the request at `addr` is served; with none, the controller reads the word at `addr`. -/
def State.hbmReadCmd (s : State) (addr : Nat) : State :=
  let r := s.hbmRouter addr
  match s.takeRequest r addr false with
  | (some p, s1) => s1.serveExternal r p
  | (none, _) => (s.remoteExternal (addr / 16 * 16) 1 false (.outside (240 + (s.hbmPlace addr).stack) r) 9 []).2.2

def execHbmRead (t addr : Nat) (s0 : State) : Host.Outcome State Fault Refusal :=
  .next ((s0.masterTime t).hbmReadCmd addr)

/-- HBM_WRITE: the request at `addr` is served; with none, the controller writes the bytes given. -/
def State.hbmWriteCmd (s : State) (addr : Nat) (data : List Byte) : State :=
  let r := s.hbmRouter addr
  match s.takeRequest r addr true with
  | (some p, s1) => s1.serveExternal r p
  | (none, _) =>
    let src := 240 + (s.hbmPlace addr).stack
    match s.hbmRangeBad addr data.length true with
    | some k => s.addrFault src addr (0x80000000 + src) k none
    | none => s.hbmWrite addr data

def execHbmWrite (t addr : Nat) (data : List Byte) (s0 : State) : Host.Outcome State Fault Refusal :=
  let s := s0.masterTime t
  .next (s.hbmHold (s.hbmWriteCmd addr data))

/-! ### Training and the crease file (R298, R306, R429) -/

/-- Pseudo-channels of a stack that are mapped out, as a register image of those mapped in. -/
def pcMask (out : List Nat) : Nat := (List.range 64).foldl (fun a p => if out.contains p then a else a + 2 ^ p) 0

/-- HBM_TRAINING: a stack trains once per device reset. A stack whose panel is a hole has nothing mapped in; one whose crease
record cannot be used takes full training (R306). -/
def State.trainStack (s : State) (st : Nat) (restored : Bool) (failed : BitVec 64) (temp : Nat) : State :=
  if s.hbm.trained.contains st ∨ 24 ≤ st ∨ s.sup.bootStep < 4 then s
  else
    let record := s.stackRecord st
    let fromCrease := restored && record.isSome
    let listed := (record.map (fun r => r.out)).getD []
    let hole := !(s.panel (stackPanel st)).fabricOn
    let out := (List.range 64).filter (fun p => hole || listed.contains p || (!fromCrease && failed.getLsbD p))
    let mapped := ((List.range 64).filter (fun p => !out.contains p)).map (fun p => 24 * p + st)
    let train := if out.length = 64 then 3 else if fromCrease then 1 else 2
    let s1 := s.modHbm (fun h => { h with
      trained := insertSorted st h.trained
      mapped := mapped.foldl (fun l q => insertSorted q l) h.mapped
      restored := if fromCrease then insertSorted st h.restored else h.restored
      temps := h.temps.set st temp })
    let s2 := (s1.setReg (.hbm st .status) (regOf (b2n (out.length ≠ 64) * 2 ^ 31 + train * 2 ^ 28 + temp % 256))).setReg
      (.hbm st .pcMap) (regOf (pcMask out))
    if fromCrease ∨ hole then s2
    else
      (s2.raise 366 0x71 0 st 0 0).writeStack st out

/-! ### Recalibration (R299, R307) -/

/-- R299: pseudo-channel `pc` of stack `st` fails in the session. -/
def State.failPc (s : State) (st pc : Nat) : State :=
  let s1 := s.modHbm (fun h => { h with failed := insertSorted (24 * pc + st) h.failed })
  let s2 := (s1.modReg (.hbm st .pcFail) (fun r => r ||| regOf (2 ^ pc))).raise (240 + st) 0x28 pc 0 0 0
  let s3 := (s2.voidStack st 2).failCtxs (fun _ => true) ⟨7, 0, 0, pc⟩
  (s3.writeStack st (insertSorted pc (((s3.stackRecord st).map (fun r => r.out)).getD []))).inventoryAgain

def State.recalibrate (s : State) (st pc : Nat) (ok : Bool) (temp : Nat) : State :=
  let q := 24 * pc + st
  if !s.hbm.mapped.contains q then s
  else
    let s1 := (s.modHbm (fun h => { h with temps := h.temps.set st temp })).modReg (.hbm st .status)
      (fun r => regOf (r.toNat / 256 * 256 + temp % 256))
    let n := if ok then 0 else s.hbm.recals.get 0 q + 1
    let s2 := s1.modHbm (fun h => { h with recals := if n = 0 then h.recals.erase q else h.recals.set q n })
    if 2 ≤ n ∧ s.stitch.session ∧ !s.hbm.failed.contains q then s2.failPc st pc else s2

def execHbmRecalibration (t st pc : Nat) (ok : Bool) (temp : Nat) (s0 : State) : Host.Outcome State Fault Refusal :=
  .next ((s0.masterTime t).recalibrate st pc ok temp)

/-! ### Patrol (R404) -/

/-- R297, inverted: the stored address of stripe `r` of the mapped pseudo-channel `q`. -/
def State.stripeAddr (s : State) (q r : Nat) : Nat :=
  let n := max 1 s.hbm.mapped.length
  let slot := (List.idxOf q s.hbm.mapped)
  512 * (r * n + (slot + n * (397 * r / n + 1) - 397 * r) % n)

/-- One codeword of a stripe: written back when it was corrected, left when it cannot be. -/
def State.patrolWord (s : State) (a : Nat) : State :=
  let d := s.decodeAt a
  let (_, _, s1) := s.hbmWord a
  if d.verdict = 1 then s1.putWord a d.data else s1

def State.patrol (s : State) (st pc : Nat) : State :=
  let q := 24 * pc + st
  if !s.hbm.mapped.contains q ∨ s.hbm.failed.contains q then s
  else
    let r := s.hbm.patrol.get 0 (64 * st + pc)
    let a := s.stripeAddr q r
    let s1 := (List.range 32).foldl (fun x i => x.patrolWord (a + 16 * i)) s
    s1.modHbm (fun h => { h with patrol := h.patrol.set (64 * st + pc) ((r + 1) % stripesPerPc) })

def execHbmPatrol (t st pc : Nat) (s0 : State) : Host.Outcome State Fault Refusal :=
  .next ((s0.masterTime t).patrol st pc)

end Sys2Proof.Machine
end

