-- ==== Sys2Proof/Machine/Events.lean ====
section
/-! DEFINITION. The event doorbell, the event ring and the claim controllers: EVENT_REPORT, EVENT_RECORD_WRITE,
EVT_RING_HEAD_WRITE, EVT_RING_ENABLE, CLAIM_ID_READ, CLAIM_DONE_WRITE (R326-R334). -/

namespace Sys2Proof.Machine

def State.modEvt (s : State) (f : Evt → Evt) : State := { s with evt := f s.evt }
def State.modHost (s : State) (f : HostSt → HostSt) : State := { s with host := f s.host }

/-- What the host sends comes through the port while its link is up (R433). -/
def State.viaPort (s : State) (f : State → State) : State := if s.host.linkUp then f s else s

/-- Does a write of the host's through BAR4, or what follows it, wait for the commit phase? -/
def Held.isWrite : Held → Bool
  | .bar4 _ w _ _ => w
  | .bar2 _ _ _ => true

/-- R314: a write through BAR2 takes effect after every write through BAR4 that the host issued before it. -/
def State.bar2Write (s : State) (id : RegId) (part : Part) (v : Reg) (f : State → State) : State :=
  s.viaPort (fun x => if x.host.held.any Held.isWrite then x.modHost (fun h => { h with held := h.held ++ [.bar2 id part v] }) else f x)

/-! ### MSI-X (R310, R330) -/

/-- A vector whose table entry is masked sets its pending bit instead (PCIe layout, log entry 12). -/
def State.sendMsix (s : State) (v : Nat) : State :=
  if bitOf (s.regN (.msixTable (4 * v + 3))) 0 then
    s.modReg (.msixPba (v / 32)) (fun r => r ||| regOf (2 ^ (v % 32)))
  else s.modHost (fun h => { h with msix := v :: h.msix })

/-! ### The ring (R328-R330) -/

/-- Number of records of the ring; none while it is disabled. -/
def State.ringSize (s : State) : Option Nat :=
  let r := s.regN (.evt .ringCfg)
  let z := field r 4 0
  if bitOf r 31 ∧ 6 ≤ z ∧ z ≤ 16 then some (2 ^ z) else none

/-- The head as a record write reads it: a head write in the same cycle counts from the next record (R330). -/
def State.ringHead (s : State) : Nat := if s.evt.headAt = s.clk.nsTotal + 1 then s.evt.headWas else s.evt.head

def State.ringRoom (s : State) : Bool :=
  match s.ringSize with
  | some n => decide ((s.evt.tail + 2 ^ 32 - s.ringHead) % 2 ^ 32 < n)
  | none => false

/-- R329. -/
def recordBytes (r : Report) (count seq : Nat) : List Byte :=
  leBytes 2 (r.source % 4096) ++ leBytes 1 count ++ leBytes 1 r.kind ++ leBytes 4 seq ++ leBytes 8 r.ts
    ++ leBytes 4 r.w0 ++ leBytes 4 r.w1 ++ leBytes 4 r.w2 ++ leBytes 4 r.w3

/-- R330: one record goes into the ring. -/
def State.putRecord (s : State) (r : Report) (count : Nat) : State :=
  match s.ringSize with
  | none => s
  | some n =>
    let e := s.evt
    let a := s.regN (.evt .ringBase) + 32 * (e.tail % n)
    let s1 : State := { s with evt := { e with tail := (e.tail + 1) % 2 ^ 32, seq := (e.seq + 1) % 2 ^ 32, headAt := 0 } }
    let s2 := s1.putHost a (recordBytes r count e.seq)
    if e.tail = s.ringHead then s2.sendMsix 0 else s2

/-- R332: the report makes its source claim pending. -/
def State.claimPend (s : State) (k : Nat) (r : Report) : State :=
  let c := s.claim k
  let n := match c.recs.find? r.source with | some (_, n) => if c.pend.contains r.source then n else 0 | none => 0
  s.setClaim k { c with pend := insertSorted r.source c.pend, recs := c.recs.set r.source (r, min 255 (n + 1)) }

/-- The controller an EVT_SRCn names: 0 root of trust, 1 management core. -/
def State.claimOf (s : State) (n : Nat) : Option Nat :=
  match field (s.regN (.evtSrc n)) 29 28 with
  | 1 => some 0
  | 2 => some 1
  | _ => none

def State.prioOf (s : State) (n : Nat) : Nat := field (s.regN (.evtSrc n)) 27 24

/-- R328: what the doorbell does with a report. -/
def State.takeReport (s : State) (r : Report) : State :=
  let s1 := match s.claimOf r.source with | some k => s.claimPend k r | none => s
  if !bitOf (s.regN (.evtSrc r.source)) 31 then s1
  else match s1.evt.pending.find? r.source with
    | none => if s1.ringRoom then s1.putRecord r 1 else s1.modEvt (fun e => { e with pending := e.pending.set r.source (r, 1) })
    | some (_, n) =>
      ((s1.modEvt (fun e => { e with pending := e.pending.set r.source (r, min 255 (n + 1)) })).count (.evt .merged) 1).hwSet
        (.evt .status) (fun v => v ||| bit31)

/-- The reports without the first one of source `n`. -/
def dropReport (n : Nat) : List Report → List Report
  | [] => []
  | r :: rs => if r.source = n then rs else r :: dropReport n rs

/-- EVENT_REPORT: the doorbell takes the report R27 gives over source numbers. -/
def State.eventReport (s : State) : State :=
  match rrPick 4096 s.evt.ptr (fun n => s.evt.inflight.any (fun r => r.source == n)) with
  | none => s
  | some n =>
    match s.evt.inflight.find? (fun r => r.source == n) with
    | none => s
    | some r => (s.modEvt (fun e => { e with inflight := dropReport n e.inflight, ptr := (n + 1) % 4096 })).takeReport r

def execEventReport (t : Nat) (s0 : State) : Host.Outcome State Fault Refusal := .next (s0.masterTime t).eventReport

/-- EVENT_RECORD_WRITE: when there is room, a pending report becomes a record. -/
def State.recordWrite (s : State) : State :=
  let ok (n : Nat) : Bool := (s.evt.pending.find? n).isSome && bitOf (s.regN (.evtSrc n)) 31
  if !s.ringRoom then s
  else match rrPick 4096 s.evt.wptr ok with
    | none => s
    | some n =>
      match s.evt.pending.find? n with
      | none => s
      | some (r, k) => (s.modEvt (fun e => { e with pending := e.pending.erase n, wptr := (n + 1) % 4096 })).putRecord r k

def execEventRecordWrite (t : Nat) (s0 : State) : Host.Outcome State Fault Refusal := .next (s0.masterTime t).recordWrite

/-- EVT_RING_HEAD_WRITE (R330). -/
def State.ringHeadWrite (s : State) (v : Nat) : State :=
  let s1 := s.modEvt (fun e => { e with head := v % 2 ^ 32, headWas := s.ringHead, headAt := s.clk.nsTotal + 1 })
  if v % 2 ^ 32 ≠ s.evt.tail then s1.sendMsix 0 else s1

def execEvtRingHeadWrite (t : Nat) (v : BitVec 32) (s0 : State) : Host.Outcome State Fault Refusal :=
  .next ((s0.masterTime t).bar2Write (.evt .ringHead) .whole (regOf v.toNat) (fun s => s.ringHeadWrite v.toNat))

/-- EVT_RING_ENABLE: a write of EVT_RING_CFG; en = 1 zeroes tail and head, and record numbers start at 0 (R329, R337). -/
def State.ringEnable (s : State) (v : Nat) : State :=
  let s1 := s.setReg (.evt .ringCfg) (regOf (v % 2 ^ 32) &&& 0x8000001F)
  if bitOf v 31 then s1.modEvt (fun e => { e with tail := 0, head := 0, seq := 0, headAt := 0 }) else s1

def execEvtRingEnable (t : Nat) (v : BitVec 32) (s0 : State) : Host.Outcome State Fault Refusal :=
  .next ((s0.masterTime t).ringEnable v.toNat)

/-! ### Claims (R332-R334) -/

/-- Priority of the source on top of the stack, plus one; 0 with an empty stack. -/
def State.claimPrio (s : State) (k : Nat) : Nat :=
  match (s.claim k).stack with
  | t :: _ => s.prioOf t + 1
  | [] => 0

/-- R332: pending sources that may be claimed. -/
def State.claimable (s : State) (k : Nat) : List Nat :=
  let c := s.claim k
  c.pend.filter (fun n => !c.stack.contains n && decide (s.claimPrio k < s.prioOf n + 1))

/-- R332, R334: is the controller's interrupt asserted? -/
def State.claimIrq (s : State) (k : Nat) : Bool :=
  if (s.claim k).frozen then (s.claim k).fault.isSome else !(s.claimable k).isEmpty

/-- What the last read of CLAIM_ID returned. -/
def claimValue (n : Option Nat) : Reg := match n with | some x => regOf (2 ^ 31 + x) | none => 4095

def State.claimRead (s : State) (k : Nat) : State :=
  let c := s.claim k
  let answer (s' : State) (n : Option Nat) : State := s'.setReg (.claim k .id) (claimValue n)
  if c.frozen then
    match c.fault with
    | some (src, top) =>
      let own := 361 + k
      answer (s.setClaim k { c with fault := none, last := some (⟨own, 0x7F, src, top, 0, 0, s.masterTs⟩, 1) }) (some own)
    | none => answer s none
  else
    let el := s.claimable k
    let best := el.foldl (fun m n => max m (s.prioOf n)) 0
    match rrPick 4096 (c.ptr.get 0 best) (fun n => el.contains n && s.prioOf n == best) with
    | none => answer s none
    | some n =>
      answer (s.setClaim k { c with
        pend := c.pend.filter (· ≠ n)
        stack := n :: c.stack
        last := c.recs.find? n
        ptr := c.ptr.set best ((n + 1) % 4096) }) (some n)

def execClaimIdRead (t k : Nat) (s0 : State) : Host.Outcome State Fault Refusal := .next ((s0.masterTime t).claimRead k)

/-- CLAIM_DONE_WRITE (R334). -/
def State.claimDone (s : State) (k src : Nat) : State :=
  let c := s.claim k
  if c.frozen then s
  else match c.stack with
    | top :: rest =>
      if top = src then s.setClaim k { c with stack := rest }
      else (s.setClaim k { c with frozen := true, fault := some (src, top) }).raise (361 + k) 0x7F src top 0 0
    | [] => (s.setClaim k { c with frozen := true, fault := some (src, 4095) }).raise (361 + k) 0x7F src 4095 0 0

def execClaimDoneWrite (t k src : Nat) (s0 : State) : Host.Outcome State Fault Refusal := .next ((s0.masterTime t).claimDone k src)

end Sys2Proof.Machine
end

