-- ==== Sys2Proof/Machine/HostSync.lean ====
section
/-! DEFINITION. Host-class counters and host waits: HSYNC_SIGNAL, HOST_WAIT_ARM, HOST_WAIT_SATISFIED, TIME_NOW_READ
(R282-R290). -/

namespace Sys2Proof.Machine

/-- Add to core-class counter `k` of context `ctx` in CU `u` (R284): an in-forward that takes effect. -/
def State.addBank (s : State) (ctx u k n : Nat) : State :=
  if ctx = s.bank then s.addSync u k n
  else
    let old := (s.cu u).sync.banks.get 0 (syncKey ctx k)
    let s1 := s.modCu u (fun cu => { cu with sync := { cu.sync with banks := cu.sync.banks.set (syncKey ctx k) (min 0xFFFF (old + n)) } })
    if 0xFFFF < old + n then s1.raiseBay (bayOfCu u) 0x16 (locCu u) k 0 0 else s1

/-- R283, R284: an addition to a host-class counter; an in-bound one is forwarded. -/
def State.physAdd (s : State) (p : Nat) (h : HCounter) (n : Nat) : State :=
  let s2 := s.physBump p h n
  match h.bind with
  | some bd =>
    if bd.out then s2
    else if s.stitch.session then
      { s2 with hsync := { s2.hsync with inForwards := s2.hsync.inForwards ++ [(h.ctx, bd.cu, bd.counter, n)] } }
    else s2.addBank h.ctx bd.cu bd.counter n
  | none => s2

/-- R285: add `n` to identifier `vid` of context `ctx`; `raw` is what the sync-unmapped event shows. -/
def State.hsyncAdd (s : State) (ctx vid n raw : Nat) : State :=
  match s.ctx? ctx, s.physOf ctx vid with
  | some _, some (p, h) => s.physAdd p h n
  | _, _ => s.raise 363 0x18 raw 0xFFFFFFFF 0 0

/-- A write of HSYNC_SIGNAL: ctx [31:30], n [27:16], vid [15:0]; n = 0 writes nothing (R290). -/
def State.hsyncWrite (s : State) (x : Nat) : State :=
  if field x 27 16 = 0 then s else s.hsyncAdd (field x 31 30) (field x 15 0) (field x 27 16) x

def execHsyncSignal (t : Nat) (v : BitVec 32) (s0 : State) : Host.Outcome State Fault Refusal :=
  .next ((s0.masterTime t).hsyncWrite v.toNat)

/-! ### Host waits (R286) -/

/-- A host wait as its register holds it. -/
structure HWait where
  armed : Bool
  consume : Bool
  evt : Bool
  ctx : Nat
  vid : Nat
  threshold : Nat
  deriving DecidableEq, Repr

def State.hwait (s : State) (n : Nat) : HWait :=
  let r := s.regN (.waitCfg n)
  ⟨bitOf r 31, bitOf r 30, bitOf r 29, field r 17 16, field r 15 0, field r 63 32⟩

/-- A wait completes in state 2 SATISFIED or 3 ABANDONED. -/
def State.waitEnd (s : State) (n state : Nat) : State :=
  let e := (s.hwait n).evt
  let s1 := (s.modReg (.waitCfg n) (fun r => r &&& ~~~bit31)).setReg (.waitState n) (regOf (s.stitchLo 16 * 2 ^ 16 + state))
  if e then s1.raise 363 0x19 n (s1.regN (.waitState n)) 0 0 else s1

/-- HOST_WAIT_ARM: a write of HSYNC_WAIT_CFGn; the fields of an armed wait do not change. -/
def State.waitWrite (s : State) (n : Nat) (v : Reg) : State :=
  if (s.hwait n).armed then s
  else
    let s1 := s.setReg (.waitCfg n) (v &&& 0xFFFFFFFF6003FFFF)
    if !bitOf v.toNat 31 then s1
    else
      let s2 := (s1.modReg (.waitCfg n) (fun r => r ||| bit31)).setReg (.waitState n) 1
      let w := s2.hwait n
      if (s2.physOf w.ctx w.vid).isNone then s2.waitEnd n 3 else s2

def execHostWaitArm (t n : Nat) (v : Reg) (s0 : State) : Host.Outcome State Fault Refusal := .next ((s0.masterTime t).waitWrite n v)

/-- Is wait `n` armed with its counter at the threshold? -/
def State.waitReady (s : State) (n : Nat) : Bool :=
  let w := s.hwait n
  w.armed && match s.physOf w.ctx w.vid with
    | some (_, h) => decide (w.threshold ≤ h.value)
    | none => false

/-- HOST_WAIT_SATISFIED: waits on one counter are taken in wait-number order. -/
def State.waitTaken (s : State) (n : Nat) : State :=
  let w := s.hwait n
  let before := (List.range n).any (fun i => s.waitReady i && (s.hwait i).ctx == w.ctx && (s.hwait i).vid == w.vid)
  if !s.waitReady n || before then s
  else match s.physOf w.ctx w.vid with
    | none => s
    | some (p, h) => (if w.consume then s.setPhys p { h with value := h.value - w.threshold } else s).waitEnd n 2

def execHostWaitSatisfied (t n : Nat) (s0 : State) : Host.Outcome State Fault Refusal := .next ((s0.masterTime t).waitTaken n)

/-- TIME_NOW_READ (R290): a read of TIME_NOW latches TIME_NS. -/
def State.latchNs (s : State) : State := s.modClk (fun k => { k with nsLatch := k.nsTotal })

def execTimeNowRead (t : Nat) (s0 : State) : Host.Outcome State Fault Refusal := .next (s0.masterTime t).latchNs

/-! ### A context's objects (R282, R288) -/

/-- R282: map the identifiers of an image to free physical counters. -/
def State.mapIds (s : State) (k : Nat) (img : Image) : State :=
  img.hostIds.foldl (fun x v =>
    match (List.range 16384).find? (fun p => (x.hsync.phys.find? p).isNone) with
    | some p => x.setPhys p ⟨k, v, 0, img.binds.find? (fun b => b.vid == v)⟩
    | none => x) s

/-- R288: abandonment when a context's residency ends for any reason but pre-emption: its banks are cleared, and the snapshots of them,
which a void would put back. -/
def State.abandon (s : State) (k : Nat) : State :=
  let s1 := (List.range 32).foldl (fun x n => if (x.hwait n).armed && (x.hwait n).ctx == k then x.waitEnd n 3 else x) s
  let used := (List.filter (fun (e : Nat × HCounter) => e.2.ctx == k && e.2.value != 0) s1.hsync.phys).length
  let s2 := if used = 0 then s1 else s1.raise 363 0x17 used k 0 0
  { s2 with
    hsync :=
      { phys := List.filter (fun e => e.2.ctx != k) s2.hsync.phys
        inForwards := s2.hsync.inForwards.filter (fun f => f.1 != k)
        sampled := ((s2.hsync.inForwards.take s2.hsync.sampled).filter (fun f => f.1 != k)).length }
    bays := s2.bays.map (fun (b, y) => (b, { y with outForwards := y.outForwards.filter (fun f => f.1 != k) }))
    cus := s2.cus.map (fun (u, c) => (u, { c with sync := { c.sync with
      banks := List.filter (fun e => e.1 / 32 != k) c.sync.banks
      snap := List.filter (fun e => e.1 / 32 != k) c.sync.snap
      recent := if k = s.bank then [] else c.sync.recent } })) }

end Sys2Proof.Machine
end

