-- ==== Sys2Proof/Machine/Ronnus.lean ====
section
/-! DEFINITION. Ronnus: version negotiation, queue doorbells, DMA channels, PCIe conditions (R310-R325, R335, R336). -/

namespace Sys2Proof.Machine

/-! ### Versions (R316, R317) -/

/-- R316: the agreed major of two ranges. -/
def agreeMajor (max1 min1 max2 min2 : Nat) : Option Nat :=
  let m := min max1 max2
  if max min1 min2 ≤ m then some m else none

/-- R317, word 4 of a version record or an agreement register: agreed, failed, major. -/
def agreementWord : Option Nat → Reg
  | some m => regOf (2 ^ 31 + m * 2 ^ 16)
  | none => regOf (2 ^ 30)

/-- Outcome of a negotiation on interface `i` (0 Ronnus, 1 image format) in its version record; the T1 offers major 1 with
capability bits `own`. -/
def State.negotiate (s : State) (i maxM minM caps own : Nat) : State :=
  let m := agreeMajor 1 1 maxM minM
  (((s.setReg (.ver i 2) (regOf (maxM * 2 ^ 24 + minM * 2 ^ 16))).setReg (.ver i 3) (regOf caps)).setReg (.ver i 4)
    (agreementWord m)).setReg (.ver i 5) (if m.isSome then regOf (caps &&& own) else 0)

/-- R317: word 0 of the version record of every interface the T1 offers: major 1 only, minor 0. -/
def ownOffer : Nat := 0x01010000

/-- HOST_VERSION_WRITE: a new negotiation, whose outcome replaces the earlier one. -/
def State.hostVersion (s : State) (v : Nat) : State :=
  let s1 := (s.setReg (.host .version) (regOf (v % 2 ^ 32))).negotiate 0 (field v 31 24) (field v 23 16) (field v 15 0) 1
  if bitOf (s1.regN (.ver 0 4)) 31 then s1 else s1.raise 360 0x53 0 ownOffer (s1.regN (.ver 0 2)) 0

def execHostVersionWrite (t : Nat) (v : BitVec 32) (s0 : State) : Host.Outcome State Fault Refusal :=
  .next ((s0.masterTime t).hostVersion v.toNat)

/-- Does a Ronnus agreement hold? -/
def State.ronnus (s : State) : Bool := bitOf (s.regN (.ver 0 4)) 31

/-- Capability bit 0: output-published events (R317). -/
def State.ronnusEvents (s : State) : Bool := s.ronnus && bitOf (s.regN (.ver 0 5)) 0

def State.doorbellInvalid (s : State) (offset v : Nat) : State := s.raise 360 0x64 offset v 0 0

/-! ### Queue pairs (R318-R322) -/

def State.qpOn (s : State) (q : Nat) : Bool := bitOf (s.regN (.qp q .cfg)) 31 && !bitOf (s.regN (.qp q .status)) 31

def dist32 (a b : Nat) : Nat := (a + 2 ^ 32 - b % 2 ^ 32) % 2 ^ 32

def State.qpInSize (s : State) (q : Nat) : Nat := 2 ^ field (s.regN (.qp q .cfg)) 4 0
def State.qpOutSize (s : State) (q : Nat) : Nat := 2 ^ field (s.regN (.qp q .cfg)) 9 5

/-- R320: the pointers before the doorbells of this ns are kept for a sampling of the same cycle. -/
def State.qpStamp (s : State) (q : Nat) : State :=
  let x := s.host.qps.get Qp.reset q
  if x.at_ = s.clk.nsTotal + 1 then s
  else s.modHost (fun h => { h with qps := h.qps.set q { x with
    inBefore := s.regN (.qp q .inTail), outBefore := s.regN (.qp q .outHead), at_ := s.clk.nsTotal + 1 } })

/-- QP_IN_TAIL (R317, R320): counts are compared as distances from the published head. -/
def State.qpTail (s : State) (q v : Nat) : State :=
  if !s.ronnus || !s.qpOn q then s.doorbellInvalid (4096 * q + 0x18) v
  else
    let h := s.regN (.qp q .inHead)
    let d := dist32 v h
    if d < dist32 (s.regN (.qp q .inTail)) h ∨ s.qpInSize q < d then s.raise (384 + q) 0x60 0 v (h + s.qpInSize q) 0
    else (s.qpStamp q).setReg (.qp q .inTail) (regOf (v % 2 ^ 32))

def execQpInTail (t q : Nat) (v : BitVec 32) (s0 : State) : Host.Outcome State Fault Refusal :=
  .next ((s0.masterTime t).bar2Write (.qp q .inTail) .whole (regOf v.toNat) (fun s => s.qpTail q v.toNat))

/-- QP_OUT_HEAD (R322). -/
def State.qpHead (s : State) (q v : Nat) : State :=
  let h := s.regN (.qp q .outHead)
  if !s.ronnus || !s.qpOn q || decide (dist32 (s.regN (.qp q .outTail)) h < dist32 v h) then s.doorbellInvalid (4096 * q + 0x24) v
  else (s.qpStamp q).setReg (.qp q .outHead) (regOf (v % 2 ^ 32))

def execQpOutHead (t q : Nat) (v : BitVec 32) (s0 : State) : Host.Outcome State Fault Refusal :=
  .next ((s0.masterTime t).bar2Write (.qp q .outHead) .whole (regOf v.toNat) (fun s => s.qpHead q v.toNat))

/-! ### DMA channels (R323-R325) -/

def State.hdma (s : State) (d : Nat) : HDma := s.host.dma.get HDma.reset d
def State.setHdma (s : State) (d : Nat) (v : HDma) : State := s.modHost (fun h => { h with dma := h.dma.set d v })

/-- DMA_TAIL. -/
def State.dmaTailWrite (s : State) (d v : Nat) : State :=
  if s.ronnus then s.setReg (.dma d .tail) (regOf (v % 2 ^ 32)) else s.doorbellInvalid (4096 * (64 + d) + 0xC) v

def execDmaTail (t d : Nat) (v : BitVec 32) (s0 : State) : Host.Outcome State Fault Refusal :=
  .next ((s0.masterTime t).bar2Write (.dma d .tail) .whole (regOf v.toNat) (fun s => s.dmaTailWrite d v.toNat))

/-- DMA_RESTART: clears halted; the channel resumes at DMA_HEAD. -/
def State.dmaRestartCmd (s : State) (d : Nat) : State :=
  let x := s.hdma d
  if x.halted then s.setHdma d { x with halted := false, running := false, words := [], buffers := [], next := 0 } else s

def execDmaRestart (t d : Nat) (s0 : State) : Host.Outcome State Fault Refusal :=
  .next ((s0.masterTime t).bar2Write (.dma d .ctrl) .whole 1 (fun s => s.dmaRestartCmd d))

/-- A descriptor (R323). -/
structure DmaDescr where
  host : Nat
  dev : Nat
  len : Nat
  toHost : Bool
  evt : Bool
  sig : Bool
  ctx : Nat
  vid : Nat
  zeroes : Bool          -- every reserved bit is zero
  deriving DecidableEq, Repr

def dmaDescrOf (ws : List (BitVec 32)) : DmaDescr :=
  let w (i : Nat) : Nat := (ws.getD i 0).toNat
  { host := w 0 + w 1 * 2 ^ 32, dev := w 2 + field (w 3) 15 0 * 2 ^ 32, len := field (w 4) 23 0 + 1
    toHost := bitOf (w 5) 0, evt := bitOf (w 5) 1, sig := bitOf (w 5) 2, ctx := field (w 5) 4 3, vid := field (w 5) 20 5
    zeroes := decide (field (w 3) 31 16 = 0 ∧ field (w 4) 31 24 = 0 ∧ field (w 5) 31 21 = 0 ∧ w 7 = 0) }

/-- Does a device range touch a page that satisfies `f`? -/
def State.touchesPage (s : State) (x len : Nat) (f : VPage → Bool) : Bool :=
  s.hbm.pages.any (fun p => f p && decide (x < p.base + 0x20000 ∧ p.base < x + len))

/-- Statuses 1, 3 and 4 of R323, checked before a transfer starts; 0 when it may. Of several that hold, the lowest is given (DESIGN CHOICE,
log entry 81). -/
def State.dmaCheck (s : State) (x : DmaDescr) : Nat :=
  if s.capacity < x.dev + x.len then 1
  else if !x.zeroes then 3
  else if s.touchesPage x.dev x.len (fun p => p.imp.isSome || s.stitch.session) then 4
  else 0

/-- Descriptors of channel `d`'s ring. -/
def State.dmaRing (s : State) (d : Nat) : Nat := 2 ^ field (s.regN (.dma d .ringCfg)) 4 0

/-- Host address of the descriptor at DMA_HEAD. -/
def State.dmaDescAt (s : State) (d : Nat) : Nat := s.regN (.dma d .ringBase) + 32 * ((s.hdma d).done % s.dmaRing d)

/-- Word 6 of the descriptor. -/
def State.dmaWord6 (s : State) (d status : Nat) : State :=
  s.putHost (s.dmaDescAt d + 24) (leBytes 4 (2 ^ 31 + status))

/-- R324: a non-zero status stops the channel; DMA_HEAD stays at the descriptor. -/
def State.dmaStop (s : State) (d status : Nat) : State :=
  let x := s.hdma d
  ((s.dmaWord6 d status).setHdma d { x with running := false, halted := true, buffers := [], next := 0 }).raise (448 + d) 0x63
    (x.done % s.dmaRing d) status 0 0

/-- Does the channel fetch the descriptor at DMA_HEAD (R324)? -/
def State.fetchDue (s : State) (d : Nat) : Bool :=
  let x := s.hdma d
  !x.running && !x.halted && bitOf (s.regN (.dma d .ringCfg)) 31 && s.regN (.dma d .tail) != x.done && !s.hbm.scrubbing

/-- DMA_DESCRIPTOR_START: the channel fetches the descriptor at DMA_HEAD, whose words the host memory holds. -/
def State.dmaFetch (s : State) (d : Nat) (ws : List (BitVec 32)) : State :=
  let x := s.hdma d
  if !s.fetchDue d then s
  else
    let s1 := s.setHdma d { x with running := true, words := ws, buffers := [], next := 0 }
    let st := s.dmaCheck (dmaDescrOf ws)
    if st = 0 then s1 else s1.dmaStop d st

def execDmaDescriptorStart (t d : Nat) (words : List (BitVec 32)) (s0 : State) : Host.Outcome State Fault Refusal :=
  .next ((s0.masterTime t).dmaFetch d words)

/-- R325: reservations and the buffers drawn from the unreserved ones. -/
def State.reserved (s : State) (d : Nat) : Nat := s.regN (.dmaRes d)
def State.reservedSum (s : State) : Nat := ((List.range 64).map s.reserved).foldl (· + ·) 0
def State.unreservedUsed (s : State) : Nat :=
  ((List.range 64).map (fun d => (s.hdma d).buffers.length - s.reserved d)).foldl (· + ·) 0
def State.heldSum (s : State) : Nat := ((List.range 64).map (fun d => (s.hdma d).buffers.length)).foldl (· + ·) 0

/-- Does channel `d` want a buffer? -/
def State.wantsBuffer (s : State) (d : Nat) : Bool :=
  (s.hdma d).running && decide ((s.hdma d).next < (dmaDescrOf (s.hdma d).words).len)

/-- May channel `d` have a buffer now: from its reservation, or by R27 among those that wait for an unreserved one? -/
def State.bufferFree (s : State) (d : Nat) : Bool :=
  decide ((s.hdma d).buffers.length < s.reserved d) ||
  (decide (s.unreservedUsed < 2048 - s.reservedSum) &&
    rrPick 64 s.host.poolPtr (fun i => s.wantsBuffer i && decide (s.reserved i ≤ (s.hdma i).buffers.length)) == some d)

/-- DMA_BUFFER_READ: the channel takes a buffer and issues its next read, cut at a 4 KiB boundary of the host address. -/
def State.dmaRead (s : State) (d : Nat) : State :=
  let x := s.hdma d
  let y := dmaDescrOf x.words
  if s.wantsBuffer d && s.bufferFree d then
    let n := min (4096 - (y.host + x.next) % 4096) (y.len - x.next)
    let s1 := s.setHdma d { x with buffers := x.buffers ++ [(x.next, n)], next := x.next + n }
    if x.buffers.length < s.reserved d then s1 else s1.modHost (fun h => { h with poolPtr := (d + 1) % 64 })
  else s

def execDmaBufferRead (t d : Nat) (s0 : State) : Host.Outcome State Fault Refusal := .next ((s0.masterTime t).dmaRead d)

/-- R305: a write from the host side, which waits where a capture queue is full (R357). -/
def State.hostPut (s : State) (x : Nat) (data : List Byte) : State :=
  if s.stitch.session then s.hbmWrite x data else s.hbmLoad x data

/-- R302: what a DMA channel does with the upper half of a page is an address fault: it writes nothing there and reads zeros. -/
def State.dmaFault (s : State) (d x : Nat) : State := s.addrFault (448 + d) x 0xFFFFFFFF 4 none

/-- The channel writes its bytes. -/
def State.dmaPut (s : State) (d x : Nat) (data : List Byte) : State :=
  (halfRuns x data.length (data.length + 1)).foldl (fun y r =>
    if (y.hbmBad r.1).isSome then y.dmaFault d r.1 else y.hostPut r.1 ((data.drop (r.1 - x)).take r.2)) s

/-- The bytes of a read of external memory from `x` on. -/
def State.hbmReadBytes (s : State) (x n : Nat) : List Byte × State :=
  let (ws, _, s1) := s.hbmReadWords (x / 16 * 16) (ceilDiv (x % 16 + n) 16)
  (((wordsBytes ws).drop (x % 16)).take n, s1)

/-- The bytes of one run: zeros where it cannot be read. -/
def State.dmaGetRun (s : State) (d : Nat) (r : Nat × Nat) : List Byte × State :=
  if (s.hbmBad r.1).isSome then (List.replicate r.2 0, s.dmaFault d r.1) else s.hbmReadBytes r.1 r.2

/-- They join the bytes before. -/
def State.dmaGetMore (s : State) (d : Nat) (before : List Byte) (r : Nat × Nat) : List Byte × State :=
  match s.dmaGetRun d r with | (bs, s1) => (before ++ bs, s1)

/-- The channel reads `n` bytes from `x` on. -/
def State.dmaGet (s : State) (d x n : Nat) : List Byte × State :=
  (halfRuns x n (n + 1)).foldl (fun y r => y.2.dmaGetMore d y.1 r) ([], s)

/-- An error is reported through AER (R315). -/
def State.reportAer (s : State) (e : Aer) : State := s.modHost (fun h => { h with aer := e :: h.aer })

/-- R315: a failed access to host memory: the bytes before it have moved and no others have. -/
def State.dmaHostFail (s : State) (d : Nat) : State := (s.reportAer .completion).dmaStop d 2

/-- R315: the fetch of a descriptor, a read of host memory too, fails. -/
def State.fetchFail (s : State) (d : Nat) : State := if s.fetchDue d then s.dmaHostFail d else s

/-- R472: with the IDE stream active a completion that is not on it is discarded; else it is as good as any. -/
def State.taken (s : State) (got : Completion) : Option Completion :=
  match got, s.spdm.ide with
  | .offStream, some _ => none
  | .offStream, none => some .good
  | g, _ => some g

/-- DMA_READ_COMPLETION: the data of the oldest outstanding read arrives and is written onward; its buffer is freed. Data from
external memory is read then. What is no good TLP, and a completion that no read waits for, is reported and discarded: the read still
waits (R315; log entry 74). -/
def State.dmaCompletion (s : State) (d : Nat) (got : Completion) (data : List Byte) : State :=
  let x := s.hdma d
  let y := dmaDescrOf x.words
  match (s.taken got).getD .offStream, x.buffers with
  | .offStream, _ => s
  | .malformed, _ => s.reportAer .malformed
  | .ecrcError, _ => s.reportAer .ecrc
  | .good, [] => if s.fetchDue d then s else s.reportAer .unexpected
  | .failed, [] => if s.fetchDue d then s.dmaHostFail d else s.reportAer .unexpected
  | .failed, _ :: _ => if y.toHost then s.reportAer .unexpected else s.dmaHostFail d
  | .good, (o, n) :: rest =>
      let s1 := s.setHdma d { x with buffers := rest }
      if y.toHost then
        let (bs, s2) := s1.dmaGet d (y.dev + o) n
        s2.putHost (y.host + o) bs
      else s1.dmaPut d (y.dev + o) (data.take n ++ List.replicate (n - data.length) 0)

def execDmaReadCompletion (t d : Nat) (got : Completion) (data : List Byte) (s0 : State) : Host.Outcome State Fault Refusal :=
  let s := s0.masterTime t
  .next (s.hbmHold (s.dmaCompletion d got data))

/-- DMA_HOST_READ_TIMEOUT: no completion within 50 ms, of a read of data or of a descriptor. -/
def execDmaHostReadTimeout (t d : Nat) (s0 : State) : Host.Outcome State Fault Refusal :=
  let s := s0.masterTime t
  .next (if (s.hdma d).buffers = [] then s.fetchFail d else if (dmaDescrOf (s.hdma d).words).toHost then s else s.dmaHostFail d)

/-- DMA_DESCRIPTOR_COMPLETE: all the descriptor's writes have landed. -/
def State.dmaDone (s : State) (d : Nat) : State :=
  let x := s.hdma d
  let y := dmaDescrOf x.words
  if x.running ∧ x.buffers = [] ∧ y.len ≤ x.next then
    let s1 := (s.dmaWord6 d 0).setHdma d { x with running := false, done := (x.done + 1) % 2 ^ 32, next := 0, words := [] }
    let s2 := if y.evt then s1.raise (448 + d) 0x62 (x.done % s.dmaRing d) 0 0 0 else s1
    if y.sig then s2.hsyncAdd y.ctx y.vid 1 (y.ctx * 2 ^ 30 + 2 ^ 16 + y.vid) else s2
  else s

def execDmaDescriptorComplete (t d : Nat) (s0 : State) : Host.Outcome State Fault Refusal := .next ((s0.masterTime t).dmaDone d)

/-- HOST_DMA_RES_WRITE (R335). -/
def State.dmaResWrite (s : State) (d v : Nat) : State :=
  let n := field v 11 0
  let x := s.hdma d
  if x.running ∨ x.halted ∨ s.regN (.dma d .tail) ≠ x.done ∨ 2048 < s.reservedSum - s.reserved d + n then s.raise 360 0x65 d v 0 0
  else s.setReg (.dmaRes d) (regOf n)

def execHostDmaResWrite (t d : Nat) (v : BitVec 32) (s0 : State) : Host.Outcome State Fault Refusal :=
  .next ((s0.masterTime t).dmaResWrite d v.toNat)

/-! ### The port (R310, R311, R315, R331) -/

def linkReg (width rate : Nat) : Reg := regOf (width % 256 * 2 ^ 8 + rate % 16)

/-- Widths that the port trains (R310). -/
def linkWidths : List Nat := [1, 2, 4, 8, 16]

/-- PCIE_TRAINING: the link is up; before that the port answers with Request Retry Status. It trains once step 2 of
the boot has completed (R433). -/
def State.pcieUp (s : State) (width rate : Nat) : State :=
  (s.modHost (fun h => { h with linkUp := true, linkWidth := width, linkRate := rate })).setReg (.host .link) (linkReg width rate)

def execPcieTraining (t width rate : Nat) (s0 : State) : Host.Outcome State Fault Refusal :=
  let s := s0.masterTime t
  .next (if s.sup.bootStep < 3 ∨ !linkWidths.contains width then s else s.pcieUp width rate)

/-- PCIE_LINK_RETRAIN: a retrain in a session raises link-retrained with their number (R331), and link-degraded when it changes the width
or rate (R311). w0 and w1 of that hold lanes in [15:8] and the rate code in [3:0], as HOST_LINK does. -/
def State.pcieRetrain (s : State) (width rate : Nat) : State :=
  if !s.host.linkUp ∨ !linkWidths.contains width then s
  else
    let old := s.regN (.host .link)
    let s1 := s.pcieUp width rate
    if s.stitch.session then
      let s2 := (s1.modHost (fun h => { h with retrains := h.retrains + 1 })).raise 360 0x52 (s.host.retrains + 1) 0 0 0
      if s1.regN (.host .link) ≠ old then s2.raise 360 0x51 (s1.regN (.host .link)) old 0 0 else s2
    else s1

def execPcieLinkRetrain (t width rate : Nat) (s0 : State) : Host.Outcome State Fault Refusal := .next ((s0.masterTime t).pcieRetrain width rate)

/-- PCIE_LINK_DOWN: the port's link is lost (kind 0x50, source 360); w0 1 in a session, 0 when training failed. -/
def State.pcieDown (s : State) : State :=
  let s1 := (s.modHost (fun h => { h with linkUp := false, linkWidth := 0, linkRate := 0 })).setReg (.host .link) 0
  s1.raise 360 0x50 (b2n s.stitch.session) 0 0 0

def execPcieLinkDown (t : Nat) (s0 : State) : Host.Outcome State Fault Refusal := .next (s0.masterTime t).pcieDown

/-- PCIE_POISONED_TLP: the write is discarded and reported, non-fatal (R315). -/
def execPciePoisonedTlp (t : Nat) (s0 : State) : Host.Outcome State Fault Refusal :=
  .next ((s0.masterTime t).reportAer .poisoned)

/-- UNCORRECTABLE_INTERNAL_ERROR: reported as fatal; every DMA channel stops (R315). -/
def State.stopChannels (s : State) : State :=
  (List.range 64).foldl (fun x d => x.setHdma d { x.hdma d with running := false, halted := true, buffers := [] })
    (s.reportAer .internal)

def execUncorrectableInternalError (t : Nat) (s0 : State) : Host.Outcome State Fault Refusal := .next (s0.masterTime t).stopChannels

end Sys2Proof.Machine
end

