-- ==== Sys2Proof/Machine/Loss.lean ====
section
/-! DEFINITION. Losing a bay or a panel: dark bays, unavailable bays, panel holes (R25, R246, R379-R381, R418-R420), and the SRAM
and registers a bay loses with its rail (R182, R440). -/

namespace Sys2Proof.Machine

/-- Is a device address on-wafer storage of bay `b`? -/
def addrInBay (b a : Nat) : Bool := a / 2 ^ 44 == 8 && bayOf (addrCluster a) == b

/-- What a bay's rail holds is lost: SRAM, unit state, the registers of its window and units. It keeps what its panel and the
control island hold: power state, latency, BIST result. -/
def State.wipeBay (s : State) (b : Nat) : State :=
  let s1 := s.dropRegs (inBay b)
  { s1 with
    mem := s1.mem.filter (fun c => !addrInBay b c.1)
    errs := List.filter (fun e => !addrInBay b (16 * e.1)) s1.errs
    cus := List.filter (fun e => bayOfCu e.1 != b) s1.cus
    mus := List.filter (fun e => bayOf e.1 != b) s1.mus
    bays := s1.bays.set b { Bay.reset with
      power := (s.bay b).power, latency := (s.bay b).latency, bist := (s.bay b).bist } }

/-- A bay's vote line reads missing (R45, R46). -/
def State.voteMissing (s : State) (b : Nat) : State :=
  let s1 := s.modBay b (fun y => { y with vote := { y.vote with missing := true } })
  if s1.stitch.phase = .before ∧ (s1.stitch.votes.find? b).isSome then
    s1.modStitch (fun k => { k with votes := k.votes.set b (0, 0) })
  else s1

/-- The bay's rail is off: state 5 (R25, R372). Its wake, if one ran, ends. -/
def State.darken (s : State) (b : Nat) : State :=
  let s1 := ((s.wipeBay b).modBay b (fun y => { y with power := .dark })).voteMissing b
  s1.modPanel (b / 4) (fun p => { p with
    wakes := p.wakes.filter (· ≠ b), waking := if p.waking = some b then none else p.waking })

/-- R419: bay-unavailable with its reason, failing the contexts that require the bay. -/
def State.unavailable (s : State) (b code : Nat) (f : FaultPlace) : State :=
  (s.raise 368 0x33 b code 0 0).failCtxs (requires b) f

/-- R379 from its second step: the bay goes dark; contexts that require it fail. -/
def State.loseBay (s : State) (b code : Nat) (f : FaultPlace) : State := ((s.darken b).unavailable b code f).inventoryAgain

/-! ### Panel holes (R246, R380) -/

/-- The panels from `a` to `b` of a ring of `n`, both included, going up or back. -/
def ringLine (n a b : Nat) (back : Bool) : List Nat :=
  let k := if back then (a + n - b) % n else (b + n - a) % n
  (List.range (k + 1)).map (fun i => if back then (a + n - i) % n else (a + i) % n)

/-- R244: the panel positions that a dimension's mode can pass: minimal goes up for less than half the ring, back for more,
and either way at half. -/
def modePanels (n a b mode : Nat) : List Nat :=
  let k := (b + n - a) % n
  match mode with
  | 1 => ringLine n a b false
  | 2 => ringLine n a b true
  | _ => if 2 * k < n then ringLine n a b false
    else if n < 2 * k then ringLine n a b true
    else ringLine n a b false ++ ringLine n a b true

/-- Panels that the routes of an X-then-Y entry with these modes can pass. -/
def routePanels (p d xm ym : Nat) : List Nat :=
  (modePanels 8 (p % 8) (d % 8) xm).map (fun x => p / 8 * 8 + x) ++
    (modePanels 6 (p / 8) (d / 8) ym).map (fun y => 8 * y + d % 8)

/-- R246 leaves the trusted firmware several tables. This one keeps every entry X then Y, so that no channel dependency closes
a cycle: minimal where that avoids every hole, else the first pair of forced directions that does, else unreachable
(log entry 13). -/
def routeChoice (holes : List Nat) (p d : Nat) : Nat :=
  let ok (m : Nat × Nat) : Bool := (routePanels p d m.1 m.2).all (fun q => !holes.contains q)
  match [(0, 0), (1, 0), (2, 0), (0, 1), (0, 2), (1, 1), (1, 2), (2, 1), (2, 2)].find? ok with
  | some (xm, ym) => 0x80 + xm * 16 + ym * 4
  | none => 0

def tableWord (holes : List Nat) (p w : Nat) : Nat :=
  (List.range 4).foldl (fun a i => a + routeChoice holes p (4 * w + i) * 2 ^ (8 * i)) 0

/-- PANEL_MESH_HOLES for these holes (R269). -/
def holeBits (hs : List Nat) : Reg := regOf (hs.foldl (fun a p => a + 2 ^ p) 0)

/-- The trusted firmware installs the route tables for the holes there are, and lists the holes (R246, R269). -/
def State.installTables (s : State) : State :=
  let hs := s.holes
  let s1 := s.dropRegs (fun r => match r with | .panelRoute _ _ => true | .panel _ .meshHoles => true | _ => false)
  if hs = [] then s1
  else
    let s2 := (List.range 48).foldl (fun (x : State) p => x.setReg (.panel p .meshHoles) (holeBits hs)) s1
    (List.range 576).foldl (fun x i =>
      if tableWord hs (i / 12) (i % 12) = 0x80808080 then x
      else x.setReg (.panelRoute (i / 12) (i % 12)) (regOf (tableWord hs (i / 12) (i % 12)))) s2

/-- Is a packet bound for panel `p`? A multicast is that names a target there. -/
def boundFor (p : Nat) (m : Moving) : Bool :=
  match m.pkt with
  | .multicast mc _ _ => (List.range 4608).any (fun i => mcTarget mc (clusterAt (64 * (p % 8) + i % 64) (72 * (p / 8) + i / 64)))
  | _ => panelOf (clusterAt m.dstX m.dstY) == p

/-- Do flits of the packet of which `m` in buffer `k` of router `r` is the rear part lie in panel `p`, here or further on? -/
def State.liesIn (s : State) (p r k : Nat) (m : Moving) : Nat → Bool
  | 0 => false
  | n + 1 => panelOf r == p || ((m.legs r).filter (· < 4)).any (fun o =>
      let (q, k') := landing r (k % 8 / 2) (2 * (k / 8) + k % 2) o
      match ((s.rtr q).buf k').getLast? with
      | some m' => s.liesIn p q k' m' n
      | none => false)

/-- A whole packet, whose rear part is `m`, is discarded; flits that its source still injects are dropped as they come. -/
def State.dropWhole (s : State) (r k : Nat) (m : Moving) : State :=
  let l := (s.rtr r).buf k
  ((m.legs r).filter (· < 4)).foldl (fun x o =>
    let (q, k') := landing r (k % 8 / 2) (2 * (k / 8) + k % 2) o
    x.dropChain q k' 1024)
    (s.setBuf r k (if complete m then l.erase m else l.dropLast ++ [{ m with bad := true, sent := m.got }]))

/-- The rear parts of the packets in the routers: where the tail flit is, or at the local or the external port that still injects them. -/
def State.rears (s : State) : List (Nat × Nat × Moving) :=
  s.rtrs.flatMap (fun (r, x) => x.inq.flatMap (fun (k, l) =>
    (l.filter (fun m => !m.bad && (complete m || decide (4 ≤ k / 8)))).map (fun m => (r, k, m))))

/-- R246: every packet held in panel `p`, a part of it included, or bound for it is discarded, those among them that wait to enter. -/
def State.dropPackets (s : State) (p : Nat) : State :=
  let gone := s.rears.filter (fun (r, k, m) => boundFor p m || s.liesIn p r k m 1024)
  let s1 := gone.foldl (fun x (r, k, m) => x.dropWhole r k m) s
  let kept (q : Packet) : Bool := match s.pktDest q with | some (d, _) => panelOf d != p | none => true
  { s1 with
    rtrs := s1.rtrs.map (fun (c, r) => if panelOf c == p then (c, { Rtr.reset with ptr := r.ptr }) else (c, { r with waits := r.waits.filter kept }))
    mus := s1.mus.map (fun (c, m) => (c, { m with replies := m.replies.filter kept })) }

/-- Does an image declare traffic over a panel pair that cannot be reached (R246, R437)? -/
def State.trafficBlocked (s : State) (i : Image) : Bool :=
  i.traffic.any (fun (p, d) => !bitOf (s.routeEntry p d) 7)

/-- R380: the panel's fabric feed has opened; the panel is a hole. -/
def State.losePanel (s : State) (p amps : Nat) : State :=
  let s1 := s.raise (192 + p) 0x41 1 amps 0 0
  let s2 := s1.modPanel p (fun x => { x with fabricOn := false, fabricOpen := true })
  let s3 := (List.range 4).foldl (fun x i => if (x.bay (4 * p + i)).power = .dark then x else x.darken (4 * p + i)) s2
  let s4 := (s3.dropPackets p).installTables.lossVoid
  (s4.failCtxs (fun c => (List.range 4).any (fun i => c.image.required.contains (4 * p + i)) || s4.trafficBlocked c.image)
    ⟨5, 4 * p, 0, 0⟩).inventoryAgain

end Sys2Proof.Machine
end

