-- ==== Sys2Proof/Machine/Stitch.lean ====
section
/-! DEFINITION. Time and stitch boundaries: TIME_MESSAGE_SEND, TIME_MESSAGE_RECEIVE, BOUNDARY_MESSAGE, STITCH_START,
DONE_TOKEN_ARRIVAL, PEER_TIMEOUT (R33, R34, R42, R46, R58, R64, R270-R277, R349-R351). -/

namespace Sys2Proof.Machine

/-- R34: C, H, K, W of a stitch of `len` ns at `f` MHz. -/
def stitchCap (len f : Nat) : Nat × Nat × Nat × Nat :=
  let c := len * f / 1000
  let h := max 512 (ceilDiv c 50)
  let k := ceilDiv (96 * f) 1000
  (c, h, k, c - h - k)

def Bay.c (y : Bay) : Nat := y.cap.1
def Bay.k (y : Bay) : Nat := y.cap.2.2.1
def Bay.w (y : Bay) : Nat := y.cap.2.2.2

/-! ### Sites and peers (R348-R351) -/

/-- The use that resident images declare for a site; the active image's declaration first. -/
def State.siteUse (s : State) (t : Nat) : Option SiteUse :=
  let all := (match s.ctx? s.active with | some c => c.image.sites | none => []) ++ s.ctxs.flatMap (fun e => e.2.image.sites)
  all.find? (fun u => u.site == t)

/-- R46: sites the active image assigns. -/
def State.assigned (s : State) (t : Nat) : Bool :=
  match s.ctx? s.active with
  | some c => c.image.sites.any (fun u => u.site == t)
  | none => false

def State.feedPeers (s : State) : List Nat := (List.range 64).filter (fun i => bitOf (s.regN (.time .peerFeed)) i)

/-- Up sites assigned to partition peer `p` (R350). -/
def State.peerSites (s : State) (p : Nat) : List Nat :=
  (List.range 96).filter (fun t => (s.site t).up && match s.siteUse t with
    | some u => !u.twin && u.peerIndex == p
    | none => false)

/-- R348, R355: does site `t` carry flits of a type? Any site IDLE and MGMT; a twin site classes 0 and 2, which are the twin's; another only
where a resident image assigns it to a peer. -/
def State.carries (s : State) (t type : Nat) : Bool :=
  if type ≤ 1 then true
  else if t = s.siteA ∨ t = s.siteB then decide (type = 4 ∨ type = 5)
  else decide (type = 2 ∨ type = 3) && match s.siteUse t with
    | some u => !u.twin
    | none => false

/-- R276, R350: is the token of peer `p` for the stitch in progress still to come? -/
def State.tokenMissing (s : State) (p : Nat) : Bool :=
  let l := s.peerSites p
  l.isEmpty || l.any (fun t => decide ((s.site t).tokens.length < s.clk.tokenNo))

def State.tokensMissing (s : State) : List Nat := s.feedPeers.filter s.tokenMissing

/-- R351: has every peer's last token at least this engine's commit sequence? -/
def State.peersLevel (s : State) : Bool :=
  s.clk.tokenNo == 0 || s.feedPeers.all (fun p =>
    (s.peerSites p).all (fun t => decide (s.stitch.commitSeq ≤ (s.site t).tokens.getD (s.clk.tokenNo - 1) 0)))

/-- DONE_TOKEN_ARRIVAL: a token counts on the site it arrives on (R350). -/
def State.tokenArrive (s : State) (peer site : Nat) (seq : Nat) : State :=
  match s.siteUse site with
  | some u => if u.twin ∨ u.peerIndex ≠ peer then s else s.modSite site (fun x => { x with tokens := x.tokens ++ [seq] })
  | none => s

def execDoneTokenArrival (t peer site _stitch _result : Nat) (seq : Reg) (s0 : State) : Host.Outcome State Fault Refusal :=
  .next ((s0.masterTime t).tokenArrive peer site seq.toNat)

/-- R277: the wait, from the end of the stitch, has reached the timeout. -/
def State.peerTimeoutNs (s : State) : Nat :=
  let v := field (s.regN (.time .peerCtrl)) 11 0
  1000 * (if v = 0 then 1 else min v 4000)

def peerWord (l : List Nat) : Nat := l.foldl (fun a p => a + 2 ^ p) 0

def State.peerTimeout (s : State) : State :=
  let miss := s.tokensMissing
  if s.stitch.session && !s.clk.timedOut && !miss.isEmpty && decide (s.stitch.len + s.peerTimeoutNs ≤ s.clk.ns) then
    (s.modClk (fun k => { k with timedOut := true })).raise 363 7 (peerWord miss) (peerWord miss / 2 ^ 32) 0 0
  else s

def execPeerTimeout (t : Nat) (s0 : State) : Host.Outcome State Fault Refusal := .next (s0.masterTime t).peerTimeout

/-! ### Time messages (R271-R274) -/

/-- TIME_MESSAGE_SEND: every 1,000 ns the master sends its position. -/
def State.timeSend (s : State) : State := s.modClk (fun k => { k with lastMessage := k.ns })

def execTimeMessageSend (t : Nat) (s0 : State) : Host.Outcome State Fault Refusal := .next (s0.masterTime t).timeSend

/-- R291: BAY_TIME_ERR. -/
def Bay.timeErr (y : Bay) : Nat :=
  b2n y.locked * 2 ^ 31 + y.latency % 128 * 2 ^ 24 + lowBits 16 (max (-32767) (min 32767 y.errNs))

/-- R272: the trim that removes a phase error of num / f ns over the next 1,000 ns, at most 1 ns; the spec gives it no unit, and the
model holds it to the picosecond (DESIGN CHOICE, log entry 54). -/
def trimOf (num : Int) (f : Nat) : Int := max (-1000) (min 1000 (-(1000 * num / f)))

/-- R272, R274: the bay receives the message that carries the position m, which is the last that the master has sent. Its phase error is kept exact, in thousandths of a MHz ns; a fraction
of a ns is shown as one neighbouring whole number, which of the two the spec does not say (log entry 14). -/
def State.timeReceive (s : State) (b m : Nat) : State :=
  let y := s.bay b
  let f := s.mhz b
  if y.power ≠ .active ∨ f = 0 ∨ m ≠ s.clk.lastMessage then s
  else
    let num : Int := 1000 * y.cycle - f * (m + y.latency)
    let exact : Bool := decide (num % f = 0)
    let up : Int := if exact then 0 else (Config.freeReg s.free).toNat % 2
    let s0 := if exact then s else s.takeFree
    let far : Nat := num.natAbs
    let s1 := s0.modBay b (fun y => { y with errNs := num / f + up, locked := decide (far ≤ 10 * f), pllTrim := trimOf num f })
    if far ≤ 10 * f then s1
    else
      let s2 := (s1.count (.bay b .timeSlip) 1).raiseBay b 6 (s1.bay b).timeErr 0 0 0
      if 40 * f < far then s2.voteMissing b else s2

def execTimeMessageReceive (t b m : Nat) (s0 : State) : Host.Outcome State Fault Refusal := .next ((s0.bayTime b t).timeReceive b m)

/-! ### The boundary (R273, R276, R277) -/

/-- BOUNDARY_MESSAGE: 48 ns ahead of the end, once the tokens of the stitch have arrived or are no longer waited for. -/
def State.boundary (s : State) : State :=
  if !s.stitch.session || s.clk.boundarySent || s.stitch.phase == .before || decide (s.clk.ns + 48 < s.stitch.len)
      || (!s.tokensMissing.isEmpty && !s.clk.timedOut) then s
  else
    let hold := s.clk.ns + 48 - s.stitch.len
    let s1 := s.modClk (fun k => { k with boundarySent := true })
    if hold = 0 ∨ s.feedPeers = [] then s1 else (s1.setReg (.time .holdLast) (regOf (min hold 0xFFFFFFFF))).count (.time .holdCount) 1

def execBoundaryMessage (t : Nat) (s0 : State) : Host.Outcome State Fault Refusal := .next (s0.masterTime t).boundary

/-! ### Voters (R46) -/

/-- Does a bay take part in the vote? A bay told to go dormant has left, a bay told to wake has joined. -/
def State.bayVotes (s : State) (b : Nat) : Bool :=
  match s.ctx? s.active with
  | none => false
  | some c => c.image.bays.contains b && !s.stitch.excluded.contains b &&
      match (s.bay b).power with
      | .active => (s.bay b).modes.nextGrade != some 0
      | .waking => (s.bay b).wakeStart.isNone && match (s.bay b).modes.nextGrade with | some g => g != 0 | none => false
      | _ => false

def State.isVoter (s : State) (v : Nat) : Bool :=
  if v < 192 then s.bayVotes v
  else if v < 216 then s.hbm.mapped.any (fun q => q % 24 == v - 192)
  else decide (v < 312) && (s.site (v - 216)).up && s.assigned (v - 216)

def State.voters (s : State) : BitVec 312 :=
  BitVec.ofNat 312 ((List.range 312).foldl (fun a v => if s.isVoter v then a + 2 ^ v else a) 0)

def State.voterIn (s : State) (v : Nat) : Bool := s.stitch.voterMask.getLsbD v

/-! ### What an image sets (R58, R64, R94, R176, R181, R434) -/

/-- R402: a slice that powers off drops out of the scrub at once and keeps its position (DESIGN CHOICE, log entry 70); one that
powers on takes part from its next wrap. -/
def Hem.sliceSwitched (m : Hem) (k : Nat) (on : Bool) : Hem :=
  let row := ((m.slices.find? k).map (fun x => x.row)).getD m.sliceRow
  if on && (m.slices.find? k).isNone then m else { m with slices := m.slices.set k ⟨row, false, false⟩ }

/-- R181, R182: a slice whose power bit changes holds zeros. -/
def State.slicePower (s : State) (c v : Nat) : State :=
  let old := s.regN (.mu c .slicePwr)
  let s1 := (List.range 8).foldl (fun (x : State) i =>
    if bitOf old i = bitOf v i then x
    else { x.modBay (bayOf c) (fun y => { y with hem := y.hem.sliceSwitched (8 * c + i) (bitOf v i) }) with
      mem := memDrop x.mem (devAddr c (0x6000 * i)) 0x6000
      errs := List.filter (fun e => !(decide (devAddr c (0x6000 * i) ≤ 16 * e.1 ∧ 16 * e.1 < devAddr c (0x6000 * i) + 0x6000))) x.errs }) s
  s1.setReg (.mu c .slicePwr) (regOf (v % 256))

/-- The image writes one of its registers; reserved bits stay zero (R8), and a register that no image loads stays as it is. -/
def State.imageReg (s : State) (id : RegId) (v : Reg) : State :=
  match id with
  | .mu c .slicePwr => s.slicePower c v.toNat
  | .cu u .srSeed => (s.setReg id (v &&& imageMask id)).modCu u (fun cu => { cu with seeded := true })
  | _ => if imageMask id = 0 then s else s.setReg id (v &&& imageMask id)

/-- R173, R336: windows and queue pairs are set when the context becomes resident, everything else with its activation. -/
def atResidency : RegId → Bool
  | .vwin _ _ => true
  | .qp _ _ => true
  | _ => false

/-- The registers of an image that satisfy `f`. -/
def State.imageRegs (s : State) (i : Image) (f : RegId → Bool) : State :=
  i.regWords.foldl (fun x (id, v) => if f id then x.imageReg id v else x) s

/-- The load path writes bytes at a device address (R176, R305). -/
def State.loadBytes (s : State) (a : Nat) (bs : List Byte) : State :=
  if a / 2 ^ 44 = 0 then s.hbmContents a bs
  else
    match storageAt (addrOffset a) with
    | .lane _ _ => s
    | _ => s.pathWords (addrCluster a) (addrOffset a) (bytesWords (ceilDiv bs.length 16) bs)

/-- Is the byte at a device address in a lane store of bay `b`? -/
def inLaneStore (b a : Nat) : Bool :=
  addrInBay b a && match storageAt (addrOffset a) with
    | .lane _ _ => true
    | _ => false

/-- The lane stores of a bay hold no lane (R58). -/
def State.dropLanes (s : State) (b : Nat) : State :=
  { s with mem := s.mem.filter (fun c => !inLaneStore b c.1), errs := List.filter (fun e => !inLaneStore b (16 * e.1)) s.errs }

/-- The registers that an image load sets whether the image names them or not: those it does not name take their Reset values (log
entry 47). Seeds and sampling registers that it does not name stay (R228). -/
def imageSets (id : RegId) : Bool :=
  decide (imageMask id ≠ 0) && !atResidency id && match id with
    | .cu _ .srSeed => false
    | .mu _ .slicePwr => false
    | .bay _ .fabSample => false
    | .probe _ _ => false
    | _ => true

/-- Registers and slices of bay `b` before the image's words are set. -/
def State.clearImage (s : State) (b : Nat) (i : Image) : State :=
  let s1 := s.dropRegs (fun id => inBay b id && imageSets id)
  s1.regs.foldl (fun (x : State) e => match e.1 with
    | .mu c .slicePwr => if bayOf c = b ∧ i.regWords.all (fun w => decide (w.1 ≠ e.1)) then x.slicePower c 0xFF else x
    | _ => x) s1

def isWindow : RegId → Bool
  | .muWin _ _ _ => true
  | .cuWin _ _ _ => true
  | _ => false

/-- R177: the windows of bay `b` that are in force stay so until its next work window. -/
def State.holdWindows (s : State) (b : Nat) : State :=
  s.modBay b (fun y => { y with winsHeld := some (y.winsHeld.getD (s.regs.filter (fun e => inBay b e.1 && isWindow e.1))) })

/-- R58 step 2 for one bay: its lane stores, which then hold the lanes of this image and no other, its registers and, the first
time, its contents, from the image of context `k`. A bay whose rail is off takes nothing. -/
def State.reloadBay (s : State) (k b : Nat) : State :=
  match s.ctx? k with
  | none => s
  | some c =>
    if (s.bay b).power = .off ∨ (s.bay b).power = .dark then s else
    let held := (s.bay b).ctxs
    let s1 := c.image.lanes.foldl (fun x (u, ws) => if bayOfCu u = b then x.writeLane u ws else x) (s.dropLanes b)
    let s2 := ((s1.holdWindows b).clearImage b c.image).imageRegs c.image (fun id => inBay b id && !atResidency id)
    let s3 := s2.modBay b (fun y => { y with ctxs := k :: held.filter (· ≠ k) })
    if held.contains k then s3
    else c.image.loads.foldl (fun x (a, bs) => if addrInBay b a then x.loadBytes a bs else x) s3

/-- The grade an image gives a bay. -/
def imageGrade (i : Image) (b old : Nat) : Nat := ((i.grades.find? (fun g => g.1 == b)).map Prod.snd).getD old

/-- A bay holds the staged values and acknowledgements of the classes `keep` and no other. -/
def BayModes.unstageBut (m : BayModes) (keep : List Nat) : BayModes :=
  { m with
    stPeriod := if keep.contains 1 then m.stPeriod else none
    stGrade := if keep.contains 2 then m.stGrade else none
    stCapFrac := if keep.contains 3 then m.stCapFrac else none
    stNumdef := if keep.contains 4 then m.stNumdef else none
    acks := m.acks.filter keep.contains
    fixedAcks := m.fixedAcks.filter keep.contains }

/-- A bay holds no staged value. -/
def BayModes.unstageAll (m : BayModes) : BayModes := m.unstageBut []

/-- The classes of which a change is staged by MODE_STAGE. -/
def State.stagedClasses (s : State) : List Nat := s.stitch.modes.map Prod.fst

/-- What an image stages in a bay. -/
def BayModes.stageImage (m : BayModes) (i : Image) (b : Nat) : BayModes :=
  { m with
    stGrade := some (m.stGrade.getD (imageGrade i b m.grade)), stCapFrac := some (m.stCapFrac.getD (i.bayFrac.getD b 256))
    stNumdef := some (m.stNumdef.getD i.numdef), stPeriod := some (m.stPeriod.getD i.period) }

/-- R58 step 2: in the reload stitch the target image's period, grades, cap fractions and numeric defaults are staged. They show in the
bays' registers; a change of the same class may still be staged by MODE_STAGE, and STITCH_STATUS.mode_pending speaks of those alone (DESIGN
CHOICE, log entry 73). -/
def State.stageImage (s : State) (i : Image) : State :=
  { s with bays := s.bays.map (fun (b, y) =>
    let m := y.modes.unstageBut s.stagedClasses
    (b, { y with modes := if i.bays.contains b then { m.stageImage i b with acks := y.modes.acks, fixedAcks := y.modes.fixedAcks } else m })) }

/-- What an image brings a bay: grade, cap fraction, numeric defaults. A dormant bay that the image leaves dormant takes no grade. As a
session opens, a bay on its way up or waiting for its wake takes its grade when the wake is over; as a reload commits, a wake that is
not complete has come to nothing (R376, log entry 55), unless a change that is staged wakes the bay too (`stays`). The staged changes of the
classes `keep` stay (R63). -/
def Bay.imageModes (y : Bay) (i : Image) (b : Nat) (opening : Bool) (keep : List Nat) (stays : Bool) : Bay :=
  let m := y.modes.unstageBut keep
  let g := imageGrade i b m.grade
  let rises : Bool := match y.power with
    | .active => true
    | .dormant => opening && g != 0
    | .waking => (opening || y.wakeStart.isNone && !y.doomed) && g != 0
    | _ => false
  { y with doomed := y.power == .waking && !rises && !stays, modes := { m with
    nextGrade := if rises then some g else none
    nextCap := some (i.bayFrac.getD b 256)
    nextNumdef := some i.numdef } }

/-- Does a change staged by MODE_STAGE wake bay `b`? -/
def State.changeWakes (s : State) (b : Nat) : Bool := s.stitch.modes.any (fun e => e.2.wakes.contains b)

/-- The settings an image brings (R58). They are in force from the next cycle 0. -/
def State.imageModes (s : State) (i : Image) (opening : Bool) : State :=
  let s1 := (List.range 192).foldl (fun (x : State) b =>
    if i.bays.contains b then x.modBay b (fun y => y.imageModes i b opening s.stagedClasses (s.changeWakes b)) else x) s
  let s2 := (List.range 48).foldl (fun (x : State) p => x.modPanel p (fun y => { y with
    nextFrac := some (i.panelFrac.getD p 21), wakes := if opening then y.wakes else y.wakes.filter (fun b => !i.bays.contains b || s.changeWakes b) })) s1
  s2.modStitch (fun k => { k with nextPeriod := some i.period })

/-- What an image sets outside the bays: descriptors of its sites, partition index (R348, R354). -/
def State.imageGlobals (s : State) (i : Image) : State :=
  (s.dropRegs (fun id => (regBay id).isNone && imageSets id)).imageRegs i (fun id => (regBay id).isNone && !atResidency id)

/-- R275: the feed set of an image, at session start. -/
def State.setFeed (s : State) (i : Image) : State := s.setReg (.time .peerFeed) (regOf i.peerFeed.toNat)

/-! ### The next stitch -/

/-- What the next stitch is (R42, R43, R58, R76, R277, R351, R355, R416), and whether it sends no token. -/
def State.nextKind (s : State) : StitchKind × Bool :=
  let k := s.stitch
  if k.reloadTo.isSome then (.reload, false)
  else if s.clk.timedOut ∧ s.tokensMissing ≠ [] then (.idle, true)
  else match s.ctx? k.active with
    | none => (.idle, false)
    | some c =>
      if c.halted ∨ s.twin.state = 3 ∨ s.rel.updating.isSome ∨ s.rel.queue ≠ [] ∨ s.rel.badLanes ≠ [] ∨ !s.peersLevel then
        (.idle, false)
      else (.work, false)

/-! ### Queue control blocks (R318, R321, R322) -/

/-- Where the first word of the pair's queue control block lies, as the stitch will commit it (`shadow`) or as it stands committed. -/
def State.queueAt (s : State) (c : Ctx) (q : Nat) (shadow : Bool) : Nat :=
  let x := c.image.queueCtl + 64 * q
  match s.pageOf x with
  | some p => if shadow && p.wr.contains (granuleOf p x) then s.hbmShadowAt x else s.hbmReadAt x
  | none => x

/-- That word, read as any other (R296, R299): in_head, in_tail_vis, out_tail, out_head_vis. -/
def State.queueBlock (s : State) (c : Ctx) (q : Nat) (shadow : Bool) : Word × State :=
  let r := s.hbmWord (s.queueAt c q shadow)
  (r.1, r.2.2)

/-- Field `k` of the word. -/
def queueField (w : Word) (k : Nat) : Nat := field w.toNat (32 * k + 31) (32 * k)

/-- One pointer of a pair passes its bound: `w0` 1 in_head, 2 out_tail. -/
def State.overflow (s : State) (q w0 value bound : Nat) : State :=
  (s.raise (384 + q) 0x60 w0 value bound 0).modReg (.qp q .status) (fun r => r ||| bit31)

/-- R321, R322: the pair's pointers are published from the word of its control block. -/
def State.publishWord (s : State) (q : Nat) (w : Word) : State :=
  let head := queueField w 0
  let vis := queueField w 1
  let tail := queueField w 2
  let bound := queueField w 3 + s.qpOutSize q
  let h0 := s.regN (.qp q .inHead)
  let t0 := s.regN (.qp q .outTail)
  let s1 := s.setReg (.qp q .inHead) (regOf head)
  let s2 := if dist32 vis h0 < dist32 head h0 then s1.overflow q 1 head vis else s1
  let s3 := s2.setReg (.qp q .outTail) (regOf tail)
  let s4 := if dist32 (bound % 2 ^ 32) t0 < dist32 tail t0 then s3.overflow q 2 tail (bound % 2 ^ 32) else s3
  if tail ≠ t0 ∧ bitOf (s.regN (.qp q .cfg)) 28 ∧ s.ronnusEvents then s4.raise (384 + q) 0x61 tail 0 0 0 else s4

def State.publish (s : State) (c : Ctx) (d : QpDecl) : State :=
  let (w, s1) := s.queueBlock c d.q false
  s1.publishWord d.q w

def State.publishAll (s : State) : State :=
  match s.ctx? s.active with
  | some c => c.image.qps.foldl (fun x d => if bitOf (x.regN (.qp d.q .cfg)) 31 then x.publish c d else x) s
  | none => s

/-- R360: with its reload stitch a standby that has taken over publishes the pointers of the checkpoint. -/
def State.publishTaken (s : State) : State :=
  if s.twin.publish then ({ s with twin := { s.twin with publish := false } } : State).publishAll else s

/-- R318, R320: the latched tail and head go to the pair's queue control block. A write that finds the capture queue full waits for the
next boundary, which writes the pointers of then (R357). -/
def State.queueVisible (s : State) (c : Ctx) : State :=
  c.image.qps.foldl (fun x d =>
    let q := x.host.qps.get Qp.reset d.q
    let y := x.hbmHold (x.hbmLoad (c.image.queueCtl + 64 * d.q + 4) (leBytes 4 q.inLatched))
    y.hbmHold (y.hbmLoad (c.image.queueCtl + 64 * d.q + 12) (leBytes 4 q.outLatched))) s

/-- R331, R400: a panel whose count of corrected words rose in the stitch raises corrected-word. -/
def State.panelCorrected (s : State) (p : Nat) : State :=
  match (s.panel p).firstCe with
  | some l => (s.raise (192 + p) 0x27 l 4 0 (s.panel p).ceStitch).modPanel p (fun y => { y with firstCe := none, ceStitch := 0 })
  | none => s

/-- The stitch in progress ends and the next begins (R66, R273): number, kind, length, and what a boundary clears. The very first
stitch after a reset that sets the number to 0 is numbered 0 (DESIGN CHOICE, log entry 36). -/
def State.newStitch (s : State) : State :=
  let (kind, noTok) := s.nextKind
  let k := s.stitch
  let period := k.nextPeriod.getD k.period
  let len := match kind, k.reloadTo with
    | .reload, some tgt => max period (((s.ctx? tgt).map (fun c => c.image.reloadNs)).getD 0)
    | _, _ => period
  let s0 := (s.panels.map Prod.fst).foldl State.panelCorrected s.publishTaken
  let s1 := s.ctxs.foldl (fun x e => x.queueVisible e.2) s0
  let s2 := s1.modClk (fun c => { c with
    ns := 0, boundarySent := false, tokenNo := if noTok then c.tokenNo else c.tokenNo + 1
    timedOut := c.timedOut && !s.tokensMissing.isEmpty })
  let s3 := s2.modStitch (fun x => { x with
    kind := kind, noToken := noTok, phase := .before, number := if x.begun then x.number + 1 else x.number, begun := true
    period := period, nextPeriod := none, len := len, replay := decide (kind = .work) && x.lastReplayed, decision := none
    bank := x.active, reloaded := x.reloaded && x.kind != .work
    exits := 0, admits := [], maskNext := none, votes := [] })
  let s4 := { s3 with
    bays := s3.bays.map (fun (b, y) => (b, { y with
      inStitch := false, ran := y.inStitch
      modes := if y.power = .waking then { y.modes with fixedAcks := y.modes.acks } else y.modes }))
    rtrs := if kind = .work then s3.rtrs.map (fun (c, r) => (c, { r with combine := [] })) else s3.rtrs
    hbm := { s3.hbm with voids := s3.hbm.late, late := [] }
    sites := s3.sites.map (fun (t, x) => (t, { x with void := x.late, late := 0, exports := [], begun := [] }))
    panels := s3.panels.map (fun (p, y) => (p, { y with frac := y.nextFrac.getD y.frac, nextFrac := none }))
    rel := { s3.rel with detections := s3.rel.lateDet, lateDet := [] } }
  match kind, k.reloadTo with
  | .reload, some tgt => (match s4.ctx? tgt with | some c => (s4.imageGlobals c.image).stageImage c.image | none => s4)
  | _, _ => s4

/-! ### Cycle 0 of a bay -/

/-- R29, R107, R281, R405: a CU as the work window of any stitch starts: its pointers, the signature, the bits of CU_STATUS that speak
of the stitch in progress, the snapshot of the active bank; no steering fault shows (R208). -/
def Cu.startWindow (cu : Cu) (ctx : Nat) : Cu :=
  { cu with
    seq := { cu.seq with retired := false, overrun := false, sig := Seq.start.sig }
    sync := { cu.sync with snap := List.filter (fun e => e.1 / 32 == ctx) cu.sync.banks, recent := [] }
    fab := { cu.fab with popped := [], sentAt := [], ptr := [], stallAt := 0 }
    sp := SpArb.reset
    steer := { cu.steer with faulted := false } }

/-- R42, R69, R89, R130, R190, R218, R255: a CU as the work window of a work stitch starts. A seed written in a stitch that voids
is dropped: the generators return to their state at cycle 0 (DESIGN CHOICE, log entry 37). -/
def Cu.startWork (cu : Cu) (ctx : Nat) (replay : Bool) (seed : Nat) : Cu :=
  let gen (old old0 sd : Nat) : BitVec 16 :=
    if replay then BitVec.ofNat 16 old0 else if cu.seeded then (if sd = 0 then 1 else BitVec.ofNat 16 sd) else BitVec.ofNat 16 old
  let l1 := gen cu.ste.lfsr.toNat cu.ste.lfsr0.toNat (seed % 65536)
  let l2 := gen cu.vec.lfsr.toNat cu.vec.lfsr0.toNat (seed / 65536 % 65536)
  let tile (x : Tile) : Tile := { x with closings := [], before := [], closeLast := 0, cells := x.cells.map (fun (k, a) => (k, { a with reach := 0 })) }
  let c := cu.startWindow ctx
  { c with
    seq := Seq.start
    ste := { Ste.reset with tile0 := tile cu.ste.tile0, tile1 := tile cu.ste.tile1, lfsr := l1, lfsr0 := l1 }
    vec := { Vec.reset with lfsr := l2, lfsr0 := l2 }
    dma := Dma.reset
    steer := { cu.steer with tWait := 0, dWait := 0, faulted := false }
    fab := { c.fab with entry := .zero, tag := .zero, spins := [] }
    msg := { Msg.reset with rings := cu.msg.rings }
    seeded := false }

/-- R29: an MU as the work window of any stitch starts. The arbiter of the mesh interface (R249) is taken to be the bay's, so
that its pointer returns to 0 with the others (DESIGN CHOICE, log entry 38). -/
def Mu.startWindow (m : Mu) : Mu :=
  { m with
    ports := m.ports.map (fun (p, x) => (p, { x with takers := 0, givers := 0, took := (0, []), gave := (0, []) }))
    arb := MuArb.reset
    startPtr := 0
    gens := m.gens.map (fun (g, x) => (g, { x with ptr := 0, at_ := none, base := 0 }))
    dsp := { m.dsp with ptr := 0 }
    injPtr := 0 }

/-- R197, R200, R218, R255: an MU as the work window of a work stitch starts. -/
def Mu.startWork (m : Mu) : Mu :=
  let x := m.startWindow
  { x with
    gens := []
    ports := x.ports.map (fun (p, y) => (p, { y with tag := .zero }))
    dsp := x.dsp.restart }

/-- CUs that have a lane in an image, in bay `b`. -/
def laneCus (i : Image) (b : Nat) : List Nat := (i.lanes.map Prod.fst).filter (fun u => bayOfCu u == b)

def State.bayCus (s : State) (b : Nat) : List Nat :=
  match s.ctx? s.active with
  | some c => s.busyCus b ++ (laneCus c.image b).filter (fun u => !(s.busyCus b).contains u)
  | none => s.busyCus b

/-- R278, R279: an entry of a voided stitch is armed again, in the replay of that stitch, for the cycle in which it fired.
`replay`: the context whose stitch this one replays. -/
def LaunchEntry.startStitch (e : LaunchEntry) (replay : Option Nat) (number : Nat) : LaunchEntry :=
  match e.again, e.firedAt with
  | some k, some c =>
    if k = 4 ∨ replay = some k then
      { e with target := number % 2 ^ 40 * 2 ^ 24 + c, armed := true, armedAt := 0, late := false, state := 1 }
    else e
  | some _, none => e
  | none, _ => { e with armedAt := 0, firedAt := none }

/-- R388: the arming at cycle 0 of a work window, or later for a bay that has been active for less than 4 µs: `left` ns more. -/
def Governor.entryArm (g : Governor) (level left f : Nat) : Governor :=
  if level = 0 then { g with entryAt := none }
  else if left = 0 then { g with entryAt := none, armed := decide (g.level < level), braceLevel := if g.level < level then level else 0 }
  else { g with entryAt := some (ceilDiv (left * f) 1000) }

/-- The units of a bay at cycle 0 of a work stitch. After a reload the generators start from the seeds reloaded with it. -/
def State.startUnits (s : State) (b : Nat) : State :=
  let regen := s.stitch.replay && !s.stitch.reloaded
  let s1 := (s.bayCus b).foldl (fun x u => x.modCu u (fun cu => cu.startWork x.bank regen (x.regN (.cu u .srSeed)))) s
  (s1.busyMus b).foldl (fun x c => x.modMu c Mu.startWork) s1

/-- The units of a bay at cycle 0 of an idle or reload stitch. -/
def State.startQuiet (s : State) (b : Nat) : State :=
  let s1 := (s.busyCus b).foldl (fun x u => x.modCu u (fun cu => cu.startWindow x.bank)) s
  (s1.busyMus b).foldl (fun x c => x.modMu c Mu.startWindow) s1

/-- R231: the records that are left are dropped and counted. -/
def State.dropSamples (s : State) (b : Nat) : State :=
  let n := (s.bay b).hem.samples.length
  if n = 0 then s
  else (s.count (.bay b .fabTelDrop) n).modBay b (fun y => { y with hem := { y.hem with samples := [] } })

/-- Does the bay, one of the active image's, hold another image, because it was dormant or waking in the reload stitch? -/
def State.outOfDate (s : State) (b : Nat) : Bool :=
  match s.ctx? s.active with
  | some c => c.image.bays.contains b && !s.stitch.excluded.contains b && (s.bay b).ctxs.head? != some s.active
  | none => false

/-- R375: a wake joins its panel's queue; one that has to wait raises wake-deferred. -/
def State.queueWake (s : State) (b : Nat) : State :=
  let p := s.panel (b / 4)
  let s1 := s.modPanel (b / 4) (fun x => { x with wakes := insertSorted b x.wakes })
  match p.waking, p.wakes with
  | some w, _ => (s1.hwSet (.panel (b / 4) .wake) (fun r => satField r 15 0 1)).raise (192 + b / 4) 0x42 b w 0 0
  | none, w :: _ => (s1.hwSet (.panel (b / 4) .wake) (fun r => satField r 15 0 1)).raise (192 + b / 4) 0x42 b w 0 0
  | none, [] => s1

/-- Is the bay on its way up for a change that is still staged, by MODE_STAGE or by a reload (R58, R374)? -/
def State.wakeStaged (s : State) (b : Nat) : Bool :=
  s.changeWakes b || (match s.stitch.reloadTo with
    | some k => (match s.ctx? k with
      | some c => c.image.bays.contains b && imageGrade c.image b (s.bay b).modes.grade != 0
      | none => false)
    | none => false)

/-- The arming at cycle 0 with the entry level that BAY_GOV_CFG holds. -/
def State.entryArm (s : State) (b left f : Nat) : State :=
  s.modBay b (fun y => { y with gov := y.gov.entryArm (s.regN (.bay b .govCfg) % 16) left f })

/-- A dormant bay (R373): it holds no armed entry (R278), its clock does not stretch, and no earlier acknowledgement stands for a wake that
is to come (R374). -/
def Bay.goDormant (y : Bay) (m : BayModes) : Bay :=
  { y with
    power := .dormant, modes := { m with acks := m.acks.filter (· ≠ 2) }, inStitch := false, ran := false, stretching := false
    vote := { y.vote with frozen := false }
    entries := y.entries.map (fun (e, x) => (e, { x with armed := false, again := none, firedAt := none, state := if x.armed then 0 else x.state })) }

/-- STITCH_START for a bay whose clock runs (R34, R38, R64, R228, R273); its last cycle of the stitch before ends. A grade of 0x00 makes it dormant instead
(R373). A bay that wakes into a work stitch takes what the reload stitch brought the others (R58, R177, R181), its entry level among it (R388). -/
def State.startBay (s' : State) (b : Nat) : State :=
  let s := (s'.dropSamples b).bayCycles b (b2n (s'.bay b).ran)
  let y := s.bay b
  let grade := y.modes.nextGrade.getD y.modes.grade
  let modes := { y.modes with
    grade := grade, capFrac := y.modes.nextCap.getD y.modes.capFrac, nextGrade := none, nextCap := none, nextNumdef := none
    fixedAcks := [] }
  let s0 := match y.modes.nextNumdef with
    | some v => s.setReg (.bay b .numdefActive) (regOf v.toNat)
    | none => s
  if grade = 0 then
    let s1 := s0.setBay b (y.goDormant modes)
    if s1.wakeStaged b then s1.queueWake b else s1
  else
    let f := gradeMHz grade
    let work := s.stitch.kind == .work
    let woke := y.power == .waking
    let left := if woke then 4000 else y.activeAt + 4000 - s.clk.nsTotal
    let g0 := if woke then { y.gov with level := 1, sinceRise := 0, heldSinceRise := 0, armed := false, braces := [] } else y.gov
    let gov := { g0 with countCycle := 0, issuedCycle := 0 }
    let s1 := s0.setBay b { y with
      power := .active
      activeAt := if woke then s.clk.nsTotal else y.activeAt
      wakeStart := none
      cycle := 0
      cap := stitchCap s.stitch.len f
      vote := { y.vote with cause := y.vote.late, causeAt := none, late := 0, frozen := false, missing := false }
      modes := modes
      gov := gov
      entries := y.entries.map (fun (e, x) => (e, x.startStitch (if s.stitch.replay then some s.active else none) s.stitch.number))
      hem := { y.hem with
        samples := [], telAt := none, tile := none, overran := false, scrubbed := false, trim := none, called := false, compared := false
        sampleCfg := s.regN (.bay b .fabSample), probes := (List.range 16).map (fun i => s.regN (.probe b i)) }
      inStitch := true
      windowOver := false
      ran := false
      outForwards := []
      retireAt := 0
      winsHeld := if work then none else y.winsHeld }
    match s.stitch.kind, s.stitch.reloadTo with
    | .reload, some k => ((s1.entryArm b left f).startQuiet b).reloadBay k b
    | .work, _ =>
      ((if s1.outOfDate b then (s1.reloadBay s1.active b).modBay b (fun y => { y with winsHeld := none }) else s1).entryArm b left f).startUnits b
    | _, _ => (s1.entryArm b left f).startQuiet b

/-- A bay that is not to start: one whose wake came to nothing returns to dormant (R376); so does one whose wake is not complete as a
reload commits without it (DEDUCED, log entry 55). -/
def State.sleepBay (s : State) (b : Nat) : State :=
  (s.modBay b (fun y => { y with power := .dormant, wakeStart := none, doomed := false, modes := { y.modes with
    acks := y.modes.acks.filter (· ≠ 2), fixedAcks := y.modes.fixedAcks.filter (· ≠ 2) } })).modPanel
    (b / 4) (fun p => { p with wakes := p.wakes.filter (· ≠ b), waking := if p.waking = some b then none else p.waking })

/-- R274: a bay that has not finished its C cycles abandons the rest of the stitch and votes missing for it. -/
def State.abandonStitch (s : State) (b : Nat) : State :=
  let y := s.bay b
  if y.ran && decide (y.cycle + 1 < y.c) then s.modBay b (fun y => { y with vote := { y.vote with lastClean := false } }) else s

/-- STITCH_START: bay `b` reaches its start instant. The first bay to do so after the boundary message begins the stitch for the
wafer. -/
def State.stitchStart (s0 : State) (b : Nat) : State :=
  if !s0.stitch.session then s0
  else
    let s := if s0.clk.boundarySent && s0.stitch.phase == .ended then s0.newStitch else s0
    if s.clk.boundarySent || (s.bay b).inStitch || s.stitch.phase != .before then s
    else match (s.bay b).power with
      | .active => (s.abandonStitch b).startBay b
      | .waking =>
        if (s.bay b).doomed then
          let s1 := s.sleepBay b
          if s1.wakeStaged b then s1.queueWake b else s1
        else if (s.bay b).modes.nextGrade.isSome then (if (s.bay b).wakeStart.isNone then s.startBay b else s)
        else if s.wakeStaged b then s else s.sleepBay b
      | _ => s

/-- The bay's counter stands at `t`, and the time master's ns at `m`, as the bay's start instant comes. -/
def execStitchStart (t b m : Nat) (s : State) : Host.Outcome State Fault Refusal :=
  .next (((if (s.bay b).power = .active then s.bayTime b t else s).masterTime m).stitchStart b)

end Sys2Proof.Machine
end

