-- ==== Sys2Proof/Machine/Modes.lean ====
section
/-! DEFINITION. Mode changes, wakes and context requests: MODE_STAGE, MODE_CANCEL, STAGE_ACK, BAY_WAKE_START, WAKE_COMPLETE,
CTX_SWITCH, RESUME, VOID_CURRENT (R37, R43, R58, R60-R65, R370, R371, R374-R377, R390). -/

namespace Sys2Proof.Machine

/-! ### Grades and ceilings (R370, R377) -/

/-- R370: the variant's ceiling. -/
def State.variantCeiling (s : State) : Nat := match s.fuses.part with | 0 => 10 | 1 => 7 | _ => 5

/-- R370: the bay's ceiling. -/
def State.ceiling (s : State) (b : Nat) : Nat :=
  ((List.range 11).filter (fun g => decide (g ≤ s.variantCeiling ∧ gradeAmps g ≤ s.bayLimit b))).foldl max 0

/-! ### Validation (R60, R62, R133, R370, R390) -/

/-- R133: a numeric-defaults word without reserved bits or values. -/
def numdefOk (v : Nat) : Bool := decide (v < 512) && field v 3 2 == 0 && field v 1 0 != 3

def gradesOk (s : State) (tbl : List Byte) : Bool :=
  (List.range 192).all (fun b => decide ((tbl.getD b 0).toNat ≤ s.ceiling b))

def fracAt (tbl : List Byte) (i : Nat) : Nat := (tbl.getD (2 * i) 0).toNat + 256 * (tbl.getD (2 * i + 1) 0).toNat

def fracsOk (tbl : List Byte) : Bool :=
  (List.range 240).all (fun i => decide (fracAt tbl i ≤ 1024))
  && decide (((List.range 48).map (fracAt tbl)).foldl (· + ·) 0 ≤ 1024)
  && (List.range 48).all (fun p => decide (((List.range 4).map (fun j => fracAt tbl (48 + 4 * p + j))).foldl (· + ·) 0 ≤ 1024))

/-- Length of the table a class names. -/
def tableLen (cls : Nat) : Nat := match cls with | 2 => 192 | 3 => 480 | _ => 0

/-- The table at an external address, when the argument names one. -/
def State.modeTable (s : State) (cls arg : Nat) : Option (List Byte × State) :=
  let n := tableLen cls
  if n = 0 then some ([], s)
  else if s.capacity < arg + n ∨ (s.hbmRangeBad arg n false).isSome then none
  else some (s.hbmReadBytes arg n)

def State.argOk (s : State) (cls arg : Nat) (tbl : List Byte) : Bool :=
  match cls with
  | 1 => decide (4000 ≤ arg ∧ arg ≤ 10000000)
  | 2 => gradesOk s tbl
  | 3 => fracsOk tbl
  | 4 => numdefOk arg
  | _ => false

/-! ### Staging (R61, R62) -/

def State.modeReport (s : State) (cls state reason : Nat) : State :=
  s.modStitch (fun k => { k with reports := k.reports.set cls ⟨state, reason⟩ })

/-- R66: STITCH_MODE_STATE of a class. -/
def State.modeStateOf (s : State) (cls : Nat) : Nat :=
  let r := s.stitch.reports.get ⟨0, 0⟩ cls
  r.reason * 16 + r.state

/-- What a bay holds of a change staged at `now`. -/
def BayModes.stage (m : BayModes) (cls arg b now : Nat) (tbl : List Byte) : BayModes :=
  let m1 := { m with acks := m.acks.filter (· ≠ cls) }
  match cls with
  | 1 => { m1 with stPeriod := some arg }
  | 2 => { m1 with stGrade := some (tbl.getD b 0).toNat, stAt := now }
  | 3 => { m1 with stCapFrac := some (fracAt tbl (48 + b)) }
  | 4 => { m1 with stNumdef := some (BitVec.ofNat 32 arg) }
  | _ => m1

def BayModes.unstage (m : BayModes) (cls : Nat) : BayModes :=
  let m1 := { m with acks := m.acks.filter (· ≠ cls), fixedAcks := m.fixedAcks.filter (· ≠ cls) }
  match cls with
  | 1 => { m1 with stPeriod := none }
  | 2 => { m1 with stGrade := none }
  | 3 => { m1 with stCapFrac := none }
  | 4 => { m1 with stNumdef := none }
  | _ => m1

def clockedBays (s : State) : List Nat :=
  (List.range 192).filter (fun b => match (s.bay b).power with | .active => true | .dormant => true | .waking => true | _ => false)

/-- Is the bay dormant, or to be so from the next cycle 0 (R373, R376)? -/
def Bay.asleep (y : Bay) : Bool :=
  y.power == .dormant || (y.power == .waking && y.doomed) || (y.power == .active && y.modes.nextGrade == some 0)

/-- The change is broadcast to every bay; wakes start (R61, R374). A bay that is to be dormant from the next cycle 0 becomes so first, and
its wake joins the queue there. -/
def State.stageMode (s : State) (cls arg target : Nat) (tbl : List Byte) : State :=
  let wakes := if cls = 2 then (clockedBays s).filter (fun b => (s.bay b).asleep && (tbl.getD b 0) != 0) else []
  let s1 := s.modStitch (fun k => { k with modes := k.modes.set cls ⟨arg, target, tbl, wakes⟩ })
  let s2 := (clockedBays s).foldl (fun x b => x.modBay b (fun y => { y with modes := y.modes.stage cls arg b s.clk.nsTotal tbl })) s1
  ((wakes.filter (fun b => (s.bay b).power == .dormant)).foldl (fun x b => x.queueWake b) s2).modeReport cls 1 0

/-- MODE_STAGE: the checks of R62 in their order. -/
def State.modeStage (s : State) : State :=
  let cls := field (s.regN (.stitch .modeSel)) 3 0
  let arg := s.regN (.stitch .modeArg)
  let target := s.regN (.stitch .modeTarget)
  if cls = 0 ∨ 4 < cls then s.modeReport cls 3 5
  else if (s.stitch.modes.find? cls).isSome then s.modeReport cls 1 6
  else if target < s.stitch.commitSeq + 2 then s.modeReport cls 3 2
  else match s.modeTable cls arg with
    | none => s.modeReport cls 3 5
    | some (tbl, s1) => if s1.argOk cls arg tbl then s1.stageMode cls arg target tbl else s1.modeReport cls 3 5

def execModeStage (t : Nat) (s0 : State) : Host.Outcome State Fault Refusal := .next (s0.masterTime t).modeStage

/-- A class is staged no more. Wakes that have not begun are forgotten; a bay on its way up sleeps at the next cycle 0 (R376). -/
def State.unstage (s : State) (cls : Nat) (keepWakes : Bool) : State :=
  let wakes := ((s.stitch.modes.find? cls).map (fun m => m.wakes)).getD []
  let s1 := s.modStitch (fun k => { k with modes := k.modes.erase cls })
  let s2 := (clockedBays s1).foldl (fun x b => x.modBay b (fun y => { y with modes := y.modes.unstage cls })) s1
  if keepWakes then s2
  else wakes.foldl (fun x b => (x.modPanel (b / 4) (fun p => { p with wakes := p.wakes.filter (· ≠ b) })).modBay b (fun y => { y with
    doomed := y.doomed || y.power == .waking })) s2

/-- R63, R65, R58: a staged change aborts. -/
def State.abortMode (s : State) (cls reason : Nat) : State :=
  let s1 := (s.unstage cls false).modeReport cls 3 reason
  s1.raise 363 5 (s1.modeStateOf cls) cls 0 0

/-- Has the master sampled the commit with this target: a clean one of a work stitch, not yet ended (R65)? -/
def State.targetSampled (s : State) (target : Nat) : Bool :=
  (s.stitch.phase == .sampled || s.stitch.phase == .applied) && decide (target = s.stitch.commitSeq + 1)
    && match s.stitch.decision with
      | some (.commit _) => true
      | _ => false

/-- MODE_CANCEL: until the master samples the change's target commit. -/
def State.modeCancel (s : State) : State :=
  let cls := field (s.regN (.stitch .modeSel)) 3 0
  match s.stitch.modes.find? cls with
  | none => s
  | some m => if s.targetSampled m.target then s else s.abortMode cls 4

def execModeCancel (t : Nat) (s0 : State) : Host.Outcome State Fault Refusal := .next (s0.masterTime t).modeCancel

/-- The time on the master's count as bay `b` knows it: its own place in the stitch when that is further on. -/
def State.bayNs (s : State) (b : Nat) : Nat :=
  if (s.bay b).inStitch then max s.clk.nsTotal (s.clk.nsTotal - s.clk.ns + (s.bay b).cycle * 1000 / max 1 (s.mhz b)) else s.clk.nsTotal

/-- R61, R371: has the rail reached the voltage of the staged grade, at 10 mV per µs from the staging? -/
def State.railReady (s : State) (b : Nat) : Bool :=
  let m := (s.bay b).modes
  match m.stGrade with
  | some g => decide (m.stAt + 100 * (gradeMv g - gradeMv m.grade) ≤ s.bayNs b)
  | none => true

/-- STAGE_ACK: the bay is ready for the staged class (R61); a waking bay acknowledges its grade with its wake (R374). -/
def State.stageAck (s : State) (b cls : Nat) : State :=
  if (s.stitch.modes.find? cls).isSome ∧ (s.bay b).power = .active ∧ (cls ≠ 2 ∨ s.railReady b) then
    s.modBay b (fun y => { y with modes := { y.modes with acks := insertSorted cls y.modes.acks } })
  else s

def execStageAck (t b cls : Nat) (s0 : State) : Host.Outcome State Fault Refusal := .next ((s0.bayTime b t).stageAck b cls)

/-! ### Wakes (R374, R375) -/

/-- The grade that a bay's wake brings it to: the staged one, that of the image which a reload to come brings, or, with no session, 0x05
(R448). -/
def State.wakeGoal (s : State) (b : Nat) : Nat :=
  match (s.bay b).modes.stGrade, s.stitch.reloadTo with
  | some g, _ => g
  | none, some k => (match s.ctx? k with | some c => imageGrade c.image b 0 | none => 0)
  | none, none => if s.stitch.session then 0 else 5

/-- BAY_WAKE_START: the panel's reserve is free and `b` is its lowest waiting bay. -/
def State.wakeStart (s : State) (b : Nat) : State :=
  let p := s.panel (b / 4)
  match p.waking, p.wakes with
  | none, w :: rest =>
    if w = b ∧ (s.bay b).power = .dormant then
      (s.modPanel (b / 4) (fun x => { x with waking := some b, wakes := rest })).modBay b (fun y => { y with
        power := .waking, wakeStart := some s.clk.nsTotal, modes := { y.modes with wakeAt := s.wakeGoal b } })
    else s
  | _, _ => s

def execBayWakeStart (t b : Nat) (s0 : State) : Host.Outcome State Fault Refusal := .next ((s0.masterTime t).wakeStart b)

/-- The wake ends and the bay acknowledges class 0x2; after the freeze that is too late for the commit of this stitch (R61). -/
def Bay.wakeDone (y : Bay) (inTime : Bool) : Bay :=
  { y with
    wakeStart := none
    modes := { y.modes with
      acks := insertSorted 2 y.modes.acks, fixedAcks := if inTime then insertSorted 2 y.modes.fixedAcks else y.modes.fixedAcks } }

/-- With no session running, the bay is up at grade 0x05 as its wake ends (R448). -/
def Bay.wakeIdle (y : Bay) (now : Nat) : Bay :=
  { y with
    power := .active, wakeStart := none, activeAt := now
    modes := { y.modes with grade := 5 }
    gov := { y.gov with level := 1, sinceRise := 0, heldSinceRise := 0, armed := false, braces := [] } }

/-- WAKE_COMPLETE: 48 µs after its start the bay acknowledges class 0x2. -/
def State.wakeComplete (s : State) (b : Nat) : State :=
  match (s.bay b).power, (s.bay b).wakeStart with
  | .waking, some t0 =>
    if t0 + 48000 ≤ s.clk.nsTotal ∧ (s.panel (b / 4)).waking = some b then
      (s.modBay b (fun y => if s.stitch.session then y.wakeDone (decide (s.clk.ns + 164 < s.stitch.len)) else y.wakeIdle s.clk.nsTotal)).modPanel (b / 4)
        (fun p => { p with waking := none })
    else s
  | _, _ => s

def execWakeComplete (t b : Nat) (s0 : State) : Host.Outcome State Fault Refusal := .next ((s0.masterTime t).wakeComplete b)

/-! ### Requests on the stitch (R37, R43, R58) -/

/-- CTX_SWITCH: a write of STITCH_CTRL with ctx_switch. -/
def State.ctxRequest (s : State) (k : Nat) : State :=
  if (s.ctx? k).isNone then s.raise 363 3 k 0 0 0
  else if k = s.active then s.raise 363 3 k 1 0 0
  else s.modStitch (fun x => { x with switchPending := true, ctxNext := k })

def execCtxSwitch (t target : Nat) (s0 : State) : Host.Outcome State Fault Refusal := .next ((s0.masterTime t).ctxRequest target)

/-- RESUME: ignored unless the active context is halted, and for a failed one (R420). -/
def State.resumeCtx (s : State) : State :=
  match s.ctx? s.active with
  | some c => if c.halted ∧ !c.failed then (s.setCtx s.active { c with halted := false }).modStitch (fun k => { k with streak := 0 }) else s
  | none => s

def execResume (t : Nat) (s0 : State) : Host.Outcome State Fault Refusal := .next (s0.masterTime t).resumeCtx

/-- VOID_CURRENT: the stitch whose sampling point comes next voids with cause 0x8. -/
def State.voidCurrent (s : State) : State := s.modStitch (fun k => { k with hostVoid := true })

def execVoidCurrent (t : Nat) (s0 : State) : Host.Outcome State Fault Refusal := .next (s0.masterTime t).voidCurrent

/-! ### The firmware's own change (R377) -/

/-- A class 0x2 change that lowers the waiting bays to their ceilings, for the current commit sequence plus 2. A grade that has just
been applied counts as the bay's own. -/
def State.fwLower (s : State) : State :=
  if s.stitch.lower = [] ∨ (s.stitch.modes.find? 2).isSome ∨ !s.stitch.session then s
  else
    let tbl := (List.range 192).map (fun b =>
      let m := (s.bay b).modes
      let g := m.nextGrade.getD m.grade
      BitVec.ofNat 8 (if s.stitch.lower.contains b then min g (s.ceiling b) else g))
    (s.stageMode 2 0 (s.stitch.commitSeq + 2) tbl).modStitch (fun k => { k with lower := [] })

end Sys2Proof.Machine
end

