-- ==== Sys2Proof/Machine/Darn.lean ====
section
/-! DEFINITION. The darn map and what follows a permanent detection: DARN_UPDATE_COMPLETE (R17, R409-R419, R427, R447). -/

namespace Sys2Proof.Machine

/-! ### The map (R16, R17, R414) -/

/-- R17. -/
def physCol (bad : List Nat) (lx : Nat) : Nat := match bad with | d :: _ => if lx < d then lx else lx + 1 | [] => lx

/-- R415: the layout of an entry, in bytes 8-15 of its record. -/
def ledgerBody (b ly pc source stitch : Nat) : BitVec 128 :=
  BitVec.ofNat 128 (b + ly * 2 ^ 8 + pc * 2 ^ 14 + source * 2 ^ 20 + stitch % 2 ^ 32 * 2 ^ 32)

/-- A ledger entry is appended unless the ledger is full. -/
def State.ledgerAppend (s : State) (b ly pc source stitch : Nat) : State :=
  if ledgerMax ≤ s.ledgerUsed then s else s.logRecord 1 (ledgerBody b ly pc source stitch)

/-! ### Starting an update, or losing the bay (R416, R418) -/

/-- R418: a second bad cluster in a row. -/
def State.noSpare (s : State) (b ly pc : Nat) : State :=
  let s1 := { s with rel := { s.rel with
    runtime := s.rel.runtime ++ [(b, ly, pc)], unavailable := insertSorted b s.rel.unavailable } }
  (s1.ledgerAppend b ly pc 2 s.stitch.number).loseBay b 0 ⟨1, b, ly, pc⟩

/-- Take permanent detections in order of classification until one starts an update; one update runs at a time (R416). -/
def State.takeDarns (s : State) : List Nat → State
  | [] => { s with rel := { s.rel with queue := [] } }
  | c :: rest =>
    let b := bayOf c
    let bad := s.badCols b (lyOf c)
    if s.rel.darned.contains c ∨ !s.bayAvailable b then s.takeDarns rest
    else match bad with
      | [] =>
        ({ s with rel := { s.rel with
          updating := some (b, lyOf c, lxOf c), runtime := s.rel.runtime ++ [(b, lyOf c, lxOf c)], queue := rest
          spares := (b, lyOf c) :: s.rel.spares } }).ledgerAppend
          b (lyOf c) (lxOf c) 2 s.stitch.number
      | _ => (s.noSpare b (lyOf c) (physCol bad (lxOf c))).takeDarns rest

/-- A permanent detection in cluster `c` (R411, R412). -/
def State.permanent (s : State) (c : Nat) : State :=
  if s.rel.darned.contains c then s
  else
    let s1 := { s with rel := { s.rel with queue := s.rel.queue ++ [c] } }
    if s1.rel.updating.isSome then s1 else s1.takeDarns s1.rel.queue

/-! ### Completing an update (R416, R417) -/

/-- Registers of the units of cluster `c`, but for its versioned windows, which stay declared. -/
def inCluster (c : Nat) : RegId → Bool
  | .cu u _ => u / 4 == c
  | .vconst u _ => u / 4 == c
  | .desc u _ _ => u / 4 == c
  | .dmaDesc u _ _ => u / 4 == c
  | .sync u _ => u / 4 == c
  | .route u _ => u / 4 == c
  | .cuWin u _ _ => u / 4 == c
  | .chan u _ _ => u / 4 == c
  | .ring u _ => u / 4 == c
  | .mu c' _ => c' == c
  | .muWin c' _ _ => c' == c
  | .agDesc c' _ _ => c' == c
  | .dspDesc c' _ _ => c' == c
  | .rtr c' _ => c' == c
  | _ => false

/-- Is the word at device address `a` the committed copy of a versioned word of cluster `c`? -/
def State.committedCopy (s : State) (c a : Nat) : Bool :=
  (List.range 12288).any (fun w => let p := s.muPlace c w; isVersioned p && s.muReadAddr c p == a)

/-- A word with a stored error is read, corrected or, where it is not committed state, cleared. -/
def State.repairWord (s : State) (c a : Nat) : State :=
  let off := addrOffset a
  let keep := s.committedCopy c a
  let (loc, store, cu, w) := match storageAt off with
    | .scratchpad i w => (locCu (4 * c + i), 1, i, w)
    | .slices w => (locMu c, 0, 0, w)
    | _ => (locCu (4 * c), 2, 0, 0)
  let (d, s1) := s.readStore a (bayOf c) loc store cu c w keep
  if d.verdict = 2 then s1 else s1.putWord a d.data

/-- Did the MU of cluster `c` not answer the last roll call (R406)? -/
def State.muSilent (s : State) (c : Nat) : Bool := (s.bay (bayOf c)).hem.silentMus.contains c

/-- R417: committed words of versioned windows that cannot be read, by the context that owns the window; of a silent MU, all. -/
def State.lostOwners (s : State) (c : Nat) : List Nat :=
  (List.range 4).filter (fun k => (List.range 12288).any (fun w => match s.muPlace c w with
    | .versioned w0 c0 c1 =>
      ((s.vwinAt c (w / 1536) (w % 1536 / 4)).map (fun v => v.ctx)).getD 0 == k
        && (s.muSilent c || (s.decodeAt (s.muReadAddr c (.versioned w0 c0 c1))).verdict == 2)
    | _ => false))

/-- R417: the words of a silent MU arrive as zero. -/
def State.silentSlices (s : State) (c : Nat) : State :=
  if s.muSilent c then
    { s with
      mem := memDrop s.mem (devAddr c 0) 0x30000
      errs := List.filter (fun e => !decide (devAddr c 0 ≤ 16 * e.1 ∧ 16 * e.1 < devAddr c 0 + 0x30000)) s.errs }
  else s

/-- Step 3 for one cluster: its words with errors; its committed copies become copy 0. -/
def State.copyCluster (s0 : State) (c : Nat) : State :=
  let s := s0.silentSlices c
  let bad := (s.errs.filter (fun e => e.1 * 16 / 2 ^ 44 == 8 && addrCluster (16 * e.1) == c
    && !(match storageAt (addrOffset (16 * e.1)) with | .lane _ _ => true | _ => false))).map (fun e => 16 * e.1)
  let s1 := bad.foldl (fun x a => x.repairWord c a) s
  let s2 := (s1.mu c).sel.foldl (fun x w => match x.muPlace c w with
    | .versioned _ c0 _ => x.putWord (devAddr c (16 * c0)) (x.decodeAt (x.muReadAddr c (x.muPlace c w))).data
    | _ => x) s1
  s2.modMu c (fun m => { m with sel := [], wr := [] })

/-- A compute unit at its new position: what the fabric banks and the generators hold has come with it (R42, R416). -/
def Cu.moved (x : Cu) : Cu :=
  { Cu.reset with
    sync := x.sync
    ste := { Ste.reset with lfsr := x.ste.lfsr, lfsr0 := x.ste.lfsr0 }
    vec := { Vec.reset with lfsr := x.vec.lfsr, lfsr0 := x.vec.lfsr0 } }

/-- A memory unit at its new position. -/
def Mu.moved (x : Mu) : Mu :=
  { Mu.reset with sel := x.sel, wr := x.wr, dirty := x.dirty, replies := x.replies, injPtr := x.injPtr }

/-- The registers of cluster `c` that its units hold take their Reset values, CU_SIG too. -/
def State.unitsMoved (s : State) (c : Nat) : State :=
  let s1 := { s with
    cus := s.cus.map (fun e => (e.1, if e.1 / 4 = c then e.2.moved else e.2))
    mus := s.mus.map (fun e => (e.1, if e.1 = c then e.2.moved else e.2)) }
  (List.range 4).foldl (fun x i => x.setReg (.cu (4 * c + i) .sig) 0) s1

/-- Step 4 for one cluster. -/
def State.reloadCluster (s : State) (c : Nat) : State :=
  let s1 := (s.dropRegs (inCluster c)).unitsMoved c
  match s.ctx? s.active with
  | none => s1
  | some x =>
    let s2 := x.image.lanes.foldl (fun y (u, ws) => if u / 4 = c then y.writeLane u ws else y) s1
    s2.imageRegs x.image (fun id => inCluster c id && !atResidency id)

/-- DARN_UPDATE_COMPLETE: due once the ledger entry is committed or the ledger is full. -/
def State.darnComplete (s : State) : State :=
  match s.rel.updating with
  | none => s
  | some (b, ly, d) =>
    if s.store.queue.any (fun r => r.type == 1) then s
    else
      let cs := (List.range (32 - d)).map (fun i => clusterIn b (31 - i) ly)
      let c := clusterIn b d ly
      let lost := s.lostOwners c
      let s1 := cs.foldl (fun x k => (x.copyCluster k).reloadCluster k) s
      let s2 := (s1.raise 368 0x32 b ly d 0).count (.rel .darns) 1
      let s3 := { s2 with rel := { s2.rel with updating := none, darned := c :: s2.rel.darned, paths := (b, ly, d) :: s2.rel.paths } }
      let s4 := s3.modStitch (fun k => { k with streak := 0 })
      let s5 := lost.foldl (fun x k => x.failCtx k ⟨6, b, ly, d⟩) s4
      s5.takeDarns s5.rel.queue

def execDarnUpdateComplete (t : Nat) (s0 : State) : Host.Outcome State Fault Refusal := .next (s0.masterTime t).darnComplete

end Sys2Proof.Machine
end

