-- ==== Sys2Proof/Machine/Commit.lean ====
section
/-! DEFINITION. The commit: VOTE_FREEZE, SEQ_MASK_BROADCAST, COMMIT_SAMPLING, COMMIT_APPLY, COMMIT_PHASE_END (R37-R58, R63,
R227, R275, R281, R284, R303, R318-R322, R354, R356, R409, R410). -/

namespace Sys2Proof.Machine

/-! ### The end of the hem check tile (R99) -/

/-- R99: STEs whose check tile failed. -/
def State.hemTile (s : State) (b : Nat) (bad : List Nat) : State :=
  (bad.filter (fun u => bayOfCu u == b)).foldl (fun x u => x.chkMismatch u 0 0 false true) s

/-- R99: the check tile ends with cycle W + 95; its failures are recorded then. -/
def State.hemTileEnd (s : State) (b : Nat) : State :=
  let y := s.bay b
  match y.hem.tile with
  | some bad => if y.w + 96 ≤ y.cycle then (s.modBay b (fun y => { y with hem := { y.hem with tile := none } })).hemTile b bad else s
  | none => s

/-- The time of a command of the hem. -/
def State.hemTime (s : State) (b t : Nat) : State := (s.bayTime b t).hemTileEnd b

/-! ### VOTE_FREEZE (R38, R45, R58, R61) -/

/-- R47: the freeze falls 68 ns before the commit phase. -/
def freezeLead (f : Nat) : Nat := ceilDiv (68 * f) 1000

/-- 68 ns ahead of the commit phase on the time master's count. -/
def State.masterFreeze (s : State) : Bool := decide (s.stitch.len ≤ s.clk.ns + 164)

def State.setVote (s : State) (v code cause : Nat) : State :=
  s.modStitch (fun k => { k with votes := k.votes.set v (code, if code = 2 then cause else 0) })

/-- A bay fixes its vote, its cause and its stage acknowledgements; BAY_VOTE shows the vote (R45, R67). -/
def State.fixVote (s : State) (b code cause : Nat) : State :=
  (s.setVote b code cause).modBay b (fun y => { y with
    vote := { y.vote with frozen := true, lastClean := decide (code = 1), lastCause := if code = 2 then cause else y.vote.lastCause }
    modes := { y.modes with fixedAcks := y.modes.acks } })

/-- The freeze of a bay, in its own clock. A bay that has power and has not begun the reload stitch has not completed its reload:
cause 0x9 (R58). One that has no power drives nothing, which reads as missing. -/
def State.freezeBay (s : State) (b : Nat) : State :=
  let y := s.bay b
  if y.power = .active ∧ y.inStitch ∧ y.c ≤ y.cycle + y.k + freezeLead (s.mhz b) then
    s.fixVote b (if y.vote.missing then 0 else if y.vote.cause = 0 then 1 else 2) y.vote.cause
  else if s.stitch.kind = .reload ∧ s.voterIn b ∧ y.power = .active ∧ !y.inStitch ∧ s.masterFreeze then s.fixVote b 2 9
  else s

/-- R354: the enabled export descriptors of a site that have not sent their last flit in a work stitch. -/
def State.exportsOpen (s : State) (t : Nat) : Nat :=
  let x := s.site t
  if s.stitch.kind = .work ∧ s.carries t 3 then
    ((List.range 16).filter (fun d => bitOf (s.regN (.optExport t d 0)) 31
      && (!x.begun.contains d || x.exports.any (fun e => decide (e.desc = d))))).length
  else 0

/-- Once a stitch, a site whose count of corrected words rose raises corrected-word (R331). -/
def State.siteCorrected (s : State) (t : Nat) : State :=
  match (s.site t).firstCe with
  | some w => (s.raise (264 + t) 0x27 w 6 0 (s.site t).ceStitch).modSite t (fun x => { x with firstCe := none, ceStitch := 0 })
  | none => s

/-- R354: exports that have not sent their last flit are abandoned. -/
def State.freezeSite (s : State) (t : Nat) : State :=
  let x := s.site t
  let n := s.exportsOpen t
  let s1 := (if n = 0 then s
    else ((s.modSite t (fun x => { x with exports := [] })).voidSite t 1).count (.opt t .exportLate) n).siteCorrected t
  let v := (s1.site t).void
  s1.setVote (216 + t) (if !x.up then 0 else if v = 0 then 1 else 2) v

/-- R331: once per stitch, a controller whose count of corrected words rose raises corrected-word. -/
def State.stackCorrected (s : State) (st : Nat) : State :=
  match s.hbm.firstCe.find? st with
  | some (pc, x) =>
    (s.raise (240 + st) 0x27 pc 5 x (s.hbm.ceStitch.get 0 st)).modHbm (fun h => { h with
      firstCe := h.firstCe.erase st, ceStitch := h.ceStitch.erase st })
  | none => s

def State.voteFreeze (s : State) (v : Nat) : State :=
  if !s.stitch.session ∨ s.stitch.phase ≠ .before ∨ (s.stitch.votes.find? v).isSome then s
  else if v < 192 then s.freezeBay v
  else if !s.masterFreeze then s
  else if v < 216 then
    let c := s.hbm.voids.get 0 (v - 192)
    (s.stackCorrected (v - 192)).setVote v (if c = 0 then 1 else 2) c
  else if v < 312 then s.freezeSite (v - 216)
  else s

/-- A bay's freeze happens in its own clock, every other voter's in the time master's ns. -/
def execVoteFreeze (t v : Nat) (s0 : State) : Host.Outcome State Fault Refusal :=
  .next ((if v < 192 then s0.hemTime v t else s0.masterTime t).voteFreeze v)

/-! ### The next sequence mask (R55, R56, R318-R320) -/

/-- Header word 0 of input entry `i` of pair `d`, read as any other word (R296, R299). -/
def State.inputHeader (s : State) (d : QpDecl) (i : Nat) : Nat × State :=
  let r := s.hbmWord (s.hbmReadAt (s.regN (.qp d.q .inBase) + i % s.qpInSize d.q * 2 ^ d.inEntryLog2))
  (r.1.toNat % 2 ^ 32, r.2.2)

/-- The slots that `n` entries of a pair from entry `i` on admit, with the pair, after those `before`. -/
def State.admitted (s : State) (d : QpDecl) (i : Nat) (before : List (Nat × Nat)) : Nat → List (Nat × Nat) × State
  | 0 => (before, s)
  | n + 1 =>
    let (w, s1) := s.inputHeader d i
    s1.admitted d (i + 1) (if bitOf w 11 then before ++ [(field w 10 0, d.q)] else before) n

/-- Those of one pair: from its head up to the head that its control block holds. -/
def State.pairAdmits (s : State) (c : Ctx) (shadow : Bool) (before : List (Nat × Nat)) (d : QpDecl) : List (Nat × Nat) × State :=
  let h0 := s.regN (.qp d.q .inHead)
  let (w, s1) := s.queueBlock c d.q shadow
  s1.admitted d h0 before (min (dist32 (queueField w 0) h0) (s.qpInSize d.q))

/-- Slots admitted by the entries that the stitch consumes, with their pairs, in order. -/
def State.admissions (s : State) (c : Ctx) (shadow : Bool) : List (Nat × Nat) × State :=
  c.image.qps.foldl (fun x d => x.2.pairAdmits c shadow x.1 d) ([], s)

def slotBits (l : List Nat) : BitVec 2048 := l.foldl (fun m i => m ||| BitVec.ofNat 2048 (2 ^ i)) 0

/-- Has the hem begun on the time master's count: that of a bay at 1 GHz, and of every bay of the stitch in its own clock, so that the
pointers the mask follows stand (R34; DESIGN CHOICE, log entry 57)? -/
def State.masterHem (s : State) : Bool :=
  decide ((stitchCap s.stitch.len 1000).2.2.2 ≤ s.clk.ns)
    && s.bays.all (fun e => !e.2.inStitch || decide (e.2.w * 1000 ≤ s.clk.ns * gradeMHz e.2.modes.grade))

/-- SEQ_MASK_BROADCAST: in the hem the time master sends the pending mask to every bay. -/
def State.maskBroadcast (s : State) : State :=
  match s.ctx? s.active with
  | some c =>
    if s.stitch.session && s.stitch.kind == .work && s.stitch.phase == .before && s.masterHem then
      let (adm, s1) := s.admissions c true
      s1.modStitch (fun k => { k with admits := adm, maskNext := some ((c.mask &&& ~~~k.exits) ||| slotBits (adm.map Prod.fst)) })
    else s
  | none => s

def execSeqMaskBroadcast (t : Nat) (s0 : State) : Host.Outcome State Fault Refusal := .next (s0.masterTime t).maskBroadcast

/-! ### COMMIT_SAMPLING (R37, R43, R46, R48, R61, R63, R320, R409) -/

/-- R45, R48: what the time master reads on a voter's lines. -/
def State.voteOf (s : State) (v : Nat) : Nat × Nat :=
  let (code, cause) := s.stitch.votes.get (0, 0) v
  if code = 1 then (1, 0) else if code = 2 then (2, cause) else (0, 7)

/-- The lowest voter of the mask that is void or missing, and its cause. -/
def State.firstVoid (s : State) : Option (Nat × Nat) :=
  (List.range 312).findSome? (fun v => if s.voterIn v && (s.voteOf v).1 != 1 then some (v, (s.voteOf v).2) else none)

/-- The voter and cause of a void, if the stitch voids. -/
def State.voidCause (s : State) : Option (Nat × Nat) :=
  match s.firstVoid with
  | some x => some x
  | none => if s.stitch.supplyVoid then some (0x1FF, 0xA) else if s.stitch.hostVoid then some (0x1FF, 8) else none

/-- R63: has every bay that has to acknowledged the class? -/
def State.acked (s : State) (cls : Nat) (m : StagedMode) : Bool :=
  (List.range 192).all (fun b => !(s.voterIn b || m.wakes.contains b) || (s.bay b).modes.fixedAcks.contains cls)

/-- Classes whose change applies at this commit. -/
def State.applyList (s : State) : List Nat :=
  [1, 2, 3, 4].filter (fun c => match s.stitch.modes.find? c with
    | some m => decide (m.target = s.stitch.commitSeq + 1) && s.acked c m
    | none => false)

/-- A pair with the pointers of its doorbells latched; a doorbell in the sampling cycle counts as arriving after it (R320). -/
def State.latched (s : State) (q : Nat) : Qp :=
  let x := s.host.qps.get Qp.reset q
  if x.at_ = s.clk.nsTotal + 1 then { x with inLatched := x.inBefore, outLatched := x.outBefore }
  else { x with inLatched := s.regN (.qp q .inTail), outLatched := s.regN (.qp q .outHead) }

/-- R320, R322: the pointers of every enabled pair of every resident context are latched. -/
def State.latchQueues (s : State) : State :=
  s.ctxs.foldl (fun x e => e.2.image.qps.foldl (fun y d =>
    if bitOf (y.regN (.qp d.q .cfg)) 31 then
      y.modHost (fun h => { h with qps := h.qps.set d.q (y.latched d.q) })
    else y) x) s

/-- R409: the same kind at the same location, which on the wafer is the logical cluster (R408). -/
def sameDetection (a b : Detection) : Bool :=
  a.kind == b.kind && a.bay == b.bay && (if a.bay < 192 then a.cluster == b.cluster else a.loc == b.loc)

/-- R409: one kept detection is classified by the replay. -/
def State.classify (s : State) (d : Detection) (permanent : Bool) : State :=
  let s1 := (s.raise 368 0x31 d.loc (b2n permanent) d.cause 0).count (.rel (if permanent then .permanent else .transient)) 1
  if permanent && decide (d.bay < 192) then s1.permanent d.cluster else s1

/-- R409, R410: a replay classifies what the voided run left; a void keeps its own first 16 new detections, unless no replay is
to follow it. -/
def State.classifyAll (s : State) (clean : Bool) : State :=
  if s.stitch.kind ≠ .work then s
  else
    let now := s.rel.detections
    let old := if s.stitch.replay then s.rel.kept else []
    let fresh := now.filter (fun d => !old.any (sameDetection d))
    let keep := if clean ∨ s.regN (.stitch .replay) % 16 = 0 then [] else fresh.take 16
    let s1 := { s with rel := { s.rel with kept := keep } }
    old.foldl (fun x d => x.classify d (now.any (sameDetection d))) s1

/-- A void is recorded and counted; a voided work stitch lengthens the streak, which may halt the context (R43). -/
def State.recordVoid (s : State) (v cause : Nat) : State :=
  let s1 := (s.setReg (.stitch .lastVoid) (regOf (cause * 2 ^ 28 + v * 2 ^ 16 + s.stitchLo 16))).count (.stitch .voidCount) 1
  if s.stitch.kind ≠ .work then s1
  else
    let n := min (s.stitch.streak + 1) 31
    let s2 := s1.modStitch (fun k => { k with streak := n, lastReplayed := true })
    if s2.regN (.stitch .replay) % 16 < n then s2.haltCtx s2.active false else s2

def State.decide_ (s : State) : State :=
  match s.voidCause with
  | some (v, cause) => (s.modStitch (fun k => { k with decision := some .void })).recordVoid v cause
  | none =>
    if s.stitch.kind = .work then
      s.modStitch (fun k => { k with decision := some (.commit s.applyList), streak := 0, lastReplayed := false })
    else s.modStitch (fun k => { k with decision := some .idleClean })

/-- COMMIT_SAMPLING: 96 ns before the end of the stitch. -/
def State.commitSampling (s : State) : State :=
  if !s.stitch.session ∨ s.stitch.phase ≠ .before ∨ s.clk.ns + 96 < s.stitch.len then s
  else
    let s1 := s.latchQueues
    let s2 := { s1 with hsync := { s1.hsync with sampled := s1.hsync.inForwards.length } }
    let clean := s2.voidCause.isNone
    let s3 := s2.decide_.modStitch (fun k => { k with hostVoid := false, supplyVoid := false, phase := .sampled })
    s3.classifyAll clean

def execCommitSampling (t : Nat) (s0 : State) : Host.Outcome State Fault Refusal := .next (s0.masterTime t).commitSampling

/-! ### Versioned storage and the fabric at a commit (R40, R49, R175, R227, R303, R356) -/

/-- Exclusive or of two ascending lists. -/
def symDiff (a b : List Nat) : List Nat := b.foldl (fun l x => if l.contains x then l.filter (· ≠ x) else insertSorted x l) a

def orList (a b : List Nat) : List Nat := b.foldl (fun l x => insertSorted x l) a

/-- sel = sel XOR wr; dirty |= wr on a paired primary; wr = 0. -/
def State.flip (s : State) (primary : Bool) : State :=
  { s with
    hbm := { s.hbm with pages := s.hbm.pages.map (fun p => { p with
      sel := symDiff p.sel p.wr, wr := [], dirty := if primary then orList p.dirty p.wr else p.dirty }) }
    mus := s.mus.map (fun (c, m) => (c, { m with
      sel := symDiff m.sel m.wr, wr := [], dirty := if primary then orList m.dirty m.wr else m.dirty })) }

def State.dropWritten (s : State) : State :=
  { s with
    hbm := { s.hbm with pages := s.hbm.pages.map (fun p => { p with wr := [] }) }
    mus := s.mus.map (fun (c, m) => (c, { m with wr := [] })) }

def sizes {α : Type} (l : List (Nat × List α)) : Nat := l.foldl (fun a e => a + e.2.length) 0

/-- Payloads left in a bay's queues, seam buffers and port FIFOs. -/
def State.residue (s : State) (b : Nat) : Nat :=
  ((s.busyCus b).foldl (fun a u => a + sizes (s.cu u).fab.inq + sizes (s.cu u).fab.seam) 0)
    + ((s.busyMus b).foldl (fun a c => a + (s.mu c).ports.foldl (fun x e => x + e.2.inq.length + e.2.outq.length) 0) 0)

/-- R40, R53, R227: the queues, seam buffers and steering FIFOs of a CU are emptied and every credit returned. -/
def Cu.emptyFabric (c : Cu) : Cu :=
  { c with
    fab := { c.fab with inq := [], seam := [], spent := [], returning := [], hurt := [] }
    steer := { c.steer with toks := [], dats := [], sent := 0, tWait := 0, dWait := 0, places := [] } }

/-- R40, R53, R227: the fabric is emptied. -/
def State.emptyFabric (s : State) : State :=
  { s with
    cus := s.cus.map (fun (u, c) => (u, c.emptyFabric))
    mus := s.mus.map (fun (c, m) => (c, { m with ports := m.ports.map (fun (p, x) => (p, { x with outq := [], inq := [] })) })) }

def State.flushFabric (s : State) (void : Bool) : State :=
  let s1 := if void then s else (List.range 192).foldl (fun x b =>
    let n := x.residue b
    if n = 0 then x else (x.count (.bay b .fabResidue) n).raiseBay b 0x15 n 0 0 0) s
  s1.emptyFabric

/-- R40, R281: what a void does to a CU; `snapped`: its bay took part in the stitch, so that its snapshot is that of cycle 0. -/
def Cu.voidClean (cu : Cu) (ctx : Nat) (snapped : Bool) : Cu :=
  { cu with
    seq := { Seq.start with ended := cu.seq.ended, retired := cu.seq.retired, overrun := cu.seq.overrun, sig := cu.seq.sig }
    ste := { cu.ste with queue := [], run := none, results := [], outq := [] }
    vec := { cu.vec with queue := [], run := none, groups := [], outq := [] }
    dma := Dma.reset
    sync := if snapped then { cu.sync with
        banks := List.filter (fun e => e.1 / 32 != ctx) cu.sync.banks ++ cu.sync.snap, recent := [] } else cu.sync
    fab := { cu.fab with spins := [] }
    msg := { Msg.reset with rings := cu.msg.rings } }

/-- R279: an entry that fired in a voided stitch is to be armed again, in the replay of context `k`. -/
def LaunchEntry.voided (e : LaunchEntry) (k : Nat) : LaunchEntry :=
  if e.firedAt.isSome ∧ e.again.isNone then { e with again := some k } else e

/-- A launch entry that waits for a replay which does not come: that of context `k`, or of any for 5, is armed no more (log entry 21). -/
def LaunchEntry.noReplay (e : LaunchEntry) (k : Nat) : LaunchEntry :=
  if e.again = some k ∨ e.again.isSome ∧ k = 5 then { e with again := none, armed := false, state := if e.armed then 0 else e.state } else e

/-- What a void leaves (R40, R279, R281, R284): in a bay that has not begun the stitch no entry has fired in it. A voided work stitch is replayed for its context; the stitch that follows an idle or
reload stitch is taken as its replay (DESIGN CHOICE, log entry 39). -/
def State.voidCleanup (s : State) : State :=
  let k := if s.stitch.kind = .work then s.active else 4
  { s with
    cus := s.cus.map (fun (u, c) => (u, c.voidClean s.bank (s.bay (bayOfCu u)).inStitch))
    mus := s.mus.map (fun (c, m) => (c, { m with gens := [], dsp := m.dsp.restart }))
    bays := s.bays.map (fun (b, y) => (b, { y with
      outForwards := [], entries := if y.inStitch then y.entries.map (fun (i, e) => (i, e.voided k)) else y.entries })) }

/-! ### COMMIT_APPLY -/

/-- R55, R56: the next mask is installed; admissions of live slots that did not exit are reported. -/
def State.installMask (s : State) : State :=
  match s.ctx? s.active with
  | none => s
  | some c =>
    let (adm, s0) := if s.stitch.maskNext.isSome then (s.stitch.admits, s) else s.admissions c false
    let next := (c.mask &&& ~~~s.stitch.exits) ||| slotBits (adm.map Prod.fst)
    let s1 := adm.foldl (fun x (slot, q) =>
      if c.mask.getLsbD slot && !s.stitch.exits.getLsbD slot then x.raise 363 4 slot q 0 0 else x) s0
    s1.setCtx s.active { c with mask := next }

/-- R63, R64, R373: the grade of a bay in a class 0x2 table is in force from the next cycle 0; a dormant bay that the table leaves
dormant takes nothing. -/
def Bay.takeGrade (y : Bay) (g : Nat) : Bay :=
  if y.power = .dormant ∧ g = 0 then y else { y with modes := { y.modes with nextGrade := some g } }

/-- R63, R64: a class applies; it is in force from the next cycle 0. -/
def State.applyMode (s : State) (cls : Nat) (m : StagedMode) : State :=
  let s1 := match cls with
    | 1 => s.modStitch (fun k => { k with nextPeriod := some m.arg })
    | 2 => (clockedBays s).foldl (fun x b => x.modBay b (fun y => y.takeGrade (m.table.getD b 0).toNat)) s
    | 3 =>
      let s2 := (List.range 48).foldl (fun (x : State) p => x.modPanel p (fun y => { y with nextFrac := some (fracAt m.table p) })) s
      (clockedBays s2).foldl (fun x b => x.modBay b (fun y => { y with modes := { y.modes with nextCap := some (fracAt m.table (48 + b)) } })) s2
    | 4 => (clockedBays s).foldl (fun x b => x.modBay b (fun y => { y with modes := { y.modes with nextNumdef := some (BitVec.ofNat 32 m.arg) } })) s
    | _ => s
  (s1.unstage cls true).modeReport cls 2 0

/-- Changes whose target is this commit apply or abort with reason 1. -/
def State.reachTargets (s : State) (apply : List Nat) : State :=
  [1, 2, 3, 4].foldl (fun (x : State) c => match x.stitch.modes.find? c with
    | some m => if m.target ≠ s.stitch.commitSeq + 1 then x else if apply.contains c then x.applyMode c m else x.abortMode c 1
    | none => x) s

/-- R284: out-forwards of the stitch reach their host-class counters. -/
def State.releaseOut (s : State) : State :=
  let all := (List.range 192).flatMap (fun b => (s.bay b).outForwards)
  let s1 := all.foldl (fun x (ctx, vid, n) => match x.physOf ctx vid with | some (p, h) => x.physAdd p h n | none => x) s
  { s1 with bays := s1.bays.map (fun (b, y) => (b, { y with outForwards := [] })) }

/-- R284: in-forwards that had arrived by the sampling and belong to the active context. -/
def State.releaseIn (s : State) : State :=
  let due := (s.hsync.inForwards.take s.hsync.sampled).filter (fun f => f.1 == s.active)
  let rest := (s.hsync.inForwards.take s.hsync.sampled).filter (fun f => f.1 != s.active) ++ s.hsync.inForwards.drop s.hsync.sampled
  due.foldl (fun x (ctx, u, k, n) => x.addBank ctx u k n) { s with hsync := { s.hsync with inForwards := rest, sampled := 0 } }

/-- R356, R363: commits between checkpoints. -/
def State.ckptEvery (s : State) : Nat := let n := s.regN (.twin .cfg) % 256; if n = 0 then 64 else n

/-- Device addresses of the dirty granules and words, ascending. -/
def State.dirtySet (s : State) : List Nat :=
  (s.hbm.pages.flatMap (fun p => p.dirty.map (fun g => p.base + 256 * g))
    ++ s.mus.flatMap (fun (c, m) => m.dirty.map (fun w => devAddr c (16 * w)))).mergeSort (fun a b => decide (a ≤ b))

def State.clearDirty (s : State) : State :=
  { s with
    hbm := { s.hbm with pages := s.hbm.pages.map (fun p => { p with dirty := [] }) }
    mus := s.mus.map (fun (c, m) => (c, { m with dirty := [] })) }

/-- The dirty set is frozen as checkpoint `c`. -/
def State.openCheckpoint (s : State) (c : Nat) (frozen : List Nat) : State :=
  let mask := match s.ctx? s.active with | some x => x.mask | none => 0
  { s.clearDirty with twin := { s.twin with
    openSeq := some c, taken := c, frozen := frozen, captured := [], mask := mask, sentA := 0, sentB := 0, started := false } }

/-- CHECKPOINT, at a qualifying clean commit of a paired primary. -/
def State.checkpoint (s : State) : State :=
  let c := s.stitch.commitSeq + 1
  if s.twin.state = 2 ∧ s.twin.openSeq = none ∧ s.twin.taken + s.ckptEvery ≤ c then s.openCheckpoint c s.dirtySet else s

/-- R358: while a checkpoint is open at a standby, its commits neither flip nor clear; with both ends matched, it flips. -/
def State.standbyOpen (s : State) : Bool := s.twin.state == 3 && s.twin.openSeq.isSome

def State.endsMatch (s : State) : Bool :=
  s.standbyOpen && s.twin.endA == some s.twin.sentA && s.twin.endB == some s.twin.sentB

/-- The pair is no more: both kinds of dirty bit mean nothing until the next attach. -/
def State.unpair (s : State) : State :=
  ({ s.clearDirty with twin := { s.twin with state := 0, detach := false, attached := false, frozen := [], captured := [], lineOut := none } }).raise 364 0x5A 0 0 0 0

/-- The standby tells the primary what became of the checkpoint of sequence `c`: TWIN_MARK 1 that it has been applied, 2 that it has been
discarded (DESIGN CHOICE, log entry 69). -/
def State.standbyTells (s : State) (kind c : Nat) : State :=
  [s.siteA, s.siteB].foldl (fun x t => x.queueFlit t 5 (BitVec.ofNat 64 kind) [BitVec.ofNat 128 c, 0]) s

/-- The standby applies the open checkpoint, with its sequence mask. An attach is complete with the first one, and a detach that
waits for it follows (R361). -/
def State.standbyApply (s : State) : State :=
  match s.twin.openSeq with
  | none => s
  | some c =>
    let s1 := s.flip false
    let s2 : State := { s1 with twin := { s1.twin with
      openSeq := none, taken := c, endA := none, endB := none, sentA := 0, sentB := 0, bytes := 0, attached := true } }
    let s3 := match s2.ctx? s2.active with | some x => s2.setCtx s2.active { x with mask := s.twin.mask } | none => s2
    let s4 := (s3.setReg (.twin .ckptLast) (regOf c)).setReg (.twin .ckptBytes) (regOf s.twin.bytes)
    let s5 := (if s.twin.attached then s4 else s4.raise 364 0x5B 0 0 0 0).standbyTells 1 c
    if s.twin.detach then s5.unpair else s5

/-- Written bits at a commit that flips nothing of its own. -/
def State.noFlip (s : State) : State :=
  if s.endsMatch then s.standbyApply else if s.standbyOpen then s else s.dropWritten

/-- Written bits at a commit of work: it flips, but for a standby whose checkpoint is open (R358). -/
def State.commitFlip (s : State) : State :=
  if s.endsMatch then s.standbyApply else if s.standbyOpen then s else s.flip (s.twin.state == 2)

/-- R58: is a request taken at this commit? -/
def State.switchTaken (s : State) (d : Decision) : Bool :=
  s.stitch.switchPending && match d, s.stitch.kind with
    | .commit _, _ => true
    | .idleClean, .idle => (match s.ctx? s.active with | some c => c.halted | none => false)
    | .idleClean, .reload => s.stitch.reloadTo != some s.stitch.ctxNext
    | _, _ => false

/-- Dormant bays that the target image gives a grade start to wake (R58, R374). -/
def State.reloadWakes (s : State) (k : Nat) : State :=
  match s.ctx? k with
  | none => s
  | some c => (List.range 192).foldl (fun (x : State) b =>
      let g := imageGrade c.image b (x.bay b).modes.grade
      if c.image.bays.contains b && (x.bay b).power == .dormant && g != 0 then x.queueWake b else x) s

/-- The request is taken: the next stitch is a reload stitch; every change still staged aborts. -/
def State.takeSwitch (s : State) : State :=
  let s1 := [1, 2, 3, 4].foldl (fun (x : State) c => if (x.stitch.modes.find? c).isSome then x.abortMode c 3 else x) s
  (s1.modStitch (fun k => { k with reloadTo := some k.ctxNext })).reloadWakes s1.stitch.ctxNext

/-- A clean reload commit makes the target the active context. A context that was left with a voided stitch replays it when it
comes back (R42, R58, R279). -/
def State.reloadDone (s : State) : State :=
  match s.stitch.kind, s.stitch.reloadTo with
  | .reload, some k =>
    match s.ctx? k with
    | none => s
    | some c =>
      let s0 := match s.ctx? s.active with
        | some o => s.setCtx s.active { o with voided := s.stitch.lastReplayed }
        | none => s
      let s1 := (s0.setCtx k { c with voided := false }).modStitch (fun x => { x with
        active := k, reloadTo := none, lastReplayed := c.voided, reloaded := true, switchPending := x.switchPending && decide (x.ctxNext ≠ k) })
      s1.imageModes c.image false
  | _, _ => s

/-- R389: a module cap that has been set is in force from the next clean commit. -/
def State.capInForce (s : State) : State :=
  match s.sup.capNext with
  | some w => { s with sup := { s.sup with cap := some w, capNext := none } }
  | none => s

def State.applyDecision (s : State) (d : Decision) : State :=
  match d with
  | .commit apply =>
    let s1 := s.commitFlip.installMask
    let s2 := ((s1.reachTargets apply).releaseOut.checkpoint.capInForce).releaseIn
    (if s.switchTaken d then s2.takeSwitch else s2).flushFabric false
  | .void => ((if s.standbyOpen then s else s.dropWritten).flushFabric true).voidCleanup
  | .idleClean =>
    let taken := s.switchTaken d
    let s1 := (s.noFlip.releaseOut.reloadDone.capInForce).releaseIn
    (if taken then s1.takeSwitch else s1).flushFabric false

/-- COMMIT_APPLY: the decision has reached every voter; the voter mask changes at every commit (R46). -/
def State.commitApply (s : State) : State :=
  match s.stitch.phase, s.stitch.decision with
  | .sampled, some d =>
    let s1 := s.applyDecision d
    s1.modStitch (fun k => { k with phase := .applied, voterMask := s1.voters })
  | _, _ => s

def execCommitApply (t : Nat) (s0 : State) : Host.Outcome State Fault Refusal := .next (s0.masterTime t).commitApply

/-! ### COMMIT_PHASE_END (R47, R48, R275, R350) -/

/-- R275, R342, R350: the done token on every up site assigned to a peer this engine feeds. -/
def State.sendTokens (s : State) (result : Nat) : State :=
  if s.stitch.noToken then s
  else (s.feedPeers.flatMap s.peerSites).foldl (fun x t => x.queueFlit t 2 0
    [BitVec.ofNat 128 (s.stitch.number % 2 ^ 40 + result * 2 ^ 40), BitVec.ofNat 128 s.stitch.commitSeq]) s

/-- What the phase end does beside publishing; `result` as STITCH_STATUS.last_result. -/
def State.endPhase (s : State) (result : Nat) : State :=
  ((s.sendTokens result).fwLower).modStitch (fun k => { k with phase := .ended, lastResult := result })

/-- COMMIT_PHASE_END: 96 ns after sampling. BAR4 accesses held by R48 are completed by the caller of this phase's end, in
Machine/Access.lean. -/
def State.commitPhaseEnd (s : State) : State :=
  if s.clk.ns < s.stitch.len then s
  else match s.stitch.phase, s.stitch.decision with
    | .applied, some (.commit _) => ((s.publishAll).modStitch (fun k => { k with commitSeq := k.commitSeq + 1 })).endPhase 1
    | .applied, some .void => s.endPhase 2
    | .applied, some .idleClean => s.endPhase 3
    | _, _ => s

end Sys2Proof.Machine
end

