-- ==== Sys2Proof/Machine/Launch.lean ====
section
/-! DEFINITION. Launch entries: what a write of an action word does, and LAUNCH_ENTRY_FIRE (R278, R279, R291). -/

namespace Sys2Proof.Machine

def Bay.entry (y : Bay) (e : Nat) : LaunchEntry := y.entries.get LaunchEntry.reset e

/-- A write of BAY_LAUNCHe's action word: a kind other than 0 arms the entry with the target held, kind 0 disarms it. -/
def State.launchWrite (s : State) (b e v : Nat) : State :=
  let tgt := s.regN (.launchTarget b e)
  let y := s.bay b
  let x : LaunchEntry := if field v 31 30 = 0 then { y.entry e with armed := false, again := none, state := 0 }
    else { target := tgt, armed := true, armedAt := y.cycle + 1, late := decide (tgt ≤ s.bayTs b), state := 1, again := none, firedAt := none }
  (s.setReg (.launchAction b e) (regOf (v % 2 ^ 32))).setBay b { y with entries := y.entries.set e x }

/-- Does entry `e` fire in this cycle? -/
def State.launchDue (s : State) (b e : Nat) : Bool :=
  let y := s.bay b
  let x := y.entry e
  y.power == .active && x.armed && decide (x.armedAt ≤ y.cycle) && decide (x.target ≤ s.bayTs b)

/-- R279, R284: an addition that a launch entry makes to a host-class counter. One of a work stitch is held for its commit. -/
def State.launchAdd (s : State) (b k vid n : Nat) : State :=
  if s.stitch.session && s.stitch.kind == .work && s.settled b != some true then s.addOut b k n [vid]
  else match s.physOf k vid with
    | some (p, h) => s.physAdd p h n
    | none => s

/-- What the action word of an entry does. -/
def State.launchAct (s : State) (b e v tgt : Nat) : State :=
  match field v 31 30 with
  | 1 => if 36 ≤ field v 24 19 then s
    else s.addSync (4 * clusterIn b (field v 29 25) (field v 24 19) + field v 18 17) (field v 16 12) (field v 11 0)
  | 2 =>
    s.launchAdd b (field v 29 28) (field v 27 12) (field v 11 0)
  | 3 => s.raiseBay b 8 e tgt (tgt / 2 ^ 32) 0
  | _ => s

/-- R279: does the entry fire in a stitch whose void has been applied? Its counter additions are then left to the replay. -/
def State.launchVoid (s : State) (b : Nat) : Bool := s.stitch.session && s.settled b == some false

/-- The context whose replay an entry that fires in the voided stitch of bay `b` waits for; 4 for the stitch that follows (R279). -/
def State.replayOf (s : State) (b : Nat) : Nat :=
  if (if (s.bay b).inStitch then s.stitch.kind == .work else s.stitch.lastReplayed) then s.active else 4

/-- Entries that fire in the same cycle act in entry order. One that fires after its stitch has voided is armed again as those before it
are, and of its effects only the event comes now (R279). -/
def State.launchFire (s : State) (b e : Nat) : State :=
  if s.launchDue b e && !(List.range e).any (fun i => s.launchDue b i) then
    let x := (s.bay b).entry e
    let void := s.launchVoid b
    let s1 := s.modBay b (fun y => { y with entries := y.entries.set e { x with
      armed := false, again := if void then some (s.replayOf b) else none, late := false, state := if x.late then 3 else 2
      firedAt := some y.cycle } })
    let v := s.regN (.launchAction b e)
    let s2 := if void && field v 31 30 != 3 then s1 else s1.launchAct b e v x.target
    if x.late then s2.raiseBay b 9 1 e x.target (x.target / 2 ^ 32) else s2
  else s

def execLaunchEntryFire (t b e : Nat) (s0 : State) : Host.Outcome State Fault Refusal := .next ((s0.bayTime b t).launchFire b e)

end Sys2Proof.Machine
end

