-- ==== Sys2Proof/Machine/Hem.lean ====
section
/-! DEFINITION. The end of the work window and the hem: WORK_WINDOW_END, ARITH_FLAG_SUMMARY, ROLL_CALL, ROLL_CALL_COMPARE,
SCRUB_WINDOW, TRIM_APPLY, BACKGROUND_FRAME (R36, R99, R135, R156, R281, R387, R400-R407, R444-R448). -/

namespace Sys2Proof.Machine

/-! ### WORK_WINDOW_END -/

/-- The CUs of a bay, in the order of their index (R384). -/
def cusOfBay (b : Nat) : List Nat :=
  (List.range 36).flatMap (fun y => (List.range 32).flatMap (fun x => (List.range 4).map (fun i => 4 * clusterIn b x y + i)))

/-- The CUs of bay `b` that run a lane: every one, when the bay is in the bay set (R32, R36). -/
def State.lanesOf (s : State) (b : Nat) : List Nat := if s.hasLanes b then cusOfBay b else []

/-- R67: BAY_VOTE. -/
def Bay.voteWord (y : Bay) : Nat :=
  min y.vote.lateLanes 0xFFFF * 2 ^ 16 + ([1, 2, 3, 4].foldl (fun a c => if y.modes.acks.contains c then a + 2 ^ (7 + c) else a) 0)
    + y.vote.lastCause * 16 + b2n y.vote.lastClean

/-- R36: lanes whose marker has not retired are halted. -/
def State.overrunLanes (s : State) (b : Nat) : State :=
  let late := (s.lanesOf b).filter (fun u => !(s.cu u).seq.retired)
  match late with
  | [] => s
  | u0 :: _ =>
    let low := late.foldl min u0
    let s1 := late.foldl (fun x u => x.modSeq u (fun q => { q with overrun := true })) s
    let s2 := s1.modBay b (fun y => { y with
      vote := { y.vote with lateLanes := min late.length 0xFFFF }, hem := { y.hem with overran := true } })
    (s2.raiseBay b 1 (s2.bay b).voteWord (locCu low) 0 0).voteVoid b 1

/-- R156: BAY_RETIRE_LAST and BAY_RETIRE_MAX are taken at cycle W. With no lane in the bay no marker retires, and 0 is taken (DESIGN CHOICE,
log entry 63). -/
def State.retireTaken (s : State) (b : Nat) : State :=
  let y := s.bay b
  let v := if y.hem.overran then y.w else y.retireAt
  (s.setReg (.bay b .retireLast) (regOf v)).hwSet (.bay b .retireMax) (fun r => regOf (max v r.toNat))

/-- Counters of CU `u` that R281 restores. -/
def State.residueOf (s : State) (u : Nat) : List Nat :=
  let y := (s.cu u).sync
  (List.range 32).filter (fun k =>
    y.banks.get 0 (syncKey s.bank k) != y.snap.get 0 (syncKey s.bank k) && (s.bound s.bank u k false).isEmpty)

/-- R281: counters that are not in-bound return to the snapshot. -/
def State.restoreResidue (s : State) (b : Nat) : State :=
  let n := (s.busyCus b).foldl (fun a u => a + (s.residueOf u).length) 0
  let s1 := (s.busyCus b).foldl (fun x u =>
    let ks := x.residueOf u
    if ks = [] then x
    else x.modCu u (fun cu => { cu with sync := { cu.sync with
      recent := cu.sync.recent.filter (fun r => !ks.contains r.counter)
      banks := ks.foldl (fun m k => m.set (syncKey x.bank k) (cu.sync.snap.get 0 (syncKey x.bank k))) cu.sync.banks } })) s
  if n = 0 then s1 else (s1.count (.bay b .syncResidue) n).raiseBay b 0x17 n s.bank 0 0

/-- R387: at cycle W the bay disarms and BRACEs still on their way are cancelled. -/
def State.unbrace (s : State) (b : Nat) : State :=
  s.modBay b (fun y => { y with gov := { y.gov with braces := [], armed := false, braceLevel := 0 } })

/-- R99: no half of a stage is filled after the check tile. -/
def Ste.emptyStages (x : Ste) : Ste :=
  { x with lastB := none, queue := x.queue.map (fun j => { j with stA := none, stB := none, ldA := Loading.start, ldB := Loading.start }) }

/-- R99: at cycle W the check tile starts in every STE of a bay in the voter mask. Which of them find a mismatch depends on faults
of the hardware alone, and the command says it (DESIGN CHOICE, log entry 56). -/
def State.hemTileStart (s : State) (b : Nat) (bad : List Nat) : State :=
  if s.voterIn b then
    ((s.busyCus b).foldl (fun x u => x.modCu u (fun cu => { cu with ste := cu.ste.emptyStages })) s).modBay b
      (fun y => { y with hem := { y.hem with tile := some bad } })
  else s

/-- R400: the once-per-hem report of corrected words. -/
def State.correctedReport (s : State) (b : Nat) : State :=
  let h := (s.bay b).hem
  match h.firstCe with
  | some (loc, store, off) =>
    (s.raiseBay b 0x27 loc store off h.ceStitch).modBay b (fun y => { y with hem := { y.hem with firstCe := none, ceStitch := 0 } })
  | none => s

def State.windowEnd (s : State) (b : Nat) (bad : List Nat) : State :=
  let y := s.bay b
  if y.power ≠ .active ∨ !y.inStitch ∨ y.windowOver ∨ y.cycle < y.w then s
  else
    let s1 := s.modBay b (fun y => { y with windowOver := true })
    let s2 := (if s.stitch.kind = .work then (s1.overrunLanes b).retireTaken b else s1).unbrace b
    ((s2.restoreResidue b).hemTileStart b bad).correctedReport b

def execWorkWindowEnd (t b : Nat) (bad : List Nat) (s0 : State) : Host.Outcome State Fault Refusal :=
  .next ((s0.bayTime b t).windowEnd b bad)

/-- R444: is bay `b` in its hem, at cycle W + `n` or later and at cycle `last` at the latest? -/
def State.hemAt (s : State) (b n last : Nat) : Bool :=
  let y := s.bay b
  y.power == .active && y.inStitch && y.windowOver && decide (y.w + n ≤ y.cycle ∧ y.cycle ≤ last)

/-- The last cycle of the flag summary, of the roll call and of the scrub of bay `b` (R444). -/
def Bay.flagsEnd (y : Bay) : Nat := y.w + 127
def Bay.rollEnd (y : Bay) : Nat := y.w + 191
def Bay.scrubEnd (y : Bay) : Nat := y.c - y.k - 65

/-- ARITH_FLAG_SUMMARY: from W + 96 to W + 127, in a bay of the voter mask. -/
def execArithFlagSummary (t b : Nat) (s0 : State) : Host.Outcome State Fault Refusal :=
  let s := s0.hemTime b t
  .next (if s.hemAt b 96 (s.bay b).flagsEnd && s.voterIn b then s.summarise b else s)

/-! ### The roll call (R406, R407) -/

/-- CU_SIG: the value at the last roll call that the CU answered (R424). A CU that has run no lane answers with the register as cycle 0
leaves it (R405). -/
def State.cuSig (s : State) (u : Nat) : Nat :=
  match s.regs.find? (.cu u .sig) with
  | some v => v.toNat
  | none => if (s.bay (bayOfCu u)).hem.rolled then Seq.start.sig.toNat else 0

/-- ROLL_CALL: from W + 128 to W + 191 every CU answers with its signature; the silent ones do not. -/
def State.rollCall (s : State) (b : Nat) (silentCus silentMus : List Nat) : State :=
  let cus := silentCus.filter (fun u => bayOfCu u == b)
  let s0 := cus.foldl (fun x u => x.setReg (.cu u .sig) (regOf (x.cuSig u))) s
  let s1 := ((s.bayCus b ++ (s.bay b).hem.silentCus).filter (fun u => !cus.contains u)).foldl (fun x u =>
    x.setReg (.cu u .sig) (regOf (x.cu u).seq.sig.toNat)) s0
  s1.modBay b (fun y => { y with hem := { y.hem with
    silentCus := cus, silentMus := silentMus.filter (fun c => bayOf c == b), called := true, rolled := true } })

def execRollCall (t b : Nat) (silentCus silentMus : List Nat) (s0 : State) : Host.Outcome State Fault Refusal :=
  let s := s0.hemTime b t
  .next (if s.hemAt b 128 (s.bay b).rollEnd && s.voterIn b && !(s.bay b).hem.called then s.rollCall b silentCus silentMus else s)

/-- One signature mismatch or silence. -/
def State.sigFault (s : State) (b loc got want cluster kind : Nat) : State :=
  let s1 := (s.count (.rel .sig) 1).raiseBay b 0x30 loc got want 0
  (s1.voteVoid b 4).detect b loc 4 cluster kind

/-- ROLL_CALL_COMPARE: signatures are compared in a work stitch only (R446); a CU that overran is not compared. -/
def State.rollCompare (s : State) (b : Nat) (work : Bool) : State :=
  let h := (s.bay b).hem
  let bad := if work then (s.lanesOf b).filter (fun u =>
      !(s.cu u).seq.overrun && !h.silentCus.contains u && (s.cu u).seq.sig.toNat != s.regN (.cu u .sigExpect)) else []
  let s1 := bad.foldl (fun x u => x.sigFault b (locCu u) (x.cu u).seq.sig.toNat (x.regN (.cu u .sigExpect)) (u / 4) 2) s
  let s2 := h.silentCus.foldl (fun x u => x.sigFault b (locCu u) 0 (x.regN (.cu u .sigExpect)) (u / 4) 3) s1
  let s3 := h.silentMus.foldl (fun x c => x.sigFault b (locMu c) 0 0 c 3) s2
  (s3.setReg (.bay b .roll) (regOf ((h.silentCus.length + h.silentMus.length) % 2 ^ 16 * 2 ^ 16 + bad.length % 2 ^ 16))).modBay b
    (fun y => { y with hem := { y.hem with compared := true } })

def execRollCallCompare (t b : Nat) (s0 : State) : Host.Outcome State Fault Refusal :=
  let s := s0.hemTime b t
  .next (if s.hemAt b 128 (s.bay b).rollEnd && s.voterIn b && (s.bay b).hem.called && !(s.bay b).hem.compared then s.rollCompare b (s.stitch.kind == .work) else s)

/-! ### Scrub and calibration (R402, R403, R445-R447) -/

/-- Units per hem of each kind of store: slice rows, scratchpad words, lane bundles. -/
def scrubUnits (h : Nat) : Nat × Nat × Nat := (min 384 ((h - 256) / 2), min 1024 (4 * ((h - 256) / 2)), min 512 ((h - 256) / 2))

/-- Does a walk of `n` units from `p` in a ring of `size` visit `i`? -/
def visits (p n size i : Nat) : Bool := decide ((i + size - p % size) % size < n)

/-- A word that the scrub reads: written back when it was corrected, handled by R401 when it cannot be. -/
def State.scrubWord (s : State) (a : Nat) : State :=
  let c := addrCluster a
  let off := addrOffset a
  let (loc, store, cu, w) := match storageAt off with
    | .scratchpad i w => (locCu (4 * c + i), 1, i, w)
    | .lane i w => (locCu (4 * c + i), 2, i, w)
    | .slices w => (locMu c, 0, 0, w)
    | _ => (locMu c, 0, 0, 0)
  let (d, s1) := s.readStore a (bayOf c) loc store cu c w (store == 0 && s.committedCopy c a)
  if d.verdict = 1 then s1.putWord a d.data else s1

/-- Is the word at `a` among the units this hem visits? -/
def State.scrubReach (s : State) (b h : Nat) (lanes : Bool) (a : Nat) : Bool :=
  let m := (s.bay b).hem
  let (nr, nw, nl) := scrubUnits h
  addrInBay b a && match storageAt (addrOffset a) with
    | .slices w =>
      let row := ((m.slices.find? (8 * addrCluster a + w / 1536)).map (fun x => x.row)).getD m.sliceRow
      bitOf (s.regN (.mu (addrCluster a) .slicePwr)) (w / 1536) && visits row nr 384 (w % 1536 / 4)
    | .scratchpad _ w => visits m.spWord nw 1024 w
    | .lane _ w => lanes && visits m.laneWord nl 512 w
    | _ => false

/-- A slice that is powered moves on by `n` rows; it takes part in the passes from its next wrap on (R402). -/
def SliceScrub.advance (x : SliceScrub) (n : Nat) : SliceScrub :=
  { row := (x.row + n) % 384, counts := x.counts || decide (384 ≤ x.row + n), wrapped := x.wrapped || decide (384 ≤ x.row + n) }

/-- The scrub positions move on; a pass is counted when every store that the bay scrubs has wrapped. `on`: is a slice powered? The
scratchpads of a bay stand at one position, and so do its lane stores and the slices that have never been powered off. One regulator
phase, one sensor and one of the bay's `seams` seam crossings is calibrated (R445). -/
def Hem.advance (m0 : Hem) (h seams : Nat) (lanes : Bool) (on : Nat → Bool) : Hem × Bool :=
  let (nr, nw, nl) := scrubUnits h
  let m := { m0 with slices := List.map (fun (e : Nat × SliceScrub) => (e.1, if on e.1 then e.2.advance nr else e.2)) m0.slices }
  let wr := (if 384 ≤ m.sliceRow + nr then [0] else []) ++ (if 1024 ≤ m.spWord + nw then [1] else [])
    ++ (if lanes && decide (512 ≤ m.laneWord + nl) then [2] else [])
  let all := wr.foldl (fun l x => insertSorted x l) m.wrapped
  let full := (all.contains 0 || decide (9216 ≤ m.slices.length)) && all.contains 1 && all.contains 2
    && m.slices.all (fun (e : Nat × SliceScrub) => !(on e.1 && e.2.counts) || e.2.wrapped)
  ({ m with
    slices := if full then List.map (fun (e : Nat × SliceScrub) => (e.1, { e.2 with wrapped := false })) m.slices else m.slices
    sliceRow := (m.sliceRow + nr) % 384, spWord := (m.spWord + nw) % 1024
    laneWord := if lanes then (m.laneWord + nl) % 512 else m.laneWord
    wrapped := if full then [] else all
    trim := some m.calPhase
    calPhase := (m.calPhase + 1) % 16, calSensor := (m.calSensor + 1) % 4, calSeam := (m.calSeam + 1) % max 1 seams }, full)

/-- R447: scrub and calibration wait for a darn update of the bay. -/
def State.scrubHeld (s : State) (b : Nat) : Bool :=
  (match s.rel.updating with | some (x, _, _) => x == b | none => false) || s.rel.queue.any (fun c => bayOf c == b)

/-- The scrub of one hem of `h` cycles. -/
def State.scrub (s : State) (b h : Nat) (lanes : Bool) : State :=
  if s.scrubHeld b then s
  else
    let hit := (s.errs.map (fun e => 16 * e.1)).filter (s.scrubReach b h lanes)
    let s1 := hit.foldl (fun x a => x.scrubWord a) s
    let (m, full) := (s1.bay b).hem.advance h (seamCount b) lanes (fun k => bitOf (s1.regN (.mu (k / 8) .slicePwr)) (k % 8))
    let s2 := s1.modBay b (fun y => { y with hem := m })
    if full then s2.count (.bay b .scrubPass) 1 else s2

/-- SCRUB_WINDOW: from W + 192 to C - K - 65, in a bay of the voter mask; one that suspends scrub and calibration has none (R447). In a
reload stitch the lane stores are left alone (R446). -/
def State.scrubWindow (s : State) (b : Nat) : State :=
  if s.hemAt b 192 (s.bay b).scrubEnd && s.voterIn b && !(s.bay b).hem.scrubbed && !s.scrubHeld b then
    (s.scrub b (s.bay b).cap.2.1 (s.stitch.kind != .reload)).modBay b (fun y => { y with hem := { y.hem with scrubbed := true } })
  else s

def execScrubWindow (t b : Nat) (s0 : State) : Host.Outcome State Fault Refusal := .next ((s0.hemTime b t).scrubWindow b)

/-- R445: the new trim of the phase calibrated in this hem: its setpoint moves by `mv`, at most 2 mV. -/
def Hem.takeTrim (m : Hem) (mv : Int) : Hem :=
  match m.trim with
  | some p => { m with trim := none, setpoints := m.setpoints.set p (m.setpoints.get 0 p + max (-2) (min 2 mv)) }
  | none => m

/-- May bay `b` take a new trim: from cycle C - K - 64 on, or after a background frame (R445, R448), unless it suspends calibration (R447)? -/
def State.trimTime (s : State) (b : Nat) : Bool :=
  let y := s.bay b
  y.power == .active && !s.scrubHeld b && (if y.inStitch then decide (y.c ≤ y.cycle + y.k + 64) else !s.stitch.session)

/-- TRIM_APPLY. -/
def State.trimApply (s : State) (b : Nat) (mv : Int) : State :=
  if s.trimTime b then s.modBay b (fun y => { y with hem := y.hem.takeTrim mv }) else s

def execTrimApply (t b : Nat) (mv : Int) (s0 : State) : Host.Outcome State Fault Refusal := .next ((s0.bayTime b t).trimApply b mv)

/-! ### Background frames (R448) -/

/-- R34 at 100 µs and grade 0x05: the hem of a frame. -/
def frameHem : Nat := (stitchCap 100000 800).2.1

/-- BACKGROUND_FRAME: hem check tile, a roll call of silence only, scrub, calibration. A frame takes no vote. A detection repeated
in the next frame is permanent. -/
def State.frame (s : State) (b : Nat) (bad silentCus silentMus : List Nat) : State :=
  if s.stitch.session ∨ (s.bay b).power ≠ .active ∨ !s.bayAvailable b then s
  else
    let vote := (s.bay b).vote
    let s0 := { s with rel := { s.rel with detections := [] }, stitch := { s.stitch with votes := [] } }
    let s1 := ((((s0.hemTile b bad).correctedReport b).rollCall b silentCus silentMus).rollCompare b false).scrub b frameHem true
    let found := s1.rel.detections
    let s2 := { s1 with
      rel := { s1.rel with
        detections := s.rel.detections
        frame := s1.rel.frame.filter (fun (d : Detection) => d.bay != b) ++ found }
      stitch := { s1.stitch with votes := s.stitch.votes } }
    let s3 := s2.modBay b (fun y => { y with vote := vote, hem := { y.hem with called := false, compared := false } })
    (found.filter (fun d => s.rel.frame.any (sameDetection d))).foldl (fun x d => x.classify d true) s3

def execBackgroundFrame (t b : Nat) (bad silentCus silentMus : List Nat) (s0 : State) : Host.Outcome State Fault Refusal :=
  .next ((s0.masterTime t).frame b bad silentCus silentMus)

end Sys2Proof.Machine
end

