-- ==== Sys2Proof/Machine/Telemetry.lean ====
section
/-! DEFINITION. Queue-depth sampling and its ring: FABRIC_SAMPLE, TELEMETRY_RECORD_WRITE (R228-R231, R234). -/

namespace Sys2Proof.Machine

/-- R228: the sampling interval. -/
def sampleInterval (cfg : Nat) : Nat := 2 ^ max 8 (min 20 (cfg % 32))

/-- The depth and the capacity of the queue a probe names; none for a reserved value. -/
def State.probed (s : State) (b p : Nat) : Option (Nat × Nat) :=
  let lx := field p 27 23
  let ly := field p 22 17
  let u := 4 * clusterIn b lx ly + field p 16 15
  let sub := field p 14 12
  if 36 ≤ ly ∨ field p 8 0 ≠ 0 then none
  else match field p 30 28 with
    | 0 => if 4 ≤ sub then none
      else some (if isSeam u sub then (s.cu u).fab.seamHeld sub else arrived (s.bay b).cycle ((s.cu u).fab.q sub), s.depth u sub)
    | 1 => if 4 ≤ sub ∨ !isSeam u sub then none else some ((s.cu u).fab.seamHeld sub, 64)
    | 2 =>
      let x := (s.mu (u / 4)).port (sub % 2)
      some (arrived (s.bay b).cycle (if bitOf sub 1 then x.inq else x.outq), 8)
    | 3 => some (if bitOf sub 0 then (s.cu u).steer.dats.length else (s.cu u).steer.toks.length, if bitOf sub 0 then 8 else 4)
    | 4 => if 6 ≤ sub ∨ field p 11 10 = 3 then none
      else some (flitsIn ((s.rtr (u / 4)).buf (bufKey sub (field p 11 10) (field p 9 9))), 8)
    | _ => none

/-- R229: what probe `p` records, and whether its queue was full. -/
def State.probeByte (s : State) (b p : Nat) : Nat × Bool :=
  if !bitOf p 31 then (0xFF, false)
  else match s.probed b p with
    | none => (0xFE, false)
    | some (n, cap) => (min n 0xFD, decide (cap ≤ n))

/-- FABRIC_SAMPLE: the 16 probes at cycles 0, I, 2I, ... below W; records beyond 256 are dropped. -/
def State.sample (s : State) (b : Nat) : State :=
  let y := s.bay b
  let ts := s.bayTs b
  if s.stitch.kind ≠ .work ∨ !y.inStitch ∨ !s.voterIn b ∨ !bitOf y.hem.sampleCfg 31 ∨ y.windowOver ∨ y.w ≤ y.cycle
      ∨ y.cycle % sampleInterval y.hem.sampleCfg ≠ 0 ∨ y.hem.samples.any (fun x => x.ts == ts) then s
  else if 256 ≤ y.hem.samples.length then s.count (.bay b .fabTelDrop) 1
  else
    let ps := y.hem.probes.map (s.probeByte b)
    let full := (List.range 16).foldl (fun a i => if (ps.getD i (0, false)).2 then a + 2 ^ i else a) 0
    s.modBay b (fun y => { y with hem := { y.hem with samples := y.hem.samples ++ [⟨ts, ps.map Prod.fst, full⟩] } })

def execFabricSample (t b : Nat) (s0 : State) : Host.Outcome State Fault Refusal := .next ((s0.bayTime b t).sample b)

/-- R230. -/
def sampleBytes (b : Nat) (overran : Bool) (x : Sample) : List Byte :=
  leBytes 8 x.ts ++ ((List.range 16).map (fun i => BitVec.ofNat 8 (x.depths.getD i 0xFF))) ++ leBytes 2 x.full ++ leBytes 1 b
    ++ leBytes 1 (b2n overran) ++ leBytes 4 0

/-- R231: may a record go into the ring now? -/
def State.telemetryOk (s : State) (b : Nat) : Bool :=
  let z := s.regN (.bay b .fabTelSize) % 32
  decide (7 ≤ z ∧ z ≤ 20 ∧ s.regN (.bay b .fabTelBase) / 2 ^ 44 ≤ 1
    ∧ dist32 (s.regN (.bay b .fabTelHead)) (s.regN (.bay b .fabTelTail)) < 2 ^ z)

/-- TELEMETRY_RECORD_WRITE: from W + 128, one every 4 cycles, the oldest record is written to the ring or dropped; past C - K - 64 all
that are left are dropped. A record whose place the
controllers refuse is an address fault that names the bay's first cluster (log entry 15). -/
def State.telemetryWrite (s : State) (b : Nat) : State :=
  let y := s.bay b
  match y.hem.samples with
  | [] => s
  | x :: rest =>
    if !s.hemAt b 128 y.cycle || y.hem.telAt.any (fun t => decide (y.cycle < t + 4)) then s
    else if y.c < y.cycle + y.k + 64 then s.dropSamples b
    else
      let s1 := s.modBay b (fun y => { y with hem := { y.hem with samples := rest, telAt := some y.cycle } })
      if !s.telemetryOk b then s1.count (.bay b .fabTelDrop) 1
      else
        let n := s.regN (.bay b .fabTelHead)
        let a := s.regN (.bay b .fabTelBase) + 32 * (n % 2 ^ (s.regN (.bay b .fabTelSize) % 32))
        let s2 := s1.setReg (.bay b .fabTelHead) (regOf ((n + 1) % 2 ^ 32))
        match s2.hbmRangeBad a 32 true with
        | some k => s2.addrFault (240 + (s2.hbmPlace a).stack) a (locMu (clusterIn b 0 0)) k none
        | none => s2.hbmWrite a (sampleBytes b y.hem.overran x)

def execTelemetryRecordWrite (t b : Nat) (s0 : State) : Host.Outcome State Fault Refusal := .next ((s0.bayTime b t).telemetryWrite b)

end Sys2Proof.Machine
end

