-- ==== Sys2Proof/Machine/Power.lean ====
section
/-! DEFINITION. Power on the wafer: regulator phases, shorts, droop, the lowest-voltage record, the ramp governor, budgets and
temperature (R370, R377-R393). -/

namespace Sys2Proof.Machine

/-- A bay whose core rail stands. -/
def railUp : BayPower → Bool
  | .active => true
  | .dormant => true
  | .waking => true
  | _ => false

/-! ### Phases and shorts (R377-R381) -/

/-- The feed of a bay is latched open (R381). -/
def State.openFeed (s : State) (b : Nat) : State :=
  s.modPanel (b / 4) (fun p => { p with feedsOpen := insertSorted (b % 4) p.feedsOpen })

/-- REGULATOR_PHASE_FAIL. -/
def State.phaseFailed (s : State) (b phase : Nat) (short : Bool) : State :=
  let bit := if short then phase + 16 else phase
  if 16 ≤ phase ∨ bitOf (s.regN (.phaseFail (b / 4) (b % 4))) bit ∨ !railUp (s.bay b).power then s
  else
    let s1 := s.modReg (.phaseFail (b / 4) (b % 4)) (fun r => r ||| regOf (2 ^ bit))
    let s2 := s1.raiseBay b 0x40 phase (b2n short) (s1.phasesFailed b) 0
    if short ∨ 3 ≤ s2.phasesFailed b then (s2.openFeed b).loseBay b 1 ⟨2, b, 0, 0⟩
    else if s2.ceiling b < (s2.bay b).modes.nextGrade.getD (s2.bay b).modes.grade then (s2.modStitch (fun k => { k with lower := insertSorted b k.lower })).fwLower
    else s2

def execRegulatorPhaseFail (t b phase : Nat) (short : Bool) (s0 : State) : Host.Outcome State Fault Refusal :=
  .next ((s0.masterTime t).phaseFailed b phase short)

/-- BAY_RAIL_SHORT. -/
def State.railShort (s : State) (b amps : Nat) : State :=
  if !railUp (s.bay b).power then s
  else ((s.raiseBay b 0x41 0 amps 0 0).openFeed b).loseBay b 2 ⟨3, b, 0, 0⟩

def execBayRailShort (t b amps : Nat) (s0 : State) : Host.Outcome State Fault Refusal := .next ((s0.masterTime t).railShort b amps)

/-- R299: the stack of a panel that becomes a hole in a session loses its pseudo-channels. -/
def State.losePcs (s : State) (p : Nat) : State :=
  if !s.stitch.session then s
  else (s.hbm.mapped.filter (fun q => stackPanel (q % 24) == p && !s.hbm.failed.contains q)).foldl (fun x q => x.failPc (q % 24) (q / 24)) s

/-- FABRIC_RAIL_SHORT. -/
def State.fabricShort (s : State) (p amps : Nat) : State :=
  if !(s.panel p).fabricOn then s else (s.losePanel p amps).losePcs p

def execFabricRailShort (t p amps : Nat) (s0 : State) : Host.Outcome State Fault Refusal := .next ((s0.masterTime t).fabricShort p amps)

/-! ### Droop and the lowest voltage (R382, R383) -/

/-- DROOP_BOOST: the boost bank injects charge. -/
def State.droopBoost (s : State) (b : Nat) : State :=
  if (s.bay b).power = .active then s.count (.bay b .pwrBoost) 1 else s

def execDroopBoost (t b : Nat) (s0 : State) : Host.Outcome State Fault Refusal := .next ((s0.bayTime b t).droopBoost b)

/-- CLOCK_STRETCH and CLOCK_STRETCH_END: while it lasts, the cycles that pass are counted as stretched. -/
def State.stretch (s : State) (b : Nat) (on : Bool) : State :=
  if (s.bay b).power = .active then s.modBay b (fun y => { y with stretching := on }) else s

def execClockStretch (t b : Nat) (s0 : State) : Host.Outcome State Fault Refusal := .next ((s0.bayTime b t).stretch b true)
def execClockStretchEnd (t b : Nat) (s0 : State) : Host.Outcome State Fault Refusal := .next ((s0.bayTime b t).stretch b false)

/-- R383: the record of the lowest voltage after a sample of `mv`. -/
def lowestMv (mv : Nat) (r : Reg) : Reg :=
  if bitOf r.toNat 31 ∧ r.toNat % 4096 ≤ mv then r else regOf (2 ^ 31 + min mv 0xFFF)

/-- VMIN_SAMPLE: the record keeps the first cycle of the lowest voltage. -/
def State.vminSample (s : State) (b mv : Nat) : State :=
  if !railUp (s.bay b).power then s
  else
    let r := s.reg (.bay b .pwrVmin)
    let now := s.bayTs b
    (s.hwSet (.bay b .pwrVmin) (lowestMv mv)).modBay b (fun y => { y with
      vminTs := if lowestMv mv r = r then y.vminTs else now
      vminOld := if y.vminNow = now then y.vminOld else y.vminTs
      vminNow := now })

def execVminSample (t b mv : Nat) (s0 : State) : Host.Outcome State Fault Refusal := .next ((s0.bayTime b t).vminSample b mv)

/-! ### The ramp governor (R384, R385, R387) -/

/-- GOVERNOR_RISE_TICK: every 32 bay cycles from the last power-up. -/
def State.riseTick (s : State) (b : Nat) : State :=
  let y := s.bay b
  let g := y.gov
  if y.power ≠ .active ∨ y.upCycles % 32 ≠ 0 ∨ y.upCycles = g.lastRiseTick then s
  else
    let up : Nat := if g.armed ∧ g.level < g.braceLevel then 32 else 128
    let rises := decide (up ≤ g.sinceRise ∧ 0 < g.heldSinceRise ∧ g.level < s.lmax b)
    let lvl := if rises then g.level + 1 else g.level
    s.setBay b { y with gov := { g with
      lastRiseTick := y.upCycles
      level := lvl
      sinceRise := if rises then 0 else g.sinceRise
      heldSinceRise := if rises then 0 else g.heldSinceRise
      armed := g.armed && decide (lvl < g.braceLevel)
      braceLevel := if g.armed ∧ lvl < g.braceLevel then g.braceLevel else 0 } }

def execGovernorRiseTick (t b : Nat) (s0 : State) : Host.Outcome State Fault Refusal := .next ((s0.bayTime b t).riseTick b)

/-- GOVERNOR_FALL_TICK: every 128 bay cycles. -/
def State.fallTick (s : State) (b : Nat) : State :=
  let y := s.bay b
  let g := y.gov
  if y.power ≠ .active ∨ y.upCycles % 128 ≠ 0 ∨ y.upCycles = g.lastFallTick then s
  else
    let down := decide (s.lmax b < g.level ∨ (1 < g.level ∧ g.issued128 ≤ 16 * (g.level - 1) * 4608))
    s.setBay b { y with gov := { g with
      lastFallTick := y.upCycles, issued128 := 0, level := if down then g.level - 1 else g.level } }

def execGovernorFallTick (t b : Nat) (s0 : State) : Host.Outcome State Fault Refusal := .next ((s0.bayTime b t).fallTick b)

/-! ### Cap, budgets and energy (R1, R389-R392) -/

/-- A 64-bit energy counter. -/
def State.addEnergy (s : State) (r : RegId) (uj : Nat) : State := s.modReg r (fun v => regOf ((v.toNat + uj) % 2 ^ 64))

def State.supplySample (s : State) (k : PwrReg) (m : PowerSample) (i : Nat) : State :=
  s.setReg (.pwr k) (regOf (m.current.getD i 0 % 65536 * 65536 + m.mv.getD i 0 % 65536))

/-- What the control island measures at the module's inputs (R392, R394): powers, voltages, energy. -/
def State.inputSample (s : State) (m : PowerSample) : State :=
  let io := m.ioW + m.auxW
  let s1 := s.setReg (.pwr .moduleW) (regOf (min io 65535 * 65536 + min (m.mainW + io) 65535))
  let s2 := ((s1.supplySample .vinMain m 0).supplySample .vinIo m 1).supplySample .vinAux m 2
  ((s2.addEnergy (.pwr .eMain) m.mainUj).addEnergy (.pwr .eIo) m.ioUj).addEnergy (.pwr .eAux) m.auxUj

/-- PANEL_BUDGET_UPDATE: the inputs are measured, which needs VIN_IO alone; a panel controller that has power computes G and its
panel's budget. -/
def State.panelBudget (s : State) (p : Nat) (m : PowerSample) : State :=
  if !s.sup.ioIn then s
  else
    let s1 := s.inputSample m
    if !(s.panel p).fabricOn then s1
    else
      let g := s.moduleCap - (m.ioW + m.auxW) - m.fabW - 192
      let s2 := (s1.modPanel p (fun x => { x with budgetW := g * x.frac / 1024 })).setReg (.pwr .governed) (regOf (min g 65535))
      (s2.addEnergy (.panel p .eFabric) m.panelFabUj).addEnergy (.panel p .eIo) m.panelIoUj

def execPanelBudgetUpdate (t p : Nat) (m : PowerSample) (s0 : State) : Host.Outcome State Fault Refusal :=
  .next ((s0.masterTime t).panelBudget p m)

def State.bayBudget (s : State) (b : Nat) : Nat := (s.panel (b / 4)).budgetW * (s.bay b).modes.capFrac / 1024

/-- BAY_BUDGET_COMPARE. The bay's counter keeps its value while the rail is off (R392). -/
def State.budgetCompare (s : State) (b draw uj : Nat) : State :=
  let s1 := if railUp (s.bay b).power then s.addEnergy (.eBay (b / 4) (b % 4)) uj else s
  if (s.bay b).power ≠ .active then s1
  else
    let w := s.bayBudget b
    let c := (s.bay b).gov.capMax
    let c' := if w < draw then max 1 (c - 1) else if 8 * draw < 7 * w then min 8 (c + 1) else c
    (s1.setReg (.bay b .pwrBudget) (regOf (min draw 65535 * 65536 + min w 65535))).modBay b (fun y => { y with
      gov := { y.gov with capMax := c' } })

def execBayBudgetCompare (t b drawW uj : Nat) (s0 : State) : Host.Outcome State Fault Refusal :=
  .next ((s0.masterTime t).budgetCompare b drawW uj)

/-! ### Temperature (R393) -/

/-- The first sensor that reads `n` or more, with its reading. -/
def hotSensor (temps : List Nat) (n : Nat) : Option (Nat × Nat) :=
  (List.range 4).findSome? (fun i => if n ≤ temps.getD i 0 then some (i, temps.getD i 0) else none)

/-- R393: what a reading does to lmax_thermal. -/
def State.throttle (s : State) (b : Nat) (temps : List Nat) : State :=
  match hotSensor temps 95 with
  | some (i, c) =>
    let s1 := if (s.bay b).throttled then s else s.raiseBay b 0x43 i c 0 0
    s1.modBay b (fun y => { y with throttled := true, gov := { y.gov with thermMax := max 1 (y.gov.thermMax - 1) } })
  | none =>
    if (hotSensor temps 94).isSome then s
    else s.modBay b (fun y => { y with throttled := false, gov := { y.gov with thermMax := min 8 (y.gov.thermMax + 1) } })

/-- THERMAL_SAMPLE: the sensors run on the fabric rail. -/
def State.thermal (s : State) (b : Nat) (temps : List Nat) : State :=
  if !(s.panel (b / 4)).fabricOn then s
  else
    let s1 := s.setReg (.therm (b / 4) (b % 4)) (regOf ((List.range 4).foldl (fun a i => a + temps.getD i 0 % 256 * 2 ^ (8 * i)) 0))
    if !railUp (s.bay b).power then s1
    else
      let s2 := s1.throttle b temps
      match hotSensor temps 105 with
      | some (i, c) =>
        ((s2.raiseBay b 0x44 i c 0 0).modPanel (b / 4) (fun p => { p with tripped := insertSorted (b % 4) p.tripped })).loseBay b 3 ⟨4, b, 0, 0⟩
      | none => s2

def execThermalSample (t b : Nat) (temps : List Nat) (s0 : State) : Host.Outcome State Fault Refusal :=
  .next ((s0.masterTime t).thermal b temps)

end Sys2Proof.Machine
end

