-- ==== Sys2Proof/Machine/Verify.lean ====
section
/-! DEFINITION. Signed objects, version agreement and the record log: RECORD_COMMIT, LOG_COMPACTION (R316, R317, R427, R428,
R452-R459). -/

namespace Sys2Proof.Config

/-! What the NOR holds after the recovery port has acted (R480), free values per use. -/

/-- Firmware copies: trusted A, B, management A, B. -/
opaque norCopy : Nat → Nat → Machine.FwCopy
opaque norHeaders : Nat → List Machine.StoreHeader
opaque norLog : Nat → List (Nat × LogRecord)
/-- Places written, oldest sector, sequence number. -/
opaque norPlace : Nat → Nat → Nat
opaque norCrease : Nat → Assoc Nat Machine.Crease
opaque norTwin : Nat → Option Reg

end Sys2Proof.Config

namespace Sys2Proof.Machine

def State.modStore (s : State) (f : Store → Store) : State := { s with store := f s.store }
def State.modSup (s : State) (f : Supply → Supply) : State := { s with sup := f s.sup }
def State.modRel (s : State) (f : Rel → Rel) : State := { s with rel := f s.rel }
def State.modSpdm (s : State) (f : Spdm → Spdm) : State := { s with spdm := f s.spdm }
def State.modTwin (s : State) (f : Twin → Twin) : State := { s with twin := f s.twin }

/-! ### Version agreement (R316, R317) -/

/-- The peer's range holds major 1. -/
def majorOk (maxMajor minMajor : Nat) : Bool := (agreeMajor 1 1 maxMajor minMajor).isSome

def offerWord (maxMajor minMajor : Nat) : Nat := maxMajor % 256 * 2 ^ 24 + minMajor % 256 * 2 ^ 16

def State.mismatch (s : State) (src i maxMajor minMajor : Nat) : State :=
  s.raise src 0x53 i ownOffer (offerWord maxMajor minMajor) 0

/-! ### Manifests (R454, R457-R459) -/

/-- Fused security version of a class. -/
def State.fusedSvn (s : State) (cls : Nat) : Nat :=
  match cls with
  | 0 => s.fuses.svnTf | 1 => s.fuses.svnMf | 2 => s.fuses.svnPat | 3 => s.fuses.svnWgt | _ => 0

def State.slotProvisioned (s : State) (k : Nat) : Bool := (Assoc.find? s.fuses.owner k).isSome
def State.slotUsable (s : State) (k : Nat) : Bool := s.slotProvisioned k && !s.fuses.revoked.contains k

/-- Slots a class accepts (R452, R466): `owner` for the signed requests that any owner slot may sign. -/
def slotAccepted (cls slot : Nat) (owner : Bool) : Bool :=
  if cls = 2 ∨ cls = 3 ∨ (cls = 4 ∧ owner) then decide (slot < 8) else decide (slot < 4)

/-- Check 2: the digest of the manifest's public keys is the one that its slot holds. -/
def State.keysOk (s : State) (m : Manifest) : Bool := Assoc.find? s.fuses.owner m.keySlot == some (sha384 m.keys)

/-- Checks 1 to 4 of R454 but for the format major. -/
def State.sigOk (s : State) (cls : Nat) (owner : Bool) (m : Manifest) : Bool :=
  m.magic == 0x54314D46 && m.cls == cls && slotAccepted cls m.keySlot owner && s.slotUsable m.keySlot
    && s.keysOk m && m.ecdsaOk && m.hssOk

/-- With the format major, of which the T1 offers 1 alone. -/
def State.signedOk (s : State) (cls : Nat) (owner : Bool) (m : Manifest) : Bool := s.sigOk cls owner m && m.major == 1

/-- Check 6: the payload has the manifest's length and tree digest. -/
def payloadOk (m : Manifest) (payload : List Byte) : Bool := decide (payload.length = m.length) && decide (treeDigest payload = m.digest)
def digestOk (m : Manifest) : Bool := payloadOk m m.payload

/-- Check 5. -/
def State.svnOk (s : State) (cls : Nat) (m : Manifest) : Bool := decide (m.svn ≤ 64 ∧ s.fusedSvn cls ≤ m.svn)

/-- Checks 5 and 6. -/
def State.contentOk (s : State) (cls : Nat) (m : Manifest) : Bool := s.svnOk cls m && digestOk m

def State.accepts (s : State) (cls : Nat) (owner : Bool) (m : Manifest) : Bool := s.signedOk cls owner m && s.contentOk cls m

/-- signature-failure when a signature fails: w1 tells which. -/
def State.signatureFailure (s : State) (cls : Nat) (m : Manifest) : State :=
  match m.ecdsaOk, m.hssOk with
  | true, true => s
  | false, true => s.raise 367 0x73 cls 0 0 0
  | true, false => s.raise 367 0x73 cls 1 0 0
  | false, false => s.raise 367 0x73 cls 2 0 0

/-- image-refused. -/
def State.refuseImage (s : State) (reason k : Nat) : State := s.raise 366 0x72 reason k 0 0

/-- What the T1 raises for an object that R454 does not accept: signature-failure, or image-refused when check 5 or 6 alone fails. -/
def State.objectRefused (s : State) (cls : Nat) (owner : Bool) (m : Manifest) : State :=
  if m.ecdsaOk && m.hssOk then (if s.signedOk cls owner m && !s.contentOk cls m then s.refuseImage 1 0 else s) else s.signatureFailure cls m

def State.modFuses (s : State) (f : Fuses → Fuses) : State := { s with fuses := f s.fuses }

/-- The fused version of class `cls` becomes `n`. -/
def State.setSvn (s : State) (cls n : Nat) : State :=
  s.modFuses (fun x => match cls with
    | 0 => { x with svnTf := n }
    | 1 => { x with svnMf := n }
    | 2 => { x with svnPat := n }
    | 3 => { x with svnWgt := n }
    | _ => x)

/-- R458: an accepted manifest that asks for it raises its class's fused version. The version shows at once; the bits are blown in the
time that follows (log entry 76). -/
def State.advanceSvn (s : State) (m : Manifest) : State :=
  if m.advance ∧ s.fusedSvn m.cls < m.svn ∧ m.svn ≤ 64 then
    let old := s.fusedSvn m.cls
    (s.setSvn m.cls m.svn).modFuses (fun x => { x with
      raising := (m.cls, old, s.clk.nsTotal + Config.svnRaiseNs (m.svn - old)) :: x.raising.filter (fun e => e.1 != m.cls) })
  else s

/-- R458: a power loss leaves each version that is being raised between the old one and the new, a free value. -/
def State.svnCut (s : State) : State :=
  (s.fuses.raising.foldl (fun x e => if s.clk.nsTotal < e.2.2 then
      (x.setSvn e.1 (e.2.1 + (Config.freeReg x.free).toNat % (x.fusedSvn e.1 + 1 - e.2.1))).takeFree
    else x) s).modFuses (fun x => { x with raising := [] })

/-! ### The record log (R415, R425-R428, R462) -/

/-- Records of a sector of 64 KiB, and sectors of the log. -/
def sectorRecords : Nat := 2048
def logSectors : Nat := 64

/-- Written sectors: from the oldest to the one at the head. -/
def State.writtenSectors (s : State) : Nat := ceilDiv s.store.head sectorRecords - s.store.oldest

def State.freeSectors (s : State) : Nat := logSectors - s.writtenSectors

/-- The ledger entry of a type-1 body (R415). -/
def ledgerOf (body : BitVec 128) : Nat × Nat × Nat :=
  (body.toNat % 256, field body.toNat 13 8, field body.toNat 19 14)

/-- The value a record's body carries in its low 32 bits: the LMS index of type 2, the copy of type 3, the copies of type 4 that are selected (bit
0 trusted firmware, bit 8 management firmware), the directory entry of type 5 (log entry 17). -/
def bodyN (r : LogRecord) : Nat := r.body.toNat % 2 ^ 32

/-- What a committed record brings into force. -/
def State.applyRecord (s : State) (r : LogRecord) : State :=
  match r.type with
  | 1 => s.modRel (fun x => { x with ledger := x.ledger ++ [ledgerOf r.body] })
  | 2 => s.modSpdm (fun x => { x with lmsReserved := bodyN r })
  | 3 => s.modStore (fun x => { x with creaseUse := bodyN r % 2 })
  | 5 => s.modStore (fun x => { x with autostart := some (bodyN r) })
  | 4 => s.modStore (fun x => { x with nextTf := bodyN r % 2, nextMf := bodyN r / 256 % 2 })
  | _ => s

/-- R480: what an integrator has written to the NOR through the recovery port is a free value; UFS, fuses and one-time store are out of its
reach. What the records bring into force is read from the log anew (log entry 77). -/
def State.norWritten (s : State) : State :=
  let n := s.free
  let s1 := s.modStore (fun x => { x with
    copyA := Config.norCopy n 0, copyB := Config.norCopy n 1, mgmtA := Config.norCopy n 2, mgmtB := Config.norCopy n 3
    headers := Config.norHeaders n, log := Config.norLog n, head := Config.norPlace n 0, oldest := Config.norPlace n 1
    seq := Config.norPlace n 2, crease := Config.norCrease n, twinCfg := Config.norTwin n, queue := []
    nextTf := 0, nextMf := 0, creaseUse := 0, autostart := none })
  let s2 := (s1.modRel (fun x => { x with ledger := [] })).modSpdm (fun x => { x with lmsReserved := 0 })
  (((s2.store.log.map Prod.snd).mergeSort (fun a b => decide (a.seq ≤ b.seq))).foldl State.applyRecord s2).takeFree

/-- The recovery port stops acting: VIN_IO comes, RCV_EN falls or VIN_AUX goes. -/
def State.portStops (s : State) : State := if s.sup.rcvActs && s.sup.auxIn && !s.sup.ioIn then s.norWritten else s

/-- RECORD_COMMIT: the oldest waiting record's write has completed; a record whose CRC fails is ignored, and its sequence number
and place are used up. -/
def State.recordCommit (s : State) (ok : Bool) : State :=
  match s.store.queue with
  | [] => s
  | r :: rest =>
    let rec' : LogRecord := { r with seq := s.store.seq + 1 }
    let s1 := s.modStore (fun x => { x with
      queue := rest, seq := x.seq + 1, head := x.head + 1, log := if ok then x.log ++ [(x.head, rec')] else x.log })
    if ok then s1.applyRecord rec' else s1

def execRecordCommit (t : Nat) (crcOk : Bool) (s0 : State) : Host.Outcome State Fault Refusal :=
  .next ((s0.masterTime t).recordCommit crcOk)

/-- Is a record live: every type 1, and the highest sequence number of each other type (R427)? -/
def State.liveRecord (s : State) (r : LogRecord) : Bool :=
  r.type == 1 || s.store.log.all (fun e => e.2.type != r.type || decide (e.2.seq ≤ r.seq))

/-- LOG_COMPACTION: with fewer than 4 erased sectors, the live records of the oldest written sector are copied to the head and the
sector is erased. A compaction marker, with the number of the sector, follows the copies (R427, log entry 17). `erases` counts the
erases of all sectors. -/
def State.compact (s : State) : State :=
  if 4 ≤ s.freeSectors ∨ s.writtenSectors ≤ 1 then s
  else
    let old := s.store.oldest
    let inOld (e : Nat × LogRecord) : Bool := e.1 / sectorRecords == old
    let live := ((s.store.log.filter inOld).map Prod.snd).filter s.liveRecord
    let moved := (List.range live.length).map (fun i => (s.store.head + i, live.getD i ⟨0, 0, 0⟩))
    let marker : LogRecord := ⟨6, s.store.seq + 1, BitVec.ofNat 128 (old % logSectors)⟩
    s.modStore (fun x => { x with
      log := x.log.filter (fun e => !inOld e) ++ moved ++ [(x.head + live.length, marker)]
      head := x.head + live.length + 1, seq := x.seq + 1, oldest := old + 1, erases := x.erases + 1 })

def execLogCompaction (t : Nat) (s0 : State) : Host.Outcome State Fault Refusal := .next (s0.masterTime t).compact

end Sys2Proof.Machine
end

