-- ==== Sys2Proof/Machine/Boot.lean ====
section
/-! DEFINITION. Supplies and the boot up to the tests of the bays: POWER_ON_RESET, AUX_GOOD, BOOT, MAIN_ENABLE,
MAIN_ENABLE_TIMEOUT, VIN_MAIN_IN_RANGE, PWR_FAIL_N, SUPPLY_OUT_OF_RANGE, DEVICE_RESET,
MANAGEMENT_WATCHDOG, PCIE_PERST, RECOVERY_PORT_ENABLE, RECOVERY_PORT_DISABLE, EEPROM_READ (R364-R368, R413, R414, R431-R434,
R439, R440, R443, R476, R479, R480). What BAY_CORE_RAIL_UP and BIST do stands here, the commands in Session. -/

namespace Sys2Proof.Machine

/-! ### Registers and storage of the bays -/

/-- Registers of any bay's window and units. -/
def inBays : RegId → Bool
  | .bay _ _ => true
  | .launchTarget _ _ => true
  | .launchAction _ _ => true
  | .launchState _ _ => true
  | .probe _ _ => true
  | .cu _ _ => true
  | .vconst _ _ => true
  | .desc _ _ _ => true
  | .dmaDesc _ _ _ => true
  | .sync _ _ => true
  | .route _ _ => true
  | .cuWin _ _ _ => true
  | .chan _ _ _ => true
  | .ring _ _ => true
  | .mu _ _ => true
  | .vwin _ _ => true
  | .muWin _ _ _ => true
  | .agDesc _ _ _ => true
  | .dspDesc _ _ _ => true
  | _ => false

def isRouter : RegId → Bool
  | .rtr _ _ => true
  | _ => false

/-- The bays that satisfy `p` lose what their rails hold and take power state `pw`; each keeps its basting latency. -/
def State.wipeBays (s : State) (p : Nat → Bool) (pw : BayPower) : State :=
  (List.range 192).foldl (fun x b => if p b then (x.wipeBay b).modBay b (fun y => { y with power := pw, bist := false }) else x) s

/-- Every bay at once. -/
def State.wipeWafer (s : State) (pw : BayPower) : State :=
  let s1 := s.dropRegs inBays
  { s1 with
    mem := s1.mem.filter (fun c => !(c.1 / 2 ^ 44 == 8))
    errs := List.filter (fun e => !(16 * e.1 / 2 ^ 44 == 8)) s1.errs
    cus := []
    mus := []
    bays := (List.range 192).foldl (fun l b => Assoc.set l b { Bay.reset with power := pw, latency := (s.bay b).latency }) s1.bays }

/-! ### The ROM and the trusted firmware (R426, R431, R454) -/

/-- The valid store header with the higher generation. -/
def State.header (s : State) : Option StoreHeader :=
  (s.store.headers.filter (fun h => h.crcOk)).foldl (fun a h => match a with
    | some g => if g.generation < h.generation then some h else a
    | none => some h) none

/-- The copy that passes: the one selected, then the other (R431; which is selected, R427, R466). What R454 raises for a copy that does
not pass is raised for each. -/
def State.goodCopy (s : State) (cls sel : Nat) (a b : FwCopy) : Option Nat × State :=
  let m (i : Nat) : Manifest := if i = 0 then a.manifest else b.manifest
  if s.accepts cls false (m sel) then (some sel, s)
  else
    let s1 := s.objectRefused cls false (m sel)
    if s1.accepts cls false (m (1 - sel)) then (some (1 - sel), s1) else (none, s1.objectRefused cls false (m (1 - sel)))

/-- Boot stops at a step. -/
def State.bootStop (s : State) (step : Nat) : State := s.modSup (fun x => { x with bootStep := step, bootFailed := true })

/-- A step that fails in both copies raises signature-failure: where neither has a bad signature and so has raised it, the spec gives w1 no
value and it is free (log entry 3). -/
def State.bothFail (s : State) (cls step : Nat) (a b : FwCopy) : State :=
  let good (c : FwCopy) : Bool := c.manifest.ecdsaOk && c.manifest.hssOk
  (if good a && good b then (s.raise 367 0x73 cls ((Config.freeReg s.free).toNat % 2 ^ 32) 0 0).takeFree else s).bootStop step

/-- What identifies an object: its tree digest followed by svn (R460, R464). -/
def digestSvn (m : Manifest) : List Byte := digestBytes m.digest ++ leBytes 4 m.svn

/-- R460: the ROM derives the DeviceID and Alias secrets, which changes with the trusted firmware, and locks the readout of the unique
device secret. -/
def State.deriveKeys (s : State) (tf : Manifest) : State :=
  s.modSpdm (fun x => { x with
    deviceId := hmac384 s.fuses.secret Config.deviceLabel, cdi := hmac384 s.fuses.secret (digestSvn tf), locked := true })

/-- The trusted firmware loads TWIN_CFG from the store (R363). -/
def State.loadTwinCfg (s : State) : State :=
  match s.store.twinCfg with
  | some v => s.setReg (.twin .cfg) (v &&& 0x7F7FFF)
  | none => s

/-- Steps 1 and 2, and the start of step 3. -/
def State.romStart (s : State) : State :=
  let s0 := (s.modSup (fun x => { x with seq := 1, bootStep := 1 })).modClk (fun k => { k with running := true })
  match s0.header with
  | none => s0.bootStop 1
  | some h =>
    let s1 := s0.negotiate 4 h.maxMajor h.minMajor h.caps 0
    if !majorOk h.maxMajor h.minMajor then (s1.mismatch 366 4 h.maxMajor h.minMajor).bootStop 1
    else match s1.goodCopy 0 s.store.nextTf s.store.copyA s.store.copyB with
      | (none, s2) => s2.bothFail 0 1 s.store.copyA s.store.copyB
      | (some tf, s2) =>
        let s3 := ((s2.modSup (fun x => { x with tfCopy := tf, bootStep := 2 })).deriveKeys
          (if tf = 0 then s.store.copyA else s.store.copyB).manifest).loadTwinCfg
        match s3.goodCopy 1 s.store.nextMf s.store.mgmtA s.store.mgmtB with
        | (none, s4) => s4.bothFail 1 2 s.store.mgmtA s.store.mgmtB
        | (some mf, s4) => s4.modSup (fun x => { x with mfCopy := mf, bootStep := 3 })

/-- POWER_ON_RESET: VIN_AUX is applied. What is not volatile stays: fuses, the store's committed records, the ledger, the LMS
reservation. -/
def State.powerOn (s : State) : State :=
  { State.reset with
    pending := s.pending
    free := s.free
    hostMem := s.hostMem
    host := { HostSt.reset with msix := s.host.msix, answer := s.host.answer }
    sup := { Supply.reset with rcvEn := s.sup.rcvEn, rcvActs := s.sup.rcvEn }
    rel := { Rel.reset with fuse := s.rel.fuse, ledger := s.rel.ledger }
    store := s.store.boot s.fuses.serial
    fuses := s.fuses
    spdm := { Spdm.reset with lmsUsed := s.spdm.lmsReserved, lmsReserved := s.spdm.lmsReserved } }

def execPowerOnReset (_t : Nat) (s : State) : Host.Outcome State Fault Refusal := .next s.powerOn

/-- AUX_GOOD. -/
def execAuxGood (t : Nat) (s0 : State) : Host.Outcome State Fault Refusal :=
  let s := s0.masterTime t
  .next (if s.sup.auxIn then s.modSup (fun x => { x with auxGood := true }) else s)

/-- R271: every endpoint stores the latency that the loop-back measures; `lat` has it by clock domain, 0-359. After a device reset it is a
free value (log entry 43). -/
def State.loopBack (s : State) (lat : List Nat) : State :=
  if lat = [] then s
  else
    { s with
      bays := (List.range 192).map (fun b => (b, { s.bay b with latency := min (lat.getD b 0) 48 }))
      sup := { s.sup with latency := (List.range 168).map (fun i => (192 + i, min (lat.getD (192 + i) 0) 48)) } }

/-- BOOT: VIN_IO is in range; the ROM starts unless the recovery port holds it (R480) or the module has shut down (R367). -/
def State.boot (s : State) (lat : List Nat) : State :=
  if !s.sup.auxIn ∨ s.sup.bootStep ≠ 0 ∨ s.sup.seq = 7 then s
  else
    let s1 := (s.portStops.modSup (fun x => { x with ioIn := true, seq := 1, seqAt := s.clk.nsTotal }))
    let s2 := s1.loopBack lat
    if s2.sup.rcvActs then s2 else s2.romStart

def execBoot (t : Nat) (lat : List Nat) (s0 : State) : Host.Outcome State Fault Refusal := .next ((s0.masterTime t).boot lat)

/-! ### MAIN (R365, R366) -/

/-- Step 4 begins; every site starts to train. -/
def State.startTraining (s : State) : State :=
  (List.range 96).foldl (fun (x : State) t => x.modSite t (fun y => { y with training := true }))
    (s.modSup (fun x => { x with bootStep := 4 }))

/-- The intermediate and all panel fabric rails are up; a feed latched open stays open. -/
def State.fabricUp (s : State) : State :=
  let s1 := s.modSup (fun x => { x with inter := true, seq := 4, seqAt := s.clk.nsTotal })
  let s2 := (List.range 48).foldl (fun (x : State) p => x.modPanel p (fun y => { y with fabricOn := !y.fabricOpen })) s1
  s2.installTables.startTraining

/-- MAIN_ENABLE: the management firmware asks for it in step 3. -/
def State.mainOn (s : State) : State :=
  if s.sup.bootStep ≠ 3 ∨ s.sup.bootFailed ∨ s.sup.mainEnable ∨ s.sup.seq = 7 then s
  else
    let s1 := s.modSup (fun x => { x with mainEnable := true, seq := 2 })
    if s.sup.mainIn then s1.fabricUp else s1

def execMainEnable (t : Nat) (s0 : State) : Host.Outcome State Fault Refusal := .next (s0.masterTime t).mainOn

/-- VIN_MAIN_IN_RANGE: at both connectors (R476; log entry 77). -/
def State.mainArrives (s : State) : State :=
  let s1 := s.modSup (fun x => { x with j1In := true, j2In := true })
  if s.sup.mainEnable ∧ s.sup.bootStep = 3 then s1.fabricUp else s1

def execVinMainInRange (t : Nat) (s0 : State) : Host.Outcome State Fault Refusal := .next (s0.masterTime t).mainArrives

/-- supply-fault, with the bits of PWR_FAULT it sets. -/
def State.supplyFault (s : State) (bits extra mv : Nat) : State :=
  (s.raise 365 0x45 bits mv 0 0).hwSet (.pwr .fault) (fun r => r ||| regOf (bits ||| extra))

/-- MAIN_ENABLE_TIMEOUT: 100 ms after MAIN_ENABLE; boot goes on with no bay. -/
def State.mainTimeout (s : State) : State :=
  if !s.sup.mainEnable ∨ s.sup.mainIn ∨ s.sup.bootStep ≠ 3 then s
  else
    ((s.supplyFault 2 256 (s.regN (.pwr .vinMain) % 65536)).modSup (fun x => { x with mainEnable := false, seq := 1 })).startTraining

def execMainEnableTimeout (t : Nat) (s0 : State) : Host.Outcome State Fault Refusal := .next (s0.masterTime t).mainTimeout

/-! ### Bay rails and tests (R365, R377, R413, R414, R434) -/

/-- May the bay's rail come up: off, with its panel up and its feed closed? -/
def State.mayRise (s : State) (b : Nat) : Bool :=
  let p := s.panel (b / 4)
  (s.bay b).power == .off && p.fabricOn && !p.feedsOpen.contains (b % 4) && !p.tripped.contains (b % 4)

/-- Grade 0x05, an equal share of the cap (R434). Soft start, header staging and phase test take 160 µs (R365). -/
def State.bayUp (s : State) (b : Nat) : State :=
  s.modBay b (fun y => { y with
    power := .active, bist := false, activeAt := s.clk.nsTotal + 160000, modes := { y.modes with grade := 5, capFrac := 256 } })

/-- BAY_CORE_RAIL_UP: the rails of panel `p`, in panel order, once the stacks have trained. `tests` lists what the phase tests
find: bay of the panel, phase, short. -/
def State.railsUp (s : State) (p : Nat) (tests : List (Nat × Nat × Bool)) : State :=
  let bs := ((List.range 4).map (fun i => 4 * p + i)).filter s.mayRise
  if 48 ≤ p ∨ bs = [] ∨ s.sup.bootStep < 4 ∨ s.hbm.trained.length < 24 ∨ (List.range (4 * p)).any s.mayRise then s
  else
    let s1 := bs.foldl (fun x b => x.bayUp b) (s.modSup (fun x => { x with seq := 5, bootStep := max x.bootStep 5 }))
    tests.foldl (fun x e => if bs.contains (4 * p + e.1) then x.phaseFailed (4 * p + e.1) e.2.1 e.2.2 else x) s1

/-- A cluster the ledger marks, entries on their way included. -/
def State.ledgerMarks (s : State) (m : Nat × Nat × Nat) : Bool :=
  s.rel.ledger.contains m || s.store.queue.any (fun r => r.type == 1 && ledgerOf r.body == m)

/-- R221, R236, R414, R416: skip paths, selectors and bypass of a bay's rows follow its darn map; a row whose bad cluster is not the spare
uses the spare. -/
def State.setPaths (s : State) (b : Nat) : State :=
  let rows := (List.range 36).flatMap (fun ly => match s.badCols b ly with | [d] => [(b, ly, d)] | _ => [])
  s.modRel (fun x => { x with
    paths := rows ++ x.paths.filter (fun m => m.1 != b)
    spares := (rows.filter (fun m => decide (m.2.2 < 32))).map (fun m => (b, m.2.1)) ++ x.spares.filter (fun m => m.1 != b) })

/-- R414 for bay `b`, whose BIST found `bad`. A discrepancy counts as one of this boot until the inventory is written (R435). -/
def State.mergeBay (s : State) (b : Nat) (bad : List (Nat × Nat)) : State :=
  let found := (bad.filter (fun e => decide (e.1 < 36 ∧ e.2 ≤ 32))).map (fun e => (b, e.1, e.2))
  let s1 := s.modRel (fun x => { x with
    found := x.found.filter (fun m => m.1 != b) ++ found, runtime := x.runtime.filter (fun m => m.1 != b), mapped := insertSorted b x.mapped })
  let odd := s.rel.fuse.filter (fun m => m.1 == b && !found.contains m)
  let s2 := odd.foldl (fun (x : State) m => ((x.raise 368 0x34 b m.2.1 m.2.2 0).count (.rel .discrepancy) 1).modRel (fun r =>
    { r with discrepancies := if s.sup.inventory then r.discrepancies else r.discrepancies + 1 })) s1
  (found.foldl (fun x m => if s.rel.fuse.contains m || s.ledgerMarks m then x else x.ledgerAppend b m.2.1 m.2.2 1 0) s2).setPaths b

/-- The first row of a bay with a second bad cluster, and that cluster's column. -/
def State.lostRow (s : State) (b : Nat) : Nat × Nat :=
  (((List.range 36).find? (fun ly => decide (2 ≤ (s.badCols b ly).length))).map (fun ly => (ly, (s.badCols b ly).getD 1 0))).getD (0, 0)

/-- Has every bay whose rail can come up been tested (R431)? -/
def State.allTested (s : State) : Bool :=
  (List.range 192).all (fun b => !s.mayRise b && ((s.bay b).power != .active || (s.bay b).bist))

/-- A mailbox command 0x0030 whose resets and scrub are over is answered (R326). -/
def State.resetAnswer (s : State) : State :=
  if field (s.regN (.mboxReq 0)) 15 0 = 0x30 ∧ bitOf (s.regN (.host .mboxStatus)) 31 ∧ s.host.mbox = none ∧ s.sup.computeDue = none
      ∧ s.sup.bayDue = [] ∧ !s.hbm.scrubbing
      ∧ s.allTested then
    s.modHost (fun h => { h with mbox := some (0, field (s.regN (.mboxReq 0)) 31 24, []) })
  else s

/-- BIST: its bay has come up and has not been tested. With the last of the boot the merge is done (step 7, R431). -/
def State.bistDone (s : State) (b : Nat) (bad : List (Nat × Nat)) : State :=
  if 192 ≤ b ∨ (s.bay b).power ≠ .active ∨ (s.bay b).bist then s
  else
    let s1 := ((s.mergeBay b bad).modBay b (fun y => { y with bist := true, activeAt := min y.activeAt s.clk.nsTotal })).modSup (fun x => { x with bootStep := max x.bootStep 6 })
    let s2 := s1.modPanel (b / 4) (fun p => { p with waking := if p.waking = some b then none else p.waking })
    let s3 := if s2.rowLost b then
        (((s2.modRel (fun x => { x with unavailable := insertSorted b x.unavailable })).darken b).unavailable b 0
          ⟨1, b, (s2.lostRow b).1, (s2.lostRow b).2⟩).inventoryAgain
      else s2.modRel (fun x => { x with unavailable := x.unavailable.filter (· ≠ b) })
    (if s3.sup.bootStep = 6 ∧ s3.allTested then s3.modSup (fun x => { x with bootStep := 7 }) else s3).resetAnswer

/-! ### Shutdown (R367, R368) -/

/-- Every resident context halts (R367). -/
def State.haltAll (s : State) : State :=
  (List.range 4).foldl (fun x k => match x.ctx? k with
    | some c => if c.halted then x else x.haltCtx k false
    | none => x) s

/-- The optical sites lose their I/O rails. -/
def State.sitesOff (s : State) : State := { s with sites := s.sites.map (fun (t, x) => (t, { x with up := false, training := false, wl := 0 })) }

/-- The steps of R367 after the supply fault: the fatal line, the void and the halts, then feeds, intermediate and I/O rails. The
void's record stands before the halts that carry it, and the time master asks no voter any more, since it reports voter 0x1FF (log
entry 18). -/
def State.goDown (s : State) : State :=
  let s1 := s.sendFatal
  let s2 := if s.stitch.session then
      (s1.setReg (.stitch .lastVoid) (regOf (0xA * 2 ^ 28 + 0x1FF * 2 ^ 16 + s.stitchLo 16))).modStitch (fun k => { k with
        supplyVoid := true, voterMask := 0 })
    else s1
  let s3 := s2.haltAll.wipeWafer .dark
  let s4 := (List.range 48).foldl (fun (x : State) p => x.modPanel p (fun y => { y with fabricOn := false, wakes := [], waking := none })) s3
  ((s4.sitesOff.modSup (fun x => { x with
    inter := false, mainEnable := false, inventory := false, bootStep := 0, seq := 7, seqAt := s.clk.nsTotal })).modHost (fun h => { h with
      linkUp := false })).modTwin (fun x => { x with lineOut := none })

/-- R367 from its first step. -/
def State.shutdown (s : State) (bits mv : Nat) : State := (s.supplyFault bits 0 mv).goDown.svnCut

/-- PWR_FAIL_N: an assertion shorter than the filter is ignored (R477). -/
def State.powerFail (s : State) (dur : Nat) : State :=
  if dur < 200 ∨ s.sup.seq = 7 then s else (s.modSup (fun x => { x with pwrFail := true })).shutdown 1 0

def execPwrFailN (t dur : Nat) (s0 : State) : Host.Outcome State Fault Refusal := .next ((s0.masterTime t).powerFail dur)

/-- What the supplies in `mask` leave of the pins: bit 0 is MAIN at J2, 1 MAIN at J1, 2 IO, 3 AUX. With VIN_IO gone and RCV_EN high the
recovery port acts; with VIN_AUX gone it acts no more (R480). -/
def Supply.without (x : Supply) (mask : BitVec 4) : Supply :=
  let a := mask.getLsbD 3
  { x with
    j1In := x.j1In && !mask.getLsbD 1, j2In := x.j2In && !mask.getLsbD 0
    ioIn := x.ioIn && !mask.getLsbD 2, auxIn := x.auxIn && !a, auxGood := x.auxGood && !a
    rcvActs := (x.rcvActs || (x.rcvEn && x.ioIn && mask.getLsbD 2)) && !a }

/-- SUPPLY_OUT_OF_RANGE, by connector (`Supply.without`), of the supplies that were in range; `mv` is the voltage of the
lowest-numbered of them. VIN_MAIN leaves its range with the first of its connectors (R476). What PWR_FAIL_N has announced is no fault. -/
def State.supplyLost (s : State) (mask : BitVec 4) (mv durNs : Nat) : State :=
  let m := (mask.getLsbD 1 || mask.getLsbD 0) && s.sup.mainIn
  let i := mask.getLsbD 2 && s.sup.ioIn
  let a := mask.getLsbD 3 && s.sup.auxIn
  let bits := 2 * b2n m + 4 * b2n i + 8 * b2n a
  if durNs ≤ 10000 then s
  else if bits = 0 then s.modSup (fun x => x.without mask)
  else
    let s0 := if a then s.portStops else s
    let s1 := (if s.sup.seq ≠ 7 then s0.shutdown bits mv else if s.sup.pwrFail then s0 else s0.supplyFault bits 0 mv).modSup (fun x => x.without mask)
    if i || a then s1.modEvt (fun e => { e with inflight := [], pending := [] }) else s1

def execSupplyOutOfRange (t : Nat) (mask : BitVec 4) (mv durNs : Nat) (s0 : State) : Host.Outcome State Fault Refusal :=
  .next ((s0.masterTime t).supplyLost mask mv durNs)

/-! ### Device reset and the port's resets (R439, R440, R443) -/

/-- AUX registers and BOOT_RESET_CAUSE stay (R440). -/
def keptByDevice : RegId → Bool
  | .pwr .fault => true
  | .boot .resetCause => true
  | _ => false

/-- BOOT_RESET_CAUSE after a device reset. -/
def causeWord (old cause : Nat) : Nat := old % 2 ^ 16 / 2 ^ 8 * 2 ^ 8 + cause + min (old / 2 ^ 16 + 1) 0xFFFF * 2 ^ 16

/-- What VIN_AUX holds and the pins of the supplies are as they were in `old` (R440). -/
def State.auxKept (s old : State) : State :=
  { s with
    regs := old.regs.filter (fun e => keptByDevice e.1)
    sup := { Supply.reset with
      auxIn := old.sup.auxIn, ioIn := old.sup.ioIn, j1In := old.sup.j1In, j2In := old.sup.j2In, auxGood := old.sup.auxGood, rcvEn := old.sup.rcvEn, rcvActs := old.sup.rcvActs
      eepromOut := old.sup.eepromOut } }

/-- A device reset: the internal shutdown of R367 with the supplies applied, then boot from step 1, which measures the latencies anew: a free
value each. -/
def State.deviceReset (s : State) (cause : Nat) : State :=
  if s.sup.seq = 7 ∨ !s.sup.ioIn then s
  else
    let s1 := s.goDown.powerOn.auxKept s
    let s2 := ((s1.setReg (.boot .resetCause) (regOf (causeWord (s.regN (.boot .resetCause)) cause))).loopBack
      ((List.range 360).map (Config.loopBack s.free))).takeFree
    let s3 := if s.spdm.grant then s2.raise 367 0x74 0 0 0 0 else s2
    if s3.sup.rcvActs then s3 else s3.romStart

/-- DEVICE_RESET: a write of BOOT_RESET; any other value is discarded. -/
def execDeviceReset (t : Nat) (value : Reg) (s0 : State) : Host.Outcome State Fault Refusal :=
  let s := s0.masterTime t
  .next (if field value.toNat 31 24 = 0xC4 ∧ bitOf value.toNat 0 then s.deviceReset 1 else s)

/-- MANAGEMENT_WATCHDOG: the trusted firmware runs once step 1 has passed. -/
def execManagementWatchdog (t : Nat) (s0 : State) : Host.Outcome State Fault Refusal :=
  let s := s0.masterTime t
  .next (if 3 ≤ s.sup.bootStep then s.deviceReset 2 else s)

/-- The IDE stream ends (R472). -/
def State.ideEnd (s : State) : State := s.modSpdm (fun x => { x with ide := none })

/-- PCIE_PERST: the port's link and configuration space reset; running DMA channels stop with status 2. -/
def State.perst (s : State) : State :=
  let s1 := ((s.modHost (fun h => { h with
    linkUp := false, linkWidth := 0, linkRate := 0, aer := [], bar4Log2 := 41, d3hot := false })).setReg (.host .link) 0).ideEnd
  (List.range 64).foldl (fun x d => if (x.hdma d).running then x.dmaStop d 2 else x) s1

def execPciePerst (t : Nat) (s0 : State) : Host.Outcome State Fault Refusal := .next (s0.masterTime t).perst

/-! ### The recovery port and the identity EEPROM (R479, R480) -/

/-- RECOVERY_PORT_ENABLE: RCV_EN rises. With VIN_IO in range it changes nothing. -/
def execRecoveryPortEnable (t : Nat) (s0 : State) : Host.Outcome State Fault Refusal :=
  let s := s0.masterTime t
  .next (s.modSup (fun x => { x with rcvEn := true, rcvActs := x.rcvActs || (x.auxIn && !x.ioIn) }))

/-- RECOVERY_PORT_DISABLE: RCV_EN falls; a ROM that was held off starts if VIN_IO is in range. -/
def State.portOff (s : State) : State :=
  let s1 := s.portStops.modSup (fun x => { x with rcvEn := false, rcvActs := false })
  if s.sup.rcvActs ∧ s.sup.ioIn ∧ s.sup.bootStep = 0 ∧ s.sup.seq ≠ 7 then s1.romStart else s1

def execRecoveryPortDisable (t : Nat) (s0 : State) : Host.Outcome State Fault Refusal := .next (s0.masterTime t).portOff

def partText (part : Nat) : List Nat :=
  [0x4D, 0x4C, 0x4D, 0x2D, 0x54, 0x31, 0x2D, 0x34, 0x38, match part with | 0 => 0x58 | 1 => 0x53 | _ => 0x4C]

/-- Byte `a` of the EEPROM. -/
def Fuses.eeprom (f : Fuses) (a : Nat) : Nat :=
  if a < 8 then f.serial.toNat / 2 ^ (8 * a) % 256
  else if a < 24 then (partText f.part).getD (a - 8) 0
  else if a < 27 then (Config.madeOn (a - 24)).toNat
  else if a = 28 then f.major % 16 * 16 + f.minor % 16
  else if a = 27 ∨ a = 29 then 0
  else 0xFF

/-- EEPROM_READ: readable with VIN_AUX alone. -/
def execEepromRead (t addr : Nat) (s0 : State) : Host.Outcome State Fault Refusal :=
  let s := s0.masterTime t
  .next (if s.sup.auxIn then s.modSup (fun x => { x with eepromOut := s.fuses.eeprom (addr % 256) }) else s)

end Sys2Proof.Machine
end

