-- ==== Sys2Proof/Machine/Validate.lean ====
section
/-! DEFINITION. What the T1 checks of an image when it loads it: lanes, descriptors, windows, route entries, tables (R71, R80, R81,
R93, R94, R109, R115, R117, R133, R136-R145, R168, R173, R177, R181, R192, R193, R209, R212-R214, R219, R256, R260, R283, R318,
R387, R390); reason 11 of image-refused. -/

namespace Sys2Proof.Machine

/-! ### The image's registers -/

/-- The value an image gives a register; the last word named stands. -/
def imgWord (i : Image) (id : RegId) : Nat :=
  (i.regWords.foldl (fun v e => if e.1 = id then e.2 else v) (regReset id)).toNat

/-- Units an image names in its registers, by a selector. -/
def imgUnits (i : Image) (f : RegId → Option Nat) : List Nat :=
  i.regWords.foldl (fun l e => match f e.1 with | some n => insertSorted n l | none => l) []

def inSet (i : Image) (b : Nat) : Bool := i.bays.contains b

/-- R209: the link is connected, to a CU of the bay set. -/
def linkOk (i : Image) (u link : Nat) : Bool := match neighbour u link with | some v => inSet i (bayOfCu v) | none => false

/-! ### Operand descriptors (R93, R109, R115, R136-R145) -/

def imgDesc (i : Image) (u d : Nat) : Desc :=
  Desc.ofWords (imgWord i (.desc u d 0)) (imgWord i (.desc u d 1)) (imgWord i (.desc u d 2)) (imgWord i (.desc u d 3))

def lineMax (d : Desc) : Nat := worstSize { d with count := 0, pitch := 0, scaleType := 0, skipMap := false }

/-- Types R138 allows an encoding. -/
def encodingType (enc t : Nat) : Bool :=
  match enc with
  | 0 => decide (t ≤ 10)
  | 1 => decide (t ≤ 10)
  | 2 => decide (1 ≤ t ∧ t ≤ 9)
  | 3 => decide (1 ≤ t ∧ t ≤ 9)
  | _ => t == 1 || t == 2 || t == 3 || t == 4 || t == 8

/-- Encodings that cross a link (R138). -/
def linkEncoding (enc t : Nat) : Bool := enc == 0 || (enc == 1 && (t == 1 || t == 2 || t == 3 || t == 4 || t == 8))

/-- A descriptor that is loaded: no reserved value, unused fields zero, the encoding where it may be. One whose words are all zero
is unused. -/
def descOk (i : Image) (u d : Nat) : Bool :=
  let w (k : Nat) : Nat := imgWord i (.desc u d k)
  let x := imgDesc i u d
  let w0 := w 0
  let isLink := isLinkSrc x.source
  let fixed := decide (6 ≤ x.source)
  if w 0 = 0 ∧ w 1 = 0 ∧ w 2 = 0 ∧ w 3 = 0 then true
  else
    decide (x.source ≤ 8 ∧ x.encoding ≤ 4 ∧ x.etype ≤ 10 ∧ x.scaleType ≤ 2 ∧ field w0 17 15 ≤ 5 ∧ field w0 7 6 ≤ 2
      ∧ field w0 5 0 = 0 ∧ x.base % 16 = 0 ∧ 1 ≤ x.kLen ∧ x.kLen ≤ 2048)
    && (isLink || decide (x.base < (if x.source = 0 then 16384 else if x.source = 1 then 196608 else if x.source = 8 then 128 else 2 ^ 32)))
    && (x.encoding == 2 || (x.nmN == 0 && field w0 7 6 == 0))
    && (x.encoding != 2 || (decide (1 ≤ x.nmN ∧ x.nmN ≤ 8) && x.kLen % x.nmM == 0))
    && (x.scaleType != 0 || (field w0 17 15 == 0 && x.share == 0 && (isLink || x.scaleOff == 0)))
    && (x.scaleType == 0 || (x.etype != 0 && x.etype != 1 && x.etype != 2 && x.etype != 10 && x.encoding != 4))
    && (decide (x.share < 2) || field w0 17 15 == 0)
    && (x.skipMap || isLink || x.skipOff == 0)
    && (!x.skipMap || decide (x.encoding ≤ 2))
    && encodingType x.encoding x.etype
    && (!fixed || (x.encoding == 0 && x.scaleType == 0 && !x.skipMap))
    && (!(x.source == 6 || x.source == 7) || x.etype == 0 || x.etype == 10)
    && (!isLink || (linkEncoding x.encoding x.etype && x.scaleType == 0 && !x.skipMap && linkOk i u (x.source - 2)))
    && (isLink || x.pitch == 0 || (x.encoding != 0 && x.encoding != 2) || decide (lineMax x ≤ 16 * x.pitch))

/-- An operand of the STE (R81, R109, R138). A link source ignores pitch (R93), so its lines count at full size. -/
def steOperandOk (x : Desc) : Bool :=
  let y := if isLinkSrc x.source then { x with pitch := 0 } else x
  decide (x.source ≤ 5 ∧ 1 ≤ x.etype ∧ x.etype ≤ 9 ∧ 1 ≤ x.kLen) && decide (worstSize y ≤ 4096)

/-- A destination (R115, R138). -/
def destOk (x : Desc) : Bool :=
  decide (x.encoding ≤ 1 ∧ 1 ≤ x.kLen) && !x.skipMap && (x.scaleType == 0 || x.share == 0) && x.source != 6 && x.source != 7

/-! ### Lanes (R71, R80, R117, R212, R213, R256, R387) -/

/-- What one tile must be at the start of a loop body: the classes its uses in the body allow before the body fixes one (bit 0
floating, bit 1 integer), and whether the body has fixed one. -/
structure TileNeed where
  allowed : Nat
  fixed : Bool
  deriving DecidableEq, Repr

/-- A loop the walk is in: its count, and what the back edge must bring for each tile. -/
structure LoopFrame where
  count : Nat
  need0 : TileNeed
  need1 : TileNeed
  deriving DecidableEq, Repr

/-- What a walk along a lane carries: the loops it is in, innermost first; whether END has been met; whether a rule is broken;
and the accumulator class of each tile: 0 not yet known, 1 floating, 2 integer. -/
structure LaneWalk where
  loops : List LoopFrame
  ended : Bool
  bad : Bool
  tile0 : Nat
  tile1 : Nat
  deriving DecidableEq, Repr

def LaneWalk.tile (w : LaneWalk) (t : Nat) : Nat := if t = 0 then w.tile0 else w.tile1
def LaneWalk.setTile (w : LaneWalk) (t v : Nat) : LaneWalk := if t = 0 then { w with tile0 := v } else { w with tile1 := v }

/-- A use of a tile that allows the classes `ok` and, if `fixes`, leaves one of its own: each loop the walk is in notes it. -/
def TileNeed.use (n : TileNeed) (ok : Nat) (fixes : Bool) : TileNeed :=
  { allowed := if n.fixed then n.allowed else n.allowed &&& ok, fixed := n.fixed || fixes }

def LoopFrame.use (f : LoopFrame) (t ok : Nat) (fixes : Bool) : LoopFrame :=
  if t = 0 then { f with need0 := f.need0.use ok fixes } else { f with need1 := f.need1.use ok fixes }

/-- R117: a tile of class `k` is used by what allows the classes `ok`. -/
def LaneWalk.use (w : LaneWalk) (t ok : Nat) (fixes : Bool) : LaneWalk :=
  let k := w.tile t
  { w with bad := w.bad || (k != 0 && k &&& ok == 0), loops := w.loops.map (fun f => f.use t ok fixes) }

/-- ENDLOOP: a loop that runs more than once brings the classes at its end back to its start. -/
def LaneWalk.endloop (w : LaneWalk) : LaneWalk :=
  match w.loops with
  | [] => { w with bad := true }
  | f :: rest =>
    let clash (k : Nat) (n : TileNeed) : Bool := k != 0 && k &&& n.allowed == 0
    { w with loops := rest, bad := w.bad || (decide (2 ≤ f.count) && (clash w.tile0 f.need0 || clash w.tile1 f.need1)) }

def controlOk (x : Nat) : Bool :=
  let op := field x 127 120
  decide (op ≤ 0x0A ∨ op = 0x0F) && (op != 9 || decide (field x 111 104 ≤ 8))

/-- R117: the classes of tile a DRAIN to this destination may read. -/
def drainClasses (d : Desc) : Nat :=
  (if d.etype != 10 && (!isIntType d.etype || d.scaleType != 0) then 1 else 0) + (if isIntType d.etype && d.scaleType == 0 then 2 else 0)

/-- The tensor slot: legal pair, sizes, accumulator types. The classes follow the bundles that can be reached, every predicated
slot taken as acting (log entry 41). -/
def LaneWalk.tensor (w : LaneWalk) (i : Image) (u x : Nat) : LaneWalk :=
  let op := tensorOpOf x
  match field x 31 28 with
  | 0 => w
  | 3 =>
    let d := imgDesc i u op.descD
    let w1 := if w.ended then w else w.use op.tile (drainClasses d) false
    { w1 with bad := w1.bad || !destOk d || d.source == 8 }
  | 1 =>
    let a := imgDesc i u op.descA
    let b := imgDesc i u op.descB
    let w1 := if w.ended then w else (w.use op.tile 3 true).setTile op.tile (if intClass a then 2 else 1)
    { w1 with bad := w1.bad || !steOperandOk a || !steOperandOk b || !legalPair a b }
  | 2 =>
    let a := imgDesc i u op.descA
    let b := imgDesc i u op.descB
    let k := if intClass a then 2 else 1
    let w1 := if w.ended then w else (w.use op.tile k true).setTile op.tile k
    { w1 with bad := w1.bad || !steOperandOk a || !steOperandOk b || !legalPair a b }
  | _ => { w with bad := true }

def vectorOk (i : Image) (u x : Nat) : Bool :=
  let op := vecOpOf x
  let X := imgDesc i u op.descX
  let Y := imgDesc i u op.descY
  let D := imgDesc i u op.descD
  x == 0 || (decide (op.alu ≤ 9 ∧ op.pack ≤ 3) && decide (X.source ≤ 7)
    && (op.descY == 15 || (Y.source != 6 && Y.source != 7)) && destOk D)

/-- The move slot; a SEND names an enabled channel. -/
def moveOk (i : Image) (u x : Nat) : Bool :=
  decide (field x 19 16 ≤ 5) && (field x 19 16 != 2 || bitOf (imgWord i (.chan u (field x 15 13) 0)) 31)

/-- The link slot: its links are connected, SPIN writes a dense scratchpad destination (R138), AGSTART names a descriptor with an
op. -/
def linkSlotOk (i : Image) (u x : Nat) : Bool :=
  match field x 19 16 with
  | 2 => let d := imgDesc i u (field x 13 10)
    linkOk i u (field x 15 14) && destOk d && d.source == 0 && d.encoding == 0
  | 3 => field (imgWord i (.agDesc (u / 4) (field x 13 10) 0)) 31 28 != 0
  | 4 => field x 15 14 != 3
  | n => decide (n ≤ 1)

/-- One bundle of the walk. Nothing branches past END, so no bundle after it is reached; the opcodes, the pairing of loops and
what the slots name are checked in every bundle of the lane (R71). -/
def LaneWalk.bundle (w : LaneWalk) (i : Image) (u x : Nat) : LaneWalk :=
  let op := field x 127 120
  let w1 := w.tensor i u (field x 103 72)
  let ok := controlOk x && vectorOk i u (field x 71 40) && moveOk i u (field x 39 20) && linkSlotOk i u (field x 19 0)
  let w2 := { w1 with bad := w1.bad || !ok || (op == 2 && w.loops.length == 4), ended := w.ended || op == 0x0F }
  if op = 2 then { w2 with loops := ⟨field x 119 108, ⟨3, false⟩, ⟨3, false⟩⟩ :: w2.loops }
  else if op = 3 then w2.endloop
  else w2

def laneOk (i : Image) (u : Nat) (ws : List Word) : Bool :=
  let w := ws.foldl (fun (w : LaneWalk) (x : Word) => w.bundle i u x.toNat) (⟨[], false, false, 0, 0⟩ : LaneWalk)
  inSet i (bayOfCu u) && decide (ws.length ≤ 512) && w.ended && !w.bad && w.loops.isEmpty

/-! ### Route entries, link division, windows (R177, R214, R219) -/

def routeOk (i : Image) (u e : Nat) : Bool :=
  let ls := List.range 4
  let named (l : Nat) : Bool := ls.any (fun o => srcOf e o == l + 1)
  let used (l : Nat) : Bool := srcOf e l != 0 || sinkOf e l != 0 || named l
  field e 29 28 == 0 && tokMuOf e != 3
    && ls.all (fun l => decide (srcOf e l ≤ 8 ∧ sinkOf e l ≤ 5) && !((sinkOf e l == 2 || sinkOf e l == 3) && named l)
      && (!used l || linkOk i u l))
    && decide ((ls.filter (fun l => sinkOf e l == 2)).length + (if tokMuOf e = 0 then 0 else 1) ≤ 1)

def linkCfgOk (v : Nat) : Bool :=
  let ds := (List.range 4).map (fun l => field v (5 * l + 4) (5 * l))
  ds.all (fun d => decide (2 ≤ d ∧ d ≤ 26)) && decide (ds.foldl (· + ·) 0 ≤ 32)

/-- A window descriptor of a store of `size` bytes; one that is closed and all zero is unused. -/
def winOk (w : Nat → Nat) (size : Nat) : Bool :=
  let v := winOf w
  (w 0 == 0 && w 1 == 0 && w 2 == 0 && w 3 == 0) ||
  (field (w 0) 24 18 == 0 && field (w 1) 31 14 == 0 && field (w 2) 31 25 == 0 && field (w 2) 15 9 == 0 && field (w 3) 31 25 == 0
    && field (w 3) 15 9 == 0 && v.base % 16 == 0 && decide (1 ≤ v.bytes ∧ v.base + v.bytes ≤ size ∧ v.x0 ≤ v.x1 ∧ v.y0 ≤ v.y1))

/-! ### The MU (R168, R173, R181, R192, R193) -/

def agOk (w : Nat → Nat) : Bool :=
  let x := agDescOf w
  let indirect := x.op == 3 || x.op == 4
  decide (x.op ≤ 4 ∧ x.port ≤ 2 ∧ x.idxSrc ≤ 2 ∧ x.base % 16 = 0 ∧ x.idxBase % 16 = 0)
    && field (w 0) 16 0 == 0 && field (w 1) 31 18 == 0 && field (w 7) 29 18 == 0
    && (indirect || w 7 == 0) && (x.idxSrc == 0 || x.idxBase == 0) && (x.signal || (x.sigCu == 0 && x.sigCounter == 0))
    && (x.op != 0 || (List.range 8).all (fun k => w k == 0))
    && (x.port != 2 || (x.op == 1 && x.wide))

/-- Words an image gives a versioned-window register, in any place of MU `c`, as slice, first row, rows. -/
def imgWindows (i : Image) (c : Nat) : List (Nat × Nat × Nat) :=
  ((List.range 16).map (fun k => imgWord i (.vwin c k))).filterMap (fun r =>
    if bitOf r 31 then some (field r 26 24, field r 8 0, field r 17 9) else none)

def rowsMeet (a b : Nat × Nat × Nat) : Bool := a.1 == b.1 && decide (a.2.1 < b.2.1 + b.2.2 ∧ b.2.1 < a.2.1 + a.2.2)

/-- Windows of MU `c` that stand for other contexts. -/
def State.standing (s : State) (c : Nat) : List (Nat × Nat × Nat) :=
  ((List.range 16).map (s.vwinOf c)).filterMap (fun v => if v.en then some (v.slice, v.base, v.rows) else none)

def disjointRows : List (Nat × Nat × Nat) → Bool
  | [] => true
  | a :: l => l.all (fun b => !rowsMeet a b) && disjointRows l

def State.windowsOk (s : State) (i : Image) (c : Nat) : Bool :=
  let own := imgWindows i c
  let all := own ++ s.standing c
  let on := imgWord i (.mu c .slicePwr)
  decide (all.length ≤ 16) && disjointRows all
    && own.all (fun w => decide (w.2.2 % 2 = 0 ∧ 0 < w.2.2 ∧ w.2.1 + w.2.2 ≤ 384) && bitOf on w.1)

/-- R181: what an image that powers off slice `k` of MU `c` may not hold there; nor may it lie in another context's footprint. -/
def State.slicesOk (s : State) (i : Image) (c : Nat) : Bool :=
  let on := imgWord i (.mu c .slicePwr)
  let others (k : Nat) : Bool := s.ctxs.any (fun e => e.2.image.footprint.contains (12 * c + k))
  let wins := (List.range 16).map (fun d => winOf (fun w => imgWord i (.muWin c d w)))
  (List.range 8).all (fun k => bitOf on k || (!others k
    && wins.all (fun v => !v.isOpen || !decide (v.base < 0x6000 * (k + 1) ∧ 0x6000 * k < v.base + v.bytes))))

/-- R193: an area of a dispatch descriptor lies in powered slices and in no half that a window hides. -/
def areaOn (on base len : Nat) : Bool :=
  decide (base + len ≤ 0x30000) && (List.range 8).all (fun k =>
    bitOf on k || !decide (base < 0x6000 * (k + 1) ∧ 0x6000 * k < base + len))

def windowBytes (w : Nat × Nat × Nat) : Nat × Nat := (0x6000 * w.1 + 64 * w.2.1, 64 * (w.2.2 / 2))

/-- R193: the areas of a dispatch descriptor, of any the image names: powered, within the slices, the counter area in no versioned
window, the defer area inside one window of this context. The rule gives sizes of the expert table, the counter area and the defer
area; of the others the first unit is held. -/
def State.dspAreasOk (s : State) (i : Image) (c : Nat) (w : Nat → Nat) : Bool :=
  let on := imgWord i (.mu c .slicePwr)
  let e := field (w 0) 17 8 + 1
  let p := field (w 0) 7 4
  let cap := field (w 6) 25 18
  let deferBase := field (w 6) 17 0
  let deferLen := 64 * (1 + cap * (1 + p))
  let cnt := field (w 5) 17 0
  areaOn on (field (w 1) 17 0) (16 * e) && areaOn on (field (w 2) 17 0) 64 && areaOn on (field (w 3) 17 0) 16
    && areaOn on (field (w 4) 17 0) 16 && areaOn on cnt (16 * e)
    && (imgWindows i c ++ s.standing c).all (fun v => let (b, n) := windowBytes v
      !decide (cnt < b + 2 * n ∧ b < cnt + 16 * e))
    && areaOn on deferBase deferLen && (cap == 0 || ((imgWindows i c).any (fun v => let (b, n) := windowBytes v
      decide (b ≤ deferBase ∧ deferBase + deferLen ≤ b + n))))

/-- R193: the fields of a dispatch descriptor; one whose words are all zero is unused. -/
def dspFieldsOk (w : Nat → Nat) : Bool :=
  let k := field (w 0) 26 23
  let d := field (w 0) 22 18
  (List.range 8).all (fun j => w j == 0) ||
  (decide (1 ≤ k ∧ k ≤ 8 ∧ k ≤ d ∧ d ≤ 16) && field (w 0) 3 0 == 0 && field (w 1) 21 18 == 0 && field (w 2) 31 18 == 0
    && field (w 3) 31 25 == 0 && field (w 4) 31 18 == 0 && field (w 5) 31 18 == 0 && field (w 6) 31 30 == 0 && field (w 7) 31 26 == 0
    && decide (1 ≤ field (w 6) 29 26)
    && field (w 1) 3 0 == 0 && field (w 2) 5 0 == 0 && field (w 3) 3 0 == 0 && field (w 4) 3 0 == 0 && field (w 5) 3 0 == 0 && field (w 6) 5 0 == 0)

/-! ### Message channels and rings (R256, R260) -/

/-- Longest message in bytes that a lane sends on a channel (R257). -/
def longestSend (i : Image) (u ch : Nat) : Nat :=
  (laneIn i u).foldl (fun a x =>
    let m := field x.toNat 39 20
    if field m 19 16 = 2 ∧ field m 15 13 = ch then max a (16 * (field m 8 3 + 1)) else a) 0

def chanOk (i : Image) (u ch : Nat) : Bool :=
  let w := imgWord i (.chan u ch 0)
  let dc := clusterAt (field w 12 4) (field w 21 13)
  let ring := imgWord i (.ring (4 * dc + field w 23 22) (field w 26 24))
  !bitOf w 31 || (isCluster dc && inSet i (bayOf dc) && bitOf ring 31 && decide (2 * longestSend i u ch ≤ 2 ^ field ring 30 27))

def ringOk (r : Nat) : Bool :=
  !bitOf r 31 || decide (9 ≤ field r 30 27 ∧ field r 30 27 ≤ 13 ∧ 16 * field r 9 0 + 2 ^ field r 30 27 ≤ 16384)

/-! ### The whole image -/

/-- R283: no core-class counter is bound twice; each lies in the bay set. -/
def bindsOk (i : Image) : Bool :=
  i.binds.all (fun b => inSet i (bayOfCu b.cu) && i.hostIds.contains b.vid
    && (i.binds.filter (fun c => c.cu == b.cu && c.counter == b.counter)).length == 1)

def fractionsOk (i : Image) : Bool :=
  i.panelFrac.all (fun f => decide (f ≤ 1024)) && i.bayFrac.all (fun f => decide (f ≤ 1024))
    && decide (((List.range 48).map (fun p => i.panelFrac.getD p 21)).foldl (· + ·) 0 ≤ 1024)
    && (List.range 48).all (fun p => decide (((List.range 4).map (fun j => i.bayFrac.getD (4 * p + j) 256)).foldl (· + ·) 0 ≤ 1024))

/-- R318: the queue control area lies in one of the image's versioned pages. -/
def queuesOk (i : Image) : Bool :=
  i.qps.isEmpty || i.pages.any (fun p => decide (p ≤ i.queueCtl ∧ i.queueCtl + 4096 ≤ p + 0x10000))

/-- Every unit an image names lies in its bay set. -/
def unitsOk (i : Image) : Bool :=
  i.regWords.all (fun e => match e.1 with
    | .mu c _ => isCluster c && inSet i (bayOf c)
    | .vwin c _ => isCluster c && inSet i (bayOf c)
    | .muWin c _ _ => isCluster c && inSet i (bayOf c)
    | .agDesc c _ _ => isCluster c && inSet i (bayOf c)
    | .dspDesc c _ _ => isCluster c && inSet i (bayOf c)
    | .cu u _ => isCluster (u / 4) && inSet i (bayOfCu u)
    | .desc u _ _ => isCluster (u / 4) && inSet i (bayOfCu u)
    | .vconst u _ => isCluster (u / 4) && inSet i (bayOfCu u)
    | .dmaDesc u _ _ => isCluster (u / 4) && inSet i (bayOfCu u)
    | .route u _ => isCluster (u / 4) && inSet i (bayOfCu u)
    | .cuWin u _ _ => isCluster (u / 4) && inSet i (bayOfCu u)
    | .chan u _ _ => isCluster (u / 4) && inSet i (bayOfCu u)
    | .ring u _ => isCluster (u / 4) && inSet i (bayOfCu u)
    | .bay b _ => inSet i b
    | .probe b _ => inSet i b
    | _ => true)

/-- R103: a DMA descriptor that is loaded; one whose words are all zero is unused. -/
def dmaDescOk (i : Image) (u d : Nat) : Bool :=
  let w (k : Nat) : Nat := imgWord i (.dmaDesc u d k)
  (List.range 4).all (fun k => w k == 0) || (field (w 3) 31 12 != 0 && field (w 3) 5 0 == 0)

/-- Does a register word of the image pass? -/
def State.regWordOk (s : State) (i : Image) (e : RegId × Reg) : Bool :=
  match e.1 with
  | .desc u d _ => descOk i u d
  | .route u _ => routeOk i u e.2.toNat
  | .cu _ .linkCfg => linkCfgOk e.2.toNat
  | .cuWin u d _ => winOk (fun w => imgWord i (.cuWin u d w)) 0x4000
  | .muWin c d _ => winOk (fun w => imgWord i (.muWin c d w)) 0x30000
  | .agDesc c d _ => agOk (fun w => imgWord i (.agDesc c d w))
  | .dspDesc c d _ => let w (k : Nat) : Nat := imgWord i (.dspDesc c d k)
    dspFieldsOk w && s.dspAreasOk i c w
  | .dmaDesc u d _ => dmaDescOk i u d
  | .cu _ .steerCfg => field e.2.toNat 7 0 != 0
  | .chan u ch _ => chanOk i u ch
  | .ring _ _ => ringOk e.2.toNat
  | _ => true

def muOf : RegId → Option Nat
  | .vwin c _ => some c
  | .mu c .slicePwr => some c
  | _ => none

/-- Does every lane, descriptor, window, route entry and table pass? -/
def State.tablesOk (s : State) (i : Image) : Bool :=
  decide (4000 ≤ i.period ∧ i.period ≤ 10000000 ∧ i.partition < 64) && numdefOk i.numdef.toNat && fractionsOk i && queuesOk i && bindsOk i
    && i.bays.all (fun b => decide (b < 192)) && i.required.all (fun b => inSet i b) && unitsOk i
    && i.lanes.all (fun l => laneOk i l.1 l.2) && i.regWords.all (s.regWordOk i)
    && (imgUnits i muOf).all (fun c => s.windowsOk i c && s.slicesOk i c)

end Sys2Proof.Machine
end

