-- ==== Sys2Proof/Machine/Session.lean ====
section
/-! DEFINITION. The mailbox, residency, sessions, compute and bay resets, the end of boot: MBOX_READ_INVENTORY, MBOX_LOAD_IMAGE,
MBOX_END_RESIDENCY, MBOX_START_SESSION, MBOX_END_SESSION, MBOX_COMPUTE_RESET, MBOX_BAY_RESET, MBOX_SET_CAP, MAILBOX_RESPONSE,
SESSION_END_SCRUB_DONE, COMPUTE_RESET, BAY_RESET, HBM_TRAINING, BAY_CORE_RAIL_UP, BIST, INVENTORY_READY (R57, R173, R282, R288, R302, R308, R318, R326, R348, R349,
R389, R430, R431, R434-R442, R456, R458). -/

namespace Sys2Proof.Machine

/-! ### The mailbox (R326, R433) -/

def State.mboxBusy (s : State) : Bool := bitOf (s.regN (.host .mboxStatus)) 31

/-- The doorbell with a request for command `cmd`: ignored while busy, with busy_err set. The management firmware runs once it
has been verified, and answers once the link is up (R433). -/
def State.mboxTake (s : State) (cmd : Nat) (f : State → State) : State :=
  if s.sup.bootStep < 3 ∨ s.sup.seq = 7 ∨ !s.host.linkUp then s
  else if s.mboxBusy then s.hwSet (.host .mboxStatus) (fun r => r ||| regOf (2 ^ 29))
  else f ((s.modReg (.mboxReq 0) (fun r => regOf (r.toNat / 2 ^ 16 * 2 ^ 16 + cmd))).modReg (.host .mboxStatus) (fun r => r ||| bit31))

/-- The command is done: its response is prepared. -/
def State.mboxAnswer (s : State) (status : Nat) (body : List (BitVec 32)) : State :=
  s.modHost (fun h => { h with mbox := some (status, field (s.regN (.mboxReq 0)) 31 24, body) })

/-- MAILBOX_RESPONSE: the response is written, done is set, MSI-X vector 1 goes. -/
def State.mboxRespond (s : State) : State :=
  match s.host.mbox with
  | none => s
  | some (status, q, body) =>
    let s1 := s.setReg (.mboxRsp 0) (regOf (status + body.length * 2 ^ 16 + q * 2 ^ 24))
    let s2 := (List.range body.length).foldl (fun (x : State) i => x.setReg (.mboxRsp (i + 1)) (regOf (body.getD i 0).toNat)) s1
    let s3 := s2.hwSet (.host .mboxStatus) (fun r => regOf (r.toNat % 2 ^ 31 / 256 * 256 + q) ||| regOf (2 ^ 30))
    (s3.modHost (fun h => { h with mbox := none })).sendMsix 1

def execMailboxResponse (t : Nat) (s0 : State) : Host.Outcome State Fault Refusal := .next (s0.masterTime t).mboxRespond

/-! ### 0x0001: the inventory (R433, R435) -/

/-- The inventory as last written, or as far as it has been built. -/
def State.inventoryBody (s : State) : List (BitVec 32) :=
  (List.range 36).map (fun i => BitVec.ofNat 32 (if s.sup.inventory then s.regN (.bootInv i) else s.inventoryWord i))

def State.readInventory (s : State) : State := s.mboxTake 0x01 (fun x => x.mboxAnswer 0 x.inventoryBody)

def execMboxReadInventory (t : Nat) (s0 : State) : Host.Outcome State Fault Refusal := .next (s0.masterTime t).readInventory

/-! ### 0x0010: loading an image (R437) -/

def State.residents (s : State) : List Nat := (List.range 4).filter (fun k => (s.ctx? k).isSome)

/-- Reason 5: an assigned site. -/
def State.siteBad (s : State) (i : Image) (u : SiteUse) : Bool :=
  let x := s.site u.site
  let peer := s.regN (.opt u.site .peer)
  decide (96 ≤ u.site) || !x.up || decide (popcount 8 x.wl.toNat < u.minWl)
    || (!u.twin && (field peer 29 24 != u.peerIndex || field peer 22 16 != u.peerSite || u.site == s.siteA || u.site == s.siteB
      || decide (64 ≤ i.partition)))

/-- Reasons that a session's start checks again: what the machine has may have changed since the load. -/
def State.minimumBad (s : State) (i : Image) : Option Nat :=
  if i.required.any (fun b => !s.bayAvailable b) then some 3
  else if s.stitch.session && i.required.any s.stitch.excluded.contains then some 14
  else if s.capacity < i.minCapacity then some 4
  else if i.sites.any (s.siteBad i) then some 5
  else if s.host.linkWidth < i.pcieWidth ∨ s.host.linkRate < i.pcieRate then some 6
  else if i.grades.any (fun g => decide (s.variantCeiling < g.2)) || decide (s.moduleCap < i.powerW) then some 7
  else if s.trafficBlocked i then some 12
  else none

def noRepeats : List Nat → Bool
  | [] => true
  | a :: l => !l.contains a && noRepeats l

/-- R302, R352: the image's pages. -/
def State.pagesOk (s : State) (i : Image) : Bool :=
  let own := i.pages ++ i.importPages
  own.all (fun p => p % 0x20000 == 0 && decide (p + 0x20000 ≤ s.capacity) && s.hbm.pages.all (fun q => q.base != p))
    && noRepeats own && decide (own.length + s.hbm.pages.length ≤ 262144)

/-- Free physical host-class counters (R282). -/
def State.freeCounters (s : State) : Nat := 16384 - s.hsync.phys.length

/-- The format majors an image offers, highest and lowest: those it declares, or, where its manifest or that of a weight set has another
format major than 1, that one (R316, R437, R454). -/
def imageOffer (i : Image) : Nat × Nat :=
  match (i.manifest.major :: i.weights.map (fun w => w.manifest.major)).find? (· ≠ 1) with
  | some k => (k, k)
  | none => (i.maxMajor, i.minMajor)

/-- Does the UFS device hold the weight set: a directory entry of its class in logical unit 1 (R430)? -/
def State.ufsHolds (s : State) (w : WeightSet) : Bool :=
  s.store.ufs.readable && (s.store.ufs.dir.take 4096).any (fun e => e.cls == 3 && e.lu == 1 && Assoc.find? s.store.ufs.weights e.block == some w)

/-- R456: a weight set's bytes in the place where they are verified: in UFS, else in external memory, where the host has placed them. -/
def State.weightBytes (s : State) (w : WeightSet) : List Byte :=
  if s.ufsHolds w then w.manifest.payload else (s.hbmReadBytes w.base w.length).1

/-- What the verification reads of external memory leave behind. -/
def State.weightsRead (s : State) (i : Image) : State :=
  i.weights.foldl (fun x w => if x.ufsHolds w then x else (x.hbmReadBytes w.base w.length).2) s

def State.weightOk (s : State) (w : WeightSet) : Bool :=
  s.sigOk 3 false w.manifest && s.svnOk 3 w.manifest && payloadOk w.manifest (s.weightBytes w)

/-- The checks of the object itself: it and its weight sets as signed objects, and the format's major. -/
def State.objectBad (s : State) (i : Image) : Option Nat :=
  if 4 ≤ s.residents.length then some 13
  else if !(s.sigOk 2 false i.manifest && s.contentOk 2 i.manifest)
      || i.weights.any (fun w => !s.weightOk w) then some 1
  else if !majorOk (imageOffer i).1 (imageOffer i).2 then some 2
  else none

/-- The checks against the resident contexts, and of the image's tables. -/
def State.placeBad (s : State) (i : Image) : Option Nat :=
  if s.ctxs.any (fun e => e.2.image.footprint.any i.footprint.contains) then some 8
  else if s.freeCounters < i.hostIds.length then some 9
  else if !s.pagesOk i then some 10
  else if !s.tablesOk i then some 11
  else none

/-- Why an image is refused, in this order of checks (log entry 19). The signature and version checks come first; `none` when it
may become resident. -/
def State.imageReason (s : State) (i : Image) : Option Nat :=
  match s.objectBad i, s.minimumBad i with
  | some r, _ => some r
  | none, some r => some r
  | none, none => s.placeBad i

/-- In step 8 of the boot the inventory is not complete; the minimums are checked as the session starts (R437; log entry 70). -/
def State.bootReason (s : State) (i : Image) : Option Nat :=
  match s.objectBad i with
  | some r => some r
  | none => s.placeBad i

/-- A window of context `k` takes a free register of its MU, whose reserved bits stay zero (R184); its words start at copy 0 (R173,
R175). -/
def State.declareWindow (s : State) (k c v : Nat) : State :=
  match (List.range 16).find? (fun i => !(s.vwinOf c i).en) with
  | none => s
  | some i =>
    let lo := 1536 * field v 26 24 + 4 * field v 8 0
    let hi := lo + 4 * field v 17 9
    let out (l : List Nat) : List Nat := l.filter (fun w => !decide (lo ≤ w ∧ w < hi))
    (s.setReg (.vwin c i) (regOf (field v 17 0 + field v 26 24 * 2 ^ 24 + k * 2 ^ 29 + 2 ^ 31))).modMu c (fun m => { m with sel := out m.sel, wr := out m.wr, dirty := out m.dirty })

def State.declareWindows (s : State) (k : Nat) (i : Image) : State :=
  i.regWords.foldl (fun x e => match e.1 with
    | .vwin c j => if bitOf e.2.toNat 31 ∧ imgWord i (.vwin c j) = e.2.toNat then x.declareWindow k c e.2.toNat else x
    | _ => x) s

def isQp (q : Nat) : RegId → Bool
  | .qp p _ => p == q
  | _ => false

/-- A pair the image declares (R318, R336): enabled, with every pointer at 0. -/
def State.declarePair (s : State) (k : Nat) (d : QpDecl) : State :=
  let s1 := (s.dropRegs (isQp d.q)).modHost (fun h => { h with qps := h.qps.erase d.q })
  let cfg := 2 ^ 31 + k * 2 ^ 29 + d.inEntryLog2 % 16 * 2 ^ 24 + d.outEntryLog2 % 16 * 2 ^ 20 + d.outSizeLog2 % 32 * 2 ^ 5 + d.inSizeLog2 % 32
  ((s1.setReg (.qp d.q .cfg) (regOf cfg)).setReg (.qp d.q .inBase) (regOf d.inBase)).setReg (.qp d.q .outBase) (regOf d.outBase)

/-- R434: the weight sets that UFS holds go to external memory; the others are there already. -/
def State.loadWeights (s : State) (i : Image) : State :=
  i.weights.foldl (fun x w => if s.ufsHolds w then x.hbmContents w.base (w.manifest.payload.take w.length) else x) s

/-- The image becomes resident as context `k`: pages, windows, counters and pairs are set, external contents are loaded (R57,
R173, R282, R302, R305). -/
def State.makeResident (s : State) (k : Nat) (i : Image) : State :=
  let pages := i.pages.map (fun b => (⟨b, k, [], [], [], none⟩ : VPage)) ++ i.importPages.map (fun b => (⟨b, k, [], [], [], some k⟩ : VPage))
  let s1 := s.modHbm (fun h => { h with pages := h.pages ++ pages })
  let s2 := i.loads.foldl (fun x (a, bs) => if a / 2 ^ 44 = 0 then x.loadBytes a bs else x) s1
  let s3 := ((s2.loadWeights i).declareWindows k i).mapIds k i
  let s4 := i.qps.foldl (fun x d => x.declarePair k d) s3
  s4.setCtx k { image := i, mask := 0, halted := false, failed := false, modified := [], order :=
    (s4.ctxs.map (fun e => e.2.order)).foldl max 0 + 1, voided := false }

/-- R458: the object is resident and the session has started: classes 2 and 3 rise to the versions of the image and of its sets. -/
def State.advanceImage (s : State) (i : Image) : State := (i.weights.foldl (fun x w => x.advanceSvn w.manifest) s).advanceSvn i.manifest

/-- The events of a refused image, and the version record of interface 1. -/
def State.imageChecked (s : State) (i : Image) (reason : Option Nat) : State :=
  if reason = some 13 then s
  else if reason = some 1 then
    i.weights.foldl (fun x w => if x.sigOk 3 false w.manifest then x else x.signatureFailure 3 w.manifest)
      (if s.sigOk 2 false i.manifest then s.weightsRead i else (s.weightsRead i).signatureFailure 2 i.manifest)
  else
    let s1 := (s.weightsRead i).negotiate 1 (imageOffer i).1 (imageOffer i).2 i.caps.toNat 0
    if reason = some 2 then s1.mismatch 366 1 (imageOffer i).1 (imageOffer i).2 else s1

/-- The image becomes resident as context `k`, unless it is refused for reason `r`. -/
def State.admitImage (s : State) (k : Nat) (i : Image) (r : Option Nat) : Nat × State :=
  let s1 := s.imageChecked i r
  match r with
  | some n => (3, s1.refuseImage n k)
  | none => (0, if s.stitch.session then (s1.makeResident k i).advanceImage i else s1.makeResident k i)

/-- The outcome of command 0x0010: status and the machine. -/
def State.loadImage (s : State) (k : Nat) (i : Image) : Nat × State :=
  if 4 ≤ k then (2, s)
  else if (s.ctx? k).isSome ∧ s.residents.length < 4 then (2, s)
  else s.admitImage k i (s.imageReason i)

/-- The image of a UFS directory entry: one of its class in logical unit 0, in a device that can be read (R430). -/
def State.ufsImage (s : State) (n : Nat) : Option Image :=
  match (s.store.ufs.dir.take 4096)[n]? with
  | some e => if s.store.ufs.readable && e.cls == 2 && e.lu == 0 then Assoc.find? s.store.ufs.images e.block else none
  | none => none

/-- The image that command 0x0010 names; for an entry that names none the answer is a bad argument (DESIGN CHOICE, log entry 53). -/
def State.loadFrom (s : State) (k : Nat) : ImageSource → Nat × State
  | .memory i => s.loadImage k i
  | .ufs n => match s.ufsImage n with
    | some i => s.loadImage k i
    | none => (2, s)

def State.mboxLoad (s : State) (k : Nat) (i : ImageSource) : State :=
  s.mboxTake 0x10 (fun x =>
    if !x.sup.inventory then x.mboxAnswer 3 []
    else
      let (st, x1) := x.loadFrom k i
      x1.mboxAnswer st [])

def execMboxLoadImage (t k : Nat) (img : ImageSource) (s0 : State) : Host.Outcome State Fault Refusal :=
  .next ((s0.masterTime t).mboxLoad k img)

/-! ### 0x0011: ending a residency (R57, R173, R288) -/

/-- The windows of context `k` are cleared. -/
def State.clearWindows (s : State) (k : Nat) : State :=
  let gone := s.regs.filter (fun e => match e.1 with | .vwin _ _ => bitOf e.2.toNat 31 && field e.2.toNat 30 29 == k | _ => false)
  gone.foldl (fun x e => match e.1 with
    | .vwin c i =>
      let lo := 1536 * field e.2.toNat 26 24 + 4 * field e.2.toNat 8 0
      let hi := lo + 4 * field e.2.toNat 17 9
      let out (l : List Nat) : List Nat := l.filter (fun w => !decide (lo ≤ w ∧ w < hi))
      (x.setReg (.vwin c i) 0).modMu c (fun m => { m with sel := out m.sel, wr := out m.wr, dirty := out m.dirty })
    | _ => x) s

/-- R288: the residency of context `k` ends for a reason other than pre-emption. -/
def State.endResidency (s : State) (k : Nat) : State :=
  match s.ctx? k with
  | none => s
  | some c =>
    let s1 := (s.abandon k).clearWindows k
    let s2 := c.image.qps.foldl (fun x d => (x.dropRegs (isQp d.q)).modHost (fun h => { h with qps := h.qps.erase d.q })) s1
    let s3 := s2.modHbm (fun h => { h with pages := h.pages.filter (fun p => p.ctx != k) })
    { s3 with bays := s3.bays.map (fun (b, y) => (b, { y with
      ctxs := y.ctxs.filter (· ≠ k), entries := y.entries.map (fun (i, e) => (i, e.noReplay k)) })), ctxs := s3.ctxs.erase k, stitch := { s3.stitch with switchPending := s3.stitch.switchPending && s3.stitch.ctxNext != k } }

/-- The active context, unless it has failed (R420), and the target of a reload in progress stay while a session runs (log entry 20). -/
def State.residencyHeld (s : State) (k : Nat) : Bool :=
  s.stitch.session && ((s.active == k && !(s.ctx? k).any (fun c => c.failed)) || s.stitch.reloadTo == some k)

def State.mboxEndRes (s : State) (k : Nat) : State :=
  s.mboxTake 0x11 (fun x =>
    if (x.ctx? k).isNone ∨ 4 ≤ k then x.mboxAnswer 2 []
    else if x.residencyHeld k then x.mboxAnswer 3 []
    else (x.endResidency k).mboxAnswer 0 [])

def execMboxEndResidency (t k : Nat) (s0 : State) : Host.Outcome State Fault Refusal := .next ((s0.masterTime t).mboxEndRes k)

/-! ### 0x0020: starting a session (R349, R438) -/

/-- A debug grant ends with debug-authorised, w0 0 (R468). -/
def State.endGrant (s : State) : State :=
  if s.spdm.grant then (s.modSpdm (fun x => { x with grant := false, grantSlot := 0 })).raise 367 0x74 0 0 0 0 else s

/-- The feed set of peer `p`: as it comes with the command, else as a site has received it. -/
def State.feedOf (s : State) (feeds : List (Nat × BitVec 64)) (p : Nat) : Option (BitVec 64) :=
  match feeds.find? (fun f => f.1 == p) with
  | some f => some f.2
  | none => (s.peerSites p).findSome? (fun t => (s.site t).feed)

/-- R349, for the image of the context that becomes active. -/
def State.feedsOk (s : State) (i : Image) (feeds : List (Nat × BitVec 64)) : Bool :=
  (List.range 64).all (fun p => !i.peerFeed.getLsbD p || (!(s.peerSites p).isEmpty && match s.feedOf feeds p with
    | some v => v.getLsbD i.partition
    | none => false))

/-- The engine's feed set goes to every peer that has an up site, on the lowest-numbered of its sites (R349). -/
def State.sendFeeds (s : State) (i : Image) : State :=
  (List.range 64).foldl (fun (x : State) p =>
    match x.peerSites p with | t :: _ => x.queueFlit t 1 2 [i.peerFeed.setWidth 128] | [] => x) s

/-- A staged class is staged no more when its session ends, and a class staged before one begins is dropped as it begins: its state
is idle again (DESIGN CHOICE, log entry 40). -/
def ModeReport.unstaged (r : ModeReport) : ModeReport := if r.state = 1 then ⟨0, 0⟩ else r

/-- Every staged class is dropped, with its wakes. -/
def State.dropStaged (s : State) : State :=
  ([1, 2, 3, 4].foldl (fun (x : State) c => x.unstage c false) s).modStitch (fun k => { k with
    reports := k.reports.map (fun (c, r) => (c, r.unstaged)) })

/-- What a new session clears in the stitch. The image sets the period (R33). -/
def Stitch.opened (k : Stitch) (active period : Nat) : Stitch :=
  { Stitch.reset with
    session := true, phase := .ended, number := k.number, begun := k.begun, active := active, bank := active, period := period
    ctxNext := k.ctxNext, reports := k.reports }

/-- Retrains are counted anew in a session (R331). Tokens that a peer whose session began first has sent are those of this session (R350;
log entry 67). -/
def State.linksCounted (s : State) : State :=
  { s with sites := s.sites.map (fun (t, x) => (t, { x with retrains := 0 })), host := { s.host with retrains := 0 } }

/-- The session of context `k` begins; its first stitch starts with the next STITCH_START. -/
def State.openSession (s : State) (k : Nat) (i : Image) : State :=
  let s0 := s.dropStaged
  let s1 := (s0.modStitch (fun x => x.opened k i.period)).modClk (fun c => { c with boundarySent := true, timedOut := false, tokenNo := 0 })
  let s3 := s1.linksCounted.modRel (fun x => { x with darned := [], kept := [], detections := [], lateDet := [], frame := [] })
  let s4 := (s3.endGrant).modSpdm (fun x => { x with wafer := false })
  let s5 := ((List.range 192).foldl (fun (x : State) b => if i.bays.contains b then x.reloadBay k b else x) s4).imageGlobals i |>.setFeed i
  let s7 := (s5.imageModes i true).reloadWakes k
  let s8 := s7.modReg (.boot .session) (fun r => satField r 15 0 1)
  let s9 := s8.ctxs.foldl (fun x e => x.advanceImage e.2.image) s8
  s9.modStitch (fun x => { x with voterMask := s9.voters })

/-- Command 0x0020: status and the machine. -/
def State.startSession (s : State) (feeds : List (Nat × BitVec 64)) : Nat × State :=
  match s.residents with
  | [] => (3, s)
  | k :: _ =>
    if s.stitch.session ∨ s.hbm.scrubbing ∨ !s.islandReaches then (3, s)
    else match s.residents.find? (fun j => match s.ctx? j with | some c => (s.minimumBad c.image).isSome | none => false) with
      | some j =>
        (3, s.refuseImage (((s.ctx? j).bind (fun c => s.minimumBad c.image)).getD 0) j)
      | none =>
        match s.ctx? k with
        | none => (3, s)
        | some c =>
          let s1 := (s.modStitch (fun x => { x with active := k })).sendFeeds c.image
          if s1.feedsOk c.image feeds then (0, s1.openSession k c.image) else (3, s1)

def State.mboxStart (s : State) (feeds : List (Nat × BitVec 64)) : State :=
  s.mboxTake 0x20 (fun x =>
    if !x.sup.inventory then x.mboxAnswer 3 []
    else
      let (st, x1) := x.startSession feeds
      x1.mboxAnswer st [])

def execMboxStartSession (t : Nat) (feeds : List (Nat × BitVec 64)) (s0 : State) : Host.Outcome State Fault Refusal :=
  .next ((s0.masterTime t).mboxStart feeds)

/-! ### 0x0021: ending the session (R308, R438) -/

/-- BAY_VOTE keeps showing the bay's last vote, void and overrun: a session's end is no reset (R67, R440). -/
def Vote.sessionOver (v : Vote) : Vote := { v with cause := 0, causeAt := none, late := 0, lateAt := 0, frozen := false, missing := false }

/-- What the stitch holds of a session that is over. -/
def State.stopStitch (s : State) : State :=
  (s.modStitch (fun k => { k with
    session := false, kind := .none, phase := .before, decision := none, votes := [], lower := [], voterMask := 0
    switchPending := false, reloadTo := none, replay := false, lastReplayed := false, hostVoid := false, supplyVoid := false
    excluded := [], exits := 0, admits := [], maskNext := none, nextPeriod := none, streak := 0 })).modClk (fun c => { c with
      boundarySent := false, timedOut := false, ns := 0 })

/-- A bay that runs no stitch: a clocked one, a woken one too, is at grade 0x05, and a wake in progress will bring its bay there (R434,
R448). -/
def Bay.idle (y : Bay) (now : Nat) : Bay :=
  let woken := y.power == .waking && y.wakeStart.isNone
  { y with
    power := if woken then .active else y.power
    activeAt := if woken then now else y.activeAt
    doomed := false, inStitch := false, ran := false, vote := y.vote.sessionOver
    modes := { y.modes.unstageAll with
      grade := if y.power == .active || woken then 5 else y.modes.grade, nextGrade := none, wakeAt := 5 }
    entries := y.entries.map (fun (i, e) => (i, e.noReplay 5)) }

/-- No bay runs a stitch. -/
def State.baysIdle (s : State) : State :=
  { s with twin := { s.twin with publish := false }, bays := s.bays.map (fun (b, y) => (b, y.idle s.clk.nsTotal)) }

/-- R448: every available bay runs background frames at grade 0x05: those that are dormant wake (DEDUCED, log entry 75). -/
def State.wakeDormant (s : State) : State :=
  (List.range 192).foldl (fun (x : State) b =>
    if (x.bay b).power == .dormant && x.bayAvailable b && !(x.panel (b / 4)).wakes.contains b then x.queueWake b else x) s

/-- The tokens of a session that is over count in no other (R350; log entry 67). -/
def State.tokensOver (s : State) : State := { s with sites := s.sites.map (fun (t, x) => (t, { x with tokens := [] })) }

/-- The session stops. A stitch in progress is abandoned without a commit, as a void leaves it (log entry 21). -/
def State.closeSession (s : State) : State :=
  if s.stitch.session then
    let s1 := if s.stitch.phase = .ended then s else (s.dropWritten.flushFabric true).voidCleanup
    s1.dropStaged.stopStitch.tokensOver.baysIdle.capInForce.wakeDormant
  else s

def State.endAllResidencies (s : State) : State := (List.range 4).foldl (fun x k => x.endResidency k) s

/-- A scrub begins, at the end of a session or for a compute reset (R308). -/
def State.startScrub (s : State) (ending : Bool) : State := s.modHbm (fun h => { h with scrubbing := true, ending := h.ending || ending })

def State.mboxEnd (s : State) : State :=
  s.mboxTake 0x21 (fun x =>
    if !x.stitch.session then x.mboxAnswer 3 []
    else (x.endAllResidencies.closeSession.startScrub true).mboxAnswer 0 [])

def execMboxEndSession (t : Nat) (s0 : State) : Host.Outcome State Fault Refusal := .next (s0.masterTime t).mboxEnd

/-- SESSION_END_SCRUB_DONE: every marked granule holds zero. -/
def State.scrubDone (s : State) : State :=
  if s.hbm.scrubbing then
    let lies (a : Nat) : Bool := s.hbm.marked.contains (a / 0x200000) && a / 2 ^ 44 == 0
    let s1 := { s with mem := s.mem.filter (fun c => !lies c.1), errs := List.filter (fun e => !lies (16 * e.1)) s.errs }
    let s2 := s1.modHbm (fun h => { h with
      scrubbing := false, ending := false, marked := []
      pages := h.pages.map (fun p => if s.hbm.marked.contains (p.base / 0x200000) then { p with sel := [], wr := [], dirty := [] } else p) })
    (s2.raise 368 0x29 s.hbm.marked.length 0 0 0).resetAnswer
  else s

def execSessionEndScrubDone (t : Nat) (s0 : State) : Host.Outcome State Fault Refusal := .next (s0.masterTime t).scrubDone

/-! ### 0x0040: the module cap (R389) -/

def State.setCap (s : State) (w : Nat) : Nat × State :=
  if w < 8000 ∨ s.variantCap < w then (2, s)
  else if s.ctxs.any (fun e => decide (w < e.2.image.powerW)) then (3, s)
  else (0, s.modSup (fun x => if s.stitch.session then { x with capNext := some w } else { x with cap := some w }))

def State.mboxCap (s : State) (w : Nat) : State :=
  s.mboxTake 0x40 (fun x =>
    let (st, x1) := x.setCap w
    x1.mboxAnswer st [])

def execMboxSetCap (t w : Nat) (s0 : State) : Host.Outcome State Fault Refusal := .next ((s0.masterTime t).mboxCap w)

/-! ### 0x0030: compute and bay resets (R439-R442) -/

/-- Argument word 1 with [1:0] 0 or 1. The answer follows the reset. -/
def State.mboxCompute (s : State) (arg : Nat) : State :=
  s.mboxTake 0x30 (fun x =>
    if 1 < arg % 4 then x.mboxAnswer 2 []
    else if x.twin.state = 2 ∧ x.twin.attached ∧ !bitOf arg 31 then x.mboxAnswer 3 []
    else
      let x1 := if x.twin.state = 2 ∧ x.twin.attached then x.sendFatal else x
      x1.modSup (fun u => { u with computeDue := some (arg % 2) }))

def execMboxComputeReset (t : Nat) (arg : BitVec 32) (s0 : State) : Host.Outcome State Fault Refusal :=
  .next ((s0.masterTime t).mboxCompute arg.toNat)

/-- R442: is a reset of the bay refused? -/
def State.bayResetBarred (s : State) (b : Nat) : Bool :=
  let p := s.panel (b / 4)
  (s.stitch.session && s.voterIn b) || p.feedsOpen.contains (b % 4) || p.fabricOpen
    || (p.tripped.contains (b % 4) && (List.range 4).any (fun i => decide (85 < field (s.regN (.therm (b / 4) (b % 4))) (8 * i + 7) (8 * i))))

def State.mboxBay (s : State) (arg : Nat) : State :=
  s.mboxTake 0x30 (fun x =>
    let b := field arg 15 8
    if arg % 4 ≠ 2 ∨ 192 ≤ b then x.mboxAnswer 2 []
    else if x.bayResetBarred b then x.mboxAnswer 3 []
    else x.modSup (fun u => { u with bayDue := insertSorted b u.bayDue }))

def execMboxBayReset (t : Nat) (arg : BitVec 32) (s0 : State) : Host.Outcome State Fault Refusal :=
  .next ((s0.masterTime t).mboxBay arg.toNat)

/-- R441: is the machine where a requested reset takes effect? -/
def State.resetPoint (s : State) : Bool := !s.stitch.session || s.stitch.phase == .ended

/-- BOOT_RESET_CAUSE after a compute or bay reset. -/
def State.setCause (s : State) (cause : Nat) (b : Option Nat) : State :=
  s.modReg (.boot .resetCause) (fun r =>
    let bay := match b with | some n => n | none => field r.toNat 15 8
    regOf (r.toNat / 2 ^ 16 * 2 ^ 16 + bay * 2 ^ 8 + cause))

/-- Registers a compute reset returns to their reset values beside those of the bays: STITCH, the time base, routers. Host waits
keep the states in which R288 has completed them. -/
def inCompute : RegId → Bool
  | .stitch _ => true
  | .seqMask _ => true
  | .voterMask _ => true
  | .time _ => true
  | .rtr _ _ => true
  | _ => false

/-- R27's pointers of the control island (R29, R440). -/
def State.resetArbiters (s : State) : State :=
  { s with
    evt := { s.evt with ptr := 0, wptr := 0 }
    host := { s.host with poolPtr := 0 }
    claims := s.claims.map (fun (k, c) => (k, { c with ptr := [] })) }

/-- Does a compute reset cycle the bay's rail? -/
def State.feedClosed (s : State) (b : Nat) : Bool :=
  let p := s.panel (b / 4)
  p.fabricOn && !p.feedsOpen.contains (b % 4) && !p.tripped.contains (b % 4)

/-- R440, column "Compute". -/
def State.computeReset (s : State) (arg : Nat) : State :=
  let s1 := s.endAllResidencies.closeSession
  let s1a : State := { s1 with
    hw := [], stitch := Stitch.reset, clk := { Clk.reset with running := true }, rtrs := [], hsync := HSync.reset
    sites := s1.sites.map (fun (t, x) => (t, { x with exports := [], begun := [], tokens := [], feed := none, void := 0, late := 0 })) }
  let s2 := (s1a.dropRegs inCompute).resetArbiters
  let s3 := s2.wipeBays s2.feedClosed .off
  let s4 := s3.modRel (fun x => { x with detections := [], lateDet := [], kept := [], frame := [], queue := [], darned := [], badLanes := [] })
  let s5 := s4.modHbm (fun h => { h with voids := [], late := [], firstCe := [], ceStitch := [] })
  let s6 := (List.range 48).foldl (fun (x : State) p => x.modPanel p (fun y => { y with wakes := [], waking := none, frac := 21, nextFrac := none })) s5
  let s7 := (s6.modSpdm (fun x => { x with wafer := true })).modSup (fun x => { x with computeDue := none, bayDue := [] })
  let s8 := if arg = 1 then s7.startScrub false else s7
  (s8.setCause 3 none).resetAnswer

/-- COMPUTE_RESET: it waits for a darn update in progress. -/
def execComputeReset (t : Nat) (s0 : State) : Host.Outcome State Fault Refusal :=
  let s := s0.masterTime t
  .next (match s.sup.computeDue with
    | none => s
    | some arg => if s.resetPoint && s.rel.updating.isNone then s.computeReset arg else s)

/-- R440, column "Bay". The bay's rail comes up again through BAY_CORE_RAIL_UP and BIST. -/
def State.bayReset (s : State) (b : Nat) : State :=
  let s1 := (s.wipeBay b).modBay b (fun y => { y with power := .off, bist := false })
  let s2 := s1.modPanel (b / 4) (fun p => { p with
    tripped := p.tripped.filter (· ≠ b % 4), waking := some b, wakes := p.wakes.filter (· ≠ b) })
  let s3 : State := { s2 with
    rtrs := s2.rtrs.map (fun (c, r) => if bayOf c == b then (c, { r with ptr := [] }) else (c, r))
    stitch := { s2.stitch with excluded := if s.stitch.session then insertSorted b s2.stitch.excluded else s2.stitch.excluded }
    sup := { s2.sup with bayDue := s2.sup.bayDue.filter (· ≠ b) } }
  s3.setCause 4 (some b)

/-- BAY_RESET: the panel's wake reserve has to be free. -/
def execBayReset (t b : Nat) (s0 : State) : Host.Outcome State Fault Refusal :=
  let s := s0.masterTime t
  .next (if s.sup.bayDue.contains b && s.resetPoint && (s.panel (b / 4)).waking.isNone then s.bayReset b else s)

/-! ### The end of boot (R431, R434, R458) -/

/-- Has everything that step 10 waits for happened? -/
def State.bootDone (s : State) : Bool :=
  decide (4 ≤ s.sup.bootStep) && !s.sup.bootFailed && !s.sup.inventory && decide (24 ≤ s.hbm.trained.length)
    && s.allTested
    && (List.range 96).all (fun t => !(s.site t).training)

/-- R434, step 8: every panel controller takes its share of the management firmware; the image that a live autostart record names becomes
resident as context 0, and its lanes, descriptors and contents go to its bays. -/
def State.broadcastLoad (s : State) : State :=
  let s1 := (List.range 48).foldl (fun (x : State) p =>
    if (x.panel p).fabricOn then x.modPanel p (fun y => { y with fw := some (s.fwOf false).version }) else x) s
  match s.store.autostart with
  | none => s1
  | some n =>
    let s2 := match s.ufsImage n with
      | some i => (s1.admitImage 0 i (s1.bootReason i)).2
      | none => s1
    match s2.ctx? 0 with
    | some c => (List.range 192).foldl (fun (x : State) b => if c.image.bays.contains b then x.reloadBay 0 b else x) s2
    | none => s2

/-- R431, R432: with every stack trained and every bay tested the merge, the broadcast loading and the measurements follow one another;
they do not wait for the sites. How long each takes is a free value within its bound (log entry 70). -/
def State.bootAdvance (s : State) : State :=
  if 4 ≤ s.sup.bootStep ∧ s.sup.bootStep < 8 ∧ !s.sup.bootFailed ∧ !s.sup.inventory ∧ 24 ≤ s.hbm.trained.length ∧ s.allTested then
    let merged := s.clk.nsTotal + Config.bootNs s.free 7 % (10 ^ 9 + 1)
    let n := Config.bootNs s.free 8
    let s1 := s.broadcastLoad
    let loaded := s1.ctxs.any (fun e => !e.2.image.weights.isEmpty)
    (s1.modSup (fun x => { x with
      bootStep := 8, step8At := merged, step9At := merged + (if loaded then n else n % (2 * 10 ^ 9 + 1)) })).takeFree
  else s

def execHbmTraining (t st : Nat) (restored : Bool) (failed : BitVec 64) (temp : Nat) (s0 : State) : Host.Outcome State Fault Refusal :=
  .next (((s0.masterTime t).trainStack st restored failed temp).bootAdvance)

/-- BAY_CORE_RAIL_UP. -/
def execBayCoreRailUp (t p : Nat) (tests : List (Nat × Nat × Bool)) (s0 : State) : Host.Outcome State Fault Refusal :=
  .next (((s0.masterTime t).railsUp p tests).bootAdvance)

def execBist (t b : Nat) (bad : List (Nat × Nat)) (s0 : State) : Host.Outcome State Fault Refusal :=
  .next (((s0.masterTime t).bistDone b bad).bootAdvance)

/-- INVENTORY_READY: step 10 (R431). The inventory is written, the event raised, and an autostart session begins. -/
def State.finishBoot (s : State) (ms : Nat) : State :=
  if !s.bootDone then s
  else
    let s1 := s.bootAdvance.setReg (.boot .time) (regOf (ms % 2 ^ 32))
    let s2 := (s1.modSup (fun x => { x with bootStep := 10, inventory := true })).announce
    let s3 := (s2.advanceSvn (s2.fwOf true).manifest).advanceSvn (s2.fwOf false).manifest
    if s.store.autostart.isSome then (s3.startSession []).2 else s3

def execInventoryReady (t ms : Nat) (s0 : State) : Host.Outcome State Fault Refusal := .next ((s0.masterTime t).finishBoot ms)

end Sys2Proof.Machine
end

