-- ==== Sys2Proof/Machine/Optical.lean ====
section
/-! DEFINITION. Casrik links and twins: SITE_TRAINING, CASRIK_FLIT_SEND, CASRIK_FLIT_RECEIVE, WAVELENGTH_DROP, WAVELENGTH_REJOIN,
SITE_DOWN, EXPORT_START, MBOX_TWIN_ATTACH, MBOX_TWIN_DETACH, HEARTBEAT_SEND, HEARTBEAT_INTERVAL,
TWIN_FATAL_IN, TWIN_TAKEOVER (R339-R363). -/

namespace Sys2Proof.Machine

/-! ### Takeover and pairing (R355-R361) -/

def State.isTwinSite (s : State) (t : Nat) : Bool := t == s.siteA || t == s.siteB

/-- Is the engine one of a pair? -/
def State.paired (s : State) : Bool := s.twin.state == 2 || s.twin.state == 3

/-- The standby discards its open checkpoint by clearing wr (R358). -/
def State.dropCheckpoint (s : State) : State :=
  if s.standbyOpen then
    (s.dropWritten.modTwin (fun x => { x with openSeq := none, endA := none, endB := none, sentA := 0, sentB := 0, bytes := 0 })).standbyTells 2
      (s.twin.openSeq.getD 0)
  else s

/-- R360: the sequence mask of the last checkpoint has been in the context since it was applied; the queue pointers are published with
the reload stitch. -/
def State.takeover (s : State) : State :=
  if s.twin.state ≠ 3 then s
  else
    let s1 := s.dropCheckpoint
    let last := s.regN (.twin .ckptLast)
    let s2 := (s1.modStitch (fun k => { k with commitSeq := last, reloadTo := some k.active })).modTwin (fun x => { x with state := 0, misses := 0, attached := false, lineOut := none })
    (s2.raise 364 0x59 last (last / 2 ^ 32) 0 0).modTwin (fun x => { x with publish := true })

def execTwinTakeover (t : Nat) (s0 : State) : Host.Outcome State Fault Refusal := .next (s0.masterTime t).takeover

/-- TWIN_FATAL_IN: the fatal line, or the MGMT notice; only a standby acts on it. -/
def execTwinFatalIn (t : Nat) (s0 : State) : Host.Outcome State Fault Refusal := .next (s0.masterTime t).takeover

/-- HEARTBEAT_SEND. -/
def State.heartbeatOut (s : State) : State :=
  if s.paired then ((s.modTwin (fun x => { x with lineOut := some s.clk.nsTotal })).queueFlit s.siteA 1 3 []).queueFlit s.siteB 1 3 [] else s

def execHeartbeatSend (t : Nat) (s0 : State) : Host.Outcome State Fault Refusal := .next (s0.masterTime t).heartbeatOut

/-- A primary that has lost its standby halts every context and is FENCED (R359). -/
def State.fence (s : State) : State :=
  let s1 := (s.haltAll.clearDirty).modTwin (fun x => { x with state := 4, attached := false, detach := false, openSeq := none, frozen := [], captured := [], lineOut := none })
  s1.raise 364 0x5A 0 0 0 0

/-- HEARTBEAT_INTERVAL: 110 µs have passed; `linePulse` tells of a pulse on TWIN_HB_IN. -/
def State.heartbeatCheck (s : State) (linePulse : Bool) : State :=
  if !s.paired then s
  else
    let line := linePulse || s.twin.lineSeen
    let link := s.twin.mgmtSeen
    let n := if !line && !link then s.twin.misses + 1 else 0
    let s1 := s.modTwin (fun x => { x with misses := n, lineSeen := false, mgmtSeen := false })
    let s2 := if line && link then s1
      else (s1.raise 364 0x58 n (if !line && !link then 0 else if !line then 1 else 2) 0 0).count (.twin .hbMiss) 1
    if n < 3 then s2 else if s.twin.state = 3 then s2.takeover else s2.fence

def execHeartbeatInterval (t : Nat) (linePulse : Bool) (s0 : State) : Host.Outcome State Fault Refusal :=
  .next ((s0.masterTime t).heartbeatCheck linePulse)

/-- The granules of the first checkpoint (R361): marked ones, those of import pages too, then both kinds of versioned state. The second
copies of pages have no address of their own. -/
def State.attachSet (s : State) : List Nat :=
  let plain := (s.hbm.marked.flatMap (fun g => (List.range 8192).map (fun i => 0x200000 * g + 256 * i))).filter (fun a =>
    (s.hbmBad a).isNone && match s.pageOf a with | some p => p.imp.isSome | none => true)
  let pages := (s.hbm.pages.filter (fun p => p.imp.isNone)).flatMap (fun p => (List.range 256).map (fun g => p.base + 256 * g))
  let wins := s.regs.flatMap (fun e => match e.1 with
    | .vwin c _ =>
      let v := e.2.toNat
      if bitOf v 31 then (List.range (4 * (field v 17 9 / 2))).map (fun i => devAddr c (16 * (1536 * field v 26 24 + 4 * field v 8 0 + i))) else []
    | _ => [])
  (plain ++ pages ++ wins).mergeSort (fun a b => decide (a ≤ b))

/-- R361: the manifests' SHA-384 digests of every resident image and weight set, in order of context. -/
def State.residentDigests (s : State) : List (BitVec 384) :=
  s.residents.flatMap (fun k => match s.ctx? k with
    | some c => c.image.manifest.digest :: c.image.weights.map (fun w => w.manifest.digest)
    | none => [])

/-- The copy of a frozen item as the primary sends it; the read is checked as every other is (R399). -/
def State.frozenCopy (s : State) (a : Nat) : List Word × State :=
  if a / 2 ^ 44 = 0 then ((s.hbmReadWords a 16).1, (s.hbmReadWords a 16).2.2)
  else
    let c := addrCluster a
    let (w, s1) := s.readMu c (addrOffset a / 16)
    ([w], s1)

/-- Has the stitch in progress written versioned item `a` already? -/
def State.itemWritten (s : State) (a : Nat) : Bool :=
  if a / 2 ^ 44 = 0 then (match s.pageOf a with | some p => p.imp.isNone && p.wr.contains (granuleOf p a) | none => false)
  else (s.mu (addrCluster a)).wr.contains (addrOffset a / 16)

/-- R357: a frozen item that has been written since the checkpoint's commit is captured (log entry 69). -/
def State.captureWritten (s : State) (a : Nat) : State :=
  if s.itemWritten a then (s.frozenCopy a).2.capture a (s.frozenCopy a).1 else s

/-- The first checkpoint is taken at once, as of the last commit (R361). -/
def State.firstCheckpoint (s : State) : State :=
  let s1 := s.openCheckpoint s.stitch.commitSeq s.attachSet
  s1.twin.frozen.foldl State.captureWritten s1

/-- MBOX_TWIN_ATTACH: the outcome. Equal sites, a pair already made or other images refuse (3); twin sites that do not train and
versions that share no major fail (5). `peer`: the digests that the other engine sends. -/
def State.twinAttach (s : State) (primary : Bool) (peer : List (BitVec 384)) (mx mn caps : Nat) : Nat × State :=
  if s.siteA = s.siteB ∨ s.paired then (3, s)
  else if !(s.site s.siteA).up ∨ !(s.site s.siteB).up then (5, s)
  else
    let s1 := (s.setReg (.twin .version) (agreementWord (agreeMajor 1 1 mx mn))).setReg (.twin .caps)
      (if majorOk mx mn then regOf (caps % 2) else 0)
    if !majorOk mx mn then (5, s1.mismatch 364 3 mx mn)
    else if peer ≠ s.residentDigests then (3, s1)
    else
      let s2 := s1.modTwin (fun x => { x with
        state := if primary then 2 else 3, attached := false, detach := false, misses := 0, lineSeen := false, mgmtSeen := false
        openSeq := none, endA := none, endB := none, sentA := 0, sentB := 0, bytes := 0, started := false })
      (0, if primary then s2.firstCheckpoint else s2)

def State.mboxAttach (s : State) (primary : Bool) (peer : List (BitVec 384)) (mx mn caps : Nat) : State :=
  s.mboxTake 0x50 (fun x =>
    let (st, x1) := x.twinAttach primary peer mx mn caps
    x1.mboxAnswer st [])

def execMboxTwinAttach (t : Nat) (primary : Bool) (peer : List (BitVec 384)) (maxMajor minMajor : Nat) (caps : BitVec 32) (s0 : State) :
    Host.Outcome State Fault Refusal :=
  .next ((s0.masterTime t).mboxAttach primary peer maxMajor minMajor caps.toNat)

/-- MBOX_TWIN_DETACH: after the current checkpoint, if one is open. -/
def State.mboxDetach (s : State) : State :=
  s.mboxTake 0x50 (fun x =>
    if !x.paired then x.mboxAnswer 3 []
    else (if x.twin.openSeq.isSome then x.modTwin (fun y => { y with detach := true }) else x.unpair).mboxAnswer 0 [])

def execMboxTwinDetach (t : Nat) (s0 : State) : Host.Outcome State Fault Refusal := .next (s0.masterTime t).mboxDetach

/-! ### Streaming a checkpoint (R358) -/

/-- The twin site of an address, by granule parity. -/
def State.twinSiteOf (s : State) (a : Nat) : Nat := if a / 256 % 2 = 0 then s.siteA else s.siteB

/-- The fixed area of the standby's control island that takes the sequence mask; the spec does not give its address (log
entry 22). -/
def maskArea : Nat := 0xFFFFFFFF0000

/-- A TWIN_DATA flit of up to 15 words. -/
def State.twinData (s : State) (a : Nat) (ws : List Word) : State :=
  let site := s.twinSiteOf a
  (s.queueFlit site 4 (BitVec.ofNat 64 (a % 2 ^ 48 + (ws.length - 1) * 2 ^ 48)) ws).modTwin (fun x => { x with
    sentA := if site = s.siteA then x.sentA + 1 else x.sentA
    sentB := if site = s.siteA then x.sentB else x.sentB + 1
    bytes := x.bytes + 16 * ws.length })

/-- One granule, in two flits, or one word. -/
def State.twinItem (s : State) (a : Nat) (ws : List Word) : State :=
  let s1 := s.twinData a (ws.take 15)
  if ws.length ≤ 15 then s1 else s1.twinData (a + 240) (ws.drop 15)

/-- The owner of a frozen item's capture queue: its stack, or 24 + its cluster. -/
def State.captureOwner (s : State) (a : Nat) : Nat := if a / 2 ^ 44 = 0 then (s.hbmPlace a).stack else 24 + addrCluster a

/-- A TWIN_MARK flit. -/
def State.twinMark (s : State) (site kind seq flits : Nat) : State :=
  s.queueFlit site 5 (BitVec.ofNat 64 kind) [BitVec.ofNat 128 seq, BitVec.ofNat 128 (flits % 2 ^ 32)]

def maskWords (m : BitVec 2048) : List Word := (List.range 16).map (fun i => BitVec.ofNat 128 (m.toNat / 2 ^ (128 * i)))

/-- CHECKPOINT_STREAM: the next piece: start marks, a captured copy, the next frozen item, at last mask and end marks. -/
def State.streamStep (s : State) : State :=
  match s.twin.openSeq with
  | none => s
  | some c =>
    if s.twin.state ≠ 2 ∨ !(s.site s.siteA).up ∨ !(s.site s.siteB).up then s
    else if !s.twin.started then
      ((s.modTwin (fun x => { x with started := true, bytes := 0 })).twinMark s.siteA 0 c 0).twinMark s.siteB 0 c 0
    else match s.twin.captured, s.twin.frozen with
      | (a, ws) :: rest, _ =>
        (s.modTwin (fun x => { x with captured := rest, holding := x.holding.filter (· ≠ s.captureOwner a) })).twinItem a ws
      | [], a :: rest =>
        let (ws, s1) := (s.modTwin (fun x => { x with frozen := rest })).frozenCopy a
        s1.twinItem a ws
      | [], [] =>
        let data := s.twin.bytes
        let s1 := s.twinItem maskArea (maskWords s.twin.mask)
        let s2 := (s1.twinMark s.siteA 1 c s1.twin.sentA).twinMark s.siteB 1 c s1.twin.sentB
        let s3 := s2.modTwin (fun x => { x with openSeq := none, started := false, bytes := 0 })
        let s4 := (s3.setReg (.twin .ckptLast) (regOf c)).setReg (.twin .ckptBytes) (regOf data)
        if s.twin.detach then s4.unpair else s4

/-- Does a device address lie in an import page? -/
def State.importPage (s : State) (a : Nat) : Bool :=
  decide (a / 2 ^ 44 = 0) && match s.pageOf a with | some p => p.imp.isSome | none => false

/-- TWIN_DATA at the standby: its own shadows; the mask; storage that is not versioned as it is. An import page takes it in the half that
it shows at the checkpoint's commit (DESIGN CHOICE, log entry 69). -/
def State.twinStore (s : State) (t a : Nat) (ws : List Word) : State :=
  if !s.standbyOpen then s
  else
    let s1 := s.modTwin (fun x => { x with
      sentA := if t = s.siteA then x.sentA + 1 else x.sentA
      sentB := if t = s.siteA then x.sentB else x.sentB + 1 })
    if maskArea ≤ a ∧ a < maskArea + 256 then
      let i := (a - maskArea) / 16
      let old := maskWords s1.twin.mask
      let new := (List.range 16).map (fun j => if i ≤ j ∧ j < i + ws.length then ws.getD (j - i) 0 else old.getD j 0)
      s1.modTwin (fun x => { x with mask := BitVec.ofNat 2048 (leNat (wordsBytes new)) })
    else
      let s2 := s1.modTwin (fun x => { x with bytes := x.bytes + 16 * ws.length })
      if s2.importPage a then s2.hbmPuts (if s.twin.openSeq.getD 0 % 2 = 1 then a + 0x10000 else a) ws
      else if a / 2 ^ 44 = 0 then
        (s2.hbmTouch a true).hbmBytes State.hbmShadowAt a (wordsBytes ws) (ws.length + 1)
      else
        s2.writeMany (fun x i d => x.writeMu (addrCluster a) i d) (addrOffset a / 16) ws

/-- R361: the standby has applied checkpoint `c`, the one that the primary streamed last: with the first one, the primary is attached. -/
def State.primaryTold (s : State) (kind c : Nat) : State :=
  if s.twin.state = 2 ∧ kind = 1 ∧ s.twin.taken = c ∧ s.twin.openSeq = none ∧ !s.twin.attached then
    (s.modTwin (fun x => { x with attached := true })).raise 364 0x5B 0 0 0 0
  else s

/-- TWIN_MARK at the standby, whose own marks go to the primary. A count that does not match discards the checkpoint. -/
def State.twinMarked (s : State) (t kind : Nat) (ws : List Word) : State :=
  if s.twin.state ≠ 3 then s.primaryTold kind ((ws.getD 0 0).toNat % 2 ^ 64)
  else
    let c := (ws.getD 0 0).toNat % 2 ^ 64
    let n := (ws.getD 1 0).toNat % 2 ^ 32
    match kind with
    | 0 =>
      if s.twin.openSeq = some c then s
      else s.dropCheckpoint.modTwin (fun x => { x with openSeq := some c, endA := none, endB := none, sentA := 0, sentB := 0, bytes := 0 })
    | 1 =>
      if s.twin.openSeq ≠ some c then s
      else
        let s1 := s.modTwin (fun x => if t = s.siteA then { x with endA := some n } else { x with endB := some n })
        if n ≠ (if t = s.siteA then s.twin.sentA else s.twin.sentB) then s1.dropCheckpoint else s1
    | 2 => s.dropCheckpoint
    | _ => s

/-! ### Flits (R341-R344) -/

/-- Class of a flit type; IDLE has none. -/
def flitClass : Nat → Nat
  | 3 => 1
  | 4 => 2
  | 5 => 2
  | _ => 0

/-- Words of an export's next IMPORT flit. -/
def State.exportNext (s : State) (t : Nat) (e : Export) : Nat := min 15 (s.exportLen t e.desc - e.next)

/-- Have they all come? -/
def State.exportReady (s : State) (t : Nat) (e : Export) : Bool :=
  (List.range (s.exportNext t e)).all (fun i => (e.got.find? (e.next + i)).isSome)

/-- That flit (R342, R353). -/
def State.exportFlit (s : State) (t : Nat) (e : Export) : CasrikFlit :=
  let w (k : Nat) : Nat := s.regN (.optExport t e.desc k)
  let n := s.exportNext t e
  let spec := field (w 0) 27 24 + (field (w 4) 27 0 + e.next) * 2 ^ 4 + (n - 1) * 2 ^ 32 + (e.commit + 1) % 2 * 2 ^ 36
  ⟨3, 0, 0, false, 0, 0, 0, BitVec.ofNat 64 spec, (List.range n).map (fun i => e.got.get 0 (e.next + i))⟩

/-- The export after its next flit; it asks for more words, or it is over. -/
def State.exportSent (s : State) (t : Nat) (e : Export) : State :=
  let n := s.exportNext t e
  if s.exportLen t e.desc ≤ e.next + n then s.modSite t (fun y => { y with exports := y.exports.filter (fun x => decide (x.desc ≠ e.desc)) })
  else (s.modExport t e.desc (fun x => { x with
    next := x.next + n, got := (List.range n).foldl (fun m i => m.erase (x.next + i)) x.got })).exportsAsk t

/-- What the site's next new flit is: the first waiting one that the site carries and whose class has credit, else a flit of the first of
its exports that has its words, else IDLE. -/
def State.nextFlit (s : State) (t : Nat) : Option CasrikFlit × State :=
  let x := s.site t
  let credit (k : Nat) : Bool := decide (0 < x.credits.getD k 0)
  let goes (f : CasrikFlit) : Bool := s.carries t f.type && credit (flitClass f.type)
  match x.outq.find? goes with
  | some f => (some f, s.modSite t (fun y => { y with outq := y.outq.takeWhile (fun g => !goes g) ++ (y.outq.dropWhile (fun g => !goes g)).drop 1 }))
  | none =>
    match x.exports.find? (s.exportReady t) with
    | some e => if credit 1 && s.carries t 3 then (some (s.exportFlit t e), s.exportSent t e) else (none, s)
    | none => (none, s)

/-! ### A flit on the fibre (R341, R342) -/

/-- The header word. -/
def headerWord (f : CasrikFlit) : Word :=
  BitVec.ofNat 128 (f.type % 16 + f.seq % 4096 * 2 ^ 4 + f.ack % 4096 * 2 ^ 16 + b2n f.nak * 2 ^ 28 + f.cr0 % 256 * 2 ^ 32
    + f.cr1 % 256 * 2 ^ 40 + f.cr2 % 256 * 2 ^ 48 + f.spec.toNat * 2 ^ 64)

/-- The 16 words of a flit; what its payload does not fill is zero. -/
def flitWords (f : CasrikFlit) : List Word := headerWord f :: (List.range 15).map (fun i => f.payload.getD i 0)

/-- The `i`-th set bit of a mask of wavelengths, in ascending number. -/
def nthWavelength (wl : BitVec 8) (i : Nat) : Nat := ((List.range 8).filter (fun k => wl.getLsbD k)).getD i 0

/-- A flit leaves, whole, on the wavelength that its number names, each word in its codeword. -/
def Site.emit (x : Site) (f : CasrikFlit) : Site :=
  { x with
    wire := some (nthWavelength x.wl (x.sent % max 1 (popcount 8 x.wl.toNat)), (flitWords f).map codeword)
    sent := x.sent + 1 }

/-- The header of a flit as it leaves: acknowledgement, nak, credits owed (at most 255 a class). -/
def Site.header (x : Site) (f : CasrikFlit) (seq : Nat) : CasrikFlit :=
  { f with
    seq := seq, ack := x.rxSeq, nak := x.nakDue
    cr0 := min 255 (x.owed.getD 0 0), cr1 := min 255 (x.owed.getD 1 0), cr2 := min 255 (x.owed.getD 2 0) }

def Site.paid (x : Site) : Site := { x with nakDue := false, owed := x.owed.map (fun n => n - min 255 n) }

def idleFlit : CasrikFlit := ⟨0, 0, 0, false, 0, 0, 0, 0, []⟩

/-- CASRIK_FLIT_SEND. `txSeq` is the last number sent: after a nak it stands before flits that the site keeps, and those go again first,
as they were. -/
def State.flitSend (s : State) (t : Nat) : State :=
  let x := s.site t
  if 96 ≤ t ∨ !x.up then s
  else
    let seq := (x.txSeq + 1) % 4096
    match x.resend.find? (fun f => f.seq == seq) with
    | some f => ((s.modSite t (fun y => { y.emit f with txSeq := seq })).count (.opt t .resend) 1).count (.opt t .txFlits) 1
    | none =>
      let (o, s1) := s.nextFlit t
      match o with
      | none => (s1.modSite t (fun y => (y.emit (y.header idleFlit 0)).paid)).count (.opt t .txFlits) 1
      | some f =>
        let k := flitClass f.type
        (s1.modSite t (fun y => { (y.emit (y.header f seq)).paid with
          txSeq := seq
          credits := y.credits.set k (y.credits.getD k 0 - 1)
          resend := (y.resend ++ [y.header f seq]).drop (y.resend.length + 1 - 2048) })).count (.opt t .txFlits) 1

def execCasrikFlitSend (t site : Nat) (s0 : State) : Host.Outcome State Fault Refusal := .next ((s0.masterTime t).flitSend site)

/-- What a MGMT flit of subtype 0 or 1 tells of the peer: its identity, its version offer (R345). The spec does not give the place of what
they carry (DESIGN CHOICE, log entry 66). -/
def State.peerIdentity (s : State) (t : Nat) (serial : Reg) (index site : Nat) : State :=
  (s.setReg (.opt t .peer) (regOf (2 ^ 31 + index % 64 * 2 ^ 24 + site % 128 * 2 ^ 16))).setReg (.opt t .peerSerial) serial

def State.peerOffer (s : State) (t mx mn caps : Nat) : State :=
  (s.setReg (.opt t .version) (agreementWord (agreeMajor 1 1 mx mn))).setReg (.opt t .caps) (if majorOk mx mn then regOf (caps % 4) else 0)

/-- A flit is delivered (R342, R349, R350, R353, R358, R359). -/
def State.deliver (s : State) (t : Nat) (f : CasrikFlit) : State :=
  let spec := f.spec.toNat
  let w := (f.payload.getD 0 0).toNat
  if !s.carries t f.type then s
  else match f.type with
  | 1 =>
    match field spec 7 0 with
    | 0 => s.peerIdentity t (regOf w) (field w 77 72) (field w 70 64)
    | 1 => s.peerOffer t (field w 31 24) (field w 23 16) (field w 63 32)
    | 2 => s.modSite t (fun x => { x with feed := some ((f.payload.getD 0 0).setWidth 64) })
    | 3 => if s.isTwinSite t then s.modTwin (fun x => { x with mgmtSeen := true }) else s
    | 4 => if s.isTwinSite t then s.takeover else s
    | _ => s
  | 2 =>
    match s.siteUse t with
    | some u => s.tokenArrive u.peerIndex t ((f.payload.getD 1 0).toNat % 2 ^ 64)
    | none => s
  | 3 =>
    let ws := f.payload.take (field spec 35 32 + 1)
    s.importWords t (field spec 3 0) (field spec 31 4) (field spec 36 36) ws ws.length
  | 4 => s.twinStore t (field spec 47 0) (f.payload.take (field spec 51 48 + 1))
  | 5 => s.twinMarked t (field spec 3 0) f.payload
  | _ => s

/-- Credits and acknowledgement of a header. -/
def State.flitHeader (s : State) (t : Nat) (f : CasrikFlit) : State :=
  s.modSite t (fun x => { x with
    credits := [x.credits.getD 0 0 + f.cr0, x.credits.getD 1 0 + f.cr1, x.credits.getD 2 0 + f.cr2]
    ackd := f.ack
    txSeq := if f.nak then f.ack % 4096 else x.txSeq })

/-- What the decoders corrected is counted: FEC codewords, and words of the flit (R340, R362, R400). -/
def State.flitCorrected (s : State) (t wl : Nat) (c : FlitCheck) : State :=
  let n := c.corrected.length
  let s1 := s.count (.opt t .fecCorr) c.fec
  if n = 0 then s1
  else (s1.count (.rel .ce) n).modSite t (fun x => { x with
    firstCe := if x.firstCe.isSome then x.firstCe else some wl, ceStitch := x.ceStitch + n })

/-- R344: an uncorrectable flit, or one of a reserved type. Word errors are classified as detections of the site (R408). -/
def State.flitBad (s : State) (t wl : Nat) (word : Bool) : State :=
  (((((s.modSite t (fun y => { y with nakDue := true, discard := true })).count (.opt t .ue) 1).count (.rel .ue) (b2n word)).raise (264 + t) 0x26 wl 6 0 0).voidSite
    t 2).detect (216 + t) wl 2 0 0

/-- CASRIK_FLIT_RECEIVE. After a bad flit every flit is discarded until the resend arrives, the one next in order; one that is out of order
is discarded in any case. The buffers drain as flits are delivered. -/
def State.flitReceive (s0 : State) (t : Nat) (f : CasrikFlit) (wl : Nat) (c : FlitCheck) : State :=
  let x := s0.site t
  if 96 ≤ t ∨ !x.up then s0
  else
    let s := s0.flitCorrected t wl c
    if c.bad ∨ 6 ≤ f.type then s.flitBad t wl c.bad
    else if f.type = 0 then (if x.discard then s else (s.flitHeader t f).count (.opt t .rxFlits) 1)
    else if f.seq ≠ (x.rxSeq + 1) % 4096 then s
    else
      let k := flitClass f.type
      let s1 := ((s.flitHeader t f).modSite t (fun y => { y with
        rxSeq := f.seq, discard := false, owed := y.owed.set k (y.owed.getD k 0 + 1) })).count (.opt t .rxFlits) 1
      s1.deliver t f

def execCasrikFlitReceive (t site : Nat) (f : CasrikFlit) (wl : Nat) (check : FlitCheck) (s0 : State) : Host.Outcome State Fault Refusal :=
  .next ((s0.masterTime t).flitReceive site f wl check)

/-! ### Training and wavelengths (R345-R347) -/

/-- R345, steps 3 and 4: the engine's own identity and version offer, as MGMT flits (log entry 66). -/
def State.helloFlits (s : State) (t : Nat) : List CasrikFlit :=
  let index := match s.ctx? s.stitch.active with | some c => c.image.partition % 64 | none => 0
  [⟨1, 0, 0, false, 0, 0, 0, 0, [BitVec.ofNat 128 (s.fuses.serial.toNat + t * 2 ^ 64 + index * 2 ^ 72)]⟩,
   ⟨1, 0, 0, false, 0, 0, 0, 1, [BitVec.ofNat 128 (1 * 2 ^ 24 + 1 * 2 ^ 16 + 3 * 2 ^ 32)]⟩]

/-- A site that comes up among others of its peer counts the tokens that arrived while it was down (DESIGN CHOICE, log entry 67). -/
def State.catchUp (s : State) (t : Nat) : State :=
  match s.siteUse t with
  | none => s
  | some u =>
    if u.twin then s
    else
      let most := ((s.peerSites u.peerIndex).map (fun q => (s.site q).tokens)).foldl (fun a l => if a.length < l.length then l else a) []
      s.modSite t (fun x => { x with tokens := if x.tokens.length < most.length then most else x.tokens })

/-- SITE_TRAINING. A record that cannot be used takes full training and is written anew. -/
def State.siteTrain (s : State) (t : Nat) (r : SiteTrain) : State :=
  let x := s.site t
  if 96 ≤ t ∨ !x.training ∨ s.sup.bootStep < 4 then s
  else
    let fromCrease := r.restored && (s.siteRecord t r.peerSerial).isSome
    let how := if fromCrease then 1 else 2
    let s1 := s.modSite t (fun y => { y with
      training := false, train := how, bootTrain := if y.bootTrain = 0 then how else y.bootTrain, hello := s.helloFlits t })
    let s2 := if fromCrease then s1 else (s1.raise 366 0x71 1 t 0 0).writeSite t r.peerSerial
    if r.wavelengths = 0 then s2.raise (264 + t) 0x50 0 0 0 0
    else
      let s4 := (s2.peerIdentity t r.peerSerial r.peerIndex r.peerSite).peerOffer t r.maxMajor r.minMajor r.caps.toNat
      if !majorOk r.maxMajor r.minMajor then s4.mismatch (264 + t) 2 r.maxMajor r.minMajor
      else
        ((s4.modSite t (fun y => { y with
          up := true, wl := r.wavelengths, txSeq := 0, rxSeq := 0, ackd := 0, nakDue := false, discard := false, resend := []
          credits := [32, 1024, 1024], owed := [0, 0, 0], sent := 0 })).catchUp t).inventoryAgain

def execSiteTraining (t site : Nat) (r : SiteTrain) (s0 : State) : Host.Outcome State Fault Refusal :=
  .next ((s0.masterTime t).siteTrain site r)

/-- Does the image of context `c` assign the site? -/
def assigns (t : Nat) (c : Ctx) : Bool := c.image.sites.any (fun u => u.site == t)

/-- SITE_DOWN: the last wavelength is lost. -/
def State.siteDown (s : State) (t : Nat) : State :=
  if 96 ≤ t ∨ !(s.site t).up then s
  else
    let s1 := s.modSite t (fun x => { x with
      up := false, wl := 0, training := true, train := 0, resend := [], nakDue := false, discard := false })
    let s2 := s1.raise (264 + t) 0x50 1 0 0 0
    let s3 := if s2.stitch.phase = .before ∧ (s2.stitch.votes.find? (216 + t)).isSome then
        s2.modStitch (fun k => { k with votes := k.votes.set (216 + t) (0, 0) })
      else s2
    let s4 := (List.range 4).foldl (fun (x : State) k => match x.ctx? k with
      | some c => if assigns t c && !c.halted then x.haltCtx k false else x
      | none => x) s3
    (if s.isTwinSite t then s4.dropCheckpoint else s4).inventoryAgain

def execSiteDown (t site : Nat) (s0 : State) : Host.Outcome State Fault Refusal := .next ((s0.masterTime t).siteDown site)

/-- WAVELENGTH_DROP: flits that were lost with it are asked for again. Losing the last one takes the site down. -/
def State.dropWavelength (s : State) (t w : Nat) : State :=
  let x := s.site t
  if 96 ≤ t ∨ 8 ≤ w ∨ !x.up ∨ !x.wl.getLsbD w then s
  else
    let wl := x.wl &&& ~~~(BitVec.ofNat 8 (2 ^ w))
    if wl = 0 then s.siteDown t
    else (s.modSite t (fun y => { y with wl := wl, nakDue := true })).raise (264 + t) 0x51 (popcount 8 wl.toNat) (popcount 8 x.wl.toNat) 0 0

def execWavelengthDrop (t site w : Nat) (s0 : State) : Host.Outcome State Fault Refusal := .next ((s0.masterTime t).dropWavelength site w)

/-- WAVELENGTH_REJOIN. -/
def State.rejoinWavelength (s : State) (t w : Nat) : State :=
  let x := s.site t
  if 96 ≤ t ∨ 8 ≤ w ∨ !x.up ∨ x.wl.getLsbD w then s
  else
    ((s.modSite t (fun y => { y with wl := x.wl ||| BitVec.ofNat 8 (2 ^ w), retrains := y.retrains + 1 })).count (.opt t .retrain) 1).raise
      (264 + t) 0x52 (x.retrains + 1) 0 0 0

def execWavelengthRejoin (t site w : Nat) (s0 : State) : Host.Outcome State Fault Refusal :=
  .next ((s0.masterTime t).rejoinWavelength site w)

/-! ### Exports (R354) -/

/-- Is descriptor `d` enabled, with its start reached and not yet begun in the stitch? -/
def State.exportDue (s : State) (t d : Nat) : Bool :=
  let w := s.regN (.optExport t d 0)
  bitOf w 31 && decide (field w 23 0 ≤ s.clk.ns) && !(s.site t).begun.contains d

def State.exportBegin (s : State) (t d : Nat) : State :=
  let start (e : Nat) : Nat := field (s.regN (.optExport t e 0)) 23 0
  if 96 ≤ t ∨ 16 ≤ d ∨ !(s.site t).up ∨ !s.stitch.session ∨ s.stitch.kind ≠ .work ∨ s.stitch.phase ≠ .before
      ∨ (s.stitch.votes.find? (216 + t)).isSome ∨ !s.carries t 3 ∨ !s.exportDue t d
      ∨ (List.range 16).any (fun e => s.exportDue t e && decide (start e < start d ∨ (start e = start d ∧ e < d))) then s
  else (s.modSite t (fun x => { x with
    begun := insertSorted d x.begun, exports := x.exports ++ [⟨d, 0, s.stitch.commitSeq, 0, [], []⟩] })).exportAsk t d 64

def execExportStart (t site d : Nat) (s0 : State) : Host.Outcome State Fault Refusal := .next ((s0.masterTime t).exportBegin site d)

end Sys2Proof.Machine
end

