-- ==== Sys2Proof/Machine/VectorMath.lean ====
section
/-! DEFINITION. The arithmetic of the four vector stages (R100-R102, R132). -/

namespace Sys2Proof.Machine

/-- The working type of a pass: FP32 when `width` is 0, BF16 when 1 (R100). -/
def workFmt (width : Bool) : Fmt := if width then bf16 else fp32

/-- R132: max with −0 below +0; a NaN operand gives NaN. -/
def vmax (x y : Num) : Num :=
  if isNaN x || isNaN y then .nan
  else if numLt x y then y
  else if numLt y x then x
  else match x, y with
    | .fin true 0 _, .fin _ 0 _ => y
    | _, _ => x

def vmin (x y : Num) : Num := numNeg (vmax (numNeg x) (numNeg y))

/-- The flags of a stage's rounding: a stage sets inexact and invalid; overflow and underflow are a conversion's (R134). -/
def stageFlags (g : FlagSet) : FlagSet := g &&& (flInexact ||| flInvalid)

/-- A stage's sum, rounded once to the working type (R132). -/
def stageAdd (f : Fmt) (x y : Num) : Num × FlagSet :=
  let (r, g) := roundTo f (addExact x y)
  (r, stageFlags (g ||| addFlags x y))

/-- A stage's exact result, rounded once to the working type: at width 1 a constant may lie between its values. -/
def stageRound (f : Fmt) (x : Num) : Num × FlagSet :=
  let (r, g) := roundTo f x
  (r, stageFlags g)

/-- Stage 1 (R101, R132). The codes 0xA-0xF are reserved and refused at load; they pass here. -/
def aluStage (f : Fmt) (op : Nat) (x y : Num) : Num × FlagSet :=
  match op with
  | 1 => stageAdd f x y
  | 2 => stageAdd f x (numNeg y)
  | 3 => stageRound f (vmax x y)
  | 4 => stageRound f (vmin x y)
  | 5 => (numAbs x, 0)
  | 6 => (vmax x posZero, 0)
  | 7 => (if numLt y x then numOne else posZero, 0)
  | 8 => (if numEq x y then numOne else posZero, 0)
  | 9 => (if isZero y then posZero else x, 0)
  | _ => (x, 0)

/-- R132: does the product multiply a zero by an infinity? -/
def zeroTimesInf (x y : Num) : Bool :=
  match x, y with
  | .fin _ 0 _, .inf _ => true
  | .inf _, .fin _ 0 _ => true
  | _, _ => false

/-- Fused multiply-add (R132): the zero rule of R118 does not apply here. -/
def fmaOp (f : Fmt) (x y z : Num) : Num × FlagSet :=
  if zeroTimesInf x y then (.nan, flInvalid)
  else
    let p := if isNaN x || isNaN y then .nan else product x y
    stageAdd f p z

/-- Stage 2 (R101). -/
def fmaStage (f : Fmt) (op : Nat) (x y c0 c1 : Num) : Num × FlagSet :=
  match op with
  | 1 => fmaOp f x c0 c1
  | 2 => fmaOp f x y c1
  | 3 => fmaOp f x c0 y
  | _ => (x, 0)

/-- Taylor sum of e^y over `n` terms, in units of 2^-256. -/
def expSeries (y : Nat) : Nat → Nat → Nat → Nat → Nat
  | 0, _, _, acc => acc
  | n + 1, k, term, acc =>
    let t := term * y / 2 ^ 256 / k
    expSeries y n (k + 1) t (acc + t)

def sqTimes : Nat → Nat → Nat
  | 0, x => x
  | n + 1, x => sqTimes n (x * x / 2 ^ 256)

/-- e^x for `0 ≤ x`, in units of 2^-256, far closer than the bound of R102. -/
def expPos (mag : Nat) (exp : Int) : Nat :=
  let x := min (inUnits mag 1 exp (-256)).1 (200 * 2 ^ 256)
  sqTimes 8 (expSeries (x / 2 ^ 8) 60 1 (2 ^ 256) (2 ^ 256))

/-- The magnitude e^x, 1/x or 1/√x as numerator over denominator times 2^exp. -/
def sfuExact (op : Nat) (neg : Bool) (mag : Nat) (exp : Int) : Nat × Nat × Int :=
  match op with
  | 1 =>
    let e := expPos mag exp
    if neg then (2 ^ 512 / e, 1, -256) else (e, 1, -256)
  | 2 => (1, mag, -exp)
  | _ =>
    -- 1/√(mag 2^exp): scale the square root by 2^200
    let odd := exp % 2 != 0
    let m := if odd then 2 * mag else mag
    let h := (if odd then exp - 1 else exp) / 2
    (2 ^ 400, Nat.sqrt (m * 2 ^ 400), -200 - h)

/-- Does a delivered value equal the function's exact value (R132)? e^x is irrational but at 0. -/
def sfuIsExact (op : Nat) (mag : Nat) (exp : Int) (r : Num) : Bool :=
  match r with
  | .fin _ m e =>
    match op with
    | 1 => decide (mag = 0) && numEq r numOne
    | 2 => leExp (m * mag) (e + exp) 1 0 && leExp 1 0 (m * mag) (e + exp)
    | _ => leExp (m * m * mag) (e + e + exp) 1 0 && leExp 1 0 (m * m * mag) (e + e + exp)
  | _ => false

/-- Does a finite FP32 value lie within `k` units in the last place of num / den * 2^exp? -/
def withinUlp (k : Nat) (v : Num) (num den : Nat) (exp : Int) : Bool :=
  match v with
  | .fin false m e =>
    match addExact (.fin false (m * den) e) (.fin true num exp) with
    | .fin _ x g => leExp x g (k * den) (max (floorLog2 num den exp) (-126) - 23)
    | _ => false
  | _ => false

/-- R102: the FP32 bits of the result: the implementation's own, which is free within the bound of R102 (1 unit in the last
place for 1/x, else 2); one outside it gives the correctly rounded value. -/
def sfuBits (op : Nat) (x : BitVec 32) (neg : Bool) (mag : Nat) (exp : Int) : Nat :=
  let (n, d, e) := sfuExact op neg mag exp
  let base := (fp32.conv rne false n d e).1
  let b := if op = 2 then 1 else 2
  let own := base + Config.sfuOffset op x % (4 * b + 1) - 2 * b
  if withinUlp b (fp32.decode own) n d e then own else base

/-- Stage 3 (R101, R102, R132). -/
def sfuStage (f : Fmt) (op : Nat) (x : Num) : Num × FlagSet :=
  if op = 0 then (x, 0)
  else match x with
    | .nan => (.nan, 0)
    | .inf s =>
      if op = 1 then (if s then posZero else .inf false, 0)
      else if op = 2 then (.fin s 0 0, 0)
      else if s then (.nan, flInvalid) else (posZero, 0)
    | .fin s m e =>
      if op ≠ 1 ∧ m = 0 then (.inf s, 0)
      else if op = 3 ∧ s = true then (.nan, flInvalid)
      else
        let bits := sfuBits op (BitVec.ofNat 32 (fp32.pack s m e)) s m e
        let neg := s && op == 2
        let r32 := fp32.decode (bits + if neg then 2 ^ 31 else 0)
        let r := (roundTo f r32).1
        let (n, d, g) := sfuExact op s m e
        let ovf := !leExp n g (f.maxFin.1 * d) f.maxFin.2
        let under := !leExp d (1 - (f.bias : Int)) n g
        let inex := !sfuIsExact op m e r
        (r, (if ovf then flOverflow else 0) ||| (if inex then flInexact else 0)
          ||| (if under && inex then flUnderflow else 0))

end Sys2Proof.Machine
end

