-- ==== Sys2Proof/Machine/Vector.lean ====
section
/-! DEFINITION. The vector pipeline: VECTOR_ISSUE and VECTOR_RESULT_WRITE (R90, R93, R100-R102, R130-R132, R150, R151). -/

namespace Sys2Proof.Machine

def State.modVec (s : State) (u : Nat) (f : Vec → Vec) : State := s.modCu u (fun cu => { cu with vec := f cu.vec })

/-- R130: does an input of this descriptor convert and step the generator? -/
def inputConverts (width : Bool) (d : Desc) : Bool :=
  d.scaleType != 0 || d.etype == 10 || (width && (d.etype == 0 || d.etype == 2))

/-- FP32 value of vector constant register `k`. -/
def State.vconst (s : State) (u k : Nat) : Num := fp32.decode (s.regN (.vconst u k))

/-- Element `n` of a link input; absent positions read +0. -/
def Loading.elem (l : Loading) (d : Desc) (n : Nat) : Num :=
  let k := n % d.kLen
  let line := (l.lines[n / d.kLen]?).getD (if l.bad then [] else l.cur)
  match lookupLine line k with
  | some c => elemVal d.etype false c
  | none => posZero

/-- Element `n` of a staged memory operand. -/
def Staged.elem (x : Staged) (n : Nat) : Num :=
  let l := n / x.desc.kLen
  let k := n % x.desc.kLen
  match lookupLine (x.lines.getD l []) k with
  | some c => x.scaledVal l k c
  | none => posZero

/-- R93: element `n` of a tile read through a descriptor, and what reading it sets. The tile's own class decides how it is read, whatever
the descriptor's type (DESIGN CHOICE, log entry 60). -/
def Tile.elem (x : Tile) (d : Desc) (n : Nat) : Num × FlagSet :=
  let l := n / d.kLen
  let k := n % d.kLen
  if k < 16 ∧ l < 16 then x.value (16 * l + k) else (posZero, 0)

/-- Elements `[first, first + n)` of an input, and what reading them sets. -/
def State.vecInput (s : State) (u : Nat) (d : Desc) (buf : Loading) (first n : Nat) : List (Num × FlagSet) :=
  if isLinkSrc d.source then (List.range n).map (fun i => (buf.elem d (first + i), 0))
  else if d.source = 8 then List.replicate n (s.vconst u (d.base / 16 % 8), 0)
  else if 6 ≤ d.source then (List.range n).map (fun i => ((s.cu u).ste.tile (d.source - 6)).elem d (first + i))
  else
    let st := (s.operandOf u d).1
    (List.range n).map (fun i => (st.elem (first + i), 0))

/-- R130: convert a group's inputs to the working type in lane order. -/
def convInputs (f : Fmt) (mode : Nat) (conv : Bool) : BitVec 16 → List Num → List Num × FlagSet × BitVec 16
  | l, [] => ([], 0, l)
  | l, v :: rest =>
    if conv then
      let l' := if mode = 3 then lfsrStep l else l
      let c : ConvMode := ⟨mode, l'.toNat, false, false, false⟩
      let (b, g') : Nat × FlagSet := match v with
        | .nan => (f.canonNaN, 0)
        | .inf t => (f.infBits t, 0)
        | .fin t m e => f.conv c t m 1 e
      let (vs, gs, l2) := convInputs f mode conv l' rest
      (f.decode b :: vs, g' ||| gs, l2)
    else
      let (vs, gs, l2) := convInputs f mode conv l rest
      (v :: vs, gs, l2)

/-- Stages 1 to 3 for one element (R101, R132). -/
def vecStages (op : VecOp) (x y c0 c1 : Num) : Num × FlagSet :=
  let f := workFmt op.width
  let (a, g1) := aluStage f op.alu x y
  let (b, g2) := fmaStage f op.fma a y c0 c1
  let (c, g3) := sfuStage f op.sfu b
  (c, g1 ||| g2 ||| g3)

/-- Has every earlier-issued tensor instruction on tile `k` completed, and its comparison (R90)? -/
def Ste.settled (x : Ste) (k no : Nat) : Bool :=
  x.queue.all (fun j => j.drain || j.op.tile != k || decide (no < j.no))
  && (match x.run with | some r => r.job.op.tile != k | none => true)
  && x.results.all (fun r => r.tile != k)

/-- R89, R90: a pass that reads a tile closes it first; the answer says whether the read may go on. -/
def State.tileReady (s : State) (u : Nat) (d : Desc) (no : Nat) : Bool × State :=
  if d.source = 6 ∨ d.source = 7 then
    let k := d.source - 6
    let tl := (s.cu u).ste.tile k
    if !(s.cu u).ste.settled k no || !tl.closings.isEmpty then (false, s)
    else if tl.isOpen then (false, s.modSte u (fun y => y.setTile k (tl.close (tl.closeLast + 8) tl.lastNo)))
    else (true, s)
  else (true, s)

/-- Fetch one flit of a link input when the group needs it; none when the link gives none. -/
def State.vecFlit (s : State) (u : Nat) (d : Desc) (buf : Loading) (need k : Nat) : Option (Loading × State) :=
  if !isLinkSrc d.source || buf.has d need then some (buf, s)
  else match s.takeLocal u (d.source - 2) k with
    | none => none
    | some (x, s1) =>
      let (b1, bad) := buf.flit d x.data
      some (b1, if bad then s1.malformed u 3 5 0 else s1)

/-- The link inputs of a group that needs the first `need` elements. Of two links neither gives a flit while the other has none (R226); one
link that is both X and Y gives its flits one in a cycle to each, as R27 chooses (R216). -/
def State.vecFlits (s : State) (u : Nat) (r : VecRun) (need : Nat) : Option ((Loading × Loading) × State) :=
  let j := r.job
  if j.usesY && isLinkSrc j.x.source && j.y.source == j.x.source && !r.xbuf.has j.x need && !r.ybuf.has j.y need then
    match s.vecFlit u j.x r.xbuf need 2 with
    | some (xb, s1) => some ((xb, r.ybuf), s1)
    | none => match s.vecFlit u j.y r.ybuf need 3 with
      | some (yb, s1) => some ((r.xbuf, yb), s1)
      | none => none
  else match s.vecFlit u j.x r.xbuf need 2 with
    | none => none
    | some (xb, s1) =>
      if j.usesY then match s1.vecFlit u j.y r.ybuf need 3 with
        | some (yb, s2) => some ((xb, yb), s2)
        | none => none
      else some ((xb, r.ybuf), s1)

/-- Issue the next group of the running pass (R100). At width 1 the constants stay FP32 values (DESIGN CHOICE, log entry 60). -/
def State.vecGroup (s : State) (u : Nat) (r : VecRun) : State :=
  let j := r.job
  let n := min j.lanes (j.elements - r.pos)
  let t := (s.bay (bayOfCu u)).cycle
  match s.vecFlits u r (r.pos + n) with
  | none => s.linkStall u
  | some ((xb, yb), s2) =>
      let short := (isLinkSrc j.x.source && !xb.has j.x (r.pos + n)) || (j.usesY && isLinkSrc j.y.source && !yb.has j.y (r.pos + n))
      if short then s2.modVec u (fun v => { v with run := some { r with xbuf := xb, ybuf := yb } })
      else
        -- the consequences of the memory reads count once, with the first group (log entry 7)
        let touch (s' : State) (d : Desc) : State := if r.pos = 0 ∧ d.source < 2 then s'.touchOperand u 3 d else s'
        let xs := s2.vecInput u j.x xb r.pos n
        let ys := if j.usesY then s2.vecInput u j.y yb r.pos n else List.replicate n (r.c0, 0)
        let s3 := if j.usesY then touch (touch s2 j.x) j.y else touch s2 j.x
        let f := workFmt j.op.width
        let mode := s.roundMode (bayOfCu u) j.op.round
        let (vx, g1, l1) := convInputs f mode (inputConverts j.op.width j.x) (s.cu u).vec.lfsr (xs.map Prod.fst)
        let (vy, g2, l2) := convInputs f mode (j.usesY && inputConverts j.op.width j.y) l1 (ys.map Prod.fst)
        let rs := (vx.zip vy).map (fun (a, b) => vecStages j.op a b r.c0 r.c1)
        let last := decide (j.elements ≤ r.pos + n)
        let grp : VecGroup := ⟨j, r.pos, rs.map Prod.fst, t + 14, last⟩
        let s4 := s3.modVec u (fun v => { v with
          lfsr := l2, groups := v.groups ++ [grp]
          run := if last then none else some { r with pos := r.pos + n, xbuf := xb, ybuf := yb } })
        -- R124: an INT32 entry read outside its range sets the STE's flag
        (s4.stick u false ((xs ++ ys).foldl (fun a x => a ||| x.2) 0)).stick u true (rs.foldl (fun a x => a ||| x.2) (g1 ||| g2))

/-- VECTOR_ISSUE: the head pass starts if none runs (R101: it takes its constants then), and one group issues. Not due while
a group waits in the pack stage, whose conversions come first (R130). -/
def State.vectorIssue (s : State) (u : Nat) : State :=
  let v := (s.cu u).vec
  let t := (s.bay (bayOfCu u)).cycle
  if v.groups.any (fun g => decide (g.due ≤ t)) then s
  else match v.run with
    | some r => s.vecGroup u r
    | none =>
      match v.queue with
      | [] => s
      | j :: rest =>
        let (okX, s1) := s.tileReady u j.x j.no
        if okX then
          let c (k : Nat) : Num := s.vconst u (2 * j.op.constPair + k)
          let r : VecRun := ⟨j, 0, c 0, c 1, Loading.start, Loading.start⟩
          (s1.modVec u (fun v => { v with queue := rest, run := some r })).vecGroup u r
        else s1

def execVectorIssue (t u : Nat) (s0 : State) : Host.Outcome State Fault Refusal :=
  let s := s0.bayTime (bayOfCu u) t
  .next (if s.engineRuns u && !s.portHeld (u / 4) (u % 4) 2 && !s.portHeld (u / 4) (u % 4) 3 then s.vectorIssue u else s)

/-! ### Pack and write -/

/-- The destination as pack op 0 and 1 write it (R101). That of a reduce pass is written dense too, its element whatever its value, since R150
marks elements absent with pack op 1 alone (DESIGN CHOICE, log entry 60). -/
def VecJob.dest (j : VecJob) : Desc := if j.op.pack = 1 then j.d else { j.d with encoding := 0 }

def State.vecCfg (s : State) (u : Nat) (op : VecOp) : PackCfg :=
  ⟨s.roundMode (bayOfCu u) op.round, !op.overflow, s.e4m3Sat (bayOfCu u) op.satFinite⟩

/-- The flits of a line for a link that are formed once `p` of it is at hand (R147, R148): all of them when the line ends there (`whole`),
else those that no later element changes. -/
def formedFlits (d : Desc) (p : PackOut) (whole : Bool) : List Payload :=
  let known := p.codes.length
  if whole then lineFlits d p
  else if d.encoding = 1 then
    let fs := bitmapFlits (flitCap d.etype) d.kLen p.line (d.kLen + 1) 0
    let ends := fs.zipIdx.map (fun (_, i) => ((fs.take (i + 1)).map (fun f => f.2.2)).foldl (· + ·) 0)
    ((fs.zip ends).takeWhile (fun x => decide (x.2 ≤ known))).map (fun x => bitmapPayload d.etype x.1.1 x.1.2.1)
  else (densePayloads d.etype p.codes).take (known * widthOf d.etype / 256)

/-- R151: a pass to a link forms each flit as soon as its elements are at hand, counts it (R156), and has it wait for the link. With the
end of its line the next begins. A pass writes count + 1 lines; a line that its elements do not fill ends with them (DESIGN CHOICE, log
entry 60). -/
def State.vecForm (s : State) (u : Nat) (d : Desc) (p : PackOut) (whole : Bool) : State :=
  let o := (s.cu u).vec.out
  if d.count < o.line then s
  else
    let b := bayOfCu u
    let fs := formedFlits d p whole
    let tag := s.cuTag u
    let s1 := if d.encoding = 1 then s.count (.bay b .flitBitmap) (fs.length - o.flits) else s.count (.bay b .flitDense) (fs.length - o.flits)
    let s2 := if whole && d.encoding == 1 then (s1.countDropped b d p).count (.bay b .flitPresent) p.line.length else s1
    s2.modVec u (fun v => { v with
      outq := v.outq ++ (fs.drop o.flits).map (fun z => (d.source - 2, ⟨z, tag⟩))
      out := { v.out with line := if whole then o.line + 1 else o.line, flits := if whole then 0 else fs.length } })

/-- Write a converted line and move to the next; lines beyond count + 1 are not written (DESIGN CHOICE, log entry 60). -/
def State.vecLine (s : State) (u : Nat) (d : Desc) (p : PackOut) : State :=
  let o := (s.cu u).vec.out
  if d.count < o.line then s
  else
    let (s1, fl, nxt) := s.writeLine u d o.line o.addr p
    let tag := s1.cuTag u
    s1.modVec u (fun v => { v with
      outq := v.outq ++ fl.map (fun z => (d.source - 2, ⟨z, tag⟩))
      out := { v.out with line := o.line + 1, addr := nxt } })

/-- Take as many whole lines as the buffer holds; with `flush`, the rest too, a short line when the elements fill no whole one (DESIGN
CHOICE, log entry 60). `fuel` bounds the number of lines. A scaled line
converts, and steps the generator, when all of it is at hand (DESIGN CHOICE, log entry 34). -/
def State.vecLines (s : State) (u : Nat) (j : VecJob) (flush : Bool) : Nat → State
  | 0 => s
  | fuel + 1 =>
    let d := j.dest
    let o := (s.cu u).vec.out
    let n := max 1 d.kLen
    if d.scaleType = 0 then
      if n ≤ o.codes.length ∨ (flush ∧ o.codes ≠ []) then
        let cs := o.codes.take n
        let p : PackOut := ⟨cs.map Prod.fst, cs.map Prod.snd, [], 0, (s.cu u).vec.lfsr⟩
        let s1 := s.modVec u (fun v => { v with out := { v.out with codes := v.out.codes.drop n } })
        (if isLinkSrc d.source then s1.vecForm u d p true else s1.vecLine u d p).vecLines u j flush fuel
      else if isLinkSrc d.source ∧ o.codes ≠ [] then
        s.vecForm u d ⟨o.codes.map Prod.fst, o.codes.map Prod.snd, [], 0, (s.cu u).vec.lfsr⟩ false
      else s
    else if n ≤ o.vals.length ∨ (flush ∧ o.vals ≠ []) then
      let p := packLine d (s.vecCfg u j.op) (s.cu u).vec.lfsr (o.vals.take n)
      let s1 := (s.modVec u (fun v => { v with lfsr := p.lfsr, out := { v.out with vals := v.out.vals.drop n } })).stick u true p.flags
      (s1.vecLine u d p).vecLines u j flush fuel
    else s

/-- R102: a destination of source 0x8 takes the value as FP32, whatever element type the descriptor names and whatever the rounding mode, so
that it steps no generator (DESIGN CHOICE, log entry 60). -/
def State.vecConst (s : State) (u : Nat) (d : Desc) (v : Num) : State :=
  s.setReg (.vconst u (d.base / 16 % 8)) (regOf (bitsOf fp32 v))

/-- The values of a write pass go through pack. To a destination of source 0x8, which takes one element, the last value of each group
goes (DESIGN CHOICE, log entry 60). -/
def State.vecPack (s : State) (u : Nat) (g : VecGroup) : State :=
  let j := g.job
  let d := j.dest
  if d.source = 8 then
    match g.vals.getLast? with
    | some v => s.vecConst u d v
    | none => s
  else if d.scaleType = 0 then
    let p := packPlain d.etype (s.vecCfg u j.op) (s.cu u).vec.lfsr g.vals
    let s1 := (s.modVec u (fun v => { v with lfsr := p.lfsr, out := { v.out with codes := v.out.codes ++ p.codes.zip p.present } })).stick u true p.flags
    s1.vecLines u j g.final (g.vals.length + 1)
  else
    (s.modVec u (fun v => { v with out := { v.out with vals := v.out.vals ++ g.vals } })).vecLines u j g.final (g.vals.length + 1)

/-- R102: one step of a reduction. -/
def reduceStep (pack : Nat) (a : Option Num) (v : Num) : Option Num × FlagSet :=
  match a with
  | none => (some v, 0)
  | some x =>
    if pack = 2 then
      let (r, f) := stageAdd fp32 x v
      (some r, f)
    else (some (vmax x v), 0)

def reduceVals (pack : Nat) : Option Num → List Num → Option Num × FlagSet
  | a, [] => (a, 0)
  | a, v :: vs =>
    let (b, f) := reduceStep pack a v
    let (c, g) := reduceVals pack b vs
    (c, f ||| g)

/-- A reduce pass writes one element when its last group arrives (R102). -/
def State.vecReduce (s : State) (u : Nat) (g : VecGroup) : State :=
  let j := g.job
  let (a, f) := reduceVals j.op.pack (s.cu u).vec.out.acc g.vals
  let s1 := (s.modVec u (fun v => { v with out := { v.out with acc := a } })).stick u true f
  if g.final then
    let v := a.getD posZero
    if j.d.source = 8 then s1.vecConst u j.d v
    else
      let d : Desc := { j.dest with kLen := 1, count := 0 }
      let p := packLine d (s1.vecCfg u j.op) (s1.cu u).vec.lfsr [v]
      ((s1.modVec u (fun w => { w with lfsr := p.lfsr })).stick u true p.flags).vecLine u d p
  else s1

/-- VECTOR_RESULT_WRITE: the oldest group whose 14 cycles have passed leaves the pipeline. A flit of the pass that its link
has not taken holds it (R151). -/
def State.vectorResult (s : State) (u : Nat) : State :=
  let v := (s.cu u).vec
  let t := (s.bay (bayOfCu u)).cycle
  match v.groups with
  | [] => s
  | g :: rest =>
    if t < g.due then s
    else if v.outq ≠ [] then s.linkStall u
    else
      let start := if g.first = 0 then { VecOut.start with addr := g.job.d.base } else v.out
      let s1 := s.modVec u (fun w => { w with groups := rest, out := start })
      if g.job.op.pack = 2 ∨ g.job.op.pack = 3 then s1.vecReduce u g else s1.vecPack u g

def execVectorResultWrite (t u : Nat) (s0 : State) : Host.Outcome State Fault Refusal :=
  let s := s0.bayTime (bayOfCu u) t
  .next (if s.engineRuns u && !s.portHeld (u / 4) (u % 4) 4 then s.muHold (u / 4) (s.vectorResult u) else s)

end Sys2Proof.Machine
end

