-- ==== Sys2Proof/Machine/RegView.lean ====
section
/-! DEFINITION. What a read of a register shows. Registers that only show other state are computed here from it; the rest are
stored (R26, R66, R67, R107, R184, R208, R232-R234, R267-R269, R290, R291, R309, R317, R335-R338, R362, R363, R394-R396,
R422, R449, R473). -/

namespace Sys2Proof.Machine

/-- Fields of a register: value and low bit. -/
def fieldsReg (l : List (Nat × Nat)) : Reg := regOf (l.foldl (fun a e => a + e.1 * 2 ^ e.2) 0)

/-- The bits `i` below `n` that satisfy `f`. -/
def bitsWhere (n : Nat) (f : Nat → Bool) : Nat := (List.range n).foldl (fun a i => if f i then a + 2 ^ i else a) 0

/-! ### DEV (R19, R26, R317) -/

/-- Frequency in MHz of a clock domain that runs; 0 for one that is stopped. A waking bay's PLL locks 36 µs after its wake
starts (R374); the bay clock stretches to 1.5 times its period under R382. -/
def BayModes.wakeGrade (m : BayModes) : Nat := m.nextGrade.getD m.wakeAt

def State.domainMhz (s : State) (n : Nat) : Nat :=
  if n < 192 then
    let y := s.bay n
    match y.power with
    | .active => if y.stretching then s.mhz n * 2 / 3 else s.mhz n
    | .waking => match y.wakeStart with
      | some t0 => if t0 + 36000 ≤ s.clk.nsTotal then gradeMHz y.modes.wakeGrade else 0
      | none => gradeMHz y.modes.wakeGrade
    | _ => 0
  else if n < 240 then (if (s.panel (n - 192)).fabricOn then 1000 else 0)
  else if n < 360 then (if 3 ≤ s.sup.bootStep ∧ s.sup.seq ≠ 7 then 1000 else 0)
  else match n with
    | 360 => if s.host.linkUp then Config.pcieMhz s.host.linkRate else 0
    | 361 => if 0 < s.sup.bootStep ∧ s.sup.seq ≠ 7 then 500 else 0
    | 362 => if 3 ≤ s.sup.bootStep ∧ s.sup.seq ≠ 7 then 1000 else 0
    | 363 => if s.clk.running ∧ s.sup.seq ≠ 7 then 1000 else 0
    | _ => 0

/-- DEV_CLK_STATUS. The PLL of a domain whose clock is stopped reads as not locked, that of one that runs as locked (DESIGN CHOICE, log
entry 72). -/
def State.clkStatus (s : State) : Reg :=
  let f := s.domainMhz (s.regN (.dev .clkSel))
  if f = 0 then 0 else fieldsReg [(f % 65536, 16), (1, 1), (1, 0)]

def State.devView (s : State) : DevReg → Reg
  | .part => regOf (s.fuses.part % 4)
  | .stepping => fieldsReg [(s.fuses.major % 16, 4), (s.fuses.minor % 16, 0)]
  | .clkStatus => s.clkStatus
  | r => s.reg (.dev r)

/-- R317: what the T1 offers for each interface. -/
def ownCaps (i : Nat) : Nat := match i with | 0 => 1 | 2 => 3 | 3 => 1 | _ => 0

def State.verView (s : State) (i w : Nat) : Reg :=
  if 5 ≤ i ∨ 6 ≤ w then 0
  else match w with
    | 0 => regOf ownOffer
    | 1 => regOf (ownCaps i)
    | _ => s.reg (.ver i w)

/-! ### HOST and EVT (R325, R328, R333-R338) -/

def State.hostView (s : State) : HostReg → Reg
  | .pool => fieldsReg [(2048 - s.reservedSum, 16), (2048 - s.heldSum, 0)]
  | .mboxDoorbell => 0
  | r => s.reg (.host r)

def State.evtView (s : State) : EvtReg → Reg
  | .ringTail => regOf s.evt.tail
  | .ringHead => regOf s.evt.head
  | .status => (s.reg (.evt .status) &&& bit31)
      ||| fieldsReg [(b2n (s.claim 0).frozen, 30), (b2n (s.claim 1).frozen, 29), (s.evt.pending.length, 0)]
  | r => s.reg (.evt r)

def State.evtSrcView (s : State) (n : Nat) : Reg :=
  let act := (s.claim 0).stack.contains n || (s.claim 1).stack.contains n
  match Assoc.find? s.evt.pending n with
  | some (_, k) => s.reg (.evtSrc n) ||| fieldsReg [(1, 23), (b2n act, 22), (k % 256, 0)]
  | none => s.reg (.evtSrc n) ||| fieldsReg [(b2n act, 22)]

def State.claimView (s : State) (k : Nat) : ClaimReg → Reg
  | .id => s.reg (.claim k .id)
  | .done => 0
  | .status =>
    let c := s.claim k
    match c.stack with
    | top :: _ => fieldsReg [(b2n c.frozen, 31), (c.stack.length % 32, 16), (s.prioOf top, 12), (top, 0)]
    | [] => fieldsReg [(b2n c.frozen, 31), (4095, 0)]
  | .record => match (s.claim k).last with | some (r, n) => fieldsReg [(n % 256, 8), (r.kind % 256, 0)] | none => 0
  | .payload0 => match (s.claim k).last with | some (r, _) => regOf r.w0 | none => 0
  | .payload1 => match (s.claim k).last with | some (r, _) => regOf r.w1 | none => 0
  | .payload2 => match (s.claim k).last with | some (r, _) => regOf r.w2 | none => 0
  | .payload3 => match (s.claim k).last with | some (r, _) => regOf r.w3 | none => 0

def State.dmaView (s : State) (d : Nat) : DmaReg → Reg
  | .head => regOf (s.hdma d).done
  | .status => fieldsReg [(b2n (s.hdma d).halted, 31), (b2n (s.hdma d).running, 30), ((s.hdma d).buffers.length % 4096, 0)]
  | .ctrl => 0
  | r => s.reg (.dma d r)

/-! ### TIME, HSYNC and STITCH (R66, R290) -/

/-- The counter that HSYNC_SEL selects. -/
def State.selected (s : State) : Option (Nat × HCounter) :=
  let v := s.regN (.time .hsyncSel)
  s.physOf (field v 17 16) (field v 15 0)

def bindCode : Option Binding → Nat
  | some b => if b.out then 2 else 1
  | none => 0

def State.timeView (s : State) : TimeReg → Reg
  | .now => regOf s.masterTs
  | .ns => regOf s.clk.nsLatch
  | .peerWait => if s.stitch.session then regOf (peerWord s.tokensMissing) else 0
  | .hsyncSignal => 0
  | .hsyncLookup => match s.selected with
    | some (p, h) => fieldsReg [(1, 31), (bindCode h.bind, 28), (p % 16384, 0)]
    | none => 0
  | .hsyncValue => match s.selected with | some (_, h) => regOf h.value | none => 0
  | .hsyncBind => match s.selected with
    | some (_, h) => match h.bind with
      | some b => fieldsReg [(clX (b.cu / 4), 21), (clY (b.cu / 4), 12), (b.cu % 4, 10), (b.counter % 32, 0)]
      | none => 0
    | none => 0
  | .hsyncFree => regOf s.freeCounters
  | r => s.reg (.time r)

def State.stitchStatus (s : State) : Reg :=
  let k := s.stitch
  let halted := match s.ctx? k.active with | some c => c.halted | none => false
  fieldsReg [(b2n k.session, 31), (k.active % 4, 29), (b2n k.switchPending, 28), (k.ctxNext % 4, 26), (b2n halted, 25),
    (min k.streak 31, 20), (bitsWhere 4 (fun c => (Assoc.find? k.modes (c + 1)).isSome), 16), (k.lastResult % 4, 0)]

def State.stitchView (s : State) : StitchReg → Reg
  | .period => if s.stitch.session then regOf s.stitch.period else 0
  | .status => s.stitchStatus
  | .ctrl => 0
  | .number => regOf (s.stitch.number % 2 ^ 40)
  | .commitSeq => regOf s.stitch.commitSeq
  | .ctx => regOf (bitsWhere 4 (fun k => (s.ctx? k).isSome))
  | .modeCmd => 0
  | .modeState => regOf (s.modeStateOf (field (s.regN (.stitch .modeSel)) 3 0))
  | r => s.reg (.stitch r)

def State.seqMaskView (s : State) (i : Nat) : Reg :=
  match s.ctx? s.stitch.active with
  | some c => regOf (c.mask.toNat / 2 ^ (32 * i) % 2 ^ 32)
  | none => 0

/-! ### PWR, REL, HBM, OPT, TWIN, BOOT, SEC (R309, R362, R363, R394, R422, R449, R473) -/

/-- PWR_STATUS.seq. The intermediate stands 2 ms after VIN_MAIN, the fabric rails 1 ms later (R365), and a module shuts down for 3 ms
(R367); a row of the table takes such a stretch at once, and the register shows it by the time (DESIGN CHOICE, log entry 58). -/
def State.seqShown (s : State) : Nat :=
  let d := s.clk.nsTotal - s.sup.seqAt
  match s.sup.seq with
  | 4 => if d < 2000000 then 2 else if d < 3000000 then 3 else 4
  | 7 => if d < 3000000 then 6 else 7
  | n => n

def State.pwrView (s : State) : PwrReg → Reg
  | .status =>
    let x := s.sup
    fieldsReg [(b2n x.auxGood, 31), (b2n x.ioIn, 30), (b2n x.mainIn, 29), (b2n x.mainEnable, 28), (b2n x.pwrFail, 27), (b2n (x.inter && decide (3 ≤ s.seqShown)), 26),
      (s.seqShown % 16, 0)]
  | .cap => fieldsReg [(s.variantCap, 16), (s.moduleCap % 65536, 0)]
  | r => s.reg (.pwr r)

def State.relView (s : State) : RelReg → Reg
  | .status => fieldsReg [(b2n s.rel.updating.isSome, 31), (b2n (decide (ledgerMax ≤ s.ledgerUsed)), 30), (min s.rel.queue.length 255, 16),
      (s.availableBays, 0)]
  | .ledger => fieldsReg [(b2n (decide (ledgerMax ≤ s.ledgerUsed)), 31), (s.ledgerUsed % 65536, 0)]
  | r => s.reg (.rel r)

/-- REL_DARN_ROW with bay `b` selected; zero until a BIST has built the bay's map. -/
def State.darnRow (s : State) (b ly : Nat) : Reg :=
  if 192 ≤ b ∨ !s.rel.mapped.contains b then 0
  else match s.badCols b ly with
    | [] => 0
    | d :: rest =>
      let m := (b, ly, d)
      fieldsReg [(1, 31), (b2n !rest.isEmpty, 30), (b2n (s.rel.fuse.contains m), 29), (b2n (s.rel.ledger.contains m), 28),
        (b2n (s.rel.found.contains m), 27), (b2n (s.rel.runtime.contains m), 26), (rest.headD 0 % 64, 6), (d % 64, 0)]

def State.hbmView (s : State) (st : Nat) : HbmReg → Reg
  | .ilN => regOf s.hbm.mapped.length
  | .scrub => fieldsReg [(b2n s.hbm.scrubbing, 31), (s.hbm.marked.length % 2 ^ 21, 0)]
  | r => s.reg (.hbm st r)

/-- R362: the use of a site that the active images declare; a paired engine's twin sites are twin sites. -/
def State.useCode (s : State) (t : Nat) : Nat :=
  match s.siteUse t with
  | some u => if u.twin then 2 else 1
  | none => if s.paired && s.isTwinSite t then 2 else 0

def State.optStatus (s : State) (t : Nat) : Reg :=
  let x := s.site t
  let st := if x.up then (if x.wl = 0xFF then 2 else 3) else if x.training then 1 else 0
  fieldsReg [(st, 29), (s.useCode t, 27), (x.wl.toNat, 16), (x.train % 16, 12)]

def State.optView (s : State) (t : Nat) : OptReg → Reg
  | .status => s.optStatus t
  | .self => match s.ctx? s.stitch.active with
    | some c => fieldsReg [(1, 31), (c.image.partition % 64, 0)]
    | none => 0
  | r => s.reg (.opt t r)

def State.twinView (s : State) : TwinReg → Reg
  | .status =>
    let x := s.twin
    fieldsReg [(if (x.state == 2 || x.state == 3) && !x.attached then 1 else x.state % 8, 29), (b2n x.openSeq.isSome, 28), (min x.misses 3, 26)]
  | .ckptOpen => regOf (s.twin.openSeq.getD 0)
  | r => s.reg (.twin r)

/-- The last step of the boot begun: steps 7 to 9 follow one another by their time. -/
def State.bootPhase (s : State) : Nat :=
  if s.sup.bootStep ≠ 8 then min s.sup.bootStep 10
  else if s.clk.nsTotal < s.sup.step8At then 7
  else if s.clk.nsTotal < s.sup.step9At then 8 else 9

def State.bootStatus (s : State) : Reg :=
  let x := s.sup
  let opt (n : Nat) : Nat := ((List.range 96).filter (fun t => (s.site t).bootTrain == n)).length
  let hbmFull := ((List.range 24).filter (fun st => s.hbm.trained.contains st && !s.hbm.restored.contains st)).length
  fieldsReg [(b2n x.inventory, 31), (b2n x.bootFailed, 30), (x.tfCopy % 4, 28), (x.mfCopy % 4, 26),
    (b2n (decide (s.hbm.restored.length = 24)), 25), (b2n (decide (opt 1 = 96)), 24), (min (hbmFull + opt 2) 255, 16), (s.bootPhase, 0)]

/-- R447: the lowest bay whose scrub and calibration are suspended. -/
def State.suspended (s : State) : Option Nat := (List.range 192).find? s.scrubHeld

def State.bootView (s : State) : BootReg → Reg
  | .status => s.bootStatus
  | .reset => 0
  | .store =>
    let ok := b2n (bitOf (s.regN (.ver 4 4)) 31)
    if s.sup.bootStep = 0 then 0 else fieldsReg [(ok, 31), (b2n (ok == 1 && s.store.ufs.readable), 30), (min s.freeSectors 64, 16), (min (ceilDiv s.store.erases 64) 0xFFFF, 0)]
  | .session => fieldsReg [(b2n s.stitch.session, 31), (b2n s.hbm.ending, 30), (s.regN (.boot .session) % 65536, 0)]
  | .bg => fieldsReg [(b2n (s.sup.inventory && !s.stitch.session && decide (0 < s.availableBays)), 31), (b2n s.suspended.isSome, 30),
      (s.suspended.getD 0, 0)]
  | r => s.reg (.boot r)

/-- R465: state of the device LMS key. -/
def State.lmsState (s : State) : Nat :=
  let left := 2 ^ 30 - s.spdm.lmsUsed
  if left = 0 then 2 else if left < 2 ^ 20 then 1 else 0

/-- R457: a thermometer field of a security version. -/
def thermometer (n : Nat) : Reg := regOf (2 ^ min n 64 - 1)

def State.secView (s : State) (host : Bool) : SecReg → Reg
  | .status => fieldsReg [(b2n s.sup.inventory, 31), (b2n s.spdm.wafer, 30), (b2n s.spdm.grant, 29), (b2n s.spdm.ide.isSome, 28), (s.lmsState, 26),
      (bitsWhere 8 s.slotProvisioned, 16), (bitsWhere 8 (fun k => s.fuses.revoked.contains k), 8)]
  | .svnTf => thermometer s.fuses.svnTf
  | .svnMf => thermometer s.fuses.svnMf
  | .svnPat => thermometer s.fuses.svnPat
  | .svnWgt => thermometer s.fuses.svnWgt
  | .lmsUsed => regOf s.spdm.lmsUsed
  | .lmsReserved => regOf s.spdm.lmsReserved
  | .debug => if s.spdm.grant then fieldsReg [(1, 31), (s.spdm.grantSlot % 8, 8), (1, 0)] else 0
  | .diagData0 => if host then s.reg (.sec .diagData0) else 0
  | .diagData1 => if host then s.reg (.sec .diagData1) else 0
  | .diagData2 => if host then s.reg (.sec .diagData2) else 0
  | .diagData3 => if host then s.reg (.sec .diagData3) else 0
  | .ide => match s.spdm.ide with | some k => fieldsReg [(1, 31), (k.stream % 256, 16)] | none => 0
  | r => s.reg (.sec r)

/-! ### Panels and bays (R67, R269, R291, R372, R395, R396) -/

def powerCode : BayPower → Nat
  | .off => 0 | .powering => 1 | .active => 2 | .dormant => 3 | .waking => 4 | .dark => 5

/-- R372: a bay's rail rises for 160 µs from BAY_CORE_RAIL_UP, or until its test is over (DESIGN CHOICE, log entry 58). -/
def State.powerState (s : State) (b : Nat) : BayPower :=
  let y := s.bay b
  if y.power = .active ∧ !y.bist ∧ s.clk.nsTotal < y.activeAt then .powering else y.power

def State.panelView (s : State) (p : Nat) : PanelReg → Reg
  | .pwrStatus => fieldsReg ((List.range 4).map (fun i => (powerCode (s.powerState (4 * p + i)), 16 + 4 * i)) ++ [(min (s.panel p).budgetW 65535, 0)])
  | .wake => (s.reg (.panel p .wake) &&& 0xFFFF)
      ||| (match (s.panel p).waking with | some b => fieldsReg [(1, 31), (b % 4, 28)] | none => 0)
  | .feed =>
    let x := s.panel p
    fieldsReg [(bitsWhere 4 (fun i => x.tripped.contains i && !x.feedsOpen.contains i), 5), (b2n x.fabricOpen, 4),
      (bitsWhere 4 (fun i => x.feedsOpen.contains i), 0)]
  | r => s.reg (.panel p r)

def modeWord (grade frac : Nat) : Nat := grade % 256 * 2 ^ 16 + frac % 2048

def State.bayPower (s : State) (b : Nat) : Reg :=
  let g := (s.bay b).gov
  fieldsReg [(s.phasesFailed b, 24), (if (s.bay b).power = .off then 0 else s.ceiling b, 16), (g.level % 16, 12), (s.lmax b % 16, 8), (g.braceLevel % 16, 4), (b2n g.armed, 3),
    (b2n (decide (g.capMax < 8)), 2), (b2n (decide (g.thermMax < 8)), 1), (b2n (decide (s.phaseMax b < 8)), 0)]

def State.bayView (s : State) (b : Nat) : BayReg → Reg
  | .stitchLen => fieldsReg [((s.bay b).k % 128, 24), ((s.bay b).c % 2 ^ 24, 0)]
  | .stitchHem => regOf ((s.bay b).w % 2 ^ 24)
  | .vote => regOf (s.bay b).voteWord
  | .modeActive => regOf (modeWord (s.bay b).modes.grade (s.bay b).modes.capFrac)
  | .modeStaged =>
    let m := (s.bay b).modes
    fieldsReg [(b2n m.stPeriod.isSome, 28), (b2n m.stGrade.isSome, 29), (b2n m.stCapFrac.isSome, 30), (b2n m.stNumdef.isSome, 31),
      (modeWord (m.stGrade.getD m.grade) (m.stCapFrac.getD m.capFrac), 0)]
  | .numdefStaged => match (s.bay b).modes.stNumdef with | some v => regOf v.toNat | none => s.reg (.bay b .numdefActive)
  | .periodStaged => regOf ((s.bay b).modes.stPeriod.getD (if s.stitch.session then s.stitch.period else 0))
  | .timeNow => regOf (s.bayTs b)
  | .timeErr => regOf (s.bay b).timeErr
  | .pwrStatus => s.bayPower b
  | r => s.reg (.bay b r)

/-! ### Compute units, memory units, routers (R107, R184, R208, R232, R233, R267) -/

def Tile.closed (x : Tile) : Bool := x.used && !x.isOpen

def State.cuStatus (s : State) (u : Nat) : Reg :=
  let c := s.cu u
  let q := c.seq
  let eng := match q.stall with | .engine => true | .slot _ => true | _ => false
  let wait := match q.stall with | .wait _ _ _ _ => true | _ => false
  fieldsReg [(b2n q.pred, 12), (q.loops.length % 8, 9), (b2n c.ste.tile1.closed, 8), (b2n c.ste.tile0.closed, 7), (b2n !c.dma.idle, 6),
    (b2n !c.vec.idle, 5), (b2n (!c.ste.idle || (s.bay (bayOfCu u)).hem.tile.isSome), 4), (b2n eng, 3), (b2n wait, 2), (b2n q.overrun, 1), (b2n q.retired, 0)]

def Seq.pc (q : Seq) : Nat :=
  match q.stall with
  | .engine => q.next
  | .launch _ _ => q.next
  | .wait _ _ _ _ => q.next
  | _ => q.last

/-- Occupancy of inbound link `l` as CU_LINK_STATUS shows it. -/
def State.linkOcc (s : State) (u l : Nat) : Nat :=
  let f := (s.cu u).fab
  let n := arrived (s.bay (bayOfCu u)).cycle (f.q l)
  min 31 (if isSeam u l then f.seamHeld l else n)

def State.cuView (s : State) (u : Nat) : CuReg → Reg
  | .status => s.cuStatus u
  | .sig => regOf (s.cuSig u)
  | .lanePc => regOf ((s.cu u).seq.pc % 512)
  | .linkStatus =>
    let t := (s.bay (bayOfCu u)).cycle
    fieldsReg [((s.cu u).fab.entry.at t % 16, 28), ((s.cu u).fab.tag.at t % 16, 24), (s.linkOcc u 3, 15), (s.linkOcc u 2, 10), (s.linkOcc u 1, 5),
      (s.linkOcc u 0, 0)]
  | .steerStatus =>
    let x := (s.cu u).steer
    fieldsReg [(b2n x.faulted, 24), (match x.toks with | tk :: _ => tokFlits tk - x.sent | [] => 0, 16), (x.dats.length % 16, 8), (x.toks.length % 8, 0)]
  | r => s.reg (.cu u r)

def State.muView (s : State) (c : Nat) : MuReg → Reg
  | .status =>
    let m := s.mu c
    fieldsReg ((List.range 4).map (fun g => ((m.gen g).queue.length % 4, 8 + 2 * g)) ++ [(bitsWhere 4 (fun g => (m.gen g).run.isSome), 4)])
  | .fabStatus =>
    let m := s.mu c
    let t := (s.bay (bayOf c)).cycle
    fieldsReg [((m.port 1).tag.at t % 16, 28), ((m.port 0).tag.at t % 16, 24), (arrived t (m.port 1).inq % 16, 12), (arrived t (m.port 1).outq % 16, 8),
      (arrived t (m.port 0).inq % 16, 4), (arrived t (m.port 0).outq % 16, 0)]
  | .dspStatus =>
    let x := (s.mu c).dsp
    fieldsReg [(min x.tokens 0xFFFF, 16), (b2n (x.phase != .idle || x.closing.any (fun p => !p.dead)), 7), (x.gen % 4, 5)]
  | r => s.reg (.mu c r)

/-- What a read of a register returns. `host` marks a read through BAR0 (R474). -/
def State.readReg (s : State) (host : Bool) : RegId → Reg
  | .dev r => s.devView r
  | .ver i w => s.verView i w
  | .host r => s.hostView r
  | .evt r => s.evtView r
  | .evtSrc n => s.evtSrcView n
  | .time r => s.timeView r
  | .stitch r => s.stitchView r
  | .seqMask i => s.seqMaskView i
  | .voterMask i => regOf (s.stitch.voterMask.toNat / 2 ^ (32 * i) % 2 ^ 32)
  | .pwr r => s.pwrView r
  | .rel r => s.relView r
  | .relAvail i => regOf (bitsWhere 32 (fun j => s.bayAvailable (32 * i + j)))
  | .relDarnRow i => s.darnRow (s.regN (.rel .darnSel)) i
  | .hbm st r => s.hbmView st r
  | .opt t r => s.optView t r
  | .twin r => s.twinView r
  | .boot r => s.bootView r
  | .sec r => s.secView host r
  | .panel p r => s.panelView p r
  | .bay b r => s.bayView b r
  | .launchState b e => regOf (((s.bay b).entry e).state % 4)
  | .cu u r => s.cuView u r
  | .sync u k => regOf ((s.cu u).sync.banks.get 0 (syncKey s.bank k))
  | .mu c r => s.muView c r
  | .rtr c .status => regOf ((s.rtr c).combine.length % 16)
  | .dma d r => s.dmaView d r
  | .claim k r => s.claimView k r
  | id => s.reg id

end Sys2Proof.Machine
end

