-- ==== Sys2Proof/Machine/RegMap.lean ====
section
/-! DEFINITION. Where every register lies: the blocks of control space (R22, R23), BAR2 (R336) and the register blocks of a cluster
(R107, R184, R208, R232, R233, R267, R268). An offset names a register and, for a 64-bit register, one of its halves. -/

namespace Sys2Proof.Machine

/-- The register at offset `o` of a table: the register and the half, 0 low or 1 high. -/
def lookup {α : Type} (mk : α → RegId) (tbl : List (Nat × α)) (o : Nat) : Option (RegId × Nat) :=
  (tbl.find? (fun e => e.1 == o || (isReg64 (mk e.2) && e.1 + 4 == o))).map (fun e => (mk e.2, (o - e.1) / 4))

/-- Offset of a register in its table. -/
def place {α : Type} [DecidableEq α] (tbl : List (Nat × α)) (r : α) : Nat :=
  ((tbl.find? (fun e => decide (e.2 = r))).map Prod.fst).getD 0

/-- An array of 32-bit registers from `base` on, `n` of them `step` bytes apart. -/
def arrayAt (base step n o : Nat) : Option Nat :=
  if base ≤ o ∧ (o - base) % step = 0 ∧ (o - base) / step < n then some ((o - base) / step) else none

/-- An array of 64-bit registers: index and half. -/
def array64 (base step n o : Nat) : Option (Nat × Nat) :=
  if base ≤ o ∧ (o - base) % step < 8 ∧ (o - base) % 4 = 0 ∧ (o - base) / step < n then some ((o - base) / step, (o - base) % step / 4) else none

/-- The first answer of a list. -/
def firstOf {α : Type} (l : List (Option α)) : Option α := l.findSome? id

def low (r : RegId) : RegId × Nat := (r, 0)

/-! ### Tables of single registers -/

def devTab : List (Nat × DevReg) := [(0, .id), (4, .part), (8, .stepping), (0xC, .geometry), (0x10, .clkSel), (0x14, .clkStatus)]

def hostTab : List (Nat × HostReg) :=
  [(0, .version), (8, .bar4Base), (0x10, .pool), (0x14, .link), (0x1200, .mboxDoorbell), (0x1204, .mboxStatus)]

def evtTab : List (Nat × EvtReg) := [(0, .ringBase), (8, .ringCfg), (0xC, .ringTail), (0x10, .status), (0x14, .merged)]

def timeTab : List (Nat × TimeReg) :=
  [(0, .now), (8, .ns), (0x10, .peerCtrl), (0x18, .peerFeed), (0x20, .peerWait), (0x28, .holdLast), (0x2C, .holdCount),
   (0x10000, .hsyncSignal), (0x10004, .hsyncSel), (0x10008, .hsyncLookup), (0x1000C, .hsyncValue), (0x10010, .hsyncBind), (0x10014, .hsyncFree)]

def stitchTab : List (Nat × StitchReg) :=
  [(0x80000, .period), (0x80004, .status), (0x80008, .ctrl), (0x8000C, .replay), (0x80010, .number), (0x80018, .commitSeq), (0x80020, .lastVoid),
   (0x80024, .ctx), (0x80028, .voidCount), (0x80040, .modeSel), (0x80048, .modeArg), (0x80050, .modeTarget), (0x80058, .modeCmd), (0x8005C, .modeState)]

def pwrTab : List (Nat × PwrReg) :=
  [(0, .status), (4, .fault), (8, .cap), (0xC, .moduleW), (0x10, .vinMain), (0x14, .vinIo), (0x18, .vinAux), (0x1C, .governed), (0x20, .eMain),
   (0x28, .eIo), (0x30, .eAux)]

def relTab : List (Nat × RelReg) :=
  [(0, .status), (0x20, .darnSel), (0x100, .ce), (0x104, .ue), (0x108, .chk), (0x10C, .sig), (0x110, .transient), (0x114, .permanent), (0x118, .darns),
   (0x11C, .discrepancy), (0x200, .faultRec0), (0x204, .faultRec1), (0x208, .faultRec2), (0x210, .faultCount), (0x300, .ledger)]

def hbmTab : List (Nat × HbmReg) :=
  [(0, .status), (8, .pcMap), (0x10, .pcFail), (0x18, .ilN), (0x1C, .scrub), (0x20, .ce), (0x24, .ue), (0x28, .ueLast), (0x30, .merge)]

def optTab : List (Nat × OptReg) :=
  [(0, .status), (4, .peer), (8, .peerSerial), (0x10, .version), (0x14, .caps), (0x18, .self), (0x20, .txFlits), (0x24, .rxFlits), (0x28, .resend),
   (0x2C, .fecCorr), (0x30, .ue), (0x34, .retrain), (0x38, .exportLate), (0x3C, .importFault)]

def twinTab : List (Nat × TwinReg) :=
  [(0, .cfg), (4, .status), (8, .version), (0xC, .caps), (0x10, .ckptLast), (0x18, .ckptOpen), (0x20, .ckptBytes), (0x28, .captures), (0x2C, .hold),
   (0x30, .hbMiss)]

def bootTab : List (Nat × BootReg) :=
  [(0, .status), (4, .time), (8, .reset), (0xC, .resetCause), (0x10, .store), (0x14, .session), (0x18, .bg)]

def secTab : List (Nat × SecReg) :=
  [(0, .status), (8, .svnTf), (0x10, .svnMf), (0x18, .svnPat), (0x20, .svnWgt), (0x28, .lmsUsed), (0x30, .lmsReserved), (0x40, .debug),
   (0x48, .diagAddr), (0x50, .diagCtrl), (0x60, .diagData0), (0x64, .diagData1), (0x68, .diagData2), (0x6C, .diagData3), (0x80, .ide)]

def panelTab : List (Nat × PanelReg) :=
  [(0x38130, .meshHoles), (0x38200, .pwrStatus), (0x38204, .wake), (0x38208, .feed), (0x38240, .eFabric), (0x38248, .eIo)]

def bayTab : List (Nat × BayReg) :=
  [(0x200, .stitchLen), (0x204, .stitchHem), (0x208, .vote), (0x20C, .modeActive), (0x210, .modeStaged), (0x214, .numdefActive),
   (0x218, .numdefStaged), (0x21C, .periodStaged), (0x240, .arithFlags), (0x244, .arithCus), (0x260, .sparseFault), (0x264, .sparseFaultCount),
   (0x268, .flitDense), (0x26C, .flitBitmap), (0x270, .flitPresent), (0x274, .zeroDropped), (0x278, .retireLast), (0x27C, .retireMax),
   (0x300, .fabSample), (0x304, .fabTelSize), (0x308, .fabTelBase), (0x310, .fabTelHead), (0x314, .fabTelTail), (0x318, .fabTelDrop),
   (0x31C, .fabResidue), (0x320, .fabSeamMax), (0x480, .timeNow), (0x488, .timeErr), (0x48C, .timeSlip), (0x490, .syncResidue),
   (0x500, .pwrStatus), (0x504, .pwrBudget), (0x508, .pwrVmin), (0x510, .pwrVminTs), (0x518, .govCfg), (0x51C, .govHeld), (0x520, .govBallast),
   (0x524, .govCapped), (0x528, .pwrBoost), (0x52C, .pwrStretch), (0x600, .relCe), (0x604, .relUe), (0x608, .relUeLast), (0x610, .roll),
   (0x614, .scrubPass)]

def cuTab : List (Nat × CuReg) :=
  [(0, .status), (4, .lanePc), (8, .flags), (0xC, .chkTol), (0x10, .chkCount), (0x14, .chkLast), (0x18, .srSeed), (0x1C, .spConflict),
   (0x20, .steMacCyc), (0x24, .steScanCyc), (0x28, .steStageWait), (0x30, .sig), (0x34, .sigExpect), (0x38, .winMiss), (0x300, .linkCfg),
   (0x304, .linkStatus), (0x308, .linkStall), (0x560, .msgOutOk), (0x564, .msgOutNospace), (0x568, .msgOutNowindow), (0x56C, .msgOutDisabled),
   (0x570, .msgBusy), (0x574, .msgRetry), (0x578, .msgInNack), (0x57C, .msgDiscard), (0x800, .steerCfg), (0x804, .steerStatus),
   (0x808, .steerFaultLast), (0x80C, .steerFlits), (0x810, .steerDropped)]

def muTab : List (Nat × MuReg) :=
  [(0, .status), (4, .slicePwr), (0x10, .conflict), (0x14, .conflictLast), (0x18, .narrowWait), (0x1C, .starve), (0x20, .hazard), (0x24, .hazardLast),
   (0x28, .winMiss), (0x2C, .discard), (0x30, .fabStatus), (0x800, .dspStatus), (0x804, .dspFaultLast), (0x810, .dspAccept), (0x814, .dspLater),
   (0x818, .dspDrop), (0x81C, .dspDefer), (0x820, .dspDeferOvf), (0x824, .dspSkip), (0x828, .dspExit), (0x82C, .dspOrphan), (0x830, .dspNan)]

def rtrTab : List (Nat × RtrReg) := [(0, .status), (4, .flits), (8, .hold), (0xC, .ue)]

def qpTab : List (Nat × QpReg) :=
  [(0, .cfg), (8, .inBase), (0x10, .outBase), (0x18, .inTail), (0x1C, .inHead), (0x20, .outTail), (0x24, .outHead), (0x28, .status)]

def dmaTab : List (Nat × DmaReg) := [(0, .ringBase), (8, .ringCfg), (0xC, .tail), (0x10, .head), (0x14, .status), (0x18, .ctrl)]

/-! ### Offsets to registers -/

/-- A bay window below 0x3_8000 (R23). -/
def bayReg (b o : Nat) : Option (RegId × Nat) :=
  firstOf [lookup (.bay b) bayTab o,
    (array64 0x400 16 8 o).map (fun e => (.launchTarget b e.1, e.2)),
    (arrayAt 0x408 16 8 o).map (fun e => low (.launchAction b e)),
    (arrayAt 0x40C 16 8 o).map (fun e => low (.launchState b e)),
    (arrayAt 0x340 4 16 o).map (fun i => low (.probe b i))]

/-- The common range of a panel. -/
def panelReg (p o : Nat) : Option (RegId × Nat) :=
  firstOf [lookup (.panel p) panelTab o,
    (arrayAt 0x38100 4 12 o).map (fun w => low (.panelRoute p w)),
    (arrayAt 0x38210 4 4 o).map (fun b => low (.phaseFail p b)),
    (arrayAt 0x38220 4 4 o).map (fun b => low (.therm p b)),
    (array64 0x38250 8 4 o).map (fun e => (.eBay p e.1, e.2))]

/-- The register at control offset `o`, a multiple of 4 (R22, R23). -/
def ctlReg (o : Nat) : Option (RegId × Nat) :=
  let k := o / 0x100000
  let i := o % 0x100000
  if 16 ≤ k then
    if 64 ≤ k then none
    else
      let p := k - 16
      if i % 0x40000 < 0x38000 then bayReg (4 * p + i / 0x40000) (i % 0x40000) else panelReg p (i % 0x40000)
  else match k with
    | 0 => firstOf [lookup .dev devTab i, (arrayAt 0x100 4 64 i).map (fun n => low (.ver (n / 8) (n % 8)))]
    | 1 => firstOf [lookup .host hostTab i, (arrayAt 0x100 4 64 i).map (fun d => low (.dmaRes d)),
        (arrayAt 0x1000 4 64 i).map (fun w => low (.mboxReq w)), (arrayAt 0x1100 4 64 i).map (fun w => low (.mboxRsp w)),
        (arrayAt 0x8000 4 256 i).map (fun w => low (.msixTable w)), (arrayAt 0x9000 4 2 i).map (fun w => low (.msixPba w))]
    | 2 => firstOf [lookup .evt evtTab i, (arrayAt 0x10000 4 4096 i).map (fun n => low (.evtSrc n))]
    | 3 => firstOf [lookup .time timeTab i, lookup .stitch stitchTab i, (array64 0x10100 16 32 i).map (fun e => (.waitCfg e.1, e.2)),
        (arrayAt 0x10108 16 32 i).map (fun n => low (.waitState n)), (arrayAt 0x80100 4 64 i).map (fun n => low (.seqMask n)),
        (arrayAt 0x80200 4 10 i).map (fun n => low (.voterMask n))]
    | 4 => lookup .pwr pwrTab i
    | 5 => firstOf [lookup .rel relTab i, (arrayAt 8 4 6 i).map (fun n => low (.relAvail n)), (arrayAt 0x40 4 36 i).map (fun n => low (.relDarnRow n))]
    | 6 => lookup (.hbm (i / 0x10000)) hbmTab (i % 0x10000)
    | 7 => if i < 0x80000 then lookup (.hbm (16 + i / 0x10000)) hbmTab (i % 0x10000) else none
    | 8 => if i < 0x60000 then
          let t := i / 0x1000
          let j := i % 0x1000
          firstOf [lookup (.opt t) optTab j, (arrayAt 0x100 4 128 j).map (fun n => low (.optExport t (n / 8) (n % 8))),
            (arrayAt 0x300 4 32 j).map (fun n => low (.optImport t (n / 2) (n % 2)))]
        else none
    | 9 => lookup .twin twinTab i
    | 10 => firstOf [lookup .boot bootTab i, (arrayAt 0x100 4 36 i).map (fun n => low (.bootInv n))]
    | 11 => lookup .sec secTab i
    | _ => none

/-- The register at BAR2 offset `o` (R336). -/
def bar2Reg (o : Nat) : Option (RegId × Nat) :=
  let q := o / 4096
  if q < 64 then lookup (.qp q) qpTab (o % 4096)
  else if q < 128 then lookup (.dma (q - 64)) dmaTab (o % 4096)
  else if o = 128 * 4096 then some (low (.evt .ringHead)) else none

/-- The register at offset `o` of the register blocks of cluster `c`. -/
def clusterReg (c o : Nat) : Option RegId :=
  let j := o % 0x1000
  match o / 0x1000 with
  | 4 => (firstOf [lookup (.mu c) muTab j, (arrayAt 0x100 4 16 j).map (fun i => low (.vwin c i)),
      (arrayAt 0x200 4 64 j).map (fun n => low (.muWin c (n / 4) (n % 4))), (arrayAt 0x400 4 128 j).map (fun n => low (.agDesc c (n / 8) (n % 8))),
      (arrayAt 0x900 4 32 j).map (fun n => low (.dspDesc c (n / 8) (n % 8)))]).map Prod.fst
  | 5 => (lookup (.rtr c) rtrTab j).map Prod.fst
  | i => if 4 ≤ i then none
    else
      let u := 4 * c + i
      (firstOf [lookup (.cu u) cuTab j, (arrayAt 0x40 4 8 j).map (fun k => low (.vconst u k)),
        (arrayAt 0x100 4 64 j).map (fun n => low (.desc u (n / 4) (n % 4))), (arrayAt 0x200 4 32 j).map (fun n => low (.dmaDesc u (n / 4) (n % 4))),
        (arrayAt 0x280 4 32 j).map (fun k => low (.sync u k)), (arrayAt 0x340 4 16 j).map (fun e => low (.route u e)),
        (arrayAt 0x400 4 64 j).map (fun n => low (.cuWin u (n / 4) (n % 4))), (arrayAt 0x500 4 16 j).map (fun n => low (.chan u (n / 2) (n % 2))),
        (arrayAt 0x540 4 8 j).map (fun k => low (.ring u k))]).map Prod.fst

/-! ### Registers to addresses -/

/-- Offset of a register within its bay window, or its panel's common range. -/
def windowOffset : RegId → Nat
  | .bay _ r => place bayTab r
  | .launchTarget _ e => 0x400 + 16 * e
  | .launchAction _ e => 0x408 + 16 * e
  | .launchState _ e => 0x40C + 16 * e
  | .probe _ i => 0x340 + 4 * i
  | .panel _ r => place panelTab r
  | .panelRoute _ w => 0x38100 + 4 * w
  | .phaseFail _ b => 0x38210 + 4 * b
  | .therm _ b => 0x38220 + 4 * b
  | .eBay _ b => 0x38250 + 8 * b
  | _ => 0

/-- The bay whose window holds a register. -/
def windowBay : RegId → Option Nat
  | .bay b _ => some b
  | .launchTarget b _ => some b
  | .launchAction b _ => some b
  | .launchState b _ => some b
  | .probe b _ => some b
  | _ => none

/-- The panel whose common range holds a register. -/
def commonPanel : RegId → Option Nat
  | .panel p _ => some p
  | .panelRoute p _ => some p
  | .phaseFail p _ => some p
  | .therm p _ => some p
  | .eBay p _ => some p
  | _ => none

/-- Cluster and offset of a register of a cluster. -/
def unitPlace : RegId → Option (Nat × Nat)
  | .cu u r => some (u / 4, u % 4 * 0x1000 + place cuTab r)
  | .vconst u k => some (u / 4, u % 4 * 0x1000 + 0x40 + 4 * k)
  | .desc u d w => some (u / 4, u % 4 * 0x1000 + 0x100 + 16 * d + 4 * w)
  | .dmaDesc u d w => some (u / 4, u % 4 * 0x1000 + 0x200 + 16 * d + 4 * w)
  | .sync u k => some (u / 4, u % 4 * 0x1000 + 0x280 + 4 * k)
  | .route u e => some (u / 4, u % 4 * 0x1000 + 0x340 + 4 * e)
  | .cuWin u d w => some (u / 4, u % 4 * 0x1000 + 0x400 + 16 * d + 4 * w)
  | .chan u k w => some (u / 4, u % 4 * 0x1000 + 0x500 + 8 * k + 4 * w)
  | .ring u k => some (u / 4, u % 4 * 0x1000 + 0x540 + 4 * k)
  | .mu c r => some (c, 0x4000 + place muTab r)
  | .vwin c i => some (c, 0x4100 + 4 * i)
  | .muWin c d w => some (c, 0x4200 + 16 * d + 4 * w)
  | .agDesc c d w => some (c, 0x4400 + 32 * d + 4 * w)
  | .dspDesc c d w => some (c, 0x4900 + 32 * d + 4 * w)
  | .rtr c r => some (c, 0x5000 + place rtrTab r)
  | _ => none

/-- Control offset of an RWL register (R11). -/
def lockedOffset : RegId → Nat
  | .evtSrc n => 0x210000 + 4 * n
  | .twin _ => 0x900000
  | _ => 0

end Sys2Proof.Machine
end

