-- ==== Sys2Proof/Machine/Access.lean ====
section
/-! DEFINITION. Accesses of registers and of BAR4: REGISTER_WRITE, REGISTER_READ_CLEAR, REGISTER_64_LOW_READ,
CONTROL_SPACE_ACCESS, BAR4_ACCESS, COMMIT_PHASE_END, CHECKPOINT_STREAM, CU_SR_SEED_WRITE, TELEMETRY_RING_CONFIG, LAUNCH_ENTRY_ARM, LAUNCH_ENTRY_DISARM,
VMIN_READ, DIAG_GO (R5-R11, R22-R25, R47, R48, R107, R234, R278, R305, R308, R312-R314, R326, R373, R383, R450, R451, R467,
R474). -/

namespace Sys2Proof.Machine

/-! ### Who accesses, and what it may reach -/

/-- Reporter of an address fault of an access (R327). -/
def pathSource : Path → Nat
  | .host => 360
  | .bar2 => 360
  | .offStream _ => 360
  | .lane u => bayOfCu u
  | .trusted => 361
  | .management => 362

/-- R331: location word of the requester. For the control-island cores, which have no place on the wafer, the source number in the
form that R331 gives window-miss (DESIGN CHOICE, log entry 46). -/
def pathL : Path → Nat
  | .host => 0xFFFFFFFF
  | .bar2 => 0xFFFFFFFF
  | .offStream _ => 0xFFFFFFFF
  | .lane u => locCu u
  | .trusted => 0x80000000 + 361
  | .management => 0x80000000 + 362

def pathLane : Path → Option Nat
  | .lane u => some (bayOfCu u)
  | _ => none

def fromHost : Path → Bool
  | .host => true
  | .bar2 => true
  | .offStream _ => true
  | _ => false

/-- An address fault of an access by a path; for one through BAR2 w0 holds the BAR2 offset and w3 bit 8 says so (R331). -/
def State.pathFault (s : State) (path : Path) (addr cause : Nat) : State :=
  s.addrFault (pathSource path) addr (pathL path) (match path with | .bar2 => cause + 256 | _ => cause) (pathLane path)

/-- Device address of control offset `o`. -/
def ctlAddr (o : Nat) : Nat := 15 * 2 ^ 44 + o

/-- Bays answer while active (R24, R25, R373; log entry 78), common registers and routers while the panel's fabric rail is on (R25, R267): the
address of a register that does not answer. -/
def State.unreached (s : State) (id : RegId) : Option Nat :=
  match windowBay id, commonPanel id, unitPlace id with
  | some b, _, _ => if (s.bay b).power = .active then none
    else some (ctlAddr (0x1000000 + b / 4 * 0x100000 + b % 4 * 0x40000 + windowOffset id))
  | none, some p, _ => if (s.panel p).fabricOn then none else some (ctlAddr (0x1000000 + p * 0x100000 + windowOffset id))
  | none, none, some (c, o) =>
    if 0x5000 ≤ o then (if (s.panel (panelOf c)).fabricOn then none else some (devAddr c (0x2000000 + o)))
    else if (s.bay (bayOf c)).power = .active then none else some (devAddr c (0x2000000 + o))
  | none, none, none => none

/-- May the path reach the register at all: BAR2 pages only from the host, claim registers only from their own core (R332,
R336)? -/
def hasRegister (path : Path) : RegId → Bool
  | .qp _ _ => fromHost path
  | .dma _ _ => fromHost path
  | .evt .ringHead => fromHost path
  | .claim k _ => (k == 0 && decide (path = .trusted)) || (k == 1 && decide (path = .management))
  | _ => true

/-- May the path write it (R269, R422, R474)? -/
def State.mayWrite (s : State) (path : Path) : RegId → Bool
  | .rel _ => decide (path = .trusted)
  | .panelRoute _ _ => decide (path = .trusted)
  | .panel _ .meshHoles => decide (path = .trusted)
  | .sec _ => decide (path = .host) && s.spdm.grant
  | id => hasRegister path id

/-! ### Accesses in the cycle of a hardware update (R10) -/

/-- The cycle of bay `b` that holds the master's ns, or one that its counter has reached before. -/
def State.nowCycle (s : State) (b : Nat) : Nat :=
  if (s.bay b).inStitch then max (s.bay b).cycle (s.clk.ns * s.mhz b / 1000) else (s.bay b).cycle

/-- The cycle an access falls in: of the bay's clock, the one that holds the master's ns; else that ns (log entry 42). -/
def State.accessCycle (s : State) (id : RegId) : Nat × Nat :=
  match regBay id with
  | some b => s.cycleOf b (s.nowCycle b)
  | none => (s.clk.nsTotal, 0)

/-- What hardware did to the register in the cycle of the access. -/
def State.hwAt (s : State) (id : RegId) : Option HwSet :=
  match s.hw.find? id with
  | some e => if e.at_ = s.accessCycle id then some e else none
  | none => none

/-- The bits hardware has set in the cycle of the access. -/
def State.hwBits (s : State) (id : RegId) : Reg := match s.hwAt id with | some e => e.fresh | none => 0

/-! ### Writes (R9, R11) -/

/-- The value a write leaves in a register; of the W1C bits it would clear, those in `hw` stay set (R10). -/
def written (a : RegAcc) (old v hw : Reg) : Reg :=
  let m := a.rw ||| a.rwl
  ((old &&& ~~~m) ||| (v &&& m) ||| (v &&& a.w1s)) &&& ~~~(v &&& a.w1c &&& ~~~hw)

/-- R11, R451: once the registers are locked, a write to an RWL register is discarded. A register that has RW fields beside its RWL
fields (EVT_SRC) still takes a write that leaves the RWL fields as they are (DEDUCED, log entry 22). -/
def State.locked (s : State) (id : RegId) (v : Reg) : Bool :=
  s.sup.inventory && decide ((regAcc id).rwl ≠ 0) &&
    (decide ((regAcc id).rw = 0) || decide ((v ^^^ s.reg id) &&& (regAcc id).rwl ≠ 0))

/-- A write to a register without an effect of its own. -/
def State.plainWrite (s : State) (id : RegId) (v : Reg) : State :=
  if s.locked id v then s.raise 361 0x21 (lockedOffset id) v.toNat 0 0
  else s.setReg id (written (regAcc id) (s.reg id) v (s.hwBits id))

/-- EVT_SRC: a write of claim 0b11 is discarded. -/
def State.srcWrite (s : State) (n : Nat) (v : Reg) : State :=
  if field v.toNat 29 28 = 3 ∧ !s.locked (.evtSrc n) v then s else s.plainWrite (.evtSrc n) v

/-- MSI-X table: a vector that loses its mask while it is pending is sent (PCIe; log entry 12). -/
def State.msixWrite (s : State) (w : Nat) (v : Reg) : State :=
  let s1 := s.plainWrite (.msixTable w) v
  let n := w / 4
  if w % 4 = 3 ∧ !bitOf v.toNat 0 ∧ bitOf (s.regN (.msixPba (n / 32))) (n % 32) then
    (s1.modReg (.msixPba (n / 32)) (fun r => r &&& ~~~regOf (2 ^ (n % 32)))).sendMsix n
  else s1

/-- Command 0x0050 as an attach, by the doorbell: what the other engine says of its images and its versions is free. -/
def State.doorbellAttach (s : State) (primary : Bool) : State :=
  let v (i : Nat) : Nat := (Config.freeReg (s.free + i)).toNat
  s.takeFree.takeFree.mboxAttach primary (if bitOf (v 0) 0 then s.residentDigests else 0 :: s.residentDigests) (v 1 % 256) (v 1 / 256 % 256) (v 1 / 65536 % 2 ^ 32)

/-- HOST_MBOX_DOORBELL: the request in HOST_MBOX_REQ, its arguments in words 1 and 2 (log entry 23). -/
def State.mboxDoorbell (s : State) : State :=
  let arg := s.regN (.mboxReq 1) % 2 ^ 32
  match field (s.regN (.mboxReq 0)) 15 0 with
  | 0x01 => s.readInventory
  | 0x10 => s.mboxLoad arg (.ufs (s.regN (.mboxReq 2) % 2 ^ 32))
  | 0x20 => s.mboxStart []
  | 0x11 => s.mboxEndRes arg
  | 0x21 => s.mboxEnd
  | 0x30 => if arg % 4 = 2 then s.mboxBay arg else s.mboxCompute arg
  | 0x40 => s.mboxCap arg
  | 0x50 => if arg % 4 = 0 then s.mboxDetach else s.doorbellAttach (decide (arg % 4 = 1))
  | cmd => s.mboxTake cmd (fun x => x.mboxAnswer 1 [])

/-- STITCH_CTRL: each bit that is 1 acts (R66). -/
def State.stitchCtrl (s : State) (v : Nat) : State :=
  let s1 := if bitOf v 0 then s.voidCurrent else s
  let s2 := if bitOf v 1 then s1.ctxRequest (field v 3 2) else s1
  let s3 := if bitOf v 4 then s2.resumeCtx else s2
  if bitOf v 5 then s3.modeCancel else s3

/-- CU_SR_SEED: loaded at cycle 0 of the next work window (R107). -/
def State.seedWrite (s : State) (u : Nat) (v : Reg) : State :=
  (s.setReg (.cu u .srSeed) (regOf (v.toNat % 2 ^ 32))).modCu u (fun c => { c with seeded := true })

/-- BAY_FAB_TEL_SIZE and BAY_FAB_TEL_BASE: the ring's head returns to 0 (R234). -/
def State.ringConfig (s : State) (b : Nat) (size : Bool) (v : Reg) : State :=
  (s.plainWrite (.bay b (if size then .fabTelSize else .fabTelBase)) v).setReg (.bay b .fabTelHead) 0

/-- SEC_DIAG_CTRL.go: done is cleared and the read starts. A write of go while a read is in progress is discarded (R467; that
`done = 0` before the first read is no such time is deduced, log entry 24). -/
def State.diagGo (s : State) (v : Nat) : State :=
  if !bitOf v 0 ∨ s.spdm.diag.isSome then s
  else (s.setReg (.sec .diagCtrl) 0).modSpdm (fun x => { x with diag := some (s.regN (.sec .diagAddr)) })

/-- What a write of value `v` to a register does. -/
def State.regApply (s : State) (id : RegId) (v : Reg) : State :=
  let n := v.toNat
  match id with
  | .host .version => s.hostVersion n
  | .host .mboxDoorbell => if bitOf n 0 then s.mboxDoorbell else s
  | .dmaRes d => s.dmaResWrite d n
  | .msixTable w => s.msixWrite w v
  | .evt .ringCfg => s.ringEnable n
  | .evt .ringHead => s.ringHeadWrite n
  | .evtSrc k => s.srcWrite k v
  | .time .hsyncSignal => s.hsyncWrite n
  | .waitCfg k => s.waitWrite k v
  | .stitch .ctrl => s.stitchCtrl n
  | .stitch .modeCmd => if bitOf n 0 then s.modeStage else s
  | .boot .reset => if field n 31 24 = 0xC4 ∧ bitOf n 0 then s.deviceReset 1 else s
  | .sec .diagCtrl => s.diagGo n
  | .bay b .fabTelSize => s.ringConfig b true v
  | .bay b .fabTelBase => s.ringConfig b false v
  | .launchAction b e => s.launchWrite b e n
  | .cu u .srSeed => s.seedWrite u v
  | .qp q .inTail => s.qpTail q n
  | .qp q .outHead => s.qpHead q n
  | .dma d .tail => s.dmaTailWrite d n
  | .dma d .ctrl => if bitOf n 0 then s.dmaRestartCmd d else s
  | .claim k .done => s.claimDone k (field n 11 0)
  | .panelRoute p w => s.setReg (.panelRoute p w) (v &&& 0xFCFCFCFC)
  | .panel p .meshHoles => s.setReg (.panel p .meshHoles) (v &&& 0xFFFFFFFFFFFF)
  | id => s.plainWrite id v

/-- R7: the high half waits for the write of the low half, which takes it along. -/
def State.regParts (s : State) (id : RegId) (part : Part) (v : Reg) : State :=
  if !isReg64 id then s.regApply id (regOf (v.toNat % 2 ^ 32))
  else
    let rest := List.filter (fun e => decide (e.1 ≠ id)) s.host.lowWrites
    match part with
    | .high => s.modHost (fun h => { h with lowWrites := (id, regOf (v.toNat % 2 ^ 32)) :: rest })
    | .whole => (s.modHost (fun h => { h with lowWrites := rest })).regApply id v
    | .low =>
      let hi := match s.host.lowWrites.find? (fun e => decide (e.1 = id)) with
        | some (_, x) => x.toNat
        | none => (s.reg id).toNat / 2 ^ 32
      (s.modHost (fun h => { h with lowWrites := rest })).regApply id (regOf (hi * 2 ^ 32 + v.toNat % 2 ^ 32))

/-- A write by a path. -/
def State.regWrite (s : State) (path : Path) (id : RegId) (part : Part) (v : Reg) : State :=
  match s.unreached id with
  | some a => s.pathFault path a 2
  | none => if s.mayWrite path id then s.regParts id part v else s

/-- What a path sends; the host's comes through the port. -/
def State.byPath (s : State) (path : Path) (f : State → State) : State := if fromHost path then s.viaPort f else f s

/-- A read that the port answers with Unsupported Request brings no data. -/
def State.unsupported (s : State) : State := s.viaPort (fun x => x.modHost (fun h => { h with answer := [], urs := h.urs + 1 }))

/-- R472: while the IDE stream is active, a TLP that is not on it is discarded, a non-posted one with Unsupported Request; without a
stream it is one like any other. -/
def State.onStream (s : State) (path : Path) (posted : Bool) (f : Path → State → State) : State :=
  match path with
  | .offStream b =>
    if s.spdm.ide.isSome then (if posted then s else s.unsupported) else f (if b then .bar2 else .host) s
  | p => f p s

/-- An action word is written in the bay's cycle that holds the master's ns (R278; log entry 42). -/
def State.regTime (s : State) : RegId → State
  | .launchAction b _ => s.bayTime b (s.nowCycle b)
  | _ => s

/-- A write that has been issued: one through BAR2 keeps its place behind the writes through BAR4 (R314). -/
def State.postWrite (s : State) (path : Path) (id : RegId) (part : Part) (v : Reg) : State :=
  match path with
  | .bar2 => s.bar2Write id part v (fun x => x.regWrite .bar2 id part v)
  | _ => s.byPath path (fun x => (x.regTime id).regWrite path id part v)

def execRegisterWrite (t : Nat) (path : Path) (id : RegId) (part : Part) (v : Reg) (s0 : State) : Host.Outcome State Fault Refusal :=
  .next ((s0.masterTime t).onStream path true (fun p s => s.postWrite p id part v))

def execDiagGo (t : Nat) (path : Path) (v : Reg) (s0 : State) : Host.Outcome State Fault Refusal :=
  .next ((s0.masterTime t).onStream path true (fun p s => s.postWrite p (.sec .diagCtrl) .whole v))

/-! ### Reads (R7, R9) -/

/-- What a read that clears the bits `m` returns and leaves. A hardware update of the same cycle shows only afterwards (R10). -/
def State.rcTake (s : State) (host : Bool) (id : RegId) (m : Reg) : Reg × State :=
  if m = 0 then (s.readReg host id, s)
  else match s.hwAt id with
    | some e =>
      ((s.setReg id e.old).readReg host id,
        { s.setReg id ((s.reg id &&& ~~~m) ||| (e.fresh &&& m)) with hw := s.hw.set id { e with old := e.old &&& ~~~m } })
    | none => (s.readReg host id, if s.reg id &&& m = 0 then s else s.setReg id (s.reg id &&& ~~~m))

/-- R383: a read of BAY_PWR_VMIN returns the record and its timestamp goes to BAY_PWR_VMIN_TS; a sample of the same cycle shows only
afterwards (R10). -/
def State.vminTaken (s : State) (b : Nat) : Reg × State :=
  let id : RegId := .bay b .pwrVmin
  let ts (x : State) (n : Nat) : State := x.setReg (.bay b .pwrVminTs) (regOf n)
  match s.hwAt id with
  | some e =>
    (e.old, ts (({ s.setReg id e.fresh with hw := s.hw.set id { e with old := 0xFFF } } : State).modBay b (fun y => { y with
      vminTs := y.vminNow })) (s.bay b).vminOld)
  | none => (s.reg id, ts (s.setReg id 0xFFF) (s.bay b).vminTs)

/-- R234: a read of BAY_FAB_SEAM_MAX returns the largest occupancy since the last read; the payloads that stand in the bay's seam buffers
count towards the next one. -/
def State.seamTaken (s : State) (b : Nat) : Reg × State :=
  let id : RegId := .bay b .fabSeamMax
  let (v, s1) := s.rcTake false id (regAcc id).rc
  (v, s1.modReg id (fun r => regOf (max r.toNat (s.seamLevel b))))

/-- A read of a whole register: its value, and what the read changes. -/
def State.regTake (s : State) (host : Bool) (id : RegId) : Reg × State :=
  match id with
  | .claim k .id => let s1 := s.claimRead k; (s1.reg (.claim k .id), s1)
  | .time .now => (s.readReg host id, s.latchNs)
  | .bay b .pwrVmin => s.vminTaken b
  | .bay b .fabSeamMax => s.seamTaken b
  | id => s.rcTake host id (regAcc id).rc

/-- R7: a read of the low half takes the whole register and latches the high half; a read of the high half returns what was
latched, or else takes the half that it reads. One latch and one waiting high half per register serve every path, the host's, the
lanes' and the cores' (DESIGN CHOICE, log entry 44). -/
def State.regPart (s : State) (host : Bool) (id : RegId) (part : Part) : Reg × State :=
  if !isReg64 id then
    let (v, s1) := s.regTake host id
    (regOf (v.toNat % 2 ^ 32), s1)
  else
    let rest := List.filter (fun e => decide (e.1 ≠ id)) s.host.latches
    match part with
    | .whole => s.regTake host id
    | .low =>
      let (v, s1) := s.regTake host id
      (regOf (v.toNat % 2 ^ 32), s1.modHost (fun h => { h with latches := (id, regOf (v.toNat / 2 ^ 32)) :: rest }))
    | .high =>
      match s.host.latches.find? (fun e => decide (e.1 = id)) with
      | some (_, x) => (x, s.modHost (fun h => { h with latches := rest }))
      | none =>
        let (v, s1) := s.rcTake host id ((regAcc id).rc &&& 0xFFFFFFFF00000000)
        (regOf (v.toNat / 2 ^ 32), s1)

/-- A read by a path: zero where the register does not answer. -/
def State.regRead (s : State) (path : Path) (id : RegId) (part : Part) : Reg × State :=
  match s.unreached id with
  | some a => (0, s.pathFault path a 2)
  | none => if hasRegister path id then s.regPart (decide (path = .host)) id part else (0, s)

/-- Bytes of a part. -/
def partBytes (id : RegId) : Part → Nat
  | .whole => if isReg64 id then 8 else 4
  | _ => 4

def State.answered (s : State) (n : Nat) (v : Reg) : State := s.modHost (fun h => { h with answer := leBytes n v.toNat })

/-- A read whose data goes back to the reader. -/
def State.readCmd (s : State) (path : Path) (id : RegId) (part : Part) : State :=
  s.byPath path (fun x =>
    let (v, s1) := x.regRead path id part
    s1.answered (partBytes id part) v)

def execRegisterReadClear (t : Nat) (path : Path) (id : RegId) (part : Part) (s0 : State) : Host.Outcome State Fault Refusal :=
  .next ((s0.masterTime t).onStream path false (fun p s => s.readCmd p id part))

def execRegister64LowRead (t : Nat) (path : Path) (id : RegId) (s0 : State) : Host.Outcome State Fault Refusal :=
  .next ((s0.masterTime t).onStream path false (fun p s => s.readCmd p id .low))

def execVminRead (t : Nat) (path : Path) (b : Nat) (s0 : State) : Host.Outcome State Fault Refusal :=
  .next ((s0.bayTime b t).onStream path false (fun p s => s.readCmd p (.bay b .pwrVmin) .whole))

/-! ### Accesses by offset (R22-R24, R314) -/

/-- Does offset `o` lie in a bay window or a common range that does not answer? That the window of a bay which is off, waking or powering
up answers no more than that of a dark or dormant one is DESIGN CHOICE, log entry 78. -/
def State.windowDark (s : State) (o : Nat) : Bool :=
  let k := o / 0x100000
  if k < 16 ∨ 64 ≤ k then false
  else if o % 0x40000 < 0x38000 then (s.bay (4 * (k - 16) + o % 0x100000 / 0x40000)).power != .active
  else !(s.panel (k - 16)).fabricOn

/-- The register at offset `o` of a path's space. -/
def regAt (path : Path) (o : Nat) : Option (RegId × Nat) := match path with | .bar2 => bar2Reg o | _ => ctlReg o

/-- The accesses of 4 or 8 bytes at offset `o`: registers and parts, low word first; none if a reserved offset is among them. -/
def partsAt (path : Path) (o size : Nat) : Option (List (RegId × Part)) :=
  let part (k : Nat) : Part := if k = 1 then .high else .low
  match regAt path o with
  | none => none
  | some (a, k) =>
    if size = 4 then some [(a, part k)]
    else if isReg64 a ∧ k = 0 then some [(a, .whole)]
    else match regAt path (o + 4) with
      | some (b, j) => some [(a, part k), (b, part j)]
      | none => none

/-- Cause of the address fault of an access by offset, if any. -/
def State.accessBad (s : State) (path : Path) (o size : Nat) : Option Nat :=
  if (size ≠ 4 ∧ size ≠ 8) ∨ o % size ≠ 0 then some 1
  else if path ≠ .bar2 ∧ s.windowDark o then some 2
  else if (partsAt path o size).isNone then some 0
  else none

def State.readParts (s : State) (path : Path) : List (RegId × Part) → List Byte × State
  | [] => ([], s)
  | (id, part) :: rest =>
    let (v, s1) := s.regRead path id part
    let (bs, s2) := s1.readParts path rest
    (leBytes (partBytes id part) v.toNat ++ bs, s2)

def State.writeParts (s : State) (path : Path) (v : Nat) : List (RegId × Part) → State
  | [] => s
  | (id, part) :: rest => (s.postWrite path id part (regOf v)).writeParts path (v / 2 ^ 32) rest

/-- CONTROL_SPACE_ACCESS. -/
def State.access (s : State) (path : Path) (o size : Nat) (write : Bool) (v : Reg) : State :=
  match s.accessBad path o size with
  | some k =>
    let s1 := s.pathFault path (match path with | .bar2 => o | _ => ctlAddr o) k
    if write then s1 else s1.modHost (fun h => { h with answer := List.replicate size 0 })
  | none =>
    let l := (partsAt path o size).getD []
    if write then s.writeParts path v.toNat l
    else
      let (bs, s1) := s.readParts path l
      s1.modHost (fun h => { h with answer := bs })

def execControlSpaceAccess (t : Nat) (path : Path) (offset size : Nat) (write : Bool) (v : Reg) (s0 : State) :
    Host.Outcome State Fault Refusal :=
  .next ((s0.masterTime t).onStream path write (fun p x => x.byPath p (fun s => s.access p offset size write v)))

/-! ### BAR4 (R48, R305, R308, R313) -/

/-- Is the machine between sampling and the end of the commit phase? -/
def State.inCommit (s : State) : Bool := s.stitch.session && (s.stitch.phase == .sampled || s.stitch.phase == .applied)

def State.bar4Addr (s : State) (o : Nat) : Nat := s.regN (.host .bar4Base) + o

/-- R433: an access before the stacks have trained is an address fault. -/
def State.bar4Bad (s : State) (a len : Nat) (write : Bool) : Option Nat :=
  if s.hbm.trained.length < 24 then some 0 else s.hbmRangeBad a len write

/-- An access that completes. -/
def State.bar4Do (s : State) (o : Nat) (write : Bool) (len : Nat) (data : List Byte) : State :=
  let a := s.bar4Addr o
  let zero (x : State) : State := if write then x else x.modHost (fun h => { h with answer := List.replicate len 0 })
  match s.bar4Bad a len write with
  | some k => zero (s.pathFault .host a k)
  | none =>
    if s.hbm.scrubbing then zero s
    else if write then s.hostPut a data
    else
      let (bs, s1) := s.hbmReadBytes a len
      s1.modHost (fun h => { h with answer := bs })

/-- An access that waited completes, if it can: one whose write finds a capture queue full goes on waiting (R357). -/
def State.heldDo (s : State) : Held → Option State
  | .bar4 o w n d =>
    let s1 := s.bar4Do o w n d
    if (s.hbmFull s1).isSome then none else some s1
  | .bar2 id part v => some (s.regWrite .bar2 id part v)

/-- The accesses of a list complete in their order, as far as they can. -/
def State.drainList (s : State) : List Held → State
  | [] => s.modHost (fun h => { h with held := [] })
  | x :: rest => match s.heldDo x with
    | some s1 => s1.drainList rest
    | none => s.modHost (fun h => { h with held := x :: rest })

/-- R48: the accesses that waited for the commit phase complete. -/
def State.drainHeld (s : State) : State := s.drainList s.host.held

/-- An access through BAR4 waits. -/
def State.holdBar4 (s : State) (o : Nat) (write : Bool) (len : Nat) (data : List Byte) : State :=
  s.modHost (fun h => { h with held := h.held ++ [.bar4 o write len data] })

/-- BAR4_ACCESS. Offsets beyond the size of the BAR are no access of the module's (R312; log entry 65). -/
def State.bar4 (s : State) (o : Nat) (write : Bool) (len : Nat) (data : List Byte) : State :=
  if 2 ^ s.host.bar4Log2 < o + len then s
  else if s.inCommit then
    if s.touchesPage (s.bar4Addr o) len (fun _ => true) then s.holdBar4 o write len data else s.bar4Do o write len data
  else
    let s1 := s.drainHeld
    if s1.host.held ≠ [] then s1.holdBar4 o write len data
    else match s1.hbmFull (s1.bar4Do o write len data) with
      | some st => (s1.holdWrite st).holdBar4 o write len data
      | none => s1.bar4Do o write len data

def execBar4Access (t offset : Nat) (kind : Tlp) (len : Nat) (data : List Byte) (s0 : State) : Host.Outcome State Fault Refusal :=
  .next ((s0.masterTime t).onStream (if kind.off then .offStream false else .host) kind.isWrite (fun _ x =>
    x.viaPort (fun s => s.bar4 offset kind.isWrite (if kind.isWrite then data.length else len) data)))

/-- CHECKPOINT_STREAM: what the stream takes makes room for writes that hold (R357). -/
def State.streamNext (s : State) : State := if s.streamStep.inCommit then s.streamStep else s.streamStep.drainHeld

def execCheckpointStream (t : Nat) (s0 : State) : Host.Outcome State Fault Refusal := .next (s0.masterTime t).streamNext

/-- COMMIT_PHASE_END. -/
def State.phaseEnd (s : State) : State :=
  let s1 := s.commitPhaseEnd
  if s1.inCommit then s1 else s1.drainHeld

def execCommitPhaseEnd (t : Nat) (s0 : State) : Host.Outcome State Fault Refusal := .next (s0.masterTime t).phaseEnd

/-! ### Writes with rows of their own

They name no sender: each is a write that the host makes (log entry 45), and in a bay that is not active an address fault (R24). -/

def execCuSrSeedWrite (t u : Nat) (v : BitVec 32) (s0 : State) : Host.Outcome State Fault Refusal :=
  .next ((s0.bayTime (bayOfCu u) t).regWrite .host (.cu u .srSeed) .whole (regOf v.toNat))

def execTelemetryRingConfig (t b : Nat) (size : Bool) (part : Part) (v : Reg) (s0 : State) : Host.Outcome State Fault Refusal :=
  .next ((s0.bayTime b t).regWrite .host (.bay b (if size then .fabTelSize else .fabTelBase)) part v)

/-- LAUNCH_ENTRY_ARM: an action word of a kind other than 0. -/
def execLaunchEntryArm (t b e : Nat) (action : BitVec 32) (s0 : State) : Host.Outcome State Fault Refusal :=
  let s := s0.bayTime b t
  .next (if e < 8 ∧ field action.toNat 31 30 ≠ 0 then s.regWrite .host (.launchAction b e) .whole (regOf action.toNat) else s)

/-- LAUNCH_ENTRY_DISARM: an action word of kind 0. -/
def execLaunchEntryDisarm (t b e : Nat) (action : BitVec 32) (s0 : State) : Host.Outcome State Fault Refusal :=
  let s := s0.bayTime b t
  .next (if e < 8 ∧ field action.toNat 31 30 = 0 then s.regWrite .host (.launchAction b e) .whole (regOf action.toNat) else s)

end Sys2Proof.Machine
end

