-- ==== Sys2Proof/Machine/Remote.lean ====
section
/-! DEFINITION. REMOTE_ACCESS: a read or write that reaches a cluster over the mesh (R40, R107, R177-R180, R242, R247, R267). -/

namespace Sys2Proof.Machine

/-- The registers of the 16-byte words from offset `o` of the register blocks on; none if a reserved offset is among them. -/
def clusterRegs (c o : Nat) : Nat → Option (List RegId)
  | 0 => some []
  | n + 1 =>
    match clusterReg c o, clusterRegs c (o + 4) n with
    | some r, some l => some (r :: l)
    | _, _ => none

def State.takeRegs (s : State) : List RegId → List Byte × State
  | [] => ([], s)
  | r :: rest =>
    let (v, s1) := s.regTake false r
    let (bs, s2) := s1.takeRegs rest
    (leBytes 4 v.toNat ++ bs, s2)

def State.applyRegs (s : State) (v : Nat) : List RegId → State
  | [] => s
  | r :: rest => (s.regApply r (regOf (v % 2 ^ 32))).applyRegs (v / 2 ^ 32) rest

/-- R247, R267: registers over the mesh. The router block answers even in a dark bay; the others only in an active one. An access of
whole 16-byte words is one of the 32-bit registers in them, in ascending order (log entry 25). The target's bay reports an address
fault (DESIGN CHOICE, log entry 49). -/
def State.remoteRegs (s : State) (c o n : Nat) (write : Bool) (who : Sender) (unit : Nat) (data : List Word) : Answer :=
  let zeros : List Word := if write then [] else List.replicate n 0
  let fault (k : Nat) : Answer := (1, zeros, s.addrFault (bayOf c) (devAddr c (0x2000000 + o)) (senderL who unit) k none)
  if !(decide (0x5000 ≤ o ∧ o < 0x5100)) && (s.bay (bayOf c)).power != .active then fault 2
  else match clusterRegs c o (4 * n) with
    | none => fault 0
    | some l =>
      if write then (0, [], s.applyRegs (leNat (wordsBytes data)) l)
      else
        let (bs, s1) := s.takeRegs l
        (0, bytesWords n bs, s1)

/-- A request at its cluster: status, data, state. -/
def State.serve (s : State) (p : MeshPacket) (write : Bool) : Answer :=
  let c := addrCluster p.addr
  let n := if write then p.data.length else p.len
  match storageAt (addrOffset p.addr) with
  | .regs o => s.remoteRegs c o n write p.src p.unit p.data
  | _ => s.remoteStorage c (addrOffset p.addr) n p.ctx write p.src p.unit p.data

/-- REMOTE_ACCESS: the packet is taken from what the router has ejected, if it lies there. One of another stitch is discarded and
counted by the unit it names (R40); every other one is served, by the router alone in a dark bay, and a request is answered. While
the mesh port presents an access again that it was refused, none is served (R161). -/
def State.remoteArrive (s : State) (p : MeshPacket) : State :=
  let c := addrCluster p.addr
  if p.addr / 2 ^ 44 ≠ 8 ∨ 432 ≤ field p.addr 34 26 ∨ !s.routerRuns c ∨ s.portHeld c 6 0 then s
  else
    let (_, s1) := s.takeEjected c (fun q => decide (q = .request p))
    if (s.bay (bayOf c)).power = .active ∧ s.stale p.stitchLo then s1.staleCount c (addrOffset p.addr)
    else
      let (st, ds, s2) := s1.serve p (p.cls == 2 || p.type == 1)
      match responseTo p st ds with
      | some r => s2.reply c (.response r)
      | none => s2

def execRemoteAccess (t : Nat) (pkt : MeshPacket) (s0 : State) : Host.Outcome State Fault Refusal :=
  let s := s0.bayTime (bayOf (addrCluster pkt.addr)) t
  .next (s.muHold (addrCluster pkt.addr) (s.remoteArrive pkt))

end Sys2Proof.Machine
end

