-- ==== Sys2Proof/Machine/Security.lean ====
section
/-! DEFINITION. The root of trust: SPDM requests, signed requests, the diagnostic path, IDE (R460-R474). Bodies of standard SPDM
responses whose contents the spec leaves to SPDM 1.3 are Config's (log entry 26). -/

namespace Sys2Proof.Machine

/-- The responder runs from boot step 2 on. -/
def State.spdmOn (s : State) : Bool := decide (2 ≤ s.sup.bootStep ∧ s.sup.seq ≠ 7)

def State.spdmSay (s : State) (body : List Byte) : State := s.modSpdm (fun x => { x with answer := body })

/-- An SPDM ERROR response; nothing else changes. -/
def State.spdmError (s : State) : State := s.spdmSay (Config.spdmBody 0x7F)

/-- A response of its standard contents, in the secure session. -/
def State.spdmPlain (s : State) (code : Nat) : State := s.spdmSay (Config.spdmBody code)

/-- The bytes of a request: SPDM 1.3, its code and first parameter; the rest is the requester's (log entry 26). -/
def State.requestBytes (s : State) (code p1 : Nat) : List Byte :=
  [0x13, BitVec.ofNat 8 code, BitVec.ofNat 8 p1, 0] ++ Config.requestTail code s.spdm.said.length

/-- A response on the connection, to request `code`; both join its messages. -/
def State.spdmTell (s : State) (code p1 : Nat) (body : List Byte) : State :=
  s.modSpdm (fun x => { x with answer := body, said := x.said ++ s.requestBytes code p1 ++ body })

/-- A response signed with the Alias key (R463). The signature covers the hash of the connection's messages with this one, which stays
for the LMS block (R465). -/
def State.spdmSigned (s : State) (code p1 : Nat) (body : List Byte) : State :=
  let h := sha384 (s.spdm.said ++ s.requestBytes code p1 ++ body)
  (s.spdmTell code p1 (body ++ Config.signature s.spdm.cdi h)).modSpdm (fun x => { x with transcript := some h })

/-- A request that needs the connection at stage `n` or beyond. -/
def State.atStage (s : State) (n : Nat) (f : State → State) : State :=
  if !s.spdmOn then s else if n ≤ s.spdm.stage then f s else s.spdmError

/-! ### The connection (R463)

The codes and bits of these responses are SPDM 1.3's (PRESUMED, log entry 26). -/

/-- VERSION: 1.3 alone. -/
def versionBody : List Byte := [0x10, 0x04, 0, 0, 0, 1, 0x00, 0x13]

/-- CAPABILITIES: CTExponent 17; certificates, challenge, signed measurements, encryption and MAC, key exchange, heartbeat, key update and
an Alias certificate, and none of what R463 does not offer. -/
def capabilitiesBody : List Byte :=
  [0x13, 0x61, 0, 0, 0, 17, 0, 0] ++ leBytes 4 (2 ^ 1 + 2 ^ 2 + 2 ^ 4 + 2 ^ 6 + 2 ^ 7 + 2 ^ 9 + 2 ^ 13 + 2 ^ 14 + 2 ^ 18) ++ Config.spdmBody 0x61

/-- ALGORITHMS: DMTF measurements with SHA-384, ECDSA P-384, SHA-384; DHE secp384r1, AEAD AES-256-GCM, the SPDM key schedule. -/
def algorithmsBody : List Byte :=
  [0x13, 0x63, 3, 0] ++ leBytes 2 48 ++ [1, 0] ++ leBytes 4 (2 ^ 2) ++ leBytes 4 (2 ^ 7) ++ leBytes 4 (2 ^ 1) ++ List.replicate 16 0
    ++ [2, 0x20] ++ leBytes 2 (2 ^ 4) ++ [3, 0x20] ++ leBytes 2 (2 ^ 1) ++ [5, 0x20] ++ leBytes 2 (2 ^ 0)

def execGetVersion (t : Nat) (s0 : State) : Host.Outcome State Fault Refusal :=
  .next ((s0.masterTime t).atStage 0 (fun s =>
    (s.modSpdm (fun x => { x with stage := 1, said := [], transcript := none })).spdmTell 0x84 0 versionBody))

def execGetCapabilities (t : Nat) (s0 : State) : Host.Outcome State Fault Refusal :=
  .next ((s0.masterTime t).atStage 1 (fun s => (s.modSpdm (fun x => { x with stage := max 2 x.stage })).spdmTell 0xE1 0 capabilitiesBody))

def execNegotiateAlgorithms (t : Nat) (s0 : State) : Host.Outcome State Fault Refusal :=
  .next ((s0.masterTime t).atStage 2 (fun s => (s.modSpdm (fun x => { x with stage := 3 })).spdmTell 0xE3 0 algorithmsBody))

/-- The Alias certificate, signed with the DeviceID key by the ROM (R460). -/
def State.aliasCertificate (s : State) : List Byte :=
  let body := Config.aliasBody (Config.publicKey s.spdm.cdi)
  body ++ Config.signature s.spdm.deviceId (sha384 body)

/-- R460, R461: the chain of slot 0, the only one: root CA, device CA, the DeviceID certificate with its extension, Alias. -/
def State.chain (s : State) : List Byte :=
  Config.caCertificates ++ s.fuses.once.deviceCert ++ leBytes 60 s.fuses.once.lmsPublic.toNat ++ s.aliasCertificate

def execGetDigests (t : Nat) (s0 : State) : Host.Outcome State Fault Refusal :=
  .next ((s0.masterTime t).atStage 3 (fun s => s.spdmTell 0x81 0 (digestBytes (sha384 s.chain))))

def execGetCertificate (t : Nat) (s0 : State) : Host.Outcome State Fault Refusal :=
  .next ((s0.masterTime t).atStage 3 (fun s => s.spdmTell 0x82 0 s.chain))

def execChallenge (t : Nat) (s0 : State) : Host.Outcome State Fault Refusal :=
  .next ((s0.masterTime t).atStage 3 (fun s => s.spdmSigned 0x83 0 (digestBytes (sha384 s.chain))))

/-! ### Measurements (R464) -/

def State.fuseBytes (s : State) : List Byte :=
  leBytes 4 (s.fuses.part % 4) ++ [s.fuses.svnTf, s.fuses.svnMf, s.fuses.svnPat, s.fuses.svnWgt].flatMap (fun n => leBytes 8 (thermometer n).toNat)
    ++ (List.range 8).flatMap (fun k => leBytes 48 ((Assoc.find? s.fuses.owner k).getD 0).toNat ++ leBytes 1 (b2n (s.fuses.revoked.contains k)))

def State.darnBytes (s : State) : List Byte :=
  (List.range 6912).flatMap (fun i => leBytes 4 (s.darnRow (i / 36) (i % 36)).toNat) ++ leBytes 4 s.availableBays

/-- Weight sets in order of residency, with their modified bits. -/
def State.weightSets (s : State) : List (WeightSet × Bool) :=
  let cs := (s.ctxs.map Prod.snd).mergeSort (fun a b => decide (a.order ≤ b.order))
  (cs.flatMap (fun c => (List.range c.image.weights.length).filterMap (fun i =>
    (c.image.weights[i]?).map (fun w => (w, c.modified.contains i))))).take 64

/-- Contents of a measurement block; none for an index that has none. -/
def State.measurement (s : State) (i : Nat) : Option (List Byte) :=
  if i = 1 then some (leBytes 48 s.fuses.romDigest.toNat)
  else if i = 2 then some (digestSvn (s.fwOf true).manifest)
  else if i = 3 then some (digestSvn (s.fwOf false).manifest)
  else if i = 4 then some (digestBytes (sha384 s.fuseBytes))
  else if i = 5 then some (digestBytes (sha384 s.darnBytes))
  else if i = 6 then some (leBytes 4 (s.secView false .status).toNat ++ leBytes 4 (s.secView false .debug).toNat ++ leBytes 4 (s.secView false .ide).toNat)
  else if 0x10 ≤ i ∧ i < 0x14 then
    some (match s.ctx? (i - 0x10) with | some c => digestSvn c.image.manifest | none => List.replicate 52 0)
  else if 0x20 ≤ i ∧ i < 0x60 then
    (s.weightSets[i - 0x20]?).map (fun e => digestSvn e.1.manifest ++ leBytes 1 (b2n e.2))
  else none

/-- A block of DMTF format: index, measurement specification 1, size; value type, value size, value (PRESUMED, log entry 26). -/
def dmtfBlock (i type : Nat) (v : List Byte) : List Byte := leBytes 1 i ++ [1] ++ leBytes 2 (v.length + 3) ++ leBytes 1 type ++ leBytes 2 v.length ++ v

/-- The DMTF value type of an index: ROM, firmware, hardware configuration, raw firmware configuration, raw manifest (log entry 26). -/
def valueType (i : Nat) : Nat :=
  if i = 1 then 0x00 else if i = 4 ∨ i = 5 then 0x02 else if i = 6 then 0x83 else if i = 0xEF then 0x84 else 0x01

def State.block (s : State) (i : Nat) : List Byte :=
  match s.measurement i with
  | some b => dmtfBlock i (valueType i) b
  | none => []

/-- R462: a block of 1,024 indices is reserved: its record is committed, with those that wait before it. -/
def State.reserveLms (s : State) : State :=
  let next := s.spdm.lmsUsed + 1024
  let s1 := s.logRecord 2 (BitVec.ofNat 128 next)
  let s2 := (List.range s1.store.queue.length).foldl (fun (x : State) _ => x.recordCommit true) s1
  s2.raise 367 0x75 (2 ^ 30 - next) 0 0 0

/-- R465: the LMS block, of measurement index 0xEF: status, then index and signature. -/
def State.lmsTell (s : State) (contents : List Byte) : State := s.spdmTell 0xE0 0xEF (dmtfBlock 0xEF (valueType 0xEF) contents)

def State.lmsBlock (s : State) : State :=
  match s.spdm.transcript with
  | none => s.lmsTell [1]
  | some h =>
    if 2 ^ 30 ≤ s.spdm.lmsUsed then s.lmsTell [2]
    else
      let q := s.spdm.lmsUsed
      let s1 := if s.spdm.lmsReserved ≤ q then s.reserveLms else s
      (s1.modSpdm (fun x => { x with lmsUsed := q + 1 })).lmsTell ([0] ++ leBytes 4 q ++ Config.hssSignature s.fuses.once.lmsSeed s.fuses.once.lmsId q h)

/-- GET_MEASUREMENTS. -/
def State.measure (s : State) (index : Nat) : State :=
  if index = 0xEF then s.lmsBlock
  else if index = 0xFF then s.spdmSigned 0xE0 0xFF ((List.range 0x60).flatMap s.block)
  else if (s.measurement index).isSome then s.spdmSigned 0xE0 index (s.block index) else s.spdmError

def execGetMeasurements (t index : Nat) (s0 : State) : Host.Outcome State Fault Refusal :=
  .next ((s0.masterTime t).atStage 3 (fun s => s.measure index))

/-! ### The secure session (R463, R468) -/

/-- KEY_EXCHANGE: one session at a time; the responder's random number is fresh. -/
def State.keyExchange (s : State) : State :=
  if s.spdm.session ≠ 0 then s.spdmError
  else
    let n := Config.nonce s.free
    ((s.takeFree).modSpdm (fun x => { x with session := 1, nonce := n, epoch := 0 })).spdmSigned 0xE4 0 (leBytes 32 n.toNat)

def execKeyExchange (t : Nat) (s0 : State) : Host.Outcome State Fault Refusal :=
  .next ((s0.masterTime t).atStage 3 State.keyExchange)

def execFinish (t : Nat) (s0 : State) : Host.Outcome State Fault Refusal :=
  .next ((s0.masterTime t).atStage 3 (fun s =>
    if s.spdm.session = 1 then (s.modSpdm (fun x => { x with session := 2, beat := s.clk.nsTotal })).spdmTell 0xE5 0 (Config.spdmBody 0x65) else s.spdmError))

/-- A request that only the established session carries. -/
def State.inSession (s : State) (f : State → State) : State :=
  if !s.spdmOn then s else if s.spdm.session = 2 then f s else s.spdmError

def execHeartbeat (t : Nat) (s0 : State) : Host.Outcome State Fault Refusal :=
  .next ((s0.masterTime t).inSession (fun s => (s.modSpdm (fun x => { x with beat := s.clk.nsTotal })).spdmPlain 0x68))

def execKeyUpdate (t : Nat) (s0 : State) : Host.Outcome State Fault Refusal :=
  .next ((s0.masterTime t).inSession (fun s => (s.modSpdm (fun x => { x with epoch := x.epoch + 1 })).spdmPlain 0x69))

/-- The session is over: the grant it carried and the IDE stream end with it (R468, R472). -/
def State.dropSession (s : State) : State := (s.endGrant.ideEnd).modSpdm (fun x => { x with session := 0, nonce := 0, tokens := [] })

def execEndSession (t : Nat) (s0 : State) : Host.Outcome State Fault Refusal :=
  .next ((s0.masterTime t).inSession (fun s => s.dropSession.spdmPlain 0x6C))

def execSecureSessionLoss (t : Nat) (s0 : State) : Host.Outcome State Fault Refusal := .next (s0.masterTime t).dropSession

/-! ### Signed requests (R466) -/

/-- Is the request bound to this session and this module? -/
def State.bound? (s : State) (r : SignedRequest) : Bool := r.nonce == s.spdm.nonce && r.serial == s.fuses.serial

/-- A signed request: inside the session, bound to it, accepted by R454, and not taken before: a token works once. -/
def State.signedReq (s : State) (r : SignedRequest) (owner : Bool) (f : State → State) : State :=
  s.inSession (fun x =>
    if !x.bound? r ∨ x.spdm.tokens.contains r.manifest.header then x.spdmError
    else if x.accepts 4 owner r.manifest then f (x.modSpdm (fun y => { y with tokens := r.manifest.header :: y.tokens }))
    else (x.objectRefused 4 owner r.manifest).spdmError)

/-- OWNER_SET. -/
def State.ownerSet (s : State) (r : SignedRequest) : State :=
  if 4 ≤ r.slot ∧ r.slot < 8 ∧ !s.slotProvisioned r.slot then
    (s.modFuses (fun x => { x with owner := Assoc.set x.owner r.slot r.digest })).spdmPlain 0x7E
  else s.spdmError

def execOwnerSet (t : Nat) (req : SignedRequest) (s0 : State) : Host.Outcome State Fault Refusal :=
  .next ((s0.masterTime t).signedReq req false (fun s => s.ownerSet req))

/-- OWNER_REVOKE. -/
def State.ownerRevoke (s : State) (r : SignedRequest) : State :=
  if r.slot < 8 then (s.modFuses (fun x => { x with revoked := insertSorted r.slot x.revoked })).spdmPlain 0x7E else s.spdmError

def execOwnerRevoke (t : Nat) (req : SignedRequest) (s0 : State) : Host.Outcome State Fault Refusal :=
  .next ((s0.masterTime t).signedReq req true (fun s => s.ownerRevoke req))

/-- DEBUG_AUTH. -/
def State.debugAuth (s : State) (r : SignedRequest) : State :=
  ((s.modSpdm (fun x => { x with grant := true, grantSlot := r.manifest.keySlot })).raise 367 0x74 1 0 0 0).spdmPlain 0x7E

def execDebugAuth (t : Nat) (req : SignedRequest) (s0 : State) : Host.Outcome State Fault Refusal :=
  .next ((s0.masterTime t).signedReq req true (fun s => s.debugAuth req))

/-- DEBUG_REVOKE needs no key, but is bound like every request. -/
def execDebugRevoke (t : Nat) (req : SignedRequest) (s0 : State) : Host.Outcome State Fault Refusal :=
  .next ((s0.masterTime t).inSession (fun s => if s.bound? req then s.endGrant.spdmPlain 0x7E else s.spdmError))

/-- The copies of trusted and management firmware that the next boot will select, as the last record on its way says (R427). -/
def State.nextCopies (s : State) : Nat × Nat :=
  match (s.store.queue.filter (fun r => r.type == 4)).getLast? with
  | some r => (bodyN r % 2, bodyN r / 256 % 2)
  | none => (s.store.nextTf, s.store.nextMf)

/-- FW_UPDATE: the object goes into the copy not in use; the next boot selects it once its record is committed. -/
def State.fwUpdate (s : State) (r : SignedRequest) (fw : FwObject) : State :=
  let m := fw.manifest
  if s.stitch.session ∨ !s.bound? r ∨ 2 ≤ m.cls then s.spdmError
  else if !s.accepts m.cls false m then (s.objectRefused m.cls false m).spdmError
  else
    let obj : FwCopy := ⟨fw.version, m⟩
    let copy := 1 - (if m.cls = 0 then s.sup.tfCopy else s.sup.mfCopy)
    let s1 := s.modStore (fun x =>
      if m.cls = 0 then (if copy = 0 then { x with copyA := obj } else { x with copyB := obj })
      else if copy = 0 then { x with mgmtA := obj } else { x with mgmtB := obj })
    let sel := s.nextCopies
    (s1.logRecord 4 (BitVec.ofNat 128 (if m.cls = 0 then copy + 256 * sel.2 else sel.1 + 256 * copy))).spdmPlain 0x7E

def execFwUpdate (t : Nat) (req : SignedRequest) (fw : FwObject) (s0 : State) : Host.Outcome State Fault Refusal :=
  .next ((s0.masterTime t).inSession (fun s => s.fwUpdate req fw))

/-! ### IDE (R472) -/

def execIdeKm (t : Nat) (keys : IdeKeys) (s0 : State) : Host.Outcome State Fault Refusal :=
  .next ((s0.masterTime t).inSession (fun s => s.modSpdm (fun x => { x with ide := some keys })))

/-- The stream on which the T1 sends the TLPs that it originates (R472). -/
def State.tlpStream (s : State) : Option Nat := s.spdm.ide.map (fun k => k.stream % 256)

/-! ### The diagnostic path (R467) -/

/-- The word at a region-0x8 address, with the consequences of reading it (R400, R401). One that no access may name is an address fault
of the control island's and reads zero (R5, R174; log entry 49): no second copy is ever shown (R176). -/
def State.diagWord (s : State) (a : Nat) : Decoded × State :=
  let c := addrCluster a
  let b := bayOf c
  match storageAt (addrOffset a) with
  | .slices w =>
    match s.muPlace c w with
    | .bad k => (⟨0, 0⟩, s.addrFault b a 0xFFFFFFFF k none)
    | p => s.readStore (s.muReadAddr c p) b (locMu c) 0 0 c w (isVersioned p)
  | .scratchpad i w => s.readStore a b (locCu (4 * c + i)) 1 i c w false
  | .lane i w => s.readStore a b (locCu (4 * c + i)) 2 i c w false
  | _ => (⟨0, 0⟩, s)

/-- Statuses that need no read, in the order of the checks (log entry 24); 0 when the word is read. -/
def State.diagStatus (s : State) (a : Nat) : Nat :=
  let stored := match storageAt (addrOffset a) with | .regs _ => false | .unlisted => false | _ => true
  let halted := match s.ctx? s.active with | some c => c.halted | none => false
  if !s.spdm.grant then 1
  else if a / 2 ^ 44 ≠ 8 ∨ 432 ≤ field a 34 26 ∨ !stored then 2
  else if s.stitch.session ∧ !halted then 3
  else if (s.bay (bayOf (addrCluster a))).power ≠ .active ∨ !s.bayAvailable (bayOf (addrCluster a)) then 5
  else 0

/-- done and the status, and the four words of data. -/
def State.diagShow (s : State) (status : Nat) (w : Word) : State :=
  let d (i : Nat) : Reg := regOf (w.toNat / 2 ^ (32 * i) % 2 ^ 32)
  (((((s.setReg (.sec .diagCtrl) (fieldsReg [(1, 31), (status, 28)])).setReg (.sec .diagData0) (d 0)).setReg (.sec .diagData1) (d 1)).setReg
    (.sec .diagData2) (d 2)).setReg (.sec .diagData3) (d 3)).modSpdm (fun x => { x with diag := none })

/-- DIAG_READ_COMPLETE. -/
def State.diagDone (s : State) : State :=
  match s.spdm.diag with
  | none => s
  | some a =>
    let st := s.diagStatus a
    if st ≠ 0 then s.diagShow st 0
    else
      let (d, s1) := s.diagWord a
      if d.verdict = 2 then s1.diagShow 4 0 else s1.diagShow 0 d.data

def execDiagReadComplete (t : Nat) (s0 : State) : Host.Outcome State Fault Refusal := .next (s0.masterTime t).diagDone

end Sys2Proof.Machine
end

