-- ==== Sys2Proof/Machine/Dispatch.lean ====
section
/-! DEFINITION. The meaning of each command, one direct call per row of the command table, in its order. -/

namespace Sys2Proof.Machine

/-- The effect of a command on everything but the queue. -/
def exec (i : Instr) (s : State) : Host.Outcome State Fault Refusal :=
  match i with
  | .powerOnReset t => Sys2Proof.Machine.execPowerOnReset t s
  | .auxGood t => Sys2Proof.Machine.execAuxGood t s
  | .boot t lat => Sys2Proof.Machine.execBoot t lat s
  | .mainEnable t => Sys2Proof.Machine.execMainEnable t s
  | .mainEnableTimeout t => Sys2Proof.Machine.execMainEnableTimeout t s
  | .vinMainInRange t => Sys2Proof.Machine.execVinMainInRange t s
  | .bayCoreRailUp t p tests => Sys2Proof.Machine.execBayCoreRailUp t p tests s
  | .bist t b bad => Sys2Proof.Machine.execBist t b bad s
  | .hbmTraining t st restored failed temp => Sys2Proof.Machine.execHbmTraining t st restored failed temp s
  | .siteTraining t site r => Sys2Proof.Machine.execSiteTraining t site r s
  | .pcieTraining t width rate => Sys2Proof.Machine.execPcieTraining t width rate s
  | .inventoryReady t ms => Sys2Proof.Machine.execInventoryReady t ms s
  | .pwrFailN t dur => Sys2Proof.Machine.execPwrFailN t dur s
  | .supplyOutOfRange t mask mv durNs => Sys2Proof.Machine.execSupplyOutOfRange t mask mv durNs s
  | .deviceReset t value => Sys2Proof.Machine.execDeviceReset t value s
  | .managementWatchdog t => Sys2Proof.Machine.execManagementWatchdog t s
  | .mboxComputeReset t arg => Sys2Proof.Machine.execMboxComputeReset t arg s
  | .mboxBayReset t arg => Sys2Proof.Machine.execMboxBayReset t arg s
  | .computeReset t => Sys2Proof.Machine.execComputeReset t s
  | .bayReset t b => Sys2Proof.Machine.execBayReset t b s
  | .pciePerst t => Sys2Proof.Machine.execPciePerst t s
  | .pcieLinkRetrain t width rate => Sys2Proof.Machine.execPcieLinkRetrain t width rate s
  | .pciePoisonedTlp t => Sys2Proof.Machine.execPciePoisonedTlp t s
  | .recoveryPortEnable t => Sys2Proof.Machine.execRecoveryPortEnable t s
  | .eepromRead t addr => Sys2Proof.Machine.execEepromRead t addr s
  | .registerWrite t path id part v => Sys2Proof.Machine.execRegisterWrite t path id part v s
  | .registerReadClear t path id part => Sys2Proof.Machine.execRegisterReadClear t path id part s
  | .register64LowRead t path id => Sys2Proof.Machine.execRegister64LowRead t path id s
  | .controlSpaceAccess t path offset size write v => Sys2Proof.Machine.execControlSpaceAccess t path offset size write v s
  | .bar4Access t offset kind len data => Sys2Proof.Machine.execBar4Access t offset kind len data s
  | .timeMessageSend t => Sys2Proof.Machine.execTimeMessageSend t s
  | .timeMessageReceive t b m => Sys2Proof.Machine.execTimeMessageReceive t b m s
  | .boundaryMessage t => Sys2Proof.Machine.execBoundaryMessage t s
  | .stitchStart t b m => Sys2Proof.Machine.execStitchStart t b m s
  | .workWindowEnd t b bad => Sys2Proof.Machine.execWorkWindowEnd t b bad s
  | .arithFlagSummary t b => Sys2Proof.Machine.execArithFlagSummary t b s
  | .rollCall t b silentCus silentMus => Sys2Proof.Machine.execRollCall t b silentCus silentMus s
  | .rollCallCompare t b => Sys2Proof.Machine.execRollCallCompare t b s
  | .scrubWindow t b => Sys2Proof.Machine.execScrubWindow t b s
  | .trimApply t b mv => Sys2Proof.Machine.execTrimApply t b mv s
  | .seqMaskBroadcast t => Sys2Proof.Machine.execSeqMaskBroadcast t s
  | .fabricSample t b => Sys2Proof.Machine.execFabricSample t b s
  | .telemetryRecordWrite t b => Sys2Proof.Machine.execTelemetryRecordWrite t b s
  | .voteFreeze t v => Sys2Proof.Machine.execVoteFreeze t v s
  | .commitSampling t => Sys2Proof.Machine.execCommitSampling t s
  | .commitApply t => Sys2Proof.Machine.execCommitApply t s
  | .commitPhaseEnd t => Sys2Proof.Machine.execCommitPhaseEnd t s
  | .doneTokenArrival t peer site stitch result seq => Sys2Proof.Machine.execDoneTokenArrival t peer site stitch result seq s
  | .peerTimeout t => Sys2Proof.Machine.execPeerTimeout t s
  | .ctxSwitch t target => Sys2Proof.Machine.execCtxSwitch t target s
  | .resume t => Sys2Proof.Machine.execResume t s
  | .modeCancel t => Sys2Proof.Machine.execModeCancel t s
  | .voidCurrent t => Sys2Proof.Machine.execVoidCurrent t s
  | .modeStage t => Sys2Proof.Machine.execModeStage t s
  | .stageAck t b cls => Sys2Proof.Machine.execStageAck t b cls s
  | .bayWakeStart t b => Sys2Proof.Machine.execBayWakeStart t b s
  | .wakeComplete t b => Sys2Proof.Machine.execWakeComplete t b s
  | .mboxReadInventory t => Sys2Proof.Machine.execMboxReadInventory t s
  | .mboxLoadImage t k img => Sys2Proof.Machine.execMboxLoadImage t k img s
  | .mboxEndResidency t k => Sys2Proof.Machine.execMboxEndResidency t k s
  | .mboxStartSession t feeds => Sys2Proof.Machine.execMboxStartSession t feeds s
  | .mboxEndSession t => Sys2Proof.Machine.execMboxEndSession t s
  | .mboxSetCap t w => Sys2Proof.Machine.execMboxSetCap t w s
  | .mboxTwinAttach t primary digestsEqual maxMajor minMajor caps => Sys2Proof.Machine.execMboxTwinAttach t primary digestsEqual maxMajor minMajor caps s
  | .mboxTwinDetach t => Sys2Proof.Machine.execMboxTwinDetach t s
  | .mailboxResponse t => Sys2Proof.Machine.execMailboxResponse t s
  | .sessionEndScrubDone t => Sys2Proof.Machine.execSessionEndScrubDone t s
  | .backgroundFrame t b bad silentCus silentMus => Sys2Proof.Machine.execBackgroundFrame t b bad silentCus silentMus s
  | .bundleIssue t u => Sys2Proof.Machine.execBundleIssue t u s
  | .nop t u => Sys2Proof.Machine.execNop t u s
  | .hold t u n => Sys2Proof.Machine.execHold t u n s
  | .holdExpiry t u => Sys2Proof.Machine.execHoldExpiry t u s
  | .loop t u count => Sys2Proof.Machine.execLoop t u count s
  | .endloop t u => Sys2Proof.Machine.execEndloop t u s
  | .seti t u r imm => Sys2Proof.Machine.execSeti t u r imm s
  | .addi t u r imm => Sys2Proof.Machine.execAddi t u r imm s
  | .pred t u r imm => Sys2Proof.Machine.execPred t u r imm s
  | .predon t u => Sys2Proof.Machine.execPredon t u s
  | .exit t u r imm => Sys2Proof.Machine.execExit t u r imm s
  | .brace t u level => Sys2Proof.Machine.execBrace t u level s
  | .braceArm t b => Sys2Proof.Machine.execBraceArm t b s
  | .launch t u r => Sys2Proof.Machine.execLaunch t u r s
  | .launchRelease t u => Sys2Proof.Machine.execLaunchRelease t u s
  | .endMark t u => Sys2Proof.Machine.execEndMark t u s
  | .stitchEndMarkerRetire t u => Sys2Proof.Machine.execStitchEndMarkerRetire t u s
  | .laneStoreRewrite t u => Sys2Proof.Machine.execLaneStoreRewrite t u s
  | .mm t u op => Sys2Proof.Machine.execMm t u op s
  | .mma t u op => Sys2Proof.Machine.execMma t u op s
  | .drain t u op => Sys2Proof.Machine.execDrain t u op s
  | .stageLoad t u side => Sys2Proof.Machine.execStageLoad t u side s
  | .steOutputIssue t u => Sys2Proof.Machine.execSteOutputIssue t u s
  | .accumulate t u => Sys2Proof.Machine.execAccumulate t u s
  | .checksumCompare t u => Sys2Proof.Machine.execChecksumCompare t u s
  | .vectorPass t u op => Sys2Proof.Machine.execVectorPass t u op s
  | .vectorResultWrite t u => Sys2Proof.Machine.execVectorResultWrite t u s
  | .dma t u d ss sd pred => Sys2Proof.Machine.execDma t u d ss sd pred s
  | .dmaTransferStart t u => Sys2Proof.Machine.execDmaTransferStart t u s
  | .dmaTransferComplete t u => Sys2Proof.Machine.execDmaTransferComplete t u s
  | .send t u ch r len pred => Sys2Proof.Machine.execSend t u ch r len pred s
  | .sig t u k n pred => Sys2Proof.Machine.execSig t u k n pred s
  | .wait t u k n pred => Sys2Proof.Machine.execWait t u k n pred s
  | .waitge t u k n pred => Sys2Proof.Machine.execWaitge t u k n pred s
  | .waitSatisfied t u => Sys2Proof.Machine.execWaitSatisfied t u s
  | .scratchpadArbitration t u reqs => Sys2Proof.Machine.execScratchpadArbitration t u reqs s
  | .scratchpadPromotion t u bank => Sys2Proof.Machine.execScratchpadPromotion t u bank s
  | .cuSrSeedWrite t u v => Sys2Proof.Machine.execCuSrSeedWrite t u v s
  | .route t u e => Sys2Proof.Machine.execRoute t u e s
  | .spin t u link d r => Sys2Proof.Machine.execSpin t u link d r s
  | .agstart t u g d r => Sys2Proof.Machine.execAgstart t u g d r s
  | .tag t u target r => Sys2Proof.Machine.execTag t u target r s
  | .spinWrite t u link => Sys2Proof.Machine.execSpinWrite t u link s
  | .linkPayloadTransfer t u src check => Sys2Proof.Machine.execLinkPayloadTransfer t u src check s
  | .seamPayloadExit t u link => Sys2Proof.Machine.execSeamPayloadExit t u link s
  | .seamCreditReturn t u link => Sys2Proof.Machine.execSeamCreditReturn t u link s
  | .fabricPortTransfer t c port inbound => Sys2Proof.Machine.execFabricPortTransfer t c port inbound s
  | .telemetryRingConfig t b size part v => Sys2Proof.Machine.execTelemetryRingConfig t b size part v s
  | .sliceArbitration t c slice reqs => Sys2Proof.Machine.execSliceArbitration t c slice reqs s
  | .narrowStarvation t c port slice bank => Sys2Proof.Machine.execNarrowStarvation t c port slice bank s
  | .cuPortDmaPromotion t u => Sys2Proof.Machine.execCuPortDmaPromotion t u s
  | .agStreamStart t c g => Sys2Proof.Machine.execAgStreamStart t c g s
  | .agAccess t c g => Sys2Proof.Machine.execAgAccess t c g s
  | .indexFetch t c g => Sys2Proof.Machine.execIndexFetch t c g s
  | .agStreamComplete t c g => Sys2Proof.Machine.execAgStreamComplete t c g s
  | .remoteAccess t pkt => Sys2Proof.Machine.execRemoteAccess t pkt s
  | .tokenPayloadEnter t u link => Sys2Proof.Machine.execTokenPayloadEnter t u link s
  | .steerCycle t u => Sys2Proof.Machine.execSteerCycle t u s
  | .steerPairTimeout t u => Sys2Proof.Machine.execSteerPairTimeout t u s
  | .dispatchPassStart t c g => Sys2Proof.Machine.execDispatchPassStart t c g s
  | .tokenRank t c => Sys2Proof.Machine.execTokenRank t c s
  | .tokenResolve t c => Sys2Proof.Machine.execTokenResolve t c s
  | .tokenPayloadEmit t c => Sys2Proof.Machine.execTokenPayloadEmit t c s
  | .passEndFill t c => Sys2Proof.Machine.execPassEndFill t c s
  | .dispatchPassComplete t c => Sys2Proof.Machine.execDispatchPassComplete t c s
  | .meshInject t c => Sys2Proof.Machine.execMeshInject t c s
  | .routerForward t r out bad => Sys2Proof.Machine.execRouterForward t r out bad s
  | .multicastReplicate t r mc => Sys2Proof.Machine.execMulticastReplicate t r mc s
  | .multicastAckCombine t r entry status => Sys2Proof.Machine.execMulticastAckCombine t r entry status s
  | .meshResponseReceive t resp => Sys2Proof.Machine.execMeshResponseReceive t resp s
  | .messageSendInject t u ch => Sys2Proof.Machine.execMessageSendInject t u ch s
  | .messageArrival t part => Sys2Proof.Machine.execMessageArrival t part s
  | .messagePartArrival t part => Sys2Proof.Machine.execMessagePartArrival t part s
  | .messageResponse t u ch status => Sys2Proof.Machine.execMessageResponse t u ch status s
  | .messageRetry t u ch => Sys2Proof.Machine.execMessageRetry t u ch s
  | .ringRelease t u k => Sys2Proof.Machine.execRingRelease t u k s
  | .launchEntryArm t b e action => Sys2Proof.Machine.execLaunchEntryArm t b e action s
  | .launchEntryDisarm t b e action => Sys2Proof.Machine.execLaunchEntryDisarm t b e action s
  | .launchEntryFire t b e => Sys2Proof.Machine.execLaunchEntryFire t b e s
  | .hsyncSignal t v => Sys2Proof.Machine.execHsyncSignal t v s
  | .hostWaitArm t n v => Sys2Proof.Machine.execHostWaitArm t n v s
  | .hostWaitSatisfied t n => Sys2Proof.Machine.execHostWaitSatisfied t n s
  | .timeNowRead t => Sys2Proof.Machine.execTimeNowRead t s
  | .hbmRead t addr => Sys2Proof.Machine.execHbmRead t addr s
  | .hbmWrite t addr data => Sys2Proof.Machine.execHbmWrite t addr data s
  | .hbmRecalibration t st pc ok temp => Sys2Proof.Machine.execHbmRecalibration t st pc ok temp s
  | .hbmPatrol t st pc => Sys2Proof.Machine.execHbmPatrol t st pc s
  | .qpInTail t q v => Sys2Proof.Machine.execQpInTail t q v s
  | .qpOutHead t q v => Sys2Proof.Machine.execQpOutHead t q v s
  | .dmaTail t d v => Sys2Proof.Machine.execDmaTail t d v s
  | .dmaRestart t d => Sys2Proof.Machine.execDmaRestart t d s
  | .dmaDescriptorStart t d words => Sys2Proof.Machine.execDmaDescriptorStart t d words s
  | .dmaBufferRead t d => Sys2Proof.Machine.execDmaBufferRead t d s
  | .dmaHostReadTimeout t d => Sys2Proof.Machine.execDmaHostReadTimeout t d s
  | .dmaDescriptorComplete t d => Sys2Proof.Machine.execDmaDescriptorComplete t d s
  | .hostDmaResWrite t d v => Sys2Proof.Machine.execHostDmaResWrite t d v s
  | .hostVersionWrite t v => Sys2Proof.Machine.execHostVersionWrite t v s
  | .eventReport t => Sys2Proof.Machine.execEventReport t s
  | .eventRecordWrite t => Sys2Proof.Machine.execEventRecordWrite t s
  | .evtRingHeadWrite t v => Sys2Proof.Machine.execEvtRingHeadWrite t v s
  | .evtRingEnable t v => Sys2Proof.Machine.execEvtRingEnable t v s
  | .claimIdRead t k => Sys2Proof.Machine.execClaimIdRead t k s
  | .claimDoneWrite t k src => Sys2Proof.Machine.execClaimDoneWrite t k src s
  | .casrikFlitSend t site => Sys2Proof.Machine.execCasrikFlitSend t site s
  | .casrikFlitReceive t site f wl bad => Sys2Proof.Machine.execCasrikFlitReceive t site f wl bad s
  | .wavelengthDrop t site w => Sys2Proof.Machine.execWavelengthDrop t site w s
  | .wavelengthRejoin t site w => Sys2Proof.Machine.execWavelengthRejoin t site w s
  | .siteDown t site => Sys2Proof.Machine.execSiteDown t site s
  | .exportStart t site d => Sys2Proof.Machine.execExportStart t site d s
  | .checkpointStream t => Sys2Proof.Machine.execCheckpointStream t s
  | .heartbeatSend t => Sys2Proof.Machine.execHeartbeatSend t s
  | .heartbeatInterval t linePulse => Sys2Proof.Machine.execHeartbeatInterval t linePulse s
  | .twinFatalIn t => Sys2Proof.Machine.execTwinFatalIn t s
  | .twinTakeover t => Sys2Proof.Machine.execTwinTakeover t s
  | .regulatorPhaseFail t b phase short => Sys2Proof.Machine.execRegulatorPhaseFail t b phase short s
  | .bayRailShort t b amps => Sys2Proof.Machine.execBayRailShort t b amps s
  | .fabricRailShort t p amps => Sys2Proof.Machine.execFabricRailShort t p amps s
  | .droopBoost t b => Sys2Proof.Machine.execDroopBoost t b s
  | .clockStretch t b => Sys2Proof.Machine.execClockStretch t b s
  | .vminSample t b mv => Sys2Proof.Machine.execVminSample t b mv s
  | .vminRead t path b => Sys2Proof.Machine.execVminRead t path b s
  | .governorRiseTick t b => Sys2Proof.Machine.execGovernorRiseTick t b s
  | .governorFallTick t b => Sys2Proof.Machine.execGovernorFallTick t b s
  | .panelBudgetUpdate t p m => Sys2Proof.Machine.execPanelBudgetUpdate t p m s
  | .bayBudgetCompare t b drawW uj => Sys2Proof.Machine.execBayBudgetCompare t b drawW uj s
  | .thermalSample t b temps => Sys2Proof.Machine.execThermalSample t b temps s
  | .darnUpdateComplete t => Sys2Proof.Machine.execDarnUpdateComplete t s
  | .recordCommit t crcOk => Sys2Proof.Machine.execRecordCommit t crcOk s
  | .logCompaction t => Sys2Proof.Machine.execLogCompaction t s
  | .getVersion t => Sys2Proof.Machine.execGetVersion t s
  | .getCapabilities t => Sys2Proof.Machine.execGetCapabilities t s
  | .negotiateAlgorithms t => Sys2Proof.Machine.execNegotiateAlgorithms t s
  | .getDigests t => Sys2Proof.Machine.execGetDigests t s
  | .getCertificate t => Sys2Proof.Machine.execGetCertificate t s
  | .challenge t => Sys2Proof.Machine.execChallenge t s
  | .getMeasurements t index => Sys2Proof.Machine.execGetMeasurements t index s
  | .keyExchange t => Sys2Proof.Machine.execKeyExchange t s
  | .finish t => Sys2Proof.Machine.execFinish t s
  | .heartbeat t => Sys2Proof.Machine.execHeartbeat t s
  | .keyUpdate t => Sys2Proof.Machine.execKeyUpdate t s
  | .endSession t => Sys2Proof.Machine.execEndSession t s
  | .ownerSet t req => Sys2Proof.Machine.execOwnerSet t req s
  | .ownerRevoke t req => Sys2Proof.Machine.execOwnerRevoke t req s
  | .debugAuth t req => Sys2Proof.Machine.execDebugAuth t req s
  | .debugRevoke t req => Sys2Proof.Machine.execDebugRevoke t req s
  | .fwUpdate t req fw => Sys2Proof.Machine.execFwUpdate t req fw s
  | .ideKm t keys => Sys2Proof.Machine.execIdeKm t keys s
  | .diagGo t path v => Sys2Proof.Machine.execDiagGo t path v s
  | .diagReadComplete t => Sys2Proof.Machine.execDiagReadComplete t s
  | .dmaReadCompletion t d got data => Sys2Proof.Machine.execDmaReadCompletion t d got data s
  | .vectorIssue t u => Sys2Proof.Machine.execVectorIssue t u s
  | .uncorrectableInternalError t => Sys2Proof.Machine.execUncorrectableInternalError t s
  | .pcieLinkDown t => Sys2Proof.Machine.execPcieLinkDown t s
  | .recoveryPortDisable t => Sys2Proof.Machine.execRecoveryPortDisable t s
  | .clockStretchEnd t b => Sys2Proof.Machine.execClockStretchEnd t b s
  | .secureSessionLoss t => Sys2Proof.Machine.execSecureSessionLoss t s

end Sys2Proof.Machine
end

