-- ==== Sys2Proof/Safety.lean ====
section
/-! DEFINITION. The terms in which statements speak of runs: the invariant of every state, which parts of the machine a command
may touch, and what it means for a command to complete. -/

namespace Sys2Proof.Machine

/-- The parts of the machine, one for each field of `State` but the queue of commands; the registers and the note of their last
hardware update (R10) are one part. -/
inductive Comp
  | free | mem | errs | hostMem | regs | clk | stitch | ctxs | hsync | bays | panels | cus | mus | rtrs | host | evt | claims
  | hbm | sites | twin | sup | rel | store | fuses | spdm
  deriving DecidableEq, Repr

/-- Two states hold the same part. -/
def agrees : Comp → State → State → Prop
  | .free, s, t => t.free = s.free
  | .mem, s, t => t.mem = s.mem
  | .errs, s, t => t.errs = s.errs
  | .hostMem, s, t => t.hostMem = s.hostMem
  | .regs, s, t => t.regs = s.regs ∧ t.hw = s.hw
  | .clk, s, t => t.clk = s.clk
  | .stitch, s, t => t.stitch = s.stitch
  | .ctxs, s, t => t.ctxs = s.ctxs
  | .hsync, s, t => t.hsync = s.hsync
  | .bays, s, t => t.bays = s.bays
  | .panels, s, t => t.panels = s.panels
  | .cus, s, t => t.cus = s.cus
  | .mus, s, t => t.mus = s.mus
  | .rtrs, s, t => t.rtrs = s.rtrs
  | .host, s, t => t.host = s.host
  | .evt, s, t => t.evt = s.evt
  | .claims, s, t => t.claims = s.claims
  | .hbm, s, t => t.hbm = s.hbm
  | .sites, s, t => t.sites = s.sites
  | .twin, s, t => t.twin = s.twin
  | .sup, s, t => t.sup = s.sup
  | .rel, s, t => t.rel = s.rel
  | .store, s, t => t.store = s.store
  | .fuses, s, t => t.fuses = s.fuses
  | .spdm, s, t => t.spdm = s.spdm

/-- From `s` to `t` only the parts in `l` may differ; the queue of waiting commands is the same. -/
def Touches (l : List Comp) (s t : State) : Prop := t.pending = s.pending ∧ ∀ k, k ∉ l → agrees k s t

/-- Only the registers in `l` may hold other values. -/
def RegsAlone (l : List RegId) (s t : State) : Prop := ∀ id, id ∉ l → t.reg id = s.reg id

/-- Only the bays in `l` may be in another state; likewise CUs, clusters' MUs and routers, sites, contexts. -/
def BaysAlone (l : List Nat) (s t : State) : Prop := ∀ b, b ∉ l → t.bay b = s.bay b
def CusAlone (l : List Nat) (s t : State) : Prop := ∀ u, u ∉ l → t.cu u = s.cu u
def MusAlone (l : List Nat) (s t : State) : Prop := ∀ c, c ∉ l → t.mu c = s.mu c
def RtrsAlone (l : List Nat) (s t : State) : Prop := ∀ c, c ∉ l → t.rtr c = s.rtr c
def SitesAlone (l : List Nat) (s t : State) : Prop := ∀ x, x ∉ l → t.site x = s.site x
def CtxsAlone (l : List Nat) (s t : State) : Prop := ∀ k, k ∉ l → t.ctx? k = s.ctx? k

/-- Only the bytes of device memory from `lo` on, `n` of them, may read differently. -/
def MemAlone (lo n : Nat) (s t : State) : Prop := ∀ a, ¬(lo ≤ a ∧ a < lo + n) → memRead t.mem a = memRead s.mem a

/-- One report more is on its way to the event doorbell, the last one: its source, kind and payload words. -/
def Raised (s t : State) (source kind w0 w1 w2 w3 : Nat) : Prop :=
  ∃ ts, t.evt = { s.evt with inflight := s.evt.inflight ++ [⟨source, kind, w0, w1, w2, w3, ts⟩] }

/-- The mailbox takes a request (R326, R433): the management firmware runs, the module has not shut down, the link is up, the mailbox is not
busy. -/
def MailboxFree (s : State) : Prop := 3 ≤ s.sup.bootStep ∧ s.sup.seq ≠ 7 ∧ s.host.linkUp = true ∧ (s.regN (.host .mboxStatus)).testBit 31 = false

/-- The mailbox has taken command `cmd`. -/
def Took (cmd : Nat) (t : State) : Prop :=
  (t.regN (.host .mboxStatus)).testBit 31 = true ∧ t.regN (.mboxReq 0) % 2 ^ 16 = cmd

/-- It has taken command `cmd` and prepared a response with the request's sequence number. -/
def Answered (cmd status : Nat) (body : List (BitVec 32)) (s t : State) : Prop :=
  Took cmd t ∧ t.host.mbox = some (status, field (s.regN (.mboxReq 0)) 31 24, body)

/-- The registers a mailbox request writes. -/
def mailboxRegs : List RegId := [.mboxReq 0, .host .mboxStatus]

/-- Kinds of register whose writes and reads have no effect beyond their access classes (R9). -/
def plainKind : RegId → Bool
  | .dev _ => true
  | .host .bar4Base => true
  | .host .mboxStatus => true
  | .mboxReq _ => true
  | .mboxRsp _ => true
  | .evt .ringBase => true
  | .evt .status => true
  | .evt .merged => true
  | .time .peerCtrl => true
  | .time .holdCount => true
  | .stitch .ctrl => false
  | .stitch .modeCmd => false
  | .stitch _ => true
  | .pwr _ => true
  | .hbm _ _ => true
  | .opt _ _ => true
  | .boot .reset => false
  | .boot _ => true
  | .panel _ _ => true
  | .bay _ .fabTelSize => false
  | .bay _ .fabTelBase => false
  | .bay _ .pwrVmin => false
  | .bay _ .fabSeamMax => false
  | .bay _ _ => true
  | .launchTarget _ _ => true
  | .probe _ _ => true
  | .cu _ .srSeed => false
  | .cu _ _ => true
  | .desc _ _ _ => true
  | .dmaDesc _ _ _ => true
  | .route _ _ => true
  | .vwin _ _ => true
  | .mu _ _ => true
  | .rtr _ .status => false
  | .rtr _ _ => true
  | _ => false

/-- The registers of bay `b` that count its clock (R382, R386, R391). -/
def bayClockRegs (b : Nat) : List RegId := [.bay b .govBallast, .bay b .pwrStretch, .bay b .govCapped]

/-- A command of CU `u` that changes only that CU, beside its bay's clock. -/
def LaneFrame (u : Nat) (s t : State) : Prop :=
  CusAlone [u] s t ∧ BaysAlone [bayOfCu u] s t ∧ RegsAlone (bayClockRegs (bayOfCu u)) s t ∧ Touches [.regs, .bays, .cus] s t

/-- Only the CUs in `l` may be in another state and, where link `k` of CU `u` crosses a seam, the CU at its far end, to which the
credit of a payload that is taken starts back (R222). -/
def CusTaken (l : List Nat) (u k : Nat) (s t : State) : Prop :=
  ∀ v, v ∉ l → ¬(isSeam u k = true ∧ neighbour u k = some v) → t.cu v = s.cu v

/-- A command of cluster `c`'s memory unit that changes only that unit, beside its bay's clock. -/
def MuFrame (c : Nat) (s t : State) : Prop :=
  MusAlone [c] s t ∧ BaysAlone [bayOf c] s t ∧ RegsAlone (bayClockRegs (bayOf c)) s t ∧ Touches [.regs, .bays, .mus] s t

/-- The invariant of every state of a run: both memories keep their canonical form, so that equal memories are equal data. -/
def Inv (s : State) : Prop := Memory.wf s.mem ∧ Memory.wf s.hostMem

/-- A command completes: it answers a next state, and that state satisfies `p`. -/
def Completes (o : Host.Outcome State Fault Refusal) (p : State → Prop) : Prop := ∃ t, o = .next t ∧ p t

end Sys2Proof.Machine
end

