-- ==== Sys2Proof/Certificates/Slice0/Obligations.lean ====
section
/-! DEFINITION. The statements for the provers, family by family of the command table. `Completes o p` says that the command answers
a next state that satisfies `p`; `Touches l s r` that only the parts in `l` differ between `s` and `r`, so that what is not listed,
memory included, is as before. -/

open Sys2Proof Sys2Proof.Machine

/-! ### Supplies, boot and reset -/

/-- R439: POWER_ON_RESET resets every scope of the module; fuses, the damage ledger and the record log keep what they hold. That external
memory then reads zero (`r.mem = []`) is the model's choice (log entry 4), and so is that host memory stands (log entry 28). -/
def Obligations.PowerOnResetResetsEveryScope : Prop :=
  ∀ (t : Nat) (s : State), Completes (exec (.powerOnReset t) s) fun r =>
    r.mem = [] ∧ r.errs = [] ∧ r.regs = [] ∧ r.hw = [] ∧ r.host.linkUp = false ∧ r.spdm.session = 0 ∧ r.clk = Clk.reset ∧ r.stitch = Stitch.reset ∧ r.ctxs = [] ∧ r.hsync = HSync.reset ∧
    r.bays = [] ∧ r.panels = [] ∧ r.cus = [] ∧ r.mus = [] ∧ r.rtrs = [] ∧ r.evt = Evt.reset ∧ r.claims = [] ∧ r.hbm = Hbm.reset ∧
    r.sites = [] ∧ r.twin = Twin.reset ∧ r.sup.auxIn = true ∧ r.sup.ioIn = false ∧ r.sup.mainIn = false ∧ r.sup.seq = 0 ∧
    r.fuses = s.fuses ∧ r.rel.ledger = s.rel.ledger ∧ r.store.log = s.store.log ∧ r.pending = s.pending ∧ r.hostMem = s.hostMem

/-- R365, R479, R480, R367, R368, R476: AUX_GOOD, RECOVERY_PORT_ENABLE and EEPROM_READ change pins of the supplies and nothing else;
the EEPROM's first eight bytes are the serial number. RECOVERY_PORT_DISABLE takes the recovery port away: of a port that acts, the NOR flash and what it
holds are then as an integrator may have written them (log entry 77), and the UFS stands. A power failure that passes the filter, and a supply out of range
for more than 10 µs (VIN_MAIN with either of its connectors, bits 0 and 1 of the mask), shut the
module down: its fault is recorded, MAIN_ENABLE falls, the intermediate and every fabric and bay rail of the wafer are off. That one command
takes every step of the shutdown is the model's choice (log entry 58), and so is what it leaves of a fused version that is being raised (log entry 76). -/
def Obligations.SuppliesComeAndGo : Prop :=
  ((∀ (t : Nat) (s : State), s.sup.auxIn = true → Completes (exec (.auxGood t) s) fun r =>
     r.sup = { s.sup with auxGood := true } ∧ Touches [.clk, .sup] s r) ∧
   (∀ (t : Nat) (s : State), Completes (exec (.recoveryPortEnable t) s) fun r =>
     r.sup.rcvEn = true ∧ (s.sup.auxIn = true ∧ s.sup.ioIn = false → r.sup.rcvActs = true) ∧
     (s.sup.ioIn = true → r.sup.rcvActs = s.sup.rcvActs) ∧ Touches [.clk, .sup] s r) ∧
   (∀ (t : Nat) (s : State), s.sup.rcvActs = false → Completes (exec (.recoveryPortDisable t) s) fun r =>
     r.sup = { s.sup with rcvEn := false } ∧ Touches [.clk, .sup] s r) ∧
   (∀ (t : Nat) (s : State), s.sup.ioIn = false → Completes (exec (.recoveryPortDisable t) s) fun r =>
     r.sup = { s.sup with rcvEn := false, rcvActs := false } ∧ r.store.ufs = s.store.ufs ∧
     Touches [.clk, .sup, .store, .rel, .spdm, .free] s r) ∧
   (∀ (t a : Nat) (s : State), s.sup.auxIn = true → a < 8 → Completes (exec (.eepromRead t a) s) fun r =>
     r.sup.eepromOut = s.fuses.serial.toNat / 2 ^ (8 * a) % 256 ∧ Touches [.clk, .sup] s r)) ∧
  ((∀ (t dur : Nat) (s : State), 200 ≤ dur → s.sup.seq ≠ 7 → Completes (exec (.pwrFailN t dur) s) fun r =>
     r.sup.seq = 7 ∧ r.sup.pwrFail = true ∧ r.sup.mainEnable = false ∧ r.sup.inter = false ∧ r.cus = [] ∧ r.mus = [] ∧ r.host.linkUp = false ∧
     (∀ p, p < 48 → (r.panel p).fabricOn = false) ∧ (∀ b, b < 192 → (r.bay b).power = .dark) ∧
     (r.reg (.pwr .fault)).getLsbD 0 = true ∧ (s.fuses.raising = [] → r.fuses = s.fuses) ∧ r.store = s.store ∧ r.rel = s.rel) ∧
   (∀ (t mv durNs : Nat) (mask : BitVec 4) (s : State), 10000 < durNs → s.sup.seq ≠ 7 →
     ((mask.getLsbD 0 || mask.getLsbD 1) && s.sup.mainIn || mask.getLsbD 2 && s.sup.ioIn || mask.getLsbD 3 && s.sup.auxIn) = true →
     Completes (exec (.supplyOutOfRange t mask mv durNs) s) fun r =>
       r.sup.seq = 7 ∧ r.sup.mainEnable = false ∧ r.sup.inter = false ∧ r.cus = [] ∧ (∀ p, p < 48 → (r.panel p).fabricOn = false) ∧
       (∀ b, b < 192 → (r.bay b).power = .dark) ∧
       ((mask.getLsbD 0 = true ∨ mask.getLsbD 1 = true) → s.sup.mainIn = true → r.sup.mainIn = false ∧ (r.reg (.pwr .fault)).getLsbD 1 = true) ∧
       (mask.getLsbD 2 = true → s.sup.ioIn = true → r.sup.ioIn = false ∧ (r.reg (.pwr .fault)).getLsbD 2 = true) ∧
       (mask.getLsbD 3 = true → s.sup.auxIn = true → r.sup.auxIn = false ∧ (r.reg (.pwr .fault)).getLsbD 3 = true) ∧
       (s.fuses.raising = [] → r.fuses = s.fuses) ∧
       (mask.getLsbD 3 = false ∨ s.sup.rcvActs = false → r.store = s.store ∧ r.rel = s.rel)))

/-- R431, R480, R365, R366: BOOT brings VIN_IO in and, unless the recovery port holds it, starts the ROM, which reaches step 3 or stops; the end of
the recovery port starts a ROM that it held. MAIN_ENABLE is asserted in step 3; with VIN_MAIN in range the intermediate and the fabric rails come up;
100 ms without VIN_MAIN de-assert it, set bit 1 of PWR_FAULT and raise supply-fault. That one
command takes each of these steps whole is the model's choice (log entry 58). -/
def Obligations.BootAndSequence : Prop :=
  ((∀ (t : Nat) (lat : List Nat) (s : State), s.sup.auxIn = true → s.sup.bootStep = 0 → s.sup.seq ≠ 7 →
     Completes (exec (.boot t lat) s) fun r => r.sup.ioIn = true ∧ r.sup.seq = 1 ∧
       (s.sup.rcvActs = true → r.sup.bootStep = 0) ∧
       (s.sup.rcvActs = false → r.clk.running = true ∧ (r.sup.bootStep = 3 ∨ r.sup.bootFailed = true))) ∧
   (∀ (t : Nat) (s : State), s.sup.rcvActs = true → s.sup.ioIn = true → s.sup.bootStep = 0 → s.sup.seq ≠ 7 →
     Completes (exec (.recoveryPortDisable t) s) fun r => r.sup.rcvEn = false ∧ r.sup.rcvActs = false ∧ r.sup.seq = 1 ∧
       r.clk.running = true ∧ (r.sup.bootStep = 3 ∨ r.sup.bootFailed = true))) ∧
  ((∀ (t : Nat) (s : State), s.sup.bootStep = 3 → s.sup.bootFailed = false → s.sup.mainEnable = false → s.sup.seq ≠ 7 →
     Completes (exec (.mainEnable t) s) fun r => r.sup.mainEnable = true ∧
       (s.sup.mainIn = false → r.sup.seq = 2 ∧ r.sup.inter = s.sup.inter ∧ Touches [.clk, .sup] s r) ∧
       (s.sup.mainIn = true → r.sup.seq = 4 ∧ r.sup.inter = true ∧ r.sup.bootStep = 4 ∧ ∀ p, p < 48 → (r.panel p).fabricOn = !(s.panel p).fabricOpen)) ∧
   (∀ (t : Nat) (s : State), s.sup.mainEnable = true → s.sup.bootStep = 3 → Completes (exec (.vinMainInRange t) s) fun r =>
     r.sup.mainIn = true ∧ r.sup.inter = true ∧ r.sup.seq = 4 ∧ r.sup.bootStep = 4 ∧
     (∀ p, p < 48 → (r.panel p).fabricOn = !(s.panel p).fabricOpen) ∧ Touches [.clk, .sup, .panels, .sites, .regs] s r) ∧
   (∀ (t : Nat) (s : State), s.sup.mainEnable = true → s.sup.mainIn = false → s.sup.bootStep = 3 →
     Completes (exec (.mainEnableTimeout t) s) fun r => r.sup.mainEnable = false ∧ r.sup.bootStep = 4 ∧
       (r.reg (.pwr .fault)).getLsbD 1 = true ∧ (∃ e ∈ r.evt.inflight, e.source = 365 ∧ e.kind = 0x45 ∧ e.w0 = 2) ∧
       r.bays = s.bays))

/-- R365, R431, R432, R434, R413, R414: When a panel's turn comes, the sequencer powers bays, whatever the phase tests find; where they find nothing,
each of its bays that may rise is active at grade 0x05 with the full cap fraction and waits for its BIST. BIST of a bay that has come up leaves it tested,
and boot has reached step 6; a bay with a row of two bad clusters then goes dark, any other stays active. With every stack trained, the BIST of the last
bay begins the merge and, after it, the broadcast loading and the measurements, whatever the sites do; how long each takes within its bound is a free value,
which is the model's choice (log entry 70). That one command takes the whole panel is the model's choice (log entry 58). -/
def Obligations.BayPowersUp : Prop :=
  (∀ (t p i : Nat) (tests : List (Nat × Nat × Bool)) (s : State), p < 48 → i < 4 → s.mayRise (4 * p + i) = true → 4 ≤ s.sup.bootStep →
     24 ≤ s.hbm.trained.length → (∀ b, b < 4 * p → s.mayRise b = false) → Completes (exec (.bayCoreRailUp t p tests) s) fun r =>
       r.sup.seq = 5 ∧ max s.sup.bootStep 5 ≤ r.sup.bootStep ∧
         (s.store.autostart = none → r.fuses = s.fuses ∧ r.hbm = s.hbm ∧ r.store = s.store)) ∧
  (∀ (t p i : Nat) (s : State), p < 48 → i < 4 → s.mayRise (4 * p + i) = true → 4 ≤ s.sup.bootStep → 24 ≤ s.hbm.trained.length →
     (∀ b, b < 4 * p → s.mayRise b = false) → Completes (exec (.bayCoreRailUp t p []) s) fun r =>
       (r.bay (4 * p + i)).power = .active ∧ (r.bay (4 * p + i)).bist = false ∧ (r.bay (4 * p + i)).modes.grade = 5 ∧
       (r.bay (4 * p + i)).modes.capFrac = 256 ∧
       5 ≤ r.sup.bootStep ∧ (∀ b, 4 * p + 4 ≤ b → r.bay b = s.bay b) ∧ Touches [.clk, .sup, .bays] s r) ∧
  (∀ (t b : Nat) (bad : List (Nat × Nat)) (s m : State), m = s.masterTime t → b < 192 → (s.bay b).power = .active → (s.bay b).bist = false →
     Completes (exec (.bist t b bad) s) fun r => 6 ≤ r.sup.bootStep ∧
       (s.store.autostart = none ∨ 8 ≤ s.sup.bootStep → (r.bay b).bist = true ∧
         (r.bay b).power = (if (m.mergeBay b bad).rowLost b then .dark else .active) ∧ (∀ q, q ≠ b → r.bay q = s.bay q) ∧
         r.fuses = s.fuses ∧ r.hbm = s.hbm) ∧
       Touches [.free, .mem, .errs, .regs, .clk, .stitch, .ctxs, .hsync, .bays, .panels, .cus, .mus, .host, .evt, .hbm, .sites, .twin, .sup, .rel,
         .store, .fuses] s r) ∧
  (∀ (t b : Nat) (bad : List (Nat × Nat)) (s m : State), m = s.masterTime t → b < 192 → (s.bay b).power = .active → (s.bay b).bist = false →
     s.store.autostart = none → 4 ≤ s.sup.bootStep → s.sup.bootStep < 8 → s.sup.bootFailed = false → s.sup.inventory = false →
     24 ≤ s.hbm.trained.length → (m.mergeBay b bad).rowLost b = false →
     (∀ q, q < 192 → q ≠ b → s.mayRise q = false ∧ ((s.bay q).power ≠ .active ∨ (s.bay q).bist = true)) →
     Completes (exec (.bist t b bad) s) fun r => r.sup.bootStep = 8 ∧ r.clk.nsTotal ≤ r.sup.step8At ∧ r.sup.step8At ≤ r.clk.nsTotal + 10 ^ 9 ∧
       r.sup.step8At ≤ r.sup.step9At ∧ (s.ctxs = [] → r.sup.step9At ≤ r.sup.step8At + 2 * 10 ^ 9) ∧
       (∀ p, p < 48 → (s.panel p).fabricOn = true → (r.panel p).fw = some (s.fwOf false).version))

/-- R439, R440, R441, R443: a device reset, by BOOT_RESET or the watchdog, records its cause and clears sessions, contexts and units; PWR_FAULT,
the fuses and host memory stand, and external memory reads zero; any other value written to BOOT_RESET, of another magic number or with bit 0 clear, is discarded. When the management firmware has not checked in, the
watchdog's reset is a device reset, and only the cause that BOOT_RESET_CAUSE records tells it from one by BOOT_RESET. A compute or bay
reset that is due takes effect with no session or at the end of a commit phase, and records its cause too. That external memory reads
zero (`r.mem = []`) and that host memory stands are the model's choices (log entries 4 and 28). -/
def Obligations.DeviceResetScope : Prop :=
  (∀ (t : Nat) (v : Reg) (s : State), field v.toNat 31 24 = 0xC4 → v.getLsbD 0 = true → s.sup.seq ≠ 7 → s.sup.ioIn = true →
    Completes (exec (.deviceReset t v) s) fun r => r.regN (.boot .resetCause) % 256 = 1 ∧ r.reg (.pwr .fault) = s.reg (.pwr .fault) ∧
      r.stitch = Stitch.reset ∧ r.ctxs = [] ∧ r.cus = [] ∧ r.mus = [] ∧ r.mem = [] ∧ Touches [.free, .mem, .errs, .regs, .clk, .stitch, .ctxs, .hsync, .bays,
        .panels, .cus, .mus, .rtrs, .host, .evt, .claims, .hbm, .sites, .twin, .sup, .rel, .store, .spdm] s r) ∧
  (∀ (t : Nat) (v : Reg) (s : State), field v.toNat 31 24 ≠ 0xC4 ∨ v.getLsbD 0 = false → Completes (exec (.deviceReset t v) s) (Touches [.clk] s)) ∧
  (∀ (t : Nat) (s : State), 3 ≤ s.sup.bootStep → s.sup.seq ≠ 7 → s.sup.ioIn = true → Completes (exec (.managementWatchdog t) s) fun r =>
    r.regN (.boot .resetCause) % 256 = 2 ∧ r.reg (.pwr .fault) = s.reg (.pwr .fault) ∧ r.stitch = Stitch.reset ∧ r.ctxs = [] ∧ r.cus = [] ∧ r.mus = [] ∧
      r.mem = [] ∧ Touches [.free, .mem, .errs, .regs, .clk, .stitch, .ctxs, .hsync, .bays, .panels, .cus, .mus, .rtrs, .host, .evt, .claims, .hbm, .sites, .twin, .sup,
        .rel, .store, .spdm] s r) ∧
  (∀ (t : Nat) (s : State), 3 ≤ s.sup.bootStep → Completes (exec (.managementWatchdog t) s) fun r =>
    Completes (exec (.deviceReset t 0xC4000001) s) fun q => RegsAlone [.boot .resetCause] q r ∧ Touches [.regs] q r) ∧
  (∀ (t a : Nat) (s : State), s.sup.computeDue = some a → s.stitch.session = false ∨ s.stitch.phase = .ended → s.rel.updating = none →
    Completes (exec (.computeReset t) s) fun r => r.sup.computeDue = none ∧ r.regN (.boot .resetCause) % 256 = 3 ∧ r.stitch = Stitch.reset ∧
      (∀ k, k < 4 → r.ctx? k = none) ∧ r.rtrs = [] ∧ r.fuses = s.fuses ∧ r.store = s.store ∧ r.twin.state = s.twin.state) ∧
  (∀ (t b : Nat) (s : State), b ∈ s.sup.bayDue → b < 192 → s.stitch.session = false ∨ s.stitch.phase = .ended → (s.panel (b / 4)).waking = none →
    Completes (exec (.bayReset t b) s) fun r => b ∉ r.sup.bayDue ∧ (r.bay b).power = .off ∧ (r.bay b).bist = false ∧
      r.regN (.boot .resetCause) % 2 ^ 16 = b * 2 ^ 8 + 4 ∧ (r.panel (b / 4)).waking = some b ∧ (∀ u, bayOfCu u = b → r.cu u = Cu.reset) ∧
      BaysAlone [b] s r ∧ r.fuses = s.fuses ∧ r.hbm = s.hbm ∧ r.ctxs = s.ctxs)

/-! ### Training and the end of boot -/

/-- R298, R306, R429, R345, R342: HBM_TRAINING of a stack that has not trained. The pseudo-channels left out are those of its crease record and, in
full training, those that failed; full training writes the record anew, a restored one is left. Where every bay has been tested before, the last stack's
training also begins the merge and the loading that follow (log entry 70). SITE_TRAINING of a site that trains, with a peer of a
common major: the site is up on the wavelengths that trained, its sequence numbers and buffers afresh, its credits full; with no wavelength it stays
down and link-down is raised. -/
def Obligations.StacksAndSitesTrain : Prop :=
  (∀ (t st temp : Nat) (restored : Bool) (failed : BitVec 64) (s : State), st < 24 → st ∉ s.hbm.trained → 4 ≤ s.sup.bootStep →
     (s.panel (stackPanel st)).fabricOn = true → s.store.autostart = none ∨ s.allTested = false →
     Completes (exec (.hbmTraining t st restored failed temp) s) fun r =>
       st ∈ r.hbm.trained ∧ r.hbm.temps.get 0 st = temp ∧
       (∀ p, p < 64 → (24 * p + st ∈ r.hbm.mapped ↔ 24 * p + st ∈ s.hbm.mapped ∨
         p ∉ ((s.stackRecord st).map (fun x => x.out)).getD [] ∧ (restored = true ∧ (s.stackRecord st).isSome = true ∨ failed.getLsbD p = false))) ∧
       (∀ q, q % 24 ≠ st → (q ∈ r.hbm.mapped ↔ q ∈ s.hbm.mapped)) ∧
       (restored = true → (s.stackRecord st).isSome = true → r.store = s.store ∧ r.evt = s.evt) ∧
       (restored = false ∨ s.stackRecord st = none → Raised s r 366 0x71 0 st 0 0 ∧ ∃ x, r.stackRecord st = some x ∧
         ∀ p, p < 64 → (p ∈ x.out ↔ p ∈ ((s.stackRecord st).map (fun x => x.out)).getD [] ∨ failed.getLsbD p = true)) ∧
       RegsAlone [.hbm st .status, .hbm st .pcMap] s r ∧ Touches [.clk, .hbm, .regs, .evt, .store, .sup, .panels, .free] s r ∧
       (s.allTested = false → r.sup = s.sup ∧ r.panels = s.panels)) ∧
  (∀ (t st temp : Nat) (restored : Bool) (failed : BitVec 64) (s : State), Completes (exec (.hbmTraining t st restored failed temp) s)
     (Touches [.free, .mem, .errs, .regs, .clk, .ctxs, .hsync, .bays, .panels, .cus, .mus, .host, .evt, .hbm, .twin, .sup, .rel, .store, .fuses] s)) ∧
  ((∀ (t x : Nat) (w : SiteTrain) (s : State), x < 96 → (s.site x).training = true → 4 ≤ s.sup.bootStep → w.wavelengths ≠ 0 →
     1 ≤ w.maxMajor → w.minMajor ≤ 1 → Completes (exec (.siteTraining t x w) s) fun r =>
       (r.site x).up = true ∧ (r.site x).training = false ∧ (r.site x).wl = w.wavelengths ∧ (r.site x).txSeq = 0 ∧ (r.site x).rxSeq = 0 ∧
       (r.site x).resend = [] ∧ (r.site x).credits = [32, 1024, 1024] ∧ (r.site x).owed = [0, 0, 0] ∧
       (r.site x).train = (if w.restored && (s.siteRecord x w.peerSerial).isSome then 1 else 2) ∧
       r.reg (.opt x .peerSerial) = w.peerSerial ∧ r.regN (.opt x .peer) = 2 ^ 31 + w.peerIndex % 64 * 2 ^ 24 + w.peerSite % 128 * 2 ^ 16 ∧
       SitesAlone [x] s r ∧ Touches [.clk, .sites, .regs, .evt, .store] s r) ∧
   (∀ (t x : Nat) (w : SiteTrain) (s : State), x < 96 → (s.site x).training = true → 4 ≤ s.sup.bootStep → w.wavelengths = 0 →
     Completes (exec (.siteTraining t x w) s) fun r =>
       (r.site x).up = (s.site x).up ∧ (r.site x).training = false ∧ (∃ e ∈ r.evt.inflight, e.source = 264 + x ∧ e.kind = 0x50 ∧ e.w0 = 0) ∧
       SitesAlone [x] s r ∧ Touches [.clk, .sites, .evt, .store] s r))

/-- R431, R434, R435: INVENTORY_READY once the stacks, bays and sites have been tested, with no autostart record: the panel controllers have the
management firmware, boot is at step 10, the inventory stands in BOOT_INV, inventory-ready with the bays, pseudo-channels and sites that are available. That
steps 8 and 9, if they have not yet run, run in this command, is the model's choice (log entry 70). -/
def Obligations.InventoryAnnounced : Prop :=
  ∀ (t ms : Nat) (s : State), s.bootDone = true → s.store.autostart = none → Completes (exec (.inventoryReady t ms) s) fun r =>
    (∃ a b, r.sup = { s.sup with bootStep := 10, inventory := true, step8At := a, step9At := b }) ∧ r.regN (.boot .time) = ms % 2 ^ 32 ∧
    (∀ i, i < 36 → r.reg (.bootInv i) = regOf (r.inventoryWord i)) ∧ Raised s r 366 0x70 (s.availableBays % 2 ^ 32) (s.hbm.mapped.length % 2 ^ 32)
      (s.sitesUp % 2 ^ 32) 0 ∧
    (s.sup.bootStep < 8 → ∀ p, p < 48 → (s.panel p).fabricOn = true → r.panel p = { s.panel p with fw := some (s.fwOf false).version }) ∧
    (8 ≤ s.sup.bootStep → r.panels = s.panels ∧ r.sup = { s.sup with bootStep := 10, inventory := true }) ∧
    Touches [.clk, .sup, .regs, .evt, .fuses, .panels, .free] s r

/-- R310, R311, R315, R331, R433: the PCIe port's events. Training and retraining, to a width the port has, set HOST_LINK; a retrain in a session raises
link-retrained with its number, and link-degraded too when it changes the width or rate; a lost link raises link-down; PERST and a lost link leave no link; a poisoned write is reported to the host, and nothing else happens; an
uncorrectable internal error is reported and halts every DMA channel. -/
def Obligations.PcieEvents : Prop :=
  (∀ (t w g : Nat) (s : State), 3 ≤ s.sup.bootStep → w ∈ [1, 2, 4, 8, 16] → Completes (exec (.pcieTraining t w g) s) fun r =>
    r.host = { s.host with linkUp := true, linkWidth := w, linkRate := g } ∧ r.regN (.host .link) = w % 256 * 2 ^ 8 + g % 16 ∧
    RegsAlone [.host .link] s r ∧ Touches [.clk, .host, .regs] s r) ∧
  (∀ (t w g : Nat) (s : State), s.host.linkUp = true → w ∈ [1, 2, 4, 8, 16] → Completes (exec (.pcieLinkRetrain t w g) s) fun r =>
    r.host = { s.host with linkWidth := w, linkRate := g, retrains := s.host.retrains + (if s.stitch.session then 1 else 0) } ∧
    r.regN (.host .link) = w % 256 * 2 ^ 8 + g % 16 ∧
    (s.stitch.session = true → r.regN (.host .link) ≠ s.regN (.host .link) → ∃ ts, r.evt = { s.evt with inflight := s.evt.inflight ++
      [⟨360, 0x52, (s.host.retrains + 1) % 2 ^ 32, 0, 0, 0, ts⟩, ⟨360, 0x51, r.regN (.host .link), s.regN (.host .link) % 2 ^ 32, 0, 0, ts⟩] }) ∧
    (s.stitch.session = true → r.regN (.host .link) = s.regN (.host .link) → Raised s r 360 0x52 ((s.host.retrains + 1) % 2 ^ 32) 0 0 0) ∧
    (s.stitch.session = false → r.evt = s.evt) ∧
    RegsAlone [.host .link] s r ∧ Touches [.clk, .host, .regs, .evt] s r) ∧
  (∀ (t : Nat) (s : State), Completes (exec (.pcieLinkDown t) s) fun r => r.host.linkUp = false ∧ r.reg (.host .link) = 0 ∧
    Raised s r 360 0x50 (if s.stitch.session then 1 else 0) 0 0 0 ∧ RegsAlone [.host .link] s r ∧ Touches [.clk, .host, .regs, .evt] s r) ∧
  (∀ (t : Nat) (s : State), Completes (exec (.pciePerst t) s) fun r => r.host.linkUp = false ∧ r.reg (.host .link) = 0 ∧
    r.spdm.ide = none ∧ (∀ d, d < 64 → (s.hdma d).running = true → (r.hdma d).halted = true) ∧ (∀ d, d < 64 → (r.hdma d).running = false) ∧ r.host.aer = [] ∧
    r.mem = s.mem ∧ r.stitch = s.stitch ∧ r.ctxs = s.ctxs ∧ r.hbm = s.hbm) ∧
  (∀ (t : Nat) (s : State), Completes (exec (.pciePoisonedTlp t) s) fun r =>
    r.host = { s.host with aer := .poisoned :: s.host.aer } ∧ Touches [.clk, .host] s r) ∧
  (∀ (t : Nat) (s : State), Completes (exec (.uncorrectableInternalError t) s) fun r => r.host.aer = .internal :: s.host.aer ∧
    (∀ d, d < 64 → (r.hdma d).running = false ∧ (r.hdma d).halted = true ∧ (r.hdma d).done = (s.hdma d).done) ∧ Touches [.clk, .host] s r)

/-! ### Compute and bay resets -/

/-- R439, R441, R442, R326, R440: The mailbox takes a reset request, which then waits; an attached primary refuses a compute reset without bit 31 and
gives the fatal notice with it; a bay reset of a voter of the running session is refused. A compute reset ends the session and every residency, resets
synchronisation and routers and cycles the rails of the bays whose feeds are closed; fuses, links, external memory and the supplies stand. A bay reset
cycles that bay's rail and nothing of another bay. -/
def Obligations.ResetsAndTheirScopes : Prop :=
  ((∀ (t : Nat) (a : BitVec 32) (s : State), MailboxFree s → a.toNat % 4 ≤ 1 → s.twin.state ≠ 2 ∨ s.twin.attached = false →
     Completes (exec (.mboxComputeReset t a) s) fun r => r.sup = { s.sup with computeDue := some (a.toNat % 2) } ∧ Took 0x30 r ∧
       RegsAlone mailboxRegs s r ∧ Touches [.clk, .sup, .regs] s r) ∧
   (∀ (t : Nat) (a : BitVec 32) (s : State), MailboxFree s → a.toNat % 4 ≤ 1 → s.twin.state = 2 → s.twin.attached = true → a.getLsbD 31 = true →
     Completes (exec (.mboxComputeReset t a) s) fun r => r.sup = { s.sup with computeDue := some (a.toNat % 2) } ∧
       r.twin = { s.twin with fatalOut := true } ∧ Touches [.clk, .sup, .regs, .twin, .sites] s r) ∧
   (∀ (t : Nat) (a : BitVec 32) (s : State), MailboxFree s → a.toNat % 4 ≤ 1 → s.twin.state = 2 → s.twin.attached = true → a.getLsbD 31 = false →
     Completes (exec (.mboxComputeReset t a) s) fun r => Answered 0x30 3 [] s r ∧ Touches [.clk, .host, .regs] s r) ∧
   (∀ (t b : Nat) (a : BitVec 32) (s : State), MailboxFree s → a.toNat % 4 = 2 → b = a.toNat / 2 ^ 8 % 2 ^ 8 → b < 192 →
     s.bayResetBarred b = false → Completes (exec (.mboxBayReset t a) s) fun r =>
       (∀ q, q ∈ r.sup.bayDue ↔ q = b ∨ q ∈ s.sup.bayDue) ∧ Took 0x30 r ∧ RegsAlone mailboxRegs s r ∧ Touches [.clk, .sup, .regs] s r) ∧
   (∀ (t b : Nat) (a : BitVec 32) (s : State), MailboxFree s → a.toNat % 4 = 2 → b = a.toNat / 2 ^ 8 % 2 ^ 8 → b < 192 →
     s.stitch.session = true → s.stitch.voterMask.getLsbD b = true → Completes (exec (.mboxBayReset t a) s) fun r =>
       Answered 0x30 3 [] s r ∧ Touches [.clk, .host, .regs] s r)) ∧
  (∀ (t a : Nat) (s : State), s.sup.computeDue = some a → s.resetPoint = true → s.rel.updating = none →
     Completes (exec (.computeReset t) s) fun r =>
       (∀ k, k < 4 → r.ctx? k = none) ∧ r.stitch = Stitch.reset ∧ r.hsync = HSync.reset ∧ r.rtrs = [] ∧ r.sup.computeDue = none ∧
       r.sup.bayDue = [] ∧ r.regN (.boot .resetCause) % 256 = 3 ∧ r.rel.darned = [] ∧ r.spdm.wafer = true ∧ (a = 1 → r.hbm.scrubbing = true) ∧
       (∀ b, b < 192 → s.feedClosed b = true → (r.bay b).power = .off ∧ (r.bay b).bist = false) ∧
       (∀ u, bayOfCu u < 192 → s.feedClosed (bayOfCu u) = true → r.cu u = Cu.reset) ∧
       (∀ x, (r.site x).up = (s.site x).up ∧ (r.site x).wl = (s.site x).wl) ∧
       (∀ q, q / 2 ^ 44 = 0 → memRead r.mem q = memRead s.mem q) ∧ r.hbm.mapped = s.hbm.mapped ∧ r.hbm.trained = s.hbm.trained ∧
       r.sup.auxIn = s.sup.auxIn ∧ r.sup.ioIn = s.sup.ioIn ∧ r.sup.mainIn = s.sup.mainIn ∧ r.sup.mainEnable = s.sup.mainEnable ∧ r.sup.seq = s.sup.seq ∧
       r.host.linkUp = s.host.linkUp ∧ r.twin = { s.twin with publish := r.twin.publish } ∧
       Touches [.mem, .errs, .regs, .clk, .stitch, .ctxs, .hsync, .bays, .panels, .cus, .mus, .rtrs, .host,
         .evt, .claims, .hbm, .sites, .twin, .sup, .rel, .spdm] s r) ∧
  (∀ (t b : Nat) (s : State), b ∈ s.sup.bayDue → b < 192 → s.resetPoint = true → (s.panel (b / 4)).waking = none →
     Completes (exec (.bayReset t b) s) fun r =>
       (r.bay b).power = .off ∧ (r.bay b).bist = false ∧ (r.bay b).latency = (s.bay b).latency ∧ (r.bay b).gov = Governor.reset ∧
       (∀ u, bayOfCu u = b → r.cu u = Cu.reset) ∧ (∀ u, bayOfCu u ≠ b → r.cu u = s.cu u) ∧ BaysAlone [b] s r ∧
       (∀ c, bayOf c ≠ b → r.mu c = s.mu c ∧ r.rtr c = s.rtr c) ∧ (∀ id, inBay b id = false → id ≠ .boot .resetCause → r.reg id = s.reg id) ∧
       (∀ p, p ≠ b / 4 → r.panel p = s.panel p) ∧ r.stitch.number = s.stitch.number ∧ r.stitch.commitSeq = s.stitch.commitSeq ∧
       b ∉ r.sup.bayDue ∧ (r.panel (b / 4)).waking = some b ∧ b % 4 ∉ (r.panel (b / 4)).tripped ∧
       r.regN (.boot .resetCause) % 2 ^ 16 = b * 2 ^ 8 + 4 ∧ (s.stitch.session = true → b ∈ r.stitch.excluded) ∧
       (∀ a, ¬(a / 2 ^ 44 = 8 ∧ bayOf (addrCluster a) = b) → memRead r.mem a = memRead s.mem a) ∧
       Touches [.clk, .regs, .mem, .errs, .cus, .mus, .bays, .panels, .rtrs, .stitch, .sup] s r)

/-! ### Registers and BAR4 -/

/-- R8, R9, R10, R11: With the link up, a host write to a register of a plain kind that answers treats each bit by its access class: a W1C bit written 1 clears, but
for one that hardware sets in the cycle of the write; an RW bit takes the value, every other bit keeps its value. A write of TWIN_CFG sets its fields;
once the registers are locked, it is discarded and raises lock-violation. -/
def Obligations.RegisterWrites : Prop :=
  (∀ (t : Nat) (id : RegId) (v : Reg) (s m : State), m = s.masterTime t → s.host.linkUp = true → plainKind id = true → s.unreached id = none →
     Completes (exec (.registerWrite t .host id .whole v) s) fun r =>
       (∀ i, i < 64 → (r.reg id).getLsbD i =
         if (regAcc id).w1c.getLsbD i && (v.getLsbD i && (isReg64 id || decide (i < 32))) && !(m.hwBits id).getLsbD i then false
         else if (regAcc id).rw.getLsbD i then v.getLsbD i && (isReg64 id || decide (i < 32)) else (s.reg id).getLsbD i) ∧
       RegsAlone [id] s r ∧ Touches [.clk, .host, .regs] s r) ∧
  ((∀ (t : Nat) (path : Path) (v : Reg) (s : State), (∀ x, path ≠ .offStream x) → s.host.linkUp = true → s.host.held = [] → s.sup.inventory = true →
     Completes (exec (.registerWrite t path (.twin .cfg) .whole v) s) fun r =>
       r.reg (.twin .cfg) = s.reg (.twin .cfg) ∧ Raised s r 361 0x21 0x900000 (v.toNat % 2 ^ 32) 0 0 ∧ Touches [.clk, .evt] s r) ∧
   (∀ (t : Nat) (path : Path) (v : Reg) (s : State), (∀ x, path ≠ .offStream x) → s.host.linkUp = true → s.host.held = [] → s.sup.inventory = false →
     Completes (exec (.registerWrite t path (.twin .cfg) .whole v) s) fun r =>
     (r.reg (.twin .cfg)) &&& 0x7F7FFF = v &&& 0x7F7FFF ∧ RegsAlone [.twin .cfg] s r ∧ Touches [.clk, .regs] s r))

/-- R9, R10, R7: With the link up, a host read of a register with RC fields returns the current value and then clears those fields; where hardware updates the register
in the cycle of the read, it returns the value from before that update, and the update stays. A single 64-bit read takes the whole
register at once. With two 32-bit accesses, a read of the low half latches the high half, which the next read of the high half returns; a write of the
high half takes effect when the low half is then written, as one write of both. That the low half's read clears the RC fields of the whole register, and that
one latch and one waiting half serve every path, are the model's choices (log entries 29 and 44). -/
def Obligations.RegisterReads : Prop :=
  (∀ (t : Nat) (id : RegId) (s m : State), m = s.masterTime t → s.host.linkUp = true → plainKind id = true → (regAcc id).rc ≠ 0 → s.unreached id = none →
     Completes (exec (.registerReadClear t .host id .whole) s) fun r =>
       (m.hwAt id = none → r.host.answer = leBytes (if isReg64 id then 8 else 4) (m.readReg true id).toNat ∧ r.reg id = s.reg id &&& ~~~(regAcc id).rc) ∧
       (∀ e, m.hwAt id = some e → r.host.answer = leBytes (if isReg64 id then 8 else 4) ((m.setReg id e.old).readReg true id).toNat ∧
         r.reg id = (s.reg id &&& ~~~(regAcc id).rc) ||| (e.fresh &&& (regAcc id).rc)) ∧
       RegsAlone [id] s r ∧ Touches [.clk, .host, .regs] s r) ∧
  (∀ (t : Nat) (path : Path) (id : RegId) (s m : State), (∀ x, path ≠ .offStream x) → m = s.masterTime t → s.host.linkUp = true → s.host.held = [] → isReg64 id = true → s.unreached id = none → m.hwAt id = none →
     (hasRegister path id = true → Completes (exec (.registerReadClear t path id .whole) s) fun r =>
       r.host.answer = leBytes 8 (m.readReg (decide (path = .host)) id).toNat ∧ r.reg id = s.reg id &&& ~~~(regAcc id).rc ∧
       r.host.latches = s.host.latches ∧ RegsAlone [id] s r ∧ Touches [.clk, .host, .regs] s r) ∧
     (hasRegister path id = true → Completes (exec (.register64LowRead t path id) s) fun r =>
       r.host.answer = leBytes 4 (m.readReg (decide (path = .host)) id).toNat ∧
       (∃ rest, r.host.latches = (id, regOf ((m.readReg (decide (path = .host)) id).toNat / 2 ^ 32)) :: rest) ∧
       r.reg id = s.reg id &&& ~~~(regAcc id).rc ∧ RegsAlone [id] s r ∧ Touches [.clk, .host, .regs] s r) ∧
     (∀ (x : Reg) (rest : List (RegId × Reg)), hasRegister path id = true → s.host.latches = (id, x) :: rest →
       Completes (exec (.registerReadClear t path id .high) s) fun r =>
         r.host.answer = leBytes 4 x.toNat ∧ (∀ y, (id, y) ∉ r.host.latches) ∧ Touches [.clk, .host] s r) ∧
     (∀ (v : Reg), s.mayWrite path id = true → Completes (exec (.registerWrite t path id .high v) s) fun r =>
       (∃ rest, r.host.lowWrites = (id, regOf (v.toNat % 2 ^ 32)) :: rest) ∧ Touches [.clk, .host] s r) ∧
     (∀ (v x : Reg) (rest : List (RegId × Reg)), s.mayWrite path id = true → s.host.lowWrites = (id, x) :: rest →
       Completes (exec (.registerWrite t path id .low v) s) fun r =>
         (∀ y, (id, y) ∉ r.host.lowWrites) ∧ exec (.registerWrite t path id .whole (regOf (x.toNat * 2 ^ 32 + v.toNat % 2 ^ 32))) s = .next r))

/-- R5, R22, R24, R331, R472: With the link up, an aligned access of the host's, of 4 bytes, at the offset of a plain 32-bit register that answers writes its
RW bits or returns its value and clears its RC bits. An access at a register's offset, by any path into control space, is the access of that register,
or of the half at that offset; one of 8 bytes at a 64-bit register takes it whole. A misaligned one is an address fault: a read returns zeros, a write
writes nothing, and the event names the address and the requester's location. While an IDE stream is active, what the host sends outside it is discarded, and
what asks for an answer gets Unsupported Request; without a stream it is an access like any other. -/
def Obligations.AccessByOffset : Prop :=
  (∀ (t o : Nat) (id : RegId) (v : Reg) (s m : State), m = s.masterTime t → s.host.linkUp = true → o % 4 = 0 → ctlReg o = some (id, 0) →
     s.windowDark o = false → plainKind id = true → isReg64 id = false → s.unreached id = none →
     Completes (exec (.controlSpaceAccess t .host o 4 true v) s) (fun r =>
       (∀ i, i < 32 → (regAcc id).rw.getLsbD i = true → (r.reg id).getLsbD i = v.getLsbD i) ∧ RegsAlone [id] s r ∧ Touches [.clk, .host, .regs] s r) ∧
     Completes (exec (.controlSpaceAccess t .host o 4 false v) s) (fun r =>
       (m.hwAt id = none → r.host.answer = leBytes 4 (m.readReg true id).toNat ∧ r.reg id = s.reg id &&& ~~~(regAcc id).rc) ∧
       RegsAlone [id] s r ∧ Touches [.clk, .host, .regs] s r)) ∧
  (∀ (t o k : Nat) (id : RegId) (v : Reg) (path : Path) (s : State), path ≠ .bar2 → (∀ x, path ≠ .offStream x) → o % 4 = 0 → ctlReg o = some (id, k) → s.windowDark o = false →
    Completes (exec (.controlSpaceAccess t path o 4 true v) s) (fun r =>
      exec (.registerWrite t path id (if k = 1 then .high else .low) v) s = .next r) ∧
    Completes (exec (.controlSpaceAccess t path o 4 false v) s) (fun r =>
      exec (.registerReadClear t path id (if k = 1 then .high else .low)) s = .next r)) ∧
  (∀ (t o : Nat) (id : RegId) (v : Reg) (path : Path) (s : State), path ≠ .bar2 → (∀ x, path ≠ .offStream x) → o % 8 = 0 → ctlReg o = some (id, 0) → isReg64 id = true →
    s.windowDark o = false →
    Completes (exec (.controlSpaceAccess t path o 8 true v) s) (fun r => exec (.registerWrite t path id .whole v) s = .next r) ∧
    Completes (exec (.controlSpaceAccess t path o 8 false v) s) (fun r => exec (.registerReadClear t path id .whole) s = .next r)) ∧
  (∀ (t o : Nat) (v : Reg) (s : State), s.host.linkUp = true → o % 4 ≠ 0 →
    Completes (exec (.controlSpaceAccess t .host o 4 false v) s) (fun r =>
      r.host.answer = [0, 0, 0, 0] ∧ Raised s r 360 0x20 ((15 * 2 ^ 44 + o) % 2 ^ 32) ((15 * 2 ^ 44 + o) / 2 ^ 32 % 2 ^ 32) 0xFFFFFFFF 1 ∧
      Touches [.clk, .host, .evt] s r) ∧
    Completes (exec (.controlSpaceAccess t .host o 4 true v) s) (fun r =>
      Raised s r 360 0x20 ((15 * 2 ^ 44 + o) % 2 ^ 32) ((15 * 2 ^ 44 + o) / 2 ^ 32 % 2 ^ 32) 0xFFFFFFFF 1 ∧ Touches [.clk, .evt] s r)) ∧
  (∀ (t o n b : Nat) (bar2 write : Bool) (path : Path) (id : RegId) (part : Part) (v : Reg) (d : List Byte) (s : State), s.spdm.ide = none →
    path = (if bar2 then .bar2 else .host) →
    exec (.registerWrite t (.offStream bar2) id part v) s = exec (.registerWrite t path id part v) s ∧
    exec (.registerReadClear t (.offStream bar2) id part) s = exec (.registerReadClear t path id part) s ∧
    exec (.register64LowRead t (.offStream bar2) id) s = exec (.register64LowRead t path id) s ∧
    exec (.controlSpaceAccess t (.offStream bar2) o n write v) s = exec (.controlSpaceAccess t path o n write v) s ∧
    exec (.diagGo t (.offStream bar2) v) s = exec (.diagGo t path v) s ∧ exec (.vminRead t (.offStream bar2) b) s = exec (.vminRead t path b) s ∧
    exec (.bar4Access t o .readOff n d) s = exec (.bar4Access t o .read n d) s ∧
    exec (.bar4Access t o .writeOff n d) s = exec (.bar4Access t o .write n d) s) ∧
  (∀ (t o n : Nat) (bar2 : Bool) (id : RegId) (part : Part) (v : Reg) (d : List Byte) (s : State), s.spdm.ide.isSome = true →
    ∀ i ∈ [Instr.registerWrite t (.offStream bar2) id part v, .controlSpaceAccess t (.offStream bar2) o n true v, .diagGo t (.offStream bar2) v,
      .bar4Access t o .writeOff n d], Completes (exec i s) (Touches [.clk] s)) ∧
  (∀ (t o n b : Nat) (bar2 : Bool) (id : RegId) (part : Part) (v : Reg) (d : List Byte) (s : State), s.spdm.ide.isSome = true → s.host.linkUp = true →
    (∀ i ∈ [Instr.registerReadClear t (.offStream bar2) id part, .register64LowRead t (.offStream bar2) id,
      .controlSpaceAccess t (.offStream bar2) o n false v, .bar4Access t o .readOff n d], Completes (exec i s) fun r =>
        r.host = { s.host with answer := [], urs := s.host.urs + 1 } ∧ Touches [.clk, .host] s r) ∧
    Completes (exec (.vminRead t (.offStream bar2) b) s) fun r =>
      r.host = { s.host with answer := [], urs := s.host.urs + 1 } ∧ Touches [.regs, .bays, .host] s r)

/-- R305, R312, R313, R399, R48: outside the commit phase, with the link up, every stack trained and no access waiting, an access within BAR4 of bytes of one
good word, in no versioned page, reads or writes those bytes of external memory at BAR4_BASE plus the offset, and no other byte changes. An
access to a versioned page in the commit phase waits, behind those that wait already. -/
def Obligations.Bar4MovesBytes : Prop :=
  (∀ (t o n a : Nat) (d : List Byte) (s : State), Inv s → s.host.linkUp = true → o + n ≤ 2 ^ s.host.bar4Log2 → 24 ≤ s.hbm.trained.length → a = s.bar4Addr o → 0 < n → a % 16 + n ≤ 16 → s.inCommit = false → s.host.held = [] →
    s.hbm.scrubbing = false → a + n ≤ s.capacity → (∀ p ∈ s.hbm.pages, p.base + 0x20000 ≤ a - a % 16 ∨ a + n ≤ p.base) →
    s.hbmFailed (a - a % 16) = false → s.errs.get [] (a / 16) = [] →
    Completes (exec (.bar4Access t o .read n []) s) (fun r => r.host.answer = memReads s.mem a n ∧ Touches [.clk, .host] s r) ∧
    (d.length = n → Completes (exec (.bar4Access t o .write 0 d) s) fun r => memReads r.mem a n = d ∧ MemAlone a n s r ∧
      Touches [.clk, .host, .mem, .errs, .hbm, .ctxs] s r)) ∧
  (∀ (t o n : Nat) (d : List Byte) (s : State), s.host.linkUp = true → o + n ≤ 2 ^ s.host.bar4Log2 → s.inCommit = true →
    s.touchesPage (s.bar4Addr o) n (fun _ => true) = true →
    Completes (exec (.bar4Access t o .read n []) s) (fun r =>
      r.host = { s.host with held := s.host.held ++ [.bar4 o false n []] } ∧ Touches [.clk, .host] s r) ∧
    (d.length = n → Completes (exec (.bar4Access t o .write 0 d) s) fun r =>
      r.host = { s.host with held := s.host.held ++ [.bar4 o true n d] } ∧ Touches [.clk, .host] s r))

/-! ### Time and boundaries -/

/-- R271, R272, R274, R290, R273, R276, R277: The master's messages and reads of its clock. A bay that receives one measures its phase error to within
a whole nanosecond and trims its PLL by at most 1 ns in 1,000; at 10 ns or less it is locked, beyond that it counts and reports the slip, and beyond 40 ns its vote is missing. The boundary
message goes 48 ns ahead of the end, once no token is missing or the wait has timed out; a hold for peers is recorded and counted. The timeout reports
the peers that are missing; a token counts on the site it arrives on. How a fraction of a
nanosecond shows is a free value (log entry 14); that the trim is in whole picoseconds per 1,000 ns, rounded down, is the model's choice too (log entry 54). -/
def Obligations.TimeAndBoundary : Prop :=
  ((∀ (t : Nat) (s : State), Completes (exec (.timeMessageSend t) s) fun r =>
     r.clk.ns = (if s.clk.running then max s.clk.ns t else s.clk.ns) ∧ r.clk.lastMessage = r.clk.ns ∧ Touches [.clk] s r) ∧
   (∀ (t : Nat) (s : State), Completes (exec (.timeNowRead t) s) fun r =>
     r.clk.nsLatch = r.clk.nsTotal ∧ r.clk.nsTotal = s.clk.nsTotal + (if s.clk.running then t - s.clk.ns else 0) ∧ Touches [.clk] s r) ∧
   (∀ (t b : Nat) (s : State) (e : Int), (s.bay b).power = .active → s.mhz b ≠ 0 →
     e = 1000 * (((s.bayTime b t).bay b).cycle : Int) - s.mhz b * (s.clk.lastMessage + (s.bay b).latency) →
     Completes (exec (.timeMessageReceive t b s.clk.lastMessage) s) fun r =>
       (r.bay b).pllTrim = max (-1000) (min 1000 (-(1000 * e / s.mhz b))) ∧ (r.bay b).locked = decide (e.natAbs ≤ 10 * s.mhz b) ∧ e / s.mhz b ≤ (r.bay b).errNs ∧ (r.bay b).errNs ≤ e / s.mhz b + 1 ∧
       (e % s.mhz b = 0 → (r.bay b).errNs = e / s.mhz b) ∧
       (10 * s.mhz b < e.natAbs → Raised s r b 6 ((r.bay b).timeErr % 2 ^ 32) 0 0 0 ∧ r.reg (.bay b .timeSlip) = satReg (s.reg (.bay b .timeSlip)) 1) ∧ (e.natAbs ≤ 10 * s.mhz b → r.evt = s.evt) ∧
       (40 * s.mhz b < e.natAbs → (r.bay b).vote.missing = true) ∧
       BaysAlone [b] s r ∧ RegsAlone (.bay b .timeSlip :: bayClockRegs b) s r ∧ Touches [.free, .regs, .stitch, .bays, .evt] s r)) ∧
  ((∀ (t : Nat) (s m : State), m = s.masterTime t → s.stitch.session = true → s.clk.boundarySent = false → s.stitch.phase ≠ .before →
     s.stitch.len ≤ m.clk.ns + 48 → s.tokensMissing = [] ∨ s.clk.timedOut = true → Completes (exec (.boundaryMessage t) s) fun r =>
       r.clk.boundarySent = true ∧ (s.feedPeers = [] ∨ m.clk.ns + 48 = s.stitch.len → r.regs = s.regs) ∧
       (s.feedPeers ≠ [] → s.stitch.len < m.clk.ns + 48 → r.regN (.time .holdLast) = min (m.clk.ns + 48 - s.stitch.len) 0xFFFFFFFF ∧
         r.reg (.time .holdCount) = satReg (s.reg (.time .holdCount)) 1) ∧
       RegsAlone [.time .holdLast, .time .holdCount] s r ∧ Touches [.clk, .regs] s r) ∧
   (∀ (t : Nat) (s m : State), m = s.masterTime t → s.stitch.session = true → s.clk.timedOut = false → s.tokensMissing ≠ [] →
     s.stitch.len + s.peerTimeoutNs ≤ m.clk.ns → Completes (exec (.peerTimeout t) s) fun r => r.clk.timedOut = true ∧
       Raised s r 363 7 (peerWord s.tokensMissing % 2 ^ 32) (peerWord s.tokensMissing / 2 ^ 32 % 2 ^ 32) 0 0 ∧ Touches [.clk, .evt] s r) ∧
   (∀ (t p x st res : Nat) (q : Reg) (u : SiteUse) (s : State), s.siteUse x = some u → u.twin = false → u.peerIndex = p →
     Completes (exec (.doneTokenArrival t p x st res q) s) fun r =>
       r.site x = { s.site x with tokens := (s.site x).tokens ++ [q.toNat] } ∧ SitesAlone [x] s r ∧ Touches [.clk, .sites] s r))

/-- R29, R33, R34, R38, R273: the first bay to start after the boundary message begins the next stitch, one number higher; an active bay
starts at cycle 0 with the capacities of the stitch's length at its grade, a fresh vote that holds only a late void, and the
arbiters of its scratchpads and slices at their first state; in a work stitch its CUs start their lanes again. -/
def Obligations.StitchStarts : Prop :=
  (∀ (t b m : Nat) (s : State), s.stitch.session = true → s.clk.boundarySent = true → s.stitch.phase = .ended → s.stitch.begun = true →
    (s.bay b).power = .active → Completes (exec (.stitchStart t b m) s) fun r =>
      r.stitch.number = s.stitch.number + 1 ∧ r.stitch.phase = .before ∧ r.stitch.votes = [] ∧ r.stitch.decision = none ∧
      r.stitch.kind = s.nextKind.1 ∧ r.clk.ns = 0 ∧ r.clk.boundarySent = false ∧ r.stitch.period = s.stitch.nextPeriod.getD s.stitch.period) ∧
  (∀ (t b m g : Nat) (s : State), s.stitch.session = true → s.clk.boundarySent = false → s.stitch.phase = .before → s.stitch.kind = .idle →
    (s.bay b).inStitch = false → (s.bay b).power = .active → g = (s.bay b).modes.nextGrade.getD (s.bay b).modes.grade → g ≠ 0 →
    Completes (exec (.stitchStart t b m) s) fun r =>
      (r.bay b).cycle = 0 ∧ (r.bay b).cap = stitchCap s.stitch.len (gradeMHz g) ∧ (r.bay b).modes.grade = g ∧ (r.bay b).inStitch = true ∧
      (r.bay b).vote.cause = (s.bay b).vote.late ∧ (r.bay b).vote.frozen = false ∧ (r.bay b).vote.missing = false ∧
      (∀ u ∈ s.busyCus b, (r.cu u).sp = SpArb.reset) ∧ (∀ c ∈ s.busyMus b, (r.mu c).arb = MuArb.reset) ∧
      (∀ u, bayOfCu u ≠ b → r.cu u = s.cu u) ∧ (∀ c, bayOf c ≠ b → r.mu c = s.mu c) ∧
      BaysAlone [b] s r ∧ Touches [.regs, .clk, .bays, .cus, .mus] s r) ∧
  (∀ (t b m g : Nat) (s : State), s.stitch.session = true → s.clk.boundarySent = false → s.stitch.phase = .before → s.stitch.kind = .work →
    (s.bay b).inStitch = false → (s.bay b).power = .active → g = (s.bay b).modes.nextGrade.getD (s.bay b).modes.grade → g ≠ 0 →
    Completes (exec (.stitchStart t b m) s) fun r =>
      (r.bay b).cycle = 0 ∧ (r.bay b).cap = stitchCap s.stitch.len (gradeMHz g) ∧ (r.bay b).modes.grade = g ∧ (r.bay b).inStitch = true ∧
      (r.bay b).vote.cause = (s.bay b).vote.late ∧ (r.bay b).vote.frozen = false ∧ (r.bay b).vote.missing = false ∧
      (∀ u ∈ s.busyCus b, (r.cu u).seq = Seq.start ∧ (r.cu u).dma = Dma.reset ∧ (r.cu u).sp = SpArb.reset) ∧
      (∀ u, bayOfCu u ≠ b → r.cu u = s.cu u) ∧ BaysAlone [b] s r ∧
      (s.outOfDate b = false → Touches [.regs, .clk, .bays, .cus, .mus] s r))

/-! ### The hem -/

/-- R36, R37, R99, R387: WORK_WINDOW_END. In a work stitch, lanes that have not retired are halted and void the stitch with cause 0x1; in any
stitch the governor's arming ends and the check tile starts in a bay of the voter mask, its stages empty. -/
def Obligations.WindowCloses : Prop :=
  ∀ (t b : Nat) (bad : List Nat) (s m : State), m = s.bayTime b t → (s.bay b).power = .active →
    (s.bay b).inStitch = true → (s.bay b).windowOver = false → (m.bay b).w ≤ (m.bay b).cycle → Completes (exec (.workWindowEnd t b bad) s) fun r =>
      (r.bay b).windowOver = true ∧
      (r.bay b).gov.armed = false ∧ (r.bay b).gov.braces = [] ∧ (r.bay b).gov.braceLevel = 0 ∧
      (∀ u ∈ s.lanesOf b, s.stitch.kind = .work → (s.cu u).seq.retired = false → (r.cu u).seq.overrun = true) ∧
      (∀ u ∈ s.lanesOf b, s.stitch.kind = .work → (s.cu u).seq.retired = false → (s.bay b).vote.cause = 0 → (s.bay b).vote.frozen = false → (r.bay b).vote.cause = 1) ∧
      (s.voterIn b = true → (r.bay b).hem.tile = some bad ∧ ∀ u ∈ s.busyCus b, (r.cu u).ste.lastB = none) ∧
      (∀ u, bayOfCu u ≠ b → r.cu u = s.cu u) ∧ BaysAlone [b] s r ∧ Touches [.regs, .bays, .cus, .evt] s r

/-- R99, R135, R406, R407, R444, R445, R447: what follows in the hem, with the check tile's result taken first when it is due. The flag summary of a voter ORs the CUs' flags into the bay's register; the roll call, in a voter, takes
the signatures of the CUs that answer; the comparison, in a work stitch, voids the stitch with cause 0x4 where one differs from the one expected; the
setpoint of the regulator phase calibrated last moves by at most 2 mV, in a bay that does not suspend calibration. -/
def Obligations.HemChecks : Prop :=
  (∀ (t b : Nat) (s m : State), m = s.hemTime b t → m.hemAt b 96 (m.bay b).flagsEnd = true → m.voterIn b = true → Completes (exec (.arithFlagSummary t b) s) fun r =>
    r.reg (.bay b .arithFlags) = regOf (s.regN (.bay b .arithFlags) ||| (s.flagSummary b).1) ∧
    r.reg (.bay b .arithCus) = regOf ((s.flagSummary b).2.1 + (s.flagSummary b).2.2 * 2 ^ 16) ∧
    (∀ u, r.reg (.cu u .flags) = s.reg (.cu u .flags)) ∧ RegsAlone [.bay b .arithFlags, .bay b .arithCus] m r ∧ Touches [.regs, .evt] m r ∧
    ((s.bay b).hem.tile = none → RegsAlone (.bay b .arithFlags :: .bay b .arithCus :: bayClockRegs b) s r) ∧
    (r.bay b).hem.tile = none ∧ BaysAlone [b] s r ∧ Touches [.regs, .bays, .evt, .rel] s r) ∧
  (∀ (t b : Nat) (s m : State), m = s.hemTime b t → m.voterIn b = false → Completes (exec (.arithFlagSummary t b) s) fun r => r = m) ∧
  (∀ (t b : Nat) (sc sm : List Nat) (s m : State), m = s.hemTime b t → m.hemAt b 128 (m.bay b).rollEnd = true → s.voterIn b = true → (s.bay b).hem.called = false →
    Completes (exec (.rollCall t b sc sm) s) fun r => (r.bay b).hem.called = true ∧
      (∀ u, u ∈ (r.bay b).hem.silentCus ↔ u ∈ sc ∧ bayOfCu u = b) ∧ (∀ c, c ∈ (r.bay b).hem.silentMus ↔ c ∈ sm ∧ bayOf c = b) ∧
      (∀ u ∈ s.busyCus b, u ∉ sc → r.regN (.cu u .sig) = (s.cu u).seq.sig.toNat) ∧ BaysAlone [b] s r ∧ Touches [.regs, .bays] m r ∧
      Touches [.regs, .bays, .evt, .rel] s r) ∧
  (∀ (t b : Nat) (s m : State), m = s.hemTime b t → m.hemAt b 128 (m.bay b).rollEnd = true → s.voterIn b = true → (s.bay b).hem.called = true → (s.bay b).hem.compared = false →
    s.stitch.kind = .work → Completes (exec (.rollCallCompare t b) s) fun r => (r.bay b).hem.compared = true ∧
      (∀ u ∈ s.lanesOf b, (s.cu u).seq.overrun = false → u ∉ (s.bay b).hem.silentCus → (s.cu u).seq.sig.toNat ≠ s.regN (.cu u .sigExpect) →
        (m.bay b).vote.cause = 0 → (m.bay b).vote.frozen = false → (r.bay b).vote.cause = 4) ∧
      ((∀ u ∈ s.lanesOf b, (s.cu u).seq.sig.toNat = s.regN (.cu u .sigExpect)) → (s.bay b).hem.silentCus = [] → (s.bay b).hem.silentMus = [] →
        r.reg (.bay b .roll) = 0 ∧ (r.bay b).vote = (m.bay b).vote ∧ r.evt = m.evt ∧ r.rel = m.rel) ∧
      BaysAlone [b] s r ∧ Touches [.regs, .bays, .evt, .rel] s r) ∧
  (∀ (t b : Nat) (mv : Int) (s m : State), m = s.bayTime b t →
    (∀ p, (s.bay b).power = .active → s.scrubHeld b = false → ((s.bay b).inStitch = true → (s.bay b).c ≤ (m.bay b).cycle + (s.bay b).k + 64) →
      ((s.bay b).inStitch = false → s.stitch.session = false) → (s.bay b).hem.trim = some p → Completes (exec (.trimApply t b mv) s) fun r =>
        (r.bay b).hem.trim = none ∧ (r.bay b).hem.setpoints.get 0 p = (s.bay b).hem.setpoints.get 0 p + max (-2) (min 2 mv) ∧
        (∀ q, q ≠ p → (r.bay b).hem.setpoints.get 0 q = (s.bay b).hem.setpoints.get 0 q) ∧ BaysAlone [b] s r ∧
        RegsAlone (bayClockRegs b) s r ∧ Touches [.regs, .bays] s r) ∧
    (s.scrubHeld b = true ∨ (s.bay b).hem.trim = none → Completes (exec (.trimApply t b mv) s) fun r => r = m))

/-- R400, R402, R403: SCRUB_WINDOW, in a bay of the voter mask, writes a word with one bad symbol back good, wherever it is among the hem's units, and the walk
moves on. -/
def Obligations.ScrubMends : Prop :=
  ∀ (t b : Nat) (s m : State), Inv s → m = s.hemTime b t → m.hemAt b 192 (m.bay b).scrubEnd = true → s.voterIn b = true → (s.bay b).hem.scrubbed = false → s.scrubHeld b = false →
    Completes (exec (.scrubWindow t b) s) fun r => (r.bay b).hem.scrubbed = true ∧
      (∀ k e, s.errs.get [] k = [e] → m.scrubReach b (s.bay b).cap.2.1 (s.stitch.kind != .reload) (16 * k) = true →
        r.errs.get [] k = [] ∧ r.word (16 * k) = s.word (16 * k)) ∧
      (∀ k, s.errs.get [] k = [] → r.word (16 * k) = s.word (16 * k)) ∧
      (r.bay b).hem.spWord = ((s.bay b).hem.spWord + (scrubUnits (s.bay b).cap.2.1).2.1) % 1024 ∧
      (r.bay b).hem.calPhase = ((s.bay b).hem.calPhase + 1) % 16 ∧ (r.bay b).hem.trim = some (s.bay b).hem.calPhase ∧ BaysAlone [b] s r ∧
      Touches [.free, .mem, .errs, .regs, .bays, .evt, .rel] s r

/-- R409, R448: a background frame takes no vote. A quiet one forgets the bay's earlier detections; a check-tile failure that the bay's
last frame also found is permanent and is reported. -/
def Obligations.FramesFindFaults : Prop :=
  (∀ (t b : Nat) (s : State), s.stitch.session = false → (s.bay b).power = .active → s.bayAvailable b = true → s.errs = [] →
    Completes (exec (.backgroundFrame t b [] [] []) s) fun r => (r.bay b).vote = (s.bay b).vote ∧ r.reg (.bay b .roll) = 0 ∧
      r.rel = { s.rel with frame := s.rel.frame.filter (fun d => d.bay != b) } ∧ r.stitch = s.stitch ∧ BaysAlone [b] s r ∧
      Touches [.clk, .regs, .bays, .evt, .rel] s r) ∧
  (∀ (t b u : Nat) (bad : List Nat) (d : Detection) (s : State), s.stitch.session = false → (s.bay b).power = .active → s.bayAvailable b = true →
    b < 192 → u ∈ bad → bayOfCu u = b → d ∈ s.rel.frame → d.bay = b → d.kind = 1 → d.cluster = u / 4 →
    Completes (exec (.backgroundFrame t b bad [] []) s) fun r => ∃ e ∈ r.evt.inflight, e.source = 368 ∧ e.kind = 0x31 ∧
      e.w0 = locCu u % 2 ^ 32 ∧ e.w1 = 1 ∧ e.w2 = 3)

/-- R228, R230, R231, R234: a fabric sample takes the 16 probes and the time; beyond 256 it is counted as dropped. The oldest record is
written at the ring's head, 32 bytes, and the head moves on, one record in 4 cycles; a record that may not go, and those left when the last cycle for
records has passed, are counted as dropped. A host's read of BAY_FAB_SEAM_MAX clears it, and the payloads that stand in the bay's seam buffers count at once
towards the next one. -/
def Obligations.FabricTelemetry : Prop :=
  (∀ (t b : Nat) (s m : State), m = s.bayTime b t → s.stitch.kind = .work → (s.bay b).inStitch = true → s.voterIn b = true →
    (s.bay b).hem.sampleCfg.testBit 31 = true → (s.bay b).windowOver = false → (m.bay b).cycle < (s.bay b).w →
    (m.bay b).cycle % sampleInterval (s.bay b).hem.sampleCfg = 0 → (∀ x ∈ (s.bay b).hem.samples, x.ts ≠ m.bayTs b) →
    Completes (exec (.fabricSample t b) s) fun r =>
      ((s.bay b).hem.samples.length < 256 → ∃ full, (r.bay b).hem.samples = (s.bay b).hem.samples ++
        [⟨m.bayTs b, (s.bay b).hem.probes.map (fun p => (m.probeByte b p).1), full⟩]) ∧
      (256 ≤ (s.bay b).hem.samples.length → (r.bay b).hem = (s.bay b).hem ∧ r.reg (.bay b .fabTelDrop) = satReg (s.reg (.bay b .fabTelDrop)) 1) ∧
      BaysAlone [b] s r ∧ RegsAlone (.bay b .fabTelDrop :: bayClockRegs b) s r ∧ Touches [.regs, .bays] s r) ∧
  (∀ (t b n a : Nat) (x : Sample) (rest : List Sample) (s m : State), Inv s → m = s.bayTime b t → m.hemAt b 128 (m.bay b).cycle = true →
    (∀ c, (s.bay b).hem.telAt = some c → c + 4 ≤ (m.bay b).cycle) → (m.bay b).cycle + (s.bay b).k + 64 ≤ (s.bay b).c →
    (s.bay b).hem.samples = x :: rest → m.telemetryOk b = true → n = s.regN (.bay b .fabTelHead) →
    a = s.regN (.bay b .fabTelBase) + 32 * (n % 2 ^ (s.regN (.bay b .fabTelSize) % 32)) → a % 32 = 0 → a + 32 ≤ s.capacity →
    (∀ p ∈ s.hbm.pages, p.base + 0x20000 ≤ a ∨ a + 32 ≤ p.base) → s.hbmFailed a = false → s.hbmFailed (a + 16) = false →
    Completes (exec (.telemetryRecordWrite t b) s) fun r => (r.bay b).hem.samples = rest ∧ r.regN (.bay b .fabTelHead) = (n + 1) % 2 ^ 32 ∧
      (r.bay b).hem.telAt = some (m.bay b).cycle ∧ memReads r.mem a 32 = sampleBytes b (s.bay b).hem.overran x ∧ MemAlone a 32 s r ∧ BaysAlone [b] s r ∧
      Touches [.mem, .errs, .regs, .ctxs, .bays, .hbm] s r) ∧
  (∀ (t b : Nat) (x : Sample) (rest : List Sample) (s m : State), m = s.bayTime b t → m.hemAt b 128 (m.bay b).cycle = true → (s.bay b).hem.samples = x :: rest →
    ((∀ c, (s.bay b).hem.telAt = some c → c + 4 ≤ (m.bay b).cycle) → (m.bay b).cycle + (s.bay b).k + 64 ≤ (s.bay b).c → m.telemetryOk b = false →
      Completes (exec (.telemetryRecordWrite t b) s) fun r =>
        (r.bay b).hem.samples = rest ∧ r.reg (.bay b .fabTelDrop) = satReg (s.reg (.bay b .fabTelDrop)) 1 ∧ Touches [.regs, .bays] s r) ∧
    ((∀ c, (s.bay b).hem.telAt = some c → c + 4 ≤ (m.bay b).cycle) → (s.bay b).c < (m.bay b).cycle + (s.bay b).k + 64 →
      Completes (exec (.telemetryRecordWrite t b) s) fun r => (r.bay b).hem.samples = [] ∧
        r.reg (.bay b .fabTelDrop) = satReg (s.reg (.bay b .fabTelDrop)) (s.bay b).hem.samples.length ∧ Touches [.regs, .bays] s r) ∧
    (∀ c, (s.bay b).hem.telAt = some c → (m.bay b).cycle < c + 4 → Completes (exec (.telemetryRecordWrite t b) s) fun r => r = m)) ∧
  (∀ (t b : Nat) (id : RegId) (s m : State), m = s.masterTime t → id = .bay b .fabSeamMax → s.host.linkUp = true → s.unreached id = none → m.hwAt id = none →
    Completes (exec (.registerReadClear t .host id .whole) s) fun r =>
      r.host.answer = leBytes 4 ((m.readReg false id).toNat % 2 ^ 32) ∧
      r.reg id = regOf (max (s.reg id &&& ~~~(regAcc id).rc).toNat (s.seamLevel b)) ∧ RegsAlone [id] s r ∧ Touches [.clk, .host, .regs] s r)

/-! ### Votes and commits -/

/-- R38, R45, R55, R61, R354: a voter's freeze fixes its vote line (1 clean, 2 void with its first cause, 0 missing); a site with an export that has not
sent its last flit votes void with cause 0x1; the mask broadcast, in the hem, carries the active context's next sequence mask. When the
hem begins for the time master is the model's choice (log entry 57). -/
def Obligations.VotesFreeze : Prop :=
  (∀ (t b : Nat) (s m : State), m = s.hemTime b t → b < 192 → s.stitch.session = true → s.stitch.phase = .before →
    Assoc.find? s.stitch.votes b = none → (s.bay b).power = .active → (s.bay b).inStitch = true →
    (s.bay b).c ≤ (m.bay b).cycle + (s.bay b).k + freezeLead (s.mhz b) → Completes (exec (.voteFreeze t b) s) fun r =>
      Assoc.find? r.stitch.votes b = some (if (s.bay b).vote.missing then (0, 0) else if (m.bay b).vote.cause = 0 then (1, 0)
        else (2, (m.bay b).vote.cause)) ∧ ((s.bay b).hem.tile = none → (m.bay b).vote = (s.bay b).vote) ∧
      (r.bay b).vote.lastClean = (!(s.bay b).vote.missing && decide ((m.bay b).vote.cause = 0)) ∧
      (r.bay b).vote.frozen = true ∧ (r.bay b).modes.fixedAcks = (s.bay b).modes.acks ∧
      (∀ v, v ≠ b → Assoc.find? r.stitch.votes v = Assoc.find? s.stitch.votes v) ∧ BaysAlone [b] s r ∧ Touches [.regs, .stitch, .bays, .evt, .rel] s r) ∧
  (∀ (t v : Nat) (s m : State), m = s.masterTime t → 192 ≤ v → v < 312 → s.stitch.session = true → s.stitch.phase = .before →
    Assoc.find? s.stitch.votes v = none → s.stitch.len ≤ m.clk.ns + 164 → Completes (exec (.voteFreeze t v) s) fun r =>
      (v < 216 → Assoc.find? r.stitch.votes v = some (if s.hbm.voids.get 0 (v - 192) = 0 then (1, 0) else (2, s.hbm.voids.get 0 (v - 192)))) ∧
      (216 ≤ v → (s.site (v - 216)).up = false → Assoc.find? r.stitch.votes v = some (0, 0)) ∧
      (216 ≤ v → (s.site (v - 216)).up = true → (s.site (v - 216)).void = 0 →
        Assoc.find? r.stitch.votes v = some (if s.exportsOpen (v - 216) = 0 then (1, 0) else (2, 1))) ∧ Touches [.clk, .regs, .stitch, .sites, .evt, .hbm] s r) ∧
  (∀ (t : Nat) (c : Ctx) (s m : State), m = s.masterTime t → s.ctx? s.active = some c → s.stitch.session = true → s.stitch.kind = .work →
    s.stitch.phase = .before → m.masterHem = true → Completes (exec (.seqMaskBroadcast t) s) fun r =>
      r.stitch.admits = (m.admissions c true).1 ∧
      r.stitch.maskNext = some ((c.mask &&& ~~~s.stitch.exits) ||| slotBits ((m.admissions c true).1.map Prod.fst)) ∧ r.ctxs = s.ctxs ∧
      Touches [.clk, .stitch, .free, .regs, .evt, .hbm, .rel] s r)

/-- R43, R45, R48, R367: COMMIT_SAMPLING decides. With every voter clean and no commanded void a work stitch commits and the streak ends, and an idle or
reload stitch is idle-clean and leaves the streak; with a voter void or missing it voids and is counted, and a work stitch lengthens the streak. With every
voter clean, a void by the supplies (cause 0xA) or, but for that, one that the host has commanded (0x8) voids the stitch, is recorded with no voter, and is over with
this stitch. -/
def Obligations.SamplingDecides : Prop :=
  (∀ (t : Nat) (s m : State), m = s.masterTime t → s.stitch.session = true → s.stitch.phase = .before → s.stitch.len ≤ m.clk.ns + 96 →
    s.stitch.kind = .work → (∀ v, v < 312 → s.voterIn v = true → Assoc.get (0, 0) s.stitch.votes v = (1, 0)) → s.stitch.hostVoid = false →
    s.stitch.supplyVoid = false → Completes (exec (.commitSampling t) s) fun r =>
      (∃ l, r.stitch.decision = some (.commit l)) ∧ r.stitch.phase = .sampled ∧ r.stitch.streak = 0 ∧ r.stitch.lastReplayed = false ∧
      r.hsync.sampled = s.hsync.inForwards.length) ∧
  (∀ (t v : Nat) (s m : State), m = s.masterTime t → s.stitch.session = true → s.stitch.phase = .before → s.stitch.len ≤ m.clk.ns + 96 →
    s.stitch.kind = .work → v < 312 → s.voterIn v = true → (Assoc.get (0, 0) s.stitch.votes v).1 ≠ 1 →
    Completes (exec (.commitSampling t) s) fun r =>
      r.stitch.decision = some .void ∧ r.stitch.phase = .sampled ∧ r.stitch.streak = min (s.stitch.streak + 1) 31 ∧
      r.stitch.lastReplayed = true ∧ r.reg (.stitch .voidCount) = satReg (s.reg (.stitch .voidCount)) 1) ∧
  (∀ (t : Nat) (s m : State), m = s.masterTime t → s.stitch.session = true → s.stitch.phase = .before → s.stitch.len ≤ m.clk.ns + 96 →
    s.stitch.kind ≠ .work → (∀ v, v < 312 → s.voterIn v = true → Assoc.get (0, 0) s.stitch.votes v = (1, 0)) → s.stitch.hostVoid = false →
    s.stitch.supplyVoid = false → Completes (exec (.commitSampling t) s) fun r =>
      r.stitch = { s.stitch with decision := some .idleClean, phase := .sampled } ∧ Touches [.clk, .host, .hsync, .stitch] s r) ∧
  (∀ (t v : Nat) (s m : State), m = s.masterTime t → s.stitch.session = true → s.stitch.phase = .before → s.stitch.len ≤ m.clk.ns + 96 →
    s.stitch.kind ≠ .work → v < 312 → s.voterIn v = true → (Assoc.get (0, 0) s.stitch.votes v).1 ≠ 1 →
    Completes (exec (.commitSampling t) s) fun r =>
      r.stitch = { s.stitch with decision := some .void, phase := .sampled, hostVoid := false, supplyVoid := false } ∧
      r.reg (.stitch .voidCount) = satReg (s.reg (.stitch .voidCount)) 1 ∧ Touches [.clk, .host, .hsync, .stitch, .regs] s r) ∧
  (∀ (t : Nat) (s m : State), m = s.masterTime t → s.stitch.session = true → s.stitch.phase = .before → s.stitch.len ≤ m.clk.ns + 96 →
    (∀ v, v < 312 → s.voterIn v = true → Assoc.get (0, 0) s.stitch.votes v = (1, 0)) → s.stitch.supplyVoid = true ∨ s.stitch.hostVoid = true →
    Completes (exec (.commitSampling t) s) fun r =>
      r.stitch.decision = some .void ∧ r.stitch.phase = .sampled ∧ r.stitch.hostVoid = false ∧ r.stitch.supplyVoid = false ∧
      r.regN (.stitch .lastVoid) = (if s.stitch.supplyVoid then 0xA else 8) * 2 ^ 28 + 0x1FF * 2 ^ 16 + s.stitch.number % 2 ^ 16 ∧
      r.reg (.stitch .voidCount) = satReg (s.reg (.stitch .voidCount)) 1 ∧
      r.stitch.streak = (if s.stitch.kind = .work then min (s.stitch.streak + 1) 31 else s.stitch.streak))

/-- R40, R49, R175, R303, R358: COMMIT_APPLY. A commit makes every word and granule written since the last one the committed copy; a void
leaves the committed copies and forgets what was written. At a standby with a checkpoint open that has not come in whole, no decision does either. -/
def Obligations.CommitFlipsCopies : Prop :=
  (∀ (t : Nat) (l : List Nat) (s : State), s.stitch.phase = .sampled → s.stitch.decision = some (.commit l) →
    s.standbyOpen = false ∨ s.endsMatch = true → Completes (exec (.commitApply t) s) fun r => r.stitch.phase = .applied ∧
      (∀ c w, w ∈ (r.mu c).sel ↔ w ∈ symDiff (s.mu c).sel (s.mu c).wr) ∧ (∀ c, (r.mu c).wr = []) ∧
      r.hbm.pages.map (fun p => (p.base, p.sel, p.wr)) = s.hbm.pages.map (fun p => (p.base, symDiff p.sel p.wr, [])) ∧
      r.mem = s.mem ∧ r.errs = s.errs ∧ r.stitch.commitSeq = s.stitch.commitSeq) ∧
  (∀ (t : Nat) (s : State), s.stitch.phase = .sampled → s.stitch.decision = some .void → s.standbyOpen = false →
    Completes (exec (.commitApply t) s) fun r => r.stitch.phase = .applied ∧ (∀ c, (r.mu c).sel = (s.mu c).sel ∧ (r.mu c).wr = []) ∧
      r.hbm.pages.map (fun p => (p.base, p.sel, p.wr)) = s.hbm.pages.map (fun p => (p.base, p.sel, [])) ∧
      r.ctxs = s.ctxs ∧ r.hsync = s.hsync ∧ r.mem = s.mem ∧ r.errs = s.errs) ∧
  (∀ (t : Nat) (d : Decision) (s : State), s.stitch.phase = .sampled → s.stitch.decision = some d → s.standbyOpen = true → s.endsMatch = false →
    Completes (exec (.commitApply t) s) fun r => r.stitch.phase = .applied ∧ (∀ c, (r.mu c).sel = (s.mu c).sel ∧ (r.mu c).wr = (s.mu c).wr) ∧
      r.hbm.pages.map (fun p => (p.base, p.sel, p.wr)) = s.hbm.pages.map (fun p => (p.base, p.sel, p.wr)) ∧ r.twin = s.twin ∧ r.mem = s.mem ∧ r.errs = s.errs)

/-- R47, R48, R49: COMMIT_PHASE_END. After a commit the commit sequence is one higher; after a void it stands. A read through BAR4 that waited for the
end of the phase then completes, of the copies that the decision has left committed; the active context's queue pairs, which a commit publishes first, are left out. -/
def Obligations.PhaseEnds : Prop :=
  (∀ (t n : Nat) (d : Decision) (s m : State), m = s.masterTime t → s.host.held = [] → s.stitch.phase = .applied → s.stitch.decision = some d → s.stitch.len ≤ m.clk.ns →
    n = (match d with | .commit _ => 1 | .void => 2 | .idleClean => 3) → Completes (exec (.commitPhaseEnd t) s) fun r =>
      r.stitch.phase = .ended ∧ r.stitch.lastResult = n ∧ r.host.held = [] ∧
      r.stitch.commitSeq = (if n = 1 then s.stitch.commitSeq + 1 else s.stitch.commitSeq) ∧ r.stitch.number = s.stitch.number ∧
      r.fuses = s.fuses ∧ r.cus = s.cus ∧ r.mus = s.mus) ∧
  (∀ (t o n x : Nat) (d : Decision) (s m : State), m = s.masterTime t → s.host.held = [.bar4 o false n []] → s.stitch.phase = .applied →
    s.stitch.decision = some d → s.stitch.len ≤ m.clk.ns → (∀ k, d = .commit k → ∀ c, s.ctx? s.active = some c → c.image.qps = []) →
    24 ≤ s.hbm.trained.length → s.hbm.scrubbing = false → 0 < n → s.bar4Addr o % 16 + n ≤ 16 → x = s.bar4Addr o - s.bar4Addr o % 16 →
    s.hbmBad (s.bar4Addr o) = none → s.hbmBad (s.bar4Addr o + n - 1) = none →
    (∀ y, y = x ∨ y = x + 0x10000 → s.hbmFailed y = false ∧ s.errs.get [] (y / 16) = []) → Completes (exec (.commitPhaseEnd t) s) fun r =>
      r.stitch.phase = .ended ∧ r.host.held = [] ∧ r.host.answer = memReads r.mem (r.hbmReadAt x + s.bar4Addr o % 16) n ∧ r.mem = s.mem)

/-! ### Contexts, modes and wakes -/

/-- R37, R43, R58: requests on the stitch. A switch to another resident context waits for its commit, any other request is refused by
event; a resume clears the halt and the streak of a context that is halted and has not failed; a commanded void waits for its sampling. -/
def Obligations.StitchRequests : Prop :=
  (∀ (t k : Nat) (s : State), (s.ctx? k).isSome = true → k ≠ s.active → Completes (exec (.ctxSwitch t k) s) fun r =>
    r.stitch = { s.stitch with switchPending := true, ctxNext := k } ∧ Touches [.clk, .stitch] s r) ∧
  (∀ (t k : Nat) (s : State), s.ctx? k = none ∨ k = s.active → Completes (exec (.ctxSwitch t k) s) fun r =>
    Raised s r 363 3 (k % 2 ^ 32) (if (s.ctx? k).isNone then 0 else 1) 0 0 ∧ Touches [.clk, .evt] s r) ∧
  (∀ (t : Nat) (c : Ctx) (s : State), s.ctx? s.active = some c → c.halted = true → c.failed = false → Completes (exec (.resume t) s) fun r =>
    r.ctx? s.active = some { c with halted := false } ∧ r.stitch = { s.stitch with streak := 0 } ∧ CtxsAlone [s.active] s r ∧
    Touches [.clk, .stitch, .ctxs] s r) ∧
  (∀ (t : Nat) (c : Ctx) (s : State), s.ctx? s.active = some c → c.halted = false ∨ c.failed = true →
    Completes (exec (.resume t) s) (Touches [.clk] s)) ∧
  (∀ (t : Nat) (s : State), Completes (exec (.voidCurrent t) s) fun r => r.stitch = { s.stitch with hostVoid := true } ∧ Touches [.clk, .stitch] s r)

/-- R60, R61, R62, R65, R374, R375, R448: MODE_STAGE of a period, of grades, of cap fractions or of numeric defaults stages a legal change for a commit at
least two ahead, and every clocked bay holds it, of a table its own entry; a class that is staged, a target too near, an argument or a table out of range or that cannot be
read, a class that is none, are refused with reasons 6, 2, 5, 5; MODE_CANCEL aborts a
staged change with reason 4 and mode-aborted. STAGE_ACK sets the bay's acknowledgement of a staged class, of a grade once the core rail has reached its voltage; the lowest waiting bay of a panel whose
reserve is free starts to wake and holds the reserve; 48 µs later it acknowledges class 0x2 and frees it, and with no session running it is then up at grade 5. -/
def Obligations.ModesAndBays : Prop :=
  ((∀ (t c a g : Nat) (s : State), c = s.regN (.stitch .modeSel) % 16 → a = s.regN (.stitch .modeArg) → g = s.regN (.stitch .modeTarget) →
     c = 1 ∧ 4000 ≤ a ∧ a ≤ 10000000 ∨ c = 4 ∧ numdefOk a = true → Assoc.find? s.stitch.modes c = none → s.stitch.commitSeq + 2 ≤ g →
     Completes (exec (.modeStage t) s) fun r => Assoc.find? r.stitch.modes c = some ⟨a, g, [], []⟩ ∧ r.modeStateOf c = 1 ∧
       (∀ b ∈ clockedBays s, (c = 1 → (r.bay b).modes.stPeriod = some a) ∧ (c = 4 → (r.bay b).modes.stNumdef = some (BitVec.ofNat 32 a))) ∧
       (∀ b ∈ clockedBays s, c ∉ (r.bay b).modes.acks) ∧
       (∀ q, q ≠ c → Assoc.find? r.stitch.modes q = Assoc.find? s.stitch.modes q) ∧ Touches [.clk, .stitch, .bays] s r) ∧
   (∀ (t c : Nat) (s : State), c = s.regN (.stitch .modeSel) % 16 → 1 ≤ c → c ≤ 4 → Completes (exec (.modeStage t) s) fun r =>
     ((Assoc.find? s.stitch.modes c).isSome = true → r.modeStateOf c = 6 * 16 + 1 ∧ r.stitch.modes = s.stitch.modes) ∧
     (Assoc.find? s.stitch.modes c = none → s.regN (.stitch .modeTarget) < s.stitch.commitSeq + 2 →
       r.modeStateOf c = 2 * 16 + 3 ∧ r.stitch.modes = s.stitch.modes) ∧
     (Assoc.find? s.stitch.modes c = none → s.stitch.commitSeq + 2 ≤ s.regN (.stitch .modeTarget) → c = 1 →
       s.regN (.stitch .modeArg) < 4000 → r.modeStateOf c = 5 * 16 + 3 ∧ r.stitch.modes = s.stitch.modes)) ∧
   (∀ (t c : Nat) (s : State), c = s.regN (.stitch .modeSel) % 16 → c = 0 ∨ 4 < c → Completes (exec (.modeStage t) s) fun r =>
     r.modeStateOf c = 5 * 16 + 3 ∧ r.stitch.modes = s.stitch.modes ∧ Touches [.clk, .stitch] s r) ∧
   (∀ (t c a g : Nat) (s m : State), m = s.masterTime t → c = s.regN (.stitch .modeSel) % 16 → a = s.regN (.stitch .modeArg) →
     g = s.regN (.stitch .modeTarget) → c = 2 ∨ c = 3 → Assoc.find? s.stitch.modes c = none → s.stitch.commitSeq + 2 ≤ g →
     (∀ tbl x, m.modeTable c a = some (tbl, x) → x.argOk c a tbl = true → Completes (exec (.modeStage t) s) fun r =>
       (∃ st, Assoc.find? r.stitch.modes c = some st ∧ st.arg = a ∧ st.target = g ∧ st.table = tbl) ∧ r.modeStateOf c = 1 ∧
       (∀ b ∈ clockedBays s, (c = 2 → (r.bay b).modes.stGrade = some (tbl.getD b 0).toNat) ∧ (c = 3 → (r.bay b).modes.stCapFrac = some (fracAt tbl (48 + b)))) ∧
       (∀ b ∈ clockedBays s, c ∉ (r.bay b).modes.acks) ∧
       (∀ q, q ≠ c → Assoc.find? r.stitch.modes q = Assoc.find? s.stitch.modes q) ∧
       Touches [.free, .regs, .clk, .stitch, .bays, .panels, .evt, .hbm, .rel] s r) ∧
     (m.modeTable c a = none ∨ (∃ tbl x, m.modeTable c a = some (tbl, x) ∧ x.argOk c a tbl = false) → Completes (exec (.modeStage t) s) fun r =>
       r.modeStateOf c = 5 * 16 + 3 ∧ r.stitch.modes = s.stitch.modes ∧ Touches [.free, .regs, .clk, .stitch, .evt, .hbm, .rel] s r)) ∧
   (∀ (t c : Nat) (m : StagedMode) (s : State), c = s.regN (.stitch .modeSel) % 16 → Assoc.find? s.stitch.modes c = some m →
     (s.stitch.phase = .before ∨ s.stitch.phase = .ended ∨ m.target ≠ s.stitch.commitSeq + 1 ∨ (∀ l, s.stitch.decision ≠ some (.commit l)) →
       Completes (exec (.modeCancel t) s) fun r => Assoc.find? r.stitch.modes c = none ∧ r.modeStateOf c = 4 * 16 + 3 ∧
         Raised s r 363 5 (4 * 16 + 3) c 0 0 ∧ Touches [.clk, .stitch, .bays, .panels, .evt] s r) ∧
     (∀ l, s.stitch.phase = .sampled ∨ s.stitch.phase = .applied → m.target = s.stitch.commitSeq + 1 → s.stitch.decision = some (.commit l) →
       Completes (exec (.modeCancel t) s) (Touches [.clk] s)))) ∧
  ((∀ (t b c : Nat) (s m : State), m = s.bayTime b t → c = 2 → m.railReady b = false → Completes (exec (.stageAck t b c) s) fun r => r = m) ∧
   (∀ (t b c : Nat) (s m : State), m = s.bayTime b t → (Assoc.find? s.stitch.modes c).isSome = true → (s.bay b).power = .active →
     c ≠ 2 ∨ m.railReady b = true → Completes (exec (.stageAck t b c) s) fun r => (∀ k, k ∈ (r.bay b).modes.acks ↔ k = c ∨ k ∈ (s.bay b).modes.acks) ∧ BaysAlone [b] s r ∧
       RegsAlone (bayClockRegs b) s r ∧ Touches [.regs, .bays] s r) ∧
   (∀ (t b : Nat) (rest : List Nat) (s : State), (s.panel (b / 4)).waking = none → (s.panel (b / 4)).wakes = b :: rest →
     (s.bay b).power = .dormant → Completes (exec (.bayWakeStart t b) s) fun r =>
       (r.bay b).power = .waking ∧ (r.bay b).wakeStart = some r.clk.nsTotal ∧ (r.panel (b / 4)).waking = some b ∧
       (r.panel (b / 4)).wakes = rest ∧ BaysAlone [b] s r ∧ Touches [.clk, .bays, .panels] s r) ∧
   (∀ (t b t0 : Nat) (s : State), (s.bay b).power = .waking → (s.bay b).wakeStart = some t0 → (s.panel (b / 4)).waking = some b →
     t0 + 48000 ≤ (s.masterTime t).clk.nsTotal → Completes (exec (.wakeComplete t b) s) fun r =>
       (s.stitch.session = true → 2 ∈ (r.bay b).modes.acks ∧ (r.bay b).power = .waking) ∧
       (s.stitch.session = false → (r.bay b).power = .active ∧ (r.bay b).modes.grade = 5 ∧ (r.bay b).gov.level = 1) ∧
       (r.bay b).wakeStart = none ∧ (r.panel (b / 4)).waking = none ∧ BaysAlone [b] s r ∧ Touches [.clk, .bays, .panels] s r))

/-! ### The mailbox -/

/-- R326, R439: A mailbox request while the mailbox is busy is ignored, and busy_err is set. A free mailbox takes a request for a compute or bay reset,
which is then due. MAILBOX_RESPONSE writes the prepared response, ends busy, sets
done and sends MSI-X vector 1. Where the vector's mask bit and its pending bit stand in the MSI-X table is the model's choice (log entry 12). -/
def Obligations.MailboxTakesAndAnswers : Prop :=
  (∀ (t k w : Nat) (img : ImageSource) (f : List (Nat × BitVec 64)) (p : Bool) (e : List (BitVec 384)) (mx mn : Nat) (cp : BitVec 32) (i : Instr) (s : State),
     i ∈ [.mboxReadInventory t, .mboxLoadImage t k img, .mboxEndResidency t k, .mboxStartSession t f, .mboxEndSession t, .mboxSetCap t w,
       .mboxTwinAttach t p e mx mn cp, .mboxTwinDetach t, .mboxComputeReset t cp, .mboxBayReset t cp] →
     3 ≤ s.sup.bootStep → s.sup.seq ≠ 7 → s.host.linkUp = true → (s.regN (.host .mboxStatus)).testBit 31 = true → Completes (exec i s) fun r =>
       r.reg (.host .mboxStatus) = s.reg (.host .mboxStatus) ||| 0x20000000 ∧ RegsAlone [.host .mboxStatus] s r ∧ Touches [.clk, .regs] s r) ∧
  (∀ (t : Nat) (a : BitVec 32) (s : State), MailboxFree s →
     (a.toNat % 4 ≤ 1 → s.twin.state ≠ 2 ∨ s.twin.attached = false → Completes (exec (.mboxComputeReset t a) s) fun r =>
       Took 0x30 r ∧ r.sup.computeDue = some (a.toNat % 2) ∧ RegsAlone mailboxRegs s r ∧ Touches [.clk, .sup, .regs] s r) ∧
     (∀ b, a.toNat % 4 = 2 → b = a.toNat / 2 ^ 8 % 2 ^ 8 → b < 192 → s.bayResetBarred b = false → Completes (exec (.mboxBayReset t a) s) fun r =>
       Took 0x30 r ∧ b ∈ r.sup.bayDue ∧ RegsAlone mailboxRegs s r ∧ Touches [.clk, .sup, .regs] s r)) ∧
  (∀ (t st q : Nat) (body : List (BitVec 32)) (s : State), s.host.mbox = some (st, q, body) → st < 2 ^ 16 → body.length < 64 → q < 256 →
     Completes (exec (.mailboxResponse t) s) fun r => r.host.mbox = none ∧ r.regN (.mboxRsp 0) = st + body.length * 2 ^ 16 + q * 2 ^ 24 ∧
       (∀ j, j < body.length → r.regN (.mboxRsp (j + 1)) = (body.getD j 0).toNat) ∧ (r.regN (.host .mboxStatus)).testBit 31 = false ∧
       (r.regN (.host .mboxStatus)).testBit 30 = true ∧ r.regN (.host .mboxStatus) % 256 = q ∧
       ((s.regN (.msixTable 7)).testBit 0 = false → r.host.msix = 1 :: s.host.msix) ∧
       ((s.regN (.msixTable 7)).testBit 0 = true → (r.regN (.msixPba 0)).testBit 1 = true) ∧ Touches [.clk, .host, .regs] s r)

/-- R389, R433, R435: MBOX_READ_INVENTORY answers with the 36 words of the inventory; MBOX_SET_CAP sets the cap at once without a session
and from the next clean commit in one, refuses a value out of range (status 2) and one below what a resident image needs (3). -/
def Obligations.MailboxInventoryAndCap : Prop :=
  (∀ (t : Nat) (s : State), MailboxFree s → Completes (exec (.mboxReadInventory t) s) fun r => Answered 0x01 0 s.inventoryBody s r ∧
    s.inventoryBody.length = 36 ∧ (s.sup.inventory = true → ∀ j, j < 36 → (s.inventoryBody.getD j 0).toNat = s.regN (.bootInv j) % 2 ^ 32) ∧
    RegsAlone mailboxRegs s r ∧ Touches [.clk, .host, .regs] s r) ∧
  (∀ (t w : Nat) (s : State), MailboxFree s → 8000 ≤ w → w ≤ s.variantCap → (∀ e ∈ s.ctxs, e.2.image.powerW ≤ w) →
    Completes (exec (.mboxSetCap t w) s) fun r => Answered 0x40 0 [] s r ∧
      r.sup = (if s.stitch.session then { s.sup with capNext := some w } else { s.sup with cap := some w }) ∧
      RegsAlone mailboxRegs s r ∧ Touches [.clk, .host, .regs, .sup] s r) ∧
  (∀ (t w : Nat) (s : State), MailboxFree s → w < 8000 ∨ s.variantCap < w ∨ (∃ e ∈ s.ctxs, w < e.2.image.powerW) →
    Completes (exec (.mboxSetCap t w) s) fun r => Answered 0x40 (if w < 8000 ∨ s.variantCap < w then 2 else 3) [] s r ∧
      Touches [.clk, .host, .regs] s r)

/-- R57, R288, R302, R430, R437: an image, from external memory or the UFS device, that passes every check becomes resident as context k, with its pages; one that does not is refused
with its reason. Ending a residency frees the context, its pages and its counters; the active context of a session that has not failed, and the target of a
reload, are held. That the active context is held is the model's reading (log entry 20); that the refusal names the first check to fail in the order of
`imageReason` is its choice (log entry 19). -/
def Obligations.ResidencyBeginsAndEnds : Prop :=
  (∀ (t k : Nat) (i : Image) (x : ImageSource) (s : State), MailboxFree s → s.sup.inventory = true → k < 4 → s.ctx? k = none → s.residents.length < 4 →
    s.imageReason i = none → (x = .memory i ∨ ∃ e, x = .ufs e ∧ s.ufsImage e = some i) →
    Completes (exec (.mboxLoadImage t k x) s) fun r => Answered 0x10 0 [] s r ∧
      (∃ c, r.ctx? k = some c ∧ c.image = i ∧ c.mask = 0 ∧ c.halted = false ∧ c.failed = false) ∧
      (∀ j, j ≠ k → (r.ctx? j).map (fun c => c.image) = (s.ctx? j).map (fun c => c.image)) ∧
      (∀ b ∈ i.pages, ∃ p ∈ r.hbm.pages, p.base = b ∧ p.ctx = k ∧ p.sel = [] ∧ p.wr = []) ∧ (∀ p ∈ s.hbm.pages, p ∈ r.hbm.pages) ∧
      Touches [.free, .mem, .errs, .regs, .clk, .ctxs, .hsync, .bays, .mus, .host, .evt, .hbm, .twin, .rel, .fuses] s r) ∧
  (∀ (t k n : Nat) (i : Image) (x : ImageSource) (s : State), MailboxFree s → s.sup.inventory = true → k < 4 → s.ctx? k = none → s.residents.length < 4 →
    s.imageReason i = some n → (x = .memory i ∨ ∃ e, x = .ufs e ∧ s.ufsImage e = some i) →
    Completes (exec (.mboxLoadImage t k x) s) fun r => Answered 0x10 3 [] s r ∧
      (∃ e ∈ r.evt.inflight, e.source = 366 ∧ e.kind = 0x72 ∧ e.w0 = n % 2 ^ 32 ∧ e.w1 = k) ∧
      Touches [.free, .regs, .clk, .host, .evt, .hbm, .rel] s r) ∧
  (∀ (t k : Nat) (s : State), MailboxFree s → k < 4 → (s.ctx? k).isSome = true → s.residencyHeld k = false →
    Completes (exec (.mboxEndResidency t k) s) fun r => Answered 0x11 0 [] s r ∧ r.ctx? k = none ∧ CtxsAlone [k] s r ∧
      (∀ p ∈ r.hbm.pages, p.ctx ≠ k) ∧ (∀ e ∈ r.hsync.phys, e.2.ctx ≠ k) ∧ (∀ f ∈ r.hsync.inForwards, f.1 ≠ k) ∧ r.mem = s.mem) ∧
  (∀ (t k : Nat) (s : State), MailboxFree s → k < 4 → (s.ctx? k).isSome = true → s.residencyHeld k = true →
    Completes (exec (.mboxEndResidency t k) s) fun r => Answered 0x11 3 [] s r ∧ Touches [.clk, .host, .regs] s r)

/-- R308, R349, R438: a session starts with the lowest resident context when every resident image still has what it needs and every fed
peer feeds it; it ends with every residency and a scrub, and the scrub's end leaves zeros in every marked granule. That the stitch in progress
is abandoned is the model's reading (log entry 21). -/
def Obligations.SessionBeginsAndEnds : Prop :=
  (∀ (t k : Nat) (l : List Nat) (c : Ctx) (feeds : List (Nat × BitVec 64)) (s : State), MailboxFree s → s.sup.inventory = true →
    s.residents = k :: l → s.ctx? k = some c → s.stitch.session = false → s.hbm.scrubbing = false → s.islandReaches = true →
    (∀ j ∈ s.residents, ∀ d, s.ctx? j = some d → s.minimumBad d.image = none) →
    (({ s with stitch := { s.stitch with active := k } } : State).sendFeeds c.image).feedsOk c.image feeds = true →
    Completes (exec (.mboxStartSession t feeds) s) fun r => Answered 0x20 0 [] s r ∧ r.stitch.session = true ∧ r.stitch.active = k ∧
      r.stitch.phase = .ended ∧ r.clk.boundarySent = true ∧ r.stitch.commitSeq = 0 ∧ r.stitch.streak = 0 ∧ r.stitch.period = c.image.period ∧ r.stitch.voterMask = r.voters ∧
      r.rel.darned = [] ∧ r.spdm.grant = false ∧ r.spdm.wafer = false) ∧
  (∀ (t : Nat) (s : State), MailboxFree s → s.stitch.session = true → Completes (exec (.mboxEndSession t) s) fun r => Answered 0x21 0 [] s r ∧
    r.stitch.session = false ∧ (∀ k, k < 4 → r.ctx? k = none) ∧ r.hbm.scrubbing = true ∧ r.hbm.marked = s.hbm.marked ∧ r.mem = s.mem ∧
    r.stitch.number = s.stitch.number) ∧
  (∀ (t : Nat) (s : State), s.hbm.scrubbing = true → Completes (exec (.sessionEndScrubDone t) s) fun r =>
    r.hbm.scrubbing = false ∧ r.hbm.marked = [] ∧ Raised s r 368 0x29 (s.hbm.marked.length % 2 ^ 32) 0 0 0 ∧
    (∀ a, a / 2 ^ 44 = 0 → a / 0x200000 ∈ s.hbm.marked → memRead r.mem a = 0) ∧
    (∀ a, a / 2 ^ 44 ≠ 0 ∨ a / 0x200000 ∉ s.hbm.marked → memRead r.mem a = memRead s.mem a) ∧ Touches [.mem, .errs, .clk, .host, .evt, .hbm] s r)

/-! ### Host-class counters and waits -/

/-- R283, R285, R286, R288: A signal adds to the counter its identifier is mapped to, saturating; an unmapped one is reported; a count of 0 writes
nothing. A host wait arms on a mapped counter, is abandoned at once on an unmapped one, and is satisfied when the counter has reached its threshold,
which a consuming wait subtracts. -/
def Obligations.SignalsAndWaits : Prop :=
  ((∀ (t k n x p : Nat) (v : BitVec 32) (h : HCounter) (s : State), k = v.toNat / 2 ^ 30 → n = v.toNat / 2 ^ 16 % 2 ^ 12 → x = v.toNat % 2 ^ 16 →
     n ≠ 0 → (s.ctx? k).isSome = true → s.physOf k x = some (p, h) → h.bind = none → Completes (exec (.hsyncSignal t v) s) fun r =>
       r.physOf k x = some (p, { h with value := min 0xFFFFFFFF (h.value + n) }) ∧
       (∀ q, q ≠ p → Assoc.find? r.hsync.phys q = Assoc.find? s.hsync.phys q) ∧ r.hsync.inForwards = s.hsync.inForwards ∧
       (h.value + n ≤ 0xFFFFFFFF → r.evt = s.evt) ∧ Touches [.clk, .hsync, .evt] s r) ∧
   (∀ (t k n x : Nat) (v : BitVec 32) (s : State), k = v.toNat / 2 ^ 30 → n = v.toNat / 2 ^ 16 % 2 ^ 12 → x = v.toNat % 2 ^ 16 → n ≠ 0 →
     s.ctx? k = none ∨ s.physOf k x = none → Completes (exec (.hsyncSignal t v) s) fun r =>
       Raised s r 363 0x18 v.toNat 0xFFFFFFFF 0 0 ∧ Touches [.clk, .evt] s r) ∧
   (∀ (t : Nat) (v : BitVec 32) (s : State), v.toNat / 2 ^ 16 % 2 ^ 12 = 0 → Completes (exec (.hsyncSignal t v) s) (Touches [.clk] s))) ∧
  ((∀ (t n : Nat) (v : Reg) (s : State), (s.hwait n).armed = false → v.getLsbD 31 = true → (s.physOf (v.toNat / 2 ^ 16 % 4) (v.toNat % 2 ^ 16)).isSome = true →
     Completes (exec (.hostWaitArm t n v) s) fun r => r.reg (.waitCfg n) = v &&& 0xFFFFFFFFE003FFFF ∧ r.reg (.waitState n) = 1 ∧
       RegsAlone [.waitCfg n, .waitState n] s r ∧ Touches [.clk, .regs] s r) ∧
   (∀ (t n : Nat) (v : Reg) (s : State), (s.hwait n).armed = false → v.getLsbD 31 = true → s.physOf (v.toNat / 2 ^ 16 % 4) (v.toNat % 2 ^ 16) = none →
     Completes (exec (.hostWaitArm t n v) s) fun r => (r.hwait n).armed = false ∧ r.regN (.waitState n) % 2 ^ 16 = 3 ∧
       RegsAlone [.waitCfg n, .waitState n] s r ∧ Touches [.clk, .regs, .evt] s r) ∧
   (∀ (t n p : Nat) (h : HCounter) (w : HWait) (s : State), w = s.hwait n → w.armed = true → s.physOf w.ctx w.vid = some (p, h) →
     w.threshold ≤ h.value → (∀ i, i < n → s.waitReady i = true → ¬((s.hwait i).ctx = w.ctx ∧ (s.hwait i).vid = w.vid)) →
     Completes (exec (.hostWaitSatisfied t n) s) fun r => (r.hwait n).armed = false ∧ r.regN (.waitState n) % 2 ^ 16 = 2 ∧
       (w.consume = true → r.physOf w.ctx w.vid = some (p, { h with value := h.value - w.threshold })) ∧
       (w.consume = false → r.hsync = s.hsync) ∧ RegsAlone [.waitCfg n, .waitState n] s r ∧ Touches [.clk, .regs, .hsync, .evt] s r))

/-! ### The scalar sequencer -/

/-- R70, R71, R72: the control commands of a lane that runs and is not stalled. NOP does nothing; HOLD lets nothing issue for the n cycles after it; LOOP pushes
a loop with its count and the place of the bundle that follows; ENDLOOP goes back there and counts one down while more runs remain, and else leaves the
loop; PREDON sets the predicate, PRED takes it from its slot of the active sequence mask; END marks the stitch's end. A HOLD of 0, a LOOP or an ENDLOOP with a count of 0,
and an ENDLOOP with no loop open, which changes nothing, are the model's choice (log entry 33). -/
def Obligations.ControlSlot : Prop :=
  ∀ (t u : Nat) (s m : State) (q : Seq), m = s.bayTime (bayOfCu u) t → m.laneFree u = true → q = (s.cu u).seq →
    Completes (exec (.nop t u) s) (fun r => r.cu u = s.cu u ∧ LaneFrame u s r) ∧
    (∀ n, Completes (exec (.hold t u n) s) fun r => r.cu u = { s.cu u with seq := if n = 0 then q else { q with
      ready := (m.bay (bayOfCu u)).cycle + n + 1, stall := .hold ((m.bay (bayOfCu u)).cycle + n + 1) } } ∧ LaneFrame u s r) ∧
    (∀ n, Completes (exec (.loop t u n) s) fun r => r.cu u = { s.cu u with seq := { q with loops := (q.next, n) :: q.loops } } ∧ LaneFrame u s r) ∧
    (∀ st n rest, q.loops = (st, n) :: rest → Completes (exec (.endloop t u) s) fun r => r.cu u = { s.cu u with
      seq := if 1 < n then { q with next := st, loops := (st, n - 1) :: rest } else { q with loops := rest } } ∧ LaneFrame u s r) ∧
    (q.loops = [] → Completes (exec (.endloop t u) s) fun r => r.cu u = s.cu u ∧ LaneFrame u s r) ∧
    Completes (exec (.predon t u) s) (fun r => r.cu u = { s.cu u with seq := { q with pred := true } } ∧ LaneFrame u s r) ∧
    (∀ x (i : BitVec 11), Completes (exec (.pred t u x i) s) fun r => r.cu u = { s.cu u with seq := { q with
      pred := s.seqMask.getLsbD ((s.sregN u x + i.toNat) % 2048) } } ∧ LaneFrame u s r) ∧
    Completes (exec (.endMark t u) s) (fun r => r.cu u = { s.cu u with seq := { q with ended := true } } ∧ LaneFrame u s r)

/-- R70, R54, R55, R72: SETI and ADDI write one scalar register, SETI its immediate zero-extended, ADDI the sum with its immediate sign-extended; s0
stays zero. EXIT marks its slot for the next sequence mask and changes no register. -/
def Obligations.ScalarSlots : Prop :=
  (∀ (t u x : Nat) (i : BitVec 12) (s m : State), m = s.bayTime (bayOfCu u) t → m.laneFree u = true → (s.cu u).seq.sregs.length = 16 → x < 16 →
     Completes (exec (.seti t u x i) s) (fun r => r.sregN u x = (if x = 0 then 0 else i.toNat) ∧
       (∀ y, y ≠ x → r.sregN u y = s.sregN u y) ∧ (r.cu u).seq.next = (s.cu u).seq.next ∧ LaneFrame u s r) ∧
     Completes (exec (.addi t u x i) s) (fun r => (r.sregN u x : Int) = (if x = 0 then 0 else ((s.sregN u x : Int) + i.toInt) % 2 ^ 32) ∧
       (∀ y, y ≠ x → r.sregN u y = s.sregN u y) ∧ LaneFrame u s r)) ∧
  (∀ (t u x : Nat) (i : BitVec 11) (s m : State), m = s.bayTime (bayOfCu u) t → m.laneFree u = true → Completes (exec (.exit t u x i) s) fun r =>
     (∀ j, j < 2048 → r.stitch.exits.getLsbD j = (s.stitch.exits.getLsbD j || decide (j = (s.sregN u x + i.toNat) % 2048))) ∧
     r.ctxs = s.ctxs ∧ r.cus = s.cus ∧ RegsAlone (bayClockRegs (bayOfCu u)) s r ∧ Touches [.regs, .bays, .stitch] s r)

/-- R70, R74, R106, R387, R32, R76, R156: What holds a lane and what lets it go. A LAUNCH of a later cycle waits for it, one that has passed does not
wait and is reported; a hold ends with its cycles. The marker of a lane whose work is done retires and its cycle is kept; a damaged lane store is
rewritten from the image. -/
def Obligations.LanesRunAndEnd : Prop :=
  ((∀ (t u n : Nat) (s m : State), m = s.bayTime (bayOfCu u) t → (s.cu u).seq.stall = .hold n → n ≤ (m.bay (bayOfCu u)).cycle →
     Completes (exec (.holdExpiry t u) s) fun r => r.cu u = { s.cu u with seq := { (s.cu u).seq with stall := .none } } ∧ LaneFrame u s r) ∧
   (∀ (t u x : Nat) (s m : State), m = s.bayTime (bayOfCu u) t → m.laneFree u = true → Completes (exec (.launch t u x) s) fun r =>
     ((m.bay (bayOfCu u)).cycle < s.sregN u x → r.cu u = { s.cu u with seq := { (s.cu u).seq with stall := .launch (s.sregN u x) false } } ∧ r.evt = s.evt) ∧
     (s.sregN u x = (m.bay (bayOfCu u)).cycle → r.cu u = s.cu u ∧ r.evt = s.evt) ∧
     (s.sregN u x < (m.bay (bayOfCu u)).cycle → r.cu u = s.cu u ∧ Raised s r (bayOfCu u) 9 0 (locCu u % 2 ^ 32) (s.sregN u x) 0) ∧
     CusAlone [u] s r ∧ Touches [.regs, .bays, .cus, .evt] s r) ∧
   (∀ (t u v : Nat) (s m : State), m = s.bayTime (bayOfCu u) t → (s.cu u).seq.stall = .launch v false → m.laneRuns u = true →
     v ≤ (m.bay (bayOfCu u)).cycle → Completes (exec (.launchRelease t u) s) fun r =>
       r.cu u = { s.cu u with seq := { (s.cu u).seq with stall := .none } } ∧ LaneFrame u s r) ∧
   (∀ (t u l : Nat) (s m : State), m = s.bayTime (bayOfCu u) t → m.laneFree u = true → Completes (exec (.brace t u l) s) fun r =>
     (r.bay (bayOfCu u)).gov.braces = (if l = 0 then [] else (s.bay (bayOfCu u)).gov.braces ++
       [((m.bay (bayOfCu u)).cycle + ceilDiv (4000 * s.mhz (bayOfCu u)) 1000, l)]) ∧ (l = 0 → (r.bay (bayOfCu u)).gov.armed = false) ∧
     r.cus = s.cus ∧ BaysAlone [bayOfCu u] s r ∧ RegsAlone (bayClockRegs (bayOfCu u)) s r ∧ Touches [.regs, .bays] s r) ∧
   (∀ (t b c l : Nat) (s m : State), m = s.bayTime b t → (s.bay b).gov.braces = [(c, l)] → c ≤ (m.bay b).cycle → (s.bay b).gov.entryAt = none →
     (s.bay b).gov.armed = false → Completes (exec (.braceArm t b) s) fun r => (r.bay b).gov.braces = [] ∧
       (r.bay b).gov.armed = decide ((s.bay b).gov.level < l) ∧ (r.bay b).gov.braceLevel = (if (s.bay b).gov.level < l then l else 0) ∧
       BaysAlone [b] s r ∧ RegsAlone (bayClockRegs b) s r ∧ Touches [.regs, .bays] s r)) ∧
  ((∀ (t u : Nat) (s m : State), m = s.bayTime (bayOfCu u) t → s.stitch.kind = .work → (s.bay (bayOfCu u)).inStitch = true →
     (s.bay (bayOfCu u)).windowOver = false → (s.cu u).seq.ended = true → (s.cu u).seq.retired = false → s.workDone u = true →
     Completes (exec (.stitchEndMarkerRetire t u) s) fun r => r.cu u = { s.cu u with seq := { (s.cu u).seq with retired := true } } ∧
       (r.bay (bayOfCu u)).retireAt = (m.bay (bayOfCu u)).cycle ∧ LaneFrame u s r) ∧
   (∀ (t u : Nat) (c : Ctx) (s : State), Inv s → u ∈ s.rel.badLanes → s.ctx? s.active = some c → (laneIn c.image u).length ≤ 512 →
     Completes (exec (.laneStoreRewrite t u) s) fun r => u ∉ r.rel.badLanes ∧
       (∀ i, i < (laneIn c.image u).length → r.word (laneAddr u (16 * i)) = (laneIn c.image u).getD i 0 ∧
         r.errs.get [] (laneAddr u (16 * i) / 16) = []) ∧ MemAlone (laneAddr u 0) 8192 s r ∧ Touches [.clk, .mem, .errs, .rel] s r))

/-- R68, R69, R72, R73, R76, R405: BUNDLE_ISSUE lets a slot that waits for room issue, and else fetches the lane's next bundle. One whose slots have room issues
and is folded into the signature: one that holds only SETI; and one that holds an MM, a vector pass, a DMA, a ROUTE and a SETI, whose slots all act in that cycle, each
on the predicate and the scalars as they were before the SETI. One with a full target stalls the lane; a word that cannot be corrected stops it and marks
its lane store. -/
def Obligations.BundlesIssue : Prop :=
  ∀ (t u x : Nat) (s m : State) (q : Seq), m = s.bayTime (bayOfCu u) t → m.laneRuns u = true → q = (s.cu u).seq →
    q.ready ≤ (m.bay (bayOfCu u)).cycle → x = (s.word (laneAddr u (16 * q.next))).toNat →
    (q.stall = .none ∨ q.stall = .engine → s.errs.get [] (laneAddr u (16 * q.next) / 16) = [] → x % 2 ^ 104 = 0 → x / 2 ^ 120 = 4 → q.sregs.length = 16 →
      Completes (exec (.bundleIssue t u) s) fun r => (r.cu u).seq.last = q.next ∧ (r.cu u).seq.next = q.next + 1 ∧
        (r.cu u).seq.ready = (m.bay (bayOfCu u)).cycle + 1 ∧ (r.cu u).seq.stall = .none ∧ (r.cu u).seq.sig = foldSig q.sig q.next q.loops.length ∧
        (∀ y, y < 16 → r.sregN u y = if y ≠ 0 ∧ y = x / 2 ^ 116 % 16 then x / 2 ^ 104 % 2 ^ 12 else s.sregN u y) ∧ LaneFrame u s r) ∧
    (∀ (op : TensorOp) (v : VecOp) (w : Nat → Nat), q.stall = .none ∨ q.stall = .engine → s.errs.get [] (laneAddr u (16 * q.next) / 16) = [] →
      q.sregs.length = 16 → x / 2 ^ 120 = 4 → x / 2 ^ 100 % 2 ^ 4 = 1 → op = tensorOpOf (x / 2 ^ 72 % 2 ^ 32) → op.pred = false ∨ q.pred = true →
      x / 2 ^ 40 % 2 ^ 32 ≠ 0 → v = vecOpOf (x / 2 ^ 40 % 2 ^ 32) → v.pred = false ∨ q.pred = true → x / 2 ^ 36 % 2 ^ 4 = 1 → x.testBit 20 = false ∨ q.pred = true →
      x / 2 ^ 16 % 2 ^ 4 = 1 → w = (fun i => s.regN (.dmaDesc u (x / 2 ^ 33 % 2 ^ 3) i)) → (s.cu u).ste.queue.length < 2 → (s.cu u).vec.queue.length < 2 →
      (s.cu u).dma.queue.length < 8 → Completes (exec (.bundleIssue t u) s) fun r =>
        (r.cu u).seq.last = q.next ∧ (r.cu u).seq.next = q.next + 1 ∧ (r.cu u).seq.ready = (m.bay (bayOfCu u)).cycle + 1 ∧ (r.cu u).seq.stall = .none ∧
        (r.cu u).seq.sig = foldSig q.sig q.next q.loops.length ∧ (r.cu u).issues = (s.cu u).issues + 2 ∧
        (∃ j, (r.cu u).ste.queue = (s.cu u).ste.queue ++ [j] ∧ j.op = op ∧ j.clear = true ∧ j.drain = false ∧ j.no = (s.cu u).issues ∧
          j.a = s.descOf u op.descA (s.sregN u op.sregA) ∧ j.b = s.descOf u op.descB (s.sregN u op.sregB)) ∧
        (r.cu u).vec.queue = (s.cu u).vec.queue ++ [{ op := v, x := s.descOf u v.descX 0, y := s.descOf u v.descY 0, d := s.descOf u v.descD 0, no := (s.cu u).issues + 1 }] ∧
        (∃ d, (r.cu u).dma.queue = (s.cu u).dma.queue ++ [d] ∧ d.src = (w 0 + w 1 % 2 ^ 16 * 2 ^ 32 + 16 * s.sregN u (x / 2 ^ 29 % 2 ^ 4)) % 2 ^ 48 ∧
          d.dst = (w 1 / 2 ^ 16 % 2 ^ 16 + w 2 * 2 ^ 16 + 16 * s.sregN u (x / 2 ^ 25 % 2 ^ 4)) % 2 ^ 48) ∧
        (r.cu u).fab = { (s.cu u).fab with entry := ⟨(s.cu u).fab.entry.at (m.bay (bayOfCu u)).cycle, x / 2 ^ 12 % 2 ^ 4, (m.bay (bayOfCu u)).cycle + 1⟩ } ∧
        (∀ y, y < 16 → r.sregN u y = if y ≠ 0 ∧ y = x / 2 ^ 116 % 16 then x / 2 ^ 104 % 2 ^ 12 else s.sregN u y) ∧ LaneFrame u s r) ∧
    (q.stall = .none ∨ q.stall = .engine → s.errs.get [] (laneAddr u (16 * q.next) / 16) = [] → m.bundleFull u x = true → Completes (exec (.bundleIssue t u) s) fun r =>
      r.cu u = { s.cu u with seq := { q with stall := .engine, last := q.next } } ∧ LaneFrame u s r) ∧
    (∀ e f, q.stall = .none ∨ q.stall = .engine → s.errs.get [] (laneAddr u (16 * q.next) / 16) = [e, f] →
      Completes (exec (.bundleIssue t u) s) fun r =>
        (r.cu u).seq.stopped = true ∧ u ∈ r.rel.badLanes ∧ CusAlone [u] s r ∧ (∃ v ∈ r.evt.inflight, v.source = bayOfCu u ∧ v.kind = 0x26)) ∧
    (∀ op, q.stall = .slot (.vector op) →
      ((s.cu u).vec.queue.length < 2 → Completes (exec (.bundleIssue t u) s) fun r => r.cu u = { s.cu u with
        seq := { q with stall := .none }, issues := (s.cu u).issues + 1
        vec := { (s.cu u).vec with queue := (s.cu u).vec.queue ++ [{ op := op, x := s.descOf u op.descX 0, y := s.descOf u op.descY 0, d := s.descOf u op.descD 0, no := (s.cu u).issues }] } } ∧
        LaneFrame u s r) ∧
      (2 ≤ (s.cu u).vec.queue.length → Completes (exec (.bundleIssue t u) s) fun r => r.cu u = s.cu u ∧ LaneFrame u s r))

/-! ### The other slots and the engines of a CU -/

/-- R69, R72, R73, R90, R91, R97, R101, R103: the slots that give an engine work. With its predicate on and room in the engine's queue the
command queues its job, its descriptors read and its scalar offsets taken as it issues; with the queue full the lane stalls; with its
predicate off nothing happens. -/
def Obligations.EnginesTakeWork : Prop :=
  ∀ (t u : Nat) (s m : State) (q : Seq), m = s.bayTime (bayOfCu u) t → m.laneFree u = true → q = (s.cu u).seq →
    (∀ (op : TensorOp) (drain clear : Bool) (c : Instr) (j : SteJob), c = (if drain then .drain t u op else if clear then .mm t u op else .mma t u op) →
      (drain = true → clear = false) → j.drain = drain → j.op = op → j.clear = clear →
      j.a = s.descOf u op.descA (s.sregN u op.sregA) → j.b = s.descOf u op.descB (s.sregN u op.sregB) → j.d = s.descOf u op.descD (s.sregN u op.sregB) →
      j.stA = none → j.stB = none → j.ldA = Loading.start → j.ldB = Loading.start → j.no = (s.cu u).issues →
      (op.pred = false ∨ q.pred = true → (s.cu u).ste.queue.length < 2 → (drain = true → ∃ h, (s.cu u).ste.queue = [h] ∧ h.drain = false) →
        Completes (exec c s) fun r => r.cu u = { s.cu u with issues := (s.cu u).issues + 1, ste := { (s.cu u).ste with queue := (s.cu u).ste.queue ++ [j] } } ∧ LaneFrame u s r) ∧
      (op.pred = false ∨ q.pred = true → 2 ≤ (s.cu u).ste.queue.length →
        Completes (exec c s) fun r => r.cu u = { s.cu u with seq := { q with stall := .slot (.tensor drain clear op) } } ∧ LaneFrame u s r) ∧
      (op.pred = true → q.pred = false → Completes (exec c s) fun r => r.cu u = s.cu u ∧ LaneFrame u s r)) ∧
    (∀ (op : TensorOp), op.pred = false → (s.cu u).ste.queue = [] → (s.cu u).ste.run = none → (s.cu u).ste.results = [] → (s.cu u).ste.outq = [] →
      ((s.cu u).ste.tile op.tile).closings = [] → m.portHeld (u / 4) (u % 4) 5 = false → s.twin.frozen = [] →
      (((s.cu u).ste.tile op.tile).isOpen = true → Completes (exec (.drain t u op) s) fun r => (r.cu u).ste.queue.length = 1 ∧
        (r.cu u).ste.tile op.tile = { (s.cu u).ste.tile op.tile with closings := [⟨((s.cu u).ste.tile op.tile).closeLast + 8,
          ((s.cu u).ste.tile op.tile).isInt, ((s.cu u).ste.tile op.tile).m, ((s.cu u).ste.tile op.tile).n, ((s.cu u).ste.tile op.tile).cells,
          ((s.cu u).ste.tile op.tile).lastNo⟩] } ∧ LaneFrame u s r) ∧
      (((s.cu u).ste.tile op.tile).isOpen = false → Completes (exec (.drain t u op) s) fun r => (r.cu u).ste.queue = [] ∧
        (r.cu u).ste.tile0 = (s.cu u).ste.tile0 ∧ (r.cu u).ste.tile1 = (s.cu u).ste.tile1 ∧ (r.cu u).seq = q ∧ CusAlone [u] s r)) ∧
    (∀ (op : VecOp) (j : VecJob), j = { op := op, x := s.descOf u op.descX 0, y := s.descOf u op.descY 0, d := s.descOf u op.descD 0, no := (s.cu u).issues } →
      (op.pred = false ∨ q.pred = true → (s.cu u).vec.queue.length < 2 → Completes (exec (.vectorPass t u op) s) fun r => r.cu u = { s.cu u with issues := (s.cu u).issues + 1, vec := { (s.cu u).vec with queue := (s.cu u).vec.queue ++ [j] } } ∧ LaneFrame u s r) ∧
      (op.pred = false ∨ q.pred = true → 2 ≤ (s.cu u).vec.queue.length →
        Completes (exec (.vectorPass t u op) s) fun r => r.cu u = { s.cu u with seq := { q with stall := .slot (.vector op) } } ∧ LaneFrame u s r) ∧
      (op.pred = true → q.pred = false → Completes (exec (.vectorPass t u op) s) fun r => r.cu u = s.cu u ∧ LaneFrame u s r)) ∧
    (∀ (d ss sd : Nat), q.pred = false → Completes (exec (.dma t u d ss sd true) s) fun r => r.cu u = s.cu u ∧ LaneFrame u s r) ∧
    (∀ (d ss sd : Nat) (p : Bool) (w : Nat → Nat), p = false ∨ q.pred = true → w = (fun i => s.regN (.dmaDesc u d i)) →
      ((s.cu u).dma.queue.length < 8 → Completes (exec (.dma t u d ss sd p) s) fun r => ∃ x,
        r.cu u = { s.cu u with dma := { (s.cu u).dma with queue := (s.cu u).dma.queue ++ [x] } } ∧ x.src = (w 0 + w 1 % 2 ^ 16 * 2 ^ 32 + 16 * s.sregN u ss) % 2 ^ 48 ∧
        x.dst = (w 1 / 2 ^ 16 % 2 ^ 16 + w 2 * 2 ^ 16 + 16 * s.sregN u sd) % 2 ^ 48 ∧ x.units = w 3 / 2 ^ 12 % 2 ^ 20 ∧
        x.counter = w 3 / 2 ^ 7 % 32 ∧ x.signal = (w 3).testBit 6 ∧ x.todo = [] ∧ LaneFrame u s r) ∧
      (8 ≤ (s.cu u).dma.queue.length → Completes (exec (.dma t u d ss sd p) s) fun r =>
        r.cu u = { s.cu u with seq := { q with stall := .slot (.dma d ss sd) } } ∧ LaneFrame u s r))

/-- R105, R106, R167, R212, R213, R257, R258: SEND, SIG, WAIT, WAITGE and the link slot. SIG adds and saturates; a change shows three cycles
later, and those of one cycle are summed; WAIT takes n when the counter holds n and else stalls the lane until it does; ROUTE and TAG act from the next cycle. That the
event of an overflow comes with the change that takes the cycle's sum there is the model's choice (log entry 9), and so is that an AGSTART stalls that finds the queue
full in its cycle (log entry 50). -/
def Obligations.MoveAndLinkSlots : Prop :=
  ∀ (t u : Nat) (s m : State) (q : Seq) (z : Nat), m = s.bayTime (bayOfCu u) t → m.laneRuns u = true → q = (s.cu u).seq → z = (m.bay (bayOfCu u)).cycle →
    (∀ (k n : Nat) (ge : Bool) (v : Nat), q.stall = .wait k n ge false → (s.cu u).sync.recent = [] →
      v = Assoc.get 0 (s.cu u).sync.banks (syncKey s.bank k) →
      (n ≤ v → Completes (exec (.waitSatisfied t u) s) fun r => (r.cu u).seq = { q with stall := .none } ∧
        Assoc.get 0 (r.cu u).sync.banks (syncKey s.bank k) = (if ge then v else min 0xFFFF (v - n)) ∧ LaneFrame u s r) ∧
      (v < n → Completes (exec (.waitSatisfied t u) s) fun r => r.cu u = s.cu u ∧ LaneFrame u s r)) ∧
    (q.stall = .none →
    (∀ (ch x n : Nat) (c d : Chan), c = Assoc.get Chan.reset (s.cu u).msg.chans ch → c.queue.length < 4 →
      d = { c with queue := c.queue ++ [⟨n + 1, 16 * (s.regN (.chan u ch 1) % 2 ^ 10) + 16 * s.sregN u x, (c.count + 1) % 65536⟩], count := c.count + 1 } →
      Completes (exec (.send t u ch x n false) s) fun r =>
        r.cu u = { s.cu u with msg := { (s.cu u).msg with chans := Assoc.set (s.cu u).msg.chans ch d } } ∧
        LaneFrame u s r) ∧
    (∀ (ch x n : Nat), (Assoc.get Chan.reset (s.cu u).msg.chans ch).queue.length = 4 → (s.regN (.chan u ch 1)).testBit 25 = false →
      Completes (exec (.send t u ch x n false) s) fun r => r.cu u = s.cu u ∧ r.reg (.cu u .msgBusy) = satReg (s.reg (.cu u .msgBusy)) 1 ∧
        RegsAlone (.cu u .msgBusy :: bayClockRegs (bayOfCu u)) s r ∧ Touches [.regs, .bays] s r) ∧
    (∀ (k n old : Nat) (sum : Int), k < 32 → (old, sum) = (s.cu u).sync.made s.bank k z → Completes (exec (.sig t u k n false) s) fun r =>
      ((∀ c ∈ (s.cu u).sync.recent, c.counter = k → c.from_ ≠ z + 3) → old = Assoc.get 0 (s.cu u).sync.banks (syncKey s.bank k) ∧ sum = 0) ∧
      Assoc.get 0 (r.cu u).sync.banks (syncKey s.bank k) = min 0xFFFF (old + (sum + n)).toNat ∧
      (∀ y, y ≠ syncKey s.bank k → Assoc.get 0 (r.cu u).sync.banks y = Assoc.get 0 (s.cu u).sync.banks y) ∧ (r.cu u).seq = q ∧
      ((s.cu u).sync.recent = [] → ∀ d, (r.cu u).sync.visible s.bank k d = if d < z + 3 then old else min 0xFFFF (old + (sum + n)).toNat) ∧
      (s.stitch.decision = none → 0xFFFF < old + (sum + n) → old + sum ≤ 0xFFFF → Raised s r (bayOfCu u) 0x16 (locCu u % 2 ^ 32) k 0 0) ∧
      CusAlone [u] s r ∧ Touches [.regs, .bays, .cus, .hsync, .evt] s r) ∧
    (∀ (k n : Nat) (v : Nat), v = Assoc.get 0 (s.cu u).sync.banks (syncKey s.bank k) → (s.cu u).sync.recent = [] →
      (n ≤ v → Completes (exec (.wait t u k n false) s) (fun r => Assoc.get 0 (r.cu u).sync.banks (syncKey s.bank k) = min 0xFFFF (v - n) ∧
          (r.cu u).seq = q ∧ LaneFrame u s r) ∧
        Completes (exec (.waitge t u k n false) s) fun r => r.cu u = s.cu u ∧ LaneFrame u s r) ∧
      (v < n → Completes (exec (.wait t u k n false) s) (fun r => r.cu u = { s.cu u with seq := { q with stall := .wait k n false false } } ∧ LaneFrame u s r) ∧
        Completes (exec (.waitge t u k n false) s) fun r => r.cu u = { s.cu u with seq := { q with stall := .wait k n true false } } ∧ LaneFrame u s r)) ∧
    (∀ (e : Nat), Completes (exec (.route t u e) s) fun r =>
      r.cu u = { s.cu u with fab := { (s.cu u).fab with entry := ⟨(s.cu u).fab.entry.at z, e, z + 1⟩ } } ∧ LaneFrame u s r) ∧
    (∀ (l d x : Nat) (js : List SpinJob), js = Assoc.get [] (s.cu u).fab.spins l →
      (js.length < 2 → Completes (exec (.spin t u l d x) s) fun r =>
        Assoc.get [] (r.cu u).fab.spins l = js ++ [⟨s.descOf u d (s.sregN u x), 0, 0⟩] ∧ (r.cu u).seq = q ∧ LaneFrame u s r) ∧
      (2 ≤ js.length → Completes (exec (.spin t u l d x) s) fun r => r.cu u = { s.cu u with seq := { q with stall := .slot (.spin l d x) } } ∧ LaneFrame u s r)) ∧
    (∀ (g d x : Nat) (y : Gen) (w : AgStart), y = Assoc.get Gen.reset (s.mu (u / 4)).gens g → w = ⟨u % 4, d, s.sregN u x, z⟩ →
      (y.queue.length < 2 → Completes (exec (.agstart t u g d x) s) fun r => ∃ y',
        (r.mu (u / 4)).gens = Assoc.set (s.mu (u / 4)).gens g y' ∧ y'.run = y.run ∧
        ((∀ b ∈ y.queue, b.at_ ≠ z) → y'.queue = y.queue ++ [w]) ∧
        (∀ b, y.queue = [b] → b.at_ = z → y.at_ = some z →
          y'.queue = if (b.cu + 4 - y.base % 4) % 4 ≤ (u % 4 + 4 - y.base % 4) % 4 then [b, w] else [w, b]) ∧
        r.cus = s.cus ∧ MusAlone [u / 4] s r ∧ Touches [.regs, .bays, .mus] s r) ∧
      (2 ≤ y.queue.length → Completes (exec (.agstart t u g d x) s) fun r => r.cu u = { s.cu u with seq := { q with stall := .slot (.agstart g d x) } } ∧ LaneFrame u s r)) ∧
    (∀ (x : Nat), Completes (exec (.tag t u 0 x) s) fun r => 
      r.cu u = { s.cu u with fab := { (s.cu u).fab with tag := ⟨(s.cu u).fab.tag.at z, s.sregN u x % 16, z + 1⟩ } } ∧ LaneFrame u s r) ∧
    (∀ (p x : Nat) (y : FabPort), p < 2 → y = Assoc.get FabPort.reset (s.mu (u / 4)).ports p → Completes (exec (.tag t u (p + 1) x) s) fun r =>
      Assoc.get FabPort.reset (r.mu (u / 4)).ports p = { y with tag := ⟨y.tag.at z, s.sregN u x % 16, z + 1⟩ } ∧ r.cus = s.cus ∧
      MusAlone [u / 4] s r ∧ Touches [.regs, .bays, .mus] s r))

/-- R82, R84, R85, R89, R95, R97, R98, R384: the tensor engine at work. A transfer of a loader reads the next 64 bytes of an
operand as they stand then; with the last of them the operand is decoded, and it is staged 2 cycles later from the scratchpad, 4 from the slices. An issue
cycle that the governor refuses leaves the engine and is counted; a finished output leaves for its entry, where it is accumulated; a tile
that closes is compared, and a mismatch voids the stitch with cause 0x3. That the tile stays open for an instruction that started on it meanwhile, and that what is
compared is the cells as the closer left them, is the model's choice (log entry 32), and so is that a command moves all its words at once (log entry 50). -/
def Obligations.TensorEngineWorks : Prop :=
  ∀ (t u z : Nat) (s m : State) (x : Ste), m = s.bayTime (bayOfCu u) t → m.engineRuns u = true → z = (m.bay (bayOfCu u)).cycle → x = (s.cu u).ste →
    (∀ (side : Side) (i : Nat) (j : SteJob) (d : Desc) (l : Loading) (got : List Nat) (ws : Assoc Nat Word) (s' : State),
      x.toStage side = some i → x.queue[i]? = some j → d = j.desc side → l = j.load side → d.source < 2 → x.loaded side z = false →
      m.portHeld (u / 4) (u % 4) (sideUnit side) = false → m.loadWords u d 4 l.words = (got, ws, s') → Completes (exec (.stageLoad t u side) s) fun r =>
        ((nextWord ws d).isSome = true → (r.cu u).ste.queue[i]? = some (j.setLoad side { l with moved := l.moved + 1, words := ws })) ∧
        (nextWord ws d = none → (r.cu u).ste.queue[i]? = some ((j.setLoad side { l with moved := l.moved + 1, words := [], ready := z + if d.source = 0 then 2 else 4 }).setStaged side (stageOperand (byteIn ws) d).1)) ∧
        (r.cu u).ste.loaded side z = true ∧ (∀ k, k ≠ i → (r.cu u).ste.queue[k]? = x.queue[k]?) ∧ (r.cu u).seq = (s.cu u).seq ∧ CusAlone [u] s r ∧
        Touches [.free, .mem, .errs, .regs, .bays, .cus, .evt, .rel] s r) ∧
    (∀ (y : SteRun) (a b : Staged), x.run = some y → y.job.stA = some a → y.job.stB = some b → (y.cycles = 0 → x.entryFree y.job.op.tile y.i y.j z = true) →
      (m.govAllows u = false → Completes (exec (.steOutputIssue t u) s) fun r => r.cus = s.cus ∧
        r.reg (.bay (bayOfCu u) .govHeld) = satReg (s.reg (.bay (bayOfCu u) .govHeld)) 1 ∧ BaysAlone [bayOfCu u] s r ∧
        RegsAlone (.bay (bayOfCu u) .govHeld :: bayClockRegs (bayOfCu u)) s r ∧ Touches [.regs, .bays] s r) ∧
      (m.govAllows u = true → (y.cycle a b).finished a b = false → Completes (exec (.steOutputIssue t u) s) fun r =>
        r.cu u = { s.cu u with ste := { x with run := some (y.cycle a b) } } ∧ LaneFrame u s r) ∧
      (m.govAllows u = true → (y.cycle a b).finished a b = true → Completes (exec (.steOutputIssue t u) s) fun r =>
        (r.cu u).ste = { x with run := (y.cycle a b).advance (b.desc.count + 1) (a.desc.count + 1), results := x.results ++ [(y.cycle a b).result a b z] } ∧
        (r.cu u).seq = (s.cu u).seq ∧ (r.cu u).vec = (s.cu u).vec ∧ CusAlone [u] s r ∧ RegsAlone (.cu u .steMacCyc :: .cu u .steScanCyc :: bayClockRegs (bayOfCu u)) s r ∧ Touches [.regs, .bays, .cus] s r)) ∧
    (∀ (y : SteResult) (c : Acc), x.queue = [] → x.results = [y] → y.due ≤ z → y.lastOf = false → c = (x.tile y.tile).cell (16 * y.i + y.j) →
      Completes (exec (.accumulate t u) s) fun r => (r.cu u).ste.results = [] ∧
        ((r.cu u).ste.tile y.tile).cell (16 * y.i + y.j) = (if y.isInt then { c with int := c.int + BitVec.ofInt 64 y.total, sat := y.sat, reach := y.due }
          else { c with num := (accNums c.num y.sums).1, reach := y.due }) ∧
        (∀ k, k ≠ 16 * y.i + y.j → ((r.cu u).ste.tile y.tile).cell k = (x.tile y.tile).cell k) ∧
        r.reg (.cu u .flags) = s.reg (.cu u .flags) ||| regOf (y.flags ||| (accNums c.num y.sums).2).toNat ∧
        CusAlone [u] s r ∧ RegsAlone (.cu u .flags :: bayClockRegs (bayOfCu u)) s r ∧ Touches [.regs, .bays, .cus] s r) ∧
    (∀ (c : Closing) (tol : Nat) (row col : Nat → Nat) (y : Tile), x.queue = [] → x.tile0.dueClosing z = some c → tol = s.regN (.cu u .chkTol) % 2 ^ 16 →
      col = (fun j => c.tile.compare tol ((List.range c.m).map (fun i => 16 * i + j)) (256 + j)) →
      row = (fun i => c.tile.compare tol ((List.range c.n).map (fun j => 16 * i + j)) (272 + i)) →
      y = { x.tile0 with closings := x.tile0.closings.erase c, isOpen := x.tile0.isOpen && x.tile0.lastNo != c.no } →
      ((∀ j < c.n, col j = 0) → (∀ i < c.m, row i = 0) → Completes (exec (.checksumCompare t u) s) fun r =>
        r.cu u = { s.cu u with ste := { x with tile0 := y } } ∧ LaneFrame u s r) ∧
      ((∃ j < c.n, col j = 2) → (s.bay (bayOfCu u)).vote.cause = 0 → (s.bay (bayOfCu u)).vote.frozen = false →
        Completes (exec (.checksumCompare t u) s) fun r =>
          r.cu u = { s.cu u with ste := { x with tile0 := y } } ∧
          (r.bay (bayOfCu u)).vote.cause = 3 ∧ (∃ e ∈ r.evt.inflight, e.source = bayOfCu u ∧ e.kind = 0x10 ∧ e.w1 = locCu u % 2 ^ 32) ∧
          CusAlone [u] s r ∧ BaysAlone [bayOfCu u] s r ∧ Touches [.regs, .bays, .cus, .evt, .rel] s r))

/-- R24, R100, R102, R103, R104, R107, R234, R253: the vector pipeline, the DMA engine, and the writes that seed a generator or set a telemetry
ring, which are address faults where the bay is not active. A group leaves 14 cycles after it issues; a reduction writes once, with its last group; a transfer within the CU moves its words; one to
or from elsewhere becomes requests of at most 16 words. These are the model's choices: that a command moves all its words at once (log entry 50); that the writes of
seeds and rings are the host's, source 360 with requester word 0xFFFFFFFF (log entry 45); that a misaligned transfer moves no word and its event names the start of its
side (log entry 62). -/
def Obligations.VectorAndDmaWork : Prop :=
  (∀ (t u z : Nat) (s m : State), m = s.bayTime (bayOfCu u) t → m.engineRuns u = true → z = (m.bay (bayOfCu u)).cycle →
    (∀ (y : VecRun) (n : Nat), (s.cu u).vec.run = some y → (∀ g ∈ (s.cu u).vec.groups, z < g.due) → isLinkSrc y.job.x.source = false → y.job.usesY = false →
      m.portHeld (u / 4) (u % 4) 2 = false → m.portHeld (u / 4) (u % 4) 3 = false → n = min y.job.lanes (y.job.elements - y.pos) → Completes (exec (.vectorIssue t u) s) fun r =>
        (∃ g, (r.cu u).vec.groups = (s.cu u).vec.groups ++ [g] ∧ g.job = y.job ∧ g.first = y.pos ∧ g.due = z + 14 ∧ g.vals.length = n ∧
          g.final = decide (y.job.elements ≤ y.pos + n)) ∧
        (r.cu u).vec.run = (if y.job.elements ≤ y.pos + n then none else some { y with pos := y.pos + n }) ∧
        (r.cu u).seq = (s.cu u).seq ∧ (r.cu u).ste = (s.cu u).ste ∧ CusAlone [u] s r) ∧
    (∀ (g : VecGroup) (rest : List VecGroup) (k : Nat), (s.cu u).vec.groups = g :: rest → g.due ≤ z → (s.cu u).vec.outq = [] → g.first = 0 → g.final = true →
      g.job.op.pack = 2 ∨ g.job.op.pack = 3 → g.job.d.source = 8 → k = g.job.d.base / 16 % 8 →
      m.portHeld (u / 4) (u % 4) 4 = false → Completes (exec (.vectorResultWrite t u) s) fun r =>
        (r.cu u).vec.groups = rest ∧ r.reg (.vconst u k) = regOf (bitsOf fp32 ((reduceVals g.job.op.pack none g.vals).1.getD posZero)) ∧
        (r.cu u).ste = (s.cu u).ste ∧ CusAlone [u] s r ∧ RegsAlone (.vconst u k :: .cu u .flags :: bayClockRegs (bayOfCu u)) s r ∧
        Touches [.regs, .bays, .cus] s r) ∧
    (∀ (x : Xfer) (rest : List Xfer) (d : Dma), d = (s.cu u).dma → d.queue = x :: rest → d.active.length < 4 → m.portHeld (u / 4) (u % 4) 6 = false →
      (x.src % 16 ≠ 0 → 0 < x.units → Completes (exec (.dmaTransferStart t u) s) fun r =>
        (r.cu u).dma = { d with queue := rest, active := d.active ++ [{ x with err := true, moved := true }] } ∧
        Raised s r (bayOfCu u) 0x20 (x.src % 2 ^ 32) (x.src / 2 ^ 32 % 2 ^ 32) (locCu u % 2 ^ 32) 1 ∧
        ((s.bay (bayOfCu u)).vote.cause = 0 → (s.bay (bayOfCu u)).vote.frozen = false → (r.bay (bayOfCu u)).vote.cause = 6) ∧
        Touches [.regs, .bays, .cus, .evt] s r) ∧
      (∀ ps, ps = cutPlaces x.src x.dst x.units (x.units / 512 + 4) → m.piecesBad u ps = none →
        ((∀ p ∈ ps, localPlace u p.1 = none) →
          Completes (exec (.dmaTransferStart t u) s) fun r => (∃ y, (r.cu u).dma = { d with queue := rest, active := d.active ++ [y] } ∧ y.moved = true ∧
            y.todo.map (fun p => (p.type, p.addr, p.len)) = ps.flatMap (fun p => (cut256 p.1 p.2.2 p.2.2).map (fun e => (0, e.1, e.2))) ∧
            y.err = x.err) ∧ LaneFrame u s r) ∧
        ((∀ p ∈ ps, (localPlace u p.1).isSome = true ∧ localPlace u p.2.1 = none) →
          Completes (exec (.dmaTransferStart t u) s) fun r => (∃ y, (r.cu u).dma = { d with queue := rest, active := d.active ++ [y] } ∧ y.moved = true ∧
            y.todo.map (fun p => (p.type, p.addr, p.len)) = ps.flatMap (fun p => (cut256 p.2.1 p.2.2 p.2.2).map (fun e => (1, e.1, e.2))) ∧
            y.err = x.err) ∧ LaneFrame u s r)) ∧
      (∀ sw dw, Inv s → x.units = 1 → m.sideBad u x.src 1 = none → m.sideBad u x.dst 1 = none → localPlace u x.src = some (0, sw) →
        localPlace u x.dst = some (0, dw) → s.errs.get [] (spAddr u (16 * sw) / 16) = [] → Completes (exec (.dmaTransferStart t u) s) fun r =>
          (r.cu u).dma = { d with queue := rest, active := d.active ++ [{ x with todo := [], moved := true, ready := z + 1 }] } ∧
          r.word (spAddr u (16 * dw)) = s.word (spAddr u (16 * sw)) ∧ MemAlone (spAddr u (16 * dw)) 16 s r ∧
          Touches [.mem, .errs, .regs, .bays, .cus] s r)) ∧
    (∀ (x : Xfer) (rest : List Xfer) (k old : Nat) (sum : Int), (s.cu u).dma.active = x :: rest → finished z x = true → k = syncKey s.bank x.counter →
      (old, sum) = (s.cu u).sync.made s.bank x.counter z → Completes (exec (.dmaTransferComplete t u) s) fun r =>
        (r.cu u).dma.active = rest ∧ Assoc.get 0 (r.cu u).sync.banks k =
          (if x.signal = true ∧ x.err = false then min 0xFFFF (old + (sum + 1)).toNat else Assoc.get 0 (s.cu u).sync.banks k) ∧
        (∀ d, x.signal = true → x.err = false → d < z + 3 → (s.cu u).sync.recent = [] → (r.cu u).sync.visible s.bank x.counter d = old) ∧
        CusAlone [u] s r ∧ Touches [.regs, .bays, .cus, .hsync, .evt] s r)) ∧
  (∀ (t u : Nat) (v : BitVec 32) (s : State),
    ((s.bay (bayOfCu u)).power = .active → Completes (exec (.cuSrSeedWrite t u v) s) fun r =>
      r.reg (.cu u .srSeed) = regOf v.toNat ∧ r.cu u = { s.cu u with seeded := true } ∧ CusAlone [u] s r ∧
      RegsAlone (.cu u .srSeed :: bayClockRegs (bayOfCu u)) s r ∧ Touches [.regs, .bays, .cus] s r) ∧
    (∀ a, s.unreached (.cu u .srSeed) = some a → Completes (exec (.cuSrSeedWrite t u v) s) fun r =>
      Raised s r 360 0x20 (a % 2 ^ 32) (a / 2 ^ 32 % 2 ^ 32) 0xFFFFFFFF 2 ∧ r.reg (.cu u .srSeed) = s.reg (.cu u .srSeed) ∧
      RegsAlone (bayClockRegs (bayOfCu u)) s r ∧ Touches [.regs, .bays, .evt] s r)) ∧
  (∀ (t b a : Nat) (size : Bool) (v : Reg) (s : State), s.unreached (.bay b (if size then .fabTelSize else .fabTelBase)) = some a →
    Completes (exec (.telemetryRingConfig t b size .whole v) s) fun r => Raised s r 360 0x20 (a % 2 ^ 32) (a / 2 ^ 32 % 2 ^ 32) 0xFFFFFFFF 2 ∧
      RegsAlone (bayClockRegs b) s r ∧ Touches [.regs, .bays, .evt] s r) ∧
  (∀ (t b : Nat) (v : Reg) (s : State), (s.bay b).power = .active → s.regN (.bay b .fabTelSize) < 32 → Completes (exec (.telemetryRingConfig t b true .whole v) s) fun r =>
    r.regN (.bay b .fabTelSize) = v.toNat % 32 ∧ r.regN (.bay b .fabTelHead) = 0 ∧
    RegsAlone (.bay b .fabTelSize :: .bay b .fabTelHead :: bayClockRegs b) s r ∧ Touches [.regs, .bays] s r)

/-! ### Scratchpads, slices, address generators -/

/-- R5, R27, R77, R78, R79, R158, R161, R162, R163, R164, R165: the scratchpad and slice arbiters. An access alone is granted: a write lands, a read's
words leave for the requester, 2 cycles later from a bank, 4 from a slice, and zeros where the access is an address fault. A write of part of a word
is merged into it and holds its bank a cycle more, in which nothing is granted there. Two scheduled accesses that meet raise a conflict, the loser is counted and stays
presented; an unscheduled request that has waited 16 cycles is granted; the fifth refusal of a narrow access raises narrow-starvation. -/
def Obligations.ArbitersGrant : Prop :=
  (∀ (t u z : Nat) (q : SpReq) (s m : State), Inv s → m = s.bayTime (bayOfCu u) t → z = (m.bay (bayOfCu u)).cycle → (s.bay (bayOfCu u)).power = .active →
    q.requester < 10 → q.word < 1024 →
    (m.spTaken u (q.word % 4) = true → Completes (exec (.scratchpadArbitration t u [q]) s) fun r =>
      (r.cu u).sp.out = (s.cu u).sp.out ∧ (r.cu u).sp.taken = (s.cu u).sp.taken ∧ LaneFrame u s r) ∧
    (m.spTaken u (q.word % 4) = false →
      (q.write = true → q.off = 0 → 16 ≤ q.bytes → Completes (exec (.scratchpadArbitration t u [q]) s) fun r => r.word (spAddr u (16 * q.word)) = q.data ∧
        r.errs.get [] (spAddr u (16 * q.word) / 16) = [] ∧ MemAlone (spAddr u (16 * q.word)) 16 s r ∧ (r.cu u).seq = (s.cu u).seq ∧ CusAlone [u] s r ∧
        (q.requester < 7 → RegsAlone (bayClockRegs (bayOfCu u)) s r) ∧ r.evt = s.evt ∧ Touches [.mem, .errs, .regs, .bays, .cus] s r) ∧
      (q.write = true → q.bytes < 16 → s.errs.get [] (spAddr u (16 * q.word) / 16) = [] → Completes (exec (.scratchpadArbitration t u [q]) s) fun r =>
        r.word (spAddr u (16 * q.word)) = mergeWord (s.word (spAddr u (16 * q.word))) q.data q.off q.bytes ∧
        Assoc.find? (r.cu u).sp.taken (q.word % 4) = some (z + 1) ∧ MemAlone (spAddr u (16 * q.word)) 16 s r ∧ CusAlone [u] s r ∧
        Touches [.mem, .errs, .regs, .bays, .cus] s r) ∧
      (q.write = false → s.errs.get [] (spAddr u (16 * q.word) / 16) = [] → Completes (exec (.scratchpadArbitration t u [q]) s) fun r =>
        (s.word (spAddr u (16 * q.word)), z + 2) ∈ Assoc.get [] (r.cu u).sp.out q.requester ∧ LaneFrame u s r))) ∧
  (∀ (t u : Nat) (p q : SpReq) (s : State), (s.bay (bayOfCu u)).power = .active → p.requester < q.requester → q.requester < 7 → p.word < 1024 → q.word < 1024 →
    p.word % 4 = q.word % 4 → Completes (exec (.scratchpadArbitration t u [p, q]) s) fun r =>
      r.reg (.cu u .spConflict) = satField (s.reg (.cu u .spConflict)) 15 0 1 ∧
      (∃ e ∈ r.evt.inflight, e.source = bayOfCu u ∧ e.kind = 0x11 ∧ e.w1 = locCu u % 2 ^ 32) ∧ CusAlone [u] s r) ∧
  (∀ (t u bank i n : Nat) (q : SpReq) (s m : State), Inv s → m = s.bayTime (bayOfCu u) t → (s.bay (bayOfCu u)).power = .active → i < 3 →
    Assoc.find? (s.cu u).sp.waits (bank, i) = some (n, q) → 16 ≤ n → (∀ j, j < 3 → j ≠ i → (s.cu u).sp.waited bank j < 16) → m.spTaken u bank = false →
    q.word < 1024 → q.write = true → q.off = 0 → 16 ≤ q.bytes →
    Completes (exec (.scratchpadPromotion t u bank) s) fun r => r.word (spAddr u (16 * q.word)) = q.data ∧
      Assoc.find? (r.cu u).sp.waits (bank, i) = none ∧ r.reg (.cu u .spConflict) = satField (s.reg (.cu u .spConflict)) 31 16 1 ∧
      MemAlone (spAddr u (16 * q.word)) 16 s r ∧ CusAlone [u] s r ∧ Touches [.mem, .errs, .regs, .bays, .cus] s r) ∧
  (∀ (t c slice w z : Nat) (q : MuReq) (s m : State), Inv s → m = s.bayTime (bayOf c) t → z = (m.bay (bayOf c)).cycle → (s.bay (bayOf c)).power = .active →
    (s.mu c).arb.shown = [] → q.slice = slice → q.port < 8 → q.unit < 6 → w = 1536 * slice + q.first →
    (q.write = true → q.data.length = q.count → (∀ i, i < q.count → s.muPlace c (w + i) = .plain (w + i)) → Completes (exec (.sliceArbitration t c slice [q]) s) fun r =>
      (∀ i, i < q.count → r.word (devAddr c (16 * (w + i))) = q.data.getD i 0) ∧ MemAlone (devAddr c (16 * w)) (16 * q.count) s r ∧
      (r.mu c).dsp = (s.mu c).dsp ∧ MusAlone [c] s r ∧ RegsAlone (bayClockRegs (bayOf c)) s r ∧ Touches [.mem, .errs, .regs, .bays, .mus] s r) ∧
    (q.write = false → (∀ i, i < q.count → s.muPlace c (w + i) = .plain (w + i) ∧ s.errs.get [] (devAddr c (16 * (w + i)) / 16) = []) →
      Completes (exec (.sliceArbitration t c slice [q]) s) fun r =>
        ((List.range q.count).map (fun i => s.word (devAddr c (16 * (w + i)))), z + 4) ∈ Assoc.get [] (r.mu c).arb.out q.port ∧
        (r.mu c).dsp = (s.mu c).dsp ∧ MuFrame c s r) ∧
    (∀ i k, q.write = false → i < q.count → s.muPlace c (w + i) = .bad k → Completes (exec (.sliceArbitration t c slice [q]) s) fun r =>
      (List.replicate q.count 0, z + 4) ∈ Assoc.get [] (r.mu c).arb.out q.port ∧ (∃ e ∈ r.evt.inflight, e.source = bayOf c ∧ e.kind = 0x20 ∧
        e.w0 = devAddr c (16 * w) % 2 ^ 32) ∧ r.mem = s.mem ∧ MusAlone [c] s r)) ∧
  (∀ (t c slice z : Nat) (p q : MuReq) (s m : State), m = s.bayTime (bayOf c) t → z = (m.bay (bayOf c)).cycle → (s.bay (bayOf c)).power = .active →
    (s.mu c).arb.shown = [] → p.slice = slice → q.slice = slice → p.unit < 6 → q.unit < 6 → p.port < 8 → q.port < 8 → p.port ≠ q.port → p.port ≠ 6 → q.port ≠ 6 →
    p.dma = false → q.dma = false → p.count ≠ 1 → q.count ≠ 1 → s.twin.frozen = [] → Completes (exec (.sliceArbitration t c slice [p, q]) s) fun r =>
      r.reg (.mu c .conflict) = satReg (s.reg (.mu c .conflict)) 1 ∧
      (∃ l, (l = p ∨ l = q) ∧ Assoc.find? (r.mu c).arb.shown l.port = some ⟨z, some l, true⟩) ∧
      (∃ e ∈ r.evt.inflight, e.source = bayOf c ∧ e.kind = 0x22 ∧ e.w1 = locMu c % 2 ^ 32) ∧ MusAlone [c] s r) ∧
  (∀ (t c port slice bank : Nat) (s : State), (s.bay (bayOf c)).power = .active → Assoc.get 0 (s.mu c).arb.refused port = 4 → port < 8 → slice < 8 → bank < 4 →
    Completes (exec (.narrowStarvation t c port slice bank) s) fun r => r.reg (.mu c .starve) = satReg (s.reg (.mu c .starve)) 1 ∧
      r.reg (.mu c .narrowWait) = satReg (s.reg (.mu c .narrowWait)) 1 ∧ Assoc.get 0 (r.mu c).arb.refused port = 5 ∧
      Raised s r (bayOf c) 0x23 (port + slice * 8 + bank * 64) (locMu c % 2 ^ 32) 0 0 ∧
      RegsAlone (.mu c .starve :: .mu c .narrowWait :: bayClockRegs (bayOf c)) s r ∧ MusAlone [c] s r ∧ Touches [.regs, .bays, .mus, .evt] s r) ∧
  (∀ (t u n k w : Nat) (q : MuReq) (s : State), Inv s → (s.bay (bayOfCu u)).power = .active → (s.mu (u / 4)).arb.shown = [] →
    Assoc.find? (s.mu (u / 4)).arb.dmaWait (u % 4) = some (n, k, q) → 16 ≤ n → q.port = u % 4 → q.dma = true → q.write = true → q.data.length = q.count →
    w = 1536 * q.slice + q.first → (∀ i, i < q.count → s.muPlace (u / 4) (w + i) = .plain (w + i)) → Completes (exec (.cuPortDmaPromotion t u) s) fun r =>
      (∀ i, i < q.count → r.word (devAddr (u / 4) (16 * (w + i))) = q.data.getD i 0) ∧ Assoc.find? (r.mu (u / 4)).arb.dmaWait (u % 4) = none ∧
      MemAlone (devAddr (u / 4) (16 * w)) (16 * q.count) s r ∧ MusAlone [u / 4] s r ∧ Touches [.mem, .errs, .regs, .bays, .mus] s r)

/-- R161, R167, R169, R170, R171, R172, R217: a generator whose access its crossbar port has refused waits, and one whose access or index
fetch the port has had in this cycle. Else it takes its queued start, reads rows to its fabric port and writes the port's payloads,
fetches eight indices with a word, and completes with its signal; an access it may not make ends the stream. That a command moves all its words at once is the model's choice (log entry 50). -/
def Obligations.GeneratorsStream : Prop :=
  ∀ (t c g z : Nat) (s m : State) (x : Gen), m = s.bayTime (bayOf c) t → m.muWorks c = true → z = (m.bay (bayOf c)).cycle → x = Assoc.get Gen.reset (s.mu c).gens g →
    (m.agHeld c g = true → Completes (exec (.agAccess t c g) s) (fun r => r.mus = s.mus ∧ MuFrame c s r) ∧
      Completes (exec (.indexFetch t c g) s) fun r => r.mus = s.mus ∧ MuFrame c s r) ∧
    (∀ (a : AgStart) (rest : List AgStart) (d : AgDesc), g < 4 → x.run = none → x.queue = a :: rest → d = s.agDesc c a.d → d.port ≠ 2 →
      d.meets (m.dspPorts c) = false → (∀ h, h < 4 → h ≠ g → (Assoc.get Gen.reset (s.mu c).gens h).queue = [] ∧
        ∀ q, (Assoc.get Gen.reset (s.mu c).gens h).run = some q → q.desc.meets d.ports = false) → Completes (exec (.agStreamStart t c g) s) fun r =>
        (Assoc.get Gen.reset (r.mu c).gens g).queue = rest ∧ (∃ y, (Assoc.get Gen.reset (r.mu c).gens g).run = some y ∧ y.desc = d ∧ y.cu = a.cu ∧
          y.base = d.base + 16 * a.offset ∧ y.iter = [0, 0, 0, 0, 0] ∧ y.started = true ∧ y.done = false ∧ y.moved = 0) ∧ MuFrame c s r) ∧
    (∀ (y : AgRun) (o : Nat), x.run = some y → m.agHeld c g = false → y.busyAt z = false → y.started = true → y.done = false → y.incoming = [] → y.desc.indirect = false →
      y.address (y.iter.getD 1 0) = (o : Int) →
      (∀ (p : FabPort), y.desc.reads = true → y.desc.wide = true → y.desc.port < 2 → p = Assoc.get FabPort.reset (s.mu c).ports y.desc.port →
        p.outq.length ≤ 6 → o % 64 = 0 → o + 64 ≤ 0x30000 → (∀ i, i < 4 → s.muPlace c (o / 16 + i) = .plain (o / 16 + i)) →
        (∀ i, i < 4 → s.errs.get [] (devAddr c (16 * (o / 16 + i)) / 16) = []) → Completes (exec (.agAccess t c g) s) fun r =>
          (Assoc.get FabPort.reset (r.mu c).ports y.desc.port).outq = p.outq ++ [(⟨payload2 (s.word (devAddr c o)) (s.word (devAddr c (o + 16))), 0⟩, z + 4),
            (⟨payload2 (s.word (devAddr c (o + 32))) (s.word (devAddr c (o + 48))), 0⟩, z + 4)] ∧
          (Assoc.get Gen.reset (r.mu c).gens g).run = some { y.next z with lastDue := z + 4 } ∧ MuFrame c s r) ∧
      (∀ (h : Word), Inv s → y.desc.reads = false → y.desc.wide = false → y.half = some h → o % 16 = 0 → o + 16 ≤ 0x30000 → s.muPlace c (o / 16) = .plain (o / 16) →
        Completes (exec (.agAccess t c g) s) fun r => r.word (devAddr c o) = h ∧ (Assoc.get Gen.reset (r.mu c).gens g).run = some { y.next z with half := none } ∧
          MemAlone (devAddr c o) 16 s r ∧ MusAlone [c] s r ∧ Touches [.mem, .errs, .regs, .bays, .mus] s r) ∧
      (0x30000 ≤ o → Completes (exec (.agAccess t c g) s) fun r => (Assoc.get Gen.reset (r.mu c).gens g).run = some { y with done := true, faulted := true } ∧
        (∃ e ∈ r.evt.inflight, e.source = bayOf c ∧ e.kind = 0x20 ∧ e.w2 = locCu (4 * c + y.cu) % 2 ^ 32 ∧ e.w3 = 0) ∧
        ((s.bay (bayOf c)).vote.cause = 0 → (s.bay (bayOf c)).vote.frozen = false → (r.bay (bayOf c)).vote.cause = 6) ∧ r.mem = s.mem)) ∧
    (∀ (y : AgRun), x.run = some y → m.agHeld c g = false → y.busyAt z = true → y.started = true → y.desc.indirect = false →
      Completes (exec (.agAccess t c g) s) fun r => r.mus = s.mus ∧ MuFrame c s r) ∧
    (∀ (y : AgRun) (o : Nat), x.run = some y → m.agHeld c g = false → y.busyAt z = false → y.incoming = [] → y.wantsIndex = true → o = y.desc.idxBase + 16 * y.fetched → o % 16 = 0 → o + 16 ≤ 0x30000 →
      s.muPlace c (o / 16) = .plain (o / 16) → s.errs.get [] (devAddr c o / 16) = [] → Completes (exec (.indexFetch t c g) s) fun r =>
        (Assoc.get Gen.reset (r.mu c).gens g).run = some { y with fetched := y.fetched + 1, incoming := [(z + 5, (List.range (min 8 (y.needed - 8 * y.fetched))).map
          (fun j => (s.word (devAddr c o)).toNat / 2 ^ (16 * j) % 2 ^ 16))], stamp := z + 1 } ∧ MuFrame c s r) ∧
    (∀ (y : AgRun) (u k old : Nat) (sum : Int), x.run = some y → y.done = true → y.desc.port ≠ 2 → y.lastDue ≤ z → u = 4 * c + y.desc.sigCu → y.desc.sigCu < 4 →
      k = syncKey s.bank y.desc.sigCounter → (old, sum) = (s.cu u).sync.made s.bank y.desc.sigCounter z →
      Completes (exec (.agStreamComplete t c g) s) fun r => (Assoc.get Gen.reset (r.mu c).gens g) = { x with run := none } ∧
        Assoc.get 0 (r.cu u).sync.banks k = (if y.desc.signal = true ∧ y.faulted = false then min 0xFFFF (old + (sum + 1)).toNat
          else Assoc.get 0 (s.cu u).sync.banks k) ∧ CusAlone [u] s r ∧ MusAlone [c] s r ∧ Touches [.regs, .bays, .cus, .mus, .hsync, .evt] s r)

/-! ### The neighbour fabric and the dispatch stage -/

/-- R185, R187, R188, R189, R190, R211, R213, R215, R217, R222, R224, R400: payloads move. A transfer takes the head of an inbound link to the far end of
the link it is routed to, where it arrives in the next cycle; the codewords that its receiver corrected are counted; one received with an uncorrectable codeword voids the
stitch with cause 0x2 and goes on as it was received;
SPIN stores; a fabric port takes and gives; a payload that has crossed a seam stands at the head of its link, unless the far bay is not active; its
credit starts back when it is taken, and comes back unless the far bay is not active; the steering unit pairs a
token with the payload of its tag, and a pair that does not match, or that no partner joins in time, is a fault that voids the
stitch with cause 0x5. -/
def Obligations.PayloadsMove : Prop :=
  ∀ (t u z b : Nat) (s m : State) (f : Fab), b = bayOfCu u → m = s.bayTime b t → m.engineRuns u = true → z = (m.bay b).cycle → f = (s.cu u).fab →
    (∀ (l o v : Nat) (x : Flit), l < 4 → sinkOf (m.routeWord u) l = 0 → m.headOf u l = some x → outsOf (m.routeWord u) (l + 1) = [o] → neighbour u o = some v → v ≠ u →
      isSeam u o = false →
      (m.credit u o = true → Completes (exec (.linkPayloadTransfer t u l ⟨0, none⟩) s) fun r =>
        Assoc.get [] (r.cu v).fab.inq (facing o) = Assoc.get [] (s.cu v).fab.inq (facing o) ++ [(x, z + 1)] ∧
        Assoc.get [] (r.cu u).fab.inq l = (Assoc.get [] f.inq l).drop 1 ∧ (r.cu u).steer = (s.cu u).steer ∧
        (∀ w, isSeam u l = true → neighbour u l = some w → Assoc.get [] (r.cu w).fab.returning (facing l) =
          Assoc.get [] (s.cu w).fab.returning (facing l) ++ [creditAt z (max 1 (m.mhz b)) (max 1 (m.mhz (bayOfCu w)))]) ∧
        CusTaken [u, v] u l s r ∧ RegsAlone (bayClockRegs b) s r ∧ Touches [.regs, .bays, .cus] s r) ∧
      (m.credit u o = false → Completes (exec (.linkPayloadTransfer t u l ⟨0, none⟩) s) fun r => r.cus = s.cus ∧ Touches [.regs, .bays] s r) ∧
      (∀ (n : Nat), 0 < n → l ∉ f.hurt → Completes (exec (.linkPayloadTransfer t u l ⟨n, none⟩) s) fun r =>
        (∀ id, id = .bay b .relCe ∨ id = .rel .ce → r.reg id = if n = 1 then satReg (s.reg id) 1 else satReg (satReg (s.reg id) 1) 1) ∧
        (r.bay b).vote = (m.bay b).vote ∧
        (m.credit u o = true → Assoc.get [] (r.cu v).fab.inq (facing o) = Assoc.get [] (s.cu v).fab.inq (facing o) ++ [(x, z + 1)]) ∧
        RegsAlone (.bay b .relCe :: .rel .ce :: bayClockRegs b) s r ∧ Touches [.regs, .bays, .cus] s r) ∧
      (∀ (y : Payload) (tag n : Nat), l ∉ f.hurt → (s.bay b).vote.cause = 0 → (s.bay b).vote.frozen = false →
        Completes (exec (.linkPayloadTransfer t u l ⟨n, some (y, tag)⟩) s) fun r => (r.bay b).vote.cause = 2 ∧
          (m.credit u o = true → Assoc.get [] (r.cu v).fab.inq (facing o) = Assoc.get [] (s.cu v).fab.inq (facing o) ++ [(⟨y, tag⟩, z + 1)]) ∧
          ∃ e ∈ r.evt.inflight, e.source = b ∧ e.kind = 0x26 ∧ e.w0 = locCu u % 2 ^ 32 ∧ e.w1 = 3)) ∧
    (∀ (l o w line : Nat) (x : Flit) (j : SpinJob), Inv s → Assoc.get [] f.spins l = [j] → (∀ k, k < 4 → (s.cu u).wants l k = false) → sinkOf (m.routeWord u) l = 1 →
      outsOf (m.routeWord u) (l + 1) = [] → m.headOf u l = some x → line = round16 (ceilDiv (j.desc.kLen * widthOf j.desc.etype) 8) →
      o = j.desc.base + j.line * (if j.desc.pitch ≠ 0 then 16 * j.desc.pitch else line) + 32 * j.part → w = o / 16 → 32 * j.part + 16 < line → w + 2 ≤ 1024 →
      Completes (exec (.spinWrite t u l) s) fun r => r.word (spAddr u (16 * w)) = payloadLow x.data ∧ r.word (spAddr u (16 * (w + 1))) = payloadHigh x.data ∧
        Assoc.get [] (r.cu u).fab.inq l = (Assoc.get [] f.inq l).drop 1 ∧ Assoc.get [] (r.cu u).fab.spins l = (match j.next with | some k => [k] | none => []) ∧
        MemAlone (spAddr u (16 * w)) 32 s r ∧ CusTaken [u] u l s r ∧ Touches [.mem, .errs, .regs, .bays, .cus] s r) ∧
    (∀ (l v e : Nat) (x : Flit) (rest : List (Flit × Nat)), neighbour u l = some v → Assoc.get [] f.seam l = (x, e) :: rest → e ≤ z → Assoc.get [] f.inq l = [] →
      (∀ k, (s.bay (bayOfCu v)).power = .active → s.ctx? s.active = some k → bayOfCu v ∈ k.image.bays → Completes (exec (.seamPayloadExit t u l) s) fun r =>
        Assoc.get [] (r.cu u).fab.seam l = rest ∧ Assoc.get [] (r.cu u).fab.inq l = [(x, z)] ∧ LaneFrame u s r) ∧
      (isSeam u l = true → (s.bay (bayOfCu v)).power ≠ .active → Completes (exec (.seamPayloadExit t u l) s) fun r => r.cus = s.cus ∧ LaneFrame u s r)) ∧
    (∀ (l k v : Nat) (rest : List Nat), neighbour u l = some v → Assoc.get [] f.returning l = k :: rest → k ≤ z →
      (∀ c, (s.bay (bayOfCu v)).power = .active → s.ctx? s.active = some c → bayOfCu v ∈ c.image.bays → Completes (exec (.seamCreditReturn t u l) s) fun r =>
        Assoc.get [] (r.cu u).fab.returning l = rest ∧ Assoc.get 0 (r.cu u).fab.spent l = Assoc.get 0 f.spent l - 1 ∧ LaneFrame u s r) ∧
      (isSeam u l = true → (s.bay (bayOfCu v)).power ≠ .active → Completes (exec (.seamCreditReturn t u l) s) fun r => r.cus = s.cus ∧ LaneFrame u s r)) ∧
    (∀ (c p l : Nat) (x : Flit) (q : FabPort), c = u / 4 → m.muWorks c = true → l < 4 → sinkOf (m.routeWord u) l = 4 + p → outsOf (m.routeWord u) (l + 1) = [] →
      m.headOf u l = some x → q = Assoc.get FabPort.reset (s.mu c).ports p → q.inq.length < 8 → q.gave.1 ≠ z + 1 →
      (∀ k, k < 16 → ¬(4 * c + k / 4 = u ∧ k % 4 = l) → m.headOf (4 * c + k / 4) (k % 4) = none) → Completes (exec (.fabricPortTransfer t c p true) s) fun r =>
        (Assoc.get FabPort.reset (r.mu c).ports p).inq = q.inq ++ [(x, z + 1)] ∧ Assoc.get [] (r.cu u).fab.inq l = (Assoc.get [] f.inq l).drop 1 ∧
        CusTaken [u] u l s r ∧ MusAlone [c] s r ∧ RegsAlone (bayClockRegs b) s r ∧ Touches [.regs, .bays, .cus, .mus] s r) ∧
    (∀ (c p o v : Nat) (x : Flit) (q : FabPort), c = u / 4 → m.muWorks c = true → m.takesFrom u p = ([o], false) → neighbour u o = some v → v ≠ u →
      isSeam u o = false → m.credit u o = true → m.portOut c p = some x → q = Assoc.get FabPort.reset (s.mu c).ports p → q.took.1 ≠ z + 1 →
      (∀ k, k < 4 → 4 * c + k ≠ u → m.takesFrom (4 * c + k) p = ([], false)) → Completes (exec (.fabricPortTransfer t c p false) s) fun r =>
        (Assoc.get FabPort.reset (r.mu c).ports p).outq = q.outq.drop 1 ∧
        Assoc.get [] (r.cu v).fab.inq (facing o) = Assoc.get [] (s.cu v).fab.inq (facing o) ++ [(x, z + 1)] ∧
        CusAlone [u, v] s r ∧ MusAlone [c] s r ∧ RegsAlone (bayClockRegs b) s r ∧ Touches [.regs, .bays, .cus, .mus] s r) ∧
    (∀ (l : Nat) (x : Flit) (ts : List (BitVec 64)), l < 4 → sinkOf (m.routeWord u) l = 2 → m.headOf u l = some x → ts = (payloadToks x.data).filter tokValid →
      (s.cu u).steer.faulted = false → (s.cu u).steer.toks.length + ts.length ≤ 4 →
      ((∀ y ∈ ts, tokBad y = false) → Completes (exec (.tokenPayloadEnter t u l) s) fun r => (r.cu u).steer = { (s.cu u).steer with toks := (s.cu u).steer.toks ++ ts } ∧
        Assoc.get [] (r.cu u).fab.inq l = (Assoc.get [] f.inq l).drop 1 ∧ CusTaken [u] u l s r ∧ BaysAlone [b] s r ∧
        RegsAlone (bayClockRegs b) s r ∧ Touches [.regs, .bays, .cus] s r) ∧
      ((∃ y ∈ ts, tokBad y = true) → (s.bay b).vote.cause = 0 → (s.bay b).vote.frozen = false → Completes (exec (.tokenPayloadEnter t u l) s) fun r =>
        (r.cu u).steer.faulted = true ∧ (r.bay b).vote.cause = 5 ∧ ∃ e ∈ r.evt.inflight, e.source = b ∧ e.kind = 0x13 ∧ e.w1 = locCu u % 2 ^ 32)) ∧
    (∀ (tk : BitVec 64) (ts : List (BitVec 64)) (l n : Nat) (d : Flit) (ds : List (Nat × Flit)) (x : Steer), x = (s.cu u).steer → x.faulted = false →
      x.toks = tk :: ts → x.dats = (l, d) :: ds → n = x.sent + 1 →
      (d.tag = tokTag tk → tokRoute tk = 0 → Completes (exec (.steerCycle t u) s) fun r =>
        (r.cu u).steer = { x with dats := ds, tWait := 0, dWait := 0, toks := if tokFlits tk ≤ n then ts else tk :: ts, sent := if tokFlits tk ≤ n then 0 else n } ∧
        r.reg (.cu u .steerDropped) = satReg (s.reg (.cu u .steerDropped)) 1 ∧ RegsAlone (.cu u .steerDropped :: bayClockRegs b) s r ∧ CusAlone [u] s r ∧
        Touches [.regs, .bays, .cus] s r) ∧
      (d.tag = tokTag tk → tokRoute tk = 16 → Assoc.find? x.places l = none → Completes (exec (.steerCycle t u) s) fun r =>
        Assoc.find? (r.cu u).steer.places l = some d ∧ (r.cu u).steer.dats = ds ∧ r.reg (.cu u .steerFlits) = satReg (s.reg (.cu u .steerFlits)) 1 ∧
        RegsAlone (.cu u .steerFlits :: bayClockRegs b) s r ∧ CusAlone [u] s r ∧ Touches [.regs, .bays, .cus] s r) ∧
      (d.tag ≠ tokTag tk → (s.bay b).vote.cause = 0 → (s.bay b).vote.frozen = false → Completes (exec (.steerCycle t u) s) fun r =>
        (r.cu u).steer = { x with faulted := true } ∧ (r.bay b).vote.cause = 5 ∧ ∃ e ∈ r.evt.inflight, e.source = b ∧ e.kind = 0x13)) ∧
    (∀ (tk : BitVec 64) (ts : List (BitVec 64)) (x : Steer), x = (s.cu u).steer → x.faulted = false → x.toks = tk :: ts → x.dats = [] →
      s.regN (.cu u .steerCfg) % 256 ≤ x.tWait → (s.bay b).vote.cause = 0 → (s.bay b).vote.frozen = false → Completes (exec (.steerPairTimeout t u) s) fun r =>
        (r.cu u).steer = { x with tWait := x.tWait + 1, faulted := true } ∧ (r.bay b).vote.cause = 5 ∧
        (∃ e ∈ r.evt.inflight, e.source = b ∧ e.kind = 0x13 ∧ e.w1 = locCu u % 2 ^ 32) ∧ CusAlone [u] s r ∧ Touches [.regs, .bays, .cus, .evt] s r)

/-- R192, R193, R194, R196, R198, R200, R203, R204, R205, R207: a dispatch pass. It starts for the generator whose turn it is, once the pass before it has issued
its last access and its last flit, whose acknowledgements stay counted apart; a token's record is
ranked; a token whose slot is not in the sequence mask is recorded as skipped; its tokens go out; unused positions are filled; a pass
whose packets are all acknowledged ends with its generator's signal, an earlier one first. -/
def Obligations.DispatchPasses : Prop :=
  ∀ (t c z : Nat) (s m : State) (x : Dsp) (d : DspDesc), m = s.bayTime (bayOf c) t → m.stageRuns c = true → z = (m.bay (bayOf c)).cycle → x = (s.mu c).dsp →
    (∀ (g : Nat) (y : AgRun), g < 4 → (Assoc.get Gen.reset (s.mu c).gens g).run = some y → y.desc.port = 2 → y.started = false → x.free = true → x.waiting = [g] →
      m.stageSent c = true → d = s.dspDesc c g → d.en = true → d.deferCap = 0 → Completes (exec (.dispatchPassStart t c g) s) fun r =>
        (r.mu c).dsp.phase = .rows ∧ (r.mu c).dsp.gen = g ∧ (r.mu c).dsp.rows = [] ∧ (r.mu c).dsp.tokens = 0 ∧ (r.mu c).dsp.waiting = [] ∧
        (r.mu c).dsp.unacked = 0 ∧ (r.mu c).dsp.serial = x.serial + 1 ∧
        (r.mu c).dsp.closing = (if x.phase = .idle then x.closing else x.closing ++ [⟨x.serial, x.gen, x.unacked, false⟩]) ∧
        (Assoc.get Gen.reset (r.mu c).gens g).run = some { y with started := true } ∧ MuFrame c s r) ∧
    (∀ (h : Nat) (bits : List Nat), d = s.dspDesc c x.gen → x.phase = .rows → x.tokPay = [] → s.tokenRows c x.gen ≤ x.rows.length →
      h = ((x.rows.headD []).headD 0).toNat → bits = (List.range d.cand).map (scoreBits d x.rows) →
      (h / 2 ^ 11 % 2 ^ 21 = 0 → Completes (exec (.tokenRank t c) s) fun r => (r.mu c).dsp.phase = .ranked ∧ (r.mu c).dsp.slot = h % 2 ^ 11 ∧ (r.mu c).dsp.scores = bits ∧
        (r.mu c).dsp.ranked = rankAll (fun i => fp32.decode (bits.getD i 0)) d.d [] (List.range d.cand) ∧ (r.mu c).dsp.recPtr = x.recPtr ∧
        MusAlone [c] s r ∧ RegsAlone (.mu c .dspNan :: bayClockRegs (bayOf c)) s r ∧ Touches [.regs, .bays, .mus] s r) ∧
      (h / 2 ^ 11 % 2 ^ 21 ≠ 0 → (s.bay (bayOf c)).vote.cause = 0 → (s.bay (bayOf c)).vote.frozen = false → Completes (exec (.tokenRank t c) s) fun r =>
        (r.mu c).dsp.phase = .idle ∧ (r.mu c).dsp.faulted = true ∧ (r.bay (bayOf c)).vote.cause = 6 ∧
        (∃ e ∈ r.evt.inflight, e.source = bayOf c ∧ e.kind = 0x14 ∧ e.w1 = locMu c % 2 ^ 32) ∧ r.mem = s.mem)) ∧
    (∀ (n o : Nat), Inv s → d = s.dspDesc c x.gen → x.phase = .ranked → s.seqMask.getLsbD x.slot = false → x.slot < 2 ^ 11 → d.k = 1 → x.idxBuf.length < 7 →
      n = Assoc.get 0 x.recPtr x.gen → o = d.recordBase + 16 * n → o % 16 = 0 → s.muPlace c (o / 16) = .plain (o / 16) → Completes (exec (.tokenResolve t c) s) fun r =>
        (r.word (devAddr c o)).toNat = 3 * 2 ^ 14 + x.slot ∧ r.reg (.mu c .dspSkip) = satReg (s.reg (.mu c .dspSkip)) 1 ∧ (r.mu c).dsp.phase = .rows ∧
        (r.mu c).dsp.tokens = min 0xFFFF (x.tokens + 1) ∧ Assoc.get 0 (r.mu c).dsp.recPtr x.gen = n + 1 ∧ (r.mu c).dsp.idxBuf = x.idxBuf ++ [d.zeroIdx] ∧
        MemAlone (devAddr c o) 16 s r ∧ MusAlone [c] s r ∧ r.stitch = s.stitch ∧ Touches [.mem, .errs, .regs, .bays, .mus] s r) ∧
    (d = s.dspDesc c x.gen → x.phase = .ranked → s.seqMask.getLsbD x.slot = true → x.slot < 2 ^ 11 → d.haltEn = true → x.ranked.head? = some d.haltIdx → s.twin.frozen = [] →
      Completes (exec (.tokenResolve t c) s) fun r => r.stitch = { s.stitch with exits := s.stitch.exits ||| (1#2048 <<< x.slot) } ∧
        r.reg (.mu c .dspExit) = satReg (s.reg (.mu c .dspExit)) 1 ∧ MusAlone [c] s r) ∧
    (∀ (w : BitVec 64) (p : FabPort), d = s.dspDesc c x.gen → x.tokPay = [w] → (∀ g, (Assoc.get Gen.reset (s.mu c).gens g).run = none) →
      p = Assoc.get FabPort.reset (s.mu c).ports d.tokPort → p.outq.length < 8 → Completes (exec (.tokenPayloadEmit t c) s) fun r =>
        Assoc.get FabPort.reset (r.mu c).ports d.tokPort = { p with outq := p.outq ++ [(⟨BitVec.ofNat 256 w.toNat, 0⟩, z)] } ∧
        (r.mu c).dsp = { x with tokPay := [] } ∧ MuFrame c s r) ∧
    (∀ (e : Expert), d = s.dspDesc c x.gen → x.phase = .filling → m.expertOf c d x.fillCand = (some e, m) →
      (e.delivery % 2 = 0 → Completes (exec (.passEndFill t c) s) fun r =>
        (r.mu c).dsp = { x with fillCand := x.fillCand + 1, phase := if d.cand ≤ x.fillCand + 1 then .draining else .filling } ∧ MuFrame c s r) ∧
      (∀ (y : Region), e.delivery % 2 = 1 → m.regionOf c d e.region = (some y, m) → Completes (exec (.passEndFill t c) s) fun r =>
        (r.mu c).dsp.outPkts.length = x.outPkts.length + (e.quota - s.usedOf c d x.fillCand) ∧ (r.mu c).dsp.fillCand = x.fillCand + 1 ∧ MuFrame c s r)) ∧
    (∀ (y : AgRun) (g u k old : Nat) (sum : Int), (Assoc.get Gen.reset (s.mu c).gens g).run = some y → y.faulted = false → u = 4 * c + y.desc.sigCu →
      y.desc.sigCu < 4 → k = syncKey s.bank y.desc.sigCounter → (old, sum) = (s.cu u).sync.made s.bank y.desc.sigCounter z →
      (g = x.gen → x.phase = .draining → x.tokPay = [] → x.outPkts = [] → x.unacked = 0 → (∀ p ∈ x.closing, p.unacked ≠ 0) →
        Completes (exec (.dispatchPassComplete t c) s) fun r =>
          (r.mu c).dsp = { x with phase := .idle } ∧ (Assoc.get Gen.reset (r.mu c).gens g).run = none ∧ (y.desc.signal = true →
            Assoc.get 0 (r.cu u).sync.banks k = min 0xFFFF (old + (sum + 1)).toNat) ∧ CusAlone [u] s r ∧ MusAlone [c] s r ∧
          Touches [.regs, .bays, .cus, .mus, .hsync, .evt] s r) ∧
      (∀ (p : DspPass) (rest : List DspPass), x.closing = p :: rest → p.gen = g → p.unacked = 0 → p.dead = false → (∀ q ∈ rest, q.id ≠ p.id) →
        Completes (exec (.dispatchPassComplete t c) s) fun r =>
          (r.mu c).dsp = { x with closing := rest } ∧ (Assoc.get Gen.reset (r.mu c).gens g).run = none ∧ (y.desc.signal = true →
            Assoc.get 0 (r.cu u).sync.banks k = min 0xFFFF (old + (sum + 1)).toNat) ∧ CusAlone [u] s r ∧ MusAlone [c] s r ∧
          Touches [.regs, .bays, .cus, .mus, .hsync, .evt] s r))

/-! ### The mesh and message channels -/

/-- R178, R179, R238, R245, R247, R248, R249, R251, R252, R254, R255: packets cross the mesh. An answer is injected before anything new, one flit
in a fabric cycle, and dropped where no route leads to its destination; an output moves one flit in a fabric cycle: a packet's last flit leaves it at its cluster, a first flit enters the next router, and a packet whose header cannot be corrected is discarded,
one with a body that cannot votes void; a multicast at the head of its buffer takes its branches, with a combine entry where it has more than one and one is free, its copies go
branch by branch, and one lands through a window; the load path's enters at the control island's attachment and nowhere else, as far as the
credits go, unless it is refused; branch acknowledgements combine; a response frees its
slot; a remote write lands through a window or misses it. These are the model's choices: that an external endpoint takes and gives packets whole (log entry 11), that a
remote write and a landing multicast move all their words at once (log entry 50), and what a multicast whose range runs past row 35 meets (log entry 51). -/
def Obligations.MeshCarries : Prop :=
  (∀ (t c d k : Nat) (x : Bool) (p : Packet) (rest : List Packet) (s m : State), m = s.masterTime t → (s.panel (panelOf c)).fabricOn = true →
    (∀ cls, cls < 3 → (s.rtr c).buf (bufKey 4 cls 0) = []) → m.stamped c 6 = false → (s.mu c).replies = p :: rest → s.pktDest p = some (d, x) → k = bufKey 4 (pktClass p) 0 →
    (s.reachable c d = true → Completes (exec (.meshInject t c) s) fun r => (r.rtr c).buf k = [s.routed c d x p] ∧
      (∀ y, y ≠ k → (r.rtr c).buf y = (s.rtr c).buf y) ∧
      r.mu c = { s.mu c with replies := rest } ∧ RtrsAlone [c] s r ∧ MusAlone [c] s r ∧ Touches [.clk, .mus, .rtrs] s r) ∧
    (s.reachable c d = false → Completes (exec (.meshInject t c) s) fun r => r.mu c = { s.mu c with replies := rest } ∧ MusAlone [c] s r ∧
      Touches [.clk, .mus] s r)) ∧
  (∀ (t c : Nat) (s m : State), m = s.masterTime t → (s.panel (panelOf c)).fabricOn = true → m.stamped c 6 = true →
    Completes (exec (.meshInject t c) s) (Touches [.clk] s)) ∧
  (∀ (t x out : Nat) (s m : State), m = s.masterTime t → (s.panel (panelOf x)).fabricOn = true → m.stamped x out = true →
    Completes (exec (.routerForward t x out 0) s) fun r => (∀ y, (r.rtr y).inq = (s.rtr y).inq ∧ (r.rtr y).ejected = (s.rtr y).ejected) ∧
      RegsAlone [.rtr x .hold] s r ∧ Touches [.clk, .regs, .rtrs] s r) ∧
  (∀ (t x out cls i k : Nat) (w : Moving) (rest : List Moving) (s m : State), m = s.masterTime t → (s.panel (panelOf x)).fabricOn = true →
    m.stamped x out = false → s.routerPick x out = some (cls, i) → k = bufKey (i / 2) cls (i % 2) → (s.rtr x).buf k = w :: rest →
    (s.rtr x).waits = [] → (∀ cl, cl < 3 → vcFree ((s.rtr x).buf (bufKey 5 cl 0)) = true) →
    (isMulticast w = false →
      (out = 4 ∨ (out = 5 ∧ ∃ p, w.pkt = .request p ∧ p.addr / 2 ^ 44 ≠ 15) → pktFlits w.pkt ≤ w.sent + 1 → w.hurt = false →
        Completes (exec (.routerForward t x out 0) s) fun r => (r.rtr x).buf k = rest ∧
          (r.rtr x).ejected = (s.rtr x).ejected ++ [w.pkt] ∧ r.reg (.rtr x .flits) = satReg (s.reg (.rtr x .flits)) 1 ∧ RtrsAlone [x] s r ∧
          RegsAlone [.rtr x .flits, .rtr x .hold] s r ∧ Touches [.clk, .regs, .rtrs] s r) ∧
      (out = 4 → pktFlits w.pkt ≤ w.sent + 1 → (s.bay (bayOf x)).vote.cause = 0 → (s.bay (bayOf x)).vote.frozen = false →
        Completes (exec (.routerForward t x out 2) s) fun r => (r.rtr x).buf k = rest ∧ (r.rtr x).ejected = (s.rtr x).ejected ++ [w.pkt] ∧
          (r.bay (bayOf x)).vote.cause = 2) ∧
      (out < 4 → w.sent = 0 → 1 < pktFlits w.pkt → nextRouter x out ≠ x → Completes (exec (.routerForward t x out 0) s) fun r =>
        (r.rtr x).buf k = { w with sent := 1 } :: rest ∧ (r.rtr (landing x cls i out).1).buf (landing x cls i out).2 =
          (s.rtr (landing x cls i out).1).buf (landing x cls i out).2 ++ [{ w with got := 1, sent := 0, mark := none, tree := [] }] ∧
        RtrsAlone [x, nextRouter x out] s r ∧ RegsAlone [.rtr x .flits, .rtr x .hold] s r ∧ Touches [.clk, .regs, .rtrs] s r) ∧
      (4 ≤ out → complete w = true → Completes (exec (.routerForward t x out 1) s) fun r => (r.rtr x).buf k = rest ∧ (r.rtr x).ejected = (s.rtr x).ejected ∧
        r.reg (.rtr x .ue) = satReg (s.reg (.rtr x .ue)) 1 ∧ Raised s r (192 + panelOf x) 0x26 (locMu x % 2 ^ 32) 4 0 0 ∧
        Touches [.clk, .regs, .rtrs, .evt, .rel] s r)) ∧
    (∀ (mc : Multicast) (up e up' e' n : Nat), w.pkt = .multicast mc up' e' → w.mark = some (up, e) → Assoc.find? w.tree out = some n →
      (out < 4 → n = 0 → 1 < pktFlits w.pkt → nextRouter x out ≠ x → Completes (exec (.routerForward t x out 0) s) fun r =>
        (r.rtr x).buf k = w.advance out :: rest ∧ (r.rtr (landing x cls i out).1).buf (landing x cls i out).2 =
          (s.rtr (landing x cls i out).1).buf (landing x cls i out).2 ++ [{ w with pkt := .multicast mc up e, got := 1, sent := 0, mark := none, tree := [] }] ∧
        RtrsAlone [x, nextRouter x out] s r ∧ RegsAlone [.rtr x .flits, .rtr x .hold] s r ∧ Touches [.clk, .regs, .rtrs] s r) ∧
      (∀ (off v : Nat), Inv s → out = 4 → pktFlits w.pkt ≤ n + 1 → w.hurt = false → mc.srcExt = false → up ≠ x → (s.bay (bayOf x)).power = .active →
        s.stale mc.stitchLo = false → off = mcOffset mc.offset → off < 0x30000 → v = off / 16 →
        (s.muWins x).any (fun q => q.admits mc.ctx true off (16 * mc.data.length) (.cluster mc.src)) = true →
        (∀ j, j < mc.data.length → s.muPlace x (v + j) = .plain (v + j)) → Completes (exec (.routerForward t x out 0) s) fun r =>
          (∀ j, j < mc.data.length → r.word (devAddr x (16 * (v + j))) = mc.data.getD j 0) ∧ MemAlone (devAddr x (16 * v)) (16 * mc.data.length) s r ∧
          (r.mu x).replies = (s.mu x).replies ++ [.mcAck up e 0 mc.ctx mc.stitchLo] ∧ MusAlone [x] s r ∧ RtrsAlone [x] s r ∧
          r.evt = s.evt ∧ RegsAlone [.rtr x .flits, .rtr x .hold] s r))) ∧
  (∀ (t x i up e : Nat) (mc : Multicast) (w : Moving) (rest : List Moving) (bs : List Nat) (s : State), (s.panel (panelOf x)).fabricOn = true → i < 12 →
    (∀ j, j < i → s.mcHead x j mc = false) → (s.rtr x).buf (bufKey (i / 2) 2 (i % 2)) = w :: rest → w.bad = false → w.mark = none → w.pkt = .multicast mc up e →
    bs = mcBranches mc x (i / 2) →
    (bs.length ≤ 1 → Completes (exec (.multicastReplicate t x mc) s) fun r =>
      (r.rtr x).buf (bufKey (i / 2) 2 (i % 2)) = { w with mark := some (up, e), tree := bs.map (fun o => (o, 0)) } :: rest ∧
      (r.rtr x).combine = (s.rtr x).combine ∧ RtrsAlone [x] s r ∧ Touches [.clk, .rtrs] s r) ∧
    (∀ f, 1 < bs.length → f < 8 → (∀ j, j < f → (Assoc.find? (s.rtr x).combine j).isSome = true) → Assoc.find? (s.rtr x).combine f = none →
      Completes (exec (.multicastReplicate t x mc) s) fun r =>
        (r.rtr x).buf (bufKey (i / 2) 2 (i % 2)) = { w with mark := some (x, f), tree := bs.map (fun o => (o, 0)) } :: rest ∧
        Assoc.find? (r.rtr x).combine f = some ⟨up, e, bs.length, 0, mc⟩ ∧ RtrsAlone [x] s r ∧ Touches [.clk, .rtrs] s r) ∧
    (1 < bs.length → (∀ j, j < 8 → (Assoc.find? (s.rtr x).combine j).isSome = true) → Completes (exec (.multicastReplicate t x mc) s) (Touches [.clk] s))) ∧
  (∀ (t : Nat) (mc : Multicast) (s : State), (s.panel (panelOf mc.src)).fabricOn = true → (∀ i, i < 12 → s.mcHead mc.src i mc = false) → mc.srcExt = true →
    (s.rtr mc.src).buf (bufKey 5 2 0) = [] → (s.rtr mc.src).waits = [] →
    (s.mcRefused mc = false → s.controlRouter = mc.src → s.reachable mc.src mc.src = true → Completes (exec (.multicastReplicate t mc.src mc) s) fun r =>
      (∃ w, (r.rtr mc.src).buf (bufKey 5 2 0) = [w] ∧ w.pkt = .multicast mc mc.src 255 ∧ w.got = min 8 (2 + mc.data.length) ∧ w.sent = 0) ∧
      RtrsAlone [mc.src] s r ∧ Touches [.clk, .rtrs] s r) ∧
    (s.controlRouter ≠ mc.src → Completes (exec (.multicastReplicate t mc.src mc) s) (Touches [.clk] s)) ∧
    (s.mcRefused mc = true → Completes (exec (.multicastReplicate t mc.src mc) s) (Touches [.clk] s))) ∧
  (∀ (t x e st : Nat) (c : Combine) (s : State), (s.panel (panelOf x)).fabricOn = true → (s.rtr x).ejected = [] → e < 255 →
    Assoc.find? (s.rtr x).combine e = some c →
    (1 < c.branches → Completes (exec (.multicastAckCombine t x e st) s) fun r =>
      r.rtr x = { s.rtr x with combine := Assoc.set (s.rtr x).combine e { c with branches := c.branches - 1, status := max c.status st } } ∧ RtrsAlone [x] s r ∧
      Touches [.clk, .rtrs] s r) ∧
    (c.branches ≤ 1 → c.up ≠ x → Completes (exec (.multicastAckCombine t x e st) s) fun r => Assoc.find? (r.rtr x).combine e = none ∧
      r.mu x = { s.mu x with replies := (s.mu x).replies ++ [.mcAck c.up c.upEntry (max c.status st) c.mc.ctx c.mc.stitchLo] } ∧ RtrsAlone [x] s r ∧ MusAlone [x] s r ∧
      Touches [.clk, .mus, .rtrs] s r)) ∧
  (∀ (t u a e w : Nat) (p : MeshResponse) (x : Xfer) (v : Word) (s : State), Inv s → u = 4 * p.dst + p.unit → p.unit < 4 → (s.panel (panelOf p.dst)).fabricOn = true →
    (s.bay (bayOf p.dst)).power = .active → (s.rtr p.dst).ejected = [] → s.portHeld p.dst p.unit 6 = false →
    (p.dstExt = true → siteAt p.dst = none → Completes (exec (.meshResponseReceive t p) s) (Touches [.clk] s)) ∧
    (p.dstExt = false → s.stale p.stitchLo = false → (s.cu u).dma.active = [x] → x.slots = [(p.tag, a, e)] → p.status = 0 → p.type = 0 → p.data = [v] → localPlace u a = some (0, w) →
      Completes (exec (.meshResponseReceive t p) s) fun r => (r.cu u).dma.active = [{ x with slots := [] }] ∧ r.word (spAddr u (16 * w)) = v ∧
        MemAlone (spAddr u (16 * w)) 16 s r ∧ CusAlone [u] s r ∧ Touches [.clk, .mem, .errs, .cus, .rtrs, .bays] s r) ∧
    (p.dstExt = false → s.stale p.stitchLo = true → Completes (exec (.meshResponseReceive t p) s) fun r => r.reg (.cu u .msgDiscard) = satReg (s.reg (.cu u .msgDiscard)) 1 ∧
      r.cus = s.cus ∧ RegsAlone [.cu u .msgDiscard] s r ∧ Touches [.clk, .regs, .rtrs] s r)) ∧
  (∀ (t c x off w : Nat) (p : MeshPacket) (s m : State), Inv s → c = addrCluster p.addr → m = s.bayTime (bayOf c) t → off = p.addr % 2 ^ 26 → p.addr / 2 ^ 44 = 8 →
    p.addr / 2 ^ 26 % 2 ^ 9 < 432 → (s.panel (panelOf c)).fabricOn = true → (s.bay (bayOf c)).power = .active → (s.rtr c).ejected = [] →
    s.stale p.stitchLo = false → p.cls = 0 → p.type = 1 → p.src = .cluster x → off < 0x30000 → w = off / 16 → s.portHeld c 6 0 = false →
    ((s.muWins c).any (fun v => v.admits p.ctx true off (16 * p.data.length) p.src) = true →
      (∀ i, i < p.data.length → s.muPlace c (w + i) = .plain (w + i)) → Completes (exec (.remoteAccess t p) s) fun r =>
        (∀ i, i < p.data.length → r.word (devAddr c (16 * (w + i))) = p.data.getD i 0) ∧ MemAlone (devAddr c (16 * w)) (16 * p.data.length) s r ∧
        (∃ q, (r.mu c).replies = (s.mu c).replies ++ [.response q] ∧ q.status = 0 ∧ q.dst = x ∧ q.dstExt = false ∧ q.tag = p.tag ∧ q.unit = p.unit) ∧ MusAlone [c] s r ∧ r.cus = s.cus) ∧
    ((s.muWins c).any (fun v => v.admits p.ctx true off (16 * p.data.length) p.src) = false → Completes (exec (.remoteAccess t p) s) fun r =>
        r.mem = s.mem ∧ (∃ q, (r.mu c).replies = (s.mu c).replies ++ [.response q] ∧ q.status = 1 ∧ q.dst = x ∧ q.dstExt = false ∧ q.tag = p.tag) ∧
        r.reg (.mu c .winMiss) = satReg (s.reg (.mu c .winMiss)) 1 ∧ Raised s r (bayOf c) 0x25 off (senderL p.src p.unit % 2 ^ 32) (locMu c % 2 ^ 32) (p.ctx % 2 ^ 32)))

/-- R40, R247, R255, R256, R258, R259, R260, R261, R262, R263: message channels. The message at the head of its channel goes out in parts of at
most 16 units; a message that fits its ring is written and acknowledged, one for a ring that is not enabled is answered with status 5; one that finds every tracker busy
(log entry 52) has no answer before its last part; the
answer ends the message, or one that found no space is sent again 32 ns later; a release frees the oldest message of a ring, and WAIT sees its count go down three cycles later. -/
def Obligations.MessagesCross : Prop :=
  (∀ (t u ch n : Nat) (c : Chan) (j : SendJob) (rest : List SendJob) (s : State), s.engineRuns u = true → c = Assoc.get Chan.reset (s.cu u).msg.chans ch →
    c.queue = j :: rest → c.injected < j.units → c.retryAt = none → n = min 16 (j.units - c.injected) → Completes (exec (.messageSendInject t u ch) s) fun r =>
      Assoc.get Chan.reset (r.cu u).msg.chans ch = { c with flying := true, injected := c.injected + n } ∧
      (∃ p, (r.cu u).msg.out = (s.cu u).msg.out ++ [p] ∧ p.src = u ∧ p.chan = ch ∧ p.dst = (s.chanDest u ch).1 ∧ p.ring = (s.chanDest u ch).2 ∧ p.units = j.units ∧
        p.part = c.injected ∧ p.stitchLo = s.stitchLo 2 ∧ p.data.length = n ∧
        (c.injected = 0 → p.data.getD 0 0 = msgHeader j.units 0 j.seq (clX (u / 4)) (clY (u / 4)) (u % 4) ch)) ∧ CusAlone [u] s r) ∧
  (∀ (t u o old : Nat) (sum : Int) (p : MsgPart) (h : Word) (c : RingCfg) (y : Ring) (s : State), Inv s → u = p.dst → (s.panel (panelOf (u / 4))).fabricOn = true →
    (s.bay (bayOfCu u)).power = .active → (s.rtr (u / 4)).ejected = [] → (s.cu u).msg.trackers = [] → s.stale p.stitchLo = false → p.ctx = s.active →
    (old, sum) = (s.cu u).sync.made s.bank c.sigCounter (s.bay (bayOfCu u)).cycle → p.part = 0 → p.units = 1 → p.data = [h] → c = s.ringCfg u p.ring →
    (c.en = true → (s.cuWins u).any (fun w => w.admits p.ctx true (16 * c.base) (16 * c.units) (.cluster (p.src / 4))) = true →
      placeIn ((s.cu u).msg.ring p.ring) c.units 1 = some (o, 0, y) → Completes (exec (.messageArrival t p) s) fun r =>
        r.word (spAddr u (16 * (c.base + o))) = h ∧ (r.cu u).msg.ring p.ring = y ∧ (r.cu u).msg.trackers = [] ∧
        (r.mu (u / 4)).replies = (s.mu (u / 4)).replies ++ [.ack p.src p.chan 0 p.ctx p.stitchLo] ∧
        (c.sig = true → Assoc.get 0 (r.cu u).sync.banks (syncKey s.bank c.sigCounter) = min 0xFFFF (old + (sum + 1)).toNat) ∧
        MemAlone (spAddr u (16 * (c.base + o))) 16 s r ∧ CusAlone [u] s r ∧ MusAlone [u / 4] s r) ∧
    (c.en = false → Completes (exec (.messageArrival t p) s) fun r => (r.mu (u / 4)).replies = (s.mu (u / 4)).replies ++ [.ack p.src p.chan 5 p.ctx p.stitchLo] ∧
      r.reg (.cu u .msgInNack) = satReg (s.reg (.cu u .msgInNack)) 1 ∧ r.mem = s.mem ∧ (r.cu u).msg.rings = (s.cu u).msg.rings ∧ RegsAlone [.cu u .msgInNack] s r)) ∧
  (∀ (t u : Nat) (p : MsgPart) (c : RingCfg) (s : State), u = p.dst → (s.panel (panelOf (u / 4))).fabricOn = true → (s.bay (bayOfCu u)).power = .active →
    (s.rtr (u / 4)).ejected = [] → s.stale p.stitchLo = false → p.ctx = s.active → c = s.ringCfg u p.ring → c.en = true →
    (s.cuWins u).any (fun w => w.admits p.ctx true (16 * c.base) (16 * c.units) (.cluster (p.src / 4))) = true → (s.cu u).msg.tracker p.src p.chan = none →
    16 ≤ ((s.cu u).msg.trackers.filter (fun x => !x.unheld)).length → p.data.length < p.units → Completes (exec (.messageArrival t p) s) fun r =>
      (r.cu u).msg.trackers = (s.cu u).msg.trackers ++ [⟨p.src, p.chan, p.ring, 3, 0, p.units, [p.part], p.units - p.data.length, true⟩] ∧
      (r.cu u).msg.rings = (s.cu u).msg.rings ∧ CusAlone [u] s r ∧ Touches [.clk, .cus] s r) ∧
  (∀ (t u : Nat) (p : MsgPart) (x : Tracker) (h : Word) (s : State), Inv s → u = p.dst → (s.panel (panelOf (u / 4))).fabricOn = true →
    (s.bay (bayOfCu u)).power = .active → (s.rtr (u / 4)).ejected = [] → s.stale p.stitchLo = false → (s.cu u).msg.trackers = [x] → x.src = p.src → x.chan = p.chan →
    x.status = 0 → p.part ∉ x.got → p.data = [h] → 1 < x.left → Completes (exec (.messagePartArrival t p) s) fun r =>
      r.word (spAddr u (16 * ((s.ringCfg u x.ring).base + x.offset + p.part))) = h ∧ (r.cu u).msg.trackers = [{ x with got := x.got ++ [p.part], left := x.left - 1 }] ∧
      MemAlone (spAddr u (16 * ((s.ringCfg u x.ring).base + x.offset + p.part))) 16 s r ∧ CusAlone [u] s r ∧ Touches [.clk, .mem, .errs, .cus, .rtrs] s r) ∧
  (∀ (t u ch : Nat) (c : Chan) (s m : State), s.engineRuns u = true → m = s.masterTime t → c = Assoc.get Chan.reset (s.cu u).msg.chans ch → c.flying = true →
    c.retryAt = none → (s.rtr (u / 4)).ejected = [] →
    ((s.regN (.chan u ch 1)).testBit 31 = false → Completes (exec (.messageResponse t u ch 0) s) fun r =>
      Assoc.get Chan.reset (r.cu u).msg.chans ch = { c with queue := c.queue.drop 1, flying := false, injected := 0, retries := 0, retryAt := none } ∧
      r.reg (.cu u .msgOutOk) = satReg (s.reg (.cu u .msgOutOk)) 1 ∧ RegsAlone [.cu u .msgOutOk] s r ∧ CusAlone [u] s r ∧ Touches [.clk, .regs, .cus] s r) ∧
    (c.retries < s.regN (.chan u ch 0) / 2 ^ 27 % 2 ^ 4 → Completes (exec (.messageResponse t u ch 3) s) fun r =>
      Assoc.get Chan.reset (r.cu u).msg.chans ch = { c with retryAt := some (m.clk.ns + 32) } ∧ CusAlone [u] s r ∧ Touches [.clk, .cus] s r)) ∧
  (∀ (t u ch a : Nat) (c : Chan) (s m : State), s.engineRuns u = true → m = s.masterTime t → c = Assoc.get Chan.reset (s.cu u).msg.chans ch → c.retryAt = some a →
    a ≤ m.clk.ns → Completes (exec (.messageRetry t u ch) s) fun r =>
      Assoc.get Chan.reset (r.cu u).msg.chans ch = { c with retryAt := none, injected := 0, retries := c.retries + 1 } ∧
      r.reg (.cu u .msgRetry) = satReg (s.reg (.cu u .msgRetry)) 1 ∧ RegsAlone [.cu u .msgRetry] s r ∧ CusAlone [u] s r ∧ Touches [.clk, .regs, .cus] s r) ∧
  (∀ (t u k v n z old : Nat) (sum : Int) (p : Bool) (rest : List (Nat × Bool)) (s m : State), m = s.bayTime (bayOfCu u) t → m.engineRuns u = true →
    z = (m.bay (bayOfCu u)).cycle → (s.ringCfg u k).en = true → (Assoc.get Ring.reset (s.cu u).msg.rings k).held = (n, p) :: rest → p = false →
    v = syncKey s.bank (s.ringCfg u k).relCounter → (old, sum) = (s.cu u).sync.made s.bank (s.ringCfg u k).relCounter z →
    0 < Assoc.get 0 (s.cu u).sync.banks v → Completes (exec (.ringRelease t u k) s) fun r => (Assoc.get Ring.reset (r.cu u).msg.rings k).held = rest ∧
      (Assoc.get Ring.reset (r.cu u).msg.rings k).wp = (if rest = [] then 0 else (Assoc.get Ring.reset (s.cu u).msg.rings k).wp) ∧
      Assoc.get 0 (r.cu u).sync.banks v = min 0xFFFF (old + (sum - 1)).toNat ∧
      ((s.cu u).sync.recent = [] → ∀ d, d < z + 3 → (r.cu u).sync.visible s.bank (s.ringCfg u k).relCounter d = old) ∧
      (old + sum ≤ 0xFFFF → LaneFrame u s r) ∧ CusAlone [u] s r ∧ BaysAlone [bayOfCu u] s r ∧ Touches [.regs, .bays, .cus, .evt] s r)

/-! ### Launch entries and external memory -/

/-- R24, R278, R279, R291: a write of an action word in the window of a bay that does not answer is an address fault. An action word of a kind other than 0 arms its entry with the target held, kind 0 disarms it; an armed entry whose target
has come fires once and does what its action word says. That the write of an action word is the
host's, source 360 with requester word 0xFFFFFFFF, is the model's choice (log entry 45). -/
def Obligations.LaunchEntriesFire : Prop :=
  (∀ (t b e w : Nat) (a : BitVec 32) (s : State), s.unreached (.launchAction b e) = some w → e < 8 →
    (a.toNat / 2 ^ 30 ≠ 0 → Completes (exec (.launchEntryArm t b e a) s) fun r => Raised s r 360 0x20 (w % 2 ^ 32) (w / 2 ^ 32 % 2 ^ 32) 0xFFFFFFFF 2 ∧
      (r.bay b).entries = (s.bay b).entries ∧ RegsAlone (bayClockRegs b) s r ∧ Touches [.regs, .bays, .evt] s r) ∧
    (a.toNat / 2 ^ 30 = 0 → Completes (exec (.launchEntryDisarm t b e a) s) fun r => Raised s r 360 0x20 (w % 2 ^ 32) (w / 2 ^ 32 % 2 ^ 32) 0xFFFFFFFF 2 ∧
      (r.bay b).entries = (s.bay b).entries ∧ RegsAlone (bayClockRegs b) s r ∧ Touches [.regs, .bays, .evt] s r)) ∧
  ∀ (t b e : Nat) (s m : State), m = s.bayTime b t → (s.bay b).power = .active →
    (∀ (a : BitVec 32) (x : LaunchEntry), e < 8 → a.toNat / 2 ^ 30 ≠ 0 →
      x = { target := s.regN (.launchTarget b e), armed := true, armedAt := (m.bay b).cycle + 1, late := decide (s.regN (.launchTarget b e) ≤ m.bayTs b), state := 1, again := none, firedAt := none } →
      Completes (exec (.launchEntryArm t b e a) s) fun r =>
        (r.bay b).entries = Assoc.set (s.bay b).entries e x ∧ r.reg (.launchAction b e) = regOf a.toNat ∧ BaysAlone [b] s r ∧
        RegsAlone (.launchAction b e :: bayClockRegs b) s r ∧ Touches [.regs, .bays] s r) ∧
    (∀ (a : BitVec 32), e < 8 → a.toNat / 2 ^ 30 = 0 → Completes (exec (.launchEntryDisarm t b e a) s) fun r =>
      (Assoc.get LaunchEntry.reset (r.bay b).entries e).armed = false ∧ (Assoc.get LaunchEntry.reset (r.bay b).entries e).state = 0 ∧
      (∀ k, k ≠ e → Assoc.get LaunchEntry.reset (r.bay b).entries k = Assoc.get LaunchEntry.reset (s.bay b).entries k) ∧
      r.reg (.launchAction b e) = regOf a.toNat ∧ BaysAlone [b] s r ∧ RegsAlone (.launchAction b e :: bayClockRegs b) s r ∧ Touches [.regs, .bays] s r) ∧
    (∀ (x : LaunchEntry) (a : Nat), a = s.regN (.launchAction b e) → x = Assoc.get LaunchEntry.reset (s.bay b).entries e → m.launchDue b e = true →
      (∀ i, i < e → m.launchDue b i = false) → x.late = false →
      (∀ (u k old : Nat) (sum : Int), m.launchVoid b = false → a / 2 ^ 30 % 4 = 1 → a / 2 ^ 19 % 2 ^ 6 < 36 → u = 4 * clusterIn b (a / 2 ^ 25 % 2 ^ 5) (a / 2 ^ 19 % 2 ^ 6) + a / 2 ^ 17 % 4 →
        k = a / 2 ^ 12 % 2 ^ 5 → (old, sum) = (s.cu u).sync.made s.bank k (m.bay (bayOfCu u)).cycle → Completes (exec (.launchEntryFire t b e) s) fun r =>
          Assoc.get 0 (r.cu u).sync.banks (syncKey s.bank k) = min 0xFFFF (old + (sum + (a % 2 ^ 12 : Nat))).toNat ∧
          (Assoc.get LaunchEntry.reset (r.bay b).entries e).armed = false ∧ (Assoc.get LaunchEntry.reset (r.bay b).entries e).state = 2 ∧ CusAlone [u] s r) ∧
      (a / 2 ^ 30 % 4 = 3 → e < 8 → Completes (exec (.launchEntryFire t b e) s) fun r => Raised s r b 8 e (x.target % 2 ^ 32) (x.target / 2 ^ 32 % 2 ^ 32) 0 ∧
        (Assoc.get LaunchEntry.reset (r.bay b).entries e).armed = false ∧ (Assoc.get LaunchEntry.reset (r.bay b).entries e).state = 2 ∧ BaysAlone [b] s r ∧
        RegsAlone (bayClockRegs b) s r ∧ Touches [.regs, .bays, .evt] s r))

/-- R242, R296, R299, R303, R305, R307, R404: external memory. A write outside versioned pages lands in place, one to a versioned page in its
shadow; a read is answered with the word and counts a corrected or an uncorrectable one; a pseudo-channel that fails recalibration twice
running in a session is lost; patrol mends a stripe word by word. -/
def Obligations.ExternalMemory : Prop :=
  (∀ (t a : Nat) (data : List Byte) (s : State), Inv s → (s.rtr (s.hbmRouter a)).ejected = [] → a % 16 = 0 → data.length = 16 → a + 16 ≤ s.capacity →
    ((∀ p ∈ s.hbm.pages, p.base + 0x20000 ≤ a ∨ a + 16 ≤ p.base) → s.hbmFailed a = false → Completes (exec (.hbmWrite t a data) s) fun r =>
      r.word a = BitVec.ofNat 128 (leNat data) ∧ r.errs.get [] (a / 16) = [] ∧ MemAlone a 16 s r ∧ Touches [.clk, .mem, .errs, .ctxs, .hbm] s r) ∧
    (∀ (p : VPage), s.pageOf a = some p → s.pageOf (a + 15) = some p → p.imp = none → a + 16 ≤ p.base + 0x10000 → (a - p.base) / 256 ∈ p.wr →
      p.base + 256 * ((a - p.base) / 256) ∉ s.twin.frozen →
      s.hbmFailed (s.hbmShadowAt a) = false → Completes (exec (.hbmWrite t a data) s) fun r =>
        r.word (s.hbmShadowAt a) = BitVec.ofNat 128 (leNat data) ∧ r.word (s.hbmReadAt a) = s.word (s.hbmReadAt a) ∧ MemAlone (s.hbmShadowAt a) 16 s r ∧
        r.hbm.pages = s.hbm.pages ∧ Touches [.clk, .mem, .errs, .ctxs, .hbm] s r)) ∧
  (∀ (t a st : Nat) (s : State), st = (s.hbmPlace a).stack → a % 16 = 0 → a + 16 ≤ s.capacity → (∀ p ∈ s.hbm.pages, p.base + 0x20000 ≤ a ∨ a + 16 ≤ p.base) →
    s.hbmFailed a = false →
    ((s.rtr (s.hbmRouter a)).ejected = [] → s.errs.get [] (a / 16) = [] → Completes (exec (.hbmRead t a) s) fun r => Touches [.clk] s r) ∧
    (∀ e, (s.rtr (s.hbmRouter a)).ejected = [] → s.errs.get [] (a / 16) = [e] → Completes (exec (.hbmRead t a) s) fun r => r.mem = s.mem ∧ r.errs = s.errs ∧
      r.reg (.hbm st .ce) = satReg (s.reg (.hbm st .ce)) 1 ∧ r.reg (.rel .ce) = satReg (s.reg (.rel .ce)) 1 ∧ RegsAlone [.hbm st .ce, .rel .ce] s r ∧ r.evt = s.evt) ∧
    (∀ e f, (s.rtr (s.hbmRouter a)).ejected = [] → s.errs.get [] (a / 16) = [e, f] → s.stitch.votes.find? (192 + st) = none → Assoc.get 0 s.hbm.voids st = 0 →
      Completes (exec (.hbmRead t a) s) fun r => r.mem = s.mem ∧ r.reg (.hbm st .ue) = satReg (s.reg (.hbm st .ue)) 1 ∧ Assoc.get 0 r.hbm.voids st = 2 ∧
        (∃ v ∈ r.evt.inflight, v.source = 240 + st ∧ v.kind = 0x26 ∧ v.w1 = 5 ∧ v.w2 = a % 2 ^ 32)) ∧
    (∀ (c x : Nat) (q : MeshPacket), x = s.hbmRouter a → (s.rtr x).ejected = [.request q] → q.addr = a → q.cls = 0 → q.type = 0 → q.len = 1 → q.src = .cluster c →
      s.errs.get [] (a / 16) = [] → (s.rtr x).waits = [] → vcFree ((s.rtr x).buf (bufKey 5 1 0)) = true → flitsIn ((s.rtr x).buf (bufKey 5 1 0)) < 8 → s.reachable x c = true →
      Completes (exec (.hbmRead t a) s) fun r => (r.rtr x).ejected = [] ∧
        (∃ w y, ((r.rtr x).buf (bufKey 5 1 0)) = (s.rtr x).buf (bufKey 5 1 0) ++ [w] ∧ w.pkt = .response y ∧ y.data = [s.word a] ∧ y.status = 0 ∧ y.dst = c ∧ y.dstExt = false ∧ y.tag = q.tag) ∧
        RtrsAlone [x] s r ∧ Touches [.clk, .rtrs] s r)) ∧
  (∀ (t st pc temp q : Nat) (s : State), q = 24 * pc + st → q ∈ s.hbm.mapped →
    Completes (exec (.hbmRecalibration t st pc true temp) s) (fun r => Assoc.get 0 r.hbm.recals q = 0 ∧ Assoc.get 0 r.hbm.temps st = temp ∧
      r.hbm.failed = s.hbm.failed ∧ RegsAlone [.hbm st .status] s r ∧ Touches [.clk, .regs, .hbm] s r) ∧
    (Assoc.get 0 s.hbm.recals q = 1 → s.stitch.session = true → q ∉ s.hbm.failed → Completes (exec (.hbmRecalibration t st pc false temp) s) fun r =>
      q ∈ r.hbm.failed ∧ (∃ v ∈ r.evt.inflight, v.source = 240 + st ∧ v.kind = 0x28 ∧ v.w0 = pc % 2 ^ 32) ∧
      (s.stitch.votes.find? (192 + st) = none → Assoc.get 0 s.hbm.voids st = 0 → Assoc.get 0 r.hbm.voids st = 2) ∧
      (∃ y, r.stackRecord st = some y ∧ pc ∈ y.out) ∧ r.mem = s.mem)) ∧
  (∀ (t st pc q n a : Nat) (s : State), Inv s → q = 24 * pc + st → q ∈ s.hbm.mapped → q ∉ s.hbm.failed → n = Assoc.get 0 s.hbm.patrol (64 * st + pc) →
    a = s.stripeAddr q n →
    ((∀ i, i < 32 → s.errs.get [] ((a + 16 * i) / 16) = []) → Completes (exec (.hbmPatrol t st pc) s) fun r =>
      r.hbm = { s.hbm with patrol := Assoc.set s.hbm.patrol (64 * st + pc) ((n + 1) % 1766022) } ∧ Touches [.clk, .hbm] s r) ∧
    (∀ k e, k < 32 → s.errs.get [] ((a + 16 * k) / 16) = [e] → (∀ i, i < 32 → i ≠ k → s.errs.get [] ((a + 16 * i) / 16) = []) →
      Completes (exec (.hbmPatrol t st pc) s) fun r => r.errs.get [] ((a + 16 * k) / 16) = [] ∧ r.word (a + 16 * k) = s.word (a + 16 * k) ∧
        Assoc.get 0 r.hbm.patrol (64 * st + pc) = (n + 1) % 1766022 ∧ MemAlone (a + 16 * k) 16 s r ∧ r.evt = s.evt))

/-! ### The host interface -/

/-- R315, R316, R317, R320, R322, R323, R324, R325, R335, R336: Ronnus. An agreement opens the doorbells; without one, and for a count the ring cannot
hold, an event says so; a DMA channel takes its descriptor, its buffers and its data, and stops with the status of what is wrong, which is 1 where an address out of
range is one of several (log entry 81, the model's choice). A completion that is malformed, has an ECRC error or is not expected is reported and discarded, and the read
goes on waiting (log entry 74, the model's choice). -/
def Obligations.QueuesAndDma : Prop :=
  (∀ (t : Nat) (v : BitVec 32) (s : State),
    (1 ≤ v.toNat / 2 ^ 24 → v.toNat / 2 ^ 16 % 2 ^ 8 ≤ 1 → Completes (exec (.hostVersionWrite t v) s) fun r => r.regN (.ver 0 4) = 2 ^ 31 + 2 ^ 16 ∧
      r.regN (.ver 0 5) = v.toNat % 2 ∧ r.ronnus = true ∧ r.evt = s.evt ∧ RegsAlone [.host .version, .ver 0 2, .ver 0 3, .ver 0 4, .ver 0 5] s r ∧ Touches [.clk, .regs] s r) ∧
    (v.toNat / 2 ^ 24 = 0 ∨ 1 < v.toNat / 2 ^ 16 % 2 ^ 8 → Completes (exec (.hostVersionWrite t v) s) fun r => r.regN (.ver 0 4) = 2 ^ 30 ∧ r.ronnus = false ∧
      Raised s r 360 0x53 0 0x01010000 (v.toNat / 2 ^ 16 * 2 ^ 16) 0 ∧ Touches [.clk, .regs, .evt] s r)) ∧
  (∀ (t q h d : Nat) (v : BitVec 32) (s : State), h = s.regN (.qp q .inHead) → d = dist32 v.toNat h → q < 64 → s.host.linkUp = true →
    (s.host.held.any Held.isWrite = true → Completes (exec (.qpInTail t q v) s) fun r => r.host = { s.host with held := s.host.held ++ [.bar2 (.qp q .inTail) .whole (regOf v.toNat)] } ∧
      Touches [.clk, .host] s r) ∧
    (s.host.held.any Held.isWrite = false →
    (s.ronnus = true → s.qpOn q = true → dist32 (s.regN (.qp q .inTail)) h ≤ d → d ≤ s.qpInSize q → Completes (exec (.qpInTail t q v) s) fun r =>
      r.reg (.qp q .inTail) = regOf v.toNat ∧ RegsAlone [.qp q .inTail] s r ∧ Touches [.clk, .regs, .host] s r) ∧
    (s.ronnus = true → s.qpOn q = true → s.qpInSize q < d → Completes (exec (.qpInTail t q v) s) fun r => r.regs = s.regs ∧
      Raised s r (384 + q) 0x60 0 v.toNat ((h + s.qpInSize q) % 2 ^ 32) 0 ∧ Touches [.clk, .evt] s r) ∧
    (s.ronnus = false ∨ s.qpOn q = false → Completes (exec (.qpInTail t q v) s) fun r => Raised s r 360 0x64 (4096 * q + 0x18) v.toNat 0 0 ∧ Touches [.clk, .evt] s r))) ∧
  (∀ (t q d : Nat) (v : BitVec 32) (c : Instr) (s : State), c ∈ [.qpInTail t q v, .qpOutHead t q v, .dmaTail t d v, .dmaRestart t d] → s.host.linkUp = false →
    Completes (exec c s) (Touches [.clk] s)) ∧
  (∀ (t q h : Nat) (v : BitVec 32) (s : State), h = s.regN (.qp q .outHead) → q < 64 → s.host.linkUp = true → s.host.held.any Held.isWrite = false →
    (s.ronnus = true → s.qpOn q = true → dist32 v.toNat h ≤ dist32 (s.regN (.qp q .outTail)) h → Completes (exec (.qpOutHead t q v) s) fun r =>
      r.reg (.qp q .outHead) = regOf v.toNat ∧ RegsAlone [.qp q .outHead] s r ∧ Touches [.clk, .regs, .host] s r) ∧
    (dist32 (s.regN (.qp q .outTail)) h < dist32 v.toNat h → Completes (exec (.qpOutHead t q v) s) fun r =>
      Raised s r 360 0x64 (4096 * q + 0x24) v.toNat 0 0 ∧ Touches [.clk, .evt] s r)) ∧
  (∀ (t d : Nat) (v : BitVec 32) (s : State) (x : HDma) (y : DmaDescr), x = s.hdma d → y = dmaDescrOf x.words → d < 64 →
    (s.host.linkUp = true → s.host.held.any Held.isWrite = false → s.ronnus = true → Completes (exec (.dmaTail t d v) s) fun r => r.reg (.dma d .tail) = regOf v.toNat ∧ RegsAlone [.dma d .tail] s r ∧ Touches [.clk, .regs] s r) ∧
    (s.host.linkUp = true → s.host.held.any Held.isWrite = false → s.ronnus = false → Completes (exec (.dmaTail t d v) s) fun r => Raised s r 360 0x64 (4096 * (64 + d) + 0xC) v.toNat 0 0 ∧ Touches [.clk, .evt] s r) ∧
    (s.host.linkUp = true → s.host.held.any Held.isWrite = false → x.halted = true → Completes (exec (.dmaRestart t d) s) fun r => (r.hdma d).halted = false ∧ (r.hdma d).running = false ∧ (r.hdma d).done = x.done ∧
      (∀ k, k ≠ d → r.hdma k = s.hdma k) ∧ Touches [.clk, .host] s r) ∧
    (∀ (ws : List (BitVec 32)), x.running = false → x.halted = false → (s.regN (.dma d .ringCfg)).testBit 31 = true → s.regN (.dma d .tail) ≠ x.done → s.hbm.scrubbing = false →
      (s.dmaCheck (dmaDescrOf ws) = 0 → Completes (exec (.dmaDescriptorStart t d ws) s) fun r => r.hdma d = ⟨true, false, x.done, ws, [], 0⟩ ∧
        (∀ k, k ≠ d → r.hdma k = s.hdma k) ∧ Touches [.clk, .host] s r) ∧
      (s.capacity < (dmaDescrOf ws).dev + (dmaDescrOf ws).len → Completes (exec (.dmaDescriptorStart t d ws) s) fun r => (r.hdma d).halted = true ∧ (r.hdma d).done = x.done ∧
        r.hostMem = memWrites s.hostMem (s.dmaDescAt d + 24) (leBytes 4 (2 ^ 31 + 1)) ∧ Raised s r (448 + d) 0x63 ((x.done % s.dmaRing d) % 2 ^ 32) 1 0 0 ∧ r.mem = s.mem)) ∧
    (x.running = true → x.next < y.len → x.buffers.length < s.reserved d → Completes (exec (.dmaBufferRead t d) s) fun r =>
      r.hdma d = { x with buffers := x.buffers ++ [(x.next, min (4096 - (y.host + x.next) % 4096) (y.len - x.next))], next := x.next + min (4096 - (y.host + x.next) % 4096) (y.len - x.next) } ∧ (∀ k, k ≠ d → r.hdma k = s.hdma k) ∧ Touches [.clk, .host] s r) ∧
    (∀ (o a : Nat) (rest : List (Nat × Nat)), x.buffers = (o, 16) :: rest → y.toHost = true → a = y.dev + o → a % 16 = 0 → a + 16 ≤ s.capacity → s.pageOf a = none → s.hbmFailed a = false →
      s.errs.get [] (a / 16) = [] → Completes (exec (.dmaReadCompletion t d .good []) s) fun r => (r.hdma d).buffers = rest ∧
        r.hostMem = memWrites s.hostMem (y.host + o) (leBytes 16 (s.word a).toNat) ∧ Touches [.clk, .host, .hostMem] s r) ∧
    (∀ (ds : List Byte), Completes (exec (.dmaReadCompletion t d .malformed ds) s) (fun r => r.host = { s.host with aer := .malformed :: s.host.aer } ∧ Touches [.clk, .host] s r) ∧
      Completes (exec (.dmaReadCompletion t d .ecrcError ds) s) (fun r => r.host = { s.host with aer := .ecrc :: s.host.aer } ∧ Touches [.clk, .host] s r) ∧
      (x.buffers = [] → s.fetchDue d = false → Completes (exec (.dmaReadCompletion t d .good ds) s) fun r =>
        r.host = { s.host with aer := .unexpected :: s.host.aer } ∧ Touches [.clk, .host] s r) ∧
      (s.spdm.ide.isSome = true → Completes (exec (.dmaReadCompletion t d .offStream ds) s) (Touches [.clk] s)) ∧
      (s.spdm.ide = none → exec (.dmaReadCompletion t d .offStream ds) s = exec (.dmaReadCompletion t d .good ds) s)) ∧
    (x.buffers ≠ [] → y.toHost = false → Completes (exec (.dmaHostReadTimeout t d) s) fun r => (r.hdma d).halted = true ∧ (r.hdma d).buffers = [] ∧
      r.hostMem = memWrites s.hostMem (s.dmaDescAt d + 24) (leBytes 4 (2 ^ 31 + 2)) ∧ Raised s r (448 + d) 0x63 ((x.done % s.dmaRing d) % 2 ^ 32) 2 0 0 ∧
      r.host.aer = .completion :: s.host.aer ∧ r.mem = s.mem) ∧
    (x.running = true → x.buffers = [] → y.len ≤ x.next → y.sig = false → Completes (exec (.dmaDescriptorComplete t d) s) fun r =>
      r.hdma d = ⟨false, x.halted, (x.done + 1) % 2 ^ 32, [], [], 0⟩ ∧ r.hostMem = memWrites s.hostMem (s.dmaDescAt d + 24) (leBytes 4 (2 ^ 31)) ∧
      (y.evt = true → Raised s r (448 + d) 0x62 ((x.done % s.dmaRing d) % 2 ^ 32) 0 0 0) ∧ (y.evt = false → r.evt = s.evt) ∧ Touches [.clk, .host, .hostMem, .evt] s r) ∧
    (x.running = false → x.halted = false → s.regN (.dma d .tail) = x.done →
      (s.reservedSum - s.reserved d + v.toNat % 2 ^ 12 ≤ 2048 → Completes (exec (.hostDmaResWrite t d v) s) fun r => r.regN (.dmaRes d) = v.toNat % 2 ^ 12 ∧
        RegsAlone [.dmaRes d] s r ∧ Touches [.clk, .regs] s r) ∧
      (2048 < s.reservedSum - s.reserved d + v.toNat % 2 ^ 12 → Completes (exec (.hostDmaResWrite t d v) s) fun r => Raised s r 360 0x65 d v.toNat 0 0 ∧
        Touches [.clk, .evt] s r)))

/-- R27: the round robin that every arbiter of the model asks grants the first requesting index found by counting upward from the pointer,
wrapping; EVENT_REPORT is one grant of the event doorbell's arbiter of 4,096 sources: after a grant to g its pointer is g + 1 modulo 4,096, and
without a request it is unchanged. -/
def Obligations.RoundRobinGrants : Prop :=
  (∀ (n p : Nat) (req : Nat → Bool), p < n →
    (∀ g, rrPick n p req = some g ↔ ∃ k, k < n ∧ g = (p + k) % n ∧ req g = true ∧ ∀ j, j < k → req ((p + j) % n) = false) ∧
    (rrPick n p req = none ↔ ∀ i, i < n → req i = false)) ∧
  (∀ (t k g : Nat) (s : State), s.evt.ptr < 4096 → k < 4096 → g = (s.evt.ptr + k) % 4096 → (∃ x ∈ s.evt.inflight, x.source = g) →
    (∀ x ∈ s.evt.inflight, ∀ j, j < k → x.source ≠ (s.evt.ptr + j) % 4096) → Completes (exec (.eventReport t) s) fun r =>
      r.evt.ptr = (g + 1) % 4096 ∧ r.evt.inflight.length + 1 = s.evt.inflight.length ∧
      (∀ n, n ≠ g → r.evt.inflight.filter (fun x => x.source == n) = s.evt.inflight.filter (fun x => x.source == n)) ∧
      Touches [.clk, .regs, .host, .hostMem, .evt, .claims] s r) ∧
  (∀ (t : Nat) (s : State), s.evt.inflight = [] → Completes (exec (.eventReport t) s) fun r => r.evt = s.evt ∧ Touches [.clk] s r)

/-- R328, R329, R330, R332, R334, R337: a report of an enabled source becomes a record of the ring, or waits, and reports that wait merge, at most 255 to
a count; a record is 32 bytes, its fields where R329 puts them, its number counted from 0 at ring enable modulo 2^32; the ring's
head and its enabling; a claim takes the source of highest priority, and completing another one than the last claimed freezes the
controller. -/
def Obligations.EventsAndClaims : Prop :=
  (∀ (t n a : Nat) (x : Report) (s m : State), m = s.masterTime t → Inv s → s.evt.inflight = [x] → x.source < 4096 → s.claimOf x.source = none → (s.regN (.evtSrc x.source)).testBit 31 = true →
    s.ringSize = some n → a = s.regN (.evt .ringBase) + 32 * (s.evt.tail % n) →
    (Assoc.find? s.evt.pending x.source = none → m.ringRoom = true → Completes (exec (.eventReport t) s) fun r => memReads r.hostMem a 32 = recordBytes x 1 s.evt.seq ∧
      r.evt = { s.evt with inflight := [], ptr := (x.source + 1) % 4096, tail := (s.evt.tail + 1) % 2 ^ 32, seq := (s.evt.seq + 1) % 2 ^ 32, headAt := 0 } ∧
      (s.evt.tail ≠ m.ringHead → r.regs = s.regs ∧ r.host = s.host) ∧ (∀ k, ¬(a ≤ k ∧ k < a + 32) → memRead r.hostMem k = memRead s.hostMem k) ∧
      Touches [.clk, .regs, .host, .hostMem, .evt] s r) ∧
    (Assoc.find? s.evt.pending x.source = none → m.ringRoom = false → Completes (exec (.eventReport t) s) fun r =>
      Assoc.find? r.evt.pending x.source = some (x, 1) ∧ r.evt.inflight = [] ∧ r.evt.tail = s.evt.tail ∧ r.hostMem = s.hostMem ∧ Touches [.clk, .evt] s r) ∧
    (∀ y k, Assoc.find? s.evt.pending x.source = some (y, k) → Completes (exec (.eventReport t) s) fun r =>
      Assoc.find? r.evt.pending x.source = some (x, min 255 (k + 1)) ∧ r.evt.inflight = [] ∧ r.reg (.evt .merged) = satReg (s.reg (.evt .merged)) 1 ∧
      r.hostMem = s.hostMem ∧ RegsAlone [.evt .merged, .evt .status] s r ∧ Touches [.clk, .regs, .evt] s r)) ∧
  (∀ (x : Report) (k q : Nat) (l : List Byte), l = recordBytes x k q → x.source < 4096 → k < 256 → x.kind < 256 → q < 2 ^ 32 → x.ts < 2 ^ 64 →
    x.w0 < 2 ^ 32 → x.w1 < 2 ^ 32 → x.w2 < 2 ^ 32 → x.w3 < 2 ^ 32 → l.length = 32 ∧ leNat (l.take 2) = x.source ∧ leNat ((l.drop 2).take 1) = k ∧
    leNat ((l.drop 3).take 1) = x.kind ∧ leNat ((l.drop 4).take 4) = q ∧ leNat ((l.drop 8).take 8) = x.ts ∧ leNat ((l.drop 16).take 4) = x.w0 ∧
    leNat ((l.drop 20).take 4) = x.w1 ∧ leNat ((l.drop 24).take 4) = x.w2 ∧ leNat ((l.drop 28).take 4) = x.w3) ∧
  (∀ (t n a j k : Nat) (x : Report) (s m : State), m = s.masterTime t → Inv s → m.ringRoom = true → s.ringSize = some n → j < 4096 → Assoc.find? s.evt.pending j = some (x, k) →
    (s.regN (.evtSrc j)).testBit 31 = true → (∀ i, i ≠ j → Assoc.find? s.evt.pending i = none) → a = s.regN (.evt .ringBase) + 32 * (s.evt.tail % n) →
    Completes (exec (.eventRecordWrite t) s) fun r => memReads r.hostMem a 32 = recordBytes x k s.evt.seq ∧ Assoc.find? r.evt.pending j = none ∧
      r.evt.tail = (s.evt.tail + 1) % 2 ^ 32 ∧ (∀ k, ¬(a ≤ k ∧ k < a + 32) → memRead r.hostMem k = memRead s.hostMem k) ∧ Touches [.clk, .regs, .host, .hostMem, .evt] s r) ∧
  (∀ (t : Nat) (v : BitVec 32) (s m : State), m = s.masterTime t →
    (s.host.linkUp = true → s.host.held.any Held.isWrite = false → Completes (exec (.evtRingHeadWrite t v) s) fun r =>
      r.evt = { s.evt with head := v.toNat, headWas := m.ringHead, headAt := m.clk.nsTotal + 1 } ∧ r.ringHead = m.ringHead ∧
      (∀ (u : State), u.evt = r.evt → u.clk.nsTotal ≠ m.clk.nsTotal → u.ringHead = v.toNat) ∧
      (v.toNat = s.evt.tail → Touches [.clk, .evt] s r) ∧ Touches [.clk, .regs, .host, .evt] s r) ∧
    (s.host.linkUp = true → s.host.held.any Held.isWrite = true → Completes (exec (.evtRingHeadWrite t v) s) fun r =>
      r.host = { s.host with held := s.host.held ++ [.bar2 (.evt .ringHead) .whole (regOf v.toNat)] } ∧ Touches [.clk, .host] s r) ∧
    (s.host.linkUp = false → Completes (exec (.evtRingHeadWrite t v) s) (Touches [.clk] s))) ∧
  (∀ (t : Nat) (v : BitVec 32) (s : State), Completes (exec (.evtRingEnable t v) s) fun r => r.reg (.evt .ringCfg) = regOf v.toNat &&& 0x8000001F ∧
    r.evt = (if v.toNat.testBit 31 then { s.evt with tail := 0, head := 0, seq := 0, headAt := 0 } else s.evt) ∧ RegsAlone [.evt .ringCfg] s r ∧ Touches [.clk, .regs, .evt] s r) ∧
  (∀ (t k : Nat) (c : Claims) (s : State), c = s.claim k → c.frozen = false →
    (∀ n, c.pend = [n] → c.stack = [] → n < 4096 → Completes (exec (.claimIdRead t k) s) fun r => r.regN (.claim k .id) = 2 ^ 31 + n ∧ (r.claim k).stack = [n] ∧
      (r.claim k).pend = [] ∧ (r.claim k).last = Assoc.find? c.recs n ∧ (∀ j, j ≠ k → r.claim j = s.claim j) ∧ Touches [.clk, .regs, .claims] s r) ∧
    (c.pend = [] → Completes (exec (.claimIdRead t k) s) fun r => r.regN (.claim k .id) = 4095 ∧ r.claims = s.claims ∧ Touches [.clk, .regs] s r) ∧
    (∀ n rest, c.stack = n :: rest → Completes (exec (.claimDoneWrite t k n) s) fun r => r.claim k = { c with stack := rest } ∧ r.evt = s.evt ∧ Touches [.clk, .claims] s r) ∧
    (∀ n x rest, c.stack = n :: rest → x ≠ n → x < 4096 → n < 4096 → Completes (exec (.claimDoneWrite t k x) s) fun r =>
      r.claim k = { c with frozen := true, fault := some (x, n) } ∧ Raised s r (361 + k) 0x7F x n 0 0 ∧ Touches [.clk, .claims, .evt] s r))

/-! ### Optical links and twins -/

/-- R341, R342, R343, R344, R347, R348, R353, R354: a site sends its waiting flit with the next number and one credit less; it discards a flit it
cannot correct and asks for it again, and takes the next in order; wavelengths drop and rejoin; losing the last takes the site down and
halts the contexts that use it; the export whose turn it is starts. That a discarding site takes no IDLE flit
is the model's reading (log entry 66), the attachment a packet leaves by its choice (log entry 68). -/
def Obligations.OpticalLinks : Prop :=
  ∀ (t k : Nat) (s m : State) (x : Site), m = s.masterTime t → k < 96 → x = s.site k → x.up = true →
    (∀ (f : CasrikFlit) (n c : Nat), x.outq = [f] → x.resend = [] → c = flitClass f.type → n = (x.txSeq + 1) % 4096 → 0 < x.credits.getD c 0 → s.carries k f.type = true →
      Completes (exec (.casrikFlitSend t k) s) fun r => (r.site k).outq = [] ∧
        (r.site k).wire = some (nthWavelength x.wl (x.sent % max 1 (popcount 8 x.wl.toNat)), (flitWords (x.header f n)).map codeword) ∧ (r.site k).txSeq = n ∧ (r.site k).resend = [x.header f n] ∧
        (r.site k).credits = x.credits.set c (x.credits.getD c 0 - 1) ∧ (r.site k).nakDue = false ∧ r.reg (.opt k .txFlits) = satReg (s.reg (.opt k .txFlits)) 1 ∧
        SitesAlone [k] s r ∧ RegsAlone [.opt k .txFlits] s r ∧ Touches [.clk, .regs, .sites] s r) ∧
    (∀ (f : CasrikFlit) (w n : Nat), x.void = 0 → s.stitch.votes.find? (216 + k) = none → Completes (exec (.casrikFlitReceive t k f w ⟨true, [], n⟩) s) fun r =>
      r.site k = { x with nakDue := true, discard := true, void := 2 } ∧ r.reg (.opt k .ue) = satReg (s.reg (.opt k .ue)) 1 ∧
      r.reg (.opt k .fecCorr) = satReg (s.reg (.opt k .fecCorr)) n ∧ Raised s r (264 + k) 0x26 (w % 2 ^ 32) 6 0 0 ∧
      SitesAlone [k] s r ∧ RegsAlone [.opt k .ue, .opt k .fecCorr, .rel .ue] s r ∧ Touches [.clk, .regs, .sites, .evt, .rel] s r) ∧
    (∀ (f : CasrikFlit) (w n : Nat), 1 ≤ f.type → f.type < 6 → f.seq ≠ (x.rxSeq + 1) % 4096 → Completes (exec (.casrikFlitReceive t k f w ⟨false, [], n⟩) s) fun r =>
      r.reg (.opt k .fecCorr) = satReg (s.reg (.opt k .fecCorr)) n ∧ RegsAlone [.opt k .fecCorr] s r ∧ Touches [.clk, .regs] s r) ∧
    (∀ (f : CasrikFlit) (w : Nat), f.type = 0 → x.discard = true → Completes (exec (.casrikFlitReceive t k f w ⟨false, [], 0⟩) s) fun r =>
      RegsAlone [.opt k .fecCorr] s r ∧ Touches [.clk, .regs] s r) ∧
    (∀ (f : CasrikFlit) (w d o h a y z : Nat) (b : Bool) (v : Word), f.type = 3 → f.seq = (x.rxSeq + 1) % 4096 → f.payload = [v] → f.nak = false → x.owed.length = 3 →
      d = f.spec.toNat % 2 ^ 4 → o = f.spec.toNat / 2 ^ 4 % 2 ^ 28 → h = f.spec.toNat / 2 ^ 36 % 2 → (s.regN (.optImport k d 0)).testBit 31 = true →
      o < 4096 * (s.regN (.optImport k d 0) % 2 ^ 16) → a = s.regN (.optImport k d 1) % 2 ^ 31 * 2 ^ 17 + o / 4096 * 131072 + h * 65536 + o % 4096 * 16 →
      s.carries k 3 = true → y = siteRouter k (a / 256 % 16) → (s.rtr y).waits = [] → vcFree ((s.rtr y).buf (bufKey 5 2 0)) = true →
      flitsIn ((s.rtr y).buf (bufKey 5 2 0)) < 8 → s.meshDest a = some (z, b) → s.reachable y z = true →
      Completes (exec (.casrikFlitReceive t k f w ⟨false, [], 0⟩) s) fun r => (∃ p q, (r.rtr y).buf (bufKey 5 2 0) = (s.rtr y).buf (bufKey 5 2 0) ++ [p] ∧
          p.pkt = .request q ∧ q.cls = 2 ∧ q.addr = a ∧ q.data = [v] ∧ q.src = .outside (264 + k) y) ∧ (r.site k).rxSeq = f.seq ∧ (r.site k).discard = false ∧
        (r.site k).owed.getD 1 0 = x.owed.getD 1 0 + 1 ∧ (r.site k).ackd = f.ack ∧ r.reg (.opt k .rxFlits) = satReg (s.reg (.opt k .rxFlits)) 1 ∧
        RtrsAlone [y] s r ∧ SitesAlone [k] s r ∧ RegsAlone [.opt k .rxFlits, .opt k .fecCorr] s r ∧ Touches [.clk, .regs, .sites, .rtrs] s r) ∧
    (∀ (w : Nat), w < 8 → x.wl.getLsbD w = true → x.wl &&& ~~~(BitVec.ofNat 8 (2 ^ w)) ≠ 0 → Completes (exec (.wavelengthDrop t k w) s) fun r =>
      r.site k = { x with wl := x.wl &&& ~~~(BitVec.ofNat 8 (2 ^ w)), nakDue := true } ∧
      Raised s r (264 + k) 0x51 (popcount 8 (x.wl &&& ~~~(BitVec.ofNat 8 (2 ^ w))).toNat) (popcount 8 x.wl.toNat) 0 0 ∧ SitesAlone [k] s r ∧
      Touches [.clk, .sites, .evt] s r) ∧
    (∀ (w : Nat), w < 8 → x.wl.getLsbD w = false → Completes (exec (.wavelengthRejoin t k w) s) fun r =>
      r.site k = { x with wl := x.wl ||| BitVec.ofNat 8 (2 ^ w), retrains := x.retrains + 1 } ∧ r.reg (.opt k .retrain) = satReg (s.reg (.opt k .retrain)) 1 ∧
      Raised s r (264 + k) 0x52 ((x.retrains + 1) % 2 ^ 32) 0 0 0 ∧ SitesAlone [k] s r ∧ Touches [.clk, .regs, .sites, .evt] s r) ∧
    Completes (exec (.siteDown t k) s) (fun r => (r.site k).up = false ∧ (r.site k).wl = 0 ∧ (r.site k).training = true ∧
      (∃ e ∈ r.evt.inflight, e.source = 264 + k ∧ e.kind = 0x50 ∧ e.w0 = 1) ∧ (s.standbyOpen = false → SitesAlone [k] s r) ∧
      SitesAlone [k, s.siteA, s.siteB] s r ∧
      (∀ j c, j < 4 → s.ctx? j = some c → assigns k c = true → ∃ d, r.ctx? j = some d ∧ d.halted = true) ∧ r.mem = s.mem) ∧
    (∀ (d : Nat), d < 16 → s.carries k 3 = true → (∀ e ∈ x.exports, e.desc ≠ d) → s.stitch.session = true → s.stitch.kind = .work → s.stitch.phase = .before → s.stitch.votes.find? (216 + k) = none → m.exportDue k d = true →
      (∀ e, e < 16 → e ≠ d → m.exportDue k e = false) → Completes (exec (.exportStart t k d) s) fun r =>
        (∃ e, r.site k = { x with begun := insertSorted d x.begun, exports := x.exports ++ [e] } ∧ e.desc = d ∧ e.next = 0 ∧ e.commit = s.stitch.commitSeq ∧
          e.slots.length ≤ 64) ∧ SitesAlone [k] s r ∧ Touches [.clk, .sites, .rtrs, .evt] s r)

/-- R355, R357, R358, R359, R360, R361: twins. A checkpoint opens and closes with marks on both sites; heartbeats go on the line and both sites;
three missed intervals fence a primary and make a standby take over; attach and detach answer by their checks. -/
def Obligations.Twins : Prop :=
  (∀ (t c : Nat) (s : State), s.twin.openSeq = some c → s.twin.state = 2 → (s.site s.siteA).up = true → (s.site s.siteB).up = true → s.siteA ≠ s.siteB → s.host.held = [] →
    (s.twin.started = false → Completes (exec (.checkpointStream t) s) fun r => r.twin = { s.twin with started := true, bytes := 0 } ∧
      (∀ x, x = s.siteA ∨ x = s.siteB → ∃ f, (r.site x).outq = (s.site x).outq ++ [f] ∧ f.type = 5 ∧ f.spec.toNat = 0 ∧ f.payload.getD 0 0 = BitVec.ofNat 128 c) ∧
      SitesAlone [s.siteA, s.siteB] s r ∧ Touches [.clk, .sites, .twin] s r) ∧
    (∀ a, s.twin.started = true → s.twin.captured = [] → s.twin.frozen = [a] → Completes (exec (.checkpointStream t) s) fun r => r.twin.frozen = [] ∧
      r.twin.openSeq = some c ∧ (∃ f l, (r.site (s.twinSiteOf a)).outq = (s.site (s.twinSiteOf a)).outq ++ f :: l ∧ f.type = 4 ∧ f.spec.toNat % 2 ^ 48 = a % 2 ^ 48) ∧
      Touches [.free, .mem, .errs, .regs, .clk, .bays, .cus, .mus, .evt, .hbm, .rel, .sites, .twin, .stitch] s r) ∧
    (s.twin.started = true → s.twin.captured = [] → s.twin.frozen = [] → s.twin.detach = false → Completes (exec (.checkpointStream t) s) fun r =>
      r.twin.openSeq = none ∧ r.twin.started = false ∧ r.twin.attached = s.twin.attached ∧ r.reg (.twin .ckptLast) = regOf c ∧ r.reg (.twin .ckptBytes) = regOf s.twin.bytes ∧
      RegsAlone [.twin .ckptLast, .twin .ckptBytes] s r ∧ Touches [.clk, .regs, .sites, .twin] s r)) ∧
  (∀ (t : Nat) (s : State), s.twin.state = 2 ∨ s.twin.state = 3 → s.siteA ≠ s.siteB → Completes (exec (.heartbeatSend t) s) fun r => r.twin = { s.twin with lineOut := some r.clk.nsTotal } ∧
    (∀ x, x = s.siteA ∨ x = s.siteB → ∃ f, (r.site x).outq = (s.site x).outq ++ [f] ∧ f.type = 1 ∧ f.spec.toNat = 3) ∧ SitesAlone [s.siteA, s.siteB] s r ∧
    Touches [.clk, .sites, .twin] s r) ∧
  (∀ (t : Nat) (s : State), s.twin.state = 2 ∨ s.twin.state = 3 →
    (s.twin.mgmtSeen = true → Completes (exec (.heartbeatInterval t true) s) fun r => r.twin = { s.twin with misses := 0, lineSeen := false, mgmtSeen := false } ∧
      Touches [.clk, .twin] s r) ∧
    (s.twin.mgmtSeen = false → s.twin.lineSeen = false → s.twin.misses < 2 → Completes (exec (.heartbeatInterval t false) s) fun r =>
      r.twin = { s.twin with misses := s.twin.misses + 1 } ∧ Raised s r 364 0x58 (s.twin.misses + 1) 0 0 0 ∧
      r.reg (.twin .hbMiss) = satReg (s.reg (.twin .hbMiss)) 1 ∧ RegsAlone [.twin .hbMiss] s r ∧ Touches [.clk, .regs, .twin, .evt] s r) ∧
    (s.twin.mgmtSeen = false → s.twin.lineSeen = false → s.twin.misses = 2 → Completes (exec (.heartbeatInterval t false) s) fun r =>
      r.twin.state = (if s.twin.state = 3 then 0 else 4) ∧ (s.twin.state = 2 → (∀ j c, j < 4 → s.ctx? j = some c → ∃ d, r.ctx? j = some d ∧ d.halted = true) ∧
        ∃ e ∈ r.evt.inflight, e.source = 364 ∧ e.kind = 0x5A))) ∧
  (∀ (t : Nat) (c : Instr) (s : State), c = .twinFatalIn t ∨ c = .twinTakeover t →
    (s.twin.state = 3 → s.twin.openSeq = none → Completes (exec c s) fun r => r.twin.state = 0 ∧ r.stitch.commitSeq = s.regN (.twin .ckptLast) ∧
      r.stitch.reloadTo = some s.stitch.active ∧ (∃ e ∈ r.evt.inflight, e.source = 364 ∧ e.kind = 0x59 ∧ e.w0 = s.regN (.twin .ckptLast) % 2 ^ 32) ∧ r.mem = s.mem) ∧
    (s.twin.state ≠ 3 → Completes (exec c s) fun r => Touches [.clk] s r)) ∧
  (∀ (t mx mn : Nat) (p : Bool) (d : List (BitVec 384)) (caps : BitVec 32) (s : State), MailboxFree s →
    (s.siteA = s.siteB ∨ s.twin.state = 2 ∨ s.twin.state = 3 → Completes (exec (.mboxTwinAttach t p d mx mn caps) s) fun r => Answered 0x50 3 [] s r ∧ r.twin = s.twin ∧
      Touches [.clk, .host, .regs] s r) ∧
    (s.siteA ≠ s.siteB → s.twin.state = 0 ∨ s.twin.state = 4 → (s.site s.siteA).up = true → (s.site s.siteB).up = true → majorOk mx mn = true → d ≠ s.residentDigests →
      Completes (exec (.mboxTwinAttach t p d mx mn caps) s) fun r => Answered 0x50 3 [] s r ∧ r.twin = s.twin) ∧
    (s.siteA ≠ s.siteB → s.twin.state = 0 ∨ s.twin.state = 4 → (s.site s.siteA).up = true → (s.site s.siteB).up = true → majorOk mx mn = true → d = s.residentDigests →
      Completes (exec (.mboxTwinAttach t p d mx mn caps) s) fun r => Answered 0x50 0 [] s r ∧ r.twin.state = (if p then 2 else 3) ∧ r.twin.attached = false ∧ r.twin.misses = 0 ∧
        r.twin.openSeq = (if p then some s.stitch.commitSeq else none) ∧
        (p = false ∨ (∀ a, s.itemWritten a = false) → r.evt = s.evt ∧ r.mem = s.mem))) ∧
  (∀ (t : Nat) (s : State), MailboxFree s →
    (s.twin.state ≠ 2 → s.twin.state ≠ 3 → Completes (exec (.mboxTwinDetach t) s) fun r => Answered 0x50 3 [] s r ∧ Touches [.clk, .host, .regs] s r) ∧
    (s.twin.state = 2 ∨ s.twin.state = 3 → s.twin.openSeq = none → Completes (exec (.mboxTwinDetach t) s) fun r => Answered 0x50 0 [] s r ∧ r.twin.state = 0 ∧
      Raised s r 364 0x5A 0 0 0 0) ∧
    (s.twin.state = 2 ∨ s.twin.state = 3 → s.twin.openSeq ≠ none → Completes (exec (.mboxTwinDetach t) s) fun r => Answered 0x50 0 [] s r ∧
      r.twin = { s.twin with detach := true } ∧ Touches [.clk, .host, .regs, .twin] s r))

/-! ### Power, droop, temperature -/

/-- R370, R377, R379, R380, R381, R382, R383, R387, R389, R391, R393: power. A failed phase is recorded and raised; a third, or a short, darkens the bay; a
short of the fabric rail makes the panel a hole; droop and stretch are kept; the lowest voltage is kept with the timestamp of the first cycle at which
it occurred, in the hem as in the window, and a read of BAY_PWR_VMIN returns it, copies its timestamp and clears it; the governor's level rises and falls by
one; a budget moves the governor's limit by one; 105 degrees darken the bay, 95 throttle it. -/
def Obligations.PowerOnTheWafer : Prop :=
  (∀ (t b k : Nat) (short : Bool) (p i : Nat) (s : State), p = b / 4 → i = b % 4 → k < 16 → railUp (s.bay b).power = true → (s.regN (.phaseFail p i)) = 0 →
    (short = false → (s.bay b).modes.nextGrade.getD (s.bay b).modes.grade ≤ min 10 s.variantCeiling → Completes (exec (.regulatorPhaseFail t b k short) s) fun r =>
      r.regN (.phaseFail p i) = 2 ^ k ∧ s.bayLimit b = 192 ∧ r.bayLimit b = 180 ∧ (∃ e ∈ r.evt.inflight, e.source = b ∧ e.kind = 0x40 ∧ e.w0 = k ∧ e.w1 = 0 ∧ e.w2 = 1) ∧ RegsAlone [.phaseFail p i] s r ∧ Touches [.clk, .regs, .evt] s r) ∧
    (short = true → (s.bay b).power ≠ .dark → Completes (exec (.regulatorPhaseFail t b k short) s) fun r => (r.bay b).power = .dark ∧
      (∃ e ∈ r.evt.inflight, e.source = b ∧ e.kind = 0x40 ∧ e.w0 = k ∧ e.w1 = 1 ∧ e.w2 = 1) ∧ i ∈ (r.panel p).feedsOpen)) ∧
  (∀ (t b a : Nat) (s : State), railUp (s.bay b).power = true → Completes (exec (.bayRailShort t b a) s) fun r => (r.bay b).power = .dark ∧ b % 4 ∈ (r.panel (b / 4)).feedsOpen ∧
    (∃ e ∈ r.evt.inflight, e.source = b ∧ e.kind = 0x41 ∧ e.w0 = 0 ∧ e.w1 = a % 2 ^ 32) ∧ (∃ e ∈ r.evt.inflight, e.source = 368 ∧ e.kind = 0x33 ∧ e.w0 = b % 2 ^ 32 ∧ e.w1 = 2) ∧
    (∀ x, x ≠ b → (r.bay x).power = (s.bay x).power)) ∧
  (∀ (t p a : Nat) (s : State), (s.panel p).fabricOn = true → Completes (exec (.fabricRailShort t p a) s) fun r => (r.panel p).fabricOn = false ∧ (r.panel p).fabricOpen = true ∧
    (∀ i, i < 4 → (r.bay (4 * p + i)).power = .dark) ∧ (∃ e ∈ r.evt.inflight, e.source = 192 + p ∧ e.kind = 0x41 ∧ e.w0 = 1 ∧ e.w1 = a % 2 ^ 32)) ∧
  (∀ (t b : Nat) (s m : State), m = s.bayTime b t → (s.bay b).power = .active →
    Completes (exec (.droopBoost t b) s) (fun r => r.reg (.bay b .pwrBoost) = satReg (s.reg (.bay b .pwrBoost)) 1 ∧ BaysAlone [b] s r ∧
      RegsAlone (.bay b .pwrBoost :: bayClockRegs b) s r ∧ Touches [.regs, .bays] s r) ∧
    Completes (exec (.clockStretch t b) s) (fun r => (r.bay b).stretching = true ∧ BaysAlone [b] s r ∧ RegsAlone (bayClockRegs b) s r ∧ Touches [.regs, .bays] s r) ∧
    Completes (exec (.clockStretchEnd t b) s) (fun r => (r.bay b).stretching = false ∧ BaysAlone [b] s r ∧ RegsAlone (bayClockRegs b) s r ∧ Touches [.regs, .bays] s r) ∧
    (∀ v, (s.regN (.bay b .pwrVmin)).testBit 31 = false ∨ v < s.regN (.bay b .pwrVmin) % 4096 → Completes (exec (.vminSample t b v) s) fun r =>
      r.regN (.bay b .pwrVmin) = 2 ^ 31 + min v 0xFFF ∧ (r.bay b).vminTs = m.bayTs b ∧ BaysAlone [b] s r ∧ RegsAlone (.bay b .pwrVmin :: bayClockRegs b) s r ∧
      Touches [.regs, .bays] s r) ∧
    (∀ v, (s.regN (.bay b .pwrVmin)).testBit 31 = true → s.regN (.bay b .pwrVmin) % 4096 ≤ v → Completes (exec (.vminSample t b v) s) fun r =>
      r.reg (.bay b .pwrVmin) = s.reg (.bay b .pwrVmin) ∧ (r.bay b).vminTs = (s.bay b).vminTs ∧ BaysAlone [b] s r ∧ RegsAlone (bayClockRegs b) s r ∧
      Touches [.regs, .bays] s r) ∧
    (∀ (path : Path), fromHost path = false ∨ s.host.linkUp = true →
      (m.hwAt (.bay b .pwrVmin) = none → Completes (exec (.vminRead t path b) s) fun r => r.host.answer = leBytes 4 (s.regN (.bay b .pwrVmin) % 2 ^ 32) ∧ r.regN (.bay b .pwrVmin) = 0xFFF ∧
        r.reg (.bay b .pwrVminTs) = regOf (s.bay b).vminTs ∧ RegsAlone (.bay b .pwrVmin :: .bay b .pwrVminTs :: bayClockRegs b) s r ∧ Touches [.regs, .bays, .host] s r) ∧
      (∀ h, m.hwAt (.bay b .pwrVmin) = some h → Completes (exec (.vminRead t path b) s) fun r => r.host.answer = leBytes 4 (h.old.toNat % 2 ^ 32) ∧ r.reg (.bay b .pwrVmin) = h.fresh ∧
        r.reg (.bay b .pwrVminTs) = regOf (s.bay b).vminOld ∧ (r.bay b).vminTs = (s.bay b).vminNow ∧ BaysAlone [b] s r ∧
        RegsAlone (.bay b .pwrVmin :: .bay b .pwrVminTs :: bayClockRegs b) s r ∧ Touches [.regs, .bays, .host] s r)) ∧
    ((m.bay b).upCycles % 32 = 0 → (m.bay b).upCycles ≠ (s.bay b).gov.lastRiseTick → (s.bay b).gov.armed = false → 128 ≤ (m.bay b).gov.sinceRise →
      0 < (s.bay b).gov.heldSinceRise → (s.bay b).gov.level < s.lmax b → Completes (exec (.governorRiseTick t b) s) fun r =>
        (r.bay b).gov.level = (s.bay b).gov.level + 1 ∧ (r.bay b).gov.heldSinceRise = 0 ∧ (r.bay b).gov.sinceRise = 0 ∧ BaysAlone [b] s r ∧
        RegsAlone (bayClockRegs b) s r ∧ Touches [.regs, .bays] s r) ∧
    ((m.bay b).upCycles % 128 = 0 → (m.bay b).upCycles ≠ (s.bay b).gov.lastFallTick → Completes (exec (.governorFallTick t b) s) fun r =>
      (r.bay b).gov.level = (if s.lmax b < (s.bay b).gov.level ∨ (1 < (s.bay b).gov.level ∧ (s.bay b).gov.issued128 ≤ 16 * ((s.bay b).gov.level - 1) * 4608)
        then (s.bay b).gov.level - 1 else (s.bay b).gov.level) ∧ (r.bay b).gov.issued128 = 0 ∧ BaysAlone [b] s r ∧ RegsAlone (bayClockRegs b) s r ∧
      Touches [.regs, .bays] s r)) ∧
  (∀ (t p g : Nat) (x : PowerSample) (s : State), s.sup.ioIn = true → (s.panel p).fabricOn = true → g = s.moduleCap - (x.ioW + x.auxW) - x.fabW - 192 → g < 65536 →
    Completes (exec (.panelBudgetUpdate t p x) s) fun r => (r.panel p).budgetW = g * (s.panel p).frac / 1024 ∧ r.regN (.pwr .governed) = g ∧
      (∀ q, q ≠ p → r.panel q = s.panel q) ∧ r.regN (.panel p .eFabric) = (s.regN (.panel p .eFabric) + x.panelFabUj) % 2 ^ 64 ∧ Touches [.clk, .regs, .panels] s r) ∧
  (∀ (t b d uj w : Nat) (s : State), (s.bay b).power = .active → w = (s.panel (b / 4)).budgetW * (s.bay b).modes.capFrac / 1024 → d < 65536 → w < 65536 →
    Completes (exec (.bayBudgetCompare t b d uj) s) fun r => (r.bay b).gov.capMax = (if w < d then max 1 ((s.bay b).gov.capMax - 1) else if 8 * d < 7 * w then
      min 8 ((s.bay b).gov.capMax + 1) else (s.bay b).gov.capMax) ∧ r.regN (.bay b .pwrBudget) = d * 65536 + w ∧
      r.regN (.eBay (b / 4) (b % 4)) = (s.regN (.eBay (b / 4) (b % 4)) + uj) % 2 ^ 64 ∧ BaysAlone [b] s r ∧
      RegsAlone [.bay b .pwrBudget, .eBay (b / 4) (b % 4)] s r ∧ Touches [.clk, .regs, .bays] s r) ∧
  (∀ (t b x : Nat) (s : State), (s.panel (b / 4)).fabricOn = true → railUp (s.bay b).power = true →
    (95 ≤ x → x < 105 → (s.bay b).throttled = false → Completes (exec (.thermalSample t b [x, x, x, x]) s) fun r => (r.bay b).throttled = true ∧
      (r.bay b).gov.thermMax = max 1 ((s.bay b).gov.thermMax - 1) ∧ r.regN (.therm (b / 4) (b % 4)) = x * 0x01010101 ∧ (∃ e ∈ r.evt.inflight, e.source = b ∧ e.kind = 0x43 ∧ e.w1 = x) ∧
      BaysAlone [b] s r ∧ RegsAlone [.therm (b / 4) (b % 4)] s r ∧ Touches [.clk, .regs, .bays, .evt] s r) ∧
    (105 ≤ x → Completes (exec (.thermalSample t b [x, x, x, x]) s) fun r => (r.bay b).power = .dark ∧ b % 4 ∈ (r.panel (b / 4)).tripped ∧
      (∃ e ∈ r.evt.inflight, e.source = b ∧ e.kind = 0x44) ∧ (∃ e ∈ r.evt.inflight, e.source = 368 ∧ e.kind = 0x33 ∧ e.w1 = 3)))

/-! ### Store and security -/

/-- R414, R415, R416, R417, R427, R428: the ledger and the record log. A darn update, once its ledger entry is committed, leaves the clusters from
the bad column on with copy 0 selected, is counted and raised and ends the clean streak; a committed record comes into force, one whose CRC fails does
not; compaction keeps every live record and frees the oldest sector. The bits of a
record's body are the model's choice (log entry 17). -/
def Obligations.StoreAndDarns : Prop :=
  (∀ (t b ly d : Nat) (s : State), s.rel.updating = some (b, ly, d) →
    (s.store.queue.any (fun e => e.type == 1) = true → Completes (exec (.darnUpdateComplete t) s) fun r => Touches [.clk] s r) ∧
    (s.store.queue.any (fun e => e.type == 1) = false → s.rel.queue = [] → Completes (exec (.darnUpdateComplete t) s) fun r => r.rel.updating = none ∧
      r.rel.darned = clusterIn b d ly :: s.rel.darned ∧ r.rel.paths = (b, ly, d) :: s.rel.paths ∧ (∀ x, d ≤ x → x < 32 → (r.mu (clusterIn b x ly)).sel = [] ∧ (r.mu (clusterIn b x ly)).wr = []) ∧
      (∃ e ∈ r.evt.inflight, e.source = 368 ∧ e.kind = 0x32 ∧ e.w0 = b % 2 ^ 32 ∧ e.w1 = ly % 2 ^ 32 ∧ e.w2 = d % 2 ^ 32) ∧
      r.reg (.rel .darns) = satReg (s.reg (.rel .darns)) 1 ∧ r.stitch.streak = 0 ∧ r.store = s.store ∧ r.sup = s.sup ∧ r.fuses = s.fuses)) ∧
  (∀ (t : Nat) (e n : LogRecord) (rest : List LogRecord) (u : Store) (s : State), s.store.queue = e :: rest → n = { e with seq := s.store.seq + 1 } →
    u = { s.store with queue := rest, seq := s.store.seq + 1, head := s.store.head + 1 } →
    Completes (exec (.recordCommit t false) s) (fun r => r.store = u ∧ Touches [.clk, .store] s r) ∧
    (e.type = 1 → Completes (exec (.recordCommit t true) s) fun r => r.store = { u with log := s.store.log ++ [(s.store.head, n)] } ∧
      r.rel.ledger = s.rel.ledger ++ [(e.body.toNat % 2 ^ 8, e.body.toNat / 2 ^ 8 % 2 ^ 6, e.body.toNat / 2 ^ 14 % 2 ^ 6)] ∧ Touches [.clk, .store, .rel] s r) ∧
    (e.type = 2 → Completes (exec (.recordCommit t true) s) fun r => r.store = { u with log := s.store.log ++ [(s.store.head, n)] } ∧
      r.spdm = { s.spdm with lmsReserved := e.body.toNat % 2 ^ 32 } ∧ Touches [.clk, .store, .spdm] s r) ∧
    (e.type = 4 → Completes (exec (.recordCommit t true) s) fun r => r.store.log = s.store.log ++ [(s.store.head, n)] ∧ r.store.queue = rest ∧
      r.store.nextTf = e.body.toNat % 2 ∧ r.store.nextMf = e.body.toNat / 2 ^ 8 % 2 ∧ Touches [.clk, .store] s r) ∧
    (e.type = 3 → Completes (exec (.recordCommit t true) s) fun r =>
      r.store = { u with log := s.store.log ++ [(s.store.head, n)], creaseUse := e.body.toNat % 2 } ∧ Touches [.clk, .store] s r) ∧
    (e.type = 5 → Completes (exec (.recordCommit t true) s) fun r =>
      r.store = { u with log := s.store.log ++ [(s.store.head, n)], autostart := some (e.body.toNat % 2 ^ 32) } ∧ Touches [.clk, .store] s r) ∧
    (e.type ≠ 1 → e.type ≠ 2 → e.type ≠ 3 → e.type ≠ 4 → e.type ≠ 5 → Completes (exec (.recordCommit t true) s) fun r => r.store = { u with log := s.store.log ++ [(s.store.head, n)] } ∧
      Touches [.clk, .store] s r)) ∧
  (∀ (t : Nat) (s : State),
    (4 ≤ s.freeSectors → Completes (exec (.logCompaction t) s) fun r => Touches [.clk] s r) ∧
    (s.freeSectors < 4 → 1 < s.writtenSectors → Completes (exec (.logCompaction t) s) fun r => r.store.oldest = s.store.oldest + 1 ∧ r.store.erases = s.store.erases + 1 ∧
      (∀ e ∈ s.store.log, s.liveRecord e.2 = true → ∃ p, (p, e.2) ∈ r.store.log) ∧ (∀ e ∈ r.store.log, e.1 / 2048 ≠ s.store.oldest) ∧ r.store.seq = s.store.seq + 1 ∧
      (∃ p e, (p, e) ∈ r.store.log ∧ e.type = 6 ∧ e.seq = s.store.seq + 1 ∧ p + 1 = r.store.head) ∧
      Touches [.clk, .store] s r))

/-- R460, R461, R462, R463, R464, R465: the SPDM responder. A request needs the connection at its stage, else it answers an error and changes nothing
else; request and response join the connection's messages, which GET_VERSION begins anew; a signed response is signed, with the Alias key, over the SHA-384 hash of
the messages with this one, and leaves that hash; the LMS block signs it with the next index, reserving indices by 1,024; one secure session runs at a
time. What SPDM 1.3 gives and the spec does not is the model's (log entry 26): the numbers of the stages, the bodies and codes of the responses, the layout and value
types of measurement blocks, a request's bytes beyond its code and first parameter. -/
def Obligations.SpdmConnection : Prop :=
  ∀ (t : Nat) (s m : State) (told : Nat → Nat → List Byte → List Byte), m = s.masterTime t → s.spdmOn = true →
    told = (fun c p body => s.spdm.said ++ s.requestBytes c p ++ body) →
    (∀ (c : Instr) (n i : Nat), (c, n) ∈ [(.getCapabilities t, 1), (.negotiateAlgorithms t, 2), (.getDigests t, 3), (.getCertificate t, 3), (.challenge t, 3),
        (.getMeasurements t i, 3), (.keyExchange t, 3), (.finish t, 3)] → s.spdm.stage < n → Completes (exec c s) fun r =>
      r.spdm = { s.spdm with answer := Config.spdmBody 0x7F } ∧ Touches [.clk, .spdm] s r) ∧
    Completes (exec (.getVersion t) s) (fun r => r.spdm = { s.spdm with
      stage := 1, transcript := none, answer := versionBody, said := [0x13, 0x84, 0, 0] ++ Config.requestTail 0x84 0 ++ versionBody } ∧ Touches [.clk, .spdm] s r) ∧
    (1 ≤ s.spdm.stage → Completes (exec (.getCapabilities t) s) fun r => r.spdm = { s.spdm with
      stage := max 2 s.spdm.stage, answer := capabilitiesBody, said := told 0xE1 0 capabilitiesBody } ∧ Touches [.clk, .spdm] s r) ∧
    (2 ≤ s.spdm.stage → Completes (exec (.negotiateAlgorithms t) s) fun r => r.spdm = { s.spdm with
      stage := 3, answer := algorithmsBody, said := told 0xE3 0 algorithmsBody } ∧ Touches [.clk, .spdm] s r) ∧
    (3 ≤ s.spdm.stage →
      (∀ (body : List Byte), body = digestBytes (sha384 s.chain) → Completes (exec (.getDigests t) s) fun r =>
        r.spdm = { s.spdm with answer := body, said := told 0x81 0 body } ∧ Touches [.clk, .spdm] s r) ∧
      Completes (exec (.getCertificate t) s) (fun r => r.spdm = { s.spdm with answer := s.chain, said := told 0x82 0 s.chain } ∧ Touches [.clk, .spdm] s r) ∧
      (∀ (c : Instr) (code p i : Nat) (b body full : List Byte) (h : BitVec 384),
        (c = .challenge t ∧ code = 0x83 ∧ p = 0 ∧ body = digestBytes (sha384 s.chain)) ∨
        (c = .getMeasurements t i ∧ code = 0xE0 ∧ p = i ∧ i < 0x60 ∧ m.measurement i = some b ∧ body = dmtfBlock i (valueType i) b) ∨
        (c = .getMeasurements t 0xFF ∧ code = 0xE0 ∧ p = 0xFF ∧ body = (List.range 0x60).flatMap m.block) →
        h = sha384 (told code p body) → full = body ++ Config.signature s.spdm.cdi h → Completes (exec c s) fun r =>
          r.spdm = { s.spdm with answer := full, said := told code p full, transcript := some h } ∧ Touches [.clk, .spdm] s r) ∧
      (∀ (i : Nat), 0x60 ≤ i → i ≠ 0xEF → i ≠ 0xFF → Completes (exec (.getMeasurements t i) s) fun r => r.spdm = { s.spdm with answer := Config.spdmBody 0x7F } ∧
        Touches [.clk, .spdm] s r) ∧
      (∀ (a : List Byte), s.spdm.transcript = none → a = dmtfBlock 0xEF 0x84 [1] → Completes (exec (.getMeasurements t 0xEF) s) fun r =>
        r.spdm = { s.spdm with answer := a, said := told 0xE0 0xEF a } ∧ Touches [.clk, .spdm] s r) ∧
      (∀ (h : BitVec 384) (q : Nat) (a e : List Byte), s.spdm.transcript = some h → q = s.spdm.lmsUsed → e = dmtfBlock 0xEF 0x84 [2] →
        a = dmtfBlock 0xEF 0x84 ([0] ++ leBytes 4 q ++ Config.hssSignature s.fuses.once.lmsSeed s.fuses.once.lmsId q h) →
        (2 ^ 30 ≤ q → Completes (exec (.getMeasurements t 0xEF) s) fun r => r.spdm = { s.spdm with answer := e, said := told 0xE0 0xEF e } ∧ Touches [.clk, .spdm] s r) ∧
        (q < 2 ^ 30 → q < s.spdm.lmsReserved → Completes (exec (.getMeasurements t 0xEF) s) fun r =>
          r.spdm = { s.spdm with lmsUsed := q + 1, answer := a, said := told 0xE0 0xEF a } ∧ Touches [.clk, .spdm] s r) ∧
        (q < 2 ^ 30 → s.spdm.lmsReserved ≤ q → Completes (exec (.getMeasurements t 0xEF) s) fun r =>
          r.spdm = { s.spdm with lmsUsed := q + 1, lmsReserved := q + 1024, answer := a, said := told 0xE0 0xEF a } ∧ r.store.queue = [] ∧
          Raised s r 367 0x75 (2 ^ 30 - (q + 1024)) 0 0 0 ∧ Touches [.clk, .evt, .rel, .store, .spdm] s r)) ∧
      (∀ (n : BitVec 256) (body full : List Byte) (h : BitVec 384), n = Config.nonce s.free → body = leBytes 32 n.toNat → h = sha384 (told 0xE4 0 body) →
        full = body ++ Config.signature s.spdm.cdi h → s.spdm.session = 0 → Completes (exec (.keyExchange t) s) fun r =>
          r.spdm = { s.spdm with session := 1, nonce := n, epoch := 0, answer := full, said := told 0xE4 0 full, transcript := some h } ∧
          r.free = s.free + 1 ∧ Touches [.free, .clk, .spdm] s r) ∧
      (s.spdm.session ≠ 0 → Completes (exec (.keyExchange t) s) fun r => r.spdm = { s.spdm with answer := Config.spdmBody 0x7F } ∧ Touches [.clk, .spdm] s r) ∧
      (s.spdm.session = 1 → Completes (exec (.finish t) s) fun r => r.spdm = { s.spdm with
        session := 2, beat := m.clk.nsTotal, answer := Config.spdmBody 0x65, said := told 0xE5 0 (Config.spdmBody 0x65) } ∧ Touches [.clk, .spdm] s r))

/-- R452, R466, R467, R468, R472: what only the established session carries. A request that is not bound to the session changes nothing; owner slots are blown
and revoked; a debug grant begins and ends with its event; no signed request is taken twice in a session; firmware goes into the copy not in use; the diagnostic path
answers by its statuses. The model's choices are the error body and the codes of the responses (log entry 26), the bits of the record of the copies that boot next (log
entry 17), the order of the diagnostic statuses, and that a go while a read is in progress does nothing (log entry 24). -/
def Obligations.SignedRequests : Prop :=
  (∀ (t : Nat) (q : SignedRequest) (fw : FwObject) (s m : State), m = s.masterTime t → s.spdmOn = true →
    (∀ (c : Instr) (k : IdeKeys), c ∈ [.heartbeat t, .keyUpdate t, .endSession t, .ownerSet t q, .ownerRevoke t q, .debugAuth t q, .debugRevoke t q, .fwUpdate t q fw, .ideKm t k] →
      s.spdm.session ≠ 2 → Completes (exec c s) fun r => r.spdm = { s.spdm with answer := Config.spdmBody 0x7F } ∧ Touches [.clk, .spdm] s r) ∧
    (s.spdm.session = 2 →
      Completes (exec (.heartbeat t) s) (fun r => r.spdm = { s.spdm with beat := m.clk.nsTotal, answer := Config.spdmBody 0x68 } ∧ Touches [.clk, .spdm] s r) ∧
      Completes (exec (.keyUpdate t) s) (fun r => r.spdm = { s.spdm with epoch := s.spdm.epoch + 1, answer := Config.spdmBody 0x69 } ∧ Touches [.clk, .spdm] s r) ∧
      Completes (exec (.endSession t) s) (fun r => r.spdm.session = 0 ∧ r.spdm.nonce = 0 ∧ r.spdm.grant = false ∧ r.spdm.ide = none ∧ r.spdm.tokens = [] ∧
        r.spdm.answer = Config.spdmBody 0x6C ∧ (s.spdm.grant = true → Raised s r 367 0x74 0 0 0 0) ∧ (s.spdm.grant = false → r.evt = s.evt) ∧ Touches [.clk, .evt, .spdm] s r) ∧
      (∀ (k : IdeKeys), Completes (exec (.ideKm t k) s) fun r => r.spdm = { s.spdm with ide := some k } ∧ Touches [.clk, .spdm] s r) ∧
      (∀ (c : Instr), c ∈ [.ownerSet t q, .ownerRevoke t q, .debugAuth t q, .debugRevoke t q, .fwUpdate t q fw] → s.bound? q = false → Completes (exec c s) fun r =>
        r.spdm = { s.spdm with answer := Config.spdmBody 0x7F } ∧ Touches [.clk, .spdm] s r) ∧
      (∀ (c : Instr), c ∈ [.ownerSet t q, .ownerRevoke t q, .debugAuth t q] → q.manifest.header ∈ s.spdm.tokens → Completes (exec c s) fun r =>
        r.spdm = { s.spdm with answer := Config.spdmBody 0x7F } ∧ Touches [.clk, .spdm] s r) ∧
      (q.nonce = s.spdm.nonce → q.serial = s.fuses.serial →
        (s.accepts 4 false q.manifest = true → 4 ≤ q.slot → q.slot < 8 → s.slotProvisioned q.slot = false →
          q.manifest.header ∉ s.spdm.tokens → Completes (exec (.ownerSet t q) s) fun r =>
          r.fuses.owner.find? q.slot = some q.digest ∧ (∀ k, k ≠ q.slot → r.fuses.owner.find? k = s.fuses.owner.find? k) ∧ r.fuses = { s.fuses with owner := r.fuses.owner } ∧
          r.spdm = { s.spdm with answer := Config.spdmBody 0x7E, tokens := q.manifest.header :: s.spdm.tokens } ∧
          Touches [.clk, .fuses, .spdm] s r) ∧
        (s.accepts 4 true q.manifest = true → q.slot < 8 → q.manifest.header ∉ s.spdm.tokens → Completes (exec (.ownerRevoke t q) s) fun r => (∀ k, k ∈ r.fuses.revoked ↔ k = q.slot ∨ k ∈ s.fuses.revoked) ∧
          r.fuses = { s.fuses with revoked := r.fuses.revoked } ∧ r.spdm = { s.spdm with answer := Config.spdmBody 0x7E, tokens := q.manifest.header :: s.spdm.tokens } ∧
          Touches [.clk, .fuses, .spdm] s r) ∧
        (s.accepts 4 true q.manifest = true → q.manifest.header ∉ s.spdm.tokens → Completes (exec (.debugAuth t q) s) fun r =>
          r.spdm = { s.spdm with
            grant := true, grantSlot := q.manifest.keySlot, answer := Config.spdmBody 0x7E, tokens := q.manifest.header :: s.spdm.tokens } ∧ Raised s r 367 0x74 1 0 0 0 ∧ Touches [.clk, .evt, .spdm] s r) ∧
        (s.spdm.grant = true → Completes (exec (.debugRevoke t q) s) fun r => r.spdm = { s.spdm with grant := false, grantSlot := 0, answer := Config.spdmBody 0x7E } ∧
          Raised s r 367 0x74 0 0 0 0 ∧ Touches [.clk, .evt, .spdm] s r) ∧
        (s.stitch.session = true → Completes (exec (.fwUpdate t q fw) s) fun r => r.spdm = { s.spdm with answer := Config.spdmBody 0x7F } ∧ Touches [.clk, .spdm] s r) ∧
        (s.stitch.session = false → fw.manifest.cls = 0 → s.signedOk 0 false fw.manifest = true → s.contentOk 0 fw.manifest = true → Completes (exec (.fwUpdate t q fw) s) fun r =>
          (if s.sup.tfCopy = 0 then r.store.copyB else r.store.copyA) = ⟨fw.version, fw.manifest⟩ ∧
          (if s.sup.tfCopy = 0 then r.store.copyA = s.store.copyA else r.store.copyB = s.store.copyB) ∧ r.store.mgmtA = s.store.mgmtA ∧ r.store.mgmtB = s.store.mgmtB ∧
          r.store.nextTf = s.store.nextTf ∧ (∃ e, r.store.queue = s.store.queue ++ [e] ∧ e.type = 4 ∧ e.body.toNat % 2 = 1 - s.sup.tfCopy ∧
            e.body.toNat / 2 ^ 8 % 2 = s.nextCopies.2 % 2) ∧ Touches [.clk, .store, .spdm] s r) ∧
        (s.stitch.session = false → s.store.nextTf < 2 → fw.manifest.cls = 1 → s.signedOk 1 false fw.manifest = true → s.contentOk 1 fw.manifest = true → Completes (exec (.fwUpdate t q fw) s) fun r =>
          (if s.sup.mfCopy = 0 then r.store.mgmtB else r.store.mgmtA) = ⟨fw.version, fw.manifest⟩ ∧
          (if s.sup.mfCopy = 0 then r.store.mgmtA = s.store.mgmtA else r.store.mgmtB = s.store.mgmtB) ∧ r.store.copyA = s.store.copyA ∧ r.store.copyB = s.store.copyB ∧
          r.store.nextMf = s.store.nextMf ∧ (∃ e, r.store.queue = s.store.queue ++ [e] ∧ e.type = 4 ∧ e.body.toNat / 2 ^ 8 % 2 = 1 - s.sup.mfCopy ∧
            e.body.toNat % 2 = s.nextCopies.1) ∧
          Touches [.clk, .store, .spdm] s r)))) ∧
  (∀ (t : Nat) (s : State), Completes (exec (.secureSessionLoss t) s) fun r => r.spdm.session = 0 ∧ r.spdm.nonce = 0 ∧ r.spdm.grant = false ∧ r.spdm.ide = none ∧ r.spdm.tokens = [] ∧
    (s.spdm.grant = true → Raised s r 367 0x74 0 0 0 0) ∧ (s.spdm.grant = false → r.evt = s.evt) ∧ Touches [.clk, .evt, .spdm] s r) ∧
  (∀ (t : Nat) (path : Path) (v : Reg) (s : State),
    (path = .host → s.host.linkUp = true → s.spdm.grant = true → v.getLsbD 0 = true → s.spdm.diag = none → Completes (exec (.diagGo t path v) s) fun r =>
      r.spdm = { s.spdm with diag := some (s.regN (.sec .diagAddr)) } ∧ r.regN (.sec .diagCtrl) = 0 ∧ RegsAlone [.sec .diagCtrl] s r ∧ Touches [.clk, .regs, .spdm] s r) ∧
    ((∀ x, path ≠ .offStream x) → path ≠ .bar2 ∨ s.host.held.any Held.isWrite = false → path ≠ .host ∨ s.host.linkUp = false ∨ s.spdm.grant = false ∨ v.getLsbD 0 = false ∨ s.spdm.diag ≠ none → Completes (exec (.diagGo t path v) s) fun r => Touches [.clk] s r)) ∧
  (∀ (t a : Nat) (s : State), s.spdm.diag = some a →
    (s.diagStatus a ≠ 0 → Completes (exec (.diagReadComplete t) s) fun r => r.spdm = { s.spdm with diag := none } ∧
      r.regN (.sec .diagCtrl) = 2 ^ 31 + s.diagStatus a * 2 ^ 28 ∧ (∀ k, k ∈ [SecReg.diagData0, .diagData1, .diagData2, .diagData3] → r.regN (.sec k) = 0) ∧
      RegsAlone [.sec .diagCtrl, .sec .diagData0, .sec .diagData1, .sec .diagData2, .sec .diagData3] s r ∧ Touches [.clk, .regs, .spdm] s r) ∧
    (∀ (i w : Nat) (d : Decoded), s.diagStatus a = 0 → storageAt (addrOffset a) = .scratchpad i w ∨ storageAt (addrOffset a) = .lane i w → d = s.decodeAt a →
      (d.verdict = 2 → Completes (exec (.diagReadComplete t) s) fun r => r.regN (.sec .diagCtrl) = 2 ^ 31 + 4 * 2 ^ 28 ∧ r.regN (.sec .diagData0) = 0 ∧ r.spdm.diag = none) ∧
      (d.verdict ≠ 2 → Completes (exec (.diagReadComplete t) s) fun r => r.regN (.sec .diagCtrl) = 2 ^ 31 ∧ r.regN (.sec .diagData0) = d.data.toNat % 2 ^ 32 ∧
        r.regN (.sec .diagData1) = d.data.toNat / 2 ^ 32 % 2 ^ 32 ∧ r.regN (.sec .diagData2) = d.data.toNat / 2 ^ 64 % 2 ^ 32 ∧
        r.regN (.sec .diagData3) = d.data.toNat / 2 ^ 96 % 2 ^ 32 ∧ r.spdm = { s.spdm with diag := none })))

/-! ### The machine as a whole -/

/-- The command at the front of the queue runs on the state with the queue's rest; with no command waiting the block idles (the model's own rule, log
entry 2). -/
def Obligations.StepRunsTheFrontCommand : Prop :=
  (∀ (c : Instr) (rest : List Instr) (s : State), step { s with pending := c :: rest } = exec c { s with pending := rest }) ∧
  (∀ (s : State), s.pending = [] → step s = .next s)

/-- R9: after power-on reset every register reads the value its table states: those whose Reset is not zero are listed, DEV_ID, the fused and the fixed ones among
them, and every other register reads zero. No bay has power, no session runs, no context is resident, no report waits. Where the table says Fused, Fixed or what a store
holds, the values are the model's choice (log entry 6): an MLM-T1-48S of mask set 1 (DEV_PART, DEV_STEPPING, PWR_CAP), owner slots 0 to 3 provisioned in SEC_STATUS, nothing
else fused. That each entry of the MSI-X table is masked is the PCIe rule (log entry 12, the model's presumption). -/
def Obligations.ResetState : Prop :=
  (State.reset.pending = [] ∧ State.reset.stitch.session = false ∧ State.reset.ctxs = [] ∧ State.reset.evt.inflight = [] ∧ State.reset.spdm.session = 0 ∧
    State.reset.spdm.grant = false ∧ (∀ b, (State.reset.bay b).power ≠ .active) ∧ (∀ p, (State.reset.panel p).fabricOn = false)) ∧
  (∀ (host : Bool) (id : RegId), State.reset.readReg host id = match id with
    | .dev .id => 0x7F1A0001
    | .dev .part => 1
    | .dev .stepping => 0x10
    | .dev .geometry => regOf (192 * 2 ^ 20 + 432 * 2 ^ 10 + 512)
    | .ver i w => if w = 0 ∧ i < 5 then 0x01010000 else if w = 1 ∧ (i = 0 ∨ i = 3) then 1 else if w = 1 ∧ i = 2 then 3 else 0
    | .host .pool => 0x04000800
    | .dmaRes _ => 16
    | .msixTable w => if w % 4 = 3 then 1 else 0
    | .evtSrc n => (match n with
      | 361 => 0x9F000000 | 367 => 0x9E000000 | 368 => 0x9D000000 | 362 => 0xAF000000 | 364 => 0xAE000000 | 365 => 0xAD000000 | 366 => 0xAC000000
      | _ => 0x80000000)
    | .time .peerCtrl => 1000
    | .time .hsyncFree => 16384
    | .stitch .replay => 3
    | .pwr .cap => regOf (23500 * 2 ^ 16 + 23500)
    | .twin .cfg => regOf (95 * 2 ^ 16 + 94 * 2 ^ 8 + 64)
    | .sec .status => 0x400F0000
    | .panelRoute _ _ => 0x80808080
    | .bay _ .fabSample => 8
    | .bay _ .pwrStatus => 0x1800
    | .bay _ .pwrVmin => 0xFFF
    | .cu _ .status => 0x1000
    | .cu _ .chkTol => 0x40
    | .cu _ .srSeed => 0x00010001
    | .cu _ .linkCfg => 0x42108
    | .cu _ .steerCfg => 16
    | .mu _ .slicePwr => 0xFF
    | .claim _ .id => 4095
    | .claim _ .status => 4095
    | _ => 0)

/-- Both memories have their canonical form at reset. -/
def Obligations.ResetKeepsTheInvariant : Prop := Inv State.reset

/-- Every command completes, and keeps both memories in their canonical form: equal memories stay equal data whatever the block is told to do. -/
def Obligations.EveryStepKeepsTheInvariant : Prop :=
  ∀ (s : State), Inv s → Completes (step s) fun t => Inv t
end

