-- ==== Sys2Proof/Laws/Memory.lean ====
section
/-! SUPPORT. Memory: reads after writes, and every memory operation keeps the canonical form. -/

namespace Sys2Proof.Machine

theorem memRead_memWrite_same (m : List Host.Cell) (a : Nat) (v : Byte) (h : Memory.wf m) : memRead (memWrite m a v) a = v := by
  induction m with
  | nil =>
    by_cases hv : v = 0
    · rw [memWrite, if_pos hv, hv]; rfl
    · simp only [memWrite, if_neg hv, memRead, if_true]
  | cons c rest ih =>
    obtain ⟨k, w⟩ := c
    obtain ⟨hp, hz⟩ := h
    rw [List.pairwise_cons] at hp
    have hrest : ∀ (l : List Host.Cell), (∀ c ∈ l, a < c.1) → memRead l a = 0 := by
      intro l
      induction l with
      | nil => intro _; rfl
      | cons d l ihl =>
        intro hl
        have hd : d.1 ≠ a := by have := hl d (by simp); omega
        simp [memRead, hd, ihl (fun c hc => hl c (List.mem_cons_of_mem _ hc))]
    simp only [memWrite]
    split
    · rename_i hlt
      by_cases hv : v = 0
      · simp only [hv, if_true]
        exact hrest _ (by
          intro c hc
          rcases List.mem_cons.1 hc with rfl | hc
          · exact hlt
          · have := hp.1 c hc; simp only at this; omega)
      · simp only [if_neg hv, memRead, if_true]
    · split
      · rename_i _ he
        by_cases hv : v = 0
        · simp only [hv, if_true]
          exact hrest _ (by intro c hc; have := hp.1 c hc; simp only at this; omega)
        · simp only [if_neg hv, memRead, if_true]
      · rename_i h1 h2
        have : k ≠ a := by omega
        simp only [memRead, this, if_false]
        exact ih ⟨hp.2, fun c hc => hz c (List.mem_cons_of_mem _ hc)⟩

theorem memRead_memWrite_other (m : List Host.Cell) (a b : Nat) (v : Byte) (hb : b ≠ a) :
    memRead (memWrite m a v) b = memRead m b := by
  induction m with
  | nil =>
    by_cases hv : v = 0
    · simp only [memWrite, if_pos hv]
    · simp only [memWrite, if_neg hv, memRead, if_neg (Ne.symm hb)]
  | cons c rest ih =>
    obtain ⟨k, w⟩ := c
    simp only [memWrite]
    split
    · by_cases hv : v = 0
      · simp only [if_pos hv]
      · simp only [if_neg hv, memRead, if_neg (Ne.symm hb)]
    · split
      · rename_i _ he
        subst he
        by_cases hv : v = 0
        · simp only [if_pos hv, memRead, if_neg (Ne.symm hb)]
        · simp only [if_neg hv, memRead, if_neg (Ne.symm hb)]
      · simp only [memRead, ih]

theorem mem_memWrite {m : List Host.Cell} {a : Nat} {v : Byte} {c : Host.Cell} (h : c ∈ memWrite m a v) :
    c ∈ m ∨ c = (a, v) ∧ v ≠ 0 := by
  induction m with
  | nil =>
    by_cases hv : v = 0
    · rw [memWrite, if_pos hv] at h; exact absurd h List.not_mem_nil
    · rw [memWrite, if_neg hv] at h; exact .inr ⟨List.mem_singleton.1 h, hv⟩
  | cons d rest ih =>
    obtain ⟨k, w⟩ := d
    simp only [memWrite] at h
    split at h
    · by_cases hv : v = 0
      · simp only [hv, if_true] at h; exact .inl h
      · simp only [hv, if_false] at h
        rcases List.mem_cons.1 h with rfl | h
        · exact .inr ⟨rfl, hv⟩
        · exact .inl h
    · split at h
      · by_cases hv : v = 0
        · simp only [hv, if_true] at h; exact .inl (List.mem_cons_of_mem _ h)
        · simp only [hv, if_false] at h
          rcases List.mem_cons.1 h with rfl | h
          · exact .inr ⟨rfl, hv⟩
          · exact .inl (List.mem_cons_of_mem _ h)
      · rcases List.mem_cons.1 h with rfl | h
        · exact .inl List.mem_cons_self
        · rcases ih h with h | h
          · exact .inl (List.mem_cons_of_mem _ h)
          · exact .inr h

theorem memWf_memWrite {m : List Host.Cell} (a : Nat) (v : Byte) (h : Memory.wf m) : Memory.wf (memWrite m a v) := by
  refine ⟨?_, fun c hc => ?_⟩
  · induction m with
    | nil =>
      by_cases hv : v = 0
      · rw [memWrite, if_pos hv]; exact List.Pairwise.nil
      · rw [memWrite, if_neg hv]; exact List.pairwise_singleton _ _
    | cons d rest ih =>
      obtain ⟨k, w⟩ := d
      obtain ⟨hp, hz⟩ := h
      have hp' := List.pairwise_cons.1 hp
      simp only [memWrite]
      split
      · rename_i hlt
        by_cases hv : v = 0
        · simp only [hv, if_true]; exact hp
        · simp only [hv, if_false]
          refine List.pairwise_cons.2 ⟨fun c hc => ?_, hp⟩
          rcases List.mem_cons.1 hc with rfl | hc
          · exact hlt
          · have := hp'.1 c hc; simp only at this ⊢; omega
      · split
        · rename_i _ he
          by_cases hv : v = 0
          · simp only [hv, if_true]; exact hp'.2
          · simp only [hv, if_false]
            refine List.pairwise_cons.2 ⟨fun c hc => ?_, hp'.2⟩
            have := hp'.1 c hc; simp only at this ⊢; omega
        · refine List.pairwise_cons.2 ⟨fun c hc => ?_, ih ⟨hp'.2, fun c hc => hz c (List.mem_cons_of_mem _ hc)⟩⟩
          rcases mem_memWrite hc with hc | ⟨rfl, _⟩
          · exact hp'.1 c hc
          · simp only; omega
  · rcases mem_memWrite hc with hc | ⟨rfl, hv⟩
    · exact h.2 c hc
    · exact hv

theorem memWf_memWrites {m : List Host.Cell} (a : Nat) (vs : List Byte) (h : Memory.wf m) : Memory.wf (memWrites m a vs) := by
  induction vs generalizing m a with
  | nil => exact h
  | cons v vs ih => exact ih _ (memWf_memWrite a v h)

theorem memWf_filter {m : List Host.Cell} (p : Host.Cell → Bool) (h : Memory.wf m) : Memory.wf (m.filter p) :=
  ⟨h.1.filter _, fun c hc => h.2 c (List.mem_filter.mp hc).1⟩

theorem memWf_memDrop {m : List Host.Cell} (lo n : Nat) (h : Memory.wf m) : Memory.wf (memDrop m lo n) := memWf_filter _ h

theorem memWf_nil : Memory.wf [] := ⟨List.Pairwise.nil, fun _ h => absurd h (List.not_mem_nil)⟩

/-- A write of bytes leaves every byte outside them. -/
theorem memRead_memWrites_other (m : List Host.Cell) (a b : Nat) (vs : List Byte) (hb : b < a ∨ a + vs.length ≤ b) :
    memRead (memWrites m a vs) b = memRead m b := by
  induction vs generalizing m a with
  | nil => rfl
  | cons v vs ih =>
    simp only [List.length_cons] at hb
    rw [memWrites, ih _ _ (by omega), memRead_memWrite_other _ _ _ _ (by omega)]

/-- What a write of bytes stored is read back. -/
theorem memReads_memWrites (m : List Host.Cell) (a : Nat) (vs : List Byte) (h : Memory.wf m) :
    memReads (memWrites m a vs) a vs.length = vs := by
  induction vs generalizing m a with
  | nil => rfl
  | cons v vs ih =>
    simp only [memWrites, List.length_cons, memReads]
    rw [memRead_memWrites_other _ _ _ _ (.inl (by omega)), memRead_memWrite_same _ _ _ h, ih _ _ (memWf_memWrite a v h)]

end Sys2Proof.Machine
end

