-- ==== Sys2Proof/Laws/Kept.lean ====
section
/-! SUPPORT. What an operation may touch: the relation that every operation's lemma (Laws/Kept*.lean) speaks of, and its rules. -/

namespace Sys2Proof.Machine

/-- From `s` to `t` only the parts in `l` differ, the queue is the same and the invariant stands. -/
structure Kept (l : List Comp) (s t : State) : Prop where
  touches : Touches l s t
  inv : Inv s → Inv t

theorem Kept.refl (l : List Comp) (s : State) : Kept l s s :=
  ⟨⟨rfl, fun k _ => by cases k <;> first | rfl | exact ⟨rfl, rfl⟩⟩, id⟩

theorem agrees_trans {k : Comp} {a b c : State} (h : agrees k a b) (h' : agrees k b c) : agrees k a c := by
  cases k <;> first | exact Eq.trans h' h | exact ⟨h'.1.trans h.1, h'.2.trans h.2⟩

theorem Kept.trans {l : List Comp} {a b c : State} (h : Kept l a b) (h' : Kept l b c) : Kept l a c :=
  ⟨⟨h'.touches.1.trans h.touches.1, fun k hk => agrees_trans (h.touches.2 k hk) (h'.touches.2 k hk)⟩, fun i => h'.inv (h.inv i)⟩

theorem Kept.mono {l m : List Comp} {a b : State} (h : Kept l a b) (hl : l ⊆ m) : Kept m a b :=
  ⟨⟨h.touches.1, fun k hk => h.touches.2 k (fun e => hk (hl e))⟩, h.inv⟩

theorem sub {k l m : List Comp} (h : l ⊆ m) (e : k ⊆ l) : k ⊆ m := List.Subset.trans e h

/-- A change of fields other than the queue and the two memories. -/
theorem Kept.upd {l : List Comp} {a s t : State} (h : Kept l a s) (hp : t.pending = s.pending) (hm : t.mem = s.mem)
    (hh : t.hostMem = s.hostMem) (hc : ∀ k, k ∉ l → agrees k s t) : Kept l a t :=
  h.trans ⟨⟨hp, hc⟩, fun i => by unfold Inv at *; rw [hm, hh]; exact i⟩

theorem Kept.foldl {α : Type} {l : List Comp} {a s : State} {f : State → α → State} {xs : List α} (h : Kept l a s)
    (hf : ∀ t x, Kept l a t → Kept l a (f t x)) : Kept l a (xs.foldl f s) := by
  induction xs generalizing s with
  | nil => exact h
  | cons x xs ih => exact ih (hf s x h)

theorem Kept.foldl₂ {α β : Type} {l : List Comp} {a : State} {s : β × State} {f : β × State → α → β × State} {xs : List α}
    (h : Kept l a s.2) (hf : ∀ t x, Kept l a t.2 → Kept l a (f t x).2) : Kept l a (xs.foldl f s).2 := by
  induction xs generalizing s with
  | nil => exact h
  | cons x xs ih => exact ih (hf s x h)

/-- The same, with the value of each application under a name, so that no projection of an application is evaluated. -/
theorem Kept.foldl_named {α β : Type} {l : List Comp} {a : State} {s : β × State} {f : β × State → α → β × State} {xs : List α}
    (h : Kept l a s.2) (hf : ∀ t x y, f t x = y → Kept l a t.2 → Kept l a y.2) : Kept l a (xs.foldl f s).2 := by
  induction xs generalizing s with
  | nil => exact h
  | cons x xs ih => exact ih (hf s x _ rfl h)

theorem Kept.foldl₁ {α β : Type} {l : List Comp} {a : State} {s : State × β} {f : State × β → α → State × β} {xs : List α}
    (h : Kept l a s.1) (hf : ∀ t x, Kept l a t.1 → Kept l a (f t x).1) : Kept l a (xs.foldl f s).1 := by
  induction xs generalizing s with
  | nil => exact h
  | cons x xs ih => exact ih (hf s x h)

theorem Kept.ite {l : List Comp} {a s t : State} {c : Prop} [Decidable c] (hs : Kept l a s) (ht : Kept l a t) :
    Kept l a (if c then s else t) := by
  split
  · exact hs
  · exact ht

/-- `Kept l a t`, with the state `s` that `t` was made from by changing fields other than the queue and the two memories. -/
def KeptUpd (l : List Comp) (a _s t : State) : Prop := Kept l a t

/-- The lemmas of Laws/Kept*.lean use this rule to meet a state written out field by field. -/
theorem kept_lit {l : List Comp} {a s : State} {x1 x3 x5 x6 x7 x8 x9 x10 x11 x12 x13 x14 x15 x16 x17 x18 x19 x20 x21 x22 x23 x24 x25 x26} :
    Kept l a (State.mk s.pending x1 s.mem x3 s.hostMem x5 x6 x7 x8 x9 x10 x11 x12 x13 x14 x15 x16 x17 x18 x19 x20 x21 x22 x23 x24 x25 x26) =
      KeptUpd l a s (State.mk s.pending x1 s.mem x3 s.hostMem x5 x6 x7 x8 x9 x10 x11 x12 x13 x14 x15 x16 x17 x18 x19 x20 x21 x22 x23 x24 x25 x26) := rfl

theorem KeptUpd.intro {l : List Comp} {a s t : State} (h : Kept l a s) (hc : ∀ k, k ∉ l → agrees k s t)
    (e : t.pending = s.pending ∧ t.mem = s.mem ∧ t.hostMem = s.hostMem) : KeptUpd l a s t := h.upd e.1 e.2.1 e.2.2 hc

/-- The same where a memory is written. -/
theorem kept_litm {l : List Comp} {a s : State} {x1 x2 x3 x4 x5 x6 x7 x8 x9 x10 x11 x12 x13 x14 x15 x16 x17 x18 x19 x20 x21 x22 x23 x24 x25 x26} :
    Kept l a (State.mk s.pending x1 x2 x3 x4 x5 x6 x7 x8 x9 x10 x11 x12 x13 x14 x15 x16 x17 x18 x19 x20 x21 x22 x23 x24 x25 x26) =
      KeptUpd l a s (State.mk s.pending x1 x2 x3 x4 x5 x6 x7 x8 x9 x10 x11 x12 x13 x14 x15 x16 x17 x18 x19 x20 x21 x22 x23 x24 x25 x26) := rfl

theorem KeptUpd.intro_mem {l : List Comp} {a s t : State} (h : Kept l a s) (hc : ∀ k, k ∉ l → agrees k s t)
    (e : t.pending = s.pending) (hm : Memory.wf s.mem → Memory.wf t.mem) (hh : Memory.wf s.hostMem → Memory.wf t.hostMem) : KeptUpd l a s t :=
  h.trans ⟨⟨e, hc⟩, fun i => ⟨hm i.1, hh i.2⟩⟩

/-- An operation that may not answer: its state, when it does. -/
def KeptO {α : Type} (l : List Comp) (a : State) (o : Option (α × State)) : Prop := ∀ y, o = some y → Kept l a y.2

theorem KeptO.none {α : Type} {l : List Comp} {a : State} : KeptO l a (none : Option (α × State)) := fun _ h => nomatch h

theorem KeptO.some {α : Type} {l : List Comp} {a s : State} {x : α} (h : Kept l a s) : KeptO l a (some (x, s)) :=
  fun _ e => by cases e; exact h

theorem KeptO.ite {α : Type} {l : List Comp} {a : State} {c : Prop} [Decidable c] {o p : Option (α × State)} (ho : KeptO l a o)
    (hp : KeptO l a p) : KeptO l a (if c then o else p) := by
  split
  · exact ho
  · exact hp

def KeptS (l : List Comp) (a : State) (o : Option State) : Prop := ∀ y, o = some y → Kept l a y

theorem KeptS.none {l : List Comp} {a : State} : KeptS l a none := fun _ h => nomatch h

theorem KeptS.some {l : List Comp} {a s : State} (h : Kept l a s) : KeptS l a (some s) := fun _ e => by cases e; exact h

theorem Kept.of_snd {α : Type} {l : List Comp} {a s : State} {p : α × State} {x : α} (e : p = (x, s)) (h : Kept l a p.2) :
    Kept l a s := by subst e; exact h

theorem Kept.of_fst {α : Type} {l : List Comp} {a s : State} {p : State × α} {x : α} (e : p = (s, x)) (h : Kept l a p.1) :
    Kept l a s := by subst e; exact h

theorem KeptO.of {α : Type} {l : List Comp} {a s : State} {o : Option (α × State)} {x : α} (e : o = Option.some (x, s)) (h : KeptO l a o) :
    Kept l a s := h (x, s) e

theorem KeptS.of {l : List Comp} {a s : State} {o : Option State} (e : o = Option.some s) (h : KeptS l a o) : Kept l a s := h s e

theorem KeptS.getD {l : List Comp} {a s : State} {o : Option State} (h : KeptS l a o) (hs : Kept l a s) : Kept l a (o.getD s) := by
  cases o with
  | none => exact hs
  | some t => exact h t rfl

/-- A command that completes and touches only the parts in `l`. -/
def Runs (l : List Comp) (s : State) (o : Host.Outcome State Fault Refusal) : Prop := Completes o (Kept l s)

theorem Runs.next {l : List Comp} {s t : State} (h : Kept l s t) : Runs l s (.next t) := ⟨t, rfl, h⟩

/-! What a part outside the list keeps. -/

theorem Kept.eq_free {l : List Comp} {a t : State} (h : Kept l a t) (hk : .free ∉ l) : t.free = a.free := h.touches.2 .free hk
theorem Kept.eq_mem {l : List Comp} {a t : State} (h : Kept l a t) (hk : .mem ∉ l) : t.mem = a.mem := h.touches.2 .mem hk
theorem Kept.eq_errs {l : List Comp} {a t : State} (h : Kept l a t) (hk : .errs ∉ l) : t.errs = a.errs := h.touches.2 .errs hk
theorem Kept.eq_hostMem {l : List Comp} {a t : State} (h : Kept l a t) (hk : .hostMem ∉ l) : t.hostMem = a.hostMem := h.touches.2 .hostMem hk
theorem Kept.eq_regs {l : List Comp} {a t : State} (h : Kept l a t) (hk : .regs ∉ l) : t.regs = a.regs := (h.touches.2 .regs hk).1
theorem Kept.eq_hw {l : List Comp} {a t : State} (h : Kept l a t) (hk : .regs ∉ l) : t.hw = a.hw := (h.touches.2 .regs hk).2
theorem Kept.eq_clk {l : List Comp} {a t : State} (h : Kept l a t) (hk : .clk ∉ l) : t.clk = a.clk := h.touches.2 .clk hk
theorem Kept.eq_stitch {l : List Comp} {a t : State} (h : Kept l a t) (hk : .stitch ∉ l) : t.stitch = a.stitch := h.touches.2 .stitch hk
theorem Kept.eq_ctxs {l : List Comp} {a t : State} (h : Kept l a t) (hk : .ctxs ∉ l) : t.ctxs = a.ctxs := h.touches.2 .ctxs hk
theorem Kept.eq_hsync {l : List Comp} {a t : State} (h : Kept l a t) (hk : .hsync ∉ l) : t.hsync = a.hsync := h.touches.2 .hsync hk
theorem Kept.eq_bays {l : List Comp} {a t : State} (h : Kept l a t) (hk : .bays ∉ l) : t.bays = a.bays := h.touches.2 .bays hk
theorem Kept.eq_panels {l : List Comp} {a t : State} (h : Kept l a t) (hk : .panels ∉ l) : t.panels = a.panels := h.touches.2 .panels hk
theorem Kept.eq_cus {l : List Comp} {a t : State} (h : Kept l a t) (hk : .cus ∉ l) : t.cus = a.cus := h.touches.2 .cus hk
theorem Kept.eq_mus {l : List Comp} {a t : State} (h : Kept l a t) (hk : .mus ∉ l) : t.mus = a.mus := h.touches.2 .mus hk
theorem Kept.eq_rtrs {l : List Comp} {a t : State} (h : Kept l a t) (hk : .rtrs ∉ l) : t.rtrs = a.rtrs := h.touches.2 .rtrs hk
theorem Kept.eq_host {l : List Comp} {a t : State} (h : Kept l a t) (hk : .host ∉ l) : t.host = a.host := h.touches.2 .host hk
theorem Kept.eq_evt {l : List Comp} {a t : State} (h : Kept l a t) (hk : .evt ∉ l) : t.evt = a.evt := h.touches.2 .evt hk
theorem Kept.eq_claims {l : List Comp} {a t : State} (h : Kept l a t) (hk : .claims ∉ l) : t.claims = a.claims := h.touches.2 .claims hk
theorem Kept.eq_hbm {l : List Comp} {a t : State} (h : Kept l a t) (hk : .hbm ∉ l) : t.hbm = a.hbm := h.touches.2 .hbm hk
theorem Kept.eq_sites {l : List Comp} {a t : State} (h : Kept l a t) (hk : .sites ∉ l) : t.sites = a.sites := h.touches.2 .sites hk
theorem Kept.eq_twin {l : List Comp} {a t : State} (h : Kept l a t) (hk : .twin ∉ l) : t.twin = a.twin := h.touches.2 .twin hk
theorem Kept.eq_sup {l : List Comp} {a t : State} (h : Kept l a t) (hk : .sup ∉ l) : t.sup = a.sup := h.touches.2 .sup hk
theorem Kept.eq_rel {l : List Comp} {a t : State} (h : Kept l a t) (hk : .rel ∉ l) : t.rel = a.rel := h.touches.2 .rel hk
theorem Kept.eq_store {l : List Comp} {a t : State} (h : Kept l a t) (hk : .store ∉ l) : t.store = a.store := h.touches.2 .store hk
theorem Kept.eq_fuses {l : List Comp} {a t : State} (h : Kept l a t) (hk : .fuses ∉ l) : t.fuses = a.fuses := h.touches.2 .fuses hk
theorem Kept.eq_spdm {l : List Comp} {a t : State} (h : Kept l a t) (hk : .spdm ∉ l) : t.spdm = a.spdm := h.touches.2 .spdm hk
theorem Kept.eq_bay {l : List Comp} {a t : State} (h : Kept l a t) (hk : .bays ∉ l) (q : Nat) : t.bay q = a.bay q := by
  unfold State.bay; rw [h.eq_bays hk]
theorem Kept.eq_panel {l : List Comp} {a t : State} (h : Kept l a t) (hk : .panels ∉ l) (q : Nat) : t.panel q = a.panel q := by
  unfold State.panel; rw [h.eq_panels hk]
theorem Kept.eq_cu {l : List Comp} {a t : State} (h : Kept l a t) (hk : .cus ∉ l) (q : Nat) : t.cu q = a.cu q := by
  unfold State.cu; rw [h.eq_cus hk]
theorem Kept.eq_mu {l : List Comp} {a t : State} (h : Kept l a t) (hk : .mus ∉ l) (q : Nat) : t.mu q = a.mu q := by
  unfold State.mu; rw [h.eq_mus hk]
theorem Kept.eq_rtr {l : List Comp} {a t : State} (h : Kept l a t) (hk : .rtrs ∉ l) (q : Nat) : t.rtr q = a.rtr q := by
  unfold State.rtr; rw [h.eq_rtrs hk]
theorem Kept.eq_site {l : List Comp} {a t : State} (h : Kept l a t) (hk : .sites ∉ l) (q : Nat) : t.site q = a.site q := by
  unfold State.site; rw [h.eq_sites hk]
theorem Kept.eq_claim {l : List Comp} {a t : State} (h : Kept l a t) (hk : .claims ∉ l) (q : Nat) : t.claim q = a.claim q := by
  unfold State.claim; rw [h.eq_claims hk]
theorem Kept.eq_reg {l : List Comp} {a t : State} (h : Kept l a t) (hk : .regs ∉ l) (q : RegId) : t.reg q = a.reg q := by
  unfold State.reg; rw [h.eq_regs hk]

end Sys2Proof.Machine
end

