-- ==== Sys2Proof/Laws/KeptOps.lean ====
section
/-! SUPPORT. What each operation of Machine/Ops.lean may touch, and that it keeps the queue and the invariant. -/

namespace Sys2Proof.Machine

variable {l : List Comp} {a s : State}

theorem kept_setBay {b : Nat} {v : Bay} (hl : [.bays] ⊆ l) (h : Kept l a s) :
    Kept l a (State.setBay s b v) := by
  unfold State.setBay
  repeat' first
    | with_reducible exact h
    | with_reducible refine Kept.ite ?_ ?_
    | (intro k hk; cases k <;> first | exact absurd (hl (by decide)) hk | rfl | exact ⟨rfl, rfl⟩)
    | (simp only [kept_lit]; refine KeptUpd.intro ?_ ?_ ⟨rfl, rfl, rfl⟩)
    | dsimp only

theorem kept_setPanel {p : Nat} {v : Panel} (hl : [.panels] ⊆ l) (h : Kept l a s) :
    Kept l a (State.setPanel s p v) := by
  unfold State.setPanel
  repeat' first
    | with_reducible exact h
    | with_reducible refine Kept.ite ?_ ?_
    | (intro k hk; cases k <;> first | exact absurd (hl (by decide)) hk | rfl | exact ⟨rfl, rfl⟩)
    | (simp only [kept_lit]; refine KeptUpd.intro ?_ ?_ ⟨rfl, rfl, rfl⟩)
    | dsimp only

theorem kept_setCu {u : Nat} {v : Cu} (hl : [.cus] ⊆ l) (h : Kept l a s) :
    Kept l a (State.setCu s u v) := by
  unfold State.setCu
  repeat' first
    | with_reducible exact h
    | with_reducible refine Kept.ite ?_ ?_
    | (intro k hk; cases k <;> first | exact absurd (hl (by decide)) hk | rfl | exact ⟨rfl, rfl⟩)
    | (simp only [kept_lit]; refine KeptUpd.intro ?_ ?_ ⟨rfl, rfl, rfl⟩)
    | dsimp only

theorem kept_setMu {c : Nat} {v : Mu} (hl : [.mus] ⊆ l) (h : Kept l a s) :
    Kept l a (State.setMu s c v) := by
  unfold State.setMu
  repeat' first
    | with_reducible exact h
    | with_reducible refine Kept.ite ?_ ?_
    | (intro k hk; cases k <;> first | exact absurd (hl (by decide)) hk | rfl | exact ⟨rfl, rfl⟩)
    | (simp only [kept_lit]; refine KeptUpd.intro ?_ ?_ ⟨rfl, rfl, rfl⟩)
    | dsimp only

theorem kept_setRtr {c : Nat} {v : Rtr} (hl : [.rtrs] ⊆ l) (h : Kept l a s) :
    Kept l a (State.setRtr s c v) := by
  unfold State.setRtr
  repeat' first
    | with_reducible exact h
    | with_reducible refine Kept.ite ?_ ?_
    | (intro k hk; cases k <;> first | exact absurd (hl (by decide)) hk | rfl | exact ⟨rfl, rfl⟩)
    | (simp only [kept_lit]; refine KeptUpd.intro ?_ ?_ ⟨rfl, rfl, rfl⟩)
    | dsimp only

theorem kept_setSite {t : Nat} {v : Site} (hl : [.sites] ⊆ l) (h : Kept l a s) :
    Kept l a (State.setSite s t v) := by
  unfold State.setSite
  repeat' first
    | with_reducible exact h
    | with_reducible refine Kept.ite ?_ ?_
    | (intro k hk; cases k <;> first | exact absurd (hl (by decide)) hk | rfl | exact ⟨rfl, rfl⟩)
    | (simp only [kept_lit]; refine KeptUpd.intro ?_ ?_ ⟨rfl, rfl, rfl⟩)
    | dsimp only

theorem kept_setCtx {k : Nat} {v : Ctx} (hl : [.ctxs] ⊆ l) (h : Kept l a s) :
    Kept l a (State.setCtx s k v) := by
  unfold State.setCtx
  repeat' first
    | with_reducible exact h
    | with_reducible refine Kept.ite ?_ ?_
    | (intro k hk; cases k <;> first | exact absurd (hl (by decide)) hk | rfl | exact ⟨rfl, rfl⟩)
    | (simp only [kept_lit]; refine KeptUpd.intro ?_ ?_ ⟨rfl, rfl, rfl⟩)
    | dsimp only

theorem kept_setClaim {k : Nat} {v : Claims} (hl : [.claims] ⊆ l) (h : Kept l a s) :
    Kept l a (State.setClaim s k v) := by
  unfold State.setClaim
  repeat' first
    | with_reducible exact h
    | with_reducible refine Kept.ite ?_ ?_
    | (intro k hk; cases k <;> first | exact absurd (hl (by decide)) hk | rfl | exact ⟨rfl, rfl⟩)
    | (simp only [kept_lit]; refine KeptUpd.intro ?_ ?_ ⟨rfl, rfl, rfl⟩)
    | dsimp only

theorem kept_modBay {b : Nat} {f : Bay → Bay} (hl : [.bays] ⊆ l) (h : Kept l a s) :
    Kept l a (State.modBay s b f) := by
  unfold State.modBay
  with_reducible repeat' first
    | exact h
    | refine Kept.ite ?_ ?_
    | refine kept_setBay (sub hl (by decide)) ?_
    | dsimp only

theorem kept_modPanel {p : Nat} {f : Panel → Panel} (hl : [.panels] ⊆ l) (h : Kept l a s) :
    Kept l a (State.modPanel s p f) := by
  unfold State.modPanel
  with_reducible repeat' first
    | exact h
    | refine Kept.ite ?_ ?_
    | refine kept_setPanel (sub hl (by decide)) ?_
    | dsimp only

theorem kept_modCu {u : Nat} {f : Cu → Cu} (hl : [.cus] ⊆ l) (h : Kept l a s) :
    Kept l a (State.modCu s u f) := by
  unfold State.modCu
  with_reducible repeat' first
    | exact h
    | refine Kept.ite ?_ ?_
    | refine kept_setCu (sub hl (by decide)) ?_
    | dsimp only

theorem kept_modMu {c : Nat} {f : Mu → Mu} (hl : [.mus] ⊆ l) (h : Kept l a s) :
    Kept l a (State.modMu s c f) := by
  unfold State.modMu
  with_reducible repeat' first
    | exact h
    | refine Kept.ite ?_ ?_
    | refine kept_setMu (sub hl (by decide)) ?_
    | dsimp only

theorem kept_modRtr {c : Nat} {f : Rtr → Rtr} (hl : [.rtrs] ⊆ l) (h : Kept l a s) :
    Kept l a (State.modRtr s c f) := by
  unfold State.modRtr
  with_reducible repeat' first
    | exact h
    | refine Kept.ite ?_ ?_
    | refine kept_setRtr (sub hl (by decide)) ?_
    | dsimp only

theorem kept_modSite {t : Nat} {f : Site → Site} (hl : [.sites] ⊆ l) (h : Kept l a s) :
    Kept l a (State.modSite s t f) := by
  unfold State.modSite
  with_reducible repeat' first
    | exact h
    | refine Kept.ite ?_ ?_
    | refine kept_setSite (sub hl (by decide)) ?_
    | dsimp only

theorem kept_modStitch {f : Stitch → Stitch} (hl : [.stitch] ⊆ l) (h : Kept l a s) :
    Kept l a (State.modStitch s f) := by
  unfold State.modStitch
  repeat' first
    | with_reducible exact h
    | with_reducible refine Kept.ite ?_ ?_
    | (intro k hk; cases k <;> first | exact absurd (hl (by decide)) hk | rfl | exact ⟨rfl, rfl⟩)
    | (simp only [kept_lit]; refine KeptUpd.intro ?_ ?_ ⟨rfl, rfl, rfl⟩)
    | dsimp only

theorem kept_modClk {f : Clk → Clk} (hl : [.clk] ⊆ l) (h : Kept l a s) :
    Kept l a (State.modClk s f) := by
  unfold State.modClk
  repeat' first
    | with_reducible exact h
    | with_reducible refine Kept.ite ?_ ?_
    | (intro k hk; cases k <;> first | exact absurd (hl (by decide)) hk | rfl | exact ⟨rfl, rfl⟩)
    | (simp only [kept_lit]; refine KeptUpd.intro ?_ ?_ ⟨rfl, rfl, rfl⟩)
    | dsimp only

theorem kept_setReg {r : RegId} {v : Reg} (hl : [.regs] ⊆ l) (h : Kept l a s) :
    Kept l a (State.setReg s r v) := by
  unfold State.setReg
  repeat' first
    | with_reducible exact h
    | with_reducible refine Kept.ite ?_ ?_
    | (intro k hk; cases k <;> first | exact absurd (hl (by decide)) hk | rfl | exact ⟨rfl, rfl⟩)
    | (simp only [kept_lit]; refine KeptUpd.intro ?_ ?_ ⟨rfl, rfl, rfl⟩)
    | dsimp only

theorem kept_modReg {r : RegId} {f : Reg → Reg} (hl : [.regs] ⊆ l) (h : Kept l a s) :
    Kept l a (State.modReg s r f) := by
  unfold State.modReg
  with_reducible repeat' first
    | exact h
    | refine Kept.ite ?_ ?_
    | refine kept_setReg (sub hl (by decide)) ?_
    | dsimp only

theorem kept_hwSet {r : RegId} {f : Reg → Reg} (hl : [.regs] ⊆ l) (h : Kept l a s) :
    Kept l a (State.hwSet s r f) := by
  unfold State.hwSet
  repeat' first
    | with_reducible exact h
    | with_reducible refine Kept.ite ?_ ?_
    | with_reducible refine kept_modReg (sub hl (by decide)) ?_
    | (intro k hk; cases k <;> first | exact absurd (hl (by decide)) hk | rfl | exact ⟨rfl, rfl⟩)
    | (simp only [kept_lit]; refine KeptUpd.intro ?_ ?_ ⟨rfl, rfl, rfl⟩)
    | dsimp only

theorem kept_count {r : RegId} {n : Nat} (hl : [.regs] ⊆ l) (h : Kept l a s) :
    Kept l a (State.count s r n) := by
  unfold State.count
  with_reducible repeat' first
    | exact h
    | refine Kept.ite ?_ ?_
    | refine kept_hwSet (sub hl (by decide)) ?_
    | dsimp only

theorem kept_tally {r : RegId} {n : Nat} (hl : [.regs] ⊆ l) (h : Kept l a s) :
    Kept l a (State.tally s r n) := by
  unfold State.tally
  with_reducible repeat' first
    | exact h
    | refine Kept.ite ?_ ?_
    | refine kept_modReg (sub hl (by decide)) ?_
    | dsimp only

theorem kept_record {r : RegId} {validBit : Nat} {v : Nat} (hl : [.regs] ⊆ l) (h : Kept l a s) :
    Kept l a (State.record s r validBit v) := by
  unfold State.record
  with_reducible repeat' first
    | exact h
    | refine Kept.ite ?_ ?_
    | refine kept_hwSet (sub hl (by decide)) ?_
    | dsimp only

theorem kept_dropRegs {p : RegId → Bool} (hl : [.regs] ⊆ l) (h : Kept l a s) :
    Kept l a (State.dropRegs s p) := by
  unfold State.dropRegs
  repeat' first
    | with_reducible exact h
    | with_reducible refine Kept.ite ?_ ?_
    | (intro k hk; cases k <;> first | exact absurd (hl (by decide)) hk | rfl | exact ⟨rfl, rfl⟩)
    | (simp only [kept_lit]; refine KeptUpd.intro ?_ ?_ ⟨rfl, rfl, rfl⟩)
    | dsimp only

theorem kept_bayCycles {b : Nat} {d : Nat} (hl : [.regs, .bays] ⊆ l) (h : Kept l a s) :
    Kept l a (State.bayCycles s b d) := by
  unfold State.bayCycles
  with_reducible repeat' first
    | exact h
    | assumption
    | refine Kept.ite ?_ ?_
    | refine kept_setBay (sub hl (by decide)) ?_
    | refine kept_tally (sub hl (by decide)) ?_
    | refine Kept.foldl ?_ ?_
    | refine Kept.foldl₂ ?_ ?_
    | refine Kept.foldl₁ ?_ ?_
    | (split; rename_i e; have e0 := congrArg (fun p => p.1) e; have e1 := congrArg (fun p => p.2.1) e; have e2 := congrArg (fun p => p.2.2.1) e; have e3 := congrArg (fun p => p.2.2.2) e; dsimp only at e0 e1 e2 e3; subst e0; subst e1; subst e2; subst e3)
    | (split; rename_i e; have e0 := congrArg (fun p => p.1) e; have e1 := congrArg (fun p => p.2.1) e; have e2 := congrArg (fun p => p.2.2) e; dsimp only at e0 e1 e2; subst e0; subst e1; subst e2)
    | (split; rename_i e; have e0 := congrArg (fun p => p.1) e; have e1 := congrArg (fun p => p.2) e; dsimp only at e0 e1; subst e0; subst e1)
    | (split; rename_i e; have e0 := congrArg (fun p => p.2) e; dsimp only at e0; subst e0)
    | (split; rename_i e; have e0 := congrArg (fun p => p.1) e; dsimp only at e0; subst e0)
    | split
    | (refine Kept.of_snd (by assumption) ?_)
    | intro _ _ _ _
    | intro _ _ _
    | intro _ _
    | intro _
    | dsimp only

theorem kept_bayTime {b : Nat} {t : Nat} (hl : [.regs, .bays] ⊆ l) (h : Kept l a s) :
    Kept l a (State.bayTime s b t) := by
  unfold State.bayTime
  with_reducible repeat' first
    | exact h
    | refine Kept.ite ?_ ?_
    | refine kept_bayCycles (sub hl (by decide)) ?_
    | dsimp only

theorem kept_masterTime {t : Nat} (hl : [.clk] ⊆ l) (h : Kept l a s) :
    Kept l a (State.masterTime s t) := by
  unfold State.masterTime
  with_reducible repeat' first
    | exact h
    | refine Kept.ite ?_ ?_
    | refine kept_modClk (sub hl (by decide)) ?_
    | dsimp only

theorem kept_report {r : Report} (hl : [.evt] ⊆ l) (h : Kept l a s) :
    Kept l a (State.report s r) := by
  unfold State.report
  repeat' first
    | with_reducible exact h
    | with_reducible refine Kept.ite ?_ ?_
    | (intro k hk; cases k <;> first | exact absurd (hl (by decide)) hk | rfl | exact ⟨rfl, rfl⟩)
    | (simp only [kept_lit]; refine KeptUpd.intro ?_ ?_ ⟨rfl, rfl, rfl⟩)
    | dsimp only

theorem kept_raiseBay {b : Nat} {kind : Nat} {w0 : Nat} {w1 : Nat} {w2 : Nat} {w3 : Nat} (hl : [.evt] ⊆ l) (h : Kept l a s) :
    Kept l a (State.raiseBay s b kind w0 w1 w2 w3) := by
  unfold State.raiseBay
  with_reducible repeat' first
    | exact h
    | refine Kept.ite ?_ ?_
    | refine kept_report (sub hl (by decide)) ?_
    | dsimp only

theorem kept_raise {src : Nat} {kind : Nat} {w0 : Nat} {w1 : Nat} {w2 : Nat} {w3 : Nat} (hl : [.evt] ⊆ l) (h : Kept l a s) :
    Kept l a (State.raise s src kind w0 w1 w2 w3) := by
  unfold State.raise
  with_reducible repeat' first
    | exact h
    | refine Kept.ite ?_ ?_
    | refine kept_report (sub hl (by decide)) ?_
    | dsimp only

theorem kept_voteVoid {b : Nat} {cause : Nat} (hl : [.bays] ⊆ l) (h : Kept l a s) :
    Kept l a (State.voteVoid s b cause) := by
  unfold State.voteVoid
  with_reducible repeat' first
    | exact h
    | refine Kept.ite ?_ ?_
    | refine kept_modBay (sub hl (by decide)) ?_
    | dsimp only

theorem kept_voidStack {st : Nat} {cause : Nat} (hl : [.hbm] ⊆ l) (h : Kept l a s) :
    Kept l a (State.voidStack s st cause) := by
  unfold State.voidStack
  repeat' first
    | with_reducible exact h
    | with_reducible refine Kept.ite ?_ ?_
    | (intro k hk; cases k <;> first | exact absurd (hl (by decide)) hk | rfl | exact ⟨rfl, rfl⟩)
    | (simp only [kept_lit]; refine KeptUpd.intro ?_ ?_ ⟨rfl, rfl, rfl⟩)
    | dsimp only

theorem kept_voidSite {t : Nat} {cause : Nat} (hl : [.sites] ⊆ l) (h : Kept l a s) :
    Kept l a (State.voidSite s t cause) := by
  unfold State.voidSite
  with_reducible repeat' first
    | exact h
    | refine Kept.ite ?_ ?_
    | refine kept_modSite (sub hl (by decide)) ?_
    | dsimp only

theorem kept_detect {b : Nat} {loc : Nat} {cause : Nat} {cluster : Nat} {kind : Nat} (hl : [.rel] ⊆ l) (h : Kept l a s) :
    Kept l a (State.detect s b loc cause cluster kind) := by
  unfold State.detect
  repeat' first
    | with_reducible exact h
    | with_reducible refine Kept.ite ?_ ?_
    | (intro k hk; cases k <;> first | exact absurd (hl (by decide)) hk | rfl | exact ⟨rfl, rfl⟩)
    | (simp only [kept_lit]; refine KeptUpd.intro ?_ ?_ ⟨rfl, rfl, rfl⟩)
    | dsimp only

theorem kept_addrFault {src : Nat} {addr : Nat} {who : Nat} {cause : Nat} {lane : Option Nat} (hl : [.bays, .evt] ⊆ l) (h : Kept l a s) :
    Kept l a (State.addrFault s src addr who cause lane) := by
  unfold State.addrFault
  with_reducible repeat' first
    | exact h
    | refine Kept.ite ?_ ?_
    | refine kept_raiseBay (sub hl (by decide)) ?_
    | refine kept_raise (sub hl (by decide)) ?_
    | refine kept_voteVoid (sub hl (by decide)) ?_
    | refine Kept.foldl ?_ ?_
    | split
    | intro _ _ _ _
    | intro _ _ _
    | intro _ _
    | intro _
    | dsimp only

theorem kept_takeFree (hl : [.free] ⊆ l) (h : Kept l a s) :
    Kept l a (State.takeFree s) := by
  unfold State.takeFree
  repeat' first
    | with_reducible exact h
    | with_reducible refine Kept.ite ?_ ?_
    | (intro k hk; cases k <;> first | exact absurd (hl (by decide)) hk | rfl | exact ⟨rfl, rfl⟩)
    | (simp only [kept_lit]; refine KeptUpd.intro ?_ ?_ ⟨rfl, rfl, rfl⟩)
    | dsimp only

theorem kept_putWord {x0 : Nat} {w : Word} (hl : [.mem, .errs] ⊆ l) (h : Kept l a s) :
    Kept l a (State.putWord s x0 w) := by
  unfold State.putWord
  repeat' first
    | with_reducible exact h
    | with_reducible refine Kept.ite ?_ ?_
    | (intro k hk; cases k <;> first | exact absurd (hl (by decide)) hk | rfl | exact ⟨rfl, rfl⟩)
    | (simp only [kept_litm]; refine KeptUpd.intro_mem ?_ ?_ rfl ?_ ?_)
    | exact id
    | exact (memWf_memWrites _ _)
    | exact (memWf_filter _)
    | exact (memWf_memDrop _ _)
    | exact (fun _ => memWf_nil)
    | dsimp only

theorem kept_putHost {x0 : Nat} {bs : List Byte} (hl : [.hostMem] ⊆ l) (h : Kept l a s) :
    Kept l a (State.putHost s x0 bs) := by
  unfold State.putHost
  repeat' first
    | with_reducible exact h
    | with_reducible refine Kept.ite ?_ ?_
    | (intro k hk; cases k <;> first | exact absurd (hl (by decide)) hk | rfl | exact ⟨rfl, rfl⟩)
    | (simp only [kept_litm]; refine KeptUpd.intro_mem ?_ ?_ rfl ?_ ?_)
    | exact id
    | exact (memWf_memWrites _ _)
    | exact (memWf_filter _)
    | exact (memWf_memDrop _ _)
    | exact (fun _ => memWf_nil)
    | dsimp only

theorem kept_correctedWord {b : Nat} {loc : Nat} {store : Nat} {off : Nat} (hl : [.regs, .bays] ⊆ l) (h : Kept l a s) :
    Kept l a (State.correctedWord s b loc store off) := by
  unfold State.correctedWord
  with_reducible repeat' first
    | exact h
    | refine Kept.ite ?_ ?_
    | refine kept_count (sub hl (by decide)) ?_
    | refine kept_modBay (sub hl (by decide)) ?_
    | dsimp only

theorem kept_uncorrectableWord {b : Nat} {loc : Nat} {store : Nat} {cu : Nat} {c : Nat} {off : Nat} (hl : [.regs, .bays, .evt, .rel] ⊆ l) (h : Kept l a s) :
    Kept l a (State.uncorrectableWord s b loc store cu c off) := by
  unfold State.uncorrectableWord
  with_reducible repeat' first
    | exact h
    | refine Kept.ite ?_ ?_
    | refine kept_count (sub hl (by decide)) ?_
    | refine kept_record (sub hl (by decide)) ?_
    | refine kept_raiseBay (sub hl (by decide)) ?_
    | refine kept_detect (sub hl (by decide)) ?_
    | refine kept_voteVoid (sub hl (by decide)) ?_
    | dsimp only

theorem kept_laneLost {u : Nat} (hl : [.rel] ⊆ l) (h : Kept l a s) :
    Kept l a (State.laneLost s u) := by
  unfold State.laneLost
  repeat' first
    | with_reducible exact h
    | with_reducible refine Kept.ite ?_ ?_
    | (intro k hk; cases k <;> first | exact absurd (hl (by decide)) hk | rfl | exact ⟨rfl, rfl⟩)
    | (simp only [kept_lit]; refine KeptUpd.intro ?_ ?_ ⟨rfl, rfl, rfl⟩)
    | dsimp only

theorem kept_readStore {x0 : Nat} {b : Nat} {loc : Nat} {store : Nat} {cu : Nat} {c : Nat} {off : Nat} {keep : Bool} (hl : [.free, .mem, .errs, .regs, .bays, .evt, .rel] ⊆ l) (h : Kept l a s) :
    Kept l a (State.readStore s x0 b loc store cu c off keep).2 := by
  unfold State.readStore
  with_reducible repeat' first
    | exact h
    | refine Kept.ite ?_ ?_
    | refine kept_takeFree (sub hl (by decide)) ?_
    | refine kept_correctedWord (sub hl (by decide)) ?_
    | refine kept_uncorrectableWord (sub hl (by decide)) ?_
    | refine kept_laneLost (sub hl (by decide)) ?_
    | refine kept_putWord (sub hl (by decide)) ?_
    | refine Kept.foldl ?_ ?_
    | split
    | intro _ _ _ _
    | intro _ _ _
    | intro _ _
    | intro _
    | dsimp only

theorem kept_readSp {u : Nat} {w : Nat} (hl : [.free, .mem, .errs, .regs, .bays, .evt, .rel] ⊆ l) (h : Kept l a s) :
    Kept l a (State.readSp s u w).2 := by
  unfold State.readSp
  with_reducible repeat' first
    | exact h
    | refine Kept.ite ?_ ?_
    | refine kept_readStore (sub hl (by decide)) ?_
    | dsimp only

theorem kept_writeSp {u : Nat} {w : Nat} {v : Word} (hl : [.mem, .errs] ⊆ l) (h : Kept l a s) :
    Kept l a (State.writeSp s u w v) := by
  unfold State.writeSp
  with_reducible repeat' first
    | exact h
    | refine Kept.ite ?_ ?_
    | refine kept_putWord (sub hl (by decide)) ?_
    | dsimp only

theorem kept_readMu {c : Nat} {w : Nat} (hl : [.free, .mem, .errs, .regs, .bays, .evt, .rel] ⊆ l) (h : Kept l a s) :
    Kept l a (State.readMu s c w).2 := by
  unfold State.readMu
  with_reducible repeat' first
    | exact h
    | refine Kept.ite ?_ ?_
    | refine kept_readStore (sub hl (by decide)) ?_
    | refine Kept.foldl ?_ ?_
    | split
    | intro _ _ _ _
    | intro _ _ _
    | intro _ _
    | intro _
    | dsimp only

theorem kept_capture {key : Nat} {copy : List Word} (hl : [.regs, .twin] ⊆ l) (h : Kept l a s) :
    Kept l a (State.capture s key copy) := by
  unfold State.capture
  repeat' first
    | with_reducible exact h
    | with_reducible refine Kept.ite ?_ ?_
    | with_reducible refine kept_count (sub hl (by decide)) ?_
    | (intro k hk; cases k <;> first | exact absurd (hl (by decide)) hk | rfl | exact ⟨rfl, rfl⟩)
    | (simp only [kept_lit]; refine KeptUpd.intro ?_ ?_ ⟨rfl, rfl, rfl⟩)
    | dsimp only

theorem kept_holdWrite {owner : Nat} (hl : [.regs, .twin] ⊆ l) (h : Kept l a s) :
    Kept l a (State.holdWrite s owner) := by
  unfold State.holdWrite
  repeat' first
    | with_reducible exact h
    | with_reducible refine Kept.ite ?_ ?_
    | with_reducible refine kept_count (sub hl (by decide)) ?_
    | (intro k hk; cases k <;> first | exact absurd (hl (by decide)) hk | rfl | exact ⟨rfl, rfl⟩)
    | (simp only [kept_lit]; refine KeptUpd.intro ?_ ?_ ⟨rfl, rfl, rfl⟩)
    | dsimp only

theorem kept_muHold {c : Nat} {s' : State} (hl : [.regs, .twin] ⊆ l) (h : Kept l a s) (h' : Kept l a s') :
    Kept l a (State.muHold s c s') := Kept.ite (kept_holdWrite (sub hl (by decide)) h) h'

theorem kept_muCapture {c : Nat} {w : Nat} {p : MuPlace} (hl : [.free, .mem, .errs, .regs, .bays, .evt, .twin, .rel] ⊆ l) (h : Kept l a s) :
    Kept l a (State.muCapture s c w p) := by
  unfold State.muCapture
  with_reducible repeat' first
    | exact h
    | refine Kept.ite ?_ ?_
    | refine kept_capture (sub hl (by decide)) ?_
    | refine kept_readStore (sub hl (by decide)) ?_
    | dsimp only

theorem kept_writeMu {c : Nat} {w : Nat} {v : Word} (hl : [.free, .mem, .errs, .regs, .bays, .mus, .evt, .twin, .rel] ⊆ l) (h : Kept l a s) :
    Kept l a (State.writeMu s c w v) := by
  unfold State.writeMu
  with_reducible repeat' first
    | exact h
    | assumption
    | refine Kept.ite ?_ ?_
    | refine kept_putWord (sub hl (by decide)) ?_
    | refine kept_muCapture (sub hl (by decide)) ?_
    | refine kept_modMu (sub hl (by decide)) ?_
    | refine Kept.foldl ?_ ?_
    | refine Kept.foldl₂ ?_ ?_
    | refine Kept.foldl₁ ?_ ?_
    | (split; rename_i e; have e0 := congrArg (fun p => p.1) e; have e1 := congrArg (fun p => p.2.1) e; have e2 := congrArg (fun p => p.2.2.1) e; have e3 := congrArg (fun p => p.2.2.2) e; dsimp only at e0 e1 e2 e3; subst e0; subst e1; subst e2; subst e3)
    | (split; rename_i e; have e0 := congrArg (fun p => p.1) e; have e1 := congrArg (fun p => p.2.1) e; have e2 := congrArg (fun p => p.2.2) e; dsimp only at e0 e1 e2; subst e0; subst e1; subst e2)
    | (split; rename_i e; have e0 := congrArg (fun p => p.1) e; have e1 := congrArg (fun p => p.2) e; dsimp only at e0 e1; subst e0; subst e1)
    | (split; rename_i e; have e0 := congrArg (fun p => p.2) e; dsimp only at e0; subst e0)
    | (split; rename_i e; have e0 := congrArg (fun p => p.1) e; dsimp only at e0; subst e0)
    | split
    | (refine Kept.of_snd (by assumption) ?_)
    | intro _ _ _ _
    | intro _ _ _
    | intro _ _
    | intro _
    | dsimp only

theorem kept_loadMu {c : Nat} {w : Nat} {v : Word} (hl : [.free, .mem, .errs, .regs, .bays, .evt, .twin, .rel] ⊆ l) (h : Kept l a s) :
    Kept l a (State.loadMu s c w v) := by
  unfold State.loadMu
  with_reducible repeat' first
    | exact h
    | assumption
    | refine Kept.ite ?_ ?_
    | refine kept_addrFault (sub hl (by decide)) ?_
    | refine kept_putWord (sub hl (by decide)) ?_
    | refine kept_muCapture (sub hl (by decide)) ?_
    | refine Kept.foldl ?_ ?_
    | refine Kept.foldl₂ ?_ ?_
    | refine Kept.foldl₁ ?_ ?_
    | (split; rename_i e; have e0 := congrArg (fun p => p.1) e; have e1 := congrArg (fun p => p.2.1) e; have e2 := congrArg (fun p => p.2.2.1) e; have e3 := congrArg (fun p => p.2.2.2) e; dsimp only at e0 e1 e2 e3; subst e0; subst e1; subst e2; subst e3)
    | (split; rename_i e; have e0 := congrArg (fun p => p.1) e; have e1 := congrArg (fun p => p.2.1) e; have e2 := congrArg (fun p => p.2.2) e; dsimp only at e0 e1 e2; subst e0; subst e1; subst e2)
    | (split; rename_i e; have e0 := congrArg (fun p => p.1) e; have e1 := congrArg (fun p => p.2) e; dsimp only at e0 e1; subst e0; subst e1)
    | (split; rename_i e; have e0 := congrArg (fun p => p.2) e; dsimp only at e0; subst e0)
    | (split; rename_i e; have e0 := congrArg (fun p => p.1) e; dsimp only at e0; subst e0)
    | split
    | (refine Kept.of_snd (by assumption) ?_)
    | intro _ _ _ _
    | intro _ _ _
    | intro _ _
    | intro _
    | dsimp only

theorem kept_readMany {rd : State → Nat → Word × State} {w : Nat} {x0 : Nat} (hl : [] ⊆ l) (h : Kept l a s) (hrd : ∀ v0 v1, Kept l a v0 → Kept l a (rd v0 v1).2) :
    Kept l a (State.readMany s rd w x0).2 := by
  induction x0 generalizing s w with
  | zero =>
    unfold State.readMany
    with_reducible repeat' first
      | exact h
      | dsimp only
  | succ n ih =>
    unfold State.readMany
    with_reducible repeat' first
      | exact h
      | refine ih ?_
      | assumption
      | refine hrd _ _ ?_
      | refine Kept.ite ?_ ?_
      | dsimp only

theorem kept_writeMany {wr : State → Nat → Word → State} {w : Nat} {x0 : List Word} (hl : [] ⊆ l) (h : Kept l a s) (hwr : ∀ v0 v1 v2, Kept l a v0 → Kept l a (wr v0 v1 v2)) :
    Kept l a (State.writeMany s wr w x0) := by
  induction x0 generalizing s w with
  | nil =>
    unfold State.writeMany
    with_reducible repeat' first
      | exact h
      | dsimp only
  | cons y ys ih =>
    unfold State.writeMany
    with_reducible repeat' first
      | exact h
      | refine ih ?_
      | assumption
      | refine hwr _ _ _ ?_
      | refine Kept.ite ?_ ?_
      | dsimp only

theorem kept_setPhys {p : Nat} {h' : HCounter} (hl : [.hsync] ⊆ l) (h : Kept l a s) :
    Kept l a (State.setPhys s p h') := by
  unfold State.setPhys
  repeat' first
    | with_reducible exact h
    | with_reducible refine Kept.ite ?_ ?_
    | (intro k hk; cases k <;> first | exact absurd (hl (by decide)) hk | rfl | exact ⟨rfl, rfl⟩)
    | (simp only [kept_lit]; refine KeptUpd.intro ?_ ?_ ⟨rfl, rfl, rfl⟩)
    | dsimp only

theorem kept_physBump {p : Nat} {h' : HCounter} {n : Nat} (hl : [.hsync, .evt] ⊆ l) (h : Kept l a s) :
    Kept l a (State.physBump s p h' n) := by
  unfold State.physBump
  with_reducible repeat' first
    | exact h
    | refine Kept.ite ?_ ?_
    | refine kept_setPhys (sub hl (by decide)) ?_
    | refine kept_raise (sub hl (by decide)) ?_
    | dsimp only

theorem kept_physBumps {ctx : Nat} {n : Nat} {x0 : List Nat} (hl : [.hsync, .evt] ⊆ l) (h : Kept l a s) :
    Kept l a (State.physBumps s ctx n x0) := by
  induction x0 generalizing s ctx n with
  | nil =>
    unfold State.physBumps
    with_reducible repeat' first
      | exact h
      | refine Kept.ite ?_ ?_
      | refine kept_physBump (sub hl (by decide)) ?_
      | refine Kept.foldl ?_ ?_
      | split
      | intro _ _ _ _
      | intro _ _ _
      | intro _ _
      | intro _
      | dsimp only
  | cons y ys ih =>
    unfold State.physBumps
    with_reducible repeat' first
      | exact h
      | refine ih ?_
      | refine Kept.ite ?_ ?_
      | refine kept_physBump (sub hl (by decide)) ?_
      | refine Kept.foldl ?_ ?_
      | split
      | intro _ _ _ _
      | intro _ _ _
      | intro _ _
      | intro _
      | dsimp only

theorem kept_addOut {b : Nat} {ctx : Nat} {n : Nat} {vids : List Nat} (hl : [.hsync, .bays, .evt] ⊆ l) (h : Kept l a s) :
    Kept l a (State.addOut s b ctx n vids) := by
  unfold State.addOut
  with_reducible repeat' first
    | exact h
    | refine Kept.ite ?_ ?_
    | refine kept_modBay (sub hl (by decide)) ?_
    | refine kept_physBumps (sub hl (by decide)) ?_
    | refine Kept.foldl ?_ ?_
    | split
    | intro _ _ _ _
    | intro _ _ _
    | intro _ _
    | intro _
    | dsimp only

theorem kept_forwardOut {u : Nat} {k : Nat} {n : Nat} (hl : [.hsync, .bays, .evt] ⊆ l) (h : Kept l a s) :
    Kept l a (State.forwardOut s u k n) := by
  unfold State.forwardOut
  with_reducible repeat' first
    | exact h
    | refine Kept.ite ?_ ?_
    | refine kept_addOut (sub hl (by decide)) ?_
    | refine Kept.foldl ?_ ?_
    | split
    | intro _ _ _ _
    | intro _ _ _
    | intro _ _
    | intro _
    | dsimp only

theorem kept_overflowAfter {s1 : State} {u : Nat} {k : Nat} (hl : [.evt] ⊆ l) (h1 : Kept l a s1) :
    Kept l a (State.overflowAfter s s1 u k) := by
  unfold State.overflowAfter
  extract_lets t was is
  refine Kept.ite (kept_report (sub hl (by decide)) h1) (Kept.ite ?_ h1)
  simp only [kept_lit]
  refine KeptUpd.intro h1 ?_ ⟨rfl, rfl, rfl⟩
  intro k hk; cases k <;> first | exact absurd (hl (by decide)) hk | rfl | exact ⟨rfl, rfl⟩

theorem kept_changeSync {u : Nat} {k : Nat} {n : Int} (hl : [.cus, .evt] ⊆ l) (h : Kept l a s) :
    Kept l a (State.changeSync s u k n) := by
  unfold State.changeSync
  with_reducible repeat' first
    | exact h
    | assumption
    | refine Kept.ite ?_ ?_
    | refine kept_overflowAfter (sub hl (by decide)) ?_
    | refine kept_modCu (sub hl (by decide)) ?_
    | refine Kept.foldl ?_ ?_
    | refine Kept.foldl₂ ?_ ?_
    | refine Kept.foldl₁ ?_ ?_
    | (split; rename_i e; have e0 := congrArg (fun p => p.1) e; have e1 := congrArg (fun p => p.2.1) e; have e2 := congrArg (fun p => p.2.2.1) e; have e3 := congrArg (fun p => p.2.2.2) e; dsimp only at e0 e1 e2 e3; subst e0; subst e1; subst e2; subst e3)
    | (split; rename_i e; have e0 := congrArg (fun p => p.1) e; have e1 := congrArg (fun p => p.2.1) e; have e2 := congrArg (fun p => p.2.2) e; dsimp only at e0 e1 e2; subst e0; subst e1; subst e2)
    | (split; rename_i e; have e0 := congrArg (fun p => p.1) e; have e1 := congrArg (fun p => p.2) e; dsimp only at e0 e1; subst e0; subst e1)
    | (split; rename_i e; have e0 := congrArg (fun p => p.2) e; dsimp only at e0; subst e0)
    | (split; rename_i e; have e0 := congrArg (fun p => p.1) e; dsimp only at e0; subst e0)
    | split
    | (refine Kept.of_snd (by assumption) ?_)
    | intro _ _ _ _
    | intro _ _ _
    | intro _ _
    | intro _
    | dsimp only

theorem kept_addSync {u : Nat} {k : Nat} {n : Nat} (hl : [.hsync, .bays, .cus, .evt] ⊆ l) (h : Kept l a s) :
    Kept l a (State.addSync s u k n) := by
  unfold State.addSync
  with_reducible repeat' first
    | exact h
    | refine Kept.ite ?_ ?_
    | refine kept_forwardOut (sub hl (by decide)) ?_
    | refine kept_changeSync (sub hl (by decide)) ?_
    | refine Kept.foldl ?_ ?_
    | split
    | intro _ _ _ _
    | intro _ _ _
    | intro _ _
    | intro _
    | dsimp only

theorem kept_subSync {u : Nat} {k : Nat} {n : Nat} (hl : [.cus, .evt] ⊆ l) (h : Kept l a s) :
    Kept l a (State.subSync s u k n) := by
  unfold State.subSync
  with_reducible repeat' first
    | exact h
    | assumption
    | refine Kept.ite ?_ ?_
    | refine kept_overflowAfter (sub hl (by decide)) ?_
    | refine kept_modCu (sub hl (by decide)) ?_
    | refine Kept.foldl ?_ ?_
    | refine Kept.foldl₂ ?_ ?_
    | refine Kept.foldl₁ ?_ ?_
    | (split; rename_i e; have e0 := congrArg (fun p => p.1) e; have e1 := congrArg (fun p => p.2.1) e; have e2 := congrArg (fun p => p.2.2.1) e; have e3 := congrArg (fun p => p.2.2.2) e; dsimp only at e0 e1 e2 e3; subst e0; subst e1; subst e2; subst e3)
    | (split; rename_i e; have e0 := congrArg (fun p => p.1) e; have e1 := congrArg (fun p => p.2.1) e; have e2 := congrArg (fun p => p.2.2) e; dsimp only at e0 e1 e2; subst e0; subst e1; subst e2)
    | (split; rename_i e; have e0 := congrArg (fun p => p.1) e; have e1 := congrArg (fun p => p.2) e; dsimp only at e0 e1; subst e0; subst e1)
    | (split; rename_i e; have e0 := congrArg (fun p => p.2) e; dsimp only at e0; subst e0)
    | (split; rename_i e; have e0 := congrArg (fun p => p.1) e; dsimp only at e0; subst e0)
    | split
    | (refine Kept.of_snd (by assumption) ?_)
    | intro _ _ _ _
    | intro _ _ _
    | intro _ _
    | intro _
    | dsimp only

theorem kept_stick {u : Nat} {vec : Bool} {f : FlagSet} (hl : [.regs] ⊆ l) (h : Kept l a s) :
    Kept l a (State.stick s u vec f) := by
  unfold State.stick
  with_reducible repeat' first
    | exact h
    | refine Kept.ite ?_ ?_
    | refine kept_hwSet (sub hl (by decide)) ?_
    | dsimp only

end Sys2Proof.Machine
end

