-- ==== Sys2Proof/Laws/KeptOperands.lean ====
section
/-! SUPPORT. What each operation of Machine/Operands.lean may touch, and that it keeps the queue and the invariant. -/

namespace Sys2Proof.Machine

variable {l : List Comp} {a s : State}

theorem kept_readSource {u : Nat} {src : Nat} {w : Nat} (hl : [.free, .mem, .errs, .regs, .bays, .evt, .rel] ⊆ l) (h : Kept l a s) :
    Kept l a (State.readSource s u src w).2 := by
  unfold State.readSource
  with_reducible repeat' first
    | exact h
    | refine Kept.ite ?_ ?_
    | refine kept_readSp (sub hl (by decide)) ?_
    | refine kept_readMu (sub hl (by decide)) ?_
    | refine Kept.foldl ?_ ?_
    | split
    | intro _ _ _ _
    | intro _ _ _
    | intro _ _
    | intro _
    | dsimp only

theorem kept_sourceFault {u : Nat} {src : Nat} {o : Nat} {cause : Nat} (hl : [.bays, .evt] ⊆ l) (h : Kept l a s) :
    Kept l a (State.sourceFault s u src o cause) := by
  unfold State.sourceFault
  with_reducible repeat' first
    | exact h
    | refine Kept.ite ?_ ?_
    | refine kept_addrFault (sub hl (by decide)) ?_
    | dsimp only

theorem kept_readOperandWord {u : Nat} {src : Nat} {w : Nat} (hl : [.free, .mem, .errs, .regs, .bays, .evt, .rel] ⊆ l) (h : Kept l a s) :
    Kept l a (State.readOperandWord s u src w).2 := by
  unfold State.readOperandWord
  with_reducible repeat' first
    | exact h
    | refine Kept.ite ?_ ?_
    | refine kept_readSource (sub hl (by decide)) ?_
    | refine Kept.foldl ?_ ?_
    | split
    | intro _ _ _ _
    | intro _ _ _
    | intro _ _
    | intro _
    | dsimp only

theorem kept_readOperandWords {u : Nat} {src : Nat} {x0 : List Nat} (hl : [.free, .mem, .errs, .regs, .bays, .evt, .rel] ⊆ l) (h : Kept l a s) :
    Kept l a (State.readOperandWords s u src x0) := by
  induction x0 generalizing s u src with
  | nil =>
    unfold State.readOperandWords
    with_reducible repeat' first
      | exact h
      | dsimp only
  | cons y ys ih =>
    unfold State.readOperandWords
    with_reducible repeat' first
      | exact h
      | refine ih ?_
      | refine Kept.ite ?_ ?_
      | refine kept_readOperandWord (sub hl (by decide)) ?_
      | dsimp only

theorem kept_operandFault {u : Nat} {src : Nat} {ws : List Nat} (hl : [.bays, .evt] ⊆ l) (h : Kept l a s) :
    Kept l a (State.operandFault s u src ws) := by
  unfold State.operandFault
  with_reducible repeat' first
    | exact h
    | refine Kept.ite ?_ ?_
    | refine kept_sourceFault (sub hl (by decide)) ?_
    | refine Kept.foldl ?_ ?_
    | split
    | intro _ _ _ _
    | intro _ _ _
    | intro _ _
    | intro _
    | dsimp only

theorem kept_malformed {u : Nat} {side : Nat} {kind : Nat} {addr : Nat} (hl : [.regs, .bays, .evt] ⊆ l) (h : Kept l a s) :
    Kept l a (State.malformed s u side kind addr) := by
  unfold State.malformed
  with_reducible repeat' first
    | exact h
    | refine Kept.ite ?_ ?_
    | refine kept_record (sub hl (by decide)) ?_
    | refine kept_count (sub hl (by decide)) ?_
    | refine kept_addrFault (sub hl (by decide)) ?_
    | dsimp only

theorem kept_malformedAll {u : Nat} {side : Nat} {src : Nat} {x0 : List (Nat × Nat)} (hl : [.regs, .bays, .evt] ⊆ l) (h : Kept l a s) :
    Kept l a (State.malformedAll s u side src x0) := by
  induction x0 generalizing s u side src with
  | nil =>
    unfold State.malformedAll
    with_reducible repeat' first
      | exact h
      | dsimp only
  | cons y ys ih =>
    unfold State.malformedAll
    with_reducible repeat' first
      | exact h
      | refine ih ?_
      | refine Kept.ite ?_ ?_
      | refine kept_malformed (sub hl (by decide)) ?_
      | dsimp only

theorem kept_touchOperand {u : Nat} {side : Nat} {d : Desc} (hl : [.free, .mem, .errs, .regs, .bays, .evt, .rel] ⊆ l) (h : Kept l a s) :
    Kept l a (State.touchOperand s u side d) := by
  unfold State.touchOperand
  with_reducible repeat' first
    | exact h
    | refine Kept.ite ?_ ?_
    | refine kept_malformedAll (sub hl (by decide)) ?_
    | refine kept_operandFault (sub hl (by decide)) ?_
    | refine kept_readOperandWords (sub hl (by decide)) ?_
    | dsimp only

end Sys2Proof.Machine
end

