-- ==== Sys2Proof/Laws/KeptHbm.lean ====
section
/-! SUPPORT. What each operation of Machine/Hbm.lean may touch, and that it keeps the queue and the invariant. -/

namespace Sys2Proof.Machine

variable {l : List Comp} {a s : State}

theorem kept_modHbm {f : Hbm → Hbm} (hl : [.hbm] ⊆ l) (h : Kept l a s) :
    Kept l a (State.modHbm s f) := by
  unfold State.modHbm
  repeat' first
    | with_reducible exact h
    | with_reducible refine Kept.ite ?_ ?_
    | (intro k hk; cases k <;> first | exact absurd (hl (by decide)) hk | rfl | exact ⟨rfl, rfl⟩)
    | (simp only [kept_lit]; refine KeptUpd.intro ?_ ?_ ⟨rfl, rfl, rfl⟩)
    | dsimp only

theorem kept_setPage {p : VPage} (hl : [.hbm] ⊆ l) (h : Kept l a s) :
    Kept l a (State.setPage s p) := by
  unfold State.setPage
  with_reducible repeat' first
    | exact h
    | refine Kept.ite ?_ ?_
    | refine kept_modHbm (sub hl (by decide)) ?_
    | dsimp only

theorem kept_hbmCorrected {x : Nat} (hl : [.regs, .hbm] ⊆ l) (h : Kept l a s) :
    Kept l a (State.hbmCorrected s x) := by
  unfold State.hbmCorrected
  with_reducible repeat' first
    | exact h
    | refine Kept.ite ?_ ?_
    | refine kept_count (sub hl (by decide)) ?_
    | refine kept_modHbm (sub hl (by decide)) ?_
    | dsimp only

theorem kept_hbmUncorrectable {x : Nat} (hl : [.regs, .evt, .hbm, .rel] ⊆ l) (h : Kept l a s) :
    Kept l a (State.hbmUncorrectable s x) := by
  unfold State.hbmUncorrectable
  with_reducible repeat' first
    | exact h
    | refine Kept.ite ?_ ?_
    | refine kept_record (sub hl (by decide)) ?_
    | refine kept_count (sub hl (by decide)) ?_
    | refine kept_raise (sub hl (by decide)) ?_
    | refine kept_detect (sub hl (by decide)) ?_
    | refine kept_voidStack (sub hl (by decide)) ?_
    | dsimp only

theorem kept_hbmWord {x0 : Nat} (hl : [.free, .regs, .evt, .hbm, .rel] ⊆ l) (h : Kept l a s) :
    Kept l a (State.hbmWord s x0).2.2 := by
  unfold State.hbmWord
  with_reducible repeat' first
    | exact h
    | refine Kept.ite ?_ ?_
    | refine kept_takeFree (sub hl (by decide)) ?_
    | refine kept_hbmCorrected (sub hl (by decide)) ?_
    | refine kept_hbmUncorrectable (sub hl (by decide)) ?_
    | refine Kept.foldl ?_ ?_
    | split
    | intro _ _ _ _
    | intro _ _ _
    | intro _ _
    | intro _
    | dsimp only

theorem kept_hbmReadWords {x : Nat} {x0 : Nat} (hl : [.free, .regs, .evt, .hbm, .rel] ⊆ l) (h : Kept l a s) :
    Kept l a (State.hbmReadWords s x x0).2.2 := by
  induction x0 generalizing s x with
  | zero =>
    unfold State.hbmReadWords
    with_reducible repeat' first
      | exact h
      | dsimp only
  | succ n ih =>
    unfold State.hbmReadWords
    with_reducible repeat' first
      | exact h
      | refine ih ?_
      | refine Kept.ite ?_ ?_
      | refine kept_hbmWord (sub hl (by decide)) ?_
      | dsimp only

theorem kept_hbmMark {x : Nat} (hl : [.hbm] ⊆ l) (h : Kept l a s) :
    Kept l a (State.hbmMark s x) := by
  unfold State.hbmMark
  with_reducible repeat' first
    | exact h
    | refine Kept.ite ?_ ?_
    | refine kept_modHbm (sub hl (by decide)) ?_
    | dsimp only

theorem kept_hbmModified {x : Nat} (hl : [.ctxs] ⊆ l) (h : Kept l a s) :
    Kept l a (State.hbmModified s x) := by
  unfold State.hbmModified
  repeat' first
    | with_reducible exact h
    | with_reducible refine Kept.ite ?_ ?_
    | (intro k hk; cases k <;> first | exact absurd (hl (by decide)) hk | rfl | exact ⟨rfl, rfl⟩)
    | (simp only [kept_lit]; refine KeptUpd.intro ?_ ?_ ⟨rfl, rfl, rfl⟩)
    | dsimp only

theorem kept_hbmStore {x0 : Nat} {w : Word} (hl : [.mem, .errs, .hbm] ⊆ l) (h : Kept l a s) :
    Kept l a (State.hbmStore s x0 w) := by
  unfold State.hbmStore
  with_reducible repeat' first
    | exact h
    | refine Kept.ite ?_ ?_
    | refine kept_hbmMark (sub hl (by decide)) ?_
    | refine kept_putWord (sub hl (by decide)) ?_
    | dsimp only

theorem kept_hbmPut {x0 : Nat} {w : Word} (hl : [.mem, .errs, .ctxs, .hbm] ⊆ l) (h : Kept l a s) :
    Kept l a (State.hbmPut s x0 w) := by
  unfold State.hbmPut
  with_reducible repeat' first
    | exact h
    | assumption
    | refine Kept.ite ?_ ?_
    | refine kept_hbmModified (sub hl (by decide)) ?_
    | refine kept_hbmStore (sub hl (by decide)) ?_
    | refine Kept.foldl ?_ ?_
    | refine Kept.foldl₂ ?_ ?_
    | refine Kept.foldl₁ ?_ ?_
    | (split; rename_i e; have e0 := congrArg (fun p => p.1) e; have e1 := congrArg (fun p => p.2.1) e; have e2 := congrArg (fun p => p.2.2.1) e; have e3 := congrArg (fun p => p.2.2.2) e; dsimp only at e0 e1 e2 e3; subst e0; subst e1; subst e2; subst e3)
    | (split; rename_i e; have e0 := congrArg (fun p => p.1) e; have e1 := congrArg (fun p => p.2.1) e; have e2 := congrArg (fun p => p.2.2) e; dsimp only at e0 e1 e2; subst e0; subst e1; subst e2)
    | (split; rename_i e; have e0 := congrArg (fun p => p.1) e; have e1 := congrArg (fun p => p.2) e; dsimp only at e0 e1; subst e0; subst e1)
    | (split; rename_i e; have e0 := congrArg (fun p => p.2) e; dsimp only at e0; subst e0)
    | (split; rename_i e; have e0 := congrArg (fun p => p.1) e; dsimp only at e0; subst e0)
    | split
    | (refine Kept.of_snd (by assumption) ?_)
    | intro _ _ _ _
    | intro _ _ _
    | intro _ _
    | intro _
    | dsimp only

theorem kept_hbmMerge {x0 : Nat} {x1 : List Word} (hl : [.mem, .errs, .hbm] ⊆ l) (h : Kept l a s) :
    Kept l a (State.hbmMerge s x0 x1) := by
  induction x1 generalizing s x0 with
  | nil =>
    unfold State.hbmMerge
    with_reducible repeat' first
      | exact h
      | dsimp only
  | cons y ys ih =>
    unfold State.hbmMerge
    with_reducible repeat' first
      | exact h
      | refine ih ?_
      | refine Kept.ite ?_ ?_
      | refine kept_hbmStore (sub hl (by decide)) ?_
      | dsimp only

theorem kept_hbmPuts {x0 : Nat} {x1 : List Word} (hl : [.mem, .errs, .ctxs, .hbm] ⊆ l) (h : Kept l a s) :
    Kept l a (State.hbmPuts s x0 x1) := by
  induction x1 generalizing s x0 with
  | nil =>
    unfold State.hbmPuts
    with_reducible repeat' first
      | exact h
      | dsimp only
  | cons y ys ih =>
    unfold State.hbmPuts
    with_reducible repeat' first
      | exact h
      | refine ih ?_
      | refine Kept.ite ?_ ?_
      | refine kept_hbmPut (sub hl (by decide)) ?_
      | dsimp only

theorem kept_hbmCapture {x : Nat} (hl : [.free, .regs, .evt, .hbm, .twin, .rel] ⊆ l) (h : Kept l a s) :
    Kept l a (State.hbmCapture s x) := by
  unfold State.hbmCapture
  with_reducible repeat' first
    | exact h
    | refine Kept.ite ?_ ?_
    | refine kept_capture (sub hl (by decide)) ?_
    | refine kept_hbmReadWords (sub hl (by decide)) ?_
    | refine Kept.foldl ?_ ?_
    | split
    | intro _ _ _ _
    | intro _ _ _
    | intro _ _
    | intro _
    | dsimp only

theorem kept_hbmTouch {x : Nat} {whole : Bool} (hl : [.free, .mem, .errs, .regs, .evt, .hbm, .twin, .rel] ⊆ l) (h : Kept l a s) :
    Kept l a (State.hbmTouch s x whole) := by
  unfold State.hbmTouch
  with_reducible repeat' first
    | exact h
    | assumption
    | refine Kept.ite ?_ ?_
    | refine kept_hbmCapture (sub hl (by decide)) ?_
    | refine kept_hbmReadWords (sub hl (by decide)) ?_
    | refine kept_setPage (sub hl (by decide)) ?_
    | refine kept_capture (sub hl (by decide)) ?_
    | refine kept_count (sub hl (by decide)) ?_
    | refine kept_hbmMerge (sub hl (by decide)) ?_
    | refine Kept.foldl ?_ ?_
    | refine Kept.foldl₂ ?_ ?_
    | refine Kept.foldl₁ ?_ ?_
    | (split; rename_i e; have e0 := congrArg (fun p => p.1) e; have e1 := congrArg (fun p => p.2.1) e; have e2 := congrArg (fun p => p.2.2.1) e; have e3 := congrArg (fun p => p.2.2.2) e; dsimp only at e0 e1 e2 e3; subst e0; subst e1; subst e2; subst e3)
    | (split; rename_i e; have e0 := congrArg (fun p => p.1) e; have e1 := congrArg (fun p => p.2.1) e; have e2 := congrArg (fun p => p.2.2) e; dsimp only at e0 e1 e2; subst e0; subst e1; subst e2)
    | (split; rename_i e; have e0 := congrArg (fun p => p.1) e; have e1 := congrArg (fun p => p.2) e; dsimp only at e0 e1; subst e0; subst e1)
    | (split; rename_i e; have e0 := congrArg (fun p => p.2) e; dsimp only at e0; subst e0)
    | (split; rename_i e; have e0 := congrArg (fun p => p.1) e; dsimp only at e0; subst e0)
    | split
    | (refine Kept.of_snd (by assumption) ?_)
    | intro _ _ _ _
    | intro _ _ _
    | intro _ _
    | intro _
    | dsimp only

theorem kept_hbmHold {s' : State} (hl : [.regs, .twin] ⊆ l) (h : Kept l a s) (h' : Kept l a s') :
    Kept l a (State.hbmHold s s') := by
  unfold State.hbmHold
  split
  · exact kept_holdWrite (sub hl (by decide)) h
  · exact h'

theorem kept_hbmWordWrite {target : State → Nat → Nat} {x : Nat} {data : List Byte} (hl : [.free, .mem, .errs, .regs, .ctxs, .evt, .hbm, .rel] ⊆ l) (h : Kept l a s) :
    Kept l a (State.hbmWordWrite s target x data) := by
  unfold State.hbmWordWrite
  with_reducible repeat' first
    | exact h
    | refine Kept.ite ?_ ?_
    | refine kept_hbmPut (sub hl (by decide)) ?_
    | refine kept_hbmWord (sub hl (by decide)) ?_
    | dsimp only

theorem kept_hbmBytes {target : State → Nat → Nat} {x : Nat} {data : List Byte} {x0 : Nat} (hl : [.free, .mem, .errs, .regs, .ctxs, .evt, .hbm, .rel] ⊆ l) (h : Kept l a s) :
    Kept l a (State.hbmBytes s target x data x0) := by
  induction x0 generalizing s target x data with
  | zero =>
    unfold State.hbmBytes
    with_reducible repeat' first
      | exact h
      | refine Kept.ite ?_ ?_
      | refine kept_hbmWordWrite (sub hl (by decide)) ?_
      | refine Kept.foldl ?_ ?_
      | split
      | intro _ _ _ _
      | intro _ _ _
      | intro _ _
      | intro _
      | dsimp only
  | succ n ih =>
    unfold State.hbmBytes
    with_reducible repeat' first
      | exact h
      | refine ih ?_
      | refine Kept.ite ?_ ?_
      | refine kept_hbmWordWrite (sub hl (by decide)) ?_
      | refine Kept.foldl ?_ ?_
      | split
      | intro _ _ _ _
      | intro _ _ _
      | intro _ _
      | intro _
      | dsimp only

theorem kept_hbmTouches {x : Nat} {len : Nat} (hl : [.free, .mem, .errs, .regs, .evt, .hbm, .twin, .rel] ⊆ l) (h : Kept l a s) :
    Kept l a (State.hbmTouches s x len) := by
  unfold State.hbmTouches
  with_reducible repeat' first
    | exact h
    | assumption
    | refine Kept.ite ?_ ?_
    | refine kept_hbmTouch (sub hl (by decide)) ?_
    | refine Kept.foldl ?_ ?_
    | (split; rename_i e; have e0 := congrArg (fun p => p.1) e; have e1 := congrArg (fun p => p.2) e; dsimp only at e0 e1; subst e0; subst e1)
    | (split; rename_i e; have e0 := congrArg (fun p => p.2) e; dsimp only at e0; subst e0)
    | split
    | (refine Kept.of_snd (by assumption) ?_)
    | intro _ _ _ _
    | intro _ _ _
    | intro _ _
    | intro _
    | dsimp only

theorem kept_hbmWrite {x : Nat} {data : List Byte} (hl : [.free, .mem, .errs, .regs, .ctxs, .evt, .hbm, .twin, .rel] ⊆ l) (h : Kept l a s) :
    Kept l a (State.hbmWrite s x data) := by
  unfold State.hbmWrite
  with_reducible repeat' first
    | exact h
    | refine Kept.ite ?_ ?_
    | refine kept_hbmBytes (sub hl (by decide)) ?_
    | refine kept_hbmTouches (sub hl (by decide)) ?_
    | dsimp only

theorem kept_hbmLoad {x : Nat} {data : List Byte} (hl : [.free, .mem, .errs, .regs, .ctxs, .evt, .hbm, .twin, .rel] ⊆ l) (h : Kept l a s) :
    Kept l a (State.hbmLoad s x data) := by
  unfold State.hbmLoad
  with_reducible repeat' first
    | exact h
    | assumption
    | refine Kept.ite ?_ ?_
    | refine kept_hbmBytes (sub hl (by decide)) ?_
    | refine kept_hbmCapture (sub hl (by decide)) ?_
    | refine Kept.foldl ?_ ?_
    | refine Kept.foldl₂ ?_ ?_
    | refine Kept.foldl₁ ?_ ?_
    | (split; rename_i e; have e0 := congrArg (fun p => p.1) e; have e1 := congrArg (fun p => p.2.1) e; have e2 := congrArg (fun p => p.2.2.1) e; have e3 := congrArg (fun p => p.2.2.2) e; dsimp only at e0 e1 e2 e3; subst e0; subst e1; subst e2; subst e3)
    | (split; rename_i e; have e0 := congrArg (fun p => p.1) e; have e1 := congrArg (fun p => p.2.1) e; have e2 := congrArg (fun p => p.2.2) e; dsimp only at e0 e1 e2; subst e0; subst e1; subst e2)
    | (split; rename_i e; have e0 := congrArg (fun p => p.1) e; have e1 := congrArg (fun p => p.2) e; dsimp only at e0 e1; subst e0; subst e1)
    | (split; rename_i e; have e0 := congrArg (fun p => p.2) e; dsimp only at e0; subst e0)
    | (split; rename_i e; have e0 := congrArg (fun p => p.1) e; dsimp only at e0; subst e0)
    | split
    | (refine Kept.of_snd (by assumption) ?_)
    | intro _ _ _ _
    | intro _ _ _
    | intro _ _
    | intro _
    | dsimp only

theorem kept_hbmContents {x : Nat} {data : List Byte} (hl : [.free, .mem, .errs, .regs, .ctxs, .bays, .evt, .hbm, .twin, .rel] ⊆ l) (h : Kept l a s) :
    Kept l a (State.hbmContents s x data) := by
  unfold State.hbmContents
  with_reducible repeat' first
    | exact h
    | assumption
    | refine Kept.ite ?_ ?_
    | refine kept_addrFault (sub hl (by decide)) ?_
    | refine kept_hbmLoad (sub hl (by decide)) ?_
    | refine Kept.foldl ?_ ?_
    | (split; rename_i e; have e0 := congrArg (fun p => p.1) e; have e1 := congrArg (fun p => p.2) e; dsimp only at e0 e1; subst e0; subst e1)
    | (split; rename_i e; have e0 := congrArg (fun p => p.2) e; dsimp only at e0; subst e0)
    | split
    | (refine Kept.of_snd (by assumption) ?_)
    | intro _ _ _ _
    | intro _ _ _
    | intro _ _
    | intro _
    | dsimp only

end Sys2Proof.Machine
end

