-- ==== Sys2Proof/Laws/KeptFlags.lean ====
section
/-! SUPPORT. What each operation of Machine/Flags.lean may touch, and that it keeps the queue and the invariant. -/

namespace Sys2Proof.Machine

variable {l : List Comp} {a s : State}

theorem kept_summarise {b : Nat} (hl : [.regs, .evt] ⊆ l) (h : Kept l a s) :
    Kept l a (State.summarise s b) := by
  unfold State.summarise
  with_reducible repeat' first
    | exact h
    | refine Kept.ite ?_ ?_
    | refine kept_setReg (sub hl (by decide)) ?_
    | refine kept_hwSet (sub hl (by decide)) ?_
    | refine kept_raiseBay (sub hl (by decide)) ?_
    | dsimp only

end Sys2Proof.Machine
end

