-- ==== Sys2Proof/Laws/KeptIssue.lean ====
section
/-! SUPPORT. What each operation of Machine/Issue.lean may touch, and that it keeps the queue and the invariant. -/

namespace Sys2Proof.Machine

variable {l : List Comp} {a s : State}

theorem kept_issueTensor {u : Nat} {drain : Bool} {clear : Bool} {op : TensorOp} (hl : [.cus] ⊆ l) (h : Kept l a s) :
    Kept l a (State.issueTensor s u drain clear op) := by
  unfold State.issueTensor
  with_reducible repeat' first
    | exact h
    | refine Kept.ite ?_ ?_
    | refine kept_modCu (sub hl (by decide)) ?_
    | dsimp only

theorem kept_issueVector {u : Nat} {op : VecOp} (hl : [.cus] ⊆ l) (h : Kept l a s) :
    Kept l a (State.issueVector s u op) := by
  unfold State.issueVector
  with_reducible repeat' first
    | exact h
    | refine Kept.ite ?_ ?_
    | refine kept_modCu (sub hl (by decide)) ?_
    | dsimp only

theorem kept_issueDma {u : Nat} {d : Nat} {ss : Nat} {sd : Nat} (hl : [.cus] ⊆ l) (h : Kept l a s) :
    Kept l a (State.issueDma s u d ss sd) := by
  unfold State.issueDma
  with_reducible repeat' first
    | exact h
    | refine Kept.ite ?_ ?_
    | refine kept_modCu (sub hl (by decide)) ?_
    | dsimp only

theorem kept_issueSend {u : Nat} {ch : Nat} {r : Nat} {len : Nat} (hl : [.regs, .hsync, .bays, .cus, .evt] ⊆ l) (h : Kept l a s) :
    Kept l a (State.issueSend s u ch r len) := by
  unfold State.issueSend
  with_reducible repeat' first
    | exact h
    | refine Kept.ite ?_ ?_
    | refine kept_count (sub hl (by decide)) ?_
    | refine kept_addSync (sub hl (by decide)) ?_
    | refine kept_modCu (sub hl (by decide)) ?_
    | dsimp only

theorem kept_waitTake {u : Nat} {k : Nat} {n : Nat} {ge : Bool} (hl : [.cus, .evt] ⊆ l) (h : Kept l a s) :
    Kept l a (State.waitTake s u k n ge) := by
  unfold State.waitTake
  with_reducible repeat' first
    | exact h
    | refine Kept.ite ?_ ?_
    | refine kept_subSync (sub hl (by decide)) ?_
    | dsimp only

theorem kept_issueRoute {u : Nat} {e : Nat} (hl : [.cus] ⊆ l) (h : Kept l a s) :
    Kept l a (State.issueRoute s u e) := by
  unfold State.issueRoute
  with_reducible repeat' first
    | exact h
    | refine Kept.ite ?_ ?_
    | refine kept_modCu (sub hl (by decide)) ?_
    | dsimp only

theorem kept_issueSpin {u : Nat} {link : Nat} {d : Nat} {r : Nat} (hl : [.cus] ⊆ l) (h : Kept l a s) :
    Kept l a (State.issueSpin s u link d r) := by
  unfold State.issueSpin
  with_reducible repeat' first
    | exact h
    | refine Kept.ite ?_ ?_
    | refine kept_modCu (sub hl (by decide)) ?_
    | dsimp only

theorem kept_issueAgstart {u : Nat} {g : Nat} {d : Nat} {r : Nat} (hl : [.mus] ⊆ l) (h : Kept l a s) :
    Kept l a (State.issueAgstart s u g d r) := by
  unfold State.issueAgstart
  with_reducible repeat' first
    | exact h
    | refine Kept.ite ?_ ?_
    | refine kept_modMu (sub hl (by decide)) ?_
    | dsimp only

theorem kept_issueSlot {u : Nat} {x0 : SlotJob} (hl : [.cus, .mus] ⊆ l) (h : Kept l a s) :
    Kept l a (State.issueSlot s u x0) := by
  unfold State.issueSlot
  with_reducible repeat' first
    | exact h
    | refine Kept.ite ?_ ?_
    | refine kept_issueTensor (sub hl (by decide)) ?_
    | refine kept_issueVector (sub hl (by decide)) ?_
    | refine kept_issueDma (sub hl (by decide)) ?_
    | refine kept_issueSpin (sub hl (by decide)) ?_
    | refine kept_issueAgstart (sub hl (by decide)) ?_
    | refine Kept.foldl ?_ ?_
    | split
    | intro _ _ _ _
    | intro _ _ _
    | intro _ _
    | intro _
    | dsimp only

theorem kept_issueTag {u : Nat} {target : Nat} {r : Nat} (hl : [.cus, .mus] ⊆ l) (h : Kept l a s) :
    Kept l a (State.issueTag s u target r) := by
  unfold State.issueTag
  with_reducible repeat' first
    | exact h
    | refine Kept.ite ?_ ?_
    | refine kept_modCu (sub hl (by decide)) ?_
    | refine kept_modMu (sub hl (by decide)) ?_
    | dsimp only

end Sys2Proof.Machine
end

