-- ==== Sys2Proof/Laws/KeptFabricOps.lean ====
section
/-! SUPPORT. What each operation of Machine/FabricOps.lean may touch, and that it keeps the queue and the invariant. -/

namespace Sys2Proof.Machine

variable {l : List Comp} {a s : State}

theorem kept_sendLink {u : Nat} {l' : Nat} {x : Flit} (hl : [.regs, .cus] ⊆ l) (h : Kept l a s) :
    Kept l a (State.sendLink s u l' x) := by
  unfold State.sendLink
  with_reducible repeat' first
    | exact h
    | refine Kept.ite ?_ ?_
    | refine kept_modCu (sub hl (by decide)) ?_
    | refine kept_hwSet (sub hl (by decide)) ?_
    | refine Kept.foldl ?_ ?_
    | split
    | intro _ _ _ _
    | intro _ _ _
    | intro _ _
    | intro _
    | dsimp only

theorem kept_sendAll {u : Nat} {x : Flit} {x0 : List Nat} (hl : [.regs, .cus] ⊆ l) (h : Kept l a s) :
    Kept l a (State.sendAll s u x x0) := by
  induction x0 generalizing s u x with
  | nil =>
    unfold State.sendAll
    with_reducible repeat' first
      | exact h
      | dsimp only
  | cons y ys ih =>
    unfold State.sendAll
    with_reducible repeat' first
      | exact h
      | refine ih ?_
      | refine Kept.ite ?_ ?_
      | refine kept_sendLink (sub hl (by decide)) ?_
      | dsimp only

theorem kept_popLink {u : Nat} {l' : Nat} (hl : [.cus] ⊆ l) (h : Kept l a s) :
    Kept l a (State.popLink s u l') := by
  unfold State.popLink
  with_reducible repeat' first
    | exact h
    | refine Kept.ite ?_ ?_
    | refine kept_modCu (sub hl (by decide)) ?_
    | refine Kept.foldl ?_ ?_
    | split
    | intro _ _ _ _
    | intro _ _ _
    | intro _ _
    | intro _
    | dsimp only

theorem kept_takeLocal {u : Nat} {l' : Nat} {k : Nat} (hl : [.regs, .cus] ⊆ l) (h : Kept l a s) :
    KeptO l a (State.takeLocal s u l' k) := by
  unfold State.takeLocal
  with_reducible repeat' first
    | exact h
    | refine Kept.ite ?_ ?_
    | refine kept_modCu (sub hl (by decide)) ?_
    | refine kept_sendAll (sub hl (by decide)) ?_
    | refine kept_popLink (sub hl (by decide)) ?_
    | exact KeptO.none
    | refine KeptO.some ?_
    | refine KeptO.ite ?_ ?_
    | exact KeptS.none
    | refine KeptS.some ?_
    | refine KeptS.getD ?_ ?_
    | refine Kept.foldl ?_ ?_
    | split
    | intro _ _ _ _
    | intro _ _ _
    | intro _ _
    | intro _
    | dsimp only

theorem kept_linkStall {u : Nat} (hl : [.regs, .cus] ⊆ l) (h : Kept l a s) :
    Kept l a (State.linkStall s u) := by
  unfold State.linkStall
  with_reducible repeat' first
    | exact h
    | refine Kept.ite ?_ ?_
    | refine kept_modCu (sub hl (by decide)) ?_
    | refine kept_count (sub hl (by decide)) ?_
    | dsimp only

theorem kept_linkBad {u : Nat} {l' : Nat} {x : Flit} (hl : [.regs, .bays, .cus, .evt, .rel] ⊆ l) (h : Kept l a s) :
    Kept l a (State.linkBad s u l' x) := by
  unfold State.linkBad
  with_reducible repeat' first
    | exact h
    | refine Kept.ite ?_ ?_
    | refine kept_uncorrectableWord (sub hl (by decide)) ?_
    | refine kept_modCu (sub hl (by decide)) ?_
    | dsimp only

theorem kept_linkChecked {u : Nat} {l' : Nat} {c : LinkCheck} (hl : [.regs, .bays, .cus, .evt, .rel] ⊆ l) (h : Kept l a s) :
    Kept l a (State.linkChecked s u l' c) := by
  unfold State.linkChecked
  with_reducible repeat' first
    | exact h
    | assumption
    | refine Kept.ite ?_ ?_
    | refine kept_correctedWord (sub hl (by decide)) ?_
    | refine kept_modCu (sub hl (by decide)) ?_
    | refine kept_linkBad (sub hl (by decide)) ?_
    | refine Kept.foldl ?_ ?_
    | (split; rename_i e; have e0 := congrArg (fun p => p.1) e; have e1 := congrArg (fun p => p.2) e; dsimp only at e0 e1; subst e0; subst e1)
    | (split; rename_i e; have e0 := congrArg (fun p => p.2) e; dsimp only at e0; subst e0)
    | split
    | (refine Kept.of_snd (by assumption) ?_)
    | intro _ _ _ _
    | intro _ _ _
    | intro _ _
    | intro _
    | dsimp only

end Sys2Proof.Machine
end

