-- ==== Sys2Proof/Laws/KeptWriteBack.lean ====
section
/-! SUPPORT. What each operation of Machine/WriteBack.lean may touch, and that it keeps the queue and the invariant. -/

namespace Sys2Proof.Machine

variable {l : List Comp} {a s : State}

theorem kept_writeDest {u : Nat} {src : Nat} {o : Nat} {bs : List Byte} (hl : [.free, .mem, .errs, .regs, .bays, .mus, .evt, .twin, .rel] ⊆ l) (h : Kept l a s) :
    Kept l a (State.writeDest s u src o bs) := by
  unfold State.writeDest
  with_reducible repeat' first
    | exact h
    | assumption
    | refine Kept.ite ?_ ?_
    | refine kept_writeMany (sub hl (by decide)) ?_ ?_
    | refine kept_writeSp (sub hl (by decide)) ?_
    | refine kept_writeMu (sub hl (by decide)) ?_
    | refine Kept.foldl ?_ ?_
    | (split; rename_i e; have e0 := congrArg (fun p => p.1) e; have e1 := congrArg (fun p => p.2) e; dsimp only at e0 e1; subst e0; subst e1)
    | (split; rename_i e; have e0 := congrArg (fun p => p.2) e; dsimp only at e0; subst e0)
    | split
    | (refine Kept.of_snd (by assumption) ?_)
    | intro _ _ _ _
    | intro _ _ _
    | intro _ _
    | intro _
    | dsimp only

theorem kept_writeDestChecked {u : Nat} {src : Nat} {o : Nat} {bs : List Byte} (hl : [.free, .mem, .errs, .regs, .bays, .mus, .evt, .twin, .rel] ⊆ l) (h : Kept l a s) :
    Kept l a (State.writeDestChecked s u src o bs) := by
  unfold State.writeDestChecked
  with_reducible repeat' first
    | exact h
    | refine Kept.ite ?_ ?_
    | refine kept_writeDest (sub hl (by decide)) ?_
    | refine kept_sourceFault (sub hl (by decide)) ?_
    | dsimp only

theorem kept_countFlits {b : Nat} {d : Desc} {p : PackOut} {n : Nat} (hl : [.regs] ⊆ l) (h : Kept l a s) :
    Kept l a (State.countFlits s b d p n) := by
  unfold State.countFlits
  with_reducible repeat' first
    | exact h
    | refine Kept.ite ?_ ?_
    | refine kept_count (sub hl (by decide)) ?_
    | dsimp only

theorem kept_countDropped {b : Nat} {d : Desc} {p : PackOut} (hl : [.regs] ⊆ l) (h : Kept l a s) :
    Kept l a (State.countDropped s b d p) := by
  unfold State.countDropped
  with_reducible repeat' first
    | exact h
    | refine Kept.ite ?_ ?_
    | refine kept_count (sub hl (by decide)) ?_
    | dsimp only

theorem kept_writeLine {u : Nat} {d : Desc} {l' : Nat} {at_ : Nat} {p : PackOut} (hl : [.free, .mem, .errs, .regs, .bays, .mus, .evt, .twin, .rel] ⊆ l) (h : Kept l a s) :
    Kept l a (State.writeLine s u d l' at_ p).1 := by
  unfold State.writeLine
  with_reducible repeat' first
    | exact h
    | assumption
    | refine Kept.ite ?_ ?_
    | refine kept_countDropped (sub hl (by decide)) ?_
    | refine kept_countFlits (sub hl (by decide)) ?_
    | refine kept_readSource (sub hl (by decide)) ?_
    | refine kept_writeDestChecked (sub hl (by decide)) ?_
    | refine kept_malformed (sub hl (by decide)) ?_
    | refine Kept.foldl ?_ ?_
    | (split; rename_i e; have e0 := congrArg (fun p => p.1) e; have e1 := congrArg (fun p => p.2) e; dsimp only at e0 e1; subst e0; subst e1)
    | (split; rename_i e; have e0 := congrArg (fun p => p.2) e; dsimp only at e0; subst e0)
    | split
    | (refine Kept.of_snd (by assumption) ?_)
    | intro _ _ _ _
    | intro _ _ _
    | intro _ _
    | intro _
    | dsimp only

end Sys2Proof.Machine
end

