-- ==== Sys2Proof/Laws/KeptLane.lean ====
section
/-! SUPPORT. What each operation of Machine/Lane.lean may touch, and that it keeps the queue and the invariant. -/

namespace Sys2Proof.Machine

variable {l : List Comp} {a s : State}

theorem kept_modSeq {u : Nat} {f : Seq → Seq} (hl : [.cus] ⊆ l) (h : Kept l a s) :
    Kept l a (State.modSeq s u f) := by
  unfold State.modSeq
  with_reducible repeat' first
    | exact h
    | refine Kept.ite ?_ ?_
    | refine kept_modCu (sub hl (by decide)) ?_
    | dsimp only

theorem kept_ctlHold {u : Nat} {n : Nat} (hl : [.cus] ⊆ l) (h : Kept l a s) :
    Kept l a (State.ctlHold s u n) := by
  unfold State.ctlHold
  with_reducible repeat' first
    | exact h
    | refine Kept.ite ?_ ?_
    | refine kept_modSeq (sub hl (by decide)) ?_
    | dsimp only

theorem kept_ctlLoop {u : Nat} {count : Nat} (hl : [.cus] ⊆ l) (h : Kept l a s) :
    Kept l a (State.ctlLoop s u count) := by
  unfold State.ctlLoop
  with_reducible repeat' first
    | exact h
    | refine Kept.ite ?_ ?_
    | refine kept_modSeq (sub hl (by decide)) ?_
    | dsimp only

theorem kept_ctlEndloop {u : Nat} (hl : [.cus] ⊆ l) (h : Kept l a s) :
    Kept l a (State.ctlEndloop s u) := by
  unfold State.ctlEndloop
  with_reducible repeat' first
    | exact h
    | refine Kept.ite ?_ ?_
    | refine kept_modSeq (sub hl (by decide)) ?_
    | dsimp only

theorem kept_ctlSeti {u : Nat} {r : Nat} {imm : BitVec 12} (hl : [.cus] ⊆ l) (h : Kept l a s) :
    Kept l a (State.ctlSeti s u r imm) := by
  unfold State.ctlSeti
  with_reducible repeat' first
    | exact h
    | refine Kept.ite ?_ ?_
    | refine kept_modSeq (sub hl (by decide)) ?_
    | dsimp only

theorem kept_ctlAddi {u : Nat} {r : Nat} {imm : BitVec 12} (hl : [.cus] ⊆ l) (h : Kept l a s) :
    Kept l a (State.ctlAddi s u r imm) := by
  unfold State.ctlAddi
  with_reducible repeat' first
    | exact h
    | refine Kept.ite ?_ ?_
    | refine kept_modSeq (sub hl (by decide)) ?_
    | dsimp only

theorem kept_ctlPred {u : Nat} {r : Nat} {imm : BitVec 11} (hl : [.cus] ⊆ l) (h : Kept l a s) :
    Kept l a (State.ctlPred s u r imm) := by
  unfold State.ctlPred
  with_reducible repeat' first
    | exact h
    | refine Kept.ite ?_ ?_
    | refine kept_modSeq (sub hl (by decide)) ?_
    | dsimp only

theorem kept_ctlPredon {u : Nat} (hl : [.cus] ⊆ l) (h : Kept l a s) :
    Kept l a (State.ctlPredon s u) := by
  unfold State.ctlPredon
  with_reducible repeat' first
    | exact h
    | refine Kept.ite ?_ ?_
    | refine kept_modSeq (sub hl (by decide)) ?_
    | dsimp only

theorem kept_addExit {slot : Nat} (hl : [.stitch] ⊆ l) (h : Kept l a s) :
    Kept l a (State.addExit s slot) := by
  unfold State.addExit
  with_reducible repeat' first
    | exact h
    | refine Kept.ite ?_ ?_
    | refine kept_modStitch (sub hl (by decide)) ?_
    | dsimp only

theorem kept_ctlExit {u : Nat} {r : Nat} {imm : BitVec 11} (hl : [.stitch] ⊆ l) (h : Kept l a s) :
    Kept l a (State.ctlExit s u r imm) := by
  unfold State.ctlExit
  with_reducible repeat' first
    | exact h
    | refine Kept.ite ?_ ?_
    | refine kept_addExit (sub hl (by decide)) ?_
    | dsimp only

theorem kept_ctlBrace {u : Nat} {level : Nat} (hl : [.bays] ⊆ l) (h : Kept l a s) :
    Kept l a (State.ctlBrace s u level) := by
  unfold State.ctlBrace
  with_reducible repeat' first
    | exact h
    | refine Kept.ite ?_ ?_
    | refine kept_setBay (sub hl (by decide)) ?_
    | dsimp only

theorem kept_launchLate {u : Nat} {v : Nat} (hl : [.evt] ⊆ l) (h : Kept l a s) :
    Kept l a (State.launchLate s u v) := by
  unfold State.launchLate
  with_reducible repeat' first
    | exact h
    | refine Kept.ite ?_ ?_
    | refine kept_raiseBay (sub hl (by decide)) ?_
    | dsimp only

theorem kept_ctlLaunch {u : Nat} {r : Nat} (hl : [.cus, .evt] ⊆ l) (h : Kept l a s) :
    Kept l a (State.ctlLaunch s u r) := by
  unfold State.ctlLaunch
  with_reducible repeat' first
    | exact h
    | refine Kept.ite ?_ ?_
    | refine kept_launchLate (sub hl (by decide)) ?_
    | refine kept_modSeq (sub hl (by decide)) ?_
    | dsimp only

theorem kept_ctlEnd {u : Nat} (hl : [.cus] ⊆ l) (h : Kept l a s) :
    Kept l a (State.ctlEnd s u) := by
  unfold State.ctlEnd
  with_reducible repeat' first
    | exact h
    | refine Kept.ite ?_ ?_
    | refine kept_modSeq (sub hl (by decide)) ?_
    | dsimp only

theorem kept_issueTensorSlot {u : Nat} {x : Nat} (hl : [.cus] ⊆ l) (h : Kept l a s) :
    Kept l a (State.issueTensorSlot s u x) := by
  unfold State.issueTensorSlot
  with_reducible repeat' first
    | exact h
    | refine Kept.ite ?_ ?_
    | refine kept_issueTensor (sub hl (by decide)) ?_
    | refine Kept.foldl ?_ ?_
    | split
    | intro _ _ _ _
    | intro _ _ _
    | intro _ _
    | intro _
    | dsimp only

theorem kept_issueVectorSlot {u : Nat} {x : Nat} (hl : [.cus] ⊆ l) (h : Kept l a s) :
    Kept l a (State.issueVectorSlot s u x) := by
  unfold State.issueVectorSlot
  with_reducible repeat' first
    | exact h
    | refine Kept.ite ?_ ?_
    | refine kept_issueVector (sub hl (by decide)) ?_
    | dsimp only

theorem kept_issueMoveSlot {u : Nat} {x : Nat} (hl : [.regs, .hsync, .bays, .cus, .evt] ⊆ l) (h : Kept l a s) :
    Kept l a (State.issueMoveSlot s u x) := by
  unfold State.issueMoveSlot
  with_reducible repeat' first
    | exact h
    | refine Kept.ite ?_ ?_
    | refine kept_issueDma (sub hl (by decide)) ?_
    | refine kept_issueSend (sub hl (by decide)) ?_
    | refine kept_addSync (sub hl (by decide)) ?_
    | refine kept_waitTake (sub hl (by decide)) ?_
    | refine Kept.foldl ?_ ?_
    | split
    | intro _ _ _ _
    | intro _ _ _
    | intro _ _
    | intro _
    | dsimp only

theorem kept_issueLinkSlot {u : Nat} {x : Nat} (hl : [.cus, .mus] ⊆ l) (h : Kept l a s) :
    Kept l a (State.issueLinkSlot s u x) := by
  unfold State.issueLinkSlot
  with_reducible repeat' first
    | exact h
    | refine Kept.ite ?_ ?_
    | refine kept_issueRoute (sub hl (by decide)) ?_
    | refine kept_issueSpin (sub hl (by decide)) ?_
    | refine kept_issueAgstart (sub hl (by decide)) ?_
    | refine kept_issueTag (sub hl (by decide)) ?_
    | refine Kept.foldl ?_ ?_
    | split
    | intro _ _ _ _
    | intro _ _ _
    | intro _ _
    | intro _
    | dsimp only

theorem kept_issueControl {u : Nat} {x : Nat} (hl : [.stitch, .bays, .cus] ⊆ l) (h : Kept l a s) :
    Kept l a (State.issueControl s u x) := by
  unfold State.issueControl
  with_reducible repeat' first
    | exact h
    | refine Kept.ite ?_ ?_
    | refine kept_ctlHold (sub hl (by decide)) ?_
    | refine kept_ctlLoop (sub hl (by decide)) ?_
    | refine kept_ctlEndloop (sub hl (by decide)) ?_
    | refine kept_ctlSeti (sub hl (by decide)) ?_
    | refine kept_ctlAddi (sub hl (by decide)) ?_
    | refine kept_ctlPred (sub hl (by decide)) ?_
    | refine kept_ctlPredon (sub hl (by decide)) ?_
    | refine kept_ctlExit (sub hl (by decide)) ?_
    | refine kept_ctlBrace (sub hl (by decide)) ?_
    | refine kept_ctlEnd (sub hl (by decide)) ?_
    | refine Kept.foldl ?_ ?_
    | split
    | intro _ _ _ _
    | intro _ _ _
    | intro _ _
    | intro _
    | dsimp only

theorem kept_issueBundle {u : Nat} {x : Nat} {launched : Bool} (hl : [.regs, .stitch, .hsync, .bays, .cus, .mus, .evt] ⊆ l) (h : Kept l a s) :
    Kept l a (State.issueBundle s u x launched) := by
  unfold State.issueBundle
  with_reducible repeat' first
    | exact h
    | refine Kept.ite ?_ ?_
    | refine kept_modSeq (sub hl (by decide)) ?_
    | refine kept_issueTensorSlot (sub hl (by decide)) ?_
    | refine kept_issueVectorSlot (sub hl (by decide)) ?_
    | refine kept_issueMoveSlot (sub hl (by decide)) ?_
    | refine kept_issueLinkSlot (sub hl (by decide)) ?_
    | refine kept_launchLate (sub hl (by decide)) ?_
    | refine kept_issueControl (sub hl (by decide)) ?_
    | dsimp only

theorem kept_fetchIssue {u : Nat} {skipWait : Bool} {skipLaunch : Bool} (hl : [.free, .mem, .errs, .regs, .stitch, .hsync, .bays, .cus, .mus, .evt, .rel] ⊆ l) (h : Kept l a s) :
    Kept l a (State.fetchIssue s u skipWait skipLaunch) := by
  unfold State.fetchIssue
  with_reducible repeat' first
    | exact h
    | refine Kept.ite ?_ ?_
    | refine kept_readStore (sub hl (by decide)) ?_
    | refine kept_modSeq (sub hl (by decide)) ?_
    | refine kept_issueBundle (sub hl (by decide)) ?_
    | refine Kept.foldl ?_ ?_
    | split
    | intro _ _ _ _
    | intro _ _ _
    | intro _ _
    | intro _
    | dsimp only

theorem kept_slotRetry {u : Nat} {j : SlotJob} (hl : [.cus, .mus] ⊆ l) (h : Kept l a s) :
    Kept l a (State.slotRetry s u j) := by
  unfold State.slotRetry
  with_reducible repeat' first
    | exact h
    | refine Kept.ite ?_ ?_
    | refine kept_issueSlot (sub hl (by decide)) ?_
    | refine kept_modSeq (sub hl (by decide)) ?_
    | dsimp only

theorem kept_opBundleIssue {t : Nat} {u : Nat} (hl : [.free, .mem, .errs, .regs, .stitch, .hsync, .bays, .cus, .mus, .evt, .rel] ⊆ l) (h : Kept l a s) :
    Kept l a (opBundleIssue t u s) := by
  unfold opBundleIssue
  with_reducible repeat' first
    | exact h
    | refine Kept.ite ?_ ?_
    | refine kept_bayTime (sub hl (by decide)) ?_
    | refine kept_slotRetry (sub hl (by decide)) ?_
    | refine kept_fetchIssue (sub hl (by decide)) ?_
    | refine Kept.foldl ?_ ?_
    | split
    | intro _ _ _ _
    | intro _ _ _
    | intro _ _
    | intro _
    | dsimp only

theorem runs_execBundleIssue {t : Nat} {u : Nat} {s0 : State} (hl : [.free, .mem, .errs, .regs, .stitch, .hsync, .bays, .cus, .mus, .evt, .rel] ⊆ l) :
    Runs l s0 (execBundleIssue t u s0) := by
  unfold execBundleIssue
  refine Runs.next ?_
  have h := Kept.refl l s0
  with_reducible repeat' first
    | exact h
    | refine Kept.ite ?_ ?_
    | refine kept_opBundleIssue (sub hl (by decide)) ?_
    | dsimp only

theorem kept_onLane {t : Nat} {u : Nat} {f : State → State} (hl : [.regs, .bays] ⊆ l) (h : Kept l a s) (hf : ∀ v0, Kept l a v0 → Kept l a (f v0)) :
    Kept l a (State.onLane s t u f) := by
  unfold State.onLane
  with_reducible repeat' first
    | exact h
    | assumption
    | refine hf _ ?_
    | refine Kept.ite ?_ ?_
    | refine kept_bayTime (sub hl (by decide)) ?_
    | dsimp only

theorem kept_slotIf {u : Nat} {pred : Bool} {f : State → State} (hl : [] ⊆ l) (h : Kept l a s) (hf : ∀ v0, Kept l a v0 → Kept l a (f v0)) :
    Kept l a (State.slotIf s u pred f) := by
  unfold State.slotIf
  with_reducible repeat' first
    | exact h
    | assumption
    | refine hf _ ?_
    | refine Kept.ite ?_ ?_
    | dsimp only

theorem kept_slotAct {u : Nat} {pred : Bool} {j : SlotJob} (hl : [.cus, .mus] ⊆ l) (h : Kept l a s) :
    Kept l a (State.slotAct s u pred j) := by
  unfold State.slotAct
  with_reducible repeat' first
    | exact h
    | assumption
    | refine Kept.ite ?_ ?_
    | refine kept_slotIf (sub hl (by decide)) ?_ ?_
    | refine kept_issueSlot (sub hl (by decide)) ?_
    | refine kept_modSeq (sub hl (by decide)) ?_
    | refine Kept.foldl ?_ ?_
    | (split; rename_i e; have e0 := congrArg (fun p => p.1) e; have e1 := congrArg (fun p => p.2) e; dsimp only at e0 e1; subst e0; subst e1)
    | (split; rename_i e; have e0 := congrArg (fun p => p.2) e; dsimp only at e0; subst e0)
    | split
    | (refine Kept.of_snd (by assumption) ?_)
    | intro _ _ _ _
    | intro _ _ _
    | intro _ _
    | intro _
    | dsimp only

theorem runs_execNop {t : Nat} {u : Nat} {s0 : State} (hl : [.regs, .bays] ⊆ l) :
    Runs l s0 (execNop t u s0) :=
  Runs.next (kept_onLane (sub hl (by decide)) (Kept.refl l s0) (fun _ h => h))

theorem runs_execHold {t : Nat} {u : Nat} {n : Nat} {s0 : State} (hl : [.regs, .bays, .cus] ⊆ l) :
    Runs l s0 (execHold t u n s0) := by
  unfold execHold
  refine Runs.next ?_
  have h := Kept.refl l s0
  with_reducible repeat' first
    | exact h
    | assumption
    | refine Kept.ite ?_ ?_
    | refine kept_onLane (sub hl (by decide)) ?_ ?_
    | refine kept_ctlHold (sub hl (by decide)) ?_
    | refine Kept.foldl ?_ ?_
    | (split; rename_i e; have e0 := congrArg (fun p => p.1) e; have e1 := congrArg (fun p => p.2) e; dsimp only at e0 e1; subst e0; subst e1)
    | (split; rename_i e; have e0 := congrArg (fun p => p.2) e; dsimp only at e0; subst e0)
    | split
    | (refine Kept.of_snd (by assumption) ?_)
    | intro _ _ _ _
    | intro _ _ _
    | intro _ _
    | intro _
    | dsimp only

theorem kept_holdExpiry {u : Nat} (hl : [.cus] ⊆ l) (h : Kept l a s) :
    Kept l a (State.holdExpiry s u) := by
  unfold State.holdExpiry
  with_reducible repeat' first
    | exact h
    | refine Kept.ite ?_ ?_
    | refine kept_modSeq (sub hl (by decide)) ?_
    | refine Kept.foldl ?_ ?_
    | split
    | intro _ _ _ _
    | intro _ _ _
    | intro _ _
    | intro _
    | dsimp only

theorem runs_execHoldExpiry {t : Nat} {u : Nat} {s0 : State} (hl : [.regs, .bays, .cus] ⊆ l) :
    Runs l s0 (execHoldExpiry t u s0) := by
  unfold execHoldExpiry
  refine Runs.next ?_
  have h := Kept.refl l s0
  with_reducible repeat' first
    | exact h
    | refine Kept.ite ?_ ?_
    | refine kept_holdExpiry (sub hl (by decide)) ?_
    | refine kept_bayTime (sub hl (by decide)) ?_
    | dsimp only

theorem runs_execLoop {t : Nat} {u : Nat} {count : Nat} {s0 : State} (hl : [.regs, .bays, .cus] ⊆ l) :
    Runs l s0 (execLoop t u count s0) := by
  unfold execLoop
  refine Runs.next ?_
  have h := Kept.refl l s0
  with_reducible repeat' first
    | exact h
    | assumption
    | refine Kept.ite ?_ ?_
    | refine kept_onLane (sub hl (by decide)) ?_ ?_
    | refine kept_ctlLoop (sub hl (by decide)) ?_
    | refine Kept.foldl ?_ ?_
    | (split; rename_i e; have e0 := congrArg (fun p => p.1) e; have e1 := congrArg (fun p => p.2) e; dsimp only at e0 e1; subst e0; subst e1)
    | (split; rename_i e; have e0 := congrArg (fun p => p.2) e; dsimp only at e0; subst e0)
    | split
    | (refine Kept.of_snd (by assumption) ?_)
    | intro _ _ _ _
    | intro _ _ _
    | intro _ _
    | intro _
    | dsimp only

theorem runs_execEndloop {t : Nat} {u : Nat} {s0 : State} (hl : [.regs, .bays, .cus] ⊆ l) :
    Runs l s0 (execEndloop t u s0) := by
  unfold execEndloop
  refine Runs.next ?_
  have h := Kept.refl l s0
  with_reducible repeat' first
    | exact h
    | assumption
    | refine Kept.ite ?_ ?_
    | refine kept_onLane (sub hl (by decide)) ?_ ?_
    | refine kept_ctlEndloop (sub hl (by decide)) ?_
    | refine Kept.foldl ?_ ?_
    | (split; rename_i e; have e0 := congrArg (fun p => p.1) e; have e1 := congrArg (fun p => p.2) e; dsimp only at e0 e1; subst e0; subst e1)
    | (split; rename_i e; have e0 := congrArg (fun p => p.2) e; dsimp only at e0; subst e0)
    | split
    | (refine Kept.of_snd (by assumption) ?_)
    | intro _ _ _ _
    | intro _ _ _
    | intro _ _
    | intro _
    | dsimp only

theorem runs_execSeti {t : Nat} {u : Nat} {r : Nat} {imm : BitVec 12} {s0 : State} (hl : [.regs, .bays, .cus] ⊆ l) :
    Runs l s0 (execSeti t u r imm s0) := by
  unfold execSeti
  refine Runs.next ?_
  have h := Kept.refl l s0
  with_reducible repeat' first
    | exact h
    | assumption
    | refine Kept.ite ?_ ?_
    | refine kept_onLane (sub hl (by decide)) ?_ ?_
    | refine kept_ctlSeti (sub hl (by decide)) ?_
    | refine Kept.foldl ?_ ?_
    | (split; rename_i e; have e0 := congrArg (fun p => p.1) e; have e1 := congrArg (fun p => p.2) e; dsimp only at e0 e1; subst e0; subst e1)
    | (split; rename_i e; have e0 := congrArg (fun p => p.2) e; dsimp only at e0; subst e0)
    | split
    | (refine Kept.of_snd (by assumption) ?_)
    | intro _ _ _ _
    | intro _ _ _
    | intro _ _
    | intro _
    | dsimp only

theorem runs_execAddi {t : Nat} {u : Nat} {r : Nat} {imm : BitVec 12} {s0 : State} (hl : [.regs, .bays, .cus] ⊆ l) :
    Runs l s0 (execAddi t u r imm s0) := by
  unfold execAddi
  refine Runs.next ?_
  have h := Kept.refl l s0
  with_reducible repeat' first
    | exact h
    | assumption
    | refine Kept.ite ?_ ?_
    | refine kept_onLane (sub hl (by decide)) ?_ ?_
    | refine kept_ctlAddi (sub hl (by decide)) ?_
    | refine Kept.foldl ?_ ?_
    | (split; rename_i e; have e0 := congrArg (fun p => p.1) e; have e1 := congrArg (fun p => p.2) e; dsimp only at e0 e1; subst e0; subst e1)
    | (split; rename_i e; have e0 := congrArg (fun p => p.2) e; dsimp only at e0; subst e0)
    | split
    | (refine Kept.of_snd (by assumption) ?_)
    | intro _ _ _ _
    | intro _ _ _
    | intro _ _
    | intro _
    | dsimp only

theorem runs_execPred {t : Nat} {u : Nat} {r : Nat} {imm : BitVec 11} {s0 : State} (hl : [.regs, .bays, .cus] ⊆ l) :
    Runs l s0 (execPred t u r imm s0) := by
  unfold execPred
  refine Runs.next ?_
  have h := Kept.refl l s0
  with_reducible repeat' first
    | exact h
    | assumption
    | refine Kept.ite ?_ ?_
    | refine kept_onLane (sub hl (by decide)) ?_ ?_
    | refine kept_ctlPred (sub hl (by decide)) ?_
    | refine Kept.foldl ?_ ?_
    | (split; rename_i e; have e0 := congrArg (fun p => p.1) e; have e1 := congrArg (fun p => p.2) e; dsimp only at e0 e1; subst e0; subst e1)
    | (split; rename_i e; have e0 := congrArg (fun p => p.2) e; dsimp only at e0; subst e0)
    | split
    | (refine Kept.of_snd (by assumption) ?_)
    | intro _ _ _ _
    | intro _ _ _
    | intro _ _
    | intro _
    | dsimp only

theorem runs_execPredon {t : Nat} {u : Nat} {s0 : State} (hl : [.regs, .bays, .cus] ⊆ l) :
    Runs l s0 (execPredon t u s0) := by
  unfold execPredon
  refine Runs.next ?_
  have h := Kept.refl l s0
  with_reducible repeat' first
    | exact h
    | assumption
    | refine Kept.ite ?_ ?_
    | refine kept_onLane (sub hl (by decide)) ?_ ?_
    | refine kept_ctlPredon (sub hl (by decide)) ?_
    | refine Kept.foldl ?_ ?_
    | (split; rename_i e; have e0 := congrArg (fun p => p.1) e; have e1 := congrArg (fun p => p.2) e; dsimp only at e0 e1; subst e0; subst e1)
    | (split; rename_i e; have e0 := congrArg (fun p => p.2) e; dsimp only at e0; subst e0)
    | split
    | (refine Kept.of_snd (by assumption) ?_)
    | intro _ _ _ _
    | intro _ _ _
    | intro _ _
    | intro _
    | dsimp only

theorem runs_execExit {t : Nat} {u : Nat} {r : Nat} {imm : BitVec 11} {s0 : State} (hl : [.regs, .stitch, .bays] ⊆ l) :
    Runs l s0 (execExit t u r imm s0) := by
  unfold execExit
  refine Runs.next ?_
  have h := Kept.refl l s0
  with_reducible repeat' first
    | exact h
    | assumption
    | refine Kept.ite ?_ ?_
    | refine kept_onLane (sub hl (by decide)) ?_ ?_
    | refine kept_ctlExit (sub hl (by decide)) ?_
    | refine Kept.foldl ?_ ?_
    | (split; rename_i e; have e0 := congrArg (fun p => p.1) e; have e1 := congrArg (fun p => p.2) e; dsimp only at e0 e1; subst e0; subst e1)
    | (split; rename_i e; have e0 := congrArg (fun p => p.2) e; dsimp only at e0; subst e0)
    | split
    | (refine Kept.of_snd (by assumption) ?_)
    | intro _ _ _ _
    | intro _ _ _
    | intro _ _
    | intro _
    | dsimp only

theorem runs_execBrace {t : Nat} {u : Nat} {level : Nat} {s0 : State} (hl : [.regs, .bays] ⊆ l) :
    Runs l s0 (execBrace t u level s0) := by
  unfold execBrace
  refine Runs.next ?_
  have h := Kept.refl l s0
  with_reducible repeat' first
    | exact h
    | assumption
    | refine Kept.ite ?_ ?_
    | refine kept_onLane (sub hl (by decide)) ?_ ?_
    | refine kept_ctlBrace (sub hl (by decide)) ?_
    | refine Kept.foldl ?_ ?_
    | (split; rename_i e; have e0 := congrArg (fun p => p.1) e; have e1 := congrArg (fun p => p.2) e; dsimp only at e0 e1; subst e0; subst e1)
    | (split; rename_i e; have e0 := congrArg (fun p => p.2) e; dsimp only at e0; subst e0)
    | split
    | (refine Kept.of_snd (by assumption) ?_)
    | intro _ _ _ _
    | intro _ _ _
    | intro _ _
    | intro _
    | dsimp only

theorem runs_execLaunch {t : Nat} {u : Nat} {r : Nat} {s0 : State} (hl : [.regs, .bays, .cus, .evt] ⊆ l) :
    Runs l s0 (execLaunch t u r s0) := by
  unfold execLaunch
  refine Runs.next ?_
  have h := Kept.refl l s0
  with_reducible repeat' first
    | exact h
    | assumption
    | refine Kept.ite ?_ ?_
    | refine kept_onLane (sub hl (by decide)) ?_ ?_
    | refine kept_ctlLaunch (sub hl (by decide)) ?_
    | refine Kept.foldl ?_ ?_
    | (split; rename_i e; have e0 := congrArg (fun p => p.1) e; have e1 := congrArg (fun p => p.2) e; dsimp only at e0 e1; subst e0; subst e1)
    | (split; rename_i e; have e0 := congrArg (fun p => p.2) e; dsimp only at e0; subst e0)
    | split
    | (refine Kept.of_snd (by assumption) ?_)
    | intro _ _ _ _
    | intro _ _ _
    | intro _ _
    | intro _
    | dsimp only

theorem kept_braceArm {b : Nat} (hl : [.bays] ⊆ l) (h : Kept l a s) :
    Kept l a (State.braceArm s b) := by
  unfold State.braceArm
  with_reducible repeat' first
    | exact h
    | refine Kept.ite ?_ ?_
    | refine kept_setBay (sub hl (by decide)) ?_
    | dsimp only

theorem runs_execBraceArm {t : Nat} {b : Nat} {s0 : State} (hl : [.regs, .bays] ⊆ l) :
    Runs l s0 (execBraceArm t b s0) := by
  unfold execBraceArm
  refine Runs.next ?_
  have h := Kept.refl l s0
  with_reducible repeat' first
    | exact h
    | refine Kept.ite ?_ ?_
    | refine kept_braceArm (sub hl (by decide)) ?_
    | refine kept_bayTime (sub hl (by decide)) ?_
    | dsimp only

theorem kept_launchRelease {u : Nat} (hl : [.free, .mem, .errs, .regs, .stitch, .hsync, .bays, .cus, .mus, .evt, .rel] ⊆ l) (h : Kept l a s) :
    Kept l a (State.launchRelease s u) := by
  unfold State.launchRelease
  with_reducible repeat' first
    | exact h
    | refine Kept.ite ?_ ?_
    | refine kept_modSeq (sub hl (by decide)) ?_
    | refine kept_fetchIssue (sub hl (by decide)) ?_
    | refine Kept.foldl ?_ ?_
    | split
    | intro _ _ _ _
    | intro _ _ _
    | intro _ _
    | intro _
    | dsimp only

theorem runs_execLaunchRelease {t : Nat} {u : Nat} {s0 : State} (hl : [.free, .mem, .errs, .regs, .stitch, .hsync, .bays, .cus, .mus, .evt, .rel] ⊆ l) :
    Runs l s0 (execLaunchRelease t u s0) := by
  unfold execLaunchRelease
  refine Runs.next ?_
  have h := Kept.refl l s0
  with_reducible repeat' first
    | exact h
    | refine Kept.ite ?_ ?_
    | refine kept_launchRelease (sub hl (by decide)) ?_
    | refine kept_bayTime (sub hl (by decide)) ?_
    | dsimp only

theorem runs_execEndMark {t : Nat} {u : Nat} {s0 : State} (hl : [.regs, .bays, .cus] ⊆ l) :
    Runs l s0 (execEndMark t u s0) := by
  unfold execEndMark
  refine Runs.next ?_
  have h := Kept.refl l s0
  with_reducible repeat' first
    | exact h
    | assumption
    | refine Kept.ite ?_ ?_
    | refine kept_onLane (sub hl (by decide)) ?_ ?_
    | refine kept_ctlEnd (sub hl (by decide)) ?_
    | refine Kept.foldl ?_ ?_
    | (split; rename_i e; have e0 := congrArg (fun p => p.1) e; have e1 := congrArg (fun p => p.2) e; dsimp only at e0 e1; subst e0; subst e1)
    | (split; rename_i e; have e0 := congrArg (fun p => p.2) e; dsimp only at e0; subst e0)
    | split
    | (refine Kept.of_snd (by assumption) ?_)
    | intro _ _ _ _
    | intro _ _ _
    | intro _ _
    | intro _
    | dsimp only

theorem kept_markerRetire {u : Nat} (hl : [.bays, .cus] ⊆ l) (h : Kept l a s) :
    Kept l a (State.markerRetire s u) := by
  unfold State.markerRetire
  with_reducible repeat' first
    | exact h
    | refine Kept.ite ?_ ?_
    | refine kept_modBay (sub hl (by decide)) ?_
    | refine kept_modSeq (sub hl (by decide)) ?_
    | dsimp only

theorem runs_execStitchEndMarkerRetire {t : Nat} {u : Nat} {s0 : State} (hl : [.regs, .bays, .cus] ⊆ l) :
    Runs l s0 (execStitchEndMarkerRetire t u s0) := by
  unfold execStitchEndMarkerRetire
  refine Runs.next ?_
  have h := Kept.refl l s0
  with_reducible repeat' first
    | exact h
    | refine Kept.ite ?_ ?_
    | refine kept_markerRetire (sub hl (by decide)) ?_
    | refine kept_bayTime (sub hl (by decide)) ?_
    | dsimp only

theorem kept_writeLane {u : Nat} {ws : List Word} (hl : [.mem, .errs] ⊆ l) (h : Kept l a s) :
    Kept l a (State.writeLane s u ws) := by
  unfold State.writeLane
  with_reducible repeat' first
    | exact h
    | assumption
    | refine Kept.ite ?_ ?_
    | refine kept_writeMany (sub hl (by decide)) ?_ ?_
    | refine kept_putWord (sub hl (by decide)) ?_
    | refine Kept.foldl ?_ ?_
    | (split; rename_i e; have e0 := congrArg (fun p => p.1) e; have e1 := congrArg (fun p => p.2) e; dsimp only at e0 e1; subst e0; subst e1)
    | (split; rename_i e; have e0 := congrArg (fun p => p.2) e; dsimp only at e0; subst e0)
    | split
    | (refine Kept.of_snd (by assumption) ?_)
    | intro _ _ _ _
    | intro _ _ _
    | intro _ _
    | intro _
    | dsimp only

theorem kept_laneRewrite {u : Nat} (hl : [.mem, .errs, .rel] ⊆ l) (h : Kept l a s) :
    Kept l a (State.laneRewrite s u) := by
  unfold State.laneRewrite
  repeat' first
    | with_reducible exact h
    | with_reducible refine Kept.ite ?_ ?_
    | with_reducible refine kept_writeLane (sub hl (by decide)) ?_
    | with_reducible refine Kept.foldl ?_ ?_
    | split
    | (intro k hk; cases k <;> first | exact absurd (hl (by decide)) hk | rfl | exact ⟨rfl, rfl⟩)
    | (simp only [kept_lit]; refine KeptUpd.intro ?_ ?_ ⟨rfl, rfl, rfl⟩)
    | intro _ _ _ _
    | intro _ _ _
    | intro _ _
    | intro _
    | dsimp only

theorem runs_execLaneStoreRewrite {t : Nat} {u : Nat} {s0 : State} (hl : [.mem, .errs, .clk, .rel] ⊆ l) :
    Runs l s0 (execLaneStoreRewrite t u s0) := by
  unfold execLaneStoreRewrite
  refine Runs.next ?_
  have h := Kept.refl l s0
  with_reducible repeat' first
    | exact h
    | refine Kept.ite ?_ ?_
    | refine kept_laneRewrite (sub hl (by decide)) ?_
    | refine kept_masterTime (sub hl (by decide)) ?_
    | dsimp only

theorem runs_execMm {t : Nat} {u : Nat} {op : TensorOp} {s0 : State} (hl : [.regs, .bays, .cus, .mus] ⊆ l) :
    Runs l s0 (execMm t u op s0) := by
  unfold execMm
  refine Runs.next ?_
  have h := Kept.refl l s0
  with_reducible repeat' first
    | exact h
    | assumption
    | refine Kept.ite ?_ ?_
    | refine kept_onLane (sub hl (by decide)) ?_ ?_
    | refine kept_slotAct (sub hl (by decide)) ?_
    | refine Kept.foldl ?_ ?_
    | (split; rename_i e; have e0 := congrArg (fun p => p.1) e; have e1 := congrArg (fun p => p.2) e; dsimp only at e0 e1; subst e0; subst e1)
    | (split; rename_i e; have e0 := congrArg (fun p => p.2) e; dsimp only at e0; subst e0)
    | split
    | (refine Kept.of_snd (by assumption) ?_)
    | intro _ _ _ _
    | intro _ _ _
    | intro _ _
    | intro _
    | dsimp only

theorem runs_execMma {t : Nat} {u : Nat} {op : TensorOp} {s0 : State} (hl : [.regs, .bays, .cus, .mus] ⊆ l) :
    Runs l s0 (execMma t u op s0) := by
  unfold execMma
  refine Runs.next ?_
  have h := Kept.refl l s0
  with_reducible repeat' first
    | exact h
    | assumption
    | refine Kept.ite ?_ ?_
    | refine kept_onLane (sub hl (by decide)) ?_ ?_
    | refine kept_slotAct (sub hl (by decide)) ?_
    | refine Kept.foldl ?_ ?_
    | (split; rename_i e; have e0 := congrArg (fun p => p.1) e; have e1 := congrArg (fun p => p.2) e; dsimp only at e0 e1; subst e0; subst e1)
    | (split; rename_i e; have e0 := congrArg (fun p => p.2) e; dsimp only at e0; subst e0)
    | split
    | (refine Kept.of_snd (by assumption) ?_)
    | intro _ _ _ _
    | intro _ _ _
    | intro _ _
    | intro _
    | dsimp only

theorem runs_execVectorPass {t : Nat} {u : Nat} {op : VecOp} {s0 : State} (hl : [.regs, .bays, .cus, .mus] ⊆ l) :
    Runs l s0 (execVectorPass t u op s0) := by
  unfold execVectorPass
  refine Runs.next ?_
  have h := Kept.refl l s0
  with_reducible repeat' first
    | exact h
    | assumption
    | refine Kept.ite ?_ ?_
    | refine kept_onLane (sub hl (by decide)) ?_ ?_
    | refine kept_slotAct (sub hl (by decide)) ?_
    | refine Kept.foldl ?_ ?_
    | (split; rename_i e; have e0 := congrArg (fun p => p.1) e; have e1 := congrArg (fun p => p.2) e; dsimp only at e0 e1; subst e0; subst e1)
    | (split; rename_i e; have e0 := congrArg (fun p => p.2) e; dsimp only at e0; subst e0)
    | split
    | (refine Kept.of_snd (by assumption) ?_)
    | intro _ _ _ _
    | intro _ _ _
    | intro _ _
    | intro _
    | dsimp only

theorem runs_execDma {t : Nat} {u : Nat} {d : Nat} {ss : Nat} {sd : Nat} {pred : Bool} {s0 : State} (hl : [.regs, .bays, .cus, .mus] ⊆ l) :
    Runs l s0 (execDma t u d ss sd pred s0) := by
  unfold execDma
  refine Runs.next ?_
  have h := Kept.refl l s0
  with_reducible repeat' first
    | exact h
    | assumption
    | refine Kept.ite ?_ ?_
    | refine kept_onLane (sub hl (by decide)) ?_ ?_
    | refine kept_slotAct (sub hl (by decide)) ?_
    | refine Kept.foldl ?_ ?_
    | (split; rename_i e; have e0 := congrArg (fun p => p.1) e; have e1 := congrArg (fun p => p.2) e; dsimp only at e0 e1; subst e0; subst e1)
    | (split; rename_i e; have e0 := congrArg (fun p => p.2) e; dsimp only at e0; subst e0)
    | split
    | (refine Kept.of_snd (by assumption) ?_)
    | intro _ _ _ _
    | intro _ _ _
    | intro _ _
    | intro _
    | dsimp only

theorem runs_execSend {t : Nat} {u : Nat} {ch : Nat} {r : Nat} {len : Nat} {pred : Bool} {s0 : State} (hl : [.regs, .hsync, .bays, .cus, .evt] ⊆ l) :
    Runs l s0 (execSend t u ch r len pred s0) := by
  unfold execSend
  refine Runs.next ?_
  have h := Kept.refl l s0
  with_reducible repeat' first
    | exact h
    | assumption
    | refine Kept.ite ?_ ?_
    | refine kept_onLane (sub hl (by decide)) ?_ ?_
    | refine kept_slotIf (sub hl (by decide)) ?_ ?_
    | refine kept_issueSend (sub hl (by decide)) ?_
    | refine Kept.foldl ?_ ?_
    | (split; rename_i e; have e0 := congrArg (fun p => p.1) e; have e1 := congrArg (fun p => p.2) e; dsimp only at e0 e1; subst e0; subst e1)
    | (split; rename_i e; have e0 := congrArg (fun p => p.2) e; dsimp only at e0; subst e0)
    | split
    | (refine Kept.of_snd (by assumption) ?_)
    | intro _ _ _ _
    | intro _ _ _
    | intro _ _
    | intro _
    | dsimp only

theorem runs_execSig {t : Nat} {u : Nat} {k : Nat} {n : Nat} {pred : Bool} {s0 : State} (hl : [.regs, .hsync, .bays, .cus, .evt] ⊆ l) :
    Runs l s0 (execSig t u k n pred s0) := by
  unfold execSig
  refine Runs.next ?_
  have h := Kept.refl l s0
  with_reducible repeat' first
    | exact h
    | assumption
    | refine Kept.ite ?_ ?_
    | refine kept_onLane (sub hl (by decide)) ?_ ?_
    | refine kept_slotIf (sub hl (by decide)) ?_ ?_
    | refine kept_addSync (sub hl (by decide)) ?_
    | refine Kept.foldl ?_ ?_
    | (split; rename_i e; have e0 := congrArg (fun p => p.1) e; have e1 := congrArg (fun p => p.2) e; dsimp only at e0 e1; subst e0; subst e1)
    | (split; rename_i e; have e0 := congrArg (fun p => p.2) e; dsimp only at e0; subst e0)
    | split
    | (refine Kept.of_snd (by assumption) ?_)
    | intro _ _ _ _
    | intro _ _ _
    | intro _ _
    | intro _
    | dsimp only

theorem kept_waitSlot {u : Nat} {k : Nat} {n : Nat} {ge : Bool} (hl : [.cus, .evt] ⊆ l) (h : Kept l a s) :
    Kept l a (State.waitSlot s u k n ge) := by
  unfold State.waitSlot
  with_reducible repeat' first
    | exact h
    | refine Kept.ite ?_ ?_
    | refine kept_waitTake (sub hl (by decide)) ?_
    | refine kept_modSeq (sub hl (by decide)) ?_
    | dsimp only

theorem runs_execWait {t : Nat} {u : Nat} {k : Nat} {n : Nat} {pred : Bool} {s0 : State} (hl : [.regs, .bays, .cus, .evt] ⊆ l) :
    Runs l s0 (execWait t u k n pred s0) := by
  unfold execWait
  refine Runs.next ?_
  have h := Kept.refl l s0
  with_reducible repeat' first
    | exact h
    | assumption
    | refine Kept.ite ?_ ?_
    | refine kept_onLane (sub hl (by decide)) ?_ ?_
    | refine kept_slotIf (sub hl (by decide)) ?_ ?_
    | refine kept_waitSlot (sub hl (by decide)) ?_
    | refine Kept.foldl ?_ ?_
    | (split; rename_i e; have e0 := congrArg (fun p => p.1) e; have e1 := congrArg (fun p => p.2) e; dsimp only at e0 e1; subst e0; subst e1)
    | (split; rename_i e; have e0 := congrArg (fun p => p.2) e; dsimp only at e0; subst e0)
    | split
    | (refine Kept.of_snd (by assumption) ?_)
    | intro _ _ _ _
    | intro _ _ _
    | intro _ _
    | intro _
    | dsimp only

theorem runs_execWaitge {t : Nat} {u : Nat} {k : Nat} {n : Nat} {pred : Bool} {s0 : State} (hl : [.regs, .bays, .cus, .evt] ⊆ l) :
    Runs l s0 (execWaitge t u k n pred s0) := by
  unfold execWaitge
  refine Runs.next ?_
  have h := Kept.refl l s0
  with_reducible repeat' first
    | exact h
    | assumption
    | refine Kept.ite ?_ ?_
    | refine kept_onLane (sub hl (by decide)) ?_ ?_
    | refine kept_slotIf (sub hl (by decide)) ?_ ?_
    | refine kept_waitSlot (sub hl (by decide)) ?_
    | refine Kept.foldl ?_ ?_
    | (split; rename_i e; have e0 := congrArg (fun p => p.1) e; have e1 := congrArg (fun p => p.2) e; dsimp only at e0 e1; subst e0; subst e1)
    | (split; rename_i e; have e0 := congrArg (fun p => p.2) e; dsimp only at e0; subst e0)
    | split
    | (refine Kept.of_snd (by assumption) ?_)
    | intro _ _ _ _
    | intro _ _ _
    | intro _ _
    | intro _
    | dsimp only

theorem kept_waitSatisfied {u : Nat} (hl : [.free, .mem, .errs, .regs, .stitch, .hsync, .bays, .cus, .mus, .evt, .rel] ⊆ l) (h : Kept l a s) :
    Kept l a (State.waitSatisfied s u) := by
  unfold State.waitSatisfied
  with_reducible repeat' first
    | exact h
    | refine Kept.ite ?_ ?_
    | refine kept_modSeq (sub hl (by decide)) ?_
    | refine kept_fetchIssue (sub hl (by decide)) ?_
    | refine kept_waitTake (sub hl (by decide)) ?_
    | refine Kept.foldl ?_ ?_
    | split
    | intro _ _ _ _
    | intro _ _ _
    | intro _ _
    | intro _
    | dsimp only

theorem runs_execWaitSatisfied {t : Nat} {u : Nat} {s0 : State} (hl : [.free, .mem, .errs, .regs, .stitch, .hsync, .bays, .cus, .mus, .evt, .rel] ⊆ l) :
    Runs l s0 (execWaitSatisfied t u s0) := by
  unfold execWaitSatisfied
  refine Runs.next ?_
  have h := Kept.refl l s0
  with_reducible repeat' first
    | exact h
    | refine Kept.ite ?_ ?_
    | refine kept_waitSatisfied (sub hl (by decide)) ?_
    | refine kept_bayTime (sub hl (by decide)) ?_
    | dsimp only

theorem runs_execRoute {t : Nat} {u : Nat} {e : Nat} {s0 : State} (hl : [.regs, .bays, .cus] ⊆ l) :
    Runs l s0 (execRoute t u e s0) := by
  unfold execRoute
  refine Runs.next ?_
  have h := Kept.refl l s0
  with_reducible repeat' first
    | exact h
    | assumption
    | refine Kept.ite ?_ ?_
    | refine kept_onLane (sub hl (by decide)) ?_ ?_
    | refine kept_issueRoute (sub hl (by decide)) ?_
    | refine Kept.foldl ?_ ?_
    | (split; rename_i e; have e0 := congrArg (fun p => p.1) e; have e1 := congrArg (fun p => p.2) e; dsimp only at e0 e1; subst e0; subst e1)
    | (split; rename_i e; have e0 := congrArg (fun p => p.2) e; dsimp only at e0; subst e0)
    | split
    | (refine Kept.of_snd (by assumption) ?_)
    | intro _ _ _ _
    | intro _ _ _
    | intro _ _
    | intro _
    | dsimp only

theorem runs_execSpin {t : Nat} {u : Nat} {link : Nat} {d : Nat} {r : Nat} {s0 : State} (hl : [.regs, .bays, .cus, .mus] ⊆ l) :
    Runs l s0 (execSpin t u link d r s0) := by
  unfold execSpin
  refine Runs.next ?_
  have h := Kept.refl l s0
  with_reducible repeat' first
    | exact h
    | assumption
    | refine Kept.ite ?_ ?_
    | refine kept_onLane (sub hl (by decide)) ?_ ?_
    | refine kept_slotAct (sub hl (by decide)) ?_
    | refine Kept.foldl ?_ ?_
    | (split; rename_i e; have e0 := congrArg (fun p => p.1) e; have e1 := congrArg (fun p => p.2) e; dsimp only at e0 e1; subst e0; subst e1)
    | (split; rename_i e; have e0 := congrArg (fun p => p.2) e; dsimp only at e0; subst e0)
    | split
    | (refine Kept.of_snd (by assumption) ?_)
    | intro _ _ _ _
    | intro _ _ _
    | intro _ _
    | intro _
    | dsimp only

theorem runs_execAgstart {t : Nat} {u : Nat} {g : Nat} {d : Nat} {r : Nat} {s0 : State} (hl : [.regs, .bays, .cus, .mus] ⊆ l) :
    Runs l s0 (execAgstart t u g d r s0) := by
  unfold execAgstart
  refine Runs.next ?_
  have h := Kept.refl l s0
  with_reducible repeat' first
    | exact h
    | assumption
    | refine Kept.ite ?_ ?_
    | refine kept_onLane (sub hl (by decide)) ?_ ?_
    | refine kept_slotAct (sub hl (by decide)) ?_
    | refine Kept.foldl ?_ ?_
    | (split; rename_i e; have e0 := congrArg (fun p => p.1) e; have e1 := congrArg (fun p => p.2) e; dsimp only at e0 e1; subst e0; subst e1)
    | (split; rename_i e; have e0 := congrArg (fun p => p.2) e; dsimp only at e0; subst e0)
    | split
    | (refine Kept.of_snd (by assumption) ?_)
    | intro _ _ _ _
    | intro _ _ _
    | intro _ _
    | intro _
    | dsimp only

theorem runs_execTag {t : Nat} {u : Nat} {target : Nat} {r : Nat} {s0 : State} (hl : [.regs, .bays, .cus, .mus] ⊆ l) :
    Runs l s0 (execTag t u target r s0) := by
  unfold execTag
  refine Runs.next ?_
  have h := Kept.refl l s0
  with_reducible repeat' first
    | exact h
    | assumption
    | refine Kept.ite ?_ ?_
    | refine kept_onLane (sub hl (by decide)) ?_ ?_
    | refine kept_issueTag (sub hl (by decide)) ?_
    | refine Kept.foldl ?_ ?_
    | (split; rename_i e; have e0 := congrArg (fun p => p.1) e; have e1 := congrArg (fun p => p.2) e; dsimp only at e0 e1; subst e0; subst e1)
    | (split; rename_i e; have e0 := congrArg (fun p => p.2) e; dsimp only at e0; subst e0)
    | split
    | (refine Kept.of_snd (by assumption) ?_)
    | intro _ _ _ _
    | intro _ _ _
    | intro _ _
    | intro _
    | dsimp only

end Sys2Proof.Machine
end

