-- ==== Sys2Proof/Laws/KeptTensor.lean ====
section
/-! SUPPORT. What each operation of Machine/Tensor.lean may touch, and that it keeps the queue and the invariant. -/

namespace Sys2Proof.Machine

variable {l : List Comp} {a s : State}

theorem kept_modSte {u : Nat} {f : Ste → Ste} (hl : [.cus] ⊆ l) (h : Kept l a s) :
    Kept l a (State.modSte s u f) := by
  unfold State.modSte
  with_reducible repeat' first
    | exact h
    | refine Kept.ite ?_ ?_
    | refine kept_modCu (sub hl (by decide)) ?_
    | dsimp only

theorem kept_loadWords {u : Nat} {d : Desc} {x0 : Nat} {x1 : Assoc Nat Word} (hl : [.free, .mem, .errs, .regs, .bays, .evt, .rel] ⊆ l) (h : Kept l a s) :
    Kept l a (State.loadWords s u d x0 x1).2.2 := by
  induction x0 generalizing s u d x1 with
  | zero =>
    unfold State.loadWords
    with_reducible repeat' first
      | exact h
      | refine Kept.ite ?_ ?_
      | refine kept_readOperandWord (sub hl (by decide)) ?_
      | refine Kept.foldl ?_ ?_
      | split
      | intro _ _ _ _
      | intro _ _ _
      | intro _ _
      | intro _
      | dsimp only
  | succ n ih =>
    unfold State.loadWords
    with_reducible repeat' first
      | exact h
      | refine ih ?_
      | refine Kept.ite ?_ ?_
      | refine kept_readOperandWord (sub hl (by decide)) ?_
      | refine Kept.foldl ?_ ?_
      | split
      | intro _ _ _ _
      | intro _ _ _
      | intro _ _
      | intro _
      | dsimp only

theorem kept_loadFlit {u : Nat} {side : Side} {i : Nat} {j : SteJob} (hl : [.regs, .bays, .cus, .evt] ⊆ l) (h : Kept l a s) :
    Kept l a (State.loadFlit s u side i j) := by
  unfold State.loadFlit
  with_reducible repeat' first
    | exact h
    | assumption
    | refine Kept.ite ?_ ?_
    | refine kept_takeLocal (sub hl (by decide)) ?_
    | refine kept_linkStall (sub hl (by decide)) ?_
    | refine kept_malformed (sub hl (by decide)) ?_
    | refine kept_modSte (sub hl (by decide)) ?_
    | exact KeptO.none
    | refine KeptO.some ?_
    | refine KeptO.ite ?_ ?_
    | exact KeptS.none
    | refine KeptS.some ?_
    | refine KeptS.getD ?_ ?_
    | refine Kept.foldl ?_ ?_
    | (split; rename_i e; have e0 := congrArg (fun p => p.1) e; have e1 := congrArg (fun p => p.2) e; dsimp only at e0 e1; subst e0; subst e1)
    | (split; rename_i e; have e0 := congrArg (fun p => p.2) e; dsimp only at e0; subst e0)
    | split
    | (refine Kept.of_snd (by assumption) ?_)
    | (refine KeptO.of (by assumption) ?_)
    | (refine KeptS.of (by assumption) ?_)
    | intro _ _ _ _
    | intro _ _ _
    | intro _ _
    | intro _
    | dsimp only

theorem kept_loadTransfer {u : Nat} {side : Side} {i : Nat} {j : SteJob} (hl : [.free, .mem, .errs, .regs, .bays, .cus, .evt, .rel] ⊆ l) (h : Kept l a s) :
    Kept l a (State.loadTransfer s u side i j) := by
  unfold State.loadTransfer
  with_reducible repeat' first
    | exact h
    | refine Kept.ite ?_ ?_
    | refine kept_loadWords (sub hl (by decide)) ?_
    | refine kept_operandFault (sub hl (by decide)) ?_
    | refine kept_modSte (sub hl (by decide)) ?_
    | refine kept_malformedAll (sub hl (by decide)) ?_
    | dsimp only

theorem kept_stageLoad {u : Nat} {side : Side} (hl : [.free, .mem, .errs, .regs, .bays, .cus, .evt, .rel] ⊆ l) (h : Kept l a s) :
    Kept l a (State.stageLoad s u side) := by
  unfold State.stageLoad
  with_reducible repeat' first
    | exact h
    | assumption
    | refine Kept.ite ?_ ?_
    | refine kept_loadFlit (sub hl (by decide)) ?_
    | refine kept_loadTransfer (sub hl (by decide)) ?_
    | refine Kept.foldl ?_ ?_
    | (split; rename_i e; have e0 := congrArg (fun p => p.1) e; have e1 := congrArg (fun p => p.2) e; dsimp only at e0 e1; subst e0; subst e1)
    | (split; rename_i e; have e0 := congrArg (fun p => p.2) e; dsimp only at e0; subst e0)
    | split
    | (refine Kept.of_snd (by assumption) ?_)
    | intro _ _ _ _
    | intro _ _ _
    | intro _ _
    | intro _
    | dsimp only

theorem runs_execStageLoad {t : Nat} {u : Nat} {side : Side} {s0 : State} (hl : [.free, .mem, .errs, .regs, .bays, .cus, .evt, .rel] ⊆ l) :
    Runs l s0 (execStageLoad t u side s0) := by
  unfold execStageLoad
  refine Runs.next ?_
  have h := Kept.refl l s0
  with_reducible repeat' first
    | exact h
    | refine Kept.ite ?_ ?_
    | refine kept_bayTime (sub hl (by decide)) ?_
    | refine kept_stageLoad (sub hl (by decide)) ?_
    | dsimp only

theorem kept_govRefuse {u : Nat} (hl : [.regs, .bays] ⊆ l) (h : Kept l a s) :
    Kept l a (State.govRefuse s u) := by
  unfold State.govRefuse
  with_reducible repeat' first
    | exact h
    | refine Kept.ite ?_ ?_
    | refine kept_count (sub hl (by decide)) ?_
    | refine kept_modBay (sub hl (by decide)) ?_
    | dsimp only

theorem kept_govIssue {u : Nat} (hl : [.bays] ⊆ l) (h : Kept l a s) :
    Kept l a (State.govIssue s u) := by
  unfold State.govIssue
  with_reducible repeat' first
    | exact h
    | refine Kept.ite ?_ ?_
    | refine kept_modBay (sub hl (by decide)) ?_
    | dsimp only

theorem kept_steIssue {u : Nat} (hl : [.regs, .bays, .cus] ⊆ l) (h : Kept l a s) :
    Kept l a (State.steIssue s u) := by
  unfold State.steIssue
  with_reducible repeat' first
    | exact h
    | refine Kept.ite ?_ ?_
    | refine kept_govRefuse (sub hl (by decide)) ?_
    | refine kept_govIssue (sub hl (by decide)) ?_
    | refine kept_count (sub hl (by decide)) ?_
    | refine kept_modSte (sub hl (by decide)) ?_
    | refine Kept.foldl ?_ ?_
    | split
    | intro _ _ _ _
    | intro _ _ _
    | intro _ _
    | intro _
    | dsimp only

theorem kept_steOutputIssue {u : Nat} (hl : [.regs, .bays, .cus] ⊆ l) (h : Kept l a s) :
    Kept l a (State.steOutputIssue s u) := by
  unfold State.steOutputIssue
  with_reducible repeat' first
    | exact h
    | refine Kept.ite ?_ ?_
    | refine kept_steIssue (sub hl (by decide)) ?_
    | refine kept_setCu (sub hl (by decide)) ?_
    | refine kept_count (sub hl (by decide)) ?_
    | refine Kept.foldl ?_ ?_
    | split
    | intro _ _ _ _
    | intro _ _ _
    | intro _ _
    | intro _
    | dsimp only

theorem runs_execSteOutputIssue {t : Nat} {u : Nat} {s0 : State} (hl : [.regs, .bays, .cus] ⊆ l) :
    Runs l s0 (execSteOutputIssue t u s0) := by
  unfold execSteOutputIssue
  refine Runs.next ?_
  have h := Kept.refl l s0
  with_reducible repeat' first
    | exact h
    | refine Kept.ite ?_ ?_
    | refine kept_bayTime (sub hl (by decide)) ?_
    | refine kept_steOutputIssue (sub hl (by decide)) ?_
    | dsimp only

theorem kept_land {u : Nat} {r : SteResult} (hl : [.regs, .cus] ⊆ l) (h : Kept l a s) :
    Kept l a (State.land s u r) := by
  unfold State.land
  with_reducible repeat' first
    | exact h
    | refine Kept.ite ?_ ?_
    | refine kept_stick (sub hl (by decide)) ?_
    | refine kept_modSte (sub hl (by decide)) ?_
    | dsimp only

theorem kept_accumulate {u : Nat} (hl : [.regs, .cus] ⊆ l) (h : Kept l a s) :
    Kept l a (State.accumulate s u) := by
  unfold State.accumulate
  with_reducible repeat' first
    | exact h
    | refine Kept.ite ?_ ?_
    | refine kept_land (sub hl (by decide)) ?_
    | refine kept_modSte (sub hl (by decide)) ?_
    | refine Kept.foldl ?_ ?_
    | split
    | intro _ _ _ _
    | intro _ _ _
    | intro _ _
    | intro _
    | dsimp only

theorem kept_drainWrite {u : Nat} {d : Desc} {c : PackCfg} {x0 : List (List Num × FlagSet)} {x1 : Nat} {x2 : Nat} (hl : [.free, .mem, .errs, .regs, .bays, .cus, .mus, .evt, .twin, .rel] ⊆ l) (h : Kept l a s) :
    Kept l a (State.drainWrite s u d c x0 x1 x2) := by
  induction x0 generalizing s u d c x1 x2 with
  | nil =>
    unfold State.drainWrite
    with_reducible repeat' first
      | exact h
      | dsimp only
  | cons y ys ih =>
    unfold State.drainWrite
    with_reducible repeat' first
      | exact h
      | refine ih ?_
      | refine Kept.ite ?_ ?_
      | refine kept_stick (sub hl (by decide)) ?_
      | refine kept_modSte (sub hl (by decide)) ?_
      | refine kept_writeLine (sub hl (by decide)) ?_
      | dsimp only

theorem kept_steAdvance {u : Nat} (hl : [.free, .mem, .errs, .regs, .bays, .cus, .mus, .evt, .twin, .rel] ⊆ l) (h : Kept l a s) :
    Kept l a (State.steAdvance s u) := by
  unfold State.steAdvance
  with_reducible repeat' first
    | exact h
    | refine Kept.ite ?_ ?_
    | refine kept_modSte (sub hl (by decide)) ?_
    | refine kept_drainWrite (sub hl (by decide)) ?_
    | refine Kept.foldl ?_ ?_
    | split
    | intro _ _ _ _
    | intro _ _ _
    | intro _ _
    | intro _
    | dsimp only

theorem kept_drainAdvance {u : Nat} (hl : [.free, .mem, .errs, .regs, .bays, .cus, .mus, .evt, .twin, .rel] ⊆ l) (h : Kept l a s) :
    Kept l a (State.drainAdvance s u) := by
  unfold State.drainAdvance
  with_reducible repeat' first
    | exact h
    | refine Kept.ite ?_ ?_
    | refine kept_muHold (sub hl (by decide)) ?_ ?_
    | refine kept_steAdvance (sub hl (by decide)) ?_
    | dsimp only

theorem runs_execAccumulate {t : Nat} {u : Nat} {s0 : State} (hl : [.free, .mem, .errs, .regs, .bays, .cus, .mus, .evt, .twin, .rel] ⊆ l) :
    Runs l s0 (execAccumulate t u s0) := by
  unfold execAccumulate
  refine Runs.next ?_
  have h := Kept.refl l s0
  with_reducible repeat' first
    | exact h
    | refine Kept.ite ?_ ?_
    | refine kept_bayTime (sub hl (by decide)) ?_
    | refine kept_drainAdvance (sub hl (by decide)) ?_
    | refine kept_accumulate (sub hl (by decide)) ?_
    | dsimp only

theorem runs_execDrain {t : Nat} {u : Nat} {op : TensorOp} {s0 : State} (hl : [.free, .mem, .errs, .regs, .bays, .cus, .mus, .evt, .twin, .rel] ⊆ l) :
    Runs l s0 (execDrain t u op s0) := by
  unfold execDrain
  refine Runs.next ?_
  have h := Kept.refl l s0
  with_reducible repeat' first
    | exact h
    | assumption
    | refine Kept.ite ?_ ?_
    | refine kept_onLane (sub hl (by decide)) ?_ ?_
    | refine kept_slotAct (sub hl (by decide)) ?_
    | refine kept_drainAdvance (sub hl (by decide)) ?_
    | refine Kept.foldl ?_ ?_
    | (split; rename_i e; have e0 := congrArg (fun p => p.1) e; have e1 := congrArg (fun p => p.2) e; dsimp only at e0 e1; subst e0; subst e1)
    | (split; rename_i e; have e0 := congrArg (fun p => p.2) e; dsimp only at e0; subst e0)
    | split
    | (refine Kept.of_snd (by assumption) ?_)
    | intro _ _ _ _
    | intro _ _ _
    | intro _ _
    | intro _
    | dsimp only

theorem kept_chkMismatch {u : Nat} {tile : Nat} {index : Nat} {row : Bool} {hem : Bool} (hl : [.regs, .bays, .evt, .rel] ⊆ l) (h : Kept l a s) :
    Kept l a (State.chkMismatch s u tile index row hem) := by
  unfold State.chkMismatch
  with_reducible repeat' first
    | exact h
    | refine Kept.ite ?_ ?_
    | refine kept_hwSet (sub hl (by decide)) ?_
    | refine kept_raiseBay (sub hl (by decide)) ?_
    | refine kept_count (sub hl (by decide)) ?_
    | refine kept_detect (sub hl (by decide)) ?_
    | refine kept_voteVoid (sub hl (by decide)) ?_
    | dsimp only

theorem kept_chkVerdicts {u : Nat} {tile : Nat} {row : Bool} {x0 : List Nat} {x1 : Nat} (hl : [.regs, .bays, .evt, .rel] ⊆ l) (h : Kept l a s) :
    Kept l a (State.chkVerdicts s u tile row x0 x1) := by
  induction x0 generalizing s u tile row x1 with
  | nil =>
    unfold State.chkVerdicts
    with_reducible repeat' first
      | exact h
      | dsimp only
  | cons y ys ih =>
    unfold State.chkVerdicts
    with_reducible repeat' first
      | exact h
      | refine ih ?_
      | refine Kept.ite ?_ ?_
      | refine kept_hwSet (sub hl (by decide)) ?_
      | refine kept_chkMismatch (sub hl (by decide)) ?_
      | dsimp only

theorem kept_compareTile {u : Nat} {k : Nat} {c : Closing} (hl : [.regs, .bays, .cus, .evt, .rel] ⊆ l) (h : Kept l a s) :
    Kept l a (State.compareTile s u k c) := by
  unfold State.compareTile
  with_reducible repeat' first
    | exact h
    | refine Kept.ite ?_ ?_
    | refine kept_chkVerdicts (sub hl (by decide)) ?_
    | refine kept_modSte (sub hl (by decide)) ?_
    | dsimp only

theorem kept_checksumCompare {u : Nat} (hl : [.free, .mem, .errs, .regs, .bays, .cus, .mus, .evt, .twin, .rel] ⊆ l) (h : Kept l a s) :
    Kept l a (State.checksumCompare s u) := by
  unfold State.checksumCompare
  with_reducible repeat' first
    | exact h
    | refine Kept.ite ?_ ?_
    | refine kept_compareTile (sub hl (by decide)) ?_
    | refine kept_drainAdvance (sub hl (by decide)) ?_
    | refine Kept.foldl ?_ ?_
    | split
    | intro _ _ _ _
    | intro _ _ _
    | intro _ _
    | intro _
    | dsimp only

theorem runs_execChecksumCompare {t : Nat} {u : Nat} {s0 : State} (hl : [.free, .mem, .errs, .regs, .bays, .cus, .mus, .evt, .twin, .rel] ⊆ l) :
    Runs l s0 (execChecksumCompare t u s0) := by
  unfold execChecksumCompare
  refine Runs.next ?_
  have h := Kept.refl l s0
  with_reducible repeat' first
    | exact h
    | refine Kept.ite ?_ ?_
    | refine kept_bayTime (sub hl (by decide)) ?_
    | refine kept_checksumCompare (sub hl (by decide)) ?_
    | dsimp only

end Sys2Proof.Machine
end

