-- ==== Sys2Proof/Laws/KeptPorts.lean ====
section
/-! SUPPORT. What each operation of Machine/Ports.lean may touch, and that it keeps the queue and the invariant. -/

namespace Sys2Proof.Machine

variable {l : List Comp} {a s : State}

theorem kept_modSp {u : Nat} {f : SpArb → SpArb} (hl : [.cus] ⊆ l) (h : Kept l a s) :
    Kept l a (State.modSp s u f) := by
  unfold State.modSp
  with_reducible repeat' first
    | exact h
    | refine Kept.ite ?_ ?_
    | refine kept_modCu (sub hl (by decide)) ?_
    | dsimp only

theorem kept_spGrant {u : Nat} {r : SpReq} (hl : [.free, .mem, .errs, .regs, .bays, .cus, .evt, .rel] ⊆ l) (h : Kept l a s) :
    Kept l a (State.spGrant s u r) := by
  unfold State.spGrant
  with_reducible repeat' first
    | exact h
    | refine Kept.ite ?_ ?_
    | refine kept_addrFault (sub hl (by decide)) ?_
    | refine kept_modSp (sub hl (by decide)) ?_
    | refine kept_writeSp (sub hl (by decide)) ?_
    | refine kept_readSp (sub hl (by decide)) ?_
    | dsimp only

theorem kept_spUnscheduled {u : Nat} {bank : Nat} {i : Nat} {r : SpReq} (hl : [.free, .mem, .errs, .regs, .bays, .cus, .evt, .rel] ⊆ l) (h : Kept l a s) :
    Kept l a (State.spUnscheduled s u bank i r) := by
  unfold State.spUnscheduled
  with_reducible repeat' first
    | exact h
    | refine Kept.ite ?_ ?_
    | refine kept_spGrant (sub hl (by decide)) ?_
    | refine kept_modSp (sub hl (by decide)) ?_
    | dsimp only

theorem kept_spPromoted {u : Nat} (hl : [.regs] ⊆ l) (h : Kept l a s) :
    Kept l a (State.spPromoted s u) := by
  unfold State.spPromoted
  with_reducible repeat' first
    | exact h
    | refine Kept.ite ?_ ?_
    | refine kept_hwSet (sub hl (by decide)) ?_
    | dsimp only

theorem kept_spConflict {u : Nat} {n : Nat} (hl : [.regs, .evt] ⊆ l) (h : Kept l a s) :
    Kept l a (State.spConflict s u n) := by
  unfold State.spConflict
  with_reducible repeat' first
    | exact h
    | refine Kept.ite ?_ ?_
    | refine kept_hwSet (sub hl (by decide)) ?_
    | refine kept_raiseBay (sub hl (by decide)) ?_
    | dsimp only

theorem kept_spBank {u : Nat} {bank : Nat} {reqs : List SpReq} (hl : [.free, .mem, .errs, .regs, .bays, .cus, .evt, .rel] ⊆ l) (h : Kept l a s) :
    Kept l a (State.spBank s u bank reqs) := by
  unfold State.spBank
  with_reducible repeat' first
    | exact h
    | refine Kept.ite ?_ ?_
    | refine kept_modSp (sub hl (by decide)) ?_
    | refine kept_spGrant (sub hl (by decide)) ?_
    | refine kept_spUnscheduled (sub hl (by decide)) ?_
    | refine kept_spPromoted (sub hl (by decide)) ?_
    | refine kept_spConflict (sub hl (by decide)) ?_
    | refine Kept.foldl ?_ ?_
    | split
    | intro _ _ _ _
    | intro _ _ _
    | intro _ _
    | intro _
    | dsimp only

theorem runs_execScratchpadArbitration {t : Nat} {u : Nat} {reqs : List SpReq} {s0 : State} (hl : [.free, .mem, .errs, .regs, .bays, .cus, .evt, .rel] ⊆ l) :
    Runs l s0 (execScratchpadArbitration t u reqs s0) := by
  unfold execScratchpadArbitration
  refine Runs.next ?_
  have h := Kept.refl l s0
  with_reducible repeat' first
    | exact h
    | assumption
    | refine Kept.ite ?_ ?_
    | refine kept_bayTime (sub hl (by decide)) ?_
    | refine kept_spBank (sub hl (by decide)) ?_
    | refine Kept.foldl ?_ ?_
    | (split; rename_i e; have e0 := congrArg (fun p => p.1) e; have e1 := congrArg (fun p => p.2) e; dsimp only at e0 e1; subst e0; subst e1)
    | (split; rename_i e; have e0 := congrArg (fun p => p.2) e; dsimp only at e0; subst e0)
    | split
    | (refine Kept.of_snd (by assumption) ?_)
    | intro _ _ _ _
    | intro _ _ _
    | intro _ _
    | intro _
    | dsimp only

theorem kept_spPromote {u : Nat} {bank : Nat} (hl : [.free, .mem, .errs, .regs, .bays, .cus, .evt, .rel] ⊆ l) (h : Kept l a s) :
    Kept l a (State.spPromote s u bank) := by
  unfold State.spPromote
  with_reducible repeat' first
    | exact h
    | refine Kept.ite ?_ ?_
    | refine kept_spPromoted (sub hl (by decide)) ?_
    | refine kept_spUnscheduled (sub hl (by decide)) ?_
    | refine Kept.foldl ?_ ?_
    | split
    | intro _ _ _ _
    | intro _ _ _
    | intro _ _
    | intro _
    | dsimp only

theorem runs_execScratchpadPromotion {t : Nat} {u : Nat} {bank : Nat} {s0 : State} (hl : [.free, .mem, .errs, .regs, .bays, .cus, .evt, .rel] ⊆ l) :
    Runs l s0 (execScratchpadPromotion t u bank s0) := by
  unfold execScratchpadPromotion
  refine Runs.next ?_
  have h := Kept.refl l s0
  with_reducible repeat' first
    | exact h
    | refine Kept.ite ?_ ?_
    | refine kept_bayTime (sub hl (by decide)) ?_
    | refine kept_spPromote (sub hl (by decide)) ?_
    | dsimp only

theorem kept_modArb {c : Nat} {f : MuArb → MuArb} (hl : [.mus] ⊆ l) (h : Kept l a s) :
    Kept l a (State.modArb s c f) := by
  unfold State.modArb
  with_reducible repeat' first
    | exact h
    | refine Kept.ite ?_ ?_
    | refine kept_modMu (sub hl (by decide)) ?_
    | dsimp only

theorem kept_muGrant {c : Nat} {slice : Nat} {r : MuReq} (hl : [.free, .mem, .errs, .regs, .bays, .mus, .evt, .twin, .rel] ⊆ l) (h : Kept l a s) :
    Kept l a (State.muGrant s c slice r) := by
  unfold State.muGrant
  with_reducible repeat' first
    | exact h
    | assumption
    | refine Kept.ite ?_ ?_
    | refine kept_addrFault (sub hl (by decide)) ?_
    | refine kept_modArb (sub hl (by decide)) ?_
    | refine kept_writeMany (sub hl (by decide)) ?_ ?_
    | refine kept_writeMu (sub hl (by decide)) ?_
    | refine kept_readMany (sub hl (by decide)) ?_ ?_
    | refine kept_readMu (sub hl (by decide)) ?_
    | refine Kept.foldl ?_ ?_
    | (split; rename_i e; have e0 := congrArg (fun p => p.1) e; have e1 := congrArg (fun p => p.2) e; dsimp only at e0 e1; subst e0; subst e1)
    | (split; rename_i e; have e0 := congrArg (fun p => p.2) e; dsimp only at e0; subst e0)
    | split
    | (refine Kept.of_snd (by assumption) ?_)
    | intro _ _ _ _
    | intro _ _ _
    | intro _ _
    | intro _
    | dsimp only

theorem kept_muConflict {c : Nat} {slice : Nat} {g : Nat} {n : Nat} {lowest : Nat} {wide : Bool} {bank : Nat} (hl : [.regs, .evt] ⊆ l) (h : Kept l a s) :
    Kept l a (State.muConflict s c slice g n lowest wide bank) := by
  unfold State.muConflict
  with_reducible repeat' first
    | exact h
    | refine Kept.ite ?_ ?_
    | refine kept_record (sub hl (by decide)) ?_
    | refine kept_count (sub hl (by decide)) ?_
    | refine kept_raiseBay (sub hl (by decide)) ?_
    | dsimp only

theorem kept_muRefuse {c : Nat} {slice : Nat} {port : Nat} {bank : Nat} (hl : [.regs, .mus, .evt] ⊆ l) (h : Kept l a s) :
    Kept l a (State.muRefuse s c slice port bank) := by
  unfold State.muRefuse
  with_reducible repeat' first
    | exact h
    | refine Kept.ite ?_ ?_
    | refine kept_modArb (sub hl (by decide)) ?_
    | refine kept_count (sub hl (by decide)) ?_
    | refine kept_raiseBay (sub hl (by decide)) ?_
    | dsimp only

theorem kept_muHazard {c : Nat} {slice : Nat} {w : MuReq} {n : MuReq} (hl : [.regs, .evt] ⊆ l) (h : Kept l a s) :
    Kept l a (State.muHazard s c slice w n) := by
  unfold State.muHazard
  with_reducible repeat' first
    | exact h
    | refine Kept.ite ?_ ?_
    | refine kept_record (sub hl (by decide)) ?_
    | refine kept_count (sub hl (by decide)) ?_
    | refine kept_raiseBay (sub hl (by decide)) ?_
    | dsimp only

theorem kept_muDisplace {c : Nat} {slice : Nat} {w : MuReq} {x0 : List MuReq} (hl : [.regs, .mus, .evt] ⊆ l) (h : Kept l a s) :
    Kept l a (State.muDisplace s c slice w x0) := by
  induction x0 generalizing s c slice w with
  | nil =>
    unfold State.muDisplace
    with_reducible repeat' first
      | exact h
      | dsimp only
  | cons y ys ih =>
    unfold State.muDisplace
    with_reducible repeat' first
      | exact h
      | refine ih ?_
      | refine Kept.ite ?_ ?_
      | refine kept_muRefuse (sub hl (by decide)) ?_
      | refine kept_muHazard (sub hl (by decide)) ?_
      | dsimp only

theorem kept_muArbitrate {c : Nat} {slice : Nat} {key : Nat} {keyU : Nat} {wide : Bool} {bank : Nat} {rs : List MuReq} (hl : [.regs, .mus, .evt] ⊆ l) (h : Kept l a s) :
    Kept l a (State.muArbitrate s c slice key keyU wide bank rs).2 := by
  unfold State.muArbitrate
  with_reducible repeat' first
    | exact h
    | refine Kept.ite ?_ ?_
    | refine kept_modArb (sub hl (by decide)) ?_
    | refine kept_muConflict (sub hl (by decide)) ?_
    | refine Kept.foldl ?_ ?_
    | split
    | intro _ _ _ _
    | intro _ _ _
    | intro _ _
    | intro _
    | dsimp only

theorem kept_muBank {c : Nat} {slice : Nat} {bank : Nat} {narrow : List MuReq} (hl : [.free, .mem, .errs, .regs, .bays, .mus, .evt, .twin, .rel] ⊆ l) (h : Kept l a s) :
    Kept l a (State.muBank s c slice bank narrow) := by
  unfold State.muBank
  with_reducible repeat' first
    | exact h
    | assumption
    | refine Kept.ite ?_ ?_
    | refine kept_muArbitrate (sub hl (by decide)) ?_
    | refine kept_muRefuse (sub hl (by decide)) ?_
    | refine kept_muGrant (sub hl (by decide)) ?_
    | refine Kept.foldl ?_ ?_
    | (split; rename_i e; have e0 := congrArg (fun p => p.1) e; have e1 := congrArg (fun p => p.2) e; dsimp only at e0 e1; subst e0; subst e1)
    | (split; rename_i e; have e0 := congrArg (fun p => p.2) e; dsimp only at e0; subst e0)
    | split
    | (refine Kept.of_snd (by assumption) ?_)
    | intro _ _ _ _
    | intro _ _ _
    | intro _ _
    | intro _
    | dsimp only

theorem kept_muSlice {c : Nat} {slice : Nat} {reqs : List MuReq} (hl : [.free, .mem, .errs, .regs, .bays, .mus, .evt, .twin, .rel] ⊆ l) (h : Kept l a s) :
    Kept l a (State.muSlice s c slice reqs) := by
  unfold State.muSlice
  with_reducible repeat' first
    | exact h
    | assumption
    | refine Kept.ite ?_ ?_
    | refine kept_modArb (sub hl (by decide)) ?_
    | refine kept_muArbitrate (sub hl (by decide)) ?_
    | refine kept_muGrant (sub hl (by decide)) ?_
    | refine kept_muDisplace (sub hl (by decide)) ?_
    | refine kept_muBank (sub hl (by decide)) ?_
    | refine Kept.foldl ?_ ?_
    | (split; rename_i e; have e0 := congrArg (fun p => p.1) e; have e1 := congrArg (fun p => p.2) e; dsimp only at e0 e1; subst e0; subst e1)
    | (split; rename_i e; have e0 := congrArg (fun p => p.2) e; dsimp only at e0; subst e0)
    | split
    | (refine Kept.of_snd (by assumption) ?_)
    | intro _ _ _ _
    | intro _ _ _
    | intro _ _
    | intro _
    | dsimp only

theorem runs_execSliceArbitration {t : Nat} {c : Nat} {slice : Nat} {reqs : List MuReq} {s0 : State} (hl : [.free, .mem, .errs, .regs, .bays, .mus, .evt, .twin, .rel] ⊆ l) :
    Runs l s0 (execSliceArbitration t c slice reqs s0) := by
  unfold execSliceArbitration
  refine Runs.next ?_
  have h := Kept.refl l s0
  with_reducible repeat' first
    | exact h
    | refine Kept.ite ?_ ?_
    | refine kept_bayTime (sub hl (by decide)) ?_
    | refine kept_muHold (sub hl (by decide)) ?_ ?_
    | refine kept_muSlice (sub hl (by decide)) ?_
    | dsimp only

theorem runs_execNarrowStarvation {t : Nat} {c : Nat} {port : Nat} {slice : Nat} {bank : Nat} {s0 : State} (hl : [.regs, .bays, .mus, .evt] ⊆ l) :
    Runs l s0 (execNarrowStarvation t c port slice bank s0) := by
  unfold execNarrowStarvation
  refine Runs.next ?_
  have h := Kept.refl l s0
  with_reducible repeat' first
    | exact h
    | refine Kept.ite ?_ ?_
    | refine kept_bayTime (sub hl (by decide)) ?_
    | refine kept_muRefuse (sub hl (by decide)) ?_
    | dsimp only

theorem kept_promoteDma {c : Nat} {port : Nat} (hl : [.free, .mem, .errs, .regs, .bays, .mus, .evt, .twin, .rel] ⊆ l) (h : Kept l a s) :
    Kept l a (State.promoteDma s c port) := by
  unfold State.promoteDma
  with_reducible repeat' first
    | exact h
    | refine Kept.ite ?_ ?_
    | refine kept_muSlice (sub hl (by decide)) ?_
    | refine Kept.foldl ?_ ?_
    | split
    | intro _ _ _ _
    | intro _ _ _
    | intro _ _
    | intro _
    | dsimp only

theorem runs_execCuPortDmaPromotion {t : Nat} {u : Nat} {s0 : State} (hl : [.free, .mem, .errs, .regs, .bays, .mus, .evt, .twin, .rel] ⊆ l) :
    Runs l s0 (execCuPortDmaPromotion t u s0) := by
  unfold execCuPortDmaPromotion
  refine Runs.next ?_
  have h := Kept.refl l s0
  with_reducible repeat' first
    | exact h
    | refine Kept.ite ?_ ?_
    | refine kept_bayTime (sub hl (by decide)) ?_
    | refine kept_muHold (sub hl (by decide)) ?_ ?_
    | refine kept_promoteDma (sub hl (by decide)) ?_
    | refine Kept.foldl ?_ ?_
    | split
    | intro _ _ _ _
    | intro _ _ _
    | intro _ _
    | intro _
    | dsimp only

end Sys2Proof.Machine
end

