-- ==== Sys2Proof/Laws/KeptAddrGen.lean ====
section
/-! SUPPORT. What each operation of Machine/AddrGen.lean may touch, and that it keeps the queue and the invariant. -/

namespace Sys2Proof.Machine

variable {l : List Comp} {a s : State}

theorem kept_modRun {c : Nat} {g : Nat} {f : AgRun → AgRun} (hl : [.mus] ⊆ l) (h : Kept l a s) :
    Kept l a (State.modRun s c g f) := by
  unfold State.modRun
  with_reducible repeat' first
    | exact h
    | refine Kept.ite ?_ ?_
    | refine kept_modMu (sub hl (by decide)) ?_
    | dsimp only

theorem kept_agBegin {c : Nat} {g : Nat} (hl : [.mus] ⊆ l) (h : Kept l a s) :
    Kept l a (State.agBegin s c g) := by
  unfold State.agBegin
  with_reducible repeat' first
    | exact h
    | refine Kept.ite ?_ ?_
    | refine kept_modMu (sub hl (by decide)) ?_
    | refine kept_modRun (sub hl (by decide)) ?_
    | refine Kept.foldl ?_ ?_
    | split
    | intro _ _ _ _
    | intro _ _ _
    | intro _ _
    | intro _
    | dsimp only

theorem kept_agReady {c : Nat} {g : Nat} (hl : [.mus] ⊆ l) (h : Kept l a s) :
    Kept l a (State.agReady s c g) := by
  unfold State.agReady
  with_reducible repeat' first
    | exact h
    | refine Kept.ite ?_ ?_
    | refine kept_modMu (sub hl (by decide)) ?_
    | refine Kept.foldl ?_ ?_
    | split
    | intro _ _ _ _
    | intro _ _ _
    | intro _ _
    | intro _
    | dsimp only

theorem kept_agReadyAll {c : Nat} (hl : [.mus] ⊆ l) (h : Kept l a s) :
    Kept l a (State.agReadyAll s c) := by
  unfold State.agReadyAll
  with_reducible repeat' first
    | exact h
    | assumption
    | refine Kept.ite ?_ ?_
    | refine kept_agReady (sub hl (by decide)) ?_
    | refine Kept.foldl ?_ ?_
    | (split; rename_i e; have e0 := congrArg (fun p => p.1) e; have e1 := congrArg (fun p => p.2) e; dsimp only at e0 e1; subst e0; subst e1)
    | (split; rename_i e; have e0 := congrArg (fun p => p.2) e; dsimp only at e0; subst e0)
    | split
    | (refine Kept.of_snd (by assumption) ?_)
    | intro _ _ _ _
    | intro _ _ _
    | intro _ _
    | intro _
    | dsimp only

theorem runs_execAgStreamStart {t : Nat} {c : Nat} {g : Nat} {s0 : State} (hl : [.regs, .bays, .mus] ⊆ l) :
    Runs l s0 (execAgStreamStart t c g s0) := by
  unfold execAgStreamStart
  refine Runs.next ?_
  have h := Kept.refl l s0
  with_reducible repeat' first
    | exact h
    | refine Kept.ite ?_ ?_
    | refine kept_bayTime (sub hl (by decide)) ?_
    | refine kept_agBegin (sub hl (by decide)) ?_
    | refine kept_agReadyAll (sub hl (by decide)) ?_
    | dsimp only

theorem kept_agFault {c : Nat} {g : Nat} {r : AgRun} {addr : Int} {cause : Nat} (hl : [.bays, .mus, .evt] ⊆ l) (h : Kept l a s) :
    Kept l a (State.agFault s c g r addr cause) := by
  unfold State.agFault
  with_reducible repeat' first
    | exact h
    | refine Kept.ite ?_ ?_
    | refine kept_modRun (sub hl (by decide)) ?_
    | refine kept_addrFault (sub hl (by decide)) ?_
    | dsimp only

theorem kept_portPush {c : Nat} {p : Nat} {from_ : Nat} {xs : List Payload} (hl : [.mus] ⊆ l) (h : Kept l a s) :
    Kept l a (State.portPush s c p from_ xs) := by
  unfold State.portPush
  with_reducible repeat' first
    | exact h
    | refine Kept.ite ?_ ?_
    | refine kept_modMu (sub hl (by decide)) ?_
    | dsimp only

theorem kept_portPop {c : Nat} {p : Nat} {n : Nat} (hl : [.mus] ⊆ l) (h : Kept l a s) :
    Kept l a (State.portPop s c p n) := by
  unfold State.portPop
  with_reducible repeat' first
    | exact h
    | refine Kept.ite ?_ ?_
    | refine kept_modMu (sub hl (by decide)) ?_
    | dsimp only

theorem kept_agRead {c : Nat} {g : Nat} {r : AgRun} {o : Nat} (hl : [.free, .mem, .errs, .regs, .bays, .mus, .evt, .rel] ⊆ l) (h : Kept l a s) :
    Kept l a (State.agRead s c g r o) := by
  unfold State.agRead
  with_reducible repeat' first
    | exact h
    | assumption
    | refine Kept.ite ?_ ?_
    | refine kept_readMany (sub hl (by decide)) ?_ ?_
    | refine kept_readMu (sub hl (by decide)) ?_
    | refine kept_modMu (sub hl (by decide)) ?_
    | refine kept_modRun (sub hl (by decide)) ?_
    | refine kept_portPush (sub hl (by decide)) ?_
    | refine Kept.foldl ?_ ?_
    | (split; rename_i e; have e0 := congrArg (fun p => p.1) e; have e1 := congrArg (fun p => p.2) e; dsimp only at e0 e1; subst e0; subst e1)
    | (split; rename_i e; have e0 := congrArg (fun p => p.2) e; dsimp only at e0; subst e0)
    | split
    | (refine Kept.of_snd (by assumption) ?_)
    | intro _ _ _ _
    | intro _ _ _
    | intro _ _
    | intro _
    | dsimp only

theorem kept_agWrite {c : Nat} {g : Nat} {r : AgRun} {o : Nat} (hl : [.free, .mem, .errs, .regs, .bays, .mus, .evt, .twin, .rel] ⊆ l) (h : Kept l a s) :
    Kept l a (State.agWrite s c g r o) := by
  unfold State.agWrite
  with_reducible repeat' first
    | exact h
    | assumption
    | refine Kept.ite ?_ ?_
    | refine kept_modRun (sub hl (by decide)) ?_
    | refine kept_portPop (sub hl (by decide)) ?_
    | refine kept_writeMany (sub hl (by decide)) ?_ ?_
    | refine kept_writeMu (sub hl (by decide)) ?_
    | refine Kept.foldl ?_ ?_
    | (split; rename_i e; have e0 := congrArg (fun p => p.1) e; have e1 := congrArg (fun p => p.2) e; dsimp only at e0 e1; subst e0; subst e1)
    | (split; rename_i e; have e0 := congrArg (fun p => p.2) e; dsimp only at e0; subst e0)
    | split
    | (refine Kept.of_snd (by assumption) ?_)
    | intro _ _ _ _
    | intro _ _ _
    | intro _ _
    | intro _
    | dsimp only

theorem kept_agIndexPayload {c : Nat} {g : Nat} {r : AgRun} (hl : [.mus] ⊆ l) (h : Kept l a s) :
    Kept l a (State.agIndexPayload s c g r).2 := by
  unfold State.agIndexPayload
  with_reducible repeat' first
    | exact h
    | refine Kept.ite ?_ ?_
    | refine kept_modRun (sub hl (by decide)) ?_
    | refine kept_portPop (sub hl (by decide)) ?_
    | refine Kept.foldl ?_ ?_
    | split
    | intro _ _ _ _
    | intro _ _ _
    | intro _ _
    | intro _
    | dsimp only

theorem kept_agAccess {c : Nat} {g : Nat} (hl : [.free, .mem, .errs, .regs, .bays, .mus, .evt, .twin, .rel] ⊆ l) (h : Kept l a s) :
    Kept l a (State.agAccess s c g) := by
  unfold State.agAccess
  with_reducible repeat' first
    | exact h
    | refine Kept.ite ?_ ?_
    | refine kept_agIndexPayload (sub hl (by decide)) ?_
    | refine kept_modRun (sub hl (by decide)) ?_
    | refine kept_agFault (sub hl (by decide)) ?_
    | refine kept_agRead (sub hl (by decide)) ?_
    | refine kept_agWrite (sub hl (by decide)) ?_
    | refine Kept.foldl ?_ ?_
    | split
    | intro _ _ _ _
    | intro _ _ _
    | intro _ _
    | intro _
    | dsimp only

theorem runs_execAgAccess {t : Nat} {c : Nat} {g : Nat} {s0 : State} (hl : [.free, .mem, .errs, .regs, .bays, .mus, .evt, .twin, .rel] ⊆ l) :
    Runs l s0 (execAgAccess t c g s0) := by
  unfold execAgAccess
  refine Runs.next ?_
  have h := Kept.refl l s0
  with_reducible repeat' first
    | exact h
    | refine Kept.ite ?_ ?_
    | refine kept_bayTime (sub hl (by decide)) ?_
    | refine kept_muHold (sub hl (by decide)) ?_ ?_
    | refine kept_agAccess (sub hl (by decide)) ?_
    | dsimp only

theorem kept_indexFetch {c : Nat} {g : Nat} (hl : [.free, .mem, .errs, .regs, .bays, .mus, .evt, .rel] ⊆ l) (h : Kept l a s) :
    Kept l a (State.indexFetch s c g) := by
  unfold State.indexFetch
  with_reducible repeat' first
    | exact h
    | refine Kept.ite ?_ ?_
    | refine kept_agFault (sub hl (by decide)) ?_
    | refine kept_modRun (sub hl (by decide)) ?_
    | refine kept_readMu (sub hl (by decide)) ?_
    | refine Kept.foldl ?_ ?_
    | split
    | intro _ _ _ _
    | intro _ _ _
    | intro _ _
    | intro _
    | dsimp only

theorem runs_execIndexFetch {t : Nat} {c : Nat} {g : Nat} {s0 : State} (hl : [.free, .mem, .errs, .regs, .bays, .mus, .evt, .rel] ⊆ l) :
    Runs l s0 (execIndexFetch t c g s0) := by
  unfold execIndexFetch
  refine Runs.next ?_
  have h := Kept.refl l s0
  with_reducible repeat' first
    | exact h
    | refine Kept.ite ?_ ?_
    | refine kept_bayTime (sub hl (by decide)) ?_
    | refine kept_indexFetch (sub hl (by decide)) ?_
    | dsimp only

theorem kept_agFinish {c : Nat} {g : Nat} {r : AgRun} (hl : [.hsync, .bays, .cus, .mus, .evt] ⊆ l) (h : Kept l a s) :
    Kept l a (State.agFinish s c g r) := by
  unfold State.agFinish
  with_reducible repeat' first
    | exact h
    | refine Kept.ite ?_ ?_
    | refine kept_modMu (sub hl (by decide)) ?_
    | refine kept_addSync (sub hl (by decide)) ?_
    | dsimp only

theorem kept_agComplete {c : Nat} {g : Nat} (hl : [.hsync, .bays, .cus, .mus, .evt] ⊆ l) (h : Kept l a s) :
    Kept l a (State.agComplete s c g) := by
  unfold State.agComplete
  with_reducible repeat' first
    | exact h
    | refine Kept.ite ?_ ?_
    | refine kept_agFinish (sub hl (by decide)) ?_
    | refine Kept.foldl ?_ ?_
    | split
    | intro _ _ _ _
    | intro _ _ _
    | intro _ _
    | intro _
    | dsimp only

theorem runs_execAgStreamComplete {t : Nat} {c : Nat} {g : Nat} {s0 : State} (hl : [.regs, .hsync, .bays, .cus, .mus, .evt] ⊆ l) :
    Runs l s0 (execAgStreamComplete t c g s0) := by
  unfold execAgStreamComplete
  refine Runs.next ?_
  have h := Kept.refl l s0
  with_reducible repeat' first
    | exact h
    | refine Kept.ite ?_ ?_
    | refine kept_bayTime (sub hl (by decide)) ?_
    | refine kept_agComplete (sub hl (by decide)) ?_
    | dsimp only

end Sys2Proof.Machine
end

