-- ==== Sys2Proof/Laws/KeptRoutes.lean ====
section
/-! SUPPORT. What each operation of Machine/Routes.lean may touch, and that it keeps the queue and the invariant. -/

namespace Sys2Proof.Machine

variable {l : List Comp} {a s : State}

theorem kept_setBuf {r : Nat} {k : Nat} {l' : List Moving} (hl : [.rtrs] ⊆ l) (h : Kept l a s) :
    Kept l a (State.setBuf s r k l') := by
  unfold State.setBuf
  with_reducible repeat' first
    | exact h
    | refine Kept.ite ?_ ?_
    | refine kept_modRtr (sub hl (by decide)) ?_
    | dsimp only

theorem kept_enterBuf {r : Nat} {k : Nat} {m : Moving} (hl : [.rtrs] ⊆ l) (h : Kept l a s) :
    Kept l a (State.enterBuf s r k m) := by
  unfold State.enterBuf
  with_reducible repeat' first
    | exact h
    | refine Kept.ite ?_ ?_
    | refine kept_setBuf (sub hl (by decide)) ?_
    | dsimp only

theorem kept_moreBuf {r : Nat} {k : Nat} {hurt : Bool} (hl : [.rtrs] ⊆ l) (h : Kept l a s) :
    Kept l a (State.moreBuf s r k hurt) := by
  unfold State.moreBuf
  with_reducible repeat' first
    | exact h
    | refine Kept.ite ?_ ?_
    | refine kept_setBuf (sub hl (by decide)) ?_
    | refine Kept.foldl ?_ ?_
    | split
    | intro _ _ _ _
    | intro _ _ _
    | intro _ _
    | intro _
    | dsimp only

theorem kept_reply {c : Nat} {p : Packet} (hl : [.mus] ⊆ l) (h : Kept l a s) :
    Kept l a (State.reply s c p) := by
  unfold State.reply
  with_reducible repeat' first
    | exact h
    | refine Kept.ite ?_ ?_
    | refine kept_modMu (sub hl (by decide)) ?_
    | dsimp only

theorem kept_extFlit {r : Nat} {cls : Nat} (hl : [.rtrs] ⊆ l) (h : Kept l a s) :
    Kept l a (State.extFlit s r cls) := by
  unfold State.extFlit
  with_reducible repeat' first
    | exact h
    | refine Kept.ite ?_ ?_
    | refine kept_moreBuf (sub hl (by decide)) ?_
    | refine kept_modRtr (sub hl (by decide)) ?_
    | refine kept_enterBuf (sub hl (by decide)) ?_
    | refine Kept.foldl ?_ ?_
    | split
    | intro _ _ _ _
    | intro _ _ _
    | intro _ _
    | intro _
    | dsimp only

theorem kept_extFlits {r : Nat} {x0 : Nat} (hl : [.rtrs] ⊆ l) (h : Kept l a s) :
    Kept l a (State.extFlits s r x0) := by
  induction x0 generalizing s r with
  | zero =>
    unfold State.extFlits
    with_reducible repeat' first
      | exact h
      | dsimp only
  | succ n ih =>
    unfold State.extFlits
    with_reducible repeat' first
      | exact h
      | refine ih ?_
      | refine Kept.ite ?_ ?_
      | refine kept_extFlit (sub hl (by decide)) ?_
      | dsimp only

theorem kept_enterExternal {r : Nat} {p : Packet} (hl : [.rtrs] ⊆ l) (h : Kept l a s) :
    Kept l a (State.enterExternal s r p) := by
  unfold State.enterExternal
  with_reducible repeat' first
    | exact h
    | refine Kept.ite ?_ ?_
    | refine kept_extFlits (sub hl (by decide)) ?_
    | refine kept_modRtr (sub hl (by decide)) ?_
    | refine Kept.foldl ?_ ?_
    | split
    | intro _ _ _ _
    | intro _ _ _
    | intro _ _
    | intro _
    | dsimp only

theorem kept_stamp {r : Nat} {k : Nat} (hl : [.rtrs] ⊆ l) (h : Kept l a s) :
    Kept l a (State.stamp s r k) := by
  unfold State.stamp
  with_reducible repeat' first
    | exact h
    | refine Kept.ite ?_ ?_
    | refine kept_modRtr (sub hl (by decide)) ?_
    | dsimp only

theorem kept_takeEjected {r : Nat} {f : Packet → Bool} (hl : [.rtrs] ⊆ l) (h : Kept l a s) :
    Kept l a (State.takeEjected s r f).2 := by
  unfold State.takeEjected
  with_reducible repeat' first
    | exact h
    | refine Kept.ite ?_ ?_
    | refine kept_modRtr (sub hl (by decide)) ?_
    | refine Kept.foldl ?_ ?_
    | split
    | intro _ _ _ _
    | intro _ _ _
    | intro _ _
    | intro _
    | dsimp only

theorem kept_pathWords {c : Nat} {off : Nat} {ws : List Word} (hl : [.free, .mem, .errs, .regs, .bays, .evt, .twin, .rel] ⊆ l) (h : Kept l a s) :
    Kept l a (State.pathWords s c off ws) := by
  unfold State.pathWords
  with_reducible repeat' first
    | exact h
    | assumption
    | refine Kept.ite ?_ ?_
    | refine kept_writeMany (sub hl (by decide)) ?_ ?_
    | refine kept_loadMu (sub hl (by decide)) ?_
    | refine kept_writeSp (sub hl (by decide)) ?_
    | refine kept_putWord (sub hl (by decide)) ?_
    | refine Kept.foldl ?_ ?_
    | (split; rename_i e; have e0 := congrArg (fun p => p.1) e; have e1 := congrArg (fun p => p.2) e; dsimp only at e0 e1; subst e0; subst e1)
    | (split; rename_i e; have e0 := congrArg (fun p => p.2) e; dsimp only at e0; subst e0)
    | split
    | (refine Kept.of_snd (by assumption) ?_)
    | intro _ _ _ _
    | intro _ _ _
    | intro _ _
    | intro _
    | dsimp only

theorem kept_windowMiss {b : Nat} {owner : Nat} {counter : RegId} {off : Nat} {ctx : Nat} {who : Sender} {unit : Nat} (hl : [.regs, .evt] ⊆ l) (h : Kept l a s) :
    Kept l a (State.windowMiss s b owner counter off ctx who unit) := by
  unfold State.windowMiss
  with_reducible repeat' first
    | exact h
    | refine Kept.ite ?_ ?_
    | refine kept_raiseBay (sub hl (by decide)) ?_
    | refine kept_count (sub hl (by decide)) ?_
    | dsimp only

theorem kept_remoteSlices {c : Nat} {w : Nat} {n : Nat} {off : Nat} {ctx : Nat} {write : Bool} {who : Sender} {unit : Nat} {data : List Word} (hl : [.free, .mem, .errs, .regs, .bays, .mus, .evt, .twin, .rel] ⊆ l) (h : Kept l a s) :
    Kept l a (State.remoteSlices s c w n off ctx write who unit data).2.2 := by
  unfold State.remoteSlices
  with_reducible repeat' first
    | exact h
    | assumption
    | refine Kept.ite ?_ ?_
    | refine kept_addrFault (sub hl (by decide)) ?_
    | refine kept_writeMany (sub hl (by decide)) ?_ ?_
    | refine kept_writeMu (sub hl (by decide)) ?_
    | refine kept_readMany (sub hl (by decide)) ?_ ?_
    | refine kept_readMu (sub hl (by decide)) ?_
    | refine kept_windowMiss (sub hl (by decide)) ?_
    | refine Kept.foldl ?_ ?_
    | (split; rename_i e; have e0 := congrArg (fun p => p.1) e; have e1 := congrArg (fun p => p.2) e; dsimp only at e0 e1; subst e0; subst e1)
    | (split; rename_i e; have e0 := congrArg (fun p => p.2) e; dsimp only at e0; subst e0)
    | split
    | (refine Kept.of_snd (by assumption) ?_)
    | intro _ _ _ _
    | intro _ _ _
    | intro _ _
    | intro _
    | dsimp only

theorem kept_remoteScratchpad {u : Nat} {w : Nat} {n : Nat} {off : Nat} {ctx : Nat} {write : Bool} {who : Sender} {unit : Nat} {data : List Word} (hl : [.free, .mem, .errs, .regs, .bays, .evt, .rel] ⊆ l) (h : Kept l a s) :
    Kept l a (State.remoteScratchpad s u w n off ctx write who unit data).2.2 := by
  unfold State.remoteScratchpad
  with_reducible repeat' first
    | exact h
    | assumption
    | refine Kept.ite ?_ ?_
    | refine kept_writeMany (sub hl (by decide)) ?_ ?_
    | refine kept_writeSp (sub hl (by decide)) ?_
    | refine kept_readMany (sub hl (by decide)) ?_ ?_
    | refine kept_readSp (sub hl (by decide)) ?_
    | refine kept_windowMiss (sub hl (by decide)) ?_
    | refine Kept.foldl ?_ ?_
    | (split; rename_i e; have e0 := congrArg (fun p => p.1) e; have e1 := congrArg (fun p => p.2) e; dsimp only at e0 e1; subst e0; subst e1)
    | (split; rename_i e; have e0 := congrArg (fun p => p.2) e; dsimp only at e0; subst e0)
    | split
    | (refine Kept.of_snd (by assumption) ?_)
    | intro _ _ _ _
    | intro _ _ _
    | intro _ _
    | intro _
    | dsimp only

theorem kept_remoteStorage {c : Nat} {off : Nat} {n : Nat} {ctx : Nat} {write : Bool} {who : Sender} {unit : Nat} {data : List Word} (hl : [.free, .mem, .errs, .regs, .bays, .mus, .evt, .twin, .rel] ⊆ l) (h : Kept l a s) :
    Kept l a (State.remoteStorage s c off n ctx write who unit data).2.2 := by
  unfold State.remoteStorage
  with_reducible repeat' first
    | exact h
    | refine Kept.ite ?_ ?_
    | refine kept_windowMiss (sub hl (by decide)) ?_
    | refine kept_addrFault (sub hl (by decide)) ?_
    | refine kept_remoteSlices (sub hl (by decide)) ?_
    | refine kept_remoteScratchpad (sub hl (by decide)) ?_
    | refine Kept.foldl ?_ ?_
    | split
    | intro _ _ _ _
    | intro _ _ _
    | intro _ _
    | intro _
    | dsimp only

theorem kept_staleCount {c : Nat} {off : Nat} (hl : [.regs] ⊆ l) (h : Kept l a s) :
    Kept l a (State.staleCount s c off) := by
  unfold State.staleCount
  with_reducible repeat' first
    | exact h
    | refine Kept.ite ?_ ?_
    | refine kept_count (sub hl (by decide)) ?_
    | refine Kept.foldl ?_ ?_
    | split
    | intro _ _ _ _
    | intro _ _ _
    | intro _ _
    | intro _
    | dsimp only

end Sys2Proof.Machine
end

