-- ==== Sys2Proof/Laws/KeptSites.lean ====
section
/-! SUPPORT. What each operation of Machine/Sites.lean may touch, and that it keeps the queue and the invariant. -/

namespace Sys2Proof.Machine

variable {l : List Comp} {a s : State}

theorem kept_modExport {t : Nat} {d : Nat} {f : Export → Export} (hl : [.sites] ⊆ l) (h : Kept l a s) :
    Kept l a (State.modExport s t d f) := by
  unfold State.modExport
  with_reducible repeat' first
    | exact h
    | refine Kept.ite ?_ ?_
    | refine kept_modSite (sub hl (by decide)) ?_
    | dsimp only

theorem kept_exportLost {t : Nat} {d : Nat} {n : Nat} (hl : [.sites] ⊆ l) (h : Kept l a s) :
    Kept l a (State.exportLost s t d n) := by
  unfold State.exportLost
  with_reducible repeat' first
    | exact h
    | refine Kept.ite ?_ ?_
    | refine kept_modExport (sub hl (by decide)) ?_
    | dsimp only

theorem kept_exportRead {t : Nat} {d : Nat} {i : Nat} {x0 : Nat} {n : Nat} (hl : [.bays, .rtrs, .evt, .sites] ⊆ l) (h : Kept l a s) :
    Kept l a (State.exportRead s t d i x0 n) := by
  unfold State.exportRead
  with_reducible repeat' first
    | exact h
    | refine Kept.ite ?_ ?_
    | refine kept_exportLost (sub hl (by decide)) ?_
    | refine kept_addrFault (sub hl (by decide)) ?_
    | refine kept_enterExternal (sub hl (by decide)) ?_
    | refine kept_modExport (sub hl (by decide)) ?_
    | refine Kept.foldl ?_ ?_
    | split
    | intro _ _ _ _
    | intro _ _ _
    | intro _ _
    | intro _
    | dsimp only

theorem kept_exportAsk1 {t : Nat} {d : Nat} (hl : [.bays, .rtrs, .evt, .sites] ⊆ l) (h : Kept l a s) :
    Kept l a (State.exportAsk1 s t d) := by
  unfold State.exportAsk1
  with_reducible repeat' first
    | exact h
    | refine Kept.ite ?_ ?_
    | refine kept_exportRead (sub hl (by decide)) ?_
    | refine Kept.foldl ?_ ?_
    | split
    | intro _ _ _ _
    | intro _ _ _
    | intro _ _
    | intro _
    | dsimp only

theorem kept_exportAsk {t : Nat} {d : Nat} {x0 : Nat} (hl : [.bays, .rtrs, .evt, .sites] ⊆ l) (h : Kept l a s) :
    Kept l a (State.exportAsk s t d x0) := by
  induction x0 generalizing s t d with
  | zero =>
    unfold State.exportAsk
    with_reducible repeat' first
      | exact h
      | dsimp only
  | succ n ih =>
    unfold State.exportAsk
    with_reducible repeat' first
      | exact h
      | refine ih ?_
      | refine Kept.ite ?_ ?_
      | refine kept_exportAsk1 (sub hl (by decide)) ?_
      | dsimp only

theorem kept_exportsAsk {t : Nat} (hl : [.bays, .rtrs, .evt, .sites] ⊆ l) (h : Kept l a s) :
    Kept l a (State.exportsAsk s t) := by
  unfold State.exportsAsk
  with_reducible repeat' first
    | exact h
    | assumption
    | refine Kept.ite ?_ ?_
    | refine kept_exportAsk (sub hl (by decide)) ?_
    | refine Kept.foldl ?_ ?_
    | (split; rename_i e; have e0 := congrArg (fun p => p.1) e; have e1 := congrArg (fun p => p.2) e; dsimp only at e0 e1; subst e0; subst e1)
    | (split; rename_i e; have e0 := congrArg (fun p => p.2) e; dsimp only at e0; subst e0)
    | split
    | (refine Kept.of_snd (by assumption) ?_)
    | intro _ _ _ _
    | intro _ _ _
    | intro _ _
    | intro _
    | dsimp only

theorem kept_exportAnswer {t : Nat} {x0 : Nat} {p : MeshResponse} (hl : [.bays, .rtrs, .evt, .sites] ⊆ l) (h : Kept l a s) :
    Kept l a (State.exportAnswer s t x0 p) := by
  unfold State.exportAnswer
  with_reducible repeat' first
    | exact h
    | assumption
    | refine Kept.ite ?_ ?_
    | refine kept_exportsAsk (sub hl (by decide)) ?_
    | refine kept_modExport (sub hl (by decide)) ?_
    | refine Kept.foldl ?_ ?_
    | refine Kept.foldl₂ ?_ ?_
    | refine Kept.foldl₁ ?_ ?_
    | (split; rename_i e; have e0 := congrArg (fun p => p.1) e; have e1 := congrArg (fun p => p.2.1) e; have e2 := congrArg (fun p => p.2.2.1) e; have e3 := congrArg (fun p => p.2.2.2) e; dsimp only at e0 e1 e2 e3; subst e0; subst e1; subst e2; subst e3)
    | (split; rename_i e; have e0 := congrArg (fun p => p.1) e; have e1 := congrArg (fun p => p.2.1) e; have e2 := congrArg (fun p => p.2.2) e; dsimp only at e0 e1 e2; subst e0; subst e1; subst e2)
    | (split; rename_i e; have e0 := congrArg (fun p => p.1) e; have e1 := congrArg (fun p => p.2) e; dsimp only at e0 e1; subst e0; subst e1)
    | (split; rename_i e; have e0 := congrArg (fun p => p.2) e; dsimp only at e0; subst e0)
    | (split; rename_i e; have e0 := congrArg (fun p => p.1) e; dsimp only at e0; subst e0)
    | split
    | (refine Kept.of_snd (by assumption) ?_)
    | intro _ _ _ _
    | intro _ _ _
    | intro _ _
    | intro _
    | dsimp only

theorem kept_endpointAnswer {r : Nat} {p : MeshResponse} (hl : [.bays, .rtrs, .evt, .sites] ⊆ l) (h : Kept l a s) :
    Kept l a (State.endpointAnswer s r p) := by
  unfold State.endpointAnswer
  with_reducible repeat' first
    | exact h
    | refine Kept.ite ?_ ?_
    | refine kept_exportAnswer (sub hl (by decide)) ?_
    | refine Kept.foldl ?_ ?_
    | split
    | intro _ _ _ _
    | intro _ _ _
    | intro _ _
    | intro _
    | dsimp only

theorem kept_importFault {t : Nat} {x0 : Nat} (hl : [.regs, .bays, .evt, .sites] ⊆ l) (h : Kept l a s) :
    Kept l a (State.importFault s t x0) := by
  unfold State.importFault
  with_reducible repeat' first
    | exact h
    | refine Kept.ite ?_ ?_
    | refine kept_voidSite (sub hl (by decide)) ?_
    | refine kept_addrFault (sub hl (by decide)) ?_
    | refine kept_count (sub hl (by decide)) ?_
    | dsimp only

theorem kept_importPost {t : Nat} {x0 : Nat} {ws : List Word} (hl : [.rtrs] ⊆ l) (h : Kept l a s) :
    Kept l a (State.importPost s t x0 ws) := by
  unfold State.importPost
  with_reducible repeat' first
    | exact h
    | refine Kept.ite ?_ ?_
    | refine kept_enterExternal (sub hl (by decide)) ?_
    | dsimp only

theorem kept_importWords {t : Nat} {d : Nat} {u : Nat} {half : Nat} {ws : List Word} {x0 : Nat} (hl : [.regs, .bays, .rtrs, .evt, .sites] ⊆ l) (h : Kept l a s) :
    Kept l a (State.importWords s t d u half ws x0) := by
  induction x0 generalizing s t d u half ws with
  | zero =>
    unfold State.importWords
    with_reducible repeat' first
      | exact h
      | assumption
      | refine Kept.ite ?_ ?_
      | refine kept_importPost (sub hl (by decide)) ?_
      | refine kept_importFault (sub hl (by decide)) ?_
      | refine Kept.foldl ?_ ?_
      | (split; rename_i e; have e0 := congrArg (fun p => p.1) e; have e1 := congrArg (fun p => p.2) e; dsimp only at e0 e1; subst e0; subst e1)
      | (split; rename_i e; have e0 := congrArg (fun p => p.2) e; dsimp only at e0; subst e0)
      | split
      | (refine Kept.of_snd (by assumption) ?_)
      | intro _ _ _ _
      | intro _ _ _
      | intro _ _
      | intro _
      | dsimp only
  | succ n ih =>
    unfold State.importWords
    with_reducible repeat' first
      | exact h
      | refine ih ?_
      | assumption
      | refine Kept.ite ?_ ?_
      | refine kept_importPost (sub hl (by decide)) ?_
      | refine kept_importFault (sub hl (by decide)) ?_
      | refine Kept.foldl ?_ ?_
      | (split; rename_i e; have e0 := congrArg (fun p => p.1) e; have e1 := congrArg (fun p => p.2) e; dsimp only at e0 e1; subst e0; subst e1)
      | (split; rename_i e; have e0 := congrArg (fun p => p.2) e; dsimp only at e0; subst e0)
      | split
      | (refine Kept.of_snd (by assumption) ?_)
      | intro _ _ _ _
      | intro _ _ _
      | intro _ _
      | intro _
      | dsimp only

end Sys2Proof.Machine
end

