-- ==== Sys2Proof/Laws/KeptStage.lean ====
section
/-! SUPPORT. What each operation of Machine/Stage.lean may touch, and that it keeps the queue and the invariant. -/

namespace Sys2Proof.Machine

variable {l : List Comp} {a s : State}

theorem kept_modDsp {c : Nat} {f : Dsp → Dsp} (hl : [.mus] ⊆ l) (h : Kept l a s) :
    Kept l a (State.modDsp s c f) := by
  unfold State.modDsp
  with_reducible repeat' first
    | exact h
    | refine Kept.ite ?_ ?_
    | refine kept_modMu (sub hl (by decide)) ?_
    | dsimp only

theorem kept_dspFault {c : Nat} {kind : Nat} {cand : Nat} (hl : [.regs, .bays, .mus, .evt] ⊆ l) (h : Kept l a s) :
    Kept l a (State.dspFault s c kind cand) := by
  unfold State.dspFault
  with_reducible repeat' first
    | exact h
    | refine Kept.ite ?_ ?_
    | refine kept_record (sub hl (by decide)) ?_
    | refine kept_voteVoid (sub hl (by decide)) ?_
    | refine kept_raiseBay (sub hl (by decide)) ?_
    | refine kept_modMu (sub hl (by decide)) ?_
    | refine kept_modDsp (sub hl (by decide)) ?_
    | dsimp only

theorem kept_stageRead {c : Nat} {o : Nat} (hl : [.free, .mem, .errs, .regs, .bays, .evt, .rel] ⊆ l) (h : Kept l a s) :
    Kept l a (State.stageRead s c o).2 := by
  unfold State.stageRead
  with_reducible repeat' first
    | exact h
    | refine Kept.ite ?_ ?_
    | refine kept_readMu (sub hl (by decide)) ?_
    | dsimp only

theorem kept_stageWrite {c : Nat} {o : Nat} {v : Word} (hl : [.free, .mem, .errs, .regs, .bays, .mus, .evt, .twin, .rel] ⊆ l) (h : Kept l a s) :
    Kept l a (State.stageWrite s c o v) := by
  unfold State.stageWrite
  with_reducible repeat' first
    | exact h
    | refine Kept.ite ?_ ?_
    | refine kept_dspFault (sub hl (by decide)) ?_
    | refine kept_writeMu (sub hl (by decide)) ?_
    | refine Kept.foldl ?_ ?_
    | split
    | intro _ _ _ _
    | intro _ _ _
    | intro _ _
    | intro _
    | dsimp only

theorem kept_expertOf {c : Nat} {d : DspDesc} {i : Nat} (hl : [.free, .mem, .errs, .regs, .bays, .evt, .rel] ⊆ l) (h : Kept l a s) :
    Kept l a (State.expertOf s c d i).2 := by
  unfold State.expertOf
  with_reducible repeat' first
    | exact h
    | refine Kept.ite ?_ ?_
    | refine kept_stageRead (sub hl (by decide)) ?_
    | dsimp only

theorem kept_regionOf {c : Nat} {d : DspDesc} {r : Nat} (hl : [.free, .mem, .errs, .regs, .bays, .evt, .rel] ⊆ l) (h : Kept l a s) :
    Kept l a (State.regionOf s c d r).2 := by
  unfold State.regionOf
  with_reducible repeat' first
    | exact h
    | assumption
    | refine Kept.ite ?_ ?_
    | refine kept_readMany (sub hl (by decide)) ?_ ?_
    | refine kept_readMu (sub hl (by decide)) ?_
    | refine Kept.foldl ?_ ?_
    | (split; rename_i e; have e0 := congrArg (fun p => p.1) e; have e1 := congrArg (fun p => p.2) e; dsimp only at e0 e1; subst e0; subst e1)
    | (split; rename_i e; have e0 := congrArg (fun p => p.2) e; dsimp only at e0; subst e0)
    | split
    | (refine Kept.of_snd (by assumption) ?_)
    | intro _ _ _ _
    | intro _ _ _
    | intro _ _
    | intro _
    | dsimp only

theorem kept_dspRecord {c : Nat} {d : DspDesc} {outcome : Nat} {rank : Nat} {slot : Nat} {expert : Nat} {score : Nat} {depth : Nat} {fill : Nat} (hl : [.free, .mem, .errs, .regs, .bays, .mus, .evt, .twin, .rel] ⊆ l) (h : Kept l a s) :
    Kept l a (State.dspRecord s c d outcome rank slot expert score depth fill) := by
  unfold State.dspRecord
  with_reducible repeat' first
    | exact h
    | refine Kept.ite ?_ ?_
    | refine kept_modDsp (sub hl (by decide)) ?_
    | refine kept_stageWrite (sub hl (by decide)) ?_
    | dsimp only

theorem kept_idxFlush {c : Nat} {d : DspDesc} (hl : [.free, .mem, .errs, .regs, .bays, .mus, .evt, .twin, .rel] ⊆ l) (h : Kept l a s) :
    Kept l a (State.idxFlush s c d) := by
  unfold State.idxFlush
  with_reducible repeat' first
    | exact h
    | refine Kept.ite ?_ ?_
    | refine kept_modDsp (sub hl (by decide)) ?_
    | refine kept_stageWrite (sub hl (by decide)) ?_
    | dsimp only

theorem kept_dspIndex {c : Nat} {d : DspDesc} {v : Nat} (hl : [.free, .mem, .errs, .regs, .bays, .mus, .evt, .twin, .rel] ⊆ l) (h : Kept l a s) :
    Kept l a (State.dspIndex s c d v) := by
  unfold State.dspIndex
  with_reducible repeat' first
    | exact h
    | refine Kept.ite ?_ ?_
    | refine kept_modDsp (sub hl (by decide)) ?_
    | refine kept_idxFlush (sub hl (by decide)) ?_
    | dsimp only

theorem kept_dspPlain {c : Nat} {d : DspDesc} {outcome : Nat} {rank : Nat} {slot : Nat} {expert : Nat} {score : Nat} {depth : Nat} (hl : [.free, .mem, .errs, .regs, .bays, .mus, .evt, .twin, .rel] ⊆ l) (h : Kept l a s) :
    Kept l a (State.dspPlain s c d outcome rank slot expert score depth) := by
  unfold State.dspPlain
  with_reducible repeat' first
    | exact h
    | refine Kept.ite ?_ ?_
    | refine kept_dspIndex (sub hl (by decide)) ?_
    | refine kept_dspRecord (sub hl (by decide)) ?_
    | dsimp only

theorem kept_dspCounter {c : Nat} {d : DspDesc} {i : Nat} {which : Nat} (hl : [.free, .mem, .errs, .regs, .bays, .mus, .evt, .twin, .rel] ⊆ l) (h : Kept l a s) :
    Kept l a (State.dspCounter s c d i which) := by
  unfold State.dspCounter
  with_reducible repeat' first
    | exact h
    | refine Kept.ite ?_ ?_
    | refine kept_stageRead (sub hl (by decide)) ?_
    | refine kept_stageWrite (sub hl (by decide)) ?_
    | dsimp only

theorem kept_dspMesh {c : Nat} {d : DspDesc} {e : Expert} {r : Region} {fill : Nat} {rows : List (List Word)} (hl : [.mus] ⊆ l) (h : Kept l a s) :
    Kept l a (State.dspMesh s c d e r fill rows) := by
  unfold State.dspMesh
  with_reducible repeat' first
    | exact h
    | refine Kept.ite ?_ ?_
    | refine kept_modDsp (sub hl (by decide)) ?_
    | dsimp only

theorem kept_dspToken {c : Nat} {d : DspDesc} {e : Expert} {rank : Nat} {slot : Nat} {score : Nat} (hl : [.mus] ⊆ l) (h : Kept l a s) :
    Kept l a (State.dspToken s c d e rank slot score) := by
  unfold State.dspToken
  with_reducible repeat' first
    | exact h
    | refine Kept.ite ?_ ?_
    | refine kept_modDsp (sub hl (by decide)) ?_
    | dsimp only

theorem kept_dspAccept {c : Nat} {d : DspDesc} {e : Expert} {i : Nat} {rank : Nat} {slot : Nat} {score : Nat} {depth : Nat} {which : Nat} {payload : List (List Word)} (hl : [.free, .mem, .errs, .regs, .bays, .mus, .evt, .twin, .rel] ⊆ l) (h : Kept l a s) :
    Kept l a (State.dspAccept s c d e i rank slot score depth which payload) := by
  unfold State.dspAccept
  with_reducible repeat' first
    | exact h
    | assumption
    | refine Kept.ite ?_ ?_
    | refine kept_modDsp (sub hl (by decide)) ?_
    | refine kept_regionOf (sub hl (by decide)) ?_
    | refine kept_dspMesh (sub hl (by decide)) ?_
    | refine kept_dspFault (sub hl (by decide)) ?_
    | refine kept_dspToken (sub hl (by decide)) ?_
    | refine kept_count (sub hl (by decide)) ?_
    | refine kept_dspCounter (sub hl (by decide)) ?_
    | refine kept_dspIndex (sub hl (by decide)) ?_
    | refine kept_dspRecord (sub hl (by decide)) ?_
    | refine Kept.foldl ?_ ?_
    | (split; rename_i e; have e0 := congrArg (fun p => p.1) e; have e1 := congrArg (fun p => p.2) e; dsimp only at e0 e1; subst e0; subst e1)
    | (split; rename_i e; have e0 := congrArg (fun p => p.2) e; dsimp only at e0; subst e0)
    | split
    | (refine Kept.of_snd (by assumption) ?_)
    | intro _ _ _ _
    | intro _ _ _
    | intro _ _
    | intro _
    | dsimp only

theorem kept_deferWrite {c : Nat} {d : DspDesc} {n : Nat} {hdr : List Word} {payload : List (List Word)} (hl : [.free, .mem, .errs, .regs, .bays, .mus, .evt, .twin, .rel] ⊆ l) (h : Kept l a s) :
    Kept l a (State.deferWrite s c d n hdr payload) := by
  unfold State.deferWrite
  with_reducible repeat' first
    | exact h
    | assumption
    | refine Kept.ite ?_ ?_
    | refine kept_writeMany (sub hl (by decide)) ?_ ?_
    | refine kept_stageWrite (sub hl (by decide)) ?_
    | refine Kept.foldl ?_ ?_
    | (split; rename_i e; have e0 := congrArg (fun p => p.1) e; have e1 := congrArg (fun p => p.2) e; dsimp only at e0 e1; subst e0; subst e1)
    | (split; rename_i e; have e0 := congrArg (fun p => p.2) e; dsimp only at e0; subst e0)
    | split
    | (refine Kept.of_snd (by assumption) ?_)
    | intro _ _ _ _
    | intro _ _ _
    | intro _ _
    | intro _
    | dsimp only

theorem kept_deferPut {c : Nat} {d : DspDesc} {e : Expert} {i : Nat} {rank : Nat} {slot : Nat} {score : Nat} {age : Nat} {payload : List (List Word)} (hl : [.free, .mem, .errs, .regs, .bays, .mus, .evt, .twin, .rel] ⊆ l) (h : Kept l a s) :
    Kept l a (State.deferPut s c d e i rank slot score age payload) := by
  unfold State.deferPut
  with_reducible repeat' first
    | exact h
    | refine Kept.ite ?_ ?_
    | refine kept_modDsp (sub hl (by decide)) ?_
    | refine kept_deferWrite (sub hl (by decide)) ?_
    | refine kept_count (sub hl (by decide)) ?_
    | refine kept_dspCounter (sub hl (by decide)) ?_
    | dsimp only

theorem kept_deferEntry {c : Nat} {d : DspDesc} {n : Nat} (hl : [.free, .mem, .errs, .regs, .bays, .mus, .evt, .twin, .rel] ⊆ l) (h : Kept l a s) :
    Kept l a (State.deferEntry s c d n) := by
  unfold State.deferEntry
  with_reducible repeat' first
    | exact h
    | assumption
    | refine Kept.ite ?_ ?_
    | refine kept_readMany (sub hl (by decide)) ?_ ?_
    | refine kept_readMu (sub hl (by decide)) ?_
    | refine kept_dspPlain (sub hl (by decide)) ?_
    | refine kept_count (sub hl (by decide)) ?_
    | refine kept_expertOf (sub hl (by decide)) ?_
    | refine kept_dspFault (sub hl (by decide)) ?_
    | refine kept_dspAccept (sub hl (by decide)) ?_
    | refine kept_dspCounter (sub hl (by decide)) ?_
    | refine kept_deferPut (sub hl (by decide)) ?_
    | refine Kept.foldl ?_ ?_
    | (split; rename_i e; have e0 := congrArg (fun p => p.1) e; have e1 := congrArg (fun p => p.2) e; dsimp only at e0 e1; subst e0; subst e1)
    | (split; rename_i e; have e0 := congrArg (fun p => p.2) e; dsimp only at e0; subst e0)
    | split
    | (refine Kept.of_snd (by assumption) ?_)
    | intro _ _ _ _
    | intro _ _ _
    | intro _ _
    | intro _
    | dsimp only

theorem kept_deferAll {c : Nat} {d : DspDesc} {cnt : Nat} {n : Nat} {x0 : Nat} (hl : [.free, .mem, .errs, .regs, .bays, .mus, .evt, .twin, .rel] ⊆ l) (h : Kept l a s) :
    Kept l a (State.deferAll s c d cnt n x0) := by
  induction x0 generalizing s c d cnt n with
  | zero =>
    unfold State.deferAll
    with_reducible repeat' first
      | exact h
      | dsimp only
  | succ n ih =>
    unfold State.deferAll
    with_reducible repeat' first
      | exact h
      | refine ih ?_
      | refine Kept.ite ?_ ?_
      | refine kept_deferEntry (sub hl (by decide)) ?_
      | refine kept_dspPlain (sub hl (by decide)) ?_
      | dsimp only

theorem kept_deferRun {c : Nat} {d : DspDesc} (hl : [.free, .mem, .errs, .regs, .bays, .mus, .evt, .twin, .rel] ⊆ l) (h : Kept l a s) :
    Kept l a (State.deferRun s c d) := by
  unfold State.deferRun
  with_reducible repeat' first
    | exact h
    | refine Kept.ite ?_ ?_
    | refine kept_stageRead (sub hl (by decide)) ?_
    | refine kept_deferAll (sub hl (by decide)) ?_
    | refine kept_modDsp (sub hl (by decide)) ?_
    | dsimp only

theorem kept_passStart {c : Nat} {g : Nat} (hl : [.free, .mem, .errs, .regs, .bays, .mus, .evt, .twin, .rel] ⊆ l) (h : Kept l a s) :
    Kept l a (State.passStart s c g) := by
  unfold State.passStart
  with_reducible repeat' first
    | exact h
    | refine Kept.ite ?_ ?_
    | refine kept_modMu (sub hl (by decide)) ?_
    | refine kept_modDsp (sub hl (by decide)) ?_
    | refine kept_dspFault (sub hl (by decide)) ?_
    | refine kept_deferRun (sub hl (by decide)) ?_
    | refine Kept.foldl ?_ ?_
    | split
    | intro _ _ _ _
    | intro _ _ _
    | intro _ _
    | intro _
    | dsimp only

theorem runs_execDispatchPassStart {t : Nat} {c : Nat} {g : Nat} {s0 : State} (hl : [.free, .mem, .errs, .regs, .bays, .mus, .evt, .twin, .rel] ⊆ l) :
    Runs l s0 (execDispatchPassStart t c g s0) := by
  unfold execDispatchPassStart
  refine Runs.next ?_
  have h := Kept.refl l s0
  with_reducible repeat' first
    | exact h
    | refine Kept.ite ?_ ?_
    | refine kept_bayTime (sub hl (by decide)) ?_
    | refine kept_muHold (sub hl (by decide)) ?_ ?_
    | refine kept_passStart (sub hl (by decide)) ?_
    | dsimp only

theorem kept_passEnd {c : Nat} {d : DspDesc} (hl : [.free, .mem, .errs, .regs, .bays, .mus, .evt, .twin, .rel] ⊆ l) (h : Kept l a s) :
    Kept l a (State.passEnd s c d) := by
  unfold State.passEnd
  with_reducible repeat' first
    | exact h
    | refine Kept.ite ?_ ?_
    | refine kept_idxFlush (sub hl (by decide)) ?_
    | refine kept_stageWrite (sub hl (by decide)) ?_
    | refine kept_modDsp (sub hl (by decide)) ?_
    | dsimp only

theorem kept_tokenRank {c : Nat} (hl : [.free, .mem, .errs, .regs, .bays, .mus, .evt, .twin, .rel] ⊆ l) (h : Kept l a s) :
    Kept l a (State.tokenRank s c) := by
  unfold State.tokenRank
  with_reducible repeat' first
    | exact h
    | refine Kept.ite ?_ ?_
    | refine kept_passEnd (sub hl (by decide)) ?_
    | refine kept_dspFault (sub hl (by decide)) ?_
    | refine kept_modDsp (sub hl (by decide)) ?_
    | refine kept_count (sub hl (by decide)) ?_
    | dsimp only

theorem runs_execTokenRank {t : Nat} {c : Nat} {s0 : State} (hl : [.free, .mem, .errs, .regs, .bays, .mus, .evt, .twin, .rel] ⊆ l) :
    Runs l s0 (execTokenRank t c s0) := by
  unfold execTokenRank
  refine Runs.next ?_
  have h := Kept.refl l s0
  with_reducible repeat' first
    | exact h
    | refine Kept.ite ?_ ?_
    | refine kept_bayTime (sub hl (by decide)) ?_
    | refine kept_muHold (sub hl (by decide)) ?_ ?_
    | refine kept_tokenRank (sub hl (by decide)) ?_
    | dsimp only

theorem kept_nextChoice {c : Nat} {d : DspDesc} {x : Dsp} {j : Nat} {e0 : Expert} {i0 : Nat} {x0 : Nat} {x1 : Nat} (hl : [.free, .mem, .errs, .regs, .bays, .mus, .evt, .twin, .rel] ⊆ l) (h : Kept l a s) :
    Kept l a (State.nextChoice s c d x j e0 i0 x0 x1).1 := by
  induction x1 generalizing s c d x j e0 i0 x0 with
  | zero =>
    unfold State.nextChoice
    with_reducible repeat' first
      | exact h
      | assumption
      | refine Kept.ite ?_ ?_
      | refine kept_dspPlain (sub hl (by decide)) ?_
      | refine kept_count (sub hl (by decide)) ?_
      | refine kept_expertOf (sub hl (by decide)) ?_
      | refine kept_dspFault (sub hl (by decide)) ?_
      | refine kept_dspAccept (sub hl (by decide)) ?_
      | refine kept_dspCounter (sub hl (by decide)) ?_
      | refine Kept.foldl ?_ ?_
      | (split; rename_i e; have e0 := congrArg (fun p => p.1) e; have e1 := congrArg (fun p => p.2) e; dsimp only at e0 e1; subst e0; subst e1)
      | (split; rename_i e; have e0 := congrArg (fun p => p.2) e; dsimp only at e0; subst e0)
      | split
      | (refine Kept.of_snd (by assumption) ?_)
      | intro _ _ _ _
      | intro _ _ _
      | intro _ _
      | intro _
      | dsimp only
  | succ n ih =>
    unfold State.nextChoice
    with_reducible repeat' first
      | exact h
      | refine ih ?_
      | assumption
      | refine Kept.ite ?_ ?_
      | refine kept_dspPlain (sub hl (by decide)) ?_
      | refine kept_count (sub hl (by decide)) ?_
      | refine kept_expertOf (sub hl (by decide)) ?_
      | refine kept_dspFault (sub hl (by decide)) ?_
      | refine kept_dspAccept (sub hl (by decide)) ?_
      | refine kept_dspCounter (sub hl (by decide)) ?_
      | refine Kept.foldl ?_ ?_
      | (split; rename_i e; have e0 := congrArg (fun p => p.1) e; have e1 := congrArg (fun p => p.2) e; dsimp only at e0 e1; subst e0; subst e1)
      | (split; rename_i e; have e0 := congrArg (fun p => p.2) e; dsimp only at e0; subst e0)
      | split
      | (refine Kept.of_snd (by assumption) ?_)
      | intro _ _ _ _
      | intro _ _ _
      | intro _ _
      | intro _
      | dsimp only

theorem kept_choice {c : Nat} {d : DspDesc} {x : Dsp} {j : Nat} {nxt : Nat} (hl : [.free, .mem, .errs, .regs, .bays, .mus, .evt, .twin, .rel] ⊆ l) (h : Kept l a s) :
    Kept l a (State.choice s c d x j nxt).1 := by
  unfold State.choice
  with_reducible repeat' first
    | exact h
    | assumption
    | refine Kept.ite ?_ ?_
    | refine kept_dspPlain (sub hl (by decide)) ?_
    | refine kept_expertOf (sub hl (by decide)) ?_
    | refine kept_dspFault (sub hl (by decide)) ?_
    | refine kept_dspAccept (sub hl (by decide)) ?_
    | refine kept_dspCounter (sub hl (by decide)) ?_
    | refine kept_regionOf (sub hl (by decide)) ?_
    | refine kept_count (sub hl (by decide)) ?_
    | refine kept_deferPut (sub hl (by decide)) ?_
    | refine kept_nextChoice (sub hl (by decide)) ?_
    | refine Kept.foldl ?_ ?_
    | (split; rename_i e; have e0 := congrArg (fun p => p.1) e; have e1 := congrArg (fun p => p.2) e; dsimp only at e0 e1; subst e0; subst e1)
    | (split; rename_i e; have e0 := congrArg (fun p => p.2) e; dsimp only at e0; subst e0)
    | split
    | (refine Kept.of_snd (by assumption) ?_)
    | intro _ _ _ _
    | intro _ _ _
    | intro _ _
    | intro _
    | dsimp only

theorem kept_choices {c : Nat} {d : DspDesc} {x : Dsp} {j : Nat} {nxt : Nat} {x0 : Nat} (hl : [.free, .mem, .errs, .regs, .bays, .mus, .evt, .twin, .rel] ⊆ l) (h : Kept l a s) :
    Kept l a (State.choices s c d x j nxt x0) := by
  induction x0 generalizing s c d x j nxt with
  | zero =>
    unfold State.choices
    with_reducible repeat' first
      | exact h
      | dsimp only
  | succ n ih =>
    unfold State.choices
    with_reducible repeat' first
      | exact h
      | refine ih ?_
      | refine Kept.ite ?_ ?_
      | refine kept_choice (sub hl (by decide)) ?_
      | dsimp only

theorem kept_recordAll {c : Nat} {d : DspDesc} {outcome : Nat} {slot : Nat} {j : Nat} {x0 : Nat} (hl : [.free, .mem, .errs, .regs, .bays, .mus, .evt, .twin, .rel] ⊆ l) (h : Kept l a s) :
    Kept l a (State.recordAll s c d outcome slot j x0) := by
  induction x0 generalizing s c d outcome slot j with
  | zero =>
    unfold State.recordAll
    with_reducible repeat' first
      | exact h
      | dsimp only
  | succ n ih =>
    unfold State.recordAll
    with_reducible repeat' first
      | exact h
      | refine ih ?_
      | refine Kept.ite ?_ ?_
      | refine kept_dspPlain (sub hl (by decide)) ?_
      | dsimp only

theorem kept_tokenResolve {c : Nat} (hl : [.free, .mem, .errs, .regs, .stitch, .bays, .mus, .evt, .twin, .rel] ⊆ l) (h : Kept l a s) :
    Kept l a (State.tokenResolve s c) := by
  unfold State.tokenResolve
  with_reducible repeat' first
    | exact h
    | refine Kept.ite ?_ ?_
    | refine kept_recordAll (sub hl (by decide)) ?_
    | refine kept_count (sub hl (by decide)) ?_
    | refine kept_addExit (sub hl (by decide)) ?_
    | refine kept_choices (sub hl (by decide)) ?_
    | refine kept_modDsp (sub hl (by decide)) ?_
    | dsimp only

theorem runs_execTokenResolve {t : Nat} {c : Nat} {s0 : State} (hl : [.free, .mem, .errs, .regs, .stitch, .bays, .mus, .evt, .twin, .rel] ⊆ l) :
    Runs l s0 (execTokenResolve t c s0) := by
  unfold execTokenResolve
  refine Runs.next ?_
  have h := Kept.refl l s0
  with_reducible repeat' first
    | exact h
    | refine Kept.ite ?_ ?_
    | refine kept_bayTime (sub hl (by decide)) ?_
    | refine kept_muHold (sub hl (by decide)) ?_ ?_
    | refine kept_tokenResolve (sub hl (by decide)) ?_
    | dsimp only

theorem kept_tokenEmit {c : Nat} (hl : [.mus] ⊆ l) (h : Kept l a s) :
    Kept l a (State.tokenEmit s c) := by
  unfold State.tokenEmit
  with_reducible repeat' first
    | exact h
    | refine Kept.ite ?_ ?_
    | refine kept_modDsp (sub hl (by decide)) ?_
    | refine kept_portPush (sub hl (by decide)) ?_
    | dsimp only

theorem runs_execTokenPayloadEmit {t : Nat} {c : Nat} {s0 : State} (hl : [.regs, .bays, .mus] ⊆ l) :
    Runs l s0 (execTokenPayloadEmit t c s0) := by
  unfold execTokenPayloadEmit
  refine Runs.next ?_
  have h := Kept.refl l s0
  with_reducible repeat' first
    | exact h
    | refine Kept.ite ?_ ?_
    | refine kept_bayTime (sub hl (by decide)) ?_
    | refine kept_tokenEmit (sub hl (by decide)) ?_
    | dsimp only

theorem kept_fillPositions {c : Nat} {d : DspDesc} {e : Expert} {r : Region} {i : Nat} {x0 : Nat} {x1 : Nat} (hl : [.mus] ⊆ l) (h : Kept l a s) :
    Kept l a (State.fillPositions s c d e r i x0 x1) := by
  induction x1 generalizing s c d e r i x0 with
  | zero =>
    unfold State.fillPositions
    with_reducible repeat' first
      | exact h
      | dsimp only
  | succ n ih =>
    unfold State.fillPositions
    with_reducible repeat' first
      | exact h
      | refine ih ?_
      | refine Kept.ite ?_ ?_
      | refine kept_dspMesh (sub hl (by decide)) ?_
      | dsimp only

theorem kept_passFill {c : Nat} (hl : [.free, .mem, .errs, .regs, .bays, .mus, .evt, .rel] ⊆ l) (h : Kept l a s) :
    Kept l a (State.passFill s c) := by
  unfold State.passFill
  with_reducible repeat' first
    | exact h
    | assumption
    | refine Kept.ite ?_ ?_
    | refine kept_expertOf (sub hl (by decide)) ?_
    | refine kept_dspFault (sub hl (by decide)) ?_
    | refine kept_regionOf (sub hl (by decide)) ?_
    | refine kept_fillPositions (sub hl (by decide)) ?_
    | refine kept_modDsp (sub hl (by decide)) ?_
    | refine Kept.foldl ?_ ?_
    | (split; rename_i e; have e0 := congrArg (fun p => p.1) e; have e1 := congrArg (fun p => p.2) e; dsimp only at e0 e1; subst e0; subst e1)
    | (split; rename_i e; have e0 := congrArg (fun p => p.2) e; dsimp only at e0; subst e0)
    | split
    | (refine Kept.of_snd (by assumption) ?_)
    | intro _ _ _ _
    | intro _ _ _
    | intro _ _
    | intro _
    | dsimp only

theorem runs_execPassEndFill {t : Nat} {c : Nat} {s0 : State} (hl : [.free, .mem, .errs, .regs, .bays, .mus, .evt, .twin, .rel] ⊆ l) :
    Runs l s0 (execPassEndFill t c s0) := by
  unfold execPassEndFill
  refine Runs.next ?_
  have h := Kept.refl l s0
  with_reducible repeat' first
    | exact h
    | refine Kept.ite ?_ ?_
    | refine kept_bayTime (sub hl (by decide)) ?_
    | refine kept_muHold (sub hl (by decide)) ?_ ?_
    | refine kept_passFill (sub hl (by decide)) ?_
    | dsimp only

theorem kept_passSignal {c : Nat} {g : Nat} (hl : [.hsync, .bays, .cus, .mus, .evt] ⊆ l) (h : Kept l a s) :
    Kept l a (State.passSignal s c g) := by
  unfold State.passSignal
  with_reducible repeat' first
    | exact h
    | refine Kept.ite ?_ ?_
    | refine kept_agFinish (sub hl (by decide)) ?_
    | refine Kept.foldl ?_ ?_
    | split
    | intro _ _ _ _
    | intro _ _ _
    | intro _ _
    | intro _
    | dsimp only

theorem kept_closingComplete {c : Nat} (hl : [.hsync, .bays, .cus, .mus, .evt] ⊆ l) (h : Kept l a s) :
    Kept l a (State.closingComplete s c) := by
  unfold State.closingComplete
  with_reducible repeat' first
    | exact h
    | refine Kept.ite ?_ ?_
    | refine kept_modDsp (sub hl (by decide)) ?_
    | refine kept_passSignal (sub hl (by decide)) ?_
    | refine Kept.foldl ?_ ?_
    | split
    | intro _ _ _ _
    | intro _ _ _
    | intro _ _
    | intro _
    | dsimp only

theorem kept_passComplete {c : Nat} (hl : [.hsync, .bays, .cus, .mus, .evt] ⊆ l) (h : Kept l a s) :
    Kept l a (State.passComplete s c) := by
  unfold State.passComplete
  with_reducible repeat' first
    | exact h
    | refine Kept.ite ?_ ?_
    | refine kept_closingComplete (sub hl (by decide)) ?_
    | refine kept_agFinish (sub hl (by decide)) ?_
    | refine kept_modDsp (sub hl (by decide)) ?_
    | refine Kept.foldl ?_ ?_
    | split
    | intro _ _ _ _
    | intro _ _ _
    | intro _ _
    | intro _
    | dsimp only

theorem runs_execDispatchPassComplete {t : Nat} {c : Nat} {s0 : State} (hl : [.regs, .hsync, .bays, .cus, .mus, .evt, .twin] ⊆ l) :
    Runs l s0 (execDispatchPassComplete t c s0) := by
  unfold execDispatchPassComplete
  refine Runs.next ?_
  have h := Kept.refl l s0
  with_reducible repeat' first
    | exact h
    | refine Kept.ite ?_ ?_
    | refine kept_bayTime (sub hl (by decide)) ?_
    | refine kept_muHold (sub hl (by decide)) ?_ ?_
    | refine kept_passComplete (sub hl (by decide)) ?_
    | dsimp only

end Sys2Proof.Machine
end

