-- ==== Sys2Proof/Laws/KeptDmaEngine.lean ====
section
/-! SUPPORT. What each operation of Machine/DmaEngine.lean may touch, and that it keeps the queue and the invariant. -/

namespace Sys2Proof.Machine

variable {l : List Comp} {a s : State}

theorem kept_modDma {u : Nat} {f : Dma → Dma} (hl : [.cus] ⊆ l) (h : Kept l a s) :
    Kept l a (State.modDma s u f) := by
  unfold State.modDma
  with_reducible repeat' first
    | exact h
    | refine Kept.ite ?_ ?_
    | refine kept_modCu (sub hl (by decide)) ?_
    | dsimp only

theorem kept_writeLocal {u : Nat} {kind : Nat} {w : Nat} {v : Word} (hl : [.free, .mem, .errs, .regs, .bays, .mus, .evt, .twin, .rel] ⊆ l) (h : Kept l a s) :
    Kept l a (State.writeLocal s u kind w v) := by
  unfold State.writeLocal
  with_reducible repeat' first
    | exact h
    | refine Kept.ite ?_ ?_
    | refine kept_writeSp (sub hl (by decide)) ?_
    | refine kept_writeMu (sub hl (by decide)) ?_
    | dsimp only

theorem kept_moveLocal {u : Nat} {sk : Nat} {sw : Nat} {dk : Nat} {dw : Nat} {x0 : Nat} (hl : [.free, .mem, .errs, .regs, .bays, .mus, .evt, .twin, .rel] ⊆ l) (h : Kept l a s) :
    Kept l a (State.moveLocal s u sk sw dk dw x0) := by
  induction x0 generalizing s u sk sw dk dw with
  | zero =>
    unfold State.moveLocal
    with_reducible repeat' first
      | exact h
      | dsimp only
  | succ n ih =>
    unfold State.moveLocal
    with_reducible repeat' first
      | exact h
      | refine ih ?_
      | refine Kept.ite ?_ ?_
      | refine kept_readSource (sub hl (by decide)) ?_
      | refine kept_writeLocal (sub hl (by decide)) ?_
      | dsimp only

theorem kept_pieceMove {u : Nat} {p : Nat × Nat × Nat} (hl : [.free, .mem, .errs, .regs, .bays, .mus, .evt, .twin, .rel] ⊆ l) (h : Kept l a s) :
    Kept l a (State.pieceMove s u p) := by
  unfold State.pieceMove
  with_reducible repeat' first
    | exact h
    | refine Kept.ite ?_ ?_
    | refine kept_moveLocal (sub hl (by decide)) ?_
    | refine Kept.foldl ?_ ?_
    | split
    | intro _ _ _ _
    | intro _ _ _
    | intro _ _
    | intro _
    | dsimp only

theorem kept_dmaStart {u : Nat} (hl : [.free, .mem, .errs, .regs, .bays, .cus, .mus, .evt, .twin, .rel] ⊆ l) (h : Kept l a s) :
    Kept l a (State.dmaStart s u) := by
  unfold State.dmaStart
  with_reducible repeat' first
    | exact h
    | assumption
    | refine Kept.ite ?_ ?_
    | refine kept_modDma (sub hl (by decide)) ?_
    | refine kept_addrFault (sub hl (by decide)) ?_
    | refine kept_pieceMove (sub hl (by decide)) ?_
    | refine Kept.foldl ?_ ?_
    | (split; rename_i e; have e0 := congrArg (fun p => p.1) e; have e1 := congrArg (fun p => p.2) e; dsimp only at e0 e1; subst e0; subst e1)
    | (split; rename_i e; have e0 := congrArg (fun p => p.2) e; dsimp only at e0; subst e0)
    | split
    | (refine Kept.of_snd (by assumption) ?_)
    | intro _ _ _ _
    | intro _ _ _
    | intro _ _
    | intro _
    | dsimp only

theorem runs_execDmaTransferStart {t : Nat} {u : Nat} {s0 : State} (hl : [.free, .mem, .errs, .regs, .bays, .cus, .mus, .evt, .twin, .rel] ⊆ l) :
    Runs l s0 (execDmaTransferStart t u s0) := by
  unfold execDmaTransferStart
  refine Runs.next ?_
  have h := Kept.refl l s0
  with_reducible repeat' first
    | exact h
    | refine Kept.ite ?_ ?_
    | refine kept_bayTime (sub hl (by decide)) ?_
    | refine kept_muHold (sub hl (by decide)) ?_ ?_
    | refine kept_dmaStart (sub hl (by decide)) ?_
    | dsimp only

theorem kept_dmaComplete {u : Nat} (hl : [.hsync, .bays, .cus, .evt] ⊆ l) (h : Kept l a s) :
    Kept l a (State.dmaComplete s u) := by
  unfold State.dmaComplete
  with_reducible repeat' first
    | exact h
    | refine Kept.ite ?_ ?_
    | refine kept_modDma (sub hl (by decide)) ?_
    | refine kept_addSync (sub hl (by decide)) ?_
    | refine Kept.foldl ?_ ?_
    | split
    | intro _ _ _ _
    | intro _ _ _
    | intro _ _
    | intro _
    | dsimp only

theorem runs_execDmaTransferComplete {t : Nat} {u : Nat} {s0 : State} (hl : [.regs, .hsync, .bays, .cus, .evt] ⊆ l) :
    Runs l s0 (execDmaTransferComplete t u s0) := by
  unfold execDmaTransferComplete
  refine Runs.next ?_
  have h := Kept.refl l s0
  with_reducible repeat' first
    | exact h
    | refine Kept.ite ?_ ?_
    | refine kept_bayTime (sub hl (by decide)) ?_
    | refine kept_dmaComplete (sub hl (by decide)) ?_
    | dsimp only

theorem kept_dmaTake {u : Nat} {i : Nat} {tag : Nat} {p : MeshPacket} (hl : [.free, .mem, .errs, .regs, .bays, .cus, .evt, .rel] ⊆ l) (h : Kept l a s) :
    Kept l a (State.dmaTake s u i tag p).2 := by
  unfold State.dmaTake
  with_reducible repeat' first
    | exact h
    | assumption
    | refine Kept.ite ?_ ?_
    | refine kept_modDma (sub hl (by decide)) ?_
    | refine kept_readMany (sub hl (by decide)) ?_ ?_
    | refine kept_readSource (sub hl (by decide)) ?_
    | refine Kept.foldl ?_ ?_
    | (split; rename_i e; have e0 := congrArg (fun p => p.1) e; have e1 := congrArg (fun p => p.2) e; dsimp only at e0 e1; subst e0; subst e1)
    | (split; rename_i e; have e0 := congrArg (fun p => p.2) e; dsimp only at e0; subst e0)
    | split
    | (refine Kept.of_snd (by assumption) ?_)
    | intro _ _ _ _
    | intro _ _ _
    | intro _ _
    | intro _
    | dsimp only

theorem kept_dmaData {u : Nat} {i : Nat} {dst : Nat} {data : List Word} (hl : [.free, .mem, .errs, .regs, .bays, .cus, .mus, .evt, .twin, .rel] ⊆ l) (h : Kept l a s) :
    Kept l a (State.dmaData s u i dst data) := by
  unfold State.dmaData
  with_reducible repeat' first
    | exact h
    | assumption
    | refine Kept.ite ?_ ?_
    | refine kept_writeMany (sub hl (by decide)) ?_ ?_
    | refine kept_writeLocal (sub hl (by decide)) ?_
    | refine kept_modDma (sub hl (by decide)) ?_
    | refine Kept.foldl ?_ ?_
    | (split; rename_i e; have e0 := congrArg (fun p => p.1) e; have e1 := congrArg (fun p => p.2) e; dsimp only at e0 e1; subst e0; subst e1)
    | (split; rename_i e; have e0 := congrArg (fun p => p.2) e; dsimp only at e0; subst e0)
    | split
    | (refine Kept.of_snd (by assumption) ?_)
    | intro _ _ _ _
    | intro _ _ _
    | intro _ _
    | intro _
    | dsimp only

theorem kept_dmaResponse {u : Nat} {r : MeshResponse} (hl : [.free, .mem, .errs, .regs, .bays, .cus, .mus, .evt, .twin, .rel] ⊆ l) (h : Kept l a s) :
    Kept l a (State.dmaResponse s u r) := by
  unfold State.dmaResponse
  with_reducible repeat' first
    | exact h
    | refine Kept.ite ?_ ?_
    | refine kept_modDma (sub hl (by decide)) ?_
    | refine kept_voteVoid (sub hl (by decide)) ?_
    | refine kept_dmaData (sub hl (by decide)) ?_
    | refine Kept.foldl ?_ ?_
    | split
    | intro _ _ _ _
    | intro _ _ _
    | intro _ _
    | intro _
    | dsimp only

end Sys2Proof.Machine
end

