-- ==== Sys2Proof/Laws/KeptMessages.lean ====
section
/-! SUPPORT. What each operation of Machine/Messages.lean may touch, and that it keeps the queue and the invariant. -/

namespace Sys2Proof.Machine

variable {l : List Comp} {a s : State}

theorem kept_modMsg {u : Nat} {f : Msg → Msg} (hl : [.cus] ⊆ l) (h : Kept l a s) :
    Kept l a (State.modMsg s u f) := by
  unfold State.modMsg
  with_reducible repeat' first
    | exact h
    | refine Kept.ite ?_ ?_
    | refine kept_modCu (sub hl (by decide)) ?_
    | dsimp only

theorem kept_modChan {u : Nat} {ch : Nat} {f : Chan → Chan} (hl : [.cus] ⊆ l) (h : Kept l a s) :
    Kept l a (State.modChan s u ch f) := by
  unfold State.modChan
  with_reducible repeat' first
    | exact h
    | refine Kept.ite ?_ ?_
    | refine kept_modCu (sub hl (by decide)) ?_
    | dsimp only

theorem kept_msgUnit {u : Nat} {ch : Nat} {j : SendJob} {k : Nat} (hl : [.free, .mem, .errs, .regs, .bays, .evt, .rel] ⊆ l) (h : Kept l a s) :
    Kept l a (State.msgUnit s u ch j k).2 := by
  unfold State.msgUnit
  with_reducible repeat' first
    | exact h
    | refine Kept.ite ?_ ?_
    | refine kept_readSp (sub hl (by decide)) ?_
    | refine Kept.foldl ?_ ?_
    | split
    | intro _ _ _ _
    | intro _ _ _
    | intro _ _
    | intro _
    | dsimp only

theorem kept_messageInject {u : Nat} {ch : Nat} (hl : [.free, .mem, .errs, .regs, .bays, .cus, .evt, .rel] ⊆ l) (h : Kept l a s) :
    Kept l a (State.messageInject s u ch) := by
  unfold State.messageInject
  with_reducible repeat' first
    | exact h
    | assumption
    | refine Kept.ite ?_ ?_
    | refine kept_readMany (sub hl (by decide)) ?_ ?_
    | refine kept_msgUnit (sub hl (by decide)) ?_
    | refine kept_modMsg (sub hl (by decide)) ?_
    | refine kept_modChan (sub hl (by decide)) ?_
    | refine Kept.foldl ?_ ?_
    | (split; rename_i e; have e0 := congrArg (fun p => p.1) e; have e1 := congrArg (fun p => p.2) e; dsimp only at e0 e1; subst e0; subst e1)
    | (split; rename_i e; have e0 := congrArg (fun p => p.2) e; dsimp only at e0; subst e0)
    | split
    | (refine Kept.of_snd (by assumption) ?_)
    | intro _ _ _ _
    | intro _ _ _
    | intro _ _
    | intro _
    | dsimp only

theorem runs_execMessageSendInject {t : Nat} {u : Nat} {ch : Nat} {s0 : State} (hl : [.free, .mem, .errs, .regs, .clk, .bays, .cus, .evt, .rel] ⊆ l) :
    Runs l s0 (execMessageSendInject t u ch s0) := by
  unfold execMessageSendInject
  refine Runs.next ?_
  have h := Kept.refl l s0
  with_reducible repeat' first
    | exact h
    | refine Kept.ite ?_ ?_
    | refine kept_masterTime (sub hl (by decide)) ?_
    | refine kept_messageInject (sub hl (by decide)) ?_
    | dsimp only

theorem kept_sendDone {u : Nat} {ch : Nat} (hl : [.cus] ⊆ l) (h : Kept l a s) :
    Kept l a (State.sendDone s u ch) := by
  unfold State.sendDone
  with_reducible repeat' first
    | exact h
    | refine Kept.ite ?_ ?_
    | refine kept_modChan (sub hl (by decide)) ?_
    | dsimp only

theorem kept_messageAnswer {u : Nat} {ch : Nat} {status : Nat} (hl : [.regs, .hsync, .bays, .cus, .evt] ⊆ l) (h : Kept l a s) :
    Kept l a (State.messageAnswer s u ch status) := by
  unfold State.messageAnswer
  with_reducible repeat' first
    | exact h
    | refine Kept.ite ?_ ?_
    | refine kept_sendDone (sub hl (by decide)) ?_
    | refine kept_addSync (sub hl (by decide)) ?_
    | refine kept_count (sub hl (by decide)) ?_
    | refine kept_modChan (sub hl (by decide)) ?_
    | refine Kept.foldl ?_ ?_
    | split
    | intro _ _ _ _
    | intro _ _ _
    | intro _ _
    | intro _
    | dsimp only

theorem kept_messageResponse {u : Nat} {ch : Nat} {status : Nat} (hl : [.regs, .hsync, .bays, .cus, .rtrs, .evt] ⊆ l) (h : Kept l a s) :
    Kept l a (State.messageResponse s u ch status) := by
  unfold State.messageResponse
  with_reducible repeat' first
    | exact h
    | assumption
    | refine Kept.ite ?_ ?_
    | refine kept_takeEjected (sub hl (by decide)) ?_
    | refine kept_count (sub hl (by decide)) ?_
    | refine kept_messageAnswer (sub hl (by decide)) ?_
    | refine Kept.foldl ?_ ?_
    | (split; rename_i e; have e0 := congrArg (fun p => p.1) e; have e1 := congrArg (fun p => p.2) e; dsimp only at e0 e1; subst e0; subst e1)
    | (split; rename_i e; have e0 := congrArg (fun p => p.2) e; dsimp only at e0; subst e0)
    | split
    | (refine Kept.of_snd (by assumption) ?_)
    | intro _ _ _ _
    | intro _ _ _
    | intro _ _
    | intro _
    | dsimp only

theorem runs_execMessageResponse {t : Nat} {u : Nat} {ch : Nat} {status : Nat} {s0 : State} (hl : [.regs, .clk, .hsync, .bays, .cus, .rtrs, .evt] ⊆ l) :
    Runs l s0 (execMessageResponse t u ch status s0) := by
  unfold execMessageResponse
  refine Runs.next ?_
  have h := Kept.refl l s0
  with_reducible repeat' first
    | exact h
    | refine Kept.ite ?_ ?_
    | refine kept_masterTime (sub hl (by decide)) ?_
    | refine kept_messageResponse (sub hl (by decide)) ?_
    | dsimp only

theorem kept_messageRetry {u : Nat} {ch : Nat} (hl : [.regs, .cus] ⊆ l) (h : Kept l a s) :
    Kept l a (State.messageRetry s u ch) := by
  unfold State.messageRetry
  with_reducible repeat' first
    | exact h
    | refine Kept.ite ?_ ?_
    | refine kept_count (sub hl (by decide)) ?_
    | refine kept_modChan (sub hl (by decide)) ?_
    | refine Kept.foldl ?_ ?_
    | split
    | intro _ _ _ _
    | intro _ _ _
    | intro _ _
    | intro _
    | dsimp only

theorem runs_execMessageRetry {t : Nat} {u : Nat} {ch : Nat} {s0 : State} (hl : [.regs, .clk, .cus] ⊆ l) :
    Runs l s0 (execMessageRetry t u ch s0) := by
  unfold execMessageRetry
  refine Runs.next ?_
  have h := Kept.refl l s0
  with_reducible repeat' first
    | exact h
    | refine Kept.ite ?_ ?_
    | refine kept_masterTime (sub hl (by decide)) ?_
    | refine kept_messageRetry (sub hl (by decide)) ?_
    | dsimp only

theorem kept_place {u : Nat} {k : Nat} {n : Nat} (hl : [.mem, .errs, .cus] ⊆ l) (h : Kept l a s) :
    KeptO l a (State.place s u k n) := by
  unfold State.place
  with_reducible repeat' first
    | exact h
    | refine Kept.ite ?_ ?_
    | refine kept_modMsg (sub hl (by decide)) ?_
    | refine kept_writeSp (sub hl (by decide)) ?_
    | exact KeptO.none
    | refine KeptO.some ?_
    | refine KeptO.ite ?_ ?_
    | exact KeptS.none
    | refine KeptS.some ?_
    | refine KeptS.getD ?_ ?_
    | refine Kept.foldl ?_ ?_
    | split
    | intro _ _ _ _
    | intro _ _ _
    | intro _ _
    | intro _
    | dsimp only

theorem kept_messageReply {p : MsgPart} {status : Nat} (hl : [.regs, .mus] ⊆ l) (h : Kept l a s) :
    Kept l a (State.messageReply s p status) := by
  unfold State.messageReply
  with_reducible repeat' first
    | exact h
    | refine Kept.ite ?_ ?_
    | refine kept_count (sub hl (by decide)) ?_
    | refine kept_reply (sub hl (by decide)) ?_
    | dsimp only

theorem kept_messagePart {p : MsgPart} (hl : [.mem, .errs, .regs, .hsync, .bays, .cus, .mus, .evt] ⊆ l) (h : Kept l a s) :
    Kept l a (State.messagePart s p) := by
  unfold State.messagePart
  with_reducible repeat' first
    | exact h
    | assumption
    | refine Kept.ite ?_ ?_
    | refine kept_writeMany (sub hl (by decide)) ?_ ?_
    | refine kept_writeSp (sub hl (by decide)) ?_
    | refine kept_modMsg (sub hl (by decide)) ?_
    | refine kept_addSync (sub hl (by decide)) ?_
    | refine kept_messageReply (sub hl (by decide)) ?_
    | refine Kept.foldl ?_ ?_
    | (split; rename_i e; have e0 := congrArg (fun p => p.1) e; have e1 := congrArg (fun p => p.2) e; dsimp only at e0 e1; subst e0; subst e1)
    | (split; rename_i e; have e0 := congrArg (fun p => p.2) e; dsimp only at e0; subst e0)
    | split
    | (refine Kept.of_snd (by assumption) ?_)
    | intro _ _ _ _
    | intro _ _ _
    | intro _ _
    | intro _
    | dsimp only

theorem kept_messageFirst {p : MsgPart} (hl : [.mem, .errs, .regs, .hsync, .bays, .cus, .mus, .evt] ⊆ l) (h : Kept l a s) :
    Kept l a (State.messageFirst s p) := by
  unfold State.messageFirst
  with_reducible repeat' first
    | exact h
    | assumption
    | refine Kept.ite ?_ ?_
    | refine kept_messagePart (sub hl (by decide)) ?_
    | refine kept_modMsg (sub hl (by decide)) ?_
    | refine kept_windowMiss (sub hl (by decide)) ?_
    | refine kept_place (sub hl (by decide)) ?_
    | exact KeptO.none
    | refine KeptO.some ?_
    | refine KeptO.ite ?_ ?_
    | exact KeptS.none
    | refine KeptS.some ?_
    | refine KeptS.getD ?_ ?_
    | refine Kept.foldl ?_ ?_
    | (split; rename_i e; have e0 := congrArg (fun p => p.1) e; have e1 := congrArg (fun p => p.2) e; dsimp only at e0 e1; subst e0; subst e1)
    | (split; rename_i e; have e0 := congrArg (fun p => p.2) e; dsimp only at e0; subst e0)
    | split
    | (refine Kept.of_snd (by assumption) ?_)
    | (refine KeptO.of (by assumption) ?_)
    | (refine KeptS.of (by assumption) ?_)
    | intro _ _ _ _
    | intro _ _ _
    | intro _ _
    | intro _
    | dsimp only

theorem kept_takePart {p : MsgPart} (hl : [.rtrs] ⊆ l) (h : Kept l a s) :
    Kept l a (State.takePart s p) := by
  unfold State.takePart
  with_reducible repeat' first
    | exact h
    | refine Kept.ite ?_ ?_
    | refine kept_takeEjected (sub hl (by decide)) ?_
    | dsimp only

theorem kept_messageCheck {p : MsgPart} {f : State → State} (hl : [.regs, .mus, .rtrs, .evt] ⊆ l) (h : Kept l a s) (hf : ∀ v0, Kept l a v0 → Kept l a (f v0)) :
    Kept l a (State.messageCheck s p f) := by
  unfold State.messageCheck
  with_reducible repeat' first
    | exact h
    | assumption
    | refine hf _ ?_
    | refine Kept.ite ?_ ?_
    | refine kept_takePart (sub hl (by decide)) ?_
    | refine kept_reply (sub hl (by decide)) ?_
    | refine kept_windowMiss (sub hl (by decide)) ?_
    | refine kept_count (sub hl (by decide)) ?_
    | dsimp only

theorem kept_messageArrival {p : MsgPart} (hl : [.mem, .errs, .regs, .hsync, .bays, .cus, .mus, .rtrs, .evt] ⊆ l) (h : Kept l a s) :
    Kept l a (State.messageArrival s p) := by
  unfold State.messageArrival
  with_reducible repeat' first
    | exact h
    | assumption
    | refine Kept.ite ?_ ?_
    | refine kept_messageCheck (sub hl (by decide)) ?_ ?_
    | refine kept_messageFirst (sub hl (by decide)) ?_
    | refine Kept.foldl ?_ ?_
    | (split; rename_i e; have e0 := congrArg (fun p => p.1) e; have e1 := congrArg (fun p => p.2) e; dsimp only at e0 e1; subst e0; subst e1)
    | (split; rename_i e; have e0 := congrArg (fun p => p.2) e; dsimp only at e0; subst e0)
    | split
    | (refine Kept.of_snd (by assumption) ?_)
    | intro _ _ _ _
    | intro _ _ _
    | intro _ _
    | intro _
    | dsimp only

theorem runs_execMessageArrival {t : Nat} {part : MsgPart} {s0 : State} (hl : [.mem, .errs, .regs, .clk, .hsync, .bays, .cus, .mus, .rtrs, .evt] ⊆ l) :
    Runs l s0 (execMessageArrival t part s0) := by
  unfold execMessageArrival
  refine Runs.next ?_
  have h := Kept.refl l s0
  with_reducible repeat' first
    | exact h
    | refine Kept.ite ?_ ?_
    | refine kept_masterTime (sub hl (by decide)) ?_
    | refine kept_messageArrival (sub hl (by decide)) ?_
    | dsimp only

theorem kept_messagePartArrival {p : MsgPart} (hl : [.mem, .errs, .regs, .hsync, .bays, .cus, .mus, .rtrs, .evt] ⊆ l) (h : Kept l a s) :
    Kept l a (State.messagePartArrival s p) := by
  unfold State.messagePartArrival
  with_reducible repeat' first
    | exact h
    | assumption
    | refine Kept.ite ?_ ?_
    | refine kept_messageCheck (sub hl (by decide)) ?_ ?_
    | refine kept_messagePart (sub hl (by decide)) ?_
    | refine kept_takePart (sub hl (by decide)) ?_
    | refine Kept.foldl ?_ ?_
    | (split; rename_i e; have e0 := congrArg (fun p => p.1) e; have e1 := congrArg (fun p => p.2) e; dsimp only at e0 e1; subst e0; subst e1)
    | (split; rename_i e; have e0 := congrArg (fun p => p.2) e; dsimp only at e0; subst e0)
    | split
    | (refine Kept.of_snd (by assumption) ?_)
    | intro _ _ _ _
    | intro _ _ _
    | intro _ _
    | intro _
    | dsimp only

theorem runs_execMessagePartArrival {t : Nat} {part : MsgPart} {s0 : State} (hl : [.mem, .errs, .regs, .clk, .hsync, .bays, .cus, .mus, .rtrs, .evt] ⊆ l) :
    Runs l s0 (execMessagePartArrival t part s0) := by
  unfold execMessagePartArrival
  refine Runs.next ?_
  have h := Kept.refl l s0
  with_reducible repeat' first
    | exact h
    | refine Kept.ite ?_ ?_
    | refine kept_masterTime (sub hl (by decide)) ?_
    | refine kept_messagePartArrival (sub hl (by decide)) ?_
    | dsimp only

theorem kept_ringRelease {u : Nat} {k : Nat} (hl : [.cus, .evt] ⊆ l) (h : Kept l a s) :
    Kept l a (State.ringRelease s u k) := by
  unfold State.ringRelease
  with_reducible repeat' first
    | exact h
    | refine Kept.ite ?_ ?_
    | refine kept_changeSync (sub hl (by decide)) ?_
    | refine kept_modMsg (sub hl (by decide)) ?_
    | dsimp only

theorem runs_execRingRelease {t : Nat} {u : Nat} {k : Nat} {s0 : State} (hl : [.regs, .bays, .cus, .evt] ⊆ l) :
    Runs l s0 (execRingRelease t u k s0) := by
  unfold execRingRelease
  refine Runs.next ?_
  have h := Kept.refl l s0
  with_reducible repeat' first
    | exact h
    | refine Kept.ite ?_ ?_
    | refine kept_bayTime (sub hl (by decide)) ?_
    | refine kept_ringRelease (sub hl (by decide)) ?_
    | dsimp only

end Sys2Proof.Machine
end

