-- ==== Sys2Proof/Laws/KeptMesh.lean ====
section
/-! SUPPORT. What each operation of Machine/Mesh.lean may touch, and that it keeps the queue and the invariant. -/

namespace Sys2Proof.Machine

variable {l : List Comp} {a s : State}

theorem kept_sourceAck {r : Nat} {entry : Nat} {status : Nat} (hl : [.bays, .mus] ⊆ l) (h : Kept l a s) :
    Kept l a (State.sourceAck s r entry status) := by
  unfold State.sourceAck
  with_reducible repeat' first
    | exact h
    | refine Kept.ite ?_ ?_
    | refine kept_modDsp (sub hl (by decide)) ?_
    | refine kept_voteVoid (sub hl (by decide)) ?_
    | dsimp only

theorem kept_ackSend {r : Nat} {dest : Nat} {entry : Nat} {status : Nat} {ctx : Nat} {lo : Nat} (hl : [.bays, .mus] ⊆ l) (h : Kept l a s) :
    Kept l a (State.ackSend s r dest entry status ctx lo) := by
  unfold State.ackSend
  with_reducible repeat' first
    | exact h
    | refine Kept.ite ?_ ?_
    | refine kept_sourceAck (sub hl (by decide)) ?_
    | refine kept_reply (sub hl (by decide)) ?_
    | dsimp only

theorem kept_branchAck {r : Nat} {e : Nat} {status : Nat} (hl : [.bays, .mus, .rtrs] ⊆ l) (h : Kept l a s) :
    Kept l a (State.branchAck s r e status) := by
  unfold State.branchAck
  with_reducible repeat' first
    | exact h
    | refine Kept.ite ?_ ?_
    | refine kept_ackSend (sub hl (by decide)) ?_
    | refine kept_modRtr (sub hl (by decide)) ?_
    | refine Kept.foldl ?_ ?_
    | split
    | intro _ _ _ _
    | intro _ _ _
    | intro _ _
    | intro _
    | dsimp only

theorem kept_ackCombine {r : Nat} {entry : Nat} {status : Nat} (hl : [.regs, .bays, .mus, .rtrs] ⊆ l) (h : Kept l a s) :
    Kept l a (State.ackCombine s r entry status) := by
  unfold State.ackCombine
  with_reducible repeat' first
    | exact h
    | assumption
    | refine Kept.ite ?_ ?_
    | refine kept_sourceAck (sub hl (by decide)) ?_
    | refine kept_branchAck (sub hl (by decide)) ?_
    | refine kept_takeEjected (sub hl (by decide)) ?_
    | refine kept_count (sub hl (by decide)) ?_
    | refine Kept.foldl ?_ ?_
    | (split; rename_i e; have e0 := congrArg (fun p => p.1) e; have e1 := congrArg (fun p => p.2) e; dsimp only at e0 e1; subst e0; subst e1)
    | (split; rename_i e; have e0 := congrArg (fun p => p.2) e; dsimp only at e0; subst e0)
    | split
    | (refine Kept.of_snd (by assumption) ?_)
    | intro _ _ _ _
    | intro _ _ _
    | intro _ _
    | intro _
    | dsimp only

theorem runs_execMulticastAckCombine {t : Nat} {r : Nat} {entry : Nat} {status : Nat} {s0 : State} (hl : [.regs, .clk, .bays, .mus, .rtrs] ⊆ l) :
    Runs l s0 (execMulticastAckCombine t r entry status s0) := by
  unfold execMulticastAckCombine
  refine Runs.next ?_
  have h := Kept.refl l s0
  with_reducible repeat' first
    | exact h
    | refine Kept.ite ?_ ?_
    | refine kept_masterTime (sub hl (by decide)) ?_
    | refine kept_ackCombine (sub hl (by decide)) ?_
    | dsimp only

theorem kept_unreachableDma {u : Nat} {p : MeshPacket} (hl : [.free, .mem, .errs, .regs, .bays, .cus, .mus, .evt, .twin, .rel] ⊆ l) (h : Kept l a s) :
    Kept l a (State.unreachableDma s u p) := by
  unfold State.unreachableDma
  with_reducible repeat' first
    | exact h
    | refine Kept.ite ?_ ?_
    | refine kept_dmaResponse (sub hl (by decide)) ?_
    | dsimp only

theorem kept_inject1 {c : Nat} {dst : Nat} {ext : Bool} {p : Packet} (hl : [.rtrs] ⊆ l) (h : Kept l a s) :
    Kept l a (State.inject1 s c dst ext p) := by
  unfold State.inject1
  with_reducible repeat' first
    | exact h
    | refine Kept.ite ?_ ?_
    | refine kept_stamp (sub hl (by decide)) ?_
    | refine kept_enterBuf (sub hl (by decide)) ?_
    | dsimp only

theorem kept_injectOffer {c : Nat} {i : Nat} {x0 : Offer} (hl : [.free, .mem, .errs, .regs, .hsync, .bays, .cus, .mus, .rtrs, .evt, .twin, .rel] ⊆ l) (h : Kept l a s) :
    Kept l a (State.injectOffer s c i x0) := by
  unfold State.injectOffer
  with_reducible repeat' first
    | exact h
    | refine Kept.ite ?_ ?_
    | refine kept_dmaTake (sub hl (by decide)) ?_
    | refine kept_inject1 (sub hl (by decide)) ?_
    | refine kept_unreachableDma (sub hl (by decide)) ?_
    | refine kept_modMsg (sub hl (by decide)) ?_
    | refine kept_messageAnswer (sub hl (by decide)) ?_
    | refine kept_modDsp (sub hl (by decide)) ?_
    | refine kept_sourceAck (sub hl (by decide)) ?_
    | refine Kept.foldl ?_ ?_
    | split
    | intro _ _ _ _
    | intro _ _ _
    | intro _ _
    | intro _
    | dsimp only

theorem kept_injectReply {c : Nat} {p : Packet} {rest : List Packet} (hl : [.mus, .rtrs] ⊆ l) (h : Kept l a s) :
    Kept l a (State.injectReply s c p rest) := by
  unfold State.injectReply
  with_reducible repeat' first
    | exact h
    | refine Kept.ite ?_ ?_
    | refine kept_modMu (sub hl (by decide)) ?_
    | refine kept_inject1 (sub hl (by decide)) ?_
    | refine Kept.foldl ?_ ?_
    | split
    | intro _ _ _ _
    | intro _ _ _
    | intro _ _
    | intro _
    | dsimp only

theorem kept_injectNew {c : Nat} (hl : [.free, .mem, .errs, .regs, .hsync, .bays, .cus, .mus, .rtrs, .evt, .twin, .rel] ⊆ l) (h : Kept l a s) :
    Kept l a (State.injectNew s c) := by
  unfold State.injectNew
  with_reducible repeat' first
    | exact h
    | refine Kept.ite ?_ ?_
    | refine kept_injectOffer (sub hl (by decide)) ?_
    | refine kept_modMu (sub hl (by decide)) ?_
    | refine Kept.foldl ?_ ?_
    | split
    | intro _ _ _ _
    | intro _ _ _
    | intro _ _
    | intro _
    | dsimp only

theorem kept_injectFlit {c : Nat} (hl : [.free, .mem, .errs, .regs, .hsync, .bays, .cus, .mus, .rtrs, .evt, .twin, .rel] ⊆ l) (h : Kept l a s) :
    Kept l a (State.injectFlit s c) := by
  unfold State.injectFlit
  with_reducible repeat' first
    | exact h
    | refine Kept.ite ?_ ?_
    | refine kept_stamp (sub hl (by decide)) ?_
    | refine kept_moreBuf (sub hl (by decide)) ?_
    | refine kept_injectReply (sub hl (by decide)) ?_
    | refine kept_injectNew (sub hl (by decide)) ?_
    | refine Kept.foldl ?_ ?_
    | split
    | intro _ _ _ _
    | intro _ _ _
    | intro _ _
    | intro _
    | dsimp only

theorem kept_meshInject {c : Nat} (hl : [.free, .mem, .errs, .regs, .hsync, .bays, .cus, .mus, .rtrs, .evt, .twin, .rel] ⊆ l) (h : Kept l a s) :
    Kept l a (State.meshInject s c) := by
  unfold State.meshInject
  with_reducible repeat' first
    | exact h
    | refine Kept.ite ?_ ?_
    | refine kept_injectFlit (sub hl (by decide)) ?_
    | refine Kept.foldl ?_ ?_
    | split
    | intro _ _ _ _
    | intro _ _ _
    | intro _ _
    | intro _
    | dsimp only

theorem runs_execMeshInject {t : Nat} {c : Nat} {s0 : State} (hl : [.free, .mem, .errs, .regs, .clk, .hsync, .bays, .cus, .mus, .rtrs, .evt, .twin, .rel] ⊆ l) :
    Runs l s0 (execMeshInject t c s0) := by
  unfold execMeshInject
  refine Runs.next ?_
  have h := Kept.refl l s0
  with_reducible repeat' first
    | exact h
    | refine Kept.ite ?_ ?_
    | refine kept_masterTime (sub hl (by decide)) ?_
    | refine kept_meshInject (sub hl (by decide)) ?_
    | dsimp only

theorem kept_dropChain {r : Nat} {k : Nat} {x0 : Nat} (hl : [.rtrs] ⊆ l) (h : Kept l a s) :
    Kept l a (State.dropChain s r k x0) := by
  induction x0 generalizing s r k with
  | zero =>
    unfold State.dropChain
    with_reducible repeat' first
      | exact h
      | assumption
      | refine Kept.ite ?_ ?_
      | refine kept_setBuf (sub hl (by decide)) ?_
      | refine Kept.foldl ?_ ?_
      | (split; rename_i e; have e0 := congrArg (fun p => p.1) e; have e1 := congrArg (fun p => p.2) e; dsimp only at e0 e1; subst e0; subst e1)
      | (split; rename_i e; have e0 := congrArg (fun p => p.2) e; dsimp only at e0; subst e0)
      | split
      | (refine Kept.of_snd (by assumption) ?_)
      | intro _ _ _ _
      | intro _ _ _
      | intro _ _
      | intro _
      | dsimp only
  | succ n ih =>
    unfold State.dropChain
    with_reducible repeat' first
      | exact h
      | refine ih ?_
      | assumption
      | refine Kept.ite ?_ ?_
      | refine kept_setBuf (sub hl (by decide)) ?_
      | refine Kept.foldl ?_ ?_
      | (split; rename_i e; have e0 := congrArg (fun p => p.1) e; have e1 := congrArg (fun p => p.2) e; dsimp only at e0 e1; subst e0; subst e1)
      | (split; rename_i e; have e0 := congrArg (fun p => p.2) e; dsimp only at e0; subst e0)
      | split
      | (refine Kept.of_snd (by assumption) ?_)
      | intro _ _ _ _
      | intro _ _ _
      | intro _ _
      | intro _
      | dsimp only

theorem kept_discardPacket {r : Nat} {cls : Nat} {i : Nat} {m : Moving} (hl : [.regs, .rtrs, .evt, .rel] ⊆ l) (h : Kept l a s) :
    Kept l a (State.discardPacket s r cls i m) := by
  unfold State.discardPacket
  with_reducible repeat' first
    | exact h
    | assumption
    | refine Kept.ite ?_ ?_
    | refine kept_setBuf (sub hl (by decide)) ?_
    | refine kept_dropChain (sub hl (by decide)) ?_
    | refine kept_detect (sub hl (by decide)) ?_
    | refine kept_raise (sub hl (by decide)) ?_
    | refine kept_count (sub hl (by decide)) ?_
    | refine Kept.foldl ?_ ?_
    | (split; rename_i e; have e0 := congrArg (fun p => p.1) e; have e1 := congrArg (fun p => p.2) e; dsimp only at e0 e1; subst e0; subst e1)
    | (split; rename_i e; have e0 := congrArg (fun p => p.2) e; dsimp only at e0; subst e0)
    | split
    | (refine Kept.of_snd (by assumption) ?_)
    | intro _ _ _ _
    | intro _ _ _
    | intro _ _
    | intro _
    | dsimp only

theorem kept_bodyBad {r : Nat} {out : Nat} {m : Moving} (hl : [.bays, .hbm, .sites] ⊆ l) (h : Kept l a s) :
    Kept l a (State.bodyBad s r out m) := by
  unfold State.bodyBad
  with_reducible repeat' first
    | exact h
    | refine Kept.ite ?_ ?_
    | refine kept_voidStack (sub hl (by decide)) ?_
    | refine kept_voidSite (sub hl (by decide)) ?_
    | refine kept_voteVoid (sub hl (by decide)) ?_
    | refine Kept.foldl ?_ ?_
    | split
    | intro _ _ _ _
    | intro _ _ _
    | intro _ _
    | intro _
    | dsimp only

theorem kept_bodyDetect {r : Nat} {m : Moving} (hl : [.regs, .rel] ⊆ l) (h : Kept l a s) :
    Kept l a (State.bodyDetect s r m) := by
  unfold State.bodyDetect
  with_reducible repeat' first
    | exact h
    | assumption
    | refine Kept.ite ?_ ?_
    | refine kept_detect (sub hl (by decide)) ?_
    | refine kept_count (sub hl (by decide)) ?_
    | refine Kept.foldl ?_ ?_
    | refine Kept.foldl₂ ?_ ?_
    | refine Kept.foldl₁ ?_ ?_
    | (split; rename_i e; have e0 := congrArg (fun p => p.1) e; have e1 := congrArg (fun p => p.2.1) e; have e2 := congrArg (fun p => p.2.2.1) e; have e3 := congrArg (fun p => p.2.2.2) e; dsimp only at e0 e1 e2 e3; subst e0; subst e1; subst e2; subst e3)
    | (split; rename_i e; have e0 := congrArg (fun p => p.1) e; have e1 := congrArg (fun p => p.2.1) e; have e2 := congrArg (fun p => p.2.2) e; dsimp only at e0 e1 e2; subst e0; subst e1; subst e2)
    | (split; rename_i e; have e0 := congrArg (fun p => p.1) e; have e1 := congrArg (fun p => p.2) e; dsimp only at e0 e1; subst e0; subst e1)
    | (split; rename_i e; have e0 := congrArg (fun p => p.2) e; dsimp only at e0; subst e0)
    | (split; rename_i e; have e0 := congrArg (fun p => p.1) e; dsimp only at e0; subst e0)
    | split
    | (refine Kept.of_snd (by assumption) ?_)
    | intro _ _ _ _
    | intro _ _ _
    | intro _ _
    | intro _
    | dsimp only

theorem kept_linkCorrected {r : Nat} (hl : [.regs, .panels] ⊆ l) (h : Kept l a s) :
    Kept l a (State.linkCorrected s r) := by
  unfold State.linkCorrected
  with_reducible repeat' first
    | exact h
    | refine Kept.ite ?_ ?_
    | refine kept_modPanel (sub hl (by decide)) ?_
    | refine kept_count (sub hl (by decide)) ?_
    | dsimp only

theorem kept_mcDeliver {r : Nat} {m : Multicast} (hl : [.free, .mem, .errs, .regs, .bays, .mus, .evt, .twin, .rel] ⊆ l) (h : Kept l a s) :
    Kept l a (State.mcDeliver s r m).2 := by
  unfold State.mcDeliver
  with_reducible repeat' first
    | exact h
    | refine Kept.ite ?_ ?_
    | refine kept_staleCount (sub hl (by decide)) ?_
    | refine kept_pathWords (sub hl (by decide)) ?_
    | refine kept_remoteStorage (sub hl (by decide)) ?_
    | refine Kept.foldl ?_ ?_
    | split
    | intro _ _ _ _
    | intro _ _ _
    | intro _ _
    | intro _
    | dsimp only

theorem kept_mcLand {r : Nat} {mc : Multicast} {up : Nat} {entry : Nat} (hl : [.free, .mem, .errs, .regs, .bays, .mus, .rtrs, .evt, .twin, .rel] ⊆ l) (h : Kept l a s) :
    Kept l a (State.mcLand s r mc up entry) := by
  unfold State.mcLand
  with_reducible repeat' first
    | exact h
    | assumption
    | refine Kept.ite ?_ ?_
    | refine kept_mcDeliver (sub hl (by decide)) ?_
    | refine kept_branchAck (sub hl (by decide)) ?_
    | refine kept_ackSend (sub hl (by decide)) ?_
    | refine Kept.foldl ?_ ?_
    | (split; rename_i e; have e0 := congrArg (fun p => p.1) e; have e1 := congrArg (fun p => p.2) e; dsimp only at e0 e1; subst e0; subst e1)
    | (split; rename_i e; have e0 := congrArg (fun p => p.2) e; dsimp only at e0; subst e0)
    | split
    | (refine Kept.of_snd (by assumption) ?_)
    | intro _ _ _ _
    | intro _ _ _
    | intro _ _
    | intro _
    | dsimp only

theorem kept_controlAnswer {r : Nat} {p : MeshPacket} (hl : [.bays, .rtrs, .evt] ⊆ l) (h : Kept l a s) :
    Kept l a (State.controlAnswer s r p) := by
  unfold State.controlAnswer
  with_reducible repeat' first
    | exact h
    | refine Kept.ite ?_ ?_
    | refine kept_addrFault (sub hl (by decide)) ?_
    | refine kept_enterExternal (sub hl (by decide)) ?_
    | refine Kept.foldl ?_ ?_
    | split
    | intro _ _ _ _
    | intro _ _ _
    | intro _ _
    | intro _
    | dsimp only

theorem kept_eject {r : Nat} {out : Nat} {m : Moving} (hl : [.free, .mem, .errs, .regs, .bays, .mus, .rtrs, .evt, .hbm, .sites, .twin, .rel] ⊆ l) (h : Kept l a s) :
    Kept l a (State.eject s r out m) := by
  unfold State.eject
  with_reducible repeat' first
    | exact h
    | refine Kept.ite ?_ ?_
    | refine kept_bodyBad (sub hl (by decide)) ?_
    | refine kept_modRtr (sub hl (by decide)) ?_
    | refine kept_mcLand (sub hl (by decide)) ?_
    | refine kept_controlAnswer (sub hl (by decide)) ?_
    | refine kept_endpointAnswer (sub hl (by decide)) ?_
    | refine Kept.foldl ?_ ?_
    | split
    | intro _ _ _ _
    | intro _ _ _
    | intro _ _
    | intro _
    | dsimp only

theorem kept_moveFlit {r : Nat} {cls : Nat} {out : Nat} {i : Nat} {m : Moving} (hl : [.free, .mem, .errs, .regs, .bays, .mus, .rtrs, .evt, .hbm, .sites, .twin, .rel] ⊆ l) (h : Kept l a s) :
    Kept l a (State.moveFlit s r cls out i m) := by
  unfold State.moveFlit
  with_reducible repeat' first
    | exact h
    | refine Kept.ite ?_ ?_
    | refine kept_count (sub hl (by decide)) ?_
    | refine kept_setBuf (sub hl (by decide)) ?_
    | refine kept_stamp (sub hl (by decide)) ?_
    | refine kept_modRtr (sub hl (by decide)) ?_
    | refine kept_eject (sub hl (by decide)) ?_
    | refine kept_enterBuf (sub hl (by decide)) ?_
    | refine kept_moreBuf (sub hl (by decide)) ?_
    | dsimp only

theorem kept_routerHold {r : Nat} {out : Nat} {g : Option (Nat × Nat)} (hl : [.regs, .rtrs] ⊆ l) (h : Kept l a s) :
    Kept l a (State.routerHold s r out g) := by
  unfold State.routerHold
  with_reducible repeat' first
    | exact h
    | refine Kept.ite ?_ ?_
    | refine kept_stamp (sub hl (by decide)) ?_
    | refine kept_count (sub hl (by decide)) ?_
    | dsimp only

theorem kept_routerForward {r : Nat} {out : Nat} {bad : Nat} (hl : [.free, .mem, .errs, .regs, .bays, .panels, .mus, .rtrs, .evt, .hbm, .sites, .twin, .rel] ⊆ l) (h : Kept l a s) :
    Kept l a (State.routerForward s r out bad) := by
  unfold State.routerForward
  with_reducible repeat' first
    | exact h
    | refine Kept.ite ?_ ?_
    | refine kept_routerHold (sub hl (by decide)) ?_
    | refine kept_extFlits (sub hl (by decide)) ?_
    | refine kept_discardPacket (sub hl (by decide)) ?_
    | refine kept_moveFlit (sub hl (by decide)) ?_
    | refine kept_bodyDetect (sub hl (by decide)) ?_
    | refine kept_linkCorrected (sub hl (by decide)) ?_
    | refine Kept.foldl ?_ ?_
    | split
    | intro _ _ _ _
    | intro _ _ _
    | intro _ _
    | intro _
    | dsimp only

theorem runs_execRouterForward {t : Nat} {r : Nat} {out : Nat} {bad : Nat} {s0 : State} (hl : [.free, .mem, .errs, .regs, .clk, .bays, .panels, .mus, .rtrs, .evt, .hbm, .sites, .twin, .rel] ⊆ l) :
    Runs l s0 (execRouterForward t r out bad s0) := by
  unfold execRouterForward
  refine Runs.next ?_
  have h := Kept.refl l s0
  with_reducible repeat' first
    | exact h
    | refine Kept.ite ?_ ?_
    | refine kept_masterTime (sub hl (by decide)) ?_
    | refine kept_muHold (sub hl (by decide)) ?_ ?_
    | refine kept_routerForward (sub hl (by decide)) ?_
    | dsimp only

theorem kept_mcOpen {r : Nat} {i : Nat} {mc : Multicast} (hl : [.rtrs] ⊆ l) (h : Kept l a s) :
    Kept l a (State.mcOpen s r i mc) := by
  unfold State.mcOpen
  with_reducible repeat' first
    | exact h
    | refine Kept.ite ?_ ?_
    | refine kept_setBuf (sub hl (by decide)) ?_
    | refine kept_modRtr (sub hl (by decide)) ?_
    | refine Kept.foldl ?_ ?_
    | split
    | intro _ _ _ _
    | intro _ _ _
    | intro _ _
    | intro _
    | dsimp only

theorem kept_multicastReplicate {r : Nat} {mc : Multicast} (hl : [.rtrs] ⊆ l) (h : Kept l a s) :
    Kept l a (State.multicastReplicate s r mc) := by
  unfold State.multicastReplicate
  with_reducible repeat' first
    | exact h
    | assumption
    | refine Kept.ite ?_ ?_
    | refine kept_mcOpen (sub hl (by decide)) ?_
    | refine kept_enterExternal (sub hl (by decide)) ?_
    | refine Kept.foldl ?_ ?_
    | (split; rename_i e; have e0 := congrArg (fun p => p.1) e; have e1 := congrArg (fun p => p.2) e; dsimp only at e0 e1; subst e0; subst e1)
    | (split; rename_i e; have e0 := congrArg (fun p => p.2) e; dsimp only at e0; subst e0)
    | split
    | (refine Kept.of_snd (by assumption) ?_)
    | intro _ _ _ _
    | intro _ _ _
    | intro _ _
    | intro _
    | dsimp only

theorem runs_execMulticastReplicate {t : Nat} {r : Nat} {mc : Multicast} {s0 : State} (hl : [.clk, .rtrs] ⊆ l) :
    Runs l s0 (execMulticastReplicate t r mc s0) := by
  unfold execMulticastReplicate
  refine Runs.next ?_
  have h := Kept.refl l s0
  with_reducible repeat' first
    | exact h
    | refine Kept.ite ?_ ?_
    | refine kept_masterTime (sub hl (by decide)) ?_
    | refine kept_multicastReplicate (sub hl (by decide)) ?_
    | dsimp only

theorem kept_takeMcAck {r : MeshResponse} (hl : [.rtrs] ⊆ l) (h : Kept l a s) :
    Kept l a (State.takeMcAck s r).2 := by
  unfold State.takeMcAck
  with_reducible repeat' first
    | exact h
    | assumption
    | refine Kept.ite ?_ ?_
    | refine kept_takeEjected (sub hl (by decide)) ?_
    | refine Kept.foldl ?_ ?_
    | (split; rename_i e; have e0 := congrArg (fun p => p.1) e; have e1 := congrArg (fun p => p.2) e; dsimp only at e0 e1; subst e0; subst e1)
    | (split; rename_i e; have e0 := congrArg (fun p => p.2) e; dsimp only at e0; subst e0)
    | split
    | (refine Kept.of_snd (by assumption) ?_)
    | intro _ _ _ _
    | intro _ _ _
    | intro _ _
    | intro _
    | dsimp only

theorem kept_responseReceive {r : MeshResponse} (hl : [.free, .mem, .errs, .regs, .bays, .cus, .mus, .rtrs, .evt, .sites, .twin, .rel] ⊆ l) (h : Kept l a s) :
    Kept l a (State.responseReceive s r) := by
  unfold State.responseReceive
  with_reducible repeat' first
    | exact h
    | refine Kept.ite ?_ ?_
    | refine kept_takeEjected (sub hl (by decide)) ?_
    | refine kept_endpointAnswer (sub hl (by decide)) ?_
    | refine kept_count (sub hl (by decide)) ?_
    | refine kept_dmaResponse (sub hl (by decide)) ?_
    | refine kept_takeMcAck (sub hl (by decide)) ?_
    | refine kept_sourceAck (sub hl (by decide)) ?_
    | dsimp only

theorem runs_execMeshResponseReceive {t : Nat} {resp : MeshResponse} {s0 : State} (hl : [.free, .mem, .errs, .regs, .clk, .bays, .cus, .mus, .rtrs, .evt, .sites, .twin, .rel] ⊆ l) :
    Runs l s0 (execMeshResponseReceive t resp s0) := by
  unfold execMeshResponseReceive
  refine Runs.next ?_
  have h := Kept.refl l s0
  with_reducible repeat' first
    | exact h
    | refine Kept.ite ?_ ?_
    | refine kept_masterTime (sub hl (by decide)) ?_
    | refine kept_muHold (sub hl (by decide)) ?_ ?_
    | refine kept_responseReceive (sub hl (by decide)) ?_
    | dsimp only

end Sys2Proof.Machine
end

