-- ==== Sys2Proof/Laws/KeptInventory.lean ====
section
/-! SUPPORT. What each operation of Machine/Inventory.lean may touch, and that it keeps the queue and the invariant. -/

namespace Sys2Proof.Machine

variable {l : List Comp} {a s : State}

theorem kept_writeInventory (hl : [.regs] ⊆ l) (h : Kept l a s) :
    Kept l a (State.writeInventory s) := by
  unfold State.writeInventory
  with_reducible repeat' first
    | exact h
    | assumption
    | refine Kept.ite ?_ ?_
    | refine kept_setReg (sub hl (by decide)) ?_
    | refine Kept.foldl ?_ ?_
    | (split; rename_i e; have e0 := congrArg (fun p => p.1) e; have e1 := congrArg (fun p => p.2) e; dsimp only at e0 e1; subst e0; subst e1)
    | (split; rename_i e; have e0 := congrArg (fun p => p.2) e; dsimp only at e0; subst e0)
    | split
    | (refine Kept.of_snd (by assumption) ?_)
    | intro _ _ _ _
    | intro _ _ _
    | intro _ _
    | intro _
    | dsimp only

theorem kept_announce (hl : [.regs, .evt] ⊆ l) (h : Kept l a s) :
    Kept l a (State.announce s) := by
  unfold State.announce
  with_reducible repeat' first
    | exact h
    | refine Kept.ite ?_ ?_
    | refine kept_raise (sub hl (by decide)) ?_
    | refine kept_writeInventory (sub hl (by decide)) ?_
    | dsimp only

end Sys2Proof.Machine
end

