-- ==== Sys2Proof/Laws/KeptFaults.lean ====
section
/-! SUPPORT. What each operation of Machine/Faults.lean may touch, and that it keeps the queue and the invariant. -/

namespace Sys2Proof.Machine

variable {l : List Comp} {a s : State}

theorem kept_inventoryAgain (hl : [.regs, .evt] ⊆ l) (h : Kept l a s) :
    Kept l a (State.inventoryAgain s) := by
  unfold State.inventoryAgain
  with_reducible repeat' first
    | exact h
    | refine Kept.ite ?_ ?_
    | refine kept_announce (sub hl (by decide)) ?_
    | dsimp only

theorem kept_queueFlit {t : Nat} {type : Nat} {spec : BitVec 64} {payload : List Word} (hl : [.sites] ⊆ l) (h : Kept l a s) :
    Kept l a (State.queueFlit s t type spec payload) := by
  unfold State.queueFlit
  with_reducible repeat' first
    | exact h
    | refine Kept.ite ?_ ?_
    | refine kept_modSite (sub hl (by decide)) ?_
    | dsimp only

theorem kept_sendFatal (hl : [.sites, .twin] ⊆ l) (h : Kept l a s) :
    Kept l a (State.sendFatal s) := by
  unfold State.sendFatal
  repeat' first
    | with_reducible exact h
    | with_reducible refine Kept.ite ?_ ?_
    | with_reducible refine kept_queueFlit (sub hl (by decide)) ?_
    | (intro k hk; cases k <;> first | exact absurd (hl (by decide)) hk | rfl | exact ⟨rfl, rfl⟩)
    | (simp only [kept_lit]; refine KeptUpd.intro ?_ ?_ ⟨rfl, rfl, rfl⟩)
    | dsimp only

theorem kept_fatalNotice (hl : [.sites, .twin] ⊆ l) (h : Kept l a s) :
    Kept l a (State.fatalNotice s) := by
  unfold State.fatalNotice
  with_reducible repeat' first
    | exact h
    | refine Kept.ite ?_ ?_
    | refine kept_sendFatal (sub hl (by decide)) ?_
    | dsimp only

theorem kept_haltCtx {k : Nat} {failed : Bool} (hl : [.ctxs, .evt] ⊆ l) (h : Kept l a s) :
    Kept l a (State.haltCtx s k failed) := by
  unfold State.haltCtx
  with_reducible repeat' first
    | exact h
    | refine Kept.ite ?_ ?_
    | refine kept_setCtx (sub hl (by decide)) ?_
    | refine kept_raise (sub hl (by decide)) ?_
    | refine Kept.foldl ?_ ?_
    | split
    | intro _ _ _ _
    | intro _ _ _
    | intro _ _
    | intro _
    | dsimp only

theorem kept_lossVoid (hl : [.stitch] ⊆ l) (h : Kept l a s) :
    Kept l a (State.lossVoid s) := by
  unfold State.lossVoid
  with_reducible repeat' first
    | exact h
    | refine Kept.ite ?_ ?_
    | refine kept_modStitch (sub hl (by decide)) ?_
    | dsimp only

theorem kept_failCtx {k : Nat} {f : FaultPlace} (hl : [.regs, .stitch, .ctxs, .evt, .sites, .twin] ⊆ l) (h : Kept l a s) :
    Kept l a (State.failCtx s k f) := by
  unfold State.failCtx
  with_reducible repeat' first
    | exact h
    | refine Kept.ite ?_ ?_
    | refine kept_haltCtx (sub hl (by decide)) ?_
    | refine kept_lossVoid (sub hl (by decide)) ?_
    | refine kept_setReg (sub hl (by decide)) ?_
    | refine kept_fatalNotice (sub hl (by decide)) ?_
    | refine Kept.foldl ?_ ?_
    | split
    | intro _ _ _ _
    | intro _ _ _
    | intro _ _
    | intro _
    | dsimp only

theorem kept_failCtxs {p : Ctx → Bool} {f : FaultPlace} (hl : [.regs, .stitch, .ctxs, .evt, .sites, .twin] ⊆ l) (h : Kept l a s) :
    Kept l a (State.failCtxs s p f) := by
  unfold State.failCtxs
  with_reducible repeat' first
    | exact h
    | assumption
    | refine Kept.ite ?_ ?_
    | refine kept_failCtx (sub hl (by decide)) ?_
    | refine Kept.foldl ?_ ?_
    | (split; rename_i e; have e0 := congrArg (fun p => p.1) e; have e1 := congrArg (fun p => p.2) e; dsimp only at e0 e1; subst e0; subst e1)
    | (split; rename_i e; have e0 := congrArg (fun p => p.2) e; dsimp only at e0; subst e0)
    | split
    | (refine Kept.of_snd (by assumption) ?_)
    | intro _ _ _ _
    | intro _ _ _
    | intro _ _
    | intro _
    | dsimp only

theorem kept_logRecord {type : Nat} {body : BitVec 128} (hl : [.store] ⊆ l) (h : Kept l a s) :
    Kept l a (State.logRecord s type body) := by
  unfold State.logRecord
  repeat' first
    | with_reducible exact h
    | with_reducible refine Kept.ite ?_ ?_
    | (intro k hk; cases k <;> first | exact absurd (hl (by decide)) hk | rfl | exact ⟨rfl, rfl⟩)
    | (simp only [kept_lit]; refine KeptUpd.intro ?_ ?_ ⟨rfl, rfl, rfl⟩)
    | dsimp only

theorem kept_writeCrease {f : Crease → Crease} (hl : [.store] ⊆ l) (h : Kept l a s) :
    Kept l a (State.writeCrease s f) := by
  unfold State.writeCrease
  repeat' first
    | with_reducible exact h
    | with_reducible refine Kept.ite ?_ ?_
    | with_reducible refine kept_logRecord (sub hl (by decide)) ?_
    | (intro k hk; cases k <;> first | exact absurd (hl (by decide)) hk | rfl | exact ⟨rfl, rfl⟩)
    | (simp only [kept_lit]; refine KeptUpd.intro ?_ ?_ ⟨rfl, rfl, rfl⟩)
    | dsimp only

theorem kept_writeStack {st : Nat} {out : List Nat} (hl : [.store] ⊆ l) (h : Kept l a s) :
    Kept l a (State.writeStack s st out) := by
  unfold State.writeStack
  with_reducible repeat' first
    | exact h
    | refine Kept.ite ?_ ?_
    | refine kept_writeCrease (sub hl (by decide)) ?_
    | dsimp only

theorem kept_writeSite {t : Nat} {peer : Reg} (hl : [.store] ⊆ l) (h : Kept l a s) :
    Kept l a (State.writeSite s t peer) := by
  unfold State.writeSite
  with_reducible repeat' first
    | exact h
    | refine Kept.ite ?_ ?_
    | refine kept_writeCrease (sub hl (by decide)) ?_
    | dsimp only

end Sys2Proof.Machine
end

