-- ==== Sys2Proof/Laws/KeptHbmRows.lean ====
section
/-! SUPPORT. What each operation of Machine/HbmRows.lean may touch, and that it keeps the queue and the invariant. -/

namespace Sys2Proof.Machine

variable {l : List Comp} {a s : State}

theorem kept_remoteExternal {x : Nat} {n : Nat} {write : Bool} {who : Sender} {unit : Nat} {data : List Word} (hl : [.free, .mem, .errs, .regs, .ctxs, .bays, .evt, .hbm, .twin, .rel] ⊆ l) (h : Kept l a s) :
    Kept l a (State.remoteExternal s x n write who unit data).2.2 := by
  unfold State.remoteExternal
  with_reducible repeat' first
    | exact h
    | refine Kept.ite ?_ ?_
    | refine kept_addrFault (sub hl (by decide)) ?_
    | refine kept_hbmPuts (sub hl (by decide)) ?_
    | refine kept_hbmWrite (sub hl (by decide)) ?_
    | refine kept_hbmReadWords (sub hl (by decide)) ?_
    | refine Kept.foldl ?_ ?_
    | split
    | intro _ _ _ _
    | intro _ _ _
    | intro _ _
    | intro _
    | dsimp only

theorem kept_takeRequest {r : Nat} {x0 : Nat} {write : Bool} (hl : [.rtrs] ⊆ l) (h : Kept l a s) :
    Kept l a (State.takeRequest s r x0 write).2 := by
  unfold State.takeRequest
  with_reducible repeat' first
    | exact h
    | assumption
    | refine Kept.ite ?_ ?_
    | refine kept_takeEjected (sub hl (by decide)) ?_
    | refine Kept.foldl ?_ ?_
    | (split; rename_i e; have e0 := congrArg (fun p => p.1) e; have e1 := congrArg (fun p => p.2) e; dsimp only at e0 e1; subst e0; subst e1)
    | (split; rename_i e; have e0 := congrArg (fun p => p.2) e; dsimp only at e0; subst e0)
    | split
    | (refine Kept.of_snd (by assumption) ?_)
    | intro _ _ _ _
    | intro _ _ _
    | intro _ _
    | intro _
    | dsimp only

theorem kept_serveExternal {r : Nat} {p : MeshPacket} (hl : [.free, .mem, .errs, .regs, .ctxs, .bays, .rtrs, .evt, .hbm, .twin, .rel] ⊆ l) (h : Kept l a s) :
    Kept l a (State.serveExternal s r p) := by
  unfold State.serveExternal
  with_reducible repeat' first
    | exact h
    | refine Kept.ite ?_ ?_
    | refine kept_remoteExternal (sub hl (by decide)) ?_
    | refine kept_enterExternal (sub hl (by decide)) ?_
    | refine Kept.foldl ?_ ?_
    | split
    | intro _ _ _ _
    | intro _ _ _
    | intro _ _
    | intro _
    | dsimp only

theorem kept_none (q : Answer) (s1 : State) (r : Nat) (hr : Kept l a q.2.2) :
    Kept l a (match ((none : Option MeshPacket), s1) with
      | (some p, s1) => s1.serveExternal r p
      | (none, _) => q.2.2) := hr

theorem kept_hbmReadCmd {addr : Nat} (hl : [.free, .mem, .errs, .regs, .ctxs, .bays, .rtrs, .evt, .hbm, .twin, .rel] ⊆ l) (h : Kept l a s) :
    Kept l a (State.hbmReadCmd s addr) := by
  unfold State.hbmReadCmd
  dsimp only
  generalize s.hbmRouter addr = r
  have ht := kept_takeRequest (r := r) (x0 := addr) (write := false) (sub hl (by decide)) h
  generalize s.takeRequest r addr false = o at ht ⊢
  have hr := kept_remoteExternal (x := addr / 16 * 16) (n := 1) (write := false)
    (who := .outside (240 + (s.hbmPlace addr).stack) r) (unit := 9) (data := []) (sub hl (by decide)) h
  generalize s.remoteExternal (addr / 16 * 16) 1 false (.outside (240 + (s.hbmPlace addr).stack) r) 9 [] = q at hr ⊢
  obtain ⟨p, s1⟩ := o
  cases p with
  | none => exact kept_none q s1 r hr
  | some p => exact kept_serveExternal (sub hl (by decide)) ht

theorem runs_execHbmRead {t : Nat} {addr : Nat} {s0 : State} (hl : [.free, .mem, .errs, .regs, .clk, .ctxs, .bays, .rtrs, .evt, .hbm, .twin, .rel] ⊆ l) :
    Runs l s0 (execHbmRead t addr s0) := by
  unfold execHbmRead
  refine Runs.next ?_
  have h := Kept.refl l s0
  with_reducible repeat' first
    | exact h
    | refine Kept.ite ?_ ?_
    | refine kept_hbmReadCmd (sub hl (by decide)) ?_
    | refine kept_masterTime (sub hl (by decide)) ?_
    | dsimp only

theorem kept_hbmWriteCmd {addr : Nat} {data : List Byte} (hl : [.free, .mem, .errs, .regs, .ctxs, .bays, .rtrs, .evt, .hbm, .twin, .rel] ⊆ l) (h : Kept l a s) :
    Kept l a (State.hbmWriteCmd s addr data) := by
  unfold State.hbmWriteCmd
  dsimp only
  generalize s.hbmRouter addr = r
  have ht := kept_takeRequest (r := r) (x0 := addr) (write := true) (sub hl (by decide)) h
  generalize s.takeRequest r addr true = o at ht ⊢
  have hf := fun k => kept_addrFault (src := 240 + (s.hbmPlace addr).stack) (addr := addr)
    (who := 0x80000000 + (240 + (s.hbmPlace addr).stack)) (cause := k) (lane := none) (sub hl (by decide)) h
  have hw := kept_hbmWrite (x := addr) (data := data) (sub hl (by decide)) h
  generalize s.hbmWrite addr data = q at hw ⊢
  generalize s.hbmRangeBad addr data.length true = c
  obtain ⟨p, s1⟩ := o
  cases p with
  | none =>
    cases c with
    | none => exact hw
    | some k => exact hf k
  | some p => exact kept_serveExternal (sub hl (by decide)) ht

theorem runs_execHbmWrite {t : Nat} {addr : Nat} {data : List Byte} {s0 : State} (hl : [.free, .mem, .errs, .regs, .clk, .ctxs, .bays, .rtrs, .evt, .hbm, .twin, .rel] ⊆ l) :
    Runs l s0 (execHbmWrite t addr data s0) := by
  unfold execHbmWrite
  refine Runs.next ?_
  have h := Kept.refl l s0
  with_reducible repeat' first
    | exact h
    | refine Kept.ite ?_ ?_
    | refine kept_masterTime (sub hl (by decide)) ?_
    | refine kept_hbmHold (sub hl (by decide)) ?_ ?_
    | refine kept_hbmWriteCmd (sub hl (by decide)) ?_
    | dsimp only

theorem kept_trainStack {st : Nat} {restored : Bool} {failed : BitVec 64} {temp : Nat} (hl : [.regs, .evt, .hbm, .store] ⊆ l) (h : Kept l a s) :
    Kept l a (State.trainStack s st restored failed temp) := by
  unfold State.trainStack
  with_reducible repeat' first
    | exact h
    | refine Kept.ite ?_ ?_
    | refine kept_modHbm (sub hl (by decide)) ?_
    | refine kept_setReg (sub hl (by decide)) ?_
    | refine kept_writeStack (sub hl (by decide)) ?_
    | refine kept_raise (sub hl (by decide)) ?_
    | dsimp only

theorem kept_failPc {st : Nat} {pc : Nat} (hl : [.regs, .stitch, .ctxs, .evt, .hbm, .sites, .twin, .store] ⊆ l) (h : Kept l a s) :
    Kept l a (State.failPc s st pc) := by
  unfold State.failPc
  with_reducible repeat' first
    | exact h
    | refine Kept.ite ?_ ?_
    | refine kept_modHbm (sub hl (by decide)) ?_
    | refine kept_raise (sub hl (by decide)) ?_
    | refine kept_modReg (sub hl (by decide)) ?_
    | refine kept_failCtxs (sub hl (by decide)) ?_
    | refine kept_voidStack (sub hl (by decide)) ?_
    | refine kept_inventoryAgain (sub hl (by decide)) ?_
    | refine kept_writeStack (sub hl (by decide)) ?_
    | dsimp only

theorem kept_recalibrate {st : Nat} {pc : Nat} {ok : Bool} {temp : Nat} (hl : [.regs, .stitch, .ctxs, .evt, .hbm, .sites, .twin, .store] ⊆ l) (h : Kept l a s) :
    Kept l a (State.recalibrate s st pc ok temp) := by
  unfold State.recalibrate
  with_reducible repeat' first
    | exact h
    | refine Kept.ite ?_ ?_
    | refine kept_modReg (sub hl (by decide)) ?_
    | refine kept_modHbm (sub hl (by decide)) ?_
    | refine kept_failPc (sub hl (by decide)) ?_
    | dsimp only

theorem runs_execHbmRecalibration {t : Nat} {st : Nat} {pc : Nat} {ok : Bool} {temp : Nat} {s0 : State} (hl : [.regs, .clk, .stitch, .ctxs, .evt, .hbm, .sites, .twin, .store] ⊆ l) :
    Runs l s0 (execHbmRecalibration t st pc ok temp s0) := by
  unfold execHbmRecalibration
  refine Runs.next ?_
  have h := Kept.refl l s0
  with_reducible repeat' first
    | exact h
    | refine Kept.ite ?_ ?_
    | refine kept_recalibrate (sub hl (by decide)) ?_
    | refine kept_masterTime (sub hl (by decide)) ?_
    | dsimp only

theorem kept_patrolWord {x0 : Nat} (hl : [.free, .mem, .errs, .regs, .evt, .hbm, .rel] ⊆ l) (h : Kept l a s) :
    Kept l a (State.patrolWord s x0) := by
  unfold State.patrolWord
  with_reducible repeat' first
    | exact h
    | refine Kept.ite ?_ ?_
    | refine kept_hbmWord (sub hl (by decide)) ?_
    | refine kept_putWord (sub hl (by decide)) ?_
    | dsimp only

theorem kept_patrol {st : Nat} {pc : Nat} (hl : [.free, .mem, .errs, .regs, .evt, .hbm, .rel] ⊆ l) (h : Kept l a s) :
    Kept l a (State.patrol s st pc) := by
  unfold State.patrol
  with_reducible repeat' first
    | exact h
    | assumption
    | refine Kept.ite ?_ ?_
    | refine kept_patrolWord (sub hl (by decide)) ?_
    | refine kept_modHbm (sub hl (by decide)) ?_
    | refine Kept.foldl ?_ ?_
    | (split; rename_i e; have e0 := congrArg (fun p => p.1) e; have e1 := congrArg (fun p => p.2) e; dsimp only at e0 e1; subst e0; subst e1)
    | (split; rename_i e; have e0 := congrArg (fun p => p.2) e; dsimp only at e0; subst e0)
    | split
    | (refine Kept.of_snd (by assumption) ?_)
    | intro _ _ _ _
    | intro _ _ _
    | intro _ _
    | intro _
    | dsimp only

theorem runs_execHbmPatrol {t : Nat} {st : Nat} {pc : Nat} {s0 : State} (hl : [.free, .mem, .errs, .regs, .clk, .evt, .hbm, .rel] ⊆ l) :
    Runs l s0 (execHbmPatrol t st pc s0) := by
  unfold execHbmPatrol
  refine Runs.next ?_
  have h := Kept.refl l s0
  with_reducible repeat' first
    | exact h
    | refine Kept.ite ?_ ?_
    | refine kept_patrol (sub hl (by decide)) ?_
    | refine kept_masterTime (sub hl (by decide)) ?_
    | dsimp only

end Sys2Proof.Machine
end

