-- ==== Sys2Proof/Laws/KeptEvents.lean ====
section
/-! SUPPORT. What each operation of Machine/Events.lean may touch, and that it keeps the queue and the invariant. -/

namespace Sys2Proof.Machine

variable {l : List Comp} {a s : State}

theorem kept_modEvt {f : Evt → Evt} (hl : [.evt] ⊆ l) (h : Kept l a s) :
    Kept l a (State.modEvt s f) := by
  unfold State.modEvt
  repeat' first
    | with_reducible exact h
    | with_reducible refine Kept.ite ?_ ?_
    | (intro k hk; cases k <;> first | exact absurd (hl (by decide)) hk | rfl | exact ⟨rfl, rfl⟩)
    | (simp only [kept_lit]; refine KeptUpd.intro ?_ ?_ ⟨rfl, rfl, rfl⟩)
    | dsimp only

theorem kept_modHost {f : HostSt → HostSt} (hl : [.host] ⊆ l) (h : Kept l a s) :
    Kept l a (State.modHost s f) := by
  unfold State.modHost
  repeat' first
    | with_reducible exact h
    | with_reducible refine Kept.ite ?_ ?_
    | (intro k hk; cases k <;> first | exact absurd (hl (by decide)) hk | rfl | exact ⟨rfl, rfl⟩)
    | (simp only [kept_lit]; refine KeptUpd.intro ?_ ?_ ⟨rfl, rfl, rfl⟩)
    | dsimp only

theorem kept_viaPort {f : State → State} (hl : [] ⊆ l) (h : Kept l a s) (hf : ∀ v0, Kept l a v0 → Kept l a (f v0)) :
    Kept l a (State.viaPort s f) := by
  unfold State.viaPort
  with_reducible repeat' first
    | exact h
    | assumption
    | refine hf _ ?_
    | refine Kept.ite ?_ ?_
    | dsimp only

theorem kept_bar2Write {id : RegId} {part : Part} {v : Reg} {f : State → State} (hl : [.host] ⊆ l) (h : Kept l a s) (hf : ∀ v0, Kept l a v0 → Kept l a (f v0)) :
    Kept l a (State.bar2Write s id part v f) := by
  unfold State.bar2Write
  with_reducible repeat' first
    | exact h
    | assumption
    | refine hf _ ?_
    | refine Kept.ite ?_ ?_
    | refine kept_viaPort (sub hl (by decide)) ?_ ?_
    | refine kept_modHost (sub hl (by decide)) ?_
    | refine Kept.foldl ?_ ?_
    | split
    | intro _ _ _ _
    | intro _ _ _
    | intro _ _
    | intro _
    | dsimp only

theorem kept_sendMsix {v : Nat} (hl : [.regs, .host] ⊆ l) (h : Kept l a s) :
    Kept l a (State.sendMsix s v) := by
  unfold State.sendMsix
  with_reducible repeat' first
    | exact h
    | refine Kept.ite ?_ ?_
    | refine kept_modReg (sub hl (by decide)) ?_
    | refine kept_modHost (sub hl (by decide)) ?_
    | dsimp only

theorem kept_putRecord {r : Report} {count : Nat} (hl : [.hostMem, .regs, .host, .evt] ⊆ l) (h : Kept l a s) :
    Kept l a (State.putRecord s r count) := by
  unfold State.putRecord
  repeat' first
    | with_reducible exact h
    | with_reducible refine Kept.ite ?_ ?_
    | with_reducible refine kept_putHost (sub hl (by decide)) ?_
    | with_reducible refine kept_sendMsix (sub hl (by decide)) ?_
    | with_reducible refine Kept.foldl ?_ ?_
    | split
    | (intro k hk; cases k <;> first | exact absurd (hl (by decide)) hk | rfl | exact ⟨rfl, rfl⟩)
    | (simp only [kept_lit]; refine KeptUpd.intro ?_ ?_ ⟨rfl, rfl, rfl⟩)
    | intro _ _ _ _
    | intro _ _ _
    | intro _ _
    | intro _
    | dsimp only

theorem kept_claimPend {k : Nat} {r : Report} (hl : [.claims] ⊆ l) (h : Kept l a s) :
    Kept l a (State.claimPend s k r) := by
  unfold State.claimPend
  with_reducible repeat' first
    | exact h
    | refine Kept.ite ?_ ?_
    | refine kept_setClaim (sub hl (by decide)) ?_
    | dsimp only

theorem kept_takeReport {r : Report} (hl : [.hostMem, .regs, .host, .evt, .claims] ⊆ l) (h : Kept l a s) :
    Kept l a (State.takeReport s r) := by
  unfold State.takeReport
  with_reducible repeat' first
    | exact h
    | refine Kept.ite ?_ ?_
    | refine kept_claimPend (sub hl (by decide)) ?_
    | refine kept_putRecord (sub hl (by decide)) ?_
    | refine kept_modEvt (sub hl (by decide)) ?_
    | refine kept_hwSet (sub hl (by decide)) ?_
    | refine kept_count (sub hl (by decide)) ?_
    | refine Kept.foldl ?_ ?_
    | split
    | intro _ _ _ _
    | intro _ _ _
    | intro _ _
    | intro _
    | dsimp only

theorem kept_eventReport (hl : [.hostMem, .regs, .host, .evt, .claims] ⊆ l) (h : Kept l a s) :
    Kept l a (State.eventReport s) := by
  unfold State.eventReport
  with_reducible repeat' first
    | exact h
    | refine Kept.ite ?_ ?_
    | refine kept_takeReport (sub hl (by decide)) ?_
    | refine kept_modEvt (sub hl (by decide)) ?_
    | refine Kept.foldl ?_ ?_
    | split
    | intro _ _ _ _
    | intro _ _ _
    | intro _ _
    | intro _
    | dsimp only

theorem runs_execEventReport {t : Nat} {s0 : State} (hl : [.hostMem, .regs, .clk, .host, .evt, .claims] ⊆ l) :
    Runs l s0 (execEventReport t s0) := by
  unfold execEventReport
  refine Runs.next ?_
  have h := Kept.refl l s0
  with_reducible repeat' first
    | exact h
    | refine Kept.ite ?_ ?_
    | refine kept_eventReport (sub hl (by decide)) ?_
    | refine kept_masterTime (sub hl (by decide)) ?_
    | dsimp only

theorem kept_recordWrite (hl : [.hostMem, .regs, .host, .evt] ⊆ l) (h : Kept l a s) :
    Kept l a (State.recordWrite s) := by
  unfold State.recordWrite
  with_reducible repeat' first
    | exact h
    | refine Kept.ite ?_ ?_
    | refine kept_putRecord (sub hl (by decide)) ?_
    | refine kept_modEvt (sub hl (by decide)) ?_
    | refine Kept.foldl ?_ ?_
    | split
    | intro _ _ _ _
    | intro _ _ _
    | intro _ _
    | intro _
    | dsimp only

theorem runs_execEventRecordWrite {t : Nat} {s0 : State} (hl : [.hostMem, .regs, .clk, .host, .evt] ⊆ l) :
    Runs l s0 (execEventRecordWrite t s0) := by
  unfold execEventRecordWrite
  refine Runs.next ?_
  have h := Kept.refl l s0
  with_reducible repeat' first
    | exact h
    | refine Kept.ite ?_ ?_
    | refine kept_recordWrite (sub hl (by decide)) ?_
    | refine kept_masterTime (sub hl (by decide)) ?_
    | dsimp only

theorem kept_ringHeadWrite {v : Nat} (hl : [.regs, .host, .evt] ⊆ l) (h : Kept l a s) :
    Kept l a (State.ringHeadWrite s v) := by
  unfold State.ringHeadWrite
  with_reducible repeat' first
    | exact h
    | refine Kept.ite ?_ ?_
    | refine kept_modEvt (sub hl (by decide)) ?_
    | refine kept_sendMsix (sub hl (by decide)) ?_
    | dsimp only

theorem runs_execEvtRingHeadWrite {t : Nat} {v : BitVec 32} {s0 : State} (hl : [.regs, .clk, .host, .evt] ⊆ l) :
    Runs l s0 (execEvtRingHeadWrite t v s0) := by
  unfold execEvtRingHeadWrite
  refine Runs.next ?_
  have h := Kept.refl l s0
  with_reducible repeat' first
    | exact h
    | assumption
    | refine Kept.ite ?_ ?_
    | refine kept_bar2Write (sub hl (by decide)) ?_ ?_
    | refine kept_masterTime (sub hl (by decide)) ?_
    | refine kept_ringHeadWrite (sub hl (by decide)) ?_
    | refine Kept.foldl ?_ ?_
    | (split; rename_i e; have e0 := congrArg (fun p => p.1) e; have e1 := congrArg (fun p => p.2) e; dsimp only at e0 e1; subst e0; subst e1)
    | (split; rename_i e; have e0 := congrArg (fun p => p.2) e; dsimp only at e0; subst e0)
    | split
    | (refine Kept.of_snd (by assumption) ?_)
    | intro _ _ _ _
    | intro _ _ _
    | intro _ _
    | intro _
    | dsimp only

theorem kept_ringEnable {v : Nat} (hl : [.regs, .evt] ⊆ l) (h : Kept l a s) :
    Kept l a (State.ringEnable s v) := by
  unfold State.ringEnable
  with_reducible repeat' first
    | exact h
    | refine Kept.ite ?_ ?_
    | refine kept_setReg (sub hl (by decide)) ?_
    | refine kept_modEvt (sub hl (by decide)) ?_
    | dsimp only

theorem runs_execEvtRingEnable {t : Nat} {v : BitVec 32} {s0 : State} (hl : [.regs, .clk, .evt] ⊆ l) :
    Runs l s0 (execEvtRingEnable t v s0) := by
  unfold execEvtRingEnable
  refine Runs.next ?_
  have h := Kept.refl l s0
  with_reducible repeat' first
    | exact h
    | refine Kept.ite ?_ ?_
    | refine kept_ringEnable (sub hl (by decide)) ?_
    | refine kept_masterTime (sub hl (by decide)) ?_
    | dsimp only

theorem kept_claimRead {k : Nat} (hl : [.regs, .claims] ⊆ l) (h : Kept l a s) :
    Kept l a (State.claimRead s k) := by
  unfold State.claimRead
  with_reducible repeat' first
    | exact h
    | refine Kept.ite ?_ ?_
    | refine kept_setReg (sub hl (by decide)) ?_
    | refine kept_setClaim (sub hl (by decide)) ?_
    | refine Kept.foldl ?_ ?_
    | split
    | intro _ _ _ _
    | intro _ _ _
    | intro _ _
    | intro _
    | dsimp only

theorem runs_execClaimIdRead {t : Nat} {k : Nat} {s0 : State} (hl : [.regs, .clk, .claims] ⊆ l) :
    Runs l s0 (execClaimIdRead t k s0) := by
  unfold execClaimIdRead
  refine Runs.next ?_
  have h := Kept.refl l s0
  with_reducible repeat' first
    | exact h
    | refine Kept.ite ?_ ?_
    | refine kept_claimRead (sub hl (by decide)) ?_
    | refine kept_masterTime (sub hl (by decide)) ?_
    | dsimp only

theorem kept_claimDone {k : Nat} {src : Nat} (hl : [.evt, .claims] ⊆ l) (h : Kept l a s) :
    Kept l a (State.claimDone s k src) := by
  unfold State.claimDone
  with_reducible repeat' first
    | exact h
    | refine Kept.ite ?_ ?_
    | refine kept_setClaim (sub hl (by decide)) ?_
    | refine kept_raise (sub hl (by decide)) ?_
    | refine Kept.foldl ?_ ?_
    | split
    | intro _ _ _ _
    | intro _ _ _
    | intro _ _
    | intro _
    | dsimp only

theorem runs_execClaimDoneWrite {t : Nat} {k : Nat} {src : Nat} {s0 : State} (hl : [.clk, .evt, .claims] ⊆ l) :
    Runs l s0 (execClaimDoneWrite t k src s0) := by
  unfold execClaimDoneWrite
  refine Runs.next ?_
  have h := Kept.refl l s0
  with_reducible repeat' first
    | exact h
    | refine Kept.ite ?_ ?_
    | refine kept_claimDone (sub hl (by decide)) ?_
    | refine kept_masterTime (sub hl (by decide)) ?_
    | dsimp only

end Sys2Proof.Machine
end

