-- ==== Sys2Proof/Laws/KeptHostSync.lean ====
section
/-! SUPPORT. What each operation of Machine/HostSync.lean may touch, and that it keeps the queue and the invariant. -/

namespace Sys2Proof.Machine

variable {l : List Comp} {a s : State}

theorem kept_addBank {ctx : Nat} {u : Nat} {k : Nat} {n : Nat} (hl : [.hsync, .bays, .cus, .evt] ⊆ l) (h : Kept l a s) :
    Kept l a (State.addBank s ctx u k n) := by
  unfold State.addBank
  with_reducible repeat' first
    | exact h
    | refine Kept.ite ?_ ?_
    | refine kept_addSync (sub hl (by decide)) ?_
    | refine kept_modCu (sub hl (by decide)) ?_
    | refine kept_raiseBay (sub hl (by decide)) ?_
    | dsimp only

theorem kept_physAdd {p : Nat} {h' : HCounter} {n : Nat} (hl : [.hsync, .bays, .cus, .evt] ⊆ l) (h : Kept l a s) :
    Kept l a (State.physAdd s p h' n) := by
  unfold State.physAdd
  repeat' first
    | with_reducible exact h
    | with_reducible refine Kept.ite ?_ ?_
    | with_reducible refine kept_physBump (sub hl (by decide)) ?_
    | with_reducible refine kept_addBank (sub hl (by decide)) ?_
    | with_reducible refine Kept.foldl ?_ ?_
    | split
    | (intro k hk; cases k <;> first | exact absurd (hl (by decide)) hk | rfl | exact ⟨rfl, rfl⟩)
    | (simp only [kept_lit]; refine KeptUpd.intro ?_ ?_ ⟨rfl, rfl, rfl⟩)
    | intro _ _ _ _
    | intro _ _ _
    | intro _ _
    | intro _
    | dsimp only

theorem kept_hsyncAdd {ctx : Nat} {vid : Nat} {n : Nat} {raw : Nat} (hl : [.hsync, .bays, .cus, .evt] ⊆ l) (h : Kept l a s) :
    Kept l a (State.hsyncAdd s ctx vid n raw) := by
  unfold State.hsyncAdd
  with_reducible repeat' first
    | exact h
    | refine Kept.ite ?_ ?_
    | refine kept_physAdd (sub hl (by decide)) ?_
    | refine kept_raise (sub hl (by decide)) ?_
    | refine Kept.foldl ?_ ?_
    | split
    | intro _ _ _ _
    | intro _ _ _
    | intro _ _
    | intro _
    | dsimp only

theorem kept_hsyncWrite {x : Nat} (hl : [.hsync, .bays, .cus, .evt] ⊆ l) (h : Kept l a s) :
    Kept l a (State.hsyncWrite s x) := by
  unfold State.hsyncWrite
  with_reducible repeat' first
    | exact h
    | refine Kept.ite ?_ ?_
    | refine kept_hsyncAdd (sub hl (by decide)) ?_
    | dsimp only

theorem runs_execHsyncSignal {t : Nat} {v : BitVec 32} {s0 : State} (hl : [.clk, .hsync, .bays, .cus, .evt] ⊆ l) :
    Runs l s0 (execHsyncSignal t v s0) := by
  unfold execHsyncSignal
  refine Runs.next ?_
  have h := Kept.refl l s0
  with_reducible repeat' first
    | exact h
    | refine Kept.ite ?_ ?_
    | refine kept_hsyncWrite (sub hl (by decide)) ?_
    | refine kept_masterTime (sub hl (by decide)) ?_
    | dsimp only

theorem kept_waitEnd {n : Nat} {state : Nat} (hl : [.regs, .evt] ⊆ l) (h : Kept l a s) :
    Kept l a (State.waitEnd s n state) := by
  unfold State.waitEnd
  with_reducible repeat' first
    | exact h
    | refine Kept.ite ?_ ?_
    | refine kept_setReg (sub hl (by decide)) ?_
    | refine kept_modReg (sub hl (by decide)) ?_
    | refine kept_raise (sub hl (by decide)) ?_
    | dsimp only

theorem kept_waitWrite {n : Nat} {v : Reg} (hl : [.regs, .evt] ⊆ l) (h : Kept l a s) :
    Kept l a (State.waitWrite s n v) := by
  unfold State.waitWrite
  with_reducible repeat' first
    | exact h
    | refine Kept.ite ?_ ?_
    | refine kept_setReg (sub hl (by decide)) ?_
    | refine kept_modReg (sub hl (by decide)) ?_
    | refine kept_waitEnd (sub hl (by decide)) ?_
    | dsimp only

theorem runs_execHostWaitArm {t : Nat} {n : Nat} {v : Reg} {s0 : State} (hl : [.regs, .clk, .evt] ⊆ l) :
    Runs l s0 (execHostWaitArm t n v s0) := by
  unfold execHostWaitArm
  refine Runs.next ?_
  have h := Kept.refl l s0
  with_reducible repeat' first
    | exact h
    | refine Kept.ite ?_ ?_
    | refine kept_waitWrite (sub hl (by decide)) ?_
    | refine kept_masterTime (sub hl (by decide)) ?_
    | dsimp only

theorem kept_waitTaken {n : Nat} (hl : [.regs, .hsync, .evt] ⊆ l) (h : Kept l a s) :
    Kept l a (State.waitTaken s n) := by
  unfold State.waitTaken
  with_reducible repeat' first
    | exact h
    | refine Kept.ite ?_ ?_
    | refine kept_waitEnd (sub hl (by decide)) ?_
    | refine kept_setPhys (sub hl (by decide)) ?_
    | refine Kept.foldl ?_ ?_
    | split
    | intro _ _ _ _
    | intro _ _ _
    | intro _ _
    | intro _
    | dsimp only

theorem runs_execHostWaitSatisfied {t : Nat} {n : Nat} {s0 : State} (hl : [.regs, .clk, .hsync, .evt] ⊆ l) :
    Runs l s0 (execHostWaitSatisfied t n s0) := by
  unfold execHostWaitSatisfied
  refine Runs.next ?_
  have h := Kept.refl l s0
  with_reducible repeat' first
    | exact h
    | refine Kept.ite ?_ ?_
    | refine kept_waitTaken (sub hl (by decide)) ?_
    | refine kept_masterTime (sub hl (by decide)) ?_
    | dsimp only

theorem kept_latchNs (hl : [.clk] ⊆ l) (h : Kept l a s) :
    Kept l a (State.latchNs s) := by
  unfold State.latchNs
  with_reducible repeat' first
    | exact h
    | refine Kept.ite ?_ ?_
    | refine kept_modClk (sub hl (by decide)) ?_
    | dsimp only

theorem runs_execTimeNowRead {t : Nat} {s0 : State} (hl : [.clk] ⊆ l) :
    Runs l s0 (execTimeNowRead t s0) := by
  unfold execTimeNowRead
  refine Runs.next ?_
  have h := Kept.refl l s0
  with_reducible repeat' first
    | exact h
    | refine Kept.ite ?_ ?_
    | refine kept_latchNs (sub hl (by decide)) ?_
    | refine kept_masterTime (sub hl (by decide)) ?_
    | dsimp only

theorem kept_mapIds {k : Nat} {img : Image} (hl : [.hsync] ⊆ l) (h : Kept l a s) :
    Kept l a (State.mapIds s k img) := by
  unfold State.mapIds
  with_reducible repeat' first
    | exact h
    | assumption
    | refine Kept.ite ?_ ?_
    | refine kept_setPhys (sub hl (by decide)) ?_
    | refine Kept.foldl ?_ ?_
    | (split; rename_i e; have e0 := congrArg (fun p => p.1) e; have e1 := congrArg (fun p => p.2) e; dsimp only at e0 e1; subst e0; subst e1)
    | (split; rename_i e; have e0 := congrArg (fun p => p.2) e; dsimp only at e0; subst e0)
    | split
    | (refine Kept.of_snd (by assumption) ?_)
    | intro _ _ _ _
    | intro _ _ _
    | intro _ _
    | intro _
    | dsimp only

theorem kept_abandon {k : Nat} (hl : [.regs, .hsync, .bays, .cus, .evt] ⊆ l) (h : Kept l a s) :
    Kept l a (State.abandon s k) := by
  unfold State.abandon
  repeat' first
    | with_reducible exact h
    | with_reducible assumption
    | with_reducible refine Kept.ite ?_ ?_
    | with_reducible refine kept_waitEnd (sub hl (by decide)) ?_
    | with_reducible refine kept_raise (sub hl (by decide)) ?_
    | with_reducible refine Kept.foldl ?_ ?_
    | (split; rename_i e; have e0 := congrArg (fun p => p.1) e; have e1 := congrArg (fun p => p.2) e; dsimp only at e0 e1; subst e0; subst e1)
    | (split; rename_i e; have e0 := congrArg (fun p => p.2) e; dsimp only at e0; subst e0)
    | split
    | (refine Kept.of_snd (by assumption) ?_)
    | (intro k hk; cases k <;> first | exact absurd (hl (by decide)) hk | rfl | exact ⟨rfl, rfl⟩)
    | (simp only [kept_lit]; refine KeptUpd.intro ?_ ?_ ⟨rfl, rfl, rfl⟩)
    | intro _ _ _ _
    | intro _ _ _
    | intro _ _
    | intro _
    | dsimp only

end Sys2Proof.Machine
end

