-- ==== Sys2Proof/Laws/KeptRonnus.lean ====
section
/-! SUPPORT. What each operation of Machine/Ronnus.lean may touch, and that it keeps the queue and the invariant. -/

namespace Sys2Proof.Machine

variable {l : List Comp} {a s : State}

theorem kept_negotiate {i : Nat} {maxM : Nat} {minM : Nat} {caps : Nat} {own : Nat} (hl : [.regs] ⊆ l) (h : Kept l a s) :
    Kept l a (State.negotiate s i maxM minM caps own) := by
  unfold State.negotiate
  with_reducible repeat' first
    | exact h
    | refine Kept.ite ?_ ?_
    | refine kept_setReg (sub hl (by decide)) ?_
    | dsimp only

theorem kept_hostVersion {v : Nat} (hl : [.regs, .evt] ⊆ l) (h : Kept l a s) :
    Kept l a (State.hostVersion s v) := by
  unfold State.hostVersion
  with_reducible repeat' first
    | exact h
    | refine Kept.ite ?_ ?_
    | refine kept_negotiate (sub hl (by decide)) ?_
    | refine kept_setReg (sub hl (by decide)) ?_
    | refine kept_raise (sub hl (by decide)) ?_
    | dsimp only

theorem runs_execHostVersionWrite {t : Nat} {v : BitVec 32} {s0 : State} (hl : [.regs, .clk, .evt] ⊆ l) :
    Runs l s0 (execHostVersionWrite t v s0) := by
  unfold execHostVersionWrite
  refine Runs.next ?_
  have h := Kept.refl l s0
  with_reducible repeat' first
    | exact h
    | refine Kept.ite ?_ ?_
    | refine kept_hostVersion (sub hl (by decide)) ?_
    | refine kept_masterTime (sub hl (by decide)) ?_
    | dsimp only

theorem kept_doorbellInvalid {offset : Nat} {v : Nat} (hl : [.evt] ⊆ l) (h : Kept l a s) :
    Kept l a (State.doorbellInvalid s offset v) := by
  unfold State.doorbellInvalid
  with_reducible repeat' first
    | exact h
    | refine Kept.ite ?_ ?_
    | refine kept_raise (sub hl (by decide)) ?_
    | dsimp only

theorem kept_qpStamp {q : Nat} (hl : [.host] ⊆ l) (h : Kept l a s) :
    Kept l a (State.qpStamp s q) := by
  unfold State.qpStamp
  with_reducible repeat' first
    | exact h
    | refine Kept.ite ?_ ?_
    | refine kept_modHost (sub hl (by decide)) ?_
    | dsimp only

theorem kept_qpTail {q : Nat} {v : Nat} (hl : [.regs, .host, .evt] ⊆ l) (h : Kept l a s) :
    Kept l a (State.qpTail s q v) := by
  unfold State.qpTail
  with_reducible repeat' first
    | exact h
    | refine Kept.ite ?_ ?_
    | refine kept_doorbellInvalid (sub hl (by decide)) ?_
    | refine kept_raise (sub hl (by decide)) ?_
    | refine kept_setReg (sub hl (by decide)) ?_
    | refine kept_qpStamp (sub hl (by decide)) ?_
    | dsimp only

theorem runs_execQpInTail {t : Nat} {q : Nat} {v : BitVec 32} {s0 : State} (hl : [.regs, .clk, .host, .evt] ⊆ l) :
    Runs l s0 (execQpInTail t q v s0) := by
  unfold execQpInTail
  refine Runs.next ?_
  have h := Kept.refl l s0
  with_reducible repeat' first
    | exact h
    | assumption
    | refine Kept.ite ?_ ?_
    | refine kept_bar2Write (sub hl (by decide)) ?_ ?_
    | refine kept_masterTime (sub hl (by decide)) ?_
    | refine kept_qpTail (sub hl (by decide)) ?_
    | refine Kept.foldl ?_ ?_
    | (split; rename_i e; have e0 := congrArg (fun p => p.1) e; have e1 := congrArg (fun p => p.2) e; dsimp only at e0 e1; subst e0; subst e1)
    | (split; rename_i e; have e0 := congrArg (fun p => p.2) e; dsimp only at e0; subst e0)
    | split
    | (refine Kept.of_snd (by assumption) ?_)
    | intro _ _ _ _
    | intro _ _ _
    | intro _ _
    | intro _
    | dsimp only

theorem kept_qpHead {q : Nat} {v : Nat} (hl : [.regs, .host, .evt] ⊆ l) (h : Kept l a s) :
    Kept l a (State.qpHead s q v) := by
  unfold State.qpHead
  with_reducible repeat' first
    | exact h
    | refine Kept.ite ?_ ?_
    | refine kept_doorbellInvalid (sub hl (by decide)) ?_
    | refine kept_setReg (sub hl (by decide)) ?_
    | refine kept_qpStamp (sub hl (by decide)) ?_
    | dsimp only

theorem runs_execQpOutHead {t : Nat} {q : Nat} {v : BitVec 32} {s0 : State} (hl : [.regs, .clk, .host, .evt] ⊆ l) :
    Runs l s0 (execQpOutHead t q v s0) := by
  unfold execQpOutHead
  refine Runs.next ?_
  have h := Kept.refl l s0
  with_reducible repeat' first
    | exact h
    | assumption
    | refine Kept.ite ?_ ?_
    | refine kept_bar2Write (sub hl (by decide)) ?_ ?_
    | refine kept_masterTime (sub hl (by decide)) ?_
    | refine kept_qpHead (sub hl (by decide)) ?_
    | refine Kept.foldl ?_ ?_
    | (split; rename_i e; have e0 := congrArg (fun p => p.1) e; have e1 := congrArg (fun p => p.2) e; dsimp only at e0 e1; subst e0; subst e1)
    | (split; rename_i e; have e0 := congrArg (fun p => p.2) e; dsimp only at e0; subst e0)
    | split
    | (refine Kept.of_snd (by assumption) ?_)
    | intro _ _ _ _
    | intro _ _ _
    | intro _ _
    | intro _
    | dsimp only

theorem kept_setHdma {d : Nat} {v : HDma} (hl : [.host] ⊆ l) (h : Kept l a s) :
    Kept l a (State.setHdma s d v) := by
  unfold State.setHdma
  with_reducible repeat' first
    | exact h
    | refine Kept.ite ?_ ?_
    | refine kept_modHost (sub hl (by decide)) ?_
    | dsimp only

theorem kept_dmaTailWrite {d : Nat} {v : Nat} (hl : [.regs, .evt] ⊆ l) (h : Kept l a s) :
    Kept l a (State.dmaTailWrite s d v) := by
  unfold State.dmaTailWrite
  with_reducible repeat' first
    | exact h
    | refine Kept.ite ?_ ?_
    | refine kept_setReg (sub hl (by decide)) ?_
    | refine kept_doorbellInvalid (sub hl (by decide)) ?_
    | dsimp only

theorem runs_execDmaTail {t : Nat} {d : Nat} {v : BitVec 32} {s0 : State} (hl : [.regs, .clk, .host, .evt] ⊆ l) :
    Runs l s0 (execDmaTail t d v s0) := by
  unfold execDmaTail
  refine Runs.next ?_
  have h := Kept.refl l s0
  with_reducible repeat' first
    | exact h
    | assumption
    | refine Kept.ite ?_ ?_
    | refine kept_bar2Write (sub hl (by decide)) ?_ ?_
    | refine kept_masterTime (sub hl (by decide)) ?_
    | refine kept_dmaTailWrite (sub hl (by decide)) ?_
    | refine Kept.foldl ?_ ?_
    | (split; rename_i e; have e0 := congrArg (fun p => p.1) e; have e1 := congrArg (fun p => p.2) e; dsimp only at e0 e1; subst e0; subst e1)
    | (split; rename_i e; have e0 := congrArg (fun p => p.2) e; dsimp only at e0; subst e0)
    | split
    | (refine Kept.of_snd (by assumption) ?_)
    | intro _ _ _ _
    | intro _ _ _
    | intro _ _
    | intro _
    | dsimp only

theorem kept_dmaRestartCmd {d : Nat} (hl : [.host] ⊆ l) (h : Kept l a s) :
    Kept l a (State.dmaRestartCmd s d) := by
  unfold State.dmaRestartCmd
  with_reducible repeat' first
    | exact h
    | refine Kept.ite ?_ ?_
    | refine kept_setHdma (sub hl (by decide)) ?_
    | dsimp only

theorem runs_execDmaRestart {t : Nat} {d : Nat} {s0 : State} (hl : [.clk, .host] ⊆ l) :
    Runs l s0 (execDmaRestart t d s0) := by
  unfold execDmaRestart
  refine Runs.next ?_
  have h := Kept.refl l s0
  with_reducible repeat' first
    | exact h
    | assumption
    | refine Kept.ite ?_ ?_
    | refine kept_bar2Write (sub hl (by decide)) ?_ ?_
    | refine kept_masterTime (sub hl (by decide)) ?_
    | refine kept_dmaRestartCmd (sub hl (by decide)) ?_
    | refine Kept.foldl ?_ ?_
    | (split; rename_i e; have e0 := congrArg (fun p => p.1) e; have e1 := congrArg (fun p => p.2) e; dsimp only at e0 e1; subst e0; subst e1)
    | (split; rename_i e; have e0 := congrArg (fun p => p.2) e; dsimp only at e0; subst e0)
    | split
    | (refine Kept.of_snd (by assumption) ?_)
    | intro _ _ _ _
    | intro _ _ _
    | intro _ _
    | intro _
    | dsimp only

theorem kept_dmaWord6 {d : Nat} {status : Nat} (hl : [.hostMem] ⊆ l) (h : Kept l a s) :
    Kept l a (State.dmaWord6 s d status) := by
  unfold State.dmaWord6
  with_reducible repeat' first
    | exact h
    | refine Kept.ite ?_ ?_
    | refine kept_putHost (sub hl (by decide)) ?_
    | dsimp only

theorem kept_dmaStop {d : Nat} {status : Nat} (hl : [.hostMem, .host, .evt] ⊆ l) (h : Kept l a s) :
    Kept l a (State.dmaStop s d status) := by
  unfold State.dmaStop
  with_reducible repeat' first
    | exact h
    | refine Kept.ite ?_ ?_
    | refine kept_raise (sub hl (by decide)) ?_
    | refine kept_setHdma (sub hl (by decide)) ?_
    | refine kept_dmaWord6 (sub hl (by decide)) ?_
    | dsimp only

theorem kept_dmaFetch {d : Nat} {ws : List (BitVec 32)} (hl : [.hostMem, .host, .evt] ⊆ l) (h : Kept l a s) :
    Kept l a (State.dmaFetch s d ws) := by
  unfold State.dmaFetch
  with_reducible repeat' first
    | exact h
    | refine Kept.ite ?_ ?_
    | refine kept_setHdma (sub hl (by decide)) ?_
    | refine kept_dmaStop (sub hl (by decide)) ?_
    | dsimp only

theorem runs_execDmaDescriptorStart {t : Nat} {d : Nat} {words : List (BitVec 32)} {s0 : State} (hl : [.hostMem, .clk, .host, .evt] ⊆ l) :
    Runs l s0 (execDmaDescriptorStart t d words s0) := by
  unfold execDmaDescriptorStart
  refine Runs.next ?_
  have h := Kept.refl l s0
  with_reducible repeat' first
    | exact h
    | refine Kept.ite ?_ ?_
    | refine kept_dmaFetch (sub hl (by decide)) ?_
    | refine kept_masterTime (sub hl (by decide)) ?_
    | dsimp only

theorem kept_dmaRead {d : Nat} (hl : [.host] ⊆ l) (h : Kept l a s) :
    Kept l a (State.dmaRead s d) := by
  unfold State.dmaRead
  with_reducible repeat' first
    | exact h
    | refine Kept.ite ?_ ?_
    | refine kept_setHdma (sub hl (by decide)) ?_
    | refine kept_modHost (sub hl (by decide)) ?_
    | dsimp only

theorem runs_execDmaBufferRead {t : Nat} {d : Nat} {s0 : State} (hl : [.clk, .host] ⊆ l) :
    Runs l s0 (execDmaBufferRead t d s0) := by
  unfold execDmaBufferRead
  refine Runs.next ?_
  have h := Kept.refl l s0
  with_reducible repeat' first
    | exact h
    | refine Kept.ite ?_ ?_
    | refine kept_dmaRead (sub hl (by decide)) ?_
    | refine kept_masterTime (sub hl (by decide)) ?_
    | dsimp only

theorem kept_hostPut {x : Nat} {data : List Byte} (hl : [.free, .mem, .errs, .regs, .ctxs, .evt, .hbm, .twin, .rel] ⊆ l) (h : Kept l a s) :
    Kept l a (State.hostPut s x data) := by
  unfold State.hostPut
  with_reducible repeat' first
    | exact h
    | refine Kept.ite ?_ ?_
    | refine kept_hbmWrite (sub hl (by decide)) ?_
    | refine kept_hbmLoad (sub hl (by decide)) ?_
    | dsimp only

theorem kept_dmaFault {d : Nat} {x : Nat} (hl : [.bays, .evt] ⊆ l) (h : Kept l a s) :
    Kept l a (State.dmaFault s d x) := by
  unfold State.dmaFault
  with_reducible repeat' first
    | exact h
    | refine Kept.ite ?_ ?_
    | refine kept_addrFault (sub hl (by decide)) ?_
    | dsimp only

theorem kept_dmaPut {d : Nat} {x : Nat} {data : List Byte} (hl : [.free, .mem, .errs, .regs, .ctxs, .bays, .evt, .hbm, .twin, .rel] ⊆ l) (h : Kept l a s) :
    Kept l a (State.dmaPut s d x data) := by
  unfold State.dmaPut
  with_reducible repeat' first
    | exact h
    | assumption
    | refine Kept.ite ?_ ?_
    | refine kept_dmaFault (sub hl (by decide)) ?_
    | refine kept_hostPut (sub hl (by decide)) ?_
    | refine Kept.foldl ?_ ?_
    | (split; rename_i e; have e0 := congrArg (fun p => p.1) e; have e1 := congrArg (fun p => p.2) e; dsimp only at e0 e1; subst e0; subst e1)
    | (split; rename_i e; have e0 := congrArg (fun p => p.2) e; dsimp only at e0; subst e0)
    | split
    | (refine Kept.of_snd (by assumption) ?_)
    | intro _ _ _ _
    | intro _ _ _
    | intro _ _
    | intro _
    | dsimp only

theorem kept_hbmReadBytes {x : Nat} {n : Nat} (hl : [.free, .regs, .evt, .hbm, .rel] ⊆ l) (h : Kept l a s) :
    Kept l a (State.hbmReadBytes s x n).2 := by
  unfold State.hbmReadBytes
  with_reducible repeat' first
    | exact h
    | refine Kept.ite ?_ ?_
    | refine kept_hbmReadWords (sub hl (by decide)) ?_
    | dsimp only

theorem kept_dmaGetRun {d : Nat} {r : Nat × Nat} (hl : [.free, .regs, .bays, .evt, .hbm, .rel] ⊆ l) (h : Kept l a s) :
    Kept l a (State.dmaGetRun s d r).2 := by
  unfold State.dmaGetRun
  with_reducible repeat' first
    | exact h
    | refine Kept.ite ?_ ?_
    | refine kept_dmaFault (sub hl (by decide)) ?_
    | refine kept_hbmReadBytes (sub hl (by decide)) ?_
    | refine Kept.foldl ?_ ?_
    | split
    | intro _ _ _ _
    | intro _ _ _
    | intro _ _
    | intro _
    | dsimp only

theorem kept_dmaGetMore {d : Nat} {before : List Byte} {r : Nat × Nat} (hl : [.free, .regs, .bays, .evt, .hbm, .rel] ⊆ l) (h : Kept l a s) :
    Kept l a (State.dmaGetMore s d before r).2 := by
  have hr := kept_dmaGetRun (d := d) (r := r) (sub hl (by decide)) h
  unfold State.dmaGetMore
  generalize s.dmaGetRun d r = q at hr ⊢
  obtain ⟨x, s1⟩ := q
  exact hr

theorem kept_dmaGet {d : Nat} {x : Nat} {n : Nat} (hl : [.free, .regs, .bays, .evt, .hbm, .rel] ⊆ l) (h : Kept l a s) :
    Kept l a (State.dmaGet s d x n).2 := by
  unfold State.dmaGet
  generalize halfRuns x n (n + 1) = rs
  exact Kept.foldl₂ h (fun _ _ hy => kept_dmaGetMore (sub hl (by decide)) hy)

theorem kept_reportAer {e : Aer} (hl : [.host] ⊆ l) (h : Kept l a s) :
    Kept l a (State.reportAer s e) := by
  unfold State.reportAer
  with_reducible repeat' first
    | exact h
    | refine Kept.ite ?_ ?_
    | refine kept_modHost (sub hl (by decide)) ?_
    | dsimp only

theorem kept_dmaHostFail {d : Nat} (hl : [.hostMem, .host, .evt] ⊆ l) (h : Kept l a s) :
    Kept l a (State.dmaHostFail s d) := by
  unfold State.dmaHostFail
  with_reducible repeat' first
    | exact h
    | refine Kept.ite ?_ ?_
    | refine kept_dmaStop (sub hl (by decide)) ?_
    | refine kept_reportAer (sub hl (by decide)) ?_
    | dsimp only

theorem kept_fetchFail {d : Nat} (hl : [.hostMem, .host, .evt] ⊆ l) (h : Kept l a s) :
    Kept l a (State.fetchFail s d) := by
  unfold State.fetchFail
  with_reducible repeat' first
    | exact h
    | refine Kept.ite ?_ ?_
    | refine kept_dmaHostFail (sub hl (by decide)) ?_
    | dsimp only

theorem kept_dmaCompletion {d : Nat} {got : Completion} {data : List Byte} (hl : [.free, .mem, .errs, .hostMem, .regs, .ctxs, .bays, .host, .evt, .hbm, .twin, .rel] ⊆ l) (h : Kept l a s) :
    Kept l a (State.dmaCompletion s d got data) := by
  unfold State.dmaCompletion
  extract_lets x y
  split
  · exact h
  · exact kept_reportAer (sub hl (by decide)) h
  · exact kept_reportAer (sub hl (by decide)) h
  · exact Kept.ite h (kept_reportAer (sub hl (by decide)) h)
  · exact Kept.ite (kept_dmaHostFail (sub hl (by decide)) h) (kept_reportAer (sub hl (by decide)) h)
  · exact Kept.ite (kept_reportAer (sub hl (by decide)) h) (kept_dmaHostFail (sub hl (by decide)) h)
  · rename_i o n rest _ _
    extract_lets s1
    have h1 : Kept l a s1 := kept_setHdma (sub hl (by decide)) h
    refine Kept.ite ?_ (kept_dmaPut (sub hl (by decide)) h1)
    have hr := kept_dmaGet (d := d) (x := y.dev + o) (n := n) (sub hl (by decide)) h1
    generalize s1.dmaGet d (y.dev + o) n = q at hr ⊢
    obtain ⟨bs, s2⟩ := q
    exact kept_putHost (sub hl (by decide)) hr

theorem runs_execDmaReadCompletion {t : Nat} {d : Nat} {got : Completion} {data : List Byte} {s0 : State} (hl : [.free, .mem, .errs, .hostMem, .regs, .clk, .ctxs, .bays, .host, .evt, .hbm, .twin, .rel] ⊆ l) :
    Runs l s0 (execDmaReadCompletion t d got data s0) := by
  unfold execDmaReadCompletion
  have h := Kept.refl l s0
  with_reducible repeat' first
    | exact h
    | refine Runs.next ?_
    | assumption
    | refine Kept.ite ?_ ?_
    | refine kept_masterTime (sub hl (by decide)) ?_
    | refine kept_hbmHold (sub hl (by decide)) ?_ ?_
    | refine kept_dmaCompletion (sub hl (by decide)) ?_
    | refine Kept.foldl ?_ ?_
    | refine Kept.foldl₂ ?_ ?_
    | refine Kept.foldl₁ ?_ ?_
    | (split; rename_i e; have e0 := congrArg (fun p => p.1) e; have e1 := congrArg (fun p => p.2.1) e; have e2 := congrArg (fun p => p.2.2.1) e; have e3 := congrArg (fun p => p.2.2.2) e; dsimp only at e0 e1 e2 e3; subst e0; subst e1; subst e2; subst e3)
    | (split; rename_i e; have e0 := congrArg (fun p => p.1) e; have e1 := congrArg (fun p => p.2.1) e; have e2 := congrArg (fun p => p.2.2) e; dsimp only at e0 e1 e2; subst e0; subst e1; subst e2)
    | (split; rename_i e; have e0 := congrArg (fun p => p.1) e; have e1 := congrArg (fun p => p.2) e; dsimp only at e0 e1; subst e0; subst e1)
    | (split; rename_i e; have e0 := congrArg (fun p => p.2) e; dsimp only at e0; subst e0)
    | (split; rename_i e; have e0 := congrArg (fun p => p.1) e; dsimp only at e0; subst e0)
    | split
    | (refine Kept.of_snd (by assumption) ?_)
    | intro _ _ _ _
    | intro _ _ _
    | intro _ _
    | intro _
    | dsimp only

theorem runs_execDmaHostReadTimeout {t : Nat} {d : Nat} {s0 : State} (hl : [.hostMem, .clk, .host, .evt] ⊆ l) :
    Runs l s0 (execDmaHostReadTimeout t d s0) := by
  unfold execDmaHostReadTimeout
  refine Runs.next ?_
  have h := Kept.refl l s0
  with_reducible repeat' first
    | exact h
    | refine Kept.ite ?_ ?_
    | refine kept_masterTime (sub hl (by decide)) ?_
    | refine kept_fetchFail (sub hl (by decide)) ?_
    | refine kept_dmaHostFail (sub hl (by decide)) ?_
    | dsimp only

theorem kept_dmaDone {d : Nat} (hl : [.hostMem, .hsync, .bays, .cus, .host, .evt] ⊆ l) (h : Kept l a s) :
    Kept l a (State.dmaDone s d) := by
  unfold State.dmaDone
  with_reducible repeat' first
    | exact h
    | refine Kept.ite ?_ ?_
    | refine kept_setHdma (sub hl (by decide)) ?_
    | refine kept_dmaWord6 (sub hl (by decide)) ?_
    | refine kept_raise (sub hl (by decide)) ?_
    | refine kept_hsyncAdd (sub hl (by decide)) ?_
    | dsimp only

theorem runs_execDmaDescriptorComplete {t : Nat} {d : Nat} {s0 : State} (hl : [.hostMem, .clk, .hsync, .bays, .cus, .host, .evt] ⊆ l) :
    Runs l s0 (execDmaDescriptorComplete t d s0) := by
  unfold execDmaDescriptorComplete
  refine Runs.next ?_
  have h := Kept.refl l s0
  with_reducible repeat' first
    | exact h
    | refine Kept.ite ?_ ?_
    | refine kept_dmaDone (sub hl (by decide)) ?_
    | refine kept_masterTime (sub hl (by decide)) ?_
    | dsimp only

theorem kept_dmaResWrite {d : Nat} {v : Nat} (hl : [.regs, .evt] ⊆ l) (h : Kept l a s) :
    Kept l a (State.dmaResWrite s d v) := by
  unfold State.dmaResWrite
  with_reducible repeat' first
    | exact h
    | refine Kept.ite ?_ ?_
    | refine kept_raise (sub hl (by decide)) ?_
    | refine kept_setReg (sub hl (by decide)) ?_
    | dsimp only

theorem runs_execHostDmaResWrite {t : Nat} {d : Nat} {v : BitVec 32} {s0 : State} (hl : [.regs, .clk, .evt] ⊆ l) :
    Runs l s0 (execHostDmaResWrite t d v s0) := by
  unfold execHostDmaResWrite
  refine Runs.next ?_
  have h := Kept.refl l s0
  with_reducible repeat' first
    | exact h
    | refine Kept.ite ?_ ?_
    | refine kept_dmaResWrite (sub hl (by decide)) ?_
    | refine kept_masterTime (sub hl (by decide)) ?_
    | dsimp only

theorem kept_pcieUp {width : Nat} {rate : Nat} (hl : [.regs, .host] ⊆ l) (h : Kept l a s) :
    Kept l a (State.pcieUp s width rate) := by
  unfold State.pcieUp
  with_reducible repeat' first
    | exact h
    | refine Kept.ite ?_ ?_
    | refine kept_setReg (sub hl (by decide)) ?_
    | refine kept_modHost (sub hl (by decide)) ?_
    | dsimp only

theorem runs_execPcieTraining {t : Nat} {width : Nat} {rate : Nat} {s0 : State} (hl : [.regs, .clk, .host] ⊆ l) :
    Runs l s0 (execPcieTraining t width rate s0) := by
  unfold execPcieTraining
  refine Runs.next ?_
  have h := Kept.refl l s0
  with_reducible repeat' first
    | exact h
    | refine Kept.ite ?_ ?_
    | refine kept_masterTime (sub hl (by decide)) ?_
    | refine kept_pcieUp (sub hl (by decide)) ?_
    | dsimp only

theorem kept_pcieRetrain {width : Nat} {rate : Nat} (hl : [.regs, .host, .evt] ⊆ l) (h : Kept l a s) :
    Kept l a (State.pcieRetrain s width rate) := by
  unfold State.pcieRetrain
  with_reducible repeat' first
    | exact h
    | refine Kept.ite ?_ ?_
    | refine kept_pcieUp (sub hl (by decide)) ?_
    | refine kept_raise (sub hl (by decide)) ?_
    | refine kept_modHost (sub hl (by decide)) ?_
    | dsimp only

theorem runs_execPcieLinkRetrain {t : Nat} {width : Nat} {rate : Nat} {s0 : State} (hl : [.regs, .clk, .host, .evt] ⊆ l) :
    Runs l s0 (execPcieLinkRetrain t width rate s0) := by
  unfold execPcieLinkRetrain
  refine Runs.next ?_
  have h := Kept.refl l s0
  with_reducible repeat' first
    | exact h
    | refine Kept.ite ?_ ?_
    | refine kept_pcieRetrain (sub hl (by decide)) ?_
    | refine kept_masterTime (sub hl (by decide)) ?_
    | dsimp only

theorem kept_pcieDown (hl : [.regs, .host, .evt] ⊆ l) (h : Kept l a s) :
    Kept l a (State.pcieDown s) := by
  unfold State.pcieDown
  with_reducible repeat' first
    | exact h
    | refine Kept.ite ?_ ?_
    | refine kept_setReg (sub hl (by decide)) ?_
    | refine kept_modHost (sub hl (by decide)) ?_
    | refine kept_raise (sub hl (by decide)) ?_
    | dsimp only

theorem runs_execPcieLinkDown {t : Nat} {s0 : State} (hl : [.regs, .clk, .host, .evt] ⊆ l) :
    Runs l s0 (execPcieLinkDown t s0) := by
  unfold execPcieLinkDown
  refine Runs.next ?_
  have h := Kept.refl l s0
  with_reducible repeat' first
    | exact h
    | refine Kept.ite ?_ ?_
    | refine kept_pcieDown (sub hl (by decide)) ?_
    | refine kept_masterTime (sub hl (by decide)) ?_
    | dsimp only

theorem runs_execPciePoisonedTlp {t : Nat} {s0 : State} (hl : [.clk, .host] ⊆ l) :
    Runs l s0 (execPciePoisonedTlp t s0) := by
  unfold execPciePoisonedTlp
  refine Runs.next ?_
  have h := Kept.refl l s0
  with_reducible repeat' first
    | exact h
    | refine Kept.ite ?_ ?_
    | refine kept_reportAer (sub hl (by decide)) ?_
    | refine kept_masterTime (sub hl (by decide)) ?_
    | dsimp only

theorem kept_stopChannels (hl : [.host] ⊆ l) (h : Kept l a s) :
    Kept l a (State.stopChannels s) := by
  unfold State.stopChannels
  with_reducible repeat' first
    | exact h
    | assumption
    | refine Kept.ite ?_ ?_
    | refine kept_setHdma (sub hl (by decide)) ?_
    | refine kept_reportAer (sub hl (by decide)) ?_
    | refine Kept.foldl ?_ ?_
    | (split; rename_i e; have e0 := congrArg (fun p => p.1) e; have e1 := congrArg (fun p => p.2) e; dsimp only at e0 e1; subst e0; subst e1)
    | (split; rename_i e; have e0 := congrArg (fun p => p.2) e; dsimp only at e0; subst e0)
    | split
    | (refine Kept.of_snd (by assumption) ?_)
    | intro _ _ _ _
    | intro _ _ _
    | intro _ _
    | intro _
    | dsimp only

theorem runs_execUncorrectableInternalError {t : Nat} {s0 : State} (hl : [.clk, .host] ⊆ l) :
    Runs l s0 (execUncorrectableInternalError t s0) := by
  unfold execUncorrectableInternalError
  refine Runs.next ?_
  have h := Kept.refl l s0
  with_reducible repeat' first
    | exact h
    | refine Kept.ite ?_ ?_
    | refine kept_stopChannels (sub hl (by decide)) ?_
    | refine kept_masterTime (sub hl (by decide)) ?_
    | dsimp only

end Sys2Proof.Machine
end

