-- ==== Sys2Proof/Laws/KeptLoss.lean ====
section
/-! SUPPORT. What each operation of Machine/Loss.lean may touch, and that it keeps the queue and the invariant. -/

namespace Sys2Proof.Machine

variable {l : List Comp} {a s : State}

theorem kept_wipeBay {b : Nat} (hl : [.mem, .errs, .regs, .bays, .cus, .mus] ⊆ l) (h : Kept l a s) :
    Kept l a (State.wipeBay s b) := by
  unfold State.wipeBay
  repeat' first
    | with_reducible exact h
    | with_reducible refine Kept.ite ?_ ?_
    | with_reducible refine kept_dropRegs (sub hl (by decide)) ?_
    | (intro k hk; cases k <;> first | exact absurd (hl (by decide)) hk | rfl | exact ⟨rfl, rfl⟩)
    | (simp only [kept_litm]; refine KeptUpd.intro_mem ?_ ?_ rfl ?_ ?_)
    | exact id
    | exact (memWf_memWrites _ _)
    | exact (memWf_filter _)
    | exact (memWf_memDrop _ _)
    | exact (fun _ => memWf_nil)
    | dsimp only

theorem kept_voteMissing {b : Nat} (hl : [.stitch, .bays] ⊆ l) (h : Kept l a s) :
    Kept l a (State.voteMissing s b) := by
  unfold State.voteMissing
  with_reducible repeat' first
    | exact h
    | refine Kept.ite ?_ ?_
    | refine kept_modBay (sub hl (by decide)) ?_
    | refine kept_modStitch (sub hl (by decide)) ?_
    | dsimp only

theorem kept_darken {b : Nat} (hl : [.mem, .errs, .regs, .stitch, .bays, .panels, .cus, .mus] ⊆ l) (h : Kept l a s) :
    Kept l a (State.darken s b) := by
  unfold State.darken
  with_reducible repeat' first
    | exact h
    | refine Kept.ite ?_ ?_
    | refine kept_voteMissing (sub hl (by decide)) ?_
    | refine kept_modBay (sub hl (by decide)) ?_
    | refine kept_wipeBay (sub hl (by decide)) ?_
    | refine kept_modPanel (sub hl (by decide)) ?_
    | dsimp only

theorem kept_unavailable {b : Nat} {code : Nat} {f : FaultPlace} (hl : [.regs, .stitch, .ctxs, .evt, .sites, .twin] ⊆ l) (h : Kept l a s) :
    Kept l a (State.unavailable s b code f) := by
  unfold State.unavailable
  with_reducible repeat' first
    | exact h
    | refine Kept.ite ?_ ?_
    | refine kept_failCtxs (sub hl (by decide)) ?_
    | refine kept_raise (sub hl (by decide)) ?_
    | dsimp only

theorem kept_loseBay {b : Nat} {code : Nat} {f : FaultPlace} (hl : [.mem, .errs, .regs, .stitch, .ctxs, .bays, .panels, .cus, .mus, .evt, .sites, .twin] ⊆ l) (h : Kept l a s) :
    Kept l a (State.loseBay s b code f) := by
  unfold State.loseBay
  with_reducible repeat' first
    | exact h
    | refine Kept.ite ?_ ?_
    | refine kept_inventoryAgain (sub hl (by decide)) ?_
    | refine kept_unavailable (sub hl (by decide)) ?_
    | refine kept_darken (sub hl (by decide)) ?_
    | dsimp only

theorem kept_installTables (hl : [.regs] ⊆ l) (h : Kept l a s) :
    Kept l a (State.installTables s) := by
  unfold State.installTables
  with_reducible repeat' first
    | exact h
    | assumption
    | refine Kept.ite ?_ ?_
    | refine kept_dropRegs (sub hl (by decide)) ?_
    | refine kept_setReg (sub hl (by decide)) ?_
    | refine Kept.foldl ?_ ?_
    | (split; rename_i e; have e0 := congrArg (fun p => p.1) e; have e1 := congrArg (fun p => p.2) e; dsimp only at e0 e1; subst e0; subst e1)
    | (split; rename_i e; have e0 := congrArg (fun p => p.2) e; dsimp only at e0; subst e0)
    | split
    | (refine Kept.of_snd (by assumption) ?_)
    | intro _ _ _ _
    | intro _ _ _
    | intro _ _
    | intro _
    | dsimp only

theorem kept_dropWhole {r : Nat} {k : Nat} {m : Moving} (hl : [.rtrs] ⊆ l) (h : Kept l a s) :
    Kept l a (State.dropWhole s r k m) := by
  unfold State.dropWhole
  with_reducible repeat' first
    | exact h
    | assumption
    | refine Kept.ite ?_ ?_
    | refine kept_dropChain (sub hl (by decide)) ?_
    | refine kept_setBuf (sub hl (by decide)) ?_
    | refine Kept.foldl ?_ ?_
    | (split; rename_i e; have e0 := congrArg (fun p => p.1) e; have e1 := congrArg (fun p => p.2) e; dsimp only at e0 e1; subst e0; subst e1)
    | (split; rename_i e; have e0 := congrArg (fun p => p.2) e; dsimp only at e0; subst e0)
    | split
    | (refine Kept.of_snd (by assumption) ?_)
    | intro _ _ _ _
    | intro _ _ _
    | intro _ _
    | intro _
    | dsimp only

theorem kept_dropPackets {p : Nat} (hl : [.mus, .rtrs] ⊆ l) (h : Kept l a s) :
    Kept l a (State.dropPackets s p) := by
  unfold State.dropPackets
  repeat' first
    | with_reducible exact h
    | with_reducible assumption
    | with_reducible refine Kept.ite ?_ ?_
    | with_reducible refine kept_dropWhole (sub hl (by decide)) ?_
    | with_reducible refine Kept.foldl ?_ ?_
    | (split; rename_i e; have e0 := congrArg (fun p => p.1) e; have e1 := congrArg (fun p => p.2) e; dsimp only at e0 e1; subst e0; subst e1)
    | (split; rename_i e; have e0 := congrArg (fun p => p.2) e; dsimp only at e0; subst e0)
    | split
    | (refine Kept.of_snd (by assumption) ?_)
    | (intro k hk; cases k <;> first | exact absurd (hl (by decide)) hk | rfl | exact ⟨rfl, rfl⟩)
    | (simp only [kept_lit]; refine KeptUpd.intro ?_ ?_ ⟨rfl, rfl, rfl⟩)
    | intro _ _ _ _
    | intro _ _ _
    | intro _ _
    | intro _
    | dsimp only

theorem kept_losePanel {p : Nat} {amps : Nat} (hl : [.mem, .errs, .regs, .stitch, .ctxs, .bays, .panels, .cus, .mus, .rtrs, .evt, .sites, .twin] ⊆ l) (h : Kept l a s) :
    Kept l a (State.losePanel s p amps) := by
  unfold State.losePanel
  with_reducible repeat' first
    | exact h
    | assumption
    | refine Kept.ite ?_ ?_
    | refine kept_raise (sub hl (by decide)) ?_
    | refine kept_modPanel (sub hl (by decide)) ?_
    | refine kept_darken (sub hl (by decide)) ?_
    | refine kept_lossVoid (sub hl (by decide)) ?_
    | refine kept_installTables (sub hl (by decide)) ?_
    | refine kept_dropPackets (sub hl (by decide)) ?_
    | refine kept_inventoryAgain (sub hl (by decide)) ?_
    | refine kept_failCtxs (sub hl (by decide)) ?_
    | refine Kept.foldl ?_ ?_
    | (split; rename_i e; have e0 := congrArg (fun p => p.1) e; have e1 := congrArg (fun p => p.2) e; dsimp only at e0 e1; subst e0; subst e1)
    | (split; rename_i e; have e0 := congrArg (fun p => p.2) e; dsimp only at e0; subst e0)
    | split
    | (refine Kept.of_snd (by assumption) ?_)
    | intro _ _ _ _
    | intro _ _ _
    | intro _ _
    | intro _
    | dsimp only

end Sys2Proof.Machine
end

