-- ==== Sys2Proof/Laws/KeptStitch.lean ====
section
/-! SUPPORT. What each operation of Machine/Stitch.lean may touch, and that it keeps the queue and the invariant. -/

namespace Sys2Proof.Machine

variable {l : List Comp} {a s : State}

theorem kept_tokenArrive {peer : Nat} {site : Nat} {seq : Nat} (hl : [.sites] ⊆ l) (h : Kept l a s) :
    Kept l a (State.tokenArrive s peer site seq) := by
  unfold State.tokenArrive
  with_reducible repeat' first
    | exact h
    | refine Kept.ite ?_ ?_
    | refine kept_modSite (sub hl (by decide)) ?_
    | refine Kept.foldl ?_ ?_
    | split
    | intro _ _ _ _
    | intro _ _ _
    | intro _ _
    | intro _
    | dsimp only

theorem runs_execDoneTokenArrival {t : Nat} {peer : Nat} {site : Nat} {_stitch : Nat} {_result : Nat} {seq : Reg} {s0 : State} (hl : [.clk, .sites] ⊆ l) :
    Runs l s0 (execDoneTokenArrival t peer site _stitch _result seq s0) := by
  unfold execDoneTokenArrival
  refine Runs.next ?_
  have h := Kept.refl l s0
  with_reducible repeat' first
    | exact h
    | refine Kept.ite ?_ ?_
    | refine kept_tokenArrive (sub hl (by decide)) ?_
    | refine kept_masterTime (sub hl (by decide)) ?_
    | dsimp only

theorem kept_peerTimeout (hl : [.clk, .evt] ⊆ l) (h : Kept l a s) :
    Kept l a (State.peerTimeout s) := by
  unfold State.peerTimeout
  with_reducible repeat' first
    | exact h
    | refine Kept.ite ?_ ?_
    | refine kept_raise (sub hl (by decide)) ?_
    | refine kept_modClk (sub hl (by decide)) ?_
    | dsimp only

theorem runs_execPeerTimeout {t : Nat} {s0 : State} (hl : [.clk, .evt] ⊆ l) :
    Runs l s0 (execPeerTimeout t s0) := by
  unfold execPeerTimeout
  refine Runs.next ?_
  have h := Kept.refl l s0
  with_reducible repeat' first
    | exact h
    | refine Kept.ite ?_ ?_
    | refine kept_peerTimeout (sub hl (by decide)) ?_
    | refine kept_masterTime (sub hl (by decide)) ?_
    | dsimp only

theorem kept_timeSend (hl : [.clk] ⊆ l) (h : Kept l a s) :
    Kept l a (State.timeSend s) := by
  unfold State.timeSend
  with_reducible repeat' first
    | exact h
    | refine Kept.ite ?_ ?_
    | refine kept_modClk (sub hl (by decide)) ?_
    | dsimp only

theorem runs_execTimeMessageSend {t : Nat} {s0 : State} (hl : [.clk] ⊆ l) :
    Runs l s0 (execTimeMessageSend t s0) := by
  unfold execTimeMessageSend
  refine Runs.next ?_
  have h := Kept.refl l s0
  with_reducible repeat' first
    | exact h
    | refine Kept.ite ?_ ?_
    | refine kept_timeSend (sub hl (by decide)) ?_
    | refine kept_masterTime (sub hl (by decide)) ?_
    | dsimp only

theorem kept_timeReceive {b : Nat} {m : Nat} (hl : [.free, .regs, .stitch, .bays, .evt] ⊆ l) (h : Kept l a s) :
    Kept l a (State.timeReceive s b m) := by
  unfold State.timeReceive
  with_reducible repeat' first
    | exact h
    | refine Kept.ite ?_ ?_
    | refine kept_takeFree (sub hl (by decide)) ?_
    | refine kept_modBay (sub hl (by decide)) ?_
    | refine kept_raiseBay (sub hl (by decide)) ?_
    | refine kept_count (sub hl (by decide)) ?_
    | refine kept_voteMissing (sub hl (by decide)) ?_
    | dsimp only

theorem runs_execTimeMessageReceive {t : Nat} {b : Nat} {m : Nat} {s0 : State} (hl : [.free, .regs, .stitch, .bays, .evt] ⊆ l) :
    Runs l s0 (execTimeMessageReceive t b m s0) := by
  unfold execTimeMessageReceive
  refine Runs.next ?_
  have h := Kept.refl l s0
  with_reducible repeat' first
    | exact h
    | refine Kept.ite ?_ ?_
    | refine kept_timeReceive (sub hl (by decide)) ?_
    | refine kept_bayTime (sub hl (by decide)) ?_
    | dsimp only

theorem kept_boundary (hl : [.regs, .clk] ⊆ l) (h : Kept l a s) :
    Kept l a (State.boundary s) := by
  unfold State.boundary
  with_reducible repeat' first
    | exact h
    | refine Kept.ite ?_ ?_
    | refine kept_modClk (sub hl (by decide)) ?_
    | refine kept_count (sub hl (by decide)) ?_
    | refine kept_setReg (sub hl (by decide)) ?_
    | dsimp only

theorem runs_execBoundaryMessage {t : Nat} {s0 : State} (hl : [.regs, .clk] ⊆ l) :
    Runs l s0 (execBoundaryMessage t s0) := by
  unfold execBoundaryMessage
  refine Runs.next ?_
  have h := Kept.refl l s0
  with_reducible repeat' first
    | exact h
    | refine Kept.ite ?_ ?_
    | refine kept_boundary (sub hl (by decide)) ?_
    | refine kept_masterTime (sub hl (by decide)) ?_
    | dsimp only

theorem kept_slicePower {c : Nat} {v : Nat} (hl : [.mem, .errs, .regs, .bays] ⊆ l) (h : Kept l a s) :
    Kept l a (State.slicePower s c v) := by
  unfold State.slicePower
  repeat' first
    | with_reducible exact h
    | with_reducible assumption
    | with_reducible refine Kept.ite ?_ ?_
    | with_reducible refine kept_modBay (sub hl (by decide)) ?_
    | with_reducible refine kept_setReg (sub hl (by decide)) ?_
    | with_reducible refine Kept.foldl ?_ ?_
    | (split; rename_i e; have e0 := congrArg (fun p => p.1) e; have e1 := congrArg (fun p => p.2) e; dsimp only at e0 e1; subst e0; subst e1)
    | (split; rename_i e; have e0 := congrArg (fun p => p.2) e; dsimp only at e0; subst e0)
    | split
    | (refine Kept.of_snd (by assumption) ?_)
    | (intro k hk; cases k <;> first | exact absurd (hl (by decide)) hk | rfl | exact ⟨rfl, rfl⟩)
    | (simp only [kept_litm]; refine KeptUpd.intro_mem ?_ ?_ rfl ?_ ?_)
    | exact id
    | exact (memWf_memWrites _ _)
    | exact (memWf_filter _)
    | exact (memWf_memDrop _ _)
    | exact (fun _ => memWf_nil)
    | intro _ _ _ _
    | intro _ _ _
    | intro _ _
    | intro _
    | dsimp only

theorem kept_imageReg {id : RegId} {v : Reg} (hl : [.mem, .errs, .regs, .bays, .cus] ⊆ l) (h : Kept l a s) :
    Kept l a (State.imageReg s id v) := by
  unfold State.imageReg
  with_reducible repeat' first
    | exact h
    | refine Kept.ite ?_ ?_
    | refine kept_slicePower (sub hl (by decide)) ?_
    | refine kept_modCu (sub hl (by decide)) ?_
    | refine kept_setReg (sub hl (by decide)) ?_
    | refine Kept.foldl ?_ ?_
    | split
    | intro _ _ _ _
    | intro _ _ _
    | intro _ _
    | intro _
    | dsimp only

theorem kept_imageRegs {i : Image} {f : RegId → Bool} (hl : [.mem, .errs, .regs, .bays, .cus] ⊆ l) (h : Kept l a s) :
    Kept l a (State.imageRegs s i f) := by
  unfold State.imageRegs
  with_reducible repeat' first
    | exact h
    | assumption
    | refine Kept.ite ?_ ?_
    | refine kept_imageReg (sub hl (by decide)) ?_
    | refine Kept.foldl ?_ ?_
    | (split; rename_i e; have e0 := congrArg (fun p => p.1) e; have e1 := congrArg (fun p => p.2) e; dsimp only at e0 e1; subst e0; subst e1)
    | (split; rename_i e; have e0 := congrArg (fun p => p.2) e; dsimp only at e0; subst e0)
    | split
    | (refine Kept.of_snd (by assumption) ?_)
    | intro _ _ _ _
    | intro _ _ _
    | intro _ _
    | intro _
    | dsimp only

theorem kept_loadBytes {x0 : Nat} {bs : List Byte} (hl : [.free, .mem, .errs, .regs, .ctxs, .bays, .evt, .hbm, .twin, .rel] ⊆ l) (h : Kept l a s) :
    Kept l a (State.loadBytes s x0 bs) := by
  unfold State.loadBytes
  with_reducible repeat' first
    | exact h
    | assumption
    | refine Kept.ite ?_ ?_
    | refine kept_hbmContents (sub hl (by decide)) ?_
    | refine kept_pathWords (sub hl (by decide)) ?_
    | refine Kept.foldl ?_ ?_
    | refine Kept.foldl₂ ?_ ?_
    | refine Kept.foldl₁ ?_ ?_
    | (split; rename_i e; have e0 := congrArg (fun p => p.1) e; have e1 := congrArg (fun p => p.2.1) e; have e2 := congrArg (fun p => p.2.2.1) e; have e3 := congrArg (fun p => p.2.2.2) e; dsimp only at e0 e1 e2 e3; subst e0; subst e1; subst e2; subst e3)
    | (split; rename_i e; have e0 := congrArg (fun p => p.1) e; have e1 := congrArg (fun p => p.2.1) e; have e2 := congrArg (fun p => p.2.2) e; dsimp only at e0 e1 e2; subst e0; subst e1; subst e2)
    | (split; rename_i e; have e0 := congrArg (fun p => p.1) e; have e1 := congrArg (fun p => p.2) e; dsimp only at e0 e1; subst e0; subst e1)
    | (split; rename_i e; have e0 := congrArg (fun p => p.2) e; dsimp only at e0; subst e0)
    | (split; rename_i e; have e0 := congrArg (fun p => p.1) e; dsimp only at e0; subst e0)
    | split
    | (refine Kept.of_snd (by assumption) ?_)
    | intro _ _ _ _
    | intro _ _ _
    | intro _ _
    | intro _
    | dsimp only

theorem kept_dropLanes {b : Nat} (hl : [.mem, .errs] ⊆ l) (h : Kept l a s) :
    Kept l a (State.dropLanes s b) := by
  unfold State.dropLanes
  repeat' first
    | with_reducible exact h
    | with_reducible refine Kept.ite ?_ ?_
    | (intro k hk; cases k <;> first | exact absurd (hl (by decide)) hk | rfl | exact ⟨rfl, rfl⟩)
    | (simp only [kept_litm]; refine KeptUpd.intro_mem ?_ ?_ rfl ?_ ?_)
    | exact id
    | exact (memWf_memWrites _ _)
    | exact (memWf_filter _)
    | exact (memWf_memDrop _ _)
    | exact (fun _ => memWf_nil)
    | dsimp only

theorem kept_clearImage {b : Nat} {i : Image} (hl : [.mem, .errs, .regs, .bays] ⊆ l) (h : Kept l a s) :
    Kept l a (State.clearImage s b i) := by
  unfold State.clearImage
  with_reducible repeat' first
    | exact h
    | assumption
    | refine Kept.ite ?_ ?_
    | refine kept_dropRegs (sub hl (by decide)) ?_
    | refine kept_slicePower (sub hl (by decide)) ?_
    | refine Kept.foldl ?_ ?_
    | (split; rename_i e; have e0 := congrArg (fun p => p.1) e; have e1 := congrArg (fun p => p.2) e; dsimp only at e0 e1; subst e0; subst e1)
    | (split; rename_i e; have e0 := congrArg (fun p => p.2) e; dsimp only at e0; subst e0)
    | split
    | (refine Kept.of_snd (by assumption) ?_)
    | intro _ _ _ _
    | intro _ _ _
    | intro _ _
    | intro _
    | dsimp only

theorem kept_holdWindows {b : Nat} (hl : [.bays] ⊆ l) (h : Kept l a s) :
    Kept l a (State.holdWindows s b) := by
  unfold State.holdWindows
  with_reducible repeat' first
    | exact h
    | refine Kept.ite ?_ ?_
    | refine kept_modBay (sub hl (by decide)) ?_
    | dsimp only

theorem kept_reloadBay {k : Nat} {b : Nat} (hl : [.free, .mem, .errs, .regs, .ctxs, .bays, .cus, .evt, .hbm, .twin, .rel] ⊆ l) (h : Kept l a s) :
    Kept l a (State.reloadBay s k b) := by
  unfold State.reloadBay
  with_reducible repeat' first
    | exact h
    | assumption
    | refine Kept.ite ?_ ?_
    | refine kept_writeLane (sub hl (by decide)) ?_
    | refine kept_dropLanes (sub hl (by decide)) ?_
    | refine kept_imageRegs (sub hl (by decide)) ?_
    | refine kept_clearImage (sub hl (by decide)) ?_
    | refine kept_holdWindows (sub hl (by decide)) ?_
    | refine kept_modBay (sub hl (by decide)) ?_
    | refine kept_loadBytes (sub hl (by decide)) ?_
    | refine Kept.foldl ?_ ?_
    | (split; rename_i e; have e0 := congrArg (fun p => p.1) e; have e1 := congrArg (fun p => p.2) e; dsimp only at e0 e1; subst e0; subst e1)
    | (split; rename_i e; have e0 := congrArg (fun p => p.2) e; dsimp only at e0; subst e0)
    | split
    | (refine Kept.of_snd (by assumption) ?_)
    | intro _ _ _ _
    | intro _ _ _
    | intro _ _
    | intro _
    | dsimp only

theorem kept_stageImage {i : Image} (hl : [.bays] ⊆ l) (h : Kept l a s) :
    Kept l a (State.stageImage s i) := by
  unfold State.stageImage
  repeat' first
    | with_reducible exact h
    | with_reducible refine Kept.ite ?_ ?_
    | (intro k hk; cases k <;> first | exact absurd (hl (by decide)) hk | rfl | exact ⟨rfl, rfl⟩)
    | (simp only [kept_lit]; refine KeptUpd.intro ?_ ?_ ⟨rfl, rfl, rfl⟩)
    | dsimp only

theorem kept_imageModes {i : Image} {opening : Bool} (hl : [.stitch, .bays, .panels] ⊆ l) (h : Kept l a s) :
    Kept l a (State.imageModes s i opening) := by
  unfold State.imageModes
  with_reducible repeat' first
    | exact h
    | assumption
    | refine Kept.ite ?_ ?_
    | refine kept_modBay (sub hl (by decide)) ?_
    | refine kept_modPanel (sub hl (by decide)) ?_
    | refine kept_modStitch (sub hl (by decide)) ?_
    | refine Kept.foldl ?_ ?_
    | (split; rename_i e; have e0 := congrArg (fun p => p.1) e; have e1 := congrArg (fun p => p.2) e; dsimp only at e0 e1; subst e0; subst e1)
    | (split; rename_i e; have e0 := congrArg (fun p => p.2) e; dsimp only at e0; subst e0)
    | split
    | (refine Kept.of_snd (by assumption) ?_)
    | intro _ _ _ _
    | intro _ _ _
    | intro _ _
    | intro _
    | dsimp only

theorem kept_imageGlobals {i : Image} (hl : [.mem, .errs, .regs, .bays, .cus] ⊆ l) (h : Kept l a s) :
    Kept l a (State.imageGlobals s i) := by
  unfold State.imageGlobals
  with_reducible repeat' first
    | exact h
    | refine Kept.ite ?_ ?_
    | refine kept_imageRegs (sub hl (by decide)) ?_
    | refine kept_dropRegs (sub hl (by decide)) ?_
    | dsimp only

theorem kept_setFeed {i : Image} (hl : [.regs] ⊆ l) (h : Kept l a s) :
    Kept l a (State.setFeed s i) := by
  unfold State.setFeed
  with_reducible repeat' first
    | exact h
    | refine Kept.ite ?_ ?_
    | refine kept_setReg (sub hl (by decide)) ?_
    | dsimp only

theorem kept_queueBlock {c : Ctx} {q : Nat} {shadow : Bool} (hl : [.free, .regs, .evt, .hbm, .rel] ⊆ l) (h : Kept l a s) :
    Kept l a (State.queueBlock s c q shadow).2 := by
  unfold State.queueBlock
  with_reducible repeat' first
    | exact h
    | refine Kept.ite ?_ ?_
    | refine kept_hbmWord (sub hl (by decide)) ?_
    | dsimp only

theorem kept_overflow {q : Nat} {w0 : Nat} {value : Nat} {bound : Nat} (hl : [.regs, .evt] ⊆ l) (h : Kept l a s) :
    Kept l a (State.overflow s q w0 value bound) := by
  unfold State.overflow
  with_reducible repeat' first
    | exact h
    | refine Kept.ite ?_ ?_
    | refine kept_modReg (sub hl (by decide)) ?_
    | refine kept_raise (sub hl (by decide)) ?_
    | dsimp only

theorem kept_publishWord {q : Nat} {w : Word} (hl : [.regs, .evt] ⊆ l) (h : Kept l a s) :
    Kept l a (State.publishWord s q w) := by
  unfold State.publishWord
  with_reducible repeat' first
    | exact h
    | refine Kept.ite ?_ ?_
    | refine kept_setReg (sub hl (by decide)) ?_
    | refine kept_overflow (sub hl (by decide)) ?_
    | refine kept_raise (sub hl (by decide)) ?_
    | dsimp only

theorem kept_publish {c : Ctx} {d : QpDecl} (hl : [.free, .regs, .evt, .hbm, .rel] ⊆ l) (h : Kept l a s) :
    Kept l a (State.publish s c d) := by
  unfold State.publish
  with_reducible repeat' first
    | exact h
    | refine Kept.ite ?_ ?_
    | refine kept_queueBlock (sub hl (by decide)) ?_
    | refine kept_publishWord (sub hl (by decide)) ?_
    | dsimp only

theorem kept_publishAll (hl : [.free, .regs, .evt, .hbm, .rel] ⊆ l) (h : Kept l a s) :
    Kept l a (State.publishAll s) := by
  unfold State.publishAll
  with_reducible repeat' first
    | exact h
    | assumption
    | refine Kept.ite ?_ ?_
    | refine kept_publish (sub hl (by decide)) ?_
    | refine Kept.foldl ?_ ?_
    | (split; rename_i e; have e0 := congrArg (fun p => p.1) e; have e1 := congrArg (fun p => p.2) e; dsimp only at e0 e1; subst e0; subst e1)
    | (split; rename_i e; have e0 := congrArg (fun p => p.2) e; dsimp only at e0; subst e0)
    | split
    | (refine Kept.of_snd (by assumption) ?_)
    | intro _ _ _ _
    | intro _ _ _
    | intro _ _
    | intro _
    | dsimp only

theorem kept_publishTaken (hl : [.free, .regs, .evt, .hbm, .twin, .rel] ⊆ l) (h : Kept l a s) :
    Kept l a (State.publishTaken s) := by
  unfold State.publishTaken
  repeat' first
    | with_reducible exact h
    | with_reducible refine Kept.ite ?_ ?_
    | with_reducible refine kept_publishAll (sub hl (by decide)) ?_
    | (intro k hk; cases k <;> first | exact absurd (hl (by decide)) hk | rfl | exact ⟨rfl, rfl⟩)
    | (simp only [kept_lit]; refine KeptUpd.intro ?_ ?_ ⟨rfl, rfl, rfl⟩)
    | dsimp only

theorem kept_queueVisible {c : Ctx} (hl : [.free, .mem, .errs, .regs, .ctxs, .evt, .hbm, .twin, .rel] ⊆ l) (h : Kept l a s) :
    Kept l a (State.queueVisible s c) := by
  unfold State.queueVisible
  with_reducible repeat' first
    | exact h
    | assumption
    | refine Kept.ite ?_ ?_
    | refine kept_hbmHold (sub hl (by decide)) ?_ ?_
    | refine kept_hbmLoad (sub hl (by decide)) ?_
    | refine Kept.foldl ?_ ?_
    | refine Kept.foldl₂ ?_ ?_
    | refine Kept.foldl₁ ?_ ?_
    | (split; rename_i e; have e0 := congrArg (fun p => p.1) e; have e1 := congrArg (fun p => p.2.1) e; have e2 := congrArg (fun p => p.2.2.1) e; have e3 := congrArg (fun p => p.2.2.2) e; dsimp only at e0 e1 e2 e3; subst e0; subst e1; subst e2; subst e3)
    | (split; rename_i e; have e0 := congrArg (fun p => p.1) e; have e1 := congrArg (fun p => p.2.1) e; have e2 := congrArg (fun p => p.2.2) e; dsimp only at e0 e1 e2; subst e0; subst e1; subst e2)
    | (split; rename_i e; have e0 := congrArg (fun p => p.1) e; have e1 := congrArg (fun p => p.2) e; dsimp only at e0 e1; subst e0; subst e1)
    | (split; rename_i e; have e0 := congrArg (fun p => p.2) e; dsimp only at e0; subst e0)
    | (split; rename_i e; have e0 := congrArg (fun p => p.1) e; dsimp only at e0; subst e0)
    | split
    | (refine Kept.of_snd (by assumption) ?_)
    | intro _ _ _ _
    | intro _ _ _
    | intro _ _
    | intro _
    | dsimp only

theorem kept_panelCorrected {p : Nat} (hl : [.panels, .evt] ⊆ l) (h : Kept l a s) :
    Kept l a (State.panelCorrected s p) := by
  unfold State.panelCorrected
  with_reducible repeat' first
    | exact h
    | refine Kept.ite ?_ ?_
    | refine kept_modPanel (sub hl (by decide)) ?_
    | refine kept_raise (sub hl (by decide)) ?_
    | refine Kept.foldl ?_ ?_
    | split
    | intro _ _ _ _
    | intro _ _ _
    | intro _ _
    | intro _
    | dsimp only

theorem kept_newStitch (hl : [.free, .mem, .errs, .regs, .clk, .stitch, .ctxs, .bays, .panels, .cus, .rtrs, .evt, .hbm, .sites, .twin, .rel] ⊆ l) (h : Kept l a s) :
    Kept l a (State.newStitch s) := by
  unfold State.newStitch
  repeat' first
    | with_reducible exact h
    | with_reducible assumption
    | with_reducible refine Kept.ite ?_ ?_
    | with_reducible refine kept_panelCorrected (sub hl (by decide)) ?_
    | with_reducible refine kept_publishTaken (sub hl (by decide)) ?_
    | with_reducible refine kept_queueVisible (sub hl (by decide)) ?_
    | with_reducible refine kept_modClk (sub hl (by decide)) ?_
    | with_reducible refine kept_modStitch (sub hl (by decide)) ?_
    | with_reducible refine kept_stageImage (sub hl (by decide)) ?_
    | with_reducible refine kept_imageGlobals (sub hl (by decide)) ?_
    | with_reducible refine Kept.foldl ?_ ?_
    | (split; rename_i e; have e0 := congrArg (fun p => p.1) e; have e1 := congrArg (fun p => p.2) e; dsimp only at e0 e1; subst e0; subst e1)
    | (split; rename_i e; have e0 := congrArg (fun p => p.2) e; dsimp only at e0; subst e0)
    | split
    | (refine Kept.of_snd (by assumption) ?_)
    | (intro k hk; cases k <;> first | exact absurd (hl (by decide)) hk | rfl | exact ⟨rfl, rfl⟩)
    | (simp only [kept_lit]; refine KeptUpd.intro ?_ ?_ ⟨rfl, rfl, rfl⟩)
    | intro _ _ _ _
    | intro _ _ _
    | intro _ _
    | intro _
    | dsimp only

theorem kept_startUnits {b : Nat} (hl : [.cus, .mus] ⊆ l) (h : Kept l a s) :
    Kept l a (State.startUnits s b) := by
  unfold State.startUnits
  with_reducible repeat' first
    | exact h
    | assumption
    | refine Kept.ite ?_ ?_
    | refine kept_modCu (sub hl (by decide)) ?_
    | refine kept_modMu (sub hl (by decide)) ?_
    | refine Kept.foldl ?_ ?_
    | (split; rename_i e; have e0 := congrArg (fun p => p.1) e; have e1 := congrArg (fun p => p.2) e; dsimp only at e0 e1; subst e0; subst e1)
    | (split; rename_i e; have e0 := congrArg (fun p => p.2) e; dsimp only at e0; subst e0)
    | split
    | (refine Kept.of_snd (by assumption) ?_)
    | intro _ _ _ _
    | intro _ _ _
    | intro _ _
    | intro _
    | dsimp only

theorem kept_startQuiet {b : Nat} (hl : [.cus, .mus] ⊆ l) (h : Kept l a s) :
    Kept l a (State.startQuiet s b) := by
  unfold State.startQuiet
  with_reducible repeat' first
    | exact h
    | assumption
    | refine Kept.ite ?_ ?_
    | refine kept_modCu (sub hl (by decide)) ?_
    | refine kept_modMu (sub hl (by decide)) ?_
    | refine Kept.foldl ?_ ?_
    | (split; rename_i e; have e0 := congrArg (fun p => p.1) e; have e1 := congrArg (fun p => p.2) e; dsimp only at e0 e1; subst e0; subst e1)
    | (split; rename_i e; have e0 := congrArg (fun p => p.2) e; dsimp only at e0; subst e0)
    | split
    | (refine Kept.of_snd (by assumption) ?_)
    | intro _ _ _ _
    | intro _ _ _
    | intro _ _
    | intro _
    | dsimp only

theorem kept_dropSamples {b : Nat} (hl : [.regs, .bays] ⊆ l) (h : Kept l a s) :
    Kept l a (State.dropSamples s b) := by
  unfold State.dropSamples
  with_reducible repeat' first
    | exact h
    | refine Kept.ite ?_ ?_
    | refine kept_modBay (sub hl (by decide)) ?_
    | refine kept_count (sub hl (by decide)) ?_
    | dsimp only

theorem kept_queueWake {b : Nat} (hl : [.regs, .panels, .evt] ⊆ l) (h : Kept l a s) :
    Kept l a (State.queueWake s b) := by
  unfold State.queueWake
  with_reducible repeat' first
    | exact h
    | refine Kept.ite ?_ ?_
    | refine kept_modPanel (sub hl (by decide)) ?_
    | refine kept_raise (sub hl (by decide)) ?_
    | refine kept_hwSet (sub hl (by decide)) ?_
    | refine Kept.foldl ?_ ?_
    | split
    | intro _ _ _ _
    | intro _ _ _
    | intro _ _
    | intro _
    | dsimp only

theorem kept_entryArm {b : Nat} {left : Nat} {f : Nat} (hl : [.bays] ⊆ l) (h : Kept l a s) :
    Kept l a (State.entryArm s b left f) := by
  unfold State.entryArm
  with_reducible repeat' first
    | exact h
    | refine Kept.ite ?_ ?_
    | refine kept_modBay (sub hl (by decide)) ?_
    | dsimp only

theorem kept_startBay {b : Nat} (hl : [.free, .mem, .errs, .regs, .ctxs, .bays, .panels, .cus, .mus, .evt, .hbm, .twin, .rel] ⊆ l) (h : Kept l a s) :
    Kept l a (State.startBay s b) := by
  unfold State.startBay
  with_reducible repeat' first
    | exact h
    | assumption
    | refine Kept.ite ?_ ?_
    | refine kept_bayCycles (sub hl (by decide)) ?_
    | refine kept_dropSamples (sub hl (by decide)) ?_
    | refine kept_setReg (sub hl (by decide)) ?_
    | refine kept_setBay (sub hl (by decide)) ?_
    | refine kept_queueWake (sub hl (by decide)) ?_
    | refine kept_reloadBay (sub hl (by decide)) ?_
    | refine kept_startQuiet (sub hl (by decide)) ?_
    | refine kept_entryArm (sub hl (by decide)) ?_
    | refine kept_startUnits (sub hl (by decide)) ?_
    | refine kept_modBay (sub hl (by decide)) ?_
    | refine Kept.foldl ?_ ?_
    | refine Kept.foldl₂ ?_ ?_
    | refine Kept.foldl₁ ?_ ?_
    | (split; rename_i e; have e0 := congrArg (fun p => p.1) e; have e1 := congrArg (fun p => p.2.1) e; have e2 := congrArg (fun p => p.2.2.1) e; have e3 := congrArg (fun p => p.2.2.2) e; dsimp only at e0 e1 e2 e3; subst e0; subst e1; subst e2; subst e3)
    | (split; rename_i e; have e0 := congrArg (fun p => p.1) e; have e1 := congrArg (fun p => p.2.1) e; have e2 := congrArg (fun p => p.2.2) e; dsimp only at e0 e1 e2; subst e0; subst e1; subst e2)
    | (split; rename_i e; have e0 := congrArg (fun p => p.1) e; have e1 := congrArg (fun p => p.2) e; dsimp only at e0 e1; subst e0; subst e1)
    | (split; rename_i e; have e0 := congrArg (fun p => p.2) e; dsimp only at e0; subst e0)
    | (split; rename_i e; have e0 := congrArg (fun p => p.1) e; dsimp only at e0; subst e0)
    | split
    | (refine Kept.of_snd (by assumption) ?_)
    | intro _ _ _ _
    | intro _ _ _
    | intro _ _
    | intro _
    | dsimp only

theorem kept_sleepBay {b : Nat} (hl : [.bays, .panels] ⊆ l) (h : Kept l a s) :
    Kept l a (State.sleepBay s b) := by
  unfold State.sleepBay
  with_reducible repeat' first
    | exact h
    | refine Kept.ite ?_ ?_
    | refine kept_modPanel (sub hl (by decide)) ?_
    | refine kept_modBay (sub hl (by decide)) ?_
    | dsimp only

theorem kept_abandonStitch {b : Nat} (hl : [.bays] ⊆ l) (h : Kept l a s) :
    Kept l a (State.abandonStitch s b) := by
  unfold State.abandonStitch
  with_reducible repeat' first
    | exact h
    | refine Kept.ite ?_ ?_
    | refine kept_modBay (sub hl (by decide)) ?_
    | dsimp only

theorem kept_stitchStart {b : Nat} (hl : [.free, .mem, .errs, .regs, .clk, .stitch, .ctxs, .bays, .panels, .cus, .mus, .rtrs, .evt, .hbm, .sites, .twin, .rel] ⊆ l) (h : Kept l a s) :
    Kept l a (State.stitchStart s b) := by
  unfold State.stitchStart
  with_reducible repeat' first
    | exact h
    | refine Kept.ite ?_ ?_
    | refine kept_newStitch (sub hl (by decide)) ?_
    | refine kept_startBay (sub hl (by decide)) ?_
    | refine kept_abandonStitch (sub hl (by decide)) ?_
    | refine kept_sleepBay (sub hl (by decide)) ?_
    | refine kept_queueWake (sub hl (by decide)) ?_
    | refine Kept.foldl ?_ ?_
    | split
    | intro _ _ _ _
    | intro _ _ _
    | intro _ _
    | intro _
    | dsimp only

theorem runs_execStitchStart {t : Nat} {b : Nat} {m : Nat} {s0 : State} (hl : [.free, .mem, .errs, .regs, .clk, .stitch, .ctxs, .bays, .panels, .cus, .mus, .rtrs, .evt, .hbm, .sites, .twin, .rel] ⊆ l) :
    Runs l s0 (execStitchStart t b m s0) := by
  unfold execStitchStart
  refine Runs.next ?_
  have h := Kept.refl l s0
  with_reducible repeat' first
    | exact h
    | refine Kept.ite ?_ ?_
    | refine kept_stitchStart (sub hl (by decide)) ?_
    | refine kept_masterTime (sub hl (by decide)) ?_
    | refine kept_bayTime (sub hl (by decide)) ?_
    | dsimp only

end Sys2Proof.Machine
end

