-- ==== Sys2Proof/Laws/KeptModes.lean ====
section
/-! SUPPORT. What each operation of Machine/Modes.lean may touch, and that it keeps the queue and the invariant. -/

namespace Sys2Proof.Machine

variable {l : List Comp} {a s : State}

theorem kept_modeTable {cls : Nat} {arg : Nat} (hl : [.free, .regs, .evt, .hbm, .rel] ⊆ l) (h : Kept l a s) :
    KeptO l a (State.modeTable s cls arg) := by
  unfold State.modeTable
  with_reducible repeat' first
    | exact h
    | refine Kept.ite ?_ ?_
    | refine kept_hbmReadBytes (sub hl (by decide)) ?_
    | exact KeptO.none
    | refine KeptO.some ?_
    | refine KeptO.ite ?_ ?_
    | exact KeptS.none
    | refine KeptS.some ?_
    | refine KeptS.getD ?_ ?_
    | dsimp only

theorem kept_modeReport {cls : Nat} {state : Nat} {reason : Nat} (hl : [.stitch] ⊆ l) (h : Kept l a s) :
    Kept l a (State.modeReport s cls state reason) := by
  unfold State.modeReport
  with_reducible repeat' first
    | exact h
    | refine Kept.ite ?_ ?_
    | refine kept_modStitch (sub hl (by decide)) ?_
    | dsimp only

theorem kept_stageMode {cls : Nat} {arg : Nat} {target : Nat} {tbl : List Byte} (hl : [.regs, .stitch, .bays, .panels, .evt] ⊆ l) (h : Kept l a s) :
    Kept l a (State.stageMode s cls arg target tbl) := by
  unfold State.stageMode
  with_reducible repeat' first
    | exact h
    | assumption
    | refine Kept.ite ?_ ?_
    | refine kept_modStitch (sub hl (by decide)) ?_
    | refine kept_modBay (sub hl (by decide)) ?_
    | refine kept_modeReport (sub hl (by decide)) ?_
    | refine kept_queueWake (sub hl (by decide)) ?_
    | refine Kept.foldl ?_ ?_
    | (split; rename_i e; have e0 := congrArg (fun p => p.1) e; have e1 := congrArg (fun p => p.2) e; dsimp only at e0 e1; subst e0; subst e1)
    | (split; rename_i e; have e0 := congrArg (fun p => p.2) e; dsimp only at e0; subst e0)
    | split
    | (refine Kept.of_snd (by assumption) ?_)
    | intro _ _ _ _
    | intro _ _ _
    | intro _ _
    | intro _
    | dsimp only

theorem kept_modeStage (hl : [.free, .regs, .stitch, .bays, .panels, .evt, .hbm, .rel] ⊆ l) (h : Kept l a s) :
    Kept l a (State.modeStage s) := by
  unfold State.modeStage
  with_reducible repeat' first
    | exact h
    | assumption
    | refine Kept.ite ?_ ?_
    | refine kept_modeReport (sub hl (by decide)) ?_
    | refine kept_modeTable (sub hl (by decide)) ?_
    | refine kept_stageMode (sub hl (by decide)) ?_
    | exact KeptO.none
    | refine KeptO.some ?_
    | refine KeptO.ite ?_ ?_
    | exact KeptS.none
    | refine KeptS.some ?_
    | refine KeptS.getD ?_ ?_
    | refine Kept.foldl ?_ ?_
    | (split; rename_i e; have e0 := congrArg (fun p => p.1) e; have e1 := congrArg (fun p => p.2) e; dsimp only at e0 e1; subst e0; subst e1)
    | (split; rename_i e; have e0 := congrArg (fun p => p.2) e; dsimp only at e0; subst e0)
    | split
    | (refine Kept.of_snd (by assumption) ?_)
    | (refine KeptO.of (by assumption) ?_)
    | (refine KeptS.of (by assumption) ?_)
    | intro _ _ _ _
    | intro _ _ _
    | intro _ _
    | intro _
    | dsimp only

theorem runs_execModeStage {t : Nat} {s0 : State} (hl : [.free, .regs, .clk, .stitch, .bays, .panels, .evt, .hbm, .rel] ⊆ l) :
    Runs l s0 (execModeStage t s0) := by
  unfold execModeStage
  refine Runs.next ?_
  have h := Kept.refl l s0
  with_reducible repeat' first
    | exact h
    | refine Kept.ite ?_ ?_
    | refine kept_modeStage (sub hl (by decide)) ?_
    | refine kept_masterTime (sub hl (by decide)) ?_
    | dsimp only

theorem kept_unstage {cls : Nat} {keepWakes : Bool} (hl : [.stitch, .bays, .panels] ⊆ l) (h : Kept l a s) :
    Kept l a (State.unstage s cls keepWakes) := by
  unfold State.unstage
  with_reducible repeat' first
    | exact h
    | assumption
    | refine Kept.ite ?_ ?_
    | refine kept_modStitch (sub hl (by decide)) ?_
    | refine kept_modBay (sub hl (by decide)) ?_
    | refine kept_modPanel (sub hl (by decide)) ?_
    | refine Kept.foldl ?_ ?_
    | (split; rename_i e; have e0 := congrArg (fun p => p.1) e; have e1 := congrArg (fun p => p.2) e; dsimp only at e0 e1; subst e0; subst e1)
    | (split; rename_i e; have e0 := congrArg (fun p => p.2) e; dsimp only at e0; subst e0)
    | split
    | (refine Kept.of_snd (by assumption) ?_)
    | intro _ _ _ _
    | intro _ _ _
    | intro _ _
    | intro _
    | dsimp only

theorem kept_abortMode {cls : Nat} {reason : Nat} (hl : [.stitch, .bays, .panels, .evt] ⊆ l) (h : Kept l a s) :
    Kept l a (State.abortMode s cls reason) := by
  unfold State.abortMode
  with_reducible repeat' first
    | exact h
    | refine Kept.ite ?_ ?_
    | refine kept_modeReport (sub hl (by decide)) ?_
    | refine kept_unstage (sub hl (by decide)) ?_
    | refine kept_raise (sub hl (by decide)) ?_
    | dsimp only

theorem kept_modeCancel (hl : [.stitch, .bays, .panels, .evt] ⊆ l) (h : Kept l a s) :
    Kept l a (State.modeCancel s) := by
  unfold State.modeCancel
  with_reducible repeat' first
    | exact h
    | refine Kept.ite ?_ ?_
    | refine kept_abortMode (sub hl (by decide)) ?_
    | refine Kept.foldl ?_ ?_
    | split
    | intro _ _ _ _
    | intro _ _ _
    | intro _ _
    | intro _
    | dsimp only

theorem runs_execModeCancel {t : Nat} {s0 : State} (hl : [.clk, .stitch, .bays, .panels, .evt] ⊆ l) :
    Runs l s0 (execModeCancel t s0) := by
  unfold execModeCancel
  refine Runs.next ?_
  have h := Kept.refl l s0
  with_reducible repeat' first
    | exact h
    | refine Kept.ite ?_ ?_
    | refine kept_modeCancel (sub hl (by decide)) ?_
    | refine kept_masterTime (sub hl (by decide)) ?_
    | dsimp only

theorem kept_stageAck {b : Nat} {cls : Nat} (hl : [.bays] ⊆ l) (h : Kept l a s) :
    Kept l a (State.stageAck s b cls) := by
  unfold State.stageAck
  with_reducible repeat' first
    | exact h
    | refine Kept.ite ?_ ?_
    | refine kept_modBay (sub hl (by decide)) ?_
    | dsimp only

theorem runs_execStageAck {t : Nat} {b : Nat} {cls : Nat} {s0 : State} (hl : [.regs, .bays] ⊆ l) :
    Runs l s0 (execStageAck t b cls s0) := by
  unfold execStageAck
  refine Runs.next ?_
  have h := Kept.refl l s0
  with_reducible repeat' first
    | exact h
    | refine Kept.ite ?_ ?_
    | refine kept_stageAck (sub hl (by decide)) ?_
    | refine kept_bayTime (sub hl (by decide)) ?_
    | dsimp only

theorem kept_wakeStart {b : Nat} (hl : [.bays, .panels] ⊆ l) (h : Kept l a s) :
    Kept l a (State.wakeStart s b) := by
  unfold State.wakeStart
  with_reducible repeat' first
    | exact h
    | refine Kept.ite ?_ ?_
    | refine kept_modBay (sub hl (by decide)) ?_
    | refine kept_modPanel (sub hl (by decide)) ?_
    | refine Kept.foldl ?_ ?_
    | split
    | intro _ _ _ _
    | intro _ _ _
    | intro _ _
    | intro _
    | dsimp only

theorem runs_execBayWakeStart {t : Nat} {b : Nat} {s0 : State} (hl : [.clk, .bays, .panels] ⊆ l) :
    Runs l s0 (execBayWakeStart t b s0) := by
  unfold execBayWakeStart
  refine Runs.next ?_
  have h := Kept.refl l s0
  with_reducible repeat' first
    | exact h
    | refine Kept.ite ?_ ?_
    | refine kept_wakeStart (sub hl (by decide)) ?_
    | refine kept_masterTime (sub hl (by decide)) ?_
    | dsimp only

theorem kept_wakeComplete {b : Nat} (hl : [.bays, .panels] ⊆ l) (h : Kept l a s) :
    Kept l a (State.wakeComplete s b) := by
  unfold State.wakeComplete
  with_reducible repeat' first
    | exact h
    | refine Kept.ite ?_ ?_
    | refine kept_modPanel (sub hl (by decide)) ?_
    | refine kept_modBay (sub hl (by decide)) ?_
    | refine Kept.foldl ?_ ?_
    | split
    | intro _ _ _ _
    | intro _ _ _
    | intro _ _
    | intro _
    | dsimp only

theorem runs_execWakeComplete {t : Nat} {b : Nat} {s0 : State} (hl : [.clk, .bays, .panels] ⊆ l) :
    Runs l s0 (execWakeComplete t b s0) := by
  unfold execWakeComplete
  refine Runs.next ?_
  have h := Kept.refl l s0
  with_reducible repeat' first
    | exact h
    | refine Kept.ite ?_ ?_
    | refine kept_wakeComplete (sub hl (by decide)) ?_
    | refine kept_masterTime (sub hl (by decide)) ?_
    | dsimp only

theorem kept_ctxRequest {k : Nat} (hl : [.stitch, .evt] ⊆ l) (h : Kept l a s) :
    Kept l a (State.ctxRequest s k) := by
  unfold State.ctxRequest
  with_reducible repeat' first
    | exact h
    | refine Kept.ite ?_ ?_
    | refine kept_raise (sub hl (by decide)) ?_
    | refine kept_modStitch (sub hl (by decide)) ?_
    | dsimp only

theorem runs_execCtxSwitch {t : Nat} {target : Nat} {s0 : State} (hl : [.clk, .stitch, .evt] ⊆ l) :
    Runs l s0 (execCtxSwitch t target s0) := by
  unfold execCtxSwitch
  refine Runs.next ?_
  have h := Kept.refl l s0
  with_reducible repeat' first
    | exact h
    | refine Kept.ite ?_ ?_
    | refine kept_ctxRequest (sub hl (by decide)) ?_
    | refine kept_masterTime (sub hl (by decide)) ?_
    | dsimp only

theorem kept_resumeCtx (hl : [.stitch, .ctxs] ⊆ l) (h : Kept l a s) :
    Kept l a (State.resumeCtx s) := by
  unfold State.resumeCtx
  with_reducible repeat' first
    | exact h
    | refine Kept.ite ?_ ?_
    | refine kept_modStitch (sub hl (by decide)) ?_
    | refine kept_setCtx (sub hl (by decide)) ?_
    | refine Kept.foldl ?_ ?_
    | split
    | intro _ _ _ _
    | intro _ _ _
    | intro _ _
    | intro _
    | dsimp only

theorem runs_execResume {t : Nat} {s0 : State} (hl : [.clk, .stitch, .ctxs] ⊆ l) :
    Runs l s0 (execResume t s0) := by
  unfold execResume
  refine Runs.next ?_
  have h := Kept.refl l s0
  with_reducible repeat' first
    | exact h
    | refine Kept.ite ?_ ?_
    | refine kept_resumeCtx (sub hl (by decide)) ?_
    | refine kept_masterTime (sub hl (by decide)) ?_
    | dsimp only

theorem kept_voidCurrent (hl : [.stitch] ⊆ l) (h : Kept l a s) :
    Kept l a (State.voidCurrent s) := by
  unfold State.voidCurrent
  with_reducible repeat' first
    | exact h
    | refine Kept.ite ?_ ?_
    | refine kept_modStitch (sub hl (by decide)) ?_
    | dsimp only

theorem runs_execVoidCurrent {t : Nat} {s0 : State} (hl : [.clk, .stitch] ⊆ l) :
    Runs l s0 (execVoidCurrent t s0) := by
  unfold execVoidCurrent
  refine Runs.next ?_
  have h := Kept.refl l s0
  with_reducible repeat' first
    | exact h
    | refine Kept.ite ?_ ?_
    | refine kept_voidCurrent (sub hl (by decide)) ?_
    | refine kept_masterTime (sub hl (by decide)) ?_
    | dsimp only

theorem kept_fwLower (hl : [.regs, .stitch, .bays, .panels, .evt] ⊆ l) (h : Kept l a s) :
    Kept l a (State.fwLower s) := by
  unfold State.fwLower
  with_reducible repeat' first
    | exact h
    | refine Kept.ite ?_ ?_
    | refine kept_modStitch (sub hl (by decide)) ?_
    | refine kept_stageMode (sub hl (by decide)) ?_
    | dsimp only

end Sys2Proof.Machine
end

