-- ==== Sys2Proof/Laws/KeptDarn.lean ====
section
/-! SUPPORT. What each operation of Machine/Darn.lean may touch, and that it keeps the queue and the invariant. -/

namespace Sys2Proof.Machine

variable {l : List Comp} {a s : State}

theorem kept_ledgerAppend {b : Nat} {ly : Nat} {pc : Nat} {source : Nat} {stitch : Nat} (hl : [.store] ⊆ l) (h : Kept l a s) :
    Kept l a (State.ledgerAppend s b ly pc source stitch) := by
  unfold State.ledgerAppend
  with_reducible repeat' first
    | exact h
    | refine Kept.ite ?_ ?_
    | refine kept_logRecord (sub hl (by decide)) ?_
    | dsimp only

theorem kept_noSpare {b : Nat} {ly : Nat} {pc : Nat} (hl : [.mem, .errs, .regs, .stitch, .ctxs, .bays, .panels, .cus, .mus, .evt, .sites, .twin, .rel, .store] ⊆ l) (h : Kept l a s) :
    Kept l a (State.noSpare s b ly pc) := by
  unfold State.noSpare
  repeat' first
    | with_reducible exact h
    | with_reducible refine Kept.ite ?_ ?_
    | with_reducible refine kept_loseBay (sub hl (by decide)) ?_
    | with_reducible refine kept_ledgerAppend (sub hl (by decide)) ?_
    | (intro k hk; cases k <;> first | exact absurd (hl (by decide)) hk | rfl | exact ⟨rfl, rfl⟩)
    | (simp only [kept_lit]; refine KeptUpd.intro ?_ ?_ ⟨rfl, rfl, rfl⟩)
    | dsimp only

theorem kept_takeDarns {x0 : List Nat} (hl : [.mem, .errs, .regs, .stitch, .ctxs, .bays, .panels, .cus, .mus, .evt, .sites, .twin, .rel, .store] ⊆ l) (h : Kept l a s) :
    Kept l a (State.takeDarns s x0) := by
  induction x0 generalizing s with
  | nil =>
    unfold State.takeDarns
    repeat' first
      | with_reducible exact h
      | with_reducible refine Kept.ite ?_ ?_
      | with_reducible refine kept_ledgerAppend (sub hl (by decide)) ?_
      | with_reducible refine kept_noSpare (sub hl (by decide)) ?_
      | with_reducible refine Kept.foldl ?_ ?_
      | split
      | (intro k hk; cases k <;> first | exact absurd (hl (by decide)) hk | rfl | exact ⟨rfl, rfl⟩)
      | (simp only [kept_lit]; refine KeptUpd.intro ?_ ?_ ⟨rfl, rfl, rfl⟩)
      | intro _ _ _ _
      | intro _ _ _
      | intro _ _
      | intro _
      | dsimp only
  | cons y ys ih =>
    unfold State.takeDarns
    repeat' first
      | with_reducible exact h
      | with_reducible refine ih ?_
      | with_reducible refine Kept.ite ?_ ?_
      | with_reducible refine kept_ledgerAppend (sub hl (by decide)) ?_
      | with_reducible refine kept_noSpare (sub hl (by decide)) ?_
      | with_reducible refine Kept.foldl ?_ ?_
      | split
      | (intro k hk; cases k <;> first | exact absurd (hl (by decide)) hk | rfl | exact ⟨rfl, rfl⟩)
      | (simp only [kept_lit]; refine KeptUpd.intro ?_ ?_ ⟨rfl, rfl, rfl⟩)
      | intro _ _ _ _
      | intro _ _ _
      | intro _ _
      | intro _
      | dsimp only

theorem kept_permanent {c : Nat} (hl : [.mem, .errs, .regs, .stitch, .ctxs, .bays, .panels, .cus, .mus, .evt, .sites, .twin, .rel, .store] ⊆ l) (h : Kept l a s) :
    Kept l a (State.permanent s c) := by
  unfold State.permanent
  repeat' first
    | with_reducible exact h
    | with_reducible refine Kept.ite ?_ ?_
    | with_reducible refine kept_takeDarns (sub hl (by decide)) ?_
    | (intro k hk; cases k <;> first | exact absurd (hl (by decide)) hk | rfl | exact ⟨rfl, rfl⟩)
    | (simp only [kept_lit]; refine KeptUpd.intro ?_ ?_ ⟨rfl, rfl, rfl⟩)
    | dsimp only

theorem kept_repairWord {c : Nat} {x0 : Nat} (hl : [.free, .mem, .errs, .regs, .bays, .evt, .rel] ⊆ l) (h : Kept l a s) :
    Kept l a (State.repairWord s c x0) := by
  unfold State.repairWord
  with_reducible repeat' first
    | exact h
    | refine Kept.ite ?_ ?_
    | refine kept_readStore (sub hl (by decide)) ?_
    | refine kept_putWord (sub hl (by decide)) ?_
    | dsimp only

theorem kept_silentSlices {c : Nat} (hl : [.mem, .errs] ⊆ l) (h : Kept l a s) :
    Kept l a (State.silentSlices s c) := by
  unfold State.silentSlices
  repeat' first
    | with_reducible exact h
    | with_reducible refine Kept.ite ?_ ?_
    | (intro k hk; cases k <;> first | exact absurd (hl (by decide)) hk | rfl | exact ⟨rfl, rfl⟩)
    | (simp only [kept_litm]; refine KeptUpd.intro_mem ?_ ?_ rfl ?_ ?_)
    | exact id
    | exact (memWf_memWrites _ _)
    | exact (memWf_filter _)
    | exact (memWf_memDrop _ _)
    | exact (fun _ => memWf_nil)
    | dsimp only

theorem kept_copyCluster {c : Nat} (hl : [.free, .mem, .errs, .regs, .bays, .mus, .evt, .rel] ⊆ l) (h : Kept l a s) :
    Kept l a (State.copyCluster s c) := by
  unfold State.copyCluster
  with_reducible repeat' first
    | exact h
    | assumption
    | refine Kept.ite ?_ ?_
    | refine kept_silentSlices (sub hl (by decide)) ?_
    | refine kept_repairWord (sub hl (by decide)) ?_
    | refine kept_putWord (sub hl (by decide)) ?_
    | refine kept_modMu (sub hl (by decide)) ?_
    | refine Kept.foldl ?_ ?_
    | (split; rename_i e; have e0 := congrArg (fun p => p.1) e; have e1 := congrArg (fun p => p.2) e; dsimp only at e0 e1; subst e0; subst e1)
    | (split; rename_i e; have e0 := congrArg (fun p => p.2) e; dsimp only at e0; subst e0)
    | split
    | (refine Kept.of_snd (by assumption) ?_)
    | intro _ _ _ _
    | intro _ _ _
    | intro _ _
    | intro _
    | dsimp only

theorem kept_unitsMoved {c : Nat} (hl : [.regs, .cus, .mus] ⊆ l) (h : Kept l a s) :
    Kept l a (State.unitsMoved s c) := by
  unfold State.unitsMoved
  repeat' first
    | with_reducible exact h
    | with_reducible assumption
    | with_reducible refine Kept.ite ?_ ?_
    | with_reducible refine kept_setReg (sub hl (by decide)) ?_
    | with_reducible refine Kept.foldl ?_ ?_
    | (split; rename_i e; have e0 := congrArg (fun p => p.1) e; have e1 := congrArg (fun p => p.2) e; dsimp only at e0 e1; subst e0; subst e1)
    | (split; rename_i e; have e0 := congrArg (fun p => p.2) e; dsimp only at e0; subst e0)
    | split
    | (refine Kept.of_snd (by assumption) ?_)
    | (intro k hk; cases k <;> first | exact absurd (hl (by decide)) hk | rfl | exact ⟨rfl, rfl⟩)
    | (simp only [kept_lit]; refine KeptUpd.intro ?_ ?_ ⟨rfl, rfl, rfl⟩)
    | intro _ _ _ _
    | intro _ _ _
    | intro _ _
    | intro _
    | dsimp only

theorem kept_reloadCluster {c : Nat} (hl : [.mem, .errs, .regs, .bays, .cus, .mus] ⊆ l) (h : Kept l a s) :
    Kept l a (State.reloadCluster s c) := by
  unfold State.reloadCluster
  with_reducible repeat' first
    | exact h
    | assumption
    | refine Kept.ite ?_ ?_
    | refine kept_unitsMoved (sub hl (by decide)) ?_
    | refine kept_dropRegs (sub hl (by decide)) ?_
    | refine kept_writeLane (sub hl (by decide)) ?_
    | refine kept_imageRegs (sub hl (by decide)) ?_
    | refine Kept.foldl ?_ ?_
    | refine Kept.foldl₂ ?_ ?_
    | refine Kept.foldl₁ ?_ ?_
    | (split; rename_i e; have e0 := congrArg (fun p => p.1) e; have e1 := congrArg (fun p => p.2.1) e; have e2 := congrArg (fun p => p.2.2.1) e; have e3 := congrArg (fun p => p.2.2.2) e; dsimp only at e0 e1 e2 e3; subst e0; subst e1; subst e2; subst e3)
    | (split; rename_i e; have e0 := congrArg (fun p => p.1) e; have e1 := congrArg (fun p => p.2.1) e; have e2 := congrArg (fun p => p.2.2) e; dsimp only at e0 e1 e2; subst e0; subst e1; subst e2)
    | (split; rename_i e; have e0 := congrArg (fun p => p.1) e; have e1 := congrArg (fun p => p.2) e; dsimp only at e0 e1; subst e0; subst e1)
    | (split; rename_i e; have e0 := congrArg (fun p => p.2) e; dsimp only at e0; subst e0)
    | (split; rename_i e; have e0 := congrArg (fun p => p.1) e; dsimp only at e0; subst e0)
    | split
    | (refine Kept.of_snd (by assumption) ?_)
    | intro _ _ _ _
    | intro _ _ _
    | intro _ _
    | intro _
    | dsimp only

theorem kept_darnComplete (hl : [.free, .mem, .errs, .regs, .stitch, .ctxs, .bays, .panels, .cus, .mus, .evt, .sites, .twin, .rel, .store] ⊆ l) (h : Kept l a s) :
    Kept l a (State.darnComplete s) := by
  unfold State.darnComplete
  repeat' first
    | with_reducible exact h
    | with_reducible assumption
    | with_reducible refine Kept.ite ?_ ?_
    | with_reducible refine kept_reloadCluster (sub hl (by decide)) ?_
    | with_reducible refine kept_copyCluster (sub hl (by decide)) ?_
    | with_reducible refine kept_count (sub hl (by decide)) ?_
    | with_reducible refine kept_raise (sub hl (by decide)) ?_
    | with_reducible refine kept_modStitch (sub hl (by decide)) ?_
    | with_reducible refine kept_failCtx (sub hl (by decide)) ?_
    | with_reducible refine kept_takeDarns (sub hl (by decide)) ?_
    | with_reducible refine Kept.foldl ?_ ?_
    | (split; rename_i e; have e0 := congrArg (fun p => p.1) e; have e1 := congrArg (fun p => p.2) e; dsimp only at e0 e1; subst e0; subst e1)
    | (split; rename_i e; have e0 := congrArg (fun p => p.2) e; dsimp only at e0; subst e0)
    | split
    | (refine Kept.of_snd (by assumption) ?_)
    | (intro k hk; cases k <;> first | exact absurd (hl (by decide)) hk | rfl | exact ⟨rfl, rfl⟩)
    | (simp only [kept_lit]; refine KeptUpd.intro ?_ ?_ ⟨rfl, rfl, rfl⟩)
    | intro _ _ _ _
    | intro _ _ _
    | intro _ _
    | intro _
    | dsimp only

theorem runs_execDarnUpdateComplete {t : Nat} {s0 : State} (hl : [.free, .mem, .errs, .regs, .clk, .stitch, .ctxs, .bays, .panels, .cus, .mus, .evt, .sites, .twin, .rel, .store] ⊆ l) :
    Runs l s0 (execDarnUpdateComplete t s0) := by
  unfold execDarnUpdateComplete
  refine Runs.next ?_
  have h := Kept.refl l s0
  with_reducible repeat' first
    | exact h
    | refine Kept.ite ?_ ?_
    | refine kept_darnComplete (sub hl (by decide)) ?_
    | refine kept_masterTime (sub hl (by decide)) ?_
    | dsimp only

end Sys2Proof.Machine
end

