-- ==== Sys2Proof/Laws/KeptCommit.lean ====
section
/-! SUPPORT. What each operation of Machine/Commit.lean may touch, and that it keeps the queue and the invariant. -/

namespace Sys2Proof.Machine

variable {l : List Comp} {a s : State}

theorem kept_hemTile {b : Nat} {bad : List Nat} (hl : [.regs, .bays, .evt, .rel] ⊆ l) (h : Kept l a s) :
    Kept l a (State.hemTile s b bad) := by
  unfold State.hemTile
  with_reducible repeat' first
    | exact h
    | assumption
    | refine Kept.ite ?_ ?_
    | refine kept_chkMismatch (sub hl (by decide)) ?_
    | refine Kept.foldl ?_ ?_
    | (split; rename_i e; have e0 := congrArg (fun p => p.1) e; have e1 := congrArg (fun p => p.2) e; dsimp only at e0 e1; subst e0; subst e1)
    | (split; rename_i e; have e0 := congrArg (fun p => p.2) e; dsimp only at e0; subst e0)
    | split
    | (refine Kept.of_snd (by assumption) ?_)
    | intro _ _ _ _
    | intro _ _ _
    | intro _ _
    | intro _
    | dsimp only

theorem kept_hemTileEnd {b : Nat} (hl : [.regs, .bays, .evt, .rel] ⊆ l) (h : Kept l a s) :
    Kept l a (State.hemTileEnd s b) := by
  unfold State.hemTileEnd
  with_reducible repeat' first
    | exact h
    | refine Kept.ite ?_ ?_
    | refine kept_hemTile (sub hl (by decide)) ?_
    | refine kept_modBay (sub hl (by decide)) ?_
    | refine Kept.foldl ?_ ?_
    | split
    | intro _ _ _ _
    | intro _ _ _
    | intro _ _
    | intro _
    | dsimp only

theorem kept_hemTime {b : Nat} {t : Nat} (hl : [.regs, .bays, .evt, .rel] ⊆ l) (h : Kept l a s) :
    Kept l a (State.hemTime s b t) := by
  unfold State.hemTime
  with_reducible repeat' first
    | exact h
    | refine Kept.ite ?_ ?_
    | refine kept_hemTileEnd (sub hl (by decide)) ?_
    | refine kept_bayTime (sub hl (by decide)) ?_
    | dsimp only

theorem kept_setVote {v : Nat} {code : Nat} {cause : Nat} (hl : [.stitch] ⊆ l) (h : Kept l a s) :
    Kept l a (State.setVote s v code cause) := by
  unfold State.setVote
  with_reducible repeat' first
    | exact h
    | refine Kept.ite ?_ ?_
    | refine kept_modStitch (sub hl (by decide)) ?_
    | dsimp only

theorem kept_fixVote {b : Nat} {code : Nat} {cause : Nat} (hl : [.stitch, .bays] ⊆ l) (h : Kept l a s) :
    Kept l a (State.fixVote s b code cause) := by
  unfold State.fixVote
  with_reducible repeat' first
    | exact h
    | refine Kept.ite ?_ ?_
    | refine kept_modBay (sub hl (by decide)) ?_
    | refine kept_setVote (sub hl (by decide)) ?_
    | dsimp only

theorem kept_freezeBay {b : Nat} (hl : [.stitch, .bays] ⊆ l) (h : Kept l a s) :
    Kept l a (State.freezeBay s b) := by
  unfold State.freezeBay
  with_reducible repeat' first
    | exact h
    | refine Kept.ite ?_ ?_
    | refine kept_fixVote (sub hl (by decide)) ?_
    | dsimp only

theorem kept_siteCorrected {t : Nat} (hl : [.evt, .sites] ⊆ l) (h : Kept l a s) :
    Kept l a (State.siteCorrected s t) := by
  unfold State.siteCorrected
  with_reducible repeat' first
    | exact h
    | refine Kept.ite ?_ ?_
    | refine kept_modSite (sub hl (by decide)) ?_
    | refine kept_raise (sub hl (by decide)) ?_
    | refine Kept.foldl ?_ ?_
    | split
    | intro _ _ _ _
    | intro _ _ _
    | intro _ _
    | intro _
    | dsimp only

theorem kept_freezeSite {t : Nat} (hl : [.regs, .stitch, .evt, .sites] ⊆ l) (h : Kept l a s) :
    Kept l a (State.freezeSite s t) := by
  unfold State.freezeSite
  with_reducible repeat' first
    | exact h
    | refine Kept.ite ?_ ?_
    | refine kept_siteCorrected (sub hl (by decide)) ?_
    | refine kept_count (sub hl (by decide)) ?_
    | refine kept_voidSite (sub hl (by decide)) ?_
    | refine kept_modSite (sub hl (by decide)) ?_
    | refine kept_setVote (sub hl (by decide)) ?_
    | dsimp only

theorem kept_stackCorrected {st : Nat} (hl : [.evt, .hbm] ⊆ l) (h : Kept l a s) :
    Kept l a (State.stackCorrected s st) := by
  unfold State.stackCorrected
  with_reducible repeat' first
    | exact h
    | refine Kept.ite ?_ ?_
    | refine kept_modHbm (sub hl (by decide)) ?_
    | refine kept_raise (sub hl (by decide)) ?_
    | refine Kept.foldl ?_ ?_
    | split
    | intro _ _ _ _
    | intro _ _ _
    | intro _ _
    | intro _
    | dsimp only

theorem kept_voteFreeze {v : Nat} (hl : [.regs, .stitch, .bays, .evt, .hbm, .sites] ⊆ l) (h : Kept l a s) :
    Kept l a (State.voteFreeze s v) := by
  unfold State.voteFreeze
  with_reducible repeat' first
    | exact h
    | refine Kept.ite ?_ ?_
    | refine kept_freezeBay (sub hl (by decide)) ?_
    | refine kept_setVote (sub hl (by decide)) ?_
    | refine kept_stackCorrected (sub hl (by decide)) ?_
    | refine kept_freezeSite (sub hl (by decide)) ?_
    | dsimp only

theorem runs_execVoteFreeze {t : Nat} {v : Nat} {s0 : State} (hl : [.regs, .clk, .stitch, .bays, .evt, .hbm, .sites, .rel] ⊆ l) :
    Runs l s0 (execVoteFreeze t v s0) := by
  unfold execVoteFreeze
  refine Runs.next ?_
  have h := Kept.refl l s0
  with_reducible repeat' first
    | exact h
    | refine Kept.ite ?_ ?_
    | refine kept_voteFreeze (sub hl (by decide)) ?_
    | refine kept_hemTime (sub hl (by decide)) ?_
    | refine kept_masterTime (sub hl (by decide)) ?_
    | dsimp only

theorem kept_inputHeader {d : QpDecl} {i : Nat} (hl : [.free, .regs, .evt, .hbm, .rel] ⊆ l) (h : Kept l a s) :
    Kept l a (State.inputHeader s d i).2 := by
  unfold State.inputHeader
  with_reducible repeat' first
    | exact h
    | refine Kept.ite ?_ ?_
    | refine kept_hbmWord (sub hl (by decide)) ?_
    | dsimp only

theorem kept_admitted {d : QpDecl} {i : Nat} {before : List (Nat × Nat)} {x0 : Nat} (hl : [.free, .regs, .evt, .hbm, .rel] ⊆ l) (h : Kept l a s) :
    Kept l a (State.admitted s d i before x0).2 := by
  induction x0 generalizing s d i before with
  | zero =>
    unfold State.admitted
    with_reducible repeat' first
      | exact h
      | dsimp only
  | succ n ih =>
    unfold State.admitted
    with_reducible repeat' first
      | exact h
      | refine ih ?_
      | refine Kept.ite ?_ ?_
      | refine kept_inputHeader (sub hl (by decide)) ?_
      | dsimp only

theorem kept_pairAdmits {c : Ctx} {shadow : Bool} {before : List (Nat × Nat)} {d : QpDecl} (hl : [.free, .regs, .evt, .hbm, .rel] ⊆ l) (h : Kept l a s) :
    Kept l a (State.pairAdmits s c shadow before d).2 := by
  unfold State.pairAdmits
  with_reducible repeat' first
    | exact h
    | refine Kept.ite ?_ ?_
    | refine kept_queueBlock (sub hl (by decide)) ?_
    | refine kept_admitted (sub hl (by decide)) ?_
    | dsimp only

theorem kept_admissions {c : Ctx} {shadow : Bool} (hl : [.free, .regs, .evt, .hbm, .rel] ⊆ l) (h : Kept l a s) :
    Kept l a (State.admissions s c shadow).2 := by
  unfold State.admissions
  refine Kept.foldl_named h (fun t x y e hy => ?_)
  have e' : t.2.pairAdmits c shadow t.1 x = y := e
  rw [← e']
  exact kept_pairAdmits (sub hl (by decide)) hy

theorem kept_maskBroadcast (hl : [.free, .regs, .stitch, .evt, .hbm, .rel] ⊆ l) (h : Kept l a s) :
    Kept l a (State.maskBroadcast s) := by
  unfold State.maskBroadcast
  with_reducible repeat' first
    | exact h
    | refine Kept.ite ?_ ?_
    | refine kept_admissions (sub hl (by decide)) ?_
    | refine kept_modStitch (sub hl (by decide)) ?_
    | refine Kept.foldl ?_ ?_
    | split
    | intro _ _ _ _
    | intro _ _ _
    | intro _ _
    | intro _
    | dsimp only

theorem runs_execSeqMaskBroadcast {t : Nat} {s0 : State} (hl : [.free, .regs, .clk, .stitch, .evt, .hbm, .rel] ⊆ l) :
    Runs l s0 (execSeqMaskBroadcast t s0) := by
  unfold execSeqMaskBroadcast
  refine Runs.next ?_
  have h := Kept.refl l s0
  with_reducible repeat' first
    | exact h
    | refine Kept.ite ?_ ?_
    | refine kept_maskBroadcast (sub hl (by decide)) ?_
    | refine kept_masterTime (sub hl (by decide)) ?_
    | dsimp only

theorem kept_latchQueues (hl : [.host] ⊆ l) (h : Kept l a s) :
    Kept l a (State.latchQueues s) := by
  unfold State.latchQueues
  with_reducible repeat' first
    | exact h
    | assumption
    | refine Kept.ite ?_ ?_
    | refine kept_modHost (sub hl (by decide)) ?_
    | refine Kept.foldl ?_ ?_
    | (split; rename_i e; have e0 := congrArg (fun p => p.1) e; have e1 := congrArg (fun p => p.2) e; dsimp only at e0 e1; subst e0; subst e1)
    | (split; rename_i e; have e0 := congrArg (fun p => p.2) e; dsimp only at e0; subst e0)
    | split
    | (refine Kept.of_snd (by assumption) ?_)
    | intro _ _ _ _
    | intro _ _ _
    | intro _ _
    | intro _
    | dsimp only

theorem kept_classify {d : Detection} {permanent : Bool} (hl : [.mem, .errs, .regs, .stitch, .ctxs, .bays, .panels, .cus, .mus, .evt, .sites, .twin, .rel, .store] ⊆ l) (h : Kept l a s) :
    Kept l a (State.classify s d permanent) := by
  unfold State.classify
  with_reducible repeat' first
    | exact h
    | refine Kept.ite ?_ ?_
    | refine kept_count (sub hl (by decide)) ?_
    | refine kept_raise (sub hl (by decide)) ?_
    | refine kept_permanent (sub hl (by decide)) ?_
    | dsimp only

theorem kept_classifyAll {clean : Bool} (hl : [.mem, .errs, .regs, .stitch, .ctxs, .bays, .panels, .cus, .mus, .evt, .sites, .twin, .rel, .store] ⊆ l) (h : Kept l a s) :
    Kept l a (State.classifyAll s clean) := by
  unfold State.classifyAll
  repeat' first
    | with_reducible exact h
    | with_reducible assumption
    | with_reducible refine Kept.ite ?_ ?_
    | with_reducible refine kept_classify (sub hl (by decide)) ?_
    | with_reducible refine Kept.foldl ?_ ?_
    | (split; rename_i e; have e0 := congrArg (fun p => p.1) e; have e1 := congrArg (fun p => p.2) e; dsimp only at e0 e1; subst e0; subst e1)
    | (split; rename_i e; have e0 := congrArg (fun p => p.2) e; dsimp only at e0; subst e0)
    | split
    | (refine Kept.of_snd (by assumption) ?_)
    | (intro k hk; cases k <;> first | exact absurd (hl (by decide)) hk | rfl | exact ⟨rfl, rfl⟩)
    | (simp only [kept_lit]; refine KeptUpd.intro ?_ ?_ ⟨rfl, rfl, rfl⟩)
    | intro _ _ _ _
    | intro _ _ _
    | intro _ _
    | intro _
    | dsimp only

theorem kept_recordVoid {v : Nat} {cause : Nat} (hl : [.regs, .stitch, .ctxs, .evt] ⊆ l) (h : Kept l a s) :
    Kept l a (State.recordVoid s v cause) := by
  unfold State.recordVoid
  with_reducible repeat' first
    | exact h
    | refine Kept.ite ?_ ?_
    | refine kept_count (sub hl (by decide)) ?_
    | refine kept_setReg (sub hl (by decide)) ?_
    | refine kept_modStitch (sub hl (by decide)) ?_
    | refine kept_haltCtx (sub hl (by decide)) ?_
    | dsimp only

theorem kept_decide_ (hl : [.regs, .stitch, .ctxs, .evt] ⊆ l) (h : Kept l a s) :
    Kept l a (State.decide_ s) := by
  unfold State.decide_
  with_reducible repeat' first
    | exact h
    | refine Kept.ite ?_ ?_
    | refine kept_recordVoid (sub hl (by decide)) ?_
    | refine kept_modStitch (sub hl (by decide)) ?_
    | refine Kept.foldl ?_ ?_
    | split
    | intro _ _ _ _
    | intro _ _ _
    | intro _ _
    | intro _
    | dsimp only

theorem kept_commitSampling (hl : [.mem, .errs, .regs, .stitch, .ctxs, .hsync, .bays, .panels, .cus, .mus, .host, .evt, .sites, .twin, .rel, .store] ⊆ l) (h : Kept l a s) :
    Kept l a (State.commitSampling s) := by
  unfold State.commitSampling
  repeat' first
    | with_reducible exact h
    | with_reducible refine Kept.ite ?_ ?_
    | with_reducible refine kept_latchQueues (sub hl (by decide)) ?_
    | with_reducible refine kept_modStitch (sub hl (by decide)) ?_
    | with_reducible refine kept_decide_ (sub hl (by decide)) ?_
    | with_reducible refine kept_classifyAll (sub hl (by decide)) ?_
    | (intro k hk; cases k <;> first | exact absurd (hl (by decide)) hk | rfl | exact ⟨rfl, rfl⟩)
    | (simp only [kept_lit]; refine KeptUpd.intro ?_ ?_ ⟨rfl, rfl, rfl⟩)
    | dsimp only

theorem runs_execCommitSampling {t : Nat} {s0 : State} (hl : [.mem, .errs, .regs, .clk, .stitch, .ctxs, .hsync, .bays, .panels, .cus, .mus, .host, .evt, .sites, .twin, .rel, .store] ⊆ l) :
    Runs l s0 (execCommitSampling t s0) := by
  unfold execCommitSampling
  refine Runs.next ?_
  have h := Kept.refl l s0
  with_reducible repeat' first
    | exact h
    | refine Kept.ite ?_ ?_
    | refine kept_commitSampling (sub hl (by decide)) ?_
    | refine kept_masterTime (sub hl (by decide)) ?_
    | dsimp only

theorem kept_flip {primary : Bool} (hl : [.mus, .hbm] ⊆ l) (h : Kept l a s) :
    Kept l a (State.flip s primary) := by
  unfold State.flip
  repeat' first
    | with_reducible exact h
    | with_reducible refine Kept.ite ?_ ?_
    | (intro k hk; cases k <;> first | exact absurd (hl (by decide)) hk | rfl | exact ⟨rfl, rfl⟩)
    | (simp only [kept_lit]; refine KeptUpd.intro ?_ ?_ ⟨rfl, rfl, rfl⟩)
    | dsimp only

theorem kept_dropWritten (hl : [.mus, .hbm] ⊆ l) (h : Kept l a s) :
    Kept l a (State.dropWritten s) := by
  unfold State.dropWritten
  repeat' first
    | with_reducible exact h
    | with_reducible refine Kept.ite ?_ ?_
    | (intro k hk; cases k <;> first | exact absurd (hl (by decide)) hk | rfl | exact ⟨rfl, rfl⟩)
    | (simp only [kept_lit]; refine KeptUpd.intro ?_ ?_ ⟨rfl, rfl, rfl⟩)
    | dsimp only

theorem kept_emptyFabric (hl : [.cus, .mus] ⊆ l) (h : Kept l a s) :
    Kept l a (State.emptyFabric s) := by
  unfold State.emptyFabric
  repeat' first
    | with_reducible exact h
    | with_reducible refine Kept.ite ?_ ?_
    | (intro k hk; cases k <;> first | exact absurd (hl (by decide)) hk | rfl | exact ⟨rfl, rfl⟩)
    | (simp only [kept_lit]; refine KeptUpd.intro ?_ ?_ ⟨rfl, rfl, rfl⟩)
    | dsimp only

theorem kept_flushFabric {void : Bool} (hl : [.regs, .cus, .mus, .evt] ⊆ l) (h : Kept l a s) :
    Kept l a (State.flushFabric s void) := by
  unfold State.flushFabric
  with_reducible repeat' first
    | exact h
    | assumption
    | refine Kept.ite ?_ ?_
    | refine kept_raiseBay (sub hl (by decide)) ?_
    | refine kept_count (sub hl (by decide)) ?_
    | refine kept_emptyFabric (sub hl (by decide)) ?_
    | refine Kept.foldl ?_ ?_
    | (split; rename_i e; have e0 := congrArg (fun p => p.1) e; have e1 := congrArg (fun p => p.2) e; dsimp only at e0 e1; subst e0; subst e1)
    | (split; rename_i e; have e0 := congrArg (fun p => p.2) e; dsimp only at e0; subst e0)
    | split
    | (refine Kept.of_snd (by assumption) ?_)
    | intro _ _ _ _
    | intro _ _ _
    | intro _ _
    | intro _
    | dsimp only

theorem kept_voidCleanup (hl : [.bays, .cus, .mus] ⊆ l) (h : Kept l a s) :
    Kept l a (State.voidCleanup s) := by
  unfold State.voidCleanup
  repeat' first
    | with_reducible exact h
    | with_reducible refine Kept.ite ?_ ?_
    | (intro k hk; cases k <;> first | exact absurd (hl (by decide)) hk | rfl | exact ⟨rfl, rfl⟩)
    | (simp only [kept_lit]; refine KeptUpd.intro ?_ ?_ ⟨rfl, rfl, rfl⟩)
    | dsimp only

theorem kept_installMask (hl : [.free, .regs, .ctxs, .evt, .hbm, .rel] ⊆ l) (h : Kept l a s) :
    Kept l a (State.installMask s) := by
  unfold State.installMask
  with_reducible repeat' first
    | exact h
    | assumption
    | refine Kept.ite ?_ ?_
    | refine kept_admissions (sub hl (by decide)) ?_
    | refine kept_raise (sub hl (by decide)) ?_
    | refine kept_setCtx (sub hl (by decide)) ?_
    | refine Kept.foldl ?_ ?_
    | (split; rename_i e; have e0 := congrArg (fun p => p.1) e; have e1 := congrArg (fun p => p.2) e; dsimp only at e0 e1; subst e0; subst e1)
    | (split; rename_i e; have e0 := congrArg (fun p => p.2) e; dsimp only at e0; subst e0)
    | split
    | (refine Kept.of_snd (by assumption) ?_)
    | intro _ _ _ _
    | intro _ _ _
    | intro _ _
    | intro _
    | dsimp only

theorem kept_applyMode {cls : Nat} {m : StagedMode} (hl : [.stitch, .bays, .panels] ⊆ l) (h : Kept l a s) :
    Kept l a (State.applyMode s cls m) := by
  unfold State.applyMode
  with_reducible repeat' first
    | exact h
    | assumption
    | refine Kept.ite ?_ ?_
    | refine kept_modStitch (sub hl (by decide)) ?_
    | refine kept_modBay (sub hl (by decide)) ?_
    | refine kept_modPanel (sub hl (by decide)) ?_
    | refine kept_modeReport (sub hl (by decide)) ?_
    | refine kept_unstage (sub hl (by decide)) ?_
    | refine Kept.foldl ?_ ?_
    | (split; rename_i e; have e0 := congrArg (fun p => p.1) e; have e1 := congrArg (fun p => p.2) e; dsimp only at e0 e1; subst e0; subst e1)
    | (split; rename_i e; have e0 := congrArg (fun p => p.2) e; dsimp only at e0; subst e0)
    | split
    | (refine Kept.of_snd (by assumption) ?_)
    | intro _ _ _ _
    | intro _ _ _
    | intro _ _
    | intro _
    | dsimp only

theorem kept_reachTargets {apply : List Nat} (hl : [.stitch, .bays, .panels, .evt] ⊆ l) (h : Kept l a s) :
    Kept l a (State.reachTargets s apply) := by
  unfold State.reachTargets
  with_reducible repeat' first
    | exact h
    | assumption
    | refine Kept.ite ?_ ?_
    | refine kept_applyMode (sub hl (by decide)) ?_
    | refine kept_abortMode (sub hl (by decide)) ?_
    | refine Kept.foldl ?_ ?_
    | (split; rename_i e; have e0 := congrArg (fun p => p.1) e; have e1 := congrArg (fun p => p.2) e; dsimp only at e0 e1; subst e0; subst e1)
    | (split; rename_i e; have e0 := congrArg (fun p => p.2) e; dsimp only at e0; subst e0)
    | split
    | (refine Kept.of_snd (by assumption) ?_)
    | intro _ _ _ _
    | intro _ _ _
    | intro _ _
    | intro _
    | dsimp only

theorem kept_releaseOut (hl : [.hsync, .bays, .cus, .evt] ⊆ l) (h : Kept l a s) :
    Kept l a (State.releaseOut s) := by
  unfold State.releaseOut
  repeat' first
    | with_reducible exact h
    | with_reducible assumption
    | with_reducible refine Kept.ite ?_ ?_
    | with_reducible refine kept_physAdd (sub hl (by decide)) ?_
    | with_reducible refine Kept.foldl ?_ ?_
    | (split; rename_i e; have e0 := congrArg (fun p => p.1) e; have e1 := congrArg (fun p => p.2) e; dsimp only at e0 e1; subst e0; subst e1)
    | (split; rename_i e; have e0 := congrArg (fun p => p.2) e; dsimp only at e0; subst e0)
    | split
    | (refine Kept.of_snd (by assumption) ?_)
    | (intro k hk; cases k <;> first | exact absurd (hl (by decide)) hk | rfl | exact ⟨rfl, rfl⟩)
    | (simp only [kept_lit]; refine KeptUpd.intro ?_ ?_ ⟨rfl, rfl, rfl⟩)
    | intro _ _ _ _
    | intro _ _ _
    | intro _ _
    | intro _
    | dsimp only

theorem kept_releaseIn (hl : [.hsync, .bays, .cus, .evt] ⊆ l) (h : Kept l a s) :
    Kept l a (State.releaseIn s) := by
  unfold State.releaseIn
  repeat' first
    | with_reducible exact h
    | with_reducible assumption
    | with_reducible refine Kept.ite ?_ ?_
    | with_reducible refine kept_addBank (sub hl (by decide)) ?_
    | with_reducible refine Kept.foldl ?_ ?_
    | (split; rename_i e; have e0 := congrArg (fun p => p.1) e; have e1 := congrArg (fun p => p.2) e; dsimp only at e0 e1; subst e0; subst e1)
    | (split; rename_i e; have e0 := congrArg (fun p => p.2) e; dsimp only at e0; subst e0)
    | split
    | (refine Kept.of_snd (by assumption) ?_)
    | (intro k hk; cases k <;> first | exact absurd (hl (by decide)) hk | rfl | exact ⟨rfl, rfl⟩)
    | (simp only [kept_lit]; refine KeptUpd.intro ?_ ?_ ⟨rfl, rfl, rfl⟩)
    | intro _ _ _ _
    | intro _ _ _
    | intro _ _
    | intro _
    | dsimp only

theorem kept_clearDirty (hl : [.mus, .hbm] ⊆ l) (h : Kept l a s) :
    Kept l a (State.clearDirty s) := by
  unfold State.clearDirty
  repeat' first
    | with_reducible exact h
    | with_reducible refine Kept.ite ?_ ?_
    | (intro k hk; cases k <;> first | exact absurd (hl (by decide)) hk | rfl | exact ⟨rfl, rfl⟩)
    | (simp only [kept_lit]; refine KeptUpd.intro ?_ ?_ ⟨rfl, rfl, rfl⟩)
    | dsimp only

theorem kept_openCheckpoint {c : Nat} {frozen : List Nat} (hl : [.mus, .hbm, .twin] ⊆ l) (h : Kept l a s) :
    Kept l a (State.openCheckpoint s c frozen) := by
  unfold State.openCheckpoint
  repeat' first
    | with_reducible exact h
    | with_reducible refine Kept.ite ?_ ?_
    | with_reducible refine kept_clearDirty (sub hl (by decide)) ?_
    | (intro k hk; cases k <;> first | exact absurd (hl (by decide)) hk | rfl | exact ⟨rfl, rfl⟩)
    | (simp only [kept_lit]; refine KeptUpd.intro ?_ ?_ ⟨rfl, rfl, rfl⟩)
    | dsimp only

theorem kept_checkpoint (hl : [.mus, .hbm, .twin] ⊆ l) (h : Kept l a s) :
    Kept l a (State.checkpoint s) := by
  unfold State.checkpoint
  with_reducible repeat' first
    | exact h
    | refine Kept.ite ?_ ?_
    | refine kept_openCheckpoint (sub hl (by decide)) ?_
    | dsimp only

theorem kept_unpair (hl : [.mus, .evt, .hbm, .twin] ⊆ l) (h : Kept l a s) :
    Kept l a (State.unpair s) := by
  unfold State.unpair
  repeat' first
    | with_reducible exact h
    | with_reducible refine Kept.ite ?_ ?_
    | with_reducible refine kept_raise (sub hl (by decide)) ?_
    | with_reducible refine kept_clearDirty (sub hl (by decide)) ?_
    | (intro k hk; cases k <;> first | exact absurd (hl (by decide)) hk | rfl | exact ⟨rfl, rfl⟩)
    | (simp only [kept_lit]; refine KeptUpd.intro ?_ ?_ ⟨rfl, rfl, rfl⟩)
    | dsimp only

theorem kept_standbyTells {kind : Nat} {c : Nat} (hl : [.sites] ⊆ l) (h : Kept l a s) :
    Kept l a (State.standbyTells s kind c) := by
  unfold State.standbyTells
  with_reducible repeat' first
    | exact h
    | assumption
    | refine Kept.ite ?_ ?_
    | refine kept_queueFlit (sub hl (by decide)) ?_
    | refine Kept.foldl ?_ ?_
    | (split; rename_i e; have e0 := congrArg (fun p => p.1) e; have e1 := congrArg (fun p => p.2) e; dsimp only at e0 e1; subst e0; subst e1)
    | (split; rename_i e; have e0 := congrArg (fun p => p.2) e; dsimp only at e0; subst e0)
    | split
    | (refine Kept.of_snd (by assumption) ?_)
    | intro _ _ _ _
    | intro _ _ _
    | intro _ _
    | intro _
    | dsimp only

theorem kept_standbyApply (hl : [.regs, .ctxs, .mus, .evt, .hbm, .sites, .twin] ⊆ l) (h : Kept l a s) :
    Kept l a (State.standbyApply s) := by
  unfold State.standbyApply
  repeat' first
    | with_reducible exact h
    | with_reducible assumption
    | with_reducible refine Kept.ite ?_ ?_
    | with_reducible refine kept_flip (sub hl (by decide)) ?_
    | with_reducible refine kept_setCtx (sub hl (by decide)) ?_
    | with_reducible refine kept_setReg (sub hl (by decide)) ?_
    | with_reducible refine kept_standbyTells (sub hl (by decide)) ?_
    | with_reducible refine kept_raise (sub hl (by decide)) ?_
    | with_reducible refine kept_unpair (sub hl (by decide)) ?_
    | with_reducible refine Kept.foldl ?_ ?_
    | with_reducible refine Kept.foldl₂ ?_ ?_
    | with_reducible refine Kept.foldl₁ ?_ ?_
    | (split; rename_i e; have e0 := congrArg (fun p => p.1) e; have e1 := congrArg (fun p => p.2.1) e; have e2 := congrArg (fun p => p.2.2.1) e; have e3 := congrArg (fun p => p.2.2.2) e; dsimp only at e0 e1 e2 e3; subst e0; subst e1; subst e2; subst e3)
    | (split; rename_i e; have e0 := congrArg (fun p => p.1) e; have e1 := congrArg (fun p => p.2.1) e; have e2 := congrArg (fun p => p.2.2) e; dsimp only at e0 e1 e2; subst e0; subst e1; subst e2)
    | (split; rename_i e; have e0 := congrArg (fun p => p.1) e; have e1 := congrArg (fun p => p.2) e; dsimp only at e0 e1; subst e0; subst e1)
    | (split; rename_i e; have e0 := congrArg (fun p => p.2) e; dsimp only at e0; subst e0)
    | (split; rename_i e; have e0 := congrArg (fun p => p.1) e; dsimp only at e0; subst e0)
    | split
    | (refine Kept.of_snd (by assumption) ?_)
    | (intro k hk; cases k <;> first | exact absurd (hl (by decide)) hk | rfl | exact ⟨rfl, rfl⟩)
    | (simp only [kept_lit]; refine KeptUpd.intro ?_ ?_ ⟨rfl, rfl, rfl⟩)
    | intro _ _ _ _
    | intro _ _ _
    | intro _ _
    | intro _
    | dsimp only

theorem kept_noFlip (hl : [.regs, .ctxs, .mus, .evt, .hbm, .sites, .twin] ⊆ l) (h : Kept l a s) :
    Kept l a (State.noFlip s) := by
  unfold State.noFlip
  with_reducible repeat' first
    | exact h
    | refine Kept.ite ?_ ?_
    | refine kept_standbyApply (sub hl (by decide)) ?_
    | refine kept_dropWritten (sub hl (by decide)) ?_
    | dsimp only

theorem kept_commitFlip (hl : [.regs, .ctxs, .mus, .evt, .hbm, .sites, .twin] ⊆ l) (h : Kept l a s) :
    Kept l a (State.commitFlip s) := by
  unfold State.commitFlip
  with_reducible repeat' first
    | exact h
    | refine Kept.ite ?_ ?_
    | refine kept_standbyApply (sub hl (by decide)) ?_
    | refine kept_flip (sub hl (by decide)) ?_
    | dsimp only

theorem kept_reloadWakes {k : Nat} (hl : [.regs, .panels, .evt] ⊆ l) (h : Kept l a s) :
    Kept l a (State.reloadWakes s k) := by
  unfold State.reloadWakes
  with_reducible repeat' first
    | exact h
    | assumption
    | refine Kept.ite ?_ ?_
    | refine kept_queueWake (sub hl (by decide)) ?_
    | refine Kept.foldl ?_ ?_
    | (split; rename_i e; have e0 := congrArg (fun p => p.1) e; have e1 := congrArg (fun p => p.2) e; dsimp only at e0 e1; subst e0; subst e1)
    | (split; rename_i e; have e0 := congrArg (fun p => p.2) e; dsimp only at e0; subst e0)
    | split
    | (refine Kept.of_snd (by assumption) ?_)
    | intro _ _ _ _
    | intro _ _ _
    | intro _ _
    | intro _
    | dsimp only

theorem kept_takeSwitch (hl : [.regs, .stitch, .bays, .panels, .evt] ⊆ l) (h : Kept l a s) :
    Kept l a (State.takeSwitch s) := by
  unfold State.takeSwitch
  with_reducible repeat' first
    | exact h
    | assumption
    | refine Kept.ite ?_ ?_
    | refine kept_abortMode (sub hl (by decide)) ?_
    | refine kept_reloadWakes (sub hl (by decide)) ?_
    | refine kept_modStitch (sub hl (by decide)) ?_
    | refine Kept.foldl ?_ ?_
    | (split; rename_i e; have e0 := congrArg (fun p => p.1) e; have e1 := congrArg (fun p => p.2) e; dsimp only at e0 e1; subst e0; subst e1)
    | (split; rename_i e; have e0 := congrArg (fun p => p.2) e; dsimp only at e0; subst e0)
    | split
    | (refine Kept.of_snd (by assumption) ?_)
    | intro _ _ _ _
    | intro _ _ _
    | intro _ _
    | intro _
    | dsimp only

theorem kept_reloadDone (hl : [.stitch, .ctxs, .bays, .panels] ⊆ l) (h : Kept l a s) :
    Kept l a (State.reloadDone s) := by
  unfold State.reloadDone
  with_reducible repeat' first
    | exact h
    | refine Kept.ite ?_ ?_
    | refine kept_setCtx (sub hl (by decide)) ?_
    | refine kept_modStitch (sub hl (by decide)) ?_
    | refine kept_imageModes (sub hl (by decide)) ?_
    | refine Kept.foldl ?_ ?_
    | split
    | intro _ _ _ _
    | intro _ _ _
    | intro _ _
    | intro _
    | dsimp only

theorem kept_capInForce (hl : [.sup] ⊆ l) (h : Kept l a s) :
    Kept l a (State.capInForce s) := by
  unfold State.capInForce
  repeat' first
    | with_reducible exact h
    | with_reducible refine Kept.ite ?_ ?_
    | with_reducible refine Kept.foldl ?_ ?_
    | split
    | (intro k hk; cases k <;> first | exact absurd (hl (by decide)) hk | rfl | exact ⟨rfl, rfl⟩)
    | (simp only [kept_lit]; refine KeptUpd.intro ?_ ?_ ⟨rfl, rfl, rfl⟩)
    | intro _ _ _ _
    | intro _ _ _
    | intro _ _
    | intro _
    | dsimp only

theorem kept_applyDecision {d : Decision} (hl : [.free, .regs, .stitch, .ctxs, .hsync, .bays, .panels, .cus, .mus, .evt, .hbm, .sites, .twin, .sup, .rel] ⊆ l) (h : Kept l a s) :
    Kept l a (State.applyDecision s d) := by
  unfold State.applyDecision
  with_reducible repeat' first
    | exact h
    | assumption
    | refine Kept.ite ?_ ?_
    | refine kept_installMask (sub hl (by decide)) ?_
    | refine kept_commitFlip (sub hl (by decide)) ?_
    | refine kept_releaseIn (sub hl (by decide)) ?_
    | refine kept_capInForce (sub hl (by decide)) ?_
    | refine kept_checkpoint (sub hl (by decide)) ?_
    | refine kept_releaseOut (sub hl (by decide)) ?_
    | refine kept_reachTargets (sub hl (by decide)) ?_
    | refine kept_flushFabric (sub hl (by decide)) ?_
    | refine kept_takeSwitch (sub hl (by decide)) ?_
    | refine kept_voidCleanup (sub hl (by decide)) ?_
    | refine kept_dropWritten (sub hl (by decide)) ?_
    | refine kept_reloadDone (sub hl (by decide)) ?_
    | refine kept_noFlip (sub hl (by decide)) ?_
    | refine Kept.foldl ?_ ?_
    | refine Kept.foldl₂ ?_ ?_
    | refine Kept.foldl₁ ?_ ?_
    | (split; rename_i e; have e0 := congrArg (fun p => p.1) e; have e1 := congrArg (fun p => p.2.1) e; have e2 := congrArg (fun p => p.2.2.1) e; have e3 := congrArg (fun p => p.2.2.2) e; dsimp only at e0 e1 e2 e3; subst e0; subst e1; subst e2; subst e3)
    | (split; rename_i e; have e0 := congrArg (fun p => p.1) e; have e1 := congrArg (fun p => p.2.1) e; have e2 := congrArg (fun p => p.2.2) e; dsimp only at e0 e1 e2; subst e0; subst e1; subst e2)
    | (split; rename_i e; have e0 := congrArg (fun p => p.1) e; have e1 := congrArg (fun p => p.2) e; dsimp only at e0 e1; subst e0; subst e1)
    | (split; rename_i e; have e0 := congrArg (fun p => p.2) e; dsimp only at e0; subst e0)
    | (split; rename_i e; have e0 := congrArg (fun p => p.1) e; dsimp only at e0; subst e0)
    | split
    | (refine Kept.of_snd (by assumption) ?_)
    | intro _ _ _ _
    | intro _ _ _
    | intro _ _
    | intro _
    | dsimp only

theorem kept_commitApply (hl : [.free, .regs, .stitch, .ctxs, .hsync, .bays, .panels, .cus, .mus, .evt, .hbm, .sites, .twin, .sup, .rel] ⊆ l) (h : Kept l a s) :
    Kept l a (State.commitApply s) := by
  unfold State.commitApply
  with_reducible repeat' first
    | exact h
    | refine Kept.ite ?_ ?_
    | refine kept_applyDecision (sub hl (by decide)) ?_
    | refine kept_modStitch (sub hl (by decide)) ?_
    | refine Kept.foldl ?_ ?_
    | split
    | intro _ _ _ _
    | intro _ _ _
    | intro _ _
    | intro _
    | dsimp only

theorem runs_execCommitApply {t : Nat} {s0 : State} (hl : [.free, .regs, .clk, .stitch, .ctxs, .hsync, .bays, .panels, .cus, .mus, .evt, .hbm, .sites, .twin, .sup, .rel] ⊆ l) :
    Runs l s0 (execCommitApply t s0) := by
  unfold execCommitApply
  refine Runs.next ?_
  have h := Kept.refl l s0
  with_reducible repeat' first
    | exact h
    | refine Kept.ite ?_ ?_
    | refine kept_commitApply (sub hl (by decide)) ?_
    | refine kept_masterTime (sub hl (by decide)) ?_
    | dsimp only

theorem kept_sendTokens {result : Nat} (hl : [.sites] ⊆ l) (h : Kept l a s) :
    Kept l a (State.sendTokens s result) := by
  unfold State.sendTokens
  with_reducible repeat' first
    | exact h
    | assumption
    | refine Kept.ite ?_ ?_
    | refine kept_queueFlit (sub hl (by decide)) ?_
    | refine Kept.foldl ?_ ?_
    | (split; rename_i e; have e0 := congrArg (fun p => p.1) e; have e1 := congrArg (fun p => p.2) e; dsimp only at e0 e1; subst e0; subst e1)
    | (split; rename_i e; have e0 := congrArg (fun p => p.2) e; dsimp only at e0; subst e0)
    | split
    | (refine Kept.of_snd (by assumption) ?_)
    | intro _ _ _ _
    | intro _ _ _
    | intro _ _
    | intro _
    | dsimp only

theorem kept_endPhase {result : Nat} (hl : [.regs, .stitch, .bays, .panels, .evt, .sites] ⊆ l) (h : Kept l a s) :
    Kept l a (State.endPhase s result) := by
  unfold State.endPhase
  with_reducible repeat' first
    | exact h
    | refine Kept.ite ?_ ?_
    | refine kept_modStitch (sub hl (by decide)) ?_
    | refine kept_fwLower (sub hl (by decide)) ?_
    | refine kept_sendTokens (sub hl (by decide)) ?_
    | dsimp only

theorem kept_commitPhaseEnd (hl : [.free, .regs, .stitch, .bays, .panels, .evt, .hbm, .sites, .rel] ⊆ l) (h : Kept l a s) :
    Kept l a (State.commitPhaseEnd s) := by
  unfold State.commitPhaseEnd
  with_reducible repeat' first
    | exact h
    | refine Kept.ite ?_ ?_
    | refine kept_endPhase (sub hl (by decide)) ?_
    | refine kept_modStitch (sub hl (by decide)) ?_
    | refine kept_publishAll (sub hl (by decide)) ?_
    | refine Kept.foldl ?_ ?_
    | split
    | intro _ _ _ _
    | intro _ _ _
    | intro _ _
    | intro _
    | dsimp only

end Sys2Proof.Machine
end

