-- ==== Sys2Proof/Laws/KeptLaunch.lean ====
section
/-! SUPPORT. What each operation of Machine/Launch.lean may touch, and that it keeps the queue and the invariant. -/

namespace Sys2Proof.Machine

variable {l : List Comp} {a s : State}

theorem kept_launchWrite {b : Nat} {e : Nat} {v : Nat} (hl : [.regs, .bays] ⊆ l) (h : Kept l a s) :
    Kept l a (State.launchWrite s b e v) := by
  unfold State.launchWrite
  with_reducible repeat' first
    | exact h
    | refine Kept.ite ?_ ?_
    | refine kept_setBay (sub hl (by decide)) ?_
    | refine kept_setReg (sub hl (by decide)) ?_
    | dsimp only

theorem kept_launchAdd {b : Nat} {k : Nat} {vid : Nat} {n : Nat} (hl : [.hsync, .bays, .cus, .evt] ⊆ l) (h : Kept l a s) :
    Kept l a (State.launchAdd s b k vid n) := by
  unfold State.launchAdd
  with_reducible repeat' first
    | exact h
    | refine Kept.ite ?_ ?_
    | refine kept_addOut (sub hl (by decide)) ?_
    | refine kept_physAdd (sub hl (by decide)) ?_
    | refine Kept.foldl ?_ ?_
    | split
    | intro _ _ _ _
    | intro _ _ _
    | intro _ _
    | intro _
    | dsimp only

theorem kept_launchAct {b : Nat} {e : Nat} {v : Nat} {tgt : Nat} (hl : [.hsync, .bays, .cus, .evt] ⊆ l) (h : Kept l a s) :
    Kept l a (State.launchAct s b e v tgt) := by
  unfold State.launchAct
  with_reducible repeat' first
    | exact h
    | refine Kept.ite ?_ ?_
    | refine kept_addSync (sub hl (by decide)) ?_
    | refine kept_launchAdd (sub hl (by decide)) ?_
    | refine kept_raiseBay (sub hl (by decide)) ?_
    | refine Kept.foldl ?_ ?_
    | split
    | intro _ _ _ _
    | intro _ _ _
    | intro _ _
    | intro _
    | dsimp only

theorem kept_launchFire {b : Nat} {e : Nat} (hl : [.hsync, .bays, .cus, .evt] ⊆ l) (h : Kept l a s) :
    Kept l a (State.launchFire s b e) := by
  unfold State.launchFire
  with_reducible repeat' first
    | exact h
    | refine Kept.ite ?_ ?_
    | refine kept_modBay (sub hl (by decide)) ?_
    | refine kept_launchAct (sub hl (by decide)) ?_
    | refine kept_raiseBay (sub hl (by decide)) ?_
    | dsimp only

theorem runs_execLaunchEntryFire {t : Nat} {b : Nat} {e : Nat} {s0 : State} (hl : [.regs, .hsync, .bays, .cus, .evt] ⊆ l) :
    Runs l s0 (execLaunchEntryFire t b e s0) := by
  unfold execLaunchEntryFire
  refine Runs.next ?_
  have h := Kept.refl l s0
  with_reducible repeat' first
    | exact h
    | refine Kept.ite ?_ ?_
    | refine kept_launchFire (sub hl (by decide)) ?_
    | refine kept_bayTime (sub hl (by decide)) ?_
    | dsimp only

end Sys2Proof.Machine
end

