-- ==== Sys2Proof/Laws/KeptHem.lean ====
section
/-! SUPPORT. What each operation of Machine/Hem.lean may touch, and that it keeps the queue and the invariant. -/

namespace Sys2Proof.Machine

variable {l : List Comp} {a s : State}

theorem kept_overrunLanes {b : Nat} (hl : [.bays, .cus, .evt] ⊆ l) (h : Kept l a s) :
    Kept l a (State.overrunLanes s b) := by
  unfold State.overrunLanes
  with_reducible repeat' first
    | exact h
    | assumption
    | refine Kept.ite ?_ ?_
    | refine kept_modSeq (sub hl (by decide)) ?_
    | refine kept_modBay (sub hl (by decide)) ?_
    | refine kept_voteVoid (sub hl (by decide)) ?_
    | refine kept_raiseBay (sub hl (by decide)) ?_
    | refine Kept.foldl ?_ ?_
    | (split; rename_i e; have e0 := congrArg (fun p => p.1) e; have e1 := congrArg (fun p => p.2) e; dsimp only at e0 e1; subst e0; subst e1)
    | (split; rename_i e; have e0 := congrArg (fun p => p.2) e; dsimp only at e0; subst e0)
    | split
    | (refine Kept.of_snd (by assumption) ?_)
    | intro _ _ _ _
    | intro _ _ _
    | intro _ _
    | intro _
    | dsimp only

theorem kept_retireTaken {b : Nat} (hl : [.regs] ⊆ l) (h : Kept l a s) :
    Kept l a (State.retireTaken s b) := by
  unfold State.retireTaken
  with_reducible repeat' first
    | exact h
    | refine Kept.ite ?_ ?_
    | refine kept_hwSet (sub hl (by decide)) ?_
    | refine kept_setReg (sub hl (by decide)) ?_
    | dsimp only

theorem kept_restoreResidue {b : Nat} (hl : [.regs, .cus, .evt] ⊆ l) (h : Kept l a s) :
    Kept l a (State.restoreResidue s b) := by
  unfold State.restoreResidue
  with_reducible repeat' first
    | exact h
    | assumption
    | refine Kept.ite ?_ ?_
    | refine kept_modCu (sub hl (by decide)) ?_
    | refine kept_raiseBay (sub hl (by decide)) ?_
    | refine kept_count (sub hl (by decide)) ?_
    | refine Kept.foldl ?_ ?_
    | (split; rename_i e; have e0 := congrArg (fun p => p.1) e; have e1 := congrArg (fun p => p.2) e; dsimp only at e0 e1; subst e0; subst e1)
    | (split; rename_i e; have e0 := congrArg (fun p => p.2) e; dsimp only at e0; subst e0)
    | split
    | (refine Kept.of_snd (by assumption) ?_)
    | intro _ _ _ _
    | intro _ _ _
    | intro _ _
    | intro _
    | dsimp only

theorem kept_unbrace {b : Nat} (hl : [.bays] ⊆ l) (h : Kept l a s) :
    Kept l a (State.unbrace s b) := by
  unfold State.unbrace
  with_reducible repeat' first
    | exact h
    | refine Kept.ite ?_ ?_
    | refine kept_modBay (sub hl (by decide)) ?_
    | dsimp only

theorem kept_hemTileStart {b : Nat} {bad : List Nat} (hl : [.bays, .cus] ⊆ l) (h : Kept l a s) :
    Kept l a (State.hemTileStart s b bad) := by
  unfold State.hemTileStart
  with_reducible repeat' first
    | exact h
    | assumption
    | refine Kept.ite ?_ ?_
    | refine kept_modBay (sub hl (by decide)) ?_
    | refine kept_modCu (sub hl (by decide)) ?_
    | refine Kept.foldl ?_ ?_
    | (split; rename_i e; have e0 := congrArg (fun p => p.1) e; have e1 := congrArg (fun p => p.2) e; dsimp only at e0 e1; subst e0; subst e1)
    | (split; rename_i e; have e0 := congrArg (fun p => p.2) e; dsimp only at e0; subst e0)
    | split
    | (refine Kept.of_snd (by assumption) ?_)
    | intro _ _ _ _
    | intro _ _ _
    | intro _ _
    | intro _
    | dsimp only

theorem kept_correctedReport {b : Nat} (hl : [.bays, .evt] ⊆ l) (h : Kept l a s) :
    Kept l a (State.correctedReport s b) := by
  unfold State.correctedReport
  with_reducible repeat' first
    | exact h
    | refine Kept.ite ?_ ?_
    | refine kept_modBay (sub hl (by decide)) ?_
    | refine kept_raiseBay (sub hl (by decide)) ?_
    | refine Kept.foldl ?_ ?_
    | split
    | intro _ _ _ _
    | intro _ _ _
    | intro _ _
    | intro _
    | dsimp only

theorem kept_windowEnd {b : Nat} {bad : List Nat} (hl : [.regs, .bays, .cus, .evt] ⊆ l) (h : Kept l a s) :
    Kept l a (State.windowEnd s b bad) := by
  unfold State.windowEnd
  with_reducible repeat' first
    | exact h
    | refine Kept.ite ?_ ?_
    | refine kept_modBay (sub hl (by decide)) ?_
    | refine kept_unbrace (sub hl (by decide)) ?_
    | refine kept_retireTaken (sub hl (by decide)) ?_
    | refine kept_overrunLanes (sub hl (by decide)) ?_
    | refine kept_correctedReport (sub hl (by decide)) ?_
    | refine kept_hemTileStart (sub hl (by decide)) ?_
    | refine kept_restoreResidue (sub hl (by decide)) ?_
    | dsimp only

theorem runs_execWorkWindowEnd {t : Nat} {b : Nat} {bad : List Nat} {s0 : State} (hl : [.regs, .bays, .cus, .evt] ⊆ l) :
    Runs l s0 (execWorkWindowEnd t b bad s0) := by
  unfold execWorkWindowEnd
  refine Runs.next ?_
  have h := Kept.refl l s0
  with_reducible repeat' first
    | exact h
    | refine Kept.ite ?_ ?_
    | refine kept_windowEnd (sub hl (by decide)) ?_
    | refine kept_bayTime (sub hl (by decide)) ?_
    | dsimp only

theorem runs_execArithFlagSummary {t : Nat} {b : Nat} {s0 : State} (hl : [.regs, .bays, .evt, .rel] ⊆ l) :
    Runs l s0 (execArithFlagSummary t b s0) := by
  unfold execArithFlagSummary
  refine Runs.next ?_
  have h := Kept.refl l s0
  with_reducible repeat' first
    | exact h
    | refine Kept.ite ?_ ?_
    | refine kept_hemTime (sub hl (by decide)) ?_
    | refine kept_summarise (sub hl (by decide)) ?_
    | dsimp only

theorem kept_rollCall {b : Nat} {silentCus : List Nat} {silentMus : List Nat} (hl : [.regs, .bays] ⊆ l) (h : Kept l a s) :
    Kept l a (State.rollCall s b silentCus silentMus) := by
  unfold State.rollCall
  with_reducible repeat' first
    | exact h
    | assumption
    | refine Kept.ite ?_ ?_
    | refine kept_setReg (sub hl (by decide)) ?_
    | refine kept_modBay (sub hl (by decide)) ?_
    | refine Kept.foldl ?_ ?_
    | (split; rename_i e; have e0 := congrArg (fun p => p.1) e; have e1 := congrArg (fun p => p.2) e; dsimp only at e0 e1; subst e0; subst e1)
    | (split; rename_i e; have e0 := congrArg (fun p => p.2) e; dsimp only at e0; subst e0)
    | split
    | (refine Kept.of_snd (by assumption) ?_)
    | intro _ _ _ _
    | intro _ _ _
    | intro _ _
    | intro _
    | dsimp only

theorem runs_execRollCall {t : Nat} {b : Nat} {silentCus : List Nat} {silentMus : List Nat} {s0 : State} (hl : [.regs, .bays, .evt, .rel] ⊆ l) :
    Runs l s0 (execRollCall t b silentCus silentMus s0) := by
  unfold execRollCall
  refine Runs.next ?_
  have h := Kept.refl l s0
  with_reducible repeat' first
    | exact h
    | refine Kept.ite ?_ ?_
    | refine kept_hemTime (sub hl (by decide)) ?_
    | refine kept_rollCall (sub hl (by decide)) ?_
    | dsimp only

theorem kept_sigFault {b : Nat} {loc : Nat} {got : Nat} {want : Nat} {cluster : Nat} {kind : Nat} (hl : [.regs, .bays, .evt, .rel] ⊆ l) (h : Kept l a s) :
    Kept l a (State.sigFault s b loc got want cluster kind) := by
  unfold State.sigFault
  with_reducible repeat' first
    | exact h
    | refine Kept.ite ?_ ?_
    | refine kept_raiseBay (sub hl (by decide)) ?_
    | refine kept_count (sub hl (by decide)) ?_
    | refine kept_detect (sub hl (by decide)) ?_
    | refine kept_voteVoid (sub hl (by decide)) ?_
    | dsimp only

theorem kept_rollCompare {b : Nat} {work : Bool} (hl : [.regs, .bays, .evt, .rel] ⊆ l) (h : Kept l a s) :
    Kept l a (State.rollCompare s b work) := by
  unfold State.rollCompare
  with_reducible repeat' first
    | exact h
    | assumption
    | refine Kept.ite ?_ ?_
    | refine kept_sigFault (sub hl (by decide)) ?_
    | refine kept_modBay (sub hl (by decide)) ?_
    | refine kept_setReg (sub hl (by decide)) ?_
    | refine Kept.foldl ?_ ?_
    | (split; rename_i e; have e0 := congrArg (fun p => p.1) e; have e1 := congrArg (fun p => p.2) e; dsimp only at e0 e1; subst e0; subst e1)
    | (split; rename_i e; have e0 := congrArg (fun p => p.2) e; dsimp only at e0; subst e0)
    | split
    | (refine Kept.of_snd (by assumption) ?_)
    | intro _ _ _ _
    | intro _ _ _
    | intro _ _
    | intro _
    | dsimp only

theorem runs_execRollCallCompare {t : Nat} {b : Nat} {s0 : State} (hl : [.regs, .bays, .evt, .rel] ⊆ l) :
    Runs l s0 (execRollCallCompare t b s0) := by
  unfold execRollCallCompare
  refine Runs.next ?_
  have h := Kept.refl l s0
  with_reducible repeat' first
    | exact h
    | refine Kept.ite ?_ ?_
    | refine kept_hemTime (sub hl (by decide)) ?_
    | refine kept_rollCompare (sub hl (by decide)) ?_
    | dsimp only

theorem kept_scrubWord {x0 : Nat} (hl : [.free, .mem, .errs, .regs, .bays, .evt, .rel] ⊆ l) (h : Kept l a s) :
    Kept l a (State.scrubWord s x0) := by
  unfold State.scrubWord
  with_reducible repeat' first
    | exact h
    | refine Kept.ite ?_ ?_
    | refine kept_readStore (sub hl (by decide)) ?_
    | refine kept_putWord (sub hl (by decide)) ?_
    | dsimp only

theorem kept_scrub {b : Nat} {h' : Nat} {lanes : Bool} (hl : [.free, .mem, .errs, .regs, .bays, .evt, .rel] ⊆ l) (h : Kept l a s) :
    Kept l a (State.scrub s b h' lanes) := by
  unfold State.scrub
  with_reducible repeat' first
    | exact h
    | assumption
    | refine Kept.ite ?_ ?_
    | refine kept_scrubWord (sub hl (by decide)) ?_
    | refine kept_modBay (sub hl (by decide)) ?_
    | refine kept_count (sub hl (by decide)) ?_
    | refine Kept.foldl ?_ ?_
    | (split; rename_i e; have e0 := congrArg (fun p => p.1) e; have e1 := congrArg (fun p => p.2) e; dsimp only at e0 e1; subst e0; subst e1)
    | (split; rename_i e; have e0 := congrArg (fun p => p.2) e; dsimp only at e0; subst e0)
    | split
    | (refine Kept.of_snd (by assumption) ?_)
    | intro _ _ _ _
    | intro _ _ _
    | intro _ _
    | intro _
    | dsimp only

theorem kept_scrubWindow {b : Nat} (hl : [.free, .mem, .errs, .regs, .bays, .evt, .rel] ⊆ l) (h : Kept l a s) :
    Kept l a (State.scrubWindow s b) := by
  unfold State.scrubWindow
  with_reducible repeat' first
    | exact h
    | refine Kept.ite ?_ ?_
    | refine kept_modBay (sub hl (by decide)) ?_
    | refine kept_scrub (sub hl (by decide)) ?_
    | dsimp only

theorem runs_execScrubWindow {t : Nat} {b : Nat} {s0 : State} (hl : [.free, .mem, .errs, .regs, .bays, .evt, .rel] ⊆ l) :
    Runs l s0 (execScrubWindow t b s0) := by
  unfold execScrubWindow
  refine Runs.next ?_
  have h := Kept.refl l s0
  with_reducible repeat' first
    | exact h
    | refine Kept.ite ?_ ?_
    | refine kept_scrubWindow (sub hl (by decide)) ?_
    | refine kept_hemTime (sub hl (by decide)) ?_
    | dsimp only

theorem kept_trimApply {b : Nat} {mv : Int} (hl : [.bays] ⊆ l) (h : Kept l a s) :
    Kept l a (State.trimApply s b mv) := by
  unfold State.trimApply
  with_reducible repeat' first
    | exact h
    | refine Kept.ite ?_ ?_
    | refine kept_modBay (sub hl (by decide)) ?_
    | dsimp only

theorem runs_execTrimApply {t : Nat} {b : Nat} {mv : Int} {s0 : State} (hl : [.regs, .bays] ⊆ l) :
    Runs l s0 (execTrimApply t b mv s0) := by
  unfold execTrimApply
  refine Runs.next ?_
  have h := Kept.refl l s0
  with_reducible repeat' first
    | exact h
    | refine Kept.ite ?_ ?_
    | refine kept_trimApply (sub hl (by decide)) ?_
    | refine kept_bayTime (sub hl (by decide)) ?_
    | dsimp only

theorem kept_frame {b : Nat} {bad : List Nat} {silentCus : List Nat} {silentMus : List Nat} (hl : [.free, .mem, .errs, .regs, .stitch, .ctxs, .bays, .panels, .cus, .mus, .evt, .sites, .twin, .rel, .store] ⊆ l) (h : Kept l a s) :
    Kept l a (State.frame s b bad silentCus silentMus) := by
  unfold State.frame
  repeat' first
    | with_reducible exact h
    | with_reducible assumption
    | with_reducible refine Kept.ite ?_ ?_
    | with_reducible refine kept_scrub (sub hl (by decide)) ?_
    | with_reducible refine kept_rollCompare (sub hl (by decide)) ?_
    | with_reducible refine kept_rollCall (sub hl (by decide)) ?_
    | with_reducible refine kept_correctedReport (sub hl (by decide)) ?_
    | with_reducible refine kept_hemTile (sub hl (by decide)) ?_
    | with_reducible refine kept_modBay (sub hl (by decide)) ?_
    | with_reducible refine kept_classify (sub hl (by decide)) ?_
    | with_reducible refine Kept.foldl ?_ ?_
    | (split; rename_i e; have e0 := congrArg (fun p => p.1) e; have e1 := congrArg (fun p => p.2) e; dsimp only at e0 e1; subst e0; subst e1)
    | (split; rename_i e; have e0 := congrArg (fun p => p.2) e; dsimp only at e0; subst e0)
    | split
    | (refine Kept.of_snd (by assumption) ?_)
    | (intro k hk; cases k <;> first | exact absurd (hl (by decide)) hk | rfl | exact ⟨rfl, rfl⟩)
    | (simp only [kept_lit]; refine KeptUpd.intro ?_ ?_ ⟨rfl, rfl, rfl⟩)
    | intro _ _ _ _
    | intro _ _ _
    | intro _ _
    | intro _
    | dsimp only

theorem runs_execBackgroundFrame {t : Nat} {b : Nat} {bad : List Nat} {silentCus : List Nat} {silentMus : List Nat} {s0 : State} (hl : [.free, .mem, .errs, .regs, .clk, .stitch, .ctxs, .bays, .panels, .cus, .mus, .evt, .sites, .twin, .rel, .store] ⊆ l) :
    Runs l s0 (execBackgroundFrame t b bad silentCus silentMus s0) := by
  unfold execBackgroundFrame
  refine Runs.next ?_
  have h := Kept.refl l s0
  with_reducible repeat' first
    | exact h
    | refine Kept.ite ?_ ?_
    | refine kept_frame (sub hl (by decide)) ?_
    | refine kept_masterTime (sub hl (by decide)) ?_
    | dsimp only

end Sys2Proof.Machine
end

