-- ==== Sys2Proof/Laws/KeptTelemetry.lean ====
section
/-! SUPPORT. What each operation of Machine/Telemetry.lean may touch, and that it keeps the queue and the invariant. -/

namespace Sys2Proof.Machine

variable {l : List Comp} {a s : State}

theorem kept_sample {b : Nat} (hl : [.regs, .bays] ⊆ l) (h : Kept l a s) :
    Kept l a (State.sample s b) := by
  unfold State.sample
  with_reducible repeat' first
    | exact h
    | refine Kept.ite ?_ ?_
    | refine kept_count (sub hl (by decide)) ?_
    | refine kept_modBay (sub hl (by decide)) ?_
    | dsimp only

theorem runs_execFabricSample {t : Nat} {b : Nat} {s0 : State} (hl : [.regs, .bays] ⊆ l) :
    Runs l s0 (execFabricSample t b s0) := by
  unfold execFabricSample
  refine Runs.next ?_
  have h := Kept.refl l s0
  with_reducible repeat' first
    | exact h
    | refine Kept.ite ?_ ?_
    | refine kept_sample (sub hl (by decide)) ?_
    | refine kept_bayTime (sub hl (by decide)) ?_
    | dsimp only

theorem kept_telemetryWrite {b : Nat} (hl : [.free, .mem, .errs, .regs, .ctxs, .bays, .evt, .hbm, .twin, .rel] ⊆ l) (h : Kept l a s) :
    Kept l a (State.telemetryWrite s b) := by
  unfold State.telemetryWrite
  extract_lets y
  split
  · exact h
  · rename_i x rest _
    refine Kept.ite h (Kept.ite (kept_dropSamples (sub hl (by decide)) h) ?_)
    extract_lets s1 s2
    have h1 : Kept l a s1 := kept_modBay (sub hl (by decide)) h
    refine Kept.ite (kept_count (sub hl (by decide)) h1) ?_
    have h2 : Kept l a s2 := kept_setReg (sub hl (by decide)) h1
    split
    · exact kept_addrFault (sub hl (by decide)) h2
    · exact kept_hbmWrite (sub hl (by decide)) h2

theorem runs_execTelemetryRecordWrite {t : Nat} {b : Nat} {s0 : State} (hl : [.free, .mem, .errs, .regs, .ctxs, .bays, .evt, .hbm, .twin, .rel] ⊆ l) :
    Runs l s0 (execTelemetryRecordWrite t b s0) := by
  unfold execTelemetryRecordWrite
  refine Runs.next ?_
  have h := Kept.refl l s0
  with_reducible repeat' first
    | exact h
    | refine Kept.ite ?_ ?_
    | refine kept_telemetryWrite (sub hl (by decide)) ?_
    | refine kept_bayTime (sub hl (by decide)) ?_
    | dsimp only

end Sys2Proof.Machine
end

