-- ==== Sys2Proof/Laws/KeptPower.lean ====
section
/-! SUPPORT. What each operation of Machine/Power.lean may touch, and that it keeps the queue and the invariant. -/

namespace Sys2Proof.Machine

variable {l : List Comp} {a s : State}

theorem kept_openFeed {b : Nat} (hl : [.panels] ⊆ l) (h : Kept l a s) :
    Kept l a (State.openFeed s b) := by
  unfold State.openFeed
  with_reducible repeat' first
    | exact h
    | refine Kept.ite ?_ ?_
    | refine kept_modPanel (sub hl (by decide)) ?_
    | dsimp only

theorem kept_phaseFailed {b : Nat} {phase : Nat} {short : Bool} (hl : [.mem, .errs, .regs, .stitch, .ctxs, .bays, .panels, .cus, .mus, .evt, .sites, .twin] ⊆ l) (h : Kept l a s) :
    Kept l a (State.phaseFailed s b phase short) := by
  unfold State.phaseFailed
  with_reducible repeat' first
    | exact h
    | refine Kept.ite ?_ ?_
    | refine kept_modReg (sub hl (by decide)) ?_
    | refine kept_raiseBay (sub hl (by decide)) ?_
    | refine kept_loseBay (sub hl (by decide)) ?_
    | refine kept_openFeed (sub hl (by decide)) ?_
    | refine kept_fwLower (sub hl (by decide)) ?_
    | refine kept_modStitch (sub hl (by decide)) ?_
    | dsimp only

theorem runs_execRegulatorPhaseFail {t : Nat} {b : Nat} {phase : Nat} {short : Bool} {s0 : State} (hl : [.mem, .errs, .regs, .clk, .stitch, .ctxs, .bays, .panels, .cus, .mus, .evt, .sites, .twin] ⊆ l) :
    Runs l s0 (execRegulatorPhaseFail t b phase short s0) := by
  unfold execRegulatorPhaseFail
  refine Runs.next ?_
  have h := Kept.refl l s0
  with_reducible repeat' first
    | exact h
    | refine Kept.ite ?_ ?_
    | refine kept_phaseFailed (sub hl (by decide)) ?_
    | refine kept_masterTime (sub hl (by decide)) ?_
    | dsimp only

theorem kept_railShort {b : Nat} {amps : Nat} (hl : [.mem, .errs, .regs, .stitch, .ctxs, .bays, .panels, .cus, .mus, .evt, .sites, .twin] ⊆ l) (h : Kept l a s) :
    Kept l a (State.railShort s b amps) := by
  unfold State.railShort
  with_reducible repeat' first
    | exact h
    | refine Kept.ite ?_ ?_
    | refine kept_loseBay (sub hl (by decide)) ?_
    | refine kept_openFeed (sub hl (by decide)) ?_
    | refine kept_raiseBay (sub hl (by decide)) ?_
    | dsimp only

theorem runs_execBayRailShort {t : Nat} {b : Nat} {amps : Nat} {s0 : State} (hl : [.mem, .errs, .regs, .clk, .stitch, .ctxs, .bays, .panels, .cus, .mus, .evt, .sites, .twin] ⊆ l) :
    Runs l s0 (execBayRailShort t b amps s0) := by
  unfold execBayRailShort
  refine Runs.next ?_
  have h := Kept.refl l s0
  with_reducible repeat' first
    | exact h
    | refine Kept.ite ?_ ?_
    | refine kept_railShort (sub hl (by decide)) ?_
    | refine kept_masterTime (sub hl (by decide)) ?_
    | dsimp only

theorem kept_losePcs {p : Nat} (hl : [.regs, .stitch, .ctxs, .evt, .hbm, .sites, .twin, .store] ⊆ l) (h : Kept l a s) :
    Kept l a (State.losePcs s p) := by
  unfold State.losePcs
  with_reducible repeat' first
    | exact h
    | assumption
    | refine Kept.ite ?_ ?_
    | refine kept_failPc (sub hl (by decide)) ?_
    | refine Kept.foldl ?_ ?_
    | (split; rename_i e; have e0 := congrArg (fun p => p.1) e; have e1 := congrArg (fun p => p.2) e; dsimp only at e0 e1; subst e0; subst e1)
    | (split; rename_i e; have e0 := congrArg (fun p => p.2) e; dsimp only at e0; subst e0)
    | split
    | (refine Kept.of_snd (by assumption) ?_)
    | intro _ _ _ _
    | intro _ _ _
    | intro _ _
    | intro _
    | dsimp only

theorem kept_fabricShort {p : Nat} {amps : Nat} (hl : [.mem, .errs, .regs, .stitch, .ctxs, .bays, .panels, .cus, .mus, .rtrs, .evt, .hbm, .sites, .twin, .store] ⊆ l) (h : Kept l a s) :
    Kept l a (State.fabricShort s p amps) := by
  unfold State.fabricShort
  with_reducible repeat' first
    | exact h
    | refine Kept.ite ?_ ?_
    | refine kept_losePcs (sub hl (by decide)) ?_
    | refine kept_losePanel (sub hl (by decide)) ?_
    | dsimp only

theorem runs_execFabricRailShort {t : Nat} {p : Nat} {amps : Nat} {s0 : State} (hl : [.mem, .errs, .regs, .clk, .stitch, .ctxs, .bays, .panels, .cus, .mus, .rtrs, .evt, .hbm, .sites, .twin, .store] ⊆ l) :
    Runs l s0 (execFabricRailShort t p amps s0) := by
  unfold execFabricRailShort
  refine Runs.next ?_
  have h := Kept.refl l s0
  with_reducible repeat' first
    | exact h
    | refine Kept.ite ?_ ?_
    | refine kept_fabricShort (sub hl (by decide)) ?_
    | refine kept_masterTime (sub hl (by decide)) ?_
    | dsimp only

theorem kept_droopBoost {b : Nat} (hl : [.regs] ⊆ l) (h : Kept l a s) :
    Kept l a (State.droopBoost s b) := by
  unfold State.droopBoost
  with_reducible repeat' first
    | exact h
    | refine Kept.ite ?_ ?_
    | refine kept_count (sub hl (by decide)) ?_
    | dsimp only

theorem runs_execDroopBoost {t : Nat} {b : Nat} {s0 : State} (hl : [.regs, .bays] ⊆ l) :
    Runs l s0 (execDroopBoost t b s0) := by
  unfold execDroopBoost
  refine Runs.next ?_
  have h := Kept.refl l s0
  with_reducible repeat' first
    | exact h
    | refine Kept.ite ?_ ?_
    | refine kept_droopBoost (sub hl (by decide)) ?_
    | refine kept_bayTime (sub hl (by decide)) ?_
    | dsimp only

theorem kept_stretch {b : Nat} {on : Bool} (hl : [.bays] ⊆ l) (h : Kept l a s) :
    Kept l a (State.stretch s b on) := by
  unfold State.stretch
  with_reducible repeat' first
    | exact h
    | refine Kept.ite ?_ ?_
    | refine kept_modBay (sub hl (by decide)) ?_
    | dsimp only

theorem runs_execClockStretch {t : Nat} {b : Nat} {s0 : State} (hl : [.regs, .bays] ⊆ l) :
    Runs l s0 (execClockStretch t b s0) := by
  unfold execClockStretch
  refine Runs.next ?_
  have h := Kept.refl l s0
  with_reducible repeat' first
    | exact h
    | refine Kept.ite ?_ ?_
    | refine kept_stretch (sub hl (by decide)) ?_
    | refine kept_bayTime (sub hl (by decide)) ?_
    | dsimp only

theorem runs_execClockStretchEnd {t : Nat} {b : Nat} {s0 : State} (hl : [.regs, .bays] ⊆ l) :
    Runs l s0 (execClockStretchEnd t b s0) := by
  unfold execClockStretchEnd
  refine Runs.next ?_
  have h := Kept.refl l s0
  with_reducible repeat' first
    | exact h
    | refine Kept.ite ?_ ?_
    | refine kept_stretch (sub hl (by decide)) ?_
    | refine kept_bayTime (sub hl (by decide)) ?_
    | dsimp only

theorem kept_vminSample {b : Nat} {mv : Nat} (hl : [.regs, .bays] ⊆ l) (h : Kept l a s) :
    Kept l a (State.vminSample s b mv) := by
  unfold State.vminSample
  with_reducible repeat' first
    | exact h
    | refine Kept.ite ?_ ?_
    | refine kept_modBay (sub hl (by decide)) ?_
    | refine kept_hwSet (sub hl (by decide)) ?_
    | dsimp only

theorem runs_execVminSample {t : Nat} {b : Nat} {mv : Nat} {s0 : State} (hl : [.regs, .bays] ⊆ l) :
    Runs l s0 (execVminSample t b mv s0) := by
  unfold execVminSample
  refine Runs.next ?_
  have h := Kept.refl l s0
  with_reducible repeat' first
    | exact h
    | refine Kept.ite ?_ ?_
    | refine kept_vminSample (sub hl (by decide)) ?_
    | refine kept_bayTime (sub hl (by decide)) ?_
    | dsimp only

theorem kept_riseTick {b : Nat} (hl : [.bays] ⊆ l) (h : Kept l a s) :
    Kept l a (State.riseTick s b) := by
  unfold State.riseTick
  with_reducible repeat' first
    | exact h
    | refine Kept.ite ?_ ?_
    | refine kept_setBay (sub hl (by decide)) ?_
    | dsimp only

theorem runs_execGovernorRiseTick {t : Nat} {b : Nat} {s0 : State} (hl : [.regs, .bays] ⊆ l) :
    Runs l s0 (execGovernorRiseTick t b s0) := by
  unfold execGovernorRiseTick
  refine Runs.next ?_
  have h := Kept.refl l s0
  with_reducible repeat' first
    | exact h
    | refine Kept.ite ?_ ?_
    | refine kept_riseTick (sub hl (by decide)) ?_
    | refine kept_bayTime (sub hl (by decide)) ?_
    | dsimp only

theorem kept_fallTick {b : Nat} (hl : [.bays] ⊆ l) (h : Kept l a s) :
    Kept l a (State.fallTick s b) := by
  unfold State.fallTick
  with_reducible repeat' first
    | exact h
    | refine Kept.ite ?_ ?_
    | refine kept_setBay (sub hl (by decide)) ?_
    | dsimp only

theorem runs_execGovernorFallTick {t : Nat} {b : Nat} {s0 : State} (hl : [.regs, .bays] ⊆ l) :
    Runs l s0 (execGovernorFallTick t b s0) := by
  unfold execGovernorFallTick
  refine Runs.next ?_
  have h := Kept.refl l s0
  with_reducible repeat' first
    | exact h
    | refine Kept.ite ?_ ?_
    | refine kept_fallTick (sub hl (by decide)) ?_
    | refine kept_bayTime (sub hl (by decide)) ?_
    | dsimp only

theorem kept_addEnergy {r : RegId} {uj : Nat} (hl : [.regs] ⊆ l) (h : Kept l a s) :
    Kept l a (State.addEnergy s r uj) := by
  unfold State.addEnergy
  with_reducible repeat' first
    | exact h
    | refine Kept.ite ?_ ?_
    | refine kept_modReg (sub hl (by decide)) ?_
    | dsimp only

theorem kept_supplySample {k : PwrReg} {m : PowerSample} {i : Nat} (hl : [.regs] ⊆ l) (h : Kept l a s) :
    Kept l a (State.supplySample s k m i) := by
  unfold State.supplySample
  with_reducible repeat' first
    | exact h
    | refine Kept.ite ?_ ?_
    | refine kept_setReg (sub hl (by decide)) ?_
    | dsimp only

theorem kept_inputSample {m : PowerSample} (hl : [.regs] ⊆ l) (h : Kept l a s) :
    Kept l a (State.inputSample s m) := by
  unfold State.inputSample
  with_reducible repeat' first
    | exact h
    | refine Kept.ite ?_ ?_
    | refine kept_setReg (sub hl (by decide)) ?_
    | refine kept_supplySample (sub hl (by decide)) ?_
    | refine kept_addEnergy (sub hl (by decide)) ?_
    | dsimp only

theorem kept_panelBudget {p : Nat} {m : PowerSample} (hl : [.regs, .panels] ⊆ l) (h : Kept l a s) :
    Kept l a (State.panelBudget s p m) := by
  unfold State.panelBudget
  with_reducible repeat' first
    | exact h
    | refine Kept.ite ?_ ?_
    | refine kept_inputSample (sub hl (by decide)) ?_
    | refine kept_setReg (sub hl (by decide)) ?_
    | refine kept_modPanel (sub hl (by decide)) ?_
    | refine kept_addEnergy (sub hl (by decide)) ?_
    | dsimp only

theorem runs_execPanelBudgetUpdate {t : Nat} {p : Nat} {m : PowerSample} {s0 : State} (hl : [.regs, .clk, .panels] ⊆ l) :
    Runs l s0 (execPanelBudgetUpdate t p m s0) := by
  unfold execPanelBudgetUpdate
  refine Runs.next ?_
  have h := Kept.refl l s0
  with_reducible repeat' first
    | exact h
    | refine Kept.ite ?_ ?_
    | refine kept_panelBudget (sub hl (by decide)) ?_
    | refine kept_masterTime (sub hl (by decide)) ?_
    | dsimp only

theorem kept_budgetCompare {b : Nat} {draw : Nat} {uj : Nat} (hl : [.regs, .bays] ⊆ l) (h : Kept l a s) :
    Kept l a (State.budgetCompare s b draw uj) := by
  unfold State.budgetCompare
  with_reducible repeat' first
    | exact h
    | refine Kept.ite ?_ ?_
    | refine kept_addEnergy (sub hl (by decide)) ?_
    | refine kept_modBay (sub hl (by decide)) ?_
    | refine kept_setReg (sub hl (by decide)) ?_
    | dsimp only

theorem runs_execBayBudgetCompare {t : Nat} {b : Nat} {drawW : Nat} {uj : Nat} {s0 : State} (hl : [.regs, .clk, .bays] ⊆ l) :
    Runs l s0 (execBayBudgetCompare t b drawW uj s0) := by
  unfold execBayBudgetCompare
  refine Runs.next ?_
  have h := Kept.refl l s0
  with_reducible repeat' first
    | exact h
    | refine Kept.ite ?_ ?_
    | refine kept_budgetCompare (sub hl (by decide)) ?_
    | refine kept_masterTime (sub hl (by decide)) ?_
    | dsimp only

theorem kept_throttle {b : Nat} {temps : List Nat} (hl : [.bays, .evt] ⊆ l) (h : Kept l a s) :
    Kept l a (State.throttle s b temps) := by
  unfold State.throttle
  with_reducible repeat' first
    | exact h
    | refine Kept.ite ?_ ?_
    | refine kept_raiseBay (sub hl (by decide)) ?_
    | refine kept_modBay (sub hl (by decide)) ?_
    | refine Kept.foldl ?_ ?_
    | split
    | intro _ _ _ _
    | intro _ _ _
    | intro _ _
    | intro _
    | dsimp only

theorem kept_thermal {b : Nat} {temps : List Nat} (hl : [.mem, .errs, .regs, .stitch, .ctxs, .bays, .panels, .cus, .mus, .evt, .sites, .twin] ⊆ l) (h : Kept l a s) :
    Kept l a (State.thermal s b temps) := by
  unfold State.thermal
  with_reducible repeat' first
    | exact h
    | refine Kept.ite ?_ ?_
    | refine kept_setReg (sub hl (by decide)) ?_
    | refine kept_throttle (sub hl (by decide)) ?_
    | refine kept_loseBay (sub hl (by decide)) ?_
    | refine kept_modPanel (sub hl (by decide)) ?_
    | refine kept_raiseBay (sub hl (by decide)) ?_
    | refine Kept.foldl ?_ ?_
    | split
    | intro _ _ _ _
    | intro _ _ _
    | intro _ _
    | intro _
    | dsimp only

theorem runs_execThermalSample {t : Nat} {b : Nat} {temps : List Nat} {s0 : State} (hl : [.mem, .errs, .regs, .clk, .stitch, .ctxs, .bays, .panels, .cus, .mus, .evt, .sites, .twin] ⊆ l) :
    Runs l s0 (execThermalSample t b temps s0) := by
  unfold execThermalSample
  refine Runs.next ?_
  have h := Kept.refl l s0
  with_reducible repeat' first
    | exact h
    | refine Kept.ite ?_ ?_
    | refine kept_thermal (sub hl (by decide)) ?_
    | refine kept_masterTime (sub hl (by decide)) ?_
    | dsimp only

end Sys2Proof.Machine
end

