-- ==== Sys2Proof/Laws/KeptVerify.lean ====
section
/-! SUPPORT. What each operation of Machine/Verify.lean may touch, and that it keeps the queue and the invariant. -/

namespace Sys2Proof.Machine

variable {l : List Comp} {a s : State}

theorem kept_modStore {f : Store → Store} (hl : [.store] ⊆ l) (h : Kept l a s) :
    Kept l a (State.modStore s f) := by
  unfold State.modStore
  repeat' first
    | with_reducible exact h
    | with_reducible refine Kept.ite ?_ ?_
    | (intro k hk; cases k <;> first | exact absurd (hl (by decide)) hk | rfl | exact ⟨rfl, rfl⟩)
    | (simp only [kept_lit]; refine KeptUpd.intro ?_ ?_ ⟨rfl, rfl, rfl⟩)
    | dsimp only

theorem kept_modSup {f : Supply → Supply} (hl : [.sup] ⊆ l) (h : Kept l a s) :
    Kept l a (State.modSup s f) := by
  unfold State.modSup
  repeat' first
    | with_reducible exact h
    | with_reducible refine Kept.ite ?_ ?_
    | (intro k hk; cases k <;> first | exact absurd (hl (by decide)) hk | rfl | exact ⟨rfl, rfl⟩)
    | (simp only [kept_lit]; refine KeptUpd.intro ?_ ?_ ⟨rfl, rfl, rfl⟩)
    | dsimp only

theorem kept_modRel {f : Rel → Rel} (hl : [.rel] ⊆ l) (h : Kept l a s) :
    Kept l a (State.modRel s f) := by
  unfold State.modRel
  repeat' first
    | with_reducible exact h
    | with_reducible refine Kept.ite ?_ ?_
    | (intro k hk; cases k <;> first | exact absurd (hl (by decide)) hk | rfl | exact ⟨rfl, rfl⟩)
    | (simp only [kept_lit]; refine KeptUpd.intro ?_ ?_ ⟨rfl, rfl, rfl⟩)
    | dsimp only

theorem kept_modSpdm {f : Spdm → Spdm} (hl : [.spdm] ⊆ l) (h : Kept l a s) :
    Kept l a (State.modSpdm s f) := by
  unfold State.modSpdm
  repeat' first
    | with_reducible exact h
    | with_reducible refine Kept.ite ?_ ?_
    | (intro k hk; cases k <;> first | exact absurd (hl (by decide)) hk | rfl | exact ⟨rfl, rfl⟩)
    | (simp only [kept_lit]; refine KeptUpd.intro ?_ ?_ ⟨rfl, rfl, rfl⟩)
    | dsimp only

theorem kept_modTwin {f : Twin → Twin} (hl : [.twin] ⊆ l) (h : Kept l a s) :
    Kept l a (State.modTwin s f) := by
  unfold State.modTwin
  repeat' first
    | with_reducible exact h
    | with_reducible refine Kept.ite ?_ ?_
    | (intro k hk; cases k <;> first | exact absurd (hl (by decide)) hk | rfl | exact ⟨rfl, rfl⟩)
    | (simp only [kept_lit]; refine KeptUpd.intro ?_ ?_ ⟨rfl, rfl, rfl⟩)
    | dsimp only

theorem kept_mismatch {src : Nat} {i : Nat} {maxMajor : Nat} {minMajor : Nat} (hl : [.evt] ⊆ l) (h : Kept l a s) :
    Kept l a (State.mismatch s src i maxMajor minMajor) := by
  unfold State.mismatch
  with_reducible repeat' first
    | exact h
    | refine Kept.ite ?_ ?_
    | refine kept_raise (sub hl (by decide)) ?_
    | dsimp only

theorem kept_signatureFailure {cls : Nat} {m : Manifest} (hl : [.evt] ⊆ l) (h : Kept l a s) :
    Kept l a (State.signatureFailure s cls m) := by
  unfold State.signatureFailure
  with_reducible repeat' first
    | exact h
    | refine Kept.ite ?_ ?_
    | refine kept_raise (sub hl (by decide)) ?_
    | refine Kept.foldl ?_ ?_
    | split
    | intro _ _ _ _
    | intro _ _ _
    | intro _ _
    | intro _
    | dsimp only

theorem kept_refuseImage {reason : Nat} {k : Nat} (hl : [.evt] ⊆ l) (h : Kept l a s) :
    Kept l a (State.refuseImage s reason k) := by
  unfold State.refuseImage
  with_reducible repeat' first
    | exact h
    | refine Kept.ite ?_ ?_
    | refine kept_raise (sub hl (by decide)) ?_
    | dsimp only

theorem kept_objectRefused {cls : Nat} {owner : Bool} {m : Manifest} (hl : [.evt] ⊆ l) (h : Kept l a s) :
    Kept l a (State.objectRefused s cls owner m) := by
  unfold State.objectRefused
  with_reducible repeat' first
    | exact h
    | refine Kept.ite ?_ ?_
    | refine kept_refuseImage (sub hl (by decide)) ?_
    | refine kept_signatureFailure (sub hl (by decide)) ?_
    | dsimp only

theorem kept_modFuses {f : Fuses → Fuses} (hl : [.fuses] ⊆ l) (h : Kept l a s) :
    Kept l a (State.modFuses s f) := by
  unfold State.modFuses
  repeat' first
    | with_reducible exact h
    | with_reducible refine Kept.ite ?_ ?_
    | (intro k hk; cases k <;> first | exact absurd (hl (by decide)) hk | rfl | exact ⟨rfl, rfl⟩)
    | (simp only [kept_lit]; refine KeptUpd.intro ?_ ?_ ⟨rfl, rfl, rfl⟩)
    | dsimp only

theorem kept_setSvn {cls : Nat} {n : Nat} (hl : [.fuses] ⊆ l) (h : Kept l a s) :
    Kept l a (State.setSvn s cls n) := by
  unfold State.setSvn
  with_reducible repeat' first
    | exact h
    | refine Kept.ite ?_ ?_
    | refine kept_modFuses (sub hl (by decide)) ?_
    | dsimp only

theorem kept_advanceSvn {m : Manifest} (hl : [.fuses] ⊆ l) (h : Kept l a s) :
    Kept l a (State.advanceSvn s m) := by
  unfold State.advanceSvn
  with_reducible repeat' first
    | exact h
    | assumption
    | refine Kept.ite ?_ ?_
    | refine kept_modFuses (sub hl (by decide)) ?_
    | refine kept_setSvn (sub hl (by decide)) ?_
    | refine Kept.foldl ?_ ?_
    | refine Kept.foldl₂ ?_ ?_
    | refine Kept.foldl₁ ?_ ?_
    | (split; rename_i e; have e0 := congrArg (fun p => p.1) e; have e1 := congrArg (fun p => p.2.1) e; have e2 := congrArg (fun p => p.2.2.1) e; have e3 := congrArg (fun p => p.2.2.2) e; dsimp only at e0 e1 e2 e3; subst e0; subst e1; subst e2; subst e3)
    | (split; rename_i e; have e0 := congrArg (fun p => p.1) e; have e1 := congrArg (fun p => p.2.1) e; have e2 := congrArg (fun p => p.2.2) e; dsimp only at e0 e1 e2; subst e0; subst e1; subst e2)
    | (split; rename_i e; have e0 := congrArg (fun p => p.1) e; have e1 := congrArg (fun p => p.2) e; dsimp only at e0 e1; subst e0; subst e1)
    | (split; rename_i e; have e0 := congrArg (fun p => p.2) e; dsimp only at e0; subst e0)
    | (split; rename_i e; have e0 := congrArg (fun p => p.1) e; dsimp only at e0; subst e0)
    | split
    | (refine Kept.of_snd (by assumption) ?_)
    | intro _ _ _ _
    | intro _ _ _
    | intro _ _
    | intro _
    | dsimp only

theorem kept_svnCut (hl : [.free, .fuses] ⊆ l) (h : Kept l a s) :
    Kept l a (State.svnCut s) := by
  unfold State.svnCut
  with_reducible repeat' first
    | exact h
    | assumption
    | refine Kept.ite ?_ ?_
    | refine kept_modFuses (sub hl (by decide)) ?_
    | refine kept_takeFree (sub hl (by decide)) ?_
    | refine kept_setSvn (sub hl (by decide)) ?_
    | refine Kept.foldl ?_ ?_
    | (split; rename_i e; have e0 := congrArg (fun p => p.1) e; have e1 := congrArg (fun p => p.2) e; dsimp only at e0 e1; subst e0; subst e1)
    | (split; rename_i e; have e0 := congrArg (fun p => p.2) e; dsimp only at e0; subst e0)
    | split
    | (refine Kept.of_snd (by assumption) ?_)
    | intro _ _ _ _
    | intro _ _ _
    | intro _ _
    | intro _
    | dsimp only

theorem kept_applyRecord {r : LogRecord} (hl : [.rel, .store, .spdm] ⊆ l) (h : Kept l a s) :
    Kept l a (State.applyRecord s r) := by
  unfold State.applyRecord
  with_reducible repeat' first
    | exact h
    | refine Kept.ite ?_ ?_
    | refine kept_modRel (sub hl (by decide)) ?_
    | refine kept_modSpdm (sub hl (by decide)) ?_
    | refine kept_modStore (sub hl (by decide)) ?_
    | refine Kept.foldl ?_ ?_
    | split
    | intro _ _ _ _
    | intro _ _ _
    | intro _ _
    | intro _
    | dsimp only

theorem kept_norWritten (hl : [.free, .rel, .store, .spdm] ⊆ l) (h : Kept l a s) :
    Kept l a (State.norWritten s) := by
  unfold State.norWritten
  with_reducible repeat' first
    | exact h
    | assumption
    | refine Kept.ite ?_ ?_
    | refine kept_modStore (sub hl (by decide)) ?_
    | refine kept_modSpdm (sub hl (by decide)) ?_
    | refine kept_modRel (sub hl (by decide)) ?_
    | refine kept_takeFree (sub hl (by decide)) ?_
    | refine kept_applyRecord (sub hl (by decide)) ?_
    | refine Kept.foldl ?_ ?_
    | (split; rename_i e; have e0 := congrArg (fun p => p.1) e; have e1 := congrArg (fun p => p.2) e; dsimp only at e0 e1; subst e0; subst e1)
    | (split; rename_i e; have e0 := congrArg (fun p => p.2) e; dsimp only at e0; subst e0)
    | split
    | (refine Kept.of_snd (by assumption) ?_)
    | intro _ _ _ _
    | intro _ _ _
    | intro _ _
    | intro _
    | dsimp only

theorem kept_portStops (hl : [.free, .rel, .store, .spdm] ⊆ l) (h : Kept l a s) :
    Kept l a (State.portStops s) := by
  unfold State.portStops
  with_reducible repeat' first
    | exact h
    | refine Kept.ite ?_ ?_
    | refine kept_norWritten (sub hl (by decide)) ?_
    | dsimp only

theorem kept_recordCommit {ok : Bool} (hl : [.rel, .store, .spdm] ⊆ l) (h : Kept l a s) :
    Kept l a (State.recordCommit s ok) := by
  unfold State.recordCommit
  with_reducible repeat' first
    | exact h
    | refine Kept.ite ?_ ?_
    | refine kept_modStore (sub hl (by decide)) ?_
    | refine kept_applyRecord (sub hl (by decide)) ?_
    | refine Kept.foldl ?_ ?_
    | split
    | intro _ _ _ _
    | intro _ _ _
    | intro _ _
    | intro _
    | dsimp only

theorem runs_execRecordCommit {t : Nat} {crcOk : Bool} {s0 : State} (hl : [.clk, .rel, .store, .spdm] ⊆ l) :
    Runs l s0 (execRecordCommit t crcOk s0) := by
  unfold execRecordCommit
  refine Runs.next ?_
  have h := Kept.refl l s0
  with_reducible repeat' first
    | exact h
    | refine Kept.ite ?_ ?_
    | refine kept_recordCommit (sub hl (by decide)) ?_
    | refine kept_masterTime (sub hl (by decide)) ?_
    | dsimp only

theorem kept_compact (hl : [.store] ⊆ l) (h : Kept l a s) :
    Kept l a (State.compact s) := by
  unfold State.compact
  with_reducible repeat' first
    | exact h
    | refine Kept.ite ?_ ?_
    | refine kept_modStore (sub hl (by decide)) ?_
    | dsimp only

theorem runs_execLogCompaction {t : Nat} {s0 : State} (hl : [.clk, .store] ⊆ l) :
    Runs l s0 (execLogCompaction t s0) := by
  unfold execLogCompaction
  refine Runs.next ?_
  have h := Kept.refl l s0
  with_reducible repeat' first
    | exact h
    | refine Kept.ite ?_ ?_
    | refine kept_compact (sub hl (by decide)) ?_
    | refine kept_masterTime (sub hl (by decide)) ?_
    | dsimp only

end Sys2Proof.Machine
end

