-- ==== Sys2Proof/Laws/KeptBoot.lean ====
section
/-! SUPPORT. What each operation of Machine/Boot.lean may touch, and that it keeps the queue and the invariant. -/

namespace Sys2Proof.Machine

variable {l : List Comp} {a s : State}

theorem kept_wipeBays {p : Nat → Bool} {pw : BayPower} (hl : [.mem, .errs, .regs, .bays, .cus, .mus] ⊆ l) (h : Kept l a s) :
    Kept l a (State.wipeBays s p pw) := by
  unfold State.wipeBays
  with_reducible repeat' first
    | exact h
    | assumption
    | refine Kept.ite ?_ ?_
    | refine kept_modBay (sub hl (by decide)) ?_
    | refine kept_wipeBay (sub hl (by decide)) ?_
    | refine Kept.foldl ?_ ?_
    | (split; rename_i e; have e0 := congrArg (fun p => p.1) e; have e1 := congrArg (fun p => p.2) e; dsimp only at e0 e1; subst e0; subst e1)
    | (split; rename_i e; have e0 := congrArg (fun p => p.2) e; dsimp only at e0; subst e0)
    | split
    | (refine Kept.of_snd (by assumption) ?_)
    | intro _ _ _ _
    | intro _ _ _
    | intro _ _
    | intro _
    | dsimp only

theorem kept_wipeWafer {pw : BayPower} (hl : [.mem, .errs, .regs, .bays, .cus, .mus] ⊆ l) (h : Kept l a s) :
    Kept l a (State.wipeWafer s pw) := by
  unfold State.wipeWafer
  repeat' first
    | with_reducible exact h
    | with_reducible refine Kept.ite ?_ ?_
    | with_reducible refine kept_dropRegs (sub hl (by decide)) ?_
    | (intro k hk; cases k <;> first | exact absurd (hl (by decide)) hk | rfl | exact ⟨rfl, rfl⟩)
    | (simp only [kept_litm]; refine KeptUpd.intro_mem ?_ ?_ rfl ?_ ?_)
    | exact id
    | exact (memWf_memWrites _ _)
    | exact (memWf_filter _)
    | exact (memWf_memDrop _ _)
    | exact (fun _ => memWf_nil)
    | dsimp only

theorem kept_goodCopy {cls : Nat} {sel : Nat} {x0 : FwCopy} {b : FwCopy} (hl : [.evt] ⊆ l) (h : Kept l a s) :
    Kept l a (State.goodCopy s cls sel x0 b).2 := by
  unfold State.goodCopy
  with_reducible repeat' first
    | exact h
    | refine Kept.ite ?_ ?_
    | refine kept_objectRefused (sub hl (by decide)) ?_
    | refine Kept.foldl ?_ ?_
    | split
    | intro _ _ _ _
    | intro _ _ _
    | intro _ _
    | intro _
    | dsimp only

theorem kept_bootStop {step : Nat} (hl : [.sup] ⊆ l) (h : Kept l a s) :
    Kept l a (State.bootStop s step) := by
  unfold State.bootStop
  with_reducible repeat' first
    | exact h
    | refine Kept.ite ?_ ?_
    | refine kept_modSup (sub hl (by decide)) ?_
    | dsimp only

theorem kept_bothFail {cls : Nat} {step : Nat} {x0 : FwCopy} {b : FwCopy} (hl : [.free, .evt, .sup] ⊆ l) (h : Kept l a s) :
    Kept l a (State.bothFail s cls step x0 b) := by
  unfold State.bothFail
  with_reducible repeat' first
    | exact h
    | assumption
    | refine Kept.ite ?_ ?_
    | refine kept_bootStop (sub hl (by decide)) ?_
    | refine kept_takeFree (sub hl (by decide)) ?_
    | refine kept_raise (sub hl (by decide)) ?_
    | refine Kept.foldl ?_ ?_
    | refine Kept.foldl₂ ?_ ?_
    | refine Kept.foldl₁ ?_ ?_
    | (split; rename_i e; have e0 := congrArg (fun p => p.1) e; have e1 := congrArg (fun p => p.2.1) e; have e2 := congrArg (fun p => p.2.2.1) e; have e3 := congrArg (fun p => p.2.2.2) e; dsimp only at e0 e1 e2 e3; subst e0; subst e1; subst e2; subst e3)
    | (split; rename_i e; have e0 := congrArg (fun p => p.1) e; have e1 := congrArg (fun p => p.2.1) e; have e2 := congrArg (fun p => p.2.2) e; dsimp only at e0 e1 e2; subst e0; subst e1; subst e2)
    | (split; rename_i e; have e0 := congrArg (fun p => p.1) e; have e1 := congrArg (fun p => p.2) e; dsimp only at e0 e1; subst e0; subst e1)
    | (split; rename_i e; have e0 := congrArg (fun p => p.2) e; dsimp only at e0; subst e0)
    | (split; rename_i e; have e0 := congrArg (fun p => p.1) e; dsimp only at e0; subst e0)
    | split
    | (refine Kept.of_snd (by assumption) ?_)
    | intro _ _ _ _
    | intro _ _ _
    | intro _ _
    | intro _
    | dsimp only

theorem kept_deriveKeys {tf : Manifest} (hl : [.spdm] ⊆ l) (h : Kept l a s) :
    Kept l a (State.deriveKeys s tf) := by
  unfold State.deriveKeys
  with_reducible repeat' first
    | exact h
    | refine Kept.ite ?_ ?_
    | refine kept_modSpdm (sub hl (by decide)) ?_
    | dsimp only

theorem kept_loadTwinCfg (hl : [.regs] ⊆ l) (h : Kept l a s) :
    Kept l a (State.loadTwinCfg s) := by
  unfold State.loadTwinCfg
  with_reducible repeat' first
    | exact h
    | refine Kept.ite ?_ ?_
    | refine kept_setReg (sub hl (by decide)) ?_
    | refine Kept.foldl ?_ ?_
    | split
    | intro _ _ _ _
    | intro _ _ _
    | intro _ _
    | intro _
    | dsimp only

theorem kept_romStart (hl : [.free, .regs, .clk, .evt, .sup, .spdm] ⊆ l) (h : Kept l a s) :
    Kept l a (State.romStart s) := by
  unfold State.romStart
  with_reducible repeat' first
    | exact h
    | assumption
    | refine Kept.ite ?_ ?_
    | refine kept_modClk (sub hl (by decide)) ?_
    | refine kept_modSup (sub hl (by decide)) ?_
    | refine kept_bootStop (sub hl (by decide)) ?_
    | refine kept_negotiate (sub hl (by decide)) ?_
    | refine kept_mismatch (sub hl (by decide)) ?_
    | refine kept_goodCopy (sub hl (by decide)) ?_
    | refine kept_bothFail (sub hl (by decide)) ?_
    | refine kept_loadTwinCfg (sub hl (by decide)) ?_
    | refine kept_deriveKeys (sub hl (by decide)) ?_
    | refine Kept.foldl ?_ ?_
    | refine Kept.foldl₂ ?_ ?_
    | refine Kept.foldl₁ ?_ ?_
    | (split; rename_i e; have e0 := congrArg (fun p => p.1) e; have e1 := congrArg (fun p => p.2.1) e; have e2 := congrArg (fun p => p.2.2.1) e; have e3 := congrArg (fun p => p.2.2.2) e; dsimp only at e0 e1 e2 e3; subst e0; subst e1; subst e2; subst e3)
    | (split; rename_i e; have e0 := congrArg (fun p => p.1) e; have e1 := congrArg (fun p => p.2.1) e; have e2 := congrArg (fun p => p.2.2) e; dsimp only at e0 e1 e2; subst e0; subst e1; subst e2)
    | (split; rename_i e; have e0 := congrArg (fun p => p.1) e; have e1 := congrArg (fun p => p.2) e; dsimp only at e0 e1; subst e0; subst e1)
    | (split; rename_i e; have e0 := congrArg (fun p => p.2) e; dsimp only at e0; subst e0)
    | (split; rename_i e; have e0 := congrArg (fun p => p.1) e; dsimp only at e0; subst e0)
    | split
    | (refine Kept.of_snd (by assumption) ?_)
    | intro _ _ _ _
    | intro _ _ _
    | intro _ _
    | intro _
    | dsimp only

theorem kept_powerOn (hl : [.mem, .errs, .regs, .clk, .stitch, .ctxs, .hsync, .bays, .panels, .cus, .mus, .rtrs, .host, .evt, .claims, .hbm, .sites, .twin, .sup, .rel, .store, .spdm] ⊆ l) (h : Kept l a s) :
    Kept l a (State.powerOn s) := by
  unfold State.powerOn
  simp only [kept_litm]
  refine KeptUpd.intro_mem h ?_ rfl (fun _ => memWf_nil) id
  intro k hk; cases k <;> first | exact absurd (hl (by decide)) hk | rfl | exact ⟨rfl, rfl⟩

theorem runs_execPowerOnReset {_t : Nat} {s0 : State} (hl : [.mem, .errs, .regs, .clk, .stitch, .ctxs, .hsync, .bays, .panels, .cus, .mus, .rtrs, .host, .evt, .claims, .hbm, .sites, .twin, .sup, .rel, .store, .spdm] ⊆ l) :
    Runs l s0 (execPowerOnReset _t s0) := by
  unfold execPowerOnReset
  refine Runs.next ?_
  have h := Kept.refl l s0
  with_reducible repeat' first
    | exact h
    | refine Kept.ite ?_ ?_
    | refine kept_powerOn (sub hl (by decide)) ?_
    | dsimp only

theorem runs_execAuxGood {t : Nat} {s0 : State} (hl : [.clk, .sup] ⊆ l) :
    Runs l s0 (execAuxGood t s0) := by
  unfold execAuxGood
  refine Runs.next ?_
  have h := Kept.refl l s0
  with_reducible repeat' first
    | exact h
    | refine Kept.ite ?_ ?_
    | refine kept_masterTime (sub hl (by decide)) ?_
    | refine kept_modSup (sub hl (by decide)) ?_
    | dsimp only

theorem kept_loopBack {lat : List Nat} (hl : [.bays, .sup] ⊆ l) (h : Kept l a s) :
    Kept l a (State.loopBack s lat) := by
  unfold State.loopBack
  repeat' first
    | with_reducible exact h
    | with_reducible refine Kept.ite ?_ ?_
    | (intro k hk; cases k <;> first | exact absurd (hl (by decide)) hk | rfl | exact ⟨rfl, rfl⟩)
    | (simp only [kept_lit]; refine KeptUpd.intro ?_ ?_ ⟨rfl, rfl, rfl⟩)
    | dsimp only

theorem kept_boot {lat : List Nat} (hl : [.free, .regs, .clk, .bays, .evt, .sup, .rel, .store, .spdm] ⊆ l) (h : Kept l a s) :
    Kept l a (State.boot s lat) := by
  unfold State.boot
  with_reducible repeat' first
    | exact h
    | assumption
    | refine Kept.ite ?_ ?_
    | refine kept_modSup (sub hl (by decide)) ?_
    | refine kept_portStops (sub hl (by decide)) ?_
    | refine kept_loopBack (sub hl (by decide)) ?_
    | refine kept_romStart (sub hl (by decide)) ?_
    | refine Kept.foldl ?_ ?_
    | refine Kept.foldl₂ ?_ ?_
    | refine Kept.foldl₁ ?_ ?_
    | (split; rename_i e; have e0 := congrArg (fun p => p.1) e; have e1 := congrArg (fun p => p.2.1) e; have e2 := congrArg (fun p => p.2.2.1) e; have e3 := congrArg (fun p => p.2.2.2) e; dsimp only at e0 e1 e2 e3; subst e0; subst e1; subst e2; subst e3)
    | (split; rename_i e; have e0 := congrArg (fun p => p.1) e; have e1 := congrArg (fun p => p.2.1) e; have e2 := congrArg (fun p => p.2.2) e; dsimp only at e0 e1 e2; subst e0; subst e1; subst e2)
    | (split; rename_i e; have e0 := congrArg (fun p => p.1) e; have e1 := congrArg (fun p => p.2) e; dsimp only at e0 e1; subst e0; subst e1)
    | (split; rename_i e; have e0 := congrArg (fun p => p.2) e; dsimp only at e0; subst e0)
    | (split; rename_i e; have e0 := congrArg (fun p => p.1) e; dsimp only at e0; subst e0)
    | split
    | (refine Kept.of_snd (by assumption) ?_)
    | intro _ _ _ _
    | intro _ _ _
    | intro _ _
    | intro _
    | dsimp only

theorem runs_execBoot {t : Nat} {lat : List Nat} {s0 : State} (hl : [.free, .regs, .clk, .bays, .evt, .sup, .rel, .store, .spdm] ⊆ l) :
    Runs l s0 (execBoot t lat s0) := by
  unfold execBoot
  refine Runs.next ?_
  have h := Kept.refl l s0
  with_reducible repeat' first
    | exact h
    | refine Kept.ite ?_ ?_
    | refine kept_boot (sub hl (by decide)) ?_
    | refine kept_masterTime (sub hl (by decide)) ?_
    | dsimp only

theorem kept_startTraining (hl : [.sites, .sup] ⊆ l) (h : Kept l a s) :
    Kept l a (State.startTraining s) := by
  unfold State.startTraining
  with_reducible repeat' first
    | exact h
    | assumption
    | refine Kept.ite ?_ ?_
    | refine kept_modSite (sub hl (by decide)) ?_
    | refine kept_modSup (sub hl (by decide)) ?_
    | refine Kept.foldl ?_ ?_
    | (split; rename_i e; have e0 := congrArg (fun p => p.1) e; have e1 := congrArg (fun p => p.2) e; dsimp only at e0 e1; subst e0; subst e1)
    | (split; rename_i e; have e0 := congrArg (fun p => p.2) e; dsimp only at e0; subst e0)
    | split
    | (refine Kept.of_snd (by assumption) ?_)
    | intro _ _ _ _
    | intro _ _ _
    | intro _ _
    | intro _
    | dsimp only

theorem kept_fabricUp (hl : [.regs, .panels, .sites, .sup] ⊆ l) (h : Kept l a s) :
    Kept l a (State.fabricUp s) := by
  unfold State.fabricUp
  with_reducible repeat' first
    | exact h
    | assumption
    | refine Kept.ite ?_ ?_
    | refine kept_modSup (sub hl (by decide)) ?_
    | refine kept_modPanel (sub hl (by decide)) ?_
    | refine kept_startTraining (sub hl (by decide)) ?_
    | refine kept_installTables (sub hl (by decide)) ?_
    | refine Kept.foldl ?_ ?_
    | (split; rename_i e; have e0 := congrArg (fun p => p.1) e; have e1 := congrArg (fun p => p.2) e; dsimp only at e0 e1; subst e0; subst e1)
    | (split; rename_i e; have e0 := congrArg (fun p => p.2) e; dsimp only at e0; subst e0)
    | split
    | (refine Kept.of_snd (by assumption) ?_)
    | intro _ _ _ _
    | intro _ _ _
    | intro _ _
    | intro _
    | dsimp only

theorem kept_mainOn (hl : [.regs, .panels, .sites, .sup] ⊆ l) (h : Kept l a s) :
    Kept l a (State.mainOn s) := by
  unfold State.mainOn
  with_reducible repeat' first
    | exact h
    | refine Kept.ite ?_ ?_
    | refine kept_modSup (sub hl (by decide)) ?_
    | refine kept_fabricUp (sub hl (by decide)) ?_
    | dsimp only

theorem runs_execMainEnable {t : Nat} {s0 : State} (hl : [.regs, .clk, .panels, .sites, .sup] ⊆ l) :
    Runs l s0 (execMainEnable t s0) := by
  unfold execMainEnable
  refine Runs.next ?_
  have h := Kept.refl l s0
  with_reducible repeat' first
    | exact h
    | refine Kept.ite ?_ ?_
    | refine kept_mainOn (sub hl (by decide)) ?_
    | refine kept_masterTime (sub hl (by decide)) ?_
    | dsimp only

theorem kept_mainArrives (hl : [.regs, .panels, .sites, .sup] ⊆ l) (h : Kept l a s) :
    Kept l a (State.mainArrives s) := by
  unfold State.mainArrives
  with_reducible repeat' first
    | exact h
    | refine Kept.ite ?_ ?_
    | refine kept_modSup (sub hl (by decide)) ?_
    | refine kept_fabricUp (sub hl (by decide)) ?_
    | dsimp only

theorem runs_execVinMainInRange {t : Nat} {s0 : State} (hl : [.regs, .clk, .panels, .sites, .sup] ⊆ l) :
    Runs l s0 (execVinMainInRange t s0) := by
  unfold execVinMainInRange
  refine Runs.next ?_
  have h := Kept.refl l s0
  with_reducible repeat' first
    | exact h
    | refine Kept.ite ?_ ?_
    | refine kept_mainArrives (sub hl (by decide)) ?_
    | refine kept_masterTime (sub hl (by decide)) ?_
    | dsimp only

theorem kept_supplyFault {bits : Nat} {extra : Nat} {mv : Nat} (hl : [.regs, .evt] ⊆ l) (h : Kept l a s) :
    Kept l a (State.supplyFault s bits extra mv) := by
  unfold State.supplyFault
  with_reducible repeat' first
    | exact h
    | refine Kept.ite ?_ ?_
    | refine kept_hwSet (sub hl (by decide)) ?_
    | refine kept_raise (sub hl (by decide)) ?_
    | dsimp only

theorem kept_mainTimeout (hl : [.regs, .evt, .sites, .sup] ⊆ l) (h : Kept l a s) :
    Kept l a (State.mainTimeout s) := by
  unfold State.mainTimeout
  with_reducible repeat' first
    | exact h
    | refine Kept.ite ?_ ?_
    | refine kept_startTraining (sub hl (by decide)) ?_
    | refine kept_modSup (sub hl (by decide)) ?_
    | refine kept_supplyFault (sub hl (by decide)) ?_
    | dsimp only

theorem runs_execMainEnableTimeout {t : Nat} {s0 : State} (hl : [.regs, .clk, .evt, .sites, .sup] ⊆ l) :
    Runs l s0 (execMainEnableTimeout t s0) := by
  unfold execMainEnableTimeout
  refine Runs.next ?_
  have h := Kept.refl l s0
  with_reducible repeat' first
    | exact h
    | refine Kept.ite ?_ ?_
    | refine kept_mainTimeout (sub hl (by decide)) ?_
    | refine kept_masterTime (sub hl (by decide)) ?_
    | dsimp only

theorem kept_bayUp {b : Nat} (hl : [.bays] ⊆ l) (h : Kept l a s) :
    Kept l a (State.bayUp s b) := by
  unfold State.bayUp
  with_reducible repeat' first
    | exact h
    | refine Kept.ite ?_ ?_
    | refine kept_modBay (sub hl (by decide)) ?_
    | dsimp only

theorem kept_railsUp {p : Nat} {tests : List (Nat × Nat × Bool)} (hl : [.mem, .errs, .regs, .stitch, .ctxs, .bays, .panels, .cus, .mus, .evt, .sites, .twin, .sup] ⊆ l) (h : Kept l a s) :
    Kept l a (State.railsUp s p tests) := by
  unfold State.railsUp
  with_reducible repeat' first
    | exact h
    | assumption
    | refine Kept.ite ?_ ?_
    | refine kept_bayUp (sub hl (by decide)) ?_
    | refine kept_modSup (sub hl (by decide)) ?_
    | refine kept_phaseFailed (sub hl (by decide)) ?_
    | refine Kept.foldl ?_ ?_
    | (split; rename_i e; have e0 := congrArg (fun p => p.1) e; have e1 := congrArg (fun p => p.2) e; dsimp only at e0 e1; subst e0; subst e1)
    | (split; rename_i e; have e0 := congrArg (fun p => p.2) e; dsimp only at e0; subst e0)
    | split
    | (refine Kept.of_snd (by assumption) ?_)
    | intro _ _ _ _
    | intro _ _ _
    | intro _ _
    | intro _
    | dsimp only

theorem kept_setPaths {b : Nat} (hl : [.rel] ⊆ l) (h : Kept l a s) :
    Kept l a (State.setPaths s b) := by
  unfold State.setPaths
  with_reducible repeat' first
    | exact h
    | refine Kept.ite ?_ ?_
    | refine kept_modRel (sub hl (by decide)) ?_
    | dsimp only

theorem kept_mergeBay {b : Nat} {bad : List (Nat × Nat)} (hl : [.regs, .evt, .rel, .store] ⊆ l) (h : Kept l a s) :
    Kept l a (State.mergeBay s b bad) := by
  unfold State.mergeBay
  with_reducible repeat' first
    | exact h
    | assumption
    | refine Kept.ite ?_ ?_
    | refine kept_modRel (sub hl (by decide)) ?_
    | refine kept_count (sub hl (by decide)) ?_
    | refine kept_raise (sub hl (by decide)) ?_
    | refine kept_setPaths (sub hl (by decide)) ?_
    | refine kept_ledgerAppend (sub hl (by decide)) ?_
    | refine Kept.foldl ?_ ?_
    | (split; rename_i e; have e0 := congrArg (fun p => p.1) e; have e1 := congrArg (fun p => p.2) e; dsimp only at e0 e1; subst e0; subst e1)
    | (split; rename_i e; have e0 := congrArg (fun p => p.2) e; dsimp only at e0; subst e0)
    | split
    | (refine Kept.of_snd (by assumption) ?_)
    | intro _ _ _ _
    | intro _ _ _
    | intro _ _
    | intro _
    | dsimp only

theorem kept_resetAnswer (hl : [.host] ⊆ l) (h : Kept l a s) :
    Kept l a (State.resetAnswer s) := by
  unfold State.resetAnswer
  with_reducible repeat' first
    | exact h
    | refine Kept.ite ?_ ?_
    | refine kept_modHost (sub hl (by decide)) ?_
    | dsimp only

theorem kept_bistDone {b : Nat} {bad : List (Nat × Nat)} (hl : [.mem, .errs, .regs, .stitch, .ctxs, .bays, .panels, .cus, .mus, .host, .evt, .sites, .twin, .sup, .rel, .store] ⊆ l) (h : Kept l a s) :
    Kept l a (State.bistDone s b bad) := by
  unfold State.bistDone
  with_reducible repeat' first
    | exact h
    | refine Kept.ite ?_ ?_
    | refine kept_modSup (sub hl (by decide)) ?_
    | refine kept_modBay (sub hl (by decide)) ?_
    | refine kept_mergeBay (sub hl (by decide)) ?_
    | refine kept_modPanel (sub hl (by decide)) ?_
    | refine kept_inventoryAgain (sub hl (by decide)) ?_
    | refine kept_unavailable (sub hl (by decide)) ?_
    | refine kept_darken (sub hl (by decide)) ?_
    | refine kept_modRel (sub hl (by decide)) ?_
    | refine kept_resetAnswer (sub hl (by decide)) ?_
    | dsimp only

theorem kept_haltAll (hl : [.ctxs, .evt] ⊆ l) (h : Kept l a s) :
    Kept l a (State.haltAll s) := by
  unfold State.haltAll
  with_reducible repeat' first
    | exact h
    | assumption
    | refine Kept.ite ?_ ?_
    | refine kept_haltCtx (sub hl (by decide)) ?_
    | refine Kept.foldl ?_ ?_
    | (split; rename_i e; have e0 := congrArg (fun p => p.1) e; have e1 := congrArg (fun p => p.2) e; dsimp only at e0 e1; subst e0; subst e1)
    | (split; rename_i e; have e0 := congrArg (fun p => p.2) e; dsimp only at e0; subst e0)
    | split
    | (refine Kept.of_snd (by assumption) ?_)
    | intro _ _ _ _
    | intro _ _ _
    | intro _ _
    | intro _
    | dsimp only

theorem kept_sitesOff (hl : [.sites] ⊆ l) (h : Kept l a s) :
    Kept l a (State.sitesOff s) := by
  unfold State.sitesOff
  repeat' first
    | with_reducible exact h
    | with_reducible refine Kept.ite ?_ ?_
    | (intro k hk; cases k <;> first | exact absurd (hl (by decide)) hk | rfl | exact ⟨rfl, rfl⟩)
    | (simp only [kept_lit]; refine KeptUpd.intro ?_ ?_ ⟨rfl, rfl, rfl⟩)
    | dsimp only

theorem kept_goDown (hl : [.mem, .errs, .regs, .stitch, .ctxs, .bays, .panels, .cus, .mus, .host, .evt, .sites, .twin, .sup] ⊆ l) (h : Kept l a s) :
    Kept l a (State.goDown s) := by
  unfold State.goDown
  with_reducible repeat' first
    | exact h
    | assumption
    | refine Kept.ite ?_ ?_
    | refine kept_sendFatal (sub hl (by decide)) ?_
    | refine kept_modStitch (sub hl (by decide)) ?_
    | refine kept_setReg (sub hl (by decide)) ?_
    | refine kept_wipeWafer (sub hl (by decide)) ?_
    | refine kept_haltAll (sub hl (by decide)) ?_
    | refine kept_modPanel (sub hl (by decide)) ?_
    | refine kept_modTwin (sub hl (by decide)) ?_
    | refine kept_modHost (sub hl (by decide)) ?_
    | refine kept_modSup (sub hl (by decide)) ?_
    | refine kept_sitesOff (sub hl (by decide)) ?_
    | refine Kept.foldl ?_ ?_
    | refine Kept.foldl₂ ?_ ?_
    | refine Kept.foldl₁ ?_ ?_
    | (split; rename_i e; have e0 := congrArg (fun p => p.1) e; have e1 := congrArg (fun p => p.2.1) e; have e2 := congrArg (fun p => p.2.2.1) e; have e3 := congrArg (fun p => p.2.2.2) e; dsimp only at e0 e1 e2 e3; subst e0; subst e1; subst e2; subst e3)
    | (split; rename_i e; have e0 := congrArg (fun p => p.1) e; have e1 := congrArg (fun p => p.2.1) e; have e2 := congrArg (fun p => p.2.2) e; dsimp only at e0 e1 e2; subst e0; subst e1; subst e2)
    | (split; rename_i e; have e0 := congrArg (fun p => p.1) e; have e1 := congrArg (fun p => p.2) e; dsimp only at e0 e1; subst e0; subst e1)
    | (split; rename_i e; have e0 := congrArg (fun p => p.2) e; dsimp only at e0; subst e0)
    | (split; rename_i e; have e0 := congrArg (fun p => p.1) e; dsimp only at e0; subst e0)
    | split
    | (refine Kept.of_snd (by assumption) ?_)
    | intro _ _ _ _
    | intro _ _ _
    | intro _ _
    | intro _
    | dsimp only

theorem kept_shutdown {bits : Nat} {mv : Nat} (hl : [.free, .mem, .errs, .regs, .stitch, .ctxs, .bays, .panels, .cus, .mus, .host, .evt, .sites, .twin, .sup, .fuses] ⊆ l) (h : Kept l a s) :
    Kept l a (State.shutdown s bits mv) := by
  unfold State.shutdown
  with_reducible repeat' first
    | exact h
    | assumption
    | refine Kept.ite ?_ ?_
    | refine kept_svnCut (sub hl (by decide)) ?_
    | refine kept_goDown (sub hl (by decide)) ?_
    | refine kept_supplyFault (sub hl (by decide)) ?_
    | refine Kept.foldl ?_ ?_
    | refine Kept.foldl₂ ?_ ?_
    | refine Kept.foldl₁ ?_ ?_
    | (split; rename_i e; have e0 := congrArg (fun p => p.1) e; have e1 := congrArg (fun p => p.2.1) e; have e2 := congrArg (fun p => p.2.2.1) e; have e3 := congrArg (fun p => p.2.2.2) e; dsimp only at e0 e1 e2 e3; subst e0; subst e1; subst e2; subst e3)
    | (split; rename_i e; have e0 := congrArg (fun p => p.1) e; have e1 := congrArg (fun p => p.2.1) e; have e2 := congrArg (fun p => p.2.2) e; dsimp only at e0 e1 e2; subst e0; subst e1; subst e2)
    | (split; rename_i e; have e0 := congrArg (fun p => p.1) e; have e1 := congrArg (fun p => p.2) e; dsimp only at e0 e1; subst e0; subst e1)
    | (split; rename_i e; have e0 := congrArg (fun p => p.2) e; dsimp only at e0; subst e0)
    | (split; rename_i e; have e0 := congrArg (fun p => p.1) e; dsimp only at e0; subst e0)
    | split
    | (refine Kept.of_snd (by assumption) ?_)
    | intro _ _ _ _
    | intro _ _ _
    | intro _ _
    | intro _
    | dsimp only

theorem kept_powerFail {dur : Nat} (hl : [.free, .mem, .errs, .regs, .stitch, .ctxs, .bays, .panels, .cus, .mus, .host, .evt, .sites, .twin, .sup, .fuses] ⊆ l) (h : Kept l a s) :
    Kept l a (State.powerFail s dur) := by
  unfold State.powerFail
  with_reducible repeat' first
    | exact h
    | refine Kept.ite ?_ ?_
    | refine kept_shutdown (sub hl (by decide)) ?_
    | refine kept_modSup (sub hl (by decide)) ?_
    | dsimp only

theorem runs_execPwrFailN {t : Nat} {dur : Nat} {s0 : State} (hl : [.free, .mem, .errs, .regs, .clk, .stitch, .ctxs, .bays, .panels, .cus, .mus, .host, .evt, .sites, .twin, .sup, .fuses] ⊆ l) :
    Runs l s0 (execPwrFailN t dur s0) := by
  unfold execPwrFailN
  refine Runs.next ?_
  have h := Kept.refl l s0
  with_reducible repeat' first
    | exact h
    | refine Kept.ite ?_ ?_
    | refine kept_powerFail (sub hl (by decide)) ?_
    | refine kept_masterTime (sub hl (by decide)) ?_
    | dsimp only

theorem kept_supplyLost {mask : BitVec 4} {mv : Nat} {durNs : Nat} (hl : [.free, .mem, .errs, .regs, .stitch, .ctxs, .bays, .panels, .cus, .mus, .host, .evt, .sites, .twin, .sup, .rel, .store, .fuses, .spdm] ⊆ l) (h : Kept l a s) :
    Kept l a (State.supplyLost s mask mv durNs) := by
  unfold State.supplyLost
  with_reducible repeat' first
    | exact h
    | assumption
    | refine Kept.ite ?_ ?_
    | refine kept_modSup (sub hl (by decide)) ?_
    | refine kept_portStops (sub hl (by decide)) ?_
    | refine kept_shutdown (sub hl (by decide)) ?_
    | refine kept_supplyFault (sub hl (by decide)) ?_
    | refine kept_modEvt (sub hl (by decide)) ?_
    | refine Kept.foldl ?_ ?_
    | refine Kept.foldl₂ ?_ ?_
    | refine Kept.foldl₁ ?_ ?_
    | (split; rename_i e; have e0 := congrArg (fun p => p.1) e; have e1 := congrArg (fun p => p.2.1) e; have e2 := congrArg (fun p => p.2.2.1) e; have e3 := congrArg (fun p => p.2.2.2) e; dsimp only at e0 e1 e2 e3; subst e0; subst e1; subst e2; subst e3)
    | (split; rename_i e; have e0 := congrArg (fun p => p.1) e; have e1 := congrArg (fun p => p.2.1) e; have e2 := congrArg (fun p => p.2.2) e; dsimp only at e0 e1 e2; subst e0; subst e1; subst e2)
    | (split; rename_i e; have e0 := congrArg (fun p => p.1) e; have e1 := congrArg (fun p => p.2) e; dsimp only at e0 e1; subst e0; subst e1)
    | (split; rename_i e; have e0 := congrArg (fun p => p.2) e; dsimp only at e0; subst e0)
    | (split; rename_i e; have e0 := congrArg (fun p => p.1) e; dsimp only at e0; subst e0)
    | split
    | (refine Kept.of_snd (by assumption) ?_)
    | intro _ _ _ _
    | intro _ _ _
    | intro _ _
    | intro _
    | dsimp only

theorem runs_execSupplyOutOfRange {t : Nat} {mask : BitVec 4} {mv : Nat} {durNs : Nat} {s0 : State} (hl : [.free, .mem, .errs, .regs, .clk, .stitch, .ctxs, .bays, .panels, .cus, .mus, .host, .evt, .sites, .twin, .sup, .rel, .store, .fuses, .spdm] ⊆ l) :
    Runs l s0 (execSupplyOutOfRange t mask mv durNs s0) := by
  unfold execSupplyOutOfRange
  refine Runs.next ?_
  have h := Kept.refl l s0
  with_reducible repeat' first
    | exact h
    | refine Kept.ite ?_ ?_
    | refine kept_supplyLost (sub hl (by decide)) ?_
    | refine kept_masterTime (sub hl (by decide)) ?_
    | dsimp only

theorem kept_auxKept {old : State} (hl : [.regs, .sup] ⊆ l) (h : Kept l a s) :
    Kept l a (State.auxKept s old) := by
  unfold State.auxKept
  repeat' first
    | with_reducible exact h
    | with_reducible refine Kept.ite ?_ ?_
    | (intro k hk; cases k <;> first | exact absurd (hl (by decide)) hk | rfl | exact ⟨rfl, rfl⟩)
    | (simp only [kept_lit]; refine KeptUpd.intro ?_ ?_ ⟨rfl, rfl, rfl⟩)
    | dsimp only

theorem kept_deviceReset {cause : Nat} (hl : [.free, .mem, .errs, .regs, .clk, .stitch, .ctxs, .hsync, .bays, .panels, .cus, .mus, .rtrs, .host, .evt, .claims, .hbm, .sites, .twin, .sup, .rel, .store, .spdm] ⊆ l) (h : Kept l a s) :
    Kept l a (State.deviceReset s cause) := by
  unfold State.deviceReset
  with_reducible repeat' first
    | exact h
    | assumption
    | refine Kept.ite ?_ ?_
    | refine kept_auxKept (sub hl (by decide)) ?_
    | refine kept_powerOn (sub hl (by decide)) ?_
    | refine kept_goDown (sub hl (by decide)) ?_
    | refine kept_takeFree (sub hl (by decide)) ?_
    | refine kept_loopBack (sub hl (by decide)) ?_
    | refine kept_setReg (sub hl (by decide)) ?_
    | refine kept_raise (sub hl (by decide)) ?_
    | refine kept_romStart (sub hl (by decide)) ?_
    | refine Kept.foldl ?_ ?_
    | refine Kept.foldl₂ ?_ ?_
    | refine Kept.foldl₁ ?_ ?_
    | (split; rename_i e; have e0 := congrArg (fun p => p.1) e; have e1 := congrArg (fun p => p.2.1) e; have e2 := congrArg (fun p => p.2.2.1) e; have e3 := congrArg (fun p => p.2.2.2) e; dsimp only at e0 e1 e2 e3; subst e0; subst e1; subst e2; subst e3)
    | (split; rename_i e; have e0 := congrArg (fun p => p.1) e; have e1 := congrArg (fun p => p.2.1) e; have e2 := congrArg (fun p => p.2.2) e; dsimp only at e0 e1 e2; subst e0; subst e1; subst e2)
    | (split; rename_i e; have e0 := congrArg (fun p => p.1) e; have e1 := congrArg (fun p => p.2) e; dsimp only at e0 e1; subst e0; subst e1)
    | (split; rename_i e; have e0 := congrArg (fun p => p.2) e; dsimp only at e0; subst e0)
    | (split; rename_i e; have e0 := congrArg (fun p => p.1) e; dsimp only at e0; subst e0)
    | split
    | (refine Kept.of_snd (by assumption) ?_)
    | intro _ _ _ _
    | intro _ _ _
    | intro _ _
    | intro _
    | dsimp only

theorem runs_execDeviceReset {t : Nat} {value : Reg} {s0 : State} (hl : [.free, .mem, .errs, .regs, .clk, .stitch, .ctxs, .hsync, .bays, .panels, .cus, .mus, .rtrs, .host, .evt, .claims, .hbm, .sites, .twin, .sup, .rel, .store, .spdm] ⊆ l) :
    Runs l s0 (execDeviceReset t value s0) := by
  unfold execDeviceReset
  refine Runs.next ?_
  have h := Kept.refl l s0
  with_reducible repeat' first
    | exact h
    | refine Kept.ite ?_ ?_
    | refine kept_masterTime (sub hl (by decide)) ?_
    | refine kept_deviceReset (sub hl (by decide)) ?_
    | dsimp only

theorem runs_execManagementWatchdog {t : Nat} {s0 : State} (hl : [.free, .mem, .errs, .regs, .clk, .stitch, .ctxs, .hsync, .bays, .panels, .cus, .mus, .rtrs, .host, .evt, .claims, .hbm, .sites, .twin, .sup, .rel, .store, .spdm] ⊆ l) :
    Runs l s0 (execManagementWatchdog t s0) := by
  unfold execManagementWatchdog
  refine Runs.next ?_
  have h := Kept.refl l s0
  with_reducible repeat' first
    | exact h
    | refine Kept.ite ?_ ?_
    | refine kept_masterTime (sub hl (by decide)) ?_
    | refine kept_deviceReset (sub hl (by decide)) ?_
    | dsimp only

theorem kept_ideEnd (hl : [.spdm] ⊆ l) (h : Kept l a s) :
    Kept l a (State.ideEnd s) := by
  unfold State.ideEnd
  with_reducible repeat' first
    | exact h
    | refine Kept.ite ?_ ?_
    | refine kept_modSpdm (sub hl (by decide)) ?_
    | dsimp only

theorem kept_perst (hl : [.hostMem, .regs, .host, .evt, .spdm] ⊆ l) (h : Kept l a s) :
    Kept l a (State.perst s) := by
  unfold State.perst
  with_reducible repeat' first
    | exact h
    | assumption
    | refine Kept.ite ?_ ?_
    | refine kept_ideEnd (sub hl (by decide)) ?_
    | refine kept_setReg (sub hl (by decide)) ?_
    | refine kept_modHost (sub hl (by decide)) ?_
    | refine kept_dmaStop (sub hl (by decide)) ?_
    | refine Kept.foldl ?_ ?_
    | (split; rename_i e; have e0 := congrArg (fun p => p.1) e; have e1 := congrArg (fun p => p.2) e; dsimp only at e0 e1; subst e0; subst e1)
    | (split; rename_i e; have e0 := congrArg (fun p => p.2) e; dsimp only at e0; subst e0)
    | split
    | (refine Kept.of_snd (by assumption) ?_)
    | intro _ _ _ _
    | intro _ _ _
    | intro _ _
    | intro _
    | dsimp only

theorem runs_execPciePerst {t : Nat} {s0 : State} (hl : [.hostMem, .regs, .clk, .host, .evt, .spdm] ⊆ l) :
    Runs l s0 (execPciePerst t s0) := by
  unfold execPciePerst
  refine Runs.next ?_
  have h := Kept.refl l s0
  with_reducible repeat' first
    | exact h
    | refine Kept.ite ?_ ?_
    | refine kept_perst (sub hl (by decide)) ?_
    | refine kept_masterTime (sub hl (by decide)) ?_
    | dsimp only

theorem runs_execRecoveryPortEnable {t : Nat} {s0 : State} (hl : [.clk, .sup] ⊆ l) :
    Runs l s0 (execRecoveryPortEnable t s0) := by
  unfold execRecoveryPortEnable
  refine Runs.next ?_
  have h := Kept.refl l s0
  with_reducible repeat' first
    | exact h
    | refine Kept.ite ?_ ?_
    | refine kept_masterTime (sub hl (by decide)) ?_
    | refine kept_modSup (sub hl (by decide)) ?_
    | dsimp only

theorem kept_portOff (hl : [.free, .regs, .clk, .evt, .sup, .rel, .store, .spdm] ⊆ l) (h : Kept l a s) :
    Kept l a (State.portOff s) := by
  unfold State.portOff
  with_reducible repeat' first
    | exact h
    | assumption
    | refine Kept.ite ?_ ?_
    | refine kept_modSup (sub hl (by decide)) ?_
    | refine kept_portStops (sub hl (by decide)) ?_
    | refine kept_romStart (sub hl (by decide)) ?_
    | refine Kept.foldl ?_ ?_
    | refine Kept.foldl₂ ?_ ?_
    | refine Kept.foldl₁ ?_ ?_
    | (split; rename_i e; have e0 := congrArg (fun p => p.1) e; have e1 := congrArg (fun p => p.2.1) e; have e2 := congrArg (fun p => p.2.2.1) e; have e3 := congrArg (fun p => p.2.2.2) e; dsimp only at e0 e1 e2 e3; subst e0; subst e1; subst e2; subst e3)
    | (split; rename_i e; have e0 := congrArg (fun p => p.1) e; have e1 := congrArg (fun p => p.2.1) e; have e2 := congrArg (fun p => p.2.2) e; dsimp only at e0 e1 e2; subst e0; subst e1; subst e2)
    | (split; rename_i e; have e0 := congrArg (fun p => p.1) e; have e1 := congrArg (fun p => p.2) e; dsimp only at e0 e1; subst e0; subst e1)
    | (split; rename_i e; have e0 := congrArg (fun p => p.2) e; dsimp only at e0; subst e0)
    | (split; rename_i e; have e0 := congrArg (fun p => p.1) e; dsimp only at e0; subst e0)
    | split
    | (refine Kept.of_snd (by assumption) ?_)
    | intro _ _ _ _
    | intro _ _ _
    | intro _ _
    | intro _
    | dsimp only

theorem runs_execRecoveryPortDisable {t : Nat} {s0 : State} (hl : [.free, .regs, .clk, .evt, .sup, .rel, .store, .spdm] ⊆ l) :
    Runs l s0 (execRecoveryPortDisable t s0) := by
  unfold execRecoveryPortDisable
  refine Runs.next ?_
  have h := Kept.refl l s0
  with_reducible repeat' first
    | exact h
    | refine Kept.ite ?_ ?_
    | refine kept_portOff (sub hl (by decide)) ?_
    | refine kept_masterTime (sub hl (by decide)) ?_
    | dsimp only

theorem runs_execEepromRead {t : Nat} {addr : Nat} {s0 : State} (hl : [.clk, .sup] ⊆ l) :
    Runs l s0 (execEepromRead t addr s0) := by
  unfold execEepromRead
  refine Runs.next ?_
  have h := Kept.refl l s0
  with_reducible repeat' first
    | exact h
    | refine Kept.ite ?_ ?_
    | refine kept_masterTime (sub hl (by decide)) ?_
    | refine kept_modSup (sub hl (by decide)) ?_
    | dsimp only

end Sys2Proof.Machine
end

