-- ==== Sys2Proof/Laws/KeptSession.lean ====
section
/-! SUPPORT. What each operation of Machine/Session.lean may touch, and that it keeps the queue and the invariant. -/

namespace Sys2Proof.Machine

variable {l : List Comp} {a s : State}

theorem kept_mboxTake {cmd : Nat} {f : State → State} (hl : [.regs] ⊆ l) (h : Kept l a s) (hf : ∀ v0, Kept l a v0 → Kept l a (f v0)) :
    Kept l a (State.mboxTake s cmd f) := by
  unfold State.mboxTake
  with_reducible repeat' first
    | exact h
    | assumption
    | refine hf _ ?_
    | refine Kept.ite ?_ ?_
    | refine kept_hwSet (sub hl (by decide)) ?_
    | refine kept_modReg (sub hl (by decide)) ?_
    | dsimp only

theorem kept_mboxAnswer {status : Nat} {body : List (BitVec 32)} (hl : [.host] ⊆ l) (h : Kept l a s) :
    Kept l a (State.mboxAnswer s status body) := by
  unfold State.mboxAnswer
  with_reducible repeat' first
    | exact h
    | refine Kept.ite ?_ ?_
    | refine kept_modHost (sub hl (by decide)) ?_
    | dsimp only

theorem kept_mboxRespond (hl : [.regs, .host] ⊆ l) (h : Kept l a s) :
    Kept l a (State.mboxRespond s) := by
  unfold State.mboxRespond
  with_reducible repeat' first
    | exact h
    | assumption
    | refine Kept.ite ?_ ?_
    | refine kept_setReg (sub hl (by decide)) ?_
    | refine kept_hwSet (sub hl (by decide)) ?_
    | refine kept_sendMsix (sub hl (by decide)) ?_
    | refine kept_modHost (sub hl (by decide)) ?_
    | refine Kept.foldl ?_ ?_
    | (split; rename_i e; have e0 := congrArg (fun p => p.1) e; have e1 := congrArg (fun p => p.2) e; dsimp only at e0 e1; subst e0; subst e1)
    | (split; rename_i e; have e0 := congrArg (fun p => p.2) e; dsimp only at e0; subst e0)
    | split
    | (refine Kept.of_snd (by assumption) ?_)
    | intro _ _ _ _
    | intro _ _ _
    | intro _ _
    | intro _
    | dsimp only

theorem runs_execMailboxResponse {t : Nat} {s0 : State} (hl : [.regs, .clk, .host] ⊆ l) :
    Runs l s0 (execMailboxResponse t s0) := by
  unfold execMailboxResponse
  refine Runs.next ?_
  have h := Kept.refl l s0
  with_reducible repeat' first
    | exact h
    | refine Kept.ite ?_ ?_
    | refine kept_mboxRespond (sub hl (by decide)) ?_
    | refine kept_masterTime (sub hl (by decide)) ?_
    | dsimp only

theorem kept_readInventory (hl : [.regs, .host] ⊆ l) (h : Kept l a s) :
    Kept l a (State.readInventory s) := by
  unfold State.readInventory
  with_reducible repeat' first
    | exact h
    | assumption
    | refine Kept.ite ?_ ?_
    | refine kept_mboxTake (sub hl (by decide)) ?_ ?_
    | refine kept_mboxAnswer (sub hl (by decide)) ?_
    | refine Kept.foldl ?_ ?_
    | (split; rename_i e; have e0 := congrArg (fun p => p.1) e; have e1 := congrArg (fun p => p.2) e; dsimp only at e0 e1; subst e0; subst e1)
    | (split; rename_i e; have e0 := congrArg (fun p => p.2) e; dsimp only at e0; subst e0)
    | split
    | (refine Kept.of_snd (by assumption) ?_)
    | intro _ _ _ _
    | intro _ _ _
    | intro _ _
    | intro _
    | dsimp only

theorem runs_execMboxReadInventory {t : Nat} {s0 : State} (hl : [.regs, .clk, .host] ⊆ l) :
    Runs l s0 (execMboxReadInventory t s0) := by
  unfold execMboxReadInventory
  refine Runs.next ?_
  have h := Kept.refl l s0
  with_reducible repeat' first
    | exact h
    | refine Kept.ite ?_ ?_
    | refine kept_readInventory (sub hl (by decide)) ?_
    | refine kept_masterTime (sub hl (by decide)) ?_
    | dsimp only

theorem kept_weightsRead {i : Image} (hl : [.free, .regs, .evt, .hbm, .rel] ⊆ l) (h : Kept l a s) :
    Kept l a (State.weightsRead s i) := by
  unfold State.weightsRead
  with_reducible repeat' first
    | exact h
    | assumption
    | refine Kept.ite ?_ ?_
    | refine kept_hbmReadBytes (sub hl (by decide)) ?_
    | refine Kept.foldl ?_ ?_
    | (split; rename_i e; have e0 := congrArg (fun p => p.1) e; have e1 := congrArg (fun p => p.2) e; dsimp only at e0 e1; subst e0; subst e1)
    | (split; rename_i e; have e0 := congrArg (fun p => p.2) e; dsimp only at e0; subst e0)
    | split
    | (refine Kept.of_snd (by assumption) ?_)
    | intro _ _ _ _
    | intro _ _ _
    | intro _ _
    | intro _
    | dsimp only

theorem kept_declareWindow {k : Nat} {c : Nat} {v : Nat} (hl : [.regs, .mus] ⊆ l) (h : Kept l a s) :
    Kept l a (State.declareWindow s k c v) := by
  unfold State.declareWindow
  with_reducible repeat' first
    | exact h
    | refine Kept.ite ?_ ?_
    | refine kept_modMu (sub hl (by decide)) ?_
    | refine kept_setReg (sub hl (by decide)) ?_
    | refine Kept.foldl ?_ ?_
    | split
    | intro _ _ _ _
    | intro _ _ _
    | intro _ _
    | intro _
    | dsimp only

theorem kept_declareWindows {k : Nat} {i : Image} (hl : [.regs, .mus] ⊆ l) (h : Kept l a s) :
    Kept l a (State.declareWindows s k i) := by
  unfold State.declareWindows
  with_reducible repeat' first
    | exact h
    | assumption
    | refine Kept.ite ?_ ?_
    | refine kept_declareWindow (sub hl (by decide)) ?_
    | refine Kept.foldl ?_ ?_
    | (split; rename_i e; have e0 := congrArg (fun p => p.1) e; have e1 := congrArg (fun p => p.2) e; dsimp only at e0 e1; subst e0; subst e1)
    | (split; rename_i e; have e0 := congrArg (fun p => p.2) e; dsimp only at e0; subst e0)
    | split
    | (refine Kept.of_snd (by assumption) ?_)
    | intro _ _ _ _
    | intro _ _ _
    | intro _ _
    | intro _
    | dsimp only

theorem kept_declarePair {k : Nat} {d : QpDecl} (hl : [.regs, .host] ⊆ l) (h : Kept l a s) :
    Kept l a (State.declarePair s k d) := by
  unfold State.declarePair
  with_reducible repeat' first
    | exact h
    | refine Kept.ite ?_ ?_
    | refine kept_modHost (sub hl (by decide)) ?_
    | refine kept_dropRegs (sub hl (by decide)) ?_
    | refine kept_setReg (sub hl (by decide)) ?_
    | dsimp only

theorem kept_loadWeights {i : Image} (hl : [.free, .mem, .errs, .regs, .ctxs, .bays, .evt, .hbm, .twin, .rel] ⊆ l) (h : Kept l a s) :
    Kept l a (State.loadWeights s i) := by
  unfold State.loadWeights
  with_reducible repeat' first
    | exact h
    | assumption
    | refine Kept.ite ?_ ?_
    | refine kept_hbmContents (sub hl (by decide)) ?_
    | refine Kept.foldl ?_ ?_
    | (split; rename_i e; have e0 := congrArg (fun p => p.1) e; have e1 := congrArg (fun p => p.2) e; dsimp only at e0 e1; subst e0; subst e1)
    | (split; rename_i e; have e0 := congrArg (fun p => p.2) e; dsimp only at e0; subst e0)
    | split
    | (refine Kept.of_snd (by assumption) ?_)
    | intro _ _ _ _
    | intro _ _ _
    | intro _ _
    | intro _
    | dsimp only

theorem kept_makeResident {k : Nat} {i : Image} (hl : [.free, .mem, .errs, .regs, .ctxs, .hsync, .bays, .mus, .host, .evt, .hbm, .twin, .rel] ⊆ l) (h : Kept l a s) :
    Kept l a (State.makeResident s k i) := by
  unfold State.makeResident
  with_reducible repeat' first
    | exact h
    | assumption
    | refine Kept.ite ?_ ?_
    | refine kept_modHbm (sub hl (by decide)) ?_
    | refine kept_loadBytes (sub hl (by decide)) ?_
    | refine kept_mapIds (sub hl (by decide)) ?_
    | refine kept_declareWindows (sub hl (by decide)) ?_
    | refine kept_loadWeights (sub hl (by decide)) ?_
    | refine kept_declarePair (sub hl (by decide)) ?_
    | refine kept_setCtx (sub hl (by decide)) ?_
    | refine Kept.foldl ?_ ?_
    | refine Kept.foldl₂ ?_ ?_
    | refine Kept.foldl₁ ?_ ?_
    | (split; rename_i e; have e0 := congrArg (fun p => p.1) e; have e1 := congrArg (fun p => p.2.1) e; have e2 := congrArg (fun p => p.2.2.1) e; have e3 := congrArg (fun p => p.2.2.2) e; dsimp only at e0 e1 e2 e3; subst e0; subst e1; subst e2; subst e3)
    | (split; rename_i e; have e0 := congrArg (fun p => p.1) e; have e1 := congrArg (fun p => p.2.1) e; have e2 := congrArg (fun p => p.2.2) e; dsimp only at e0 e1 e2; subst e0; subst e1; subst e2)
    | (split; rename_i e; have e0 := congrArg (fun p => p.1) e; have e1 := congrArg (fun p => p.2) e; dsimp only at e0 e1; subst e0; subst e1)
    | (split; rename_i e; have e0 := congrArg (fun p => p.2) e; dsimp only at e0; subst e0)
    | (split; rename_i e; have e0 := congrArg (fun p => p.1) e; dsimp only at e0; subst e0)
    | split
    | (refine Kept.of_snd (by assumption) ?_)
    | intro _ _ _ _
    | intro _ _ _
    | intro _ _
    | intro _
    | dsimp only

theorem kept_advanceImage {i : Image} (hl : [.fuses] ⊆ l) (h : Kept l a s) :
    Kept l a (State.advanceImage s i) := by
  unfold State.advanceImage
  with_reducible repeat' first
    | exact h
    | assumption
    | refine Kept.ite ?_ ?_
    | refine kept_advanceSvn (sub hl (by decide)) ?_
    | refine Kept.foldl ?_ ?_
    | (split; rename_i e; have e0 := congrArg (fun p => p.1) e; have e1 := congrArg (fun p => p.2) e; dsimp only at e0 e1; subst e0; subst e1)
    | (split; rename_i e; have e0 := congrArg (fun p => p.2) e; dsimp only at e0; subst e0)
    | split
    | (refine Kept.of_snd (by assumption) ?_)
    | intro _ _ _ _
    | intro _ _ _
    | intro _ _
    | intro _
    | dsimp only

theorem kept_imageChecked {i : Image} {reason : Option Nat} (hl : [.free, .regs, .evt, .hbm, .rel] ⊆ l) (h : Kept l a s) :
    Kept l a (State.imageChecked s i reason) := by
  unfold State.imageChecked
  with_reducible repeat' first
    | exact h
    | assumption
    | refine Kept.ite ?_ ?_
    | refine kept_signatureFailure (sub hl (by decide)) ?_
    | refine kept_weightsRead (sub hl (by decide)) ?_
    | refine kept_negotiate (sub hl (by decide)) ?_
    | refine kept_mismatch (sub hl (by decide)) ?_
    | refine Kept.foldl ?_ ?_
    | refine Kept.foldl₂ ?_ ?_
    | refine Kept.foldl₁ ?_ ?_
    | (split; rename_i e; have e0 := congrArg (fun p => p.1) e; have e1 := congrArg (fun p => p.2.1) e; have e2 := congrArg (fun p => p.2.2.1) e; have e3 := congrArg (fun p => p.2.2.2) e; dsimp only at e0 e1 e2 e3; subst e0; subst e1; subst e2; subst e3)
    | (split; rename_i e; have e0 := congrArg (fun p => p.1) e; have e1 := congrArg (fun p => p.2.1) e; have e2 := congrArg (fun p => p.2.2) e; dsimp only at e0 e1 e2; subst e0; subst e1; subst e2)
    | (split; rename_i e; have e0 := congrArg (fun p => p.1) e; have e1 := congrArg (fun p => p.2) e; dsimp only at e0 e1; subst e0; subst e1)
    | (split; rename_i e; have e0 := congrArg (fun p => p.2) e; dsimp only at e0; subst e0)
    | (split; rename_i e; have e0 := congrArg (fun p => p.1) e; dsimp only at e0; subst e0)
    | split
    | (refine Kept.of_snd (by assumption) ?_)
    | intro _ _ _ _
    | intro _ _ _
    | intro _ _
    | intro _
    | dsimp only

theorem kept_admitImage {k : Nat} {i : Image} {r : Option Nat} (hl : [.free, .mem, .errs, .regs, .ctxs, .hsync, .bays, .mus, .host, .evt, .hbm, .twin, .rel, .fuses] ⊆ l) (h : Kept l a s) :
    Kept l a (State.admitImage s k i r).2 := by
  unfold State.admitImage
  with_reducible repeat' first
    | exact h
    | refine Kept.ite ?_ ?_
    | refine kept_imageChecked (sub hl (by decide)) ?_
    | refine kept_refuseImage (sub hl (by decide)) ?_
    | refine kept_advanceImage (sub hl (by decide)) ?_
    | refine kept_makeResident (sub hl (by decide)) ?_
    | refine Kept.foldl ?_ ?_
    | split
    | intro _ _ _ _
    | intro _ _ _
    | intro _ _
    | intro _
    | dsimp only

theorem kept_loadImage {k : Nat} {i : Image} (hl : [.free, .mem, .errs, .regs, .ctxs, .hsync, .bays, .mus, .host, .evt, .hbm, .twin, .rel, .fuses] ⊆ l) (h : Kept l a s) :
    Kept l a (State.loadImage s k i).2 := by
  unfold State.loadImage
  with_reducible repeat' first
    | exact h
    | assumption
    | refine Kept.ite ?_ ?_
    | refine kept_admitImage (sub hl (by decide)) ?_
    | refine Kept.foldl ?_ ?_
    | refine Kept.foldl₂ ?_ ?_
    | refine Kept.foldl₁ ?_ ?_
    | (split; rename_i e; have e0 := congrArg (fun p => p.1) e; have e1 := congrArg (fun p => p.2.1) e; have e2 := congrArg (fun p => p.2.2.1) e; have e3 := congrArg (fun p => p.2.2.2) e; dsimp only at e0 e1 e2 e3; subst e0; subst e1; subst e2; subst e3)
    | (split; rename_i e; have e0 := congrArg (fun p => p.1) e; have e1 := congrArg (fun p => p.2.1) e; have e2 := congrArg (fun p => p.2.2) e; dsimp only at e0 e1 e2; subst e0; subst e1; subst e2)
    | (split; rename_i e; have e0 := congrArg (fun p => p.1) e; have e1 := congrArg (fun p => p.2) e; dsimp only at e0 e1; subst e0; subst e1)
    | (split; rename_i e; have e0 := congrArg (fun p => p.2) e; dsimp only at e0; subst e0)
    | (split; rename_i e; have e0 := congrArg (fun p => p.1) e; dsimp only at e0; subst e0)
    | split
    | (refine Kept.of_snd (by assumption) ?_)
    | intro _ _ _ _
    | intro _ _ _
    | intro _ _
    | intro _
    | dsimp only

theorem kept_loadFrom {k : Nat} {x0 : ImageSource} (hl : [.free, .mem, .errs, .regs, .ctxs, .hsync, .bays, .mus, .host, .evt, .hbm, .twin, .rel, .fuses] ⊆ l) (h : Kept l a s) :
    Kept l a (State.loadFrom s k x0).2 := by
  unfold State.loadFrom
  with_reducible repeat' first
    | exact h
    | refine Kept.ite ?_ ?_
    | refine kept_loadImage (sub hl (by decide)) ?_
    | refine Kept.foldl ?_ ?_
    | split
    | intro _ _ _ _
    | intro _ _ _
    | intro _ _
    | intro _
    | dsimp only

theorem kept_mboxLoad {k : Nat} {i : ImageSource} (hl : [.free, .mem, .errs, .regs, .ctxs, .hsync, .bays, .mus, .host, .evt, .hbm, .twin, .rel, .fuses] ⊆ l) (h : Kept l a s) :
    Kept l a (State.mboxLoad s k i) := by
  unfold State.mboxLoad
  with_reducible repeat' first
    | exact h
    | assumption
    | refine Kept.ite ?_ ?_
    | refine kept_mboxTake (sub hl (by decide)) ?_ ?_
    | refine kept_mboxAnswer (sub hl (by decide)) ?_
    | refine kept_loadFrom (sub hl (by decide)) ?_
    | refine Kept.foldl ?_ ?_
    | (split; rename_i e; have e0 := congrArg (fun p => p.1) e; have e1 := congrArg (fun p => p.2) e; dsimp only at e0 e1; subst e0; subst e1)
    | (split; rename_i e; have e0 := congrArg (fun p => p.2) e; dsimp only at e0; subst e0)
    | split
    | (refine Kept.of_snd (by assumption) ?_)
    | intro _ _ _ _
    | intro _ _ _
    | intro _ _
    | intro _
    | dsimp only

theorem runs_execMboxLoadImage {t : Nat} {k : Nat} {img : ImageSource} {s0 : State} (hl : [.free, .mem, .errs, .regs, .clk, .ctxs, .hsync, .bays, .mus, .host, .evt, .hbm, .twin, .rel, .fuses] ⊆ l) :
    Runs l s0 (execMboxLoadImage t k img s0) := by
  unfold execMboxLoadImage
  refine Runs.next ?_
  have h := Kept.refl l s0
  with_reducible repeat' first
    | exact h
    | refine Kept.ite ?_ ?_
    | refine kept_mboxLoad (sub hl (by decide)) ?_
    | refine kept_masterTime (sub hl (by decide)) ?_
    | dsimp only

theorem kept_clearWindows {k : Nat} (hl : [.regs, .mus] ⊆ l) (h : Kept l a s) :
    Kept l a (State.clearWindows s k) := by
  unfold State.clearWindows
  with_reducible repeat' first
    | exact h
    | assumption
    | refine Kept.ite ?_ ?_
    | refine kept_modMu (sub hl (by decide)) ?_
    | refine kept_setReg (sub hl (by decide)) ?_
    | refine Kept.foldl ?_ ?_
    | (split; rename_i e; have e0 := congrArg (fun p => p.1) e; have e1 := congrArg (fun p => p.2) e; dsimp only at e0 e1; subst e0; subst e1)
    | (split; rename_i e; have e0 := congrArg (fun p => p.2) e; dsimp only at e0; subst e0)
    | split
    | (refine Kept.of_snd (by assumption) ?_)
    | intro _ _ _ _
    | intro _ _ _
    | intro _ _
    | intro _
    | dsimp only

theorem kept_endResidency {k : Nat} (hl : [.regs, .stitch, .ctxs, .hsync, .bays, .cus, .mus, .host, .evt, .hbm] ⊆ l) (h : Kept l a s) :
    Kept l a (State.endResidency s k) := by
  unfold State.endResidency
  repeat' first
    | with_reducible exact h
    | with_reducible assumption
    | with_reducible refine Kept.ite ?_ ?_
    | with_reducible refine kept_clearWindows (sub hl (by decide)) ?_
    | with_reducible refine kept_abandon (sub hl (by decide)) ?_
    | with_reducible refine kept_modHost (sub hl (by decide)) ?_
    | with_reducible refine kept_dropRegs (sub hl (by decide)) ?_
    | with_reducible refine kept_modHbm (sub hl (by decide)) ?_
    | with_reducible refine Kept.foldl ?_ ?_
    | (split; rename_i e; have e0 := congrArg (fun p => p.1) e; have e1 := congrArg (fun p => p.2) e; dsimp only at e0 e1; subst e0; subst e1)
    | (split; rename_i e; have e0 := congrArg (fun p => p.2) e; dsimp only at e0; subst e0)
    | split
    | (refine Kept.of_snd (by assumption) ?_)
    | (intro k hk; cases k <;> first | exact absurd (hl (by decide)) hk | rfl | exact ⟨rfl, rfl⟩)
    | (simp only [kept_lit]; refine KeptUpd.intro ?_ ?_ ⟨rfl, rfl, rfl⟩)
    | intro _ _ _ _
    | intro _ _ _
    | intro _ _
    | intro _
    | dsimp only

theorem kept_mboxEndRes {k : Nat} (hl : [.regs, .stitch, .ctxs, .hsync, .bays, .cus, .mus, .host, .evt, .hbm] ⊆ l) (h : Kept l a s) :
    Kept l a (State.mboxEndRes s k) := by
  unfold State.mboxEndRes
  with_reducible repeat' first
    | exact h
    | assumption
    | refine Kept.ite ?_ ?_
    | refine kept_mboxTake (sub hl (by decide)) ?_ ?_
    | refine kept_mboxAnswer (sub hl (by decide)) ?_
    | refine kept_endResidency (sub hl (by decide)) ?_
    | refine Kept.foldl ?_ ?_
    | (split; rename_i e; have e0 := congrArg (fun p => p.1) e; have e1 := congrArg (fun p => p.2) e; dsimp only at e0 e1; subst e0; subst e1)
    | (split; rename_i e; have e0 := congrArg (fun p => p.2) e; dsimp only at e0; subst e0)
    | split
    | (refine Kept.of_snd (by assumption) ?_)
    | intro _ _ _ _
    | intro _ _ _
    | intro _ _
    | intro _
    | dsimp only

theorem runs_execMboxEndResidency {t : Nat} {k : Nat} {s0 : State} (hl : [.regs, .clk, .stitch, .ctxs, .hsync, .bays, .cus, .mus, .host, .evt, .hbm] ⊆ l) :
    Runs l s0 (execMboxEndResidency t k s0) := by
  unfold execMboxEndResidency
  refine Runs.next ?_
  have h := Kept.refl l s0
  with_reducible repeat' first
    | exact h
    | refine Kept.ite ?_ ?_
    | refine kept_mboxEndRes (sub hl (by decide)) ?_
    | refine kept_masterTime (sub hl (by decide)) ?_
    | dsimp only

theorem kept_endGrant (hl : [.evt, .spdm] ⊆ l) (h : Kept l a s) :
    Kept l a (State.endGrant s) := by
  unfold State.endGrant
  with_reducible repeat' first
    | exact h
    | refine Kept.ite ?_ ?_
    | refine kept_raise (sub hl (by decide)) ?_
    | refine kept_modSpdm (sub hl (by decide)) ?_
    | dsimp only

theorem kept_sendFeeds {i : Image} (hl : [.sites] ⊆ l) (h : Kept l a s) :
    Kept l a (State.sendFeeds s i) := by
  unfold State.sendFeeds
  with_reducible repeat' first
    | exact h
    | assumption
    | refine Kept.ite ?_ ?_
    | refine kept_queueFlit (sub hl (by decide)) ?_
    | refine Kept.foldl ?_ ?_
    | (split; rename_i e; have e0 := congrArg (fun p => p.1) e; have e1 := congrArg (fun p => p.2) e; dsimp only at e0 e1; subst e0; subst e1)
    | (split; rename_i e; have e0 := congrArg (fun p => p.2) e; dsimp only at e0; subst e0)
    | split
    | (refine Kept.of_snd (by assumption) ?_)
    | intro _ _ _ _
    | intro _ _ _
    | intro _ _
    | intro _
    | dsimp only

theorem kept_dropStaged (hl : [.stitch, .bays, .panels] ⊆ l) (h : Kept l a s) :
    Kept l a (State.dropStaged s) := by
  unfold State.dropStaged
  with_reducible repeat' first
    | exact h
    | assumption
    | refine Kept.ite ?_ ?_
    | refine kept_modStitch (sub hl (by decide)) ?_
    | refine kept_unstage (sub hl (by decide)) ?_
    | refine Kept.foldl ?_ ?_
    | (split; rename_i e; have e0 := congrArg (fun p => p.1) e; have e1 := congrArg (fun p => p.2) e; dsimp only at e0 e1; subst e0; subst e1)
    | (split; rename_i e; have e0 := congrArg (fun p => p.2) e; dsimp only at e0; subst e0)
    | split
    | (refine Kept.of_snd (by assumption) ?_)
    | intro _ _ _ _
    | intro _ _ _
    | intro _ _
    | intro _
    | dsimp only

theorem kept_linksCounted (hl : [.host, .sites] ⊆ l) (h : Kept l a s) :
    Kept l a (State.linksCounted s) := by
  unfold State.linksCounted
  repeat' first
    | with_reducible exact h
    | with_reducible refine Kept.ite ?_ ?_
    | (intro k hk; cases k <;> first | exact absurd (hl (by decide)) hk | rfl | exact ⟨rfl, rfl⟩)
    | (simp only [kept_lit]; refine KeptUpd.intro ?_ ?_ ⟨rfl, rfl, rfl⟩)
    | dsimp only

theorem kept_openSession {k : Nat} {i : Image} (hl : [.free, .mem, .errs, .regs, .clk, .stitch, .ctxs, .bays, .panels, .cus, .host, .evt, .hbm, .sites, .twin, .rel, .fuses, .spdm] ⊆ l) (h : Kept l a s) :
    Kept l a (State.openSession s k i) := by
  unfold State.openSession
  with_reducible repeat' first
    | exact h
    | assumption
    | refine Kept.ite ?_ ?_
    | refine kept_dropStaged (sub hl (by decide)) ?_
    | refine kept_modClk (sub hl (by decide)) ?_
    | refine kept_modStitch (sub hl (by decide)) ?_
    | refine kept_modRel (sub hl (by decide)) ?_
    | refine kept_linksCounted (sub hl (by decide)) ?_
    | refine kept_modSpdm (sub hl (by decide)) ?_
    | refine kept_endGrant (sub hl (by decide)) ?_
    | refine kept_setFeed (sub hl (by decide)) ?_
    | refine kept_imageGlobals (sub hl (by decide)) ?_
    | refine kept_reloadBay (sub hl (by decide)) ?_
    | refine kept_reloadWakes (sub hl (by decide)) ?_
    | refine kept_imageModes (sub hl (by decide)) ?_
    | refine kept_modReg (sub hl (by decide)) ?_
    | refine kept_advanceImage (sub hl (by decide)) ?_
    | refine Kept.foldl ?_ ?_
    | refine Kept.foldl₂ ?_ ?_
    | refine Kept.foldl₁ ?_ ?_
    | (split; rename_i e; have e0 := congrArg (fun p => p.1) e; have e1 := congrArg (fun p => p.2.1) e; have e2 := congrArg (fun p => p.2.2.1) e; have e3 := congrArg (fun p => p.2.2.2) e; dsimp only at e0 e1 e2 e3; subst e0; subst e1; subst e2; subst e3)
    | (split; rename_i e; have e0 := congrArg (fun p => p.1) e; have e1 := congrArg (fun p => p.2.1) e; have e2 := congrArg (fun p => p.2.2) e; dsimp only at e0 e1 e2; subst e0; subst e1; subst e2)
    | (split; rename_i e; have e0 := congrArg (fun p => p.1) e; have e1 := congrArg (fun p => p.2) e; dsimp only at e0 e1; subst e0; subst e1)
    | (split; rename_i e; have e0 := congrArg (fun p => p.2) e; dsimp only at e0; subst e0)
    | (split; rename_i e; have e0 := congrArg (fun p => p.1) e; dsimp only at e0; subst e0)
    | split
    | (refine Kept.of_snd (by assumption) ?_)
    | intro _ _ _ _
    | intro _ _ _
    | intro _ _
    | intro _
    | dsimp only

theorem kept_startSession {feeds : List (Nat × BitVec 64)} (hl : [.free, .mem, .errs, .regs, .clk, .stitch, .ctxs, .bays, .panels, .cus, .host, .evt, .hbm, .sites, .twin, .rel, .fuses, .spdm] ⊆ l) (h : Kept l a s) :
    Kept l a (State.startSession s feeds).2 := by
  unfold State.startSession
  with_reducible repeat' first
    | exact h
    | refine Kept.ite ?_ ?_
    | refine kept_refuseImage (sub hl (by decide)) ?_
    | refine kept_sendFeeds (sub hl (by decide)) ?_
    | refine kept_modStitch (sub hl (by decide)) ?_
    | refine kept_openSession (sub hl (by decide)) ?_
    | refine Kept.foldl ?_ ?_
    | split
    | intro _ _ _ _
    | intro _ _ _
    | intro _ _
    | intro _
    | dsimp only

theorem kept_mboxStart {feeds : List (Nat × BitVec 64)} (hl : [.free, .mem, .errs, .regs, .clk, .stitch, .ctxs, .bays, .panels, .cus, .host, .evt, .hbm, .sites, .twin, .rel, .fuses, .spdm] ⊆ l) (h : Kept l a s) :
    Kept l a (State.mboxStart s feeds) := by
  unfold State.mboxStart
  with_reducible repeat' first
    | exact h
    | assumption
    | refine Kept.ite ?_ ?_
    | refine kept_mboxTake (sub hl (by decide)) ?_ ?_
    | refine kept_mboxAnswer (sub hl (by decide)) ?_
    | refine kept_startSession (sub hl (by decide)) ?_
    | refine Kept.foldl ?_ ?_
    | (split; rename_i e; have e0 := congrArg (fun p => p.1) e; have e1 := congrArg (fun p => p.2) e; dsimp only at e0 e1; subst e0; subst e1)
    | (split; rename_i e; have e0 := congrArg (fun p => p.2) e; dsimp only at e0; subst e0)
    | split
    | (refine Kept.of_snd (by assumption) ?_)
    | intro _ _ _ _
    | intro _ _ _
    | intro _ _
    | intro _
    | dsimp only

theorem runs_execMboxStartSession {t : Nat} {feeds : List (Nat × BitVec 64)} {s0 : State} (hl : [.free, .mem, .errs, .regs, .clk, .stitch, .ctxs, .bays, .panels, .cus, .host, .evt, .hbm, .sites, .twin, .rel, .fuses, .spdm] ⊆ l) :
    Runs l s0 (execMboxStartSession t feeds s0) := by
  unfold execMboxStartSession
  refine Runs.next ?_
  have h := Kept.refl l s0
  with_reducible repeat' first
    | exact h
    | refine Kept.ite ?_ ?_
    | refine kept_mboxStart (sub hl (by decide)) ?_
    | refine kept_masterTime (sub hl (by decide)) ?_
    | dsimp only

theorem kept_stopStitch (hl : [.clk, .stitch] ⊆ l) (h : Kept l a s) :
    Kept l a (State.stopStitch s) := by
  unfold State.stopStitch
  with_reducible repeat' first
    | exact h
    | refine Kept.ite ?_ ?_
    | refine kept_modClk (sub hl (by decide)) ?_
    | refine kept_modStitch (sub hl (by decide)) ?_
    | dsimp only

theorem kept_baysIdle (hl : [.bays, .twin] ⊆ l) (h : Kept l a s) :
    Kept l a (State.baysIdle s) := by
  unfold State.baysIdle
  repeat' first
    | with_reducible exact h
    | with_reducible refine Kept.ite ?_ ?_
    | (intro k hk; cases k <;> first | exact absurd (hl (by decide)) hk | rfl | exact ⟨rfl, rfl⟩)
    | (simp only [kept_lit]; refine KeptUpd.intro ?_ ?_ ⟨rfl, rfl, rfl⟩)
    | dsimp only

theorem kept_wakeDormant (hl : [.regs, .panels, .evt] ⊆ l) (h : Kept l a s) :
    Kept l a (State.wakeDormant s) := by
  unfold State.wakeDormant
  with_reducible repeat' first
    | exact h
    | assumption
    | refine Kept.ite ?_ ?_
    | refine kept_queueWake (sub hl (by decide)) ?_
    | refine Kept.foldl ?_ ?_
    | (split; rename_i e; have e0 := congrArg (fun p => p.1) e; have e1 := congrArg (fun p => p.2) e; dsimp only at e0 e1; subst e0; subst e1)
    | (split; rename_i e; have e0 := congrArg (fun p => p.2) e; dsimp only at e0; subst e0)
    | split
    | (refine Kept.of_snd (by assumption) ?_)
    | intro _ _ _ _
    | intro _ _ _
    | intro _ _
    | intro _
    | dsimp only

theorem kept_tokensOver (hl : [.sites] ⊆ l) (h : Kept l a s) :
    Kept l a (State.tokensOver s) := by
  unfold State.tokensOver
  repeat' first
    | with_reducible exact h
    | with_reducible refine Kept.ite ?_ ?_
    | (intro k hk; cases k <;> first | exact absurd (hl (by decide)) hk | rfl | exact ⟨rfl, rfl⟩)
    | (simp only [kept_lit]; refine KeptUpd.intro ?_ ?_ ⟨rfl, rfl, rfl⟩)
    | dsimp only

theorem kept_closeSession (hl : [.regs, .clk, .stitch, .bays, .panels, .cus, .mus, .evt, .hbm, .sites, .twin, .sup] ⊆ l) (h : Kept l a s) :
    Kept l a (State.closeSession s) := by
  unfold State.closeSession
  with_reducible repeat' first
    | exact h
    | assumption
    | refine Kept.ite ?_ ?_
    | refine kept_voidCleanup (sub hl (by decide)) ?_
    | refine kept_flushFabric (sub hl (by decide)) ?_
    | refine kept_dropWritten (sub hl (by decide)) ?_
    | refine kept_wakeDormant (sub hl (by decide)) ?_
    | refine kept_capInForce (sub hl (by decide)) ?_
    | refine kept_baysIdle (sub hl (by decide)) ?_
    | refine kept_tokensOver (sub hl (by decide)) ?_
    | refine kept_stopStitch (sub hl (by decide)) ?_
    | refine kept_dropStaged (sub hl (by decide)) ?_
    | refine Kept.foldl ?_ ?_
    | refine Kept.foldl₂ ?_ ?_
    | refine Kept.foldl₁ ?_ ?_
    | (split; rename_i e; have e0 := congrArg (fun p => p.1) e; have e1 := congrArg (fun p => p.2.1) e; have e2 := congrArg (fun p => p.2.2.1) e; have e3 := congrArg (fun p => p.2.2.2) e; dsimp only at e0 e1 e2 e3; subst e0; subst e1; subst e2; subst e3)
    | (split; rename_i e; have e0 := congrArg (fun p => p.1) e; have e1 := congrArg (fun p => p.2.1) e; have e2 := congrArg (fun p => p.2.2) e; dsimp only at e0 e1 e2; subst e0; subst e1; subst e2)
    | (split; rename_i e; have e0 := congrArg (fun p => p.1) e; have e1 := congrArg (fun p => p.2) e; dsimp only at e0 e1; subst e0; subst e1)
    | (split; rename_i e; have e0 := congrArg (fun p => p.2) e; dsimp only at e0; subst e0)
    | (split; rename_i e; have e0 := congrArg (fun p => p.1) e; dsimp only at e0; subst e0)
    | split
    | (refine Kept.of_snd (by assumption) ?_)
    | intro _ _ _ _
    | intro _ _ _
    | intro _ _
    | intro _
    | dsimp only

theorem kept_endAllResidencies (hl : [.regs, .stitch, .ctxs, .hsync, .bays, .cus, .mus, .host, .evt, .hbm] ⊆ l) (h : Kept l a s) :
    Kept l a (State.endAllResidencies s) := by
  unfold State.endAllResidencies
  with_reducible repeat' first
    | exact h
    | assumption
    | refine Kept.ite ?_ ?_
    | refine kept_endResidency (sub hl (by decide)) ?_
    | refine Kept.foldl ?_ ?_
    | (split; rename_i e; have e0 := congrArg (fun p => p.1) e; have e1 := congrArg (fun p => p.2) e; dsimp only at e0 e1; subst e0; subst e1)
    | (split; rename_i e; have e0 := congrArg (fun p => p.2) e; dsimp only at e0; subst e0)
    | split
    | (refine Kept.of_snd (by assumption) ?_)
    | intro _ _ _ _
    | intro _ _ _
    | intro _ _
    | intro _
    | dsimp only

theorem kept_startScrub {ending : Bool} (hl : [.hbm] ⊆ l) (h : Kept l a s) :
    Kept l a (State.startScrub s ending) := by
  unfold State.startScrub
  with_reducible repeat' first
    | exact h
    | assumption
    | refine Kept.ite ?_ ?_
    | refine kept_modHbm (sub hl (by decide)) ?_
    | refine Kept.foldl ?_ ?_
    | refine Kept.foldl₂ ?_ ?_
    | refine Kept.foldl₁ ?_ ?_
    | (split; rename_i e; have e0 := congrArg (fun p => p.1) e; have e1 := congrArg (fun p => p.2.1) e; have e2 := congrArg (fun p => p.2.2.1) e; have e3 := congrArg (fun p => p.2.2.2) e; dsimp only at e0 e1 e2 e3; subst e0; subst e1; subst e2; subst e3)
    | (split; rename_i e; have e0 := congrArg (fun p => p.1) e; have e1 := congrArg (fun p => p.2.1) e; have e2 := congrArg (fun p => p.2.2) e; dsimp only at e0 e1 e2; subst e0; subst e1; subst e2)
    | (split; rename_i e; have e0 := congrArg (fun p => p.1) e; have e1 := congrArg (fun p => p.2) e; dsimp only at e0 e1; subst e0; subst e1)
    | (split; rename_i e; have e0 := congrArg (fun p => p.2) e; dsimp only at e0; subst e0)
    | (split; rename_i e; have e0 := congrArg (fun p => p.1) e; dsimp only at e0; subst e0)
    | split
    | (refine Kept.of_snd (by assumption) ?_)
    | intro _ _ _ _
    | intro _ _ _
    | intro _ _
    | intro _
    | dsimp only

theorem kept_mboxEnd (hl : [.regs, .clk, .stitch, .ctxs, .hsync, .bays, .panels, .cus, .mus, .host, .evt, .hbm, .sites, .twin, .sup] ⊆ l) (h : Kept l a s) :
    Kept l a (State.mboxEnd s) := by
  unfold State.mboxEnd
  with_reducible repeat' first
    | exact h
    | assumption
    | refine Kept.ite ?_ ?_
    | refine kept_mboxTake (sub hl (by decide)) ?_ ?_
    | refine kept_mboxAnswer (sub hl (by decide)) ?_
    | refine kept_startScrub (sub hl (by decide)) ?_
    | refine kept_closeSession (sub hl (by decide)) ?_
    | refine kept_endAllResidencies (sub hl (by decide)) ?_
    | refine Kept.foldl ?_ ?_
    | refine Kept.foldl₂ ?_ ?_
    | refine Kept.foldl₁ ?_ ?_
    | (split; rename_i e; have e0 := congrArg (fun p => p.1) e; have e1 := congrArg (fun p => p.2.1) e; have e2 := congrArg (fun p => p.2.2.1) e; have e3 := congrArg (fun p => p.2.2.2) e; dsimp only at e0 e1 e2 e3; subst e0; subst e1; subst e2; subst e3)
    | (split; rename_i e; have e0 := congrArg (fun p => p.1) e; have e1 := congrArg (fun p => p.2.1) e; have e2 := congrArg (fun p => p.2.2) e; dsimp only at e0 e1 e2; subst e0; subst e1; subst e2)
    | (split; rename_i e; have e0 := congrArg (fun p => p.1) e; have e1 := congrArg (fun p => p.2) e; dsimp only at e0 e1; subst e0; subst e1)
    | (split; rename_i e; have e0 := congrArg (fun p => p.2) e; dsimp only at e0; subst e0)
    | (split; rename_i e; have e0 := congrArg (fun p => p.1) e; dsimp only at e0; subst e0)
    | split
    | (refine Kept.of_snd (by assumption) ?_)
    | intro _ _ _ _
    | intro _ _ _
    | intro _ _
    | intro _
    | dsimp only

theorem runs_execMboxEndSession {t : Nat} {s0 : State} (hl : [.regs, .clk, .stitch, .ctxs, .hsync, .bays, .panels, .cus, .mus, .host, .evt, .hbm, .sites, .twin, .sup] ⊆ l) :
    Runs l s0 (execMboxEndSession t s0) := by
  unfold execMboxEndSession
  refine Runs.next ?_
  have h := Kept.refl l s0
  with_reducible repeat' first
    | exact h
    | refine Kept.ite ?_ ?_
    | refine kept_mboxEnd (sub hl (by decide)) ?_
    | refine kept_masterTime (sub hl (by decide)) ?_
    | dsimp only

theorem kept_scrubDone (hl : [.mem, .errs, .host, .evt, .hbm] ⊆ l) (h : Kept l a s) :
    Kept l a (State.scrubDone s) := by
  unfold State.scrubDone
  repeat' first
    | with_reducible exact h
    | with_reducible refine Kept.ite ?_ ?_
    | with_reducible refine kept_modHbm (sub hl (by decide)) ?_
    | with_reducible refine kept_resetAnswer (sub hl (by decide)) ?_
    | with_reducible refine kept_raise (sub hl (by decide)) ?_
    | (intro k hk; cases k <;> first | exact absurd (hl (by decide)) hk | rfl | exact ⟨rfl, rfl⟩)
    | (simp only [kept_litm]; refine KeptUpd.intro_mem ?_ ?_ rfl ?_ ?_)
    | exact id
    | exact (memWf_memWrites _ _)
    | exact (memWf_filter _)
    | exact (memWf_memDrop _ _)
    | exact (fun _ => memWf_nil)
    | dsimp only

theorem runs_execSessionEndScrubDone {t : Nat} {s0 : State} (hl : [.mem, .errs, .clk, .host, .evt, .hbm] ⊆ l) :
    Runs l s0 (execSessionEndScrubDone t s0) := by
  unfold execSessionEndScrubDone
  refine Runs.next ?_
  have h := Kept.refl l s0
  with_reducible repeat' first
    | exact h
    | refine Kept.ite ?_ ?_
    | refine kept_scrubDone (sub hl (by decide)) ?_
    | refine kept_masterTime (sub hl (by decide)) ?_
    | dsimp only

theorem kept_setCap {w : Nat} (hl : [.sup] ⊆ l) (h : Kept l a s) :
    Kept l a (State.setCap s w).2 := by
  unfold State.setCap
  with_reducible repeat' first
    | exact h
    | refine Kept.ite ?_ ?_
    | refine kept_modSup (sub hl (by decide)) ?_
    | refine Kept.foldl ?_ ?_
    | split
    | intro _ _ _ _
    | intro _ _ _
    | intro _ _
    | intro _
    | dsimp only

theorem kept_mboxCap {w : Nat} (hl : [.regs, .host, .sup] ⊆ l) (h : Kept l a s) :
    Kept l a (State.mboxCap s w) := by
  unfold State.mboxCap
  with_reducible repeat' first
    | exact h
    | assumption
    | refine Kept.ite ?_ ?_
    | refine kept_mboxTake (sub hl (by decide)) ?_ ?_
    | refine kept_setCap (sub hl (by decide)) ?_
    | refine kept_mboxAnswer (sub hl (by decide)) ?_
    | refine Kept.foldl ?_ ?_
    | (split; rename_i e; have e0 := congrArg (fun p => p.1) e; have e1 := congrArg (fun p => p.2) e; dsimp only at e0 e1; subst e0; subst e1)
    | (split; rename_i e; have e0 := congrArg (fun p => p.2) e; dsimp only at e0; subst e0)
    | split
    | (refine Kept.of_snd (by assumption) ?_)
    | intro _ _ _ _
    | intro _ _ _
    | intro _ _
    | intro _
    | dsimp only

theorem runs_execMboxSetCap {t : Nat} {w : Nat} {s0 : State} (hl : [.regs, .clk, .host, .sup] ⊆ l) :
    Runs l s0 (execMboxSetCap t w s0) := by
  unfold execMboxSetCap
  refine Runs.next ?_
  have h := Kept.refl l s0
  with_reducible repeat' first
    | exact h
    | refine Kept.ite ?_ ?_
    | refine kept_mboxCap (sub hl (by decide)) ?_
    | refine kept_masterTime (sub hl (by decide)) ?_
    | dsimp only

theorem kept_mboxCompute {arg : Nat} (hl : [.regs, .host, .sites, .twin, .sup] ⊆ l) (h : Kept l a s) :
    Kept l a (State.mboxCompute s arg) := by
  unfold State.mboxCompute
  with_reducible repeat' first
    | exact h
    | assumption
    | refine Kept.ite ?_ ?_
    | refine kept_mboxTake (sub hl (by decide)) ?_ ?_
    | refine kept_mboxAnswer (sub hl (by decide)) ?_
    | refine kept_sendFatal (sub hl (by decide)) ?_
    | refine kept_modSup (sub hl (by decide)) ?_
    | refine Kept.foldl ?_ ?_
    | (split; rename_i e; have e0 := congrArg (fun p => p.1) e; have e1 := congrArg (fun p => p.2) e; dsimp only at e0 e1; subst e0; subst e1)
    | (split; rename_i e; have e0 := congrArg (fun p => p.2) e; dsimp only at e0; subst e0)
    | split
    | (refine Kept.of_snd (by assumption) ?_)
    | intro _ _ _ _
    | intro _ _ _
    | intro _ _
    | intro _
    | dsimp only

theorem runs_execMboxComputeReset {t : Nat} {arg : BitVec 32} {s0 : State} (hl : [.regs, .clk, .host, .sites, .twin, .sup] ⊆ l) :
    Runs l s0 (execMboxComputeReset t arg s0) := by
  unfold execMboxComputeReset
  refine Runs.next ?_
  have h := Kept.refl l s0
  with_reducible repeat' first
    | exact h
    | refine Kept.ite ?_ ?_
    | refine kept_mboxCompute (sub hl (by decide)) ?_
    | refine kept_masterTime (sub hl (by decide)) ?_
    | dsimp only

theorem kept_mboxBay {arg : Nat} (hl : [.regs, .host, .sup] ⊆ l) (h : Kept l a s) :
    Kept l a (State.mboxBay s arg) := by
  unfold State.mboxBay
  with_reducible repeat' first
    | exact h
    | assumption
    | refine Kept.ite ?_ ?_
    | refine kept_mboxTake (sub hl (by decide)) ?_ ?_
    | refine kept_mboxAnswer (sub hl (by decide)) ?_
    | refine kept_modSup (sub hl (by decide)) ?_
    | refine Kept.foldl ?_ ?_
    | (split; rename_i e; have e0 := congrArg (fun p => p.1) e; have e1 := congrArg (fun p => p.2) e; dsimp only at e0 e1; subst e0; subst e1)
    | (split; rename_i e; have e0 := congrArg (fun p => p.2) e; dsimp only at e0; subst e0)
    | split
    | (refine Kept.of_snd (by assumption) ?_)
    | intro _ _ _ _
    | intro _ _ _
    | intro _ _
    | intro _
    | dsimp only

theorem runs_execMboxBayReset {t : Nat} {arg : BitVec 32} {s0 : State} (hl : [.regs, .clk, .host, .sup] ⊆ l) :
    Runs l s0 (execMboxBayReset t arg s0) := by
  unfold execMboxBayReset
  refine Runs.next ?_
  have h := Kept.refl l s0
  with_reducible repeat' first
    | exact h
    | refine Kept.ite ?_ ?_
    | refine kept_mboxBay (sub hl (by decide)) ?_
    | refine kept_masterTime (sub hl (by decide)) ?_
    | dsimp only

theorem kept_setCause {cause : Nat} {b : Option Nat} (hl : [.regs] ⊆ l) (h : Kept l a s) :
    Kept l a (State.setCause s cause b) := by
  unfold State.setCause
  with_reducible repeat' first
    | exact h
    | refine Kept.ite ?_ ?_
    | refine kept_modReg (sub hl (by decide)) ?_
    | dsimp only

theorem kept_resetArbiters (hl : [.host, .evt, .claims] ⊆ l) (h : Kept l a s) :
    Kept l a (State.resetArbiters s) := by
  unfold State.resetArbiters
  repeat' first
    | with_reducible exact h
    | with_reducible refine Kept.ite ?_ ?_
    | (intro k hk; cases k <;> first | exact absurd (hl (by decide)) hk | rfl | exact ⟨rfl, rfl⟩)
    | (simp only [kept_lit]; refine KeptUpd.intro ?_ ?_ ⟨rfl, rfl, rfl⟩)
    | dsimp only

theorem kept_computeReset {arg : Nat} (hl : [.mem, .errs, .regs, .clk, .stitch, .ctxs, .hsync, .bays, .panels, .cus, .mus, .rtrs, .host, .evt, .claims, .hbm, .sites, .twin, .sup, .rel, .spdm] ⊆ l) (h : Kept l a s) :
    Kept l a (State.computeReset s arg) := by
  unfold State.computeReset
  repeat' first
    | with_reducible exact h
    | with_reducible assumption
    | with_reducible refine Kept.ite ?_ ?_
    | with_reducible refine kept_closeSession (sub hl (by decide)) ?_
    | with_reducible refine kept_endAllResidencies (sub hl (by decide)) ?_
    | with_reducible refine kept_resetArbiters (sub hl (by decide)) ?_
    | with_reducible refine kept_dropRegs (sub hl (by decide)) ?_
    | with_reducible refine kept_wipeBays (sub hl (by decide)) ?_
    | with_reducible refine kept_modRel (sub hl (by decide)) ?_
    | with_reducible refine kept_modHbm (sub hl (by decide)) ?_
    | with_reducible refine kept_modPanel (sub hl (by decide)) ?_
    | with_reducible refine kept_modSup (sub hl (by decide)) ?_
    | with_reducible refine kept_modSpdm (sub hl (by decide)) ?_
    | with_reducible refine kept_startScrub (sub hl (by decide)) ?_
    | with_reducible refine kept_resetAnswer (sub hl (by decide)) ?_
    | with_reducible refine kept_setCause (sub hl (by decide)) ?_
    | with_reducible refine Kept.foldl ?_ ?_
    | with_reducible refine Kept.foldl₂ ?_ ?_
    | with_reducible refine Kept.foldl₁ ?_ ?_
    | (split; rename_i e; have e0 := congrArg (fun p => p.1) e; have e1 := congrArg (fun p => p.2.1) e; have e2 := congrArg (fun p => p.2.2.1) e; have e3 := congrArg (fun p => p.2.2.2) e; dsimp only at e0 e1 e2 e3; subst e0; subst e1; subst e2; subst e3)
    | (split; rename_i e; have e0 := congrArg (fun p => p.1) e; have e1 := congrArg (fun p => p.2.1) e; have e2 := congrArg (fun p => p.2.2) e; dsimp only at e0 e1 e2; subst e0; subst e1; subst e2)
    | (split; rename_i e; have e0 := congrArg (fun p => p.1) e; have e1 := congrArg (fun p => p.2) e; dsimp only at e0 e1; subst e0; subst e1)
    | (split; rename_i e; have e0 := congrArg (fun p => p.2) e; dsimp only at e0; subst e0)
    | (split; rename_i e; have e0 := congrArg (fun p => p.1) e; dsimp only at e0; subst e0)
    | split
    | (refine Kept.of_snd (by assumption) ?_)
    | (intro k hk; cases k <;> first | exact absurd (hl (by decide)) hk | rfl | exact ⟨rfl, rfl⟩)
    | (simp only [kept_lit]; refine KeptUpd.intro ?_ ?_ ⟨rfl, rfl, rfl⟩)
    | intro _ _ _ _
    | intro _ _ _
    | intro _ _
    | intro _
    | dsimp only

theorem runs_execComputeReset {t : Nat} {s0 : State} (hl : [.mem, .errs, .regs, .clk, .stitch, .ctxs, .hsync, .bays, .panels, .cus, .mus, .rtrs, .host, .evt, .claims, .hbm, .sites, .twin, .sup, .rel, .spdm] ⊆ l) :
    Runs l s0 (execComputeReset t s0) := by
  unfold execComputeReset
  refine Runs.next ?_
  have h := Kept.refl l s0
  with_reducible repeat' first
    | exact h
    | refine Kept.ite ?_ ?_
    | refine kept_masterTime (sub hl (by decide)) ?_
    | refine kept_computeReset (sub hl (by decide)) ?_
    | refine Kept.foldl ?_ ?_
    | split
    | intro _ _ _ _
    | intro _ _ _
    | intro _ _
    | intro _
    | dsimp only

theorem kept_bayReset {b : Nat} (hl : [.mem, .errs, .regs, .stitch, .bays, .panels, .cus, .mus, .rtrs, .sup] ⊆ l) (h : Kept l a s) :
    Kept l a (State.bayReset s b) := by
  unfold State.bayReset
  repeat' first
    | with_reducible exact h
    | with_reducible refine Kept.ite ?_ ?_
    | with_reducible refine kept_modBay (sub hl (by decide)) ?_
    | with_reducible refine kept_wipeBay (sub hl (by decide)) ?_
    | with_reducible refine kept_modPanel (sub hl (by decide)) ?_
    | with_reducible refine kept_setCause (sub hl (by decide)) ?_
    | (intro k hk; cases k <;> first | exact absurd (hl (by decide)) hk | rfl | exact ⟨rfl, rfl⟩)
    | (simp only [kept_lit]; refine KeptUpd.intro ?_ ?_ ⟨rfl, rfl, rfl⟩)
    | dsimp only

theorem runs_execBayReset {t : Nat} {b : Nat} {s0 : State} (hl : [.mem, .errs, .regs, .clk, .stitch, .bays, .panels, .cus, .mus, .rtrs, .sup] ⊆ l) :
    Runs l s0 (execBayReset t b s0) := by
  unfold execBayReset
  refine Runs.next ?_
  have h := Kept.refl l s0
  with_reducible repeat' first
    | exact h
    | refine Kept.ite ?_ ?_
    | refine kept_masterTime (sub hl (by decide)) ?_
    | refine kept_bayReset (sub hl (by decide)) ?_
    | dsimp only

theorem kept_broadcastLoad (hl : [.free, .mem, .errs, .regs, .ctxs, .hsync, .bays, .panels, .cus, .mus, .host, .evt, .hbm, .twin, .rel, .fuses] ⊆ l) (h : Kept l a s) :
    Kept l a (State.broadcastLoad s) := by
  unfold State.broadcastLoad
  with_reducible repeat' first
    | exact h
    | assumption
    | refine Kept.ite ?_ ?_
    | refine kept_modPanel (sub hl (by decide)) ?_
    | refine kept_admitImage (sub hl (by decide)) ?_
    | refine kept_reloadBay (sub hl (by decide)) ?_
    | refine Kept.foldl ?_ ?_
    | refine Kept.foldl₂ ?_ ?_
    | refine Kept.foldl₁ ?_ ?_
    | (split; rename_i e; have e0 := congrArg (fun p => p.1) e; have e1 := congrArg (fun p => p.2.1) e; have e2 := congrArg (fun p => p.2.2.1) e; have e3 := congrArg (fun p => p.2.2.2) e; dsimp only at e0 e1 e2 e3; subst e0; subst e1; subst e2; subst e3)
    | (split; rename_i e; have e0 := congrArg (fun p => p.1) e; have e1 := congrArg (fun p => p.2.1) e; have e2 := congrArg (fun p => p.2.2) e; dsimp only at e0 e1 e2; subst e0; subst e1; subst e2)
    | (split; rename_i e; have e0 := congrArg (fun p => p.1) e; have e1 := congrArg (fun p => p.2) e; dsimp only at e0 e1; subst e0; subst e1)
    | (split; rename_i e; have e0 := congrArg (fun p => p.2) e; dsimp only at e0; subst e0)
    | (split; rename_i e; have e0 := congrArg (fun p => p.1) e; dsimp only at e0; subst e0)
    | split
    | (refine Kept.of_snd (by assumption) ?_)
    | intro _ _ _ _
    | intro _ _ _
    | intro _ _
    | intro _
    | dsimp only

theorem kept_bootAdvance (hl : [.free, .mem, .errs, .regs, .ctxs, .hsync, .bays, .panels, .cus, .mus, .host, .evt, .hbm, .twin, .sup, .rel, .fuses] ⊆ l) (h : Kept l a s) :
    Kept l a (State.bootAdvance s) := by
  unfold State.bootAdvance
  with_reducible repeat' first
    | exact h
    | refine Kept.ite ?_ ?_
    | refine kept_broadcastLoad (sub hl (by decide)) ?_
    | refine kept_takeFree (sub hl (by decide)) ?_
    | refine kept_modSup (sub hl (by decide)) ?_
    | dsimp only

theorem runs_execHbmTraining {t : Nat} {st : Nat} {restored : Bool} {failed : BitVec 64} {temp : Nat} {s0 : State} (hl : [.free, .mem, .errs, .regs, .clk, .ctxs, .hsync, .bays, .panels, .cus, .mus, .host, .evt, .hbm, .twin, .sup, .rel, .store, .fuses] ⊆ l) :
    Runs l s0 (execHbmTraining t st restored failed temp s0) := by
  unfold execHbmTraining
  have h := Kept.refl l s0
  with_reducible repeat' first
    | exact h
    | refine Runs.next ?_
    | assumption
    | refine Kept.ite ?_ ?_
    | refine kept_bootAdvance (sub hl (by decide)) ?_
    | refine kept_trainStack (sub hl (by decide)) ?_
    | refine kept_masterTime (sub hl (by decide)) ?_
    | refine Kept.foldl ?_ ?_
    | refine Kept.foldl₂ ?_ ?_
    | refine Kept.foldl₁ ?_ ?_
    | (split; rename_i e; have e0 := congrArg (fun p => p.1) e; have e1 := congrArg (fun p => p.2.1) e; have e2 := congrArg (fun p => p.2.2.1) e; have e3 := congrArg (fun p => p.2.2.2) e; dsimp only at e0 e1 e2 e3; subst e0; subst e1; subst e2; subst e3)
    | (split; rename_i e; have e0 := congrArg (fun p => p.1) e; have e1 := congrArg (fun p => p.2.1) e; have e2 := congrArg (fun p => p.2.2) e; dsimp only at e0 e1 e2; subst e0; subst e1; subst e2)
    | (split; rename_i e; have e0 := congrArg (fun p => p.1) e; have e1 := congrArg (fun p => p.2) e; dsimp only at e0 e1; subst e0; subst e1)
    | (split; rename_i e; have e0 := congrArg (fun p => p.2) e; dsimp only at e0; subst e0)
    | (split; rename_i e; have e0 := congrArg (fun p => p.1) e; dsimp only at e0; subst e0)
    | split
    | (refine Kept.of_snd (by assumption) ?_)
    | intro _ _ _ _
    | intro _ _ _
    | intro _ _
    | intro _
    | dsimp only

theorem runs_execBayCoreRailUp {t : Nat} {p : Nat} {tests : List (Nat × Nat × Bool)} {s0 : State} (hl : [.free, .mem, .errs, .regs, .clk, .stitch, .ctxs, .hsync, .bays, .panels, .cus, .mus, .host, .evt, .hbm, .sites, .twin, .sup, .rel, .fuses] ⊆ l) :
    Runs l s0 (execBayCoreRailUp t p tests s0) := by
  unfold execBayCoreRailUp
  have h := Kept.refl l s0
  with_reducible repeat' first
    | exact h
    | refine Runs.next ?_
    | assumption
    | refine Kept.ite ?_ ?_
    | refine kept_bootAdvance (sub hl (by decide)) ?_
    | refine kept_railsUp (sub hl (by decide)) ?_
    | refine kept_masterTime (sub hl (by decide)) ?_
    | refine Kept.foldl ?_ ?_
    | refine Kept.foldl₂ ?_ ?_
    | refine Kept.foldl₁ ?_ ?_
    | (split; rename_i e; have e0 := congrArg (fun p => p.1) e; have e1 := congrArg (fun p => p.2.1) e; have e2 := congrArg (fun p => p.2.2.1) e; have e3 := congrArg (fun p => p.2.2.2) e; dsimp only at e0 e1 e2 e3; subst e0; subst e1; subst e2; subst e3)
    | (split; rename_i e; have e0 := congrArg (fun p => p.1) e; have e1 := congrArg (fun p => p.2.1) e; have e2 := congrArg (fun p => p.2.2) e; dsimp only at e0 e1 e2; subst e0; subst e1; subst e2)
    | (split; rename_i e; have e0 := congrArg (fun p => p.1) e; have e1 := congrArg (fun p => p.2) e; dsimp only at e0 e1; subst e0; subst e1)
    | (split; rename_i e; have e0 := congrArg (fun p => p.2) e; dsimp only at e0; subst e0)
    | (split; rename_i e; have e0 := congrArg (fun p => p.1) e; dsimp only at e0; subst e0)
    | split
    | (refine Kept.of_snd (by assumption) ?_)
    | intro _ _ _ _
    | intro _ _ _
    | intro _ _
    | intro _
    | dsimp only

theorem runs_execBist {t : Nat} {b : Nat} {bad : List (Nat × Nat)} {s0 : State} (hl : [.free, .mem, .errs, .regs, .clk, .stitch, .ctxs, .hsync, .bays, .panels, .cus, .mus, .host, .evt, .hbm, .sites, .twin, .sup, .rel, .store, .fuses] ⊆ l) :
    Runs l s0 (execBist t b bad s0) := by
  unfold execBist
  have h := Kept.refl l s0
  with_reducible repeat' first
    | exact h
    | refine Runs.next ?_
    | assumption
    | refine Kept.ite ?_ ?_
    | refine kept_bootAdvance (sub hl (by decide)) ?_
    | refine kept_bistDone (sub hl (by decide)) ?_
    | refine kept_masterTime (sub hl (by decide)) ?_
    | refine Kept.foldl ?_ ?_
    | refine Kept.foldl₂ ?_ ?_
    | refine Kept.foldl₁ ?_ ?_
    | (split; rename_i e; have e0 := congrArg (fun p => p.1) e; have e1 := congrArg (fun p => p.2.1) e; have e2 := congrArg (fun p => p.2.2.1) e; have e3 := congrArg (fun p => p.2.2.2) e; dsimp only at e0 e1 e2 e3; subst e0; subst e1; subst e2; subst e3)
    | (split; rename_i e; have e0 := congrArg (fun p => p.1) e; have e1 := congrArg (fun p => p.2.1) e; have e2 := congrArg (fun p => p.2.2) e; dsimp only at e0 e1 e2; subst e0; subst e1; subst e2)
    | (split; rename_i e; have e0 := congrArg (fun p => p.1) e; have e1 := congrArg (fun p => p.2) e; dsimp only at e0 e1; subst e0; subst e1)
    | (split; rename_i e; have e0 := congrArg (fun p => p.2) e; dsimp only at e0; subst e0)
    | (split; rename_i e; have e0 := congrArg (fun p => p.1) e; dsimp only at e0; subst e0)
    | split
    | (refine Kept.of_snd (by assumption) ?_)
    | intro _ _ _ _
    | intro _ _ _
    | intro _ _
    | intro _
    | dsimp only

theorem kept_finishBoot {ms : Nat} (hl : [.free, .mem, .errs, .regs, .clk, .stitch, .ctxs, .hsync, .bays, .panels, .cus, .mus, .host, .evt, .hbm, .sites, .twin, .sup, .rel, .fuses, .spdm] ⊆ l) (h : Kept l a s) :
    Kept l a (State.finishBoot s ms) := by
  unfold State.finishBoot
  with_reducible repeat' first
    | exact h
    | assumption
    | refine Kept.ite ?_ ?_
    | refine kept_setReg (sub hl (by decide)) ?_
    | refine kept_bootAdvance (sub hl (by decide)) ?_
    | refine kept_announce (sub hl (by decide)) ?_
    | refine kept_modSup (sub hl (by decide)) ?_
    | refine kept_advanceSvn (sub hl (by decide)) ?_
    | refine kept_startSession (sub hl (by decide)) ?_
    | refine Kept.foldl ?_ ?_
    | refine Kept.foldl₂ ?_ ?_
    | refine Kept.foldl₁ ?_ ?_
    | (split; rename_i e; have e0 := congrArg (fun p => p.1) e; have e1 := congrArg (fun p => p.2.1) e; have e2 := congrArg (fun p => p.2.2.1) e; have e3 := congrArg (fun p => p.2.2.2) e; dsimp only at e0 e1 e2 e3; subst e0; subst e1; subst e2; subst e3)
    | (split; rename_i e; have e0 := congrArg (fun p => p.1) e; have e1 := congrArg (fun p => p.2.1) e; have e2 := congrArg (fun p => p.2.2) e; dsimp only at e0 e1 e2; subst e0; subst e1; subst e2)
    | (split; rename_i e; have e0 := congrArg (fun p => p.1) e; have e1 := congrArg (fun p => p.2) e; dsimp only at e0 e1; subst e0; subst e1)
    | (split; rename_i e; have e0 := congrArg (fun p => p.2) e; dsimp only at e0; subst e0)
    | (split; rename_i e; have e0 := congrArg (fun p => p.1) e; dsimp only at e0; subst e0)
    | split
    | (refine Kept.of_snd (by assumption) ?_)
    | intro _ _ _ _
    | intro _ _ _
    | intro _ _
    | intro _
    | dsimp only

theorem runs_execInventoryReady {t : Nat} {ms : Nat} {s0 : State} (hl : [.free, .mem, .errs, .regs, .clk, .stitch, .ctxs, .hsync, .bays, .panels, .cus, .mus, .host, .evt, .hbm, .sites, .twin, .sup, .rel, .fuses, .spdm] ⊆ l) :
    Runs l s0 (execInventoryReady t ms s0) := by
  unfold execInventoryReady
  refine Runs.next ?_
  have h := Kept.refl l s0
  with_reducible repeat' first
    | exact h
    | refine Kept.ite ?_ ?_
    | refine kept_finishBoot (sub hl (by decide)) ?_
    | refine kept_masterTime (sub hl (by decide)) ?_
    | dsimp only

end Sys2Proof.Machine
end

