-- ==== Sys2Proof/Laws/KeptOptical.lean ====
section
/-! SUPPORT. What each operation of Machine/Optical.lean may touch, and that it keeps the queue and the invariant. -/

namespace Sys2Proof.Machine

variable {l : List Comp} {a s : State}

theorem kept_dropCheckpoint (hl : [.mus, .hbm, .sites, .twin] ⊆ l) (h : Kept l a s) :
    Kept l a (State.dropCheckpoint s) := by
  unfold State.dropCheckpoint
  with_reducible repeat' first
    | exact h
    | assumption
    | refine Kept.ite ?_ ?_
    | refine kept_standbyTells (sub hl (by decide)) ?_
    | refine kept_modTwin (sub hl (by decide)) ?_
    | refine kept_dropWritten (sub hl (by decide)) ?_
    | refine Kept.foldl ?_ ?_
    | refine Kept.foldl₂ ?_ ?_
    | refine Kept.foldl₁ ?_ ?_
    | (split; rename_i e; have e0 := congrArg (fun p => p.1) e; have e1 := congrArg (fun p => p.2.1) e; have e2 := congrArg (fun p => p.2.2.1) e; have e3 := congrArg (fun p => p.2.2.2) e; dsimp only at e0 e1 e2 e3; subst e0; subst e1; subst e2; subst e3)
    | (split; rename_i e; have e0 := congrArg (fun p => p.1) e; have e1 := congrArg (fun p => p.2.1) e; have e2 := congrArg (fun p => p.2.2) e; dsimp only at e0 e1 e2; subst e0; subst e1; subst e2)
    | (split; rename_i e; have e0 := congrArg (fun p => p.1) e; have e1 := congrArg (fun p => p.2) e; dsimp only at e0 e1; subst e0; subst e1)
    | (split; rename_i e; have e0 := congrArg (fun p => p.2) e; dsimp only at e0; subst e0)
    | (split; rename_i e; have e0 := congrArg (fun p => p.1) e; dsimp only at e0; subst e0)
    | split
    | (refine Kept.of_snd (by assumption) ?_)
    | intro _ _ _ _
    | intro _ _ _
    | intro _ _
    | intro _
    | dsimp only

theorem kept_takeover (hl : [.stitch, .mus, .evt, .hbm, .sites, .twin] ⊆ l) (h : Kept l a s) :
    Kept l a (State.takeover s) := by
  unfold State.takeover
  with_reducible repeat' first
    | exact h
    | refine Kept.ite ?_ ?_
    | refine kept_dropCheckpoint (sub hl (by decide)) ?_
    | refine kept_modTwin (sub hl (by decide)) ?_
    | refine kept_modStitch (sub hl (by decide)) ?_
    | refine kept_raise (sub hl (by decide)) ?_
    | dsimp only

theorem runs_execTwinTakeover {t : Nat} {s0 : State} (hl : [.clk, .stitch, .mus, .evt, .hbm, .sites, .twin] ⊆ l) :
    Runs l s0 (execTwinTakeover t s0) := by
  unfold execTwinTakeover
  refine Runs.next ?_
  have h := Kept.refl l s0
  with_reducible repeat' first
    | exact h
    | refine Kept.ite ?_ ?_
    | refine kept_takeover (sub hl (by decide)) ?_
    | refine kept_masterTime (sub hl (by decide)) ?_
    | dsimp only

theorem runs_execTwinFatalIn {t : Nat} {s0 : State} (hl : [.clk, .stitch, .mus, .evt, .hbm, .sites, .twin] ⊆ l) :
    Runs l s0 (execTwinFatalIn t s0) := by
  unfold execTwinFatalIn
  refine Runs.next ?_
  have h := Kept.refl l s0
  with_reducible repeat' first
    | exact h
    | refine Kept.ite ?_ ?_
    | refine kept_takeover (sub hl (by decide)) ?_
    | refine kept_masterTime (sub hl (by decide)) ?_
    | dsimp only

theorem kept_heartbeatOut (hl : [.sites, .twin] ⊆ l) (h : Kept l a s) :
    Kept l a (State.heartbeatOut s) := by
  unfold State.heartbeatOut
  with_reducible repeat' first
    | exact h
    | refine Kept.ite ?_ ?_
    | refine kept_queueFlit (sub hl (by decide)) ?_
    | refine kept_modTwin (sub hl (by decide)) ?_
    | dsimp only

theorem runs_execHeartbeatSend {t : Nat} {s0 : State} (hl : [.clk, .sites, .twin] ⊆ l) :
    Runs l s0 (execHeartbeatSend t s0) := by
  unfold execHeartbeatSend
  refine Runs.next ?_
  have h := Kept.refl l s0
  with_reducible repeat' first
    | exact h
    | refine Kept.ite ?_ ?_
    | refine kept_heartbeatOut (sub hl (by decide)) ?_
    | refine kept_masterTime (sub hl (by decide)) ?_
    | dsimp only

theorem kept_fence (hl : [.ctxs, .mus, .evt, .hbm, .twin] ⊆ l) (h : Kept l a s) :
    Kept l a (State.fence s) := by
  unfold State.fence
  with_reducible repeat' first
    | exact h
    | refine Kept.ite ?_ ?_
    | refine kept_modTwin (sub hl (by decide)) ?_
    | refine kept_clearDirty (sub hl (by decide)) ?_
    | refine kept_haltAll (sub hl (by decide)) ?_
    | refine kept_raise (sub hl (by decide)) ?_
    | dsimp only

theorem kept_heartbeatCheck {linePulse : Bool} (hl : [.regs, .stitch, .ctxs, .mus, .evt, .hbm, .sites, .twin] ⊆ l) (h : Kept l a s) :
    Kept l a (State.heartbeatCheck s linePulse) := by
  unfold State.heartbeatCheck
  with_reducible repeat' first
    | exact h
    | refine Kept.ite ?_ ?_
    | refine kept_modTwin (sub hl (by decide)) ?_
    | refine kept_count (sub hl (by decide)) ?_
    | refine kept_raise (sub hl (by decide)) ?_
    | refine kept_takeover (sub hl (by decide)) ?_
    | refine kept_fence (sub hl (by decide)) ?_
    | dsimp only

theorem runs_execHeartbeatInterval {t : Nat} {linePulse : Bool} {s0 : State} (hl : [.regs, .clk, .stitch, .ctxs, .mus, .evt, .hbm, .sites, .twin] ⊆ l) :
    Runs l s0 (execHeartbeatInterval t linePulse s0) := by
  unfold execHeartbeatInterval
  refine Runs.next ?_
  have h := Kept.refl l s0
  with_reducible repeat' first
    | exact h
    | refine Kept.ite ?_ ?_
    | refine kept_heartbeatCheck (sub hl (by decide)) ?_
    | refine kept_masterTime (sub hl (by decide)) ?_
    | dsimp only

theorem kept_frozenCopy {x0 : Nat} (hl : [.free, .mem, .errs, .regs, .bays, .evt, .hbm, .rel] ⊆ l) (h : Kept l a s) :
    Kept l a (State.frozenCopy s x0).2 := by
  unfold State.frozenCopy
  with_reducible repeat' first
    | exact h
    | refine Kept.ite ?_ ?_
    | refine kept_hbmReadWords (sub hl (by decide)) ?_
    | refine kept_readMu (sub hl (by decide)) ?_
    | refine Kept.foldl ?_ ?_
    | split
    | intro _ _ _ _
    | intro _ _ _
    | intro _ _
    | intro _
    | dsimp only

theorem kept_captureWritten {x0 : Nat} (hl : [.free, .mem, .errs, .regs, .bays, .evt, .hbm, .twin, .rel] ⊆ l) (h : Kept l a s) :
    Kept l a (State.captureWritten s x0) := by
  unfold State.captureWritten
  with_reducible repeat' first
    | exact h
    | refine Kept.ite ?_ ?_
    | refine kept_capture (sub hl (by decide)) ?_
    | refine kept_frozenCopy (sub hl (by decide)) ?_
    | dsimp only

theorem kept_firstCheckpoint (hl : [.free, .mem, .errs, .regs, .bays, .mus, .evt, .hbm, .twin, .rel] ⊆ l) (h : Kept l a s) :
    Kept l a (State.firstCheckpoint s) := by
  unfold State.firstCheckpoint
  with_reducible repeat' first
    | exact h
    | assumption
    | refine Kept.ite ?_ ?_
    | refine kept_openCheckpoint (sub hl (by decide)) ?_
    | refine kept_captureWritten (sub hl (by decide)) ?_
    | refine Kept.foldl ?_ ?_
    | (split; rename_i e; have e0 := congrArg (fun p => p.1) e; have e1 := congrArg (fun p => p.2) e; dsimp only at e0 e1; subst e0; subst e1)
    | (split; rename_i e; have e0 := congrArg (fun p => p.2) e; dsimp only at e0; subst e0)
    | split
    | (refine Kept.of_snd (by assumption) ?_)
    | intro _ _ _ _
    | intro _ _ _
    | intro _ _
    | intro _
    | dsimp only

theorem kept_twinAttach {primary : Bool} {peer : List (BitVec 384)} {mx : Nat} {mn : Nat} {caps : Nat} (hl : [.free, .mem, .errs, .regs, .bays, .mus, .evt, .hbm, .twin, .rel] ⊆ l) (h : Kept l a s) :
    Kept l a (State.twinAttach s primary peer mx mn caps).2 := by
  unfold State.twinAttach
  with_reducible repeat' first
    | exact h
    | assumption
    | refine Kept.ite ?_ ?_
    | refine kept_setReg (sub hl (by decide)) ?_
    | refine kept_mismatch (sub hl (by decide)) ?_
    | refine kept_modTwin (sub hl (by decide)) ?_
    | refine kept_firstCheckpoint (sub hl (by decide)) ?_
    | refine Kept.foldl ?_ ?_
    | refine Kept.foldl₂ ?_ ?_
    | refine Kept.foldl₁ ?_ ?_
    | (split; rename_i e; have e0 := congrArg (fun p => p.1) e; have e1 := congrArg (fun p => p.2.1) e; have e2 := congrArg (fun p => p.2.2.1) e; have e3 := congrArg (fun p => p.2.2.2) e; dsimp only at e0 e1 e2 e3; subst e0; subst e1; subst e2; subst e3)
    | (split; rename_i e; have e0 := congrArg (fun p => p.1) e; have e1 := congrArg (fun p => p.2.1) e; have e2 := congrArg (fun p => p.2.2) e; dsimp only at e0 e1 e2; subst e0; subst e1; subst e2)
    | (split; rename_i e; have e0 := congrArg (fun p => p.1) e; have e1 := congrArg (fun p => p.2) e; dsimp only at e0 e1; subst e0; subst e1)
    | (split; rename_i e; have e0 := congrArg (fun p => p.2) e; dsimp only at e0; subst e0)
    | (split; rename_i e; have e0 := congrArg (fun p => p.1) e; dsimp only at e0; subst e0)
    | split
    | (refine Kept.of_snd (by assumption) ?_)
    | intro _ _ _ _
    | intro _ _ _
    | intro _ _
    | intro _
    | dsimp only

theorem kept_mboxAttach {primary : Bool} {peer : List (BitVec 384)} {mx : Nat} {mn : Nat} {caps : Nat} (hl : [.free, .mem, .errs, .regs, .bays, .mus, .host, .evt, .hbm, .twin, .rel] ⊆ l) (h : Kept l a s) :
    Kept l a (State.mboxAttach s primary peer mx mn caps) := by
  unfold State.mboxAttach
  with_reducible repeat' first
    | exact h
    | assumption
    | refine Kept.ite ?_ ?_
    | refine kept_mboxTake (sub hl (by decide)) ?_ ?_
    | refine kept_twinAttach (sub hl (by decide)) ?_
    | refine kept_mboxAnswer (sub hl (by decide)) ?_
    | refine Kept.foldl ?_ ?_
    | (split; rename_i e; have e0 := congrArg (fun p => p.1) e; have e1 := congrArg (fun p => p.2) e; dsimp only at e0 e1; subst e0; subst e1)
    | (split; rename_i e; have e0 := congrArg (fun p => p.2) e; dsimp only at e0; subst e0)
    | split
    | (refine Kept.of_snd (by assumption) ?_)
    | intro _ _ _ _
    | intro _ _ _
    | intro _ _
    | intro _
    | dsimp only

theorem runs_execMboxTwinAttach {t : Nat} {primary : Bool} {peer : List (BitVec 384)} {maxMajor : Nat} {minMajor : Nat} {caps : BitVec 32} {s0 : State} (hl : [.free, .mem, .errs, .regs, .clk, .bays, .mus, .host, .evt, .hbm, .twin, .rel] ⊆ l) :
    Runs l s0 (execMboxTwinAttach t primary peer maxMajor minMajor caps s0) := by
  unfold execMboxTwinAttach
  refine Runs.next ?_
  have h := Kept.refl l s0
  with_reducible repeat' first
    | exact h
    | refine Kept.ite ?_ ?_
    | refine kept_mboxAttach (sub hl (by decide)) ?_
    | refine kept_masterTime (sub hl (by decide)) ?_
    | dsimp only

theorem kept_mboxDetach (hl : [.regs, .mus, .host, .evt, .hbm, .twin] ⊆ l) (h : Kept l a s) :
    Kept l a (State.mboxDetach s) := by
  unfold State.mboxDetach
  with_reducible repeat' first
    | exact h
    | assumption
    | refine Kept.ite ?_ ?_
    | refine kept_mboxTake (sub hl (by decide)) ?_ ?_
    | refine kept_mboxAnswer (sub hl (by decide)) ?_
    | refine kept_modTwin (sub hl (by decide)) ?_
    | refine kept_unpair (sub hl (by decide)) ?_
    | refine Kept.foldl ?_ ?_
    | (split; rename_i e; have e0 := congrArg (fun p => p.1) e; have e1 := congrArg (fun p => p.2) e; dsimp only at e0 e1; subst e0; subst e1)
    | (split; rename_i e; have e0 := congrArg (fun p => p.2) e; dsimp only at e0; subst e0)
    | split
    | (refine Kept.of_snd (by assumption) ?_)
    | intro _ _ _ _
    | intro _ _ _
    | intro _ _
    | intro _
    | dsimp only

theorem runs_execMboxTwinDetach {t : Nat} {s0 : State} (hl : [.regs, .clk, .mus, .host, .evt, .hbm, .twin] ⊆ l) :
    Runs l s0 (execMboxTwinDetach t s0) := by
  unfold execMboxTwinDetach
  refine Runs.next ?_
  have h := Kept.refl l s0
  with_reducible repeat' first
    | exact h
    | refine Kept.ite ?_ ?_
    | refine kept_mboxDetach (sub hl (by decide)) ?_
    | refine kept_masterTime (sub hl (by decide)) ?_
    | dsimp only

theorem kept_twinData {x0 : Nat} {ws : List Word} (hl : [.sites, .twin] ⊆ l) (h : Kept l a s) :
    Kept l a (State.twinData s x0 ws) := by
  unfold State.twinData
  with_reducible repeat' first
    | exact h
    | refine Kept.ite ?_ ?_
    | refine kept_modTwin (sub hl (by decide)) ?_
    | refine kept_queueFlit (sub hl (by decide)) ?_
    | dsimp only

theorem kept_twinItem {x0 : Nat} {ws : List Word} (hl : [.sites, .twin] ⊆ l) (h : Kept l a s) :
    Kept l a (State.twinItem s x0 ws) := by
  unfold State.twinItem
  with_reducible repeat' first
    | exact h
    | refine Kept.ite ?_ ?_
    | refine kept_twinData (sub hl (by decide)) ?_
    | dsimp only

theorem kept_twinMark {site : Nat} {kind : Nat} {seq : Nat} {flits : Nat} (hl : [.sites] ⊆ l) (h : Kept l a s) :
    Kept l a (State.twinMark s site kind seq flits) := by
  unfold State.twinMark
  with_reducible repeat' first
    | exact h
    | refine Kept.ite ?_ ?_
    | refine kept_queueFlit (sub hl (by decide)) ?_
    | dsimp only

theorem kept_streamStep (hl : [.free, .mem, .errs, .regs, .bays, .mus, .evt, .hbm, .sites, .twin, .rel] ⊆ l) (h : Kept l a s) :
    Kept l a (State.streamStep s) := by
  unfold State.streamStep
  with_reducible repeat' first
    | exact h
    | refine Kept.ite ?_ ?_
    | refine kept_twinMark (sub hl (by decide)) ?_
    | refine kept_modTwin (sub hl (by decide)) ?_
    | refine kept_twinItem (sub hl (by decide)) ?_
    | refine kept_frozenCopy (sub hl (by decide)) ?_
    | refine kept_setReg (sub hl (by decide)) ?_
    | refine kept_unpair (sub hl (by decide)) ?_
    | refine Kept.foldl ?_ ?_
    | split
    | intro _ _ _ _
    | intro _ _ _
    | intro _ _
    | intro _
    | dsimp only

theorem kept_twinStore {t : Nat} {x0 : Nat} {ws : List Word} (hl : [.free, .mem, .errs, .regs, .ctxs, .bays, .mus, .evt, .hbm, .twin, .rel] ⊆ l) (h : Kept l a s) :
    Kept l a (State.twinStore s t x0 ws) := by
  unfold State.twinStore
  with_reducible repeat' first
    | exact h
    | assumption
    | refine Kept.ite ?_ ?_
    | refine kept_modTwin (sub hl (by decide)) ?_
    | refine kept_hbmPuts (sub hl (by decide)) ?_
    | refine kept_hbmBytes (sub hl (by decide)) ?_
    | refine kept_hbmTouch (sub hl (by decide)) ?_
    | refine kept_writeMany (sub hl (by decide)) ?_ ?_
    | refine kept_writeMu (sub hl (by decide)) ?_
    | refine Kept.foldl ?_ ?_
    | (split; rename_i e; have e0 := congrArg (fun p => p.1) e; have e1 := congrArg (fun p => p.2) e; dsimp only at e0 e1; subst e0; subst e1)
    | (split; rename_i e; have e0 := congrArg (fun p => p.2) e; dsimp only at e0; subst e0)
    | split
    | (refine Kept.of_snd (by assumption) ?_)
    | intro _ _ _ _
    | intro _ _ _
    | intro _ _
    | intro _
    | dsimp only

theorem kept_primaryTold {kind : Nat} {c : Nat} (hl : [.evt, .twin] ⊆ l) (h : Kept l a s) :
    Kept l a (State.primaryTold s kind c) := by
  unfold State.primaryTold
  with_reducible repeat' first
    | exact h
    | refine Kept.ite ?_ ?_
    | refine kept_raise (sub hl (by decide)) ?_
    | refine kept_modTwin (sub hl (by decide)) ?_
    | dsimp only

theorem kept_twinMarked {t : Nat} {kind : Nat} {ws : List Word} (hl : [.mus, .evt, .hbm, .sites, .twin] ⊆ l) (h : Kept l a s) :
    Kept l a (State.twinMarked s t kind ws) := by
  unfold State.twinMarked
  with_reducible repeat' first
    | exact h
    | assumption
    | refine Kept.ite ?_ ?_
    | refine kept_primaryTold (sub hl (by decide)) ?_
    | refine kept_modTwin (sub hl (by decide)) ?_
    | refine kept_dropCheckpoint (sub hl (by decide)) ?_
    | refine Kept.foldl ?_ ?_
    | refine Kept.foldl₂ ?_ ?_
    | refine Kept.foldl₁ ?_ ?_
    | (split; rename_i e; have e0 := congrArg (fun p => p.1) e; have e1 := congrArg (fun p => p.2.1) e; have e2 := congrArg (fun p => p.2.2.1) e; have e3 := congrArg (fun p => p.2.2.2) e; dsimp only at e0 e1 e2 e3; subst e0; subst e1; subst e2; subst e3)
    | (split; rename_i e; have e0 := congrArg (fun p => p.1) e; have e1 := congrArg (fun p => p.2.1) e; have e2 := congrArg (fun p => p.2.2) e; dsimp only at e0 e1 e2; subst e0; subst e1; subst e2)
    | (split; rename_i e; have e0 := congrArg (fun p => p.1) e; have e1 := congrArg (fun p => p.2) e; dsimp only at e0 e1; subst e0; subst e1)
    | (split; rename_i e; have e0 := congrArg (fun p => p.2) e; dsimp only at e0; subst e0)
    | (split; rename_i e; have e0 := congrArg (fun p => p.1) e; dsimp only at e0; subst e0)
    | split
    | (refine Kept.of_snd (by assumption) ?_)
    | intro _ _ _ _
    | intro _ _ _
    | intro _ _
    | intro _
    | dsimp only

theorem kept_exportSent {t : Nat} {e : Export} (hl : [.bays, .rtrs, .evt, .sites] ⊆ l) (h : Kept l a s) :
    Kept l a (State.exportSent s t e) := by
  unfold State.exportSent
  with_reducible repeat' first
    | exact h
    | assumption
    | refine Kept.ite ?_ ?_
    | refine kept_modSite (sub hl (by decide)) ?_
    | refine kept_exportsAsk (sub hl (by decide)) ?_
    | refine kept_modExport (sub hl (by decide)) ?_
    | refine Kept.foldl ?_ ?_
    | refine Kept.foldl₂ ?_ ?_
    | refine Kept.foldl₁ ?_ ?_
    | (split; rename_i e; have e0 := congrArg (fun p => p.1) e; have e1 := congrArg (fun p => p.2.1) e; have e2 := congrArg (fun p => p.2.2.1) e; have e3 := congrArg (fun p => p.2.2.2) e; dsimp only at e0 e1 e2 e3; subst e0; subst e1; subst e2; subst e3)
    | (split; rename_i e; have e0 := congrArg (fun p => p.1) e; have e1 := congrArg (fun p => p.2.1) e; have e2 := congrArg (fun p => p.2.2) e; dsimp only at e0 e1 e2; subst e0; subst e1; subst e2)
    | (split; rename_i e; have e0 := congrArg (fun p => p.1) e; have e1 := congrArg (fun p => p.2) e; dsimp only at e0 e1; subst e0; subst e1)
    | (split; rename_i e; have e0 := congrArg (fun p => p.2) e; dsimp only at e0; subst e0)
    | (split; rename_i e; have e0 := congrArg (fun p => p.1) e; dsimp only at e0; subst e0)
    | split
    | (refine Kept.of_snd (by assumption) ?_)
    | intro _ _ _ _
    | intro _ _ _
    | intro _ _
    | intro _
    | dsimp only

theorem kept_nextFlit {t : Nat} (hl : [.bays, .rtrs, .evt, .sites] ⊆ l) (h : Kept l a s) :
    Kept l a (State.nextFlit s t).2 := by
  unfold State.nextFlit
  with_reducible repeat' first
    | exact h
    | assumption
    | refine Kept.ite ?_ ?_
    | refine kept_modSite (sub hl (by decide)) ?_
    | refine kept_exportSent (sub hl (by decide)) ?_
    | refine Kept.foldl ?_ ?_
    | (split; rename_i e; have e0 := congrArg (fun p => p.1) e; have e1 := congrArg (fun p => p.2) e; dsimp only at e0 e1; subst e0; subst e1)
    | (split; rename_i e; have e0 := congrArg (fun p => p.2) e; dsimp only at e0; subst e0)
    | split
    | (refine Kept.of_snd (by assumption) ?_)
    | intro _ _ _ _
    | intro _ _ _
    | intro _ _
    | intro _
    | dsimp only

theorem kept_flitSend {t : Nat} (hl : [.regs, .bays, .rtrs, .evt, .sites] ⊆ l) (h : Kept l a s) :
    Kept l a (State.flitSend s t) := by
  unfold State.flitSend
  with_reducible repeat' first
    | exact h
    | assumption
    | refine Kept.ite ?_ ?_
    | refine kept_count (sub hl (by decide)) ?_
    | refine kept_modSite (sub hl (by decide)) ?_
    | refine kept_nextFlit (sub hl (by decide)) ?_
    | refine Kept.foldl ?_ ?_
    | (split; rename_i e; have e0 := congrArg (fun p => p.1) e; have e1 := congrArg (fun p => p.2) e; dsimp only at e0 e1; subst e0; subst e1)
    | (split; rename_i e; have e0 := congrArg (fun p => p.2) e; dsimp only at e0; subst e0)
    | split
    | (refine Kept.of_snd (by assumption) ?_)
    | intro _ _ _ _
    | intro _ _ _
    | intro _ _
    | intro _
    | dsimp only

theorem runs_execCasrikFlitSend {t : Nat} {site : Nat} {s0 : State} (hl : [.regs, .clk, .bays, .rtrs, .evt, .sites] ⊆ l) :
    Runs l s0 (execCasrikFlitSend t site s0) := by
  unfold execCasrikFlitSend
  refine Runs.next ?_
  have h := Kept.refl l s0
  with_reducible repeat' first
    | exact h
    | refine Kept.ite ?_ ?_
    | refine kept_flitSend (sub hl (by decide)) ?_
    | refine kept_masterTime (sub hl (by decide)) ?_
    | dsimp only

theorem kept_peerIdentity {t : Nat} {serial : Reg} {index : Nat} {site : Nat} (hl : [.regs] ⊆ l) (h : Kept l a s) :
    Kept l a (State.peerIdentity s t serial index site) := by
  unfold State.peerIdentity
  with_reducible repeat' first
    | exact h
    | refine Kept.ite ?_ ?_
    | refine kept_setReg (sub hl (by decide)) ?_
    | dsimp only

theorem kept_peerOffer {t : Nat} {mx : Nat} {mn : Nat} {caps : Nat} (hl : [.regs] ⊆ l) (h : Kept l a s) :
    Kept l a (State.peerOffer s t mx mn caps) := by
  unfold State.peerOffer
  with_reducible repeat' first
    | exact h
    | refine Kept.ite ?_ ?_
    | refine kept_setReg (sub hl (by decide)) ?_
    | dsimp only

theorem kept_deliver {t : Nat} {f : CasrikFlit} (hl : [.free, .mem, .errs, .regs, .stitch, .ctxs, .bays, .mus, .rtrs, .evt, .hbm, .sites, .twin, .rel] ⊆ l) (h : Kept l a s) :
    Kept l a (State.deliver s t f) := by
  unfold State.deliver
  with_reducible repeat' first
    | exact h
    | assumption
    | refine Kept.ite ?_ ?_
    | refine kept_peerIdentity (sub hl (by decide)) ?_
    | refine kept_peerOffer (sub hl (by decide)) ?_
    | refine kept_modSite (sub hl (by decide)) ?_
    | refine kept_modTwin (sub hl (by decide)) ?_
    | refine kept_takeover (sub hl (by decide)) ?_
    | refine kept_tokenArrive (sub hl (by decide)) ?_
    | refine kept_importWords (sub hl (by decide)) ?_
    | refine kept_twinStore (sub hl (by decide)) ?_
    | refine kept_twinMarked (sub hl (by decide)) ?_
    | refine Kept.foldl ?_ ?_
    | (split; rename_i e; have e0 := congrArg (fun p => p.1) e; have e1 := congrArg (fun p => p.2) e; dsimp only at e0 e1; subst e0; subst e1)
    | (split; rename_i e; have e0 := congrArg (fun p => p.2) e; dsimp only at e0; subst e0)
    | split
    | (refine Kept.of_snd (by assumption) ?_)
    | intro _ _ _ _
    | intro _ _ _
    | intro _ _
    | intro _
    | dsimp only

theorem kept_flitHeader {t : Nat} {f : CasrikFlit} (hl : [.sites] ⊆ l) (h : Kept l a s) :
    Kept l a (State.flitHeader s t f) := by
  unfold State.flitHeader
  with_reducible repeat' first
    | exact h
    | refine Kept.ite ?_ ?_
    | refine kept_modSite (sub hl (by decide)) ?_
    | dsimp only

theorem kept_flitCorrected {t : Nat} {wl : Nat} {c : FlitCheck} (hl : [.regs, .sites] ⊆ l) (h : Kept l a s) :
    Kept l a (State.flitCorrected s t wl c) := by
  unfold State.flitCorrected
  with_reducible repeat' first
    | exact h
    | refine Kept.ite ?_ ?_
    | refine kept_count (sub hl (by decide)) ?_
    | refine kept_modSite (sub hl (by decide)) ?_
    | dsimp only

theorem kept_flitBad {t : Nat} {wl : Nat} {word : Bool} (hl : [.regs, .evt, .sites, .rel] ⊆ l) (h : Kept l a s) :
    Kept l a (State.flitBad s t wl word) := by
  unfold State.flitBad
  with_reducible repeat' first
    | exact h
    | refine Kept.ite ?_ ?_
    | refine kept_detect (sub hl (by decide)) ?_
    | refine kept_voidSite (sub hl (by decide)) ?_
    | refine kept_raise (sub hl (by decide)) ?_
    | refine kept_count (sub hl (by decide)) ?_
    | refine kept_modSite (sub hl (by decide)) ?_
    | dsimp only

theorem kept_flitReceive {t : Nat} {f : CasrikFlit} {wl : Nat} {c : FlitCheck} (hl : [.free, .mem, .errs, .regs, .stitch, .ctxs, .bays, .mus, .rtrs, .evt, .hbm, .sites, .twin, .rel] ⊆ l) (h : Kept l a s) :
    Kept l a (State.flitReceive s t f wl c) := by
  unfold State.flitReceive
  with_reducible repeat' first
    | exact h
    | refine Kept.ite ?_ ?_
    | refine kept_flitCorrected (sub hl (by decide)) ?_
    | refine kept_flitBad (sub hl (by decide)) ?_
    | refine kept_count (sub hl (by decide)) ?_
    | refine kept_flitHeader (sub hl (by decide)) ?_
    | refine kept_modSite (sub hl (by decide)) ?_
    | refine kept_deliver (sub hl (by decide)) ?_
    | dsimp only

theorem runs_execCasrikFlitReceive {t : Nat} {site : Nat} {f : CasrikFlit} {wl : Nat} {check : FlitCheck} {s0 : State} (hl : [.free, .mem, .errs, .regs, .clk, .stitch, .ctxs, .bays, .mus, .rtrs, .evt, .hbm, .sites, .twin, .rel] ⊆ l) :
    Runs l s0 (execCasrikFlitReceive t site f wl check s0) := by
  unfold execCasrikFlitReceive
  refine Runs.next ?_
  have h := Kept.refl l s0
  with_reducible repeat' first
    | exact h
    | refine Kept.ite ?_ ?_
    | refine kept_flitReceive (sub hl (by decide)) ?_
    | refine kept_masterTime (sub hl (by decide)) ?_
    | dsimp only

theorem kept_catchUp {t : Nat} (hl : [.sites] ⊆ l) (h : Kept l a s) :
    Kept l a (State.catchUp s t) := by
  unfold State.catchUp
  with_reducible repeat' first
    | exact h
    | refine Kept.ite ?_ ?_
    | refine kept_modSite (sub hl (by decide)) ?_
    | refine Kept.foldl ?_ ?_
    | split
    | intro _ _ _ _
    | intro _ _ _
    | intro _ _
    | intro _
    | dsimp only

theorem kept_siteTrain {t : Nat} {r : SiteTrain} (hl : [.regs, .evt, .sites, .store] ⊆ l) (h : Kept l a s) :
    Kept l a (State.siteTrain s t r) := by
  unfold State.siteTrain
  with_reducible repeat' first
    | exact h
    | refine Kept.ite ?_ ?_
    | refine kept_modSite (sub hl (by decide)) ?_
    | refine kept_writeSite (sub hl (by decide)) ?_
    | refine kept_raise (sub hl (by decide)) ?_
    | refine kept_peerOffer (sub hl (by decide)) ?_
    | refine kept_peerIdentity (sub hl (by decide)) ?_
    | refine kept_mismatch (sub hl (by decide)) ?_
    | refine kept_inventoryAgain (sub hl (by decide)) ?_
    | refine kept_catchUp (sub hl (by decide)) ?_
    | dsimp only

theorem runs_execSiteTraining {t : Nat} {site : Nat} {r : SiteTrain} {s0 : State} (hl : [.regs, .clk, .evt, .sites, .store] ⊆ l) :
    Runs l s0 (execSiteTraining t site r s0) := by
  unfold execSiteTraining
  refine Runs.next ?_
  have h := Kept.refl l s0
  with_reducible repeat' first
    | exact h
    | refine Kept.ite ?_ ?_
    | refine kept_siteTrain (sub hl (by decide)) ?_
    | refine kept_masterTime (sub hl (by decide)) ?_
    | dsimp only

theorem kept_siteDown {t : Nat} (hl : [.regs, .stitch, .ctxs, .mus, .evt, .hbm, .sites, .twin] ⊆ l) (h : Kept l a s) :
    Kept l a (State.siteDown s t) := by
  unfold State.siteDown
  with_reducible repeat' first
    | exact h
    | assumption
    | refine Kept.ite ?_ ?_
    | refine kept_modSite (sub hl (by decide)) ?_
    | refine kept_raise (sub hl (by decide)) ?_
    | refine kept_modStitch (sub hl (by decide)) ?_
    | refine kept_haltCtx (sub hl (by decide)) ?_
    | refine kept_inventoryAgain (sub hl (by decide)) ?_
    | refine kept_dropCheckpoint (sub hl (by decide)) ?_
    | refine Kept.foldl ?_ ?_
    | (split; rename_i e; have e0 := congrArg (fun p => p.1) e; have e1 := congrArg (fun p => p.2) e; dsimp only at e0 e1; subst e0; subst e1)
    | (split; rename_i e; have e0 := congrArg (fun p => p.2) e; dsimp only at e0; subst e0)
    | split
    | (refine Kept.of_snd (by assumption) ?_)
    | intro _ _ _ _
    | intro _ _ _
    | intro _ _
    | intro _
    | dsimp only

theorem runs_execSiteDown {t : Nat} {site : Nat} {s0 : State} (hl : [.regs, .clk, .stitch, .ctxs, .mus, .evt, .hbm, .sites, .twin] ⊆ l) :
    Runs l s0 (execSiteDown t site s0) := by
  unfold execSiteDown
  refine Runs.next ?_
  have h := Kept.refl l s0
  with_reducible repeat' first
    | exact h
    | refine Kept.ite ?_ ?_
    | refine kept_siteDown (sub hl (by decide)) ?_
    | refine kept_masterTime (sub hl (by decide)) ?_
    | dsimp only

theorem kept_dropWavelength {t : Nat} {w : Nat} (hl : [.regs, .stitch, .ctxs, .mus, .evt, .hbm, .sites, .twin] ⊆ l) (h : Kept l a s) :
    Kept l a (State.dropWavelength s t w) := by
  unfold State.dropWavelength
  with_reducible repeat' first
    | exact h
    | refine Kept.ite ?_ ?_
    | refine kept_siteDown (sub hl (by decide)) ?_
    | refine kept_raise (sub hl (by decide)) ?_
    | refine kept_modSite (sub hl (by decide)) ?_
    | dsimp only

theorem runs_execWavelengthDrop {t : Nat} {site : Nat} {w : Nat} {s0 : State} (hl : [.regs, .clk, .stitch, .ctxs, .mus, .evt, .hbm, .sites, .twin] ⊆ l) :
    Runs l s0 (execWavelengthDrop t site w s0) := by
  unfold execWavelengthDrop
  refine Runs.next ?_
  have h := Kept.refl l s0
  with_reducible repeat' first
    | exact h
    | refine Kept.ite ?_ ?_
    | refine kept_dropWavelength (sub hl (by decide)) ?_
    | refine kept_masterTime (sub hl (by decide)) ?_
    | dsimp only

theorem kept_rejoinWavelength {t : Nat} {w : Nat} (hl : [.regs, .evt, .sites] ⊆ l) (h : Kept l a s) :
    Kept l a (State.rejoinWavelength s t w) := by
  unfold State.rejoinWavelength
  with_reducible repeat' first
    | exact h
    | refine Kept.ite ?_ ?_
    | refine kept_raise (sub hl (by decide)) ?_
    | refine kept_count (sub hl (by decide)) ?_
    | refine kept_modSite (sub hl (by decide)) ?_
    | dsimp only

theorem runs_execWavelengthRejoin {t : Nat} {site : Nat} {w : Nat} {s0 : State} (hl : [.regs, .clk, .evt, .sites] ⊆ l) :
    Runs l s0 (execWavelengthRejoin t site w s0) := by
  unfold execWavelengthRejoin
  refine Runs.next ?_
  have h := Kept.refl l s0
  with_reducible repeat' first
    | exact h
    | refine Kept.ite ?_ ?_
    | refine kept_rejoinWavelength (sub hl (by decide)) ?_
    | refine kept_masterTime (sub hl (by decide)) ?_
    | dsimp only

theorem kept_exportBegin {t : Nat} {d : Nat} (hl : [.bays, .rtrs, .evt, .sites] ⊆ l) (h : Kept l a s) :
    Kept l a (State.exportBegin s t d) := by
  unfold State.exportBegin
  with_reducible repeat' first
    | exact h
    | refine Kept.ite ?_ ?_
    | refine kept_exportAsk (sub hl (by decide)) ?_
    | refine kept_modSite (sub hl (by decide)) ?_
    | dsimp only

theorem runs_execExportStart {t : Nat} {site : Nat} {d : Nat} {s0 : State} (hl : [.clk, .bays, .rtrs, .evt, .sites] ⊆ l) :
    Runs l s0 (execExportStart t site d s0) := by
  unfold execExportStart
  refine Runs.next ?_
  have h := Kept.refl l s0
  with_reducible repeat' first
    | exact h
    | refine Kept.ite ?_ ?_
    | refine kept_exportBegin (sub hl (by decide)) ?_
    | refine kept_masterTime (sub hl (by decide)) ?_
    | dsimp only

end Sys2Proof.Machine
end

