-- ==== Sys2Proof/Laws/KeptFabric.lean ====
section
/-! SUPPORT. What each operation of Machine/Fabric.lean may touch, and that it keeps the queue and the invariant. -/

namespace Sys2Proof.Machine

variable {l : List Comp} {a s : State}

theorem kept_modFab {u : Nat} {f : Fab → Fab} (hl : [.cus] ⊆ l) (h : Kept l a s) :
    Kept l a (State.modFab s u f) := by
  unfold State.modFab
  with_reducible repeat' first
    | exact h
    | refine Kept.ite ?_ ?_
    | refine kept_modCu (sub hl (by decide)) ?_
    | dsimp only

theorem kept_modSteer {u : Nat} {f : Steer → Steer} (hl : [.cus] ⊆ l) (h : Kept l a s) :
    Kept l a (State.modSteer s u f) := by
  unfold State.modSteer
  with_reducible repeat' first
    | exact h
    | refine Kept.ite ?_ ?_
    | refine kept_modCu (sub hl (by decide)) ?_
    | dsimp only

theorem kept_spinStore {u : Nat} {j : SpinJob} {x : Payload} (hl : [.mem, .errs, .bays, .evt] ⊆ l) (h : Kept l a s) :
    Kept l a (State.spinStore s u j x) := by
  unfold State.spinStore
  with_reducible repeat' first
    | exact h
    | refine Kept.ite ?_ ?_
    | refine kept_addrFault (sub hl (by decide)) ?_
    | refine kept_writeSp (sub hl (by decide)) ?_
    | dsimp only

theorem kept_spinWrite {u : Nat} {link : Nat} (hl : [.mem, .errs, .regs, .bays, .cus, .evt] ⊆ l) (h : Kept l a s) :
    Kept l a (State.spinWrite s u link) := by
  unfold State.spinWrite
  with_reducible repeat' first
    | exact h
    | assumption
    | refine Kept.ite ?_ ?_
    | refine kept_takeLocal (sub hl (by decide)) ?_
    | refine kept_linkStall (sub hl (by decide)) ?_
    | refine kept_modFab (sub hl (by decide)) ?_
    | refine kept_spinStore (sub hl (by decide)) ?_
    | exact KeptO.none
    | refine KeptO.some ?_
    | refine KeptO.ite ?_ ?_
    | exact KeptS.none
    | refine KeptS.some ?_
    | refine KeptS.getD ?_ ?_
    | refine Kept.foldl ?_ ?_
    | (split; rename_i e; have e0 := congrArg (fun p => p.1) e; have e1 := congrArg (fun p => p.2) e; dsimp only at e0 e1; subst e0; subst e1)
    | (split; rename_i e; have e0 := congrArg (fun p => p.2) e; dsimp only at e0; subst e0)
    | split
    | (refine Kept.of_snd (by assumption) ?_)
    | (refine KeptO.of (by assumption) ?_)
    | (refine KeptS.of (by assumption) ?_)
    | intro _ _ _ _
    | intro _ _ _
    | intro _ _
    | intro _
    | dsimp only

theorem runs_execSpinWrite {t : Nat} {u : Nat} {link : Nat} {s0 : State} (hl : [.mem, .errs, .regs, .bays, .cus, .evt] ⊆ l) :
    Runs l s0 (execSpinWrite t u link s0) := by
  unfold execSpinWrite
  refine Runs.next ?_
  have h := Kept.refl l s0
  with_reducible repeat' first
    | exact h
    | refine Kept.ite ?_ ?_
    | refine kept_bayTime (sub hl (by decide)) ?_
    | refine kept_spinWrite (sub hl (by decide)) ?_
    | dsimp only

theorem kept_steerFault {u : Nat} {k : Nat} {tok : Option Nat} {dat : Option Nat} (hl : [.regs, .bays, .cus, .evt] ⊆ l) (h : Kept l a s) :
    Kept l a (State.steerFault s u k tok dat) := by
  unfold State.steerFault
  with_reducible repeat' first
    | exact h
    | refine Kept.ite ?_ ?_
    | refine kept_record (sub hl (by decide)) ?_
    | refine kept_modSteer (sub hl (by decide)) ?_
    | refine kept_voteVoid (sub hl (by decide)) ?_
    | refine kept_raiseBay (sub hl (by decide)) ?_
    | dsimp only

theorem kept_tokEnter {u : Nat} {p : Payload} (hl : [.regs, .bays, .cus, .evt] ⊆ l) (h : Kept l a s) :
    Kept l a (State.tokEnter s u p) := by
  unfold State.tokEnter
  with_reducible repeat' first
    | exact h
    | refine Kept.ite ?_ ?_
    | refine kept_modSteer (sub hl (by decide)) ?_
    | refine kept_steerFault (sub hl (by decide)) ?_
    | refine Kept.foldl ?_ ?_
    | split
    | intro _ _ _ _
    | intro _ _ _
    | intro _ _
    | intro _
    | dsimp only

theorem kept_routeSend {u : Nat} {route : Nat} {l' : Nat} {x : Flit} (hl : [.regs, .cus] ⊆ l) (h : Kept l a s) :
    Kept l a (State.routeSend s u route l' x) := by
  unfold State.routeSend
  with_reducible repeat' first
    | exact h
    | refine Kept.ite ?_ ?_
    | refine kept_count (sub hl (by decide)) ?_
    | refine kept_sendAll (sub hl (by decide)) ?_
    | refine kept_modSteer (sub hl (by decide)) ?_
    | dsimp only

theorem kept_steerCycle {u : Nat} (hl : [.regs, .bays, .cus, .evt] ⊆ l) (h : Kept l a s) :
    Kept l a (State.steerCycle s u) := by
  unfold State.steerCycle
  with_reducible repeat' first
    | exact h
    | refine Kept.ite ?_ ?_
    | refine kept_modSteer (sub hl (by decide)) ?_
    | refine kept_steerFault (sub hl (by decide)) ?_
    | refine kept_routeSend (sub hl (by decide)) ?_
    | refine Kept.foldl ?_ ?_
    | split
    | intro _ _ _ _
    | intro _ _ _
    | intro _ _
    | intro _
    | dsimp only

theorem runs_execSteerCycle {t : Nat} {u : Nat} {s0 : State} (hl : [.regs, .bays, .cus, .evt] ⊆ l) :
    Runs l s0 (execSteerCycle t u s0) := by
  unfold execSteerCycle
  refine Runs.next ?_
  have h := Kept.refl l s0
  with_reducible repeat' first
    | exact h
    | refine Kept.ite ?_ ?_
    | refine kept_bayTime (sub hl (by decide)) ?_
    | refine kept_steerCycle (sub hl (by decide)) ?_
    | dsimp only

theorem kept_steerTimeout {u : Nat} (hl : [.regs, .bays, .cus, .evt] ⊆ l) (h : Kept l a s) :
    Kept l a (State.steerTimeout s u) := by
  unfold State.steerTimeout
  with_reducible repeat' first
    | exact h
    | refine Kept.ite ?_ ?_
    | refine kept_steerCycle (sub hl (by decide)) ?_
    | dsimp only

theorem runs_execSteerPairTimeout {t : Nat} {u : Nat} {s0 : State} (hl : [.regs, .bays, .cus, .evt] ⊆ l) :
    Runs l s0 (execSteerPairTimeout t u s0) := by
  unfold execSteerPairTimeout
  refine Runs.next ?_
  have h := Kept.refl l s0
  with_reducible repeat' first
    | exact h
    | refine Kept.ite ?_ ?_
    | refine kept_bayTime (sub hl (by decide)) ?_
    | refine kept_steerTimeout (sub hl (by decide)) ?_
    | dsimp only

theorem kept_takePort {u : Nat} {p : Nat} (hl : [.regs, .bays, .cus, .mus, .evt] ⊆ l) (h : Kept l a s) :
    Kept l a (State.takePort s u p) := by
  unfold State.takePort
  with_reducible repeat' first
    | exact h
    | refine Kept.ite ?_ ?_
    | refine kept_modMu (sub hl (by decide)) ?_
    | refine kept_sendAll (sub hl (by decide)) ?_
    | refine kept_tokEnter (sub hl (by decide)) ?_
    | refine Kept.foldl ?_ ?_
    | split
    | intro _ _ _ _
    | intro _ _ _
    | intro _ _
    | intro _
    | dsimp only

theorem kept_takers {c : Nat} {p : Nat} {x0 : Nat} (hl : [.regs, .bays, .cus, .mus, .evt] ⊆ l) (h : Kept l a s) :
    Kept l a (State.takers s c p x0) := by
  induction x0 generalizing s c p with
  | zero =>
    unfold State.takers
    with_reducible repeat' first
      | exact h
      | refine Kept.ite ?_ ?_
      | refine kept_takePort (sub hl (by decide)) ?_
      | refine Kept.foldl ?_ ?_
      | split
      | intro _ _ _ _
      | intro _ _ _
      | intro _ _
      | intro _
      | dsimp only
  | succ n ih =>
    unfold State.takers
    with_reducible repeat' first
      | exact h
      | refine ih ?_
      | refine Kept.ite ?_ ?_
      | refine kept_takePort (sub hl (by decide)) ?_
      | refine Kept.foldl ?_ ?_
      | split
      | intro _ _ _ _
      | intro _ _ _
      | intro _ _
      | intro _
      | dsimp only

theorem kept_takeTurn {u : Nat} {p : Nat} (hl : [.regs, .bays, .cus, .mus, .evt] ⊆ l) (h : Kept l a s) :
    Kept l a (State.takeTurn s u p) := by
  unfold State.takeTurn
  with_reducible repeat' first
    | exact h
    | refine Kept.ite ?_ ?_
    | refine kept_takePort (sub hl (by decide)) ?_
    | dsimp only

theorem kept_givePort {u : Nat} {l' : Nat} {p : Nat} (hl : [.regs, .cus, .mus] ⊆ l) (h : Kept l a s) :
    Kept l a (State.givePort s u l' p) := by
  unfold State.givePort
  with_reducible repeat' first
    | exact h
    | refine Kept.ite ?_ ?_
    | refine kept_sendAll (sub hl (by decide)) ?_
    | refine kept_popLink (sub hl (by decide)) ?_
    | refine kept_modMu (sub hl (by decide)) ?_
    | refine Kept.foldl ?_ ?_
    | split
    | intro _ _ _ _
    | intro _ _ _
    | intro _ _
    | intro _
    | dsimp only

theorem kept_givers {c : Nat} {p : Nat} {x0 : Nat} (hl : [.regs, .cus, .mus] ⊆ l) (h : Kept l a s) :
    Kept l a (State.givers s c p x0) := by
  induction x0 generalizing s c p with
  | zero =>
    unfold State.givers
    with_reducible repeat' first
      | exact h
      | refine Kept.ite ?_ ?_
      | refine kept_givePort (sub hl (by decide)) ?_
      | refine Kept.foldl ?_ ?_
      | split
      | intro _ _ _ _
      | intro _ _ _
      | intro _ _
      | intro _
      | dsimp only
  | succ n ih =>
    unfold State.givers
    with_reducible repeat' first
      | exact h
      | refine ih ?_
      | refine Kept.ite ?_ ?_
      | refine kept_givePort (sub hl (by decide)) ?_
      | refine Kept.foldl ?_ ?_
      | split
      | intro _ _ _ _
      | intro _ _ _
      | intro _ _
      | intro _
      | dsimp only

theorem kept_giveTurn {u : Nat} {l' : Nat} {p : Nat} (hl : [.regs, .cus, .mus] ⊆ l) (h : Kept l a s) :
    Kept l a (State.giveTurn s u l' p) := by
  unfold State.giveTurn
  with_reducible repeat' first
    | exact h
    | refine Kept.ite ?_ ?_
    | refine kept_givePort (sub hl (by decide)) ?_
    | dsimp only

theorem runs_execFabricPortTransfer {t : Nat} {c : Nat} {port : Nat} {inbound : Bool} {s0 : State} (hl : [.regs, .bays, .cus, .mus, .evt] ⊆ l) :
    Runs l s0 (execFabricPortTransfer t c port inbound s0) := by
  unfold execFabricPortTransfer
  refine Runs.next ?_
  have h := Kept.refl l s0
  with_reducible repeat' first
    | exact h
    | refine Kept.ite ?_ ?_
    | refine kept_bayTime (sub hl (by decide)) ?_
    | refine kept_givers (sub hl (by decide)) ?_
    | refine kept_takers (sub hl (by decide)) ?_
    | dsimp only

theorem kept_linkMove {u : Nat} {l' : Nat} (hl : [.regs, .bays, .cus, .mus, .evt] ⊆ l) (h : Kept l a s) :
    Kept l a (State.linkMove s u l') := by
  unfold State.linkMove
  with_reducible repeat' first
    | exact h
    | refine Kept.ite ?_ ?_
    | refine kept_sendAll (sub hl (by decide)) ?_
    | refine kept_popLink (sub hl (by decide)) ?_
    | refine kept_tokEnter (sub hl (by decide)) ?_
    | refine kept_modSteer (sub hl (by decide)) ?_
    | refine kept_giveTurn (sub hl (by decide)) ?_
    | refine Kept.foldl ?_ ?_
    | split
    | intro _ _ _ _
    | intro _ _ _
    | intro _ _
    | intro _
    | dsimp only

theorem kept_produce {u : Nat} {k : Nat} (hl : [.regs, .cus] ⊆ l) (h : Kept l a s) :
    Kept l a (State.produce s u k) := by
  unfold State.produce
  with_reducible repeat' first
    | exact h
    | refine Kept.ite ?_ ?_
    | refine kept_modCu (sub hl (by decide)) ?_
    | refine kept_sendLink (sub hl (by decide)) ?_
    | refine kept_linkStall (sub hl (by decide)) ?_
    | refine Kept.foldl ?_ ?_
    | split
    | intro _ _ _ _
    | intro _ _ _
    | intro _ _
    | intro _
    | dsimp only

theorem kept_linkTransfer {u : Nat} {src : Nat} {check : LinkCheck} (hl : [.regs, .bays, .cus, .mus, .evt, .rel] ⊆ l) (h : Kept l a s) :
    Kept l a (State.linkTransfer s u src check) := by
  unfold State.linkTransfer
  with_reducible repeat' first
    | exact h
    | assumption
    | refine Kept.ite ?_ ?_
    | refine kept_takeTurn (sub hl (by decide)) ?_
    | refine kept_produce (sub hl (by decide)) ?_
    | refine kept_linkMove (sub hl (by decide)) ?_
    | refine kept_linkChecked (sub hl (by decide)) ?_
    | refine Kept.foldl ?_ ?_
    | refine Kept.foldl₂ ?_ ?_
    | refine Kept.foldl₁ ?_ ?_
    | (split; rename_i e; have e0 := congrArg (fun p => p.1) e; have e1 := congrArg (fun p => p.2.1) e; have e2 := congrArg (fun p => p.2.2.1) e; have e3 := congrArg (fun p => p.2.2.2) e; dsimp only at e0 e1 e2 e3; subst e0; subst e1; subst e2; subst e3)
    | (split; rename_i e; have e0 := congrArg (fun p => p.1) e; have e1 := congrArg (fun p => p.2.1) e; have e2 := congrArg (fun p => p.2.2) e; dsimp only at e0 e1 e2; subst e0; subst e1; subst e2)
    | (split; rename_i e; have e0 := congrArg (fun p => p.1) e; have e1 := congrArg (fun p => p.2) e; dsimp only at e0 e1; subst e0; subst e1)
    | (split; rename_i e; have e0 := congrArg (fun p => p.2) e; dsimp only at e0; subst e0)
    | (split; rename_i e; have e0 := congrArg (fun p => p.1) e; dsimp only at e0; subst e0)
    | split
    | (refine Kept.of_snd (by assumption) ?_)
    | intro _ _ _ _
    | intro _ _ _
    | intro _ _
    | intro _
    | dsimp only

theorem runs_execLinkPayloadTransfer {t : Nat} {u : Nat} {src : Nat} {check : LinkCheck} {s0 : State} (hl : [.regs, .bays, .cus, .mus, .evt, .rel] ⊆ l) :
    Runs l s0 (execLinkPayloadTransfer t u src check s0) := by
  unfold execLinkPayloadTransfer
  have h := Kept.refl l s0
  with_reducible repeat' first
    | exact h
    | refine Runs.next ?_
    | assumption
    | refine Kept.ite ?_ ?_
    | refine kept_bayTime (sub hl (by decide)) ?_
    | refine kept_linkTransfer (sub hl (by decide)) ?_
    | refine Kept.foldl ?_ ?_
    | refine Kept.foldl₂ ?_ ?_
    | refine Kept.foldl₁ ?_ ?_
    | (split; rename_i e; have e0 := congrArg (fun p => p.1) e; have e1 := congrArg (fun p => p.2.1) e; have e2 := congrArg (fun p => p.2.2.1) e; have e3 := congrArg (fun p => p.2.2.2) e; dsimp only at e0 e1 e2 e3; subst e0; subst e1; subst e2; subst e3)
    | (split; rename_i e; have e0 := congrArg (fun p => p.1) e; have e1 := congrArg (fun p => p.2.1) e; have e2 := congrArg (fun p => p.2.2) e; dsimp only at e0 e1 e2; subst e0; subst e1; subst e2)
    | (split; rename_i e; have e0 := congrArg (fun p => p.1) e; have e1 := congrArg (fun p => p.2) e; dsimp only at e0 e1; subst e0; subst e1)
    | (split; rename_i e; have e0 := congrArg (fun p => p.2) e; dsimp only at e0; subst e0)
    | (split; rename_i e; have e0 := congrArg (fun p => p.1) e; dsimp only at e0; subst e0)
    | split
    | (refine Kept.of_snd (by assumption) ?_)
    | intro _ _ _ _
    | intro _ _ _
    | intro _ _
    | intro _
    | dsimp only

theorem runs_execTokenPayloadEnter {t : Nat} {u : Nat} {link : Nat} {s0 : State} (hl : [.regs, .bays, .cus, .mus, .evt] ⊆ l) :
    Runs l s0 (execTokenPayloadEnter t u link s0) := by
  unfold execTokenPayloadEnter
  refine Runs.next ?_
  have h := Kept.refl l s0
  with_reducible repeat' first
    | exact h
    | refine Kept.ite ?_ ?_
    | refine kept_bayTime (sub hl (by decide)) ?_
    | refine kept_linkMove (sub hl (by decide)) ?_
    | refine kept_takeTurn (sub hl (by decide)) ?_
    | dsimp only

theorem kept_seamExit {u : Nat} {link : Nat} (hl : [.cus] ⊆ l) (h : Kept l a s) :
    Kept l a (State.seamExit s u link) := by
  unfold State.seamExit
  with_reducible repeat' first
    | exact h
    | refine Kept.ite ?_ ?_
    | refine kept_modFab (sub hl (by decide)) ?_
    | refine Kept.foldl ?_ ?_
    | split
    | intro _ _ _ _
    | intro _ _ _
    | intro _ _
    | intro _
    | dsimp only

theorem runs_execSeamPayloadExit {t : Nat} {u : Nat} {link : Nat} {s0 : State} (hl : [.regs, .bays, .cus] ⊆ l) :
    Runs l s0 (execSeamPayloadExit t u link s0) := by
  unfold execSeamPayloadExit
  refine Runs.next ?_
  have h := Kept.refl l s0
  with_reducible repeat' first
    | exact h
    | refine Kept.ite ?_ ?_
    | refine kept_bayTime (sub hl (by decide)) ?_
    | refine kept_seamExit (sub hl (by decide)) ?_
    | dsimp only

theorem kept_seamCredit {u : Nat} {link : Nat} (hl : [.cus] ⊆ l) (h : Kept l a s) :
    Kept l a (State.seamCredit s u link) := by
  unfold State.seamCredit
  with_reducible repeat' first
    | exact h
    | refine Kept.ite ?_ ?_
    | refine kept_modFab (sub hl (by decide)) ?_
    | refine Kept.foldl ?_ ?_
    | split
    | intro _ _ _ _
    | intro _ _ _
    | intro _ _
    | intro _
    | dsimp only

theorem runs_execSeamCreditReturn {t : Nat} {u : Nat} {link : Nat} {s0 : State} (hl : [.regs, .bays, .cus] ⊆ l) :
    Runs l s0 (execSeamCreditReturn t u link s0) := by
  unfold execSeamCreditReturn
  refine Runs.next ?_
  have h := Kept.refl l s0
  with_reducible repeat' first
    | exact h
    | refine Kept.ite ?_ ?_
    | refine kept_bayTime (sub hl (by decide)) ?_
    | refine kept_seamCredit (sub hl (by decide)) ?_
    | dsimp only

end Sys2Proof.Machine
end

