-- ==== Sys2Proof/Laws/KeptVector.lean ====
section
/-! SUPPORT. What each operation of Machine/Vector.lean may touch, and that it keeps the queue and the invariant. -/

namespace Sys2Proof.Machine

variable {l : List Comp} {a s : State}

theorem kept_modVec {u : Nat} {f : Vec → Vec} (hl : [.cus] ⊆ l) (h : Kept l a s) :
    Kept l a (State.modVec s u f) := by
  unfold State.modVec
  with_reducible repeat' first
    | exact h
    | refine Kept.ite ?_ ?_
    | refine kept_modCu (sub hl (by decide)) ?_
    | dsimp only

theorem kept_tileReady {u : Nat} {d : Desc} {no : Nat} (hl : [.cus] ⊆ l) (h : Kept l a s) :
    Kept l a (State.tileReady s u d no).2 := by
  unfold State.tileReady
  with_reducible repeat' first
    | exact h
    | refine Kept.ite ?_ ?_
    | refine kept_modSte (sub hl (by decide)) ?_
    | refine Kept.foldl ?_ ?_
    | split
    | intro _ _ _ _
    | intro _ _ _
    | intro _ _
    | intro _
    | dsimp only

theorem kept_vecFlit {u : Nat} {d : Desc} {buf : Loading} {need : Nat} {k : Nat} (hl : [.regs, .bays, .cus, .evt] ⊆ l) (h : Kept l a s) :
    KeptO l a (State.vecFlit s u d buf need k) := by
  unfold State.vecFlit
  with_reducible repeat' first
    | exact h
    | assumption
    | refine Kept.ite ?_ ?_
    | refine kept_takeLocal (sub hl (by decide)) ?_
    | refine kept_malformed (sub hl (by decide)) ?_
    | exact KeptO.none
    | refine KeptO.some ?_
    | refine KeptO.ite ?_ ?_
    | exact KeptS.none
    | refine KeptS.some ?_
    | refine KeptS.getD ?_ ?_
    | refine Kept.foldl ?_ ?_
    | (split; rename_i e; have e0 := congrArg (fun p => p.1) e; have e1 := congrArg (fun p => p.2) e; dsimp only at e0 e1; subst e0; subst e1)
    | (split; rename_i e; have e0 := congrArg (fun p => p.2) e; dsimp only at e0; subst e0)
    | split
    | (refine Kept.of_snd (by assumption) ?_)
    | (refine KeptO.of (by assumption) ?_)
    | (refine KeptS.of (by assumption) ?_)
    | intro _ _ _ _
    | intro _ _ _
    | intro _ _
    | intro _
    | dsimp only

theorem kept_vecFlits {u : Nat} {r : VecRun} {need : Nat} (hl : [.regs, .bays, .cus, .evt] ⊆ l) (h : Kept l a s) :
    KeptO l a (State.vecFlits s u r need) := by
  unfold State.vecFlits
  with_reducible repeat' first
    | exact h
    | assumption
    | refine Kept.ite ?_ ?_
    | refine kept_vecFlit (sub hl (by decide)) ?_
    | exact KeptO.none
    | refine KeptO.some ?_
    | refine KeptO.ite ?_ ?_
    | exact KeptS.none
    | refine KeptS.some ?_
    | refine KeptS.getD ?_ ?_
    | refine Kept.foldl ?_ ?_
    | (split; rename_i e; have e0 := congrArg (fun p => p.1) e; have e1 := congrArg (fun p => p.2) e; dsimp only at e0 e1; subst e0; subst e1)
    | (split; rename_i e; have e0 := congrArg (fun p => p.2) e; dsimp only at e0; subst e0)
    | split
    | (refine Kept.of_snd (by assumption) ?_)
    | (refine KeptO.of (by assumption) ?_)
    | (refine KeptS.of (by assumption) ?_)
    | intro _ _ _ _
    | intro _ _ _
    | intro _ _
    | intro _
    | dsimp only

theorem kept_vecGroup {u : Nat} {r : VecRun} (hl : [.free, .mem, .errs, .regs, .bays, .cus, .evt, .rel] ⊆ l) (h : Kept l a s) :
    Kept l a (State.vecGroup s u r) := by
  unfold State.vecGroup
  with_reducible repeat' first
    | exact h
    | assumption
    | refine Kept.ite ?_ ?_
    | refine kept_vecFlits (sub hl (by decide)) ?_
    | refine kept_linkStall (sub hl (by decide)) ?_
    | refine kept_modVec (sub hl (by decide)) ?_
    | refine kept_touchOperand (sub hl (by decide)) ?_
    | refine kept_stick (sub hl (by decide)) ?_
    | exact KeptO.none
    | refine KeptO.some ?_
    | refine KeptO.ite ?_ ?_
    | exact KeptS.none
    | refine KeptS.some ?_
    | refine KeptS.getD ?_ ?_
    | refine Kept.foldl ?_ ?_
    | refine Kept.foldl₂ ?_ ?_
    | refine Kept.foldl₁ ?_ ?_
    | (split; rename_i e; have e0 := congrArg (fun p => p.1) e; have e1 := congrArg (fun p => p.2.1) e; have e2 := congrArg (fun p => p.2.2.1) e; have e3 := congrArg (fun p => p.2.2.2) e; dsimp only at e0 e1 e2 e3; subst e0; subst e1; subst e2; subst e3)
    | (split; rename_i e; have e0 := congrArg (fun p => p.1) e; have e1 := congrArg (fun p => p.2.1) e; have e2 := congrArg (fun p => p.2.2) e; dsimp only at e0 e1 e2; subst e0; subst e1; subst e2)
    | (split; rename_i e; have e0 := congrArg (fun p => p.1) e; have e1 := congrArg (fun p => p.2) e; dsimp only at e0 e1; subst e0; subst e1)
    | (split; rename_i e; have e0 := congrArg (fun p => p.2) e; dsimp only at e0; subst e0)
    | (split; rename_i e; have e0 := congrArg (fun p => p.1) e; dsimp only at e0; subst e0)
    | split
    | (refine Kept.of_snd (by assumption) ?_)
    | (refine KeptO.of (by assumption) ?_)
    | (refine KeptS.of (by assumption) ?_)
    | intro _ _ _ _
    | intro _ _ _
    | intro _ _
    | intro _
    | dsimp only

theorem kept_vectorIssue {u : Nat} (hl : [.free, .mem, .errs, .regs, .bays, .cus, .evt, .rel] ⊆ l) (h : Kept l a s) :
    Kept l a (State.vectorIssue s u) := by
  unfold State.vectorIssue
  with_reducible repeat' first
    | exact h
    | refine Kept.ite ?_ ?_
    | refine kept_vecGroup (sub hl (by decide)) ?_
    | refine kept_tileReady (sub hl (by decide)) ?_
    | refine kept_modVec (sub hl (by decide)) ?_
    | refine Kept.foldl ?_ ?_
    | split
    | intro _ _ _ _
    | intro _ _ _
    | intro _ _
    | intro _
    | dsimp only

theorem runs_execVectorIssue {t : Nat} {u : Nat} {s0 : State} (hl : [.free, .mem, .errs, .regs, .bays, .cus, .evt, .rel] ⊆ l) :
    Runs l s0 (execVectorIssue t u s0) := by
  unfold execVectorIssue
  refine Runs.next ?_
  have h := Kept.refl l s0
  with_reducible repeat' first
    | exact h
    | refine Kept.ite ?_ ?_
    | refine kept_bayTime (sub hl (by decide)) ?_
    | refine kept_vectorIssue (sub hl (by decide)) ?_
    | dsimp only

theorem kept_vecForm {u : Nat} {d : Desc} {p : PackOut} {whole : Bool} (hl : [.regs, .cus] ⊆ l) (h : Kept l a s) :
    Kept l a (State.vecForm s u d p whole) := by
  unfold State.vecForm
  with_reducible repeat' first
    | exact h
    | refine Kept.ite ?_ ?_
    | refine kept_count (sub hl (by decide)) ?_
    | refine kept_countDropped (sub hl (by decide)) ?_
    | refine kept_modVec (sub hl (by decide)) ?_
    | dsimp only

theorem kept_vecLine {u : Nat} {d : Desc} {p : PackOut} (hl : [.free, .mem, .errs, .regs, .bays, .cus, .mus, .evt, .twin, .rel] ⊆ l) (h : Kept l a s) :
    Kept l a (State.vecLine s u d p) := by
  unfold State.vecLine
  with_reducible repeat' first
    | exact h
    | refine Kept.ite ?_ ?_
    | refine kept_writeLine (sub hl (by decide)) ?_
    | refine kept_modVec (sub hl (by decide)) ?_
    | dsimp only

theorem kept_vecLines {u : Nat} {j : VecJob} {flush : Bool} {x0 : Nat} (hl : [.free, .mem, .errs, .regs, .bays, .cus, .mus, .evt, .twin, .rel] ⊆ l) (h : Kept l a s) :
    Kept l a (State.vecLines s u j flush x0) := by
  induction x0 generalizing s u j flush with
  | zero =>
    unfold State.vecLines
    with_reducible repeat' first
      | exact h
      | assumption
      | refine Kept.ite ?_ ?_
      | refine kept_modVec (sub hl (by decide)) ?_
      | refine kept_vecForm (sub hl (by decide)) ?_
      | refine kept_vecLine (sub hl (by decide)) ?_
      | refine kept_stick (sub hl (by decide)) ?_
      | refine Kept.foldl ?_ ?_
      | refine Kept.foldl₂ ?_ ?_
      | refine Kept.foldl₁ ?_ ?_
      | (split; rename_i e; have e0 := congrArg (fun p => p.1) e; have e1 := congrArg (fun p => p.2.1) e; have e2 := congrArg (fun p => p.2.2.1) e; have e3 := congrArg (fun p => p.2.2.2) e; dsimp only at e0 e1 e2 e3; subst e0; subst e1; subst e2; subst e3)
      | (split; rename_i e; have e0 := congrArg (fun p => p.1) e; have e1 := congrArg (fun p => p.2.1) e; have e2 := congrArg (fun p => p.2.2) e; dsimp only at e0 e1 e2; subst e0; subst e1; subst e2)
      | (split; rename_i e; have e0 := congrArg (fun p => p.1) e; have e1 := congrArg (fun p => p.2) e; dsimp only at e0 e1; subst e0; subst e1)
      | (split; rename_i e; have e0 := congrArg (fun p => p.2) e; dsimp only at e0; subst e0)
      | (split; rename_i e; have e0 := congrArg (fun p => p.1) e; dsimp only at e0; subst e0)
      | split
      | (refine Kept.of_snd (by assumption) ?_)
      | intro _ _ _ _
      | intro _ _ _
      | intro _ _
      | intro _
      | dsimp only
  | succ n ih =>
    unfold State.vecLines
    with_reducible repeat' first
      | exact h
      | refine ih ?_
      | assumption
      | refine Kept.ite ?_ ?_
      | refine kept_modVec (sub hl (by decide)) ?_
      | refine kept_vecForm (sub hl (by decide)) ?_
      | refine kept_vecLine (sub hl (by decide)) ?_
      | refine kept_stick (sub hl (by decide)) ?_
      | refine Kept.foldl ?_ ?_
      | refine Kept.foldl₂ ?_ ?_
      | refine Kept.foldl₁ ?_ ?_
      | (split; rename_i e; have e0 := congrArg (fun p => p.1) e; have e1 := congrArg (fun p => p.2.1) e; have e2 := congrArg (fun p => p.2.2.1) e; have e3 := congrArg (fun p => p.2.2.2) e; dsimp only at e0 e1 e2 e3; subst e0; subst e1; subst e2; subst e3)
      | (split; rename_i e; have e0 := congrArg (fun p => p.1) e; have e1 := congrArg (fun p => p.2.1) e; have e2 := congrArg (fun p => p.2.2) e; dsimp only at e0 e1 e2; subst e0; subst e1; subst e2)
      | (split; rename_i e; have e0 := congrArg (fun p => p.1) e; have e1 := congrArg (fun p => p.2) e; dsimp only at e0 e1; subst e0; subst e1)
      | (split; rename_i e; have e0 := congrArg (fun p => p.2) e; dsimp only at e0; subst e0)
      | (split; rename_i e; have e0 := congrArg (fun p => p.1) e; dsimp only at e0; subst e0)
      | split
      | (refine Kept.of_snd (by assumption) ?_)
      | intro _ _ _ _
      | intro _ _ _
      | intro _ _
      | intro _
      | dsimp only

theorem kept_vecConst {u : Nat} {d : Desc} {v : Num} (hl : [.regs] ⊆ l) (h : Kept l a s) :
    Kept l a (State.vecConst s u d v) := by
  unfold State.vecConst
  with_reducible repeat' first
    | exact h
    | refine Kept.ite ?_ ?_
    | refine kept_setReg (sub hl (by decide)) ?_
    | dsimp only

theorem kept_vecPack {u : Nat} {g : VecGroup} (hl : [.free, .mem, .errs, .regs, .bays, .cus, .mus, .evt, .twin, .rel] ⊆ l) (h : Kept l a s) :
    Kept l a (State.vecPack s u g) := by
  unfold State.vecPack
  with_reducible repeat' first
    | exact h
    | refine Kept.ite ?_ ?_
    | refine kept_vecConst (sub hl (by decide)) ?_
    | refine kept_stick (sub hl (by decide)) ?_
    | refine kept_modVec (sub hl (by decide)) ?_
    | refine kept_vecLines (sub hl (by decide)) ?_
    | refine Kept.foldl ?_ ?_
    | split
    | intro _ _ _ _
    | intro _ _ _
    | intro _ _
    | intro _
    | dsimp only

theorem kept_vecReduce {u : Nat} {g : VecGroup} (hl : [.free, .mem, .errs, .regs, .bays, .cus, .mus, .evt, .twin, .rel] ⊆ l) (h : Kept l a s) :
    Kept l a (State.vecReduce s u g) := by
  unfold State.vecReduce
  with_reducible repeat' first
    | exact h
    | refine Kept.ite ?_ ?_
    | refine kept_stick (sub hl (by decide)) ?_
    | refine kept_modVec (sub hl (by decide)) ?_
    | refine kept_vecConst (sub hl (by decide)) ?_
    | refine kept_vecLine (sub hl (by decide)) ?_
    | dsimp only

theorem kept_vectorResult {u : Nat} (hl : [.free, .mem, .errs, .regs, .bays, .cus, .mus, .evt, .twin, .rel] ⊆ l) (h : Kept l a s) :
    Kept l a (State.vectorResult s u) := by
  unfold State.vectorResult
  with_reducible repeat' first
    | exact h
    | refine Kept.ite ?_ ?_
    | refine kept_linkStall (sub hl (by decide)) ?_
    | refine kept_modVec (sub hl (by decide)) ?_
    | refine kept_vecReduce (sub hl (by decide)) ?_
    | refine kept_vecPack (sub hl (by decide)) ?_
    | refine Kept.foldl ?_ ?_
    | split
    | intro _ _ _ _
    | intro _ _ _
    | intro _ _
    | intro _
    | dsimp only

theorem runs_execVectorResultWrite {t : Nat} {u : Nat} {s0 : State} (hl : [.free, .mem, .errs, .regs, .bays, .cus, .mus, .evt, .twin, .rel] ⊆ l) :
    Runs l s0 (execVectorResultWrite t u s0) := by
  unfold execVectorResultWrite
  refine Runs.next ?_
  have h := Kept.refl l s0
  with_reducible repeat' first
    | exact h
    | refine Kept.ite ?_ ?_
    | refine kept_bayTime (sub hl (by decide)) ?_
    | refine kept_muHold (sub hl (by decide)) ?_ ?_
    | refine kept_vectorResult (sub hl (by decide)) ?_
    | dsimp only

end Sys2Proof.Machine
end

