-- ==== Sys2Proof/Laws/KeptAccess.lean ====
section
/-! SUPPORT. What each operation of Machine/Access.lean may touch, and that it keeps the queue and the invariant. -/

namespace Sys2Proof.Machine

variable {l : List Comp} {a s : State}

theorem kept_pathFault {path : Path} {addr : Nat} {cause : Nat} (hl : [.bays, .evt] ⊆ l) (h : Kept l a s) :
    Kept l a (State.pathFault s path addr cause) := by
  unfold State.pathFault
  with_reducible repeat' first
    | exact h
    | refine Kept.ite ?_ ?_
    | refine kept_addrFault (sub hl (by decide)) ?_
    | dsimp only

theorem kept_plainWrite {id : RegId} {v : Reg} (hl : [.regs, .evt] ⊆ l) (h : Kept l a s) :
    Kept l a (State.plainWrite s id v) := by
  unfold State.plainWrite
  with_reducible repeat' first
    | exact h
    | refine Kept.ite ?_ ?_
    | refine kept_raise (sub hl (by decide)) ?_
    | refine kept_setReg (sub hl (by decide)) ?_
    | dsimp only

theorem kept_srcWrite {n : Nat} {v : Reg} (hl : [.regs, .evt] ⊆ l) (h : Kept l a s) :
    Kept l a (State.srcWrite s n v) := by
  unfold State.srcWrite
  with_reducible repeat' first
    | exact h
    | refine Kept.ite ?_ ?_
    | refine kept_plainWrite (sub hl (by decide)) ?_
    | dsimp only

theorem kept_msixWrite {w : Nat} {v : Reg} (hl : [.regs, .host, .evt] ⊆ l) (h : Kept l a s) :
    Kept l a (State.msixWrite s w v) := by
  unfold State.msixWrite
  with_reducible repeat' first
    | exact h
    | refine Kept.ite ?_ ?_
    | refine kept_plainWrite (sub hl (by decide)) ?_
    | refine kept_sendMsix (sub hl (by decide)) ?_
    | refine kept_modReg (sub hl (by decide)) ?_
    | dsimp only

theorem kept_doorbellAttach {primary : Bool} (hl : [.free, .mem, .errs, .regs, .bays, .mus, .host, .evt, .hbm, .twin, .rel] ⊆ l) (h : Kept l a s) :
    Kept l a (State.doorbellAttach s primary) := by
  unfold State.doorbellAttach
  with_reducible repeat' first
    | exact h
    | refine Kept.ite ?_ ?_
    | refine kept_mboxAttach (sub hl (by decide)) ?_
    | refine kept_takeFree (sub hl (by decide)) ?_
    | dsimp only

theorem kept_mboxDoorbell (hl : [.free, .mem, .errs, .regs, .clk, .stitch, .ctxs, .hsync, .bays, .panels, .cus, .mus, .host, .evt, .hbm, .sites, .twin, .sup, .rel, .fuses, .spdm] ⊆ l) (h : Kept l a s) :
    Kept l a (State.mboxDoorbell s) := by
  unfold State.mboxDoorbell
  with_reducible repeat' first
    | exact h
    | assumption
    | refine Kept.ite ?_ ?_
    | refine kept_readInventory (sub hl (by decide)) ?_
    | refine kept_mboxLoad (sub hl (by decide)) ?_
    | refine kept_mboxStart (sub hl (by decide)) ?_
    | refine kept_mboxEndRes (sub hl (by decide)) ?_
    | refine kept_mboxEnd (sub hl (by decide)) ?_
    | refine kept_mboxBay (sub hl (by decide)) ?_
    | refine kept_mboxCompute (sub hl (by decide)) ?_
    | refine kept_mboxCap (sub hl (by decide)) ?_
    | refine kept_mboxDetach (sub hl (by decide)) ?_
    | refine kept_doorbellAttach (sub hl (by decide)) ?_
    | refine kept_mboxTake (sub hl (by decide)) ?_ ?_
    | refine kept_mboxAnswer (sub hl (by decide)) ?_
    | refine Kept.foldl ?_ ?_
    | (split; rename_i e; have e0 := congrArg (fun p => p.1) e; have e1 := congrArg (fun p => p.2) e; dsimp only at e0 e1; subst e0; subst e1)
    | (split; rename_i e; have e0 := congrArg (fun p => p.2) e; dsimp only at e0; subst e0)
    | split
    | (refine Kept.of_snd (by assumption) ?_)
    | intro _ _ _ _
    | intro _ _ _
    | intro _ _
    | intro _
    | dsimp only

theorem kept_stitchCtrl {v : Nat} (hl : [.stitch, .ctxs, .bays, .panels, .evt] ⊆ l) (h : Kept l a s) :
    Kept l a (State.stitchCtrl s v) := by
  unfold State.stitchCtrl
  with_reducible repeat' first
    | exact h
    | refine Kept.ite ?_ ?_
    | refine kept_voidCurrent (sub hl (by decide)) ?_
    | refine kept_ctxRequest (sub hl (by decide)) ?_
    | refine kept_resumeCtx (sub hl (by decide)) ?_
    | refine kept_modeCancel (sub hl (by decide)) ?_
    | dsimp only

theorem kept_seedWrite {u : Nat} {v : Reg} (hl : [.regs, .cus] ⊆ l) (h : Kept l a s) :
    Kept l a (State.seedWrite s u v) := by
  unfold State.seedWrite
  with_reducible repeat' first
    | exact h
    | refine Kept.ite ?_ ?_
    | refine kept_modCu (sub hl (by decide)) ?_
    | refine kept_setReg (sub hl (by decide)) ?_
    | dsimp only

theorem kept_ringConfig {b : Nat} {size : Bool} {v : Reg} (hl : [.regs, .evt] ⊆ l) (h : Kept l a s) :
    Kept l a (State.ringConfig s b size v) := by
  unfold State.ringConfig
  with_reducible repeat' first
    | exact h
    | refine Kept.ite ?_ ?_
    | refine kept_setReg (sub hl (by decide)) ?_
    | refine kept_plainWrite (sub hl (by decide)) ?_
    | dsimp only

theorem kept_diagGo {v : Nat} (hl : [.regs, .spdm] ⊆ l) (h : Kept l a s) :
    Kept l a (State.diagGo s v) := by
  unfold State.diagGo
  with_reducible repeat' first
    | exact h
    | refine Kept.ite ?_ ?_
    | refine kept_modSpdm (sub hl (by decide)) ?_
    | refine kept_setReg (sub hl (by decide)) ?_
    | dsimp only

theorem kept_regApply {id : RegId} {v : Reg} (hl : [.free, .mem, .errs, .regs, .clk, .stitch, .ctxs, .hsync, .bays, .panels, .cus, .mus, .rtrs, .host, .evt, .claims, .hbm, .sites, .twin, .sup, .rel, .store, .fuses, .spdm] ⊆ l) (h : Kept l a s) :
    Kept l a (State.regApply s id v) := by
  unfold State.regApply
  with_reducible repeat' first
    | exact h
    | refine Kept.ite ?_ ?_
    | refine kept_hostVersion (sub hl (by decide)) ?_
    | refine kept_mboxDoorbell (sub hl (by decide)) ?_
    | refine kept_dmaResWrite (sub hl (by decide)) ?_
    | refine kept_msixWrite (sub hl (by decide)) ?_
    | refine kept_ringEnable (sub hl (by decide)) ?_
    | refine kept_ringHeadWrite (sub hl (by decide)) ?_
    | refine kept_srcWrite (sub hl (by decide)) ?_
    | refine kept_hsyncWrite (sub hl (by decide)) ?_
    | refine kept_waitWrite (sub hl (by decide)) ?_
    | refine kept_stitchCtrl (sub hl (by decide)) ?_
    | refine kept_modeStage (sub hl (by decide)) ?_
    | refine kept_deviceReset (sub hl (by decide)) ?_
    | refine kept_diagGo (sub hl (by decide)) ?_
    | refine kept_ringConfig (sub hl (by decide)) ?_
    | refine kept_launchWrite (sub hl (by decide)) ?_
    | refine kept_seedWrite (sub hl (by decide)) ?_
    | refine kept_qpTail (sub hl (by decide)) ?_
    | refine kept_qpHead (sub hl (by decide)) ?_
    | refine kept_dmaTailWrite (sub hl (by decide)) ?_
    | refine kept_dmaRestartCmd (sub hl (by decide)) ?_
    | refine kept_claimDone (sub hl (by decide)) ?_
    | refine kept_setReg (sub hl (by decide)) ?_
    | refine kept_plainWrite (sub hl (by decide)) ?_
    | refine Kept.foldl ?_ ?_
    | split
    | intro _ _ _ _
    | intro _ _ _
    | intro _ _
    | intro _
    | dsimp only

theorem kept_regParts {id : RegId} {part : Part} {v : Reg} (hl : [.free, .mem, .errs, .regs, .clk, .stitch, .ctxs, .hsync, .bays, .panels, .cus, .mus, .rtrs, .host, .evt, .claims, .hbm, .sites, .twin, .sup, .rel, .store, .fuses, .spdm] ⊆ l) (h : Kept l a s) :
    Kept l a (State.regParts s id part v) := by
  unfold State.regParts
  with_reducible repeat' first
    | exact h
    | refine Kept.ite ?_ ?_
    | refine kept_regApply (sub hl (by decide)) ?_
    | refine kept_modHost (sub hl (by decide)) ?_
    | refine Kept.foldl ?_ ?_
    | split
    | intro _ _ _ _
    | intro _ _ _
    | intro _ _
    | intro _
    | dsimp only

theorem kept_regWrite {path : Path} {id : RegId} {part : Part} {v : Reg} (hl : [.free, .mem, .errs, .regs, .clk, .stitch, .ctxs, .hsync, .bays, .panels, .cus, .mus, .rtrs, .host, .evt, .claims, .hbm, .sites, .twin, .sup, .rel, .store, .fuses, .spdm] ⊆ l) (h : Kept l a s) :
    Kept l a (State.regWrite s path id part v) := by
  unfold State.regWrite
  with_reducible repeat' first
    | exact h
    | refine Kept.ite ?_ ?_
    | refine kept_pathFault (sub hl (by decide)) ?_
    | refine kept_regParts (sub hl (by decide)) ?_
    | refine Kept.foldl ?_ ?_
    | split
    | intro _ _ _ _
    | intro _ _ _
    | intro _ _
    | intro _
    | dsimp only

theorem kept_byPath {path : Path} {f : State → State} (hl : [] ⊆ l) (h : Kept l a s) (hf : ∀ v0, Kept l a v0 → Kept l a (f v0)) :
    Kept l a (State.byPath s path f) := by
  unfold State.byPath
  with_reducible repeat' first
    | exact h
    | assumption
    | refine hf _ ?_
    | refine Kept.ite ?_ ?_
    | refine kept_viaPort (sub hl (by decide)) ?_ ?_
    | dsimp only

theorem kept_unsupported (hl : [.host] ⊆ l) (h : Kept l a s) :
    Kept l a (State.unsupported s) := by
  unfold State.unsupported
  with_reducible repeat' first
    | exact h
    | assumption
    | refine Kept.ite ?_ ?_
    | refine kept_viaPort (sub hl (by decide)) ?_ ?_
    | refine kept_modHost (sub hl (by decide)) ?_
    | refine Kept.foldl ?_ ?_
    | (split; rename_i e; have e0 := congrArg (fun p => p.1) e; have e1 := congrArg (fun p => p.2) e; dsimp only at e0 e1; subst e0; subst e1)
    | (split; rename_i e; have e0 := congrArg (fun p => p.2) e; dsimp only at e0; subst e0)
    | split
    | (refine Kept.of_snd (by assumption) ?_)
    | intro _ _ _ _
    | intro _ _ _
    | intro _ _
    | intro _
    | dsimp only

theorem kept_onStream {path : Path} {posted : Bool} {f : Path → State → State} (hl : [.host] ⊆ l) (h : Kept l a s) (hf : ∀ v0 v1, Kept l a v1 → Kept l a (f v0 v1)) :
    Kept l a (State.onStream s path posted f) := by
  unfold State.onStream
  with_reducible repeat' first
    | exact h
    | assumption
    | refine hf _ _ ?_
    | refine Kept.ite ?_ ?_
    | refine kept_unsupported (sub hl (by decide)) ?_
    | refine Kept.foldl ?_ ?_
    | split
    | intro _ _ _ _
    | intro _ _ _
    | intro _ _
    | intro _
    | dsimp only

theorem kept_regTime {x0 : RegId} (hl : [.regs, .bays] ⊆ l) (h : Kept l a s) :
    Kept l a (State.regTime s x0) := by
  unfold State.regTime
  with_reducible repeat' first
    | exact h
    | refine Kept.ite ?_ ?_
    | refine kept_bayTime (sub hl (by decide)) ?_
    | refine Kept.foldl ?_ ?_
    | split
    | intro _ _ _ _
    | intro _ _ _
    | intro _ _
    | intro _
    | dsimp only

theorem kept_postWrite {path : Path} {id : RegId} {part : Part} {v : Reg} (hl : [.free, .mem, .errs, .regs, .clk, .stitch, .ctxs, .hsync, .bays, .panels, .cus, .mus, .rtrs, .host, .evt, .claims, .hbm, .sites, .twin, .sup, .rel, .store, .fuses, .spdm] ⊆ l) (h : Kept l a s) :
    Kept l a (State.postWrite s path id part v) := by
  unfold State.postWrite
  with_reducible repeat' first
    | exact h
    | assumption
    | refine Kept.ite ?_ ?_
    | refine kept_bar2Write (sub hl (by decide)) ?_ ?_
    | refine kept_regWrite (sub hl (by decide)) ?_
    | refine kept_byPath (sub hl (by decide)) ?_ ?_
    | refine kept_regTime (sub hl (by decide)) ?_
    | refine Kept.foldl ?_ ?_
    | refine Kept.foldl₂ ?_ ?_
    | refine Kept.foldl₁ ?_ ?_
    | (split; rename_i e; have e0 := congrArg (fun p => p.1) e; have e1 := congrArg (fun p => p.2.1) e; have e2 := congrArg (fun p => p.2.2.1) e; have e3 := congrArg (fun p => p.2.2.2) e; dsimp only at e0 e1 e2 e3; subst e0; subst e1; subst e2; subst e3)
    | (split; rename_i e; have e0 := congrArg (fun p => p.1) e; have e1 := congrArg (fun p => p.2.1) e; have e2 := congrArg (fun p => p.2.2) e; dsimp only at e0 e1 e2; subst e0; subst e1; subst e2)
    | (split; rename_i e; have e0 := congrArg (fun p => p.1) e; have e1 := congrArg (fun p => p.2) e; dsimp only at e0 e1; subst e0; subst e1)
    | (split; rename_i e; have e0 := congrArg (fun p => p.2) e; dsimp only at e0; subst e0)
    | (split; rename_i e; have e0 := congrArg (fun p => p.1) e; dsimp only at e0; subst e0)
    | split
    | (refine Kept.of_snd (by assumption) ?_)
    | intro _ _ _ _
    | intro _ _ _
    | intro _ _
    | intro _
    | dsimp only

theorem runs_execRegisterWrite {t : Nat} {path : Path} {id : RegId} {part : Part} {v : Reg} {s0 : State} (hl : [.free, .mem, .errs, .regs, .clk, .stitch, .ctxs, .hsync, .bays, .panels, .cus, .mus, .rtrs, .host, .evt, .claims, .hbm, .sites, .twin, .sup, .rel, .store, .fuses, .spdm] ⊆ l) :
    Runs l s0 (execRegisterWrite t path id part v s0) := by
  unfold execRegisterWrite
  have h := Kept.refl l s0
  with_reducible repeat' first
    | exact h
    | refine Runs.next ?_
    | assumption
    | refine Kept.ite ?_ ?_
    | refine kept_onStream (sub hl (by decide)) ?_ ?_
    | refine kept_masterTime (sub hl (by decide)) ?_
    | refine kept_postWrite (sub hl (by decide)) ?_
    | refine Kept.foldl ?_ ?_
    | refine Kept.foldl₂ ?_ ?_
    | refine Kept.foldl₁ ?_ ?_
    | (split; rename_i e; have e0 := congrArg (fun p => p.1) e; have e1 := congrArg (fun p => p.2.1) e; have e2 := congrArg (fun p => p.2.2.1) e; have e3 := congrArg (fun p => p.2.2.2) e; dsimp only at e0 e1 e2 e3; subst e0; subst e1; subst e2; subst e3)
    | (split; rename_i e; have e0 := congrArg (fun p => p.1) e; have e1 := congrArg (fun p => p.2.1) e; have e2 := congrArg (fun p => p.2.2) e; dsimp only at e0 e1 e2; subst e0; subst e1; subst e2)
    | (split; rename_i e; have e0 := congrArg (fun p => p.1) e; have e1 := congrArg (fun p => p.2) e; dsimp only at e0 e1; subst e0; subst e1)
    | (split; rename_i e; have e0 := congrArg (fun p => p.2) e; dsimp only at e0; subst e0)
    | (split; rename_i e; have e0 := congrArg (fun p => p.1) e; dsimp only at e0; subst e0)
    | split
    | (refine Kept.of_snd (by assumption) ?_)
    | intro _ _ _ _
    | intro _ _ _
    | intro _ _
    | intro _
    | dsimp only

theorem runs_execDiagGo {t : Nat} {path : Path} {v : Reg} {s0 : State} (hl : [.free, .mem, .errs, .regs, .clk, .stitch, .ctxs, .hsync, .bays, .panels, .cus, .mus, .rtrs, .host, .evt, .claims, .hbm, .sites, .twin, .sup, .rel, .store, .fuses, .spdm] ⊆ l) :
    Runs l s0 (execDiagGo t path v s0) := by
  unfold execDiagGo
  have h := Kept.refl l s0
  with_reducible repeat' first
    | exact h
    | refine Runs.next ?_
    | assumption
    | refine Kept.ite ?_ ?_
    | refine kept_onStream (sub hl (by decide)) ?_ ?_
    | refine kept_masterTime (sub hl (by decide)) ?_
    | refine kept_postWrite (sub hl (by decide)) ?_
    | refine Kept.foldl ?_ ?_
    | refine Kept.foldl₂ ?_ ?_
    | refine Kept.foldl₁ ?_ ?_
    | (split; rename_i e; have e0 := congrArg (fun p => p.1) e; have e1 := congrArg (fun p => p.2.1) e; have e2 := congrArg (fun p => p.2.2.1) e; have e3 := congrArg (fun p => p.2.2.2) e; dsimp only at e0 e1 e2 e3; subst e0; subst e1; subst e2; subst e3)
    | (split; rename_i e; have e0 := congrArg (fun p => p.1) e; have e1 := congrArg (fun p => p.2.1) e; have e2 := congrArg (fun p => p.2.2) e; dsimp only at e0 e1 e2; subst e0; subst e1; subst e2)
    | (split; rename_i e; have e0 := congrArg (fun p => p.1) e; have e1 := congrArg (fun p => p.2) e; dsimp only at e0 e1; subst e0; subst e1)
    | (split; rename_i e; have e0 := congrArg (fun p => p.2) e; dsimp only at e0; subst e0)
    | (split; rename_i e; have e0 := congrArg (fun p => p.1) e; dsimp only at e0; subst e0)
    | split
    | (refine Kept.of_snd (by assumption) ?_)
    | intro _ _ _ _
    | intro _ _ _
    | intro _ _
    | intro _
    | dsimp only

theorem kept_rcTake {host : Bool} {id : RegId} {m : Reg} (hl : [.regs] ⊆ l) (h : Kept l a s) :
    Kept l a (State.rcTake s host id m).2 := by
  unfold State.rcTake
  repeat' first
    | with_reducible exact h
    | with_reducible refine Kept.ite ?_ ?_
    | with_reducible refine kept_setReg (sub hl (by decide)) ?_
    | with_reducible refine Kept.foldl ?_ ?_
    | split
    | (intro k hk; cases k <;> first | exact absurd (hl (by decide)) hk | rfl | exact ⟨rfl, rfl⟩)
    | (simp only [kept_lit]; refine KeptUpd.intro ?_ ?_ ⟨rfl, rfl, rfl⟩)
    | intro _ _ _ _
    | intro _ _ _
    | intro _ _
    | intro _
    | dsimp only

theorem kept_vminTaken {b : Nat} (hl : [.regs, .bays] ⊆ l) (h : Kept l a s) :
    Kept l a (State.vminTaken s b).2 := by
  unfold State.vminTaken
  repeat' first
    | with_reducible exact h
    | with_reducible refine Kept.ite ?_ ?_
    | with_reducible refine kept_setReg (sub hl (by decide)) ?_
    | with_reducible refine kept_modBay (sub hl (by decide)) ?_
    | with_reducible refine Kept.foldl ?_ ?_
    | split
    | (intro k hk; cases k <;> first | exact absurd (hl (by decide)) hk | rfl | exact ⟨rfl, rfl⟩)
    | (simp only [kept_lit]; refine KeptUpd.intro ?_ ?_ ⟨rfl, rfl, rfl⟩)
    | intro _ _ _ _
    | intro _ _ _
    | intro _ _
    | intro _
    | dsimp only

theorem kept_seamTaken {b : Nat} (hl : [.regs] ⊆ l) (h : Kept l a s) :
    Kept l a (State.seamTaken s b).2 := by
  unfold State.seamTaken
  with_reducible repeat' first
    | exact h
    | refine Kept.ite ?_ ?_
    | refine kept_rcTake (sub hl (by decide)) ?_
    | refine kept_modReg (sub hl (by decide)) ?_
    | dsimp only

theorem kept_regTake {host : Bool} {id : RegId} (hl : [.regs, .clk, .bays, .claims] ⊆ l) (h : Kept l a s) :
    Kept l a (State.regTake s host id).2 := by
  unfold State.regTake
  with_reducible repeat' first
    | exact h
    | assumption
    | refine Kept.ite ?_ ?_
    | refine kept_claimRead (sub hl (by decide)) ?_
    | refine kept_latchNs (sub hl (by decide)) ?_
    | refine kept_vminTaken (sub hl (by decide)) ?_
    | refine kept_seamTaken (sub hl (by decide)) ?_
    | refine kept_rcTake (sub hl (by decide)) ?_
    | refine Kept.foldl ?_ ?_
    | refine Kept.foldl₂ ?_ ?_
    | refine Kept.foldl₁ ?_ ?_
    | (split; rename_i e; have e0 := congrArg (fun p => p.1) e; have e1 := congrArg (fun p => p.2.1) e; have e2 := congrArg (fun p => p.2.2.1) e; have e3 := congrArg (fun p => p.2.2.2) e; dsimp only at e0 e1 e2 e3; subst e0; subst e1; subst e2; subst e3)
    | (split; rename_i e; have e0 := congrArg (fun p => p.1) e; have e1 := congrArg (fun p => p.2.1) e; have e2 := congrArg (fun p => p.2.2) e; dsimp only at e0 e1 e2; subst e0; subst e1; subst e2)
    | (split; rename_i e; have e0 := congrArg (fun p => p.1) e; have e1 := congrArg (fun p => p.2) e; dsimp only at e0 e1; subst e0; subst e1)
    | (split; rename_i e; have e0 := congrArg (fun p => p.2) e; dsimp only at e0; subst e0)
    | (split; rename_i e; have e0 := congrArg (fun p => p.1) e; dsimp only at e0; subst e0)
    | split
    | (refine Kept.of_snd (by assumption) ?_)
    | intro _ _ _ _
    | intro _ _ _
    | intro _ _
    | intro _
    | dsimp only

theorem kept_regPart {host : Bool} {id : RegId} {part : Part} (hl : [.regs, .clk, .bays, .host, .claims] ⊆ l) (h : Kept l a s) :
    Kept l a (State.regPart s host id part).2 := by
  unfold State.regPart
  with_reducible repeat' first
    | exact h
    | refine Kept.ite ?_ ?_
    | refine kept_regTake (sub hl (by decide)) ?_
    | refine kept_modHost (sub hl (by decide)) ?_
    | refine kept_rcTake (sub hl (by decide)) ?_
    | refine Kept.foldl ?_ ?_
    | split
    | intro _ _ _ _
    | intro _ _ _
    | intro _ _
    | intro _
    | dsimp only

theorem kept_regRead {path : Path} {id : RegId} {part : Part} (hl : [.regs, .clk, .bays, .host, .evt, .claims] ⊆ l) (h : Kept l a s) :
    Kept l a (State.regRead s path id part).2 := by
  unfold State.regRead
  with_reducible repeat' first
    | exact h
    | refine Kept.ite ?_ ?_
    | refine kept_pathFault (sub hl (by decide)) ?_
    | refine kept_regPart (sub hl (by decide)) ?_
    | refine Kept.foldl ?_ ?_
    | split
    | intro _ _ _ _
    | intro _ _ _
    | intro _ _
    | intro _
    | dsimp only

theorem kept_answered {n : Nat} {v : Reg} (hl : [.host] ⊆ l) (h : Kept l a s) :
    Kept l a (State.answered s n v) := by
  unfold State.answered
  with_reducible repeat' first
    | exact h
    | refine Kept.ite ?_ ?_
    | refine kept_modHost (sub hl (by decide)) ?_
    | dsimp only

theorem kept_readCmd {path : Path} {id : RegId} {part : Part} (hl : [.regs, .clk, .bays, .host, .evt, .claims] ⊆ l) (h : Kept l a s) :
    Kept l a (State.readCmd s path id part) := by
  unfold State.readCmd
  with_reducible repeat' first
    | exact h
    | assumption
    | refine Kept.ite ?_ ?_
    | refine kept_byPath (sub hl (by decide)) ?_ ?_
    | refine kept_regRead (sub hl (by decide)) ?_
    | refine kept_answered (sub hl (by decide)) ?_
    | refine Kept.foldl ?_ ?_
    | (split; rename_i e; have e0 := congrArg (fun p => p.1) e; have e1 := congrArg (fun p => p.2) e; dsimp only at e0 e1; subst e0; subst e1)
    | (split; rename_i e; have e0 := congrArg (fun p => p.2) e; dsimp only at e0; subst e0)
    | split
    | (refine Kept.of_snd (by assumption) ?_)
    | intro _ _ _ _
    | intro _ _ _
    | intro _ _
    | intro _
    | dsimp only

theorem runs_execRegisterReadClear {t : Nat} {path : Path} {id : RegId} {part : Part} {s0 : State} (hl : [.regs, .clk, .bays, .host, .evt, .claims] ⊆ l) :
    Runs l s0 (execRegisterReadClear t path id part s0) := by
  unfold execRegisterReadClear
  have h := Kept.refl l s0
  with_reducible repeat' first
    | exact h
    | refine Runs.next ?_
    | assumption
    | refine Kept.ite ?_ ?_
    | refine kept_onStream (sub hl (by decide)) ?_ ?_
    | refine kept_masterTime (sub hl (by decide)) ?_
    | refine kept_readCmd (sub hl (by decide)) ?_
    | refine Kept.foldl ?_ ?_
    | refine Kept.foldl₂ ?_ ?_
    | refine Kept.foldl₁ ?_ ?_
    | (split; rename_i e; have e0 := congrArg (fun p => p.1) e; have e1 := congrArg (fun p => p.2.1) e; have e2 := congrArg (fun p => p.2.2.1) e; have e3 := congrArg (fun p => p.2.2.2) e; dsimp only at e0 e1 e2 e3; subst e0; subst e1; subst e2; subst e3)
    | (split; rename_i e; have e0 := congrArg (fun p => p.1) e; have e1 := congrArg (fun p => p.2.1) e; have e2 := congrArg (fun p => p.2.2) e; dsimp only at e0 e1 e2; subst e0; subst e1; subst e2)
    | (split; rename_i e; have e0 := congrArg (fun p => p.1) e; have e1 := congrArg (fun p => p.2) e; dsimp only at e0 e1; subst e0; subst e1)
    | (split; rename_i e; have e0 := congrArg (fun p => p.2) e; dsimp only at e0; subst e0)
    | (split; rename_i e; have e0 := congrArg (fun p => p.1) e; dsimp only at e0; subst e0)
    | split
    | (refine Kept.of_snd (by assumption) ?_)
    | intro _ _ _ _
    | intro _ _ _
    | intro _ _
    | intro _
    | dsimp only

theorem runs_execRegister64LowRead {t : Nat} {path : Path} {id : RegId} {s0 : State} (hl : [.regs, .clk, .bays, .host, .evt, .claims] ⊆ l) :
    Runs l s0 (execRegister64LowRead t path id s0) := by
  unfold execRegister64LowRead
  have h := Kept.refl l s0
  with_reducible repeat' first
    | exact h
    | refine Runs.next ?_
    | assumption
    | refine Kept.ite ?_ ?_
    | refine kept_onStream (sub hl (by decide)) ?_ ?_
    | refine kept_masterTime (sub hl (by decide)) ?_
    | refine kept_readCmd (sub hl (by decide)) ?_
    | refine Kept.foldl ?_ ?_
    | refine Kept.foldl₂ ?_ ?_
    | refine Kept.foldl₁ ?_ ?_
    | (split; rename_i e; have e0 := congrArg (fun p => p.1) e; have e1 := congrArg (fun p => p.2.1) e; have e2 := congrArg (fun p => p.2.2.1) e; have e3 := congrArg (fun p => p.2.2.2) e; dsimp only at e0 e1 e2 e3; subst e0; subst e1; subst e2; subst e3)
    | (split; rename_i e; have e0 := congrArg (fun p => p.1) e; have e1 := congrArg (fun p => p.2.1) e; have e2 := congrArg (fun p => p.2.2) e; dsimp only at e0 e1 e2; subst e0; subst e1; subst e2)
    | (split; rename_i e; have e0 := congrArg (fun p => p.1) e; have e1 := congrArg (fun p => p.2) e; dsimp only at e0 e1; subst e0; subst e1)
    | (split; rename_i e; have e0 := congrArg (fun p => p.2) e; dsimp only at e0; subst e0)
    | (split; rename_i e; have e0 := congrArg (fun p => p.1) e; dsimp only at e0; subst e0)
    | split
    | (refine Kept.of_snd (by assumption) ?_)
    | intro _ _ _ _
    | intro _ _ _
    | intro _ _
    | intro _
    | dsimp only

theorem runs_execVminRead {t : Nat} {path : Path} {b : Nat} {s0 : State} (hl : [.regs, .clk, .bays, .host, .evt, .claims] ⊆ l) :
    Runs l s0 (execVminRead t path b s0) := by
  unfold execVminRead
  have h := Kept.refl l s0
  with_reducible repeat' first
    | exact h
    | refine Runs.next ?_
    | assumption
    | refine Kept.ite ?_ ?_
    | refine kept_onStream (sub hl (by decide)) ?_ ?_
    | refine kept_bayTime (sub hl (by decide)) ?_
    | refine kept_readCmd (sub hl (by decide)) ?_
    | refine Kept.foldl ?_ ?_
    | refine Kept.foldl₂ ?_ ?_
    | refine Kept.foldl₁ ?_ ?_
    | (split; rename_i e; have e0 := congrArg (fun p => p.1) e; have e1 := congrArg (fun p => p.2.1) e; have e2 := congrArg (fun p => p.2.2.1) e; have e3 := congrArg (fun p => p.2.2.2) e; dsimp only at e0 e1 e2 e3; subst e0; subst e1; subst e2; subst e3)
    | (split; rename_i e; have e0 := congrArg (fun p => p.1) e; have e1 := congrArg (fun p => p.2.1) e; have e2 := congrArg (fun p => p.2.2) e; dsimp only at e0 e1 e2; subst e0; subst e1; subst e2)
    | (split; rename_i e; have e0 := congrArg (fun p => p.1) e; have e1 := congrArg (fun p => p.2) e; dsimp only at e0 e1; subst e0; subst e1)
    | (split; rename_i e; have e0 := congrArg (fun p => p.2) e; dsimp only at e0; subst e0)
    | (split; rename_i e; have e0 := congrArg (fun p => p.1) e; dsimp only at e0; subst e0)
    | split
    | (refine Kept.of_snd (by assumption) ?_)
    | intro _ _ _ _
    | intro _ _ _
    | intro _ _
    | intro _
    | dsimp only

theorem kept_readParts {path : Path} {x0 : List (RegId × Part)} (hl : [.regs, .clk, .bays, .host, .evt, .claims] ⊆ l) (h : Kept l a s) :
    Kept l a (State.readParts s path x0).2 := by
  induction x0 generalizing s path with
  | nil =>
    unfold State.readParts
    with_reducible repeat' first
      | exact h
      | dsimp only
  | cons y ys ih =>
    unfold State.readParts
    with_reducible repeat' first
      | exact h
      | refine ih ?_
      | refine Kept.ite ?_ ?_
      | refine kept_regRead (sub hl (by decide)) ?_
      | dsimp only

theorem kept_writeParts {path : Path} {v : Nat} {x0 : List (RegId × Part)} (hl : [.free, .mem, .errs, .regs, .clk, .stitch, .ctxs, .hsync, .bays, .panels, .cus, .mus, .rtrs, .host, .evt, .claims, .hbm, .sites, .twin, .sup, .rel, .store, .fuses, .spdm] ⊆ l) (h : Kept l a s) :
    Kept l a (State.writeParts s path v x0) := by
  induction x0 generalizing s path v with
  | nil =>
    unfold State.writeParts
    with_reducible repeat' first
      | exact h
      | dsimp only
  | cons y ys ih =>
    unfold State.writeParts
    with_reducible repeat' first
      | exact h
      | refine ih ?_
      | refine Kept.ite ?_ ?_
      | refine kept_postWrite (sub hl (by decide)) ?_
      | dsimp only

theorem kept_access {path : Path} {o : Nat} {size : Nat} {write : Bool} {v : Reg} (hl : [.free, .mem, .errs, .regs, .clk, .stitch, .ctxs, .hsync, .bays, .panels, .cus, .mus, .rtrs, .host, .evt, .claims, .hbm, .sites, .twin, .sup, .rel, .store, .fuses, .spdm] ⊆ l) (h : Kept l a s) :
    Kept l a (State.access s path o size write v) := by
  unfold State.access
  with_reducible repeat' first
    | exact h
    | refine Kept.ite ?_ ?_
    | refine kept_pathFault (sub hl (by decide)) ?_
    | refine kept_modHost (sub hl (by decide)) ?_
    | refine kept_writeParts (sub hl (by decide)) ?_
    | refine kept_readParts (sub hl (by decide)) ?_
    | refine Kept.foldl ?_ ?_
    | split
    | intro _ _ _ _
    | intro _ _ _
    | intro _ _
    | intro _
    | dsimp only

theorem runs_execControlSpaceAccess {t : Nat} {path : Path} {offset : Nat} {size : Nat} {write : Bool} {v : Reg} {s0 : State} (hl : [.free, .mem, .errs, .regs, .clk, .stitch, .ctxs, .hsync, .bays, .panels, .cus, .mus, .rtrs, .host, .evt, .claims, .hbm, .sites, .twin, .sup, .rel, .store, .fuses, .spdm] ⊆ l) :
    Runs l s0 (execControlSpaceAccess t path offset size write v s0) := by
  unfold execControlSpaceAccess
  have h := Kept.refl l s0
  with_reducible repeat' first
    | exact h
    | refine Runs.next ?_
    | assumption
    | refine Kept.ite ?_ ?_
    | refine kept_onStream (sub hl (by decide)) ?_ ?_
    | refine kept_masterTime (sub hl (by decide)) ?_
    | refine kept_byPath (sub hl (by decide)) ?_ ?_
    | refine kept_access (sub hl (by decide)) ?_
    | refine Kept.foldl ?_ ?_
    | refine Kept.foldl₂ ?_ ?_
    | refine Kept.foldl₁ ?_ ?_
    | (split; rename_i e; have e0 := congrArg (fun p => p.1) e; have e1 := congrArg (fun p => p.2.1) e; have e2 := congrArg (fun p => p.2.2.1) e; have e3 := congrArg (fun p => p.2.2.2) e; dsimp only at e0 e1 e2 e3; subst e0; subst e1; subst e2; subst e3)
    | (split; rename_i e; have e0 := congrArg (fun p => p.1) e; have e1 := congrArg (fun p => p.2.1) e; have e2 := congrArg (fun p => p.2.2) e; dsimp only at e0 e1 e2; subst e0; subst e1; subst e2)
    | (split; rename_i e; have e0 := congrArg (fun p => p.1) e; have e1 := congrArg (fun p => p.2) e; dsimp only at e0 e1; subst e0; subst e1)
    | (split; rename_i e; have e0 := congrArg (fun p => p.2) e; dsimp only at e0; subst e0)
    | (split; rename_i e; have e0 := congrArg (fun p => p.1) e; dsimp only at e0; subst e0)
    | split
    | (refine Kept.of_snd (by assumption) ?_)
    | intro _ _ _ _
    | intro _ _ _
    | intro _ _
    | intro _
    | dsimp only

theorem kept_bar4Do {o : Nat} {write : Bool} {len : Nat} {data : List Byte} (hl : [.free, .mem, .errs, .regs, .ctxs, .bays, .host, .evt, .hbm, .twin, .rel] ⊆ l) (h : Kept l a s) :
    Kept l a (State.bar4Do s o write len data) := by
  unfold State.bar4Do
  with_reducible repeat' first
    | exact h
    | refine Kept.ite ?_ ?_
    | refine kept_modHost (sub hl (by decide)) ?_
    | refine kept_pathFault (sub hl (by decide)) ?_
    | refine kept_hostPut (sub hl (by decide)) ?_
    | refine kept_hbmReadBytes (sub hl (by decide)) ?_
    | refine Kept.foldl ?_ ?_
    | split
    | intro _ _ _ _
    | intro _ _ _
    | intro _ _
    | intro _
    | dsimp only

theorem kept_heldDo {x0 : Held} (hl : [.free, .mem, .errs, .regs, .clk, .stitch, .ctxs, .hsync, .bays, .panels, .cus, .mus, .rtrs, .host, .evt, .claims, .hbm, .sites, .twin, .sup, .rel, .store, .fuses, .spdm] ⊆ l) (h : Kept l a s) :
    KeptS l a (State.heldDo s x0) := by
  unfold State.heldDo
  with_reducible repeat' first
    | exact h
    | refine Kept.ite ?_ ?_
    | refine kept_bar4Do (sub hl (by decide)) ?_
    | refine kept_regWrite (sub hl (by decide)) ?_
    | exact KeptO.none
    | refine KeptO.some ?_
    | refine KeptO.ite ?_ ?_
    | exact KeptS.none
    | refine KeptS.some ?_
    | refine KeptS.getD ?_ ?_
    | refine Kept.foldl ?_ ?_
    | split
    | intro _ _ _ _
    | intro _ _ _
    | intro _ _
    | intro _
    | dsimp only

theorem kept_drainList {x0 : List Held} (hl : [.free, .mem, .errs, .regs, .clk, .stitch, .ctxs, .hsync, .bays, .panels, .cus, .mus, .rtrs, .host, .evt, .claims, .hbm, .sites, .twin, .sup, .rel, .store, .fuses, .spdm] ⊆ l) (h : Kept l a s) :
    Kept l a (State.drainList s x0) := by
  induction x0 generalizing s with
  | nil =>
    unfold State.drainList
    with_reducible repeat' first
      | exact h
      | assumption
      | refine Kept.ite ?_ ?_
      | refine kept_modHost (sub hl (by decide)) ?_
      | refine kept_heldDo (sub hl (by decide)) ?_
      | exact KeptO.none
      | refine KeptO.some ?_
      | refine KeptO.ite ?_ ?_
      | exact KeptS.none
      | refine KeptS.some ?_
      | refine KeptS.getD ?_ ?_
      | refine Kept.foldl ?_ ?_
      | (split; rename_i e; have e0 := congrArg (fun p => p.1) e; have e1 := congrArg (fun p => p.2) e; dsimp only at e0 e1; subst e0; subst e1)
      | (split; rename_i e; have e0 := congrArg (fun p => p.2) e; dsimp only at e0; subst e0)
      | split
      | (refine Kept.of_snd (by assumption) ?_)
      | (refine KeptO.of (by assumption) ?_)
      | (refine KeptS.of (by assumption) ?_)
      | intro _ _ _ _
      | intro _ _ _
      | intro _ _
      | intro _
      | dsimp only
  | cons y ys ih =>
    unfold State.drainList
    with_reducible repeat' first
      | exact h
      | refine ih ?_
      | assumption
      | refine Kept.ite ?_ ?_
      | refine kept_modHost (sub hl (by decide)) ?_
      | refine kept_heldDo (sub hl (by decide)) ?_
      | exact KeptO.none
      | refine KeptO.some ?_
      | refine KeptO.ite ?_ ?_
      | exact KeptS.none
      | refine KeptS.some ?_
      | refine KeptS.getD ?_ ?_
      | refine Kept.foldl ?_ ?_
      | (split; rename_i e; have e0 := congrArg (fun p => p.1) e; have e1 := congrArg (fun p => p.2) e; dsimp only at e0 e1; subst e0; subst e1)
      | (split; rename_i e; have e0 := congrArg (fun p => p.2) e; dsimp only at e0; subst e0)
      | split
      | (refine Kept.of_snd (by assumption) ?_)
      | (refine KeptO.of (by assumption) ?_)
      | (refine KeptS.of (by assumption) ?_)
      | intro _ _ _ _
      | intro _ _ _
      | intro _ _
      | intro _
      | dsimp only

theorem kept_drainHeld (hl : [.free, .mem, .errs, .regs, .clk, .stitch, .ctxs, .hsync, .bays, .panels, .cus, .mus, .rtrs, .host, .evt, .claims, .hbm, .sites, .twin, .sup, .rel, .store, .fuses, .spdm] ⊆ l) (h : Kept l a s) :
    Kept l a (State.drainHeld s) := by
  unfold State.drainHeld
  with_reducible repeat' first
    | exact h
    | assumption
    | refine Kept.ite ?_ ?_
    | refine kept_drainList (sub hl (by decide)) ?_
    | refine Kept.foldl ?_ ?_
    | (split; rename_i e; have e0 := congrArg (fun p => p.1) e; have e1 := congrArg (fun p => p.2) e; dsimp only at e0 e1; subst e0; subst e1)
    | (split; rename_i e; have e0 := congrArg (fun p => p.2) e; dsimp only at e0; subst e0)
    | split
    | (refine Kept.of_snd (by assumption) ?_)
    | intro _ _ _ _
    | intro _ _ _
    | intro _ _
    | intro _
    | dsimp only

theorem kept_holdBar4 {o : Nat} {write : Bool} {len : Nat} {data : List Byte} (hl : [.host] ⊆ l) (h : Kept l a s) :
    Kept l a (State.holdBar4 s o write len data) := by
  unfold State.holdBar4
  with_reducible repeat' first
    | exact h
    | refine Kept.ite ?_ ?_
    | refine kept_modHost (sub hl (by decide)) ?_
    | dsimp only

theorem kept_bar4 {o : Nat} {write : Bool} {len : Nat} {data : List Byte} (hl : [.free, .mem, .errs, .regs, .clk, .stitch, .ctxs, .hsync, .bays, .panels, .cus, .mus, .rtrs, .host, .evt, .claims, .hbm, .sites, .twin, .sup, .rel, .store, .fuses, .spdm] ⊆ l) (h : Kept l a s) :
    Kept l a (State.bar4 s o write len data) := by
  unfold State.bar4
  with_reducible repeat' first
    | exact h
    | refine Kept.ite ?_ ?_
    | refine kept_holdBar4 (sub hl (by decide)) ?_
    | refine kept_bar4Do (sub hl (by decide)) ?_
    | refine kept_drainHeld (sub hl (by decide)) ?_
    | refine kept_holdWrite (sub hl (by decide)) ?_
    | refine Kept.foldl ?_ ?_
    | split
    | intro _ _ _ _
    | intro _ _ _
    | intro _ _
    | intro _
    | dsimp only

theorem runs_execBar4Access {t : Nat} {offset : Nat} {kind : Tlp} {len : Nat} {data : List Byte} {s0 : State} (hl : [.free, .mem, .errs, .regs, .clk, .stitch, .ctxs, .hsync, .bays, .panels, .cus, .mus, .rtrs, .host, .evt, .claims, .hbm, .sites, .twin, .sup, .rel, .store, .fuses, .spdm] ⊆ l) :
    Runs l s0 (execBar4Access t offset kind len data s0) := by
  unfold execBar4Access
  have h := Kept.refl l s0
  with_reducible repeat' first
    | exact h
    | refine Runs.next ?_
    | assumption
    | refine Kept.ite ?_ ?_
    | refine kept_onStream (sub hl (by decide)) ?_ ?_
    | refine kept_masterTime (sub hl (by decide)) ?_
    | refine kept_viaPort (sub hl (by decide)) ?_ ?_
    | refine kept_bar4 (sub hl (by decide)) ?_
    | refine Kept.foldl ?_ ?_
    | refine Kept.foldl₂ ?_ ?_
    | refine Kept.foldl₁ ?_ ?_
    | (split; rename_i e; have e0 := congrArg (fun p => p.1) e; have e1 := congrArg (fun p => p.2.1) e; have e2 := congrArg (fun p => p.2.2.1) e; have e3 := congrArg (fun p => p.2.2.2) e; dsimp only at e0 e1 e2 e3; subst e0; subst e1; subst e2; subst e3)
    | (split; rename_i e; have e0 := congrArg (fun p => p.1) e; have e1 := congrArg (fun p => p.2.1) e; have e2 := congrArg (fun p => p.2.2) e; dsimp only at e0 e1 e2; subst e0; subst e1; subst e2)
    | (split; rename_i e; have e0 := congrArg (fun p => p.1) e; have e1 := congrArg (fun p => p.2) e; dsimp only at e0 e1; subst e0; subst e1)
    | (split; rename_i e; have e0 := congrArg (fun p => p.2) e; dsimp only at e0; subst e0)
    | (split; rename_i e; have e0 := congrArg (fun p => p.1) e; dsimp only at e0; subst e0)
    | split
    | (refine Kept.of_snd (by assumption) ?_)
    | intro _ _ _ _
    | intro _ _ _
    | intro _ _
    | intro _
    | dsimp only

theorem kept_streamNext (hl : [.free, .mem, .errs, .regs, .clk, .stitch, .ctxs, .hsync, .bays, .panels, .cus, .mus, .rtrs, .host, .evt, .claims, .hbm, .sites, .twin, .sup, .rel, .store, .fuses, .spdm] ⊆ l) (h : Kept l a s) :
    Kept l a (State.streamNext s) := by
  unfold State.streamNext
  with_reducible repeat' first
    | exact h
    | refine Kept.ite ?_ ?_
    | refine kept_streamStep (sub hl (by decide)) ?_
    | refine kept_drainHeld (sub hl (by decide)) ?_
    | dsimp only

theorem runs_execCheckpointStream {t : Nat} {s0 : State} (hl : [.free, .mem, .errs, .regs, .clk, .stitch, .ctxs, .hsync, .bays, .panels, .cus, .mus, .rtrs, .host, .evt, .claims, .hbm, .sites, .twin, .sup, .rel, .store, .fuses, .spdm] ⊆ l) :
    Runs l s0 (execCheckpointStream t s0) := by
  unfold execCheckpointStream
  refine Runs.next ?_
  have h := Kept.refl l s0
  with_reducible repeat' first
    | exact h
    | refine Kept.ite ?_ ?_
    | refine kept_streamNext (sub hl (by decide)) ?_
    | refine kept_masterTime (sub hl (by decide)) ?_
    | dsimp only

theorem kept_phaseEnd (hl : [.free, .mem, .errs, .regs, .clk, .stitch, .ctxs, .hsync, .bays, .panels, .cus, .mus, .rtrs, .host, .evt, .claims, .hbm, .sites, .twin, .sup, .rel, .store, .fuses, .spdm] ⊆ l) (h : Kept l a s) :
    Kept l a (State.phaseEnd s) := by
  unfold State.phaseEnd
  with_reducible repeat' first
    | exact h
    | refine Kept.ite ?_ ?_
    | refine kept_commitPhaseEnd (sub hl (by decide)) ?_
    | refine kept_drainHeld (sub hl (by decide)) ?_
    | dsimp only

theorem runs_execCommitPhaseEnd {t : Nat} {s0 : State} (hl : [.free, .mem, .errs, .regs, .clk, .stitch, .ctxs, .hsync, .bays, .panels, .cus, .mus, .rtrs, .host, .evt, .claims, .hbm, .sites, .twin, .sup, .rel, .store, .fuses, .spdm] ⊆ l) :
    Runs l s0 (execCommitPhaseEnd t s0) := by
  unfold execCommitPhaseEnd
  refine Runs.next ?_
  have h := Kept.refl l s0
  with_reducible repeat' first
    | exact h
    | refine Kept.ite ?_ ?_
    | refine kept_phaseEnd (sub hl (by decide)) ?_
    | refine kept_masterTime (sub hl (by decide)) ?_
    | dsimp only

theorem runs_execCuSrSeedWrite {t : Nat} {u : Nat} {v : BitVec 32} {s0 : State} (hl : [.free, .mem, .errs, .regs, .clk, .stitch, .ctxs, .hsync, .bays, .panels, .cus, .mus, .rtrs, .host, .evt, .claims, .hbm, .sites, .twin, .sup, .rel, .store, .fuses, .spdm] ⊆ l) :
    Runs l s0 (execCuSrSeedWrite t u v s0) := by
  unfold execCuSrSeedWrite
  refine Runs.next ?_
  have h := Kept.refl l s0
  with_reducible repeat' first
    | exact h
    | refine Kept.ite ?_ ?_
    | refine kept_regWrite (sub hl (by decide)) ?_
    | refine kept_bayTime (sub hl (by decide)) ?_
    | dsimp only

theorem runs_execTelemetryRingConfig {t : Nat} {b : Nat} {size : Bool} {part : Part} {v : Reg} {s0 : State} (hl : [.free, .mem, .errs, .regs, .clk, .stitch, .ctxs, .hsync, .bays, .panels, .cus, .mus, .rtrs, .host, .evt, .claims, .hbm, .sites, .twin, .sup, .rel, .store, .fuses, .spdm] ⊆ l) :
    Runs l s0 (execTelemetryRingConfig t b size part v s0) := by
  unfold execTelemetryRingConfig
  refine Runs.next ?_
  have h := Kept.refl l s0
  with_reducible repeat' first
    | exact h
    | refine Kept.ite ?_ ?_
    | refine kept_regWrite (sub hl (by decide)) ?_
    | refine kept_bayTime (sub hl (by decide)) ?_
    | dsimp only

theorem runs_execLaunchEntryArm {t : Nat} {b : Nat} {e : Nat} {action : BitVec 32} {s0 : State} (hl : [.free, .mem, .errs, .regs, .clk, .stitch, .ctxs, .hsync, .bays, .panels, .cus, .mus, .rtrs, .host, .evt, .claims, .hbm, .sites, .twin, .sup, .rel, .store, .fuses, .spdm] ⊆ l) :
    Runs l s0 (execLaunchEntryArm t b e action s0) := by
  unfold execLaunchEntryArm
  refine Runs.next ?_
  have h := Kept.refl l s0
  with_reducible repeat' first
    | exact h
    | refine Kept.ite ?_ ?_
    | refine kept_bayTime (sub hl (by decide)) ?_
    | refine kept_regWrite (sub hl (by decide)) ?_
    | dsimp only

theorem runs_execLaunchEntryDisarm {t : Nat} {b : Nat} {e : Nat} {action : BitVec 32} {s0 : State} (hl : [.free, .mem, .errs, .regs, .clk, .stitch, .ctxs, .hsync, .bays, .panels, .cus, .mus, .rtrs, .host, .evt, .claims, .hbm, .sites, .twin, .sup, .rel, .store, .fuses, .spdm] ⊆ l) :
    Runs l s0 (execLaunchEntryDisarm t b e action s0) := by
  unfold execLaunchEntryDisarm
  refine Runs.next ?_
  have h := Kept.refl l s0
  with_reducible repeat' first
    | exact h
    | refine Kept.ite ?_ ?_
    | refine kept_bayTime (sub hl (by decide)) ?_
    | refine kept_regWrite (sub hl (by decide)) ?_
    | dsimp only

end Sys2Proof.Machine
end

