-- ==== Sys2Proof/Laws/KeptRemote.lean ====
section
/-! SUPPORT. What each operation of Machine/Remote.lean may touch, and that it keeps the queue and the invariant. -/

namespace Sys2Proof.Machine

variable {l : List Comp} {a s : State}

theorem kept_takeRegs {x0 : List RegId} (hl : [.regs, .clk, .bays, .claims] ⊆ l) (h : Kept l a s) :
    Kept l a (State.takeRegs s x0).2 := by
  induction x0 generalizing s with
  | nil =>
    unfold State.takeRegs
    with_reducible repeat' first
      | exact h
      | dsimp only
  | cons y ys ih =>
    unfold State.takeRegs
    with_reducible repeat' first
      | exact h
      | refine ih ?_
      | refine Kept.ite ?_ ?_
      | refine kept_regTake (sub hl (by decide)) ?_
      | dsimp only

theorem kept_applyRegs {v : Nat} {x0 : List RegId} (hl : [.free, .mem, .errs, .regs, .clk, .stitch, .ctxs, .hsync, .bays, .panels, .cus, .mus, .rtrs, .host, .evt, .claims, .hbm, .sites, .twin, .sup, .rel, .store, .fuses, .spdm] ⊆ l) (h : Kept l a s) :
    Kept l a (State.applyRegs s v x0) := by
  induction x0 generalizing s v with
  | nil =>
    unfold State.applyRegs
    with_reducible repeat' first
      | exact h
      | dsimp only
  | cons y ys ih =>
    unfold State.applyRegs
    with_reducible repeat' first
      | exact h
      | refine ih ?_
      | refine Kept.ite ?_ ?_
      | refine kept_regApply (sub hl (by decide)) ?_
      | dsimp only

theorem kept_remoteRegs {c : Nat} {o : Nat} {n : Nat} {write : Bool} {who : Sender} {unit : Nat} {data : List Word} (hl : [.free, .mem, .errs, .regs, .clk, .stitch, .ctxs, .hsync, .bays, .panels, .cus, .mus, .rtrs, .host, .evt, .claims, .hbm, .sites, .twin, .sup, .rel, .store, .fuses, .spdm] ⊆ l) (h : Kept l a s) :
    Kept l a (State.remoteRegs s c o n write who unit data).2.2 := by
  unfold State.remoteRegs
  with_reducible repeat' first
    | exact h
    | refine Kept.ite ?_ ?_
    | refine kept_addrFault (sub hl (by decide)) ?_
    | refine kept_applyRegs (sub hl (by decide)) ?_
    | refine kept_takeRegs (sub hl (by decide)) ?_
    | refine Kept.foldl ?_ ?_
    | split
    | intro _ _ _ _
    | intro _ _ _
    | intro _ _
    | intro _
    | dsimp only

theorem kept_serve {p : MeshPacket} {write : Bool} (hl : [.free, .mem, .errs, .regs, .clk, .stitch, .ctxs, .hsync, .bays, .panels, .cus, .mus, .rtrs, .host, .evt, .claims, .hbm, .sites, .twin, .sup, .rel, .store, .fuses, .spdm] ⊆ l) (h : Kept l a s) :
    Kept l a (State.serve s p write).2.2 := by
  unfold State.serve
  with_reducible repeat' first
    | exact h
    | refine Kept.ite ?_ ?_
    | refine kept_remoteRegs (sub hl (by decide)) ?_
    | refine kept_remoteStorage (sub hl (by decide)) ?_
    | refine Kept.foldl ?_ ?_
    | split
    | intro _ _ _ _
    | intro _ _ _
    | intro _ _
    | intro _
    | dsimp only

theorem kept_remoteArrive {p : MeshPacket} (hl : [.free, .mem, .errs, .regs, .clk, .stitch, .ctxs, .hsync, .bays, .panels, .cus, .mus, .rtrs, .host, .evt, .claims, .hbm, .sites, .twin, .sup, .rel, .store, .fuses, .spdm] ⊆ l) (h : Kept l a s) :
    Kept l a (State.remoteArrive s p) := by
  unfold State.remoteArrive
  with_reducible repeat' first
    | exact h
    | assumption
    | refine Kept.ite ?_ ?_
    | refine kept_takeEjected (sub hl (by decide)) ?_
    | refine kept_staleCount (sub hl (by decide)) ?_
    | refine kept_serve (sub hl (by decide)) ?_
    | refine kept_reply (sub hl (by decide)) ?_
    | refine Kept.foldl ?_ ?_
    | refine Kept.foldl₂ ?_ ?_
    | refine Kept.foldl₁ ?_ ?_
    | (split; rename_i e; have e0 := congrArg (fun p => p.1) e; have e1 := congrArg (fun p => p.2.1) e; have e2 := congrArg (fun p => p.2.2.1) e; have e3 := congrArg (fun p => p.2.2.2) e; dsimp only at e0 e1 e2 e3; subst e0; subst e1; subst e2; subst e3)
    | (split; rename_i e; have e0 := congrArg (fun p => p.1) e; have e1 := congrArg (fun p => p.2.1) e; have e2 := congrArg (fun p => p.2.2) e; dsimp only at e0 e1 e2; subst e0; subst e1; subst e2)
    | (split; rename_i e; have e0 := congrArg (fun p => p.1) e; have e1 := congrArg (fun p => p.2) e; dsimp only at e0 e1; subst e0; subst e1)
    | (split; rename_i e; have e0 := congrArg (fun p => p.2) e; dsimp only at e0; subst e0)
    | (split; rename_i e; have e0 := congrArg (fun p => p.1) e; dsimp only at e0; subst e0)
    | split
    | (refine Kept.of_snd (by assumption) ?_)
    | intro _ _ _ _
    | intro _ _ _
    | intro _ _
    | intro _
    | dsimp only

theorem runs_execRemoteAccess {t : Nat} {pkt : MeshPacket} {s0 : State} (hl : [.free, .mem, .errs, .regs, .clk, .stitch, .ctxs, .hsync, .bays, .panels, .cus, .mus, .rtrs, .host, .evt, .claims, .hbm, .sites, .twin, .sup, .rel, .store, .fuses, .spdm] ⊆ l) :
    Runs l s0 (execRemoteAccess t pkt s0) := by
  unfold execRemoteAccess
  refine Runs.next ?_
  have h := Kept.refl l s0
  with_reducible repeat' first
    | exact h
    | refine Kept.ite ?_ ?_
    | refine kept_bayTime (sub hl (by decide)) ?_
    | refine kept_muHold (sub hl (by decide)) ?_ ?_
    | refine kept_remoteArrive (sub hl (by decide)) ?_
    | dsimp only

end Sys2Proof.Machine
end

