-- ==== Sys2Proof/Laws/KeptSecurity.lean ====
section
/-! SUPPORT. What each operation of Machine/Security.lean may touch, and that it keeps the queue and the invariant. -/

namespace Sys2Proof.Machine

variable {l : List Comp} {a s : State}

theorem kept_spdmSay {body : List Byte} (hl : [.spdm] ⊆ l) (h : Kept l a s) :
    Kept l a (State.spdmSay s body) := by
  unfold State.spdmSay
  with_reducible repeat' first
    | exact h
    | refine Kept.ite ?_ ?_
    | refine kept_modSpdm (sub hl (by decide)) ?_
    | dsimp only

theorem kept_spdmError (hl : [.spdm] ⊆ l) (h : Kept l a s) :
    Kept l a (State.spdmError s) := by
  unfold State.spdmError
  with_reducible repeat' first
    | exact h
    | refine Kept.ite ?_ ?_
    | refine kept_spdmSay (sub hl (by decide)) ?_
    | dsimp only

theorem kept_spdmPlain {code : Nat} (hl : [.spdm] ⊆ l) (h : Kept l a s) :
    Kept l a (State.spdmPlain s code) := by
  unfold State.spdmPlain
  with_reducible repeat' first
    | exact h
    | refine Kept.ite ?_ ?_
    | refine kept_spdmSay (sub hl (by decide)) ?_
    | dsimp only

theorem kept_spdmTell {code : Nat} {p1 : Nat} {body : List Byte} (hl : [.spdm] ⊆ l) (h : Kept l a s) :
    Kept l a (State.spdmTell s code p1 body) := by
  unfold State.spdmTell
  with_reducible repeat' first
    | exact h
    | refine Kept.ite ?_ ?_
    | refine kept_modSpdm (sub hl (by decide)) ?_
    | dsimp only

theorem kept_spdmSigned {code : Nat} {p1 : Nat} {body : List Byte} (hl : [.spdm] ⊆ l) (h : Kept l a s) :
    Kept l a (State.spdmSigned s code p1 body) := by
  unfold State.spdmSigned
  with_reducible repeat' first
    | exact h
    | assumption
    | refine Kept.ite ?_ ?_
    | refine kept_modSpdm (sub hl (by decide)) ?_
    | refine kept_spdmTell (sub hl (by decide)) ?_
    | refine Kept.foldl ?_ ?_
    | refine Kept.foldl₂ ?_ ?_
    | refine Kept.foldl₁ ?_ ?_
    | (split; rename_i e; have e0 := congrArg (fun p => p.1) e; have e1 := congrArg (fun p => p.2.1) e; have e2 := congrArg (fun p => p.2.2.1) e; have e3 := congrArg (fun p => p.2.2.2) e; dsimp only at e0 e1 e2 e3; subst e0; subst e1; subst e2; subst e3)
    | (split; rename_i e; have e0 := congrArg (fun p => p.1) e; have e1 := congrArg (fun p => p.2.1) e; have e2 := congrArg (fun p => p.2.2) e; dsimp only at e0 e1 e2; subst e0; subst e1; subst e2)
    | (split; rename_i e; have e0 := congrArg (fun p => p.1) e; have e1 := congrArg (fun p => p.2) e; dsimp only at e0 e1; subst e0; subst e1)
    | (split; rename_i e; have e0 := congrArg (fun p => p.2) e; dsimp only at e0; subst e0)
    | (split; rename_i e; have e0 := congrArg (fun p => p.1) e; dsimp only at e0; subst e0)
    | split
    | (refine Kept.of_snd (by assumption) ?_)
    | intro _ _ _ _
    | intro _ _ _
    | intro _ _
    | intro _
    | dsimp only

theorem kept_atStage {n : Nat} {f : State → State} (hl : [.spdm] ⊆ l) (h : Kept l a s) (hf : ∀ v0, Kept l a v0 → Kept l a (f v0)) :
    Kept l a (State.atStage s n f) := by
  unfold State.atStage
  with_reducible repeat' first
    | exact h
    | assumption
    | refine hf _ ?_
    | refine Kept.ite ?_ ?_
    | refine kept_spdmError (sub hl (by decide)) ?_
    | dsimp only

theorem runs_execGetVersion {t : Nat} {s0 : State} (hl : [.clk, .spdm] ⊆ l) :
    Runs l s0 (execGetVersion t s0) := by
  unfold execGetVersion
  have h := Kept.refl l s0
  with_reducible repeat' first
    | exact h
    | refine Runs.next ?_
    | assumption
    | refine Kept.ite ?_ ?_
    | refine kept_atStage (sub hl (by decide)) ?_ ?_
    | refine kept_masterTime (sub hl (by decide)) ?_
    | refine kept_spdmTell (sub hl (by decide)) ?_
    | refine kept_modSpdm (sub hl (by decide)) ?_
    | refine Kept.foldl ?_ ?_
    | refine Kept.foldl₂ ?_ ?_
    | refine Kept.foldl₁ ?_ ?_
    | (split; rename_i e; have e0 := congrArg (fun p => p.1) e; have e1 := congrArg (fun p => p.2.1) e; have e2 := congrArg (fun p => p.2.2.1) e; have e3 := congrArg (fun p => p.2.2.2) e; dsimp only at e0 e1 e2 e3; subst e0; subst e1; subst e2; subst e3)
    | (split; rename_i e; have e0 := congrArg (fun p => p.1) e; have e1 := congrArg (fun p => p.2.1) e; have e2 := congrArg (fun p => p.2.2) e; dsimp only at e0 e1 e2; subst e0; subst e1; subst e2)
    | (split; rename_i e; have e0 := congrArg (fun p => p.1) e; have e1 := congrArg (fun p => p.2) e; dsimp only at e0 e1; subst e0; subst e1)
    | (split; rename_i e; have e0 := congrArg (fun p => p.2) e; dsimp only at e0; subst e0)
    | (split; rename_i e; have e0 := congrArg (fun p => p.1) e; dsimp only at e0; subst e0)
    | split
    | (refine Kept.of_snd (by assumption) ?_)
    | intro _ _ _ _
    | intro _ _ _
    | intro _ _
    | intro _
    | dsimp only

theorem runs_execGetCapabilities {t : Nat} {s0 : State} (hl : [.clk, .spdm] ⊆ l) :
    Runs l s0 (execGetCapabilities t s0) := by
  unfold execGetCapabilities
  have h := Kept.refl l s0
  with_reducible repeat' first
    | exact h
    | refine Runs.next ?_
    | assumption
    | refine Kept.ite ?_ ?_
    | refine kept_atStage (sub hl (by decide)) ?_ ?_
    | refine kept_masterTime (sub hl (by decide)) ?_
    | refine kept_spdmTell (sub hl (by decide)) ?_
    | refine kept_modSpdm (sub hl (by decide)) ?_
    | refine Kept.foldl ?_ ?_
    | refine Kept.foldl₂ ?_ ?_
    | refine Kept.foldl₁ ?_ ?_
    | (split; rename_i e; have e0 := congrArg (fun p => p.1) e; have e1 := congrArg (fun p => p.2.1) e; have e2 := congrArg (fun p => p.2.2.1) e; have e3 := congrArg (fun p => p.2.2.2) e; dsimp only at e0 e1 e2 e3; subst e0; subst e1; subst e2; subst e3)
    | (split; rename_i e; have e0 := congrArg (fun p => p.1) e; have e1 := congrArg (fun p => p.2.1) e; have e2 := congrArg (fun p => p.2.2) e; dsimp only at e0 e1 e2; subst e0; subst e1; subst e2)
    | (split; rename_i e; have e0 := congrArg (fun p => p.1) e; have e1 := congrArg (fun p => p.2) e; dsimp only at e0 e1; subst e0; subst e1)
    | (split; rename_i e; have e0 := congrArg (fun p => p.2) e; dsimp only at e0; subst e0)
    | (split; rename_i e; have e0 := congrArg (fun p => p.1) e; dsimp only at e0; subst e0)
    | split
    | (refine Kept.of_snd (by assumption) ?_)
    | intro _ _ _ _
    | intro _ _ _
    | intro _ _
    | intro _
    | dsimp only

theorem runs_execNegotiateAlgorithms {t : Nat} {s0 : State} (hl : [.clk, .spdm] ⊆ l) :
    Runs l s0 (execNegotiateAlgorithms t s0) := by
  unfold execNegotiateAlgorithms
  have h := Kept.refl l s0
  with_reducible repeat' first
    | exact h
    | refine Runs.next ?_
    | assumption
    | refine Kept.ite ?_ ?_
    | refine kept_atStage (sub hl (by decide)) ?_ ?_
    | refine kept_masterTime (sub hl (by decide)) ?_
    | refine kept_spdmTell (sub hl (by decide)) ?_
    | refine kept_modSpdm (sub hl (by decide)) ?_
    | refine Kept.foldl ?_ ?_
    | refine Kept.foldl₂ ?_ ?_
    | refine Kept.foldl₁ ?_ ?_
    | (split; rename_i e; have e0 := congrArg (fun p => p.1) e; have e1 := congrArg (fun p => p.2.1) e; have e2 := congrArg (fun p => p.2.2.1) e; have e3 := congrArg (fun p => p.2.2.2) e; dsimp only at e0 e1 e2 e3; subst e0; subst e1; subst e2; subst e3)
    | (split; rename_i e; have e0 := congrArg (fun p => p.1) e; have e1 := congrArg (fun p => p.2.1) e; have e2 := congrArg (fun p => p.2.2) e; dsimp only at e0 e1 e2; subst e0; subst e1; subst e2)
    | (split; rename_i e; have e0 := congrArg (fun p => p.1) e; have e1 := congrArg (fun p => p.2) e; dsimp only at e0 e1; subst e0; subst e1)
    | (split; rename_i e; have e0 := congrArg (fun p => p.2) e; dsimp only at e0; subst e0)
    | (split; rename_i e; have e0 := congrArg (fun p => p.1) e; dsimp only at e0; subst e0)
    | split
    | (refine Kept.of_snd (by assumption) ?_)
    | intro _ _ _ _
    | intro _ _ _
    | intro _ _
    | intro _
    | dsimp only

theorem runs_execGetDigests {t : Nat} {s0 : State} (hl : [.clk, .spdm] ⊆ l) :
    Runs l s0 (execGetDigests t s0) := by
  unfold execGetDigests
  have h := Kept.refl l s0
  with_reducible repeat' first
    | exact h
    | refine Runs.next ?_
    | assumption
    | refine Kept.ite ?_ ?_
    | refine kept_atStage (sub hl (by decide)) ?_ ?_
    | refine kept_masterTime (sub hl (by decide)) ?_
    | refine kept_spdmTell (sub hl (by decide)) ?_
    | refine Kept.foldl ?_ ?_
    | refine Kept.foldl₂ ?_ ?_
    | refine Kept.foldl₁ ?_ ?_
    | (split; rename_i e; have e0 := congrArg (fun p => p.1) e; have e1 := congrArg (fun p => p.2.1) e; have e2 := congrArg (fun p => p.2.2.1) e; have e3 := congrArg (fun p => p.2.2.2) e; dsimp only at e0 e1 e2 e3; subst e0; subst e1; subst e2; subst e3)
    | (split; rename_i e; have e0 := congrArg (fun p => p.1) e; have e1 := congrArg (fun p => p.2.1) e; have e2 := congrArg (fun p => p.2.2) e; dsimp only at e0 e1 e2; subst e0; subst e1; subst e2)
    | (split; rename_i e; have e0 := congrArg (fun p => p.1) e; have e1 := congrArg (fun p => p.2) e; dsimp only at e0 e1; subst e0; subst e1)
    | (split; rename_i e; have e0 := congrArg (fun p => p.2) e; dsimp only at e0; subst e0)
    | (split; rename_i e; have e0 := congrArg (fun p => p.1) e; dsimp only at e0; subst e0)
    | split
    | (refine Kept.of_snd (by assumption) ?_)
    | intro _ _ _ _
    | intro _ _ _
    | intro _ _
    | intro _
    | dsimp only

theorem runs_execGetCertificate {t : Nat} {s0 : State} (hl : [.clk, .spdm] ⊆ l) :
    Runs l s0 (execGetCertificate t s0) := by
  unfold execGetCertificate
  have h := Kept.refl l s0
  with_reducible repeat' first
    | exact h
    | refine Runs.next ?_
    | assumption
    | refine Kept.ite ?_ ?_
    | refine kept_atStage (sub hl (by decide)) ?_ ?_
    | refine kept_masterTime (sub hl (by decide)) ?_
    | refine kept_spdmTell (sub hl (by decide)) ?_
    | refine Kept.foldl ?_ ?_
    | refine Kept.foldl₂ ?_ ?_
    | refine Kept.foldl₁ ?_ ?_
    | (split; rename_i e; have e0 := congrArg (fun p => p.1) e; have e1 := congrArg (fun p => p.2.1) e; have e2 := congrArg (fun p => p.2.2.1) e; have e3 := congrArg (fun p => p.2.2.2) e; dsimp only at e0 e1 e2 e3; subst e0; subst e1; subst e2; subst e3)
    | (split; rename_i e; have e0 := congrArg (fun p => p.1) e; have e1 := congrArg (fun p => p.2.1) e; have e2 := congrArg (fun p => p.2.2) e; dsimp only at e0 e1 e2; subst e0; subst e1; subst e2)
    | (split; rename_i e; have e0 := congrArg (fun p => p.1) e; have e1 := congrArg (fun p => p.2) e; dsimp only at e0 e1; subst e0; subst e1)
    | (split; rename_i e; have e0 := congrArg (fun p => p.2) e; dsimp only at e0; subst e0)
    | (split; rename_i e; have e0 := congrArg (fun p => p.1) e; dsimp only at e0; subst e0)
    | split
    | (refine Kept.of_snd (by assumption) ?_)
    | intro _ _ _ _
    | intro _ _ _
    | intro _ _
    | intro _
    | dsimp only

theorem runs_execChallenge {t : Nat} {s0 : State} (hl : [.clk, .spdm] ⊆ l) :
    Runs l s0 (execChallenge t s0) := by
  unfold execChallenge
  have h := Kept.refl l s0
  with_reducible repeat' first
    | exact h
    | refine Runs.next ?_
    | assumption
    | refine Kept.ite ?_ ?_
    | refine kept_atStage (sub hl (by decide)) ?_ ?_
    | refine kept_masterTime (sub hl (by decide)) ?_
    | refine kept_spdmSigned (sub hl (by decide)) ?_
    | refine Kept.foldl ?_ ?_
    | refine Kept.foldl₂ ?_ ?_
    | refine Kept.foldl₁ ?_ ?_
    | (split; rename_i e; have e0 := congrArg (fun p => p.1) e; have e1 := congrArg (fun p => p.2.1) e; have e2 := congrArg (fun p => p.2.2.1) e; have e3 := congrArg (fun p => p.2.2.2) e; dsimp only at e0 e1 e2 e3; subst e0; subst e1; subst e2; subst e3)
    | (split; rename_i e; have e0 := congrArg (fun p => p.1) e; have e1 := congrArg (fun p => p.2.1) e; have e2 := congrArg (fun p => p.2.2) e; dsimp only at e0 e1 e2; subst e0; subst e1; subst e2)
    | (split; rename_i e; have e0 := congrArg (fun p => p.1) e; have e1 := congrArg (fun p => p.2) e; dsimp only at e0 e1; subst e0; subst e1)
    | (split; rename_i e; have e0 := congrArg (fun p => p.2) e; dsimp only at e0; subst e0)
    | (split; rename_i e; have e0 := congrArg (fun p => p.1) e; dsimp only at e0; subst e0)
    | split
    | (refine Kept.of_snd (by assumption) ?_)
    | intro _ _ _ _
    | intro _ _ _
    | intro _ _
    | intro _
    | dsimp only

theorem kept_reserveLms (hl : [.evt, .rel, .store, .spdm] ⊆ l) (h : Kept l a s) :
    Kept l a (State.reserveLms s) := by
  unfold State.reserveLms
  with_reducible repeat' first
    | exact h
    | assumption
    | refine Kept.ite ?_ ?_
    | refine kept_logRecord (sub hl (by decide)) ?_
    | refine kept_recordCommit (sub hl (by decide)) ?_
    | refine kept_raise (sub hl (by decide)) ?_
    | refine Kept.foldl ?_ ?_
    | (split; rename_i e; have e0 := congrArg (fun p => p.1) e; have e1 := congrArg (fun p => p.2) e; dsimp only at e0 e1; subst e0; subst e1)
    | (split; rename_i e; have e0 := congrArg (fun p => p.2) e; dsimp only at e0; subst e0)
    | split
    | (refine Kept.of_snd (by assumption) ?_)
    | intro _ _ _ _
    | intro _ _ _
    | intro _ _
    | intro _
    | dsimp only

theorem kept_lmsTell {contents : List Byte} (hl : [.spdm] ⊆ l) (h : Kept l a s) :
    Kept l a (State.lmsTell s contents) := by
  unfold State.lmsTell
  with_reducible repeat' first
    | exact h
    | refine Kept.ite ?_ ?_
    | refine kept_spdmTell (sub hl (by decide)) ?_
    | dsimp only

theorem kept_lmsBlock (hl : [.evt, .rel, .store, .spdm] ⊆ l) (h : Kept l a s) :
    Kept l a (State.lmsBlock s) := by
  unfold State.lmsBlock
  with_reducible repeat' first
    | exact h
    | assumption
    | refine Kept.ite ?_ ?_
    | refine kept_lmsTell (sub hl (by decide)) ?_
    | refine kept_reserveLms (sub hl (by decide)) ?_
    | refine kept_modSpdm (sub hl (by decide)) ?_
    | refine Kept.foldl ?_ ?_
    | refine Kept.foldl₂ ?_ ?_
    | refine Kept.foldl₁ ?_ ?_
    | (split; rename_i e; have e0 := congrArg (fun p => p.1) e; have e1 := congrArg (fun p => p.2.1) e; have e2 := congrArg (fun p => p.2.2.1) e; have e3 := congrArg (fun p => p.2.2.2) e; dsimp only at e0 e1 e2 e3; subst e0; subst e1; subst e2; subst e3)
    | (split; rename_i e; have e0 := congrArg (fun p => p.1) e; have e1 := congrArg (fun p => p.2.1) e; have e2 := congrArg (fun p => p.2.2) e; dsimp only at e0 e1 e2; subst e0; subst e1; subst e2)
    | (split; rename_i e; have e0 := congrArg (fun p => p.1) e; have e1 := congrArg (fun p => p.2) e; dsimp only at e0 e1; subst e0; subst e1)
    | (split; rename_i e; have e0 := congrArg (fun p => p.2) e; dsimp only at e0; subst e0)
    | (split; rename_i e; have e0 := congrArg (fun p => p.1) e; dsimp only at e0; subst e0)
    | split
    | (refine Kept.of_snd (by assumption) ?_)
    | intro _ _ _ _
    | intro _ _ _
    | intro _ _
    | intro _
    | dsimp only

theorem kept_measure {index : Nat} (hl : [.evt, .rel, .store, .spdm] ⊆ l) (h : Kept l a s) :
    Kept l a (State.measure s index) := by
  unfold State.measure
  with_reducible repeat' first
    | exact h
    | assumption
    | refine Kept.ite ?_ ?_
    | refine kept_lmsBlock (sub hl (by decide)) ?_
    | refine kept_spdmSigned (sub hl (by decide)) ?_
    | refine kept_spdmError (sub hl (by decide)) ?_
    | refine Kept.foldl ?_ ?_
    | refine Kept.foldl₂ ?_ ?_
    | refine Kept.foldl₁ ?_ ?_
    | (split; rename_i e; have e0 := congrArg (fun p => p.1) e; have e1 := congrArg (fun p => p.2.1) e; have e2 := congrArg (fun p => p.2.2.1) e; have e3 := congrArg (fun p => p.2.2.2) e; dsimp only at e0 e1 e2 e3; subst e0; subst e1; subst e2; subst e3)
    | (split; rename_i e; have e0 := congrArg (fun p => p.1) e; have e1 := congrArg (fun p => p.2.1) e; have e2 := congrArg (fun p => p.2.2) e; dsimp only at e0 e1 e2; subst e0; subst e1; subst e2)
    | (split; rename_i e; have e0 := congrArg (fun p => p.1) e; have e1 := congrArg (fun p => p.2) e; dsimp only at e0 e1; subst e0; subst e1)
    | (split; rename_i e; have e0 := congrArg (fun p => p.2) e; dsimp only at e0; subst e0)
    | (split; rename_i e; have e0 := congrArg (fun p => p.1) e; dsimp only at e0; subst e0)
    | split
    | (refine Kept.of_snd (by assumption) ?_)
    | intro _ _ _ _
    | intro _ _ _
    | intro _ _
    | intro _
    | dsimp only

theorem runs_execGetMeasurements {t : Nat} {index : Nat} {s0 : State} (hl : [.clk, .evt, .rel, .store, .spdm] ⊆ l) :
    Runs l s0 (execGetMeasurements t index s0) := by
  unfold execGetMeasurements
  refine Runs.next ?_
  have h := Kept.refl l s0
  with_reducible repeat' first
    | exact h
    | assumption
    | refine Kept.ite ?_ ?_
    | refine kept_atStage (sub hl (by decide)) ?_ ?_
    | refine kept_masterTime (sub hl (by decide)) ?_
    | refine kept_measure (sub hl (by decide)) ?_
    | refine Kept.foldl ?_ ?_
    | (split; rename_i e; have e0 := congrArg (fun p => p.1) e; have e1 := congrArg (fun p => p.2) e; dsimp only at e0 e1; subst e0; subst e1)
    | (split; rename_i e; have e0 := congrArg (fun p => p.2) e; dsimp only at e0; subst e0)
    | split
    | (refine Kept.of_snd (by assumption) ?_)
    | intro _ _ _ _
    | intro _ _ _
    | intro _ _
    | intro _
    | dsimp only

theorem kept_keyExchange (hl : [.free, .spdm] ⊆ l) (h : Kept l a s) :
    Kept l a (State.keyExchange s) := by
  unfold State.keyExchange
  with_reducible repeat' first
    | exact h
    | assumption
    | refine Kept.ite ?_ ?_
    | refine kept_spdmError (sub hl (by decide)) ?_
    | refine kept_spdmSigned (sub hl (by decide)) ?_
    | refine kept_modSpdm (sub hl (by decide)) ?_
    | refine kept_takeFree (sub hl (by decide)) ?_
    | refine Kept.foldl ?_ ?_
    | refine Kept.foldl₂ ?_ ?_
    | refine Kept.foldl₁ ?_ ?_
    | (split; rename_i e; have e0 := congrArg (fun p => p.1) e; have e1 := congrArg (fun p => p.2.1) e; have e2 := congrArg (fun p => p.2.2.1) e; have e3 := congrArg (fun p => p.2.2.2) e; dsimp only at e0 e1 e2 e3; subst e0; subst e1; subst e2; subst e3)
    | (split; rename_i e; have e0 := congrArg (fun p => p.1) e; have e1 := congrArg (fun p => p.2.1) e; have e2 := congrArg (fun p => p.2.2) e; dsimp only at e0 e1 e2; subst e0; subst e1; subst e2)
    | (split; rename_i e; have e0 := congrArg (fun p => p.1) e; have e1 := congrArg (fun p => p.2) e; dsimp only at e0 e1; subst e0; subst e1)
    | (split; rename_i e; have e0 := congrArg (fun p => p.2) e; dsimp only at e0; subst e0)
    | (split; rename_i e; have e0 := congrArg (fun p => p.1) e; dsimp only at e0; subst e0)
    | split
    | (refine Kept.of_snd (by assumption) ?_)
    | intro _ _ _ _
    | intro _ _ _
    | intro _ _
    | intro _
    | dsimp only

theorem runs_execKeyExchange {t : Nat} {s0 : State} (hl : [.free, .clk, .spdm] ⊆ l) :
    Runs l s0 (execKeyExchange t s0) := by
  unfold execKeyExchange
  refine Runs.next ?_
  have h := Kept.refl l s0
  with_reducible repeat' first
    | exact h
    | assumption
    | refine Kept.ite ?_ ?_
    | refine kept_atStage (sub hl (by decide)) ?_ ?_
    | refine kept_masterTime (sub hl (by decide)) ?_
    | refine kept_keyExchange (sub hl (by decide)) ?_
    | refine Kept.foldl ?_ ?_
    | (split; rename_i e; have e0 := congrArg (fun p => p.1) e; have e1 := congrArg (fun p => p.2) e; dsimp only at e0 e1; subst e0; subst e1)
    | (split; rename_i e; have e0 := congrArg (fun p => p.2) e; dsimp only at e0; subst e0)
    | split
    | (refine Kept.of_snd (by assumption) ?_)
    | intro _ _ _ _
    | intro _ _ _
    | intro _ _
    | intro _
    | dsimp only

theorem runs_execFinish {t : Nat} {s0 : State} (hl : [.clk, .spdm] ⊆ l) :
    Runs l s0 (execFinish t s0) := by
  unfold execFinish
  have h := Kept.refl l s0
  with_reducible repeat' first
    | exact h
    | refine Runs.next ?_
    | assumption
    | refine Kept.ite ?_ ?_
    | refine kept_atStage (sub hl (by decide)) ?_ ?_
    | refine kept_masterTime (sub hl (by decide)) ?_
    | refine kept_spdmTell (sub hl (by decide)) ?_
    | refine kept_modSpdm (sub hl (by decide)) ?_
    | refine kept_spdmError (sub hl (by decide)) ?_
    | refine Kept.foldl ?_ ?_
    | refine Kept.foldl₂ ?_ ?_
    | refine Kept.foldl₁ ?_ ?_
    | (split; rename_i e; have e0 := congrArg (fun p => p.1) e; have e1 := congrArg (fun p => p.2.1) e; have e2 := congrArg (fun p => p.2.2.1) e; have e3 := congrArg (fun p => p.2.2.2) e; dsimp only at e0 e1 e2 e3; subst e0; subst e1; subst e2; subst e3)
    | (split; rename_i e; have e0 := congrArg (fun p => p.1) e; have e1 := congrArg (fun p => p.2.1) e; have e2 := congrArg (fun p => p.2.2) e; dsimp only at e0 e1 e2; subst e0; subst e1; subst e2)
    | (split; rename_i e; have e0 := congrArg (fun p => p.1) e; have e1 := congrArg (fun p => p.2) e; dsimp only at e0 e1; subst e0; subst e1)
    | (split; rename_i e; have e0 := congrArg (fun p => p.2) e; dsimp only at e0; subst e0)
    | (split; rename_i e; have e0 := congrArg (fun p => p.1) e; dsimp only at e0; subst e0)
    | split
    | (refine Kept.of_snd (by assumption) ?_)
    | intro _ _ _ _
    | intro _ _ _
    | intro _ _
    | intro _
    | dsimp only

theorem kept_inSession {f : State → State} (hl : [.spdm] ⊆ l) (h : Kept l a s) (hf : ∀ v0, Kept l a v0 → Kept l a (f v0)) :
    Kept l a (State.inSession s f) := by
  unfold State.inSession
  with_reducible repeat' first
    | exact h
    | assumption
    | refine hf _ ?_
    | refine Kept.ite ?_ ?_
    | refine kept_spdmError (sub hl (by decide)) ?_
    | dsimp only

theorem runs_execHeartbeat {t : Nat} {s0 : State} (hl : [.clk, .spdm] ⊆ l) :
    Runs l s0 (execHeartbeat t s0) := by
  unfold execHeartbeat
  refine Runs.next ?_
  have h := Kept.refl l s0
  with_reducible repeat' first
    | exact h
    | assumption
    | refine Kept.ite ?_ ?_
    | refine kept_inSession (sub hl (by decide)) ?_ ?_
    | refine kept_masterTime (sub hl (by decide)) ?_
    | refine kept_spdmPlain (sub hl (by decide)) ?_
    | refine kept_modSpdm (sub hl (by decide)) ?_
    | refine Kept.foldl ?_ ?_
    | (split; rename_i e; have e0 := congrArg (fun p => p.1) e; have e1 := congrArg (fun p => p.2) e; dsimp only at e0 e1; subst e0; subst e1)
    | (split; rename_i e; have e0 := congrArg (fun p => p.2) e; dsimp only at e0; subst e0)
    | split
    | (refine Kept.of_snd (by assumption) ?_)
    | intro _ _ _ _
    | intro _ _ _
    | intro _ _
    | intro _
    | dsimp only

theorem runs_execKeyUpdate {t : Nat} {s0 : State} (hl : [.clk, .spdm] ⊆ l) :
    Runs l s0 (execKeyUpdate t s0) := by
  unfold execKeyUpdate
  refine Runs.next ?_
  have h := Kept.refl l s0
  with_reducible repeat' first
    | exact h
    | assumption
    | refine Kept.ite ?_ ?_
    | refine kept_inSession (sub hl (by decide)) ?_ ?_
    | refine kept_masterTime (sub hl (by decide)) ?_
    | refine kept_spdmPlain (sub hl (by decide)) ?_
    | refine kept_modSpdm (sub hl (by decide)) ?_
    | refine Kept.foldl ?_ ?_
    | (split; rename_i e; have e0 := congrArg (fun p => p.1) e; have e1 := congrArg (fun p => p.2) e; dsimp only at e0 e1; subst e0; subst e1)
    | (split; rename_i e; have e0 := congrArg (fun p => p.2) e; dsimp only at e0; subst e0)
    | split
    | (refine Kept.of_snd (by assumption) ?_)
    | intro _ _ _ _
    | intro _ _ _
    | intro _ _
    | intro _
    | dsimp only

theorem kept_dropSession (hl : [.evt, .spdm] ⊆ l) (h : Kept l a s) :
    Kept l a (State.dropSession s) := by
  unfold State.dropSession
  with_reducible repeat' first
    | exact h
    | refine Kept.ite ?_ ?_
    | refine kept_modSpdm (sub hl (by decide)) ?_
    | refine kept_ideEnd (sub hl (by decide)) ?_
    | refine kept_endGrant (sub hl (by decide)) ?_
    | dsimp only

theorem runs_execEndSession {t : Nat} {s0 : State} (hl : [.clk, .evt, .spdm] ⊆ l) :
    Runs l s0 (execEndSession t s0) := by
  unfold execEndSession
  refine Runs.next ?_
  have h := Kept.refl l s0
  with_reducible repeat' first
    | exact h
    | assumption
    | refine Kept.ite ?_ ?_
    | refine kept_inSession (sub hl (by decide)) ?_ ?_
    | refine kept_masterTime (sub hl (by decide)) ?_
    | refine kept_spdmPlain (sub hl (by decide)) ?_
    | refine kept_dropSession (sub hl (by decide)) ?_
    | refine Kept.foldl ?_ ?_
    | (split; rename_i e; have e0 := congrArg (fun p => p.1) e; have e1 := congrArg (fun p => p.2) e; dsimp only at e0 e1; subst e0; subst e1)
    | (split; rename_i e; have e0 := congrArg (fun p => p.2) e; dsimp only at e0; subst e0)
    | split
    | (refine Kept.of_snd (by assumption) ?_)
    | intro _ _ _ _
    | intro _ _ _
    | intro _ _
    | intro _
    | dsimp only

theorem runs_execSecureSessionLoss {t : Nat} {s0 : State} (hl : [.clk, .evt, .spdm] ⊆ l) :
    Runs l s0 (execSecureSessionLoss t s0) := by
  unfold execSecureSessionLoss
  refine Runs.next ?_
  have h := Kept.refl l s0
  with_reducible repeat' first
    | exact h
    | refine Kept.ite ?_ ?_
    | refine kept_dropSession (sub hl (by decide)) ?_
    | refine kept_masterTime (sub hl (by decide)) ?_
    | dsimp only

theorem kept_signedReq {r : SignedRequest} {owner : Bool} {f : State → State} (hl : [.evt, .spdm] ⊆ l) (h : Kept l a s) (hf : ∀ v0, Kept l a v0 → Kept l a (f v0)) :
    Kept l a (State.signedReq s r owner f) := by
  unfold State.signedReq
  with_reducible repeat' first
    | exact h
    | assumption
    | refine hf _ ?_
    | refine Kept.ite ?_ ?_
    | refine kept_inSession (sub hl (by decide)) ?_ ?_
    | refine kept_spdmError (sub hl (by decide)) ?_
    | refine kept_modSpdm (sub hl (by decide)) ?_
    | refine kept_objectRefused (sub hl (by decide)) ?_
    | refine Kept.foldl ?_ ?_
    | refine Kept.foldl₂ ?_ ?_
    | refine Kept.foldl₁ ?_ ?_
    | (split; rename_i e; have e0 := congrArg (fun p => p.1) e; have e1 := congrArg (fun p => p.2.1) e; have e2 := congrArg (fun p => p.2.2.1) e; have e3 := congrArg (fun p => p.2.2.2) e; dsimp only at e0 e1 e2 e3; subst e0; subst e1; subst e2; subst e3)
    | (split; rename_i e; have e0 := congrArg (fun p => p.1) e; have e1 := congrArg (fun p => p.2.1) e; have e2 := congrArg (fun p => p.2.2) e; dsimp only at e0 e1 e2; subst e0; subst e1; subst e2)
    | (split; rename_i e; have e0 := congrArg (fun p => p.1) e; have e1 := congrArg (fun p => p.2) e; dsimp only at e0 e1; subst e0; subst e1)
    | (split; rename_i e; have e0 := congrArg (fun p => p.2) e; dsimp only at e0; subst e0)
    | (split; rename_i e; have e0 := congrArg (fun p => p.1) e; dsimp only at e0; subst e0)
    | split
    | (refine Kept.of_snd (by assumption) ?_)
    | intro _ _ _ _
    | intro _ _ _
    | intro _ _
    | intro _
    | dsimp only

theorem kept_ownerSet {r : SignedRequest} (hl : [.fuses, .spdm] ⊆ l) (h : Kept l a s) :
    Kept l a (State.ownerSet s r) := by
  unfold State.ownerSet
  with_reducible repeat' first
    | exact h
    | refine Kept.ite ?_ ?_
    | refine kept_spdmPlain (sub hl (by decide)) ?_
    | refine kept_modFuses (sub hl (by decide)) ?_
    | refine kept_spdmError (sub hl (by decide)) ?_
    | dsimp only

theorem runs_execOwnerSet {t : Nat} {req : SignedRequest} {s0 : State} (hl : [.clk, .evt, .fuses, .spdm] ⊆ l) :
    Runs l s0 (execOwnerSet t req s0) := by
  unfold execOwnerSet
  refine Runs.next ?_
  have h := Kept.refl l s0
  with_reducible repeat' first
    | exact h
    | assumption
    | refine Kept.ite ?_ ?_
    | refine kept_signedReq (sub hl (by decide)) ?_ ?_
    | refine kept_masterTime (sub hl (by decide)) ?_
    | refine kept_ownerSet (sub hl (by decide)) ?_
    | refine Kept.foldl ?_ ?_
    | (split; rename_i e; have e0 := congrArg (fun p => p.1) e; have e1 := congrArg (fun p => p.2) e; dsimp only at e0 e1; subst e0; subst e1)
    | (split; rename_i e; have e0 := congrArg (fun p => p.2) e; dsimp only at e0; subst e0)
    | split
    | (refine Kept.of_snd (by assumption) ?_)
    | intro _ _ _ _
    | intro _ _ _
    | intro _ _
    | intro _
    | dsimp only

theorem kept_ownerRevoke {r : SignedRequest} (hl : [.fuses, .spdm] ⊆ l) (h : Kept l a s) :
    Kept l a (State.ownerRevoke s r) := by
  unfold State.ownerRevoke
  with_reducible repeat' first
    | exact h
    | refine Kept.ite ?_ ?_
    | refine kept_spdmPlain (sub hl (by decide)) ?_
    | refine kept_modFuses (sub hl (by decide)) ?_
    | refine kept_spdmError (sub hl (by decide)) ?_
    | dsimp only

theorem runs_execOwnerRevoke {t : Nat} {req : SignedRequest} {s0 : State} (hl : [.clk, .evt, .fuses, .spdm] ⊆ l) :
    Runs l s0 (execOwnerRevoke t req s0) := by
  unfold execOwnerRevoke
  refine Runs.next ?_
  have h := Kept.refl l s0
  with_reducible repeat' first
    | exact h
    | assumption
    | refine Kept.ite ?_ ?_
    | refine kept_signedReq (sub hl (by decide)) ?_ ?_
    | refine kept_masterTime (sub hl (by decide)) ?_
    | refine kept_ownerRevoke (sub hl (by decide)) ?_
    | refine Kept.foldl ?_ ?_
    | (split; rename_i e; have e0 := congrArg (fun p => p.1) e; have e1 := congrArg (fun p => p.2) e; dsimp only at e0 e1; subst e0; subst e1)
    | (split; rename_i e; have e0 := congrArg (fun p => p.2) e; dsimp only at e0; subst e0)
    | split
    | (refine Kept.of_snd (by assumption) ?_)
    | intro _ _ _ _
    | intro _ _ _
    | intro _ _
    | intro _
    | dsimp only

theorem kept_debugAuth {r : SignedRequest} (hl : [.evt, .spdm] ⊆ l) (h : Kept l a s) :
    Kept l a (State.debugAuth s r) := by
  unfold State.debugAuth
  with_reducible repeat' first
    | exact h
    | refine Kept.ite ?_ ?_
    | refine kept_spdmPlain (sub hl (by decide)) ?_
    | refine kept_raise (sub hl (by decide)) ?_
    | refine kept_modSpdm (sub hl (by decide)) ?_
    | dsimp only

theorem runs_execDebugAuth {t : Nat} {req : SignedRequest} {s0 : State} (hl : [.clk, .evt, .spdm] ⊆ l) :
    Runs l s0 (execDebugAuth t req s0) := by
  unfold execDebugAuth
  refine Runs.next ?_
  have h := Kept.refl l s0
  with_reducible repeat' first
    | exact h
    | assumption
    | refine Kept.ite ?_ ?_
    | refine kept_signedReq (sub hl (by decide)) ?_ ?_
    | refine kept_masterTime (sub hl (by decide)) ?_
    | refine kept_debugAuth (sub hl (by decide)) ?_
    | refine Kept.foldl ?_ ?_
    | (split; rename_i e; have e0 := congrArg (fun p => p.1) e; have e1 := congrArg (fun p => p.2) e; dsimp only at e0 e1; subst e0; subst e1)
    | (split; rename_i e; have e0 := congrArg (fun p => p.2) e; dsimp only at e0; subst e0)
    | split
    | (refine Kept.of_snd (by assumption) ?_)
    | intro _ _ _ _
    | intro _ _ _
    | intro _ _
    | intro _
    | dsimp only

theorem runs_execDebugRevoke {t : Nat} {req : SignedRequest} {s0 : State} (hl : [.clk, .evt, .spdm] ⊆ l) :
    Runs l s0 (execDebugRevoke t req s0) := by
  unfold execDebugRevoke
  refine Runs.next ?_
  have h := Kept.refl l s0
  with_reducible repeat' first
    | exact h
    | assumption
    | refine Kept.ite ?_ ?_
    | refine kept_inSession (sub hl (by decide)) ?_ ?_
    | refine kept_masterTime (sub hl (by decide)) ?_
    | refine kept_spdmPlain (sub hl (by decide)) ?_
    | refine kept_endGrant (sub hl (by decide)) ?_
    | refine kept_spdmError (sub hl (by decide)) ?_
    | refine Kept.foldl ?_ ?_
    | (split; rename_i e; have e0 := congrArg (fun p => p.1) e; have e1 := congrArg (fun p => p.2) e; dsimp only at e0 e1; subst e0; subst e1)
    | (split; rename_i e; have e0 := congrArg (fun p => p.2) e; dsimp only at e0; subst e0)
    | split
    | (refine Kept.of_snd (by assumption) ?_)
    | intro _ _ _ _
    | intro _ _ _
    | intro _ _
    | intro _
    | dsimp only

theorem kept_fwUpdate {r : SignedRequest} {fw : FwObject} (hl : [.evt, .store, .spdm] ⊆ l) (h : Kept l a s) :
    Kept l a (State.fwUpdate s r fw) := by
  unfold State.fwUpdate
  with_reducible repeat' first
    | exact h
    | assumption
    | refine Kept.ite ?_ ?_
    | refine kept_spdmError (sub hl (by decide)) ?_
    | refine kept_objectRefused (sub hl (by decide)) ?_
    | refine kept_modStore (sub hl (by decide)) ?_
    | refine kept_spdmPlain (sub hl (by decide)) ?_
    | refine kept_logRecord (sub hl (by decide)) ?_
    | refine Kept.foldl ?_ ?_
    | refine Kept.foldl₂ ?_ ?_
    | refine Kept.foldl₁ ?_ ?_
    | (split; rename_i e; have e0 := congrArg (fun p => p.1) e; have e1 := congrArg (fun p => p.2.1) e; have e2 := congrArg (fun p => p.2.2.1) e; have e3 := congrArg (fun p => p.2.2.2) e; dsimp only at e0 e1 e2 e3; subst e0; subst e1; subst e2; subst e3)
    | (split; rename_i e; have e0 := congrArg (fun p => p.1) e; have e1 := congrArg (fun p => p.2.1) e; have e2 := congrArg (fun p => p.2.2) e; dsimp only at e0 e1 e2; subst e0; subst e1; subst e2)
    | (split; rename_i e; have e0 := congrArg (fun p => p.1) e; have e1 := congrArg (fun p => p.2) e; dsimp only at e0 e1; subst e0; subst e1)
    | (split; rename_i e; have e0 := congrArg (fun p => p.2) e; dsimp only at e0; subst e0)
    | (split; rename_i e; have e0 := congrArg (fun p => p.1) e; dsimp only at e0; subst e0)
    | split
    | (refine Kept.of_snd (by assumption) ?_)
    | intro _ _ _ _
    | intro _ _ _
    | intro _ _
    | intro _
    | dsimp only

theorem runs_execFwUpdate {t : Nat} {req : SignedRequest} {fw : FwObject} {s0 : State} (hl : [.clk, .evt, .store, .spdm] ⊆ l) :
    Runs l s0 (execFwUpdate t req fw s0) := by
  unfold execFwUpdate
  refine Runs.next ?_
  have h := Kept.refl l s0
  with_reducible repeat' first
    | exact h
    | assumption
    | refine Kept.ite ?_ ?_
    | refine kept_inSession (sub hl (by decide)) ?_ ?_
    | refine kept_masterTime (sub hl (by decide)) ?_
    | refine kept_fwUpdate (sub hl (by decide)) ?_
    | refine Kept.foldl ?_ ?_
    | (split; rename_i e; have e0 := congrArg (fun p => p.1) e; have e1 := congrArg (fun p => p.2) e; dsimp only at e0 e1; subst e0; subst e1)
    | (split; rename_i e; have e0 := congrArg (fun p => p.2) e; dsimp only at e0; subst e0)
    | split
    | (refine Kept.of_snd (by assumption) ?_)
    | intro _ _ _ _
    | intro _ _ _
    | intro _ _
    | intro _
    | dsimp only

theorem runs_execIdeKm {t : Nat} {keys : IdeKeys} {s0 : State} (hl : [.clk, .spdm] ⊆ l) :
    Runs l s0 (execIdeKm t keys s0) := by
  unfold execIdeKm
  have h := Kept.refl l s0
  with_reducible repeat' first
    | exact h
    | refine Runs.next ?_
    | assumption
    | refine Kept.ite ?_ ?_
    | refine kept_inSession (sub hl (by decide)) ?_ ?_
    | refine kept_masterTime (sub hl (by decide)) ?_
    | refine kept_modSpdm (sub hl (by decide)) ?_
    | refine Kept.foldl ?_ ?_
    | refine Kept.foldl₂ ?_ ?_
    | refine Kept.foldl₁ ?_ ?_
    | (split; rename_i e; have e0 := congrArg (fun p => p.1) e; have e1 := congrArg (fun p => p.2.1) e; have e2 := congrArg (fun p => p.2.2.1) e; have e3 := congrArg (fun p => p.2.2.2) e; dsimp only at e0 e1 e2 e3; subst e0; subst e1; subst e2; subst e3)
    | (split; rename_i e; have e0 := congrArg (fun p => p.1) e; have e1 := congrArg (fun p => p.2.1) e; have e2 := congrArg (fun p => p.2.2) e; dsimp only at e0 e1 e2; subst e0; subst e1; subst e2)
    | (split; rename_i e; have e0 := congrArg (fun p => p.1) e; have e1 := congrArg (fun p => p.2) e; dsimp only at e0 e1; subst e0; subst e1)
    | (split; rename_i e; have e0 := congrArg (fun p => p.2) e; dsimp only at e0; subst e0)
    | (split; rename_i e; have e0 := congrArg (fun p => p.1) e; dsimp only at e0; subst e0)
    | split
    | (refine Kept.of_snd (by assumption) ?_)
    | intro _ _ _ _
    | intro _ _ _
    | intro _ _
    | intro _
    | dsimp only

theorem kept_diagWord {x0 : Nat} (hl : [.free, .mem, .errs, .regs, .bays, .evt, .rel] ⊆ l) (h : Kept l a s) :
    Kept l a (State.diagWord s x0).2 := by
  unfold State.diagWord
  with_reducible repeat' first
    | exact h
    | refine Kept.ite ?_ ?_
    | refine kept_addrFault (sub hl (by decide)) ?_
    | refine kept_readStore (sub hl (by decide)) ?_
    | refine Kept.foldl ?_ ?_
    | split
    | intro _ _ _ _
    | intro _ _ _
    | intro _ _
    | intro _
    | dsimp only

theorem kept_diagShow {status : Nat} {w : Word} (hl : [.regs, .spdm] ⊆ l) (h : Kept l a s) :
    Kept l a (State.diagShow s status w) := by
  unfold State.diagShow
  with_reducible repeat' first
    | exact h
    | refine Kept.ite ?_ ?_
    | refine kept_modSpdm (sub hl (by decide)) ?_
    | refine kept_setReg (sub hl (by decide)) ?_
    | dsimp only

theorem kept_diagDone (hl : [.free, .mem, .errs, .regs, .bays, .evt, .rel, .spdm] ⊆ l) (h : Kept l a s) :
    Kept l a (State.diagDone s) := by
  unfold State.diagDone
  with_reducible repeat' first
    | exact h
    | refine Kept.ite ?_ ?_
    | refine kept_diagShow (sub hl (by decide)) ?_
    | refine kept_diagWord (sub hl (by decide)) ?_
    | refine Kept.foldl ?_ ?_
    | split
    | intro _ _ _ _
    | intro _ _ _
    | intro _ _
    | intro _
    | dsimp only

theorem runs_execDiagReadComplete {t : Nat} {s0 : State} (hl : [.free, .mem, .errs, .regs, .clk, .bays, .evt, .rel, .spdm] ⊆ l) :
    Runs l s0 (execDiagReadComplete t s0) := by
  unfold execDiagReadComplete
  refine Runs.next ?_
  have h := Kept.refl l s0
  with_reducible repeat' first
    | exact h
    | refine Kept.ite ?_ ?_
    | refine kept_diagDone (sub hl (by decide)) ?_
    | refine kept_masterTime (sub hl (by decide)) ?_
    | dsimp only

end Sys2Proof.Machine
end

