-- ==== Sys2Proof/Laws/PerInstr.lean ====
section
/-! SUPPORT. The family `Clocked`: every command carries its time as an operand apart from what it says. `Instr.time` reads it, `Instr.retimed` gives
the command another time; whether a command is well formed does not depend on it. -/

namespace Sys2Proof

/-- The time a command carries. -/
def Instr.time : Instr → Nat
  | .powerOnReset t => t
  | .auxGood t => t
  | .boot t _ => t
  | .mainEnable t => t
  | .mainEnableTimeout t => t
  | .vinMainInRange t => t
  | .bayCoreRailUp t _ _ => t
  | .bist t _ _ => t
  | .hbmTraining t _ _ _ _ => t
  | .siteTraining t _ _ => t
  | .pcieTraining t _ _ => t
  | .inventoryReady t _ => t
  | .pwrFailN t _ => t
  | .supplyOutOfRange t _ _ _ => t
  | .deviceReset t _ => t
  | .managementWatchdog t => t
  | .mboxComputeReset t _ => t
  | .mboxBayReset t _ => t
  | .computeReset t => t
  | .bayReset t _ => t
  | .pciePerst t => t
  | .pcieLinkRetrain t _ _ => t
  | .pciePoisonedTlp t => t
  | .recoveryPortEnable t => t
  | .eepromRead t _ => t
  | .registerWrite t _ _ _ _ => t
  | .registerReadClear t _ _ _ => t
  | .register64LowRead t _ _ => t
  | .controlSpaceAccess t _ _ _ _ _ => t
  | .bar4Access t _ _ _ _ => t
  | .timeMessageSend t => t
  | .timeMessageReceive t _ _ => t
  | .boundaryMessage t => t
  | .stitchStart t _ _ => t
  | .workWindowEnd t _ _ => t
  | .arithFlagSummary t _ => t
  | .rollCall t _ _ _ => t
  | .rollCallCompare t _ => t
  | .scrubWindow t _ => t
  | .trimApply t _ _ => t
  | .seqMaskBroadcast t => t
  | .fabricSample t _ => t
  | .telemetryRecordWrite t _ => t
  | .voteFreeze t _ => t
  | .commitSampling t => t
  | .commitApply t => t
  | .commitPhaseEnd t => t
  | .doneTokenArrival t _ _ _ _ _ => t
  | .peerTimeout t => t
  | .ctxSwitch t _ => t
  | .resume t => t
  | .modeCancel t => t
  | .voidCurrent t => t
  | .modeStage t => t
  | .stageAck t _ _ => t
  | .bayWakeStart t _ => t
  | .wakeComplete t _ => t
  | .mboxReadInventory t => t
  | .mboxLoadImage t _ _ => t
  | .mboxEndResidency t _ => t
  | .mboxStartSession t _ => t
  | .mboxEndSession t => t
  | .mboxSetCap t _ => t
  | .mboxTwinAttach t _ _ _ _ _ => t
  | .mboxTwinDetach t => t
  | .mailboxResponse t => t
  | .sessionEndScrubDone t => t
  | .backgroundFrame t _ _ _ _ => t
  | .bundleIssue t _ => t
  | .nop t _ => t
  | .hold t _ _ => t
  | .holdExpiry t _ => t
  | .loop t _ _ => t
  | .endloop t _ => t
  | .seti t _ _ _ => t
  | .addi t _ _ _ => t
  | .pred t _ _ _ => t
  | .predon t _ => t
  | .exit t _ _ _ => t
  | .brace t _ _ => t
  | .braceArm t _ => t
  | .launch t _ _ => t
  | .launchRelease t _ => t
  | .endMark t _ => t
  | .stitchEndMarkerRetire t _ => t
  | .laneStoreRewrite t _ => t
  | .mm t _ _ => t
  | .mma t _ _ => t
  | .drain t _ _ => t
  | .stageLoad t _ _ => t
  | .steOutputIssue t _ => t
  | .accumulate t _ => t
  | .checksumCompare t _ => t
  | .vectorPass t _ _ => t
  | .vectorResultWrite t _ => t
  | .dma t _ _ _ _ _ => t
  | .dmaTransferStart t _ => t
  | .dmaTransferComplete t _ => t
  | .send t _ _ _ _ _ => t
  | .sig t _ _ _ _ => t
  | .wait t _ _ _ _ => t
  | .waitge t _ _ _ _ => t
  | .waitSatisfied t _ => t
  | .scratchpadArbitration t _ _ => t
  | .scratchpadPromotion t _ _ => t
  | .cuSrSeedWrite t _ _ => t
  | .route t _ _ => t
  | .spin t _ _ _ _ => t
  | .agstart t _ _ _ _ => t
  | .tag t _ _ _ => t
  | .spinWrite t _ _ => t
  | .linkPayloadTransfer t _ _ _ => t
  | .seamPayloadExit t _ _ => t
  | .seamCreditReturn t _ _ => t
  | .fabricPortTransfer t _ _ _ => t
  | .telemetryRingConfig t _ _ _ _ => t
  | .sliceArbitration t _ _ _ => t
  | .narrowStarvation t _ _ _ _ => t
  | .cuPortDmaPromotion t _ => t
  | .agStreamStart t _ _ => t
  | .agAccess t _ _ => t
  | .indexFetch t _ _ => t
  | .agStreamComplete t _ _ => t
  | .remoteAccess t _ => t
  | .tokenPayloadEnter t _ _ => t
  | .steerCycle t _ => t
  | .steerPairTimeout t _ => t
  | .dispatchPassStart t _ _ => t
  | .tokenRank t _ => t
  | .tokenResolve t _ => t
  | .tokenPayloadEmit t _ => t
  | .passEndFill t _ => t
  | .dispatchPassComplete t _ => t
  | .meshInject t _ => t
  | .routerForward t _ _ _ => t
  | .multicastReplicate t _ _ => t
  | .multicastAckCombine t _ _ _ => t
  | .meshResponseReceive t _ => t
  | .messageSendInject t _ _ => t
  | .messageArrival t _ => t
  | .messagePartArrival t _ => t
  | .messageResponse t _ _ _ => t
  | .messageRetry t _ _ => t
  | .ringRelease t _ _ => t
  | .launchEntryArm t _ _ _ => t
  | .launchEntryDisarm t _ _ _ => t
  | .launchEntryFire t _ _ => t
  | .hsyncSignal t _ => t
  | .hostWaitArm t _ _ => t
  | .hostWaitSatisfied t _ => t
  | .timeNowRead t => t
  | .hbmRead t _ => t
  | .hbmWrite t _ _ => t
  | .hbmRecalibration t _ _ _ _ => t
  | .hbmPatrol t _ _ => t
  | .qpInTail t _ _ => t
  | .qpOutHead t _ _ => t
  | .dmaTail t _ _ => t
  | .dmaRestart t _ => t
  | .dmaDescriptorStart t _ _ => t
  | .dmaBufferRead t _ => t
  | .dmaHostReadTimeout t _ => t
  | .dmaDescriptorComplete t _ => t
  | .hostDmaResWrite t _ _ => t
  | .hostVersionWrite t _ => t
  | .eventReport t => t
  | .eventRecordWrite t => t
  | .evtRingHeadWrite t _ => t
  | .evtRingEnable t _ => t
  | .claimIdRead t _ => t
  | .claimDoneWrite t _ _ => t
  | .casrikFlitSend t _ => t
  | .casrikFlitReceive t _ _ _ _ => t
  | .wavelengthDrop t _ _ => t
  | .wavelengthRejoin t _ _ => t
  | .siteDown t _ => t
  | .exportStart t _ _ => t
  | .checkpointStream t => t
  | .heartbeatSend t => t
  | .heartbeatInterval t _ => t
  | .twinFatalIn t => t
  | .twinTakeover t => t
  | .regulatorPhaseFail t _ _ _ => t
  | .bayRailShort t _ _ => t
  | .fabricRailShort t _ _ => t
  | .droopBoost t _ => t
  | .clockStretch t _ => t
  | .vminSample t _ _ => t
  | .vminRead t _ _ => t
  | .governorRiseTick t _ => t
  | .governorFallTick t _ => t
  | .panelBudgetUpdate t _ _ => t
  | .bayBudgetCompare t _ _ _ => t
  | .thermalSample t _ _ => t
  | .darnUpdateComplete t => t
  | .recordCommit t _ => t
  | .logCompaction t => t
  | .getVersion t => t
  | .getCapabilities t => t
  | .negotiateAlgorithms t => t
  | .getDigests t => t
  | .getCertificate t => t
  | .challenge t => t
  | .getMeasurements t _ => t
  | .keyExchange t => t
  | .finish t => t
  | .heartbeat t => t
  | .keyUpdate t => t
  | .endSession t => t
  | .ownerSet t _ => t
  | .ownerRevoke t _ => t
  | .debugAuth t _ => t
  | .debugRevoke t _ => t
  | .fwUpdate t _ _ => t
  | .ideKm t _ => t
  | .diagGo t _ _ => t
  | .diagReadComplete t => t
  | .dmaReadCompletion t _ _ _ => t
  | .vectorIssue t _ => t
  | .uncorrectableInternalError t => t
  | .pcieLinkDown t => t
  | .recoveryPortDisable t => t
  | .clockStretchEnd t _ => t
  | .secureSessionLoss t => t

/-- The same command at another time. -/
def Instr.retimed (t : Nat) : Instr → Instr
  | .powerOnReset _ => .powerOnReset t
  | .auxGood _ => .auxGood t
  | .boot _ x0 => .boot t x0
  | .mainEnable _ => .mainEnable t
  | .mainEnableTimeout _ => .mainEnableTimeout t
  | .vinMainInRange _ => .vinMainInRange t
  | .bayCoreRailUp _ x0 x1 => .bayCoreRailUp t x0 x1
  | .bist _ x0 x1 => .bist t x0 x1
  | .hbmTraining _ x0 x1 x2 x3 => .hbmTraining t x0 x1 x2 x3
  | .siteTraining _ x0 x1 => .siteTraining t x0 x1
  | .pcieTraining _ x0 x1 => .pcieTraining t x0 x1
  | .inventoryReady _ x0 => .inventoryReady t x0
  | .pwrFailN _ x0 => .pwrFailN t x0
  | .supplyOutOfRange _ x0 x1 x2 => .supplyOutOfRange t x0 x1 x2
  | .deviceReset _ x0 => .deviceReset t x0
  | .managementWatchdog _ => .managementWatchdog t
  | .mboxComputeReset _ x0 => .mboxComputeReset t x0
  | .mboxBayReset _ x0 => .mboxBayReset t x0
  | .computeReset _ => .computeReset t
  | .bayReset _ x0 => .bayReset t x0
  | .pciePerst _ => .pciePerst t
  | .pcieLinkRetrain _ x0 x1 => .pcieLinkRetrain t x0 x1
  | .pciePoisonedTlp _ => .pciePoisonedTlp t
  | .recoveryPortEnable _ => .recoveryPortEnable t
  | .eepromRead _ x0 => .eepromRead t x0
  | .registerWrite _ x0 x1 x2 x3 => .registerWrite t x0 x1 x2 x3
  | .registerReadClear _ x0 x1 x2 => .registerReadClear t x0 x1 x2
  | .register64LowRead _ x0 x1 => .register64LowRead t x0 x1
  | .controlSpaceAccess _ x0 x1 x2 x3 x4 => .controlSpaceAccess t x0 x1 x2 x3 x4
  | .bar4Access _ x0 x1 x2 x3 => .bar4Access t x0 x1 x2 x3
  | .timeMessageSend _ => .timeMessageSend t
  | .timeMessageReceive _ x0 x1 => .timeMessageReceive t x0 x1
  | .boundaryMessage _ => .boundaryMessage t
  | .stitchStart _ x0 x1 => .stitchStart t x0 x1
  | .workWindowEnd _ x0 x1 => .workWindowEnd t x0 x1
  | .arithFlagSummary _ x0 => .arithFlagSummary t x0
  | .rollCall _ x0 x1 x2 => .rollCall t x0 x1 x2
  | .rollCallCompare _ x0 => .rollCallCompare t x0
  | .scrubWindow _ x0 => .scrubWindow t x0
  | .trimApply _ x0 x1 => .trimApply t x0 x1
  | .seqMaskBroadcast _ => .seqMaskBroadcast t
  | .fabricSample _ x0 => .fabricSample t x0
  | .telemetryRecordWrite _ x0 => .telemetryRecordWrite t x0
  | .voteFreeze _ x0 => .voteFreeze t x0
  | .commitSampling _ => .commitSampling t
  | .commitApply _ => .commitApply t
  | .commitPhaseEnd _ => .commitPhaseEnd t
  | .doneTokenArrival _ x0 x1 x2 x3 x4 => .doneTokenArrival t x0 x1 x2 x3 x4
  | .peerTimeout _ => .peerTimeout t
  | .ctxSwitch _ x0 => .ctxSwitch t x0
  | .resume _ => .resume t
  | .modeCancel _ => .modeCancel t
  | .voidCurrent _ => .voidCurrent t
  | .modeStage _ => .modeStage t
  | .stageAck _ x0 x1 => .stageAck t x0 x1
  | .bayWakeStart _ x0 => .bayWakeStart t x0
  | .wakeComplete _ x0 => .wakeComplete t x0
  | .mboxReadInventory _ => .mboxReadInventory t
  | .mboxLoadImage _ x0 x1 => .mboxLoadImage t x0 x1
  | .mboxEndResidency _ x0 => .mboxEndResidency t x0
  | .mboxStartSession _ x0 => .mboxStartSession t x0
  | .mboxEndSession _ => .mboxEndSession t
  | .mboxSetCap _ x0 => .mboxSetCap t x0
  | .mboxTwinAttach _ x0 x1 x2 x3 x4 => .mboxTwinAttach t x0 x1 x2 x3 x4
  | .mboxTwinDetach _ => .mboxTwinDetach t
  | .mailboxResponse _ => .mailboxResponse t
  | .sessionEndScrubDone _ => .sessionEndScrubDone t
  | .backgroundFrame _ x0 x1 x2 x3 => .backgroundFrame t x0 x1 x2 x3
  | .bundleIssue _ x0 => .bundleIssue t x0
  | .nop _ x0 => .nop t x0
  | .hold _ x0 x1 => .hold t x0 x1
  | .holdExpiry _ x0 => .holdExpiry t x0
  | .loop _ x0 x1 => .loop t x0 x1
  | .endloop _ x0 => .endloop t x0
  | .seti _ x0 x1 x2 => .seti t x0 x1 x2
  | .addi _ x0 x1 x2 => .addi t x0 x1 x2
  | .pred _ x0 x1 x2 => .pred t x0 x1 x2
  | .predon _ x0 => .predon t x0
  | .exit _ x0 x1 x2 => .exit t x0 x1 x2
  | .brace _ x0 x1 => .brace t x0 x1
  | .braceArm _ x0 => .braceArm t x0
  | .launch _ x0 x1 => .launch t x0 x1
  | .launchRelease _ x0 => .launchRelease t x0
  | .endMark _ x0 => .endMark t x0
  | .stitchEndMarkerRetire _ x0 => .stitchEndMarkerRetire t x0
  | .laneStoreRewrite _ x0 => .laneStoreRewrite t x0
  | .mm _ x0 x1 => .mm t x0 x1
  | .mma _ x0 x1 => .mma t x0 x1
  | .drain _ x0 x1 => .drain t x0 x1
  | .stageLoad _ x0 x1 => .stageLoad t x0 x1
  | .steOutputIssue _ x0 => .steOutputIssue t x0
  | .accumulate _ x0 => .accumulate t x0
  | .checksumCompare _ x0 => .checksumCompare t x0
  | .vectorPass _ x0 x1 => .vectorPass t x0 x1
  | .vectorResultWrite _ x0 => .vectorResultWrite t x0
  | .dma _ x0 x1 x2 x3 x4 => .dma t x0 x1 x2 x3 x4
  | .dmaTransferStart _ x0 => .dmaTransferStart t x0
  | .dmaTransferComplete _ x0 => .dmaTransferComplete t x0
  | .send _ x0 x1 x2 x3 x4 => .send t x0 x1 x2 x3 x4
  | .sig _ x0 x1 x2 x3 => .sig t x0 x1 x2 x3
  | .wait _ x0 x1 x2 x3 => .wait t x0 x1 x2 x3
  | .waitge _ x0 x1 x2 x3 => .waitge t x0 x1 x2 x3
  | .waitSatisfied _ x0 => .waitSatisfied t x0
  | .scratchpadArbitration _ x0 x1 => .scratchpadArbitration t x0 x1
  | .scratchpadPromotion _ x0 x1 => .scratchpadPromotion t x0 x1
  | .cuSrSeedWrite _ x0 x1 => .cuSrSeedWrite t x0 x1
  | .route _ x0 x1 => .route t x0 x1
  | .spin _ x0 x1 x2 x3 => .spin t x0 x1 x2 x3
  | .agstart _ x0 x1 x2 x3 => .agstart t x0 x1 x2 x3
  | .tag _ x0 x1 x2 => .tag t x0 x1 x2
  | .spinWrite _ x0 x1 => .spinWrite t x0 x1
  | .linkPayloadTransfer _ x0 x1 x2 => .linkPayloadTransfer t x0 x1 x2
  | .seamPayloadExit _ x0 x1 => .seamPayloadExit t x0 x1
  | .seamCreditReturn _ x0 x1 => .seamCreditReturn t x0 x1
  | .fabricPortTransfer _ x0 x1 x2 => .fabricPortTransfer t x0 x1 x2
  | .telemetryRingConfig _ x0 x1 x2 x3 => .telemetryRingConfig t x0 x1 x2 x3
  | .sliceArbitration _ x0 x1 x2 => .sliceArbitration t x0 x1 x2
  | .narrowStarvation _ x0 x1 x2 x3 => .narrowStarvation t x0 x1 x2 x3
  | .cuPortDmaPromotion _ x0 => .cuPortDmaPromotion t x0
  | .agStreamStart _ x0 x1 => .agStreamStart t x0 x1
  | .agAccess _ x0 x1 => .agAccess t x0 x1
  | .indexFetch _ x0 x1 => .indexFetch t x0 x1
  | .agStreamComplete _ x0 x1 => .agStreamComplete t x0 x1
  | .remoteAccess _ x0 => .remoteAccess t x0
  | .tokenPayloadEnter _ x0 x1 => .tokenPayloadEnter t x0 x1
  | .steerCycle _ x0 => .steerCycle t x0
  | .steerPairTimeout _ x0 => .steerPairTimeout t x0
  | .dispatchPassStart _ x0 x1 => .dispatchPassStart t x0 x1
  | .tokenRank _ x0 => .tokenRank t x0
  | .tokenResolve _ x0 => .tokenResolve t x0
  | .tokenPayloadEmit _ x0 => .tokenPayloadEmit t x0
  | .passEndFill _ x0 => .passEndFill t x0
  | .dispatchPassComplete _ x0 => .dispatchPassComplete t x0
  | .meshInject _ x0 => .meshInject t x0
  | .routerForward _ x0 x1 x2 => .routerForward t x0 x1 x2
  | .multicastReplicate _ x0 x1 => .multicastReplicate t x0 x1
  | .multicastAckCombine _ x0 x1 x2 => .multicastAckCombine t x0 x1 x2
  | .meshResponseReceive _ x0 => .meshResponseReceive t x0
  | .messageSendInject _ x0 x1 => .messageSendInject t x0 x1
  | .messageArrival _ x0 => .messageArrival t x0
  | .messagePartArrival _ x0 => .messagePartArrival t x0
  | .messageResponse _ x0 x1 x2 => .messageResponse t x0 x1 x2
  | .messageRetry _ x0 x1 => .messageRetry t x0 x1
  | .ringRelease _ x0 x1 => .ringRelease t x0 x1
  | .launchEntryArm _ x0 x1 x2 => .launchEntryArm t x0 x1 x2
  | .launchEntryDisarm _ x0 x1 x2 => .launchEntryDisarm t x0 x1 x2
  | .launchEntryFire _ x0 x1 => .launchEntryFire t x0 x1
  | .hsyncSignal _ x0 => .hsyncSignal t x0
  | .hostWaitArm _ x0 x1 => .hostWaitArm t x0 x1
  | .hostWaitSatisfied _ x0 => .hostWaitSatisfied t x0
  | .timeNowRead _ => .timeNowRead t
  | .hbmRead _ x0 => .hbmRead t x0
  | .hbmWrite _ x0 x1 => .hbmWrite t x0 x1
  | .hbmRecalibration _ x0 x1 x2 x3 => .hbmRecalibration t x0 x1 x2 x3
  | .hbmPatrol _ x0 x1 => .hbmPatrol t x0 x1
  | .qpInTail _ x0 x1 => .qpInTail t x0 x1
  | .qpOutHead _ x0 x1 => .qpOutHead t x0 x1
  | .dmaTail _ x0 x1 => .dmaTail t x0 x1
  | .dmaRestart _ x0 => .dmaRestart t x0
  | .dmaDescriptorStart _ x0 x1 => .dmaDescriptorStart t x0 x1
  | .dmaBufferRead _ x0 => .dmaBufferRead t x0
  | .dmaHostReadTimeout _ x0 => .dmaHostReadTimeout t x0
  | .dmaDescriptorComplete _ x0 => .dmaDescriptorComplete t x0
  | .hostDmaResWrite _ x0 x1 => .hostDmaResWrite t x0 x1
  | .hostVersionWrite _ x0 => .hostVersionWrite t x0
  | .eventReport _ => .eventReport t
  | .eventRecordWrite _ => .eventRecordWrite t
  | .evtRingHeadWrite _ x0 => .evtRingHeadWrite t x0
  | .evtRingEnable _ x0 => .evtRingEnable t x0
  | .claimIdRead _ x0 => .claimIdRead t x0
  | .claimDoneWrite _ x0 x1 => .claimDoneWrite t x0 x1
  | .casrikFlitSend _ x0 => .casrikFlitSend t x0
  | .casrikFlitReceive _ x0 x1 x2 x3 => .casrikFlitReceive t x0 x1 x2 x3
  | .wavelengthDrop _ x0 x1 => .wavelengthDrop t x0 x1
  | .wavelengthRejoin _ x0 x1 => .wavelengthRejoin t x0 x1
  | .siteDown _ x0 => .siteDown t x0
  | .exportStart _ x0 x1 => .exportStart t x0 x1
  | .checkpointStream _ => .checkpointStream t
  | .heartbeatSend _ => .heartbeatSend t
  | .heartbeatInterval _ x0 => .heartbeatInterval t x0
  | .twinFatalIn _ => .twinFatalIn t
  | .twinTakeover _ => .twinTakeover t
  | .regulatorPhaseFail _ x0 x1 x2 => .regulatorPhaseFail t x0 x1 x2
  | .bayRailShort _ x0 x1 => .bayRailShort t x0 x1
  | .fabricRailShort _ x0 x1 => .fabricRailShort t x0 x1
  | .droopBoost _ x0 => .droopBoost t x0
  | .clockStretch _ x0 => .clockStretch t x0
  | .vminSample _ x0 x1 => .vminSample t x0 x1
  | .vminRead _ x0 x1 => .vminRead t x0 x1
  | .governorRiseTick _ x0 => .governorRiseTick t x0
  | .governorFallTick _ x0 => .governorFallTick t x0
  | .panelBudgetUpdate _ x0 x1 => .panelBudgetUpdate t x0 x1
  | .bayBudgetCompare _ x0 x1 x2 => .bayBudgetCompare t x0 x1 x2
  | .thermalSample _ x0 x1 => .thermalSample t x0 x1
  | .darnUpdateComplete _ => .darnUpdateComplete t
  | .recordCommit _ x0 => .recordCommit t x0
  | .logCompaction _ => .logCompaction t
  | .getVersion _ => .getVersion t
  | .getCapabilities _ => .getCapabilities t
  | .negotiateAlgorithms _ => .negotiateAlgorithms t
  | .getDigests _ => .getDigests t
  | .getCertificate _ => .getCertificate t
  | .challenge _ => .challenge t
  | .getMeasurements _ x0 => .getMeasurements t x0
  | .keyExchange _ => .keyExchange t
  | .finish _ => .finish t
  | .heartbeat _ => .heartbeat t
  | .keyUpdate _ => .keyUpdate t
  | .endSession _ => .endSession t
  | .ownerSet _ x0 => .ownerSet t x0
  | .ownerRevoke _ x0 => .ownerRevoke t x0
  | .debugAuth _ x0 => .debugAuth t x0
  | .debugRevoke _ x0 => .debugRevoke t x0
  | .fwUpdate _ x0 x1 => .fwUpdate t x0 x1
  | .ideKm _ x0 => .ideKm t x0
  | .diagGo _ x0 x1 => .diagGo t x0 x1
  | .diagReadComplete _ => .diagReadComplete t
  | .dmaReadCompletion _ x0 x1 x2 => .dmaReadCompletion t x0 x1 x2
  | .vectorIssue _ x0 => .vectorIssue t x0
  | .uncorrectableInternalError _ => .uncorrectableInternalError t
  | .pcieLinkDown _ => .pcieLinkDown t
  | .recoveryPortDisable _ => .recoveryPortDisable t
  | .clockStretchEnd _ x0 => .clockStretchEnd t x0
  | .secureSessionLoss _ => .secureSessionLoss t

end Sys2Proof

namespace Sys2Proof.Laws.Clocked

/-- A command given another time carries that time, and is well formed exactly if it was. -/
def Statement (i : Instr) : Prop := ∀ t, (i.retimed t).time = t ∧ (i.retimed t).wellFormed = i.wellFormed

theorem powerOnReset : ∀ x0, Statement (.powerOnReset x0) := fun _ _ => ⟨rfl, rfl⟩
theorem auxGood : ∀ x0, Statement (.auxGood x0) := fun _ _ => ⟨rfl, rfl⟩
theorem boot : ∀ x0 x1, Statement (.boot x0 x1) := fun _ _ _ => ⟨rfl, rfl⟩
theorem mainEnable : ∀ x0, Statement (.mainEnable x0) := fun _ _ => ⟨rfl, rfl⟩
theorem mainEnableTimeout : ∀ x0, Statement (.mainEnableTimeout x0) := fun _ _ => ⟨rfl, rfl⟩
theorem vinMainInRange : ∀ x0, Statement (.vinMainInRange x0) := fun _ _ => ⟨rfl, rfl⟩
theorem bayCoreRailUp : ∀ x0 x1 x2, Statement (.bayCoreRailUp x0 x1 x2) := fun _ _ _ _ => ⟨rfl, rfl⟩
theorem bist : ∀ x0 x1 x2, Statement (.bist x0 x1 x2) := fun _ _ _ _ => ⟨rfl, rfl⟩
theorem hbmTraining : ∀ x0 x1 x2 x3 x4, Statement (.hbmTraining x0 x1 x2 x3 x4) := fun _ _ _ _ _ _ => ⟨rfl, rfl⟩
theorem siteTraining : ∀ x0 x1 x2, Statement (.siteTraining x0 x1 x2) := fun _ _ _ _ => ⟨rfl, rfl⟩
theorem pcieTraining : ∀ x0 x1 x2, Statement (.pcieTraining x0 x1 x2) := fun _ _ _ _ => ⟨rfl, rfl⟩
theorem inventoryReady : ∀ x0 x1, Statement (.inventoryReady x0 x1) := fun _ _ _ => ⟨rfl, rfl⟩
theorem pwrFailN : ∀ x0 x1, Statement (.pwrFailN x0 x1) := fun _ _ _ => ⟨rfl, rfl⟩
theorem supplyOutOfRange : ∀ x0 x1 x2 x3, Statement (.supplyOutOfRange x0 x1 x2 x3) := fun _ _ _ _ _ => ⟨rfl, rfl⟩
theorem deviceReset : ∀ x0 x1, Statement (.deviceReset x0 x1) := fun _ _ _ => ⟨rfl, rfl⟩
theorem managementWatchdog : ∀ x0, Statement (.managementWatchdog x0) := fun _ _ => ⟨rfl, rfl⟩
theorem mboxComputeReset : ∀ x0 x1, Statement (.mboxComputeReset x0 x1) := fun _ _ _ => ⟨rfl, rfl⟩
theorem mboxBayReset : ∀ x0 x1, Statement (.mboxBayReset x0 x1) := fun _ _ _ => ⟨rfl, rfl⟩
theorem computeReset : ∀ x0, Statement (.computeReset x0) := fun _ _ => ⟨rfl, rfl⟩
theorem bayReset : ∀ x0 x1, Statement (.bayReset x0 x1) := fun _ _ _ => ⟨rfl, rfl⟩
theorem pciePerst : ∀ x0, Statement (.pciePerst x0) := fun _ _ => ⟨rfl, rfl⟩
theorem pcieLinkRetrain : ∀ x0 x1 x2, Statement (.pcieLinkRetrain x0 x1 x2) := fun _ _ _ _ => ⟨rfl, rfl⟩
theorem pciePoisonedTlp : ∀ x0, Statement (.pciePoisonedTlp x0) := fun _ _ => ⟨rfl, rfl⟩
theorem recoveryPortEnable : ∀ x0, Statement (.recoveryPortEnable x0) := fun _ _ => ⟨rfl, rfl⟩
theorem eepromRead : ∀ x0 x1, Statement (.eepromRead x0 x1) := fun _ _ _ => ⟨rfl, rfl⟩
theorem registerWrite : ∀ x0 x1 x2 x3 x4, Statement (.registerWrite x0 x1 x2 x3 x4) := fun _ _ _ _ _ _ => ⟨rfl, rfl⟩
theorem registerReadClear : ∀ x0 x1 x2 x3, Statement (.registerReadClear x0 x1 x2 x3) := fun _ _ _ _ _ => ⟨rfl, rfl⟩
theorem register64LowRead : ∀ x0 x1 x2, Statement (.register64LowRead x0 x1 x2) := fun _ _ _ _ => ⟨rfl, rfl⟩
theorem controlSpaceAccess : ∀ x0 x1 x2 x3 x4 x5, Statement (.controlSpaceAccess x0 x1 x2 x3 x4 x5) := fun _ _ _ _ _ _ _ => ⟨rfl, rfl⟩
theorem bar4Access : ∀ x0 x1 x2 x3 x4, Statement (.bar4Access x0 x1 x2 x3 x4) := fun _ _ _ _ _ _ => ⟨rfl, rfl⟩
theorem timeMessageSend : ∀ x0, Statement (.timeMessageSend x0) := fun _ _ => ⟨rfl, rfl⟩
theorem timeMessageReceive : ∀ x0 x1 x2, Statement (.timeMessageReceive x0 x1 x2) := fun _ _ _ _ => ⟨rfl, rfl⟩
theorem boundaryMessage : ∀ x0, Statement (.boundaryMessage x0) := fun _ _ => ⟨rfl, rfl⟩
theorem stitchStart : ∀ x0 x1 x2, Statement (.stitchStart x0 x1 x2) := fun _ _ _ _ => ⟨rfl, rfl⟩
theorem workWindowEnd : ∀ x0 x1 x2, Statement (.workWindowEnd x0 x1 x2) := fun _ _ _ _ => ⟨rfl, rfl⟩
theorem arithFlagSummary : ∀ x0 x1, Statement (.arithFlagSummary x0 x1) := fun _ _ _ => ⟨rfl, rfl⟩
theorem rollCall : ∀ x0 x1 x2 x3, Statement (.rollCall x0 x1 x2 x3) := fun _ _ _ _ _ => ⟨rfl, rfl⟩
theorem rollCallCompare : ∀ x0 x1, Statement (.rollCallCompare x0 x1) := fun _ _ _ => ⟨rfl, rfl⟩
theorem scrubWindow : ∀ x0 x1, Statement (.scrubWindow x0 x1) := fun _ _ _ => ⟨rfl, rfl⟩
theorem trimApply : ∀ x0 x1 x2, Statement (.trimApply x0 x1 x2) := fun _ _ _ _ => ⟨rfl, rfl⟩
theorem seqMaskBroadcast : ∀ x0, Statement (.seqMaskBroadcast x0) := fun _ _ => ⟨rfl, rfl⟩
theorem fabricSample : ∀ x0 x1, Statement (.fabricSample x0 x1) := fun _ _ _ => ⟨rfl, rfl⟩
theorem telemetryRecordWrite : ∀ x0 x1, Statement (.telemetryRecordWrite x0 x1) := fun _ _ _ => ⟨rfl, rfl⟩
theorem voteFreeze : ∀ x0 x1, Statement (.voteFreeze x0 x1) := fun _ _ _ => ⟨rfl, rfl⟩
theorem commitSampling : ∀ x0, Statement (.commitSampling x0) := fun _ _ => ⟨rfl, rfl⟩
theorem commitApply : ∀ x0, Statement (.commitApply x0) := fun _ _ => ⟨rfl, rfl⟩
theorem commitPhaseEnd : ∀ x0, Statement (.commitPhaseEnd x0) := fun _ _ => ⟨rfl, rfl⟩
theorem doneTokenArrival : ∀ x0 x1 x2 x3 x4 x5, Statement (.doneTokenArrival x0 x1 x2 x3 x4 x5) := fun _ _ _ _ _ _ _ => ⟨rfl, rfl⟩
theorem peerTimeout : ∀ x0, Statement (.peerTimeout x0) := fun _ _ => ⟨rfl, rfl⟩
theorem ctxSwitch : ∀ x0 x1, Statement (.ctxSwitch x0 x1) := fun _ _ _ => ⟨rfl, rfl⟩
theorem resume : ∀ x0, Statement (.resume x0) := fun _ _ => ⟨rfl, rfl⟩
theorem modeCancel : ∀ x0, Statement (.modeCancel x0) := fun _ _ => ⟨rfl, rfl⟩
theorem voidCurrent : ∀ x0, Statement (.voidCurrent x0) := fun _ _ => ⟨rfl, rfl⟩
theorem modeStage : ∀ x0, Statement (.modeStage x0) := fun _ _ => ⟨rfl, rfl⟩
theorem stageAck : ∀ x0 x1 x2, Statement (.stageAck x0 x1 x2) := fun _ _ _ _ => ⟨rfl, rfl⟩
theorem bayWakeStart : ∀ x0 x1, Statement (.bayWakeStart x0 x1) := fun _ _ _ => ⟨rfl, rfl⟩
theorem wakeComplete : ∀ x0 x1, Statement (.wakeComplete x0 x1) := fun _ _ _ => ⟨rfl, rfl⟩
theorem mboxReadInventory : ∀ x0, Statement (.mboxReadInventory x0) := fun _ _ => ⟨rfl, rfl⟩
theorem mboxLoadImage : ∀ x0 x1 x2, Statement (.mboxLoadImage x0 x1 x2) := fun _ _ _ _ => ⟨rfl, rfl⟩
theorem mboxEndResidency : ∀ x0 x1, Statement (.mboxEndResidency x0 x1) := fun _ _ _ => ⟨rfl, rfl⟩
theorem mboxStartSession : ∀ x0 x1, Statement (.mboxStartSession x0 x1) := fun _ _ _ => ⟨rfl, rfl⟩
theorem mboxEndSession : ∀ x0, Statement (.mboxEndSession x0) := fun _ _ => ⟨rfl, rfl⟩
theorem mboxSetCap : ∀ x0 x1, Statement (.mboxSetCap x0 x1) := fun _ _ _ => ⟨rfl, rfl⟩
theorem mboxTwinAttach : ∀ x0 x1 x2 x3 x4 x5, Statement (.mboxTwinAttach x0 x1 x2 x3 x4 x5) := fun _ _ _ _ _ _ _ => ⟨rfl, rfl⟩
theorem mboxTwinDetach : ∀ x0, Statement (.mboxTwinDetach x0) := fun _ _ => ⟨rfl, rfl⟩
theorem mailboxResponse : ∀ x0, Statement (.mailboxResponse x0) := fun _ _ => ⟨rfl, rfl⟩
theorem sessionEndScrubDone : ∀ x0, Statement (.sessionEndScrubDone x0) := fun _ _ => ⟨rfl, rfl⟩
theorem backgroundFrame : ∀ x0 x1 x2 x3 x4, Statement (.backgroundFrame x0 x1 x2 x3 x4) := fun _ _ _ _ _ _ => ⟨rfl, rfl⟩
theorem bundleIssue : ∀ x0 x1, Statement (.bundleIssue x0 x1) := fun _ _ _ => ⟨rfl, rfl⟩
theorem nop : ∀ x0 x1, Statement (.nop x0 x1) := fun _ _ _ => ⟨rfl, rfl⟩
theorem hold : ∀ x0 x1 x2, Statement (.hold x0 x1 x2) := fun _ _ _ _ => ⟨rfl, rfl⟩
theorem holdExpiry : ∀ x0 x1, Statement (.holdExpiry x0 x1) := fun _ _ _ => ⟨rfl, rfl⟩
theorem loop : ∀ x0 x1 x2, Statement (.loop x0 x1 x2) := fun _ _ _ _ => ⟨rfl, rfl⟩
theorem endloop : ∀ x0 x1, Statement (.endloop x0 x1) := fun _ _ _ => ⟨rfl, rfl⟩
theorem seti : ∀ x0 x1 x2 x3, Statement (.seti x0 x1 x2 x3) := fun _ _ _ _ _ => ⟨rfl, rfl⟩
theorem addi : ∀ x0 x1 x2 x3, Statement (.addi x0 x1 x2 x3) := fun _ _ _ _ _ => ⟨rfl, rfl⟩
theorem pred : ∀ x0 x1 x2 x3, Statement (.pred x0 x1 x2 x3) := fun _ _ _ _ _ => ⟨rfl, rfl⟩
theorem predon : ∀ x0 x1, Statement (.predon x0 x1) := fun _ _ _ => ⟨rfl, rfl⟩
theorem exit : ∀ x0 x1 x2 x3, Statement (.exit x0 x1 x2 x3) := fun _ _ _ _ _ => ⟨rfl, rfl⟩
theorem brace : ∀ x0 x1 x2, Statement (.brace x0 x1 x2) := fun _ _ _ _ => ⟨rfl, rfl⟩
theorem braceArm : ∀ x0 x1, Statement (.braceArm x0 x1) := fun _ _ _ => ⟨rfl, rfl⟩
theorem launch : ∀ x0 x1 x2, Statement (.launch x0 x1 x2) := fun _ _ _ _ => ⟨rfl, rfl⟩
theorem launchRelease : ∀ x0 x1, Statement (.launchRelease x0 x1) := fun _ _ _ => ⟨rfl, rfl⟩
theorem endMark : ∀ x0 x1, Statement (.endMark x0 x1) := fun _ _ _ => ⟨rfl, rfl⟩
theorem stitchEndMarkerRetire : ∀ x0 x1, Statement (.stitchEndMarkerRetire x0 x1) := fun _ _ _ => ⟨rfl, rfl⟩
theorem laneStoreRewrite : ∀ x0 x1, Statement (.laneStoreRewrite x0 x1) := fun _ _ _ => ⟨rfl, rfl⟩
theorem mm : ∀ x0 x1 x2, Statement (.mm x0 x1 x2) := fun _ _ _ _ => ⟨rfl, rfl⟩
theorem mma : ∀ x0 x1 x2, Statement (.mma x0 x1 x2) := fun _ _ _ _ => ⟨rfl, rfl⟩
theorem drain : ∀ x0 x1 x2, Statement (.drain x0 x1 x2) := fun _ _ _ _ => ⟨rfl, rfl⟩
theorem stageLoad : ∀ x0 x1 x2, Statement (.stageLoad x0 x1 x2) := fun _ _ _ _ => ⟨rfl, rfl⟩
theorem steOutputIssue : ∀ x0 x1, Statement (.steOutputIssue x0 x1) := fun _ _ _ => ⟨rfl, rfl⟩
theorem accumulate : ∀ x0 x1, Statement (.accumulate x0 x1) := fun _ _ _ => ⟨rfl, rfl⟩
theorem checksumCompare : ∀ x0 x1, Statement (.checksumCompare x0 x1) := fun _ _ _ => ⟨rfl, rfl⟩
theorem vectorPass : ∀ x0 x1 x2, Statement (.vectorPass x0 x1 x2) := fun _ _ _ _ => ⟨rfl, rfl⟩
theorem vectorResultWrite : ∀ x0 x1, Statement (.vectorResultWrite x0 x1) := fun _ _ _ => ⟨rfl, rfl⟩
theorem dma : ∀ x0 x1 x2 x3 x4 x5, Statement (.dma x0 x1 x2 x3 x4 x5) := fun _ _ _ _ _ _ _ => ⟨rfl, rfl⟩
theorem dmaTransferStart : ∀ x0 x1, Statement (.dmaTransferStart x0 x1) := fun _ _ _ => ⟨rfl, rfl⟩
theorem dmaTransferComplete : ∀ x0 x1, Statement (.dmaTransferComplete x0 x1) := fun _ _ _ => ⟨rfl, rfl⟩
theorem send : ∀ x0 x1 x2 x3 x4 x5, Statement (.send x0 x1 x2 x3 x4 x5) := fun _ _ _ _ _ _ _ => ⟨rfl, rfl⟩
theorem sig : ∀ x0 x1 x2 x3 x4, Statement (.sig x0 x1 x2 x3 x4) := fun _ _ _ _ _ _ => ⟨rfl, rfl⟩
theorem wait : ∀ x0 x1 x2 x3 x4, Statement (.wait x0 x1 x2 x3 x4) := fun _ _ _ _ _ _ => ⟨rfl, rfl⟩
theorem waitge : ∀ x0 x1 x2 x3 x4, Statement (.waitge x0 x1 x2 x3 x4) := fun _ _ _ _ _ _ => ⟨rfl, rfl⟩
theorem waitSatisfied : ∀ x0 x1, Statement (.waitSatisfied x0 x1) := fun _ _ _ => ⟨rfl, rfl⟩
theorem scratchpadArbitration : ∀ x0 x1 x2, Statement (.scratchpadArbitration x0 x1 x2) := fun _ _ _ _ => ⟨rfl, rfl⟩
theorem scratchpadPromotion : ∀ x0 x1 x2, Statement (.scratchpadPromotion x0 x1 x2) := fun _ _ _ _ => ⟨rfl, rfl⟩
theorem cuSrSeedWrite : ∀ x0 x1 x2, Statement (.cuSrSeedWrite x0 x1 x2) := fun _ _ _ _ => ⟨rfl, rfl⟩
theorem route : ∀ x0 x1 x2, Statement (.route x0 x1 x2) := fun _ _ _ _ => ⟨rfl, rfl⟩
theorem spin : ∀ x0 x1 x2 x3 x4, Statement (.spin x0 x1 x2 x3 x4) := fun _ _ _ _ _ _ => ⟨rfl, rfl⟩
theorem agstart : ∀ x0 x1 x2 x3 x4, Statement (.agstart x0 x1 x2 x3 x4) := fun _ _ _ _ _ _ => ⟨rfl, rfl⟩
theorem tag : ∀ x0 x1 x2 x3, Statement (.tag x0 x1 x2 x3) := fun _ _ _ _ _ => ⟨rfl, rfl⟩
theorem spinWrite : ∀ x0 x1 x2, Statement (.spinWrite x0 x1 x2) := fun _ _ _ _ => ⟨rfl, rfl⟩
theorem linkPayloadTransfer : ∀ x0 x1 x2 x3, Statement (.linkPayloadTransfer x0 x1 x2 x3) := fun _ _ _ _ _ => ⟨rfl, rfl⟩
theorem seamPayloadExit : ∀ x0 x1 x2, Statement (.seamPayloadExit x0 x1 x2) := fun _ _ _ _ => ⟨rfl, rfl⟩
theorem seamCreditReturn : ∀ x0 x1 x2, Statement (.seamCreditReturn x0 x1 x2) := fun _ _ _ _ => ⟨rfl, rfl⟩
theorem fabricPortTransfer : ∀ x0 x1 x2 x3, Statement (.fabricPortTransfer x0 x1 x2 x3) := fun _ _ _ _ _ => ⟨rfl, rfl⟩
theorem telemetryRingConfig : ∀ x0 x1 x2 x3 x4, Statement (.telemetryRingConfig x0 x1 x2 x3 x4) := fun _ _ _ _ _ _ => ⟨rfl, rfl⟩
theorem sliceArbitration : ∀ x0 x1 x2 x3, Statement (.sliceArbitration x0 x1 x2 x3) := fun _ _ _ _ _ => ⟨rfl, rfl⟩
theorem narrowStarvation : ∀ x0 x1 x2 x3 x4, Statement (.narrowStarvation x0 x1 x2 x3 x4) := fun _ _ _ _ _ _ => ⟨rfl, rfl⟩
theorem cuPortDmaPromotion : ∀ x0 x1, Statement (.cuPortDmaPromotion x0 x1) := fun _ _ _ => ⟨rfl, rfl⟩
theorem agStreamStart : ∀ x0 x1 x2, Statement (.agStreamStart x0 x1 x2) := fun _ _ _ _ => ⟨rfl, rfl⟩
theorem agAccess : ∀ x0 x1 x2, Statement (.agAccess x0 x1 x2) := fun _ _ _ _ => ⟨rfl, rfl⟩
theorem indexFetch : ∀ x0 x1 x2, Statement (.indexFetch x0 x1 x2) := fun _ _ _ _ => ⟨rfl, rfl⟩
theorem agStreamComplete : ∀ x0 x1 x2, Statement (.agStreamComplete x0 x1 x2) := fun _ _ _ _ => ⟨rfl, rfl⟩
theorem remoteAccess : ∀ x0 x1, Statement (.remoteAccess x0 x1) := fun _ _ _ => ⟨rfl, rfl⟩
theorem tokenPayloadEnter : ∀ x0 x1 x2, Statement (.tokenPayloadEnter x0 x1 x2) := fun _ _ _ _ => ⟨rfl, rfl⟩
theorem steerCycle : ∀ x0 x1, Statement (.steerCycle x0 x1) := fun _ _ _ => ⟨rfl, rfl⟩
theorem steerPairTimeout : ∀ x0 x1, Statement (.steerPairTimeout x0 x1) := fun _ _ _ => ⟨rfl, rfl⟩
theorem dispatchPassStart : ∀ x0 x1 x2, Statement (.dispatchPassStart x0 x1 x2) := fun _ _ _ _ => ⟨rfl, rfl⟩
theorem tokenRank : ∀ x0 x1, Statement (.tokenRank x0 x1) := fun _ _ _ => ⟨rfl, rfl⟩
theorem tokenResolve : ∀ x0 x1, Statement (.tokenResolve x0 x1) := fun _ _ _ => ⟨rfl, rfl⟩
theorem tokenPayloadEmit : ∀ x0 x1, Statement (.tokenPayloadEmit x0 x1) := fun _ _ _ => ⟨rfl, rfl⟩
theorem passEndFill : ∀ x0 x1, Statement (.passEndFill x0 x1) := fun _ _ _ => ⟨rfl, rfl⟩
theorem dispatchPassComplete : ∀ x0 x1, Statement (.dispatchPassComplete x0 x1) := fun _ _ _ => ⟨rfl, rfl⟩
theorem meshInject : ∀ x0 x1, Statement (.meshInject x0 x1) := fun _ _ _ => ⟨rfl, rfl⟩
theorem routerForward : ∀ x0 x1 x2 x3, Statement (.routerForward x0 x1 x2 x3) := fun _ _ _ _ _ => ⟨rfl, rfl⟩
theorem multicastReplicate : ∀ x0 x1 x2, Statement (.multicastReplicate x0 x1 x2) := fun _ _ _ _ => ⟨rfl, rfl⟩
theorem multicastAckCombine : ∀ x0 x1 x2 x3, Statement (.multicastAckCombine x0 x1 x2 x3) := fun _ _ _ _ _ => ⟨rfl, rfl⟩
theorem meshResponseReceive : ∀ x0 x1, Statement (.meshResponseReceive x0 x1) := fun _ _ _ => ⟨rfl, rfl⟩
theorem messageSendInject : ∀ x0 x1 x2, Statement (.messageSendInject x0 x1 x2) := fun _ _ _ _ => ⟨rfl, rfl⟩
theorem messageArrival : ∀ x0 x1, Statement (.messageArrival x0 x1) := fun _ _ _ => ⟨rfl, rfl⟩
theorem messagePartArrival : ∀ x0 x1, Statement (.messagePartArrival x0 x1) := fun _ _ _ => ⟨rfl, rfl⟩
theorem messageResponse : ∀ x0 x1 x2 x3, Statement (.messageResponse x0 x1 x2 x3) := fun _ _ _ _ _ => ⟨rfl, rfl⟩
theorem messageRetry : ∀ x0 x1 x2, Statement (.messageRetry x0 x1 x2) := fun _ _ _ _ => ⟨rfl, rfl⟩
theorem ringRelease : ∀ x0 x1 x2, Statement (.ringRelease x0 x1 x2) := fun _ _ _ _ => ⟨rfl, rfl⟩
theorem launchEntryArm : ∀ x0 x1 x2 x3, Statement (.launchEntryArm x0 x1 x2 x3) := fun _ _ _ _ _ => ⟨rfl, rfl⟩
theorem launchEntryDisarm : ∀ x0 x1 x2 x3, Statement (.launchEntryDisarm x0 x1 x2 x3) := fun _ _ _ _ _ => ⟨rfl, rfl⟩
theorem launchEntryFire : ∀ x0 x1 x2, Statement (.launchEntryFire x0 x1 x2) := fun _ _ _ _ => ⟨rfl, rfl⟩
theorem hsyncSignal : ∀ x0 x1, Statement (.hsyncSignal x0 x1) := fun _ _ _ => ⟨rfl, rfl⟩
theorem hostWaitArm : ∀ x0 x1 x2, Statement (.hostWaitArm x0 x1 x2) := fun _ _ _ _ => ⟨rfl, rfl⟩
theorem hostWaitSatisfied : ∀ x0 x1, Statement (.hostWaitSatisfied x0 x1) := fun _ _ _ => ⟨rfl, rfl⟩
theorem timeNowRead : ∀ x0, Statement (.timeNowRead x0) := fun _ _ => ⟨rfl, rfl⟩
theorem hbmRead : ∀ x0 x1, Statement (.hbmRead x0 x1) := fun _ _ _ => ⟨rfl, rfl⟩
theorem hbmWrite : ∀ x0 x1 x2, Statement (.hbmWrite x0 x1 x2) := fun _ _ _ _ => ⟨rfl, rfl⟩
theorem hbmRecalibration : ∀ x0 x1 x2 x3 x4, Statement (.hbmRecalibration x0 x1 x2 x3 x4) := fun _ _ _ _ _ _ => ⟨rfl, rfl⟩
theorem hbmPatrol : ∀ x0 x1 x2, Statement (.hbmPatrol x0 x1 x2) := fun _ _ _ _ => ⟨rfl, rfl⟩
theorem qpInTail : ∀ x0 x1 x2, Statement (.qpInTail x0 x1 x2) := fun _ _ _ _ => ⟨rfl, rfl⟩
theorem qpOutHead : ∀ x0 x1 x2, Statement (.qpOutHead x0 x1 x2) := fun _ _ _ _ => ⟨rfl, rfl⟩
theorem dmaTail : ∀ x0 x1 x2, Statement (.dmaTail x0 x1 x2) := fun _ _ _ _ => ⟨rfl, rfl⟩
theorem dmaRestart : ∀ x0 x1, Statement (.dmaRestart x0 x1) := fun _ _ _ => ⟨rfl, rfl⟩
theorem dmaDescriptorStart : ∀ x0 x1 x2, Statement (.dmaDescriptorStart x0 x1 x2) := fun _ _ _ _ => ⟨rfl, rfl⟩
theorem dmaBufferRead : ∀ x0 x1, Statement (.dmaBufferRead x0 x1) := fun _ _ _ => ⟨rfl, rfl⟩
theorem dmaHostReadTimeout : ∀ x0 x1, Statement (.dmaHostReadTimeout x0 x1) := fun _ _ _ => ⟨rfl, rfl⟩
theorem dmaDescriptorComplete : ∀ x0 x1, Statement (.dmaDescriptorComplete x0 x1) := fun _ _ _ => ⟨rfl, rfl⟩
theorem hostDmaResWrite : ∀ x0 x1 x2, Statement (.hostDmaResWrite x0 x1 x2) := fun _ _ _ _ => ⟨rfl, rfl⟩
theorem hostVersionWrite : ∀ x0 x1, Statement (.hostVersionWrite x0 x1) := fun _ _ _ => ⟨rfl, rfl⟩
theorem eventReport : ∀ x0, Statement (.eventReport x0) := fun _ _ => ⟨rfl, rfl⟩
theorem eventRecordWrite : ∀ x0, Statement (.eventRecordWrite x0) := fun _ _ => ⟨rfl, rfl⟩
theorem evtRingHeadWrite : ∀ x0 x1, Statement (.evtRingHeadWrite x0 x1) := fun _ _ _ => ⟨rfl, rfl⟩
theorem evtRingEnable : ∀ x0 x1, Statement (.evtRingEnable x0 x1) := fun _ _ _ => ⟨rfl, rfl⟩
theorem claimIdRead : ∀ x0 x1, Statement (.claimIdRead x0 x1) := fun _ _ _ => ⟨rfl, rfl⟩
theorem claimDoneWrite : ∀ x0 x1 x2, Statement (.claimDoneWrite x0 x1 x2) := fun _ _ _ _ => ⟨rfl, rfl⟩
theorem casrikFlitSend : ∀ x0 x1, Statement (.casrikFlitSend x0 x1) := fun _ _ _ => ⟨rfl, rfl⟩
theorem casrikFlitReceive : ∀ x0 x1 x2 x3 x4, Statement (.casrikFlitReceive x0 x1 x2 x3 x4) := fun _ _ _ _ _ _ => ⟨rfl, rfl⟩
theorem wavelengthDrop : ∀ x0 x1 x2, Statement (.wavelengthDrop x0 x1 x2) := fun _ _ _ _ => ⟨rfl, rfl⟩
theorem wavelengthRejoin : ∀ x0 x1 x2, Statement (.wavelengthRejoin x0 x1 x2) := fun _ _ _ _ => ⟨rfl, rfl⟩
theorem siteDown : ∀ x0 x1, Statement (.siteDown x0 x1) := fun _ _ _ => ⟨rfl, rfl⟩
theorem exportStart : ∀ x0 x1 x2, Statement (.exportStart x0 x1 x2) := fun _ _ _ _ => ⟨rfl, rfl⟩
theorem checkpointStream : ∀ x0, Statement (.checkpointStream x0) := fun _ _ => ⟨rfl, rfl⟩
theorem heartbeatSend : ∀ x0, Statement (.heartbeatSend x0) := fun _ _ => ⟨rfl, rfl⟩
theorem heartbeatInterval : ∀ x0 x1, Statement (.heartbeatInterval x0 x1) := fun _ _ _ => ⟨rfl, rfl⟩
theorem twinFatalIn : ∀ x0, Statement (.twinFatalIn x0) := fun _ _ => ⟨rfl, rfl⟩
theorem twinTakeover : ∀ x0, Statement (.twinTakeover x0) := fun _ _ => ⟨rfl, rfl⟩
theorem regulatorPhaseFail : ∀ x0 x1 x2 x3, Statement (.regulatorPhaseFail x0 x1 x2 x3) := fun _ _ _ _ _ => ⟨rfl, rfl⟩
theorem bayRailShort : ∀ x0 x1 x2, Statement (.bayRailShort x0 x1 x2) := fun _ _ _ _ => ⟨rfl, rfl⟩
theorem fabricRailShort : ∀ x0 x1 x2, Statement (.fabricRailShort x0 x1 x2) := fun _ _ _ _ => ⟨rfl, rfl⟩
theorem droopBoost : ∀ x0 x1, Statement (.droopBoost x0 x1) := fun _ _ _ => ⟨rfl, rfl⟩
theorem clockStretch : ∀ x0 x1, Statement (.clockStretch x0 x1) := fun _ _ _ => ⟨rfl, rfl⟩
theorem vminSample : ∀ x0 x1 x2, Statement (.vminSample x0 x1 x2) := fun _ _ _ _ => ⟨rfl, rfl⟩
theorem vminRead : ∀ x0 x1 x2, Statement (.vminRead x0 x1 x2) := fun _ _ _ _ => ⟨rfl, rfl⟩
theorem governorRiseTick : ∀ x0 x1, Statement (.governorRiseTick x0 x1) := fun _ _ _ => ⟨rfl, rfl⟩
theorem governorFallTick : ∀ x0 x1, Statement (.governorFallTick x0 x1) := fun _ _ _ => ⟨rfl, rfl⟩
theorem panelBudgetUpdate : ∀ x0 x1 x2, Statement (.panelBudgetUpdate x0 x1 x2) := fun _ _ _ _ => ⟨rfl, rfl⟩
theorem bayBudgetCompare : ∀ x0 x1 x2 x3, Statement (.bayBudgetCompare x0 x1 x2 x3) := fun _ _ _ _ _ => ⟨rfl, rfl⟩
theorem thermalSample : ∀ x0 x1 x2, Statement (.thermalSample x0 x1 x2) := fun _ _ _ _ => ⟨rfl, rfl⟩
theorem darnUpdateComplete : ∀ x0, Statement (.darnUpdateComplete x0) := fun _ _ => ⟨rfl, rfl⟩
theorem recordCommit : ∀ x0 x1, Statement (.recordCommit x0 x1) := fun _ _ _ => ⟨rfl, rfl⟩
theorem logCompaction : ∀ x0, Statement (.logCompaction x0) := fun _ _ => ⟨rfl, rfl⟩
theorem getVersion : ∀ x0, Statement (.getVersion x0) := fun _ _ => ⟨rfl, rfl⟩
theorem getCapabilities : ∀ x0, Statement (.getCapabilities x0) := fun _ _ => ⟨rfl, rfl⟩
theorem negotiateAlgorithms : ∀ x0, Statement (.negotiateAlgorithms x0) := fun _ _ => ⟨rfl, rfl⟩
theorem getDigests : ∀ x0, Statement (.getDigests x0) := fun _ _ => ⟨rfl, rfl⟩
theorem getCertificate : ∀ x0, Statement (.getCertificate x0) := fun _ _ => ⟨rfl, rfl⟩
theorem challenge : ∀ x0, Statement (.challenge x0) := fun _ _ => ⟨rfl, rfl⟩
theorem getMeasurements : ∀ x0 x1, Statement (.getMeasurements x0 x1) := fun _ _ _ => ⟨rfl, rfl⟩
theorem keyExchange : ∀ x0, Statement (.keyExchange x0) := fun _ _ => ⟨rfl, rfl⟩
theorem finish : ∀ x0, Statement (.finish x0) := fun _ _ => ⟨rfl, rfl⟩
theorem heartbeat : ∀ x0, Statement (.heartbeat x0) := fun _ _ => ⟨rfl, rfl⟩
theorem keyUpdate : ∀ x0, Statement (.keyUpdate x0) := fun _ _ => ⟨rfl, rfl⟩
theorem endSession : ∀ x0, Statement (.endSession x0) := fun _ _ => ⟨rfl, rfl⟩
theorem ownerSet : ∀ x0 x1, Statement (.ownerSet x0 x1) := fun _ _ _ => ⟨rfl, rfl⟩
theorem ownerRevoke : ∀ x0 x1, Statement (.ownerRevoke x0 x1) := fun _ _ _ => ⟨rfl, rfl⟩
theorem debugAuth : ∀ x0 x1, Statement (.debugAuth x0 x1) := fun _ _ _ => ⟨rfl, rfl⟩
theorem debugRevoke : ∀ x0 x1, Statement (.debugRevoke x0 x1) := fun _ _ _ => ⟨rfl, rfl⟩
theorem fwUpdate : ∀ x0 x1 x2, Statement (.fwUpdate x0 x1 x2) := fun _ _ _ _ => ⟨rfl, rfl⟩
theorem ideKm : ∀ x0 x1, Statement (.ideKm x0 x1) := fun _ _ _ => ⟨rfl, rfl⟩
theorem diagGo : ∀ x0 x1 x2, Statement (.diagGo x0 x1 x2) := fun _ _ _ _ => ⟨rfl, rfl⟩
theorem diagReadComplete : ∀ x0, Statement (.diagReadComplete x0) := fun _ _ => ⟨rfl, rfl⟩
theorem dmaReadCompletion : ∀ x0 x1 x2 x3, Statement (.dmaReadCompletion x0 x1 x2 x3) := fun _ _ _ _ _ => ⟨rfl, rfl⟩
theorem vectorIssue : ∀ x0 x1, Statement (.vectorIssue x0 x1) := fun _ _ _ => ⟨rfl, rfl⟩
theorem uncorrectableInternalError : ∀ x0, Statement (.uncorrectableInternalError x0) := fun _ _ => ⟨rfl, rfl⟩
theorem pcieLinkDown : ∀ x0, Statement (.pcieLinkDown x0) := fun _ _ => ⟨rfl, rfl⟩
theorem recoveryPortDisable : ∀ x0, Statement (.recoveryPortDisable x0) := fun _ _ => ⟨rfl, rfl⟩
theorem clockStretchEnd : ∀ x0 x1, Statement (.clockStretchEnd x0 x1) := fun _ _ _ => ⟨rfl, rfl⟩
theorem secureSessionLoss : ∀ x0, Statement (.secureSessionLoss x0) := fun _ _ => ⟨rfl, rfl⟩

end Sys2Proof.Laws.Clocked
end

