-- ==== Sys2Proof/Laws/State.lean ====
section
/-! SUPPORT. One lemma for each field and each update of the state, and for each read of a unit or register after an update. -/

namespace Sys2Proof

variable {κ α : Type} [DecidableEq κ]

theorem Assoc.find?_erase (m : Assoc κ α) (k q : κ) : Assoc.find? (Assoc.erase m k) q = if k = q then none else Assoc.find? m q := by
  induction m with
  | nil => simp [Assoc.erase, Assoc.find?]
  | cons e rest ih =>
    obtain ⟨a, v⟩ := e
    simp only [Assoc.erase] at ih ⊢
    by_cases hk : a = k
    · subst hk
      simp only [List.filter_cons, ne_eq, not_true_eq_false, decide_false, Bool.false_eq_true, if_false, ih, Assoc.find?]
      split <;> rfl
    · simp only [List.filter_cons, ne_eq, hk, not_false_eq_true, decide_true, if_true, Assoc.find?, ih]
      by_cases hq : a = q
      · subst hq; simp [Ne.symm hk]
      · simp [hq]

@[simp] theorem Assoc.find?_set (m : Assoc κ α) (k q : κ) (v : α) :
    Assoc.find? (Assoc.set m k v) q = if k = q then some v else Assoc.find? m q := by
  simp only [Assoc.set, Assoc.find?, Assoc.find?_erase]
  split <;> rfl

@[simp] theorem Assoc.get_set (d : α) (m : Assoc κ α) (k q : κ) (v : α) :
    Assoc.get d (Assoc.set m k v) q = if k = q then v else Assoc.get d m q := by
  simp only [Assoc.get, Assoc.find?_set]
  split <;> rfl

end Sys2Proof

namespace Sys2Proof.Machine

@[simp] theorem setBay_pending (s : State) (b : Nat) (x : Bay) : (s.setBay b x).pending = s.pending := rfl
@[simp] theorem setBay_free (s : State) (b : Nat) (x : Bay) : (s.setBay b x).free = s.free := rfl
@[simp] theorem setBay_mem (s : State) (b : Nat) (x : Bay) : (s.setBay b x).mem = s.mem := rfl
@[simp] theorem setBay_errs (s : State) (b : Nat) (x : Bay) : (s.setBay b x).errs = s.errs := rfl
@[simp] theorem setBay_hostMem (s : State) (b : Nat) (x : Bay) : (s.setBay b x).hostMem = s.hostMem := rfl
@[simp] theorem setBay_regs (s : State) (b : Nat) (x : Bay) : (s.setBay b x).regs = s.regs := rfl
@[simp] theorem setBay_hw (s : State) (b : Nat) (x : Bay) : (s.setBay b x).hw = s.hw := rfl
@[simp] theorem setBay_clk (s : State) (b : Nat) (x : Bay) : (s.setBay b x).clk = s.clk := rfl
@[simp] theorem setBay_stitch (s : State) (b : Nat) (x : Bay) : (s.setBay b x).stitch = s.stitch := rfl
@[simp] theorem setBay_ctxs (s : State) (b : Nat) (x : Bay) : (s.setBay b x).ctxs = s.ctxs := rfl
@[simp] theorem setBay_hsync (s : State) (b : Nat) (x : Bay) : (s.setBay b x).hsync = s.hsync := rfl
@[simp] theorem setBay_panels (s : State) (b : Nat) (x : Bay) : (s.setBay b x).panels = s.panels := rfl
@[simp] theorem setBay_cus (s : State) (b : Nat) (x : Bay) : (s.setBay b x).cus = s.cus := rfl
@[simp] theorem setBay_mus (s : State) (b : Nat) (x : Bay) : (s.setBay b x).mus = s.mus := rfl
@[simp] theorem setBay_rtrs (s : State) (b : Nat) (x : Bay) : (s.setBay b x).rtrs = s.rtrs := rfl
@[simp] theorem setBay_host (s : State) (b : Nat) (x : Bay) : (s.setBay b x).host = s.host := rfl
@[simp] theorem setBay_evt (s : State) (b : Nat) (x : Bay) : (s.setBay b x).evt = s.evt := rfl
@[simp] theorem setBay_claims (s : State) (b : Nat) (x : Bay) : (s.setBay b x).claims = s.claims := rfl
@[simp] theorem setBay_hbm (s : State) (b : Nat) (x : Bay) : (s.setBay b x).hbm = s.hbm := rfl
@[simp] theorem setBay_sites (s : State) (b : Nat) (x : Bay) : (s.setBay b x).sites = s.sites := rfl
@[simp] theorem setBay_twin (s : State) (b : Nat) (x : Bay) : (s.setBay b x).twin = s.twin := rfl
@[simp] theorem setBay_sup (s : State) (b : Nat) (x : Bay) : (s.setBay b x).sup = s.sup := rfl
@[simp] theorem setBay_rel (s : State) (b : Nat) (x : Bay) : (s.setBay b x).rel = s.rel := rfl
@[simp] theorem setBay_store (s : State) (b : Nat) (x : Bay) : (s.setBay b x).store = s.store := rfl
@[simp] theorem setBay_fuses (s : State) (b : Nat) (x : Bay) : (s.setBay b x).fuses = s.fuses := rfl
@[simp] theorem setBay_spdm (s : State) (b : Nat) (x : Bay) : (s.setBay b x).spdm = s.spdm := rfl
@[simp] theorem setBay_bay (s : State) (b : Nat) (x : Bay) (q : Nat) :
    (s.setBay b x).bay q = if b = q then x else s.bay q := Assoc.get_set _ _ _ _ _
@[simp] theorem setBay_panel (s : State) (b : Nat) (x : Bay) (q : Nat) : (s.setBay b x).panel q = s.panel q := rfl
@[simp] theorem setBay_cu (s : State) (b : Nat) (x : Bay) (q : Nat) : (s.setBay b x).cu q = s.cu q := rfl
@[simp] theorem setBay_mu (s : State) (b : Nat) (x : Bay) (q : Nat) : (s.setBay b x).mu q = s.mu q := rfl
@[simp] theorem setBay_rtr (s : State) (b : Nat) (x : Bay) (q : Nat) : (s.setBay b x).rtr q = s.rtr q := rfl
@[simp] theorem setBay_site (s : State) (b : Nat) (x : Bay) (q : Nat) : (s.setBay b x).site q = s.site q := rfl
@[simp] theorem setBay_ctx (s : State) (b : Nat) (x : Bay) (q : Nat) : (s.setBay b x).ctx? q = s.ctx? q := rfl
@[simp] theorem setBay_claim (s : State) (b : Nat) (x : Bay) (q : Nat) : (s.setBay b x).claim q = s.claim q := rfl
@[simp] theorem setBay_reg (s : State) (b : Nat) (x : Bay) (q : RegId) : (s.setBay b x).reg q = s.reg q := rfl

@[simp] theorem setPanel_pending (s : State) (p : Nat) (x : Panel) : (s.setPanel p x).pending = s.pending := rfl
@[simp] theorem setPanel_free (s : State) (p : Nat) (x : Panel) : (s.setPanel p x).free = s.free := rfl
@[simp] theorem setPanel_mem (s : State) (p : Nat) (x : Panel) : (s.setPanel p x).mem = s.mem := rfl
@[simp] theorem setPanel_errs (s : State) (p : Nat) (x : Panel) : (s.setPanel p x).errs = s.errs := rfl
@[simp] theorem setPanel_hostMem (s : State) (p : Nat) (x : Panel) : (s.setPanel p x).hostMem = s.hostMem := rfl
@[simp] theorem setPanel_regs (s : State) (p : Nat) (x : Panel) : (s.setPanel p x).regs = s.regs := rfl
@[simp] theorem setPanel_hw (s : State) (p : Nat) (x : Panel) : (s.setPanel p x).hw = s.hw := rfl
@[simp] theorem setPanel_clk (s : State) (p : Nat) (x : Panel) : (s.setPanel p x).clk = s.clk := rfl
@[simp] theorem setPanel_stitch (s : State) (p : Nat) (x : Panel) : (s.setPanel p x).stitch = s.stitch := rfl
@[simp] theorem setPanel_ctxs (s : State) (p : Nat) (x : Panel) : (s.setPanel p x).ctxs = s.ctxs := rfl
@[simp] theorem setPanel_hsync (s : State) (p : Nat) (x : Panel) : (s.setPanel p x).hsync = s.hsync := rfl
@[simp] theorem setPanel_bays (s : State) (p : Nat) (x : Panel) : (s.setPanel p x).bays = s.bays := rfl
@[simp] theorem setPanel_cus (s : State) (p : Nat) (x : Panel) : (s.setPanel p x).cus = s.cus := rfl
@[simp] theorem setPanel_mus (s : State) (p : Nat) (x : Panel) : (s.setPanel p x).mus = s.mus := rfl
@[simp] theorem setPanel_rtrs (s : State) (p : Nat) (x : Panel) : (s.setPanel p x).rtrs = s.rtrs := rfl
@[simp] theorem setPanel_host (s : State) (p : Nat) (x : Panel) : (s.setPanel p x).host = s.host := rfl
@[simp] theorem setPanel_evt (s : State) (p : Nat) (x : Panel) : (s.setPanel p x).evt = s.evt := rfl
@[simp] theorem setPanel_claims (s : State) (p : Nat) (x : Panel) : (s.setPanel p x).claims = s.claims := rfl
@[simp] theorem setPanel_hbm (s : State) (p : Nat) (x : Panel) : (s.setPanel p x).hbm = s.hbm := rfl
@[simp] theorem setPanel_sites (s : State) (p : Nat) (x : Panel) : (s.setPanel p x).sites = s.sites := rfl
@[simp] theorem setPanel_twin (s : State) (p : Nat) (x : Panel) : (s.setPanel p x).twin = s.twin := rfl
@[simp] theorem setPanel_sup (s : State) (p : Nat) (x : Panel) : (s.setPanel p x).sup = s.sup := rfl
@[simp] theorem setPanel_rel (s : State) (p : Nat) (x : Panel) : (s.setPanel p x).rel = s.rel := rfl
@[simp] theorem setPanel_store (s : State) (p : Nat) (x : Panel) : (s.setPanel p x).store = s.store := rfl
@[simp] theorem setPanel_fuses (s : State) (p : Nat) (x : Panel) : (s.setPanel p x).fuses = s.fuses := rfl
@[simp] theorem setPanel_spdm (s : State) (p : Nat) (x : Panel) : (s.setPanel p x).spdm = s.spdm := rfl
@[simp] theorem setPanel_bay (s : State) (p : Nat) (x : Panel) (q : Nat) : (s.setPanel p x).bay q = s.bay q := rfl
@[simp] theorem setPanel_panel (s : State) (p : Nat) (x : Panel) (q : Nat) :
    (s.setPanel p x).panel q = if p = q then x else s.panel q := Assoc.get_set _ _ _ _ _
@[simp] theorem setPanel_cu (s : State) (p : Nat) (x : Panel) (q : Nat) : (s.setPanel p x).cu q = s.cu q := rfl
@[simp] theorem setPanel_mu (s : State) (p : Nat) (x : Panel) (q : Nat) : (s.setPanel p x).mu q = s.mu q := rfl
@[simp] theorem setPanel_rtr (s : State) (p : Nat) (x : Panel) (q : Nat) : (s.setPanel p x).rtr q = s.rtr q := rfl
@[simp] theorem setPanel_site (s : State) (p : Nat) (x : Panel) (q : Nat) : (s.setPanel p x).site q = s.site q := rfl
@[simp] theorem setPanel_ctx (s : State) (p : Nat) (x : Panel) (q : Nat) : (s.setPanel p x).ctx? q = s.ctx? q := rfl
@[simp] theorem setPanel_claim (s : State) (p : Nat) (x : Panel) (q : Nat) : (s.setPanel p x).claim q = s.claim q := rfl
@[simp] theorem setPanel_reg (s : State) (p : Nat) (x : Panel) (q : RegId) : (s.setPanel p x).reg q = s.reg q := rfl

@[simp] theorem setCu_pending (s : State) (u : Nat) (x : Cu) : (s.setCu u x).pending = s.pending := rfl
@[simp] theorem setCu_free (s : State) (u : Nat) (x : Cu) : (s.setCu u x).free = s.free := rfl
@[simp] theorem setCu_mem (s : State) (u : Nat) (x : Cu) : (s.setCu u x).mem = s.mem := rfl
@[simp] theorem setCu_errs (s : State) (u : Nat) (x : Cu) : (s.setCu u x).errs = s.errs := rfl
@[simp] theorem setCu_hostMem (s : State) (u : Nat) (x : Cu) : (s.setCu u x).hostMem = s.hostMem := rfl
@[simp] theorem setCu_regs (s : State) (u : Nat) (x : Cu) : (s.setCu u x).regs = s.regs := rfl
@[simp] theorem setCu_hw (s : State) (u : Nat) (x : Cu) : (s.setCu u x).hw = s.hw := rfl
@[simp] theorem setCu_clk (s : State) (u : Nat) (x : Cu) : (s.setCu u x).clk = s.clk := rfl
@[simp] theorem setCu_stitch (s : State) (u : Nat) (x : Cu) : (s.setCu u x).stitch = s.stitch := rfl
@[simp] theorem setCu_ctxs (s : State) (u : Nat) (x : Cu) : (s.setCu u x).ctxs = s.ctxs := rfl
@[simp] theorem setCu_hsync (s : State) (u : Nat) (x : Cu) : (s.setCu u x).hsync = s.hsync := rfl
@[simp] theorem setCu_bays (s : State) (u : Nat) (x : Cu) : (s.setCu u x).bays = s.bays := rfl
@[simp] theorem setCu_panels (s : State) (u : Nat) (x : Cu) : (s.setCu u x).panels = s.panels := rfl
@[simp] theorem setCu_mus (s : State) (u : Nat) (x : Cu) : (s.setCu u x).mus = s.mus := rfl
@[simp] theorem setCu_rtrs (s : State) (u : Nat) (x : Cu) : (s.setCu u x).rtrs = s.rtrs := rfl
@[simp] theorem setCu_host (s : State) (u : Nat) (x : Cu) : (s.setCu u x).host = s.host := rfl
@[simp] theorem setCu_evt (s : State) (u : Nat) (x : Cu) : (s.setCu u x).evt = s.evt := rfl
@[simp] theorem setCu_claims (s : State) (u : Nat) (x : Cu) : (s.setCu u x).claims = s.claims := rfl
@[simp] theorem setCu_hbm (s : State) (u : Nat) (x : Cu) : (s.setCu u x).hbm = s.hbm := rfl
@[simp] theorem setCu_sites (s : State) (u : Nat) (x : Cu) : (s.setCu u x).sites = s.sites := rfl
@[simp] theorem setCu_twin (s : State) (u : Nat) (x : Cu) : (s.setCu u x).twin = s.twin := rfl
@[simp] theorem setCu_sup (s : State) (u : Nat) (x : Cu) : (s.setCu u x).sup = s.sup := rfl
@[simp] theorem setCu_rel (s : State) (u : Nat) (x : Cu) : (s.setCu u x).rel = s.rel := rfl
@[simp] theorem setCu_store (s : State) (u : Nat) (x : Cu) : (s.setCu u x).store = s.store := rfl
@[simp] theorem setCu_fuses (s : State) (u : Nat) (x : Cu) : (s.setCu u x).fuses = s.fuses := rfl
@[simp] theorem setCu_spdm (s : State) (u : Nat) (x : Cu) : (s.setCu u x).spdm = s.spdm := rfl
@[simp] theorem setCu_bay (s : State) (u : Nat) (x : Cu) (q : Nat) : (s.setCu u x).bay q = s.bay q := rfl
@[simp] theorem setCu_panel (s : State) (u : Nat) (x : Cu) (q : Nat) : (s.setCu u x).panel q = s.panel q := rfl
@[simp] theorem setCu_cu (s : State) (u : Nat) (x : Cu) (q : Nat) :
    (s.setCu u x).cu q = if u = q then x else s.cu q := Assoc.get_set _ _ _ _ _
@[simp] theorem setCu_mu (s : State) (u : Nat) (x : Cu) (q : Nat) : (s.setCu u x).mu q = s.mu q := rfl
@[simp] theorem setCu_rtr (s : State) (u : Nat) (x : Cu) (q : Nat) : (s.setCu u x).rtr q = s.rtr q := rfl
@[simp] theorem setCu_site (s : State) (u : Nat) (x : Cu) (q : Nat) : (s.setCu u x).site q = s.site q := rfl
@[simp] theorem setCu_ctx (s : State) (u : Nat) (x : Cu) (q : Nat) : (s.setCu u x).ctx? q = s.ctx? q := rfl
@[simp] theorem setCu_claim (s : State) (u : Nat) (x : Cu) (q : Nat) : (s.setCu u x).claim q = s.claim q := rfl
@[simp] theorem setCu_reg (s : State) (u : Nat) (x : Cu) (q : RegId) : (s.setCu u x).reg q = s.reg q := rfl

@[simp] theorem setMu_pending (s : State) (c : Nat) (x : Mu) : (s.setMu c x).pending = s.pending := rfl
@[simp] theorem setMu_free (s : State) (c : Nat) (x : Mu) : (s.setMu c x).free = s.free := rfl
@[simp] theorem setMu_mem (s : State) (c : Nat) (x : Mu) : (s.setMu c x).mem = s.mem := rfl
@[simp] theorem setMu_errs (s : State) (c : Nat) (x : Mu) : (s.setMu c x).errs = s.errs := rfl
@[simp] theorem setMu_hostMem (s : State) (c : Nat) (x : Mu) : (s.setMu c x).hostMem = s.hostMem := rfl
@[simp] theorem setMu_regs (s : State) (c : Nat) (x : Mu) : (s.setMu c x).regs = s.regs := rfl
@[simp] theorem setMu_hw (s : State) (c : Nat) (x : Mu) : (s.setMu c x).hw = s.hw := rfl
@[simp] theorem setMu_clk (s : State) (c : Nat) (x : Mu) : (s.setMu c x).clk = s.clk := rfl
@[simp] theorem setMu_stitch (s : State) (c : Nat) (x : Mu) : (s.setMu c x).stitch = s.stitch := rfl
@[simp] theorem setMu_ctxs (s : State) (c : Nat) (x : Mu) : (s.setMu c x).ctxs = s.ctxs := rfl
@[simp] theorem setMu_hsync (s : State) (c : Nat) (x : Mu) : (s.setMu c x).hsync = s.hsync := rfl
@[simp] theorem setMu_bays (s : State) (c : Nat) (x : Mu) : (s.setMu c x).bays = s.bays := rfl
@[simp] theorem setMu_panels (s : State) (c : Nat) (x : Mu) : (s.setMu c x).panels = s.panels := rfl
@[simp] theorem setMu_cus (s : State) (c : Nat) (x : Mu) : (s.setMu c x).cus = s.cus := rfl
@[simp] theorem setMu_rtrs (s : State) (c : Nat) (x : Mu) : (s.setMu c x).rtrs = s.rtrs := rfl
@[simp] theorem setMu_host (s : State) (c : Nat) (x : Mu) : (s.setMu c x).host = s.host := rfl
@[simp] theorem setMu_evt (s : State) (c : Nat) (x : Mu) : (s.setMu c x).evt = s.evt := rfl
@[simp] theorem setMu_claims (s : State) (c : Nat) (x : Mu) : (s.setMu c x).claims = s.claims := rfl
@[simp] theorem setMu_hbm (s : State) (c : Nat) (x : Mu) : (s.setMu c x).hbm = s.hbm := rfl
@[simp] theorem setMu_sites (s : State) (c : Nat) (x : Mu) : (s.setMu c x).sites = s.sites := rfl
@[simp] theorem setMu_twin (s : State) (c : Nat) (x : Mu) : (s.setMu c x).twin = s.twin := rfl
@[simp] theorem setMu_sup (s : State) (c : Nat) (x : Mu) : (s.setMu c x).sup = s.sup := rfl
@[simp] theorem setMu_rel (s : State) (c : Nat) (x : Mu) : (s.setMu c x).rel = s.rel := rfl
@[simp] theorem setMu_store (s : State) (c : Nat) (x : Mu) : (s.setMu c x).store = s.store := rfl
@[simp] theorem setMu_fuses (s : State) (c : Nat) (x : Mu) : (s.setMu c x).fuses = s.fuses := rfl
@[simp] theorem setMu_spdm (s : State) (c : Nat) (x : Mu) : (s.setMu c x).spdm = s.spdm := rfl
@[simp] theorem setMu_bay (s : State) (c : Nat) (x : Mu) (q : Nat) : (s.setMu c x).bay q = s.bay q := rfl
@[simp] theorem setMu_panel (s : State) (c : Nat) (x : Mu) (q : Nat) : (s.setMu c x).panel q = s.panel q := rfl
@[simp] theorem setMu_cu (s : State) (c : Nat) (x : Mu) (q : Nat) : (s.setMu c x).cu q = s.cu q := rfl
@[simp] theorem setMu_mu (s : State) (c : Nat) (x : Mu) (q : Nat) :
    (s.setMu c x).mu q = if c = q then x else s.mu q := Assoc.get_set _ _ _ _ _
@[simp] theorem setMu_rtr (s : State) (c : Nat) (x : Mu) (q : Nat) : (s.setMu c x).rtr q = s.rtr q := rfl
@[simp] theorem setMu_site (s : State) (c : Nat) (x : Mu) (q : Nat) : (s.setMu c x).site q = s.site q := rfl
@[simp] theorem setMu_ctx (s : State) (c : Nat) (x : Mu) (q : Nat) : (s.setMu c x).ctx? q = s.ctx? q := rfl
@[simp] theorem setMu_claim (s : State) (c : Nat) (x : Mu) (q : Nat) : (s.setMu c x).claim q = s.claim q := rfl
@[simp] theorem setMu_reg (s : State) (c : Nat) (x : Mu) (q : RegId) : (s.setMu c x).reg q = s.reg q := rfl

@[simp] theorem setRtr_pending (s : State) (c : Nat) (x : Rtr) : (s.setRtr c x).pending = s.pending := rfl
@[simp] theorem setRtr_free (s : State) (c : Nat) (x : Rtr) : (s.setRtr c x).free = s.free := rfl
@[simp] theorem setRtr_mem (s : State) (c : Nat) (x : Rtr) : (s.setRtr c x).mem = s.mem := rfl
@[simp] theorem setRtr_errs (s : State) (c : Nat) (x : Rtr) : (s.setRtr c x).errs = s.errs := rfl
@[simp] theorem setRtr_hostMem (s : State) (c : Nat) (x : Rtr) : (s.setRtr c x).hostMem = s.hostMem := rfl
@[simp] theorem setRtr_regs (s : State) (c : Nat) (x : Rtr) : (s.setRtr c x).regs = s.regs := rfl
@[simp] theorem setRtr_hw (s : State) (c : Nat) (x : Rtr) : (s.setRtr c x).hw = s.hw := rfl
@[simp] theorem setRtr_clk (s : State) (c : Nat) (x : Rtr) : (s.setRtr c x).clk = s.clk := rfl
@[simp] theorem setRtr_stitch (s : State) (c : Nat) (x : Rtr) : (s.setRtr c x).stitch = s.stitch := rfl
@[simp] theorem setRtr_ctxs (s : State) (c : Nat) (x : Rtr) : (s.setRtr c x).ctxs = s.ctxs := rfl
@[simp] theorem setRtr_hsync (s : State) (c : Nat) (x : Rtr) : (s.setRtr c x).hsync = s.hsync := rfl
@[simp] theorem setRtr_bays (s : State) (c : Nat) (x : Rtr) : (s.setRtr c x).bays = s.bays := rfl
@[simp] theorem setRtr_panels (s : State) (c : Nat) (x : Rtr) : (s.setRtr c x).panels = s.panels := rfl
@[simp] theorem setRtr_cus (s : State) (c : Nat) (x : Rtr) : (s.setRtr c x).cus = s.cus := rfl
@[simp] theorem setRtr_mus (s : State) (c : Nat) (x : Rtr) : (s.setRtr c x).mus = s.mus := rfl
@[simp] theorem setRtr_host (s : State) (c : Nat) (x : Rtr) : (s.setRtr c x).host = s.host := rfl
@[simp] theorem setRtr_evt (s : State) (c : Nat) (x : Rtr) : (s.setRtr c x).evt = s.evt := rfl
@[simp] theorem setRtr_claims (s : State) (c : Nat) (x : Rtr) : (s.setRtr c x).claims = s.claims := rfl
@[simp] theorem setRtr_hbm (s : State) (c : Nat) (x : Rtr) : (s.setRtr c x).hbm = s.hbm := rfl
@[simp] theorem setRtr_sites (s : State) (c : Nat) (x : Rtr) : (s.setRtr c x).sites = s.sites := rfl
@[simp] theorem setRtr_twin (s : State) (c : Nat) (x : Rtr) : (s.setRtr c x).twin = s.twin := rfl
@[simp] theorem setRtr_sup (s : State) (c : Nat) (x : Rtr) : (s.setRtr c x).sup = s.sup := rfl
@[simp] theorem setRtr_rel (s : State) (c : Nat) (x : Rtr) : (s.setRtr c x).rel = s.rel := rfl
@[simp] theorem setRtr_store (s : State) (c : Nat) (x : Rtr) : (s.setRtr c x).store = s.store := rfl
@[simp] theorem setRtr_fuses (s : State) (c : Nat) (x : Rtr) : (s.setRtr c x).fuses = s.fuses := rfl
@[simp] theorem setRtr_spdm (s : State) (c : Nat) (x : Rtr) : (s.setRtr c x).spdm = s.spdm := rfl
@[simp] theorem setRtr_bay (s : State) (c : Nat) (x : Rtr) (q : Nat) : (s.setRtr c x).bay q = s.bay q := rfl
@[simp] theorem setRtr_panel (s : State) (c : Nat) (x : Rtr) (q : Nat) : (s.setRtr c x).panel q = s.panel q := rfl
@[simp] theorem setRtr_cu (s : State) (c : Nat) (x : Rtr) (q : Nat) : (s.setRtr c x).cu q = s.cu q := rfl
@[simp] theorem setRtr_mu (s : State) (c : Nat) (x : Rtr) (q : Nat) : (s.setRtr c x).mu q = s.mu q := rfl
@[simp] theorem setRtr_rtr (s : State) (c : Nat) (x : Rtr) (q : Nat) :
    (s.setRtr c x).rtr q = if c = q then x else s.rtr q := Assoc.get_set _ _ _ _ _
@[simp] theorem setRtr_site (s : State) (c : Nat) (x : Rtr) (q : Nat) : (s.setRtr c x).site q = s.site q := rfl
@[simp] theorem setRtr_ctx (s : State) (c : Nat) (x : Rtr) (q : Nat) : (s.setRtr c x).ctx? q = s.ctx? q := rfl
@[simp] theorem setRtr_claim (s : State) (c : Nat) (x : Rtr) (q : Nat) : (s.setRtr c x).claim q = s.claim q := rfl
@[simp] theorem setRtr_reg (s : State) (c : Nat) (x : Rtr) (q : RegId) : (s.setRtr c x).reg q = s.reg q := rfl

@[simp] theorem setSite_pending (s : State) (t : Nat) (x : Site) : (s.setSite t x).pending = s.pending := rfl
@[simp] theorem setSite_free (s : State) (t : Nat) (x : Site) : (s.setSite t x).free = s.free := rfl
@[simp] theorem setSite_mem (s : State) (t : Nat) (x : Site) : (s.setSite t x).mem = s.mem := rfl
@[simp] theorem setSite_errs (s : State) (t : Nat) (x : Site) : (s.setSite t x).errs = s.errs := rfl
@[simp] theorem setSite_hostMem (s : State) (t : Nat) (x : Site) : (s.setSite t x).hostMem = s.hostMem := rfl
@[simp] theorem setSite_regs (s : State) (t : Nat) (x : Site) : (s.setSite t x).regs = s.regs := rfl
@[simp] theorem setSite_hw (s : State) (t : Nat) (x : Site) : (s.setSite t x).hw = s.hw := rfl
@[simp] theorem setSite_clk (s : State) (t : Nat) (x : Site) : (s.setSite t x).clk = s.clk := rfl
@[simp] theorem setSite_stitch (s : State) (t : Nat) (x : Site) : (s.setSite t x).stitch = s.stitch := rfl
@[simp] theorem setSite_ctxs (s : State) (t : Nat) (x : Site) : (s.setSite t x).ctxs = s.ctxs := rfl
@[simp] theorem setSite_hsync (s : State) (t : Nat) (x : Site) : (s.setSite t x).hsync = s.hsync := rfl
@[simp] theorem setSite_bays (s : State) (t : Nat) (x : Site) : (s.setSite t x).bays = s.bays := rfl
@[simp] theorem setSite_panels (s : State) (t : Nat) (x : Site) : (s.setSite t x).panels = s.panels := rfl
@[simp] theorem setSite_cus (s : State) (t : Nat) (x : Site) : (s.setSite t x).cus = s.cus := rfl
@[simp] theorem setSite_mus (s : State) (t : Nat) (x : Site) : (s.setSite t x).mus = s.mus := rfl
@[simp] theorem setSite_rtrs (s : State) (t : Nat) (x : Site) : (s.setSite t x).rtrs = s.rtrs := rfl
@[simp] theorem setSite_host (s : State) (t : Nat) (x : Site) : (s.setSite t x).host = s.host := rfl
@[simp] theorem setSite_evt (s : State) (t : Nat) (x : Site) : (s.setSite t x).evt = s.evt := rfl
@[simp] theorem setSite_claims (s : State) (t : Nat) (x : Site) : (s.setSite t x).claims = s.claims := rfl
@[simp] theorem setSite_hbm (s : State) (t : Nat) (x : Site) : (s.setSite t x).hbm = s.hbm := rfl
@[simp] theorem setSite_twin (s : State) (t : Nat) (x : Site) : (s.setSite t x).twin = s.twin := rfl
@[simp] theorem setSite_sup (s : State) (t : Nat) (x : Site) : (s.setSite t x).sup = s.sup := rfl
@[simp] theorem setSite_rel (s : State) (t : Nat) (x : Site) : (s.setSite t x).rel = s.rel := rfl
@[simp] theorem setSite_store (s : State) (t : Nat) (x : Site) : (s.setSite t x).store = s.store := rfl
@[simp] theorem setSite_fuses (s : State) (t : Nat) (x : Site) : (s.setSite t x).fuses = s.fuses := rfl
@[simp] theorem setSite_spdm (s : State) (t : Nat) (x : Site) : (s.setSite t x).spdm = s.spdm := rfl
@[simp] theorem setSite_bay (s : State) (t : Nat) (x : Site) (q : Nat) : (s.setSite t x).bay q = s.bay q := rfl
@[simp] theorem setSite_panel (s : State) (t : Nat) (x : Site) (q : Nat) : (s.setSite t x).panel q = s.panel q := rfl
@[simp] theorem setSite_cu (s : State) (t : Nat) (x : Site) (q : Nat) : (s.setSite t x).cu q = s.cu q := rfl
@[simp] theorem setSite_mu (s : State) (t : Nat) (x : Site) (q : Nat) : (s.setSite t x).mu q = s.mu q := rfl
@[simp] theorem setSite_rtr (s : State) (t : Nat) (x : Site) (q : Nat) : (s.setSite t x).rtr q = s.rtr q := rfl
@[simp] theorem setSite_site (s : State) (t : Nat) (x : Site) (q : Nat) :
    (s.setSite t x).site q = if t = q then x else s.site q := Assoc.get_set _ _ _ _ _
@[simp] theorem setSite_ctx (s : State) (t : Nat) (x : Site) (q : Nat) : (s.setSite t x).ctx? q = s.ctx? q := rfl
@[simp] theorem setSite_claim (s : State) (t : Nat) (x : Site) (q : Nat) : (s.setSite t x).claim q = s.claim q := rfl
@[simp] theorem setSite_reg (s : State) (t : Nat) (x : Site) (q : RegId) : (s.setSite t x).reg q = s.reg q := rfl

@[simp] theorem setCtx_pending (s : State) (k : Nat) (x : Ctx) : (s.setCtx k x).pending = s.pending := rfl
@[simp] theorem setCtx_free (s : State) (k : Nat) (x : Ctx) : (s.setCtx k x).free = s.free := rfl
@[simp] theorem setCtx_mem (s : State) (k : Nat) (x : Ctx) : (s.setCtx k x).mem = s.mem := rfl
@[simp] theorem setCtx_errs (s : State) (k : Nat) (x : Ctx) : (s.setCtx k x).errs = s.errs := rfl
@[simp] theorem setCtx_hostMem (s : State) (k : Nat) (x : Ctx) : (s.setCtx k x).hostMem = s.hostMem := rfl
@[simp] theorem setCtx_regs (s : State) (k : Nat) (x : Ctx) : (s.setCtx k x).regs = s.regs := rfl
@[simp] theorem setCtx_hw (s : State) (k : Nat) (x : Ctx) : (s.setCtx k x).hw = s.hw := rfl
@[simp] theorem setCtx_clk (s : State) (k : Nat) (x : Ctx) : (s.setCtx k x).clk = s.clk := rfl
@[simp] theorem setCtx_stitch (s : State) (k : Nat) (x : Ctx) : (s.setCtx k x).stitch = s.stitch := rfl
@[simp] theorem setCtx_hsync (s : State) (k : Nat) (x : Ctx) : (s.setCtx k x).hsync = s.hsync := rfl
@[simp] theorem setCtx_bays (s : State) (k : Nat) (x : Ctx) : (s.setCtx k x).bays = s.bays := rfl
@[simp] theorem setCtx_panels (s : State) (k : Nat) (x : Ctx) : (s.setCtx k x).panels = s.panels := rfl
@[simp] theorem setCtx_cus (s : State) (k : Nat) (x : Ctx) : (s.setCtx k x).cus = s.cus := rfl
@[simp] theorem setCtx_mus (s : State) (k : Nat) (x : Ctx) : (s.setCtx k x).mus = s.mus := rfl
@[simp] theorem setCtx_rtrs (s : State) (k : Nat) (x : Ctx) : (s.setCtx k x).rtrs = s.rtrs := rfl
@[simp] theorem setCtx_host (s : State) (k : Nat) (x : Ctx) : (s.setCtx k x).host = s.host := rfl
@[simp] theorem setCtx_evt (s : State) (k : Nat) (x : Ctx) : (s.setCtx k x).evt = s.evt := rfl
@[simp] theorem setCtx_claims (s : State) (k : Nat) (x : Ctx) : (s.setCtx k x).claims = s.claims := rfl
@[simp] theorem setCtx_hbm (s : State) (k : Nat) (x : Ctx) : (s.setCtx k x).hbm = s.hbm := rfl
@[simp] theorem setCtx_sites (s : State) (k : Nat) (x : Ctx) : (s.setCtx k x).sites = s.sites := rfl
@[simp] theorem setCtx_twin (s : State) (k : Nat) (x : Ctx) : (s.setCtx k x).twin = s.twin := rfl
@[simp] theorem setCtx_sup (s : State) (k : Nat) (x : Ctx) : (s.setCtx k x).sup = s.sup := rfl
@[simp] theorem setCtx_rel (s : State) (k : Nat) (x : Ctx) : (s.setCtx k x).rel = s.rel := rfl
@[simp] theorem setCtx_store (s : State) (k : Nat) (x : Ctx) : (s.setCtx k x).store = s.store := rfl
@[simp] theorem setCtx_fuses (s : State) (k : Nat) (x : Ctx) : (s.setCtx k x).fuses = s.fuses := rfl
@[simp] theorem setCtx_spdm (s : State) (k : Nat) (x : Ctx) : (s.setCtx k x).spdm = s.spdm := rfl
@[simp] theorem setCtx_bay (s : State) (k : Nat) (x : Ctx) (q : Nat) : (s.setCtx k x).bay q = s.bay q := rfl
@[simp] theorem setCtx_panel (s : State) (k : Nat) (x : Ctx) (q : Nat) : (s.setCtx k x).panel q = s.panel q := rfl
@[simp] theorem setCtx_cu (s : State) (k : Nat) (x : Ctx) (q : Nat) : (s.setCtx k x).cu q = s.cu q := rfl
@[simp] theorem setCtx_mu (s : State) (k : Nat) (x : Ctx) (q : Nat) : (s.setCtx k x).mu q = s.mu q := rfl
@[simp] theorem setCtx_rtr (s : State) (k : Nat) (x : Ctx) (q : Nat) : (s.setCtx k x).rtr q = s.rtr q := rfl
@[simp] theorem setCtx_site (s : State) (k : Nat) (x : Ctx) (q : Nat) : (s.setCtx k x).site q = s.site q := rfl
@[simp] theorem setCtx_ctx (s : State) (k : Nat) (x : Ctx) (q : Nat) :
    (s.setCtx k x).ctx? q = if k = q then some x else s.ctx? q := Assoc.find?_set _ _ _ _
@[simp] theorem setCtx_claim (s : State) (k : Nat) (x : Ctx) (q : Nat) : (s.setCtx k x).claim q = s.claim q := rfl
@[simp] theorem setCtx_reg (s : State) (k : Nat) (x : Ctx) (q : RegId) : (s.setCtx k x).reg q = s.reg q := rfl

@[simp] theorem setClaim_pending (s : State) (k : Nat) (x : Claims) : (s.setClaim k x).pending = s.pending := rfl
@[simp] theorem setClaim_free (s : State) (k : Nat) (x : Claims) : (s.setClaim k x).free = s.free := rfl
@[simp] theorem setClaim_mem (s : State) (k : Nat) (x : Claims) : (s.setClaim k x).mem = s.mem := rfl
@[simp] theorem setClaim_errs (s : State) (k : Nat) (x : Claims) : (s.setClaim k x).errs = s.errs := rfl
@[simp] theorem setClaim_hostMem (s : State) (k : Nat) (x : Claims) : (s.setClaim k x).hostMem = s.hostMem := rfl
@[simp] theorem setClaim_regs (s : State) (k : Nat) (x : Claims) : (s.setClaim k x).regs = s.regs := rfl
@[simp] theorem setClaim_hw (s : State) (k : Nat) (x : Claims) : (s.setClaim k x).hw = s.hw := rfl
@[simp] theorem setClaim_clk (s : State) (k : Nat) (x : Claims) : (s.setClaim k x).clk = s.clk := rfl
@[simp] theorem setClaim_stitch (s : State) (k : Nat) (x : Claims) : (s.setClaim k x).stitch = s.stitch := rfl
@[simp] theorem setClaim_ctxs (s : State) (k : Nat) (x : Claims) : (s.setClaim k x).ctxs = s.ctxs := rfl
@[simp] theorem setClaim_hsync (s : State) (k : Nat) (x : Claims) : (s.setClaim k x).hsync = s.hsync := rfl
@[simp] theorem setClaim_bays (s : State) (k : Nat) (x : Claims) : (s.setClaim k x).bays = s.bays := rfl
@[simp] theorem setClaim_panels (s : State) (k : Nat) (x : Claims) : (s.setClaim k x).panels = s.panels := rfl
@[simp] theorem setClaim_cus (s : State) (k : Nat) (x : Claims) : (s.setClaim k x).cus = s.cus := rfl
@[simp] theorem setClaim_mus (s : State) (k : Nat) (x : Claims) : (s.setClaim k x).mus = s.mus := rfl
@[simp] theorem setClaim_rtrs (s : State) (k : Nat) (x : Claims) : (s.setClaim k x).rtrs = s.rtrs := rfl
@[simp] theorem setClaim_host (s : State) (k : Nat) (x : Claims) : (s.setClaim k x).host = s.host := rfl
@[simp] theorem setClaim_evt (s : State) (k : Nat) (x : Claims) : (s.setClaim k x).evt = s.evt := rfl
@[simp] theorem setClaim_hbm (s : State) (k : Nat) (x : Claims) : (s.setClaim k x).hbm = s.hbm := rfl
@[simp] theorem setClaim_sites (s : State) (k : Nat) (x : Claims) : (s.setClaim k x).sites = s.sites := rfl
@[simp] theorem setClaim_twin (s : State) (k : Nat) (x : Claims) : (s.setClaim k x).twin = s.twin := rfl
@[simp] theorem setClaim_sup (s : State) (k : Nat) (x : Claims) : (s.setClaim k x).sup = s.sup := rfl
@[simp] theorem setClaim_rel (s : State) (k : Nat) (x : Claims) : (s.setClaim k x).rel = s.rel := rfl
@[simp] theorem setClaim_store (s : State) (k : Nat) (x : Claims) : (s.setClaim k x).store = s.store := rfl
@[simp] theorem setClaim_fuses (s : State) (k : Nat) (x : Claims) : (s.setClaim k x).fuses = s.fuses := rfl
@[simp] theorem setClaim_spdm (s : State) (k : Nat) (x : Claims) : (s.setClaim k x).spdm = s.spdm := rfl
@[simp] theorem setClaim_bay (s : State) (k : Nat) (x : Claims) (q : Nat) : (s.setClaim k x).bay q = s.bay q := rfl
@[simp] theorem setClaim_panel (s : State) (k : Nat) (x : Claims) (q : Nat) : (s.setClaim k x).panel q = s.panel q := rfl
@[simp] theorem setClaim_cu (s : State) (k : Nat) (x : Claims) (q : Nat) : (s.setClaim k x).cu q = s.cu q := rfl
@[simp] theorem setClaim_mu (s : State) (k : Nat) (x : Claims) (q : Nat) : (s.setClaim k x).mu q = s.mu q := rfl
@[simp] theorem setClaim_rtr (s : State) (k : Nat) (x : Claims) (q : Nat) : (s.setClaim k x).rtr q = s.rtr q := rfl
@[simp] theorem setClaim_site (s : State) (k : Nat) (x : Claims) (q : Nat) : (s.setClaim k x).site q = s.site q := rfl
@[simp] theorem setClaim_ctx (s : State) (k : Nat) (x : Claims) (q : Nat) : (s.setClaim k x).ctx? q = s.ctx? q := rfl
@[simp] theorem setClaim_claim (s : State) (k : Nat) (x : Claims) (q : Nat) :
    (s.setClaim k x).claim q = if k = q then x else s.claim q := Assoc.get_set _ _ _ _ _
@[simp] theorem setClaim_reg (s : State) (k : Nat) (x : Claims) (q : RegId) : (s.setClaim k x).reg q = s.reg q := rfl

@[simp] theorem setReg_pending (s : State) (r : RegId) (x : Reg) : (s.setReg r x).pending = s.pending := rfl
@[simp] theorem setReg_free (s : State) (r : RegId) (x : Reg) : (s.setReg r x).free = s.free := rfl
@[simp] theorem setReg_mem (s : State) (r : RegId) (x : Reg) : (s.setReg r x).mem = s.mem := rfl
@[simp] theorem setReg_errs (s : State) (r : RegId) (x : Reg) : (s.setReg r x).errs = s.errs := rfl
@[simp] theorem setReg_hostMem (s : State) (r : RegId) (x : Reg) : (s.setReg r x).hostMem = s.hostMem := rfl
@[simp] theorem setReg_clk (s : State) (r : RegId) (x : Reg) : (s.setReg r x).clk = s.clk := rfl
@[simp] theorem setReg_stitch (s : State) (r : RegId) (x : Reg) : (s.setReg r x).stitch = s.stitch := rfl
@[simp] theorem setReg_ctxs (s : State) (r : RegId) (x : Reg) : (s.setReg r x).ctxs = s.ctxs := rfl
@[simp] theorem setReg_hsync (s : State) (r : RegId) (x : Reg) : (s.setReg r x).hsync = s.hsync := rfl
@[simp] theorem setReg_bays (s : State) (r : RegId) (x : Reg) : (s.setReg r x).bays = s.bays := rfl
@[simp] theorem setReg_panels (s : State) (r : RegId) (x : Reg) : (s.setReg r x).panels = s.panels := rfl
@[simp] theorem setReg_cus (s : State) (r : RegId) (x : Reg) : (s.setReg r x).cus = s.cus := rfl
@[simp] theorem setReg_mus (s : State) (r : RegId) (x : Reg) : (s.setReg r x).mus = s.mus := rfl
@[simp] theorem setReg_rtrs (s : State) (r : RegId) (x : Reg) : (s.setReg r x).rtrs = s.rtrs := rfl
@[simp] theorem setReg_host (s : State) (r : RegId) (x : Reg) : (s.setReg r x).host = s.host := rfl
@[simp] theorem setReg_evt (s : State) (r : RegId) (x : Reg) : (s.setReg r x).evt = s.evt := rfl
@[simp] theorem setReg_claims (s : State) (r : RegId) (x : Reg) : (s.setReg r x).claims = s.claims := rfl
@[simp] theorem setReg_hbm (s : State) (r : RegId) (x : Reg) : (s.setReg r x).hbm = s.hbm := rfl
@[simp] theorem setReg_sites (s : State) (r : RegId) (x : Reg) : (s.setReg r x).sites = s.sites := rfl
@[simp] theorem setReg_twin (s : State) (r : RegId) (x : Reg) : (s.setReg r x).twin = s.twin := rfl
@[simp] theorem setReg_sup (s : State) (r : RegId) (x : Reg) : (s.setReg r x).sup = s.sup := rfl
@[simp] theorem setReg_rel (s : State) (r : RegId) (x : Reg) : (s.setReg r x).rel = s.rel := rfl
@[simp] theorem setReg_store (s : State) (r : RegId) (x : Reg) : (s.setReg r x).store = s.store := rfl
@[simp] theorem setReg_fuses (s : State) (r : RegId) (x : Reg) : (s.setReg r x).fuses = s.fuses := rfl
@[simp] theorem setReg_spdm (s : State) (r : RegId) (x : Reg) : (s.setReg r x).spdm = s.spdm := rfl
@[simp] theorem setReg_bay (s : State) (r : RegId) (x : Reg) (q : Nat) : (s.setReg r x).bay q = s.bay q := rfl
@[simp] theorem setReg_panel (s : State) (r : RegId) (x : Reg) (q : Nat) : (s.setReg r x).panel q = s.panel q := rfl
@[simp] theorem setReg_cu (s : State) (r : RegId) (x : Reg) (q : Nat) : (s.setReg r x).cu q = s.cu q := rfl
@[simp] theorem setReg_mu (s : State) (r : RegId) (x : Reg) (q : Nat) : (s.setReg r x).mu q = s.mu q := rfl
@[simp] theorem setReg_rtr (s : State) (r : RegId) (x : Reg) (q : Nat) : (s.setReg r x).rtr q = s.rtr q := rfl
@[simp] theorem setReg_site (s : State) (r : RegId) (x : Reg) (q : Nat) : (s.setReg r x).site q = s.site q := rfl
@[simp] theorem setReg_ctx (s : State) (r : RegId) (x : Reg) (q : Nat) : (s.setReg r x).ctx? q = s.ctx? q := rfl
@[simp] theorem setReg_claim (s : State) (r : RegId) (x : Reg) (q : Nat) : (s.setReg r x).claim q = s.claim q := rfl
@[simp] theorem setReg_reg (s : State) (r : RegId) (x : Reg) (q : RegId) :
    (s.setReg r x).reg q = if r = q then x else s.reg q := by
  simp only [State.setReg, State.reg, Assoc.get, Assoc.find?_set]
  split <;> rfl

@[simp] theorem modBay_pending (s : State) (b : Nat) (x : Bay → Bay) : (s.modBay b x).pending = s.pending := rfl
@[simp] theorem modBay_free (s : State) (b : Nat) (x : Bay → Bay) : (s.modBay b x).free = s.free := rfl
@[simp] theorem modBay_mem (s : State) (b : Nat) (x : Bay → Bay) : (s.modBay b x).mem = s.mem := rfl
@[simp] theorem modBay_errs (s : State) (b : Nat) (x : Bay → Bay) : (s.modBay b x).errs = s.errs := rfl
@[simp] theorem modBay_hostMem (s : State) (b : Nat) (x : Bay → Bay) : (s.modBay b x).hostMem = s.hostMem := rfl
@[simp] theorem modBay_regs (s : State) (b : Nat) (x : Bay → Bay) : (s.modBay b x).regs = s.regs := rfl
@[simp] theorem modBay_hw (s : State) (b : Nat) (x : Bay → Bay) : (s.modBay b x).hw = s.hw := rfl
@[simp] theorem modBay_clk (s : State) (b : Nat) (x : Bay → Bay) : (s.modBay b x).clk = s.clk := rfl
@[simp] theorem modBay_stitch (s : State) (b : Nat) (x : Bay → Bay) : (s.modBay b x).stitch = s.stitch := rfl
@[simp] theorem modBay_ctxs (s : State) (b : Nat) (x : Bay → Bay) : (s.modBay b x).ctxs = s.ctxs := rfl
@[simp] theorem modBay_hsync (s : State) (b : Nat) (x : Bay → Bay) : (s.modBay b x).hsync = s.hsync := rfl
@[simp] theorem modBay_panels (s : State) (b : Nat) (x : Bay → Bay) : (s.modBay b x).panels = s.panels := rfl
@[simp] theorem modBay_cus (s : State) (b : Nat) (x : Bay → Bay) : (s.modBay b x).cus = s.cus := rfl
@[simp] theorem modBay_mus (s : State) (b : Nat) (x : Bay → Bay) : (s.modBay b x).mus = s.mus := rfl
@[simp] theorem modBay_rtrs (s : State) (b : Nat) (x : Bay → Bay) : (s.modBay b x).rtrs = s.rtrs := rfl
@[simp] theorem modBay_host (s : State) (b : Nat) (x : Bay → Bay) : (s.modBay b x).host = s.host := rfl
@[simp] theorem modBay_evt (s : State) (b : Nat) (x : Bay → Bay) : (s.modBay b x).evt = s.evt := rfl
@[simp] theorem modBay_claims (s : State) (b : Nat) (x : Bay → Bay) : (s.modBay b x).claims = s.claims := rfl
@[simp] theorem modBay_hbm (s : State) (b : Nat) (x : Bay → Bay) : (s.modBay b x).hbm = s.hbm := rfl
@[simp] theorem modBay_sites (s : State) (b : Nat) (x : Bay → Bay) : (s.modBay b x).sites = s.sites := rfl
@[simp] theorem modBay_twin (s : State) (b : Nat) (x : Bay → Bay) : (s.modBay b x).twin = s.twin := rfl
@[simp] theorem modBay_sup (s : State) (b : Nat) (x : Bay → Bay) : (s.modBay b x).sup = s.sup := rfl
@[simp] theorem modBay_rel (s : State) (b : Nat) (x : Bay → Bay) : (s.modBay b x).rel = s.rel := rfl
@[simp] theorem modBay_store (s : State) (b : Nat) (x : Bay → Bay) : (s.modBay b x).store = s.store := rfl
@[simp] theorem modBay_fuses (s : State) (b : Nat) (x : Bay → Bay) : (s.modBay b x).fuses = s.fuses := rfl
@[simp] theorem modBay_spdm (s : State) (b : Nat) (x : Bay → Bay) : (s.modBay b x).spdm = s.spdm := rfl
@[simp] theorem modBay_bay (s : State) (b : Nat) (x : Bay → Bay) (q : Nat) :
    (s.modBay b x).bay q = if b = q then x (s.bay b) else s.bay q := Assoc.get_set _ _ _ _ _
@[simp] theorem modBay_panel (s : State) (b : Nat) (x : Bay → Bay) (q : Nat) : (s.modBay b x).panel q = s.panel q := rfl
@[simp] theorem modBay_cu (s : State) (b : Nat) (x : Bay → Bay) (q : Nat) : (s.modBay b x).cu q = s.cu q := rfl
@[simp] theorem modBay_mu (s : State) (b : Nat) (x : Bay → Bay) (q : Nat) : (s.modBay b x).mu q = s.mu q := rfl
@[simp] theorem modBay_rtr (s : State) (b : Nat) (x : Bay → Bay) (q : Nat) : (s.modBay b x).rtr q = s.rtr q := rfl
@[simp] theorem modBay_site (s : State) (b : Nat) (x : Bay → Bay) (q : Nat) : (s.modBay b x).site q = s.site q := rfl
@[simp] theorem modBay_ctx (s : State) (b : Nat) (x : Bay → Bay) (q : Nat) : (s.modBay b x).ctx? q = s.ctx? q := rfl
@[simp] theorem modBay_claim (s : State) (b : Nat) (x : Bay → Bay) (q : Nat) : (s.modBay b x).claim q = s.claim q := rfl
@[simp] theorem modBay_reg (s : State) (b : Nat) (x : Bay → Bay) (q : RegId) : (s.modBay b x).reg q = s.reg q := rfl

@[simp] theorem modPanel_pending (s : State) (p : Nat) (x : Panel → Panel) : (s.modPanel p x).pending = s.pending := rfl
@[simp] theorem modPanel_free (s : State) (p : Nat) (x : Panel → Panel) : (s.modPanel p x).free = s.free := rfl
@[simp] theorem modPanel_mem (s : State) (p : Nat) (x : Panel → Panel) : (s.modPanel p x).mem = s.mem := rfl
@[simp] theorem modPanel_errs (s : State) (p : Nat) (x : Panel → Panel) : (s.modPanel p x).errs = s.errs := rfl
@[simp] theorem modPanel_hostMem (s : State) (p : Nat) (x : Panel → Panel) : (s.modPanel p x).hostMem = s.hostMem := rfl
@[simp] theorem modPanel_regs (s : State) (p : Nat) (x : Panel → Panel) : (s.modPanel p x).regs = s.regs := rfl
@[simp] theorem modPanel_hw (s : State) (p : Nat) (x : Panel → Panel) : (s.modPanel p x).hw = s.hw := rfl
@[simp] theorem modPanel_clk (s : State) (p : Nat) (x : Panel → Panel) : (s.modPanel p x).clk = s.clk := rfl
@[simp] theorem modPanel_stitch (s : State) (p : Nat) (x : Panel → Panel) : (s.modPanel p x).stitch = s.stitch := rfl
@[simp] theorem modPanel_ctxs (s : State) (p : Nat) (x : Panel → Panel) : (s.modPanel p x).ctxs = s.ctxs := rfl
@[simp] theorem modPanel_hsync (s : State) (p : Nat) (x : Panel → Panel) : (s.modPanel p x).hsync = s.hsync := rfl
@[simp] theorem modPanel_bays (s : State) (p : Nat) (x : Panel → Panel) : (s.modPanel p x).bays = s.bays := rfl
@[simp] theorem modPanel_cus (s : State) (p : Nat) (x : Panel → Panel) : (s.modPanel p x).cus = s.cus := rfl
@[simp] theorem modPanel_mus (s : State) (p : Nat) (x : Panel → Panel) : (s.modPanel p x).mus = s.mus := rfl
@[simp] theorem modPanel_rtrs (s : State) (p : Nat) (x : Panel → Panel) : (s.modPanel p x).rtrs = s.rtrs := rfl
@[simp] theorem modPanel_host (s : State) (p : Nat) (x : Panel → Panel) : (s.modPanel p x).host = s.host := rfl
@[simp] theorem modPanel_evt (s : State) (p : Nat) (x : Panel → Panel) : (s.modPanel p x).evt = s.evt := rfl
@[simp] theorem modPanel_claims (s : State) (p : Nat) (x : Panel → Panel) : (s.modPanel p x).claims = s.claims := rfl
@[simp] theorem modPanel_hbm (s : State) (p : Nat) (x : Panel → Panel) : (s.modPanel p x).hbm = s.hbm := rfl
@[simp] theorem modPanel_sites (s : State) (p : Nat) (x : Panel → Panel) : (s.modPanel p x).sites = s.sites := rfl
@[simp] theorem modPanel_twin (s : State) (p : Nat) (x : Panel → Panel) : (s.modPanel p x).twin = s.twin := rfl
@[simp] theorem modPanel_sup (s : State) (p : Nat) (x : Panel → Panel) : (s.modPanel p x).sup = s.sup := rfl
@[simp] theorem modPanel_rel (s : State) (p : Nat) (x : Panel → Panel) : (s.modPanel p x).rel = s.rel := rfl
@[simp] theorem modPanel_store (s : State) (p : Nat) (x : Panel → Panel) : (s.modPanel p x).store = s.store := rfl
@[simp] theorem modPanel_fuses (s : State) (p : Nat) (x : Panel → Panel) : (s.modPanel p x).fuses = s.fuses := rfl
@[simp] theorem modPanel_spdm (s : State) (p : Nat) (x : Panel → Panel) : (s.modPanel p x).spdm = s.spdm := rfl
@[simp] theorem modPanel_bay (s : State) (p : Nat) (x : Panel → Panel) (q : Nat) : (s.modPanel p x).bay q = s.bay q := rfl
@[simp] theorem modPanel_panel (s : State) (p : Nat) (x : Panel → Panel) (q : Nat) :
    (s.modPanel p x).panel q = if p = q then x (s.panel p) else s.panel q := Assoc.get_set _ _ _ _ _
@[simp] theorem modPanel_cu (s : State) (p : Nat) (x : Panel → Panel) (q : Nat) : (s.modPanel p x).cu q = s.cu q := rfl
@[simp] theorem modPanel_mu (s : State) (p : Nat) (x : Panel → Panel) (q : Nat) : (s.modPanel p x).mu q = s.mu q := rfl
@[simp] theorem modPanel_rtr (s : State) (p : Nat) (x : Panel → Panel) (q : Nat) : (s.modPanel p x).rtr q = s.rtr q := rfl
@[simp] theorem modPanel_site (s : State) (p : Nat) (x : Panel → Panel) (q : Nat) : (s.modPanel p x).site q = s.site q := rfl
@[simp] theorem modPanel_ctx (s : State) (p : Nat) (x : Panel → Panel) (q : Nat) : (s.modPanel p x).ctx? q = s.ctx? q := rfl
@[simp] theorem modPanel_claim (s : State) (p : Nat) (x : Panel → Panel) (q : Nat) : (s.modPanel p x).claim q = s.claim q := rfl
@[simp] theorem modPanel_reg (s : State) (p : Nat) (x : Panel → Panel) (q : RegId) : (s.modPanel p x).reg q = s.reg q := rfl

@[simp] theorem modCu_pending (s : State) (u : Nat) (x : Cu → Cu) : (s.modCu u x).pending = s.pending := rfl
@[simp] theorem modCu_free (s : State) (u : Nat) (x : Cu → Cu) : (s.modCu u x).free = s.free := rfl
@[simp] theorem modCu_mem (s : State) (u : Nat) (x : Cu → Cu) : (s.modCu u x).mem = s.mem := rfl
@[simp] theorem modCu_errs (s : State) (u : Nat) (x : Cu → Cu) : (s.modCu u x).errs = s.errs := rfl
@[simp] theorem modCu_hostMem (s : State) (u : Nat) (x : Cu → Cu) : (s.modCu u x).hostMem = s.hostMem := rfl
@[simp] theorem modCu_regs (s : State) (u : Nat) (x : Cu → Cu) : (s.modCu u x).regs = s.regs := rfl
@[simp] theorem modCu_hw (s : State) (u : Nat) (x : Cu → Cu) : (s.modCu u x).hw = s.hw := rfl
@[simp] theorem modCu_clk (s : State) (u : Nat) (x : Cu → Cu) : (s.modCu u x).clk = s.clk := rfl
@[simp] theorem modCu_stitch (s : State) (u : Nat) (x : Cu → Cu) : (s.modCu u x).stitch = s.stitch := rfl
@[simp] theorem modCu_ctxs (s : State) (u : Nat) (x : Cu → Cu) : (s.modCu u x).ctxs = s.ctxs := rfl
@[simp] theorem modCu_hsync (s : State) (u : Nat) (x : Cu → Cu) : (s.modCu u x).hsync = s.hsync := rfl
@[simp] theorem modCu_bays (s : State) (u : Nat) (x : Cu → Cu) : (s.modCu u x).bays = s.bays := rfl
@[simp] theorem modCu_panels (s : State) (u : Nat) (x : Cu → Cu) : (s.modCu u x).panels = s.panels := rfl
@[simp] theorem modCu_mus (s : State) (u : Nat) (x : Cu → Cu) : (s.modCu u x).mus = s.mus := rfl
@[simp] theorem modCu_rtrs (s : State) (u : Nat) (x : Cu → Cu) : (s.modCu u x).rtrs = s.rtrs := rfl
@[simp] theorem modCu_host (s : State) (u : Nat) (x : Cu → Cu) : (s.modCu u x).host = s.host := rfl
@[simp] theorem modCu_evt (s : State) (u : Nat) (x : Cu → Cu) : (s.modCu u x).evt = s.evt := rfl
@[simp] theorem modCu_claims (s : State) (u : Nat) (x : Cu → Cu) : (s.modCu u x).claims = s.claims := rfl
@[simp] theorem modCu_hbm (s : State) (u : Nat) (x : Cu → Cu) : (s.modCu u x).hbm = s.hbm := rfl
@[simp] theorem modCu_sites (s : State) (u : Nat) (x : Cu → Cu) : (s.modCu u x).sites = s.sites := rfl
@[simp] theorem modCu_twin (s : State) (u : Nat) (x : Cu → Cu) : (s.modCu u x).twin = s.twin := rfl
@[simp] theorem modCu_sup (s : State) (u : Nat) (x : Cu → Cu) : (s.modCu u x).sup = s.sup := rfl
@[simp] theorem modCu_rel (s : State) (u : Nat) (x : Cu → Cu) : (s.modCu u x).rel = s.rel := rfl
@[simp] theorem modCu_store (s : State) (u : Nat) (x : Cu → Cu) : (s.modCu u x).store = s.store := rfl
@[simp] theorem modCu_fuses (s : State) (u : Nat) (x : Cu → Cu) : (s.modCu u x).fuses = s.fuses := rfl
@[simp] theorem modCu_spdm (s : State) (u : Nat) (x : Cu → Cu) : (s.modCu u x).spdm = s.spdm := rfl
@[simp] theorem modCu_bay (s : State) (u : Nat) (x : Cu → Cu) (q : Nat) : (s.modCu u x).bay q = s.bay q := rfl
@[simp] theorem modCu_panel (s : State) (u : Nat) (x : Cu → Cu) (q : Nat) : (s.modCu u x).panel q = s.panel q := rfl
@[simp] theorem modCu_cu (s : State) (u : Nat) (x : Cu → Cu) (q : Nat) :
    (s.modCu u x).cu q = if u = q then x (s.cu u) else s.cu q := Assoc.get_set _ _ _ _ _
@[simp] theorem modCu_mu (s : State) (u : Nat) (x : Cu → Cu) (q : Nat) : (s.modCu u x).mu q = s.mu q := rfl
@[simp] theorem modCu_rtr (s : State) (u : Nat) (x : Cu → Cu) (q : Nat) : (s.modCu u x).rtr q = s.rtr q := rfl
@[simp] theorem modCu_site (s : State) (u : Nat) (x : Cu → Cu) (q : Nat) : (s.modCu u x).site q = s.site q := rfl
@[simp] theorem modCu_ctx (s : State) (u : Nat) (x : Cu → Cu) (q : Nat) : (s.modCu u x).ctx? q = s.ctx? q := rfl
@[simp] theorem modCu_claim (s : State) (u : Nat) (x : Cu → Cu) (q : Nat) : (s.modCu u x).claim q = s.claim q := rfl
@[simp] theorem modCu_reg (s : State) (u : Nat) (x : Cu → Cu) (q : RegId) : (s.modCu u x).reg q = s.reg q := rfl

@[simp] theorem modMu_pending (s : State) (c : Nat) (x : Mu → Mu) : (s.modMu c x).pending = s.pending := rfl
@[simp] theorem modMu_free (s : State) (c : Nat) (x : Mu → Mu) : (s.modMu c x).free = s.free := rfl
@[simp] theorem modMu_mem (s : State) (c : Nat) (x : Mu → Mu) : (s.modMu c x).mem = s.mem := rfl
@[simp] theorem modMu_errs (s : State) (c : Nat) (x : Mu → Mu) : (s.modMu c x).errs = s.errs := rfl
@[simp] theorem modMu_hostMem (s : State) (c : Nat) (x : Mu → Mu) : (s.modMu c x).hostMem = s.hostMem := rfl
@[simp] theorem modMu_regs (s : State) (c : Nat) (x : Mu → Mu) : (s.modMu c x).regs = s.regs := rfl
@[simp] theorem modMu_hw (s : State) (c : Nat) (x : Mu → Mu) : (s.modMu c x).hw = s.hw := rfl
@[simp] theorem modMu_clk (s : State) (c : Nat) (x : Mu → Mu) : (s.modMu c x).clk = s.clk := rfl
@[simp] theorem modMu_stitch (s : State) (c : Nat) (x : Mu → Mu) : (s.modMu c x).stitch = s.stitch := rfl
@[simp] theorem modMu_ctxs (s : State) (c : Nat) (x : Mu → Mu) : (s.modMu c x).ctxs = s.ctxs := rfl
@[simp] theorem modMu_hsync (s : State) (c : Nat) (x : Mu → Mu) : (s.modMu c x).hsync = s.hsync := rfl
@[simp] theorem modMu_bays (s : State) (c : Nat) (x : Mu → Mu) : (s.modMu c x).bays = s.bays := rfl
@[simp] theorem modMu_panels (s : State) (c : Nat) (x : Mu → Mu) : (s.modMu c x).panels = s.panels := rfl
@[simp] theorem modMu_cus (s : State) (c : Nat) (x : Mu → Mu) : (s.modMu c x).cus = s.cus := rfl
@[simp] theorem modMu_rtrs (s : State) (c : Nat) (x : Mu → Mu) : (s.modMu c x).rtrs = s.rtrs := rfl
@[simp] theorem modMu_host (s : State) (c : Nat) (x : Mu → Mu) : (s.modMu c x).host = s.host := rfl
@[simp] theorem modMu_evt (s : State) (c : Nat) (x : Mu → Mu) : (s.modMu c x).evt = s.evt := rfl
@[simp] theorem modMu_claims (s : State) (c : Nat) (x : Mu → Mu) : (s.modMu c x).claims = s.claims := rfl
@[simp] theorem modMu_hbm (s : State) (c : Nat) (x : Mu → Mu) : (s.modMu c x).hbm = s.hbm := rfl
@[simp] theorem modMu_sites (s : State) (c : Nat) (x : Mu → Mu) : (s.modMu c x).sites = s.sites := rfl
@[simp] theorem modMu_twin (s : State) (c : Nat) (x : Mu → Mu) : (s.modMu c x).twin = s.twin := rfl
@[simp] theorem modMu_sup (s : State) (c : Nat) (x : Mu → Mu) : (s.modMu c x).sup = s.sup := rfl
@[simp] theorem modMu_rel (s : State) (c : Nat) (x : Mu → Mu) : (s.modMu c x).rel = s.rel := rfl
@[simp] theorem modMu_store (s : State) (c : Nat) (x : Mu → Mu) : (s.modMu c x).store = s.store := rfl
@[simp] theorem modMu_fuses (s : State) (c : Nat) (x : Mu → Mu) : (s.modMu c x).fuses = s.fuses := rfl
@[simp] theorem modMu_spdm (s : State) (c : Nat) (x : Mu → Mu) : (s.modMu c x).spdm = s.spdm := rfl
@[simp] theorem modMu_bay (s : State) (c : Nat) (x : Mu → Mu) (q : Nat) : (s.modMu c x).bay q = s.bay q := rfl
@[simp] theorem modMu_panel (s : State) (c : Nat) (x : Mu → Mu) (q : Nat) : (s.modMu c x).panel q = s.panel q := rfl
@[simp] theorem modMu_cu (s : State) (c : Nat) (x : Mu → Mu) (q : Nat) : (s.modMu c x).cu q = s.cu q := rfl
@[simp] theorem modMu_mu (s : State) (c : Nat) (x : Mu → Mu) (q : Nat) :
    (s.modMu c x).mu q = if c = q then x (s.mu c) else s.mu q := Assoc.get_set _ _ _ _ _
@[simp] theorem modMu_rtr (s : State) (c : Nat) (x : Mu → Mu) (q : Nat) : (s.modMu c x).rtr q = s.rtr q := rfl
@[simp] theorem modMu_site (s : State) (c : Nat) (x : Mu → Mu) (q : Nat) : (s.modMu c x).site q = s.site q := rfl
@[simp] theorem modMu_ctx (s : State) (c : Nat) (x : Mu → Mu) (q : Nat) : (s.modMu c x).ctx? q = s.ctx? q := rfl
@[simp] theorem modMu_claim (s : State) (c : Nat) (x : Mu → Mu) (q : Nat) : (s.modMu c x).claim q = s.claim q := rfl
@[simp] theorem modMu_reg (s : State) (c : Nat) (x : Mu → Mu) (q : RegId) : (s.modMu c x).reg q = s.reg q := rfl

@[simp] theorem modRtr_pending (s : State) (c : Nat) (x : Rtr → Rtr) : (s.modRtr c x).pending = s.pending := rfl
@[simp] theorem modRtr_free (s : State) (c : Nat) (x : Rtr → Rtr) : (s.modRtr c x).free = s.free := rfl
@[simp] theorem modRtr_mem (s : State) (c : Nat) (x : Rtr → Rtr) : (s.modRtr c x).mem = s.mem := rfl
@[simp] theorem modRtr_errs (s : State) (c : Nat) (x : Rtr → Rtr) : (s.modRtr c x).errs = s.errs := rfl
@[simp] theorem modRtr_hostMem (s : State) (c : Nat) (x : Rtr → Rtr) : (s.modRtr c x).hostMem = s.hostMem := rfl
@[simp] theorem modRtr_regs (s : State) (c : Nat) (x : Rtr → Rtr) : (s.modRtr c x).regs = s.regs := rfl
@[simp] theorem modRtr_hw (s : State) (c : Nat) (x : Rtr → Rtr) : (s.modRtr c x).hw = s.hw := rfl
@[simp] theorem modRtr_clk (s : State) (c : Nat) (x : Rtr → Rtr) : (s.modRtr c x).clk = s.clk := rfl
@[simp] theorem modRtr_stitch (s : State) (c : Nat) (x : Rtr → Rtr) : (s.modRtr c x).stitch = s.stitch := rfl
@[simp] theorem modRtr_ctxs (s : State) (c : Nat) (x : Rtr → Rtr) : (s.modRtr c x).ctxs = s.ctxs := rfl
@[simp] theorem modRtr_hsync (s : State) (c : Nat) (x : Rtr → Rtr) : (s.modRtr c x).hsync = s.hsync := rfl
@[simp] theorem modRtr_bays (s : State) (c : Nat) (x : Rtr → Rtr) : (s.modRtr c x).bays = s.bays := rfl
@[simp] theorem modRtr_panels (s : State) (c : Nat) (x : Rtr → Rtr) : (s.modRtr c x).panels = s.panels := rfl
@[simp] theorem modRtr_cus (s : State) (c : Nat) (x : Rtr → Rtr) : (s.modRtr c x).cus = s.cus := rfl
@[simp] theorem modRtr_mus (s : State) (c : Nat) (x : Rtr → Rtr) : (s.modRtr c x).mus = s.mus := rfl
@[simp] theorem modRtr_host (s : State) (c : Nat) (x : Rtr → Rtr) : (s.modRtr c x).host = s.host := rfl
@[simp] theorem modRtr_evt (s : State) (c : Nat) (x : Rtr → Rtr) : (s.modRtr c x).evt = s.evt := rfl
@[simp] theorem modRtr_claims (s : State) (c : Nat) (x : Rtr → Rtr) : (s.modRtr c x).claims = s.claims := rfl
@[simp] theorem modRtr_hbm (s : State) (c : Nat) (x : Rtr → Rtr) : (s.modRtr c x).hbm = s.hbm := rfl
@[simp] theorem modRtr_sites (s : State) (c : Nat) (x : Rtr → Rtr) : (s.modRtr c x).sites = s.sites := rfl
@[simp] theorem modRtr_twin (s : State) (c : Nat) (x : Rtr → Rtr) : (s.modRtr c x).twin = s.twin := rfl
@[simp] theorem modRtr_sup (s : State) (c : Nat) (x : Rtr → Rtr) : (s.modRtr c x).sup = s.sup := rfl
@[simp] theorem modRtr_rel (s : State) (c : Nat) (x : Rtr → Rtr) : (s.modRtr c x).rel = s.rel := rfl
@[simp] theorem modRtr_store (s : State) (c : Nat) (x : Rtr → Rtr) : (s.modRtr c x).store = s.store := rfl
@[simp] theorem modRtr_fuses (s : State) (c : Nat) (x : Rtr → Rtr) : (s.modRtr c x).fuses = s.fuses := rfl
@[simp] theorem modRtr_spdm (s : State) (c : Nat) (x : Rtr → Rtr) : (s.modRtr c x).spdm = s.spdm := rfl
@[simp] theorem modRtr_bay (s : State) (c : Nat) (x : Rtr → Rtr) (q : Nat) : (s.modRtr c x).bay q = s.bay q := rfl
@[simp] theorem modRtr_panel (s : State) (c : Nat) (x : Rtr → Rtr) (q : Nat) : (s.modRtr c x).panel q = s.panel q := rfl
@[simp] theorem modRtr_cu (s : State) (c : Nat) (x : Rtr → Rtr) (q : Nat) : (s.modRtr c x).cu q = s.cu q := rfl
@[simp] theorem modRtr_mu (s : State) (c : Nat) (x : Rtr → Rtr) (q : Nat) : (s.modRtr c x).mu q = s.mu q := rfl
@[simp] theorem modRtr_rtr (s : State) (c : Nat) (x : Rtr → Rtr) (q : Nat) :
    (s.modRtr c x).rtr q = if c = q then x (s.rtr c) else s.rtr q := Assoc.get_set _ _ _ _ _
@[simp] theorem modRtr_site (s : State) (c : Nat) (x : Rtr → Rtr) (q : Nat) : (s.modRtr c x).site q = s.site q := rfl
@[simp] theorem modRtr_ctx (s : State) (c : Nat) (x : Rtr → Rtr) (q : Nat) : (s.modRtr c x).ctx? q = s.ctx? q := rfl
@[simp] theorem modRtr_claim (s : State) (c : Nat) (x : Rtr → Rtr) (q : Nat) : (s.modRtr c x).claim q = s.claim q := rfl
@[simp] theorem modRtr_reg (s : State) (c : Nat) (x : Rtr → Rtr) (q : RegId) : (s.modRtr c x).reg q = s.reg q := rfl

@[simp] theorem modSite_pending (s : State) (t : Nat) (x : Site → Site) : (s.modSite t x).pending = s.pending := rfl
@[simp] theorem modSite_free (s : State) (t : Nat) (x : Site → Site) : (s.modSite t x).free = s.free := rfl
@[simp] theorem modSite_mem (s : State) (t : Nat) (x : Site → Site) : (s.modSite t x).mem = s.mem := rfl
@[simp] theorem modSite_errs (s : State) (t : Nat) (x : Site → Site) : (s.modSite t x).errs = s.errs := rfl
@[simp] theorem modSite_hostMem (s : State) (t : Nat) (x : Site → Site) : (s.modSite t x).hostMem = s.hostMem := rfl
@[simp] theorem modSite_regs (s : State) (t : Nat) (x : Site → Site) : (s.modSite t x).regs = s.regs := rfl
@[simp] theorem modSite_hw (s : State) (t : Nat) (x : Site → Site) : (s.modSite t x).hw = s.hw := rfl
@[simp] theorem modSite_clk (s : State) (t : Nat) (x : Site → Site) : (s.modSite t x).clk = s.clk := rfl
@[simp] theorem modSite_stitch (s : State) (t : Nat) (x : Site → Site) : (s.modSite t x).stitch = s.stitch := rfl
@[simp] theorem modSite_ctxs (s : State) (t : Nat) (x : Site → Site) : (s.modSite t x).ctxs = s.ctxs := rfl
@[simp] theorem modSite_hsync (s : State) (t : Nat) (x : Site → Site) : (s.modSite t x).hsync = s.hsync := rfl
@[simp] theorem modSite_bays (s : State) (t : Nat) (x : Site → Site) : (s.modSite t x).bays = s.bays := rfl
@[simp] theorem modSite_panels (s : State) (t : Nat) (x : Site → Site) : (s.modSite t x).panels = s.panels := rfl
@[simp] theorem modSite_cus (s : State) (t : Nat) (x : Site → Site) : (s.modSite t x).cus = s.cus := rfl
@[simp] theorem modSite_mus (s : State) (t : Nat) (x : Site → Site) : (s.modSite t x).mus = s.mus := rfl
@[simp] theorem modSite_rtrs (s : State) (t : Nat) (x : Site → Site) : (s.modSite t x).rtrs = s.rtrs := rfl
@[simp] theorem modSite_host (s : State) (t : Nat) (x : Site → Site) : (s.modSite t x).host = s.host := rfl
@[simp] theorem modSite_evt (s : State) (t : Nat) (x : Site → Site) : (s.modSite t x).evt = s.evt := rfl
@[simp] theorem modSite_claims (s : State) (t : Nat) (x : Site → Site) : (s.modSite t x).claims = s.claims := rfl
@[simp] theorem modSite_hbm (s : State) (t : Nat) (x : Site → Site) : (s.modSite t x).hbm = s.hbm := rfl
@[simp] theorem modSite_twin (s : State) (t : Nat) (x : Site → Site) : (s.modSite t x).twin = s.twin := rfl
@[simp] theorem modSite_sup (s : State) (t : Nat) (x : Site → Site) : (s.modSite t x).sup = s.sup := rfl
@[simp] theorem modSite_rel (s : State) (t : Nat) (x : Site → Site) : (s.modSite t x).rel = s.rel := rfl
@[simp] theorem modSite_store (s : State) (t : Nat) (x : Site → Site) : (s.modSite t x).store = s.store := rfl
@[simp] theorem modSite_fuses (s : State) (t : Nat) (x : Site → Site) : (s.modSite t x).fuses = s.fuses := rfl
@[simp] theorem modSite_spdm (s : State) (t : Nat) (x : Site → Site) : (s.modSite t x).spdm = s.spdm := rfl
@[simp] theorem modSite_bay (s : State) (t : Nat) (x : Site → Site) (q : Nat) : (s.modSite t x).bay q = s.bay q := rfl
@[simp] theorem modSite_panel (s : State) (t : Nat) (x : Site → Site) (q : Nat) : (s.modSite t x).panel q = s.panel q := rfl
@[simp] theorem modSite_cu (s : State) (t : Nat) (x : Site → Site) (q : Nat) : (s.modSite t x).cu q = s.cu q := rfl
@[simp] theorem modSite_mu (s : State) (t : Nat) (x : Site → Site) (q : Nat) : (s.modSite t x).mu q = s.mu q := rfl
@[simp] theorem modSite_rtr (s : State) (t : Nat) (x : Site → Site) (q : Nat) : (s.modSite t x).rtr q = s.rtr q := rfl
@[simp] theorem modSite_site (s : State) (t : Nat) (x : Site → Site) (q : Nat) :
    (s.modSite t x).site q = if t = q then x (s.site t) else s.site q := Assoc.get_set _ _ _ _ _
@[simp] theorem modSite_ctx (s : State) (t : Nat) (x : Site → Site) (q : Nat) : (s.modSite t x).ctx? q = s.ctx? q := rfl
@[simp] theorem modSite_claim (s : State) (t : Nat) (x : Site → Site) (q : Nat) : (s.modSite t x).claim q = s.claim q := rfl
@[simp] theorem modSite_reg (s : State) (t : Nat) (x : Site → Site) (q : RegId) : (s.modSite t x).reg q = s.reg q := rfl

@[simp] theorem modStitch_pending (s : State) (x : Stitch → Stitch) : (s.modStitch x).pending = s.pending := rfl
@[simp] theorem modStitch_free (s : State) (x : Stitch → Stitch) : (s.modStitch x).free = s.free := rfl
@[simp] theorem modStitch_mem (s : State) (x : Stitch → Stitch) : (s.modStitch x).mem = s.mem := rfl
@[simp] theorem modStitch_errs (s : State) (x : Stitch → Stitch) : (s.modStitch x).errs = s.errs := rfl
@[simp] theorem modStitch_hostMem (s : State) (x : Stitch → Stitch) : (s.modStitch x).hostMem = s.hostMem := rfl
@[simp] theorem modStitch_regs (s : State) (x : Stitch → Stitch) : (s.modStitch x).regs = s.regs := rfl
@[simp] theorem modStitch_hw (s : State) (x : Stitch → Stitch) : (s.modStitch x).hw = s.hw := rfl
@[simp] theorem modStitch_clk (s : State) (x : Stitch → Stitch) : (s.modStitch x).clk = s.clk := rfl
@[simp] theorem modStitch_stitch (s : State) (x : Stitch → Stitch) : (s.modStitch x).stitch = x s.stitch := rfl
@[simp] theorem modStitch_ctxs (s : State) (x : Stitch → Stitch) : (s.modStitch x).ctxs = s.ctxs := rfl
@[simp] theorem modStitch_hsync (s : State) (x : Stitch → Stitch) : (s.modStitch x).hsync = s.hsync := rfl
@[simp] theorem modStitch_bays (s : State) (x : Stitch → Stitch) : (s.modStitch x).bays = s.bays := rfl
@[simp] theorem modStitch_panels (s : State) (x : Stitch → Stitch) : (s.modStitch x).panels = s.panels := rfl
@[simp] theorem modStitch_cus (s : State) (x : Stitch → Stitch) : (s.modStitch x).cus = s.cus := rfl
@[simp] theorem modStitch_mus (s : State) (x : Stitch → Stitch) : (s.modStitch x).mus = s.mus := rfl
@[simp] theorem modStitch_rtrs (s : State) (x : Stitch → Stitch) : (s.modStitch x).rtrs = s.rtrs := rfl
@[simp] theorem modStitch_host (s : State) (x : Stitch → Stitch) : (s.modStitch x).host = s.host := rfl
@[simp] theorem modStitch_evt (s : State) (x : Stitch → Stitch) : (s.modStitch x).evt = s.evt := rfl
@[simp] theorem modStitch_claims (s : State) (x : Stitch → Stitch) : (s.modStitch x).claims = s.claims := rfl
@[simp] theorem modStitch_hbm (s : State) (x : Stitch → Stitch) : (s.modStitch x).hbm = s.hbm := rfl
@[simp] theorem modStitch_sites (s : State) (x : Stitch → Stitch) : (s.modStitch x).sites = s.sites := rfl
@[simp] theorem modStitch_twin (s : State) (x : Stitch → Stitch) : (s.modStitch x).twin = s.twin := rfl
@[simp] theorem modStitch_sup (s : State) (x : Stitch → Stitch) : (s.modStitch x).sup = s.sup := rfl
@[simp] theorem modStitch_rel (s : State) (x : Stitch → Stitch) : (s.modStitch x).rel = s.rel := rfl
@[simp] theorem modStitch_store (s : State) (x : Stitch → Stitch) : (s.modStitch x).store = s.store := rfl
@[simp] theorem modStitch_fuses (s : State) (x : Stitch → Stitch) : (s.modStitch x).fuses = s.fuses := rfl
@[simp] theorem modStitch_spdm (s : State) (x : Stitch → Stitch) : (s.modStitch x).spdm = s.spdm := rfl
@[simp] theorem modStitch_bay (s : State) (x : Stitch → Stitch) (q : Nat) : (s.modStitch x).bay q = s.bay q := rfl
@[simp] theorem modStitch_panel (s : State) (x : Stitch → Stitch) (q : Nat) : (s.modStitch x).panel q = s.panel q := rfl
@[simp] theorem modStitch_cu (s : State) (x : Stitch → Stitch) (q : Nat) : (s.modStitch x).cu q = s.cu q := rfl
@[simp] theorem modStitch_mu (s : State) (x : Stitch → Stitch) (q : Nat) : (s.modStitch x).mu q = s.mu q := rfl
@[simp] theorem modStitch_rtr (s : State) (x : Stitch → Stitch) (q : Nat) : (s.modStitch x).rtr q = s.rtr q := rfl
@[simp] theorem modStitch_site (s : State) (x : Stitch → Stitch) (q : Nat) : (s.modStitch x).site q = s.site q := rfl
@[simp] theorem modStitch_ctx (s : State) (x : Stitch → Stitch) (q : Nat) : (s.modStitch x).ctx? q = s.ctx? q := rfl
@[simp] theorem modStitch_claim (s : State) (x : Stitch → Stitch) (q : Nat) : (s.modStitch x).claim q = s.claim q := rfl
@[simp] theorem modStitch_reg (s : State) (x : Stitch → Stitch) (q : RegId) : (s.modStitch x).reg q = s.reg q := rfl

@[simp] theorem modClk_pending (s : State) (x : Clk → Clk) : (s.modClk x).pending = s.pending := rfl
@[simp] theorem modClk_free (s : State) (x : Clk → Clk) : (s.modClk x).free = s.free := rfl
@[simp] theorem modClk_mem (s : State) (x : Clk → Clk) : (s.modClk x).mem = s.mem := rfl
@[simp] theorem modClk_errs (s : State) (x : Clk → Clk) : (s.modClk x).errs = s.errs := rfl
@[simp] theorem modClk_hostMem (s : State) (x : Clk → Clk) : (s.modClk x).hostMem = s.hostMem := rfl
@[simp] theorem modClk_regs (s : State) (x : Clk → Clk) : (s.modClk x).regs = s.regs := rfl
@[simp] theorem modClk_hw (s : State) (x : Clk → Clk) : (s.modClk x).hw = s.hw := rfl
@[simp] theorem modClk_clk (s : State) (x : Clk → Clk) : (s.modClk x).clk = x s.clk := rfl
@[simp] theorem modClk_stitch (s : State) (x : Clk → Clk) : (s.modClk x).stitch = s.stitch := rfl
@[simp] theorem modClk_ctxs (s : State) (x : Clk → Clk) : (s.modClk x).ctxs = s.ctxs := rfl
@[simp] theorem modClk_hsync (s : State) (x : Clk → Clk) : (s.modClk x).hsync = s.hsync := rfl
@[simp] theorem modClk_bays (s : State) (x : Clk → Clk) : (s.modClk x).bays = s.bays := rfl
@[simp] theorem modClk_panels (s : State) (x : Clk → Clk) : (s.modClk x).panels = s.panels := rfl
@[simp] theorem modClk_cus (s : State) (x : Clk → Clk) : (s.modClk x).cus = s.cus := rfl
@[simp] theorem modClk_mus (s : State) (x : Clk → Clk) : (s.modClk x).mus = s.mus := rfl
@[simp] theorem modClk_rtrs (s : State) (x : Clk → Clk) : (s.modClk x).rtrs = s.rtrs := rfl
@[simp] theorem modClk_host (s : State) (x : Clk → Clk) : (s.modClk x).host = s.host := rfl
@[simp] theorem modClk_evt (s : State) (x : Clk → Clk) : (s.modClk x).evt = s.evt := rfl
@[simp] theorem modClk_claims (s : State) (x : Clk → Clk) : (s.modClk x).claims = s.claims := rfl
@[simp] theorem modClk_hbm (s : State) (x : Clk → Clk) : (s.modClk x).hbm = s.hbm := rfl
@[simp] theorem modClk_sites (s : State) (x : Clk → Clk) : (s.modClk x).sites = s.sites := rfl
@[simp] theorem modClk_twin (s : State) (x : Clk → Clk) : (s.modClk x).twin = s.twin := rfl
@[simp] theorem modClk_sup (s : State) (x : Clk → Clk) : (s.modClk x).sup = s.sup := rfl
@[simp] theorem modClk_rel (s : State) (x : Clk → Clk) : (s.modClk x).rel = s.rel := rfl
@[simp] theorem modClk_store (s : State) (x : Clk → Clk) : (s.modClk x).store = s.store := rfl
@[simp] theorem modClk_fuses (s : State) (x : Clk → Clk) : (s.modClk x).fuses = s.fuses := rfl
@[simp] theorem modClk_spdm (s : State) (x : Clk → Clk) : (s.modClk x).spdm = s.spdm := rfl
@[simp] theorem modClk_bay (s : State) (x : Clk → Clk) (q : Nat) : (s.modClk x).bay q = s.bay q := rfl
@[simp] theorem modClk_panel (s : State) (x : Clk → Clk) (q : Nat) : (s.modClk x).panel q = s.panel q := rfl
@[simp] theorem modClk_cu (s : State) (x : Clk → Clk) (q : Nat) : (s.modClk x).cu q = s.cu q := rfl
@[simp] theorem modClk_mu (s : State) (x : Clk → Clk) (q : Nat) : (s.modClk x).mu q = s.mu q := rfl
@[simp] theorem modClk_rtr (s : State) (x : Clk → Clk) (q : Nat) : (s.modClk x).rtr q = s.rtr q := rfl
@[simp] theorem modClk_site (s : State) (x : Clk → Clk) (q : Nat) : (s.modClk x).site q = s.site q := rfl
@[simp] theorem modClk_ctx (s : State) (x : Clk → Clk) (q : Nat) : (s.modClk x).ctx? q = s.ctx? q := rfl
@[simp] theorem modClk_claim (s : State) (x : Clk → Clk) (q : Nat) : (s.modClk x).claim q = s.claim q := rfl
@[simp] theorem modClk_reg (s : State) (x : Clk → Clk) (q : RegId) : (s.modClk x).reg q = s.reg q := rfl

@[simp] theorem modHost_pending (s : State) (x : HostSt → HostSt) : (s.modHost x).pending = s.pending := rfl
@[simp] theorem modHost_free (s : State) (x : HostSt → HostSt) : (s.modHost x).free = s.free := rfl
@[simp] theorem modHost_mem (s : State) (x : HostSt → HostSt) : (s.modHost x).mem = s.mem := rfl
@[simp] theorem modHost_errs (s : State) (x : HostSt → HostSt) : (s.modHost x).errs = s.errs := rfl
@[simp] theorem modHost_hostMem (s : State) (x : HostSt → HostSt) : (s.modHost x).hostMem = s.hostMem := rfl
@[simp] theorem modHost_regs (s : State) (x : HostSt → HostSt) : (s.modHost x).regs = s.regs := rfl
@[simp] theorem modHost_hw (s : State) (x : HostSt → HostSt) : (s.modHost x).hw = s.hw := rfl
@[simp] theorem modHost_clk (s : State) (x : HostSt → HostSt) : (s.modHost x).clk = s.clk := rfl
@[simp] theorem modHost_stitch (s : State) (x : HostSt → HostSt) : (s.modHost x).stitch = s.stitch := rfl
@[simp] theorem modHost_ctxs (s : State) (x : HostSt → HostSt) : (s.modHost x).ctxs = s.ctxs := rfl
@[simp] theorem modHost_hsync (s : State) (x : HostSt → HostSt) : (s.modHost x).hsync = s.hsync := rfl
@[simp] theorem modHost_bays (s : State) (x : HostSt → HostSt) : (s.modHost x).bays = s.bays := rfl
@[simp] theorem modHost_panels (s : State) (x : HostSt → HostSt) : (s.modHost x).panels = s.panels := rfl
@[simp] theorem modHost_cus (s : State) (x : HostSt → HostSt) : (s.modHost x).cus = s.cus := rfl
@[simp] theorem modHost_mus (s : State) (x : HostSt → HostSt) : (s.modHost x).mus = s.mus := rfl
@[simp] theorem modHost_rtrs (s : State) (x : HostSt → HostSt) : (s.modHost x).rtrs = s.rtrs := rfl
@[simp] theorem modHost_host (s : State) (x : HostSt → HostSt) : (s.modHost x).host = x s.host := rfl
@[simp] theorem modHost_evt (s : State) (x : HostSt → HostSt) : (s.modHost x).evt = s.evt := rfl
@[simp] theorem modHost_claims (s : State) (x : HostSt → HostSt) : (s.modHost x).claims = s.claims := rfl
@[simp] theorem modHost_hbm (s : State) (x : HostSt → HostSt) : (s.modHost x).hbm = s.hbm := rfl
@[simp] theorem modHost_sites (s : State) (x : HostSt → HostSt) : (s.modHost x).sites = s.sites := rfl
@[simp] theorem modHost_twin (s : State) (x : HostSt → HostSt) : (s.modHost x).twin = s.twin := rfl
@[simp] theorem modHost_sup (s : State) (x : HostSt → HostSt) : (s.modHost x).sup = s.sup := rfl
@[simp] theorem modHost_rel (s : State) (x : HostSt → HostSt) : (s.modHost x).rel = s.rel := rfl
@[simp] theorem modHost_store (s : State) (x : HostSt → HostSt) : (s.modHost x).store = s.store := rfl
@[simp] theorem modHost_fuses (s : State) (x : HostSt → HostSt) : (s.modHost x).fuses = s.fuses := rfl
@[simp] theorem modHost_spdm (s : State) (x : HostSt → HostSt) : (s.modHost x).spdm = s.spdm := rfl
@[simp] theorem modHost_bay (s : State) (x : HostSt → HostSt) (q : Nat) : (s.modHost x).bay q = s.bay q := rfl
@[simp] theorem modHost_panel (s : State) (x : HostSt → HostSt) (q : Nat) : (s.modHost x).panel q = s.panel q := rfl
@[simp] theorem modHost_cu (s : State) (x : HostSt → HostSt) (q : Nat) : (s.modHost x).cu q = s.cu q := rfl
@[simp] theorem modHost_mu (s : State) (x : HostSt → HostSt) (q : Nat) : (s.modHost x).mu q = s.mu q := rfl
@[simp] theorem modHost_rtr (s : State) (x : HostSt → HostSt) (q : Nat) : (s.modHost x).rtr q = s.rtr q := rfl
@[simp] theorem modHost_site (s : State) (x : HostSt → HostSt) (q : Nat) : (s.modHost x).site q = s.site q := rfl
@[simp] theorem modHost_ctx (s : State) (x : HostSt → HostSt) (q : Nat) : (s.modHost x).ctx? q = s.ctx? q := rfl
@[simp] theorem modHost_claim (s : State) (x : HostSt → HostSt) (q : Nat) : (s.modHost x).claim q = s.claim q := rfl
@[simp] theorem modHost_reg (s : State) (x : HostSt → HostSt) (q : RegId) : (s.modHost x).reg q = s.reg q := rfl

@[simp] theorem modEvt_pending (s : State) (x : Evt → Evt) : (s.modEvt x).pending = s.pending := rfl
@[simp] theorem modEvt_free (s : State) (x : Evt → Evt) : (s.modEvt x).free = s.free := rfl
@[simp] theorem modEvt_mem (s : State) (x : Evt → Evt) : (s.modEvt x).mem = s.mem := rfl
@[simp] theorem modEvt_errs (s : State) (x : Evt → Evt) : (s.modEvt x).errs = s.errs := rfl
@[simp] theorem modEvt_hostMem (s : State) (x : Evt → Evt) : (s.modEvt x).hostMem = s.hostMem := rfl
@[simp] theorem modEvt_regs (s : State) (x : Evt → Evt) : (s.modEvt x).regs = s.regs := rfl
@[simp] theorem modEvt_hw (s : State) (x : Evt → Evt) : (s.modEvt x).hw = s.hw := rfl
@[simp] theorem modEvt_clk (s : State) (x : Evt → Evt) : (s.modEvt x).clk = s.clk := rfl
@[simp] theorem modEvt_stitch (s : State) (x : Evt → Evt) : (s.modEvt x).stitch = s.stitch := rfl
@[simp] theorem modEvt_ctxs (s : State) (x : Evt → Evt) : (s.modEvt x).ctxs = s.ctxs := rfl
@[simp] theorem modEvt_hsync (s : State) (x : Evt → Evt) : (s.modEvt x).hsync = s.hsync := rfl
@[simp] theorem modEvt_bays (s : State) (x : Evt → Evt) : (s.modEvt x).bays = s.bays := rfl
@[simp] theorem modEvt_panels (s : State) (x : Evt → Evt) : (s.modEvt x).panels = s.panels := rfl
@[simp] theorem modEvt_cus (s : State) (x : Evt → Evt) : (s.modEvt x).cus = s.cus := rfl
@[simp] theorem modEvt_mus (s : State) (x : Evt → Evt) : (s.modEvt x).mus = s.mus := rfl
@[simp] theorem modEvt_rtrs (s : State) (x : Evt → Evt) : (s.modEvt x).rtrs = s.rtrs := rfl
@[simp] theorem modEvt_host (s : State) (x : Evt → Evt) : (s.modEvt x).host = s.host := rfl
@[simp] theorem modEvt_evt (s : State) (x : Evt → Evt) : (s.modEvt x).evt = x s.evt := rfl
@[simp] theorem modEvt_claims (s : State) (x : Evt → Evt) : (s.modEvt x).claims = s.claims := rfl
@[simp] theorem modEvt_hbm (s : State) (x : Evt → Evt) : (s.modEvt x).hbm = s.hbm := rfl
@[simp] theorem modEvt_sites (s : State) (x : Evt → Evt) : (s.modEvt x).sites = s.sites := rfl
@[simp] theorem modEvt_twin (s : State) (x : Evt → Evt) : (s.modEvt x).twin = s.twin := rfl
@[simp] theorem modEvt_sup (s : State) (x : Evt → Evt) : (s.modEvt x).sup = s.sup := rfl
@[simp] theorem modEvt_rel (s : State) (x : Evt → Evt) : (s.modEvt x).rel = s.rel := rfl
@[simp] theorem modEvt_store (s : State) (x : Evt → Evt) : (s.modEvt x).store = s.store := rfl
@[simp] theorem modEvt_fuses (s : State) (x : Evt → Evt) : (s.modEvt x).fuses = s.fuses := rfl
@[simp] theorem modEvt_spdm (s : State) (x : Evt → Evt) : (s.modEvt x).spdm = s.spdm := rfl
@[simp] theorem modEvt_bay (s : State) (x : Evt → Evt) (q : Nat) : (s.modEvt x).bay q = s.bay q := rfl
@[simp] theorem modEvt_panel (s : State) (x : Evt → Evt) (q : Nat) : (s.modEvt x).panel q = s.panel q := rfl
@[simp] theorem modEvt_cu (s : State) (x : Evt → Evt) (q : Nat) : (s.modEvt x).cu q = s.cu q := rfl
@[simp] theorem modEvt_mu (s : State) (x : Evt → Evt) (q : Nat) : (s.modEvt x).mu q = s.mu q := rfl
@[simp] theorem modEvt_rtr (s : State) (x : Evt → Evt) (q : Nat) : (s.modEvt x).rtr q = s.rtr q := rfl
@[simp] theorem modEvt_site (s : State) (x : Evt → Evt) (q : Nat) : (s.modEvt x).site q = s.site q := rfl
@[simp] theorem modEvt_ctx (s : State) (x : Evt → Evt) (q : Nat) : (s.modEvt x).ctx? q = s.ctx? q := rfl
@[simp] theorem modEvt_claim (s : State) (x : Evt → Evt) (q : Nat) : (s.modEvt x).claim q = s.claim q := rfl
@[simp] theorem modEvt_reg (s : State) (x : Evt → Evt) (q : RegId) : (s.modEvt x).reg q = s.reg q := rfl

@[simp] theorem modHbm_pending (s : State) (x : Hbm → Hbm) : (s.modHbm x).pending = s.pending := rfl
@[simp] theorem modHbm_free (s : State) (x : Hbm → Hbm) : (s.modHbm x).free = s.free := rfl
@[simp] theorem modHbm_mem (s : State) (x : Hbm → Hbm) : (s.modHbm x).mem = s.mem := rfl
@[simp] theorem modHbm_errs (s : State) (x : Hbm → Hbm) : (s.modHbm x).errs = s.errs := rfl
@[simp] theorem modHbm_hostMem (s : State) (x : Hbm → Hbm) : (s.modHbm x).hostMem = s.hostMem := rfl
@[simp] theorem modHbm_regs (s : State) (x : Hbm → Hbm) : (s.modHbm x).regs = s.regs := rfl
@[simp] theorem modHbm_hw (s : State) (x : Hbm → Hbm) : (s.modHbm x).hw = s.hw := rfl
@[simp] theorem modHbm_clk (s : State) (x : Hbm → Hbm) : (s.modHbm x).clk = s.clk := rfl
@[simp] theorem modHbm_stitch (s : State) (x : Hbm → Hbm) : (s.modHbm x).stitch = s.stitch := rfl
@[simp] theorem modHbm_ctxs (s : State) (x : Hbm → Hbm) : (s.modHbm x).ctxs = s.ctxs := rfl
@[simp] theorem modHbm_hsync (s : State) (x : Hbm → Hbm) : (s.modHbm x).hsync = s.hsync := rfl
@[simp] theorem modHbm_bays (s : State) (x : Hbm → Hbm) : (s.modHbm x).bays = s.bays := rfl
@[simp] theorem modHbm_panels (s : State) (x : Hbm → Hbm) : (s.modHbm x).panels = s.panels := rfl
@[simp] theorem modHbm_cus (s : State) (x : Hbm → Hbm) : (s.modHbm x).cus = s.cus := rfl
@[simp] theorem modHbm_mus (s : State) (x : Hbm → Hbm) : (s.modHbm x).mus = s.mus := rfl
@[simp] theorem modHbm_rtrs (s : State) (x : Hbm → Hbm) : (s.modHbm x).rtrs = s.rtrs := rfl
@[simp] theorem modHbm_host (s : State) (x : Hbm → Hbm) : (s.modHbm x).host = s.host := rfl
@[simp] theorem modHbm_evt (s : State) (x : Hbm → Hbm) : (s.modHbm x).evt = s.evt := rfl
@[simp] theorem modHbm_claims (s : State) (x : Hbm → Hbm) : (s.modHbm x).claims = s.claims := rfl
@[simp] theorem modHbm_hbm (s : State) (x : Hbm → Hbm) : (s.modHbm x).hbm = x s.hbm := rfl
@[simp] theorem modHbm_sites (s : State) (x : Hbm → Hbm) : (s.modHbm x).sites = s.sites := rfl
@[simp] theorem modHbm_twin (s : State) (x : Hbm → Hbm) : (s.modHbm x).twin = s.twin := rfl
@[simp] theorem modHbm_sup (s : State) (x : Hbm → Hbm) : (s.modHbm x).sup = s.sup := rfl
@[simp] theorem modHbm_rel (s : State) (x : Hbm → Hbm) : (s.modHbm x).rel = s.rel := rfl
@[simp] theorem modHbm_store (s : State) (x : Hbm → Hbm) : (s.modHbm x).store = s.store := rfl
@[simp] theorem modHbm_fuses (s : State) (x : Hbm → Hbm) : (s.modHbm x).fuses = s.fuses := rfl
@[simp] theorem modHbm_spdm (s : State) (x : Hbm → Hbm) : (s.modHbm x).spdm = s.spdm := rfl
@[simp] theorem modHbm_bay (s : State) (x : Hbm → Hbm) (q : Nat) : (s.modHbm x).bay q = s.bay q := rfl
@[simp] theorem modHbm_panel (s : State) (x : Hbm → Hbm) (q : Nat) : (s.modHbm x).panel q = s.panel q := rfl
@[simp] theorem modHbm_cu (s : State) (x : Hbm → Hbm) (q : Nat) : (s.modHbm x).cu q = s.cu q := rfl
@[simp] theorem modHbm_mu (s : State) (x : Hbm → Hbm) (q : Nat) : (s.modHbm x).mu q = s.mu q := rfl
@[simp] theorem modHbm_rtr (s : State) (x : Hbm → Hbm) (q : Nat) : (s.modHbm x).rtr q = s.rtr q := rfl
@[simp] theorem modHbm_site (s : State) (x : Hbm → Hbm) (q : Nat) : (s.modHbm x).site q = s.site q := rfl
@[simp] theorem modHbm_ctx (s : State) (x : Hbm → Hbm) (q : Nat) : (s.modHbm x).ctx? q = s.ctx? q := rfl
@[simp] theorem modHbm_claim (s : State) (x : Hbm → Hbm) (q : Nat) : (s.modHbm x).claim q = s.claim q := rfl
@[simp] theorem modHbm_reg (s : State) (x : Hbm → Hbm) (q : RegId) : (s.modHbm x).reg q = s.reg q := rfl

@[simp] theorem modRel_pending (s : State) (x : Rel → Rel) : (s.modRel x).pending = s.pending := rfl
@[simp] theorem modRel_free (s : State) (x : Rel → Rel) : (s.modRel x).free = s.free := rfl
@[simp] theorem modRel_mem (s : State) (x : Rel → Rel) : (s.modRel x).mem = s.mem := rfl
@[simp] theorem modRel_errs (s : State) (x : Rel → Rel) : (s.modRel x).errs = s.errs := rfl
@[simp] theorem modRel_hostMem (s : State) (x : Rel → Rel) : (s.modRel x).hostMem = s.hostMem := rfl
@[simp] theorem modRel_regs (s : State) (x : Rel → Rel) : (s.modRel x).regs = s.regs := rfl
@[simp] theorem modRel_hw (s : State) (x : Rel → Rel) : (s.modRel x).hw = s.hw := rfl
@[simp] theorem modRel_clk (s : State) (x : Rel → Rel) : (s.modRel x).clk = s.clk := rfl
@[simp] theorem modRel_stitch (s : State) (x : Rel → Rel) : (s.modRel x).stitch = s.stitch := rfl
@[simp] theorem modRel_ctxs (s : State) (x : Rel → Rel) : (s.modRel x).ctxs = s.ctxs := rfl
@[simp] theorem modRel_hsync (s : State) (x : Rel → Rel) : (s.modRel x).hsync = s.hsync := rfl
@[simp] theorem modRel_bays (s : State) (x : Rel → Rel) : (s.modRel x).bays = s.bays := rfl
@[simp] theorem modRel_panels (s : State) (x : Rel → Rel) : (s.modRel x).panels = s.panels := rfl
@[simp] theorem modRel_cus (s : State) (x : Rel → Rel) : (s.modRel x).cus = s.cus := rfl
@[simp] theorem modRel_mus (s : State) (x : Rel → Rel) : (s.modRel x).mus = s.mus := rfl
@[simp] theorem modRel_rtrs (s : State) (x : Rel → Rel) : (s.modRel x).rtrs = s.rtrs := rfl
@[simp] theorem modRel_host (s : State) (x : Rel → Rel) : (s.modRel x).host = s.host := rfl
@[simp] theorem modRel_evt (s : State) (x : Rel → Rel) : (s.modRel x).evt = s.evt := rfl
@[simp] theorem modRel_claims (s : State) (x : Rel → Rel) : (s.modRel x).claims = s.claims := rfl
@[simp] theorem modRel_hbm (s : State) (x : Rel → Rel) : (s.modRel x).hbm = s.hbm := rfl
@[simp] theorem modRel_sites (s : State) (x : Rel → Rel) : (s.modRel x).sites = s.sites := rfl
@[simp] theorem modRel_twin (s : State) (x : Rel → Rel) : (s.modRel x).twin = s.twin := rfl
@[simp] theorem modRel_sup (s : State) (x : Rel → Rel) : (s.modRel x).sup = s.sup := rfl
@[simp] theorem modRel_rel (s : State) (x : Rel → Rel) : (s.modRel x).rel = x s.rel := rfl
@[simp] theorem modRel_store (s : State) (x : Rel → Rel) : (s.modRel x).store = s.store := rfl
@[simp] theorem modRel_fuses (s : State) (x : Rel → Rel) : (s.modRel x).fuses = s.fuses := rfl
@[simp] theorem modRel_spdm (s : State) (x : Rel → Rel) : (s.modRel x).spdm = s.spdm := rfl
@[simp] theorem modRel_bay (s : State) (x : Rel → Rel) (q : Nat) : (s.modRel x).bay q = s.bay q := rfl
@[simp] theorem modRel_panel (s : State) (x : Rel → Rel) (q : Nat) : (s.modRel x).panel q = s.panel q := rfl
@[simp] theorem modRel_cu (s : State) (x : Rel → Rel) (q : Nat) : (s.modRel x).cu q = s.cu q := rfl
@[simp] theorem modRel_mu (s : State) (x : Rel → Rel) (q : Nat) : (s.modRel x).mu q = s.mu q := rfl
@[simp] theorem modRel_rtr (s : State) (x : Rel → Rel) (q : Nat) : (s.modRel x).rtr q = s.rtr q := rfl
@[simp] theorem modRel_site (s : State) (x : Rel → Rel) (q : Nat) : (s.modRel x).site q = s.site q := rfl
@[simp] theorem modRel_ctx (s : State) (x : Rel → Rel) (q : Nat) : (s.modRel x).ctx? q = s.ctx? q := rfl
@[simp] theorem modRel_claim (s : State) (x : Rel → Rel) (q : Nat) : (s.modRel x).claim q = s.claim q := rfl
@[simp] theorem modRel_reg (s : State) (x : Rel → Rel) (q : RegId) : (s.modRel x).reg q = s.reg q := rfl

@[simp] theorem modTwin_pending (s : State) (x : Twin → Twin) : (s.modTwin x).pending = s.pending := rfl
@[simp] theorem modTwin_free (s : State) (x : Twin → Twin) : (s.modTwin x).free = s.free := rfl
@[simp] theorem modTwin_mem (s : State) (x : Twin → Twin) : (s.modTwin x).mem = s.mem := rfl
@[simp] theorem modTwin_errs (s : State) (x : Twin → Twin) : (s.modTwin x).errs = s.errs := rfl
@[simp] theorem modTwin_hostMem (s : State) (x : Twin → Twin) : (s.modTwin x).hostMem = s.hostMem := rfl
@[simp] theorem modTwin_regs (s : State) (x : Twin → Twin) : (s.modTwin x).regs = s.regs := rfl
@[simp] theorem modTwin_hw (s : State) (x : Twin → Twin) : (s.modTwin x).hw = s.hw := rfl
@[simp] theorem modTwin_clk (s : State) (x : Twin → Twin) : (s.modTwin x).clk = s.clk := rfl
@[simp] theorem modTwin_stitch (s : State) (x : Twin → Twin) : (s.modTwin x).stitch = s.stitch := rfl
@[simp] theorem modTwin_ctxs (s : State) (x : Twin → Twin) : (s.modTwin x).ctxs = s.ctxs := rfl
@[simp] theorem modTwin_hsync (s : State) (x : Twin → Twin) : (s.modTwin x).hsync = s.hsync := rfl
@[simp] theorem modTwin_bays (s : State) (x : Twin → Twin) : (s.modTwin x).bays = s.bays := rfl
@[simp] theorem modTwin_panels (s : State) (x : Twin → Twin) : (s.modTwin x).panels = s.panels := rfl
@[simp] theorem modTwin_cus (s : State) (x : Twin → Twin) : (s.modTwin x).cus = s.cus := rfl
@[simp] theorem modTwin_mus (s : State) (x : Twin → Twin) : (s.modTwin x).mus = s.mus := rfl
@[simp] theorem modTwin_rtrs (s : State) (x : Twin → Twin) : (s.modTwin x).rtrs = s.rtrs := rfl
@[simp] theorem modTwin_host (s : State) (x : Twin → Twin) : (s.modTwin x).host = s.host := rfl
@[simp] theorem modTwin_evt (s : State) (x : Twin → Twin) : (s.modTwin x).evt = s.evt := rfl
@[simp] theorem modTwin_claims (s : State) (x : Twin → Twin) : (s.modTwin x).claims = s.claims := rfl
@[simp] theorem modTwin_hbm (s : State) (x : Twin → Twin) : (s.modTwin x).hbm = s.hbm := rfl
@[simp] theorem modTwin_sites (s : State) (x : Twin → Twin) : (s.modTwin x).sites = s.sites := rfl
@[simp] theorem modTwin_twin (s : State) (x : Twin → Twin) : (s.modTwin x).twin = x s.twin := rfl
@[simp] theorem modTwin_sup (s : State) (x : Twin → Twin) : (s.modTwin x).sup = s.sup := rfl
@[simp] theorem modTwin_rel (s : State) (x : Twin → Twin) : (s.modTwin x).rel = s.rel := rfl
@[simp] theorem modTwin_store (s : State) (x : Twin → Twin) : (s.modTwin x).store = s.store := rfl
@[simp] theorem modTwin_fuses (s : State) (x : Twin → Twin) : (s.modTwin x).fuses = s.fuses := rfl
@[simp] theorem modTwin_spdm (s : State) (x : Twin → Twin) : (s.modTwin x).spdm = s.spdm := rfl
@[simp] theorem modTwin_bay (s : State) (x : Twin → Twin) (q : Nat) : (s.modTwin x).bay q = s.bay q := rfl
@[simp] theorem modTwin_panel (s : State) (x : Twin → Twin) (q : Nat) : (s.modTwin x).panel q = s.panel q := rfl
@[simp] theorem modTwin_cu (s : State) (x : Twin → Twin) (q : Nat) : (s.modTwin x).cu q = s.cu q := rfl
@[simp] theorem modTwin_mu (s : State) (x : Twin → Twin) (q : Nat) : (s.modTwin x).mu q = s.mu q := rfl
@[simp] theorem modTwin_rtr (s : State) (x : Twin → Twin) (q : Nat) : (s.modTwin x).rtr q = s.rtr q := rfl
@[simp] theorem modTwin_site (s : State) (x : Twin → Twin) (q : Nat) : (s.modTwin x).site q = s.site q := rfl
@[simp] theorem modTwin_ctx (s : State) (x : Twin → Twin) (q : Nat) : (s.modTwin x).ctx? q = s.ctx? q := rfl
@[simp] theorem modTwin_claim (s : State) (x : Twin → Twin) (q : Nat) : (s.modTwin x).claim q = s.claim q := rfl
@[simp] theorem modTwin_reg (s : State) (x : Twin → Twin) (q : RegId) : (s.modTwin x).reg q = s.reg q := rfl

@[simp] theorem modStore_pending (s : State) (x : Store → Store) : (s.modStore x).pending = s.pending := rfl
@[simp] theorem modStore_free (s : State) (x : Store → Store) : (s.modStore x).free = s.free := rfl
@[simp] theorem modStore_mem (s : State) (x : Store → Store) : (s.modStore x).mem = s.mem := rfl
@[simp] theorem modStore_errs (s : State) (x : Store → Store) : (s.modStore x).errs = s.errs := rfl
@[simp] theorem modStore_hostMem (s : State) (x : Store → Store) : (s.modStore x).hostMem = s.hostMem := rfl
@[simp] theorem modStore_regs (s : State) (x : Store → Store) : (s.modStore x).regs = s.regs := rfl
@[simp] theorem modStore_hw (s : State) (x : Store → Store) : (s.modStore x).hw = s.hw := rfl
@[simp] theorem modStore_clk (s : State) (x : Store → Store) : (s.modStore x).clk = s.clk := rfl
@[simp] theorem modStore_stitch (s : State) (x : Store → Store) : (s.modStore x).stitch = s.stitch := rfl
@[simp] theorem modStore_ctxs (s : State) (x : Store → Store) : (s.modStore x).ctxs = s.ctxs := rfl
@[simp] theorem modStore_hsync (s : State) (x : Store → Store) : (s.modStore x).hsync = s.hsync := rfl
@[simp] theorem modStore_bays (s : State) (x : Store → Store) : (s.modStore x).bays = s.bays := rfl
@[simp] theorem modStore_panels (s : State) (x : Store → Store) : (s.modStore x).panels = s.panels := rfl
@[simp] theorem modStore_cus (s : State) (x : Store → Store) : (s.modStore x).cus = s.cus := rfl
@[simp] theorem modStore_mus (s : State) (x : Store → Store) : (s.modStore x).mus = s.mus := rfl
@[simp] theorem modStore_rtrs (s : State) (x : Store → Store) : (s.modStore x).rtrs = s.rtrs := rfl
@[simp] theorem modStore_host (s : State) (x : Store → Store) : (s.modStore x).host = s.host := rfl
@[simp] theorem modStore_evt (s : State) (x : Store → Store) : (s.modStore x).evt = s.evt := rfl
@[simp] theorem modStore_claims (s : State) (x : Store → Store) : (s.modStore x).claims = s.claims := rfl
@[simp] theorem modStore_hbm (s : State) (x : Store → Store) : (s.modStore x).hbm = s.hbm := rfl
@[simp] theorem modStore_sites (s : State) (x : Store → Store) : (s.modStore x).sites = s.sites := rfl
@[simp] theorem modStore_twin (s : State) (x : Store → Store) : (s.modStore x).twin = s.twin := rfl
@[simp] theorem modStore_sup (s : State) (x : Store → Store) : (s.modStore x).sup = s.sup := rfl
@[simp] theorem modStore_rel (s : State) (x : Store → Store) : (s.modStore x).rel = s.rel := rfl
@[simp] theorem modStore_store (s : State) (x : Store → Store) : (s.modStore x).store = x s.store := rfl
@[simp] theorem modStore_fuses (s : State) (x : Store → Store) : (s.modStore x).fuses = s.fuses := rfl
@[simp] theorem modStore_spdm (s : State) (x : Store → Store) : (s.modStore x).spdm = s.spdm := rfl
@[simp] theorem modStore_bay (s : State) (x : Store → Store) (q : Nat) : (s.modStore x).bay q = s.bay q := rfl
@[simp] theorem modStore_panel (s : State) (x : Store → Store) (q : Nat) : (s.modStore x).panel q = s.panel q := rfl
@[simp] theorem modStore_cu (s : State) (x : Store → Store) (q : Nat) : (s.modStore x).cu q = s.cu q := rfl
@[simp] theorem modStore_mu (s : State) (x : Store → Store) (q : Nat) : (s.modStore x).mu q = s.mu q := rfl
@[simp] theorem modStore_rtr (s : State) (x : Store → Store) (q : Nat) : (s.modStore x).rtr q = s.rtr q := rfl
@[simp] theorem modStore_site (s : State) (x : Store → Store) (q : Nat) : (s.modStore x).site q = s.site q := rfl
@[simp] theorem modStore_ctx (s : State) (x : Store → Store) (q : Nat) : (s.modStore x).ctx? q = s.ctx? q := rfl
@[simp] theorem modStore_claim (s : State) (x : Store → Store) (q : Nat) : (s.modStore x).claim q = s.claim q := rfl
@[simp] theorem modStore_reg (s : State) (x : Store → Store) (q : RegId) : (s.modStore x).reg q = s.reg q := rfl

@[simp] theorem modSup_pending (s : State) (x : Supply → Supply) : (s.modSup x).pending = s.pending := rfl
@[simp] theorem modSup_free (s : State) (x : Supply → Supply) : (s.modSup x).free = s.free := rfl
@[simp] theorem modSup_mem (s : State) (x : Supply → Supply) : (s.modSup x).mem = s.mem := rfl
@[simp] theorem modSup_errs (s : State) (x : Supply → Supply) : (s.modSup x).errs = s.errs := rfl
@[simp] theorem modSup_hostMem (s : State) (x : Supply → Supply) : (s.modSup x).hostMem = s.hostMem := rfl
@[simp] theorem modSup_regs (s : State) (x : Supply → Supply) : (s.modSup x).regs = s.regs := rfl
@[simp] theorem modSup_hw (s : State) (x : Supply → Supply) : (s.modSup x).hw = s.hw := rfl
@[simp] theorem modSup_clk (s : State) (x : Supply → Supply) : (s.modSup x).clk = s.clk := rfl
@[simp] theorem modSup_stitch (s : State) (x : Supply → Supply) : (s.modSup x).stitch = s.stitch := rfl
@[simp] theorem modSup_ctxs (s : State) (x : Supply → Supply) : (s.modSup x).ctxs = s.ctxs := rfl
@[simp] theorem modSup_hsync (s : State) (x : Supply → Supply) : (s.modSup x).hsync = s.hsync := rfl
@[simp] theorem modSup_bays (s : State) (x : Supply → Supply) : (s.modSup x).bays = s.bays := rfl
@[simp] theorem modSup_panels (s : State) (x : Supply → Supply) : (s.modSup x).panels = s.panels := rfl
@[simp] theorem modSup_cus (s : State) (x : Supply → Supply) : (s.modSup x).cus = s.cus := rfl
@[simp] theorem modSup_mus (s : State) (x : Supply → Supply) : (s.modSup x).mus = s.mus := rfl
@[simp] theorem modSup_rtrs (s : State) (x : Supply → Supply) : (s.modSup x).rtrs = s.rtrs := rfl
@[simp] theorem modSup_host (s : State) (x : Supply → Supply) : (s.modSup x).host = s.host := rfl
@[simp] theorem modSup_evt (s : State) (x : Supply → Supply) : (s.modSup x).evt = s.evt := rfl
@[simp] theorem modSup_claims (s : State) (x : Supply → Supply) : (s.modSup x).claims = s.claims := rfl
@[simp] theorem modSup_hbm (s : State) (x : Supply → Supply) : (s.modSup x).hbm = s.hbm := rfl
@[simp] theorem modSup_sites (s : State) (x : Supply → Supply) : (s.modSup x).sites = s.sites := rfl
@[simp] theorem modSup_twin (s : State) (x : Supply → Supply) : (s.modSup x).twin = s.twin := rfl
@[simp] theorem modSup_sup (s : State) (x : Supply → Supply) : (s.modSup x).sup = x s.sup := rfl
@[simp] theorem modSup_rel (s : State) (x : Supply → Supply) : (s.modSup x).rel = s.rel := rfl
@[simp] theorem modSup_store (s : State) (x : Supply → Supply) : (s.modSup x).store = s.store := rfl
@[simp] theorem modSup_fuses (s : State) (x : Supply → Supply) : (s.modSup x).fuses = s.fuses := rfl
@[simp] theorem modSup_spdm (s : State) (x : Supply → Supply) : (s.modSup x).spdm = s.spdm := rfl
@[simp] theorem modSup_bay (s : State) (x : Supply → Supply) (q : Nat) : (s.modSup x).bay q = s.bay q := rfl
@[simp] theorem modSup_panel (s : State) (x : Supply → Supply) (q : Nat) : (s.modSup x).panel q = s.panel q := rfl
@[simp] theorem modSup_cu (s : State) (x : Supply → Supply) (q : Nat) : (s.modSup x).cu q = s.cu q := rfl
@[simp] theorem modSup_mu (s : State) (x : Supply → Supply) (q : Nat) : (s.modSup x).mu q = s.mu q := rfl
@[simp] theorem modSup_rtr (s : State) (x : Supply → Supply) (q : Nat) : (s.modSup x).rtr q = s.rtr q := rfl
@[simp] theorem modSup_site (s : State) (x : Supply → Supply) (q : Nat) : (s.modSup x).site q = s.site q := rfl
@[simp] theorem modSup_ctx (s : State) (x : Supply → Supply) (q : Nat) : (s.modSup x).ctx? q = s.ctx? q := rfl
@[simp] theorem modSup_claim (s : State) (x : Supply → Supply) (q : Nat) : (s.modSup x).claim q = s.claim q := rfl
@[simp] theorem modSup_reg (s : State) (x : Supply → Supply) (q : RegId) : (s.modSup x).reg q = s.reg q := rfl

@[simp] theorem modSpdm_pending (s : State) (x : Spdm → Spdm) : (s.modSpdm x).pending = s.pending := rfl
@[simp] theorem modSpdm_free (s : State) (x : Spdm → Spdm) : (s.modSpdm x).free = s.free := rfl
@[simp] theorem modSpdm_mem (s : State) (x : Spdm → Spdm) : (s.modSpdm x).mem = s.mem := rfl
@[simp] theorem modSpdm_errs (s : State) (x : Spdm → Spdm) : (s.modSpdm x).errs = s.errs := rfl
@[simp] theorem modSpdm_hostMem (s : State) (x : Spdm → Spdm) : (s.modSpdm x).hostMem = s.hostMem := rfl
@[simp] theorem modSpdm_regs (s : State) (x : Spdm → Spdm) : (s.modSpdm x).regs = s.regs := rfl
@[simp] theorem modSpdm_hw (s : State) (x : Spdm → Spdm) : (s.modSpdm x).hw = s.hw := rfl
@[simp] theorem modSpdm_clk (s : State) (x : Spdm → Spdm) : (s.modSpdm x).clk = s.clk := rfl
@[simp] theorem modSpdm_stitch (s : State) (x : Spdm → Spdm) : (s.modSpdm x).stitch = s.stitch := rfl
@[simp] theorem modSpdm_ctxs (s : State) (x : Spdm → Spdm) : (s.modSpdm x).ctxs = s.ctxs := rfl
@[simp] theorem modSpdm_hsync (s : State) (x : Spdm → Spdm) : (s.modSpdm x).hsync = s.hsync := rfl
@[simp] theorem modSpdm_bays (s : State) (x : Spdm → Spdm) : (s.modSpdm x).bays = s.bays := rfl
@[simp] theorem modSpdm_panels (s : State) (x : Spdm → Spdm) : (s.modSpdm x).panels = s.panels := rfl
@[simp] theorem modSpdm_cus (s : State) (x : Spdm → Spdm) : (s.modSpdm x).cus = s.cus := rfl
@[simp] theorem modSpdm_mus (s : State) (x : Spdm → Spdm) : (s.modSpdm x).mus = s.mus := rfl
@[simp] theorem modSpdm_rtrs (s : State) (x : Spdm → Spdm) : (s.modSpdm x).rtrs = s.rtrs := rfl
@[simp] theorem modSpdm_host (s : State) (x : Spdm → Spdm) : (s.modSpdm x).host = s.host := rfl
@[simp] theorem modSpdm_evt (s : State) (x : Spdm → Spdm) : (s.modSpdm x).evt = s.evt := rfl
@[simp] theorem modSpdm_claims (s : State) (x : Spdm → Spdm) : (s.modSpdm x).claims = s.claims := rfl
@[simp] theorem modSpdm_hbm (s : State) (x : Spdm → Spdm) : (s.modSpdm x).hbm = s.hbm := rfl
@[simp] theorem modSpdm_sites (s : State) (x : Spdm → Spdm) : (s.modSpdm x).sites = s.sites := rfl
@[simp] theorem modSpdm_twin (s : State) (x : Spdm → Spdm) : (s.modSpdm x).twin = s.twin := rfl
@[simp] theorem modSpdm_sup (s : State) (x : Spdm → Spdm) : (s.modSpdm x).sup = s.sup := rfl
@[simp] theorem modSpdm_rel (s : State) (x : Spdm → Spdm) : (s.modSpdm x).rel = s.rel := rfl
@[simp] theorem modSpdm_store (s : State) (x : Spdm → Spdm) : (s.modSpdm x).store = s.store := rfl
@[simp] theorem modSpdm_fuses (s : State) (x : Spdm → Spdm) : (s.modSpdm x).fuses = s.fuses := rfl
@[simp] theorem modSpdm_spdm (s : State) (x : Spdm → Spdm) : (s.modSpdm x).spdm = x s.spdm := rfl
@[simp] theorem modSpdm_bay (s : State) (x : Spdm → Spdm) (q : Nat) : (s.modSpdm x).bay q = s.bay q := rfl
@[simp] theorem modSpdm_panel (s : State) (x : Spdm → Spdm) (q : Nat) : (s.modSpdm x).panel q = s.panel q := rfl
@[simp] theorem modSpdm_cu (s : State) (x : Spdm → Spdm) (q : Nat) : (s.modSpdm x).cu q = s.cu q := rfl
@[simp] theorem modSpdm_mu (s : State) (x : Spdm → Spdm) (q : Nat) : (s.modSpdm x).mu q = s.mu q := rfl
@[simp] theorem modSpdm_rtr (s : State) (x : Spdm → Spdm) (q : Nat) : (s.modSpdm x).rtr q = s.rtr q := rfl
@[simp] theorem modSpdm_site (s : State) (x : Spdm → Spdm) (q : Nat) : (s.modSpdm x).site q = s.site q := rfl
@[simp] theorem modSpdm_ctx (s : State) (x : Spdm → Spdm) (q : Nat) : (s.modSpdm x).ctx? q = s.ctx? q := rfl
@[simp] theorem modSpdm_claim (s : State) (x : Spdm → Spdm) (q : Nat) : (s.modSpdm x).claim q = s.claim q := rfl
@[simp] theorem modSpdm_reg (s : State) (x : Spdm → Spdm) (q : RegId) : (s.modSpdm x).reg q = s.reg q := rfl

@[simp] theorem modFuses_pending (s : State) (x : Fuses → Fuses) : (s.modFuses x).pending = s.pending := rfl
@[simp] theorem modFuses_free (s : State) (x : Fuses → Fuses) : (s.modFuses x).free = s.free := rfl
@[simp] theorem modFuses_mem (s : State) (x : Fuses → Fuses) : (s.modFuses x).mem = s.mem := rfl
@[simp] theorem modFuses_errs (s : State) (x : Fuses → Fuses) : (s.modFuses x).errs = s.errs := rfl
@[simp] theorem modFuses_hostMem (s : State) (x : Fuses → Fuses) : (s.modFuses x).hostMem = s.hostMem := rfl
@[simp] theorem modFuses_regs (s : State) (x : Fuses → Fuses) : (s.modFuses x).regs = s.regs := rfl
@[simp] theorem modFuses_hw (s : State) (x : Fuses → Fuses) : (s.modFuses x).hw = s.hw := rfl
@[simp] theorem modFuses_clk (s : State) (x : Fuses → Fuses) : (s.modFuses x).clk = s.clk := rfl
@[simp] theorem modFuses_stitch (s : State) (x : Fuses → Fuses) : (s.modFuses x).stitch = s.stitch := rfl
@[simp] theorem modFuses_ctxs (s : State) (x : Fuses → Fuses) : (s.modFuses x).ctxs = s.ctxs := rfl
@[simp] theorem modFuses_hsync (s : State) (x : Fuses → Fuses) : (s.modFuses x).hsync = s.hsync := rfl
@[simp] theorem modFuses_bays (s : State) (x : Fuses → Fuses) : (s.modFuses x).bays = s.bays := rfl
@[simp] theorem modFuses_panels (s : State) (x : Fuses → Fuses) : (s.modFuses x).panels = s.panels := rfl
@[simp] theorem modFuses_cus (s : State) (x : Fuses → Fuses) : (s.modFuses x).cus = s.cus := rfl
@[simp] theorem modFuses_mus (s : State) (x : Fuses → Fuses) : (s.modFuses x).mus = s.mus := rfl
@[simp] theorem modFuses_rtrs (s : State) (x : Fuses → Fuses) : (s.modFuses x).rtrs = s.rtrs := rfl
@[simp] theorem modFuses_host (s : State) (x : Fuses → Fuses) : (s.modFuses x).host = s.host := rfl
@[simp] theorem modFuses_evt (s : State) (x : Fuses → Fuses) : (s.modFuses x).evt = s.evt := rfl
@[simp] theorem modFuses_claims (s : State) (x : Fuses → Fuses) : (s.modFuses x).claims = s.claims := rfl
@[simp] theorem modFuses_hbm (s : State) (x : Fuses → Fuses) : (s.modFuses x).hbm = s.hbm := rfl
@[simp] theorem modFuses_sites (s : State) (x : Fuses → Fuses) : (s.modFuses x).sites = s.sites := rfl
@[simp] theorem modFuses_twin (s : State) (x : Fuses → Fuses) : (s.modFuses x).twin = s.twin := rfl
@[simp] theorem modFuses_sup (s : State) (x : Fuses → Fuses) : (s.modFuses x).sup = s.sup := rfl
@[simp] theorem modFuses_rel (s : State) (x : Fuses → Fuses) : (s.modFuses x).rel = s.rel := rfl
@[simp] theorem modFuses_store (s : State) (x : Fuses → Fuses) : (s.modFuses x).store = s.store := rfl
@[simp] theorem modFuses_fuses (s : State) (x : Fuses → Fuses) : (s.modFuses x).fuses = x s.fuses := rfl
@[simp] theorem modFuses_spdm (s : State) (x : Fuses → Fuses) : (s.modFuses x).spdm = s.spdm := rfl
@[simp] theorem modFuses_bay (s : State) (x : Fuses → Fuses) (q : Nat) : (s.modFuses x).bay q = s.bay q := rfl
@[simp] theorem modFuses_panel (s : State) (x : Fuses → Fuses) (q : Nat) : (s.modFuses x).panel q = s.panel q := rfl
@[simp] theorem modFuses_cu (s : State) (x : Fuses → Fuses) (q : Nat) : (s.modFuses x).cu q = s.cu q := rfl
@[simp] theorem modFuses_mu (s : State) (x : Fuses → Fuses) (q : Nat) : (s.modFuses x).mu q = s.mu q := rfl
@[simp] theorem modFuses_rtr (s : State) (x : Fuses → Fuses) (q : Nat) : (s.modFuses x).rtr q = s.rtr q := rfl
@[simp] theorem modFuses_site (s : State) (x : Fuses → Fuses) (q : Nat) : (s.modFuses x).site q = s.site q := rfl
@[simp] theorem modFuses_ctx (s : State) (x : Fuses → Fuses) (q : Nat) : (s.modFuses x).ctx? q = s.ctx? q := rfl
@[simp] theorem modFuses_claim (s : State) (x : Fuses → Fuses) (q : Nat) : (s.modFuses x).claim q = s.claim q := rfl
@[simp] theorem modFuses_reg (s : State) (x : Fuses → Fuses) (q : RegId) : (s.modFuses x).reg q = s.reg q := rfl

@[simp] theorem report_pending (s : State) (r : Report) : (s.report r).pending = s.pending := rfl
@[simp] theorem report_free (s : State) (r : Report) : (s.report r).free = s.free := rfl
@[simp] theorem report_mem (s : State) (r : Report) : (s.report r).mem = s.mem := rfl
@[simp] theorem report_errs (s : State) (r : Report) : (s.report r).errs = s.errs := rfl
@[simp] theorem report_hostMem (s : State) (r : Report) : (s.report r).hostMem = s.hostMem := rfl
@[simp] theorem report_regs (s : State) (r : Report) : (s.report r).regs = s.regs := rfl
@[simp] theorem report_hw (s : State) (r : Report) : (s.report r).hw = s.hw := rfl
@[simp] theorem report_clk (s : State) (r : Report) : (s.report r).clk = s.clk := rfl
@[simp] theorem report_stitch (s : State) (r : Report) : (s.report r).stitch = s.stitch := rfl
@[simp] theorem report_ctxs (s : State) (r : Report) : (s.report r).ctxs = s.ctxs := rfl
@[simp] theorem report_hsync (s : State) (r : Report) : (s.report r).hsync = s.hsync := rfl
@[simp] theorem report_bays (s : State) (r : Report) : (s.report r).bays = s.bays := rfl
@[simp] theorem report_panels (s : State) (r : Report) : (s.report r).panels = s.panels := rfl
@[simp] theorem report_cus (s : State) (r : Report) : (s.report r).cus = s.cus := rfl
@[simp] theorem report_mus (s : State) (r : Report) : (s.report r).mus = s.mus := rfl
@[simp] theorem report_rtrs (s : State) (r : Report) : (s.report r).rtrs = s.rtrs := rfl
@[simp] theorem report_host (s : State) (r : Report) : (s.report r).host = s.host := rfl
@[simp] theorem report_claims (s : State) (r : Report) : (s.report r).claims = s.claims := rfl
@[simp] theorem report_hbm (s : State) (r : Report) : (s.report r).hbm = s.hbm := rfl
@[simp] theorem report_sites (s : State) (r : Report) : (s.report r).sites = s.sites := rfl
@[simp] theorem report_twin (s : State) (r : Report) : (s.report r).twin = s.twin := rfl
@[simp] theorem report_sup (s : State) (r : Report) : (s.report r).sup = s.sup := rfl
@[simp] theorem report_rel (s : State) (r : Report) : (s.report r).rel = s.rel := rfl
@[simp] theorem report_store (s : State) (r : Report) : (s.report r).store = s.store := rfl
@[simp] theorem report_fuses (s : State) (r : Report) : (s.report r).fuses = s.fuses := rfl
@[simp] theorem report_spdm (s : State) (r : Report) : (s.report r).spdm = s.spdm := rfl
@[simp] theorem report_bay (s : State) (r : Report) (q : Nat) : (s.report r).bay q = s.bay q := rfl
@[simp] theorem report_panel (s : State) (r : Report) (q : Nat) : (s.report r).panel q = s.panel q := rfl
@[simp] theorem report_cu (s : State) (r : Report) (q : Nat) : (s.report r).cu q = s.cu q := rfl
@[simp] theorem report_mu (s : State) (r : Report) (q : Nat) : (s.report r).mu q = s.mu q := rfl
@[simp] theorem report_rtr (s : State) (r : Report) (q : Nat) : (s.report r).rtr q = s.rtr q := rfl
@[simp] theorem report_site (s : State) (r : Report) (q : Nat) : (s.report r).site q = s.site q := rfl
@[simp] theorem report_ctx (s : State) (r : Report) (q : Nat) : (s.report r).ctx? q = s.ctx? q := rfl
@[simp] theorem report_claim (s : State) (r : Report) (q : Nat) : (s.report r).claim q = s.claim q := rfl
@[simp] theorem report_reg (s : State) (r : Report) (q : RegId) : (s.report r).reg q = s.reg q := rfl

@[simp] theorem putHost_pending (s : State) (x : Nat) (bs : List Byte) : (s.putHost x bs).pending = s.pending := rfl
@[simp] theorem putHost_free (s : State) (x : Nat) (bs : List Byte) : (s.putHost x bs).free = s.free := rfl
@[simp] theorem putHost_mem (s : State) (x : Nat) (bs : List Byte) : (s.putHost x bs).mem = s.mem := rfl
@[simp] theorem putHost_errs (s : State) (x : Nat) (bs : List Byte) : (s.putHost x bs).errs = s.errs := rfl
@[simp] theorem putHost_regs (s : State) (x : Nat) (bs : List Byte) : (s.putHost x bs).regs = s.regs := rfl
@[simp] theorem putHost_hw (s : State) (x : Nat) (bs : List Byte) : (s.putHost x bs).hw = s.hw := rfl
@[simp] theorem putHost_clk (s : State) (x : Nat) (bs : List Byte) : (s.putHost x bs).clk = s.clk := rfl
@[simp] theorem putHost_stitch (s : State) (x : Nat) (bs : List Byte) : (s.putHost x bs).stitch = s.stitch := rfl
@[simp] theorem putHost_ctxs (s : State) (x : Nat) (bs : List Byte) : (s.putHost x bs).ctxs = s.ctxs := rfl
@[simp] theorem putHost_hsync (s : State) (x : Nat) (bs : List Byte) : (s.putHost x bs).hsync = s.hsync := rfl
@[simp] theorem putHost_bays (s : State) (x : Nat) (bs : List Byte) : (s.putHost x bs).bays = s.bays := rfl
@[simp] theorem putHost_panels (s : State) (x : Nat) (bs : List Byte) : (s.putHost x bs).panels = s.panels := rfl
@[simp] theorem putHost_cus (s : State) (x : Nat) (bs : List Byte) : (s.putHost x bs).cus = s.cus := rfl
@[simp] theorem putHost_mus (s : State) (x : Nat) (bs : List Byte) : (s.putHost x bs).mus = s.mus := rfl
@[simp] theorem putHost_rtrs (s : State) (x : Nat) (bs : List Byte) : (s.putHost x bs).rtrs = s.rtrs := rfl
@[simp] theorem putHost_host (s : State) (x : Nat) (bs : List Byte) : (s.putHost x bs).host = s.host := rfl
@[simp] theorem putHost_evt (s : State) (x : Nat) (bs : List Byte) : (s.putHost x bs).evt = s.evt := rfl
@[simp] theorem putHost_claims (s : State) (x : Nat) (bs : List Byte) : (s.putHost x bs).claims = s.claims := rfl
@[simp] theorem putHost_hbm (s : State) (x : Nat) (bs : List Byte) : (s.putHost x bs).hbm = s.hbm := rfl
@[simp] theorem putHost_sites (s : State) (x : Nat) (bs : List Byte) : (s.putHost x bs).sites = s.sites := rfl
@[simp] theorem putHost_twin (s : State) (x : Nat) (bs : List Byte) : (s.putHost x bs).twin = s.twin := rfl
@[simp] theorem putHost_sup (s : State) (x : Nat) (bs : List Byte) : (s.putHost x bs).sup = s.sup := rfl
@[simp] theorem putHost_rel (s : State) (x : Nat) (bs : List Byte) : (s.putHost x bs).rel = s.rel := rfl
@[simp] theorem putHost_store (s : State) (x : Nat) (bs : List Byte) : (s.putHost x bs).store = s.store := rfl
@[simp] theorem putHost_fuses (s : State) (x : Nat) (bs : List Byte) : (s.putHost x bs).fuses = s.fuses := rfl
@[simp] theorem putHost_spdm (s : State) (x : Nat) (bs : List Byte) : (s.putHost x bs).spdm = s.spdm := rfl
@[simp] theorem putHost_bay (s : State) (x : Nat) (bs : List Byte) (q : Nat) : (s.putHost x bs).bay q = s.bay q := rfl
@[simp] theorem putHost_panel (s : State) (x : Nat) (bs : List Byte) (q : Nat) : (s.putHost x bs).panel q = s.panel q := rfl
@[simp] theorem putHost_cu (s : State) (x : Nat) (bs : List Byte) (q : Nat) : (s.putHost x bs).cu q = s.cu q := rfl
@[simp] theorem putHost_mu (s : State) (x : Nat) (bs : List Byte) (q : Nat) : (s.putHost x bs).mu q = s.mu q := rfl
@[simp] theorem putHost_rtr (s : State) (x : Nat) (bs : List Byte) (q : Nat) : (s.putHost x bs).rtr q = s.rtr q := rfl
@[simp] theorem putHost_site (s : State) (x : Nat) (bs : List Byte) (q : Nat) : (s.putHost x bs).site q = s.site q := rfl
@[simp] theorem putHost_ctx (s : State) (x : Nat) (bs : List Byte) (q : Nat) : (s.putHost x bs).ctx? q = s.ctx? q := rfl
@[simp] theorem putHost_claim (s : State) (x : Nat) (bs : List Byte) (q : Nat) : (s.putHost x bs).claim q = s.claim q := rfl
@[simp] theorem putHost_reg (s : State) (x : Nat) (bs : List Byte) (q : RegId) : (s.putHost x bs).reg q = s.reg q := rfl

@[simp] theorem raiseBay_pending (s : State) (b k w0 w1 w2 w3 : Nat) : (s.raiseBay b k w0 w1 w2 w3).pending = s.pending := rfl
@[simp] theorem raiseBay_free (s : State) (b k w0 w1 w2 w3 : Nat) : (s.raiseBay b k w0 w1 w2 w3).free = s.free := rfl
@[simp] theorem raiseBay_mem (s : State) (b k w0 w1 w2 w3 : Nat) : (s.raiseBay b k w0 w1 w2 w3).mem = s.mem := rfl
@[simp] theorem raiseBay_errs (s : State) (b k w0 w1 w2 w3 : Nat) : (s.raiseBay b k w0 w1 w2 w3).errs = s.errs := rfl
@[simp] theorem raiseBay_hostMem (s : State) (b k w0 w1 w2 w3 : Nat) : (s.raiseBay b k w0 w1 w2 w3).hostMem = s.hostMem := rfl
@[simp] theorem raiseBay_regs (s : State) (b k w0 w1 w2 w3 : Nat) : (s.raiseBay b k w0 w1 w2 w3).regs = s.regs := rfl
@[simp] theorem raiseBay_hw (s : State) (b k w0 w1 w2 w3 : Nat) : (s.raiseBay b k w0 w1 w2 w3).hw = s.hw := rfl
@[simp] theorem raiseBay_clk (s : State) (b k w0 w1 w2 w3 : Nat) : (s.raiseBay b k w0 w1 w2 w3).clk = s.clk := rfl
@[simp] theorem raiseBay_stitch (s : State) (b k w0 w1 w2 w3 : Nat) : (s.raiseBay b k w0 w1 w2 w3).stitch = s.stitch := rfl
@[simp] theorem raiseBay_ctxs (s : State) (b k w0 w1 w2 w3 : Nat) : (s.raiseBay b k w0 w1 w2 w3).ctxs = s.ctxs := rfl
@[simp] theorem raiseBay_hsync (s : State) (b k w0 w1 w2 w3 : Nat) : (s.raiseBay b k w0 w1 w2 w3).hsync = s.hsync := rfl
@[simp] theorem raiseBay_bays (s : State) (b k w0 w1 w2 w3 : Nat) : (s.raiseBay b k w0 w1 w2 w3).bays = s.bays := rfl
@[simp] theorem raiseBay_panels (s : State) (b k w0 w1 w2 w3 : Nat) : (s.raiseBay b k w0 w1 w2 w3).panels = s.panels := rfl
@[simp] theorem raiseBay_cus (s : State) (b k w0 w1 w2 w3 : Nat) : (s.raiseBay b k w0 w1 w2 w3).cus = s.cus := rfl
@[simp] theorem raiseBay_mus (s : State) (b k w0 w1 w2 w3 : Nat) : (s.raiseBay b k w0 w1 w2 w3).mus = s.mus := rfl
@[simp] theorem raiseBay_rtrs (s : State) (b k w0 w1 w2 w3 : Nat) : (s.raiseBay b k w0 w1 w2 w3).rtrs = s.rtrs := rfl
@[simp] theorem raiseBay_host (s : State) (b k w0 w1 w2 w3 : Nat) : (s.raiseBay b k w0 w1 w2 w3).host = s.host := rfl
@[simp] theorem raiseBay_claims (s : State) (b k w0 w1 w2 w3 : Nat) : (s.raiseBay b k w0 w1 w2 w3).claims = s.claims := rfl
@[simp] theorem raiseBay_hbm (s : State) (b k w0 w1 w2 w3 : Nat) : (s.raiseBay b k w0 w1 w2 w3).hbm = s.hbm := rfl
@[simp] theorem raiseBay_sites (s : State) (b k w0 w1 w2 w3 : Nat) : (s.raiseBay b k w0 w1 w2 w3).sites = s.sites := rfl
@[simp] theorem raiseBay_twin (s : State) (b k w0 w1 w2 w3 : Nat) : (s.raiseBay b k w0 w1 w2 w3).twin = s.twin := rfl
@[simp] theorem raiseBay_sup (s : State) (b k w0 w1 w2 w3 : Nat) : (s.raiseBay b k w0 w1 w2 w3).sup = s.sup := rfl
@[simp] theorem raiseBay_rel (s : State) (b k w0 w1 w2 w3 : Nat) : (s.raiseBay b k w0 w1 w2 w3).rel = s.rel := rfl
@[simp] theorem raiseBay_store (s : State) (b k w0 w1 w2 w3 : Nat) : (s.raiseBay b k w0 w1 w2 w3).store = s.store := rfl
@[simp] theorem raiseBay_fuses (s : State) (b k w0 w1 w2 w3 : Nat) : (s.raiseBay b k w0 w1 w2 w3).fuses = s.fuses := rfl
@[simp] theorem raiseBay_spdm (s : State) (b k w0 w1 w2 w3 : Nat) : (s.raiseBay b k w0 w1 w2 w3).spdm = s.spdm := rfl
@[simp] theorem raiseBay_bay (s : State) (b k w0 w1 w2 w3 : Nat) (q : Nat) : (s.raiseBay b k w0 w1 w2 w3).bay q = s.bay q := rfl
@[simp] theorem raiseBay_panel (s : State) (b k w0 w1 w2 w3 : Nat) (q : Nat) : (s.raiseBay b k w0 w1 w2 w3).panel q = s.panel q := rfl
@[simp] theorem raiseBay_cu (s : State) (b k w0 w1 w2 w3 : Nat) (q : Nat) : (s.raiseBay b k w0 w1 w2 w3).cu q = s.cu q := rfl
@[simp] theorem raiseBay_mu (s : State) (b k w0 w1 w2 w3 : Nat) (q : Nat) : (s.raiseBay b k w0 w1 w2 w3).mu q = s.mu q := rfl
@[simp] theorem raiseBay_rtr (s : State) (b k w0 w1 w2 w3 : Nat) (q : Nat) : (s.raiseBay b k w0 w1 w2 w3).rtr q = s.rtr q := rfl
@[simp] theorem raiseBay_site (s : State) (b k w0 w1 w2 w3 : Nat) (q : Nat) : (s.raiseBay b k w0 w1 w2 w3).site q = s.site q := rfl
@[simp] theorem raiseBay_ctx (s : State) (b k w0 w1 w2 w3 : Nat) (q : Nat) : (s.raiseBay b k w0 w1 w2 w3).ctx? q = s.ctx? q := rfl
@[simp] theorem raiseBay_claim (s : State) (b k w0 w1 w2 w3 : Nat) (q : Nat) : (s.raiseBay b k w0 w1 w2 w3).claim q = s.claim q := rfl
@[simp] theorem raiseBay_reg (s : State) (b k w0 w1 w2 w3 : Nat) (q : RegId) : (s.raiseBay b k w0 w1 w2 w3).reg q = s.reg q := rfl
@[simp] theorem raise_pending (s : State) (src k w0 w1 w2 w3 : Nat) : (s.raise src k w0 w1 w2 w3).pending = s.pending := rfl
@[simp] theorem raise_free (s : State) (src k w0 w1 w2 w3 : Nat) : (s.raise src k w0 w1 w2 w3).free = s.free := rfl
@[simp] theorem raise_mem (s : State) (src k w0 w1 w2 w3 : Nat) : (s.raise src k w0 w1 w2 w3).mem = s.mem := rfl
@[simp] theorem raise_errs (s : State) (src k w0 w1 w2 w3 : Nat) : (s.raise src k w0 w1 w2 w3).errs = s.errs := rfl
@[simp] theorem raise_hostMem (s : State) (src k w0 w1 w2 w3 : Nat) : (s.raise src k w0 w1 w2 w3).hostMem = s.hostMem := rfl
@[simp] theorem raise_regs (s : State) (src k w0 w1 w2 w3 : Nat) : (s.raise src k w0 w1 w2 w3).regs = s.regs := rfl
@[simp] theorem raise_hw (s : State) (src k w0 w1 w2 w3 : Nat) : (s.raise src k w0 w1 w2 w3).hw = s.hw := rfl
@[simp] theorem raise_clk (s : State) (src k w0 w1 w2 w3 : Nat) : (s.raise src k w0 w1 w2 w3).clk = s.clk := rfl
@[simp] theorem raise_stitch (s : State) (src k w0 w1 w2 w3 : Nat) : (s.raise src k w0 w1 w2 w3).stitch = s.stitch := rfl
@[simp] theorem raise_ctxs (s : State) (src k w0 w1 w2 w3 : Nat) : (s.raise src k w0 w1 w2 w3).ctxs = s.ctxs := rfl
@[simp] theorem raise_hsync (s : State) (src k w0 w1 w2 w3 : Nat) : (s.raise src k w0 w1 w2 w3).hsync = s.hsync := rfl
@[simp] theorem raise_bays (s : State) (src k w0 w1 w2 w3 : Nat) : (s.raise src k w0 w1 w2 w3).bays = s.bays := rfl
@[simp] theorem raise_panels (s : State) (src k w0 w1 w2 w3 : Nat) : (s.raise src k w0 w1 w2 w3).panels = s.panels := rfl
@[simp] theorem raise_cus (s : State) (src k w0 w1 w2 w3 : Nat) : (s.raise src k w0 w1 w2 w3).cus = s.cus := rfl
@[simp] theorem raise_mus (s : State) (src k w0 w1 w2 w3 : Nat) : (s.raise src k w0 w1 w2 w3).mus = s.mus := rfl
@[simp] theorem raise_rtrs (s : State) (src k w0 w1 w2 w3 : Nat) : (s.raise src k w0 w1 w2 w3).rtrs = s.rtrs := rfl
@[simp] theorem raise_host (s : State) (src k w0 w1 w2 w3 : Nat) : (s.raise src k w0 w1 w2 w3).host = s.host := rfl
@[simp] theorem raise_claims (s : State) (src k w0 w1 w2 w3 : Nat) : (s.raise src k w0 w1 w2 w3).claims = s.claims := rfl
@[simp] theorem raise_hbm (s : State) (src k w0 w1 w2 w3 : Nat) : (s.raise src k w0 w1 w2 w3).hbm = s.hbm := rfl
@[simp] theorem raise_sites (s : State) (src k w0 w1 w2 w3 : Nat) : (s.raise src k w0 w1 w2 w3).sites = s.sites := rfl
@[simp] theorem raise_twin (s : State) (src k w0 w1 w2 w3 : Nat) : (s.raise src k w0 w1 w2 w3).twin = s.twin := rfl
@[simp] theorem raise_sup (s : State) (src k w0 w1 w2 w3 : Nat) : (s.raise src k w0 w1 w2 w3).sup = s.sup := rfl
@[simp] theorem raise_rel (s : State) (src k w0 w1 w2 w3 : Nat) : (s.raise src k w0 w1 w2 w3).rel = s.rel := rfl
@[simp] theorem raise_store (s : State) (src k w0 w1 w2 w3 : Nat) : (s.raise src k w0 w1 w2 w3).store = s.store := rfl
@[simp] theorem raise_fuses (s : State) (src k w0 w1 w2 w3 : Nat) : (s.raise src k w0 w1 w2 w3).fuses = s.fuses := rfl
@[simp] theorem raise_spdm (s : State) (src k w0 w1 w2 w3 : Nat) : (s.raise src k w0 w1 w2 w3).spdm = s.spdm := rfl
@[simp] theorem raise_bay (s : State) (src k w0 w1 w2 w3 : Nat) (q : Nat) : (s.raise src k w0 w1 w2 w3).bay q = s.bay q := rfl
@[simp] theorem raise_panel (s : State) (src k w0 w1 w2 w3 : Nat) (q : Nat) : (s.raise src k w0 w1 w2 w3).panel q = s.panel q := rfl
@[simp] theorem raise_cu (s : State) (src k w0 w1 w2 w3 : Nat) (q : Nat) : (s.raise src k w0 w1 w2 w3).cu q = s.cu q := rfl
@[simp] theorem raise_mu (s : State) (src k w0 w1 w2 w3 : Nat) (q : Nat) : (s.raise src k w0 w1 w2 w3).mu q = s.mu q := rfl
@[simp] theorem raise_rtr (s : State) (src k w0 w1 w2 w3 : Nat) (q : Nat) : (s.raise src k w0 w1 w2 w3).rtr q = s.rtr q := rfl
@[simp] theorem raise_site (s : State) (src k w0 w1 w2 w3 : Nat) (q : Nat) : (s.raise src k w0 w1 w2 w3).site q = s.site q := rfl
@[simp] theorem raise_ctx (s : State) (src k w0 w1 w2 w3 : Nat) (q : Nat) : (s.raise src k w0 w1 w2 w3).ctx? q = s.ctx? q := rfl
@[simp] theorem raise_claim (s : State) (src k w0 w1 w2 w3 : Nat) (q : Nat) : (s.raise src k w0 w1 w2 w3).claim q = s.claim q := rfl
@[simp] theorem raise_reg (s : State) (src k w0 w1 w2 w3 : Nat) (q : RegId) : (s.raise src k w0 w1 w2 w3).reg q = s.reg q := rfl

theorem report_inflight (s : State) (r : Report) : (s.report r).evt.inflight = s.evt.inflight ++ [r] := rfl

/-- What `masterTime` may change: the time master's clock. -/
@[simp] theorem masterTime_pending (s : State) (t : Nat) : (s.masterTime t).pending = s.pending := by
  unfold State.masterTime; split <;> rfl
@[simp] theorem masterTime_free (s : State) (t : Nat) : (s.masterTime t).free = s.free := by
  unfold State.masterTime; split <;> rfl
@[simp] theorem masterTime_mem (s : State) (t : Nat) : (s.masterTime t).mem = s.mem := by
  unfold State.masterTime; split <;> rfl
@[simp] theorem masterTime_errs (s : State) (t : Nat) : (s.masterTime t).errs = s.errs := by
  unfold State.masterTime; split <;> rfl
@[simp] theorem masterTime_hostMem (s : State) (t : Nat) : (s.masterTime t).hostMem = s.hostMem := by
  unfold State.masterTime; split <;> rfl
@[simp] theorem masterTime_regs (s : State) (t : Nat) : (s.masterTime t).regs = s.regs := by
  unfold State.masterTime; split <;> rfl
@[simp] theorem masterTime_stitch (s : State) (t : Nat) : (s.masterTime t).stitch = s.stitch := by
  unfold State.masterTime; split <;> rfl
@[simp] theorem masterTime_ctxs (s : State) (t : Nat) : (s.masterTime t).ctxs = s.ctxs := by
  unfold State.masterTime; split <;> rfl
@[simp] theorem masterTime_hsync (s : State) (t : Nat) : (s.masterTime t).hsync = s.hsync := by
  unfold State.masterTime; split <;> rfl
@[simp] theorem masterTime_bays (s : State) (t : Nat) : (s.masterTime t).bays = s.bays := by
  unfold State.masterTime; split <;> rfl
@[simp] theorem masterTime_panels (s : State) (t : Nat) : (s.masterTime t).panels = s.panels := by
  unfold State.masterTime; split <;> rfl
@[simp] theorem masterTime_cus (s : State) (t : Nat) : (s.masterTime t).cus = s.cus := by
  unfold State.masterTime; split <;> rfl
@[simp] theorem masterTime_mus (s : State) (t : Nat) : (s.masterTime t).mus = s.mus := by
  unfold State.masterTime; split <;> rfl
@[simp] theorem masterTime_rtrs (s : State) (t : Nat) : (s.masterTime t).rtrs = s.rtrs := by
  unfold State.masterTime; split <;> rfl
@[simp] theorem masterTime_host (s : State) (t : Nat) : (s.masterTime t).host = s.host := by
  unfold State.masterTime; split <;> rfl
@[simp] theorem masterTime_evt (s : State) (t : Nat) : (s.masterTime t).evt = s.evt := by
  unfold State.masterTime; split <;> rfl
@[simp] theorem masterTime_claims (s : State) (t : Nat) : (s.masterTime t).claims = s.claims := by
  unfold State.masterTime; split <;> rfl
@[simp] theorem masterTime_hbm (s : State) (t : Nat) : (s.masterTime t).hbm = s.hbm := by
  unfold State.masterTime; split <;> rfl
@[simp] theorem masterTime_sites (s : State) (t : Nat) : (s.masterTime t).sites = s.sites := by
  unfold State.masterTime; split <;> rfl
@[simp] theorem masterTime_twin (s : State) (t : Nat) : (s.masterTime t).twin = s.twin := by
  unfold State.masterTime; split <;> rfl
@[simp] theorem masterTime_sup (s : State) (t : Nat) : (s.masterTime t).sup = s.sup := by
  unfold State.masterTime; split <;> rfl
@[simp] theorem masterTime_rel (s : State) (t : Nat) : (s.masterTime t).rel = s.rel := by
  unfold State.masterTime; split <;> rfl
@[simp] theorem masterTime_store (s : State) (t : Nat) : (s.masterTime t).store = s.store := by
  unfold State.masterTime; split <;> rfl
@[simp] theorem masterTime_fuses (s : State) (t : Nat) : (s.masterTime t).fuses = s.fuses := by
  unfold State.masterTime; split <;> rfl
@[simp] theorem masterTime_spdm (s : State) (t : Nat) : (s.masterTime t).spdm = s.spdm := by
  unfold State.masterTime; split <;> rfl
@[simp] theorem masterTime_bay (s : State) (t : Nat) (q : Nat) : (s.masterTime t).bay q = s.bay q := by
  unfold State.masterTime; split <;> rfl
@[simp] theorem masterTime_panel (s : State) (t : Nat) (q : Nat) : (s.masterTime t).panel q = s.panel q := by
  unfold State.masterTime; split <;> rfl
@[simp] theorem masterTime_cu (s : State) (t : Nat) (q : Nat) : (s.masterTime t).cu q = s.cu q := by
  unfold State.masterTime; split <;> rfl
@[simp] theorem masterTime_mu (s : State) (t : Nat) (q : Nat) : (s.masterTime t).mu q = s.mu q := by
  unfold State.masterTime; split <;> rfl
@[simp] theorem masterTime_rtr (s : State) (t : Nat) (q : Nat) : (s.masterTime t).rtr q = s.rtr q := by
  unfold State.masterTime; split <;> rfl
@[simp] theorem masterTime_site (s : State) (t : Nat) (q : Nat) : (s.masterTime t).site q = s.site q := by
  unfold State.masterTime; split <;> rfl
@[simp] theorem masterTime_ctx (s : State) (t : Nat) (q : Nat) : (s.masterTime t).ctx? q = s.ctx? q := by
  unfold State.masterTime; split <;> rfl
@[simp] theorem masterTime_claim (s : State) (t : Nat) (q : Nat) : (s.masterTime t).claim q = s.claim q := by
  unfold State.masterTime; split <;> rfl
@[simp] theorem masterTime_reg (s : State) (t : Nat) (q : RegId) : (s.masterTime t).reg q = s.reg q := by
  unfold State.masterTime; split <;> rfl

end Sys2Proof.Machine
end

