-- ==== Sys2Proof/Tests/Slice0.lean ====
section
/-! SUPPORT. The model's own tests: a term that each check of well-formedness refuses, and for every statement concrete states and operands that meet
its hypotheses, clause by clause. `tState` is a module with one bay in the work window of a session's stitch; the others change a part of it. -/

namespace Sys2Proof.Tests

open Sys2Proof Sys2Proof.Machine

set_option Elab.async false

/-! ### States -/

def tManifest : Manifest := manifestOf 2 0 0 0 []

/-- An image of bay 0 alone. -/
def tImage : Image :=
  { manifest := tManifest, maxMajor := 1, minMajor := 1, caps := 0, bays := [0], required := [0], period := 10000, numdef := 0, grades := [(0, 5)],
    panelFrac := [], bayFrac := [], reloadNs := 10000, powerW := 9000, minCapacity := 0, pcieWidth := 0, pcieRate := 0, sites := [],
    partition := 0, peerFeed := 0, pages := [], importPages := [], queueCtl := 0, qps := [], hostIds := [], binds := [], lanes := [(0, [1])],
    regWords := [], loads := [], footprint := [], traffic := [], weights := [] }

def tCtx : Ctx := ⟨tImage, 1, false, false, [], 1, false⟩

def tBay : Bay := { Bay.reset with
  power := .active, bist := true, inStitch := true, cap := stitchCap 10000 (gradeMHz 5), modes := { BayModes.reset with grade := 5 } }

def tPanel : Panel := { Panel.reset with fabricOn := true, budgetW := 2048 }

def tState : State := { State.reset with
  clk := { Clk.reset with running := true },
  stitch := { Stitch.reset with session := true, kind := .work, begun := true, number := 1, len := 10000, period := 10000, voterMask := 1 },
  ctxs := [(0, tCtx)], bays := [(0, tBay)], panels := [(0, tPanel)], host := { HostSt.reset with linkUp := true },
  sup := { Supply.reset with ioIn := true, j1In := true, j2In := true, mainEnable := true, inter := true, seq := 4, bootStep := 10, inventory := true } }

/-- Source: FIPS 180-4's example, the digest of "abc"; its byte 0 is lowest. -/
theorem test_sha384 : (digestBytes (sha384 [0x61, 0x62, 0x63])).take 8 = [0xcb, 0x00, 0x75, 0x3f, 0x45, 0xa3, 0x5e, 0x8b] := by decide +kernel

/-- No session, nothing resident. -/
def tIdle : State := { tState with stitch := Stitch.reset, ctxs := [] }

/-- The hem of the stitch, the bay at cycle `n`. -/
def tHem (n : Nat) : State := tState.modBay 0 (fun y => { y with windowOver := true, cycle := n })

/-- The bay's only lane, in state `q`. -/
def tLane (q : Seq) : State := tState.setCu 0 { Cu.reset with seq := q }

def tRun : State := tLane Seq.start

/-! ### Well-formedness refuses -/

theorem test_ill_formed :
    [Instr.bist 0 192 [], .fabricRailShort 0 48 0, .meshInject 0 (512 * 432), .nop 0 (4 * 512 * 432), .hbmPatrol 0 24 0, .siteDown 0 96,
     .mboxEndResidency 0 4, .voteFreeze 0 312, .hbmRead 0 (2 ^ 48), .diagGo 0 (.lane (4 * 512 * 432)) 0, .registerWrite 0 .host (.bay 192 .vote) .whole 0,
     .registerWrite 0 .host (.desc 0 16 0) .whole 0, .scratchpadArbitration 0 0 [⟨10, 0, 0, 16, false, 0⟩], .scratchpadArbitration 0 0 [⟨0, 0, 0, 8, true, 0⟩], .sliceArbitration 0 0 0 [⟨0, 8, 0, 0, 1, false, false, []⟩],
     .seti 0 0 16 0, .sig 0 0 32 1 false, .sig 0 0 0 0 false, .dma 0 0 8 0 0 false, .send 0 0 8 0 0 false, .route 0 0 16, .hostWaitArm 0 32 0,
     .claimDoneWrite 0 2 0, .regulatorPhaseFail 0 0 16 false, .vminSample 0 0 4096, .launchEntryFire 0 0 8, .dmaDescriptorStart 0 0 []].all
      (fun i => !i.wellFormed) = true := by decide +kernel

theorem test_ill_formed_operands :
    [Instr.mm 0 0 ⟨16, 0, 0, 0, false, false, 0, false, false, 0, 0, false⟩, .vectorPass 0 0 ⟨10, 0, 0, 0, 0, 0, 0, false, 0, false, 0, false, false⟩,
     .remoteAccess 0 ⟨1, 0, 0, 0, 0, 1, .cluster 0, 0, 0, []⟩, .remoteAccess 0 ⟨0, 0, 0, 0, 0, 1, (.outside 4096 0), 0, 0, []⟩,
     .meshResponseReceive 0 ⟨0, 0, 0, 0, 0, false, 0, 7, []⟩, .multicastReplicate 0 0 ⟨0, 0, 0, false, 32, 0, 0, 0, 0, 0, []⟩, .messageArrival 0 ⟨0, 8, 0, 0, 0, 0, 1, 0, []⟩,
     .casrikFlitReceive 0 0 ⟨16, 0, 0, false, 0, 0, 0, 0, []⟩ 0 ⟨false, [], 0⟩, .mboxLoadImage 0 0 (.memory { tImage with bays := [192] }), .mboxLoadImage 0 0 (.ufs 4096), .bist 0 0 [(0, 33)], .routerForward 0 0 0 4].all (fun i => !i.wellFormed) = true := by
  decide +kernel

theorem test_well_formed :
    [Instr.bist 0 191 [], .fabricRailShort 0 47 0, .voteFreeze 0 311, .seti 0 0 15 0, .sig 0 0 31 1023 false, .mboxLoadImage 0 3 (.memory tImage), .mboxLoadImage 0 3 (.ufs 4095), .bist 0 0 [(35, 32)], .scratchpadArbitration 0 0 [⟨7, 0, 8, 8, true, 0⟩]].all
      Instr.wellFormed = true := by decide +kernel

/-- The table gives no bits: no word spells a command (log entry 1). -/
theorem test_no_word : decodeTableWord 16 0 = none ∧ State.reset.withFetchWord 16 0 = State.reset := ⟨rfl, rfl⟩

/-! ### Hypotheses that states meet -/

theorem witness_supplies : State.reset.sup.auxIn = true ∧ State.reset.sup.rcvActs = false ∧ State.reset.sup.ioIn = false ∧ (7 : Nat) < 8 ∧ 200 ≤ 200 ∧
    tState.sup.seq ≠ 7 ∧ (10000 : Nat) < 10001 ∧ (2 : BitVec 4).getLsbD 1 = true ∧ tState.sup.mainIn = true := by decide +kernel

def tBoot3 : State := { State.reset with sup := { Supply.reset with ioIn := true, seq := 1, bootStep := 3 } }

theorem witness_boot : (State.reset.sup.auxIn = true ∧ State.reset.sup.bootStep = 0 ∧ State.reset.sup.seq ≠ 7) ∧
    (∃ s : State, s.sup.rcvActs = true ∧ s.sup.ioIn = true ∧ s.sup.bootStep = 0 ∧ s.sup.seq ≠ 7) ∧
    (tBoot3.sup.bootStep = 3 ∧ tBoot3.sup.bootFailed = false ∧ tBoot3.sup.mainEnable = false) ∧
    (∃ s : State, s.sup.mainEnable = true ∧ s.sup.mainIn = false ∧ s.sup.bootStep = 3) :=
  ⟨by decide +kernel, ⟨{ State.reset with sup := { Supply.reset with ioIn := true, rcvActs := true } }, by decide +kernel⟩, by decide +kernel,
    ⟨{ tBoot3 with sup := { tBoot3.sup with mainEnable := true } }, by decide +kernel⟩⟩

/-- A module whose bays may rise: boot has reached step 4, every stack has trained, the fabric rails are up. -/
def tRise : State := { tBoot3 with
  sup := { tBoot3.sup with bootStep := 4, j1In := true, j2In := true, inter := true, mainEnable := true, seq := 4 },
  hbm := { Hbm.reset with trained := List.range 24 }, panels := [(0, tPanel)] }

theorem witness_bay_rises : tRise.mayRise (4 * 0 + 3) = true ∧ 4 ≤ tRise.sup.bootStep ∧ 24 ≤ tRise.hbm.trained.length ∧
    (∀ b, b < 4 * 0 → tRise.mayRise b = false) ∧ (tState.modBay 0 (fun y => { y with bist := false })).bays ≠ [] := by decide +kernel

theorem witness_bist : ∃ s : State, (s.bay 0).power = .active ∧ (s.bay 0).bist = false :=
  ⟨tState.modBay 0 (fun y => { y with bist := false }), by decide +kernel⟩

theorem witness_device_reset : field (0xC4000001 : Reg).toNat 31 24 = 0xC4 ∧ (0xC4000001 : Reg).getLsbD 0 = true ∧ tState.sup.seq ≠ 7 ∧ tState.sup.ioIn = true ∧
    field (0xC5000001 : Reg).toNat 31 24 ≠ 0xC4 ∧ 3 ≤ tState.sup.bootStep := by decide +kernel

def tTrain (w : BitVec 8) : SiteTrain := ⟨false, w, 5, 1, 2, 1, 1, 0⟩

/-- Stack 0's panel has its fabric rail, and site 0 trains. -/
def tLinks : State := { tState with panels := [(stackPanel 0, tPanel)], sites := [(0, { Site.reset with training := true })] }

theorem witness_training : (0 : Nat) ∉ tLinks.hbm.trained ∧ 4 ≤ tLinks.sup.bootStep ∧ (tLinks.panel (stackPanel 0)).fabricOn = true ∧
    (tLinks.site 0).training = true ∧ (tTrain 1).wavelengths ≠ 0 ∧ (tTrain 0).wavelengths = 0 ∧ 1 ≤ (tTrain 1).maxMajor ∧ (tTrain 1).minMajor ≤ 1 := by
  decide +kernel

/-- PCIe: a running channel; a session. -/
theorem witness_pcie : 3 ≤ tState.sup.bootStep ∧ tState.stitch.session = true ∧ tIdle.stitch.session = false ∧
    (0x1005 : Nat) ≠ tState.regN (.host .link) := by decide +kernel

theorem tState_mailbox : MailboxFree tState := by unfold MailboxFree; decide +kernel
theorem tIdle_mailbox : MailboxFree tIdle := by unfold MailboxFree; decide +kernel

def tPrimary : State := { tState with twin := { Twin.reset with state := 2, attached := true } }

theorem witness_resets : (MailboxFree tState ∧ (1 : BitVec 32).toNat % 4 ≤ 1 ∧ tState.twin.state ≠ 2) ∧
    (MailboxFree tPrimary ∧ (0x80000001 : BitVec 32).toNat % 4 ≤ 1 ∧ tPrimary.twin.state = 2 ∧ tPrimary.twin.attached = true ∧ (0x80000001 : BitVec 32).getLsbD 31 = true ∧
      (1 : BitVec 32).getLsbD 31 = false) ∧
    ((0x102 : BitVec 32).toNat % 4 = 2 ∧ 1 = (0x102 : BitVec 32).toNat / 2 ^ 8 % 2 ^ 8 ∧ tState.bayResetBarred 1 = false) ∧
    (0 = (2 : BitVec 32).toNat / 2 ^ 8 % 2 ^ 8 ∧ tState.stitch.session = true ∧ tState.stitch.voterMask.getLsbD 0 = true) ∧
    (∃ s : State, s.sup.computeDue = some 1 ∧ s.resetPoint = true ∧ s.rel.updating = none ∧ s.feedClosed 0 = true ∧ (s.stitch.session = false ∨ s.stitch.phase = .ended)) ∧
    (∃ s : State, 0 ∈ s.sup.bayDue ∧ s.resetPoint = true ∧ (s.panel (0 / 4)).waking = none ∧ (s.stitch.session = false ∨ s.stitch.phase = .ended)) :=
  ⟨⟨tState_mailbox, by decide +kernel⟩, ⟨by unfold MailboxFree; decide +kernel, by decide +kernel⟩, by decide +kernel, by decide +kernel,
    ⟨{ tIdle with sup := { tIdle.sup with computeDue := some 1 } }, by decide +kernel⟩,
    ⟨{ tIdle with sup := { tIdle.sup with bayDue := [0] } }, by decide +kernel⟩⟩

theorem witness_writes : tState.host.linkUp = true ∧ tState.host.held = [] ∧ plainKind (.twin .cfg) = false ∧ plainKind (.evt .status) = true ∧ tState.unreached (.evt .status) = none ∧
    plainKind (.bay 0 .vote) = true ∧ tState.unreached (.bay 0 .vote) = none ∧
    tState.sup.inventory = true ∧ tBoot3.sup.inventory = false ∧ tState.unreached (.bay 1 .vote) = some 263882807706120 := by decide +kernel

/-- Hardware has updated EVT_MERGED in the cycle of the command. -/
def tUpdated : State := { tState with hw := [(.evt .merged, ⟨(5, 0), 3, 1⟩)] }

theorem witness_reads : (plainKind (.evt .merged) = true ∧ (regAcc (.evt .merged)).rc ≠ 0 ∧ tState.unreached (.evt .merged) = none ∧
      (tState.masterTime 5).hwAt (.evt .merged) = none ∧ (tUpdated.masterTime 5).hwAt (.evt .merged) = some ⟨(5, 0), 3, 1⟩ ∧
      tUpdated.unreached (.evt .merged) = none) ∧
    ((tState.masterTime 5).hwAt (.evt .ringBase) = none) ∧
    (isReg64 (.evt .ringBase) = true ∧ tState.unreached (.evt .ringBase) = none ∧ hasRegister .host (.evt .ringBase) = true ∧
      tState.mayWrite .host (.evt .ringBase) = true) ∧
    (∃ s : State, s.unreached (.evt .ringBase) = none ∧ s.host.latches = (.evt .ringBase, 7) :: [] ∧ s.host.lowWrites = (.evt .ringBase, 9) :: [] ∧
      s.mayWrite .host (.evt .ringBase) = true) :=
  ⟨by decide +kernel, by decide +kernel, by decide +kernel,
    ⟨{ tState with host := { HostSt.reset with linkUp := true, latches := [(.evt .ringBase, 7)], lowWrites := [(.evt .ringBase, 9)] } }, by decide +kernel⟩⟩

theorem witness_offsets : Path.host ≠ .bar2 ∧ 0x900000 % 4 = 0 ∧ ctlReg 0x900000 = some (.twin .cfg, 0) ∧ tState.windowDark 0x900000 = false ∧
    (ctlReg 0x210000 = some (.evtSrc 0, 0)) ∧ 0x900002 % 4 ≠ 0 := by decide +kernel

/-- External memory of one pseudo-channel. -/
def tHbm : State := { tState with hbm := { Hbm.reset with trained := List.range 24, mapped := [0] }, panels := [(0, tPanel), (stackPanel 0, tPanel)] }

theorem tHbm_inv : Inv tHbm := by unfold Machine.Inv; decide +kernel

theorem witness_bar4 : Inv tHbm ∧ tHbm.bar4Addr 4 = 4 ∧ tHbm.inCommit = false ∧ tHbm.host.held = [] ∧ tHbm.hbm.scrubbing = false ∧
    4 + 8 ≤ tHbm.capacity ∧ tHbm.hbm.pages = [] ∧ tHbm.hbmFailed 0 = false ∧ tHbm.errs.get [] 0 = [] ∧ (List.replicate 8 (1 : Byte)).length = 8 ∧
    tHbm.host.linkUp = true ∧ 4 + 8 ≤ 2 ^ tHbm.host.bar4Log2 ∧ 24 ≤ tHbm.hbm.trained.length :=
  ⟨tHbm_inv, by decide +kernel⟩

/-- The stitch has ended; peer 2 feeds this engine and its token is missing. -/
def tEnded : State := { tState with
  stitch := { tState.stitch with phase := .ended, len := 10000, kind := .idle }, clk := { tState.clk with ns := 10000, nsTotal := 10000 } }

def tFed : State := (tEnded.setReg (.time .peerFeed) 4).setCtx 0 { tCtx with image := { tImage with sites := [⟨3, false, 2, 0, 0⟩] } }

/-- The last time message went out at `n` ns. -/
def tMessage (n : Nat) : State := { tState with clk := { tState.clk with lastMessage := n } }

theorem witness_time : ((tState.bay 0).power = .active ∧ tState.mhz 0 ≠ 0) ∧
    ((1000 * ((((tMessage 100).bayTime 0 80).bay 0).cycle : Int) - (tMessage 100).mhz 0 * ((tMessage 100).clk.lastMessage + ((tMessage 100).bay 0).latency)).natAbs ≤ 10 * (tMessage 100).mhz 0) ∧
    (40 * (tMessage 200).mhz 0 < (1000 * ((((tMessage 200).bayTime 0 80).bay 0).cycle : Int) - (tMessage 200).mhz 0 * ((tMessage 200).clk.lastMessage + ((tMessage 200).bay 0).latency)).natAbs) ∧
    (tEnded.stitch.session = true ∧ tEnded.clk.boundarySent = false ∧ tEnded.stitch.phase ≠ .before ∧ tEnded.stitch.len ≤ (tEnded.masterTime 10000).clk.ns + 48 ∧
      tEnded.tokensMissing = [] ∧ tEnded.feedPeers = []) ∧
    (tFed.clk.timedOut = false ∧ tFed.tokensMissing ≠ [] ∧ tFed.feedPeers ≠ [] ∧
      tFed.stitch.len + tFed.peerTimeoutNs ≤ (tFed.masterTime 2000000).clk.ns) ∧
    tFed.siteUse 3 = some ⟨3, false, 2, 0, 0⟩ := by decide +kernel

theorem witness_starts : (∃ s : State, s.stitch.session = true ∧ s.clk.boundarySent = true ∧ s.stitch.phase = .ended ∧ s.stitch.begun = true ∧
      (s.bay 0).power = .active) ∧
    (∃ s : State, s.stitch.session = true ∧ s.clk.boundarySent = false ∧ s.stitch.phase = .before ∧ s.stitch.kind = .idle ∧ (s.bay 0).inStitch = false ∧
      (s.bay 0).power = .active ∧ 5 = (s.bay 0).modes.nextGrade.getD (s.bay 0).modes.grade) ∧
    (∃ s : State, s.stitch.session = true ∧ s.clk.boundarySent = false ∧ s.stitch.phase = .before ∧ s.stitch.kind = .work ∧ (s.bay 0).inStitch = false ∧
      (s.bay 0).power = .active ∧ 5 = (s.bay 0).modes.nextGrade.getD (s.bay 0).modes.grade) :=
  ⟨⟨{ tEnded with clk := { tEnded.clk with boundarySent := true } }, by decide +kernel⟩,
    ⟨({ tState with stitch := { tState.stitch with kind := .idle } } : State).modBay 0 (fun y => { y with inStitch := false }), by decide +kernel⟩,
    ⟨tState.modBay 0 (fun y => { y with inStitch := false }), by decide +kernel⟩⟩

theorem witness_window : tState.stitch.kind = .work ∧ (tState.bay 0).power = .active ∧ (tState.bay 0).inStitch = true ∧ (tState.bay 0).windowOver = false ∧
    ((tState.bayTime 0 7411).bay 0).w ≤ ((tState.bayTime 0 7411).bay 0).cycle ∧ 0 ∈ tState.lanesOf 0 ∧ (tState.cu 0).seq.retired = false ∧ tState.voterIn 0 = true ∧
    (tState.bay 0).vote.cause = 0 ∧ (tState.bay 0).vote.frozen = false := by decide +kernel

theorem witness_hem : (((tHem 7411).hemTime 0 7507).hemAt 0 96 (((tHem 7411).hemTime 0 7507).bay 0).flagsEnd = true ∧ ((tHem 7411).hemTime 0 7507).voterIn 0 = true) ∧
    ((tHem 7411).hemTime 0 7539).hemAt 0 128 (((tHem 7411).hemTime 0 7539).bay 0).rollEnd = true ∧
    ((tHem 7411).bay 0).hem.called = false ∧ ((tHem 7411).bay 0).hem.tile = none ∧
    (∃ s : State, (s.hemTime 0 7507).voterIn 0 = false) ∧
    (∃ s : State, (s.hemTime 0 7507).hemAt 0 96 ((s.hemTime 0 7507).bay 0).flagsEnd = true ∧ (s.hemTime 0 7507).voterIn 0 = true ∧ (s.bay 0).hem.tile = some [0]) ∧
    (∃ s : State, (s.hemTime 0 7539).hemAt 0 128 ((s.hemTime 0 7539).bay 0).rollEnd = true ∧ (s.bay 0).hem.called = true ∧ (s.bay 0).hem.compared = false ∧ s.stitch.kind = .work ∧
      0 ∈ s.lanesOf 0 ∧ (s.cu 0).seq.overrun = false ∧ 0 ∉ (s.bay 0).hem.silentCus ∧ (s.cu 0).seq.sig.toNat ≠ s.regN (.cu 0 .sigExpect) ∧
      ((s.hemTime 0 7539).bay 0).vote.cause = 0 ∧ ((s.hemTime 0 7539).bay 0).vote.frozen = false) ∧
    (∃ s : State, (s.hemTime 0 7539).hemAt 0 128 ((s.hemTime 0 7539).bay 0).rollEnd = true ∧ (s.bay 0).hem.called = true ∧ (s.bay 0).hem.compared = false ∧ s.stitch.kind = .work ∧
      (∀ u ∈ s.lanesOf 0, (s.cu u).seq.sig.toNat = s.regN (.cu u .sigExpect)) ∧ (s.bay 0).hem.silentCus = [] ∧ (s.bay 0).hem.silentMus = []) ∧
    (∃ s : State, (s.bay 0).power = .active ∧ (s.bay 0).inStitch = true ∧ s.scrubHeld 0 = false ∧ (s.bay 0).hem.trim = some 3 ∧
      (s.bay 0).c ≤ ((s.bayTime 0 7900).bay 0).cycle + (s.bay 0).k + 64) :=
  ⟨by decide +kernel, by decide +kernel, by decide +kernel, by decide +kernel,
    ⟨{ tHem 7411 with stitch := { tState.stitch with voterMask := 0 } }, by decide +kernel⟩,
    ⟨(tHem 7411).modBay 0 (fun y => { y with hem := { y.hem with tile := some [0] } }), by decide +kernel⟩,
    ⟨(tHem 7539).modBay 0 (fun y => { y with hem := { y.hem with called := true } }), by decide +kernel⟩,
    ⟨{ (tHem 7539).modBay 0 (fun y => { y with hem := { y.hem with called := true } }) with ctxs := [] }, by decide +kernel⟩,
    ⟨(tHem 7603).modBay 0 (fun y => { y with hem := { y.hem with trim := some 3 } }), by decide +kernel⟩⟩

/-- A bay with no stitch takes a trim with no session running; one that suspends calibration takes none. -/
theorem witness_trim : (∃ s : State, (s.bay 0).power = .active ∧ s.scrubHeld 0 = false ∧ (s.bay 0).inStitch = false ∧ s.stitch.session = false ∧ (s.bay 0).hem.trim = some 3) ∧
    (∃ s : State, s.scrubHeld 0 = true) :=
  ⟨⟨tIdle.modBay 0 (fun y => { y with inStitch := false, hem := { y.hem with trim := some 3 } }), by decide +kernel⟩,
    ⟨{ tIdle with rel := { Rel.reset with queue := [0] } }, by decide +kernel⟩⟩

theorem witness_scrub : ∃ s : State, Inv s ∧ (s.hemTime 0 7603).hemAt 0 192 ((s.hemTime 0 7603).bay 0).scrubEnd = true ∧ (s.bay 0).hem.scrubbed = false ∧ s.scrubHeld 0 = false ∧
    s.errs.get [] (spAddr 0 0 / 16) = [(1, 2)] ∧ (s.hemTime 0 7603).scrubReach 0 (s.bay 0).cap.2.1 (s.stitch.kind != .reload) (spAddr 0 0) = true :=
  ⟨{ tHem 7603 with errs := [(spAddr 0 0 / 16, [(1, 2)])] }, by unfold Machine.Inv; decide +kernel, by decide +kernel⟩

theorem witness_frames : (tIdle.stitch.session = false ∧ (tIdle.bay 0).power = .active ∧ tIdle.bayAvailable 0 = true ∧ tIdle.errs = []) ∧
    (∃ s : State, s.stitch.session = false ∧ (s.bay 0).power = .active ∧ s.bayAvailable 0 = true ∧ 3 ∈ [3] ∧ bayOfCu 3 = 0 ∧ ⟨0, locCu 3, 3, 0, 1⟩ ∈ s.rel.frame) :=
  ⟨by decide +kernel, ⟨{ tIdle with rel := { Rel.reset with frame := [⟨0, locCu 3, 3, 0, 1⟩] } }, by decide +kernel⟩⟩

/-- A sample waits in the hem; the ring of 2^7 records begins at address 0. -/
def tSampled : State := { (((tHem 7539).modBay 0 (fun y => { y with hem := { y.hem with samples := [⟨1, List.replicate 16 0, 0⟩] } })).setReg (.bay 0 .fabTelSize) 7) with
  hbm := tHbm.hbm }

theorem witness_telemetry :
    (∃ s : State, s.stitch.kind = .work ∧ (s.bay 0).inStitch = true ∧ s.voterIn 0 = true ∧ (s.bay 0).hem.sampleCfg.testBit 31 = true ∧ (s.bay 0).windowOver = false ∧
      ((s.bayTime 0 256).bay 0).cycle < (s.bay 0).w ∧ ((s.bayTime 0 256).bay 0).cycle % sampleInterval (s.bay 0).hem.sampleCfg = 0 ∧ (s.bay 0).hem.samples = []) ∧
    ((tSampled.bay 0).hem.telAt = none ∧ ((tSampled.bayTime 0 7539).bay 0).cycle + (tSampled.bay 0).k + 64 ≤ (tSampled.bay 0).c ∧
      (tSampled.bay 0).c < ((tSampled.bayTime 0 7860).bay 0).cycle + (tSampled.bay 0).k + 64 ∧ (tSampled.bayTime 0 7860).hemAt 0 128 ((tSampled.bayTime 0 7860).bay 0).cycle = true) ∧
    (∃ s : State, (s.bayTime 0 7542).hemAt 0 128 ((s.bayTime 0 7542).bay 0).cycle = true ∧ (s.bay 0).hem.samples.length = 1 ∧ (s.bay 0).hem.telAt = some 7539 ∧
      ((s.bayTime 0 7542).bay 0).cycle < 7539 + 4 ∧ 7539 + 4 ≤ ((s.bayTime 0 7543).bay 0).cycle) ∧
    (Inv tSampled ∧ (tSampled.bayTime 0 7539).hemAt 0 128 ((tSampled.bayTime 0 7539).bay 0).cycle = true ∧ (tSampled.bay 0).hem.samples.length = 1 ∧ (tSampled.bayTime 0 7539).telemetryOk 0 = true ∧
      0 + 32 ≤ tSampled.capacity ∧ tSampled.hbm.pages = [] ∧ tSampled.hbmFailed 0 = false ∧ tSampled.hbmFailed 16 = false) ∧
    (tSampled.setReg (.bay 0 .fabTelSize) 0 |>.bayTime 0 7539).telemetryOk 0 = false :=
  ⟨⟨tState.modBay 0 (fun y => { y with hem := { y.hem with sampleCfg := 2 ^ 31 + 8 } }), by decide +kernel⟩, by decide +kernel,
    ⟨tSampled.modBay 0 (fun y => { y with hem := { y.hem with telAt := some 7539 } }), by decide +kernel⟩,
    ⟨by unfold Machine.Inv; decide +kernel, by decide +kernel⟩, by decide +kernel⟩

theorem witness_votes : (0 < 192 ∧ tState.stitch.session = true ∧ tState.stitch.phase = .before ∧ Assoc.find? tState.stitch.votes 0 = none ∧
      (tState.bay 0).c ≤ ((tState.hemTime 0 7900).bay 0).cycle + (tState.bay 0).k + freezeLead (tState.mhz 0) ∧
      (tState.bay 0).power = .active ∧ (tState.bay 0).inStitch = true) ∧
    (Assoc.find? tState.stitch.votes 192 = none ∧ tState.stitch.len ≤ (tState.masterTime 9836).clk.ns + 164 ∧ (tState.site (311 - 216)).up = false) ∧
    (∃ s : State, (s.site 0).up = true ∧ (s.site 0).exports = [] ∧ (s.site 0).void = 0 ∧ Assoc.find? s.stitch.votes 216 = none ∧ s.stitch.session = true ∧
      s.stitch.phase = .before ∧ s.stitch.len ≤ (s.masterTime 9836).clk.ns + 164) ∧
    (tState.ctx? tState.active = some tCtx ∧ tState.stitch.kind = .work ∧ (tState.masterTime 9800).masterHem = true) :=
  ⟨by decide +kernel, by decide +kernel, ⟨{ tState with sites := [(0, { Site.reset with up := true })] }, by decide +kernel⟩, rfl, by decide +kernel⟩

/-- Every voter of the stitch has frozen its vote with code `k`. -/
def tVoted (k : Nat) : State := { tState with stitch := { tState.stitch with votes := [(0, (k, if k = 2 then 3 else 0))] } }

theorem witness_sampling : ((tVoted 1).stitch.phase = .before ∧ (tVoted 1).stitch.len ≤ ((tVoted 1).masterTime 9904).clk.ns + 96 ∧ (tVoted 1).stitch.kind = .work ∧
      (∀ v, v < 312 → (tVoted 1).voterIn v = true → Assoc.get (0, 0) (tVoted 1).stitch.votes v = (1, 0)) ∧ (tVoted 1).voterIn 0 = true ∧
      (tVoted 1).stitch.hostVoid = false ∧ (tVoted 1).stitch.supplyVoid = false) ∧
    ((tVoted 2).voterIn 0 = true ∧ (Assoc.get (0, 0) (tVoted 2).stitch.votes 0).1 ≠ 1) := by decide +kernel

theorem witness_commits : (∃ s : State, s.host.held = [] ∧ s.stitch.phase = .sampled ∧ s.stitch.decision = some (.commit [1]) ∧ (s.mu 0).wr = [3]) ∧
    (∃ s : State, s.stitch.phase = .sampled ∧ s.stitch.decision = some .void ∧ s.host.held = [] ∧ s.twin.state ≠ 3 ∧ (s.mu 0).wr = [3]) :=
  ⟨⟨({ tState with stitch := { tState.stitch with phase := .sampled, decision := some (.commit [1]) } } : State).setMu 0 { Mu.reset with wr := [3] }, by decide +kernel⟩,
    ⟨({ tState with stitch := { tState.stitch with phase := .sampled, decision := some .void } } : State).setMu 0 { Mu.reset with wr := [3] }, by decide +kernel⟩⟩

theorem witness_phase_end : ∃ s : State, s.host.held = [] ∧ s.stitch.phase = .applied ∧ s.stitch.decision = some (.commit []) ∧ s.stitch.len ≤ (s.masterTime 10000).clk.ns :=
  ⟨{ tState with stitch := { tState.stitch with phase := .applied, decision := some (.commit []) } }, by decide +kernel⟩

theorem witness_requests : (∃ s : State, (s.ctx? 1).isSome = true ∧ 1 ≠ s.active) ∧ tState.ctx? 1 = none ∧ 0 = tState.active ∧
    (∃ s : State, ∃ c : Ctx, s.ctx? s.active = some c ∧ c.halted = true ∧ c.failed = false) ∧ (tState.ctx? tState.active = some tCtx ∧ tCtx.halted = false) :=
  ⟨⟨tState.setCtx 1 tCtx, by decide +kernel⟩, by decide +kernel, by decide +kernel,
    ⟨tState.setCtx 0 { tCtx with halted := true }, { tCtx with halted := true }, rfl, by decide +kernel⟩, rfl, by decide +kernel⟩

/-- A change of the period to 8,000 ns is asked for at commit 2, or, with `staged`, staged. -/
def tModes (staged : Bool) : State :=
  let s := ((tState.setReg (.stitch .modeSel) 1).setReg (.stitch .modeArg) 8000).setReg (.stitch .modeTarget) 2
  if staged then { s with stitch := { s.stitch with modes := [(1, ⟨8000, 2, [], []⟩)] } } else s

def tWaking (p : BayPower) (w : Option Nat) : State :=
  (tState.modBay 0 (fun y => { y with power := p, wakeStart := w })).setPanel 0 { tPanel with wakes := if p = .dormant then [0] else [], waking := if p = .waking then some 0 else none }

theorem witness_modes : (((tModes false).regN (.stitch .modeSel) % 16 = 1 ∧ (tModes false).regN (.stitch .modeArg) = 8000 ∧ Assoc.find? (tModes false).stitch.modes 1 = none ∧
      (tModes false).stitch.commitSeq + 2 ≤ (tModes false).regN (.stitch .modeTarget)) ∧ numdefOk 4 = false ∧ numdefOk 1 = true ∧
    (Assoc.find? (tModes true).stitch.modes 1).isSome = true ∧ (((tModes false).setReg (.stitch .modeTarget) 1).regN (.stitch .modeTarget) < 0 + 2) ∧
    (((tModes false).setReg (.stitch .modeArg) 3999).regN (.stitch .modeArg) < 4000) ∧ (tModes true).stitch.phase = .before ∧ ((tModes true).bay 0).power = .active ∧ (Assoc.find? (tModes true).stitch.modes 1) = some ⟨8000, 2, [], []⟩ ∧
    ((tModes true).bayTime 0 5).railReady 0 = true ∧ (((tState.modBay 0 (fun y => { y with modes := { y.modes with stGrade := some 6, stAt := 100 } })).bayTime 0 5).railReady 0 = false)) ∧
    (∃ s : State, s.stitch.phase = .applied ∧ Assoc.find? s.stitch.modes (s.regN (.stitch .modeSel) % 16) = some ⟨8000, 2, [], []⟩ ∧ 2 = s.stitch.commitSeq + 1 ∧
      s.stitch.decision = some (.commit [1])) ∧
    (∃ s : State, s.stitch.phase = .applied ∧ 2 = s.stitch.commitSeq + 1 ∧ s.stitch.decision = some .void) ∧
    (((tWaking .dormant none).panel (0 / 4)).waking = none ∧ ((tWaking .dormant none).panel (0 / 4)).wakes = 0 :: [] ∧ ((tWaking .dormant none).bay 0).power = .dormant) ∧
    (((tWaking .waking (some 0)).bay 0).power = .waking ∧ ((tWaking .waking (some 0)).bay 0).wakeStart = some 0 ∧
      ((tWaking .waking (some 0)).panel (0 / 4)).waking = some 0 ∧ 0 + 48000 ≤ ((tWaking .waking (some 0)).masterTime 48000).clk.nsTotal) :=
  ⟨by decide +kernel,
    ⟨{ tModes true with stitch := { (tModes true).stitch with phase := .applied, commitSeq := 1, decision := some (.commit [1]) } }, by decide +kernel⟩,
    ⟨{ tModes true with stitch := { (tModes true).stitch with phase := .applied, commitSeq := 1, decision := some .void } }, by decide +kernel⟩,
    by decide +kernel, by decide +kernel⟩

/-- The mailbox is busy; it has prepared a response. -/
theorem witness_mailbox : (∃ s : State, 3 ≤ s.sup.bootStep ∧ s.sup.seq ≠ 7 ∧ (s.regN (.host .mboxStatus)).testBit 31 = true) ∧
    (∃ s : State, s.host.mbox = some (3, 9, [5]) ∧ 3 < 2 ^ 16 ∧ [5].length < 64 ∧ 9 < 256 ∧ (s.regN (.msixTable 7)).testBit 0 = false) ∧
    (∃ s : State, s.host.mbox = some (3, 9, [5]) ∧ (s.regN (.msixTable 7)).testBit 0 = true) :=
  ⟨⟨tState.setReg (.host .mboxStatus) 0x80000000, by decide +kernel⟩,
    ⟨({ tState with host := { HostSt.reset with linkUp := true, mbox := some (3, 9, [5]) } } : State).setReg (.msixTable 7) 0, by decide +kernel⟩,
    ⟨({ tState with host := { HostSt.reset with linkUp := true, mbox := some (3, 9, [5]) } } : State).setReg (.msixTable 7) 1, by decide +kernel⟩⟩

theorem witness_cap : MailboxFree tState ∧ tState.sup.inventory = true ∧ 8000 ≤ 23500 ∧ 23500 ≤ tState.variantCap ∧ (∀ e ∈ tState.ctxs, e.2.image.powerW ≤ 23500) ∧
    (7999 < 8000 ∨ tState.variantCap < 7999) ∧ tState.variantCap < 23501 ∧ (∃ e ∈ tState.ctxs, 8000 < e.2.image.powerW) :=
  ⟨tState_mailbox, by decide +kernel⟩

/-- The image of no lanes, which passes every check. -/
def tPlain : Image := { tImage with lanes := [] }

theorem tPlain_passes : tIdle.imageReason tPlain = none := by decide +kernel

/-- The UFS device holds `tPlain` at block 9, entry 0 of its directory. -/
def tUfs : State := { tIdle with store := { tIdle.store with ufs := ⟨true, [⟨1, 2, 0, 9, 4096, 0⟩], [(9, tPlain)], []⟩ } }

theorem witness_residency : (MailboxFree tIdle ∧ tIdle.sup.inventory = true ∧ 3 < 4 ∧ tIdle.ctx? 3 = none ∧ tIdle.residents.length < 4 ∧
      tIdle.imageReason { tImage with manifest := { tManifest with ecdsaOk := false } } = some 1) ∧ tIdle.imageReason tPlain = none ∧
    tUfs.ufsImage 0 = some tPlain ∧
    (MailboxFree tState ∧ (tState.ctx? 0).isSome = true ∧ tState.residencyHeld 0 = true) ∧
    (∃ s : State, MailboxFree s ∧ (s.ctx? 1).isSome = true ∧ s.residencyHeld 1 = false) :=
  ⟨⟨tIdle_mailbox, by decide +kernel⟩, tPlain_passes, rfl, ⟨tState_mailbox, by decide +kernel⟩,
    ⟨tState.setCtx 1 tCtx, by unfold MailboxFree; decide +kernel, by decide +kernel⟩⟩

/-- A resident context and no session; the control island reaches the mesh. -/
def tResident : State := { tIdle with ctxs := [(0, tCtx)], panels := [(0, tPanel), (16, tPanel)] }

theorem witness_session : (MailboxFree tResident ∧ tResident.sup.inventory = true ∧ tResident.residents = 0 :: [] ∧
      tResident.stitch.session = false ∧ tResident.hbm.scrubbing = false ∧ tResident.islandReaches = true ∧ tResident.minimumBad tImage = none ∧
      (({ tResident with stitch := { tResident.stitch with active := 0 } } : State).sendFeeds tImage).feedsOk tImage [] = true) ∧ tResident.ctx? 0 = some tCtx ∧
    (MailboxFree tState ∧ tState.stitch.session = true) ∧ (∃ s : State, s.hbm.scrubbing = true ∧ 1 ∈ s.hbm.marked) :=
  ⟨⟨by unfold MailboxFree; decide +kernel, by decide +kernel⟩, rfl, ⟨tState_mailbox, by decide +kernel⟩,
    ⟨{ tIdle with hbm := { Hbm.reset with scrubbing := true, marked := [1] } }, by decide +kernel⟩⟩

/-- Identifier 7 of context 0 is mapped to physical counter 4, at value 10; `w` configures wait 2. -/
def tCounter (w : Reg) : State := ({ tState with hsync := ⟨[(4, ⟨0, 7, 10, none⟩)], [], 0⟩ } : State).setReg (.waitCfg 2) w

theorem witness_signals : ((0x00030007 : BitVec 32).toNat / 2 ^ 30 = 0 ∧ (0x00030007 : BitVec 32).toNat / 2 ^ 16 % 2 ^ 12 = 3 ∧ (0x00030007 : BitVec 32).toNat % 2 ^ 16 = 7 ∧
      ((tCounter 0).ctx? 0).isSome = true ∧ (tCounter 0).physOf 0 7 = some (4, ⟨0, 7, 10, none⟩)) ∧ tState.physOf 0 7 = none ∧
    (0x40000007 : BitVec 32).toNat / 2 ^ 16 % 2 ^ 12 = 0 ∧
    (((tCounter 0).hwait 2).armed = false ∧ (0x80000007 : Reg).getLsbD 31 = true ∧ ((tCounter 0).physOf ((0x80000007 : Reg).toNat / 2 ^ 16 % 4) ((0x80000007 : Reg).toNat % 2 ^ 16)).isSome = true ∧
      (tCounter 0).physOf ((0x80000008 : Reg).toNat / 2 ^ 16 % 4) ((0x80000008 : Reg).toNat % 2 ^ 16) = none) ∧
    (∃ w : Reg, ((tCounter w).hwait 2).armed = true ∧ ((tCounter w).hwait 2).ctx = 0 ∧ ((tCounter w).hwait 2).vid = 7 ∧ ((tCounter w).hwait 2).threshold ≤ 10 ∧
      (∀ i, i < 2 → (tCounter w).waitReady i = true → ¬(((tCounter w).hwait i).ctx = 0 ∧ ((tCounter w).hwait i).vid = 7))) :=
  ⟨by decide +kernel, by decide +kernel, by decide +kernel, by decide +kernel, ⟨0x0000000A80000007, by decide +kernel⟩⟩

/-! ### Lanes and engines -/

theorem witness_lane : ((tRun.bayTime 0 5).laneFree 0 = true ∧ bayOfCu 0 = 0 ∧ (tRun.cu 0).seq.sregs.length = 16 ∧ 15 < 16) ∧
    ((tLane { Seq.start with loops := [(2, 3)] }).bayTime 0 5).laneFree 0 = true ∧
    ((tLane { Seq.start with loops := [(2, 3)] }).cu 0).seq.loops = (2, 3) :: [] := by decide +kernel

theorem witness_lanes_end : ((((tLane { Seq.start with stall := .hold 9 }).cu 0).seq.stall = .hold 9 ∧ 9 ≤ (((tLane { Seq.start with stall := .hold 9 }).bayTime 0 9).bay 0).cycle) ∧
    ((tRun.bayTime 0 5).bay 0).cycle = 5 ∧ (5 : Nat) < ((tLane { Seq.start with sregs := [0, 6] }).sregN 0 1) ∧ tRun.sregN 0 1 < 5 ∧
    (((tLane { Seq.start with stall := .launch 9 false }).cu 0).seq.stall = .launch 9 false ∧ ((tLane { Seq.start with stall := .launch 9 false }).bayTime 0 9).laneRuns 0 = true)) ∧
    (∃ s : State, (s.bay 0).gov.braces = [(4, 3)] ∧ 4 ≤ ((s.bayTime 0 4).bay 0).cycle ∧ (s.bay 0).gov.entryAt = none ∧ (s.bay 0).gov.armed = false) ∧
    (∃ s : State, s.stitch.kind = .work ∧ (s.bay 0).inStitch = true ∧ (s.bay 0).windowOver = false ∧ (s.cu 0).seq.ended = true ∧ (s.cu 0).seq.retired = false ∧
      s.workDone 0 = true) ∧
    (∃ s : State, Inv s ∧ 0 ∈ s.rel.badLanes ∧ s.ctx? s.active = some tCtx ∧ (laneIn tCtx.image 0).length ≤ 512) :=
  ⟨by decide +kernel,
    ⟨tState.modBay 0 (fun y => { y with gov := { Governor.reset with braces := [(4, 3)] } }), by decide +kernel⟩,
    ⟨tLane { Seq.start with ended := true }, by decide +kernel⟩,
    ⟨{ tState with rel := { Rel.reset with badLanes := [0] } }, by unfold Machine.Inv; decide +kernel, by decide +kernel, rfl, by decide +kernel⟩⟩

/-- Bundle 0 of CU 0's lane, its control slot `c` (bits 127-104). -/
def tBundle (x : Nat) (s : State) : State := s.putWord (laneAddr 0 0) (BitVec.ofNat 128 x)

def tVecOp : VecOp := ⟨0, 0, 0, 0, 0, 1, 2, false, 0, false, 0, false, false⟩

theorem witness_bundle :
    (((tBundle (4 * 2 ^ 120 + 3 * 2 ^ 116 + 9 * 2 ^ 104) tRun).bayTime 0 5).laneRuns 0 = true ∧ Seq.start.ready ≤ 5 ∧
      ((tBundle (4 * 2 ^ 120 + 3 * 2 ^ 116 + 9 * 2 ^ 104) tRun).word (laneAddr 0 (16 * 0))).toNat = 4 * 2 ^ 120 + 3 * 2 ^ 116 + 9 * 2 ^ 104 ∧
      (tBundle 0 tRun).errs.get [] (laneAddr 0 (16 * 0) / 16) = []) ∧
    (∃ s : State, (s.bayTime 0 5).laneRuns 0 = true ∧ (s.bayTime 0 5).bundleFull 0 (2 ^ 16 * 2 ^ 20) = true ∧ (s.word (laneAddr 0 (16 * 0))).toNat = 2 ^ 16 * 2 ^ 20) ∧
    (∃ s : State, (s.bayTime 0 5).laneRuns 0 = true ∧ s.errs.get [] (laneAddr 0 (16 * 0) / 16) = [(0, 1), (1, 1)]) ∧
    (∃ s : State, (s.bayTime 0 5).laneRuns 0 = true ∧ (s.cu 0).seq.stall = .engine ∧ (s.cu 0).seq.ready ≤ 5) ∧
    (∃ s : State, (s.bayTime 0 5).laneRuns 0 = true ∧ (s.cu 0).seq.stall = .slot (.vector tVecOp) ∧ (s.cu 0).vec.queue.length < 2) ∧
    (∃ s : State, (s.bayTime 0 5).laneRuns 0 = true ∧ (s.cu 0).seq.stall = .slot (.vector tVecOp) ∧ 2 ≤ (s.cu 0).vec.queue.length) :=
  ⟨by decide +kernel,
    ⟨tBundle (2 ^ 16 * 2 ^ 20) (tRun.modCu 0 (fun c => { c with dma := ⟨List.replicate 8 ⟨0, 0, 0, 0, false, [], [], false, false, 0⟩, []⟩ })), by decide +kernel⟩,
    ⟨{ tRun with errs := [(laneAddr 0 0 / 16, [(0, 1), (1, 1)])] }, by decide +kernel⟩,
    ⟨tLane { Seq.start with stall := .engine }, by decide +kernel⟩,
    ⟨tLane { Seq.start with stall := .slot (.vector tVecOp) }, by decide +kernel⟩,
    ⟨(tLane { Seq.start with stall := .slot (.vector tVecOp) }).modCu 0 (fun c => { c with
      vec := { c.vec with queue := List.replicate 2 ⟨tVecOp, tRun.descOf 0 0 0, tRun.descOf 0 1 0, tRun.descOf 0 2 0, 0⟩ } }), by decide +kernel⟩⟩

def tOp : TensorOp := ⟨0, 1, 2, 0, false, false, 0, false, false, 1, 2, false⟩
def tSteJob (drain : Bool) (s : State) : SteJob :=
  ⟨drain, tOp, false, s.descOf 0 0 0, s.descOf 0 1 0, s.descOf 0 2 0, none, none, Loading.start, Loading.start, 0⟩

/-- CU 0 runs a lane with `f` done to its state. -/
def tCu (f : Cu → Cu) : State := tRun.modCu 0 f

theorem witness_engines : (tOp.pred = false ∧ (tRun.cu 0).ste.queue.length < 2) ∧
    (∃ s : State, s.laneFree 0 = true ∧ (s.cu 0).ste.queue = [tSteJob false s]) ∧ (∃ s : State, s.laneFree 0 = true ∧ 2 ≤ (s.cu 0).ste.queue.length) ∧
    (∃ s : State, s.laneFree 0 = true ∧ (s.cu 0).seq.pred = false ∧ { tOp with pred := true }.pred = true) ∧
    (∃ s : State, s.laneFree 0 = true ∧ (s.cu 0).ste.queue = [] ∧ (s.cu 0).ste.run = none ∧ (s.cu 0).ste.results = [] ∧ (s.cu 0).ste.outq = [] ∧
      ((s.cu 0).ste.tile 0).closings = [] ∧ s.portHeld (0 / 4) (0 % 4) 5 = false ∧ ((s.cu 0).ste.tile 0).isOpen = true) ∧
    (∃ s : State, s.laneFree 0 = true ∧ (s.cu 0).ste.queue = [tSteJob false s] ∧ (tSteJob false s).drain = false) ∧
    (tRun.laneFree 0 = true ∧ ((tRun.cu 0).ste.tile 0).isOpen = false ∧ (tRun.cu 0).vec.queue.length < 2 ∧ (tRun.cu 0).dma.queue.length < 8) ∧
    (∃ s : State, s.laneFree 0 = true ∧ 2 ≤ (s.cu 0).vec.queue.length) ∧ (∃ s : State, s.laneFree 0 = true ∧ 8 ≤ (s.cu 0).dma.queue.length) :=
  ⟨by decide +kernel,
    ⟨tCu (fun c => { c with ste := { c.ste with queue := [tSteJob false tRun] } }), by decide +kernel⟩,
    ⟨tCu (fun c => { c with ste := { c.ste with queue := [tSteJob false tRun, tSteJob false tRun] } }), by decide +kernel⟩,
    ⟨tLane { Seq.start with pred := false }, by decide +kernel⟩,
    ⟨tCu (fun c => { c with ste := { c.ste with tile0 := { Tile.reset with isOpen := true } } }), by decide +kernel⟩,
    ⟨tCu (fun c => { c with ste := { c.ste with queue := [tSteJob false tRun] } }), by decide +kernel⟩,
    by decide +kernel,
    ⟨tCu (fun c => { c with vec := { c.vec with queue := List.replicate 2 ⟨tVecOp, tRun.descOf 0 0 0, tRun.descOf 0 1 0, tRun.descOf 0 2 0, 0⟩ } }), by decide +kernel⟩,
    ⟨tCu (fun c => { c with dma := ⟨List.replicate 8 ⟨0, 0, 0, 0, false, [], [], false, false, 0⟩, []⟩ }), by decide +kernel⟩⟩

theorem witness_moves : (∃ s : State, s.laneRuns 0 = true ∧ (s.cu 0).seq.stall = .wait 3 2 false false ∧ (s.cu 0).sync.recent = [] ∧
      Assoc.get 0 (s.cu 0).sync.banks (syncKey s.active 3) = 2) ∧
    (∃ s : State, s.laneRuns 0 = true ∧ (s.cu 0).seq.stall = .wait 3 2 true false ∧ Assoc.get 0 (s.cu 0).sync.banks (syncKey s.active 3) = 1) ∧
    (tRun.laneRuns 0 = true ∧ (tRun.cu 0).seq.stall = .none ∧ (Assoc.get Chan.reset (tRun.cu 0).msg.chans 1).queue.length < 4 ∧ (tRun.cu 0).sync.recent = [] ∧
      0 ≤ Assoc.get 0 (tRun.cu 0).sync.banks (syncKey tRun.active 3) ∧ Assoc.get 0 (tRun.cu 0).sync.banks (syncKey tRun.active 3) < 1 ∧
      (Assoc.get [] (tRun.cu 0).fab.spins 0).length < 2 ∧ (Assoc.get Gen.reset (tRun.mu (0 / 4)).gens 0).queue.length < 2) ∧
    (∃ s : State, s.laneRuns 0 = true ∧ (s.cu 0).seq.stall = .none ∧ (Assoc.get Chan.reset (s.cu 0).msg.chans 1).queue.length = 4 ∧ (s.regN (.chan 0 1 1)).testBit 25 = false ∧
      2 ≤ (Assoc.get [] (s.cu 0).fab.spins 0).length ∧ 2 ≤ (Assoc.get Gen.reset (s.mu (0 / 4)).gens 0).queue.length) ∧
    (∃ s : State, ∃ y : Gen, (s.bayTime 0 5).laneRuns 0 = true ∧ ((s.bayTime 0 5).bay 0).cycle = 5 ∧ (s.cu 0).seq.stall = .none ∧ y = Assoc.get Gen.reset (s.mu (0 / 4)).gens 0 ∧
      y.queue = [⟨1, 0, 0, 5⟩] ∧ y.at_ = some 5) ∧
    (∃ s : State, (s.cu 0).sync.made s.bank 3 5 = (7, 2) ∧ (s.cu 0).sync.recent ≠ []) :=
  ⟨⟨tCu (fun c => { c with seq := { c.seq with stall := .wait 3 2 false false }, sync := ⟨[(3, 2)], [], []⟩ }), by decide +kernel⟩,
    ⟨tCu (fun c => { c with seq := { c.seq with stall := .wait 3 2 true false }, sync := ⟨[(3, 1)], [], []⟩ }), by decide +kernel⟩,
    by decide +kernel,
    ⟨(tCu (fun c => { c with
        msg := { c.msg with chans := [(1, { Chan.reset with queue := List.replicate 4 ⟨1, 0, 0⟩ })] }, fab := { c.fab with spins := [(0, List.replicate 2 ⟨tRun.descOf 0 0 0, 0, 0⟩)] } })).setMu 0 { Mu.reset with gens := [(0, ⟨List.replicate 2 ⟨0, 0, 0, 0⟩, none, 0, none, 0⟩)] },
      by decide +kernel⟩,
    ⟨tRun.setMu 0 { Mu.reset with gens := [(0, ⟨[⟨1, 0, 0, 5⟩], none, 0, some 5, 0⟩)] }, _, by decide +kernel, by decide +kernel, by decide +kernel, rfl, by decide +kernel, by decide +kernel⟩,
    ⟨tCu (fun c => { c with sync := ⟨[(3, 9)], [⟨3, 8, 7, 2⟩], []⟩ }), by decide +kernel⟩⟩

/-- An operand of one line of 32 eight-bit zeros, dense, in the scratchpad. -/
def tDesc : Desc := { tRun.descOf 0 0 0 with source := 0, encoding := 0, etype := 3, kLen := 32, count := 0, scaleType := 0, base := 0 }
def tStaged : Staged := (stageOperand (byteIn []) tDesc).1
def tSte (f : Ste → Ste) : State := tCu (fun c => { c with ste := f c.ste })
def tJob : SteJob := { tSteJob false tRun with a := tDesc, b := tDesc }
def tSteRun : SteRun := ⟨{ tJob with stA := some tStaged, stB := some tStaged }, 0, 0, 0, 0, 0, 0, 0⟩
def tResult : SteResult := ⟨0, 0, 0, true, [], 5, false, 0, 4, false, tJob⟩

/-- An operand of one line of 256 of them. -/
def tLong : Desc := { tDesc with kLen := 256 }

theorem witness_stage : (∃ s : State, (s.bayTime 0 5).engineRuns 0 = true ∧ (s.cu 0).ste.toStage .a = some 0 ∧ (s.cu 0).ste.queue[0]? = some tJob ∧
      (tJob.desc .a).source < 2 ∧ (s.cu 0).ste.loaded .a 5 = false ∧ (s.bayTime 0 5).portHeld (0 / 4) (0 % 4) (sideUnit .a) = false ∧
      nextWord ((s.bayTime 0 5).loadWords 0 (tJob.desc .a) 4 (tJob.load .a).words).2.1 (tJob.desc .a) = none) ∧
    (∃ s : State, ∃ j : SteJob, (s.bayTime 0 5).engineRuns 0 = true ∧ (s.cu 0).ste.toStage .a = some 0 ∧ (s.cu 0).ste.queue[0]? = some j ∧
      (nextWord ((s.bayTime 0 5).loadWords 0 (j.desc .a) 4 (j.load .a).words).2.1 (j.desc .a)).isSome = true) :=
  ⟨⟨tSte (fun x => { x with queue := [tJob] }), by decide +kernel⟩,
    ⟨tSte (fun x => { x with queue := [{ tJob with a := tLong }] }), { tJob with a := tLong }, by decide +kernel⟩⟩

theorem witness_output : (∃ s : State, (s.bayTime 0 5).engineRuns 0 = true ∧ (s.cu 0).ste.run = some tSteRun ∧ (s.bayTime 0 5).govAllows 0 = false ∧
      (s.cu 0).ste.entryFree tSteRun.job.op.tile 0 0 5 = true) ∧
    (∃ s : State, (s.bayTime 0 5).engineRuns 0 = true ∧ (s.cu 0).ste.run = some tSteRun ∧ (s.bayTime 0 5).govAllows 0 = true ∧
      (tSteRun.cycle tStaged tStaged).finished tStaged tStaged = true) ∧
    (∃ y : SteRun, (y.cycle tStaged tStaged).finished tStaged tStaged = false) :=
  ⟨⟨tSte (fun x => { x with run := some tSteRun }), by decide +kernel⟩,
    ⟨(tSte (fun x => { x with run := some tSteRun })).modBay 0 (fun y => { y with gov := { y.gov with level := 8 } }), by decide +kernel⟩,
    ⟨{ tSteRun with backlog := 10000 }, by decide +kernel⟩⟩

def tClosing (k : Nat) : Closing := ⟨4, true, 1, 1, [(0, { Acc.clear with int := k })], 0⟩

def tTile (k : Nat) : Tile :=
  { Tile.reset with isInt := true, isOpen := true, used := true, m := 1, n := 1, closings := [tClosing k], cells := [(0, { Acc.clear with int := k })] }

theorem witness_accumulate : (∃ s : State, (s.bayTime 0 5).engineRuns 0 = true ∧ (s.cu 0).ste.queue = [] ∧ (s.cu 0).ste.results = [tResult] ∧ tResult.due ≤ 5 ∧
      tResult.lastOf = false) ∧
    (∃ s : State, (s.cu 0).ste.queue = [] ∧ (s.cu 0).ste.tile0.dueClosing 5 = some (tClosing 0) ∧ (tClosing 0).tile.compare 0 [0] 256 = 0 ∧
      (tClosing 0).tile.compare 0 [0] 272 = 0) ∧
    (∃ s : State, (s.cu 0).ste.queue = [] ∧ (s.cu 0).ste.tile0.dueClosing 5 = some (tClosing 7) ∧ (tClosing 7).tile.compare 0 [0] 256 = 2 ∧ (s.bay 0).vote.cause = 0 ∧
      (s.bay 0).vote.frozen = false) :=
  ⟨⟨tSte (fun x => { x with results := [tResult] }), by decide +kernel⟩, ⟨tSte (fun x => { x with tile0 := tTile 0 }), by decide +kernel⟩,
    ⟨tSte (fun x => { x with tile0 := tTile 7 }), by decide +kernel⟩⟩

def tVecJob : VecJob := ⟨{ tVecOp with descY := 15, pack := 2 }, tDesc, tDesc, { tDesc with source := 8 }, 0⟩
def tXfer : Xfer := ⟨spAddr 0 0, spAddr 0 64, 1, 3, true, [], [], false, false, 0⟩

theorem witness_vector : (∃ s : State, (s.bayTime 0 5).engineRuns 0 = true ∧ (s.cu 0).vec.run = some ⟨tVecJob, 0, posZero, posZero, Loading.start, Loading.start⟩ ∧
      (s.cu 0).vec.groups = [] ∧ isLinkSrc tVecJob.x.source = false ∧ tVecJob.usesY = false ∧
      (s.bayTime 0 5).portHeld (0 / 4) (0 % 4) 2 = false ∧ (s.bayTime 0 5).portHeld (0 / 4) (0 % 4) 3 = false ∧ (s.bayTime 0 5).portHeld (0 / 4) (0 % 4) 4 = false ∧ min tVecJob.lanes (tVecJob.elements - 0) = 8) ∧
    (∃ s : State, (s.bayTime 0 5).engineRuns 0 = true ∧ (s.cu 0).vec.groups = [⟨tVecJob, 0, [posZero], 5, true⟩] ∧ (s.cu 0).vec.outq = [] ∧ tVecJob.op.pack = 2 ∧
      tVecJob.d.source = 8) :=
  ⟨⟨tCu (fun c => { c with vec := { c.vec with run := some ⟨tVecJob, 0, posZero, posZero, Loading.start, Loading.start⟩ } }), by decide +kernel⟩,
    ⟨tCu (fun c => { c with vec := { c.vec with groups := [⟨tVecJob, 0, [posZero], 5, true⟩] } }), by decide +kernel⟩⟩

theorem witness_dma : (∃ s : State, (s.bayTime 0 5).engineRuns 0 = true ∧ (s.cu 0).dma.queue = [{ tXfer with src := spAddr 0 8 }] ∧ (s.cu 0).dma.active.length < 4 ∧
      spAddr 0 8 % 16 ≠ 0 ∧ (s.bay 0).vote.cause = 0 ∧ (s.bayTime 0 5).portHeld (0 / 4) (0 % 4) 6 = false) ∧
    (∃ s : State, Inv s ∧ (s.cu 0).dma.queue = [tXfer] ∧ (s.bayTime 0 5).sideBad 0 tXfer.src 1 = none ∧ (s.bayTime 0 5).sideBad 0 tXfer.dst 1 = none ∧
      localPlace 0 tXfer.src = some (0, 0) ∧ localPlace 0 tXfer.dst = some (0, 4) ∧ s.errs.get [] (spAddr 0 0 / 16) = []) ∧
    (∃ s : State, (s.bayTime 0 5).piecesBad 0 (cutPlaces (spAddr 4 0) (spAddr 0 0) 1 4) = none ∧
      (∀ p ∈ cutPlaces (spAddr 4 0) (spAddr 0 0) 1 4, localPlace 0 p.1 = none)) ∧
    (∃ s : State, (s.bayTime 0 5).piecesBad 0 (cutPlaces (spAddr 0 0) (spAddr 4 0) 1 4) = none ∧
      (∀ p ∈ cutPlaces (spAddr 0 0) (spAddr 4 0) 1 4, (localPlace 0 p.1).isSome = true ∧ localPlace 0 p.2.1 = none)) ∧
    (∃ s : State, (s.cu 0).dma.active = [{ tXfer with moved := true }] ∧ finished 5 { tXfer with moved := true } = true ∧ s.stitch.session = true) ∧
    tXfer.units = 1 ∧
    (tState.bay (bayOfCu 0)).power = .active ∧ tState.regN (.bay 0 .fabTelSize) < 32 ∧ tState.unreached (.cu 128 .srSeed) = some 141837033537560 ∧
    (tState.unreached (.bay 1 .fabTelSize)).isSome = true ∧ (tState.unreached (.bay 1 .fabTelBase)).isSome = true :=
  ⟨⟨tCu (fun c => { c with dma := ⟨[{ tXfer with src := spAddr 0 8 }], []⟩ }), by decide +kernel⟩,
    ⟨tCu (fun c => { c with dma := ⟨[tXfer], []⟩ }), by unfold Machine.Inv; decide +kernel, by decide +kernel⟩, ⟨tRun, by decide +kernel⟩, ⟨tRun, by decide +kernel⟩,
    ⟨tCu (fun c => { c with dma := ⟨[], [{ tXfer with moved := true }]⟩ }), by decide +kernel⟩, by decide +kernel⟩

theorem tState_inv : Inv tState := by unfold Machine.Inv; decide +kernel

/-- Requests of a bank and of a slice. -/
def tSp (w : Bool) (n : Nat) : SpReq := ⟨8, 7, 0, n, w, 5⟩
def tMu (port : Nat) (w : Bool) : MuReq := ⟨2, port, 0, 8, if port = 6 then 1 else 2, w, false, if w then [3, 4] else []⟩

theorem witness_arbiters : (Inv tState ∧ (tState.bay (bayOfCu 0)).power = .active ∧ (bayOf 0) = 0 ∧ (9 : Nat) < 10 ∧ 1023 < 1024 ∧ (0 : Nat) < 6 ∧ 6 < 7 ∧ 4 % 4 = 8 % 4 ∧
      tState.muPlace 0 (1536 * 7 + 5) = .plain (1536 * 7 + 5) ∧ (tState.bayTime 0 5).spTaken 0 3 = false ∧ (tSp true 16).word % 4 = 3 ∧ (tSp true 8).bytes < 16 ∧
      tState.errs.get [] (spAddr 0 (16 * 7) / 16) = []) ∧
    (∃ s : State, (s.bay 0).power = .active ∧ (s.bayTime 0 5).spTaken 0 3 = true) ∧
    (∃ s : State, Assoc.find? (s.cu 0).sp.waits (3, 2) = some (16, ⟨9, 7, 0, 16, true, 5⟩) ∧ (∀ j, j < 3 → j ≠ 2 → (s.cu 0).sp.waited 3 j < 16) ∧
      (s.bayTime 0 5).spTaken 0 3 = false) ∧
    ((tState.mu 0).arb.shown = [] ∧ (tMu 4 true).data.length = (tMu 4 true).count ∧ (∀ i, i < (tMu 4 true).count → tState.muPlace 0 (1536 * 2 + 8 + i) = .plain (1536 * 2 + 8 + i)) ∧
      (∀ i, i < (tMu 4 false).count → tState.errs.get [] (devAddr 0 (16 * (1536 * 2 + 8 + i)) / 16) = []) ∧ (tMu 4 true).unit < 6 ∧ (tMu 4 true).count ≠ 1) ∧
    (∃ s : State, (s.bay (bayOf 0)).power = .active ∧ (s.mu 0).arb.shown = [] ∧ s.muPlace 0 (1536 * 2 + 8) = .bad 3) ∧
    (∃ s : State, Assoc.get 0 (s.mu 0).arb.refused 7 = 4) ∧
    (∃ s : State, ∃ q : MuReq, Assoc.find? (s.mu (1 / 4)).arb.dmaWait (1 % 4) = some (16, 2, q) ∧ q.port = 1 % 4 ∧ q.dma = true ∧ q.write = true ∧ q.data.length = q.count ∧
      (s.mu (1 / 4)).arb.shown = [] ∧ (∀ i, i < q.count → s.muPlace 0 (1536 * q.slice + q.first + i) = .plain (1536 * q.slice + q.first + i))) :=
  ⟨⟨tState_inv, by decide +kernel⟩, ⟨tCu (fun c => { c with sp := { c.sp with taken := [(3, 5)] } }), by decide +kernel⟩,
    ⟨tCu (fun c => { c with sp := { c.sp with waits := [((3, 2), (16, ⟨9, 7, 0, 16, true, 5⟩))] } }), by decide +kernel⟩, by decide +kernel,
    ⟨tState.setReg (.mu 0 .slicePwr) 0, by decide +kernel⟩,
    ⟨tState.setMu 0 { Mu.reset with arb := { Mu.reset.arb with refused := [(7, 4)] } }, by decide +kernel⟩,
    ⟨tState.setMu 0 { Mu.reset with arb := { Mu.reset.arb with dmaWait := [(1, (16, 2, ⟨2, 1, 0, 8, 1, true, true, [3]⟩))] } }, ⟨2, 1, 0, 8, 1, true, true, [3]⟩, by decide +kernel⟩⟩

/-! ### Memory unit, fabric, mesh -/

def tAg (op port : Nat) (wide : Bool) : AgDesc := ⟨op, port, wide, true, 0, 5, 0, [1, 1, 1, 1, 1], [4, 0, 0, 0, 0], 0, 64⟩
def tAgRun (d : AgDesc) : AgRun := ⟨d, 0, 64, [0, 0, 0, 0, 0], true, false, false, [], [], 0, 0, 0, none, 0⟩
def tGen (r : AgRun) : State := tRun.setMu 0 { Mu.reset with gens := [(0, ⟨[], some r, 0, none, 0⟩)] }

theorem witness_generators :
    (∃ s : State, (s.bayTime 0 5).muWorks 0 = true ∧ (s.mu 0).gens = [(0, ⟨[⟨0, 1, 0, 4⟩], none, 0, some 4, 0⟩)] ∧ (s.agDesc 0 1).port ≠ 2 ∧ (s.mu 0).dsp.phase = .idle) ∧
    (((tAgRun (tAg 1 0 true)).address 0 = ((64 : Nat) : Int) ∧ (tAg 1 0 true).reads = true ∧ (tAg 1 0 true).indirect = false ∧
      (∀ i, i < 4 → (tGen (tAgRun (tAg 1 0 true))).muPlace 0 (64 / 16 + i) = .plain (64 / 16 + i))) ∧
    ((tAg 2 0 false).reads = false ∧ (tAg 2 0 false).indirect = false ∧ { tAgRun (tAg 2 0 false) with half := some 7 }.address 0 = ((64 : Nat) : Int)) ∧
    ({ tAgRun (tAg 1 0 true) with base := 0x30000 }.address 0 = ((0x30000 : Nat) : Int)) ∧
    ((tAgRun (tAg 3 0 true)).wantsIndex = true ∧ (tAgRun (tAg 3 0 true)).incoming = [] ∧ 64 + 16 * 0 + 16 ≤ 0x30000) ∧
    ({ tAgRun (tAg 1 0 true) with done := true }.done = true ∧ (tAg 1 0 true).port ≠ 2 ∧ (tAg 1 0 true).sigCu < 4) ∧
    ((tGen (tAgRun (tAg 1 0 true))).bayTime 0 5).agHeld 0 0 = false) ∧
    (∃ s : State, (s.bayTime 0 5).muWorks 0 = true ∧ (s.bayTime 0 5).agHeld 0 0 = true) :=
  ⟨⟨tRun.setMu 0 { Mu.reset with gens := [(0, ⟨[⟨0, 1, 0, 4⟩], none, 0, some 4, 0⟩)] }, by decide +kernel⟩, by decide +kernel,
    ⟨(tGen (tAgRun (tAg 1 0 true))).modMu 0 (fun x => { x with arb := { x.arb with shown := [(4, ⟨5, some (tMu 4 false), true⟩)] } }), by decide +kernel⟩⟩

/-- CU 0's inbound link 2 holds a payload; `w` is its route word. -/
def tFab (w : Reg) (x : Flit) : State := (tCu (fun c => { c with fab := { c.fab with inq := [(2, [(x, 3)])] } })).setReg (.route 0 0) w

/-- A token that is valid, of tag 3, its reserved field `r`, its route `o`. -/
def tTok (o r : Nat) : BitVec 64 := BitVec.ofNat 64 (2 ^ 63 + o * 2 ^ 58 + r * 2 ^ 27 + 3 * 2 ^ 16)

/-- Link 2 goes on over link 1 (source code 3 of link 1), or to SPIN, to the tokens, to fabric port 0 (sinks 1, 2, 4 of link 2). -/
theorem witness_transfer : (((tFab 0x30000 ⟨5, 0⟩).bayTime 0 5).engineRuns 0 = true ∧ sinkOf (((tFab 0x30000 ⟨5, 0⟩).bayTime 0 5).routeWord 0) 2 = 0 ∧
      outsOf (((tFab 0x30000 ⟨5, 0⟩).bayTime 0 5).routeWord 0) 3 = [1] ∧ ((tFab 0x30000 ⟨5, 0⟩).bayTime 0 5).headOf 0 2 = some ⟨5, 0⟩ ∧ neighbour 0 1 = some 1 ∧
      isSeam 0 1 = false ∧ ((tFab 0x30000 ⟨5, 0⟩).bayTime 0 5).credit 0 1 = true ∧ ((tFab 0x30000 ⟨5, 0⟩).bay 0).vote.cause = 0 ∧ ((tFab 0x30000 ⟨5, 0⟩).bay 0).vote.frozen = false ∧
      2 ∉ ((tFab 0x30000 ⟨5, 0⟩).cu 0).fab.hurt) ∧
    (∃ s : State, (s.bayTime 0 5).headOf 0 2 = some ⟨5, 0⟩ ∧ (s.bayTime 0 5).credit 0 1 = false) :=
  ⟨by decide +kernel, ⟨(tFab 0x30000 ⟨5, 0⟩).setReg (.cu 1 .linkCfg) 0, by decide +kernel⟩⟩

def tSpin : SpinJob := ⟨tDesc, 0, 0⟩

theorem witness_spin : ∃ s : State, Inv s ∧ (s.bayTime 0 5).engineRuns 0 = true ∧ Assoc.get [] (s.cu 0).fab.spins 2 = [tSpin] ∧ (∀ k, k < 4 → (s.cu 0).wants 2 k = false) ∧
    sinkOf ((s.bayTime 0 5).routeWord 0) 2 = 1 ∧ outsOf ((s.bayTime 0 5).routeWord 0) 3 = [] ∧ (s.bayTime 0 5).headOf 0 2 = some ⟨5, 0⟩ ∧
    round16 (ceilDiv (tDesc.kLen * widthOf tDesc.etype) 8) = 32 ∧ 32 * tSpin.part + 16 < 32 ∧ tDesc.base / 16 + 2 ≤ 1024 :=
  ⟨(tFab 0x40 ⟨5, 0⟩).modCu 0 (fun c => { c with fab := { c.fab with spins := [(2, [tSpin])] } }), by unfold Machine.Inv; decide +kernel, by decide +kernel⟩

theorem witness_seams : (∃ s : State, (s.bayTime 0 5).engineRuns 0 = true ∧ neighbour 0 1 = some 1 ∧ Assoc.get [] (s.cu 0).fab.seam 1 = [(⟨5, 0⟩, 4)] ∧
      Assoc.get [] (s.cu 0).fab.inq 1 = [] ∧ (s.bay (bayOfCu 1)).power = .active) ∧
    (∃ s : State, (s.bayTime 0 5).engineRuns 125 = true ∧ isSeam 125 1 = true ∧ neighbour 125 1 = some 128 ∧ Assoc.get [] (s.cu 125).fab.seam 1 = [(⟨5, 0⟩, 4)] ∧
      Assoc.get [] (s.cu 125).fab.inq 1 = [] ∧ (s.bay (bayOfCu 128)).power ≠ .active) ∧
    (∃ s : State, (s.bayTime 0 5).engineRuns 0 = true ∧ Assoc.get [] (s.cu 0).fab.returning 1 = [4] ∧ 4 ≤ 5) :=
  ⟨⟨tCu (fun c => { c with fab := { c.fab with seam := [(1, [(⟨5, 0⟩, 4)])] } }), by decide +kernel⟩,
    ⟨tState.setCu 125 { Cu.reset with fab := { Fab.reset with seam := [(1, [(⟨5, 0⟩, 4)])] } }, by decide +kernel⟩,
    ⟨tCu (fun c => { c with fab := { c.fab with returning := [(1, [4])] } }), by decide +kernel⟩⟩

/-- A payload waits in fabric port 0 of MU 0, which link 1 of CU 0 takes (source code 7). -/
def tPortOut : State := (tFab 0x70000 ⟨5, 0⟩).setMu 0 { Mu.reset with ports := [(0, { FabPort.reset with outq := [(⟨6, 0⟩, 4)] })] }

theorem witness_port_out : (tPortOut.bayTime 0 5).muWorks 0 = true ∧ (tPortOut.bayTime 0 5).takesFrom 0 0 = ([1], false) ∧ neighbour 0 1 = some 1 ∧ isSeam 0 1 = false ∧
    (tPortOut.bayTime 0 5).credit 0 1 = true ∧ (tPortOut.bayTime 0 5).portOut 0 0 = some ⟨6, 0⟩ ∧ (Assoc.get FabPort.reset (tPortOut.mu 0).ports 0).took.1 ≠ 5 + 1 ∧
    (∀ k, k < 4 → 4 * 0 + k ≠ 0 → (tPortOut.bayTime 0 5).takesFrom (4 * 0 + k) 0 = ([], false)) := by decide +kernel

theorem witness_port : ((tFab 0x100 ⟨5, 0⟩).bayTime 0 5).muWorks 0 = true ∧ sinkOf (((tFab 0x100 ⟨5, 0⟩).bayTime 0 5).routeWord 0) 2 = 4 + 0 ∧
    outsOf (((tFab 0x100 ⟨5, 0⟩).bayTime 0 5).routeWord 0) 3 = [] ∧ ((tFab 0x100 ⟨5, 0⟩).bayTime 0 5).headOf 0 2 = some ⟨5, 0⟩ ∧
    (Assoc.get FabPort.reset ((tFab 0x100 ⟨5, 0⟩).mu 0).ports 0).inq.length < 8 ∧ (Assoc.get FabPort.reset ((tFab 0x100 ⟨5, 0⟩).mu 0).ports 0).gave.1 ≠ 5 + 1 ∧
    (∀ k, k < 16 → ¬(4 * 0 + k / 4 = 0 ∧ k % 4 = 2) → ((tFab 0x100 ⟨5, 0⟩).bayTime 0 5).headOf (4 * 0 + k / 4) (k % 4) = none) := by decide +kernel

def tTokens (r : Nat) : State := tFab 0x80 ⟨(tTok 0 r).setWidth 256, 0⟩

theorem witness_tokens : (sinkOf (((tTokens 0).bayTime 0 5).routeWord 0) 2 = 2 ∧ ((tTokens 0).bayTime 0 5).headOf 0 2 = some ⟨(tTok 0 0).setWidth 256, 0⟩ ∧
      (payloadToks ((tTok 0 0).setWidth 256)).filter tokValid = [tTok 0 0] ∧ ((tTokens 0).cu 0).steer.faulted = false ∧ tokBad (tTok 0 0) = false) ∧
    ((tTokens 1).bayTime 0 5).headOf 0 2 = some ⟨(tTok 0 1).setWidth 256, 0⟩ ∧ tokBad (tTok 0 1) = true ∧ ((tTokens 1).bay 0).vote.cause = 0 := by decide +kernel

/-- The steering unit holds a token and a payload of tag `g`; `r` is the token's route. -/
def tSteer (r g : Nat) : State := tCu (fun c => { c with steer := { c.steer with toks := [tTok r 0], dats := [(1, ⟨5, g⟩)] } })

theorem witness_steer : (((tSteer 0 3).bayTime 0 5).engineRuns 0 = true ∧ tokTag (tTok 0 0) = 3 ∧ tokRoute (tTok 0 0) = 0 ∧ tokRoute (tTok 16 0) = 16 ∧
    Assoc.find? ((tSteer 16 3).cu 0).steer.places 1 = none ∧ 4 ≠ tokTag (tTok 0 0) ∧ ((tSteer 0 4).bay 0).vote.cause = 0 ∧ ((tSteer 0 4).bay 0).vote.frozen = false) ∧
    (∃ s : State, (s.cu 0).steer.toks = [tTok 0 0] ∧ (s.cu 0).steer.dats = [] ∧ s.regN (.cu 0 .steerCfg) % 256 ≤ (s.cu 0).steer.tWait) :=
  ⟨by decide +kernel,
    ⟨tCu (fun c => { c with steer := { c.steer with toks := [tTok 0 0], tWait := 16 } }), by decide +kernel⟩⟩

/-- The dispatch stage in state `x`; generator 0 runs `r`; word `w` begins its descriptor. -/
def tDsp (w : Reg) (x : Dsp) (r : Option AgRun) : State := (tRun.setMu 0 { Mu.reset with dsp := x, gens := [(0, ⟨[], r, 0, none, 0⟩)] }).setReg (.dspDesc 0 0 0) w

def tPass : AgRun := { tAgRun (tAg 1 2 true) with started := false }

theorem witness_dispatch : (((tDsp 0x80000000 { Dsp.reset with waiting := [0] } (some tPass)).bayTime 0 5).muWorks 0 = true ∧
      { Dsp.reset with waiting := [0] }.free = true ∧ { Dsp.reset with phase := .draining, unacked := 3, waiting := [0] }.free = true ∧ tPass.desc.port = 2 ∧
      ((tDsp 0x80000000 Dsp.reset none).dspDesc 0 0).en = true ∧ ((tDsp 0x80000000 Dsp.reset none).dspDesc 0 0).deferCap = 0) ∧
    ((tDsp 0x80000000 Dsp.reset none).tokenRows 0 0 = 2 ∧ (7 : Word).toNat / 2 ^ 11 % 2 ^ 21 = 0 ∧ (BitVec.ofNat 128 (2 ^ 11)).toNat / 2 ^ 11 % 2 ^ 21 ≠ 0) ∧
    ((tDsp 0x80800000 Dsp.reset none).dspDesc 0 0).k = 1 ∧ tRun.seqMask.getLsbD 5 = false ∧ tRun.seqMask.getLsbD 0 = true ∧
    ((tDsp 0x80800000 { Dsp.reset with phase := .ranked, slot := 5 } none).muPlace 0 (0 / 16) = .plain (0 / 16)) ∧
    (((tDsp 0xA0800000 Dsp.reset none).dspDesc 0 0).haltEn = true ∧ { Dsp.reset with ranked := [0] }.ranked.head? = some ((tDsp 0xA0800000 Dsp.reset none).dspDesc 0 0).haltIdx) ∧
    (Assoc.get FabPort.reset ((tDsp 0 Dsp.reset none).mu 0).ports 0).outq.length < 8 ∧
    (((tDsp 0 { Dsp.reset with phase := .filling } none).bayTime 0 5).expertOf 0 ((tDsp 0 Dsp.reset none).dspDesc 0 0) 0).1.isSome = true := by decide +kernel

theorem witness_dispatch_end : (∃ s : State, (s.bayTime 0 5).muWorks 0 = true ∧ (s.mu 0).dsp.phase = .draining ∧ (s.mu 0).dsp.tokPay = [] ∧ (s.mu 0).dsp.outPkts = [] ∧
      (s.mu 0).dsp.unacked = 0 ∧ (∀ p ∈ (s.mu 0).dsp.closing, p.unacked ≠ 0) ∧ (Assoc.get Gen.reset (s.mu 0).gens (s.mu 0).dsp.gen).run = some tPass ∧
      tPass.faulted = false ∧ tPass.desc.sigCu < 4) ∧
    (∃ s : State, (s.bayTime 0 5).muWorks 0 = true ∧ (s.mu 0).dsp.closing = [⟨0, 0, 0, false⟩, ⟨1, 1, 2, false⟩] ∧
      (Assoc.get Gen.reset (s.mu 0).gens 0).run = some tPass) :=
  ⟨⟨tDsp 0x80000000 { Dsp.reset with phase := .draining } (some tPass), by decide +kernel⟩,
    ⟨tDsp 0x80000000 { Dsp.reset with serial := 2, closing := [⟨0, 0, 0, false⟩, ⟨1, 1, 2, false⟩] } (some tPass), by decide +kernel⟩⟩

def tReq : MeshPacket := ⟨0, 1, 0, 1, 3, 1, .cluster 0, 4, devAddr 0 64, [9]⟩
def tMoving : Moving := ⟨.request tReq, 0, 0, false, false, false, false, 3, 2, false, false, none, []⟩

/-- Router 0 holds a packet at its injection port. -/
def tRtr (w : Moving) : State := tRun.setRtr 0 { Rtr.reset with inq := [(bufKey 4 0 0, [w])] }

/-- Output `k` of router 0 has sent a flit in the cycle. -/
def tStamped (k : Nat) : State := tRun.setRtr 0 { Rtr.reset with stamp := [(k, 5)] }

theorem witness_mesh : (∃ s : State, (s.panel (panelOf 0)).fabricOn = true ∧ (s.mu 0).replies = [.ack 0 0 0 0 0] ∧ s.pktDest (.ack 0 0 0 0 0) = some (0, false) ∧
      (s.masterTime 5).stamped 0 6 = false ∧ (∀ cls, cls < 3 → (s.rtr 0).buf (bufKey 4 cls 0) = [])) ∧
    (((tStamped 6).masterTime 5).stamped 0 6 = true ∧ ((tStamped 1).masterTime 5).stamped 0 1 = true ∧ ((tStamped 1).panel (panelOf 0)).fabricOn = true) ∧
    ((tRtr tMoving).routerPick 0 4 = some (0, 8) ∧ ((tRtr tMoving).rtr 0).buf (bufKey (8 / 2) 0 (8 % 2)) = [tMoving] ∧ pktFlits tMoving.pkt ≤ tMoving.sent + 1 ∧
      complete tMoving = true ∧ isMulticast tMoving = false ∧ tMoving.hurt = false ∧ ((tRtr tMoving).masterTime 5).stamped 0 4 = false ∧
      ((tRtr tMoving).bay (bayOf 0)).vote.cause = 0 ∧ ((tRtr tMoving).bay (bayOf 0)).vote.frozen = false) ∧
    (∃ w : Moving, (tRtr w).routerPick 0 1 = some (0, 8) ∧ w.sent = 0 ∧ 1 < pktFlits w.pkt ∧ nextRouter 0 1 ≠ 0 ∧ isMulticast w = false) ∧
    (∃ w : Moving, ∃ q : MeshPacket, (tRtr w).routerPick 0 5 = some (0, 8) ∧ w.pkt = .request q ∧ q.addr / 2 ^ 44 ≠ 15 ∧ pktFlits w.pkt ≤ w.sent + 1) :=
  ⟨⟨tRun.setMu 0 { Mu.reset with replies := [.ack 0 0 0 0 0] }, by decide +kernel⟩, by decide +kernel, by decide +kernel,
    ⟨{ tMoving with dstX := 5, got := 1, sent := 0 }, by decide +kernel⟩, ⟨{ tMoving with ext := true }, tReq, by decide +kernel⟩⟩

def tMc : Multicast := ⟨0, 1, 0, false, 0, 0, 0, 0, 4, 1, [9]⟩

/-- A multicast that has been replicated: `n` flits have left to its cluster, which acknowledges to entry 7 of router 1. -/
def tTree (n : Nat) : Moving := ⟨.multicast tMc 0 255, 0, 0, false, false, false, false, 3, n, false, false, some (1, 7), [(4, n), (1, 0)]⟩

/-- Window 0 of MU 0 lets every cluster write its first KiB for context 0. -/
def tWindow : State := (tRun.setReg (.muWin 0 0 0) 0xF0000000).setReg (.muWin 0 0 1) 64

def tLanding (n : Nat) : State := tWindow.setRtr 0 { Rtr.reset with inq := [(bufKey 4 2 0, [tTree n])] }

theorem witness_landing : Inv (tLanding 2) ∧ (tLanding 2).routerPick 0 4 = some (2, 8) ∧ isMulticast (tTree 2) = true ∧ Assoc.find? (tTree 2).tree 4 = some 2 ∧
    pktFlits (tTree 2).pkt ≤ 2 + 1 ∧ (tTree 2).hurt = false ∧ (1 : Nat) ≠ 0 ∧ ((tLanding 2).bay (bayOf 0)).power = .active ∧ (tLanding 2).stale tMc.stitchLo = false ∧
    mcOffset tMc.offset = 64 ∧ ((tLanding 2).muWins 0).any (fun v => v.admits 0 true 64 (16 * 1) (.cluster 0)) = true ∧ (tLanding 2).muPlace 0 (4 + 0) = .plain (4 + 0) ∧
    (tLanding 0).routerPick 0 1 = some (2, 8) ∧ Assoc.find? (tTree 0).tree 1 = some 0 ∧ 1 < pktFlits (tTree 0).pkt ∧ nextRouter 0 1 ≠ 0 :=
  ⟨by unfold Machine.Inv; decide +kernel, by decide +kernel⟩

/-- A multicast at the head of an injection buffer, to clusters of bay 0 up to column `x`. -/
def tHeadMc (x : Nat) : Multicast := { tMc with x1 := x }
def tHead (x : Nat) (es : Assoc Nat Combine) : State :=
  tRun.setRtr 0 { Rtr.reset with inq := [(bufKey 4 2 0, [⟨.multicast (tHeadMc x) 0 255, 0, 0, false, false, false, false, 1, 0, false, false, none, []⟩])], combine := es }

/-- Every combine entry is busy. -/
def tBusy : State := tHead 2 ((List.range 8).map (fun i => (i, (⟨1, 3, 2, 0, tMc⟩ : Combine))))

def tOutside (m : BitVec 192) : Multicast := { tMc with srcExt := true, bayMask := m }

/-- Every panel has its fabric rail. -/
def tPowered : State := { tRun with panels := (List.range 48).map (fun p => (p, tPanel)) }

theorem witness_multicast_outside : (∀ i, i < 12 → tPowered.mcHead 0 i (tOutside 1) = false) ∧ (tPowered.rtr 0).buf (bufKey 5 2 0) = [] ∧
    (tPowered.panel (panelOf 0)).fabricOn = true ∧ tPowered.mcRefused (tOutside 1) = false ∧ tPowered.mcRefused (tOutside 0) = true ∧ (tOutside 1).srcExt = true := by decide +kernel

theorem witness_multicast : ((∀ j, j < 8 → (tHead 0 []).mcHead 0 j (tHeadMc 0) = false) ∧ mcBranches (tHeadMc 0) 0 (8 / 2) = [4] ∧ mcBranches (tHeadMc 2) 0 (8 / 2) = [1, 4] ∧
      Assoc.find? ((tHead 2 [(0, ⟨1, 3, 2, 0, tMc⟩)]).rtr 0).combine 1 = none ∧ (Assoc.find? ((tHead 2 [(0, ⟨1, 3, 2, 0, tMc⟩)]).rtr 0).combine 0).isSome = true) ∧
    (∃ s : State, (s.panel (panelOf 0)).fabricOn = true ∧ s.mcHead 0 8 (tHeadMc 2) = true ∧ (∀ j, j < 8 → (Assoc.find? (s.rtr 0).combine j).isSome = true)) ∧
    (∃ s : State, (s.panel (panelOf 0)).fabricOn = true ∧ (s.rtr 0).ejected = [] ∧ Assoc.find? (s.rtr 0).combine 7 = some ⟨1, 3, 2, 0, tMc⟩) ∧
    (∃ s : State, (s.panel (panelOf 0)).fabricOn = true ∧ (s.rtr 0).ejected = [] ∧ Assoc.find? (s.rtr 0).combine 7 = some ⟨1, 3, 1, 0, tMc⟩) :=
  ⟨by decide +kernel, ⟨tBusy, by decide +kernel⟩,
    ⟨tRun.setRtr 0 { Rtr.reset with combine := [(7, ⟨1, 3, 2, 0, tMc⟩)] }, by decide +kernel⟩,
    ⟨tRun.setRtr 0 { Rtr.reset with combine := [(7, ⟨1, 3, 1, 0, tMc⟩)] }, by decide +kernel⟩⟩

def tResp : MeshResponse := ⟨0, 0, 1, 4, 0, false, 2, 0, [9]⟩

theorem witness_remote : (∃ s : State, Inv s ∧ (s.rtr 0).ejected = [] ∧ s.stale tResp.stitchLo = false ∧ tResp.unit < 4 ∧ tResp.dstExt = false ∧ (s.panel (panelOf 0)).fabricOn = true ∧
      (s.bay (bayOf 0)).power = .active ∧ (s.cu 2).dma.active = [{ tXfer with slots := [(4, spAddr 2 32, 0)] }] ∧
      localPlace 2 (spAddr 2 32) = some (0, 2)) ∧ tRun.stale 2 = true ∧ { tResp with dstExt := true }.dstExt = true ∧
    (tReq.addr / 2 ^ 44 = 8 ∧ tReq.addr / 2 ^ 26 % 2 ^ 9 < 432 ∧ addrCluster tReq.addr = 0 ∧ tWindow.stale tReq.stitchLo = false ∧ (tWindow.rtr 0).ejected = [] ∧ tReq.addr % 2 ^ 26 = 64 ∧
      (tWindow.muWins 0).any (fun v => v.admits 0 true 64 (16 * 1) tReq.src) = true ∧ (tRun.muWins 0).any (fun v => v.admits 0 true 64 (16 * 1) tReq.src) = false) :=
  ⟨⟨tRun.setCu 2 { Cu.reset with dma := ⟨[], [{ tXfer with slots := [(4, spAddr 2 32, 0)] }]⟩ }, by unfold Machine.Inv; decide +kernel, by decide +kernel⟩, by decide +kernel,
    by decide +kernel⟩

def tChan (c : Chan) : State := tCu (fun x => { x with msg := { x.msg with chans := [(1, c)] } })
def tSend : SendJob := ⟨20, 0, 1⟩

/-- Ring 0 of CU 0 holds 8 units from word 4 on, and every cluster may write there. -/
def tRing (m : Msg) : State :=
  (((tCu (fun x => { x with msg := m, sync := ⟨[(6, 1)], [], []⟩ })).setReg (.ring 0 0) 0xBCC60004).setReg (.cuWin 0 0 0) 0xF0000000).setReg (.cuWin 0 0 1) 64

theorem witness_messages : (∃ s : State, s.engineRuns 0 = true ∧ Assoc.get Chan.reset (s.cu 0).msg.chans 1 = { Chan.reset with queue := [tSend] } ∧ 0 < tSend.units) ∧
    (Inv (tRing Msg.reset) ∧ ((tRing Msg.reset).rtr (0 / 4)).ejected = [] ∧ (tRing Msg.reset).stale 1 = false ∧ 0 = (tRing Msg.reset).active ∧ ((tRing Msg.reset).ringCfg 0 0).en = true ∧
      ((tRing Msg.reset).cuWins 0).any (fun w => w.admits 0 true (16 * ((tRing Msg.reset).ringCfg 0 0).base) (16 * ((tRing Msg.reset).ringCfg 0 0).units) (.cluster 0)) = true ∧
      (placeIn Ring.reset ((tRing Msg.reset).ringCfg 0 0).units 1).isSome = true ∧ (tRun.ringCfg 0 0).en = false) ∧
    (∃ s : State, s.stale 1 = false ∧ (s.ringCfg 0 0).en = true ∧ (s.rtr 0).ejected = [] ∧ (s.cu 0).msg.tracker 9 1 = none ∧
      16 ≤ ((s.cu 0).msg.trackers.filter (fun x => !x.unheld)).length ∧
      (s.cuWins 0).any (fun w => w.admits 0 true (16 * (s.ringCfg 0 0).base) (16 * (s.ringCfg 0 0).units) (.cluster 0)) = true) ∧
    (∃ s : State, ∃ x : Tracker, Inv s ∧ (s.cu 0).msg.trackers = [x] ∧ x.src = 8 ∧ x.chan = 1 ∧ x.status = 0 ∧ 16 ∉ x.got ∧ 1 < x.left) ∧
    (∃ s : State, s.engineRuns 0 = true ∧ (Assoc.get Chan.reset (s.cu 0).msg.chans 1).flying = true ∧ (Assoc.get Chan.reset (s.cu 0).msg.chans 1).retryAt = none ∧
      (s.regN (.chan 0 1 1)).testBit 31 = false ∧ (Assoc.get Chan.reset (s.cu 0).msg.chans 1).retries < s.regN (.chan 0 1 0) / 2 ^ 27 % 2 ^ 4) ∧
    (∃ s : State, s.engineRuns 0 = true ∧ (Assoc.get Chan.reset (s.cu 0).msg.chans 1).retryAt = some 40 ∧ 40 ≤ (s.masterTime 40).clk.ns) ∧
    (∃ s : State, (s.bayTime 0 5).engineRuns 0 = true ∧ (s.ringCfg 0 0).en = true ∧ (Assoc.get Ring.reset (s.cu 0).msg.rings 0).held = (1, false) :: [] ∧
      (s.cu 0).sync.recent = [] ∧ 0 < Assoc.get 0 (s.cu 0).sync.banks (syncKey s.active (s.ringCfg 0 0).relCounter)) :=
  ⟨⟨tChan { Chan.reset with queue := [tSend] }, by decide +kernel⟩, ⟨by unfold Machine.Inv; decide +kernel, by decide +kernel⟩,
    ⟨tRing { Msg.reset with trackers := List.replicate 16 ⟨8, 1, 0, 0, 0, 40, [0], 24, false⟩ }, by decide +kernel⟩,
    ⟨tRing { Msg.reset with trackers := [⟨8, 1, 0, 0, 0, 40, [0], 24, false⟩] }, ⟨8, 1, 0, 0, 0, 40, [0], 24, false⟩, by unfold Machine.Inv; decide +kernel, by decide +kernel⟩,
    ⟨(tChan { Chan.reset with queue := [tSend], flying := true, injected := 16 }).setReg (.chan 0 1 0) 0x78000000, by decide +kernel⟩,
    ⟨tChan { Chan.reset with queue := [tSend], flying := true, injected := 16, retryAt := some 40 }, by decide +kernel⟩,
    ⟨tRing { Msg.reset with rings := [(0, ⟨1, [(1, false)]⟩)] }, by decide +kernel⟩⟩

/-! ### Launch entries, external memory, the host -/

/-- Entry 2 is armed for time 8 of stitch 1 with action word `a`. -/
def tEntry (a : Reg) : State :=
  (tState.modBay 0 (fun y => { y with entries := [(2, ⟨2 ^ 24 + 8, true, 1, false, 1, none, none⟩)] })).setReg (.launchAction 0 2) a

theorem witness_launch : ((0x40000000 : BitVec 32).toNat / 2 ^ 30 ≠ 0 ∧ (0x3FFFFFFF : BitVec 32).toNat / 2 ^ 30 = 0 ∧ (tState.bay 0).power = .active) ∧
    (((tEntry 0x40003004).bayTime 0 9).launchDue 0 2 = true ∧ (∀ i, i < 2 → ((tEntry 0x40003004).bayTime 0 9).launchDue 0 i = false) ∧
      (Assoc.get LaunchEntry.reset ((tEntry 0x40003004).bay 0).entries 2).late = false ∧ (tEntry 0x40003004).regN (.launchAction 0 2) / 2 ^ 30 % 4 = 1 ∧
      (tEntry 0x40003004).regN (.launchAction 0 2) / 2 ^ 19 % 2 ^ 6 < 36 ∧ clusterIn 0 0 0 = 0) ∧
    ((tState.unreached (.launchAction 1 7)).isSome = true ∧ (tEntry 0xC0000000).regN (.launchAction 0 2) / 2 ^ 30 % 4 = 3 ∧ ((tEntry 0xC0000000).bayTime 0 9).launchDue 0 2 = true) := by decide +kernel

def tPage : VPage := ⟨0x20000, 0, [1], [2], [], none⟩
def tPaged : State := { tHbm with hbm := { tHbm.hbm with pages := [tPage] } }

/-- The word at external address 64 has the error pattern `e`. -/
def tErr (e : List (Nat × Byte)) : State := { tHbm with errs := [(4, e)] }

def tHbmReq : MeshPacket := ⟨0, 0, 0, 1, 3, 1, .cluster 0, 4, 64, []⟩

theorem witness_external : (Inv tHbm ∧ (tHbm.rtr (tHbm.hbmRouter 64)).ejected = [] ∧ (List.replicate 16 (1 : Byte)).length = 16 ∧ 64 + 16 ≤ tHbm.capacity ∧ tHbm.hbm.pages = [] ∧
      tHbm.hbmFailed 64 = false ∧ (tHbm.hbmPlace 64).stack = 0) ∧
    (Inv tPaged ∧ tPaged.pageOf 0x20200 = some tPage ∧ tPaged.pageOf (0x20200 + 15) = some tPage ∧ 0x20200 + 16 ≤ tPage.base + 0x10000 ∧ (0x20200 - tPage.base) / 256 ∈ tPage.wr ∧
      tPaged.hbmFailed (tPaged.hbmShadowAt 0x20200) = false) ∧
    ((tErr [(1, 1)]).errs.get [] (64 / 16) = [(1, 1)] ∧ (tErr [(1, 1), (2, 1)]).errs.get [] (64 / 16) = [(1, 1), (2, 1)] ∧
      (tErr [(1, 1), (2, 1)]).stitch.votes.find? (192 + 0) = none ∧ Assoc.get 0 (tErr [(1, 1), (2, 1)]).hbm.voids 0 = 0) ∧
    (∃ s : State, (s.rtr (s.hbmRouter 64)).ejected = [.request tHbmReq] ∧ 64 + 16 ≤ s.capacity) ∧
    (∃ s : State, 0 ∈ s.hbm.mapped ∧ Assoc.get 0 s.hbm.recals 0 = 1 ∧ s.stitch.session = true ∧ 0 ∉ s.hbm.failed) ∧
    (tHbm.stripeAddr 0 0 = 0 ∧ Assoc.get 0 tHbm.hbm.patrol 0 = 0 ∧ (∀ i, i < 32 → tHbm.errs.get [] ((0 + 16 * i) / 16) = []) ∧
      (∀ i, i < 32 → i ≠ 4 → (tErr [(1, 1)]).errs.get [] ((0 + 16 * i) / 16) = [])) :=
  ⟨⟨tHbm_inv, by decide +kernel⟩, ⟨by unfold Machine.Inv; decide +kernel, by decide +kernel⟩, by decide +kernel,
    ⟨tHbm.setRtr 0 { Rtr.reset with ejected := [.request tHbmReq] }, by decide +kernel⟩,
    ⟨{ tHbm with hbm := { tHbm.hbm with recals := [(0, 1)] } }, by decide +kernel⟩, by decide +kernel⟩

/-- Ronnus has agreed; pair 0 is on with rings of 8 entries; channel 0 has a ring, tail `n`. -/
def tHost (n : Reg) (x : HDma) : State :=
  (({ tHbm with host := { HostSt.reset with linkUp := true, dma := [(0, x)] } } : State).setReg (.ver 0 4) 0x80010000 |>.setReg (.qp 0 .cfg) 0x80000063 |>.setReg (.dma 0 .ringCfg) 0x80000004).setReg
    (.dma 0 .tail) n

theorem witness_queues : ((1 : Nat) ≤ (0x01010000 : BitVec 32).toNat / 2 ^ 24 ∧ (0x01010000 : BitVec 32).toNat / 2 ^ 16 % 2 ^ 8 ≤ 1 ∧ (0x00010000 : BitVec 32).toNat / 2 ^ 24 = 0 ∧
      1 < (0x03020000 : BitVec 32).toNat / 2 ^ 16 % 2 ^ 8) ∧
    ((tHost 0 HDma.reset).ronnus = true ∧ (tHost 0 HDma.reset).qpOn 0 = true ∧ dist32 ((tHost 0 HDma.reset).regN (.qp 0 .inTail)) 0 ≤ dist32 8 0 ∧
      dist32 8 0 ≤ (tHost 0 HDma.reset).qpInSize 0 ∧ (tHost 0 HDma.reset).qpInSize 0 < dist32 9 0 ∧ tState.ronnus = false) ∧
    (dist32 0 0 ≤ dist32 ((tHost 0 HDma.reset).regN (.qp 0 .outTail)) 0 ∧ dist32 ((tHost 0 HDma.reset).regN (.qp 0 .outTail)) 0 < dist32 1 0) := by decide +kernel

/-- Descriptors of 16 bytes: to the host, from the host, and one beyond the memory. -/
def tToHost : List (BitVec 32) := [4096, 0, 64, 0, 15, 1, 0, 0]
def tFromHost : List (BitVec 32) := [4096, 0, 64, 0, 15, 0, 0, 0]
def tBeyond : List (BitVec 32) := [4096, 0, 0xFFFFFFF0, 0, 15, 1, 0, 0]

theorem witness_channels : ((tHost 0 ⟨false, true, 0, [], [], 0⟩).hdma 0).halted = true ∧
    (((tHost 1 HDma.reset).hdma 0).running = false ∧ ((tHost 1 HDma.reset).hdma 0).halted = false ∧ ((tHost 1 HDma.reset).regN (.dma 0 .ringCfg)).testBit 31 = true ∧
      (tHost 1 HDma.reset).regN (.dma 0 .tail) ≠ ((tHost 1 HDma.reset).hdma 0).done ∧ (tHost 1 HDma.reset).hbm.scrubbing = false ∧
      (tHost 1 HDma.reset).dmaCheck (dmaDescrOf tToHost) = 0 ∧ (tHost 1 HDma.reset).capacity < (dmaDescrOf tBeyond).dev + (dmaDescrOf tBeyond).len) ∧
    (((tHost 1 ⟨true, false, 0, tToHost, [], 0⟩).hdma 0).running = true ∧ 0 < (dmaDescrOf tToHost).len ∧ 0 < (tHost 1 HDma.reset).reserved 0) ∧
    ((dmaDescrOf tToHost).toHost = true ∧ ((dmaDescrOf tToHost).dev + 0) % 16 = 0 ∧ (tHost 1 HDma.reset).pageOf 64 = none ∧ (tHost 1 HDma.reset).hbmFailed 64 = false ∧
      ((tHost 1 ⟨true, false, 0, tToHost, [(0, 16)], 16⟩).hdma 0).buffers = (0, 16) :: []) ∧
    (((tHost 1 ⟨true, false, 0, tFromHost, [(0, 16)], 16⟩).hdma 0).buffers ≠ [] ∧ (dmaDescrOf tFromHost).toHost = false) ∧
    ((dmaDescrOf tToHost).len ≤ 16 ∧ (dmaDescrOf tToHost).sig = false ∧ (dmaDescrOf tToHost).evt = false ∧ (dmaDescrOf [4096, 0, 64, 0, 15, 3, 0, 0]).evt = true) ∧
    ((tHost 0 HDma.reset).regN (.dma 0 .tail) = 0 ∧ (tHost 0 HDma.reset).reservedSum - (tHost 0 HDma.reset).reserved 0 + 1040 ≤ 2048 ∧
      2048 < (tHost 0 HDma.reset).reservedSum - (tHost 0 HDma.reset).reserved 0 + 1041) := by decide +kernel

def tReport : Report := ⟨100, 8, 1, 2, 3, 4, 5⟩

/-- The ring of 2^6 records is enabled when `on`; `pend` waits. -/
def tEvents (on : Bool) (pend : Assoc Nat (Report × Nat)) : State :=
  ({ tState with evt := { Evt.reset with inflight := [tReport], pending := pend } } : State).setReg (.evt .ringCfg) (if on then 0x80000006 else 6)

theorem witness_round_robin : (3 : Nat) < 5 ∧ (tEvents true []).evt.ptr < 4096 ∧ 100 = ((tEvents true []).evt.ptr + 100) % 4096 ∧
    (∃ x ∈ (tEvents true []).evt.inflight, x.source = 100) ∧ (∀ x ∈ (tEvents true []).evt.inflight, ∀ j, j < 100 → x.source ≠ ((tEvents true []).evt.ptr + j) % 4096) ∧
    tState.evt.inflight = [] := by decide +kernel

theorem witness_events : (Inv (tEvents true []) ∧ (tEvents true []).claimOf 100 = none ∧ ((tEvents true []).regN (.evtSrc 100)).testBit 31 = true ∧
      (tEvents true []).ringSize = some 64 ∧ Assoc.find? (tEvents true []).evt.pending 100 = none ∧ (tEvents true []).ringRoom = true) ∧
    (∃ s : State, s.evt.inflight = [tReport] ∧ s.ringSize = some 64 ∧ s.ringRoom = false) ∧
    (Assoc.find? (tEvents true [(100, (tReport, 2))]).evt.pending 100 = some (tReport, 2) ∧ (tEvents true [(100, (tReport, 2))]).ringRoom = true) ∧
    (tReport.source < 4096 ∧ tReport.kind < 256 ∧ tReport.ts < 2 ^ 64 ∧ tReport.w0 < 2 ^ 32) ∧
    (∃ s : State, (s.claim 0).frozen = false ∧ (s.claim 0).pend = [367] ∧ (s.claim 0).stack = []) ∧ ((tState.claim 1).pend = [] ∧ (tState.claim 1).frozen = false) ∧
    (∃ s : State, (s.claim 0).frozen = false ∧ (s.claim 0).stack = 367 :: []) :=
  ⟨⟨by unfold Machine.Inv; decide +kernel, by decide +kernel⟩,
    ⟨{ tEvents true [] with evt := { (tEvents true []).evt with tail := 64 } }, by decide +kernel⟩, by decide +kernel, by decide +kernel,
    ⟨tState.setClaim 0 { Claims.reset with pend := [367], recs := [(367, (tReport, 1))] }, by decide +kernel⟩, by decide +kernel,
    ⟨tState.setClaim 0 { Claims.reset with stack := [367] }, by decide +kernel⟩⟩

/-! ### Optical links, twins, power -/

def tFlit (ty seq : Nat) : CasrikFlit := ⟨ty, seq, 9, false, 0, 0, 0, 0x20, [7]⟩

/-- Site 0 is up on two wavelengths. -/
def tSite (f : Site → Site) : State :=
  { tState with sites := [(0, f { Site.reset with up := true, train := 2, wl := 3, credits := [32, 1024, 1024], owed := [0, 0, 0] })] }

theorem witness_optical : (((tSite id).site 0).up = true ∧
    ((tSite (fun x => { x with outq := [tFlit 3 0] })).site 0).outq = [tFlit 3 0] ∧ 0 < ((tSite id).site 0).credits.getD (flitClass 3) 0 ∧
    (((tSite id).site 0).void = 0 ∧ (tSite id).stitch.votes.find? (216 + 0) = none) ∧ ((tFlit 1 2).seq ≠ (((tSite id).site 0).rxSeq + 1) % 4096 ∧ (tFlit 5 2).type < 6)) ∧
    (∃ s : State, Inv s ∧ (s.site 0).up = true ∧ (tFlit 3 1).seq = ((s.site 0).rxSeq + 1) % 4096 ∧ (s.site 0).owed.length = 3 ∧ (tFlit 3 1).spec.toNat / 2 ^ 4 % 2 ^ 28 = 2 ∧
      (s.regN (.optImport 0 0 0)).testBit 31 = true ∧ 2 < 4096 * (s.regN (.optImport 0 0 0) % 2 ^ 16) ∧ s.hbmFailed 32 = false) ∧
    (((tSite id).site 0).wl.getLsbD 1 = true ∧ ((tSite id).site 0).wl &&& ~~~(BitVec.ofNat 8 (2 ^ 1)) ≠ 0 ∧ ((tSite id).site 0).wl.getLsbD 7 = false) ∧
    (∃ s : State, (s.site 0).up = true ∧ s.stitch.session = true ∧ s.stitch.kind = .work ∧ s.stitch.phase = .before ∧ (s.masterTime 5).exportDue 0 15 = true ∧
      (∀ e, e < 16 → e ≠ 15 → (s.masterTime 5).exportDue 0 e = false)) :=
  ⟨by decide +kernel,
    ⟨(tSite id).setReg (.optImport 0 0 0) 0x80000001, by unfold Machine.Inv; decide +kernel, by decide +kernel⟩, by decide +kernel,
    ⟨(tSite id).setReg (.optExport 0 15 0) 0x80000005, by decide +kernel⟩⟩

/-- A twin in state `k`; sites 94 and 95 are up. -/
def tTwin (k : Nat) (f : Twin → Twin) : State :=
  { tState with twin := f { Twin.reset with state := k }, sites := [(94, { Site.reset with up := true }), (95, { Site.reset with up := true })] }

theorem witness_twins : ((tTwin 2 (fun x => { x with openSeq := some 3 })).twin.openSeq = some 3 ∧ (tTwin 2 id).siteA ≠ (tTwin 2 id).siteB ∧ ((tTwin 2 id).site (tTwin 2 id).siteA).up = true ∧
      ((tTwin 2 id).site (tTwin 2 id).siteB).up = true ∧ (tTwin 2 id).twin.started = false) ∧
    ((tTwin 2 (fun x => { x with openSeq := some 3, started := true, frozen := [64] })).twin.frozen = [64] ∧
      (tTwin 2 (fun x => { x with openSeq := some 3, started := true, attached := true })).twin.frozen = []) ∧
    ((tTwin 3 id).twin.state = 3 ∧ (tTwin 2 (fun x => { x with mgmtSeen := true })).twin.mgmtSeen = true ∧ (tTwin 2 id).twin.misses < 2 ∧
      (tTwin 2 (fun x => { x with misses := 2 })).twin.misses = 2) ∧
    ((tTwin 3 id).twin.openSeq = none ∧ (tTwin 2 id).twin.state ≠ 3) ∧
    (MailboxFree (tTwin 0 id) ∧ majorOk 1 1 = true ∧ (tTwin 0 id).twin.state ≠ 2 ∧ (tTwin 0 id).twin.state ≠ 3) ∧
    (∃ s : State, MailboxFree s ∧ s.siteA = s.siteB) ∧ (∃ s : State, MailboxFree s ∧ s.twin.state = 2 ∧ s.twin.openSeq ≠ none) :=
  ⟨by decide +kernel, by decide +kernel, by decide +kernel, by decide +kernel, ⟨by unfold MailboxFree; decide +kernel, by decide +kernel⟩,
    ⟨tState.setReg (.twin .cfg) 0, by unfold MailboxFree; decide +kernel, by decide +kernel⟩,
    ⟨tTwin 2 (fun x => { x with openSeq := some 3 }), by unfold MailboxFree; decide +kernel, by decide +kernel⟩⟩

theorem witness_regulators : (15 < 16 ∧ railUp (tState.bay 0).power = true ∧ tState.regN (.phaseFail 0 0) = 0 ∧ (tState.bay 0).modes.grade ≤ min 10 tState.variantCeiling ∧
      (tState.bay 0).power ≠ .dark) ∧ (tState.panel 0).fabricOn = true ∧
    ((tState.regN (.bay 0 .pwrVmin)).testBit 31 = false ∧ (∃ s : State, (s.bay 0).power = .active ∧ (s.regN (.bay 0 .pwrVmin)).testBit 31 = true ∧
      s.regN (.bay 0 .pwrVmin) % 4096 = 700)) ∧ 699 < 700 ∧ 700 ≤ 700 :=
  ⟨by decide +kernel, by decide +kernel, ⟨by decide +kernel, ⟨tState.setReg (.bay 0 .pwrVmin) (0x80000000 + 700), by decide +kernel⟩⟩, by decide +kernel, by decide +kernel⟩

theorem witness_governor :
    (∃ s : State, (s.bay 0).power = .active ∧ ((s.bayTime 0 160).bay 0).upCycles % 32 = 0 ∧ ((s.bayTime 0 160).bay 0).upCycles ≠ (s.bay 0).gov.lastRiseTick ∧ (s.bay 0).gov.armed = false ∧
      128 ≤ ((s.bayTime 0 160).bay 0).gov.sinceRise ∧ 0 < (s.bay 0).gov.heldSinceRise ∧ (s.bay 0).gov.level < s.lmax 0) ∧
    (((tState.bayTime 0 128).bay 0).upCycles % 128 = 0 ∧ ((tState.bayTime 0 128).bay 0).upCycles ≠ (tState.bay 0).gov.lastFallTick) ∧
    (∃ x : PowerSample, ∃ g : Nat, g = tState.moduleCap - (x.ioW + x.auxW) - x.fabW - 192 ∧ g < 65536) ∧
    (2048 * (tState.bay 0).modes.capFrac / 1024 < 65536 ∧ (tState.bay 0).throttled = false ∧ 95 ≤ 95 ∧ 95 < 105 ∧ 105 ≤ 105) :=
  ⟨⟨tState.modBay 0 (fun y => { y with gov := { y.gov with heldSinceRise := 1 } }), by decide +kernel⟩, by decide +kernel,
    ⟨⟨0, 100, 10, 500, 0, 0, 0, 0, 0, [], []⟩, 22698, by decide +kernel⟩, by decide +kernel⟩

/-! ### Store and security -/

/-- The store's queue holds a record of type `k`. -/
def tStore (k : Nat) : State := { tIdle with store := { Store.reset with queue := [⟨k, 0, 257⟩] } }

theorem witness_store : (∃ s : State, s.rel.updating = some (0, 3, 5) ∧ s.store.queue.any (fun e => e.type == 1) = true) ∧
    (∃ s : State, s.rel.updating = some (0, 3, 5) ∧ s.store.queue.any (fun e => e.type == 1) = false ∧ s.rel.queue = []) ∧
    ((tStore 1).store.queue = ⟨1, 0, 257⟩ :: [] ∧ (tStore 2).store.queue.length = 1 ∧ (tStore 4).store.queue.length = 1 ∧ (tStore 3).store.queue.length = 1) ∧
    4 ≤ tIdle.freeSectors ∧ (∃ s : State, s.freeSectors < 4 ∧ 1 < s.writtenSectors) :=
  ⟨⟨{ tStore 1 with rel := { Rel.reset with updating := some (0, 3, 5) } }, by decide +kernel⟩,
    ⟨{ tIdle with rel := { Rel.reset with updating := some (0, 3, 5) } }, by decide +kernel⟩, by decide +kernel, by decide +kernel,
    ⟨{ tIdle with store := { Store.reset with head := 2048 * logSectors } }, by decide +kernel⟩⟩

def tSpdm (stage session : Nat) (f : Spdm → Spdm) : State := { tIdle with spdm := f { Spdm.reset with stage := stage, session := session } }

theorem witness_spdm : ((tSpdm 0 0 id).spdmOn = true ∧ (tSpdm 0 0 id).spdm.stage < 1 ∧ 1 ≤ (tSpdm 1 0 id).spdm.stage ∧ 2 ≤ (tSpdm 2 0 id).spdm.stage ∧ 3 ≤ (tSpdm 3 0 id).spdm.stage) ∧
    ((tSpdm 3 0 id).measurement 1).isSome = true ∧ (tSpdm 3 0 id).spdm.transcript = none ∧
    (∃ s : State, 3 ≤ s.spdm.stage ∧ s.spdm.transcript = some 5 ∧ 2 ^ 30 ≤ s.spdm.lmsUsed) ∧
    (∃ s : State, 3 ≤ s.spdm.stage ∧ s.spdm.transcript = some 5 ∧ s.spdm.lmsUsed < 2 ^ 30 ∧ s.spdm.lmsUsed < s.spdm.lmsReserved) ∧
    (∃ s : State, 3 ≤ s.spdm.stage ∧ s.spdm.transcript = some 5 ∧ s.spdm.lmsUsed < 2 ^ 30 ∧ s.spdm.lmsReserved ≤ s.spdm.lmsUsed) ∧
    ((tSpdm 3 0 id).spdm.session = 0 ∧ (tSpdm 3 1 id).spdm.session = 1 ∧ (tSpdm 3 1 id).spdm.session ≠ 0) :=
  ⟨by decide +kernel, by decide +kernel, by decide +kernel,
    ⟨tSpdm 3 0 (fun x => { x with transcript := some 5, lmsUsed := 2 ^ 30 }), by decide +kernel⟩,
    ⟨tSpdm 3 0 (fun x => { x with transcript := some 5, lmsReserved := 1024 }), by decide +kernel⟩,
    ⟨tSpdm 3 0 (fun x => { x with transcript := some 5 }), by decide +kernel⟩, by decide +kernel⟩

/-- A request of slot 5 and digest 77, bound to nonce 0 and module `serial`. -/
def tSigned (serial : Nat) : SignedRequest := ⟨manifestOf 4 0 0 0 (leBytes 8 serial ++ leBytes 32 0 ++ leBytes 1 5 ++ leBytes 48 77)⟩

theorem witness_signed : ((tSpdm 3 0 id).spdm.session ≠ 2 ∧ (tSpdm 3 2 id).spdm.session = 2 ∧ (tSpdm 3 2 id).spdmOn = true ∧
      (tSpdm 3 2 id).bound? (tSigned 2) = false ∧ (tSigned 1).nonce = (tSpdm 3 2 id).spdm.nonce ∧ (tSigned 1).serial = (tSpdm 3 2 id).fuses.serial ∧
      (tSigned 1).manifest.header ∉ (tSpdm 3 2 id).spdm.tokens) ∧
    ((tSpdm 3 2 id).accepts 4 false (tSigned 1).manifest = true ∧ (tSpdm 3 2 id).accepts 4 true (tSigned 1).manifest = true ∧ 4 ≤ (tSigned 1).slot ∧ (tSigned 1).slot < 8 ∧
      (tSpdm 3 2 id).slotProvisioned (tSigned 1).slot = false) ∧
    ((tSpdm 3 2 (fun x => { x with grant := true })).spdm.grant = true ∧ (tSpdm 3 2 id).stitch.session = false) ∧
    (∀ k, k < 2 → (tSpdm 3 2 id).signedOk k false (manifestOf k 0 0 0 []) = true) ∧
    ((tSpdm 3 2 id).contentOk 0 (manifestOf 0 0 0 0 []) = true ∧ (tSpdm 3 2 id).contentOk 1 (manifestOf 1 0 0 0 []) = true) ∧
    (∃ s : State, s.spdm.session = 2 ∧ s.spdmOn = true ∧ s.stitch.session = true) :=
  ⟨by decide +kernel, by decide +kernel, by decide +kernel, by decide +kernel, by decide +kernel, ⟨{ tState with spdm := { Spdm.reset with session := 2 } }, by decide +kernel⟩⟩

/-- A diagnostic read of scratchpad word 0 is in progress, with a grant. -/
def tDiag : State := tSpdm 3 2 (fun x => { x with grant := true, diag := some (spAddr 0 0) })

/-- The session has taken the request already. -/
theorem witness_token : ∃ s : State, s.spdm.session = 2 ∧ s.bound? (tSigned 1) = true ∧ (tSigned 1).manifest.header ∈ s.spdm.tokens :=
  ⟨tSpdm 3 2 (fun x => { x with tokens := [(tSigned 1).manifest.header] }), by decide +kernel⟩

theorem witness_diag : ((1 : Reg).getLsbD 0 = true ∧ (tSpdm 3 2 (fun x => { x with grant := true })).spdm.diag = none ∧ (2 : Reg).getLsbD 0 = false) ∧
    ((tSpdm 3 2 (fun x => { x with diag := some 64 })).diagStatus 64 ≠ 0 ∧ tDiag.diagStatus (spAddr 0 0) = 0 ∧ storageAt (addrOffset (spAddr 0 0)) = .scratchpad 0 0 ∧
      (tDiag.decodeAt (spAddr 0 0)).verdict ≠ 2 ∧ (({ tDiag with errs := [(spAddr 0 0 / 16, [(0, 1), (1, 1)])] } : State).decodeAt (spAddr 0 0)).verdict = 2) := by
  decide +kernel

theorem witness_supplies' : tState.sup.ioIn = true ∧ tState.sup.auxIn = true ∧ (4 : BitVec 4).getLsbD 2 = true ∧ (8 : BitVec 4).getLsbD 3 = true ∧
    ((12 : BitVec 4).getLsbD 1 && tState.sup.mainIn || (12 : BitVec 4).getLsbD 2 && tState.sup.ioIn || (12 : BitVec 4).getLsbD 3 && tState.sup.auxIn) = true := by decide +kernel

theorem witness_main_in : ∃ s : State, s.sup.bootStep = 3 ∧ s.sup.bootFailed = false ∧ s.sup.mainEnable = false ∧ s.sup.seq ≠ 7 ∧ s.sup.mainIn = true :=
  ⟨{ tBoot3 with sup := { tBoot3.sup with j1In := true, j2In := true } }, by decide +kernel⟩

def tRecords : State := { tLinks with store := { tLinks.store with creaseNow := { Crease.blank with
  stackRecs := [(0, ⟨1, Config.stackSerial 0, true, []⟩)], sites := [(0, ⟨1, 5, true⟩)] } } }
theorem witness_records : (tRecords.stackRecord 0).isSome = true ∧ (tRecords.siteRecord 0 5).isSome = true ∧ tLinks.stackRecord 0 = none :=
  ⟨by simp [State.stackRecord, tRecords, Assoc.find?], by decide +kernel, by decide +kernel⟩

theorem witness_pcie' : tState.host.linkUp = true ∧ tIdle.host.linkUp = true ∧ 16 ∈ [1, 2, 4, 8, 16] ∧
  (tState.setReg (.host .link) 0x1005).regN (.host .link) = 16 % 256 * 2 ^ 8 + 5 % 16 := by decide +kernel

theorem witness_offsets' : tState.host.linkUp = true ∧ tState.host.held = [] ∧ (∃ id, ctlReg 4 = some (id, 0) ∧ plainKind id = true ∧ isReg64 id = false ∧ tState.unreached id = none ∧
      (tState.masterTime 5).hwAt id = none) ∧ tState.windowDark 4 = false ∧ 0x200000 % 8 = 0 ∧
    (∃ id, ctlReg 0x200000 = some (id, 0) ∧ isReg64 id = true) ∧ tState.windowDark 0x200000 = false :=
  ⟨by decide +kernel, by decide +kernel, ⟨(ctlReg 4 |>.getD (.twin .cfg, 0)).1, by decide +kernel⟩, by decide +kernel, by decide +kernel,
    ⟨(ctlReg 0x200000 |>.getD (.twin .cfg, 0)).1, by decide +kernel⟩, by decide +kernel⟩

/-- The peer's token has come: site 3 is up. -/
def tPeer (len : Nat) : State := { (tFed.modSite 3 (fun x => { x with up := true, tokens := [1] })) with stitch := { tEnded.stitch with len := len } }

theorem witness_boundary : (tPeer 10000).tokensMissing = [] ∧ (tPeer 10000).feedPeers ≠ [] ∧ (tPeer 10000).stitch.len < ((tPeer 10000).masterTime 10000).clk.ns + 48 ∧
    ((tPeer 10048).masterTime 10000).clk.ns + 48 = (tPeer 10048).stitch.len ∧ (tPeer 10048).stitch.session = true ∧ (tPeer 10048).stitch.phase ≠ .before := by decide +kernel

theorem witness_started : ((tRun.modBay 0 (fun y => { y with inStitch := false, ctxs := [0] })).outOfDate 0 = false) ∧ 0 ∈ tRun.busyCus 0 ∧ 0 ∈ (tRun.setMu 0 Mu.reset).busyMus 0 ∧
    (5 : Nat) ≠ 0 := by decide +kernel

theorem witness_hem' : (tHem 7411).voterIn 0 = true ∧ (tHem 7603).voterIn 0 = true ∧ (tHem 7539).voterIn 0 = true := by decide +kernel

theorem witness_exports : ∃ s : State, (s.site 0).up = true ∧ (s.site 0).void = 0 ∧ Assoc.find? s.stitch.votes 216 = none ∧ s.exportsOpen 0 = 1 :=
  ⟨{ (tState.setReg (.optExport 0 15 0) 0x80000005) with sites := [(0, { Site.reset with up := true })], ctxs := [(0, { tCtx with image := { tImage with sites := [⟨0, false, 2, 0, 0⟩] } })] }, by decide +kernel⟩

theorem witness_clocked : 0 ∈ clockedBays (tModes false) ∧ (((tModes false).setReg (.stitch .modeSel) 4).setReg (.stitch .modeArg) 1).regN (.stitch .modeSel) % 16 = 4 := by decide +kernel

theorem witness_unused : tState.twin.frozen = [] ∧ { tVecOp with pred := true }.pred = true ∧ tVecOp.pred = false ∧ (tLane { Seq.start with pred := false }).laneFree 0 = true ∧
    ((tLane { Seq.start with pred := false }).cu 0).seq.pred = false := by decide +kernel

theorem witness_streams : (∃ s : State, (s.bayTime 0 5).muWorks 0 = true ∧ (s.mu 0).gens = [(0, ⟨[⟨0, 1, 0, 4⟩], none, 0, some 4, 0⟩)] ∧
      (s.agDesc 0 1).meets ((s.bayTime 0 5).dspPorts 0) = false ∧ (∀ h, h < 4 → h ≠ 0 → (Assoc.get Gen.reset (s.mu 0).gens h).queue = [] ∧
        (Assoc.get Gen.reset (s.mu 0).gens h).run = none)) ∧
    (tAgRun (tAg 1 0 true)).busyAt 5 = false ∧ { tAgRun (tAg 1 0 true) with stamp := 6 }.busyAt 5 = true :=
  ⟨⟨tRun.setMu 0 { Mu.reset with gens := [(0, ⟨[⟨0, 1, 0, 4⟩], none, 0, some 4, 0⟩)] }, by decide +kernel⟩, by decide +kernel, by decide +kernel⟩

theorem witness_seam_bays : (tState.bay (bayOfCu 1)).power = .active ∧ tState.ctx? tState.active = some tCtx ∧ bayOfCu 1 ∈ tCtx.image.bays ∧
    (∃ s : State, (s.bayTime 0 5).engineRuns 125 = true ∧ isSeam 125 1 = true ∧ neighbour 125 1 = some 128 ∧ Assoc.get [] (s.cu 125).fab.returning 1 = [4] ∧
      (s.bay (bayOfCu 128)).power ≠ .active) :=
  ⟨by decide +kernel, rfl, by decide +kernel, ⟨tState.setCu 125 { Cu.reset with fab := { Fab.reset with returning := [(1, [4])] } }, by decide +kernel⟩⟩

theorem witness_stage_runs : ((tDsp 0x80000000 { Dsp.reset with waiting := [0] } (some tPass)).bayTime 0 5).stageRuns 0 = true ∧
    ((tDsp 0x80000000 { Dsp.reset with waiting := [0] } (some tPass)).bayTime 0 5).stageSent 0 = true ∧ (0 : Nat) < 2 ^ 11 := by decide +kernel

theorem witness_routes : (tPowered.reachable 0 0 = true ∧ tPowered.controlRouter ≠ 0 ∧ (tPowered.rtr 0).waits = [] ∧ (∀ cl, cl < 3 → vcFree ((tPowered.rtr 0).buf (bufKey 5 cl 0)) = true)) ∧
    (∃ s : State, s.reachable 0 0 = false) ∧
    (tPowered.reachable tPowered.controlRouter tPowered.controlRouter = true ∧ tPowered.mcRefused { tOutside 1 with src := tPowered.controlRouter } = false) :=
  ⟨by decide +kernel, ⟨tPowered.setReg (.panelRoute 0 0) 0, by decide +kernel⟩, by decide +kernel⟩

theorem witness_answers : tRun.portHeld 0 2 6 = false ∧ siteAt 0 = none ∧ tWindow.portHeld 0 6 0 = false ∧ ((tEntry 0x40003004).bayTime 0 9).launchVoid 0 = false := by decide +kernel

theorem witness_served : (tPowered.rtr 0).waits = [] ∧ vcFree ((tPowered.rtr 0).buf (bufKey 5 1 0)) = true ∧ flitsIn ((tPowered.rtr 0).buf (bufKey 5 1 0)) < 8 ∧
    tHbm.hbmRouter 64 = 0 ∧ tHbm.reachable 0 0 = true ∧ (tHbm.rtr 0).waits = [] := by decide +kernel

/-- A write of the host's through BAR4 waits for the commit phase. -/
def tWaits (s : State) : State := { s with host := { s.host with held := [.bar4 0 true 4 [1, 2, 3, 4]] } }

theorem witness_doorbells : (tHost 0 HDma.reset).host.linkUp = true ∧ (tHost 0 HDma.reset).host.held.any Held.isWrite = false ∧
    (tWaits (tHost 0 HDma.reset)).host.held.any Held.isWrite = true ∧ State.reset.host.linkUp = false ∧ 64 + 16 ≤ (tHost 0 HDma.reset).capacity := by decide +kernel

theorem witness_ring_head : ((tEvents true []).masterTime 5).ringRoom = true ∧ (tEvents true []).host.linkUp = true ∧ (tEvents true []).host.held.any Held.isWrite = false ∧
    (tWaits tState).host.held.any Held.isWrite = true ∧
    (∃ s : State, s.evt.inflight = [tReport] ∧ s.ringSize = some 64 ∧ (s.masterTime 5).ringRoom = false ∧ s.evt.tail = 64) :=
  ⟨by decide +kernel, by decide +kernel, by decide +kernel, by decide +kernel, ⟨{ tEvents true [] with evt := { (tEvents true []).evt with tail := 64 } }, by decide +kernel⟩⟩

/-- Site 0 is assigned to a peer. -/
def tUsed (s : State) : State := { s with ctxs := [(0, { tCtx with image := { tImage with sites := [⟨0, false, 2, 0, 0⟩] } })] }

theorem witness_carries : (tUsed (tSite id)).carries 0 3 = true ∧ (tUsed (tSite (fun x => { x with outq := [tFlit 3 0] }))).carries 0 (tFlit 3 0).type = true ∧
    ((tSite (fun x => { x with discard := true })).site 0).discard = true ∧ (tFlit 0 0).type = 0 ∧ (∀ e ∈ ((tSite id).site 0).exports, e.desc ≠ 15) := by decide +kernel

/-- What arrives at site 0 goes to page 0 of external memory. -/
def tImports : State := (tUsed { tSite id with hbm := tHbm.hbm, panels := tPowered.panels }).setReg (.optImport 0 0 0) 0x80000001

theorem witness_import : (tImports.regN (.optImport 0 0 0)).testBit 31 = true ∧ tImports.meshDest 32 = some (tImports.hbmRouter 32, true) ∧
    (tImports.rtr (siteRouter 0 (32 / 256 % 16))).waits = [] ∧ vcFree ((tImports.rtr (siteRouter 0 (32 / 256 % 16))).buf (bufKey 5 2 0)) = true ∧
    flitsIn ((tImports.rtr (siteRouter 0 (32 / 256 % 16))).buf (bufKey 5 2 0)) < 8 ∧ tImports.reachable (siteRouter 0 (32 / 256 % 16)) (tImports.hbmRouter 32) = true ∧
    tImports.carries 0 3 = true ∧ tImports.regN (.optImport 0 0 1) % 2 ^ 31 * 2 ^ 17 + 2 / 4096 * 131072 + 0 * 65536 + 2 % 4096 * 16 = 32 ∧
    (tFlit 3 1).spec.toNat / 2 ^ 36 % 2 = 0 := by decide +kernel

theorem witness_attach : (tTwin 0 id).siteA ≠ (tTwin 0 id).siteB ∧ ((tTwin 0 id).site (tTwin 0 id).siteA).up = true ∧ ((tTwin 0 id).site (tTwin 0 id).siteB).up = true ∧
    (tTwin 2 id).host.held = [] ∧ ∃ d, d ≠ (tTwin 0 id).residentDigests := 
  ⟨by decide +kernel, by decide +kernel, by decide +kernel, by decide +kernel, ⟨0 :: (tTwin 0 id).residentDigests, fun h => by simpa using congrArg List.length h⟩⟩

theorem witness_regulators' : (tState.bay 0).modes.nextGrade.getD (tState.bay 0).modes.grade ≤ min 10 tState.variantCeiling ∧ fromHost .trusted = false ∧ fromHost .host = true ∧
    (tState.bayTime 0 5).hwAt (.bay 0 .pwrVmin) = none ∧ tState.sup.ioIn = true ∧
    (∃ s : State, ∃ h, (s.bayTime 0 5).hwAt (.bay 0 .pwrVmin) = some h ∧ (s.bay 0).power = .active ∧ h.old = 0xFFF) :=
  ⟨by decide +kernel, by decide +kernel, by decide +kernel, by decide +kernel, by decide +kernel,
    ⟨{ tState with hw := [(.bay 0 .pwrVmin, ⟨(tState.bayTime 0 5).accessCycle (.bay 0 .pwrVmin), 0xFFF, 700⟩)] }, _, rfl, by decide +kernel, rfl⟩⟩

theorem witness_store' : (tStore 3).store.queue = ⟨3, 0, 257⟩ :: [] ∧ (tStore 6).store.queue.length = 1 ∧ (tStore 5).store.queue.length = 1 ∧ (tStore 4).store.nextTf < 2 := by decide +kernel

theorem witness_diag_paths : Path.bar2 ≠ .host ∧ tState.host.held.any Held.isWrite = false ∧ (tSpdm 3 2 (fun x => { x with grant := true })).host.linkUp = true ∧ Path.host ≠ .bar2 := by decide +kernel

/-- Source: R397, a codeword is a multiple of g(x), so its syndromes are 0; the word of zeros has check symbols of zeros. -/
theorem test_codeword : codeword 0 = 0 ∧ (∀ k, k < 3 → syndrome (codeword 0x0123456789ABCDEF0F1E2D3C4B5A6978) k = 0) ∧
    syndrome (codeword 1 ^^^ 4) 0 = 4 := by decide +kernel

/-! ### The clauses of ports, boot and modes -/

theorem witness_port_end : (∃ s : State, s.sup.ioIn = false ∧ s.sup.rcvActs = true) ∧
    ((1 : BitVec 4).getLsbD 0 = true ∧ tState.sup.mainIn = true ∧ tState.fuses.raising = [] ∧ (8 : BitVec 4).getLsbD 3 = true ∧ tState.sup.rcvActs = false) :=
  ⟨⟨{ State.reset with sup := { Supply.reset with rcvEn := true, rcvActs := true } }, by decide +kernel⟩, by decide +kernel⟩

/-- Bay 0 alone has power and awaits its BIST; `n` boot steps have been reached. -/
def tLast (n : Nat) (tested : Bool) : State := { tRise with
  sup := { tRise.sup with bootStep := n },
  bays := (0, { Bay.reset with power := .active, bist := tested, modes := { BayModes.reset with grade := 5 } }) :: [1, 2, 3].map (fun b => (b, { Bay.reset with power := .dark })) }

theorem witness_last_bay : (((tLast 7 false).bay 0).power = .active ∧ ((tLast 7 false).bay 0).bist = false ∧ (tLast 7 false).store.autostart = none ∧
      (tLast 7 false).sup.bootFailed = false ∧ (tLast 7 false).sup.inventory = false ∧ 24 ≤ (tLast 7 false).hbm.trained.length ∧
      (((tLast 7 false).masterTime 5).mergeBay 0 []).rowLost 0 = false ∧ (tLast 7 false).ctxs = [] ∧ ((tLast 7 false).panel 0).fabricOn = true ∧
      (∀ q, q < 192 → q ≠ 0 → (tLast 7 false).mayRise q = false ∧ (((tLast 7 false).bay q).power ≠ .active ∨ ((tLast 7 false).bay q).bist = true))) ∧
    ((tLast 7 true).bootDone = true ∧ (tLast 8 true).bootDone = true ∧ (tLast 8 true).store.autostart = none) ∧
    (tLinks.store.autostart = none ∧ tRise.allTested = false ∧ 8 ≤ tState.sup.bootStep) := by decide +kernel

/-- An IDE stream is active. -/
def tIde : State := { tState with spdm := { tState.spdm with ide := some ⟨0, [1]⟩ } }

theorem witness_paths : (∀ x, Path.host ≠ .offStream x) ∧ tState.spdm.ide = none ∧ tIde.spdm.ide.isSome = true ∧ tIde.host.linkUp = true :=
  ⟨by simp, by decide +kernel⟩

/-- An attached primary, and one that is attaching. -/
theorem witness_unattached : ∃ s : State, MailboxFree s ∧ s.twin.state = 2 ∧ s.twin.attached = false :=
  ⟨{ tState with twin := { Twin.reset with state := 2 } }, by unfold MailboxFree; decide +kernel⟩

/-- The commit phase, in phase `p`: the page at 0x20000 is versioned, and a read through BAR4 waits where `w`. -/
def tPhase (p : CommitPhase) (w : Bool) : State := { tHbm with
  stitch := { tHbm.stitch with phase := p, decision := some .void }, host := { tHbm.host with held := if w then [.bar4 0x20000 false 4 []] else [] },
  hbm := { tHbm.hbm with pages := [⟨0x20000, 0, [], [], [], none⟩] } }

theorem witness_held : ((tPhase .sampled false).host.linkUp = true ∧ 0x20000 + 4 ≤ 2 ^ (tPhase .sampled false).host.bar4Log2 ∧ (tPhase .sampled false).inCommit = true ∧
      (tPhase .sampled false).touchesPage ((tPhase .sampled false).bar4Addr 0x20000) 4 (fun _ => true) = true) ∧
    ((tPhase .applied true).host.held = [.bar4 0x20000 false 4 []] ∧ (tPhase .applied true).stitch.decision = some .void ∧
      (tPhase .applied true).stitch.len ≤ ((tPhase .applied true).masterTime 10000).clk.ns ∧ 24 ≤ (tPhase .applied true).hbm.trained.length ∧
      (tPhase .applied true).hbm.scrubbing = false ∧ (tPhase .applied true).bar4Addr 0x20000 = 0x20000 ∧
      (tPhase .applied true).hbmBad 0x20000 = none ∧ (tPhase .applied true).hbmBad (0x20000 + 4 - 1) = none ∧
      (∀ y, y = 0x20000 ∨ y = 0x20000 + 0x10000 → (tPhase .applied true).hbmFailed y = false ∧ (tPhase .applied true).errs.get [] (y / 16) = [])) ∧
    tCtx.image.qps = [] :=
  ⟨by decide +kernel, ⟨by decide +kernel, by decide +kernel, by decide +kernel, by decide +kernel, by decide +kernel, by decide +kernel, by decide +kernel, by decide +kernel,
    by rintro y (rfl | rfl) <;> decide +kernel⟩, rfl⟩

theorem witness_seam_max : tState.unreached (.bay 0 .fabSeamMax) = none ∧ (tState.masterTime 5).hwAt (.bay 0 .fabSeamMax) = none := by decide +kernel

/-- An idle stitch in which bay 0 votes with code `k`. -/
def tVotedIdle (k : Nat) : State := { tVoted k with stitch := { (tVoted k).stitch with kind := .idle } }

theorem witness_decides : ((tVotedIdle 1).stitch.kind ≠ .work ∧ (∀ v, v < 312 → (tVotedIdle 1).voterIn v = true → Assoc.get (0, 0) (tVotedIdle 1).stitch.votes v = (1, 0)) ∧
      (tVotedIdle 1).stitch.hostVoid = false ∧ (tVotedIdle 1).stitch.supplyVoid = false ∧ (tVotedIdle 1).stitch.len ≤ ((tVotedIdle 1).masterTime 9904).clk.ns + 96) ∧
    ((tVotedIdle 2).voterIn 0 = true ∧ (Assoc.get (0, 0) (tVotedIdle 2).stitch.votes 0).1 ≠ 1) ∧
    (∃ s : State, s.stitch.supplyVoid = true ∧ s.stitch.kind = .work ∧ s.stitch.session = true ∧ s.stitch.phase = .before ∧ s.stitch.len ≤ (s.masterTime 9904).clk.ns + 96 ∧
      (∀ v, v < 312 → s.voterIn v = true → Assoc.get (0, 0) s.stitch.votes v = (1, 0))) ∧
    (∃ s : State, s.stitch.hostVoid = true ∧ s.stitch.kind = .idle ∧ s.stitch.session = true ∧ s.stitch.phase = .before ∧ s.stitch.len ≤ (s.masterTime 9904).clk.ns + 96 ∧
      (∀ v, v < 312 → s.voterIn v = true → Assoc.get (0, 0) s.stitch.votes v = (1, 0))) :=
  ⟨by decide +kernel, by decide +kernel, ⟨{ tVoted 1 with stitch := { (tVoted 1).stitch with supplyVoid := true } }, by decide +kernel⟩,
    ⟨{ tVotedIdle 1 with stitch := { (tVotedIdle 1).stitch with hostVoid := true } }, by decide +kernel⟩⟩

/-- A standby with a checkpoint open, of which half has come in. -/
def tStandby (d : Decision) (f : Twin → Twin) : State := { tState with
  stitch := { tState.stitch with phase := .sampled, decision := some d }, twin := f { Twin.reset with state := 3, openSeq := some 4, sentA := 2, endA := some 2, sentB := 1 } }

theorem witness_standby : ((tStandby (.commit [1]) id).standbyOpen = true ∧ (tStandby (.commit [1]) id).endsMatch = false ∧ (tStandby .void id).standbyOpen = true ∧
      (tStandby .void id).endsMatch = false ∧ (tStandby .void id).stitch.phase = .sampled) ∧
    ((tStandby (.commit [1]) (fun x => { x with endB := some 1 })).endsMatch = true ∧ (tStandby (.commit [1]) (fun x => { x with endB := some 1 })).host.held = []) ∧
    tState.standbyOpen = false ∧ (∀ a, tState.itemWritten a = false) := by
  refine ⟨by decide +kernel, by decide +kernel, by decide +kernel, fun a => ?_⟩
  have hp : tState.pageOf a = none := rfl
  have hm : ∀ c, (tState.mu c).wr = [] := fun _ => rfl
  simp [State.itemWritten, hp, hm]

/-- A change of class `c` whose table stands at address `a`; external memory's byte 0 is 255. -/
def tTable (c a : Nat) : State :=
  (((({ tHbm with mem := [(0, 255)] } : State).setReg (.stitch .modeSel) (BitVec.ofNat 64 c)).setReg (.stitch .modeArg) (BitVec.ofNat 64 a)).setReg (.stitch .modeTarget) 2)

def tTableOk (c a : Nat) : Bool :=
  match ((tTable c a).masterTime 5).modeTable c a with
  | some (tbl, x) => x.argOk c a tbl
  | none => false

theorem witness_tables : (∀ c, c ∈ [2, 3] → (tTable c 256).regN (.stitch .modeSel) % 16 = c ∧ (tTable c 256).regN (.stitch .modeArg) = 256 ∧
      (tTable c 256).regN (.stitch .modeTarget) = 2 ∧ Assoc.find? (tTable c 256).stitch.modes c = none ∧ (tTable c 256).stitch.commitSeq + 2 ≤ 2 ∧ tTableOk c 256 = true) ∧
    (tTableOk 2 0 = false ∧ (((tTable 2 0).masterTime 5).modeTable 2 0).isSome = true) ∧
    ((tTable 2 (2 ^ 44)).masterTime 5).modeTable 2 (2 ^ 44) = none ∧
    ((tTable 0 0).regN (.stitch .modeSel) % 16 = 0 ∧ 4 < (tTable 5 0).regN (.stitch .modeSel) % 16) := by decide +kernel

/-- A waking bay's 48 µs end with no session. -/
theorem witness_wake_idle : ∃ s : State, (s.bay 0).power = .waking ∧ (s.bay 0).wakeStart = some 0 ∧ (s.panel (0 / 4)).waking = some 0 ∧
    0 + 48000 ≤ (s.masterTime 48000).clk.nsTotal ∧ s.stitch.session = false :=
  ⟨{ tWaking .waking (some 0) with stitch := Stitch.reset }, by decide +kernel⟩

/-- A bundle with SETI 3 := 9, an MM that clears tile 0, a vector pass of descriptors 1, 0 and 0, a DMA and a ROUTE. -/
def tSlots : Nat := 4 * 2 ^ 120 + 3 * 2 ^ 116 + 9 * 2 ^ 104 + (1 * 2 ^ 28) * 2 ^ 72 + (1 * 2 ^ 28) * 2 ^ 40 + 1 * 2 ^ 36 + 1 * 2 ^ 16

theorem witness_slots : ((tBundle tSlots tRun).word (laneAddr 0 (16 * ((tBundle tSlots tRun).cu 0).seq.next))).toNat = tSlots ∧ ((tBundle tSlots tRun).bayTime 0 5).laneRuns 0 = true ∧
    (tRun.cu 0).seq.stall = .none ∧ (tRun.cu 0).seq.ready ≤ ((tRun.bayTime 0 5).bay 0).cycle ∧ tSlots / 2 ^ 120 = 4 ∧ tSlots / 2 ^ 100 % 2 ^ 4 = 1 ∧
    (tensorOpOf (tSlots / 2 ^ 72 % 2 ^ 32)).pred = false ∧ tSlots / 2 ^ 40 % 2 ^ 32 ≠ 0 ∧ (vecOpOf (tSlots / 2 ^ 40 % 2 ^ 32)).pred = false ∧
    tSlots / 2 ^ 36 % 2 ^ 4 = 1 ∧ tSlots.testBit 20 = false ∧ tSlots / 2 ^ 16 % 2 ^ 4 = 1 ∧ (tRun.cu 0).ste.queue.length < 2 ∧ (tRun.cu 0).vec.queue.length < 2 ∧
    (tRun.cu 0).dma.queue.length < 8 ∧ (tRun.cu 0).seq.sregs.length = 16 ∧ (tRun.cu 0).seq.loops = [] := by decide +kernel

theorem witness_completions : (State.reset.hdma 0).buffers = [] ∧ State.reset.fetchDue 0 = false ∧ (tRun.cu 0).fab.hurt = [] ∧ State.reset.spdm.ide = none := by decide +kernel

theorem witness_invariant : Inv State.reset ∧ Inv tState ∧ tState.pending = [] := ⟨by unfold Machine.Inv; decide +kernel, tState_inv, by decide +kernel⟩

end Sys2Proof.Tests
end

/-! PROOF. Family 00_scope: every step completes and keeps both memories canonical (O59, O60). -/

namespace Sys2Proof.Machine

/-- Every part of the machine. -/
def everyComp : List Comp :=
  [.free, .mem, .errs, .hostMem, .regs, .clk, .stitch, .ctxs, .hsync, .bays, .panels, .cus, .mus, .rtrs, .host, .evt, .claims,
   .hbm, .sites, .twin, .sup, .rel, .store, .fuses, .spdm]

theorem mem_everyComp (k : Comp) : k ∈ everyComp := by cases k <;> decide

theorem subset_everyComp (l : List Comp) : l ⊆ everyComp := fun k _ => mem_everyComp k

/-- Every command completes and keeps the queue's rest and the invariant: each row of the command table by the lemma on its own meaning. -/
theorem runs_exec (i : Instr) (s : State) : Runs everyComp s (exec i s) := by
  cases i with
  | powerOnReset t => exact runs_execPowerOnReset (_t := t) (subset_everyComp _)
  | auxGood => exact runs_execAuxGood (subset_everyComp _)
  | boot => exact runs_execBoot (subset_everyComp _)
  | mainEnable => exact runs_execMainEnable (subset_everyComp _)
  | mainEnableTimeout => exact runs_execMainEnableTimeout (subset_everyComp _)
  | vinMainInRange => exact runs_execVinMainInRange (subset_everyComp _)
  | bayCoreRailUp => exact runs_execBayCoreRailUp (subset_everyComp _)
  | bist => exact runs_execBist (subset_everyComp _)
  | hbmTraining => exact runs_execHbmTraining (subset_everyComp _)
  | siteTraining => exact runs_execSiteTraining (subset_everyComp _)
  | pcieTraining => exact runs_execPcieTraining (subset_everyComp _)
  | inventoryReady => exact runs_execInventoryReady (subset_everyComp _)
  | pwrFailN => exact runs_execPwrFailN (subset_everyComp _)
  | supplyOutOfRange => exact runs_execSupplyOutOfRange (subset_everyComp _)
  | deviceReset => exact runs_execDeviceReset (subset_everyComp _)
  | managementWatchdog => exact runs_execManagementWatchdog (subset_everyComp _)
  | mboxComputeReset => exact runs_execMboxComputeReset (subset_everyComp _)
  | mboxBayReset => exact runs_execMboxBayReset (subset_everyComp _)
  | computeReset => exact runs_execComputeReset (subset_everyComp _)
  | bayReset => exact runs_execBayReset (subset_everyComp _)
  | pciePerst => exact runs_execPciePerst (subset_everyComp _)
  | pcieLinkRetrain => exact runs_execPcieLinkRetrain (subset_everyComp _)
  | pciePoisonedTlp => exact runs_execPciePoisonedTlp (subset_everyComp _)
  | recoveryPortEnable => exact runs_execRecoveryPortEnable (subset_everyComp _)
  | eepromRead => exact runs_execEepromRead (subset_everyComp _)
  | registerWrite => exact runs_execRegisterWrite (subset_everyComp _)
  | registerReadClear => exact runs_execRegisterReadClear (subset_everyComp _)
  | register64LowRead => exact runs_execRegister64LowRead (subset_everyComp _)
  | controlSpaceAccess => exact runs_execControlSpaceAccess (subset_everyComp _)
  | bar4Access => exact runs_execBar4Access (subset_everyComp _)
  | timeMessageSend => exact runs_execTimeMessageSend (subset_everyComp _)
  | timeMessageReceive => exact runs_execTimeMessageReceive (subset_everyComp _)
  | boundaryMessage => exact runs_execBoundaryMessage (subset_everyComp _)
  | stitchStart => exact runs_execStitchStart (subset_everyComp _)
  | workWindowEnd => exact runs_execWorkWindowEnd (subset_everyComp _)
  | arithFlagSummary => exact runs_execArithFlagSummary (subset_everyComp _)
  | rollCall => exact runs_execRollCall (subset_everyComp _)
  | rollCallCompare => exact runs_execRollCallCompare (subset_everyComp _)
  | scrubWindow => exact runs_execScrubWindow (subset_everyComp _)
  | trimApply => exact runs_execTrimApply (subset_everyComp _)
  | seqMaskBroadcast => exact runs_execSeqMaskBroadcast (subset_everyComp _)
  | fabricSample => exact runs_execFabricSample (subset_everyComp _)
  | telemetryRecordWrite => exact runs_execTelemetryRecordWrite (subset_everyComp _)
  | voteFreeze => exact runs_execVoteFreeze (subset_everyComp _)
  | commitSampling => exact runs_execCommitSampling (subset_everyComp _)
  | commitApply => exact runs_execCommitApply (subset_everyComp _)
  | commitPhaseEnd => exact runs_execCommitPhaseEnd (subset_everyComp _)
  | doneTokenArrival _ _ _ stitch result => exact runs_execDoneTokenArrival (_stitch := stitch) (_result := result) (subset_everyComp _)
  | peerTimeout => exact runs_execPeerTimeout (subset_everyComp _)
  | ctxSwitch => exact runs_execCtxSwitch (subset_everyComp _)
  | resume => exact runs_execResume (subset_everyComp _)
  | modeCancel => exact runs_execModeCancel (subset_everyComp _)
  | voidCurrent => exact runs_execVoidCurrent (subset_everyComp _)
  | modeStage => exact runs_execModeStage (subset_everyComp _)
  | stageAck => exact runs_execStageAck (subset_everyComp _)
  | bayWakeStart => exact runs_execBayWakeStart (subset_everyComp _)
  | wakeComplete => exact runs_execWakeComplete (subset_everyComp _)
  | mboxReadInventory => exact runs_execMboxReadInventory (subset_everyComp _)
  | mboxLoadImage => exact runs_execMboxLoadImage (subset_everyComp _)
  | mboxEndResidency => exact runs_execMboxEndResidency (subset_everyComp _)
  | mboxStartSession => exact runs_execMboxStartSession (subset_everyComp _)
  | mboxEndSession => exact runs_execMboxEndSession (subset_everyComp _)
  | mboxSetCap => exact runs_execMboxSetCap (subset_everyComp _)
  | mboxTwinAttach => exact runs_execMboxTwinAttach (subset_everyComp _)
  | mboxTwinDetach => exact runs_execMboxTwinDetach (subset_everyComp _)
  | mailboxResponse => exact runs_execMailboxResponse (subset_everyComp _)
  | sessionEndScrubDone => exact runs_execSessionEndScrubDone (subset_everyComp _)
  | backgroundFrame => exact runs_execBackgroundFrame (subset_everyComp _)
  | bundleIssue => exact runs_execBundleIssue (subset_everyComp _)
  | nop => exact runs_execNop (subset_everyComp _)
  | hold => exact runs_execHold (subset_everyComp _)
  | holdExpiry => exact runs_execHoldExpiry (subset_everyComp _)
  | loop => exact runs_execLoop (subset_everyComp _)
  | endloop => exact runs_execEndloop (subset_everyComp _)
  | seti => exact runs_execSeti (subset_everyComp _)
  | addi => exact runs_execAddi (subset_everyComp _)
  | pred => exact runs_execPred (subset_everyComp _)
  | predon => exact runs_execPredon (subset_everyComp _)
  | exit => exact runs_execExit (subset_everyComp _)
  | brace => exact runs_execBrace (subset_everyComp _)
  | braceArm => exact runs_execBraceArm (subset_everyComp _)
  | launch => exact runs_execLaunch (subset_everyComp _)
  | launchRelease => exact runs_execLaunchRelease (subset_everyComp _)
  | endMark => exact runs_execEndMark (subset_everyComp _)
  | stitchEndMarkerRetire => exact runs_execStitchEndMarkerRetire (subset_everyComp _)
  | laneStoreRewrite => exact runs_execLaneStoreRewrite (subset_everyComp _)
  | mm => exact runs_execMm (subset_everyComp _)
  | mma => exact runs_execMma (subset_everyComp _)
  | drain => exact runs_execDrain (subset_everyComp _)
  | stageLoad => exact runs_execStageLoad (subset_everyComp _)
  | steOutputIssue => exact runs_execSteOutputIssue (subset_everyComp _)
  | accumulate => exact runs_execAccumulate (subset_everyComp _)
  | checksumCompare => exact runs_execChecksumCompare (subset_everyComp _)
  | vectorPass => exact runs_execVectorPass (subset_everyComp _)
  | vectorResultWrite => exact runs_execVectorResultWrite (subset_everyComp _)
  | dma => exact runs_execDma (subset_everyComp _)
  | dmaTransferStart => exact runs_execDmaTransferStart (subset_everyComp _)
  | dmaTransferComplete => exact runs_execDmaTransferComplete (subset_everyComp _)
  | send => exact runs_execSend (subset_everyComp _)
  | sig => exact runs_execSig (subset_everyComp _)
  | wait => exact runs_execWait (subset_everyComp _)
  | waitge => exact runs_execWaitge (subset_everyComp _)
  | waitSatisfied => exact runs_execWaitSatisfied (subset_everyComp _)
  | scratchpadArbitration => exact runs_execScratchpadArbitration (subset_everyComp _)
  | scratchpadPromotion => exact runs_execScratchpadPromotion (subset_everyComp _)
  | cuSrSeedWrite => exact runs_execCuSrSeedWrite (subset_everyComp _)
  | route => exact runs_execRoute (subset_everyComp _)
  | spin => exact runs_execSpin (subset_everyComp _)
  | agstart => exact runs_execAgstart (subset_everyComp _)
  | tag => exact runs_execTag (subset_everyComp _)
  | spinWrite => exact runs_execSpinWrite (subset_everyComp _)
  | linkPayloadTransfer => exact runs_execLinkPayloadTransfer (subset_everyComp _)
  | seamPayloadExit => exact runs_execSeamPayloadExit (subset_everyComp _)
  | seamCreditReturn => exact runs_execSeamCreditReturn (subset_everyComp _)
  | fabricPortTransfer => exact runs_execFabricPortTransfer (subset_everyComp _)
  | telemetryRingConfig => exact runs_execTelemetryRingConfig (subset_everyComp _)
  | sliceArbitration => exact runs_execSliceArbitration (subset_everyComp _)
  | narrowStarvation => exact runs_execNarrowStarvation (subset_everyComp _)
  | cuPortDmaPromotion => exact runs_execCuPortDmaPromotion (subset_everyComp _)
  | agStreamStart => exact runs_execAgStreamStart (subset_everyComp _)
  | agAccess => exact runs_execAgAccess (subset_everyComp _)
  | indexFetch => exact runs_execIndexFetch (subset_everyComp _)
  | agStreamComplete => exact runs_execAgStreamComplete (subset_everyComp _)
  | remoteAccess => exact runs_execRemoteAccess (subset_everyComp _)
  | tokenPayloadEnter => exact runs_execTokenPayloadEnter (subset_everyComp _)
  | steerCycle => exact runs_execSteerCycle (subset_everyComp _)
  | steerPairTimeout => exact runs_execSteerPairTimeout (subset_everyComp _)
  | dispatchPassStart => exact runs_execDispatchPassStart (subset_everyComp _)
  | tokenRank => exact runs_execTokenRank (subset_everyComp _)
  | tokenResolve => exact runs_execTokenResolve (subset_everyComp _)
  | tokenPayloadEmit => exact runs_execTokenPayloadEmit (subset_everyComp _)
  | passEndFill => exact runs_execPassEndFill (subset_everyComp _)
  | dispatchPassComplete => exact runs_execDispatchPassComplete (subset_everyComp _)
  | meshInject => exact runs_execMeshInject (subset_everyComp _)
  | routerForward => exact runs_execRouterForward (subset_everyComp _)
  | multicastReplicate => exact runs_execMulticastReplicate (subset_everyComp _)
  | multicastAckCombine => exact runs_execMulticastAckCombine (subset_everyComp _)
  | meshResponseReceive => exact runs_execMeshResponseReceive (subset_everyComp _)
  | messageSendInject => exact runs_execMessageSendInject (subset_everyComp _)
  | messageArrival => exact runs_execMessageArrival (subset_everyComp _)
  | messagePartArrival => exact runs_execMessagePartArrival (subset_everyComp _)
  | messageResponse => exact runs_execMessageResponse (subset_everyComp _)
  | messageRetry => exact runs_execMessageRetry (subset_everyComp _)
  | ringRelease => exact runs_execRingRelease (subset_everyComp _)
  | launchEntryArm => exact runs_execLaunchEntryArm (subset_everyComp _)
  | launchEntryDisarm => exact runs_execLaunchEntryDisarm (subset_everyComp _)
  | launchEntryFire => exact runs_execLaunchEntryFire (subset_everyComp _)
  | hsyncSignal => exact runs_execHsyncSignal (subset_everyComp _)
  | hostWaitArm => exact runs_execHostWaitArm (subset_everyComp _)
  | hostWaitSatisfied => exact runs_execHostWaitSatisfied (subset_everyComp _)
  | timeNowRead => exact runs_execTimeNowRead (subset_everyComp _)
  | hbmRead => exact runs_execHbmRead (subset_everyComp _)
  | hbmWrite => exact runs_execHbmWrite (subset_everyComp _)
  | hbmRecalibration => exact runs_execHbmRecalibration (subset_everyComp _)
  | hbmPatrol => exact runs_execHbmPatrol (subset_everyComp _)
  | qpInTail => exact runs_execQpInTail (subset_everyComp _)
  | qpOutHead => exact runs_execQpOutHead (subset_everyComp _)
  | dmaTail => exact runs_execDmaTail (subset_everyComp _)
  | dmaRestart => exact runs_execDmaRestart (subset_everyComp _)
  | dmaDescriptorStart => exact runs_execDmaDescriptorStart (subset_everyComp _)
  | dmaBufferRead => exact runs_execDmaBufferRead (subset_everyComp _)
  | dmaHostReadTimeout => exact runs_execDmaHostReadTimeout (subset_everyComp _)
  | dmaDescriptorComplete => exact runs_execDmaDescriptorComplete (subset_everyComp _)
  | hostDmaResWrite => exact runs_execHostDmaResWrite (subset_everyComp _)
  | hostVersionWrite => exact runs_execHostVersionWrite (subset_everyComp _)
  | eventReport => exact runs_execEventReport (subset_everyComp _)
  | eventRecordWrite => exact runs_execEventRecordWrite (subset_everyComp _)
  | evtRingHeadWrite => exact runs_execEvtRingHeadWrite (subset_everyComp _)
  | evtRingEnable => exact runs_execEvtRingEnable (subset_everyComp _)
  | claimIdRead => exact runs_execClaimIdRead (subset_everyComp _)
  | claimDoneWrite => exact runs_execClaimDoneWrite (subset_everyComp _)
  | casrikFlitSend => exact runs_execCasrikFlitSend (subset_everyComp _)
  | casrikFlitReceive => exact runs_execCasrikFlitReceive (subset_everyComp _)
  | wavelengthDrop => exact runs_execWavelengthDrop (subset_everyComp _)
  | wavelengthRejoin => exact runs_execWavelengthRejoin (subset_everyComp _)
  | siteDown => exact runs_execSiteDown (subset_everyComp _)
  | exportStart => exact runs_execExportStart (subset_everyComp _)
  | checkpointStream => exact runs_execCheckpointStream (subset_everyComp _)
  | heartbeatSend => exact runs_execHeartbeatSend (subset_everyComp _)
  | heartbeatInterval => exact runs_execHeartbeatInterval (subset_everyComp _)
  | twinFatalIn => exact runs_execTwinFatalIn (subset_everyComp _)
  | twinTakeover => exact runs_execTwinTakeover (subset_everyComp _)
  | regulatorPhaseFail => exact runs_execRegulatorPhaseFail (subset_everyComp _)
  | bayRailShort => exact runs_execBayRailShort (subset_everyComp _)
  | fabricRailShort => exact runs_execFabricRailShort (subset_everyComp _)
  | droopBoost => exact runs_execDroopBoost (subset_everyComp _)
  | clockStretch => exact runs_execClockStretch (subset_everyComp _)
  | vminSample => exact runs_execVminSample (subset_everyComp _)
  | vminRead => exact runs_execVminRead (subset_everyComp _)
  | governorRiseTick => exact runs_execGovernorRiseTick (subset_everyComp _)
  | governorFallTick => exact runs_execGovernorFallTick (subset_everyComp _)
  | panelBudgetUpdate => exact runs_execPanelBudgetUpdate (subset_everyComp _)
  | bayBudgetCompare => exact runs_execBayBudgetCompare (subset_everyComp _)
  | thermalSample => exact runs_execThermalSample (subset_everyComp _)
  | darnUpdateComplete => exact runs_execDarnUpdateComplete (subset_everyComp _)
  | recordCommit => exact runs_execRecordCommit (subset_everyComp _)
  | logCompaction => exact runs_execLogCompaction (subset_everyComp _)
  | getVersion => exact runs_execGetVersion (subset_everyComp _)
  | getCapabilities => exact runs_execGetCapabilities (subset_everyComp _)
  | negotiateAlgorithms => exact runs_execNegotiateAlgorithms (subset_everyComp _)
  | getDigests => exact runs_execGetDigests (subset_everyComp _)
  | getCertificate => exact runs_execGetCertificate (subset_everyComp _)
  | challenge => exact runs_execChallenge (subset_everyComp _)
  | getMeasurements => exact runs_execGetMeasurements (subset_everyComp _)
  | keyExchange => exact runs_execKeyExchange (subset_everyComp _)
  | finish => exact runs_execFinish (subset_everyComp _)
  | heartbeat => exact runs_execHeartbeat (subset_everyComp _)
  | keyUpdate => exact runs_execKeyUpdate (subset_everyComp _)
  | endSession => exact runs_execEndSession (subset_everyComp _)
  | ownerSet => exact runs_execOwnerSet (subset_everyComp _)
  | ownerRevoke => exact runs_execOwnerRevoke (subset_everyComp _)
  | debugAuth => exact runs_execDebugAuth (subset_everyComp _)
  | debugRevoke => exact runs_execDebugRevoke (subset_everyComp _)
  | fwUpdate => exact runs_execFwUpdate (subset_everyComp _)
  | ideKm => exact runs_execIdeKm (subset_everyComp _)
  | diagGo => exact runs_execDiagGo (subset_everyComp _)
  | diagReadComplete => exact runs_execDiagReadComplete (subset_everyComp _)
  | dmaReadCompletion => exact runs_execDmaReadCompletion (subset_everyComp _)
  | vectorIssue => exact runs_execVectorIssue (subset_everyComp _)
  | uncorrectableInternalError => exact runs_execUncorrectableInternalError (subset_everyComp _)
  | pcieLinkDown => exact runs_execPcieLinkDown (subset_everyComp _)
  | recoveryPortDisable => exact runs_execRecoveryPortDisable (subset_everyComp _)
  | clockStretchEnd => exact runs_execClockStretchEnd (subset_everyComp _)
  | secureSessionLoss => exact runs_execSecureSessionLoss (subset_everyComp _)

theorem inv_setPending {s : State} (cs : List Instr) (h : Inv s) : Inv { s with pending := cs } := h

/-- Settles O60: the queue is empty and the block idles, or the command at its front runs. -/
theorem everyStepKeepsTheInvariant : Obligations.EveryStepKeepsTheInvariant := by
  intro s hs
  unfold step
  split
  · exact ⟨s, rfl, hs⟩
  · rename_i c rest _
    obtain ⟨t, ht, hk⟩ := runs_exec c { s with pending := rest }
    exact ⟨t, ht, hk.inv (inv_setPending rest hs)⟩

/-- Settles O59: both memories are empty at reset. -/
theorem resetKeepsTheInvariant : Obligations.ResetKeepsTheInvariant := ⟨memWf_nil, memWf_nil⟩

end Sys2Proof.Machine

/-! PROOF. Family 00_scope: what every register reads after power-on reset (O58). -/

namespace Sys2Proof.Machine

/-! A unit that is not listed, and a register that is not listed, is in its reset state. -/

@[simp] theorem reset_bay (b : Nat) : State.reset.bay b = Bay.reset := rfl
@[simp] theorem reset_panel (p : Nat) : State.reset.panel p = Panel.reset := rfl
@[simp] theorem reset_cu (u : Nat) : State.reset.cu u = Cu.reset := rfl
@[simp] theorem reset_mu (c : Nat) : State.reset.mu c = Mu.reset := rfl
@[simp] theorem reset_site (t : Nat) : State.reset.site t = Site.reset := rfl
@[simp] theorem reset_claim (k : Nat) : State.reset.claim k = Claims.reset := rfl
@[simp] theorem reset_hdma (d : Nat) : State.reset.hdma d = HDma.reset := rfl
@[simp] theorem reset_reg (id : RegId) : State.reset.reg id = regReset id := rfl
theorem reset_evtPending (n : Nat) : Assoc.find? State.reset.evt.pending n = none := rfl

/-! What the computed views take from other state. -/

theorem reset_siteUse (t : Nat) : State.reset.siteUse t = none := rfl
theorem reset_paired : State.reset.paired = false := rfl
theorem reset_phasesFailed (b : Nat) : State.reset.phasesFailed b = 0 := by
  simp only [State.phasesFailed, State.regN, reset_reg, regReset]
  decide
theorem reset_phaseMax (b : Nat) : State.reset.phaseMax b = 8 := rfl
theorem reset_lmax (b : Nat) : State.reset.lmax b = 8 := rfl
theorem reset_powerState (b : Nat) : State.reset.powerState b = .off := rfl

/-! The views whose value does not depend on the unit's number. A register without a view of its own reads its stored value. -/

theorem reset_optView (t : Nat) (r : OptReg) : State.reset.optView t r = 0 := by
  cases r
  case status =>
    have hdown : Site.reset.up = false ∧ Site.reset.training = false := ⟨rfl, rfl⟩
    simp only [State.optView, State.optStatus, State.useCode, reset_site, reset_siteUse, reset_paired, hdown, Bool.false_and, Bool.false_eq_true, if_false]
    rfl
  all_goals rfl

theorem reset_bootView (r : BootReg) : State.reset.bootView r = 0 := by
  cases r
  case status | bg => decide +kernel
  all_goals rfl

theorem reset_panelView (p : Nat) (r : PanelReg) : State.reset.panelView p r = 0 := by
  cases r
  case pwrStatus => simp only [State.panelView, reset_powerState, reset_panel]; decide
  case wake | feed => simp only [State.panelView, reset_panel, reset_reg, regReset]; decide
  all_goals rfl

theorem reset_bayView (b : Nat) (r : BayReg) :
    State.reset.bayView b r = match r with | .fabSample => 8 | .pwrStatus => 0x1800 | .pwrVmin => 0xFFF | _ => 0 := by
  cases r
  case pwrStatus =>
    have hoff : Bay.reset.power = .off := rfl
    simp only [State.bayView, State.bayPower, reset_bay, reset_phasesFailed, reset_phaseMax, reset_lmax, hoff, if_true]
    rfl
  case stitchLen | stitchHem | vote | modeActive | modeStaged | timeErr => simp only [State.bayView, reset_bay]; decide
  all_goals rfl

theorem reset_cuView (u : Nat) (r : CuReg) :
    State.reset.cuView u r =
      match r with | .status => 0x1000 | .chkTol => 0x40 | .srSeed => 0x00010001 | .linkCfg => 0x42108 | .steerCfg => 16 | _ => 0 := by
  cases r
  case status => simp only [State.cuView, State.cuStatus, reset_cu, reset_bay]; decide
  case linkStatus =>
    have hocc (l : Nat) : State.reset.linkOcc u l = 0 := by
      have hq : Cu.reset.fab.seamHeld l = 0 ∧ Cu.reset.fab.q l = [] := ⟨rfl, rfl⟩
      simp [State.linkOcc, hq, arrived]
    simp only [State.cuView, reset_cu, reset_bay, hocc]; decide
  case steerStatus => simp only [State.cuView, reset_cu]; decide
  all_goals rfl

theorem reset_muView (c : Nat) (r : MuReg) : State.reset.muView c r = match r with | .slicePwr => 0xFF | _ => 0 := by
  cases r
  case status | fabStatus | dspStatus => simp only [State.muView, reset_mu, reset_bay]; decide
  all_goals rfl

theorem reset_dmaView (d : Nat) (r : DmaReg) : State.reset.dmaView d r = 0 := by
  cases r
  case status => simp only [State.dmaView, reset_hdma]; decide
  all_goals rfl

theorem reset_claimView (k : Nat) (r : ClaimReg) : State.reset.claimView k r = match r with | .id => 4095 | .status => 4095 | _ => 0 := by
  cases r
  case status => simp only [State.claimView, reset_claim]; decide
  all_goals rfl

theorem reset_evtSrcView (n : Nat) : State.reset.evtSrcView n = evtSrcReset n := by
  have h0 : fieldsReg [(b2n false, 22)] = 0 := by decide
  simp only [State.evtSrcView, reset_evtPending, reset_claim, reset_reg, regReset]
  exact (congrArg (evtSrcReset n ||| ·) h0).trans BitVec.or_zero

/-- The version registers of an interface: the versions and the capabilities that the T1 offers, and nothing agreed. -/
theorem reset_verView (i w : Nat) :
    State.reset.verView i w =
      if w = 0 ∧ i < 5 then 0x01010000 else if w = 1 ∧ (i = 0 ∨ i = 3) then 1 else if w = 1 ∧ i = 2 then 3 else 0 := by
  have hv : ∀ i < 5, ∀ w < 6, State.reset.verView i w =
      if w = 0 ∧ i < 5 then 0x01010000 else if w = 1 ∧ (i = 0 ∨ i = 3) then 1 else if w = 1 ∧ i = 2 then 3 else 0 := by
    decide
  by_cases h : i < 5 ∧ w < 6
  · exact hv i h.1 w h.2
  · have hout : 5 ≤ i ∨ 6 ≤ w := by omega
    unfold State.verView
    rw [if_pos hout, if_neg (by omega), if_neg (by omega), if_neg (by omega)]

theorem reset_voterMask (i : Nat) : regOf (State.reset.stitch.voterMask.toNat / 2 ^ (32 * i) % 2 ^ 32) = 0 := by
  have h0 : State.reset.stitch.voterMask.toNat = 0 := BitVec.toNat_zero
  rw [h0, Nat.zero_div]
  rfl

/-- Settles O58: block by block of the register map. -/
theorem resetState : Obligations.ResetState := by
  refine ⟨⟨rfl, rfl, rfl, rfl, rfl, rfl, fun b => by simp [Bay.reset], fun p => rfl⟩, ?_⟩
  intro host id
  cases id with
  | ver i w => exact reset_verView i w
  | evtSrc n => exact reset_evtSrcView n
  | voterMask i => exact reset_voterMask i
  | opt t r => exact reset_optView t r
  | boot r => exact reset_bootView r
  | panel p r => exact reset_panelView p r
  | bay b r => exact (reset_bayView b r).trans (by cases r <;> rfl)
  | cu u r => exact (reset_cuView u r).trans (by cases r <;> rfl)
  | mu c r => exact (reset_muView c r).trans (by cases r <;> rfl)
  | dma d r => exact reset_dmaView d r
  | claim k r => exact (reset_claimView k r).trans (by cases r <;> rfl)
  | dev r | host r | evt r | time r | stitch r | pwr r | rel r | hbm st r | twin r | rtr c r | qp q r => cases r <;> rfl
  | sec r => cases r <;> cases host <;> rfl
  | _ => rfl

end Sys2Proof.Machine

/-! PROOF. Family 00_scope: one rule per shared operation. A bay's clock, hardware updates of registers, stored words, round robin. -/

namespace Sys2Proof

theorem Assoc.find?_erase_same {κ α : Type} [DecidableEq κ] (m : Assoc κ α) (k : κ) : Assoc.find? (Assoc.erase m k) k = none := by
  rw [Assoc.find?_erase, if_pos rfl]

theorem Assoc.get_erase_same {κ α : Type} [DecidableEq κ] (d : α) (m : Assoc κ α) (k : κ) : Assoc.get d (Assoc.erase m k) k = d := by
  rw [Assoc.get, Assoc.find?_erase_same, Option.getD_none]

theorem Assoc.set_set {κ α : Type} [DecidableEq κ] (m : Assoc κ α) (k : κ) (v w : α) :
    Assoc.set (Assoc.set m k v) k w = Assoc.set m k w := by
  simp [Assoc.set, Assoc.erase]

end Sys2Proof

namespace Sys2Proof.Machine

/-! ### Registers -/

@[simp] theorem modReg_reg (s : State) (r : RegId) (f : Reg → Reg) (q : RegId) : (s.modReg r f).reg q = if r = q then f (s.reg r) else s.reg q :=
  setReg_reg s r _ q

@[simp] theorem hwSet_reg (s : State) (r : RegId) (f : Reg → Reg) (q : RegId) : (s.hwSet r f).reg q = if r = q then f (s.reg r) else s.reg q :=
  modReg_reg s r f q

@[simp] theorem count_reg (s : State) (r : RegId) (n : Nat) (q : RegId) : (s.count r n).reg q = if r = q then satReg (s.reg r) n else s.reg q :=
  hwSet_reg s r _ q

@[simp] theorem count_mu (s : State) (r : RegId) (n c : Nat) : (s.count r n).mu c = s.mu c := rfl
@[simp] theorem count_evt (s : State) (r : RegId) (n : Nat) : (s.count r n).evt = s.evt := rfl

theorem tally_reg (s : State) (r : RegId) (n : Nat) (q : RegId) : (s.tally r n).reg q = if r = q then satReg (s.reg r) n else s.reg q :=
  modReg_reg s r _ q

theorem record_reg_other (s : State) {r q : RegId} (validBit v : Nat) (h : r ≠ q) : (s.record r validBit v).reg q = s.reg q := by
  unfold State.record
  split
  · rfl
  · rw [hwSet_reg, if_neg h]

@[simp] theorem hwSet_mem (s : State) (r : RegId) (f : Reg → Reg) : (s.hwSet r f).mem = s.mem := rfl
@[simp] theorem hwSet_cu (s : State) (r : RegId) (f : Reg → Reg) (u : Nat) : (s.hwSet r f).cu u = s.cu u := rfl


/-! ### A bay's clock -/

theorem bayCycles_reg {id : RegId} (s : State) {b : Nat} (d : Nat) (h : id ∉ bayClockRegs b) : (s.bayCycles b d).reg id = s.reg id := by
  simp only [bayClockRegs, List.mem_cons, List.not_mem_nil, or_false, not_or] at h
  obtain ⟨hb, hst, hc⟩ := h
  unfold State.bayCycles
  simp only [apply_ite (State.reg · id), tally_reg, setBay_reg, if_neg (Ne.symm hb), if_neg (Ne.symm hst), if_neg (Ne.symm hc), ite_self]

theorem bayTime_regsAlone (s : State) (b t : Nat) : RegsAlone (bayClockRegs b) s (s.bayTime b t) := fun _ h => bayCycles_reg s _ h

theorem bayTime_reg {id : RegId} (s : State) {b : Nat} (t : Nat) (h : id ∉ bayClockRegs b) : (s.bayTime b t).reg id = s.reg id := bayTime_regsAlone s b t id h

theorem tally_bay (s : State) (r : RegId) (n q : Nat) : (s.tally r n).bay q = s.bay q := rfl

theorem bayCycles_power (s : State) (b d q : Nat) : ((s.bayCycles b d).bay q).power = (s.bay q).power := by
  unfold State.bayCycles
  by_cases hq : b = q
  · subst hq
    simp only [apply_ite (State.bay · b), tally_bay, setBay_bay, if_true, ite_self, apply_ite Bay.power]
  · simp only [apply_ite (State.bay · q), tally_bay, setBay_bay, if_neg hq, ite_self]

theorem bayCycles_baysAlone (s : State) (b d : Nat) : BaysAlone [b] s (s.bayCycles b d) := by
  intro q hq
  have hne : b ≠ q := fun e => hq (by simp [e])
  unfold State.bayCycles
  simp only [apply_ite (State.bay · q), tally_bay, setBay_bay, if_neg hne, ite_self]

theorem bayTime_baysAlone (s : State) (b t : Nat) : BaysAlone [b] s (s.bayTime b t) := bayCycles_baysAlone s b _

@[simp] theorem bayTime_power (s : State) (b t q : Nat) : ((s.bayTime b t).bay q).power = (s.bay q).power := bayCycles_power s b _ q

theorem kept_atBayTime (s : State) (b t : Nat) : Kept [.regs, .bays] s (s.bayTime b t) := kept_bayTime (List.Subset.refl _) (Kept.refl _ s)

@[simp] theorem bayTime_mem (s : State) (b t : Nat) : (s.bayTime b t).mem = s.mem := (kept_atBayTime s b t).eq_mem (by decide)
@[simp] theorem bayTime_errs (s : State) (b t : Nat) : (s.bayTime b t).errs = s.errs := (kept_atBayTime s b t).eq_errs (by decide)
@[simp] theorem bayTime_evt (s : State) (b t : Nat) : (s.bayTime b t).evt = s.evt := (kept_atBayTime s b t).eq_evt (by decide)
@[simp] theorem bayTime_twin (s : State) (b t : Nat) : (s.bayTime b t).twin = s.twin := (kept_atBayTime s b t).eq_twin (by decide)
@[simp] theorem bayTime_host (s : State) (b t : Nat) : (s.bayTime b t).host = s.host := (kept_atBayTime s b t).eq_host (by decide)
@[simp] theorem bayTime_spdm (s : State) (b t : Nat) : (s.bayTime b t).spdm = s.spdm := (kept_atBayTime s b t).eq_spdm (by decide)
@[simp] theorem bayTime_cu (s : State) (b t u : Nat) : (s.bayTime b t).cu u = s.cu u := (kept_atBayTime s b t).eq_cu (by decide) u
@[simp] theorem bayTime_mu (s : State) (b t c : Nat) : (s.bayTime b t).mu c = s.mu c := (kept_atBayTime s b t).eq_mu (by decide) c

theorem bayRuns_bayTime {s : State} {b : Nat} (t q : Nat) (h : (s.bay b).power = .active) : (s.bayTime q t).bayRuns b = true := by
  rw [State.bayRuns, bayTime_power, h]
  rfl

/-! ### Stored words -/

theorem length_leBytes (n v : Nat) : (leBytes n v).length = n := by
  induction n generalizing v with
  | zero => rfl
  | succ n ih => rw [leBytes, List.length_cons, ih]

theorem leNat_leBytes (n v : Nat) : leNat (leBytes n v) = v % 256 ^ n := by
  induction n generalizing v with
  | zero => rw [Nat.pow_zero, Nat.mod_one]; rfl
  | succ n ih =>
    have hpow : 256 ^ (n + 1) = 256 * 256 ^ n := Nat.pow_succ'
    rw [leBytes, leNat, ih, BitVec.toNat_ofNat, hpow, Nat.mod_mul]

/-- What a stored word holds is read back. -/
theorem word_putWord_same {s : State} (a : Nat) (w : Word) (h : Memory.wf s.mem) : (s.putWord a w).word a = w := by
  have hread := memReads_memWrites s.mem a (leBytes 16 w.toNat) h
  rw [length_leBytes] at hread
  rw [State.word, State.putWord, hread, leNat_leBytes, Nat.mod_eq_of_lt (by have := w.isLt; omega)]
  exact BitVec.ofNat_toNat 128 w

theorem word_congr {s t : State} (h : t.mem = s.mem) (a : Nat) : t.word a = s.word a := by rw [State.word, State.word, h]

theorem memReads_congr {m m' : List Host.Cell} {a n : Nat} (h : ∀ i, i < n → memRead m' (a + i) = memRead m (a + i)) :
    memReads m' a n = memReads m a n := by
  induction n generalizing a with
  | zero => rfl
  | succ n ih =>
    rw [memReads, memReads, ← Nat.add_zero a, h 0 (by omega), ih (fun i hi => ?_)]
    have := h (i + 1) (by omega)
    rwa [← Nat.add_assoc, Nat.add_right_comm] at this

theorem word_of_memAlone {s t : State} {lo n a : Nat} (h : MemAlone lo n s t) (ha : a + 16 ≤ lo ∨ lo + n ≤ a) : t.word a = s.word a := by
  rw [State.word, State.word, memReads_congr fun i hi => h (a + i) (by omega)]

theorem memAlone_putWord (s : State) (a : Nat) (w : Word) : MemAlone a 16 s (s.putWord a w) := fun b hb =>
  memRead_memWrites_other _ _ _ _ (by rw [length_leBytes]; omega)

theorem memAlone_of_mem_eq {s t : State} (lo n : Nat) (h : t.mem = s.mem) : MemAlone lo n s t := fun _ _ => by rw [h]

theorem MemAlone.trans {lo n : Nat} {s t r : State} (h : MemAlone lo n s t) (h' : MemAlone lo n t r) : MemAlone lo n s r :=
  fun a ha => (h' a ha).trans (h a ha)

theorem MemAlone.mono {lo n lo' n' : Nat} {s t : State} (h : MemAlone lo n s t) (hl : lo' ≤ lo) (hn : lo + n ≤ lo' + n') : MemAlone lo' n' s t :=
  fun a ha => h a (by omega)

@[simp] theorem putWord_cu (s : State) (a : Nat) (w : Word) (u : Nat) : (s.putWord a w).cu u = s.cu u := rfl
@[simp] theorem putWord_mu (s : State) (a : Nat) (w : Word) (c : Nat) : (s.putWord a w).mu c = s.mu c := rfl
@[simp] theorem putWord_reg (s : State) (a : Nat) (w : Word) (id : RegId) : (s.putWord a w).reg id = s.reg id := rfl
@[simp] theorem putWord_evt (s : State) (a : Nat) (w : Word) : (s.putWord a w).evt = s.evt := rfl
@[simp] theorem putWord_twin (s : State) (a : Nat) (w : Word) : (s.putWord a w).twin = s.twin := rfl

theorem errs_putWord_same (s : State) (a : Nat) (w : Word) : (s.putWord a w).errs.get [] (a / 16) = [] := Assoc.get_erase_same _ _ _

/-- A word without errors is read as it stands, and the read has no consequence (R400). -/
theorem readStore_of_clean {s : State} {a : Nat} (b loc store cu c off : Nat) (keep : Bool) (h : s.errs.get [] (a / 16) = []) :
    s.readStore a b loc store cu c off keep = (⟨s.word a, 0⟩, s) := by
  have hd : s.decodeAt a = ⟨s.word a, 0⟩ := by rw [State.decodeAt, h]; rfl
  simp [State.readStore, hd, h]

/-! ### What a read with errors leaves alone -/

theorem voteVoid_reg (s : State) (b cause : Nat) (id : RegId) : (s.voteVoid b cause).reg id = s.reg id := rfl

theorem detect_reg (s : State) (b loc cause cluster kind : Nat) (id : RegId) : (s.detect b loc cause cluster kind).reg id = s.reg id := by
  unfold State.detect; split <;> rfl

theorem addrFault_reg (s : State) (src addr who cause : Nat) (lane : Option Nat) (id : RegId) :
    (s.addrFault src addr who cause lane).reg id = s.reg id :=
  (kept_addrFault (List.Subset.refl _) (Kept.refl _ s)).eq_reg (by decide) id

theorem takeFree_reg (s : State) (id : RegId) : s.takeFree.reg id = s.reg id := rfl
theorem laneLost_reg (s : State) (u : Nat) (id : RegId) : (s.laneLost u).reg id = s.reg id := rfl

/-- The registers that record words with errors (R400, R401). -/
def errorRegs (b : Nat) : List RegId := [.bay b .relCe, .rel .ce, .bay b .relUe, .rel .ue, .bay b .relUeLast]

theorem correctedWord_reg {id : RegId} (s : State) {b : Nat} (loc store off : Nat) (h : id ∉ errorRegs b) : (s.correctedWord b loc store off).reg id = s.reg id := by
  simp only [errorRegs, List.mem_cons, List.not_mem_nil, or_false, not_or] at h
  obtain ⟨h1, h2, -⟩ := h
  rw [State.correctedWord, modBay_reg, count_reg, if_neg (Ne.symm h2), count_reg, if_neg (Ne.symm h1)]

theorem uncorrectableWord_reg {id : RegId} (s : State) {b : Nat} (loc store cu c off : Nat) (h : id ∉ errorRegs b) :
    (s.uncorrectableWord b loc store cu c off).reg id = s.reg id := by
  simp only [errorRegs, List.mem_cons, List.not_mem_nil, or_false, not_or] at h
  obtain ⟨-, -, h3, h4, h5⟩ := h
  rw [State.uncorrectableWord, detect_reg, voteVoid_reg, raiseBay_reg, record_reg_other _ _ _ (Ne.symm h5), count_reg, if_neg (Ne.symm h4), count_reg,
    if_neg (Ne.symm h3)]

theorem readStore_reg {id : RegId} (s : State) {b : Nat} (a loc store cu c off : Nat) (keep : Bool) (h : id ∉ errorRegs b) :
    (s.readStore a b loc store cu c off keep).2.reg id = s.reg id := by
  simp only [State.readStore, apply_ite Prod.snd, apply_ite (State.reg · id), correctedWord_reg _ _ _ _ h, putWord_reg, laneLost_reg,
    uncorrectableWord_reg _ _ _ _ _ _ h, takeFree_reg, ite_self]

/-! ### Round robin (R27) -/

theorem rrPick_none {n : Nat} (p : Nat) {req : Nat → Bool} (h : ∀ i, req i = false) : rrPick n p req = none := by
  simp [rrPick, h]

@[simp] theorem rrPick_nobody (n p : Nat) : rrPick n p (fun _ => false) = none := rrPick_none p fun _ => rfl

theorem mem_rrOrder {n i : Nat} (p : Nat) (h : i < n) : i ∈ (List.range n).map fun k => (p + k) % n := by
  have hp : p % n < n := Nat.mod_lt p (by omega)
  refine List.mem_map.2 ⟨(i + n - p % n) % n, List.mem_range.2 (Nat.mod_lt _ (by omega)), ?_⟩
  have hsum : p + (i + n - p % n) = i + n * (p / n + 1) := by
    have := Nat.div_add_mod p n
    rw [Nat.mul_add, Nat.mul_one]
    omega
  rw [Nat.add_mod_mod, hsum, Nat.add_mul_mod_self_left, Nat.mod_eq_of_lt h]

/-- What a grant says. -/
theorem rrPick_eq_some {n p j : Nat} {req : Nat → Bool} (h : rrPick n p req = some j) : j < n ∧ req j = true := by
  refine ⟨?_, List.find?_some h⟩
  obtain ⟨k, hk, rfl⟩ := List.mem_map.1 (List.mem_of_find?_eq_some h)
  exact Nat.mod_lt _ (Nat.zero_lt_of_lt (List.mem_range.1 hk))

/-- The grant goes to one that requests. -/
theorem rrPick_some {n i : Nat} (p : Nat) {req : Nat → Bool} (hi : i < n) (hr : req i = true) :
    ∃ j, rrPick n p req = some j ∧ j < n ∧ req j = true := by
  cases h : rrPick n p req with
  | none => exact absurd hr (List.find?_eq_none.1 h i (mem_rrOrder p hi))
  | some j => exact ⟨j, rfl, rrPick_eq_some h⟩

/-- One that requests alone is granted. -/
theorem rrPick_alone {n i : Nat} (p : Nat) {req : Nat → Bool} (hi : i < n) (hr : req i = true) (ha : ∀ j, j < n → req j = true → j = i) :
    rrPick n p req = some i := by
  obtain ⟨j, hj, hlt, hreq⟩ := rrPick_some p hi hr
  rw [hj, ha j hlt hreq]

end Sys2Proof.Machine

/-! PROOF. Family 00_scope: accesses of registers. What the time master's clock leaves alone, what a path brings to a register, and the
laws of the registers of a plain kind. -/

namespace Sys2Proof.Machine

/-! ### The time master's clock and the host port -/

@[simp] theorem masterTime_hw (s : State) (t : Nat) : (s.masterTime t).hw = s.hw := by
  unfold State.masterTime; split <;> rfl

@[simp] theorem masterTime_unreached (s : State) (t : Nat) (id : RegId) : (s.masterTime t).unreached id = s.unreached id := by
  simp only [State.unreached, masterTime_bay, masterTime_panel]

@[simp] theorem masterTime_windowDark (s : State) (t o : Nat) : (s.masterTime t).windowDark o = s.windowDark o := by
  simp only [State.windowDark, masterTime_bay, masterTime_panel]

@[simp] theorem masterTime_mayWrite (s : State) (t : Nat) (path : Path) (id : RegId) : (s.masterTime t).mayWrite path id = s.mayWrite path id := by
  unfold State.mayWrite
  split <;> simp only [masterTime_spdm]

theorem viaPort_of_linkUp {s : State} (f : State → State) (h : s.host.linkUp = true) : s.viaPort f = f s := if_pos h

theorem byPath_of_linkUp {s : State} (path : Path) (f : State → State) (h : s.host.linkUp = true) : s.byPath path f = f s := by
  unfold State.byPath
  split
  · exact viaPort_of_linkUp f h
  · rfl

/-- What is sent on the stream, or needs none, is taken as sent. -/
theorem onStream_of_onPath {path : Path} (s : State) (posted : Bool) (f : Path → State → State) (h : ∀ x, path ≠ .offStream x) :
    s.onStream path posted f = f path s := by
  cases path with
  | offStream x => exact absurd rfl (h x)
  | _ => rfl

theorem regTime_of_notAction {id : RegId} (s : State) (h : ∀ b e, id ≠ .launchAction b e) : s.regTime id = s := by
  unfold State.regTime
  split
  · exact absurd rfl (h _ _)
  · rfl

theorem is64_notAction {id : RegId} (h : isReg64 id = true) (b e : Nat) : id ≠ .launchAction b e := by
  rintro rfl
  cases h

/-! ### Reports -/

theorem raised_raise (s : State) (src k w0 w1 w2 w3 : Nat) :
    Raised s (s.raise src k w0 w1 w2 w3) src k (w0 % 2 ^ 32) (w1 % 2 ^ 32) (w2 % 2 ^ 32) (w3 % 2 ^ 32) := ⟨_, rfl⟩

theorem raised_raiseBay (s : State) (b k w0 w1 w2 w3 : Nat) :
    Raised s (s.raiseBay b k w0 w1 w2 w3) b k (w0 % 2 ^ 32) (w1 % 2 ^ 32) (w2 % 2 ^ 32) (w3 % 2 ^ 32) := ⟨_, rfl⟩

theorem Raised.of_evt_eq {s m t : State} {src k w0 w1 w2 w3 : Nat} (h : Raised m t src k w0 w1 w2 w3) (he : m.evt = s.evt) :
    Raised s t src k w0 w1 w2 w3 := by
  obtain ⟨ts, ht⟩ := h
  exact ⟨ts, by rw [ht, he]⟩

/-! ### Writes that arrive -/

theorem postWrite_of_linkUp {path : Path} {id : RegId} {s : State} (part : Part) (v : Reg) (hl : s.host.linkUp = true)
    (hh : path = .bar2 → s.host.held = []) (ha : ∀ b e, id ≠ .launchAction b e) : s.postWrite path id part v = s.regWrite path id part v := by
  unfold State.postWrite
  split
  · rw [State.bar2Write, viaPort_of_linkUp _ hl, hh rfl]
    rfl
  · rw [byPath_of_linkUp _ _ hl, regTime_of_notAction s ha]

theorem regWrite_of_mayWrite {path : Path} {id : RegId} {s : State} (part : Part) (v : Reg) (hu : s.unreached id = none)
    (hm : s.mayWrite path id = true) : s.regWrite path id part v = s.regParts id part v := by
  simp only [State.regWrite, hu, hm, if_true]

theorem regWrite_of_mayNotWrite {path : Path} {id : RegId} {s : State} (part : Part) (v : Reg) (hu : s.unreached id = none)
    (hm : s.mayWrite path id = false) : s.regWrite path id part v = s := by
  simp only [State.regWrite, hu, hm, Bool.false_eq_true, if_false]

/-- What a write of the whole register takes of the value: all of it, or the low word of a 32-bit register (R6). -/
def wholeValue (id : RegId) (v : Reg) : Reg := if isReg64 id then v else regOf (v.toNat % 2 ^ 32)

theorem getLsbD_regOf_mod (v : Reg) (i : Nat) : (regOf (v.toNat % 2 ^ 32)).getLsbD i = (decide (i < 32) && v.getLsbD i) := by
  have hlt : v.toNat % 2 ^ 32 < 2 ^ 64 := by omega
  rw [regOf, BitVec.getLsbD, BitVec.toNat_ofNat, Nat.mod_eq_of_lt hlt, Nat.testBit_mod_two_pow]
  rfl

theorem getLsbD_wholeValue (id : RegId) (v : Reg) (i : Nat) :
    (wholeValue id v).getLsbD i = (v.getLsbD i && (isReg64 id || decide (i < 32))) := by
  unfold wholeValue
  split
  · rename_i h; simp [h]
  · rename_i h; rw [getLsbD_regOf_mod, Bool.and_comm]; simp [h]

/-- A write of the whole register is one write of its value, as is one of either half of a 32-bit register; only the halves that wait
in the host port may differ (R7). -/
theorem regParts_at_once {id : RegId} {part : Part} (s : State) (v : Reg) (h : part = .whole ∨ isReg64 id = false) :
    ∃ f, s.regParts id part v = (s.modHost f).regApply id (wholeValue id v) := by
  unfold State.regParts wholeValue
  cases hb : isReg64 id
  · exact ⟨fun x => x, rfl⟩
  · obtain rfl : part = .whole := h.resolve_right (by simp [hb])
    exact ⟨_, rfl⟩

/-! ### The value that a write leaves -/

theorem plainWrite_of_unlocked {s : State} {id : RegId} {v : Reg} (h : s.locked id v = false) :
    s.plainWrite id v = s.setReg id (written (regAcc id) (s.reg id) v (s.hwBits id)) := by
  rw [State.plainWrite, h]
  rfl

theorem not_locked_of_rwl_zero {id : RegId} (s : State) (v : Reg) (h : (regAcc id).rwl = 0) : s.locked id v = false := by
  simp [State.locked, h]

/-- R9, R10: bit by bit, a write to a register with W1C and RW bits alone. -/
theorem getLsbD_written {a : RegAcc} (old v hw : Reg) {i : Nat} (hi : i < 64) (hl : a.rwl = 0) (hs : a.w1s = 0) :
    (written a old v hw).getLsbD i =
      if a.w1c.getLsbD i && v.getLsbD i && !hw.getLsbD i then false else if a.rw.getLsbD i then v.getLsbD i else old.getLsbD i := by
  simp only [written, hl, hs, BitVec.getLsbD_and, BitVec.getLsbD_or, BitVec.getLsbD_not, hi, decide_true,
    Bool.true_and]
  cases a.w1c.getLsbD i <;> cases v.getLsbD i <;> cases hw.getLsbD i <;> cases a.rw.getLsbD i <;> simp

/-- R11: an RWL bit takes the value. -/
theorem getLsbD_written_rwl {a : RegAcc} (old v hw : Reg) {i : Nat} (hi : i < 64) (hb : a.rwl.getLsbD i = true) (hs : a.w1s = 0) (hc : a.w1c = 0) :
    (written a old v hw).getLsbD i = v.getLsbD i := by
  simp only [written, hs, hc, BitVec.getLsbD_and, BitVec.getLsbD_or, BitVec.getLsbD_not, hb, hi]
  simp

/-- No register has both RW and W1C bits. -/
theorem rw_or_w1c_zero (id : RegId) : (regAcc id).rw = 0 ∨ (regAcc id).w1c = 0 := by
  unfold regAcc
  split
  all_goals simp [accRo, accRw, accRc, accW1c]

/-! ### Registers of a plain kind -/

/-- What the registers of a plain kind share: no RWL and no W1S bits, no clock of their own, writes and reads that have no effect beyond
their access classes; one that the host may not write has no bit that a write changes. -/
structure PlainLaws (id : RegId) : Prop where
  rwl : (regAcc id).rwl = 0
  w1s : (regAcc id).w1s = 0
  notAction : ∀ b e, id ≠ .launchAction b e
  has : hasRegister .host id = true
  apply : ∀ (s : State) v, s.mayWrite .host id = true → s.regApply id v = s.plainWrite id v
  readOnly : ∀ s : State, s.mayWrite .host id = false → regAcc id = accRo
  take : ∀ (s : State) host, s.regTake host id = s.rcTake host id (regAcc id).rc

/-- Mostly the definitions' own words, for one register name after the other. -/
theorem plainLaws {id : RegId} (h : plainKind id = true) : PlainLaws id := by
  cases id with
  | dev r | pwr r | hbm st r | opt t r | mu c r =>
    cases r
    all_goals exact ⟨rfl, rfl, nofun, rfl, fun _ _ _ => rfl, fun _ h => absurd h Bool.noConfusion, fun _ _ => rfl⟩
  | mboxReq w | mboxRsp w | launchTarget b e | probe b i | desc u d w | dmaDesc u d w | route u e | vwin c i =>
    exact ⟨rfl, rfl, nofun, rfl, fun _ _ _ => rfl, fun _ h => absurd h Bool.noConfusion, fun _ _ => rfl⟩
  | host r =>
    cases r
    case bar4Base | mboxStatus => exact ⟨rfl, rfl, nofun, rfl, fun _ _ _ => rfl, fun _ h => absurd h Bool.noConfusion, fun _ _ => rfl⟩
    all_goals cases h
  | evt r =>
    cases r
    case ringBase | status | merged => exact ⟨rfl, rfl, nofun, rfl, fun _ _ _ => rfl, fun _ h => absurd h Bool.noConfusion, fun _ _ => rfl⟩
    all_goals cases h
  | time r =>
    cases r
    case peerCtrl | holdCount => exact ⟨rfl, rfl, nofun, rfl, fun _ _ _ => rfl, fun _ h => absurd h Bool.noConfusion, fun _ _ => rfl⟩
    all_goals cases h
  | stitch r =>
    cases r
    case ctrl | modeCmd => cases h
    all_goals exact ⟨rfl, rfl, nofun, rfl, fun _ _ _ => rfl, fun _ h => absurd h Bool.noConfusion, fun _ _ => rfl⟩
  | boot r =>
    cases r
    case reset => cases h
    all_goals exact ⟨rfl, rfl, nofun, rfl, fun _ _ _ => rfl, fun _ h => absurd h Bool.noConfusion, fun _ _ => rfl⟩
  | panel p r =>
    cases r
    case meshHoles => exact ⟨rfl, rfl, nofun, rfl, fun _ _ h => absurd h Bool.noConfusion, fun _ _ => rfl, fun _ _ => rfl⟩
    all_goals exact ⟨rfl, rfl, nofun, rfl, fun _ _ _ => rfl, fun _ h => absurd h Bool.noConfusion, fun _ _ => rfl⟩
  | bay b r =>
    cases r
    case fabTelSize | fabTelBase | pwrVmin | fabSeamMax => cases h
    all_goals exact ⟨rfl, rfl, nofun, rfl, fun _ _ _ => rfl, fun _ h => absurd h Bool.noConfusion, fun _ _ => rfl⟩
  | cu u r =>
    cases r
    case srSeed => cases h
    all_goals exact ⟨rfl, rfl, nofun, rfl, fun _ _ _ => rfl, fun _ h => absurd h Bool.noConfusion, fun _ _ => rfl⟩
  | rtr c r =>
    cases r
    case status => cases h
    all_goals exact ⟨rfl, rfl, nofun, rfl, fun _ _ _ => rfl, fun _ h => absurd h Bool.noConfusion, fun _ _ => rfl⟩
  | _ => cases h

theorem wholeValue_toNat_mod (id : RegId) (v : Reg) : (wholeValue id v).toNat % 2 ^ 32 = v.toNat % 2 ^ 32 := by
  unfold wholeValue regOf
  split
  · rfl
  · rw [BitVec.toNat_ofNat]; omega

theorem regsAlone_setReg (s : State) (id : RegId) (v : Reg) : RegsAlone [id] s (s.setReg id v) := by
  intro q hq
  rw [setReg_reg, if_neg (fun e => hq (by simp [e]))]

/-- R9, R10: what a host write does to a register of a plain kind that answers. -/
theorem plain_regWrite {id : RegId} {part : Part} {s : State} (v : Reg) (hp : plainKind id = true) (hu : s.unreached id = none)
    (hpart : part = .whole ∨ isReg64 id = false) :
    (∀ i, i < 64 → ((s.regWrite .host id part v).reg id).getLsbD i =
      if (regAcc id).w1c.getLsbD i && (v.getLsbD i && (isReg64 id || decide (i < 32))) && !(s.hwBits id).getLsbD i then false
      else if (regAcc id).rw.getLsbD i then v.getLsbD i && (isReg64 id || decide (i < 32)) else (s.reg id).getLsbD i) ∧
    RegsAlone [id] s (s.regWrite .host id part v) ∧ Kept [.host, .regs] s (s.regWrite .host id part v) := by
  have hl := plainLaws hp
  cases hm : s.mayWrite .host id with
  | false =>
    rw [regWrite_of_mayNotWrite part v hu hm, hl.readOnly s hm]
    exact ⟨fun i _ => by simp [accRo], fun q _ => rfl, Kept.refl _ _⟩
  | true =>
    obtain ⟨f, hf⟩ := regParts_at_once (id := id) s v hpart
    have hm' : (s.modHost f).mayWrite .host id = true := hm
    rw [regWrite_of_mayWrite part v hu hm, hf, hl.apply _ _ hm', plainWrite_of_unlocked (not_locked_of_rwl_zero _ _ hl.rwl)]
    refine ⟨fun i hi => ?_, regsAlone_setReg _ _ _, kept_setReg (by decide) (kept_modHost (by decide) (Kept.refl _ s))⟩
    rw [setReg_reg, if_pos rfl, getLsbD_written _ _ _ hi hl.rwl hl.w1s, getLsbD_wholeValue]
    rfl

/-- A write that arrives, at its time. -/
theorem exec_registerWrite {t : Nat} {path : Path} {id : RegId} {s : State} (part : Part) (v : Reg) (hp : ∀ x, path ≠ .offStream x)
    (hl : s.host.linkUp = true) (hh : path = .bar2 → s.host.held = []) (ha : ∀ b e, id ≠ .launchAction b e) :
    exec (.registerWrite t path id part v) s = .next ((s.masterTime t).regWrite path id part v) := by
  change Host.Outcome.next ((s.masterTime t).onStream path true fun p x => x.postWrite p id part v) = _
  rw [onStream_of_onPath _ _ _ hp, postWrite_of_linkUp part v (by simpa using hl) (by simpa using hh) ha]

end Sys2Proof.Machine

/-! PROOF. Family 00_scope: register writes (O10). -/

namespace Sys2Proof.Machine

theorem masterTime_regsAlone {ids : List RegId} {s r : State} (t : Nat) (h : RegsAlone ids (s.masterTime t) r) : RegsAlone ids s r :=
  fun q hq => (h q hq).trans (masterTime_reg s t q)

/-- A write of TWIN_CFG that arrives is one of its RWL fields (R11), by whatever path it comes. -/
theorem exec_twinCfgWrite {t : Nat} {path : Path} {s : State} (v : Reg) (hp : ∀ x, path ≠ .offStream x) (hl : s.host.linkUp = true)
    (hh : s.host.held = []) :
    exec (.registerWrite t path (.twin .cfg) .whole v) s = .next ((s.masterTime t).plainWrite (.twin .cfg) (wholeValue (.twin .cfg) v)) := by
  rw [exec_registerWrite (id := .twin .cfg) .whole v hp hl (fun _ => hh) nofun, regWrite_of_mayWrite .whole v rfl rfl]
  rfl

/-- The RWL bits of TWIN_CFG all take the value. -/
theorem and_written_rwl (old v hw : Reg) :
    written (regAcc (.twin .cfg)) old (wholeValue (.twin .cfg) v) hw &&& 0x7F7FFF = v &&& 0x7F7FFF := by
  have hlow : ∀ i < 64, (0x7F7FFF : Reg).getLsbD i = true → i < 32 := by decide
  refine BitVec.eq_of_getLsbD_eq fun i hi => ?_
  cases hb : (0x7F7FFF : Reg).getLsbD i with
  | false => rw [BitVec.getLsbD_and, BitVec.getLsbD_and, hb, Bool.and_false, Bool.and_false]
  | true =>
    rw [BitVec.getLsbD_and, BitVec.getLsbD_and, getLsbD_written_rwl (a := regAcc (.twin .cfg)) _ _ _ hi hb rfl rfl, getLsbD_wholeValue,
      decide_eq_true (hlow i hi hb), Bool.or_true, Bool.and_true]

/-- Settles O10: a plain register is written bit by bit (`plain_regWrite`), and the lock decides between TWIN_CFG and the event. -/
theorem registerWrites : Obligations.RegisterWrites := by
  refine ⟨?_, ?_, ?_⟩
  · intro t id v s m hm hlink hp hu
    subst hm
    obtain ⟨hbits, hregs, hkept⟩ := plain_regWrite (s := s.masterTime t) (part := .whole) v hp (by simpa using hu) (.inl rfl)
    refine ⟨_, exec_registerWrite .whole v nofun hlink nofun (plainLaws hp).notAction, fun i hi => ?_, masterTime_regsAlone t hregs, ?_⟩
    · rw [hbits i hi, masterTime_reg]
    · exact ((kept_masterTime (by decide) (Kept.refl _ s)).trans (hkept.mono (by decide))).touches
  · intro t path v s hp hlink hheld hinv
    have hlock : (s.masterTime t).locked (.twin .cfg) (wholeValue (.twin .cfg) v) = true := by
      rw [State.locked, masterTime_sup, hinv]
      rfl
    have hraise : (s.masterTime t).plainWrite (.twin .cfg) (wholeValue (.twin .cfg) v) =
        (s.masterTime t).raise 361 0x21 0x900000 (wholeValue (.twin .cfg) v).toNat 0 0 := by
      rw [State.plainWrite, hlock]
      rfl
    refine ⟨_, (exec_twinCfgWrite v hp hlink hheld).trans (congrArg _ hraise), ?_, ?_, ?_⟩
    · rw [raise_reg, masterTime_reg]
    · have hr := raised_raise (s.masterTime t) 361 0x21 0x900000 (wholeValue (.twin .cfg) v).toNat 0 0
      rw [wholeValue_toNat_mod] at hr
      exact hr.of_evt_eq (masterTime_evt s t)
    · exact (kept_raise (by decide) (kept_masterTime (by decide) (Kept.refl _ s))).touches
  · intro t path v s hp hlink hheld hinv
    have hlock : (s.masterTime t).locked (.twin .cfg) (wholeValue (.twin .cfg) v) = false := by
      rw [State.locked, masterTime_sup, hinv]
      rfl
    refine ⟨_, (exec_twinCfgWrite v hp hlink hheld).trans (congrArg _ (plainWrite_of_unlocked hlock)), ?_, ?_, ?_⟩
    · rw [setReg_reg, if_pos rfl]
      exact and_written_rwl _ v _
    · exact masterTime_regsAlone t (regsAlone_setReg _ _ _)
    · exact (kept_setReg (by decide) (kept_masterTime (by decide) (Kept.refl _ s))).touches

end Sys2Proof.Machine

/-! PROOF. Family 00_scope: register reads, and a 64-bit register in two halves (O11). -/

namespace Sys2Proof.Machine

/-! ### Bytes and bits -/

/-- The low bytes of a value are those of its low bits. -/
theorem leBytes_mod (n k v : Nat) (h : 8 * n ≤ k) : leBytes n (v % 2 ^ k) = leBytes n v := by
  induction n generalizing k v with
  | zero => rfl
  | succ n ih =>
    obtain ⟨j, rfl⟩ : ∃ j, k = 8 + j := ⟨k - 8, by omega⟩
    have hbyte : BitVec.ofNat 8 (v % 2 ^ (8 + j)) = BitVec.ofNat 8 v := by
      refine BitVec.eq_of_toNat_eq ?_
      rw [BitVec.toNat_ofNat, BitVec.toNat_ofNat, Nat.mod_mod_of_dvd _ (Nat.pow_dvd_pow 2 (by omega))]
    have hrest : v % 2 ^ (8 + j) / 256 = v / 256 % 2 ^ j := by
      rw [Nat.pow_add]
      exact Nat.mod_mul_right_div_self v 256 (2 ^ j)
    rw [leBytes, leBytes, hbyte, hrest, ih j _ (by omega)]

theorem leBytes_regOf_mod (v : Nat) : leBytes 4 (regOf (v % 2 ^ 32)).toNat = leBytes 4 v := by
  rw [regOf, BitVec.toNat_ofNat, Nat.mod_eq_of_lt (by omega), leBytes_mod 4 32 v (by omega)]

theorem and_not_of_and_eq_zero {x m : Reg} (h : x &&& m = 0) : x &&& ~~~m = x := by
  refine BitVec.eq_of_getLsbD_eq fun i hi => ?_
  have hbit : (x.getLsbD i && m.getLsbD i) = false := by rw [← BitVec.getLsbD_and, h]; exact BitVec.getLsbD_zero
  rw [BitVec.getLsbD_and, BitVec.getLsbD_not, decide_eq_true hi, Bool.true_and]
  cases hx : x.getLsbD i <;> simp_all

/-! ### Reads that clear (R9, R10) -/

theorem rcTake_of_hwAt_none {s : State} {id : RegId} (host : Bool) (m : Reg) (h : s.hwAt id = none) :
    (s.rcTake host id m).1 = s.readReg host id ∧ (s.rcTake host id m).2.reg id = s.reg id &&& ~~~m := by
  by_cases hm : m = 0
  · subst hm
    rw [State.rcTake, if_pos rfl]
    exact ⟨rfl, (and_not_of_and_eq_zero BitVec.and_zero).symm⟩
  · rw [State.rcTake, if_neg hm, h]
    refine ⟨rfl, ?_⟩
    by_cases h0 : s.reg id &&& m = 0
    · exact (congrArg (State.reg · id) (if_pos h0)).trans (and_not_of_and_eq_zero h0).symm
    · exact (congrArg (State.reg · id) (if_neg h0)).trans ((setReg_reg s id _ id).trans (if_pos rfl))

theorem rcTake_of_hwAt_some {s : State} {id : RegId} {e : HwSet} (host : Bool) {m : Reg} (hm : m ≠ 0) (h : s.hwAt id = some e) :
    (s.rcTake host id m).1 = (s.setReg id e.old).readReg host id ∧
      (s.rcTake host id m).2.reg id = (s.reg id &&& ~~~m) ||| (e.fresh &&& m) := by
  rw [State.rcTake, if_neg hm, h]
  refine ⟨rfl, ?_⟩
  exact (setReg_reg s id _ id).trans (if_pos rfl)

theorem rcTake_regsAlone (s : State) (host : Bool) (id : RegId) (m : Reg) : RegsAlone [id] s (s.rcTake host id m).2 := by
  unfold State.rcTake
  split
  · exact fun _ _ => rfl
  · split
    · exact regsAlone_setReg s id _
    · split
      · exact fun _ _ => rfl
      · exact regsAlone_setReg s id _

/-! ### Reads that arrive -/

theorem regRead_of_hasRegister {s : State} {path : Path} {id : RegId} (part : Part) (hu : s.unreached id = none) (hr : hasRegister path id = true) :
    s.regRead path id part = s.regPart (decide (path = .host)) id part := by
  simp only [State.regRead, hu, hr, if_true]

theorem readCmd_of_linkUp {s : State} {path : Path} {id : RegId} (part : Part) (hl : s.host.linkUp = true) (hu : s.unreached id = none)
    (hr : hasRegister path id = true) :
    s.readCmd path id part =
      (s.regPart (decide (path = .host)) id part).2.answered (partBytes id part) (s.regPart (decide (path = .host)) id part).1 := by
  rw [State.readCmd, byPath_of_linkUp _ _ hl, regRead_of_hasRegister part hu hr]

/-- A read that arrives, at its time. -/
theorem exec_registerReadClear {t : Nat} {path : Path} {id : RegId} {s : State} (part : Part) (hp : ∀ x, path ≠ .offStream x) :
    exec (.registerReadClear t path id part) s = .next ((s.masterTime t).readCmd path id part) := by
  change Host.Outcome.next ((s.masterTime t).onStream path false fun p x => x.readCmd p id part) = _
  rw [onStream_of_onPath _ _ _ hp]

/-- A read of the whole register, or of either half of a 32-bit one, takes the register once and answers with its bytes. -/
theorem regPart_at_once {id : RegId} {part : Part} (s : State) (host : Bool) (h : part = .whole ∨ isReg64 id = false) :
    leBytes (partBytes id part) (s.regPart host id part).1.toNat = leBytes (partBytes id part) (s.regTake host id).1.toNat ∧
      (s.regPart host id part).2 = (s.regTake host id).2 := by
  unfold State.regPart
  cases hb : isReg64 id
  · have h4 : partBytes id part = 4 := by cases part <;> simp [partBytes, hb]
    rw [h4]
    exact ⟨leBytes_regOf_mod _, rfl⟩
  · obtain rfl : part = .whole := h.resolve_right (by simp [hb])
    exact ⟨rfl, rfl⟩

/-- R9, R10: what a host read does of a register of a plain kind that answers. -/
theorem plain_readCmd {id : RegId} {part : Part} {s : State} (hp : plainKind id = true) (hl : s.host.linkUp = true) (hu : s.unreached id = none)
    (hpart : part = .whole ∨ isReg64 id = false) :
    (s.readCmd .host id part).host.answer = leBytes (partBytes id part) (s.rcTake true id (regAcc id).rc).1.toNat ∧
      (s.readCmd .host id part).reg id = (s.rcTake true id (regAcc id).rc).2.reg id ∧
      RegsAlone [id] s (s.readCmd .host id part) ∧ Kept [.host, .regs] s (s.readCmd .host id part) := by
  have hlaws := plainLaws hp
  obtain ⟨hbytes, hstate⟩ := regPart_at_once (id := id) s true hpart
  rw [hlaws.take] at hbytes hstate
  have hcmd : s.readCmd .host id part = (s.rcTake true id (regAcc id).rc).2.answered (partBytes id part) (s.regPart true id part).1 :=
    (readCmd_of_linkUp part hl hu hlaws.has).trans (congrArg (fun x => State.answered x _ _) hstate)
  rw [hcmd]
  exact ⟨hbytes, rfl, rcTake_regsAlone s true id _, kept_answered (by decide) (kept_rcTake (by decide) (Kept.refl _ s))⟩

/-! ### 64-bit registers (R7) -/

/-- A 64-bit register is taken by its access class; TIME_NOW latches the master's ns beside it. -/
theorem is64_regTake {id : RegId} (s : State) (host : Bool) (h : isReg64 id = true) :
    s.regTake host id = s.rcTake host id (regAcc id).rc ∨ (id = .time .now ∧ s.regTake host id = (s.readReg host id, s.latchNs)) := by
  unfold State.regTake
  split
  · cases h
  · exact .inr ⟨rfl, rfl⟩
  · cases h
  · cases h
  · exact .inl rfl

/-- What a read of a 64-bit register takes, where no hardware update falls into the cycle. -/
theorem is64_taken {id : RegId} {s : State} (host : Bool) (h : isReg64 id = true) (hw : s.hwAt id = none) :
    (s.regTake host id).1 = s.readReg host id ∧ (s.regTake host id).2.reg id = s.reg id &&& ~~~(regAcc id).rc ∧
      RegsAlone [id] s (s.regTake host id).2 ∧ Kept [.clk, .regs] s (s.regTake host id).2 := by
  rcases is64_regTake s host h with he | ⟨rfl, he⟩ <;> rw [he]
  · obtain ⟨hv, hr⟩ := rcTake_of_hwAt_none host (regAcc id).rc hw
    exact ⟨hv, hr, rcTake_regsAlone s host id _, kept_rcTake (by decide) (Kept.refl _ s)⟩
  · exact ⟨rfl, (and_not_of_and_eq_zero BitVec.and_zero).symm, fun _ _ => rfl, kept_latchNs (by decide) (Kept.refl _ s)⟩

/-- A write of a 64-bit register touches nothing of the host port. -/
theorem is64_kept_regApply {id : RegId} {l : List Comp} {a s : State} {v : Reg} (h : isReg64 id = true) (hl : [.regs, .evt] ⊆ l) (hk : Kept l a s) :
    Kept l a (s.regApply id v) := by
  cases id with
  | waitCfg n => exact kept_waitWrite (sub hl (by decide)) hk
  | eBay p b | launchTarget b e => exact kept_plainWrite (sub hl (by decide)) hk
  | host r =>
    cases r
    case bar4Base => exact kept_plainWrite (sub hl (by decide)) hk
    all_goals cases h
  | evt r =>
    cases r
    case ringBase => exact kept_plainWrite (sub hl (by decide)) hk
    all_goals cases h
  | time r =>
    cases r
    case now | ns | peerFeed | peerWait => exact kept_plainWrite (sub hl (by decide)) hk
    all_goals cases h
  | stitch r =>
    cases r
    case number | commitSeq | modeArg | modeTarget => exact kept_plainWrite (sub hl (by decide)) hk
    all_goals cases h
  | pwr r =>
    cases r
    case eMain | eIo | eAux => exact kept_plainWrite (sub hl (by decide)) hk
    all_goals cases h
  | rel r =>
    cases r
    case faultRec2 => exact kept_plainWrite (sub hl (by decide)) hk
    all_goals cases h
  | hbm st r =>
    cases r
    case pcMap | pcFail | ueLast => exact kept_plainWrite (sub hl (by decide)) hk
    all_goals cases h
  | opt t r =>
    cases r
    case peerSerial => exact kept_plainWrite (sub hl (by decide)) hk
    all_goals cases h
  | twin r =>
    cases r
    case ckptLast | ckptOpen | ckptBytes => exact kept_plainWrite (sub hl (by decide)) hk
    all_goals cases h
  | sec r =>
    cases r
    case svnTf | svnMf | svnPat | svnWgt | lmsUsed | lmsReserved | diagAddr => exact kept_plainWrite (sub hl (by decide)) hk
    all_goals cases h
  | panel p r =>
    cases r
    case meshHoles => exact kept_setReg (sub hl (by decide)) hk
    case eFabric | eIo => exact kept_plainWrite (sub hl (by decide)) hk
    all_goals cases h
  | bay b r =>
    cases r
    case fabTelBase => exact kept_ringConfig (sub hl (by decide)) hk
    case timeNow | pwrVminTs | relUeLast => exact kept_plainWrite (sub hl (by decide)) hk
    all_goals cases h
  | qp q r =>
    cases r
    case inBase | outBase => exact kept_plainWrite (sub hl (by decide)) hk
    all_goals cases h
  | dma d r =>
    cases r
    case ringBase => exact kept_plainWrite (sub hl (by decide)) hk
    all_goals cases h
  | _ => cases h

/-! ### The two halves -/

theorem regPart_low {id : RegId} (s : State) (host : Bool) (h : isReg64 id = true) :
    s.regPart host id .low = (regOf ((s.regTake host id).1.toNat % 2 ^ 32), (s.regTake host id).2.modHost fun x =>
      { x with latches := (id, regOf ((s.regTake host id).1.toNat / 2 ^ 32)) :: List.filter (fun e => decide (e.1 ≠ id)) s.host.latches }) := by
  simp only [State.regPart, h, Bool.not_true, Bool.false_eq_true, if_false]

theorem regPart_high {id : RegId} {s : State} {x : Reg} {rest : List (RegId × Reg)} (host : Bool) (h : isReg64 id = true)
    (hx : s.host.latches = (id, x) :: rest) :
    s.regPart host id .high = (x, s.modHost fun y => { y with latches := List.filter (fun e => decide (e.1 ≠ id)) s.host.latches }) := by
  simp [State.regPart, h, hx]

theorem regParts_high {id : RegId} (s : State) (v : Reg) (h : isReg64 id = true) :
    s.regParts id .high v =
      s.modHost fun y => { y with lowWrites := (id, regOf (v.toNat % 2 ^ 32)) :: List.filter (fun e => decide (e.1 ≠ id)) s.host.lowWrites } := by
  simp only [State.regParts, h, Bool.not_true, Bool.false_eq_true, if_false]

theorem regParts_whole {id : RegId} (s : State) (v : Reg) (h : isReg64 id = true) :
    s.regParts id .whole v =
      (s.modHost fun y => { y with lowWrites := List.filter (fun e => decide (e.1 ≠ id)) s.host.lowWrites }).regApply id v := by
  simp only [State.regParts, h, Bool.not_true, Bool.false_eq_true, if_false]

/-- The low half takes the high half that waits along. -/
theorem regParts_low {id : RegId} {s : State} {x : Reg} {rest : List (RegId × Reg)} (v : Reg) (h : isReg64 id = true)
    (hx : s.host.lowWrites = (id, x) :: rest) :
    s.regParts id .low v = s.regParts id .whole (regOf (x.toNat * 2 ^ 32 + v.toNat % 2 ^ 32)) := by
  simp [State.regParts, h, hx]

theorem not_mem_filter_ne (id : RegId) (l : List (RegId × Reg)) (y : Reg) : (id, y) ∉ List.filter (fun e => decide (e.1 ≠ id)) l := by
  simp

/-- Settles O11: `rcTake` with and without an update in the cycle; a half goes through the latch or the waiting half to an access of the whole. -/
theorem registerReads : Obligations.RegisterReads := by
  refine ⟨?_, ?_⟩
  · intro t id s m hm hlink hp hrc hu
    subst hm
    obtain ⟨hans, hreg, hregs, hkept⟩ :=
      plain_readCmd (s := s.masterTime t) (part := .whole) hp (by simpa using hlink) (by simpa using hu) (.inl rfl)
    refine ⟨_, exec_registerReadClear .whole nofun, fun hw => ?_, fun e hw => ?_, masterTime_regsAlone t hregs, ?_⟩
    · obtain ⟨hv, hr⟩ := rcTake_of_hwAt_none true (regAcc id).rc hw
      rw [hans, hreg, hv, hr, masterTime_reg]
      exact ⟨rfl, rfl⟩
    · obtain ⟨hv, hr⟩ := rcTake_of_hwAt_some true hrc hw
      rw [hans, hreg, hv, hr, masterTime_reg]
      exact ⟨rfl, rfl⟩
    · exact ((kept_masterTime (by decide) (Kept.refl _ s)).trans (hkept.mono (by decide))).touches
  · intro t path id s m hp hm hlink hheld h64 hu hw
    subst hm
    have hlink' : (s.masterTime t).host.linkUp = true := by simpa using hlink
    have hu' : (s.masterTime t).unreached id = none := by simpa using hu
    obtain ⟨hv, hr, hregs, hkept⟩ := is64_taken (decide (path = .host)) h64 hw
    rw [masterTime_reg] at hr
    have htime : Kept [.clk, .host, .regs] s (s.masterTime t) := kept_masterTime (by decide) (Kept.refl _ s)
    have hhost : ((s.masterTime t).regTake (decide (path = .host)) id).2.host = s.host := (hkept.eq_host (by decide)).trans (masterTime_host s t)
    have hwrite (part : Part) (v : Reg) (hmay : s.mayWrite path id = true) :
        exec (.registerWrite t path id part v) s = .next ((s.masterTime t).regParts id part v) := by
      rw [exec_registerWrite part v hp hlink (fun _ => hheld) (is64_notAction h64), regWrite_of_mayWrite part v hu' (by simpa using hmay)]
    have hread (part : Part) (hhas : hasRegister path id = true) :
        exec (.registerReadClear t path id part) s = .next (((s.masterTime t).regPart (decide (path = .host)) id part).2.answered
          (partBytes id part) ((s.masterTime t).regPart (decide (path = .host)) id part).1) := by
      rw [exec_registerReadClear part hp, readCmd_of_linkUp part hlink' hu' hhas]
    refine ⟨fun hhas => ?_, fun hhas => ?_, fun x rest hhas hx => ?_, fun v hmay => ?_, fun v x rest hmay hx => ?_⟩
    · have h8 : partBytes id .whole = 8 := by simp [partBytes, h64]
      obtain ⟨hbytes, hstate⟩ := regPart_at_once (id := id) (s.masterTime t) (decide (path = .host)) (.inl rfl)
      have hexec := hread .whole hhas
      rw [hstate] at hexec
      refine ⟨_, hexec, ?_, hr, (congrArg HostSt.latches hhost :), masterTime_regsAlone t hregs, ?_⟩
      · exact hbytes.trans (by rw [h8, hv])
      · exact (kept_answered (by decide) (htime.trans (hkept.mono (by decide)))).touches
    · have hexec := hread .low hhas
      rw [regPart_low _ _ h64, hv] at hexec
      refine ⟨_, hexec, leBytes_regOf_mod _, ⟨_, rfl⟩, hr, masterTime_regsAlone t hregs, ?_⟩
      exact (kept_answered (by decide) (kept_modHost (by decide) (htime.trans (hkept.mono (by decide))))).touches
    · have hexec := hread .high hhas
      rw [regPart_high _ h64 (by simpa using hx)] at hexec
      refine ⟨_, hexec, rfl, not_mem_filter_ne id _, ?_⟩
      exact (kept_answered (by decide) (kept_modHost (by decide) (kept_masterTime (by decide) (Kept.refl _ s)))).touches
    · refine ⟨_, (hwrite .high v hmay).trans (congrArg _ (regParts_high _ v h64)), ⟨_, rfl⟩, ?_⟩
      exact (kept_modHost (by decide) (kept_masterTime (by decide) (Kept.refl _ s))).touches
    · have hboth : (s.masterTime t).regParts id .low v = (s.masterTime t).regParts id .whole (regOf (x.toNat * 2 ^ 32 + v.toNat % 2 ^ 32)) :=
        regParts_low v h64 (by simpa using hx)
      refine ⟨_, (hwrite .low v hmay).trans (congrArg _ hboth), ?_, hwrite .whole _ hmay⟩
      rw [regParts_whole _ _ h64, (is64_kept_regApply h64 (List.Subset.refl _) (Kept.refl _ _)).eq_host (by decide)]
      exact not_mem_filter_ne id _

end Sys2Proof.Machine

/-! PROOF. Family 00_scope: accesses of control space by offset, and what the IDE stream lets through (O12). -/

namespace Sys2Proof.Machine

/-! ### An access is the access of the register at its offset -/

/-- The accesses that an access of one register makes: the part at that offset, or the whole of a 64-bit register. -/
theorem partsAt_four {path : Path} {o k : Nat} {id : RegId} (h : regAt path o = some (id, k)) :
    partsAt path o 4 = some [(id, if k = 1 then .high else .low)] := by
  simp only [partsAt, h, if_true]

theorem partsAt_eight {path : Path} {o : Nat} {id : RegId} (h : regAt path o = some (id, 0)) (h64 : isReg64 id = true) :
    partsAt path o 8 = some [(id, .whole)] := by
  simp [partsAt, h, h64]

theorem regAt_of_notBar2 {path : Path} (o : Nat) (h : path ≠ .bar2) : regAt path o = ctlReg o := by
  cases path with
  | bar2 => exact absurd rfl h
  | _ => rfl

/-- An aligned access of one register in a window that answers, as a write and as a read of it. -/
theorem access_write {s : State} {path : Path} {o n : Nat} {id : RegId} {part : Part} (v : Reg) (hn : n = 4 ∨ n = 8) (ho : o % n = 0)
    (hd : s.windowDark o = false) (hparts : partsAt path o n = some [(id, part)]) : s.access path o n true v = s.postWrite path id part v := by
  have hgood : s.accessBad path o n = none := by
    have h4 : ¬((n ≠ 4 ∧ n ≠ 8) ∨ o % n ≠ 0) := by omega
    simp [State.accessBad, h4, hd, hparts]
  have hv : regOf v.toNat = v := BitVec.ofNat_toNat 64 v
  simp [State.access, hgood, hparts, State.writeParts, hv]

theorem access_read {s : State} {path : Path} {o n : Nat} {id : RegId} {part : Part} (v : Reg) (hn : n = 4 ∨ n = 8) (ho : o % n = 0)
    (hd : s.windowDark o = false) (hparts : partsAt path o n = some [(id, part)]) :
    s.access path o n false v = (s.regRead path id part).2.answered (partBytes id part) (s.regRead path id part).1 := by
  have hgood : s.accessBad path o n = none := by
    have h4 : ¬((n ≠ 4 ∧ n ≠ 8) ∨ o % n ≠ 0) := by omega
    simp [State.accessBad, h4, hd, hparts]
  simp [State.access, hgood, hparts, State.readParts, State.answered]

/-- What comes through the port is gated once. -/
theorem byPath_byPath (s : State) (path : Path) (f : State → State) : (s.byPath path fun x => x.byPath path f) = s.byPath path f := by
  unfold State.byPath State.viaPort
  split
  · split
    · rename_i h; simp [h]
    · rfl
  · rfl

theorem byPath_congr {s : State} {path : Path} {f g : State → State} (h : f s = g s) : s.byPath path f = s.byPath path g := by
  simp only [State.byPath, State.viaPort, h]

theorem exec_controlSpaceAccess {t o n : Nat} {path : Path} {write : Bool} {v : Reg} {s : State} (hp : ∀ x, path ≠ .offStream x) :
    exec (.controlSpaceAccess t path o n write v) s = .next ((s.masterTime t).byPath path fun x => x.access path o n write v) := by
  change Host.Outcome.next ((s.masterTime t).onStream path write fun p x => x.byPath p fun s => s.access p o n write v) = _
  rw [onStream_of_onPath _ _ _ hp]

/-- An access of one register of control space is that register's access (R22). -/
theorem exec_access_write {t o n : Nat} {path : Path} {id : RegId} {part : Part} {v : Reg} {s : State} (hp : ∀ x, path ≠ .offStream x)
    (hb : path ≠ .bar2) (hn : n = 4 ∨ n = 8) (ho : o % n = 0) (hd : s.windowDark o = false) (hparts : partsAt path o n = some [(id, part)]) :
    exec (.controlSpaceAccess t path o n true v) s = exec (.registerWrite t path id part v) s := by
  have hpost (x : State) : x.postWrite path id part v = x.byPath path fun y => (y.regTime id).regWrite path id part v := by
    cases path with
    | bar2 => exact absurd rfl hb
    | _ => rfl
  have hone : ((s.masterTime t).byPath path fun x => x.access path o n true v) = (s.masterTime t).postWrite path id part v :=
    calc
      _ = (s.masterTime t).byPath path fun x => x.postWrite path id part v :=
        byPath_congr (access_write (s := s.masterTime t) v hn ho (by simpa using hd) hparts)
      _ = (s.masterTime t).byPath path fun x => x.byPath path fun y => (y.regTime id).regWrite path id part v := byPath_congr (hpost _)
      _ = (s.masterTime t).postWrite path id part v := (byPath_byPath _ _ _).trans (hpost _).symm
  rw [exec_controlSpaceAccess hp, hone]
  exact congrArg Host.Outcome.next (onStream_of_onPath _ true (fun p x => x.postWrite p id part v) hp).symm

theorem exec_access_read {t o n : Nat} {path : Path} {id : RegId} {part : Part} {v : Reg} {s : State} (hp : ∀ x, path ≠ .offStream x)
    (hn : n = 4 ∨ n = 8) (ho : o % n = 0) (hd : s.windowDark o = false) (hparts : partsAt path o n = some [(id, part)]) :
    exec (.controlSpaceAccess t path o n false v) s = exec (.registerReadClear t path id part) s := by
  rw [exec_controlSpaceAccess hp, exec_registerReadClear part hp, byPath_congr (g := fun x => (x.regRead path id part).2.answered (partBytes id part) (x.regRead path id part).1)
    (access_read (s := s.masterTime t) v hn ho (by simpa using hd) hparts)]
  rfl

/-- A misaligned access faults (R5). -/
theorem access_misaligned {s : State} {o : Nat} (write : Bool) (v : Reg) (ho : o % 4 ≠ 0) :
    s.access .host o 4 write v =
      if write then s.pathFault .host (ctlAddr o) 1 else (s.pathFault .host (ctlAddr o) 1).modHost fun h => { h with answer := [0, 0, 0, 0] } := by
  have hbad : s.accessBad .host o 4 = some 1 := by simp [State.accessBad, ho]
  unfold State.access
  rw [hbad]
  rfl

theorem exec_misaligned {t o : Nat} {s : State} (write : Bool) (v : Reg) (hl : s.host.linkUp = true) (ho : o % 4 ≠ 0) :
    exec (.controlSpaceAccess t .host o 4 write v) s = .next
      (if write then (s.masterTime t).pathFault .host (ctlAddr o) 1
       else ((s.masterTime t).pathFault .host (ctlAddr o) 1).modHost fun h => { h with answer := [0, 0, 0, 0] }) := by
  rw [exec_controlSpaceAccess (path := .host) nofun, byPath_of_linkUp _ _ (by simpa using hl), access_misaligned write v ho]

/-! ### The IDE stream (R472) -/

theorem onStream_of_noStream {s : State} {bar2 : Bool} (posted : Bool) (f : Path → State → State) (h : s.spdm.ide = none) :
    s.onStream (.offStream bar2) posted f = f (if bar2 then .bar2 else .host) s := by
  simp [State.onStream, h]

theorem onStream_of_stream {s : State} {bar2 : Bool} (posted : Bool) (f : Path → State → State) (h : s.spdm.ide.isSome = true) :
    s.onStream (.offStream bar2) posted f = if posted then s else s.unsupported := by
  simp only [State.onStream, h, if_true]

/-- Without a stream, what is off it is an access of its path. -/
theorem onStream_off_eq {s : State} {bar2 : Bool} {path : Path} (posted : Bool) (f : Path → State → State) (h : s.spdm.ide = none)
    (hp : path = if bar2 then .bar2 else .host) : s.onStream (.offStream bar2) posted f = s.onStream path posted f := by
  rw [onStream_of_noStream posted f h, hp]
  cases bar2 <;> rfl

theorem unsupported_of_linkUp {s : State} (h : s.host.linkUp = true) : s.unsupported = s.modHost fun x => { x with answer := [], urs := x.urs + 1 } :=
  viaPort_of_linkUp _ h

/-- Settles O12: an offset leads to its register, whose access is O10 or O11; a misaligned one leads to the address fault. -/
theorem accessByOffset : Obligations.AccessByOffset := by
  refine ⟨?_, ?_, ?_, ?_, ?_, ?_, ?_⟩
  · intro t o id v s m hm hlink ho hreg hdark hp h64 hu
    subst hm
    have hlink' : (s.masterTime t).host.linkUp = true := by simpa using hlink
    have hu' : (s.masterTime t).unreached id = none := by simpa using hu
    have hparts : partsAt .host o 4 = some [(id, .low)] := partsAt_four (path := .host) hreg
    have htime : Kept [.clk, .host, .regs] s (s.masterTime t) := kept_masterTime (by decide) (Kept.refl _ s)
    refine ⟨?_, ?_⟩
    · obtain ⟨hbits, hregs, hkept⟩ := plain_regWrite (part := .low) v hp hu' (.inr h64)
      have hexec := (exec_access_write (path := .host) (t := t) (v := v) nofun nofun (.inl rfl) ho hdark hparts).trans
        (exec_registerWrite (path := .host) .low v nofun hlink nofun (plainLaws hp).notAction)
      refine ⟨_, hexec, fun i hi hrw => ?_, masterTime_regsAlone t hregs, (htime.trans (hkept.mono (by decide))).touches⟩
      have hclear : (regAcc id).w1c.getLsbD i = false := by
        rcases rw_or_w1c_zero id with h | h
        · exact absurd hrw (by simp [h])
        · simp [h]
      simp [hbits i (by omega), hclear, hrw, h64, hi]
    · obtain ⟨hans, hval, hregs, hkept⟩ := plain_readCmd (part := .low) hp hlink' hu' (.inr h64)
      have hexec := (exec_access_read (path := .host) (t := t) (v := v) nofun (.inl rfl) ho hdark hparts).trans (exec_registerReadClear (path := .host) .low nofun)
      refine ⟨_, hexec, fun hw => ?_, masterTime_regsAlone t hregs, (htime.trans (hkept.mono (by decide))).touches⟩
      obtain ⟨hv, hr⟩ := rcTake_of_hwAt_none true (regAcc id).rc hw
      rw [hans, hval, hv, hr, masterTime_reg]
      exact ⟨rfl, rfl⟩
  · intro t o k id v path s hb hp ho hreg hdark
    have hparts := partsAt_four ((regAt_of_notBar2 o hb).trans hreg)
    obtain ⟨r, hr⟩ : ∃ r, exec (.registerWrite t path id (if k = 1 then .high else .low) v) s = .next r := ⟨_, rfl⟩
    obtain ⟨r', hr'⟩ : ∃ r, exec (.registerReadClear t path id (if k = 1 then .high else .low)) s = .next r := ⟨_, rfl⟩
    exact ⟨⟨r, (exec_access_write hp hb (.inl rfl) ho hdark hparts).trans hr, hr⟩,
      ⟨r', (exec_access_read hp (.inl rfl) ho hdark hparts).trans hr', hr'⟩⟩
  · intro t o id v path s hb hp ho hreg h64 hdark
    have hparts := partsAt_eight ((regAt_of_notBar2 o hb).trans hreg) h64
    obtain ⟨r, hr⟩ : ∃ r, exec (.registerWrite t path id .whole v) s = .next r := ⟨_, rfl⟩
    obtain ⟨r', hr'⟩ : ∃ r, exec (.registerReadClear t path id .whole) s = .next r := ⟨_, rfl⟩
    exact ⟨⟨r, (exec_access_write hp hb (.inr rfl) ho hdark hparts).trans hr, hr⟩,
      ⟨r', (exec_access_read hp (.inr rfl) ho hdark hparts).trans hr', hr'⟩⟩
  · intro t o v s hlink ho
    have hraised := (raised_raise (s.masterTime t) 360 0x20 (ctlAddr o) (ctlAddr o / 2 ^ 32) 0xFFFFFFFF 1).of_evt_eq (masterTime_evt s t)
    have hkept : Kept [.clk, .evt] s ((s.masterTime t).pathFault .host (ctlAddr o) 1) :=
      kept_raise (by decide) (kept_masterTime (by decide) (Kept.refl _ s))
    refine ⟨⟨_, exec_misaligned false v hlink ho, rfl, hraised, ?_⟩, ⟨_, exec_misaligned true v hlink ho, hraised, hkept.touches⟩⟩
    exact (kept_modHost (by decide) (hkept.mono (by decide))).touches
  · intro t o n b bar2 write path id part v d s hide hpath
    have hide' : (s.masterTime t).spdm.ide = none := by simpa using hide
    have hbay : (s.bayTime b t).spdm.ide = none := by rw [bayTime_spdm]; exact hide
    refine ⟨?_, ?_, ?_, ?_, ?_, ?_, ?_, ?_⟩
    · exact congrArg _ (onStream_off_eq true _ hide' hpath)
    · exact congrArg _ (onStream_off_eq false _ hide' hpath)
    · exact congrArg _ (onStream_off_eq false _ hide' hpath)
    · exact congrArg _ (onStream_off_eq write _ hide' hpath)
    · exact congrArg _ (onStream_off_eq true _ hide' hpath)
    · exact congrArg _ (onStream_off_eq false _ hbay hpath)
    · exact congrArg _ (onStream_of_noStream false _ hide')
    · exact congrArg _ (onStream_of_noStream true _ hide')
  · intro t o n bar2 id part v d s hide i hi
    have hide' : (s.masterTime t).spdm.ide.isSome = true := by simpa using hide
    have hkept : Kept [.clk] s (s.masterTime t) := kept_masterTime (by decide) (Kept.refl _ s)
    simp only [List.mem_cons, List.not_mem_nil, or_false] at hi
    rcases hi with rfl | rfl | rfl | rfl
    all_goals exact ⟨_, congrArg Host.Outcome.next (onStream_of_stream true _ hide'), hkept.touches⟩
  · intro t o n b bar2 id part v d s hide hlink
    have hide' : (s.masterTime t).spdm.ide.isSome = true := by simpa using hide
    have hlink' : (s.masterTime t).host.linkUp = true := by simpa using hlink
    have hbay : (s.bayTime b t).spdm.ide.isSome = true := by rw [bayTime_spdm]; exact hide
    have hlinkb : (s.bayTime b t).host.linkUp = true := by rw [bayTime_host]; exact hlink
    refine ⟨fun i hi => ?_, ?_⟩
    · have hkept : Kept [.clk, .host] s (s.masterTime t) := kept_masterTime (by decide) (Kept.refl _ s)
      have hdone (f : Path → State → State) := (onStream_of_stream (bar2 := bar2) false f hide').trans (unsupported_of_linkUp hlink')
      have hfirst (f : Path → State → State) := (onStream_of_stream (bar2 := false) false f hide').trans (unsupported_of_linkUp hlink')
      have hhost : ((s.masterTime t).modHost fun x => { x with answer := [], urs := x.urs + 1 }).host = { s.host with answer := [], urs := s.host.urs + 1 } := by
        simp
      have htouch := (kept_modHost (f := fun x => { x with answer := [], urs := x.urs + 1 }) (by decide) hkept).touches
      simp only [List.mem_cons, List.not_mem_nil, or_false] at hi
      rcases hi with rfl | rfl | rfl | rfl
      · exact ⟨_, congrArg Host.Outcome.next (hdone _), hhost, htouch⟩
      · exact ⟨_, congrArg Host.Outcome.next (hdone _), hhost, htouch⟩
      · exact ⟨_, congrArg Host.Outcome.next (hdone _), hhost, htouch⟩
      · exact ⟨_, congrArg Host.Outcome.next (hfirst _), hhost, htouch⟩
    · refine ⟨_, congrArg Host.Outcome.next ((onStream_of_stream false _ hbay).trans (unsupported_of_linkUp hlinkb)), ?_, ?_⟩
      · rw [modHost_host, bayTime_host]
      · exact (kept_modHost (by decide) (kept_bayTime (by decide) (Kept.refl _ s))).touches

end Sys2Proof.Machine

/-! PROOF. Family 00_scope: the banks of a scratchpad (R77-R79), for O40. -/

namespace Sys2Proof.Machine

/-! ### Changes of a CU's bank arbiters -/

theorem modSp_modSp (s : State) (u : Nat) (f g : SpArb → SpArb) : (s.modSp u f).modSp u g = s.modSp u (fun x => g (f x)) := by
  simp only [State.modSp, State.modCu, State.setCu, State.cu, Assoc.set_set, Assoc.get_set, if_true]

theorem modSp_cu (s : State) (u : Nat) (f : SpArb → SpArb) (v : Nat) :
    (s.modSp u f).cu v = if u = v then { s.cu u with sp := f (s.cu u).sp } else s.cu v := modCu_cu s u _ v

theorem modSp_sp (s : State) (u : Nat) (f : SpArb → SpArb) : ((s.modSp u f).cu u).sp = f (s.cu u).sp := by rw [modSp_cu, if_pos rfl]

@[simp] theorem modSp_mem (s : State) (u : Nat) (f : SpArb → SpArb) : (s.modSp u f).mem = s.mem := rfl
@[simp] theorem modSp_errs (s : State) (u : Nat) (f : SpArb → SpArb) : (s.modSp u f).errs = s.errs := rfl
@[simp] theorem modSp_evt (s : State) (u : Nat) (f : SpArb → SpArb) : (s.modSp u f).evt = s.evt := rfl
@[simp] theorem modSp_bay (s : State) (u : Nat) (f : SpArb → SpArb) (b : Nat) : (s.modSp u f).bay b = s.bay b := rfl
@[simp] theorem modSp_reg (s : State) (u : Nat) (f : SpArb → SpArb) (id : RegId) : (s.modSp u f).reg id = s.reg id := rfl

theorem modSp_seq (s : State) (u : Nat) (f : SpArb → SpArb) (v : Nat) : ((s.modSp u f).cu v).seq = (s.cu v).seq := by
  rw [modSp_cu]
  split
  · rename_i h; subst h; rfl
  · rfl

theorem modSp_cusAlone (s : State) (u : Nat) (f : SpArb → SpArb) : CusAlone [u] s (s.modSp u f) := fun v hv => by
  rw [modSp_cu, if_neg (fun e => hv (by simp [e]))]

theorem modSp_id_cu (s : State) (u v : Nat) : (s.modSp u fun x => x).cu v = s.cu v := by
  rw [modSp_cu]
  split
  · rename_i h; subst h; rfl
  · rfl

/-- `t` is `s` but that a CU may be listed in it with the state it has anyway. -/
structure CusListed (s t : State) : Prop where
  cu : ∀ v, t.cu v = s.cu v
  mem : t.mem = s.mem
  errs : t.errs = s.errs
  evt : t.evt = s.evt
  bay : ∀ b, t.bay b = s.bay b
  reg : ∀ id, t.reg id = s.reg id
  kept : Kept [.cus] s t

theorem CusListed.refl (s : State) : CusListed s s := ⟨fun _ => rfl, rfl, rfl, rfl, fun _ => rfl, fun _ => rfl, Kept.refl _ s⟩

theorem CusListed.trans {s t r : State} (h : CusListed s t) (h' : CusListed t r) : CusListed s r :=
  ⟨fun v => (h'.cu v).trans (h.cu v), h'.mem.trans h.mem, h'.errs.trans h.errs, h'.evt.trans h.evt, fun b => (h'.bay b).trans (h.bay b),
    fun id => (h'.reg id).trans (h.reg id), h.kept.trans h'.kept⟩

theorem cusListed_modSp_id (s : State) (u : Nat) : CusListed s (s.modSp u fun x => x) :=
  ⟨modSp_id_cu s u, rfl, rfl, rfl, fun _ => rfl, fun _ => rfl, kept_modSp (by decide) (Kept.refl _ s)⟩

theorem agrees_symm {k : Comp} {s t : State} (h : agrees k s t) : agrees k t s := by
  cases k
  case regs => exact ⟨h.1.symm, h.2.symm⟩
  all_goals exact Eq.symm h

theorem CusListed.symm {s t : State} (h : CusListed s t) : CusListed t s := by
  refine ⟨fun v => (h.cu v).symm, h.mem.symm, h.errs.symm, h.evt.symm, fun b => (h.bay b).symm, fun id => (h.reg id).symm,
    ⟨⟨h.kept.touches.1.symm, fun k hk => agrees_symm (h.kept.touches.2 k hk)⟩, fun hi => ?_⟩⟩
  rw [Inv, ← h.mem, ← h.kept.eq_hostMem (by decide)]
  exact hi

theorem CusListed.kept_of {l : List Comp} {a s t : State} (h : CusListed s t) (hl : [.cus] ⊆ l) (hk : Kept l a s) : Kept l a t :=
  hk.trans (h.kept.mono hl)

/-- A fold in which one element alone matters: what comes before and after it is related to standing still. -/
theorem foldl_of_single {α σ : Type} {R : σ → σ → Prop} (hrefl : ∀ x, R x x) (htrans : ∀ {x y z}, R x y → R y z → R x z) {f : σ → α → σ} {k : α}
    (hidle : ∀ x a, a ≠ k → R x (f x a)) {l : List α} (hn : l.Nodup) (hk : k ∈ l) (x : σ) : ∃ y, R x y ∧ R (f y k) (l.foldl f x) := by
  have hrest (l : List α) (hl : k ∉ l) (x : σ) : R x (l.foldl f x) := by
    induction l generalizing x with
    | nil => exact hrefl x
    | cons a l ih =>
      rw [List.mem_cons, not_or] at hl
      exact htrans (hidle x a (Ne.symm hl.1)) (ih hl.2 _)
  induction l generalizing x with
  | nil => cases hk
  | cons a l ih =>
    rw [List.nodup_cons] at hn
    by_cases h : a = k
    · subst h
      exact ⟨x, hrefl x, hrest l hn.1 _⟩
    · obtain ⟨y, hy, hr⟩ := ih hn.2 ((List.mem_cons.1 hk).resolve_left (Ne.symm h)) (f x a)
      exact ⟨y, htrans (hidle x a h) hy, hr⟩

/-! ### A granted access (R77, R78) -/

theorem readSp_eq (s : State) (u w : Nat) : s.readSp u w =
    ((s.readStore (spAddr u (16 * w)) (bayOfCu u) (locCu u) 1 (u % 4) (u / 4) w false).1.data,
      (s.readStore (spAddr u (16 * w)) (bayOfCu u) (locCu u) 1 (u % 4) (u / 4) w false).2) := rfl

theorem readSp_of_clean {s : State} {u w : Nat} (h : s.errs.get [] (spAddr u (16 * w) / 16) = []) : s.readSp u w = (s.word (spAddr u (16 * w)), s) := by
  rw [State.readSp, readStore_of_clean _ _ _ _ _ _ _ h]

theorem spGrant_write {s : State} {u : Nat} {q : SpReq} (hw : q.word < 1024) (hq : q.write = true) (ho : q.off = 0) (hb : 16 ≤ q.bytes) :
    s.spGrant u q = s.putWord (spAddr u (16 * q.word)) q.data := by
  have h1 : ¬1024 ≤ q.word := by omega
  simp [State.spGrant, h1, hq, ho, hb, State.writeSp]

theorem spGrant_partial {s : State} {u : Nat} {q : SpReq} (hw : q.word < 1024) (hq : q.write = true) (hb : q.bytes < 16)
    (he : s.errs.get [] (spAddr u (16 * q.word) / 16) = []) :
    s.spGrant u q = (s.putWord (spAddr u (16 * q.word)) (mergeWord (s.word (spAddr u (16 * q.word))) q.data q.off q.bytes)).modSp u
      fun x => { x with taken := x.taken.set (q.word % 4) ((s.bay (bayOfCu u)).cycle + 1) } := by
  have h1 : ¬1024 ≤ q.word := by omega
  have h2 : ¬16 ≤ q.bytes := by omega
  simp [State.spGrant, h1, h2, hq, readSp_of_clean he, State.writeSp]

theorem spGrant_read {s : State} {u : Nat} {q : SpReq} (hw : q.word < 1024) (hq : q.write = false)
    (he : s.errs.get [] (spAddr u (16 * q.word) / 16) = []) :
    s.spGrant u q = s.modSp u fun x => x.send q.requester (s.bay (bayOfCu u)).cycle ((s.bay (bayOfCu u)).cycle + 2) (s.word (spAddr u (16 * q.word))) := by
  have h1 : ¬1024 ≤ q.word := by omega
  simp [State.spGrant, h1, hq, readSp_of_clean he]

theorem mem_send (x : SpArb) (k now due : Nat) (d : Word) : (d, due) ∈ Assoc.get [] (x.send k now due d).out k := by
  simp [SpArb.send]

/-! ### A bank in a cycle (R79) -/

/-- A change of the arbiters that leaves the words on their way and the banks that are held. -/
def KeepsWords (f : SpArb → SpArb) : Prop := ∀ x, (f x).out = x.out ∧ (f x).taken = x.taken

theorem wait_keepsWords (x : SpArb) (bank : Nat) (granted : Option Nat) (rs : List SpReq) :
    (x.wait bank granted rs).out = x.out ∧ (x.wait bank granted rs).taken = x.taken := by
  induction rs generalizing x with
  | nil => exact ⟨rfl, rfl⟩
  | cons r rs ih =>
    rw [SpArb.wait, (ih _).1, (ih _).2]
    split
    · exact ⟨rfl, rfl⟩
    · exact ⟨rfl, rfl⟩

/-- A bank that nobody asks for grants nothing. -/
theorem spBank_idle {s : State} {u bank : Nat} {reqs : List SpReq} (h : ∀ r ∈ reqs, r.word % 4 ≠ bank) :
    s.spBank u bank reqs = s.modSp u fun x => x := by
  have hnone : (reqs.filter fun r => r.word % 4 == bank) = [] := List.filter_eq_nil_iff.2 fun r hr => by simpa using h r hr
  simp [State.spBank, hnone, rrPick_none, SpArb.wait]

/-- A bank that a read-modify-write holds grants nothing (R78). -/
theorem spBank_taken {s : State} {u : Nat} {q : SpReq} (ht : s.spTaken u (q.word % 4) = true) :
    ∃ f, KeepsWords f ∧ s.spBank u (q.word % 4) [q] = s.modSp u f := by
  refine ⟨_, fun x => wait_keepsWords x (q.word % 4) none ([q].filter fun r => decide (7 ≤ r.requester)), ?_⟩
  have hone : ¬1 < ([q].filter fun r => decide (r.requester < 7)).length := by
    have := List.length_filter_le (fun r : SpReq => decide (r.requester < 7)) [q]
    simp only [List.length_singleton] at this
    omega
  have hhere : ([q].filter fun r => r.word % 4 == q.word % 4) = [q] := by simp
  simp only [State.spBank, hhere, ht, if_true, if_neg hone]

/-- A request alone at a free bank is granted (R79). -/
theorem spBank_free {s : State} {u : Nat} {q : SpReq} (ht : s.spTaken u (q.word % 4) = false) (hr : q.requester < 10) :
    ∃ f, KeepsWords f ∧ s.spBank u (q.word % 4) [q] = (s.modSp u f).spGrant u q := by
  have hhere : ([q].filter fun r => r.word % 4 == q.word % 4) = [q] := by simp
  by_cases h7 : q.requester < 7
  · have hsched : ([q].filter fun r => decide (r.requester < 7)) = [q] := by simp [h7]
    have hun : ([q].filter fun r => decide (7 ≤ r.requester)) = [] := by simp [h7]
    have hwin (p : Nat) : rrPick 7 p (fun i => q.requester == i) = some q.requester :=
      rrPick_alone p h7 (beq_self_eq_true _) fun j _ h => (beq_iff_eq.1 h).symm
    refine ⟨fun x => { x with ptrS := x.ptrS.set (q.word % 4) ((q.requester + 1) % 7) }, fun x => ⟨rfl, rfl⟩, ?_⟩
    simp [State.spBank, hhere, hsched, hun, ht, rrPick_none, hwin, SpArb.wait, h7, modSp_modSp]
  · have hsched : ([q].filter fun r => decide (r.requester < 7)) = [] := by simp [h7]
    have hun : ([q].filter fun r => decide (7 ≤ r.requester)) = [q] := by simp; omega
    have hlt : q.requester - 7 < 3 := by omega
    have hback : 7 + (q.requester - 7) = q.requester := by omega
    refine ⟨fun x => { x with ptrU := x.ptrU.set (q.word % 4) ((q.requester - 7 + 1) % 3), waits := x.waits.erase (q.word % 4, q.requester - 7) },
      fun x => ⟨rfl, rfl⟩, ?_⟩
    have honly (i : Nat) (h : (q.requester == 7 + i) = true) : i = q.requester - 7 := by have := beq_iff_eq.1 h; omega
    have hwin (p : Nat) : rrPick 3 p (fun i => q.requester == 7 + i) = some (q.requester - 7) :=
      rrPick_alone p hlt (beq_iff_eq.2 hback.symm) fun j _ h => honly j h
    cases hprom : rrPick 3 (Assoc.get 0 (s.cu u).sp.ptrU (q.word % 4)) (fun i => q.requester == 7 + i &&
        decide (16 ≤ (s.cu u).sp.waited (q.word % 4) i)) with
    | none => simp [State.spBank, hhere, hsched, hun, ht, rrPick_none, hwin, hprom, SpArb.wait, h7, hback, modSp_modSp, State.spUnscheduled]
    | some j =>
      have hj : j = q.requester - 7 := honly j (Bool.and_eq_true_iff.1 (rrPick_eq_some hprom).2).1
      simp [State.spBank, hhere, hsched, hun, ht, rrPick_none, hwin, hprom, SpArb.wait, h7, hback, modSp_modSp, State.spUnscheduled, hj]

/-- A granted access changes no other CU and no register of a CU. -/
theorem spGrant_frame (s : State) (u : Nat) (q : SpReq) : CusAlone [u] s (s.spGrant u q) ∧ ∀ v r, (s.spGrant u q).reg (.cu v r) = s.reg (.cu v r) := by
  have hread (v : Nat) : (s.readSp u q.word).2.cu v = s.cu v :=
    (kept_readSp (List.Subset.refl _) (Kept.refl _ s)).eq_cu (by decide) v
  have hreg (v : Nat) (r : CuReg) : (s.readSp u q.word).2.reg (.cu v r) = s.reg (.cu v r) := by
    rw [readSp_eq, readStore_reg]
    simp [errorRegs]
  have hfault (src addr who cause : Nat) (lane : Option Nat) (v : Nat) : (s.addrFault src addr who cause lane).cu v = s.cu v :=
    (kept_addrFault (List.Subset.refl _) (Kept.refl _ s)).eq_cu (by decide) v
  unfold State.spGrant State.writeSp
  generalize hrd : s.readSp u q.word = p at hread hreg
  obtain ⟨d, s1⟩ := p
  dsimp only at hread hreg ⊢
  split
  · split
    · exact ⟨fun v _ => hfault _ _ _ _ _ v, fun v r => addrFault_reg s _ _ _ _ _ _⟩
    · exact ⟨fun v hv => by rw [modSp_cusAlone _ u _ v hv, hfault], fun v r => by rw [modSp_reg, addrFault_reg]⟩
  · split
    · split
      · exact ⟨fun _ _ => rfl, fun _ _ => rfl⟩
      · exact ⟨fun v hv => by rw [modSp_cusAlone _ u _ v hv, putWord_cu, hread], fun v r => by rw [modSp_reg, putWord_reg, hreg]⟩
    · exact ⟨fun v hv => by rw [modSp_cusAlone _ u _ v hv, hread], fun v r => by rw [modSp_reg, hreg]⟩

/-- Two scheduled accesses that meet at a bank: whichever is granted, one is counted as refused and the event raised (R79). -/
theorem spBank_conflict {s : State} {u k : Nat} {p q : SpReq} (hp : p.requester < 7) (hq : q.requester < 7) (hpk : p.word % 4 = k) (hqk : q.word % 4 = k) :
    ∃ x, CusAlone [u] s x ∧ x.reg (.cu u .spConflict) = s.reg (.cu u .spConflict) ∧ s.spBank u k [p, q] = x.spConflict u 1 := by
  have hhere : ([p, q].filter fun r => r.word % 4 == k) = [p, q] := by simp [hpk, hqk]
  have hsched : ([p, q].filter fun r => decide (r.requester < 7)) = [p, q] := by simp [hp, hq]
  have hun : ([p, q].filter fun r => decide (7 ≤ r.requester)) = [] := by simp [hp, hq]
  have hpair : 1 < [p, q].length := Nat.one_lt_two
  cases ht : s.spTaken u k with
  | true =>
    refine ⟨s.modSp u fun x => x, modSp_cusAlone s u _, rfl, ?_⟩
    simp only [State.spBank, hhere, hsched, hun, ht, if_true, hpair, SpArb.wait]
    rfl
  | false =>
    obtain ⟨g, hg, hg7, hreq⟩ := rrPick_some (req := fun i => [p, q].any fun r => r.requester == i) (Assoc.get 0 (s.cu u).sp.ptrS k) hp (by simp)
    obtain ⟨w, hw⟩ : ∃ w, ([p, q].find? fun r => r.requester == g) = some w := by
      rw [← Option.isSome_iff_exists, List.find?_isSome]
      exact List.any_eq_true.1 hreq
    obtain ⟨hcu, hreg⟩ := spGrant_frame (s.modSp u fun x => { x with ptrS := x.ptrS.set k ((g + 1) % 7) }) u w
    refine ⟨_, fun v hv => (hcu v hv).trans (modSp_cusAlone s u _ v hv), hreg u .spConflict, ?_⟩
    simp only [State.spBank, hhere, hsched, hun, ht, List.any_nil, Bool.false_and, rrPick_nobody, hg, hw, hg7, if_true, hpair, SpArb.wait, modSp_modSp,
      Bool.false_eq_true, if_false]
    rfl

end Sys2Proof.Machine

/-! PROOF. Family 00_scope: what the scratchpad arbiters do (O40). -/

namespace Sys2Proof.Machine

theorem exec_scratchpadArbitration {t u : Nat} {reqs : List SpReq} {s : State} (hp : (s.bay (bayOfCu u)).power = .active) :
    exec (.scratchpadArbitration t u reqs) s = .next ((List.range 4).foldl (fun x bank => x.spBank u bank reqs) (s.bayTime (bayOfCu u) t)) := by
  change Host.Outcome.next (if (s.bayTime (bayOfCu u) t).bayRuns (bayOfCu u) then _ else _) = _
  rw [bayRuns_bayTime t _ hp, if_pos rfl]

/-- Requests of one bank: the other banks stand still. -/
theorem exec_scratchpadArbitration_bank {t u k : Nat} {reqs : List SpReq} {s : State} (hp : (s.bay (bayOfCu u)).power = .active) (hk : k < 4)
    (hreqs : ∀ r ∈ reqs, r.word % 4 = k) : ∃ y r, CusListed (s.bayTime (bayOfCu u) t) y ∧ CusListed (y.spBank u k reqs) r ∧
      exec (.scratchpadArbitration t u reqs) s = .next r := by
  obtain ⟨y, hy, hr⟩ := foldl_of_single CusListed.refl CusListed.trans (f := fun x bank => x.spBank u bank reqs) (k := k)
    (fun x a ha => by rw [spBank_idle fun r hr => by rw [hreqs r hr]; exact Ne.symm ha]; exact cusListed_modSp_id x u) List.nodup_range
    (List.mem_range.2 hk) (s.bayTime (bayOfCu u) t)
  exact ⟨y, _, hy, hr, exec_scratchpadArbitration hp⟩

section
variable {t u : Nat} {s y r : State} {f : SpArb → SpArb}

/-- A change of the arbiters alone. -/
theorem laneFrame_of_modSp (hy : CusListed (s.bayTime (bayOfCu u) t) y) (hr : CusListed (y.modSp u f) r) :
    LaneFrame u s r ∧ (r.cu u).sp = f (s.cu u).sp := by
  have hkept : Kept [.regs, .bays, .cus] s r :=
    hr.kept_of (by decide) (kept_modSp (by decide) (hy.kept_of (by decide) (kept_bayTime (by decide) (Kept.refl _ s))))
  refine ⟨⟨fun v hv => ?_, fun b hb => ?_, fun id hid => ?_, hkept.touches⟩, ?_⟩
  · rw [hr.cu, modSp_cusAlone y u f v hv, hy.cu, bayTime_cu]
  · rw [hr.bay, modSp_bay, hy.bay, bayTime_baysAlone s _ t b hb]
  · rw [hr.reg, modSp_reg, hy.reg, bayTime_regsAlone s _ t id hid]
  · rw [hr.cu, modSp_sp, hy.cu, bayTime_cu]

/-- A word is written between two changes of the arbiters. -/
theorem written_of_modSp {a : Nat} {w : Word} {g : SpArb → SpArb} (hy : CusListed (s.bayTime (bayOfCu u) t) y)
    (hr : CusListed (((y.modSp u f).putWord a w).modSp u g) r) (hs : Inv s) :
    r.word a = w ∧ r.errs.get [] (a / 16) = [] ∧ MemAlone a 16 s r ∧ (r.cu u).sp = g (f (s.cu u).sp) ∧ (r.cu u).seq = (s.cu u).seq ∧
      CusAlone [u] s r ∧ RegsAlone (bayClockRegs (bayOfCu u)) s r ∧ r.evt = s.evt ∧ Touches [.mem, .errs, .regs, .bays, .cus] s r := by
  have hkept : Kept [.mem, .errs, .regs, .bays, .cus] s r :=
    hr.kept_of (by decide) (kept_modSp (by decide) (kept_putWord (by decide) (kept_modSp (by decide)
      (hy.kept_of (by decide) (kept_bayTime (by decide) (Kept.refl _ s))))))
  have hmem : (y.modSp u f).mem = s.mem := by rw [modSp_mem, hy.mem, bayTime_mem]
  refine ⟨?_, ?_, ?_, ?_, ?_, fun v hv => ?_, fun id hid => ?_, ?_, hkept.touches⟩
  · rw [word_congr hr.mem, word_congr (modSp_mem _ u g), word_putWord_same a w (by rw [hmem]; exact hs.1)]
  · rw [hr.errs, modSp_errs, errs_putWord_same]
  · exact ((memAlone_of_mem_eq a 16 hmem).trans (memAlone_putWord _ a w)).trans (memAlone_of_mem_eq a 16 (hr.mem.trans (modSp_mem _ u g)))
  · rw [hr.cu, modSp_sp, putWord_cu, modSp_sp, hy.cu, bayTime_cu]
  · rw [hr.cu, modSp_seq, putWord_cu, modSp_seq, hy.cu, bayTime_cu]
  · rw [hr.cu, modSp_cusAlone _ u g v hv, putWord_cu, modSp_cusAlone y u f v hv, hy.cu, bayTime_cu]
  · rw [hr.reg, modSp_reg, putWord_reg, modSp_reg, hy.reg, bayTime_regsAlone s _ t id hid]
  · rw [hr.evt, modSp_evt, putWord_evt, modSp_evt, hy.evt, bayTime_evt]

end

/-- One access at its bank (R77, R78): refused while the bank is held, else made. -/
theorem scratchpad_alone (t u z : Nat) (q : SpReq) (s m : State) (hs : Inv s) (hm : m = s.bayTime (bayOfCu u) t) (hz : z = (m.bay (bayOfCu u)).cycle)
    (hp : (s.bay (bayOfCu u)).power = .active) (hq : q.requester < 10) (hw : q.word < 1024) :
    (m.spTaken u (q.word % 4) = true → Completes (exec (.scratchpadArbitration t u [q]) s) fun r =>
      (r.cu u).sp.out = (s.cu u).sp.out ∧ (r.cu u).sp.taken = (s.cu u).sp.taken ∧ LaneFrame u s r) ∧
    (m.spTaken u (q.word % 4) = false →
      (q.write = true → q.off = 0 → 16 ≤ q.bytes → Completes (exec (.scratchpadArbitration t u [q]) s) fun r => r.word (spAddr u (16 * q.word)) = q.data ∧
        r.errs.get [] (spAddr u (16 * q.word) / 16) = [] ∧ MemAlone (spAddr u (16 * q.word)) 16 s r ∧ (r.cu u).seq = (s.cu u).seq ∧ CusAlone [u] s r ∧
        (q.requester < 7 → RegsAlone (bayClockRegs (bayOfCu u)) s r) ∧ r.evt = s.evt ∧ Touches [.mem, .errs, .regs, .bays, .cus] s r) ∧
      (q.write = true → q.bytes < 16 → s.errs.get [] (spAddr u (16 * q.word) / 16) = [] → Completes (exec (.scratchpadArbitration t u [q]) s) fun r =>
        r.word (spAddr u (16 * q.word)) = mergeWord (s.word (spAddr u (16 * q.word))) q.data q.off q.bytes ∧
        Assoc.find? (r.cu u).sp.taken (q.word % 4) = some (z + 1) ∧ MemAlone (spAddr u (16 * q.word)) 16 s r ∧ CusAlone [u] s r ∧
        Touches [.mem, .errs, .regs, .bays, .cus] s r) ∧
      (q.write = false → s.errs.get [] (spAddr u (16 * q.word) / 16) = [] → Completes (exec (.scratchpadArbitration t u [q]) s) fun r =>
        (s.word (spAddr u (16 * q.word)), z + 2) ∈ Assoc.get [] (r.cu u).sp.out q.requester ∧ LaneFrame u s r)) := by
  subst hm hz
  obtain ⟨y, r, hy, hr, hexec⟩ := exec_scratchpadArbitration_bank (t := t) (reqs := [q]) hp (Nat.mod_lt q.word (by decide)) (fun r hr => by rw [List.mem_singleton.1 hr])
  have hcycle : (y.bay (bayOfCu u)).cycle = ((s.bayTime (bayOfCu u) t).bay (bayOfCu u)).cycle := by rw [hy.bay]
  have htaken : y.spTaken u (q.word % 4) = (s.bayTime (bayOfCu u) t).spTaken u (q.word % 4) := by rw [State.spTaken, State.spTaken, hy.cu, hcycle]
  refine ⟨fun ht => ?_, fun ht => ?_⟩
  · obtain ⟨f, hf, hbank⟩ := spBank_taken (htaken.trans ht)
    rw [hbank] at hr
    obtain ⟨hframe, hsp⟩ := laneFrame_of_modSp hy hr
    exact ⟨r, hexec, by rw [hsp, (hf _).1], by rw [hsp, (hf _).2], hframe⟩
  · obtain ⟨f, hf, hbank⟩ := spBank_free (htaken.trans ht) hq
    rw [hbank] at hr
    have hclean (he : s.errs.get [] (spAddr u (16 * q.word) / 16) = []) : (y.modSp u f).errs.get [] (spAddr u (16 * q.word) / 16) = [] := by
      rw [modSp_errs, hy.errs, bayTime_errs, he]
    have hword (a : Nat) : (y.modSp u f).word a = s.word a := word_congr (by rw [modSp_mem, hy.mem, bayTime_mem]) a
    refine ⟨fun hwr ho hb => ?_, fun hwr hb he => ?_, fun hrd he => ?_⟩
    · rw [spGrant_write hw hwr ho hb] at hr
      obtain ⟨h1, h2, h3, -, h5, h6, h7, h8, h9⟩ := written_of_modSp hy ((cusListed_modSp_id _ u).symm.trans hr) hs
      exact ⟨r, hexec, h1, h2, h3, h5, h6, fun _ => h7, h8, h9⟩
    · rw [spGrant_partial hw hwr hb (hclean he), modSp_bay, hcycle, hword] at hr
      obtain ⟨h1, -, h3, h4, -, h6, -, -, h9⟩ := written_of_modSp hy hr hs
      refine ⟨r, hexec, h1, ?_, h3, h6, h9⟩
      rw [h4, Assoc.find?_set, if_pos rfl]
    · rw [spGrant_read hw hrd (hclean he), modSp_modSp, modSp_bay, hcycle, hword] at hr
      obtain ⟨hframe, hsp⟩ := laneFrame_of_modSp hy hr
      exact ⟨r, hexec, by rw [hsp]; exact mem_send _ _ _ _ _, hframe⟩

theorem spConflict_reg (s : State) (u n : Nat) : (s.spConflict u n).reg (.cu u .spConflict) = satField (s.reg (.cu u .spConflict)) 15 0 n := by
  rw [State.spConflict, raiseBay_reg, hwSet_reg, if_pos rfl]

/-- Two scheduled accesses that meet (R79). -/
theorem scratchpad_conflict (t u : Nat) (p q : SpReq) (s : State) (hpw : (s.bay (bayOfCu u)).power = .active) (hlt : p.requester < q.requester)
    (hq : q.requester < 7) (hbank : p.word % 4 = q.word % 4) : Completes (exec (.scratchpadArbitration t u [p, q]) s) fun r =>
      r.reg (.cu u .spConflict) = satField (s.reg (.cu u .spConflict)) 15 0 1 ∧
      (∃ e ∈ r.evt.inflight, e.source = bayOfCu u ∧ e.kind = 0x11 ∧ e.w1 = locCu u % 2 ^ 32) ∧ CusAlone [u] s r := by
  obtain ⟨y, r, hy, hr, hexec⟩ := exec_scratchpadArbitration_bank (t := t) (reqs := [p, q]) hpw (Nat.mod_lt q.word (by decide)) (by simp [hbank])
  obtain ⟨x, hxcu, hxreg, hx⟩ := spBank_conflict (s := y) (u := u) (by omega) hq hbank rfl
  rw [hx] at hr
  refine ⟨r, hexec, ?_, ?_, fun v hv => ?_⟩
  · rw [hr.reg, spConflict_reg, hxreg, hy.reg, bayTime_reg s t (by simp [bayClockRegs])]
  · rw [hr.evt]
    exact ⟨_, List.mem_append_right _ (List.mem_singleton.2 rfl), rfl, rfl, rfl⟩
  · rw [hr.cu]
    exact (hxcu v hv).trans ((hy.cu v).trans (bayTime_cu s _ t v))

/-- An unscheduled request that has waited 16 cycles (R79). -/
theorem scratchpad_promotion (t u bank i n : Nat) (q : SpReq) (s m : State) (hs : Inv s) (hm : m = s.bayTime (bayOfCu u) t)
    (hpw : (s.bay (bayOfCu u)).power = .active) (hi : i < 3) (hfind : Assoc.find? (s.cu u).sp.waits (bank, i) = some (n, q)) (hn : 16 ≤ n)
    (hothers : ∀ j, j < 3 → j ≠ i → (s.cu u).sp.waited bank j < 16) (ht : m.spTaken u bank = false) (hw : q.word < 1024) (hwr : q.write = true)
    (ho : q.off = 0) (hb : 16 ≤ q.bytes) :
    Completes (exec (.scratchpadPromotion t u bank) s) fun r => r.word (spAddr u (16 * q.word)) = q.data ∧
      Assoc.find? (r.cu u).sp.waits (bank, i) = none ∧ r.reg (.cu u .spConflict) = satField (s.reg (.cu u .spConflict)) 31 16 1 ∧
      MemAlone (spAddr u (16 * q.word)) 16 s r ∧ CusAlone [u] s r ∧ Touches [.mem, .errs, .regs, .bays, .cus] s r := by
  subst hm
  have hwaited : (s.cu u).sp.waited bank i = n := by rw [SpArb.waited, hfind]
  have hpick : rrPick 3 (Assoc.get 0 ((s.bayTime (bayOfCu u) t).cu u).sp.ptrU bank) (fun j => decide (16 ≤ ((s.bayTime (bayOfCu u) t).cu u).sp.waited bank j)) = some i := by
    rw [bayTime_cu]
    refine rrPick_alone _ hi (by simp [hwaited, hn]) fun j hj hreq => ?_
    by_contra hne
    have := hothers j hj hne
    simp at hreq
    omega
  have hexec : exec (.scratchpadPromotion t u bank) s = .next (((s.bayTime (bayOfCu u) t).spUnscheduled u bank i q).spPromoted u) := by
    change Host.Outcome.next (if (s.bayTime (bayOfCu u) t).bayRuns (bayOfCu u) then (s.bayTime (bayOfCu u) t).spPromote u bank else _) = _
    rw [bayRuns_bayTime t _ hpw, if_pos rfl, State.spPromote]
    simp only [ht, Bool.false_eq_true, if_false, hpick]
    rw [bayTime_cu, hfind]
  rw [State.spUnscheduled, spGrant_write hw hwr ho hb, State.spPromoted] at hexec
  have hkept : Kept [.mem, .errs, .regs, .bays, .cus] s (s.bayTime (bayOfCu u) t) := kept_bayTime (by decide) (Kept.refl _ s)
  refine ⟨_, hexec, ?_, ?_, ?_, ?_, fun v hv => ?_, (kept_hwSet (by decide) (kept_putWord (by decide) (kept_modSp (by decide) hkept))).touches⟩
  · rw [word_congr (hwSet_mem _ _ _), word_putWord_same _ _ (by rw [modSp_mem, bayTime_mem]; exact hs.1)]
  · rw [hwSet_cu, putWord_cu, modSp_sp]
    exact Assoc.find?_erase_same _ _
  · rw [hwSet_reg, if_pos rfl, putWord_reg, modSp_reg, bayTime_reg s t (by simp [bayClockRegs])]
  · have hmem : MemAlone (spAddr u (16 * q.word)) 16 s ((s.bayTime (bayOfCu u) t).modSp u fun x =>
        { x with ptrU := x.ptrU.set bank ((i + 1) % 3), waits := x.waits.erase (bank, i) }) := memAlone_of_mem_eq _ _ (by rw [modSp_mem, bayTime_mem])
    exact (hmem.trans (memAlone_putWord _ _ q.data)).trans (memAlone_of_mem_eq _ _ (hwSet_mem _ _ _))
  · rw [hwSet_cu, putWord_cu, modSp_cusAlone _ u _ v hv, bayTime_cu]

end Sys2Proof.Machine

/-! PROOF. Family 00_scope: the slices of a memory unit (R158-R166), for O40. -/

namespace Sys2Proof.Machine

/-! ### Changes of a memory unit's arbiters -/

theorem modArb_mu (s : State) (c : Nat) (f : MuArb → MuArb) (d : Nat) :
    (s.modArb c f).mu d = if c = d then { s.mu c with arb := f (s.mu c).arb } else s.mu d := modMu_mu s c _ d

theorem modArb_arb (s : State) (c : Nat) (f : MuArb → MuArb) : ((s.modArb c f).mu c).arb = f (s.mu c).arb := by rw [modArb_mu, if_pos rfl]

theorem modArb_dsp (s : State) (c : Nat) (f : MuArb → MuArb) (d : Nat) : ((s.modArb c f).mu d).dsp = (s.mu d).dsp := by
  rw [modArb_mu]
  split
  · rename_i h; subst h; rfl
  · rfl

theorem modArb_musAlone (s : State) (c : Nat) (f : MuArb → MuArb) : MusAlone [c] s (s.modArb c f) := fun d hd => by
  rw [modArb_mu, if_neg (fun e => hd (by simp [e]))]

@[simp] theorem modArb_mem (s : State) (c : Nat) (f : MuArb → MuArb) : (s.modArb c f).mem = s.mem := rfl
@[simp] theorem modArb_errs (s : State) (c : Nat) (f : MuArb → MuArb) : (s.modArb c f).errs = s.errs := rfl
@[simp] theorem modArb_evt (s : State) (c : Nat) (f : MuArb → MuArb) : (s.modArb c f).evt = s.evt := rfl
@[simp] theorem modArb_twin (s : State) (c : Nat) (f : MuArb → MuArb) : (s.modArb c f).twin = s.twin := rfl
@[simp] theorem modArb_bay (s : State) (c : Nat) (f : MuArb → MuArb) (b : Nat) : (s.modArb c f).bay b = s.bay b := rfl
@[simp] theorem modArb_reg (s : State) (c : Nat) (f : MuArb → MuArb) (id : RegId) : (s.modArb c f).reg id = s.reg id := rfl

/-- A change of the arbiters puts one value in their place, and a second one puts its own. -/
theorem modArb_modArb (s : State) (c : Nat) (f g : MuArb → MuArb) : (s.modArb c f).modArb c g = s.modArb c fun _ => g (f (s.mu c).arb) := by
  simp only [State.modArb, State.modMu, State.setMu, State.mu, Assoc.set_set, Assoc.get_set, if_true]

theorem modArb_const (s : State) (c : Nat) (f : MuArb → MuArb) : s.modArb c f = s.modArb c fun _ => f (s.mu c).arb := rfl

/-! ### What the ports present (R161, R162) -/

theorem present_idle {a : MuArb} {p t : Nat} {reqs : List MuReq} (hs : Assoc.find? a.shown p = none) (hr : (reqs.filter fun r => r.port == p) = []) :
    a.present p t reqs = a := by
  simp [MuArb.present, hs, hr, MuArb.choose, MuArb.waitDma]

/-- A port that has one access asked of it presents that one. -/
theorem present_alone {a : MuArb} {p t : Nat} {reqs : List MuReq} {q : MuReq} (hs : Assoc.find? a.shown p = none)
    (hr : (reqs.filter fun r => r.port == p) = [q]) (hu : q.dma = true ∨ q.unit < 6) :
    ∃ pt, a.present p t reqs = { a with shown := a.shown.set p ⟨t, some q, false⟩, ptr := pt } := by
  have hchoose : a.choose p [q] = some q := by
    cases hd : q.dma with
    | true => simp [MuArb.choose, hd]
    | false =>
      have h6 : q.unit < 6 := hu.resolve_left (by simp [hd])
      have hpick (k : Nat) : rrPick 6 k (fun i => q.unit == i) = some q.unit := rrPick_alone k h6 (beq_self_eq_true _) fun j _ h => (beq_iff_eq.1 h).symm
      simp [MuArb.choose, hd, hpick]
  have hwait : a.waitDma p t [q] (some q) = a := by
    cases hd : q.dma <;> simp [MuArb.waitDma, hd]
  exact ⟨if p < 4 ∧ !q.dma then a.ptr.set (80 + p) ((q.unit + 1) % 6) else a.ptr, by simp [MuArb.present, hs, hr, hchoose, hwait]⟩

/-- The accesses asked of port `p`, at most one. -/
def askedAt (reqs : List MuReq) (p : Nat) : Option MuReq := (reqs.filter fun r => r.port == p).head?

/-- Requests that the ports can present at once: at most one for each port, each by a unit of its port or by DMA. -/
def Apart (reqs : List MuReq) : Prop := (∀ p, (reqs.filter fun r => r.port == p) = (askedAt reqs p).toList) ∧ ∀ r ∈ reqs, r.dma = true ∨ r.unit < 6

theorem mem_of_askedAt {reqs : List MuReq} {p : Nat} {r : MuReq} (h : askedAt reqs p = some r) : r ∈ reqs :=
  (List.mem_filter.1 (List.mem_of_mem_head? h)).1

/-- Ports that present nothing yet present what is asked of them. -/
theorem presents_first {a : MuArb} {t : Nat} {reqs : List MuReq} (ha : a.shown = []) (hr : Apart reqs) (n : Nat) :
    ∃ sh pt, (List.range n).foldl (fun a p => a.present p t reqs) a = { a with shown := sh, ptr := pt } ∧
      ∀ p, Assoc.find? sh p = if p < n then (askedAt reqs p).map (fun r => ⟨t, some r, false⟩) else none := by
  induction n with
  | zero => exact ⟨[], a.ptr, by rw [← ha]; rfl, fun p => rfl⟩
  | succ n ih =>
    obtain ⟨sh, pt, hfold, hsh⟩ := ih
    have hfree : Assoc.find? sh n = none := by rw [hsh, if_neg (Nat.lt_irrefl n)]
    have hport := hr.1 n
    rw [List.range_succ, List.foldl_append, hfold, List.foldl_cons, List.foldl_nil]
    cases ho : askedAt reqs n with
    | none =>
      rw [ho] at hport
      refine ⟨sh, pt, present_idle (a := { a with shown := sh, ptr := pt }) hfree hport, fun p => ?_⟩
      by_cases hp : p = n
      · subst hp; simp [hsh, ho]
      · rw [hsh]; simp [show p < n + 1 ↔ p < n by omega]
    | some q =>
      rw [ho] at hport
      obtain ⟨pt', hpres⟩ := present_alone (a := { a with shown := sh, ptr := pt }) (t := t) hfree hport (hr.2 q (mem_of_askedAt ho))
      refine ⟨sh.set n ⟨t, some q, false⟩, pt', hpres, fun p => ?_⟩
      rw [Assoc.find?_set, hsh]
      by_cases hp : p = n
      · subst hp; simp [ho]
      · simp [Ne.symm hp, show p < n + 1 ↔ p < n by omega]

theorem filterMap_range_single {α : Type} {f : Nat → Option α} {i : Nat} {x : α} (hi : f i = some x) (h : ∀ p, p ≠ i → f p = none) (n : Nat) :
    (List.range n).filterMap f = if i < n then [x] else [] := by
  induction n with
  | zero => rfl
  | succ n ih =>
    rw [List.range_succ, List.filterMap_append, ih]
    by_cases hn : n = i
    · subst hn; simp [hi]
    · simp [h n hn, show i < n + 1 ↔ i < n by omega]

theorem filterMap_range_pair {α : Type} {f : Nat → Option α} {i j : Nat} {x y : α} (hi : f i = some x) (hj : f j = some y) (hij : i < j)
    (h : ∀ p, p ≠ i → p ≠ j → f p = none) (n : Nat) :
    (List.range n).filterMap f = (if i < n then [x] else []) ++ (if j < n then [y] else []) := by
  induction n with
  | zero => rfl
  | succ n ih =>
    rw [List.range_succ, List.filterMap_append, ih]
    by_cases hn : n = i
    · subst hn; simp [hi, show ¬j < n by omega, show ¬j < n + 1 by omega]
    · by_cases hn' : n = j
      · subst hn'; simp [hj, hij, show i < n + 1 by omega]
      · simp [h n hn hn', show i < n + 1 ↔ i < n by omega, show j < n + 1 ↔ j < n by omega]

/-- An access that a port shows has been presented. -/
theorem tried_cons {a : MuArb} {t k : Nat} {r : MuReq} {b : Bool} {rs : List MuReq} (h : Assoc.find? a.shown r.port = some ⟨k, some r, b⟩) :
    a.tried t (r :: rs) = MuArb.tried { a with shown := a.shown.set r.port ⟨t, some r, true⟩ } t rs := by
  simp [MuArb.tried, h]

/-- Accesses that their ports show, each marked as presented. -/
theorem tried_marks {a : MuArb} (t : Nat) {rs : List MuReq} (h : ∀ r ∈ rs, ∃ k b, Assoc.find? a.shown r.port = some ⟨k, some r, b⟩) :
    ∃ sh, a.tried t rs = { a with shown := sh } ∧ (∀ p, (∀ r ∈ rs, r.port ≠ p) → Assoc.find? sh p = Assoc.find? a.shown p) ∧
      ∀ r ∈ rs, Assoc.find? sh r.port = some ⟨t, some r, true⟩ := by
  induction rs generalizing a with
  | nil => exact ⟨a.shown, rfl, fun _ _ => rfl, nofun⟩
  | cons r rs ih =>
    obtain ⟨k, b, hr⟩ := h r List.mem_cons_self
    have hset (x : MuReq) (hx : x ∈ r :: rs) (hp : r.port = x.port) : x = r := by
      obtain ⟨k', b', hx⟩ := h x hx
      rw [← hp, hr] at hx
      cases hx
      rfl
    obtain ⟨sh, htried, hkeep, hmark⟩ := ih (a := { a with shown := a.shown.set r.port ⟨t, some r, true⟩ }) fun x hx => by
      rw [Assoc.find?_set]
      split
      · rename_i hp
        exact ⟨t, true, by rw [hset x (List.mem_cons_of_mem _ hx) hp]⟩
      · exact h x (List.mem_cons_of_mem _ hx)
    refine ⟨sh, (tried_cons hr).trans htried, fun p hp => ?_, fun x hx => ?_⟩
    · rw [hkeep p fun x hx => hp x (List.mem_cons_of_mem _ hx), Assoc.find?_set, if_neg (hp r List.mem_cons_self)]
    · by_cases hin : ∃ y ∈ rs, y.port = x.port
      · obtain ⟨y, hy, hport⟩ := hin
        have hyx : y = x := by
          obtain ⟨k1, b1, h1⟩ := h y (List.mem_cons_of_mem _ hy)
          obtain ⟨k2, b2, h2⟩ := h x hx
          rw [hport, h2] at h1
          cases h1
          rfl
        exact hmark x (hyx ▸ hy)
      · have hxr : x = r := (List.mem_cons.1 hx).resolve_right fun hx => hin ⟨x, hx, rfl⟩
        rw [hkeep _ fun y hy e => hin ⟨y, hy, e⟩, Assoc.find?_set, hxr, if_pos rfl]

/-! ### A slice in a cycle (R163) -/

/-- The accesses presented to a slice are arbitrated and one is made: the second half of `State.muSlice`. -/
def State.muServe (s : State) (c slice : Nat) (shown : List MuReq) : State :=
  let narrow := shown.filter reqNarrow
  let (g, s1) := s.muArbitrate c slice (10 * slice) (10 * slice + 1) true 0 (shown.filter fun r => !reqNarrow r)
  match g with
  | some w => (s1.muDisplace c slice w narrow).muGrant c slice w
  | none => (List.range 4).foldl (fun x bank => x.muBank c slice bank narrow) s1

/-- Ports that present nothing yet present all that is asked of them, and what they present is served. -/
theorem muSlice_first {s : State} {c slice : Nat} {reqs : List MuReq} (hsh : (s.mu c).arb.shown = []) (hr : Apart reqs)
    (hs : ∀ r ∈ reqs, r.slice = slice) : ∃ sh pt, (∀ r ∈ (List.range 8).filterMap (askedAt reqs), Assoc.find? sh r.port = some ⟨(s.bay (bayOf c)).cycle, some r, true⟩) ∧
      s.muSlice c slice reqs = (s.modArb c fun a => { a with shown := sh, ptr := pt }).muServe c slice ((List.range 8).filterMap (askedAt reqs)) := by
  obtain ⟨sh, pt, hfold, hshow⟩ := presents_first (t := (s.bay (bayOf c)).cycle) hsh hr 8
  have hat : MuArb.at_ { (s.mu c).arb with shown := sh, ptr := pt } slice (s.bay (bayOf c)).cycle = (List.range 8).filterMap (askedAt reqs) :=
    List.filterMap_congr fun p hp => by
      simp only [hshow, if_pos (List.mem_range.1 hp)]
      cases ho : askedAt reqs p with
      | none => rfl
      | some r => simp [hs r (mem_of_askedAt ho)]
  obtain ⟨sh', htried, -, hmark⟩ := tried_marks (a := { (s.mu c).arb with shown := sh, ptr := pt }) (s.bay (bayOf c)).cycle
    (rs := (List.range 8).filterMap (askedAt reqs)) fun r hr => by
      obtain ⟨p, hp, ho⟩ := List.mem_filterMap.1 hr
      have hport : r.port = p := beq_iff_eq.1 (List.mem_filter.1 (List.mem_of_mem_head? ho)).2
      exact ⟨(s.bay (bayOf c)).cycle, false, by rw [hport, hshow, if_pos (List.mem_range.1 hp), ho, Option.map_some]⟩
  refine ⟨sh', pt, hmark, ?_⟩
  have hstate : ((s.modArb c fun a => (List.range 8).foldl (fun a p => a.present p (s.bay (bayOf c)).cycle reqs) a).modArb c
      fun a => a.tried (s.bay (bayOf c)).cycle ((List.range 8).filterMap (askedAt reqs))) = s.modArb c fun a => { a with shown := sh', ptr := pt } := by
    rw [modArb_modArb, hfold, htried]
    exact modArb_const s c fun a => { a with shown := sh', ptr := pt }
  have harb : MuArb.at_ ((s.modArb c fun a => (List.range 8).foldl (fun a p => a.present p (s.bay (bayOf c)).cycle reqs) a).mu c).arb slice
      (s.bay (bayOf c)).cycle = (List.range 8).filterMap (askedAt reqs) := by rw [modArb_arb, hfold, hat]
  rw [State.muSlice]
  simp only [harb, hstate]
  rfl

/-- The arbiters after a grant to `r` in cycle `t`, under pointer `k`. -/
def MuArb.granted (a : MuArb) (k t : Nat) (r : MuReq) : MuArb :=
  { a with ptr := a.ptr.set k ((r.port + 1) % 8), refused := a.refused.erase r.port, dmaWait := if r.dma then a.dmaWait.erase r.port else a.dmaWait
           shown := a.shown.set r.port ⟨t, none, true⟩ }

theorem muPick_nobody (s : State) (c key : Nat) : s.muPick c key [] = none := by simp [State.muPick]

theorem muPick_some {s : State} {c key : Nat} {rs : List MuReq} (hne : rs ≠ []) (hp : ∀ r ∈ rs, r.port < 8) : ∃ w ∈ rs, s.muPick c key rs = some w := by
  obtain ⟨r, hr⟩ := List.exists_mem_of_ne_nil rs hne
  obtain ⟨g, hg, -, hreq⟩ := rrPick_some (req := fun p => rs.any fun r => r.port == p) (Assoc.get 0 (s.mu c).arb.ptr key) (hp r hr)
    (List.any_eq_true.2 ⟨r, hr, beq_self_eq_true _⟩)
  obtain ⟨w, hw⟩ : ∃ w, (rs.find? fun r => r.port == g) = some w := by
    rw [← Option.isSome_iff_exists, List.find?_isSome]
    exact List.any_eq_true.1 hreq
  exact ⟨w, List.mem_of_find?_eq_some hw, by simp [State.muPick, hg, hw]⟩

theorem muArbitrate_nobody (s : State) (c slice key keyU : Nat) (wide : Bool) (bank : Nat) : s.muArbitrate c slice key keyU wide bank [] = (none, s) := by
  simp [State.muArbitrate, muPick_nobody]

/-- Among accesses of one width and place one is granted; when several scheduled ones meet there is a conflict (R163, R164). -/
theorem muArbitrate_some {s : State} {c slice key keyU bank : Nat} {wide : Bool} {rs : List MuReq} (hne : rs ≠ []) (hp : ∀ r ∈ rs, r.port < 8) :
    ∃ w ∈ rs, ∃ k, s.muArbitrate c slice key keyU wide bank rs = (some w,
      if 1 < (rs.filter reqScheduled).length then (s.modArb c fun a => a.granted k (s.bay (bayOf c)).cycle w).muConflict c slice w.port
        ((rs.filter reqScheduled).length - 1) (lowestPort w.port (rs.filter reqScheduled)) wide bank
      else s.modArb c fun a => a.granted k (s.bay (bayOf c)).cycle w) := by
  by_cases hsc : rs.filter reqScheduled = []
  · obtain ⟨w, hw, hpick⟩ := muPick_some (s := s) (c := c) (key := keyU) hne hp
    refine ⟨w, hw, keyU, ?_⟩
    simp only [State.muArbitrate, hsc, ne_eq, not_true_eq_false, if_false, hpick]
    rfl
  · obtain ⟨w, hw, hpick⟩ := muPick_some (s := s) (c := c) (key := key) hsc fun r hr => hp r (List.mem_filter.1 hr).1
    refine ⟨w, (List.mem_filter.1 hw).1, key, ?_⟩
    simp only [State.muArbitrate, hsc, ne_eq, not_false_eq_true, if_true, hpick]
    rfl

/-- An access alone among those of its width and place is granted. -/
theorem muArbitrate_alone {s : State} {c slice key keyU bank : Nat} {wide : Bool} {q : MuReq} (hp : q.port < 8) :
    ∃ k, s.muArbitrate c slice key keyU wide bank [q] = (some q, s.modArb c fun a => a.granted k (s.bay (bayOf c)).cycle q) := by
  obtain ⟨w, hw, k, harb⟩ := muArbitrate_some (s := s) (c := c) (slice := slice) (key := key) (keyU := keyU) (bank := bank) (wide := wide)
    (List.cons_ne_nil q []) (by simpa using hp)
  obtain rfl := List.mem_singleton.1 hw
  have hone : ¬1 < ([w].filter reqScheduled).length := by
    have := List.length_filter_le reqScheduled [w]
    rw [List.length_singleton] at this
    omega
  exact ⟨k, by rw [harb, if_neg hone]⟩

/-- A bank that no narrow access names stands still. -/
theorem muBank_idle {s : State} {c slice bank : Nat} {narrow : List MuReq} (h : ∀ r ∈ narrow, r.first % 4 ≠ bank) : s.muBank c slice bank narrow = s := by
  have hnone : (narrow.filter fun r => r.first % 4 == bank) = [] := List.filter_eq_nil_iff.2 fun r hr => by simpa using h r hr
  simp [State.muBank, hnone, muArbitrate_nobody]

/-- A narrow access alone at its bank is granted. -/
theorem muBank_alone {s : State} {c slice : Nat} {q : MuReq} (hp : q.port < 8) :
    ∃ k, s.muBank c slice (q.first % 4) [q] = (s.modArb c fun a => a.granted k (s.bay (bayOf c)).cycle q).muGrant c slice q := by
  have hhere : ([q].filter fun r => r.first % 4 == q.first % 4) = [q] := by simp
  obtain ⟨k, harb⟩ := muArbitrate_alone (s := s) (c := c) (slice := slice) (key := 10 * slice + 2 + q.first % 4) (keyU := 10 * slice + 6 + q.first % 4)
    (bank := q.first % 4) (wide := false) hp
  have hrest : ([q].filter fun r => some q != some r) = [] := by simp
  refine ⟨k, ?_⟩
  simp only [State.muBank, hhere, harb, hrest, List.foldl_nil]

/-- An access alone at its slice is granted, be it wide or narrow (R163). -/
theorem muServe_alone {s : State} {c slice : Nat} {q : MuReq} (hp : q.port < 8) :
    ∃ k, s.muServe c slice [q] = (s.modArb c fun a => a.granted k (s.bay (bayOf c)).cycle q).muGrant c slice q := by
  by_cases hn : reqNarrow q = true
  · obtain ⟨k, hbank⟩ := muBank_alone (s := s) (c := c) (slice := slice) hp
    have hidle (x : State) (b : Nat) (hb : b ≠ q.first % 4) : x = x.muBank c slice b [q] :=
      (muBank_idle fun r hr => by rw [List.mem_singleton.1 hr]; exact Ne.symm hb).symm
    obtain ⟨y, hy, hr⟩ := foldl_of_single (R := Eq) (fun _ => rfl) Eq.trans hidle List.nodup_range (List.mem_range.2 (Nat.mod_lt q.first (by decide : 4 > 0))) s
    subst hy
    refine ⟨k, ?_⟩
    simp only [State.muServe, List.filter_cons, hn, Bool.not_true, Bool.false_eq_true, if_true, if_false, List.filter_nil, muArbitrate_nobody]
    rw [← hr, hbank]
  · obtain ⟨k, harb⟩ := muArbitrate_alone (s := s) (c := c) (slice := slice) (key := 10 * slice) (keyU := 10 * slice + 1) (bank := 0) (wide := true) hp
    refine ⟨k, ?_⟩
    rw [Bool.not_eq_true] at hn
    simp only [State.muServe, List.filter_cons, hn, Bool.not_false, Bool.false_eq_true, if_true, if_false, List.filter_nil, harb, State.muDisplace]

theorem askedAt_single (q : MuReq) (p : Nat) : askedAt [q] p = if q.port = p then some q else none := by
  by_cases h : q.port = p <;> simp [askedAt, h]

theorem apart_single {q : MuReq} (hu : q.dma = true ∨ q.unit < 6) : Apart [q] :=
  ⟨fun p => by by_cases h : q.port = p <;> simp [askedAt, h], by simpa using hu⟩

/-- An access alone at a slice, when no port presents another, is granted: what changes first is the arbiters (R161, R163). -/
theorem muSlice_alone {s : State} {c : Nat} {q : MuReq} (hsh : (s.mu c).arb.shown = []) (hp : q.port < 8) (hu : q.dma = true ∨ q.unit < 6) :
    ∃ f : MuArb → MuArb, (∀ a, (f a).out = a.out ∧ (q.dma = true → (f a).dmaWait = Assoc.erase a.dmaWait q.port)) ∧
      s.muSlice c q.slice [q] = (s.modArb c f).muGrant c q.slice q := by
  obtain ⟨sh, pt, -, hslice⟩ := muSlice_first (slice := q.slice) hsh (apart_single hu) (by simp)
  have hasked : (List.range 8).filterMap (askedAt [q]) = [q] := by
    rw [filterMap_range_single (i := q.port) (x := q) (by rw [askedAt_single, if_pos rfl]) (fun p hne => by rw [askedAt_single, if_neg (Ne.symm hne)]), if_pos hp]
  rw [hasked] at hslice
  obtain ⟨k, hserve⟩ := muServe_alone (s := s.modArb c fun a => { a with shown := sh, ptr := pt }) (c := c) (slice := q.slice) hp
  refine ⟨fun a => MuArb.granted { a with shown := sh, ptr := pt } k (s.bay (bayOf c)).cycle q, fun a => ⟨rfl, fun hd => ?_⟩, ?_⟩
  · simp [MuArb.granted, hd]
  · rw [hslice, hserve, modArb_modArb]
    rfl

end Sys2Proof.Machine

/-! PROOF. Family 00_scope: what a granted access of a slice does (R158-R161), for O40. -/

namespace Sys2Proof.Machine

/-! ### Where a slice word lies -/

theorem devAddr_word (c w i : Nat) : devAddr c (16 * (w + i)) = devAddr c (16 * w) + 16 * i := by
  unfold devAddr
  omega

/-- The registers that say where a slice word of cluster `c` lies (R174, R184). -/
def SamePlaces (c : Nat) (s t : State) : Prop := t.reg (.mu c .slicePwr) = s.reg (.mu c .slicePwr) ∧ ∀ i, t.reg (.vwin c i) = s.reg (.vwin c i)

theorem muPlace_congr {c : Nat} {s t : State} (h : SamePlaces c s t) (w : Nat) : t.muPlace c w = s.muPlace c w := by
  obtain ⟨hpwr, hwin⟩ := h
  have hv (i : Nat) : t.vwinOf c i = s.vwinOf c i := by rw [State.vwinOf, State.vwinOf, State.regN, State.regN, hwin]
  have hat (slice row : Nat) : t.vwinAt c slice row = s.vwinAt c slice row := by
    rw [State.vwinAt, State.vwinAt, funext hv]
  rw [State.muPlace, State.muPlace, State.regN, State.regN, hpwr]
  simp only [hat]

theorem samePlaces_bayTime (s : State) (c b t : Nat) : SamePlaces c s (s.bayTime b t) :=
  ⟨bayTime_reg s t (by simp [bayClockRegs]), fun i => bayTime_reg s t (by simp [bayClockRegs])⟩

/-! ### Words in a row -/

/-- Words stored one after another from an address on. -/
def State.putWords (s : State) (a : Nat) : List Word → State
  | [] => s
  | d :: ds => (s.putWord a d).putWords (a + 16) ds

theorem kept_putWords {l : List Comp} {s t : State} (a : Nat) (ds : List Word) (hl : [.mem, .errs] ⊆ l) (h : Kept l s t) : Kept l s (t.putWords a ds) := by
  induction ds generalizing t a with
  | nil => exact h
  | cons d ds ih => exact ih (a + 16) (kept_putWord hl h)

theorem memAlone_putWords (s : State) (a : Nat) (ds : List Word) : MemAlone a (16 * ds.length) s (s.putWords a ds) := by
  induction ds generalizing s a with
  | nil => exact fun _ _ => rfl
  | cons d ds ih =>
    rw [List.length_cons, State.putWords]
    exact ((memAlone_putWord s a d).mono (Nat.le_refl a) (by omega)).trans ((ih (s.putWord a d) (a + 16)).mono (by omega) (by omega))

/-- Each of them is read back. -/
theorem word_putWords {s : State} (a : Nat) (ds : List Word) (hs : Inv s) {i : Nat} (hi : i < ds.length) :
    (s.putWords a ds).word (a + 16 * i) = ds.getD i 0 := by
  induction ds generalizing s a i with
  | nil => cases hi
  | cons d ds ih =>
    cases i with
    | zero =>
      have hlater : ((s.putWord a d).putWords (a + 16) ds).word a = (s.putWord a d).word a :=
        word_of_memAlone (memAlone_putWords _ (a + 16) ds) (Or.inl (Nat.le_refl _))
      change ((s.putWord a d).putWords (a + 16) ds).word a = d
      rw [hlater, word_putWord_same a d hs.1]
    | succ i =>
      have hrest := ih (s := s.putWord a d) (a + 16) ((kept_putWord (List.Subset.refl _) (Kept.refl _ s)).inv hs) (Nat.lt_of_succ_lt_succ hi)
      rw [State.putWords, List.getD_cons_succ, ← hrest]
      congr 1
      omega

theorem putWords_reg (s : State) (a : Nat) (ds : List Word) (id : RegId) : (s.putWords a ds).reg id = s.reg id :=
  (kept_putWords a ds (List.Subset.refl _) (Kept.refl _ s)).eq_reg (by decide) id

theorem putWords_mu (s : State) (a : Nat) (ds : List Word) (c : Nat) : (s.putWords a ds).mu c = s.mu c :=
  (kept_putWords a ds (List.Subset.refl _) (Kept.refl _ s)).eq_mu (by decide) c

theorem putWords_twin (s : State) (a : Nat) (ds : List Word) : (s.putWords a ds).twin = s.twin :=
  (kept_putWords a ds (List.Subset.refl _) (Kept.refl _ s)).eq_twin (by decide)

theorem writeMu_plain {s : State} {c w : Nat} (v : Word) (h : s.muPlace c w = .plain w) : s.writeMu c w v = s.putWord (devAddr c (16 * w)) v := by
  simp [State.writeMu, h, State.muCapture, isVersioned, State.muWriteAddr]

theorem writeMany_plain {s : State} {c w : Nat} {ds : List Word} (h : ∀ i, i < ds.length → s.muPlace c (w + i) = .plain (w + i)) :
    s.writeMany (fun x i d => x.writeMu c i d) w ds = s.putWords (devAddr c (16 * w)) ds := by
  induction ds generalizing s w with
  | nil => rfl
  | cons d ds ih =>
    have hfirst : s.writeMu c w d = s.putWord (devAddr c (16 * w)) d := writeMu_plain d (h 0 (Nat.zero_lt_succ _))
    have hrest (i : Nat) (hi : i < ds.length) : (s.putWord (devAddr c (16 * w)) d).muPlace c (w + 1 + i) = .plain (w + 1 + i) := by
      have hplace := h (i + 1) (Nat.succ_lt_succ hi)
      have hsame : SamePlaces c s (s.putWord (devAddr c (16 * w)) d) := ⟨putWord_reg s _ d _, fun _ => putWord_reg s _ d _⟩
      rw [muPlace_congr hsame, Nat.add_assoc, Nat.add_comm 1 i, hplace]
    rw [State.writeMany, hfirst, ih hrest, State.putWords, devAddr_word]

theorem readMu_plain {s : State} {c w : Nat} (h : s.muPlace c w = .plain w) (he : s.errs.get [] (devAddr c (16 * w) / 16) = []) :
    s.readMu c w = (s.word (devAddr c (16 * w)), s) := by
  simp [State.readMu, h, State.muReadAddr, isVersioned, readStore_of_clean _ _ _ _ _ _ _ he]

theorem readMany_plain {s : State} {c w n : Nat}
    (h : ∀ i, i < n → s.muPlace c (w + i) = .plain (w + i) ∧ s.errs.get [] (devAddr c (16 * (w + i)) / 16) = []) :
    s.readMany (fun x i => x.readMu c i) w n = ((List.range n).map fun i => s.word (devAddr c (16 * (w + i))), s) := by
  induction n generalizing w with
  | zero => rfl
  | succ n ih =>
    obtain ⟨hplace, herr⟩ := h 0 (Nat.zero_lt_succ n)
    have hfirst : s.readMu c w = (s.word (devAddr c (16 * w)), s) := readMu_plain hplace herr
    have hnext (i : Nat) : w + 1 + i = w + (i + 1) := by omega
    have hrest := ih (w := w + 1) fun i hi => by rw [hnext]; exact h (i + 1) (Nat.succ_lt_succ hi)
    rw [State.readMany, hfirst]
    simp only [hrest, hnext, List.range_succ_eq_map, List.map_cons, List.map_map]
    rfl

/-! ### A granted access (R161) -/

/-- The cause of the first of `n` words from `w` on that lies nowhere. -/
def State.firstBad (s : State) (c w n : Nat) : Option Nat :=
  (List.range n).findSome? fun i => match s.muPlace c (w + i) with | .bad k => some k | _ => none

theorem firstBad_none {s : State} {c w n : Nat} (h : ∀ i, i < n → s.muPlace c (w + i) = .plain (w + i)) : s.firstBad c w n = none :=
  List.findSome?_eq_none_iff.2 fun i hi => by rw [h i (List.mem_range.1 hi)]

theorem firstBad_some {s : State} {c w n i k : Nat} (hi : i < n) (h : s.muPlace c (w + i) = .bad k) : ∃ k', s.firstBad c w n = some k' := by
  rw [← Option.isSome_iff_exists, State.firstBad, List.findSome?_isSome_iff]
  exact ⟨i, List.mem_range.2 hi, by rw [h]; rfl⟩

/-- A read's words leave for port `p`, there 4 cycles later (R161). -/
def State.muAnswer (s : State) (c p z : Nat) (ds : List Word) : State := s.modArb c fun a => a.send p z (z + 4) ds

theorem muGrant_of_good {s : State} {c slice : Nat} {q : MuReq} (h : s.firstBad c (1536 * slice + q.first) q.count = none) :
    s.muGrant c slice q = if q.write then s.writeMany (fun x i d => x.writeMu c i d) (1536 * slice + q.first) (q.data.take q.count)
      else (s.readMany (fun x i => x.readMu c i) (1536 * slice + q.first) q.count).2.muAnswer c q.port (s.bay (bayOf c)).cycle
        (s.readMany (fun x i => x.readMu c i) (1536 * slice + q.first) q.count).1 := by
  change (match s.firstBad c (1536 * slice + q.first) q.count with | some k => _ | none => _) = _
  rw [h]
  rfl

theorem muGrant_of_bad {s : State} {c slice k : Nat} {q : MuReq} (h : s.firstBad c (1536 * slice + q.first) q.count = some k) :
    ∃ x, x = s.addrFault (bayOf c) (devAddr c (16 * (1536 * slice + q.first))) (portOwner c q.port).1 k (portOwner c q.port).2 ∧
      s.muGrant c slice q = if q.write then x else x.muAnswer c q.port (s.bay (bayOf c)).cycle (List.replicate q.count 0) := by
  refine ⟨_, rfl, ?_⟩
  change (match s.firstBad c (1536 * slice + q.first) q.count with | some k => _ | none => _) = _
  rw [h]
  rfl

theorem muGrant_write {s : State} {c slice : Nat} {q : MuReq} (hw : q.write = true) (hl : q.data.length = q.count)
    (h : ∀ i, i < q.count → s.muPlace c (1536 * slice + q.first + i) = .plain (1536 * slice + q.first + i)) :
    s.muGrant c slice q = s.putWords (devAddr c (16 * (1536 * slice + q.first))) q.data := by
  rw [muGrant_of_good (firstBad_none h), if_pos hw, ← hl, List.take_length, writeMany_plain fun i hi => h i (hl ▸ hi)]

theorem muGrant_read {s : State} {c slice : Nat} {q : MuReq} (hw : q.write = false)
    (h : ∀ i, i < q.count → s.muPlace c (1536 * slice + q.first + i) = .plain (1536 * slice + q.first + i) ∧
      s.errs.get [] (devAddr c (16 * (1536 * slice + q.first + i)) / 16) = []) :
    s.muGrant c slice q = s.muAnswer c q.port (s.bay (bayOf c)).cycle ((List.range q.count).map fun i => s.word (devAddr c (16 * (1536 * slice + q.first + i)))) := by
  rw [muGrant_of_good (firstBad_none fun i hi => (h i hi).1), if_neg (Bool.eq_false_iff.1 hw), readMany_plain h]

/-- A read of which a word lies nowhere is an address fault and answers zeros (R5). -/
theorem muGrant_bad {s : State} {c slice i k : Nat} {q : MuReq} (hw : q.write = false) (hi : i < q.count)
    (h : s.muPlace c (1536 * slice + q.first + i) = .bad k) :
    ∃ who cause lane, s.muGrant c slice q = (s.addrFault (bayOf c) (devAddr c (16 * (1536 * slice + q.first))) who cause lane).muAnswer c q.port
      (s.bay (bayOf c)).cycle (List.replicate q.count 0) := by
  obtain ⟨k', hbad⟩ := firstBad_some hi h
  obtain ⟨x, rfl, hgrant⟩ := muGrant_of_bad hbad
  exact ⟨_, k', _, by rw [hgrant, if_neg (Bool.eq_false_iff.1 hw)]⟩

theorem mem_muSend (a : MuArb) (port now due : Nat) (ds : List Word) : (ds, due) ∈ Assoc.get [] (a.send port now due ds).out port := by
  simp [MuArb.send]

/-- An address fault's event is the last on its way (R5). -/
theorem addrFault_inflight (s : State) (src addr who cause : Nat) (lane : Option Nat) : ∃ e, (s.addrFault src addr who cause lane).evt.inflight =
    s.evt.inflight ++ [e] ∧ e.source = src ∧ e.kind = 0x20 ∧ e.w0 = addr % 2 ^ 32 := by
  unfold State.addrFault
  split <;> cases lane <;> exact ⟨_, rfl, rfl, rfl, rfl⟩

theorem muHold_of_twin_eq {s t : State} (c : Nat) (h : t.twin = s.twin) : s.muHold c t = t := by
  have hcap : t.muCaptured c = s.muCaptured c := by rw [State.muCaptured, State.muCaptured, h]
  rw [State.muHold, hcap, if_neg (fun h => Nat.lt_irrefl _ h.2)]

end Sys2Proof.Machine

/-! PROOF. Family 00_scope: what the slice arbiters do (O40). -/

namespace Sys2Proof.Machine

theorem exec_sliceArbitration {t c slice : Nat} {reqs : List MuReq} {s : State} (hp : (s.bay (bayOf c)).power = .active) :
    exec (.sliceArbitration t c slice reqs) s = .next ((s.bayTime (bayOf c) t).muHold c ((s.bayTime (bayOf c) t).muSlice c slice reqs)) := by
  change Host.Outcome.next (if (s.bayTime (bayOf c) t).bayRuns (bayOf c) then _ else _) = _
  rw [bayRuns_bayTime t _ hp, if_pos rfl]

section
variable {s : State} {b c t : Nat} {f : MuArb → MuArb}

/-- A write of a slice is made after a change of the arbiters. -/
theorem written_of_modArb {a : Nat} {ds : List Word} {r : State} (hs : Inv s) (hr : r = ((s.bayTime b t).modArb c f).putWords a ds) :
    (∀ i, i < ds.length → r.word (a + 16 * i) = ds.getD i 0) ∧ MemAlone a (16 * ds.length) s r ∧ (r.mu c).arb = f (s.mu c).arb ∧
      (r.mu c).dsp = (s.mu c).dsp ∧ MusAlone [c] s r ∧ RegsAlone (bayClockRegs b) s r ∧ Touches [.mem, .errs, .regs, .bays, .mus] s r ∧ r.twin = s.twin := by
  subst hr
  have hkept : Kept [.mem, .errs, .regs, .bays, .mus] s ((s.bayTime b t).modArb c f) := kept_modArb (by decide) (kept_bayTime (by decide) (Kept.refl _ s))
  refine ⟨fun i hi => word_putWords a ds (hkept.inv hs) hi, ?_, ?_, ?_, fun d hd => ?_, fun id hid => ?_, (kept_putWords a ds (by decide) hkept).touches, ?_⟩
  · have hmem : MemAlone a (16 * ds.length) s ((s.bayTime b t).modArb c f) := memAlone_of_mem_eq _ _ (by rw [modArb_mem, bayTime_mem])
    exact hmem.trans (memAlone_putWords _ a ds)
  · rw [putWords_mu, modArb_arb, bayTime_mu]
  · rw [putWords_mu, modArb_dsp, bayTime_mu]
  · rw [putWords_mu, modArb_musAlone _ c f d hd, bayTime_mu]
  · rw [putWords_reg, modArb_reg, bayTime_regsAlone s b t id hid]
  · rw [putWords_twin, modArb_twin, bayTime_twin]

/-- A change of the arbiters alone. -/
theorem muFrame_of_modArb {r : State} (hr : r = (s.bayTime (bayOf c) t).modArb c f) :
    (r.mu c).arb = f (s.mu c).arb ∧ (r.mu c).dsp = (s.mu c).dsp ∧ MuFrame c s r ∧ r.twin = s.twin := by
  subst hr
  refine ⟨?_, ?_, ⟨fun d hd => ?_, fun b hb => ?_, fun id hid => ?_, (kept_modArb (by decide) (kept_bayTime (by decide) (Kept.refl _ s))).touches⟩, ?_⟩
  · rw [modArb_arb, bayTime_mu]
  · rw [modArb_dsp, bayTime_mu]
  · rw [modArb_musAlone _ c f d hd, bayTime_mu]
  · rw [modArb_bay, bayTime_baysAlone s _ t b hb]
  · rw [modArb_reg, bayTime_regsAlone s _ t id hid]
  · rw [modArb_twin, bayTime_twin]

end

/-- One access at its slice (R158, R161): a write lands, a read answers with the words or, where one lies nowhere, with zeros. -/
theorem slice_alone (t c slice w z : Nat) (q : MuReq) (s m : State) (hs : Inv s) (hm : m = s.bayTime (bayOf c) t) (hz : z = (m.bay (bayOf c)).cycle)
    (hpw : (s.bay (bayOf c)).power = .active) (hsh : (s.mu c).arb.shown = []) (hslice : q.slice = slice) (h8 : q.port < 8) (hu : q.unit < 6)
    (hw : w = 1536 * slice + q.first) :
    (q.write = true → q.data.length = q.count → (∀ i, i < q.count → s.muPlace c (w + i) = .plain (w + i)) → Completes (exec (.sliceArbitration t c slice [q]) s) fun r =>
      (∀ i, i < q.count → r.word (devAddr c (16 * (w + i))) = q.data.getD i 0) ∧ MemAlone (devAddr c (16 * w)) (16 * q.count) s r ∧
      (r.mu c).dsp = (s.mu c).dsp ∧ MusAlone [c] s r ∧ RegsAlone (bayClockRegs (bayOf c)) s r ∧ Touches [.mem, .errs, .regs, .bays, .mus] s r) ∧
    (q.write = false → (∀ i, i < q.count → s.muPlace c (w + i) = .plain (w + i) ∧ s.errs.get [] (devAddr c (16 * (w + i)) / 16) = []) →
      Completes (exec (.sliceArbitration t c slice [q]) s) fun r =>
        ((List.range q.count).map (fun i => s.word (devAddr c (16 * (w + i)))), z + 4) ∈ Assoc.get [] (r.mu c).arb.out q.port ∧
        (r.mu c).dsp = (s.mu c).dsp ∧ MuFrame c s r) ∧
    (∀ i k, q.write = false → i < q.count → s.muPlace c (w + i) = .bad k → Completes (exec (.sliceArbitration t c slice [q]) s) fun r =>
      (List.replicate q.count 0, z + 4) ∈ Assoc.get [] (r.mu c).arb.out q.port ∧ (∃ e ∈ r.evt.inflight, e.source = bayOf c ∧ e.kind = 0x20 ∧
        e.w0 = devAddr c (16 * w) % 2 ^ 32) ∧ r.mem = s.mem ∧ MusAlone [c] s r) := by
  subst hslice hw hm hz
  obtain ⟨f, -, hslice⟩ := muSlice_alone (s := s.bayTime (bayOf c) t) (c := c) (by rw [bayTime_mu, hsh]) h8 (Or.inr hu)
  have hexec := exec_sliceArbitration (t := t) (slice := q.slice) (reqs := [q]) hpw
  rw [hslice] at hexec
  have hplaces (i : Nat) : ((s.bayTime (bayOf c) t).modArb c f).muPlace c i = s.muPlace c i :=
    (muPlace_congr (s := s.bayTime (bayOf c) t) ⟨modArb_reg _ c f _, fun _ => modArb_reg _ c f _⟩ i).trans (muPlace_congr (samePlaces_bayTime s c _ t) i)
  have hword (a : Nat) : ((s.bayTime (bayOf c) t).modArb c f).word a = s.word a := word_congr (by rw [modArb_mem, bayTime_mem]) a
  refine ⟨fun hwr hl hplain => ?_, fun hrd hplain => ?_, fun i k hrd hi hbad => ?_⟩
  · rw [muGrant_write hwr hl fun i hi => (hplaces _).trans (hplain i hi)] at hexec
    obtain ⟨h1, h2, -, h4, h5, h6, h7, htwin⟩ := written_of_modArb (c := c) (t := t) (f := f) (b := bayOf c) (ds := q.data)
      (a := devAddr c (16 * (1536 * q.slice + q.first))) hs rfl
    rw [muHold_of_twin_eq c (htwin.trans (bayTime_twin s _ t).symm)] at hexec
    rw [hl] at h1 h2
    exact ⟨_, hexec, fun i hi => by rw [devAddr_word c (1536 * q.slice + q.first) i, h1 i hi], h2, h4, h5, h6, h7⟩
  · rw [muGrant_read hrd fun i hi => ⟨(hplaces _).trans (hplain i hi).1, by rw [modArb_errs, bayTime_errs, (hplain i hi).2]⟩, State.muAnswer, modArb_modArb] at hexec
    simp only [hword, modArb_bay] at hexec
    obtain ⟨harb, hdsp, hframe, htwin⟩ := muFrame_of_modArb (s := s) (c := c) (t := t) rfl
    rw [muHold_of_twin_eq c (htwin.trans (bayTime_twin s _ t).symm)] at hexec
    exact ⟨_, hexec, by rw [harb]; exact mem_muSend _ _ _ _ _, hdsp, hframe⟩
  · obtain ⟨who, cause, lane, hgrant⟩ := muGrant_bad hrd hi ((hplaces _).trans hbad)
    have hkept (src addr : Nat) := kept_addrFault (src := src) (addr := addr) (who := who) (cause := cause) (lane := lane) (List.Subset.refl _)
      (Kept.refl _ ((s.bayTime (bayOf c) t).modArb c f))
    rw [hgrant, modArb_bay, State.muAnswer, muHold_of_twin_eq c (by rw [modArb_twin, (hkept _ _).eq_twin (by decide), modArb_twin])] at hexec
    obtain ⟨e, hin, hsrc, hkind, hw0⟩ := addrFault_inflight ((s.bayTime (bayOf c) t).modArb c f) (bayOf c) (devAddr c (16 * (1536 * q.slice + q.first))) who cause lane
    refine ⟨_, hexec, ?_, ⟨e, ?_, hsrc, hkind, hw0⟩, ?_, fun d hd => ?_⟩
    · rw [modArb_arb]
      exact mem_muSend _ _ _ _ _
    · rw [modArb_evt, hin]
      exact List.mem_append_right _ (List.mem_singleton.2 rfl)
    · rw [modArb_mem, (hkept _ _).eq_mem (by decide), modArb_mem, bayTime_mem]
    · rw [modArb_musAlone _ c _ d hd, (hkept _ _).eq_mu (by decide), modArb_musAlone _ c f d hd, bayTime_mu]

theorem exec_cuPortDmaPromotion {t u n k : Nat} {q : MuReq} {s : State} (hp : (s.bay (bayOfCu u)).power = .active)
    (hfind : Assoc.find? (s.mu (u / 4)).arb.dmaWait (u % 4) = some (n, k, q)) (hn : 16 ≤ n) :
    exec (.cuPortDmaPromotion t u) s =
      .next ((s.bayTime (bayOfCu u) t).muHold (u / 4) ((s.bayTime (bayOfCu u) t).muSlice (u / 4) q.slice [q])) := by
  change Host.Outcome.next (if (s.bayTime (bayOfCu u) t).bayRuns (bayOfCu u) then _ else _) = _
  rw [bayRuns_bayTime t _ hp, if_pos rfl, State.promoteDma, bayTime_mu, hfind]
  simp only [if_pos hn]

/-- A DMA request that has waited 16 cycles takes its CU port (R162). -/
theorem dma_promotion (t u n k w : Nat) (q : MuReq) (s : State) (hs : Inv s) (hp : (s.bay (bayOfCu u)).power = .active)
    (hsh : (s.mu (u / 4)).arb.shown = []) (hfind : Assoc.find? (s.mu (u / 4)).arb.dmaWait (u % 4) = some (n, k, q)) (hn : 16 ≤ n) (hport : q.port = u % 4)
    (hdma : q.dma = true) (hwr : q.write = true) (hl : q.data.length = q.count) (hw : w = 1536 * q.slice + q.first)
    (hplain : ∀ i, i < q.count → s.muPlace (u / 4) (w + i) = .plain (w + i)) : Completes (exec (.cuPortDmaPromotion t u) s) fun r =>
      (∀ i, i < q.count → r.word (devAddr (u / 4) (16 * (w + i))) = q.data.getD i 0) ∧ Assoc.find? (r.mu (u / 4)).arb.dmaWait (u % 4) = none ∧
      MemAlone (devAddr (u / 4) (16 * w)) (16 * q.count) s r ∧ MusAlone [u / 4] s r ∧ Touches [.mem, .errs, .regs, .bays, .mus] s r := by
  subst hw
  have h8 : q.port < 8 := by omega
  obtain ⟨f, hf, hslice⟩ := muSlice_alone (s := s.bayTime (bayOfCu u) t) (c := u / 4) (by rw [bayTime_mu, hsh]) h8 (Or.inl hdma)
  have hplaces (i : Nat) : ((s.bayTime (bayOfCu u) t).modArb (u / 4) f).muPlace (u / 4) i = s.muPlace (u / 4) i :=
    (muPlace_congr (s := s.bayTime (bayOfCu u) t) ⟨modArb_reg _ _ f _, fun _ => modArb_reg _ _ f _⟩ i).trans (muPlace_congr (samePlaces_bayTime s _ _ t) i)
  have hexec := exec_cuPortDmaPromotion (t := t) hp hfind hn
  rw [hslice, muGrant_write hwr hl fun i hi => (hplaces _).trans (hplain i hi)] at hexec
  obtain ⟨h1, h2, harb, -, h5, -, h7, htwin⟩ := written_of_modArb (c := u / 4) (t := t) (f := f) (b := bayOfCu u) (ds := q.data)
    (a := devAddr (u / 4) (16 * (1536 * q.slice + q.first))) hs rfl
  rw [muHold_of_twin_eq _ (htwin.trans (bayTime_twin s _ t).symm)] at hexec
  rw [hl] at h1 h2
  refine ⟨_, hexec, fun i hi => by rw [devAddr_word (u / 4) (1536 * q.slice + q.first) i, h1 i hi], ?_, h2, h5, h7⟩
  rw [harb, (hf _).2 hdma, hport]
  exact Assoc.find?_erase_same _ _

theorem exec_narrowStarvation {t c port slice bank : Nat} {s : State} (hp : (s.bay (bayOf c)).power = .active)
    (hr : Assoc.get 0 (s.mu c).arb.refused port = 4) : exec (.narrowStarvation t c port slice bank) s = .next ((s.bayTime (bayOf c) t).muRefuse c slice port bank) := by
  change Host.Outcome.next (if (s.bayTime (bayOf c) t).bayRuns (bayOf c) && Assoc.get 0 ((s.bayTime (bayOf c) t).mu c).arb.refused port == 4 then _ else _) = _
  rw [bayRuns_bayTime t _ hp, bayTime_mu, hr]
  rfl

theorem muRefuse_fifth {s : State} {c slice port bank : Nat} (h : Assoc.get 0 (s.mu c).arb.refused port = 4) : s.muRefuse c slice port bank =
    (((s.count (.mu c .narrowWait) 1).modArb c fun a => { a with refused := a.refused.set port 5 }).count (.mu c .starve) 1).raiseBay (bayOf c) 0x23
      (port + slice * 2 ^ 3 + bank * 2 ^ 6) (locMu c) 0 0 := by
  rw [State.muRefuse]
  simp only [h]
  rfl

/-- The fifth refusal of a port's narrow access (R165). -/
theorem narrow_starvation (t c port slice bank : Nat) (s : State) (hp : (s.bay (bayOf c)).power = .active)
    (hr : Assoc.get 0 (s.mu c).arb.refused port = 4) (hport : port < 8) (hslice : slice < 8) (hbank : bank < 4) :
    Completes (exec (.narrowStarvation t c port slice bank) s) fun r => r.reg (.mu c .starve) = satReg (s.reg (.mu c .starve)) 1 ∧
      r.reg (.mu c .narrowWait) = satReg (s.reg (.mu c .narrowWait)) 1 ∧ Assoc.get 0 (r.mu c).arb.refused port = 5 ∧
      Raised s r (bayOf c) 0x23 (port + slice * 8 + bank * 64) (locMu c % 2 ^ 32) 0 0 ∧
      RegsAlone (.mu c .starve :: .mu c .narrowWait :: bayClockRegs (bayOf c)) s r ∧ MusAlone [c] s r ∧ Touches [.regs, .bays, .mus, .evt] s r := by
  have hexec := exec_narrowStarvation (t := t) (slice := slice) (bank := bank) hp hr
  rw [muRefuse_fifth (by rw [bayTime_mu, hr])] at hexec
  refine ⟨_, hexec, ?_, ?_, ?_, ?_, fun id hid => ?_, fun d hd => ?_, ?_⟩
  · rw [raiseBay_reg, count_reg, if_pos rfl, modArb_reg, count_reg, if_neg (by simp), bayTime_reg s t (by simp [bayClockRegs])]
  · rw [raiseBay_reg, count_reg, if_neg (by simp), modArb_reg, count_reg, if_pos rfl, bayTime_reg s t (by simp [bayClockRegs])]
  · rw [raiseBay_mu, count_mu, modArb_arb, Assoc.get_set, if_pos rfl]
  · have hraised := raised_raiseBay ((((s.bayTime (bayOf c) t).count (.mu c .narrowWait) 1).modArb c fun a => { a with refused := a.refused.set port 5 }).count
      (.mu c .starve) 1) (bayOf c) 0x23 (port + slice * 2 ^ 3 + bank * 2 ^ 6) (locMu c) 0 0
    rw [Nat.mod_eq_of_lt (by omega : port + slice * 2 ^ 3 + bank * 2 ^ 6 < 2 ^ 32)] at hraised
    exact hraised.of_evt_eq (by rw [count_evt, modArb_evt, count_evt, bayTime_evt])
  · simp only [List.mem_cons, not_or] at hid
    obtain ⟨hstarve, hwait, hclock⟩ := hid
    rw [raiseBay_reg, count_reg, if_neg (Ne.symm hstarve), modArb_reg, count_reg, if_neg (Ne.symm hwait), bayTime_regsAlone s _ t id (by simpa using hclock)]
  · rw [raiseBay_mu, count_mu, modArb_musAlone _ c _ d hd, count_mu, bayTime_mu]
  · exact (kept_raiseBay (by decide) (kept_count (by decide) (kept_modArb (by decide) (kept_count (by decide) (kept_bayTime (by decide) (Kept.refl _ s)))))).touches

end Sys2Proof.Machine

/-! PROOF. Family 00_scope: two accesses that meet at a slice (R164), and the arbiters together (O40). -/

namespace Sys2Proof.Machine

/-! ### What no access of a slice changes -/

/-- The events on their way in `s` are on their way in `t`. -/
def EventsStay (s t : State) : Prop := ∀ e ∈ s.evt.inflight, e ∈ t.evt.inflight

theorem eventsStay_of_evt_eq {s t : State} (h : t.evt = s.evt) : EventsStay s t := fun _ he => h ▸ he

theorem EventsStay.trans {s t r : State} (h : EventsStay s t) (h' : EventsStay t r) : EventsStay s r := fun e he => h' e (h e he)

theorem record_evt (s : State) (r : RegId) (validBit v : Nat) : (s.record r validBit v).evt = s.evt := by
  unfold State.record; split <;> rfl

theorem detect_evt (s : State) (b loc cause cluster kind : Nat) : (s.detect b loc cause cluster kind).evt = s.evt := by
  unfold State.detect; split <;> rfl

theorem eventsStay_addrFault (s : State) (src addr who cause : Nat) (lane : Option Nat) : EventsStay s (s.addrFault src addr who cause lane) := by
  obtain ⟨e, h, -⟩ := addrFault_inflight s src addr who cause lane
  intro x hx
  rw [h]
  exact List.mem_append_left _ hx

theorem eventsStay_uncorrectableWord (s : State) (b loc store cu c off : Nat) : EventsStay s (s.uncorrectableWord b loc store cu c off) := by
  intro e he
  rw [State.uncorrectableWord, detect_evt]
  refine List.mem_append_left _ ?_
  rw [record_evt]
  exact he

theorem eventsStay_readStore (s : State) (a b loc store cu c off : Nat) (keep : Bool) : EventsStay s (s.readStore a b loc store cu c off keep).2 := by
  have hfree : EventsStay s (if 2 < (s.errs.get [] (a / 16)).length then s.takeFree else s) := by split <;> exact eventsStay_of_evt_eq rfl
  unfold State.readStore
  generalize (if 2 < (s.errs.get [] (a / 16)).length then s.takeFree else s) = s0 at hfree
  refine hfree.trans ?_
  dsimp only
  split
  · exact eventsStay_of_evt_eq rfl
  · split
    · exact eventsStay_of_evt_eq rfl
    · have hword := eventsStay_uncorrectableWord s0 b loc store cu c off
      generalize s0.uncorrectableWord b loc store cu c off = x at hword
      have hlost : (if store = 2 then x.laneLost (4 * c + cu) else x).evt = x.evt := by split <;> rfl
      refine hword.trans (eventsStay_of_evt_eq (Eq.trans ?_ hlost))
      cases keep <;> rfl

/-- What an access of cluster `c`'s slices leaves: the other clusters' units, what its own ports present, its count of conflicts, the events that
are on their way, and, with no frozen word, the checkpoint stream. -/
structure SliceWork (c : Nat) (s t : State) : Prop where
  mus : MusAlone [c] s t
  shown : (t.mu c).arb.shown = (s.mu c).arb.shown
  conflicts : t.reg (.mu c .conflict) = s.reg (.mu c .conflict)
  events : EventsStay s t
  twin : s.twin.frozen = [] → t.twin = s.twin

theorem SliceWork.refl (c : Nat) (s : State) : SliceWork c s s := ⟨fun _ _ => rfl, rfl, rfl, fun _ h => h, fun _ => rfl⟩

theorem SliceWork.trans {c : Nat} {s t r : State} (h : SliceWork c s t) (h' : SliceWork c t r) : SliceWork c s r :=
  ⟨fun d hd => (h'.mus d hd).trans (h.mus d hd), h'.shown.trans h.shown, h'.conflicts.trans h.conflicts, h.events.trans h'.events,
    fun hf => (h'.twin (by rw [h.twin hf, hf])).trans (h.twin hf)⟩

theorem sliceWork_of_mus_eq {c : Nat} {s t : State} (hmu : ∀ d, t.mu d = s.mu d) (hreg : t.reg (.mu c .conflict) = s.reg (.mu c .conflict))
    (hevt : EventsStay s t) (htwin : t.twin = s.twin) : SliceWork c s t := ⟨fun d _ => hmu d, by rw [hmu], hreg, hevt, fun _ => htwin⟩

theorem sliceWork_putWord (c : Nat) (s : State) (a : Nat) (w : Word) : SliceWork c s (s.putWord a w) :=
  sliceWork_of_mus_eq (putWord_mu s a w) (putWord_reg s a w _) (eventsStay_of_evt_eq (putWord_evt s a w)) (putWord_twin s a w)

theorem sliceWork_muAnswer (s : State) (c p z : Nat) (ds : List Word) : SliceWork c s (s.muAnswer c p z ds) :=
  ⟨modArb_musAlone s c _, by rw [State.muAnswer, modArb_arb]; rfl, modArb_reg s c _ _, eventsStay_of_evt_eq (modArb_evt s c _), fun _ => modArb_twin s c _⟩

theorem sliceWork_addrFault (c : Nat) (s : State) (src addr who cause : Nat) (lane : Option Nat) : SliceWork c s (s.addrFault src addr who cause lane) := by
  have hkept := kept_addrFault (src := src) (addr := addr) (who := who) (cause := cause) (lane := lane) (List.Subset.refl _) (Kept.refl _ s)
  exact sliceWork_of_mus_eq (hkept.eq_mu (by decide)) (addrFault_reg s src addr who cause lane _) (eventsStay_addrFault s src addr who cause lane)
    (hkept.eq_twin (by decide))

theorem sliceWork_readMu (s : State) (c w : Nat) : SliceWork c s (s.readMu c w).2 := by
  have hkept := kept_readMu (c := c) (w := w) (List.Subset.refl _) (Kept.refl _ s)
  refine sliceWork_of_mus_eq (hkept.eq_mu (by decide)) ?_ ?_ (hkept.eq_twin (by decide))
  · unfold State.readMu
    split
    · rfl
    · exact readStore_reg s _ _ _ _ _ _ _ (by simp [errorRegs])
  · unfold State.readMu
    split
    · exact eventsStay_of_evt_eq rfl
    · exact eventsStay_readStore s _ _ _ _ _ _ _ _

theorem sliceWork_readMany (s : State) (c w n : Nat) : SliceWork c s (s.readMany (fun x i => x.readMu c i) w n).2 := by
  induction n generalizing s w with
  | zero => exact SliceWork.refl c s
  | succ n ih => exact (sliceWork_readMu s c w).trans (ih (s.readMu c w).2 (w + 1))

theorem muCapture_of_none {s : State} (c w : Nat) (p : MuPlace) (h : s.twin.frozen = []) : s.muCapture c w p = s := by
  simp [State.muCapture, h]

/-- With a frozen word the stream grows; without one a write stores its word and marks it written. -/
theorem sliceWork_writeMu (s : State) (c w : Nat) (v : Word) (h : s.twin.frozen = []) : SliceWork c s (s.writeMu c w v) := by
  unfold State.writeMu
  split
  · exact SliceWork.refl c s
  · rw [muCapture_of_none c w _ h]
    have hput := sliceWork_putWord c s (s.muWriteAddr c (s.muPlace c w)) v
    dsimp only
    generalize s.putWord (s.muWriteAddr c (s.muPlace c w)) v = x at hput ⊢
    refine hput.trans ?_
    split
    · refine ⟨fun d hd => ?_, ?_, rfl, eventsStay_of_evt_eq rfl, fun _ => rfl⟩
      · rw [modMu_mu, if_neg (fun e => hd (by simp [e]))]
      · rw [modMu_mu, if_pos rfl]
    · exact SliceWork.refl c x

theorem sliceWork_writeMany (s : State) (c w : Nat) (ds : List Word) (h : s.twin.frozen = []) : SliceWork c s (s.writeMany (fun x i d => x.writeMu c i d) w ds) := by
  induction ds generalizing s w with
  | nil => exact SliceWork.refl c s
  | cons d ds ih =>
    have hfirst := sliceWork_writeMu s c w d h
    exact hfirst.trans (ih (s.writeMu c w d) (w + 1) (by rw [hfirst.twin h, h]))

theorem sliceWork_muGrant (s : State) (c slice : Nat) (q : MuReq) (h : s.twin.frozen = []) : SliceWork c s (s.muGrant c slice q) := by
  cases hbad : s.firstBad c (1536 * slice + q.first) q.count with
  | some k =>
    obtain ⟨x, hx, hgrant⟩ := muGrant_of_bad hbad
    have hfault : SliceWork c s x := hx ▸ sliceWork_addrFault c s _ _ _ _ _
    rw [hgrant]
    split
    · exact hfault
    · exact hfault.trans (sliceWork_muAnswer x c _ _ _)
  | none =>
    rw [muGrant_of_good hbad]
    split
    · exact sliceWork_writeMany s c _ _ h
    · exact (sliceWork_readMany s c _ _).trans (sliceWork_muAnswer _ c _ _ _)

/-! ### The conflict (R164) -/

theorem muConflict_mu (s : State) (c slice g n lowest : Nat) (wide : Bool) (bank d : Nat) : (s.muConflict c slice g n lowest wide bank).mu d = s.mu d :=
  (kept_muConflict (List.Subset.refl _) (Kept.refl _ s)).eq_mu (by decide) d

theorem muConflict_twin (s : State) (c slice g n lowest : Nat) (wide : Bool) (bank : Nat) : (s.muConflict c slice g n lowest wide bank).twin = s.twin :=
  (kept_muConflict (List.Subset.refl _) (Kept.refl _ s)).eq_twin (by decide)

theorem muConflict_reg (s : State) (c slice g n lowest : Nat) (wide : Bool) (bank : Nat) :
    (s.muConflict c slice g n lowest wide bank).reg (.mu c .conflict) = satReg (s.reg (.mu c .conflict)) n := by
  rw [State.muConflict, raiseBay_reg, record_reg_other _ _ _ (by simp), count_reg, if_pos rfl]

theorem muConflict_event (s : State) (c slice g n lowest : Nat) (wide : Bool) (bank : Nat) :
    ∃ e ∈ (s.muConflict c slice g n lowest wide bank).evt.inflight, e.source = bayOf c ∧ e.kind = 0x22 ∧ e.w1 = locMu c % 2 ^ 32 :=
  ⟨_, List.mem_append_right _ (List.mem_singleton.2 rfl), rfl, rfl, rfl⟩

/-- Two wide scheduled accesses that meet at a slice: one is granted, and the other counted as refused. -/
theorem muServe_conflict {s : State} {c slice : Nat} {p q : MuReq} (hp : reqNarrow p = false) (hq : reqNarrow q = false) (hps : reqScheduled p = true)
    (hqs : reqScheduled q = true) (hp8 : p.port < 8) (hq8 : q.port < 8) : ∃ w ∈ [p, q], ∃ k low,
      s.muServe c slice [p, q] = ((s.modArb c fun a => a.granted k (s.bay (bayOf c)).cycle w).muConflict c slice w.port 1 low true 0).muGrant c slice w := by
  have hsched : [p, q].filter reqScheduled = [p, q] := by simp [hps, hqs]
  have hwide : ([p, q].filter fun r => !reqNarrow r) = [p, q] := by simp [hp, hq]
  have hnarrow : [p, q].filter reqNarrow = [] := by simp [hp, hq]
  obtain ⟨w, hw, k, harb⟩ := muArbitrate_some (s := s) (c := c) (slice := slice) (key := 10 * slice) (keyU := 10 * slice + 1) (bank := 0) (wide := true)
    (List.cons_ne_nil p [q]) (by simp [hp8, hq8])
  refine ⟨w, hw, k, lowestPort w.port [p, q], ?_⟩
  have hpair : 1 < [p, q].length := Nat.one_lt_two
  rw [hsched, if_pos hpair] at harb
  simp only [State.muServe, hwide, hnarrow, harb, State.muDisplace]
  rfl

theorem askedAt_pair (p q : MuReq) (k : Nat) :
    askedAt [p, q] k = if p.port = k then some p else if q.port = k then some q else none := by
  by_cases hp : p.port = k
  · simp [askedAt, hp]
  · by_cases hq : q.port = k <;> simp [askedAt, hp, hq]

theorem apart_pair {p q : MuReq} (h : p.port ≠ q.port) (hp : p.unit < 6) (hq : q.unit < 6) : Apart [p, q] := by
  refine ⟨fun k => ?_, by simp [hp, hq]⟩
  rw [askedAt_pair]
  by_cases hpk : p.port = k
  · have hqk : ¬q.port = k := fun e => h (hpk.trans e.symm)
    simp [hpk, hqk]
  · by_cases hqk : q.port = k <;> simp [hpk, hqk]

/-- The ports present two accesses in the order of the ports. -/
theorem presented_pair {p q : MuReq} (h : p.port ≠ q.port) (hp : p.port < 8) (hq : q.port < 8) :
    (List.range 8).filterMap (askedAt [p, q]) = [p, q] ∨ (List.range 8).filterMap (askedAt [p, q]) = [q, p] := by
  have hpa : askedAt [p, q] p.port = some p := by rw [askedAt_pair, if_pos rfl]
  have hqa : askedAt [p, q] q.port = some q := by rw [askedAt_pair, if_neg h, if_pos rfl]
  have hno (k : Nat) (h1 : k ≠ p.port) (h2 : k ≠ q.port) : askedAt [p, q] k = none := by rw [askedAt_pair, if_neg (Ne.symm h1), if_neg (Ne.symm h2)]
  rcases Nat.lt_or_gt_of_ne h with hlt | hgt
  · left
    rw [filterMap_range_pair hpa hqa hlt hno, if_pos hp, if_pos hq]
    rfl
  · right
    rw [filterMap_range_pair hqa hpa hgt fun k h1 h2 => hno k h2 h1, if_pos hp, if_pos hq]
    rfl

/-- Two scheduled wide accesses of two ports that meet at their slice. -/
theorem muSlice_conflict {s : State} {c : Nat} {p q : MuReq} (hsh : (s.mu c).arb.shown = []) (hslice : p.slice = q.slice) (hpu : p.unit < 6) (hqu : q.unit < 6)
    (hp8 : p.port < 8) (hq8 : q.port < 8) (hne : p.port ≠ q.port) (hps : reqScheduled p = true) (hqs : reqScheduled q = true) (hp : reqNarrow p = false)
    (hq : reqNarrow q = false) : ∃ w l f g low, (l = p ∨ l = q) ∧ Assoc.find? (f (s.mu c).arb).shown l.port = some ⟨(s.bay (bayOf c)).cycle, some l, true⟩ ∧
      s.muSlice c q.slice [p, q] = ((s.modArb c f).muConflict c q.slice g 1 low true 0).muGrant c q.slice w := by
  obtain ⟨sh, pt, hmark, hfirst⟩ := muSlice_first (slice := q.slice) hsh (apart_pair hne hpu hqu) (by simp [hslice])
  have hserve : ∃ w ∈ [p, q], ∃ k low, s.muSlice c q.slice [p, q] = ((s.modArb c fun a => MuArb.granted { a with shown := sh, ptr := pt } k
      (s.bay (bayOf c)).cycle w).muConflict c q.slice w.port 1 low true 0).muGrant c q.slice w := by
    rw [hfirst]
    rcases presented_pair hne hp8 hq8 with hpq | hqp
    · obtain ⟨w, hw, k, low, h⟩ := muServe_conflict (s := s.modArb c fun a => { a with shown := sh, ptr := pt }) (c := c) (slice := q.slice) hp hq hps hqs hp8 hq8
      exact ⟨w, hw, k, low, by rw [hpq, h, modArb_modArb]; rfl⟩
    · obtain ⟨w, hw, k, low, h⟩ := muServe_conflict (s := s.modArb c fun a => { a with shown := sh, ptr := pt }) (c := c) (slice := q.slice) hq hp hqs hps hq8 hp8
      exact ⟨w, by simpa [or_comm] using hw, k, low, by rw [hqp, h, modArb_modArb]; rfl⟩
  obtain ⟨w, hw, k, low, h⟩ := hserve
  have hshown (l : MuReq) (hl : l ∈ (List.range 8).filterMap (askedAt [p, q])) (hport : w.port ≠ l.port) :
      Assoc.find? (MuArb.granted { (s.mu c).arb with shown := sh, ptr := pt } k (s.bay (bayOf c)).cycle w).shown l.port =
        some ⟨(s.bay (bayOf c)).cycle, some l, true⟩ := by
    rw [MuArb.granted, Assoc.find?_set, if_neg hport]
    exact hmark l hl
  have hmem : p ∈ (List.range 8).filterMap (askedAt [p, q]) ∧ q ∈ (List.range 8).filterMap (askedAt [p, q]) := by
    rcases presented_pair hne hp8 hq8 with e | e <;> simp [e]
  rcases List.mem_pair.1 hw with rfl | rfl
  · exact ⟨w, q, _, _, low, Or.inr rfl, hshown q hmem.2 hne, h⟩
  · exact ⟨w, p, _, _, low, Or.inl rfl, hshown p hmem.1 (Ne.symm hne), h⟩

/-- Two scheduled accesses that meet at a slice (R164): the loser is counted and stays presented. -/
theorem slice_conflict (t c slice z : Nat) (p q : MuReq) (s m : State) (hm : m = s.bayTime (bayOf c) t) (hz : z = (m.bay (bayOf c)).cycle)
    (hpw : (s.bay (bayOf c)).power = .active) (hsh : (s.mu c).arb.shown = []) (hpslice : p.slice = slice) (hqslice : q.slice = slice) (hpu : p.unit < 6)
    (hqu : q.unit < 6) (hp8 : p.port < 8) (hq8 : q.port < 8) (hne : p.port ≠ q.port) (hp6 : p.port ≠ 6) (hq6 : q.port ≠ 6) (hpd : p.dma = false)
    (hqd : q.dma = false) (hpc : p.count ≠ 1) (hqc : q.count ≠ 1) (hf : s.twin.frozen = []) : Completes (exec (.sliceArbitration t c slice [p, q]) s) fun r =>
      r.reg (.mu c .conflict) = satReg (s.reg (.mu c .conflict)) 1 ∧
      (∃ l, (l = p ∨ l = q) ∧ Assoc.find? (r.mu c).arb.shown l.port = some ⟨z, some l, true⟩) ∧
      (∃ e ∈ r.evt.inflight, e.source = bayOf c ∧ e.kind = 0x22 ∧ e.w1 = locMu c % 2 ^ 32) ∧ MusAlone [c] s r := by
  subst hqslice hm hz
  obtain ⟨w, l, f, g, low, hl, hshown, hslice⟩ := muSlice_conflict (s := s.bayTime (bayOf c) t) (c := c) (p := p) (q := q) (by rw [bayTime_mu, hsh]) hpslice
    hpu hqu hp8 hq8 hne (by simp [reqScheduled, hp6, hpd]) (by simp [reqScheduled, hq6, hqd]) (by simp [reqNarrow, hpc]) (by simp [reqNarrow, hqc])
  have hexec := exec_sliceArbitration (t := t) (slice := q.slice) (reqs := [p, q]) hpw
  have htwin : (((s.bayTime (bayOf c) t).modArb c f).muConflict c q.slice g 1 low true 0).twin = (s.bayTime (bayOf c) t).twin := by
    rw [muConflict_twin, modArb_twin]
  have hwork := sliceWork_muGrant (((s.bayTime (bayOf c) t).modArb c f).muConflict c q.slice g 1 low true 0) c q.slice w (by rw [htwin, bayTime_twin, hf])
  rw [← hslice] at hwork
  rw [muHold_of_twin_eq c ((hwork.twin (by rw [htwin, bayTime_twin, hf])).trans htwin)] at hexec
  refine ⟨_, hexec, ?_, ⟨l, hl, ?_⟩, ?_, fun d hd => ?_⟩
  · rw [hwork.conflicts, muConflict_reg, modArb_reg, bayTime_reg s t (by simp [bayClockRegs])]
  · rw [hwork.shown, muConflict_mu, modArb_arb, hshown]
  · obtain ⟨e, he, h⟩ := muConflict_event ((s.bayTime (bayOf c) t).modArb c f) c q.slice g 1 low true 0
    exact ⟨e, hwork.events e he, h⟩
  · rw [hwork.mus d hd, muConflict_mu, modArb_musAlone _ c f d hd, bayTime_mu]

/-- Settles O40, a clause for each way a cycle at a bank or a slice can go: an access alone, two that meet, one that has waited, one refused five times. -/
theorem arbitersGrant : Obligations.ArbitersGrant :=
  ⟨scratchpad_alone, fun t u p q s hpw hlt hq _ _ hbank => scratchpad_conflict t u p q s hpw hlt hq hbank, scratchpad_promotion, slice_alone, slice_conflict,
    narrow_starvation, dma_promotion⟩

end Sys2Proof.Machine

/-! PROOF. Family 01_wafer_organisation: round robin, and the event doorbell's arbiter (O49). -/

namespace Sys2Proof.Machine

/-! ### Who is granted (R27) -/

/-- The grant goes to the first that requests, counting upward from the pointer. -/
theorem rrPick_eq_some_iff {n p g : Nat} {req : Nat → Bool} :
    rrPick n p req = some g ↔ ∃ k, k < n ∧ g = (p + k) % n ∧ req g = true ∧ ∀ j, j < k → req ((p + j) % n) = false := by
  rw [rrPick, List.find?_map, Option.map_eq_some_iff]
  simp only [List.find?_range_eq_some, List.mem_range, Function.comp_apply, Bool.not_eq_true']
  constructor
  · rintro ⟨k, ⟨hr, hk, hno⟩, rfl⟩
    exact ⟨k, hk, rfl, hr, hno⟩
  · rintro ⟨k, hk, rfl, hr, hno⟩
    exact ⟨k, ⟨hr, hk, hno⟩, rfl⟩

theorem rrPick_eq_none_iff {n p : Nat} {req : Nat → Bool} : rrPick n p req = none ↔ ∀ i, i < n → req i = false := by
  constructor
  · intro h i hi
    exact Bool.eq_false_iff.2 (List.find?_eq_none.1 h i (mem_rrOrder p hi))
  · intro h
    cases hp : rrPick n p req with
    | none => rfl
    | some g =>
      obtain ⟨hg, hr⟩ := rrPick_eq_some hp
      rw [h g hg] at hr
      cases hr

/-! ### The doorbell takes a report -/

theorem sendMsix_evt (s : State) (v : Nat) : (s.sendMsix v).evt = s.evt := (kept_sendMsix (List.Subset.refl _) (Kept.refl _ s)).eq_evt (by decide)

/-- A record written leaves the reports on their way and the arbiter's pointer. -/
theorem putRecord_arbiter (s : State) (r : Report) (count : Nat) :
    (s.putRecord r count).evt.inflight = s.evt.inflight ∧ (s.putRecord r count).evt.ptr = s.evt.ptr := by
  unfold State.putRecord
  split
  · exact ⟨rfl, rfl⟩
  · dsimp only
    split
    · rw [sendMsix_evt]
      exact ⟨rfl, rfl⟩
    · exact ⟨rfl, rfl⟩

/-- What the doorbell does with a report it has taken leaves the others on their way and the arbiter's pointer (R328). -/
theorem takeReport_arbiter (s : State) (r : Report) :
    (s.takeReport r).evt.inflight = s.evt.inflight ∧ (s.takeReport r).evt.ptr = s.evt.ptr := by
  cases hc : s.claimOf r.source
  all_goals
    simp only [State.takeReport, hc]
    split
    · exact ⟨rfl, rfl⟩
    · split
      · split
        · exact putRecord_arbiter _ r 1
        · exact ⟨rfl, rfl⟩
      · exact ⟨rfl, rfl⟩

theorem length_dropReport {g : Nat} {l : List Report} (h : ∃ x ∈ l, x.source = g) : (dropReport g l).length + 1 = l.length := by
  induction l with
  | nil => obtain ⟨x, hx, -⟩ := h; cases hx
  | cons r rs ih =>
    by_cases hr : r.source = g
    · rw [dropReport, if_pos hr, List.length_cons]
    · obtain ⟨x, hx, hg⟩ := h
      have hrs : x ∈ rs := (List.mem_cons.1 hx).resolve_left fun e => hr (e ▸ hg)
      rw [dropReport, if_neg hr, List.length_cons, List.length_cons, ih ⟨x, hrs, hg⟩]

theorem filter_dropReport {g n : Nat} (l : List Report) (h : n ≠ g) :
    (dropReport g l).filter (fun x => x.source == n) = l.filter (fun x => x.source == n) := by
  induction l with
  | nil => rfl
  | cons r rs ih =>
    by_cases hr : r.source = g
    · have hn : (r.source == n) = false := by rw [hr]; simpa using Ne.symm h
      rw [dropReport, if_pos hr, List.filter_cons, hn]
      rfl
    · rw [dropReport, if_neg hr, List.filter_cons, List.filter_cons, ih]

/-- EVENT_REPORT after a grant to source `g` takes the first of its reports. -/
theorem eventReport_of_grant {s : State} {g : Nat} (hs : ∃ x ∈ s.evt.inflight, x.source = g)
    (hg : rrPick 4096 s.evt.ptr (fun n => s.evt.inflight.any fun r => r.source == n) = some g) :
    ∃ r, s.eventReport = (s.modEvt fun e => { e with inflight := dropReport g e.inflight, ptr := (g + 1) % 4096 }).takeReport r := by
  cases hf : s.evt.inflight.find? (fun r => r.source == g) with
  | none =>
    obtain ⟨x, hx, hxg⟩ := hs
    exact absurd (by simpa using hxg) (List.find?_eq_none.1 hf x hx)
  | some r =>
    refine ⟨r, ?_⟩
    unfold State.eventReport
    rw [hg]
    dsimp only
    rw [hf]

theorem eventReport_of_nobody {s : State} (h : s.evt.inflight = []) : s.eventReport = s := by
  have hno : rrPick 4096 s.evt.ptr (fun n => s.evt.inflight.any fun r => r.source == n) = none := rrPick_none _ fun n => by rw [h]; rfl
  unfold State.eventReport
  rw [hno]

/-- Settles O49: `rrPick_eq_some_iff` says who is granted, and taking a report (`takeReport_arbiter`) leaves the pointer where the grant put it. -/
theorem roundRobinGrants : Obligations.RoundRobinGrants := by
  refine ⟨fun n p req _ => ⟨fun g => rrPick_eq_some_iff, rrPick_eq_none_iff⟩, ?_, ?_⟩
  · intro t k g s _ hk hg hs hno
    have hevt : (s.masterTime t).evt = s.evt := masterTime_evt s t
    have hgrant : rrPick 4096 (s.masterTime t).evt.ptr (fun n => (s.masterTime t).evt.inflight.any fun r => r.source == n) = some g := by
      rw [hevt]
      refine rrPick_eq_some_iff.2 ⟨k, hk, hg, ?_, fun j hj => ?_⟩
      · simpa using hs
      · simpa using fun x hx => hno x hx j hj
    obtain ⟨r, hr⟩ := eventReport_of_grant (by rwa [hevt]) hgrant
    obtain ⟨hin, hptr⟩ := takeReport_arbiter ((s.masterTime t).modEvt fun e => { e with inflight := dropReport g e.inflight, ptr := (g + 1) % 4096 }) r
    rw [← hr] at hin hptr
    have hdrop : (s.masterTime t).eventReport.evt.inflight = dropReport g s.evt.inflight :=
      hin.trans (congrArg (fun e : Evt => dropReport g e.inflight) hevt)
    refine ⟨(s.masterTime t).eventReport, rfl, hptr, ?_, fun n hn => ?_, ?_⟩
    · rw [hdrop, length_dropReport hs]
    · rw [hdrop, filter_dropReport _ hn]
    · exact (kept_eventReport (by decide) (kept_masterTime (by decide) (Kept.refl _ s))).touches
  · intro t s h
    refine ⟨_, congrArg Host.Outcome.next (eventReport_of_nobody (by rw [masterTime_evt, h])), masterTime_evt s t, ?_⟩
    exact (kept_masterTime (by decide) (Kept.refl _ s)).touches

end Sys2Proof.Machine

/-! PROOF. Family 01_wafer_organisation: rules for what its statements share. A bay's clock, writes of the host's that arrive and that do not,
additions to core-class counters. -/

namespace Sys2Proof.Machine

/-! ### A bay's clock -/

theorem bayCycles_bay (s : State) (b d : Nat) : ∃ c n g, (s.bayCycles b d).bay b = { s.bay b with cycle := c, upCycles := n, gov := g } := by
  unfold State.bayCycles
  simp only [apply_ite (State.bay · b), tally_bay, setBay_bay, if_true, ite_self]
  split
  · exact ⟨_, _, _, rfl⟩
  · exact ⟨_, _, _, rfl⟩

/-- Of a bay, its clock moves the counts of cycles and the governor alone. -/
theorem bayTime_bay (s : State) (b t q : Nat) : ∃ c n g, (s.bayTime b t).bay q = { s.bay q with cycle := c, upCycles := n, gov := g } := by
  by_cases hq : q = b
  · exact hq ▸ bayCycles_bay s q _
  · exact ⟨_, _, _, by rw [bayTime_baysAlone s b t q (by simpa using hq)]⟩

@[simp] theorem bayTime_entries (s : State) (b t q : Nat) : ((s.bayTime b t).bay q).entries = (s.bay q).entries := by
  obtain ⟨c, n, g, h⟩ := bayTime_bay s b t q
  rw [h]

@[simp] theorem bayTime_vote (s : State) (b t q : Nat) : ((s.bayTime b t).bay q).vote = (s.bay q).vote := by
  obtain ⟨c, n, g, h⟩ := bayTime_bay s b t q
  rw [h]

@[simp] theorem bayTime_panel (s : State) (b t p : Nat) : (s.bayTime b t).panel p = s.panel p := (kept_atBayTime s b t).eq_panel (by decide) p
@[simp] theorem bayTime_bank (s : State) (b t : Nat) : (s.bayTime b t).bank = s.bank := congrArg Stitch.bank ((kept_atBayTime s b t).eq_stitch (by decide))

@[simp] theorem bayTime_unreached (s : State) (b t : Nat) (id : RegId) : (s.bayTime b t).unreached id = s.unreached id := by
  simp only [State.unreached, bayTime_power, bayTime_panel]

/-! ### Writes of the host's -/

theorem pathFault_host (s : State) (a cause : Nat) : s.pathFault .host a cause = s.raise 360 0x20 a (a / 2 ^ 32) 0xFFFFFFFF cause := rfl

theorem regWrite_of_unreached {s : State} {path : Path} {id : RegId} {a : Nat} (part : Part) (v : Reg) (h : s.unreached id = some a) :
    s.regWrite path id part v = s.pathFault path a 2 := by
  simp only [State.regWrite, h]

/-- R24: a write of the host's to a register that does not answer is an address fault; of bay `b` its clock alone moves. -/
theorem hostWrite_of_unreached {s r : State} {id : RegId} {a b t : Nat} {part : Part} {v : Reg} (h : s.unreached id = some a)
    (hr : r = (s.bayTime b t).regWrite .host id part v) :
    Raised s r 360 0x20 (a % 2 ^ 32) (a / 2 ^ 32 % 2 ^ 32) 0xFFFFFFFF 2 ∧ (∀ q, r.bay q = (s.bayTime b t).bay q) ∧ RegsAlone (bayClockRegs b) s r ∧
      Touches [.regs, .bays, .evt] s r := by
  rw [regWrite_of_unreached part v (by rwa [bayTime_unreached]), pathFault_host] at hr
  subst hr
  refine ⟨(raised_raise _ 360 0x20 a (a / 2 ^ 32) 0xFFFFFFFF 2).of_evt_eq (bayTime_evt s b t), fun q => raise_bay _ _ _ _ _ _ _ q, fun q hq => ?_, ?_⟩
  · rw [raise_reg, bayTime_regsAlone s b t q hq]
  · exact (kept_raise (by decide) (kept_bayTime (by decide) (Kept.refl _ s))).touches

theorem toNat_regOf (v : BitVec 32) : (regOf v.toNat).toNat = v.toNat := by
  rw [regOf, BitVec.toNat_ofNat, Nat.mod_eq_of_lt (by have := v.isLt; omega)]

/-- The host writes a 32-bit register that answers. -/
theorem hostWrite_word {s : State} {id : RegId} (v : BitVec 32) (h64 : isReg64 id = false) (hu : s.unreached id = none) (hm : s.mayWrite .host id = true) :
    s.regWrite .host id .whole (regOf v.toNat) = s.regApply id (regOf v.toNat) := by
  rw [regWrite_of_mayWrite _ _ hu hm, State.regParts, h64, toNat_regOf, Nat.mod_eq_of_lt v.isLt]
  rfl

/-! ### Additions to core-class counters (R106, R283, R284) -/

theorem overflowAfter_cu (s s1 : State) (u k v : Nat) : (s.overflowAfter s1 u k).cu v = s1.cu v :=
  (kept_overflowAfter (s := s) (List.Subset.refl _) (Kept.refl _ s1)).eq_cu (by decide) v

theorem forwardOut_cu (s : State) (u k n v : Nat) : (s.forwardOut u k n).cu v = s.cu v :=
  (kept_forwardOut (List.Subset.refl _) (Kept.refl _ s)).eq_cu (by decide) v

/-- Of the CUs, an addition changes the one that holds the counter. -/
theorem addSync_cu (s : State) (u k n v : Nat) : (s.addSync u k n).cu v =
    if u = v then { s.cu u with sync := (s.cu u).sync.change s.bank k (s.bay (bayOfCu u)).cycle n } else s.cu v := by
  rw [State.addSync, forwardOut_cu, State.changeSync, overflowAfter_cu, modCu_cu]

theorem addSync_cusAlone (s : State) (u k n : Nat) : CusAlone [u] s (s.addSync u k n) := fun v hv => by
  rw [addSync_cu, if_neg (fun e => hv (by simp [e]))]

theorem addOut_entries (s : State) (b ctx n : Nat) (vids : List Nat) (q : Nat) : ((s.addOut b ctx n vids).bay q).entries = (s.bay q).entries := by
  unfold State.addOut
  split
  · rw [modBay_bay]
    split
    · rename_i h
      rw [h]
    · rfl
  · rfl
  · rw [(kept_physBumps (List.Subset.refl _) (Kept.refl _ s)).eq_bay (by decide)]

theorem addSync_entries (s : State) (u k n q : Nat) : ((s.addSync u k n).bay q).entries = (s.bay q).entries := by
  have hchange : (s.changeSync u k n).bay q = s.bay q := (kept_changeSync (List.Subset.refl _) (Kept.refl _ s)).eq_bay (by decide) q
  rw [State.addSync, State.forwardOut]
  split
  · rw [hchange]
  · rw [addOut_entries, hchange]

theorem change_banks {y : Sync} {ctx k t old : Nat} {sum : Int} (n : Int) (h : (old, sum) = y.made ctx k t) :
    (y.change ctx k t n).banks = y.banks.set (syncKey ctx k) (min 0xFFFF (old + (sum + n)).toNat) := by
  simp only [Sync.change, ← h]

/-- R106: the counter that an addition leaves. -/
theorem addSync_banks {s : State} {u k old : Nat} {sum : Int} (n : Nat) (h : (old, sum) = (s.cu u).sync.made s.bank k (s.bay (bayOfCu u)).cycle) :
    Assoc.get 0 ((s.addSync u k n).cu u).sync.banks (syncKey s.bank k) = min 0xFFFF (old + (sum + n)).toNat := by
  rw [addSync_cu, if_pos rfl, change_banks _ h, Assoc.get_set, if_pos rfl]

end Sys2Proof.Machine

/-! PROOF. Family 01_wafer_organisation: launch entries (O46). -/

namespace Sys2Proof.Machine

/-! ### Action words -/

/-- R278: the kind stands in the two highest bits of an action word. -/
theorem field_actionKind (a : BitVec 32) : field a.toNat 31 30 = a.toNat / 2 ^ 30 := by
  have hlt := a.isLt
  rw [field, Nat.shiftRight_eq_div_pow, Nat.mod_eq_of_lt (by omega)]

theorem exec_launchEntryArm {t b e : Nat} {a : BitVec 32} {s : State} (he : e < 8) (ha : a.toNat / 2 ^ 30 ≠ 0) :
    exec (.launchEntryArm t b e a) s = .next ((s.bayTime b t).regWrite .host (.launchAction b e) .whole (regOf a.toNat)) := by
  rw [← field_actionKind] at ha
  exact congrArg Host.Outcome.next (if_pos ⟨he, ha⟩)

theorem exec_launchEntryDisarm {t b e : Nat} {a : BitVec 32} {s : State} (he : e < 8) (ha : a.toNat / 2 ^ 30 = 0) :
    exec (.launchEntryDisarm t b e a) s = .next ((s.bayTime b t).regWrite .host (.launchAction b e) .whole (regOf a.toNat)) := by
  rw [← field_actionKind] at ha
  exact congrArg Host.Outcome.next (if_pos ⟨he, ha⟩)

/-- A write of an action word in the window of an active bay, at its cycle. -/
theorem hostWrite_launchAction {t b e : Nat} {a : BitVec 32} {s : State} (hp : (s.bay b).power = .active) :
    (s.bayTime b t).regWrite .host (.launchAction b e) .whole (regOf a.toNat) = (s.bayTime b t).launchWrite b e a.toNat := by
  have hu : (s.bayTime b t).unreached (.launchAction b e) = none := by
    rw [bayTime_unreached]
    exact if_pos hp
  rw [hostWrite_word a rfl hu rfl]
  exact congrArg (State.launchWrite _ b e) (toNat_regOf a)

/-- The entry that an action word `v` leaves in the place of entry `e`. -/
def State.entryWritten (s : State) (b e v : Nat) : LaunchEntry :=
  if field v 31 30 = 0 then { (s.bay b).entry e with armed := false, again := none, state := 0 }
  else
    { target := s.regN (.launchTarget b e), armed := true, armedAt := (s.bay b).cycle + 1, late := decide (s.regN (.launchTarget b e) ≤ s.bayTs b)
      state := 1, again := none, firedAt := none }

theorem launchWrite_entries (s : State) (b e v : Nat) :
    ((s.launchWrite b e v).bay b).entries = Assoc.set (s.bay b).entries e (s.entryWritten b e v) := by
  rw [State.launchWrite, setBay_bay, if_pos rfl]
  rfl

/-- What the write of an action word changes beside its entry: the word, and the bay's clock. -/
theorem launchWrite_frame {s r : State} {t b e : Nat} {a : BitVec 32} (hr : r = (s.bayTime b t).launchWrite b e a.toNat) :
    r.reg (.launchAction b e) = regOf a.toNat ∧ BaysAlone [b] s r ∧ RegsAlone (.launchAction b e :: bayClockRegs b) s r ∧ Touches [.regs, .bays] s r := by
  have hkept : Kept [.regs, .bays] s ((s.bayTime b t).launchWrite b e a.toNat) := kept_launchWrite (by decide) (kept_bayTime (by decide) (Kept.refl _ s))
  subst hr
  refine ⟨?_, fun q hq => ?_, fun id hid => ?_, hkept.touches⟩
  · rw [State.launchWrite, setBay_reg, setReg_reg, if_pos rfl, Nat.mod_eq_of_lt a.isLt]
  · rw [State.launchWrite, setBay_bay, if_neg (fun h => hq (by simp [h])), setReg_bay, bayTime_baysAlone s b t q hq]
  · obtain ⟨hne, hclock⟩ := not_or.1 (fun h => hid (List.mem_cons.2 h))
    rw [State.launchWrite, setBay_reg, setReg_reg, if_neg (Ne.symm hne), bayTime_regsAlone s b t id hclock]

/-! ### An entry fires -/

/-- An entry that fires in time: it is no longer armed, but for the replay when the stitch has voided (R279). -/
def LaunchEntry.fire (x : LaunchEntry) (again : Option Nat) (cycle : Nat) : LaunchEntry :=
  { x with armed := false, again := again, late := false, state := 2, firedAt := some cycle }

/-- The bay's entries once entry `e` has fired. -/
def State.entryFired (s : State) (b e : Nat) : State :=
  s.modBay b fun y => { y with entries := y.entries.set e ((y.entry e).fire (if s.launchVoid b then some (s.replayOf b) else none) y.cycle) }

/-- R279: the first entry that is due fires, and does what its action word says unless its stitch has voided; the event comes all the same. -/
theorem launchFire_of_due {s : State} {b e : Nat} (hdue : s.launchDue b e = true) (hfirst : ∀ i, i < e → s.launchDue b i = false)
    (hlate : ((s.bay b).entry e).late = false) (hact : s.launchVoid b = false ∨ field (s.regN (.launchAction b e)) 31 30 = 3) :
    s.launchFire b e = (s.entryFired b e).launchAct b e (s.regN (.launchAction b e)) ((s.bay b).entry e).target := by
  have hnone : (List.range e).any (fun i => s.launchDue b i) = false := by
    simpa using hfirst
  have hvoid : (s.launchVoid b && field (s.regN (.launchAction b e)) 31 30 != 3) = false := by
    rcases hact with h | h
    · rw [h, Bool.false_and]
    · rw [h, bne_self_eq_false, Bool.and_false]
  simp only [State.launchFire, hdue, hnone, hlate, hvoid, Bool.not_false, Bool.and_true, if_true, Bool.false_eq_true, if_false]
  rfl

theorem entryFired_entry (s : State) (b e : Nat) :
    (Assoc.get LaunchEntry.reset ((s.entryFired b e).bay b).entries e).armed = false ∧
      (Assoc.get LaunchEntry.reset ((s.entryFired b e).bay b).entries e).state = 2 := by
  rw [State.entryFired, modBay_bay, if_pos rfl, Assoc.get_set, if_pos rfl]
  exact ⟨rfl, rfl⟩

theorem entryFired_cycle (s : State) (b e q : Nat) : ((s.entryFired b e).bay q).cycle = (s.bay q).cycle := by
  rw [State.entryFired, modBay_bay]
  split
  · rename_i h
    rw [h]
  · rfl

theorem kept_entryFired {l : List Comp} {a s : State} {b e : Nat} (hl : [.bays] ⊆ l) (h : Kept l a s) : Kept l a (s.entryFired b e) := kept_modBay hl h

/-- An action word of kind 1 adds to a core-class counter. -/
theorem launchAct_add {s : State} {b e v tgt : Nat} (hk : v / 2 ^ 30 % 4 = 1) (hy : v / 2 ^ 19 % 2 ^ 6 < 36) :
    s.launchAct b e v tgt =
      s.addSync (4 * clusterIn b (v / 2 ^ 25 % 2 ^ 5) (v / 2 ^ 19 % 2 ^ 6) + v / 2 ^ 17 % 4) (v / 2 ^ 12 % 2 ^ 5) (v % 2 ^ 12) := by
  have hkind : field v 31 30 = 1 := by rw [field, Nat.shiftRight_eq_div_pow]; exact hk
  have hy' : ¬ 36 ≤ field v 24 19 := by rw [field, Nat.shiftRight_eq_div_pow]; omega
  simp only [State.launchAct, hkind, hy', if_false]
  simp only [field, Nat.shiftRight_eq_div_pow]
  norm_num

/-- One of kind 3 raises the event of its entry. -/
theorem launchAct_event {s : State} {b e v tgt : Nat} (hk : v / 2 ^ 30 % 4 = 3) : s.launchAct b e v tgt = s.raiseBay b 8 e tgt (tgt / 2 ^ 32) 0 := by
  have hkind : field v 31 30 = 3 := by rw [field, Nat.shiftRight_eq_div_pow]; exact hk
  simp only [State.launchAct, hkind]

/-! ### The statement's clauses -/

section

variable {t b e : Nat} {s : State}

theorem launch_armed {a : BitVec 32} (hp : (s.bay b).power = .active) (he : e < 8) (ha : a.toNat / 2 ^ 30 ≠ 0) :
    Completes (exec (.launchEntryArm t b e a) s) fun r =>
      (r.bay b).entries = Assoc.set (s.bay b).entries e
        { target := s.regN (.launchTarget b e), armed := true, armedAt := ((s.bayTime b t).bay b).cycle + 1
          late := decide (s.regN (.launchTarget b e) ≤ (s.bayTime b t).bayTs b), state := 1, again := none, firedAt := none } ∧
      r.reg (.launchAction b e) = regOf a.toNat ∧ BaysAlone [b] s r ∧ RegsAlone (.launchAction b e :: bayClockRegs b) s r ∧ Touches [.regs, .bays] s r := by
  refine ⟨_, (exec_launchEntryArm he ha).trans (congrArg _ (hostWrite_launchAction hp)), ?_, launchWrite_frame rfl⟩
  have htarget : (s.bayTime b t).regN (.launchTarget b e) = s.regN (.launchTarget b e) := congrArg BitVec.toNat (bayTime_reg s t (by simp [bayClockRegs]))
  rw [launchWrite_entries, bayTime_entries, State.entryWritten, if_neg (by rwa [field_actionKind]), htarget]

theorem launch_disarmed {a : BitVec 32} (hp : (s.bay b).power = .active) (he : e < 8) (ha : a.toNat / 2 ^ 30 = 0) :
    Completes (exec (.launchEntryDisarm t b e a) s) fun r =>
      (Assoc.get LaunchEntry.reset (r.bay b).entries e).armed = false ∧ (Assoc.get LaunchEntry.reset (r.bay b).entries e).state = 0 ∧
      (∀ k, k ≠ e → Assoc.get LaunchEntry.reset (r.bay b).entries k = Assoc.get LaunchEntry.reset (s.bay b).entries k) ∧
      r.reg (.launchAction b e) = regOf a.toNat ∧ BaysAlone [b] s r ∧ RegsAlone (.launchAction b e :: bayClockRegs b) s r ∧ Touches [.regs, .bays] s r := by
  have hwritten : (s.bayTime b t).entryWritten b e a.toNat = { (s.bayTime b t).bay b |>.entry e with armed := false, again := none, state := 0 } :=
    if_pos (by rwa [field_actionKind])
  have hentry (k : Nat) : Assoc.get LaunchEntry.reset (((s.bayTime b t).launchWrite b e a.toNat).bay b).entries k =
      if e = k then { (s.bayTime b t).bay b |>.entry e with armed := false, again := none, state := 0 } else Assoc.get LaunchEntry.reset (s.bay b).entries k := by
    rw [launchWrite_entries, Assoc.get_set, bayTime_entries, hwritten]
  refine ⟨_, (exec_launchEntryDisarm he ha).trans (congrArg _ (hostWrite_launchAction hp)), ?_, ?_, fun k hk => ?_, launchWrite_frame rfl⟩
  · rw [hentry, if_pos rfl]
  · rw [hentry, if_pos rfl]
  · rw [hentry, if_neg (Ne.symm hk)]

theorem regN_launchAction_bayTime : (s.bayTime b t).regN (.launchAction b e) = s.regN (.launchAction b e) :=
  congrArg BitVec.toNat (bayTime_reg s t (by simp [bayClockRegs]))

theorem launch_adds {u k old : Nat} {sum : Int} {a : Nat} (ha : a = s.regN (.launchAction b e)) (hdue : (s.bayTime b t).launchDue b e = true)
    (hfirst : ∀ i, i < e → (s.bayTime b t).launchDue b i = false) (hlate : (Assoc.get LaunchEntry.reset (s.bay b).entries e).late = false)
    (hvoid : (s.bayTime b t).launchVoid b = false) (hk : a / 2 ^ 30 % 4 = 1) (hy : a / 2 ^ 19 % 2 ^ 6 < 36)
    (hu : u = 4 * clusterIn b (a / 2 ^ 25 % 2 ^ 5) (a / 2 ^ 19 % 2 ^ 6) + a / 2 ^ 17 % 4) (hc : k = a / 2 ^ 12 % 2 ^ 5)
    (hmade : (old, sum) = (s.cu u).sync.made s.bank k ((s.bayTime b t).bay (bayOfCu u)).cycle) : Completes (exec (.launchEntryFire t b e) s) fun r =>
      Assoc.get 0 (r.cu u).sync.banks (syncKey s.bank k) = min 0xFFFF (old + (sum + (a % 2 ^ 12 : Nat))).toNat ∧
      (Assoc.get LaunchEntry.reset (r.bay b).entries e).armed = false ∧ (Assoc.get LaunchEntry.reset (r.bay b).entries e).state = 2 ∧ CusAlone [u] s r := by
  have hfire := launchFire_of_due hdue hfirst (by rwa [Bay.entry, bayTime_entries]) (.inl hvoid)
  rw [regN_launchAction_bayTime, ← ha, launchAct_add hk hy, ← hu, ← hc] at hfire
  have hkept : Kept [.regs, .bays] s ((s.bayTime b t).entryFired b e) := kept_entryFired (by decide) (kept_atBayTime s b t)
  have hbank : ((s.bayTime b t).entryFired b e).bank = s.bank := congrArg Stitch.bank (hkept.eq_stitch (by decide))
  refine ⟨_, congrArg Host.Outcome.next hfire, ?_, ?_, ?_, fun v hv => ?_⟩
  · rw [← hbank] at hmade ⊢
    exact addSync_banks _ (by rw [entryFired_cycle, hkept.eq_cu (by decide)]; exact hmade)
  · rw [addSync_entries]
    exact (entryFired_entry _ b e).1
  · rw [addSync_entries]
    exact (entryFired_entry _ b e).2
  · rw [addSync_cusAlone _ u k _ v hv, hkept.eq_cu (by decide)]

theorem launch_raises {a : Nat} (ha : a = s.regN (.launchAction b e)) (hdue : (s.bayTime b t).launchDue b e = true)
    (hfirst : ∀ i, i < e → (s.bayTime b t).launchDue b i = false) (hlate : (Assoc.get LaunchEntry.reset (s.bay b).entries e).late = false)
    (hk : a / 2 ^ 30 % 4 = 3) (he : e < 8) : Completes (exec (.launchEntryFire t b e) s) fun r =>
      Raised s r b 8 e ((Assoc.get LaunchEntry.reset (s.bay b).entries e).target % 2 ^ 32)
        ((Assoc.get LaunchEntry.reset (s.bay b).entries e).target / 2 ^ 32 % 2 ^ 32) 0 ∧
      (Assoc.get LaunchEntry.reset (r.bay b).entries e).armed = false ∧ (Assoc.get LaunchEntry.reset (r.bay b).entries e).state = 2 ∧ BaysAlone [b] s r ∧
      RegsAlone (bayClockRegs b) s r ∧ Touches [.regs, .bays, .evt] s r := by
  have hkind : field ((s.bayTime b t).regN (.launchAction b e)) 31 30 = 3 := by
    rw [regN_launchAction_bayTime, ← ha, field, Nat.shiftRight_eq_div_pow]
    exact hk
  have hfire := launchFire_of_due hdue hfirst (by rwa [Bay.entry, bayTime_entries]) (.inr hkind)
  rw [regN_launchAction_bayTime, ← ha, launchAct_event hk, Bay.entry, bayTime_entries] at hfire
  refine ⟨_, congrArg Host.Outcome.next hfire, ?_, ?_, ?_, fun q hq => ?_, fun id hid => ?_, ?_⟩
  · have hr := raised_raiseBay ((s.bayTime b t).entryFired b e) b 8 e (Assoc.get LaunchEntry.reset (s.bay b).entries e).target
      ((Assoc.get LaunchEntry.reset (s.bay b).entries e).target / 2 ^ 32) 0
    rw [Nat.mod_eq_of_lt (show e < 2 ^ 32 by omega)] at hr
    exact hr.of_evt_eq (bayTime_evt s b t)
  · rw [raiseBay_bay]
    exact (entryFired_entry _ b e).1
  · rw [raiseBay_bay]
    exact (entryFired_entry _ b e).2
  · rw [raiseBay_bay, State.entryFired, modBay_bay, if_neg (fun h => hq (by simp [h])), bayTime_baysAlone s b t q hq]
  · rw [raiseBay_reg, State.entryFired, modBay_reg, bayTime_regsAlone s b t id hid]
  · exact (kept_raiseBay (by decide) (kept_entryFired (by decide) (kept_bayTime (by decide) (Kept.refl _ s)))).touches

end

/-- Settles O46: a write that does not arrive (`hostWrite_of_unreached`), one that arrives, and an entry that fires, kind by kind. -/
theorem launchEntriesFire : Obligations.LaunchEntriesFire := by
  refine ⟨fun t b e w a s hu he => ⟨fun ha => ?_, fun ha => ?_⟩, fun t b e s m hm hp => ?_⟩
  · obtain ⟨hraised, hbay, hregs, htouches⟩ := hostWrite_of_unreached (b := b) (t := t) (part := .whole) (v := regOf a.toNat) hu rfl
    exact ⟨_, exec_launchEntryArm he ha, hraised, by rw [hbay, bayTime_entries], hregs, htouches⟩
  · obtain ⟨hraised, hbay, hregs, htouches⟩ := hostWrite_of_unreached (b := b) (t := t) (part := .whole) (v := regOf a.toNat) hu rfl
    exact ⟨_, exec_launchEntryDisarm he ha, hraised, by rw [hbay, bayTime_entries], hregs, htouches⟩
  · subst hm
    refine ⟨fun a x he ha hx => hx ▸ launch_armed hp he ha, fun a he ha => launch_disarmed hp he ha, fun x a ha hx hdue hfirst hlate => ?_⟩
    subst hx
    exact ⟨fun u k old sum hvoid hk hy hu hc hmade => launch_adds ha hdue hfirst hlate hvoid hk hy hu hc hmade,
      fun hk he => launch_raises ha hdue hfirst hlate hk he⟩

end Sys2Proof.Machine

/-! PROOF. Family 01_wafer_organisation: the start of a stitch (O15, which fails). -/

namespace Sys2Proof.Machine

/-- An image of bay 0 alone that loads one byte to the first word of its first slice. -/
def loadingImage : Image :=
  { manifest := manifestOf 2 0 0 0 [], maxMajor := 1, minMajor := 1, caps := 0, bays := [0], required := [0], period := 10000, numdef := 0, grades := [(0, 5)],
    panelFrac := [], bayFrac := [], reloadNs := 10000, powerW := 9000, minCapacity := 0, pcieWidth := 0, pcieRate := 0, sites := [],
    partition := 0, peerFeed := 0, pages := [], importPages := [], queueCtl := 0, qps := [], hostIds := [], binds := [], lanes := [],
    regWords := [], loads := [(devAddr 0 0, [1])], footprint := [], traffic := [], weights := [] }

/-- A work stitch in which bay 0 has yet to start and holds no image (`State.outOfDate`), so that cycle 0 brings it the active one. The word that the
image loads lies in a versioned window, the open checkpoint has frozen it, and two of its symbols are bad. -/
def lateLoad : State := { State.reset with
  stitch := { Stitch.reset with session := true, kind := .work, begun := true, number := 1, len := 10000, period := 10000 }
  ctxs := [(0, ⟨loadingImage, 1, false, false, [], 1, false⟩)]
  bays := [(0, { Bay.reset with power := .active, bist := true, modes := { BayModes.reset with grade := 5 } })]
  regs := [(.vwin 0 0, 0x80000400)]
  errs := [(devAddr 0 0 / 16, [(0, 1), (1, 1)])]
  twin := { Twin.reset with frozen := [devAddr 0 0] } }

/-- The load captures the frozen word first (R357), its read finds it uncorrectable (R401), and the bay that has just begun votes void with cause 2. -/
theorem stitchStart_lateLoad_cause : ((((lateLoad.bayTime 0 0).masterTime 0).stitchStart 0).bay 0).vote.cause = 2 := by decide

/-- Refutes O15: the vote of a bay that takes its image late does not hold a late void alone. The load at cycle 0 of `lateLoad` reads a word with two bad
symbols and voids the stitch, although no void was late. -/
theorem not_stitchStarts : ¬ Obligations.StitchStarts := by
  rintro ⟨-, -, hwork⟩
  obtain ⟨r, hr, -, -, -, -, hcause, -⟩ := hwork 0 0 0 5 lateLoad rfl rfl rfl rfl rfl rfl rfl (by decide)
  have hexec : exec (.stitchStart 0 0 0) lateLoad = .next (((lateLoad.bayTime 0 0).masterTime 0).stitchStart 0) := rfl
  obtain rfl : ((lateLoad.bayTime 0 0).masterTime 0).stitchStart 0 = r := Host.Outcome.next.inj (hexec.symm.trans hr)
  rw [stitchStart_lateLoad_cause] at hcause
  exact absurd hcause (by decide)

end Sys2Proof.Machine

/-! PROOF. Family 01_wafer_organisation: the vector pipeline, the DMA engine, seeds and telemetry rings (O39). -/

namespace Sys2Proof.Machine

/-! ### Flags -/

theorem stick_reg {id : RegId} (s : State) {u : Nat} (vec : Bool) (f : FlagSet) (h : id ≠ .cu u .flags) : (s.stick u vec f).reg id = s.reg id := by
  unfold State.stick
  split
  · rfl
  · rw [hwSet_reg, if_neg (Ne.symm h)]

@[simp] theorem stick_cu (s : State) (u : Nat) (vec : Bool) (f : FlagSet) (v : Nat) : (s.stick u vec f).cu v = s.cu v :=
  (kept_stick (List.Subset.refl _) (Kept.refl _ s)).eq_cu (by decide) v

/-! ### The vector pipeline issues a group (R100) -/

theorem exec_vectorIssue {t u : Nat} {s : State} (hr : (s.bayTime (bayOfCu u) t).engineRuns u = true)
    (h2 : (s.bayTime (bayOfCu u) t).portHeld (u / 4) (u % 4) 2 = false) (h3 : (s.bayTime (bayOfCu u) t).portHeld (u / 4) (u % 4) 3 = false) :
    exec (.vectorIssue t u) s = .next ((s.bayTime (bayOfCu u) t).vectorIssue u) :=
  congrArg Host.Outcome.next (if_pos (by rw [hr, h2, h3]; rfl))

/-- The running pass issues its next group unless one waits in the pack stage. -/
theorem vectorIssue_of_run {s : State} {u : Nat} {y : VecRun} (hrun : (s.cu u).vec.run = some y)
    (hdue : ∀ g ∈ (s.cu u).vec.groups, (s.bay (bayOfCu u)).cycle < g.due) : s.vectorIssue u = s.vecGroup u y := by
  have hany : (s.cu u).vec.groups.any (fun g => decide (g.due ≤ (s.bay (bayOfCu u)).cycle)) = false := by simpa using hdue
  simp only [State.vectorIssue, hany, hrun, Bool.false_eq_true, if_false]

theorem vecFlits_of_notLink {s : State} {u : Nat} {y : VecRun} (need : Nat) (hx : isLinkSrc y.job.x.source = false) (hy : y.job.usesY = false) :
    s.vecFlits u y need = some ((y.xbuf, y.ybuf), s) := by
  simp [State.vecFlits, State.vecFlit, hx, hy]

theorem length_vecInput (s : State) (u : Nat) (d : Desc) (buf : Loading) (first n : Nat) : (s.vecInput u d buf first n).length = n := by
  unfold State.vecInput
  split
  · simp
  · split
    · simp
    · split
      · simp
      · simp

theorem length_convInputs (f : Fmt) (mode : Nat) (conv : Bool) (l : BitVec 16) (xs : List Num) : (convInputs f mode conv l xs).1.length = xs.length := by
  induction xs generalizing l with
  | nil => rfl
  | cons v rest ih =>
    unfold convInputs
    split
    · exact congrArg (· + 1) (ih _)
    · exact congrArg (· + 1) (ih _)

theorem length_of_convInputs {f : Fmt} {mode : Nat} {conv : Bool} {l l' : BitVec 16} {xs vs : List Num} {g : FlagSet}
    (h : convInputs f mode conv l xs = (vs, g, l')) : vs.length = xs.length := by
  rw [← length_convInputs f mode conv l xs, h]

/-- The group that a pass issues next: which elements it takes, and when it leaves. -/
structure NextGroup (s : State) (u : Nat) (y : VecRun) (n : Nat) (g : VecGroup) : Prop where
  job : g.job = y.job
  first : g.first = y.pos
  due : g.due = (s.bay (bayOfCu u)).cycle + 14
  length : g.vals.length = n
  final : g.final = decide (y.job.elements ≤ y.pos + n)

/-- The vector pipeline once the pass `y` has issued the group `g` of `n` elements. -/
def Vec.issued (v : Vec) (y : VecRun) (n : Nat) (g : VecGroup) (l : BitVec 16) : Vec :=
  { v with lfsr := l, groups := v.groups ++ [g], run := if y.job.elements ≤ y.pos + n then none else some { y with pos := y.pos + n } }

/-- R100: a pass whose one input is no link issues its next group; the reads of its operand touch no CU. -/
theorem vecGroup_of_notLink {s : State} {u n : Nat} {y : VecRun} (hx : isLinkSrc y.job.x.source = false) (hy : y.job.usesY = false)
    (hn : n = min y.job.lanes (y.job.elements - y.pos)) :
    ∃ (s1 : State) (g : VecGroup) (l : BitVec 16) (f f' : FlagSet), (∀ v, s1.cu v = s.cu v) ∧ NextGroup s u y n g ∧
      s.vecGroup u y = ((s1.modVec u fun v => v.issued y n g l).stick u false f).stick u true f' := by
  rcases hcx : convInputs (workFmt y.job.op.width) (s.roundMode (bayOfCu u) y.job.op.round) (inputConverts y.job.op.width y.job.x) (s.cu u).vec.lfsr
    ((s.vecInput u y.job.x y.xbuf y.pos n).map Prod.fst) with ⟨vx, gx, lx⟩
  rcases hcc : convInputs (workFmt y.job.op.width) (s.roundMode (bayOfCu u) y.job.op.round) false lx
    ((List.replicate n (y.c0, (0 : FlagSet))).map Prod.fst) with ⟨vc, gc, lc⟩
  unfold State.vecGroup
  simp only [vecFlits_of_notLink _ hx hy, hx, hy, Bool.false_and, Bool.or_false, Bool.false_eq_true, if_false, hcx, hcc, decide_eq_true_eq, ← hn]
  refine ⟨if y.pos = 0 ∧ y.job.x.source < 2 then s.touchOperand u 3 y.job.x else s, ⟨y.job, y.pos, _, (s.bay (bayOfCu u)).cycle + 14,
    decide (y.job.elements ≤ y.pos + n)⟩, lc, _, _, fun v => ?_,
    ⟨rfl, rfl, rfl, ?_, rfl⟩, rfl⟩
  · split
    · exact (kept_touchOperand (List.Subset.refl _) (Kept.refl _ s)).eq_cu (by decide) v
    · rfl
  · have hvx : vx.length = n := by simpa [length_vecInput] using length_of_convInputs hcx
    have hvc : vc.length = n := by simpa using length_of_convInputs hcc
    simp [hvx, hvc]

/-- A pass whose one input is no link issues 14 cycles ahead of its result. -/
theorem vector_issues {t u z n : Nat} {s : State} {y : VecRun} (hr : (s.bayTime (bayOfCu u) t).engineRuns u = true)
    (hz : z = ((s.bayTime (bayOfCu u) t).bay (bayOfCu u)).cycle) (hrun : (s.cu u).vec.run = some y) (hdue : ∀ g ∈ (s.cu u).vec.groups, z < g.due)
    (hx : isLinkSrc y.job.x.source = false) (hy : y.job.usesY = false) (h2 : (s.bayTime (bayOfCu u) t).portHeld (u / 4) (u % 4) 2 = false)
    (h3 : (s.bayTime (bayOfCu u) t).portHeld (u / 4) (u % 4) 3 = false) (hn : n = min y.job.lanes (y.job.elements - y.pos)) :
    Completes (exec (.vectorIssue t u) s) fun r =>
      (∃ g, (r.cu u).vec.groups = (s.cu u).vec.groups ++ [g] ∧ g.job = y.job ∧ g.first = y.pos ∧ g.due = z + 14 ∧ g.vals.length = n ∧
        g.final = decide (y.job.elements ≤ y.pos + n)) ∧
      (r.cu u).vec.run = (if y.job.elements ≤ y.pos + n then none else some { y with pos := y.pos + n }) ∧
      (r.cu u).seq = (s.cu u).seq ∧ (r.cu u).ste = (s.cu u).ste ∧ CusAlone [u] s r := by
  obtain ⟨s1, g, l, f, f', hcu, ⟨hjob, hfirst, hdue', hlen, hfinal⟩, hgroup⟩ := vecGroup_of_notLink (s := s.bayTime (bayOfCu u) t) (u := u) hx hy hn
  have hr' (v : Nat) : (((s.bayTime (bayOfCu u) t).vectorIssue u).cu v) = if u = v then { s.cu u with vec := (s.cu u).vec.issued y n g l } else s.cu v := by
    rw [vectorIssue_of_run (by rwa [bayTime_cu]) (by rwa [bayTime_cu, ← hz]), hgroup, stick_cu, stick_cu, State.modVec, modCu_cu, hcu, hcu, bayTime_cu, bayTime_cu]
  refine ⟨_, exec_vectorIssue hr h2 h3, ⟨g, ?_, hjob, hfirst, hz ▸ hdue', hlen, hfinal⟩, ?_, ?_, ?_, fun v hv => ?_⟩
  · rw [hr', if_pos rfl]
    rfl
  · rw [hr', if_pos rfl]
    rfl
  · rw [hr', if_pos rfl]
  · rw [hr', if_pos rfl]
  · rw [hr', if_neg (fun e => hv (by simp [e]))]

/-! ### A reduction writes its element (R102) -/

theorem exec_vectorResultWrite {t u : Nat} {s : State} (hr : (s.bayTime (bayOfCu u) t).engineRuns u = true)
    (h4 : (s.bayTime (bayOfCu u) t).portHeld (u / 4) (u % 4) 4 = false) :
    exec (.vectorResultWrite t u) s = .next ((s.bayTime (bayOfCu u) t).muHold (u / 4) ((s.bayTime (bayOfCu u) t).vectorResult u)) :=
  congrArg Host.Outcome.next (if_pos (by rw [hr, h4]; rfl))

/-- The vector pipeline once the only group of a reduce pass has left it, `a` being its value. -/
def Vec.reduced (v : Vec) (g : VecGroup) (rest : List VecGroup) (a : Option Num) : Vec :=
  { v with groups := rest, out := { VecOut.start with addr := g.job.d.base, acc := a } }

theorem modVec_modVec (s : State) (u : Nat) (f h : Vec → Vec) : (s.modVec u f).modVec u h = s.modVec u fun v => h (f v) := by
  simp only [State.modVec, State.modCu, setCu_cu, if_true]
  simp only [State.setCu, Assoc.set_set]

theorem modVec_vec (s : State) (u : Nat) (f : Vec → Vec) : ((s.modVec u f).cu u).vec = f (s.cu u).vec := by rw [State.modVec, modCu_cu, if_pos rfl]

/-- The only group of a reduce pass to a constant register. -/
theorem vectorResult_of_reduction {s : State} {u : Nat} {g : VecGroup} {rest : List VecGroup} (hg : (s.cu u).vec.groups = g :: rest)
    (hdue : g.due ≤ (s.bay (bayOfCu u)).cycle) (hout : (s.cu u).vec.outq = []) (hfirst : g.first = 0) (hfinal : g.final = true)
    (hpack : g.job.op.pack = 2 ∨ g.job.op.pack = 3) (hd : g.job.d.source = 8) : s.vectorResult u =
      ((s.modVec u fun v => v.reduced g rest (reduceVals g.job.op.pack none g.vals).1).stick u true (reduceVals g.job.op.pack none g.vals).2).setReg
        (.vconst u (g.job.d.base / 16 % 8)) (regOf (bitsOf fp32 ((reduceVals g.job.op.pack none g.vals).1.getD posZero))) := by
  simp only [State.vectorResult, hg, hout, hfirst, hpack, Nat.not_lt.2 hdue, ne_eq, not_true_eq_false, if_false, if_true,
    State.vecReduce, modVec_vec, hfinal, hd, modVec_modVec]
  rfl

theorem reduction_writes {t u z k : Nat} {s : State} {g : VecGroup} {rest : List VecGroup} (hr : (s.bayTime (bayOfCu u) t).engineRuns u = true)
    (hz : z = ((s.bayTime (bayOfCu u) t).bay (bayOfCu u)).cycle) (hg : (s.cu u).vec.groups = g :: rest) (hdue : g.due ≤ z) (hout : (s.cu u).vec.outq = [])
    (hfirst : g.first = 0) (hfinal : g.final = true) (hpack : g.job.op.pack = 2 ∨ g.job.op.pack = 3) (hd : g.job.d.source = 8) (hk : k = g.job.d.base / 16 % 8)
    (h4 : (s.bayTime (bayOfCu u) t).portHeld (u / 4) (u % 4) 4 = false) : Completes (exec (.vectorResultWrite t u) s) fun r =>
      (r.cu u).vec.groups = rest ∧ r.reg (.vconst u k) = regOf (bitsOf fp32 ((reduceVals g.job.op.pack none g.vals).1.getD posZero)) ∧
      (r.cu u).ste = (s.cu u).ste ∧ CusAlone [u] s r ∧ RegsAlone (.vconst u k :: .cu u .flags :: bayClockRegs (bayOfCu u)) s r ∧
      Touches [.regs, .bays, .cus] s r := by
  have hres := vectorResult_of_reduction (s := s.bayTime (bayOfCu u) t) (u := u) (by rwa [bayTime_cu]) (by rwa [← hz]) (by rwa [bayTime_cu]) hfirst hfinal hpack hd
  have hkept : Kept [.regs, .cus] (s.bayTime (bayOfCu u) t) ((s.bayTime (bayOfCu u) t).vectorResult u) := by
    rw [hres]
    exact kept_setReg (by decide) (kept_stick (by decide) (kept_modVec (by decide) (Kept.refl _ _)))
  have hexec := exec_vectorResultWrite hr h4
  rw [muHold_of_twin_eq _ (hkept.eq_twin (by decide)), hres, ← hk] at hexec
  refine ⟨_, hexec, ?_, ?_, ?_, fun v hv => ?_, fun id hid => ?_, ?_⟩
  · rw [setReg_cu, stick_cu, State.modVec, modCu_cu, if_pos rfl]
    rfl
  · rw [setReg_reg, if_pos rfl]
  · rw [setReg_cu, stick_cu, State.modVec, modCu_cu, if_pos rfl, bayTime_cu]
  · rw [setReg_cu, stick_cu, State.modVec, modCu_cu, if_neg (fun e => hv (by simp [e])), bayTime_cu]
  · simp only [List.mem_cons, not_or] at hid
    obtain ⟨hconst, hflags, hclock⟩ := hid
    rw [setReg_reg, if_neg (Ne.symm hconst), stick_reg _ _ _ hflags, State.modVec, modCu_reg, bayTime_regsAlone s _ t id (by simpa using hclock)]
  · exact (kept_setReg (by decide) (kept_stick (by decide) (kept_modVec (by decide) (kept_bayTime (by decide) (Kept.refl _ s))))).touches

/-! ### A transfer starts (R103, R104) -/

/-- The head of the DMA queue becomes the active transfer `y`. -/
def State.dmaActivate (s : State) (u : Nat) (rest : List Xfer) (y : Xfer) : State := s.modDma u fun d => { d with queue := rest, active := d.active ++ [y] }

theorem dmaActivate_dma (s : State) (u : Nat) (rest : List Xfer) (y : Xfer) :
    ((s.dmaActivate u rest y).cu u).dma = { (s.cu u).dma with queue := rest, active := (s.cu u).dma.active ++ [y] } := by
  rw [State.dmaActivate, State.modDma, modCu_cu, if_pos rfl]

theorem dmaActivate_mem (s : State) (u : Nat) (rest : List Xfer) (y : Xfer) : (s.dmaActivate u rest y).mem = s.mem := rfl

theorem kept_dmaActivate {l : List Comp} {a s : State} {u : Nat} {rest : List Xfer} {y : Xfer} (hl : [.cus] ⊆ l) (h : Kept l a s) :
    Kept l a (s.dmaActivate u rest y) := kept_modDma hl h

theorem laneFrame_dmaActivate (s : State) (u t : Nat) (rest : List Xfer) (y : Xfer) : LaneFrame u s ((s.bayTime (bayOfCu u) t).dmaActivate u rest y) := by
  refine ⟨fun v hv => ?_, fun q hq => ?_, fun id hid => ?_, ?_⟩
  · rw [State.dmaActivate, State.modDma, modCu_cu, if_neg (fun e => hv (by simp [e])), bayTime_cu]
  · rw [State.dmaActivate, State.modDma, modCu_bay, bayTime_baysAlone s _ t q hq]
  · rw [State.dmaActivate, State.modDma, modCu_reg, bayTime_regsAlone s _ t id hid]
  · exact (kept_dmaActivate (by decide) (kept_bayTime (by decide) (Kept.refl _ s))).touches

/-- DMA_TRANSFER_START, in a state that leaves the twin's capture queues. -/
theorem exec_dmaTransferStart {t u : Nat} {s r : State} (hr : (s.bayTime (bayOfCu u) t).engineRuns u = true)
    (h6 : (s.bayTime (bayOfCu u) t).portHeld (u / 4) (u % 4) 6 = false) (hstart : (s.bayTime (bayOfCu u) t).dmaStart u = r) (htwin : r.twin = s.twin) :
    exec (.dmaTransferStart t u) s = .next r := by
  have hhold : (s.bayTime (bayOfCu u) t).muHold (u / 4) r = r := muHold_of_twin_eq _ (htwin.trans (bayTime_twin s _ t).symm)
  have hexec : exec (.dmaTransferStart t u) s = .next ((s.bayTime (bayOfCu u) t).muHold (u / 4) ((s.bayTime (bayOfCu u) t).dmaStart u)) :=
    congrArg Host.Outcome.next (if_pos (by rw [hr, h6]; rfl))
  rw [hexec, hstart, hhold]

section

variable {s : State} {u : Nat} {x : Xfer} {rest : List Xfer}

theorem dmaStart_of_bad {a k : Nat} (hq : (s.cu u).dma.queue = x :: rest) (hact : (s.cu u).dma.active.length < 4)
    (hbad : s.piecesBad u (cutPlaces x.src x.dst x.units (x.units / 512 + 4)) = some (a, k)) :
    s.dmaStart u = (s.addrFault (bayOfCu u) a (locCu u) k (some (bayOfCu u))).dmaActivate u rest { x with err := true, moved := true } := by
  simp only [State.dmaStart, hq, Nat.not_le.2 hact, if_false, hbad]
  rfl

theorem dmaStart_of_good {ps : List (Nat × Nat × Nat)} (hq : (s.cu u).dma.queue = x :: rest) (hact : (s.cu u).dma.active.length < 4)
    (hps : ps = cutPlaces x.src x.dst x.units (x.units / 512 + 4)) (hgood : s.piecesBad u ps = none) :
    s.dmaStart u = (ps.foldl (fun s' p => s'.pieceMove u p) s).dmaActivate u rest
      { x with todo := ps.flatMap (s.pieceRequests u), moved := true, ready := (s.bay (bayOfCu u)).cycle + ceilDiv (s.localUnits u ps) 4 } := by
  subst hps
  simp only [State.dmaStart, hq, Nat.not_le.2 hact, if_false, hgood]
  rfl

end

/-- R5: a misaligned source is found with the first piece. -/
theorem piecesBad_of_misaligned (s : State) (u : Nat) {a b units : Nat} (ha : a % 16 ≠ 0) (hu : 0 < units) :
    s.piecesBad u (cutPlaces a b units (units / 512 + 4)) = some (a, 1) := by
  have hcut : cutPlaces a b units (units / 512 + 3 + 1) = (a, b, min units (min (1024 - a % 0x4000 / 16) (1024 - b % 0x4000 / 16))) :: _ :=
    if_neg (Nat.pos_iff_ne_zero.1 hu)
  have hside (n : Nat) : s.sideBad u a n = some 1 := if_pos ha
  rw [State.piecesBad, hcut, List.findSome?_cons]
  simp only [hside]

theorem addrFault_vote (s : State) (src addr who cause b : Nat) (h0 : (s.bay b).vote.cause = 0) (hf : (s.bay b).vote.frozen = false) :
    ((s.addrFault src addr who cause (some b)).bay b).vote.cause = 6 := by
  have hstep (s1 : State) (h : s1.bay b = s.bay b) : ((s1.voteVoid b 6).bay b).vote.cause = 6 := by
    rw [State.voteVoid, modBay_bay, if_pos rfl, h]
    simp [Vote.void, h0, hf]
  unfold State.addrFault
  dsimp only
  split
  · exact hstep _ (raiseBay_bay _ _ _ _ _ _ _ _)
  · exact hstep _ (raise_bay _ _ _ _ _ _ _ _)

theorem raised_addrFault (s : State) (src addr who cause : Nat) (lane : Option Nat) :
    Raised s (s.addrFault src addr who cause lane) src 0x20 (addr % 2 ^ 32) (addr / 2 ^ 32 % 2 ^ 32) (who % 2 ^ 32) (cause % 2 ^ 32) := by
  have hevent : Raised s (if src < 192 then s.raiseBay src 0x20 addr (addr / 2 ^ 32) who cause else s.raise src 0x20 addr (addr / 2 ^ 32) who cause)
      src 0x20 (addr % 2 ^ 32) (addr / 2 ^ 32 % 2 ^ 32) (who % 2 ^ 32) (cause % 2 ^ 32) := by
    split
    · exact raised_raiseBay _ _ _ _ _ _ _
    · exact raised_raise _ _ _ _ _ _ _
  cases lane with
  | none => exact hevent
  | some b => exact hevent

/-- A piece of which one side is not the CU's own moves no word at the start. -/
theorem foldl_pieceMove_of_remote {u : Nat} {ps : List (Nat × Nat × Nat)} (h : ∀ p ∈ ps, localPlace u p.1 = none ∨ localPlace u p.2.1 = none) (s : State) :
    ps.foldl (fun s' p => s'.pieceMove u p) s = s := by
  induction ps with
  | nil => rfl
  | cons p rest ih =>
    have hp : s.pieceMove u p = s := by
      unfold State.pieceMove
      rcases h p List.mem_cons_self with h1 | h2
      · simp [h1]
      · simp [h2]
    rw [List.foldl_cons, hp, ih fun q hq => h q (List.mem_cons_of_mem _ hq)]

/-- R104: a piece from elsewhere becomes read requests of its source. -/
theorem pieceRequests_of_remoteSource (s : State) {u : Nat} {p : Nat × Nat × Nat} (h : localPlace u p.1 = none) :
    (s.pieceRequests u p).map (fun q => (q.type, q.addr, q.len)) = (cut256 p.1 p.2.2 p.2.2).map fun e => (0, e.1, e.2) := by
  simp [State.pieceRequests, h, State.dmaPacket]

/-- One from the CU to elsewhere becomes write requests of its destination. -/
theorem pieceRequests_of_remoteDest (s : State) {u : Nat} {p : Nat × Nat × Nat} (h1 : (localPlace u p.1).isSome = true) (h2 : localPlace u p.2.1 = none) :
    (s.pieceRequests u p).map (fun q => (q.type, q.addr, q.len)) = (cut256 p.2.1 p.2.2 p.2.2).map fun e => (1, e.1, e.2) := by
  obtain ⟨w, hw⟩ := Option.isSome_iff_exists.1 h1
  simp [State.pieceRequests, hw, h2, State.dmaPacket]

/-! #### A transfer of one unit within the scratchpad -/

theorem cutPlaces_zero (a b n : Nat) : cutPlaces a b 0 n = [] := by
  cases n with
  | zero => rfl
  | succ n => exact if_pos rfl

theorem cutPlaces_one (a b n : Nat) : cutPlaces a b 1 (n + 1) = [(a, b, 1)] := by
  have hk : min 1 (min (1024 - a % 0x4000 / 16) (1024 - b % 0x4000 / 16)) = 1 := by omega
  rw [cutPlaces, if_neg Nat.one_ne_zero]
  simp only [hk, Nat.sub_self, cutPlaces_zero]

theorem piecesBad_single {s : State} {u : Nat} {a b n : Nat} (ha : s.sideBad u a n = none) (hb : s.sideBad u b n = none) :
    s.piecesBad u [(a, b, n)] = none := by
  simp [State.piecesBad, ha, hb]

/-- One word moves from the CU's scratchpad to another place there. -/
theorem pieceMove_scratchpad {s : State} {u a b sw dw : Nat} (ha : localPlace u a = some (0, sw)) (hb : localPlace u b = some (0, dw))
    (he : s.errs.get [] (spAddr u (16 * sw) / 16) = []) :
    s.pieceMove u (a, b, 1) = s.putWord (spAddr u (16 * dw)) (s.word (spAddr u (16 * sw))) := by
  have hread : s.readSource u 0 sw = (s.word (spAddr u (16 * sw)), s) := readSp_of_clean he
  simp only [State.pieceMove, ha, hb, State.moveLocal, hread]
  rfl

/-- It moves within a cycle, and no request is left. -/
theorem dmaStart_scratchpad {s : State} {u sw dw : Nat} {x : Xfer} {rest : List Xfer} (hq : (s.cu u).dma.queue = x :: rest) (hact : (s.cu u).dma.active.length < 4)
    (hu : x.units = 1) (hsrc : s.sideBad u x.src 1 = none) (hdst : s.sideBad u x.dst 1 = none) (ha : localPlace u x.src = some (0, sw))
    (hb : localPlace u x.dst = some (0, dw)) (he : s.errs.get [] (spAddr u (16 * sw) / 16) = []) :
    s.dmaStart u = (s.putWord (spAddr u (16 * dw)) (s.word (spAddr u (16 * sw)))).dmaActivate u rest
      { x with todo := [], moved := true, ready := (s.bay (bayOfCu u)).cycle + 1 } := by
  have hps : [(x.src, x.dst, 1)] = cutPlaces x.src x.dst x.units (x.units / 512 + 4) := by rw [hu, cutPlaces_one]
  have hreq : s.pieceRequests u (x.src, x.dst, 1) = [] := by simp [State.pieceRequests, ha, hb]
  have hlocal : s.localUnits u [(x.src, x.dst, 1)] = 1 := by simp [State.localUnits, hreq]
  rw [dmaStart_of_good hq hact hps (piecesBad_single hsrc hdst), List.foldl_cons, List.foldl_nil, pieceMove_scratchpad ha hb he, List.flatMap_cons, hreq, hlocal]
  rfl

/-! #### The statement's clauses -/

section

variable {t u : Nat} {s : State} {x : Xfer} {rest : List Xfer}

theorem transfer_misaligned (hr : (s.bayTime (bayOfCu u) t).engineRuns u = true) (hq : (s.cu u).dma.queue = x :: rest) (hact : (s.cu u).dma.active.length < 4)
    (h6 : (s.bayTime (bayOfCu u) t).portHeld (u / 4) (u % 4) 6 = false) (hsrc : x.src % 16 ≠ 0) (hu : 0 < x.units) :
    Completes (exec (.dmaTransferStart t u) s) fun r =>
      (r.cu u).dma = { (s.cu u).dma with queue := rest, active := (s.cu u).dma.active ++ [{ x with err := true, moved := true }] } ∧
      Raised s r (bayOfCu u) 0x20 (x.src % 2 ^ 32) (x.src / 2 ^ 32 % 2 ^ 32) (locCu u % 2 ^ 32) 1 ∧
      ((s.bay (bayOfCu u)).vote.cause = 0 → (s.bay (bayOfCu u)).vote.frozen = false → (r.bay (bayOfCu u)).vote.cause = 6) ∧
      Touches [.regs, .bays, .cus, .evt] s r := by
  have hstart := dmaStart_of_bad (s := s.bayTime (bayOfCu u) t) (by rwa [bayTime_cu]) (by rwa [bayTime_cu]) (piecesBad_of_misaligned _ u (b := x.dst) hsrc hu)
  have hfault : Kept [.bays, .evt] (s.bayTime (bayOfCu u) t) ((s.bayTime (bayOfCu u) t).addrFault (bayOfCu u) x.src (locCu u) 1 (some (bayOfCu u))) :=
    kept_addrFault (List.Subset.refl _) (Kept.refl _ _)
  have hkept := kept_dmaActivate (l := [.regs, .bays, .cus, .evt]) (u := u) (rest := rest) (y := { x with err := true, moved := true }) (by decide)
    (((kept_atBayTime s (bayOfCu u) t).mono (by decide)).trans (hfault.mono (by decide)))
  refine ⟨_, exec_dmaTransferStart hr h6 hstart (hkept.eq_twin (by decide)), ?_, ?_, fun h0 hf => ?_, hkept.touches⟩
  · rw [dmaActivate_dma, hfault.eq_cu (by decide), bayTime_cu]
  · exact (raised_addrFault (s.bayTime (bayOfCu u) t) (bayOfCu u) x.src (locCu u) 1 (some (bayOfCu u))).of_evt_eq (bayTime_evt s _ t)
  · exact addrFault_vote (s.bayTime (bayOfCu u) t) _ _ _ _ _ (by rwa [bayTime_vote]) (by rwa [bayTime_vote])

/-- R104, R253: a transfer none of whose pieces is local on both sides waits with its requests. -/
theorem transfer_remote {ps : List (Nat × Nat × Nat)} (hr : (s.bayTime (bayOfCu u) t).engineRuns u = true) (hq : (s.cu u).dma.queue = x :: rest)
    (hact : (s.cu u).dma.active.length < 4) (h6 : (s.bayTime (bayOfCu u) t).portHeld (u / 4) (u % 4) 6 = false)
    (hps : ps = cutPlaces x.src x.dst x.units (x.units / 512 + 4)) (hgood : (s.bayTime (bayOfCu u) t).piecesBad u ps = none)
    (hremote : ∀ p ∈ ps, localPlace u p.1 = none ∨ localPlace u p.2.1 = none) {heads : Nat × Nat × Nat → List (Nat × Nat × Nat)}
    (hheads : ∀ p ∈ ps, ((s.bayTime (bayOfCu u) t).pieceRequests u p).map (fun q => (q.type, q.addr, q.len)) = heads p) :
    Completes (exec (.dmaTransferStart t u) s) fun r => (∃ y, (r.cu u).dma = { (s.cu u).dma with queue := rest, active := (s.cu u).dma.active ++ [y] } ∧
      y.moved = true ∧ y.todo.map (fun p => (p.type, p.addr, p.len)) = ps.flatMap heads ∧ y.err = x.err) ∧ LaneFrame u s r := by
  have hstart := dmaStart_of_good (s := s.bayTime (bayOfCu u) t) (by rwa [bayTime_cu]) (by rwa [bayTime_cu]) hps hgood
  rw [foldl_pieceMove_of_remote hremote] at hstart
  have hframe := laneFrame_dmaActivate s u t rest
  refine ⟨_, exec_dmaTransferStart hr h6 hstart ((hframe _).2.2.2.2 .twin (by decide)),
    ⟨{ x with todo := ps.flatMap ((s.bayTime (bayOfCu u) t).pieceRequests u), moved := true, ready := _ },
      by rw [dmaActivate_dma, bayTime_cu], rfl, ?_, rfl⟩, hframe _⟩
  rw [List.map_flatMap]
  exact List.flatMap_congr hheads

theorem transfer_scratchpad {z sw dw : Nat} (hr : (s.bayTime (bayOfCu u) t).engineRuns u = true) (hz : z = ((s.bayTime (bayOfCu u) t).bay (bayOfCu u)).cycle)
    (hq : (s.cu u).dma.queue = x :: rest) (hact : (s.cu u).dma.active.length < 4) (h6 : (s.bayTime (bayOfCu u) t).portHeld (u / 4) (u % 4) 6 = false)
    (hs : Inv s) (hu : x.units = 1) (hsrc : (s.bayTime (bayOfCu u) t).sideBad u x.src 1 = none) (hdst : (s.bayTime (bayOfCu u) t).sideBad u x.dst 1 = none)
    (ha : localPlace u x.src = some (0, sw)) (hb : localPlace u x.dst = some (0, dw)) (he : s.errs.get [] (spAddr u (16 * sw) / 16) = []) :
    Completes (exec (.dmaTransferStart t u) s) fun r =>
      (r.cu u).dma = { (s.cu u).dma with queue := rest, active := (s.cu u).dma.active ++ [{ x with todo := [], moved := true, ready := z + 1 }] } ∧
      r.word (spAddr u (16 * dw)) = s.word (spAddr u (16 * sw)) ∧ MemAlone (spAddr u (16 * dw)) 16 s r ∧ Touches [.mem, .errs, .regs, .bays, .cus] s r := by
  have hmem : (s.bayTime (bayOfCu u) t).mem = s.mem := bayTime_mem s _ t
  have hstart := dmaStart_scratchpad (s := s.bayTime (bayOfCu u) t) (by rwa [bayTime_cu]) (by rwa [bayTime_cu]) hu hsrc hdst ha hb (by rwa [bayTime_errs])
  rw [← hz, word_congr hmem] at hstart
  have hput : Kept [.mem, .errs, .regs, .bays, .cus] s ((s.bayTime (bayOfCu u) t).putWord (spAddr u (16 * dw)) (s.word (spAddr u (16 * sw)))) :=
    kept_putWord (by decide) (kept_bayTime (by decide) (Kept.refl _ s))
  have hkept := kept_dmaActivate (u := u) (rest := rest) (y := { x with todo := [], moved := true, ready := z + 1 }) (by decide) hput
  refine ⟨_, exec_dmaTransferStart hr h6 hstart (hkept.eq_twin (by decide)), ?_, ?_, ?_, hkept.touches⟩
  · rw [dmaActivate_dma, putWord_cu, bayTime_cu]
  · rw [word_congr (dmaActivate_mem _ _ _ _), word_putWord_same _ _ (hmem ▸ hs.1)]
  · exact ((memAlone_of_mem_eq _ _ hmem).trans (memAlone_putWord _ _ _)).trans (memAlone_of_mem_eq _ _ (dmaActivate_mem _ _ _ _))

/-! ### A transfer completes (R104, R106) -/

theorem exec_dmaTransferComplete (hr : (s.bayTime (bayOfCu u) t).engineRuns u = true) :
    exec (.dmaTransferComplete t u) s = .next ((s.bayTime (bayOfCu u) t).dmaComplete u) := congrArg Host.Outcome.next (if_pos hr)

/-- The first active transfer is over: it leaves, and signals unless it met an error. -/
theorem dmaComplete_of_first (hact : (s.cu u).dma.active = x :: rest) (hfin : finished (s.bay (bayOfCu u)).cycle x = true) : s.dmaComplete u =
    if x.signal && !x.err then (s.modDma u fun d => { d with active := rest }).addSync u x.counter 1 else s.modDma u fun d => { d with active := rest } := by
  simp [State.dmaComplete, hact, hfin]

/-- The CU once its transfer `x` has left in cycle `t`: a signal adds 1 to its counter of bank `ctx`. -/
def Cu.transferred (c : Cu) (x : Xfer) (rest : List Xfer) (ctx t : Nat) : Cu :=
  { c with dma := { c.dma with active := rest }, sync := if x.signal = true ∧ x.err = false then c.sync.change ctx x.counter t 1 else c.sync }

theorem dmaComplete_cu (hact : (s.cu u).dma.active = x :: rest) (hfin : finished (s.bay (bayOfCu u)).cycle x = true) (v : Nat) :
    (s.dmaComplete u).cu v = if u = v then (s.cu u).transferred x rest s.bank (s.bay (bayOfCu u)).cycle else s.cu v := by
  rw [dmaComplete_of_first hact hfin, Cu.transferred]
  by_cases h : x.signal = true ∧ x.err = false
  · rw [if_pos (by simp [h]), if_pos h, addSync_cu, State.modDma, modCu_cu, modCu_cu, if_pos rfl]
    split <;> rfl
  · rw [if_neg (by simpa using h), if_neg h, State.modDma, modCu_cu]

/-- A change of this cycle shows after three cycles, where no earlier one is on its way (R106). -/
theorem change_visible {y : Sync} {ctx k t old : Nat} {sum : Int} (n : Int) {d : Nat} (h : (old, sum) = y.made ctx k t) (hrec : y.recent = []) (hd : d < t + 3) :
    (y.change ctx k t n).visible ctx k d = old := by
  simp [Sync.change, ← h, hrec, Sync.visible, hd]

theorem transfer_completes {z k old : Nat} {sum : Int} (hr : (s.bayTime (bayOfCu u) t).engineRuns u = true)
    (hz : z = ((s.bayTime (bayOfCu u) t).bay (bayOfCu u)).cycle) (hact : (s.cu u).dma.active = x :: rest) (hfin : finished z x = true)
    (hk : k = syncKey s.bank x.counter) (hmade : (old, sum) = (s.cu u).sync.made s.bank x.counter z) : Completes (exec (.dmaTransferComplete t u) s) fun r =>
      (r.cu u).dma.active = rest ∧ Assoc.get 0 (r.cu u).sync.banks k =
        (if x.signal = true ∧ x.err = false then min 0xFFFF (old + (sum + 1)).toNat else Assoc.get 0 (s.cu u).sync.banks k) ∧
      (∀ d, x.signal = true → x.err = false → d < z + 3 → (s.cu u).sync.recent = [] → (r.cu u).sync.visible s.bank x.counter d = old) ∧
      CusAlone [u] s r ∧ Touches [.regs, .bays, .cus, .hsync, .evt] s r := by
  have hkept : Kept [.regs, .bays, .cus, .hsync, .evt] s ((s.bayTime (bayOfCu u) t).dmaComplete u) :=
    kept_dmaComplete (by decide) (kept_bayTime (by decide) (Kept.refl _ s))
  have hcu (v : Nat) : ((s.bayTime (bayOfCu u) t).dmaComplete u).cu v = if u = v then (s.cu u).transferred x rest s.bank z else s.cu v := by
    rw [dmaComplete_cu (by rwa [bayTime_cu]) (by rwa [← hz]), bayTime_cu, bayTime_cu, bayTime_bank, hz]
  refine ⟨_, exec_dmaTransferComplete hr, ?_, ?_, fun d hsig herr hd hrec => ?_, fun v hv => ?_, hkept.touches⟩
  · rw [hcu, if_pos rfl]
    rfl
  · rw [hcu, if_pos rfl, Cu.transferred]
    split
    · rw [change_banks _ hmade, hk, Assoc.get_set, if_pos rfl]
    · rfl
  · rw [hcu, if_pos rfl, Cu.transferred, if_pos ⟨hsig, herr⟩]
    exact change_visible 1 hmade hrec hd
  · rw [hcu, if_neg (fun e => hv (by simp [e]))]

end

/-! ### Seeds (R107) -/

theorem exec_cuSrSeedWrite (t u : Nat) (v : BitVec 32) (s : State) :
    exec (.cuSrSeedWrite t u v) s = .next ((s.bayTime (bayOfCu u) t).regWrite .host (.cu u .srSeed) .whole (regOf v.toNat)) := rfl

/-- R24: the seed of a CU answers while the CU's bay is active. -/
theorem unreached_srSeed {s : State} {u : Nat} (hp : (s.bay (bayOfCu u)).power = .active) : s.unreached (.cu u .srSeed) = none := by
  have hplace : ¬ 0x5000 ≤ u % 4 * 0x1000 + place cuTab .srSeed := by
    rw [show place cuTab .srSeed = 0x18 from rfl]
    omega
  have hun : s.unreached (.cu u .srSeed) = if 0x5000 ≤ u % 4 * 0x1000 + place cuTab .srSeed then
      (if (s.panel (panelOf (u / 4))).fabricOn then none else some (devAddr (u / 4) (0x2000000 + (u % 4 * 0x1000 + place cuTab .srSeed))))
    else if (s.bay (bayOf (u / 4))).power = .active then none else some (devAddr (u / 4) (0x2000000 + (u % 4 * 0x1000 + place cuTab .srSeed))) := rfl
  rw [hun, if_neg hplace]
  exact if_pos hp

theorem seed_written {t u : Nat} {v : BitVec 32} {s : State} (hp : (s.bay (bayOfCu u)).power = .active) :
    Completes (exec (.cuSrSeedWrite t u v) s) fun r =>
      r.reg (.cu u .srSeed) = regOf v.toNat ∧ r.cu u = { s.cu u with seeded := true } ∧ CusAlone [u] s r ∧
      RegsAlone (.cu u .srSeed :: bayClockRegs (bayOfCu u)) s r ∧ Touches [.regs, .bays, .cus] s r := by
  have hwrite : (s.bayTime (bayOfCu u) t).regWrite .host (.cu u .srSeed) .whole (regOf v.toNat) = (s.bayTime (bayOfCu u) t).seedWrite u (regOf v.toNat) :=
    hostWrite_word v rfl (unreached_srSeed (by rwa [bayTime_power])) rfl
  have hkept : Kept [.regs, .bays, .cus] s ((s.bayTime (bayOfCu u) t).seedWrite u (regOf v.toNat)) :=
    kept_seedWrite (by decide) (kept_bayTime (by decide) (Kept.refl _ s))
  refine ⟨_, (exec_cuSrSeedWrite t u v s).trans (congrArg _ hwrite), ?_, ?_, fun w hw => ?_, fun id hid => ?_, hkept.touches⟩
  · rw [State.seedWrite, modCu_reg, setReg_reg, if_pos rfl, toNat_regOf, Nat.mod_eq_of_lt v.isLt]
  · rw [State.seedWrite, modCu_cu, if_pos rfl, setReg_cu, bayTime_cu]
  · rw [State.seedWrite, modCu_cu, if_neg (fun e => hw (by simp [e])), setReg_cu, bayTime_cu]
  · obtain ⟨hne, hclock⟩ := not_or.1 (fun h => hid (List.mem_cons.2 h))
    rw [State.seedWrite, modCu_reg, setReg_reg, if_neg (Ne.symm hne), bayTime_regsAlone s _ t id hclock]

theorem seed_unreached {t u a : Nat} {v : BitVec 32} {s : State} (ha : s.unreached (.cu u .srSeed) = some a) :
    Completes (exec (.cuSrSeedWrite t u v) s) fun r => Raised s r 360 0x20 (a % 2 ^ 32) (a / 2 ^ 32 % 2 ^ 32) 0xFFFFFFFF 2 ∧
      r.reg (.cu u .srSeed) = s.reg (.cu u .srSeed) ∧ RegsAlone (bayClockRegs (bayOfCu u)) s r ∧ Touches [.regs, .bays, .evt] s r := by
  obtain ⟨hraised, -, hregs, htouches⟩ := hostWrite_of_unreached (t := t) (b := bayOfCu u) (part := .whole) (v := regOf v.toNat) ha rfl
  exact ⟨_, exec_cuSrSeedWrite t u v s, hraised, hregs _ (by simp [bayClockRegs]), hregs, htouches⟩

/-! ### Telemetry rings (R234) -/

theorem exec_telemetryRingConfig (t b : Nat) (size : Bool) (part : Part) (v : Reg) (s : State) : exec (.telemetryRingConfig t b size part v) s =
    .next ((s.bayTime b t).regWrite .host (.bay b (if size then .fabTelSize else .fabTelBase)) part v) := rfl

theorem ring_unreached {t b a : Nat} {size : Bool} {v : Reg} {s : State} (ha : s.unreached (.bay b (if size then .fabTelSize else .fabTelBase)) = some a) :
    Completes (exec (.telemetryRingConfig t b size .whole v) s) fun r => Raised s r 360 0x20 (a % 2 ^ 32) (a / 2 ^ 32 % 2 ^ 32) 0xFFFFFFFF 2 ∧
      RegsAlone (bayClockRegs b) s r ∧ Touches [.regs, .bays, .evt] s r := by
  obtain ⟨hraised, -, hregs, htouches⟩ := hostWrite_of_unreached (t := t) (b := b) (part := .whole) (v := v) ha rfl
  exact ⟨_, exec_telemetryRingConfig t b size .whole v s, hraised, hregs, htouches⟩

/-- R9: a size of a telemetry ring takes the five lowest bits of what is written. -/
theorem getLsbD_written_size (old v hw : Reg) {i : Nat} (hi : i < 64) :
    (written (accRw 0x1F) old v hw).getLsbD i = if i < 5 then v.getLsbD i else old.getLsbD i := by
  have hmask : (accRw 0x1F).rw.getLsbD i = decide (i < 5) := by decide +revert
  have hclear : (accRw 0x1F).w1c.getLsbD i = false := BitVec.getLsbD_zero
  rw [getLsbD_written (a := accRw 0x1F) old v hw hi rfl rfl, hmask, hclear]
  simp only [Bool.false_and, Bool.false_eq_true, if_false, decide_eq_true_eq]

/-- The other bits stay as they are, which is clear. -/
theorem toNat_written_size {old : Reg} (v hw : Reg) (h : old.toNat < 32) : (written (accRw 0x1F) old (regOf (v.toNat % 2 ^ 32)) hw).toNat = v.toNat % 32 := by
  have hold (i : Nat) (hi : 5 ≤ i) : old.getLsbD i = false :=
    Nat.testBit_lt_two_pow (h.trans_le (Nat.pow_le_pow_right (by decide) hi : 2 ^ 5 ≤ 2 ^ i))
  refine Nat.eq_of_testBit_eq fun i => ?_
  rw [show v.toNat % 32 = v.toNat % 2 ^ 5 from rfl, Nat.testBit_mod_two_pow]
  by_cases hi : i < 64
  · rw [BitVec.testBit_toNat, getLsbD_written_size _ _ _ hi]
    by_cases h5 : i < 5
    · rw [if_pos h5, regOf, BitVec.getLsbD_ofNat, Nat.testBit_mod_two_pow]
      simp [hi, h5, show i < 32 by omega]
    · rw [if_neg h5, hold i (by omega), decide_eq_false h5, Bool.false_and]
  · rw [BitVec.testBit_toNat, BitVec.getLsbD_of_ge _ _ (by omega), decide_eq_false (by omega), Bool.false_and]

theorem ring_sized {t b : Nat} {v : Reg} {s : State} (hp : (s.bay b).power = .active) (hold : s.regN (.bay b .fabTelSize) < 32) :
    Completes (exec (.telemetryRingConfig t b true .whole v) s) fun r =>
      r.regN (.bay b .fabTelSize) = v.toNat % 32 ∧ r.regN (.bay b .fabTelHead) = 0 ∧
      RegsAlone (.bay b .fabTelSize :: .bay b .fabTelHead :: bayClockRegs b) s r ∧ Touches [.regs, .bays] s r := by
  have hu : (s.bayTime b t).unreached (.bay b .fabTelSize) = none := by
    rw [bayTime_unreached]
    exact if_pos hp
  have hsame : (s.bayTime b t).reg (.bay b .fabTelSize) = s.reg (.bay b .fabTelSize) := bayTime_reg s t (by simp [bayClockRegs])
  have hwrite : (s.bayTime b t).regWrite .host (.bay b .fabTelSize) .whole v = (s.bayTime b t).ringConfig b true (regOf (v.toNat % 2 ^ 32)) :=
    regWrite_of_mayWrite .whole v hu rfl
  have hring : (s.bayTime b t).ringConfig b true (regOf (v.toNat % 2 ^ 32)) = ((s.bayTime b t).setReg (.bay b .fabTelSize)
      (written (accRw 0x1F) (s.reg (.bay b .fabTelSize)) (regOf (v.toNat % 2 ^ 32)) ((s.bayTime b t).hwBits (.bay b .fabTelSize)))).setReg (.bay b .fabTelHead) 0 := by
    rw [← hsame]
    exact congrArg (fun x => State.setReg x (.bay b .fabTelHead) 0) (plainWrite_of_unlocked (not_locked_of_rwl_zero _ _ rfl))
  refine ⟨_, (exec_telemetryRingConfig t b true .whole v s).trans (congrArg _ (hwrite.trans hring)), ?_, ?_, fun id hid => ?_, ?_⟩
  · rw [State.regN, setReg_reg, if_neg (by simp), setReg_reg, if_pos rfl, toNat_written_size _ _ hold]
  · rw [State.regN, setReg_reg, if_pos rfl]
    rfl
  · simp only [List.mem_cons, not_or] at hid
    obtain ⟨hsize, hhead, hclock⟩ := hid
    rw [setReg_reg, if_neg (Ne.symm hhead), setReg_reg, if_neg (Ne.symm hsize), bayTime_regsAlone s b t id (by simpa using hclock)]
  · exact (kept_setReg (by decide) (kept_setReg (by decide) (kept_bayTime (by decide) (Kept.refl _ s)))).touches

/-- Settles O39, clause by clause: the vector pipeline, the DMA engine, seeds and telemetry rings. -/
theorem vectorAndDmaWork : Obligations.VectorAndDmaWork := by
  refine ⟨fun t u z s m hm hr hz => ?_, fun t u v s => ⟨seed_written, fun a => seed_unreached⟩, fun t b a size v s => ring_unreached, fun t b v s => ring_sized⟩
  subst hm
  refine ⟨fun y n => vector_issues hr hz, fun g rest k => reduction_writes hr hz, fun x rest d hd hq hact h6 => ?_, fun x rest k old sum => transfer_completes hr hz⟩
  subst hd
  refine ⟨transfer_misaligned hr hq hact h6, fun ps hps hgood => ⟨fun hsrc => ?_, fun hdst => ?_⟩, fun sw dw => transfer_scratchpad hr hz hq hact h6⟩
  · exact transfer_remote hr hq hact h6 hps hgood (fun p hp => .inl (hsrc p hp)) fun p hp => pieceRequests_of_remoteSource _ (hsrc p hp)
  · exact transfer_remote hr hq hact h6 hps hgood (fun p hp => .inr (hdst p hp).2) fun p hp => pieceRequests_of_remoteDest _ (hdst p hp).1 (hdst p hp).2

end Sys2Proof.Machine

/-! PROOF. Family 02_stitch_execution: requests on the stitch (O25). -/

namespace Sys2Proof.Machine

theorem kept_atMasterTime {l : List Comp} (s : State) (t : Nat) (hl : [.clk] ⊆ l) : Kept l s (s.masterTime t) := kept_masterTime hl (Kept.refl l s)

@[simp] theorem masterTime_active (s : State) (t : Nat) : (s.masterTime t).active = s.active := congrArg Stitch.active (masterTime_stitch s t)

/-- R58: a switch to a resident context that is not active waits. -/
theorem ctxRequest_of_resident {s : State} {k : Nat} (h : (s.ctx? k).isSome = true) (ha : k ≠ s.active) :
    s.ctxRequest k = s.modStitch fun x => { x with switchPending := true, ctxNext := k } := by
  rw [State.ctxRequest, if_neg (by simpa using Option.isSome_iff_ne_none.1 h), if_neg ha]

/-- R58: any other request is refused by event, with the reason that the target is not resident or is active already. -/
theorem ctxRequest_refused {s : State} {k : Nat} (h : s.ctx? k = none ∨ k = s.active) :
    s.ctxRequest k = s.raise 363 3 k (if (s.ctx? k).isNone then 0 else 1) 0 0 := by
  unfold State.ctxRequest
  split
  · rfl
  · rename_i hres
    rw [if_pos (h.resolve_left fun hn => hres (by rw [hn]; rfl))]

/-- R43: a halted context that has not failed runs on, and the streak is over. -/
theorem resumeCtx_of_halted {s : State} {c : Ctx} (hc : s.ctx? s.active = some c) (hh : c.halted = true) (hf : c.failed = false) :
    s.resumeCtx = (s.setCtx s.active { c with halted := false }).modStitch fun k => { k with streak := 0 } := by
  simp only [State.resumeCtx, hc, hh, hf, Bool.not_false, and_self, if_true]

theorem resumeCtx_ignored {s : State} {c : Ctx} (hc : s.ctx? s.active = some c) (h : c.halted = false ∨ c.failed = true) : s.resumeCtx = s := by
  rw [State.resumeCtx, hc]
  refine if_neg fun ⟨hh, hf⟩ => ?_
  rcases h with h | h
  · rw [h] at hh
    cases hh
  · rw [h] at hf
    cases hf

theorem ctxsAlone_setCtx (s : State) (k : Nat) (c : Ctx) : CtxsAlone [k] s (s.setCtx k c) := fun j hj => by
  rw [setCtx_ctx, if_neg fun e => hj (by simp [e])]

/-- Settles O25, request by request: each is its operation at the master's time (`ctxRequest_of_resident` and what follows it). -/
theorem stitchRequests : Obligations.StitchRequests := by
  refine ⟨fun t k s hres hne => ?_, fun t k s h => ?_, fun t c s hc hh hf => ?_, fun t c s hc h => ?_, fun t s => ?_⟩
  · have hreq := ctxRequest_of_resident (s := s.masterTime t) (by rwa [masterTime_ctx]) (by rwa [masterTime_active])
    refine ⟨_, congrArg Host.Outcome.next hreq, ?_, (kept_modStitch (by decide) (kept_atMasterTime s t (by decide))).touches⟩
    rw [modStitch_stitch, masterTime_stitch]
  · have hreq := ctxRequest_refused (s := s.masterTime t) (by rwa [masterTime_ctx, masterTime_active])
    rw [masterTime_ctx] at hreq
    refine ⟨_, congrArg Host.Outcome.next hreq, ?_, (kept_raise (by decide) (kept_atMasterTime s t (by decide))).touches⟩
    have hraised := raised_raise (s.masterTime t) 363 3 k (if (s.ctx? k).isNone then 0 else 1) 0 0
    rw [Nat.mod_eq_of_lt (show (if (s.ctx? k).isNone then 0 else 1) < 2 ^ 32 by split <;> decide)] at hraised
    exact hraised.of_evt_eq (masterTime_evt s t)
  · have hresume := resumeCtx_of_halted (s := s.masterTime t) (c := c) (by rwa [masterTime_active, masterTime_ctx]) hh hf
    rw [masterTime_active] at hresume
    refine ⟨_, congrArg Host.Outcome.next hresume, ?_, ?_, fun j hj => ?_, ?_⟩
    · rw [modStitch_ctx, setCtx_ctx, if_pos rfl]
    · rw [modStitch_stitch, setCtx_stitch, masterTime_stitch]
    · rw [modStitch_ctx, ctxsAlone_setCtx _ _ _ j hj, masterTime_ctx]
    · exact (kept_modStitch (by decide) (kept_setCtx (by decide) (kept_atMasterTime s t (by decide)))).touches
  · have hresume := resumeCtx_ignored (s := s.masterTime t) (c := c) (by rwa [masterTime_active, masterTime_ctx]) h
    exact ⟨_, congrArg Host.Outcome.next hresume, (kept_atMasterTime s t (by decide)).touches⟩
  · refine ⟨_, rfl, ?_, (kept_voidCurrent (by decide) (kept_atMasterTime s t (by decide))).touches⟩
    rw [State.voidCurrent, modStitch_stitch, masterTime_stitch]

end Sys2Proof.Machine

/-! PROOF. Family 02_stitch_execution: the end of the work window (O16). -/

namespace Sys2Proof.Machine

/-! ### Folds -/

theorem foldl_keeps {α σ : Type} {P : σ → Prop} {f : σ → α → σ} {l : List α} {s : σ} (h : P s) (hf : ∀ x, ∀ a ∈ l, P x → P (f x a)) :
    P (l.foldl f s) := List.foldlRecOn l f h fun x hx a ha => hf x a ha hx

/-- What the step of one element brings about, and no other step undoes, the fold brings about. -/
theorem foldl_reaches {α σ : Type} {P : σ → Prop} {f : σ → α → σ} {l : List α} {a : α} (ha : a ∈ l) (hat : ∀ x, P (f x a))
    (hf : ∀ x b, P x → P (f x b)) (s : σ) : P (l.foldl f s) := by
  obtain ⟨l₁, l₂, rfl⟩ := List.append_of_mem ha
  rw [List.foldl_append, List.foldl_cons]
  exact foldl_keeps (hat _) fun x b _ => hf x b

/-! ### CUs of one bay -/

/-- CUs outside bay `b` are as they were, and every CU that was listed still is. -/
structure BayCus (b : Nat) (s t : State) : Prop where
  others : ∀ u, bayOfCu u ≠ b → t.cu u = s.cu u
  listed : ∀ u, u ∈ s.busyCus b → u ∈ t.busyCus b

theorem BayCus.trans {b : Nat} {s t r : State} (h : BayCus b s t) (h' : BayCus b t r) : BayCus b s r :=
  ⟨fun u hu => (h'.others u hu).trans (h.others u hu), fun u hu => h'.listed u (h.listed u hu)⟩

theorem bayCus_of_cus_eq {s t : State} (b : Nat) (h : t.cus = s.cus) : BayCus b s t :=
  ⟨fun u _ => by rw [State.cu, State.cu, h], fun u hu => by rwa [State.busyCus, h]⟩

theorem mem_busyCus {s : State} {b u : Nat} : u ∈ s.busyCus b ↔ u ∈ s.cus.map Prod.fst ∧ bayOfCu u = b := by
  rw [State.busyCus, List.mem_filter, beq_iff_eq]

theorem bayCus_modCu {b u : Nat} (s : State) (f : Cu → Cu) (hu : bayOfCu u = b) : BayCus b s (s.modCu u f) := by
  refine ⟨fun v hv => ?_, fun v hv => ?_⟩
  · rw [modCu_cu, if_neg fun (e : u = v) => hv (e ▸ hu)]
  · rw [mem_busyCus] at hv ⊢
    refine ⟨?_, hv.2⟩
    obtain ⟨e, he, rfl⟩ := List.mem_map.1 hv.1
    by_cases h : e.1 = u
    · rw [h]
      exact List.mem_cons_self
    · exact List.mem_cons_of_mem _ (List.mem_map.2 ⟨e, List.mem_filter.2 ⟨he, decide_eq_true h⟩, rfl⟩)

theorem bayCus_foldl {b : Nat} {s : State} {f : State → Nat → State} {l : List Nat} (hl : ∀ u ∈ l, bayOfCu u = b)
    (hf : ∀ x u, bayOfCu u = b → BayCus b x (f x u)) : BayCus b s (l.foldl f s) :=
  foldl_keeps (P := BayCus b s) (bayCus_of_cus_eq b rfl) fun x u hu h => h.trans (hf x u (hl u hu))

theorem bayOfCu_of_busy {s : State} {b u : Nat} (h : u ∈ s.busyCus b) : bayOfCu u = b := (mem_busyCus.1 h).2

theorem bayOf_clusterIn {b x y : Nat} (hx : x < 32) (hy : y < 36) : bayOf (clusterIn b x y) = b := by
  simp only [bayOf, panelOf, clusterIn, clusterAt, clX, clY]
  omega

theorem bayOfCu_of_cusOfBay {b u : Nat} (h : u ∈ cusOfBay b) : bayOfCu u = b := by
  simp only [cusOfBay, List.mem_flatMap, List.mem_map, List.mem_range] at h
  obtain ⟨y, hy, x, hx, i, hi, rfl⟩ := h
  rw [bayOfCu, show (4 * clusterIn b x y + i) / 4 = clusterIn b x y by omega, bayOf_clusterIn hx hy]

theorem Kept.lanesOf {l : List Comp} {s r : State} (h : Kept l s r) (hs : .stitch ∉ l) (hc : .ctxs ∉ l) (b : Nat) : r.lanesOf b = s.lanesOf b := by
  rw [State.lanesOf, State.lanesOf, State.hasLanes, State.hasLanes, State.ctx?, State.ctx?, State.active, State.active, h.eq_stitch hs, h.eq_ctxs hc]

theorem Kept.voterIn {l : List Comp} {s r : State} (h : Kept l s r) (hs : .stitch ∉ l) (v : Nat) : r.voterIn v = s.voterIn v := by
  rw [State.voterIn, State.voterIn, h.eq_stitch hs]

theorem bayOfCu_of_lane {s : State} {b u : Nat} (h : u ∈ s.lanesOf b) : bayOfCu u = b := by
  unfold State.lanesOf at h
  split at h
  · exact bayOfCu_of_cusOfBay h
  · cases h

/-! ### The steps at cycle W -/

theorem Vote.void_cause {v : Vote} {at_ cause : Nat} (h : v.cause = 0) (hf : v.frozen = false) : (v.void at_ cause).cause = cause := by
  simp [Vote.void, h, hf]

@[simp] theorem modSeq_bay (s : State) (u : Nat) (f : Seq → Seq) (q : Nat) : (s.modSeq u f).bay q = s.bay q := rfl

theorem modSeq_seq (s : State) (u v : Nat) (f : Seq → Seq) : ((s.modSeq u f).cu v).seq = if u = v then f (s.cu u).seq else (s.cu v).seq := by
  rw [State.modSeq, modCu_cu]
  split <;> rfl

/-- R36: the lanes whose marker has not retired by cycle W. -/
def State.lateLanes (s : State) (b : Nat) : List Nat := (s.lanesOf b).filter fun u => !(s.cu u).seq.retired

def State.haltLanes (s : State) (l : List Nat) : State := l.foldl (fun x u => x.modSeq u fun q => { q with overrun := true }) s

/-- The bay's note of its late lanes, in its vote and for its hem. -/
def Bay.overran (y : Bay) (n : Nat) : Bay := { y with vote := { y.vote with lateLanes := min n 0xFFFF }, hem := { y.hem with overran := true } }

theorem overrunLanes_of_none {s : State} {b : Nat} (h : s.lateLanes b = []) : s.overrunLanes b = s := by
  rw [State.lateLanes] at h
  simp only [State.overrunLanes, h]

/-- R36: late lanes are halted, reported, and void the stitch. -/
theorem overrunLanes_of_late {s : State} {b : Nat} (h : s.lateLanes b ≠ []) : ∃ w0 w1, s.overrunLanes b =
    (((s.haltLanes (s.lateLanes b)).modBay b fun y => y.overran (s.lateLanes b).length).raiseBay b 1 w0 w1 0 0).voteVoid b 1 := by
  obtain ⟨u, l, hl⟩ := List.exists_cons_of_ne_nil h
  rw [hl]
  rw [State.lateLanes] at hl
  simp only [State.overrunLanes, hl]
  exact ⟨_, _, rfl⟩

theorem haltLanes_bay (s : State) (l : List Nat) (q : Nat) : (s.haltLanes l).bay q = s.bay q :=
  foldl_keeps (P := fun x : State => x.bay q = s.bay q) rfl fun _ _ _ h => h

theorem haltLanes_overrun {l : List Nat} {u : Nat} (h : u ∈ l) (s : State) : ((s.haltLanes l).cu u).seq.overrun = true := by
  refine foldl_reaches (P := fun x : State => (x.cu u).seq.overrun = true) h (fun x => ?_) (fun x v hx => ?_) s
  · rw [modSeq_seq, if_pos rfl]
  · rw [modSeq_seq]
    split
    · rfl
    · exact hx

theorem bayCus_haltLanes {b : Nat} {l : List Nat} (s : State) (h : ∀ u ∈ l, bayOfCu u = b) : BayCus b s (s.haltLanes l) :=
  bayCus_foldl h fun x _ hu => bayCus_modCu x _ hu

theorem bayOfCu_of_late {s : State} {b u : Nat} (h : u ∈ s.lateLanes b) : bayOfCu u = b := bayOfCu_of_lane (List.mem_of_mem_filter h)

/-- What the overrun leaves of the bays and CUs; of bay `b`, its vote and what its hem is told are another. -/
theorem overrunLanes_frame (s : State) (b : Nat) : BayCus b s (s.overrunLanes b) ∧ BaysAlone [b] s (s.overrunLanes b) ∧
    ∃ v h, (s.overrunLanes b).bay b = { s.bay b with vote := v, hem := h } := by
  by_cases hl : s.lateLanes b = []
  · rw [overrunLanes_of_none hl]
    exact ⟨bayCus_of_cus_eq b rfl, fun _ _ => rfl, _, _, rfl⟩
  · obtain ⟨w0, w1, h⟩ := overrunLanes_of_late hl
    rw [h]
    refine ⟨(bayCus_haltLanes s fun u => bayOfCu_of_late).trans (bayCus_of_cus_eq b rfl), fun q hq => ?_, ?_⟩
    · have hne : b ≠ q := fun e => hq (by simp [e])
      rw [State.voteVoid, modBay_bay, if_neg hne, raiseBay_bay, modBay_bay, if_neg hne, haltLanes_bay]
    · rw [State.voteVoid, modBay_bay, if_pos rfl, raiseBay_bay, modBay_bay, if_pos rfl, haltLanes_bay]
      exact ⟨_, _, rfl⟩

/-- R36, R37: a late lane is halted, and voids a stitch that is clean so far. -/
theorem overrunLanes_late {s : State} {b u : Nat} (h : u ∈ s.lateLanes b) : ((s.overrunLanes b).cu u).seq.overrun = true ∧
    ((s.bay b).vote.cause = 0 → (s.bay b).vote.frozen = false → ((s.overrunLanes b).bay b).vote.cause = 1) := by
  obtain ⟨w0, w1, hover⟩ := overrunLanes_of_late (List.ne_nil_of_mem h)
  rw [hover]
  refine ⟨haltLanes_overrun h s, fun hc hf => ?_⟩
  rw [State.voteVoid, modBay_bay, if_pos rfl, raiseBay_bay, modBay_bay, if_pos rfl, haltLanes_bay]
  exact Vote.void_cause hc hf

/-! ### Cycle W -/

def State.windowPassed (s : State) (b : Nat) : State := s.modBay b fun y => { y with windowOver := true }

theorem windowPassed_bay (s : State) (b q : Nat) : (s.windowPassed b).bay q = if b = q then { s.bay b with windowOver := true } else s.bay q :=
  modBay_bay s b _ q

/-- Bay `b` with its window over, as the residue of its counters is looked at: late lanes halted, the governor disarmed. -/
def State.windowClosed (s : State) (b : Nat) : State :=
  (if s.stitch.kind = .work then ((s.windowPassed b).overrunLanes b).retireTaken b else s.windowPassed b).unbrace b

theorem windowEnd_of_due {s : State} {b : Nat} (bad : List Nat) (hp : (s.bay b).power = .active) (hi : (s.bay b).inStitch = true)
    (ho : (s.bay b).windowOver = false) (hw : (s.bay b).w ≤ (s.bay b).cycle) :
    s.windowEnd b bad = (((s.windowClosed b).restoreResidue b).hemTileStart b bad).correctedReport b := by
  simp only [State.windowEnd, hp, hi, ho, Nat.not_lt.2 hw, ne_eq, not_true_eq_false, Bool.not_true, Bool.false_eq_true, or_self, if_false]
  rfl

theorem retireTaken_bay (s : State) (b q : Nat) : (s.retireTaken b).bay q = s.bay q := rfl

/-- R387. -/
def Governor.unbraced (g : Governor) : Governor := { g with braces := [], armed := false, braceLevel := 0 }

theorem unbrace_bay (s : State) (b q : Nat) : (s.unbrace b).bay q = if b = q then { s.bay b with gov := (s.bay b).gov.unbraced } else s.bay q :=
  modBay_bay s b _ q

theorem kept_windowClosed (s : State) (b : Nat) : Kept [.regs, .bays, .cus, .evt] s (s.windowClosed b) := by
  have hpassed : Kept [.regs, .bays, .cus, .evt] s (s.windowPassed b) := kept_modBay (by decide) (Kept.refl _ s)
  exact kept_unbrace (by decide) (Kept.ite (kept_retireTaken (by decide) (kept_overrunLanes (by decide) hpassed)) hpassed)

/-- What the closing leaves of the bays and CUs, and what it sets. -/
theorem windowClosed_frame (s : State) (b : Nat) : BayCus b s (s.windowClosed b) ∧ BaysAlone [b] s (s.windowClosed b) ∧
    ((s.windowClosed b).bay b).windowOver = true ∧ ∃ g : Governor, ((s.windowClosed b).bay b).gov = g.unbraced := by
  obtain ⟨hcus, halone, v, h, hbay⟩ := overrunLanes_frame (s.windowPassed b) b
  have hpassed (q : Nat) (hq : q ∉ [b]) : (s.windowPassed b).bay q = s.bay q := by rw [windowPassed_bay, if_neg fun e => hq (by simp [e])]
  have hin : BayCus b s (s.windowPassed b) := bayCus_of_cus_eq b rfl
  unfold State.windowClosed
  split
  · refine ⟨(hin.trans hcus).trans (bayCus_of_cus_eq b rfl), fun q hq => ?_, ?_, ?_⟩
    · rw [unbrace_bay, if_neg fun e => hq (by simp [e]), retireTaken_bay, halone q hq, hpassed q hq]
    · rw [unbrace_bay, if_pos rfl, retireTaken_bay, hbay, windowPassed_bay, if_pos rfl]
    · rw [unbrace_bay, if_pos rfl]
      exact ⟨_, rfl⟩
  · refine ⟨hin.trans (bayCus_of_cus_eq b rfl), fun q hq => ?_, ?_, ?_⟩
    · rw [unbrace_bay, if_neg fun e => hq (by simp [e]), hpassed q hq]
    · rw [unbrace_bay, if_pos rfl, windowPassed_bay, if_pos rfl]
    · rw [unbrace_bay, if_pos rfl]
      exact ⟨_, rfl⟩

theorem windowClosed_late {s : State} {b u : Nat} (hk : s.stitch.kind = .work) (hu : u ∈ s.lanesOf b) (hr : (s.cu u).seq.retired = false) :
    ((s.windowClosed b).cu u).seq.overrun = true ∧
    ((s.bay b).vote.cause = 0 → (s.bay b).vote.frozen = false → ((s.windowClosed b).bay b).vote.cause = 1) := by
  have hlate : u ∈ (s.windowPassed b).lateLanes b := List.mem_filter.2 ⟨hu, by simp [State.windowPassed, hr]⟩
  obtain ⟨hover, hvote⟩ := overrunLanes_late hlate
  rw [windowPassed_bay, if_pos rfl] at hvote
  simp only [State.windowClosed, hk, if_true]
  refine ⟨hover, fun hc hf => ?_⟩
  rw [unbrace_bay, if_pos rfl, retireTaken_bay]
  exact hvote hc hf

/-! ### What follows in cycle W -/

/-- To restore the residue is to change counters of the bay's CUs, one CU after the other, and to report it. -/
theorem restoreResidue_keeps {P : State → Prop} {s : State} {b : Nat} (h : P s)
    (hreport : ∀ (x : State) id n k w0 w1 w2 w3, P x → P ((x.count id n).raiseBay b k w0 w1 w2 w3))
    (hcu : ∀ (x : State) (u : Nat) (f : Cu → Sync), bayOfCu u = b → P x → P (x.modCu u fun c => { c with sync := f c })) :
    P (s.restoreResidue b) := by
  unfold State.restoreResidue
  dsimp only
  split
  on_goal 2 => refine hreport _ _ _ _ _ _ _ _ ?_
  all_goals
    refine foldl_keeps h fun x u hu hx => ?_
    split
    · exact hx
    · exact hcu x u _ (bayOfCu_of_busy hu) hx

theorem restoreResidue_seq (s : State) (b u : Nat) : ((s.restoreResidue b).cu u).seq = (s.cu u).seq := by
  refine restoreResidue_keeps (P := fun x => (x.cu u).seq = (s.cu u).seq) rfl (fun x _ _ _ _ _ _ _ hx => hx) fun x v f _ hx => ?_
  rw [modCu_cu, ← hx]
  split
  · rename_i h
    rw [h]
  · rfl

theorem bayCus_restoreResidue (s : State) (b : Nat) : BayCus b s (s.restoreResidue b) :=
  restoreResidue_keeps (P := BayCus b s) (bayCus_of_cus_eq b rfl) (fun _ _ _ _ _ _ _ _ hx => hx.trans (bayCus_of_cus_eq b rfl))
    fun x _ _ hu hx => hx.trans (bayCus_modCu x _ hu)

theorem kept_atRestoreResidue (s : State) (b : Nat) : Kept [.regs, .cus, .evt] s (s.restoreResidue b) :=
  kept_restoreResidue (List.Subset.refl _) (Kept.refl _ s)

def State.emptyStages (s : State) (b : Nat) : State := (s.busyCus b).foldl (fun x u => x.modCu u fun cu => { cu with ste := cu.ste.emptyStages }) s

theorem hemTileStart_of_voter {s : State} {b : Nat} (bad : List Nat) (h : s.voterIn b = true) :
    s.hemTileStart b bad = (s.emptyStages b).modBay b fun y => { y with hem := { y.hem with tile := some bad } } := if_pos h

theorem bayCus_emptyStages (s : State) (b : Nat) : BayCus b s (s.emptyStages b) :=
  bayCus_foldl (fun _ => bayOfCu_of_busy) fun x _ hu => bayCus_modCu x _ hu

theorem emptyStages_seq (s : State) (b u : Nat) : ((s.emptyStages b).cu u).seq = (s.cu u).seq := by
  refine foldl_keeps (P := fun x : State => (x.cu u).seq = (s.cu u).seq) rfl fun x v _ hx => ?_
  rw [modCu_cu, ← hx]
  split
  · rename_i h
    rw [h]
  · rfl

/-- R99: every stage of the bay is empty as its check tile starts. -/
theorem emptyStages_lastB {s : State} {b u : Nat} (h : u ∈ s.busyCus b) : ((s.emptyStages b).cu u).ste.lastB = none := by
  refine foldl_reaches (P := fun x : State => (x.cu u).ste.lastB = none) h (fun x => ?_) (fun x v hx => ?_) s
  · rw [modCu_cu, if_pos rfl]
    rfl
  · rw [modCu_cu]
    split
    · rfl
    · exact hx

theorem emptyStages_bay (s : State) (b q : Nat) : (s.emptyStages b).bay q = s.bay q :=
  foldl_keeps (P := fun x : State => x.bay q = s.bay q) rfl fun _ _ _ h => h

/-- The check tile's start leaves a bay all but the tile, and a CU its sequencer. -/
theorem hemTileStart_frame (s : State) (b : Nat) (bad : List Nat) : BayCus b s (s.hemTileStart b bad) ∧ BaysAlone [b] s (s.hemTileStart b bad) ∧
    (∃ x, (s.hemTileStart b bad).bay b = { s.bay b with hem := { (s.bay b).hem with tile := x } }) ∧
    ∀ u, ((s.hemTileStart b bad).cu u).seq = (s.cu u).seq := by
  cases h : s.voterIn b with
  | true =>
    rw [hemTileStart_of_voter bad h]
    refine ⟨(bayCus_emptyStages s b).trans (bayCus_of_cus_eq b rfl), fun q hq => ?_, ⟨some bad, ?_⟩, emptyStages_seq s b⟩
    · rw [modBay_bay, if_neg fun e => hq (by simp [e]), emptyStages_bay]
    · rw [modBay_bay, if_pos rfl, emptyStages_bay]
  | false =>
    have hsame : s.hemTileStart b bad = s := if_neg (by simp [h])
    rw [hsame]
    exact ⟨bayCus_of_cus_eq b rfl, fun _ _ => rfl, ⟨_, rfl⟩, fun _ => rfl⟩

theorem correctedReport_bay (s : State) (b : Nat) : BaysAlone [b] s (s.correctedReport b) ∧
    ∃ x n, (s.correctedReport b).bay b = { s.bay b with hem := { (s.bay b).hem with firstCe := x, ceStitch := n } } := by
  unfold State.correctedReport
  dsimp only
  split
  · refine ⟨fun q hq => ?_, none, 0, ?_⟩
    · rw [modBay_bay, if_neg fun e => hq (by simp [e]), raiseBay_bay]
    · rw [modBay_bay, if_pos rfl, raiseBay_bay]
  · exact ⟨fun _ _ => rfl, _, _, rfl⟩

theorem correctedReport_cus (s : State) (b : Nat) : (s.correctedReport b).cus = s.cus :=
  (kept_correctedReport (l := [.bays, .evt]) (List.Subset.refl _) (Kept.refl _ s)).eq_cus (by decide)

/-- What cycle W still does once the window is closed: bay `b` keeps all but what is noted for its hem. -/
theorem windowEnd_rest {s r : State} {b : Nat} {bad : List Nat} (hr : r = ((s.restoreResidue b).hemTileStart b bad).correctedReport b) :
    BayCus b s r ∧ BaysAlone [b] s r ∧ (∃ h, r.bay b = { s.bay b with hem := h }) ∧ (∀ u, (r.cu u).seq = (s.cu u).seq) ∧
    (s.voterIn b = true → (r.bay b).hem.tile = some bad ∧ ∀ u ∈ s.busyCus b, (r.cu u).ste.lastB = none) := by
  subst hr
  have hres := kept_atRestoreResidue s b
  obtain ⟨htcus, htalone, ⟨x, htbay⟩, htseq⟩ := hemTileStart_frame (s.restoreResidue b) b bad
  obtain ⟨hcalone, f, n, hcbay⟩ := correctedReport_bay ((s.restoreResidue b).hemTileStart b bad) b
  have hccu (u : Nat) : (((s.restoreResidue b).hemTileStart b bad).correctedReport b).cu u = ((s.restoreResidue b).hemTileStart b bad).cu u := by
    rw [State.cu, State.cu, correctedReport_cus]
  refine ⟨((bayCus_restoreResidue s b).trans htcus).trans (bayCus_of_cus_eq b (correctedReport_cus _ b)), fun q hq => ?_, ?_, fun u => ?_, fun hv => ?_⟩
  · rw [hcalone q hq, htalone q hq, hres.eq_bay (by decide)]
  · rw [hcbay, htbay, hres.eq_bay (by decide)]
    exact ⟨_, rfl⟩
  · rw [hccu, htseq, restoreResidue_seq]
  · have hvoter : (s.restoreResidue b).voterIn b = true := by rwa [hres.voterIn (by decide)]
    simp only [hccu, hcbay]
    rw [hemTileStart_of_voter bad hvoter, modBay_bay, if_pos rfl]
    exact ⟨rfl, fun u hu => emptyStages_lastB ((bayCus_restoreResidue s b).listed u hu)⟩

/-- Settles O16: `windowClosed_frame` and `windowClosed_late` say what the end of the window does, `windowEnd_rest` what else cycle W brings. -/
theorem windowCloses : Obligations.WindowCloses := by
  rintro t b bad s m rfl hp hi ho hw
  obtain ⟨cyc, up, g, hbay⟩ := bayTime_bay s b t b
  have htime := kept_atBayTime s b t
  have hstitch : (s.bayTime b t).stitch = s.stitch := htime.eq_stitch (by decide)
  have hend : (s.bayTime b t).windowEnd b bad = _ := windowEnd_of_due bad (by rwa [bayTime_power]) (by rw [hbay]; exact hi) (by rw [hbay]; exact ho) hw
  obtain ⟨hcus, halone, hover, g', hgov⟩ := windowClosed_frame (s.bayTime b t) b
  obtain ⟨hcus', halone', ⟨h, hbay'⟩, hseq, htile⟩ := windowEnd_rest hend
  have hlate (u : Nat) (hu : u ∈ s.lanesOf b) (hk : s.stitch.kind = .work) (hret : (s.cu u).seq.retired = false) :=
    windowClosed_late (s := s.bayTime b t) (b := b) (u := u) (by rwa [hstitch])
      (by rwa [htime.lanesOf (by decide) (by decide)]) (by rwa [bayTime_cu])
  have hcusTime : BayCus b s (s.bayTime b t) := bayCus_of_cus_eq b (htime.eq_cus (by decide))
  refine ⟨_, rfl, ?_, ?_, ?_, ?_, fun u hu hk hret => ?_, fun u hu hk hret hc hf => ?_, fun hv => ?_, fun u hu => ?_, fun q hq => ?_, ?_⟩
  · rw [hbay', hover]
  · rw [hbay', hgov]; rfl
  · rw [hbay', hgov]; rfl
  · rw [hbay', hgov]; rfl
  · rw [hseq]
    exact (hlate u hu hk hret).1
  · rw [hbay']
    exact (hlate u hu hk hret).2 (by rwa [bayTime_vote]) (by rwa [bayTime_vote])
  · obtain ⟨htile, hstages⟩ := htile (by rwa [(kept_windowClosed _ b).voterIn (by decide), htime.voterIn (by decide)])
    exact ⟨htile, fun u hu => hstages u ((hcusTime.trans hcus).listed u hu)⟩
  · rw [hcus'.others u hu, hcus.others u hu, bayTime_cu]
  · rw [halone' q hq, halone q hq, bayTime_baysAlone s b t q hq]
  · exact (kept_windowEnd (by decide) (kept_bayTime (by decide) (Kept.refl _ s))).touches

end Sys2Proof.Machine

/-! PROOF. Family 02_stitch_execution: votes and the mask broadcast (O21). -/

namespace Sys2Proof.Machine

/-! ### The end of the hem check tile (R99) -/

/-- A detection changes causes alone. -/
theorem Vote.void_eq (v : Vote) (at_ cause : Nat) :
    ∃ c ca l la, v.void at_ cause = { v with cause := c, causeAt := ca, late := l, lateAt := la } := by
  unfold Vote.void
  split
  · split
    · exact ⟨_, _, _, _, rfl⟩
    · split <;> exact ⟨_, _, _, _, rfl⟩
  · split
    · exact ⟨_, _, _, _, rfl⟩
    · split <;> exact ⟨_, _, _, _, rfl⟩

/-- From `y` to `z` the causes of the vote alone differ. -/
def Bay.OtherCause (y z : Bay) : Prop := ∃ c ca l la, z = { y with vote := { y.vote with cause := c, causeAt := ca, late := l, lateAt := la } }

theorem Bay.OtherCause.refl (y : Bay) : y.OtherCause y := ⟨_, _, _, _, rfl⟩

theorem Bay.OtherCause.trans {x y z : Bay} (h : x.OtherCause y) (h' : y.OtherCause z) : x.OtherCause z := by
  obtain ⟨c, ca, l, la, rfl⟩ := h
  obtain ⟨c', ca', l', la', rfl⟩ := h'
  exact ⟨_, _, _, _, rfl⟩

theorem detect_bay (s : State) (b loc cause cluster kind q : Nat) : (s.detect b loc cause cluster kind).bay q = s.bay q := by
  unfold State.detect
  split <;> rfl

theorem voteVoid_bay (s : State) (b cause q : Nat) : (s.bay q).OtherCause ((s.voteVoid b cause).bay q) := by
  rw [State.voteVoid, modBay_bay]
  split
  · rename_i h
    subst h
    obtain ⟨c, ca, l, la, hv⟩ := Vote.void_eq (s.bay b).vote (s.bay b).cycle cause
    exact ⟨c, ca, l, la, by rw [hv]⟩
  · exact .refl _

theorem voteVoid_baysAlone (s : State) (b cause : Nat) : BaysAlone [b] s (s.voteVoid b cause) := fun q hq => by
  rw [State.voteVoid, modBay_bay, if_neg fun e => hq (by simp [e])]

@[simp] theorem hwSet_bay (s : State) (r : RegId) (f : Reg → Reg) (b : Nat) : (s.hwSet r f).bay b = s.bay b := rfl
@[simp] theorem count_bay (s : State) (r : RegId) (n b : Nat) : (s.count r n).bay b = s.bay b := rfl

theorem chkMismatch_bay (s : State) (u tile index : Nat) (row hem : Bool) (q : Nat) :
    (s.bay q).OtherCause ((s.chkMismatch u tile index row hem).bay q) := by
  rw [State.chkMismatch, detect_bay]
  refine (?_ : Bay.OtherCause _ _).trans (voteVoid_bay _ _ _ q)
  rw [raiseBay_bay, count_bay, hwSet_bay, hwSet_bay]
  exact .refl _

theorem chkMismatch_baysAlone (s : State) (u tile index : Nat) (row hem : Bool) : BaysAlone [bayOfCu u] s (s.chkMismatch u tile index row hem) :=
  fun q hq => by
    rw [State.chkMismatch, detect_bay, voteVoid_baysAlone _ _ _ q hq, raiseBay_bay, count_bay, hwSet_bay, hwSet_bay]

/-- A failed check tile changes its bay's causes alone. -/
theorem hemTile_bay (s : State) (b : Nat) (bad : List Nat) (q : Nat) : (s.bay q).OtherCause ((s.hemTile b bad).bay q) :=
  foldl_keeps (P := fun x : State => (s.bay q).OtherCause (x.bay q)) (.refl _) fun x u _ h => h.trans (chkMismatch_bay x u 0 0 false true q)

theorem hemTile_baysAlone (s : State) (b : Nat) (bad : List Nat) : BaysAlone [b] s (s.hemTile b bad) :=
  foldl_keeps (P := BaysAlone [b] s) (fun _ _ => rfl) fun x u hu h q hq => by
    obtain ⟨-, hb⟩ := List.mem_filter.1 hu
    rw [chkMismatch_baysAlone x u 0 0 false true q (by rwa [beq_iff_eq.1 hb]), h q hq]

theorem hemTileEnd_of_none {s : State} {b : Nat} (h : (s.bay b).hem.tile = none) : s.hemTileEnd b = s := by
  simp only [State.hemTileEnd, h]

/-- The end of the check tile leaves a bay all but its causes and the tile. -/
theorem hemTileEnd_bay (s : State) (b : Nat) : BaysAlone [b] s (s.hemTileEnd b) ∧
    ∃ x, { s.bay b with hem := { (s.bay b).hem with tile := x } }.OtherCause ((s.hemTileEnd b).bay b) := by
  unfold State.hemTileEnd
  dsimp only
  split
  · split
    · refine ⟨fun q hq => ?_, none, ?_⟩
      · rw [hemTile_baysAlone _ b _ q hq, modBay_bay, if_neg fun e => hq (by simp [e])]
      · refine (?_ : Bay.OtherCause _ _).trans (hemTile_bay _ b _ b)
        rw [modBay_bay, if_pos rfl]
        exact .refl _
    · exact ⟨fun _ _ => rfl, _, .refl _⟩
  · exact ⟨fun _ _ => rfl, _, .refl _⟩

theorem hemTime_baysAlone (s : State) (b t : Nat) : BaysAlone [b] s (s.hemTime b t) := fun q hq => by
  rw [State.hemTime, (hemTileEnd_bay _ b).1 q hq, bayTime_baysAlone s b t q hq]

/-- What the time of a hem command leaves of its bay. -/
theorem hemTime_bay (s : State) (b t : Nat) : ∃ cy up g h c ca l la, (s.hemTime b t).bay b = { s.bay b with
    cycle := cy, upCycles := up, gov := g, hem := h, vote := { (s.bay b).vote with cause := c, causeAt := ca, late := l, lateAt := la } } := by
  obtain ⟨cy, up, g, hbay⟩ := bayTime_bay s b t b
  obtain ⟨x, c, ca, l, la, hend⟩ := (hemTileEnd_bay (s.bayTime b t) b).2
  rw [State.hemTime, hend, hbay]
  exact ⟨_, _, _, _, _, _, _, _, rfl⟩

theorem kept_atHemTime (s : State) (b t : Nat) : Kept [.regs, .bays, .evt, .rel] s (s.hemTime b t) := kept_hemTime (List.Subset.refl _) (Kept.refl _ s)

/-- A bay whose check tile is over, or that has none, keeps its vote. -/
theorem hemTime_vote {s : State} {b : Nat} (t : Nat) (h : (s.bay b).hem.tile = none) : ((s.hemTime b t).bay b).vote = (s.bay b).vote := by
  obtain ⟨cy, up, g, hbay⟩ := bayTime_bay s b t b
  rw [State.hemTime, hemTileEnd_of_none (by rw [hbay]; exact h), hbay]

/-! ### A bay freezes its vote (R38, R45) -/

/-- The vote line of a bay: 1 clean, 2 void with the first cause, 0 missing (R45). -/
def Bay.voteLine (y : Bay) : Nat × Nat := if y.vote.missing then (0, 0) else if y.vote.cause = 0 then (1, 0) else (2, y.vote.cause)

theorem setVote_votes (s : State) (v code cause w : Nat) :
    Assoc.find? (s.setVote v code cause).stitch.votes w = if v = w then some (code, if code = 2 then cause else 0) else Assoc.find? s.stitch.votes w := by
  rw [State.setVote, modStitch_stitch, Assoc.find?_set]

/-- R45: a bay in the last cycles before its commit phase fixes its vote. -/
theorem freezeBay_of_due {s : State} {b : Nat} (hp : (s.bay b).power = .active) (hi : (s.bay b).inStitch = true)
    (hc : (s.bay b).c ≤ (s.bay b).cycle + (s.bay b).k + freezeLead (s.mhz b)) :
    s.freezeBay b = s.fixVote b (s.bay b).voteLine.1 (s.bay b).vote.cause := by
  simp only [State.freezeBay, hp, hi, hc, and_self, if_true, Bay.voteLine]
  congr 1
  split
  · rfl
  · split <;> rfl

theorem voteFreeze_bay {s : State} {b : Nat} (hb : b < 192) (hs : s.stitch.session = true) (hph : s.stitch.phase = .before)
    (hv : Assoc.find? s.stitch.votes b = none) : s.voteFreeze b = s.freezeBay b := by
  simp [State.voteFreeze, hs, hph, hv, hb]

theorem fixVote_votes (s : State) (b v : Nat) : Assoc.find? (s.fixVote b (s.bay b).voteLine.1 (s.bay b).vote.cause).stitch.votes v =
    if b = v then some (s.bay b).voteLine else Assoc.find? s.stitch.votes v := by
  rw [State.fixVote, modBay_stitch, setVote_votes]
  congr 2
  unfold Bay.voteLine
  split
  · rfl
  · split <;> rfl

theorem voteLine_clean (y : Bay) : decide (y.voteLine.1 = 1) = (!y.vote.missing && decide (y.vote.cause = 0)) := by
  unfold Bay.voteLine
  cases y.vote.missing
  · by_cases h : y.vote.cause = 0 <;> simp [h]
  · rfl

theorem bay_votes {t b : Nat} {s : State} (hb : b < 192) (hs : s.stitch.session = true) (hph : s.stitch.phase = .before)
    (hv : Assoc.find? s.stitch.votes b = none) (hp : (s.bay b).power = .active) (hi : (s.bay b).inStitch = true)
    (hc : (s.bay b).c ≤ ((s.hemTime b t).bay b).cycle + (s.bay b).k + freezeLead (s.mhz b)) : Completes (exec (.voteFreeze t b) s) fun r =>
      Assoc.find? r.stitch.votes b = some (if (s.bay b).vote.missing then (0, 0) else if ((s.hemTime b t).bay b).vote.cause = 0 then (1, 0)
        else (2, ((s.hemTime b t).bay b).vote.cause)) ∧ ((s.bay b).hem.tile = none → ((s.hemTime b t).bay b).vote = (s.bay b).vote) ∧
      (r.bay b).vote.lastClean = (!(s.bay b).vote.missing && decide (((s.hemTime b t).bay b).vote.cause = 0)) ∧
      (r.bay b).vote.frozen = true ∧ (r.bay b).modes.fixedAcks = (s.bay b).modes.acks ∧
      (∀ v, v ≠ b → Assoc.find? r.stitch.votes v = Assoc.find? s.stitch.votes v) ∧ BaysAlone [b] s r ∧ Touches [.regs, .stitch, .bays, .evt, .rel] s r := by
  obtain ⟨cy, up, g, h, c, ca, l, la, hbay⟩ := hemTime_bay s b t
  have hkept := kept_atHemTime s b t
  have hstitch : (s.hemTime b t).stitch = s.stitch := hkept.eq_stitch (by decide)
  have hmissing : ((s.hemTime b t).bay b).vote.missing = (s.bay b).vote.missing := by rw [hbay]
  have hdue : ((s.hemTime b t).bay b).c ≤ ((s.hemTime b t).bay b).cycle + ((s.hemTime b t).bay b).k + freezeLead ((s.hemTime b t).mhz b) := by
    rw [State.mhz]
    rw [hbay] at hc ⊢
    exact hc
  have hfreeze : (s.hemTime b t).voteFreeze b = _ := (voteFreeze_bay hb (by rwa [hstitch]) (by rwa [hstitch]) (by rwa [hstitch])).trans
    (freezeBay_of_due (by rw [hbay]; exact hp) (by rw [hbay]; exact hi) hdue)
  have hexec : exec (.voteFreeze t b) s = .next ((s.hemTime b t).voteFreeze b) :=
    congrArg (fun x : State => Host.Outcome.next (x.voteFreeze b)) (if_pos hb)
  refine ⟨_, hexec.trans (congrArg _ hfreeze), ?_, hemTime_vote t, ?_, ?_, ?_, fun v hne => ?_, fun q hq => ?_, ?_⟩
  · rw [fixVote_votes, if_pos rfl, Bay.voteLine, hmissing]
  · rw [State.fixVote, modBay_bay, if_pos rfl, ← hmissing]
    exact voteLine_clean _
  · rw [State.fixVote, modBay_bay, if_pos rfl]
  · rw [State.fixVote, modBay_bay, if_pos rfl, State.setVote, modStitch_bay, hbay]
  · rw [fixVote_votes, if_neg (Ne.symm hne), hstitch]
  · rw [State.fixVote, modBay_bay, if_neg fun e => hq (by simp [e]), State.setVote, modStitch_bay, hemTime_baysAlone s b t q hq]
  · exact (kept_fixVote (by decide) (kept_hemTime (by decide) (Kept.refl _ s))).touches

/-! ### The other voters freeze (R45, R354) -/

/-- A controller or site of an open stitch freezes its vote from 164 ns before the end on. -/
theorem voteFreeze_of_master {s : State} {v : Nat} (hlo : 192 ≤ v) (hs : s.stitch.session = true) (hph : s.stitch.phase = .before)
    (hv : Assoc.find? s.stitch.votes v = none) (hf : s.stitch.len ≤ s.clk.ns + 164) : s.voteFreeze v =
      if v < 216 then (s.stackCorrected (v - 192)).setVote v (if s.hbm.voids.get 0 (v - 192) = 0 then 1 else 2) (s.hbm.voids.get 0 (v - 192))
      else if v < 312 then s.freezeSite (v - 216) else s := by
  simp [State.voteFreeze, State.masterFreeze, hs, hph, hv, Nat.not_lt.2 hlo, hf]

theorem masterTime_exportsOpen (s : State) (t x : Nat) : (s.masterTime t).exportsOpen x = s.exportsOpen x := by
  unfold State.masterTime
  split <;> rfl

theorem siteCorrected_void (s : State) (x : Nat) : ((s.siteCorrected x).site x).void = (s.site x).void := by
  unfold State.siteCorrected
  split
  · rw [modSite_site, if_pos rfl, raise_site]
  · rfl

/-- R354: a site with an export whose last flit has not been sent charges itself cause 0x1; a site without keeps its void. -/
theorem freezeSite_eq {s : State} {x : Nat} (hv : Assoc.find? s.stitch.votes (216 + x) = none) : ∃ r : State, Kept [.regs, .evt, .sites] s r ∧
    s.freezeSite x = r.setVote (216 + x) (if !(s.site x).up then 0 else if (r.site x).void = 0 then 1 else 2) (r.site x).void ∧
    ((s.site x).void = 0 → (r.site x).void = if s.exportsOpen x = 0 then 0 else 1) := by
  by_cases hn : s.exportsOpen x = 0
  · refine ⟨s.siteCorrected x, kept_siteCorrected (by decide) (Kept.refl _ s), ?_, fun h0 => ?_⟩
    · simp only [State.freezeSite, hn, if_true]
    · rw [siteCorrected_void, if_pos hn, h0]
  · have hvoid : (((s.modSite x fun y => { y with exports := [] }).voidSite x 1).site x).void = if (s.site x).void = 0 then 1 else (s.site x).void := by
      simp [State.voidSite, hv]
    refine ⟨(((s.modSite x fun y => { y with exports := [] }).voidSite x 1).count (.opt x .exportLate) (s.exportsOpen x)).siteCorrected x, ?_, ?_, fun h0 => ?_⟩
    · exact kept_siteCorrected (by decide) (kept_count (by decide) (kept_voidSite (by decide) (kept_modSite (by decide) (Kept.refl _ s))))
    · simp only [State.freezeSite, hn, if_false]
    · rw [siteCorrected_void, if_neg hn]
      exact hvoid.trans (if_pos h0)

theorem master_votes {t v : Nat} {s : State} (hlo : 192 ≤ v) (hhi : v < 312) (hs : s.stitch.session = true) (hph : s.stitch.phase = .before)
    (hv : Assoc.find? s.stitch.votes v = none) (hf : s.stitch.len ≤ (s.masterTime t).clk.ns + 164) : Completes (exec (.voteFreeze t v) s) fun r =>
      (v < 216 → Assoc.find? r.stitch.votes v = some (if s.hbm.voids.get 0 (v - 192) = 0 then (1, 0) else (2, s.hbm.voids.get 0 (v - 192)))) ∧
      (216 ≤ v → (s.site (v - 216)).up = false → Assoc.find? r.stitch.votes v = some (0, 0)) ∧
      (216 ≤ v → (s.site (v - 216)).up = true → (s.site (v - 216)).void = 0 →
        Assoc.find? r.stitch.votes v = some (if s.exportsOpen (v - 216) = 0 then (1, 0) else (2, 1))) ∧ Touches [.clk, .regs, .stitch, .sites, .evt, .hbm] s r := by
  have hexec : exec (.voteFreeze t v) s = .next ((s.masterTime t).voteFreeze v) :=
    congrArg (fun x : State => Host.Outcome.next (x.voteFreeze v)) (if_neg (by omega))
  have hfreeze := voteFreeze_of_master (s := s.masterTime t) hlo (by rwa [masterTime_stitch]) (by rwa [masterTime_stitch]) (by rwa [masterTime_stitch])
    (by rwa [masterTime_stitch])
  rw [masterTime_hbm] at hfreeze
  by_cases hstack : v < 216
  · rw [if_pos hstack] at hfreeze
    refine ⟨_, hexec.trans (congrArg _ hfreeze), fun _ => ?_, fun h => absurd h (by omega), fun h => absurd h (by omega), ?_⟩
    · rw [setVote_votes, if_pos rfl]
      split <;> rfl
    · exact (kept_setVote (by decide) (kept_stackCorrected (by decide) (kept_atMasterTime s t (by decide)))).touches
  · rw [if_neg hstack, if_pos hhi] at hfreeze
    have hsite : 216 + (v - 216) = v := by omega
    have hopen : Assoc.find? (s.masterTime t).stitch.votes (216 + (v - 216)) = none := by rw [masterTime_stitch, hsite, hv]
    obtain ⟨r, hr, heq, hvoid⟩ := freezeSite_eq hopen
    rw [heq, hsite, masterTime_site] at hfreeze
    rw [masterTime_exportsOpen, masterTime_site] at hvoid
    refine ⟨_, hexec.trans (congrArg _ hfreeze), fun h => absurd h hstack, fun _ hup => ?_, fun _ hup h0 => ?_, ?_⟩
    · rw [setVote_votes, if_pos rfl, hup]
      rfl
    · rw [setVote_votes, if_pos rfl, hup, hvoid h0]
      by_cases hn : s.exportsOpen (v - 216) = 0 <;> simp [hn]
    · exact (kept_setVote (by decide) ((kept_atMasterTime s t (by decide)).trans (hr.mono (by decide)))).touches

/-! ### The next sequence mask (R55) -/

/-- The mask that the hem broadcasts: the context's, without the slots that have left it, with those that the consumed entries admit. -/
theorem maskBroadcast_of_hem {s : State} {c : Ctx} (hc : s.ctx? s.active = some c) (hs : s.stitch.session = true) (hk : s.stitch.kind = .work)
    (hph : s.stitch.phase = .before) (hm : s.masterHem = true) : s.maskBroadcast = (s.admissions c true).2.modStitch fun k => { k with
      admits := (s.admissions c true).1, maskNext := some ((c.mask &&& ~~~k.exits) ||| slotBits ((s.admissions c true).1.map Prod.fst)) } := by
  simp [State.maskBroadcast, hc, hs, hk, hph, hm]

theorem mask_broadcasts {t : Nat} {c : Ctx} {s : State} (hc : s.ctx? s.active = some c) (hs : s.stitch.session = true) (hk : s.stitch.kind = .work)
    (hph : s.stitch.phase = .before) (hm : (s.masterTime t).masterHem = true) : Completes (exec (.seqMaskBroadcast t) s) fun r =>
      r.stitch.admits = ((s.masterTime t).admissions c true).1 ∧
      r.stitch.maskNext = some ((c.mask &&& ~~~s.stitch.exits) ||| slotBits (((s.masterTime t).admissions c true).1.map Prod.fst)) ∧ r.ctxs = s.ctxs ∧
      Touches [.clk, .stitch, .free, .regs, .evt, .hbm, .rel] s r := by
  have hcast := maskBroadcast_of_hem (s := s.masterTime t) (c := c) (by rwa [masterTime_active, masterTime_ctx]) (by rwa [masterTime_stitch])
    (by rwa [masterTime_stitch]) (by rwa [masterTime_stitch]) hm
  have hkept : Kept [.free, .regs, .evt, .hbm, .rel] (s.masterTime t) ((s.masterTime t).admissions c true).2 :=
    kept_admissions (List.Subset.refl _) (Kept.refl _ _)
  refine ⟨_, congrArg Host.Outcome.next hcast, rfl, ?_, ?_, ?_⟩
  · rw [modStitch_stitch, hkept.eq_stitch (by decide), masterTime_stitch]
  · rw [modStitch_ctxs, hkept.eq_ctxs (by decide), masterTime_ctxs]
  · exact (kept_modStitch (by decide) ((kept_atMasterTime s t (by decide)).trans (hkept.mono (by decide)))).touches

/-- Settles O21: a bay's freeze, the other voters' and the mask broadcast. -/
theorem votesFreeze : Obligations.VotesFreeze := by
  refine ⟨?_, ?_, ?_⟩
  · rintro t b s m rfl hb hs hph hv hp hi hc
    exact bay_votes hb hs hph hv hp hi hc
  · rintro t v s m rfl hlo hhi hs hph hv hf
    exact master_votes hlo hhi hs hph hv hf
  · rintro t c s m rfl hc hs hk hph hm
    exact mask_broadcasts hc hs hk hph hm

end Sys2Proof.Machine

/-! PROOF. Family 02_stitch_execution: commit sampling (O22). -/

namespace Sys2Proof.Machine

/-! ### What the loss of a bay leaves of the stitch (R379, R419, R420) -/

/-- From `s` to `t`, of the stitch the votes and the time master's own void alone may differ, the latter not once the stitch has voided;
its registers are the same. -/
structure LossLeaves (s t : State) : Prop where
  stitch : ∃ v h, t.stitch = { s.stitch with votes := v, hostVoid := h } ∧ (s.stitch.decision = some .void → h = s.stitch.hostVoid)
  reg : ∀ r, t.reg (.stitch r) = s.reg (.stitch r)

theorem LossLeaves.of_eq {s t : State} (h : t.stitch = s.stitch) (hr : ∀ r, t.reg (.stitch r) = s.reg (.stitch r)) : LossLeaves s t :=
  ⟨⟨_, _, h, fun _ => rfl⟩, hr⟩

theorem LossLeaves.refl (s : State) : LossLeaves s s := .of_eq rfl fun _ => rfl

theorem LossLeaves.trans {s t r : State} (h : LossLeaves s t) (h' : LossLeaves t r) : LossLeaves s r := by
  obtain ⟨⟨v, hv, hs, hd⟩, hr⟩ := h
  obtain ⟨⟨v', hv', hs', hd'⟩, hr'⟩ := h'
  rw [hs] at hs' hd'
  exact ⟨⟨v', hv', hs', fun h => (hd' h).trans (hd h)⟩, fun q => (hr' q).trans (hr q)⟩

section

variable {a s : State}

/-- What touches neither the stitch nor registers. -/
theorem LossLeaves.kept {l : List Comp} {t : State} (h : LossLeaves a s) (hk : Kept l s t) (hs : .stitch ∉ l) (hr : .regs ∉ l) : LossLeaves a t :=
  h.trans (.of_eq (hk.eq_stitch hs) fun _ => hk.eq_reg hr _)

theorem LossLeaves.setReg {id : RegId} (h : LossLeaves a s) (v : Reg) (hid : ∀ r, id ≠ .stitch r := by simp) : LossLeaves a (s.setReg id v) :=
  h.trans (.of_eq rfl fun _ => by rw [setReg_reg, if_neg (hid _)])

theorem LossLeaves.count {id : RegId} (h : LossLeaves a s) (n : Nat) (hid : ∀ r, id ≠ .stitch r := by simp) : LossLeaves a (s.count id n) :=
  h.trans (.of_eq rfl fun _ => by rw [count_reg, if_neg (hid _)])

theorem LossLeaves.raise (h : LossLeaves a s) (src k w0 w1 w2 w3 : Nat) : LossLeaves a (s.raise src k w0 w1 w2 w3) :=
  h.trans (.of_eq rfl fun _ => rfl)

theorem LossLeaves.lossVoid (h : LossLeaves a s) : LossLeaves a s.lossVoid := by
  unfold State.lossVoid
  split
  · rename_i hv
    exact h.trans ⟨⟨_, _, rfl, fun hd => absurd hd hv.2⟩, fun _ => rfl⟩
  · exact h

theorem LossLeaves.failCtx (h : LossLeaves a s) (k : Nat) (f : FaultPlace) : LossLeaves a (s.failCtx k f) := by
  unfold State.failCtx
  split
  · exact h
  · split
    · exact h
    · have hhalt : LossLeaves a (s.lossVoid.haltCtx k true) :=
        h.lossVoid.kept (kept_haltCtx (List.Subset.refl _) (Kept.refl _ _)) (by decide) (by decide)
      refine .kept ?_ (kept_fatalNotice (List.Subset.refl _) (Kept.refl _ _)) (by decide) (by decide)
      exact .setReg (.setReg (.setReg (.setReg hhalt _) _) _) _

theorem LossLeaves.failCtxs (h : LossLeaves a s) (p : Ctx → Bool) (f : FaultPlace) : LossLeaves a (s.failCtxs p f) := by
  refine foldl_keeps (P := LossLeaves a) h fun x k _ h => ?_
  split
  · split
    · exact h.failCtx k f
    · exact h
  · exact h

theorem find?_filter_of {κ α : Type} [DecidableEq κ] (m : Assoc κ α) {p : κ → Bool} {q : κ} (h : p q = true) :
    Assoc.find? (m.filter fun e => p e.1) q = Assoc.find? m q := by
  induction m with
  | nil => rfl
  | cons e rest ih =>
    obtain ⟨k, v⟩ := e
    by_cases hk : k = q
    · subst hk
      simp [h, Assoc.find?]
    · cases hp : p k <;> simp [hp, Assoc.find?, hk, ih]

/-- A register that is not dropped keeps its value. -/
theorem dropRegs_reg (s : State) {p : RegId → Bool} {id : RegId} (h : p id = false) : (s.dropRegs p).reg id = s.reg id := by
  rw [State.reg, State.reg, State.dropRegs, Assoc.get, Assoc.get]
  exact congrArg (Option.getD · _) (find?_filter_of s.regs (p := fun id => !p id) (by rw [h]; rfl))

theorem wipeBay_regs (s : State) (b : Nat) : (s.wipeBay b).regs = (s.dropRegs (inBay b)).regs := rfl

theorem LossLeaves.wipeBay (h : LossLeaves a s) (b : Nat) : LossLeaves a (s.wipeBay b) := by
  refine h.trans (.of_eq rfl fun r => ?_)
  rw [State.reg, wipeBay_regs]
  exact dropRegs_reg s rfl

theorem LossLeaves.voteMissing (h : LossLeaves a s) (b : Nat) : LossLeaves a (s.voteMissing b) := by
  unfold State.voteMissing
  dsimp only
  split
  · exact h.trans ⟨⟨_, _, rfl, fun _ => rfl⟩, fun _ => rfl⟩
  · exact h.trans (.of_eq rfl fun _ => rfl)

theorem LossLeaves.modBay (h : LossLeaves a s) (b : Nat) (f : Bay → Bay) : LossLeaves a (s.modBay b f) := h.trans (.of_eq rfl fun _ => rfl)
theorem LossLeaves.modPanel (h : LossLeaves a s) (p : Nat) (f : Panel → Panel) : LossLeaves a (s.modPanel p f) := h.trans (.of_eq rfl fun _ => rfl)

theorem LossLeaves.darken (h : LossLeaves a s) (b : Nat) : LossLeaves a (s.darken b) := by
  unfold State.darken
  exact .modPanel (.voteMissing (.modBay (h.wipeBay b) _ _) _) _ _

theorem LossLeaves.inventoryAgain (h : LossLeaves a s) : LossLeaves a s.inventoryAgain := by
  unfold State.inventoryAgain
  split
  · unfold State.announce
    exact .raise (foldl_keeps (P := LossLeaves a) h fun x i _ h => h.setReg _) _ _ _ _ _ _
  · exact h

theorem LossLeaves.loseBay (h : LossLeaves a s) (b code : Nat) (f : FaultPlace) : LossLeaves a (s.loseBay b code f) := by
  unfold State.loseBay State.unavailable
  exact .inventoryAgain (.failCtxs (.raise (h.darken b) _ _ _ _ _ _) _ _)

/-! ### Detections are classified (R409) -/

theorem LossLeaves.ledgerAppend (h : LossLeaves a s) (b ly pc source stitch : Nat) : LossLeaves a (s.ledgerAppend b ly pc source stitch) :=
  h.kept (kept_ledgerAppend (List.Subset.refl _) (Kept.refl _ s)) (by decide) (by decide)

theorem LossLeaves.setRel (h : LossLeaves a s) (x : Rel) : LossLeaves a { s with rel := x } := h.trans (.of_eq rfl fun _ => rfl)

theorem LossLeaves.takeDarns (h : LossLeaves a s) (l : List Nat) : LossLeaves a (s.takeDarns l) := by
  induction l generalizing s with
  | nil => exact h.setRel _
  | cons c rest ih =>
    unfold State.takeDarns
    dsimp only
    split
    · exact ih h
    · split
      · exact (h.setRel _).ledgerAppend _ _ _ _ _
      · exact ih (((h.setRel _).ledgerAppend _ _ _ _ _).loseBay _ _ _)

theorem LossLeaves.permanent (h : LossLeaves a s) (c : Nat) : LossLeaves a (s.permanent c) := by
  unfold State.permanent
  split
  · exact h
  · dsimp only
    split
    · exact h.setRel _
    · exact (h.setRel _).takeDarns _

theorem LossLeaves.classify (h : LossLeaves a s) (d : Detection) (permanent : Bool) : LossLeaves a (s.classify d permanent) := by
  have hcount : LossLeaves a ((s.raise 368 0x31 d.loc (b2n permanent) d.cause 0).count (.rel (if permanent then .permanent else .transient)) 1) :=
    (h.raise _ _ _ _ _ _).count _
  unfold State.classify
  dsimp only
  split
  · exact hcount.permanent _
  · exact hcount

theorem LossLeaves.classifyAll (h : LossLeaves a s) (clean : Bool) : LossLeaves a (s.classifyAll clean) := by
  unfold State.classifyAll
  split
  · exact h
  · exact foldl_keeps (P := LossLeaves a) (h.setRel _) fun x d _ h => h.classify d _

end

/-! ### The decision (R43, R45, R48) -/

section

variable {s : State}

theorem voteOf_of_clean {v : Nat} (h : Assoc.get (0, 0) s.stitch.votes v = (1, 0)) : (s.voteOf v).1 = 1 := by
  rw [State.voteOf, h]
  rfl

theorem voteOf_of_notClean {v : Nat} (h : (Assoc.get (0, 0) s.stitch.votes v).1 ≠ 1) : (s.voteOf v).1 ≠ 1 := by
  unfold State.voteOf
  dsimp only
  rw [if_neg h]
  split <;> simp

theorem firstVoid_of_clean (h : ∀ v, v < 312 → s.voterIn v = true → Assoc.get (0, 0) s.stitch.votes v = (1, 0)) : s.firstVoid = none := by
  refine List.findSome?_eq_none_iff.2 fun v hv => if_neg fun hn => ?_
  obtain ⟨hin, hvote⟩ := Bool.and_eq_true_iff.1 hn
  rw [voteOf_of_clean (h v (List.mem_range.1 hv) hin)] at hvote
  cases hvote

/-- Every voter is clean: no cause is left but the supplies' and the host's. -/
theorem voidCause_of_clean (h : ∀ v, v < 312 → s.voterIn v = true → Assoc.get (0, 0) s.stitch.votes v = (1, 0)) :
    s.voidCause = if s.stitch.supplyVoid then some (0x1FF, 0xA) else if s.stitch.hostVoid then some (0x1FF, 8) else none := by
  rw [State.voidCause, firstVoid_of_clean h]

theorem voidCause_of_void {v : Nat} (hv : v < 312) (hin : s.voterIn v = true) (h : (Assoc.get (0, 0) s.stitch.votes v).1 ≠ 1) :
    ∃ x, s.voidCause = some x := by
  have hfirst : s.firstVoid ≠ none := fun hn => by
    have hnone := List.findSome?_eq_none_iff.1 hn v (List.mem_range.2 hv)
    rw [hin, Bool.true_and, if_pos (by simpa using voteOf_of_notClean h)] at hnone
    cases hnone
  obtain ⟨x, hx⟩ := Option.ne_none_iff_exists'.1 hfirst
  exact ⟨x, by rw [State.voidCause, hx]⟩

/-- What the sampling looks at: queue pointers and in-forwards latched. -/
def State.latchedAll (s : State) : State := { s.latchQueues with hsync := { s.latchQueues.hsync with sampled := s.latchQueues.hsync.inForwards.length } }

theorem kept_latchedAll (s : State) : Kept [.host, .hsync] s s.latchedAll :=
  (kept_latchQueues (l := [.host, .hsync]) (by decide) (Kept.refl _ s)).upd rfl rfl rfl fun k hk => by
    cases k
    case hsync => exact absurd hk (by decide)
    case regs => exact ⟨rfl, rfl⟩
    all_goals exact rfl

theorem latchedAll_sampled (s : State) : s.latchedAll.hsync.sampled = s.hsync.inForwards.length := by
  have hkept : Kept [.host] s s.latchQueues := kept_latchQueues (List.Subset.refl _) (Kept.refl _ s)
  exact congrArg (fun x : HSync => x.inForwards.length) (hkept.eq_hsync (by decide))

theorem voidCause_congr {r : State} (h : r.stitch = s.stitch) : r.voidCause = s.voidCause := by
  have hvoter : r.voterIn = s.voterIn := funext fun v => by rw [State.voterIn, State.voterIn, h]
  have hvote : r.voteOf = s.voteOf := funext fun v => by rw [State.voteOf, State.voteOf, h]
  have hfirst : r.firstVoid = s.firstVoid := by rw [State.firstVoid, State.firstVoid, hvoter, hvote]
  rw [State.voidCause, State.voidCause, hfirst, h]

/-- The stitch is sampled; commanded voids are over. -/
def Stitch.toSampled (k : Stitch) : Stitch := { k with hostVoid := false, supplyVoid := false, phase := .sampled }

theorem Stitch.toSampled_of_quiet {k : Stitch} (d : Option Decision) (hh : k.hostVoid = false) (hs : k.supplyVoid = false) :
    Stitch.toSampled { k with decision := d } = { k with decision := d, phase := .sampled } := by
  cases k
  cases hh
  cases hs
  rfl

theorem commitSampling_of_due (hs : s.stitch.session = true) (hph : s.stitch.phase = .before) (ht : s.stitch.len ≤ s.clk.ns + 96) :
    s.commitSampling = (s.latchedAll.decide_.modStitch Stitch.toSampled).classifyAll s.voidCause.isNone := by
  rw [← voidCause_congr (r := s.latchedAll) ((kept_latchedAll s).eq_stitch (by decide))]
  simp only [State.commitSampling, hs, hph, Nat.not_lt.2 ht, Bool.not_true, Bool.false_eq_true, ne_eq, not_true_eq_false, or_self, if_false]
  rfl

theorem classifyAll_of_idle (clean : Bool) (h : s.stitch.kind ≠ .work) : s.classifyAll clean = s := if_pos h

/-- A clean work stitch commits, and the streak is over. -/
theorem decide_of_clean_work (h : s.voidCause = none) (hk : s.stitch.kind = .work) :
    s.decide_ = s.modStitch fun k => { k with decision := some (.commit s.applyList), streak := 0, lastReplayed := false } := by
  rw [State.decide_, h]
  exact if_pos hk

/-- Any other clean stitch is idle-clean. -/
theorem decide_of_clean_idle (h : s.voidCause = none) (hk : s.stitch.kind ≠ .work) :
    s.decide_ = s.modStitch fun k => { k with decision := some .idleClean } := by
  rw [State.decide_, h]
  exact if_neg hk

theorem decide_of_void {v cause : Nat} (h : s.voidCause = some (v, cause)) :
    s.decide_ = (s.modStitch fun k => { k with decision := some .void }).recordVoid v cause := by
  rw [State.decide_, h]

/-- The void on record: its voter, its cause, and one void more. -/
def State.voidCounted (s : State) (v cause : Nat) : State :=
  (s.setReg (.stitch .lastVoid) (regOf (cause * 2 ^ 28 + v * 2 ^ 16 + s.stitchLo 16))).count (.stitch .voidCount) 1

theorem recordVoid_of_idle (v cause : Nat) (h : s.stitch.kind ≠ .work) : s.recordVoid v cause = s.voidCounted v cause := if_pos h

theorem voidCounted_stitch (s : State) (v cause : Nat) : (s.voidCounted v cause).stitch = s.stitch := rfl

def State.streakLonger (s : State) : State := s.modStitch fun k => { k with streak := min (k.streak + 1) 31, lastReplayed := true }

theorem recordVoid_of_work (v cause : Nat) (h : s.stitch.kind = .work) : s.recordVoid v cause =
    if (s.voidCounted v cause).streakLonger.regN (.stitch .replay) % 16 < min (s.stitch.streak + 1) 31
      then (s.voidCounted v cause).streakLonger.haltCtx (s.voidCounted v cause).streakLonger.active false
      else (s.voidCounted v cause).streakLonger := by
  rw [State.recordVoid]
  exact if_neg (not_not.2 h)

/-- R43: a void is recorded and counted; that of a work stitch lengthens the streak, whether or not it halts the context. -/
theorem recordVoid_eq (s : State) (v cause : Nat) : (s.recordVoid v cause).stitch =
      (if s.stitch.kind = .work then { s.stitch with streak := min (s.stitch.streak + 1) 31, lastReplayed := true } else s.stitch) ∧
    ∀ r, (s.recordVoid v cause).reg (.stitch r) = (s.voidCounted v cause).reg (.stitch r) := by
  by_cases hk : s.stitch.kind = .work
  · have hlong : (s.voidCounted v cause).streakLonger.stitch = { s.stitch with streak := min (s.stitch.streak + 1) 31, lastReplayed := true } := by
      rw [State.streakLonger, modStitch_stitch, voidCounted_stitch]
    have hhalt (x : State) (k : Nat) : Kept [.ctxs, .evt] x (x.haltCtx k false) := kept_haltCtx (List.Subset.refl _) (Kept.refl _ _)
    rw [if_pos hk, recordVoid_of_work v cause hk]
    split
    · exact ⟨((hhalt _ _).eq_stitch (by decide)).trans hlong, fun _ => by rw [(hhalt _ _).eq_reg (by decide), State.streakLonger, modStitch_reg]⟩
    · exact ⟨hlong, fun _ => by rw [State.streakLonger, modStitch_reg]⟩
  · refine ⟨?_, fun _ => ?_⟩
    · rw [recordVoid_of_idle v cause hk, if_neg hk, voidCounted_stitch]
    · rw [recordVoid_of_idle v cause hk]

theorem voidCounted_reg (s : State) (v cause : Nat) :
    (s.voidCounted v cause).reg (.stitch .voidCount) = satReg (s.reg (.stitch .voidCount)) 1 ∧
    (s.voidCounted v cause).reg (.stitch .lastVoid) = regOf (cause * 2 ^ 28 + v * 2 ^ 16 + s.stitchLo 16) := by
  simp [State.voidCounted]

/-- What the sampling of a stitch that voids leaves of it. -/
theorem commitSampling_void {v cause : Nat} (hs : s.stitch.session = true) (hph : s.stitch.phase = .before) (ht : s.stitch.len ≤ s.clk.ns + 96)
    (h : s.voidCause = some (v, cause)) : (∃ l, s.commitSampling.stitch = { s.stitch with
        votes := l, decision := some .void, phase := .sampled, hostVoid := false, supplyVoid := false
        streak := if s.stitch.kind = .work then min (s.stitch.streak + 1) 31 else s.stitch.streak
        lastReplayed := if s.stitch.kind = .work then true else s.stitch.lastReplayed }) ∧
      s.commitSampling.reg (.stitch .voidCount) = satReg (s.reg (.stitch .voidCount)) 1 ∧
      s.commitSampling.reg (.stitch .lastVoid) = regOf (cause * 2 ^ 28 + v * 2 ^ 16 + s.stitchLo 16) := by
  have hlatched := kept_latchedAll s
  have hstitch := hlatched.eq_stitch (by decide)
  obtain ⟨hrec, hreg⟩ := recordVoid_eq (s.latchedAll.modStitch fun k => { k with decision := some .void }) v cause
  have hleft := (LossLeaves.refl (s.latchedAll.decide_.modStitch Stitch.toSampled)).classifyAll s.voidCause.isNone
  rw [← commitSampling_of_due hs hph ht] at hleft
  obtain ⟨⟨l, hv, hst, hvoid⟩, hregs⟩ := hleft
  obtain ⟨hcount, hlast⟩ := voidCounted_reg (s.latchedAll.modStitch fun k => { k with decision := some .void }) v cause
  rw [decide_of_void ((voidCause_congr hstitch).trans h)] at hst hvoid hregs
  rw [modStitch_stitch, hrec, modStitch_stitch, hstitch] at hst hvoid
  refine ⟨⟨l, ?_⟩, ?_, ?_⟩
  · rw [hst]
    by_cases hk : s.stitch.kind = .work
    · simp only [hk, if_true] at hvoid ⊢
      rw [hvoid rfl]
      rfl
    · simp only [hk, if_false] at hvoid ⊢
      rw [hvoid rfl]
      rfl
  · rw [hregs, modStitch_reg, hreg, hcount, modStitch_reg, hlatched.eq_reg (by decide)]
  · rw [hregs, modStitch_reg, hreg, hlast, State.stitchLo, State.stitchLo, modStitch_stitch, hstitch]

/-- What that of a clean stitch leaves. -/
theorem commitSampling_clean (hs : s.stitch.session = true) (hph : s.stitch.phase = .before) (ht : s.stitch.len ≤ s.clk.ns + 96)
    (h : s.voidCause = none) (hk : s.stitch.kind = .work) : (∃ l v hv, s.commitSampling.stitch = { s.stitch with
        votes := v, hostVoid := hv, supplyVoid := false, decision := some (.commit l), phase := .sampled, streak := 0, lastReplayed := false }) ∧
      s.commitSampling.hsync.sampled = s.hsync.inForwards.length := by
  have hstitch := (kept_latchedAll s).eq_stitch (by decide)
  have hclean : s.latchedAll.decide_ = _ := decide_of_clean_work ((voidCause_congr hstitch).trans h) (by rwa [hstitch])
  have hleft := (LossLeaves.refl (s.latchedAll.decide_.modStitch Stitch.toSampled)).classifyAll s.voidCause.isNone
  have hkept := kept_classifyAll (clean := s.voidCause.isNone) (List.Subset.refl _) (Kept.refl _ (s.latchedAll.decide_.modStitch Stitch.toSampled))
  rw [← commitSampling_of_due hs hph ht, hclean] at hleft hkept
  obtain ⟨⟨v, hv, hst, -⟩, -⟩ := hleft
  refine ⟨⟨s.latchedAll.applyList, v, hv, ?_⟩, ?_⟩
  · rw [hst, modStitch_stitch, modStitch_stitch, hstitch]
    rfl
  · rw [hkept.eq_hsync (by decide), modStitch_hsync, modStitch_hsync, latchedAll_sampled]

/-- Of an idle or reload stitch nothing is classified. -/
theorem commitSampling_of_idle (hs : s.stitch.session = true) (hph : s.stitch.phase = .before) (ht : s.stitch.len ≤ s.clk.ns + 96)
    (hk : s.latchedAll.decide_.stitch.kind ≠ .work) : s.commitSampling = s.latchedAll.decide_.modStitch Stitch.toSampled := by
  have hsampled : (s.latchedAll.decide_.modStitch Stitch.toSampled).stitch.kind ≠ .work := hk
  rw [commitSampling_of_due hs hph ht, classifyAll_of_idle _ hsampled]

theorem commitSampling_idleClean (hs : s.stitch.session = true) (hph : s.stitch.phase = .before) (ht : s.stitch.len ≤ s.clk.ns + 96)
    (h : s.voidCause = none) (hk : s.stitch.kind ≠ .work) :
    s.commitSampling.stitch = Stitch.toSampled { s.stitch with decision := some .idleClean } ∧ Kept [.host, .hsync, .stitch] s s.commitSampling := by
  have hlatched := kept_latchedAll s
  have hstitch := hlatched.eq_stitch (by decide)
  have hdecide : s.latchedAll.decide_ = _ := decide_of_clean_idle ((voidCause_congr hstitch).trans h) (by rwa [hstitch])
  rw [commitSampling_of_idle hs hph ht (by rwa [hdecide, modStitch_stitch, hstitch]), hdecide]
  refine ⟨?_, kept_modStitch (by decide) (kept_modStitch (by decide) (hlatched.mono (by decide)))⟩
  rw [modStitch_stitch, modStitch_stitch, hstitch]

theorem commitSampling_idleVoid {v cause : Nat} (hs : s.stitch.session = true) (hph : s.stitch.phase = .before) (ht : s.stitch.len ≤ s.clk.ns + 96)
    (h : s.voidCause = some (v, cause)) (hk : s.stitch.kind ≠ .work) :
    s.commitSampling.stitch = Stitch.toSampled { s.stitch with decision := some .void } ∧ Kept [.host, .hsync, .stitch, .regs] s s.commitSampling := by
  have hlatched := kept_latchedAll s
  have hstitch := hlatched.eq_stitch (by decide)
  have hvoid : (s.latchedAll.modStitch fun k => { k with decision := some .void }).stitch.kind ≠ .work := by rwa [modStitch_stitch, hstitch]
  have hdecide : s.latchedAll.decide_ = _ := (decide_of_void ((voidCause_congr hstitch).trans h)).trans (recordVoid_of_idle v cause hvoid)
  rw [commitSampling_of_idle hs hph ht (by rwa [hdecide]), hdecide]
  refine ⟨?_, kept_modStitch (by decide) (kept_count (by decide) (kept_setReg (by decide) (kept_modStitch (by decide) (hlatched.mono (by decide)))))⟩
  rw [modStitch_stitch, voidCounted_stitch, modStitch_stitch, hstitch]

end

/-- Settles O22: the cause (`voidCause_of_clean`, `voidCause_of_void`) decides, and the sampling leaves what its decision says. -/
theorem samplingDecides : Obligations.SamplingDecides := by
  have hcause (s : State) (t : Nat) : (s.masterTime t).voidCause = s.voidCause := voidCause_congr (masterTime_stitch s t)
  refine ⟨?_, ?_, ?_, ?_, ?_⟩
  · rintro t s m rfl hs hph ht hk hv hhost hsup
    have hnone : s.voidCause = none := by rw [voidCause_of_clean hv, hsup, hhost]; rfl
    obtain ⟨⟨l, v, hv, hst⟩, hsampled⟩ := commitSampling_clean (s := s.masterTime t) (by rwa [masterTime_stitch]) (by rwa [masterTime_stitch])
      (by rwa [masterTime_stitch]) (by rwa [hcause]) (by rwa [masterTime_stitch])
    rw [masterTime_hsync] at hsampled
    refine ⟨_, rfl, ⟨l, ?_⟩, ?_, ?_, ?_, hsampled⟩
    all_goals rw [hst]
  · rintro t v s m rfl hs hph ht hk hv hin hne
    obtain ⟨⟨w, cause⟩, hsome⟩ := voidCause_of_void hv hin hne
    obtain ⟨⟨l, hst⟩, hcount, -⟩ := commitSampling_void (s := s.masterTime t) (v := w) (cause := cause) (by rwa [masterTime_stitch])
      (by rwa [masterTime_stitch]) (by rwa [masterTime_stitch]) (by rwa [hcause])
    rw [masterTime_reg] at hcount
    refine ⟨_, rfl, ?_, ?_, ?_, ?_, hcount⟩
    all_goals rw [hst]
    all_goals simp only [masterTime_stitch, hk, if_true]
  · rintro t s m rfl hs hph ht hk hv hhost hsup
    have hnone : s.voidCause = none := by rw [voidCause_of_clean hv, hsup, hhost]; rfl
    obtain ⟨hst, hkept⟩ := commitSampling_idleClean (s := s.masterTime t) (by rwa [masterTime_stitch]) (by rwa [masterTime_stitch])
      (by rwa [masterTime_stitch]) (by rwa [hcause]) (by rwa [masterTime_stitch])
    refine ⟨_, rfl, ?_, ((kept_atMasterTime s t (by decide)).trans (hkept.mono (by decide))).touches⟩
    rw [hst, masterTime_stitch, Stitch.toSampled_of_quiet _ hhost hsup]
  · rintro t v s m rfl hs hph ht hk hv hin hne
    obtain ⟨⟨w, cause⟩, hsome⟩ := voidCause_of_void hv hin hne
    have hdue : (s.masterTime t).voidCause = some (w, cause) := by rwa [hcause]
    obtain ⟨hst, hkept⟩ := commitSampling_idleVoid (s := s.masterTime t) (by rwa [masterTime_stitch]) (by rwa [masterTime_stitch])
      (by rwa [masterTime_stitch]) hdue (by rwa [masterTime_stitch])
    obtain ⟨-, hcount, -⟩ := commitSampling_void (s := s.masterTime t) (by rwa [masterTime_stitch]) (by rwa [masterTime_stitch])
      (by rwa [masterTime_stitch]) hdue
    rw [masterTime_reg] at hcount
    refine ⟨_, rfl, ?_, hcount, ((kept_atMasterTime s t (by decide)).trans (hkept.mono (by decide))).touches⟩
    rw [hst, Stitch.toSampled, masterTime_stitch]
  · rintro t s m rfl hs hph ht hv hor
    have hsome : s.voidCause = some (0x1FF, if s.stitch.supplyVoid then 0xA else 8) := by
      rw [voidCause_of_clean hv]
      cases hsup : s.stitch.supplyVoid
      · rw [hor.resolve_left (by simp [hsup])]
        rfl
      · rfl
    obtain ⟨⟨l, hst⟩, hcount, hlast⟩ := commitSampling_void (s := s.masterTime t) (by rwa [masterTime_stitch]) (by rwa [masterTime_stitch])
      (by rwa [masterTime_stitch]) ((hcause s t).trans hsome)
    rw [masterTime_reg] at hcount
    refine ⟨_, rfl, ?_, ?_, ?_, ?_, ?_, hcount, ?_⟩
    · rw [hst]
    · rw [hst]
    · rw [hst]
    · rw [hst]
    · rw [State.regN, hlast, State.stitchLo, masterTime_stitch, regOf, BitVec.toNat_ofNat, Nat.mod_eq_of_lt]
      split <;> omega
    · rw [hst]
      simp only [masterTime_stitch]

end Sys2Proof.Machine

/-! PROOF. Family 02_stitch_execution: what a commit and a void do to the copies (O23). -/

namespace Sys2Proof

theorem Assoc.find?_mapVal {κ α β : Type} [DecidableEq κ] (m : Assoc κ α) (f : κ → α → β) (k : κ) :
    Assoc.find? (m.map fun e => (e.1, f e.1 e.2)) k = (Assoc.find? m k).map (f k) := by
  induction m with
  | nil => rfl
  | cons e rest ih =>
    obtain ⟨q, v⟩ := e
    simp only [List.map_cons, Assoc.find?, ih]
    split
    · rename_i h
      rw [h, Option.map_some]
    · rfl

end Sys2Proof

namespace Sys2Proof.Machine

/-! ### A read of external memory -/

/-- The registers that a read of external memory counts and records in (R296, R400). -/
def isReadLog : RegId → Bool
  | .hbm _ _ => true
  | .rel _ => true
  | _ => false

/-- What a read of external memory leaves as it is beside the parts outside the HBM state and the registers. -/
structure HbmStands (s t : State) : Prop where
  pages : t.hbm.pages = s.hbm.pages
  mapped : t.hbm.mapped = s.hbm.mapped
  failed : t.hbm.failed = s.hbm.failed
  reg : ∀ id, isReadLog id = false → t.reg id = s.reg id

theorem HbmStands.refl (s : State) : HbmStands s s := ⟨rfl, rfl, rfl, fun _ _ => rfl⟩

section

variable {a s : State}

theorem HbmStands.then {t : State} (h : HbmStands a s) (h' : HbmStands s t) : HbmStands a t :=
  ⟨h'.pages.trans h.pages, h'.mapped.trans h.mapped, h'.failed.trans h.failed, fun id hid => (h'.reg id hid).trans (h.reg id hid)⟩

theorem HbmStands.kept {l : List Comp} {t : State} (h : HbmStands a s) (hk : Kept l s t) (hh : .hbm ∉ l) (hr : .regs ∉ l) : HbmStands a t :=
  h.then ⟨by rw [hk.eq_hbm hh], by rw [hk.eq_hbm hh], by rw [hk.eq_hbm hh], fun id _ => hk.eq_reg hr id⟩

theorem HbmStands.count (h : HbmStands a s) (r : RegId) (n : Nat) (hr : isReadLog r = true) : HbmStands a (s.count r n) := by
  have hh := (kept_count (r := r) (n := n) (List.Subset.refl _) (Kept.refl _ s)).eq_hbm (by decide)
  exact h.then ⟨by rw [hh], by rw [hh], by rw [hh], fun id hid => by rw [count_reg, if_neg (by rintro rfl; simp [hr] at hid)]⟩

theorem HbmStands.record (h : HbmStands a s) (r : RegId) (validBit v : Nat) (hr : isReadLog r = true) : HbmStands a (s.record r validBit v) := by
  have hh := (kept_record (r := r) (validBit := validBit) (v := v) (List.Subset.refl _) (Kept.refl _ s)).eq_hbm (by decide)
  exact h.then ⟨by rw [hh], by rw [hh], by rw [hh], fun id hid => record_reg_other _ _ _ (by rintro rfl; simp [hr] at hid)⟩

theorem HbmStands.voidStack (h : HbmStands a s) (st cause : Nat) : HbmStands a (s.voidStack st cause) := by
  unfold State.voidStack
  dsimp only
  split
  · exact h.then ⟨rfl, rfl, rfl, fun _ _ => rfl⟩
  · exact h.then ⟨rfl, rfl, rfl, fun _ _ => rfl⟩

theorem HbmStands.modHbm (h : HbmStands a s) (f : Hbm → Hbm) (hp : (f s.hbm).pages = s.hbm.pages) (hm : (f s.hbm).mapped = s.hbm.mapped)
    (hf : (f s.hbm).failed = s.hbm.failed) : HbmStands a (s.modHbm f) := h.then ⟨hp, hm, hf, fun _ _ => rfl⟩

theorem HbmStands.hbmCorrected (h : HbmStands a s) (x : Nat) : HbmStands a (s.hbmCorrected x) := by
  unfold State.hbmCorrected
  exact .modHbm ((h.count _ _ rfl).count _ _ rfl) _ rfl rfl rfl

theorem HbmStands.hbmUncorrectable (h : HbmStands a s) (x : Nat) : HbmStands a (s.hbmUncorrectable x) := by
  unfold State.hbmUncorrectable
  refine HbmStands.kept (l := [.rel]) (.voidStack (HbmStands.kept (l := [.evt]) ?_ (kept_raise (by decide) (Kept.refl _ _)) (by decide) (by decide)) _ _)
    (kept_detect (by decide) (Kept.refl _ _)) (by decide) (by decide)
  exact ((h.count _ _ rfl).count _ _ rfl).record _ _ _ rfl

end

theorem hbmStands_hbmWord (s : State) (x : Nat) : HbmStands s (s.hbmWord x).2.2 := by
  have hfree : HbmStands s (if 2 < (s.errs.get [] (x / 16)).length then s.takeFree else s) := by
    split
    · exact (HbmStands.refl s).kept (l := [.free]) (kept_takeFree (by decide) (Kept.refl _ s)) (by decide) (by decide)
    · exact .refl s
  unfold State.hbmWord
  split
  · exact .refl s
  · dsimp only
    split
    · exact hfree
    · split
      · exact hfree.hbmCorrected x
      · exact hfree.hbmUncorrectable x

/-! ### Copies -/

/-- The selector bits and written bits of an MU and of a page (R175, R303). -/
def Mu.copies (m : Mu) : List Nat × List Nat := (m.sel, m.wr)
def VPage.copies (p : VPage) : List Nat × List Nat := (p.sel, p.wr)

/-- From `s` to `t` the selector and written bits of every MU and every page go as `g` says. -/
structure CopiesBy (g : List Nat × List Nat → List Nat × List Nat) (s t : State) : Prop where
  mu : ∀ c, (t.mu c).copies = g (s.mu c).copies
  pages : t.hbm.pages.map (fun p => (p.base, p.copies)) = s.hbm.pages.map fun p => (p.base, g p.copies)

/-- At a commit. -/
def flipCopies (c : List Nat × List Nat) : List Nat × List Nat := (symDiff c.1 c.2, [])
/-- At a void. -/
def dropCopies (c : List Nat × List Nat) : List Nat × List Nat := (c.1, [])

theorem CopiesBy.refl (s : State) : CopiesBy id s s := ⟨fun _ => rfl, rfl⟩

/-- A unit of a list whose units all change in one way. -/
theorem mu_of_map {s t : State} {f : Nat → Mu → Mu} (h : t.mus = s.mus.map fun e => (e.1, f e.1 e.2)) (c : Nat) :
    t.mu c = f c (s.mu c) ∨ t.mu c = Mu.reset ∧ s.mu c = Mu.reset := by
  rw [State.mu, State.mu, h, Assoc.get, Assoc.get, Assoc.find?_mapVal]
  cases Assoc.find? s.mus c with
  | none => exact .inr ⟨rfl, rfl⟩
  | some m => exact .inl rfl

/-- A change of every MU and every page at once. -/
theorem CopiesBy.of_map {g : List Nat × List Nat → List Nat × List Nat} {s t : State} {f : Nat → Mu → Mu} {p : VPage → VPage}
    (hm : t.mus = s.mus.map fun e => (e.1, f e.1 e.2)) (hp : t.hbm.pages = s.hbm.pages.map p) (hf : ∀ c m, (f c m).copies = g m.copies)
    (hpf : ∀ x, ((p x).base, (p x).copies) = (x.base, g x.copies)) (hg : g ([], []) = ([], [])) : CopiesBy g s t := by
  refine ⟨fun c => ?_, ?_⟩
  · rcases mu_of_map hm c with h | ⟨h, hs⟩
    · rw [h, hf]
    · rw [h, hs]
      exact hg.symm
  · rw [hp, List.map_map]
    exact List.map_congr_left fun x _ => hpf x

theorem CopiesBy.flip_mu {s t : State} (h : CopiesBy flipCopies s t) (c : Nat) :
    (t.mu c).sel = symDiff (s.mu c).sel (s.mu c).wr ∧ (t.mu c).wr = [] := ⟨congrArg Prod.fst (h.mu c), congrArg Prod.snd (h.mu c)⟩

theorem CopiesBy.drop_mu {s t : State} (h : CopiesBy dropCopies s t) (c : Nat) : (t.mu c).sel = (s.mu c).sel ∧ (t.mu c).wr = [] :=
  ⟨congrArg Prod.fst (h.mu c), congrArg Prod.snd (h.mu c)⟩

theorem CopiesBy.id_mu {s t : State} (h : CopiesBy id s t) (c : Nat) : (t.mu c).sel = (s.mu c).sel ∧ (t.mu c).wr = (s.mu c).wr :=
  ⟨congrArg Prod.fst (h.mu c), congrArg Prod.snd (h.mu c)⟩

theorem copiesBy_flip (s : State) (primary : Bool) : CopiesBy flipCopies s (s.flip primary) :=
  .of_map (f := fun _ m => { m with sel := symDiff m.sel m.wr, wr := [], dirty := if primary then orList m.dirty m.wr else m.dirty }) rfl rfl
    (fun _ _ => rfl) (fun _ => rfl) rfl

theorem copiesBy_dropWritten (s : State) : CopiesBy dropCopies s s.dropWritten :=
  .of_map (f := fun _ m => { m with wr := [] }) rfl rfl (fun _ _ => rfl) (fun _ => rfl) rfl

/-! ### What leaves the copies as they are -/

section

variable {g : List Nat × List Nat → List Nat × List Nat} {a s : State}

theorem CopiesBy.then {t : State} (h : CopiesBy g a s) (h' : CopiesBy id s t) : CopiesBy g a t :=
  ⟨fun c => (h'.mu c).trans (h.mu c), h'.pages.trans h.pages⟩

theorem CopiesBy.kept {l : List Comp} {t : State} (h : CopiesBy g a s) (hk : Kept l s t) (hm : .mus ∉ l) (hh : .hbm ∉ l) : CopiesBy g a t :=
  h.then ⟨fun c => by rw [hk.eq_mu hm]; rfl, by rw [hk.eq_hbm hh]; rfl⟩

theorem CopiesBy.keptPages {l : List Comp} {t : State} (h : CopiesBy g a s) (hk : Kept l s t) (hm : .mus ∉ l) (hp : t.hbm.pages = s.hbm.pages) :
    CopiesBy g a t := h.then ⟨fun c => by rw [hk.eq_mu hm]; rfl, by rw [hp]; rfl⟩

theorem CopiesBy.clearDirty (h : CopiesBy g a s) : CopiesBy g a s.clearDirty :=
  h.then (.of_map (f := fun _ m => { m with dirty := [] }) rfl rfl (fun _ _ => rfl) (fun _ => rfl) rfl)

theorem CopiesBy.emptyFabric (h : CopiesBy g a s) : CopiesBy g a s.emptyFabric :=
  h.then (.of_map (f := fun _ m => { m with ports := m.ports.map fun e => (e.1, { e.2 with outq := [], inq := [] }) }) (p := id) rfl
    (List.map_id _).symm (fun _ _ => rfl) (fun _ => rfl) rfl)

theorem CopiesBy.voidCleanup (h : CopiesBy g a s) : CopiesBy g a s.voidCleanup :=
  h.then (.of_map (f := fun _ m => { m with gens := [], dsp := m.dsp.restart }) (p := id) rfl
    (List.map_id _).symm (fun _ _ => rfl) (fun _ => rfl) rfl)

theorem CopiesBy.raise (h : CopiesBy g a s) (src k w0 w1 w2 w3 : Nat) : CopiesBy g a (s.raise src k w0 w1 w2 w3) :=
  h.kept (kept_raise (List.Subset.refl _) (Kept.refl _ s)) (by decide) (by decide)

theorem CopiesBy.flushFabric (h : CopiesBy g a s) (void : Bool) : CopiesBy g a (s.flushFabric void) := by
  unfold State.flushFabric
  refine .emptyFabric ?_
  split
  · exact h
  · refine foldl_keeps (P := CopiesBy g a) h fun x b _ hx => ?_
    dsimp only
    split
    · exact hx
    · exact hx.kept (l := [.regs, .evt]) (kept_raiseBay (by decide) (kept_count (by decide) (Kept.refl _ x))) (by decide) (by decide)

theorem CopiesBy.setTwin (h : CopiesBy g a s) (x : Twin) : CopiesBy g a { s with twin := x } := h.then ⟨fun _ => rfl, rfl⟩

theorem CopiesBy.modHbm (h : CopiesBy g a s) (f : Hbm → Hbm) (hf : (f s.hbm).pages = s.hbm.pages) : CopiesBy g a (s.modHbm f) :=
  h.keptPages (l := [.hbm]) (kept_modHbm (List.Subset.refl _) (Kept.refl _ s)) (by decide) hf

theorem CopiesBy.unpair (h : CopiesBy g a s) : CopiesBy g a s.unpair := by
  unfold State.unpair
  exact .raise (.setTwin h.clearDirty _) _ _ _ _ _ _

theorem CopiesBy.setCtx (h : CopiesBy g a s) (k : Nat) (c : Ctx) : CopiesBy g a (s.setCtx k c) :=
  h.kept (kept_setCtx (List.Subset.refl _) (Kept.refl _ s)) (by decide) (by decide)

theorem CopiesBy.setReg (h : CopiesBy g a s) (r : RegId) (v : Reg) : CopiesBy g a (s.setReg r v) :=
  h.kept (kept_setReg (List.Subset.refl _) (Kept.refl _ s)) (by decide) (by decide)

theorem CopiesBy.standbyTells (h : CopiesBy g a s) (kind c : Nat) : CopiesBy g a (s.standbyTells kind c) :=
  h.kept (kept_standbyTells (List.Subset.refl _) (Kept.refl _ s)) (by decide) (by decide)

theorem CopiesBy.hbmWord (h : CopiesBy g a s) (x : Nat) : CopiesBy g a (s.hbmWord x).2.2 :=
  h.keptPages (kept_hbmWord (List.Subset.refl _) (Kept.refl _ s)) (by decide) (hbmStands_hbmWord s x).pages

/-! #### The next mask -/

theorem CopiesBy.admitted (h : CopiesBy g a s) (d : QpDecl) (i : Nat) (before : List (Nat × Nat)) (n : Nat) :
    CopiesBy g a (s.admitted d i before n).2 := by
  induction n generalizing s i before with
  | zero => exact h
  | succ n ih => exact ih (h.hbmWord _) _ _

theorem CopiesBy.pairAdmits (h : CopiesBy g a s) (c : Ctx) (shadow : Bool) (before : List (Nat × Nat)) (d : QpDecl) :
    CopiesBy g a (s.pairAdmits c shadow before d).2 := .admitted (h.hbmWord _) _ _ _ _

/-- For a fold over a pair, with the value of each step under a name, as in `Kept.foldl_named`. -/
theorem CopiesBy.foldl_named {α β : Type} {x : β × State} {f : β × State → α → β × State} {xs : List α} (h : CopiesBy g a x.2)
    (hf : ∀ t e y, f t e = y → CopiesBy g a t.2 → CopiesBy g a y.2) : CopiesBy g a (xs.foldl f x).2 :=
  foldl_keeps (P := fun t => CopiesBy g a t.2) h fun t e _ ht => hf t e _ rfl ht

theorem CopiesBy.admissions (h : CopiesBy g a s) (c : Ctx) (shadow : Bool) : CopiesBy g a (s.admissions c shadow).2 := by
  unfold State.admissions
  refine .foldl_named h fun x d y e hx => ?_
  have e' : x.2.pairAdmits c shadow x.1 d = y := e
  rw [← e']
  exact hx.pairAdmits c shadow x.1 d

theorem CopiesBy.installMask (h : CopiesBy g a s) : CopiesBy g a s.installMask := by
  unfold State.installMask
  cases s.ctx? s.active with
  | none => exact h
  | some c =>
    have ha : CopiesBy g a (if s.stitch.maskNext.isSome then (s.stitch.admits, s) else s.admissions c false).2 := by
      split
      · exact h
      · exact h.admissions c false
    refine .setCtx (foldl_keeps (P := CopiesBy g a) ha fun x e _ hx => ?_) _ _
    · dsimp only
      split
      · exact hx.raise _ _ _ _ _ _
      · exact hx

theorem CopiesBy.checkpoint (h : CopiesBy g a s) : CopiesBy g a s.checkpoint := by
  unfold State.checkpoint
  dsimp only
  split
  · exact .setTwin h.clearDirty _
  · exact h

end

/-! ### The flip of a decision -/

theorem standbyOpen_of_endsMatch {s : State} (h : s.endsMatch = true) : s.standbyOpen = true := by
  unfold State.endsMatch at h
  simp only [Bool.and_eq_true] at h
  exact h.1.1

theorem openSeq_of_standbyOpen {s : State} (h : s.standbyOpen = true) : s.twin.state = 3 ∧ ∃ c, s.twin.openSeq = some c := by
  unfold State.standbyOpen at h
  simp only [Bool.and_eq_true, beq_iff_eq] at h
  exact ⟨h.1, Option.isSome_iff_exists.1 h.2⟩

/-- A standby flips as it applies its checkpoint (R358). -/
theorem copiesBy_standbyApply {s : State} (h : s.endsMatch = true) : CopiesBy flipCopies s s.standbyApply := by
  obtain ⟨c, hc⟩ := (openSeq_of_standbyOpen (standbyOpen_of_endsMatch h)).2
  have hm : ∀ x : State, CopiesBy flipCopies s x →
      CopiesBy flipCopies s (match x.ctx? x.active with | some y => x.setCtx x.active { y with mask := s.twin.mask } | none => x) := by
    intro x hx
    split
    · exact hx.setCtx _ _
    · exact hx
  unfold State.standbyApply
  rw [hc]
  dsimp only
  have h4 := ((hm _ ((copiesBy_flip s false).setTwin { (s.flip false).twin with
    openSeq := none, taken := c, endA := none, endB := none, sentA := 0, sentB := 0, bytes := 0, attached := true })).setReg
      (.twin .ckptLast) (regOf c)).setReg (.twin .ckptBytes) (regOf s.twin.bytes)
  split
  · refine .unpair (.standbyTells ?_ 1 c)
    split
    · exact h4
    · exact h4.raise _ _ _ _ _ _
  · refine .standbyTells ?_ 1 c
    split
    · exact h4
    · exact h4.raise _ _ _ _ _ _

theorem copiesBy_commitFlip {s : State} (h : s.standbyOpen = false ∨ s.endsMatch = true) : CopiesBy flipCopies s s.commitFlip := by
  unfold State.commitFlip
  split
  · rename_i he
    exact copiesBy_standbyApply he
  · rename_i he
    rw [if_neg (by simp [h.resolve_right he])]
    exact copiesBy_flip s _

/-- At a standby whose checkpoint has not come in whole no decision flips or drops (R358). -/
theorem commitFlip_of_waiting {s : State} (ho : s.standbyOpen = true) (he : s.endsMatch = false) : s.commitFlip = s := by
  simp [State.commitFlip, ho, he]

theorem noFlip_of_waiting {s : State} (ho : s.standbyOpen = true) (he : s.endsMatch = false) : s.noFlip = s := by
  simp [State.noFlip, ho, he]

/-! ### The rest of COMMIT_APPLY -/

/-- What a commit does after the flip, and what an idle-clean stitch does; `taken`: a switch is taken at it (R58). -/
def State.commitRest (s : State) (l : List Nat) (taken : Bool) : State :=
  let s2 := (((s.installMask.reachTargets l).releaseOut.checkpoint).capInForce).releaseIn
  (if taken then s2.takeSwitch else s2).flushFabric false

def State.idleRest (s : State) (taken : Bool) : State :=
  let s1 := (s.releaseOut.reloadDone.capInForce).releaseIn
  (if taken then s1.takeSwitch else s1).flushFabric false

theorem applyDecision_commit (s : State) (l : List Nat) :
    s.applyDecision (.commit l) = s.commitFlip.commitRest l (s.switchTaken (.commit l)) := rfl

theorem applyDecision_idleClean (s : State) : s.applyDecision .idleClean = s.noFlip.idleRest (s.switchTaken .idleClean) := rfl

section

variable {g : List Nat × List Nat → List Nat × List Nat} {a s : State}

theorem CopiesBy.takeSwitch (h : CopiesBy g a s) (taken : Bool) : CopiesBy g a (if taken then s.takeSwitch else s) := by
  split
  · exact h.kept (kept_takeSwitch (List.Subset.refl _) (Kept.refl _ s)) (by decide) (by decide)
  · exact h

theorem CopiesBy.commitRest (h : CopiesBy g a s) (l : List Nat) (taken : Bool) : CopiesBy g a (s.commitRest l taken) := by
  have h1 : CopiesBy g a (s.installMask.reachTargets l).releaseOut := h.installMask.kept (l := [.stitch, .bays, .panels, .evt, .hsync, .cus])
    (kept_releaseOut (by decide) (kept_reachTargets (by decide) (Kept.refl _ _))) (by decide) (by decide)
  have h2 := h1.checkpoint.kept (l := [.hsync, .bays, .cus, .evt, .sup])
    (kept_releaseIn (by decide) (kept_capInForce (by decide) (Kept.refl _ _))) (by decide) (by decide)
  exact (h2.takeSwitch taken).flushFabric false

theorem CopiesBy.idleRest (h : CopiesBy g a s) (taken : Bool) : CopiesBy g a (s.idleRest taken) := by
  have h1 := h.kept (l := [.hsync, .bays, .cus, .evt, .sup, .stitch, .ctxs, .panels])
    (kept_releaseIn (by decide) (kept_capInForce (by decide) (kept_reloadDone (by decide) (kept_releaseOut (by decide) (Kept.refl _ _)))))
    (by decide) (by decide)
  exact (h1.takeSwitch taken).flushFabric false

end

theorem copiesBy_commit {s : State} (l : List Nat) (h : s.standbyOpen = false ∨ s.endsMatch = true) :
    CopiesBy flipCopies s (s.applyDecision (.commit l)) := (copiesBy_commitFlip h).commitRest l _

theorem copiesBy_void {s : State} (h : s.standbyOpen = false) : CopiesBy dropCopies s (s.applyDecision .void) := by
  rw [State.applyDecision, if_neg (by simp [h])]
  exact ((copiesBy_dropWritten s).flushFabric true).voidCleanup

theorem copiesBy_waiting {s : State} (d : Decision) (ho : s.standbyOpen = true) (he : s.endsMatch = false) :
    CopiesBy id s (s.applyDecision d) := by
  cases d with
  | commit l =>
    rw [applyDecision_commit, commitFlip_of_waiting ho he]
    exact (CopiesBy.refl s).commitRest l _
  | void =>
    rw [State.applyDecision, if_pos ho]
    exact ((CopiesBy.refl s).flushFabric true).voidCleanup
  | idleClean =>
    rw [applyDecision_idleClean, noFlip_of_waiting ho he]
    exact (CopiesBy.refl s).idleRest _

/-! ### What a void leaves -/

theorem kept_void (s : State) : Kept [.regs, .bays, .cus, .mus, .evt, .hbm] s (s.applyDecision .void) := by
  rw [State.applyDecision]
  refine kept_voidCleanup (by decide) (kept_flushFabric (by decide) (Kept.ite (Kept.refl _ s) (kept_dropWritten (by decide) (Kept.refl _ s))))

/-! ### The twin state of a standby that waits (R358) -/

theorem checkpoint_of_standby {s : State} (h : s.twin.state = 3) : s.checkpoint = s := by simp [State.checkpoint, h]

theorem commitRest_twin {s : State} (h : s.twin.state = 3) (l : List Nat) (taken : Bool) : (s.commitRest l taken).twin = s.twin := by
  have h1 : Kept [.free, .regs, .ctxs, .evt, .hbm, .rel, .stitch, .bays, .panels, .hsync, .cus] s (s.installMask.reachTargets l).releaseOut :=
    kept_releaseOut (by decide) (kept_reachTargets (by decide) (kept_installMask (by decide) (Kept.refl _ s)))
  have htw := h1.eq_twin (by decide)
  rw [State.commitRest, checkpoint_of_standby (htw ▸ h)]
  refine Kept.eq_twin (l := [.hsync, .bays, .cus, .evt, .sup, .regs, .stitch, .panels, .mus]) (kept_flushFabric (by decide) ?_) (by decide) |>.trans htw
  exact Kept.ite (kept_takeSwitch (by decide) (kept_releaseIn (by decide) (kept_capInForce (by decide) (Kept.refl _ _))))
    (kept_releaseIn (by decide) (kept_capInForce (by decide) (Kept.refl _ _)))

theorem idleRest_twin (s : State) (taken : Bool) : (s.idleRest taken).twin = s.twin := by
  have h1 : Kept [.hsync, .bays, .cus, .evt, .sup, .stitch, .ctxs, .panels, .regs, .mus] s (s.releaseOut.reloadDone.capInForce).releaseIn :=
    kept_releaseIn (by decide) (kept_capInForce (by decide) (kept_reloadDone (by decide) (kept_releaseOut (by decide) (Kept.refl _ _))))
  exact (kept_flushFabric (by decide) (Kept.ite (kept_takeSwitch (by decide) h1) h1)).eq_twin (by decide)

theorem applyDecision_twin_of_waiting {s : State} (d : Decision) (ho : s.standbyOpen = true) (he : s.endsMatch = false) :
    (s.applyDecision d).twin = s.twin := by
  cases d with
  | commit l =>
    rw [applyDecision_commit, commitFlip_of_waiting ho he]
    exact commitRest_twin (openSeq_of_standbyOpen ho).1 l _
  | void => exact (kept_void s).eq_twin (by decide)
  | idleClean =>
    rw [applyDecision_idleClean, noFlip_of_waiting ho he]
    exact idleRest_twin s _

/-! ### The commit sequence stands until the end of the phase -/

/-- The commit sequence is `n`. -/
def State.AtSeq (n : Nat) (s : State) : Prop := s.stitch.commitSeq = n

section

variable {n : Nat} {s : State}

theorem State.AtSeq.kept {l : List Comp} {t : State} (h : s.AtSeq n) (hk : Kept l s t) (hl : .stitch ∉ l) : t.AtSeq n :=
  (congrArg Stitch.commitSeq (hk.eq_stitch hl)).trans h

theorem State.AtSeq.modStitch (h : s.AtSeq n) (f : Stitch → Stitch) (hf : (f s.stitch).commitSeq = s.stitch.commitSeq) : (s.modStitch f).AtSeq n :=
  hf.trans h

theorem State.AtSeq.unstage (h : s.AtSeq n) (cls : Nat) (keepWakes : Bool) : (s.unstage cls keepWakes).AtSeq n := by
  have h1 : State.AtSeq n (s.modStitch fun k => { k with modes := k.modes.erase cls }) := h.modStitch _ rfl
  unfold State.unstage
  dsimp only
  generalize s.modStitch _ = s1 at h1
  have h2 : State.AtSeq n ((clockedBays s1).foldl (fun x b => x.modBay b (fun y => { y with modes := y.modes.unstage cls })) s1) :=
    foldl_keeps h1 fun _ _ _ hx => hx
  split
  · exact h2
  · exact foldl_keeps h2 fun _ _ _ hx => hx

theorem State.AtSeq.abortMode (h : s.AtSeq n) (cls reason : Nat) : (s.abortMode cls reason).AtSeq n := by
  unfold State.abortMode
  exact State.AtSeq.kept ((h.unstage cls false).modStitch _ rfl) (kept_raise (List.Subset.refl _) (Kept.refl _ _)) (by decide)

theorem State.AtSeq.applyMode (h : s.AtSeq n) (cls : Nat) (m : StagedMode) : (s.applyMode cls m).AtSeq n := by
  unfold State.applyMode
  refine State.AtSeq.modStitch (State.AtSeq.unstage ?_ cls true) _ rfl
  split
  · exact h.modStitch _ rfl
  · exact foldl_keeps h fun _ _ _ hx => hx
  · exact foldl_keeps (foldl_keeps h fun _ _ _ hx => hx) fun _ _ _ hx => hx
  · exact foldl_keeps h fun _ _ _ hx => hx
  · exact h

theorem State.AtSeq.reachTargets (h : s.AtSeq n) (l : List Nat) : (s.reachTargets l).AtSeq n := by
  unfold State.reachTargets
  refine foldl_keeps h fun x c _ hx => ?_
  split
  · split
    · exact hx
    · split
      · exact hx.applyMode c _
      · exact hx.abortMode c 1
  · exact hx

theorem State.AtSeq.takeSwitch (h : s.AtSeq n) (taken : Bool) : State.AtSeq n (if taken then s.takeSwitch else s) := by
  split
  · unfold State.takeSwitch
    refine State.AtSeq.kept (l := [.regs, .panels, .evt]) (State.AtSeq.modStitch (foldl_keeps h fun x c _ hx => ?_) _ rfl)
      (kept_reloadWakes (List.Subset.refl _) (Kept.refl _ _)) (by decide)
    split
    · exact hx.abortMode c 3
    · exact hx
  · exact h

theorem State.AtSeq.commitRest (h : s.AtSeq n) (l : List Nat) (taken : Bool) : (s.commitRest l taken).AtSeq n := by
  have h1 := (h.kept (kept_installMask (List.Subset.refl _) (Kept.refl _ s)) (by decide)).reachTargets l
  have h2 := h1.kept (l := [.hsync, .bays, .cus, .evt, .mus, .hbm, .twin, .sup])
    (kept_releaseIn (by decide) (kept_capInForce (by decide) (kept_checkpoint (by decide) (kept_releaseOut (by decide) (Kept.refl _ _))))) (by decide)
  exact (h2.takeSwitch taken).kept (kept_flushFabric (List.Subset.refl _) (Kept.refl _ _)) (by decide)

end

theorem applyDecision_commit_commitSeq (s : State) (l : List Nat) : (s.applyDecision (.commit l)).stitch.commitSeq = s.stitch.commitSeq :=
  State.AtSeq.commitRest (State.AtSeq.kept rfl (kept_commitFlip (List.Subset.refl _) (Kept.refl _ s)) (by decide)) l _

/-! ### The obligation -/

/-- The state that COMMIT_APPLY leaves of the one that the decision leaves: its phase, and the voter mask of R46. -/
def State.applied (s : State) : State := s.modStitch fun k => { k with phase := .applied, voterMask := s.voters }

theorem CopiesBy.applied {g : List Nat × List Nat → List Nat × List Nat} {a s : State} (h : CopiesBy g a s) : CopiesBy g a s.applied :=
  h.kept (kept_modStitch (List.Subset.refl _) (Kept.refl _ s)) (by decide) (by decide)

theorem applied_commitSeq (s : State) : s.applied.stitch.commitSeq = s.stitch.commitSeq := rfl

theorem exec_commitApply {s : State} {d : Decision} (t : Nat) (hp : s.stitch.phase = .sampled) (hd : s.stitch.decision = some d) :
    exec (.commitApply t) s = .next ((s.masterTime t).applyDecision d).applied := by
  have h : (s.masterTime t).commitApply = ((s.masterTime t).applyDecision d).applied := by
    simp only [State.commitApply, masterTime_stitch, hp, hd]
    rfl
  exact congrArg Host.Outcome.next h

theorem masterTime_standbyOpen (s : State) (t : Nat) : (s.masterTime t).standbyOpen = s.standbyOpen := by simp [State.standbyOpen]

theorem masterTime_endsMatch (s : State) (t : Nat) : (s.masterTime t).endsMatch = s.endsMatch := by simp [State.endsMatch, masterTime_standbyOpen]

theorem kept_applied (s : State) (t : Nat) (d : Decision) :
    Kept [.free, .regs, .clk, .stitch, .ctxs, .hsync, .bays, .panels, .cus, .mus, .evt, .hbm, .sites, .twin, .sup, .rel] s
      ((s.masterTime t).applyDecision d).applied :=
  kept_modStitch (by decide) (kept_applyDecision (by decide) (kept_atMasterTime s t (by decide)))

/-- Settles O23: what the decision does to the selector and written bits, `CopiesBy`, goes through every step of COMMIT_APPLY. -/
theorem commitFlipsCopies : Obligations.CommitFlipsCopies := by
  unfold Obligations.CommitFlipsCopies
  refine ⟨fun t l s hp hd hs => ⟨_, exec_commitApply t hp hd, ?_⟩, fun t s hp hd ho => ⟨_, exec_commitApply t hp hd, ?_⟩,
    fun t d s hp hd ho he => ⟨_, exec_commitApply t hp hd, ?_⟩⟩
  · have hk := kept_applied s t (.commit l)
    have hc := (copiesBy_commit (s := s.masterTime t) l (by rwa [masterTime_standbyOpen, masterTime_endsMatch])).applied
    have hmu := hc.flip_mu
    have hpages := hc.pages
    simp only [masterTime_mu, masterTime_hbm] at hmu hpages
    refine ⟨rfl, fun c w => by rw [(hmu c).1], fun c => (hmu c).2, hpages, hk.eq_mem (by decide), hk.eq_errs (by decide), ?_⟩
    rw [applied_commitSeq, applyDecision_commit_commitSeq, masterTime_stitch]
  · have hk := kept_applied s t .void
    have hv := kept_void (s.masterTime t)
    have hc := (copiesBy_void (s := s.masterTime t) (by rwa [masterTime_standbyOpen])).applied
    have hmu := hc.drop_mu
    have hpages := hc.pages
    simp only [masterTime_mu, masterTime_hbm] at hmu hpages
    exact ⟨rfl, hmu, hpages, (hv.eq_ctxs (by decide)).trans (masterTime_ctxs s t),
      (hv.eq_hsync (by decide)).trans (masterTime_hsync s t), hk.eq_mem (by decide), hk.eq_errs (by decide)⟩
  · have hk := kept_applied s t d
    have hom : (s.masterTime t).standbyOpen = true := (masterTime_standbyOpen s t).trans ho
    have hem : (s.masterTime t).endsMatch = false := (masterTime_endsMatch s t).trans he
    have hc := (copiesBy_waiting d hom hem).applied
    have hmu := hc.id_mu
    have hpages := hc.pages
    simp only [masterTime_mu, masterTime_hbm] at hmu hpages
    exact ⟨rfl, hmu, hpages, (applyDecision_twin_of_waiting d hom hem).trans (masterTime_twin s t), hk.eq_mem (by decide), hk.eq_errs (by decide)⟩

end Sys2Proof.Machine

/-! PROOF. Family 02_stitch_execution: the end of the commit phase, and a BAR4 read that waited for it (O24). -/

namespace Sys2Proof.Machine

/-! ### Bytes of a stored word -/

theorem length_memReads (m : List Host.Cell) (a n : Nat) : (memReads m a n).length = n := by
  induction n generalizing a with
  | zero => rfl
  | succ n ih => rw [memReads, List.length_cons, ih]

theorem drop_memReads (m : List Host.Cell) (a k n : Nat) : (memReads m a (k + n)).drop k = memReads m (a + k) n := by
  induction k generalizing a with
  | zero => rw [Nat.zero_add, List.drop_zero, Nat.add_zero]
  | succ k ih => rw [Nat.succ_add, memReads, List.drop_succ_cons, ih, Nat.add_assoc, Nat.add_comm 1 k]

theorem take_memReads (m : List Host.Cell) (a k n : Nat) : (memReads m a (n + k)).take n = memReads m a n := by
  induction n generalizing a with
  | zero => rfl
  | succ n ih => rw [Nat.succ_add, memReads, List.take_succ_cons, ih, memReads]

theorem leBytes_leNat (l : List Byte) : leBytes l.length (leNat l) = l := by
  induction l with
  | nil => rfl
  | cons b bs ih =>
    have hb := b.isLt
    have hlow : BitVec.ofNat 8 (b.toNat + 256 * leNat bs) = b := by
      apply BitVec.eq_of_toNat_eq
      rw [BitVec.toNat_ofNat]
      omega
    have hhigh : (b.toNat + 256 * leNat bs) / 256 = leNat bs := by omega
    rw [List.length_cons, leNat, leBytes, hlow, hhigh, ih]

theorem leNat_lt (l : List Byte) : leNat l < 256 ^ l.length := by
  have h := leNat_leBytes l.length (leNat l)
  rw [leBytes_leNat] at h
  rw [h]
  exact Nat.mod_lt _ (Nat.pow_pos (by decide))

/-- A word is its 16 bytes. -/
theorem leBytes_word (s : State) (a : Nat) : leBytes 16 (s.word a).toNat = memReads s.mem a 16 := by
  have hlen := length_memReads s.mem a 16
  have hlt := leNat_lt (memReads s.mem a 16)
  have hbytes := leBytes_leNat (memReads s.mem a 16)
  rw [hlen] at hlt hbytes
  rw [State.word, BitVec.toNat_ofNat, Nat.mod_eq_of_lt (by omega), hbytes]

/-! ### A read of external memory that finds no error -/

/-- The pseudo-channel of a stored word works, and the word has taken no error. -/
def State.CleanWord (s : State) (a : Nat) : Prop := s.hbmFailed a = false ∧ s.errs.get [] (a / 16) = []

theorem hbmWord_of_clean {s : State} {a : Nat} (h : s.CleanWord a) : s.hbmWord a = (s.word a, true, s) := by
  obtain ⟨hf, he⟩ := h
  have hd : s.decodeAt a = ⟨s.word a, 0⟩ := by rw [State.decodeAt, he]; rfl
  simp [State.hbmWord, hf, he, hd]

/-- A read that lies in one word. -/
theorem hbmReadBytes_of_clean {s : State} {a n : Nat} (hn : 0 < n) (hfit : a % 16 + n ≤ 16) (h : s.CleanWord (s.hbmReadAt (a / 16 * 16))) :
    s.hbmReadBytes a n = (memReads s.mem (s.hbmReadAt (a / 16 * 16) + a % 16) n, s) := by
  have hone : ceilDiv (a % 16 + n) 16 = 1 := by rw [ceilDiv]; omega
  obtain ⟨k, hk⟩ : ∃ k, 16 = a % 16 + (n + k) := ⟨16 - (a % 16 + n), by omega⟩
  have hbytes : ((leBytes 16 (s.word (s.hbmReadAt (a / 16 * 16))).toNat).drop (a % 16)).take n
      = memReads s.mem (s.hbmReadAt (a / 16 * 16) + a % 16) n := by
    have h16 : memReads s.mem (s.hbmReadAt (a / 16 * 16)) 16 = memReads s.mem (s.hbmReadAt (a / 16 * 16)) (a % 16 + (n + k)) := by rw [← hk]
    rw [leBytes_word, h16, drop_memReads, take_memReads]
  simp only [State.hbmReadBytes, hone, State.hbmReadWords, hbmWord_of_clean h, wordsBytes, List.flatMap_cons, List.flatMap_nil, List.append_nil, hbytes]

theorem hbmReadAt_cases (s : State) (x : Nat) : s.hbmReadAt x = x ∨ s.hbmReadAt x = x + 0x10000 := by
  unfold State.hbmReadAt
  split
  · split
    · split <;> simp
    · split <;> simp
  · exact .inl rfl

theorem hbmReadAt_congr {s t : State} (hh : t.hbm = s.hbm) (hs : t.stitch = s.stitch) (x : Nat) : t.hbmReadAt x = s.hbmReadAt x := by
  simp only [State.hbmReadAt, State.pageOf, hh, hs]

theorem hbmBad_congr {s t : State} (hh : t.hbm = s.hbm) (x : Nat) : t.hbmBad x = s.hbmBad x := by
  rw [State.hbmBad, State.hbmBad, State.capacity, State.capacity, State.pageOf, State.pageOf, hh]

theorem cleanWord_congr {s t : State} (hh : t.hbm = s.hbm) (he : t.errs = s.errs) {a : Nat} (h : s.CleanWord a) : t.CleanWord a := by
  obtain ⟨hf, hw⟩ := h
  exact ⟨by simpa only [State.hbmFailed, State.hbmPlace, hh] using hf, by rwa [he]⟩

theorem hbmRangeBad_of_ends {s : State} {a n : Nat} (h0 : s.hbmBad a = none) (h1 : s.hbmBad (a + n - 1) = none) : s.hbmRangeBad a n false = none := by
  simp [State.hbmRangeBad, h0, h1]

/-! ### What the end of the phase leaves -/

/-- The commit sequence and the stitch number. -/
def State.Counts (n k : Nat) (s : State) : Prop := s.stitch.commitSeq = n ∧ s.stitch.number = k

section

variable {n k : Nat} {s : State}

theorem State.Counts.kept {l : List Comp} {t : State} (h : s.Counts n k) (hk : Kept l s t) (hl : .stitch ∉ l) : t.Counts n k := by
  rw [State.Counts, hk.eq_stitch hl]
  exact h

theorem State.Counts.modStitch (h : s.Counts n k) (f : Stitch → Stitch) (hf : (f s.stitch).commitSeq = s.stitch.commitSeq)
    (hn : (f s.stitch).number = s.stitch.number) : (s.modStitch f).Counts n k := ⟨hf.trans h.1, hn.trans h.2⟩

theorem State.Counts.stageMode (h : s.Counts n k) (cls arg target : Nat) (tbl : List Byte) : (s.stageMode cls arg target tbl).Counts n k := by
  unfold State.stageMode
  refine State.Counts.modStitch (f := fun y => { y with reports := y.reports.set cls ⟨1, 0⟩ })
    (foldl_keeps (P := State.Counts n k) (foldl_keeps (P := State.Counts n k) ?_ fun x b _ hx => ?_) fun x b _ hx => ?_) rfl rfl
  · exact h.modStitch _ rfl rfl
  · exact hx
  · exact hx.kept (kept_queueWake (List.Subset.refl _) (Kept.refl _ x)) (by decide)

theorem State.Counts.fwLower (h : s.Counts n k) : s.fwLower.Counts n k := by
  unfold State.fwLower
  split
  · exact h
  · exact State.Counts.modStitch (h.stageMode _ _ _ _) _ rfl rfl

theorem State.Counts.endPhase (h : s.Counts n k) (result : Nat) : (s.endPhase result).Counts n k := by
  unfold State.endPhase
  have h1 : State.Counts n k (s.sendTokens result) := h.kept (kept_sendTokens (List.Subset.refl _) (Kept.refl _ s)) (by decide)
  exact h1.fwLower.modStitch _ rfl rfl

end

/-- A register that no panel holds stands as a change is staged (R374, R375). -/
theorem queueWake_reg {id : RegId} (s : State) (b : Nat) (h : id ≠ .panel (b / 4) .wake) : (s.queueWake b).reg id = s.reg id := by
  unfold State.queueWake
  dsimp only
  split
  · rw [raise_reg, hwSet_reg, if_neg h.symm, modPanel_reg]
  · rw [raise_reg, hwSet_reg, if_neg h.symm, modPanel_reg]
  · rw [modPanel_reg]

theorem stageMode_reg {id : RegId} (s : State) (cls arg target : Nat) (tbl : List Byte) (h : ∀ b, id ≠ .panel (b / 4) .wake) :
    (s.stageMode cls arg target tbl).reg id = s.reg id := by
  unfold State.stageMode State.modeReport
  rw [modStitch_reg]
  refine foldl_keeps (P := fun x : State => x.reg id = s.reg id) (foldl_keeps (P := fun x : State => x.reg id = s.reg id) ?_ fun x b _ hx => ?_)
    fun x b _ hx => ?_
  · exact modStitch_reg _ _ _
  · rw [modBay_reg]
    exact hx
  · rw [queueWake_reg x b (h b)]
    exact hx

theorem fwLower_reg {id : RegId} (s : State) (h : ∀ b, id ≠ .panel (b / 4) .wake) : s.fwLower.reg id = s.reg id := by
  unfold State.fwLower
  split
  · rfl
  · rw [modStitch_reg, stageMode_reg _ _ _ _ _ h]

theorem endPhase_reg {id : RegId} (s : State) (result : Nat) (h : ∀ b, id ≠ .panel (b / 4) .wake) : (s.endPhase result).reg id = s.reg id := by
  rw [State.endPhase, modStitch_reg, fwLower_reg _ h]
  exact (kept_sendTokens (List.Subset.refl _) (Kept.refl _ s)).eq_reg (by decide) id

/-! ### COMMIT_PHASE_END by its decision -/

/-- STITCH_STATUS.last_result of a decision (R66). -/
def Decision.result : Decision → Nat
  | .commit _ => 1
  | .void => 2
  | .idleClean => 3

/-- What a commit publishes, and its place in the commit sequence (R47, R321). -/
def State.published (s : State) : Decision → State
  | .commit _ => s.publishAll.modStitch fun k => { k with commitSeq := k.commitSeq + 1 }
  | .void => s
  | .idleClean => s

theorem commitPhaseEnd_of_applied {s : State} {d : Decision} (hp : s.stitch.phase = .applied) (hd : s.stitch.decision = some d)
    (hl : s.stitch.len ≤ s.clk.ns) : s.commitPhaseEnd = (s.published d).endPhase d.result := by
  rw [State.commitPhaseEnd, if_neg (by omega), hp, hd]
  cases d with
  | commit _ => rfl
  | void => rfl
  | idleClean => rfl

theorem kept_published (s : State) (d : Decision) : Kept [.free, .regs, .evt, .hbm, .rel, .stitch] s (s.published d) := by
  cases d with
  | commit _ =>
    rw [State.published]
    exact kept_modStitch (by decide) (kept_publishAll (by decide) (Kept.refl _ s))
  | void => exact Kept.refl _ s
  | idleClean => exact Kept.refl _ s

theorem published_counts (s : State) (d : Decision) :
    (s.published d).Counts (if d.result = 1 then s.stitch.commitSeq + 1 else s.stitch.commitSeq) s.stitch.number := by
  cases d with
  | commit _ =>
    have hs : s.publishAll.stitch = s.stitch :=
      (kept_publishAll (l := [.free, .regs, .evt, .hbm, .rel]) (by decide) (Kept.refl _ s)).eq_stitch (by decide)
    refine ⟨?_, ?_⟩
    · rw [State.published, modStitch_stitch, hs]
      rfl
    · rw [State.published, modStitch_stitch, hs]
  | void => exact ⟨rfl, rfl⟩
  | idleClean => exact ⟨rfl, rfl⟩

/-- With no queue pairs nothing is published. -/
theorem publishAll_of_noPairs {s : State} (h : ∀ c, s.ctx? s.active = some c → c.image.qps = []) : s.publishAll = s := by
  rw [State.publishAll]
  cases hc : s.ctx? s.active with
  | none => rfl
  | some c => simp only [h c hc, List.foldl_nil]

theorem kept_published_of_noPairs {s : State} {d : Decision} (h : ∀ k, d = .commit k → ∀ c, s.ctx? s.active = some c → c.image.qps = []) :
    Kept [.stitch] s (s.published d) := by
  cases d with
  | commit k =>
    rw [State.published, publishAll_of_noPairs (h k rfl)]
    exact kept_modStitch (by decide) (Kept.refl _ s)
  | void => exact Kept.refl _ s
  | idleClean => exact Kept.refl _ s

/-- The state that the commit phase ends in, before the accesses that waited complete. -/
def State.ended (s : State) (d : Decision) : State := (s.published d).endPhase d.result

theorem ended_phase (s : State) (d : Decision) : (s.ended d).stitch.phase = .ended := rfl
theorem ended_lastResult (s : State) (d : Decision) : (s.ended d).stitch.lastResult = d.result := rfl

theorem ended_counts (s : State) (d : Decision) :
    (s.ended d).Counts (if d.result = 1 then s.stitch.commitSeq + 1 else s.stitch.commitSeq) s.stitch.number := (published_counts s d).endPhase _

theorem ended_reg_bar4Base (s : State) (d : Decision) (h : ∀ k, d = .commit k → ∀ c, s.ctx? s.active = some c → c.image.qps = []) :
    (s.ended d).reg (.host .bar4Base) = s.reg (.host .bar4Base) := by
  rw [State.ended, endPhase_reg (id := .host .bar4Base) _ _ nofun]
  exact (kept_published_of_noPairs h).eq_reg (by decide) _

theorem exec_commitPhaseEnd {s m : State} {t : Nat} {d : Decision} (hm : m = s.masterTime t) (hp : s.stitch.phase = .applied)
    (hd : s.stitch.decision = some d) (hl : s.stitch.len ≤ m.clk.ns) : exec (.commitPhaseEnd t) s = .next (m.ended d).drainHeld := by
  have hst : m.stitch = s.stitch := by rw [hm, masterTime_stitch]
  have hend : m.commitPhaseEnd = m.ended d := commitPhaseEnd_of_applied (by rw [hst, hp]) (by rw [hst, hd]) (by rwa [hst])
  have hin : (m.ended d).inCommit = false := by simp [State.inCommit, ended_phase]
  have hphase : m.phaseEnd = (m.ended d).drainHeld := by simp only [State.phaseEnd, hend, hin, Bool.false_eq_true, if_false]
  rw [← hphase, hm]
  rfl

theorem kept_ended (s : State) (d : Decision) : Kept [.free, .regs, .evt, .hbm, .rel, .stitch, .bays, .panels, .sites] s (s.ended d) :=
  kept_endPhase (by decide) ((kept_published s d).mono (by decide))

theorem kept_ended_of_noPairs {s : State} {d : Decision} (h : ∀ k, d = .commit k → ∀ c, s.ctx? s.active = some c → c.image.qps = []) :
    Kept [.regs, .stitch, .bays, .panels, .evt, .sites] s (s.ended d) := kept_endPhase (by decide) ((kept_published_of_noPairs h).mono (by decide))

/-! ### The accesses that waited -/

theorem drainHeld_of_none {s : State} (h : s.host.held = []) : s.drainHeld = s.modHost fun x => { x with held := [] } := by
  rw [State.drainHeld, h, State.drainList]

/-- A read through BAR4 of bytes that lie in one word without errors (R305). -/
theorem bar4Do_read {s : State} {o n : Nat} (ht : 24 ≤ s.hbm.trained.length) (hs : s.hbm.scrubbing = false) (hn : 0 < n)
    (hfit : s.bar4Addr o % 16 + n ≤ 16) (h0 : s.hbmBad (s.bar4Addr o) = none) (h1 : s.hbmBad (s.bar4Addr o + n - 1) = none)
    (hw : s.CleanWord (s.hbmReadAt (s.bar4Addr o / 16 * 16))) :
    s.bar4Do o false n [] = s.modHost fun h => { h with
      answer := memReads s.mem (s.hbmReadAt (s.bar4Addr o / 16 * 16) + s.bar4Addr o % 16) n } := by
  have hgood : s.bar4Bad (s.bar4Addr o) n false = none := by rw [State.bar4Bad, if_neg (by omega), hbmRangeBad_of_ends h0 h1]
  simp only [State.bar4Do, hgood, hs, hbmReadBytes_of_clean hn hfit hw, Bool.false_eq_true, if_false]

theorem hbmFull_of_captured {s t : State} (h : t.twin = s.twin) : s.hbmFull t = none := by rw [State.hbmFull, h, if_pos rfl]

theorem drainHeld_of_read {s x : State} {o n : Nat} (hh : s.host.held = [.bar4 o false n []]) (hx : s.bar4Do o false n [] = x) (ht : x.twin = s.twin) :
    s.drainHeld = x.modHost fun y => { y with held := [] } := by
  have hdo : s.heldDo (.bar4 o false n []) = some x := by simp only [State.heldDo, hx, hbmFull_of_captured ht, Option.isSome_none, Bool.false_eq_true, if_false]
  simp only [State.drainHeld, hh, State.drainList, hdo]

/-- Settles O24: the phase ends in the state `ended`, whose copies are the committed ones; the read that waited is done in it. -/
theorem phaseEnds : Obligations.PhaseEnds := by
  unfold Obligations.PhaseEnds
  refine ⟨fun t n d s m hm hh hp hd hl hn => ?_, fun t o n x d s m hm hh hp hd hl hq htr hsc hn hfit hx h0 h1 hclean => ?_⟩
  · have hres : n = d.result := by rw [hn]; cases d <;> rfl
    have hk := kept_ended m d
    have hheld : (m.ended d).host.held = [] := by rw [hk.eq_host (by decide), hm, masterTime_host, hh]
    obtain ⟨hseq, hnum⟩ := ended_counts m d
    refine ⟨_, exec_commitPhaseEnd hm hp hd hl, ?_⟩
    beta_reduce
    rw [drainHeld_of_none hheld, modHost_stitch, modHost_fuses, modHost_cus, modHost_mus, hseq, hnum, hk.eq_fuses (by decide), hk.eq_cus (by decide),
      hk.eq_mus (by decide), hm, hres]
    exact ⟨ended_phase _ d, ended_lastResult _ d, rfl, by rw [masterTime_stitch], by rw [masterTime_stitch], masterTime_fuses s t, masterTime_cus s t,
      masterTime_mus s t⟩
  · have hqm : ∀ k, d = .commit k → ∀ c, m.ctx? m.active = some c → c.image.qps = [] := by
      simpa only [hm, masterTime_ctx, masterTime_active] using hq
    have hk : Kept [.regs, .stitch, .bays, .panels, .evt, .sites, .clk] s (m.ended d) := by
      have ht : Kept [.regs, .stitch, .bays, .panels, .evt, .sites, .clk] s m := hm ▸ kept_atMasterTime s t (by decide)
      exact ht.trans ((kept_ended_of_noPairs hqm).mono (by decide))
    generalize hr : m.ended d = r at hk
    have hbm : r.hbm = s.hbm := hk.eq_hbm (by decide)
    have hmem : r.mem = s.mem := hk.eq_mem (by decide)
    have haddr : r.bar4Addr o = s.bar4Addr o := by
      rw [State.bar4Addr, State.bar4Addr, State.regN, State.regN, ← hr, ended_reg_bar4Base m d hqm, hm, masterTime_reg]
    have hword : r.bar4Addr o / 16 * 16 = x := by omega
    have hw : r.CleanWord (r.hbmReadAt (r.bar4Addr o / 16 * 16)) :=
      cleanWord_congr hbm (hk.eq_errs (by decide)) (hclean _ (hword ▸ hbmReadAt_cases r _))
    have hread := bar4Do_read (s := r) (hbm ▸ htr) (hbm ▸ hsc) hn (haddr ▸ hfit) (by rwa [haddr, hbmBad_congr hbm]) (by rwa [haddr, hbmBad_congr hbm]) hw
    refine ⟨_, exec_commitPhaseEnd hm hp hd hl, ?_⟩
    beta_reduce
    rw [hr, drainHeld_of_read (by rw [hk.eq_host (by decide), hh]) hread rfl, hword, haddr]
    exact ⟨hr ▸ ended_phase m d, rfl, rfl, hmem⟩

end Sys2Proof.Machine

/-! PROOF. Family 02_stitch_execution: mode changes, and the wake of a dormant bay (O26). -/

namespace Sys2Proof.Machine

theorem mem_insertSorted (x k : Nat) (l : List Nat) : k ∈ insertSorted x l ↔ k = x ∨ k ∈ l := by
  induction l with
  | nil => simp [insertSorted]
  | cons y ys ih =>
    simp only [insertSorted]
    split
    · simp
    · split
      · rename_i h
        simp [h]
      · simp only [List.mem_cons, ih]
        tauto

theorem foldl_stitch {α : Type} {f : State → α → State} (hf : ∀ x a, (f x a).stitch = x.stitch) (l : List α) (s : State) :
    (l.foldl f s).stitch = s.stitch := foldl_keeps (P := fun x : State => x.stitch = s.stitch) rfl fun x a _ hx => (hf x a).trans hx

theorem foldl_modBay_stitch (f : Nat → Bay → Bay) (l : List Nat) (s : State) : (l.foldl (fun x b => x.modBay b (f b)) s).stitch = s.stitch :=
  foldl_stitch (f := fun x b => x.modBay b (f b)) (fun _ _ => rfl) l s

theorem foldl_forgetWake_stitch (p : Nat → Nat) (f : Nat → Panel → Panel) (g : Bay → Bay) (l : List Nat) (s : State) :
    (l.foldl (fun x b => (x.modPanel (p b) (f b)).modBay b g) s).stitch = s.stitch :=
  foldl_stitch (f := fun x b => (x.modPanel (p b) (f b)).modBay b g) (fun _ _ => rfl) l s

/-! ### Staging -/

/-- What a bay holds of a staged change (R61). -/
structure BayModes.Holds (cls arg b : Nat) (tbl : List Byte) (m : BayModes) : Prop where
  period : cls = 1 → m.stPeriod = some arg
  grade : cls = 2 → m.stGrade = some (tbl.getD b 0).toNat
  capFrac : cls = 3 → m.stCapFrac = some (fracAt tbl (48 + b))
  numdef : cls = 4 → m.stNumdef = some (BitVec.ofNat 32 arg)
  waits : cls ∉ m.acks

theorem stage_holds {cls : Nat} (m : BayModes) (arg b now : Nat) (tbl : List Byte) (h1 : 1 ≤ cls) (h4 : cls ≤ 4) :
    (m.stage cls arg b now tbl).Holds cls arg b tbl := by
  obtain rfl | rfl | rfl | rfl : cls = 1 ∨ cls = 2 ∨ cls = 3 ∨ cls = 4 := by omega
  · exact ⟨fun _ => rfl, nofun, nofun, nofun, by simp [BayModes.stage]⟩
  · exact ⟨nofun, fun _ => rfl, nofun, nofun, by simp [BayModes.stage]⟩
  · exact ⟨nofun, nofun, fun _ => rfl, nofun, by simp [BayModes.stage]⟩
  · exact ⟨nofun, nofun, nofun, fun _ => rfl, by simp [BayModes.stage]⟩

@[simp] theorem queueWake_bay (s : State) (b q : Nat) : (s.queueWake b).bay q = s.bay q :=
  (kept_queueWake (List.Subset.refl _) (Kept.refl _ s)).eq_bay (by decide) q

@[simp] theorem queueWake_stitch (s : State) (b : Nat) : (s.queueWake b).stitch = s.stitch :=
  (kept_queueWake (List.Subset.refl _) (Kept.refl _ s)).eq_stitch (by decide)

/-- The bays that a change of class 0x2 wakes (R374). -/
def State.stageWakes (s : State) (cls : Nat) (tbl : List Byte) : List Nat :=
  if cls = 2 then (clockedBays s).filter (fun b => (s.bay b).asleep && (tbl.getD b 0) != 0) else []

theorem stageMode_stitch (s : State) (cls arg target : Nat) (tbl : List Byte) : (s.stageMode cls arg target tbl).stitch =
    { s.stitch with
      modes := s.stitch.modes.set cls ⟨arg, target, tbl, s.stageWakes cls tbl⟩
      reports := s.stitch.reports.set cls ⟨1, 0⟩ } := by
  unfold State.stageMode State.modeReport
  rw [modStitch_stitch]
  rw [foldl_stitch queueWake_stitch, foldl_modBay_stitch]
  rfl

theorem stageMode_bay {cls : Nat} (s : State) (arg target : Nat) (tbl : List Byte) (h1 : 1 ≤ cls) (h4 : cls ≤ 4) {b : Nat} (hb : b ∈ clockedBays s) :
    ((s.stageMode cls arg target tbl).bay b).modes.Holds cls arg b tbl := by
  unfold State.stageMode State.modeReport
  rw [modStitch_bay]
  refine foldl_keeps (P := fun x : State => (x.bay b).modes.Holds cls arg b tbl) ?_ fun x q _ hx => by rwa [queueWake_bay]
  refine foldl_reaches (P := fun x : State => (x.bay b).modes.Holds cls arg b tbl) hb (fun x => ?_) (fun x q hx => ?_) _
  · rw [modBay_bay, if_pos rfl]
    exact stage_holds _ _ _ _ _ h1 h4
  · rw [modBay_bay]
    split
    · rename_i e
      subst e
      exact stage_holds _ _ _ _ _ h1 h4
    · exact hx

/-- A change that wakes no bay. -/
theorem kept_stageMode_of_noWakes (s : State) {cls : Nat} (arg target : Nat) (tbl : List Byte) (h : cls ≠ 2) :
    Kept [.stitch, .bays] s (s.stageMode cls arg target tbl) := by
  unfold State.stageMode State.modeReport
  simp only [if_neg h, List.filter_nil, List.foldl_nil]
  exact kept_modStitch (by decide) (Kept.foldl (kept_modStitch (by decide) (Kept.refl _ s)) fun x b hx => kept_modBay (by decide) hx)

theorem modeStateOf_of_reports {s : State} {cls state reason : Nat} {l : Assoc Nat ModeReport} (h : s.stitch.reports = l.set cls ⟨state, reason⟩) :
    s.modeStateOf cls = reason * 16 + state := by
  simp [State.modeStateOf, h]

theorem modeReport_state (s : State) (cls state reason : Nat) : (s.modeReport cls state reason).modeStateOf cls = reason * 16 + state :=
  modeStateOf_of_reports rfl

theorem modeReport_modes (s : State) (cls state reason : Nat) : (s.modeReport cls state reason).stitch.modes = s.stitch.modes := rfl

/-! ### Cancelling -/

theorem unstage_stitch (s : State) (cls : Nat) (keepWakes : Bool) :
    (s.unstage cls keepWakes).stitch = { s.stitch with modes := s.stitch.modes.erase cls } := by
  unfold State.unstage
  dsimp only
  split
  · rw [foldl_modBay_stitch]
    rfl
  · rw [foldl_forgetWake_stitch, foldl_modBay_stitch]
    rfl

theorem unstage_evt (s : State) (cls : Nat) (keepWakes : Bool) : (s.unstage cls keepWakes).evt = s.evt :=
  (kept_unstage (List.Subset.refl _) (Kept.refl _ s)).eq_evt (by decide)

theorem abortMode_modes (s : State) (cls reason : Nat) : (s.abortMode cls reason).stitch.modes = s.stitch.modes.erase cls := by
  rw [State.abortMode, raise_stitch, modeReport_modes, unstage_stitch]

theorem abortMode_state (s : State) (cls reason : Nat) : (s.abortMode cls reason).modeStateOf cls = reason * 16 + 3 := by
  refine modeStateOf_of_reports (l := (s.unstage cls false).stitch.reports) ?_
  rw [State.abortMode, raise_stitch]
  rfl

theorem raised_abortMode (s : State) {cls reason : Nat} (hc : cls < 16) (hr : reason < 16) :
    Raised s (s.abortMode cls reason) 363 5 (reason * 16 + 3) cls 0 0 := by
  have h := raised_raise ((s.unstage cls false).modeReport cls 3 reason) 363 5 (reason * 16 + 3) cls 0 0
  rw [Nat.mod_eq_of_lt (by omega), Nat.mod_eq_of_lt (by omega : cls < 2 ^ 32)] at h
  unfold State.abortMode
  dsimp only
  rw [modeReport_state]
  exact h.of_evt_eq (unstage_evt s cls false)

theorem targetSampled_iff (s : State) (n : Nat) : s.targetSampled n = true ↔
    (s.stitch.phase = .sampled ∨ s.stitch.phase = .applied) ∧ n = s.stitch.commitSeq + 1 ∧ ∃ l, s.stitch.decision = some (.commit l) := by
  rw [State.targetSampled]
  simp only [Bool.and_eq_true, Bool.or_eq_true, beq_iff_eq, decide_eq_true_eq, and_assoc]
  refine and_congr_right fun _ => and_congr_right fun _ => ?_
  split
  · rename_i l h
    exact ⟨fun _ => ⟨l, h⟩, fun _ => rfl⟩
  · rename_i h
    exact ⟨nofun, fun ⟨l, hl⟩ => absurd hl (h l)⟩

/-! ### MODE_STAGE by its checks (R62) -/

/-- The class that STITCH_MODE_SEL names. -/
def State.modeClass (s : State) : Nat := field (s.regN (.stitch .modeSel)) 3 0

theorem modeClass_eq (s : State) : s.modeClass = s.regN (.stitch .modeSel) % 16 := rfl

/-- What the argument decides. -/
def State.modeArgument (s : State) : State :=
  match s.modeTable s.modeClass (s.regN (.stitch .modeArg)) with
  | none => s.modeReport s.modeClass 3 5
  | some (tbl, s1) =>
    if s1.argOk s.modeClass (s.regN (.stitch .modeArg)) tbl then s1.stageMode s.modeClass (s.regN (.stitch .modeArg)) (s.regN (.stitch .modeTarget)) tbl
    else s1.modeReport s.modeClass 3 5

theorem modeStage_eq (s : State) : s.modeStage =
    if s.modeClass = 0 ∨ 4 < s.modeClass then s.modeReport s.modeClass 3 5
    else if (Assoc.find? s.stitch.modes s.modeClass).isSome then s.modeReport s.modeClass 1 6
    else if s.regN (.stitch .modeTarget) < s.stitch.commitSeq + 2 then s.modeReport s.modeClass 3 2
    else s.modeArgument := rfl

section

variable {s : State}

theorem modeStage_of_noClass (h : s.modeClass = 0 ∨ 4 < s.modeClass) : s.modeStage = s.modeReport s.modeClass 3 5 := by
  rw [modeStage_eq, if_pos h]

theorem modeStage_of_staged (h1 : 1 ≤ s.modeClass) (h4 : s.modeClass ≤ 4) (h : (Assoc.find? s.stitch.modes s.modeClass).isSome = true) :
    s.modeStage = s.modeReport s.modeClass 1 6 := by
  rw [modeStage_eq, if_neg (by omega), if_pos h]

theorem modeStage_of_near (h1 : 1 ≤ s.modeClass) (h4 : s.modeClass ≤ 4) (h : Assoc.find? s.stitch.modes s.modeClass = none)
    (ht : s.regN (.stitch .modeTarget) < s.stitch.commitSeq + 2) : s.modeStage = s.modeReport s.modeClass 3 2 := by
  rw [modeStage_eq, if_neg (by omega), h, if_neg (by decide), if_pos ht]

theorem modeStage_of_free (h1 : 1 ≤ s.modeClass) (h4 : s.modeClass ≤ 4) (h : Assoc.find? s.stitch.modes s.modeClass = none)
    (ht : s.stitch.commitSeq + 2 ≤ s.regN (.stitch .modeTarget)) : s.modeStage = s.modeArgument := by
  rw [modeStage_eq, if_neg (by omega), h, if_neg (by decide), if_neg (by omega)]

end

theorem modeTable_of_noTable (s : State) {cls : Nat} (arg : Nat) (h : cls = 1 ∨ cls = 4) : s.modeTable cls arg = some ([], s) := by
  obtain rfl | rfl := h
  · rfl
  · rfl

theorem modeTable_kept {s x : State} {cls arg : Nat} {tbl : List Byte} (h : s.modeTable cls arg = some (tbl, x)) :
    Kept [.free, .regs, .evt, .hbm, .rel] s x := by
  unfold State.modeTable at h
  dsimp only at h
  split at h
  · cases h
    exact Kept.refl _ s
  · split at h
    · cases h
    · have hx : x = (s.hbmReadBytes arg (tableLen cls)).2 := congrArg Prod.snd (Option.some.inj h).symm
      rw [hx]
      exact kept_hbmReadBytes (by decide) (Kept.refl _ s)

/-- An argument that is legal stages the change. -/
theorem modeArgument_of_ok {s x : State} {tbl : List Byte} (ht : s.modeTable s.modeClass (s.regN (.stitch .modeArg)) = some (tbl, x))
    (ho : x.argOk s.modeClass (s.regN (.stitch .modeArg)) tbl = true) :
    s.modeArgument = x.stageMode s.modeClass (s.regN (.stitch .modeArg)) (s.regN (.stitch .modeTarget)) tbl := by
  simp only [State.modeArgument, ht, ho, if_true]

/-- One that is not is refused with reason 5, and nothing but its reading is left of it. -/
theorem modeArgument_of_bad {s : State} (h : s.modeTable s.modeClass (s.regN (.stitch .modeArg)) = none ∨
      ∃ tbl x, s.modeTable s.modeClass (s.regN (.stitch .modeArg)) = some (tbl, x) ∧ x.argOk s.modeClass (s.regN (.stitch .modeArg)) tbl = false) :
    ∃ x, Kept [.free, .regs, .evt, .hbm, .rel] s x ∧ s.modeArgument = x.modeReport s.modeClass 3 5 := by
  obtain h | ⟨tbl, x, ht, ho⟩ := h
  · exact ⟨s, Kept.refl _ s, by simp only [State.modeArgument, h]⟩
  · exact ⟨x, modeTable_kept ht, by simp only [State.modeArgument, ht, ho, Bool.false_eq_true, if_false]⟩

theorem clockedBays_congr {s t : State} (h : t.bays = s.bays) : clockedBays t = clockedBays s := by
  simp only [clockedBays, State.bay, h]

/-- A change of class `c` has been staged: the master and every clocked bay hold it, and no other class is touched. -/
structure StagedAs (c a g : Nat) (tbl : List Byte) (s r : State) : Prop where
  entry : ∃ wakes, Assoc.find? r.stitch.modes c = some ⟨a, g, tbl, wakes⟩ ∧ (c ≠ 2 → wakes = [])
  report : r.modeStateOf c = 1
  bays : ∀ b ∈ clockedBays s, (r.bay b).modes.Holds c a b tbl
  others : ∀ q, q ≠ c → Assoc.find? r.stitch.modes q = Assoc.find? s.stitch.modes q

theorem stageMode_stagedAs {c : Nat} (s : State) (a g : Nat) (tbl : List Byte) (h1 : 1 ≤ c) (h4 : c ≤ 4) :
    StagedAs c a g tbl s (s.stageMode c a g tbl) where
  entry := ⟨s.stageWakes c tbl, by rw [stageMode_stitch, Assoc.find?_set, if_pos rfl], fun h => if_neg h⟩
  report := modeStateOf_of_reports (congrArg Stitch.reports (stageMode_stitch s c a g tbl))
  bays _ hb := stageMode_bay s a g tbl h1 h4 hb
  others q hq := by rw [stageMode_stitch, Assoc.find?_set, if_neg hq.symm]

theorem StagedAs.of_eq {c a g : Nat} {tbl : List Byte} {s t r : State} (h : StagedAs c a g tbl t r) (hb : t.bays = s.bays) (hs : t.stitch = s.stitch) :
    StagedAs c a g tbl s r := by
  obtain ⟨entry, report, bays, others⟩ := h
  exact ⟨entry, report, by rwa [clockedBays_congr hb] at bays, by rwa [hs] at others⟩

@[simp] theorem masterTime_regN (s : State) (t : Nat) (id : RegId) : (s.masterTime t).regN id = s.regN id := by simp [State.regN]

@[simp] theorem masterTime_modeClass (s : State) (t : Nat) : (s.masterTime t).modeClass = s.modeClass := by simp [State.modeClass]

/-- A legal change, with no table (R62). -/
theorem modeStage_stages {s : State} (t : Nat) (hc : s.modeClass = 1 ∧ 4000 ≤ s.regN (.stitch .modeArg) ∧ s.regN (.stitch .modeArg) ≤ 10000000 ∨
      s.modeClass = 4 ∧ numdefOk (s.regN (.stitch .modeArg)) = true) (hf : Assoc.find? s.stitch.modes s.modeClass = none)
    (ht : s.stitch.commitSeq + 2 ≤ s.regN (.stitch .modeTarget)) :
    StagedAs s.modeClass (s.regN (.stitch .modeArg)) (s.regN (.stitch .modeTarget)) [] s (s.masterTime t).modeStage ∧
      Kept [.clk, .stitch, .bays] s (s.masterTime t).modeStage := by
  have h14 : s.modeClass = 1 ∨ s.modeClass = 4 := hc.imp And.left And.left
  have hok : (s.masterTime t).argOk s.modeClass (s.regN (.stitch .modeArg)) [] = true := by
    obtain ⟨h1, h⟩ | ⟨h4, h⟩ := hc
    · rw [h1]
      exact decide_eq_true h
    · rw [h4]
      exact h
  have hstage : (s.masterTime t).modeStage =
      (s.masterTime t).stageMode s.modeClass (s.regN (.stitch .modeArg)) (s.regN (.stitch .modeTarget)) [] := by
    rw [modeStage_of_free (by simp; omega) (by simp; omega) (by simpa using hf) (by simpa using ht),
      modeArgument_of_ok (modeTable_of_noTable _ _ (by simpa using h14)) (by simpa using hok)]
    simp
  rw [hstage]
  refine ⟨(stageMode_stagedAs _ _ _ _ (by omega) (by omega)).of_eq (masterTime_bays s t) (masterTime_stitch s t), ?_⟩
  exact (kept_atMasterTime s t (by decide)).trans ((kept_stageMode_of_noWakes _ _ _ _ (by omega)).mono (by decide))

/-- A legal table (R62). -/
theorem modeStage_stages_table {s x : State} {t : Nat} {tbl : List Byte} (hc : s.modeClass = 2 ∨ s.modeClass = 3)
    (hf : Assoc.find? s.stitch.modes s.modeClass = none) (ht : s.stitch.commitSeq + 2 ≤ s.regN (.stitch .modeTarget))
    (htbl : (s.masterTime t).modeTable s.modeClass (s.regN (.stitch .modeArg)) = some (tbl, x))
    (hok : x.argOk s.modeClass (s.regN (.stitch .modeArg)) tbl = true) :
    StagedAs s.modeClass (s.regN (.stitch .modeArg)) (s.regN (.stitch .modeTarget)) tbl s (s.masterTime t).modeStage ∧
      Kept [.free, .regs, .clk, .stitch, .bays, .panels, .evt, .hbm, .rel] s (s.masterTime t).modeStage := by
  have hx := modeTable_kept htbl
  have hstage : (s.masterTime t).modeStage = x.stageMode s.modeClass (s.regN (.stitch .modeArg)) (s.regN (.stitch .modeTarget)) tbl := by
    rw [modeStage_of_free (by simp; omega) (by simp; omega) (by simpa using hf) (by simpa using ht),
      modeArgument_of_ok (by simpa using htbl) (by simpa using hok)]
    simp
  rw [hstage]
  refine ⟨(stageMode_stagedAs _ _ _ _ (by omega) (by omega)).of_eq ((hx.eq_bays (by decide)).trans (masterTime_bays s t))
    ((hx.eq_stitch (by decide)).trans (masterTime_stitch s t)), ?_⟩
  exact kept_stageMode (by decide) ((kept_atMasterTime s t (by decide)).trans (hx.mono (by decide)))

/-- An argument that is not legal (R62). -/
theorem modeStage_refuses {s : State} {t : Nat} (h1 : 1 ≤ s.modeClass) (h4 : s.modeClass ≤ 4)
    (hf : Assoc.find? s.stitch.modes s.modeClass = none) (ht : s.stitch.commitSeq + 2 ≤ s.regN (.stitch .modeTarget))
    (hbad : (s.masterTime t).modeTable s.modeClass (s.regN (.stitch .modeArg)) = none ∨
      ∃ tbl x, (s.masterTime t).modeTable s.modeClass (s.regN (.stitch .modeArg)) = some (tbl, x) ∧
        x.argOk s.modeClass (s.regN (.stitch .modeArg)) tbl = false) :
    (s.masterTime t).modeStage.modeStateOf s.modeClass = 5 * 16 + 3 ∧ (s.masterTime t).modeStage.stitch.modes = s.stitch.modes ∧
      Kept [.free, .regs, .clk, .stitch, .evt, .hbm, .rel] s (s.masterTime t).modeStage := by
  obtain ⟨x, hx, he⟩ := modeArgument_of_bad (s := s.masterTime t) (by simpa using hbad)
  rw [modeStage_of_free (by simpa using h1) (by simpa using h4) (by simpa using hf) (by simpa using ht), he, masterTime_modeClass]
  refine ⟨modeReport_state x s.modeClass 3 5, ?_, ?_⟩
  · rw [modeReport_modes, hx.eq_stitch (by decide), masterTime_stitch]
  · exact kept_modeReport (by decide) ((kept_atMasterTime s t (by decide)).trans (hx.mono (by decide)))

/-! ### Wakes (R374, R375) -/

@[simp] theorem bayTime_modes (s : State) (b t q : Nat) : ((s.bayTime b t).bay q).modes = (s.bay q).modes := by
  obtain ⟨cy, up, g, h⟩ := bayTime_bay s b t q
  rw [h]

theorem wakeStart_of_lowest {s : State} {b : Nat} {rest : List Nat} (hw : (s.panel (b / 4)).waking = none) (hq : (s.panel (b / 4)).wakes = b :: rest)
    (hp : (s.bay b).power = .dormant) : s.wakeStart b =
      (s.modPanel (b / 4) (fun x => { x with waking := some b, wakes := rest })).modBay b (fun y => { y with
        power := .waking, wakeStart := some s.clk.nsTotal, modes := { y.modes with wakeAt := s.wakeGoal b } }) := by
  simp only [State.wakeStart, hw, hq, hp, and_self, if_true]

theorem wakeComplete_of_due {s : State} {b t0 : Nat} (hp : (s.bay b).power = .waking) (hw : (s.bay b).wakeStart = some t0)
    (hr : (s.panel (b / 4)).waking = some b) (ht : t0 + 48000 ≤ s.clk.nsTotal) : s.wakeComplete b =
      (s.modBay b (fun y => if s.stitch.session then y.wakeDone (decide (s.clk.ns + 164 < s.stitch.len)) else y.wakeIdle s.clk.nsTotal)).modPanel (b / 4)
        (fun p => { p with waking := none }) := by
  simp only [State.wakeComplete, hp, hw]
  exact if_pos ⟨ht, hr⟩

theorem modBay_baysAlone (s : State) (b : Nat) (f : Bay → Bay) : BaysAlone [b] s (s.modBay b f) := fun q hq => by
  rw [modBay_bay, if_neg fun e => hq (by simp [e])]

/-! ### The obligation, by command -/

theorem modesStage (s : State) (t : Nat) {c : Nat} (hc : c = s.modeClass) (h1 : 1 ≤ c) (h4 : c ≤ 4) :
    ((Assoc.find? s.stitch.modes c).isSome = true →
      (s.masterTime t).modeStage.modeStateOf c = 6 * 16 + 1 ∧ (s.masterTime t).modeStage.stitch.modes = s.stitch.modes) ∧
    (Assoc.find? s.stitch.modes c = none → s.regN (.stitch .modeTarget) < s.stitch.commitSeq + 2 →
      (s.masterTime t).modeStage.modeStateOf c = 2 * 16 + 3 ∧ (s.masterTime t).modeStage.stitch.modes = s.stitch.modes) ∧
    (Assoc.find? s.stitch.modes c = none → s.stitch.commitSeq + 2 ≤ s.regN (.stitch .modeTarget) → c = 1 → s.regN (.stitch .modeArg) < 4000 →
      (s.masterTime t).modeStage.modeStateOf c = 5 * 16 + 3 ∧ (s.masterTime t).modeStage.stitch.modes = s.stitch.modes) := by
  subst hc
  refine ⟨fun hst => ?_, fun hf hn => ?_, fun hf ht hone ha => ?_⟩
  · rw [modeStage_of_staged (by simpa using h1) (by simpa using h4) (by simpa using hst), masterTime_modeClass, modeReport_modes, masterTime_stitch]
    exact ⟨modeReport_state _ _ _ _, rfl⟩
  · rw [modeStage_of_near (by simpa using h1) (by simpa using h4) (by simpa using hf) (by simpa using hn), masterTime_modeClass, modeReport_modes,
      masterTime_stitch]
    exact ⟨modeReport_state _ _ _ _, rfl⟩
  · have hbad : (s.masterTime t).argOk s.modeClass (s.regN (.stitch .modeArg)) [] = false := by
      rw [hone]
      exact decide_eq_false (by omega)
    obtain ⟨hrep, hmodes, -⟩ := modeStage_refuses h1 h4 hf ht (.inr ⟨[], _, modeTable_of_noTable _ _ (.inl hone), hbad⟩)
    exact ⟨hrep, hmodes⟩

theorem modeCancel_of_staged {s : State} {m : StagedMode} (hm : Assoc.find? s.stitch.modes s.modeClass = some m) :
    s.modeCancel = if s.targetSampled m.target then s else s.abortMode s.modeClass 4 := by
  have hm' : Assoc.find? s.stitch.modes (field (s.regN (.stitch .modeSel)) 3 0) = some m := hm
  simp only [State.modeCancel, hm']
  rfl

theorem exec_modeCancel {s : State} (t : Nat) {m : StagedMode} (hm : Assoc.find? s.stitch.modes s.modeClass = some m) :
    exec (.modeCancel t) s = .next (if s.targetSampled m.target then s.masterTime t else (s.masterTime t).abortMode s.modeClass 4) := by
  have h : (s.masterTime t).modeCancel = if s.targetSampled m.target then s.masterTime t else (s.masterTime t).abortMode s.modeClass 4 := by
    rw [modeCancel_of_staged (m := m) (by simpa using hm), masterTime_modeClass, State.targetSampled, masterTime_stitch]
    rfl
  exact congrArg Host.Outcome.next h

/-- STAGE_ACK of a bay that is ready. -/
theorem stageAck_of_ready {s : State} {b c : Nat} (hs : (Assoc.find? s.stitch.modes c).isSome = true) (hp : (s.bay b).power = .active)
    (hr : c ≠ 2 ∨ s.railReady b = true) :
    s.stageAck b c = s.modBay b fun y => { y with modes := { y.modes with acks := insertSorted c y.modes.acks } } := if_pos ⟨hs, hp, hr⟩

theorem stageAck_of_rail {s : State} (b : Nat) (h : s.railReady b = false) : s.stageAck b 2 = s := by
  rw [State.stageAck, if_neg]
  simp [h]

/-- Settles O26: each command by the branch that its hypotheses select; the staged change reaches every clocked bay by the fold over them. -/
theorem modesAndBays : Obligations.ModesAndBays := by
  unfold Obligations.ModesAndBays
  refine ⟨⟨fun t c a g s hc ha hg hok hf ht => ⟨_, rfl, ?_⟩, fun t c s hc h1 h4 => ⟨_, rfl, modesStage s t hc h1 h4⟩,
      fun t c s hc hno => ⟨_, rfl, ?_⟩, fun t c a g s m hm hc ha hg h23 hf ht => ⟨fun tbl x htbl hok => ⟨_, rfl, ?_⟩, fun hbad => ⟨_, rfl, ?_⟩⟩,
      fun t c m s hc hm => ⟨fun hcase => ?_, fun l hph htg hd => ?_⟩⟩,
    fun t b c s m hm hc hr => ⟨_, rfl, ?_⟩, fun t b c s m hm hst hp hr => ⟨_, rfl, ?_⟩, fun t b rest s hw hq hp => ⟨_, rfl, ?_⟩,
    fun t b t0 s hp hw hr ht => ⟨_, rfl, ?_⟩⟩
  · rw [← modeClass_eq] at hc
    subst hc ha hg
    obtain ⟨⟨⟨wakes, hentry, hnone⟩, hrep, hbays, hother⟩, hk⟩ := modeStage_stages t hok hf ht
    obtain rfl := hnone (by omega)
    exact ⟨hentry, hrep, fun b hb => ⟨(hbays b hb).period, (hbays b hb).numdef⟩, fun b hb => (hbays b hb).waits, hother, hk.touches⟩
  · rw [← modeClass_eq] at hc
    subst hc
    rw [modeStage_of_noClass (by simpa using hno), masterTime_modeClass, modeReport_modes, masterTime_stitch]
    exact ⟨modeReport_state _ _ _ _, rfl, (kept_modeReport (by decide) (kept_atMasterTime s t (by decide))).touches⟩
  · rw [← modeClass_eq] at hc
    subst hc ha hg hm
    obtain ⟨⟨⟨wakes, hentry, -⟩, hrep, hbays, hother⟩, hk⟩ := modeStage_stages_table h23 hf ht htbl hok
    exact ⟨⟨_, hentry, rfl, rfl, rfl⟩, hrep, fun b hb => ⟨(hbays b hb).grade, (hbays b hb).capFrac⟩, fun b hb => (hbays b hb).waits, hother, hk.touches⟩
  · rw [← modeClass_eq] at hc
    subst hc ha hg hm
    obtain ⟨hrep, hmodes, hk⟩ := modeStage_refuses (by omega) (by omega) hf ht hbad
    exact ⟨hrep, hmodes, hk.touches⟩
  · have hlt : c < 16 := by omega
    rw [← modeClass_eq] at hc
    have hn : s.targetSampled m.target = false := by
      rw [← Bool.not_eq_true, targetSampled_iff]
      rintro ⟨hph, htg, l, hd⟩
      obtain h | h | h | h := hcase
      · simp [h] at hph
      · simp [h] at hph
      · exact h htg
      · exact h l hd
    subst hc
    refine ⟨_, (exec_modeCancel t hm).trans (by rw [if_neg (by simp [hn])]), ?_, abortMode_state _ _ _, (raised_abortMode _ hlt (by decide)).of_evt_eq (masterTime_evt s t),
      (kept_abortMode (by decide) (kept_atMasterTime s t (by decide))).touches⟩
    rw [abortMode_modes, Assoc.find?_erase_same]
  · rw [← modeClass_eq] at hc
    subst hc
    exact ⟨_, (exec_modeCancel t hm).trans (by rw [if_pos ((targetSampled_iff s _).2 ⟨hph, htg, l, hd⟩)]), (kept_atMasterTime s t (by decide)).touches⟩
  · subst hc hm
    exact stageAck_of_rail b hr
  · subst hm
    rw [stageAck_of_ready (by rwa [(kept_atBayTime s b t).eq_stitch (by decide)]) (by simpa using hp) hr]
    refine ⟨fun k => ?_, fun q hq => ?_, fun id hid => ?_, (kept_modBay (by decide) (kept_atBayTime s b t)).touches⟩
    · rw [modBay_bay, if_pos rfl, mem_insertSorted, bayTime_modes]
    · rw [modBay_baysAlone _ _ _ q hq, bayTime_baysAlone s b t q hq]
    · rw [modBay_reg, bayTime_regsAlone s b t id hid]
  · rw [wakeStart_of_lowest (by simpa using hw) (by simpa using hq) (by simpa using hp)]
    have hbay : ∀ f, (((s.masterTime t).modPanel (b / 4) (fun x => { x with waking := some b, wakes := rest })).modBay b f).bay b = f (s.bay b) := by
      intro f
      rw [modBay_bay, if_pos rfl, modPanel_bay, masterTime_bay]
    beta_reduce
    rw [hbay, modBay_panel, modPanel_panel, if_pos rfl]
    refine ⟨rfl, rfl, rfl, rfl, fun q hq' => ?_, (kept_modBay (by decide) (kept_modPanel (by decide) (kept_atMasterTime s t (by decide)))).touches⟩
    rw [modBay_baysAlone _ _ _ q hq', modPanel_bay, masterTime_bay]
  · rw [wakeComplete_of_due (by simpa using hp) (by simpa using hw) (by simpa using hr) ht]
    beta_reduce
    rw [modPanel_bay, modPanel_panel, if_pos rfl, modBay_bay, if_pos rfl, masterTime_bay, masterTime_stitch]
    refine ⟨fun hs => ?_, fun hs => ?_, ?_, rfl, fun q hq => ?_, (kept_modPanel (by decide) (kept_modBay (by decide) (kept_atMasterTime s t (by decide)))).touches⟩
    · rw [if_pos hs]
      exact ⟨(mem_insertSorted 2 2 _).2 (.inl rfl), hp⟩
    · rw [if_neg (by simp [hs])]
      exact ⟨rfl, rfl, rfl⟩
    · split <;> rfl
    · rw [modPanel_bay, modBay_baysAlone _ _ _ q hq, masterTime_bay]

end Sys2Proof.Machine

/-! PROOF. Family 02_stitch_execution: the beginning and the end of a residency (O29). The mailbox first. -/

namespace Sys2Proof.Machine

/-! ### The mailbox takes a command and answers it (R326) -/

/-- The state in which the mailbox has taken command `cmd`. -/
def State.mailTaken (s : State) (cmd : Nat) : State :=
  (s.modReg (.mboxReq 0) (fun r => regOf (r.toNat / 2 ^ 16 * 2 ^ 16 + cmd))).modReg (.host .mboxStatus) (fun r => r ||| bit31)

theorem mailboxFree_masterTime {s : State} (t : Nat) (h : MailboxFree s) : MailboxFree (s.masterTime t) := by
  obtain ⟨hboot, hseq, hlink, hidle⟩ := h
  exact ⟨by rwa [masterTime_sup], by rwa [masterTime_sup], by rwa [masterTime_host], by rwa [masterTime_regN]⟩

theorem mboxTake_of_free {s : State} (cmd : Nat) (f : State → State) (h : MailboxFree s) : s.mboxTake cmd f = f (s.mailTaken cmd) := by
  obtain ⟨hboot, hseq, hlink, hidle⟩ := h
  have hbusy : s.mboxBusy = false := hidle
  rw [State.mboxTake, if_neg (by simp [hseq, hlink]; omega), if_neg (by simp [hbusy])]
  rfl

theorem kept_mailTaken (s : State) (cmd : Nat) : Kept [.regs] s (s.mailTaken cmd) :=
  kept_modReg (by decide) (kept_modReg (by decide) (Kept.refl _ s))

theorem mailTaken_reg_other {id : RegId} (s : State) (cmd : Nat) (h : id ∉ mailboxRegs) : (s.mailTaken cmd).reg id = s.reg id := by
  simp only [mailboxRegs, List.mem_cons, List.not_mem_nil, or_false, not_or] at h
  rw [State.mailTaken, modReg_reg, if_neg (Ne.symm h.2), modReg_reg, if_neg (Ne.symm h.1)]

theorem mailTaken_status (s : State) (cmd : Nat) : ((s.mailTaken cmd).regN (.host .mboxStatus)).testBit 31 = true := by
  rw [State.regN, State.mailTaken, modReg_reg, if_pos rfl, BitVec.toNat_or, Nat.testBit_or, Bool.or_eq_true]
  exact .inr (by decide)

theorem mailTaken_request (s : State) {cmd : Nat} (h : cmd < 2 ^ 16) :
    (s.mailTaken cmd).regN (.mboxReq 0) = s.regN (.mboxReq 0) / 2 ^ 16 * 2 ^ 16 + cmd := by
  have hlt : s.regN (.mboxReq 0) < 2 ^ 64 := (s.reg (.mboxReq 0)).isLt
  rw [State.regN, State.mailTaken, modReg_reg, if_neg (by simp), modReg_reg, if_pos rfl, regOf, BitVec.toNat_ofNat]
  exact Nat.mod_eq_of_lt (by rw [State.regN] at hlt; omega)

/-- What an answer says, when the mailbox still stands as the command has left it. -/
theorem answered_mboxAnswer {s x : State} {cmd : Nat} (status : Nat) (body : List (BitVec 32)) (hc : cmd < 2 ^ 16)
    (hx : ∀ id ∈ mailboxRegs, x.reg id = (s.mailTaken cmd).reg id) : Answered cmd status body s (x.mboxAnswer status body) := by
  have hreq : x.regN (.mboxReq 0) = s.regN (.mboxReq 0) / 2 ^ 16 * 2 ^ 16 + cmd := by
    rw [State.regN, hx _ (by simp [mailboxRegs])]
    exact mailTaken_request s hc
  have hst : (x.regN (.host .mboxStatus)).testBit 31 = true := by
    rw [State.regN, hx _ (by simp [mailboxRegs])]
    exact mailTaken_status s cmd
  refine ⟨⟨hst, ?_⟩, ?_⟩
  · exact (congrArg (· % 2 ^ 16) hreq).trans (by omega)
  · have hseq : field (x.regN (.mboxReq 0)) 31 24 = field (s.regN (.mboxReq 0)) 31 24 := by
      rw [hreq, field, field, Nat.shiftRight_eq_div_pow, Nat.shiftRight_eq_div_pow]
      omega
    rw [State.mboxAnswer, modHost_host, hseq]

theorem kept_mboxAnswered (s : State) (status : Nat) (body : List (BitVec 32)) : Kept [.host] s (s.mboxAnswer status body) :=
  kept_mboxAnswer (by decide) (Kept.refl _ s)

end Sys2Proof.Machine

/-! PROOF. Family 02_stitch_execution: what the checks of an image read (O29). -/

namespace Sys2Proof.Machine

/-! ### What a read of external memory depends on (R296, R303) -/

/-- The parts of the state that decide what reads of external memory deliver, but for the free values. -/
structure SameStore (s t : State) : Prop where
  mem : t.mem = s.mem
  errs : t.errs = s.errs
  commitSeq : t.stitch.commitSeq = s.stitch.commitSeq
  pages : t.hbm.pages = s.hbm.pages
  mapped : t.hbm.mapped = s.hbm.mapped
  failed : t.hbm.failed = s.hbm.failed

theorem SameStore.refl (s : State) : SameStore s s := ⟨rfl, rfl, rfl, rfl, rfl, rfl⟩

theorem SameStore.symm {s t : State} (h : SameStore s t) : SameStore t s :=
  ⟨h.mem.symm, h.errs.symm, h.commitSeq.symm, h.pages.symm, h.mapped.symm, h.failed.symm⟩

theorem SameStore.trans {s t r : State} (h : SameStore s t) (h' : SameStore t r) : SameStore s r :=
  ⟨h'.mem.trans h.mem, h'.errs.trans h.errs, h'.commitSeq.trans h.commitSeq, h'.pages.trans h.pages, h'.mapped.trans h.mapped,
    h'.failed.trans h.failed⟩

theorem SameStore.hbmWord {a s : State} (h : SameStore a s) (x : Nat) : SameStore a (s.hbmWord x).2.2 := by
  have hk := kept_hbmWord (x0 := x) (List.Subset.refl _) (Kept.refl _ s)
  have hh := hbmStands_hbmWord s x
  exact h.trans ⟨hk.eq_mem (by decide), hk.eq_errs (by decide), by rw [hk.eq_stitch (by decide)], hh.pages, hh.mapped, hh.failed⟩

/-- The free values that the read of a word takes (R398). -/
theorem hbmWord_free (s : State) (x : Nat) : (s.hbmWord x).2.2.free =
    if s.hbmFailed x = false ∧ 2 < (s.errs.get [] (x / 16)).length then s.free + 1 else s.free := by
  unfold State.hbmWord
  by_cases hf : s.hbmFailed x = true
  · rw [if_pos hf, if_neg (by simp [hf])]
  · rw [if_neg hf]
    have hfree : (if 2 < (s.errs.get [] (x / 16)).length then s.takeFree else s).free =
        if s.hbmFailed x = false ∧ 2 < (s.errs.get [] (x / 16)).length then s.free + 1 else s.free := by
      simp only [Bool.not_eq_true] at hf
      by_cases h2 : 2 < (s.errs.get [] (x / 16)).length
      · rw [if_pos h2, if_pos ⟨hf, h2⟩]
        rfl
      · rw [if_neg h2, if_neg fun h => h2 h.2]
    rw [← hfree]
    dsimp only
    split
    · rfl
    · split
      · exact (kept_hbmCorrected (List.Subset.refl _) (Kept.refl _ _)).eq_free (by decide)
      · exact (kept_hbmUncorrectable (List.Subset.refl _) (Kept.refl _ _)).eq_free (by decide)

section

variable {s t : State}

theorem SameStore.pageOf (h : SameStore s t) (x : Nat) : t.pageOf x = s.pageOf x := by rw [State.pageOf, State.pageOf, h.pages]

theorem SameStore.hbmReadAt (h : SameStore s t) (x : Nat) : t.hbmReadAt x = s.hbmReadAt x := by
  rw [State.hbmReadAt, State.hbmReadAt, h.pageOf, h.commitSeq]

theorem SameStore.hbmFailed (h : SameStore s t) (x : Nat) : t.hbmFailed x = s.hbmFailed x := by
  rw [State.hbmFailed, State.hbmFailed, State.hbmPlace, State.hbmPlace, h.mapped, h.failed]

theorem SameStore.decodeAt (h : SameStore s t) (hf : t.free = s.free) (x : Nat) : t.decodeAt x = s.decodeAt x := by
  rw [State.decodeAt, State.decodeAt, hf, h.errs, word_congr h.mem]

theorem hbmWord_data (s : State) (x : Nat) : (s.hbmWord x).1 = if s.hbmFailed x then 0 else (s.decodeAt x).data := by
  unfold State.hbmWord
  split
  · rfl
  · dsimp only
    split
    · rfl
    · split <;> rfl

theorem SameStore.hbmWord_data (h : SameStore s t) (hf : t.free = s.free) (x : Nat) : (t.hbmWord x).1 = (s.hbmWord x).1 := by
  rw [Machine.hbmWord_data, Machine.hbmWord_data, h.hbmFailed, h.decodeAt hf]

theorem SameStore.hbmReadWords_data (h : SameStore s t) (hf : t.free = s.free) (x n : Nat) :
    (t.hbmReadWords x n).1 = (s.hbmReadWords x n).1 := by
  induction n generalizing s t x with
  | zero => rfl
  | succ n ih =>
    have hat := h.hbmReadAt x
    have hstep : SameStore (s.hbmWord (s.hbmReadAt x)).2.2 (t.hbmWord (t.hbmReadAt x)).2.2 :=
      ((SameStore.refl s).hbmWord _).symm.trans (h.hbmWord _)
    have hfree : (t.hbmWord (t.hbmReadAt x)).2.2.free = (s.hbmWord (s.hbmReadAt x)).2.2.free := by
      rw [hbmWord_free, hbmWord_free, hat, h.hbmFailed, h.errs, hf]
    have hrest := ih hstep hfree (x + 16)
    have hword : (t.hbmWord (t.hbmReadAt x)).1 = (s.hbmWord (s.hbmReadAt x)).1 := by rw [hat, h.hbmWord_data hf]
    exact congrArg₂ List.cons hword hrest

theorem SameStore.hbmReadBytes_data (h : SameStore s t) (hf : t.free = s.free) (x n : Nat) : (t.hbmReadBytes x n).1 = (s.hbmReadBytes x n).1 := by
  have hw := h.hbmReadWords_data hf (x / 16 * 16) (ceilDiv (x % 16 + n) 16)
  exact congrArg (fun ws => ((wordsBytes ws).drop (x % 16)).take n) hw

end

end Sys2Proof.Machine

/-! PROOF. Family 02_stitch_execution: the checks of an image, with the mailbox busy and at another time (O29). -/

namespace Sys2Proof.Machine

/-- The same machine at another time, with other registers. -/
def State.reRegs (s : State) (c : Clk) (r : Assoc RegId Reg) : State := { s with clk := c, regs := r }

/-- No register but those of the mailbox differs. -/
def MailboxOnly (s : State) (r : Assoc RegId Reg) : Prop := ∀ id, id ∉ mailboxRegs → r.get (regReset id) id = s.reg id

theorem mailTaken_eq (s : State) (t cmd : Nat) : ∃ c r, (s.masterTime t).mailTaken cmd = s.reRegs c r ∧ MailboxOnly s r := by
  have h : (s.masterTime t).mailTaken cmd = s.reRegs (s.masterTime t).clk ((s.masterTime t).mailTaken cmd).regs := by
    unfold State.masterTime
    split
    · rfl
    · rfl
  exact ⟨_, _, h, fun id hid => (mailTaken_reg_other _ cmd hid).trans (masterTime_reg s t id)⟩

section

variable {s : State} {r : Assoc RegId Reg} (c : Clk) (h : MailboxOnly s r)

include h

theorem MailboxOnly.regN {id : RegId} (hid : id ∉ mailboxRegs) : (s.reRegs c r).regN id = s.regN id := congrArg BitVec.toNat (h id hid)

theorem MailboxOnly.siteBad (i : Image) (u : SiteUse) : (s.reRegs c r).siteBad i u = s.siteBad i u := by
  rw [State.siteBad, State.siteBad, State.siteA, State.siteA, State.siteB, State.siteB, h.regN c (id := .opt u.site .peer) (by simp [mailboxRegs]),
    h.regN c (id := .twin .cfg) (by simp [mailboxRegs])]
  rfl

theorem MailboxOnly.trafficBlocked (i : Image) : (s.reRegs c r).trafficBlocked i = s.trafficBlocked i := by
  have hroute (p d : Nat) : (s.reRegs c r).routeEntry p d = s.routeEntry p d := by
    rw [State.routeEntry, State.routeEntry, h.regN c (by simp [mailboxRegs])]
  simp only [State.trafficBlocked, hroute]

theorem MailboxOnly.minimumBad (i : Image) : (s.reRegs c r).minimumBad i = s.minimumBad i := by
  rw [State.minimumBad, State.minimumBad, h.trafficBlocked c, show (s.reRegs c r).siteBad i = s.siteBad i from funext (h.siteBad c i)]
  rfl

theorem MailboxOnly.vwinOf (q j : Nat) : (s.reRegs c r).vwinOf q j = s.vwinOf q j := by
  rw [State.vwinOf, State.vwinOf, h.regN c (by simp [mailboxRegs])]

theorem MailboxOnly.standing (q : Nat) : (s.reRegs c r).standing q = s.standing q := by
  rw [State.standing, State.standing, show (s.reRegs c r).vwinOf q = s.vwinOf q from funext (h.vwinOf c q)]

theorem MailboxOnly.windowsOk (i : Image) (q : Nat) : (s.reRegs c r).windowsOk i q = s.windowsOk i q := by
  rw [State.windowsOk, State.windowsOk, h.standing c]

theorem MailboxOnly.dspAreasOk (i : Image) (q : Nat) (w : Nat → Nat) : (s.reRegs c r).dspAreasOk i q w = s.dspAreasOk i q w := by
  rw [State.dspAreasOk, State.dspAreasOk, h.standing c]

theorem MailboxOnly.regWordOk (i : Image) : (s.reRegs c r).regWordOk i = s.regWordOk i := by
  funext e
  simp only [State.regWordOk, h.dspAreasOk c]

theorem MailboxOnly.tablesOk (i : Image) : (s.reRegs c r).tablesOk i = s.tablesOk i := by
  simp only [State.tablesOk, h.windowsOk c, h.regWordOk c]
  rfl

theorem MailboxOnly.placeBad (i : Image) : (s.reRegs c r).placeBad i = s.placeBad i := by
  rw [State.placeBad, State.placeBad, h.tablesOk c]
  rfl

omit h in
theorem reRegs_weightOk (w : WeightSet) : (s.reRegs c r).weightOk w = s.weightOk w := by
  have hread := SameStore.hbmReadBytes_data (s := s) (t := s.reRegs c r) ⟨rfl, rfl, rfl, rfl, rfl, rfl⟩ rfl w.base w.length
  rw [State.weightOk, State.weightOk, State.weightBytes, State.weightBytes, hread]
  rfl

omit h in
theorem reRegs_objectBad (i : Image) : (s.reRegs c r).objectBad i = s.objectBad i := by
  simp only [State.objectBad, reRegs_weightOk]
  rfl

theorem MailboxOnly.imageReason (i : Image) : (s.reRegs c r).imageReason i = s.imageReason i := by
  rw [State.imageReason, State.imageReason, reRegs_objectBad, h.minimumBad c, h.placeBad c]

end

/-- The checks do not see the mailbox, nor the time. -/
theorem imageReason_mailTaken (s : State) (t cmd : Nat) (i : Image) : ((s.masterTime t).mailTaken cmd).imageReason i = s.imageReason i := by
  obtain ⟨c, r, hs, hr⟩ := mailTaken_eq s t cmd
  rw [hs, hr.imageReason c]

end Sys2Proof.Machine

/-! PROOF. Family 02_stitch_execution: loading an image and ending a residency (O29). -/

namespace Sys2Proof.Machine

/-! ### What a load leaves as it is -/

/-- From `a` to `s` the pages, the images of the contexts, and the registers of the mailbox stand. -/
structure LoadKeeps (a s : State) : Prop where
  pages : s.hbm.pages = a.hbm.pages
  images : ∀ j, (s.ctx? j).map (fun c => c.image) = (a.ctx? j).map (fun c => c.image)
  mail : ∀ id ∈ mailboxRegs, s.reg id = a.reg id

theorem LoadKeeps.refl (s : State) : LoadKeeps s s := ⟨rfl, fun _ => rfl, fun _ _ => rfl⟩

section

variable {a s : State}

theorem LoadKeeps.then {t : State} (h : LoadKeeps a s) (h' : LoadKeeps s t) : LoadKeeps a t :=
  ⟨h'.pages.trans h.pages, fun j => (h'.images j).trans (h.images j), fun id hid => (h'.mail id hid).trans (h.mail id hid)⟩

theorem LoadKeeps.kept {l : List Comp} {t : State} (h : LoadKeeps a s) (hk : Kept l s t) (hh : .hbm ∉ l) (hc : .ctxs ∉ l) (hr : .regs ∉ l) :
    LoadKeeps a t :=
  h.then ⟨by rw [hk.eq_hbm hh], fun j => by rw [State.ctx?, State.ctx?, hk.eq_ctxs hc], fun id _ => hk.eq_reg hr id⟩

/-- A change of registers that are not of the mailbox. -/
theorem LoadKeeps.keptRegs {l : List Comp} {t : State} (h : LoadKeeps a s) (hk : Kept l s t) (hr : ∀ id ∈ mailboxRegs, t.reg id = s.reg id)
    (hh : .hbm ∉ l) (hc : .ctxs ∉ l) : LoadKeeps a t :=
  h.then ⟨by rw [hk.eq_hbm hh], fun j => by rw [State.ctx?, State.ctx?, hk.eq_ctxs hc], hr⟩

theorem LoadKeeps.count (h : LoadKeeps a s) (r : RegId) (n : Nat) (hr : r ∉ mailboxRegs := by simp [mailboxRegs]) : LoadKeeps a (s.count r n) :=
  h.keptRegs (kept_count (List.Subset.refl _) (Kept.refl _ s)) (fun id hid => by rw [count_reg, if_neg (by rintro rfl; exact hr hid)]) (by decide) (by decide)

theorem LoadKeeps.setReg (h : LoadKeeps a s) (r : RegId) (v : Reg) (hr : r ∉ mailboxRegs := by simp [mailboxRegs]) : LoadKeeps a (s.setReg r v) :=
  h.keptRegs (kept_setReg (List.Subset.refl _) (Kept.refl _ s)) (fun id hid => by rw [setReg_reg, if_neg (by rintro rfl; exact hr hid)]) (by decide) (by decide)

theorem LoadKeeps.raise (h : LoadKeeps a s) (src k w0 w1 w2 w3 : Nat) : LoadKeeps a (s.raise src k w0 w1 w2 w3) :=
  h.kept (kept_raise (List.Subset.refl _) (Kept.refl _ s)) (by decide) (by decide) (by decide)

theorem LoadKeeps.modHost (h : LoadKeeps a s) (f : HostSt → HostSt) : LoadKeeps a (s.modHost f) := h.then ⟨rfl, fun _ => rfl, fun _ _ => rfl⟩

theorem LoadKeeps.modHbm (h : LoadKeeps a s) (f : Hbm → Hbm) (hf : (f s.hbm).pages = s.hbm.pages) : LoadKeeps a (s.modHbm f) :=
  h.then ⟨hf, fun _ => rfl, fun _ _ => rfl⟩

theorem LoadKeeps.setTwin (h : LoadKeeps a s) (x : Twin) : LoadKeeps a { s with twin := x } := h.then ⟨rfl, fun _ => rfl, fun _ _ => rfl⟩

theorem isReadLog_mailboxRegs {id : RegId} (h : id ∈ mailboxRegs) : isReadLog id = false := by
  simp only [mailboxRegs, List.mem_cons, List.not_mem_nil, or_false] at h
  obtain rfl | rfl := h
  · rfl
  · rfl

theorem LoadKeeps.hbmWord (h : LoadKeeps a s) (x : Nat) : LoadKeeps a (s.hbmWord x).2.2 := by
  have hk := kept_hbmWord (x0 := x) (List.Subset.refl _) (Kept.refl _ s)
  have hh := hbmStands_hbmWord s x
  exact h.then ⟨hh.pages, fun j => by rw [State.ctx?, State.ctx?, hk.eq_ctxs (by decide)], fun id hid => hh.reg id (isReadLog_mailboxRegs hid)⟩

theorem LoadKeeps.hbmReadWords (h : LoadKeeps a s) (x n : Nat) : LoadKeeps a (s.hbmReadWords x n).2.2 := by
  induction n generalizing s x with
  | zero => exact h
  | succ n ih => exact ih (h.hbmWord _) _

theorem LoadKeeps.hbmReadBytes (h : LoadKeeps a s) (x n : Nat) : LoadKeeps a (s.hbmReadBytes x n).2 := h.hbmReadWords _ _

/-! #### Writes of external memory -/

theorem LoadKeeps.hbmMark (h : LoadKeeps a s) (x : Nat) : LoadKeeps a (s.hbmMark x) := by
  unfold State.hbmMark
  split
  · exact h.modHbm _ rfl
  · exact h

theorem LoadKeeps.putWord (h : LoadKeeps a s) (x : Nat) (w : Word) : LoadKeeps a (s.putWord x w) := h.then ⟨rfl, fun _ => rfl, fun _ _ => rfl⟩

theorem LoadKeeps.hbmStore (h : LoadKeeps a s) (x : Nat) (w : Word) : LoadKeeps a (s.hbmStore x w) := by
  unfold State.hbmStore
  split
  · exact h
  · exact (h.putWord x w).hbmMark x

theorem LoadKeeps.hbmModified (h : LoadKeeps a s) (x : Nat) : LoadKeeps a (s.hbmModified x) := by
  refine h.then ⟨rfl, fun j => ?_, fun _ _ => rfl⟩
  have hmap : (s.hbmModified x).ctx? j = (s.ctx? j).map fun c => weightsHit c x := Assoc.find?_mapVal s.ctxs (fun _ c => weightsHit c x) j
  rw [hmap, Option.map_map]
  rfl

theorem LoadKeeps.hbmPut (h : LoadKeeps a s) (x : Nat) (w : Word) : LoadKeeps a (s.hbmPut x w) := by
  unfold State.hbmPut
  split
  · exact h
  · exact (h.hbmStore x w).hbmModified _

theorem LoadKeeps.hbmWordWrite (h : LoadKeeps a s) (target : State → Nat → Nat) (x : Nat) (data : List Byte) :
    LoadKeeps a (s.hbmWordWrite target x data) := by
  unfold State.hbmWordWrite
  dsimp only
  split
  · exact h.hbmPut _ _
  · exact (h.hbmWord _).hbmPut _ _

theorem LoadKeeps.hbmBytes (h : LoadKeeps a s) (target : State → Nat → Nat) (x : Nat) (data : List Byte) (n : Nat) :
    LoadKeeps a (s.hbmBytes target x data n) := by
  induction n generalizing s x data with
  | zero => exact h
  | succ n ih =>
    unfold State.hbmBytes
    split
    · exact h
    · exact ih (h.hbmWordWrite target x _) _ _

theorem LoadKeeps.capture (h : LoadKeeps a s) (key : Nat) (copy : List Word) : LoadKeeps a (s.capture key copy) := by
  unfold State.capture
  exact (h.setTwin _).count (.twin .captures) 1

theorem LoadKeeps.hbmCapture (h : LoadKeeps a s) (x : Nat) : LoadKeeps a (s.hbmCapture x) := by
  unfold State.hbmCapture
  split
  · exact h
  · dsimp only
    split
    · exact (h.hbmReadWords _ _).capture _ _
    · exact h

theorem LoadKeeps.hbmLoad (h : LoadKeeps a s) (x : Nat) (data : List Byte) : LoadKeeps a (s.hbmLoad x data) := by
  unfold State.hbmLoad
  exact .hbmBytes (foldl_keeps h fun y i _ hy => hy.hbmCapture _) _ _ _ _

theorem LoadKeeps.hbmContents (h : LoadKeeps a s) (x : Nat) (data : List Byte) : LoadKeeps a (s.hbmContents x data) := by
  unfold State.hbmContents
  refine foldl_keeps h fun y r _ hy => ?_
  split
  · exact hy.kept (kept_addrFault (List.Subset.refl _) (Kept.refl _ y)) (by decide) (by decide) (by decide)
  · exact hy.hbmLoad _ _

/-! #### What an image brings with it -/

theorem LoadKeeps.loadWeights (h : LoadKeeps a s) (i : Image) : LoadKeeps a (s.loadWeights i) := by
  unfold State.loadWeights
  refine foldl_keeps h fun x w _ hx => ?_
  split
  · exact hx.hbmContents _ _
  · exact hx

theorem LoadKeeps.loads (h : LoadKeeps a s) (l : List (Nat × List Byte)) :
    LoadKeeps a (l.foldl (fun x (a, bs) => if a / 2 ^ 44 = 0 then x.loadBytes a bs else x) s) := by
  refine foldl_keeps h fun x e _ hx => ?_
  dsimp only
  split
  · rename_i he
    rw [State.loadBytes, if_pos he]
    exact hx.hbmContents _ _
  · exact hx

theorem LoadKeeps.declareWindow (h : LoadKeeps a s) (k c v : Nat) : LoadKeeps a (s.declareWindow k c v) := by
  unfold State.declareWindow
  split
  · exact h
  · rename_i j _
    exact .kept (l := [.mus]) (h.setReg (.vwin c j) _) (kept_modMu (by decide) (Kept.refl _ _)) (by decide) (by decide) (by decide)

theorem LoadKeeps.declareWindows (h : LoadKeeps a s) (k : Nat) (i : Image) : LoadKeeps a (s.declareWindows k i) := by
  unfold State.declareWindows
  refine foldl_keeps h fun x e _ hx => ?_
  split
  · split
    · exact hx.declareWindow _ _ _
    · exact hx
  · exact hx

theorem LoadKeeps.mapIds (h : LoadKeeps a s) (k : Nat) (i : Image) : LoadKeeps a (s.mapIds k i) :=
  h.kept (kept_mapIds (List.Subset.refl _) (Kept.refl _ s)) (by decide) (by decide) (by decide)

theorem LoadKeeps.dropPair (h : LoadKeeps a s) (q : Nat) : LoadKeeps a (s.dropRegs (isQp q)) :=
  h.keptRegs (l := [.regs]) (kept_dropRegs (by decide) (Kept.refl _ s)) (fun id hid => dropRegs_reg s (by
    simp only [mailboxRegs, List.mem_cons, List.not_mem_nil, or_false] at hid
    obtain rfl | rfl := hid
    · rfl
    · rfl)) (by decide) (by decide)

theorem LoadKeeps.declarePair (h : LoadKeeps a s) (k : Nat) (d : QpDecl) : LoadKeeps a (s.declarePair k d) := by
  unfold State.declarePair
  exact (((LoadKeeps.modHost (h.dropPair d.q) _).setReg (.qp d.q .cfg) _).setReg (.qp d.q .inBase) _).setReg (.qp d.q .outBase) _

theorem LoadKeeps.weightsRead (h : LoadKeeps a s) (i : Image) : LoadKeeps a (s.weightsRead i) := by
  unfold State.weightsRead
  refine foldl_keeps h fun x w _ hx => ?_
  split
  · exact hx
  · exact hx.hbmReadBytes _ _

theorem LoadKeeps.negotiate (h : LoadKeeps a s) (i maxM minM caps own : Nat) : LoadKeeps a (s.negotiate i maxM minM caps own) := by
  unfold State.negotiate
  exact (((h.setReg (.ver i 2) _).setReg (.ver i 3) _).setReg (.ver i 4) _).setReg (.ver i 5) _

theorem LoadKeeps.signatureFailure (h : LoadKeeps a s) (cls : Nat) (m : Manifest) : LoadKeeps a (s.signatureFailure cls m) :=
  h.kept (kept_signatureFailure (List.Subset.refl _) (Kept.refl _ s)) (by decide) (by decide) (by decide)

theorem LoadKeeps.imageChecked (h : LoadKeeps a s) (i : Image) (reason : Option Nat) : LoadKeeps a (s.imageChecked i reason) := by
  unfold State.imageChecked
  split
  · exact h
  · split
    · refine foldl_keeps (P := LoadKeeps a) ?_ fun x w _ hx => ?_
      · split
        · exact h.weightsRead i
        · exact (h.weightsRead i).signatureFailure _ _
      · split
        · exact hx
        · exact hx.signatureFailure _ _
    · dsimp only
      split
      · exact .kept ((h.weightsRead i).negotiate _ _ _ _ _) (kept_mismatch (List.Subset.refl _) (Kept.refl _ _)) (by decide) (by decide) (by decide)
      · exact (h.weightsRead i).negotiate _ _ _ _ _

end

/-! ### The new residency -/

/-- The pages of an image, as they begin (R302, R352). -/
def newPages (k : Nat) (i : Image) : List VPage :=
  i.pages.map (fun b => (⟨b, k, [], [], [], none⟩ : VPage)) ++ i.importPages.map fun b => (⟨b, k, [], [], [], some k⟩ : VPage)

/-- Context `k` as an image makes it resident. -/
def newCtx (i : Image) (order : Nat) : Ctx :=
  { image := i, mask := 0, halted := false, failed := false, modified := [], order := order, voided := false }

/-- Before its context stands, an image has brought its pages and nothing else that the others see. -/
theorem makeResident_eq (s : State) (k : Nat) (i : Image) : ∃ x order, s.makeResident k i = x.setCtx k (newCtx i order) ∧
    LoadKeeps (s.modHbm fun h => { h with pages := h.pages ++ newPages k i }) x := by
  have h1 := ((((LoadKeeps.refl (s.modHbm fun h => { h with pages := h.pages ++ newPages k i })).loads i.loads).loadWeights i).declareWindows k i).mapIds k i
  have h2 := foldl_keeps (l := i.qps) (P := LoadKeeps (s.modHbm fun h => { h with pages := h.pages ++ newPages k i })) h1
    fun x d _ hx => hx.declarePair k d
  exact ⟨_, _, rfl, h2⟩

/-- What residency as context `k` means for the contexts, the pages and the mailbox. -/
structure Resident (k : Nat) (i : Image) (s r : State) : Prop where
  ctx : ∃ order, r.ctx? k = some (newCtx i order)
  others : ∀ j, j ≠ k → (r.ctx? j).map (fun c => c.image) = (s.ctx? j).map fun c => c.image
  pages : r.hbm.pages = s.hbm.pages ++ newPages k i
  mail : ∀ id ∈ mailboxRegs, r.reg id = s.reg id

theorem makeResident_resident {s t : State} (k : Nat) (i : Image) (h : LoadKeeps s t) : Resident k i s (t.makeResident k i) := by
  obtain ⟨x, order, hx, hpages, himages, hmail⟩ := makeResident_eq t k i
  rw [hx]
  refine ⟨⟨order, by rw [setCtx_ctx, if_pos rfl]⟩, fun j hj => ?_, ?_, fun id hid => ?_⟩
  · rw [setCtx_ctx, if_neg hj.symm, himages, ← h.images j]
    rfl
  · rw [setCtx_hbm, hpages, ← h.pages]
    rfl
  · rw [setCtx_reg, hmail id hid, ← h.mail id hid]
    rfl

theorem Resident.kept {k : Nat} {i : Image} {s r t : State} {l : List Comp} (h : Resident k i s r) (hk : Kept l r t) (hc : .ctxs ∉ l) (hh : .hbm ∉ l)
    (hr : .regs ∉ l) : Resident k i s t := by
  obtain ⟨ctx, others, pages, mail⟩ := h
  have hctx (j : Nat) : t.ctx? j = r.ctx? j := by rw [State.ctx?, State.ctx?, hk.eq_ctxs hc]
  exact ⟨by rwa [hctx], fun j hj => by rw [hctx, others j hj], by rw [hk.eq_hbm hh, pages], fun id hid => by rw [hk.eq_reg hr, mail id hid]⟩

/-- An image that passes every check becomes resident (R437). -/
theorem admitImage_resident (s : State) (k : Nat) (i : Image) :
    (s.admitImage k i none).1 = 0 ∧ Resident k i s (s.admitImage k i none).2 := by
  have h := makeResident_resident k i ((LoadKeeps.refl s).imageChecked i none)
  refine ⟨rfl, ?_⟩
  unfold State.admitImage
  dsimp only
  split
  · exact h.kept (kept_advanceImage (List.Subset.refl _) (Kept.refl _ _)) (by decide) (by decide) (by decide)
  · exact h

/-! ### Command 0x0010 -/

theorem kept_taken (s : State) (t cmd : Nat) : Kept [.clk, .regs] s ((s.masterTime t).mailTaken cmd) :=
  (kept_atMasterTime s t (by decide)).trans ((kept_mailTaken _ cmd).mono (by decide))

theorem answered_masterTime {cmd status : Nat} {body : List (BitVec 32)} {s r : State} (t : Nat) (h : Answered cmd status body (s.masterTime t) r) :
    Answered cmd status body s r := by
  rwa [Answered, masterTime_regN] at h

/-- An image of either source goes through the checks of its kind (R430). -/
theorem loadFrom_of_image {s y : State} {k : Nat} {i : Image} {x : ImageSource} (hs : y.store = s.store) (hk : k < 4) (hc : y.ctx? k = none)
    (hx : x = .memory i ∨ ∃ e, x = .ufs e ∧ s.ufsImage e = some i) : y.loadFrom k x = y.admitImage k i (y.imageReason i) := by
  have hload : y.loadImage k i = y.admitImage k i (y.imageReason i) := by rw [State.loadImage, if_neg (by omega), if_neg (by simp [hc])]
  obtain rfl | ⟨e, rfl, he⟩ := hx
  · exact hload
  · have hey : y.ufsImage e = some i := by rwa [State.ufsImage, hs]
    simp only [State.loadFrom, hey, hload]

theorem exec_mboxLoadImage {s : State} {k : Nat} {i : Image} {x : ImageSource} (t : Nat) (hf : MailboxFree s) (hi : s.sup.inventory = true) (hk : k < 4)
    (hc : s.ctx? k = none) (hx : x = .memory i ∨ ∃ e, x = .ufs e ∧ s.ufsImage e = some i) : exec (.mboxLoadImage t k x) s =
      .next ((((s.masterTime t).mailTaken 0x10).admitImage k i (s.imageReason i)).2.mboxAnswer
        (((s.masterTime t).mailTaken 0x10).admitImage k i (s.imageReason i)).1 []) := by
  have hy := kept_taken s t 0x10
  have hinv : ((s.masterTime t).mailTaken 0x10).sup.inventory = true := by rw [hy.eq_sup (by decide), hi]
  have hfrom := loadFrom_of_image (y := (s.masterTime t).mailTaken 0x10) (hy.eq_store (by decide)) hk
    (by rw [State.ctx?, hy.eq_ctxs (by decide)]; exact hc) hx
  rw [imageReason_mailTaken] at hfrom
  have hload : (s.masterTime t).mboxLoad k x = ((((s.masterTime t).mailTaken 0x10).admitImage k i (s.imageReason i)).2.mboxAnswer
        (((s.masterTime t).mailTaken 0x10).admitImage k i (s.imageReason i)).1 []) := by
    rw [State.mboxLoad, mboxTake_of_free _ _ (mailboxFree_masterTime t hf)]
    simp only [hinv, hfrom, Bool.not_true, Bool.false_eq_true, if_false]
  exact congrArg Host.Outcome.next hload

/-! ### Ending a residency (R57, R288) -/

theorem LoadKeeps.modReg {a s : State} (h : LoadKeeps a s) (r : RegId) (f : Reg → Reg) (hr : r ∉ mailboxRegs := by simp [mailboxRegs]) :
    LoadKeeps a (s.modReg r f) := h.setReg r _ hr

theorem LoadKeeps.waitEnd {a s : State} (h : LoadKeeps a s) (n state : Nat) : LoadKeeps a (s.waitEnd n state) := by
  unfold State.waitEnd
  dsimp only
  split
  · exact ((h.modReg (.waitCfg n) _).setReg (.waitState n) _).raise _ _ _ _ _ _
  · exact (h.modReg (.waitCfg n) _).setReg (.waitState n) _

/-- The waits of context `k` end, and the identifiers that it still used are reported (R286, R288). -/
def State.waitsEnded (s : State) (k : Nat) : State :=
  let s1 := (List.range 32).foldl (fun x n => if (x.hwait n).armed && (x.hwait n).ctx == k then x.waitEnd n 3 else x) s
  let used := (List.filter (fun (e : Nat × HCounter) => e.2.ctx == k && e.2.value != 0) s1.hsync.phys).length
  if used = 0 then s1 else s1.raise 363 0x17 used k 0 0

theorem LoadKeeps.waitsEnded {a s : State} (h : LoadKeeps a s) (k : Nat) : LoadKeeps a (s.waitsEnded k) := by
  have h1 : LoadKeeps a ((List.range 32).foldl (fun x n => if (x.hwait n).armed && (x.hwait n).ctx == k then x.waitEnd n 3 else x) s) := by
    refine foldl_keeps h fun x n _ hx => ?_
    split
    · exact hx.waitEnd n 3
    · exact hx
  unfold State.waitsEnded
  dsimp only
  split
  · exact h1
  · exact h1.raise _ _ _ _ _ _

theorem LoadKeeps.abandon {a s : State} (h : LoadKeeps a s) (k : Nat) : LoadKeeps a (s.abandon k) :=
  (h.waitsEnded k).then ⟨rfl, fun _ => rfl, fun _ _ => rfl⟩

theorem abandon_phys (s : State) (k : Nat) : ∀ e ∈ (s.abandon k).hsync.phys, e.2.ctx ≠ k := fun e he =>
  bne_iff_ne.1 (List.mem_filter.1 (show e ∈ List.filter (fun e : Nat × HCounter => e.2.ctx != k) (s.waitsEnded k).hsync.phys from he)).2

theorem abandon_inForwards (s : State) (k : Nat) : ∀ f ∈ (s.abandon k).hsync.inForwards, f.1 ≠ k := fun f hf =>
  bne_iff_ne.1 (List.mem_filter.1 (show f ∈ (s.waitsEnded k).hsync.inForwards.filter (fun f => f.1 != k) from hf)).2

theorem LoadKeeps.clearWindows {a s : State} (h : LoadKeeps a s) (k : Nat) : LoadKeeps a (s.clearWindows k) := by
  unfold State.clearWindows
  refine foldl_keeps h fun x e _ hx => ?_
  split
  · rename_i c j _
    exact .kept (l := [.mus]) (hx.setReg (.vwin c j) _) (kept_modMu (by decide) (Kept.refl _ _)) (by decide) (by decide) (by decide)
  · exact hx

/-- A context's counters, windows and pairs are freed. -/
def State.freed (s : State) (k : Nat) (c : Ctx) : State :=
  c.image.qps.foldl (fun x d => (x.dropRegs (isQp d.q)).modHost (fun h => { h with qps := h.qps.erase d.q })) ((s.abandon k).clearWindows k)

theorem LoadKeeps.freed {a s : State} (h : LoadKeeps a s) (k : Nat) (c : Ctx) : LoadKeeps a (s.freed k c) := by
  unfold State.freed
  exact foldl_keeps ((h.abandon k).clearWindows k) fun x d _ hx => (hx.dropPair d.q).modHost _

theorem kept_freed (s : State) (k : Nat) (c : Ctx) : Kept [.regs, .hsync, .bays, .cus, .evt, .mus, .host] s (s.freed k c) := by
  unfold State.freed
  exact Kept.foldl (kept_clearWindows (by decide) (kept_abandon (by decide) (Kept.refl _ s))) fun x d hx =>
    kept_modHost (by decide) (kept_dropRegs (by decide) hx)

theorem freed_hsync (s : State) (k : Nat) (c : Ctx) : (s.freed k c).hsync = (s.abandon k).hsync := by
  have h : Kept [.regs, .mus, .host] (s.abandon k) (s.freed k c) := by
    unfold State.freed
    exact Kept.foldl (kept_clearWindows (by decide) (Kept.refl _ _)) fun x d hx => kept_modHost (by decide) (kept_dropRegs (by decide) hx)
  exact h.eq_hsync (by decide)

section

variable {s : State} {k : Nat} {c : Ctx} (h : s.ctx? k = some c)

include h

theorem endResidency_ctxs : (s.endResidency k).ctxs = (s.freed k c).ctxs.erase k := by
  simp only [State.endResidency, h]
  rfl

theorem endResidency_pages : (s.endResidency k).hbm.pages = (s.freed k c).hbm.pages.filter fun p => p.ctx != k := by
  simp only [State.endResidency, h]
  rfl

theorem endResidency_hsync : (s.endResidency k).hsync = (s.freed k c).hsync := by
  simp only [State.endResidency, h]
  rfl

theorem endResidency_reg (id : RegId) : (s.endResidency k).reg id = (s.freed k c).reg id := by
  simp only [State.endResidency, h]
  rfl

end

theorem mboxEndRes_of_resident {s : State} {k : Nat} (hk : k < 4) (hc : (s.ctx? k).isSome = true) : (if (s.ctx? k).isNone ∨ 4 ≤ k then s.mboxAnswer 2 []
    else if s.residencyHeld k then s.mboxAnswer 3 [] else (s.endResidency k).mboxAnswer 0 []) =
      if s.residencyHeld k then s.mboxAnswer 3 [] else (s.endResidency k).mboxAnswer 0 [] := by
  rw [if_neg]
  obtain ⟨c, hc⟩ := Option.isSome_iff_exists.1 hc
  simp [hc, hk]

theorem exec_mboxEndResidency {s : State} {k : Nat} (t : Nat) (hf : MailboxFree s) (hk : k < 4) (hc : (s.ctx? k).isSome = true) :
    exec (.mboxEndResidency t k) s = .next (if s.residencyHeld k then ((s.masterTime t).mailTaken 0x11).mboxAnswer 3 []
      else (((s.masterTime t).mailTaken 0x11).endResidency k).mboxAnswer 0 []) := by
  have hy := kept_taken s t 0x11
  have hctx : ((s.masterTime t).mailTaken 0x11).ctx? k = s.ctx? k := by rw [State.ctx?, State.ctx?, hy.eq_ctxs (by decide)]
  have hheld : ((s.masterTime t).mailTaken 0x11).residencyHeld k = s.residencyHeld k := by
    rw [State.residencyHeld, State.residencyHeld, hctx, State.active, State.active, hy.eq_stitch (by decide)]
  have hend : (s.masterTime t).mboxEndRes k = if s.residencyHeld k then ((s.masterTime t).mailTaken 0x11).mboxAnswer 3 []
      else (((s.masterTime t).mailTaken 0x11).endResidency k).mboxAnswer 0 [] := by
    rw [State.mboxEndRes, mboxTake_of_free _ _ (mailboxFree_masterTime t hf), mboxEndRes_of_resident hk (by rwa [hctx]), hheld]
  exact congrArg Host.Outcome.next hend

/-- Settles O29: the checks do not see the mailbox (`imageReason_mailTaken`), a load brings only the image's own (`admitImage_resident`), and
the end of a residency frees what is the context's. -/
theorem residencyBeginsAndEnds : Obligations.ResidencyBeginsAndEnds := by
  unfold Obligations.ResidencyBeginsAndEnds
  refine ⟨fun t k i x s hf hi hk hc _ hr hx => ⟨_, exec_mboxLoadImage t hf hi hk hc hx, ?_⟩,
    fun t k n i x s hf hi hk hc _ hr hx => ⟨_, exec_mboxLoadImage t hf hi hk hc hx, ?_⟩,
    fun t k s hf hk hc hh => ⟨_, exec_mboxEndResidency t hf hk hc, ?_⟩, fun t k s hf hk hc hh => ⟨_, exec_mboxEndResidency t hf hk hc, ?_⟩⟩
  · rw [hr]
    have hy := kept_taken s t 0x10
    obtain ⟨hstatus, ⟨order, hctx⟩, hothers, hpages, hmail⟩ := admitImage_resident ((s.masterTime t).mailTaken 0x10) k i
    rw [hy.eq_hbm (by decide)] at hpages
    rw [hstatus]
    refine ⟨answered_masterTime t (answered_mboxAnswer 0 [] (by decide) hmail), ⟨_, hctx, rfl, rfl, rfl, rfl⟩, fun j hj => ?_, fun b hb => ?_, fun p hp => ?_,
      (kept_mboxAnswer (by decide) (kept_admitImage (by decide) (hy.mono (by decide)))).touches⟩
    · refine (hothers j hj).trans ?_
      rw [State.ctx?, State.ctx?, hy.eq_ctxs (by decide)]
    · refine ⟨⟨b, k, [], [], [], none⟩, ?_, rfl, rfl, rfl, rfl⟩
      rw [State.mboxAnswer, modHost_hbm, hpages, newPages]
      exact List.mem_append_right _ (List.mem_append_left _ (List.mem_map.2 ⟨b, hb, rfl⟩))
    · rw [State.mboxAnswer, modHost_hbm, hpages]
      exact List.mem_append_left _ hp
  · rw [hr]
    have hy := kept_taken s t 0x10
    have hchecked := kept_imageChecked (i := i) (reason := some n) (l := [.free, .regs, .clk, .host, .evt, .hbm, .rel]) (by decide) (hy.mono (by decide))
    have hmail := (((LoadKeeps.refl ((s.masterTime t).mailTaken 0x10)).imageChecked i (some n)).raise 366 0x72 n k 0 0).mail
    refine ⟨answered_masterTime t (answered_mboxAnswer 3 [] (by decide) hmail), ?_, (kept_mboxAnswer (by decide) (kept_refuseImage (by decide) hchecked)).touches⟩
    obtain ⟨ts, hev⟩ := raised_raise (((s.masterTime t).mailTaken 0x10).imageChecked i (some n)) 366 0x72 n k 0 0
    refine ⟨⟨366, 0x72, n % 2 ^ 32, k % 2 ^ 32, 0, 0, ts⟩, ?_, rfl, rfl, rfl, Nat.mod_eq_of_lt (by omega)⟩
    rw [State.mboxAnswer, modHost_evt]
    exact (congrArg Evt.inflight hev).symm ▸ List.mem_append_right _ (List.mem_singleton.2 rfl)
  · rw [if_neg (by simp [hh])]
    have hy := kept_taken s t 0x11
    obtain ⟨c, hc⟩ := Option.isSome_iff_exists.1 hc
    have hcy : ((s.masterTime t).mailTaken 0x11).ctx? k = some c := by
      rw [State.ctx?, hy.eq_ctxs (by decide)]
      exact hc
    have hctxs : (((s.masterTime t).mailTaken 0x11).endResidency k).ctxs = s.ctxs.erase k := by
      rw [endResidency_ctxs hcy, (kept_freed _ k c).eq_ctxs (by decide), hy.eq_ctxs (by decide)]
    have hmail := ((LoadKeeps.refl ((s.masterTime t).mailTaken 0x11)).freed k c).mail
    have hk := kept_mboxAnswered (((s.masterTime t).mailTaken 0x11).endResidency k) 0 []
    have hall : Kept [.regs, .stitch, .ctxs, .hsync, .bays, .cus, .mus, .host, .evt, .hbm, .clk] s (((s.masterTime t).mailTaken 0x11).endResidency k) :=
      kept_endResidency (by decide) (hy.mono (by decide))
    refine ⟨answered_masterTime t (answered_mboxAnswer 0 [] (by decide) fun id hid => (endResidency_reg hcy id).trans (hmail id hid)), ?_, fun j hj => ?_,
      fun p hp => ?_, ?_, ?_, ?_⟩
    · rw [State.ctx?, hk.eq_ctxs (by decide), hctxs, Assoc.find?_erase_same]
    · rw [State.ctx?, hk.eq_ctxs (by decide), hctxs, Assoc.find?_erase, if_neg fun e => hj (by simp [e]), State.ctx?]
    · rw [hk.eq_hbm (by decide), endResidency_pages hcy] at hp
      exact bne_iff_ne.1 (List.mem_filter.1 hp).2
    · rw [hk.eq_hsync (by decide), endResidency_hsync hcy, freed_hsync]
      exact abandon_phys _ k
    · rw [hk.eq_hsync (by decide), endResidency_hsync hcy, freed_hsync]
      exact abandon_inForwards _ k
    · rw [hk.eq_mem (by decide), hall.eq_mem (by decide)]
  · rw [if_pos hh]
    exact ⟨answered_masterTime t (answered_mboxAnswer 3 [] (by decide) fun _ _ => rfl),
      (kept_mboxAnswer (by decide) ((kept_taken s t 0x11).mono (by decide))).touches⟩

end Sys2Proof.Machine

/-! PROOF. Family 02_stitch_execution: message channels, their senders and the release of a ring (O45). -/

namespace Sys2Proof.Machine

/-! ### What the time master's count leaves -/

theorem masterTime_eq (s : State) (t : Nat) : ∃ c, s.masterTime t = { s with clk := c } := by
  unfold State.masterTime
  split
  · exact ⟨_, rfl⟩
  · exact ⟨_, rfl⟩

section

variable (s : State) (t : Nat)

@[simp] theorem masterTime_engineRuns (u : Nat) : (s.masterTime t).engineRuns u = s.engineRuns u := by
  obtain ⟨c, h⟩ := masterTime_eq s t
  rw [h]
  rfl

@[simp] theorem masterTime_routerRuns (c : Nat) : (s.masterTime t).routerRuns c = s.routerRuns c := by
  obtain ⟨c, h⟩ := masterTime_eq s t
  rw [h]
  rfl

@[simp] theorem masterTime_stale (lo : Nat) : (s.masterTime t).stale lo = s.stale lo := by
  obtain ⟨c, h⟩ := masterTime_eq s t
  rw [h]
  rfl

@[simp] theorem masterTime_stitchLo (n : Nat) : (s.masterTime t).stitchLo n = s.stitchLo n := by
  obtain ⟨c, h⟩ := masterTime_eq s t
  rw [h]
  rfl

@[simp] theorem masterTime_bank : (s.masterTime t).bank = s.bank := by
  obtain ⟨c, h⟩ := masterTime_eq s t
  rw [h]
  rfl

@[simp] theorem masterTime_cuWins (u : Nat) : (s.masterTime t).cuWins u = s.cuWins u := by
  obtain ⟨c, h⟩ := masterTime_eq s t
  rw [h]
  rfl

@[simp] theorem masterTime_ringCfg (u k : Nat) : (s.masterTime t).ringCfg u k = s.ringCfg u k := by
  obtain ⟨c, h⟩ := masterTime_eq s t
  rw [h]
  rfl

@[simp] theorem masterTime_chanDest (u ch : Nat) : (s.masterTime t).chanDest u ch = s.chanDest u ch := by
  obtain ⟨c, h⟩ := masterTime_eq s t
  rw [h]
  rfl

theorem masterTime_cusAlone {l : List Nat} {s r : State} (t : Nat) (h : CusAlone l (s.masterTime t) r) : CusAlone l s r := fun v hv =>
  (h v hv).trans (masterTime_cu s t v)

end

/-! ### A CU's messages and channels -/

theorem modMsg_cu (s : State) (u : Nat) (f : Msg → Msg) (v : Nat) :
    (s.modMsg u f).cu v = if u = v then { s.cu u with msg := f (s.cu u).msg } else s.cu v := by
  rw [State.modMsg, modCu_cu]

theorem modChan_cu (s : State) (u ch : Nat) (f : Chan → Chan) (v : Nat) :
    (s.modChan u ch f).cu v = if u = v then (s.cu u).setChan ch (f ((s.cu u).chan ch)) else s.cu v := by
  rw [State.modChan, modCu_cu]

theorem setChan_chan (c : Cu) (ch : Nat) (x : Chan) : (c.setChan ch x).chan ch = x := by
  rw [Cu.chan, Cu.setChan, Assoc.get_set, if_pos rfl]

theorem modChan_chan (s : State) (u ch : Nat) (f : Chan → Chan) : ((s.modChan u ch f).cu u).chan ch = f ((s.cu u).chan ch) := by
  rw [modChan_cu, if_pos rfl, setChan_chan]

theorem modChan_cusAlone (s : State) (u ch : Nat) (f : Chan → Chan) : CusAlone [u] s (s.modChan u ch f) := fun v hv => by
  rw [modChan_cu, if_neg fun e => hv (by simp [e])]

theorem modMsg_cusAlone (s : State) (u : Nat) (f : Msg → Msg) : CusAlone [u] s (s.modMsg u f) := fun v hv => by
  rw [modMsg_cu, if_neg fun e => hv (by simp [e])]

theorem count_cu (s : State) (r : RegId) (n u : Nat) : (s.count r n).cu u = s.cu u := hwSet_cu s r _ u

theorem CusAlone.trans {l : List Nat} {s t r : State} (h : CusAlone l s t) (h' : CusAlone l t r) : CusAlone l s r := fun v hv =>
  (h' v hv).trans (h v hv)

theorem cusAlone_of_kept {k : List Comp} {s t : State} (l : List Nat) (h : Kept k s t) (hk : .cus ∉ k) : CusAlone l s t := fun v _ => h.eq_cu hk v

/-! ### Sending (R258, R259) -/

theorem length_readMany (s : State) (rd : State → Nat → Word × State) (w n : Nat) : (s.readMany rd w n).1.length = n := by
  induction n generalizing s w with
  | zero => rfl
  | succ n ih => exact congrArg (· + 1) (ih _ _)

/-- The part that the channel sends next. -/
def State.nextPart (s : State) (u ch : Nat) (j : SendJob) (first n : Nat) : MsgPart :=
  { src := u, chan := ch, dst := (s.chanDest u ch).1, ring := (s.chanDest u ch).2, ctx := s.active, stitchLo := s.stitchLo 2, units := j.units
    part := first, data := (s.readMany (fun x k => x.msgUnit u ch j k) first n).1 }

/-- The machine once the units of the part have been read. -/
def State.partRead (s : State) (u ch : Nat) (j : SendJob) (first n : Nat) : State := (s.readMany (fun x k => x.msgUnit u ch j k) first n).2

theorem kept_partRead (s : State) (u ch : Nat) (j : SendJob) (first n : Nat) :
    Kept [.free, .mem, .errs, .regs, .bays, .evt, .rel] s (s.partRead u ch j first n) :=
  kept_readMany (by decide) (Kept.refl _ s) fun _ _ h => kept_msgUnit (by decide) h

theorem messageInject_of_head {s : State} {u ch : Nat} {j : SendJob} {rest : List SendJob} (hq : ((s.cu u).chan ch).queue = j :: rest)
    (hi : ((s.cu u).chan ch).injected < j.units) (hr : ((s.cu u).chan ch).retryAt = none) : s.messageInject u ch =
      ((s.partRead u ch j ((s.cu u).chan ch).injected (min 16 (j.units - ((s.cu u).chan ch).injected))).modChan u ch fun x =>
        { x with flying := true, injected := x.injected + min 16 (j.units - ((s.cu u).chan ch).injected) }).modMsg u fun m =>
          { m with out := m.out ++ [s.nextPart u ch j ((s.cu u).chan ch).injected (min 16 (j.units - ((s.cu u).chan ch).injected))] } := by
  unfold State.messageInject
  dsimp only
  rw [hq]
  dsimp only
  rw [if_neg (by simp [hr]; omega)]
  rfl

theorem nextPart_header (s : State) (u ch : Nat) (j : SendJob) {n : Nat} (hn : 0 < n) :
    (s.nextPart u ch j 0 n).data.getD 0 0 = msgHeader j.units 0 j.seq (clX (u / 4)) (clY (u / 4)) (u % 4) ch := by
  obtain ⟨n, rfl⟩ : ∃ k, n = k + 1 := ⟨n - 1, by omega⟩
  rfl

theorem message_injected {t u ch n : Nat} {c : Chan} {j : SendJob} {rest : List SendJob} {s : State} (hr : s.engineRuns u = true)
    (hc : c = Assoc.get Chan.reset (s.cu u).msg.chans ch) (hq : c.queue = j :: rest) (hi : c.injected < j.units) (hn : c.retryAt = none)
    (hmin : n = min 16 (j.units - c.injected)) : Completes (exec (.messageSendInject t u ch) s) fun r =>
      Assoc.get Chan.reset (r.cu u).msg.chans ch = { c with flying := true, injected := c.injected + n } ∧
      (∃ p, (r.cu u).msg.out = (s.cu u).msg.out ++ [p] ∧ p.src = u ∧ p.chan = ch ∧ p.dst = (s.chanDest u ch).1 ∧ p.ring = (s.chanDest u ch).2 ∧
        p.units = j.units ∧ p.part = c.injected ∧ p.stitchLo = s.stitchLo 2 ∧ p.data.length = n ∧
        (c.injected = 0 → p.data.getD 0 0 = msgHeader j.units 0 j.seq (clX (u / 4)) (clY (u / 4)) (u % 4) ch)) ∧ CusAlone [u] s r := by
  have hcm : ((s.masterTime t).cu u).chan ch = c := by rw [masterTime_cu, hc, Cu.chan]
  have hinj := messageInject_of_head (s := s.masterTime t) (u := u) (ch := ch) (by rw [hcm, hq]) (by rw [hcm]; exact hi) (by rw [hcm, hn])
  rw [hcm, ← hmin] at hinj
  have hread := kept_partRead (s.masterTime t) u ch j c.injected n
  have hcu : ((s.masterTime t).partRead u ch j c.injected n).cu u = s.cu u := by rw [hread.eq_cu (by decide), masterTime_cu]
  refine ⟨_, congrArg Host.Outcome.next ((if_pos ((masterTime_engineRuns s t u).trans hr)).trans hinj), ?_,
    ⟨(s.masterTime t).nextPart u ch j c.injected n, ?_, rfl, rfl, ?_, ?_, rfl, rfl, ?_, ?_, ?_⟩, ?_⟩
  · rw [modMsg_cu, if_pos rfl]
    refine (modChan_chan _ u ch _).trans ?_
    rw [hcu, Cu.chan, ← hc]
  · rw [modMsg_cu, if_pos rfl, modChan_cu, if_pos rfl, hcu]
    rfl
  · rw [State.nextPart, masterTime_chanDest]
  · rw [State.nextPart, masterTime_chanDest]
  · rw [State.nextPart, masterTime_stitchLo]
  · exact length_readMany _ _ _ _
  · intro h0
    rw [h0]
    exact nextPart_header _ u ch j (by omega)
  · refine masterTime_cusAlone t (.trans (cusAlone_of_kept _ hread (by decide)) ?_)
    exact .trans (modChan_cusAlone _ u ch _) (modMsg_cusAlone _ u _)

/-! ### Answers and retries (R258) -/

theorem takeEjected_of_none {s : State} {c : Nat} (f : Packet → Bool) (h : (s.rtr c).ejected = []) : s.takeEjected c f = (none, s) := by
  rw [State.takeEjected, h]
  rfl

theorem messageResponse_of_none {s : State} (u ch status : Nat) (h : (s.rtr (u / 4)).ejected = []) :
    s.messageResponse u ch status = s.messageAnswer u ch status := by
  rw [State.messageResponse, takeEjected_of_none _ h]

theorem messageAnswer_ack {s : State} {u ch : Nat} (hf : ((s.cu u).chan ch).flying = true) (hr : ((s.cu u).chan ch).retryAt = none)
    (hb : (s.regN (.chan u ch 1)).testBit 31 = false) : s.messageAnswer u ch 0 = (s.count (.cu u .msgOutOk) 1).sendDone u ch := by
  have hbit : bitOf (s.regN (.chan u ch 1)) 31 = false := hb
  simp only [State.messageAnswer, hf, hr, hbit, Bool.not_true, Option.isSome_none, Bool.or_self, Bool.false_eq_true, if_false]

theorem messageAnswer_noSpace {s : State} {u ch : Nat} (hf : ((s.cu u).chan ch).flying = true) (hr : ((s.cu u).chan ch).retryAt = none)
    (hn : ((s.cu u).chan ch).retries < s.regN (.chan u ch 0) / 2 ^ 27 % 2 ^ 4) :
    s.messageAnswer u ch 3 = s.modChan u ch fun c => { c with retryAt := some (s.clk.ns + 32) } := by
  have hfield : field (s.regN (.chan u ch 0)) 30 27 = s.regN (.chan u ch 0) / 2 ^ 27 % 2 ^ 4 := by
    rw [field, Nat.shiftRight_eq_div_pow]
  simp only [State.messageAnswer, hf, hr, hfield, hn, Bool.not_true, Option.isSome_none, Bool.or_self, Bool.false_eq_true, if_false, or_true, if_true]

theorem messageRetry_of_due {s : State} {u ch a : Nat} (hr : ((s.cu u).chan ch).retryAt = some a) (ha : a ≤ s.clk.ns) : s.messageRetry u ch =
    (s.modChan u ch fun c => { c with retryAt := none, injected := 0, retries := c.retries + 1 }).count (.cu u .msgRetry) 1 := by
  simp only [State.messageRetry, hr, ha, if_true]

theorem message_acknowledged {t u ch : Nat} {c : Chan} {s : State} (hr : s.engineRuns u = true) (hc : c = Assoc.get Chan.reset (s.cu u).msg.chans ch)
    (hf : c.flying = true) (hn : c.retryAt = none) (he : (s.rtr (u / 4)).ejected = []) (hb : (s.regN (.chan u ch 1)).testBit 31 = false) :
    Completes (exec (.messageResponse t u ch 0) s) fun r =>
      Assoc.get Chan.reset (r.cu u).msg.chans ch = { c with queue := c.queue.drop 1, flying := false, injected := 0, retries := 0, retryAt := none } ∧
      r.reg (.cu u .msgOutOk) = satReg (s.reg (.cu u .msgOutOk)) 1 ∧ RegsAlone [.cu u .msgOutOk] s r ∧ CusAlone [u] s r ∧ Touches [.clk, .regs, .cus] s r := by
  have hcm : ((s.masterTime t).cu u).chan ch = c := by rw [masterTime_cu, hc, Cu.chan]
  have hans := messageAnswer_ack (s := s.masterTime t) (u := u) (ch := ch) (by rw [hcm, hf]) (by rw [hcm, hn]) (by rwa [masterTime_regN])
  rw [← messageResponse_of_none _ _ _ (by rwa [masterTime_rtr])] at hans
  refine ⟨_, congrArg Host.Outcome.next ((if_pos ((masterTime_engineRuns s t u).trans hr)).trans hans), ?_, ?_, fun id hid => ?_, ?_,
    (kept_modChan (by decide) (kept_count (by decide) (kept_atMasterTime s t (by decide)))).touches⟩
  · refine (modChan_chan _ u ch _).trans ?_
    rw [count_cu, hcm]
  · rw [State.sendDone, State.modChan, modCu_reg, count_reg, if_pos rfl, masterTime_reg]
  · rw [State.sendDone, State.modChan, modCu_reg, count_reg, if_neg fun e => hid (by simp [e]), masterTime_reg]
  · exact masterTime_cusAlone t (.trans (fun v _ => count_cu _ _ _ v) (modChan_cusAlone _ u ch _))

theorem message_noSpace {t u ch : Nat} {c : Chan} {s : State} (hr : s.engineRuns u = true) (hc : c = Assoc.get Chan.reset (s.cu u).msg.chans ch)
    (hf : c.flying = true) (hn : c.retryAt = none) (he : (s.rtr (u / 4)).ejected = []) (hlt : c.retries < s.regN (.chan u ch 0) / 2 ^ 27 % 2 ^ 4) :
    Completes (exec (.messageResponse t u ch 3) s) fun r =>
      Assoc.get Chan.reset (r.cu u).msg.chans ch = { c with retryAt := some ((s.masterTime t).clk.ns + 32) } ∧ CusAlone [u] s r ∧ Touches [.clk, .cus] s r := by
  have hcm : ((s.masterTime t).cu u).chan ch = c := by rw [masterTime_cu, hc, Cu.chan]
  have hans := messageAnswer_noSpace (s := s.masterTime t) (u := u) (ch := ch) (by rw [hcm, hf]) (by rw [hcm, hn]) (by rwa [hcm, masterTime_regN])
  rw [← messageResponse_of_none _ _ _ (by rwa [masterTime_rtr])] at hans
  refine ⟨_, congrArg Host.Outcome.next ((if_pos ((masterTime_engineRuns s t u).trans hr)).trans hans), ?_,
    masterTime_cusAlone t (modChan_cusAlone _ u ch _), (kept_modChan (by decide) (kept_atMasterTime s t (by decide))).touches⟩
  refine (modChan_chan _ u ch _).trans ?_
  rw [hcm]

theorem message_retried {t u ch a : Nat} {c : Chan} {s : State} (hr : s.engineRuns u = true) (hc : c = Assoc.get Chan.reset (s.cu u).msg.chans ch)
    (hn : c.retryAt = some a) (ha : a ≤ (s.masterTime t).clk.ns) : Completes (exec (.messageRetry t u ch) s) fun r =>
      Assoc.get Chan.reset (r.cu u).msg.chans ch = { c with retryAt := none, injected := 0, retries := c.retries + 1 } ∧
      r.reg (.cu u .msgRetry) = satReg (s.reg (.cu u .msgRetry)) 1 ∧ RegsAlone [.cu u .msgRetry] s r ∧ CusAlone [u] s r ∧ Touches [.clk, .regs, .cus] s r := by
  have hcm : ((s.masterTime t).cu u).chan ch = c := by rw [masterTime_cu, hc, Cu.chan]
  have hretry := messageRetry_of_due (s := s.masterTime t) (u := u) (ch := ch) (by rw [hcm, hn]) ha
  refine ⟨_, congrArg Host.Outcome.next ((if_pos ((masterTime_engineRuns s t u).trans hr)).trans hretry), ?_, ?_, fun id hid => ?_, ?_,
    (kept_count (by decide) (kept_modChan (by decide) (kept_atMasterTime s t (by decide)))).touches⟩
  · rw [count_cu]
    refine (modChan_chan _ u ch _).trans ?_
    rw [hcm]
  · rw [count_reg, if_pos rfl, State.modChan, modCu_reg, masterTime_reg]
  · rw [count_reg, if_neg fun e => hid (by simp [e]), State.modChan, modCu_reg, masterTime_reg]
  · exact masterTime_cusAlone t (.trans (modChan_cusAlone _ u ch _) fun v _ => count_cu _ _ _ v)

/-! ### The release of a ring (R263) -/

theorem changeSync_cu (s : State) (u k : Nat) (n : Int) (v : Nat) : (s.changeSync u k n).cu v =
    if u = v then { s.cu u with sync := (s.cu u).sync.change s.bank k (s.bay (bayOfCu u)).cycle n } else s.cu v := by
  rw [State.changeSync, overflowAfter_cu, modCu_cu]

/-- What a cycle's changes make of a counter tells whether it exceeds (R106). -/
theorem not_exceeds_of_made {y : Sync} {ctx k t old : Nat} {sum : Int} (h : (old, sum) = y.made ctx k t) (hle : old + sum ≤ 0xFFFF) :
    y.exceeds k t = false := by
  unfold Sync.made at h
  unfold Sync.exceeds
  split
  · rename_i c hc
    rw [hc] at h
    obtain ⟨rfl, rfl⟩ := Prod.mk.inj h
    exact decide_eq_false (by omega)
  · rfl

theorem change_made {y : Sync} {ctx k t old : Nat} {sum : Int} (n : Int) (h : (old, sum) = y.made ctx k t) :
    (old, sum + n) = (y.change ctx k t n).made ctx k t := by
  have hnone : (y.recent.filter fun c => decide (t < c.from_) && !(c.counter == k && c.from_ == t + 3)).find?
      (fun c => c.counter == k && c.from_ == t + 3) = none := by
    rw [List.find?_eq_none]
    intro c hc
    have := (List.mem_filter.1 hc).2
    simp only [Bool.and_eq_true, Bool.not_eq_true'] at this
    rw [this.2]
    decide
  have hrecent : (y.change ctx k t n).recent =
      (y.recent.filter fun c => decide (t < c.from_) && !(c.counter == k && c.from_ == t + 3)) ++ [⟨k, t + 3, old, sum + n⟩] := by
    simp only [Sync.change, ← h]
  simp only [Sync.made, hrecent, List.find?_append, hnone, Option.none_or, List.find?_cons, beq_self_eq_true, Bool.and_self]

/-- A change that goes with no report leaves nothing but the CU's counters (R106). -/
theorem changeSync_of_small {s : State} {u k old : Nat} {sum n : Int} (h : (old, sum) = (s.cu u).sync.made s.bank k (s.bay (bayOfCu u)).cycle)
    (hwas : old + sum ≤ 0xFFFF) (his : old + (sum + n) ≤ 0xFFFF) :
    s.changeSync u k n = s.modCu u fun cu => { cu with sync := cu.sync.change s.bank k (s.bay (bayOfCu u)).cycle n } := by
  have h1 := not_exceeds_of_made h hwas
  have h2 := not_exceeds_of_made (change_made n h) his
  simp only [State.changeSync, State.overflowAfter, modCu_cu, if_true, h1, h2, Bool.not_false, Bool.and_true, Bool.false_eq_true,
    if_false]

theorem release_held {r : Ring} {n : Nat} {rest : List (Nat × Bool)} (h : r.held = (n, false) :: rest) :
    r.release = { wp := if rest = [] then 0 else r.wp, held := rest } := by
  rw [Ring.release, h]
  rfl

theorem ringRelease_of_count {s : State} {u k : Nat} {n : Nat} {rest : List (Nat × Bool)} (he : (s.ringCfg u k).en = true)
    (hh : ((s.cu u).msg.ring k).held = (n, false) :: rest) (hc : 0 < Assoc.get 0 (s.cu u).sync.banks (syncKey s.bank (s.ringCfg u k).relCounter)) :
    s.ringRelease u k = (s.modMsg u fun m => { m with
      rings := m.rings.set k { wp := if rest = [] then 0 else ((s.cu u).msg.ring k).wp, held := rest } }).changeSync u (s.ringCfg u k).relCounter (-1) := by
  rw [State.ringRelease, if_pos ⟨he, by simp [hh], hc⟩, release_held hh]

theorem bayTime_ringCfg (s : State) (b t u k : Nat) : (s.bayTime b t).ringCfg u k = s.ringCfg u k := by
  rw [State.ringCfg, State.ringCfg, State.regN, State.regN, bayTime_reg _ _ (by simp [bayClockRegs])]

theorem ring_released {t u k v n z old : Nat} {sum : Int} {rest : List (Nat × Bool)} {s m : State} (hm : m = s.bayTime (bayOfCu u) t)
    (hr : m.engineRuns u = true) (hz : z = (m.bay (bayOfCu u)).cycle) (he : (s.ringCfg u k).en = true)
    (hh : (Assoc.get Ring.reset (s.cu u).msg.rings k).held = (n, false) :: rest) (hv : v = syncKey s.bank (s.ringCfg u k).relCounter)
    (hmade : (old, sum) = (s.cu u).sync.made s.bank (s.ringCfg u k).relCounter z) (hc : 0 < Assoc.get 0 (s.cu u).sync.banks v) :
    Completes (exec (.ringRelease t u k) s) fun r => (Assoc.get Ring.reset (r.cu u).msg.rings k).held = rest ∧
      (Assoc.get Ring.reset (r.cu u).msg.rings k).wp = (if rest = [] then 0 else (Assoc.get Ring.reset (s.cu u).msg.rings k).wp) ∧
      Assoc.get 0 (r.cu u).sync.banks v = min 0xFFFF (old + (sum - 1)).toNat ∧
      ((s.cu u).sync.recent = [] → ∀ d, d < z + 3 → (r.cu u).sync.visible s.bank (s.ringCfg u k).relCounter d = old) ∧
      (old + sum ≤ 0xFFFF → LaneFrame u s r) ∧ CusAlone [u] s r ∧ BaysAlone [bayOfCu u] s r ∧ Touches [.regs, .bays, .cus, .evt] s r := by
  subst hm hv
  have hrel := ringRelease_of_count (s := s.bayTime (bayOfCu u) t) (u := u) (k := k) (by rwa [bayTime_ringCfg]) (by rwa [bayTime_cu])
    (by rwa [bayTime_cu, bayTime_bank, bayTime_ringCfg])
  rw [bayTime_ringCfg, bayTime_cu] at hrel
  generalize hf : (fun m : Msg => { m with rings := m.rings.set k { wp := if rest = [] then 0 else ((s.cu u).msg.ring k).wp, held := rest } }) = f at hrel
  have hcu (q : Nat) : (((s.bayTime (bayOfCu u) t).modMsg u f).changeSync u (s.ringCfg u k).relCounter (-1)).cu q =
      if u = q then { s.cu u with msg := f (s.cu u).msg, sync := (s.cu u).sync.change s.bank (s.ringCfg u k).relCounter z (-1) } else s.cu q := by
    rw [changeSync_cu, modMsg_cu, modMsg_cu, if_pos rfl, bayTime_cu, bayTime_cu, hz, ← bayTime_bank s (bayOfCu u) t]
    split <;> rfl
  have halone : CusAlone [u] s (((s.bayTime (bayOfCu u) t).modMsg u f).changeSync u (s.ringCfg u k).relCounter (-1)) := fun q hq => by
    rw [hcu, if_neg fun e => hq (by simp [e])]
  have hbays : Kept [.cus, .evt] (s.bayTime (bayOfCu u) t) (((s.bayTime (bayOfCu u) t).modMsg u f).changeSync u (s.ringCfg u k).relCounter (-1)) :=
    kept_changeSync (by decide) (kept_modMsg (by decide) (Kept.refl _ _))
  have hbaysAlone : BaysAlone [bayOfCu u] s (((s.bayTime (bayOfCu u) t).modMsg u f).changeSync u (s.ringCfg u k).relCounter (-1)) := fun q hq => by
    rw [hbays.eq_bay (by decide), bayTime_baysAlone s _ t q hq]
  have hring : (f (s.cu u).msg).rings = (s.cu u).msg.rings.set k { wp := if rest = [] then 0 else ((s.cu u).msg.ring k).wp, held := rest } := by
    rw [← hf]
  refine ⟨_, congrArg Host.Outcome.next ((if_pos hr).trans hrel), ?_, ?_, ?_, fun hrec d hd => ?_, fun hle => ⟨halone, hbaysAlone, fun id hid => ?_, ?_⟩,
    halone, hbaysAlone, ((kept_atBayTime s _ t).mono (by decide) |>.trans (hbays.mono (by decide))).touches⟩
  · rw [hcu, if_pos rfl, hring, Assoc.get_set, if_pos rfl]
  · rw [hcu, if_pos rfl, hring, Assoc.get_set, if_pos rfl, Msg.ring]
  · rw [hcu, if_pos rfl, change_banks _ hmade, Assoc.get_set, if_pos rfl, Int.sub_eq_add_neg]
  · rw [hcu, if_pos rfl]
    exact change_visible _ hmade hrec hd
  · rw [hbays.eq_reg (by decide), bayTime_regsAlone s _ t id hid]
  · have hmade' : (old, sum) = (s.cu u).sync.made (s.bayTime (bayOfCu u) t).bank (s.ringCfg u k).relCounter ((s.bayTime (bayOfCu u) t).bay (bayOfCu u)).cycle := by
      rwa [bayTime_bank, ← hz]
    rw [changeSync_of_small (old := old) (sum := sum) (by rw [modMsg_cu, if_pos rfl, bayTime_cu]; exact hmade') hle (by omega)]
    exact (kept_modCu (by decide) (kept_modMsg (by decide) ((kept_atBayTime s _ t).mono (by decide)))).touches

end Sys2Proof.Machine

/-! PROOF. Family 02_stitch_execution: message channels, their receivers (O45). -/

namespace Sys2Proof.Machine

/-! ### A part whose message has a tracker (R261) -/

/-- Is it the tracker of the message that this is a part of? -/
def Tracker.isOf (x : Tracker) (p : MsgPart) : Bool := x.src == p.src && x.chan == p.chan

theorem isOf_of_eq {x : Tracker} {p : MsgPart} (hs : x.src = p.src) (hc : x.chan = p.chan) : x.isOf p = true := by simp [Tracker.isOf, hs, hc]

theorem tracker_eq (m : Msg) (p : MsgPart) : m.tracker p.src p.chan = m.trackers.find? fun x => x.isOf p := rfl

/-- The trackers of the other messages. -/
def Msg.others (m : Msg) (p : MsgPart) : List Tracker := m.trackers.filter fun x => !x.isOf p

/-- The data of a part are written, unless its message is refused. -/
def State.partWritten (s : State) (p : MsgPart) (x : Tracker) : State :=
  if x.status = 0 then s.writeMany (fun y w v => y.writeSp p.dst w v) ((s.ringCfg p.dst x.ring).base + x.offset + p.part) p.data else s

/-- The last part of a message has been written: its tracker is free. -/
def State.lastTaken (s : State) (p : MsgPart) (x : Tracker) : State :=
  (s.partWritten p x).modMsg p.dst fun m => { m with trackers := m.others p }

/-- Another part has been written: its tracker waits for those that are left. -/
def State.partTaken (s : State) (p : MsgPart) (x : Tracker) : State :=
  (s.partWritten p x).modMsg p.dst fun m => { m with
    trackers := m.others p ++ [{ x with got := x.got ++ [p.part], left := x.left - p.data.length }] }

section

variable {s : State} {p : MsgPart} {x : Tracker} (hx : (s.cu p.dst).msg.tracker p.src p.chan = some x) (hg : p.part ∉ x.got)

include hx hg

theorem messagePart_of_last (hl : x.left ≤ p.data.length) : s.messagePart p =
    (if x.status = 0 ∧ (s.ringCfg p.dst x.ring).sig = true then (s.lastTaken p x).addSync p.dst (s.ringCfg p.dst x.ring).sigCounter 1
      else s.lastTaken p x).messageReply p x.status := by
  have hleft : x.left - p.data.length = 0 := by omega
  unfold State.messagePart
  dsimp only
  rw [hx]
  dsimp only
  rw [if_neg (by simpa using hg), if_pos hleft]
  rfl

theorem messagePart_of_more (hl : p.data.length < x.left) : s.messagePart p = s.partTaken p x := by
  unfold State.messagePart
  dsimp only
  rw [hx]
  dsimp only
  rw [if_neg (by simpa using hg), if_neg (by omega)]
  rfl

end

/-! ### The first part of a message (R260-R262) -/

/-- The message has its tracker. -/
def State.tracked (s : State) (p : MsgPart) (status offset : Nat) (unheld : Bool) : State :=
  s.modMsg p.dst fun m => { m with trackers := m.trackers ++ [⟨p.src, p.chan, p.ring, status, offset, p.units, [], p.units, unheld⟩] }

/-- Are all 16 trackers busy? -/
def Msg.full (m : Msg) : Bool := decide (16 ≤ (m.trackers.filter fun x => !x.unheld).length)

/-- May messages of the part's sender enter its ring (R260)? -/
def State.ringAdmits (s : State) (p : MsgPart) : Bool :=
  (s.cuWins p.dst).any fun w => w.admits p.ctx true (16 * (s.ringCfg p.dst p.ring).base) (16 * (s.ringCfg p.dst p.ring).units) (.cluster (p.src / 4))

section

variable {s : State} {p : MsgPart}

theorem messageFirst_of_disabled (h : (s.ringCfg p.dst p.ring).en = false) :
    s.messageFirst p = (s.tracked p 5 0 (s.cu p.dst).msg.full).messagePart p := by
  unfold State.messageFirst
  dsimp only
  rw [h]
  rfl

theorem messageFirst_of_full (he : (s.ringCfg p.dst p.ring).en = true) (hc : p.ctx = s.active) (ha : s.ringAdmits p = true)
    (hf : (s.cu p.dst).msg.full = true) : s.messageFirst p = (s.tracked p 3 0 true).messagePart p := by
  unfold State.ringAdmits at ha
  unfold Msg.full at hf
  have hctx : (p.ctx != s.active) = false := by simp [hc]
  unfold State.messageFirst
  simp only [he, hctx, ha, hf, Bool.not_true, Bool.or_self, Bool.false_eq_true, if_false, if_true]
  rfl

theorem messageFirst_of_fits {o : Nat} {y : Ring} (he : (s.ringCfg p.dst p.ring).en = true) (hc : p.ctx = s.active) (ha : s.ringAdmits p = true)
    (hf : (s.cu p.dst).msg.full = false) (hp : placeIn ((s.cu p.dst).msg.ring p.ring) (s.ringCfg p.dst p.ring).units p.units = some (o, 0, y)) :
    s.messageFirst p = ((s.modMsg p.dst fun m => { m with rings := m.rings.set p.ring y }).tracked p 0 o false).messagePart p := by
  unfold State.ringAdmits at ha
  unfold Msg.full at hf
  have hplace : s.place p.dst p.ring p.units = some (o, s.modMsg p.dst fun m => { m with rings := m.rings.set p.ring y }) := by
    simp only [State.place, hp, if_true]
  have hctx : (p.ctx != s.active) = false := by simp [hc]
  unfold State.messageFirst
  simp only [he, hctx, ha, hf, hplace, Bool.not_true, Bool.or_self, Bool.false_eq_true, if_false]
  rfl

/-- The tracker that a first part takes is its message's, and the only one. -/
theorem tracked_tracker (status offset : Nat) (unheld : Bool) (h : (s.cu p.dst).msg.tracker p.src p.chan = none) :
    ((s.tracked p status offset unheld).cu p.dst).msg.tracker p.src p.chan =
      some ⟨p.src, p.chan, p.ring, status, offset, p.units, [], p.units, unheld⟩ := by
  rw [tracker_eq] at h
  rw [State.tracked, modMsg_cu, if_pos rfl, tracker_eq]
  rw [List.find?_append, h, Option.none_or]
  exact List.find?_cons_of_pos (isOf_of_eq rfl rfl)

theorem tracked_others (status offset : Nat) (unheld : Bool) (h : (s.cu p.dst).msg.tracker p.src p.chan = none) :
    ((s.tracked p status offset unheld).cu p.dst).msg.others p = (s.cu p.dst).msg.trackers := by
  rw [tracker_eq, List.find?_eq_none] at h
  have hold : (s.cu p.dst).msg.trackers.filter (fun x => !x.isOf p) = (s.cu p.dst).msg.trackers :=
    List.filter_eq_self.2 fun x hx => by simpa using h x hx
  rw [State.tracked, modMsg_cu, if_pos rfl, Msg.others]
  rw [List.filter_append, hold, List.filter_cons_of_neg (by rw [isOf_of_eq rfl rfl]; decide), List.filter_nil, List.append_nil]

end

/-! ### The checks before it (R40, R247) -/

theorem exec_messageArrival {s : State} {t : Nat} {p : MsgPart} (hf : (s.panel (panelOf (p.dst / 4))).fabricOn = true)
    (hb : (s.bay (bayOfCu p.dst)).power = .active) (he : (s.rtr (p.dst / 4)).ejected = []) (hs : s.stale p.stitchLo = false)
    (ht : (s.cu p.dst).msg.tracker p.src p.chan = none) : exec (.messageArrival t p) s = .next ((s.masterTime t).messageFirst p) := by
  have hcheck : (s.masterTime t).messageArrival p = (s.masterTime t).messageFirst p := by
    rw [State.messageArrival, if_neg (by simp [ht]), State.messageCheck, State.takePart, takeEjected_of_none _ (by rwa [masterTime_rtr])]
    dsimp only
    rw [if_neg (by simp [hb]), if_neg (by simp [hs])]
  exact congrArg Host.Outcome.next ((if_pos ((masterTime_routerRuns s t _).trans hf)).trans hcheck)

theorem exec_messagePartArrival {s : State} {t : Nat} {p : MsgPart} {x : Tracker} (hf : (s.panel (panelOf (p.dst / 4))).fabricOn = true)
    (hb : (s.bay (bayOfCu p.dst)).power = .active) (he : (s.rtr (p.dst / 4)).ejected = []) (hs : s.stale p.stitchLo = false)
    (ht : (s.cu p.dst).msg.tracker p.src p.chan = some x) : exec (.messagePartArrival t p) s = .next ((s.masterTime t).messagePart p) := by
  have hcheck : (s.masterTime t).messagePartArrival p = (s.masterTime t).messagePart p := by
    rw [State.messagePartArrival, if_pos (by simp [ht]), State.messageCheck, State.takePart, takeEjected_of_none _ (by rwa [masterTime_rtr])]
    dsimp only
    rw [if_neg (by simp [hb]), if_neg (by simp [hs])]
  exact congrArg Host.Outcome.next ((if_pos ((masterTime_routerRuns s t _).trans hf)).trans hcheck)

/-! ### A message of one unit -/

theorem partWritten_single {s : State} {p : MsgPart} {x : Tracker} {h : Word} (hx : x.status = 0) (hd : p.data = [h]) :
    s.partWritten p x = s.putWord (spAddr p.dst (16 * ((s.ringCfg p.dst x.ring).base + x.offset + p.part))) h := by
  rw [State.partWritten, if_pos hx, hd]
  rfl

theorem partWritten_refused {s : State} {p : MsgPart} {x : Tracker} (hx : x.status ≠ 0) : s.partWritten p x = s := if_neg hx

theorem reply_mu (s : State) (c : Nat) (k : Packet) (d : Nat) :
    (s.reply c k).mu d = if c = d then { s.mu c with replies := (s.mu c).replies ++ [k] } else s.mu d := by rw [State.reply, modMu_mu]

theorem reply_musAlone (s : State) (c : Nat) (k : Packet) : MusAlone [c] s (s.reply c k) := fun d hd => by
  rw [reply_mu, if_neg fun e => hd (by simp [e])]

theorem messageReply_ack (s : State) (p : MsgPart) :
    s.messageReply p 0 = s.reply (p.dst / 4) (.ack p.src p.chan 0 p.ctx p.stitchLo) := rfl

theorem messageReply_nack (s : State) (p : MsgPart) {status : Nat} (h : status ≠ 0) :
    s.messageReply p status = (s.count (.cu p.dst .msgInNack) 1).reply (p.dst / 4) (.ack p.src p.chan status p.ctx p.stitchLo) := by
  rw [State.messageReply, if_neg h]

theorem modMsg_word (s : State) (u : Nat) (f : Msg → Msg) (a : Nat) : (s.modMsg u f).word a = s.word a := rfl
theorem modMsg_mem (s : State) (u : Nat) (f : Msg → Msg) : (s.modMsg u f).mem = s.mem := rfl
theorem modMsg_mu (s : State) (u : Nat) (f : Msg → Msg) (c : Nat) : (s.modMsg u f).mu c = s.mu c := rfl
theorem modMsg_reg (s : State) (u : Nat) (f : Msg → Msg) (id : RegId) : (s.modMsg u f).reg id = s.reg id := rfl
theorem reply_mem (s : State) (c : Nat) (k : Packet) : (s.reply c k).mem = s.mem := rfl
theorem reply_cu (s : State) (c : Nat) (k : Packet) (u : Nat) : (s.reply c k).cu u = s.cu u := rfl
theorem reply_reg (s : State) (c : Nat) (k : Packet) (id : RegId) : (s.reply c k).reg id = s.reg id := rfl
theorem count_mem (s : State) (r : RegId) (n : Nat) : (s.count r n).mem = s.mem := hwSet_mem s r _

theorem kept_tracked {l : List Comp} {a s : State} {p : MsgPart} {status offset : Nat} {unheld : Bool} (hl : [.cus] ⊆ l) (h : Kept l a s) :
    Kept l a (s.tracked p status offset unheld) := kept_modMsg hl h

/-- A message that finds every tracker busy has no answer before its last part (log entry 52). -/
theorem message_untracked {t : Nat} {p : MsgPart} {s : State} (hf : (s.panel (panelOf (p.dst / 4))).fabricOn = true)
    (hb : (s.bay (bayOfCu p.dst)).power = .active) (he : (s.rtr (p.dst / 4)).ejected = []) (hs : s.stale p.stitchLo = false) (hc : p.ctx = s.active)
    (hen : (s.ringCfg p.dst p.ring).en = true) (ha : s.ringAdmits p = true) (ht : (s.cu p.dst).msg.tracker p.src p.chan = none)
    (hfull : (s.cu p.dst).msg.full = true) (hl : p.data.length < p.units) : Completes (exec (.messageArrival t p) s) fun r =>
      (r.cu p.dst).msg.trackers = (s.cu p.dst).msg.trackers ++ [⟨p.src, p.chan, p.ring, 3, 0, p.units, [p.part], p.units - p.data.length, true⟩] ∧
      (r.cu p.dst).msg.rings = (s.cu p.dst).msg.rings ∧ CusAlone [p.dst] s r ∧ Touches [.clk, .cus] s r := by
  have htm : ((s.masterTime t).cu p.dst).msg.tracker p.src p.chan = none := by rwa [masterTime_cu]
  have htr := tracked_tracker 3 0 true htm
  have hfirst := messageFirst_of_full (s := s.masterTime t) (p := p) (by rwa [masterTime_ringCfg]) (by rwa [masterTime_active])
    (by rwa [State.ringAdmits, masterTime_cuWins, masterTime_ringCfg]) (by rwa [masterTime_cu])
  rw [messagePart_of_more htr (by simp) hl, State.partTaken, partWritten_refused (by simp)] at hfirst
  refine ⟨_, (exec_messageArrival hf hb he hs ht).trans (congrArg Host.Outcome.next hfirst), ?_, ?_, ?_,
    (kept_modMsg (by decide) (kept_tracked (by decide) (kept_atMasterTime s t (by decide)))).touches⟩
  · rw [modMsg_cu, if_pos rfl]
    refine (congrArg (· ++ _) (tracked_others 3 0 true htm)).trans ?_
    rw [masterTime_cu]
    rfl
  · rw [modMsg_cu, if_pos rfl, State.tracked, modMsg_cu, if_pos rfl, masterTime_cu]
  · exact masterTime_cusAlone t (.trans (modMsg_cusAlone _ _ _) (modMsg_cusAlone _ _ _))

/-- A part that is not the last is written, and its tracker counts it. -/
theorem message_part {t : Nat} {p : MsgPart} {x : Tracker} {h : Word} {s : State} (hi : Inv s) (hf : (s.panel (panelOf (p.dst / 4))).fabricOn = true)
    (hb : (s.bay (bayOfCu p.dst)).power = .active) (he : (s.rtr (p.dst / 4)).ejected = []) (hs : s.stale p.stitchLo = false)
    (ht : (s.cu p.dst).msg.trackers = [x]) (hsrc : x.src = p.src) (hch : x.chan = p.chan) (h0 : x.status = 0) (hg : p.part ∉ x.got) (hd : p.data = [h])
    (hl : 1 < x.left) : Completes (exec (.messagePartArrival t p) s) fun r =>
      r.word (spAddr p.dst (16 * ((s.ringCfg p.dst x.ring).base + x.offset + p.part))) = h ∧
      (r.cu p.dst).msg.trackers = [{ x with got := x.got ++ [p.part], left := x.left - 1 }] ∧
      MemAlone (spAddr p.dst (16 * ((s.ringCfg p.dst x.ring).base + x.offset + p.part))) 16 s r ∧ CusAlone [p.dst] s r ∧
      Touches [.clk, .mem, .errs, .cus, .rtrs] s r := by
  have htr : (s.cu p.dst).msg.tracker p.src p.chan = some x := by
    rw [tracker_eq, ht]
    exact List.find?_cons_of_pos (isOf_of_eq hsrc hch)
  have hpart := messagePart_of_more (s := s.masterTime t) (by rwa [masterTime_cu]) hg (by rw [hd]; exact hl)
  rw [State.partTaken, partWritten_single h0 hd, masterTime_ringCfg, hd] at hpart
  refine ⟨_, (exec_messagePartArrival hf hb he hs htr).trans (congrArg Host.Outcome.next hpart), ?_, ?_, ?_, ?_,
    (kept_modMsg (by decide) (kept_putWord (by decide) (kept_atMasterTime s t (by decide)))).touches⟩
  · rw [modMsg_word]
    exact word_putWord_same _ h (by rw [masterTime_mem]; exact hi.1)
  · rw [modMsg_cu, if_pos rfl, putWord_cu, masterTime_cu, Msg.others, ht, List.filter_cons_of_neg (by rw [isOf_of_eq hsrc hch]; decide)]
    rfl
  · exact ((memAlone_of_mem_eq _ _ (masterTime_mem s t)).trans (memAlone_putWord _ _ h)).trans (memAlone_of_mem_eq _ _ (modMsg_mem _ _ _))
  · exact masterTime_cusAlone t (.trans (fun v _ => putWord_cu _ _ _ v) (modMsg_cusAlone _ _ _))

section

variable {t : Nat} {p : MsgPart} {h : Word} {s : State}

/-- A message of one unit for a ring that is not enabled (R260). -/
theorem message_disabled (hf : (s.panel (panelOf (p.dst / 4))).fabricOn = true)
    (hb : (s.bay (bayOfCu p.dst)).power = .active) (he : (s.rtr (p.dst / 4)).ejected = []) (hs : s.stale p.stitchLo = false)
    (ht : (s.cu p.dst).msg.trackers = []) (hu : p.units = 1) (hd : p.data = [h]) (hen : (s.ringCfg p.dst p.ring).en = false) :
    Completes (exec (.messageArrival t p) s) fun r =>
      (r.mu (p.dst / 4)).replies = (s.mu (p.dst / 4)).replies ++ [.ack p.src p.chan 5 p.ctx p.stitchLo] ∧
      r.reg (.cu p.dst .msgInNack) = satReg (s.reg (.cu p.dst .msgInNack)) 1 ∧ r.mem = s.mem ∧ (r.cu p.dst).msg.rings = (s.cu p.dst).msg.rings ∧
      RegsAlone [.cu p.dst .msgInNack] s r := by
  have hnone : (s.cu p.dst).msg.tracker p.src p.chan = none := by rw [Msg.tracker, ht, List.find?_nil]
  have hfirst := messageFirst_of_disabled (s := s.masterTime t) (p := p) (by rwa [masterTime_ringCfg])
  have htr := tracked_tracker (s := s.masterTime t) (p := p) 5 0 ((s.masterTime t).cu p.dst).msg.full (by rwa [masterTime_cu])
  rw [messagePart_of_last htr (by simp) (by simp [hu, hd]), if_neg (by simp), State.lastTaken, partWritten_refused (by simp),
    messageReply_nack _ _ (by simp)] at hfirst
  refine ⟨_, (exec_messageArrival hf hb he hs hnone).trans (congrArg Host.Outcome.next hfirst), ?_, ?_, ?_, ?_, fun id hid => ?_⟩
  · rw [reply_mu, if_pos rfl, count_mu, modMsg_mu, State.tracked, modMsg_mu, masterTime_mu]
  · rw [reply_reg, count_reg, if_pos rfl, modMsg_reg, State.tracked, modMsg_reg, masterTime_reg]
  · rw [reply_mem, count_mem, modMsg_mem, State.tracked, modMsg_mem, masterTime_mem]
  · rw [reply_cu, count_cu, modMsg_cu, if_pos rfl, State.tracked, modMsg_cu, if_pos rfl, masterTime_cu]
  · rw [reply_reg, count_reg, if_neg fun e => hid (by simp [e]), modMsg_reg, State.tracked, modMsg_reg, masterTime_reg]

/-- The lane once the message has been placed and written. -/
def State.delivered (s : State) (p : MsgPart) (o : Nat) (y : Ring) : State :=
  ((s.modMsg p.dst fun m => { m with rings := m.rings.set p.ring y }).tracked p 0 o false).lastTaken p
    ⟨p.src, p.chan, p.ring, 0, o, p.units, [], p.units, false⟩

theorem delivered_eq {o : Nat} {y : Ring} (hp : p.part = 0) (hd : p.data = [h]) : s.delivered p o y =
    (((s.modMsg p.dst fun m => { m with rings := m.rings.set p.ring y }).tracked p 0 o false).putWord
      (spAddr p.dst (16 * ((s.ringCfg p.dst p.ring).base + o))) h).modMsg p.dst fun m => { m with trackers := m.others p } := by
  rw [State.delivered, State.lastTaken, partWritten_single rfl hd, hp]
  rfl

theorem delivered_msg {o : Nat} {y : Ring} (hp : p.part = 0) (hd : p.data = [h]) (ht : (s.cu p.dst).msg.trackers = []) :
    ((s.delivered p o y).cu p.dst).msg.ring p.ring = y ∧ ((s.delivered p o y).cu p.dst).msg.trackers = [] ∧
      ((s.delivered p o y).cu p.dst).sync = (s.cu p.dst).sync := by
  have htrack : ((s.modMsg p.dst fun m => { m with rings := m.rings.set p.ring y }).cu p.dst).msg.trackers = [] := by rw [modMsg_cu, if_pos rfl, ht]
  have hothers := tracked_others (s := s.modMsg p.dst fun m => { m with rings := m.rings.set p.ring y }) (p := p) 0 o false
    (by rw [Msg.tracker, htrack, List.find?_nil])
  rw [htrack] at hothers
  rw [delivered_eq hp hd, modMsg_cu, if_pos rfl, putWord_cu]
  refine ⟨?_, hothers, ?_⟩
  · rw [Msg.ring, State.tracked, modMsg_cu, if_pos rfl, modMsg_cu, if_pos rfl, Assoc.get_set, if_pos rfl]
  · rw [State.tracked, modMsg_cu, if_pos rfl, modMsg_cu, if_pos rfl]

theorem kept_delivered {o : Nat} {y : Ring} (hp : p.part = 0) (hd : p.data = [h]) : Kept [.mem, .errs, .cus] s (s.delivered p o y) := by
  rw [delivered_eq hp hd]
  exact kept_modMsg (by decide) (kept_putWord (by decide) (kept_tracked (by decide) (kept_modMsg (by decide) (Kept.refl _ s))))

theorem delivered_cusAlone {o : Nat} {y : Ring} (hp : p.part = 0) (hd : p.data = [h]) : CusAlone [p.dst] s (s.delivered p o y) := by
  rw [delivered_eq hp hd]
  exact .trans (.trans (.trans (modMsg_cusAlone _ _ _) (modMsg_cusAlone _ _ _)) fun v _ => putWord_cu _ _ _ v) (modMsg_cusAlone _ _ _)

theorem delivered_word {o : Nat} {y : Ring} (hi : Inv s) (hp : p.part = 0) (hd : p.data = [h]) :
    (s.delivered p o y).word (spAddr p.dst (16 * ((s.ringCfg p.dst p.ring).base + o))) = h ∧
      MemAlone (spAddr p.dst (16 * ((s.ringCfg p.dst p.ring).base + o))) 16 s (s.delivered p o y) := by
  rw [delivered_eq hp hd, modMsg_word]
  refine ⟨word_putWord_same _ h hi.1, ?_⟩
  exact .trans (memAlone_of_mem_eq _ _ rfl) (.trans (memAlone_putWord _ _ h) (memAlone_of_mem_eq _ _ (modMsg_mem _ _ _)))

/-- The ring's signal, where it has one (R268). -/
def State.signalled (s : State) (u : Nat) (c : RingCfg) : State := if c.sig = true then s.addSync u c.sigCounter 1 else s

theorem kept_signalled (s : State) (u : Nat) (c : RingCfg) : Kept [.hsync, .bays, .cus, .evt] s (s.signalled u c) :=
  Kept.ite (kept_addSync (by decide) (Kept.refl _ s)) (Kept.refl _ s)

theorem signalled_msg (s : State) (u : Nat) (c : RingCfg) : ((s.signalled u c).cu u).msg = (s.cu u).msg := by
  unfold State.signalled
  split
  · rw [addSync_cu, if_pos rfl]
  · rfl

theorem signalled_cusAlone (s : State) (u : Nat) (c : RingCfg) : CusAlone [u] s (s.signalled u c) := by
  unfold State.signalled
  split
  · exact addSync_cusAlone s u _ 1
  · exact fun _ _ => rfl

theorem messageFirst_delivers {o : Nat} {y : Ring} (he : (s.ringCfg p.dst p.ring).en = true) (hc : p.ctx = s.active) (ha : s.ringAdmits p = true)
    (ht : (s.cu p.dst).msg.trackers = []) (hu : p.units = 1) (hd : p.data = [h])
    (hplace : placeIn ((s.cu p.dst).msg.ring p.ring) (s.ringCfg p.dst p.ring).units 1 = some (o, 0, y)) : s.messageFirst p =
      ((s.delivered p o y).signalled p.dst (s.ringCfg p.dst p.ring)).reply (p.dst / 4) (.ack p.src p.chan 0 p.ctx p.stitchLo) := by
  have hnone : ((s.modMsg p.dst fun m => { m with rings := m.rings.set p.ring y }).cu p.dst).msg.tracker p.src p.chan = none := by
    rw [modMsg_cu, if_pos rfl, Msg.tracker, ht, List.find?_nil]
  rw [messageFirst_of_fits he hc ha (by rw [Msg.full, ht]; decide) (by rwa [hu]),
    messagePart_of_last (tracked_tracker 0 o false hnone) (by simp) (by simp [hu, hd]), messageReply_ack, State.signalled]
  exact congrArg (State.reply · (p.dst / 4) _) (if_congr (by simp; rfl) rfl rfl)

/-- A message of one unit that fits its ring (R260-R262). -/
theorem message_delivered {o old : Nat} {sum : Int} {y : Ring} (hi : Inv s) (hf : (s.panel (panelOf (p.dst / 4))).fabricOn = true)
    (hb : (s.bay (bayOfCu p.dst)).power = .active) (he : (s.rtr (p.dst / 4)).ejected = []) (hs : s.stale p.stitchLo = false)
    (ht : (s.cu p.dst).msg.trackers = []) (hc : p.ctx = s.active)
    (hmade : (old, sum) = (s.cu p.dst).sync.made s.bank (s.ringCfg p.dst p.ring).sigCounter (s.bay (bayOfCu p.dst)).cycle) (hp : p.part = 0)
    (hu : p.units = 1) (hd : p.data = [h]) (hen : (s.ringCfg p.dst p.ring).en = true) (ha : s.ringAdmits p = true)
    (hplace : placeIn ((s.cu p.dst).msg.ring p.ring) (s.ringCfg p.dst p.ring).units 1 = some (o, 0, y)) :
    Completes (exec (.messageArrival t p) s) fun r =>
      r.word (spAddr p.dst (16 * ((s.ringCfg p.dst p.ring).base + o))) = h ∧ (r.cu p.dst).msg.ring p.ring = y ∧ (r.cu p.dst).msg.trackers = [] ∧
      (r.mu (p.dst / 4)).replies = (s.mu (p.dst / 4)).replies ++ [.ack p.src p.chan 0 p.ctx p.stitchLo] ∧
      ((s.ringCfg p.dst p.ring).sig = true → Assoc.get 0 (r.cu p.dst).sync.banks (syncKey s.bank (s.ringCfg p.dst p.ring).sigCounter) =
        min 0xFFFF (old + (sum + 1)).toNat) ∧
      MemAlone (spAddr p.dst (16 * ((s.ringCfg p.dst p.ring).base + o))) 16 s r ∧ CusAlone [p.dst] s r ∧ MusAlone [p.dst / 4] s r := by
  have hnone : (s.cu p.dst).msg.tracker p.src p.chan = none := by rw [Msg.tracker, ht, List.find?_nil]
  have hfirst := messageFirst_delivers (s := s.masterTime t) (p := p) (h := h) (o := o) (y := y) (by rwa [masterTime_ringCfg]) (by rwa [masterTime_active])
    (by rwa [State.ringAdmits, masterTime_cuWins, masterTime_ringCfg]) (by rwa [masterTime_cu]) hu hd (by rwa [masterTime_cu, masterTime_ringCfg])
  obtain ⟨hring, htrack, hsync⟩ := delivered_msg (s := s.masterTime t) (o := o) (y := y) hp hd (by rwa [masterTime_cu])
  obtain ⟨hword, hmem⟩ := delivered_word (s := s.masterTime t) (o := o) (y := y) (by unfold Inv; rw [masterTime_mem, masterTime_hostMem]; exact hi) hp hd
  have hk := kept_delivered (s := s.masterTime t) (o := o) (y := y) hp hd
  have halone := delivered_cusAlone (s := s.masterTime t) (o := o) (y := y) hp hd
  rw [masterTime_ringCfg] at hfirst hword hmem
  generalize (s.masterTime t).delivered p o y = d at hfirst hring htrack hsync hword hmem hk halone
  have hsig := kept_signalled d p.dst (s.ringCfg p.dst p.ring)
  refine ⟨_, (exec_messageArrival hf hb he hs hnone).trans (congrArg Host.Outcome.next hfirst), ?_, ?_, ?_, ?_, fun hon => ?_, ?_, ?_, fun q hq => ?_⟩
  · rw [← hword]
    exact word_congr (hsig.eq_mem (by decide)) _
  · rw [reply_cu, signalled_msg, hring]
  · rw [reply_cu, signalled_msg, htrack]
  · rw [reply_mu, if_pos rfl, hsig.eq_mu (by decide), hk.eq_mu (by decide), masterTime_mu]
  · have hbank : d.bank = s.bank := by rw [State.bank, hk.eq_stitch (by decide), masterTime_stitch, State.bank]
    rw [reply_cu, State.signalled, if_pos hon, ← hbank]
    exact addSync_banks 1 (by rw [hsync, hbank, masterTime_cu, hk.eq_bay (by decide), masterTime_bay]; exact hmade)
  · exact ((memAlone_of_mem_eq _ _ (masterTime_mem s t)).trans hmem).trans (memAlone_of_mem_eq _ _ (hsig.eq_mem (by decide)))
  · exact masterTime_cusAlone t (.trans (.trans halone (signalled_cusAlone d p.dst _)) fun v _ => reply_cu _ _ _ v)
  · rw [reply_musAlone _ _ _ q hq, hsig.eq_mu (by decide), hk.eq_mu (by decide), masterTime_mu]

end

/-- Settles O45: the sender's side clause by clause, the receiver's by the tracker that the part finds or takes. -/
theorem messagesCross : Obligations.MessagesCross := by
  unfold Obligations.MessagesCross
  refine ⟨fun t u ch n c j rest s hr hc hq hi hn hmin => message_injected hr hc hq hi hn hmin,
    fun t u o old sum p h c y s hi hu hf hb he ht hs hctx hmade hp hunits hd hc => ?_,
    fun t u p c s hu hf hb he hs hctx hc hen ha ht hfull hl => ?_, fun t u p x h s hi hu hf hb he hs ht hsrc hch h0 hg hd hl => ?_,
    fun t u ch c s m hr hm hc hf hn he => ⟨fun hb => message_acknowledged hr hc hf hn he hb, fun hlt => hm ▸ message_noSpace hr hc hf hn he hlt⟩,
    fun t u ch a c s m hr hm hc hn ha => message_retried hr hc hn (hm ▸ ha),
    fun t u k v n z old sum p rest s m hm hr hz hen hh hp hv hmade hpos => ring_released hm hr hz hen (hp ▸ hh) hv hmade hpos⟩
  · subst hu hc
    exact ⟨fun hen ha hplace => message_delivered hi hf hb he hs ht hctx hmade hp hunits hd hen ha hplace,
      fun hen => message_disabled hf hb he hs ht hunits hd hen⟩
  · subst hu hc
    exact message_untracked hf hb he hs hctx hen ha ht (decide_eq_true hfull) hl
  · subst hu
    exact message_part hi hf hb he hs ht hsrc hch h0 hg hd hl

end Sys2Proof.Machine

/-! PROOF. Family 03_compute_unit: what every slot's proof uses. -/

namespace Sys2Proof.Machine

/-! ### What a bay's clock leaves -/

@[simp] theorem bayTime_stitch (s : State) (b t : Nat) : (s.bayTime b t).stitch = s.stitch := (kept_atBayTime s b t).eq_stitch (by decide)
@[simp] theorem bayTime_ctxs (s : State) (b t : Nat) : (s.bayTime b t).ctxs = s.ctxs := (kept_atBayTime s b t).eq_ctxs (by decide)
@[simp] theorem bayTime_rel (s : State) (b t : Nat) : (s.bayTime b t).rel = s.rel := (kept_atBayTime s b t).eq_rel (by decide)
@[simp] theorem bayTime_cus (s : State) (b t : Nat) : (s.bayTime b t).cus = s.cus := (kept_atBayTime s b t).eq_cus (by decide)
@[simp] theorem bayTime_hsync (s : State) (b t : Nat) : (s.bayTime b t).hsync = s.hsync := (kept_atBayTime s b t).eq_hsync (by decide)

theorem bayTime_regN {id : RegId} (s : State) {b : Nat} (t : Nat) (h : id ∉ bayClockRegs b) : (s.bayTime b t).regN id = s.regN id :=
  congrArg BitVec.toNat (bayTime_reg s t h)

@[simp] theorem bayTime_sregN (s : State) (b t u x : Nat) : (s.bayTime b t).sregN u x = s.sregN u x := by
  rw [State.sregN, State.sregN, bayTime_cu]

@[simp] theorem bayTime_descOf (s : State) (b t u d off : Nat) : (s.bayTime b t).descOf u d off = s.descOf u d off := by
  simp only [State.descOf, bayTime_regN s t (id := .desc u d _) (b := b) (by simp [bayClockRegs])]

@[simp] theorem bayTime_seqMask (s : State) (b t : Nat) : (s.bayTime b t).seqMask = s.seqMask := by
  simp only [State.seqMask, State.active, State.ctx?, bayTime_stitch, bayTime_ctxs]

@[simp] theorem bayTime_slotOf (s : State) (b t u x : Nat) (i : BitVec 11) :
    (s.bayTime b t).slotOf u x i = (s.sregN u x + i.toNat) % 2048 := by
  rw [State.slotOf, bayTime_sregN]

/-! ### Frames of a lane's command -/

theorem Touches.trans {l : List Comp} {s t r : State} (h : Touches l s t) (h' : Touches l t r) : Touches l s r :=
  ⟨h'.1.trans h.1, fun k hk => agrees_trans (h.2 k hk) (h'.2 k hk)⟩

theorem BaysAlone.trans {l : List Nat} {s t r : State} (h : BaysAlone l s t) (h' : BaysAlone l t r) : BaysAlone l s r :=
  fun b hb => (h' b hb).trans (h b hb)

theorem RegsAlone.trans {l : List RegId} {s t r : State} (h : RegsAlone l s t) (h' : RegsAlone l t r) : RegsAlone l s r :=
  fun id hid => (h' id hid).trans (h id hid)

theorem RegsAlone.mono {l l' : List RegId} {s t : State} (h : RegsAlone l s t) (hl : l ⊆ l') : RegsAlone l' s t :=
  fun id hid => h id fun hm => hid (hl hm)

theorem modCu_cusAlone (s : State) (u : Nat) (f : Cu → Cu) : CusAlone [u] s (s.modCu u f) := fun v hv => by
  rw [modCu_cu, if_neg fun e => hv (by simp [e])]

theorem LaneFrame.trans {u : Nat} {s t r : State} (h : LaneFrame u s t) (h' : LaneFrame u t r) : LaneFrame u s r := by
  obtain ⟨hcus, hbays, hregs, htouches⟩ := h
  obtain ⟨hcus', hbays', hregs', htouches'⟩ := h'
  exact ⟨hcus.trans hcus', hbays.trans hbays', hregs.trans hregs', htouches.trans htouches'⟩

theorem laneFrame_bayTime (s : State) (u t : Nat) : LaneFrame u s (s.bayTime (bayOfCu u) t) :=
  ⟨fun v _ => bayTime_cu s _ t v, bayTime_baysAlone s _ t, bayTime_regsAlone s _ t, ((kept_atBayTime s _ t).mono (by decide)).touches⟩

theorem laneFrame_modCu (s : State) (u : Nat) (f : Cu → Cu) : LaneFrame u s (s.modCu u f) :=
  ⟨modCu_cusAlone s u f, fun _ _ => rfl, fun _ _ => rfl, (kept_modCu (by decide) (Kept.refl _ s)).touches⟩

theorem laneFrame_modBay (s : State) (u : Nat) (f : Bay → Bay) : LaneFrame u s (s.modBay (bayOfCu u) f) :=
  ⟨fun _ _ => rfl, modBay_baysAlone s _ f, fun _ _ => rfl, (kept_modBay (by decide) (Kept.refl _ s)).touches⟩

/-! ### A command of a free lane -/

theorem laneFree_iff {s : State} {u : Nat} : s.laneFree u = true ↔ s.laneRuns u = true ∧ (s.cu u).seq.stall = .none := by
  rw [State.laneFree, Bool.and_eq_true, decide_eq_true_eq]

section

variable {t u : Nat} {s : State} {c : Instr} {f : State → State} {g : Cu → Cu}

/-- A command of a free lane does what its slot does at the bay's time. -/
theorem exec_onLane (hfree : (s.bayTime (bayOfCu u) t).laneFree u = true) (hc : exec c s = .next (s.onLane t u f)) :
    exec c s = .next (f (s.bayTime (bayOfCu u) t)) := hc.trans (congrArg _ (if_pos hfree))

/-- A command that comes down to an update of its CU, beside the bay's clock. -/
theorem updates_cu (hc : exec c s = .next ((s.bayTime (bayOfCu u) t).modCu u g)) :
    Completes (exec c s) fun r => r.cu u = g (s.cu u) ∧ LaneFrame u s r :=
  ⟨_, hc, by rw [modCu_cu, if_pos rfl, bayTime_cu], (laneFrame_bayTime s u t).trans (laneFrame_modCu _ u g)⟩

/-- A command that comes down to the bay's clock. -/
theorem leaves_cu (hc : exec c s = .next (s.bayTime (bayOfCu u) t)) : Completes (exec c s) fun r => r.cu u = s.cu u ∧ LaneFrame u s r :=
  ⟨_, hc, bayTime_cu s _ t u, laneFrame_bayTime s u t⟩

theorem updates_seq {g : Seq → Seq} (hc : exec c s = .next ((s.bayTime (bayOfCu u) t).modSeq u g)) :
    Completes (exec c s) fun r => r.cu u = { s.cu u with seq := g (s.cu u).seq } ∧ LaneFrame u s r := updates_cu hc

/-- The command of a free lane whose slot is an update of the sequencer. -/
theorem lane_updates_seq {g : Seq → Seq} (hfree : (s.bayTime (bayOfCu u) t).laneFree u = true)
    (hc : exec c s = .next (s.onLane t u fun x => x.modSeq u g)) :
    Completes (exec c s) fun r => r.cu u = { s.cu u with seq := g (s.cu u).seq } ∧ LaneFrame u s r := updates_seq (exec_onLane hfree hc)

end

/-! ### The control slot (R70, R71, R72) -/

theorem endloop_of_open {q : Seq} {st n : Nat} {rest : List (Nat × Nat)} (h : q.loops = (st, n) :: rest) :
    q.endloop = if 1 < n then { q with next := st, loops := (st, n - 1) :: rest } else { q with loops := rest } := by
  rw [Seq.endloop, h]

theorem endloop_of_none {q : Seq} (h : q.loops = []) : q.endloop = q := by
  rw [Seq.endloop, h]

/-- Settles O32: each command is one update of its sequencer. -/
theorem controlSlot : Obligations.ControlSlot := by
  rintro t u s m q rfl hfree rfl
  refine ⟨leaves_cu (exec_onLane (f := id) hfree rfl), fun n => ?_, fun n => lane_updates_seq (g := fun q => { q with loops := (q.next, n) :: q.loops }) hfree rfl,
    fun st n rest hl => ?_, fun hl => ?_, lane_updates_seq (g := fun q => { q with pred := true }) hfree rfl, fun x i => ?_,
    lane_updates_seq (g := fun q => { q with ended := true }) hfree rfl⟩
  · have hexec : exec (.hold t u n) s = _ := exec_onLane hfree rfl
    by_cases hn : n = 0
    · simp only [State.ctlHold, if_pos hn] at hexec ⊢
      exact leaves_cu hexec
    · simp only [State.ctlHold, if_neg hn] at hexec ⊢
      exact updates_seq hexec
  · rw [← endloop_of_open hl]
    exact lane_updates_seq (g := Seq.endloop) hfree rfl
  · have hend : exec (.endloop t u) s = _ := exec_onLane hfree rfl
    simpa only [endloop_of_none hl] using updates_seq hend
  · have hpred : exec (.pred t u x i) s = _ := exec_onLane hfree rfl
    simpa only [bayTime_seqMask, bayTime_slotOf] using updates_seq hpred

/-! ### Scalar registers and EXIT (R54, R55, R70, R72) -/

theorem sreg_setSreg {q : Seq} {x : Nat} (hx : x < q.sregs.length) (v : BitVec 32) (y : Nat) :
    (q.setSreg x v).sreg y = if y = x then (if x = 0 then 0 else v) else q.sreg y := by
  by_cases h0 : x = 0
  · by_cases hy : y = x
    · simp [Seq.sreg, h0, hy]
    · rw [Seq.setSreg, if_pos h0, if_neg hy]
  · by_cases hy : y = x
    · subst hy
      simp [Seq.setSreg, Seq.sreg, h0, hx]
    · simp [Seq.setSreg, Seq.sreg, h0, hy, List.getElem?_set_ne (Ne.symm hy)]

theorem setSreg_next (q : Seq) (x : Nat) (v : BitVec 32) : (q.setSreg x v).next = q.next := by
  unfold Seq.setSreg
  split <;> rfl

/-- SETI and ADDI: one scalar register takes a value, which s0 drops. -/
theorem writes_sreg {t u x : Nat} {s : State} {c : Instr} {v : Seq → BitVec 32} (hlen : (s.cu u).seq.sregs.length = 16) (hx : x < 16)
    (hc : exec c s = .next ((s.bayTime (bayOfCu u) t).modSeq u fun q => q.setSreg x (v q))) :
    Completes (exec c s) fun r => r.sregN u x = (if x = 0 then 0 else (v (s.cu u).seq).toNat) ∧ (∀ y, y ≠ x → r.sregN u y = s.sregN u y) ∧
      (r.cu u).seq.next = (s.cu u).seq.next ∧ LaneFrame u s r := by
  obtain ⟨r, hr, hcu, hframe⟩ := updates_seq hc
  have hseq : (r.cu u).seq = (s.cu u).seq.setSreg x (v (s.cu u).seq) := by rw [hcu]
  have hsreg (y : Nat) := sreg_setSreg (q := (s.cu u).seq) (hlen ▸ hx) (v (s.cu u).seq) y
  refine ⟨r, hr, ?_, fun y hy => ?_, ?_, hframe⟩
  · rw [State.sregN, hseq, hsreg, if_pos rfl, apply_ite BitVec.toNat]
    rfl
  · rw [State.sregN, hseq, hsreg, if_neg hy, State.sregN]
  · rw [hseq, setSreg_next]

theorem toNat_add_signExtend (a : BitVec 32) (i : BitVec 12) : ((a + i.signExtend 32).toNat : Int) = ((a.toNat : Int) + i.toInt) % 2 ^ 32 := by
  rw [← BitVec.toInt_signExtend_of_le (show 12 ≤ 32 by decide), BitVec.toNat_add, BitVec.toInt_eq_toNat_bmod, Int.bmod_def]
  omega

theorem exec_exit {t u x : Nat} {i : BitVec 11} {s : State} (hfree : (s.bayTime (bayOfCu u) t).laneFree u = true) :
    exec (.exit t u x i) s = .next ((s.bayTime (bayOfCu u) t).addExit ((s.sregN u x + i.toNat) % 2048)) := by
  have hexec : exec (.exit t u x i) s = _ := exec_onLane hfree rfl
  rwa [State.ctlExit, bayTime_slotOf] at hexec

theorem getLsbD_addExit (s : State) (k : Nat) {j : Nat} (hj : j < 2048) :
    (s.addExit k).stitch.exits.getLsbD j = (s.stitch.exits.getLsbD j || decide (j = k)) := by
  rw [State.addExit, modStitch_stitch]
  simp only [BitVec.getLsbD_or, BitVec.getLsbD_shiftLeft, BitVec.getLsbD_one, hj]
  by_cases h : j = k
  · simp [h]
  · by_cases hlt : j < k
    · simp [h, hlt]
    · have : j - k ≠ 0 := by omega
      simp [h, hlt, this]

/-- Settles O33: SETI and ADDI by `writes_sreg`, EXIT by the one bit it sets. -/
theorem scalarSlots : Obligations.ScalarSlots := by
  refine ⟨?_, ?_⟩
  · rintro t u x i s m rfl hfree hlen hx
    refine ⟨?_, ?_⟩
    · have hexec : exec (.seti t u x i) s = _ := exec_onLane hfree rfl
      simpa only [BitVec.toNat_setWidth_of_le (show 12 ≤ 32 by decide)] using writes_sreg (v := fun _ => i.zeroExtend 32) hlen hx hexec
    · have hexec : exec (.addi t u x i) s = _ := exec_onLane hfree rfl
      obtain ⟨r, hr, hx, hother, -, hframe⟩ := writes_sreg (v := fun q => q.sreg x + i.signExtend 32) hlen hx hexec
      refine ⟨r, hr, ?_, hother, hframe⟩
      rw [hx, State.sregN, ← toNat_add_signExtend]
      split <;> rfl
  · rintro t u x i s m rfl hfree
    refine ⟨_, exec_exit hfree, fun j hj => ?_, bayTime_ctxs s _ t, bayTime_cus s _ t, bayTime_regsAlone s _ t, ?_⟩
    · rw [getLsbD_addExit _ _ hj, bayTime_stitch]
    · exact (kept_addExit (by decide) ((kept_atBayTime s _ t).mono (by decide))).touches

end Sys2Proof.Machine

/-! PROOF. Family 03_compute_unit: what holds a lane and what lets it go (O34). -/

namespace Sys2Proof.Machine

/-! ### Holds and launches (R70, R74) -/

theorem holdExpiry_of_due {s : State} {u n : Nat} (hst : (s.cu u).seq.stall = .hold n) (hn : n ≤ (s.bay (bayOfCu u)).cycle) :
    s.holdExpiry u = s.modSeq u fun q => { q with stall := .none } := by
  rw [State.holdExpiry, hst]
  exact if_pos hn

theorem launchRelease_of_due {s : State} {u v : Nat} (hst : (s.cu u).seq.stall = .launch v false) (hr : s.laneRuns u = true)
    (hv : v ≤ (s.bay (bayOfCu u)).cycle) : s.launchRelease u = s.modSeq u fun q => { q with stall := .none } := by
  rw [State.launchRelease, hst]
  exact if_pos (by simp [hr, hv])

theorem sregN_lt (s : State) (u x : Nat) : s.sregN u x < 2 ^ 32 := BitVec.isLt _

section

variable {t u x : Nat} {s : State}

theorem launch_waits (h : (s.bay (bayOfCu u)).cycle < s.sregN u x) :
    s.ctlLaunch u x = s.modSeq u fun q => { q with stall := .launch (s.sregN u x) false } := by
  rw [State.ctlLaunch, if_neg (by omega), if_neg (by omega)]

theorem launch_goes (h : s.sregN u x = (s.bay (bayOfCu u)).cycle) : s.ctlLaunch u x = s := by
  rw [State.ctlLaunch, if_neg (by omega), if_pos h]

theorem launch_reported (h : s.sregN u x < (s.bay (bayOfCu u)).cycle) : s.ctlLaunch u x = s.launchLate u (s.sregN u x) := by
  rw [State.ctlLaunch, if_pos h]

theorem raised_launchLate (s : State) (u : Nat) {v : Nat} (hv : v < 2 ^ 32) : Raised s (s.launchLate u v) (bayOfCu u) 9 0 (locCu u % 2 ^ 32) v 0 := by
  have hraised := raised_raiseBay s (bayOfCu u) 9 0 (locCu u) v 0
  rwa [Nat.mod_eq_of_lt hv] at hraised

/-- A LAUNCH waits for a later cycle; one whose cycle has passed is reported (R70, R74). -/
theorem lane_launches (hfree : (s.bayTime (bayOfCu u) t).laneFree u = true) : Completes (exec (.launch t u x) s) fun r =>
    (((s.bayTime (bayOfCu u) t).bay (bayOfCu u)).cycle < s.sregN u x →
      r.cu u = { s.cu u with seq := { (s.cu u).seq with stall := .launch (s.sregN u x) false } } ∧ r.evt = s.evt) ∧
    (s.sregN u x = ((s.bayTime (bayOfCu u) t).bay (bayOfCu u)).cycle → r.cu u = s.cu u ∧ r.evt = s.evt) ∧
    (s.sregN u x < ((s.bayTime (bayOfCu u) t).bay (bayOfCu u)).cycle → r.cu u = s.cu u ∧
      Raised s r (bayOfCu u) 9 0 (locCu u % 2 ^ 32) (s.sregN u x) 0) ∧
    CusAlone [u] s r ∧ Touches [.regs, .bays, .cus, .evt] s r := by
  have hexec : exec (.launch t u x) s = .next ((s.bayTime (bayOfCu u) t).ctlLaunch u x) :=
    exec_onLane (f := fun y => y.ctlLaunch u x) hfree rfl
  have htouches := (kept_ctlLaunch (l := [.regs, .bays, .cus, .evt]) (u := u) (r := x) (by decide) ((kept_atBayTime s (bayOfCu u) t).mono (by decide))).touches
  refine ⟨_, hexec, ?_⟩
  rcases Nat.lt_trichotomy ((s.bayTime (bayOfCu u) t).bay (bayOfCu u)).cycle (s.sregN u x) with h | h | h
  · rw [launch_waits (by rwa [bayTime_sregN]), bayTime_sregN] at htouches ⊢
    refine ⟨fun _ => ⟨?_, bayTime_evt s _ t⟩, fun h' => absurd h' (by omega), fun h' => absurd h' (by omega),
      ((laneFrame_bayTime s u t).trans (laneFrame_modCu _ u _)).1, htouches⟩
    rw [State.modSeq, modCu_cu, if_pos rfl, bayTime_cu]
  · rw [launch_goes (by rw [bayTime_sregN, h])] at htouches ⊢
    exact ⟨fun h' => absurd h' (by omega), fun _ => ⟨bayTime_cu s _ t u, bayTime_evt s _ t⟩, fun h' => absurd h' (by omega),
      (laneFrame_bayTime s u t).1, htouches⟩
  · rw [launch_reported (by rwa [bayTime_sregN]), bayTime_sregN] at htouches ⊢
    exact ⟨fun h' => absurd h' (by omega), fun h' => absurd h' (by omega), fun _ => ⟨bayTime_cu s _ t u,
      (raised_launchLate _ u (sregN_lt s u x)).of_evt_eq (bayTime_evt s _ t)⟩, (laneFrame_bayTime s u t).1, htouches⟩

end

/-! ### BRACE (R387) -/

theorem bayCycles_gov (s : State) (b d : Nat) : ∃ n, ((s.bayCycles b d).bay b).gov = { (s.bay b).gov with sinceRise := n } := by
  unfold State.bayCycles
  simp only [apply_ite (State.bay · b), tally_bay, setBay_bay, if_true, ite_self]
  split
  · exact ⟨_, rfl⟩
  · exact ⟨_, rfl⟩

/-- Of a bay's governor, the clock moves the cycles since the last rise alone. -/
theorem bayTime_gov (s : State) (b t q : Nat) : ∃ n, ((s.bayTime b t).bay q).gov = { (s.bay q).gov with sinceRise := n } := by
  by_cases hq : q = b
  · exact hq ▸ bayCycles_gov s q _
  · exact ⟨_, by rw [bayTime_baysAlone s b t q (by simpa using hq)]⟩

theorem bayTime_mhz (s : State) (b t q : Nat) : (s.bayTime b t).mhz q = s.mhz q := by rw [State.mhz, State.mhz, bayTime_modes]

theorem ctlBrace_gov (s : State) (u l : Nat) : ((s.ctlBrace u l).bay (bayOfCu u)).gov = if l = 0
    then { (s.bay (bayOfCu u)).gov with armed := false, braceLevel := 0, braces := [] }
    else { (s.bay (bayOfCu u)).gov with braces := (s.bay (bayOfCu u)).gov.braces ++
      [((s.bay (bayOfCu u)).cycle + ceilDiv (4000 * s.mhz (bayOfCu u)) 1000, l)] } := by
  rw [State.ctlBrace, setBay_bay, if_pos rfl]

theorem ctlBrace_baysAlone (s : State) (u l : Nat) : BaysAlone [bayOfCu u] s (s.ctlBrace u l) := fun q hq => by
  rw [State.ctlBrace, setBay_bay, if_neg fun e => hq (by simp [e])]

theorem braceArm_of_one {s : State} {b c l : Nat} (hb : (s.bay b).gov.braces = [(c, l)]) (hc : c ≤ (s.bay b).cycle) (he : (s.bay b).gov.entryAt = none)
    (ha : (s.bay b).gov.armed = false) : s.braceArm b = s.modBay b fun y => { y with gov := { y.gov with
      braces := [], armed := decide (y.gov.level < l), braceLevel := if y.gov.level < l then l else 0 } } := by
  simp only [State.braceArm, hb, he, ha, List.filter_cons, hc, decide_true, if_true, List.filter_nil, List.append_nil, Bool.false_eq_true, if_false,
    List.foldl_cons, List.foldl_nil, Nat.zero_max, List.cons_ne_nil, Bool.not_true, ite_self]
  rw [State.modBay]
  congr 3
  rw [← he]

theorem lane_braces {t u l : Nat} {s : State} (hfree : (s.bayTime (bayOfCu u) t).laneFree u = true) : Completes (exec (.brace t u l) s) fun r =>
    (r.bay (bayOfCu u)).gov.braces = (if l = 0 then [] else (s.bay (bayOfCu u)).gov.braces ++
      [(((s.bayTime (bayOfCu u) t).bay (bayOfCu u)).cycle + ceilDiv (4000 * s.mhz (bayOfCu u)) 1000, l)]) ∧ (l = 0 → (r.bay (bayOfCu u)).gov.armed = false) ∧
    r.cus = s.cus ∧ BaysAlone [bayOfCu u] s r ∧ RegsAlone (bayClockRegs (bayOfCu u)) s r ∧ Touches [.regs, .bays] s r := by
  obtain ⟨n, hgov⟩ := bayTime_gov s (bayOfCu u) t (bayOfCu u)
  have hexec : exec (.brace t u l) s = .next ((s.bayTime (bayOfCu u) t).ctlBrace u l) := exec_onLane (f := fun y => y.ctlBrace u l) hfree rfl
  refine ⟨_, hexec, ?_, fun hl => ?_, bayTime_cus s _ t, (bayTime_baysAlone s _ t).trans (ctlBrace_baysAlone _ u l), bayTime_regsAlone s _ t,
    (kept_ctlBrace (by decide) (kept_atBayTime s _ t)).touches⟩
  · rw [ctlBrace_gov, hgov, bayTime_mhz, apply_ite Governor.braces]
  · rw [ctlBrace_gov, if_pos hl]

theorem brace_arms {t b c l : Nat} {s : State} (hb : (s.bay b).gov.braces = [(c, l)]) (hc : c ≤ ((s.bayTime b t).bay b).cycle)
    (he : (s.bay b).gov.entryAt = none) (ha : (s.bay b).gov.armed = false) : Completes (exec (.braceArm t b) s) fun r => (r.bay b).gov.braces = [] ∧
      (r.bay b).gov.armed = decide ((s.bay b).gov.level < l) ∧ (r.bay b).gov.braceLevel = (if (s.bay b).gov.level < l then l else 0) ∧
      BaysAlone [b] s r ∧ RegsAlone (bayClockRegs b) s r ∧ Touches [.regs, .bays] s r := by
  obtain ⟨n, hgov⟩ := bayTime_gov s b t b
  have harm : (s.bayTime b t).braceArm b = _ := braceArm_of_one (by rw [hgov]; exact hb) hc (by rw [hgov]; exact he) (by rw [hgov]; exact ha)
  refine ⟨_, congrArg Host.Outcome.next harm, ?_, ?_, ?_, (bayTime_baysAlone s b t).trans (modBay_baysAlone _ b _), bayTime_regsAlone s b t,
    (kept_modBay (by decide) (kept_atBayTime s b t)).touches⟩
  · rw [modBay_bay, if_pos rfl]
  · rw [modBay_bay, if_pos rfl, hgov]
  · rw [modBay_bay, if_pos rfl, hgov]

/-! ### The end marker retires (R32) -/

@[simp] theorem bayTime_inStitch (s : State) (b t q : Nat) : ((s.bayTime b t).bay q).inStitch = (s.bay q).inStitch := by
  obtain ⟨c, n, g, h⟩ := bayTime_bay s b t q
  rw [h]

@[simp] theorem bayTime_windowOver (s : State) (b t q : Nat) : ((s.bayTime b t).bay q).windowOver = (s.bay q).windowOver := by
  obtain ⟨c, n, g, h⟩ := bayTime_bay s b t q
  rw [h]

theorem bayTime_workDone (s : State) (b t u : Nat) : (s.bayTime b t).workDone u = s.workDone u := by
  simp only [State.workDone, State.streamsIdle, bayTime_cu, bayTime_mu]

theorem markerRetire_of_done {s : State} {u : Nat} (hk : s.stitch.kind = .work) (hi : (s.bay (bayOfCu u)).inStitch = true)
    (hw : (s.bay (bayOfCu u)).windowOver = false) (he : (s.cu u).seq.ended = true) (hr : (s.cu u).seq.retired = false) (hd : s.workDone u = true) :
    s.markerRetire u = (s.modSeq u fun q => { q with retired := true }).modBay (bayOfCu u) fun y => { y with retireAt := y.cycle } := by
  simp only [State.markerRetire, hk, hi, hw, he, hr, hd, beq_self_eq_true, Bool.not_false, Bool.and_self, if_true]

theorem marker_retires {t u : Nat} {s : State} (hk : s.stitch.kind = .work) (hi : (s.bay (bayOfCu u)).inStitch = true)
    (hw : (s.bay (bayOfCu u)).windowOver = false) (he : (s.cu u).seq.ended = true) (hr : (s.cu u).seq.retired = false) (hd : s.workDone u = true) :
    Completes (exec (.stitchEndMarkerRetire t u) s) fun r => r.cu u = { s.cu u with seq := { (s.cu u).seq with retired := true } } ∧
      (r.bay (bayOfCu u)).retireAt = ((s.bayTime (bayOfCu u) t).bay (bayOfCu u)).cycle ∧ LaneFrame u s r := by
  have hretire : (s.bayTime (bayOfCu u) t).markerRetire u = _ := markerRetire_of_done (by rwa [bayTime_stitch]) (by rwa [bayTime_inStitch])
    (by rwa [bayTime_windowOver]) (by rwa [bayTime_cu]) (by rwa [bayTime_cu]) (by rwa [bayTime_workDone])
  refine ⟨_, congrArg Host.Outcome.next hretire, ?_, ?_, ((laneFrame_bayTime s u t).trans (laneFrame_modCu _ u _)).trans (laneFrame_modBay _ u _)⟩
  · rw [modBay_cu, State.modSeq, modCu_cu, if_pos rfl, bayTime_cu]
  · rw [modBay_bay, if_pos rfl]
    rfl

/-! ### A damaged lane store is rewritten (R68, R76) -/

theorem errs_putWord (s : State) (a : Nat) (w : Word) (k : Nat) : (s.putWord a w).errs.get [] k = if a / 16 = k then [] else s.errs.get [] k := by
  rw [State.putWord, Assoc.get, Assoc.find?_erase]
  split <;> rfl

/-- A word that is good stays so under writes. -/
theorem errs_putWords_of_good {s : State} {k : Nat} (a : Nat) (ds : List Word) (h : s.errs.get [] k = []) : (s.putWords a ds).errs.get [] k = [] := by
  induction ds generalizing s a with
  | nil => exact h
  | cons d ds ih => exact ih (a + 16) (by rw [errs_putWord, h, ite_self])

theorem errs_putWords (s : State) (a : Nat) (ds : List Word) {i : Nat} (hi : i < ds.length) : (s.putWords a ds).errs.get [] ((a + 16 * i) / 16) = [] := by
  induction ds generalizing s a i with
  | nil => cases hi
  | cons d ds ih =>
    cases i with
    | zero => exact errs_putWords_of_good (a + 16) ds (errs_putWord_same s a d)
    | succ i =>
      have hrest := ih (s.putWord a d) (a + 16) (Nat.lt_of_succ_lt_succ hi)
      rwa [show a + 16 + 16 * i = a + 16 * (i + 1) by omega] at hrest

theorem laneAddr_add (u o n : Nat) : laneAddr u (o + n) = laneAddr u o + n := by
  simp only [laneAddr, devAddr]
  omega

theorem writeMany_lane (s : State) (u w : Nat) (ds : List Word) :
    s.writeMany (fun x i d => x.putWord (laneAddr u (16 * i)) d) w ds = s.putWords (laneAddr u (16 * w)) ds := by
  induction ds generalizing s w with
  | nil => rfl
  | cons d ds ih => rw [State.writeMany, ih, State.putWords, Nat.mul_add, laneAddr_add]

theorem laneRewrite_of_bad {s : State} {u : Nat} {c : Ctx} (hbad : u ∈ s.rel.badLanes) (hc : s.ctx? s.active = some c) :
    s.laneRewrite u = { s.putWords (laneAddr u 0) (laneIn c.image u) with rel := { s.rel with badLanes := s.rel.badLanes.filter (· ≠ u) } } := by
  have hrel : (s.writeLane u (laneIn c.image u)).rel = s.rel := (kept_writeLane (List.Subset.refl _) (Kept.refl _ s)).eq_rel (by decide)
  rw [State.laneRewrite, if_pos (List.contains_iff_mem.2 hbad), hc]
  dsimp only
  rw [hrel, State.writeLane, writeMany_lane]

theorem lane_rewritten {t u : Nat} {c : Ctx} {s : State} (hs : Inv s) (hbad : u ∈ s.rel.badLanes) (hc : s.ctx? s.active = some c)
    (hlen : (laneIn c.image u).length ≤ 512) : Completes (exec (.laneStoreRewrite t u) s) fun r => u ∉ r.rel.badLanes ∧
      (∀ i, i < (laneIn c.image u).length → r.word (laneAddr u (16 * i)) = (laneIn c.image u).getD i 0 ∧
        r.errs.get [] (laneAddr u (16 * i) / 16) = []) ∧ MemAlone (laneAddr u 0) 8192 s r ∧ Touches [.clk, .mem, .errs, .rel] s r := by
  have hrewrite : (s.masterTime t).laneRewrite u = _ := laneRewrite_of_bad (by rwa [masterTime_rel]) (by rwa [masterTime_active, masterTime_ctx])
  have hinv : Inv (s.masterTime t) := (kept_atMasterTime s t (List.Subset.refl _)).inv hs
  have haddr (i : Nat) : laneAddr u (16 * i) = laneAddr u 0 + 16 * i := by rw [← laneAddr_add, Nat.zero_add]
  refine ⟨_, congrArg Host.Outcome.next hrewrite, ?_, fun i hi => ⟨?_, ?_⟩, ?_, ?_⟩
  · simp
  · rw [haddr]
    exact word_putWords _ _ hinv hi
  · rw [haddr]
    exact errs_putWords _ _ _ hi
  · exact (memAlone_of_mem_eq _ _ (masterTime_mem s t)).trans ((memAlone_putWords _ _ _).mono (Nat.le_refl _) (by omega))
  · rw [← hrewrite]
    exact (kept_laneRewrite (by decide) (kept_atMasterTime s t (by decide))).touches

/-- Settles O34, clause by clause. -/
theorem lanesRunAndEnd : Obligations.LanesRunAndEnd := by
  refine ⟨⟨?_, ?_, ?_, ?_, ?_⟩, ?_, ?_⟩
  · rintro t u n s m rfl hst hn
    have hexec : exec (.holdExpiry t u) s = _ := congrArg Host.Outcome.next (holdExpiry_of_due (by rwa [bayTime_cu]) hn)
    exact updates_seq hexec
  · rintro t u x s m rfl hfree
    exact lane_launches hfree
  · rintro t u v s m rfl hst hr hv
    have hexec : exec (.launchRelease t u) s = _ := congrArg Host.Outcome.next (launchRelease_of_due (by rwa [bayTime_cu]) hr hv)
    exact updates_seq hexec
  · rintro t u l s m rfl hfree
    exact lane_braces hfree
  · rintro t b c l s m rfl hb hc he ha
    exact brace_arms hb hc he ha
  · rintro t u s m rfl hk hi hw he hr hd
    exact marker_retires hk hi hw he hr hd
  · rintro t u c s hs hbad hc hlen
    exact lane_rewritten hs hbad hc hlen

end Sys2Proof.Machine

/-! PROOF. Family 03_compute_unit: the slots that give an engine work (O36). -/

namespace Sys2Proof.Machine

/-! ### Predicates and room (R72, R73) -/

theorem slotOn_of {s : State} {u : Nat} {p : Bool} (h : p = false ∨ (s.cu u).seq.pred = true) : s.slotOn u p = true := by
  rcases h with h | h <;> simp [State.slotOn, h]

theorem slotOn_off {s : State} {u : Nat} {p : Bool} (hp : p = true) (h : (s.cu u).seq.pred = false) : s.slotOn u p = false := by
  simp [State.slotOn, hp, h]

section

variable {s : State} {u : Nat} {p : Bool} {j : SlotJob}

theorem slotAct_of_room (hon : s.slotOn u p = true) (hroom : s.slotRoom u j = true) : s.slotAct u p j = s.issueSlot u j := by
  rw [State.slotAct, State.slotIf, if_pos hon, if_pos hroom]

theorem slotAct_of_full (hon : s.slotOn u p = true) (hroom : s.slotRoom u j = false) :
    s.slotAct u p j = s.modSeq u fun q => { q with stall := .slot j } := by
  rw [State.slotAct, State.slotIf, if_pos hon, if_neg (by rw [hroom]; exact Bool.false_ne_true)]

theorem slotAct_of_off (hoff : s.slotOn u p = false) : s.slotAct u p j = s := by
  rw [State.slotAct, State.slotIf, if_neg (by rw [hoff]; exact Bool.false_ne_true)]

end

section

variable {t u : Nat} {s : State} {c : Instr} {p : Bool} {j : SlotJob}

/-- A slot that finds its queue full stalls its lane (R73). -/
theorem slot_stalls (hc : exec c s = .next ((s.bayTime (bayOfCu u) t).slotAct u p j)) (hon : p = false ∨ (s.cu u).seq.pred = true)
    (hfull : (s.bayTime (bayOfCu u) t).slotRoom u j = false) :
    Completes (exec c s) fun r => r.cu u = { s.cu u with seq := { (s.cu u).seq with stall := .slot j } } ∧ LaneFrame u s r := by
  rw [slotAct_of_full (slotOn_of (by rwa [bayTime_cu])) hfull] at hc
  exact updates_seq hc

/-- A slot whose predicate is off does nothing (R72). -/
theorem slot_off (hc : exec c s = .next ((s.bayTime (bayOfCu u) t).slotAct u p j)) (hp : p = true) (hpred : (s.cu u).seq.pred = false) :
    Completes (exec c s) fun r => r.cu u = s.cu u ∧ LaneFrame u s r := by
  rw [slotAct_of_off (slotOn_off hp (by rwa [bayTime_cu]))] at hc
  exact leaves_cu hc

/-- A slot whose queue has room starts its work. -/
theorem exec_slot (hc : exec c s = .next ((s.bayTime (bayOfCu u) t).slotAct u p j)) (hon : p = false ∨ (s.cu u).seq.pred = true)
    (hroom : (s.bayTime (bayOfCu u) t).slotRoom u j = true) : exec c s = .next ((s.bayTime (bayOfCu u) t).issueSlot u j) := by
  rwa [slotAct_of_room (slotOn_of (by rwa [bayTime_cu])) hroom] at hc

end

/-! ### The jobs that slots queue (R91, R101, R103) -/

/-- The job that a tensor slot queues. -/
def State.tensorJob (s : State) (u : Nat) (drain clear : Bool) (op : TensorOp) : SteJob :=
  { drain := drain, op := op, clear := clear, a := s.descOf u op.descA (s.sregN u op.sregA), b := s.descOf u op.descB (s.sregN u op.sregB)
    d := s.descOf u op.descD (s.sregN u op.sregB), stA := none, stB := none, ldA := Loading.start, ldB := Loading.start, no := (s.cu u).issues }

def Cu.queueTensor (cu : Cu) (j : SteJob) : Cu := { cu with issues := cu.issues + 1, ste := { cu.ste with queue := cu.ste.queue ++ [j] } }

theorem issueTensor_eq (s : State) (u : Nat) (drain clear : Bool) (op : TensorOp) :
    s.issueTensor u drain clear op = s.modCu u fun cu => cu.queueTensor (s.tensorJob u drain clear op) := rfl

@[simp] theorem bayTime_tensorJob (s : State) (b t u : Nat) (drain clear : Bool) (op : TensorOp) :
    (s.bayTime b t).tensorJob u drain clear op = s.tensorJob u drain clear op := by
  simp only [State.tensorJob, bayTime_descOf, bayTime_sregN, bayTime_cu]

/-- The job that a vector slot queues. -/
def State.vectorJob (s : State) (u : Nat) (op : VecOp) : VecJob :=
  { op := op, x := s.descOf u op.descX 0, y := s.descOf u op.descY 0, d := s.descOf u op.descD 0, no := (s.cu u).issues }

def Cu.queueVector (cu : Cu) (j : VecJob) : Cu := { cu with issues := cu.issues + 1, vec := { cu.vec with queue := cu.vec.queue ++ [j] } }

theorem issueVector_eq (s : State) (u : Nat) (op : VecOp) : s.issueVector u op = s.modCu u fun cu => cu.queueVector (s.vectorJob u op) := rfl

@[simp] theorem bayTime_vectorJob (s : State) (b t u : Nat) (op : VecOp) : (s.bayTime b t).vectorJob u op = s.vectorJob u op := by
  simp only [State.vectorJob, bayTime_descOf, bayTime_cu]

theorem field_eq (n hi lo : Nat) : field n hi lo = n / 2 ^ lo % 2 ^ (hi + 1 - lo) := by
  rw [field, Nat.shiftRight_eq_div_pow]

/-- The transfer that a DMA slot queues: descriptor words `w`, scalar offsets `a` and `b` (R103). -/
def dmaJob (w : Nat → Nat) (a b : Nat) : Xfer :=
  { src := (w 0 + w 1 % 2 ^ 16 * 2 ^ 32 + 16 * a) % 2 ^ 48, dst := (w 1 / 2 ^ 16 % 2 ^ 16 + w 2 * 2 ^ 16 + 16 * b) % 2 ^ 48
    units := w 3 / 2 ^ 12 % 2 ^ 20, counter := w 3 / 2 ^ 7 % 32, signal := (w 3).testBit 6
    todo := [], slots := [], err := false, moved := false, ready := 0 }

def Cu.queueDma (cu : Cu) (x : Xfer) : Cu := { cu with dma := { cu.dma with queue := cu.dma.queue ++ [x] } }

theorem issueDma_eq (s : State) (u d ss sd : Nat) :
    s.issueDma u d ss sd = s.modCu u fun cu => cu.queueDma (dmaJob (fun i => s.regN (.dmaDesc u d i)) (s.sregN u ss) (s.sregN u sd)) := by
  simp only [State.issueDma, field_eq, bitOf, Cu.queueDma, dmaJob, Nat.pow_zero, Nat.div_one, Nat.reduceAdd, Nat.reduceSub, Nat.reducePow]

theorem bayTime_dmaDesc (s : State) (b t u d : Nat) :
    (fun i => (s.bayTime b t).regN (.dmaDesc u d i)) = fun i => s.regN (.dmaDesc u d i) :=
  funext fun _ => bayTime_regN s t (by simp [bayClockRegs])

/-! ### What keeps the checkpoint stream (R357) -/

/-- With no frozen word, the checkpoint stream stays as it is. -/
def TwinStays (s t : State) : Prop := s.twin.frozen = [] → t.twin = s.twin

theorem TwinStays.refl (s : State) : TwinStays s s := fun _ => rfl

theorem TwinStays.trans {s t r : State} (h : TwinStays s t) (h' : TwinStays t r) : TwinStays s r := fun hf =>
  (h' (by rw [h hf, hf])).trans (h hf)

theorem twinStays_of_kept {l : List Comp} {s t : State} (h : Kept l s t) (hl : .twin ∉ l) : TwinStays s t := fun _ => h.eq_twin hl

theorem TwinStays.foldl {α : Type} {f : State → α → State} (hf : ∀ x a, TwinStays x (f x a)) (l : List α) (s : State) : TwinStays s (l.foldl f s) :=
  foldl_keeps (P := TwinStays s) (TwinStays.refl s) fun x a _ h => h.trans (hf x a)

theorem twinStays_writeDest (s : State) (u src o : Nat) (bs : List Byte) : TwinStays s (s.writeDest u src o bs) := by
  unfold State.writeDest
  generalize bytesWords (ceilDiv bs.length 16) bs = ds
  generalize o / 16 = w
  induction ds generalizing s w with
  | nil => exact .refl s
  | cons d ds ih =>
    refine TwinStays.trans ?_ (ih _ (w + 1))
    dsimp only
    split
    · exact twinStays_of_kept (kept_writeSp (List.Subset.refl _) (Kept.refl _ s)) (by decide)
    · exact fun hf => (sliceWork_writeMu s (u / 4) w d hf).twin hf

theorem twinStays_writeDestChecked (s : State) (u src o : Nat) (bs : List Byte) : TwinStays s (s.writeDestChecked u src o bs) := by
  unfold State.writeDestChecked
  dsimp only
  split
  · exact twinStays_writeDest s u src o bs
  · exact twinStays_of_kept (kept_sourceFault (List.Subset.refl _) (Kept.refl _ s)) (by decide)

theorem twinStays_writeLine (s : State) (u : Nat) (d : Desc) (l a : Nat) (p : PackOut) : TwinStays s (s.writeLine u d l a p).1 := by
  have hdropped : TwinStays s (s.countDropped (bayOfCu u) d p) := twinStays_of_kept (kept_countDropped (List.Subset.refl _) (Kept.refl _ s)) (by decide)
  unfold State.writeLine
  dsimp only
  split
  · exact hdropped.trans (twinStays_of_kept (kept_countFlits (List.Subset.refl _) (Kept.refl _ _)) (by decide))
  · generalize hscaled : (if d.scaleType = 0 then s.countDropped (bayOfCu u) d p else _) = s1
    have hs1 : TwinStays s s1 := by
      rw [← hscaled]
      split
      · exact hdropped
      · exact hdropped.trans (TwinStays.foldl (fun x a => twinStays_writeDestChecked x _ _ _ _) _ _)
    split
    · split
      · exact hs1.trans (twinStays_writeDestChecked s1 _ _ _ _)
      · exact hs1.trans (twinStays_of_kept (kept_malformed (List.Subset.refl _) (Kept.refl _ s1)) (by decide))
    · exact hs1.trans (twinStays_writeDestChecked s1 _ _ _ _)

/-! ### A DRAIN acts (R89, R90, R95) -/

theorem modSte_cu (s : State) (u : Nat) (f : Ste → Ste) (v : Nat) :
    (s.modSte u f).cu v = if u = v then { s.cu u with ste := f (s.cu u).ste } else s.cu v := modCu_cu s u _ v

/-- The tensor engine with a generator and flits of its own: what writing a DRAIN's lines changes of it. -/
def Ste.drained (x : Ste) (l : BitVec 16) (o : List (Nat × Flit)) : Ste := { x with lfsr := l, outq := o }

/-- Writing a DRAIN's lines changes no CU but its own, and of that the generator and the flits on their way to a link. -/
structure Drains (u : Nat) (s t : State) : Prop where
  cu : ∃ l o, (t.cu u) = { s.cu u with ste := (s.cu u).ste.drained l o }
  cus : CusAlone [u] s t
  twin : TwinStays s t

theorem Drains.refl (u : Nat) (s : State) : Drains u s s := ⟨⟨(s.cu u).ste.lfsr, (s.cu u).ste.outq, rfl⟩, fun _ _ => rfl, .refl s⟩

theorem Drains.trans {u : Nat} {s t r : State} (h : Drains u s t) (h' : Drains u t r) : Drains u s r := by
  obtain ⟨⟨l, o, hcu⟩, hcus, htwin⟩ := h
  obtain ⟨⟨l', o', hcu'⟩, hcus', htwin'⟩ := h'
  exact ⟨⟨l', o', by rw [hcu', hcu]; rfl⟩, hcus.trans hcus', htwin.trans htwin'⟩

theorem drains_of_cu_eq {u : Nat} {s t : State} (h : ∀ v, t.cu v = s.cu v) (htwin : TwinStays s t) : Drains u s t :=
  ⟨⟨(s.cu u).ste.lfsr, (s.cu u).ste.outq, h u⟩, fun v _ => h v, htwin⟩

theorem drains_modSte (s : State) (u : Nat) (l : Ste → BitVec 16) (o : Ste → List (Nat × Flit)) : Drains u s (s.modSte u fun y => y.drained (l y) (o y)) :=
  ⟨⟨_, _, by rw [modSte_cu, if_pos rfl]⟩, modCu_cusAlone s u _, fun _ => rfl⟩

theorem drains_drainWrite (s : State) (u : Nat) (d : Desc) (c : PackCfg) (ls : List (List Num × FlagSet)) (l a : Nat) : Drains u s (s.drainWrite u d c ls l a) := by
  induction ls generalizing s l a with
  | nil => exact .refl u s
  | cons x rest ih =>
    obtain ⟨vs, f0⟩ := x
    let p := packLine d c (s.cu u).ste.lfsr vs
    let s1 := (s.modSte u fun y => y.drained p.lfsr y.outq).stick u false (f0 ||| p.flags)
    have h1 : Drains u s s1 := (drains_modSte s u (fun _ => p.lfsr) fun y => y.outq).trans
      (drains_of_cu_eq (stick_cu _ u false _) (twinStays_of_kept (kept_stick (List.Subset.refl _) (Kept.refl _ _)) (by decide)))
    have h2 : Drains u s1 (s1.writeLine u d l a p).1 :=
      drains_of_cu_eq ((kept_writeLine (List.Subset.refl _) (Kept.refl _ s1)).eq_cu (by decide)) (twinStays_writeLine s1 u d l a p)
    exact ((h1.trans h2).trans (drains_modSte _ u (fun y => y.lfsr) fun y => y.outq ++ _)).trans (ih _ _ _)

/-- A DRAIN waits behind an instruction that is at work (R90). -/
theorem steAdvance_of_head {s : State} {u : Nat} {j : SteJob} {rest : List SteJob} (hq : (s.cu u).ste.queue = j :: rest) (hd : j.drain = false) :
    s.steAdvance u = s := by
  simp only [State.steAdvance, hq, hd, Bool.not_false, Bool.true_or, if_true]

theorem steAdvance_of_none {s : State} {u : Nat} (hq : (s.cu u).ste.queue = []) : s.steAdvance u = s := by
  simp only [State.steAdvance, hq]

theorem drainAdvance_of_eq {s : State} {u : Nat} (h : s.steAdvance u = s) : s.drainAdvance u = s := by
  rw [State.drainAdvance, h, muHold_of_twin_eq (u / 4) rfl, ite_self]

section

variable {s : State} {u : Nat} {j : SteJob} {rest : List SteJob} (hq : (s.cu u).ste.queue = j :: rest) (hd : j.drain = true)
  (hrun : (s.cu u).ste.run = none) (hres : (s.cu u).ste.results = []) (hout : (s.cu u).ste.outq = []) (hcl : ((s.cu u).ste.tile j.op.tile).closings = [])

include hq hd hrun hres hout hcl

/-- A DRAIN of an open tile closes it (R89). -/
theorem steAdvance_of_open (ho : ((s.cu u).ste.tile j.op.tile).isOpen = true) : s.steAdvance u = s.modSte u fun y =>
    y.setTile j.op.tile (((s.cu u).ste.tile j.op.tile).close (((s.cu u).ste.tile j.op.tile).closeLast + 8) ((s.cu u).ste.tile j.op.tile).lastNo) := by
  simp only [State.steAdvance, hq, hd, hrun, hres, hout, hcl, ho, Bool.not_true, Option.isSome_none, List.isEmpty_nil, List.any_nil, Bool.or_self,
    Bool.false_eq_true, if_false, if_true]

/-- A DRAIN of a closed tile leaves the queue, and its lines are written (R95). -/
theorem steAdvance_of_closed (ho : ((s.cu u).ste.tile j.op.tile).isOpen = false) :
    ∃ c, s.steAdvance u = (s.modSte u fun y => { y with queue := rest }).drainWrite u j.d c (drainLines ((s.cu u).ste.tile j.op.tile) j.d) 0 j.d.base := by
  simp only [State.steAdvance, hq, hd, hrun, hres, hout, hcl, ho, Bool.not_true, Option.isSome_none, List.isEmpty_nil, List.any_nil, Bool.or_self,
    Bool.false_eq_true, if_false]
  exact ⟨_, rfl⟩

end

theorem tile_setTile (x : Ste) (k : Nat) (y : Tile) : (x.setTile k y).tile k = y := by
  unfold Ste.setTile Ste.tile
  split <;> rfl

theorem setTile_queue (x : Ste) (k : Nat) (y : Tile) : (x.setTile k y).queue = x.queue := by
  unfold Ste.setTile
  split <;> rfl

theorem close_of_none {x : Tile} (due no : Nat) (h : x.closings = []) :
    x.close due no = { x with closings := [⟨due, x.isInt, x.m, x.n, x.cells, no⟩] } := by
  rw [Tile.close, h]
  rfl

/-! ### The commands -/

/-- The command of a tensor slot. -/
def tensorInstr (t u : Nat) (drain clear : Bool) (op : TensorOp) : Instr := if drain then .drain t u op else if clear then .mm t u op else .mma t u op

section

variable {t u : Nat} {s : State} {op : TensorOp} (hfree : (s.bayTime (bayOfCu u) t).laneFree u = true)

include hfree

/-- DRAIN, whose slot may find its tile ready at once (R90). -/
theorem exec_drain : exec (.drain t u op) s = .next
    (if (s.bayTime (bayOfCu u) t).slotOn u op.pred && (s.cu u).steRoom then ((s.bayTime (bayOfCu u) t).slotAct u op.pred (.tensor true false op)).drainAdvance u
      else (s.bayTime (bayOfCu u) t).slotAct u op.pred (.tensor true false op)) := by
  have hexec : exec (.drain t u op) s = .next (if (s.bayTime (bayOfCu u) t).slotOn u op.pred && ((s.bayTime (bayOfCu u) t).cu u).steRoom
      then ((s.bayTime (bayOfCu u) t).slotAct u op.pred (.tensor true false op)).drainAdvance u
      else (s.bayTime (bayOfCu u) t).slotAct u op.pred (.tensor true false op)) :=
    exec_onLane (f := fun x => if x.slotOn u op.pred && (x.cu u).steRoom then (x.slotAct u op.pred (.tensor true false op)).drainAdvance u
      else x.slotAct u op.pred (.tensor true false op)) hfree rfl
  rwa [bayTime_cu] at hexec

/-- A tensor slot acts as any slot does where its DRAIN has to wait. -/
theorem exec_tensor {drain clear : Bool} (hclear : drain = true → clear = false)
    (hwait : drain = true → (s.bayTime (bayOfCu u) t).slotOn u op.pred = true → (s.cu u).ste.queue.length < 2 →
      ∃ h, (s.cu u).ste.queue = [h] ∧ h.drain = false) :
    exec (tensorInstr t u drain clear op) s = .next ((s.bayTime (bayOfCu u) t).slotAct u op.pred (.tensor drain clear op)) := by
  cases drain with
  | false =>
    cases clear with
    | false => exact exec_onLane (f := fun x => x.slotAct u op.pred (.tensor false false op)) hfree rfl
    | true => exact exec_onLane (f := fun x => x.slotAct u op.pred (.tensor false true op)) hfree rfl
  | true =>
    have hc := hclear rfl
    subst hc
    refine (exec_drain hfree).trans (congrArg _ ?_)
    split
    · next hacts =>
      obtain ⟨hon, hroom⟩ := (Bool.and_eq_true _ _).mp hacts
      obtain ⟨h, hq, hd⟩ := hwait rfl hon (of_decide_eq_true hroom)
      rw [slotAct_of_room hon (by rw [State.slotRoom, bayTime_cu, hroom])]
      refine drainAdvance_of_eq (steAdvance_of_head (j := h) (rest := [(s.bayTime (bayOfCu u) t).tensorJob u true false op]) ?_ hd)
      rw [State.issueSlot, issueTensor_eq, modCu_cu, if_pos rfl, bayTime_cu, Cu.queueTensor, hq]
      rfl
    · rfl

/-- Tensor slots: the job is queued, or the lane waits, or nothing happens. -/
theorem tensor_slot {drain clear : Bool} (hclear : drain = true → clear = false) :
    (op.pred = false ∨ (s.cu u).seq.pred = true → (s.cu u).ste.queue.length < 2 → (drain = true → ∃ h, (s.cu u).ste.queue = [h] ∧ h.drain = false) →
      Completes (exec (tensorInstr t u drain clear op) s) fun r => r.cu u = (s.cu u).queueTensor (s.tensorJob u drain clear op) ∧ LaneFrame u s r) ∧
    (op.pred = false ∨ (s.cu u).seq.pred = true → 2 ≤ (s.cu u).ste.queue.length → Completes (exec (tensorInstr t u drain clear op) s) fun r =>
      r.cu u = { s.cu u with seq := { (s.cu u).seq with stall := .slot (.tensor drain clear op) } } ∧ LaneFrame u s r) ∧
    (op.pred = true → (s.cu u).seq.pred = false →
      Completes (exec (tensorInstr t u drain clear op) s) fun r => r.cu u = s.cu u ∧ LaneFrame u s r) := by
  refine ⟨fun hon hlen hwait => ?_, fun hon hlen => ?_, fun hp hpred => ?_⟩
  · have hexec := exec_slot (exec_tensor hfree hclear fun hd _ _ => hwait hd) hon (by rw [State.slotRoom, bayTime_cu]; exact decide_eq_true hlen)
    rw [State.issueSlot, issueTensor_eq, bayTime_tensorJob] at hexec
    exact updates_cu hexec
  · exact slot_stalls (exec_tensor hfree hclear fun _ _ h => absurd h (by omega)) hon
      (by rw [State.slotRoom, bayTime_cu]; exact decide_eq_false (by omega))
  · refine slot_off (exec_tensor hfree hclear fun _ hon => ?_) hp hpred
    rw [slotOn_off hp (by rwa [bayTime_cu])] at hon
    cases hon

end

/-- The machine with a DRAIN queued, at its bay's time. -/
def State.queuesDrain (s : State) (t u : Nat) (op : TensorOp) : State :=
  (s.bayTime (bayOfCu u) t).modCu u fun cu => cu.queueTensor (s.tensorJob u true false op)

section

variable {t u : Nat} {s : State} {op : TensorOp}

theorem queuesDrain_cu : (s.queuesDrain t u op).cu u = (s.cu u).queueTensor (s.tensorJob u true false op) := by
  rw [State.queuesDrain, modCu_cu, if_pos rfl, bayTime_cu]

theorem queuesDrain_frame : LaneFrame u s (s.queuesDrain t u op) := (laneFrame_bayTime s u t).trans (laneFrame_modCu _ u _)

theorem queuesDrain_twin : (s.queuesDrain t u op).twin = s.twin := by rw [State.queuesDrain, modCu_twin, bayTime_twin]

variable (hfree : (s.bayTime (bayOfCu u) t).laneFree u = true) (hp : op.pred = false) (hq : (s.cu u).ste.queue = []) (hrun : (s.cu u).ste.run = none)
  (hres : (s.cu u).ste.results = []) (hout : (s.cu u).ste.outq = []) (hcl : ((s.cu u).ste.tile op.tile).closings = [])
  (hport : (s.bayTime (bayOfCu u) t).portHeld (u / 4) (u % 4) 5 = false)

include hq in
theorem queuesDrain_ste : ((s.queuesDrain t u op).cu u).ste = { (s.cu u).ste with queue := [s.tensorJob u true false op] } := by
  rw [queuesDrain_cu, Cu.queueTensor, hq]
  rfl

include hq in
theorem queuesDrain_tile (k : Nat) : ((s.queuesDrain t u op).cu u).ste.tile k = (s.cu u).ste.tile k := by
  rw [queuesDrain_ste hq]
  rfl

include hfree hp hq hport in
/-- A DRAIN that finds the engine idle acts with its command (R90). -/
theorem exec_drain_at_once : exec (.drain t u op) s = .next ((s.queuesDrain t u op).muHold (u / 4) ((s.queuesDrain t u op).steAdvance u)) := by
  have hon : (s.bayTime (bayOfCu u) t).slotOn u op.pred = true := slotOn_of (.inl hp)
  have hroom : (s.cu u).steRoom = true := decide_eq_true (by rw [hq]; decide)
  have hheld : (s.queuesDrain t u op).portHeld (u / 4) (u % 4) 5 = false := hport
  rw [exec_drain hfree, hon, hroom, slotAct_of_room hon (by rw [State.slotRoom, bayTime_cu, hroom]), State.issueSlot, issueTensor_eq, bayTime_tensorJob,
    Bool.and_self, if_pos rfl, ← State.queuesDrain, State.drainAdvance, hheld, if_neg Bool.false_ne_true]

include hfree hp hq hrun hres hout hcl hport

theorem drain_closes (ho : ((s.cu u).ste.tile op.tile).isOpen = true) :
    Completes (exec (.drain t u op) s) fun r => (r.cu u).ste.queue.length = 1 ∧
      (r.cu u).ste.tile op.tile = { (s.cu u).ste.tile op.tile with closings := [⟨((s.cu u).ste.tile op.tile).closeLast + 8,
        ((s.cu u).ste.tile op.tile).isInt, ((s.cu u).ste.tile op.tile).m, ((s.cu u).ste.tile op.tile).n, ((s.cu u).ste.tile op.tile).cells,
        ((s.cu u).ste.tile op.tile).lastNo⟩] } ∧ LaneFrame u s r := by
  have hadv := steAdvance_of_open (s := s.queuesDrain t u op) (u := u) (j := s.tensorJob u true false op) (rest := []) (by rw [queuesDrain_ste hq]) rfl
    (by rw [queuesDrain_ste hq, ← hrun]) (by rw [queuesDrain_ste hq, ← hres]) (by rw [queuesDrain_ste hq, ← hout])
    (by rw [queuesDrain_tile hq]; exact hcl) (by rw [queuesDrain_tile hq]; exact ho)
  refine ⟨_, (exec_drain_at_once hfree hp hq hport).trans (congrArg _ (muHold_of_twin_eq _ (by rw [hadv]; rfl))), ?_⟩
  dsimp only
  rw [hadv, modSte_cu, if_pos rfl]
  refine ⟨?_, ?_, queuesDrain_frame.trans (laneFrame_modCu _ u _)⟩
  · rw [setTile_queue, queuesDrain_ste hq]
    rfl
  · exact (tile_setTile _ op.tile _).trans (by rw [queuesDrain_tile hq]; exact close_of_none _ _ hcl)

theorem drain_writes (hf : s.twin.frozen = []) (ho : ((s.cu u).ste.tile op.tile).isOpen = false) :
    Completes (exec (.drain t u op) s) fun r => (r.cu u).ste.queue = [] ∧
      (r.cu u).ste.tile0 = (s.cu u).ste.tile0 ∧ (r.cu u).ste.tile1 = (s.cu u).ste.tile1 ∧ (r.cu u).seq = (s.cu u).seq ∧ CusAlone [u] s r := by
  obtain ⟨c, hadv⟩ := steAdvance_of_closed (s := s.queuesDrain t u op) (u := u) (j := s.tensorJob u true false op) (rest := [])
    (by rw [queuesDrain_ste hq]) rfl (by rw [queuesDrain_ste hq, ← hrun]) (by rw [queuesDrain_ste hq, ← hres]) (by rw [queuesDrain_ste hq, ← hout])
    (by rw [queuesDrain_tile hq]; exact hcl) (by rw [queuesDrain_tile hq]; exact ho)
  have hdrains := drains_drainWrite ((s.queuesDrain t u op).modSte u fun y => { y with queue := [] }) u (s.tensorJob u true false op).d c
    (drainLines (((s.queuesDrain t u op).cu u).ste.tile (s.tensorJob u true false op).op.tile) (s.tensorJob u true false op).d) 0 (s.tensorJob u true false op).d.base
  rw [← hadv] at hdrains
  obtain ⟨⟨l, o, hcu⟩, hcus, htwin⟩ := hdrains
  have hfrozen : (s.queuesDrain t u op).twin.frozen = [] := by rw [queuesDrain_twin, hf]
  have hend : ((s.queuesDrain t u op).steAdvance u).cu u =
      { s.cu u with issues := (s.cu u).issues + 1, ste := { (s.cu u).ste with queue := [], lfsr := l, outq := o } } := by
    rw [hcu, modSte_cu, if_pos rfl, queuesDrain_cu]
    rfl
  refine ⟨_, (exec_drain_at_once hfree hp hq hport).trans (congrArg _ (muHold_of_twin_eq _ (htwin hfrozen))), ?_⟩
  dsimp only
  rw [hend]
  exact ⟨rfl, rfl, rfl, rfl, (queuesDrain_frame.1.trans (modCu_cusAlone _ u _)).trans hcus⟩

end

section

variable {t u : Nat} {s : State} (hfree : (s.bayTime (bayOfCu u) t).laneFree u = true)

include hfree

theorem exec_vectorPass (op : VecOp) : exec (.vectorPass t u op) s = .next ((s.bayTime (bayOfCu u) t).slotAct u op.pred (.vector op)) :=
  exec_onLane (f := fun x => x.slotAct u op.pred (.vector op)) hfree rfl

theorem exec_dma (d ss sd : Nat) (p : Bool) : exec (.dma t u d ss sd p) s = .next ((s.bayTime (bayOfCu u) t).slotAct u p (.dma d ss sd)) :=
  exec_onLane (f := fun x => x.slotAct u p (.dma d ss sd)) hfree rfl

end

/-- Settles O36: every slot's command acts, stalls or does nothing (`exec_slot`, `slot_stalls`, `slot_off`); a DRAIN of an idle engine acts at once. -/
theorem enginesTakeWork : Obligations.EnginesTakeWork := by
  rintro t u s m q rfl hfree rfl
  refine ⟨fun op drain clear c j hc hclear hjd hjo hjc hja hjb hjdd hsa hsb hla hlb hno => ?_, fun op hp hq hrun hres hout hcl hport hf => ⟨fun ho => ?_, fun ho => ?_⟩,
    fun op j hj => ⟨fun hon hlen => ?_, fun hon hlen => ?_, fun hp hpred => ?_⟩, fun d ss sd hpred => ?_, fun d ss sd p w hon hw => ⟨fun hlen => ?_, fun hlen => ?_⟩⟩
  · have hjob : j = s.tensorJob u drain clear op := by
      cases j
      simp only [State.tensorJob, SteJob.mk.injEq]
      exact ⟨hjd, hjo, hjc, hja, hjb, hjdd, hsa, hsb, hla, hlb, hno⟩
    subst hc hjob
    exact tensor_slot hfree hclear
  · exact drain_closes hfree hp hq hrun hres hout hcl hport ho
  · exact drain_writes hfree hp hq hrun hres hout hcl hport hf ho
  · have hexec := exec_slot (exec_vectorPass hfree op) hon (by rw [State.slotRoom, bayTime_cu]; exact decide_eq_true hlen)
    rw [State.issueSlot, issueVector_eq, bayTime_vectorJob] at hexec
    rw [hj]
    exact updates_cu hexec
  · exact slot_stalls (exec_vectorPass hfree op) hon (by rw [State.slotRoom, bayTime_cu]; exact decide_eq_false (by omega))
  · exact slot_off (exec_vectorPass hfree op) hp hpred
  · exact slot_off (exec_dma hfree d ss sd true) rfl hpred
  · have hexec := exec_slot (exec_dma hfree d ss sd p) hon (by rw [State.slotRoom, bayTime_cu]; exact decide_eq_true hlen)
    rw [State.issueSlot, issueDma_eq, bayTime_dmaDesc, bayTime_sregN, bayTime_sregN, ← hw] at hexec
    obtain ⟨r, hr, hcu, hframe⟩ := updates_cu hexec
    exact ⟨r, hr, _, hcu, rfl, rfl, rfl, rfl, rfl, rfl, hframe⟩
  · exact slot_stalls (exec_dma hfree d ss sd p) hon (by rw [State.slotRoom, bayTime_cu]; exact decide_eq_false (by omega))

end Sys2Proof.Machine

/-! PROOF. Family 03_compute_unit: SEND, SIG, WAIT, WAITGE and the link slot (O37). -/

namespace Sys2Proof.Machine

theorem slotIf_of_on {s : State} {u : Nat} {p : Bool} (f : State → State) (h : s.slotOn u p = true) : s.slotIf u p f = f s := if_pos h

@[simp] theorem bayTime_slotRoom_spin (s : State) (b t u l d x : Nat) :
    (s.bayTime b t).slotRoom u (.spin l d x) = decide ((Assoc.get [] (s.cu u).fab.spins l).length < 2) := by
  rw [State.slotRoom, Cu.spinRoom, bayTime_cu]

@[simp] theorem bayTime_slotRoom_agstart (s : State) (b t u g d x : Nat) :
    (s.bayTime b t).slotRoom u (.agstart g d x) = decide ((Assoc.get Gen.reset (s.mu (u / 4)).gens g).queue.length < 2) := by
  rw [State.slotRoom, State.agRoom, Mu.gen, bayTime_mu]

/-! ### SEND (R257, R258) -/

theorem bayTime_chan1 (s : State) (b t u ch : Nat) : (s.bayTime b t).regN (.chan u ch 1) = s.regN (.chan u ch 1) :=
  bayTime_regN s t (by simp [bayClockRegs])

theorem issueSend_of_room {s : State} {u ch : Nat} (x n : Nat) (h : ((s.cu u).chan ch).queue.length < 4) :
    s.issueSend u ch x n = s.modCu u fun cu => cu.setChan ch { (s.cu u).chan ch with
      queue := ((s.cu u).chan ch).queue ++ [⟨n + 1, 16 * (s.regN (.chan u ch 1) % 2 ^ 10) + 16 * s.sregN u x, (((s.cu u).chan ch).count + 1) % 65536⟩]
      count := ((s.cu u).chan ch).count + 1 } := by
  simp only [State.issueSend, if_neg (Nat.not_le_of_lt h), field_eq, Nat.pow_zero, Nat.div_one, Nat.reduceAdd, Nat.reduceSub]

theorem issueSend_of_full {s : State} {u ch : Nat} (x n : Nat) (h : ((s.cu u).chan ch).queue.length = 4)
    (hbit : (s.regN (.chan u ch 1)).testBit 25 = false) : s.issueSend u ch x n = s.count (.cu u .msgBusy) 1 := by
  simp only [State.issueSend, h, Nat.le_refl, if_true, bitOf, hbit, Bool.false_eq_true, if_false]

/-! ### Counters (R105, R106) -/

section

variable {y : Sync} {ctx k t old : Nat} {sum : Int}

theorem made_of_no_change (h : (old, sum) = y.made ctx k t) (hno : ∀ c ∈ y.recent, c.counter = k → c.from_ ≠ t + 3) :
    old = Assoc.get 0 y.banks (syncKey ctx k) ∧ sum = 0 := by
  have hnone : y.recent.find? (fun c => c.counter == k && c.from_ == t + 3) = none := List.find?_eq_none.2 fun c hc => by
    simpa using hno c hc
  rw [Sync.made, hnone] at h
  exact Prod.mk.inj h

/-- The sum of a cycle's changes exceeds what a counter holds (R106). -/
theorem exceeds_change {n : Int} (h : (old, sum) = y.made ctx k t) (hgt : 0xFFFF < old + (sum + n)) : (y.change ctx k t n).exceeds k t = true := by
  have hmade := change_made n h
  unfold Sync.made at hmade
  unfold Sync.exceeds
  split
  · rename_i c hc
    rw [hc] at hmade
    obtain ⟨hold, hsum⟩ := Prod.mk.inj hmade
    exact decide_eq_true (by omega)
  · rename_i hnone
    rw [hnone] at hmade
    obtain ⟨hold, hsum⟩ := Prod.mk.inj hmade
    rw [change_banks n h, Assoc.get_set, if_pos rfl] at hold
    omega

/-- What is seen of a counter after its one change on the way (R106). -/
theorem visible_change (n : Int) (h : (old, sum) = y.made ctx k t) (hrec : y.recent = []) (d : Nat) :
    (y.change ctx k t n).visible ctx k d = if d < t + 3 then old else min 0xFFFF (old + (sum + n)).toNat := by
  split
  · rename_i hd
    exact change_visible n h hrec hd
  · rename_i hd
    simp [Sync.change, ← h, hrec, Sync.visible, hd]

theorem visible_of_recent_nil (hrec : y.recent = []) (d : Nat) : y.visible ctx k d = Assoc.get 0 y.banks (syncKey ctx k) := by
  rw [Sync.visible, hrec]
  rfl

theorem made_of_recent_nil (hrec : y.recent = []) : y.made ctx k t = (Assoc.get 0 y.banks (syncKey ctx k), 0) := by
  rw [Sync.made, hrec]
  rfl

theorem exceeds_of_recent_nil (hrec : y.recent = []) : y.exceeds k t = false := by
  rw [Sync.exceeds, hrec]
  rfl

theorem take_recent_nil (n : Nat) (hrec : y.recent = []) : (y.take ctx k t n).recent = [] := by
  simp [Sync.take, hrec]

theorem take_banks (n : Nat) (hrec : y.recent = []) :
    (y.take ctx k t n).banks = y.banks.set (syncKey ctx k) (min 0xFFFF (Assoc.get 0 y.banks (syncKey ctx k) - n)) := by
  have hsub (v : Nat) : ((v : Int) + (0 - n)).toNat = v - n := by omega
  simp only [Sync.take, made_of_recent_nil hrec, hsub]

end

theorem waitOk_eq {s : State} {u : Nat} (k n : Nat) (hrec : (s.cu u).sync.recent = []) :
    s.waitOk u k n = decide (n ≤ Assoc.get 0 (s.cu u).sync.banks (syncKey s.bank k)) := by
  rw [State.waitOk, visible_of_recent_nil hrec]

/-- With no change on its way, a satisfied WAIT takes its `n` and raises nothing. -/
theorem subSync_eq {s : State} {u : Nat} (k n : Nat) (hrec : (s.cu u).sync.recent = []) :
    s.subSync u k n = s.modCu u fun cu => { cu with sync := cu.sync.take s.bank k (s.bay (bayOfCu u)).cycle n } := by
  simp only [State.subSync, State.overflowAfter, modCu_cu, if_true, exceeds_of_recent_nil hrec, exceeds_of_recent_nil (take_recent_nil n hrec),
    Bool.not_false, Bool.and_true, Bool.false_eq_true, if_false]

/-- What a satisfied WAIT or WAITGE leaves of its counter. -/
theorem takes_wait {s : State} {u : Nat} (k n : Nat) (ge : Bool) (hrec : (s.cu u).sync.recent = []) :
    Assoc.get 0 ((s.waitTake u k n ge).cu u).sync.banks (syncKey s.bank k) =
        (if ge then Assoc.get 0 (s.cu u).sync.banks (syncKey s.bank k) else min 0xFFFF (Assoc.get 0 (s.cu u).sync.banks (syncKey s.bank k) - n)) ∧
      ((s.waitTake u k n ge).cu u).seq = (s.cu u).seq ∧ LaneFrame u s (s.waitTake u k n ge) := by
  cases ge
  · simp only [State.waitTake, Bool.false_eq_true, if_false, subSync_eq k n hrec, modCu_cu, if_true, take_banks n hrec, Assoc.get_set, true_and]
    exact laneFrame_modCu s u _
  · exact ⟨rfl, rfl, ⟨fun _ _ => rfl, fun _ _ => rfl, fun _ _ => rfl, (Kept.refl _ s).touches⟩⟩

theorem unsettled_of_laneRuns {s : State} {u : Nat} (hr : s.laneRuns u = true) (hd : s.stitch.decision = none) :
    s.stitch.session = true ∧ s.settled (bayOfCu u) = none := by
  simp only [State.laneRuns, Bool.and_eq_true] at hr
  obtain ⟨⟨⟨⟨⟨⟨⟨hsession, -⟩, hin⟩, -⟩, -⟩, -⟩, -⟩, -⟩ := hr
  refine ⟨hsession, ?_⟩
  rw [State.settled, hin, hd]
  split <;> simp_all

/-- While a stitch is not yet decided, what it forwards waits and raises nothing (R284). -/
theorem forwardOut_evt {s : State} {u : Nat} (k n : Nat) (h : s.stitch.session = true ∧ s.settled (bayOfCu u) = none) :
    (s.forwardOut u k n).evt = s.evt := by
  unfold State.forwardOut
  split
  · rfl
  · rw [State.addOut, h.1, h.2]
    rfl

/-- The change that takes a cycle's sum beyond what a counter holds raises sync-counter-overflow (R106). -/
theorem addSync_raised {s : State} {u k n old : Nat} {sum : Int} (hk : k < 32) (hr : s.laneRuns u = true) (hd : s.stitch.decision = none)
    (h : (old, sum) = (s.cu u).sync.made s.bank k (s.bay (bayOfCu u)).cycle) (hgt : 0xFFFF < old + (sum + n)) (hle : old + sum ≤ 0xFFFF) :
    Raised s (s.addSync u k n) (bayOfCu u) 0x16 (locCu u % 2 ^ 32) k 0 0 := by
  have hkept : Kept [.cus, .evt] s (s.changeSync u k n) := kept_changeSync (by decide) (Kept.refl _ s)
  have hun : (s.changeSync u k n).stitch.session = true ∧ (s.changeSync u k n).settled (bayOfCu u) = none := by
    simpa only [State.settled, hkept.eq_stitch (by decide), hkept.eq_bay (by decide)] using unsettled_of_laneRuns hr hd
  have hchange : s.changeSync u k n = (s.modCu u fun cu => { cu with sync := cu.sync.change s.bank k (s.bay (bayOfCu u)).cycle n }).report
      ((s.modCu u fun cu => { cu with sync := cu.sync.change s.bank k (s.bay (bayOfCu u)).cycle n }).overflowReport u k) := by
    simp only [State.changeSync, State.overflowAfter, modCu_cu, if_true, not_exceeds_of_made h hle, exceeds_change h hgt, Bool.not_false, Bool.and_true]
  obtain ⟨ts, hts⟩ : Raised s (s.changeSync u k n) (bayOfCu u) 0x16 (locCu u % 2 ^ 32) k 0 0 := by
    rw [hchange, State.overflowReport, Nat.mod_eq_of_lt (show k < 2 ^ 32 by omega)]
    exact ⟨_, rfl⟩
  exact ⟨ts, by rw [State.addSync, forwardOut_evt k n hun, hts]⟩

/-! ### The link slot (R167, R212, R213) -/

theorem modMu_musAlone (s : State) (c : Nat) (f : Mu → Mu) : MusAlone [c] s (s.modMu c f) := fun d hd => by
  rw [modMu_mu, if_neg fun e => hd (by simp [e])]

/-- A command that comes down to an update of its MU, beside the bay's clock. -/
theorem updates_mu {t u : Nat} {s : State} {c : Instr} {g : Mu → Mu} (hc : exec c s = .next ((s.bayTime (bayOfCu u) t).modMu (u / 4) g)) :
    Completes (exec c s) fun r => r.mu (u / 4) = g (s.mu (u / 4)) ∧ r.cus = s.cus ∧ MusAlone [u / 4] s r ∧ Touches [.regs, .bays, .mus] s r := by
  refine ⟨_, hc, by rw [modMu_mu, if_pos rfl, bayTime_mu], by rw [modMu_cus, bayTime_cus], fun d hd => ?_,
    (kept_modMu (by decide) ((kept_atBayTime s _ t).mono (by decide))).touches⟩
  rw [modMu_musAlone _ _ _ d hd, bayTime_mu]

theorem enter_queue_of_new {y : Gen} {w : AgStart} (h : ∀ b ∈ y.queue, b.at_ ≠ w.at_) : (y.enter w).queue = y.queue ++ [w] := by
  have hbefore : ∀ b ∈ y.queue, ∀ P : Prop, b.at_ ≠ w.at_ ∨ P := fun b hb _ => .inl (h b hb)
  rw [Gen.enter]
  dsimp only
  rw [List.takeWhile_eq_self_iff.2 fun b hb => decide_eq_true (hbefore b hb _), List.dropWhile_eq_nil_iff.2 fun b hb => decide_eq_true (hbefore b hb _)]

/-- Two starts of one cycle stand in the order of their CUs' turns (R27, R167). -/
theorem enter_queue_of_same {y : Gen} {b w : AgStart} (hq : y.queue = [b]) (hb : b.at_ = w.at_) (hy : y.at_ = some w.at_) :
    (y.enter w).queue = if (b.cu + 4 - y.base % 4) % 4 ≤ (w.cu + 4 - y.base % 4) % 4 then [b, w] else [w, b] := by
  simp only [Gen.enter, hq, hy, hb, decide_true, if_true, ne_eq, not_true_eq_false, false_or, List.takeWhile_cons, List.dropWhile_cons,
    List.takeWhile_nil, List.dropWhile_nil, decide_eq_true_eq]
  split <;> rfl

/-! ### Each slot as a command -/

section

variable {t u : Nat} {s : State}

theorem send_slot (hfree : (s.bayTime (bayOfCu u) t).laneFree u = true) (ch x n : Nat) :
    exec (.send t u ch x n false) s = .next ((s.bayTime (bayOfCu u) t).issueSend u ch x n) :=
  (exec_onLane hfree rfl).trans (congrArg _ (slotIf_of_on _ (slotOn_of (.inl rfl))))

theorem sig_slot (hfree : (s.bayTime (bayOfCu u) t).laneFree u = true) (k n : Nat) :
    exec (.sig t u k n false) s = .next ((s.bayTime (bayOfCu u) t).addSync u k n) :=
  (exec_onLane hfree rfl).trans (congrArg _ (slotIf_of_on _ (slotOn_of (.inl rfl))))

/-- WAIT (`ge` false) and WAITGE (`ge` true). -/
def waitInstr (t u k n : Nat) (ge : Bool) : Instr := if ge then .waitge t u k n false else .wait t u k n false

theorem wait_slot (hfree : (s.bayTime (bayOfCu u) t).laneFree u = true) (k n : Nat) (ge : Bool) :
    exec (waitInstr t u k n ge) s = .next ((s.bayTime (bayOfCu u) t).waitSlot u k n ge) := by
  cases ge
  all_goals exact (exec_onLane hfree rfl).trans (congrArg _ (slotIf_of_on _ (slotOn_of (.inl rfl))))

end

section

variable {t u z : Nat} {s : State}

/-- SIG adds, in the cycle its bay is in (R106). -/
theorem sig_adds (hr : (s.bayTime (bayOfCu u) t).laneRuns u = true) (hstall : (s.cu u).seq.stall = .none)
    (hz : z = ((s.bayTime (bayOfCu u) t).bay (bayOfCu u)).cycle) {k n old : Nat} {sum : Int} (hk : k < 32)
    (hmade : (old, sum) = (s.cu u).sync.made s.bank k z) : Completes (exec (.sig t u k n false) s) fun r =>
      ((∀ c ∈ (s.cu u).sync.recent, c.counter = k → c.from_ ≠ z + 3) → old = Assoc.get 0 (s.cu u).sync.banks (syncKey s.bank k) ∧ sum = 0) ∧
      Assoc.get 0 (r.cu u).sync.banks (syncKey s.bank k) = min 0xFFFF (old + (sum + n)).toNat ∧
      (∀ y, y ≠ syncKey s.bank k → Assoc.get 0 (r.cu u).sync.banks y = Assoc.get 0 (s.cu u).sync.banks y) ∧ (r.cu u).seq = (s.cu u).seq ∧
      ((s.cu u).sync.recent = [] → ∀ d, (r.cu u).sync.visible s.bank k d = if d < z + 3 then old else min 0xFFFF (old + (sum + n)).toNat) ∧
      (s.stitch.decision = none → 0xFFFF < old + (sum + n) → old + sum ≤ 0xFFFF → Raised s r (bayOfCu u) 0x16 (locCu u % 2 ^ 32) k 0 0) ∧
      CusAlone [u] s r ∧ Touches [.regs, .bays, .cus, .hsync, .evt] s r := by
  have hcu (v : Nat) : ((s.bayTime (bayOfCu u) t).addSync u k n).cu v =
      if u = v then { s.cu u with sync := (s.cu u).sync.change s.bank k z n } else s.cu v := by
    rw [addSync_cu, bayTime_cu, bayTime_cu, bayTime_bank, ← hz]
  have hmade' : (old, sum) = (((s.bayTime (bayOfCu u) t).cu u).sync.made (s.bayTime (bayOfCu u) t).bank k ((s.bayTime (bayOfCu u) t).bay (bayOfCu u)).cycle) := by
    rwa [bayTime_cu, bayTime_bank, ← hz]
  refine ⟨_, sig_slot (laneFree_iff.2 ⟨hr, by rwa [bayTime_cu]⟩) k n, made_of_no_change hmade, ?_, fun y hy => ?_, ?_, fun hrec d => ?_,
    fun hd hgt hle => ?_, fun v hv => ?_, (kept_addSync (by decide) ((kept_atBayTime s _ t).mono (by decide))).touches⟩
  · rw [hcu, if_pos rfl, change_banks _ hmade, Assoc.get_set, if_pos rfl]
  · rw [hcu, if_pos rfl, change_banks _ hmade, Assoc.get_set, if_neg (Ne.symm hy)]
  · rw [hcu, if_pos rfl]
  · rw [hcu, if_pos rfl]
    exact visible_change _ hmade hrec d
  · exact (addSync_raised hk hr (by rwa [bayTime_stitch]) hmade' hgt hle).of_evt_eq (bayTime_evt s _ t)
  · rw [hcu, if_neg fun e => hv (by simp [e])]

/-- A WAIT or WAITGE whose counter holds `n` takes effect (R105). -/
theorem wait_passes (hfree : (s.bayTime (bayOfCu u) t).laneFree u = true) {k n : Nat} (ge : Bool) (hrec : (s.cu u).sync.recent = [])
    (hle : n ≤ Assoc.get 0 (s.cu u).sync.banks (syncKey s.bank k)) :
    exec (waitInstr t u k n ge) s = .next ((s.bayTime (bayOfCu u) t).waitTake u k n ge) := by
  rw [wait_slot hfree, State.waitSlot, waitOk_eq k n (by rwa [bayTime_cu]), bayTime_cu, bayTime_bank, decide_eq_true hle, if_pos rfl]

/-- A WAIT or WAITGE whose counter is short stalls its lane (R105). -/
theorem wait_stalls (hfree : (s.bayTime (bayOfCu u) t).laneFree u = true) {k n : Nat} (ge : Bool) (hrec : (s.cu u).sync.recent = [])
    (hlt : Assoc.get 0 (s.cu u).sync.banks (syncKey s.bank k) < n) : Completes (exec (waitInstr t u k n ge) s) fun r =>
      r.cu u = { s.cu u with seq := { (s.cu u).seq with stall := .wait k n ge false } } ∧ LaneFrame u s r := by
  have hc := wait_slot hfree k n ge
  rw [State.waitSlot, waitOk_eq k n (by rwa [bayTime_cu]), bayTime_cu, bayTime_bank, decide_eq_false (by omega), if_neg Bool.false_ne_true] at hc
  exact updates_seq hc

/-- A stalled WAIT or WAITGE finds its counter at `n` (R105, R106). -/
theorem waitSatisfied_passes (hr : (s.bayTime (bayOfCu u) t).laneRuns u = true) {k n : Nat} {ge : Bool}
    (hstall : (s.cu u).seq.stall = .wait k n ge false) (hrec : (s.cu u).sync.recent = [])
    (hle : n ≤ Assoc.get 0 (s.cu u).sync.banks (syncKey s.bank k)) :
    exec (.waitSatisfied t u) s = .next (((s.bayTime (bayOfCu u) t).modSeq u fun q => { q with stall := .none }).waitTake u k n ge) := by
  refine congrArg Host.Outcome.next ?_
  rw [State.waitSatisfied, bayTime_cu, hstall]
  simp only [hr, waitOk_eq (s := s.bayTime (bayOfCu u) t) k n (by rwa [bayTime_cu]), bayTime_cu, bayTime_bank, hle, decide_true, Bool.and_self,
    if_true, Bool.false_eq_true, if_false]

theorem waitSatisfied_waits {k n : Nat} {ge : Bool} (hstall : (s.cu u).seq.stall = .wait k n ge false) (hrec : (s.cu u).sync.recent = [])
    (hlt : Assoc.get 0 (s.cu u).sync.banks (syncKey s.bank k) < n) : exec (.waitSatisfied t u) s = .next (s.bayTime (bayOfCu u) t) := by
  refine congrArg Host.Outcome.next ?_
  rw [State.waitSatisfied, bayTime_cu, hstall]
  simp only [waitOk_eq (s := s.bayTime (bayOfCu u) t) k n (by rwa [bayTime_cu]), bayTime_cu, bayTime_bank, Nat.not_le_of_lt hlt, decide_false,
    Bool.and_false, Bool.false_eq_true, if_false]

theorem waitSatisfied_spec (hr : (s.bayTime (bayOfCu u) t).laneRuns u = true) {k n v : Nat} {ge : Bool}
    (hstall : (s.cu u).seq.stall = .wait k n ge false) (hrec : (s.cu u).sync.recent = [])
    (hv : v = Assoc.get 0 (s.cu u).sync.banks (syncKey s.bank k)) :
    (n ≤ v → Completes (exec (.waitSatisfied t u) s) fun r => (r.cu u).seq = { (s.cu u).seq with stall := .none } ∧
      Assoc.get 0 (r.cu u).sync.banks (syncKey s.bank k) = (if ge then v else min 0xFFFF (v - n)) ∧ LaneFrame u s r) ∧
    (v < n → Completes (exec (.waitSatisfied t u) s) fun r => r.cu u = s.cu u ∧ LaneFrame u s r) := by
  subst hv
  refine ⟨fun hle => ?_, fun hlt => leaves_cu (waitSatisfied_waits hstall hrec hlt)⟩
  generalize hm : (s.bayTime (bayOfCu u) t).modSeq u (fun q => { q with stall := .none }) = m1
  have hcu : m1.cu u = { s.cu u with seq := { (s.cu u).seq with stall := .none } } := by
    rw [← hm, State.modSeq, modCu_cu, if_pos rfl, bayTime_cu]
  have hbank : m1.bank = s.bank := by rw [← hm]; exact bayTime_bank s _ t
  have hframe : LaneFrame u s m1 := hm ▸ (laneFrame_bayTime s u t).trans (laneFrame_modCu _ u _)
  obtain ⟨hbanks, hseq, hframe'⟩ := takes_wait (s := m1) (u := u) k n ge (by rw [hcu]; exact hrec)
  rw [hbank, hcu] at hbanks
  rw [hcu] at hseq
  exact ⟨_, hm ▸ waitSatisfied_passes hr hstall hrec hle, hseq, hbanks, hframe.trans hframe'⟩

end

/-- A start that finds room enters its generator's queue (R167). -/
theorem agstart_enters {t u g d x z : Nat} {s : State} {y : Gen} {w : AgStart} (hfree : (s.bayTime (bayOfCu u) t).laneFree u = true)
    (hz : z = ((s.bayTime (bayOfCu u) t).bay (bayOfCu u)).cycle) (hy : y = Assoc.get Gen.reset (s.mu (u / 4)).gens g)
    (hw : w = ⟨u % 4, d, s.sregN u x, z⟩) (hlen : y.queue.length < 2) : Completes (exec (.agstart t u g d x) s) fun r => 
      (r.mu (u / 4)).gens = Assoc.set (s.mu (u / 4)).gens g (y.enter w) ∧ r.cus = s.cus ∧ MusAlone [u / 4] s r ∧ Touches [.regs, .bays, .mus] s r := by
  have hexec : exec (.agstart t u g d x) s = _ := exec_onLane (f := fun m => m.slotAct u false (.agstart g d x)) hfree rfl
  replace hexec := exec_slot hexec (.inl rfl) (by rw [bayTime_slotRoom_agstart, ← hy]; exact decide_eq_true hlen)
  rw [State.issueSlot, State.issueAgstart, bayTime_sregN, ← hz, ← hw] at hexec
  obtain ⟨r, hr, hmu, hframe⟩ := updates_mu hexec
  exact ⟨r, hr, by rw [hmu, hy]; rfl, hframe⟩

/-- Settles O37: the counters by `sig_adds` and `takes_wait`, a generator's queue by `Gen.enter`'s two cases. -/
theorem moveAndLinkSlots : Obligations.MoveAndLinkSlots := by
  rintro t u s m q z rfl hr rfl hz
  refine ⟨fun k n ge v hstall hrec hv => waitSatisfied_spec hr hstall hrec hv, fun hstall => ?_⟩
  have hfree : (s.bayTime (bayOfCu u) t).laneFree u = true := laneFree_iff.2 ⟨hr, by rwa [bayTime_cu]⟩
  refine ⟨?_, ?_, fun k n old sum hk hmade => sig_adds hr hstall hz hk hmade, ?_, fun e => ?_, ?_, ?_, fun x => ?_, ?_⟩
  · rintro ch x n c d rfl hroom rfl
    have hexec := send_slot hfree ch x n
    rw [issueSend_of_room x n (by rwa [bayTime_cu]), bayTime_chan1, bayTime_sregN, bayTime_cu] at hexec
    exact updates_cu hexec
  · intro ch x n hfull hbit
    have hexec := send_slot hfree ch x n
    rw [issueSend_of_full x n (by rwa [bayTime_cu]) (by rwa [bayTime_chan1])] at hexec
    refine ⟨_, hexec, bayTime_cu s _ t u, ?_, fun id hid => ?_, (kept_count (by decide) ((kept_atBayTime s _ t).mono (by decide))).touches⟩
    · rw [count_reg, if_pos rfl, bayTime_reg s t (by simp [bayClockRegs])]
    · rw [count_reg, if_neg fun e => hid (by simp [e]), bayTime_regsAlone s _ t id fun h => hid (by simp [h])]
  · rintro k n v rfl hrec
    refine ⟨fun hle => ⟨?_, ?_⟩, fun hlt => ⟨wait_stalls hfree false hrec hlt, wait_stalls hfree true hrec hlt⟩⟩
    · obtain ⟨hbanks, hseq, hframe⟩ := takes_wait (s := s.bayTime (bayOfCu u) t) (u := u) k n false (by rwa [bayTime_cu])
      rw [bayTime_bank, bayTime_cu] at hbanks
      rw [bayTime_cu] at hseq
      exact ⟨_, wait_passes hfree false hrec hle, hbanks, hseq, (laneFrame_bayTime s u t).trans hframe⟩
    · exact leaves_cu (wait_passes hfree true hrec hle)
  · have hexec : exec (.route t u e) s = _ := exec_onLane (f := fun m => m.issueRoute u e) hfree rfl
    rw [State.issueRoute, ← hz] at hexec
    exact updates_cu hexec
  · rintro l d x js rfl
    have hexec : exec (.spin t u l d x) s = _ := exec_onLane (f := fun m => m.slotAct u false (.spin l d x)) hfree rfl
    refine ⟨fun hroom => ?_, fun hfull => slot_stalls hexec (.inl rfl) ?_⟩
    · replace hexec := exec_slot hexec (.inl rfl) (by rw [bayTime_slotRoom_spin]; exact decide_eq_true hroom)
      rw [State.issueSlot, State.issueSpin, bayTime_sregN, bayTime_descOf] at hexec
      obtain ⟨r, hr, hcu, hframe⟩ := updates_cu hexec
      exact ⟨r, hr, by rw [hcu, Assoc.get_set, if_pos rfl], by rw [hcu], hframe⟩
    · rw [bayTime_slotRoom_spin]
      exact decide_eq_false (by omega)
  · rintro g d x y w hy rfl
    refine ⟨fun hroom => ?_, fun hfull => slot_stalls (exec_onLane (f := fun m => m.slotAct u false (.agstart g d x)) hfree rfl) (.inl rfl) ?_⟩
    · obtain ⟨r, hr, hgens, hframe⟩ := agstart_enters (d := d) (x := x) hfree hz hy rfl hroom
      exact ⟨r, hr, _, hgens, rfl, fun h => enter_queue_of_new h, fun b hq hb hat => enter_queue_of_same hq hb hat, hframe⟩
    · rw [bayTime_slotRoom_agstart, ← hy]
      exact decide_eq_false (by omega)
  · have hexec : exec (.tag t u 0 x) s = _ := exec_onLane (f := fun m => m.issueTag u 0 x) hfree rfl
    rw [State.issueTag, if_pos rfl, ← hz, bayTime_sregN] at hexec
    exact updates_cu hexec
  · rintro p x y - rfl
    have hexec : exec (.tag t u (p + 1) x) s = _ := exec_onLane (f := fun m => m.issueTag u (p + 1) x) hfree rfl
    rw [State.issueTag, if_neg (Nat.succ_ne_zero p), ← hz, bayTime_sregN, Nat.add_sub_cancel] at hexec
    obtain ⟨r, hr, hmu, hframe⟩ := updates_mu hexec
    exact ⟨r, hr, by rw [hmu, Mu.setPort, Assoc.get_set, if_pos rfl, Mu.port], hframe⟩

end Sys2Proof.Machine

/-! PROOF. Family 03_compute_unit: a trim with nothing calibrated (O17). -/

namespace Sys2Proof.Machine

/-- Bay 0 is active, outside a session, and no phase was calibrated; the map of the bays lists bay 1 first. -/
def trimIdle : State := { State.reset with bays := [(1, Bay.reset), (0, { Bay.reset with power := .active })] }

theorem trimIdle_time : (trimIdle.bayTime 0 0).bays.map Prod.fst = [1, 0] := rfl

/-- TRIM_APPLY writes bay 0 back as it was, and so moves it to the head of the map. -/
theorem trimIdle_trimApply : ((trimIdle.bayTime 0 0).trimApply 0 0).bays.map Prod.fst = [0, 1] := rfl

/-- Refutes O17: its last clause asks for the same state, `r = m`, where no phase was calibrated (`trim = none`); there TRIM_APPLY changes
no field of the bay, but in a bay that may take a trim it writes the bay's entry back, and the map then lists that bay first. -/
theorem not_hemChecks : ¬ Obligations.HemChecks := by
  rintro ⟨-, -, -, -, htrim⟩
  obtain ⟨-, hidle⟩ := htrim 0 0 0 trimIdle _ rfl
  obtain ⟨r, hexec, hsame⟩ := hidle (.inr rfl)
  have hr : (trimIdle.bayTime 0 0).trimApply 0 0 = r := Host.Outcome.next.inj hexec
  have hkeys : ([0, 1] : List Nat) = [1, 0] := by rw [← trimIdle_trimApply, hr, hsame, trimIdle_time]
  exact absurd hkeys (by decide)

end Sys2Proof.Machine

/-! PROOF. Family 03_compute_unit: bundles (O35). -/

namespace Sys2Proof.Machine

/-! ### Fields of a bundle (R68) -/

theorem field_field (x : Nat) {hi lo h l : Nat} (hle : lo + h ≤ hi) : field (field x hi lo) h l = field x (lo + h) (lo + l) := by
  refine Nat.eq_of_testBit_eq fun i => ?_
  simp only [field, Nat.testBit_mod_two_pow, Nat.testBit_shiftRight]
  by_cases hi : i < h + 1 - l
  · rw [decide_eq_true hi, decide_eq_true (show l + i < _ by omega), decide_eq_true (show i < _ by omega), Nat.add_assoc]
    rfl
  · rw [decide_eq_false hi, decide_eq_false (show ¬i < _ by omega), Bool.false_and, Bool.false_and]

theorem bitOf_field (x : Nat) {hi lo i : Nat} (hle : lo + i ≤ hi) : bitOf (field x hi lo) i = x.testBit (lo + i) := by
  rw [bitOf, field, Nat.testBit_mod_two_pow, Nat.testBit_shiftRight, decide_eq_true (by omega), Bool.true_and]

theorem field_of_low_zero {x n hi lo : Nat} (h : x % 2 ^ n = 0) (hle : hi < n) : field x hi lo = 0 := by
  refine Nat.eq_of_testBit_eq fun i => ?_
  rw [field, Nat.testBit_mod_two_pow, Nat.testBit_shiftRight, Nat.zero_testBit]
  by_cases hi : i < hi + 1 - lo
  · have hbit : (x % 2 ^ n).testBit (lo + i) = false := by rw [h, Nat.zero_testBit]
    rw [Nat.testBit_mod_two_pow, decide_eq_true (by omega), Bool.true_and] at hbit
    rw [hbit, Bool.and_false]
  · rw [decide_eq_false hi, Bool.false_and]

/-! ### What BUNDLE_ISSUE takes up (R69, R73, R76) -/

section

variable {t u : Nat} {s : State} (hr : (s.bayTime (bayOfCu u) t).laneRuns u = true)
  (hready : (s.cu u).seq.ready ≤ ((s.bayTime (bayOfCu u) t).bay (bayOfCu u)).cycle)

include hr hready

theorem bundleIssue_fetches (hst : (s.cu u).seq.stall = .none ∨ (s.cu u).seq.stall = .engine) :
    exec (.bundleIssue t u) s = .next ((s.bayTime (bayOfCu u) t).fetchIssue u false false) := by
  refine congrArg Host.Outcome.next ?_
  simp only [opBundleIssue, hr, bayTime_cu, Nat.not_lt_of_le hready, Bool.not_true, decide_false, Bool.or_self, Bool.false_eq_true, if_false]
  rcases hst with h | h <;> rw [h]

theorem bundleIssue_retries {j : SlotJob} (hst : (s.cu u).seq.stall = .slot j) :
    exec (.bundleIssue t u) s = .next ((s.bayTime (bayOfCu u) t).slotRetry u j) := by
  refine congrArg Host.Outcome.next ?_
  simp only [opBundleIssue, hr, bayTime_cu, Nat.not_lt_of_le hready, Bool.not_true, decide_false, Bool.or_self, Bool.false_eq_true, if_false, hst]

end

section

variable {s : State} {u : Nat} (he : s.errs.get [] (laneAddr u (16 * (s.cu u).seq.next) / 16) = [])

include he

theorem fetchIssue_of_go (hgo : s.bundleBlock u (s.word (laneAddr u (16 * (s.cu u).seq.next))).toNat false false = .go) :
    s.fetchIssue u false false = s.issueBundle u (s.word (laneAddr u (16 * (s.cu u).seq.next))).toNat false := by
  simp only [State.fetchIssue, readStore_of_clean _ _ _ _ _ _ _ he, hgo, OfNat.zero_ne_ofNat, if_false]

theorem fetchIssue_of_full (hfull : s.bundleFull u (s.word (laneAddr u (16 * (s.cu u).seq.next))).toNat = true) :
    s.fetchIssue u false false = s.modSeq u fun q => { q with stall := .engine, last := (s.cu u).seq.next } := by
  simp only [State.fetchIssue, readStore_of_clean _ _ _ _ _ _ _ he, State.bundleBlock, hfull, OfNat.zero_ne_ofNat, if_false, if_true]

end

/-! ### A bundle that issues (R69) -/

/-- The sequencer as the bundle at `next` issues in cycle `z`. -/
def Seq.issued (q : Seq) (z : Nat) : Seq :=
  { q with sig := foldSig q.sig q.next q.loops.length, last := q.next, next := q.next + 1, ready := z + 1, stall := .none }

/-- A bundle whose control slot holds SETI. -/
theorem issueBundle_seti {s : State} {u x : Nat} (hx : field x 127 120 = 4) : s.issueBundle u x false =
    (((((s.modSeq u fun q => q.issued (s.bay (bayOfCu u)).cycle).issueTensorSlot u (field x 103 72)).issueVectorSlot u (field x 71 40)).issueMoveSlot u
      (field x 39 20)).issueLinkSlot u (field x 19 0)).ctlSeti u (field x 119 116) (BitVec.ofNat 12 (field x 115 104)) := by
  simp only [State.issueBundle, State.issueControl, hx, Nat.reduceBEq, Bool.false_and, Bool.false_eq_true, if_false]
  rfl

/-- The registers after a bundle with SETI. -/
theorem sreg_seti {q : Seq} {x y : Nat} (hlen : q.sregs.length = 16) :
    ((q.setSreg (field x 119 116) ((BitVec.ofNat 12 (field x 115 104)).zeroExtend 32)).sreg y).toNat =
      if y ≠ 0 ∧ y = x / 2 ^ 116 % 16 then x / 2 ^ 104 % 2 ^ 12 else (q.sreg y).toNat := by
  rw [field_eq, field_eq, sreg_setSreg (by rw [hlen]; exact Nat.mod_lt _ (by decide))]
  simp only [Nat.reduceAdd, Nat.reduceSub, Nat.reducePow]
  by_cases hy : y = x / 83076749736557242056487941267521536 % 16
  · by_cases h0 : y = 0
    · simp [← hy, h0, Seq.sreg]
    · have hlt : x / 20282409603651670423947251286016 % 4096 < 4096 := Nat.mod_lt _ (by decide)
      simp [← hy, h0]
      omega
  · simp [hy]

/-! ### Slots that hold nothing -/

theorem issueTensorSlot_zero (s : State) (u : Nat) : s.issueTensorSlot u 0 = s := rfl
theorem issueVectorSlot_zero (s : State) (u : Nat) : s.issueVectorSlot u 0 = s := by simp [State.issueVectorSlot]
theorem issueMoveSlot_zero (s : State) (u : Nat) : s.issueMoveSlot u 0 = s := rfl
theorem issueLinkSlot_zero (s : State) (u : Nat) : s.issueLinkSlot u 0 = s := rfl

theorem bundleBlock_of_seti {s : State} {u x : Nat} (hctl : field x 127 120 = 4) (hmov : field (field x 39 20) 19 16 ≠ 4 ∧ field (field x 39 20) 19 16 ≠ 5)
    (hroom : s.bundleFull u x = false) : s.bundleBlock u x false false = .go := by
  simp [State.bundleBlock, hroom, hctl, hmov]

/-! ### Slots that act -/

section

variable {s : State} {u x : Nat}

theorem issueTensorSlot_mm (hon : s.slotOn u (tensorOpOf x).pred = true) (hx : field x 31 28 = 1) :
    s.issueTensorSlot u x = s.modCu u fun cu => cu.queueTensor (s.tensorJob u false true (tensorOpOf x)) := by
  simp only [State.issueTensorSlot, hon, hx, Bool.not_true, Bool.false_eq_true, if_false, issueTensor_eq]

theorem issueVectorSlot_of_on (hon : s.slotOn u (vecOpOf x).pred = true) (hx : x ≠ 0) :
    s.issueVectorSlot u x = s.modCu u fun cu => cu.queueVector (s.vectorJob u (vecOpOf x)) := by
  simp only [State.issueVectorSlot, hon, hx, Bool.true_eq_false, or_self, if_false, issueVector_eq]

theorem issueMoveSlot_dma (hon : s.slotOn u (bitOf x 0) = true) (hx : field x 19 16 = 1) : s.issueMoveSlot u x = s.modCu u fun cu =>
    cu.queueDma (dmaJob (fun i => s.regN (.dmaDesc u (field x 15 13) i)) (s.sregN u (field x 12 9)) (s.sregN u (field x 8 5))) := by
  simp only [State.issueMoveSlot, hon, hx, Bool.not_true, Bool.false_eq_true, if_false, issueDma_eq]

/-- The fabric's entry turns to `e` in the cycle after `z` (R212). -/
def Cu.route (cu : Cu) (e z : Nat) : Cu := { cu with fab := { cu.fab with entry := ⟨cu.fab.entry.at z, e, z + 1⟩ } }

theorem issueLinkSlot_route (hx : field x 19 16 = 1) :
    s.issueLinkSlot u x = s.modCu u fun cu => cu.route (field x 15 12) (s.bay (bayOfCu u)).cycle := by
  simp only [State.issueLinkSlot, hx]
  rfl

end

/-! ### What a change of the CU keeps of the jobs that its slots queue -/

theorem modCu_modCu (s : State) (u : Nat) (f g : Cu → Cu) : (s.modCu u f).modCu u g = s.modCu u fun cu => g (f cu) := by
  rw [State.modCu, modCu_cu, if_pos rfl]
  simp only [State.modCu, State.setCu, Assoc.set_set]

section

variable {s : State} {u : Nat} {f : Cu → Cu}

theorem modCu_sregN (h : (f (s.cu u)).seq.sregs = (s.cu u).seq.sregs) (x : Nat) : (s.modCu u f).sregN u x = s.sregN u x := by
  rw [State.sregN, State.sregN, modCu_cu, if_pos rfl, Seq.sreg, Seq.sreg, h]

theorem modCu_slotOn (h : (f (s.cu u)).seq.pred = (s.cu u).seq.pred) (p : Bool) : (s.modCu u f).slotOn u p = s.slotOn u p := by
  rw [State.slotOn, State.slotOn, modCu_cu, if_pos rfl, h]

theorem modCu_tensorJob (h : (f (s.cu u)).seq.sregs = (s.cu u).seq.sregs) (hno : (f (s.cu u)).issues = (s.cu u).issues) (drain clear : Bool)
    (op : TensorOp) : (s.modCu u f).tensorJob u drain clear op = s.tensorJob u drain clear op := by
  simp only [State.tensorJob, modCu_sregN h, modCu_cu, if_true, hno]
  rfl

theorem modCu_vectorJob (op : VecOp) : (s.modCu u f).vectorJob u op = { s.vectorJob u op with no := (f (s.cu u)).issues } := by
  rw [State.vectorJob, modCu_cu, if_pos rfl]
  rfl

end

/-! ### A bundle of five slots -/

/-- What a bundle's slots queue and set: MM's job, the pass's, the transfer, ROUTE's entry, SETI's register and value. -/
structure FiveSlots where
  tensor : SteJob
  vector : VecJob
  dma : Xfer
  entry : Nat
  sreg : Nat
  imm : BitVec 12

/-- What bundle word `x` holds for the machine as it is when the bundle issues. -/
def State.fiveSlots (s : State) (u x : Nat) : FiveSlots :=
  { tensor := s.tensorJob u false true (tensorOpOf (field x 103 72))
    vector := { s.vectorJob u (vecOpOf (field x 71 40)) with no := (s.cu u).issues + 1 }
    dma := dmaJob (fun i => s.regN (.dmaDesc u (field x 35 33) i)) (s.sregN u (field x 32 29)) (s.sregN u (field x 28 25))
    entry := field x 15 12, sreg := field x 119 116, imm := BitVec.ofNat 12 (field x 115 104) }

theorem fiveSlots_eq (s : State) (u x : Nat) : s.fiveSlots u x =
    { tensor := s.tensorJob u false true (tensorOpOf (x / 2 ^ 72 % 2 ^ 32))
      vector := { s.vectorJob u (vecOpOf (x / 2 ^ 40 % 2 ^ 32)) with no := (s.cu u).issues + 1 }
      dma := dmaJob (fun i => s.regN (.dmaDesc u (x / 2 ^ 33 % 2 ^ 3) i)) (s.sregN u (x / 2 ^ 29 % 2 ^ 4)) (s.sregN u (x / 2 ^ 25 % 2 ^ 4))
      entry := x / 2 ^ 12 % 2 ^ 4, sreg := field x 119 116, imm := BitVec.ofNat 12 (field x 115 104) } := by
  rw [State.fiveSlots, field_eq x 103 72, field_eq x 71 40, field_eq x 35 33, field_eq x 32 29, field_eq x 28 25, field_eq x 15 12]

/-- The CU after its bundle issued in cycle `z`. -/
def Cu.five (cu : Cu) (z : Nat) (y : FiveSlots) : Cu :=
  { ((({ cu with seq := cu.seq.issued z }.queueTensor y.tensor).queueVector y.vector).queueDma y.dma).route y.entry z with
    seq := (cu.seq.issued z).setSreg y.sreg (y.imm.zeroExtend 32) }

/-- All slots act in one cycle, on the predicate and the scalars as they were (R69). -/
theorem issueBundle_five {s : State} {u x : Nat} (hctl : field x 127 120 = 4) (hten : field (field x 103 72) 31 28 = 1) (hvec : field x 71 40 ≠ 0)
    (hmov : field (field x 39 20) 19 16 = 1) (hlnk : field (field x 19 0) 19 16 = 1) (htenOn : s.slotOn u (tensorOpOf (field x 103 72)).pred = true)
    (hvecOn : s.slotOn u (vecOpOf (field x 71 40)).pred = true) (hmovOn : s.slotOn u (bitOf (field x 39 20) 0) = true) :
    s.issueBundle u x false = s.modCu u fun cu => cu.five (s.bay (bayOfCu u)).cycle (s.fiveSlots u x) := by
  rw [issueBundle_seti hctl, State.modSeq, issueTensorSlot_mm (by rwa [modCu_slotOn rfl]) hten, modCu_tensorJob rfl rfl, modCu_modCu,
    issueVectorSlot_of_on (by rwa [modCu_slotOn rfl]) hvec, modCu_vectorJob, modCu_modCu,
    issueMoveSlot_dma (by rwa [modCu_slotOn rfl]) hmov, modCu_sregN rfl, modCu_sregN rfl, modCu_modCu,
    issueLinkSlot_route hlnk, modCu_modCu, State.ctlSeti, State.modSeq, modCu_modCu,
    field_field x (by decide), field_field x (by decide), field_field x (by decide), field_field x (by decide)]
  rfl

/-- A bundle that holds SETI alone. -/
theorem issueBundle_one {s : State} {u x : Nat} (hctl : field x 127 120 = 4) (h : x % 2 ^ 104 = 0) : s.issueBundle u x false =
    s.modSeq u fun q => (q.issued (s.bay (bayOfCu u)).cycle).setSreg (field x 119 116) ((BitVec.ofNat 12 (field x 115 104)).zeroExtend 32) := by
  rw [issueBundle_seti hctl, field_of_low_zero h (by decide), field_of_low_zero h (by decide), field_of_low_zero h (by decide),
    field_of_low_zero h (by decide), issueTensorSlot_zero, issueVectorSlot_zero, issueMoveSlot_zero, issueLinkSlot_zero, State.ctlSeti, State.modSeq,
    State.modSeq, modCu_modCu]
  rfl

theorem bundleFull_of_empty {s : State} {u x : Nat} (h : x % 2 ^ 104 = 0) : s.bundleFull u x = false := by
  rw [State.bundleFull, field_of_low_zero h (by decide), field_of_low_zero h (by decide), field_of_low_zero h (by decide),
    field_of_low_zero h (by decide)]
  rfl

theorem bundleFull_of_rooms {s : State} {u x : Nat} (hten : (s.cu u).steRoom = true) (hvec : (s.cu u).vecRoom = true) (hdma : (s.cu u).dmaRoom = true)
    (hlnk : field (field x 19 0) 19 16 = 1) : s.bundleFull u x = false := by
  simp [State.bundleFull, hten, hvec, hdma, hlnk]

@[simp] theorem bayTime_fiveSlots (s : State) (b t u x : Nat) : (s.bayTime b t).fiveSlots u x = s.fiveSlots u x := by
  simp only [State.fiveSlots, bayTime_tensorJob, bayTime_vectorJob, bayTime_cu, bayTime_sregN, bayTime_dmaDesc]

/-! ### A lane-store word that is lost (R76, R401, R405) -/

theorem uncorrectableWord_raises (s : State) (b loc store cu c off : Nat) :
    ∃ v ∈ (s.uncorrectableWord b loc store cu c off).evt.inflight, v.source = b ∧ v.kind = 0x26 := by
  rw [State.uncorrectableWord, detect_evt]
  exact ⟨_, List.mem_append_right _ (List.mem_singleton.2 rfl), rfl, rfl⟩

/-- A word of a lane store with two bad symbols is lost, and its lane with it. -/
theorem readStore_of_lost {s : State} {a : Nat} {e f : Nat × Byte} (b loc cu c off : Nat) (h : s.errs.get [] (a / 16) = [e, f]) :
    (s.readStore a b loc 2 cu c off false).1.verdict = 2 ∧
      (s.readStore a b loc 2 cu c off false).2 = ((s.uncorrectableWord b loc 2 cu c off).laneLost (4 * c + cu)).putWord a 0 := by
  have hd : (s.decodeAt a).verdict = 2 := by rw [State.decodeAt, h]; rfl
  simp [State.readStore, h, hd]

theorem lane_stops {t u : Nat} {s : State} {e f : Nat × Byte} (hr : (s.bayTime (bayOfCu u) t).laneRuns u = true)
    (hready : (s.cu u).seq.ready ≤ ((s.bayTime (bayOfCu u) t).bay (bayOfCu u)).cycle) (hst : (s.cu u).seq.stall = .none ∨ (s.cu u).seq.stall = .engine)
    (he : s.errs.get [] (laneAddr u (16 * (s.cu u).seq.next) / 16) = [e, f]) : Completes (exec (.bundleIssue t u) s) fun r =>
      (r.cu u).seq.stopped = true ∧ u ∈ r.rel.badLanes ∧ CusAlone [u] s r ∧ (∃ v ∈ r.evt.inflight, v.source = bayOfCu u ∧ v.kind = 0x26) := by
  generalize hx : (s.bayTime (bayOfCu u) t).uncorrectableWord (bayOfCu u) (locCu u) 2 (u % 4) (u / 4) (s.cu u).seq.next = x
  have hkept : Kept [.regs, .bays, .evt, .rel] s x :=
    hx ▸ kept_uncorrectableWord (by decide) ((kept_atBayTime s _ t).mono (by decide))
  have hraised : ∃ v ∈ x.evt.inflight, v.source = bayOfCu u ∧ v.kind = 0x26 := hx ▸ uncorrectableWord_raises _ _ _ _ _ _ _
  obtain ⟨hverdict, hread⟩ := readStore_of_lost (s := s.bayTime (bayOfCu u) t) (bayOfCu u) (locCu u) (u % 4) (u / 4) (s.cu u).seq.next
    (by rwa [bayTime_errs])
  rw [hx, Nat.div_add_mod] at hread
  have hfetch : (s.bayTime (bayOfCu u) t).fetchIssue u false false =
      ((x.laneLost u).putWord (laneAddr u (16 * (s.cu u).seq.next)) 0).modSeq u fun q => { q with stopped := true, last := (s.cu u).seq.next } := by
    simp only [State.fetchIssue, bayTime_cu, hverdict, hread, if_true]
  refine ⟨_, (bundleIssue_fetches hr hready hst).trans (congrArg _ hfetch), ?_, ?_, fun v hv => ?_, hraised⟩
  · rw [State.modSeq, modCu_cu, if_pos rfl]
  · exact (mem_insertSorted u u x.rel.badLanes).2 (.inl rfl)
  · exact (modCu_cusAlone _ u _ v hv).trans (hkept.eq_cu (by decide) v)

theorem setSreg_eq (q : Seq) (r : Nat) (v : BitVec 32) : ∃ l, q.setSreg r v = { q with sregs := l } := by
  unfold Seq.setSreg
  split
  · exact ⟨q.sregs, rfl⟩
  · exact ⟨_, rfl⟩

/-- The sequencer after a bundle that issued in cycle `z` with SETI in its control slot. -/
theorem issued_seti {s r : State} {u x z : Nat} (hlen : (s.cu u).seq.sregs.length = 16) (hseq : (r.cu u).seq =
      ((s.cu u).seq.issued z).setSreg (field x 119 116) ((BitVec.ofNat 12 (field x 115 104)).zeroExtend 32)) :
    (r.cu u).seq.last = (s.cu u).seq.next ∧ (r.cu u).seq.next = (s.cu u).seq.next + 1 ∧ (r.cu u).seq.ready = z + 1 ∧ (r.cu u).seq.stall = .none ∧
      (r.cu u).seq.sig = foldSig (s.cu u).seq.sig (s.cu u).seq.next (s.cu u).seq.loops.length ∧
      (∀ y, y < 16 → r.sregN u y = if y ≠ 0 ∧ y = x / 2 ^ 116 % 16 then x / 2 ^ 104 % 2 ^ 12 else s.sregN u y) := by
  have hsregs (y : Nat) : r.sregN u y = if y ≠ 0 ∧ y = x / 2 ^ 116 % 16 then x / 2 ^ 104 % 2 ^ 12 else s.sregN u y := by
    rw [State.sregN, hseq]
    exact sreg_seti (q := (s.cu u).seq.issued z) hlen
  obtain ⟨l, hl⟩ := setSreg_eq ((s.cu u).seq.issued z) (field x 119 116) ((BitVec.ofNat 12 (field x 115 104)).zeroExtend 32)
  rw [hseq, hl]
  exact ⟨rfl, rfl, rfl, rfl, rfl, fun y _ => hsregs y⟩

theorem slotRetry_of_room {s : State} {u : Nat} {op : VecOp} (h : s.slotRoom u (.vector op) = true) : s.slotRetry u (.vector op) =
    s.modCu u fun cu => { cu with seq := { cu.seq with stall := .none } }.queueVector (s.vectorJob u op) := by
  rw [State.slotRetry, if_pos h, State.issueSlot, issueVector_eq, State.modSeq, modCu_vectorJob, modCu_modCu]
  rfl

theorem slotRetry_of_full {s : State} {u : Nat} {j : SlotJob} (h : s.slotRoom u j = false) : s.slotRetry u j = s := by
  rw [State.slotRetry, if_neg (by rw [h]; exact Bool.false_ne_true)]

@[simp] theorem bayTime_slotRoom_vector (s : State) (b t u : Nat) (op : VecOp) :
    (s.bayTime b t).slotRoom u (.vector op) = decide ((s.cu u).vec.queue.length < 2) := by
  rw [State.slotRoom, Cu.vecRoom, bayTime_cu]

/-- Settles O35: a bundle that issues is one update of its CU, `Cu.five` or SETI's alone. -/
theorem bundlesIssue : Obligations.BundlesIssue := by
  rintro t u x s m q rfl hr rfl hready hx
  have hxm : x = ((s.bayTime (bayOfCu u) t).word (laneAddr u (16 * ((s.bayTime (bayOfCu u) t).cu u).seq.next))).toNat := by
    rw [bayTime_cu, hx, State.word, State.word, bayTime_mem]
  have hcontrol (h : x / 2 ^ 120 = 4) : field x 127 120 = 4 := by rw [field_eq, h]; rfl
  have hissues (hst : (s.cu u).seq.stall = .none ∨ (s.cu u).seq.stall = .engine)
      (he : s.errs.get [] (laneAddr u (16 * (s.cu u).seq.next) / 16) = [])
      (hgo : (s.bayTime (bayOfCu u) t).bundleBlock u x false false = .go) :
      exec (.bundleIssue t u) s = .next ((s.bayTime (bayOfCu u) t).issueBundle u x false) := by
    rw [bundleIssue_fetches hr hready hst, fetchIssue_of_go (by rwa [bayTime_errs, bayTime_cu]) (hxm ▸ hgo), ← hxm]
  refine ⟨fun hst he hlow hctl hlen => ?_, ?_, fun hst he hfull => ?_, fun e f hst he => lane_stops hr hready hst he, fun op hst => ⟨fun hroom => ?_, fun hfull => ?_⟩⟩
  · have hmov : field x 39 20 = 0 := field_of_low_zero hlow (by decide)
    have hexec := hissues hst he (bundleBlock_of_seti (hcontrol hctl) (by rw [hmov]; decide) (bundleFull_of_empty hlow))
    rw [issueBundle_one (hcontrol hctl) hlow] at hexec
    obtain ⟨r, hr, hcu, hframe⟩ := updates_seq hexec
    obtain ⟨hlast, hnext, hready, hstall, hsig, hsregs⟩ := issued_seti (s := s) (r := r) hlen (by rw [hcu])
    exact ⟨r, hr, hlast, hnext, hready, hstall, hsig, hsregs, hframe⟩
  · rintro op v w hst he hlen hctl hten rfl htenOn hvec rfl hvecOn hmov hmovOn hlnk rfl htenRoom hvecRoom hdmaRoom
    have hten' : field (field x 103 72) 31 28 = 1 := by rw [field_field x (by decide), field_eq]; exact hten
    have hmov' : field (field x 39 20) 19 16 = 1 := by rw [field_field x (by decide), field_eq]; exact hmov
    have hlnk' : field (field x 19 0) 19 16 = 1 := by rw [field_field x (by decide), field_eq]; exact hlnk
    have hfull : (s.bayTime (bayOfCu u) t).bundleFull u x = false := by
      refine bundleFull_of_rooms ?_ ?_ ?_ hlnk' <;> rw [bayTime_cu]
      · exact decide_eq_true htenRoom
      · exact decide_eq_true hvecRoom
      · exact decide_eq_true hdmaRoom
    have hexec := hissues hst he (bundleBlock_of_seti (hcontrol hctl) (by rw [hmov']; decide) hfull)
    rw [issueBundle_five (hcontrol hctl) hten' (by rw [field_eq]; exact hvec) hmov' hlnk' (slotOn_of (by rw [bayTime_cu, field_eq]; exact htenOn))
      (slotOn_of (by rw [bayTime_cu, field_eq]; exact hvecOn)) (slotOn_of (by rw [bayTime_cu, bitOf_field x (by decide)]; exact hmovOn)),
      bayTime_fiveSlots, fiveSlots_eq] at hexec
    obtain ⟨r, hr, hcu, hframe⟩ := updates_cu hexec
    obtain ⟨hlast, hnext, hready, hstall, hsig, hsregs⟩ := issued_seti (s := s) (r := r) hlen (by rw [hcu]; rfl)
    refine ⟨r, hr, hlast, hnext, hready, hstall, hsig, ?_, ⟨s.tensorJob u false true _, ?_, rfl, rfl, rfl, rfl, rfl, rfl⟩, ?_,
      ⟨dmaJob (fun i => s.regN (.dmaDesc u (x / 2 ^ 33 % 2 ^ 3) i)) _ _, ?_, rfl, rfl⟩, ?_, hsregs, hframe⟩
    all_goals rw [hcu]; rfl
  · have hexec := bundleIssue_fetches hr hready hst
    rw [fetchIssue_of_full (by rwa [bayTime_errs, bayTime_cu]) (hxm ▸ hfull), bayTime_cu] at hexec
    exact updates_seq hexec
  · have hexec := bundleIssue_retries hr hready hst
    rw [slotRetry_of_room (by rw [bayTime_slotRoom_vector]; exact decide_eq_true hroom), bayTime_vectorJob] at hexec
    exact updates_cu hexec
  · have hexec := bundleIssue_retries hr hready hst
    rw [slotRetry_of_full (by rw [bayTime_slotRoom_vector]; exact decide_eq_false (by omega))] at hexec
    exact leaves_cu hexec

end Sys2Proof.Machine

/-! PROOF. Family 03_compute_unit: the tensor engine (O38). -/

namespace Sys2Proof.Machine

/-! ### Staging (R82) -/

theorem stageLoad_of_job {s : State} {u i : Nat} {side : Side} {j : SteJob} (hl : (s.cu u).ste.loaded side (s.bay (bayOfCu u)).cycle = false)
    (hi : (s.cu u).ste.toStage side = some i) (hj : (s.cu u).ste.queue[i]? = some j) (hsrc : (j.desc side).source < 2) :
    s.stageLoad u side = s.loadTransfer u side i j := by
  have hlink : isLinkSrc (j.desc side).source = false := decide_eq_false (by omega)
  simp only [State.stageLoad, hl, hi, hj, hlink, Bool.false_eq_true, if_false]

/-- The job that a transfer leaves: with the words of it that have been read, or, when they were the last, staged. -/
def SteJob.transferred (j : SteJob) (side : Side) (z : Nat) (ws : Assoc Nat Word) : SteJob :=
  if (nextWord ws (j.desc side)).isSome then j.setLoad side { j.load side with moved := (j.load side).moved + 1, words := ws }
  else (j.setLoad side { j.load side with moved := (j.load side).moved + 1, words := [], ready := z + if (j.desc side).source = 0 then 2 else 4 }).setStaged side
    (stageOperand (byteIn ws) (j.desc side)).1

/-- A transfer leaves its job in the queue; beside that it reads, which changes no CU. -/
theorem loadTransfer_eq {s s' : State} {u i : Nat} {side : Side} {j : SteJob} {got : List Nat} {ws : Assoc Nat Word}
    (hw : s.loadWords u (j.desc side) 4 (j.load side).words = (got, ws, s')) : ∃ x, Kept [.free, .mem, .errs, .regs, .bays, .evt, .rel] s x ∧
      s.loadTransfer u side i j = x.modSte u fun y => (y.setLoaded side (s.bay (bayOfCu u)).cycle).setJob i (j.transferred side (s.bay (bayOfCu u)).cycle ws) := by
  have hs' : Kept [.free, .mem, .errs, .regs, .bays, .evt, .rel] s s' := by
    have h := kept_loadWords (u := u) (d := j.desc side) (x0 := 4) (x1 := (j.load side).words) (List.Subset.refl _) (Kept.refl _ s)
    rwa [hw] at h
  have hfault := kept_operandFault (u := u) (src := (j.desc side).source) (ws := got) (by decide) hs'
  by_cases hn : (nextWord ws (j.desc side)).isSome = true
  · exact ⟨_, hfault, by simp only [State.loadTransfer, hw, hn, SteJob.transferred, if_true]⟩
  · refine ⟨_, kept_malformedAll (u := u) (side := sideCode side) (src := (j.desc side).source) (x0 := (stageOperand (byteIn ws) (j.desc side)).2) (by decide)
      hfault, ?_⟩
    simp only [State.loadTransfer, hw, hn, SteJob.transferred, Bool.false_eq_true, if_false]

theorem setLoaded_loaded (x : Ste) (side : Side) (z i : Nat) (j : SteJob) : ((x.setLoaded side z).setJob i j).loaded side z = true := by
  cases side <;> exact beq_self_eq_true _

theorem setLoaded_queue (x : Ste) (side : Side) (z i : Nat) (j : SteJob) : ((x.setLoaded side z).setJob i j).queue = x.queue.set i j := by
  cases side <;> rfl

/-- A transfer of a loader (R82). -/
theorem transfer_loads {t u z i : Nat} {s s' : State} {side : Side} {j : SteJob} {got : List Nat} {ws : Assoc Nat Word}
    (hr : (s.bayTime (bayOfCu u) t).engineRuns u = true) (hz : z = ((s.bayTime (bayOfCu u) t).bay (bayOfCu u)).cycle)
    (hi : (s.cu u).ste.toStage side = some i) (hj : (s.cu u).ste.queue[i]? = some j) (hsrc : (j.desc side).source < 2)
    (hl : (s.cu u).ste.loaded side z = false) (hp : (s.bayTime (bayOfCu u) t).portHeld (u / 4) (u % 4) (sideUnit side) = false)
    (hw : (s.bayTime (bayOfCu u) t).loadWords u (j.desc side) 4 (j.load side).words = (got, ws, s')) :
    Completes (exec (.stageLoad t u side) s) fun r => (r.cu u).ste.queue[i]? = some (j.transferred side z ws) ∧ (r.cu u).ste.loaded side z = true ∧
      (∀ k, k ≠ i → (r.cu u).ste.queue[k]? = (s.cu u).ste.queue[k]?) ∧ (r.cu u).seq = (s.cu u).seq ∧ CusAlone [u] s r ∧
      Touches [.free, .mem, .errs, .regs, .bays, .cus, .evt, .rel] s r := by
  obtain ⟨x, hx, heq⟩ := loadTransfer_eq (i := i) hw
  rw [← hz] at heq
  have hcu (v : Nat) : x.cu v = s.cu v := (hx.eq_cu (by decide) v).trans (bayTime_cu s _ t v)
  have hexec : exec (.stageLoad t u side) s = .next (x.modSte u fun y => (y.setLoaded side z).setJob i (j.transferred side z ws)) := by
    refine congrArg Host.Outcome.next ((if_pos (by rw [hr, hp]; rfl)).trans ?_)
    rw [stageLoad_of_job (by rwa [bayTime_cu, ← hz]) (by rwa [bayTime_cu]) (by rwa [bayTime_cu]) hsrc, heq]
  have hlen : i < (s.cu u).ste.queue.length := (List.getElem?_eq_some_iff.1 hj).1
  refine ⟨_, hexec, ?_, ?_, fun k hk => ?_, ?_, fun v hv => ?_, ?_⟩
  · rw [modSte_cu, if_pos rfl, hcu, setLoaded_queue, List.getElem?_set_self hlen]
  · rw [modSte_cu, if_pos rfl]
    exact setLoaded_loaded _ _ _ _ _
  · rw [modSte_cu, if_pos rfl, hcu, setLoaded_queue, List.getElem?_set_ne (Ne.symm hk)]
  · rw [modSte_cu, if_pos rfl, hcu]
  · rw [modSte_cu, if_neg fun e => hv (by simp [e]), hcu]
  · exact (kept_modSte (by decide) (((kept_atBayTime s _ t).mono (by decide)).trans (hx.mono (by decide)))).touches

/-! ### Issue (R84, R85, R384) -/

theorem exec_steIssue {t u : Nat} {s : State} {y : SteRun} (hr : (s.bayTime (bayOfCu u) t).engineRuns u = true) (hrun : (s.cu u).ste.run = some y) :
    exec (.steOutputIssue t u) s = .next ((s.bayTime (bayOfCu u) t).steIssue u) := by
  refine congrArg Host.Outcome.next ((if_pos hr).trans ?_)
  rw [State.steOutputIssue, bayTime_cu, hrun]

theorem not_entryBusy {x : Ste} {y : SteRun} {z : Nat} (h : y.cycles = 0 → x.entryFree y.job.op.tile y.i y.j z = true) :
    (decide (y.cycles = 0) && !x.entryFree y.job.op.tile y.i y.j z) = false := by
  by_cases hc : y.cycles = 0
  · rw [h hc, Bool.not_true, Bool.and_false]
  · rw [decide_eq_false hc, Bool.false_and]

/-- The counter that a finished output's cycles go to: those of the MAC array or of the scan, whichever bound it (R107). -/
def SteRun.limitReg (r : SteRun) (u : Nat) (a b : Staged) : RegId :=
  if r.scanned < ceilDiv r.matched (macLanes a.desc.etype b.desc.etype) then .cu u .steMacCyc else .cu u .steScanCyc

theorem limitReg_cases (r : SteRun) (u : Nat) (a b : Staged) : r.limitReg u a b = .cu u .steMacCyc ∨ r.limitReg u a b = .cu u .steScanCyc := by
  rw [SteRun.limitReg]
  split
  · exact .inl rfl
  · exact .inr rfl

section

variable {u : Nat} {s : State} {y : SteRun} {a b : Staged} (hrun : (s.cu u).ste.run = some y) (ha : y.job.stA = some a) (hb : y.job.stB = some b)
  (hfree : y.cycles = 0 → (s.cu u).ste.entryFree y.job.op.tile y.i y.j (s.bay (bayOfCu u)).cycle = true)

include hrun ha hb hfree

theorem steIssue_refused (hg : s.govAllows u = false) : s.steIssue u = s.govRefuse u := by
  simp only [State.steIssue, hrun, ha, hb, not_entryBusy hfree, hg, Bool.not_false, Bool.false_eq_true, if_false, if_true]

theorem steIssue_goes_on (hg : s.govAllows u = true) (hf : (y.cycle a b).finished a b = false) :
    s.steIssue u = (s.govIssue u).modSte u fun x => { x with run := some (y.cycle a b) } := by
  simp only [State.steIssue, hrun, ha, hb, not_entryBusy hfree, hg, hf, Bool.not_true, Bool.false_eq_true, if_false]

theorem steIssue_finishes (hg : s.govAllows u = true) (hf : (y.cycle a b).finished a b = true) :
    s.steIssue u = ((s.govIssue u).count ((y.cycle a b).limitReg u a b) (y.cycle a b).cycles).modSte u fun x =>
      { x with run := (y.cycle a b).advance (b.desc.count + 1) (a.desc.count + 1)
               results := x.results ++ [(y.cycle a b).result a b (s.bay (bayOfCu u)).cycle] } := by
  simp only [State.steIssue, hrun, ha, hb, not_entryBusy hfree, hg, hf, Bool.not_true, Bool.false_eq_true, if_false, if_true, SteRun.limitReg]

end

section

variable {t u : Nat} {s : State} {y : SteRun} {a b : Staged} (hr : (s.bayTime (bayOfCu u) t).engineRuns u = true) (hrun : (s.cu u).ste.run = some y)
  (ha : y.job.stA = some a) (hb : y.job.stB = some b)
  (hfree : y.cycles = 0 → (s.cu u).ste.entryFree y.job.op.tile y.i y.j ((s.bayTime (bayOfCu u) t).bay (bayOfCu u)).cycle = true)

include hr hrun ha hb hfree

/-- A refused issue cycle is counted and leaves the engine (R384). -/
theorem issue_refused (hg : (s.bayTime (bayOfCu u) t).govAllows u = false) : Completes (exec (.steOutputIssue t u) s) fun r => r.cus = s.cus ∧
    r.reg (.bay (bayOfCu u) .govHeld) = satReg (s.reg (.bay (bayOfCu u) .govHeld)) 1 ∧ BaysAlone [bayOfCu u] s r ∧
    RegsAlone (.bay (bayOfCu u) .govHeld :: bayClockRegs (bayOfCu u)) s r ∧ Touches [.regs, .bays] s r := by
  have hexec := exec_steIssue hr hrun
  rw [steIssue_refused (by rwa [bayTime_cu]) ha hb (by rwa [bayTime_cu]) hg] at hexec
  refine ⟨_, hexec, bayTime_cus s _ t, ?_, fun q hq => ?_, fun id hid => ?_, (kept_govRefuse (by decide) ((kept_atBayTime s _ t).mono (by decide))).touches⟩
  · rw [State.govRefuse, count_reg, if_pos rfl, modBay_reg, bayTime_reg s t (by simp [bayClockRegs])]
  · rw [State.govRefuse, count_bay, modBay_baysAlone _ _ _ q hq, bayTime_baysAlone s _ t q hq]
  · rw [State.govRefuse, count_reg, if_neg fun e => hid (by simp [e]), modBay_reg, bayTime_regsAlone s _ t id fun h => hid (by simp [h])]

theorem issue_goes_on (hg : (s.bayTime (bayOfCu u) t).govAllows u = true) (hf : (y.cycle a b).finished a b = false) :
    Completes (exec (.steOutputIssue t u) s) fun r => r.cu u = { s.cu u with ste := { (s.cu u).ste with run := some (y.cycle a b) } } ∧ LaneFrame u s r := by
  have hexec := exec_steIssue hr hrun
  rw [steIssue_goes_on (by rwa [bayTime_cu]) ha hb (by rwa [bayTime_cu]) hg hf] at hexec
  refine ⟨_, hexec, ?_, ((laneFrame_bayTime s u t).trans (laneFrame_modBay _ u _)).trans (laneFrame_modCu _ u _)⟩
  rw [modSte_cu, if_pos rfl, State.govIssue, modBay_cu, bayTime_cu]

theorem issue_finishes (hg : (s.bayTime (bayOfCu u) t).govAllows u = true) (hf : (y.cycle a b).finished a b = true) :
    Completes (exec (.steOutputIssue t u) s) fun r => (r.cu u).ste = { (s.cu u).ste with
        run := (y.cycle a b).advance (b.desc.count + 1) (a.desc.count + 1)
        results := (s.cu u).ste.results ++ [(y.cycle a b).result a b ((s.bayTime (bayOfCu u) t).bay (bayOfCu u)).cycle] } ∧
      (r.cu u).seq = (s.cu u).seq ∧ (r.cu u).vec = (s.cu u).vec ∧ CusAlone [u] s r ∧
      RegsAlone (.cu u .steMacCyc :: .cu u .steScanCyc :: bayClockRegs (bayOfCu u)) s r ∧ Touches [.regs, .bays, .cus] s r := by
  have hexec := exec_steIssue hr hrun
  rw [steIssue_finishes (by rwa [bayTime_cu]) ha hb (by rwa [bayTime_cu]) hg hf] at hexec
  have hid := limitReg_cases (y.cycle a b) u a b
  generalize (y.cycle a b).limitReg u a b = id at hexec hid
  have hcu (v : Nat) : (((s.bayTime (bayOfCu u) t).govIssue u).count id (y.cycle a b).cycles).cu v = s.cu v := by
    rw [count_cu, State.govIssue, modBay_cu, bayTime_cu]
  refine ⟨_, hexec, ?_, ?_, ?_, fun v hv => ?_, fun id' hid' => ?_, ?_⟩
  · rw [modSte_cu, if_pos rfl, hcu]
  · rw [modSte_cu, if_pos rfl, hcu]
  · rw [modSte_cu, if_pos rfl, hcu]
  · rw [modSte_cu, if_neg fun e => hv (by simp [e]), hcu]
  · have hne : id ≠ id' := by
      rintro rfl
      rcases hid with rfl | rfl <;> simp at hid'
    rw [State.modSte, modCu_reg, count_reg, if_neg hne, State.govIssue, modBay_reg, bayTime_regsAlone s _ t id' fun h => hid' (by simp [h])]
  · exact (kept_modSte (by decide) (kept_count (by decide) (kept_govIssue (by decide) ((kept_atBayTime s _ t).mono (by decide))))).touches

end

/-! ### Accumulation (R85, R120, R124) -/

/-- The entry that result `r` lands in, after it. -/
def Acc.landed (c : Acc) (r : SteResult) : Acc :=
  if r.isInt then { c with int := c.int + BitVec.ofInt 64 r.total, sat := r.sat, reach := r.due }
  else { c with num := (accNums c.num r.sums).1, reach := r.due }

def Tile.landed (x : Tile) (r : SteResult) : Tile := { x with cells := x.cells.set (16 * r.i + r.j) ((x.cell (16 * r.i + r.j)).landed r) }

theorem landed_cell (x : Tile) (r : SteResult) (k : Nat) :
    (x.landed r).cell k = if 16 * r.i + r.j = k then (x.cell (16 * r.i + r.j)).landed r else x.cell k := by
  rw [Tile.cell, Tile.landed, Assoc.get_set]
  rfl

/-- The only result in flight lands: no earlier instruction waits for a comparison of its tile. -/
theorem land_of_alone {s : State} {u : Nat} {r : SteResult} (hres : (s.cu u).ste.results = []) (hlast : r.lastOf = false) : s.land u r =
    (s.modSte u fun x => x.setTile r.tile (((s.cu u).ste.tile r.tile).landed r)).stick u false
      (r.flags ||| (accNums (((s.cu u).ste.tile r.tile).cell (16 * r.i + r.j)).num r.sums).2) := by
  simp only [State.land, Ste.landing, hres, hlast, List.any_nil, Bool.false_eq_true, if_false, Tile.landed, Acc.landed]

theorem accumulate_of_alone {s : State} {u : Nat} {r : SteResult} (hres : (s.cu u).ste.results = [r])
    (hdue : r.due ≤ (s.bay (bayOfCu u)).cycle) : s.accumulate u = (s.modSte u fun x => { x with results := x.results.erase r }).land u r := by
  simp only [State.accumulate, hres, List.find?_cons, hdue, decide_true]

theorem setTile_results (x : Ste) (k : Nat) (y : Tile) : (x.setTile k y).results = x.results := by
  unfold Ste.setTile
  split <;> rfl

theorem stick_flags (s : State) (u : Nat) (f : FlagSet) : (s.stick u false f).reg (.cu u .flags) = s.reg (.cu u .flags) ||| regOf f.toNat := by
  unfold State.stick
  split
  · rename_i h
    rw [h]
    exact (BitVec.or_zero).symm
  · rw [hwSet_reg, if_pos rfl, if_neg Bool.false_ne_true, Nat.mul_one]

theorem exec_accumulate {t u : Nat} {s : State} (hr : (s.bayTime (bayOfCu u) t).engineRuns u = true) :
    exec (.accumulate t u) s = .next (((s.bayTime (bayOfCu u) t).accumulate u).drainAdvance u) := congrArg Host.Outcome.next (if_pos hr)

/-- A result lands in its entry (R85). -/
theorem result_lands {t u : Nat} {s : State} {y : SteResult} (hr : (s.bayTime (bayOfCu u) t).engineRuns u = true) (hq : (s.cu u).ste.queue = [])
    (hres : (s.cu u).ste.results = [y]) (hdue : y.due ≤ ((s.bayTime (bayOfCu u) t).bay (bayOfCu u)).cycle) (hlast : y.lastOf = false) :
    Completes (exec (.accumulate t u) s) fun r => (r.cu u).ste.results = [] ∧
      (r.cu u).ste.tile y.tile = ((s.cu u).ste.tile y.tile).landed y ∧
      r.reg (.cu u .flags) = s.reg (.cu u .flags) |||
        regOf (y.flags ||| (accNums (((s.cu u).ste.tile y.tile).cell (16 * y.i + y.j)).num y.sums).2).toNat ∧
      CusAlone [u] s r ∧ RegsAlone (.cu u .flags :: bayClockRegs (bayOfCu u)) s r ∧ Touches [.regs, .bays, .cus] s r := by
  generalize hx : (s.bayTime (bayOfCu u) t).modSte u (fun x => { x with results := x.results.erase y }) = x
  have hste : (x.cu u).ste = { (s.cu u).ste with results := [] } := by
    rw [← hx, modSte_cu, if_pos rfl, bayTime_cu, hres, List.erase_cons_head]
  have htile : (x.cu u).ste.tile y.tile = (s.cu u).ste.tile y.tile := by rw [hste]; rfl
  have hcu (v : Nat) (hv : u ≠ v) : x.cu v = s.cu v := by rw [← hx, modSte_cu, if_neg hv, bayTime_cu]
  have hreg (id : RegId) (hid : id ∉ bayClockRegs (bayOfCu u)) : x.reg id = s.reg id := by rw [← hx]; exact bayTime_reg s t hid
  have hland : (s.bayTime (bayOfCu u) t).accumulate u = (x.modSte u fun z => z.setTile y.tile (((s.cu u).ste.tile y.tile).landed y)).stick u false
      (y.flags ||| (accNums (((s.cu u).ste.tile y.tile).cell (16 * y.i + y.j)).num y.sums).2) := by
    rw [accumulate_of_alone (by rwa [bayTime_cu]) hdue, hx, land_of_alone (by rw [hste]) hlast, htile]
  have hlanded (v : Nat) : ((s.bayTime (bayOfCu u) t).accumulate u).cu v =
      if u = v then { x.cu u with ste := (x.cu u).ste.setTile y.tile (((s.cu u).ste.tile y.tile).landed y) } else x.cu v := by
    rw [hland, stick_cu, modSte_cu]
  have hdrain : ((s.bayTime (bayOfCu u) t).accumulate u).drainAdvance u = (s.bayTime (bayOfCu u) t).accumulate u := by
    refine drainAdvance_of_eq (steAdvance_of_none ?_)
    rw [hlanded, if_pos rfl, setTile_queue, hste]
    exact hq
  refine ⟨_, (exec_accumulate hr).trans (congrArg _ hdrain), ?_, ?_, ?_, fun v hv => ?_, fun id hid => ?_,
    (kept_accumulate (by decide) ((kept_atBayTime s _ t).mono (by decide))).touches⟩
  · rw [hlanded, if_pos rfl, setTile_results, hste]
  · rw [hlanded, if_pos rfl, tile_setTile]
  · rw [hland, stick_flags]
    exact congrArg (· ||| _) (hreg _ (by simp [bayClockRegs]))
  · have hne : u ≠ v := fun e => hv (by simp [e])
    rw [hlanded, if_neg hne, hcu v hne]
  · rw [hland, stick_reg _ _ _ fun e => hid (by simp [e])]
    exact hreg id fun h => hid (by simp [h])

/-! ### Checksum comparison (R97, R98) -/

/-- The stitch is void for a checksum mismatch in CU `u`, and the event of one is on its way. -/
def Mismatched (s : State) (u : Nat) : Prop :=
  (s.bay (bayOfCu u)).vote.cause = 3 ∧ ∃ e ∈ s.evt.inflight, e.source = bayOfCu u ∧ e.kind = 0x10 ∧ e.w1 = locCu u % 2 ^ 32

/-- No cause has been found for bay `b` to void the stitch. -/
def Unvoided (s : State) (b : Nat) : Prop := (s.bay b).vote.cause = 0 ∧ (s.bay b).vote.frozen = false

theorem Vote.void_cause_same {v : Vote} {at_ cause : Nat} (h : v.cause = cause) (hc : cause ≠ 0) : (v.void at_ cause).cause = cause := by
  subst h
  unfold Vote.void
  split
  · split
    · rfl
    · split <;> rfl
  · split
    · exact Nat.min_self _
    · rfl

theorem chkMismatch_vote (s : State) (u tile index : Nat) (row hem : Bool) : ((s.chkMismatch u tile index row hem).bay (bayOfCu u)).vote =
    (s.bay (bayOfCu u)).vote.void (s.bay (bayOfCu u)).cycle 3 := by
  rw [State.chkMismatch, detect_bay, State.voteVoid, modBay_bay, if_pos rfl, raiseBay_bay, count_bay, hwSet_bay, hwSet_bay]

theorem chkMismatch_event (s : State) (u tile index : Nat) (row hem : Bool) :
    ∃ e ∈ (s.chkMismatch u tile index row hem).evt.inflight, e.source = bayOfCu u ∧ e.kind = 0x10 ∧ e.w1 = locCu u % 2 ^ 32 := by
  rw [State.chkMismatch, detect_evt]
  exact ⟨_, List.mem_append_right _ (List.mem_singleton.2 rfl), rfl, rfl, rfl⟩

theorem chkMismatch_mismatched {s : State} {u : Nat} (tile index : Nat) (row hem : Bool) (h : Unvoided s (bayOfCu u) ∨ Mismatched s u) :
    Mismatched (s.chkMismatch u tile index row hem) u := by
  refine ⟨?_, chkMismatch_event s u tile index row hem⟩
  rw [chkMismatch_vote]
  rcases h with ⟨hcause, hfrozen⟩ | ⟨hcause, -⟩
  · exact Vote.void_cause hcause hfrozen
  · exact Vote.void_cause_same hcause (by decide)

/-- What one verdict does: 1 counts a skipped comparison, 2 is a mismatch. -/
def State.chkVerdict (s : State) (u tile : Nat) (row : Bool) (v i : Nat) : State :=
  if v = 1 then s.hwSet (.cu u .chkCount) (fun r => satField r 31 16 1) else if v = 2 then s.chkMismatch u tile i row false else s

theorem chkVerdicts_cons (s : State) (u tile : Nat) (row : Bool) (v : Nat) (vs : List Nat) (i : Nat) :
    s.chkVerdicts u tile row (v :: vs) i = (s.chkVerdict u tile row v i).chkVerdicts u tile row vs (i + 1) := rfl

section

variable {s : State} {u : Nat} (tile : Nat) (row : Bool)

theorem chkVerdict_unvoided {v : Nat} (i : Nat) (h : Unvoided s (bayOfCu u)) (hv : v ≠ 2) : Unvoided (s.chkVerdict u tile row v i) (bayOfCu u) := by
  rw [State.chkVerdict, if_neg hv]
  split <;> exact h

theorem chkVerdict_mismatched (v i : Nat) (h : Mismatched s u) : Mismatched (s.chkVerdict u tile row v i) u := by
  unfold State.chkVerdict
  split
  · exact h
  · split
    · exact chkMismatch_mismatched tile i row false (.inr h)
    · exact h

theorem chkVerdict_baysAlone (v i : Nat) : BaysAlone [bayOfCu u] s (s.chkVerdict u tile row v i) := by
  unfold State.chkVerdict
  split
  · exact fun _ _ => rfl
  · split
    · exact chkMismatch_baysAlone s u tile i row false
    · exact fun _ _ => rfl

theorem chkVerdicts_mismatched (vs : List Nat) (i : Nat) (h : Mismatched s u) : Mismatched (s.chkVerdicts u tile row vs i) u := by
  induction vs generalizing s i with
  | nil => exact h
  | cons v vs ih =>
    rw [chkVerdicts_cons]
    exact ih _ (chkVerdict_mismatched tile row v i h)

/-- One verdict of a mismatch is enough. -/
theorem chkVerdicts_of_mismatch {vs : List Nat} (i : Nat) (h : Unvoided s (bayOfCu u)) (hvs : 2 ∈ vs) : Mismatched (s.chkVerdicts u tile row vs i) u := by
  induction vs generalizing s i with
  | nil => cases hvs
  | cons v vs ih =>
    rw [chkVerdicts_cons]
    by_cases hv : v = 2
    · subst hv
      exact chkVerdicts_mismatched tile row vs _ (chkMismatch_mismatched tile i row false (.inl h))
    · exact ih _ (chkVerdict_unvoided tile row i h hv) ((List.mem_cons.1 hvs).resolve_left (Ne.symm hv))

theorem chkVerdicts_baysAlone (vs : List Nat) (i : Nat) : BaysAlone [bayOfCu u] s (s.chkVerdicts u tile row vs i) := by
  induction vs generalizing s i with
  | nil => exact fun _ _ => rfl
  | cons v vs ih =>
    rw [chkVerdicts_cons]
    exact (chkVerdict_baysAlone tile row v i).trans (ih _)

theorem chkVerdicts_of_zero {vs : List Nat} (i : Nat) (hvs : ∀ v ∈ vs, v = 0) : s.chkVerdicts u tile row vs i = s := by
  induction vs generalizing i with
  | nil => rfl
  | cons v vs ih =>
    rw [chkVerdicts_cons, State.chkVerdict, hvs v (List.mem_cons_self ..), if_neg (by decide), if_neg (by decide)]
    exact ih _ fun w hw => hvs w (List.mem_cons_of_mem v hw)

end

/-- The machine with the verdicts of a comparison of tile 0 in: its checksum row, then its checksum column. -/
def State.verdicts (s : State) (u : Nat) (c : Closing) (tol : Nat) : State :=
  (s.chkVerdicts u 0 false (c.rows tol) 0).chkVerdicts u 0 true (c.cols tol) 0

theorem verdicts_of_zero (s : State) (u : Nat) {c : Closing} {tol : Nat} (hrows : ∀ v ∈ c.rows tol, v = 0) (hcols : ∀ v ∈ c.cols tol, v = 0) :
    s.verdicts u c tol = s := by
  rw [State.verdicts, chkVerdicts_of_zero 0 false 0 hrows, chkVerdicts_of_zero 0 true 0 hcols]

theorem verdicts_of_mismatch {s : State} {u : Nat} {c : Closing} {tol : Nat} (h : Unvoided s (bayOfCu u)) (hrows : 2 ∈ c.rows tol) :
    Mismatched (s.verdicts u c tol) u := chkVerdicts_mismatched 0 true _ 0 (chkVerdicts_of_mismatch 0 false 0 h hrows)

theorem kept_verdicts (s : State) (u : Nat) (c : Closing) (tol : Nat) : Kept [.regs, .bays, .evt, .rel] s (s.verdicts u c tol) :=
  kept_chkVerdicts (by decide) (kept_chkVerdicts (by decide) (Kept.refl _ s))

theorem verdicts_baysAlone (s : State) (u : Nat) (c : Closing) (tol : Nat) : BaysAlone [bayOfCu u] s (s.verdicts u c tol) :=
  (chkVerdicts_baysAlone 0 false _ 0).trans (chkVerdicts_baysAlone 0 true _ 0)

section

variable {t u z : Nat} {s : State} {c : Closing} (hr : (s.bayTime (bayOfCu u) t).engineRuns u = true)
  (hz : z = ((s.bayTime (bayOfCu u) t).bay (bayOfCu u)).cycle) (hq : (s.cu u).ste.queue = []) (hc : (s.cu u).ste.tile0.dueClosing z = some c)

include hr hz hq hc

theorem exec_checksumCompare : exec (.checksumCompare t u) s =
    .next (((s.bayTime (bayOfCu u) t).verdicts u c (s.regN (.cu u .chkTol) % 65536)).modSte u fun y => y.setTile 0 ((y.tile 0).afterClosing c)) := by
  have hcompare : (s.bayTime (bayOfCu u) t).compareTile u 0 c =
      ((s.bayTime (bayOfCu u) t).verdicts u c (s.regN (.cu u .chkTol) % 65536)).modSte u fun y => y.setTile 0 ((y.tile 0).afterClosing c) := by
    rw [State.compareTile, bayTime_regN s t (by simp [bayClockRegs]), State.verdicts]
  have hdrain : ((s.bayTime (bayOfCu u) t).compareTile u 0 c).drainAdvance u = (s.bayTime (bayOfCu u) t).compareTile u 0 c := by
    refine drainAdvance_of_eq (steAdvance_of_none ?_)
    rw [hcompare, modSte_cu, if_pos rfl, setTile_queue, (kept_verdicts _ u c _).eq_cu (by decide), bayTime_cu]
    exact hq
  refine congrArg Host.Outcome.next ((if_pos hr).trans ?_)
  simp only [State.checksumCompare, bayTime_cu, ← hz, hc]
  rw [hdrain, hcompare]

/-- A tile whose checksums agree closes (R97). -/
theorem comparison_agrees (hrows : ∀ v ∈ c.rows (s.regN (.cu u .chkTol) % 65536), v = 0) (hcols : ∀ v ∈ c.cols (s.regN (.cu u .chkTol) % 65536), v = 0) :
    Completes (exec (.checksumCompare t u) s) fun r =>
      r.cu u = { s.cu u with ste := { (s.cu u).ste with tile0 := (s.cu u).ste.tile0.afterClosing c } } ∧ LaneFrame u s r := by
  have hexec := exec_checksumCompare hr hz hq hc
  rw [verdicts_of_zero _ u hrows hcols] at hexec
  exact updates_cu hexec

/-- A mismatch voids the stitch and is raised (R98). -/
theorem comparison_fails (hrows : 2 ∈ c.rows (s.regN (.cu u .chkTol) % 65536)) (hv : Unvoided s (bayOfCu u)) :
    Completes (exec (.checksumCompare t u) s) fun r =>
      r.cu u = { s.cu u with ste := { (s.cu u).ste with tile0 := (s.cu u).ste.tile0.afterClosing c } } ∧ Mismatched r u ∧
      CusAlone [u] s r ∧ BaysAlone [bayOfCu u] s r ∧ Touches [.regs, .bays, .cus, .evt, .rel] s r := by
  have hexec := exec_checksumCompare hr hz hq hc
  have hkept := kept_verdicts (s.bayTime (bayOfCu u) t) u c (s.regN (.cu u .chkTol) % 65536)
  have hbays := (bayTime_baysAlone s _ t).trans (verdicts_baysAlone (s.bayTime (bayOfCu u) t) u c (s.regN (.cu u .chkTol) % 65536))
  have hmismatched : Mismatched ((s.bayTime (bayOfCu u) t).verdicts u c (s.regN (.cu u .chkTol) % 65536)) u :=
    verdicts_of_mismatch (by rwa [Unvoided, bayTime_vote]) hrows
  generalize (s.bayTime (bayOfCu u) t).verdicts u c (s.regN (.cu u .chkTol) % 65536) = x at hexec hkept hbays hmismatched
  have hcu (v : Nat) : x.cu v = s.cu v := (hkept.eq_cu (by decide) v).trans (bayTime_cu s _ t v)
  refine ⟨_, hexec, ?_, hmismatched, fun v hv => ?_, hbays,
    (kept_modSte (by decide) (((kept_atBayTime s _ t).mono (by decide)).trans (hkept.mono (by decide)))).touches⟩
  · rw [modSte_cu, if_pos rfl, hcu]
    rfl
  · rw [modSte_cu, if_neg fun e => hv (by simp [e]), hcu]

end

/-- Settles O38: each command of the engine by its own lemma above. -/
theorem tensorEngineWorks : Obligations.TensorEngineWorks := by
  rintro t u z s m x rfl hr hz rfl
  refine ⟨?_, ?_, ?_, ?_⟩
  · rintro side i j d l got ws s' hi hj rfl rfl hsrc hl hp hw
    obtain ⟨r, hexec, hqueue, hloaded, hothers, hseq, hcus, htouches⟩ := transfer_loads hr hz hi hj hsrc hl hp hw
    refine ⟨r, hexec, fun hn => ?_, fun hn => ?_, hloaded, hothers, hseq, hcus, htouches⟩
    · rw [hqueue, SteJob.transferred, if_pos hn]
    · rw [hqueue, SteJob.transferred, if_neg (by rw [hn]; exact Bool.false_ne_true)]
  · intro y a b hrun ha hb hfree
    subst hz
    exact ⟨issue_refused hr hrun ha hb hfree, issue_goes_on hr hrun ha hb hfree, issue_finishes hr hrun ha hb hfree⟩
  · rintro y c hq hres hdue hlast rfl
    subst hz
    obtain ⟨r, hexec, hnone, htile, hflags, hframe⟩ := result_lands hr hq hres hdue hlast
    refine ⟨r, hexec, hnone, ?_, fun k hk => ?_, hflags, hframe⟩
    · rw [htile, landed_cell, if_pos rfl, Acc.landed]
    · rw [htile, landed_cell, if_neg (Ne.symm hk)]
  · rintro c tol row col y hq hc rfl rfl rfl rfl
    refine ⟨fun hcol hrow => comparison_agrees hr hz hq hc ?_ ?_, ?_⟩
    · exact List.forall_mem_map.2 fun j hj => hcol j (List.mem_range.1 hj)
    · exact List.forall_mem_map.2 fun i hi => hrow i (List.mem_range.1 hi)
    · rintro ⟨j, hj, hcol⟩ hcause hfrozen
      obtain ⟨r, hexec, hcu, ⟨hthree, hevent⟩, hframe⟩ :=
        comparison_fails hr hz hq hc (List.mem_map.2 ⟨j, List.mem_range.2 hj, hcol⟩) ⟨hcause, hfrozen⟩
      exact ⟨r, hexec, hcu, hthree, hevent, hframe⟩

end Sys2Proof.Machine

/-! PROOF. Family 07_conditional_dispatch: links, seams and what decides where a payload moves (R209-R224), for O42. -/

namespace Sys2Proof.Machine

/-! ### A CU's end of its links -/

/-- The CU once the head of its inbound link `l` has left in cycle `t`. -/
def Cu.gave (cu : Cu) (l t : Nat) : Cu := { cu with fab := { cu.fab with
  inq := cu.fab.inq.set l ((cu.fab.q l).drop 1)
  popped := cu.fab.popped.set l (t, (if (cu.fab.popped.get (0, 0) l).1 = t then (cu.fab.popped.get (0, 0) l).2 else 0) + 1)
  hurt := cu.fab.hurt.filter (· ≠ l) } }

/-- The CU once a credit of outbound link `l`, to be used from cycle `k`, has started back to it (R222). -/
def Cu.owed (cu : Cu) (l k : Nat) : Cu := { cu with fab := { cu.fab with
  returning := cu.fab.returning.set l (cu.fab.returning.get [] l ++ [k]) } }

/-- The CU once it has sent on outbound link `l` in cycle `t`. -/
def Cu.sent (cu : Cu) (l t : Nat) : Cu := { cu with fab := { cu.fab with sentAt := cu.fab.sentAt.set l (t + 1) } }

/-- The CU once a payload, there from cycle `t`, is on its inbound link `l` (R211). -/
def Cu.received (cu : Cu) (l : Nat) (x : Flit) (t : Nat) : Cu := { cu with fab := { cu.fab with inq := cu.fab.inq.set l (cu.fab.q l ++ [(x, t)]) } }

section

variable {s : State} {u v w l o : Nat}

theorem ne_of_isSeam (hs : isSeam u l = true) (hn : neighbour u l = some v) : v ≠ u := by
  rintro rfl
  simp [isSeam, hn] at hs

/-- A link within the bay and one that crosses a seam lead to two CUs. -/
theorem far_ne_of_seam_of_inner (hs : isSeam u l = true) (hw : neighbour u l = some w) (ho : isSeam u o = false) (hv : neighbour u o = some v) : w ≠ v := by
  rintro rfl
  simp only [isSeam, hw, bne_iff_ne, ne_eq] at hs
  simp only [isSeam, hv, bne_eq_false_iff_eq] at ho
  exact hs ho

/-- The cycle from which CU `v` may use the credit of a payload that leaves CU `u` now (R222). -/
def State.creditBack (s : State) (u v : Nat) : Nat :=
  creditAt (s.bay (bayOfCu u)).cycle (max 1 (s.mhz (bayOfCu u))) (max 1 (s.mhz (bayOfCu v)))

theorem popLink_of_inner (hs : isSeam u l = false) : s.popLink u l = s.modCu u (·.gave l (s.bay (bayOfCu u)).cycle) := by
  unfold State.popLink
  simp only [hs, Bool.false_eq_true, if_false]
  split <;> rfl

theorem popLink_of_seam (hs : isSeam u l = true) (hn : neighbour u l = some w) : s.popLink u l =
    (s.modCu u (·.gave l (s.bay (bayOfCu u)).cycle)).modCu w (·.owed (facing l) (s.creditBack u w)) := by
  simp only [State.popLink, hn, hs, if_true]
  rfl

/-- Of the CUs, the head of a link that leaves changes its own and, over a seam, the far one (R219, R222). -/
theorem popLink_cu (s : State) (u l v : Nat) : (s.popLink u l).cu v =
    if u = v then (s.cu u).gave l (s.bay (bayOfCu u)).cycle
    else if isSeam u l = true ∧ neighbour u l = some v then (s.cu v).owed (facing l) (s.creditBack u v) else s.cu v := by
  cases hs : isSeam u l
  · rw [popLink_of_inner hs, modCu_cu, if_neg (c := false = true ∧ _) (by simp)]
  · obtain ⟨w, hw⟩ : ∃ w, neighbour u l = some w := by
      cases hn : neighbour u l
      · simp [isSeam, hn] at hs
      · exact ⟨_, rfl⟩
    have hne := ne_of_isSeam hs hw
    rw [popLink_of_seam hs hw, modCu_cu, modCu_cu, modCu_cu, if_neg (Ne.symm hne), hw]
    by_cases hwv : w = v
    · subst hwv
      rw [if_pos rfl, if_neg (Ne.symm hne), if_pos ⟨rfl, rfl⟩]
    · rw [if_neg hwv, if_neg (c := true = true ∧ some w = some v) (by simpa using hwv)]

theorem popLink_cu_self (s : State) (u l : Nat) : (s.popLink u l).cu u = (s.cu u).gave l (s.bay (bayOfCu u)).cycle := by
  rw [popLink_cu, if_pos rfl]

theorem popLink_cusTaken (s : State) (u l : Nat) : CusTaken [u] u l s (s.popLink u l) := fun v hv hfar => by
  rw [popLink_cu, if_neg fun e => hv (by simp [e]), if_neg hfar]

/-- What a payload that leaves a link does not change of another CU: all but the credits on their way to it. -/
theorem popLink_cu_other (s : State) (l : Nat) (h : u ≠ v) : ∃ k, (s.popLink u l).cu v = { s.cu v with fab := { (s.cu v).fab with returning := k } } := by
  rw [popLink_cu, if_neg h]
  split <;> exact ⟨_, rfl⟩

theorem kept_atPopLink (s : State) (u l : Nat) : Kept [.cus] s (s.popLink u l) := kept_popLink (List.Subset.refl _) (Kept.refl _ s)

/-- Within the bay a payload is in the far queue in the next cycle (R211). -/
theorem sendLink_of_inner (x : Flit) (hn : neighbour u o = some v) (hs : isSeam u o = false) : s.sendLink u o x =
    (s.modCu u (·.sent o (s.bay (bayOfCu u)).cycle)).modCu v (·.received (facing o) x ((s.bay (bayOfCu u)).cycle + 1)) := by
  simp only [State.sendLink, hn, hs, Bool.false_eq_true, if_false]
  rfl

theorem sendLink_cu_of_inner (x : Flit) (hn : neighbour u o = some v) (hs : isSeam u o = false) (hv : v ≠ u) (w : Nat) : (s.sendLink u o x).cu w =
    if v = w then (s.cu v).received (facing o) x ((s.bay (bayOfCu u)).cycle + 1)
    else if u = w then (s.cu u).sent o (s.bay (bayOfCu u)).cycle else s.cu w := by
  rw [sendLink_of_inner x hn hs, modCu_cu, modCu_cu, modCu_cu, if_neg (Ne.symm hv)]

theorem kept_sendLink_of_inner (x : Flit) (hn : neighbour u o = some v) (hs : isSeam u o = false) : Kept [.cus] s (s.sendLink u o x) := by
  rw [sendLink_of_inner x hn hs]
  exact kept_modCu (by decide) (kept_modCu (by decide) (Kept.refl _ s))

end

/-! ### What decides where a payload moves -/

/-- The clocks of the bays, their power, the session and the registers of the links are the same: what moves differs by the queues alone. -/
structure SameFlow (s t : State) : Prop where
  cycle : ∀ b, (t.bay b).cycle = (s.bay b).cycle
  power : ∀ b, (t.bay b).power = (s.bay b).power
  stitch : t.stitch = s.stitch
  ctxs : t.ctxs = s.ctxs
  route : ∀ u e, t.reg (.route u e) = s.reg (.route u e)
  linkCfg : ∀ u, t.reg (.cu u .linkCfg) = s.reg (.cu u .linkCfg)

theorem sameFlow_of_kept {l : List Comp} {s t : State} (h : Kept l s t) (hb : .bays ∉ l) (hs : .stitch ∉ l) (hc : .ctxs ∉ l) (hr : .regs ∉ l) :
    SameFlow s t :=
  ⟨fun b => by rw [h.eq_bay hb], fun b => by rw [h.eq_bay hb], h.eq_stitch hs, h.eq_ctxs hc, fun _ _ => h.eq_reg hr _, fun _ => h.eq_reg hr _⟩

section

variable {s t : State} (h : SameFlow s t) {u v l o : Nat}

include h

theorem SameFlow.seamShut (u l : Nat) : t.seamShut u l = s.seamShut u l := by
  simp only [State.seamShut, State.farBay, State.ctx?, State.active, h.power, h.stitch, h.ctxs]

theorem SameFlow.routeWord (he : (t.cu u).fab.entry = (s.cu u).fab.entry) : t.routeWord u = s.routeWord u := by
  rw [State.routeWord, State.routeWord, State.regN, State.regN, h.cycle, he, h.route]

theorem SameFlow.depth (u l : Nat) : t.depth u l = s.depth u l := by
  rw [State.depth, State.depth, State.regN, State.regN, h.linkCfg]

/-- A head is there in the one as in the other, where the link's queue and its departures are the same. -/
theorem SameFlow.headOf (hq : (t.cu u).fab.q l = (s.cu u).fab.q l)
    (hp : Assoc.get (0, 0) (t.cu u).fab.popped l = Assoc.get (0, 0) (s.cu u).fab.popped l) : t.headOf u l = s.headOf u l := by
  simp only [State.headOf, h.cycle, h.seamShut, hq, hp]

theorem SameFlow.credit (hn : neighbour u o = some v) (hs : isSeam u o = false) (ha : (t.cu u).fab.sentAt = (s.cu u).fab.sentAt)
    (hp : (t.cu v).fab.popped = (s.cu v).fab.popped) (hq : (t.cu v).fab.inq = (s.cu v).fab.inq) : t.credit u o = s.credit u o := by
  simp only [State.credit, hn, hs, Fab.q, h.cycle, h.depth, ha, hp, hq, Bool.false_eq_true, if_false] <;> rfl

end

end Sys2Proof.Machine

/-! PROOF. Family 07_conditional_dispatch: a payload crosses a link (R211, R215, R222, R400), for O42. -/

namespace Sys2Proof.Machine

/-! ### The receiver's check (R211, R400) -/

/-- `k` words of CU `u`'s links are corrected. -/
def State.correctedWords (s : State) (u k : Nat) : State :=
  (List.range k).foldl (fun x _ => x.correctedWord (bayOfCu u) (locCu u) 3 0) s

theorem correctedWords_succ (s : State) (u k : Nat) :
    s.correctedWords u (k + 1) = (s.correctedWords u k).correctedWord (bayOfCu u) (locCu u) 3 0 := by
  rw [State.correctedWords, List.range_succ, List.foldl_append]
  rfl

theorem kept_correctedWords (s : State) (u k : Nat) : Kept [.regs, .bays] s (s.correctedWords u k) :=
  (Kept.refl _ s).foldl fun _ _ h => kept_correctedWord (List.Subset.refl _) h

/-- Of a bay, a corrected word changes the hem's records alone. -/
theorem correctedWords_bay (s : State) (u k q : Nat) : ∃ h, (s.correctedWords u k).bay q = { s.bay q with hem := h } :=
  foldl_keeps (P := fun x : State => ∃ h, x.bay q = { s.bay q with hem := h }) ⟨_, rfl⟩ fun x _ _ ⟨h, hx⟩ => by
    rw [State.correctedWord, modBay_bay, count_bay, count_bay, count_bay, count_bay]
    split
    · rename_i e
      rw [e, hx]
      exact ⟨_, rfl⟩
    · exact ⟨h, hx⟩

theorem correctedWord_regsAlone (s : State) (b loc store off : Nat) : RegsAlone [.bay b .relCe, .rel .ce] s (s.correctedWord b loc store off) := by
  intro id hid
  simp only [List.mem_cons, List.not_mem_nil, or_false, not_or] at hid
  rw [State.correctedWord, modBay_reg, count_reg, if_neg (Ne.symm hid.2), count_reg, if_neg (Ne.symm hid.1)]

theorem correctedWords_regsAlone (s : State) (u k : Nat) : RegsAlone [.bay (bayOfCu u) .relCe, .rel .ce] s (s.correctedWords u k) :=
  foldl_keeps (P := RegsAlone [.bay (bayOfCu u) .relCe, .rel .ce] s) (fun _ _ => rfl) fun x _ _ h => h.trans (correctedWord_regsAlone x _ _ _ _)

/-- Each corrected word counts once for the bay and once for the module (R400). -/
theorem correctedWord_counts {id : RegId} (s : State) {b : Nat} (loc store off : Nat) (h : id = .bay b .relCe ∨ id = .rel .ce) :
    (s.correctedWord b loc store off).reg id = satReg (s.reg id) 1 := by
  rcases h with rfl | rfl
  · rw [State.correctedWord, modBay_reg, count_reg, if_neg (by simp), count_reg, if_pos rfl]
  · rw [State.correctedWord, modBay_reg, count_reg, if_pos rfl, count_reg, if_neg (by simp)]

theorem correctedWords_counts {id : RegId} {s : State} {u n : Nat} (hn : 0 < n) (h : id = .bay (bayOfCu u) .relCe ∨ id = .rel .ce) :
    (s.correctedWords u (min 2 n)).reg id = if n = 1 then satReg (s.reg id) 1 else satReg (satReg (s.reg id) 1) 1 := by
  have hone (x : State) : (x.correctedWords u 1).reg id = satReg (x.reg id) 1 := correctedWord_counts x _ _ _ h
  by_cases h1 : n = 1
  · rw [if_pos h1, h1]
    exact hone s
  · rw [if_neg h1, Nat.min_eq_left (by omega), correctedWords_succ, correctedWord_counts _ _ _ _ h, hone]

/-- The CU whose link `l` holds a payload that has been found to be in error. -/
def Cu.hurtAt (cu : Cu) (l : Nat) : Cu := { cu with fab := { cu.fab with hurt := l :: cu.fab.hurt } }

/-- The CU whose link `l` holds payload `x` at its head, as it was received. -/
def Cu.headAs (cu : Cu) (l : Nat) (x : Flit) : Cu := { cu with fab := { cu.fab with
  inq := cu.fab.inq.set l (match cu.fab.q l with | (_, t) :: rest => (x, t) :: rest | [] => []) } }

section

variable {s : State} {u l : Nat}

theorem linkChecked_of_good : s.linkChecked u l ⟨0, none⟩ = s := if_pos (.inr ⟨rfl, rfl⟩)

theorem linkChecked_of_corrected {n : Nat} (hn : 0 < n) (hl : l ∉ (s.cu u).fab.hurt) :
    s.linkChecked u l ⟨n, none⟩ = (s.modCu u (·.hurtAt l)).correctedWords u (min 2 n) := by
  have hnot : ¬(((s.cu u).fab.hurt.contains l = true) ∨ (n = 0 ∧ (none : Option (Payload × Nat)) = none)) := by
    rw [List.contains_iff_mem]
    rintro (h | ⟨h, -⟩)
    · exact hl h
    · omega
  exact if_neg hnot

theorem linkChecked_of_bad (y : Payload) (tag n : Nat) (hl : l ∉ (s.cu u).fab.hurt) :
    s.linkChecked u l ⟨n, some (y, tag)⟩ = ((((s.modCu u (·.hurtAt l)).correctedWords u (min 2 n)).modCu u (·.headAs l ⟨y, tag⟩)).uncorrectableWord
      (bayOfCu u) (locCu u) 3 (u % 4) (u / 4) 0) := by
  have hnot : ¬(((s.cu u).fab.hurt.contains l = true) ∨ (n = 0 ∧ some (y, tag) = none)) := by
    rw [List.contains_iff_mem]
    rintro (h | ⟨-, h⟩)
    · exact hl h
    · cases h
  exact if_neg hnot

/-! ### An uncorrectable word (R401) -/

theorem uncorrectableWord_vote (s : State) (b loc store cu c off : Nat) :
    ((s.uncorrectableWord b loc store cu c off).bay b).vote = (s.bay b).vote.void (s.bay b).cycle 2 := by
  have hrecord (x : State) (r : RegId) (k v : Nat) : (x.record r k v).bay b = x.bay b :=
    (kept_record (List.Subset.refl _) (Kept.refl _ x)).eq_bay (by decide) b
  rw [State.uncorrectableWord, detect_bay, State.voteVoid, modBay_bay, if_pos rfl, raiseBay_bay, hrecord, count_bay, count_bay]

theorem uncorrectableWord_bay (s : State) (b loc store cu c off q : Nat) :
    (s.bay q).OtherCause ((s.uncorrectableWord b loc store cu c off).bay q) := by
  have hrecord (x : State) (r : RegId) (k v : Nat) : (x.record r k v).bay q = x.bay q :=
    (kept_record (List.Subset.refl _) (Kept.refl _ x)).eq_bay (by decide) q
  rw [State.uncorrectableWord, detect_bay]
  refine Bay.OtherCause.trans ?_ (voteVoid_bay _ _ _ q)
  rw [raiseBay_bay, hrecord, count_bay, count_bay]
  exact .refl _

theorem uncorrectableWord_event (s : State) (b loc store cu c off : Nat) : ∃ e ∈ (s.uncorrectableWord b loc store cu c off).evt.inflight,
    e.source = b ∧ e.kind = 0x26 ∧ e.w0 = loc % 2 ^ 32 ∧ e.w1 = store % 2 ^ 32 := by
  rw [State.uncorrectableWord, detect_evt]
  exact ⟨_, List.mem_append_right _ (List.mem_singleton.2 rfl), rfl, rfl, rfl, rfl⟩

/-! ### What a check leaves -/

theorem sameFlow_correctedWords (s : State) (u k : Nat) : SameFlow s (s.correctedWords u k) := by
  have hkept := kept_correctedWords s u k
  refine ⟨fun q => ?_, fun q => ?_, hkept.eq_stitch (by decide), hkept.eq_ctxs (by decide), fun _ _ => ?_, fun _ => ?_⟩
  · obtain ⟨h, hbay⟩ := correctedWords_bay s u k q
    rw [hbay]
  · obtain ⟨h, hbay⟩ := correctedWords_bay s u k q
    rw [hbay]
  · exact correctedWords_regsAlone s u k _ (by simp)
  · exact correctedWords_regsAlone s u k _ (by simp)

theorem sameFlow_uncorrectableWord (s : State) (b loc store cu c off : Nat) : SameFlow s (s.uncorrectableWord b loc store cu c off) := by
  have hkept : Kept [.regs, .bays, .evt, .rel] s (s.uncorrectableWord b loc store cu c off) := kept_uncorrectableWord (List.Subset.refl _) (Kept.refl _ s)
  refine ⟨fun q => ?_, fun q => ?_, hkept.eq_stitch (by decide), hkept.eq_ctxs (by decide), fun _ _ => ?_, fun _ => ?_⟩
  · obtain ⟨_, _, _, _, hbay⟩ := uncorrectableWord_bay s b loc store cu c off q
    rw [hbay]
  · obtain ⟨_, _, _, _, hbay⟩ := uncorrectableWord_bay s b loc store cu c off q
    rw [hbay]
  · exact uncorrectableWord_reg s _ _ _ _ _ (by simp [errorRegs])
  · exact uncorrectableWord_reg s _ _ _ _ _ (by simp [errorRegs])

theorem SameFlow.trans {s t r : State} (h : SameFlow s t) (h' : SameFlow t r) : SameFlow s r :=
  ⟨fun b => (h'.cycle b).trans (h.cycle b), fun b => (h'.power b).trans (h.power b), h'.stitch.trans h.stitch, h'.ctxs.trans h.ctxs,
    fun u e => (h'.route u e).trans (h.route u e), fun u => (h'.linkCfg u).trans (h.linkCfg u)⟩

theorem sameFlow_modCu (s : State) (u : Nat) (f : Cu → Cu) : SameFlow s (s.modCu u f) :=
  ⟨fun _ => rfl, fun _ => rfl, rfl, rfl, fun _ _ => rfl, fun _ => rfl⟩

end

/-! ### The transfer (R215) -/

section

variable {s : State} {t u l o v : Nat} {x : Flit}

theorem exec_linkPayloadTransfer (hr : (s.bayTime (bayOfCu u) t).engineRuns u = true) (k : LinkCheck) :
    exec (.linkPayloadTransfer t u l k) s = .next ((s.bayTime (bayOfCu u) t).linkTransfer u l k) := congrArg Host.Outcome.next (if_pos hr)

theorem linkTransfer_of_head (hl : l < 4) (hx : s.headOf u l = some x) (k : LinkCheck) : s.linkTransfer u l k = (s.linkChecked u l k).linkMove u l := by
  unfold State.linkTransfer
  split
  · omega
  · omega
  · omega
  · omega
  · simp only [hx]

/-- A payload that is only forwarded, over one link, goes there as soon as the link takes it. -/
theorem linkMove_of_forward (hk : sinkOf (s.routeWord u) l = 0) (hx : s.headOf u l = some x) (ho : outsOf (s.routeWord u) (l + 1) = [o]) :
    s.linkMove u l = if s.credit u o then (s.popLink u l).sendLink u o x else s := by
  simp [State.linkMove, hx, hk, ho, State.creditAll, State.sendAll]

/-- What is left once link `l`'s head has gone out of link `o` within the bay. -/
theorem forwarded (hn : neighbour u o = some v) (hv : v ≠ u) (ho : isSeam u o = false) {r : State} (hr : r = (s.popLink u l).sendLink u o x) :
    Kept [.cus] s r ∧ r.cu v = (s.cu v).received (facing o) x ((s.bay (bayOfCu u)).cycle + 1) ∧
      r.cu u = ((s.cu u).gave l (s.bay (bayOfCu u)).cycle).sent o (s.bay (bayOfCu u)).cycle ∧
      (∀ w, isSeam u l = true → neighbour u l = some w → r.cu w = (s.cu w).owed (facing l) (s.creditBack u w)) ∧ CusTaken [u, v] u l s r := by
  subst hr
  have hpop := kept_atPopLink s u l
  have hcu (w : Nat) := sendLink_cu_of_inner (s := s.popLink u l) x hn ho hv w
  simp only [hpop.eq_bay (show Comp.bays ∉ [Comp.cus] by decide)] at hcu
  refine ⟨hpop.trans (kept_sendLink_of_inner x hn ho), ?_, ?_, fun w hs hw => ?_, fun w hw hfar => ?_⟩
  · rw [hcu, if_pos rfl, popLink_cu, if_neg (Ne.symm hv), if_neg fun ⟨hs, hw⟩ => far_ne_of_seam_of_inner hs hw ho hn rfl]
  · rw [hcu, if_neg hv, if_pos rfl, popLink_cu_self]
  · rw [hcu, if_neg (Ne.symm (far_ne_of_seam_of_inner hs hw ho hn)), if_neg (Ne.symm (ne_of_isSeam hs hw)), popLink_cu,
      if_neg (Ne.symm (ne_of_isSeam hs hw)), if_pos ⟨hs, hw⟩]
  · rw [List.mem_cons, List.mem_singleton, not_or] at hw
    rw [hcu, if_neg (Ne.symm hw.2), if_neg (Ne.symm hw.1), popLink_cu, if_neg (Ne.symm hw.1), if_neg hfar]

@[simp] theorem received_q (cu : Cu) (l : Nat) (x : Flit) (z : Nat) : Assoc.get [] (cu.received l x z).fab.inq l = Assoc.get [] cu.fab.inq l ++ [(x, z)] := by
  rw [Cu.received, Assoc.get_set, if_pos rfl]
  rfl

@[simp] theorem gave_q (cu : Cu) (l z : Nat) : Assoc.get [] (cu.gave l z).fab.inq l = (Assoc.get [] cu.fab.inq l).drop 1 := by
  rw [Cu.gave, Assoc.get_set, if_pos rfl]
  rfl

@[simp] theorem owed_returning (cu : Cu) (l k : Nat) : Assoc.get [] (cu.owed l k).fab.returning l = Assoc.get [] cu.fab.returning l ++ [k] := by
  rw [Cu.owed, Assoc.get_set, if_pos rfl]

end

end Sys2Proof.Machine

/-! PROOF. Family 07_conditional_dispatch: LINK_PAYLOAD_TRANSFER (R211, R215), for O42. -/

namespace Sys2Proof.Machine

/-! ### A head that has been checked -/

section

variable {s s' : State} {u l o v : Nat} {x y : Flit}

/-- A link has a head when a payload has arrived, none has left in the cycle, and no shut seam holds it (R211, R224). -/
theorem headOf_eq_some : s.headOf u l = some x ↔ ∃ k rest, (s.cu u).fab.q l = (x, k) :: rest ∧ k ≤ (s.bay (bayOfCu u)).cycle ∧
    ¬((Assoc.get (0, 0) (s.cu u).fab.popped l).1 = (s.bay (bayOfCu u)).cycle ∧ 0 < (Assoc.get (0, 0) (s.cu u).fab.popped l).2) ∧
    s.seamShut u l = false := by
  unfold State.headOf
  dsimp only
  split
  · rename_i y k rest hq
    rw [hq]
    split
    · rename_i h
      refine ⟨fun e => ⟨k, rest, by rw [Option.some.inj e], h⟩, fun ⟨k', rest', e, _⟩ => ?_⟩
      cases e
      rfl
    · rename_i h
      refine ⟨fun e => (nomatch e), fun ⟨k', rest', e, h'⟩ => ?_⟩
      cases e
      exact absurd h' h
  · rename_i hq
    rw [hq]
    exact ⟨fun e => (nomatch e), fun ⟨_, _, e, _⟩ => (nomatch e)⟩

/-- `s'` is `s` once a payload of CU `u`'s links has been checked: of the CUs, `u` alone has changed, and of it what its inbound queues hold and which
of them are in error. -/
structure Checked (u : Nat) (s s' : State) : Prop where
  flow : SameFlow s s'
  entry : (s'.cu u).fab.entry = (s.cu u).fab.entry
  popped : (s'.cu u).fab.popped = (s.cu u).fab.popped
  sentAt : (s'.cu u).fab.sentAt = (s.cu u).fab.sentAt
  cus : CusAlone [u] s s'

theorem Checked.headOf_of_same (h : Checked u s s') (hq : (s'.cu u).fab.q l = (s.cu u).fab.q l) : s'.headOf u l = s.headOf u l := by
  exact h.flow.headOf hq (by rw [h.popped])

/-- The head stands there as it was received. -/
theorem Checked.headOf_of_bad (h : Checked u s s') (hx : s.headOf u l = some x)
    (hq : (s'.cu u).fab.q l = (match (s.cu u).fab.q l with | (_, t) :: rest => (y, t) :: rest | [] => [])) : s'.headOf u l = some y := by
  obtain ⟨k, rest, hs, hk, hp, hshut⟩ := headOf_eq_some.1 hx
  refine headOf_eq_some.2 ⟨k, rest, by rw [hq, hs], by rwa [h.flow.cycle], ?_, by rwa [h.flow.seamShut]⟩
  rwa [h.flow.cycle, h.popped]

/-- After its check a payload moves as it would have before (R211). -/
theorem Checked.linkMove (h : Checked u s s') (hk : sinkOf (s.routeWord u) l = 0) (ho : outsOf (s.routeWord u) (l + 1) = [o])
    (hn : neighbour u o = some v) (hv : v ≠ u) (hs : isSeam u o = false) (hy : s'.headOf u l = some y) :
    s'.linkMove u l = if s.credit u o then (s'.popLink u l).sendLink u o y else s' := by
  have hroute : s'.routeWord u = s.routeWord u := h.flow.routeWord h.entry
  have hfar : s'.cu v = s.cu v := h.cus v (by simpa using hv)
  have hcredit : s'.credit u o = s.credit u o := h.flow.credit hn hs h.sentAt (by rw [hfar]) (by rw [hfar])
  rw [linkMove_of_forward (hroute ▸ hk) hy (hroute ▸ ho), hcredit]

theorem checked_correctedWords (s : State) (u l k : Nat) : Checked u s ((s.modCu u (·.hurtAt l)).correctedWords u k) := by
  have hcu (v : Nat) : ((s.modCu u (·.hurtAt l)).correctedWords u k).cu v = if u = v then (s.cu u).hurtAt l else s.cu v := by
    rw [(kept_correctedWords _ u k).eq_cu (by decide), modCu_cu]
  have hself := (hcu u).trans (if_pos rfl)
  exact ⟨(sameFlow_modCu s u _).trans (sameFlow_correctedWords _ u k), by rw [hself]; rfl, by rw [hself]; rfl, by rw [hself]; rfl,
    fun v hv => by rw [hcu, if_neg fun e => hv (by simp [e])]⟩

section

variable {n : Nat} (hhurt : l ∉ (s.cu u).fab.hurt)

include hhurt

/-- What a check that corrects codewords leaves (R211, R400). -/
theorem linkChecked_corrects (hn : 0 < n) (hx : s.headOf u l = some x) :
    Checked u s (s.linkChecked u l ⟨n, none⟩) ∧ (s.linkChecked u l ⟨n, none⟩).headOf u l = some x ∧
      (∀ id, id = .bay (bayOfCu u) .relCe ∨ id = .rel .ce →
        (s.linkChecked u l ⟨n, none⟩).reg id = if n = 1 then satReg (s.reg id) 1 else satReg (satReg (s.reg id) 1) 1) ∧
      RegsAlone [.bay (bayOfCu u) .relCe, .rel .ce] s (s.linkChecked u l ⟨n, none⟩) ∧
      ((s.linkChecked u l ⟨n, none⟩).bay (bayOfCu u)).vote = (s.bay (bayOfCu u)).vote ∧ Kept [.regs, .bays, .cus] s (s.linkChecked u l ⟨n, none⟩) := by
  rw [linkChecked_of_corrected hn hhurt]
  have hsteady := kept_correctedWords (s.modCu u (·.hurtAt l)) u (min 2 n)
  have hchecked := checked_correctedWords s u l (min 2 n)
  refine ⟨hchecked, ?_, fun id hid => correctedWords_counts hn hid, ?_, ?_, (kept_modCu (by decide) (Kept.refl _ s)).trans (hsteady.mono (by decide))⟩
  · rw [hchecked.headOf_of_same, hx]
    rw [hsteady.eq_cu (by decide), modCu_cu, if_pos rfl]
    rfl
  · exact fun id hid => correctedWords_regsAlone (s.modCu u (·.hurtAt l)) u (min 2 n) id hid
  · obtain ⟨h, hbay⟩ := correctedWords_bay (s.modCu u (·.hurtAt l)) u (min 2 n) (bayOfCu u)
    rw [hbay, modCu_bay]

/-- What a check that finds an uncorrectable codeword leaves (R211). -/
theorem linkChecked_voids (y : Payload) (tag n : Nat) (hx : s.headOf u l = some x) (hv : Unvoided s (bayOfCu u)) :
    Checked u s (s.linkChecked u l ⟨n, some (y, tag)⟩) ∧ (s.linkChecked u l ⟨n, some (y, tag)⟩).headOf u l = some ⟨y, tag⟩ ∧
      ((s.linkChecked u l ⟨n, some (y, tag)⟩).bay (bayOfCu u)).vote.cause = 2 ∧
      ∃ e ∈ (s.linkChecked u l ⟨n, some (y, tag)⟩).evt.inflight, e.source = bayOfCu u ∧ e.kind = 0x26 ∧ e.w0 = locCu u % 2 ^ 32 ∧ e.w1 = 3 := by
  rw [linkChecked_of_bad y tag n hhurt]
  have hword (z : State) := kept_uncorrectableWord (b := bayOfCu u) (loc := locCu u) (store := 3) (cu := u % 4) (c := u / 4) (off := 0)
    (List.Subset.refl _) (Kept.refl _ z)
  have hsteady := kept_correctedWords (s.modCu u (·.hurtAt l)) u (min 2 n)
  have hcu (w : Nat) : ((((s.modCu u (·.hurtAt l)).correctedWords u (min 2 n)).modCu u (·.headAs l ⟨y, tag⟩)).uncorrectableWord (bayOfCu u) (locCu u) 3
      (u % 4) (u / 4) 0).cu w = if u = w then ((s.cu u).hurtAt l).headAs l ⟨y, tag⟩ else s.cu w := by
    rw [(hword _).eq_cu (by decide), modCu_cu, hsteady.eq_cu (by decide), hsteady.eq_cu (by decide), modCu_cu, modCu_cu, if_pos rfl]
    split <;> rfl
  have hchecked : Checked u s ((((s.modCu u (·.hurtAt l)).correctedWords u (min 2 n)).modCu u (·.headAs l ⟨y, tag⟩)).uncorrectableWord (bayOfCu u)
      (locCu u) 3 (u % 4) (u / 4) 0) := by
    have hself := (hcu u).trans (if_pos rfl)
    exact ⟨((checked_correctedWords s u l _).flow.trans (sameFlow_modCu _ u _)).trans (sameFlow_uncorrectableWord _ _ _ _ _ _ _), by rw [hself]; rfl,
      by rw [hself]; rfl, by rw [hself]; rfl, fun w hw => by rw [hcu, if_neg fun e => hw (by simp [e])]⟩
  refine ⟨hchecked, hchecked.headOf_of_bad hx ?_, ?_, uncorrectableWord_event _ _ _ _ _ _ _⟩
  · rw [hcu, if_pos rfl, Cu.headAs, Fab.q, Assoc.get_set, if_pos rfl]
    rfl
  · obtain ⟨h, hbay⟩ := correctedWords_bay (s.modCu u (·.hurtAt l)) u (min 2 n) (bayOfCu u)
    rw [uncorrectableWord_vote, modCu_bay, hbay, modCu_bay]
    exact Vote.void_cause hv.1 hv.2

end

end

/-! ### The command -/

section

variable {s : State} {t u z l o v : Nat} {x : Flit} (hr : (s.bayTime (bayOfCu u) t).engineRuns u = true)
  (hz : z = ((s.bayTime (bayOfCu u) t).bay (bayOfCu u)).cycle) (hl : l < 4) (hk : sinkOf ((s.bayTime (bayOfCu u) t).routeWord u) l = 0)
  (hx : (s.bayTime (bayOfCu u) t).headOf u l = some x) (ho : outsOf ((s.bayTime (bayOfCu u) t).routeWord u) (l + 1) = [o])

include hr hl hk hx ho

theorem exec_transfer_of_good : exec (.linkPayloadTransfer t u l ⟨0, none⟩) s = .next (if (s.bayTime (bayOfCu u) t).credit u o
    then ((s.bayTime (bayOfCu u) t).popLink u l).sendLink u o x else s.bayTime (bayOfCu u) t) := by
  rw [exec_linkPayloadTransfer hr, linkTransfer_of_head hl hx, linkChecked_of_good, linkMove_of_forward hk hx ho]

/-- Without credit nothing moves (R215, R219). -/
theorem transfer_waits (hc : (s.bayTime (bayOfCu u) t).credit u o = false) :
    Completes (exec (.linkPayloadTransfer t u l ⟨0, none⟩) s) fun r => r.cus = s.cus ∧ Touches [.regs, .bays] s r := by
  refine ⟨_, exec_transfer_of_good hr hl hk hx ho, ?_⟩
  rw [hc, if_neg Bool.false_ne_true]
  exact ⟨bayTime_cus s _ t, (kept_atBayTime s _ t).touches⟩

variable (hn : neighbour u o = some v) (hv : v ≠ u) (hs : isSeam u o = false)

include hn hv hs hz

/-- A good payload moves to the far end of its one outbound link. -/
theorem transfer_moves (hc : (s.bayTime (bayOfCu u) t).credit u o = true) : Completes (exec (.linkPayloadTransfer t u l ⟨0, none⟩) s) fun r =>
    Assoc.get [] (r.cu v).fab.inq (facing o) = Assoc.get [] (s.cu v).fab.inq (facing o) ++ [(x, z + 1)] ∧
    Assoc.get [] (r.cu u).fab.inq l = (Assoc.get [] (s.cu u).fab.inq l).drop 1 ∧ (r.cu u).steer = (s.cu u).steer ∧
    (∀ w, isSeam u l = true → neighbour u l = some w → Assoc.get [] (r.cu w).fab.returning (facing l) = Assoc.get [] (s.cu w).fab.returning (facing l) ++
      [creditAt z (max 1 ((s.bayTime (bayOfCu u) t).mhz (bayOfCu u))) (max 1 ((s.bayTime (bayOfCu u) t).mhz (bayOfCu w)))]) ∧
    CusTaken [u, v] u l s r ∧ RegsAlone (bayClockRegs (bayOfCu u)) s r ∧ Touches [.regs, .bays, .cus] s r := by
  have hexec := exec_transfer_of_good hr hl hk hx ho
  rw [hc, if_pos rfl] at hexec
  obtain ⟨hkept, hfar, hself, hcredit, htaken⟩ := forwarded (l := l) (x := x) hn hv hs rfl
  rw [← hz, bayTime_cu] at hfar hself
  refine ⟨_, hexec, ?_, ?_, ?_, fun w hsw hw => ?_, fun w hw hfar => ?_, fun id hid => ?_, ?_⟩
  · rw [hfar, received_q]
  · rw [hself]
    exact gave_q _ l z
  · rw [hself]
    rfl
  · rw [hcredit w hsw hw, owed_returning, State.creditBack, ← hz, bayTime_cu]
  · rw [htaken w hw hfar, bayTime_cu]
  · rw [hkept.eq_reg (by decide), bayTime_regsAlone s _ t id hid]
  · exact (((kept_atBayTime s _ t).mono (by decide)).trans (hkept.mono (by decide))).touches

/-- A payload that has been checked moves as it would have before. -/
theorem checked_moves {k : LinkCheck} {y : Flit} (h : Checked u (s.bayTime (bayOfCu u) t) ((s.bayTime (bayOfCu u) t).linkChecked u l k))
    (hy : ((s.bayTime (bayOfCu u) t).linkChecked u l k).headOf u l = some y) :
    ∃ r, exec (.linkPayloadTransfer t u l k) s = .next r ∧ Kept [.cus] ((s.bayTime (bayOfCu u) t).linkChecked u l k) r ∧
      ((s.bayTime (bayOfCu u) t).credit u o = true → Assoc.get [] (r.cu v).fab.inq (facing o) = Assoc.get [] (s.cu v).fab.inq (facing o) ++ [(y, z + 1)]) := by
  have hexec : exec (.linkPayloadTransfer t u l k) s = _ := exec_linkPayloadTransfer hr k
  rw [linkTransfer_of_head hl hx, h.linkMove hk ho hn hv hs hy] at hexec
  refine ⟨_, hexec, ?_, fun hc => ?_⟩
  · split
    · exact (forwarded hn hv hs rfl).1
    · exact Kept.refl _ _
  · obtain ⟨-, hfar, -⟩ := forwarded (l := l) (x := y) (s := (s.bayTime (bayOfCu u) t).linkChecked u l k) hn hv hs rfl
    rw [if_pos hc, hfar, received_q, h.cus v (by simpa using hv), bayTime_cu, h.flow.cycle, hz]

/-- Codewords that the receiver corrects are counted, and the payload moves as ever (R211, R400). -/
theorem transfer_corrects {n : Nat} (hn0 : 0 < n) (hhurt : l ∉ (s.cu u).fab.hurt) : Completes (exec (.linkPayloadTransfer t u l ⟨n, none⟩) s) fun r =>
    (∀ id, id = .bay (bayOfCu u) .relCe ∨ id = .rel .ce → r.reg id = if n = 1 then satReg (s.reg id) 1 else satReg (satReg (s.reg id) 1) 1) ∧
    (r.bay (bayOfCu u)).vote = ((s.bayTime (bayOfCu u) t).bay (bayOfCu u)).vote ∧
    ((s.bayTime (bayOfCu u) t).credit u o = true → Assoc.get [] (r.cu v).fab.inq (facing o) = Assoc.get [] (s.cu v).fab.inq (facing o) ++ [(x, z + 1)]) ∧
    RegsAlone (.bay (bayOfCu u) .relCe :: .rel .ce :: bayClockRegs (bayOfCu u)) s r ∧ Touches [.regs, .bays, .cus] s r := by
  obtain ⟨hchecked, hy, hcount, hregs, hvote, hkept⟩ := linkChecked_corrects (s := s.bayTime (bayOfCu u) t) (by rwa [bayTime_cu]) hn0 hx
  obtain ⟨r, hexec, hmoved, hfar⟩ := checked_moves hr hz hl hk hx ho hn hv hs hchecked hy
  refine ⟨r, hexec, fun id hid => ?_, ?_, hfar, ?_, ?_⟩
  · rw [hmoved.eq_reg (by decide), hcount id hid, bayTime_reg s t]
    rcases hid with rfl | rfl <;> simp [bayClockRegs]
  · rw [hmoved.eq_bay (by decide), hvote]
  · intro id hid
    rw [hmoved.eq_reg (by decide), hregs id fun h => hid (by simp_all), bayTime_reg s t fun h => hid (by simp [h])]
  · exact (((kept_atBayTime s _ t).mono (by decide)).trans (hkept.trans (hmoved.mono (by decide)))).touches

/-- One with an uncorrectable codeword voids the stitch, and goes on as it was received (R211). -/
theorem transfer_voids (y : Payload) (tag n : Nat) (hhurt : l ∉ (s.cu u).fab.hurt) (hvote : Unvoided s (bayOfCu u)) :
    Completes (exec (.linkPayloadTransfer t u l ⟨n, some (y, tag)⟩) s) fun r => (r.bay (bayOfCu u)).vote.cause = 2 ∧
      ((s.bayTime (bayOfCu u) t).credit u o = true →
        Assoc.get [] (r.cu v).fab.inq (facing o) = Assoc.get [] (s.cu v).fab.inq (facing o) ++ [(⟨y, tag⟩, z + 1)]) ∧
      ∃ e ∈ r.evt.inflight, e.source = bayOfCu u ∧ e.kind = 0x26 ∧ e.w0 = locCu u % 2 ^ 32 ∧ e.w1 = 3 := by
  obtain ⟨hchecked, hy, hcause, hevent⟩ := linkChecked_voids (s := s.bayTime (bayOfCu u) t) (by rwa [bayTime_cu]) y tag n hx (by rwa [Unvoided, bayTime_vote])
  obtain ⟨r, hexec, hmoved, hfar⟩ := checked_moves hr hz hl hk hx ho hn hv hs hchecked hy
  exact ⟨r, hexec, by rw [hmoved.eq_bay (by decide), hcause], hfar, by rwa [hmoved.eq_evt (by decide)]⟩

end

end Sys2Proof.Machine

/-! PROOF. Family 07_conditional_dispatch: SPIN, seams and fabric ports (R213, R215, R217, R222, R224), for O42. -/

namespace Sys2Proof.Machine

/-! ### SPIN (R213) -/

section

variable {s : State} {t u l o w line : Nat} {x : Flit} {j : SpinJob}

/-- The payload goes to SPIN when no other consumer of the link wants it (R216). -/
theorem takeLocal_spin (hwants : ∀ k, k < 4 → (s.cu u).wants l k = false) (hk : sinkOf (s.routeWord u) l = 1)
    (ho : outsOf (s.routeWord u) (l + 1) = []) (hx : s.headOf u l = some x) : s.takeLocal u l 4 =
      some (x, (s.modCu u fun cu => { cu with fab := { cu.fab with ptr := cu.fab.ptr.set (4 + l) 0 } }).popLink u l) := by
  have hturn (p : Nat) : rrPick 5 p (fun i => i == 4 || (s.cu u).wants l i) = some 4 := by
    refine rrPick_alone p (by decide) rfl fun i hi h => ?_
    by_contra hne
    rw [hwants i (by omega), Bool.or_false, beq_iff_eq] at h
    exact hne h
  simp [State.takeLocal, hturn, hk, hx, ho, State.creditAll, State.sendAll]

/-- A payload whose both halves are needed is stored as two words, one after the other. -/
theorem spinStore_of_two (hline : line = round16 (ceilDiv (j.desc.kLen * widthOf j.desc.etype) 8))
    (ho : o = j.desc.base + j.line * (if j.desc.pitch ≠ 0 then 16 * j.desc.pitch else line) + 32 * j.part) (hw : w = o / 16)
    (hpart : 32 * j.part + 16 < line) (hend : w + 2 ≤ 1024) (y : Payload) :
    s.spinStore u j y = s.putWords (spAddr u (16 * w)) [payloadLow y, payloadHigh y] := by
  have hnext : spAddr u (16 * (w + 1)) = spAddr u (16 * w) + 16 := by
    simp only [spAddr, devAddr]
    omega
  subst hline ho hw
  simp only [State.spinStore, if_pos hpart, if_neg (Nat.not_lt.2 hend), State.writeSp, State.putWords, hnext, if_true]

/-- Two words of a scratchpad, stored one after the other. -/
theorem putWords_pair {y : State} (hi : Inv s) (u w : Nat) (lo hi : Word) (hy : s.putWords (spAddr u (16 * w)) [lo, hi] = y) :
    y.word (spAddr u (16 * w)) = lo ∧ y.word (spAddr u (16 * (w + 1))) = hi ∧ MemAlone (spAddr u (16 * w)) 32 s y ∧ Kept [.mem, .errs] s y := by
  subst hy
  refine ⟨?_, ?_, memAlone_putWords s _ [lo, hi], kept_putWords _ _ (List.Subset.refl _) (Kept.refl _ s)⟩
  · simpa using word_putWords (spAddr u (16 * w)) [lo, hi] ‹Inv s› (i := 0) (by simp)
  · have hnext : spAddr u (16 * (w + 1)) = spAddr u (16 * w) + 16 * 1 := by
      simp only [spAddr, devAddr]
      omega
    rw [hnext]
    simpa using word_putWords (spAddr u (16 * w)) [lo, hi] ‹Inv s› (i := 1) (by simp)

theorem exec_spinWrite (hr : (s.bayTime (bayOfCu u) t).engineRuns u = true) :
    exec (.spinWrite t u l) s = .next ((s.bayTime (bayOfCu u) t).spinWrite u l) := congrArg Host.Outcome.next (if_pos hr)

theorem spin_stores (hi : Inv s) (hr : (s.bayTime (bayOfCu u) t).engineRuns u = true) (hspin : Assoc.get [] (s.cu u).fab.spins l = [j])
    (hwants : ∀ k, k < 4 → (s.cu u).wants l k = false) (hk : sinkOf ((s.bayTime (bayOfCu u) t).routeWord u) l = 1)
    (houts : outsOf ((s.bayTime (bayOfCu u) t).routeWord u) (l + 1) = []) (hx : (s.bayTime (bayOfCu u) t).headOf u l = some x)
    (hline : line = round16 (ceilDiv (j.desc.kLen * widthOf j.desc.etype) 8))
    (ho : o = j.desc.base + j.line * (if j.desc.pitch ≠ 0 then 16 * j.desc.pitch else line) + 32 * j.part) (hw : w = o / 16)
    (hpart : 32 * j.part + 16 < line) (hend : w + 2 ≤ 1024) : Completes (exec (.spinWrite t u l) s) fun r =>
      r.word (spAddr u (16 * w)) = payloadLow x.data ∧ r.word (spAddr u (16 * (w + 1))) = payloadHigh x.data ∧
      Assoc.get [] (r.cu u).fab.inq l = (Assoc.get [] (s.cu u).fab.inq l).drop 1 ∧
      Assoc.get [] (r.cu u).fab.spins l = j.next.toList ∧
      MemAlone (spAddr u (16 * w)) 32 s r ∧ CusTaken [u] u l s r ∧ Touches [.mem, .errs, .regs, .bays, .cus] s r := by
  have hexec : exec (.spinWrite t u l) s = _ := exec_spinWrite hr
  simp only [State.spinWrite, bayTime_cu, hspin, takeLocal_spin (s := s.bayTime (bayOfCu u) t) (by simpa using hwants) hk houts hx,
    spinStore_of_two hline ho hw hpart hend] at hexec
  generalize hp : ((s.bayTime (bayOfCu u) t).modCu u fun cu => { cu with fab := { cu.fab with ptr := cu.fab.ptr.set (4 + l) 0 } }).popLink u l = p at hexec
  have hkept : Kept [.regs, .bays, .cus] s p := by
    rw [← hp]
    exact kept_popLink (by decide) (kept_modCu (by decide) ((kept_atBayTime s _ t).mono (by decide)))
  have hself : ∃ z, p.cu u = { (s.cu u) with fab := { (s.cu u).fab with ptr := (s.cu u).fab.ptr.set (4 + l) 0 } }.gave l z := by
    rw [← hp, popLink_cu_self, modCu_cu, if_pos rfl, bayTime_cu]
    exact ⟨_, rfl⟩
  have hothers : CusTaken [u] u l s p := fun v hv hfar => by
    rw [← hp, popLink_cusTaken _ u l v hv hfar, modCu_cusAlone _ u _ v hv, bayTime_cu]
  obtain ⟨z, hself⟩ := hself
  generalize hy : p.putWords (spAddr u (16 * w)) [payloadLow x.data, payloadHigh x.data] = y at hexec
  obtain ⟨hlow, hhigh, hmem, hstored⟩ := putWords_pair (hkept.inv hi) u w (payloadLow x.data) (payloadHigh x.data) hy
  refine ⟨_, hexec, ?_, ?_, ?_, ?_, ?_, fun v hv hfar => ?_, ?_⟩
  · rw [← hlow]
    exact word_congr rfl _
  · rw [← hhigh]
    exact word_congr rfl _
  · rw [State.modFab, modCu_cu, if_pos rfl, hstored.eq_cu (by decide), hself]
    exact gave_q _ l z
  · rw [State.modFab, modCu_cu, if_pos rfl]
    exact (Assoc.get_set _ _ _ _ _).trans ((if_pos rfl).trans (by cases j.next <;> rfl))
  · exact (memAlone_of_mem_eq _ _ (hkept.eq_mem (by decide))).trans hmem
  · rw [State.modFab, modCu_cusAlone _ u _ v hv, hstored.eq_cu (by decide), hothers v hv hfar]
  · exact (kept_modCu (by decide) ((hkept.mono (by decide)).trans (hstored.mono (by decide)))).touches

end

/-! ### Seams (R222, R224) -/

section

variable {s : State} {t u l v : Nat}

@[simp] theorem bayTime_ctx (s : State) (b t k : Nat) : (s.bayTime b t).ctx? k = s.ctx? k := by rw [State.ctx?, State.ctx?, bayTime_ctxs]

theorem bayTime_farBay (s : State) (b t q : Nat) : (s.bayTime b t).farBay q = s.farBay q := by
  simp only [State.farBay, bayTime_power, bayTime_ctx, State.active, bayTime_stitch]

/-- A seam delivers whose far bay is active and of the bay set (R224). -/
theorem seamShut_of_active {c : Ctx} (hn : neighbour u l = some v) (hp : (s.bay (bayOfCu v)).power = .active) (hc : s.ctx? s.active = some c)
    (hb : bayOfCu v ∈ c.image.bays) : (s.bayTime (bayOfCu u) t).seamShut u l = false := by
  have hfar : s.farBay (bayOfCu v) = true := by simp [State.farBay, hp, hc, hb]
  simp only [State.seamShut, hn, bayTime_farBay, hfar, Bool.not_true, Bool.and_false]

theorem seamShut_of_inactive (hn : neighbour u l = some v) (hs : isSeam u l = true) (hp : (s.bay (bayOfCu v)).power ≠ .active) :
    (s.bayTime (bayOfCu u) t).seamShut u l = true := by
  have hfar : s.farBay (bayOfCu v) = false := by simp [State.farBay, hp]
  simp only [State.seamShut, hn, hs, bayTime_farBay, hfar, Bool.not_false, Bool.and_true]

variable (hr : (s.bayTime (bayOfCu u) t).engineRuns u = true)

include hr

theorem exec_seamPayloadExit : exec (.seamPayloadExit t u l) s = .next ((s.bayTime (bayOfCu u) t).seamExit u l) :=
  congrArg Host.Outcome.next (if_pos hr)

theorem exec_seamCreditReturn : exec (.seamCreditReturn t u l) s = .next ((s.bayTime (bayOfCu u) t).seamCredit u l) :=
  congrArg Host.Outcome.next (if_pos hr)

/-- A payload that has crossed stands at the head of its link. -/
theorem seam_delivers {z e : Nat} {x : Flit} {rest : List (Flit × Nat)} (hz : z = ((s.bayTime (bayOfCu u) t).bay (bayOfCu u)).cycle)
    (hq : Assoc.get [] (s.cu u).fab.seam l = (x, e) :: rest) (he : e ≤ z) (hin : Assoc.get [] (s.cu u).fab.inq l = [])
    (hopen : (s.bayTime (bayOfCu u) t).seamShut u l = false) : Completes (exec (.seamPayloadExit t u l) s) fun r =>
      Assoc.get [] (r.cu u).fab.seam l = rest ∧ Assoc.get [] (r.cu u).fab.inq l = [(x, z)] ∧ LaneFrame u s r := by
  have hexec : exec (.seamPayloadExit t u l) s = _ := exec_seamPayloadExit hr
  simp only [State.seamExit, Fab.seamQ, Fab.q, bayTime_cu, hq, ← hz, hin, hopen, he, true_and, if_true] at hexec
  obtain ⟨r, hr, hcu, hframe⟩ := updates_cu hexec
  refine ⟨r, hr, ?_, ?_, hframe⟩
  · rw [hcu, Assoc.get_set, if_pos rfl]
  · rw [hcu, Assoc.get_set, if_pos rfl]

/-- A seam that is shut delivers nothing (R224). -/
theorem seam_holds_payload (hshut : (s.bayTime (bayOfCu u) t).seamShut u l = true) :
    Completes (exec (.seamPayloadExit t u l) s) fun r => r.cus = s.cus ∧ LaneFrame u s r := by
  have hsame : (s.bayTime (bayOfCu u) t).seamExit u l = s.bayTime (bayOfCu u) t := by
    unfold State.seamExit
    dsimp only
    split
    · rw [if_neg fun h => Bool.noConfusion (hshut.symm.trans h.2.2)]
    · rfl
  exact ⟨_, (exec_seamPayloadExit hr).trans (congrArg _ hsame), bayTime_cus s _ t, laneFrame_bayTime s u t⟩

/-- A credit that is due is the sender's again. -/
theorem seam_returns_credit {z k : Nat} {rest : List Nat} (hz : z = ((s.bayTime (bayOfCu u) t).bay (bayOfCu u)).cycle)
    (hq : Assoc.get [] (s.cu u).fab.returning l = k :: rest) (hk : k ≤ z) (hopen : (s.bayTime (bayOfCu u) t).seamShut u l = false) :
    Completes (exec (.seamCreditReturn t u l) s) fun r => Assoc.get [] (r.cu u).fab.returning l = rest ∧
      Assoc.get 0 (r.cu u).fab.spent l = Assoc.get 0 (s.cu u).fab.spent l - 1 ∧ LaneFrame u s r := by
  have hexec : exec (.seamCreditReturn t u l) s = _ := exec_seamCreditReturn hr
  simp only [State.seamCredit, bayTime_cu, hq, ← hz, hopen, hk, true_and, if_true] at hexec
  obtain ⟨r, hr, hcu, hframe⟩ := updates_cu hexec
  refine ⟨r, hr, ?_, ?_, hframe⟩
  · rw [hcu, Assoc.get_set, if_pos rfl]
  · rw [hcu, Assoc.get_set, if_pos rfl]

/-- A seam that is shut returns no credit (R224). -/
theorem seam_holds_credit (hshut : (s.bayTime (bayOfCu u) t).seamShut u l = true) :
    Completes (exec (.seamCreditReturn t u l) s) fun r => r.cus = s.cus ∧ LaneFrame u s r := by
  have hsame : (s.bayTime (bayOfCu u) t).seamCredit u l = s.bayTime (bayOfCu u) t := by
    unfold State.seamCredit
    split
    · rw [if_neg fun h => Bool.noConfusion (hshut.symm.trans h.2)]
    · rfl
  exact ⟨_, (exec_seamCreditReturn hr).trans (congrArg _ hsame), bayTime_cus s _ t, laneFrame_bayTime s u t⟩

end

end Sys2Proof.Machine

/-! PROOF. Family 07_conditional_dispatch: what a fabric port takes and gives (R215, R217), for O42. -/

namespace Sys2Proof.Machine

@[simp] theorem setPort_port (m : Mu) (p : Nat) (v : FabPort) : (m.setPort p v).port p = v := by
  rw [Mu.port, Mu.setPort, Assoc.get_set, if_pos rfl]

theorem exec_fabricPortTransfer {s : State} {t c : Nat} (hm : (s.bayTime (bayOf c) t).muWorks c = true) (p : Nat) (inbound : Bool) :
    exec (.fabricPortTransfer t c p inbound) s =
      .next (if inbound then (s.bayTime (bayOf c) t).givers c p 2 else (s.bayTime (bayOf c) t).takers c p 2) := congrArg Host.Outcome.next (if_pos hm)

/-! ### A link gives to a port -/

section

variable {s : State} {t u l p : Nat} {x : Flit}

/-- The port once link `l` of CU `u` has given it payload `x` in cycle `z`. -/
def FabPort.given (q : FabPort) (u l z : Nat) (x : Flit) : FabPort :=
  { q with inq := q.inq ++ [(x, z + 1)], givers := (4 * (u % 4) + l + 1) % 16, gave := (z + 1, (4 * (u % 4) + l) :: movedIn q.gave z) }

theorem givePort_of_head (hx : s.headOf u l = some x) (ho : outsOf (s.routeWord u) (l + 1) = []) : s.givePort u l p =
    (s.popLink u l).modMu (u / 4) fun m => m.setPort p ((m.port p).given u l (s.bay (bayOfCu u)).cycle x) := by
  simp only [State.givePort, hx, ho, State.sendAll]
  rfl

/-- The other links of the cluster have no head after a payload has left a link than before. -/
theorem headOf_after_pop {v k : Nat} (h : ¬(v = u ∧ k = l)) (f : Mu → Mu) (c : Nat) : ((s.popLink u l).modMu c f).headOf v k = s.headOf v k := by
  have hflow : SameFlow s ((s.popLink u l).modMu c f) :=
    sameFlow_of_kept (l := [.cus, .mus]) (kept_modMu (by decide) ((kept_atPopLink s u l).mono (by decide))) (by decide) (by decide) (by decide) (by decide)
  by_cases hv : u = v
  · subst hv
    have hk : l ≠ k := fun e => h ⟨rfl, e.symm⟩
    refine hflow.headOf ?_ ?_
    · rw [modMu_cu, popLink_cu_self, Cu.gave, Fab.q, Assoc.get_set, if_neg hk]
      rfl
    · rw [modMu_cu, popLink_cu_self, Cu.gave, Assoc.get_set, if_neg hk]
  · obtain ⟨r, hcu⟩ := popLink_cu_other (s := s) l hv
    refine hflow.headOf ?_ ?_
    · rw [modMu_cu, hcu]
      rfl
    · rw [modMu_cu, hcu]

theorem giver_other {c i : Nat} (hi : i < 16) (hne : i ≠ 4 * (u % 4) + l) (hc : c = u / 4)
    (hothers : ∀ k, k < 16 → ¬(4 * c + k / 4 = u ∧ k % 4 = l) → s.headOf (4 * c + k / 4) (k % 4) = none) :
    s.headOf (4 * c + i / 4) (i % 4) = none := hothers i hi (by omega)

/-- The one link that has a payload for a port gives it (R217, R27). -/
theorem givers_of_alone (hl : l < 4) (hk : sinkOf (s.routeWord u) l = 4 + p) (ho : outsOf (s.routeWord u) (l + 1) = []) (hx : s.headOf u l = some x)
    (hroom : ((s.mu (u / 4)).port p).inq.length < 8) (hgave : ((s.mu (u / 4)).port p).gave.1 ≠ (s.bay (bayOfCu u)).cycle + 1)
    (hothers : ∀ k, k < 16 → ¬(4 * (u / 4) + k / 4 = u ∧ k % 4 = l) → s.headOf (4 * (u / 4) + k / 4) (k % 4) = none) :
    s.givers (u / 4) p 2 = s.givePort u l p := by
  have hu : 4 * (u / 4) + (4 * (u % 4) + l) / 4 = u := by omega
  have hll : (4 * (u % 4) + l) % 4 = l := by omega
  have hbusy : movedIn ((s.mu (u / 4)).port p).gave (s.bay (bayOf (u / 4))).cycle = [] := if_neg hgave
  have hfirst : s.giver (u / 4) p = some (4 * (u % 4) + l) := by
    simp only [State.giver, hbusy]
    refine rrPick_alone _ (by omega) ?_ fun i hi h => ?_
    · rw [hu, hll]
      simp [State.canGive, hk, hx, ho, State.creditAll, hroom]
    · by_contra hne
      simp [State.canGive, giver_other hi hne rfl hothers] at h
  have hsecond : (s.givePort u l p).giver (u / 4) p = none := by
    rw [givePort_of_head hx ho]
    have hbay : ((s.popLink u l).modMu (u / 4) fun m => m.setPort p ((m.port p).given u l (s.bay (bayOfCu u)).cycle x)).bay (bayOf (u / 4)) =
        s.bay (bayOf (u / 4)) := (kept_atPopLink s u l).eq_bay (by decide) _
    have hmu : (s.popLink u l).mu (u / 4) = s.mu (u / 4) := (kept_atPopLink s u l).eq_mu (by decide) _
    have hport : (((s.popLink u l).modMu (u / 4) fun m => m.setPort p ((m.port p).given u l (s.bay (bayOfCu u)).cycle x)).mu (u / 4)).port p =
        ((s.mu (u / 4)).port p).given u l (s.bay (bayOfCu u)).cycle x := by
      rw [modMu_mu, if_pos rfl, setPort_port, hmu]
    have hmoved : movedIn (((s.mu (u / 4)).port p).given u l (s.bay (bayOfCu u)).cycle x).gave (s.bay (bayOf (u / 4))).cycle = [4 * (u % 4) + l] :=
      (if_pos rfl).trans (congrArg _ hbusy)
    simp only [State.giver, hbay, hport, hmoved]
    rw [if_neg (by simp)]
    cases hpick : rrPick 16 _ _ with
    | none => rfl
    | some i =>
      obtain ⟨hi, hreq⟩ := rrPick_eq_some hpick
      rw [Bool.and_eq_true] at hreq
      have hne : i ≠ 4 * (u % 4) + l := by simpa using hreq.1
      have hnone := (headOf_after_pop (s := s) (u := u) (l := l) (v := 4 * (u / 4) + i / 4) (k := i % 4) (by omega)
        (fun m => m.setPort p ((m.port p).given u l (s.bay (bayOfCu u)).cycle x)) (u / 4)).trans (giver_other hi hne rfl hothers)
      simp [State.canGive, hnone] at hreq
  rw [State.givers, hfirst]
  dsimp only
  rw [hu, hll, State.givers, hsecond]

theorem port_takes_payload {z : Nat} {q : FabPort} (hz : z = ((s.bayTime (bayOfCu u) t).bay (bayOfCu u)).cycle)
    (hm : (s.bayTime (bayOfCu u) t).muWorks (u / 4) = true) (hl : l < 4) (hk : sinkOf ((s.bayTime (bayOfCu u) t).routeWord u) l = 4 + p)
    (ho : outsOf ((s.bayTime (bayOfCu u) t).routeWord u) (l + 1) = []) (hx : (s.bayTime (bayOfCu u) t).headOf u l = some x)
    (hq : q = (s.mu (u / 4)).port p) (hroom : q.inq.length < 8) (hgave : q.gave.1 ≠ z + 1)
    (hothers : ∀ k, k < 16 → ¬(4 * (u / 4) + k / 4 = u ∧ k % 4 = l) → (s.bayTime (bayOfCu u) t).headOf (4 * (u / 4) + k / 4) (k % 4) = none) :
    Completes (exec (.fabricPortTransfer t (u / 4) p true) s) fun r =>
      ((r.mu (u / 4)).port p).inq = q.inq ++ [(x, z + 1)] ∧ Assoc.get [] (r.cu u).fab.inq l = (Assoc.get [] (s.cu u).fab.inq l).drop 1 ∧
      CusTaken [u] u l s r ∧ MusAlone [u / 4] s r ∧ RegsAlone (bayClockRegs (bayOfCu u)) s r ∧ Touches [.regs, .bays, .cus, .mus] s r := by
  subst hq
  have hexec := exec_fabricPortTransfer hm p true
  rw [if_pos rfl] at hexec
  replace hexec := hexec.trans (congrArg Host.Outcome.next ((givers_of_alone hl hk ho hx (by rwa [bayTime_mu]) (by rwa [bayTime_mu, ← hz]) hothers).trans
    (givePort_of_head hx ho)))
  have hpop := kept_atPopLink (s.bayTime (bayOfCu u) t) u l
  refine ⟨_, hexec, ?_, ?_, fun v hv hfar => ?_, fun d hd => ?_, fun id hid => ?_, ?_⟩
  · rw [modMu_mu, if_pos rfl, setPort_port, hpop.eq_mu (by decide), bayTime_mu, ← hz]
    rfl
  · rw [modMu_cu, popLink_cu_self, bayTime_cu, gave_q]
  · rw [modMu_cu, popLink_cusTaken _ u l v hv hfar, bayTime_cu]
  · rw [modMu_musAlone _ _ _ d hd, hpop.eq_mu (by decide), bayTime_mu]
  · rw [modMu_reg, hpop.eq_reg (by decide), bayTime_regsAlone s _ t id hid]
  · exact (kept_modMu (by decide) (((kept_atBayTime s _ t).mono (by decide)).trans (hpop.mono (by decide)))).touches

end

/-! ### A CU takes from a port -/

section

variable {s : State} {t u o v p : Nat} {x : Flit}

/-- The port once CU `u` has taken its head in cycle `z`. -/
def FabPort.taken (q : FabPort) (u z : Nat) : FabPort :=
  { q with outq := q.outq.drop 1, takers := (u % 4 + 1) % 4, took := (z + 1, (u % 4) :: movedIn q.took z) }

theorem takePort_of_link (ht : s.takesFrom u p = ([o], false)) (hx : s.portOut (u / 4) p = some x) : s.takePort u p =
    (s.modMu (u / 4) fun m => m.setPort p ((m.port p).taken u (s.bay (bayOfCu u)).cycle)).sendLink u o x := by
  simp only [State.takePort, ht, hx, State.sendAll, Bool.false_eq_true, if_false]
  rfl

theorem canTake_of_nothing {c i : Nat} (ht : s.takesFrom (4 * c + i) p = ([], false)) : s.canTake (4 * c + i) p = false := by
  simp only [State.canTake, ht]
  split <;> rfl

/-- A CU that sends within the bay takes from a port what it took before. -/
theorem takesFrom_after_send (hn : neighbour u o = some v) (hv : v ≠ u) (hs : isSeam u o = false) (f : Mu → Mu) (c w : Nat) :
    ((s.modMu c f).sendLink u o x).takesFrom w p = s.takesFrom w p := by
  have hflow : SameFlow s ((s.modMu c f).sendLink u o x) :=
    sameFlow_of_kept (l := [.mus, .cus]) ((kept_modMu (by decide) (Kept.refl _ s)).trans ((kept_sendLink_of_inner x hn hs).mono (by decide)))
      (by decide) (by decide) (by decide) (by decide)
  rw [State.takesFrom, State.takesFrom, hflow.routeWord]
  rw [sendLink_cu_of_inner x hn hs hv, modMu_cu, modMu_cu]
  split
  · rename_i h
    subst h
    rfl
  · split
    · rename_i h
      subst h
      rfl
    · rfl

/-- The one taker of a port takes its head (R217, R27). -/
theorem takers_of_alone (ht : s.takesFrom u p = ([o], false)) (hn : neighbour u o = some v) (hv : v ≠ u) (hs : isSeam u o = false)
    (hc : s.credit u o = true) (hx : s.portOut (u / 4) p = some x) (htook : ((s.mu (u / 4)).port p).took.1 ≠ (s.bay (bayOfCu u)).cycle + 1)
    (hothers : ∀ k, k < 4 → 4 * (u / 4) + k ≠ u → s.takesFrom (4 * (u / 4) + k) p = ([], false)) : s.takers (u / 4) p 2 = s.takePort u p := by
  have hu : 4 * (u / 4) + u % 4 = u := by omega
  have hbusy : movedIn ((s.mu (u / 4)).port p).took (s.bay (bayOf (u / 4))).cycle = [] := if_neg htook
  have hfirst : s.taker (u / 4) p = some (u % 4) := by
    simp only [State.taker, hbusy]
    refine rrPick_alone _ (by omega) ?_ fun i hi h => ?_
    · rw [hu]
      simp [State.canTake, ht, hx, State.creditAll, hc]
    · by_contra hne
      simp [canTake_of_nothing (hothers i hi (by omega))] at h
  have hsecond : (s.takePort u p).taker (u / 4) p = none := by
    rw [takePort_of_link ht hx]
    have hsent := kept_sendLink_of_inner (s := s.modMu (u / 4) fun m => m.setPort p ((m.port p).taken u (s.bay (bayOfCu u)).cycle)) x hn hs
    have hport : (((s.modMu (u / 4) fun m => m.setPort p ((m.port p).taken u (s.bay (bayOfCu u)).cycle)).sendLink u o x).mu (u / 4)).port p =
        ((s.mu (u / 4)).port p).taken u (s.bay (bayOfCu u)).cycle := by
      rw [hsent.eq_mu (by decide), modMu_mu, if_pos rfl, setPort_port]
    have hmoved : movedIn (((s.mu (u / 4)).port p).taken u (s.bay (bayOfCu u)).cycle).took (s.bay (bayOf (u / 4))).cycle = [u % 4] :=
      (if_pos rfl).trans (congrArg _ hbusy)
    simp only [State.taker, hsent.eq_bay (show Comp.bays ∉ [Comp.cus] by decide), modMu_bay, hport, hmoved]
    rw [if_neg (by simp)]
    cases hpick : rrPick 4 _ _ with
    | none => rfl
    | some i =>
      obtain ⟨hi, hreq⟩ := rrPick_eq_some hpick
      rw [Bool.and_eq_true] at hreq
      have hne : i ≠ u % 4 := by simpa using hreq.1
      have hnothing := (takesFrom_after_send (s := s) (x := x) (p := p) hn hv hs
        (fun m => m.setPort p ((m.port p).taken u (s.bay (bayOfCu u)).cycle)) (u / 4) _).trans (hothers i hi (by omega))
      simp [canTake_of_nothing hnothing] at hreq
  rw [State.takers, hfirst]
  dsimp only
  rw [hu, State.takers, hsecond]

theorem port_gives_payload {z : Nat} {q : FabPort} (hz : z = ((s.bayTime (bayOfCu u) t).bay (bayOfCu u)).cycle)
    (hm : (s.bayTime (bayOfCu u) t).muWorks (u / 4) = true) (ht : (s.bayTime (bayOfCu u) t).takesFrom u p = ([o], false)) (hn : neighbour u o = some v)
    (hv : v ≠ u) (hs : isSeam u o = false) (hc : (s.bayTime (bayOfCu u) t).credit u o = true)
    (hx : (s.bayTime (bayOfCu u) t).portOut (u / 4) p = some x) (hq : q = (s.mu (u / 4)).port p) (htook : q.took.1 ≠ z + 1)
    (hothers : ∀ k, k < 4 → 4 * (u / 4) + k ≠ u → (s.bayTime (bayOfCu u) t).takesFrom (4 * (u / 4) + k) p = ([], false)) :
    Completes (exec (.fabricPortTransfer t (u / 4) p false) s) fun r => ((r.mu (u / 4)).port p).outq = q.outq.drop 1 ∧
      Assoc.get [] (r.cu v).fab.inq (facing o) = Assoc.get [] (s.cu v).fab.inq (facing o) ++ [(x, z + 1)] ∧
      CusAlone [u, v] s r ∧ MusAlone [u / 4] s r ∧ RegsAlone (bayClockRegs (bayOfCu u)) s r ∧ Touches [.regs, .bays, .cus, .mus] s r := by
  subst hq
  have hexec := exec_fabricPortTransfer hm p false
  rw [if_neg Bool.false_ne_true] at hexec
  replace hexec := hexec.trans (congrArg Host.Outcome.next ((takers_of_alone ht hn hv hs hc hx (by rwa [bayTime_mu, ← hz]) hothers).trans
    (takePort_of_link ht hx)))
  have hsent := kept_sendLink_of_inner (s := (s.bayTime (bayOfCu u) t).modMu (u / 4) fun m =>
    m.setPort p ((m.port p).taken u ((s.bayTime (bayOfCu u) t).bay (bayOfCu u)).cycle)) x hn hs
  refine ⟨_, hexec, ?_, ?_, fun w hw => ?_, fun d hd => ?_, fun id hid => ?_, ?_⟩
  · rw [hsent.eq_mu (by decide), modMu_mu, if_pos rfl, setPort_port, bayTime_mu]
    rfl
  · rw [sendLink_cu_of_inner x hn hs hv, if_pos rfl, modMu_cu, bayTime_cu, received_q, modMu_bay, ← hz]
  · rw [List.mem_cons, List.mem_singleton, not_or] at hw
    rw [sendLink_cu_of_inner x hn hs hv, if_neg (Ne.symm hw.2), if_neg (Ne.symm hw.1), modMu_cu, bayTime_cu]
  · rw [hsent.eq_mu (by decide), modMu_musAlone _ _ _ d hd, bayTime_mu]
  · rw [hsent.eq_reg (by decide), modMu_reg, bayTime_regsAlone s _ t id hid]
  · exact ((kept_modMu (by decide) ((kept_atBayTime s _ t).mono (by decide))).trans (hsent.mono (by decide))).touches

end

end Sys2Proof.Machine

/-! PROOF. Family 07_conditional_dispatch: the steering unit (R185-R190), and O42. -/

namespace Sys2Proof.Machine

/-! ### A steering fault (R190) -/

section

variable {s : State} {u l v : Nat}

theorem modSteer_cu (s : State) (u : Nat) (f : Steer → Steer) (v : Nat) :
    (s.modSteer u f).cu v = if u = v then { s.cu u with steer := f (s.cu u).steer } else s.cu v := modCu_cu s u _ v

theorem modSteer_steer (s : State) (u : Nat) (f : Steer → Steer) : ((s.modSteer u f).cu u).steer = f (s.cu u).steer := by rw [modSteer_cu, if_pos rfl]

theorem record_bay (s : State) (r : RegId) (k n b : Nat) : (s.record r k n).bay b = s.bay b :=
  (kept_record (List.Subset.refl _) (Kept.refl _ s)).eq_bay (by decide) b

theorem record_cu (s : State) (r : RegId) (k n v : Nat) : (s.record r k n).cu v = s.cu v :=
  (kept_record (List.Subset.refl _) (Kept.refl _ s)).eq_cu (by decide) v

theorem voteVoid_cu (s : State) (b cause v : Nat) : (s.voteVoid b cause).cu v = s.cu v := rfl

/-- A fault stalls the unit. -/
theorem steerFault_cu (s : State) (u k : Nat) (tok dat : Option Nat) (v : Nat) :
    (s.steerFault u k tok dat).cu v = if u = v then { s.cu u with steer := { (s.cu u).steer with faulted := true } } else s.cu v := by
  rw [State.steerFault, voteVoid_cu, raiseBay_cu, modSteer_cu, record_cu, record_cu]

/-- It voids the stitch with cause 0x5. -/
theorem steerFault_cause (k : Nat) (tok dat : Option Nat) (h : Unvoided s (bayOfCu u)) :
    ((s.steerFault u k tok dat).bay (bayOfCu u)).vote.cause = 5 := by
  have hvote : ((s.steerFault u k tok dat).bay (bayOfCu u)).vote = (s.bay (bayOfCu u)).vote.void (s.bay (bayOfCu u)).cycle 5 := by
    rw [State.steerFault, State.voteVoid, modBay_bay, if_pos rfl, raiseBay_bay]
    dsimp only
    rw [State.modSteer, modCu_bay, record_bay]
  rw [hvote, Vote.void_cause h.1 h.2]

theorem steerFault_event (s : State) (u k : Nat) (tok dat : Option Nat) :
    ∃ e ∈ (s.steerFault u k tok dat).evt.inflight, e.source = bayOfCu u ∧ e.kind = 0x13 ∧ e.w1 = locCu u % 2 ^ 32 :=
  ⟨_, List.mem_append_right _ (List.mem_singleton.2 rfl), rfl, rfl, rfl⟩

theorem kept_atSteerFault (s : State) (u k : Nat) (tok dat : Option Nat) : Kept [.regs, .bays, .cus, .evt] s (s.steerFault u k tok dat) :=
  kept_steerFault (List.Subset.refl _) (Kept.refl _ s)

/-! ### Tokens enter (R187, R190) -/

/-- Tokens whose reserved fields are zero enter. -/
theorem tokEnter_of_good {p : Payload} {ts : List (BitVec 64)} (hts : ts = (payloadToks p).filter tokValid) (hgood : ∀ y ∈ ts, tokBad y = false) :
    s.tokEnter u p = s.modSteer u fun x => { x with toks := x.toks ++ ts } := by
  have hnone : ts.find? tokBad = none := List.find?_eq_none.2 fun y hy => by simp [hgood y hy]
  simp only [State.tokEnter, ← hts, hnone]

/-- One whose reserved field is not is a fault. -/
theorem tokEnter_of_bad {p : Payload} {ts : List (BitVec 64)} (hts : ts = (payloadToks p).filter tokValid) (hbad : ∃ y ∈ ts, tokBad y = true) :
    ∃ tok dat, s.tokEnter u p = (s.modSteer u fun x => { x with toks := x.toks ++ ts }).steerFault u 4 tok dat := by
  cases hfind : ts.find? tokBad with
  | none =>
    obtain ⟨y, hy, hb⟩ := hbad
    exact absurd hb (List.find?_eq_none.1 hfind y hy)
  | some k => exact ⟨_, _, by simp only [State.tokEnter, ← hts, hfind]; rfl⟩

variable {t : Nat} {x : Flit} {ts : List (BitVec 64)} (hr : (s.bayTime (bayOfCu u) t).engineRuns u = true)

include hr

theorem exec_tokenPayloadEnter (hl : l < 4) (hk : sinkOf ((s.bayTime (bayOfCu u) t).routeWord u) l = 2)
    (hx : (s.bayTime (bayOfCu u) t).headOf u l = some x) (hts : ts = (payloadToks x.data).filter tokValid) (hf : (s.cu u).steer.faulted = false)
    (hroom : (s.cu u).steer.toks.length + ts.length ≤ 4) :
    exec (.tokenPayloadEnter t u l) s = .next (((s.bayTime (bayOfCu u) t).popLink u l).tokEnter u x.data) := by
  have htok : (s.cu u).steer.tokRoom x.data = true := by
    rw [Steer.tokRoom, ← hts, hf, decide_eq_true hroom]
    rfl
  have hmove : (s.bayTime (bayOfCu u) t).linkMove u l = ((s.bayTime (bayOfCu u) t).popLink u l).tokEnter u x.data := by
    simp [State.linkMove, hx, hk, htok]
  have hcond : (!(s.bayTime (bayOfCu u) t).engineRuns u) = false := by rw [hr]; rfl
  change Host.Outcome.next (if (!(s.bayTime (bayOfCu u) t).engineRuns u) = true then _ else if l < 4 then _ else _) = _
  rw [hcond, if_neg Bool.false_ne_true, if_pos hl, if_pos hk, hmove]

variable (hl : l < 4) (hk : sinkOf ((s.bayTime (bayOfCu u) t).routeWord u) l = 2)
  (hx : (s.bayTime (bayOfCu u) t).headOf u l = some x) (hts : ts = (payloadToks x.data).filter tokValid) (hf : (s.cu u).steer.faulted = false)
  (hroom : (s.cu u).steer.toks.length + ts.length ≤ 4)

include hl hk hx hts hf hroom

theorem tokens_enter (hgood : ∀ y ∈ ts, tokBad y = false) : Completes (exec (.tokenPayloadEnter t u l) s) fun r =>
    (r.cu u).steer = { (s.cu u).steer with toks := (s.cu u).steer.toks ++ ts } ∧
    Assoc.get [] (r.cu u).fab.inq l = (Assoc.get [] (s.cu u).fab.inq l).drop 1 ∧ CusTaken [u] u l s r ∧ BaysAlone [bayOfCu u] s r ∧
    RegsAlone (bayClockRegs (bayOfCu u)) s r ∧ Touches [.regs, .bays, .cus] s r := by
  have hexec := exec_tokenPayloadEnter hr hl hk hx hts hf hroom
  rw [tokEnter_of_good hts hgood] at hexec
  have hpop := kept_atPopLink (s.bayTime (bayOfCu u) t) u l
  refine ⟨_, hexec, ?_, ?_, fun v hv hfar => ?_, fun q hq => ?_, fun id hid => ?_, ?_⟩
  · rw [modSteer_steer, popLink_cu_self, bayTime_cu]
    rfl
  · rw [modSteer_cu, if_pos rfl, popLink_cu_self, bayTime_cu]
    exact gave_q _ l _
  · rw [modSteer_cu, if_neg fun e => hv (by simp [e]), popLink_cusTaken _ u l v hv hfar, bayTime_cu]
  · rw [State.modSteer, modCu_bay, hpop.eq_bay (by decide), bayTime_baysAlone s _ t q hq]
  · rw [State.modSteer, modCu_reg, hpop.eq_reg (by decide), bayTime_regsAlone s _ t id hid]
  · exact (kept_modSteer (by decide) (((kept_atBayTime s _ t).mono (by decide)).trans (hpop.mono (by decide)))).touches

theorem bad_token_faults (hbad : ∃ y ∈ ts, tokBad y = true) (hv : Unvoided s (bayOfCu u)) : Completes (exec (.tokenPayloadEnter t u l) s) fun r =>
    (r.cu u).steer.faulted = true ∧ (r.bay (bayOfCu u)).vote.cause = 5 ∧
    ∃ e ∈ r.evt.inflight, e.source = bayOfCu u ∧ e.kind = 0x13 ∧ e.w1 = locCu u % 2 ^ 32 := by
  obtain ⟨tok, dat, henter⟩ := tokEnter_of_bad (s := (s.bayTime (bayOfCu u) t).popLink u l) (u := u) hts hbad
  have hexec := exec_tokenPayloadEnter hr hl hk hx hts hf hroom
  rw [henter] at hexec
  refine ⟨_, hexec, ?_, steerFault_cause 4 tok dat ?_, steerFault_event _ u 4 tok dat⟩
  · rw [steerFault_cu, if_pos rfl]
  · rw [Unvoided, State.modSteer, modCu_bay, (kept_atPopLink _ u l).eq_bay (by decide), bayTime_vote]
    exact hv

end

/-! ### Pairing (R188, R189) -/

section

variable {s : State} {t u l n : Nat} {tk : BitVec 64} {ts : List (BitVec 64)} {d : Flit} {ds : List (Nat × Flit)}

/-- The unit once its head flit has gone where its head token, which has sent `n` with it, says. -/
def Steer.paired (x : Steer) (tk : BitVec 64) (ts : List (BitVec 64)) (ds : List (Nat × Flit)) (n : Nat) : Steer :=
  { x with dats := ds, tWait := 0, dWait := 0, toks := if tokFlits tk ≤ n then ts else tk :: ts, sent := if tokFlits tk ≤ n then 0 else n }

/-- The unit with no waiting counted. -/
def Steer.fresh (x : Steer) : Steer := { x with tWait := 0, dWait := 0 }

theorem routeReady_of_drop (s : State) (u l : Nat) : s.routeReady u 0 l = true := by
  simp [State.routeReady, bitOf]

theorem bitOf_local {o : Nat} (h : o < 4) : bitOf 16 o = false := by
  interval_cases o <;> rfl

theorem routeReady_of_local (h : Assoc.find? (s.cu u).steer.places l = none) : s.routeReady u 16 l = true := by
  have hlinks : (List.range 4).all (fun o => !bitOf 16 o || (srcOf (s.routeWord u) o == 6 && s.credit u o)) = true :=
    List.all_eq_true.2 fun o ho => by rw [bitOf_local (List.mem_range.1 ho)]; rfl
  simp [State.routeReady, hlinks, h]

theorem routeSend_of_drop (s : State) (u l : Nat) (x : Flit) : s.routeSend u 0 l x = s.count (.cu u .steerDropped) 1 := if_pos rfl

theorem routeSend_of_local (s : State) (u l : Nat) (x : Flit) :
    s.routeSend u 16 l x = (s.modSteer u fun y => { y with places := y.places.set l x }).count (.cu u .steerFlits) 1 := rfl

section

variable (hf : (s.cu u).steer.faulted = false) (ht : (s.cu u).steer.toks = tk :: ts) (hd : (s.cu u).steer.dats = (l, d) :: ds)

include hf ht hd

/-- A pair whose outputs accept it goes out. -/
theorem steerCycle_of_pair (htag : d.tag = tokTag tk) (hready : (s.modSteer u Steer.fresh).routeReady u (tokRoute tk) l = true) :
    s.steerCycle u = ((s.modSteer u Steer.fresh).routeSend u (tokRoute tk) l d).modSteer u fun y =>
      { y with dats := ds, toks := if tokFlits tk ≤ (s.cu u).steer.sent + 1 then ts else tk :: ts
               sent := if tokFlits tk ≤ (s.cu u).steer.sent + 1 then 0 else (s.cu u).steer.sent + 1 } := by
  have hready' : (s.modSteer u fun y => { y with tWait := 0, dWait := 0 }).routeReady u (tokRoute tk) l = true := hready
  simp [State.steerCycle, hf, ht, hd, htag, hready']
  rfl

theorem steerCycle_of_mismatch (htag : d.tag ≠ tokTag tk) : s.steerCycle u = s.steerFault u 1 (some (tokTag tk)) (some d.tag) := by
  simp [State.steerCycle, hf, ht, hd, htag]

end

theorem exec_steerCycle (hr : (s.bayTime (bayOfCu u) t).engineRuns u = true) : exec (.steerCycle t u) s = .next ((s.bayTime (bayOfCu u) t).steerCycle u) :=
  congrArg Host.Outcome.next (if_pos hr)

variable (hr : (s.bayTime (bayOfCu u) t).engineRuns u = true) (hf : (s.cu u).steer.faulted = false) (ht : (s.cu u).steer.toks = tk :: ts)

include hr hf ht

theorem pair_dropped (hd : (s.cu u).steer.dats = (l, d) :: ds) (hn : n = (s.cu u).steer.sent + 1) (htag : d.tag = tokTag tk) (hroute : tokRoute tk = 0) :
    Completes (exec (.steerCycle t u) s) fun r => (r.cu u).steer = (s.cu u).steer.paired tk ts ds n ∧
      r.reg (.cu u .steerDropped) = satReg (s.reg (.cu u .steerDropped)) 1 ∧ RegsAlone (.cu u .steerDropped :: bayClockRegs (bayOfCu u)) s r ∧
      CusAlone [u] s r ∧ Touches [.regs, .bays, .cus] s r := by
  subst hn
  have hexec : exec (.steerCycle t u) s = _ := exec_steerCycle hr
  rw [steerCycle_of_pair (by rwa [bayTime_cu]) (by rwa [bayTime_cu]) (by rwa [bayTime_cu]) htag (by rw [hroute]; exact routeReady_of_drop _ _ _), hroute,
    routeSend_of_drop, bayTime_cu] at hexec
  refine ⟨_, hexec, ?_, ?_, fun id hid => ?_, fun v hv => ?_, ?_⟩
  · rw [modSteer_steer, count_cu, modSteer_steer, bayTime_cu]
    rfl
  · rw [State.modSteer, modCu_reg, count_reg, if_pos rfl, State.modSteer, modCu_reg, bayTime_reg s t (by simp [bayClockRegs])]
  · rw [List.mem_cons, not_or] at hid
    rw [State.modSteer, modCu_reg, count_reg, if_neg (Ne.symm hid.1), State.modSteer, modCu_reg, bayTime_regsAlone s _ t id hid.2]
  · have hne : u ≠ v := fun e => hv (by simp [e])
    rw [modSteer_cu, if_neg hne, count_cu, modSteer_cu, if_neg hne, bayTime_cu]
  · exact (kept_modSteer (by decide) (kept_count (by decide) (kept_modSteer (by decide) ((kept_atBayTime s _ t).mono (by decide))))).touches

theorem pair_placed (hd : (s.cu u).steer.dats = (l, d) :: ds) (htag : d.tag = tokTag tk) (hroute : tokRoute tk = 16)
    (hplace : Assoc.find? (s.cu u).steer.places l = none) :
    Completes (exec (.steerCycle t u) s) fun r => Assoc.find? (r.cu u).steer.places l = some d ∧ (r.cu u).steer.dats = ds ∧
      r.reg (.cu u .steerFlits) = satReg (s.reg (.cu u .steerFlits)) 1 ∧ RegsAlone (.cu u .steerFlits :: bayClockRegs (bayOfCu u)) s r ∧
      CusAlone [u] s r ∧ Touches [.regs, .bays, .cus] s r := by
  have hready : ((s.bayTime (bayOfCu u) t).modSteer u Steer.fresh).routeReady u (tokRoute tk) l = true := by
    rw [hroute]
    refine routeReady_of_local ?_
    rw [modSteer_steer, bayTime_cu]
    exact hplace
  have hexec : exec (.steerCycle t u) s = _ := exec_steerCycle hr
  rw [steerCycle_of_pair (by rwa [bayTime_cu]) (by rwa [bayTime_cu]) (by rwa [bayTime_cu]) htag hready, hroute, routeSend_of_local] at hexec
  refine ⟨_, hexec, ?_, ?_, ?_, fun id hid => ?_, fun v hv => ?_, ?_⟩
  · rw [modSteer_steer, count_cu, modSteer_steer, Assoc.find?_set, if_pos rfl]
  · rw [modSteer_steer]
  · rw [State.modSteer, modCu_reg, count_reg, if_pos rfl, State.modSteer, modCu_reg, State.modSteer, modCu_reg, bayTime_reg s t (by simp [bayClockRegs])]
  · rw [List.mem_cons, not_or] at hid
    rw [State.modSteer, modCu_reg, count_reg, if_neg (Ne.symm hid.1), State.modSteer, modCu_reg, State.modSteer, modCu_reg,
      bayTime_regsAlone s _ t id hid.2]
  · have hne : u ≠ v := fun e => hv (by simp [e])
    rw [modSteer_cu, if_neg hne, count_cu, modSteer_cu, if_neg hne, modSteer_cu, if_neg hne, bayTime_cu]
  · exact (kept_modSteer (by decide) (kept_count (by decide) (kept_modSteer (by decide) (kept_modSteer (by decide)
      ((kept_atBayTime s _ t).mono (by decide)))))).touches

theorem pair_mismatched (hd : (s.cu u).steer.dats = (l, d) :: ds) (htag : d.tag ≠ tokTag tk) (hv : Unvoided s (bayOfCu u)) :
    Completes (exec (.steerCycle t u) s) fun r => (r.cu u).steer = { (s.cu u).steer with faulted := true } ∧ (r.bay (bayOfCu u)).vote.cause = 5 ∧
      ∃ e ∈ r.evt.inflight, e.source = bayOfCu u ∧ e.kind = 0x13 := by
  have hexec : exec (.steerCycle t u) s = _ := exec_steerCycle hr
  rw [steerCycle_of_mismatch (by rwa [bayTime_cu]) (by rwa [bayTime_cu]) (by rwa [bayTime_cu]) htag] at hexec
  obtain ⟨e, he, hsource, hkind, -⟩ := steerFault_event (s.bayTime (bayOfCu u) t) u 1 (some (tokTag tk)) (some d.tag)
  refine ⟨_, hexec, ?_, steerFault_cause _ _ _ (by rwa [Unvoided, bayTime_vote]), e, he, hsource, hkind⟩
  rw [steerFault_cu, if_pos rfl, bayTime_cu]

omit hr in
/-- A token that has waited the limit and finds no data is a fault. -/
theorem steerTimeout_of_token (hd : (s.cu u).steer.dats = []) (hlim : s.regN (.cu u .steerCfg) % 256 ≤ (s.cu u).steer.tWait) :
    s.steerTimeout u = (s.modSteer u fun y => { y with tWait := (s.cu u).steer.tWait + 1 }).steerFault u 2 (some (tokTag tk)) none := by
  simp [State.steerTimeout, State.steerCycle, hf, ht, hd, hlim, Nat.lt_succ_of_le hlim]

theorem token_times_out (hd : (s.cu u).steer.dats = []) (hlim : s.regN (.cu u .steerCfg) % 256 ≤ (s.cu u).steer.tWait) (hv : Unvoided s (bayOfCu u)) :
    Completes (exec (.steerPairTimeout t u) s) fun r =>
      (r.cu u).steer = { (s.cu u).steer with tWait := (s.cu u).steer.tWait + 1, faulted := true } ∧ (r.bay (bayOfCu u)).vote.cause = 5 ∧
      (∃ e ∈ r.evt.inflight, e.source = bayOfCu u ∧ e.kind = 0x13 ∧ e.w1 = locCu u % 2 ^ 32) ∧ CusAlone [u] s r ∧
      Touches [.regs, .bays, .cus, .evt] s r := by
  have hexec : exec (.steerPairTimeout t u) s = .next ((s.bayTime (bayOfCu u) t).steerTimeout u) := congrArg Host.Outcome.next (if_pos hr)
  rw [steerTimeout_of_token (by rwa [bayTime_cu]) (by rwa [bayTime_cu]) (by rwa [bayTime_cu])
    (by rwa [bayTime_cu, bayTime_regN s t (by simp [bayClockRegs])])] at hexec
  refine ⟨_, hexec, ?_, steerFault_cause _ _ _ ?_, steerFault_event _ u _ _ _, fun v hv => ?_, ?_⟩
  · rw [steerFault_cu, if_pos rfl, modSteer_steer, bayTime_cu]
  · rwa [Unvoided, State.modSteer, modCu_bay, bayTime_vote]
  · have hne : u ≠ v := fun e => hv (by simp [e])
    rw [steerFault_cu, if_neg hne, modSteer_cu, if_neg hne, bayTime_cu]
  · exact ((kept_modSteer (by decide) ((kept_atBayTime s _ t).mono (by decide))).trans (kept_atSteerFault _ u _ _ _)).touches

end

/-- Settles O42, command by command. -/
theorem payloadsMove : Obligations.PayloadsMove := by
  rintro t u z b s m f rfl rfl hr hz rfl
  refine ⟨?_, ?_, ?_, ?_, ?_, ?_, ?_, ?_, ?_⟩
  · intro l o v x hl hk hx ho hn hv hs
    exact ⟨transfer_moves hr hz hl hk hx ho hn hv hs, transfer_waits hr hl hk hx ho, fun n => transfer_corrects hr hz hl hk hx ho hn hv hs,
      fun y tag n hhurt hcause hfrozen => transfer_voids hr hz hl hk hx ho hn hv hs y tag n hhurt ⟨hcause, hfrozen⟩⟩
  · intro l o w line x j hi hspin hwants hk houts hx hline ho hw hpart hend
    obtain ⟨r, hexec, hlow, hhigh, hq, hspins, hframe⟩ := spin_stores hi hr hspin hwants hk houts hx hline ho hw hpart hend
    exact ⟨r, hexec, hlow, hhigh, hq, hspins.trans (by cases j.next <;> rfl), hframe⟩
  · intro l v e x rest hn hq he hin
    exact ⟨fun k hp hc hb => seam_delivers hr hz hq he hin (seamShut_of_active hn hp hc hb),
      fun hs hp => seam_holds_payload hr (seamShut_of_inactive hn hs hp)⟩
  · intro l k v rest hn hq hk
    exact ⟨fun c hp hc hb => seam_returns_credit hr hz hq hk (seamShut_of_active hn hp hc hb),
      fun hs hp => seam_holds_credit hr (seamShut_of_inactive hn hs hp)⟩
  · rintro c p l x q rfl hm hl hk ho hx rfl hroom hgave hothers
    exact port_takes_payload hz hm hl hk ho hx rfl hroom hgave hothers
  · rintro c p o v x q rfl hm ht hn hv hs hc hx rfl htook hothers
    exact port_gives_payload hz hm ht hn hv hs hc hx rfl htook hothers
  · rintro l x ts hl hk hx hts hf hroom
    exact ⟨tokens_enter hr hl hk hx hts hf hroom, fun hbad hcause hfrozen => bad_token_faults hr hl hk hx hts hf hroom hbad ⟨hcause, hfrozen⟩⟩
  · rintro tk ts l n d ds x rfl hf ht hd hn
    exact ⟨pair_dropped hr hf ht hd hn, pair_placed hr hf ht hd, fun htag hcause hfrozen => pair_mismatched hr hf ht hd htag ⟨hcause, hfrozen⟩⟩
  · rintro tk ts x rfl hf ht hd hlim hcause hfrozen
    exact token_times_out hr hf ht hd hlim ⟨hcause, hfrozen⟩

end Sys2Proof.Machine

/-! PROOF. Family 07_conditional_dispatch: a dispatch pass starts, its tokens go out, its unused positions are filled (R192, R203, R204), for O43. -/

namespace Sys2Proof.Machine

/-! ### A memory unit's frame -/

theorem MusAlone.trans {l : List Nat} {s t r : State} (h : MusAlone l s t) (h' : MusAlone l t r) : MusAlone l s r := fun d hd =>
  (h' d hd).trans (h d hd)

theorem MuFrame.trans {c : Nat} {s t r : State} (h : MuFrame c s t) (h' : MuFrame c t r) : MuFrame c s r := by
  obtain ⟨hmu, hbay, hreg, htouch⟩ := h
  obtain ⟨hmu', hbay', hreg', htouch'⟩ := h'
  exact ⟨hmu.trans hmu', hbay.trans hbay', hreg.trans hreg', htouch.trans htouch'⟩

theorem muFrame_bayTime (s : State) (c t : Nat) : MuFrame c s (s.bayTime (bayOf c) t) :=
  ⟨fun d _ => bayTime_mu s _ t d, bayTime_baysAlone s _ t, bayTime_regsAlone s _ t, ((kept_atBayTime s _ t).mono (by decide)).touches⟩

theorem muFrame_modMu (s : State) (c : Nat) (f : Mu → Mu) : MuFrame c s (s.modMu c f) :=
  ⟨modMu_musAlone s c f, fun b _ => modMu_bay s c f b, fun id _ => modMu_reg s c f id, (kept_modMu (by decide) (Kept.refl _ s)).touches⟩

/-! ### The dispatch stage in its memory unit -/

theorem modDsp_mu (s : State) (c : Nat) (f : Dsp → Dsp) (d : Nat) :
    (s.modDsp c f).mu d = if c = d then { s.mu c with dsp := f (s.mu c).dsp } else s.mu d := modMu_mu s c _ d

theorem modDsp_dsp (s : State) (c : Nat) (f : Dsp → Dsp) : ((s.modDsp c f).mu c).dsp = f (s.mu c).dsp := by rw [modDsp_mu, if_pos rfl]

theorem modDsp_gens (s : State) (c : Nat) (f : Dsp → Dsp) : ((s.modDsp c f).mu c).gens = (s.mu c).gens := by rw [modDsp_mu, if_pos rfl]

@[simp] theorem bayTime_dspDesc (s : State) (b t c g : Nat) : (s.bayTime b t).dspDesc c g = s.dspDesc c g := by
  simp only [State.dspDesc, bayTime_regN s t (id := .dspDesc c g _) (b := b) (by simp [bayClockRegs])]

@[simp] theorem bayTime_tokenRows (s : State) (b t c g : Nat) : (s.bayTime b t).tokenRows c g = s.tokenRows c g := by
  simp only [State.tokenRows, bayTime_regN s t (id := .dspDesc c g 0) (b := b) (by simp [bayClockRegs])]

theorem muWorks_of_stageRuns {s : State} {c : Nat} (h : s.stageRuns c = true) : s.muWorks c = true := (Bool.and_eq_true_iff.1 h).1

/-- A command of a stage that runs and that takes no frozen word leaves the step it makes (R161, R357). -/
theorem stage_step {s r : State} {c : Nat} {i : Instr} {s0 : State}
    (hi : exec i s0 = .next (if s.stageRuns c then s.muHold c r else s)) (hr : s.stageRuns c = true) (htwin : r.twin = s.twin) : exec i s0 = .next r := by
  rw [hi, if_pos hr, muHold_of_twin_eq c htwin]

/-! ### A pass starts (R192) -/

section

variable {s : State} {t c g : Nat} {y : AgRun}

/-- The stage as it takes a pass for generator `g`. -/
def Dsp.begin (x : Dsp) (g : Nat) : Dsp := { x with
  phase := .rows, gen := g, rows := [], tokens := 0, tokPay := [], idxBuf := [], outPkts := [], closing := x.retire false
  unacked := 0, serial := x.serial + 1
  waiting := x.waiting.filter (· ≠ g), ptr := (g + 1) % 4, faulted := false }

/-- The memory unit with the stream of generator `g` at its port. -/
def Mu.startRun (m : Mu) (g : Nat) (y : AgRun) : Mu := m.setGen g { m.gen g with run := some { y with started := true } }

theorem passStart_of_turn (hy : ((s.mu c).gen g).run = some y) (hport : y.desc.port = 2) (hst : y.started = false) (hfree : (s.mu c).dsp.free = true)
    (hsent : s.stageSent c = true) (hpick : rrPick 4 (s.mu c).dsp.ptr (fun i => (s.mu c).dsp.waiting.contains i) = some g)
    (hen : (s.dspDesc c g).en = true) (hcap : (s.dspDesc c g).deferCap = 0) :
    s.passStart c g = (s.modMu c (·.startRun g y)).modDsp c (·.begin g) := by
  have hrun : s.passStart c g = if !(s.dspDesc c g).en then ((s.modMu c (·.startRun g y)).modDsp c (·.begin g)).dspFault c 3 0
      else ((s.modMu c (·.startRun g y)).modDsp c (·.begin g)).deferRun c (s.dspDesc c g) := by
    rw [State.passStart, hy]
    exact if_pos ⟨hport, by rw [hst]; rfl, hfree, hsent, hpick⟩
  rw [hrun, if_neg (by simp [hen]), State.deferRun, if_pos (.inl hcap)]

/-- The pass before leaves the stage with its acknowledgements counted apart. -/
theorem retire_of_live (x : Dsp) : x.retire false = if x.phase = .idle then x.closing else x.closing ++ [⟨x.serial, x.gen, x.unacked, false⟩] := by
  simp [Dsp.retire]

theorem pass_starts (hr : (s.bayTime (bayOf c) t).stageRuns c = true) (hg : g < 4) (hy : ((s.mu c).gen g).run = some y) (hport : y.desc.port = 2)
    (hst : y.started = false) (hfree : (s.mu c).dsp.free = true) (hwait : (s.mu c).dsp.waiting = [g]) (hsent : (s.bayTime (bayOf c) t).stageSent c = true)
    (hen : (s.dspDesc c g).en = true) (hcap : (s.dspDesc c g).deferCap = 0) : Completes (exec (.dispatchPassStart t c g) s) fun r =>
      (r.mu c).dsp = (s.mu c).dsp.begin g ∧ ((r.mu c).gen g).run = some { y with started := true } ∧ MuFrame c s r := by
  have hpick : rrPick 4 (s.mu c).dsp.ptr (fun i => (s.mu c).dsp.waiting.contains i) = some g :=
    rrPick_alone _ hg (by simp [hwait]) fun i _ hi => by simpa [hwait] using hi
  have hstart := passStart_of_turn (s := s.bayTime (bayOf c) t) (c := c) (g := g) (y := y) (by rwa [bayTime_mu]) hport hst (by rwa [bayTime_mu]) hsent
    (by rwa [bayTime_mu]) (by rwa [bayTime_dspDesc]) (by rwa [bayTime_dspDesc])
  refine ⟨_, (stage_step rfl hr (by rw [hstart]; rfl)).trans (congrArg _ hstart), ?_, ?_,
    ((muFrame_bayTime s c t).trans (muFrame_modMu _ c _)).trans (muFrame_modMu _ c _)⟩
  · rw [modDsp_dsp, modMu_mu, if_pos rfl, bayTime_mu]
    rfl
  · rw [Mu.gen, modDsp_gens, modMu_mu, if_pos rfl, bayTime_mu, Mu.startRun, Mu.setGen, Assoc.get_set, if_pos rfl]

end

/-! ### A token goes out (R203) -/

section

variable {s : State} {t c : Nat} {d : DspDesc} {w : BitVec 64}

theorem tokenEmit_of_one (hd : d = s.dspDesc c (s.mu c).dsp.gen) (htok : (s.mu c).dsp.tokPay = [w]) (hidle : ∀ g, ((s.mu c).gen g).run = none)
    (hroom : s.portRoom c d.tokPort 1 = true) : s.tokenEmit c =
      (s.portPush c d.tokPort (s.bay (bayOf c)).cycle [BitVec.ofNat 256 w.toNat]).modDsp c (fun x => { x with tokPay := x.tokPay.drop 4 }) := by
  subst hd
  simp [State.tokenEmit, htok, hidle, hroom]

theorem token_emitted {p : FabPort} (hr : (s.bayTime (bayOf c) t).stageRuns c = true) (hd : d = s.dspDesc c (s.mu c).dsp.gen) (htok : (s.mu c).dsp.tokPay = [w])
    (hidle : ∀ g, ((s.mu c).gen g).run = none) (hp : p = (s.mu c).port d.tokPort) (hroom : p.outq.length < 8) :
    Completes (exec (.tokenPayloadEmit t c) s) fun r =>
      (r.mu c).port d.tokPort = { p with outq := p.outq ++ [(⟨BitVec.ofNat 256 w.toNat, 0⟩, ((s.bayTime (bayOf c) t).bay (bayOf c)).cycle)] } ∧
      (r.mu c).dsp = { (s.mu c).dsp with tokPay := [] } ∧ MuFrame c s r := by
  subst hp
  have hexec : exec (.tokenPayloadEmit t c) s = .next ((s.bayTime (bayOf c) t).tokenEmit c) :=
    congrArg Host.Outcome.next (if_pos (muWorks_of_stageRuns hr))
  rw [tokenEmit_of_one (d := d) (w := w) (by rwa [bayTime_mu, bayTime_dspDesc]) (by rwa [bayTime_mu]) (by rwa [bayTime_mu])
    (by rw [State.portRoom, bayTime_mu]; exact decide_eq_true hroom)] at hexec
  refine ⟨_, hexec, ?_, ?_, ((muFrame_bayTime s c t).trans (muFrame_modMu _ c _)).trans (muFrame_modMu _ c _)⟩
  · rw [modDsp_mu, if_pos rfl, State.portPush, modMu_mu, if_pos rfl, bayTime_mu]
    exact setPort_port _ _ _
  · rw [modDsp_dsp, State.portPush, modMu_mu, if_pos rfl, bayTime_mu]
    simp [Mu.setPort, htok]

end

/-! ### Unused positions are filled (R204) -/

section

variable {s : State} {t c i : Nat} {d : DspDesc} {e : Expert} {q : Region}

/-- One header row is one packet. -/
theorem rowPackets_header (c ctx lo o : Nat) (q : Region) (row : List Word) : (rowPackets c ctx lo q o 1 [row]).length = 1 := rfl

/-- The stage with packets more to send. -/
def Dsp.send (x : Dsp) (ps : List Multicast) : Dsp := { x with outPkts := x.outPkts ++ ps }

/-- Each position takes one packet. -/
theorem fillPositions_dsp (s : State) (c : Nat) (d : DspDesc) (e : Expert) (q : Region) (i pos n : Nat) :
    ∃ ps, ps.length = n ∧ ((s.fillPositions c d e q i pos n).mu c).dsp = (s.mu c).dsp.send ps := by
  induction n generalizing s pos with
  | zero => exact ⟨[], rfl, by simp [Dsp.send, State.fillPositions]⟩
  | succ n ih =>
    obtain ⟨ps, hlen, hdsp⟩ := ih (s.dspMesh c d e q pos [headerRow 0 e.expert 0 0 0 (s.stitchLo 16) pos i c false]) (pos + 1)
    refine ⟨rowPackets c s.active (s.stitchLo 2) q (q.inboxBase + 64 * (1 + d.pRows) * (e.inboxFirst + pos)) 1
      [headerRow 0 e.expert 0 0 0 (s.stitchLo 16) pos i c false] ++ ps, ?_, ?_⟩
    · rw [List.length_append, rowPackets_header, hlen, Nat.add_comm]
    · rw [State.fillPositions, hdsp, State.dspMesh, modDsp_dsp, Dsp.send, Dsp.send, List.append_assoc]
      rfl

theorem muFrame_fillPositions (s : State) (c : Nat) (d : DspDesc) (e : Expert) (q : Region) (i pos n : Nat) :
    MuFrame c s (s.fillPositions c d e q i pos n) := by
  induction n generalizing s pos with
  | zero => exact ⟨fun _ _ => rfl, fun _ _ => rfl, fun _ _ => rfl, (Kept.refl _ s).touches⟩
  | succ n ih => exact (muFrame_modMu s c _).trans (ih _ _)

theorem fillPositions_twin (s : State) (c : Nat) (d : DspDesc) (e : Expert) (q : Region) (i pos n : Nat) :
    (s.fillPositions c d e q i pos n).twin = s.twin := (kept_fillPositions (List.Subset.refl _) (Kept.refl _ s)).eq_twin (by decide)

/-- The stage goes on behind candidate `i`, and waits for acknowledgements where it is the last of `cand`. -/
def Dsp.pastCand (x : Dsp) (cand i : Nat) : Dsp := { x with fillCand := i + 1, phase := if cand ≤ i + 1 then .draining else .filling }

/-- The positions of candidate `i` from the first unused one on take their packets. -/
def State.fillRest (s : State) (c : Nat) (d : DspDesc) (e : Expert) (q : Region) (i : Nat) : State :=
  s.fillPositions c d e q i (s.usedOf c d i) (e.quota - s.usedOf c d i)

/-- A candidate without delivery over the mesh has no positions to fill. -/
theorem passFill_of_local (hd : d = s.dspDesc c (s.mu c).dsp.gen) (hphase : (s.mu c).dsp.phase = .filling) (hi : i = (s.mu c).dsp.fillCand)
    (he : s.expertOf c d i = (some e, s)) (hmesh : bitOf e.delivery 0 = false) : s.passFill c = s.modDsp c (·.pastCand d.cand i) := by
  subst hd hi
  simp [State.passFill, hphase, he, hmesh, State.passLive, Dsp.pastCand]

theorem passFill_of_mesh (hd : d = s.dspDesc c (s.mu c).dsp.gen) (hphase : (s.mu c).dsp.phase = .filling) (hi : i = (s.mu c).dsp.fillCand)
    (he : s.expertOf c d i = (some e, s)) (hmesh : bitOf e.delivery 0 = true) (hq : s.regionOf c d e.region = (some q, s)) :
    s.passFill c = (s.fillRest c d e q i).modDsp c (·.pastCand d.cand i) := by
  obtain ⟨ps, -, hdsp⟩ := fillPositions_dsp s c d e q i (s.usedOf c d i) (e.quota - s.usedOf c d i)
  have hlive : (s.fillRest c d e q i).passLive c = true := by simp [State.passLive, State.fillRest, hdsp, Dsp.send, hphase]
  subst hd hi
  simp only [State.passFill, he, hq, hmesh, Bool.not_true, Bool.false_eq_true, if_false, if_neg (not_not.2 hphase)]
  exact if_pos hlive

theorem bitOf_zero (n : Nat) : bitOf n 0 = decide (n % 2 = 1) := by
  rw [bitOf, Nat.testBit_zero]

theorem candidate_without_mesh (hr : (s.bayTime (bayOf c) t).stageRuns c = true) (hd : d = s.dspDesc c (s.mu c).dsp.gen) (hphase : (s.mu c).dsp.phase = .filling)
    (he : (s.bayTime (bayOf c) t).expertOf c d (s.mu c).dsp.fillCand = (some e, s.bayTime (bayOf c) t)) (hmesh : e.delivery % 2 = 0) :
    Completes (exec (.passEndFill t c) s) fun r => (r.mu c).dsp = (s.mu c).dsp.pastCand d.cand (s.mu c).dsp.fillCand ∧ MuFrame c s r := by
  have hfill := passFill_of_local (s := s.bayTime (bayOf c) t) (c := c) (by rwa [bayTime_mu, bayTime_dspDesc]) (by rwa [bayTime_mu])
    (congrArg (·.dsp.fillCand) (bayTime_mu s _ t c).symm) he (by rw [bitOf_zero, decide_eq_false (by omega)])
  refine ⟨_, (stage_step rfl hr (by rw [hfill]; rfl)).trans (congrArg _ hfill), ?_, (muFrame_bayTime s c t).trans (muFrame_modMu _ c _)⟩
  rw [modDsp_dsp, bayTime_mu]

theorem candidate_filled (hr : (s.bayTime (bayOf c) t).stageRuns c = true) (hd : d = s.dspDesc c (s.mu c).dsp.gen) (hphase : (s.mu c).dsp.phase = .filling)
    (he : (s.bayTime (bayOf c) t).expertOf c d (s.mu c).dsp.fillCand = (some e, s.bayTime (bayOf c) t)) (hmesh : e.delivery % 2 = 1)
    (hq : (s.bayTime (bayOf c) t).regionOf c d e.region = (some q, s.bayTime (bayOf c) t)) : Completes (exec (.passEndFill t c) s) fun r =>
      (r.mu c).dsp.outPkts.length = (s.mu c).dsp.outPkts.length + (e.quota - s.usedOf c d (s.mu c).dsp.fillCand) ∧
      (r.mu c).dsp.fillCand = (s.mu c).dsp.fillCand + 1 ∧ MuFrame c s r := by
  have hfill := passFill_of_mesh (s := s.bayTime (bayOf c) t) (c := c) (by rwa [bayTime_mu, bayTime_dspDesc]) (by rwa [bayTime_mu])
    (congrArg (·.dsp.fillCand) (bayTime_mu s _ t c).symm) he (by rw [bitOf_zero, decide_eq_true hmesh]) hq
  have hused : (s.bayTime (bayOf c) t).usedOf c d (s.mu c).dsp.fillCand = s.usedOf c d (s.mu c).dsp.fillCand := by
    rw [State.usedOf, State.usedOf, bayTime_mu]
  obtain ⟨ps, hlen, hdsp⟩ := fillPositions_dsp (s.bayTime (bayOf c) t) c d e q (s.mu c).dsp.fillCand (s.usedOf c d (s.mu c).dsp.fillCand)
    (e.quota - s.usedOf c d (s.mu c).dsp.fillCand)
  rw [State.fillRest, hused] at hfill
  refine ⟨_, (stage_step rfl hr ?_).trans (congrArg _ hfill), ?_, ?_,
    ((muFrame_bayTime s c t).trans (muFrame_fillPositions _ c d e q _ _ _)).trans (muFrame_modMu _ c _)⟩
  · rw [hfill]
    exact fillPositions_twin _ c d e q _ _ _
  · rw [modDsp_dsp, hdsp, bayTime_mu, Dsp.pastCand, Dsp.send, List.length_append, hlen]
  · rw [modDsp_dsp]
    rfl

end

end Sys2Proof.Machine

/-! PROOF. Family 07_conditional_dispatch: a token's record is ranked, and a pass ends with its signal (R194, R196, R205, R207), for O43. -/

namespace Sys2Proof.Machine

/-! ### A fault of the stage (R207) -/

section

variable {s : State} {c : Nat}

theorem record_mu (s : State) (r : RegId) (k n c : Nat) : (s.record r k n).mu c = s.mu c :=
  (kept_record (List.Subset.refl _) (Kept.refl _ s)).eq_mu (by decide) c

theorem voteVoid_mu (s : State) (b cause c : Nat) : (s.voteVoid b cause).mu c = s.mu c := rfl

/-- The stage once its pass has faulted. -/
def Dsp.stopped (x : Dsp) : Dsp := { x with
  phase := .idle, rows := [], ranked := [], tokPay := [], idxBuf := [], outPkts := [], closing := x.retire true, unacked := 0, faulted := true }

/-- The memory unit then: the stream of the pass is gone. -/
def Mu.stopped (m : Mu) : Mu := { m with dsp := m.dsp.stopped }.setGen m.dsp.gen { m.gen m.dsp.gen with run := none }

theorem dspFault_mu (s : State) (c kind cand d : Nat) : (s.dspFault c kind cand).mu d = if c = d then (s.mu c).stopped else s.mu d := by
  rw [State.dspFault, modMu_mu, modDsp_mu, modDsp_mu, voteVoid_mu, raiseBay_mu, record_mu, voteVoid_mu, raiseBay_mu, record_mu, if_pos rfl]
  split <;> rfl

/-- A fault votes void with cause 0x6. -/
theorem dspFault_cause (kind cand : Nat) (h : Unvoided s (bayOf c)) : ((s.dspFault c kind cand).bay (bayOf c)).vote.cause = 6 := by
  have hvote : ((s.dspFault c kind cand).bay (bayOf c)).vote = (s.bay (bayOf c)).vote.void (s.bay (bayOf c)).cycle 6 := by
    rw [State.dspFault, modMu_bay, State.modDsp, modMu_bay, State.voteVoid, modBay_bay, if_pos rfl, raiseBay_bay, record_bay]
  rw [hvote, Vote.void_cause h.1 h.2]

theorem dspFault_event (s : State) (c kind cand : Nat) :
    ∃ e ∈ (s.dspFault c kind cand).evt.inflight, e.source = bayOf c ∧ e.kind = 0x14 ∧ e.w1 = locMu c % 2 ^ 32 :=
  ⟨_, List.mem_append_right _ (List.mem_singleton.2 rfl), rfl, rfl, rfl⟩

theorem kept_atDspFault (s : State) (c kind cand : Nat) : Kept [.regs, .bays, .mus, .evt] s (s.dspFault c kind cand) :=
  kept_dspFault (List.Subset.refl _) (Kept.refl _ s)

end

/-! ### Ranking (R194, R196) -/

section

variable {s : State} {t c h : Nat} {d : DspDesc} {bits : List Nat}

/-- The order of `d`'s candidates by their scores' bits. -/
def rankingOf (d : DspDesc) (bits : List Nat) : List Nat := rankAll (fun i => fp32.decode (bits.getD i 0)) d.d [] (List.range d.cand)

/-- The stage with a ranked token. -/
def Dsp.rank (x : Dsp) (d : DspDesc) (slot : Nat) (bits : List Nat) (payload : List (List Word)) : Dsp :=
  { x with phase := .ranked, slot := slot, ranked := rankingOf d bits, scores := bits, payload := payload }

/-- The record of a token is complete, and its header's first word holds `h`. -/
structure RecordReady (s : State) (c h : Nat) : Prop where
  phase : (s.mu c).dsp.phase = .rows
  sent : (s.mu c).dsp.tokPay = []
  rows : s.tokenRows c (s.mu c).dsp.gen ≤ (s.mu c).dsp.rows.length
  header : h = (((s.mu c).dsp.rows.headD []).headD 0).toNat

theorem RecordReady.bayTime (hc : RecordReady s c h) (b t : Nat) : RecordReady (s.bayTime b t) c h := by
  obtain ⟨hphase, hsent, hrows, hheader⟩ := hc
  exact ⟨by rwa [bayTime_mu], by rwa [bayTime_mu], by rwa [bayTime_mu, bayTime_tokenRows], by rwa [bayTime_mu]⟩

theorem tokenRank_of_good (hc : RecordReady s c h) (hd : d = s.dspDesc c (s.mu c).dsp.gen) (hbits : bits = (List.range d.cand).map (scoreBits d (s.mu c).dsp.rows))
    (hres : field h 31 11 = 0) : ∃ n payload, s.tokenRank c = (s.count (.mu c .dspNan) n).modDsp c (·.rank d (field h 10 0) bits payload) := by
  obtain ⟨hphase, hsent, hrows, rfl⟩ := hc
  subst hd hbits
  refine ⟨((List.range (s.dspDesc c (s.mu c).dsp.gen).cand).filter fun i => isNaN (fp32.decode
    (((List.range (s.dspDesc c (s.mu c).dsp.gen).cand).map (scoreBits (s.dspDesc c (s.mu c).dsp.gen) (s.mu c).dsp.rows)).getD i 0))).length,
    (s.mu c).dsp.rows.drop (s.tokenRows c (s.mu c).dsp.gen - (s.dspDesc c (s.mu c).dsp.gen).pRows), ?_⟩
  rw [State.tokenRank, if_neg (by simp [hphase, hsent]), if_neg (Nat.not_lt.2 hrows), if_neg (not_not.2 hres)]
  rfl

/-- A header whose reserved field is not zero is a fault (R207 kind 0x2). -/
theorem tokenRank_of_reserved (hc : RecordReady s c h) (hres : field h 31 11 ≠ 0) : s.tokenRank c = s.dspFault c 2 0 := by
  obtain ⟨hphase, hsent, hrows, rfl⟩ := hc
  rw [State.tokenRank, if_neg (by simp [hphase, hsent]), if_neg (Nat.not_lt.2 hrows), if_pos hres]

theorem token_ranked (hr : (s.bayTime (bayOf c) t).stageRuns c = true) (hc : RecordReady s c h) (hd : d = s.dspDesc c (s.mu c).dsp.gen)
    (hbits : bits = (List.range d.cand).map (scoreBits d (s.mu c).dsp.rows)) (hres : h / 2 ^ 11 % 2 ^ 21 = 0) : Completes (exec (.tokenRank t c) s) fun r =>
      (∃ payload, (r.mu c).dsp = (s.mu c).dsp.rank d (h % 2 ^ 11) bits payload) ∧
      MusAlone [c] s r ∧ RegsAlone (.mu c .dspNan :: bayClockRegs (bayOf c)) s r ∧ Touches [.regs, .bays, .mus] s r := by
  obtain ⟨n, payload, hrank⟩ := tokenRank_of_good (d := d) (bits := bits) (hc.bayTime (bayOf c) t) (by rwa [bayTime_mu, bayTime_dspDesc]) (by rwa [bayTime_mu])
    ((field_eq h 31 11).trans hres)
  have hslot : field h 10 0 = h % 2 ^ 11 := by rw [field_eq, Nat.pow_zero, Nat.div_one]
  rw [hslot] at hrank
  refine ⟨_, (stage_step rfl hr (by rw [hrank]; rfl)).trans (congrArg _ hrank), ⟨payload, ?_⟩, fun q hq => ?_, fun id hid => ?_, ?_⟩
  · rw [modDsp_dsp, count_mu, bayTime_mu]
  · rw [State.modDsp, modMu_musAlone _ c _ q hq, count_mu, bayTime_mu]
  · obtain ⟨hne, hclk⟩ := not_or.1 (mt List.mem_cons.2 hid)
    rw [State.modDsp, modMu_reg, count_reg, if_neg (Ne.symm hne), bayTime_regsAlone s _ t id hclk]
  · exact (kept_modDsp (by decide) (kept_count (by decide) ((kept_atBayTime s _ t).mono (by decide)))).touches

theorem reserved_header_faults (hr : (s.bayTime (bayOf c) t).stageRuns c = true) (hc : RecordReady s c h) (hres : h / 2 ^ 11 % 2 ^ 21 ≠ 0)
    (hv : Unvoided s (bayOf c)) : Completes (exec (.tokenRank t c) s) fun r =>
      (r.mu c).dsp.phase = .idle ∧ (r.mu c).dsp.faulted = true ∧ (r.bay (bayOf c)).vote.cause = 6 ∧
      (∃ e ∈ r.evt.inflight, e.source = bayOf c ∧ e.kind = 0x14 ∧ e.w1 = locMu c % 2 ^ 32) ∧ r.mem = s.mem := by
  have hrank := tokenRank_of_reserved (hc.bayTime (bayOf c) t) (by rwa [field_eq])
  have hkept := kept_atDspFault (s.bayTime (bayOf c) t) c 2 0
  refine ⟨_, (stage_step rfl hr (by rw [hrank, hkept.eq_twin (by decide)])).trans (congrArg _ hrank), ?_, ?_, dspFault_cause _ _ ?_, dspFault_event _ _ _ _, ?_⟩
  · rw [dspFault_mu, if_pos rfl]
    rfl
  · rw [dspFault_mu, if_pos rfl]
    rfl
  · rwa [Unvoided, bayTime_vote]
  · rw [hkept.eq_mem (by decide), bayTime_mem]

end

/-! ### A pass ends (R205) -/

section

variable {s : State} {t c g u old : Nat} {sum : Int} {y : AgRun} {f : Dsp → Dsp}

/-- The memory unit once the stream of generator `g` has ended. -/
def Mu.endRun (m : Mu) (g : Nat) : Mu := m.setGen g { m.gen g with run := none }

theorem endRun_run (m : Mu) (g : Nat) : ((m.endRun g).gen g).run = none := by
  rw [Mu.endRun, Mu.gen, Mu.setGen, Assoc.get_set, if_pos rfl]

theorem addSync_mu (s : State) (u k n c : Nat) : (s.addSync u k n).mu c = s.mu c :=
  (kept_addSync (List.Subset.refl _) (Kept.refl _ s)).eq_mu (by decide) c

/-- A stream that has not faulted ends with its signal, where it has one (R171). -/
theorem agFinish_eq (hf : y.faulted = false) : s.agFinish c g y =
    if y.desc.signal = true then (s.modMu c (·.endRun g)).addSync (4 * c + y.desc.sigCu) y.desc.sigCounter 1 else s.modMu c (·.endRun g) := by
  simp only [State.agFinish, hf, Bool.not_false, Bool.and_true]
  rfl

theorem agFinish_mu (s : State) (c g : Nat) (y : AgRun) (d : Nat) : (s.agFinish c g y).mu d = (s.modMu c (·.endRun g)).mu d := by
  unfold State.agFinish
  dsimp only
  split
  · exact addSync_mu _ _ _ _ d
  · rfl

theorem agFinish_cusAlone (s : State) (c g : Nat) (y : AgRun) : CusAlone [4 * c + y.desc.sigCu] s (s.agFinish c g y) := by
  intro v hv
  unfold State.agFinish
  dsimp only
  split
  · rw [addSync_cusAlone _ _ _ 1 v hv, modMu_cu]
  · rw [modMu_cu]

theorem bayOfCu_of_cluster {k : Nat} (hk : k < 4) : bayOfCu (4 * c + k) = bayOf c := by
  rw [bayOfCu, show (4 * c + k) / 4 = c by omega]

/-- A pass that ends leaves the change of the stage that ends it, no stream at its generator, and its signal in the CU's counter. -/
theorem pass_completes (hr : (s.bayTime (bayOf c) t).stageRuns c = true) (hf : y.faulted = false) (hu : u = 4 * c + y.desc.sigCu) (hcu : y.desc.sigCu < 4)
    (hmade : (old, sum) = (s.cu u).sync.made s.bank y.desc.sigCounter ((s.bayTime (bayOf c) t).bay (bayOf c)).cycle)
    (hend : (s.bayTime (bayOf c) t).passComplete c = ((s.bayTime (bayOf c) t).modDsp c f).agFinish c g y) :
    Completes (exec (.dispatchPassComplete t c) s) fun r =>
      (r.mu c).dsp = f (s.mu c).dsp ∧ ((r.mu c).gen g).run = none ∧
      (y.desc.signal = true → Assoc.get 0 (r.cu u).sync.banks (syncKey s.bank y.desc.sigCounter) = min 0xFFFF (old + (sum + 1)).toNat) ∧
      CusAlone [u] s r ∧ MusAlone [c] s r ∧ Touches [.regs, .bays, .cus, .mus, .hsync, .evt] s r := by
  subst hu
  have hkept : Kept [.regs, .bays, .cus, .mus, .hsync, .evt] s ((s.bayTime (bayOf c) t).passComplete c) :=
    kept_passComplete (by decide) ((kept_atBayTime s _ t).mono (by decide))
  have htouch := hkept.touches
  have htwin : ((s.bayTime (bayOf c) t).passComplete c).twin = (s.bayTime (bayOf c) t).twin := by rw [hkept.eq_twin (by decide), bayTime_twin]
  rw [hend] at htouch
  refine ⟨_, (stage_step rfl hr htwin).trans (congrArg _ hend), ?_, ?_, fun hsig => ?_, fun v hv => ?_, fun q hq => ?_, htouch⟩
  · rw [agFinish_mu, modMu_mu, if_pos rfl, modDsp_mu, if_pos rfl, bayTime_mu]
    rfl
  · rw [agFinish_mu, modMu_mu, if_pos rfl, endRun_run]
  · rw [agFinish_eq hf, if_pos hsig, ← bayTime_bank s (bayOf c) t]
    refine addSync_banks (s := ((s.bayTime (bayOf c) t).modDsp c f).modMu c (·.endRun g)) 1 ?_
    rw [modMu_cu, State.modDsp, modMu_cu, modMu_bay, modMu_bay, bayOfCu_of_cluster hcu, bayTime_cu]
    exact hmade.trans (by rw [← bayTime_bank s (bayOf c) t]; rfl)
  · rw [agFinish_cusAlone _ c g y v hv, State.modDsp, modMu_cu, bayTime_cu]
  · rw [agFinish_mu, modMu_musAlone _ c _ q hq, State.modDsp, modMu_musAlone _ c _ q hq, bayTime_mu]

/-- The running pass has nothing left to send and no acknowledgement to wait for; no earlier pass does. -/
structure Drained (x : Dsp) : Prop where
  phase : x.phase = .draining
  tokens : x.tokPay = []
  packets : x.outPkts = []
  acked : x.unacked = 0
  closing : ∀ p ∈ x.closing, p.unacked ≠ 0

theorem passComplete_of_drained (hx : Drained (s.mu c).dsp) (hy : ((s.mu c).gen (s.mu c).dsp.gen).run = some y) (hf : y.faulted = false) :
    s.passComplete c = (s.modDsp c fun x => { x with phase := .idle }).agFinish c (s.mu c).dsp.gen y := by
  obtain ⟨hphase, htok, hpkts, hacked, hclosing⟩ := hx
  have hnone : (s.mu c).dsp.closing.any (fun p => p.unacked == 0) = false := by simpa using hclosing
  rw [State.passComplete]
  rw [if_neg (by simp [hnone]), hy]
  dsimp only
  rw [if_neg (by simp [hf]), if_pos ⟨hphase, htok, hpkts, hacked⟩]

/-- The first of the earlier passes has all its acknowledgements. -/
theorem passComplete_of_closing {p : DspPass} {rest : List DspPass} (hx : (s.mu c).dsp.closing = p :: rest) (hacked : p.unacked = 0) (hlive : p.dead = false)
    (hy : ((s.mu c).gen p.gen).run = some y) :
    s.passComplete c = (s.modDsp c fun x => { x with closing := x.closing.filter (fun q => q.id != p.id) }).agFinish c p.gen y := by
  have hany : (s.mu c).dsp.closing.any (fun p => p.unacked == 0) = true := by simp [hx, hacked]
  have hfind : (s.mu c).dsp.closing.find? (fun p => p.unacked == 0) = some p := by simp [hx, hacked]
  have hrun : ((((s.modDsp c fun x => { x with closing := x.closing.filter (fun q => q.id != p.id) }).mu c).gen p.gen).run) = some y := by
    rw [Mu.gen, modDsp_gens]
    exact hy
  rw [State.passComplete]
  rw [if_pos hany, State.closingComplete, hfind]
  dsimp only
  rw [if_neg (by simp [hlive]), State.passSignal, hrun]

theorem filter_other_ids {p : DspPass} {rest : List DspPass} (hrest : ∀ q ∈ rest, q.id ≠ p.id) : (p :: rest).filter (fun q => q.id != p.id) = rest := by
  rw [List.filter_cons_of_neg (by simp), List.filter_eq_self]
  exact fun q hq => bne_iff_ne.2 (hrest q hq)

end

end Sys2Proof.Machine

/-! PROOF. Family 07_conditional_dispatch: a token that no choice resolves (R198, R200), and O43. -/

namespace Sys2Proof.Machine

/-! ### What the stage's writes leave (R200) -/

/-- What a write of the dispatch stage of cluster `c` leaves: the other clusters' memory units, the stitch, the count of halted tokens and the
checkpoint stream. -/
structure StageWork (c : Nat) (s t : State) : Prop where
  mus : MusAlone [c] s t
  stitch : t.stitch = s.stitch
  exits : t.reg (.mu c .dspExit) = s.reg (.mu c .dspExit)
  twin : t.twin = s.twin

section

variable {s t r : State} {c : Nat} {d : DspDesc}

theorem StageWork.refl (c : Nat) (s : State) : StageWork c s s := ⟨fun _ _ => rfl, rfl, rfl, rfl⟩

theorem StageWork.trans (h : StageWork c s t) (h' : StageWork c t r) : StageWork c s r :=
  ⟨h.mus.trans h'.mus, h'.stitch.trans h.stitch, h'.exits.trans h.exits, h'.twin.trans h.twin⟩

theorem stageWork_modMu (s : State) (c : Nat) (f : Mu → Mu) : StageWork c s (s.modMu c f) := ⟨modMu_musAlone s c f, rfl, rfl, rfl⟩

theorem stageWork_modDsp (s : State) (c : Nat) (f : Dsp → Dsp) : StageWork c s (s.modDsp c f) := stageWork_modMu s c _

theorem stageWork_putWord (c : Nat) (s : State) (a : Nat) (v : Word) : StageWork c s (s.putWord a v) := ⟨fun d _ => putWord_mu s a v d, rfl, putWord_reg s a v _, rfl⟩

theorem stageWork_dspFault (s : State) (c kind cand : Nat) : StageWork c s (s.dspFault c kind cand) := by
  have hkept := kept_atDspFault s c kind cand
  refine ⟨fun d hd => ?_, hkept.eq_stitch (by decide), ?_, hkept.eq_twin (by decide)⟩
  · rw [dspFault_mu, if_neg fun e => hd (by simp [e])]
  · rw [State.dspFault, modMu_reg, State.modDsp, modMu_reg, voteVoid_reg, raiseBay_reg, record_reg_other _ _ _ (by simp)]

/-- With no word frozen, a write takes none (R357). -/
theorem stageWork_writeMu (w : Nat) (v : Word) (h : s.twin.frozen = []) : StageWork c s (s.writeMu c w v) := by
  unfold State.writeMu
  split
  · exact .refl c s
  · rw [muCapture_of_none c w _ h]
    dsimp only
    split
    · exact (stageWork_putWord c s _ v).trans (stageWork_modMu _ c _)
    · exact stageWork_putWord c s _ v

theorem stageWork_stageWrite (o : Nat) (v : Word) (h : s.twin.frozen = []) : StageWork c s (s.stageWrite c o v) := by
  unfold State.stageWrite
  split
  · exact stageWork_dspFault s c 4 0
  · exact stageWork_writeMu _ v h

theorem stageWork_dspRecord (outcome rank slot expert score depth fill : Nat) (h : s.twin.frozen = []) :
    StageWork c s (s.dspRecord c d outcome rank slot expert score depth fill) := by
  unfold State.dspRecord
  exact (stageWork_stageWrite _ _ h).trans (stageWork_modDsp _ c _)

theorem stageWork_idxFlush (d : DspDesc) (h : s.twin.frozen = []) : StageWork c s (s.idxFlush c d) := by
  unfold State.idxFlush
  dsimp only
  split
  · exact .refl c s
  · exact (stageWork_stageWrite _ _ h).trans (stageWork_modDsp _ c _)

theorem stageWork_dspIndex (v : Nat) (h : s.twin.frozen = []) : StageWork c s (s.dspIndex c d v) := by
  have hmod := stageWork_modDsp s c fun x => { x with idxBuf := x.idxBuf ++ [v] }
  unfold State.dspIndex
  dsimp only
  split
  · exact hmod.trans (stageWork_idxFlush d h)
  · exact hmod

theorem stageWork_dspPlain (outcome rank slot expert score depth : Nat) (h : s.twin.frozen = []) :
    StageWork c s (s.dspPlain c d outcome rank slot expert score depth) := by
  have hrec := stageWork_dspRecord (c := c) (d := d) outcome rank slot expert score depth 0 h
  exact hrec.trans (stageWork_dspIndex d.zeroIdx (by rw [hrec.twin, h]))

theorem stageWork_recordAll (outcome slot j n : Nat) (h : s.twin.frozen = []) : StageWork c s (s.recordAll c d outcome slot j n) := by
  induction n generalizing s j with
  | zero => exact .refl c s
  | succ n ih =>
    rw [State.recordAll]
    split
    · have hplain := stageWork_dspPlain (c := c) (d := d) outcome j slot 0 0 0 h
      exact hplain.trans (ih (j + 1) (by rw [hplain.twin, h]))
    · exact .refl c s

end

/-! ### The token's end -/

section

variable {s : State} {t c : Nat} {d : DspDesc}

/-- The stage collects the next token's rows. -/
def Dsp.nextToken (x : Dsp) : Dsp := { x with phase := .rows, rows := [], ranked := [], tokens := min 0xFFFF (x.tokens + 1) }

/-- What is left of a token's step once its choices are recorded. -/
def State.tokenDone (s : State) (c : Nat) : State := if s.passLive c then s.modDsp c Dsp.nextToken else s

theorem stageWork_tokenDone (s : State) (c : Nat) : StageWork c s (s.tokenDone c) := by
  unfold State.tokenDone
  split
  · exact stageWork_modMu s c _
  · exact .refl c s

theorem tokenResolve_of_skipped (hd : d = s.dspDesc c (s.mu c).dsp.gen) (hphase : (s.mu c).dsp.phase = .ranked)
    (hskip : s.seqMask.getLsbD (s.mu c).dsp.slot = false) :
    s.tokenResolve c = ((s.count (.mu c .dspSkip) 1).recordAll c d 3 (s.mu c).dsp.slot 0 d.k).tokenDone c := by
  subst hd
  simp only [State.tokenResolve, if_neg (not_not.2 hphase), hskip, Bool.not_false, if_true]
  rfl

theorem tokenResolve_of_halted (hd : d = s.dspDesc c (s.mu c).dsp.gen) (hphase : (s.mu c).dsp.phase = .ranked)
    (hmask : s.seqMask.getLsbD (s.mu c).dsp.slot = true) (hen : d.haltEn = true) (hhalt : (s.mu c).dsp.ranked.head? = some d.haltIdx) :
    s.tokenResolve c = (((s.addExit (s.mu c).dsp.slot).count (.mu c .dspExit) 1).recordAll c d 4 (s.mu c).dsp.slot 0 d.k).tokenDone c := by
  subst hd
  simp only [State.tokenResolve, if_neg (not_not.2 hphase), hmask, hen, hhalt, Bool.not_true, Bool.false_eq_true, if_false, beq_self_eq_true, Bool.and_self,
    if_true]
  rfl

theorem addExit_stitch (s : State) (slot : Nat) : (s.addExit slot).stitch = { s.stitch with exits := s.stitch.exits ||| (1#2048 <<< slot) } := rfl
theorem addExit_reg (s : State) (slot : Nat) (id : RegId) : (s.addExit slot).reg id = s.reg id := rfl
theorem addExit_twin (s : State) (slot : Nat) : (s.addExit slot).twin = s.twin := rfl
theorem count_twin (s : State) (id : RegId) (n : Nat) : (s.count id n).twin = s.twin := rfl
theorem count_stitch (s : State) (id : RegId) (n : Nat) : (s.count id n).stitch = s.stitch := rfl

/-- A token whose best candidate is the halt index leaves its sequence at the stitch's end (R198). -/
theorem token_halted (hr : (s.bayTime (bayOf c) t).stageRuns c = true) (hd : d = s.dspDesc c (s.mu c).dsp.gen) (hphase : (s.mu c).dsp.phase = .ranked)
    (hmask : s.seqMask.getLsbD (s.mu c).dsp.slot = true) (hen : d.haltEn = true) (hhalt : (s.mu c).dsp.ranked.head? = some d.haltIdx)
    (hfrozen : s.twin.frozen = []) : Completes (exec (.tokenResolve t c) s) fun r =>
      r.stitch = { s.stitch with exits := s.stitch.exits ||| (1#2048 <<< (s.mu c).dsp.slot) } ∧
      r.reg (.mu c .dspExit) = satReg (s.reg (.mu c .dspExit)) 1 ∧ MusAlone [c] s r := by
  have hstep := tokenResolve_of_halted (s := s.bayTime (bayOf c) t) (d := d) (by rwa [bayTime_mu, bayTime_dspDesc]) (by rwa [bayTime_mu])
    (by rwa [bayTime_mu, bayTime_seqMask]) hen (by rwa [bayTime_mu])
  rw [bayTime_mu] at hstep
  have hfirst : (((s.bayTime (bayOf c) t).addExit (s.mu c).dsp.slot).count (.mu c .dspExit) 1).twin.frozen = [] :=
    by rw [count_twin, addExit_twin, bayTime_twin, hfrozen]
  have hwork : StageWork c (((s.bayTime (bayOf c) t).addExit (s.mu c).dsp.slot).count (.mu c .dspExit) 1) ((s.bayTime (bayOf c) t).tokenResolve c) := by
    rw [hstep]
    exact (stageWork_recordAll 4 _ 0 d.k hfirst).trans (stageWork_tokenDone _ c)
  refine ⟨_, stage_step rfl hr (by rw [hwork.twin, count_twin, addExit_twin]), ?_, ?_, fun q hq => ?_⟩
  · rw [hwork.stitch, count_stitch, addExit_stitch, bayTime_stitch]
  · rw [hwork.exits, count_reg, if_pos rfl, addExit_reg, bayTime_reg s t (by simp [bayClockRegs])]
  · exact (hwork.mus q hq).trans (bayTime_mu s _ t q)

/-! ### A skipped token's record (R200) -/

/-- The record of a choice that is not accepted, with no expert and no score. -/
def plainRecord (outcome rank slot : Nat) : Word := BitVec.ofNat 128 (outcome * 2 ^ 14 + rank * 2 ^ 11 + slot)

theorem plainRecord_toNat {outcome slot : Nat} (ho : outcome < 8) (hslot : slot < 2 ^ 11) : (plainRecord outcome 0 slot).toNat = outcome * 2 ^ 14 + slot := by
  rw [plainRecord, BitVec.toNat_ofNat]
  omega

/-- The stage once it has written record `n` of descriptor `g`. -/
def Dsp.numbered (x : Dsp) (g n : Nat) : Dsp := { x with recPtr := x.recPtr.set g (n + 1) }

/-- The stage with one index more that waits to be written. -/
def Dsp.indexed (x : Dsp) (v : Nat) : Dsp := { x with idxBuf := x.idxBuf ++ [v] }

theorem stageWrite_plain {o : Nat} (v : Word) (hal : o % 16 = 0) (hplace : s.muPlace c (o / 16) = .plain (o / 16)) :
    s.stageWrite c o v = s.putWord (devAddr c o) v := by
  have hword : 16 * (o / 16) = o := by omega
  rw [State.stageWrite, hplace]
  dsimp only
  rw [writeMu_plain v hplace, hword]

section

variable {n o : Nat}

/-- A choice that is not accepted writes one record, and its index waits for seven others. -/
theorem dspPlain_of_plain (outcome rank slot : Nat) (hn : n = Assoc.get 0 (s.mu c).dsp.recPtr (s.mu c).dsp.gen) (ho : o = d.recordBase + 16 * n)
    (hal : o % 16 = 0) (hplace : s.muPlace c (o / 16) = .plain (o / 16)) (hbuf : (s.mu c).dsp.idxBuf.length < 7) :
    s.dspPlain c d outcome rank slot 0 0 0 =
      ((s.putWord (devAddr c o) (plainRecord outcome rank slot)).modDsp c (·.numbered (s.mu c).dsp.gen n)).modDsp c (·.indexed d.zeroIdx) := by
  have hrec : s.dspRecord c d outcome rank slot 0 0 0 0 =
      (s.putWord (devAddr c o) (plainRecord outcome rank slot)).modDsp c (·.numbered (s.mu c).dsp.gen n) := by
    subst hn ho
    rw [← stageWrite_plain _ hal hplace]
    simp [State.dspRecord, plainRecord, Dsp.numbered]
  have hlen : ¬8 ≤ (((s.dspRecord c d outcome rank slot 0 0 0 0).modDsp c (·.indexed d.zeroIdx)).mu c).dsp.idxBuf.length := by
    rw [modDsp_dsp, hrec, modDsp_dsp, putWord_mu, Dsp.indexed, List.length_append, List.length_singleton, Dsp.numbered]
    dsimp only
    omega
  rw [← hrec]
  exact if_neg hlen

theorem recordAll_one (outcome slot : Nat) (hlive : s.passLive c = true) :
    s.recordAll c d outcome slot 0 1 = s.dspPlain c d outcome 0 slot 0 0 0 := if_pos hlive

/-- The whole step of a skipped token with one choice. -/
theorem tokenResolve_of_one_skipped (hd : d = s.dspDesc c (s.mu c).dsp.gen) (hphase : (s.mu c).dsp.phase = .ranked)
    (hskip : s.seqMask.getLsbD (s.mu c).dsp.slot = false) (hk : d.k = 1) (hn : n = Assoc.get 0 (s.mu c).dsp.recPtr (s.mu c).dsp.gen)
    (ho : o = d.recordBase + 16 * n) (hal : o % 16 = 0) (hplace : s.muPlace c (o / 16) = .plain (o / 16)) (hbuf : (s.mu c).dsp.idxBuf.length < 7) :
    s.tokenResolve c = ((((s.count (.mu c .dspSkip) 1).putWord (devAddr c o) (plainRecord 3 0 (s.mu c).dsp.slot)).modDsp c
      (·.numbered (s.mu c).dsp.gen n)).modDsp c (·.indexed d.zeroIdx)).modDsp c Dsp.nextToken := by
  have hsame : SamePlaces c s (s.count (.mu c .dspSkip) 1) := ⟨by rw [count_reg, if_neg (by simp)], fun i => by rw [count_reg, if_neg (by simp)]⟩
  have hplain := dspPlain_of_plain (s := s.count (.mu c .dspSkip) 1) (d := d) (n := n) 3 0 (s.mu c).dsp.slot (by rwa [count_mu]) ho hal
    (by rwa [muPlace_congr hsame]) (by rwa [count_mu])
  have hlive : (s.count (.mu c .dspSkip) 1).passLive c = true := by simp [State.passLive, hphase]
  rw [count_mu] at hplain
  rw [tokenResolve_of_skipped hd hphase hskip, hk, recordAll_one 3 _ hlive, hplain, State.tokenDone, if_pos]
  rw [State.passLive, modDsp_dsp, modDsp_dsp, putWord_mu, count_mu]
  simp [Dsp.indexed, Dsp.numbered, hphase]

/-- A token whose slot is not in the sequence mask is recorded as skipped. -/
theorem token_skipped (hs : Inv s) (hr : (s.bayTime (bayOf c) t).stageRuns c = true) (hd : d = s.dspDesc c (s.mu c).dsp.gen)
    (hphase : (s.mu c).dsp.phase = .ranked) (hskip : s.seqMask.getLsbD (s.mu c).dsp.slot = false) (hslot : (s.mu c).dsp.slot < 2 ^ 11) (hk : d.k = 1)
    (hbuf : (s.mu c).dsp.idxBuf.length < 7) (hn : n = Assoc.get 0 (s.mu c).dsp.recPtr (s.mu c).dsp.gen) (ho : o = d.recordBase + 16 * n) (hal : o % 16 = 0)
    (hplace : s.muPlace c (o / 16) = .plain (o / 16)) : Completes (exec (.tokenResolve t c) s) fun r =>
      (r.word (devAddr c o)).toNat = 3 * 2 ^ 14 + (s.mu c).dsp.slot ∧ r.reg (.mu c .dspSkip) = satReg (s.reg (.mu c .dspSkip)) 1 ∧
      (r.mu c).dsp = (((s.mu c).dsp.numbered (s.mu c).dsp.gen n).indexed d.zeroIdx).nextToken ∧
      MemAlone (devAddr c o) 16 s r ∧ MusAlone [c] s r ∧ r.stitch = s.stitch ∧ Touches [.mem, .errs, .regs, .bays, .mus] s r := by
  have hstep := tokenResolve_of_one_skipped (s := s.bayTime (bayOf c) t) (d := d) (n := n) (by rwa [bayTime_mu, bayTime_dspDesc]) (by rwa [bayTime_mu])
    (by rwa [bayTime_mu, bayTime_seqMask]) hk (by rwa [bayTime_mu]) ho hal (by rwa [muPlace_congr (samePlaces_bayTime s c _ t)]) (by rwa [bayTime_mu])
  rw [bayTime_mu] at hstep
  have hcount : Kept [.regs, .bays] s ((s.bayTime (bayOf c) t).count (.mu c .dspSkip) 1) := kept_count (by decide) (kept_atBayTime s _ t)
  have hwork : StageWork c ((s.bayTime (bayOf c) t).count (.mu c .dspSkip) 1) ((s.bayTime (bayOf c) t).tokenResolve c) := by
    rw [hstep]
    exact (((stageWork_putWord c _ _ _).trans (stageWork_modDsp _ c _)).trans (stageWork_modDsp _ c _)).trans (stageWork_modDsp _ c _)
  have hexec : exec (.tokenResolve t c) s = .next ((s.bayTime (bayOf c) t).tokenResolve c) := stage_step rfl hr (by rw [hwork.twin, count_twin])
  have hmem : ((s.bayTime (bayOf c) t).tokenResolve c).mem =
      (((s.bayTime (bayOf c) t).count (.mu c .dspSkip) 1).putWord (devAddr c o) (plainRecord 3 0 (s.mu c).dsp.slot)).mem := by
    rw [hstep]
    simp only [State.modDsp, modMu_mem]
  have hbefore : MemAlone (devAddr c o) 16 s ((s.bayTime (bayOf c) t).count (.mu c .dspSkip) 1) := memAlone_of_mem_eq _ _ (hcount.eq_mem (by decide))
  refine ⟨_, hexec, ?_, ?_, ?_, ?_, fun q hq => ?_, ?_, ?_⟩
  · rw [word_congr hmem, word_putWord_same _ _ (hcount.inv hs).1, plainRecord_toNat (by decide) hslot]
  · simp only [hstep, State.modDsp, modMu_reg]
    rw [putWord_reg, count_reg, if_pos rfl, bayTime_reg s t (by simp [bayClockRegs])]
  · rw [hstep, modDsp_dsp, modDsp_dsp, modDsp_dsp, putWord_mu, count_mu, bayTime_mu]
  · exact (hbefore.trans (memAlone_putWord _ _ _)).trans (memAlone_of_mem_eq _ _ hmem)
  · rw [hwork.mus q hq, count_mu, bayTime_mu]
  · rw [hwork.stitch, count_stitch, bayTime_stitch]
  · rw [hstep]
    exact (kept_modDsp (by decide) (kept_modDsp (by decide) (kept_modDsp (by decide) (kept_putWord (by decide) (hcount.mono (by decide)))))).touches

end

end

/-! ### O43 -/

/-- Settles O43, command by command. -/
theorem dispatchPasses : Obligations.DispatchPasses := by
  rintro t c z s m x d rfl hr rfl rfl
  refine ⟨fun g y hg hy hport hst hfree hwait hsent hd hen hcap => ?_, fun h bits hd hphase htok hrows hh hbits => ⟨fun hres => ?_, fun hres hc hf => ?_⟩,
    fun n o hs hd hphase hskip hslot hk hbuf hn ho hal hplace => ?_, fun hd hphase hmask _ hen hhalt hfrozen => ?_,
    fun w p hd htok hidle hp hroom => ?_, fun e hd hphase he => ⟨fun hmesh => ?_, fun y hmesh hq => ?_⟩,
    fun y g u k old sum hy hf hu hcu hk hmade => ⟨fun hg hphase htok hpkts hacked hclosing => ?_, fun p rest hcl hgen hacked hlive hids => ?_⟩⟩
  · subst hd
    obtain ⟨r, hexec, hdsp, hrun, hframe⟩ := pass_starts hr hg hy hport hst hfree hwait hsent hen hcap
    refine ⟨r, hexec, ?_⟩
    dsimp only
    rw [hdsp]
    exact ⟨rfl, rfl, rfl, rfl, by simp [Dsp.begin, hwait], rfl, rfl, retire_of_live _, hrun, hframe⟩
  · obtain ⟨r, hexec, ⟨payload, hdsp⟩, hframe⟩ := token_ranked hr ⟨hphase, htok, hrows, hh⟩ hd hbits hres
    refine ⟨r, hexec, ?_⟩
    dsimp only
    rw [hdsp]
    exact ⟨rfl, rfl, rfl, rfl, rfl, hframe⟩
  · exact reserved_header_faults hr ⟨hphase, htok, hrows, hh⟩ hres ⟨hc, hf⟩
  · obtain ⟨r, hexec, hword, hcount, hdsp, hframe⟩ := token_skipped hs hr hd hphase hskip hslot hk hbuf hn ho hal hplace
    have hptr : Assoc.get 0 (r.mu c).dsp.recPtr (s.mu c).dsp.gen = n + 1 := by
      rw [hdsp]
      exact (Assoc.get_set _ _ _ _ _).trans (if_pos rfl)
    refine ⟨r, hexec, hword, hcount, ?_, ?_, hptr, ?_, hframe⟩
    all_goals
      rw [hdsp]
      rfl
  · exact token_halted hr hd hphase hmask hen hhalt hfrozen
  · exact token_emitted hr hd htok hidle hp hroom
  · exact candidate_without_mesh hr hd hphase he hmesh
  · exact candidate_filled hr hd hphase he hmesh hq
  · subst hg hk
    have hend := passComplete_of_drained (s := s.bayTime (bayOf c) t) (c := c) (y := y) (by rw [bayTime_mu]; exact ⟨hphase, htok, hpkts, hacked, hclosing⟩)
      (by rwa [bayTime_mu]) hf
    rw [bayTime_mu] at hend
    exact pass_completes hr hf hu hcu hmade hend
  · subst hgen hk
    obtain ⟨r, hexec, hdsp, hrest⟩ := pass_completes hr hf hu hcu hmade
      (passComplete_of_closing (s := s.bayTime (bayOf c) t) (by rwa [bayTime_mu]) hacked hlive (by rwa [bayTime_mu]))
    refine ⟨r, hexec, ?_, hrest⟩
    rw [hdsp, hcl, filter_other_ids hids]

end Sys2Proof.Machine
